-- ==== Sys2Proof/Word.lean ====
section
/-! DEFINITION. The word types of the BX-824 model and the sparse table that holds its numbered units. -/

namespace Sys2Proof

abbrev Byte := BitVec 8
abbrev U16 := BitVec 16
abbrev U32 := BitVec 32
abbrev U64 := BitVec 64

/-- A table of numbered units of one kind: entries with strictly rising numbers; a number that is not listed holds the
unit's reset value, which every reader names. -/
abbrev Tab (α : Type) := List (Nat × α)

end Sys2Proof
end

