-- ==== Sys2Proof/Syntax.lean ====
section
/-! DEFINITION. The commands of the block: one constructor of Instr per row of spec/opcode_table.json, with the operands
that reach the block from outside (a descriptor, a register value, a packet, a measured value). -/

namespace Sys2Proof

/-- A submission descriptor as the ring engine holds it: the function and submission ring it came from (R259, R267) and
its 64 bytes, byte o in bits [8o+7:8o] (R269, R3). -/
structure Cmd where
  pf   : Fin 2
  sq   : Fin 64
  desc : BitVec 512
  deriving DecidableEq, Repr

/-- Who makes a register access (R320, R328, R332). -/
inductive Acc where
  | nm0 | nm1 | pf0 | pf1
  | mgmtPriv | mgmt
  | dap
  | other (mid : BitVec 6)
  deriving DecidableEq, Repr

/-- A fabric packet: the 16-byte header of R113 and its payload bytes. -/
structure Packet where
  hdr  : BitVec 128
  data : List Byte
  deriving DecidableEq, Repr

/-- What caused a full reset (R258, R288). -/
inductive ResetCause where
  | sysRstN | perst | hotReset | dlDown | sysReset
  deriving DecidableEq, Repr

/-- A ring of one function: a submission ring, a completion ring or the event ring (R267). -/
inductive RingSel where
  | sq (q : Fin 64) | cq (q : Fin 64) | evq
  deriving DecidableEq, Repr

/-- A ring whose interrupt messages coalesce (R276, R285): a completion ring, or the event ring of a window. -/
inductive CoalRing where
  | cq (q : Fin 64) | evq (w : Fin 64)
  deriving DecidableEq, Repr

/-- What an ECC check of one read found (R301, R306). (DESIGN CHOICE: log entry 5.) -/
inductive Ecc where
  | clean
  | corrected (words : Nat)
  | bad (word : Fin 8) (syndrome : Byte)
  deriving DecidableEq, Repr

/-- Structures that a parity check covers (R306, R307). -/
inductive MemStruct where
  | readQueue | writeQueue | scheduler | eccCache
  deriving DecidableEq, Repr

/-- The timing and format that the MSA of an incoming picture states (R73, R77): encoding 0 RGB, 1 YCbCr 4:4:4,
2 YCbCr 4:2:2, others unsupported; bad marks data sent as DSC or MST (R72). (DESIGN CHOICE: log entry 5.) -/
structure Msa where
  width    : Nat
  height   : Nat
  pclkHz   : Nat
  periodNs : Nat
  lineNs   : Nat
  encoding : Nat
  bpc10    : Bool
  bad      : Bool
  deriving DecidableEq, Repr

/-- A user-data SEI as a receiver reads it (R92): its UUID, payloadSize and VERSION, and the fields that follow in a Veore SEI. -/
structure Sei where
  uuid      : List Byte
  size      : Nat
  version   : Byte
  flags     : Byte
  origin    : U16
  source    : U16
  slice     : Byte
  slices    : Byte
  picCount  : U32
  picEpoch  : U64
  bandEpoch : U64
  firstRow  : U16
  rows      : U16
  refreshN  : Byte
  refreshIdx : Byte
  qp        : Byte
  deriving DecidableEq, Repr

/-- The profiles of Table: supported profiles (R140), and any other. -/
inductive Profile where
  | avcConstrainedBaseline | avcMain | avcHigh | hevcMain | hevcMain10 | hevcMain444x10 | other
  deriving DecidableEq, Repr

/-- Coding tools (R140): those it names as supported, those it names as refused, and any other. -/
inductive Tool where
  | cabac | cavlc | bPictures | reordering | multipleReferences | weightedPrediction | scalingMatrices | transform8x8 | longTerm
  | tiles | wavefront | dependentSlices | transformSkip | crossComponent | recoveryPoint
  | field | fieldSeq | fmo | aso | redundantPictures | dataPartitioning | spSiSlices | extendedPrecision | highThroughput
  | wideImplicitRdpcm | screenContent | multiLayer | other
  deriving DecidableEq, Repr

/-- A sequence parameter set as the stream core's parse gives it (R140 to R142, R162): profile, chroma (0 4:0:0, 1 4:2:0, 2 4:2:2,
3 4:4:4), bit depths, tools, coded and cropped size, the signalled max_dec_pic_buffering and, for an AVC SPS without one, its level's
maximum; and the signalled number of reordered pictures. (DESIGN CHOICE: log entry 5.) -/
structure SpsInfo where
  profile  : Profile
  chroma   : Fin 4
  depthY   : Nat
  depthC   : Nat
  tools    : List Tool
  codedW   : Nat
  codedH   : Nat
  width    : Nat
  height   : Nat
  dpb      : Option Nat
  levelDpb : Nat
  reorder  : Option Nat
  deriving DecidableEq, Repr

/-- A parameter set found in a stream: an SPS with its ID and NAL unit type, or a VPS, SPS or PPS with a value out of range (R172).
(DESIGN CHOICE: log entry 5.) -/
inductive ParamSet where
  | sps (id : Nat) (q : SpsInfo) (nal : Byte)
  | bad (nal : Byte)
  deriving DecidableEq, Repr

/-- What the stream core's parse of a feed found (R141): the parameter sets before its first slice, those after it, and whether it holds slices.
(DESIGN CHOICE: log entry 5.) -/
structure FeedSets where
  lead   : List ParamSet
  rest   : List ParamSet
  slices : Bool
  deriving DecidableEq, Repr

/-- What the stream core's parse of a context's next picture found (R140 to R142, R152, R156, R162): the codec standards give
these values, not this spec, so they reach the block as operands. sets are the parameter sets before it; sps the SPS that its PPS names
(none: no usable PPS); tools those of its slices and PPS; bytes what the picture (its first slice for EARLY) takes in the ring, and next
what the next picture's first slice takes once it has arrived; poc its place in output order; keepBufs the buffers still needed for
reference; release the buffers whose pictures the output process releases before this one. (DESIGN CHOICE: log entry 5.) -/
structure PicInfo where
  sets      : List ParamSet
  sps       : Option Nat
  tools     : List Tool
  nalType   : Byte
  bytes     : Nat
  next      : Option Nat
  output    : Bool
  poc       : Nat
  keepBufs  : List Nat
  release   : List Nat
  irap      : Bool
  recovery  : Bool
  recovStart : Bool
  sei       : Option Sei
  deriving DecidableEq, Repr

/-- A run of decoded samples of one component along a row, in that component's own grid with the cropped picture's top-left at 0, 0. -/
structure PxRun where
  comp : Fin 3
  x    : Int
  y    : Int
  v    : List Nat
  deriving DecidableEq, Repr

/-- What decoding one slice gave (R160, R168 to R172): bytes taken from the ring, its address, the stored rows it covers, the rows now
complete in every column, a value out of range (5) or a bad entropy read (6) that its parse found (0: neither), the ns it took and its luma
pixels, whether it predicts from a missing reference or not at all (intra), its SEI, the decoded samples, and the reference ranges it
reads (buffer, offset, length); the runs of stored rows, first and count, in a tile column begun before, that its address shows lost; with the picture's
last slice, the buffers whose pictures the output process then releases.
(DESIGN CHOICE: log entry 5.) -/
structure SliceInfo where
  bytes      : Nat
  addr       : Nat
  firstRow   : Nat
  rows       : Nat
  rowsDone   : Nat
  fail       : Nat
  ns         : Nat
  luma       : Nat
  missingRef : Bool
  intra      : Bool
  sei        : Option Sei
  px         : List PxRun
  refs       : List (Nat × Nat × Nat)
  rowNs      : Nat
  lost       : List (Nat × Nat)
  last       : Bool
  release    : List Nat
  deriving DecidableEq, Repr

/-- An engine's stall limit (R154), and whether the bytes in its context's ring of host input hold the whole of the picture's next slice.
(DESIGN CHOICE: log entry 5.) -/
structure StallObs where
  eng   : Fin 8
  whole : Bool
  deriving DecidableEq, Repr

/-- A sink's DPCD receiver capabilities (R234 to R236). -/
structure SinkCaps where
  maxRate  : Nat
  maxLanes : Nat
  tps3     : Bool
  tps4     : Bool
  adaptive : Bool
  deriving DecidableEq, Repr

/-- How one attempt at link training ended (R234). (DESIGN CHOICE: log entry 5.) -/
inductive TrainResult where
  | trained (drive : U16) | crFail | eqFail
  deriving DecidableEq, Repr

/-- What ended an EDID read: the bytes of every block, or an absent sink (R237). -/
inductive EdidEnd where
  | bytes (b : List Byte) | absent
  deriving DecidableEq, Repr

/-- An input picture's slice as the encode engine codes it (R86 to R89): its size in bits with SEI and parameter sets at
the QP the loop chose, and the size of the slice held or grey. (DESIGN CHOICE: log entry 5.) -/
structure CodedSlice where
  bits     : Nat
  heldBits : Nat
  deriving DecidableEq, Repr

/-- The four PLLs and sources whose lock the modes depend on (R391). -/
inductive Pll where
  | sys | str | mem
  deriving DecidableEq, Repr

/-- The idle units of R388. -/
inductive PowerUnit where
  | de (e : Fin 8) | ee (e : Fin 2) | cw (p : Fin 4) | out (n : Fin 8) | link (l : Fin 11) | touch (t : Fin 2)
  deriving DecidableEq, Repr

/-- The wake sources of R401. -/
inductive WakeSrc where
  | touch (press : Bool) (sense drive : U16)
  | wakeIn | pcie | link (l : Fin 11)
  deriving DecidableEq, Repr

/-- One eye scan of a lane (R424): the phase positions at which the monitor disagreed on no bit, the data samplers' position among
them, the lowest and the highest voltage offset of the binary search without a disagreement there, in steps of 2 mV below and above zero, and
each data sampler's offset.
(DESIGN CHOICE: log entry 5.) -/
structure Eye where
  clean   : List Bool
  own     : Nat
  below   : Nat
  above   : Nat
  offsets : List Int
  deriving DecidableEq, Repr

/-- A training ordered set as a lane receives it (R108): its LANE, LINK and FLAGS symbols, the sender's address and identity. -/
structure TrnSet where
  lane  : Byte
  link  : Byte
  flags : Byte
  addr  : U16
  uid   : U64
  deriving DecidableEq, Repr

/-- What a link's receiver saw that lets it advance in training (R107 to R109): which lanes show inverted commas in LOCK, and in MAP
the sets that arrived on its lanes 0 and 1 since the row before. (DESIGN CHOICE: log entry 5.) -/
structure TrainObs where
  pol  : BitVec 2
  sets : List (TrnSet × TrnSet)
  deriving DecidableEq, Repr

/-- A packet delivered inside the device with the link it arrived on, none for one that the device sent to itself (R117, R122).
(DESIGN CHOICE: log entry 5.) -/
structure Delivered where
  link : Option (Fin 11)
  pkt  : Packet
  deriving DecidableEq, Repr

/-- Why a channel retrains (R310): the temperature in °C, and whether its DQS oscillator has drifted. (DESIGN CHOICE: log entry 5.) -/
structure RetrainObs where
  temp  : Int
  drift : Bool
  deriving DecidableEq, Repr

/-- How the training of the memory channels ended (R309, R310): each channel's temperature in °C, and the channels that failed with the step
each failed at. (DESIGN CHOICE: log entry 5.) -/
structure DramObs where
  temps  : List Int
  failed : List (Fin 24 × Byte)
  deriving DecidableEq, Repr

/-- The levels of the four straps (R442). -/
structure Straps where
  roleB    : Bool
  halfRate : Bool
  refHcsl  : Bool
  pcieEn   : Bool
  deriving DecidableEq, Repr

/-- The commands of the BX-824, in the order of spec/opcode_table.json. -/
inductive Instr where
  | nop (c : Cmd)
  | fence (c : Cmd)
  | unknownOpcode (c : Cmd)
  | streamOpen (c : Cmd)
  | streamFeed (c : Cmd) (buf : List Byte) (sets : FeedSets)
  | streamClose (c : Cmd)
  | streamFlush (c : Cmd)
  | surfacePool (c : Cmd)
  | encOpen (c : Cmd)
  | encParams (c : Cmd)
  | encClose (c : Cmd)
  | encOutbuf (c : Cmd)
  | captureCfg (c : Cmd) (edid : List Byte)
  | stateLoad (c : Cmd) (buf : List Byte)
  | commit (c : Cmd)
  | liveSet (c : Cmd)
  | slateLoad (c : Cmd) (img : List Byte)
  | modeSet (c : Cmd)
  | fumPolicy (c : Cmd)
  | fumBind (c : Cmd)
  | fumSnapshot (c : Cmd)
  | checkCfg (c : Cmd)
  | routeSet (c : Cmd) (tbl : List Byte)
  | groupSet (c : Cmd)
  | timeCfg (c : Cmd)
  | tephraCfg (c : Cmd)
  | touchMap (c : Cmd)
  | touchRefLoad (c : Cmd) (img : List Byte)
  | mirrorCfg (c : Cmd)
  | dormantEnter (c : Cmd)
  | memWrite (c : Cmd) (buf : List Byte)
  | memRead (c : Cmd)
  | serviceEnter (c : Cmd)
  | serviceExit (c : Cmd)
  | sqTailDoorbell (f : Fin 2) (q : Fin 64) (v : U32) (aligned : Bool)
  | descriptorFetch (desc : BitVec 512) (err : Bool)
  | cqHeadDoorbell (f : Fin 2) (q : Fin 64) (v : U32) (aligned : Bool)
  | eventRingHeadDoorbell (f : Fin 2) (v : U32) (aligned : Bool)
  | completionWrite (f : Fin 2) (q : Fin 64)
  | cqCoalesceTimeout (f : Fin 2) (ring : CoalRing)
  | registerWrite (a : Acc) (off : BitVec 24) (size : Nat) (full : Bool) (v : U64)
  | ringEnable (a : Acc) (f : Fin 2) (ring : RingSel) (v : U32)
  | sysReset (a : Acc) (v : U32)
  | fullReset (cause : ResetCause)
  | bootstrapWindowWrite (a : Acc) (off : BitVec 20) (size : Nat) (v : U64)
  | sysBootChunk (a : Acc) (v : U32)
  | imageVerificationEnd (key sig : Unit)
  | firmwareUnitStart
  | mbxSel (a : Acc) (m : Fin 4) (v : U32)
  | mailboxLatch (bank : Fin 7) (m : Fin 4)
  | fumLock (a : Acc) (v : U32)
  | fumSelftestRelease (a : Acc) (v : U32)
  | fabGwFailRelease (a : Acc) (v : U32)
  | strDecFaultRelease (a : Acc) (v : U32)
  | cmpFaultRelease (a : Acc) (v : U32)
  | sysRafRelease (a : Acc) (v : U32)
  | sysMpuRelease (a : Acc) (v : U32)
  | sysMpuCtrl (a : Acc) (r : Fin 64) (v : U32)
  | fabNodeAddr (a : Acc) (v : U32)
  | domainClaim (priv : Bool) (dom : BitVec 10) (v : U32)
  | linkEnable (a : Acc) (l : Fin 11) (v : U32)
  | linkRetrain (a : Acc) (l : Fin 11) (v : U32)
  | edidRead (a : Acc) (n : Fin 8) (v : U32)
  | edidReadEnd (n : Fin 8) (res : EdidEnd)
  | dpRetrain (a : Acc) (n : Fin 8) (v : U32)
  | pairClaim (a : Acc) (v : U32)
  | pairRelease (a : Acc) (v : U32)
  | sysLifecycleAdv (a : Acc) (v : U32)
  | dapEn (a : Acc) (v : U32)
  | edgAonClear (a : Acc) (v : U32)
  | cmpSlateBase (a : Acc) (v : U32)
  | recal (a : Acc) (l : Fin 11) (v : U32)
  | laneOverride (a : Acc) (l : Fin 11) (v : U32)
  | outDpTrimOvr (a : Acc) (n : Fin 8) (v : U32)
  | touchEnable (a : Acc) (t : Fin 2) (v : U32)
  | touchDisable (a : Acc) (t : Fin 2) (v : U32)
  | touchHold (a : Acc) (t : Fin 2) (v : U32)
  | dapCmd (w : U64)
  | dapData (w : U32)
  | windowAccess (f : Fin 2) (doorbell : Bool) (addr : U32) (write : Bool) (size : Nat) (full : Bool) (v : U64)
  | pcieLinkUp
  | packetReceive (l : Fin 11) (p : Packet) (crc : U32) (abt : Bool)
  | linkCrcWindowEnd (l : Fin 11)
  | packetEnd (l : Fin 11)
  | skp (l : Fin 11)
  | reorderRelease (l : Fin 11)
  | trainingStateAdvance (l : Fin 11) (obs : TrainObs)
  | linkTrainTimeout (l : Fin 11)
  | backoffExpiry (l : Fin 11)
  | capsRepeat (l : Fin 11)
  | caps (l : Fin 11) (payload : BitVec 256)
  | codeError (l : Fin 11) (lane : Fin 2) (symbol : Nat)
  | lockLost (l : Fin 11) (lane : Fin 2)
  | sync (l : Fin 11) (payload : BitVec 256)
  | reply (l : Fin 11) (payload : BitVec 256)
  | timeExchangePeriod
  | holdoverLimitExpiry
  | mgmtRequest (l : Option (Fin 11)) (p : Packet)
  | resp (r : Delivered)
  | mgmtRetryTimeout (flow : Fin 3) (peer : BitVec 10)
  | eventPacket (p : Packet)
  | streamDemux (p : Packet)
  | rasterPacket (p : Packet)
  | mirrorPacket (p : Packet)
  | resyncReq
  | mirrorAck (p : Packet)
  | ackTimeout
  | fumaroleTick
  | recordLatch (tile : Fin 4096)
  | scanStart (tile : Fin 4096)
  | tileEventWindowEnd (tile : Fin 4096)
  | outputLine (n : Fin 8) (y : Nat) (late : List (Fin 4096)) (linkXor : U16 × U16 × U16)
  | frameStart (n : Fin 8)
  | vblankLineBoundary (n : Fin 8)
  | commitValidation (p : Fin 8)
  | commitApply (n : Fin 8)
  | modeSetApply (n : Fin 8)
  | checkCfgApply (k : Fin 128)
  | checkResult (k : Fin 128)
  | chkResultWindowEnd (k : Fin 128)
  | slateCopyEnd (slot : Fin 256)
  | snapshotWriteEnd
  | capturePictureStart (p : Fin 4) (m : Msa)
  | captureBand (p : Fin 4) (elems : List (List (List U16)))
  | capSignalLoss (p : Fin 4)
  | hpdPulseEnd (p : Fin 4)
  | sinkLinkTraining (p : Fin 4) (trained : Bool) (rate : Fin 4) (lanes : Nat)
  | encPictureStart (h : Fin 8)
  | sliceCoding (h : Fin 8) (sl : CodedSlice)
  | sliceReady (h : Fin 8) (params nal : List Byte)
  | keepalivePicture (h : Fin 8)
  | keepaliveExpiry (h : Fin 8)
  | pictureStart (e : Fin 8) (ready : List (Fin 256 × PicInfo))
  | sliceDecode (e : Fin 8) (sl : SliceInfo)
  | stallLimit (o : StallObs)
  | decConcealWindowEnd (k : Fin 256)
  | hpdUnplug (n : Fin 8)
  | hpdPlug (n : Fin 8) (caps : SinkCaps)
  | irqHpd (n : Fin 8) (lost : Bool)
  | dpLinkTraining (n : Fin 8) (res : TrainResult)
  | trainingRetry (n : Fin 8)
  | memoryRequest (mid : BitVec 6) (addr : BitVec 40) (len : Nat) (write : Bool) (data : List Byte)
  | channelIssue (ch : Fin 24) (ecc : Ecc)
  | commandError (ch : Option (Fin 24)) (what : MemStruct)
  | throttleExpiry (mid : BitVec 6)
  | scrubRead (ch : Fin 24) (ecc : Ecc)
  | refresh (ch : Fin 24) (bank : Fin 16)
  | channelRetrain (ch : Fin 24) (obs : RetrainObs)
  | memoryTrainingEnd (density : List Nat) (obs : DramObs)
  | segmentInitialized
  | parityScrub (found : List (BitVec 24))
  | autoClaim
  | actingOwner
  | pairConflict
  | relinquish (trig : Fin 12)
  | nm0Watchdog
  | stateDisagree (kind : Fin 3) (idx : Byte)
  | thermalGovernor (temps : List Int)
  | thermalTrip
  | dormantThermalTrip (temp : Int)
  | thermalCut
  | pllLockLoss (p : Pll) (us100 : Bool)
  | idleGating (u : PowerUnit)
  | unitWake (u : PowerUnit)
  | dormantPowerDown
  | wake (src : WakeSrc)
  | resume (imageOk : Bool)
  | supplyDropout
  | aonReset
  | scanCycle (t : Fin 2) (nodes : List U16) (selfs : List U16) (noise : List U16)
  | wakeScan (sense : List U16) (drive : List U16)
  | laneTempCheck (l : Fin 11) (lane : Fin 2) (temp : Int)
  | classTRun (l : Fin 11) (lane : Fin 2) (eye : Eye)
  | eyeScan (l : Fin 11) (lane : Fin 2) (eye : Eye)
  | correctionStep (l : Fin 11) (lane : Fin 2)
  | resetRelease (straps : Straps) (calf : BitVec 11)
  | pairOwnIRise
  | pllRelock (p : Pll)
  | timeUnlockLimitExpiry
  | bootChunkCopyEnd
  | channelRetrainEnd (ch : Fin 24) (ns : U16)
  deriving DecidableEq, Repr

end Sys2Proof
end

