-- ==== Sys2Proof/Decode.lean ====
section
/-! DEFINITION. Decoding of table words: spec/opcode_table.json gives no row any bits, so no word spells a command. -/

namespace Sys2Proof

/-- The command that a table word spells: none, because the table gives bits to no row. (DESIGN CHOICE: log entry 3.) -/
def decodeTableWord (_nbits _w : Nat) : Option Instr := none

end Sys2Proof
end

