-- ==== Sys2Proof/Config.lean ====
section
/-! DEFINITION. The values the spec leaves open: each is a constant without a body, so that nothing can be proved of its value. -/

namespace Sys2Proof

/-- Tephra's probability draw (R133): whether the LFSR state selects a packet at 2^-k. The spec names an LFSR and gives no
polynomial and no rule from its state to a draw. (DESIGN CHOICE: log entry 38.) -/
opaque Config.tephraDraw : U32 → Nat → Bool
/-- Tephra's LFSR: the state after one draw (R133); the spec gives no polynomial. (DESIGN CHOICE: log entry 38.) -/
opaque Config.tephraNext : U32 → U32
/-- Which of the remaining bits Tephra flips next (R133): an index for each LFSR state and flip number.
(DESIGN CHOICE: log entry 38.) -/
opaque Config.tephraBit : U32 → Nat → Nat
/-- A value the spec says nothing of, fresh for each number of State.free. (DESIGN CHOICE: log entry 1.) -/
opaque Config.freeNat : Nat → Nat

/-- Word k of the DRAM test's LFSR pattern (R408); the spec gives no polynomial and no seed. (DESIGN CHOICE: log entry 75.) -/
opaque Config.testLfsr : Nat → U64

/-- The servo's reference correction in ppb (R54, R55), fresh for each number: the spec bounds it and gives no law.
(DESIGN CHOICE: log entry 22.) -/
opaque Config.servoRef : Nat → Int
/-- The magnitude of the servo's slewing part in ppb (R54, R55). (DESIGN CHOICE: log entry 22.) -/
opaque Config.servoSlew : Nat → Nat

/-- A pixel of the ROM's glyphs, whose shapes the spec does not give: kind 0 the badge of a state code (R19), 1 the text of the
service pattern, 2 a character code (R253); then the index, x and y. (DESIGN CHOICE: log entry 58.) -/
opaque Config.glyph : Nat → Nat → Nat → Nat → Bool

/-- The Class F trim codes in OTP, which the spec does not give: output, lane, 0 swing or 1 pre-emphasis, level (R419).
(DESIGN CHOICE: log entry 108.) -/
opaque Config.classF : Nat → Nat → Nat → Nat → Nat

/-- The 32-bit signature of a CTU's input pixels, by row and component (R91); the spec gives no function.
(DESIGN CHOICE: log entry 139.) -/
opaque Config.ctuSig : List (List (List U16)) → U32

/-- The ECC byte of an 8-byte word (R294): a (72,64) SEC-DED code, whose matrix the spec does not give. (DESIGN CHOICE: log entry 141.) -/
opaque Config.eccByte : U64 → Byte

end Sys2Proof
end

