-- ==== Sys2Proof/Machine/RegMap.lean ====
section
/-! DEFINITION. The register map of the device window: every register of the spec with its address, its instance strides and
its fields (bits, access code, reset value), from the register tables of the chapters (R7, R318, Table: regions). A register
is named Reg.<its manual name>; its value is the window offset of its first instance. -/

namespace Sys2Proof.Machine

/-- Access codes of R7. -/
inductive AccCode where
  | ro | rs | rw | wo | w1
  deriving DecidableEq, Repr

/-- A field: its manual name, its bits [hi:lo], its access code, whether the code carries the PV- prefix (R320), and its
reset value. -/
structure Fld where
  name  : String
  hi    : Nat
  lo    : Nat
  acc   : AccCode
  pv    : Bool
  reset : Nat
  deriving DecidableEq, Repr

/-- A register block: name, window offset of instance (0, 0), and up to two instance indices with count and stride. -/
structure RegDef where
  name : String
  base : Nat
  n1   : Nat
  s1   : Nat
  n2   : Nat
  s2   : Nat
  flds : List Fld
  deriving DecidableEq, Repr

/-- A field without the PV- prefix. -/
def fld (n : String) (hi lo : Nat) (a : AccCode) (r : Nat) : Fld := ⟨n, hi, lo, a, false, r⟩

/-- A field with the PV- prefix. -/
def pvf (n : String) (hi lo : Nat) (a : AccCode) (r : Nat) : Fld := ⟨n, hi, lo, a, true, r⟩

abbrev Reg.SYS_ID : Nat := 0x000000
abbrev Reg.SYS_LIFECYCLE : Nat := 0x000004
abbrev Reg.SYS_DEBUG_CTRL : Nat := 0x000008
abbrev Reg.SYS_JTAG_IDCODE : Nat := 0x00000C
abbrev Reg.SYS_READY0 : Nat := 0x000010
abbrev Reg.SYS_READY1 : Nat := 0x000014
abbrev Reg.SYS_LIFECYCLE_ADV : Nat := 0x000018
abbrev Reg.SYS_RESET : Nat := 0x000020
abbrev Reg.SYS_APERTURE_HI : Nat := 0x000030
abbrev Reg.SYS_MODE : Nat := 0x000040
abbrev Reg.SYS_PWR_STATUS : Nat := 0x000044
abbrev Reg.SYS_PWR_IDLE : Nat := 0x000048
abbrev Reg.SYS_CLK_STATUS : Nat := 0x00004C
abbrev Reg.SYS_BOOT_CHUNK : Nat := 0x000100
abbrev Reg.SYS_BOOT_STATUS : Nat := 0x000104
abbrev Reg.SYS_BOOT_SVN : Nat := 0x000108
abbrev Reg.MBX_SEL : Nat := 0x000200
abbrev Reg.MBX_STAT : Nat := 0x000204
abbrev Reg.MBX_DATA : Nat := 0x000210
abbrev Reg.SYS_RAF_CAP0 : Nat := 0x000300
abbrev Reg.SYS_RAF_CAP1 : Nat := 0x000304
abbrev Reg.SYS_RAF_RELEASE : Nat := 0x000308
abbrev Reg.SYS_RAF_CNT : Nat := 0x00030C
abbrev Reg.SYS_PARITY_STATUS : Nat := 0x000310
abbrev Reg.SYS_PARITY_CNT : Nat := 0x000314
abbrev Reg.SYS_PARITY_BAD : Nat := 0x000318
abbrev Reg.SYS_MPU_BASE : Nat := 0x040000
abbrev Reg.SYS_MPU_LIMIT : Nat := 0x040004
abbrev Reg.SYS_MPU_MASK_LO : Nat := 0x040008
abbrev Reg.SYS_MPU_MASK_HI : Nat := 0x04000C
abbrev Reg.SYS_MPU_CTRL : Nat := 0x040010
abbrev Reg.SYS_MPU_CAP0 : Nat := 0x041000
abbrev Reg.SYS_MPU_CAP1 : Nat := 0x041004
abbrev Reg.SYS_MPU_RELEASE : Nat := 0x041008
abbrev Reg.SYS_MPU_DENY_CNT : Nat := 0x04100C
abbrev Reg.HST_SQ_BASE_LO : Nat := 0x210000
abbrev Reg.HST_SQ_BASE_HI : Nat := 0x210004
abbrev Reg.HST_SQ_CTRL : Nat := 0x210008
abbrev Reg.HST_SQ_STATUS : Nat := 0x21000C
abbrev Reg.HST_CQ_BASE_LO : Nat := 0x210010
abbrev Reg.HST_CQ_BASE_HI : Nat := 0x210014
abbrev Reg.HST_CQ_CTRL : Nat := 0x210018
abbrev Reg.HST_CQ_STATUS : Nat := 0x21001C
abbrev Reg.HST_EVQ_BASE_LO : Nat := 0x211000
abbrev Reg.HST_EVQ_BASE_HI : Nat := 0x211004
abbrev Reg.HST_EVQ_CTRL : Nat := 0x211008
abbrev Reg.HST_EVQ_STATUS : Nat := 0x21100C
abbrev Reg.HST_EVQ_MASK : Nat := 0x211010
abbrev Reg.HST_EVQ_LOST : Nat := 0x211014
abbrev Reg.HST_DB_FAULT_CNT : Nat := 0x211018
abbrev Reg.HST_RING_FAULT_CNT : Nat := 0x21101C
abbrev Reg.MEM_CONFIG : Nat := 0x400000
abbrev Reg.MEM_STATUS : Nat := 0x400004
abbrev Reg.MEM_PASR_RETAIN : Nat := 0x400008
abbrev Reg.MEM_WQ_MARK : Nat := 0x40000C
abbrev Reg.MEM_HAMMER_CFG : Nat := 0x400010
abbrev Reg.MEM_SCRUB_CFG : Nat := 0x400014
abbrev Reg.MEM_THROTTLE_LO : Nat := 0x400020
abbrev Reg.MEM_THROTTLE_HI : Nat := 0x400024
abbrev Reg.MEM_HAMMER_CNT : Nat := 0x400028
abbrev Reg.MEM_HAZARD_CNT : Nat := 0x40002C
abbrev Reg.MEM_SCRUB_PASSES : Nat := 0x400030
abbrev Reg.MEM_ADDR_ERR_CNT : Nat := 0x400034
abbrev Reg.MEM_CE_CNT : Nat := 0x400100
abbrev Reg.MEM_RETRAIN_CNT : Nat := 0x400180
abbrev Reg.STR_DEC_ENG_STATUS : Nat := 0x600000
abbrev Reg.STR_DEC_ENG_LOAD : Nat := 0x600004
abbrev Reg.STR_DEC_ENG_ABORT_CNT : Nat := 0x600008
abbrev Reg.STR_DEC_ENG_BUDGET_CNT : Nat := 0x60000C
abbrev Reg.STR_DEC_ENG_CLAMP_CNT : Nat := 0x600010
abbrev Reg.STR_DEC_CTX_STATUS : Nat := 0x640000
abbrev Reg.STR_DEC_CTX_PIC : Nat := 0x640004
abbrev Reg.STR_DEC_CTX_DECODED : Nat := 0x640008
abbrev Reg.STR_DEC_CTX_SKIPPED : Nat := 0x64000C
abbrev Reg.STR_DEC_CTX_ABORTED : Nat := 0x640010
abbrev Reg.STR_DEC_CTX_SUBST : Nat := 0x640014
abbrev Reg.STR_DEC_CTX_SEQGAP : Nat := 0x640018
abbrev Reg.STR_DEC_CTX_ESDROP : Nat := 0x64001C
abbrev Reg.STR_DEC_CTX_LATE : Nat := 0x640020
abbrev Reg.STR_DEC_CTX_CLEAN : Nat := 0x640024
abbrev Reg.STR_DEC_CTX_SHARED : Nat := 0x640028
abbrev Reg.STR_DEC_CTX_NOSEI : Nat := 0x64002C
abbrev Reg.STR_DEC_CTX_REFUSE : Nat := 0x640030
abbrev Reg.STR_DEMUX_UNMATCHED : Nat := 0x680000
abbrev Reg.STR_DEMUX_STALE : Nat := 0x680004
abbrev Reg.STR_DEC_FAULT_CAP0 : Nat := 0x680010
abbrev Reg.STR_DEC_FAULT_CAP1 : Nat := 0x680014
abbrev Reg.STR_DEC_FAULT_RELEASE : Nat := 0x680018
abbrev Reg.STR_CAP_STATUS : Nat := 0x740000
abbrev Reg.STR_CAP_TIMING : Nat := 0x740004
abbrev Reg.STR_CAP_PERIOD : Nat := 0x740008
abbrev Reg.STR_CAP_PICS : Nat := 0x74000C
abbrev Reg.STR_CAP_REFUSED : Nat := 0x740010
abbrev Reg.STR_CAP_SKIP : Nat := 0x740014
abbrev Reg.STR_ENC_STATUS : Nat := 0x780000
abbrev Reg.STR_ENC_BITS : Nat := 0x780004
abbrev Reg.STR_ENC_CPB : Nat := 0x780008
abbrev Reg.STR_ENC_HELD_CNT : Nat := 0x78000C
abbrev Reg.STR_ENC_DROP_CNT : Nat := 0x780010
abbrev Reg.STR_ENC_FABDROP_CNT : Nat := 0x780014
abbrev Reg.STR_ENC_HOSTDROP_CNT : Nat := 0x780018
abbrev Reg.STR_ENC_PICS : Nat := 0x78001C
abbrev Reg.STR_ENC_LOAD : Nat := 0x780800
abbrev Reg.CMP_CAPS : Nat := 0x800000
abbrev Reg.CMP_LBUF_POOL : Nat := 0x800004
abbrev Reg.CMP_SLATE_BASE : Nat := 0x800010
abbrev Reg.CMP_SLATE_LOADED : Nat := 0x800020
abbrev Reg.CMP_FAULT_CAP0 : Nat := 0x800040
abbrev Reg.CMP_FAULT_CAP1 : Nat := 0x800044
abbrev Reg.CMP_FAULT_RELEASE : Nat := 0x800048
abbrev Reg.CMP_PIPE_STATUS : Nat := 0x810000
abbrev Reg.CMP_PIPE_FRAME : Nat := 0x810004
abbrev Reg.CMP_LBUF_PEAK : Nat := 0x810008
abbrev Reg.CMP_COMMIT_CNT : Nat := 0x81000C
abbrev Reg.CMP_LATE_CNT : Nat := 0x810010
abbrev Reg.CMP_REJECT_CNT : Nat := 0x810014
abbrev Reg.CMP_RACE_CNT : Nat := 0x810018
abbrev Reg.CMP_UNDERRUN_CNT : Nat := 0x81001C
abbrev Reg.FUM_CAPS : Nat := 0x980000
abbrev Reg.FUM_STATUS : Nat := 0x980004
abbrev Reg.FUM_LOCK : Nat := 0x980008
abbrev Reg.FUM_UNCERT : Nat := 0x98000C
abbrev Reg.FUM_SELFTEST_CAP0 : Nat := 0x980010
abbrev Reg.FUM_SELFTEST_CAP1 : Nat := 0x980014
abbrev Reg.FUM_SELFTEST_CAP2 : Nat := 0x980018
abbrev Reg.FUM_SELFTEST_RELEASE : Nat := 0x98001C
abbrev Reg.FUM_SELFTEST_CNT : Nat := 0x980020
abbrev Reg.FUM_NEG_AGE_CNT : Nat := 0x980024
abbrev Reg.FUM_COLOUR : Nat := 0x980040
abbrev Reg.FUM_TILE_COUNT : Nat := 0x980080
abbrev Reg.FUM_SRC_COUNT : Nat := 0x9800A0
abbrev Reg.OUT_TG_CTRL : Nat := 0xA10000
abbrev Reg.OUT_TG_STATUS : Nat := 0xA10004
abbrev Reg.OUT_TG_FRAME : Nat := 0xA10008
abbrev Reg.OUT_TG_PERIOD : Nat := 0xA1000C
abbrev Reg.OUT_TG_PACE_MAX_CNT : Nat := 0xA10010
abbrev Reg.OUT_TG_PHASE : Nat := 0xA10020
abbrev Reg.OUT_TG_TRIM : Nat := 0xA10024
abbrev Reg.OUT_TG_LOCK : Nat := 0xA10028
abbrev Reg.OUT_DP_STATUS : Nat := 0xA20000
abbrev Reg.OUT_DP_CTRL : Nat := 0xA20004
abbrev Reg.OUT_DP_DRIVE : Nat := 0xA20008
abbrev Reg.OUT_DP_TRAIN_FAIL : Nat := 0xA2000C
abbrev Reg.OUT_DP_IRQ_HPD : Nat := 0xA20010
abbrev Reg.OUT_DP_TRIM_OVR : Nat := 0xA20014
abbrev Reg.OUT_CHK_FAIL : Nat := 0xA30000
abbrev Reg.OUT_CHK_ENABLED : Nat := 0xA30020
abbrev Reg.OUT_CHK_SUMMARY : Nat := 0xA30040
abbrev Reg.OUT_CHK_FAIL_CNT : Nat := 0xA30100
abbrev Reg.OUT_SVC_COLOUR : Nat := 0xA40000
abbrev Reg.OUT_SVC_FORCE : Nat := 0xA40004
abbrev Reg.FAB_LINK_CTRL : Nat := 0xC00000
abbrev Reg.FAB_LINK_STATUS : Nat := 0xC00004
abbrev Reg.FAB_LINK_PEER : Nat := 0xC00008
abbrev Reg.FAB_LINK_CRC_ERR : Nat := 0xC0000C
abbrev Reg.FAB_LINK_ABT : Nat := 0xC00010
abbrev Reg.FAB_LINK_CODE_ERR : Nat := 0xC00014
abbrev Reg.FAB_LINK_FORMAT_ERR : Nat := 0xC00018
abbrev Reg.FAB_LINK_TX_DROP : Nat := 0xC0001C
abbrev Reg.FAB_LINK_TRAIN_FAIL : Nat := 0xC00020
abbrev Reg.FAB_NODE_ADDR : Nat := 0xC40000
abbrev Reg.FAB_DOMAIN : Nat := 0xC40004
abbrev Reg.FAB_HOP_DROP : Nat := 0xC40008
abbrev Reg.FAB_NOROUTE_DROP : Nat := 0xC4000C
abbrev Reg.FAB_CLASS_DROP : Nat := 0xC40010
abbrev Reg.FAB_ROUTE_TBL : Nat := 0xC40400
abbrev Reg.FAB_GROUP : Nat := 0xC40800
abbrev Reg.FAB_GW_WIN : Nat := 0xC60000
abbrev Reg.FAB_GW_ROUTE : Nat := 0xC60004
abbrev Reg.FAB_GW_MGMT_CFG : Nat := 0xC60800
abbrev Reg.FAB_GW_FAIL_CAP : Nat := 0xC60804
abbrev Reg.FAB_GW_FAIL_ADDR : Nat := 0xC60808
abbrev Reg.FAB_GW_FAIL_RELEASE : Nat := 0xC6080C
abbrev Reg.FAB_GW_FAIL_CNT : Nat := 0xC60810
abbrev Reg.FAB_GW_DENIED_CNT : Nat := 0xC60814
abbrev Reg.FAB_TEPHRA_STATUS : Nat := 0xC80000
abbrev Reg.FAB_TEPHRA_COUNT : Nat := 0xC80040
abbrev Reg.FAB_MIR_STATUS : Nat := 0xCA0000
abbrev Reg.FAB_MIR_ACK : Nat := 0xCA0004
abbrev Reg.FAB_MIR_TX_CNT : Nat := 0xCA0008
abbrev Reg.FAB_MIR_RX_CNT : Nat := 0xCA000C
abbrev Reg.FAB_MIR_GAP_CNT : Nat := 0xCA0010
abbrev Reg.FAB_MIR_REJECT_CNT : Nat := 0xCA0014
abbrev Reg.FAB_MIR_TIMEOUT_CNT : Nat := 0xCA0018
abbrev Reg.FAB_MIR_RESYNC_CNT : Nat := 0xCA001C
abbrev Reg.FAB_LANE_CFG : Nat := 0xCC0000
abbrev Reg.FAB_LANE_BOUND : Nat := 0xCC0100
abbrev Reg.FAB_LANE_CTRL : Nat := 0xCC0104
abbrev Reg.FAB_LANE_STATUS : Nat := 0xCC0108
abbrev Reg.FAB_LANE_RUNS : Nat := 0xCC0200
abbrev Reg.FAB_TIME_STATUS : Nat := 0xD00000
abbrev Reg.FAB_TIME_RATE : Nat := 0xD00004
abbrev Reg.FAB_TIME_UNCERT : Nat := 0xD00008
abbrev Reg.FAB_TIME_OFFSET : Nat := 0xD0000C
abbrev Reg.FAB_TIME_HOLD : Nat := 0xD00010
abbrev Reg.EDG_THERM_CFG : Nat := 0xE00000
abbrev Reg.EDG_THERM_STATUS : Nat := 0xE00004
abbrev Reg.EDG_THERM_TEMP : Nat := 0xE00010
abbrev Reg.EDG_AON_CLEAR : Nat := 0xE00040
abbrev Reg.EDG_CALF_STATUS : Nat := 0xE00080
abbrev Reg.EDG_PAIR_STATUS : Nat := 0xE20000
abbrev Reg.EDG_PAIR_CTRL : Nat := 0xE20004
abbrev Reg.EDG_PAIR_TRIG : Nat := 0xE20008
abbrev Reg.EDG_PAIR_CFG : Nat := 0xE2000C
abbrev Reg.EDG_PAIR_RELQ_CNT : Nat := 0xE20010
abbrev Reg.EDG_PAIR_TAKEOVER_CNT : Nat := 0xE20014
abbrev Reg.EDG_PAIR_CONFLICT_CNT : Nat := 0xE20018
abbrev Reg.EDG_PAIR_GATED_CNT : Nat := 0xE2001C
abbrev Reg.EDG_TCH_CTRL : Nat := 0xE40000
abbrev Reg.EDG_TCH_SCAN : Nat := 0xE40004
abbrev Reg.EDG_TCH_FREQ : Nat := 0xE40008
abbrev Reg.EDG_TCH_THR : Nat := 0xE40018
abbrev Reg.EDG_TCH_THR2 : Nat := 0xE4001C
abbrev Reg.EDG_TCH_TIME : Nat := 0xE40020
abbrev Reg.EDG_TCH_TEST : Nat := 0xE40024
abbrev Reg.EDG_TCH_PITCH : Nat := 0xE40028
abbrev Reg.EDG_TCH_STATUS : Nat := 0xE40040
abbrev Reg.EDG_TCH_CYCLE : Nat := 0xE40044
abbrev Reg.EDG_TCH_NOISE : Nat := 0xE40048
abbrev Reg.EDG_TCH_OPEN : Nat := 0xE40060
abbrev Reg.EDG_TCH_SHORT : Nat := 0xE40080
abbrev Reg.EDG_TCH_HOP_CNT : Nat := 0xE400A0
abbrev Reg.EDG_TCH_WATER_CNT : Nat := 0xE400A4
abbrev Reg.EDG_TCH_RESEED_CNT : Nat := 0xE400A8
abbrev Reg.EDG_TCH_ANCHOR_CNT : Nat := 0xE400AC
abbrev Reg.EDG_TCH_WAKE : Nat := 0xE42000

/-- Registers of region SYS, part 1. -/
def regsSYS1 : List RegDef := [
  ⟨"SYS_ID", Reg.SYS_ID, 1, 0, 1, 0, [fld "PART" 31 16 .ro 0x824, fld "REV" 15 8 .ro 0xB0, fld "GRADE" 7 0 .ro 0]⟩,
  ⟨"SYS_LIFECYCLE", Reg.SYS_LIFECYCLE, 1, 0, 1, 0, [fld "DAP_PRIV" 5 5 .rs 0, fld "DAP_ENABLED" 4 4 .rs 0, fld "STATE" 1 0 .rs 0]⟩,
  ⟨"SYS_DEBUG_CTRL", Reg.SYS_DEBUG_CTRL, 1, 0, 1, 0, [pvf "DAP_EN" 0 0 .rw 0]⟩,
  ⟨"SYS_JTAG_IDCODE", Reg.SYS_JTAG_IDCODE, 1, 0, 1, 0, [fld "VERSION" 31 28 .ro 1, fld "PART" 27 12 .ro 0x824, fld "MANUF" 11 1 .ro 0, fld "ONE" 0 0 .ro 1]⟩,
  ⟨"SYS_READY0", Reg.SYS_READY0, 1, 0, 1, 0, [fld "READY" 27 0 .rs 0]⟩,
  ⟨"SYS_READY1", Reg.SYS_READY1, 1, 0, 1, 0, [fld "READY" 12 0 .rs 0]⟩,
  ⟨"SYS_LIFECYCLE_ADV", Reg.SYS_LIFECYCLE_ADV, 1, 0, 1, 0, [pvf "KEY" 31 16 .wo 0, pvf "GO" 0 0 .wo 0]⟩,
  ⟨"SYS_RESET", Reg.SYS_RESET, 1, 0, 1, 0, [pvf "KEY" 31 16 .wo 0, pvf "GO" 0 0 .wo 0]⟩,
  ⟨"SYS_APERTURE_HI", Reg.SYS_APERTURE_HI, 1, 0, 1, 0, [pvf "BASE" 24 0 .rw 0]⟩,
  ⟨"SYS_MODE", Reg.SYS_MODE, 1, 0, 1, 0, [fld "WAKE_SRC" 19 16 .rs 0, fld "CAUSE" 11 8 .rs 0, fld "MODE" 2 0 .rs 0]⟩,
  ⟨"SYS_PWR_STATUS", Reg.SYS_PWR_STATUS, 1, 0, 1, 0, [fld "ON" 9 0 .rs 5]⟩,
  ⟨"SYS_PWR_IDLE", Reg.SYS_PWR_IDLE, 1, 0, 1, 0, [fld "IDLE_MS" 13 0 .rw 0x64]⟩,
  ⟨"SYS_CLK_STATUS", Reg.SYS_CLK_STATUS, 1, 0, 1, 0, [fld "REF_SEL" 16 16 .rs 0, fld "LC_LOCK" 15 12 .rs 0, fld "PIX_LOCK" 11 4 .rs 0, fld "MEM_LOCK" 3 3 .rs 0, fld "STR_LOCK" 2 2 .rs 0, fld "SYS_LOCK" 1 1 .rs 0, fld "REF_OK" 0 0 .rs 0]⟩,
  ⟨"SYS_BOOT_CHUNK", Reg.SYS_BOOT_CHUNK, 1, 0, 1, 0, [pvf "LAST" 31 31 .wo 0, pvf "LEN" 24 16 .wo 0, pvf "OFFSET" 10 0 .wo 0]⟩,
  ⟨"SYS_BOOT_STATUS", Reg.SYS_BOOT_STATUS, 1, 0, 1, 0, [fld "BUSY" 31 31 .rs 0, fld "VERIFIED" 30 30 .rs 0, fld "FAIL" 18 16 .rs 0, fld "FAILS" 15 0 .rs 0]⟩,
  ⟨"SYS_BOOT_SVN", Reg.SYS_BOOT_SVN, 1, 0, 1, 0, [fld "SVN" 31 0 .rs 0]⟩]

/-- Registers of region SYS, part 2. -/
def regsSYS2 : List RegDef := [
  ⟨"MBX_SEL", Reg.MBX_SEL, 4, 0x20, 1, 0, [fld "ITEM" 31 0 .rw 0]⟩,
  ⟨"MBX_STAT", Reg.MBX_STAT, 4, 0x20, 1, 0, [fld "VALID" 31 31 .rs 0, fld "ERR" 1 0 .rs 0]⟩,
  ⟨"MBX_DATA", Reg.MBX_DATA, 4, 0x20, 4, 0x4, [fld "DATA" 31 0 .rs 0]⟩,
  ⟨"SYS_RAF_CAP0", Reg.SYS_RAF_CAP0, 1, 0, 1, 0, [fld "VALID" 31 31 .rs 0, fld "WRITE" 30 30 .rs 0, fld "CAUSE" 29 26 .rs 0, fld "SIZE" 25 16 .rs 0, fld "MID" 13 8 .rs 0]⟩,
  ⟨"SYS_RAF_CAP1", Reg.SYS_RAF_CAP1, 1, 0, 1, 0, [fld "OFFSET" 23 0 .rs 0]⟩,
  ⟨"SYS_RAF_RELEASE", Reg.SYS_RAF_RELEASE, 1, 0, 1, 0, [fld "RELEASE" 0 0 .wo 0]⟩,
  ⟨"SYS_RAF_CNT", Reg.SYS_RAF_CNT, 1, 0, 1, 0, [fld "COUNT" 31 0 .rs 0]⟩,
  ⟨"SYS_PARITY_STATUS", Reg.SYS_PARITY_STATUS, 1, 0, 1, 0, [fld "MISMATCH" 31 31 .rs 0, fld "OFFSET" 23 0 .rs 0]⟩,
  ⟨"SYS_PARITY_CNT", Reg.SYS_PARITY_CNT, 1, 0, 1, 0, [fld "COUNT" 31 0 .rs 0]⟩,
  ⟨"SYS_PARITY_BAD", Reg.SYS_PARITY_BAD, 1, 0, 1, 0, [fld "COUNT" 31 0 .rs 0]⟩,
  ⟨"SYS_MPU_BASE", Reg.SYS_MPU_BASE, 64, 0x20, 1, 0, [pvf "PAGE" 27 0 .rw 0]⟩,
  ⟨"SYS_MPU_LIMIT", Reg.SYS_MPU_LIMIT, 64, 0x20, 1, 0, [pvf "PAGE" 27 0 .rw 0]⟩,
  ⟨"SYS_MPU_MASK_LO", Reg.SYS_MPU_MASK_LO, 64, 0x20, 1, 0, [pvf "MIDS" 31 0 .rw 0]⟩,
  ⟨"SYS_MPU_MASK_HI", Reg.SYS_MPU_MASK_HI, 64, 0x20, 1, 0, [pvf "MIDS" 31 0 .rw 0]⟩,
  ⟨"SYS_MPU_CTRL", Reg.SYS_MPU_CTRL, 64, 0x20, 1, 0, [pvf "LOCK" 2 2 .w1 0, pvf "ENABLE" 1 1 .rw 0, fld "SHADOW_DIFFERS" 0 0 .rs 0]⟩,
  ⟨"SYS_MPU_CAP0", Reg.SYS_MPU_CAP0, 1, 0, 1, 0, [pvf "VALID" 31 31 .rs 0, pvf "WRITE" 30 30 .rs 0, pvf "SIZE" 29 20 .rs 0, pvf "MID" 13 8 .rs 0, pvf "ADDR_HI" 7 0 .rs 0]⟩]

/-- Registers of region SYS, part 3. -/
def regsSYS3 : List RegDef := [
  ⟨"SYS_MPU_CAP1", Reg.SYS_MPU_CAP1, 1, 0, 1, 0, [pvf "ADDR_LO" 31 0 .rs 0]⟩,
  ⟨"SYS_MPU_RELEASE", Reg.SYS_MPU_RELEASE, 1, 0, 1, 0, [pvf "RELEASE" 0 0 .wo 0]⟩,
  ⟨"SYS_MPU_DENY_CNT", Reg.SYS_MPU_DENY_CNT, 1, 0, 1, 0, [pvf "COUNT" 31 0 .rs 0]⟩]

/-- Registers of region SYS. -/
def regsSYS : List RegDef := regsSYS1 ++ regsSYS2 ++ regsSYS3

/-- Registers of region HST, part 1. -/
def regsHST1 : List RegDef := [
  ⟨"HST_SQ_BASE_LO", Reg.HST_SQ_BASE_LO, 2, 0x10000, 64, 0x40, [fld "ADDR" 31 0 .rw 0]⟩,
  ⟨"HST_SQ_BASE_HI", Reg.HST_SQ_BASE_HI, 2, 0x10000, 64, 0x40, [fld "ADDR" 31 0 .rw 0]⟩,
  ⟨"HST_SQ_CTRL", Reg.HST_SQ_CTRL, 2, 0x10000, 64, 0x40, [fld "ENABLE" 31 31 .w1 0, fld "LOG2_SIZE" 19 16 .rw 0, fld "PRIO" 1 0 .rw 0]⟩,
  ⟨"HST_SQ_STATUS", Reg.HST_SQ_STATUS, 2, 0x10000, 64, 0x40, [fld "ENABLED" 31 31 .rs 0, fld "HALTED" 30 30 .rs 0, fld "WAIT_CQ" 29 29 .rs 0, fld "TAIL" 27 16 .rs 0, fld "HEAD" 11 0 .rs 0]⟩,
  ⟨"HST_CQ_BASE_LO", Reg.HST_CQ_BASE_LO, 2, 0x10000, 64, 0x40, [fld "ADDR" 31 0 .rw 0]⟩,
  ⟨"HST_CQ_BASE_HI", Reg.HST_CQ_BASE_HI, 2, 0x10000, 64, 0x40, [fld "ADDR" 31 0 .rw 0]⟩,
  ⟨"HST_CQ_CTRL", Reg.HST_CQ_CTRL, 2, 0x10000, 64, 0x40, [fld "ENABLE" 31 31 .w1 0, fld "IRQ_EN" 30 30 .rw 0, fld "LOG2_SIZE" 27 24 .rw 0, fld "VECTOR" 21 16 .rw 0, fld "COAL_US" 15 8 .rw 0, fld "COAL_CNT" 7 0 .rw 1]⟩,
  ⟨"HST_CQ_STATUS", Reg.HST_CQ_STATUS, 2, 0x10000, 64, 0x40, [fld "ENABLED" 31 31 .rs 0, fld "FULL" 30 30 .rs 0, fld "PHASE" 29 29 .rs 1, fld "TAIL" 27 16 .rs 0, fld "HEAD" 11 0 .rs 0]⟩,
  ⟨"HST_EVQ_BASE_LO", Reg.HST_EVQ_BASE_LO, 2, 0x10000, 1, 0, [fld "ADDR" 31 0 .rw 0]⟩,
  ⟨"HST_EVQ_BASE_HI", Reg.HST_EVQ_BASE_HI, 2, 0x10000, 1, 0, [fld "ADDR" 31 0 .rw 0]⟩,
  ⟨"HST_EVQ_CTRL", Reg.HST_EVQ_CTRL, 2, 0x10000, 1, 0, [fld "ENABLE" 31 31 .w1 0, fld "IRQ_EN" 30 30 .rw 0, fld "LOG2_SIZE" 27 24 .rw 0, fld "VECTOR" 21 16 .rw 0, fld "COAL_US" 15 8 .rw 0, fld "COAL_CNT" 7 0 .rw 1]⟩,
  ⟨"HST_EVQ_STATUS", Reg.HST_EVQ_STATUS, 2, 0x10000, 1, 0, [fld "ENABLED" 31 31 .rs 0, fld "FULL" 30 30 .rs 0, fld "PHASE" 29 29 .rs 1, fld "TAIL" 27 16 .rs 0, fld "HEAD" 11 0 .rs 0]⟩,
  ⟨"HST_EVQ_MASK", Reg.HST_EVQ_MASK, 2, 0x10000, 1, 0, [pvf "REGIONS" 7 0 .rw 0]⟩,
  ⟨"HST_EVQ_LOST", Reg.HST_EVQ_LOST, 2, 0x10000, 1, 0, [fld "COUNT" 31 0 .rs 0]⟩,
  ⟨"HST_DB_FAULT_CNT", Reg.HST_DB_FAULT_CNT, 2, 0x10000, 1, 0, [fld "COUNT" 31 0 .rs 0]⟩,
  ⟨"HST_RING_FAULT_CNT", Reg.HST_RING_FAULT_CNT, 2, 0x10000, 1, 0, [fld "COUNT" 31 0 .rs 0]⟩]

/-- Registers of region HST. -/
def regsHST : List RegDef := regsHST1

/-- Registers of region MEM, part 1. -/
def regsMEM1 : List RegDef := [
  ⟨"MEM_CONFIG", Reg.MEM_CONFIG, 1, 0, 1, 0, [fld "CHANNELS" 31 24 .rs 0, fld "USABLE_GIB" 23 16 .rs 0, fld "NOMINAL_GIB" 15 8 .rs 0, fld "DENSITY" 2 0 .rs 0]⟩,
  ⟨"MEM_STATUS", Reg.MEM_STATUS, 1, 0, 1, 0, [fld "STALLED" 19 19 .rs 0, fld "INIT_SEG" 18 16 .rs 0, fld "SEG_READY" 15 8 .rs 0, fld "RETRAINING" 3 3 .rs 0, fld "INIT_BUSY" 2 2 .rs 0, fld "FROZEN" 1 1 .rs 0, fld "TRAINED" 0 0 .rs 0]⟩,
  ⟨"MEM_PASR_RETAIN", Reg.MEM_PASR_RETAIN, 1, 0, 1, 0, [pvf "RETAIN" 7 0 .rw 0]⟩,
  ⟨"MEM_WQ_MARK", Reg.MEM_WQ_MARK, 1, 0, 1, 0, [fld "HIGH" 13 8 .rw 0x30, fld "LOW" 5 0 .rw 0x10]⟩,
  ⟨"MEM_HAMMER_CFG", Reg.MEM_HAMMER_CFG, 1, 0, 1, 0, [pvf "THROTTLE_MS" 19 16 .rw 1, pvf "THRESHOLD" 12 0 .rw 0x1000]⟩,
  ⟨"MEM_SCRUB_CFG", Reg.MEM_SCRUB_CFG, 1, 0, 1, 0, [fld "PERIOD_H" 7 0 .rw 0x18]⟩,
  ⟨"MEM_THROTTLE_LO", Reg.MEM_THROTTLE_LO, 1, 0, 1, 0, [fld "MIDS" 31 0 .rs 0]⟩,
  ⟨"MEM_THROTTLE_HI", Reg.MEM_THROTTLE_HI, 1, 0, 1, 0, [fld "MIDS" 31 0 .rs 0]⟩,
  ⟨"MEM_HAMMER_CNT", Reg.MEM_HAMMER_CNT, 1, 0, 1, 0, [fld "COUNT" 31 0 .rs 0]⟩,
  ⟨"MEM_HAZARD_CNT", Reg.MEM_HAZARD_CNT, 1, 0, 1, 0, [fld "COUNT" 31 0 .rs 0]⟩,
  ⟨"MEM_SCRUB_PASSES", Reg.MEM_SCRUB_PASSES, 1, 0, 1, 0, [fld "COUNT" 31 0 .rs 0]⟩,
  ⟨"MEM_ADDR_ERR_CNT", Reg.MEM_ADDR_ERR_CNT, 1, 0, 1, 0, [fld "COUNT" 31 0 .rs 0]⟩,
  ⟨"MEM_CE_CNT", Reg.MEM_CE_CNT, 24, 0x4, 1, 0, [fld "COUNT" 31 0 .rs 0]⟩,
  ⟨"MEM_RETRAIN_CNT", Reg.MEM_RETRAIN_CNT, 24, 0x4, 1, 0, [fld "COUNT" 31 0 .rs 0]⟩]

/-- Registers of region MEM. -/
def regsMEM : List RegDef := regsMEM1

/-- Registers of region STR, part 1. -/
def regsSTR1 : List RegDef := [
  ⟨"STR_DEC_ENG_STATUS", Reg.STR_DEC_ENG_STATUS, 8, 0x100, 1, 0, [fld "CONTEXTS" 21 16 .rs 0, fld "CUR_CTX" 15 8 .rs 0, fld "WAITING" 2 2 .rs 0, fld "BUSY" 1 1 .rs 0, fld "READY" 0 0 .rs 0]⟩,
  ⟨"STR_DEC_ENG_LOAD", Reg.STR_DEC_ENG_LOAD, 8, 0x100, 1, 0, [fld "BUSY_PM" 26 16 .rs 0, fld "MPXS" 10 0 .rs 0]⟩,
  ⟨"STR_DEC_ENG_ABORT_CNT", Reg.STR_DEC_ENG_ABORT_CNT, 8, 0x100, 1, 0, [fld "COUNT" 31 0 .rs 0]⟩,
  ⟨"STR_DEC_ENG_BUDGET_CNT", Reg.STR_DEC_ENG_BUDGET_CNT, 8, 0x100, 1, 0, [fld "COUNT" 31 0 .rs 0]⟩,
  ⟨"STR_DEC_ENG_CLAMP_CNT", Reg.STR_DEC_ENG_CLAMP_CNT, 8, 0x100, 1, 0, [fld "COUNT" 31 0 .rs 0]⟩,
  ⟨"STR_DEC_CTX_STATUS", Reg.STR_DEC_CTX_STATUS, 256, 0x40, 1, 0, [fld "ENGINE" 22 20 .rs 0, fld "STATE" 18 16 .rs 0, fld "TAINTED" 7 7 .rs 0, fld "ARRIVAL_BASED" 6 6 .rs 0, fld "SEI" 5 5 .rs 0, fld "LATE" 4 4 .rs 0, fld "EARLY" 3 3 .rs 0, fld "HEVC" 2 2 .rs 0, fld "FABRIC" 1 1 .rs 0, fld "OPEN" 0 0 .rs 0]⟩,
  ⟨"STR_DEC_CTX_PIC", Reg.STR_DEC_CTX_PIC, 256, 0x40, 1, 0, [fld "PIC" 31 0 .rs 0xFFFFFFFF]⟩,
  ⟨"STR_DEC_CTX_DECODED", Reg.STR_DEC_CTX_DECODED, 256, 0x40, 1, 0, [fld "COUNT" 31 0 .rs 0]⟩,
  ⟨"STR_DEC_CTX_SKIPPED", Reg.STR_DEC_CTX_SKIPPED, 256, 0x40, 1, 0, [fld "COUNT" 31 0 .rs 0]⟩,
  ⟨"STR_DEC_CTX_ABORTED", Reg.STR_DEC_CTX_ABORTED, 256, 0x40, 1, 0, [fld "COUNT" 31 0 .rs 0]⟩,
  ⟨"STR_DEC_CTX_SUBST", Reg.STR_DEC_CTX_SUBST, 256, 0x40, 1, 0, [fld "COUNT" 31 0 .rs 0]⟩,
  ⟨"STR_DEC_CTX_SEQGAP", Reg.STR_DEC_CTX_SEQGAP, 256, 0x40, 1, 0, [fld "COUNT" 31 0 .rs 0]⟩,
  ⟨"STR_DEC_CTX_ESDROP", Reg.STR_DEC_CTX_ESDROP, 256, 0x40, 1, 0, [fld "COUNT" 31 0 .rs 0]⟩,
  ⟨"STR_DEC_CTX_LATE", Reg.STR_DEC_CTX_LATE, 256, 0x40, 1, 0, [fld "COUNT" 31 0 .rs 0]⟩,
  ⟨"STR_DEC_CTX_CLEAN", Reg.STR_DEC_CTX_CLEAN, 256, 0x40, 1, 0, [fld "COUNT" 31 0 .rs 0]⟩,
  ⟨"STR_DEC_CTX_SHARED", Reg.STR_DEC_CTX_SHARED, 256, 0x40, 1, 0, [fld "COUNT" 31 0 .rs 0]⟩]

/-- Registers of region STR, part 2. -/
def regsSTR2 : List RegDef := [
  ⟨"STR_DEC_CTX_NOSEI", Reg.STR_DEC_CTX_NOSEI, 256, 0x40, 1, 0, [fld "COUNT" 31 0 .rs 0]⟩,
  ⟨"STR_DEC_CTX_REFUSE", Reg.STR_DEC_CTX_REFUSE, 256, 0x40, 1, 0, [fld "REASON" 15 8 .rs 0, fld "STATUS" 7 0 .rs 0]⟩,
  ⟨"STR_DEMUX_UNMATCHED", Reg.STR_DEMUX_UNMATCHED, 1, 0, 1, 0, [fld "COUNT" 31 0 .rs 0]⟩,
  ⟨"STR_DEMUX_STALE", Reg.STR_DEMUX_STALE, 1, 0, 1, 0, [fld "COUNT" 31 0 .rs 0]⟩,
  ⟨"STR_DEC_FAULT_CAP0", Reg.STR_DEC_FAULT_CAP0, 1, 0, 1, 0, [fld "VALID" 31 31 .rs 0, fld "ENGINE" 18 16 .rs 0, fld "CONTEXT" 15 8 .rs 0, fld "KIND" 1 0 .rs 0]⟩,
  ⟨"STR_DEC_FAULT_CAP1", Reg.STR_DEC_FAULT_CAP1, 1, 0, 1, 0, [fld "PIC" 31 0 .rs 0]⟩,
  ⟨"STR_DEC_FAULT_RELEASE", Reg.STR_DEC_FAULT_RELEASE, 1, 0, 1, 0, [fld "RELEASE" 0 0 .wo 0]⟩,
  ⟨"STR_CAP_STATUS", Reg.STR_CAP_STATUS, 4, 0x100, 1, 0, [fld "RATE" 13 12 .rs 0, fld "LANES" 10 8 .rs 0, fld "FMT_REFUSED" 7 7 .rs 0, fld "ENCODING" 6 5 .rs 0, fld "BPC10" 4 4 .rs 0, fld "SIGNAL" 3 3 .rs 0, fld "TRAINED" 2 2 .rs 0, fld "HPD" 1 1 .rs 0, fld "ENABLED" 0 0 .rs 0]⟩,
  ⟨"STR_CAP_TIMING", Reg.STR_CAP_TIMING, 4, 0x100, 1, 0, [fld "HEIGHT" 31 16 .rs 0, fld "WIDTH" 15 0 .rs 0]⟩,
  ⟨"STR_CAP_PERIOD", Reg.STR_CAP_PERIOD, 4, 0x100, 1, 0, [fld "NS" 31 0 .rs 0]⟩,
  ⟨"STR_CAP_PICS", Reg.STR_CAP_PICS, 4, 0x100, 1, 0, [fld "COUNT" 31 0 .rs 0]⟩,
  ⟨"STR_CAP_REFUSED", Reg.STR_CAP_REFUSED, 4, 0x100, 1, 0, [fld "COUNT" 31 0 .rs 0]⟩,
  ⟨"STR_CAP_SKIP", Reg.STR_CAP_SKIP, 4, 0x100, 1, 0, [fld "COUNT" 31 0 .rs 0]⟩,
  ⟨"STR_ENC_STATUS", Reg.STR_ENC_STATUS, 8, 0x100, 1, 0, [fld "QP" 13 8 .rs 0, fld "RC_STATE" 5 4 .rs 0, fld "KEEPALIVE" 3 3 .rs 0, fld "AT_BOUND" 2 2 .rs 0, fld "INPUT_OK" 1 1 .rs 0, fld "OPEN" 0 0 .rs 0]⟩,
  ⟨"STR_ENC_BITS", Reg.STR_ENC_BITS, 8, 0x100, 1, 0, [fld "BITS" 31 0 .rs 0]⟩,
  ⟨"STR_ENC_CPB", Reg.STR_ENC_CPB, 8, 0x100, 1, 0, [fld "BITS" 31 0 .rs 0]⟩]

/-- Registers of region STR, part 3. -/
def regsSTR3 : List RegDef := [
  ⟨"STR_ENC_HELD_CNT", Reg.STR_ENC_HELD_CNT, 8, 0x100, 1, 0, [fld "COUNT" 31 0 .rs 0]⟩,
  ⟨"STR_ENC_DROP_CNT", Reg.STR_ENC_DROP_CNT, 8, 0x100, 1, 0, [fld "COUNT" 31 0 .rs 0]⟩,
  ⟨"STR_ENC_FABDROP_CNT", Reg.STR_ENC_FABDROP_CNT, 8, 0x100, 1, 0, [fld "COUNT" 31 0 .rs 0]⟩,
  ⟨"STR_ENC_HOSTDROP_CNT", Reg.STR_ENC_HOSTDROP_CNT, 8, 0x100, 1, 0, [fld "COUNT" 31 0 .rs 0]⟩,
  ⟨"STR_ENC_PICS", Reg.STR_ENC_PICS, 8, 0x100, 1, 0, [fld "PIC_COUNT" 31 0 .rs 0]⟩,
  ⟨"STR_ENC_LOAD", Reg.STR_ENC_LOAD, 2, 0x100, 1, 0, [fld "MPXS" 10 0 .rs 0]⟩]

/-- Registers of region STR. -/
def regsSTR : List RegDef := regsSTR1 ++ regsSTR2 ++ regsSTR3

/-- Registers of region CMP, part 1. -/
def regsCMP1 : List RegDef := [
  ⟨"CMP_CAPS", Reg.CMP_CAPS, 1, 0, 1, 0, [fld "PIPES" 31 24 .ro 8, fld "LAYERS" 23 16 .ro 8, fld "TILES" 15 8 .ro 0x40, fld "SLATES" 7 0 .ro 0xFF]⟩,
  ⟨"CMP_LBUF_POOL", Reg.CMP_LBUF_POOL, 1, 0, 1, 0, [fld "ENTRIES" 18 0 .ro 0x40000]⟩,
  ⟨"CMP_SLATE_BASE", Reg.CMP_SLATE_BASE, 1, 0, 1, 0, [pvf "SET" 31 31 .w1 0, pvf "ADDR" 19 0 .w1 0]⟩,
  ⟨"CMP_SLATE_LOADED", Reg.CMP_SLATE_LOADED, 8, 0x4, 1, 0, [fld "LOADED" 31 0 .rs 0]⟩,
  ⟨"CMP_FAULT_CAP0", Reg.CMP_FAULT_CAP0, 1, 0, 1, 0, [fld "VALID" 31 31 .rs 0, fld "PIPE" 10 8 .rs 0, fld "ADDR_HI" 7 0 .rs 0]⟩,
  ⟨"CMP_FAULT_CAP1", Reg.CMP_FAULT_CAP1, 1, 0, 1, 0, [fld "ADDR_LO" 31 0 .rs 0]⟩,
  ⟨"CMP_FAULT_RELEASE", Reg.CMP_FAULT_RELEASE, 1, 0, 1, 0, [fld "RELEASE" 0 0 .wo 0]⟩,
  ⟨"CMP_PIPE_STATUS", Reg.CMP_PIPE_STATUS, 8, 0x1000, 1, 0, [fld "LAYERS" 15 8 .rs 0, fld "SPLIT" 4 4 .rs 0, fld "LAST_LATE" 3 3 .rs 0, fld "SHADOW_DIFFERS" 2 2 .rs 0, fld "PENDING" 1 1 .rs 0, fld "ENABLED" 0 0 .rs 0]⟩,
  ⟨"CMP_PIPE_FRAME", Reg.CMP_PIPE_FRAME, 8, 0x1000, 1, 0, [fld "FRAME" 31 0 .rs 0]⟩,
  ⟨"CMP_LBUF_PEAK", Reg.CMP_LBUF_PEAK, 8, 0x1000, 1, 0, [fld "LINE" 31 20 .rs 0, fld "ENTRIES" 18 0 .rs 0]⟩,
  ⟨"CMP_COMMIT_CNT", Reg.CMP_COMMIT_CNT, 8, 0x1000, 1, 0, [fld "COUNT" 31 0 .rs 0]⟩,
  ⟨"CMP_LATE_CNT", Reg.CMP_LATE_CNT, 8, 0x1000, 1, 0, [fld "COUNT" 31 0 .rs 0]⟩,
  ⟨"CMP_REJECT_CNT", Reg.CMP_REJECT_CNT, 8, 0x1000, 1, 0, [fld "COUNT" 31 0 .rs 0]⟩,
  ⟨"CMP_RACE_CNT", Reg.CMP_RACE_CNT, 8, 0x1000, 1, 0, [fld "COUNT" 31 0 .rs 0]⟩,
  ⟨"CMP_UNDERRUN_CNT", Reg.CMP_UNDERRUN_CNT, 8, 0x1000, 1, 0, [fld "COUNT" 31 0 .rs 0]⟩,
  ⟨"FUM_CAPS", Reg.FUM_CAPS, 1, 0, 1, 0, [fld "CHECKS" 31 24 .ro 0x80, fld "TILES" 23 11 .ro 0x1000, fld "SOURCES" 10 0 .ro 0x400]⟩]

/-- Registers of region CMP, part 2. -/
def regsCMP2 : List RegDef := [
  ⟨"FUM_STATUS", Reg.FUM_STATUS, 1, 0, 1, 0, [fld "NEG_AGE" 4 4 .rs 0, fld "HOLDOVER" 3 3 .rs 0, fld "SELFTEST_MISMATCH" 2 2 .rs 0, fld "POLICY_LOCKED" 1 1 .rs 0, fld "READY" 0 0 .rs 0]⟩,
  ⟨"FUM_LOCK", Reg.FUM_LOCK, 1, 0, 1, 0, [pvf "POLICY_LOCK" 0 0 .w1 0]⟩,
  ⟨"FUM_UNCERT", Reg.FUM_UNCERT, 1, 0, 1, 0, [fld "U" 31 0 .rs 0xFFFFFFFF]⟩,
  ⟨"FUM_SELFTEST_CAP0", Reg.FUM_SELFTEST_CAP0, 1, 0, 1, 0, [fld "VALID" 31 31 .rs 0, fld "TILE" 11 0 .rs 0]⟩,
  ⟨"FUM_SELFTEST_CAP1", Reg.FUM_SELFTEST_CAP1, 1, 0, 1, 0, [fld "AGE" 19 0 .rs 0]⟩,
  ⟨"FUM_SELFTEST_CAP2", Reg.FUM_SELFTEST_CAP2, 1, 0, 1, 0, [fld "AGE" 19 0 .rs 0]⟩,
  ⟨"FUM_SELFTEST_RELEASE", Reg.FUM_SELFTEST_RELEASE, 1, 0, 1, 0, [fld "RELEASE" 0 0 .wo 0]⟩,
  ⟨"FUM_SELFTEST_CNT", Reg.FUM_SELFTEST_CNT, 1, 0, 1, 0, [fld "COUNT" 31 0 .rs 0]⟩,
  ⟨"FUM_NEG_AGE_CNT", Reg.FUM_NEG_AGE_CNT, 1, 0, 1, 0, [fld "COUNT" 31 0 .rs 0]⟩,
  ⟨"FUM_COLOUR", Reg.FUM_COLOUR, 8, 0x4, 1, 0, [fld "R" 29 20 .rw 0, fld "G" 19 10 .rw 0, fld "B" 9 0 .rw 0]⟩,
  ⟨"FUM_TILE_COUNT", Reg.FUM_TILE_COUNT, 8, 0x4, 1, 0, [fld "COUNT" 12 0 .rs 0]⟩,
  ⟨"FUM_SRC_COUNT", Reg.FUM_SRC_COUNT, 8, 0x4, 1, 0, [fld "COUNT" 10 0 .rs 0]⟩]

/-- Registers of region CMP. -/
def regsCMP : List RegDef := regsCMP1 ++ regsCMP2

/-- Registers of region OUT, part 1. -/
def regsOUT1 : List RegDef := [
  ⟨"OUT_TG_CTRL", Reg.OUT_TG_CTRL, 8, 0x100, 1, 0, [fld "SPLIT_ODD" 13 13 .rs 0, fld "SPLIT" 12 12 .rs 0, fld "UNLOCK_ACTION" 11 11 .rs 0, fld "ENTRY" 10 10 .rs 0, fld "TIMING" 9 8 .rs 0, fld "MODE_IDX" 7 0 .rs 0]⟩,
  ⟨"OUT_TG_STATUS", Reg.OUT_TG_STATUS, 8, 0x100, 1, 0, [fld "BLANKED" 4 4 .rs 0, fld "SVC" 3 3 .rs 0, fld "PACING" 2 2 .rs 0, fld "VBLANK" 1 1 .rs 0, fld "RUNNING" 0 0 .rs 0]⟩,
  ⟨"OUT_TG_FRAME", Reg.OUT_TG_FRAME, 8, 0x100, 1, 0, [fld "FRAME" 31 0 .rs 0]⟩,
  ⟨"OUT_TG_PERIOD", Reg.OUT_TG_PERIOD, 8, 0x100, 1, 0, [fld "NS" 31 0 .rs 0]⟩,
  ⟨"OUT_TG_PACE_MAX_CNT", Reg.OUT_TG_PACE_MAX_CNT, 8, 0x100, 1, 0, [fld "COUNT" 31 0 .rs 0]⟩,
  ⟨"OUT_TG_PHASE", Reg.OUT_TG_PHASE, 8, 0x100, 1, 0, [fld "PHASE" 31 0 .rs 0]⟩,
  ⟨"OUT_TG_TRIM", Reg.OUT_TG_TRIM, 8, 0x100, 1, 0, [fld "TRIM" 31 0 .rs 0]⟩,
  ⟨"OUT_TG_LOCK", Reg.OUT_TG_LOCK, 8, 0x100, 1, 0, [fld "SLEWING" 3 3 .rs 0, fld "FALLBACK" 2 2 .rs 0, fld "AT_BOUND" 1 1 .rs 0, fld "PHASE_LOCKED" 0 0 .rs 0]⟩,
  ⟨"OUT_DP_STATUS", Reg.OUT_DP_STATUS, 8, 0x100, 1, 0, [fld "EDID_LEN" 25 16 .rs 0, fld "CAPACITY_SHORT" 12 12 .rs 0, fld "EDID_BUSY" 11 11 .rs 0, fld "EDID_VALID" 10 10 .rs 0, fld "DEPTH" 9 8 .rs 0, fld "ADAPTIVE" 7 7 .rs 0, fld "LANES" 6 4 .rs 0, fld "RATE" 3 2 .rs 0, fld "TRAINED" 1 1 .rs 0, fld "HPD" 0 0 .rs 0]⟩,
  ⟨"OUT_DP_CTRL", Reg.OUT_DP_CTRL, 8, 0x100, 1, 0, [fld "RETRAIN" 1 1 .wo 0, fld "EDID_READ" 0 0 .wo 0]⟩,
  ⟨"OUT_DP_DRIVE", Reg.OUT_DP_DRIVE, 8, 0x100, 1, 0, [fld "LEVELS" 15 0 .rs 0]⟩,
  ⟨"OUT_DP_TRAIN_FAIL", Reg.OUT_DP_TRAIN_FAIL, 8, 0x100, 1, 0, [fld "COUNT" 31 0 .rs 0]⟩,
  ⟨"OUT_DP_IRQ_HPD", Reg.OUT_DP_IRQ_HPD, 8, 0x100, 1, 0, [fld "COUNT" 31 0 .rs 0]⟩,
  ⟨"OUT_DP_TRIM_OVR", Reg.OUT_DP_TRIM_OVR, 8, 0x100, 1, 0, [pvf "EN" 31 31 .rw 0, pvf "SWING" 13 8 .rw 0x20, pvf "PRE" 4 0 .rw 0x10]⟩,
  ⟨"OUT_CHK_FAIL", Reg.OUT_CHK_FAIL, 8, 0x4, 1, 0, [fld "FAIL" 15 0 .rs 0]⟩,
  ⟨"OUT_CHK_ENABLED", Reg.OUT_CHK_ENABLED, 8, 0x4, 1, 0, [fld "ENABLED" 15 0 .rs 0]⟩]

/-- Registers of region OUT, part 2. -/
def regsOUT2 : List RegDef := [
  ⟨"OUT_CHK_SUMMARY", Reg.OUT_CHK_SUMMARY, 1, 0, 1, 0, [fld "RELQ" 15 8 .rs 0, fld "BLANKED" 7 0 .rs 0]⟩,
  ⟨"OUT_CHK_FAIL_CNT", Reg.OUT_CHK_FAIL_CNT, 128, 0x4, 1, 0, [fld "COUNT" 31 0 .rs 0]⟩,
  ⟨"OUT_SVC_COLOUR", Reg.OUT_SVC_COLOUR, 1, 0, 1, 0, [fld "R" 29 20 .rw 0, fld "G" 19 10 .rw 0, fld "B" 9 0 .rw 0x100]⟩,
  ⟨"OUT_SVC_FORCE", Reg.OUT_SVC_FORCE, 1, 0, 1, 0, [pvf "FORCE" 7 0 .rw 0]⟩]

/-- Registers of region OUT. -/
def regsOUT : List RegDef := regsOUT1 ++ regsOUT2

/-- Registers of region FAB, part 1. -/
def regsFAB1 : List RegDef := [
  ⟨"FAB_LINK_CTRL", Reg.FAB_LINK_CTRL, 11, 0x100, 1, 0, [fld "RETRAIN" 2 2 .wo 0, fld "HALF_RATE" 1 1 .rw 0, fld "ENABLE" 0 0 .rw 1]⟩,
  ⟨"FAB_LINK_STATUS", Reg.FAB_LINK_STATUS, 11, 0x100, 1, 0, [fld "MISMATCH" 10 10 .rs 0, fld "LOCK" 9 8 .rs 0, fld "HALF_RATE" 7 7 .rs 0, fld "REVERSED" 6 6 .rs 0, fld "POL_INV" 5 4 .rs 0, fld "UP" 3 3 .rs 0, fld "STATE" 2 0 .rs 0]⟩,
  ⟨"FAB_LINK_PEER", Reg.FAB_LINK_PEER, 11, 0x100, 1, 0, [fld "GATEWAY" 31 31 .rs 0, fld "PEER_PORT" 30 30 .rs 0, fld "LINK" 29 26 .rs 0xF, fld "DOMAIN" 25 16 .rs 0x3FF, fld "ADDR" 9 0 .rs 0x3FF]⟩,
  ⟨"FAB_LINK_CRC_ERR", Reg.FAB_LINK_CRC_ERR, 11, 0x100, 1, 0, [fld "COUNT" 31 0 .rs 0]⟩,
  ⟨"FAB_LINK_ABT", Reg.FAB_LINK_ABT, 11, 0x100, 1, 0, [fld "COUNT" 31 0 .rs 0]⟩,
  ⟨"FAB_LINK_CODE_ERR", Reg.FAB_LINK_CODE_ERR, 11, 0x100, 1, 0, [fld "COUNT" 31 0 .rs 0]⟩,
  ⟨"FAB_LINK_FORMAT_ERR", Reg.FAB_LINK_FORMAT_ERR, 11, 0x100, 1, 0, [fld "COUNT" 31 0 .rs 0]⟩,
  ⟨"FAB_LINK_TX_DROP", Reg.FAB_LINK_TX_DROP, 11, 0x100, 1, 0, [fld "COUNT" 31 0 .rs 0]⟩,
  ⟨"FAB_LINK_TRAIN_FAIL", Reg.FAB_LINK_TRAIN_FAIL, 11, 0x100, 1, 0, [fld "COUNT" 31 0 .rs 0]⟩,
  ⟨"FAB_NODE_ADDR", Reg.FAB_NODE_ADDR, 1, 0, 1, 0, [pvf "ADDR" 9 0 .w1 0x3FF]⟩,
  ⟨"FAB_DOMAIN", Reg.FAB_DOMAIN, 1, 0, 1, 0, [fld "GATEWAY" 31 31 .rs 0, fld "CLAIMED" 30 30 .rs 0, pvf "CLAIM" 16 16 .rw 0, fld "DOMAIN" 9 0 .rs 0x3FF]⟩,
  ⟨"FAB_HOP_DROP", Reg.FAB_HOP_DROP, 1, 0, 1, 0, [fld "COUNT" 31 0 .rs 0]⟩,
  ⟨"FAB_NOROUTE_DROP", Reg.FAB_NOROUTE_DROP, 1, 0, 1, 0, [fld "COUNT" 31 0 .rs 0]⟩,
  ⟨"FAB_CLASS_DROP", Reg.FAB_CLASS_DROP, 1, 0, 1, 0, [fld "COUNT" 31 0 .rs 0]⟩,
  ⟨"FAB_ROUTE_TBL", Reg.FAB_ROUTE_TBL, 128, 0x4, 1, 0, [pvf "ENTRIES" 31 0 .rw 0xFFFFFFFF]⟩,
  ⟨"FAB_GROUP", Reg.FAB_GROUP, 256, 0x4, 1, 0, [pvf "LOCAL" 16 16 .rw 0, pvf "LINKS" 9 0 .rw 0]⟩]

/-- Registers of region FAB, part 2. -/
def regsFAB2 : List RegDef := [
  ⟨"FAB_GW_WIN", Reg.FAB_GW_WIN, 64, 0x20, 1, 0, [pvf "MODE" 29 28 .rw 0, pvf "LEN" 20 16 .rw 0, pvf "ADDR" 9 0 .rw 0x3FF]⟩,
  ⟨"FAB_GW_ROUTE", Reg.FAB_GW_ROUTE, 64, 0x20, 4, 0x4, [pvf "ENTRIES" 31 0 .rw 0]⟩,
  ⟨"FAB_GW_MGMT_CFG", Reg.FAB_GW_MGMT_CFG, 1, 0, 1, 0, [pvf "RETRIES" 18 16 .rw 3, pvf "RETRY_US" 9 0 .rw 0x14]⟩,
  ⟨"FAB_GW_FAIL_CAP", Reg.FAB_GW_FAIL_CAP, 1, 0, 1, 0, [fld "VALID" 31 31 .rs 0, fld "TYPE" 11 8 .rs 0, fld "WINDOW" 5 0 .rs 0]⟩,
  ⟨"FAB_GW_FAIL_ADDR", Reg.FAB_GW_FAIL_ADDR, 1, 0, 1, 0, [fld "OFFSET" 31 0 .rs 0]⟩,
  ⟨"FAB_GW_FAIL_RELEASE", Reg.FAB_GW_FAIL_RELEASE, 1, 0, 1, 0, [fld "RELEASE" 0 0 .wo 0]⟩,
  ⟨"FAB_GW_FAIL_CNT", Reg.FAB_GW_FAIL_CNT, 1, 0, 1, 0, [fld "COUNT" 31 0 .rs 0]⟩,
  ⟨"FAB_GW_DENIED_CNT", Reg.FAB_GW_DENIED_CNT, 1, 0, 1, 0, [fld "COUNT" 31 0 .rs 0]⟩,
  ⟨"FAB_TEPHRA_STATUS", Reg.FAB_TEPHRA_STATUS, 1, 0, 1, 0, [fld "TEPHRA_USED" 31 31 .rs 0, fld "ARMED" 10 0 .rs 0]⟩,
  ⟨"FAB_TEPHRA_COUNT", Reg.FAB_TEPHRA_COUNT, 11, 0x4, 1, 0, [fld "COUNT" 31 0 .rs 0]⟩,
  ⟨"FAB_MIR_STATUS", Reg.FAB_MIR_STATUS, 1, 0, 1, 0, [fld "ACK_WAIT" 4 4 .rs 0, fld "RESYNC_BUSY" 3 3 .rs 0, fld "IN_SYNC" 2 2 .rs 0, fld "RECEIVING" 1 1 .rs 0, fld "SENDING" 0 0 .rs 0]⟩,
  ⟨"FAB_MIR_ACK", Reg.FAB_MIR_ACK, 1, 0, 1, 0, [fld "VALID" 31 31 .rs 0, fld "STATUS" 7 0 .rs 0]⟩,
  ⟨"FAB_MIR_TX_CNT", Reg.FAB_MIR_TX_CNT, 1, 0, 1, 0, [fld "COUNT" 31 0 .rs 0]⟩,
  ⟨"FAB_MIR_RX_CNT", Reg.FAB_MIR_RX_CNT, 1, 0, 1, 0, [fld "COUNT" 31 0 .rs 0]⟩,
  ⟨"FAB_MIR_GAP_CNT", Reg.FAB_MIR_GAP_CNT, 1, 0, 1, 0, [fld "COUNT" 31 0 .rs 0]⟩,
  ⟨"FAB_MIR_REJECT_CNT", Reg.FAB_MIR_REJECT_CNT, 1, 0, 1, 0, [fld "COUNT" 31 0 .rs 0]⟩]

/-- Registers of region FAB, part 3. -/
def regsFAB3 : List RegDef := [
  ⟨"FAB_MIR_TIMEOUT_CNT", Reg.FAB_MIR_TIMEOUT_CNT, 1, 0, 1, 0, [fld "COUNT" 31 0 .rs 0]⟩,
  ⟨"FAB_MIR_RESYNC_CNT", Reg.FAB_MIR_RESYNC_CNT, 1, 0, 1, 0, [fld "COUNT" 31 0 .rs 0]⟩,
  ⟨"FAB_LANE_CFG", Reg.FAB_LANE_CFG, 1, 0, 1, 0, [fld "EYE_MIN_H" 23 16 .rw 0xA, fld "EYE_MIN_W" 13 8 .rw 0x10, fld "DELTA_T" 4 0 .rw 6]⟩,
  ⟨"FAB_LANE_BOUND", Reg.FAB_LANE_BOUND, 11, 0x10, 1, 0, [fld "CTLE_MAX" 12 8 .rw 0x1F, fld "CTLE_MIN" 4 0 .rw 0]⟩,
  ⟨"FAB_LANE_CTRL", Reg.FAB_LANE_CTRL, 11, 0x10, 1, 0, [fld "OVR_CTLE" 20 16 .rw 0xC, fld "OVR_EN" 8 8 .rw 0, fld "RECAL" 0 0 .wo 0]⟩,
  ⟨"FAB_LANE_STATUS", Reg.FAB_LANE_STATUS, 11, 0x10, 2, 0x4, [fld "RESULT" 22 20 .rs 0, fld "OVERRIDE" 19 19 .rs 0, fld "LOW_EYE" 18 18 .rs 0, fld "AT_BOUND" 17 17 .rs 0, fld "RUNNING" 16 16 .rs 0, fld "TARGET" 12 8 .rs 0, fld "CTLE" 4 0 .rs 0xC]⟩,
  ⟨"FAB_LANE_RUNS", Reg.FAB_LANE_RUNS, 11, 0x4, 1, 0, [fld "COUNT" 31 0 .rs 0]⟩,
  ⟨"FAB_TIME_STATUS", Reg.FAB_TIME_STATUS, 1, 0, 1, 0, [fld "AT_BOUND" 16 16 .rs 0, fld "HOPS" 12 8 .rs 0x1F, fld "PARENT" 7 4 .rs 0xF, fld "STATE" 2 0 .rs 0]⟩,
  ⟨"FAB_TIME_RATE", Reg.FAB_TIME_RATE, 1, 0, 1, 0, [fld "RATE" 31 0 .rs 0]⟩,
  ⟨"FAB_TIME_UNCERT", Reg.FAB_TIME_UNCERT, 1, 0, 1, 0, [fld "U" 31 0 .rs 0xFFFFFFFF]⟩,
  ⟨"FAB_TIME_OFFSET", Reg.FAB_TIME_OFFSET, 1, 0, 1, 0, [fld "THETA" 31 0 .rs 0]⟩,
  ⟨"FAB_TIME_HOLD", Reg.FAB_TIME_HOLD, 1, 0, 1, 0, [fld "MS" 31 0 .rs 0]⟩]

/-- Registers of region FAB. -/
def regsFAB : List RegDef := regsFAB1 ++ regsFAB2 ++ regsFAB3

/-- Registers of region EDG, part 1. -/
def regsEDG1 : List RegDef := [
  ⟨"EDG_THERM_CFG", Reg.EDG_THERM_CFG, 1, 0, 1, 0, [pvf "TARGET" 23 16 .rw 0x64, pvf "FLOOR" 4 0 .rw 8]⟩,
  ⟨"EDG_THERM_STATUS", Reg.EDG_THERM_STATUS, 1, 0, 1, 0, [fld "TRIPPED" 31 31 .rs 0, fld "AT_BOUND" 30 30 .rs 0, fld "SENSOR" 27 24 .rs 0, fld "STEP" 20 16 .rs 0x10, fld "TMAX" 7 0 .rs 0]⟩,
  ⟨"EDG_THERM_TEMP", Reg.EDG_THERM_TEMP, 9, 0x4, 1, 0, [fld "TJ" 15 0 .rs 0]⟩,
  ⟨"EDG_AON_CLEAR", Reg.EDG_AON_CLEAR, 1, 0, 1, 0, [pvf "KEY" 31 16 .wo 0, pvf "RELQ" 2 2 .wo 0, pvf "MEMFRZ" 1 1 .wo 0, pvf "FATAL" 0 0 .wo 0]⟩,
  ⟨"EDG_CALF_STATUS", Reg.EDG_CALF_STATUS, 1, 0, 1, 0, [fld "TOUCH" 10 9 .rs 0, fld "RC" 8 8 .rs 0, fld "DPTX" 7 0 .rs 0]⟩,
  ⟨"EDG_PAIR_STATUS", Reg.EDG_PAIR_STATUS, 1, 0, 1, 0, [fld "BAR_CAUSE" 23 20 .rs 0, fld "IN_SYNC" 11 11 .rs 0, fld "ELIGIBLE" 10 10 .rs 0, fld "BARRED" 9 9 .rs 0, fld "STATE" 6 4 .rs 0, fld "ROLE" 3 3 .rs 0, fld "SEL_O" 2 2 .rs 0, fld "OWN_I" 1 1 .rs 0, fld "OWN_O" 0 0 .rs 0]⟩,
  ⟨"EDG_PAIR_CTRL", Reg.EDG_PAIR_CTRL, 1, 0, 1, 0, [pvf "RELEASE" 1 1 .wo 0, pvf "CLAIM" 0 0 .wo 0]⟩,
  ⟨"EDG_PAIR_TRIG", Reg.EDG_PAIR_TRIG, 1, 0, 1, 0, [fld "TRIG" 11 1 .rs 0]⟩,
  ⟨"EDG_PAIR_CFG", Reg.EDG_PAIR_CFG, 1, 0, 1, 0, [fld "REF_OUTPUT" 19 16 .rs 0xF, fld "ENABLE" 14 14 .rs 0, fld "REQUIRE_SYNC" 13 13 .rs 0, fld "AUTO_CLAIM" 12 12 .rs 0, fld "ALIAS" 9 0 .rs 0x3FF]⟩,
  ⟨"EDG_PAIR_RELQ_CNT", Reg.EDG_PAIR_RELQ_CNT, 1, 0, 1, 0, [fld "COUNT" 31 0 .rs 0]⟩,
  ⟨"EDG_PAIR_TAKEOVER_CNT", Reg.EDG_PAIR_TAKEOVER_CNT, 1, 0, 1, 0, [fld "COUNT" 31 0 .rs 0]⟩,
  ⟨"EDG_PAIR_CONFLICT_CNT", Reg.EDG_PAIR_CONFLICT_CNT, 1, 0, 1, 0, [fld "COUNT" 31 0 .rs 0]⟩,
  ⟨"EDG_PAIR_GATED_CNT", Reg.EDG_PAIR_GATED_CNT, 1, 0, 1, 0, [fld "COUNT" 31 0 .rs 0]⟩,
  ⟨"EDG_TCH_CTRL", Reg.EDG_TCH_CTRL, 2, 0x1000, 1, 0, [fld "HOLD" 1 1 .rw 0, fld "ENABLE" 0 0 .rw 0]⟩,
  ⟨"EDG_TCH_SCAN", Reg.EDG_TCH_SCAN, 2, 0x1000, 1, 0, [fld "AMP" 31 28 .rw 8, fld "N_SELF" 24 16 .rw 0x40, fld "N_MUT" 8 0 .rw 0x40]⟩,
  ⟨"EDG_TCH_FREQ", Reg.EDG_TCH_FREQ, 2, 0x1000, 4, 0x4, [fld "VALID" 31 31 .rw 0, fld "HZ" 18 0 .rw 0]⟩]

/-- Registers of region EDG, part 2. -/
def regsEDG2 : List RegDef := [
  ⟨"EDG_TCH_THR", Reg.EDG_TCH_THR, 2, 0x1000, 1, 0, [fld "SELF_THR" 31 16 .rw 0x190, fld "TOUCH_THR" 15 0 .rw 0x258]⟩,
  ⟨"EDG_TCH_THR2", Reg.EDG_TCH_THR2, 2, 0x1000, 1, 0, [fld "NOISE_THR" 31 16 .rw 0x96, fld "NEG_THR" 15 0 .rw 0x12C]⟩,
  ⟨"EDG_TCH_TIME", Reg.EDG_TCH_TIME, 2, 0x1000, 1, 0, [fld "ANCHOR_S" 25 16 .rw 0x1E, fld "TAU" 9 0 .rw 0x28]⟩,
  ⟨"EDG_TCH_TEST", Reg.EDG_TCH_TEST, 2, 0x1000, 1, 0, [fld "SHORT_THR" 31 16 .rw 0x4E20, fld "SHORT_TOL" 15 8 .rw 0x10, fld "OPEN_FRAC" 7 0 .rw 0x80]⟩,
  ⟨"EDG_TCH_PITCH", Reg.EDG_TCH_PITCH, 2, 0x1000, 1, 0, [fld "DRIVE_UM" 31 16 .rw 0x1388, fld "SENSE_UM" 15 0 .rw 0x1388]⟩,
  ⟨"EDG_TCH_STATUS", Reg.EDG_TCH_STATUS, 2, 0x1000, 1, 0, [fld "CONTACTS" 19 16 .rs 0, fld "FREQ_IDX" 9 8 .rs 0, fld "HOLDING" 7 7 .rs 0, fld "FAULT" 6 6 .rs 0, fld "AT_BOUND" 5 5 .rs 0, fld "WET" 4 4 .rs 0, fld "REF_USED" 3 3 .rs 0, fld "REF_LOADED" 2 2 .rs 0, fld "SCANNING" 1 1 .rs 0, fld "READY" 0 0 .rs 0]⟩,
  ⟨"EDG_TCH_CYCLE", Reg.EDG_TCH_CYCLE, 2, 0x1000, 1, 0, [fld "VALUE" 31 0 .rs 0]⟩,
  ⟨"EDG_TCH_NOISE", Reg.EDG_TCH_NOISE, 2, 0x1000, 1, 0, [fld "VALUE" 31 0 .rs 0]⟩,
  ⟨"EDG_TCH_OPEN", Reg.EDG_TCH_OPEN, 2, 0x1000, 6, 0x4, [fld "BITS" 31 0 .rs 0]⟩,
  ⟨"EDG_TCH_SHORT", Reg.EDG_TCH_SHORT, 2, 0x1000, 6, 0x4, [fld "BITS" 31 0 .rs 0]⟩,
  ⟨"EDG_TCH_HOP_CNT", Reg.EDG_TCH_HOP_CNT, 2, 0x1000, 1, 0, [fld "COUNT" 31 0 .rs 0]⟩,
  ⟨"EDG_TCH_WATER_CNT", Reg.EDG_TCH_WATER_CNT, 2, 0x1000, 1, 0, [fld "COUNT" 31 0 .rs 0]⟩,
  ⟨"EDG_TCH_RESEED_CNT", Reg.EDG_TCH_RESEED_CNT, 2, 0x1000, 1, 0, [fld "COUNT" 31 0 .rs 0]⟩,
  ⟨"EDG_TCH_ANCHOR_CNT", Reg.EDG_TCH_ANCHOR_CNT, 2, 0x1000, 1, 0, [fld "COUNT" 31 0 .rs 0]⟩,
  ⟨"EDG_TCH_WAKE", Reg.EDG_TCH_WAKE, 1, 0, 1, 0, [pvf "WAKE_THR" 31 24 .rw 8, pvf "GY1" 23 20 .rw 0xD, pvf "GY0" 19 16 .rw 0, pvf "GX1" 14 12 .rw 7, pvf "GX0" 10 8 .rw 0, pvf "PRESS" 3 3 .rw 1, pvf "TAP" 2 2 .rw 1, pvf "PORT" 1 1 .rw 0, pvf "EN" 0 0 .rw 0]⟩]

/-- Registers of region EDG. -/
def regsEDG : List RegDef := regsEDG1 ++ regsEDG2

/-- The registers of the region that holds a window offset (R2). -/
def regsOf (off : Nat) : List RegDef :=
  match off / 0x200000 with
  | 0 => regsSYS | 1 => regsHST | 2 => regsMEM | 3 => regsSTR
  | 4 => regsCMP | 5 => regsOUT | 6 => regsFAB | 7 => regsEDG
  | _ => []

/-- The instance of a register block that lies at an offset: its two indices. -/
def RegDef.inst (d : RegDef) (off : Nat) : Option (Nat × Nat) :=
  if off < d.base then none
  else
    let o := off - d.base
    let i := if d.n1 ≤ 1 then 0 else if d.n2 ≤ 1 ∨ d.s2 ≤ d.s1 then o / d.s1 else (o % d.s2) / d.s1
    let r := o - i * d.s1
    let j := if d.n2 ≤ 1 then 0 else r / d.s2
    if o = i * d.s1 + j * d.s2 ∧ i < max d.n1 1 ∧ j < max d.n2 1 then some (i, j) else none

/-- The register at a window offset with its indices; none for an unimplemented location (R319). -/
def findReg (off : Nat) : Option (RegDef × Nat × Nat) :=
  (regsOf off).findSome? (fun d => (d.inst off).map (fun ij => (d, ij.1, ij.2)))

end Sys2Proof.Machine
end

