-- ==== Sys2Proof/Machine/Units.lean ====
section
/-! DEFINITION. The records of the units that State holds: plain data, one record per unit or per numbered instance, with the
rule of spec/ that names each. -/

namespace Sys2Proof.Machine

/-- The main stream attributes that a source sends for a frame (R232): the mode's timing with its sync widths, starts and polarities
(active high), the depth, the limited range of CTA, and the pixel clock in mHz after the trim with Mvid against Nvid.
(PRESUMED: log entry 122.) -/
structure MsaOut where
  hTot   : Nat
  vTot   : Nat
  hStart : Nat
  vStart : Nat
  hSync  : Nat
  vSync  : Nat
  hPos   : Bool
  vPos   : Bool
  hAct   : Nat
  vAct   : Nat
  depth  : Nat
  cta    : Bool
  mvid   : Nat
  nvid   : Nat
  deriving DecidableEq, Repr

/-- A symbol of a lane: a special symbol by its name in R105, or a data byte. -/
inductive Sym where
  | k (name : String)
  | d (b : Byte)
  deriving DecidableEq, Repr

/-- What a link sends on its two lanes in a training state (Table: link training states): nothing, TRN sets without end, an ALN every
so many symbol periods with IDL between, or packets with IDL between. -/
inductive LinkTx where
  | electricalIdle
  | trn (lane0 lane1 : List Sym)
  | align (period : Nat)
  | packets
  deriving DecidableEq, Repr

/-- What the block puts out, in order of time: host transactions, messages, packets and symbols on the fabric, deliveries
inside the device, values answered to a reader, and pixels. (DESIGN CHOICE: log entry 6.) -/
inductive Out where
  | hostWrite (pf : Nat) (addr : Nat) (data : List Byte)
  | hostRead (pf : Nat) (addr : Nat) (len : Nat)
  | msix (pf : Nat) (vector : Nat)
  | event (code : Nat) (data : List Byte)
  | packet (link : Nat) (p : Packet) (crc : U32) (abt : Bool)
  | lanes (link : Nat) (syms : List (Sym × Sym))
  | transmits (link : Nat) (what : LinkTx)
  | symbol (link : Nat) (name : String)
  | deliver (p : Packet)
  | regData (reader : Acc) (off : Nat) (data : U64)
  | readData (mid : Nat) (data : List Byte)
  | dapWord (w : U32)
  | dapStatus (w : U64)
  | pcieData (pf : Nat) (addr : Nat) (data : U64)
  | line (output : Nat) (y : Nat) (pixels : List U64)
  | tap (output : Nat) (y : Nat) (pixels : List U64)
  | msa (output : Nat) (m : MsaOut)
  | hpd (port : Nat) (level : Bool)
  | dpcd (output : Nat) (what : String) (value : Nat)
  | irqHpd (port : Nat)
  | dramOp (ch : Nat) (what : String) (bank row slot : Nat)
  | pin (name : String) (level : Bool)
  deriving DecidableEq, Repr

/-- Where a command came from: a submission ring, or a mirror record that this device applies (R358). -/
inductive Org where
  | ring (pf sq : Nat)
  | mirror (cls recId : Nat) (ackReq : Bool)
  deriving DecidableEq, Repr

/-- A command under execution: its origin and its 64-byte descriptor (R269). -/
structure Job where
  org  : Org
  desc : BitVec 512
  deriving DecidableEq, Repr

/-- A commit in progress (R206 to R210): the outputs it names, its stage (0 validating, 1 waiting for the mirror's
acknowledgement, 2 accepted), the outputs still to apply, those that apply late, those whose next boundary comes too soon, and
the mirror record whose acknowledgement it waits for, with the clock when that was sent. -/
structure CommitRec where
  job   : Job
  outs  : Nat
  stage : Nat
  left  : Nat
  late  : Nat
  skip  : Nat
  recId : Nat
  sentAt : Nat
  deriving DecidableEq, Repr

/-- The six operating modes (R393). -/
inductive Mode where
  | bringup | active | standby | dormant | frozen | service
  deriving DecidableEq, Repr

/-- Completion status codes (R279). -/
inductive Status where
  | done | notReady | badDescriptor | unsupported | outOfBounds | noResource | linebufExceeded | tileOverlap | denied
  | notOwner | aborted | mirrorTimeout
  deriving DecidableEq, Repr

/-- What a function's configuration space holds beside its fixed identity (R257, R288): the BARs, Max_Payload_Size and
Max_Read_Request_Size in bytes, whether it is in D3hot and has ASPM L1 enabled, ECRC generation and checking, the AER status registers, MSI-X
enable and function mask, and the link's width and speed (1 for 2.5 GT/s to 5 for 32 GT/s; 0 while it is down). -/
structure PcieFn where
  bar0    : U64
  bar2    : U64
  payload : Nat
  readReq : Nat
  d3hot   : Bool
  aspmL1  : Bool
  ecrcGen : Bool
  ecrcCheck : Bool
  aerUnc  : U32
  aerCor  : U32
  msixOn  : Bool
  msixMask : Bool
  width   : Nat
  speed   : Nat
  deriving DecidableEq, Repr

/-- OTP contents (R257, R265, R331, R339, R420, R455) and the pending lifecycle change. -/
structure OtpRec where
  subVendor : Nat
  subsys    : Nat
  keyHash   : List Byte
  uid       : U64
  lifecycle : Nat
  advance   : Bool
  grade     : Byte
  manuf     : Nat
  svnMin    : Nat
  calf      : Nat
  rcTrim    : Nat
  gain      : List Nat
  deriving DecidableEq, Repr

/-- Powers, clocks and resets of the device (R387 to R392, R396, R414): domains on, gated units, the reference and the MEM, STR
and SYS PLLs, reset release, a full reset that is due at a clock (R288), and the power cut. -/
structure PowerRec where
  on       : Nat
  gated    : List PowerUnit
  refOk    : Bool
  memLock  : Bool
  strLock  : Bool
  sysLock  : Bool
  released : Bool
  resetDue : Option Nat
  cut      : Bool
  deriving DecidableEq, Repr

/-- The firmware staging store, its window and its status (R264 to R266). -/
structure BootRec where
  window   : List Host.Cell
  staging  : List Host.Cell
  pages    : List (Nat × Nat)
  busy     : Bool
  copying  : Option (Nat × Nat)
  verifying : Bool
  verified : Bool
  fail     : Nat
  fails    : Nat
  svn      : Nat
  deriving DecidableEq, Repr

/-- One mailbox (R328 to R330). -/
structure MbxRec where
  sel   : U32
  valid : Bool
  err   : Nat
  data  : List Byte
  deriving DecidableEq, Repr

/-- One MPU region in force (R335). -/
structure MpuRegion where
  en   : Bool
  lock : Bool
  base : Nat
  lim  : Nat
  mask : U64
  deriving DecidableEq, Repr

/-- The debug access port (R340): the JTAG instruction register, the access last begun, whether a write still waits for words, the
words that have arrived, the read words not yet taken, and the status of the last access. -/
structure DapRec where
  ir      : Nat
  addr    : Nat
  len     : Nat
  armed   : Bool
  got     : List U32
  words   : List U32
  busy    : Bool
  denied  : Bool
  refused : Bool
  deriving DecidableEq, Repr

/-- A submission ring of a function (R267 to R270). ahead counts the descriptors that the last DMA_RD has brought and that are not
fetched yet, on a device behind a gateway (R277). -/
structure SqRec where
  head   : Nat
  tail   : Nat
  halted : Bool
  waitCq : Option Nat
  ahead  : Nat
  deriving DecidableEq, Repr

/-- A completion or event ring (R267, R268, R273, R276): its indices, PHASE of the next entry, the entries written since its
last message and when the first of them was written. -/
structure CqRec where
  head  : Nat
  tail  : Nat
  phase : Bool
  since : Nat
  first : Nat
  lostPend : Nat
  deriving DecidableEq, Repr

/-- A fetched descriptor that has not completed (R274, R275): its job, and whether its execution has started. -/
structure Flight where
  job     : Job
  started : Bool
  deriving DecidableEq, Repr

/-- A command that waits for the DMA of a device behind a gateway (R129, R131): the bytes its DMA_RDs have brought, by host address; and, of
a command whose work is done, the status, flags and RESULT it completes with once its last request is answered. -/
structure DmaWait where
  job   : Job
  parts : Tab (List Byte)
  ended : Option (Status × Nat × Nat)
  deriving DecidableEq, Repr

/-- A finished command whose completion entry is not yet written (R271 to R273). -/
structure DoneRec where
  pf     : Nat
  cq     : Nat
  sq     : Nat
  tag    : Nat
  opcode : Nat
  status : Status
  flags  : Nat
  result : U64
  deriving DecidableEq, Repr

/-- Link training states (R107). -/
inductive LinkState where
  | disabled | detect | lock | map | align | caps | up | backoff
  deriving DecidableEq, Repr

/-- A link's Tephra block (R133, R136): its configuration and its progress. -/
structure TephraRec where
  action  : Nat
  mask    : Nat
  prob    : Bool
  payload : Bool
  n       : Nat
  k       : Nat
  bits    : Nat
  m       : Nat
  limit   : Nat
  lfsr    : U32
  seen    : Nat
  done    : Nat
  heldPkt : Option (Packet × Nat)
  deriving DecidableEq, Repr

/-- One Yarweut link (R104 to R116). Queues are lists by class in priority order of service, oldest first. cutFrom is the link whose
packet the one in progress forwards; skpDue a SKP that waits for the packet's end; sets the consecutive consistent TRN sets of MAP
and peerSet the last one received (R108, R109). -/
structure LinkRec where
  st       : LinkState
  mismatch : Bool
  locks    : Nat
  half     : Bool
  reversed : Bool
  pol      : Nat
  peerAddr : Nat
  peerDom  : Nat
  peerLink : Nat
  peerFlags : Nat
  peerUid  : U64
  capsSent : Bool
  capsAcked : Bool
  capsSeen : Bool
  cur      : Option Packet
  curAbt   : Bool
  skpDue   : Bool
  sets     : Nat
  peerSet  : Option TrnSet
  queue    : List Packet
  cutFrom  : Option Nat
  crcOpen  : Bool
  crcMore  : Nat
  errs     : List Nat
  skps     : Nat
  rxPkts   : Nat
  txPkts   : Nat
  tephra   : TephraRec
  deriving DecidableEq, Repr

/-- An MGMT request that waits for its response (R128): its window, or 0 for a DMA; the command that needs a DMA, or the master whose read
of the host aperture it carries (R131). -/
structure MReq where
  seq   : Nat
  pkt   : Packet
  tries : Nat
  sent  : Nat
  win   : Nat
  isRead : Bool
  cmd   : Option Job
  reader : Option Nat
  deriving DecidableEq, Repr

/-- The requester's side of one peer and flow (R128). -/
structure MRequester where
  next   : Nat
  open_  : List MReq
  wait   : List MReq
  resync : Bool
  deriving DecidableEq, Repr

/-- The responder's side of one peer and flow (R128): the next SEQ expected and the last 64 responses. -/
structure MResponder where
  next   : Nat
  copies : List (Nat × Packet)
  deriving DecidableEq, Repr

/-- A request in a memory channel's queues (R295, R299): kind 0 read, 1 write, 2 partial write, 3 scrub read, 4 ECC access; old is what a
write replaced when it was accepted. -/
structure DramReq where
  kind : Nat
  mid  : Nat
  addr : Nat
  data : List Byte
  old  : List Byte := []
  deriving DecidableEq, Repr

/-- A tracked row of a bank (R303). -/
structure HammerRow where
  row   : Nat
  count : Nat
  mids  : List (Nat × Nat)
  deriving DecidableEq, Repr

/-- One memory channel (R292 to R311). -/
structure ChanRec where
  density  : Nat
  queue    : List DramReq
  batch    : Bool
  ecc      : List (Nat × Nat × Nat)
  hammer   : Tab (Nat × List HammerRow)
  refreshes : Nat
  ceSince  : Nat
  ceTotal  : Nat
  acts     : Nat
  scrub    : Nat
  trainTemp : Int
  deriving DecidableEq, Repr

/-- The freeze snapshot (R307): the summary's 16 bytes and the queue entries' 16 bytes each. -/
structure FreezeRec where
  summary : List Byte
  entries : List (List Byte)
  deriving DecidableEq, Repr

/-- The DRAM test engine (R408, R409). -/
structure DramTest where
  on      : Bool
  pattern : Nat
  base    : Nat
  size    : Nat
  pos     : Nat
  reading : Bool
  passes  : Nat
  bad     : Nat
  first   : Nat
  deriving DecidableEq, Repr

/-- The device memory controller (R291 to R317). throttleEnd is the clock at which each MID's throttle ends, scrubAt the clock from which the
scrubber's next pass runs, asked the segments that the units' own accesses wait for (R314), resetN the level of the MEM_RESET_N pins (R443). -/
structure MemRec where
  trained  : Bool
  chTrained : Nat
  config   : Nat
  segReady : Nat
  lost     : Nat
  initSeg  : Option Nat
  frozen   : Option FreezeRec
  retrain  : Option Nat
  selfRefresh : Bool
  ingress  : List DramReq
  throttle : List Nat
  throttleEnd : Tab Nat
  scrubAt  : Nat
  tokens   : Tab Nat
  asked    : List Nat
  resetN   : Bool
  hamOcc   : Tab Nat
  test     : DramTest
  deriving DecidableEq, Repr

/-- The pairing interlock and its configuration (R342 to R364). claimFrom is the clock from which PAIR_OWN_I counts as low for 10 µs
(R346); disagree holds the pairs of views now reported as differing: kind and index (R362). -/
structure PairRec where
  enable   : Bool
  state    : Nat
  ownO     : Bool
  selO     : Bool
  ownI     : Bool
  claimFrom : Nat
  roleB    : Bool
  claimAt  : Nat
  trig     : Nat
  barred   : Bool
  barCause : Nat
  autoClaim : Bool
  reqSync  : Bool
  refOut   : Option Nat
  addrAlias : Nat
  unlockMs : Nat
  ackUs    : Nat
  aliasStreams : Nat
  classes  : Nat
  stage    : Nat
  disagree : List (Nat × Nat)
  disagreed : Tab Nat
  deriving DecidableEq, Repr

/-- A mirrored record that is here whole and waits for a commit of a pipe it names (R210, R358); class 0 stands for RESYNC_END. -/
structure MirLate where
  cls  : Nat
  rid  : Nat
  ack  : Bool
  data : List Byte
  deriving DecidableEq, Repr

/-- The mirror channel (R355 to R359): the SEQ to send next, the record count, the SEQ expected, IN_SYNC of a receiver, whether a
full image is being received, the record being staged (class, REC_ID, TOTAL, bytes so far), the last REC_ID received, the packets that
wait for queue space, MIRROR packets dropped for their CRC since the last that arrived, records that wait to be applied, and whether a
RESYNC_END has been sent since PEER became ready (R362). -/
structure MirrorRec where
  txSeq   : Nat
  recId   : Nat
  rxSeq   : Nat
  inSync  : Bool
  busy    : Bool
  partRec : Option (Nat × Nat × Nat × Nat)
  lastRec : Nat
  waiting : List Packet
  dropped : Nat
  late    : List MirLate
  ended   : Bool
  deriving DecidableEq, Repr

/-- Time states (R53). -/
inductive TimeState where
  | free | acquiring | locked | holdover | unlocked | reacquiring | root
  deriving DecidableEq, Repr

/-- The settings of TIME_CFG (R67). -/
structure TimeCfg where
  root      : Bool
  period    : Nat
  inMask    : Nat
  outMask   : Nat
  holdMs    : Nat
  rateLimit : Nat
  resync    : Bool
  initTime  : U64
  asym      : List Int
  deriving DecidableEq, Repr

/-- What the time base knows of one link (R50, R51, R70): SYNCs awaiting their REPLY (SEQ, departure, age in periods), the last
exchange and its age, the root last named on the link and its age. -/
structure TimeLink where
  open_  : List (Nat × U64 × Nat)
  have_  : Bool
  fresh  : Bool
  age    : Nat
  d      : Int
  theta  : Int
  seq    : Nat
  hops   : Nat
  state  : Nat
  root   : Nat
  seen   : Nat
  seenAge : Nat
  jumped : Bool
  deriving DecidableEq, Repr

/-- The time base (R46 to R57): rates in ppb, lockedCorr the reference correction of the last LOCKED or ROOT state, frac in units of 10^-9 ns, holdAt the clock at entry to HOLDOVER, since that at entry to the state. -/
structure TimeRec where
  st      : TimeState
  parent  : Option Nat
  hops    : Nat
  u0      : Nat
  uRe     : Nat
  holdAt  : Nat
  refCorr : Int
  lockedCorr : Int
  slew    : Int
  frac    : Nat
  cfg     : TimeCfg
  queue   : List Job
  links   : Tab TimeLink
  seq     : Nat
  good    : Nat
  poor    : Nat
  ever    : Bool
  since   : Nat
  atBound : Bool
  rootNow : Nat
  deriving DecidableEq, Repr

/-- Records of the always-on island that survive a full reset (R307, R308, R364, R397, R407): bytes of the AON fault record,
of the memory freeze record and its full time, and of the relinquish record, and the panel references of the two ports; the highest reading in °C since VDD_AON came up (R407); and
what holds a bring-up off after a thermal event: 0 nothing, 1 TS8 (R413), 2 Tmax (R414). -/
structure AonRec where
  fault   : List Byte
  freeze  : List Byte
  freezeTime : U64
  relq    : List Byte
  panels  : List (List Byte)
  peak    : Option Int
  hot     : Nat
  deriving DecidableEq, Repr

/-- The thermal governor (R411, R412): STEP, AT_BOUND, TRIPPED, and the readings of TS0 to TS8 in 1/16 °C. -/
structure ThermRec where
  step    : Nat
  atBound : Bool
  tripped : Bool
  temps   : List Int
  deriving DecidableEq, Repr

/-- A Class T run in progress (R426): m0, the scan it waits for (0 first, 1 after a CTLE step, 2 confirming), dir, tried_reverse,
steps, the CTLE code it began with and its most recent CTLE step. -/
structure RunRec where
  m0    : Nat
  stage : Nat
  up    : Bool
  tried : Bool
  steps : Nat
  old   : Nat
  last  : Option Bool
  deriving DecidableEq, Repr

/-- A receiver lane of YL or PL (R418, R422 to R432). Temperatures are in 1/16 °C. The quality figure's fields begin with q; queue holds
the corrections not yet applied, a parameter (0 CTLE, 1 phase, 2 to 5 a sampler) and an upward step; lastDown says that the last
CTLE step of a run was downward; again that a RECAL calls for one more run. -/
structure LaneRec where
  ctle    : Nat
  phase   : Int
  samp    : List Int
  tref    : Int
  target  : Nat
  qW      : Nat
  qH      : Nat
  qCtle   : Nat
  qPhase  : Int
  qSamp   : Int
  qTime   : Nat
  scans   : Nat
  valid   : Bool
  scanned : Bool
  lowEye  : Bool
  atBound : Bool
  result  : Nat
  lastDown : Bool
  queue   : List (Nat × Bool)
  run     : Option RunRec
  again   : Bool
  ovr     : Bool
  deriving DecidableEq, Repr

/-- The receiver lanes, lane i of link l under 2l + i, and the trim overrides that outputs have in effect: swing and pre-emphasis
codes (R421). -/
structure LaneUnit where
  lanes : Tab LaneRec
  trims : Tab (Nat × Nat)
  deriving DecidableEq, Repr

end Sys2Proof.Machine
end

