-- ==== Sys2Proof/Machine/Records.lean ====
section
/-! DEFINITION. The records of the picture path: surfaces and band publications, Fumarole, decode contexts and engines, capture
ports, encode streams, composition pipes, timing generators, DisplayPort sources and check rectangles. -/

namespace Sys2Proof.Machine

/-- A producer's surface: a pool set by SURFACE_POOL (R155, R178) or a capture port's buffer set (R75, R98). -/
structure SurfRec where
  format  : Nat
  buffers : Nat
  reduce  : Nat
  width   : Nat
  height  : Nat
  pitch   : Nat
  base    : Nat
  stride  : Nat
  rpitch  : Nat
  roff    : Nat
  block   : Nat
  deriving DecidableEq, Repr

/-- A published band (R158): first stored row, rows, FLAGS, EPOCH, SIG. -/
structure BandRec where
  first : Nat
  rows  : Nat
  flags : Nat
  epoch : Nat
  sig   : Nat
  deriving DecidableEq, Repr

/-- A picture in a buffer as Fumarole's own table holds it (R38): the picture record's fields and its bands in row order. -/
structure PicRec where
  pic    : Nat
  height : Nat
  flags  : Nat
  epoch  : Nat
  origin : Nat
  bands  : List BandRec
  deriving DecidableEq, Repr

/-- What a producer has published (R159): the picture in progress or newest, and Fumarole's own table of every buffer (R38). -/
structure PubRec where
  pic  : Nat
  buf  : Nat
  rows : Nat
  full : Bool
  bufs : Tab PicRec
  deriving DecidableEq, Repr

/-- A Fumarole policy (R23, R39): treatment map, thresholds in ms, static timeout in s (0: off), slate and blank colour. -/
structure PolicyRec where
  treat  : Nat
  late   : Nat
  max    : Nat
  frozen : Nat
  lost   : Nat
  static : Nat
  slate  : Nat
  blank  : Nat
  deriving DecidableEq, Repr

/-- A source (R15 to R17): its producer (none: UNASSIGNED), bound policy and the policy in force since the last tick, state with
the cause of its last change, and the times R17 measures from. whole says that a picture has been completely published since the binding. -/
structure SourceRec where
  prod    : Option Nat
  policy  : Nat
  inForce : Nat
  state   : Nat
  arrived : Bool
  whole   : Bool
  conc    : Bool
  arrival : Bool
  remote  : Bool
  cause   : Nat
  lastArr : Nat
  lastAdv : Nat
  lastChg : Nat
  epoch   : Nat
  deriving DecidableEq, Repr

/-- A tile binding (R40). -/
structure TileBind where
  source : Option Nat
  policy : Nat
  steam  : Bool
  evt    : Bool
  deriving DecidableEq, Repr

/-- What a record's latch holds (R186, R213): the values of FENCE and LAST, whether the band block could be read, and the choice:
0 missing, 1 FENCE's complete picture, 2 LAST's picture, 3 FENCE's incomplete picture by a race. -/
structure LatchRec where
  key      : Nat
  pic      : Nat
  buf      : Nat
  rows     : Nat
  lastPic  : Nat
  lastBuf  : Nat
  lastOk   : Bool
  choice   : Nat
  deriving DecidableEq, Repr

/-- A tile's decision in an earlier frame (R374): its state, its first state, and whether and from which line it escalated.
(DEDUCED: log entry 21.) -/
structure TileOld where
  frame  : Nat
  state  : Nat
  state0 : Nat
  esc    : Bool
  escRow : Nat
  deriving DecidableEq, Repr

/-- The last decision for a tile (R18, R32, R42) and its event window (R44): the snapshot entry's fields; the treatment drawn
above escRow and the one from it on; the bound source's state at the decision; the state
and frame of the decision before (R244); the oldest visible epoch on the pipe's path and on
the table's; the scan start; the line of a race fault. prev0, prevEsc and prevEscRow keep the
decision before as R374 needs it, older those before that, newest first. unc and pol are U and the policy's
values at the scan start, which hold for the frame (R13, R35, R39). linePx holds the record's pixels with their alpha on its last
line, which an underrun repeats (R215). -/
structure TileRec where
  state    : Nat
  race     : Bool
  mismatch : Bool
  missing  : Bool
  mark     : Bool
  esc      : Bool
  treat    : Nat
  treat0   : Nat
  state0   : Nat
  escRow   : Nat
  source   : Nat
  age      : Nat
  frame    : Nat
  policy   : Nat
  srcSt    : Nat
  remote   : Bool
  prevState : Nat
  prevFrame : Option Nat
  prev0    : Nat
  prevEsc  : Bool
  prevEscRow : Nat
  older    : List TileOld
  epoch    : Option Nat
  epochT   : Option Nat
  scanAt   : Nat
  faultRow : Option Nat
  linePx   : List ((Nat × Nat × Nat) × Nat)
  unc      : Nat
  pol      : PolicyRec
  win      : Bool
  winState : Nat
  winCnt   : Nat
  winCause : Nat
  latch    : Option LatchRec
  deriving DecidableEq, Repr

/-- Fumarole (R14 to R45). negOut and misOut have a bit for each output whose most recent frame had a negative age or a
two-path mismatch; tickPol holds the policies as sources see them since the last tick (R39). -/
structure FumRec where
  policies : Tab PolicyRec
  tickPol  : Tab PolicyRec
  sources  : Tab SourceRec
  act      : Tab TileBind
  shadow   : Tab TileBind
  tiles    : Tab TileRec
  snap     : Option (Job × List Byte)
  negOut   : Nat
  misOut   : Nat
  deriving DecidableEq, Repr

/-- A run of bytes in an ES ring (R144, R147, R149): its length; the reason of a gap before it (0: none); the host epoch or the
arrival epoch it gives to a picture that starts in it; whether that is an arrival epoch; whether a picture has already started
in it; when it entered; and whether it starts or ends a slice, and whether a picture ends with its last byte; and
whether it holds no slice at all. -/
structure ChunkRec where
  len     : Nat
  gap     : Nat
  epoch   : Nat
  arrival : Bool
  used    : Bool
  at_     : Nat
  starts  : Bool
  closes  : Bool
  ends    : Bool
  bare    : Bool
  deriving DecidableEq, Repr

/-- A feed that waits for room in the ring (R146): its command, its bytes, whether they have been read, and the parameter sets in them
(R141). -/
structure FeedRec where
  job     : Job
  buf     : List Byte
  here    : Bool
  sets    : FeedSets
  arrived : Nat
  deriving DecidableEq, Repr

/-- The picture a context decodes (R154, R160): its buffer and sizes, its SPS (R156), the address of its last slice (R172), the epochs its
bands take, the slices not yet in a band, and the bands so far (of an unpublished picture, R162, too). -/
structure DecPic where
  buf      : Nat
  width    : Nat
  height   : Nat
  sps      : SpsInfo
  lastAddr : Option Nat
  inOrder  : Bool
  output   : Bool
  poc      : Nat
  irap     : Bool
  recovery : Bool
  recovStart : Bool
  sei      : Option Sei
  epoch    : Nat
  arrival  : Bool
  remote   : Bool
  startAt  : Nat
  deadline : Nat
  published : Nat
  done     : Nat
  nextRow  : Nat
  slices   : List BandRec
  bands    : List BandRec
  aborted  : Bool
  subst    : Bool
  noted    : Bool
  rowNs    : Nat
  deriving DecidableEq, Repr

/-- A decoded picture that waits for output (R162). -/
structure HeldPic where
  pic  : DecPic
  kind : Option Nat
  deriving DecidableEq, Repr

/-- A stream context (R143 to R177). feedPf and feedSq name its feed ring; sps holds its sequence parameter sets by ID, setsTaken says
that those before its next picture are among them, setsSeen how many of these came in feeds without a picture before them (R141, R172); lastSps is
the SPS of the last picture started. conc is the DEC_CONCEAL window (R179) with the occurrences in it and what the last one
carries; sweepOk and recovOk follow the conditions of Table: clean picture conditions. -/
structure CtxRec where
  state    : Nat
  engine   : Nat
  codec    : Nat
  fabric   : Bool
  early    : Bool
  feedPf   : Nat
  feedSq   : Nat
  sps      : Tab SpsInfo
  setsTaken : Bool
  setsSeen : Nat
  mpxs     : Nat
  maxW     : Nat
  maxH     : Nat
  src      : Nat
  flow     : Nat
  deadline : Nat
  stall    : Nat
  ctxBase  : Nat
  esBase   : Nat
  esSize   : Nat
  wr       : Nat
  ring     : List ChunkRec
  total    : Nat
  feeds    : List FeedRec
  expect   : Option Nat
  gapNext  : Nat
  skipping : Bool
  lastByte : Nat
  cur      : Option DecPic
  prev     : Option PicRec
  prevBuf  : Nat
  held     : List HeldPic
  refBad   : Bool
  tainted  : Bool
  sweepOk  : Bool
  recovOk  : Bool
  seenSei  : Bool
  lastStart : Option Nat
  lastSps  : Option SpsInfo
  closing  : Option Job
  lastSei  : Bool
  lastArr  : Bool
  lastLate : Bool
  conc     : Bool
  concCnt  : Nat
  concLast : List Byte
  deriving DecidableEq, Repr

/-- A decode engine (R139, R154). -/
structure EngRec where
  busy    : Option Nat
  waiting : Bool
  deriving DecidableEq, Repr

/-- A RASTER receiver or a RASTER flow (R124, R157): of a flow, the next SEQ and how many gaps it has had; of a receiver, its picture in
progress, and by flow how many gaps the flow had had at the receiver's last fence. -/
structure RasterRec where
  expect : Option Nat
  gaps   : Nat
  cur    : Option (Nat × Nat)
  seen   : Tab Nat
  deriving DecidableEq, Repr

/-- A lane of a capture port's receiver (R417, R418, R431): what its adaptation chose, held until the next training, and its last eye
scan. -/
structure DpiLane where
  ctle   : Nat
  samp   : List Int
  phase  : Int
  qW     : Nat
  qH     : Nat
  scans  : Nat
  valid  : Bool
  qTime  : Nat
  deriving DecidableEq, Repr

/-- A capture port (R71 to R79, R98). eq holds the lanes of the last training, scanAt the clock of their next eye scan (R431). live says that the picture now arriving was accepted (the line path of R80), cur its
buffer and its FENCE.PIC where it is written to memory (R76). -/
structure CapRec where
  enabled : Bool
  lanesMax : Nat
  rateMax : Nat
  width   : Nat
  height  : Nat
  format  : Nat
  edid    : List Byte
  pulse   : Bool
  hpd     : Bool
  trained : Bool
  rate    : Nat
  lanes   : Nat
  signal  : Bool
  refused : Bool
  msa     : Option Msa
  cur     : Option Nat
  live    : Bool
  epoch   : Nat
  row     : Nat
  eq      : List DpiLane
  scanAt  : Nat
  deriving DecidableEq, Repr

/-- A picture an encode stream is coding (R82 to R91): its hard budget H and drain D in bits, the rate control's state, the loop's QP
before clamping, its PIC_COUNT, its refresh index and its level. -/
structure EncPic where
  idr     : Bool
  keep    : Bool
  change  : Bool
  epoch   : Nat
  source  : Nat
  slices  : Nat
  next    : Nat
  used    : Nat
  held    : Nat
  firstHeld : Nat
  budget  : Nat
  drain   : Nat
  state   : Nat
  qp      : Int
  qpSum   : Nat
  qpCnt   : Nat
  count   : Nat
  idx     : Nat
  restart : Bool
  level   : Nat
  deriving DecidableEq, Repr

/-- How the engine codes a slice (R83, R85, R89): in full at a QP from its input by component and row, with CTU columns intraFrom to
intraTo − 1 intra coded and, left of column intraTo, no motion vector that reads at or right of luma column limit; skipped with zero motion
and without in-loop filters; or grey, intra DC without residual. -/
inductive SliceCode where
  | coded (qp intraFrom intraTo : Nat) (limit : Int) (input : List (List (List Nat)))
  | skipped
  | grey
  deriving DecidableEq, Repr

/-- What a stream's parameter sets say (Table: encode tool set): Main 4:4:4 10 or Main 10, the level as general_level_idc, and the VUI;
matrix is none where the spec names no matrix_coefficients. -/
structure EncTools where
  main444    : Bool
  level      : Nat
  width      : Nat
  height     : Nat
  bitDepth   : Nat
  ctu        : Nat
  cuMin      : Nat
  tuMin      : Nat
  tuMax      : Nat
  skipSize   : Nat
  references : Nat
  tmvp       : Bool
  deblocking : Bool
  sao        : Bool
  primaries  : Nat
  transfer   : Nat
  matrix     : Option Nat
  fullRange  : Bool
  rangeX     : Nat
  rangeY     : Nat
  merge      : Bool
  amvp       : Bool
  intraModes : Nat
  tiles      : Bool
  wpp        : Bool
  dependent  : Bool
  bPictures  : Bool
  scaling    : Bool
  pcm        : Bool
  weighted   : Bool
  longTerm   : Bool
  crossComp  : Bool
  deriving DecidableEq, Repr

/-- A coded slice that waits to be sent (R83, R92 to R95): its SEI, how it is coded, the parameter sets before it, and whether its packets
carry RESTART. -/
structure SliceOut where
  sei     : Sei
  code    : SliceCode
  sets    : Option EncTools
  restart : Bool
  deriving DecidableEq, Repr

/-- A host buffer of a stream (R95, R102): its command and the bytes written. -/
structure BufOut where
  job  : Job
  used : Nat
  deriving DecidableEq, Repr

/-- An encode stream (R80 to R102). sizes holds each slice's last non-held size in bits with its QP, epochs the band epoch each
slice last carried; idx is the refresh index of the next picture, full the bucket's fullness, rc the rate control's state after the
last slice; lines are the input rows of the picture under way that no slice has taken yet and row the next one's number, while taking; sigs
are each slice's CTU signatures when it was last not held, ref what each slice of the reference picture shows, with the PIC_COUNT of the
picture it was coded in; queued counts the bytes that the stream has put into its engine's fabric queue. -/
structure EncRec where
  open_   : Bool
  engine  : Nat
  kind    : Nat
  index   : Nat
  width   : Nat
  height  : Nat
  chroma  : Nat
  rows    : Nat
  refresh : Nat
  nextRefresh : Nat
  div     : Nat
  bitrate : Nat
  qpMin   : Nat
  qpMax   : Nat
  cpb     : Nat
  out     : Nat
  group   : Nat
  flow    : Nat
  mpxs    : Nat
  keepS   : Nat
  params  : List Job
  idr     : Bool
  sweep   : Bool
  fresh   : Bool
  begun   : Bool
  afterIdr : Bool
  idx     : Nat
  sweepHeld : Bool
  full    : Nat
  picCount : Nat
  epoch   : Nat
  period  : Nat
  lastStart : Option Nat
  inCount : Nat
  keeping : Bool
  expired : Bool
  atBound : Bool
  qpLast  : Nat
  rc      : Nat
  meanQp  : Option Nat
  sizes   : Tab (Nat × Nat)
  epochs  : Tab Nat
  cur     : Option EncPic
  queue   : List SliceOut
  seq     : Nat
  restart : Bool
  bufs    : List BufOut
  discont : Bool
  closing : Option Job
  stop    : Bool
  refBase : Nat
  refSize : Nat
  taking  : Bool
  row     : Nat
  lines   : List (List (List U16))
  sigs    : Tab (List U32)
  ref     : Tab (Nat × SliceCode)
  queued  : Nat
  deriving DecidableEq, Repr

/-- A slate slot (R216, R217): its image size, whether the copy has ended, and the outputs that have had a frame start since. -/
structure SlateRec where
  width  : Nat
  height : Nat
  copied : Bool
  loaded : Bool
  seen   : Nat
  deriving DecidableEq, Repr

/-- The settings of MODE_SET (R226). -/
structure ModeCfg where
  idx     : Nat
  timing  : Nat
  split   : Bool
  cta     : Bool
  lanes   : Nat
  rate    : Nat
  entry   : Nat
  unlock  : Nat
  t0      : Nat
  pNum    : Nat
  pDen    : Nat
  trimLim : Nat
  pace    : Nat
  paceMax : Nat
  deriving DecidableEq, Repr

/-- A timing generator (R219 to R231, R61 to R66). line is the raster line it last began; k the frame index in
LOCKED, lastK and lastNom that of the last frame and its nominal start (R256), kSet while the frame that enters lock by JUMP is still to start; fallback the action of R66 in effect; odd the second member
of a split pair, which cfg.split marks on both; unlocked marks a LOCKED generator restored before TIME_LOCK is ready, which runs FREE
until then (R403). -/
structure TgRec where
  cfg     : ModeCfg
  jobs    : List Job
  waiting : Option Job
  running : Bool
  odd     : Bool
  frame   : Nat
  startFt : Nat
  startClk : Nat
  period  : Nat
  line    : Nat
  blanking : Bool
  started : Bool
  k       : Nat
  lastK   : Nat
  lastNom : Nat
  kSet    : Bool
  slewing : Bool
  phase   : Int
  good    : Nat
  poor    : Nat
  locked  : Bool
  trim    : Int
  atBound : Bool
  fallback : Option Nat
  ready   : List Bool
  pacing  : Bool
  paceSince : Nat
  readPic : Option Nat
  unlocked : Bool
  deriving DecidableEq, Repr

/-- A DisplayPort source (R232 to R237, R421). limRate and limLanes are the limits it last trained under (R234), drive the levels of
OUT_DP_DRIVE, pattern is the training pattern of the equalization phase, 2 to 4. -/
structure DpRec where
  hpd     : Bool
  caps    : SinkCaps
  trained : Bool
  rate    : Nat
  lanes   : Nat
  limRate : Nat
  limLanes : Nat
  tryRate : Nat
  tryLanes : Nat
  training : Bool
  retry   : Bool
  drive   : Nat
  depth   : Nat
  short   : Bool
  msaIgnore : Bool
  pattern : Nat
  edid    : List Byte
  edidOk  : Bool
  edidBusy : Bool
  wholeFrame : Bool
  deriving DecidableEq, Repr

/-- A check rectangle (R239 to R252). last is the result of the last evaluated frame, 2 before one (R244). -/
structure ChkRec where
  mode    : Nat
  action  : Nat
  inter   : Bool
  x       : Nat
  y       : Nat
  w       : Nat
  h       : Nat
  expect  : Nat
  persist : Nat
  tiles   : List Nat
  jobs    : List Job
  refAcc  : Nat
  linkAcc : Nat
  done    : Bool
  prev    : Option Nat
  link    : Nat
  comp    : Nat
  frame   : Nat
  result  : Nat
  last    : Nat
  fails   : Nat
  failAt  : Option Nat
  relq    : Bool
  win     : Bool
  winRes  : Nat
  winCnt  : Nat
  deriving DecidableEq, Repr

/-- An output pipe (R181 to R215, R248): the late flag of the last commit, the rectangle that holds the output blank, whether the
hold is in effect and whether an event has ended it. -/
structure PipeRec where
  lastLate : Bool
  blankBy  : Option Nat
  blanked  : Bool
  endBlank : Bool
  nextBlank : Option Nat
  deriving DecidableEq, Repr

/-- A tracked contact (R370, R371, R386): panel and output coordinates, peak delta, the cycle of its DOWN and that cycle's start,
and its peak node. -/
structure ContactRec where
  x    : Nat
  y    : Nat
  ox   : Nat
  oy   : Nat
  delta : Nat
  down : Nat
  downAt : Nat
  peak : Nat
  deriving DecidableEq, Repr

/-- A touch port's map (R373). -/
structure TouchMapRec where
  out    : Nat
  orient : Nat
  px0    : Nat
  py0    : Nat
  px1    : Nat
  py1    : Nat
  ox     : Nat
  oy     : Nat
  ow     : Nat
  oh     : Nat
  deriving DecidableEq, Repr

/-- A touch port (R365 to R386). Baselines are in 16.16; raw counts are those of the last completed cycle, in node and electrode
order; frozen lists what was frozen in it; noise holds the noise of the last four cycles, newest first; open_ and short hold each
electrode's condition, how many cycles in a row it has held, and its bit. first is the number of the next cycle that may run, cur that of a
cycle in progress at a time step (R367), stopping says that the port stops in its next report slot (R372). -/
structure TouchRec where
  scanning : Bool
  seed     : Bool
  refUsed  : Bool
  freq     : Nat
  hopped   : Bool
  rawM     : List Nat
  rawS     : List Nat
  baseM    : List Nat
  baseS    : List Nat
  frozenM  : List Nat
  frozenS  : List Nat
  contacts : Tab ContactRec
  map      : TouchMapRec
  cycle    : Nat
  noise    : List (List Nat)
  atBound  : Bool
  wet      : Nat
  first    : Nat
  cur      : Option Nat
  stopping : Bool
  open_    : List (Bool × Nat × Bool)
  short    : List (Bool × Nat × Bool)
  deriving DecidableEq, Repr

/-- The wake sequencer in DORMANT (R384): group baselines in 16.16 (8 sense, 14 drive), the scan number, the contact now present (its
first scan and first position in 1/16 group), whether it has stayed near, and the first scan and position of the tap before. -/
structure WakeRec where
  seeded : Bool
  base   : List Nat
  scan   : Nat
  cur    : Option (Nat × Nat × Nat)
  near   : Bool
  tap    : Option (Nat × Nat × Nat)
  deriving DecidableEq, Repr

/-- The touch ports and the wake sequencer. -/
structure TouchUnit where
  ports : Tab TouchRec
  wake  : WakeRec
  deriving DecidableEq, Repr

/-- The configuration in the resume image (R400): registers, rings, state blocks, policies, bindings, slates, check configurations, the
settings of the objects, TEPHRA_USED, and the device's claim, which is the value of FAB_DOMAIN.CLAIM. pubs are the publication counts of
the band blocks; svn is that of the firmware copy. -/
structure ResumeImage where
  regs   : Tab U32
  mpu    : Tab MpuRegion
  sq     : Tab SqRec
  cq     : Tab CqRec
  evq    : Tab CqRec
  lastSq : Tab Nat
  act    : Tab (List Byte)
  shd    : Tab (List Byte)
  policies : Tab PolicyRec
  sources : Tab SourceRec
  binds  : Tab TileBind
  bindsShd : Tab TileBind
  slates : Tab SlateRec
  surfs  : Tab SurfRec
  pubs   : Tab PubRec
  chks   : Tab ChkRec
  tgs    : Tab TgRec
  caps   : Tab CapRec
  maps   : Tab TouchMapRec
  time   : TimeCfg
  domain : Nat
  claimed : Bool
  tephraUsed : Bool
  svn    : Nat
  deriving DecidableEq, Repr

/-- A DORMANT_ENTER from its acceptance to the resume (R398 to R404): its command, the wake sources and links, the capture ports as they
were, whether its completion is posted, whether a trip in DORMANT has ended every wake (R413), the resume image, and the events
that wait for the rings (R404). -/
structure DormRec where
  job    : Job
  wake   : Nat
  links  : Nat
  caps   : Tab CapRec
  posted : Bool
  dead   : Bool
  image  : Option ResumeImage
  events : List (List Byte)
  deriving DecidableEq, Repr

end Sys2Proof.Machine
end

