-- ==== Sys2Proof/Machine/State.lean ====
section
/-! DEFINITION. The state of the device as plain data, its value right after reset, and the reasons a step could stop. -/

namespace Sys2Proof.Machine

/-- The SYS region (R257 to R266, R318 to R341, R387 to R416); wakeEv is the TOUCH_WAKE that waits for MGMT (R384). -/
structure SysRec where
  mode    : Mode
  cause   : Nat
  wakeSrc : Nat
  ready   : Nat
  power   : PowerRec
  boot    : BootRec
  mbx     : Tab MbxRec
  mpu     : Tab MpuRegion
  parity  : List Nat
  dap     : DapRec
  therm   : ThermRec
  dorm    : Option DormRec
  wakeEv  : Option (List Byte)
  deriving DecidableEq, Repr

/-- The rings, interrupts and doorbells of the two functions (R260 to R276, R402): rings by function and number, event rings by window and
function, completions not yet written, fetched descriptors, the SQ last served of each priority, commands that wait for their DMA, the functions'
configuration spaces (R257), the MSI-X tables (dword k of function f under 256f + k) and
pending bits (64f + vector), and doorbell values held in DORMANT. -/
structure HostRec where
  sq       : Tab SqRec
  cq       : Tab CqRec
  evq      : Tab CqRec
  done     : List DoneRec
  inFlight : List Flight
  lastSq   : Tab Nat
  dma      : List DmaWait
  pcie     : Tab PcieFn
  msix     : Tab U32
  pba      : List Nat
  dormDb   : Tab U32
  deriving DecidableEq, Repr

/-- The fabric (R104 to R138): links, MGMT requesters and responders, the next event SEQ of each device behind this gateway, packets
delivered inside the device, the domain that claimed it, and TEPHRA_USED. -/
structure FabRec where
  links   : Tab LinkRec
  reqs    : Tab MRequester
  resps   : Tab MResponder
  evSeqs  : Tab Nat
  localQ  : List Packet
  domain  : Nat
  claimed : Bool
  tephraUsed : Bool
  deriving DecidableEq, Repr

/-- Surfaces, what their producers have published, and the buffers that pipes read in a frame in progress (R187): pipe,
producer, buffer. -/
structure SurfUnit where
  surfs   : Tab SurfRec
  pubs    : Tab PubRec
  reading : List (Nat × Nat × Nat)
  release : List Job
  deriving DecidableEq, Repr

/-- The decode side (R139 to R180) and the RASTER receivers (R124). -/
structure DecUnit where
  ctxs    : Tab CtxRec
  engs    : Tab EngRec
  rasters : Tab RasterRec
  deriving DecidableEq, Repr

/-- Composition (R181 to R218): state blocks of the active state and the shadow, keyed by type, pipe and layer; slates and the
slate copies under way. -/
structure CmpUnit where
  act     : Tab (List Byte)
  shd     : Tab (List Byte)
  pipes   : Tab PipeRec
  slates  : Tab SlateRec
  copies  : List (Job × List Byte)
  deriving DecidableEq, Repr

/-- Scan-out (R219 to R256). -/
structure ScanUnit where
  tgs     : Tab TgRec
  dps     : Tab DpRec
  chks    : Tab ChkRec
  deriving DecidableEq, Repr

/-- The whole device. pending is the queue of commands, first in, first out; held the ring commands whose earlier descriptors or
objects are still busy (R274, R275); out what the device has put out, newest first; clk the local clock in ns; ft the fabric time; free
counts the values left open by the spec that have been used (the model's own field); evSeq the event count (R284); rate when each
rate-limited event kind was last raised; regs the stored registers that differ from their reset values or have been written; mem
the device memory; then the units. -/
structure State where
  pending : List Instr
  held    : List Instr
  out     : List Out
  clk     : Nat
  ft      : U64
  free    : Nat
  evSeq   : Nat
  rate    : Tab Nat
  regs    : Tab U32
  mem     : List Host.Cell
  otp     : OtpRec
  aon     : AonRec
  straps  : Straps
  sys     : SysRec
  host    : HostRec
  fab     : FabRec
  dram    : MemRec
  chans   : Tab ChanRec
  pair    : PairRec
  mir     : MirrorRec
  commits : List CommitRec
  time    : TimeRec
  surf    : SurfUnit
  fum     : FumRec
  dec     : DecUnit
  caps    : Tab CapRec
  encs    : Tab EncRec
  cmp     : CmpUnit
  scan    : ScanUnit
  touch   : TouchUnit
  lanes   : LaneUnit
  deriving DecidableEq, Repr

/-- Why a step could stop with a fault. No command of this block does: the spec says of every bad access, value and range what the
device does with it (it is refused, counted, captured or ignored). -/
inductive Fault where
  deriving DecidableEq, Repr

/-- Why a step could be refused. -/
inductive Refusal where
  /-- A command without a meaning, rejected by its mnemonic; raised by an arm of exec alone. Safe: the step stops and nothing can be
  proved of a next state. -/
  | notModelled (mnemonic : String)
  deriving DecidableEq, Repr

/-! ## Reset -/

/-- OTP as this model assumes it (R331, R339, R420, R455; DESIGN CHOICE): a shipped part of grade C in PRODUCTION, with valid data in every Class F
group; the values the spec leaves to programming are 0. (DESIGN CHOICE: log entry 7.) -/
def OtpRec.reset : OtpRec :=
  { subVendor := 0x1FD3, subsys := 0, keyHash := List.replicate 48 0, uid := 0, lifecycle := 1, advance := false, grade := 1, manuf := 0, svnMin := 0, calf := 0x7FF,
    rcTrim := 128, gain := List.replicate 128 128 }

/-- The always-on island's records, empty (R397). (DESIGN CHOICE: log entry 8.) -/
def AonRec.reset : AonRec :=
  { fault := [], freeze := [], freezeTime := 0, relq := [], panels := [[], []], peak := none, hot := 0 }

/-- The SYS region after reset (R266, R288, R388, R411): BRINGUP, PD0 and PD2 powered, no image, the port disabled in PRODUCTION.
(DESIGN CHOICE: log entry 8.) -/
def SysRec.reset : SysRec :=
  { mode := .bringup, cause := 0, wakeSrc := 0, ready := 0,
    power := { on := 5, gated := [], refOk := false, memLock := false, strLock := false, sysLock := false, released := false,
               resetDue := none, cut := false },
    boot := { window := [], staging := [], pages := [], busy := false, copying := none, verifying := false, verified := false,
              fail := 0, fails := 0, svn := 0 },
    mbx := [], mpu := [], parity := [],
    dap := { ir := 1, addr := 0, len := 0, armed := false, got := [], words := [], busy := false, denied := false, refused := false },
    therm := { step := 16, atBound := false, tripped := false, temps := [0, 0, 0, 0, 0, 0, 0, 0, 0] },
    dorm := none, wakeEv := none }

/-- The memory controller before training (R291, R292, R315): every segment lost. -/
def MemRec.reset : MemRec :=
  { trained := false, chTrained := 0, config := 0, segReady := 0, lost := 0xFF, initSeg := none, frozen := none, retrain := none,
    selfRefresh := false, ingress := [], throttle := [], throttleEnd := [], scrubAt := 0, tokens := [], asked := [], resetN := false, hamOcc := [],
    test := { on := false, pattern := 0, base := 0, size := 0, pos := 0, reading := false, passes := 0, bad := 0, first := 0 } }

/-- The pair right after reset (R344, R361): UNPAIRED, REF_OUTPUT none, ALIAS 0x3FF. -/
def PairRec.reset : PairRec :=
  { enable := false, state := 0, ownO := false, selO := false, ownI := false, claimFrom := 10000, roleB := false, claimAt := 0,
    trig := 0, barred := false, barCause := 0, autoClaim := false, reqSync := false, refOut := none, addrAlias := 0x3FF,
    unlockMs := 0, ackUs := 0, aliasStreams := 0, classes := 0, stage := 0, disagree := [], disagreed := [] }

/-- The time base right after reset (R46, R53, R67): FREE, the settings in force until a TIME_CFG. (DEDUCED: log entry 23.) -/
def TimeRec.reset : TimeRec :=
  { st := .free, parent := none, hops := 0x1F, u0 := 0, uRe := 0, holdAt := 0, refCorr := 0, lockedCorr := 0, slew := 0, frac := 0,
    cfg := { root := false, period := 3, inMask := 0, outMask := 0, holdMs := 2000, rateLimit := 200000, resync := false,
             initTime := 0, asym := [] },
    queue := [], links := [], seq := 0, good := 0, poor := 0, ever := false, since := 0, atBound := false, rootNow := 0x3FF }

/-- Fumarole right after reset (R15, R40): policies at their defaults, every source and tile UNASSIGNED. -/
def FumRec.reset : FumRec :=
  { policies := [], tickPol := [], sources := [], act := [], shadow := [], tiles := [], snap := none, negOut := 0, misOut := 0 }

/-- The machine right after reset (R288, R396): every unit table empty, so that each unit reads as its reset value; no command waits.
(DESIGN CHOICE: log entry 8.) -/
def State.reset : State :=
  { pending := [], held := [], out := [], clk := 0, ft := 0, free := 0, evSeq := 0, rate := [], regs := [], mem := [],
    otp := OtpRec.reset, aon := AonRec.reset,
    straps := { roleB := false, halfRate := false, refHcsl := false, pcieEn := false },
    sys := SysRec.reset,
    host := { sq := [], cq := [], evq := [], done := [], inFlight := [], lastSq := [], dma := [], pcie := [], msix := [], pba := [], dormDb := [] },
    fab := { links := [], reqs := [], resps := [], evSeqs := [], localQ := [], domain := 0x3FF, claimed := false, tephraUsed := false },
    dram := MemRec.reset, chans := [], pair := PairRec.reset,
    mir := { txSeq := 0, recId := 0, rxSeq := 0, inSync := false, busy := false, partRec := none, lastRec := 0, waiting := [], dropped := 0,
             late := [], ended := false },
    commits := [], time := TimeRec.reset,
    surf := { surfs := [], pubs := [], reading := [], release := [] },
    fum := FumRec.reset,
    dec := { ctxs := [], engs := [], rasters := [] },
    caps := [], encs := [],
    cmp := { act := [], shd := [], pipes := [], slates := [], copies := [] },
    scan := { tgs := [], dps := [], chks := [] },
    touch := { ports := [], wake := { seeded := false, base := [], scan := 0, cur := none, near := false, tap := none } },
    lanes := { lanes := [], trims := [] } }

end Sys2Proof.Machine
end

