-- ==== Sys2Proof/Machine/Ops.lean ====
section
/-! DEFINITION. The named operations over tables, bytes, memory and stored registers. -/

namespace Sys2Proof

/-- The entry of a table; none where the number is not listed. -/
def Tab.get? {α : Type} : Tab α → Nat → Option α
  | [], _ => none
  | (j, v) :: t, k => if k = j then some v else Tab.get? t k

/-- The entry of a table, or the reset value given. -/
def Tab.getD {α : Type} (t : Tab α) (k : Nat) (d : α) : α := (t.get? k).getD d

/-- Set an entry, keeping the numbers strictly rising. -/
def Tab.set {α : Type} : Tab α → Nat → α → Tab α
  | [], k, v => [(k, v)]
  | (j, w) :: t, k, v =>
    if k < j then (k, v) :: (j, w) :: t
    else if k = j then (k, v) :: t
    else (j, w) :: Tab.set t k v

/-- Remove an entry. -/
def Tab.erase {α : Type} (t : Tab α) (k : Nat) : Tab α := t.filter (fun e => !(e.1 == k))

namespace Machine

/-- Bits [hi:lo] of a number. -/
def bits (x hi lo : Nat) : Nat := (x >>> lo) % 2 ^ (hi + 1 - lo)

/-- One bit of a number. -/
def bit (x i : Nat) : Bool := x.testBit i

/-- A Bool as 0 or 1. -/
def b2n (b : Bool) : Nat := if b then 1 else 0

/-- Set or clear one bit of a number. -/
def setBit (x i : Nat) (b : Bool) : Nat :=
  if x.testBit i = b then x else if b then x + 2 ^ i else x - 2 ^ i

/-- The low n bytes of a number, low byte first (R3). -/
def leBytes : Nat → Nat → List Byte
  | 0, _ => []
  | n + 1, x => BitVec.ofNat 8 x :: leBytes n (x / 256)

/-- The number that little-endian bytes spell (R3). -/
def leNat : List Byte → Nat
  | [] => 0
  | b :: bs => b.toNat + 256 * leNat bs

/-- Two's complement reading of the low w bits of a number. -/
def sInt (w x : Nat) : Int :=
  let y := x % 2 ^ w
  if y < 2 ^ (w - 1) then (y : Int) else (y : Int) - (2 ^ w : Nat)

/-- The low w bits of an integer in two's complement. -/
def ofInt (w : Nat) (i : Int) : Nat := (i % ((2 ^ w : Nat) : Int)).toNat

/-- Bytes [off, off + n) of a list, a missing byte read as 0. -/
def slice (b : List Byte) (off n : Nat) : List Byte :=
  let x := (b.drop off).take n
  x ++ List.replicate (n - x.length) 0

/-- The little-endian field of n bytes at an offset of a byte list. -/
def fieldAt (b : List Byte) (off n : Nat) : Nat := leNat (slice b off n)

/-- A saturating 32-bit count (R325). -/
def satInc (x : U32) (n : Nat) : U32 := BitVec.ofNat 32 (min (x.toNat + n) 0xFFFFFFFF)

/-! ## Device memory -/

/-- What an unlisted device address reads as: the zero data of R314. (DEDUCED: log entry 9.) -/
def memDefault : Byte := 0

/-- The canonical form of memory: addresses strictly rising, no entry equal to memDefault. -/
def Memory.wf : List Host.Cell → Bool
  | [] => true
  | [(_, b)] => !(b == memDefault)
  | (a, b) :: (a', b') :: m => !(b == memDefault) && decide (a < a') && Memory.wf ((a', b') :: m)

/-- Read one byte of memory. (DEDUCED: log entry 9.) -/
def memGet : List Host.Cell → Nat → Byte
  | [], _ => memDefault
  | (x, c) :: m, a => if a = x then c else memGet m a

/-- Write one byte of memory, keeping the canonical form. -/
def memSet : List Host.Cell → Nat → Byte → List Host.Cell
  | [], a, b => if b = memDefault then [] else [(a, b)]
  | (x, c) :: m, a, b =>
    if a < x then (if b = memDefault then (x, c) :: m else (a, b) :: (x, c) :: m)
    else if a = x then (if b = memDefault then m else (a, b) :: m)
    else (x, c) :: memSet m a b

/-- Write bytes at rising addresses (R283, R295). -/
def memWrite : List Host.Cell → Nat → List Byte → List Host.Cell
  | m, _, [] => m
  | m, a, b :: bs => memWrite (memSet m a b) (a + 1) bs

/-- Read n bytes. -/
def memRead (m : List Host.Cell) (a : Nat) : Nat → List Byte
  | 0 => []
  | n + 1 => memGet m a :: memRead m (a + 1) n

/-- Zero every byte of [lo, hi) (R314). (DEDUCED: log entry 9.) -/
def memClear (m : List Host.Cell) (lo hi : Nat) : List Host.Cell :=
  m.filter (fun e => !(decide (lo ≤ e.1) && decide (e.1 < hi)))

/-- Bytes of [lo, lo + n) replaced by f of their index (R399). -/
def memFill (m : List Host.Cell) (lo n : Nat) (f : Nat → Byte) : List Host.Cell :=
  m.filter (fun e => decide (e.1 < lo)) ++ ((List.range n).map (fun i => (lo + i, f i))).filter (fun e => !(e.2 == memDefault))
    ++ m.filter (fun e => decide (lo + n ≤ e.1))

/-! ## Stored registers -/

/-- The reset value of a register instance from its fields. -/
def RegDef.resetVal (d : RegDef) : Nat :=
  d.flds.foldl (fun a f => a + (f.reset % 2 ^ (f.hi + 1 - f.lo)) * 2 ^ f.lo) 0

/-- The reset values that the map cannot give by a number: the VECTOR of a CQ is its number (HST_CQ_CTRL), PF0's event mask
is 0xFF (HST_EVQ_MASK), the state colours (Table: default state colours), HALF_RATE follows its strap (R104), DAP_EN follows the lifecycle (R339), and
slot 0 of EDG_TCH_FREQ holds 200,000 Hz. -/
def specialReset (s : State) (base i j : Nat) : Option Nat :=
  if base = Reg.HST_CQ_CTRL then some (1 + j * 0x10000)
  else if base = Reg.HST_EVQ_MASK then some (if i = 0 then 0xFF else 0)
  else if base = Reg.FAB_LINK_CTRL then some (1 + 2 * b2n s.straps.halfRate)
  else if base = Reg.SYS_DEBUG_CTRL then some (if s.otp.lifecycle = 1 then 0 else 1)
  else if base = Reg.EDG_TCH_FREQ then some (if j = 0 then 0x80000000 + 200000 else 0)
  else if base = Reg.FUM_COLOUR then
    some (([0x000FFC00, 0x3FFFFC00, 0x3FF80000, 0x000403FF, 0x3FF00000, 0x3FF003FF, 0x3FF00000, 0x08020080] : List Nat).getD i 0)
  else none

/-- The reset value of the register at an offset (0 for an unimplemented one); a window's event ring registers (R285) are those of the
device behind it. -/
def regReset (s : State) (off : Nat) : U32 :=
  match findReg (off % 0x1000000) with
  | none => 0
  | some (d, i, j) => BitVec.ofNat 32 ((specialReset s d.base i j).getD d.resetVal)

/-- A stored register's value as a number. (DEDUCED: log entry 10.) -/
def State.reg (s : State) (off : Nat) : Nat :=
  match s.regs.get? off with
  | some v => v.toNat
  | none => (regReset s off).toNat

/-- Store a register's value. -/
def State.setReg (s : State) (off v : Nat) : State := { s with regs := s.regs.set off (BitVec.ofNat 32 v) }

/-- Add to a saturating counter register (R325). -/
def State.bumpBy (s : State) (off n : Nat) : State :=
  { s with regs := s.regs.set off (satInc (s.regs.getD off 0) n) }

/-- Count one in a saturating counter register (R325). -/
def State.bump (s : State) (off : Nat) : State := s.bumpBy off 1

/-- The value of a counter register. -/
def State.cnt (s : State) (off : Nat) : Nat := (s.regs.getD off 0).toNat

/-- Put something out. (DESIGN CHOICE: log entry 6.) -/
def State.emit (s : State) (o : Out) : State := { s with out := o :: s.out }

/-- A fresh free value and the state that has used it. (DESIGN CHOICE: log entry 1.) -/
def State.fresh (s : State) : Nat × State := (Config.freeNat s.free, { s with free := s.free + 1 })

/-- n bytes, each left open by the spec. (DESIGN CHOICE: log entry 44.) -/
def freeBytes : Nat → State → List Byte × State
  | 0, s => ([], s)
  | n + 1, s =>
    let (x, s) := s.fresh
    let (bs, s) := freeBytes n s
    (BitVec.ofNat 8 x :: bs, s)

/-- Whether an event kind may be raised now, at most once per period ns, and the state that notes it. -/
def State.rateOk (s : State) (key period : Nat) : Bool :=
  match s.rate.get? key with
  | none => true
  | some t => decide (t + period ≤ s.clk)

/-- Note that a rate-limited event kind is raised now. -/
def State.rateMark (s : State) (key : Nat) : State := { s with rate := s.rate.set key s.clk }

/-! ## Readiness and modes -/

/-- The manual's number of a mode (R393). -/
def Mode.code : Mode → Nat
  | .bringup => 0 | .active => 1 | .standby => 2 | .dormant => 3 | .frozen => 4 | .service => 5

/-- The code of a completion status (R279). -/
def Status.code : Status → Nat
  | .done => 0 | .notReady => 1 | .badDescriptor => 2 | .unsupported => 3 | .outOfBounds => 4 | .noResource => 5
  | .linebufExceeded => 6 | .tileOverlap => 7 | .denied => 8 | .notOwner => 9 | .aborted => 10 | .mirrorTimeout => 11

/-- Whether a readiness bit reads 1 (R262). -/
def State.isReady (s : State) (i : Nat) : Bool := bit s.sys.ready i

/-- The device is a gateway: HOST is ready (R125). (DEDUCED: log entry 112.) -/
def State.isGateway (s : State) : Bool := s.isReady 0

/-- This device's fabric address (R123). -/
def State.addr (s : State) : Nat := bits (s.reg Reg.FAB_NODE_ADDR) 9 0

/-- This device's domain: its own address on a gateway, else the domain that claimed it, 0x3FF for none (R125). -/
def State.domain (s : State) : Nat :=
  if s.isGateway then s.addr else if s.fab.claimed then s.fab.domain else 0x3FF

/-- The usable DRAM in bytes (R291); 0 before training. -/
def State.usable (s : State) : Nat :=
  match s.dram.config with
  | 1 => 7 * 2 ^ 30 | 2 => 14 * 2 ^ 30 | 3 => 28 * 2 ^ 30 | 4 => 42 * 2 ^ 30 | _ => 0

/-- Fabric time in µs, low 32 bits. -/
def State.ftUs (s : State) : Nat := (s.ft.toNat / 1000) % 2 ^ 32

/-! ## The link table -/

/-- A link right after reset (R104, R107, R110). -/
def LinkRec.init : LinkRec :=
  { st := .disabled, mismatch := false, locks := 0, half := false, reversed := false, pol := 0, peerAddr := 0x3FF,
    peerDom := 0x3FF, peerLink := 0xF, peerFlags := 0, peerUid := 0, capsSent := false, capsAcked := false, capsSeen := false,
    cur := none, curAbt := false, skpDue := false, sets := 0, peerSet := none, queue := [], cutFrom := none, crcOpen := false, crcMore := 0, errs := [], skps := 0,
    rxPkts := 0, txPkts := 0,
    tephra := { action := 0, mask := 0, prob := false, payload := false, n := 0, k := 0, bits := 0, m := 0, limit := 0,
                lfsr := 1, seen := 0, done := 0, heldPkt := none } }

/-- Link l. -/
def State.link (s : State) (l : Nat) : LinkRec := s.fab.links.getD l LinkRec.init

/-- Replace link l. -/
def State.setLink (s : State) (l : Nat) (r : LinkRec) : State := { s with fab.links := s.fab.links.set l r }

/-- A link's time record before any exchange. -/
def TimeLink.init : TimeLink :=
  { open_ := [], have_ := false, fresh := false, age := 0, d := 0, theta := 0, seq := 0, hops := 0, state := 0, root := 0,
    seen := 0x3FF, seenAge := 0, jumped := false }

def State.tlink (s : State) (l : Nat) : TimeLink := s.time.links.getD l TimeLink.init
def State.setTlink (s : State) (l : Nat) (r : TimeLink) : State := { s with time.links := s.time.links.set l r }

/-- Link l is in UP. -/
def State.linkUp (s : State) (l : Nat) : Bool := decide ((s.link l).st = .up)

end Machine
end Sys2Proof
end

