-- ==== Sys2Proof/Machine/Crypto.lean ====
section
/-! DEFINITION. SHA-384 and the ECDSA P-384 check, which the spec names for the firmware image (R265) and takes from their
standards. -/

namespace Sys2Proof
namespace Machine

/-! ## SHA-384 -/

/-- Round constants 0 to 19 of SHA-384. (PRESUMED: log entry 142.) -/
def shaRound0 : List U64 :=
  [0x428A2F98D728AE22, 0x7137449123EF65CD, 0xB5C0FBCFEC4D3B2F, 0xE9B5DBA58189DBBC,
   0x3956C25BF348B538, 0x59F111F1B605D019, 0x923F82A4AF194F9B, 0xAB1C5ED5DA6D8118,
   0xD807AA98A3030242, 0x12835B0145706FBE, 0x243185BE4EE4B28C, 0x550C7DC3D5FFB4E2,
   0x72BE5D74F27B896F, 0x80DEB1FE3B1696B1, 0x9BDC06A725C71235, 0xC19BF174CF692694,
   0xE49B69C19EF14AD2, 0xEFBE4786384F25E3, 0x0FC19DC68B8CD5B5, 0x240CA1CC77AC9C65]

/-- Round constants 20 to 39 of SHA-384. (PRESUMED: log entry 142.) -/
def shaRound1 : List U64 :=
  [0x2DE92C6F592B0275, 0x4A7484AA6EA6E483, 0x5CB0A9DCBD41FBD4, 0x76F988DA831153B5,
   0x983E5152EE66DFAB, 0xA831C66D2DB43210, 0xB00327C898FB213F, 0xBF597FC7BEEF0EE4,
   0xC6E00BF33DA88FC2, 0xD5A79147930AA725, 0x06CA6351E003826F, 0x142929670A0E6E70,
   0x27B70A8546D22FFC, 0x2E1B21385C26C926, 0x4D2C6DFC5AC42AED, 0x53380D139D95B3DF,
   0x650A73548BAF63DE, 0x766A0ABB3C77B2A8, 0x81C2C92E47EDAEE6, 0x92722C851482353B]

/-- Round constants 40 to 59 of SHA-384. (PRESUMED: log entry 142.) -/
def shaRound2 : List U64 :=
  [0xA2BFE8A14CF10364, 0xA81A664BBC423001, 0xC24B8B70D0F89791, 0xC76C51A30654BE30,
   0xD192E819D6EF5218, 0xD69906245565A910, 0xF40E35855771202A, 0x106AA07032BBD1B8,
   0x19A4C116B8D2D0C8, 0x1E376C085141AB53, 0x2748774CDF8EEB99, 0x34B0BCB5E19B48A8,
   0x391C0CB3C5C95A63, 0x4ED8AA4AE3418ACB, 0x5B9CCA4F7763E373, 0x682E6FF3D6B2B8A3,
   0x748F82EE5DEFB2FC, 0x78A5636F43172F60, 0x84C87814A1F0AB72, 0x8CC702081A6439EC]

/-- Round constants 60 to 79 of SHA-384. (PRESUMED: log entry 142.) -/
def shaRound3 : List U64 :=
  [0x90BEFFFA23631E28, 0xA4506CEBDE82BDE9, 0xBEF9A3F7B2C67915, 0xC67178F2E372532B,
   0xCA273ECEEA26619C, 0xD186B8C721C0C207, 0xEADA7DD6CDE0EB1E, 0xF57D4F7FEE6ED178,
   0x06F067AA72176FBA, 0x0A637DC5A2C898A6, 0x113F9804BEF90DAE, 0x1B710B35131C471B,
   0x28DB77F523047D84, 0x32CAAB7B40C72493, 0x3C9EBE0A15C9BEBC, 0x431D67C49C100D4C,
   0x4CC5D4BECB3E42B6, 0x597F299CFC657E2A, 0x5FCB6FAB3AD6FAEC, 0x6C44198C4A475817]

/-- The 80 round constants. -/
def shaRounds : List U64 := shaRound0 ++ shaRound1 ++ shaRound2 ++ shaRound3

/-- The eight hash words before the first block. (PRESUMED: log entry 142.) -/
def shaInit : List U64 :=
  [0xCBBB9D5DC1059ED8, 0x629A292A367CD507, 0x9159015A3070DD17, 0x152FECD8F70E5939,
   0x67332667FFC00B31, 0x8EB44A8768581511, 0xDB0C2E0D64F98FA7, 0x47B5481DBEFA4FA4]

def shaSmall0 (x : U64) : U64 := x.rotateRight 1 ^^^ x.rotateRight 8 ^^^ (x >>> 7)
def shaSmall1 (x : U64) : U64 := x.rotateRight 19 ^^^ x.rotateRight 61 ^^^ (x >>> 6)
def shaBig0 (x : U64) : U64 := x.rotateRight 28 ^^^ x.rotateRight 34 ^^^ x.rotateRight 39
def shaBig1 (x : U64) : U64 := x.rotateRight 14 ^^^ x.rotateRight 18 ^^^ x.rotateRight 41

/-- k more words of the message schedule, newest first. -/
def shaSchedule : Nat → List U64 → List U64
  | 0, w => w
  | k + 1, w => shaSchedule k ((shaSmall1 (w.getD 1 0) + w.getD 6 0 + shaSmall0 (w.getD 14 0) + w.getD 15 0) :: w)

/-- One round on the eight working words, with a constant and a schedule word. -/
def shaRound (v : List U64) (kw : U64 × U64) : List U64 :=
  match v with
  | [a, b, c, d, e, f, g, h] =>
    let t1 := h + shaBig1 e + ((e &&& f) ^^^ (~~~e &&& g)) + kw.1 + kw.2
    let t2 := shaBig0 a + ((a &&& b) ^^^ (a &&& c) ^^^ (b &&& c))
    [t1 + t2, a, b, c, d + t1, e, f, g]
  | _ => v

/-- The number that big-endian bytes spell. -/
def beNat (b : List Byte) : Nat := b.foldl (fun n x => n * 256 + x.toNat) 0

/-- The 16 words of a 128-byte block, newest first. -/
def shaWords : Nat → List Byte → List U64
  | 0, _ => []
  | k + 1, b => shaWords k (b.drop 8) ++ [BitVec.ofNat 64 (beNat (b.take 8))]

/-- The hash words after one block. -/
def shaBlock (h : List U64) (b : List Byte) : List U64 :=
  let w := (shaSchedule 64 (shaWords 16 b)).reverse
  List.zipWith (· + ·) h ((shaRounds.zip w).foldl shaRound h)

/-- k blocks of a padded message. -/
def shaBlocks : Nat → List U64 → List Byte → List U64
  | 0, h, _ => h
  | k + 1, h, b => shaBlocks k (shaBlock h (b.take 128)) (b.drop 128)

/-- A message with its padding: a one bit, zeros, and its length in bits in 16 big-endian bytes. -/
def shaPad (m : List Byte) : List Byte :=
  m ++ [0x80] ++ List.replicate ((239 - m.length % 128) % 128) 0 ++ (leBytes 16 (8 * m.length)).reverse

/-- SHA-384, as the number that its 48 bytes spell. (PRESUMED: log entry 142.) -/
def sha384 (m : List Byte) : Nat :=
  let p := shaPad m
  ((shaBlocks (p.length / 128) shaInit p).take 6).foldl (fun n x => n * 2 ^ 64 + x.toNat) 0

/-! ## ECDSA over P-384 -/

/-- The field's prime. (PRESUMED: log entry 142.) -/
def p384P : Nat := 2 ^ 384 - 2 ^ 128 - 2 ^ 96 + 2 ^ 32 - 1
/-- The curve's coefficient b; a is -3. -/
def p384B : Nat := 0xB3312FA7E23EE7E4988E056BE3F82D19181D9C6EFE8141120314088F5013875AC656398D8A2ED19D2A85C8EDD3EC2AEF
/-- The order of the base point. -/
def p384N : Nat := 0xFFFFFFFFFFFFFFFFFFFFFFFFFFFFFFFFFFFFFFFFFFFFFFFFC7634D81F4372DDF581A0DB248B0A77AECEC196ACCC52973
def p384Gx : Nat := 0xAA87CA22BE8B05378EB1C71EF320AD746E1D3B628BA79B9859F741E082542A385502F25DBF55296C3A545E3872760AB7
def p384Gy : Nat := 0x3617DE4A96262C6F5D9E98BF9292DC29F8F41DBD289A147CE9DA3113B5F0B8C00A60B1CE1D7E819D7A431D7C90EA0E5F

/-- a - b modulo the field's prime. -/
def p384Sub (a b : Nat) : Nat := (a % p384P + p384P - b % p384P) % p384P

/-- b to the power e modulo m, over w bits of e. -/
def powMod (b e m : Nat) : Nat → Nat
  | 0 => 1 % m
  | w + 1 =>
    let r := powMod b (e / 2) m w
    if e.testBit 0 then r * r % m * b % m else r * r % m

/-- A point in Jacobian coordinates; Z = 0 is the point at infinity. -/
abbrev P384 := Nat × Nat × Nat

/-- Twice a point. -/
def p384Dbl (q : P384) : P384 :=
  let (x, y, z) := q
  let d := z * z % p384P
  let g := y * y % p384P
  let b := x * g % p384P
  let a := 3 * (p384Sub x d * (x + d) % p384P) % p384P
  let x3 := p384Sub (a * a) (8 * b)
  (x3, p384Sub (a * p384Sub (4 * b) x3) (8 * g * g), 2 * y * z % p384P)

/-- The sum of two points. -/
def p384Add (p q : P384) : P384 :=
  let (x1, y1, z1) := p
  let (x2, y2, z2) := q
  if z1 = 0 then q
  else if z2 = 0 then p
  else
    let a := z1 * z1 % p384P
    let b := z2 * z2 % p384P
    let u1 := x1 * b % p384P
    let u2 := x2 * a % p384P
    let s1 := y1 * z2 % p384P * b % p384P
    let s2 := y2 * z1 % p384P * a % p384P
    if u1 = u2 then (if s1 = s2 then p384Dbl p else (1, 1, 0))
    else
      let h := p384Sub u2 u1
      let r := p384Sub s2 s1
      let hh := h * h % p384P
      let hhh := h * hh % p384P
      let v := u1 * hh % p384P
      let x3 := p384Sub (r * r) (hhh + 2 * v)
      (x3, p384Sub (r * p384Sub v x3) (s1 * hhh), h * z1 % p384P * z2 % p384P)

/-- k times a point, over w bits of k. -/
def p384Mul (k : Nat) (q : P384) : Nat → P384
  | 0 => (1, 1, 0)
  | w + 1 =>
    let d := p384Dbl (p384Mul (k / 2) q w)
    if k.testBit 0 then p384Add d q else d

/-- (r, s) is a signature by the point (x, y) over a 384-bit digest. (PRESUMED: log entry 142.) -/
def p384Verify (x y r s digest : Nat) : Bool :=
  if p384P ≤ x ∨ p384P ≤ y ∨ r = 0 ∨ p384N ≤ r ∨ s = 0 ∨ p384N ≤ s ∨ y * y % p384P ≠ p384Sub (x * x * x + p384B) (3 * x) then false
  else
    let w := powMod s (p384N - 2) p384N 384
    let (rx, _, rz) := p384Add (p384Mul (digest * w % p384N) (p384Gx, p384Gy, 1) 384) (p384Mul (r * w % p384N) (x, y, 1) 384)
    rz != 0 && rx * powMod (rz * rz % p384P) (p384P - 2) p384P 384 % p384P % p384N == r

end Machine
end Sys2Proof
end

