-- ==== Sys2Proof/Machine/Events.lean ====
section
/-! DEFINITION. Packets and their routing (R113 to R123), the MGMT requester (R128), host writes direct or through the gateway
(R131, R277), rings of completion and event entries, and the raising of events (R284 to R286): the operations every unit uses. -/

namespace Sys2Proof

open Machine

/-! ## Packets -/

def Packet.dest (p : Packet) : Nat := bits p.hdr.toNat 9 0
def Packet.src (p : Packet) : Nat := bits p.hdr.toNat 25 16
def Packet.cls (p : Packet) : Nat := bits p.hdr.toNat 28 26
def Packet.flow (p : Packet) : Nat := bits p.hdr.toNat 43 32
def Packet.seq (p : Packet) : Nat := bits p.hdr.toNat 63 48
def Packet.hops (p : Packet) : Nat := bits p.hdr.toNat 68 64
def Packet.len (p : Packet) : Nat := bits p.hdr.toNat 79 72
def Packet.mcast (p : Packet) : Bool := bit p.hdr.toNat 80
def Packet.directed (p : Packet) : Bool := bit p.hdr.toNat 81
def Packet.restart (p : Packet) : Bool := bit p.hdr.toNat 82
def Packet.dom (p : Packet) : Nat := bits p.hdr.toNat 105 96

/-- The packet with its HOPS replaced. -/
def Packet.withHops (p : Packet) (h : Nat) : Packet :=
  let x := p.hdr.toNat
  { p with hdr := BitVec.ofNat 128 (x - bits x 68 64 * 2 ^ 64 + (h % 32) * 2 ^ 64) }

/-- Bytes a packet takes in a queue: header and payload; the check unit appends the CRC on transmit (R115). -/
def Packet.size (p : Packet) : Nat := 16 + p.data.length

/-- The bytes of a packet as sent: header and payload (R106, R115). -/
def Packet.bytes (p : Packet) : List Byte := leBytes 16 p.hdr.toNat ++ p.data

/-- Where the sub-header starts: after the 32-byte route prefix of a directed packet (R121, R127). -/
def Packet.bodyOff (p : Packet) : Nat := if p.directed then 32 else 0

/-- A packet with its SEQ replaced. -/
def Packet.withSeq (p : Packet) (q : Nat) : Packet :=
  let x := p.hdr.toNat
  { p with hdr := BitVec.ofNat 128 (x - bits x 63 48 * 2 ^ 48 + (q % 65536) * 2 ^ 48) }

namespace Machine

/-- Bytes padded with zeros to a multiple of 4 (R113). -/
def pad4 (b : List Byte) : List Byte := b ++ List.replicate ((4 - b.length % 4) % 4) 0

/-- A packet with the header of R113; flags: bit 0 MCAST, bit 1 DIRECTED, bit 2 RESTART. -/
def mkPacket (dest src cls flow seq flags dom : Nat) (data : List Byte) : Packet :=
  let d := pad4 data
  { hdr := BitVec.ofNat 128 (dest % 1024 + (src % 1024) * 2 ^ 16 + (cls % 8) * 2 ^ 26 + (flow % 4096) * 2 ^ 32
      + (seq % 65536) * 2 ^ 48 + ((d.length / 4) % 256) * 2 ^ 72 + (flags % 8) * 2 ^ 80 + (dom % 1024) * 2 ^ 96),
    data := d }

/-- Class codes of R114. -/
def clsMGMT : Nat := 0
def clsSTREAM : Nat := 1
def clsRASTER : Nat := 2
def clsTIME : Nat := 3
def clsMIRROR : Nat := 4
def clsEVENT : Nat := 5
def clsLINK : Nat := 7

/-- Priority of a class: 1 is highest (R114). -/
def clsPrio : Nat → Nat
  | 7 => 1 | 3 => 2 | 4 => 3 | 0 => 3 | 1 => 4 | 2 => 5 | 5 => 6 | _ => 7

/-- Bytes of queue a link holds for a class (R114). -/
def clsCap : Nat → Nat
  | 7 => 1024 | 3 => 2048 | 4 => 262144 | 0 => 32768 | 1 => 262144 | 2 => 262144 | 5 => 16384 | _ => 0

/-- One byte of the reflected CRC-32 of IEEE 802.3. -/
def crcStep (c : Nat) (b : Byte) : Nat :=
  (List.range 8).foldl (fun c _ => if c % 2 = 1 then (c / 2) ^^^ 0xEDB88320 else c / 2) (c ^^^ b.toNat)

/-- The CRC-32 of R115: initial value and final XOR 0xFFFF_FFFF. -/
def crc32 (b : List Byte) : U32 := BitVec.ofNat 32 ((b.foldl crcStep 0xFFFFFFFF) ^^^ 0xFFFFFFFF)

/-! ## Tephra and the transmit side of a link (R114 to R116, R133) -/

/-- Choose n distinct bits out of the list of candidates (R133). -/
def pickBits (lf : U32) : Nat → List Nat → List Nat
  | 0, _ => []
  | n + 1, c =>
    if c.isEmpty then []
    else
      let i := Config.tephraBit lf n % c.length
      let x := c.getD i 0
      x :: pickBits lf n (c.erase x)

/-- Flip the listed bits of a byte list, bit 8i + k being bit k of byte i. (DESIGN CHOICE: log entry 38.) -/
def flipBits (b : List Byte) (xs : List Nat) : List Byte :=
  xs.foldl (fun b x => b.set (x / 8) ((b.getD (x / 8) 0) ^^^ BitVec.ofNat 8 (2 ^ (x % 8)))) b

/-- Bytes striped across the lanes (R106): byte 2i on lane 0, byte 2i + 1 on lane 1. -/
def stripe : List Byte → List (Sym × Sym)
  | a :: b :: r => (.d a, .d b) :: stripe r
  | _ => []

/-- A packet's symbols up to its end (R105, R106): SOP, header, payload and CRC striped; a special symbol stands on both lanes. -/
def frameSyms (p : Packet) (crc : U32) : List (Sym × Sym) := (.k "SOP", .k "SOP") :: stripe (p.bytes ++ leBytes 4 crc.toNat)

/-- The end of a packet on both lanes: EOP, or ABT for one that is aborted (R105, R112). -/
def frameEnd (abt : Bool) : Sym × Sym := if abt then (.k "ABT", .k "ABT") else (.k "EOP", .k "EOP")

/-- A TIME packet with T_TX, the fabric time at which the K28.1 before it leaves (R49); other packets are as they are. -/
def timeStamped (s : State) (p : Packet) : Packet :=
  if p.cls = clsTIME then { p with data := p.data.take 8 ++ leBytes 8 s.ft.toNat ++ p.data.drop 16 } else p

/-- A packet starts on link l: a TIME packet directly behind a K28.1 (R49, R105), and a SYNC begins its exchange (R50). -/
def departs (s : State) (l : Nat) (p : Packet) : State :=
  if p.cls ≠ clsTIME then s
  else
    let s := (s.emit (.symbol l "TSM")).emit (.lanes l [(.k "TSM", .k "TSM")])
    if fieldAt p.data 0 1 ≠ 0 then s
    else
      let t := s.tlink l
      s.setTlink l { t with open_ := t.open_ ++ [(fieldAt p.data 6 2, s.ft, 0)] }

/-- What the transmit side of link l puts out for a packet: the packet with its CRC, its symbols up to the end
(R106) and the count of R138. -/
def sendOn (s : State) (l : Nat) (p : Packet) (crc : U32) : State :=
  let r := s.link l
  ((s.setLink l { r with cur := some p, txPkts := r.txPkts + 1 }).emit (.packet l p crc false)).emit
    (.lanes l (frameSyms p crc))

/-- One Tephra action counted; after COUNT actions the block disarms (R133). -/
def tephraCount (rz : State → Nat → List Byte → State) (s : State) (l : Nat) : State :=
  let r := s.link l
  let t := { r.tephra with done := r.tephra.done + 1 }
  let s := (s.setLink l { r with tephra := t }).bump (Reg.FAB_TEPHRA_COUNT + 4 * l)
  if t.limit ≠ 0 ∧ t.done ≥ t.limit then
    let act := t.action
    let s := s.setLink l { (s.link l) with tephra := { t with action := 0 } }
    rz s 0x0730 (leBytes 1 l ++ leBytes 1 act ++ leBytes 1 0 ++ leBytes 4 t.done)
  else s

/-- Whether Tephra selects an eligible packet now, and the block's next state (R133). (DESIGN CHOICE: log entry 38.) -/
def tephraSelect (t : TephraRec) (p : Packet) : Bool × TephraRec :=
  if t.action = 0 ∨ p.cls = clsLINK ∨ !(bit t.mask p.cls) ∨ (t.action = 2 ∧ t.payload ∧ p.len = 0) then (false, t)
  else
    let t := { t with seen := t.seen + 1 }
    let (hit, t) :=
      if t.prob then (Config.tephraDraw t.lfsr t.k, { t with lfsr := Config.tephraNext t.lfsr })
      else (decide (t.n ≠ 0 ∧ t.seen % t.n = 0), t)
    if t.heldPkt.isSome then (false, t) else (hit, t)

/-- A packet of the held packet's class has been sent: one fewer to wait for (R133). -/
def tephraAge (t : TephraRec) (p : Packet) : TephraRec :=
  match t.heldPkt with
  | some (q, m) => if q.cls = p.cls ∧ bit t.mask p.cls then { t with heldPkt := some (q, m - 1) } else t
  | none => t

/-- Start the waiting packet of the highest priority on an idle link (R114), through Tephra. -/
def startNext (rz : State → Nat → List Byte → State) : Nat → State → Nat → State
  | 0, s, _ => s
  | n + 1, s, l =>
    let r := s.link l
    if r.cur.isSome then s
    else
      match r.tephra.heldPkt with
      | some (q, 0) =>
        let s := departs (s.setLink l { r with tephra := { r.tephra with heldPkt := none } }) l q
        let q := timeStamped s q
        sendOn s l q (crc32 q.bytes)
      | _ =>
        match (List.range 7).findSome? (fun i => r.queue.find? (fun p => clsPrio p.cls == i + 1)) with
        | none => s
        | some p =>
          let r := { r with queue := r.queue.erase p }
          let (hit, t) := tephraSelect r.tephra p
          let s := s.setLink l { r with tephra := t }
          if hit then
            match t.action with
            | 1 => startNext rz n (tephraCount rz s l) l
            | 2 =>
              let s := departs s l p
              let p := timeStamped s p
              if t.payload then
                let xs := pickBits t.lfsr t.bits ((List.range (8 * p.data.length)))
                let q := { p with data := flipBits p.data xs }
                tephraCount rz (sendOn s l q (crc32 q.bytes)) l
              else
                let all := p.bytes ++ leBytes 4 (crc32 p.bytes).toNat
                let b := flipBits all (pickBits t.lfsr t.bits (List.range (8 * all.length)))
                let q : Packet := { hdr := BitVec.ofNat 128 (leNat (b.take 16)), data := (b.drop 16).take p.data.length }
                tephraCount rz (sendOn s l q (BitVec.ofNat 32 (leNat (b.drop (16 + p.data.length))))) l
            | 3 =>
              let s := s.setLink l { (s.link l) with tephra := { t with heldPkt := some (p, t.m) } }
              startNext rz n (tephraCount rz s l) l
            | _ => sendOn s l p (crc32 p.bytes)
          else
            let s := departs (s.setLink l { (s.link l) with tephra := tephraAge t p }) l p
            let p := timeStamped s p
            sendOn s l p (crc32 p.bytes)

/-- FAB_DROP for one drop, at most once per second for each reason (R137): reason, class and count of that reason.
(DEDUCED: log entry 33.) -/
def fabDrop (rz : State → Nat → List Byte → State) (s : State) (reason cls count : Nat) : State :=
  let key := 0x071000 + reason
  if s.rateOk key 1000000000 then
    rz (s.rateMark key) 0x0710 (leBytes 1 reason ++ leBytes 1 cls ++ leBytes 4 count)
  else s

/-- Queue a packet on link l (R114): dropped and counted where it does not fit its class's queue. -/
def enqueue (rz : State → Nat → List Byte → State) (s : State) (l : Nat) (p : Packet) : State :=
  let r := s.link l
  let used := (r.queue.filter (fun q => q.cls == p.cls)).foldl (fun a q => a + q.size) 0
  if used + p.size ≤ clsCap p.cls then
    startNext rz (r.queue.length + 2) (s.setLink l { r with queue := r.queue ++ [p] }) l
  else
    let s := s.bump (Reg.FAB_LINK_TX_DROP + 0x100 * l)
    fabDrop rz s 3 p.cls (s.cnt (Reg.FAB_LINK_TX_DROP + 0x100 * l))

/-- A packet dropped for want of a route (R117, R121, R123). -/
def noRoute (rz : State → Nat → List Byte → State) (s : State) (p : Packet) : State :=
  let s := s.bump Reg.FAB_NOROUTE_DROP
  fabDrop rz s 1 p.cls (s.cnt Reg.FAB_NOROUTE_DROP)

/-- Entry a of the destination table (R117), from FAB_ROUTE_TBL. -/
def State.route (s : State) (a : Nat) : Nat := bits (s.reg (Reg.FAB_ROUTE_TBL + 4 * (a / 8))) (4 * (a % 8) + 3) (4 * (a % 8))

/-- Deliver a packet inside the device (R117): its consumer takes it from localQ. -/
def deliver (s : State) (p : Packet) : State :=
  { s with fab.localQ := s.fab.localQ ++ [p] }.emit (.deliver p)

/-- The pair's gate on a packet with DEST = ALIAS (R348, R349). -/
def deliverAlias (rz : State → Nat → List Byte → State) (s : State) (p : Packet) : State :=
  if p.cls = clsSTREAM ∨ p.cls = clsRASTER then
    if s.pair.state = 3 then deliver s p else s.bump Reg.EDG_PAIR_GATED_CNT
  else noRoute rz s p

/-- A copy of a packet that arrived on link src goes to link l, where the router begins it at once if the link is idle: until it ends,
it is a packet being forwarded from src (R112, R116). (DESIGN CHOICE: log entry 126.) -/
def passOn (rz : State → Nat → List Byte → State) (s : State) (src : Option Nat) (l : Nat) (p : Packet) : State :=
  let idle := (s.link l).cur.isNone && (s.link l).queue.isEmpty
  let s := enqueue rz s l p
  if idle && (s.link l).cur.isSome then s.setLink l { s.link l with cutFrom := src } else s

/-- A directed packet with its prefix moved on (R121): the link it came from in place of the entry taken, and POINTER advanced. -/
def Packet.nextHop (p : Packet) (src : Option Nat) : Packet :=
  let k := fieldAt p.data 1 1
  { p with data := (p.data.set (2 + k) (BitVec.ofNat 8 (src.getD 0xF))).set 1 (BitVec.ofNat 8 (k + 1)) }

/-- Route by a prefix (R121): byte 0 N, byte 1 POINTER, bytes 2 to 31 the entries; from is the receiving link. -/
def routeDirected (rz : State → Nat → List Byte → State) (s : State) (src : Option Nat) (p : Packet) : State :=
  let n := fieldAt p.data 0 1
  let k := fieldAt p.data 1 1
  if k < n ∧ k < 30 then
    let e := fieldAt p.data (2 + k) 1
    if e ≤ 9 ∧ s.linkUp e then passOn rz s src e (Packet.nextHop p src)
    else noRoute rz s p
  else deliver s p

/-- Queue a packet on a link of the table, or count the drop where the link is down (R117). -/
def forward (rz : State → Nat → List Byte → State) (s : State) (src : Option Nat) (l : Nat) (p : Packet) : State :=
  if s.linkUp l then passOn rz s src l p
  else
    let s := s.bump (Reg.FAB_LINK_TX_DROP + 0x100 * l)
    fabDrop rz s 2 p.cls (s.cnt (Reg.FAB_LINK_TX_DROP + 0x100 * l))

/-- The router (R117 to R123, R348, R349) for a packet that arrived on link src, or none where this device originates it. -/
def routeWith (rz : State → Nat → List Byte → State) (s : State) (src : Option Nat) (p : Packet) : State :=
  if src.isSome ∧ p.hops + 1 = 31 then
    let s := s.bump Reg.FAB_HOP_DROP
    fabDrop rz s 0 p.cls (s.cnt Reg.FAB_HOP_DROP)
  else
    let p := if src.isSome then p.withHops (p.hops + 1) else p
    if src.isNone ∧ s.addr = 0x3FF ∧ (p.cls = clsSTREAM ∨ p.cls = clsRASTER ∨ p.cls = clsEVENT) then noRoute rz s p
    else if src.isNone ∧ s.pair.enable ∧ p.src = s.pair.addrAlias ∧ p.cls = clsSTREAM ∧ s.pair.state ≠ 3 then
      s.bump Reg.EDG_PAIR_GATED_CNT
    else if p.directed then
      if p.cls = clsMGMT then routeDirected rz s src p
      else match src with
        | some l => s.bump (Reg.FAB_LINK_FORMAT_ERR + 0x100 * l)
        | none => s
    else if p.mcast then
      let g := s.reg (Reg.FAB_GROUP + 4 * (p.dest % 256))
      let s := (List.range 10).foldl
        (fun s l => if bit g l ∧ src ≠ some l then forward rz s src l p else s) s
      if bit g 16 then deliver s p else s
    else if s.pair.enable ∧ p.dest = s.pair.addrAlias then deliverAlias rz s p
    else if p.dest = s.addr ∧ s.addr ≠ 0x3FF then deliver s p
    else if p.dest = 0x3FF then noRoute rz s p
    else
      let e := s.route p.dest
      if e = 0xE then deliver s p
      else if e ≤ 9 then forward rz s src e p
      else noRoute rz s p

/-! ## Host access and the MGMT requester (R127, R128, R131, R277) -/

/-- The MGMT sub-header of R127 with its data. -/
def mgmtBody (type flags status length addr : Nat) (data : List Byte) : List Byte :=
  leBytes 1 type ++ leBytes 1 flags ++ leBytes 1 status ++ leBytes 1 0 ++ leBytes 4 length ++ leBytes 8 addr ++ data

/-- The table key of a requester or responder: its flow and the other device's address. -/
def mgmtKey (flow peer : Nat) : Nat := flow * 1024 + peer

/-- The requester of one flow and peer. -/
def State.requester (s : State) (key : Nat) : MRequester :=
  s.fab.reqs.getD key { next := 0, open_ := [], wait := [], resync := false }

/-- Replace the requester of a key. -/
def State.setRequester (s : State) (key : Nat) (q : MRequester) : State :=
  { s with fab.reqs := s.fab.reqs.set key q }

/-- A number's byte at an offset of packet data replaced by an OR of flag bits. -/
def orByte (d : List Byte) (i : Nat) (x : Nat) : List Byte := d.set i ((d.getD i 0) ||| BitVec.ofNat 8 x)

/-- Send one request: it takes the next SEQ; with 32 outstanding it waits (R128). -/
def mgmtIssue (rz : State → Nat → List Byte → State) (s : State) (key : Nat) (r : MReq) : State :=
  let q := s.requester key
  if q.open_.length < 32 then
    let p := r.pkt.withSeq q.next
    let p := if q.resync then { p with data := orByte p.data (p.bodyOff + 1) 4 } else p
    let r := { r with seq := q.next, pkt := p, sent := s.clk }
    let s := s.setRequester key { q with next := (q.next + 1) % 65536, open_ := q.open_ ++ [r], resync := false }
    routeWith rz s none p
  else s.setRequester key { q with wait := q.wait ++ [r] }

/-- One DMA request of this device to its gateway (R131, R277): type 8 read, 9 write; at most 256 data bytes, for a command or for a master
that reads. -/
def dmaRequest (rz : State → Nat → List Byte → State) (s : State) (pf type addr len : Nat) (data : List Byte)
    (cmd : Option Job) (reader : Option Nat) : State :=
  let d := s.domain
  let p := mkPacket d s.addr clsMGMT 1 0 0 d (mgmtBody type (b2n (pf == 0)) 0 len addr data)
  mgmtIssue rz s (mgmtKey 1 d) { seq := 0, pkt := p, tries := 0, sent := s.clk, win := 0, isRead := type == 8, cmd := cmd, reader := reader }

/-- Split bytes into pieces of at most 256 and issue each as a DMA_WR. -/
def dmaWrites (rz : State → Nat → List Byte → State) (cmd : Option Job) : Nat → State → Nat → Nat → List Byte → State
  | 0, s, _, _, _ => s
  | n + 1, s, pf, addr, data =>
    if data.isEmpty then s
    else
      dmaWrites rz cmd n (dmaRequest rz s pf 9 addr (min 256 data.length) (data.take 256) cmd none) pf (addr + 256) (data.drop 256)

/-- A write to host memory for function pf (R272, R277, R131): direct on a gateway, DMA_WR requests on a claimed device behind
one, refused on a device without a domain; cmd is the command that needs the write (R129). -/
def hostWriteR (rz : State → Nat → List Byte → State) (s : State) (pf addr : Nat) (data : List Byte) (cmd : Option Job) : State :=
  if s.isGateway then s.emit (.hostWrite pf addr data)
  else if s.fab.claimed then dmaWrites rz cmd (data.length / 256 + 1) s pf addr data
  else s

/-- Signal MSI-X vector v of function pf on the gateway: a masked vector sets its pending bit (R276). Vector control is dword 3
of the vector's entry, its bit 0 the mask. -/
def msixSignal (s : State) (pf v : Nat) : State :=
  if bit (s.host.msix.getD (pf * 256 + v * 4 + 3) 1).toNat 0 then
    { s with host.pba := if s.host.pba.contains (pf * 64 + v) then s.host.pba else (pf * 64 + v) :: s.host.pba }
  else s.emit (.msix pf v)

/-- Signal an interrupt vector: direct on a gateway, a DMA_WR of LENGTH 0 behind one (R277). -/
def signalR (rz : State → Nat → List Byte → State) (s : State) (pf v : Nat) : State :=
  if s.isGateway then msixSignal s pf v
  else if s.fab.claimed then dmaRequest rz s pf 9 v 0 [] none none
  else s

/-! ## Event rings (R284 to R286) -/

/-- A ring's indices right after its enable (R268). -/
def CqRec.init : CqRec := { head := 0, tail := 0, phase := true, since := 0, first := 0, lostPend := 0 }

/-- Offset of an event ring register: window w of a gateway holds the registers of the device behind it (R285). -/
def evqOff (w pf base : Nat) : Nat := w * 0x1000000 + base + 0x10000 * pf

/-- The number of entries of a ring with this LOG2_SIZE. -/
def ringSize (log2 : Nat) : Nat := 2 ^ log2

/-- An interrupt for a ring whose control register is ctrl: sent when IRQ_EN is 1 and COAL_CNT entries have been written
since the last message (R276); the event ring of a window signals directly (R285). -/
def ringIrq (sig : State → Nat → Nat → State) (s : State) (pf ctrl : Nat) (r : CqRec) : CqRec × State :=
  let need := max 1 (bits ctrl 7 0)
  let r := { r with since := r.since + 1, first := if r.since = 0 then s.clk else r.first }
  if bit ctrl 30 ∧ r.since ≥ need then ({ r with since := 0 }, sig s pf (bits ctrl 21 16)) else (r, s)

/-- Whether a ring of n entries is full (R268). -/
def ringFull (n head tail : Nat) : Bool := decide ((tail + 1) % n = head)

/-- Advance a device-owned tail; PHASE inverts on the wrap (R268). -/
def ringAdvance (n : Nat) (r : CqRec) : CqRec :=
  { r with tail := (r.tail + 1) % n, phase := if r.tail + 1 = n then !r.phase else r.phase }

/-- The record with its PHASE bit (bit 15 of DEVICE, R284). -/
def withPhase (evr : List Byte) (ph : Bool) : List Byte :=
  evr.set 3 (BitVec.ofNat 8 ((evr.getD 3 0).toNat % 128 + 128 * b2n ph))

/-- Write a record into event ring (w, pf) held by this gateway, or drop and count it while the ring is full (R286). A record
already owed to a ring that has filled stays in order behind it. (DEDUCED: log entry 70.) -/
def evqWrite (s : State) (w pf : Nat) (evr : List Byte) : State :=
  let ctrl := s.reg (evqOff w pf Reg.HST_EVQ_CTRL)
  let key := w * 2 + pf
  let r := s.host.evq.getD key CqRec.init
  let n := ringSize (bits ctrl 27 24)
  if !(bit ctrl 31) then s
  else if ringFull n r.head r.tail then
    { s with host.evq := s.host.evq.set key { r with lostPend := r.lostPend + 1 } }.bump (evqOff w pf Reg.HST_EVQ_LOST)
  else
    let base := s.reg (evqOff w pf Reg.HST_EVQ_BASE_LO) + 2 ^ 32 * s.reg (evqOff w pf Reg.HST_EVQ_BASE_HI)
    let s := s.emit (.hostWrite pf (base + 32 * r.tail) (withPhase evr r.phase))
    let (r, s) := ringIrq msixSignal s pf ctrl (ringAdvance n r)
    { s with host.evq := s.host.evq.set key r }

/-- A record into each ring of window w whose EVQ_MASK names the record's region (R285). -/
def evqDeliver (s : State) (w : Nat) (evr : List Byte) : State :=
  let region := (evr.getD 1 0).toNat
  [0, 1].foldl (fun s pf =>
    if region ≥ 1 ∧ bit (s.reg (evqOff w pf Reg.HST_EVQ_MASK)) (region - 1) then evqWrite s w pf evr else s) s

/-- The event record of R284 with PHASE 0. -/
def eventRecord (s : State) (code : Nat) (data : List Byte) : List Byte :=
  leBytes 2 code ++ leBytes 2 s.addr ++ leBytes 2 s.evSeq ++ leBytes 1 (min data.length 20)
    ++ leBytes 1 (b2n s.fab.tephraUsed) ++ leBytes 4 s.ftUs ++ slice data 0 20

/-- A record goes out: a gateway writes its own rings, a claimed device sends one EVENT packet (R285, R132). -/
def sendRecord (rz : State → Nat → List Byte → State) (s : State) (seq : Nat) (evr : List Byte) : State :=
  if s.isGateway then evqDeliver s 0 evr
  else if s.fab.claimed then routeWith rz s none (mkPacket s.domain s.addr clsEVENT 0 seq 0 s.domain evr)
  else s

/-- Raise an event (R284, R285): the count advances, masked or not. Between the power-down of DORMANT and the resume its record is held
(R404). The first argument bounds the events that the sending itself can raise (FAB_DROP, TEPHRA_STATE). -/
def raiseN : Nat → State → Nat → List Byte → State
  | 0, s, code, data => { s with evSeq := (s.evSeq + 1) % 65536 }.emit (.event code data)
  | n + 1, s, code, data =>
    let evr := eventRecord s code data
    let seq := s.evSeq
    let s := { s with evSeq := (s.evSeq + 1) % 65536 }.emit (.event code data)
    match s.sys.dorm with
    | some d =>
      if d.posted then { s with sys.dorm := some { d with events := d.events ++ [evr] } } else sendRecord (raiseN n) s seq evr
    | none => sendRecord (raiseN n) s seq evr

/-- Raise an event. -/
def State.raise (s : State) (code : Nat) (data : List Byte) : State := raiseN 12 s code data

/-- Raise an event at most once per period ns for its key (R287, R316, R363 and others). -/
def State.raiseLimited (s : State) (key period code : Nat) (data : List Byte) : State :=
  if s.rateOk key period then (s.rateMark key).raise code data else s

/-- The router of this device. -/
def State.routePkt (s : State) (src : Option Nat) (p : Packet) : State := routeWith State.raise s src p

/-- Write host memory. -/
def State.hostWrite (s : State) (pf addr : Nat) (data : List Byte) : State := hostWriteR State.raise s pf addr data none

/-- Signal a vector. -/
def State.signal (s : State) (pf v : Nat) : State := signalR State.raise s pf v

/-- A read of host memory for a command, whose bytes reach the block as the command's operand: the request on the wire (R131). -/
def State.hostRead (s : State) (pf addr len : Nat) (cmd : Option Job) : State :=
  if s.isGateway then s.emit (.hostRead pf addr len)
  else if s.fab.claimed then
    (List.range ((len + 255) / 256)).foldl
      (fun s i => dmaRequest State.raise s pf 8 (addr + 256 * i) (min 256 (len - 256 * i)) [] cmd none) s
  else s

/-- A read of host memory by a master of this device (R131): on a gateway the bytes that PCIe returns, which the model does not hold; on a
claimed device what the answers of its DMA_RDs bring, when they come; none where the device has no domain. (DESIGN CHOICE: log entry 44.) -/
def State.masterRead (s : State) (mid pf addr len : Nat) : Option (List Byte) × State :=
  if s.isGateway then
    let (b, s) := freeBytes len (s.emit (.hostRead pf addr len))
    (some b, s)
  else if s.fab.claimed then
    (none, (List.range ((len + 255) / 256)).foldl
      (fun s i => dmaRequest State.raise s pf 8 (addr + 256 * i) (min 256 (len - 256 * i)) [] none (some mid)) s)
  else (some (List.replicate len 0), s)

/-- Set or clear a readiness bit; a change raises SYS_READY with the index and the new value (R262). -/
def State.setReady (s : State) (i : Nat) (v : Bool) : State :=
  if s.isReady i = v then s
  else { s with sys.ready := setBit s.sys.ready i v }.raise 0x0100 (leBytes 1 i ++ leBytes 1 (b2n v))

/-- Change the operating mode with a cause; a change raises SYS_MODE (R393, R415). -/
def State.setMode (s : State) (m : Mode) (cause : Nat) : State :=
  if s.sys.mode = m then s
  else
    let old := s.sys.mode
    { s with sys.mode := m, sys.cause := cause }.raise 0x0102
      (leBytes 1 old.code ++ leBytes 1 m.code ++ leBytes 1 cause ++ leBytes 1 s.sys.wakeSrc ++ leBytes 8 s.ft.toNat)

end Machine
end Sys2Proof
end

