-- ==== Sys2Proof/Machine/Guard.lean ====
section
/-! DEFINITION. The MPU and memory accesses of masters (R332 to R338), register-access faults (R327), the life of a descriptor:
its fields, the order of its checks (R279) and its completion (R271 to R273, R280), and the pair's release (R351 to R353). -/

namespace Sys2Proof
namespace Machine

/-! ## Register-access faults (R327) -/

/-- Causes of R327. -/
inductive RafCause where
  | size | writeOnce | stoppedOnly | locked | busy | value | mpuConfig
  deriving DecidableEq, Repr

def RafCause.code : RafCause → Nat
  | .size => 1 | .writeOnce => 2 | .stoppedOnly => 3 | .locked => 4 | .busy => 5 | .value => 6 | .mpuConfig => 7

/-- MID of an accessor (R334, R332). (DEDUCED: log entry 113.) -/
def Acc.mid : Acc → Nat
  | .nm0 => 0 | .nm1 => 1 | .pf0 => 0x30 | .pf1 => 0x31 | .mgmtPriv => 0x39 | .mgmt => 0x39 | .dap => 0x3F
  | .other m => m.toNat

/-- A refused register access: counted, and captured with SYS_REG_FAULT while no fault is held (R327). -/
def State.raf (s : State) (a : Acc) (cause : RafCause) (write : Bool) (off size : Nat) : State :=
  let s := s.bump Reg.SYS_RAF_CNT
  if bit (s.cnt Reg.SYS_RAF_CAP0) 31 then s
  else
    let mid := Acc.mid a
    let s := s.setReg Reg.SYS_RAF_CAP0
      (2 ^ 31 + b2n write * 2 ^ 30 + cause.code * 2 ^ 26 + min (size - 1) 1023 * 2 ^ 16 + mid * 2 ^ 8)
    let s := s.setReg Reg.SYS_RAF_CAP1 (off % 2 ^ 24)
    s.raise 0x0110 (leBytes 1 mid ++ leBytes 1 cause.code ++ leBytes 1 (b2n write) ++ leBytes 4 (off % 2 ^ 24))

/-! ## The MPU (R334 to R338) -/

/-- A region right after reset: disabled, unlocked (R335). -/
def MpuRegion.init : MpuRegion := { en := false, lock := false, base := 0, lim := 0, mask := 0 }

/-- All bytes of the access lie in this enabled region (R336). -/
def MpuRegion.holds (r : MpuRegion) (addr len : Nat) : Bool :=
  r.en && decide (r.base * 4096 ≤ addr) && decide (addr + len ≤ (r.lim + 1) * 4096)

/-- The region names the master (R335). -/
def MpuRegion.names (r : MpuRegion) (mid : Nat) : Bool := r.mask.toNat.testBit mid

/-- The access is allowed by some enabled region (R336). (DEDUCED: log entry 15.) -/
def mpuAllows (s : State) (mid addr len : Nat) : Bool :=
  s.sys.mpu.any (fun e => e.2.holds addr len && e.2.names mid)

/-- Some byte of the access lies in an enabled region (R334). (DEDUCED: log entry 15.) -/
def mpuCovers (s : State) (addr len : Nat) : Bool :=
  s.sys.mpu.any (fun e => e.2.en && decide (addr < (e.2.lim + 1) * 4096) && decide (e.2.base * 4096 < addr + len))

/-- The first address of the register space (R332). -/
def regSpace : Nat := 0xFF00000000
/-- The first address of the host aperture (R332). -/
def apertureLo : Nat := 0x8000000000

/-- The MPU's decision on one access (R334, R336). (DEDUCED: log entry 15.) -/
def mpuOk (s : State) (mid addr len : Nat) : Bool :=
  if addr < regSpace then mpuAllows s mid addr len
  else !(mpuCovers s addr len) || mpuAllows s mid addr len

/-- A denial: counted, and captured with SYS_MPU_DENY while none is held (R338). -/
def State.mpuDeny (s : State) (mid addr len : Nat) (write : Bool) : State :=
  let s := s.bump Reg.SYS_MPU_DENY_CNT
  if bit (s.cnt Reg.SYS_MPU_CAP0) 31 then s
  else
    let s := s.setReg Reg.SYS_MPU_CAP0
      (2 ^ 31 + b2n write * 2 ^ 30 + min (len - 1) 1023 * 2 ^ 20 + mid * 2 ^ 8 + bits addr 39 32)
    let s := s.setReg Reg.SYS_MPU_CAP1 (bits addr 31 0)
    s.raise 0x0112 (leBytes 1 mid ++ leBytes 1 (b2n write) ++ leBytes 2 len ++ leBytes 8 addr)

/-- A request above the usable capacity and below the aperture (R297). -/
def State.addrFault (s : State) (mid addr : Nat) : State :=
  (s.bump Reg.MEM_ADDR_ERR_CNT).raiseLimited 0x030600 1000000000 0x0306 (leBytes 1 mid ++ leBytes 8 addr)

/-- The pieces of a transfer within 64-byte blocks, in ascending address order (R295): offset in the transfer and length. -/
def blocksOf : Nat → Nat → Nat → Nat → List (Nat × Nat)
  | 0, _, _, _ => []
  | n + 1, addr, off, len =>
    if len = 0 then []
    else
      let k := min len (64 - (addr + off) % 64)
      (off, k) :: blocksOf n addr (off + k) (len - k)

/-! ## The address map (R291, R293, R312) -/

/-- Rows per PASR segment of a configuration (R291). -/
def rowsPerSeg : Nat → Nat
  | 1 => 24576 | 2 => 49152 | 3 => 98304 | 4 => 131072 | _ => 1

/-- Where a data byte lies (R293): its block's channel, bank, row, slot and segment, and its ECC byte in the ECC slot. -/
structure DramLoc where
  ch   : Nat
  bank : Nat
  row  : Nat
  slot : Nat
  seg  : Nat
  ecc  : Nat
  deriving DecidableEq, Repr

/-- map(A) of R293 for a configuration. -/
def dramMap (config a : Nat) : DramLoc :=
  let u := a / 256
  let b := 4 * (u / 24) + (a / 64) % 4
  let r := b / 28
  { ch := u % 24, bank := (r % 16) ^^^ ((r / 16) % 16), row := r / 16, slot := b % 28, seg := (r * 8) / (8 * rowsPerSeg config),
    ecc := 8 * (b % 28 % 8) + (a % 64) / 8 }

/-- The ECC slot that covers a data slot (R293, R294). -/
def eccSlot (slot : Nat) : Nat := 28 + slot / 8

/-- First device address of segment k (R312). -/
def segStart (config k : Nat) : Nat := 43008 * k * rowsPerSeg config

/-- Location of an address on this device. -/
def State.loc (s : State) (a : Nat) : DramLoc := dramMap s.dram.config a

/-- The segment of an address is retained or initialized (R314). -/
def segUsable (s : State) (a : Nat) : Bool := bit s.dram.segReady (s.loc a).seg

/-- An access waits for a segment that is not initialized: it is taken next (R314). (DEDUCED: log entry 143.) -/
def State.askSeg (s : State) (a : Nat) : State :=
  let k := (s.loc a).seg
  if segUsable s a ∨ s.dram.asked.contains k then s else { s with dram.asked := s.dram.asked ++ [k] }

/-! ## The accesses of the units (R295, R297, R336) -/

/-- One block written under a MID: the MPU first, then the ingress (R297, R336); a controller that is frozen or in self-refresh takes nothing (R306, R313). The
answer says whether the MPU allowed it. (DEDUCED: log entry 143.) -/
def State.wrBlock (s : State) (mid addr : Nat) (data : List Byte) : State × Bool :=
  if !(mpuOk s mid addr data.length) then (s.mpuDeny mid addr data.length true, false)
  else if s.dram.frozen.isSome ∨ s.dram.selfRefresh then (s, true)
  else if addr < s.usable then (({ s with mem := memWrite s.mem addr data }).askSeg addr, true)
  else if addr < apertureLo then (s.addrFault mid addr, true)
  else (s, true)

/-- One block read under a MID: denied, frozen and refused reads give zeros (R297, R336). (DEDUCED: log entry 143.) -/
def State.rdBlock (s : State) (mid addr len : Nat) : List Byte × State × Bool :=
  let zeros : List Byte := List.replicate len 0
  if !(mpuOk s mid addr len) then (zeros, s.mpuDeny mid addr len false, false)
  else if s.dram.frozen.isSome ∨ s.dram.selfRefresh then (zeros, s, true)
  else if addr < s.usable then (memRead s.mem addr len, s.askSeg addr, true)
  else if addr < apertureLo then (zeros, s.addrFault mid addr, true)
  else (zeros, s, true)

/-- A master's transfer to device memory, block by block; the flag says whether every block was allowed. -/
def State.memWr (s : State) (mid addr : Nat) (data : List Byte) : State × Bool :=
  (blocksOf (data.length + 1) addr 0 data.length).foldl
    (fun (s, ok) (o, k) => let (s, a) := s.wrBlock mid (addr + o) ((data.drop o).take k); (s, ok && a)) (s, true)

/-- A master's transfer from device memory. -/
def State.memRd (s : State) (mid addr len : Nat) : List Byte × State × Bool :=
  (blocksOf (len + 1) addr 0 len).foldl
    (fun (b, s, ok) (o, k) => let (x, s, a) := s.rdBlock mid (addr + o) k; (b ++ x, s, ok && a)) ([], s, true)

/-- The whole range [addr, addr + len) is allowed, region by region as its blocks are (R336, R457). -/
def rangeAllowed (s : State) (mid addr len : Nat) : Bool :=
  (blocksOf (len / 64 + 2) addr 0 len).all (fun p => mpuOk s mid (addr + p.1) p.2)

/-- The first denied block of a range: its address and length. -/
def firstDenied (s : State) (mid addr len : Nat) : Option (Nat × Nat) :=
  ((blocksOf (len / 64 + 2) addr 0 len).find? (fun p => !(mpuOk s mid (addr + p.1) p.2))).map (fun p => (addr + p.1, p.2))

/-- A command's transfer to device memory under its unit's master: it stops at the first denied block (R457); the flag says whether none
was. -/
def State.memWrTill (s : State) (mid addr : Nat) (data : List Byte) : State × Bool :=
  match firstDenied s mid addr data.length with
  | none => s.memWr mid addr data
  | some (a, l) => ((s.memWr mid addr (data.take (a - addr))).1.mpuDeny mid a l true, false)

/-- Aperture base B (R333). -/
def State.apertureBase (s : State) : Nat := bits (s.reg Reg.SYS_APERTURE_HI) 24 0 * 2 ^ 39

/-- A host range lies wholly within the aperture (R333). -/
def inAperture (s : State) (addr len : Nat) : Bool :=
  decide (s.apertureBase ≤ addr) && decide (addr + len ≤ s.apertureBase + 0x7F00000000)

/-- The internal address of a host address (R333). -/
def State.hostInternal (s : State) (addr : Nat) : Nat := apertureLo + (addr - s.apertureBase)

end Machine

/-- The job of a ring command. -/
def Cmd.job (c : Cmd) : Machine.Job := { org := .ring c.pf.val c.sq.val, desc := c.desc }

namespace Machine

/-! ## Jobs: fields of a descriptor (R3, R269) -/

/-- The field of w bytes at offset o. -/
def Job.n (j : Job) (o w : Nat) : Nat := (j.desc.toNat >>> (8 * o)) % 256 ^ w

/-- Bytes [o, o + w) of the descriptor. -/
def Job.bytes (j : Job) (o w : Nat) : List Byte := leBytes w (j.n o w)

/-- The descriptor's OPCODE. -/
def Job.opcode (j : Job) : Nat := j.n 0 1

/-- The function of a ring command; a mirrored command runs as the device's own (0). -/
def Job.pf (j : Job) : Nat := match j.org with | .ring pf _ => pf | .mirror _ _ _ => 0

/-- The master ID of the function that sent the command: 0x30 for PF0, 0x31 for PF1 (R283). (DEDUCED: log entry 113.) -/
def Job.mid (j : Job) : Nat := 0x30 + j.pf

/-- Every byte of the ranges (offset, length) is zero (R6). -/
def Job.zero (j : Job) (rs : List (Nat × Nat)) : Bool := rs.all (fun r => j.n r.1 r.2 == 0)

/-- The bits outside the mask of a field of w bytes are zero (R6). -/
def Job.onlyBits (j : Job) (o w mask : Nat) : Bool := (j.n o w) &&& (256 ^ w - 1 - mask % 256 ^ w) == 0

/-! ## The mirror sender (R355, R356) -/

/-- PEER is ready (R262). -/
def State.peerUp (s : State) : Bool := s.isReady 42

/-- Move waiting MIRROR packets into PL's queue while they fit: the sender waits and never drops its own (R356). -/
def mirrorPump : Nat → State → State
  | 0, s => s
  | n + 1, s =>
    match s.mir.waiting with
    | [] => s
    | p :: ps =>
      let r := s.link 10
      let used := (r.queue.filter (fun q => q.cls == clsMIRROR)).foldl (fun a q => a + q.size) 0
      if s.linkUp 10 ∧ used + p.size ≤ clsCap clsMIRROR then
        let s := { s with mir.waiting := ps, mir.txSeq := (s.mir.txSeq + 1) % 65536 }
        mirrorPump n (enqueue State.raise s 10 (p.withSeq (s.mir.txSeq + 65535)))
      else s

/-- Queue a MIRROR packet with the payload of R356. -/
def mirrorPacket (s : State) (type cls flags status recId off total : Nat) (data : List Byte) : State :=
  let pay := leBytes 1 type ++ leBytes 1 cls ++ leBytes 1 flags ++ leBytes 1 status ++ leBytes 4 recId ++ leBytes 4 off
    ++ leBytes 4 total ++ data
  let p := mkPacket (s.link 10).peerAddr s.addr clsMIRROR 0 0 0 s.domain pay
  { s with mir.waiting := s.mir.waiting ++ [p] }

/-- The packets of one record, 496 data bytes each, in ascending OFFSET order (R356). -/
def mirrorRecord (s : State) (cls extra : Nat) (data : List Byte) : State :=
  let rid := s.mir.recId
  let k := max 1 ((data.length + 495) / 496)
  let s := (List.range k).foldl (fun s i =>
    mirrorPacket s 0 cls (extra + b2n (i == 0) + 2 * b2n (i + 1 == k)) 0 rid (496 * i) data.length
      ((data.drop (496 * i)).take 496)) s
  let s := { s with mir.recId := (rid + 1) % 2 ^ 32 }.bump Reg.FAB_MIR_TX_CNT
  mirrorPump s.mir.waiting.length s

/-- A class is mirrored now: this device is OWNER of an enabled pair, PEER is ready and CLASSES names it (R355). -/
def mirrorsOut (s : State) (cls : Nat) : Bool :=
  s.pair.enable && s.peerUp && decide (s.pair.state = 3) && bit s.pair.classes (cls - 1)

/-- Send the record of a command executed with DONE (R355). -/
def mirrorOut (s : State) (cls : Nat) (data : List Byte) : State :=
  if mirrorsOut s cls then mirrorRecord s cls 0 data else s

/-- The whole 512-byte destination table (R355 class 6). -/
def routeTable (s : State) : List Byte :=
  (List.range 128).flatMap (fun w => leBytes 4 (s.reg (Reg.FAB_ROUTE_TBL + 4 * w)))

/-- The record that a finished command sends: class and content; STATE_LOAD and SLATE_LOAD send theirs with their data, and a
COMMIT with MIRROR_ACK has sent its own at step 8 (R355, R359). -/
def mirrorOfDone (s : State) (j : Job) : State :=
  match j.opcode with
  | 0x32 => mirrorOut s 1 (j.bytes 16 48)
  | 0x31 => if bit (j.n 17 1) 0 then s else mirrorOut s 2 (j.bytes 16 48)
  | 0x40 => mirrorOut s 3 (j.bytes 16 48)
  | 0x41 => mirrorOut s 4 (j.bytes 16 48)
  | 0x50 => mirrorOut s 6 (routeTable s)
  | 0x51 => mirrorOut s 7 (j.bytes 16 48)
  | 0x48 => mirrorOut s 8 (j.bytes 16 48)
  | _ => s

/-- Sync lost or kept on the mirror's receiving side: IN_SYNC changes raise MIRROR_SYNC (R357, R363). -/
def mirrorSync (s : State) (v : Bool) (cause recId : Nat) : State :=
  if s.mir.inSync = v then s
  else { s with mir.inSync := v }.raise 0x0750 (leBytes 1 (b2n v) ++ leBytes 1 cause ++ leBytes 4 recId)

/-- A mirrored record that did not complete with DONE (R358). (DEDUCED: log entry 85.) -/
def mirrorReject (s : State) (cls recId : Nat) (st : Status) : State :=
  let s := s.bump Reg.FAB_MIR_REJECT_CNT
  let s := s.raiseLimited (0x075100 + cls) 1000000000 0x0751 (leBytes 1 cls ++ leBytes 1 st.code ++ leBytes 4 recId)
  mirrorSync s false 3 recId

/-! ## Completion (R271, R272, R279, R280, R358) -/

/-- A command has finished: its entry waits to be written (R272), unless QUIET suppresses it (R269); a mirrored command writes
none and is rejected where it would not have completed with DONE (R358). -/
def State.finish (s : State) (j : Job) (st : Status) (flags : Nat) (result : Nat) : State :=
  match j.org with
  | .ring pf sq =>
    let fl := flags + 2 * b2n s.fab.tephraUsed
    let s := { s with host.inFlight := s.host.inFlight.eraseP (fun e => e.job == j),
                      host.dma := s.host.dma.eraseP (fun w => w.job == j) }
    let s :=
      if bit (j.n 1 1) 1 ∧ st = .done ∧ fl = 0 then s
      else
        let d : DoneRec :=
          { pf := pf, cq := j.n 4 1, sq := sq, tag := j.n 2 2, opcode := j.opcode, status := st, flags := fl,
            result := BitVec.ofNat 64 result }
        { s with host.done := s.host.done ++ [d] }
    if st = .done then mirrorOfDone s j else s
  | .mirror cls rid _ =>
    if st = .done then s.bump Reg.FAB_MIR_RX_CNT else mirrorReject s cls rid st

/-- PARTIAL of an ENC_OUTBUF with this many bytes written (R280). -/
def bufFlags (j : Job) (used : Nat) : Nat := if used < j.n 32 4 then 4 else 0

/-! ## The DMA of a command (R129, R131) -/

/-- A DMA request of the command has not been answered (R129). (DEDUCED: log entry 129.) -/
def dmaOpen (s : State) (j : Job) : Bool :=
  s.fab.reqs.any (fun e => (e.2.open_ ++ e.2.wait).any (fun r => r.cmd == some j))

/-- A command has done its work: it finishes now, or once the DMA it has issued is answered (R129). -/
def State.finishDma (s : State) (j : Job) (st : Status) (flags result : Nat) : State :=
  if dmaOpen s j then
    { s with host.dma := s.host.dma ++ [{ job := j, parts := [], ended := some (st, flags, result) }] }
  else s.finish j st flags result

/-- A command writes host memory (R129, R131). -/
def State.hostWriteFor (s : State) (j : Job) (addr : Nat) (data : List Byte) : State :=
  hostWriteR State.raise s j.pf addr data (some j)

/-- A command reads host memory at spans of address and length, and goes on with the bytes: on a gateway with buf, the operand that stands
for what PCIe returns; on a claimed device with what the answers of its DMA_RDs bring, for which it waits; on a device without a domain
with the zeros of an unimplemented location (R131). (DEDUCED: log entry 129.) -/
def State.hostFetch (s : State) (j : Job) (spans : List (Nat × Nat)) (buf : List Byte) (act : State → List Byte → State) : State :=
  let t := spans.foldl (fun s p => s.hostRead j.pf p.1 p.2 (some j)) s
  if s.isGateway then act t buf
  else if s.fab.claimed then { t with host.dma := t.host.dma ++ [{ job := j, parts := [], ended := none }] }
  else act t (List.replicate (spans.foldl (fun n p => n + p.2) 0) 0)

/-- A refusal of a command: its status, RESULT, and the MPU denial behind it. -/
structure Refuse where
  st     : Status
  result : Nat
  deny   : Option (Nat × Nat × Nat × Bool)
  deriving DecidableEq, Repr

/-- A check that refuses with a status where the condition is bad. -/
def chk (bad : Bool) (st : Status) : Option Refuse := if bad then some ⟨st, 0, none⟩ else none

/-- An MPU check of a whole range (R457): DENIED with the denial captured. -/
def chkMpu (s : State) (mid addr len : Nat) (write : Bool) : Option Refuse :=
  match firstDenied s mid addr len with
  | some (a, l) => some ⟨.denied, 0, some (mid, a, l, write)⟩
  | none => none

/-- The host range of a command against the aperture (R333). -/
def chkAperture (s : State) (addr len : Nat) : Option Refuse := chk (!(inAperture s addr len)) .outOfBounds

/-- On a paired device that is not OWNER, a command of an enabled class is NOT_OWNER, the first of its own checks (R355). -/
def chkOwner (s : State) (j : Job) (cls : Nat) : Option Refuse :=
  match j.org with
  | .mirror _ _ _ => none
  | .ring _ _ =>
    chk (s.pair.enable && s.peerUp && decide (s.pair.state ≠ 3) && bit s.pair.classes (cls - 1)) .notOwner

/-- What a command's chapter says of it: served on PF0 rings only (R259), the functions it needs (R263), reserved bytes and
bits of its body zero (R6), and its own checks in order. -/
structure CmdSpec where
  pf0   : Bool
  ready : Bool
  body  : Bool
  own   : List (Option Refuse)
  deriving Repr

/-- The header's reserved bits are zero (R6, R269). -/
def headerOk (j : Job) : Bool := j.onlyBits 1 1 3 && j.zero [(5, 11)]

/-- The first status that applies in the order of R279; none where the command is performed. -/
def firstRefusal (s : State) (j : Job) (sp : CmdSpec) : Option Refuse :=
  if sp.pf0 ∧ j.pf ≠ 0 then some ⟨.denied, 0, none⟩
  else if !(s.isReady 1) ∨ !sp.ready then some ⟨.notReady, 0, none⟩
  else if !(headerOk j) ∨ !sp.body then some ⟨.badDescriptor, 0, none⟩
  else sp.own.findSome? id

/-- Refuse a command: a denial is captured (R338, R457), and the completion carries the status. -/
def State.refuse (s : State) (j : Job) (r : Refuse) : State :=
  let s := match r.deny with
    | some (mid, a, l, w) => s.mpuDeny mid a l w
    | none => s
  s.finish j r.st 0 r.result

/-- Run a command: refused with the first status that applies, or performed by act, which finishes it now or later. -/
def runJob (s : State) (j : Job) (sp : CmdSpec) (act : State → State) : State :=
  match firstRefusal s j sp with
  | some r => s.refuse j r
  | none => act s

/-! ## Release of ownership (R344, R351 to R353) -/

/-- The pair in state n with the two pins as that state drives them (R344, Table: pair states). -/
def PairRec.withState (p : PairRec) (n : Nat) : PairRec :=
  { p with state := n, ownO := n == 2 || n == 3, selO := n == 3 }

/-- The event PAIR_STATE (R363). -/
def pairStateEvent (s : State) (old new trig : Nat) : State :=
  s.raise 0x0840 (leBytes 1 old ++ leBytes 1 new ++ leBytes 1 (b2n s.pair.roleB) ++ leBytes 1 trig ++ leBytes 8 s.ft.toNat)

/-- Change the pair state and its pins, raising PAIR_STATE (R344, R363). -/
def setPairState (s : State) (new trig : Nat) : State :=
  if s.pair.state = new then s
  else pairStateEvent { s with pair := s.pair.withState new } s.pair.state new trig

/-- A commit that waits for the mirror's acknowledgement while the device stops being OWNER completes with NOT_OWNER (R359).
(DEDUCED: log entry 87.) -/
def dropAckWaits (s : State) : State :=
  let ws := s.commits.filter (fun c => c.stage == 1)
  let s := { s with commits := s.commits.filter (fun c => !(c.stage == 1)) }
  ws.foldl (fun s c => s.finish c.job .notOwner 0 0xFFFFFF) s

/-- The ownership release of R352 on an OWNER or CLAIMING device: pins and gates, pair state, events and record. The time from
trigger to pin is at most 2 µs and is left open, so it is a free value of 0 to 8 units of 250 ns (R364).
(DEDUCED: log entry 83; DEDUCED: log entry 88.) -/
def State.relinquish (s : State) (code : Nat) (toFrozen : Bool) : State :=
  if s.pair.state = 2 ∨ s.pair.state = 3 then
    let before := s.pair.state
    let (d, s) := s.fresh
    let bars := decide (1 ≤ code ∧ code ≤ 8)
    let s := { s with pair := s.pair.withState 1, mir.inSync := if before = 3 then s.peerUp else s.mir.inSync }
    let s := if toFrozen ∨ s.sys.mode ≠ .active then s else s.setMode .standby 2
    let s := s.raise 0x0841 (leBytes 1 code ++ leBytes 1 (b2n bars) ++ leBytes 1 before ++ leBytes 8 s.ft.toNat)
    let s := pairStateEvent s before 1 code
    let rec_ := leBytes 8 s.ft.toNat ++ leBytes 1 code ++ leBytes 1 before ++ leBytes 2 (d % 9) ++ leBytes 1 1 ++ leBytes 3 0
    let s := { s with aon.relq := rec_ }
    let s := if code ≥ 9 then { s with pair.trig := setBit s.pair.trig code true } else s
    dropAckWaits (s.bump Reg.EDG_PAIR_RELQ_CNT)
  else s

/-- A trigger of R351 is asserted: its bit, the bar of R353, and the release of R352. (DEDUCED: log entry 90.) -/
def State.trigger (s : State) (code : Nat) (toFrozen : Bool) : State :=
  let s := if code ≤ 8 then { s with pair.trig := setBit s.pair.trig code true } else s
  let s :=
    if 1 ≤ code ∧ code ≤ 8 ∧ !s.pair.barred then { s with pair.barred := true, pair.barCause := code } else s
  s.relinquish code toFrozen

/-- A trigger's condition has gone (R351). (DEDUCED: log entry 90.) -/
def State.untrigger (s : State) (code : Nat) : State := { s with pair.trig := setBit s.pair.trig code false }

end Machine
end Sys2Proof
end

