-- ==== Sys2Proof/Machine/Host.lean ====
section
/-! DEFINITION. The host interface: NOP, FENCE and unknown opcodes, doorbells, descriptor fetch, completion writes and their
interrupts (R257 to R287, R456). -/

namespace Sys2Proof
namespace Machine

/-! ## Configuration space (R257, R288) -/

/-- A function's configuration space right after reset. (PRESUMED: log entry 135.) -/
def PcieFn.init : PcieFn :=
  { bar0 := 0, bar2 := 0, payload := 128, readReq := 512, d3hot := false, aspmL1 := false, ecrcGen := false, ecrcCheck := false, aerUnc := 0,
    aerCor := 0, msixOn := false, msixMask := false, width := 0, speed := 0 }

/-- The configuration space of function f. -/
def State.pcieFn (s : State) (f : Nat) : PcieFn := s.host.pcie.getD f PcieFn.init

/-- The identity that function f states (R257): Vendor, Device and Revision ID, class code, Subsystem Vendor and Subsystem ID. -/
def pcieIdentity (s : State) (f : Nat) : List Nat := [0x1FD3, 0x0824 + f, 0xB0, 0x038000, s.otp.subVendor, s.otp.subsys]

/-- The sizes of BAR0 and BAR2 (R257). -/
def barSizes : List Nat := [0x40000000, 0x40000]

/-! ## Commands served before MGMT -/

/-- NOP (R456): DATA back in RESULT, whatever the status (R281). -/
def doNop (s : State) (j : Job) : State :=
  s.finish j (if headerOk j && j.zero [(24, 40)] then .done else .badDescriptor) 0 (j.n 16 8)

/-- FENCE (R275), once the descriptors it waits for have completed. -/
def doFence (s : State) (j : Job) : State :=
  if headerOk j && j.zero [(17, 47)] && decide (j.n 16 1 ≤ 1) then s.finish j .done 0 0 else s.finish j .badDescriptor 0 0

/-- An opcode that is not in the opcode table (R278). -/
def doUnknown (s : State) (j : Job) : State := s.finish j .unsupported 0 0

/-! ## Doorbells (R261, R268, R270, R273, R286) -/

/-- An SQ right after its enable (R268). -/
def SqRec.init : SqRec := { head := 0, tail := 0, halted := false, waitCq := none, ahead := 0 }

/-- Ring table key of ring q of function f. -/
def ringKey (f q : Nat) : Nat := f * 64 + q

def State.sq (s : State) (f q : Nat) : SqRec := s.host.sq.getD (ringKey f q) SqRec.init
def State.cq (s : State) (f q : Nat) : CqRec := s.host.cq.getD (ringKey f q) CqRec.init
def State.setSq (s : State) (f q : Nat) (r : SqRec) : State := { s with host.sq := s.host.sq.set (ringKey f q) r }
def State.setCq (s : State) (f q : Nat) (r : CqRec) : State := { s with host.cq := s.host.cq.set (ringKey f q) r }

/-- A ring register of function f and ring q. -/
def ringOff (base f q : Nat) : Nat := base + 0x10000 * f + 0x40 * q

def State.sqCtrl (s : State) (f q : Nat) : Nat := s.reg (ringOff Reg.HST_SQ_CTRL f q)
def State.cqCtrl (s : State) (f q : Nat) : Nat := s.reg (ringOff Reg.HST_CQ_CTRL f q)
def sqSize (ctrl : Nat) : Nat := ringSize (bits ctrl 19 16)
def cqSize (ctrl : Nat) : Nat := ringSize (bits ctrl 27 24)

/-- HST_RING_FAULT, at most once per second per function and kind (R287). -/
def ringFault (s : State) (f ring kind : Nat) : State :=
  s.raiseLimited (0x020000 + f * 16 + kind) 1000000000 0x0200 (leBytes 1 f ++ leBytes 1 ring ++ leBytes 1 kind)

/-- A doorbell that is ignored and counted, with HST_RING_FAULT (R261). (DEDUCED: log entry 68.) -/
def badDoorbell (s : State) (f ring : Nat) : State :=
  ringFault (s.bump (Reg.HST_DB_FAULT_CNT + 0x10000 * f)) f ring 0

/-- In DORMANT the last value of a doorbell of window w is held and applied after the restore (R402). -/
def holdDoorbell (s : State) (w f off v : Nat) (aligned : Bool) : State :=
  if aligned then { s with host.dormDb := s.host.dormDb.set (w * 0x10000 + f * 0x1000 + off) (BitVec.ofNat 32 v) } else s

/-- A submission ring's tail doorbell (R261, R270). -/
def sqDoorbell (s : State) (f q v : Nat) (aligned : Bool) : State :=
  if s.sys.mode = .dormant then holdDoorbell s 0 f (4 * q) v aligned
  else if !aligned then s.bump (Reg.HST_DB_FAULT_CNT + 0x10000 * f)
  else
    let c := s.sqCtrl f q
    if v ≥ 4096 ∨ !(bit c 31) ∨ v ≥ sqSize c then badDoorbell s f q
    else s.setSq f q { s.sq f q with tail := v }

/-- The SQs that wait for completion ring q of function f are fetched again (R273). -/
def wakeSqs (s : State) (f q : Nat) : State :=
  (List.range 64).foldl (fun s k =>
    let r := s.sq f k
    if r.waitCq = some q then s.setSq f k { r with waitCq := none } else s) s

/-- A completion ring's head doorbell (R261, R273): HST_CQ_FULL is raised as FULL falls, and as it rises. -/
def cqDoorbell (s : State) (f q v : Nat) (aligned : Bool) : State :=
  if s.sys.mode = .dormant then holdDoorbell s 0 f (0x100 + 4 * q) v aligned
  else if !aligned then s.bump (Reg.HST_DB_FAULT_CNT + 0x10000 * f)
  else
    let c := s.cqCtrl f q
    if v ≥ 4096 ∨ !(bit c 31) ∨ v ≥ cqSize c then badDoorbell s f q
    else
      let r := s.cq f q
      let was := ringFull (cqSize c) r.head r.tail
      let s := s.setCq f q { r with head := v }
      if was ∧ !(ringFull (cqSize c) v r.tail) then
        (wakeSqs s f q).raise 0x0201 (leBytes 1 f ++ leBytes 1 q ++ leBytes 1 0)
      else if !was ∧ ringFull (cqSize c) v r.tail then s.raise 0x0201 (leBytes 1 f ++ leBytes 1 q ++ leBytes 1 1)
      else s

/-- The event ring head doorbell of window w (R285, R286): into the freed entry EVENTS_LOST goes first, whatever the mask.
The spec gives an event ring no ring number for HST_RING_FAULT: a free value. (DEDUCED: log entry 68; DEDUCED: log entry 70.) -/
def evqDoorbell (s : State) (w f v : Nat) (aligned : Bool) : State :=
  if s.sys.mode = .dormant then holdDoorbell s w f 0x200 v aligned
  else if !aligned then s.bump (Reg.HST_DB_FAULT_CNT + 0x10000 * f)
  else
    let c := s.reg (evqOff w f Reg.HST_EVQ_CTRL)
    if v ≥ 4096 ∨ !(bit c 31) ∨ v ≥ cqSize c then
      let (x, s) := s.fresh
      badDoorbell s f (x % 256)
    else
      let key := w * 2 + f
      let r := s.host.evq.getD key CqRec.init
      let lost := r.lostPend
      let s := { s with host.evq := s.host.evq.set key { r with head := v } }
      if lost ≠ 0 ∧ !(ringFull (cqSize c) v r.tail) then
        let data := leBytes 2 s.addr ++ leBytes 4 lost
        let evr := eventRecord s 0x0722 data
        let s := { s with host.evq := s.host.evq.set key { r with head := v, lostPend := 0 } }
        let s := { s with evSeq := (s.evSeq + 1) % 65536 }.emit (.event 0x0722 data)
        evqWrite s w f evr
      else s

/-! ## Descriptor fetch (R270, R273, R274) -/

/-- SQ k (f * 64 + q) has a descriptor that may be fetched. -/
def fetchable (s : State) (k : Nat) : Bool :=
  let f := k / 64
  let q := k % 64
  let r := s.sq f q
  bit (s.sqCtrl f q) 31 && !r.halted && r.waitCq.isNone && decide (r.head ≠ r.tail)

/-- PRIO of SQ k. -/
def sqPrio (s : State) (k : Nat) : Nat := bits (s.sqCtrl (k / 64) (k % 64)) 1 0

/-- The SQ served next: strict priority on PRIO, round robin within a priority after the SQ of it last served (R274). -/
def nextSq (s : State) : Option Nat :=
  let cand := (List.range 128).filter (fetchable s)
  let top := cand.foldl (fun m k => max m (sqPrio s k)) 0
  ((List.range 128).map (fun i => (s.host.lastSq.getD top 127 + 1 + i) % 128)).find? (fun k => cand.contains k && sqPrio s k == top)

/-- The host address of ring base registers. -/
def State.base64 (s : State) (lo hi : Nat) : Nat := s.reg lo + 2 ^ 32 * s.reg hi

/-- The descriptor at an SQ's head is read and the head moves on. A gateway reads each one; a device behind a gateway reads up to four with
one DMA_RD, as many as the ring holds before its end (R277). (DEDUCED: log entry 130.) -/
def takeDesc (s : State) (f q n : Nat) : State :=
  let r := s.sq f q
  let at_ := s.base64 (ringOff Reg.HST_SQ_BASE_LO f q) (ringOff Reg.HST_SQ_BASE_HI f q) + 64 * r.head
  let k := if s.isGateway then 1 else min 4 (min ((r.tail + n - r.head) % n) (n - r.head))
  let s := if r.ahead = 0 then s.hostRead f at_ (64 * k) none else s
  s.setSq f q { r with head := (r.head + 1) % n, ahead := if r.ahead = 0 then k - 1 else r.ahead - 1 }

/-- The ring engine fetches the next descriptor, desc, of the ring served next; err marks a PCIe error. A descriptor whose CQ is
full is not fetched (R273), one whose CQ is not enabled is discarded and counted (R270), an error halts the ring (R270). -/
def doFetch (s : State) (desc : BitVec 512) (err : Bool) : State :=
  match nextSq s with
  | none => s
  | some k =>
    let f := k / 64
    let q := k % 64
    let r := s.sq f q
    let n := sqSize (s.sqCtrl f q)
    let s := { s with host.lastSq := s.host.lastSq.set (sqPrio s k) k }
    if err then
      let s := (s.setSq f q { r with halted := true, ahead := 0 }).bump (Reg.HST_RING_FAULT_CNT + 0x10000 * f)
      ringFault s f q 2
    else
      let j : Job := { org := .ring f q, desc := desc }
      let cq := j.n 4 1
      let c := s.cqCtrl f (cq % 64)
      if cq ≥ 64 ∨ !(bit c 31) then
        let s := takeDesc s f q n
        ringFault (s.bump (Reg.HST_RING_FAULT_CNT + 0x10000 * f)) f q 1
      else if ringFull (cqSize c) (s.cq f cq).head (s.cq f cq).tail then s.setSq f q { r with waitCq := some cq }
      else
        let s := takeDesc s f q n
        { s with host.inFlight := s.host.inFlight ++ [{ job := j, started := false }] }

/-! ## Completion writes (R271 to R273, R276) -/

/-- The 16-byte completion entry (R271). (DEDUCED: log entry 70.) -/
def cqEntry (s : State) (d : DoneRec) (phase : Bool) : List Byte :=
  leBytes 2 d.tag ++ leBytes 2 (s.sq d.pf d.sq).head ++ leBytes 1 d.sq ++ leBytes 1 d.status.code
    ++ leBytes 1 (d.flags % 8 + 128 * b2n phase) ++ leBytes 1 d.opcode ++ leBytes 8 d.result.toNat

/-- Write the oldest finished completion of ring q of function f; a full ring holds it (R273). (DEDUCED: log entry 70.) -/
def doCompletion (s : State) (f q : Nat) : State :=
  match s.host.done.find? (fun d => d.pf == f && d.cq == q) with
  | none => s
  | some d =>
    let c := s.cqCtrl f q
    let r := s.cq f q
    let n := cqSize c
    if !(bit c 31) ∨ ringFull n r.head r.tail then s
    else
      let at_ := s.base64 (ringOff Reg.HST_CQ_BASE_LO f q) (ringOff Reg.HST_CQ_BASE_HI f q) + 16 * r.tail
      let s := { s with host.done := s.host.done.erase d }
      let s := s.hostWrite f at_ (cqEntry s d r.phase)
      let (r, s) := ringIrq State.signal s f c (ringAdvance n r)
      let s := s.setCq f q r
      if ringFull n r.head r.tail then s.raise 0x0201 (leBytes 1 f ++ leBytes 1 q ++ leBytes 1 1) else s

/-- A completion ring whose unsignalled entries number at least need sends its message (R276). -/
def cqSignal (s : State) (f q need : Nat) : State :=
  let c := s.cqCtrl f q
  let r := s.cq f q
  if bit c 31 ∧ bit c 30 ∧ need ≤ r.since then (s.setCq f q { r with since := 0 }).signal f (bits c 21 16) else s

/-- The same of the event ring of window w (R276, R285). -/
def evqSignal (s : State) (w f need : Nat) : State :=
  let c := s.reg (evqOff w f Reg.HST_EVQ_CTRL)
  let r := s.host.evq.getD (w * 2 + f) CqRec.init
  if bit c 31 ∧ bit c 30 ∧ need ≤ r.since then
    msixSignal { s with host.evq := s.host.evq.set (w * 2 + f) { r with since := 0 } } f (bits c 21 16)
  else s

/-- COAL_US has passed since the first unsignalled entry of a ring: its message is sent (R276). (DESIGN CHOICE: log entry 4.) -/
def doCoalesce (s : State) (f : Nat) (ring : CoalRing) : State :=
  match ring with
  | .cq q => cqSignal s f q.val 1
  | .evq w => evqSignal s w.val f 1

/-- A live write of a ring's control register can make the entries it holds enough for a message (R276). (DEDUCED: log entry 131.) -/
def coalNow (s : State) (w base f q : Nat) : State :=
  if base = Reg.HST_CQ_CTRL then cqSignal s f q (max 1 (bits (s.cqCtrl f q) 7 0))
  else evqSignal s w f (max 1 (bits (s.reg (evqOff w f Reg.HST_EVQ_CTRL)) 7 0))

end Machine
end Sys2Proof
end

