-- ==== Sys2Proof/Machine/Frozen.lean ====
section
/-! DEFINITION. Temperatures as the always-on island holds them, power domains that go off (R387), and the entry to FROZEN (R406,
R407). -/

namespace Sys2Proof
namespace Machine

/-! ## Temperatures (R407, R411) -/

/-- The sensor with the highest reading, the lowest number among equals, and that reading in 1/16 °C. (DEDUCED: log entry 102.) -/
def hottest (ts : List Int) : Nat × Int :=
  let top := ts.foldl max (ts.headD 0)
  (ts.findIdx (fun t => t == top), top)

/-- A reading of 1/16 °C in whole °C, rounded down. (DEDUCED: log entry 102.) -/
def degrees (t : Int) : Int := t / 16

/-- New readings of the sensors; the highest since VDD_AON came up is kept (R407). (DEDUCED: log entry 102.) -/
def takeTemps (s : State) (ts : List Int) : State :=
  let top := degrees (hottest ts).2
  { s with sys.therm.temps := ts, aon.peak := some (match s.aon.peak with | some p => max p top | none => top) }

/-- The AON fault record for an entry at this moment (Table: AON fault record). -/
def faultRecord (s : State) (cause sensor : Nat) (t : Int) : List Byte :=
  leBytes 8 s.ft.toNat ++ leBytes 1 cause ++ leBytes 1 sensor ++ leBytes 1 (ofInt 8 (degrees t)) ++ leBytes 1 1
    ++ leBytes 2 (min (fieldAt s.aon.fault 12 2 + 1) 0xFFFF) ++ leBytes 1 (ofInt 8 (s.aon.peak.getD 0)) ++ leBytes 1 0

/-- The fault record is written with the highest reading (R407). -/
def writeFault (s : State) (cause : Nat) : State :=
  let (k, t) := hottest s.sys.therm.temps
  { s with aon.fault := faultRecord s cause k t }

/-! ## Domains that go off (R387) -/

/-- The registers at offsets [lo, hi) lose their contents. (DEDUCED: log entry 96.) -/
def dropRegs (s : State) (lo hi : Nat) : State :=
  { s with regs := s.regs.filter (fun e => !(decide (lo ≤ e.1) && decide (e.1 < hi))) }

/-- A command finishes with ABORTED (R280, R281): an ENC_OUTBUF with its bytes written as RESULT and PARTIAL where they are fewer than LENGTH, a
STATE_LOAD or COMMIT with the result that names nothing (R208). (DEDUCED: log entry 74.) -/
def abortJob (s : State) (b : BufOut) : State :=
  if b.job.opcode = 0x23 then s.finish b.job .aborted (bufFlags b.job b.used) b.used
  else s.finish b.job .aborted 0 (if b.job.opcode = 0x30 ∨ b.job.opcode = 0x31 then 0xFFFFFF else 0)

/-- Commands that finish with ABORTED. (DEDUCED: log entry 74.) -/
def abortAll (s : State) (js : List BufOut) : State := js.foldl abortJob s

/-- A command that has written nothing to a host buffer. -/
def Job.idle (j : Job) : BufOut := { job := j, used := 0 }

/-- The slate copies under way wait on memory that has stopped: they finish with ABORTED (R306). (DEDUCED: log entry 74.) -/
def abortSlates (s : State) : State := abortAll { s with cmp.copies := [] } (s.cmp.copies.map (·.1.idle))

/-- The waiting descriptors of the decode side: feeds and draining closes. -/
def decWaits (s : State) : List BufOut :=
  s.dec.ctxs.flatMap (fun e => (e.2.feeds.map (·.job) ++ e.2.closing.toList).map Job.idle)

/-- The waiting descriptors of the encode side: host buffers and closes. -/
def encWaits (s : State) : List BufOut :=
  s.encs.flatMap (fun e => e.2.bufs ++ e.2.closing.toList.map Job.idle)

/-- PD5 goes off: contexts, engines and their registers are gone. (DEDUCED: log entry 96.) -/
def pd5Off (s : State) : State :=
  dropRegs { s with dec.ctxs := [], dec.engs := [], sys.power.on := setBit s.sys.power.on 5 false } 0x600000 0x700000

/-- The HPD of a port that loses power is low (R74). -/
def hpdLow (s : State) : State :=
  (s.caps.filter (fun e => e.2.hpd)).foldl (fun s e => s.emit (.hpd e.1 false)) s

/-- PD6 goes off: encode streams, capture receivers and their registers are gone. (DEDUCED: log entry 96.) -/
def pd6Off (s : State) : State :=
  dropRegs { hpdLow s with encs := [], caps := [], sys.power.on := setBit s.sys.power.on 6 false } 0x700000 0x800000

/-! ## FROZEN (R406) -/

/-- Readiness bits that FROZEN leaves as they are. (DEDUCED: log entry 74.) -/
def frozenKeeps (i : Nat) : Bool := i == 0 || i == 26 || (decide (32 ≤ i) && decide (i ≤ 42))

/-- Enter FROZEN with a mode change cause 7 to 10 (R406, R407); from DORMANT and from FROZEN itself there is no such change
(R394). (DEDUCED: log entry 74.) -/
def State.enterFrozen (s : State) (cause : Nat) : State :=
  if s.sys.mode = .frozen ∨ s.sys.mode = .dormant then s
  else
    let s : State := (writeFault s cause).setMode .frozen cause
    let s : State := (List.range 45).foldl (fun s i => if frozenKeeps i then s else s.setReady i false) s
    let waits := decWaits s ++ encWaits s ++ ((s.sys.dorm.filter (fun d => !d.posted)).map (·.job.idle)).toList
    let s : State := { s with
      sys.power.strLock := false, sys.dorm := none,
      dram.selfRefresh := s.dram.selfRefresh || decide (cause = 8),
      touch.ports := s.touch.ports.map (fun e => (e.1, { e.2 with scanning := false, seed := false, stopping := false, contacts := [] })) }
    let s : State := pd6Off (pd5Off s)
    let s : State := { s with sys.power.on := setBit s.sys.power.on 1 false }
    abortAll s waits

end Machine
end Sys2Proof
end

