-- ==== Sys2Proof/Machine/Mem.lean ====
section
/-! DEFINITION. The device memory controller (R291 to R317): the address map, the ingress, the channels' scheduling, ECC, the
row-hammer tracker, freeze, training, refresh and initialization. -/

namespace Sys2Proof
namespace Machine

/-! ## The inverse map (R293), ECC slots (R294) and PASR masks (R313) -/

/-- The device address of data block b of a channel (the inverse of map in R293). -/
def blockAddr (ch b : Nat) : Nat := ((b / 4) * 24 + ch) * 256 + (b % 4) * 64

/-- The device address of a data slot of a row in a bank (the inverse of map in R293). -/
def slotAddr (ch bank row slot : Nat) : Nat := blockAddr ch (28 * (row * 16 + (bank ^^^ (row % 16))) + slot)

/-- The bytes of ECC slot 28 + j of a row (R293, R294): byte k covers word k mod 8 of data slot 8j + k ÷ 8; bytes 32 to 63 of slot 31 are zero. -/
def eccSlotBytes (s : State) (ch bank row j : Nat) : List Byte :=
  (List.range 64).map (fun k =>
    if 8 * j + k / 8 ≥ 28 then 0
    else Config.eccByte (BitVec.ofNat 64 (leNat (memRead s.mem (slotAddr ch bank row (8 * j + k / 8) + 8 * (k % 8)) 8))))

/-- The PASR segments of a fitted device of a density in Gb that hold a row of the segments of a mask (R291, R313): an eighth of its rows
each. -/
def pasrMask (config density mask : Nat) : Nat :=
  let rows := rowsPerSeg config
  let fitted := density * 8192
  ((List.range 8).filter (fun f => (List.range 8).any (fun k =>
    bit mask k && decide (f * fitted < (k + 1) * rows) && decide (k * rows < (f + 1) * fitted)))).foldl (fun a f => a + 2 ^ f) 0

/-- A channel right after reset. -/
def ChanRec.init : ChanRec :=
  { density := 0, queue := [], batch := false, ecc := [], hammer := [], refreshes := 0, ceSince := 0, ceTotal := 0, acts := 0,
    scrub := 0, trainTemp := 0 }

def State.chan (s : State) (ch : Nat) : ChanRec := s.chans.getD ch ChanRec.init
def State.setChan (s : State) (ch : Nat) (c : ChanRec) : State := { s with chans := s.chans.set ch c }

/-! ## Ingress (R295 to R297, R304, R314) -/

/-- A read or scrub of a channel's queue. -/
def DramReq.isRead (q : DramReq) : Bool := q.kind == 0 || q.kind == 3
/-- A write or partial write. -/
def DramReq.isWrite (q : DramReq) : Bool := q.kind == 1 || q.kind == 2
/-- Two requests to one 64-byte block. -/
def sameBlock (a b : DramReq) : Bool := a.addr / 64 == b.addr / 64

/-- Why a request must wait at the ingress: its segment (R314), its channel queue (R295, R299), or its throttle (R304).
(DEDUCED: log entry 76.) -/
def mustWait (s : State) (q : DramReq) : Bool :=
  let c := s.chan (s.loc q.addr).ch
  !(segUsable s q.addr) || s.dram.selfRefresh
    || decide ((c.queue.filter (fun x => x.isWrite == q.isWrite)).length ≥ 64)
    || ((s.dram.tokens.get? q.mid).any (fun c => decide (s.clk < c + (if s.dram.throttle.contains q.mid then 8 else 1))))

/-- The request enters its channel's queue: a write is visible from now on, a read returns what is there now (R295); a read
that meets a queued write of its block is a hazard wait (R300). -/
def acceptReq (s : State) (q : DramReq) : State :=
  let ch := (s.loc q.addr).ch
  let c := s.chan ch
  let s := { s with dram.tokens := s.dram.tokens.set q.mid s.clk }
  if q.isWrite then
    let old := memRead s.mem q.addr q.data.length
    let s := { s with mem := memWrite s.mem q.addr q.data }
    s.setChan ch { c with queue := c.queue ++ [{ q with old := old }] }
  else
    let hit := c.queue.any (fun x => x.isWrite && sameBlock x q)
    let s := if hit then s.bump Reg.MEM_HAZARD_CNT else s
    s.setChan ch { c with queue := c.queue ++ [{ q with data := memRead s.mem q.addr q.data.length }] }

/-- Try the waiting requests in order; one that waits holds back its master's later ones (R295). -/
def drainList : List DramReq → List DramReq → State → State
  | [], wait, s => { s with dram.ingress := wait }
  | q :: qs, wait, s =>
    if s.dram.frozen.isSome ∨ wait.any (fun x => x.mid == q.mid) ∨ mustWait s q then drainList qs (wait ++ [q]) s
    else drainList qs wait (acceptReq s q)

/-- Try every request that waits at the ingress. (DESIGN CHOICE: log entry 2.) -/
def drainIngress (s : State) : State := drainList s.dram.ingress [] s

/-- The word the DRAM test writes at an 8-byte word of the range (R408): its address, a walking one, or the LFSR.
(DESIGN CHOICE: log entry 75.) -/
def testWord (t : DramTest) (a : Nat) : Nat :=
  let k := (a - t.base) / 8
  match t.pattern with
  | 0 => a
  | 1 => 2 ^ (k % 64)
  | _ => (Config.testLfsr k).toNat

/-- The test's 64 bytes at an address. -/
def testBlock (t : DramTest) (a : Nat) : List Byte := (List.range 8).flatMap (fun i => leBytes 8 (testWord t (a + 8 * i)))

/-- A block that the DRAM test has read at an address is compared with the pattern; with the last one the pass ends (R409). -/
def testCompare (s : State) (a : Nat) (b : List Byte) : State :=
  let t := s.dram.test
  let badW := (List.range 8).filter (fun i => fieldAt b (8 * i) 8 != testWord t (a + 8 * i))
  { s with dram.test := { t with
      passes := if a + 64 ≥ t.base + t.size then t.passes + 1 else t.passes,
      bad := min (t.bad + badW.length) 0xFFFFFFFF,
      first := if t.bad = 0 then (match badW with | i :: _ => a + 8 * i | [] => t.first) else t.first } }

/-- The DRAM test engine's next access goes to the ingress once none of its own waits there: a write of the pattern, or a read that is compared
when its data arrive, a denied one at once as zeros; passes over the range repeat (R409). A frozen controller answers nothing (R306). -/
def testAccess (s : State) : State :=
  let t := s.dram.test
  let a := t.base + t.pos
  let last := decide (t.pos + 64 ≥ t.size)
  if s.dram.frozen.isSome ∨ s.dram.ingress.any (fun q => q.mid == 0x3E) then drainIngress s
  else
    let s : State := { s with dram.test := { t with pos := if last then 0 else t.pos + 64, reading := t.reading != last } }
    if !(mpuOk s 0x3E a 64) then
      let s := s.mpuDeny 0x3E a 64 (!t.reading)
      if t.reading then testCompare s a (List.replicate 64 0) else s
    else
      let b := if t.reading then List.replicate 64 0 else testBlock t a
      drainIngress { s with dram.ingress := s.dram.ingress ++ [{ kind := b2n (!t.reading), mid := 0x3E, addr := a, data := b }] }

/-- One request of a master at the ingress, after the MPU (R295, R297, R334, R336); a frozen controller answers nothing (R306).
(DESIGN CHOICE: log entry 44.) -/
def ingressOne (s : State) (mid addr : Nat) (write : Bool) (data : List Byte) : State :=
  let len := data.length
  if !(mpuOk s mid addr len) then
    let s := s.mpuDeny mid addr len write
    if write then s else s.emit (.readData mid (List.replicate len 0))
  else if addr < s.usable then
    let kind := if !write then 0 else if len = 64 then 1 else 2
    drainIngress { s with dram.ingress := s.dram.ingress ++ [{ kind := kind, mid := mid, addr := addr, data := data }] }
  else if addr < apertureLo ∧ s.dram.frozen.isSome then
    { s with dram.ingress := s.dram.ingress ++ [{ kind := if write then 1 else 0, mid := mid, addr := addr, data := data }] }
  else if addr < apertureLo then
    let s := s.addrFault mid addr
    if write then s else s.emit (.readData mid (List.replicate len 0))
  else if addr < regSpace then
    let pf := if mid = 0x31 then 1 else 0
    let h := s.apertureBase + (addr - apertureLo)
    if write then s.hostWrite pf h data
    else
      let (b, s) := s.masterRead mid pf h len
      match b with
      | some b => s.emit (.readData mid b)
      | none => s
  else if write then s else s.emit (.readData mid (List.replicate len 0))

/-- MEMORY_REQUEST (R295): a transfer split into blocks in ascending address order, but a request of up to 512 bytes to the host aperture is
one access (R336); a request of the DRAM test engine while a
test runs is its next access (R409). -/
def doMemRequest (s : State) (mid addr len : Nat) (write : Bool) (data : List Byte) : State :=
  if mid = 0x3E ∧ s.dram.test.on then testAccess s
  else if apertureLo ≤ addr ∧ addr + len ≤ regSpace ∧ len ≤ 512 then ingressOne s mid addr write (slice data 0 len)
  else
    (blocksOf (len + 1) addr 0 len).foldl
      (fun s p => ingressOne s mid (addr + p.1) write (slice data p.1 p.2)) s

/-! ## Row-hammer tracking (R303 to R305) -/

/-- THRESHOLD in force (R303, MEM_HAMMER_CFG). -/
def State.hammerThreshold (s : State) : Nat := max 256 (min 4096 (bits (s.reg Reg.MEM_HAMMER_CFG) 12 0))

/-- Count an activation per MID: four MIDs are kept, the least active is replaced (R303). -/
def countMid (l : List (Nat × Nat)) (mid : Nat) : List (Nat × Nat) :=
  if l.any (fun e => e.1 == mid) then l.map (fun e => if e.1 == mid then (e.1, e.2 + 1) else e)
  else if l.length < 4 then l ++ [(mid, 1)]
  else
    let least := l.foldl (fun m e => min m e.2) (l.foldl (fun m e => max m e.2) 0)
    l.eraseP (fun e => e.2 == least) ++ [(mid, 1)]

/-- Count an activation of a row in a bank's 16 tracked rows; a new row inherits the least count (R303). (DEDUCED: log entry 77.) -/
def trackRow (rows : List HammerRow) (row mid : Nat) : List HammerRow :=
  if rows.any (fun r => r.row == row) then
    rows.map (fun r => if r.row == row then { r with count := r.count + 1, mids := countMid r.mids mid } else r)
  else if rows.length < 16 then rows ++ [{ row := row, count := 1, mids := [(mid, 1)] }]
  else
    let least := rows.foldl (fun m r => min m r.count) (rows.foldl (fun m r => max m r.count) 0)
    rows.eraseP (fun r => r.count == least) ++ [{ row := row, count := least + 1, mids := [(mid, 1)] }]

/-- The MID with the most activations of a row. (DEDUCED: log entry 77.) -/
def heaviest (l : List (Nat × Nat)) : Nat :=
  let top := l.foldl (fun m e => max m e.2) 0
  match l.find? (fun e => e.2 == top) with
  | some e => e.1
  | none => 0

/-- How long a throttle lasts, in ns (R304, MEM_HAMMER_CFG). -/
def State.throttleNs (s : State) : Nat := max 1 (bits (s.reg Reg.MEM_HAMMER_CFG) 19 16) * 1000000

/-- A throttled MID's time starts, or starts again (R304). -/
def throttleOn (s : State) (mid : Nat) : State := { s with dram.throttleEnd := s.dram.throttleEnd.set mid (s.clk + s.throttleNs) }

/-- A row has reached the threshold: neighbours refreshed, the count restarted, the heaviest MID throttled unless exempt or out
of slots, MEM_HAMMER raised (R303 to R305, R316). (DEDUCED: log entry 77.) -/
def hammerHit (s : State) (ch bank row : Nat) (mids : List (Nat × Nat)) : State :=
  let mid := heaviest mids
  let s := s.emit (.dramOp ch "targeted refresh" bank row 0)
  let (action, s) :=
    if mid = 0x28 ∨ mid = 0 then (1, s)
    else if s.dram.throttle.contains mid then (0, throttleOn s mid)
    else if s.dram.throttle.length ≥ 8 then (2, s)
    else (0, throttleOn { s with dram.throttle := s.dram.throttle ++ [mid] } mid)
  let occ := s.dram.hamOcc.getD mid 0 + 1
  let s := { s with dram.hamOcc := s.dram.hamOcc.set mid occ }.bump Reg.MEM_HAMMER_CNT
  s.raiseLimited (0x030200 + mid) 100000000 0x0302
    (leBytes 1 ch ++ leBytes 1 bank ++ leBytes 4 row ++ leBytes 1 mid ++ leBytes 1 action ++ leBytes 4 occ)

/-- One activation of a row for a MID (R298, R303): windows of 32 ms per bank. -/
def activate (s : State) (ch bank row slot mid : Nat) : State :=
  let s := s.emit (.dramOp ch "access" bank row slot)
  let c := s.chan ch
  let (start, rows) := c.hammer.getD bank (s.clk, [])
  let (start, rows) := if s.clk - start ≥ 32000000 then (s.clk, []) else (start, rows)
  let rows := trackRow rows row mid
  let hit := rows.find? (fun r => r.row == row && decide (r.count ≥ s.hammerThreshold))
  let kept := rows.map (fun r => if r.row == row && hit.isSome then { r with count := 0, mids := [] } else r)
  let s := s.setChan ch { c with acts := c.acts + 1, hammer := c.hammer.set bank (start, kept) }
  match hit with
  | some r => hammerHit s ch bank row r.mids
  | none => s

/-- THROTTLE_EXPIRY (R304): the MID's time is over. -/
def doThrottleExpiry (s : State) (mid : Nat) : State :=
  if s.clk < s.dram.throttleEnd.getD mid 0 then s
  else drainIngress { s with dram.throttle := s.dram.throttle.filter (fun m => !(m == mid)) }

/-! ## Freeze (R306 to R308) -/

/-- A freeze queue entry (R307). (DEDUCED: log entry 76.) -/
def freezeEntry (s : State) (q : DramReq) : List Byte :=
  let l := s.loc q.addr
  leBytes 1 q.kind ++ leBytes 1 q.mid ++ leBytes 1 l.bank ++ leBytes 1 (if q.kind = 4 then eccSlot l.slot else l.slot)
    ++ leBytes 4 l.row ++ leBytes 8 q.addr

/-- The writes of a queue that were accepted and not issued take no effect, newest first (R306). -/
def undoQueue (m : List Host.Cell) (qs : List DramReq) : List Host.Cell :=
  qs.reverse.foldl (fun m q => if q.isWrite then memWrite m q.addr q.old else m) m

/-- No write that waits in a channel takes effect (R306). (DEDUCED: log entry 76.) -/
def undoWrites (s : State) : State := { s with mem := s.chans.foldl (fun m e => undoQueue m e.2.queue) s.mem }

/-- The controller freezes (R306): snapshot (R307), always-on record (R308), readiness, MEM_FREEZE, trigger 1, FROZEN.
(DEDUCED: log entry 76.) -/
def freeze (s : State) (cause ch bank mid row slot word syn : Nat) : State :=
  if s.dram.frozen.isSome then s
  else
    let es := ((s.chan ch).queue.take 8).map (freezeEntry s)
    let head := leBytes 1 cause ++ leBytes 1 ch ++ leBytes 1 bank ++ leBytes 1 mid ++ leBytes 4 row ++ leBytes 1 slot
      ++ leBytes 1 word ++ leBytes 1 syn ++ leBytes 1 es.length
    let n := min (fieldAt s.aon.freeze 12 2 + 1) 0xFFFF
    let s := undoWrites { s with dram.frozen := some { summary := head ++ leBytes 4 s.ftUs, entries := es } }
    let s := { s with aon.freeze := head ++ leBytes 2 n ++ leBytes 1 1 ++ leBytes 1 0, aon.freezeTime := s.ft }
    let s := s.raise 0x0300 (leBytes 1 cause ++ leBytes 1 ch ++ leBytes 1 bank ++ leBytes 1 mid ++ leBytes 4 row
      ++ leBytes 1 slot ++ leBytes 1 syn)
    let s := (s.trigger 1 true)
    abortSlates (((s.setReady 2 false).setReady 3 false).enterFrozen 7)

/-- COMMAND_ERROR (R306, R307). -/
def doCommandError (s : State) (ch : Nat) (what : MemStruct) : State :=
  let syn := match what with | .readQueue => 0 | .writeQueue => 1 | .scheduler => 2 | .eccCache => 3
  freeze s 4 ch 0xFF 0xFF 0xFFFFFFFF 0 0 syn

/-! ## The channels (R294, R298 to R302) -/

/-- Reads of the pipes and Fumarole are urgent (R299). -/
def urgent (q : DramReq) : Bool := (decide (0x20 ≤ q.mid) && decide (q.mid ≤ 0x27)) || q.mid == 0x28

/-- The entries of a queue that stand before no earlier entry of the same block and the other direction (R300). -/
def freeOf : List DramReq → List DramReq → List DramReq
  | _, [] => []
  | seen, q :: qs =>
    if seen.any (fun x => sameBlock x q && !(x.isRead && q.isRead)) then freeOf (seen ++ [q]) qs
    else q :: freeOf (seen ++ [q]) qs

/-- The request a channel issues next (R299, R300): a write that a read waits for, then by batch and urgency. -/
def pickReq (c : ChanRec) : Option DramReq :=
  let ws := c.queue.filter (fun q => q.isWrite)
  let free := freeOf [] c.queue
  let hazard := ws.find? (fun w => free.contains w &&
    ((c.queue.dropWhile (fun x => !(x == w))).any (fun x => x.isRead && sameBlock x w)))
  let rd := fun u => free.find? (fun q => q.isRead && (urgent q == u))
  match hazard with
  | some w => some w
  | none =>
    match rd true with
    | some q => some q
    | none =>
      if c.batch then free.find? (fun q => q.isWrite)
      else rd false

/-- Whether a write batch is in progress after a change of the queue (R299, MEM_WQ_MARK). -/
def batchNext (s : State) (c : ChanRec) : Bool :=
  let n := (c.queue.filter (fun q => q.isWrite)).length
  let mark := s.reg Reg.MEM_WQ_MARK
  if c.batch then decide (n > bits mark 5 0) else decide (n ≥ bits mark 13 8)

/-- Access the ECC slot of a block unless its channel's cache of 32 slots holds it (R294). -/
def eccAccess (s : State) (l : DramLoc) (mid : Nat) : State :=
  let c := s.chan l.ch
  let tag := (l.bank, l.row, eccSlot l.slot)
  if c.ecc.contains tag then s.setChan l.ch { c with ecc := tag :: c.ecc.erase tag }
  else activate (s.setChan l.ch { c with ecc := (tag :: c.ecc).take 32 }) l.ch l.bank l.row (eccSlot l.slot) mid

/-- Corrected errors: counted, and raised at most once per second per channel (R301, R316). -/
def countCe (s : State) (ch n : Nat) : State :=
  let c := s.chan ch
  let c := { c with ceSince := c.ceSince + n, ceTotal := c.ceTotal + n }
  let s := (s.setChan ch c).bumpBy (Reg.MEM_CE_CNT + 4 * ch) n
  let key := 0x030100 + ch
  if s.rateOk key 1000000000 then
    let s := (s.rateMark key).setChan ch { c with ceSince := 0 }
    s.raise 0x0301 (leBytes 1 ch ++ leBytes 4 c.ceSince ++ leBytes 4 c.ceTotal)
  else s

/-- What the ECC check of a read at an address found (R301): clean, corrected with the block written back through the write
queue, or an uncorrectable error that freezes with the cause of the request that needed it. -/
def eccResult (s : State) (l : DramLoc) (addr mid cause : Nat) (ecc : Ecc) : State :=
  match ecc with
  | .clean => s
  | .corrected n =>
    let s := countCe s l.ch n
    let c := s.chan l.ch
    let a := addr / 64 * 64
    let b := memRead s.mem a 64
    s.setChan l.ch { c with queue := c.queue ++ [{ kind := 1, mid := mid, addr := a, data := b, old := b }] }
  | .bad w syn => freeze s cause l.ch l.bank (if cause = 3 then 0xFF else mid) l.row l.slot w.val syn.toNat

/-- The separate access to a block's ECC slot, where the cache does not hold it (R294, R307). -/
def eccEntry (s : State) (l : DramLoc) (mid : Nat) : List DramReq :=
  if (s.chan l.ch).ecc.contains (l.bank, l.row, eccSlot l.slot) then []
  else [{ kind := 4, mid := mid, addr := slotAddr l.ch l.bank l.row (l.slot / 8 * 8), data := [] }]

/-- A request's accesses with the ECC check of what it reads (R294, R301, R306): it holds its queue entry, and an ECC access one of its own,
until they are done; a controller that froze leaves both. check says that the request reads. (DEDUCED: log entry 76.) -/
def checkedAccess (s : State) (q : DramReq) (check : Bool) (cause : Nat) (ecc : Ecc) : State :=
  let l := s.loc q.addr
  let es := eccEntry s l q.mid
  let c := s.chan l.ch
  let s := s.setChan l.ch { c with queue := (if c.queue.contains q then c.queue else c.queue ++ [q]) ++ es }
  let s := eccAccess (activate s l.ch l.bank l.row l.slot q.mid) l q.mid
  let s := if check then eccResult s l q.addr q.mid cause ecc else s
  if s.dram.frozen.isSome then s
  else s.setChan l.ch { s.chan l.ch with queue := (q :: es).foldl (fun qs x => qs.erase x) (s.chan l.ch).queue }

/-- A request has been issued: the data of a read reach its master, and a partial write makes its second access (R296, R409). -/
def issued (s : State) (q : DramReq) : State :=
  let l := s.loc q.addr
  match q.kind with
  | 0 =>
    let s := s.emit (.readData q.mid q.data)
    if q.mid = 0x3E ∧ s.dram.test.on then testCompare s q.addr q.data else s
  | 2 => activate s l.ch l.bank l.row l.slot q.mid
  | _ => s

/-- CHANNEL_ISSUE (R299): the next request of a channel; nothing while the controller is frozen or the channel retrains. -/
def doChannelIssue (s : State) (ch : Nat) (ecc : Ecc) : State :=
  if s.dram.frozen.isSome ∨ s.dram.retrain = some ch then s
  else
    let c := s.chan ch
    let c := { c with batch := batchNext s c }
    match pickReq c with
    | none => s.setChan ch c
    | some q =>
      let s := s.setChan ch { c with batch := batchNext s { c with queue := c.queue.erase q } }
      let s := checkedAccess s q (decide (q.kind ≠ 1)) (if q.kind = 2 then 2 else 1) ecc
      if s.dram.frozen.isSome then s else drainIngress (issued s q)

/-- Data blocks of a channel in the usable range (R293). -/
def chanBlocks (s : State) (ch : Nat) : Nat := 4 * ((s.usable / 256 + 23 - ch) / 24)

/-- The hours of a scrub pass (R302, MEM_SCRUB_CFG). -/
def scrubHours (s : State) : Nat :=
  let h := bits (s.reg Reg.MEM_SCRUB_CFG) 7 0
  if 1 ≤ h ∧ h ≤ 168 then h else 24

/-- An hour in ns. -/
def hourNs : Nat := 3600000000000

/-- The next pass begins a period after this one began (R302). -/
def nextPass (s : State) : State := { s with dram.scrubAt := s.dram.scrubAt + hourNs * scrubHours s }

/-- The scrubber may read a channel's next block (R300, R302, R310): the pass has begun, no read waits, no write batch is in progress, no
queued write meets the block, and the channel does not retrain. -/
def scrubMay (s : State) (ch : Nat) : Bool :=
  let c := s.chan ch
  s.dram.frozen.isNone && s.dram.trained && decide (s.dram.scrubAt ≤ s.clk) && !(s.dram.retrain == some ch) && !c.batch
    && decide (c.scrub < chanBlocks s ch) && c.queue.all (fun q => !q.isRead && decide (q.addr / 64 ≠ blockAddr ch c.scrub / 64))

/-- SCRUB_READ (R302): the next block of a channel while its read queue is empty; a segment being initialized is skipped; a
pass ends when every channel has read its last block, and the next one begins a period after this one began. -/
def doScrub (s : State) (ch : Nat) (ecc : Ecc) : State :=
  if !(scrubMay s ch) then s
  else
    let c := s.chan ch
    let a := blockAddr ch c.scrub
    let s := s.setChan ch { c with scrub := c.scrub + 1 }
    let s := if segUsable s a then checkedAccess s { kind := 3, mid := 0xFF, addr := a, data := [] } true 3 ecc else s
    if (List.range 24).all (fun k => decide ((s.chan k).scrub ≥ chanBlocks s k)) then
      ((List.range 24).foldl (fun s k => s.setChan k { (s.chan k) with scrub := 0 }) (nextPass s)).bump Reg.MEM_SCRUB_PASSES
    else s

/-- REFRESH (R311). -/
def doRefresh (s : State) (ch bank : Nat) : State :=
  let c := s.chan ch
  (s.setChan ch { c with refreshes := c.refreshes + 1 }).emit (.dramOp ch "refresh" bank 0 0)

/-- The temperature reading has moved by 10 °C or more since the channel's last training (R310). -/
def tempMoved (s : State) (ch : Nat) (temp : Int) : Bool := decide (10 ≤ (temp - (s.chan ch).trainTemp).natAbs)

/-- CHANNEL_RETRAIN (R310): at most one channel at a time, for its temperature, or for the drift of its DQS oscillator. -/
def doRetrain (s : State) (ch : Nat) (temp : Int) (drift : Bool) : State :=
  if s.dram.retrain.isSome ∨ !s.dram.trained ∨ !(drift || tempMoved s ch temp) then s
  else { s with dram.retrain := some ch }.setChan ch { (s.chan ch) with trainTemp := temp }

/-- CHANNEL_RETRAIN_END (R310): counted and raised with the temperature and the duration. -/
def doRetrainEnd (s : State) (ch : Nat) (ns : Nat) : State :=
  if s.dram.retrain = some ch then
    let s := { s with dram.retrain := none }.bump (Reg.MEM_RETRAIN_CNT + 4 * ch)
    drainIngress (s.raise 0x0304 (leBytes 1 ch ++ leBytes 1 (ofInt 8 (s.chan ch).trainTemp) ++ leBytes 2 ns))
  else s

/-! ## Training and initialization (R292, R309, R314, R315) -/

/-- The largest configuration that every channel's density in Gb meets (R292); 0 where one is below 3 Gb. (DEDUCED: log entry 73.) -/
def configOf (density : List Nat) : Nat :=
  let d := density.foldl (fun m x => min m x) (density.getD 0 0)
  if density.length < 24 then 0
  else if d ≥ 16 then 4 else if d ≥ 12 then 3 else if d ≥ 6 then 2 else if d ≥ 3 then 1 else 0

/-- The segment initialized next: one that an access waits for, else the lowest lost one (R314). -/
def nextSeg (s : State) : Option Nat :=
  let lost := (List.range 8).filter (fun k => !(bit s.dram.segReady k))
  match (s.dram.asked ++ s.dram.ingress.map (fun q => (s.loc q.addr).seg)).find? (fun k => lost.contains k) with
  | some k => some k
  | none => lost.head?

/-- Go on with initialization, or make MEM_FULL ready when nothing is left (R314, R315). -/
def startInit (s : State) : State :=
  match nextSeg s with
  | some k => { s with dram.initSeg := some k }
  | none => { s with dram.initSeg := none }.setReady 3 (s.isReady 2)

/-- The channels that leave TRAINED at 0, with the training step of each (R292): those that failed training, and those of a density below
3 Gb, whose step is not stated: a free value. (DEDUCED: log entry 73.) -/
def trainFails (s : State) (density : List Nat) (failed : List (Nat × Nat)) : List (Nat × Nat) × State :=
  let (x, s) := s.fresh
  let small := (List.range 24).filter (fun k => decide (density.getD k 0 < 3) && !(failed.any (fun e => e.1 == k)))
  (failed ++ small.map (fun k => (k, x % 256)), s)

/-- MEMORY_TRAINING_END (R292, R309, R315, R443): MEM_RESET_N high, TRAINED, MEM_RETAINED, MEM_SEGMENT for each retained segment, initialization; or
MEM_TRAIN_FAIL for each channel that failed. A frozen controller does not train (R306). (DEDUCED: log entry 73.) -/
def doTrainingEnd (s : State) (density : List Nat) (temps : List Int) (failed : List (Nat × Nat)) : State :=
  if s.dram.frozen.isSome then s
  else
    let s := if s.dram.resetN then s else { s with dram.resetN := true }.emit (.pin "MEM_RESET_N" true)
    let s := (List.range 24).foldl (fun s k => s.setChan k { (s.chan k) with density := density.getD k 0, trainTemp := temps.getD k 0 }) s
    let (bad, s) := trainFails s density failed
    let cfg := configOf density
    if !bad.isEmpty ∨ cfg = 0 then
      bad.foldl (fun s e => s.raise 0x0305 (leBytes 1 e.1 ++ leBytes 1 e.2))
        { s with dram.trained := false, dram.chTrained := 24 - (failed.map (·.1)).eraseDups.length }
    else
      let keep := 0xFF - s.dram.lost % 256
      let s := { s with dram.trained := true, dram.chTrained := 24, dram.config := cfg, dram.segReady := keep,
                        dram.selfRefresh := false, dram.scrubAt := s.clk, sys.power.memLock := true,
                        sys.power.on := setBit s.sys.power.on 4 true }
      let s := (List.range 8).foldl (fun s k =>
        if bit keep k then s.raise 0x0303 (leBytes 1 k ++ leBytes 1 0 ++ leBytes 1 keep)
        else { s with mem := memClear s.mem (segStart cfg k) (segStart cfg (k + 1)) }) s
      startInit (s.setReady 2 true)

/-- SEGMENT_INITIALIZED (R314): MEM_SEGMENT is raised and waiting accesses go on. The segment reads zero from the end of training on
(doTrainingEnd), because no read returns its former data; what a unit wrote meanwhile waited for this moment. -/
def doSegment (s : State) : State :=
  match s.dram.initSeg with
  | none => s
  | some k =>
    if s.dram.frozen.isSome then s
    else
      let mask := setBit s.dram.segReady k true
      let s := { s with dram.segReady := mask, dram.lost := setBit s.dram.lost k false, dram.asked := s.dram.asked.filter (fun a => !(a == k)) }
      let s := s.raise 0x0303 (leBytes 1 k ++ leBytes 1 1 ++ leBytes 1 mask)
      startInit (drainIngress s)

/-! ## Register views -/

/-- MEM_CONFIG (R292). -/
def viewMemConfig (s : State) : Nat :=
  let (u, n) := match s.dram.config with | 1 => (7, 8) | 2 => (14, 16) | 3 => (28, 32) | 4 => (42, 48) | _ => (0, 0)
  s.dram.chTrained * 2 ^ 24 + u * 2 ^ 16 + n * 2 ^ 8 + s.dram.config

/-- MEM_STATUS. -/
def viewMemStatus (s : State) : Nat :=
  let stalled := s.dram.ingress.any (fun q => !(segUsable s q.addr)) || s.dram.asked.any (fun k => !(bit s.dram.segReady k))
  b2n stalled * 2 ^ 19 + (s.dram.initSeg.getD 0) * 2 ^ 16 + s.dram.segReady * 2 ^ 8 + b2n s.dram.retrain.isSome * 8
    + b2n s.dram.initSeg.isSome * 4 + b2n s.dram.frozen.isSome * 2 + b2n s.dram.trained

/-- MEM_THROTTLE_LO and MEM_THROTTLE_HI (R304). -/
def viewThrottle (s : State) (hi : Bool) : Nat :=
  s.dram.throttle.foldl (fun a m => if decide (m ≥ 32) = hi then setBit a (m % 32) true else a) 0

end Machine
end Sys2Proof
end

