-- ==== Sys2Proof/Machine/Links.lean ====
section
/-! DEFINITION. Yarweut links: training, capabilities, errors, packets on arrival and departure, Tephra, routes and groups, and
domains (R104 to R125, R132 to R137). -/

namespace Sys2Proof
namespace Machine

/-- The manual's number of a training state (R107). -/
def LinkState.code : LinkState → Nat
  | .disabled => 0 | .detect => 1 | .lock => 2 | .map => 3 | .align => 4 | .caps => 5 | .up => 6 | .backoff => 7

/-- Readiness index of link l: LINK0 to LINK9, PEER (R262). -/
def linkReadyBit (l : Nat) : Nat := 32 + l

/-- The TRN set that lane n of link l sends (Table: TRN ordered set): ACK once both receive lanes are locked,
and HALF_RATE as FAB_LINK_CTRL gives it in DETECT, which the link keeps from there on. -/
def trnSyms (s : State) (l n : Nat) : List Sym :=
  let r := s.link l
  let half := if r.st = .detect then bit (s.reg (Reg.FAB_LINK_CTRL + 0x100 * l)) 1 else r.half
  .k "TRN" :: (leBytes 1 n ++ leBytes 1 l ++ leBytes 1 (b2n (r.locks == 3) + 2 * b2n half) ++ leBytes 2 s.addr
    ++ leBytes 8 s.otp.uid.toNat ++ leBytes 2 0).map .d

/-- What link l transmits in its training state (Table: link training states). -/
def linkTx (s : State) (l : Nat) : LinkTx :=
  match (s.link l).st with
  | .disabled => .electricalIdle
  | .detect => .trn (trnSyms s l 0) (trnSyms s l 1)
  | .lock => .trn (trnSyms s l 0) (trnSyms s l 1)
  | .map => .trn (trnSyms s l 0) (trnSyms s l 1)
  | .align => .align 128
  | .caps => .packets
  | .up => .packets
  | .backoff => .electricalIdle

/-- A link takes a training state and transmits as that state does (R107). -/
def linkEnter (s : State) (l : Nat) (r : LinkRec) : State :=
  let s := s.setLink l r
  s.emit (.transmits l (linkTx s l))

/-- The CAPS payload of this device on link l (R110); type 0 CAPS, 1 CAPS_ACK. -/
def capsPayload (s : State) (l type : Nat) : List Byte :=
  leBytes 1 type ++ leBytes 1 1 ++ leBytes 1 l
    ++ leBytes 1 (b2n s.isGateway + 2 * b2n (s.link l).half + 4 * b2n (l == 10))
    ++ leBytes 2 s.addr ++ leBytes 2 s.domain ++ leBytes 8 s.otp.uid.toNat ++ leBytes 2 512 ++ leBytes 14 0

/-- A LINK-class packet on link l. Its DEST is the peer's address as far as known. -/
def sendLinkClass (s : State) (l : Nat) (payload : List Byte) : State :=
  enqueue State.raise s l (mkPacket (s.link l).peerAddr s.addr clsLINK 0 0 0 s.domain payload)

/-- Send a CAPS on link l. -/
def sendCaps (s : State) (l : Nat) : State :=
  let r := s.link l
  sendLinkClass (s.setLink l { r with capsSent := true, capsAcked := decide (r.st = .up) && r.capsAcked }) l (capsPayload s l 0)

/-- A new CAPS on every UP link when a field of the payload changes (R110). -/
def capsAll (s : State) : State :=
  (List.range 11).foldl (fun s l => if s.linkUp l then sendCaps s l else s) s

/-- A receiver of the mirror loses sync (R357): the partial record is discarded, IN_SYNC is 0, MIRROR_SYNC is raised and RESYNC_REQ goes
out. The OWNER receives no records. -/
def mirrorLose (s : State) (cause : Nat) : State :=
  if s.pair.state = 3 then s
  else
    let s := { s with mir.partRec := none, mir.busy := false, mir.inSync := false }.raise 0x0750
      (leBytes 1 0 ++ leBytes 1 cause ++ leBytes 4 s.mir.lastRec)
    if s.peerUp then
      let s := mirrorPacket s 2 0 0 0 0 0 0 []
      mirrorPump s.mir.waiting.length s
    else s

/-- A link leaves UP, or its training, for another state (R107, R110, R112): readiness and LINK_STATE if it was UP, peer fields
back to reset, queued packets dropped and counted, one held by Tephra among them, a packet under way ended with ABT where it was
being forwarded. The corrections of R109 go only where the link was UP. (DESIGN CHOICE: log entry 126.) -/
def leaveUp (s : State) (l : Nat) (st : LinkState) (cause : Nat) : State :=
  let r := s.link l
  let lost := r.queue ++ (r.tephra.heldPkt.map (·.1)).toList
  let n := lost.length
  let r' := { LinkRec.init with st := st, pol := if r.st = .up then 0 else r.pol,
                                reversed := decide (r.st ≠ .up) && r.reversed, crcOpen := r.crcOpen, crcMore := r.crcMore, rxPkts := r.rxPkts, txPkts := r.txPkts,
                                tephra := { r.tephra with heldPkt := none }, skps := r.skps }
  let s := linkEnter s l r'
  if r.st = .up then
    let s := s.bumpBy (Reg.FAB_LINK_TX_DROP + 0x100 * l) n
    let s := if n ≠ 0 then fabDrop State.raise s 2 ((lost.map Packet.cls).headD 0) (s.cnt (Reg.FAB_LINK_TX_DROP + 0x100 * l)) else s
    let s := (List.range 11).foldl (fun s k =>
      let q := s.link k
      match q.cur with
      | some p => if q.cutFrom = some l then
          (((s.setLink k { q with curAbt := true, cutFrom := none }).emit (.packet k p 0 true)).emit (.symbol k "ABT")).emit
            (.lanes k [frameEnd true]) else s
      | none => s) s
    let s := s.setReady (linkReadyBit l) false
    let s := s.raise 0x0700 (leBytes 1 l ++ leBytes 1 0 ++ leBytes 1 cause)
    if l = 10 ∧ s.pair.enable then mirrorLose { s with mir.waiting := [] } 2 else s
  else s

/-- A training timeout (R107, R111): BACKOFF, FAB_LINK_TRAIN_FAIL, LINK_TRAIN_FAIL at most once per second per link.
(DESIGN CHOICE: log entry 4.) -/
def doTrainTimeout (s : State) (l : Nat) : State :=
  let st := (s.link l).st
  if st = .lock ∨ st = .map ∨ st = .align ∨ st = .caps then
    let s := (leaveUp s l .backoff 1).bump (Reg.FAB_LINK_TRAIN_FAIL + 0x100 * l)
    s.raiseLimited (0x070200 + l) 1000000000 0x0702
      (leBytes 1 l ++ leBytes 1 st.code ++ leBytes 4 (s.cnt (Reg.FAB_LINK_TRAIN_FAIL + 0x100 * l)))
  else s

/-- BACKOFF ends after 1 ms (R107). (DESIGN CHOICE: log entry 4.) -/
def doBackoffExpiry (s : State) (l : Nat) : State :=
  let r := s.link l
  if r.st = .backoff then linkEnter s l { r with st := .detect } else s

/-- ENABLE of FAB_LINK_CTRL(l) changes (R107): 0 takes the link to DISABLED, 1 starts training. -/
def linkSetEnable (s : State) (l : Nat) (en : Bool) : State :=
  let r := s.link l
  if en then (if r.st = .disabled then linkEnter s l { r with st := .detect } else s)
  else if r.st = .disabled then s else leaveUp s l .disabled 3

/-- RETRAIN of FAB_LINK_CTRL(l) (R107). -/
def linkRetrainNow (s : State) (l : Nat) : State :=
  if (s.link l).st = .disabled then s else leaveUp s l .backoff 3

/-- A link reaches UP (R107, R137). -/
def linkGoesUp (s : State) (l : Nat) : State :=
  let r := s.link l
  let s := (linkEnter s l { r with st := .up, errs := [] }).setReady (linkReadyBit l) true
  s.raise 0x0700 (leBytes 1 l ++ leBytes 1 1 ++ leBytes 1 0)

/-- What one pair of received TRN sets does in MAP (R107 to R109): consistent LANE values with ACK on both lanes count while the lane
order stays the same, others start the count again, and inconsistent LANE values are a code error. (DEDUCED: log entry 37.) -/
def takeSets (l : Nat) (s : State) (e : TrnSet × TrnSet) : State :=
  let r := s.link l
  let a := e.1.lane.toNat
  let b := e.2.lane.toNat
  if a + b ≠ 1 then (s.setLink l { r with sets := 0 }).bump (Reg.FAB_LINK_CODE_ERR + 0x100 * l)
  else
    let ack := bit e.1.flags.toNat 0 && bit e.2.flags.toNat 0
    let swap := a == 1
    let n := if !ack then 0 else if swap = r.reversed then r.sets + 1 else 1
    s.setLink l { r with reversed := swap, sets := n, peerSet := some e.1 }

/-- The next training state of a link whose condition is met (R107 to R109); MAP is left once 8 consecutive consistent sets with ACK
have come, CAPS once both sides' CAPS are acknowledged. (DEDUCED: log entry 37.) -/
def trainAdvance (s : State) (l : Nat) (obs : TrainObs) : State :=
  let r := s.link l
  match r.st with
  | .disabled =>
    if bit (s.reg (Reg.FAB_LINK_CTRL + 0x100 * l)) 0 ∧ bit s.sys.power.on 9 then linkEnter s l { r with st := .detect } else s
  | .detect => linkEnter s l { r with st := .lock, half := bit (s.reg (Reg.FAB_LINK_CTRL + 0x100 * l)) 1 }
  | .lock => linkEnter s l { r with st := .map, locks := 3, pol := obs.pol.toNat, sets := 0 }
  | .map =>
    let s := obs.sets.foldl (takeSets l) s
    let r := s.link l
    if r.sets ≥ 8 then linkEnter s l { r with st := .align } else s
  | .align => sendCaps (linkEnter s l { r with st := .caps }) l
  | .caps => if r.capsAcked ∧ r.capsSeen ∧ !r.mismatch then linkGoesUp s l else s
  | .up => s
  | .backoff => s

/-- An unacknowledged CAPS is sent again every 100 µs (R107). (DEDUCED: log entry 37.) -/
def doCapsRepeat (s : State) (l : Nat) : State :=
  let r := s.link l
  if r.st = .caps ∧ !r.capsAcked then sendCaps s l else s

/-- Take a delivered packet out of the local queue. -/
def takeLocal (s : State) (f : Packet → Bool) : State := { s with fab.localQ := s.fab.localQ.eraseP f }

/-- A CAPS or CAPS_ACK arrives (R110, R111): a mismatch keeps a link in CAPS from UP, and takes one that is UP to BACKOFF (R107). -/
def doCaps (s : State) (l : Nat) (pay : List Byte) : State :=
  let s := takeLocal s (fun p => p.cls == clsLINK && p.data == pay)
  let r := s.link l
  if !(decide (r.st = .caps) || decide (r.st = .up)) then s
  else if fieldAt pay 0 1 = 1 then
    if pay.drop 1 = (capsPayload s l 1).drop 1 then s.setLink l { r with capsAcked := true } else s
  else
    let fl := fieldAt pay 3 1
    let a := fieldAt pay 4 2 % 1024
    let d := fieldAt pay 6 2 % 1024
    let k := fieldAt pay 2 1
    let u := BitVec.ofNat 64 (fieldAt pay 8 8)
    let changed := !r.capsSeen || decide (r.peerAddr ≠ a) || decide (r.peerDom ≠ d) || decide (r.peerLink ≠ k)
      || decide (r.peerFlags ≠ fl) || decide (r.peerUid ≠ u)
    let mis := (l == 10) != bit fl 2
    let s := s.setLink l { r with peerAddr := a, peerDom := d, peerLink := k, peerFlags := fl, peerUid := u,
                                  capsSeen := r.capsSeen || !mis, mismatch := r.mismatch || mis }
    let s := sendLinkClass s l (leBytes 1 1 ++ pay.drop 1)
    let s := if changed then
        s.raise 0x0703 (leBytes 1 l ++ leBytes 2 a ++ leBytes 1 k ++ leBytes 2 d ++ leBytes 1 fl) else s
    let s := if a = s.addr ∧ a ≠ 0x3FF then s.raise 0x0711 (leBytes 1 l ++ leBytes 2 a) else s
    if mis ∧ r.st = .up then leaveUp s l .backoff 2
    else if mis ∧ !r.mismatch then s.raise 0x0700 (leBytes 1 l ++ leBytes 1 0 ++ leBytes 1 2) else s

/-- A lane of a link in UP has lost lock (R112). -/
def linkLockLost (s : State) (l : Nat) : State :=
  if s.linkUp l then leaveUp s l .backoff 1 else s

/-- A code or disparity error on a lane at a symbol time, or a special symbol on one lane only (R105, R112): counted; the 16th within 1,024 symbol periods costs the lane
its lock. -/
def codeErrorBase (s : State) (l lane sym : Nat) : State :=
  let r := s.link l
  let es := (2 * sym + lane) :: r.errs.filter (fun e => !(e % 2 == lane) || decide (sym < e / 2 + 1024))
  let s := (s.setLink l { r with errs := es }).bump (Reg.FAB_LINK_CODE_ERR + 0x100 * l)
  if (es.filter (fun e => e % 2 == lane)).length ≥ 16 then linkLockLost s l else s

/-! ## Packets (R106, R113 to R118) -/

/-- The links a packet from link l would leave on (R117, R121), for the copies that cut-through has already begun. -/
def forwardLinks (s : State) (l : Nat) (p : Packet) : List Nat :=
  if p.hops + 1 = 31 then []
  else if p.directed then
    let k := fieldAt p.data 1 1
    if k < fieldAt p.data 0 1 ∧ fieldAt p.data (2 + k) 1 ≤ 9 then [fieldAt p.data (2 + k) 1] else []
  else if p.mcast then
    (List.range 10).filter (fun k => bit (s.reg (Reg.FAB_GROUP + 4 * (p.dest % 256))) k && !(k == l))
  else if p.dest = s.addr ∨ p.dest = 0x3FF ∨ (s.pair.enable ∧ p.dest = s.pair.addrAlias) then []
  else if s.route p.dest ≤ 9 then [s.route p.dest] else []

/-- Copies of a packet from link l that cut-through has begun on idle links end with ABT (R116). -/
def abortCopies (s : State) (l : Nat) (p : Packet) : State :=
  let q := (if p.directed then Packet.nextHop p (some l) else p).withHops (p.hops + 1)
  (if p.cls = clsLINK ∨ p.cls = clsTIME ∨ p.cls = clsMIRROR ∨ l = 10 then [] else forwardLinks s l p).foldl (fun s k =>
    let r := s.link k
    if s.linkUp k ∧ r.cur.isNone ∧ r.queue.isEmpty then
      ((s.setLink k { r with cur := some q, curAbt := true }).emit (.packet k q 0 true)).emit (.lanes k (frameSyms q 0 ++ [frameEnd true]))
    else s) s

/-- A packet whose CRC failed (R115, R116): discarded and counted; the first raises LINK_CRC, later ones wait for the window's
end; copies already being forwarded end with ABT. (DEDUCED: log entry 85.) -/
def crcBad (s : State) (l : Nat) (p : Packet) : State :=
  let s := s.bump (Reg.FAB_LINK_CRC_ERR + 0x100 * l)
  let r := s.link l
  let s :=
    if r.crcOpen then s.setLink l { r with crcMore := r.crcMore + 1 }
    else (s.setLink l { r with crcOpen := true }).raise 0x0701 (leBytes 1 l ++ leBytes 4 1)
  let s := abortCopies s l p
  if l = 10 ∧ p.cls = clsMIRROR then
    let s : State := { s with mir.dropped := s.mir.dropped + 1 }
    if s.pair.enable then mirrorLose s 1 else s
  else s

/-- Whether a packet is malformed (R113, R121). (DEDUCED: log entry 39.) -/
def malformed (p : Packet) : Bool :=
  decide (p.len > 128) || decide (p.data.length ≠ 4 * p.len) || p.cls == 6 || (p.directed && !(p.cls == clsMGMT))

/-- A packet arrives on a link (R105, R106, R113 to R117): ended by ABT it is discarded and counted, and copies already begun end with ABT
too; a malformed one and one of a wrong CRC are each counted. (DEDUCED: log entry 39.) -/
def doPacketReceive (s : State) (l : Nat) (p : Packet) (crc : U32) (abt : Bool) : State :=
  let r := s.link l
  if !(decide (r.st = .up) || (decide (r.st = .caps) && p.cls == clsLINK)) then s
  else
    let s := s.setLink l { r with rxPkts := r.rxPkts + 1 }
    if abt then abortCopies (s.bump (Reg.FAB_LINK_ABT + 0x100 * l)) l p
    else if malformed p ∨ crc ≠ crc32 p.bytes then
      let s := if malformed p then s.bump (Reg.FAB_LINK_FORMAT_ERR + 0x100 * l) else s
      if crc ≠ crc32 p.bytes then crcBad s l p else s
    else
      let c := p.cls
      let wrong := if l = 10 then !(c == clsLINK || c == clsTIME || c == clsMIRROR) else c == clsMIRROR
      if wrong then
        let s := s.bump Reg.FAB_CLASS_DROP
        fabDrop State.raise s 4 c (s.cnt Reg.FAB_CLASS_DROP)
      else if c = clsLINK ∨ c = clsTIME ∨ c = clsMIRROR then deliver s p
      else s.routePkt (some l) p

/-- The end of a link's 100 ms CRC window (R115). (DESIGN CHOICE: log entry 4.) -/
def doCrcWindowEnd (s : State) (l : Nat) : State :=
  let r := s.link l
  let s := s.setLink l { r with crcOpen := false, crcMore := 0 }
  if r.crcOpen ∧ r.crcMore ≠ 0 then s.raise 0x0701 (leBytes 1 l ++ leBytes 4 r.crcMore) else s

/-- Start what waits on a link (R114). -/
def pumpLink (s : State) (l : Nat) : State := startNext State.raise ((s.link l).queue.length + 2) s l

/-- The SKP of a link, or an ALN for every 16th in UP, on both lanes (R105, R106). (DEDUCED: log entry 37.) -/
def sendSkp (s : State) (l : Nat) : State :=
  let r := s.link l
  let k := (r.skps + 1) % 16
  let n := if k = 0 ∧ r.st = .up then "ALN" else "SKP"
  ((s.setLink l { r with skps := k, skpDue := false }).emit (.symbol l n)).emit (.lanes l [(.k n, .k n)])

/-- A packet ends on a link, with EOP unless ABT has ended it (R105, R112): a SKP that waited for its end goes out (R106), and the next packet starts (R114); the mirror sender takes
the room (R356). -/
def doPacketEnd (s : State) (l : Nat) : State :=
  let r := s.link l
  let s := s.setLink l { r with cur := none, curAbt := false, cutFrom := none }
  let s := if r.cur.isSome ∧ !r.curAbt then s.emit (.lanes l [frameEnd false]) else s
  let s := pumpLink (if (s.link l).skpDue then sendSkp s l else s) l
  if l = 10 then mirrorPump s.mir.waiting.length s else s

/-- SKP (R106): sent now, or after the packet in progress. (DEDUCED: log entry 37.) -/
def doSkp (s : State) (l : Nat) : State :=
  let r := s.link l
  if r.st = .disabled ∨ r.st = .backoff then s
  else if r.cur.isSome then s.setLink l { r with skpDue := true }
  else sendSkp s l

/-- A REORDER packet held for 1 ms is sent (R133). -/
def doReorderRelease (s : State) (l : Nat) : State :=
  let r := s.link l
  match r.tephra.heldPkt with
  | some (p, _) => pumpLink (s.setLink l { r with tephra := { r.tephra with heldPkt := some (p, 0) } }) l
  | none => s

/-! ## Tephra, routes and groups (R133 to R136) -/

/-- Disarm a link's Tephra; a held packet is released at once, as the next packet of the link (R134, R136). -/
def tephraDisarm (s : State) (l : Nat) : State :=
  let s := doReorderRelease s l
  let r := s.link l
  if r.tephra.action = 0 then s
  else
    let act := r.tephra.action
    let n := r.tephra.done
    let s := s.setLink l { r with tephra := { r.tephra with action := 0 } }
    s.raise 0x0730 (leBytes 1 l ++ leBytes 1 act ++ leBytes 1 0 ++ leBytes 4 n)

/-- The checks of TephraCfg (R134, R136). -/
def tephraCfgSpec (j : Job) : CmdSpec :=
  let l := j.n 16 1
  let act := j.n 17 1
  let mode := j.n 19 1
  let bad := decide (l > 10) || decide (act > 3)
    || (decide (act ≠ 0) &&
        ((!(bit mode 0) && decide (j.n 20 2 < 2)) || (bit mode 0 && (decide (j.n 22 1 = 0) || decide (j.n 22 1 > 16)))
          || (decide (act = 2) && (decide (j.n 23 1 = 0) || decide (j.n 23 1 > 8)))
          || (decide (act = 3) && (decide (j.n 24 2 = 0) || decide (j.n 24 2 > 64)))))
  { pf0 := true, ready := true, body := j.zero [(26, 2), (36, 28)] && j.onlyBits 18 1 0x3F && j.onlyBits 19 1 3,
    own := [chk bad .badDescriptor] }

/-- TEPHRA_CFG (R134, R136). -/
def doTephraCfg (s : State) (j : Job) : State :=
  let l := j.n 16 1
  let act := j.n 17 1
  let mode := j.n 19 1
  runJob s j (tephraCfgSpec j) (fun s =>
    let s := (tephraDisarm s l).setReg (Reg.FAB_TEPHRA_COUNT + 4 * l) 0
    let s :=
      if act = 0 then s
      else
        let t : TephraRec :=
          { action := act, mask := j.n 18 1, prob := bit mode 0, payload := bit mode 1, n := j.n 20 2, k := j.n 22 1,
            bits := j.n 23 1, m := j.n 24 2, limit := j.n 28 4,
            lfsr := BitVec.ofNat 32 (if j.n 32 4 = 0 then 1 else j.n 32 4), seen := 0, done := 0,
            heldPkt := (s.link l).tephra.heldPkt }
        let s := s.setLink l { (s.link l) with tephra := t }
        let s := if s.sys.mode = .service then s else { s with fab.tephraUsed := true }
        s.raise 0x0730 (leBytes 1 l ++ leBytes 1 act ++ leBytes 1 1 ++ leBytes 4 0)
    s.finish j .done 0 0)

/-- Set entry a of the destination table. -/
def setRoute (s : State) (a v : Nat) : State :=
  let off := Reg.FAB_ROUTE_TBL + 4 * (a / 8)
  let w := s.reg off
  let k := 4 * (a % 8)
  s.setReg off (w - bits w (k + 3) k * 2 ^ k + (v % 16) * 2 ^ k)

/-- The checks of RouteSet (R119, R135). -/
def routeSetSpec (s : State) (j : Job) : CmdSpec :=
  let form := j.n 16 1
  let first := j.n 18 2
  let count := j.n 20 2
  let host := j.n 24 8
  let bad0 := decide (first > 1023) || decide (count = 0) || decide (count > 80) || decide (first + count > 1024)
  { pf0 := true, ready := true,
    body := j.zero [(17, 1), (22, 2)] && (form != 1 || j.zero [(32, 32)]),
    own := [chkOwner s j 6, chk (decide (form > 1)) .badDescriptor,
            chk (form == 1 && !(inAperture s host 512)) .outOfBounds,
            chk (form == 0 && bad0) .badDescriptor, chk (form == 1 && decide (host % 64 ≠ 0)) .outOfBounds,
            if form = 1 then chkMpu s 1 (s.hostInternal host) 512 false else none] }

/-- The whole destination table from 512 bytes (R119, R135). -/
def routeLoad (s : State) (j : Job) (tbl : List Byte) : State :=
  ((List.range 128).foldl (fun s w => s.setReg (Reg.FAB_ROUTE_TBL + 4 * w) (fieldAt tbl (4 * w) 4)) s).finish j .done 0 0

/-- ROUTE_SET (R119, R135): tbl is the 512-byte table that FORM 1 reads from host memory under NM1 (R457). -/
def doRouteSet (s : State) (j : Job) (tbl : List Byte) : State :=
  let form := j.n 16 1
  let first := j.n 18 2
  let count := j.n 20 2
  let host := j.n 24 8
  runJob s j (routeSetSpec s j) (fun s =>
    if form = 0 then
      ((List.range count).foldl (fun s k => setRoute s (first + k) (bits (j.n (24 + k / 2) 1) (4 * (k % 2) + 3) (4 * (k % 2)))) s).finish
        j .done 0 0
    else s.hostFetch j [(host, 512)] tbl (fun s b => routeLoad s j b))

/-- The checks of GroupSet (R119, R135). -/
def groupSetSpec (s : State) (j : Job) : CmdSpec :=
  { pf0 := true, ready := true, body := j.onlyBits 17 1 1 && j.onlyBits 18 2 0x3FF && j.zero [(20, 44)],
    own := [chkOwner s j 7] }

/-- GROUP_SET (R119, R135). -/
def doGroupSet (s : State) (j : Job) : State :=
  runJob s j (groupSetSpec s j) (fun s =>
    (s.setReg (Reg.FAB_GROUP + 4 * j.n 16 1) (j.n 18 2 + 2 ^ 16 * b2n (bit (j.n 17 1) 0))).finish j .done 0 0)

/-! ## Domains (R123, R125) -/

/-- DOMAIN_DENIED, at most once per second (R125). (DEDUCED: log entry 45.) -/
def domainDenied (s : State) (dom type : Nat) : State :=
  s.raiseLimited 0x072100 1000000000 0x0721 (leBytes 2 dom ++ leBytes 1 type)

/-- A write of FAB_DOMAIN.CLAIM by an MGMT request of a domain (R125): its status. (DEDUCED: log entry 45.) -/
def domainWrite (s : State) (priv : Bool) (dom v : Nat) : State × Status :=
  let claim := bit v 16
  if s.isGateway then (if dom = s.domain then (s, .done) else (domainDenied s dom 1, .denied))
  else if s.fab.claimed then
    if dom ≠ s.fab.domain then (domainDenied s dom 1, .denied)
    else if priv ∧ !claim then (capsAll { s with fab.claimed := false, fab.domain := 0x3FF }, .done)
    else (s, .done)
  else if priv ∧ claim ∧ dom ≠ 0x3FF then (capsAll { s with fab.claimed := true, fab.domain := dom }, .done)
  else (s, .denied)

/-- The width and speed at which the PCIe link has trained, which its row does not carry: free values (R257). (DESIGN CHOICE: log entry 153.) -/
def pcieTrained (s : State) : State :=
  let k := s.free
  let w := 2 ^ (Config.freeNat k % 4)
  let g := 1 + Config.freeNat (k + 1) % 5
  { s with free := k + 2, host.pcie := [0, 1].foldl (fun t f => t.set f { s.pcieFn f with width := w, speed := g }) s.host.pcie }

/-- PCIE_LINK_UP: the PCIe data link comes up on a device with PCIE_EN 1: PD3 is powered, HOST becomes ready, its domain becomes
its own address (R110, R125, R262, R396). -/
def doPcieLinkUp (s : State) : State :=
  if s.straps.pcieEn ∧ !s.isGateway then
    capsAll ((pcieTrained { s with sys.power.on := setBit s.sys.power.on 3 true }).setReady 0 true)
  else s

/-! ## Register views (R107, R110, R125, R134) -/

def viewLinkStatus (s : State) (l : Nat) : Nat :=
  let r := s.link l
  b2n r.mismatch * 2 ^ 10 + r.locks * 2 ^ 8 + b2n r.half * 2 ^ 7 + b2n r.reversed * 2 ^ 6 + r.pol * 2 ^ 4
    + b2n (r.st == .up) * 8 + r.st.code

def viewLinkPeer (s : State) (l : Nat) : Nat :=
  let r := s.link l
  b2n (bit r.peerFlags 0) * 2 ^ 31 + b2n (bit r.peerFlags 2) * 2 ^ 30 + (r.peerLink % 16) * 2 ^ 26 + r.peerDom * 2 ^ 16 + r.peerAddr

def viewDomain (s : State) : Nat :=
  b2n s.isGateway * 2 ^ 31 + b2n (s.isGateway || s.fab.claimed) * 2 ^ 30 + s.domain

def viewTephra (s : State) : Nat :=
  b2n s.fab.tephraUsed * 2 ^ 31
    + (List.range 11).foldl (fun a l => a + (if (s.link l).tephra.action ≠ 0 then 2 ^ l else 0)) 0

end Machine
end Sys2Proof
end

