-- ==== Sys2Proof/Machine/Time.lean ====
section
/-! DEFINITION. The time base (R46 to R60, R67 to R70): counting, exchanges on links, time states and uncertainty, TIME_CFG. -/

namespace Sys2Proof
namespace Machine

def TimeState.code : TimeState → Nat
  | .free => 0 | .acquiring => 1 | .locked => 2 | .holdover => 3 | .unlocked => 4 | .reacquiring => 5 | .root => 6

/-- The rate adjustment in ppb: reference correction plus slewing (R46, R55). -/
def State.rateAdj (s : State) : Int := s.time.refCorr + s.time.slew

/-- ns of the local reference pass: once reset is released, the fabric time advances at the adjusted rate, keeping the fraction (R46).
(DESIGN CHOICE: log entry 2.) -/
def advanceTime (s : State) (ns : Nat) : State :=
  let total : Int := (s.time.frac : Int) + (ns : Int) * (1000000000 + s.rateAdj)
  let t := total.toNat
  if !s.sys.power.released then { s with clk := s.clk + ns }
  else { s with clk := s.clk + ns, ft := s.ft + BitVec.ofNat 64 (t / 1000000000), time.frac := t % 1000000000 }

/-- ms since entry to HOLDOVER, held through UNLOCKED; 0 in other states (FAB_TIME_HOLD). (DEDUCED: log entry 147.) -/
def State.holdMs (s : State) : Nat :=
  if s.time.st = .holdover ∨ s.time.st = .unlocked then (s.clk - s.time.holdAt) / 1000000 else 0

/-- The time uncertainty U in ns, saturating (R53). -/
def State.uncert (s : State) : Nat :=
  min 0xFFFFFFFF
    (match s.time.st with
      | .free => 0xFFFFFFFF
      | .acquiring => 0xFFFFFFFF
      | .locked => 40 * s.time.hops
      | .holdover => s.time.u0 + s.holdMs
      | .unlocked => s.time.u0 + s.holdMs
      | .reacquiring => s.time.uRe
      | .root => 0)

/-- Enter a time state (R53, R69): TIME_STATE for a change, TIME_LOCK ready in LOCKED, HOLDOVER and ROOT; trigger 8 falls when
UNLOCKED is left (R351). (DEDUCED: log entry 148.) -/
def setTimeState (s : State) (new : TimeState) : State :=
  if s.time.st = new then s
  else
    let old := s.time.st
    let s : State := { s with time.st := new, time.since := s.clk, time.ever := s.time.ever || (new == .locked || new == .root) }
    let s : State := s.raise 0x0740 (leBytes 1 old.code ++ leBytes 1 new.code
      ++ leBytes 1 (s.time.parent.getD 0xFF) ++ leBytes 1 s.time.hops ++ leBytes 4 s.uncert ++ leBytes 8 s.ft.toNat)
    let s : State := if old = .unlocked then s.untrigger 8 else s
    s.setReady 26 (new == .locked || new == .holdover || new == .root)

/-- The root this device names in its TIME packets (R49). -/
def State.timeRoot (s : State) : Nat :=
  match s.time.st with
  | .root => s.addr
  | .free => 0x3FF
  | _ => s.time.rootNow

/-- The TIME payload of R49; type 0 SYNC, 1 REPLY. -/
def timePayload (s : State) (type seq tx rx : Nat) : List Byte :=
  let h := match s.time.st with | .root => 0 | .free => 0x1F | .acquiring => 0x1F | _ => s.time.hops
  leBytes 1 type ++ leBytes 1 h ++ leBytes 2 s.timeRoot ++ leBytes 1 s.time.st.code ++ leBytes 1 0 ++ leBytes 2 seq
    ++ leBytes 8 tx ++ leBytes 8 rx ++ leBytes 4 s.uncert ++ leBytes 4 0

/-- Hand a TIME packet to link l, whose transmitter sends it directly after a K28.1 with that symbol's departure as T_TX (R49). -/
def sendTime (s : State) (l : Nat) (payload : List Byte) : State :=
  enqueue State.raise s l (mkPacket (s.link l).peerAddr s.addr clsTIME 0 0 0 s.domain payload)

/-- A root that a TIME packet named on an input link is still considered: for 4 exchange periods after the last packet that named one,
and a packet that names none does not end it (R48). (DESIGN CHOICE: log entry 124; DEDUCED: log entry 149.) -/
def rootSeen (s : State) (l : Nat) : Option Nat :=
  let t := s.tlink l
  if bit s.time.cfg.inMask l ∧ t.seen ≠ 0x3FF ∧ t.seenAge ≤ 4 then some t.seen else none

/-- Note the root that a TIME packet names on link l; two roots, or a root told of another, are a conflict, raised once per second with
the root followed, another root and a link that names it (R48, R69). (DESIGN CHOICE: log entry 124; DEDUCED: log entry 149.) -/
def noteRoot (s : State) (l root : Nat) : State :=
  if root = 0x3FF then s
  else
    let s : State := s.setTlink l { s.tlink l with seen := root, seenAge := 0 }
    let mine := if s.time.st = .root then s.addr else s.time.rootNow
    let other := (List.range 11).find? (fun k => match rootSeen s k with | some r => r != root | none => false)
    let clash := if s.time.st = .root then root != s.addr else other.isSome
    if !clash then s
    else
      let (o, k) := if root ≠ mine then (root, l) else (((other.bind (rootSeen s)).getD root), other.getD l)
      s.raiseLimited 0x074100 1000000000 0x0741 (leBytes 2 mine ++ leBytes 2 o ++ leBytes 1 k)

/-- A SYNC arrives on link l (R48, R49): answered with a REPLY if the link is in OUT_MASK. -/
def doSync (s : State) (l : Nat) (pay : List Byte) : State :=
  let s : State := takeLocal s (fun p => p.cls == clsTIME && p.data == pay)
  if fieldAt pay 0 1 ≠ 0 then s
  else
    let rx := s.ft.toNat
    let s : State := noteRoot s l (fieldAt pay 2 2 % 1024)
    if bit s.time.cfg.outMask l ∧ s.linkUp l then
      sendTime s l (timePayload s 1 (fieldAt pay 6 2) 0 rx)
    else s

/-- ASYM of link l. -/
def TimeCfg.asymOf (c : TimeCfg) (l : Nat) : Int := c.asym.getD l 0

/-- Mean path delay and offset of R50; the half of an odd number is rounded down. (DESIGN CHOICE: log entry 125.) -/
def pathDelay (t1 t2 t3 t4 : Int) : Int := ((t4 - t1) - (t3 - t2)) / 2
def timeOffset (t1 t2 t3 t4 a : Int) : Int := ((t4 - t3) - (t2 - t1) - a) / 2

/-- The exchange period in ns (R67): 125 µs × 2^n. -/
def TimeCfg.periodNs (c : TimeCfg) : Nat := 125000 * 2 ^ c.period

/-- A REPLY arrives on link l (R50, R54): a follower takes the exchange unless it is more than 4 periods late; TIME_JUMP at the
first exchange beyond 1 ms. -/
def doReply (s : State) (l : Nat) (pay : List Byte) : State :=
  let s : State := takeLocal s (fun p => p.cls == clsTIME && p.data == pay)
  if fieldAt pay 0 1 ≠ 1 then s
  else
    let root := fieldAt pay 2 2 % 1024
    let s : State := noteRoot s l root
    if s.time.cfg.root then s
    else
      let r := s.tlink l
      let seq := fieldAt pay 6 2
      match r.open_.find? (fun e => e.1 == seq) with
      | none => s
      | some (_, t1, _) =>
        let r := { r with open_ := r.open_.filter (fun e => !(e.1 == seq)) }
        if s.ft.toNat - t1.toNat > 4 * s.time.cfg.periodNs then s.setTlink l r
        else
          let t2 : Int := fieldAt pay 16 8
          let t3 : Int := fieldAt pay 8 8
          let t4 : Int := s.ft.toNat
          let th := timeOffset t1.toNat t2 t3 t4 (s.time.cfg.asymOf l)
          let far := decide (th.natAbs > 1000000)
          let s : State := s.setTlink l { r with
            have_ := true, fresh := true, age := 0, d := pathDelay t1.toNat t2 t3 t4, theta := th,
            seq := seq, hops := fieldAt pay 1 1, state := fieldAt pay 4 1 % 8, root := root,
            jumped := far }
          if far ∧ !r.jumped then s.raise 0x0742 (leBytes 1 l ++ leBytes 8 (ofInt 64 th)) else s

/-- The root a follower considers: the lowest address named on its input links (R48). (DESIGN CHOICE: log entry 124.) -/
def chosenRoot (s : State) : Nat :=
  (List.range 11).foldl (fun m l => min m ((rootSeen s l).getD 0x3FF)) 0x3FF

/-- A link is a time candidate (R51, R54). -/
def candidate (s : State) (root l : Nat) : Bool :=
  let t := s.tlink l
  bit s.time.cfg.inMask l && t.have_ && decide (t.age ≤ 4) && t.root == root && (t.state == 2 || t.state == 6)
    && decide (t.hops ≤ 30)
    && (decide (t.theta.natAbs ≤ 1000000) || decide (s.time.st = .free)
        || (s.time.cfg.resync && decide (t.theta < -1000000)))

/-- The parent: the candidate with the lowest HOPS, then the lowest link (R51). -/
def chooseParent (s : State) (root : Nat) : Option Nat :=
  let cs := (List.range 11).filter (candidate s root)
  let h := cs.foldl (fun m l => min m (s.tlink l).hops) 31
  cs.find? (fun l => (s.tlink l).hops == h)

/-- The scan cycle that fabric time ft lies in: the last one whose start is not later (R367). (DEDUCED: log entry 91.) -/
def cycleOf (ft : Nat) : Nat := (3 * ft + 2) / 25000000

/-- The start of cycle n in fabric ns (R367). (DEDUCED: log entry 91.) -/
def cycleStart (n : Nat) : Nat := n * 25000000 / 3

/-- The next whole cycle at this moment (R367). (DEDUCED: log entry 91.) -/
def nextCycle (s : State) : Nat :=
  let n := cycleOf s.ft.toNat
  if cycleStart n = s.ft.toNat then n else n + 1

/-- A touch port at a time step in cycle n: the cycle in progress keeps its number until it finishes, and a port without one waits for the
next whole cycle of the new time (R367). (DEDUCED: log entry 91.) -/
def TouchRec.stepped (r : TouchRec) (n next : Nat) : TouchRec :=
  if r.scanning ∧ r.cur.isNone then (if r.first ≤ n then { r with cur := some n } else { r with first := next }) else r

/-- Step the fabric time by -theta (R54): every offset moves with it, and exchanges under way are discarded.
(DEDUCED: log entry 145.) -/
def stepTime (s : State) (theta : Int) : State :=
  let n := cycleOf s.ft.toNat
  let s : State := { s with ft := s.ft + BitVec.ofNat 64 (ofInt 64 (-theta)) }
  let s : State := { s with touch.ports := s.touch.ports.map (fun e => (e.1, e.2.stepped n (nextCycle s))) }
  (List.range 11).foldl (fun s l =>
    let t := s.tlink l
    s.setTlink l { t with theta := t.theta - theta, open_ := [] }) s

/-- Clamp an integer to ±m. -/
def clampInt (m : Nat) (x : Int) : Int := max (-(m : Int)) (min (m : Int) x)

/-- The servo's new rate (R54, R55): a reference correction and a slew against theta, each left open by the spec, their sum
within ±RATE_LIMIT; a rising AT_BOUND raises TIME_AT_BOUND. (DESIGN CHOICE: log entry 22.) -/
def servo (s : State) (theta : Int) : State :=
  let lim := s.time.cfg.rateLimit
  let k := s.free
  let ref := clampInt lim (Config.servoRef k)
  let raw := ref + (if theta > 0 then -(Config.servoSlew k : Int) else if theta < 0 then (Config.servoSlew k : Int) else 0)
  let tot := clampInt lim raw
  let pinned := decide (raw.natAbs ≥ lim)
  let was := s.time.atBound
  let s : State := { s with
    free := k + 1, time.refCorr := ref, time.slew := tot - ref, time.atBound := pinned,
    time.lockedCorr := if s.time.st = .locked then ref else s.time.lockedCorr }
  if pinned ∧ !was then s.raise 0x0743 (leBytes 4 (ofInt 32 tot)) else s

/-- The follower's update with candidates (R54). (DEDUCED: log entry 145.) -/
def withParent (s : State) (root l : Nat) : State :=
  let s : State := { s with time.parent := some l, time.hops := (s.tlink l).hops + 1, time.rootNow := root }
  let th := (s.tlink l).theta
  let s :=
    if s.time.st = .free then setTimeState (stepTime s th) .acquiring
    else if s.time.cfg.resync ∧ th < -1000000 then { stepTime s th with time.cfg.resync := false }
    else s
  let th := (s.tlink l).theta
  let s : State := { s with time.uRe := th.natAbs + 40 * s.time.hops }
  let s : State := if s.time.st = .holdover ∨ s.time.st = .unlocked then
      setTimeState { s with time.good := 0, time.poor := 0 } .reacquiring else s
  let fresh := (s.tlink l).fresh
  let s : State := servo s th
  let s : State := { s with
    time.good := if fresh then (if th.natAbs ≤ 100 then s.time.good + 1 else 0) else s.time.good,
    time.poor := if fresh then (if th.natAbs > 400 then s.time.poor + 1 else 0) else s.time.poor }
  let s : State := s.setTlink l { (s.tlink l) with fresh := false }
  let s :=
    if (s.time.st = .acquiring ∨ s.time.st = .reacquiring) ∧ s.time.good ≥ 16 then
      setTimeState { s with time.poor := 0, time.lockedCorr := s.time.refCorr } .locked else s
  if s.time.st = .locked ∧ s.time.poor ≥ 4 then setTimeState { s with time.good := 0, time.poor := 0 } .reacquiring else s

/-- Enter HOLDOVER with U at entry and the rate of the last LOCKED or ROOT state, without its slewing part (R54, R55, R68).
(DEDUCED: log entry 146.) -/
def enterHoldover (s : State) (u : Nat) : State :=
  setTimeState { s with time.u0 := u, time.holdAt := s.clk, time.refCorr := s.time.lockedCorr, time.slew := 0, time.good := 0, time.poor := 0,
                        time.parent := none, time.atBound := false } .holdover

/-- The follower's update without candidates (R54). (DEDUCED: log entry 146; DEDUCED: log entry 147.) -/
def withoutParent (s : State) : State :=
  match s.time.st with
  | .locked => enterHoldover s s.uncert
  | .reacquiring => enterHoldover s s.uncert
  | .acquiring => setTimeState { s with time.parent := none, time.hops := 0x1F, time.good := 0, time.poor := 0 } .free
  | .holdover => if s.clk - s.time.holdAt > s.time.cfg.holdMs * 1000000 then setTimeState s .unlocked else s
  | _ => s

/-- A queued TIME_CFG takes effect (R57, R67, R68) and completes. (DEDUCED: log entry 146.) -/
def applyTimeCfg (s : State) (j : Job) : State :=
  let cfg : TimeCfg :=
    { root := j.n 16 1 == 1, period := if j.n 17 1 = 0 then 3 else j.n 17 1, inMask := j.n 18 2, outMask := j.n 20 2,
      holdMs := if j.n 22 2 = 0 then 2000 else j.n 22 2, rateLimit := if j.n 24 4 = 0 then 200000 else j.n 24 4,
      resync := bit (j.n 28 1) 0, initTime := BitVec.ofNat 64 (j.n 32 8),
      asym := (List.range 11).map (fun l => sInt 16 (j.n (40 + 2 * l) 2)) }
  let s : State := { s with time.cfg := cfg }
  let s :=
    if cfg.root then
      if s.time.st = .root then s
      else
        let s : State := if s.time.st = .free then { s with ft := cfg.initTime, time.refCorr := 0 } else s
        setTimeState { s with
          time.lockedCorr := s.time.refCorr, time.slew := 0, time.parent := none, time.hops := 0, time.atBound := false } .root
    else if s.time.st = .root then enterHoldover { s with time.rootNow := s.addr } 0
    else s
  s.finish j .done 0 0

/-- Range checks of TIME_CFG (R67). -/
def timeCfgBad (j : Job) : Bool :=
  decide (j.n 16 1 > 1) || decide (j.n 17 1 > 7)
    || (decide (j.n 22 2 ≠ 0) && (decide (j.n 22 2 < 100) || decide (j.n 22 2 > 60000)))
    || (decide (j.n 24 4 ≠ 0) && (decide (j.n 24 4 < 1000) || decide (j.n 24 4 > 200000)))
    || (List.range 11).any (fun l => decide ((sInt 16 (j.n (40 + 2 * l) 2)).natAbs > 1000))

/-- The checks of TimeCfg (R67, R68). -/
def timeCfgSpec (j : Job) : CmdSpec :=
  { pf0 := true, ready := true,
    body := j.onlyBits 18 2 0x7FF && j.onlyBits 20 2 0x7FF && j.onlyBits 28 1 1 && j.zero [(29, 3), (62, 2)],
    own := [chk (timeCfgBad j) .badDescriptor] }

/-- TIME_CFG (R67, R68): queued until the next exchange period. -/
def doTimeCfg (s : State) (j : Job) : State :=
  runJob s j (timeCfgSpec j)
    (fun s => { s with time.queue := s.time.queue ++ [j] })

/-- A follower sends one SYNC on each link of IN_MASK that is UP (R49). -/
def sendSyncs (s : State) : State :=
  (List.range 11).foldl (fun s l =>
    if bit s.time.cfg.inMask l ∧ s.linkUp l then
      let q := s.time.seq
      sendTime { s with time.seq := (q + 1) % 65536 } l (timePayload s 0 q 0 0)
    else s) s

/-- One exchange period passes on every link's record. -/
def ageLinks (s : State) : State :=
  (List.range 11).foldl (fun s l =>
    let t := s.tlink l
    s.setTlink l { t with age := min (t.age + 1) 255, seenAge := min (t.seenAge + 1) 255,
                          open_ := (t.open_.map (fun e => (e.1, e.2.1, e.2.2 + 1))).filter (fun e => decide (e.2.2 ≤ 5)) }) s

/-- TIME_EXCHANGE_PERIOD (R49, R54, R68): one pending TIME_CFG, the follower's update, then its SYNCs. -/
def doExchangePeriod (s : State) : State :=
  let s : State := match s.time.queue with
    | [] => s
    | j :: js => applyTimeCfg { s with time.queue := js } j
  let s : State := ageLinks s
  if s.time.cfg.root then s
  else
    let root := chosenRoot s
    let s : State := match chooseParent s root with
      | some l => withParent s root l
      | none => withoutParent s
    sendSyncs s

/-- HOLDOVER_LIMIT_EXPIRY (R54): the holdover has lasted beyond its limit; UNLOCKED, the TIME_UNLOCKED declaration.
(DESIGN CHOICE: log entry 4; DEDUCED: log entry 147.) -/
def doHoldoverExpiry (s : State) : State :=
  if s.time.st = .holdover ∧ s.clk - s.time.holdAt > s.time.cfg.holdMs * 1000000 then setTimeState s .unlocked else s

/-! ## Register views -/

def viewTimeStatus (s : State) : Nat :=
  let h := if s.time.st = .root then 0 else if s.time.parent.isSome then s.time.hops % 32 else 0x1F
  b2n s.time.atBound * 2 ^ 16 + h * 2 ^ 8 + (s.time.parent.getD 0xF) * 16 + s.time.st.code

def viewTimeOffset (s : State) : Nat :=
  match s.time.parent with
  | some l => ofInt 32 (clampInt 0x7FFFFFFF (s.tlink l).theta)
  | none => 0

end Machine
end Sys2Proof
end

