-- ==== Sys2Proof/Machine/Fumarole.lean ====
section
/-! DEFINITION. Fumarole: policies and bindings, sources and their states, the snapshot, and the publication of pictures and
bands that starts it all (R8 to R17, R23 to R26, R37 to R45, R158, R159). -/

namespace Sys2Proof
namespace Machine

/-! ## Records at reset -/

/-- The reset policy (Table: default policy). -/
def PolicyRec.init : PolicyRec :=
  { treat := 0 + 1 * 2 ^ 3 + 1 * 2 ^ 6 + 0 * 2 ^ 9 + 3 * 2 ^ 12 + 3 * 2 ^ 15 + 6 * 2 ^ 18 + 0 * 2 ^ 21, late := 100,
    max := 250, frozen := 300, lost := 500, static := 0, slate := 0, blank := 0 }

/-- A source without a producer (R23). -/
def SourceRec.init : SourceRec :=
  { prod := none, policy := 0, inForce := 0, state := 7, arrived := false, whole := false, conc := false, arrival := false, remote := false, cause := 0,
    lastArr := 0, lastAdv := 0, lastChg := 0, epoch := 0 }

/-- A tile bound to no source under policy 0 (R23). -/
def TileBind.init : TileBind := { source := none, policy := 0, steam := false, evt := false }

/-- A tile that was never scanned: UNASSIGNED (R44), no source. -/
def TileRec.init : TileRec :=
  { state := 7, race := false, mismatch := false, missing := false, mark := false, esc := false, treat := 0, treat0 := 0,
    state0 := 7, escRow := 0, source := 0xFFFF, age := 0, frame := 0, policy := 0, srcSt := 7, remote := false,
    prevState := 7, prevFrame := none, prev0 := 7, prevEsc := false, prevEscRow := 0, older := [], epoch := none, epochT := none,
    scanAt := 0, faultRow := none, linePx := [], unc := 0, pol := PolicyRec.init, win := false, winState := 7, winCnt := 0, winCause := 0, latch := none }

/-- The decisions before the last one, newest first (R374). (DEDUCED: log entry 21.) -/
def TileRec.history (r : TileRec) : List TileOld :=
  match r.prevFrame with
  | some f => { frame := f, state := r.prevState, state0 := r.prev0, esc := r.prevEsc, escRow := r.prevEscRow } :: r.older
  | none => []

/-- A block that nothing has published in (R158). -/
def PubRec.init : PubRec := { pic := 0xFFFFFFFF, buf := 0, rows := 0, full := false, bufs := [] }

/-- A timing generator that has never run. -/
def ModeCfg.init : ModeCfg :=
  { idx := 0, timing := 0, split := false, cta := false, lanes := 1, rate := 0, entry := 0, unlock := 0, t0 := 0, pNum := 1,
    pDen := 1, trimLim := 1000, pace := 0, paceMax := 0 }

def TgRec.init : TgRec :=
  { cfg := ModeCfg.init, jobs := [], waiting := none, running := false, odd := false, frame := 0, startFt := 0, startClk := 0,
    period := 0, line := 0, blanking := false, started := false, k := 0, lastK := 0, lastNom := 0, kSet := false, slewing := false,
    phase := 0, good := 0, poor := 0, locked := false, trim := 0, atBound := false, fallback := none, ready := [],
    pacing := false, paceSince := 0, readPic := none, unlocked := false }

/-- A check rectangle right after reset: OFF, its last reported result disabled (R255). -/
def ChkRec.init : ChkRec :=
  { mode := 0, action := 0, inter := false, x := 0, y := 0, w := 0, h := 0, expect := 0, persist := 3, tiles := [], jobs := [],
    refAcc := 0xFFFFFFFF, linkAcc := 0xFFFFFFFF, done := false, prev := none, link := 0, comp := 0, frame := 0, result := 2, last := 2,
    fails := 0, failAt := none, relq := false, win := false, winRes := 2, winCnt := 0 }

def State.policy (s : State) (p : Nat) : PolicyRec := s.fum.policies.getD p PolicyRec.init
def State.source (s : State) (i : Nat) : SourceRec := s.fum.sources.getD i SourceRec.init
def State.setSource (s : State) (i : Nat) (r : SourceRec) : State := { s with fum.sources := s.fum.sources.set i r }
def State.tile (s : State) (t : Nat) : TileRec := s.fum.tiles.getD t TileRec.init
def State.setTile (s : State) (t : Nat) (r : TileRec) : State := { s with fum.tiles := s.fum.tiles.set t r }
def State.bindAct (s : State) (t : Nat) : TileBind := s.fum.act.getD t TileBind.init
/-- The binding the next commit applies: the shadow where one waits, else the active one (R40, R205). -/
def State.bindShd (s : State) (t : Nat) : TileBind := (s.fum.shadow.get? t).getD (s.bindAct t)
def State.tg (s : State) (n : Nat) : TgRec := s.scan.tgs.getD n TgRec.init
def State.setTg (s : State) (n : Nat) (r : TgRec) : State := { s with scan.tgs := s.scan.tgs.set n r }
def State.chk (s : State) (c : Nat) : ChkRec := s.scan.chks.getD c ChkRec.init
def State.setChk (s : State) (c : Nat) (r : ChkRec) : State := { s with scan.chks := s.scan.chks.set c r }
def State.pub (s : State) (key : Nat) : PubRec := s.surf.pubs.getD key PubRec.init
def State.setPub (s : State) (key : Nat) (r : PubRec) : State := { s with surf.pubs := s.surf.pubs.set key r }

/-- The key of a producer (R15): its type and number. -/
def prodKey (kind idx : Nat) : Nat := kind * 1024 + idx

/-- FUM_LOCK.POLICY_LOCK (R25). -/
def State.policyLock (s : State) : Bool := bit (s.reg Reg.FUM_LOCK) 0

/-- Fumarole evaluates: it is ready and the device is in a mode of R28 or R29 that evaluates. -/
def State.fumRuns (s : State) : Bool := s.isReady 27 && !(s.sys.mode == .frozen) && !(s.sys.mode == .dormant)

/-! ## Ages (R12, R13) -/

/-- Age in units of 100 µs: a negative age is 0, U is added, the result rounded up and saturated (R12, R13). -/
def ageUnits (now epoch u : Nat) : Nat := min 0xFFFFF ((now - epoch + u + 99999) / 100000)

/-- An effective age exceeds a threshold in ms; a saturated age exceeds every one (R12). -/
def exceeds (units ms : Nat) : Bool := decide (units > 10 * ms) || units == 0xFFFFF

/-- U for an item with remote or local epochs (R13). -/
def State.uFor (s : State) (remote : Bool) : Nat := if remote then s.uncert else 0

/-- A source's effective age in units (R17); saturated before its first arrival, which a source without a producer never had.
(DEDUCED: log entry 17.) -/
def State.srcUnits (s : State) (r : SourceRec) : Nat :=
  if r.prod.isNone || !r.arrived then 0xFFFFF else ageUnits s.ft.toNat r.epoch (s.uFor r.remote)

/-! ## Source states (R16, R17, R37) -/

/-- STATIC is available for decoded streams and capture ports only (R37). -/
def staticAvailable (prod : Option Nat) : Bool :=
  match prod with
  | some k => decide (k / 1024 ≤ 1)
  | none => false

/-- The state of a source under its policy now (R17). (DEDUCED: log entry 150.) -/
def sourceState (s : State) (r : SourceRec) : Nat :=
  let p := s.fum.tickPol.getD r.inForce PolicyRec.init
  let now := s.ft.toNat
  let a := s.srcUnits r
  if r.prod.isNone then 7
  else if !r.arrived then 6
  else if now - r.lastArr > p.lost * 1000000 then 6
  else if now - r.lastAdv > p.frozen * 1000000 then 5
  else if exceeds a p.max then 4
  else if p.static ≠ 0 ∧ staticAvailable r.prod ∧ now - r.lastChg > p.static * 1000000000 then 3
  else if r.conc then 2
  else if exceeds a p.late then 1
  else 0

/-- What happened at an evaluation, for the cause of a change (R43). -/
structure Trig where
  bind    : Bool := false
  arrival : Bool := false
  conceal : Bool := false
  clean   : Bool := false
  advance : Bool := false
  change  : Bool := false
  deriving DecidableEq, Repr

/-- The cause of a source's change of state (Table: state change causes). (DEDUCED: log entry 18.) -/
def sourceCause (old new : Nat) (t : Trig) : Nat :=
  if t.bind then 0
  else if new = 6 then 8
  else if old = 6 ∧ t.arrival then 9
  else if new = 5 then 6
  else if old = 5 ∧ t.advance then 7
  else if new = 2 ∧ t.conceal then 2
  else if old = 2 ∧ t.clean then 3
  else if old = 3 ∧ t.change then 5
  else if new = 3 ∧ old < 3 then 4
  else 1

/-- PAIR_ALARM beside an event of the owner; gated and counted on a paired device that is not OWNER (R348, R350).
(DEDUCED: log entry 90.) -/
def pairAlarm (s : State) (code item value frame : Nat) : State :=
  if !s.pair.enable then s
  else if s.pair.state = 3 then
    s.raise 0x0843 (leBytes 2 s.pair.addrAlias ++ leBytes 2 code ++ leBytes 2 item ++ leBytes 1 value ++ leBytes 4 frame)
  else s.bump Reg.EDG_PAIR_GATED_CNT

/-- REF_OUTPUT's frame counter, or all ones (R350). -/
def refFrame (s : State) : Nat :=
  match s.pair.refOut with
  | some n => if (s.tg n).running then (s.tg n).frame % 2 ^ 32 else 0xFFFFFFFF
  | none => 0xFFFFFFFF

/-- Give a source its new state, raising FUM_SOURCE_STATE for a change (R17, R44). -/
def evalSource (s : State) (i : Nat) (t : Trig) : State :=
  let r := s.source i
  let new := sourceState s r
  if new = r.state then s
  else
    let s : State := s.setSource i { r with state := new, cause := sourceCause r.state new t }
    let s : State := s.raise 0x0510 (leBytes 2 i ++ leBytes 1 r.state ++ leBytes 1 new ++ leBytes 1 (sourceCause r.state new t)
      ++ leBytes 4 (s.srcUnits r) ++ leBytes 8 s.ft.toNat)
    pairAlarm s 0x0510 i new (refFrame s)

/-- FUMAROLE_TICK (R17): policies and policy bindings changed since the last tick come into force for sources (R39, R40), and
every bound source is evaluated. (DEDUCED: log entry 150.) -/
def doTick (s : State) : State :=
  if !s.fumRuns then s
  else
    let s : State := { s with
      fum.tickPol := s.fum.policies, fum.sources := s.fum.sources.map (fun e => (e.1, { e.2 with inForce := e.2.policy })) }
    (s.fum.sources.map (·.1)).foldl (fun s i => if (s.source i).prod.isSome then evalSource s i {} else s) s

/-- The source bound to a producer (R15). -/
def sourceOf (s : State) (key : Nat) : Option Nat := (s.fum.sources.find? (fun e => e.2.prod == some key)).map (·.1)

/-! ## Publications (R17, R158, R159) -/

/-- The source of a producer learns of a band (R17, R37): first says it is its picture's first band, full that the picture is now
completely published, clean the picture's clean property, change the evidence of Table: content-change evidence. -/
def sourceBand (s : State) (key : Nat) (band : BandRec) (pic : PicRec) (first full change clean : Bool) (remote arrival : Bool) :
    State :=
  match sourceOf s key with
  | none => s
  | some i =>
    let r := s.source i
    let now := s.ft.toNat
    if !r.arrived ∧ !first then s
    else
      let fresh := !r.arrived
      let concealed := band.flags % 4 ≠ 0
      let r := if first then { r with lastArr := now, arrived := true } else r
      let r := if fresh then { r with lastAdv := now, lastChg := now, epoch := band.epoch } else r
      let r := if !r.whole then { r with epoch := min r.epoch band.epoch } else r
      let r := { r with remote := remote, arrival := arrival, conc := r.conc || concealed }
      let r := if change then { r with lastChg := now } else r
      let oldest := pic.bands.foldl (fun m b => min m b.epoch) band.epoch
      let adv := full && decide (oldest > r.epoch)
      let r :=
        if full then
          { r with whole := true, epoch := oldest, lastAdv := if adv then now else r.lastAdv, conc := r.conc && !clean }
        else r
      let s : State := s.setSource i r
      if s.fumRuns then
        evalSource s i { arrival := first, conceal := concealed, clean := full && clean, advance := adv, change := change }
      else s

/-- The picture in progress or newest of a producer in Fumarole's own table. -/
def PubRec.cur (p : PubRec) : PicRec :=
  p.bufs.getD p.buf { pic := p.pic, height := 0, flags := 0, epoch := 0, origin := 0, bands := [] }

/-- Fumarole's own table learns that picture pic starts in a buffer (R38). -/
def tableStart (s : State) (key : Nat) (buf : Nat) (pic : PicRec) : State :=
  let p := s.pub key
  s.setPub key { p with pic := pic.pic, buf := buf, rows := 0, full := false, bufs := p.bufs.set buf pic }

/-- The newest completely published picture of a block whose picture in progress is in buffer b: LAST's buffer. -/
def sameBand (prev : Option PicRec) (first : Nat) : Option BandRec :=
  match prev with
  | some q => q.bands.find? (fun b => b.first == first)
  | none => none

/-- Whether an epoch of this device's own is meant: local epochs are arrival epochs, capture epochs and those of an SEI of this
device (R8). -/
def localOrigin (s : State) (flags origin : Nat) : Bool := bit flags 4 || (bit flags 3 && origin == s.addr)

/-- Fumarole's own table learns of a band, and the source is evaluated again (R17, R37, R38). rows is the new FENCE.ROWS; change
says whether the band's content changed. -/
def tableBand (s : State) (key : Nat) (band : BandRec) (flags rows : Nat) (change clean : Bool) (remote arrival : Bool) :
    State :=
  let p := s.pub key
  let cur := p.cur
  let first := cur.bands.isEmpty
  let cur := { cur with bands := cur.bands ++ [band], flags := flags }
  let full := decide (rows = cur.height)
  let s : State := s.setPub key { p with rows := rows, full := full, bufs := p.bufs.set p.buf cur }
  sourceBand s key band cur first full change clean remote arrival

/-- The changed-content evidence of a band (R37): CHANGE where the SEI gave it, else a signature that differs from the same band
of the previous picture. A band that has no counterpart of the same first row there counts as changed, and one of a producer's first
picture does not. (DESIGN CHOICE: log entry 114.) -/
def bandChange (prev : Option PicRec) (b : BandRec) : Bool :=
  if bit b.flags 4 then bit b.flags 3
  else
    match sameBand prev b.first with
    | some q => decide (q.sig ≠ b.sig)
    | none => prev.isSome

/-- The picture's bands reach its HEIGHT: it was completely published (R159). -/
def PicRec.whole (q : PicRec) : Bool :=
  match q.bands.getLast? with | some b => decide (b.first + b.rows = q.height) | none => false

/-- The completely published picture of a producer that is newest, by Fumarole's own table: its buffer and record. -/
def newestFull (s : State) (key : Nat) : Option (Nat × PicRec) :=
  let p := s.pub key
  if p.full then some (p.buf, p.cur)
  else
    (p.bufs.filter (fun e => !(e.1 == p.buf) && e.2.whole)).foldl (fun m e =>
      match m with
      | some q => if (p.pic + 2 ^ 32 - e.2.pic) % 2 ^ 32 < (p.pic + 2 ^ 32 - q.2.pic) % 2 ^ 32 then some e else m
      | none => some e) none

/-- The address of buffer b's page in a band block (R158). -/
def bufPage (surf : SurfRec) (b : Nat) : Nat := surf.block + 4096 * (b + 1)

/-- FENCE and LAST as 8-byte values (Table: fence page). -/
def fenceWord (pic buf rows : Nat) : List Byte := leBytes 8 (rows % 65536 + (buf % 32) * 2 ^ 16 + (pic % 2 ^ 32) * 2 ^ 32)
def lastWord (pic buf : Nat) : List Byte := leBytes 8 ((buf % 32) * 2 ^ 16 + 2 ^ 21 + (pic % 2 ^ 32) * 2 ^ 32)

/-- The picture record's 32 stated bytes (Table: picture record). -/
def picBytes (surf : SurfRec) (p : PicRec) (width bands seiSource seiCount : Nat) : List Byte :=
  let f := if surf.reduce = 0 then 1 else 2 ^ surf.reduce
  leBytes 4 p.pic ++ leBytes 2 width ++ leBytes 2 p.height ++ leBytes 1 surf.format ++ leBytes 1 bands
    ++ leBytes 2 (p.flags + 128 * b2n (surf.reduce ≠ 0))
    ++ leBytes 2 (if surf.reduce = 0 then 0 else (width + f - 1) / f)
    ++ leBytes 2 (if surf.reduce = 0 then 0 else (p.height + f - 1) / f)
    ++ leBytes 8 p.epoch ++ leBytes 2 p.origin ++ leBytes 2 seiSource ++ leBytes 4 seiCount

/-- A band entry's 24 bytes (Table: band entry). -/
def bandBytes (b : BandRec) : List Byte :=
  leBytes 2 b.first ++ leBytes 2 b.rows ++ leBytes 1 b.flags ++ leBytes 3 0 ++ leBytes 8 b.epoch ++ leBytes 4 b.sig
    ++ leBytes 4 0

/-- Write to device memory under a master, dropping the flag: a denied write writes nothing (R336). -/
def State.wr (s : State) (mid addr : Nat) (data : List Byte) : State := (s.memWr mid addr data).1

/-- Step 1 of R159: picture record with BANDS 0, LAST if the picture before was completely published, then FENCE. The number is
FENCE.PIC + 1 of the block as it stands (R158). The answer is PIC. -/
def startPicture (s : State) (mid key : Nat) (surf : SurfRec) (buf width height flags epoch origin seiSource seiCount : Nat) :
    Nat × State :=
  let (fw, s, _) := s.memRd mid surf.block 8
  let fence := leNat fw
  let pic := (bits fence 63 32 + 1) % 2 ^ 32
  let pb := bits fence 20 16
  let (hw, s, _) := s.memRd mid (bufPage surf pb + 6) 2
  let (pw, s, _) := s.memRd mid (bufPage surf pb) 4
  let full := decide (leNat hw ≠ 0 ∧ bits fence 15 0 = leNat hw ∧ leNat pw = bits fence 63 32)
  let p : PicRec := { pic := pic, height := height, flags := flags, epoch := epoch, origin := origin, bands := [] }
  let s : State := s.wr mid (bufPage surf buf) (picBytes surf p width 0 seiSource seiCount)
  let s : State := if full then s.wr mid (surf.block + 8) (lastWord (bits fence 63 32) pb) else s
  let s : State := s.wr mid surf.block (fenceWord pic buf 0)
  (pic, tableStart s key buf p)

/-- Step 2 of R159 after a band's pixels: band entry, BANDS and FLAGS in the picture record, T_FENCE and ROW_NS, then FENCE; the
own table and the source follow. -/
def publishBand (s : State) (mid key : Nat) (surf : SurfRec) (band : BandRec) (flags rowNs : Nat) (clean : Bool)
    (remote arrival : Bool) : State :=
  let p := s.pub key
  let n := p.cur.bands.length
  let page := bufPage surf p.buf
  let rows := band.first + band.rows
  let prev := (newestFull s key).map (·.2)
  let s : State := s.wr mid (page + 64 + 24 * n) (bandBytes band)
  let s : State := s.wr mid (page + 9) (leBytes 1 (n + 1) ++ leBytes 2 (flags + 128 * b2n (surf.reduce ≠ 0)))
  let s : State := s.wr mid (surf.block + 16) (leBytes 8 s.ft.toNat ++ leBytes 4 rowNs)
  let s : State := s.wr mid surf.block (fenceWord p.pic p.buf rows)
  tableBand s key band flags rows (bandChange prev band) clean remote arrival

/-- The initialization writes of R158 under NM1: FENCE with PIC all ones, every other byte 0. -/
def initBlock (s : State) (surf : SurfRec) : State × Bool :=
  let (s, ok) := s.memWrTill 1 surf.block (leBytes 8 (0xFFFFFFFF * 2 ^ 32) ++ List.replicate (4096 * (1 + surf.buffers) - 8) 0)
  (s, ok)

/-! ## Policies (R24, R25, R39) -/

/-- The treatment code of a state in a map. -/
def treatOf (m st : Nat) : Nat := bits m (3 * st + 2) (3 * st)

/-- A policy in use (R25): named by a source with a producer, or by a tile with a source in the active or shadow bindings.
(DEDUCED: log entry 16.) -/
def policyInUse (s : State) (p : Nat) : Bool :=
  s.fum.sources.any (fun e => e.2.prod.isSome && e.2.policy == p)
    || s.fum.act.any (fun e => e.2.source.isSome && e.2.policy == p)
    || s.fum.shadow.any (fun e => e.2.source.isSome && e.2.policy == p)

/-- Policy n is weaker than policy o in some respect (R25). (DEDUCED: log entry 16.) -/
def weaker (n o : PolicyRec) : Bool :=
  (List.range 8).any (fun st => decide (treatOf n.treat st < treatOf o.treat st))
    || decide (n.late > o.late) || decide (n.max > o.max) || decide (n.frozen > o.frozen) || decide (n.lost > o.lost)
    || (decide (o.static ≠ 0) && (n.static == 0 || decide (n.static > o.static)))

/-- The policy a FUM_POLICY names. -/
def policyOf (j : Job) : PolicyRec :=
  { treat := j.n 20 4, late := j.n 24 4, max := j.n 28 4, frozen := if j.n 32 2 = 0 then 300 else j.n 32 2,
    lost := if j.n 34 2 = 0 then 500 else j.n 34 2, static := j.n 36 2, slate := j.n 38 1, blank := j.n 40 4 }

/-- Range checks of R24 and R39. -/
def policyBad (j : Job) : Bool :=
  let p := policyOf j
  decide (p.late < 1 ∨ p.late > 60000) || decide (p.max < 1 ∨ p.max > 60000) || decide (p.late > p.max)
    || decide (p.frozen < 10 ∨ p.frozen > 60000) || decide (p.lost < 10 ∨ p.lost > 60000) || decide (p.static > 3600)
    || (List.range 8).any (fun st => treatOf p.treat st == 7)
    || treatOf p.treat 4 == 0 || treatOf p.treat 5 == 0 || treatOf p.treat 6 == 0

/-- The checks of FumPolicy (R39, R24, R25). -/
def fumPolicySpec (s : State) (j : Job) : CmdSpec :=
  let i := j.n 16 1
  { pf0 := false, ready := s.isReady 27,
    body := j.zero [(17, 3), (39, 1), (44, 20)] && j.onlyBits 20 4 0xFFFFFF && j.onlyBits 40 4 0x3FFFFFFF,
    own := [chkOwner s j 3, chk (policyBad j) .badDescriptor,
            chk (s.policyLock && policyInUse s i && weaker (policyOf j) (s.policy i)) .denied] }

/-- FUM_POLICY (R39, R24, R25). -/
def doFumPolicy (s : State) (j : Job) : State :=
  let i := j.n 16 1
  runJob s j (fumPolicySpec s j)
    (fun s => { s with fum.policies := s.fum.policies.set i (policyOf j) }.finish j .done 0 0)

/-! ## Bindings (R25, R40) -/

/-- The highest number of a producer type (R15). -/
def prodMax : Nat → Nat
  | 0 => 255 | 1 => 3 | 2 => 63 | 3 => 255 | _ => 0

/-- A tile number names an item (R14). Members 1 to 63 of a plane layer do not exist; whether a layer is a plane changes with
each load, so any number is accepted here. -/
def tileOk (t : Nat) : Bool := decide (t < 4096)

/-- Some tile is bound to source i in the active or shadow bindings (R25). -/
def sourceHasTile (s : State) (i : Nat) : Bool :=
  s.fum.act.any (fun e => e.2.source == some i) || s.fum.shadow.any (fun e => e.2.source == some i)

/-- FUM_BIND of a source takes effect (R40). -/
def bindSource (s : State) (j : Job) : State :=
  let i := j.n 18 2
  let p := j.n 17 1
  let kind := j.n 22 1
  let r := s.source i
  let s : State :=
    if kind = 0xFF then evalSource (s.setSource i { SourceRec.init with policy := p, inForce := p, state := r.state }) i { bind := true }
    else
      let key := prodKey kind (j.n 24 2)
      if r.prod = some key then s.setSource i { r with policy := p }
      else evalSource (s.setSource i { SourceRec.init with
        prod := some key, policy := p, inForce := p, state := r.state, remote := decide (kind ≥ 2) }) i { bind := true }
  s.finish j .done 0 0

/-- The checks of FumBind (R40, R25). Under the lock a tile's new policy is held against its active binding's and against the
shadow's. (DEDUCED: log entry 16.) -/
def fumBindSpec (s : State) (j : Job) : CmdSpec :=
  let kind := j.n 16 1
  let p := j.n 17 1
  let item := j.n 18 2
  let prod := j.n 22 1
  let pidx := j.n 24 2
  let key := prodKey prod pidx
  let r := s.source item
  let src := j.n 20 2
  let b := s.bindShd item
  let badSrc := decide (item > 1023) || (prod != 0xFF && (decide (prod > 3) || decide (pidx > prodMax prod)))
    || (prod != 0xFF && r.prod.isSome && !(r.prod == some key))
    || (prod != 0xFF && s.fum.sources.any (fun e => e.2.prod == some key && !(e.1 == item)))
  let badTile := !(tileOk item) || (src != 0xFFFF && decide (src > 1023))
  { pf0 := false, ready := s.isReady 27,
    body := j.zero [(23, 1), (27, 37)] &&
      (if kind = 0 then j.zero [(20, 2), (26, 1)] else j.zero [(22, 1), (24, 2)] && j.onlyBits 26 1 3),
    own := [chkOwner s j 4, chk (decide (kind > 1)) .badDescriptor,
            chk (kind == 0 && badSrc) .badDescriptor, chk (kind == 1 && badTile) .badDescriptor,
            chk (kind == 0 && s.policyLock && prod == 0xFF && sourceHasTile s item) .denied,
            chk (kind == 0 && s.policyLock && weaker (s.policy p) (s.policy r.policy)) .denied,
            chk (kind == 1 && s.policyLock && src != 0xFFFF
              && (weaker (s.policy p) (s.policy b.policy) || weaker (s.policy p) (s.policy (s.bindAct item).policy))) .denied] }

/-- FUM_BIND (R40, R25). -/
def doFumBind (s : State) (j : Job) : State :=
  let kind := j.n 16 1
  let p := j.n 17 1
  let item := j.n 18 2
  let src := j.n 20 2
  runJob s j (fumBindSpec s j)
    (fun s =>
      if kind = 0 then bindSource s j
      else
        let nb : TileBind := { source := if src = 0xFFFF then none else some src, policy := p, steam := bit (j.n 26 1) 0,
                               evt := bit (j.n 26 1) 1 }
        { s with fum.shadow := s.fum.shadow.set item nb }.finish j .done 0 0)

/-- The tile bindings of a pipe's shadow take effect (R40, R205). -/
def applyBindings (s : State) (pipe : Nat) : State :=
  let (mine, rest) := s.fum.shadow.partition (fun e => e.1 / 512 == pipe)
  { s with fum.shadow := rest, fum.act := mine.foldl (fun a e => a.set e.1 e.2) s.fum.act }

/-! ## Snapshot (R41, R42) and mailbox items (R45) -/

/-- A source entry. (DEDUCED: log entry 17.) -/
def sourceEntry (s : State) (i : Nat) : List Byte :=
  let r := s.source i
  let kind := match r.prod with | some k => k / 1024 | none => 0xFF
  leBytes 1 r.state
    ++ leBytes 1 (b2n r.arrival + 2 * b2n r.remote + 4 * b2n r.conc + 8 * b2n (staticAvailable r.prod))
    ++ leBytes 1 r.policy ++ leBytes 1 kind ++ leBytes 4 (s.srcUnits r) ++ leBytes 8 (if r.arrived then r.epoch else 0)

/-- A tile entry. (DEDUCED: log entry 17.) -/
def tileEntry (s : State) (t : Nat) : List Byte :=
  let r := s.tile t
  leBytes 1 (r.state + 8 * b2n r.race + 16 * b2n r.mismatch + 32 * b2n r.missing + 64 * b2n r.mark + 128 * b2n r.esc)
    ++ leBytes 1 r.treat ++ leBytes 2 r.source ++ leBytes 4 r.age ++ leBytes 4 (r.frame % 2 ^ 32) ++ leBytes 1 r.policy
    ++ leBytes 3 0

/-- A check entry. -/
def checkEntry (s : State) (c : Nat) : List Byte :=
  let r := s.chk c
  leBytes 1 r.result ++ leBytes 1 r.mode ++ leBytes 2 r.fails ++ leBytes 4 (r.frame % 2 ^ 32)

/-- The snapshot header. -/
def snapHeader (s : State) : List Byte :=
  leBytes 2 1 ++ leBytes 2 s.addr ++ leBytes 2 (b2n (s.time.st == .unlocked) + 2 * b2n s.policyLock + 4 * b2n s.fab.tephraUsed)
    ++ leBytes 2 0 ++ leBytes 8 s.ft.toNat ++ leBytes 4 s.uncert ++ leBytes 2 1024 ++ leBytes 2 4096 ++ leBytes 2 128
    ++ List.replicate 38 0

/-- The 83,008 bytes of a snapshot taken now. (DEDUCED: log entry 19.) -/
def snapshotBytes (s : State) : List Byte :=
  snapHeader s ++ (List.range 1024).flatMap (sourceEntry s) ++ (List.range 4096).flatMap (tileEntry s)
    ++ (List.range 128).flatMap (checkEntry s)

/-- The checks of Snapshot (R41). -/
def snapshotSpec (s : State) (j : Job) : CmdSpec :=
  let addr := j.n 16 8
  let len := j.n 24 4
  { pf0 := false, ready := s.isReady 2, body := j.zero [(28, 36)],
    own := [chk (decide (len < 83008)) .outOfBounds, chkAperture s addr len, chk (decide (addr % 64 ≠ 0)) .outOfBounds,
            chk s.fum.snap.isSome .noResource, chkMpu s 0x28 (s.hostInternal addr) len true] }

/-- FUM_SNAPSHOT (R41): the values are those of now; the bytes go out until SNAPSHOT_WRITE_END. (DEDUCED: log entry 19.) -/
def doSnapshot (s : State) (j : Job) : State :=
  runJob s j (snapshotSpec s j)
    (fun s => { s with fum.snap := some (j, snapshotBytes s) })

/-- Host writes of a command under its unit's master, block by block until the first denied one (R457): how many bytes were moved. -/
def hostWriteUnder (s : State) (mid : Nat) (j : Job) (addr : Nat) (data : List Byte) : State × Nat :=
  match firstDenied s mid (s.hostInternal addr) data.length with
  | none => (s.hostWriteFor j addr data, data.length)
  | some (a, l) =>
    let n := a - s.hostInternal addr
    let s : State := if n = 0 then s else s.hostWriteFor j addr (data.take n)
    (s.mpuDeny mid a l true, n)

/-- SNAPSHOT_WRITE_END (R41, R457). (DEDUCED: log entry 19.) -/
def doSnapshotEnd (s : State) : State :=
  match s.fum.snap with
  | none => s
  | some (j, b) =>
    let (s, n) := hostWriteUnder s 0x28 j (j.n 16 8) b
    let s : State := { s with fum.snap := none }
    if n = b.length then s.finishDma j .done 0 0 else s.finishDma j .denied (if n = 0 then 0 else 4) 0

/-! ## FUM registers -/

/-- FUM_LOCK (R25): the first 1 locks and raises FUM_POLICY_LOCKED, and the OWNER sends the lock as a class 3 record (R355). -/
def fumLockSet (s : State) (v : Nat) : State :=
  if s.policyLock ∨ !(bit v 0) then s else mirrorOut ((s.setReg Reg.FUM_LOCK 1).raise 0x0514 []) 3 (leBytes 1 1)

def viewFumStatus (s : State) : Nat :=
  b2n (s.isReady 27) + 2 * b2n s.policyLock + 4 * b2n (s.fum.misOut ≠ 0)
    + 8 * b2n (s.time.st == .holdover || s.time.st == .unlocked) + 16 * b2n (s.fum.negOut ≠ 0)

/-- Tiles or sources whose state is st. Every tile and source is UNASSIGNED after reset, so the counts of state 7 read 4,096 and
1,024 there. (DEDUCED: log entry 115.) -/
def viewTileCount (s : State) (st : Nat) : Nat :=
  let n := (s.fum.tiles.filter (fun e => e.2.state == st)).length
  if st = 7 then 4096 - (s.fum.tiles.filter (fun e => !(e.2.state == 7))).length else n
def viewSrcCount (s : State) (st : Nat) : Nat :=
  let n := (s.fum.sources.filter (fun e => e.2.state == st)).length
  if st = 7 then 1024 - (s.fum.sources.filter (fun e => !(e.2.state == 7))).length else n

end Machine
end Sys2Proof
end

