-- ==== Sys2Proof/Machine/Surfaces.lean ====
section
/-! DEFINITION. Surfaces: plane layouts (R183), band signatures (R78, R166), buffer choice (R76, R157), SURFACE_POOL (R155, R165,
R178), and the RASTER receivers (R124). -/

namespace Sys2Proof
namespace Machine

/-! ## Layouts (R183) -/

/-- Bytes of one row of the first plane: the minimum pitch (R183). -/
def minPitch (format width : Nat) : Nat :=
  match format with
  | 0x30 => 4 * width
  | 0x31 => 4 * width
  | 0x40 => width
  | _ => 2 * width

/-- The planes of a surface: offset from its start, rows, bytes used per row, and whether its rows are chroma rows of 4:2:0.
(DEDUCED: log entry 52.) -/
def planesOf (format width height pitch : Nat) : List (Nat × Nat × Nat × Bool) :=
  match format with
  | 0x10 => [(0, height, 2 * width, false), (pitch * height, (height + 1) / 2, 4 * ((width + 1) / 2), true)]
  | 0x11 => [(0, height, 2 * width, false), (pitch * height, height, 2 * width, false), (2 * pitch * height, height, 2 * width, false)]
  | 0x20 => [(0, height, 2 * width, false), (pitch * height, height, 2 * width, false), (2 * pitch * height, height, 2 * width, false)]
  | f => [(0, height, minPitch f width, false)]

/-- Bytes from a surface's start to the end of its last row slot. (DEDUCED: log entry 52.) -/
def planeBytes (format height pitch : Nat) : Nat :=
  match format with
  | 0x10 => pitch * (height + (height + 1) / 2)
  | 0x11 => 3 * pitch * height
  | 0x20 => 3 * pitch * height
  | _ => pitch * height

/-- Where buffer b starts. -/
def SurfRec.buffer (f : SurfRec) (b : Nat) : Nat := f.base + b * f.stride

/-- The rows of a plane that the stored rows [first, first + n) take (R78). -/
def planeRows (chroma : Bool) (first n : Nat) : Nat × Nat :=
  if chroma then (first / 2, (first + n + 1) / 2 - first / 2) else (first, n)

/-- The bytes of stored rows [first, first + n) of a surface at an address, plane by plane (R78). -/
def rowsBytes (s : State) (format width height pitch at_ first n : Nat) : List Byte :=
  (planesOf format width height pitch).flatMap (fun p =>
    let (r0, k) := planeRows p.2.2.2 first n
    (List.range k).flatMap (fun i => memRead s.mem (at_ + p.1 + (r0 + i) * pitch) p.2.2.1))

/-- A band's signature: the CRC-32 of its stored container values (R78, R166). Planes lie where the surface's own height puts
them, whatever the picture's. -/
def bandSig (s : State) (f : SurfRec) (buf width first n : Nat) : Nat :=
  (crc32 (rowsBytes s f.format width f.height f.pitch (f.buffer buf) first n)).toNat

/-- A surface of a producer. -/
def State.surface (s : State) (key : Nat) : Option SurfRec := s.surf.surfs.get? key

/-- A release of this pool waits for pipes (R178): new frames find its surface missing. -/
def releasing (s : State) (key : Nat) : Bool :=
  s.surf.release.any (fun j => prodKey (j.n 16 1) (j.n 18 2) == key)

/-- Some pipe reads buffer b of the producer in a frame in progress (R187). -/
def beingRead (s : State) (key b : Nat) : Bool := s.surf.reading.any (fun e => e.2.1 == key && e.2.2 == b)

/-- The lowest-numbered buffer that does not hold the newest completely published picture, that no pipe reads, and that is not
in the list of others to leave alone (R76, R157). -/
def freeBuffer (s : State) (key : Nat) (f : SurfRec) (others : List Nat) : Option Nat :=
  let newest := (newestFull s key).map (·.1)
  (List.range f.buffers).find? (fun b => !(newest == some b) && !(beingRead s key b) && !(others.contains b))

/-! ## SURFACE_POOL (R155, R165, R178) -/

/-- The pool a descriptor gives. -/
def poolOf (j : Job) : SurfRec :=
  { format := j.n 20 1, buffers := j.n 21 1, reduce := j.n 22 1, width := j.n 24 2, height := j.n 26 2, pitch := j.n 28 4,
    base := j.n 32 8, stride := j.n 40 4, rpitch := j.n 44 4, roff := j.n 48 4, block := j.n 56 8 }

/-- Width and height of the reduced surface (R164). -/
def SurfRec.rsize (f : SurfRec) : Nat × Nat :=
  let k := 2 ^ f.reduce
  if f.reduce = 0 then (0, 0) else ((f.width + k - 1) / k, (f.height + k - 1) / k)

/-- Field ranges of SURFACE_POOL. -/
def poolBad (j : Job) : Bool :=
  let f := poolOf j
  let kind := j.n 16 1
  !(f.format == 0x10 || f.format == 0x11 || (kind != 0 && (f.format == 0x20 || f.format == 0x30)))
    || decide (f.buffers < 2 ∨ f.buffers > 16) || decide (f.reduce > 2) || decide (f.width < 64 ∨ f.width > 4096)
    || decide (f.height < 64 ∨ f.height > 2304) || (f.reduce == 0 && f.rpitch != 0)

/-- Pitches, planes and alignment of SURFACE_POOL (R165, R178). (DEDUCED: log entry 35.) -/
def poolBounds (s : State) (f : SurfRec) : Bool :=
  decide (f.pitch < minPitch f.format f.width) || decide (planeBytes f.format f.height f.pitch > f.stride)
    || decide (f.base % 4096 ≠ 0) || decide (f.block % 4096 ≠ 0) || decide (f.pitch % 256 ≠ 0) || decide (f.rpitch % 256 ≠ 0)
    || decide (f.stride % 4096 ≠ 0) || decide (f.roff % 4096 ≠ 0)
    || decide (f.roff ≥ f.stride) || decide (f.rpitch > f.stride)
    || (f.reduce != 0 && (decide (f.rpitch < minPitch f.format f.rsize.1)
        || decide (f.roff + planeBytes f.format f.rsize.2 f.rpitch > f.stride)))
    || decide (f.base + f.buffers * f.stride > s.usable) || decide (f.block + 4096 * (1 + f.buffers) > s.usable)

/-- The highest pool number of a kind (R178). -/
def poolMax : Nat → Nat
  | 2 => 63 | _ => 255

/-- Complete the releases whose pool no pipe reads any more (R178). -/
def settleReleases (s : State) : State :=
  let free := s.surf.release.filter (fun j => !(s.surf.reading.any (fun e => e.2.1 == prodKey (j.n 16 1) (j.n 18 2))))
  free.foldl (fun s j =>
    let s : State := { s with
      surf.release := s.surf.release.erase j, surf.surfs := s.surf.surfs.erase (prodKey (j.n 16 1) (j.n 18 2)) }
    s.finish j .done 0 0) s

/-- The checks of SurfacePool (R178). -/
def surfacePoolSpec (s : State) (j : Job) : CmdSpec :=
  let kind := j.n 16 1
  let act := j.n 17 1
  let idx := j.n 18 2
  let key := prodKey kind idx
  let f := poolOf j
  let set := (s.surface key).isSome
  let isOpen := kind == 0 && (match s.dec.ctxs.get? idx with | some c => c.state != 0 | none => false)
  { pf0 := false, ready := s.isReady 2, body := j.zero [(23, 1), (52, 4)],
    own := [chk (!(kind == 0 || kind == 2 || kind == 3) || decide (act > 1) || decide (idx > poolMax kind)) .badDescriptor,
            chk (act == 1 && set) .badDescriptor, chk (act == 0 && isOpen) .badDescriptor,
            chk (act == 1 && kind != 0 && f.reduce != 0) .badDescriptor,
            chk (act == 1 && poolBad j) .badDescriptor, chk (act == 1 && poolBounds s f) .outOfBounds,
            if act = 1 then chkMpu s 1 f.block (4096 * (1 + f.buffers)) true else none] }

/-- SURFACE_POOL (R178). -/
def doSurfacePool (s : State) (j : Job) : State :=
  let kind := j.n 16 1
  let act := j.n 17 1
  let idx := j.n 18 2
  let key := prodKey kind idx
  let f := poolOf j
  let set := (s.surface key).isSome
  runJob s j (surfacePoolSpec s j) (fun s =>
    if act = 0 then
      if set then settleReleases { s with surf.release := s.surf.release ++ [j] } else s.finish j .done 0 0
    else
      let (s, ok) := initBlock s f
      if ok then ({ s with surf.surfs := s.surf.surfs.set key f }.setPub key PubRec.init).finish j .done 0 0
      else s.finish j .denied 4 0)

/-! ## RASTER receivers (R124) -/

/-- A receiver right after reset. -/
def RasterRec.init : RasterRec := { expect := none, gaps := 0, cur := none, seen := [] }

/-- The record of a receiver, and of a flow under its own key. -/
def State.raster (s : State) (k : Nat) : RasterRec := s.dec.rasters.getD k RasterRec.init
def State.setRaster (s : State) (k : Nat) (r : RasterRec) : State := { s with dec.rasters := s.dec.rasters.set k r }

/-- A flow that feeds the receiver has had a gap since the receiver's last fence (R124). (DEDUCED: log entry 51.) -/
def rasterGap (s : State) (r : RasterRec) : Bool := r.seen.any (fun e => (s.raster e.1).gaps != e.2)

/-- A RASTER packet dropped and counted (R124, R157). -/
def rasterDrop (s : State) : State :=
  let s : State := s.bump Reg.FAB_CLASS_DROP
  fabDrop State.raise s 4 clsRASTER (s.cnt Reg.FAB_CLASS_DROP)

/-- The oldest epoch of the bands of a picture that cover rows [first, first + n); 0 where there are none (R9). -/
def oldestOver (p : Option PicRec) (first n : Nat) : Nat :=
  match p with
  | none => 0
  | some q =>
    match q.bands.filter (fun b => decide (b.first < first + n) && decide (first < b.first + b.rows)) with
    | [] => 0
    | b :: bs => bs.foldl (fun m b => min m b.epoch) b.epoch

/-- A RASTER receiver publishes the band that ends at a row, concealed where gap (R124). (DEDUCED: log entry 51.) -/
def rasterFence (s : State) (key : Nat) (f : SurfRec) (gap : Bool) (row epoch : Nat) : State :=
  let p := s.pub key
  if row + 1 ≤ p.rows ∨ row + 1 > f.height then s
  else
    let n := row + 1 - p.rows
    let prev := (newestFull s key).map (·.2)
    let band : BandRec :=
      { first := p.rows, rows := n, flags := b2n gap, epoch := if gap then oldestOver prev p.rows n else epoch,
        sig := bandSig s f p.buf f.width p.rows n }
    let bad := p.cur.flags % 2 = 1 ∨ gap
    let clean := decide (row + 1 = f.height) && !(decide bad)
    let s : State := if p.cur.bands.isEmpty then s.wr 0x38 (bufPage f p.buf + 16) (leBytes 8 band.epoch) else s
    publishBand s 0x38 key f band (b2n (decide bad)) 0 clean true false

/-- A RASTER packet in SEQ order for receiver idx (R124, R157): the buffer at PIC_START, the pixel bytes, and the fence.
(DEDUCED: log entry 51.) -/
def rasterBody (s : State) (idx : Nat) (f : SurfRec) (p : Packet) : State :=
  let fl := fieldAt p.data 1 1
  let key := prodKey 2 idx
  let (s, cur) :=
    if bit fl 1 then
      match (if releasing s key then none else freeBuffer s key f []) with
      | none => (s, none)
      | some b =>
        let (pic, s) := startPicture s 0x38 key f b f.width f.height 0 (fieldAt p.data 8 8) s.addr 0xFFFF 0
        (s, some (pic, b))
    else (s, (s.raster idx).cur)
  let s : State := s.setRaster idx { s.raster idx with cur := cur }
  match cur with
  | none => rasterDrop s
  | some (_, b) =>
    let row := fieldAt p.data 2 2
    let off := row * f.pitch + fieldAt p.data 4 4
    let pix := p.data.drop 16
    let s : State :=
      if off + pix.length ≤ planeBytes f.format f.height f.pitch then s.wr 0x38 (f.buffer b + off) pix else rasterDrop s
    if bit fl 0 then
      let r := s.raster idx
      let s : State := rasterFence s key f (rasterGap s r) row (fieldAt p.data 8 8)
      s.setRaster idx { r with seen := r.seen.map (fun e => (e.1, (s.raster e.1).gaps)) }
    else s

/-- RASTER_PACKET (R124, R120, R157): the SEQ of its flow, a packet older than expected being discarded; then the receiver.
(DEDUCED: log entry 51.) -/
def doRaster (s : State) (p : Packet) : State :=
  let s : State := takeLocal s (fun q => q.cls == clsRASTER && q == p)
  let idx := fieldAt p.data 0 1
  let flow := 64 + p.src * 4096 + p.flow
  let fr := s.raster flow
  let ahead := match fr.expect with | some e => (p.seq + 65536 - e) % 65536 | none => 0
  if ahead ≥ 32769 then s
  else
    let s : State := s.setRaster flow { fr with expect := some ((p.seq + 1) % 65536), gaps := fr.gaps + b2n (decide (ahead ≠ 0)) }
    if idx > 63 then rasterDrop s
    else
      let r := s.raster idx
      let s : State := s.setRaster idx { r with seen := if (Tab.get? r.seen flow).isSome then r.seen else r.seen.set flow 0 }
      match s.surface (prodKey 2 idx) with
      | none => rasterDrop s
      | some f => rasterBody s idx f p

end Machine
end Sys2Proof
end

