-- ==== Sys2Proof/Machine/Streams.lean ====
section
/-! DEFINITION. Stream decoding: contexts, ES rings, the demultiplexer, engines, bands of decoded pictures, concealment and clean
pictures (R139 to R180). What the codec standards decide (the parse of a picture, the pixels of a slice) comes with the commands
PICTURE_START and SLICE_DECODE. -/

namespace Sys2Proof

/-- The UUID of the Veore SEI (R92). -/
def seiUuid : List Byte :=
  [0x56, 0x45, 0x4F, 0x52, 0x45, 0x58, 0x82, 0x40, 0xB7, 0xD1, 0x3A, 0x0C, 0x6E, 0x29, 0xF4, 0x18]

/-- A receiver uses an SEI only with this UUID, VERSION 1 and payloadSize 52 (R92). -/
def Sei.ok (x : Sei) : Bool := x.uuid == seiUuid && x.size == 52 && x.version == 1

/-- The tools that R140 lists as supported. -/
def Tool.ok : Tool → Bool
  | .cabac | .cavlc | .bPictures | .reordering | .multipleReferences | .weightedPrediction | .scalingMatrices | .transform8x8
  | .longTerm | .tiles | .wavefront | .dependentSlices | .transformSkip | .crossComponent | .recoveryPoint => true
  | _ => false

/-- The pictures an SPS needs in the decoded picture buffer (R142). -/
def SpsInfo.need (q : SpsInfo) : Nat := q.dpb.getD (min q.levelDpb 16)

/-- Every parameter set of a feed, in order. -/
def FeedSets.all (f : FeedSets) : List ParamSet := f.lead ++ f.rest

/-- The NAL unit type of a parameter set. -/
def ParamSet.nal : ParamSet → Nat
  | .sps _ _ n => n.toNat
  | .bad n => n.toNat

namespace Machine

/-! ## Contexts and their rings (R143, R144) -/

def CtxRec.init : CtxRec :=
  { state := 0, engine := 0, codec := 0, fabric := false, early := false, feedPf := 0, feedSq := 0, sps := [], setsTaken := false, setsSeen := 0, mpxs := 0, maxW := 0, maxH := 0, src := 0,
    flow := 0, deadline := 0, stall := 50, ctxBase := 0, esBase := 0, esSize := 0, wr := 0, ring := [], total := 0, feeds := [],
    expect := none, gapNext := 0, skipping := false, lastByte := 0, cur := none, prev := none, prevBuf := 0, held := [],
    refBad := true, tainted := false, sweepOk := false, recovOk := false, seenSei := false, lastStart := none, lastSps := none, closing := none,
    lastSei := false, lastArr := false, lastLate := false, conc := false, concCnt := 0, concLast := [] }

def State.ctx (s : State) (c : Nat) : CtxRec := s.dec.ctxs.getD c CtxRec.init
def State.setCtx (s : State) (c : Nat) (r : CtxRec) : State := { s with dec.ctxs := s.dec.ctxs.set c r }
def State.eng (s : State) (e : Nat) : EngRec := s.dec.engs.getD e { busy := none, waiting := false }
def State.setEng (s : State) (e : Nat) (r : EngRec) : State := { s with dec.engs := s.dec.engs.set e r }

/-- A counter register of context c. -/
def ctxReg (base c : Nat) : Nat := base + 0x40 * c

/-- The context is open (R143). -/
def State.ctxOpen (s : State) (c : Nat) : Bool := !((s.ctx c).state == 0)

/-- Open contexts of engine e. -/
def openOn (s : State) (e : Nat) : List (Nat × CtxRec) := s.dec.ctxs.filter (fun p => !(p.2.state == 0) && p.2.engine == e)
/-- The sum of MAX_MPXS over an engine's open contexts (R143). -/
def decLoad (s : State) (e : Nat) : Nat := (openOn s e).foldl (fun a p => a + p.2.mpxs) 0

/-- Change a context's state; a change raises DEC_CTX_STATE (R179). -/
def setCtxState (s : State) (c new : Nat) : State :=
  let r := s.ctx c
  if r.state = new then s
  else (s.setCtx c { r with state := new }).raise 0x0400 (leBytes 1 c ++ leBytes 1 r.state ++ leBytes 1 new ++ leBytes 1 r.engine)

/-- Bytes in a context's ring. -/
def CtxRec.occ (r : CtxRec) : Nat := r.ring.foldl (fun a k => a + k.len) 0

/-- Copy bytes into a context's ring in device memory under its stream core's ID, wrapping at the ring's end (R144).
(DEDUCED: log entry 48.) -/
def ringCopy (s : State) (c : Nat) (b : List Byte) : State :=
  let r := s.ctx c
  let mid := 0x08 + r.engine
  let k := min b.length (r.esSize - r.wr)
  let s : State := s.wr mid (r.esBase + r.wr) (b.take k)
  let s : State := if k < b.length then s.wr mid r.esBase (b.drop k) else s
  s.setCtx c { r with wr := (r.wr + b.length) % r.esSize, total := r.total + b.length, lastByte := s.clk }

/-- The 8 KiB at CTX_BASE hold a context's state as the stream core writes it: bytes that the spec does not state (R143), under its master ID.
(DESIGN CHOICE: log entry 47.) -/
def keepState (s : State) (c : Nat) : State :=
  let r := s.ctx c
  let mid := 0x08 + r.engine
  match firstDenied s mid r.ctxBase 8192 with
  | some (a, l) => s.mpuDeny mid a l true
  | none =>
    if r.ctxBase + 8192 ≤ s.usable then
      let k := s.free
      { s with mem := memFill s.mem r.ctxBase 8192 (fun i => BitVec.ofNat 8 (Config.freeNat (k + i))), free := k + 8192 }
    else s.addrFault mid r.ctxBase

/-- Take n bytes out of a ring: the rest, the reason of a gap inside them, and whether the last byte closes a slice.
(DEDUCED: log entry 48.) -/
def consume : List ChunkRec → Nat → Bool → List ChunkRec × Nat × Bool
  | [], _, _ => ([], 0, true)
  | k :: ks, n, first =>
    if n = 0 then (k :: ks, 0, true)
    else
      let g := if first then 0 else k.gap
      if k.len ≤ n then
        let (r, g2, cl) := consume ks (n - k.len) false
        (r, if g ≠ 0 then g else g2, if n = k.len then k.closes else cl)
      else ({ k with len := k.len - n, gap := 0, starts := false } :: ks, g, true)

/-- The reason a slice of n bytes at the ring's front is cut by a gap (R149, R172 reasons 10 and 11); 0 for none. -/
def sliceGap (r : CtxRec) (n : Nat) : Nat :=
  let (rest, g, closes) := consume r.ring n true
  let headCut := match r.ring with | k :: _ => if r.fabric ∧ k.gap ≠ 0 ∧ !k.starts then k.gap else 0 | [] => 0
  let tailCut := match rest with | k :: _ => if r.fabric ∧ k.gap ≠ 0 ∧ !closes then k.gap else 0 | [] => 0
  if g ≠ 0 then g else if headCut ≠ 0 then headCut else tailCut

/-! ## Sequence parameter sets (R140 to R142, R156, R162) -/

/-- Table: supported profiles: an SPS of this codec (0 AVC, 1 HEVC) has one of them, with a chroma format and depths that it lists. -/
def profileOk (codec : Nat) (q : SpsInfo) : Bool :=
  let depths := fun (ds : List Nat) => ds.contains q.depthY && (q.chroma == 0 || ds.contains q.depthC)
  match codec, q.profile with
  | 0, .avcConstrainedBaseline => q.chroma == 1 && depths [8]
  | 0, .avcMain => q.chroma == 1 && depths [8]
  | 0, .avcHigh => (q.chroma == 0 || q.chroma == 1) && depths [8]
  | 1, .hevcMain => q.chroma == 1 && depths [8]
  | 1, .hevcMain10 => q.chroma == 1 && depths [8, 10]
  | 1, .hevcMain444x10 => depths [8, 10]
  | _, _ => false

/-- The sizes of R142. -/
def spsSizeOk (q : SpsInfo) : Bool :=
  decide (64 ≤ q.width ∧ q.width ≤ 4096) && decide (64 ≤ q.height ∧ q.height ≤ 2304) && decide (q.codedW ≤ 4096 ∧ q.codedH ≤ 2304)

/-- A decoded chroma format fits a pool's FORMAT (Table: decoded storage). -/
def chromaFits (format : Nat) (chroma : Fin 4) : Bool := if format = 0x10 then decide (chroma.val ≤ 1) else decide (2 ≤ chroma.val)

/-- Why a context refuses an SPS (R140 to R142, R156): reason 1 or 2 of Table: decode errors; 0 where it accepts it. -/
def spsRefusal (s : State) (c : Nat) (q : SpsInfo) : Nat :=
  let r := s.ctx c
  if !(profileOk r.codec q) || q.tools.any (fun t => !t.ok) || !(spsSizeOk q) then 1
  else
    match s.surface c with
    | none => 2
    | some f =>
      if q.width > r.maxW ∨ q.height > r.maxH ∨ q.width > f.width ∨ q.height > f.height ∨ q.need + 2 > f.buffers
          ∨ !(chromaFits f.format q.chroma) then 2 else 0

/-- The status of a refusal by its reason (Table: decode errors). -/
def refuseStatus (reason : Nat) : Status :=
  if reason = 1 then .unsupported else if reason = 2 then .noResource else .badDescriptor

/-- A refusal is reported in STR_DEC_CTX_REFUSE and as DEC_REFUSED (R141, R172, R179). -/
def refuseReport (s : State) (c reason nal : Nat) : State :=
  let st := refuseStatus reason
  (s.setReg (ctxReg Reg.STR_DEC_CTX_REFUSE c) (reason * 256 + st.code)).raiseLimited (0x040100 + c) 1000000000 0x0401
    (leBytes 1 c ++ leBytes 1 st.code ++ leBytes 1 reason ++ leBytes 1 nal)

/-- The reason that a parameter set is refused for; 0 for an accepted one (R172). -/
def setReason (s : State) (c : Nat) : ParamSet → Nat
  | .sps _ q _ => spsRefusal s c q
  | .bad _ => 3

/-- The refused parameter sets of some bytes are reported. -/
def reportSets (s : State) (c : Nat) (ps : List ParamSet) : State :=
  ps.foldl (fun s p => if setReason s c p = 0 then s else refuseReport s c (setReason s c p) p.nal) s

/-- The stream core takes a parameter set: one with a value out of range is discarded, a refused SPS puts the context in REFUSED, an
acceptable one takes it out (R141, R172). -/
def takeSet (s : State) (c : Nat) (p : ParamSet) : State :=
  match p with
  | .bad _ => s
  | .sps id q _ =>
    let s : State := s.setCtx c { s.ctx c with sps := (s.ctx c).sps.set id q }
    let st := (s.ctx c).state
    if spsRefusal s c q ≠ 0 then (if st = 4 then s else setCtxState s c 3)
    else if st = 3 then setCtxState s c 2 else s

/-- The parameter sets before a context's next picture are taken, once; those of fabric input are reported now, those of host input were with
their feed, which took some of them too (R141). -/
def takeParams (s : State) (c : Nat) (ps : List ParamSet) : State :=
  let r := s.ctx c
  if r.setsTaken then s
  else
    let s : State := s.setCtx c { r with setsTaken := true, setsSeen := 0 }
    let s : State := if r.fabric then reportSets s c ps else s
    (ps.drop r.setsSeen).foldl (fun s p => takeSet s c p) s

/-- The parameter sets of a feed behind which no picture stands are taken with it (R141). -/
def takeLead (s : State) (c : Nat) (ps : List ParamSet) : State :=
  ps.foldl (fun s p => takeSet s c p) (s.setCtx c { s.ctx c with setsSeen := (s.ctx c).setsSeen + ps.length })

/-! ## Feeds (R146, R147, R175) -/

/-- Copy the waiting feeds that fit, whole and in order; each completes once its bytes are in the ring (R146, R141). -/
def pumpFeeds : Nat → State → Nat → State
  | 0, s, _ => s
  | n + 1, s, c =>
    let r := s.ctx c
    match r.feeds with
    | [] => s
    | f :: fs =>
      if f.here ∧ r.occ + f.buf.length ≤ r.esSize then
        let ep := f.job.n 40 8
        let k : ChunkRec :=
          { len := f.buf.length, gap := if bit (f.job.n 17 1) 0 then 10 else 0, epoch := if ep = 0 then f.arrived else ep,
            arrival := ep == 0, used := false, at_ := s.ft.toNat, starts := true, closes := true,
            ends := bit (f.job.n 17 1) 1, bare := !f.sets.slices }
        let s : State := ringCopy (s.setCtx c { r with feeds := fs }) c f.buf
        let s : State := s.setCtx c { (s.ctx c) with ring := (s.ctx c).ring ++ [k] }
        let s : State := reportSets s c f.sets.all
        let s : State := if r.cur.isNone && r.ring.all (·.bare) then takeLead s c f.sets.lead else s
        let s : State := s.finish f.job (if f.sets.all.any (fun p => setReason s c p == 1) then .unsupported else .done) 0 0
        pumpFeeds n s c
      else s

/-- One block of a host read: a block that the MPU denies the master reads as zeros (R333, R336). -/
def hostReadBlock (mid addr : Nat) (b : List Byte) (p : List Byte × State) (q : Nat × Nat) : List Byte × State :=
  if mpuOk p.2 mid (p.2.hostInternal (addr + q.1)) q.2 then (p.1 ++ (b.drop q.1).take q.2, p.2)
  else (p.1 ++ List.replicate q.2 0, p.2.mpuDeny mid (p.2.hostInternal (addr + q.1)) q.2 false)

/-- Read host memory under a stream core's ID, block by block: denied blocks give zeros (R336). -/
def hostReadUnder (s : State) (mid addr : Nat) (b : List Byte) : List Byte × State :=
  (blocksOf (b.length + 1) addr 0 b.length).foldl (hostReadBlock mid addr b) ([], s)

/-- The functions a command for context c needs (R139, R263). -/
def ctxReady (s : State) (c : Nat) : Bool := s.isReady 2 && (!(s.ctxOpen c) || s.isReady (4 + (s.ctx c).engine))

/-- The checks of Feed (R175, R146, R333). -/
def feedSpec (s : State) (j : Job) : CmdSpec :=
  let c := j.n 16 1
  let r := s.ctx c
  let len := j.n 32 4
  let addr := j.n 24 8
  let mine := match j.org with | .ring f q => decide (f = r.feedPf ∧ q = r.feedSq) | .mirror _ _ _ => false
  { pf0 := false, ready := ctxReady s c,
    body := j.onlyBits 17 1 3 && j.zero [(18, 6), (36, 4), (48, 16)],
    own := [chk (decide (len < 1) || (s.ctxOpen c && decide (len > r.esSize))) .badDescriptor, chkAperture s addr len,
            chk (!(s.ctxOpen c) || r.fabric || decide (r.state = 4)) .badDescriptor, chk (!mine) .badDescriptor] }

/-- The first feed of a command that waits for its bytes gets them. -/
def giveBytes (j : Job) (b : List Byte) : List FeedRec → List FeedRec
  | [] => []
  | f :: fs => if f.job == j && !f.here then { f with buf := b, here := true } :: fs else f :: giveBytes j b fs

/-- The bytes of a feed are here (R146): read under the stream core's ID, they go into the ring as there is room. -/
def feedHere (s : State) (j : Job) (buf : List Byte) : State :=
  let c := j.n 16 1
  let (b, s) := hostReadUnder s (0x08 + (s.ctx c).engine) (j.n 24 8) (slice buf 0 (j.n 32 4))
  let fs := giveBytes j b (s.ctx c).feeds
  pumpFeeds (fs.length + 1) (s.setCtx c { s.ctx c with feeds := fs }) c

/-- STREAM_FEED (R175, R146, R333). (DEDUCED: log entry 48.) -/
def doFeed (s : State) (j : Job) (buf : List Byte) (sets : FeedSets) : State :=
  let c := j.n 16 1
  let r := s.ctx c
  let len := j.n 32 4
  let addr := j.n 24 8
  runJob s j (feedSpec s j) (fun s =>
    let f : FeedRec := { job := j, buf := [], here := false, sets := sets, arrived := s.ft.toNat }
    let s : State := s.setCtx c { r with feeds := r.feeds ++ [f] }
    s.hostFetch j [(addr, len)] buf (fun s b => feedHere s j b))

/-! ## The demultiplexer (R148, R149, R150) -/

/-- The part of a ring before its last slice start. -/
def beforeLastStart (ks : List ChunkRec) : List ChunkRec :=
  let n := (ks.reverse.takeWhile (fun k => !k.starts)).length + 1
  if ks.any (·.starts) then ks.take (ks.length - n) else ks

/-- PIC_END of a packet whose bytes are left out: what the ring holds last ends its picture (R152). -/
def markEnd : List ChunkRec → List ChunkRec
  | [] => []
  | [k] => [{ k with ends := true }]
  | k :: ks => k :: markEnd ks

/-- STREAM_DEMUX (R148, R149): match by SRC and FLOW, judge the SEQ, and copy the NAL bytes. (DEDUCED: log entry 48.) -/
def doDemux (s : State) (p : Packet) : State :=
  let s : State := takeLocal s (fun q => q.cls == clsSTREAM && q == p)
  match s.dec.ctxs.find? (fun e => !(e.2.state == 0) && e.2.fabric && e.2.src == p.src && e.2.flow == p.flow) with
  | none => s.bump Reg.STR_DEMUX_UNMATCHED
  | some (c, r) =>
    let ahead := match r.expect with | some e => (p.seq + 65536 - e) % 65536 | none => 0
    let restart := p.restart && decide (ahead ≠ 0)
    if !restart ∧ ahead ≥ 32769 then s.bump Reg.STR_DEMUX_STALE
    else
      let s : State := if restart ∨ ahead = 0 then s else s.bumpBy (ctxReg Reg.STR_DEC_CTX_SEQGAP c) ahead
      let gap := if ahead ≠ 0 then 10 else r.gapNext
      let fl := fieldAt p.data 2 1
      let sliceStart := bit fl 0
      let r := { r with expect := some ((p.seq + 1) % 65536), gapNext := gap, skipping := r.skipping && !sliceStart }
      let b := slice p.data 4 (min 508 (fieldAt p.data 0 2))
      let ended := fun (ks : List ChunkRec) => if bit fl 3 then markEnd ks else ks
      if r.skipping then s.setCtx c { r with ring := ended r.ring }
      else if r.occ + b.length ≤ r.esSize then
        let k : ChunkRec :=
          { len := b.length, gap := gap, epoch := s.ft.toNat, arrival := true, used := false, at_ := s.ft.toNat,
            starts := sliceStart, closes := bit fl 1, ends := bit fl 3, bare := false }
        let s : State := ringCopy (s.setCtx c { r with gapNext := 0 }) c b
        s.setCtx c { (s.ctx c) with ring := (s.ctx c).ring ++ [k] }
      else
        let open_ := match r.ring.getLast? with | some k => !k.closes && !sliceStart | none => false
        let kept := if open_ then beforeLastStart r.ring else r.ring
        let gone := r.occ - { r with ring := kept }.occ
        let s : State := s.setCtx c { r with
          ring := ended kept, wr := (r.wr + r.esSize - gone % r.esSize) % r.esSize, gapNext := 11, skipping := true }
        s.bump (ctxReg Reg.STR_DEC_CTX_ESDROP c)

/-! ## Faults and concealment (R168 to R172, R179) -/

/-- DEC_FAULT and its capture (R169, R179). -/
def decFault (s : State) (e c kind pic : Nat) : State :=
  let s : State :=
    if bit (s.cnt Reg.STR_DEC_FAULT_CAP0) 31 then s
    else (s.setReg Reg.STR_DEC_FAULT_CAP0 (2 ^ 31 + e * 2 ^ 16 + c * 256 + kind)).setReg Reg.STR_DEC_FAULT_CAP1 pic
  s.raiseLimited (0x040500 + e) 1000000000 0x0405 (leBytes 1 e ++ leBytes 1 c ++ leBytes 1 kind ++ leBytes 4 pic)

/-- DEC_CONCEAL: at once for the first occurrence, then coalesced over 100 ms (R179). (DEDUCED: log entry 49.) -/
def decConceal (s : State) (c reason first bands pic : Nat) : State :=
  let r := s.ctx c
  let d := leBytes 1 c ++ leBytes 1 reason ++ leBytes 1 first ++ leBytes 1 bands ++ leBytes 4 pic
  if r.conc then s.setCtx c { r with concCnt := r.concCnt + 1, concLast := d }
  else (s.setCtx c { r with conc := true, concCnt := 0, concLast := [] }).raise 0x0402 (d ++ leBytes 4 1)

/-- DEC_CONCEAL_WINDOW_END (R179). (DESIGN CHOICE: log entry 4; DEDUCED: log entry 49.) -/
def doConcealEnd (s : State) (c : Nat) : State :=
  let r := s.ctx c
  let s' : State := s.setCtx c { r with conc := false, concCnt := 0, concLast := [] }
  if r.conc ∧ r.concCnt ≠ 0 then s'.raise 0x0402 (r.concLast ++ leBytes 4 r.concCnt) else s'

/-- DEC_STALL, at most once per second per context (R179). -/
def decStall (s : State) (c cause pic : Nat) : State :=
  s.raiseLimited (0x040600 + c) 1000000000 0x0406 (leBytes 1 c ++ leBytes 1 cause ++ leBytes 4 pic)

/-- The PIC a context's picture carries or will carry. -/
def ctxPic (s : State) (c : Nat) : Nat :=
  match (s.ctx c).cur with
  | some p => if p.inOrder ∧ p.output then (s.pub c).pic else ((s.pub c).pic + 1) % 2 ^ 32
  | none => ((s.pub c).pic + 1) % 2 ^ 32

/-- DEC_FAULT of kind 2 where an engine's access was denied (R169). -/
def unlessAllowed (s : State) (ok : Bool) (c : Nat) : State :=
  if ok then s else decFault s (s.ctx c).engine c 2 (ctxPic s c)

/-- Copy stored rows between two buffers, or fill them with the substitute 0x8000 (R170, R171); the flag says that no access was denied. -/
def copyRows (s : State) (mid : Nat) (f : SurfRec) (width dst : Nat) (src : Option Nat) (first n : Nat) : State × Bool :=
  (planesOf f.format width f.height f.pitch).foldl (fun t p =>
    let (r0, k) := planeRows p.2.2.2 first n
    (List.range k).foldl (fun t i =>
      let off := p.1 + (r0 + i) * f.pitch
      match src with
      | some b =>
        let (x, s, ok) := t.1.memRd mid (f.buffer b + off) p.2.2.1
        let (s, ok') := s.memWr mid (f.buffer dst + off) x
        (s, t.2 && ok && ok')
      | none =>
        let (s, ok) := t.1.memWr mid (f.buffer dst + off) ((List.range (p.2.2.1 / 2)).flatMap (fun _ => leBytes 2 0x8000))
        (s, t.2 && ok)) t) (s, true)

/-- Conceal stored rows [first, first + n) of a context's picture from its previous picture in decoding order (R170, R9). -/
def concealRows (s : State) (c first n reason : Nat) : State :=
  let r := s.ctx c
  match r.cur, s.surface c with
  | some p, some f =>
    if n = 0 then s
    else
      let mid := 0x10 + r.engine
      let (s, ok) := copyRows s mid f p.width p.buf (r.prev.map (fun _ => r.prevBuf)) first n
      let s : State := unlessAllowed s ok c
      let fl := if r.prev.isNone then 3 else 1
      let b : BandRec := { first := first, rows := n, flags := fl, epoch := oldestOver r.prev first n, sig := 0 }
      let p := { p with slices := p.slices ++ [b], aborted := true, subst := p.subst || r.prev.isNone }
      let s : State := s.setCtx c { s.ctx c with cur := some p }
      decConceal s c reason p.bands.length 1 (ctxPic s c)
  | _, _ => s

/-! ## Reduced output (R164) -/

/-- A 16-bit sample of a plane of a buffer. -/
def sample (s : State) (at_ i : Nat) : Nat := leNat (memRead s.mem (at_ + 2 * i) 2)

/-- One row of reduced samples of a plane: comps interleaved components, w by h elements at an address and pitch. -/
def reducedRow (s : State) (at_ pitch w h comps f r : Nat) : List Byte :=
  (List.range (comps * ((w + f - 1) / f))).flatMap (fun i =>
    let x := i / comps
    let k := i % comps
    let sum := (List.range (f * f)).foldl (fun a q =>
      let sx := min (x * f + q % f) (w - 1)
      let sy := min (r * f + q / f) (h - 1)
      a + sample s (at_ + sy * pitch) (sx * comps + k)) 0
    leBytes 2 ((sum + f * f / 2) / (f * f)))

/-- Complete rows of a plane when the first done rows of the picture are complete. -/
def planeDone (chroma : Bool) (h done : Nat) : Nat := if !chroma then done else if done = h then (h + 1) / 2 else done / 2

/-- Write the reduced rows whose blocks became complete with the picture's rows [was, done) (R164); the flag says that no write was denied. -/
def reduceRows (s : State) (mid : Nat) (f : SurfRec) (buf w h was done : Nat) : State × Bool :=
  if f.reduce = 0 then (s, true)
  else
    let k := 2 ^ f.reduce
    let src := f.buffer buf
    let dst := src + f.roff
    let (rw, rh) := f.rsize
    let full := planesOf f.format w f.height f.pitch
    let red := planesOf f.format rw rh f.rpitch
    (full.zip red).foldl (fun t (p, q) =>
      let chroma := p.2.2.2
      let pw := if chroma then (w + 1) / 2 else w
      let ph := if chroma then (h + 1) / 2 else h
      let comps := if chroma then 2 else 1
      let upTo := fun d => let x := planeDone chroma h d; if x = ph then (ph + k - 1) / k else x / k
      (List.range (upTo done - upTo was)).foldl (fun t i =>
        let r := upTo was + i
        let (s, ok) := t.1.memWr mid (dst + q.1 + r * f.rpitch) (reducedRow t.1 (src + p.1) f.pitch pw ph comps k r)
        (s, t.2 && ok)) t) (s, true)

/-! ## Publication (R160, R162, R173) -/

/-- The flags of a decoded picture's record (Table: picture record). -/
def DecPic.flags (p : DecPic) (clean : Bool) : Nat :=
  b2n p.aborted + 2 * b2n p.subst + 4 * b2n clean + 8 * b2n p.sei.isSome + 16 * b2n p.arrival
    + 32 * b2n (match p.sei with | some x => bit x.flags.toNat 6 | none => false)
    + 64 * b2n ((p.bands ++ p.slices).any (fun b => bit b.flags 2))

/-- ORIGIN, SEI_SOURCE and SEI_PIC_COUNT of a picture's record. -/
def DecPic.origin (s : State) (p : DecPic) : Nat × Nat × Nat :=
  match p.sei with | some x => (x.origin.toNat % 1024, x.source.toNat, x.picCount.toNat) | none => (s.addr, 0xFFFF, 0)

/-- The engine may write the fence page and the page of a buffer: what it writes of the band block (R159, R169). -/
def blockAllowed (s : State) (mid : Nat) (f : SurfRec) (buf : Nat) : Bool :=
  mpuOk s mid f.block 64 && mpuOk s mid (bufPage f buf) 64

/-- Start publishing a decoded picture (R159 step 1). -/
def pubStart (s : State) (c : Nat) (f : SurfRec) (p : DecPic) : State :=
  let (o, src, n) := DecPic.origin s p
  let mid := 0x10 + (s.ctx c).engine
  unlessAllowed (startPicture s mid c f p.buf p.width p.height (DecPic.flags p false) p.epoch o src n).2 (blockAllowed s mid f p.buf) c

/-- The band over rows [first, first + n) from the slices that supplied them (R160). -/
def bandOver (ss : List BandRec) (first n sig : Nat) : BandRec :=
  let hit := ss.filter (fun b => decide (b.first < first + n) && decide (first < b.first + b.rows))
  let any := fun k => hit.any (fun b => bit b.flags k)
  let all := !hit.isEmpty && hit.all (fun b => bit b.flags 4)
  { first := first, rows := n,
    flags := b2n (any 0) + 2 * b2n (any 1) + 4 * b2n (any 2) + 8 * b2n (all && any 3) + 16 * b2n all,
    epoch := match hit with | [] => 0 | b :: bs => bs.foldl (fun m b => min m b.epoch) b.epoch, sig := sig }

/-- The condition of Table: clean picture conditions that a finished picture meets, by its kind (R173). -/
def cleanKind (r : CtxRec) (p : DecPic) : Option Nat :=
  let sweepEnd : Bool := match p.sei with | some x => bit x.flags.toNat 4 && bit x.flags.toNat 5 | none => false
  if p.irap ∧ !p.aborted then some 0
  else if sweepEnd ∧ r.sweepOk then some 1
  else if p.recovery ∧ r.recovOk then some 2
  else none

/-- The trackers of sweeps and recovery points after a picture in decoding order (R173). -/
def trackClean (r : CtxRec) (p : DecPic) : CtxRec :=
  let idx0 : Bool := match p.sei with | some x => x.refreshIdx == 0 | none => false
  let good := !p.aborted && !p.subst
  { r with sweepOk := if idx0 then !p.aborted else r.sweepOk && good,
           recovOk := if p.recovStart then !p.aborted else r.recovOk && good }

/-- A picture's last band is being published: its CLEAN bit, the taint, and DEC_CLEAN (R173). -/
def judgeClean (s : State) (c : Nat) (p : DecPic) (kind : Option Nat) : Bool × State :=
  let r := s.ctx c
  let bad := p.aborted || p.subst
  let clean := !bad && (!r.tainted || kind.isSome)
  let s : State :=
    if clean ∧ r.tainted then
      (s.bump (ctxReg Reg.STR_DEC_CTX_CLEAN c)).raise 0x0403
        (leBytes 1 c ++ leBytes 1 (kind.getD 0) ++ leBytes 4 (s.pub c).pic)
    else s
  (clean, s.setCtx c { (s.ctx c) with tainted := bad || (r.tainted && !clean) })

/-- A picture has been completely published: counted, and judged late (R153). -/
def pubDone (s : State) (c : Nat) (p : DecPic) : State :=
  let s : State := s.bump (ctxReg Reg.STR_DEC_CTX_DECODED c)
  let late := decide (s.ft.toNat > p.deadline)
  let s : State := s.setCtx c { (s.ctx c) with lastSei := p.sei.isSome, lastArr := p.arrival, lastLate := late }
  if late then
    (s.bump (ctxReg Reg.STR_DEC_CTX_LATE c)).raiseLimited (0x040400 + c) 1000000000 0x0404
      (leBytes 1 c ++ leBytes 4 (s.pub c).pic ++ leBytes 4 ((s.ft.toNat - p.deadline) / 1000))
  else s

/-- Publish or keep the rows complete so far: at least 16 of them, or all that is left of the picture (R160, R162). -/
def publishRows (s : State) (c done : Nat) : State :=
  let r := s.ctx c
  match r.cur, s.surface c with
  | some p, some f =>
    if done ≤ p.published ∨ (done < p.published + 16 ∧ done < p.height) then s.setCtx c { r with cur := some { p with done := done } }
    else
      let mid := 0x10 + r.engine
      let n := done - p.published
      let (s, ok) := reduceRows s mid f p.buf p.width p.height p.published done
      let s : State := unlessAllowed s ok c
      let b := bandOver p.slices p.published n (bandSig s f p.buf p.width p.published n)
      let q := { p with bands := p.bands ++ [b], published := done, done := done,
                        slices := p.slices.filter (fun x => decide (done < x.first + x.rows)) }
      let s : State := s.setCtx c { (s.ctx c) with cur := some q }
      if p.inOrder ∧ p.output then
        let s : State := if b.flags % 4 ≠ 0 then s.setCtx c { (s.ctx c) with tainted := true } else s
        let (clean, s) := if done = p.height then judgeClean s c q (cleanKind (trackClean (s.ctx c) q) q) else (false, s)
        unlessAllowed (publishBand s mid c f b (DecPic.flags q clean) p.rowNs clean p.remote p.arrival) (blockAllowed s mid f p.buf) c
      else s
  | _, _ => s

/-- The output process releases a held picture: all its band entries, and FENCE moves from 0 to HEIGHT in one write (R162). -/
def releaseHeld (s : State) (c : Nat) (h : HeldPic) : State :=
  match s.surface c with
  | none => s
  | some f =>
    let mid := 0x10 + (s.ctx c).engine
    let s : State := s.setCtx c { (s.ctx c) with held := (s.ctx c).held.erase h }
    let s : State := pubStart s c f h.pic
    let (clean, s) := judgeClean s c h.pic h.kind
    let prev := (newestFull s c).map (·.2)
    let pub := s.pub c
    let page := bufPage f h.pic.buf
    let s : State := (h.pic.bands.zip (List.range h.pic.bands.length)).foldl
      (fun s (b, k) => s.wr mid (page + 64 + 24 * k) (bandBytes b)) s
    let fl := DecPic.flags h.pic clean
    let s : State := s.wr mid (page + 9) (leBytes 1 h.pic.bands.length ++ leBytes 2 (fl + 128 * b2n (f.reduce ≠ 0)))
    let s : State := s.wr mid (f.block + 16) (leBytes 8 s.ft.toNat ++ leBytes 4 h.pic.rowNs)
    let s : State := unlessAllowed (s.wr mid f.block (fenceWord pub.pic h.pic.buf h.pic.height)) (blockAllowed s mid f h.pic.buf) c
    let s : State := h.pic.bands.foldl
      (fun s b => tableBand s c b fl (b.first + b.rows) (bandChange prev b) clean h.pic.remote h.pic.arrival) s
    pubDone s c h.pic

/-- Release the held pictures in the listed buffers, in that order (R162). -/
def releaseList (s : State) (c : Nat) (bs : List Nat) : State :=
  bs.foldl (fun s b => match (s.ctx c).held.find? (fun h => h.pic.buf == b) with | some h => releaseHeld s c h | none => s) s

/-- Release every held picture in output order: each started picture is completely published (R163). (DEDUCED: log entry 50.) -/
def releaseAll (s : State) (c : Nat) : State :=
  let hs := (s.ctx c).held
  let order := (List.range hs.length).filterMap (fun i => (hs.mergeSort (fun a b => decide (a.pic.poc ≤ b.pic.poc)))[i]?)
  order.foldl (fun s h => releaseHeld s c h) s

/-- A context's ring, feeds and picture are done: the drained close completes (R177). (DEDUCED: log entry 50.) -/
def settleClose (s : State) (c : Nat) : State :=
  let r := s.ctx c
  match r.closing with
  | some j =>
    if r.cur.isNone ∧ r.ring.isEmpty ∧ r.feeds.isEmpty then
      let s : State := releaseAll s c
      let s : State := setCtxState s c 0
      (s.setCtx c { (s.ctx c) with closing := none }).finish j .done 0 0
    else s
  | none => s

/-- The picture in progress of a context is finished (R154, R163, R173): published, or held for output; the engine is idle. -/
def finishPicture (s : State) (c : Nat) (release : List Nat) : State :=
  match (s.ctx c).cur with
  | none => s
  | some p0 =>
    let s : State := publishRows s c p0.height
    match (s.ctx c).cur with
    | none => s
    | some p =>
      let kind := cleanKind (trackClean (s.ctx c) p) p
      let r := trackClean (s.ctx c) p
      let rec_ : PicRec := { pic := (s.pub c).pic, height := p.height, flags := 0, epoch := p.epoch, origin := 0, bands := p.bands }
      let s : State := s.setCtx c { r with
        cur := none, prev := some rec_, prevBuf := p.buf, refBad := false, seenSei := r.seenSei || p.sei.isSome,
        held := if p.output ∧ !p.inOrder then r.held ++ [{ pic := p, kind := kind }] else r.held }
      let s : State := if p.sei.isNone ∧ r.seenSei then s.bump (ctxReg Reg.STR_DEC_CTX_NOSEI c) else s
      let s : State := s.setEng r.engine { busy := none, waiting := false }
      let s : State := if p.inOrder ∧ p.output then pubDone s c p else s
      let s : State := releaseList s c release
      settleClose (pumpFeeds ((s.ctx c).feeds.length + 1) s c) c

/-- Conceal everything a picture still lacks, from its first row that is not complete in every column, and finish it (R163, R170). -/
def concealRest (s : State) (c reason : Nat) (release : List Nat) : State :=
  match (s.ctx c).cur with
  | none => s
  | some p => finishPicture (concealRows s c p.done (p.height - p.done) reason) c release

/-! ## Picture start (R141, R142, R152 to R154, R157) -/

/-- The SPS that a picture refers to, where the context has one. A picture whose PPS or SPS is missing, after usable ones, is taken under the SPS
of the picture before it: its slices are aborted one by one (R172 reason 5). (DEDUCED: log entry 152.) -/
def picSps (s : State) (c : Nat) (pic : PicInfo) : Option SpsInfo :=
  match pic.sps.bind (fun id => (s.ctx c).sps.get? id) with
  | some q => some q
  | none => (s.ctx c).lastSps

/-- A picture of an accepted SPS whose slices use a refused tool (R140). (DEDUCED: log entry 152.) -/
def toolRefused (s : State) (c : Nat) (pic : PicInfo) : Bool :=
  match picSps s c pic with
  | some q => spsRefusal s c q == 0 && !((s.ctx c).state == 3) && pic.tools.any (fun t => !t.ok)
  | none => false

/-- Why a context does not start a picture (R141, R142, R172): reason 4 without a usable SPS and PPS, the reason its SPS is refused for, 1
in REFUSED, which it leaves only with an acceptable SPS, and for a refused tool of its slices; 0 where it may start.
(DEDUCED: log entry 152.) -/
def picRefusal (s : State) (c : Nat) (pic : PicInfo) : Nat :=
  match picSps s c pic with
  | none => 4
  | some q =>
    let k := spsRefusal s c q
    if k ≠ 0 then k else if (s.ctx c).state = 3 ∨ toolRefused s c pic then 1 else 0

/-- A picture is not started (R141, R172): its bytes leave the ring, and it is counted. The refusal of its SPS has been reported; that of its
slices' tools is now, with the NAL unit type. -/
def decRefuse (s : State) (c reason : Nat) (nal : Option Nat) (bytes : Nat) : State :=
  let r := s.ctx c
  let s : State := s.setCtx c { r with ring := (consume r.ring bytes true).1, setsTaken := false, setsSeen := 0 }
  let s : State := s.bump (ctxReg Reg.STR_DEC_CTX_SKIPPED c)
  let s : State := if reason = 4 ∨ r.state = 4 then s else setCtxState s c 3
  let s : State := match nal with | some x => refuseReport s c reason x | none => s
  settleClose (pumpFeeds ((s.ctx c).feeds.length + 1) s c) c

/-- The picture's bytes end where a packet or feed says that a picture ends (R152). -/
def endsAt : List ChunkRec → Nat → Bool
  | [], _ => false
  | k :: ks, n => if n ≤ k.len then decide (n = k.len) && k.ends else endsAt ks (n - k.len)

/-- The data of a context's next picture is ready (R152): with EARLY its first slice is in the ring; otherwise all of it, which the next
picture's first slice, a feed with END_OF_PIC or a packet with PIC_END shows. -/
def dataReady (r : CtxRec) (pic : PicInfo) : Bool :=
  decide (pic.bytes ≤ r.occ) && decide (0 < r.occ) &&
    (r.early || decide (r.state = 4) || (match pic.next with | some n => decide (0 < n ∧ pic.bytes + n ≤ r.occ) | none => false)
      || endsAt r.ring pic.bytes)

/-- Enough time has passed since the context's previous picture started (R152). -/
def rateReady (s : State) (r : CtxRec) (q : SpsInfo) : Bool :=
  match r.lastStart with
  | none => true
  | some t => decide (q.width * q.height * 1000 ≤ (s.ft.toNat - t) * r.mpxs)

/-- The buffer a picture would take (R157). -/
def decBuffer (s : State) (c : Nat) (pic : PicInfo) : Option Nat :=
  match s.surface c with
  | none => none
  | some f => freeBuffer s c f (pic.keepBufs ++ (s.ctx c).held.map (fun h => h.pic.buf))

/-- A picture's deadline (R153). -/
def deadlineOf (r : CtxRec) (q : SpsInfo) : Nat :=
  let us := if r.deadline = 0 then q.width * q.height / max 1 r.mpxs else r.deadline
  (match r.ring with | k :: _ => k.at_ | [] => 0) + us * 1000

/-- Pictures of this SPS come out in decoding order, so that they are published band by band (R162). -/
def inOrderOf (codec : Nat) (q : SpsInfo) : Bool :=
  q.reorder == some 0 || (codec == 0 && q.profile == .avcConstrainedBaseline)

/-- Start a context's picture on its engine (R147, R150, R151, R154, R159). (DESIGN CHOICE: log entry 47.) -/
def startDecode (s : State) (e c : Nat) (pic : PicInfo) (q : SpsInfo) : State :=
  match decBuffer s c pic, s.surface c with
  | some b, some f =>
    let r := s.ctx c
    let k := r.ring.headD { len := 0, gap := 0, epoch := s.ft.toNat, arrival := true, used := false, at_ := s.ft.toNat, starts := true,
                            closes := true, ends := false, bare := false }
    let sei := pic.sei.filter (·.ok)
    let (epoch, arrival, remote) := match sei with
      | some x => (x.picEpoch.toNat, false, !(x.origin.toNat % 1024 == s.addr))
      | none => (k.epoch, k.arrival, !k.arrival)
    let p : DecPic :=
      { buf := b, width := q.width, height := q.height, sps := q, lastAddr := none, inOrder := inOrderOf r.codec q,
        output := pic.output, poc := pic.poc,
        irap := pic.irap, recovery := pic.recovery, recovStart := pic.recovStart, sei := sei, epoch := epoch, arrival := arrival,
        remote := remote, startAt := s.ft.toNat, deadline := deadlineOf r q, published := 0, done := 0, nextRow := 0,
        slices := [], bands := [], aborted := false, subst := false, noted := false, rowNs := 0 }
    let s : State :=
      if sei.isNone ∧ !k.arrival ∧ k.used then s.bump (ctxReg Reg.STR_DEC_CTX_SHARED c) else s
    let ring := match r.ring with | k :: ks => { k with used := true } :: ks | [] => []
    let s : State := s.setCtx c { r with cur := some p, ring := ring, lastStart := some s.ft.toNat, setsTaken := false, setsSeen := 0, lastSps := some q }
    let s : State := if r.state = 4 then s else setCtxState s c 2
    let s : State := s.setEng e { busy := some c, waiting := false }
    let s : State := keepState s c
    if p.inOrder ∧ p.output then pubStart s c f p else s
  | _, _ => s

/-- The parameter sets before a context's next picture are taken; a picture that it refuses is not started; before another, the output process
releases what it lists (R141, R162, R172). -/
def lookAhead (s : State) (p : Nat × PicInfo) : State :=
  let s : State := takeParams s p.1 p.2.sets
  let k := picRefusal s p.1 p.2
  if k ≠ 0 then decRefuse s p.1 k (if toolRefused s p.1 p.2 then some p.2.nalType.toNat else none) p.2.bytes
  else releaseList s p.1 p.2.release

/-- The pictures that are ready but for a buffer (R152). -/
def readyPics (s : State) (ps : List (Nat × PicInfo)) : List (Nat × PicInfo × SpsInfo) :=
  ps.filterMap (fun p =>
    match picSps s p.1 p.2 with
    | some q =>
      if picRefusal s p.1 p.2 = 0 ∧ dataReady (s.ctx p.1) p.2 ∧ rateReady s (s.ctx p.1) q then some (p.1, p.2, q) else none
    | none => none)

/-- The picture with the earliest deadline, on equal deadlines of the lowest context (R154). -/
def earliest (s : State) (ps : List (Nat × PicInfo × SpsInfo)) : Option (Nat × PicInfo × SpsInfo) :=
  ps.foldl (fun m p =>
    match m with
    | none => some p
    | some q =>
      let dp := deadlineOf (s.ctx p.1) p.2.2
      let dq := deadlineOf (s.ctx q.1) q.2.2
      if dp < dq ∨ (dp = dq ∧ p.1 < q.1) then some p else m) none

/-- PICTURE_START (R152 to R154, R157): refusals first; an idle engine then starts the eligible picture with the earliest
deadline, on equal deadlines of the lowest context. A ready picture without a buffer raises DEC_STALL. -/
def doPictureStart (s : State) (e : Nat) (ready : List (Nat × PicInfo)) : State :=
  let mine := ready.filter (fun p => s.ctxOpen p.1 && (s.ctx p.1).engine == e && (s.ctx p.1).cur.isNone)
  let s : State := mine.foldl lookAhead s
  let ok := readyPics s mine
  let s : State := ok.foldl (fun s p => if (decBuffer s p.1 p.2.1).isNone then decStall s p.1 0 (ctxPic s p.1) else s) s
  if (s.eng e).busy.isSome ∨ !(s.isReady (4 + e)) then s
  else
    match earliest s (ok.filter (fun p => (decBuffer s p.1 p.2.1).isSome)) with
    | some (c, pic, q) => startDecode s e c pic q
    | none => s

/-! ## Slices (R151, R160, R168 to R172) -/

/-- A decoded sample in its container (R156): MSB-aligned in 16 bits. -/
def sampleBytes (depth v : Nat) : List Byte := leBytes 2 (v * 2 ^ (16 - depth))

/-- The size of a component's grid in a picture whose luma is w by h. -/
def gridOf (p : DecPic) (comp : Fin 3) (w h : Nat) : Nat × Nat :=
  if comp = 0 then (w, h) else (if p.sps.chroma = 3 then w else (w + 1) / 2, if p.sps.chroma = 1 then (h + 1) / 2 else h)

/-- The part of a run of samples that lies in the cropped picture (R156). -/
def cropRun (p : DecPic) (r : PxRun) : PxRun :=
  let (w, h) := gridOf p r.comp p.width p.height
  if r.y < 0 ∨ (h : Int) ≤ r.y then { r with v := [] }
  else
    let x := max 0 r.x
    { r with x := x, v := (r.v.drop (x - r.x).toNat).take ((w : Int) - x).toNat }

/-- Where a run of samples would go in its buffer, and its bytes (Table: decoded storage). -/
def runWrites (f : SurfRec) (p : DecPic) (r : PxRun) : List (Int × List Byte) :=
  let luma : Int := f.pitch * f.height
  let b := r.v.map (sampleBytes (if r.comp = 0 then p.sps.depthY else p.sps.depthC))
  if r.comp = 0 then [(r.y * f.pitch + 2 * r.x, b.flatten)]
  else if f.format = 0x10 then
    (b.zip (List.range b.length)).map (fun (w, i) => (luma + r.y * f.pitch + 4 * (r.x + i) + 2 * (r.comp.val - 1), w))
  else
    let at_ : Int := luma * r.comp.val + r.y * f.pitch
    if p.sps.chroma = 2 then
      [(at_ + 4 * r.x, (b.flatMap (fun w => w ++ w)).take (2 * ((p.width : Int) - 2 * r.x).toNat))]
    else [(at_ + 2 * r.x, b.flatten)]

/-- The chroma of a 4:0:0 picture's rows (Table: decoded storage). -/
def greyChroma (f : SurfRec) (p : DecPic) (first n : Nat) : List (Int × List Byte) :=
  if p.sps.chroma ≠ 0 then []
  else
    let (r0, k) := planeRows true first n
    (List.range k).map (fun i =>
      (((f.pitch * (f.height + r0 + i) : Nat) : Int), (List.range (2 * ((p.width + 1) / 2))).flatMap (fun _ => leBytes 2 0x8000)))

/-- What a slice's decoding writes into its buffer (R156): of its samples those of the cropped picture. -/
def sliceWrites (f : SurfRec) (p : DecPic) (sl : SliceInfo) (first n : Nat) : List (Int × List Byte) :=
  (sl.px.map (cropRun p)).flatMap (runWrites f p) ++ greyChroma f p first n

/-- A run beyond the coded picture whose write would leave the buffer's extent: the clamp drops it (R168, R172 reason 8). -/
def strays (f : SurfRec) (p : DecPic) (r : PxRun) : Bool :=
  let (w, h) := gridOf p r.comp p.width p.height
  let (cw, ch) := gridOf p r.comp p.sps.codedW p.sps.codedH
  let coded := decide ((w : Int) - cw ≤ r.x) && decide (r.x + r.v.length ≤ cw) && decide ((h : Int) - ch ≤ r.y) && decide (r.y < ch)
  !coded && (runWrites f p r).any (fun x => decide (x.1 < 0) || decide (x.1 + x.2.length > f.stride))

/-- The accesses of a slice's decoding: master, address, length, write (R145, R168): its bytes in the ring, the context's state under
both its stream core's ID and the engine's, the references, and the buffer. -/
def sliceAccesses (r : CtxRec) (f : SurfRec) (p : DecPic) (sl : SliceInfo) (ws : List (Int × List Byte)) :
    List (Nat × Nat × Nat × Bool) :=
  let mid := 0x10 + r.engine
  let at_ := (r.wr + r.esSize - r.occ % (max 1 r.esSize)) % max 1 r.esSize
  let k := min sl.bytes (r.esSize - at_)
  [(mid, r.esBase + at_, k, false), (mid, r.esBase, sl.bytes - k, false), (0x08 + r.engine, r.ctxBase, 8192, false),
    (mid, r.ctxBase, 8192, false)]
    ++ sl.refs.map (fun x => (mid, f.buffer x.1 + x.2.1, x.2.2, false))
    ++ ws.map (fun w => (mid, f.buffer p.buf + w.1.toNat, w.2.length, true))

/-- The first access of a list that the MPU denies. -/
def accessDenied (s : State) (xs : List (Nat × Nat × Nat × Bool)) : Option (Nat × Nat × Nat × Bool) :=
  xs.findSome? (fun x => (firstDenied s x.1 x.2.1 x.2.2.1).map (fun d => (x.1, d.1, d.2, x.2.2.2)))

/-- The cycle budget of a slice in ns (R168). -/
def cycleBudget (luma : Nat) : Nat := 4 * luma + 10000

/-- Why a slice is aborted (Table: decode errors): a gap in it, a value out of range or a bad entropy read, rows outside the picture, its cycle
budget, a write outside the buffer's extent, a denied access; 0 where it is not. -/
def sliceFail (s : State) (r : CtxRec) (f : SurfRec) (p : DecPic) (sl : SliceInfo) (ws : List (Int × List Byte)) : Nat :=
  let gap := sliceGap r sl.bytes
  if gap ≠ 0 then gap
  else if sl.fail ≠ 0 then (if sl.fail = 5 then 5 else 6)
  else if sl.firstRow ≥ p.height then 5
  else if sl.ns > cycleBudget sl.luma then 7
  else if sl.px.any (strays f p) || ws.any (fun w => decide (w.1 < 0) || decide (w.1 + w.2.length > f.stride)) then 8
  else if (accessDenied s (sliceAccesses r f p sl ws)).isSome then 9
  else 0

/-- The epoch and flags a slice gives its rows (R151): its SEI, else its picture's. -/
def sliceBand (p : DecPic) (sl : SliceInfo) (first n : Nat) (subst : Bool) : BandRec :=
  match sl.sei.filter (·.ok) with
  | some x =>
    { first := first, rows := n, epoch := x.bandEpoch.toNat, sig := 0,
      flags := 2 * b2n subst + 4 * b2n (bit x.flags.toNat 0) + 8 * b2n (bit x.flags.toNat 1) + 16 }
  | none => { first := first, rows := n, epoch := p.epoch, sig := 0, flags := 2 * b2n subst }

/-- An aborted slice: counted, and its rows concealed (R169, R172). -/
def abortSlice (s : State) (c first n reason : Nat) : State :=
  let e := (s.ctx c).engine
  let s : State := (s.bump (ctxReg Reg.STR_DEC_CTX_ABORTED c)).bump (Reg.STR_DEC_ENG_ABORT_CNT + 0x100 * e)
  let s : State := if reason = 7 then s.bump (Reg.STR_DEC_ENG_BUDGET_CNT + 0x100 * e) else s
  let s : State := if reason = 8 then s.bump (Reg.STR_DEC_ENG_CLAMP_CNT + 0x100 * e) else s
  let s : State := if reason = 8 ∨ reason = 9 then decFault s e c (reason - 7) (ctxPic s c) else s
  if n = 0 then decConceal s c reason ((s.ctx c).cur.elim 0 (·.bands.length)) 0 (ctxPic s c) else concealRows s c first n reason

/-- Where the next slice's rows begin after one that ends at a row. -/
def advanceRow (s : State) (c row : Nat) : State :=
  let r := s.ctx c
  match r.cur with
  | some p => s.setCtx c { r with cur := some { p with nextRow := max p.nextRow row } }
  | none => s

/-- The first valid SEI of a picture, where it stands before a later slice, gives the picture its epoch and origin from then on, in its record
too (R151). (DEDUCED: log entry 136.) -/
def noteSei (s : State) (c : Nat) (f : SurfRec) (sl : SliceInfo) : State :=
  match (s.ctx c).cur, sl.sei.filter (·.ok) with
  | some p, some x =>
    if p.sei.isSome then s
    else
      let p := { p with sei := some x, epoch := x.picEpoch.toNat, arrival := false, remote := !(x.origin.toNat % 1024 == s.addr) }
      let s : State := s.setCtx c { s.ctx c with cur := some p }
      if p.inOrder ∧ p.output then
        let (o, src, n) := DecPic.origin s p
        let mid := 0x10 + (s.ctx c).engine
        let pub := s.pub c
        let s : State := s.wr mid (bufPage f p.buf + 16) (leBytes 8 p.epoch ++ leBytes 2 o ++ leBytes 2 src ++ leBytes 4 n)
        s.setPub c { pub with bufs := pub.bufs.set pub.buf { pub.cur with epoch := p.epoch, origin := o } }
      else s
  | _, _ => s

/-- A slice's samples are written, and its rows join the picture (R151, R160, R171). -/
def keepSlice (s : State) (c : Nat) (f : SurfRec) (sl : SliceInfo) (ws : List (Int × List Byte)) (first n : Nat) : State :=
  match (s.ctx c).cur with
  | none => s
  | some p =>
    let r := s.ctx c
    let s : State := ws.foldl (fun s w => s.wr (0x10 + r.engine) (f.buffer p.buf + w.1.toNat) w.2) s
    let subst := sl.missingRef || (r.refBad && !p.irap && !sl.intra)
    let q := { p with slices := p.slices ++ [sliceBand p sl first n subst], subst := p.subst || subst, noted := p.noted || subst,
                      rowNs := sl.rowNs }
    let s : State := s.setCtx c { (s.ctx c) with cur := some q }
    if subst && !p.noted then decConceal (s.bump (ctxReg Reg.STR_DEC_CTX_SUBST c)) c 13 q.bands.length 1 (ctxPic s c) else s

/-- The reason that rows missing before the next bytes of a context's ring are concealed for (R172): 11 where a full ring left them out, whether
or not anything has come since. -/
def missingReason (r : CtxRec) : Nat :=
  match r.ring with | k :: _ => if k.gap = 11 then 11 else 10 | [] => if r.gapNext = 11 then 11 else 10

/-- A slice of the picture in progress, its address not seen before (R160, R168 to R172): rows that its address shows missing are
concealed, its SEI is noted, aborted or not (R151), and it is decoded or aborted. -/
def takeSlice (s : State) (c : Nat) (f : SurfRec) (p : DecPic) (sl : SliceInfo) : State :=
  let r := s.ctx c
  let first := min sl.firstRow p.height
  let n := min sl.rows (p.height - first)
  let ws := sliceWrites f p sl first n
  let fail := sliceFail s r f p sl ws
  let s : State := s.setCtx c { r with
    ring := (consume r.ring sl.bytes true).1, cur := some { p with lastAddr := some sl.addr } }
  let gone := (if first > p.nextRow then [(p.nextRow, first - p.nextRow)] else []) ++ sl.lost.map (fun e => (e.1, min e.2 (p.height - e.1)))
  let s : State := gone.foldl (fun s e => concealRows s c e.1 e.2 (missingReason r)) s
  let s : State := noteSei s c f sl
  let s : State :=
    if fail = 0 then keepSlice s c f sl ws first n
    else
      let s : State := match (if fail = 9 then accessDenied s (sliceAccesses r f p sl ws) else none) with
        | some (m, a, l, w) => s.mpuDeny m a l w
        | none => s
      abortSlice s c first n fail
  advanceRow s c (first + n)

/-- The picture goes on after a slice: with its last one what it still lacks is concealed and it is finished (R160, R163). -/
def afterSlice (s : State) (c : Nat) (sl : SliceInfo) : State :=
  let s : State := pumpFeeds ((s.ctx c).feeds.length + 1) s c
  match (s.ctx c).cur with
  | none => s
  | some p =>
    let s : State := publishRows s c (min p.height sl.rowsDone)
    if sl.last then
      match (s.ctx c).cur with
      | some p => if p.done < p.height then concealRest s c (missingReason (s.ctx c)) sl.release else finishPicture s c sl.release
      | none => s
    else s

/-- SLICE_DECODE (R160, R172): one slice of the engine's picture that is in the ring. A slice whose address repeats the last one's is
discarded; one with a lower address belongs to a new picture, so the rest of this one is concealed. (DEDUCED: log entry 137.) -/
def doSlice (s : State) (e : Nat) (sl : SliceInfo) : State :=
  match (s.eng e).busy with
  | none => s
  | some c =>
    let r := s.ctx c
    match r.cur, s.surface c with
    | some p, some f =>
      if sl.bytes > r.occ then s
      else if p.lastAddr.any (fun a => decide (sl.addr < a)) then concealRest s c 10 sl.release
      else if p.lastAddr = some sl.addr then afterSlice (s.setCtx c { r with ring := (consume r.ring sl.bytes true).1 }) c sl
      else afterSlice (takeSlice s c f p sl) c sl
    | _, _ => s

/-- STALL_LIMIT (R154, R172 reason 14): no whole slice of the engine's picture is in the ring and STALL_MS has passed since its last byte
came: the rest of the picture is concealed. (DESIGN CHOICE: log entry 4.) -/
def doStallLimit (s : State) (e : Nat) (whole : Bool) : State :=
  match (s.eng e).busy with
  | none => s
  | some c =>
    let r := s.ctx c
    if r.cur.isNone ∨ (if r.fabric then r.ring.any (·.closes) else whole && !r.ring.isEmpty) ∨ s.clk < r.lastByte + r.stall * 1000000 then s
    else concealRest (decStall s c 1 (ctxPic s c)) c 14 []

/-! ## STREAM_OPEN, STREAM_FLUSH, STREAM_CLOSE (R174, R176, R177) -/

/-- Engine e can admit a context of this rate (R143); the capacity scales with STEP (R411). -/
def admits (s : State) (e mpxs : Nat) : Bool :=
  decide ((openOn s e).length < 32) && decide ((decLoad s e + mpxs) * 16 ≤ 1000 * s.sys.therm.step)

/-- The engine picked for ENGINE 0xFF: ready, able to admit, lowest load, then lowest number (R143). -/
def pickEngine (s : State) (mpxs : Nat) : Option Nat :=
  let es := (List.range 8).filter (fun e => s.isReady (4 + e) && admits s e mpxs)
  let lo := es.foldl (fun m e => min m (decLoad s e)) 1001
  es.find? (fun e => decLoad s e == lo)

/-- Field ranges of STREAM_OPEN. -/
def openBad (j : Job) : Bool :=
  let inp := j.n 19 1
  let e := j.n 17 1
  let within := fun o w lo hi => decide (lo ≤ j.n o w ∧ j.n o w ≤ hi)
  !(decide (e ≤ 7) || e == 0xFF) || decide (j.n 18 1 > 1) || decide (inp > 1)
    || (if inp = 0 then decide (j.n 21 1 > 63) else j.n 21 1 != 0) || !(within 22 2 1 1000) || !(within 24 2 64 4096)
    || !(within 26 2 64 2304) || (j.n 32 4 != 0 && !(within 32 4 100 1000000)) || (j.n 36 2 != 0 && !(within 36 2 10 1000))
    || !(within 56 4 0x10000 0x1000000)

/-- The checks of StreamOpen (R174). (DEDUCED: log entry 63.) -/
def streamOpenSpec (s : State) (j : Job) : CmdSpec :=
  let c := j.n 16 1
  let e := j.n 17 1
  let fab := j.n 19 1 == 1
  let mpxs := j.n 22 2
  let pick := if e = 0xFF then pickEngine s mpxs else if admits s e mpxs then some e else none
  let clash := fab && s.dec.ctxs.any (fun p => !(p.2.state == 0) && p.2.fabric && p.2.src == j.n 28 2 && p.2.flow == j.n 30 2)
  { pf0 := false, ready := s.isReady 2 && (decide (e > 7) || s.isReady (4 + e)),
    body := j.onlyBits 20 1 1 && j.zero [(38, 2), (60, 4)] && j.onlyBits 28 2 0x3FF && j.onlyBits 30 2 0xFFF,
    own := [chk (openBad j) .badDescriptor,
            chk (s.ctxOpen c || (s.surface c).isNone || pick.isNone || clash) .noResource,
            chk (decide (j.n 40 8 % 4096 ≠ 0) || decide (j.n 48 8 % 4096 ≠ 0) || decide (j.n 56 4 % 4096 ≠ 0)) .outOfBounds] }

/-- STREAM_OPEN (R174). (DESIGN CHOICE: log entry 47.) -/
def doStreamOpen (s : State) (j : Job) : State :=
  let c := j.n 16 1
  let e := j.n 17 1
  let fab := j.n 19 1 == 1
  let mpxs := j.n 22 2
  let pick := if e = 0xFF then pickEngine s mpxs else if admits s e mpxs then some e else none
  runJob s j (streamOpenSpec s j)
    (fun s =>
      let eng := pick.getD 0
      let r := { CtxRec.init with
        engine := eng, codec := j.n 18 1, fabric := fab, early := bit (j.n 20 1) 0, feedPf := j.pf, feedSq := j.n 21 1, mpxs := mpxs,
        maxW := j.n 24 2, maxH := j.n 26 2, src := j.n 28 2, flow := j.n 30 2, deadline := j.n 32 4,
        stall := if j.n 36 2 = 0 then 50 else j.n 36 2, ctxBase := j.n 40 8, esBase := j.n 48 8, esSize := j.n 56 4,
        conc := (s.ctx c).conc, concCnt := (s.ctx c).concCnt, concLast := (s.ctx c).concLast }
      let s : State := (List.range 10).foldl (fun s k => s.setReg (ctxReg Reg.STR_DEC_CTX_DECODED c + 4 * k) 0) (s.setCtx c r)
      (keepState (setCtxState s c 1) c).finish j .done 0 eng)

/-- What STREAM_FLUSH does to a context (R176). (DEDUCED: log entry 50.) -/
def flushCtx (s : State) (c : Nat) (keep : Bool) : State :=
  let s : State := s.setCtx c { (s.ctx c) with ring := [], setsTaken := false, setsSeen := 0 }
  let fs := (s.ctx c).feeds
  let s : State := s.setCtx c { (s.ctx c) with feeds := [] }
  let s : State := concealRest s c 10 []
  let s : State := releaseAll s c
  let s : State := fs.foldl (fun s f => s.finish f.job .aborted 0 0) s
  let r := s.ctx c
  s.setCtx c { r with expect := none, gapNext := 0, skipping := false, refBad := r.refBad || !keep,
                      prev := if keep then r.prev else none }

/-- The checks of Flush (R176). -/
def flushSpec (s : State) (j : Job) : CmdSpec :=
  let c := j.n 16 1
  { pf0 := false, ready := ctxReady s c, body := j.onlyBits 17 1 1 && j.zero [(18, 46)],
    own := [chk (!(s.ctxOpen c)) .badDescriptor] }

/-- STREAM_FLUSH (R176). A drained close that waits for the bytes now discarded completes (R177). (DEDUCED: log entry 50.) -/
def doFlush (s : State) (j : Job) : State :=
  let c := j.n 16 1
  runJob s j (flushSpec s j)
    (fun s => (settleClose (flushCtx s c (bit (j.n 17 1) 0)) c).finish j .done 0 0)

/-- The checks of Close (R177). -/
def closeSpec (s : State) (j : Job) : CmdSpec :=
  let c := j.n 16 1
  { pf0 := false, ready := ctxReady s c, body := j.onlyBits 17 1 1 && j.zero [(18, 46)],
    own := [chk (!(s.ctxOpen c) || decide ((s.ctx c).state = 4)) .badDescriptor] }

/-- STREAM_CLOSE (R177). -/
def doClose (s : State) (j : Job) : State :=
  let c := j.n 16 1
  runJob s j (closeSpec s j) (fun s =>
    if bit (j.n 17 1) 0 then
      let s : State := setCtxState s c 4
      settleClose (s.setCtx c { (s.ctx c) with closing := some j }) c
    else
      let s : State := setCtxState (flushCtx s c false) c 0
      s.finish j .done 0 0)

/-! ## Register views and the mailbox item (R180) -/

def viewEngStatus (s : State) (e : Nat) : Nat :=
  let g := s.eng e
  let wait : Bool := match g.busy with | some c => (s.ctx c).ring.isEmpty | none => false
  (openOn s e).length * 2 ^ 16 + (g.busy.getD 0) * 256 + 4 * b2n wait + 2 * b2n g.busy.isSome + b2n (s.isReady (4 + e))

/-- BUSY_PM measures time, which the model does not: a free value of at most 1,000. (DESIGN CHOICE: log entry 47.) -/
def viewEngLoad (s : State) (e : Nat) : Nat := (Config.freeNat s.free % 1001) * 2 ^ 16 + decLoad s e

def viewCtxStatus (s : State) (c : Nat) : Nat :=
  let r := s.ctx c
  r.engine * 2 ^ 20 + r.state * 2 ^ 16 + 128 * b2n r.tainted + 64 * b2n r.lastArr + 32 * b2n r.lastSei + 16 * b2n r.lastLate
    + 8 * b2n r.early + 4 * b2n (r.codec == 1) + 2 * b2n r.fabric + b2n (r.state != 0)

def viewCtxPic (s : State) (c : Nat) : Nat := match newestFull s c with | some (_, p) => p.pic | none => 0xFFFFFFFF

/-- Item 0x0400_0000 + c (R180). -/
def ctxItem (s : State) (c : Nat) : List Byte :=
  let r := s.ctx c
  leBytes 8 r.total ++ leBytes 4 (viewCtxPic s c) ++ leBytes 1 r.state ++ leBytes 1 r.engine ++ leBytes 2 0

end Machine
end Sys2Proof
end

