-- ==== Sys2Proof/Machine/Capture.lean ====
section
/-! DEFINITION. Capture ports: configuration, pictures, bands, signal and hot plug (R58, R71 to R79, R98, R103). -/

namespace Sys2Proof
namespace Machine

/-- A port right after reset: disabled. -/
def CapRec.init : CapRec :=
  { enabled := false, lanesMax := 1, rateMax := 0, width := 0, height := 0, format := 0, edid := [], pulse := false, hpd := false,
    trained := false, rate := 0, lanes := 0, signal := false, refused := false, msa := none, cur := none, live := false,
    epoch := 0, row := 0, eq := [], scanAt := 0 }

def State.cap (s : State) (p : Nat) : CapRec := s.caps.getD p CapRec.init
def State.setCap (s : State) (p : Nat) (r : CapRec) : State := { s with caps := s.caps.set p r }

/-- A power domain of R387 is on. -/
def State.pdOn (s : State) (k : Nat) : Bool := bit s.sys.power.on k

/-- Drive a port's HPD as R74 says: high while enabled with PD8 powered and no pulse. -/
def driveHpd (s : State) (p : Nat) : State :=
  let r := s.cap p
  let lv := r.enabled && s.pdOn 8 && !r.pulse
  if r.hpd = lv then s else (s.setCap p { r with hpd := lv }).emit (.hpd p lv)

/-- CAP_SIGNAL (R79, R103). -/
def capSignal (s : State) (p : Nat) (v : Bool) : State :=
  let r := s.cap p
  if r.signal = v then s
  else
    (s.setCap p { r with signal := v, live := r.live && v, cur := if v then r.cur else none }).raise 0x0462
      (leBytes 1 p ++ leBytes 1 (b2n v) ++ leBytes 8 s.ft.toNat)

/-- The buffer set a CAPTURE_CFG gives (R75, R98). (DEDUCED: log entry 27.) -/
def capSurf (j : Job) : SurfRec :=
  { format := j.n 20 1, buffers := j.n 21 1, reduce := 0, width := j.n 26 2, height := j.n 28 2, pitch := j.n 56 4,
    base := j.n 40 8, stride := j.n 60 4, rpitch := 0, roff := 0, block := j.n 48 8 }

/-- EDID_LEN is one of the four sizes (R71). -/
def edidLenOk (n : Nat) : Bool := n == 128 || n == 256 || n == 384 || n == 512

/-- Field ranges of the full form. -/
def capBad (j : Job) : Bool :=
  let lanes := j.n 18 1
  let f := j.n 20 1
  !(lanes == 1 || lanes == 2 || lanes == 4) || decide (j.n 19 1 > 3) || !(f == 0x20 || f == 0x11 || f == 0x10)
    || decide (j.n 21 1 < 2 ∨ j.n 21 1 > 4) || !(edidLenOk (j.n 24 2))

/-- What completes the full form with OUT_OF_BOUNDS (R98). -/
def capBounds (s : State) (j : Job) : Bool :=
  let f := capSurf j
  decide (j.n 32 8 % 4 ≠ 0) || decide (f.base % 4096 ≠ 0) || decide (f.block % 4096 ≠ 0) || decide (f.pitch % 256 ≠ 0)
    || decide (f.pitch < 2 * f.width) || decide (f.stride % 4096 ≠ 0)
    || decide (planeBytes f.format f.height f.pitch > f.stride)
    || decide (f.base + f.buffers * f.stride > s.usable) || decide (f.block + 4096 * (1 + f.buffers) > s.usable)

/-- The checks of CaptureCfg (R74, R98, R333). -/
def captureCfgSpec (s : State) (j : Job) : CmdSpec :=
  let p := j.n 16 1
  let en := j.n 17 1
  let eo := bit (j.n 22 1) 0
  let full := !eo && en == 1
  let r := s.cap p
  let len := j.n 24 2
  let addr := j.n 32 8
  let f := capSurf j
  { pf0 := false, ready := decide (p > 3) || s.isReady (14 + p),
    body := j.onlyBits 22 1 1 && j.zero [(23, 1), (30, 2)],
    own := [chk ((eo || full) && !(edidLenOk len)) .badDescriptor, chk ((eo || full) && !(inAperture s addr len)) .outOfBounds,
            chk (decide (p > 3)) .badDescriptor, chk (!eo && decide (en > 1)) .badDescriptor, chk (eo && !r.enabled) .badDescriptor,
            chk (full && (r.enabled || capBad j)) .badDescriptor,
            chk (eo && decide (addr % 4 ≠ 0)) .outOfBounds, chk (full && capBounds s j) .outOfBounds,
            if eo || full then chkMpu s 1 (s.hostInternal addr) len false else none,
            if full then chkMpu s 1 f.block (4096 * (1 + f.buffers)) true else none] }

/-- The EDID form with the bytes read: the new EDID, and a low pulse on HPD (R74, R98). -/
def capEdid (s : State) (j : Job) (edid : List Byte) : State :=
  let p := j.n 16 1
  let s : State := s.setCap p { (s.cap p) with edid := slice edid 0 (j.n 24 2), pulse := true }
  (driveHpd s p).finish j .done 0 0

/-- The full form with the EDID read: band block, surface and port (R98). (DEDUCED: log entry 27.) -/
def capEnable (s : State) (j : Job) (edid : List Byte) : State :=
  let p := j.n 16 1
  let f := capSurf j
  let (s, ok) := initBlock s f
  if !ok then s.finish j .denied 4 0
  else
    let key := prodKey 1 p
    let s : State := { s with surf.surfs := s.surf.surfs.set key f }.setPub key PubRec.init
    let s : State := s.setCap p { (s.cap p) with
      enabled := true, lanesMax := j.n 18 1, rateMax := j.n 19 1, width := f.width, height := f.height,
      format := f.format, edid := slice edid 0 (j.n 24 2), pulse := false, cur := none, live := false }
    (driveHpd s p).finish j .done 0 0

/-- CAPTURE_CFG's forms that read an EDID (R98). -/
def capLoad (s : State) (j : Job) (edid : List Byte) : State := if bit (j.n 22 1) 0 then capEdid s j edid else capEnable s j edid

/-- CAPTURE_CFG (R98, R74): the stop form, the EDID form and the full form. (DEDUCED: log entry 27.) -/
def doCaptureCfg (s : State) (j : Job) (edid : List Byte) : State :=
  let p := j.n 16 1
  runJob s j (captureCfgSpec s j) (fun s =>
    if bit (j.n 22 1) 0 || j.n 17 1 == 1 then s.hostFetch j [(j.n 32 8, j.n 24 2)] edid (fun s b => capLoad s j b)
    else
      let s : State := capSignal s p false
      let s : State := s.setCap p { (s.cap p) with enabled := false, pulse := false, live := false, cur := none }
      (driveHpd s p).finish j .done 0 0)

/-- HPD_PULSE_END (R74). -/
def doHpdPulseEnd (s : State) (p : Nat) : State := driveHpd (s.setCap p { (s.cap p) with pulse := false }) p

/-- A receiver lane's own adaptation (R417, R418): the codes it finds are free values. (DESIGN CHOICE: log entry 106.) -/
def dpiLane (s : State) : DpiLane × State :=
  let k := s.free
  let x := fun i => Config.freeNat (k + i)
  let off := fun i => ((x i % 63 : Nat) : Int) - 31
  ({ ctle := x 0 % 32, samp := [off 1, off 2, off 3, off 4], phase := ((x 5 % 33 : Nat) : Int) - 16, qW := 0, qH := 0, scans := 0,
     valid := false, qTime := 0 }, { s with free := k + 6 })

/-- The lanes of a port that has trained are adapted, and scanned a second later (R417, R431). -/
def dpiAdapt (s : State) (p lanes : Nat) : State :=
  (List.range (min lanes 4)).foldl (fun s _ =>
      let (l, s) := dpiLane s
      s.setCap p { s.cap p with eq := (s.cap p).eq ++ [l] })
    (s.setCap p { s.cap p with eq := [], scanAt := s.clk + 1000000000 })

/-- The eye scan of a trained port's lanes, one every second (R431): what it finds no command carries: free values.
(DESIGN CHOICE: log entry 106.) -/
def dpiScan (s : State) (p : Nat) : State :=
  let r := s.cap p
  if !r.trained ∨ s.clk < r.scanAt then s
  else
    let k := s.free
    let eq := (r.eq.zip (List.range r.eq.length)).map (fun e =>
      { e.1 with qW := Config.freeNat (k + 2 * e.2) % 65, qH := 2 * (Config.freeNat (k + 2 * e.2 + 1) % 301), scans := (e.1.scans + 1) % 2 ^ 32,
                 valid := true, qTime := s.ftUs })
    { s with free := k + 2 * r.eq.length }.setCap p { r with eq := eq, scanAt := r.scanAt + 1000000000 }

/-- The scans that are due. (DESIGN CHOICE: log entry 2.) -/
def dpiScans (s : State) : State := [0, 1, 2, 3].foldl dpiScan s

/-- SINK_LINK_TRAINING (R71, R103): a link trained within the configured limits, or a link that lost lock, for which IRQ_HPD is
issued. CAP_LINK is raised by every one that ends or finds a trained link. (DEDUCED: log entry 138.) -/
def doSinkTraining (s : State) (p : Nat) (trained : Bool) (rate lanes : Nat) : State :=
  let r := s.cap p
  let ok := trained && r.hpd && decide (rate ≤ r.rateMax) && decide (lanes ≤ r.lanesMax)
  let s : State := s.setCap p { r with trained := ok, rate := if ok then rate else 0, lanes := if ok then lanes else 0 }
  let s : State := if ok then dpiAdapt s p lanes else s
  let s : State := if r.trained ∧ !ok ∧ !trained then s.emit (.irqHpd p) else s
  if ok ∨ r.trained then
    s.raise 0x0460 (leBytes 1 p ++ leBytes 1 (b2n ok) ++ leBytes 1 (if ok then rate else 0) ++ leBytes 1 (if ok then lanes else 0))
  else s

/-- The surface formats an input may be stored in (R77). -/
def capFormatOk (encoding format : Nat) : Bool :=
  match encoding with
  | 0 => format == 0x20
  | 1 => format == 0x11 || format == 0x10
  | 2 => format == 0x11 || format == 0x10
  | _ => false

/-- The limits of R73, with the size the port expects (R98) and the formats of R77. -/
def capAccepts (r : CapRec) (m : Msa) : Bool :=
  !m.bad && decide (640 ≤ m.width ∧ m.width ≤ 4096 ∧ m.width % 8 = 0) && decide (480 ≤ m.height ∧ m.height ≤ 2304 ∧ m.height % 8 = 0)
    && decide (m.pclkHz ≤ 600000000) && decide (m.width * m.height * 2 ≤ m.periodNs) && m.width == r.width && m.height == r.height
    && capFormatOk m.encoding r.format

/-- CAPTURE_PICTURE_START (R58, R73, R76, R79, R159): accepted and given a free buffer, discarded, or skipped. CAP_TIMING is raised where the
size, the frame period or the refusal differs from the last picture's, CAP_LINK by SINK_LINK_TRAINING. (DEDUCED: log entry 138.) -/
def doCapStart (s : State) (p : Nat) (m : Msa) : State :=
  let r := s.cap p
  if !r.enabled ∨ !r.trained then s
  else
    let ok := capAccepts r m
    let old := r.msa.map (fun x => (x.width, x.height, x.periodNs))
    let changed := !(old == some (m.width, m.height, m.periodNs)) || r.refused == ok
    let s : State := s.setCap p { r with msa := some m, refused := !ok, live := ok, cur := none, epoch := s.ft.toNat, row := 0 }
    let s : State :=
      if changed then
        s.raise 0x0461 (leBytes 1 p ++ leBytes 2 m.width ++ leBytes 2 m.height ++ leBytes 4 m.periodNs ++ leBytes 1 (b2n (!ok)))
      else s
    if !ok then s.bump (Reg.STR_CAP_REFUSED + 0x100 * p)
    else
      let s : State := capSignal s p true
      let key := prodKey 1 p
      match s.surface key with
      | none => s
      | some f =>
        match freeBuffer s key f [] with
        | none => s.bump (Reg.STR_CAP_SKIP + 0x100 * p)
        | some b =>
          let (pic, s) := startPicture s (0x1A + p) key f b m.width m.height 0 (s.cap p).epoch s.addr 0xFFFF 0
          s.setCap p { (s.cap p) with cur := some pic, live := true }

/-- Align a component's code in a 16-bit container (R77). -/
def container (bpc10 : Bool) (v : Nat) : Nat := (if bpc10 then v * 64 else v * 256) % 65536

/-- The mean of samples, rounded half up. (DEDUCED: log entry 26.) -/
def meanUp (xs : List Nat) : Nat := if xs.isEmpty then 0 else (2 * xs.foldl (· + ·) 0 + xs.length) / (2 * xs.length)

/-- A sample of a plane of codes, its last row or column repeated. (DEDUCED: log entry 26.) -/
def codeAt (pl : List (List U16)) (y x : Nat) : Nat :=
  let row := pl.getD (min y (pl.length - 1)) []
  (row.getD (min x (row.length - 1)) 0).toNat

/-- The rows of one stored plane for a band of input codes (Table: capture storage): planes of codes in the order of the
encoding, 4:2:2 chroma with one sample per two columns. The plane index counts stored planes; comps says interleaved CbCr.
(DEDUCED: log entry 26.) -/
def storedRow (elems : List (List (List U16))) (m : Msa) (format plane y : Nat) : List Byte :=
  let c := container m.bpc10
  let pl := fun k => elems.getD k []
  if format = 0x10 ∧ plane = 1 then
    (List.range ((m.width + 1) / 2)).flatMap (fun x =>
      [1, 2].flatMap (fun k =>
        let v :=
          if m.encoding = 2 then meanUp [codeAt (pl k) (2 * y) x, codeAt (pl k) (2 * y + 1) x]
          else meanUp [codeAt (pl k) (2 * y) (2 * x), codeAt (pl k) (2 * y) (2 * x + 1), codeAt (pl k) (2 * y + 1) (2 * x),
                       codeAt (pl k) (2 * y + 1) (2 * x + 1)]
        leBytes 2 (c v)))
  else
    (List.range m.width).flatMap (fun x =>
      leBytes 2 (c (codeAt (pl plane) y (if m.encoding = 2 ∧ plane ≠ 0 then x / 2 else x))))

/-- The line path (R80): input row y of a capture port (kind 0) or an output pipe's tap (kind 1) reaches the streams that take their
pictures there. -/
def feedLine (s : State) (kind index y : Nat) (line : List (List U16)) : State :=
  { s with encs := s.encs.map (fun e =>
      if e.2.open_ && e.2.kind == kind && e.2.index == index && e.2.taking && e.2.row == y then
        (e.1, { e.2 with lines := e.2.lines ++ [line], row := y + 1 }) else e) }

/-- A band of an accepted picture goes into the port's surface with its signature, and is published (R75, R78, R159). -/
def storeBand (s : State) (p : Nat) (m : Msa) (first n : Nat) (elems : List (List (List U16))) : State :=
  let key := prodKey 1 p
  match (s.cap p).cur, s.surface key with
  | some _, some f =>
      let pub := s.pub key
      let r := s.cap p
      let mid := 0x1A + p
      let at_ := f.buffer pub.buf
      let s : State := ((planesOf f.format m.width f.height f.pitch).zip (List.range 3)).foldl (fun s (pl, k) =>
        let (r0, rows) := planeRows pl.2.2.2 first n
        (List.range rows).foldl (fun s i => s.wr mid (at_ + pl.1 + (r0 + i) * f.pitch) (storedRow elems m f.format k i)) s) s
      let full := decide (first + n = m.height)
      let b : BandRec := { first := first, rows := n, flags := 0, epoch := r.epoch, sig := bandSig s f pub.buf m.width first n }
      let s : State := publishBand s mid key f b 0 m.lineNs full false false
      if full then (s.setCap p { (s.cap p) with cur := none }).bump (Reg.STR_CAP_PICS + 0x100 * p) else s
  | _, _ => s

/-- CAPTURE_BAND (R75 to R78, R80, R159): the next 64 rows of the port's picture, or its last ones, reach the encoders' line path, and the
surface where the picture has a buffer. -/
def doCapBand (s : State) (p : Nat) (elems : List (List (List U16))) : State :=
  let r := s.cap p
  match r.msa with
  | some m =>
    let first := r.row
    let n := min 64 (m.height - first)
    if n = 0 ∨ (elems.headD []).length < n ∨ !r.enabled ∨ !r.live then s
    else
      let s : State := s.setCap p { r with row := first + n }
      let s : State := (List.range n).foldl (fun s i => feedLine s 0 p (first + i) (elems.map (fun pl => pl.getD i []))) s
      storeBand s p m first n elems
  | none => s

/-- CAP_SIGNAL_LOSS (R79). -/
def doCapLoss (s : State) (p : Nat) : State := capSignal s p false

/-! ## What a source reads over AUX (R71) -/

/-- The DPCD code of a rate of CAPTURE_CFG. (PRESUMED: log entry 140.) -/
def rateCode (rate : Nat) : Nat := [0x06, 0x0A, 0x14, 0x1E].getD rate 0

/-- LINK_STATUS of two lanes: clock recovery, equalization and symbol lock of each trained one. (PRESUMED: log entry 140.) -/
def laneStatus (r : CapRec) (k : Nat) : Nat := (if k < r.lanes then 0x07 else 0) + (if k + 1 < r.lanes then 0x70 else 0)

/-- A location of a port's DPCD (Table: capture port support); none where the spec leaves it to the standard. The HDCP range and the places of
LINK_STATUS are the standard's. (PRESUMED: log entry 140.) -/
def capDpcd (s : State) (p a : Nat) : Option Nat :=
  let r := s.cap p
  match a with
  | 0x00000 => some 0x14
  | 0x00001 => some (rateCode r.rateMax)
  | 0x00002 => some r.lanesMax
  | 0x00021 => some 0
  | 0x00060 => some 0
  | 0x00202 => some (if r.trained then laneStatus r 0 else 0)
  | 0x00203 => some (if r.trained then laneStatus r 2 else 0)
  | 0x00204 => some (b2n r.trained)
  | _ => if 0x68000 ≤ a ∧ a < 0x69000 then some 0 else none

/-- A byte of a port's EDID over I2C at 0x50, under the segment written at 0x30 (R71); none beyond the image. -/
def capEdidByte (s : State) (p segment off : Nat) : Option Byte := (s.cap p).edid[256 * segment + off]?

def viewCapStatus (s : State) (p : Nat) : Nat :=
  let r := s.cap p
  let (enc, ten) := match r.msa with | some m => (m.encoding % 4, m.bpc10) | none => (0, false)
  r.rate * 2 ^ 12 + r.lanes * 256 + 128 * b2n r.refused + enc * 32 + 16 * b2n ten + 8 * b2n r.signal + 4 * b2n r.trained
    + 2 * b2n r.hpd + b2n r.enabled

def viewCapTiming (s : State) (p : Nat) : Nat := match (s.cap p).msa with | some m => m.height * 65536 + m.width | none => 0
def viewCapPeriod (s : State) (p : Nat) : Nat :=
  match (s.cap p).msa with | some m => if (s.cap p).signal then m.periodNs else 0 | none => 0

end Machine
end Sys2Proof
end

