-- ==== Sys2Proof/Machine/Operands.lean ====
section
/-! DEFINITION. Operand formats with structure of their own: the standard modes and the settings of MODE_SET (R225, R226), and the
state blocks and records that STATE_LOAD carries (R200 to R203). -/

namespace Sys2Proof
namespace Machine

/-! ## Standard modes (R225) -/

/-- A timing: active size, totals, the pixel clock in Hz as a fraction, front porch, sync and back porch in both directions, and
whether each sync is active high. -/
structure ModeInfo where
  hAct : Nat
  vAct : Nat
  hTot : Nat
  vTot : Nat
  num  : Nat
  den  : Nat
  hFront : Nat
  hSync  : Nat
  hBack  : Nat
  vFront : Nat
  vSync  : Nat
  vBack  : Nat
  hPos   : Bool
  vPos   : Bool
  deriving DecidableEq, Repr

/-- Table: standard modes; none for MODE_IDX 0 and above 21. -/
def modeInfo : Nat → Option ModeInfo
  | 1 => some ⟨640, 480, 800, 525, 25175000, 1, 16, 96, 48, 10, 2, 33, false, false⟩
  | 2 => some ⟨1024, 768, 1344, 806, 65000000, 1, 24, 136, 160, 3, 6, 29, false, false⟩
  | 3 => some ⟨1280, 720, 1650, 750, 74250000, 1, 110, 40, 220, 5, 5, 20, true, true⟩
  | 4 => some ⟨1280, 720, 1980, 750, 74250000, 1, 440, 40, 220, 5, 5, 20, true, true⟩
  | 5 => some ⟨1280, 1024, 1688, 1066, 108000000, 1, 48, 112, 248, 1, 3, 38, true, true⟩
  | 6 => some ⟨1366, 768, 1792, 798, 85500000, 1, 70, 143, 213, 3, 3, 24, true, true⟩
  | 7 => some ⟨1600, 1200, 2160, 1250, 162000000, 1, 64, 192, 304, 1, 3, 46, true, true⟩
  | 8 => some ⟨1680, 1050, 1840, 1080, 119000000, 1, 48, 32, 80, 3, 6, 21, true, false⟩
  | 9 => some ⟨1920, 1080, 2200, 1125, 148500000, 1, 88, 44, 148, 4, 5, 36, true, true⟩
  | 10 => some ⟨1920, 1080, 2200, 1125, 148500000000, 1001, 88, 44, 148, 4, 5, 36, true, true⟩
  | 11 => some ⟨1920, 1080, 2640, 1125, 148500000, 1, 528, 44, 148, 4, 5, 36, true, true⟩
  | 12 => some ⟨1920, 1080, 2200, 1125, 297000000, 1, 88, 44, 148, 4, 5, 36, true, true⟩
  | 13 => some ⟨1920, 1200, 2080, 1235, 154000000, 1, 48, 32, 80, 3, 6, 26, true, false⟩
  | 14 => some ⟨2560, 1440, 2720, 1481, 241500000, 1, 48, 32, 80, 3, 5, 33, true, false⟩
  | 15 => some ⟨2560, 1600, 2720, 1646, 268500000, 1, 48, 32, 80, 3, 6, 37, true, false⟩
  | 16 => some ⟨3840, 2160, 4400, 2250, 297000000, 1, 176, 88, 296, 8, 10, 72, true, true⟩
  | 17 => some ⟨3840, 2160, 5280, 2250, 594000000, 1, 1056, 88, 296, 8, 10, 72, true, true⟩
  | 18 => some ⟨3840, 2160, 4400, 2250, 594000000, 1, 176, 88, 296, 8, 10, 72, true, true⟩
  | 19 => some ⟨3840, 2160, 4400, 2250, 594000000000, 1001, 176, 88, 296, 8, 10, 72, true, true⟩
  | 20 => some ⟨3840, 2160, 4000, 2222, 533250000, 1, 48, 32, 80, 3, 5, 54, true, false⟩
  | 21 => some ⟨4096, 2160, 4400, 2250, 594000000, 1, 88, 88, 128, 8, 10, 72, true, true⟩
  | _ => none

/-- The nominal period of n lines in ns, rounded down. -/
def ModeInfo.linesNs (m : ModeInfo) (n : Nat) : Nat := n * m.hTot * m.den * 1000000000 / m.num
/-- The nominal frame period in ns, rounded down (R221). -/
def ModeInfo.periodNs (m : ModeInfo) : Nat := m.linesNs m.vTot

/-- The settings a MODE_SET gives (R226). (DEDUCED: log entry 63.) -/
def modeCfgOf (j : Job) : ModeCfg :=
  { idx := j.n 17 1, timing := j.n 18 1, split := bit (j.n 19 1) 0, cta := bit (j.n 19 1) 1, lanes := j.n 20 1, rate := j.n 21 1,
    entry := j.n 22 1, unlock := j.n 23 1, t0 := j.n 24 8, pNum := bits (j.n 32 8) 39 0, pDen := j.n 40 2,
    trimLim := if j.n 42 2 = 0 then 1000 else j.n 42 2, pace := j.n 44 2, paceMax := j.n 48 4 }

/-- The active size of output n's mode in effect; (0, 0) without a mode. -/
def State.active (s : State) (n : Nat) : Nat × Nat :=
  match modeInfo (s.tg n).cfg.idx with | some m => (m.hAct, m.vAct) | none => (0, 0)

/-! ## State blocks (R200 to R202) -/

/-- Block types. -/
def bPIPE : Nat := 1
def bLAYER : Nat := 2
def bPRE : Nat := 8
def bPOST : Nat := 9
def bPAL : Nat := 10

/-- The key of a block of a pipe, and of a layer where the type has one. -/
def blockKey (type pipe layer : Nat) : Nat := type * 64 + pipe * 8 + layer

/-- A state block header (Table: state block header). -/
def blockHeader (type pipe layer len : Nat) : List Byte :=
  leBytes 1 type ++ leBytes 1 pipe ++ leBytes 1 layer ++ leBytes 1 0 ++ leBytes 4 len ++ leBytes 8 0

/-- A block right after reset (R200, R201): identity tables, an empty palette, ENABLE 0 with OUT_BPC 8, layers off. -/
def blockReset (type pipe layer : Nat) : List Byte :=
  match type with
  | 1 => blockHeader 1 pipe 0 64 ++ leBytes 1 0 ++ leBytes 1 8 ++ List.replicate 46 0
  | 2 => blockHeader 2 pipe layer 128 ++ List.replicate 112 0
  | 8 => blockHeader 8 pipe layer 8208 ++ (List.range 4096).flatMap (fun v => leBytes 2 (v * 16 + v / 256))
  | 9 => blockHeader 9 pipe 0 2080 ++ (List.range 1025).flatMap (fun i => leBytes 2 (min 4095 (4 * i))) ++ List.replicate 14 0
  | _ => blockHeader 10 pipe layer 1040 ++ List.replicate 1024 0

/-- A block of the active state. -/
def State.actBlock (s : State) (type pipe layer : Nat) : List Byte :=
  (s.cmp.act.get? (blockKey type pipe layer)).getD (blockReset type pipe layer)
/-- A block of the shadow: as loaded, else as active (R205). -/
def State.shdBlock (s : State) (type pipe layer : Nat) : List Byte :=
  (s.cmp.shd.get? (blockKey type pipe layer)).getD (s.actBlock type pipe layer)
/-- A block of the active state or the shadow. -/
def State.block (s : State) (shadow : Bool) (type pipe layer : Nat) : List Byte :=
  if shadow then s.shdBlock type pipe layer else s.actBlock type pipe layer

/-! ## Records (R203) -/

/-- A record with its layer. -/
structure LRec where
  layer  : Nat
  member : Nat
  race   : Bool
  reduced : Bool
  csc    : Nat
  kind   : Nat
  prod   : Nat
  pidx   : Nat
  x      : Int
  y      : Int
  w      : Nat
  h      : Nat
  cx     : Nat
  cy     : Nat
  cw     : Nat
  ch     : Nat
  surf   : Nat
  pitch  : Nat
  format : Nat
  width  : Nat
  height : Nat
  alarm  : Nat
  deriving DecidableEq, Repr

/-- Read a record's 48 bytes. -/
def recordOf (layer : Nat) (b : List Byte) : LRec :=
  let fl := fieldAt b 1 1
  { layer := layer, member := fieldAt b 0 1, race := bit fl 0, reduced := bit fl 1, csc := bits fl 3 2, kind := fieldAt b 2 1,
    prod := fieldAt b 3 1, pidx := fieldAt b 4 2, x := sInt 16 (fieldAt b 8 2), y := sInt 16 (fieldAt b 10 2),
    w := fieldAt b 12 2, h := fieldAt b 14 2, cx := fieldAt b 16 2, cy := fieldAt b 18 2, cw := fieldAt b 20 2,
    ch := fieldAt b 22 2, surf := fieldAt b 24 8, pitch := fieldAt b 32 4, format := fieldAt b 36 1, width := fieldAt b 38 2,
    height := fieldAt b 40 2, alarm := fieldAt b 44 4 }

/-- The records of a LAYER block, in member order; none for KIND 0. -/
def layerRecords (layer : Nat) (b : List Byte) : List LRec :=
  if fieldAt b 16 1 = 0 then []
  else (List.range (fieldAt b 17 1)).map (fun i => recordOf layer (slice b (128 + 48 * i) 48))

/-- Every record of a pipe, layers from L0 up, members in ascending order. -/
def pipeRecords (s : State) (shadow : Bool) (p : Nat) : List LRec :=
  (List.range 8).flatMap (fun l => layerRecords l (s.block shadow bLAYER p l))

/-- A record's tile number (R14, R203). -/
def LRec.tile (r : LRec) (p : Nat) : Nat := 512 * p + 64 * r.layer + r.member

/-- The record of a tile in the active state or the shadow. -/
def tileRecord (s : State) (shadow : Bool) (t : Nat) : Option LRec :=
  (layerRecords (t % 512 / 64) (s.block shadow bLAYER (t / 512) (t % 512 / 64))).find? (fun r => r.member == t % 64)

/-- The producer key of a pool record. -/
def LRec.key (r : LRec) : Nat := prodKey r.prod r.pidx

/-- The destination rectangle clipped to an active area: x0, y0, x1, y1 with the ends excluded; none where they do not meet. -/
def LRec.clip (r : LRec) (wd ht : Nat) : Option (Nat × Nat × Nat × Nat) :=
  let x0 := max 0 r.x
  let y0 := max 0 r.y
  let x1 := min (wd : Int) (r.x + r.w)
  let y1 := min (ht : Int) (r.y + r.h)
  if x0 < x1 ∧ y0 < y1 then some (x0.toNat, y0.toNat, x1.toNat, y1.toNat) else none

/-- The record's rectangle covers a pixel. -/
def LRec.covers (r : LRec) (x y : Nat) : Bool :=
  decide (r.x ≤ x) && decide ((x : Int) < r.x + r.w) && decide (r.y ≤ y) && decide ((y : Int) < r.y + r.h)

/-- The 16.16 ratio of a crop length to a destination length (R189). -/
def ratio16 (crop dst : Nat) : Nat := crop * 65536 / max 1 dst

/-! ## PIPE block fields (R201) -/

def pipeEnable (b : List Byte) : Bool := fieldAt b 16 1 == 1
def pipeBpc (b : List Byte) : Nat := fieldAt b 17 1
def pipeGuard (b : List Byte) : Nat := if fieldAt b 24 2 = 0 then 64 else fieldAt b 24 2
def pipeMargin (b : List Byte) : Nat := if fieldAt b 26 2 = 0 then 8 else fieldAt b 26 2

/-- Active ENABLE of a pipe. -/
def State.enabled (s : State) (p : Nat) : Bool := pipeEnable (s.actBlock bPIPE p 0)

end Machine
end Sys2Proof
end

