-- ==== Sys2Proof/Machine/Compose.lean ====
section
/-! DEFINITION. The pixel path of a pipe: unpacking, scaling, colour conversion, look-up tables, blending, treatments, slates,
cursor, service pattern and dither (R19 to R22, R27, R181 to R199, R253). -/

namespace Sys2Proof
namespace Machine

/-! ## Tables (R194, R196) -/

/-- The largest e ≤ hi with ok e, found from the top bit down; ok must hold of 0 and fail above the answer. -/
def searchUp (ok : Nat → Bool) : Nat → Nat → Nat
  | 0, lo => lo
  | n + 1, lo => let t := lo + 2 ^ n; searchUp ok n (if ok t then t else lo)

/-- ROM gamma 2.4: round(65,535 × (v ÷ 4,095)^2.4), by exact comparison of fifth powers. (DEDUCED: log entry 59.) -/
def gammaE (v : Nat) : Nat :=
  searchUp (fun e => decide ((2 * e - 1) ^ 5 * 4095 ^ 12 ≤ 32 * 65535 ^ 5 * v ^ 12)) 16 0

/-- ROM inverse gamma 2.4: round(4,095 × (i ÷ 1,024)^(1 ÷ 2.4)), by exact comparison of twelfth powers. (DEDUCED: log entry 59.) -/
def invGammaE (i : Nat) : Nat :=
  searchUp (fun e => decide ((2 * e - 1) ^ 12 * 1024 ^ 5 ≤ 4096 * 4095 ^ 12 * i ^ 5)) 12 0

/-- A pre-blend table entry (R194). -/
def preLut (s : State) (p layer src v : Nat) : Nat :=
  match src with
  | 0 => gammaE v
  | 1 => v * 16 + v / 256
  | _ => fieldAt (s.actBlock bPRE p layer) (16 + 2 * v) 2

/-- A post-blend table entry (R196). -/
def postE (s : State) (p src i : Nat) : Nat :=
  match src with
  | 0 => invGammaE i
  | 1 => min 4095 (4 * i)
  | _ => fieldAt (s.actBlock bPOST p 0) (16 + 2 * i) 2

/-- The post-blend LUT: 16-bit linear to 12-bit code (R196). -/
def postLut (s : State) (p src x : Nat) : Nat :=
  let i := x / 64
  let f := x % 64
  (postE s p src i * (64 - f) + postE s p src (i + 1) * f + 32) / 64

/-! ## Pixels -/

/-- A 16-bit linear pixel: R, G, B. -/
abbrev Px := Nat × Nat × Nat

/-- A 10-bit component to 16 bits (R20). -/
def lin10 (c : Nat) : Nat := c * 64 + c / 16
/-- A 10-bit colour word to a linear pixel. -/
def colour16 (w : Nat) : Px := (lin10 (bits w 29 20), lin10 (bits w 19 10), lin10 (bits w 9 0))

/-- Blend one component over another with alpha a (R195). -/
def blend1 (c d a : Nat) : Nat := (c * a + d * (4096 - a) + 2048) / 4096
def blendPx (c d : Px) (a : Nat) : Px := (blend1 c.1 d.1 a, blend1 c.2.1 d.2.1 a, blend1 c.2.2 d.2.2 a)

/-- Un-premultiply a component (R184). -/
def unPre (c a : Nat) : Nat := if a = 0 then 0 else min 4095 ((c * 4096 + a / 2) / a)

/-! ## Surface reads (R183 to R188) -/

/-- What a record reads: address, format, pitch, size, and the index of nothing else. -/
structure SrcSurf where
  at_    : Nat
  format : Nat
  pitch  : Nat
  height : Nat
  deriving DecidableEq, Repr

/-- A pipe's read of a few bytes under its master ID: denied or frozen reads are zero (R188). -/
def pipeRead (s : State) (p addr n : Nat) : Nat :=
  if mpuOk s (0x20 + p) addr n ∧ s.dram.frozen.isNone ∧ addr + n ≤ s.usable then leNat (memRead s.mem addr n) else 0

/-- Alpha of ARGB8 (R184). -/
def alpha8 (a : Nat) : Nat := (a * 4096 + 127) / 255
/-- An ARGB8 word to three 12-bit components and alpha. -/
def unpackArgb8 (w : Nat) : List Nat :=
  let c := fun x => x * 16 + x / 16
  [c (bits w 23 16), c (bits w 15 8), c (bits w 7 0), alpha8 (bits w 31 24)]

/-- Component k (0 to 2, 3 alpha) of the element at column x and row y of its own grid (R183, R184). Format 0x10 has chroma
components 1 and 2 in their own grid (R191). -/
def element (s : State) (p layer : Nat) (f : SrcSurf) (k x y : Nat) : Nat :=
  match f.format with
  | 0x10 =>
    if k = 3 then 4096
    else if k = 0 then pipeRead s p (f.at_ + y * f.pitch + 2 * x) 2 / 16
    else pipeRead s p (f.at_ + f.pitch * f.height + y * f.pitch + 4 * x + 2 * (k - 1)) 2 / 16
  | 0x30 => (unpackArgb8 (pipeRead s p (f.at_ + y * f.pitch + 4 * x) 4)).getD k 0
  | 0x31 =>
    let w := pipeRead s p (f.at_ + y * f.pitch + 4 * x) 4
    let c := fun v => v * 4 + v / 256
    [c (bits w 29 20), c (bits w 19 10), c (bits w 9 0), [0, 1365, 2731, 4096].getD (bits w 31 30) 0].getD k 0
  | 0x40 =>
    let i := pipeRead s p (f.at_ + y * f.pitch + x) 1
    (unpackArgb8 (fieldAt (s.actBlock bPAL p layer) (16 + 4 * i) 4)).getD k 0
  | _ => if k = 3 then 4096 else pipeRead s p (f.at_ + k * f.pitch * f.height + y * f.pitch + 2 * x) 2 / 16

/-! ## Scaling (R190, R191) -/

/-- Fixed-point one: 2^64. -/
def fxOne : Int := 2 ^ 64
/-- π in units of 2^-64. -/
def fxPi : Int := 57952155664616982739
/-- The Taylor sum of the sine of an angle in units of 2^-64, |angle| ≤ π ÷ 2. -/
def sinSeries (t : Int) : Nat → Int → Int → Int
  | 0, _, acc => acc
  | n + 1, term, acc =>
    let k : Int := 13 - (n : Int)
    let next := -(term * t / fxOne * t / fxOne) / ((2 * k) * (2 * k + 1))
    sinSeries t n next (acc + next)
/-- sin(π x) for x in units of 2^-64. (DEDUCED: log entry 59.) -/
def sinPi (x : Int) : Int :=
  let y := x % (2 * fxOne)
  let (sg, y) := if y ≥ fxOne then (-1, y - fxOne) else (1, y)
  let y := if 2 * y > fxOne then fxOne - y else y
  let t := y * fxPi / fxOne
  sg * sinSeries t 13 t t
/-- The Lanczos kernel sinc(x) sinc(x ÷ a), x in units of 2^-64; 0 for |x| ≥ a. (DEDUCED: log entry 59.) -/
def lanczos (a : Nat) (x : Int) : Int :=
  if x = 0 then fxOne
  else if x.natAbs ≥ (a : Int).natAbs * fxOne.natAbs then 0
  else
    let px := x * fxPi / fxOne
    (sinPi x * fxOne / px) * ((sinPi (x / a)) * fxOne / (px / a)) / fxOne

/-- Round a quotient of integers to the nearest, halves up; b is positive. -/
def roundDiv (n b : Int) : Int := (2 * n + b) / (2 * b)

/-- The samples and integer weights around a position in units of 1/64, with kernel scale sc in units of 2^-17 (R190). They sum to 4,096:
the remainder goes to the sample nearest the position, of two equally near the lower. (DEDUCED: log entry 59.) -/
def weights (a : Nat) (pos : Int) (sc : Nat) : List (Int × Int) :=
  let span : Int := (a * sc : Nat)
  let lo := pos / 64 - span / 131072 - 1
  let n := (2 * span / 131072 + 4).toNat
  let cand := (List.range n).map (fun (i : Nat) => lo + Int.ofNat i)
  let ks := (cand.map (fun k => (k, lanczos a ((k * 64 - pos) * 2048 * fxOne / (sc : Int))))).filter (fun e => decide (e.2 ≠ 0))
  let sum := ks.foldl (fun t e => t + e.2) 0
  let ws := ks.map (fun e => (e.1, roundDiv (4096 * e.2) (if sum = 0 then 1 else sum)))
  let rem := 4096 - ws.foldl (fun t e => t + e.2) 0
  let near := ws.foldl (fun (m : Option Int) e =>
    match m with
    | none => some e.1
    | some k => if (e.1 * 64 - pos).natAbs < (k * 64 - pos).natAbs then some e.1 else m) none
  (ws.map (fun e => if near = some e.1 then (e.1, e.2 + rem) else e)).filter (fun e => decide (e.2 ≠ 0))

/-- A source position in units of 1/64, an exact half rounding up: crop offset and destination index at a 16.16 ratio. v is the
position in units of 2^-17. -/
def posV (crop i r : Nat) : Int := (crop : Int) * 131072 + (2 * i + 1) * r - 65536
def pos64 (v : Int) : Int := (v + 1024) / 2048
/-- The chroma positions of R191, halved, with the vertical siting. -/
def posChromaX (v : Int) : Int := (v + 2048) / 4096
def posChromaY (v : Int) : Int := (v - 65536 + 2048) / 4096

/-- Clamp a sample index into a crop. -/
def clampIdx (lo hi : Nat) (i : Int) : Nat := (max (lo : Int) (min (hi : Int) i)).toNat

/-- The kernel scale of a 16.16 ratio r, in units of 2^-17: max(1, r), and max(1, r ÷ 2) for the chroma of format 0x10 (R190, R191). -/
def kernelScale (chroma : Bool) (r : Nat) : Nat := if chroma then max 131072 r else 2 * max 65536 r

/-- The rows of a plane that a record's vertical filter takes for its row j, with their weights; chroma names the chroma grid of
format 0x10 (R190, R191). -/
def filterRows (r : LRec) (chroma : Bool) (j : Nat) : List (Nat × Int) :=
  let rv := ratio16 r.ch r.h
  let (y0, y1) := if chroma then (r.cy / 2, (r.cy + r.ch - 1) / 2) else (r.cy, r.cy + r.ch - 1)
  let vy := posV r.cy j rv
  (weights 2 (if chroma then posChromaY vy else pos64 vy) (kernelScale chroma rv)).map (fun e => (clampIdx y0 y1 e.1, e.2))

/-- One component of a record's destination pixels on one of its rows: vertical pass, then horizontal pass (R190, R191). -/
def scaledRow (s : State) (p : Nat) (r : LRec) (f : SrcSurf) (k j i0 n : Nat) : List Nat :=
  let chroma := f.format == 0x10 && (k == 1 || k == 2)
  let rh := ratio16 r.cw r.w
  let (x0, x1) := if chroma then (r.cx / 2, (r.cx + r.cw - 1) / 2) else (r.cx, r.cx + r.cw - 1)
  let wv := filterRows r chroma j
  let col := fun (x : Nat) =>
    let sum := wv.foldl (fun t e => t + e.2 * (element s p r.layer f k x e.1 : Int)) 0
    (sum + 2048) / 4096
  let cols := (List.range (x1 + 1 - x0)).map (fun i => col (x0 + i))
  (List.range n).map (fun i =>
    let vx := posV r.cx (i0 + i) rh
    let wh := weights 4 (if chroma then posChromaX vx else pos64 vx) (kernelScale chroma rh)
    let sum := wh.foldl (fun t e => t + e.2 * cols.getD (clampIdx x0 x1 e.1 - x0) 0) 0
    (max 0 (min (if k = 3 then 4096 else 4095) ((sum + 2048) / 4096))).toNat)

/-! ## Colour (R193 to R195) -/

/-- A clamped 12-bit component of a colour conversion (R193). -/
def cscComp (b : List Byte) (n c : Nat) (v : List Nat) : Nat :=
  let m := fun k => sInt 16 (fieldAt b (24 + 24 * n + 2 * (3 * c + k)) 2)
  let off := sInt 16 (fieldAt b (24 + 24 * n + 18 + 2 * c) 2)
  let sum := m 0 * v.getD 0 0 + m 1 * v.getD 1 0 + m 2 * v.getD 2 0 + 2048
  (max 0 (min 4095 (sum / 4096 + off))).toNat

/-- A record's linear pixels with their alpha on one of its rows, columns [i0, i0 + n) of the record. -/
def recordRow (s : State) (p : Nat) (r : LRec) (src : Option SrcSurf) (j i0 n : Nat) : List (Px × Nat) :=
  let b := s.actBlock bLAYER p r.layer
  let al := fieldAt b 20 2
  if r.kind = 0 then List.replicate n (colour16 r.surf, al)
  else
    match src with
    | none => List.replicate n ((0, 0, 0), 0)
    | some f =>
      let ch := (List.range 4).map (fun k => scaledRow s p r f k j i0 n)
      let lut := preLut s p r.layer (fieldAt b 18 1)
      (List.range n).map (fun i =>
        let a := (ch.getD 3 []).getD i 0
        let v := (List.range 3).map (fun k => unPre ((ch.getD k []).getD i 0) a)
        let o := fun c => lut (cscComp b r.csc c v)
        ((o 0, o 1, o 2), (a * al + 2048) / 4096))

/-! ## Visible parts (R21) -/

/-- A pixel of the active area belongs to the visible part of a record. -/
def visibleAt (rs : List LRec) (r : LRec) (x y : Nat) : Bool :=
  r.covers x y && !(rs.any (fun q => decide (q.layer > r.layer) && q.covers x y))

/-- The visible part of a record has a pixel on a line of width wd. -/
def visibleOnLine (rs : List LRec) (r : LRec) (wd y : Nat) : Bool := (List.range wd).any (fun x => visibleAt rs r x y)

/-! ## Slates (R195, R216, R217) -/

/-- CMP_SLATE_BASE's address. -/
def State.slateBase (s : State) : Nat := bits (s.reg Reg.CMP_SLATE_BASE) 19 0 * 2 ^ 20

def SlateRec.init : SlateRec := { width := 0, height := 0, copied := false, loaded := false, seen := 0 }
def State.slate (s : State) (k : Nat) : SlateRec := s.cmp.slates.getD k SlateRec.init

/-- Output n may draw slot k: copied, and the output has had a frame start since (R217). -/
def slateOn (s : State) (n k : Nat) : Bool := (s.slate k).copied && bit (s.slate k).seen n

/-- Blend a slate's pixel over a colour; outside the image the colour stays. -/
def slatePx (s : State) (p k : Nat) (x y : Int) (d : Px) : Px :=
  let sl := s.slate k
  if 0 ≤ x ∧ x < sl.width ∧ 0 ≤ y ∧ y < sl.height then
    let v := unpackArgb8 (pipeRead s p (s.slateBase + k * 2 ^ 20 + y.toNat * 2048 + 4 * x.toNat) 4)
    let a := v.getD 3 0
    blendPx (gammaE (unPre (v.getD 0 0) a), gammaE (unPre (v.getD 1 0) a), gammaE (unPre (v.getD 2 0) a)) d a
  else d

/-! ## Treatments, badges, steam marks (R19 to R22, R27) -/

/-- FUM_COLOUR of a state as a linear pixel. -/
def State.stateColour (s : State) (st : Nat) : Px := colour16 (s.reg (Reg.FUM_COLOUR + 4 * st))

/-- A pixel within n of the inside edge of a record's rectangle. -/
def onFrame (r : LRec) (n : Nat) (x y : Int) : Bool :=
  decide (x < r.x + n) || decide (x ≥ r.x + r.w - n) || decide (y < r.y + n) || decide (y ≥ r.y + r.h - n)

/-- DIM: a quarter of the luminance (R19). -/
def dimPx (d : Px) : Px :=
  let y := (13933 * d.1 + 46871 * d.2.1 + 4732 * d.2.2 + 32768) / 65536
  (y / 4, y / 4, y / 4)

/-- A covering treatment at a pixel of a tile's visible part (Table: treatment rendering), under the policy's values of the tile's
scan start (R39). A slate whose size differs from the tile's by an odd number is centred one pixel further up or left.
(DESIGN CHOICE: log entry 58; DESIGN CHOICE: log entry 116.) -/
def treatPx (s : State) (p : Nat) (r : LRec) (treat st : Nat) (P : PolicyRec) (x y : Nat) (d : Px) : Px :=
  match treat with
  | 2 => if onFrame r 4 x y then s.stateColour st else d
  | 3 => if ((x : Int) - r.x + ((y : Int) - r.y)) % 16 < 8 then s.stateColour st else d
  | 4 => dimPx d
  | 5 =>
    let blank := colour16 P.blank
    if slateOn s p P.slate then
      let sl := s.slate P.slate
      slatePx s p P.slate ((x : Int) - (r.x + ((r.w : Int) - sl.width) / 2)) ((y : Int) - (r.y + ((r.h : Int) - sl.height) / 2)) blank
    else blank
  | 6 => colour16 P.blank
  | _ => d

/-- What the tile shows on a line: treatment and state, before or from the row of an escalation (R32). -/
def tileOnLine (t : TileRec) (y : Nat) : Nat × Nat := if t.esc ∧ t.escRow ≤ y then (t.treat, t.state) else (t.treat0, t.state0)

/-- A badge or a steam mark at a pixel, clipped to the tile rectangle (R19, R21, R27). (DESIGN CHOICE: log entry 58.) -/
def markPx (s : State) (r : LRec) (b : TileBind) (treat st frame : Nat) (x y : Nat) (d : Px) : Px :=
  if !(r.covers x y) then d
  else
    let bx := (x : Int) - (r.x + 4)
    let by_ := (y : Int) - (r.y + 4)
    let d := if treat = 1 ∧ 0 ≤ bx ∧ bx < 32 ∧ 0 ≤ by_ ∧ by_ < 32 ∧ Config.glyph 0 st bx.toNat by_.toNat then s.stateColour st else d
    let sx := (x : Int) - (r.x + r.w - 20)
    if b.steam ∧ r.w ≥ 24 ∧ r.h ≥ 24 ∧ 0 ≤ sx ∧ sx < 16 ∧ 0 ≤ by_ ∧ by_ < 16 then
      let q := if by_ < 8 then (if sx < 8 then 0 else 1) else (if sx < 8 then 3 else 2)
      if st ≤ 1 then (if q = frame % 4 then (65535, 65535, 65535) else (0, 0, 0))
      else if q % 2 = 0 then s.stateColour st else (0, 0, 0)
    else d

/-! ## Lines (R181, R182, R197 to R199) -/

/-- A record's pixels on line y of the active area, in the columns of its clipped rectangle; none where it has no such line. -/
def recordPx (s : State) (p : Nat) (src : Option SrcSurf) (wd ht y : Nat) (r : LRec) : List (Px × Nat) :=
  match r.clip wd ht with
  | none => []
  | some (x0, _, x1, _) => recordRow s p r src ((y : Int) - r.y).toNat ((x0 : Int) - r.x).toNat (x1 - x0)

/-- One record's pixels blended over a line. -/
def drawRecord (px : LRec → List (Px × Nat)) (wd ht y : Nat) (line : List Px) (r : LRec) : List Px :=
  match r.clip wd ht with
  | none => line
  | some (x0, y0, x1, y1) =>
    if y < y0 ∨ y ≥ y1 then line
    else
      (line.zip (List.range wd)).map (fun (d, x) =>
        if x < x0 ∨ x ≥ x1 then d else let (c, a) := (px r).getD (x - x0) ((0, 0, 0), 0); blendPx c d a)

/-- Stages 1 to 6 of a line (Table: composition order); px gives each record's pixels on it. -/
def composeLine (s : State) (p : Nat) (px : LRec → List (Px × Nat)) (frame y : Nat) : List Px :=
  let (wd, ht) := s.active p
  let b := s.actBlock bPIPE p 0
  let rs := pipeRecords s false p
  let line := List.replicate wd (colour16 (fieldAt b 20 4))
  let line := rs.foldl (drawRecord px wd ht y) line
  let px := (line.zip (List.range wd)).map (fun (d, x) =>
    let d := rs.foldl (fun d r =>
      if bit r.alarm 31 ∧ onFrame r 8 x y ∧ visibleAt rs r x y then colour16 r.alarm else d) d
    let d := rs.foldl (fun d r =>
      let (tr, st) := tileOnLine (s.tile (r.tile p)) y
      if tr ≥ 2 ∧ visibleAt rs r x y then treatPx s p r tr st (s.tile (r.tile p)).pol x y d else d) d
    rs.foldl (fun d r =>
      let (tr, st) := tileOnLine (s.tile (r.tile p)) y
      markPx s r (s.bindAct (r.tile p)) tr st frame x y d) d)
  let k := fieldAt b 28 1
  if bit (fieldAt b 29 1) 0 ∧ slateOn s p k then
    (px.zip (List.range wd)).map (fun (d, x) =>
      slatePx s p k ((x : Int) - sInt 16 (fieldAt b 30 2)) ((y : Int) - sInt 16 (fieldAt b 32 2)) d)
  else px

/-- The service pattern's 12-bit codes at a pixel (R253). (DESIGN CHOICE: log entry 58.) -/
def servicePx (s : State) (n wd ht frame x y : Nat) : Px :=
  let sc := max 1 (ht / 540)
  let w := s.reg Reg.OUT_SVC_COLOUR
  let field : Px := (4 * bits w 29 20, 4 * bits w 19 10, 4 * bits w 9 0)
  let white : Px := (4095, 4095, 4095)
  let gx : Int := (x : Int) - ((wd : Int) - 256 * sc) / 2
  let gy : Int := (y : Int) - ((ht : Int) - 80 * sc) / 2
  let ix : Int := (x : Int) - ((wd : Int) - 80 * sc) / 2
  let iy : Int := gy - 48 * sc
  let a := s.addr
  let hex := fun v => if v < 10 then 48 + v else 55 + v
  let chars := [hex (bits a 9 8), hex (bits a 7 4), hex (bits a 3 0), 45, 48 + n]
  let d := field
  let d := if 0 ≤ gx ∧ gx < 256 * sc ∧ 0 ≤ gy ∧ gy < 32 * sc ∧ Config.glyph 1 0 (gx.toNat / sc) (gy.toNat / sc) then white else d
  let d :=
    if 0 ≤ ix ∧ ix < 80 * sc ∧ 0 ≤ iy ∧ iy < 32 * sc ∧
        Config.glyph 2 (chars.getD (ix.toNat / sc / 16) 0) (ix.toNat / sc % 16) (iy.toNat / sc) then white else d
  let mx := (x : Int) - 16 * sc
  let my := (y : Int) - 16 * sc
  if 0 ≤ mx ∧ mx < 16 * sc ∧ 0 ≤ my ∧ my < 16 * sc then
    let q := if my < 8 * sc then (if mx < 8 * sc then 0 else 1) else (if mx < 8 * sc then 3 else 2)
    if q = frame % 4 then white else (0, 0, 0)
  else d

/-- Stage 8: a 12-bit code at the output tap for encoding, rounded to 10 bits (R197). -/
def tapCode (v : Nat) : Nat := min 1023 ((v + 2) / 4)
def tapPx (v : Px) : Px := (tapCode v.1, tapCode v.2.1, tapCode v.2.2)

/-- The Bayer matrix of R197. -/
def bayer (x y : Nat) : Nat :=
  ([0, 8, 2, 10, 12, 4, 14, 6, 3, 11, 1, 9, 15, 7, 13, 5].getD (4 * (y % 4) + x % 4) 0)

/-- Stage 9: a 12-bit code at the output depth (R197). -/
def ditherTo (b dither x y v : Nat) : Nat :=
  if b ≥ 12 then v
  else if dither = 0 then min (2 ^ b - 1) ((v + 2 ^ (11 - b)) / 2 ^ (12 - b))
  else min (2 ^ b - 1) ((v + bayer x y * 2 ^ (12 - b) / 16) / 2 ^ (12 - b))

/-- The 8 bytes a pixel gives to a CRC (R240). -/
def crcPx (b : Nat) (v : Px) : List Byte :=
  let c := fun x => leBytes 2 (x * 2 ^ (12 - b) % 4096)
  c v.1 ++ c v.2.1 ++ c v.2.2 ++ [0, 0]

/-- A pixel as put out: 16 bits a component. -/
def packPx (v : Px) : U64 := BitVec.ofNat 64 (v.1 + v.2.1 * 2 ^ 16 + v.2.2 * 2 ^ 32)

end Machine
end Sys2Proof
end

