-- ==== Sys2Proof/Machine/Commit.lean ====
section
/-! DEFINITION. State blocks from load to screen: STATE_LOAD and its block check, COMMIT, its validation and application, LIVE_SET,
and slates (R200 to R212, R216, R217). -/

namespace Sys2Proof
namespace Machine

/-! ## Results (R208) -/

/-- A composition result. -/
def compResult (out layer member step value : Nat) : Nat :=
  out + layer * 2 ^ 8 + member * 2 ^ 16 + step * 2 ^ 24 + value * 2 ^ 32

/-- The result that names no output and no block: a refusal without a step, and the success of a STATE_LOAD. -/
def compNone : Nat := compResult 0xFF 0xFF 0xFF 0 0

/-- A failed check of a load or a commit: status, output, layer, member, step and value. -/
structure CompFail where
  st     : Status
  out    : Nat
  layer  : Nat
  member : Nat
  step   : Nat
  value  : Nat
  deriving DecidableEq, Repr

def CompFail.result (f : CompFail) : Nat := compResult f.out f.layer f.member f.step f.value

/-- Run a STATE_LOAD or COMMIT: a refusal without a step carries compNone (R208). -/
def runComp (s : State) (j : Job) (sp : CmdSpec) (act : State → State) : State :=
  match firstRefusal s j sp with
  | some r => s.refuse j { r with result := compNone }
  | none => act s

/-! ## The block check (R200 to R204) -/

/-- The length a type has; none for an unknown type (R200). -/
def blockLen (b : List Byte) : Option Nat :=
  match fieldAt b 0 1 with
  | 1 => some 64
  | 2 => some (128 + 48 * fieldAt b 17 1)
  | 8 => some 8208
  | 9 => some 2080
  | 10 => some 1040
  | _ => none

/-- Every byte of [off, off + n) is zero. -/
def zerosAt (b : List Byte) (off n : Nat) : Bool := (slice b off n).all (fun x => x == 0)

/-- A PIPE block's fields are in range (R201). -/
def pipeOk (b : List Byte) : Bool :=
  decide (fieldAt b 16 1 ≤ 1) && [8, 10, 12].contains (fieldAt b 17 1) && decide (fieldAt b 18 1 ≤ 1) && decide (fieldAt b 19 1 ≤ 2)
    && decide (fieldAt b 20 4 < 2 ^ 30) && (fieldAt b 24 2 == 0 || (decide (16 ≤ fieldAt b 24 2) && decide (fieldAt b 24 2 ≤ 1024)))
    && (fieldAt b 26 2 == 0 || (decide (2 ≤ fieldAt b 26 2) && decide (fieldAt b 26 2 ≤ 64))) && decide (fieldAt b 29 1 ≤ 1)
    && zerosAt b 34 30

/-- A LAYER block's common fields are in range (R202). -/
def layerOk (b : List Byte) : Bool :=
  let k := fieldAt b 16 1
  let n := fieldAt b 17 1
  ((k == 0 && n == 0) || (k == 1 && n == 1) || (k == 2 && decide (n ≤ 64))) && decide (fieldAt b 18 1 ≤ 2)
    && decide (fieldAt b 20 2 ≤ 4096) && zerosAt b 19 1 && zerosAt b 22 2 && zerosAt b 120 8

/-- Whether a format code is one of R183. -/
def formatOk (f : Nat) : Bool := [0x10, 0x11, 0x20, 0x30, 0x31, 0x40].contains f

/-- A record's fields are in range, but for a static pitch below the minimum (R189, R203). -/
def recordOk (b : List Byte) : Bool :=
  let r := recordOf 0 b
  let sc := r.kind == 1 || r.kind == 2
  decide (fieldAt b 1 1 < 16) && decide (r.kind ≤ 2)
    && (if r.kind = 1 then decide (r.prod ≤ 3) && decide (r.pidx ≤ prodMax r.prod) else r.prod == 0 && r.pidx == 0)
    && zerosAt b 6 2 && decide (1 ≤ r.w) && decide (r.w ≤ 8192) && decide (1 ≤ r.h) && decide (r.h ≤ 8192)
    && (!sc || (decide (1 ≤ r.cw) && decide (r.cw ≤ 4096) && decide (1 ≤ r.ch) && decide (r.ch ≤ 4096)
          && decide (r.w ≤ 16 * r.cw) && decide (r.cw ≤ 8 * r.w) && decide (r.h ≤ 16 * r.ch) && decide (r.ch ≤ 8 * r.h)))
    && (!(r.kind == 0) || (zerosAt b 16 8 && decide (r.surf < 2 ^ 30) && zerosAt b 32 12))
    && (!(r.kind == 1) || zerosAt b 24 20)
    && (!(r.kind == 2) || (decide (r.surf % 256 = 0) && decide (r.pitch % 256 = 0) && formatOk r.format && zerosAt b 37 1
          && decide (1 ≤ r.width) && decide (r.width ≤ 4096) && decide (1 ≤ r.height) && decide (r.height ≤ 4096) && zerosAt b 42 2))
    && !(bit r.alarm 30)

/-- The first failing record of a LAYER block from record i on: its status and MEMBER. last is the member before. -/
def recordsFail (b : List Byte) (plane : Bool) : Nat → Nat → Option Nat → Option (Status × Nat)
  | 0, _, _ => none
  | n + 1, i, last =>
    let rb := slice b (128 + 48 * i) 48
    let m := fieldAt rb 0 1
    let order := match last with | some l => decide (m ≤ l) | none => false
    if decide (m > 63) || order || (plane && m != 0) || !(recordOk rb) then some (.badDescriptor, m)
    else
      let r := recordOf 0 rb
      if r.kind = 2 ∧ r.pitch < minPitch r.format r.width then some (.outOfBounds, m)
      else recordsFail b plane n (i + 1) (some m)

/-- The fourth check of R204 on one block: its failure's status and MEMBER. (DEDUCED: log entry 53.) -/
def blockFail (b : List Byte) : Option (Status × Nat) :=
  let bad : Option (Status × Nat) := some (.badDescriptor, 0xFF)
  if !(zerosAt b 3 1) || !(zerosAt b 8 8) then bad
  else
    match fieldAt b 0 1 with
    | 1 => if pipeOk b then none else bad
    | 2 => if layerOk b then recordsFail b (fieldAt b 16 1 == 1) (fieldAt b 17 1) 0 none else bad
    | 9 =>
      if (List.range 1025).all (fun i => decide (fieldAt b (16 + 2 * i) 2 < 4096)) && zerosAt b 2066 14 then none else bad
    | _ => none

/-- A type has a layer (R200). -/
def hasLayer (t : Nat) : Bool := t == 2 || t == 8 || t == 10

/-- Walk a load's blocks in buffer order (R204): the first failure, or the blocks with their keys. An unknown TYPE is no block
type without a layer, so its LAYER is as found. (DEDUCED: log entry 53.) -/
def walkBlocks (total : Nat) : Nat → Nat → List (Nat × List Byte) → List Byte → CompFail ⊕ List (Nat × List Byte)
  | 0, _, done, _ => .inr done
  | n + 1, off, done, buf =>
    if off ≥ total then .inr done
    else
      let t := fieldAt buf 0 1
      let pipe := fieldAt buf 1 1
      let layer := fieldAt buf 2 1
      let len := fieldAt buf 4 4
      let b := slice buf 0 len
      let shown := if t == 1 || t == 9 then 0xFF else layer
      let fail := fun st m => Sum.inl (β := List (Nat × List Byte)) (CompFail.mk st pipe shown m 2 off)
      if blockLen buf ≠ some len then fail .badDescriptor 0xFF
      else if off + len > total then fail .badDescriptor 0xFF
      else if pipe > 7 ∨ layer > 7 ∨ (!(hasLayer t) ∧ layer ≠ 0) ∨ done.any (fun e => e.1 == blockKey t pipe layer) then
        fail .badDescriptor 0xFF
      else
        match blockFail b with
        | some (st, m) => fail st m
        | none => walkBlocks total n (off + len) (done ++ [(blockKey t pipe layer, b)]) (buf.drop len)

/-- The blocks of a buffer are checked and replace the shadows, or the job ends with the failing check (R204). -/
def loadBlocks (s : State) (j : Job) (buf : List Byte) : State :=
  match walkBlocks buf.length (buf.length / 16 + 1) 0 [] buf with
  | .inl f => s.finish j f.st 0 f.result
  | .inr bs =>
    let s : State := { s with cmp.shd := bs.foldl (fun t e => t.set e.1 e.2) s.cmp.shd }
    (mirrorOut s 1 buf).finish j .done 0 compNone

/-- The checks of StateLoad (R204, R333). (DEDUCED: log entry 35.) -/
def stateLoadSpec (s : State) (j : Job) : CmdSpec :=
  let addr := j.n 16 8
  let len := j.n 24 4
  { pf0 := false, ready := s.isReady 2, body := j.zero [(28, 36)],
    own := [chkOwner s j 1, chk (decide (len < 16 ∨ len > 0x100000 ∨ len % 16 ≠ 0)) .badDescriptor,
            chkAperture s addr len, chk (decide (addr % 16 ≠ 0)) .badDescriptor, chkMpu s 2 (s.hostInternal addr) len false] }

/-- STATE_LOAD (R204): buf is what the buffer holds. -/
def doStateLoad (s : State) (j : Job) (buf : List Byte) : State :=
  let addr := j.n 16 8
  let len := j.n 24 4
  runComp s j (stateLoadSpec s j)
    (fun s => s.hostFetch j [(addr, len)] buf (fun s b => loadBlocks s j (slice b 0 len)))

/-! ## Commit validation (R207) -/

/-- The outputs of a mask, in ascending order. -/
def outsOf (m : Nat) : List Nat := (List.range 8).filter (bit m)

/-- Output n belongs to a locked split pair (R230). -/
def inSplit (s : State) (n : Nat) : Bool := (s.tg n).cfg.split

/-- The other output of a pair. -/
def partner (n : Nat) : Nat := if n % 2 = 0 then n + 1 else n - 1

/-- The output whose generator output n runs from: the even one of its pair (R230, R231), else itself. -/
def State.pairLead (s : State) (n : Nat) : Nat := if (s.tg n).odd then partner n else n

/-- The size of the surface a pool or static record reads; none where its pool is not set or REDUCED does not fit (R207 step 3). -/
def surfaceSize (s : State) (r : LRec) : Option (Nat × Nat) :=
  if r.kind = 2 then (if r.reduced then none else some (r.width, r.height))
  else
    match s.surface r.key with
    | none => none
    | some f =>
      if !r.reduced then some (f.width, f.height)
      else if r.prod = 0 ∧ f.reduce ≠ 0 then some f.rsize
      else none

/-- The first record of the named outputs' shadows that a check turns away. -/
def firstRec (s : State) (outs : List Nat) (step : Nat) (st : Status) (bad : Nat → LRec → Bool) : Option CompFail :=
  outs.findSome? (fun p =>
    ((pipeRecords s true p).find? (bad p)).map (fun r => CompFail.mk st p r.layer r.member step 0))

/-- The active-area parts of steps 4 and 6 apply: the output has a mode, or its shadow has ENABLE 1. -/
def areaChecked (s : State) (p : Nat) : Bool := decide ((s.tg p).cfg.idx ≠ 0) || pipeEnable (s.shdBlock bPIPE p 0)

/-- Step 4: the crop lies within the surface, and the rectangle meets the active area. -/
def boundsBad (s : State) (p : Nat) (r : LRec) : Bool :=
  (!(r.kind == 0) && (match surfaceSize s r with
    | some (w, h) => decide (r.cx + r.cw > w) || decide (r.cy + r.ch > h)
    | none => true))
    || (areaChecked s p && (let (w, h) := s.active p; (r.clip w h).isNone))

/-- Two rectangles share a pixel. -/
def rectsMeet (a b : LRec) : Bool :=
  decide (a.x < b.x + b.w) && decide (b.x < a.x + a.w) && decide (a.y < b.y + b.h) && decide (b.y < a.y + a.h)

/-- Step 5: the higher member of the first overlapping pair of a tile set. -/
def overlapIn (rs : List LRec) : Option LRec :=
  rs.find? (fun r => rs.any (fun q => decide (q.member < r.member) && rectsMeet q r))

def overlapFail (s : State) (outs : List Nat) : Option CompFail :=
  outs.findSome? (fun p => (List.range 8).findSome? (fun l =>
    let b := s.shdBlock bLAYER p l
    if fieldAt b 16 1 = 2 then
      (overlapIn (layerRecords l b)).map (fun r => CompFail.mk .tileOverlap p l r.member 5 0)
    else none))

/-- What a record costs on a line it lies on (R192). -/
def lineCost (r : LRec) : Nat := if r.kind = 0 then 0 else r.cw * ((4 * max r.h r.ch + r.h - 1) / r.h + 1)

/-- The records of a pipe whose clipped rectangle contains line y. -/
def onLine (rs : List LRec) (wd ht y : Nat) : List LRec :=
  rs.filter (fun r => match r.clip wd ht with | some (_, y0, _, y1) => decide (y0 ≤ y ∧ y < y1) | none => false)

/-- The sum of R192 on a line. -/
def lineSum (rs : List LRec) (wd ht y : Nat) : Nat := (onLine rs wd ht y).foldl (fun t r => t + lineCost r) 0

/-- The line-buffer pool (R192). -/
def lbufPool : Nat := 262144

/-- The record whose addition first takes the running sum over the pool, with that sum. -/
def overPool : Nat → List LRec → Option (LRec × Nat)
  | _, [] => none
  | t, r :: rs => if t + lineCost r > lbufPool then some (r, t + lineCost r) else overPool (t + lineCost r) rs

/-- Step 6: the lowest over-budget line. -/
def budgetFail (s : State) (outs : List Nat) : Option CompFail :=
  outs.findSome? (fun p =>
    if areaChecked s p then
      let (wd, ht) := s.active p
      let rs := pipeRecords s true p
      (List.range ht).findSome? (fun y =>
        (overPool 0 (onLine rs wd ht y)).map (fun (r, sum) =>
          CompFail.mk .linebufExceeded p r.layer r.member 6 (y * 2 ^ 20 + sum)))
    else none)

/-- Step 7: a bound tile shows a pool surface of its source, and under the policy lock every pool record is bound (R15, R25). -/
def bindingBad (s : State) (p : Nat) (r : LRec) : Bool :=
  match (s.bindShd (r.tile p)).source with
  | some i => !(r.kind == 1) || !((s.source i).prod == some r.key)
  | none => s.policyLock && r.kind == 1

/-- Steps 1 and 3 to 7 of commit validation (R207). -/
def validateCommit (s : State) (m : Nat) : Option CompFail :=
  let outs := outsOf m
  let notReady := outs.find? (fun p =>
    !(s.isReady (18 + p)) || (pipeEnable (s.shdBlock bPIPE p 0) && (!(s.isReady 27) || (s.tg p).cfg.idx == 0)))
  let half := outs.find? (fun p => inSplit s p && !(bit m (partner p)))
  match notReady, half with
  | some p, _ => some ⟨.notReady, p, 0xFF, 0xFF, 1, 0⟩
  | none, some p => some ⟨.badDescriptor, p, 0xFF, 0xFF, 1, 0⟩
  | none, none =>
    (firstRec s outs 3 .badDescriptor (fun _ r => if r.kind = 0 then r.reduced else (surfaceSize s r).isNone)).or
      ((firstRec s outs 4 .outOfBounds (boundsBad s)).or
        ((overlapFail s outs).or
          ((budgetFail s outs).or (firstRec s outs 7 .badDescriptor (bindingBad s)))))

/-! ## COMMIT (R206 to R210, R359) -/

/-- COMMIT is not served by a device that is not OWNER where it sets MIRROR_ACK (R355). -/
def chkCommitOwner (s : State) (j : Job) : Option Refuse := if bit (j.n 17 1) 0 then chkOwner s j 2 else none

/-- The descriptor checks of COMMIT (R206). -/
def commitSpec (s : State) (j : Job) : CmdSpec :=
  { pf0 := false, ready := true, body := j.onlyBits 17 1 1 && j.zero [(18, 46)],
    own := [chkCommitOwner s j, chk (j.n 16 1 == 0) .badDescriptor] }

/-- COMMIT (R206): its descriptor is checked, and validation starts. -/
def doCommit (s : State) (j : Job) : State :=
  runComp s j (commitSpec s j) (fun s => { s with commits := s.commits ++
      [{ job := j, outs := j.n 16 1, stage := 0, left := 0, late := 0, skip := 0, recId := 0, sentAt := 0 }] })

/-- The commit of a given stage that names output p. -/
def State.commitOf (s : State) (stage p : Nat) : Option CommitRec :=
  s.commits.find? (fun c => c.stage == stage && bit c.outs p)

/-- Replace a commit. -/
def State.putCommit (s : State) (c c' : CommitRec) : State :=
  { s with commits := s.commits.map (fun x => if x == c then c' else x) }

/-- Remove a commit. -/
def State.dropCommit (s : State) (c : CommitRec) : State := { s with commits := s.commits.erase c }

/-- The ACK of a mirrored commit whose owner asked for one (R359). -/
def commitAck (s : State) (j : Job) (st : Status) : State :=
  match j.org with
  | .mirror _ rid true =>
    let s : State := mirrorPacket s 1 0 0 st.code rid 0 0 []
    mirrorPump s.mir.waiting.length s
  | _ => s

/-- A commit is rejected: counted for every output it names, and completed (R207, R208). -/
def rejectCommit (s : State) (c : CommitRec) (f : CompFail) : State :=
  let s : State := s.dropCommit c
  let s : State := (outsOf c.outs).foldl (fun s p => s.bump (Reg.CMP_REJECT_CNT + 0x1000 * p)) s
  let s : State := commitAck s c.job f.st
  s.finish c.job f.st 0 f.result

/-- Step 8 has failed (R359). -/
def ackFailed (s : State) (c : CommitRec) : State :=
  rejectCommit (s.bump Reg.FAB_MIR_TIMEOUT_CNT) c ⟨.mirrorTimeout, (outsOf c.outs).headD 0, 0xFF, 0xFF, 8, 0⟩

/-- A pipe right after reset. -/
def PipeRec.init : PipeRec :=
  { lastLate := false, blankBy := none, blanked := false, endBlank := false, nextBlank := none }
def State.pipe (s : State) (p : Nat) : PipeRec := s.cmp.pipes.getD p PipeRec.init
def State.setPipe (s : State) (p : Nat) (r : PipeRec) : State := { s with cmp.pipes := s.cmp.pipes.set p r }

/-- Output p takes its shadow (R205, R209): blocks and tile bindings; a blank hold is told of it (R248). -/
def applyShadow (s : State) (p : Nat) (late : Bool) : State :=
  let (mine, rest) := s.cmp.shd.partition (fun e => e.1 / 8 % 8 == p)
  let s : State := { s with cmp.shd := rest, cmp.act := mine.foldl (fun a e => a.set e.1 e.2) s.cmp.act }
  let s : State := applyBindings s p
  let r := s.pipe p
  let s : State := s.setPipe p { r with lastLate := late, endBlank := r.endBlank || r.blankBy.isSome, nextBlank := none }
  let s : State := s.bump (Reg.CMP_COMMIT_CNT + 0x1000 * p)
  if late then s.bump (Reg.CMP_LATE_CNT + 0x1000 * p) else s

/-- An accepted commit applies on output p, and completes once every named output has applied (R209, R280). (DEDUCED: log entry 54.) -/
def applyOn (s : State) (c : CommitRec) (p : Nat) : State :=
  let s : State := applyShadow s p (bit c.late p)
  let c' := { c with left := setBit c.left p false }
  if c'.left = 0 then
    (s.dropCommit c).finish c.job .done (b2n (c.late ≠ 0)) (compResult 0xFF 0xFF 0xFF 0 c.late)
  else s.putCommit c c'

/-- GUARD_LINES of a running output has closed for the frame in progress (R209). (DEDUCED: log entry 54.) -/
def guardClosed (s : State) (p : Nat) : Bool :=
  let g := s.tg p
  let v := (s.active p).2
  let n := min (pipeGuard (s.actBlock bPIPE p 0)) (v - 1)
  g.running && g.started && !g.blanking && decide (g.line ≥ v - n)

/-- Validation has ended with DONE (R209): each named output applies at its next boundary, one frame later where its guard has
closed (or its pair's, so that both apply at their common boundary, R206), at once where its generator is stopped.
(DEDUCED: log entry 54.) -/
def acceptCommit (s : State) (c : CommitRec) : State :=
  let outs := outsOf c.outs
  let closed := fun p => guardClosed s p || (inSplit s p && guardClosed s (partner p))
  let late := outs.foldl (fun m p => if closed p then setBit m p true else m) 0
  let c' := { c with stage := 2, left := c.outs, late := late, skip := late }
  let s : State := commitAck (s.putCommit c c') c.job .done
  (outs.filter (fun p => !(s.tg p).running)).foldl (fun s p =>
    match s.commitOf 2 p with
    | some c => applyOn s c p
    | none => s) s

/-- A commit whose owner is OWNER no more completes with NOT_OWNER (R359). (DEDUCED: log entry 87.) -/
def notOwnerNow (s : State) (c : CommitRec) : State := (s.dropCommit c).finish c.job .notOwner 0 0xFFFFFF

/-- COMMIT_VALIDATION (R207, R359): validation of the commit that names output p ends. (DEDUCED: log entry 87.) -/
def doCommitValidation (s : State) (p : Nat) : State :=
  match s.commitOf 0 p with
  | none => s
  | some c =>
    match validateCommit s c.outs with
    | some f => rejectCommit s c f
    | none =>
      let ring := match c.job.org with | .ring _ _ => true | .mirror _ _ _ => false
      if ring && bit (c.job.n 17 1) 0 then
        if s.pair.enable && decide (s.pair.state ≠ 3) then notOwnerNow s c
        else if s.pair.enable && s.peerUp then
          let rid := s.mir.recId
          let s : State := s.putCommit c { c with stage := 1, recId := rid, sentAt := s.clk }
          mirrorRecord s 2 8 (c.job.bytes 16 48)
        else ackFailed s c
      else acceptCommit s c

/-- The boundary of output n comes for the accepted commit that names it (R209): the commit applies there, unless its guard had
closed and this boundary is skipped. -/
def boundaryCommit (s : State) (n : Nat) : State :=
  match s.commitOf 2 n with
  | none => s
  | some c =>
    if !(bit c.left n) then s
    else if bit c.skip n then s.putCommit c { c with skip := setBit c.skip n false }
    else applyOn s c n

/-- The frame boundary of output n is reached by its first event, and its commit applies with it (R209, R228). -/
def atBoundary (s : State) (n : Nat) : State :=
  let g := s.tg n
  if g.running ∧ g.blanking then s
  else
    let s : State := if g.running then s.setTg n { g with blanking := true } else s
    boundaryCommit s n

/-- COMMIT_APPLY (R209): the frame boundary of output n. -/
def doCommitApply (s : State) (n : Nat) : State := atBoundary s n

/-! ## LIVE_SET (R212) -/

/-- Replace bytes of a block. -/
def putBytes (b : List Byte) (off : Nat) (x : List Byte) : List Byte := b.take off ++ x ++ b.drop (off + x.length)

/-- The index of a tile's record in a LAYER block. -/
def memberIdx (b : List Byte) (m : Nat) : Option Nat :=
  if fieldAt b 16 1 = 0 then none
  else (List.range (fieldAt b 17 1)).find? (fun i => fieldAt b (128 + 48 * i) 1 == m)

/-- A LAYER block with the ALARM word of a member replaced. -/
def putAlarm (b : List Byte) (m v : Nat) : List Byte :=
  match memberIdx b m with
  | some i => putBytes b (128 + 48 * i + 44) (leBytes 4 v)
  | none => b

/-- Change a block of a pipe in the active state and in the shadow alike. -/
def changeBlock (s : State) (type p layer : Nat) (f : List Byte → List Byte) : State :=
  let k := blockKey type p layer
  let s : State := match s.cmp.shd.get? k with
    | some b => { s with cmp.shd := s.cmp.shd.set k (f b) }
    | none => s
  { s with cmp.act := s.cmp.act.set k (f (s.actBlock type p layer)) }

/-- Set STEAM of a tile in its active and shadow bindings. -/
def setSteam (s : State) (t : Nat) (v : Bool) : State :=
  let s : State := match s.fum.shadow.get? t with
    | some b => { s with fum.shadow := s.fum.shadow.set t { b with steam := v } }
    | none => s
  { s with fum.act := s.fum.act.set t { s.bindAct t with steam := v } }

/-- The checks of LiveSet (R212). -/
def liveSetSpec (s : State) (j : Job) : CmdSpec :=
  let p := j.n 16 1
  let item := j.n 17 1
  let t := j.n 18 2
  let v := j.n 20 4
  let low := item == 0 || item == 1
  let bitsOk := match item with
    | 1 => decide (v < 512)
    | 2 => !(bit v 30)
    | 3 => decide (v < 2)
    | _ => true
  { pf0 := false, ready := decide (p > 7) || s.isReady (18 + p), body := j.zero [(24, 40)] && (!low || t == 0) && bitsOk,
    own := [chkOwner s j 1, chk (decide (p > 7) || decide (item > 3)) .badDescriptor,
            chk (!low && (decide (t ≥ 4096) || decide (t / 512 ≠ p)
              || ((tileRecord s false t).isNone && (tileRecord s true t).isNone))) .badDescriptor] }

/-- LIVE_SET (R212). -/
def doLiveSet (s : State) (j : Job) : State :=
  let p := j.n 16 1
  let item := j.n 17 1
  let t := j.n 18 2
  let v := j.n 20 4
  runJob s j (liveSetSpec s j) (fun s =>
    let s : State := match item with
      | 0 => changeBlock s bPIPE p 0 (fun b => putBytes b 30 (leBytes 4 v))
      | 1 => changeBlock s bPIPE p 0 (fun b => putBytes b 28 (leBytes 1 (v % 256) ++ leBytes 1 (v / 256)))
      | 2 => changeBlock s bLAYER p (t % 512 / 64) (fun b => putAlarm b (t % 64) v)
      | _ => setSteam s t (bit v 0)
    s.finish j .done 0 0)

/-! ## Slates (R216, R217) -/

def State.setSlate (s : State) (k : Nat) (r : SlateRec) : State := { s with cmp.slates := s.cmp.slates.set k r }

/-- A slot's loaded state, with CMP_SLATE for a change (R217). -/
def setLoaded (s : State) (k : Nat) (v : Bool) : State :=
  let r := s.slate k
  if r.loaded = v then s else (s.setSlate k { r with loaded := v }).raise 0x0503 (leBytes 1 k ++ leBytes 1 (b2n v))

/-- The outputs whose generators run, as a mask. -/
def runningMask (s : State) : Nat := (List.range 8).foldl (fun m n => if (s.tg n).running then setBit m n true else m) 0

/-- A copied slot is loaded once every running output has had a frame start since (R217). (DEDUCED: log entry 55.) -/
def settleSlate (s : State) (k : Nat) : State :=
  let r := s.slate k
  if r.copied ∧ (List.range 8).all (fun n => !(s.tg n).running || bit r.seen n) then setLoaded s k true else s

/-- Output n has a frame start: copied slots note it (R217). (DEDUCED: log entry 55.) -/
def slatesSeen (s : State) (n : Nat) : State :=
  (s.cmp.slates.filter (fun e => e.2.copied)).foldl (fun s e =>
    let r := s.slate e.1
    settleSlate (s.setSlate e.1 { r with seen := setBit r.seen n true }) e.1) s

/-- The master that writes the slate store: NC0, or the mirror writer for a mirrored load (R216, R357). -/
def slateMid (j : Job) : Nat := match j.org with | .ring _ _ => 2 | .mirror _ _ _ => 0x3A

/-- A load of slot k starts: the slot is not loaded from that moment (R217). -/
def slateBegin (s : State) (j : Job) : State :=
  let k := j.n 16 1
  (setLoaded s k false).setSlate k { SlateRec.init with width := j.n 18 2, height := j.n 20 2 }

/-- The copy of an image into its slot is under way (R216). -/
def slateCopy (s : State) (j : Job) (img : List Byte) : State := { s with cmp.copies := s.cmp.copies ++ [(j, img)] }

/-- WIDTH or HEIGHT of a SLATE_LOAD that is no UNLOAD is out of range (R216). -/
def slateSize (j : Job) : Bool :=
  !(bit (j.n 17 1) 0) && (decide (j.n 18 2 < 1 ∨ j.n 18 2 > 512) || decide (j.n 20 2 < 1 ∨ j.n 20 2 > 512))

/-- CMP_SLATE_BASE is not set (R216). (DEDUCED: log entry 55.) -/
def noSlateStore (s : State) : Bool := !(bit (s.reg Reg.CMP_SLATE_BASE) 31)

/-- The checks of SlateLoad (R216, R333). (DEDUCED: log entry 35; DEDUCED: log entry 55.) -/
def slateLoadSpec (s : State) (j : Job) : CmdSpec :=
  let un := bit (j.n 17 1) 0
  let w := j.n 18 2
  let h := j.n 20 2
  let addr := j.n 24 8
  let pitch := j.n 32 4
  let span := pitch * (h - 1) + 4 * w
  let slot := s.slateBase + (j.n 16 1) * 2 ^ 20
  { pf0 := false, ready := s.isReady 2, body := j.onlyBits 17 1 1 && j.zero [(22, 2), (36, 28)],
    own := [chkOwner s j 5, chk (slateSize j || (!un && (decide (pitch % 4 ≠ 0) || decide (pitch < 4 * w)))) .badDescriptor,
            if un then none else chkAperture s addr span,
            chk (noSlateStore s || (!un && decide (addr % 4 ≠ 0))) .badDescriptor,
            if un then none else chkMpu s 2 (s.hostInternal addr) span false,
            if un then none else chkMpu s 2 slot (2 ^ 20) true] }

/-- SLATE_LOAD (R216): img holds the image rows, 4 × WIDTH bytes each, which the copy reads from host memory. -/
def doSlateLoad (s : State) (j : Job) (img : List Byte) : State :=
  let un := bit (j.n 17 1) 0
  let w := j.n 18 2
  let h := j.n 20 2
  let addr := j.n 24 8
  let pitch := j.n 32 4
  runJob s j (slateLoadSpec s j) (fun s =>
    if un then
      let k := j.n 16 1
      let s : State := setLoaded s k false
      let s : State := s.setSlate k { (s.slate k) with copied := false, seen := 0 }
      (mirrorOut s 5 (j.bytes 16 20)).finish j .done 0 0
    else
      (slateBegin s j).hostFetch j ((List.range h).map (fun y => (addr + pitch * y, 4 * w))) img
        (fun s b => slateCopy s j (slice b 0 (4 * w * h))))

/-- Copy an image's rows into a slot until an access is denied (R457). -/
def slateRows (j : Job) (slot w : Nat) : Nat → Nat → List Byte → State → State × Bool
  | 0, _, _, s => (s, true)
  | n + 1, y, img, s =>
    let host := s.hostInternal (j.n 24 8 + j.n 32 4 * y)
    let ring := match j.org with | .ring _ _ => true | .mirror _ _ _ => false
    match (if ring then firstDenied s 2 host (4 * w) else none) with
    | some (a, l) => (s.mpuDeny 2 a l false, false)
    | none =>
      match firstDenied s (slateMid j) (slot + 2048 * y) (4 * w) with
      | some (a, _) =>
        let k := a - (slot + 2048 * y)
        let s : State := if k = 0 then s else s.wr (slateMid j) (slot + 2048 * y) (img.take k)
        (s.wr (slateMid j) a ((img.drop k).take (min 64 (4 * w - k))), false)
      | none =>
        slateRows j slot w n (y + 1) (img.drop (4 * w)) (s.wr (slateMid j) (slot + 2048 * y) (img.take (4 * w)))

/-- SLATE_COPY_END (R216, R217, R457): the rows are in the slot, and the SLATE_LOAD completes. -/
def doSlateCopyEnd (s : State) (k : Nat) : State :=
  match s.cmp.copies.find? (fun e => e.1.n 16 1 == k) with
  | none => s
  | some (j, img) =>
    let w := j.n 18 2
    let h := j.n 20 2
    let s : State := { s with cmp.copies := s.cmp.copies.erase (j, img) }
    let (s, ok) := slateRows j (s.slateBase + k * 2 ^ 20) w h 0 img s
    if ok then
      let s : State := s.setSlate k { (s.slate k) with copied := true, seen := 0 }
      let s : State := settleSlate s k
      (mirrorOut s 5 (j.bytes 16 20 ++ img)).finish j .done 0 0
    else s.finish j .denied 4 0

/-! ## Register views -/

def viewPipeStatus (s : State) (p : Nat) : Nat :=
  let layers := (List.range 8).foldl (fun m l => if fieldAt (s.actBlock bLAYER p l) 16 1 ≠ 0 then setBit m l true else m) 0
  let differs := s.cmp.shd.any (fun e => e.1 / 8 % 8 == p && !(s.actBlock (e.1 / 64) p (e.1 % 8) == e.2))
    || s.fum.shadow.any (fun e => e.1 / 512 == p && !(s.bindAct e.1 == e.2))
  layers * 256 + 16 * b2n (inSplit s p) + 8 * b2n (s.pipe p).lastLate + 4 * b2n differs
    + 2 * b2n (s.commits.any (fun c => c.stage == 2 && bit c.left p)) + b2n (s.enabled p)

/-- CMP_LBUF_PEAK: the highest per-line sum of the active state and the lowest line that carries it. -/
def viewLbufPeak (s : State) (p : Nat) : Nat :=
  let (wd, ht) := s.active p
  let rs := pipeRecords s false p
  let (line, top) := (List.range ht).foldl (fun (m : Nat × Nat) y =>
    let v := lineSum rs wd ht y
    if v > m.2 then (y, v) else m) (0, 0)
  line * 2 ^ 20 + top % 2 ^ 19

/-- CMP_SLATE_LOADED(w). -/
def viewSlateLoaded (s : State) (w : Nat) : Nat :=
  (s.cmp.slates.filter (fun e => e.1 / 32 == w && e.2.loaded)).foldl (fun m e => setBit m (e.1 % 32) true) 0

end Machine
end Sys2Proof
end

