-- ==== Sys2Proof/Machine/Scanout.lean ====
section
/-! DEFINITION. Scan-out: MODE_SET, timing generators, frame starts and phase lock, source-paced frames, the fallback, DisplayPort
sources, and the reporting of check results (R61 to R66, R219 to R238, R248, R254, R255). -/

namespace Sys2Proof
namespace Machine

/-! ## Reporting of check results (R243, R244, R255) -/

/-- CHK_RESULT, beside PAIR_ALARM for a change of result (R350). -/
def raiseChk (s : State) (c old new count : Nat) : State :=
  let r := s.chk c
  let f := (s.tg (c / 16)).frame % 2 ^ 32
  pairAlarm (s.raise 0x0630 (leBytes 1 c ++ leBytes 1 old ++ leBytes 1 new ++ leBytes 1 r.mode ++ leBytes 1 (min count 255) ++ leBytes 4 f))
    0x0630 c new f

/-- A rectangle reports a result: a change outside a window is raised at once and opens one; within it is counted (R255). -/
def chkReport (s : State) (c new : Nat) : State :=
  let r := s.chk c
  if r.result = new then s
  else if r.win then s.setChk c { r with result := new, winCnt := r.winCnt + 1 }
  else raiseChk (s.setChk c { r with result := new, win := true, winRes := new, winCnt := 0 }) c r.result new 1

/-- CHK_RESULT_WINDOW_END (R255). (DESIGN CHOICE: log entry 4.) -/
def doChkWindowEnd (s : State) (c : Nat) : State :=
  let r := s.chk c
  let s : State := s.setChk c { r with win := false, winCnt := 0 }
  if r.win ∧ r.winCnt ≠ 0 then raiseChk s c r.winRes r.result r.winCnt else s

/-- The rectangles of an output. -/
def chksOf (n : Nat) : List Nat := (List.range 16).map (fun i => 16 * n + i)

/-- The rectangle lies wholly within an area (R239). -/
def ChkRec.within (r : ChkRec) (wd ht : Nat) : Bool := decide (r.x + r.w ≤ wd) && decide (r.y + r.h ≤ ht)

/-- A rectangle reports result 2 whatever it reported before: a change of R255 in a window counts, and one outside it is raised.
(DEDUCED: log entry 119.) -/
def chkForce (s : State) (c : Nat) : State :=
  let r := s.chk c
  if r.win then s.setChk c { r with result := 2, winCnt := r.winCnt + 1 }
  else raiseChk (s.setChk c { r with result := 2, win := true, winRes := 2, winCnt := 0 }) c r.result 2 1

/-- Rectangles of output n that leave a new active area take MODE OFF, and each raises CHK_RESULT with new result 2 (R229).
(DEDUCED: log entry 119.) -/
def trimChecks (s : State) (n wd ht : Nat) : State :=
  (chksOf n).foldl (fun s c =>
    let r := s.chk c
    if r.mode ≠ 0 ∧ !(r.within wd ht) then chkForce (s.setChk c { r with mode := 0 }) c else s) s

/-! ## DisplayPort sources (R232 to R237) -/

/-- A source right after reset: no sink. -/
def DpRec.init : DpRec :=
  { hpd := false, caps := { maxRate := 0, maxLanes := 1, tps3 := false, tps4 := false, adaptive := false }, trained := false,
    rate := 0, lanes := 0, limRate := 0, limLanes := 0, tryRate := 0, tryLanes := 0, training := false, retry := false, drive := 0, depth := 8, short := false,
    msaIgnore := false, pattern := 2, edid := [], edidOk := false, edidBusy := false, wholeFrame := false }

def State.dp (s : State) (n : Nat) : DpRec := s.scan.dps.getD n DpRec.init
def State.setDp (s : State) (n : Nat) (r : DpRec) : State := { s with scan.dps := s.scan.dps.set n r }

/-- Lane rates in Hz (R233). -/
def laneRate : Nat → Nat
  | 0 => 1620000000 | 1 => 2700000000 | 2 => 5400000000 | _ => 8100000000

/-- A link of this rate and lane count carries a mode at b bits per component (R233). -/
def linkCarries (m : ModeInfo) (rate lanes b : Nat) : Bool := decide (m.num * 3 * b * 1000 ≤ m.den * 792 * lanes * laneRate rate)

/-- The effective depth of a mode on a link, at most OUT_BPC; none where even 8 does not fit (R233). -/
def effDepth (m : ModeInfo) (rate lanes bpc : Nat) : Option Nat :=
  [12, 10, 8].find? (fun b => decide (b ≤ bpc) && linkCarries m rate lanes b)

/-- DP_LINK (R255). -/
def raiseLink (s : State) (n cause : Nat) : State :=
  let r := s.dp n
  s.raise 0x0601 (leBytes 1 n ++ leBytes 1 (b2n r.trained) ++ leBytes 1 r.rate ++ leBytes 1 r.lanes
    ++ leBytes 1 (if r.trained then r.depth else 0) ++ leBytes 1 cause)

/-- Re-evaluate the effective depth (R233); a link that has become too small raises DP_LINK with cause 3. (DEDUCED: log entry 65.) -/
def dpDepth (s : State) (n : Nat) : State :=
  let r := s.dp n
  match modeInfo (s.tg n).cfg.idx with
  | none => s.setDp n { r with short := false }
  | some m =>
    if !r.trained then s
    else
      match effDepth m r.rate r.lanes (pipeBpc (s.actBlock bPIPE n 0)) with
      | some b => s.setDp n { r with depth := b, short := false }
      | none =>
        let s : State := s.setDp n { r with short := true }
        if r.short then s else raiseLink s n 3

/-- The source begins to train at its highest configuration (R234). -/
def dpStart (s : State) (n : Nat) : State :=
  let r := s.dp n
  let c := (s.tg n).cfg
  if r.hpd ∧ c.idx ≠ 0 then
    s.setDp n { r with training := true, retry := false, trained := false, rate := 0, lanes := 0, wholeFrame := false, short := false,
                       limRate := c.rate, limLanes := c.lanes, tryRate := min c.rate r.caps.maxRate, tryLanes := min c.lanes r.caps.maxLanes }
  else s

/-- A trained link is lost: DP_LINK cause 1, and the source trains again. -/
def dpRetrain (s : State) (n : Nat) : State :=
  let r := s.dp n
  let s : State := s.setDp n { r with trained := false, rate := 0, lanes := 0, wholeFrame := false, short := false }
  let s : State := if r.trained then raiseLink s n 1 else s
  dpStart s n

/-- HPD_UNPLUG (R235). -/
def doHpdUnplug (s : State) (n : Nat) : State :=
  let r := s.dp n
  if !r.hpd then s
  else
    let s : State := s.setDp n { r with
      hpd := false, trained := false, training := false, retry := false, rate := 0, lanes := 0, short := false,
      wholeFrame := false }
    raiseLink (s.raise 0x0600 (leBytes 1 n ++ leBytes 1 0)) n 4

/-- HPD_PLUG (R235): caps are what the DPCD receiver capabilities say. -/
def doHpdPlug (s : State) (n : Nat) (caps : SinkCaps) : State :=
  let r := s.dp n
  if r.hpd then s
  else
    let s : State := s.setDp n { r with hpd := true, caps := caps }
    dpStart (s.raise 0x0600 (leBytes 1 n ++ leBytes 1 1)) n

/-- IRQ_HPD (R235): lost says that DPCD 0x0_0200 to 0x0_0205 show a lost lane. -/
def doIrqHpd (s : State) (n : Nat) (lost : Bool) : State :=
  let r := s.dp n
  if !r.hpd then s
  else
    let s : State := (s.bump (Reg.OUT_DP_IRQ_HPD + 0x100 * n)).raise 0x0600 (leBytes 1 n ++ leBytes 1 2)
    if lost then dpRetrain s n else s

/-- The configuration tried after a failure (R234); none where the lowest that carries the mode has failed. The lanes come back
when the rate falls. (DEDUCED: log entry 65.) -/
def nextTrain (m : ModeInfo) (top : Nat) (cr : Bool) (rate lanes : Nat) : Option (Nat × Nat) :=
  let slower := fun l => if rate ≠ 0 ∧ linkCarries m (rate - 1) l 8 then some (rate - 1, l) else none
  if cr then slower lanes
  else if lanes > 1 ∧ linkCarries m rate (lanes / 2) 8 then some (rate, lanes / 2)
  else slower top

/-- A training pass of output n failed: the next rate and lane count to try, or the end of the training (R234).
(DEDUCED: log entry 65.) -/
def trainFailed (s : State) (n : Nat) (m : ModeInfo) (lanes : Nat) (cr : Bool) : State :=
  let r := s.dp n
  match nextTrain m lanes cr r.tryRate r.tryLanes with
  | some (x, l) => s.setDp n { r with tryRate := x, tryLanes := l }
  | none => raiseLink ((s.setDp n { r with training := false, retry := true }).bump (Reg.OUT_DP_TRAIN_FAIL + 0x100 * n)) n 2

/-- The pattern of channel equalization at a lane rate (R232): TPS4 at HBR3 where the sink declares it, else TPS3 where declared, else
TPS2. (PRESUMED: log entry 120.) -/
def eqPattern (caps : SinkCaps) (rate : Nat) : Nat := if rate = 3 ∧ caps.tps4 then 4 else if caps.tps3 then 3 else 2

/-- The drive of one lane as the source writes it (R232): swing in bits 1:0, pre-emphasis in bits 4:3, their sum at most 3, with
the maximum-reached bits 2 and 5 at level 3. (PRESUMED: log entry 120.) -/
def laneDrive (d : Nat) : Nat :=
  let swing := bits d 1 0
  let pre := min (bits d 3 2) (3 - swing)
  swing + 4 * b2n (swing = 3) + 8 * pre + 32 * b2n (pre = 3)

/-- The drives of four lanes, of a word that holds what the sink requested: four bits a lane. (PRESUMED: log entry 120.) -/
def driveWord (d : Nat) : Nat := (List.range 4).foldl (fun w i => w + laneDrive (bits d (4 * i + 3) (4 * i)) * 2 ^ (8 * i)) 0

/-- The drives of four lanes as OUT_DP_DRIVE.LEVELS holds them (R232): swing in two bits and pre-emphasis in two a lane. -/
def levelsWord (d : Nat) : Nat :=
  (List.range 4).foldl (fun w i =>
    let e := laneDrive (bits d (4 * i + 3) (4 * i))
    w + (bits e 1 0 + 4 * bits e 4 3) * 2 ^ (4 * i)) 0

/-- One training pass as the sink's DPCD sees it (R232, R234): rate and lanes tried, no down-spreading, TPS1 for clock recovery, and,
where that succeeded, the equalization pattern. (PRESUMED: log entry 120.) -/
def trainWrites (s : State) (n : Nat) (cr : Bool) : State :=
  let r := s.dp n
  let e := eqPattern r.caps r.tryRate
  let s : State := s.setDp n { r with pattern := e }
  let s : State := s.emit (.dpcd n "LINK_BW_SET" ([6, 10, 20, 30].getD r.tryRate 30))
  let s : State := s.emit (.dpcd n "LANE_COUNT_SET" r.tryLanes)
  let s : State := s.emit (.dpcd n "SPREAD_AMP" 0)
  let s : State := s.emit (.dpcd n "TRAINING_PATTERN" 1)
  if cr then s.emit (.dpcd n "TRAINING_PATTERN" e) else s

/-- DP_LINK_TRAINING (R232, R234, R236): one training pass of the configuration tried. -/
def doDpTraining (s : State) (n : Nat) (res : TrainResult) : State :=
  let r := s.dp n
  let c := (s.tg n).cfg
  match modeInfo c.idx with
  | none => s
  | some m =>
    if !r.training then s
    else
      let s : State := trainWrites s n (res != .crFail)
      match res with
      | .trained drive =>
        let ign := r.caps.adaptive && (c.timing == 2 || c.unlock == 1)
        let s : State := s.setDp n { s.dp n with
          training := false, trained := true, rate := r.tryRate, lanes := r.tryLanes, drive := levelsWord drive.toNat, msaIgnore := ign }
        let s : State := s.emit (.dpcd n "TRAINING_LANE_SET" (driveWord drive.toNat))
        let s : State := s.emit (.dpcd n "MSA_TIMING_PAR_IGNORE_EN" (b2n ign))
        let s : State := dpDepth s n
        if (s.dp n).short then s else raiseLink s n 0
      | .crFail => trainFailed s n m (min c.lanes r.caps.maxLanes) true
      | .eqFail => trainFailed s n m (min c.lanes r.caps.maxLanes) false

/-- TRAINING_RETRY (R234). -/
def doTrainingRetry (s : State) (n : Nat) : State := if (s.dp n).retry then dpStart s n else s

/-- OUT_DP_CTRL.RETRAIN (R235). -/
def dpForce (s : State) (n : Nat) : State := if (s.dp n).hpd ∧ (s.tg n).cfg.idx ≠ 0 then dpRetrain s n else s

/-- The checksum of a 128-byte EDID block. -/
def edidSum (b : List Byte) : Bool := decide ((b.foldl (fun t x => t + x.toNat) 0) % 256 = 0)

/-- EDID_READ_END (R237): the bytes of block 0 and its extensions, at most three, or an absent sink. -/
def doEdidEnd (s : State) (n : Nat) (res : EdidEnd) : State :=
  let r := s.dp n
  if !r.edidBusy then s
  else
    let (result, b) : Nat × List Byte := match res with
      | .absent => (1, [])
      | .bytes b =>
        let k := 1 + min 3 (fieldAt b 126 1)
        let b := slice b 0 (128 * k)
        (if (List.range k).all (fun i => edidSum (slice b (128 * i) 128)) then 0 else 2, b)
    let s : State := s.setDp n { r with edidBusy := false, edid := b, edidOk := result == 0 }
    s.raise 0x0602 (leBytes 1 n ++ leBytes 1 result ++ leBytes 2 b.length)

/-! ## MODE_SET (R226, R227) -/

/-- An odd output whose even partner has accepted a MODE_SET with SPLIT that has not applied yet (R230).
(DESIGN CHOICE: log entry 121.) -/
def pairComing (s : State) (n : Nat) : Bool := n % 2 == 1 && (s.tg (partner n)).jobs.any (fun k => (modeCfgOf k).split)

/-- A field of MODE_SET is out of range, or names what it may not. (DEDUCED: log entry 63.) -/
def modeBad (s : State) (j : Job) : Bool :=
  let n := j.n 16 1
  let c := modeCfgOf j
  let lk := c.timing == 1
  let paced := c.timing == 2 || c.unlock == 1
  let on := if c.split then [n, n + 1] else [n]
  decide (n > 7) || decide (c.idx > 21) || decide (c.timing > 2) || !([1, 2, 4].contains c.lanes) || decide (c.rate > 3)
    || (if lk then decide (c.entry > 1) || decide (c.unlock > 1) || c.pNum == 0 || c.pDen == 0 || decide (c.trimLim > 1000)
        else c.entry != 0 || c.unlock != 0)
    || (c.split && n % 2 == 1) || (s.tg n).odd || pairComing s n
    || (paced && (decide (c.pace ≥ 4096) || !(on.contains (c.pace / 512))
        || (match modeInfo c.idx with
            | some m =>
              let p := m.hTot * m.vTot * m.den * 1000000000
              decide (c.paceMax * m.num < p) || decide (c.paceMax * m.num > 4 * p)
            | none => false)))

/-- The change touches an enabled pipe: active size, or a pair formed or broken (R227, R230). -/
def modeMoves (s : State) (j : Job) : Bool :=
  let n := j.n 16 1
  let c := modeCfgOf j
  let old := (s.tg n).cfg
  let size := fun i => (modeInfo i).map (fun m => (m.hAct, m.vAct))
  let pipes := if c.split || old.split then [n, partner n] else [n]
  (!(size c.idx == size old.idx) || !(c.split == old.split)) && pipes.any (fun p => s.enabled p)

/-- The static trim lies beyond TRIM_LIMIT − 300 ppm (R63). -/
def trimTooFar (c : ModeCfg) : Bool :=
  match modeInfo c.idx with
  | some m =>
    let a : Int := m.hTot * m.vTot * c.pDen * m.den * 1000000000
    let b : Int := m.num * c.pNum
    decide (((a - b).natAbs * 1000000 : Int) > ((c.trimLim : Int) - 300) * b)
  | none => false

/-- The checks of ModeSet (R226, R227). (DEDUCED: log entry 63.) -/
def modeSetSpec (s : State) (j : Job) : CmdSpec :=
  let n := j.n 16 1
  let c := modeCfgOf j
  { pf0 := true, ready := (decide (n > 7) || s.isReady (18 + n)) && (c.timing != 1 || s.isReady 26),
    body := j.onlyBits 19 1 3 && j.zero [(37, 3), (46, 2), (52, 12)],
    own := [chk (modeBad s j) .badDescriptor, chk (modeMoves s j) .badDescriptor,
            chk (c.timing == 1 && trimTooFar c) .outOfBounds,
            chk (c.timing == 2 && (!(s.dp n).trained || !(s.dp n).caps.adaptive)) .unsupported] }

/-- MODE_SET (R226, R227): accepted, it waits for MODE_SET_APPLY. -/
def doModeSet (s : State) (j : Job) : State :=
  let n := j.n 16 1
  runJob s j (modeSetSpec s j)
    (fun s => let g := s.tg n; s.setTg n { g with jobs := g.jobs ++ [j] })

/-! ## Generators (R61 to R66, R219 to R224) -/

/-- The nominal start of frame k in LOCKED (R61). -/
def nominalStart (c : ModeCfg) (k : Nat) : Nat := c.t0 + k * c.pNum / max 1 c.pDen

/-- The lowest k whose nominal start is at least P after now (R62). -/
def firstLocked (c : ModeCfg) (now : Nat) : Nat :=
  let est := (now - c.t0) * c.pDen / max 1 c.pNum
  let lo := est - 1
  let ok := fun k => decide (nominalStart c k ≥ now) && decide ((nominalStart c k - now) * c.pDen ≥ c.pNum)
  lo + ((List.range 5).find? (fun i => ok (lo + i))).getD 4

/-- The k whose nominal start is nearest to now, for a generator that enters lock by SLEW. (DEDUCED: log entry 25.) -/
def nearestK (c : ModeCfg) (now : Nat) : Nat := (2 * (now - c.t0) * c.pDen + c.pNum) / max 1 (2 * c.pNum)

/-- A change of PHASE_LOCKED raises TG_PHASE_LOCK (R64). -/
def setPhaseLocked (s : State) (n : Nat) (v : Bool) : State :=
  let g := s.tg n
  if g.locked = v then s
  else
    (s.setTg n { g with locked := v }).raise 0x0620 (leBytes 1 n ++ leBytes 1 (b2n v) ++ leBytes 4 (ofInt 32 g.phase)
      ++ leBytes 4 (g.frame % 2 ^ 32))

/-- Enter lock (R62): JUMP waits for the first locked frame, SLEW goes on from the frame that starts next. (DEDUCED: log entry 25.) -/
def enterLock (s : State) (n : Nat) (jump : Bool) : State :=
  let g := s.tg n
  if jump then s.setTg n { g with unlocked := false, kSet := true, k := firstLocked g.cfg s.ft.toNat, slewing := false, good := 0, poor := 0 }
  else s.setTg n { g with unlocked := false, kSet := false, slewing := true, started := g.started, k := 0, good := 0, poor := 0 }

/-- Leave LOCKED: trim and phase return to 0 (R228). -/
def leaveLock (s : State) (n : Nat) : State :=
  let s : State := setPhaseLocked s n false
  s.setTg n { s.tg n with unlocked := false, kSet := false, slewing := false, phase := 0, good := 0, poor := 0, trim := 0, atBound := false, k := 0, lastK := 0, lastNom := 0 }

/-- The fallback ends with TG_FALLBACK (R66). (DEDUCED: log entry 25.) -/
def leaveFallback (s : State) (n : Nat) : State :=
  let g := s.tg n
  match g.fallback with
  | none => s
  | some a =>
    (s.setTg n { g with fallback := none }).raise 0x0621 (leBytes 1 n ++ leBytes 1 0 ++ leBytes 1 a ++ leBytes 4 (g.frame % 2 ^ 32))

/-- Locked generators follow a change of the time state (R66): UNLOCKED enters the fallback, LOCKED and ROOT leave it; the
trim of the SOURCE_PACED fallback is 0 and not at its bound, and a pair takes the fallback of its even output (R63, R231). One restored
before TIME_LOCK was ready enters lock by JUMP once it is (R403). (DEDUCED: log entry 25.) -/
def followTime (s : State) : State :=
  (List.range 8).foldl (fun s n =>
    let g := s.tg n
    if g.unlocked then (if s.isReady 26 then enterLock s n true else s)
    else if !g.running ∨ g.cfg.timing ≠ 1 then s
    else if s.time.st = .unlocked ∧ g.fallback.isNone then
      let d := s.dp (s.pairLead n)
      let a := if g.cfg.unlock = 1 ∧ d.caps.adaptive ∧ d.hpd then 1 else 0
      let s : State := s.setTg n { g with
        fallback := some a, slewing := false, trim := if a = 1 then 0 else g.trim, atBound := g.atBound && a == 0, ready := [] }
      s.raise 0x0621 (leBytes 1 n ++ leBytes 1 1 ++ leBytes 1 a ++ leBytes 4 (g.frame % 2 ^ 32))
    else if (s.time.st = .locked ∨ s.time.st = .root) ∧ g.fallback.isSome then
      enterLock (leaveFallback s n) n (g.cfg.entry == 0)
    else s) s

/-- Slates that a change of the running outputs completes (R217). -/
def settleSlates (s : State) : State := (s.cmp.slates.map (·.1)).foldl settleSlate s

/-- A generator stops (R228, R244, R247, R351): its rectangles report 2 and hold no failure of an earlier frame, and its pipe reads no
buffer any more. -/
def stopGen (s : State) (n : Nat) : State :=
  let s : State := leaveLock (leaveFallback s n) n
  let s : State := (chksOf n).foldl (fun s c => chkReport (s.setChk c { s.chk c with failAt := none }) c 2) s
  let g := s.tg n
  let s : State := s.setTg n { g with running := false, started := false, blanking := false, frame := 0, period := 0, line := 0,
                                      pacing := false, ready := [], readPic := none }
  let mis := setBit s.fum.misOut n false
  let s : State := { s with surf.reading := s.surf.reading.filter (fun e => !(e.1 == n)), fum.misOut := mis }
  let s : State := if mis = 0 then s.untrigger 5 else s
  settleSlates (settleReleases s)

/-- An output takes link limits of a MODE_SET: a trained link and the wait after a failure go on unless they differ from those that the
link trained under, and a training in progress starts again under changed ones (R234). -/
def dpLimits (s : State) (n : Nat) : State :=
  let c := (s.tg n).cfg
  let r := s.dp n
  if c.idx = 0 then s.setDp n { r with training := false, retry := false, short := false }
  else if c.rate = r.limRate ∧ c.lanes = r.limLanes ∧ (r.trained ∨ r.training ∨ r.retry) then s
  else if r.trained then dpRetrain s n
  else dpStart s n

/-- One output takes a new mode with a stop of its generator; it starts by JUMP in LOCKED (R228). (DEDUCED: log entry 119.) -/
def takeMode (s : State) (n : Nat) (c : ModeCfg) (odd : Bool) : State :=
  let (wd, ht) := match modeInfo c.idx with | some m => (m.hAct, m.vAct) | none => (0, 0)
  let s : State := stopGen (trimChecks s n wd ht) n
  let s : State := s.setTg n { s.tg n with cfg := c, odd := odd }
  let s : State := boundaryCommit s n
  let s : State := if c.timing = 1 ∧ c.idx ≠ 0 then enterLock s n true else s
  dpLimits s n

/-- A running output takes new timing fields at its frame boundary (R228). -/
def takeTiming (s : State) (n : Nat) (c : ModeCfg) : State :=
  let old := (s.tg n).cfg
  let s : State := leaveFallback s n
  let s : State := if old.timing = 1 ∧ c.timing ≠ 1 then leaveLock s n else s
  let s : State := s.setTg n { s.tg n with cfg := c, ready := [] }
  let s : State := if c.timing = 1 then enterLock s n (c.entry == 0) else s
  dpLimits s n

/-- MODE_SET_APPLY (R228 to R231): the oldest accepted MODE_SET of output n applies, with a commit that is due at the same boundary.
One that forms a pair waits for the MODE_SETs accepted before it for the odd output. (DESIGN CHOICE: log entry 121.) -/
def doModeSetApply (s : State) (n : Nat) : State :=
  let g := s.tg n
  match g.jobs with
  | [] => s
  | j :: js =>
    let c := modeCfgOf j
    let m := partner n
    if g.waiting.isSome ∨ (c.split ∧ !((s.tg m).jobs.isEmpty && (s.tg m).waiting.isNone)) then s
    else
      let old := g.cfg
      let s : State := atBoundary s n
      let s : State := if g.cfg.split ∧ g.running then atBoundary s m else s
      let s : State := s.setTg n { s.tg n with jobs := js }
      if g.running ∧ c.idx = old.idx ∧ c.split = old.split then
        let s : State := takeTiming s n c
        let s : State := if c.split then takeTiming s m c else s
        followTime (s.setTg n { s.tg n with waiting := some j })
      else
        let s : State := takeMode s n c false
        let s : State :=
          if c.split then takeMode s m c true
          else if old.split then takeMode s m ModeCfg.init false
          else s
        if c.idx = 0 then s.finish j .done 0 0 else s.setTg n { s.tg n with waiting := some j }

/-- A generator of a LOCKED output in its frame start at fabric time now (R62 to R65): k, phase error, trim and PHASE_LOCKED. In the
SOURCE_PACED fallback nothing is evaluated, and the last values stand. (DESIGN CHOICE: log entry 123.)
(DEDUCED: log entry 25.) -/
def lockFrame (s : State) (n : Nat) : State :=
  let g := s.tg n
  let now := s.ft.toNat
  if g.cfg.timing ≠ 1 ∨ g.fallback = some 1 ∨ g.unlocked then s
  else
    let k := if g.kSet then g.k else if g.slewing ∧ g.k = 0 then nearestK g.cfg now else g.k + 1
    let phase : Int := (now : Int) - nominalStart g.cfg k
    let lim : Int := 1000 * g.cfg.trimLim
    let slewing := g.slewing && decide (phase.natAbs > 20)
    let (x, s) := s.fresh
    let trim : Int :=
      if g.fallback.isSome then g.trim
      else if slewing then (if phase > 0 then lim else -lim)
      else (x % (2 * 1000 * g.cfg.trimLim + 1) : Nat) - lim
    let good := if phase.natAbs ≤ 20 then g.good + 1 else 0
    let poor := if phase.natAbs > 100 then g.poor + 1 else 0
    let s : State := s.setTg n { g with
      kSet := false, k := k, lastK := k, lastNom := nominalStart g.cfg k, phase := phase, slewing := slewing, trim := trim, atBound := decide (trim.natAbs = lim.natAbs),
      good := good, poor := poor }
    if !g.locked ∧ good ≥ 8 then setPhaseLocked s n true
    else if g.locked ∧ poor ≥ 4 then setPhaseLocked s n false
    else s

/-- The odd half of a pair in its frame start takes the phase, the trim, the lock and the frame counter of the even one, whose pixel PLL it
runs from (R230, R231). -/
def followPair (s : State) (n : Nat) : State :=
  let e := s.tg (partner n)
  let s : State := s.setTg n { s.tg n with
    kSet := false, k := e.k, lastK := e.lastK, lastNom := e.lastNom, phase := e.phase, slewing := e.slewing, trim := e.trim, atBound := e.atBound,
    good := e.good, poor := e.poor, frame := e.frame }
  setPhaseLocked s n e.locked

/-- The event of a pipe's blank hold: begun or ended, with its cause (R248). -/
def blankEvent (s : State) (n v c : Nat) : State :=
  s.raise 0x0631 (leBytes 1 n ++ leBytes 1 v ++ leBytes 1 c ++ leBytes 4 ((s.tg n).frame % 2 ^ 32))

/-- A blank hold begins or ends at a frame start (R248). (DEDUCED: log entry 60.) -/
def blankFrame (s : State) (n : Nat) : State :=
  let r := s.pipe n
  match r.blankBy with
  | none => s
  | some c =>
    if r.endBlank then
      let s : State := s.setPipe n { r with
        blankBy := r.nextBlank, blanked := r.nextBlank.isSome, endBlank := false, nextBlank := none }
      let s : State := if r.blanked then blankEvent s n 0 c else s
      match r.nextBlank with
      | some d => blankEvent s n 1 d
      | none => s
    else if r.blanked then s
    else blankEvent (s.setPipe n { r with blanked := true }) n 1 c

/-- The trim override of output n applies, or ends, at its frame start (R421). -/
def applyTrim (s : State) (n : Nat) : State :=
  let v := s.reg (Reg.OUT_DP_TRIM_OVR + 0x100 * n)
  { s with lanes.trims := if bit v 31 then s.lanes.trims.set n (bits v 13 8, bits v 4 0) else s.lanes.trims.erase n }

/-- The MSA of output n for a frame (R232): timing and polarities of its mode, RGB at the effective depth, VESA full range unless
CTA_RANGE is set, and Mvid of the trimmed pixel clock. (PRESUMED: log entry 122.) -/
def msaOf (s : State) (n : Nat) (m : ModeInfo) : MsaOut :=
  let g := s.tg n
  let d := s.dp n
  { hTot := m.hTot, vTot := m.vTot, hStart := m.hSync + m.hBack, vStart := m.vSync + m.vBack, hSync := m.hSync, vSync := m.vSync,
    hPos := m.hPos, vPos := m.vPos, hAct := m.hAct, vAct := m.vAct, depth := d.depth, cta := g.cfg.cta,
    mvid := (((m.num : Int) * (1000000000 + g.trim)).toNat * 32768 * 10) / (m.den * 1000000000 * laneRate d.rate), nvid := 32768 }

/-- A source that carries its mode sends the frame's MSA; one that does not sends the idle pattern (R228, R232, R233).
(PRESUMED: log entry 122.) -/
def sendMsa (s : State) (n : Nat) : State :=
  let d := s.dp n
  match modeInfo (s.tg n).cfg.idx with
  | some m => if d.trained ∧ !d.short then s.emit (.msa n (msaOf s n m)) else s
  | none => s

/-- Rectangles of an output whose generator starts report their last evaluated frame's result again (R244). -/
def resumeChecks (s : State) (n : Nat) : State :=
  (chksOf n).foldl (fun s c => let r := s.chk c; if r.mode = 0 then s else chkReport s c r.last) s

/-- What a frame start does on one output: its counter, its lock, and what waits for it. -/
def frameOn (s : State) (n : Nat) : State :=
  let g := s.tg n
  let s : State := s.setTg n { g with
    running := true, started := true, blanking := false, line := 0,
    frame := if g.started then g.frame + 1 else 0, period := if g.started then s.clk - g.startClk else 0,
    startFt := s.ft.toNat, startClk := s.clk, ready := [] }
  let s : State := if g.odd then followPair s n else lockFrame s n
  let s : State := applyTrim (blankFrame s n) n
  let s : State := slatesSeen s n
  let s : State := dpDepth s n
  let d := s.dp n
  let s : State := sendMsa (s.setDp n { d with wholeFrame := d.trained }) n
  let s : State := if g.started then s else resumeChecks s n
  let s : State := (chksOf n).foldl (fun s c =>
    let r := s.chk c
    s.setChk c { r with refAcc := 0xFFFFFFFF, linkAcc := 0xFFFFFFFF, done := false }) s
  let mis := setBit s.fum.misOut n false
  let s : State := { s with fum.negOut := setBit s.fum.negOut n false, fum.misOut := mis }
  let s : State := if mis = 0 then s.untrigger 5 else s
  let g := s.tg n
  match g.waiting with
  | some j => (s.setTg n { g with waiting := none }).finish j .done 0 0
  | none => s

/-- A frame starts on output n, and on the other output of its pair (R230). (DEDUCED: log entry 64.) -/
def startFrame (s : State) (n : Nat) : State :=
  let s : State := frameOn s n
  if (s.tg n).cfg.split then
    frameOn s (partner n)
  else s

/-- A frame boundary of output n: a frame starts, or under DORMANT_ENTER the generator stops (R399). -/
def frameBoundary (s : State) (n : Nat) : State :=
  if s.sys.dorm.isSome then
    let s : State := stopGen s n
    if (s.tg n).cfg.split then stopGen s (partner n) else s
  else startFrame s n

/-- FRAME_START (R61, R220), on an output whose mode is set and whose domain is on. -/
def doFrameStart (s : State) (n : Nat) : State :=
  let g := s.tg n
  if g.cfg.idx = 0 ∨ g.odd ∨ !(s.pdOn 7) then s else frameBoundary s n

/-! ## Source pacing (R213, R222 to R224) -/

/-- The fabric time at which line y begins in a frame that starts at a time. -/
def lineAt (m : ModeInfo) (start y : Nat) : Nat := start + m.linesNs y

/-- The rows of a pool surface that a record's vertical filter takes for output line y: luma rows, and for format 0x10 the first
of the two luma rows that each chroma row covers (R11, R190, R191). (DEDUCED: log entry 56.) -/
def rowsRead (s : State) (r : LRec) (y : Nat) : List Nat :=
  let j := ((y : Int) - r.y).toNat
  let sub := match s.surface r.key with | some q => q.format == 0x10 | none => false
  (filterRows r false j).map (·.1) ++ (if sub then (filterRows r true j).map (fun e => 2 * e.1) else [])

/-- Stored rows of a full surface for one row of the surface a record reads. -/
def rowFactor (s : State) (r : LRec) : Nat :=
  match s.surface r.key with | some q => if r.reduced then 2 ^ q.reduce else 1 | none => 1

/-- The highest stored row that a record needs for output line y (R11, R190, R191, R213). (DEDUCED: log entry 56.) -/
def neededRow (s : State) (r : LRec) (y : Nat) : Nat := rowFactor s r * ((rowsRead s r y).foldl max r.cy + 1) - 1

/-- The lowest stored row that a record needs for output line y. (DEDUCED: log entry 56.) -/
def lowRow (s : State) (r : LRec) (y : Nat) : Nat := rowFactor s r * (rowsRead s r y).foldl min (r.cy + r.ch)

/-- The lowest and the highest stored row that a record needs for the output lines y0 to y1 - 1 (R11). -/
def rowSpan (s : State) (r : LRec) (y0 y1 : Nat) : Nat × Nat :=
  (List.range (y1 - y0)).foldl (fun m k => (min m.1 (lowRow s r (y0 + k)), max m.2 (neededRow s r (y0 + k))))
    (lowRow s r y0, neededRow s r y0)

/-- The condition of R213 for line y, with the latched fence page. (DEDUCED: log entry 67.) -/
def raceLineOk (s : State) (m : ModeInfo) (r : LRec) (p start rows tFence rowNs y : Nat) : Bool :=
  let k := neededRow s r y
  decide (k < rows)
    || decide ((tFence : Int) + ((k : Int) + 1 - rows) * rowNs
        ≤ (lineAt m start y : Int) - m.linesNs (2 + pipeMargin (s.actBlock bPIPE p 0)))

/-- The condition of R213 at a record's first and last visible lines: LAST.VALID and ROW_NS ≠ 0 among it. -/
def raceOk (s : State) (r : LRec) (p start : Nat) (page : List Byte) : Bool :=
  match modeInfo (s.tg p).cfg.idx with
  | none => false
  | some m =>
    let rowNs := fieldAt page 24 4
    match r.clip m.hAct m.vAct with
    | none => false
    | some (_, y0, _, y1) =>
      bit (fieldAt page 8 8) 21 && decide (rowNs ≠ 0)
        && raceLineOk s m r p start (fieldAt page 0 2) (fieldAt page 16 8) rowNs y0
        && raceLineOk s m r p start (fieldAt page 0 2) (fieldAt page 16 8) rowNs (y1 - 1)

/-- CMP_FAULT for a denied read: captured while none is held, raised at most once per second for each pipe (R218). -/
def cmpFault (s : State) (p addr : Nat) : State :=
  let s : State :=
    if bit (s.cnt Reg.CMP_FAULT_CAP0) 31 then s
    else (s.setReg Reg.CMP_FAULT_CAP0 (2 ^ 31 + p * 256 + bits addr 39 32)).setReg Reg.CMP_FAULT_CAP1 (bits addr 31 0)
  s.raiseLimited (0x050200 + p) 1000000000 0x0502 (leBytes 1 p ++ leBytes 8 addr)

/-- Check a pipe's read: a denial is captured and raises CMP_FAULT. -/
def pipeCheck (s : State) (p addr len : Nat) : State × Bool :=
  match firstDenied s (0x20 + p) addr len with
  | none => (s, true)
  | some (a, l) => (cmpFault (s.mpuDeny (0x20 + p) a l false) p a, false)

/-- Check the pipe's reads of several buffer pages, each with its band entries; false where one is denied (R188). -/
def pipePages (s : State) (p : Nat) (f : SurfRec) (bufs : List Nat) : State × Bool :=
  bufs.foldl (fun r b => let (s, ok) := pipeCheck r.1 p (bufPage f b) 4096; (s, r.2 && ok)) (s, true)

/-- The picture of a fence word is completely published: its rows equal its record's HEIGHT (R186). The buffer's page is read
under the pipe's master ID. -/
def fenceFull (s : State) (p : Nat) (f : SurfRec) (fence : Nat) : Bool :=
  let page := bufPage f (bits fence 20 16)
  let h := pipeRead s p (page + 6) 2
  decide (h ≠ 0) && decide (bits fence 15 0 = h) && decide (pipeRead s p page 4 = bits fence 63 32)

/-- The tile that paces output n, where pacing applies (R223): its pipe, record and surface. -/
def pacingRecord (s : State) (n : Nat) : Option (Nat × LRec × SurfRec) :=
  let g := s.tg n
  if !((s.dp n).trained && (s.dp n).caps.adaptive) ∨ !(g.cfg.timing == 2 || g.fallback == some 1) then none
  else
    match tileRecord s false g.cfg.pace with
    | none => none
    | some r =>
      if r.kind ≠ 1 then none
      else
        match s.surface r.key with
        | none => none
        | some f =>
          let p := g.cfg.pace / 512
          let fence := pipeRead s p f.block 8
          if fence % 2 ^ 32 ≠ 0 ∨ fence / 2 ^ 32 ≠ 0xFFFFFFFF ∨ bit (pipeRead s p (f.block + 8) 8) 21 then some (p, r, f) else none

/-- The pacing record is ready at this line boundary (R222): its band block names a newer picture by FENCE, completely published or
raced, or one by LAST, which is completely published. A read that the MPU denies is captured, and what it would name is not ready
(R188). (DEDUCED: log entry 67.) -/
def paceReady (s : State) (n : Nat) (m : ModeInfo) (p : Nat) (r : LRec) (f : SurfRec) : State × Bool :=
  let (s, ok) := pipeCheck s p f.block 32
  let page := leBytes 8 (pipeRead s p f.block 8) ++ leBytes 8 (pipeRead s p (f.block + 8) 8) ++ leBytes 8 (pipeRead s p (f.block + 16) 8)
    ++ leBytes 8 (pipeRead s p (f.block + 24) 8)
  let fence := fieldAt page 0 8
  let last := fieldAt page 8 8
  let newer := fun (pic : Nat) => match (s.tg n).readPic with | some q => decide (pic > q) | none => true
  let named := ok && newer (bits fence 63 32) && decide (bits fence 63 32 ≠ 0xFFFFFFFF) && decide (bits fence 20 16 < f.buffers)
  let (s, pageOk) := if named then pipeCheck s p (bufPage f (bits fence 20 16)) 64 else (s, true)
  (s, (named && pageOk && (fenceFull s p f fence || (r.race && raceOk s r p (s.ft.toNat + m.linesNs 3) page)))
    || (ok && bit last 21 && decide (bits last 20 16 < f.buffers) && newer (bits last 63 32)))

/-- TG_PACE_MAX, at most once per second for each generator (R224). (DEDUCED: log entry 67.) -/
def paceMaxed (s : State) (n : Nat) : State :=
  let s : State := s.bump (Reg.OUT_TG_PACE_MAX_CNT + 0x100 * n)
  let g := s.tg n
  let s : State := s.setTg n { g with paceSince := g.paceSince + 1 }
  let key := 0x061000 + n
  if s.rateOk key 1000000000 then
    let s : State := (s.rateMark key).raise 0x0610 (leBytes 1 n ++ leBytes 4 (g.paceSince + 1) ++ leBytes 4 (g.frame % 2 ^ 32))
    s.setTg n { s.tg n with paceSince := 0 }
  else s

/-- VBLANK_LINE_BOUNDARY (R222, R223): a line boundary of vertical blanking, the first of which is the frame boundary with its commit
(R209, R228); a source-paced generator decides.
(DEDUCED: log entry 64.) -/
def doVblankLine (s : State) (n : Nat) : State :=
  let g := s.tg n
  if !g.running ∨ g.odd then s
  else
    match modeInfo g.cfg.idx with
    | none => s
    | some m =>
      let s : State := atBoundary s n
      let s : State := if g.cfg.split then atBoundary s (partner n) else s
      match pacingRecord s n with
      | none => s.setTg n { s.tg n with pacing := false, ready := [] }
      | some (p, r, f) =>
        let (s, ready) := paceReady s n m p r f
        let hist := g.ready ++ [ready]
        let s : State := s.setTg n { s.tg n with pacing := true, ready := hist }
        let past := s.clk - g.startClk
        let before := decide (hist.length ≥ 4) && hist.getD (hist.length - 4) false
        if past * m.num < m.hTot * m.vTot * m.den * 1000000000 then s
        else if before then frameBoundary s n
        else if past + m.linesNs 1 > g.cfg.paceMax then frameBoundary (paceMaxed s n) n
        else s

/-! ## The service pattern (R253, R254) -/

/-- Output n shows the service pattern now (R254). -/
def svcShown (s : State) (n : Nat) : Bool :=
  (s.tg n).running && (s.sys.mode == .frozen || (s.sys.mode == .service && bit (s.reg Reg.OUT_SVC_FORCE) n))

/-! ## Register views -/

def viewTgCtrl (s : State) (n : Nat) : Nat :=
  let g := s.tg n
  let c := g.cfg
  b2n g.odd * 2 ^ 13 + b2n c.split * 2 ^ 12 + c.unlock * 2 ^ 11 + c.entry * 2 ^ 10 + c.timing * 2 ^ 8 + c.idx

def viewTgStatus (s : State) (n : Nat) : Nat :=
  let g := s.tg n
  let e := if g.odd then partner n else n
  16 * b2n (s.pipe n).blanked + 8 * b2n (svcShown s n) + 4 * b2n ((s.tg e).pacing && (pacingRecord s e).isSome) + 2 * b2n (g.running && g.blanking) + b2n g.running

def viewTgLock (s : State) (n : Nat) : Nat :=
  let g := s.tg (s.pairLead n)
  8 * b2n g.slewing + 4 * b2n g.fallback.isSome + 2 * b2n g.atBound + b2n g.locked

def viewTgPhase (s : State) (n : Nat) : Nat :=
  let g := s.tg (s.pairLead n)
  if g.cfg.timing = 1 then ofInt 32 (clampInt 0x7FFFFFFF g.phase) else 0

def viewDpStatus (s : State) (n : Nat) : Nat :=
  let r := s.dp n
  let d := if !r.trained then 0 else if r.depth = 12 then 2 else if r.depth = 10 then 1 else 0
  r.edid.length * 2 ^ 16 + b2n r.short * 2 ^ 12 + b2n r.edidBusy * 2 ^ 11 + b2n r.edidOk * 2 ^ 10 + d * 2 ^ 8
    + 128 * b2n (r.hpd && r.caps.adaptive) + r.lanes * 16 + r.rate * 4 + 2 * b2n r.trained + b2n r.hpd

def viewChkFail (s : State) (p : Nat) : Nat :=
  (chksOf p).foldl (fun m c => if (s.chk c).result = 1 then setBit m (c % 16) true else m) 0
def viewChkEnabled (s : State) (p : Nat) : Nat :=
  (chksOf p).foldl (fun m c => if (s.chk c).mode ≠ 0 then setBit m (c % 16) true else m) 0
def viewChkSummary (s : State) : Nat :=
  (List.range 8).foldl (fun m p =>
    let m := if (chksOf p).any (fun c => (s.chk c).relq) then setBit m (8 + p) true else m
    if (s.pipe p).blanked then setBit m p true else m) 0

end Machine
end Sys2Proof
end

