-- ==== Sys2Proof/Machine/Tiles.lean ====
section
/-! DEFINITION. Tiles in a frame: the latch of a record, Fumarole's decision at the scan start on its two paths, racing lines and their
escalations, underruns, and the composition of an output line (R11 to R13, R18, R31, R32, R36, R38, R44, R186 to R188, R213 to R215,
R240, R241, R247). -/

namespace Sys2Proof
namespace Machine

/-! ## Denied reads of a pipe (R188) -/

/-! ## The latch (R186, R187, R213) -/

/-- Buffers that a pipe reads in the frame (R187). -/
def addReading (s : State) (p key : Nat) (bufs : List Nat) : State :=
  { s with surf.reading := bufs.foldl (fun l b => if l.contains (p, key, b) then l else l ++ [(p, key, b)]) s.surf.reading }

/-- The record that a tile shows now: in the active state of an enabled pipe of a running output. -/
def shownRecord (s : State) (t : Nat) : Option LRec :=
  let p := t / 512
  if (s.tg p).running ∧ s.enabled p then tileRecord s false t else none

/-- A latch that finds the surface missing. -/
def LatchRec.none_ (key : Nat) : LatchRec :=
  { key := key, pic := 0, buf := 0, rows := 0, lastPic := 0, lastBuf := 0, lastOk := false, choice := 0 }

/-- Tile t latches no buffer of surface key (R187, R188). -/
def latchNone (s : State) (t key : Nat) : State := s.setTile t { s.tile t with latch := some (LatchRec.none_ key) }

/-- RECORD_LATCH (R186, R187, R213, R223): 2 lines before the record's first visible line. (DEDUCED: log entry 61.) -/
def doRecordLatch (s : State) (t : Nat) : State :=
  let p := t / 512
  match shownRecord s t with
  | none => s
  | some r =>
    if r.kind ≠ 1 then s
    else
      match (if releasing s r.key then none else s.surface r.key) with
      | none => latchNone s t r.key
      | some f =>
        let (s, ok) := pipeCheck s p f.block 32
        if !ok then latchNone s t r.key
        else
          let page := leBytes 8 (pipeRead s p f.block 8) ++ leBytes 8 (pipeRead s p (f.block + 8) 8)
            ++ leBytes 8 (pipeRead s p (f.block + 16) 8) ++ leBytes 8 (pipeRead s p (f.block + 24) 8)
          let fence := fieldAt page 0 8
          let last := fieldAt page 8 8
          let pic := bits fence 63 32
          let buf := bits fence 20 16
          let lastBuf := bits last 20 16
          let named := decide (pic ≠ 0xFFFFFFFF) && decide (buf < f.buffers)
          let lastOk := bit last 21 && decide (lastBuf < f.buffers)
          let y0 := match r.clip (s.active p).1 (s.active p).2 with | some (_, y0, _, _) => y0 | none => 0
          let start := match modeInfo (s.tg p).cfg.idx with | some m => s.ft.toNat + m.linesNs 2 - m.linesNs y0 | none => s.ft.toNat
          let (s, pageOk) := if named then pipeCheck s p (bufPage f buf) 64 else (s, true)
          let choice :=
            if !pageOk then 0
            else if named && fenceFull s p f fence then 1
            else if named && lastOk && r.race && raceOk s r p start page then 3
            else if lastOk then 2
            else 0
          let lt : LatchRec :=
            { key := r.key, pic := pic, buf := buf, rows := bits fence 15 0, lastPic := bits last 63 32, lastBuf := lastBuf,
              lastOk := lastOk, choice := choice }
          let s : State := s.setTile t { s.tile t with latch := some lt }
          let own := if choice = 1 ∨ choice = 3 then [buf] else if choice = 2 then [lastBuf] else []
          let race := if r.race then (if named then [buf] else []) ++ (if lastOk then [lastBuf] else []) else []
          let s : State := addReading s p r.key (own ++ race)
          let shown := if choice = 2 then lt.lastPic else pic
          (List.range 8).foldl (fun s n =>
            let g := s.tg n
            if g.cfg.pace = t ∧ choice ≠ 0 ∧ (g.cfg.timing = 2 ∨ g.cfg.unlock = 1) then
              s.setTg n { g with readPic := some shown }
            else s) s

/-! ## The two paths (R31, R38) -/

/-- The buffers whose pages the pipe reads for the latched choice: the picture it shows, and LAST's under a race (R186, R213, R214). -/
def LatchRec.pages (l : LatchRec) : List Nat :=
  if l.choice = 0 then [] else if l.choice = 2 then [l.lastBuf] else if l.choice = 3 then [l.buf, l.lastBuf] else [l.buf]

/-- Band entries of a buffer as the pipe fetches them. -/
def memBands (s : State) (p : Nat) (f : SurfRec) (buf : Nat) : List BandRec :=
  let page := bufPage f buf
  (List.range (min 144 (pipeRead s p (page + 9) 1))).map (fun i =>
    let a := page + 64 + 24 * i
    { first := pipeRead s p a 2, rows := pipeRead s p (a + 2) 2, flags := pipeRead s p (a + 4) 1, epoch := pipeRead s p (a + 8) 8,
      sig := pipeRead s p (a + 16) 4 })

/-- Band entries of a picture in Fumarole's own table. -/
def ownBands (s : State) (key buf pic : Nat) : List BandRec :=
  match (s.pub key).bufs.get? buf with
  | some q => if q.pic = pic then q.bands else []
  | none => []

/-- What one path knows of the picture a record reads. -/
structure PathBands where
  cur  : List BandRec
  last : List BandRec
  pic  : Nat
  deriving DecidableEq, Repr

/-- The pipe's path (true) or the table's. -/
def pathOf (s : State) (p : Nat) (f : SurfRec) (l : LatchRec) (pipe : Bool) : PathBands :=
  let buf := if l.choice = 2 then l.lastBuf else l.buf
  let pic := if l.choice = 2 then l.lastPic else l.pic
  if pipe then
    { cur := memBands s p f buf, last := if l.choice = 3 then memBands s p f l.lastBuf else [],
      pic := pipeRead s p (bufPage f buf + 16) 8 }
  else
    { cur := ownBands s l.key buf pic, last := if l.choice = 3 then ownBands s l.key l.lastBuf l.lastPic else [],
      pic := ((s.pub l.key).bufs.get? buf).elim 0 PicRec.epoch }

/-- A band has a row in [lo, hi]. -/
def BandRec.meets (b : BandRec) (lo hi : Nat) : Bool := decide (b.first ≤ hi) && decide (lo < b.first + b.rows)

/-- The epoch of the newest band published when the latch was made (R31), or the picture's own where none was.
(DESIGN CHOICE: log entry 117.) -/
def newestEpoch (b : PathBands) (rows : Nat) : Nat :=
  match (b.cur.filter (fun e => decide (e.first + e.rows ≤ rows))).getLast? with
  | some e => e.epoch
  | none => b.pic

/-- The projected epoch of a row that was unpublished at the latch (R31). -/
def projected (b : PathBands) (rows row : Nat) : Nat :=
  match b.last.find? (fun e => decide (e.first ≤ row) && decide (row < e.first + e.rows)) with
  | some e => if bit e.flags 2 then e.epoch else newestEpoch b rows
  | none => newestEpoch b rows

/-- The oldest of a list of epochs. -/
def oldestOf (es : List Nat) : Option Nat :=
  es.foldl (fun m e => match m with | none => some e | some x => some (min x e)) none

/-- The oldest epoch of the visible bands, rows lo to hi, at the scan start; rows at or past the latched ROWS count with their
projections while the picture is incomplete (R12, R31). -/
def visibleOldest (b : PathBands) (race : Bool) (rows lo hi : Nat) : Option Nat :=
  if !race then oldestOf ((b.cur.filter (fun e => e.meets lo hi)).map (·.epoch))
  else
    let pub := (b.cur.filter (fun e => decide (e.first + e.rows ≤ rows) && e.meets lo hi)).map (·.epoch)
    let a := max lo rows
    let rest := if hi < rows then [] else
      let tail := b.last.filter (fun e => e.meets a hi)
      (tail.map (fun e => if bit e.flags 2 then e.epoch else newestEpoch b rows))
        ++ (if tail.any (fun e => e.meets hi hi) then [] else [newestEpoch b rows])
    oldestOf (pub ++ rest)

/-! ## Decisions (R12, R13, R18, R32, R38, R43, R44) -/

/-- The effective age of an oldest epoch at the tile's scan start, with U as it stood there (R13, R35), in units; 0 where the tile
shows no band. (DEDUCED: log entry 17.) -/
def tileUnits (r : TileRec) (e : Option Nat) : Nat :=
  match e with
  | none => 0
  | some e => ageUnits r.scanAt e (if r.remote then r.unc else 0)

/-- An age state (R18). -/
def ageState (p : PolicyRec) (units : Nat) : Nat := if exceeds units p.max then 4 else if exceeds units p.late then 1 else 0

/-- A difference between the two ages (R38): counted, captured, raised, and trigger 5. -/
def selfMismatch (s : State) (t a b : Nat) : State :=
  let n := t / 512
  let s : State := s.bump Reg.FUM_SELFTEST_CNT
  let s : State :=
    if bit (s.cnt Reg.FUM_SELFTEST_CAP0) 31 then s
    else ((s.setReg Reg.FUM_SELFTEST_CAP0 (2 ^ 31 + t)).setReg Reg.FUM_SELFTEST_CAP1 a).setReg Reg.FUM_SELFTEST_CAP2 b
  let s : State := s.raise 0x0512 (leBytes 2 t ++ leBytes 4 a ++ leBytes 4 b ++ leBytes 4 ((s.tg n).frame % 2 ^ 32))
  { s with fum.misOut := setBit s.fum.misOut n true }.trigger 5 false

/-- A negative age (R12, R44): counted, and raised at most once per second. -/
def negAge (s : State) (t src : Nat) : State :=
  let n := t / 512
  let s : State := { s with fum.negOut := setBit s.fum.negOut n true }.bump Reg.FUM_NEG_AGE_CNT
  s.raiseLimited 0x051300 1000000000 0x0513 (leBytes 2 t ++ leBytes 2 src ++ leBytes 4 ((s.tg n).frame % 2 ^ 32))

/-- FUM_TILE_STATE (R43), with PAIR_ALARM. -/
def raiseTile (s : State) (t old new cause count : Nat) : State :=
  let f := (s.tg (t / 512)).frame % 2 ^ 32
  pairAlarm (s.raise 0x0511 (leBytes 2 t ++ leBytes 1 old ++ leBytes 1 new ++ leBytes 1 cause ++ leBytes 1 (min count 255) ++ leBytes 4 f))
    0x0511 t new f

/-- A tile's state has changed from old (R44): at once outside a window, which opens; counted within it. (DEDUCED: log entry 18.) -/
def tileChange (s : State) (t old cause : Nat) : State :=
  let r := s.tile t
  if r.state = old ∨ !(s.bindAct t).evt then s
  else if r.win then s.setTile t { r with winCnt := r.winCnt + 1, winCause := cause }
  else raiseTile (s.setTile t { r with win := true, winState := r.state, winCnt := 0 }) t old r.state cause 1

/-- TILE_EVENT_WINDOW_END (R44): a tile that is no longer bound with TILE_EVT raises nothing. (DESIGN CHOICE: log entry 4.) -/
def doTileWindowEnd (s : State) (t : Nat) : State :=
  let r := s.tile t
  let s : State := s.setTile t { r with win := false, winCnt := 0 }
  if r.win ∧ r.winCnt ≠ 0 ∧ (s.bindAct t).evt then raiseTile s t r.winState r.state r.winCause r.winCnt else s

/-- A rectangle is associated with a tile's record (R246). -/
def associated (r : ChkRec) (t : Nat) (q : LRec) : Bool :=
  if r.inter then decide (q.x < r.x + r.w) && decide ((r.x : Int) < q.x + q.w) && decide (q.y < r.y + r.h) && decide ((r.y : Int) < q.y + q.h)
  else r.tiles.contains t

/-- The check MARK condition of a tile (R247): an associated MARK rectangle failed in the frame before or already in this one. A
listed tile may stand on either pipe of a pair. -/
def checkMark (s : State) (t : Nat) (q : LRec) : Bool :=
  let n := t / 512
  let f := (s.tg n).frame
  let outs := if inSplit s n then [n, partner n] else [n]
  outs.any (fun o => (chksOf o).any (fun c =>
    let r := s.chk c
    r.action == 1 && r.mode != 0 && (if r.inter then decide (c / 16 = n) else true) && associated r t q
      && (match r.failAt with | some k => k == f || k + 1 == f | none => false)))

/-- The pipeline conditions' worst state of a tile record (R18). -/
def TileRec.pipeState (r : TileRec) : Nat := if r.missing then 6 else if r.mark then 4 else if r.race then 2 else 0

/-- Compute a tile's state from what its record holds: both ages, a mismatch, and the worst of source, age and pipeline. An escalation
only makes the state more severe. A bound tile over its max age shows at least its STALE treatment whatever its state (R28). On a
mismatch the age is that of the pipe's path. (DEDUCED: log entry 17; DESIGN CHOICE: log entry 118.) -/
def assess (s : State) (t : Nat) (floor : Nat) : State :=
  let r := s.tile t
  let a := tileUnits r r.epoch
  let b := tileUnits r r.epochT
  let s : State := if a ≠ b then selfMismatch s t a b else s
  let st := max floor (max r.srcSt (max (ageState r.pol (max a b)) r.pipeState))
  let old := decide (r.source ≠ 0xFFFF) && exceeds (max a b) r.pol.max
  s.setTile t { r with
    age := a, mismatch := r.mismatch || decide (a ≠ b), state := st,
    treat := if old then max (treatOf r.pol.treat st) (treatOf r.pol.treat 4) else treatOf r.pol.treat st }

/-- The cause of a tile's change (R43): the pipeline where it gives the state, a new binding, the source's own cause where its state
has changed, else AGE. (DEDUCED: log entry 18.) -/
def tileCause (s : State) (before now_ : TileRec) : Nat :=
  if now_.pipeState ≠ 0 ∧ now_.pipeState = now_.state then 10
  else if before.source ≠ now_.source ∨ before.policy ≠ now_.policy then 0
  else if before.srcSt ≠ now_.srcSt then (s.source now_.source).cause
  else 1

/-- SCAN_START (R11 to R13, R18, R31, R36, R38): Fumarole decides a tile's state and treatment. (DEDUCED: log entry 61.) -/
def doScanStart (s : State) (t : Nat) : State :=
  let p := t / 512
  match shownRecord s t with
  | none => s
  | some q =>
    match q.clip (s.active p).1 (s.active p).2 with
    | none => s
    | some (_, y0, _, y1) =>
      if !s.fumRuns ∨ svcShown s p then s
      else
        let s : State := if (s.tile t).latch.isNone then doRecordLatch s t else s
        let before := s.tile t
        let b := s.bindAct t
        let src := b.source
        let lt := before.latch
        let f := s.surface q.key
        let (s, pageOk) := match lt, f with
          | some l, some f => pipePages s p f l.pages
          | _, _ => (s, true)
        let lt := if pageOk then lt else some (LatchRec.none_ q.key)
        let missing := q.kind == 1 && (match lt, f with | some l, some _ => l.choice == 0 | _, _ => true)
        let (lo, hi) := rowSpan s q y0 y1
        let old := fun (pipe : Bool) => match lt, f with
          | some l, some f =>
            if q.kind ≠ 1 ∨ l.choice = 0 then none
            else visibleOldest (pathOf s p f l pipe) (l.choice == 3) l.rows lo hi
          | _, _ => none
        let r : TileRec := { before with
          race := false, mismatch := false, missing := missing, mark := checkMark s t q, esc := false, escRow := 0,
          source := src.getD 0xFFFF, frame := (s.tg p).frame, policy := b.policy,
          srcSt := (src.map (fun i => (s.source i).state)).getD 7, remote := (src.map (fun i => (s.source i).remote)).getD false,
          prevState := before.state, prevFrame := some before.frame, prev0 := before.state0, prevEsc := before.esc, prevEscRow := before.escRow,
          older := before.history.take 6,
          epoch := old true, epochT := old false, scanAt := s.ft.toNat, faultRow := none, linePx := [],
          unc := s.uncert, pol := s.policy b.policy, latch := lt }
        let s : State := s.setTile t r
        let neg := match r.epoch with | some e => decide (r.scanAt < e) | none => false
        let s : State := if neg then negAge s t r.source else s
        let s : State := assess s t 0
        let r := s.tile t
        let s : State := s.setTile t { r with treat0 := r.treat, state0 := r.state }
        tileChange s t before.state (tileCause s before (s.tile t))

/-- An escalation at line y (R32): newly known epochs on both paths, and possibly a race fault.
(DEDUCED: log entry 18; DEDUCED: log entry 62.) -/
def escalate (s : State) (t y : Nat) (a b : Option Nat) (race : Bool) : State :=
  let r := s.tile t
  let low := fun (x e : Option Nat) => oldestOf (x.toList ++ e.toList)
  let s : State := s.setTile t { r with
    race := r.race || race, epoch := low r.epoch a, epochT := low r.epochT b, esc := true,
    escRow := if r.esc then r.escRow else y }
  let s : State := assess s t r.state
  tileChange s t r.state (tileCause s r (s.tile t))

/-! ## Racing lines and underruns (R214, R215) -/

/-- A race fault at line y (R214, R32): the record reads LAST's picture from this line on. (DEDUCED: log entry 62.) -/
def raceFault (s : State) (t p y y1 : Nat) (q : LRec) (f : SurfRec) (l : LatchRec) : State :=
  let s : State := s.bump (Reg.CMP_RACE_CNT + 0x1000 * p)
  let s : State := s.raiseLimited (0x050000 + p) 1000000000 0x0500
    (leBytes 1 p ++ leBytes 2 t ++ leBytes 2 y ++ leBytes 4 ((s.tg p).frame % 2 ^ 32))
  let s : State := s.setTile t { s.tile t with faultRow := some y }
  let (lo, hi) := rowSpan s q y y1
  let es := fun (bs : List BandRec) => oldestOf ((bs.filter (fun e => e.meets lo hi)).map (·.epoch))
  escalate s t y (es (memBands s p f l.lastBuf)) (es (ownBands s l.key l.lastBuf l.lastPic)) true

/-- A denied read of the band block makes the surface missing for the frame, from line y on (R188, R18). -/
def missAt (s : State) (t y : Nat) : State :=
  let r := s.tile t
  escalate (s.setTile t { r with missing := true, latch := r.latch.map (fun l => { l with choice := 0 }) }) t y none none false

/-- The racing check of one record before it fetches line y: FENCE is read again; newly fetched bands are held against their
projections (R32, R214). A FENCE that names another picture means that the one being read is complete. (DEDUCED: log entry 56.) -/
def raceLine (s : State) (p y : Nat) (q : LRec) : State :=
  let t := q.tile p
  let r := s.tile t
  match r.latch, s.surface q.key, q.clip (s.active p).1 (s.active p).2 with
  | some l, some f, some (_, y0, _, y1) =>
    if q.kind ≠ 1 ∨ l.choice ≠ 3 ∨ r.faultRow.isSome then s
    else
      let (lo, hi) := rowSpan s q y0 y1
      let need := neededRow s q y
      let (s, ok) := pipeCheck s p f.block 16
      let (s, pageOk) := pipePages s p f l.pages
      if !(ok && pageOk) then missAt s t y
      else
      let fence := pipeRead s p f.block 8
      let same := decide (bits fence 63 32 = l.pic) && decide (bits fence 20 16 = l.buf)
      if same ∧ bits fence 15 0 ≤ need then raceFault s t p y y1 q f l
      else
        let seen := if y = y0 then 0 else (rowSpan s q y0 y).2 + 1
        let new := fun (b : PathBands) => b.cur.filter (fun e =>
          decide (e.first ≥ l.rows) && decide (e.first ≤ need) && decide (seen ≤ e.first ∨ y = y0) && e.meets lo hi)
        let pa := pathOf s p f l true
        let pb := pathOf s p f l false
        let older := fun (b : PathBands) => oldestOf (((new b).filter (fun e => decide (e.epoch < projected b l.rows e.first))).map (·.epoch))
        let a := older pa
        let b := older pb
        if a.isSome ∨ b.isSome then escalate s t y a b false else s
  | _, _, _ => s

/-- An underrun of a record's fetch for line y (R215): counted, raised, and the tile is marked with a race fault.
(DEDUCED: log entry 57.) -/
def underrun (s : State) (p y : Nat) (q : LRec) : State :=
  let t := q.tile p
  let s : State := s.bump (Reg.CMP_UNDERRUN_CNT + 0x1000 * p)
  let s : State := s.raiseLimited (0x050100 + p) 1000000000 0x0501
    (leBytes 1 p ++ leBytes 2 t ++ leBytes 2 y ++ leBytes 4 ((s.tg p).frame % 2 ^ 32))
  escalate s t y none none true

/-- The surface a record reads on line y (R182, R185, R186, R214). -/
def lineSurf (s : State) (p y : Nat) (q : LRec) : Option SrcSurf :=
  if q.kind = 2 then some ⟨q.surf, q.format, q.pitch, q.height⟩
  else
    let r := s.tile (q.tile p)
    match r.latch, s.surface q.key with
    | some l, some f =>
      if l.choice = 0 then none
      else
        let faulted : Bool := match r.faultRow with | some k => decide (k ≤ y) | none => false
        let b := if l.choice = 2 ∨ faulted then l.lastBuf else l.buf
        if q.reduced then some ⟨f.buffer b + f.roff, f.format, f.rpitch, f.rsize.2⟩ else some ⟨f.buffer b, f.format, f.pitch, f.height⟩
    | _, _ => none

/-- The stretches of memory that a record's filters read for line y of the active area (R183, R190, R191). -/
def readSpans (f : SrcSurf) (q : LRec) (y : Nat) : List (Nat × Nat) :=
  let rows := fun (chroma : Bool) => (filterRows q chroma ((y : Int) - q.y).toNat).map (·.1)
  let span := fun (plane w : Nat) => (rows false).map (fun k => (f.at_ + (plane * f.height + k) * f.pitch + w * q.cx, w * q.cw))
  match f.format with
  | 0x10 => span 0 2 ++ (rows true).map (fun k =>
      (f.at_ + (f.height + k) * f.pitch + 4 * (q.cx / 2), 4 * ((q.cx + q.cw - 1) / 2 + 1 - q.cx / 2)))
  | 0x30 => span 0 4
  | 0x31 => span 0 4
  | 0x40 => span 0 1
  | _ => span 0 2 ++ span 1 2 ++ span 2 2

/-- Check every surface read of a record on one line; the first denial is captured and raised (R188). (DEDUCED: log entry 56.) -/
def checkReads (s : State) (p y : Nat) (q : LRec) : State :=
  if q.kind = 0 then s
  else
    match lineSurf s p y q with
    | none => s
    | some f => (readSpans f q y).foldl (fun s e => (pipeCheck s p e.1 e.2).1) s

/-- Check the read of one row of a slate drawn from line top on (R188). -/
def checkSlateRow (s : State) (p k : Nat) (top : Int) (y : Nat) : State :=
  let row := (y : Int) - top
  let sl := s.slate k
  if slateOn s p k ∧ 0 ≤ row ∧ row < sl.height then
    (pipeCheck s p (s.slateBase + k * 2 ^ 20 + row.toNat * 2048) (4 * sl.width)).1
  else s

/-- Check the slate reads of a line: SLATE treatments and the cursor (R188, R19, R199). (DESIGN CHOICE: log entry 116.) -/
def checkSlates (s : State) (p y : Nat) (rs : List LRec) : State :=
  let s : State := rs.foldl (fun s q =>
    let r := s.tile (q.tile p)
    if (tileOnLine r y).1 = 5 then checkSlateRow s p r.pol.slate (q.y + ((q.h : Int) - (s.slate r.pol.slate).height) / 2) y else s) s
  let b := s.actBlock bPIPE p 0
  if bit (fieldAt b 29 1) 0 then checkSlateRow s p (fieldAt b 28 1) (sInt 16 (fieldAt b 32 2)) y else s

/-! ## An output line (R181, R197, R215, R240, R241, R248, R253, R254) -/

/-- The depth that stage 9 produces: the effective depth of a trained link, else OUT_BPC. -/
def lineDepth (s : State) (n : Nat) : Nat :=
  let d := s.dp n
  if d.trained ∧ !d.short then d.depth else pipeBpc (s.actBlock bPIPE n 0)

/-- Rectangles of an output take a line's pixels into their two CRCs; a source that sends the idle pattern maps none into transfer
units. (DEDUCED: log entry 66.) -/
def crcLine (s : State) (n y b : Nat) (ref link : List Px) : State :=
  (chksOf n).foldl (fun s c =>
    let r := s.chk c
    if r.mode = 0 ∨ y < r.y ∨ y ≥ r.y + r.h then s
    else
      let take := fun (acc : Nat) (l : List Px) => (((l.drop r.x).take r.w).flatMap (crcPx b)).foldl crcStep acc
      s.setChk c { r with refAcc := take r.refAcc ref, linkAcc := take r.linkAcc link }) s

/-- A pixel altered in the source. -/
def xorPx (v : Px) (k : U16 × U16 × U16) : Px := (v.1 ^^^ k.1.toNat, v.2.1 ^^^ k.2.1.toNat, v.2.2 ^^^ k.2.2.toNat)

/-- The 12-bit codes after stage 7 of line y of an enabled pipe: its racing records are checked, an underrun repeats the record's
pixels of its previous line (R215), and the line is composed. late lists the tiles whose fetch has not completed.
(DEDUCED: log entry 57; DEDUCED: log entry 60.) -/
def pipeLine (s : State) (p y : Nat) (late : List Nat) : State × List Px :=
  let (wd, ht) := s.active p
  let rs := (pipeRecords s false p).filter (fun q => match q.clip wd ht with | some (_, a, _, b) => decide (a ≤ y ∧ y < b) | none => false)
  let s : State := rs.foldl (fun s q => raceLine s p y q) s
  let miss := fun (q : LRec) => !(q.kind == 0) && late.contains (q.tile p)
  let s : State := rs.foldl (fun s q => if miss q then underrun s p y q else checkReads s p y q) s
  let s : State := checkSlates s p y rs
  let shown := rs.map (fun q => (q, if miss q then (s.tile (q.tile p)).linePx else recordPx s p (lineSurf s p y q) wd ht y q))
  let px := composeLine s p (fun q => ((shown.find? (fun e => e.1 == q)).map (·.2)).getD []) (s.tg p).frame y
  let post := postLut s p (fieldAt (s.actBlock bPIPE p 0) 19 1)
  let s : State := shown.foldl (fun s e => s.setTile (e.1.tile p) { s.tile (e.1.tile p) with linePx := e.2 }) s
  (s, px.map (fun v => (post v.1, post v.2.1, post v.2.2)))

/-- The last active line of a frame is out: the pipe's buffers are free, and its latches are over (R187). (DEDUCED: log entry 56.) -/
def endActive (s : State) (n : Nat) : State :=
  let s : State := { s with
    surf.reading := s.surf.reading.filter (fun e => !(e.1 == n)),
    fum.tiles := s.fum.tiles.map (fun e => if e.1 / 512 = n then (e.1, { e.2 with latch := none, linePx := [] }) else e) }
  settleReleases s

/-- An encode stream takes the tap of output n (R80). -/
def tapped (s : State) (n : Nat) : Bool := s.encs.any (fun e => e.2.open_ && e.2.kind == 1 && e.2.index == n)

/-- Line y of output n's tap: RGB rounded to 10 bits, put out and taken by the streams (R80, R197). -/
def tapLine (s : State) (n y : Nat) (px : List Px) : State :=
  let code := fun (v : Nat) => BitVec.ofNat 16 v
  feedLine (s.emit (.tap n y (px.map packPx))) 1 n y [px.map (fun v => code v.1), px.map (fun v => code v.2.1), px.map (fun v => code v.2.2)]

/-- OUTPUT_LINE (R181, R214): pipe n composes active line y. A tap that feeds an encode stream carries stage 8 (R80, R197). late lists the tiles whose fetch for this line is late, linkXor is what
the source alters in each pixel (R241). -/
def doOutputLine (s : State) (n y : Nat) (late : List Nat) (linkXor : U16 × U16 × U16) : State :=
  let g := s.tg n
  let (wd, ht) := s.active n
  if !g.running ∨ y ≥ ht then s
  else
    let s : State := s.setTg n { g with line := y }
    let (s, px) :=
      if svcShown s n then (s, (List.range wd).map (fun x => servicePx s n wd ht g.frame x y))
      else if !(s.enabled n) then (s, List.replicate wd ((0, 0, 0) : Px))
      else pipeLine s n y late
    let s : State := if tapped s n then tapLine s n y (px.map tapPx) else s
    let b := lineDepth s n
    let dith := fieldAt (s.actBlock bPIPE n 0) 18 1
    let out := if (s.pipe n).blanked then List.replicate wd ((0, 0, 0) : Px) else
      (px.zip (List.range wd)).map (fun (v, x) => (ditherTo b dith x y v.1, ditherTo b dith x y v.2.1, ditherTo b dith x y v.2.2))
    let link := out.map (fun v => xorPx v linkXor)
    let d := s.dp n
    let s : State := crcLine s n y b out (if d.trained ∧ !d.short then link else [])
    let s : State := if d.trained ∧ !d.short then s.emit (.line n y (link.map packPx)) else s
    if y + 1 = ht then endActive s n else s

end Machine
end Sys2Proof
end

