-- ==== Sys2Proof/Machine/Checks.lean ====
section
/-! DEFINITION. Check rectangles: CHECK_CFG, its application, and the decision of a result with its action (R239 to R252, R256). -/

namespace Sys2Proof
namespace Machine

/-- The tiles a CHECK_CFG lists. -/
def cfgTiles (j : Job) : List Nat := ((List.range 8).map (fun i => j.n (36 + 2 * i) 2)).filter (fun t => !(t == 0xFFFF))

/-- PERSIST, 0 selecting 3. -/
def cfgPersist (j : Job) : Nat := if j.n 32 1 = 0 then 3 else j.n 32 1

/-- The policy lock turns a change away (R251): the rectangle is PATH or acts, and the change is not one of the tightenings. -/
def chkLocked (s : State) (j : Job) : Bool :=
  let r := s.chk (j.n 16 1)
  let only := j.n 17 1 == r.mode && decide (r.action ≤ j.n 18 1) && bit (j.n 19 1) 0 == r.inter && j.n 20 2 == r.x && j.n 22 2 == r.y
    && j.n 24 2 == r.w && j.n 26 2 == r.h && decide (cfgPersist j ≤ r.persist) && r.tiles.all (fun t => (cfgTiles j).contains t)
  s.policyLock && (r.mode == 2 || r.action != 0) && !only

/-- A field of CHECK_CFG is out of range. -/
def chkBad (s : State) (j : Job) : Bool :=
  let c := j.n 16 1
  let n := c / 16
  let pipes := if inSplit s n then [n, partner n] else [n]
  decide (c > 127) || decide (j.n 17 1 > 4) || decide (j.n 18 1 > 3) || j.n 24 2 == 0 || j.n 26 2 == 0
    || (j.n 17 1 == 4 && j.n 18 1 != 0)
    || (cfgTiles j).any (fun t => decide (t ≥ 4096) || !(pipes.contains (t / 512)))
    || (bit (j.n 19 1) 0 && !(cfgTiles j).isEmpty)

/-- The area lies outside the active area, or the output has no mode (R251). -/
def chkOutside (s : State) (j : Job) : Bool :=
  let (wd, ht) := s.active (j.n 16 1 / 16)
  decide (j.n 20 2 + j.n 24 2 > wd) || decide (j.n 22 2 + j.n 26 2 > ht)

/-- Trigger 3 stands while a rectangle asserts it (R249, R351). -/
def settleRelq (s : State) : State := if s.scan.chks.any (fun e => e.2.relq) then s else s.untrigger 3

/-- A CHECK_CFG takes effect and completes (R252): the reported result is 2 while the mode is OFF or the generator is stopped, else that
of the last evaluated frame (R244); FAILS is 0, a trigger it asserted falls, and a hold it set is to end (R248). -/
def applyChk (s : State) (j : Job) : State :=
  let c := j.n 16 1
  let n := c / 16
  let r := s.chk c
  let s : State := s.setChk c { r with
    mode := j.n 17 1, action := j.n 18 1, inter := bit (j.n 19 1) 0, x := j.n 20 2, y := j.n 22 2, w := j.n 24 2, h := j.n 26 2,
    expect := j.n 28 4, persist := cfgPersist j, tiles := cfgTiles j, fails := 0, prev := none, relq := false,
    refAcc := 0xFFFFFFFF, linkAcc := 0xFFFFFFFF, done := false }
  let s : State := settleRelq s
  let s : State := chkReport s c (if j.n 17 1 = 0 ∨ !(s.tg n).running then 2 else r.last)
  let p := s.pipe n
  let s : State := s.setPipe n { p with
    endBlank := p.endBlank || p.blankBy == some c, nextBlank := if p.nextBlank = some c then none else p.nextBlank }
  s.finish j .done 0 0

/-- The checks of CheckCfg (R250, R251). -/
def checkCfgSpec (s : State) (j : Job) : CmdSpec :=
  let c := j.n 16 1
  let known := decide (c ≤ 127)
  let r := s.chk c
  { pf0 := false, ready := !known || s.isReady (18 + c / 16),
    body := j.onlyBits 19 1 1 && j.zero [(33, 3), (52, 12)] && (j.n 17 1 == 1 || j.zero [(28, 4)]),
    own := [chkOwner s j 8, chk (j.pf == 1 && (j.n 18 1 == 3 || (known && r.action == 3))) .denied,
            chk (known && chkLocked s j) .denied, chk (chkBad s j) .badDescriptor, chk (chkOutside s j) .outOfBounds] }

/-- CHECK_CFG (R250, R251): on a stopped output it applies at once, else at the next frame start. -/
def doCheckCfg (s : State) (j : Job) : State :=
  let c := j.n 16 1
  runJob s j (checkCfgSpec s j)
    (fun s =>
      if (s.tg (c / 16)).running then let r := s.chk c; s.setChk c { r with jobs := r.jobs ++ [j] } else applyChk s j)

/-- CHECK_CFG_APPLY (R252): the frame start at which the accepted configurations of a rectangle apply, in order. -/
def doCheckCfgApply (s : State) (c : Nat) : State :=
  let js := (s.chk c).jobs
  js.foldl applyChk (s.setChk c { s.chk c with jobs := [] })

/-- A tile was decided LIVE or LATE in frame f − 1 (R244). -/
def liveBefore (r : TileRec) (f : Nat) : Bool :=
  if r.frame = f then r.prevFrame == some (f - 1) && decide (f ≠ 0) && decide (r.prevState ≤ 1)
  else decide (r.frame + 1 = f) && decide (r.state ≤ 1)

/-- The tiles associated with a rectangle that have a record in the active state (R246). -/
def tilesOf (s : State) (c : Nat) : List Nat :=
  let r := s.chk c
  if r.inter then ((pipeRecords s false (c / 16)).filter (fun q => associated r (q.tile (c / 16)) q)).map (fun q => q.tile (c / 16))
  else r.tiles.filter (fun t => (tileRecord s false t).isSome)

/-- A rectangle is evaluated in the frame in progress (R244). (DEDUCED: log entry 66.) -/
def evaluated (s : State) (c : Nat) : Bool :=
  let n := c / 16
  let r := s.chk c
  let g := s.tg n
  let d := s.dp n
  r.mode != 0 && g.running && g.started && d.wholeFrame && d.trained && !(s.sys.mode == .frozen) && !(svcShown s n)
    && (r.mode != 3 || (tilesOf s c).all (fun t => liveBefore (s.tile t) g.frame))

/-- Rectangle c sets the blank hold of its output, if none stands (R248); where the one that stands is to end at the next frame
start, the new one begins there. -/
def PipeRec.holdBlank (p : PipeRec) (c : Nat) : PipeRec :=
  if p.blankBy.isNone then { p with blankBy := some c, endBlank := false }
  else if p.endBlank ∧ p.nextBlank.isNone then { p with nextBlank := some c }
  else p

/-- CHECK_RESULT (R240 to R249): the rectangle's CRCs of this frame are compared, and its action applies. (DEDUCED: log entry 66.) -/
def doCheckResult (s : State) (c : Nat) : State :=
  let r := s.chk c
  let n := c / 16
  let f := (s.tg n).frame
  if r.done ∨ !(evaluated s c) then s
  else
    let ref := r.refAcc ^^^ 0xFFFFFFFF
    let link := r.linkAcc ^^^ 0xFFFFFFFF
    let fail := match r.mode with
      | 1 => decide (link ≠ r.expect)
      | 2 => decide (link ≠ ref)
      | 3 => r.prev == some link
      | _ => false
    let comp := match r.mode with
      | 1 => r.expect
      | 2 => ref
      | 3 => r.prev.getD 0
      | _ => 0
    let fails := if fail then min (r.fails + 1) 0xFFFF else 0
    let trig := fail && (r.mode == 2 || r.action == 3) && fails == r.persist
    let s : State := s.setChk c { r with
      done := true, last := b2n fail, prev := some link, link := link, comp := comp, frame := f, fails := fails,
      failAt := if fail then some f else r.failAt, relq := if fail then r.relq || trig else false }
    let s : State := if fail then s.bump (Reg.OUT_CHK_FAIL_CNT + 4 * c) else settleRelq s
    let s : State := chkReport s c (b2n fail)
    let p := s.pipe n
    let s : State := if fail ∧ r.action = 2 then s.setPipe n (p.holdBlank c) else s
    if trig then
      let s : State := s.raise 0x0632 (leBytes 1 n ++ leBytes 1 c ++ leBytes 2 fails ++ leBytes 4 (f % 2 ^ 32))
      s.trigger 3 false
    else s

/-- The check mailbox item (R256). -/
def checkItem (s : State) (c : Nat) : List Byte :=
  let r := s.chk c
  leBytes 4 r.link ++ leBytes 4 r.comp ++ leBytes 4 r.frame ++ leBytes 1 r.result ++ leBytes 1 r.mode ++ leBytes 2 r.fails

/-- Timing generator items (R256). -/
def tgItem (s : State) (n : Nat) : List Byte := let g := s.tg n; leBytes 8 g.startFt ++ leBytes 8 g.frame
def tgLockItem (s : State) (n : Nat) : List Byte :=
  let g := s.tg (s.pairLead n)
  if g.cfg.timing = 1 ∧ g.running ∧ !g.unlocked then leBytes 8 g.lastK ++ leBytes 8 g.lastNom else List.replicate 16 0

/-- EDID item k of an output (R256). -/
def edidItem (s : State) (n k : Nat) : List Byte := slice (s.dp n).edid (16 * k) 16

end Machine
end Sys2Proof
end

