-- ==== Sys2Proof/Machine/Encode.lean ====
section
/-! DEFINITION. Encode streams: opening, rate control, slices, the Veore SEI, fabric and host output, keepalive (R80 to R103). -/

namespace Sys2Proof
namespace Machine

/-- A stream right after reset: not open. -/
def EncRec.init : EncRec :=
  { open_ := false, engine := 0, kind := 0, index := 0, width := 0, height := 0, chroma := 0, rows := 2, refresh := 16,
    nextRefresh := 16, div := 1, bitrate := 0, qpMin := 0, qpMax := 0, cpb := 2, out := 0, group := 0, flow := 0, mpxs := 0,
    keepS := 0, params := [], idr := false, sweep := false, fresh := false, begun := false, afterIdr := false, idx := 0,
    sweepHeld := false, full := 0, picCount := 0, epoch := 0, period := 0, lastStart := none, inCount := 0, keeping := false,
    expired := false, atBound := false, qpLast := 0, rc := 0, meanQp := none, sizes := [], epochs := [], cur := none, queue := [],
    seq := 0, restart := false, bufs := [], discont := false, closing := none, stop := false, refBase := 0,
    refSize := 0, taking := false, row := 0, lines := [], sigs := [], ref := [], queued := 0 }

def State.enc (s : State) (h : Nat) : EncRec := s.encs.getD h EncRec.init
def State.setEnc (s : State) (h : Nat) (r : EncRec) : State := { s with encs := s.encs.set h r }

/-- A register of stream h. -/
def encReg (base h : Nat) : Nat := base + 0x100 * h

/-- The sum of MAX_MPXS over an engine's open streams (R81). -/
def encLoad (s : State) (e : Nat) : Nat :=
  (s.encs.filter (fun p => p.2.open_ && p.2.engine == e)).foldl (fun a p => a + p.2.mpxs) 0

/-! ## ENC_OPEN, ENC_PARAMS, ENC_CLOSE, ENC_OUTBUF (R99 to R102) -/

/-- lo ≤ field ≤ hi. -/
def Job.within (j : Job) (o w lo hi : Nat) : Bool := decide (lo ≤ j.n o w) && decide (j.n o w ≤ hi)

/-- A field where 0 selects a default. -/
def orDefault (x d : Nat) : Nat := if x = 0 then d else x

/-- Field ranges of ENC_OPEN (Table: ENC_OPEN descriptor). (DEDUCED: log entry 35.) -/
def encOpenBad (j : Job) : Bool :=
  let w := j.n 20 2
  let h := j.n 22 2
  decide (j.n 16 1 > 1) || decide (j.n 17 1 > 3) || decide (j.n 18 1 > 1)
    || decide (j.n 19 1 > (if j.n 18 1 = 0 then 3 else 7)) || !(j.within 20 2 640 4096) || decide (w % 8 ≠ 0)
    || !(j.within 22 2 480 2304) || decide (h % 8 ≠ 0) || decide (j.n 24 1 > 1) || decide (j.n 25 1 > 16)
    || decide (orDefault (j.n 26 1) 16 < 4) || decide (orDefault (j.n 26 1) 16 > min 64 ((w + 31) / 32))
    || decide (j.n 27 1 > 4) || !(j.within 28 4 1000 400000) || decide (j.n 32 1 > 51) || !(j.within 33 1 (j.n 32 1) 51)
    || decide (j.n 34 1 > 8) || decide (j.n 35 1 = 0) || !(j.within 40 2 1 1000) || decide (j.n 42 2 > 3600)
    || decide (j.n 44 4 % 4096 ≠ 0) || decide (j.n 48 8 % 4096 ≠ 0)

/-- The reference area is too small, or not wholly in usable DRAM (R99). (DEDUCED: log entry 35.) -/
def encOpenBounds (s : State) (j : Job) : Bool :=
  decide (j.n 44 4 < (if j.n 24 1 = 1 then 12 else 6) * j.n 20 2 * j.n 22 2 + 65536)
    || decide (j.n 48 8 + j.n 44 4 > s.usable)

/-- The checks of EncOpen (R99, R81). -/
def encOpenSpec (s : State) (j : Job) : CmdSpec :=
  let e := j.n 16 1
  let h := 4 * e + j.n 17 1
  let taken := s.encs.any (fun p => p.2.open_ && p.2.engine == e && p.2.kind == j.n 18 1 && p.2.index == j.n 19 1)
  { pf0 := false, ready := s.isReady 2 && (decide (e > 1) || s.isReady (12 + e)),
    body := j.zero [(37, 1), (56, 8)] && j.onlyBits 35 1 3 && j.onlyBits 38 2 0xFFF,
    own := [chk (encOpenBad j) .badDescriptor,
            chk ((s.enc h).open_ || taken || decide ((encLoad s e + j.n 40 2) * 16 > 1000 * s.sys.therm.step)) .noResource,
            chk (encOpenBounds s j) .outOfBounds] }

/-- ENC_OPEN (R99, R81). -/
def doEncOpen (s : State) (j : Job) : State :=
  let e := j.n 16 1
  let h := 4 * e + j.n 17 1
  runJob s j (encOpenSpec s j) (fun s =>
    let n := orDefault (j.n 26 1) 16
    let r := { EncRec.init with
      open_ := true, engine := e, kind := j.n 18 1, index := j.n 19 1, width := j.n 20 2, height := j.n 22 2, chroma := j.n 24 1,
      rows := orDefault (j.n 25 1) 2, refresh := n, nextRefresh := n, div := orDefault (j.n 27 1) 1, bitrate := j.n 28 4,
      qpMin := j.n 32 1, qpMax := j.n 33 1, cpb := orDefault (j.n 34 1) 2, out := j.n 35 1, group := j.n 36 1, flow := j.n 38 2,
      mpxs := j.n 40 2, keepS := j.n 42 2, idr := true, fresh := true, restart := true, refSize := j.n 44 4, refBase := j.n 48 8,
      queued := (s.enc h).queued }
    let s : State := [Reg.STR_ENC_BITS, Reg.STR_ENC_CPB, Reg.STR_ENC_HELD_CNT, Reg.STR_ENC_DROP_CNT, Reg.STR_ENC_FABDROP_CNT,
      Reg.STR_ENC_HOSTDROP_CNT, Reg.STR_ENC_PICS].foldl (fun s b => s.setReg (encReg b h) 0) (s.setEnc h r)
    s.finish j .done 0 h)

/-- A command names an open stream. -/
def encOpen? (s : State) (h : Nat) : Bool := decide (h ≤ 7) && (s.enc h).open_

/-- The functions a command for stream h needs (R263). -/
def encReady (s : State) (h : Nat) : Bool := s.isReady 2 && (decide (h > 7) || s.isReady (12 + h / 4))

/-- The groups selected by ENC_PARAMS are in range (R100). (DEDUCED: log entry 31.) -/
def encParamsBad (s : State) (j : Job) : Bool :=
  let r := s.enc (j.n 16 1)
  let f := j.n 17 1
  (bit f 0 && (!(j.within 20 4 1000 400000) || decide (j.n 27 1 > 8)))
    || (bit f 1 && (decide (j.n 24 1 > 51) || !(j.within 25 1 (j.n 24 1) 51)))
    || (bit f 2 && (decide (orDefault (j.n 26 1) 16 < 4) || decide (orDefault (j.n 26 1) 16 > min 64 ((r.width + 31) / 32))))

/-- The checks of EncParams (R100). -/
def encParamsSpec (s : State) (j : Job) : CmdSpec :=
  let h := j.n 16 1
  { pf0 := false, ready := encReady s h, body := j.onlyBits 17 1 0x1F && j.zero [(18, 2), (28, 36)],
    own := [chk (!(encOpen? s h) || (s.enc h).closing.isSome || encParamsBad s j) .badDescriptor] }

/-- ENC_PARAMS (R100): accepted, it acts at the stream's next picture start. -/
def doEncParams (s : State) (j : Job) : State :=
  let h := j.n 16 1
  runJob s j (encParamsSpec s j) (fun s =>
    (s.setEnc h { (s.enc h) with params := (s.enc h).params ++ [j] }).finish j .done 0 0)

/-- A host buffer completes, once its bytes are out (R95, R129, R280, R281). (DEDUCED: log entry 133.) -/
def bufDone (s : State) (b : BufOut) (st : Status) : State := s.finishDma b.job st (bufFlags b.job b.used) b.used

/-- A closing stream whose slices have all left closes (R101): its waiting buffers complete with ABORTED first. -/
def settleEncClose (s : State) (h : Nat) : State :=
  let r := s.enc h
  match r.closing with
  | some j =>
    if r.cur.isNone ∧ r.queue.isEmpty then
      let s : State := r.bufs.foldl (fun s b => s.finish b.job .aborted (bufFlags b.job b.used) b.used) s
      (s.setEnc h { EncRec.init with queued := r.queued }).finish j .done 0 0
    else s
  | none => s

/-- The checks of EncClose (R101). (DEDUCED: log entry 31.) -/
def encCloseSpec (s : State) (j : Job) : CmdSpec :=
  let h := j.n 16 1
  { pf0 := false, ready := encReady s h, body := j.onlyBits 17 1 1 && j.zero [(18, 46)],
    own := [chk (!(encOpen? s h) || (s.enc h).closing.isSome) .badDescriptor] }

/-- ENC_CLOSE (R101): with DRAIN the picture under way is finished; without it nothing more is coded. -/
def doEncClose (s : State) (j : Job) : State :=
  let h := j.n 16 1
  runJob s j (encCloseSpec s j) (fun s =>
    let r := s.enc h
    let r := { r with closing := some j, stop := !(bit (j.n 17 1) 0) }
    settleEncClose (s.setEnc h { r with cur := if r.stop then none else r.cur }) h)

/-- The checks of EncOutbuf (R102, R333). (DEDUCED: log entry 31.) -/
def encOutbufSpec (s : State) (j : Job) : CmdSpec :=
  let h := j.n 16 1
  let r := s.enc h
  let len := j.n 32 4
  { pf0 := false, ready := encReady s h, body := j.zero [(18, 6), (36, 28)],
    own := [chk (decide (len % 4096 ≠ 0) || decide (len < 65536)) .badDescriptor, chkAperture s (j.n 24 8) len,
            chk (!(encOpen? s h) || !(bit r.out 1) || r.closing.isSome || decide (j.n 17 1 > 2) || decide (j.n 24 8 % 4096 ≠ 0)) .badDescriptor,
            chk (decide (r.bufs.length ≥ 16)) .noResource] }

/-- ENC_OUTBUF (R102): queued for the stream's records. -/
def doEncOutbuf (s : State) (j : Job) : State :=
  let h := j.n 16 1
  runJob s j (encOutbufSpec s j) (fun s =>
    s.setEnc h { (s.enc h) with bufs := (s.enc h).bufs ++ [{ job := j, used := 0 }] })

/-! ## Pictures (R80 to R86, R90) -/

/-- ENC_DROP (R103): at most once per second for each stream and reason. -/
def encDrop (s : State) (h reason cntReg : Nat) : State :=
  let s : State := s.bump (encReg cntReg h)
  s.raiseLimited (0x047300 + h * 4 + reason) 1000000000 0x0473
    (leBytes 1 h ++ leBytes 1 reason ++ leBytes 4 (s.cnt (encReg cntReg h)))

/-- The input delivers pictures of the stream's size (R90, STR_ENC_STATUS.INPUT_OK). (DEDUCED: log entry 34.) -/
def inputOk (s : State) (r : EncRec) : Bool :=
  if r.kind = 0 then
    (s.cap r.index).signal && (match (s.cap r.index).msa with | some m => m.width == r.width && m.height == r.height | none => false)
  else (s.tg r.index).running && s.active r.index == (r.width, r.height)

/-- One accepted input picture is arriving for the stream. -/
def inputLive (s : State) (r : EncRec) : Bool := inputOk s r && (r.kind != 0 || (s.cap r.index).live)

/-- The picture period: FRAME_DIV times the input's frame period in ns. -/
def inputPeriod (s : State) (r : EncRec) : Nat :=
  r.div * (if r.kind = 0 then (match (s.cap r.index).msa with | some m => m.periodNs | none => 0)
           else orDefault (s.tg r.index).period (match modeInfo (s.tg r.index).cfg.idx with | some m => m.periodNs | none => 0))

/-- Bits drained per picture: BITRATE × picture period. -/
def EncRec.drain (r : EncRec) : Nat := r.bitrate * 1000 * r.period / 1000000000

/-- One ENC_PARAMS takes effect (R100); full is clamped when the bucket changes. -/
def applyParams (r : EncRec) (j : Job) : EncRec :=
  let f := j.n 17 1
  let r := if bit f 0 then { r with bitrate := j.n 20 4, cpb := orDefault (j.n 27 1) 2 } else r
  let r := if bit f 0 then { r with full := min r.full (r.cpb * r.drain - r.drain) } else r
  let r := if bit f 1 then { r with qpMin := j.n 24 1, qpMax := j.n 25 1 } else r
  let r := if bit f 2 then { r with nextRefresh := orDefault (j.n 26 1) 16 } else r
  let r := if bit f 3 then { r with idr := true, fresh := true } else r
  if bit f 4 then { r with sweep := true } else r

/-- Slices of a picture (R83, R84): ⌈H ÷ 32⌉ CTU rows, SLICE_ROWS in each slice. -/
def EncRec.sliceCount (r : EncRec) : Nat := ((r.height + 31) / 32 + r.rows - 1) / r.rows
/-- Luma rows of slices 0 to j − 1. -/
def EncRec.rowsTo (r : EncRec) (j : Nat) : Nat := min r.height (32 * r.rows * j)

/-- Clamp a QP to [QPMIN, QPMAX]. (DEDUCED: log entry 29.) -/
def EncRec.clampQp (r : EncRec) (q : Int) : Int := max (r.qpMin : Int) (min (r.qpMax : Int) q)

/-- ENC_KEEPALIVE (R90, R103), with the PIC_COUNT of the stream's next picture. (DEDUCED: log entry 138.) -/
def encKeepEvent (s : State) (h : Nat) (v : Bool) : State :=
  s.raise 0x0472 (leBytes 1 h ++ leBytes 1 (b2n v) ++ leBytes 4 (s.enc h).picCount)

/-- The QP that the first slice of a picture starts at (R87): the mean of the previous picture, the middle after an IDR, and a
free value where neither is stated; an odd sum's half is open too. (DESIGN CHOICE: log entry 28.) -/
def startQp (s : State) (r : EncRec) : Nat × State :=
  let (x, s) := s.fresh
  if r.afterIdr then ((r.qpMin + r.qpMax + x % 2) / 2, s)
  else match r.meanQp with
    | some q => (q, s)
    | none => (x % 52, s)

/-- A picture starts on a stream (R84 to R88, R100): waiting ENC_PARAMS take effect, then its type, index, budget and QP. keep
says a keepalive picture. The refresh index that the SEI of an IDR carries is not stated, nor the level up to 5.1 (R83): free values.
(DESIGN CHOICE: log entry 28.) -/
def beginPicture (s : State) (h : Nat) (keep : Bool) (epoch source : Nat) : State :=
  let r0 := s.enc h
  let r := r0.params.foldl applyParams { r0 with params := [] }
  let (q, s) := startQp s r
  let (x, s) := s.fresh
  let (lv, s) := s.fresh
  let idr := r.idr
  let idx := if r.sweep ∨ r.idx ≥ r.refresh then 0 else r.idx
  let n := if idx = 0 then r.nextRefresh else r.refresh
  let d := r.drain
  let p : EncPic :=
    { idr := idr, keep := keep, change := r.fresh, epoch := if keep then r.epoch else epoch, source := source,
      slices := r.sliceCount, next := 0, used := 0, held := 0, firstHeld := 0, budget := max d (r.cpb * d - r.full), drain := d,
      state := if keep then 2 else 0, qp := q, qpSum := 0, qpCnt := 0, count := r.picCount,
      idx := if idr then x % 256 else idx, restart := r.restart, level := lv % 154 }
  s.setEnc h { r with
    cur := some p, taking := !keep, row := 0, lines := [], idr := false, sweep := false, fresh := false, restart := false, begun := true,
    refresh := if idr then r.refresh else n, idx := if idr then 0 else idx, picCount := (r.picCount + 1) % 2 ^ 32, epoch := p.epoch,
    sweepHeld := if idx = 0 ∧ !idr then false else r.sweepHeld }

/-! ## Rate control and slices (R87 to R91) -/

/-- ⌊2^(i/6) · 2^32⌋. (DEDUCED: log entry 29.) -/
def pow6 : Nat → Nat
  | 0 => 4294967296
  | 1 => 4820937788
  | 2 => 5411319704
  | 3 => 6074000999
  | 4 => 6817835603
  | _ => 7652761716

/-- size × 2^(k ÷ 6), scaled by 2^42, for k from −60 up. (DEDUCED: log entry 29.) -/
def scaled (size : Nat) (k : Int) : Nat :=
  let m := (k + 60).toNat
  size * pow6 (m % 6) * 2 ^ (m / 6)

/-- P(q) scaled by 2^42 over the remaining slices (R88). A slice that was never coded has no size: the free value x.
(DESIGN CHOICE: log entry 28.) -/
def projection (r : EncRec) (p : EncPic) (q : Nat) (x : Nat) : Nat :=
  (List.range (p.slices - p.next)).foldl (fun a i =>
    match r.sizes.get? (p.next + i) with
    | some (size, qp) => a + scaled size ((qp : Int) - q)
    | none => a + x) 0

/-- The loop's QP for slice next, before clamping (R87). -/
def loopQp (r : EncRec) (p : EncPic) : Int :=
  if p.next = 0 then p.qp
  else
    let t := p.drain * r.rowsTo p.next
    let u := p.used * r.height
    let up : Int := if 2 * u > 3 * t then 4 else if 4 * u > 5 * t then 2 else if 10 * u > 11 * t then 1 else 0
    let down : Int := if 4 * u < 3 * t then 2 else if 10 * u < 9 * t then 1 else 0
    p.qp + up - down

/-- ENC_AT_BOUND on a rising edge of AT_BOUND (R87). (DEDUCED: log entry 29.) -/
def setAtBound (s : State) (h : Nat) (v : Bool) (bound count : Nat) : State :=
  let was := (s.enc h).atBound
  let s : State := s.setEnc h { (s.enc h) with atBound := v }
  if v ∧ !was then s.raise 0x0470 (leBytes 1 h ++ leBytes 1 bound ++ leBytes 4 count) else s

/-- The ORIGIN of a stream's SEI and the SRC of its packets: this device, or the pair's alias for a stream of ALIAS_STREAMS (R349).
(DEDUCED: log entry 34.) -/
def encOrigin (s : State) (h : Nat) : Nat := if s.pair.enable ∧ bit s.pair.aliasStreams h then s.pair.addrAlias else s.addr

/-- The band epoch of a slice of an output tap (R82): the oldest epoch Fumarole used for the bound tiles whose visible part meets its rows in
this frame, or the time its first row was scanned. (DEDUCED: log entry 34.) -/
def tapEpoch (s : State) (p first n : Nat) : Nat :=
  let wd := (s.active p).1
  let rs := pipeRecords s false p
  let es := rs.filterMap (fun q =>
    let t := s.tile (q.tile p)
    if (s.bindAct (q.tile p)).source.isSome ∧ t.frame = (s.tg p).frame ∧ (List.range n).any (fun i => visibleOnLine rs q wd (first + i))
    then t.epoch else none)
  match es with
  | [] => (match modeInfo (s.tg p).cfg.idx with | some m => lineAt m (s.tg p).startFt first | none => (s.tg p).startFt)
  | e :: r => r.foldl min e

/-- The picture under way has all its slices (R85, R86): bucket, sizes, mean QP, ENC_HOLD. -/
def endEncPicture (s : State) (h : Nat) (p : EncPic) : State :=
  let r := s.enc h
  let full := r.full + p.used - p.drain
  let mean := if p.qpCnt = 0 then none else some ((2 * p.qpSum + p.qpCnt) / (2 * p.qpCnt))
  let s : State := s.setEnc h { r with
    cur := none, full := full, meanQp := mean, afterIdr := p.idr,
    idx := if p.idr then 0 else if p.idx + 1 ≥ r.refresh then 0 else p.idx + 1 }
  let s : State := s.setReg (encReg Reg.STR_ENC_BITS h) p.used
  let s : State := s.setReg (encReg Reg.STR_ENC_CPB h) full
  let s : State := s.setReg (encReg Reg.STR_ENC_PICS h) p.count
  if p.held ≠ 0 then
    s.raiseLimited (0x047100 + h) 100000000 0x0471
      (leBytes 1 h ++ leBytes 1 p.firstHeld ++ leBytes 1 p.held ++ leBytes 4 p.count)
  else s

/-! ## What a slice is coded from (R80, R83, R85, R91) -/

/-- The encoding of a stream's input and whether it has 10 bits: RGB of 10 bits at a tap (R80), what the MSA says at a capture port. -/
def inputForm (s : State) (r : EncRec) : Nat × Bool :=
  if r.kind = 1 then (0, true) else match (s.cap r.index).msa with | some m => (m.encoding, m.bpc10) | none => (0, true)

/-- BT.709 narrow-range codes of 10 bits for an RGB pixel of 10 bits (Table: encode tool set). (PRESUMED: log entry 140.) -/
def ycc709 (r g b : Nat) : Nat × Nat × Nat :=
  let y : Int := 2126 * r + 7152 * g + 722 * b
  let near := fun (n d : Int) => (2 * n + d) / (2 * d)
  ((64 + near (876 * y) 10230000).toNat, (512 + near (896 * (10000 * b - y)) (18556 * 1023)).toNat,
   (512 + near (896 * (10000 * r - y)) (15748 * 1023)).toNat)

/-- A plane of rows with every sample repeated horizontally. -/
def repeatX (pl : List (List Nat)) : List (List Nat) := pl.map (fun row => row.flatMap (fun v => [v, v]))

/-- The means of a plane's samples over blocks of two rows and w columns, rounded half up. (PRESUMED: log entry 140.) -/
def meanBlocks (w : Nat) (pl : List (List Nat)) : List (List Nat) :=
  (List.range ((pl.length + 1) / 2)).map (fun y =>
    let a := pl.getD (2 * y) []
    let b := pl.getD (min (2 * y + 1) (pl.length - 1)) []
    (List.range ((a.length + w - 1) / w)).map (fun x => meanUp ((a.drop (w * x)).take w ++ (b.drop (w * x)).take w)))

/-- A slice's input as its components are coded, 10 bits each (Table: encode tool set). (PRESUMED: log entry 140.) -/
def codedInput (enc : Nat) (ten : Bool) (chroma : Nat) (lines : List (List (List U16))) : List (List (List Nat)) :=
  let pl := fun k => lines.map (fun l => (l.getD k []).map (fun v => if ten then v.toNat else v.toNat * 4))
  if enc = 0 then
    if chroma = 1 then [pl 1, pl 2, pl 0]
    else
      let ycc := ((pl 0).zip ((pl 1).zip (pl 2))).map (fun (r, g, b) => (r.zip (g.zip b)).map (fun (r, g, b) => ycc709 r g b))
      [ycc.map (·.map (·.1)), meanBlocks 2 (ycc.map (·.map (·.2.1))), meanBlocks 2 (ycc.map (·.map (·.2.2)))]
  else if enc = 2 then
    if chroma = 1 then [pl 0, repeatX (pl 1), repeatX (pl 2)] else [pl 0, meanBlocks 1 (pl 1), meanBlocks 1 (pl 2)]
  else if chroma = 1 then [pl 0, pl 1, pl 2] else [pl 0, meanBlocks 2 (pl 1), meanBlocks 2 (pl 2)]

/-- The CTU signatures of a slice's input: 32 rows by 32 columns each, 4:2:2 chroma with half the columns (R83, R91).
(DESIGN CHOICE: log entry 139.) -/
def ctuSigs (enc width : Nat) (lines : List (List (List U16))) : List U32 :=
  (List.range ((lines.length + 31) / 32)).flatMap (fun y => (List.range ((width + 31) / 32)).map (fun x =>
    Config.ctuSig (((lines.drop (32 * y)).take 32).map (fun l =>
      (l.zip (List.range l.length)).map (fun (row, k) =>
        let w := if enc = 2 ∧ k ≠ 0 then 16 else 32
        (row.drop (w * x)).take w)))))

/-- The CTU columns that the picture of refresh index i intra-codes, from and up to (R85); all of them in an IDR. -/
def intraColumns (r : EncRec) (p : EncPic) : Nat × Nat :=
  let c := (r.width + 31) / 32
  if p.idr then (0, c) else (p.idx * c / r.refresh, (p.idx + 1) * c / r.refresh)

/-- What a stream's parameter sets say (R83). (PRESUMED: log entry 140.) -/
def encTools (s : State) (r : EncRec) (p : EncPic) : EncTools :=
  let rgb := (inputForm s r).1 == 0
  { main444 := r.chroma == 1, level := p.level, width := r.width, height := r.height, bitDepth := 10, ctu := 32, cuMin := 8, tuMin := 4,
    tuMax := 32, skipSize := 4, references := 1, tmvp := false, deblocking := true, sao := true, primaries := 1, transfer := 1,
    matrix := if rgb then some (if r.chroma = 1 then 0 else 1) else none, fullRange := rgb,
    rangeX := 128, rangeY := 64, merge := true, amvp := true, intraModes := 35, tiles := false, wpp := false, dependent := false,
    bPictures := false, scaling := false, pcm := false, weighted := false, longTerm := false, crossComp := false }

/-- Luma rows of the slice that comes next. -/
def EncRec.nextRows (r : EncRec) (p : EncPic) : Nat := r.rowsTo (p.next + 1) - r.rowsTo p.next

/-- The next slice coded in full at a QP (R80, R83, R85): columns left of the sweep read the reference only where it is 8 luma pixels left of
the columns under refresh. -/
def fullCode (s : State) (r : EncRec) (p : EncPic) (qp : Nat) : SliceCode :=
  let (enc, ten) := inputForm s r
  let (a, b) := intraColumns r p
  .coded qp a b (32 * (a : Int) - 8) (codedInput enc ten r.chroma (r.lines.take (r.nextRows p)))

/-- A slice of the picture under way goes into the stream's output queue with its SEI (R84, R89, R91, R92); the reference picture shows it
where it is not skipped (R88). (DEDUCED: log entry 36.) -/
def emitSlice (s : State) (h : Nat) (p : EncPic) (code : SliceCode) (size qp state : Nat) : State :=
  let r := s.enc h
  let j := p.next
  let held := match code with | .coded _ _ _ _ _ => false | _ => true
  let sigs := ctuSigs (inputForm s r).1 r.width (r.lines.take (r.nextRows p))
  let change := !held && !(r.sigs.get? j == some sigs)
  let first := r.rowsTo j
  let n := r.rowsTo (j + 1) - first
  let last := decide (j + 1 = p.slices)
  let sweepHeld := r.sweepHeld || (held && !p.idr)
  let swEnd := !p.idr && decide (p.idx + 1 = r.refresh)
  let ep := if held then (if p.idr then 0 else r.epochs.getD j 0)
            else if r.kind = 1 then tapEpoch s r.index first n else p.epoch
  let fl := b2n held + 2 * b2n (if held ∧ !p.idr then false else p.change || change) + 4 * b2n (j == 0) + 8 * b2n last
    + 16 * b2n swEnd + 32 * b2n (swEnd && !sweepHeld) + 64 * b2n p.keep + 128 * b2n p.idr
  let sei : Sei :=
    { uuid := seiUuid, size := 52, version := 1, flags := BitVec.ofNat 8 fl, origin := BitVec.ofNat 16 (encOrigin s h), source := BitVec.ofNat 16 p.source,
      slice := BitVec.ofNat 8 j, slices := BitVec.ofNat 8 p.slices, picCount := BitVec.ofNat 32 p.count,
      picEpoch := BitVec.ofNat 64 p.epoch, bandEpoch := BitVec.ofNat 64 ep, firstRow := BitVec.ofNat 16 first,
      rows := BitVec.ofNat 16 n, refreshN := BitVec.ofNat 8 r.refresh, refreshIdx := BitVec.ofNat 8 p.idx,
      qp := if held then 0 else BitVec.ofNat 8 qp }
  let p := { p with
    next := j + 1, used := p.used + size, state := state, held := p.held + b2n held,
    firstHeld := if held ∧ p.held = 0 then j else p.firstHeld, qpSum := p.qpSum + (if held then 0 else qp),
    qpCnt := p.qpCnt + b2n (!held) }
  let s : State := s.setEnc h { r with
    cur := some p, epochs := r.epochs.set j ep, sizes := if held then r.sizes else r.sizes.set j (size, qp),
    sweepHeld := sweepHeld, qpLast := if held then r.qpLast else qp, rc := state, lines := r.lines.drop n,
    sigs := if held then r.sigs else r.sigs.set j sigs, ref := if code = .skipped then r.ref else r.ref.set j (p.count, code),
    queue := r.queue ++ [{ sei := sei, code := code, restart := p.restart,
                           sets := if j = 0 ∧ (p.idr ∨ p.idx = 0) then some (encTools s r p) else none }] }
  let s : State := if held then s.bump (encReg Reg.STR_ENC_HELD_CNT h) else s
  if last then endEncPicture s h p else s

/-- Hold the next slice of the picture under way: a held slice takes at most K = 4,096 bits (R88, R89). -/
def holdSlice (s : State) (h : Nat) (p : EncPic) (bits_ : Nat) : State :=
  let s : State := emitSlice s h p (if p.idr then .grey else .skipped) (min bits_ 4096) 0 2
  setAtBound s h true 1 p.count

/-- One slice through the rate control (Table: rate control states), and the check of its size (R88). (DESIGN CHOICE: log entry 28.) -/
def codeSlice (s : State) (h : Nat) (p : EncPic) (sl : CodedSlice) : State :=
  let r := s.enc h
  let (x, s) := s.fresh
  let (y, s) := s.fresh
  let raw := loopQp r p
  let q := r.clampQp raw
  let left := p.slices - p.next
  let A : Int := (p.budget : Int) - p.used - left * 4096
  let fits := fun (v : Nat) => decide ((v : Int) ≤ A * 2 ^ 42)
  let fitMax := fits (projection r p r.qpMax y)
  let fitLoop := fits (projection r p q.toNat x)
  let p := { p with qp := q }
  if p.state = 2 ∨ !(if p.state = 0 then fitLoop || fitMax else fitMax) then holdSlice s h p sl.heldBits
  else
    let st := if p.state = 0 ∧ fitLoop then 0 else 1
    let qp := if st = 0 then q.toNat else r.qpMax
    if p.used + sl.bits + (left - 1) * 4096 > p.budget then holdSlice s h p sl.heldBits
    else
      let s : State := emitSlice s h p (fullCode s r p qp) sl.bits qp st
      setAtBound s h (st == 1 || !(raw == q)) (if st = 1 ∨ raw > q then 1 else 0) p.count

/-- SLICE_CODING: the engine codes the next slice of the stream's picture, once its last input row has arrived (R87 to R91, R93). -/
def doSliceCoding (s : State) (h : Nat) (sl : CodedSlice) : State :=
  match (s.enc h).cur with
  | none => s
  | some p => if (s.enc h).lines.length < (s.enc h).nextRows p then s else settleEncClose (codeSlice s h p sl) h

/-- Hold every slice a picture still lacks; each held slice's size is a free value of at most 4,096 bits.
(DESIGN CHOICE: log entry 28; DEDUCED: log entry 30.) -/
def holdRest : Nat → State → Nat → State
  | 0, s, _ => s
  | n + 1, s, h =>
    match (s.enc h).cur with
    | none => s
    | some p =>
      let (x, s) := s.fresh
      holdRest n (holdSlice s h p (x % 4097)) h

/-- A picture that its input has left unfinished is held to its end before the next one starts. (DEDUCED: log entry 30.) -/
def finishEncPicture (s : State) (h : Nat) : State :=
  match (s.enc h).cur with
  | some p => holdRest (p.slices + 1) s h
  | none => s

/-- ENC_PICTURE_START (R80, R81, R86, R90): an accepted picture of the input reaches the stream. Of each FRAME_DIV pictures after ENC_OPEN the
first is encoded. (DEDUCED: log entry 138.) -/
def doEncStart (s : State) (h : Nat) : State :=
  let r := s.enc h
  if !r.open_ ∨ r.closing.isSome ∨ !(inputLive s r) ∨ !(s.isReady (12 + r.engine)) then s
  else
    let s : State :=
      if r.keeping ∨ r.expired then
        let ev := r.keeping
        let s : State := s.setEnc h { r with keeping := false, expired := false }
        if ev then encKeepEvent s h false else s
      else s
    let r := s.enc h
    let s : State := s.setEnc h { r with inCount := r.inCount + 1, taking := false }
    if r.inCount % r.div ≠ 0 then s
    else
      let now := s.ft.toNat
      let soon : Bool := match r.lastStart with | some t => decide ((now - t) * r.mpxs < r.width * r.height * 1000) | none => false
      if soon then encDrop s h 0 Reg.STR_ENC_DROP_CNT
      else
        let s : State := finishEncPicture s h
        let s : State := s.setEnc h { (s.enc h) with lastStart := some now, period := inputPeriod s r }
        let epoch := if r.kind = 0 then (s.cap r.index).epoch else (s.tg r.index).startFt
        let source := if r.kind = 0 then (sourceOf s (prodKey 1 r.index)).getD 0xFFFF else 0xFFFF
        beginPicture s h false epoch source

/-- The input has no signal, or a capture input has another size (R90). -/
def keepDue (s : State) (r : EncRec) : Bool := if r.kind = 0 then !(inputOk s r) else !(s.tg r.index).running

/-- KEEPALIVE_PICTURE (R90): the stream emits a picture with every slice held while its input delivers nothing that fits.
(DEDUCED: log entry 30.) -/
def doKeepalive (s : State) (h : Nat) : State :=
  let r := s.enc h
  if !r.open_ ∨ r.closing.isSome ∨ r.keepS = 0 ∨ r.expired ∨ !(keepDue s r) then s
  else
    let s : State := finishEncPicture s h
    let s : State := if r.keeping then s else encKeepEvent (s.setEnc h { (s.enc h) with keeping := true }) h true
    let src := if r.kind = 0 then (sourceOf s (prodKey 1 r.index)).getD 0xFFFF else 0xFFFF
    finishEncPicture (beginPicture s h true 0 src) h

/-- KEEPALIVE_EXPIRY (R90): KEEPALIVE_S seconds of keepalive have passed; nothing is emitted until valid input returns. -/
def doKeepExpiry (s : State) (h : Nat) : State :=
  let r := s.enc h
  if r.keeping then encKeepEvent (s.setEnc h { r with keeping := false, expired := true }) h false else s

/-! ## Output (R92 to R95) -/

end Machine

open Machine

/-- Emulation prevention: 0x03 before a byte of at most 3 that follows two zero bytes. -/
def emulate : Nat → List Byte → List Byte
  | _, [] => []
  | z, b :: bs =>
    if z ≥ 2 ∧ b.toNat ≤ 3 then 3 :: b :: emulate (if b = 0 then 1 else 0) bs
    else b :: emulate (if b = 0 then z + 1 else 0) bs

/-- The 36 bytes after the UUID (Table: Veore SEI payload). -/
def Sei.payload (x : Sei) : List Byte :=
  [x.version, x.flags] ++ leBytes 2 x.origin.toNat ++ leBytes 2 x.source.toNat ++ [x.slice, x.slices] ++ leBytes 4 x.picCount.toNat
    ++ leBytes 8 x.picEpoch.toNat ++ leBytes 8 x.bandEpoch.toNat ++ leBytes 2 x.firstRow.toNat ++ leBytes 2 x.rows.toNat
    ++ [x.refreshN, x.refreshIdx, x.qp, 0]

/-- The SEI NAL unit of a slice (R92): type 39, one message of payload type 5 and size 52, in Annex B form. (PRESUMED: log entry 32.) -/
def Sei.nal (x : Sei) : List Byte :=
  [0, 0, 0, 1, 0x4E, 1] ++ emulate 0 ([5, BitVec.ofNat 8 x.size] ++ x.uuid ++ x.payload ++ [0x80])

/-- The bytes of a slice as sent: parameter sets before the first slice of an IDR or of refresh index 0 (R84), SEI, slice. -/
def sliceBytes (o : Machine.SliceOut) (params nal : List Byte) : List Byte :=
  (if o.sets.isSome then params else []) ++ o.sei.nal ++ nal

namespace Machine

/-- The STREAM packets of a slice (R94). (DEDUCED: log entry 151.) -/
def slicePackets (s : State) (h : Nat) (o : SliceOut) (b : List Byte) : List Packet :=
  let r := s.enc h
  let fl := o.sei.flags.toNat
  let k := (b.length + 507) / 508
  (List.range k).map (fun i =>
    let part := (b.drop (508 * i)).take 508
    let flags := b2n (i == 0) + 2 * b2n (i + 1 == k) + 4 * b2n (bit fl 2) + 8 * b2n (bit fl 3)
    mkPacket r.group (encOrigin s h) clsSTREAM r.flow ((r.seq + i) % 65536) (1 + 4 * b2n o.restart) s.domain
      (leBytes 2 part.length ++ leBytes 1 flags ++ leBytes 1 0 ++ part))

/-- Bytes that an engine's streams have put into its fabric queue and that may still be there. (DEDUCED: log entry 33.) -/
def engQueued (s : State) (e : Nat) : Nat := (s.encs.filter (fun p => p.1 / 4 == e)).foldl (fun a p => a + p.2.queued) 0

/-- What an engine's fabric queue holds from now on, in one count. -/
def setEngQueued (s : State) (h v : Nat) : State :=
  { s with encs := s.encs.map (fun e => if e.1 / 4 = h / 4 then (e.1, { e.2 with queued := if e.1 = h then v else 0 }) else e) }

/-- Fabric output of a slice (R94): sent whole, or dropped where the engine's 1 MiB queue cannot hold it beside what earlier slices left there;
how fast the queue empties is not stated, so what is left is a free value. (DEDUCED: log entry 33.) -/
def sliceFabric (s : State) (h : Nat) (o : SliceOut) (b : List Byte) : State :=
  let ps := slicePackets s h o b
  let size : Nat := ps.foldl (fun a p => a + p.size) 0
  let s : State := s.setEnc h { (s.enc h) with seq := ((s.enc h).seq + ps.length) % 65536 }
  let (x, s) := s.fresh
  let left := x % (engQueued s (h / 4) + 1)
  if left + size > 0x100000 then encDrop (setEngQueued s h left) h 1 Reg.STR_ENC_FABDROP_CNT
  else ps.foldl (fun s p => s.routePkt none p) (setEngQueued s h (left + size))

/-- Room left in a stream's host buffers. (DEDUCED: log entry 33.) -/
def bufRoom (bs : List BufOut) : Nat := bs.foldl (fun a b => a + (b.job.n 32 4 - b.used)) 0

/-- Write a record into the host buffers in order, completing each that is full (R95); a denied write ends its buffer's command, and the rest
of the record is lost (R457). (DEDUCED: log entry 133.) -/
def putRecord : Nat → State → Nat → List Byte → State
  | 0, s, _, _ => s
  | n + 1, s, h, rec_ =>
    let r := s.enc h
    match r.bufs with
    | [] => s
    | b :: bs =>
      let len := b.job.n 32 4
      let k := min rec_.length (len - b.used)
      let (s, m) := if k = 0 then (s, 0) else hostWriteUnder s (0x18 + r.engine) b.job (b.job.n 24 8 + b.used) (rec_.take k)
      let b := { b with used := b.used + m }
      if m < k then bufDone (s.setEnc h { (s.enc h) with bufs := bs }) b .denied
      else if b.used = len then
        putRecord n (bufDone (s.setEnc h { (s.enc h) with bufs := bs }) b .done) h (rec_.drop k)
      else s.setEnc h { (s.enc h) with bufs := b :: bs }

/-- Host output of a slice (R95). (DEDUCED: log entry 33.) -/
def sliceHost (s : State) (h : Nat) (o : SliceOut) (b : List Byte) : State :=
  let r := s.enc h
  let fl := o.sei.flags.toNat
  let rec_ := leBytes 4 b.length ++ leBytes 1 (b2n (bit fl 2) + 2 * b2n (bit fl 3) + 4 * b2n (bit fl 0) + 8 * b2n r.discont)
    ++ [o.sei.slice] ++ leBytes 2 0 ++ leBytes 8 o.sei.bandEpoch.toNat ++ b ++ List.replicate ((16 - b.length % 16) % 16) 0
  let s : State :=
    if rec_.length > bufRoom r.bufs then
      encDrop (s.setEnc h { r with discont := true }) h 2 Reg.STR_ENC_HOSTDROP_CNT
    else putRecord (r.bufs.length + 1) (s.setEnc h { r with discont := false }) h rec_
  match (s.enc h).bufs with
  | bf :: bs =>
    let on := bf.job.n 17 1
    if bf.used ≠ 0 ∧ (on = 2 ∨ (on = 1 ∧ bit fl 3)) then bufDone (s.setEnc h { (s.enc h) with bufs := bs }) bf .done else s
  | [] => s

/-- SLICE_READY (R92 to R95): the oldest coded slice leaves, with the NAL bytes that its coding gave. -/
def doSliceReady (s : State) (h : Nat) (params nal : List Byte) : State :=
  let r := s.enc h
  match r.queue with
  | [] => s
  | o :: q =>
    let b := sliceBytes o params nal
    let s : State := s.setEnc h { r with queue := q }
    let s : State := if bit r.out 0 then sliceFabric s h o b else s
    let s : State := if bit r.out 1 then sliceHost s h o b else s
    settleEncClose s h

/-! ## Register views -/

def viewEncStatus (s : State) (h : Nat) : Nat :=
  let r := s.enc h
  (r.qpLast % 64) * 256 + (r.rc % 4) * 16 + 8 * b2n r.keeping + 4 * b2n r.atBound + 2 * b2n (r.open_ && inputOk s r) + b2n r.open_

end Machine
end Sys2Proof
end

