-- ==== Sys2Proof/Machine/HostMem.lean ====
section
/-! DEFINITION. Device memory from the host (R282, R283) and the host-written surfaces it publishes (R159, R167). -/

namespace Sys2Proof
namespace Machine

/-- Bytes of a band block as Fumarole reads them: under MID 0x28 where a source has the pool as its producer. -/
def fumRead (s : State) (key addr len : Nat) : List Byte × State :=
  if (sourceOf s key).isSome then
    let (b, s, _) := s.memRd 0x28 addr len
    (b, s)
  else (memRead s.mem addr len, s)

/-- The picture record of a buffer as the block holds it (Table: picture record). -/
def picOfBytes (b : List Byte) : PicRec :=
  { pic := fieldAt b 0 4, height := fieldAt b 6 2, flags := fieldAt b 10 2, epoch := fieldAt b 16 8, origin := fieldAt b 24 2,
    bands := [] }

/-- A band entry as the block holds it (Table: band entry). -/
def bandOfBytes (b : List Byte) : BandRec :=
  { first := fieldAt b 0 2, rows := fieldAt b 2 2, flags := fieldAt b 4 1, epoch := fieldAt b 8 8, sig := fieldAt b 16 4 }

/-- The host has written the FENCE of a host-written pool (R159, R167): a new PIC starts a picture, a higher ROWS publishes the
bands that the buffer's page has gained; a picture without a concealed band is clean (R17). (DEDUCED: log entry 69.) -/
def hostFence (s : State) (key : Nat) (f : SurfRec) : State :=
  let (fw, s) := fumRead s key f.block 8
  let fence := leNat fw
  let pic := bits fence 63 32
  let buf := bits fence 20 16
  let rows := bits fence 15 0
  let p := s.pub key
  let (page, s) := fumRead s key (bufPage f buf) 64
  let s : State := if pic ≠ p.pic ∨ buf ≠ p.buf then tableStart s key buf (picOfBytes page) else s
  let p := s.pub key
  if rows ≤ p.rows then s
  else
    let have_ := p.cur.bands.length
    let n := min (fieldAt page 9 1) 144
    (List.range (n - have_)).foldl (fun s i =>
      let k := have_ + i
      let (bb, s) := fumRead s key (bufPage f buf + 64 + 24 * k) 24
      let band := bandOfBytes bb
      let prev := (newestFull s key).map (·.2)
      let flags := fieldAt page 10 2
      let row := if k + 1 = n then rows else band.first + band.rows
      let clean := ((s.pub key).cur.bands ++ [band]).all (fun e => e.flags % 4 == 0)
      tableBand s key band flags row (bandChange prev band) clean true false) s

/-- Host-written pools whose FENCE lies in a range just written. (DEDUCED: log entry 69.) -/
def hostPublish (s : State) (addr len : Nat) : State :=
  (s.surf.surfs.filter (fun e => decide (e.1 / 1024 = 3 ∧ addr < e.2.block + 8 ∧ e.2.block < addr + len))).foldl
    (fun s e => hostFence s e.1 e.2) s

/-- The checks of R283 in order: LENGTH, aperture, usable DRAM, MPU. -/
def copyChecks (s : State) (j : Job) (write : Bool) : List (Option Refuse) :=
  let form := j.n 16 1
  let len := j.n 20 4
  let dev := j.n 24 8
  let host := j.n 32 8
  [chk (decide (form > 1) || (!write && form == 0) || decide (len = 0) || decide (len > (if form = 0 then 32 else 0x1000000)))
     .badDescriptor,
   if form = 1 then chkAperture s host len else none, chk (decide (dev + len > s.usable)) .outOfBounds,
   chkMpu s j.mid dev len write, if form = 1 then chkMpu s j.mid (s.hostInternal host) len (!write) else none]

/-- Reserved bytes of both descriptors (R282). -/
def copyBody (j : Job) : Bool := j.zero [(17, 3)] && (j.n 16 1 != 1 || j.zero [(40, 24)])

/-- The checks of MemWrite (R282, R283). -/
def memWriteSpec (s : State) (j : Job) : CmdSpec :=
  { pf0 := false, ready := s.isReady 2, body := copyBody j, own := copyChecks s j true }

/-- The bytes of a MEM_WRITE go into device memory (R283). -/
def memCopyIn (s : State) (j : Job) (data : List Byte) : State :=
  let len := j.n 20 4
  let dev := j.n 24 8
  let (s, ok) := s.memWrTill j.mid dev data
  if ok then (hostPublish s dev len).finish j .done 0 len else s.finish j .denied 4 0

/-- MEM_WRITE (R282, R283); buf holds the host buffer's bytes in FORM 1. -/
def doMemWrite (s : State) (j : Job) (buf : List Byte) : State :=
  let len := j.n 20 4
  runJob s j (memWriteSpec s j) (fun s =>
    if j.n 16 1 = 1 then s.hostFetch j [(j.n 32 8, len)] buf (fun s b => memCopyIn s j (slice b 0 len))
    else memCopyIn s j (j.bytes 32 len))

/-- The checks of MemRead (R282, R283). -/
def memReadSpec (s : State) (j : Job) : CmdSpec :=
  { pf0 := false, ready := s.isReady 2, body := copyBody j, own := copyChecks s j false }

/-- MEM_READ (R282, R283). -/
def doMemRead (s : State) (j : Job) : State :=
  let len := j.n 20 4
  runJob s j (memReadSpec s j) (fun s =>
    let (b, s, ok) := s.memRd j.mid (j.n 24 8) len
    if ok then (s.hostWriteFor j (j.n 32 8) b).finishDma j .done 0 len else s.finish j .denied 4 0)

end Machine
end Sys2Proof
end

