-- ==== Sys2Proof/Machine/Touch.lean ====
section
/-! DEFINITION. Desk touch sensing: maps, panel references, scan cycles, contacts, baselines, noise and self-test (R365 to R383, R385,
R386). -/

namespace Sys2Proof
namespace Machine

/-- The map after reset: OUTPUT 0xFF (R373). -/
def TouchMapRec.init : TouchMapRec :=
  { out := 0xFF, orient := 0, px0 := 0, py0 := 0, px1 := 1023, py1 := 1791, ox := 0, oy := 0, ow := 1, oh := 1 }

/-- A port right after reset: not scanning. -/
def TouchRec.init : TouchRec :=
  { scanning := false, seed := false, refUsed := false, freq := 0, hopped := false, rawM := [], rawS := [], baseM := [], baseS := [],
    frozenM := [], frozenS := [], contacts := [], map := TouchMapRec.init, cycle := 0, noise := [], atBound := false, wet := 0,
    first := 0, cur := none, stopping := false, open_ := [], short := [] }

def State.tch (s : State) (t : Nat) : TouchRec := s.touch.ports.getD t TouchRec.init
def State.setTch (s : State) (t : Nat) (r : TouchRec) : State := { s with touch.ports := s.touch.ports.set t r }

/-- A register of port t. -/
def tchOff (base t : Nat) : Nat := base + 0x1000 * t
def State.tchReg (s : State) (base t : Nat) : Nat := s.reg (tchOff base t)

/-! ## Timing limits (R367 to R369) -/

/-- The listed frequency j of port t, where it is valid (R375). -/
def tchFreq (s : State) (t j : Nat) : Option Nat :=
  let v := s.reg (tchOff Reg.EDG_TCH_FREQ t + 4 * j)
  if bit v 31 then some (bits v 18 0) else none

/-- The limits of R368 hold for one frequency with these integration lengths. -/
def tchFits (nMut nSelf f0 : Nat) : Bool :=
  decide (50000 ≤ f0) && decide (f0 * (nMut + 7) ≤ 400000 * nMut) && decide ((14 * nMut + 3 * nSelf) * 1000000 ≤ (7333 - 840) * f0)

/-- The limits of R368 hold for a value of EDG_TCH_SCAN and values of EDG_TCH_FREQ. -/
def tchTimingOk (scan : Nat) (freqs : List Nat) : Bool :=
  freqs.all (fun v => !(bit v 31) || tchFits (bits scan 8 0) (bits scan 24 16) (bits v 18 0))

/-- The drive electrodes of step k of the mutual frame, each with its tone (Table: cycle layout). -/
def drivenIn (k : Nat) : List (Nat × Nat) := (List.range 8).map (fun j => (k + 14 * j, j))

/-- The electrodes on the receivers in step k of the self frame (Table: cycle layout). -/
def selfIn (k : Nat) : List Nat :=
  if k = 0 then (List.range 64).map (· + 112) else if k = 1 then List.range 64 else (List.range 48).map (· + 64)

/-- Tone j of a base frequency, times N_MUT (R367). -/
def toneTimes (f0 nMut j : Nat) : Nat := f0 * (nMut + j)

/-- A raw count from the detector's components at a gain of num ÷ den, saturating (R366). -/
def rawCount (i q : Int) (num den : Nat) : Nat := min 0xFFFF (Nat.sqrt (i * i + q * q).toNat * num / max 1 den)

/-- The sense time of cycle n of port t: the midpoint of its mutual frame (R369), in whole ns. (DEDUCED: log entry 91.) -/
def senseTime (s : State) (t n : Nat) : Nat :=
  let f0 := (tchFreq s t (s.tch t).freq).getD 200000
  cycleStart n + 500000 + 7 * 20000 + 7 * bits (s.tchReg Reg.EDG_TCH_SCAN t) 8 0 * 1000000000 / max 1 f0

/-! ## TOUCH_MAP and TOUCH_REF_LOAD (R373, R382) -/

/-- The checks of TouchMap (R373). -/
def touchMapSpec (s : State) (j : Job) : CmdSpec :=
  let t := j.n 16 1
  let out := j.n 17 1
  let m : TouchMapRec :=
    { out := out, orient := j.n 18 1, px0 := j.n 20 2, py0 := j.n 22 2, px1 := j.n 24 2, py1 := j.n 26 2, ox := j.n 28 2, oy := j.n 30 2,
      ow := j.n 32 2, oh := j.n 34 2 }
  { pf0 := false, ready := decide (t > 1) || s.isReady (43 + t), body := j.onlyBits 18 1 7 && j.zero [(19, 1), (36, 28)],
    own := [chk (decide (t > 1) || (decide (out > 7) && out != 0xFF) || decide (m.px1 > 1023) || decide (m.py1 > 1791)
              || decide (m.px0 ≥ m.px1) || decide (m.py0 ≥ m.py1) || decide (m.ox > 8191) || decide (m.oy > 8191)
              || decide (m.ow = 0 ∨ m.ow > 8192) || decide (m.oh = 0 ∨ m.oh > 8192)) .badDescriptor] }

/-- TOUCH_MAP (R373). -/
def doTouchMap (s : State) (j : Job) : State :=
  let t := j.n 16 1
  let out := j.n 17 1
  let m : TouchMapRec :=
    { out := out, orient := j.n 18 1, px0 := j.n 20 2, py0 := j.n 22 2, px1 := j.n 24 2, py1 := j.n 26 2, ox := j.n 28 2, oy := j.n 30 2,
      ow := j.n 32 2, oh := j.n 34 2 }
  runJob s j (touchMapSpec s j)
    (fun s => (s.setTch t { (s.tch t) with map := m }).finish j .done 0 0)

/-- The panel reference of port t; none where none is held. -/
def State.panel (s : State) (t : Nat) : Option (List Byte) :=
  match s.aon.panels.getD t [] with | [] => none | b => some b

/-- Set or clear a port's panel reference. -/
def setPanel (s : State) (t : Nat) (b : List Byte) : State :=
  let ps := [s.aon.panels.getD 0 [], s.aon.panels.getD 1 []]
  { s with aon.panels := ps.set t b }

/-- The image is a panel reference (R382): MAGIC, VERSION and AMP. (DEDUCED: log entry 93.) -/
def panelOk (b : List Byte) : Bool :=
  fieldAt b 0 4 == 0x08247EF0 && fieldAt b 4 2 == 1 && decide (2 ≤ fieldAt b 6 1) && decide (fieldAt b 6 1 ≤ 12)

/-- The checks of TouchRef (R333, R382, R457). (DEDUCED: log entry 93.) -/
def touchRefSpec (s : State) (j : Job) : CmdSpec :=
  let t := j.n 16 1
  let clear := bit (j.n 17 1) 0
  let addr := j.n 24 8
  let len := j.n 32 4
  { pf0 := false, ready := decide (t > 1) || s.isReady (43 + t),
    body := j.onlyBits 17 1 1 && j.zero [(18, 6), (36, 28)],
    own := [chk (!clear && len != 14720) .badDescriptor,
            if clear then none else chkAperture s addr len, chk (decide (t > 1)) .badDescriptor, chk (!clear && decide (addr % 4 ≠ 0)) .outOfBounds,
            if clear then none else chkMpu s 1 (s.hostInternal addr) len false] }

/-- A panel image that has been read (R382): its checks, and the port's reference. -/
def panelLoad (s : State) (j : Job) (img : List Byte) : State :=
  let b := slice img 0 14720
  if panelOk b then (setPanel s (j.n 16 1) b).finish j .done 0 0 else s.finish j .badDescriptor 0 0

/-- TOUCH_REF_LOAD (R382, R457): img holds the image's bytes. -/
def doTouchRef (s : State) (j : Job) (img : List Byte) : State :=
  let t := j.n 16 1
  let clear := bit (j.n 17 1) 0
  let addr := j.n 24 8
  let len := j.n 32 4
  runJob s j (touchRefSpec s j) (fun s =>
    if clear then (setPanel s t []).finish j .done 0 0
    else s.hostFetch j [(addr, len)] img (fun s b => panelLoad s j b))

/-- The listed frequency that makes the port's reference usable for a seeding (R380): its index. -/
def refFreq (s : State) (t : Nat) : Option Nat :=
  match s.panel t with
  | none => none
  | some b =>
    if fieldAt b 6 1 = bits (s.tchReg Reg.EDG_TCH_SCAN t) 31 28 then
      (List.range 4).find? (fun j => tchFreq s t j == some (fieldAt b 8 4))
    else none

/-! ## Reports (R374, R385) -/

/-- Where a contact lies for a report: flags OUTSIDE and SERVICE, output point, tile, source, state with ESCALATED, frame. -/
structure Mapped where
  flags  : Nat
  ox     : Nat
  oy     : Nat
  tile   : Nat
  source : Nat
  state  : Nat
  frame  : Nat
  deriving DecidableEq, Repr

/-- The output point of a panel point (R374); none outside the panel rectangle. -/
def mapPoint (m : TouchMapRec) (x y : Nat) : Option (Nat × Nat) :=
  if x < m.px0 ∨ m.px1 < x ∨ y < m.py0 ∨ m.py1 < y then none
  else
    let a := x - m.px0
    let b := y - m.py0
    let A := m.px1 - m.px0 + 1
    let B := m.py1 - m.py0 + 1
    let (u, v, U, V) := if bit m.orient 0 then (b, a, B, A) else (a, b, A, B)
    let u := if bit m.orient 1 then U - 1 - u else u
    let v := if bit m.orient 2 then V - 1 - v else v
    some (m.ox + u * m.ow / U, m.oy + v * m.oh / V)

/-- The latest frame of output n whose active line y began at or before a time; earlier frames have begun a period of the last one apart
(R374). (DEDUCED: log entry 21.) -/
def frameAt (s : State) (n y t : Nat) : Nat :=
  let g := s.tg n
  match modeInfo g.cfg.idx with
  | some m => g.frame - ((List.range 8).find? (fun k => decide (lineAt m (g.startFt - k * g.period) y ≤ t))).getD 8
  | none => g.frame

/-- The state drawn for a tile at row y in a frame, with ESCALATED in bit 3 (R374): by the decision in that frame, or the last one before it.
(DEDUCED: log entry 21.) -/
def tileAt (s : State) (tile y frame : Nat) : Nat :=
  let r := s.tile tile
  let now : TileOld := { frame := r.frame, state := r.state, state0 := r.state0, esc := r.esc, escRow := r.escRow }
  let d := ((now :: r.history).find? (fun d => decide (d.frame ≤ frame))).getD now
  if d.esc then (if d.escRow ≤ y then d.state + 8 else d.state0) else d.state

/-- Map a contact at a sense time (R374). What the spec does not state of a report without an output is a free value.
(DEDUCED: log entry 92; DEDUCED: log entry 21.) -/
def mapContact (s : State) (m : TouchMapRec) (x y sense : Nat) : Mapped × State :=
  let (free, s) := s.fresh
  let svc := m.out ≤ 7 && (svcShown s m.out || !(s.enabled m.out))
  if m.out > 7 then ({ flags := if (mapPoint m x y).isSome then 0 else 2, ox := 0xFFFF, oy := 0xFFFF, tile := 0xFFFF, source := 0xFFFF, state := 7, frame := free }, s)
  else
    match mapPoint m x y with
    | none => ({ flags := if svc then 10 else 2, ox := 0xFFFF, oy := 0xFFFF, tile := 0xFFFF, source := 0xFFFF, state := 7, frame := free }, s)
    | some (px, py) =>
      let g := s.tg m.out
      let wd := (s.active m.out).1
      let (p, lx) := if g.cfg.split ∧ !g.odd ∧ px ≥ wd ∧ m.out % 2 = 0 then (m.out + 1, px - wd) else (m.out, px)
      let frame := frameAt s m.out py sense
      if svcShown s m.out ∨ !(s.enabled p) then
        ({ flags := 8, ox := px, oy := py, tile := 0xFFFF, source := 0xFFFF, state := 7, frame := frame }, s)
      else
        let (w, h) := s.active p
        match (pipeRecords s false p).reverse.find? (fun r => decide (lx < w) && decide (py < h) && r.covers lx py) with
        | none => ({ flags := 0, ox := px, oy := py, tile := 0xFFFF, source := 0xFFFF, state := 7, frame := frame }, s)
        | some r =>
          let t := r.tile p
          let src := ((s.bindAct t).source).getD 0xFFFF
          let rec_ := s.tile t
          let (st, fr) := if g.running then (tileAt s t py frame, frame) else (rec_.state, rec_.frame)
          ({ flags := 0, ox := px, oy := py, tile := t, source := src, state := if src = 0xFFFF then 7 else st, frame := fr }, s)

/-- TOUCH_REPORT (R385): kind 0 DOWN, 1 MOVE, 2 UP; extra holds ANCHORED and WATER. -/
def touchReport (s : State) (t id kind extra : Nat) (m : Mapped) (cycle delta : Nat) : State :=
  s.raise 0x0860 (leBytes 1 (id + 16 * t + 32 * kind) ++ leBytes 1 (m.flags + extra) ++ leBytes 2 m.ox ++ leBytes 2 m.oy
    ++ leBytes 2 m.tile ++ leBytes 2 m.source ++ leBytes 1 m.state ++ leBytes 2 cycle ++ leBytes 4 m.frame ++ leBytes 2 delta)

/-- An UP report of a contact at its last position; the spec states no peak delta for it: a free value. (DEDUCED: log entry 92.) -/
def reportUp (s : State) (t id extra : Nat) (c : ContactRec) (n : Nat) : State :=
  let (m, s) := mapContact s (s.tch t).map c.x c.y (senseTime s t n)
  let (d, s) := s.fresh
  touchReport s t id 2 extra m n d

/-! ## ENABLE and HOLD (R372, R380, R382) -/

/-- ENABLE becomes 1: the port scans from the next whole cycle on, on frequency 0, and seeds in its first cycle (R367, R375, R380). -/
def touchStart (s : State) (t : Nat) : State :=
  s.setTch t { (s.tch t) with scanning := true, seed := true, freq := 0, hopped := false, noise := [], atBound := false, contacts := [],
                              frozenM := [], frozenS := [], first := nextCycle s, cur := none, stopping := false }

/-- The port stops without reports (R372, R399). -/
def touchHalt (s : State) (t : Nat) : State :=
  (s.setTch t { (s.tch t) with scanning := false, seed := false, atBound := false, contacts := [], cur := none, stopping := false }).setReady (43 + t) false

/-- A port that is to stop has its report slot in cycle n: UP for every tracked contact, then it stops (R372).
(DEDUCED: log entry 92.) -/
def touchStop (s : State) (t n : Nat) : State :=
  touchHalt ((s.tch t).contacts.foldl (fun s e => reportUp s t e.1 0 e.2 n) s) t

/-- ENABLE becomes 0: the port stops in its next report slot (R372). (DEDUCED: log entry 92.) -/
def touchEnd (s : State) (t : Nat) : State :=
  if (s.tch t).scanning then s.setTch t { (s.tch t) with stopping := true } else s

/-- A write of EDG_TCH_CTRL(t) that the fabric has accepted; a port enabled again before its stop stops first. (DEDUCED: log entry 92.) -/
def touchCtrl (s : State) (t v : Nat) : State :=
  let was := bit (s.tchReg Reg.EDG_TCH_CTRL t) 0
  let s : State := s.setReg (tchOff Reg.EDG_TCH_CTRL t) (v % 4)
  if bit v 0 = was then s
  else if bit v 0 then touchStart (if (s.tch t).stopping then touchStop s t (s.tch t).cycle else s) t
  else touchEnd s t

/-! ## One scan cycle (R370 to R383) -/

/-- The existing nodes within k of a node in both directions (Chebyshev distance). -/
def nodesNear (k i : Nat) : List Nat :=
  let d := i / 64
  let c := i % 64
  (List.range (2 * k + 1)).flatMap (fun a => (List.range (2 * k + 1)).filterMap (fun b =>
    if d + a ≥ k ∧ d + a < 112 + k ∧ c + b ≥ k ∧ c + b < 64 + k then some (64 * (d + a - k) + (c + b - k)) else none))

/-- The existing electrodes of the same axis within k of electrode e. -/
def elecsNear (k e : Nat) : List Nat :=
  let (lo, hi) := if e < 112 then (0, 112) else (112, 176)
  (List.range (2 * k + 1)).filterMap (fun a => if e + a ≥ lo + k ∧ e + a < hi + k then some (e + a - k) else none)

/-- Mark numbers in an array of flags. -/
def markAll (a : Array Bool) (xs : List Nat) : Array Bool := xs.foldl (fun a i => a.setIfInBounds i true) a

/-- The marked numbers below n. -/
def marked (a : Array Bool) (n : Nat) : List Nat := (List.range n).filter (fun i => a.getD i false)

/-- The 8-connected region of nodes with ok that contains the work list's nodes. -/
def flood (ok : Nat → Bool) : Nat → List Nat → Array Bool → Array Bool
  | 0, _, a => a
  | _ + 1, [], a => a
  | n + 1, i :: is, a =>
    if a.getD i false || !(ok i) then flood ok n is a
    else flood ok n ((nodesNear 1 i).filter (fun k => !(a.getD k false)) ++ is) (a.setIfInBounds i true)

/-- A region's nodes. -/
def region (ok : Nat → Bool) (i : Nat) : List Nat := marked (flood ok 65536 [i] (Array.replicate 7168 false)) 7168

/-- The lower middle ratio num/den of a list of pairs. -/
def medianRatio (xs : List (Nat × Nat)) : Option (Nat × Nat) :=
  let sorted := xs.mergeSort (fun a b => decide (a.1 * b.2 ≤ b.1 * a.2))
  sorted[(sorted.length - 1) / 2]?

/-- A frozen baseline scaled by raw ÷ old, in 16.16 (R376); old is in 16.16. (DEDUCED: log entry 93.) -/
def scaleBase (b : Nat) (r : Option (Nat × Nat)) : Nat :=
  match r with
  | some (raw, old) => if old = 0 then b else b * (raw * 65536) / old
  | none => b

/-- Baselines after a hop (R376). (DEDUCED: log entry 93.) -/
def hopBase (r : TouchRec) (rawM rawS : Array Nat) : List Nat × List Nat :=
  let fm := markAll (Array.replicate 7168 false) r.frozenM
  let fs := markAll (Array.replicate 176 false) r.frozenS
  let bm := r.baseM.toArray
  let bs := r.baseS.toArray
  let pairM := fun i => (rawM.getD i 0, bm.getD i 0)
  let allFree := (List.range 7168).filter (fun i => !(fm.getD i false))
  let panel := medianRatio (allFree.map pairM)
  let perSense := ((List.range 64).map (fun c =>
    match ((List.range 112).map (fun d => 64 * d + c)).filter (fun i => !(fm.getD i false)) with
    | [] => panel
    | is => medianRatio (is.map pairM))).toArray
  let axis := fun lo n => medianRatio (((List.range n).map (· + lo)).filterMap (fun e =>
    if fs.getD e false then none else some (rawS.getD e 0, bs.getD e 0)))
  let ax := (axis 0 112, axis 112 64)
  ((List.range 7168).map (fun i => if fm.getD i false then scaleBase (bm.getD i 0) (perSense.getD (i % 64) none) else rawM.getD i 0 * 65536),
   (List.range 176).map (fun e =>
     if fs.getD e false then scaleBase (bs.getD e 0) (if e < 112 then ax.1 else ax.2) else rawS.getD e 0 * 65536))

/-- The seed of one item (R380): the reference where it is occupied, else its raw count. -/
def seedItem (dev raw ref : Nat) : Nat :=
  let diff := if raw ≥ ref then raw - ref else ref - raw
  65536 * (if diff * 4096 > dev * ref then ref else raw)

/-- Seeded baselines (R380), with the usable reference or none. (DEDUCED: log entry 93.) -/
def seedBase (ref : Option (List Byte)) (rawM rawS : Array Nat) : List Nat × List Nat :=
  match ref with
  | none => ((List.range 7168).map (fun i => rawM.getD i 0 * 65536), (List.range 176).map (fun e => rawS.getD e 0 * 65536))
  | some b =>
    let bytes := b.toArray
    let at_ := fun o => (bytes.getD o 0).toNat + 256 * (bytes.getD (o + 1) 0).toNat
    let dev := if at_ 12 = 0 then 256 else at_ 12
    ((List.range 7168).map (fun i => seedItem dev (rawM.getD i 0) (at_ (32 + 2 * i))),
     (List.range 176).map (fun e => seedItem dev (rawS.getD e 0) (at_ (14368 + 2 * e))))

/-- The lift regions of R381: each region's nodes before widening, given the deltas in 16.16 and NEG_THR. -/
def liftRegions (dm : Array Int) (neg : Nat) : List (List Nat) :=
  let deep := fun i => decide (dm.getD i 0 ≤ -((neg : Int) * 65536))
  let half := fun i => decide (2 * dm.getD i 0 ≤ -((neg : Int) * 65536))
  ((List.range 7168).foldl (fun (acc : List (List Nat) × Array Bool) i =>
    if deep i && !(acc.2.getD i false) then
      let rg := region half i
      (acc.1 ++ [rg], markAll acc.2 rg)
    else acc) ([], Array.replicate 7168 false)).1

/-- A candidate (R370): its peak node, panel coordinates, peak delta in 16.16, and whether it is water (R377). -/
structure Cand where
  peak  : Nat
  x     : Nat
  y     : Nat
  delta : Int
  water : Bool
  deriving DecidableEq, Repr

/-- The panel coordinates of a peak (R370). (DEDUCED: log entry 92.) -/
def centroid (dm : Array Int) (i : Nat) : Nat × Nat :=
  let near := nodesNear 1 i
  let pos := fun k => max 0 (dm.getD k 0)
  let sum := near.foldl (fun a k => a + pos k) 0
  let ds := near.foldl (fun a k => a + pos k * (((k % 64 : Nat) : Int) - ((i % 64 : Nat) : Int))) 0
  let dd := near.foldl (fun a k => a + pos k * (((k / 64 : Nat) : Int) - ((i / 64 : Nat) : Int))) 0
  let off := fun v => if sum = 0 then 0 else roundDiv (16 * v) sum
  let x : Int := max 0 (min 1023 (16 * ((i % 64 : Nat) : Int) + off ds))
  let y : Int := max 0 (min 1791 (16 * ((i / 64 : Nat) : Int) + off dd))
  (x.toNat, y.toNat)

/-- The squared distance of two panel points. (DEDUCED: log entry 92.) -/
def dist2 (x y a b : Nat) : Nat := ((((x : Int) - a) * ((x : Int) - a) + ((y : Int) - b) * ((y : Int) - b))).toNat

/-- The candidates of a cycle (R370, R377), by rising peak index. -/
def candidates (dm ds : Array Int) (thr selfThr : Nat) (tracked : List ContactRec) : List Cand :=
  (List.range 7168).filterMap (fun i =>
    let v := dm.getD i 0
    if 4 * v < 3 * ((thr : Int) * 65536) then none
    else if !((nodesNear 1 i).all (fun k => k == i || decide (dm.getD k 0 < v) || (decide (dm.getD k 0 = v) && decide (i < k)))) then none
    else
      let (x, y) := centroid dm i
      let near := tracked.any (fun c => decide (dist2 x y c.x c.y ≤ 2304))
      if v < (thr : Int) * 65536 ∧ !near then none
      else
        let low := fun e => decide (ds.getD e 0 < (selfThr : Int) * 65536)
        some { peak := i, x := x, y := y, delta := v, water := low (112 + i % 64) && low (i / 64) })

/-- Insert in a list sorted by a rank. -/
def insertBy {α : Type} (le : α → α → Bool) (x : α) : List α → List α
  | [] => [x]
  | y :: ys => if le x y then x :: y :: ys else y :: insertBy le x ys

/-- Sort by a rank, keeping the order of equals. -/
def sortBy {α : Type} (le : α → α → Bool) (xs : List α) : List α := xs.foldr (insertBy le) []

/-- Take pairs in order while both are free (R371). -/
def takePairs : List (Nat × Nat × Cand) → List (Nat × Cand) → List (Nat × Cand)
  | [], acc => acc
  | (_, id, c) :: ps, acc =>
    if acc.any (fun e => e.1 == id || e.2.peak == c.peak) then takePairs ps acc else takePairs ps (acc ++ [(id, c)])

/-- Match candidates to tracked contacts (R371): ascending distance, then contact ID, then peak index. (DEDUCED: log entry 92.) -/
def matchContacts (tracked : Tab ContactRec) (cs : List Cand) : List (Nat × Cand) :=
  let ps := tracked.flatMap (fun e => cs.filterMap (fun c =>
    let d := dist2 c.x c.y e.2.x e.2.y
    if d ≤ 2304 then some (d, e.1, c) else none))
  takePairs (ps.mergeSort (fun a b => decide (a.1 < b.1) || (a.1 == b.1 && (decide (a.2.1 < b.2.1)
    || (a.2.1 == b.2.1 && decide (a.2.2.peak ≤ b.2.2.peak)))))) []

/-- New contacts for unmatched candidates, highest delta first, on the lowest free IDs up to ten (R371). -/
def newContacts (used : List Nat) (cs : List Cand) : List (Nat × Cand) :=
  let order := cs.mergeSort (fun a b => decide (a.delta > b.delta) || (a.delta == b.delta && decide (a.peak ≤ b.peak)))
  (order.foldl (fun (acc : List Nat × List (Nat × Cand)) c =>
    match (List.range 10).find? (fun i => !(acc.1.contains i)) with
    | some i => (i :: acc.1, acc.2 ++ [(i, c)])
    | none => acc) (used, [])).2

/-- One electrode test's record after a cycle: condition, cycles in a row (up to 16), bit (R383). -/
def testStep (r : Bool × Nat × Bool) (cond : Bool) : Bool × Nat × Bool :=
  let n := if r.1 = cond then min 16 (r.2.1 + 1) else 1
  (cond, n, if n ≥ 16 then cond else r.2.2)

/-- The next frequency of a port (R375): its index where it hops. n holds the noise of the last four cycles, newest first. -/
def hopTo (thr i : Nat) (valid : Nat → Bool) (n : List (List Nat)) : Option (Option Nat) :=
  let v := fun (c : List Nat) j => c.getD j 0
  if n.length < 4 ∨ !(n.all (fun c => decide (v c i > thr))) then none
  else
    let ok := (List.range 4).filter (fun j => valid j && j != i && n.all (fun c => decide (2 * v c j ≤ thr)))
    let now := n.headD []
    let lo := ok.foldl (fun m j => min m (v now j)) 65536
    some (ok.find? (fun j => v now j == lo))

/-- Raise TOUCH_SELFTEST for each changed bit. -/
def testEvents (s : State) (t kind : Nat) (old new : List (Bool × Nat × Bool)) : State :=
  ((old.zip new).zip (List.range 176)).foldl (fun s ((a, b), e) =>
    if a.2.2 = b.2.2 then s
    else s.raise 0x0865 (leBytes 1 t ++ leBytes 1 kind ++ leBytes 1 e ++ leBytes 1 (b2n b.2.2))) s

/-- A list of 176 test records. -/
def testList (l : List (Bool × Nat × Bool)) : List (Bool × Nat × Bool) :=
  (List.range 176).map (fun e => l.getD e (false, 0, false))

/-- The electrodes' open condition in a cycle (R383): the previous one stands where more than half of the nodes are frozen. -/
def openCond (ref : Array Nat) (rawM : Array Nat) (frozen : Array Bool) (frac : Nat) (prev : Bool) (e : Nat) : Bool :=
  let nodes := if e < 112 then (List.range 64).map (fun c => 64 * e + c) else (List.range 112).map (fun d => 64 * d + (e - 112))
  let free := nodes.filter (fun i => !(frozen.getD i false))
  if 2 * free.length < nodes.length then prev
  else
    let a := free.foldl (fun a i => a + rawM.getD i 0) 0
    let b := free.foldl (fun a i => a + ref.getD i 0) 0
    decide (256 * a < frac * b)

/-- The baselines of items that are not frozen follow their raw counts (R378). (DEDUCED: log entry 92.) -/
def driftBase (tau : Nat) (base : List Nat) (raw : Array Nat) (frozen : Array Bool) : List Nat :=
  let k := (2 * 65536 * 8333 + 100000 * tau) / (2 * 100000 * max 1 tau)
  (base.zip (List.range base.length)).map (fun (b, i) =>
    if frozen.getD i false then b else ((b : Int) + (((raw.getD i 0 : Nat) : Int) * 65536 - b) * k / 65536).toNat)

/-- The items of a list of numbers take their raw counts. -/
def takeRaw (base : List Nat) (raw : Array Nat) (which : Array Bool) : List Nat :=
  (base.zip (List.range base.length)).map (fun (b, i) => if which.getD i false then raw.getD i 0 * 65536 else b)

/-- The frozen nodes around footprints, and the electrodes near them (R378). -/
def frozenOf (feet : List (List Nat)) : Array Bool × Array Bool :=
  let fm := feet.foldl (fun a f => markAll a (f.flatMap (nodesNear 2))) (Array.replicate 7168 false)
  let es := (marked fm 7168).flatMap (fun i => [i / 64, 112 + i % 64])
  let core := markAll (Array.replicate 176 false) es
  (fm, markAll (Array.replicate 176 false) ((marked core 176).flatMap (elecsNear 2)))

/-- SCAN_CYCLE (R371): the raw counts of one cycle's intervals, in node and electrode order, and the noise at the four listed
frequencies. The cycle is the one that fabric time lies in, or the one that was in progress at a time step. (DEDUCED: log entry 91.) -/
def doScanCycle (s : State) (t : Nat) (nodes selfs noise : List Nat) : State :=
  let n := (s.tch t).cur.getD (cycleOf s.ft.toNat)
  let after := if (s.tch t).cur.isSome then nextCycle s else n + 1
  if !(s.tch t).scanning ∨ ((s.tch t).cur.isNone ∧ n < (s.tch t).first) then s
  else if (s.tch t).stopping then touchStop s t n
  else
    let hold := bit (s.tchReg Reg.EDG_TCH_CTRL t) 1
    let rawM := ((List.range 7168).zip (nodes ++ List.replicate (7168 - nodes.length) 0)).map (·.2) |>.toArray
    let rawS := ((List.range 176).zip (selfs ++ List.replicate (176 - selfs.length) 0)).map (·.2) |>.toArray
    let thr := bits (s.tchReg Reg.EDG_TCH_THR t) 15 0
    let selfThr := bits (s.tchReg Reg.EDG_TCH_THR t) 31 16
    let noiseThr := bits (s.tchReg Reg.EDG_TCH_THR2 t) 31 16
    let neg := bits (s.tchReg Reg.EDG_TCH_THR2 t) 15 0
    let anchor := bits (s.tchReg Reg.EDG_TCH_TIME t) 25 16
    let tau := bits (s.tchReg Reg.EDG_TCH_TIME t) 9 0
    let r := s.tch t
    -- seeding (R380) and the carry-over of a hop (R376)
    let rf := refFreq s t
    let (bm, bs) :=
      if r.seed then seedBase (if rf.isSome then s.panel t else none) rawM rawS
      else if r.hopped ∧ !hold then hopBase r rawM rawS
      else (r.baseM, r.baseS)
    let r := { r with
      refUsed := if r.seed then rf.isSome else r.refUsed, freq := if r.seed then rf.getD r.freq else r.freq, seed := false,
      hopped := r.hopped && hold }
    let s : State := s.setTch t r
    let bma := bm.toArray
    let bsa := bs.toArray
    let dm0 := ((List.range 7168).map (fun i => (bma.getD i 0 : Int) - ((rawM.getD i 0 : Nat) : Int) * 65536)).toArray
    let ds0 := ((List.range 176).map (fun e => ((rawS.getD e 0 : Nat) : Int) * 65536 - (bsa.getD e 0 : Int))).toArray
    -- lifts (R381)
    let lifts := if hold then [] else liftRegions dm0 neg
    let lm := lifts.foldl (fun a g => markAll a (g.flatMap (nodesNear 2))) (Array.replicate 7168 false)
    let ls := if hold then Array.replicate 176 false else
      markAll (Array.replicate 176 false)
        (((List.range 176).filter (fun e => decide (ds0.getD e 0 ≤ -((neg : Int) * 65536)))).flatMap (elecsNear 2))
    let bm := if lifts.isEmpty then bm else takeRaw bm rawM lm
    let bs := takeRaw bs rawS ls
    let s : State := s.bumpBy (tchOff Reg.EDG_TCH_RESEED_CNT t) lifts.length
    let dm := ((List.range 7168).map (fun i => if lm.getD i false then 0 else dm0.getD i 0)).toArray
    let ds := ((List.range 176).map (fun e => if ls.getD e false then 0 else ds0.getD e 0)).toArray
    -- candidates, water, matching (R370, R371, R377)
    let tracked := r.contacts
    let all := candidates dm ds thr selfThr (tracked.map (·.2))
    let water := all.filter (·.water)
    let cs := all.filter (fun c => !c.water)
    let s : State := s.bumpBy (tchOff Reg.EDG_TCH_WATER_CNT t) water.length
    let pairs := matchContacts tracked cs
    let lost := tracked.filter (fun e => !(pairs.any (fun p => p.1 == e.1)))
    let fresh := cs.filter (fun c => !(pairs.any (fun p => p.2.peak == c.peak)) && decide (c.delta ≥ (thr : Int) * 65536))
    let born := newContacts (pairs.map (·.1)) fresh
    let start := cycleStart n
    let held := pairs.filter (fun p => match tracked.get? p.1 with
      | some c => decide (start > c.downAt + anchor * 1000000000)
      | none => false)
    let units := fun (c : Cand) => (c.delta / 65536).toNat
    let sense := senseTime s t n
    let next := fun (c : Cand) (m : Mapped) (old : Option ContactRec) =>
      ({ x := c.x, y := c.y, ox := m.ox, oy := m.oy, delta := units c, down := (old.map (·.down)).getD n,
         downAt := (old.map (·.downAt)).getD start, peak := c.peak } : ContactRec)
    -- reports in ascending ID order, an UP before a DOWN of the same ID
    let s : State := (List.range 10).foldl (fun s id =>
      let s : State := match Tab.get? lost id with
        | some c =>
          let wet := water.any (fun w => decide (dist2 w.x w.y c.x c.y ≤ 2304))
          let s : State := if hold then s else reportUp s t id (if wet then 4 else 0) c n
          s.setTch t { (s.tch t) with contacts := (s.tch t).contacts.erase id }
        | none => s
      let s : State := match Tab.get? held id with
        | some c =>
          let old := tracked.get? id
          let (m, s) := mapContact s r.map c.x c.y sense
          let s : State := if hold then s else touchReport s t id 2 1 m n (units c)
          let s : State := s.bump (tchOff Reg.EDG_TCH_ANCHOR_CNT t)
          let s : State := s.raise 0x0861 (leBytes 1 t ++ leBytes 1 id ++ leBytes 2 c.x ++ leBytes 2 c.y ++ leBytes 2 m.tile
            ++ leBytes 4 ((start - (old.map (·.downAt)).getD start) / 1000000))
          s.setTch t { (s.tch t) with contacts := (s.tch t).contacts.erase id }
        | none =>
          match Tab.get? pairs id with
          | some c =>
            let (m, s) := mapContact s r.map c.x c.y sense
            let s : State := if hold then s else touchReport s t id 1 0 m n (units c)
            s.setTch t { (s.tch t) with contacts := (s.tch t).contacts.set id (next c m (tracked.get? id)) }
          | none => s
      match Tab.get? born id with
      | some c =>
        let (m, s) := mapContact s r.map c.x c.y sense
        let s : State := if hold then s else touchReport s t id 0 0 m n (units c)
        s.setTch t { (s.tch t) with contacts := (s.tch t).contacts.set id (next c m none) }
      | none => s) s
    -- baselines (R378, R379)
    let foot := fun (c : Cand) => region (fun i => decide (4 * dm.getD i 0 ≥ (thr : Int) * 65536)) c.peak
    let live := pairs.map (·.2) ++ born.map (·.2) ++ water
    let (fm, fs) := frozenOf (live.map foot)
    let (am, as_) := frozenOf (held.map (fun p => foot p.2))
    let bm2 := if hold then bm else driftBase tau (if held.isEmpty then bm else takeRaw bm rawM am) rawM fm
    let bs2 := if hold then bs else driftBase tau (if held.isEmpty then bs else takeRaw bs rawS as_) rawS fs
    -- self-test (R383)
    let frac := bits (s.tchReg Reg.EDG_TCH_TEST t) 7 0
    let sThr := bits (s.tchReg Reg.EDG_TCH_TEST t) 31 16
    let sTol := bits (s.tchReg Reg.EDG_TCH_TEST t) 15 8
    let refM := match (if rf.isSome then s.panel t else none) with
      | some b => let a := b.toArray; some (((List.range 7168).map (fun i => (a.getD (32 + 2 * i) 0).toNat + 256 * (a.getD (33 + 2 * i) 0).toNat)).toArray)
      | none => none
    let opens := testList r.open_
    let shorts := testList r.short
    let opens2 := (opens.zip (List.range 176)).map (fun (o, e) =>
      testStep o (match refM with | some a => openCond a rawM fm frac o.1 e | none => false))
    let shorts2 := (shorts.zip (List.range 176)).map (fun (o, e) =>
      let a := rawS.getD e 0
      let b := rawS.getD (e + 1) 0
      testStep o (e != 111 && e != 175 && decide (a > sThr) && decide (b > sThr) && decide ((if a ≥ b then a - b else b - a) ≤ sTol)))
    let s : State := testEvents (testEvents s t 0 opens opens2) t 1 shorts shorts2
    -- water status (R377)
    let wet := if water.isEmpty then r.wet - 1 else 12
    let s : State := s.setTch t { (s.tch t) with
      baseM := bm2, baseS := bs2, rawM := if hold then r.rawM else rawM.toList, rawS := if hold then r.rawS else rawS.toList,
      frozenM := marked fm 7168, frozenS := marked fs 176, cycle := n, first := after, cur := none, wet := wet, open_ := opens2, short := shorts2 }
    let s : State := if decide (wet ≠ 0) = decide (r.wet ≠ 0) then s else
      s.raiseLimited (0x086200 + t) 1000000000 0x0862 (leBytes 1 t ++ leBytes 1 (b2n (wet ≠ 0)))
    -- noise and hopping (R375)
    let hist := ((List.range 4).map (fun j => noise.getD j 0)) :: r.noise.take 3
    let now := hist.headD []
    let i := r.freq
    let s : State := s.setTch t { (s.tch t) with noise := hist }
    let s : State := match hopTo noiseThr i (fun j => (tchFreq s t j).isSome) hist with
      | none => s.setTch t { (s.tch t) with atBound := false }
      | some (some j) =>
        let s : State := s.setTch t { (s.tch t) with freq := j, hopped := true, atBound := false }
        (s.bump (tchOff Reg.EDG_TCH_HOP_CNT t)).raise 0x0863
          (leBytes 1 t ++ leBytes 1 i ++ leBytes 1 j ++ leBytes 2 (now.getD i 0) ++ leBytes 2 (now.getD j 0))
      | some none =>
        let s1 : State := s.setTch t { (s.tch t) with atBound := true }
        if r.atBound then s1 else s1.raise 0x0864 (leBytes 1 t ++ leBytes 1 i ++ leBytes 2 (now.getD i 0))
    s.setReady (43 + t) true

/-! ## Views and mailbox items (R386) -/

def viewTchStatus (s : State) (t : Nat) : Nat :=
  let r := s.tch t
  r.contacts.length * 2 ^ 16 + r.freq * 256 + 128 * b2n (bit (s.tchReg Reg.EDG_TCH_CTRL t) 1)
    + 64 * b2n (r.open_.any (·.2.2) || r.short.any (·.2.2)) + 32 * b2n r.atBound + 16 * b2n (r.wet ≠ 0) + 8 * b2n r.refUsed
    + 4 * b2n (s.panel t).isSome + 2 * b2n r.scanning + b2n (s.isReady (43 + t))

def viewTchNoise (s : State) (t : Nat) : Nat := ((s.tch t).noise.headD []).getD (s.tch t).freq 0

/-- 32 electrode bits from 32 i up. -/
def viewTchBits (l : List (Bool × Nat × Bool)) (i : Nat) : Nat :=
  (List.range 32).foldl (fun a k => a + (if (l.getD (32 * i + k) (false, 0, false)).2.2 then 2 ^ k else 0)) 0

/-- Eight counts of a list in node or electrode order, as 16-bit fields. -/
def eightOf (m e : List Nat) (k sh : Nat) : List Byte :=
  let f := fun (l : List Nat) o => (List.range 8).flatMap (fun i => leBytes 2 ((l.getD (o + i) 0) >>> sh))
  if k < 896 then f m (8 * k) else f e (8 * (k - 896))

/-- A touch item (R386): the code's item byte and its index; none where the code names no item. -/
def touchItem (s : State) (item idx : Nat) : Option (List Byte) :=
  match item with
  | 0x50 => if idx < 2048 ∧ idx % 1024 < 918 then let r := s.tch (idx / 1024); some (eightOf r.rawM r.rawS (idx % 1024) 0) else none
  | 0x51 => if idx < 2048 ∧ idx % 1024 < 918 then let r := s.tch (idx / 1024); some (eightOf r.baseM r.baseS (idx % 1024) 16) else none
  | 0x52 =>
    if idx < 32 ∧ idx % 16 < 10 then
      match (s.tch (idx / 16)).contacts.get? (idx % 16) with
      | some c => some (leBytes 2 c.x ++ leBytes 2 c.y ++ leBytes 2 c.ox ++ leBytes 2 c.oy ++ leBytes 2 c.delta ++ [1, 0] ++ leBytes 4 c.down)
      | none => some (List.replicate 16 0)
    else none
  | _ => none

end Machine
end Sys2Proof
end

