-- ==== Sys2Proof/Machine/Lanes.lean ====
section
/-! DEFINITION. Lane calibration (R417 to R433): adaptation in training, Class T runs, eye scans, corrections, bounds, overrides and
quality figures. -/

namespace Sys2Proof
namespace Machine

/-- A lane right after reset (R422): CTLE 12, zero offsets. -/
def LaneRec.init : LaneRec :=
  { ctle := 12, phase := 0, samp := [0, 0, 0, 0], tref := 0, target := 0, qW := 0, qH := 0, qCtle := 0, qPhase := 0, qSamp := 0,
    qTime := 0, scans := 0, valid := false, scanned := false, lowEye := false, atBound := false, result := 0, lastDown := false,
    queue := [], run := none, again := false, ovr := false }

/-- Lane i of link l. -/
def State.lane (s : State) (l i : Nat) : LaneRec := s.lanes.lanes.getD (2 * l + i) LaneRec.init
def State.setLane (s : State) (l i : Nat) (r : LaneRec) : State := { s with lanes.lanes := s.lanes.lanes.set (2 * l + i) r }

/-- The sensor of a link's lanes (Table: lane sensors). -/
def laneSensor (l : Nat) : Nat := if l ≤ 4 then 4 else if l ≤ 9 then 5 else 6

/-- The reading of that sensor in 1/16 °C. -/
def laneTemp (s : State) (l : Nat) : Int := s.sys.therm.temps.getD (laneSensor l) 0

/-- CTLE_MIN and CTLE_MAX of link l. -/
def laneBounds (s : State) (l : Nat) : Nat × Nat :=
  let v := s.reg (Reg.FAB_LANE_BOUND + 0x10 * l)
  (bits v 4 0, bits v 12 8)

/-- The CTLE code that the queued corrections lead to. -/
def LaneRec.goal (r : LaneRec) : Nat :=
  r.queue.foldl (fun c q => if q.1 = 0 then (if q.2 then c + 1 else c - 1) else c) r.ctle

/-- Queue n steps of one parameter. -/
def LaneRec.steps (r : LaneRec) (what : Nat) (up : Bool) (n : Nat) : LaneRec :=
  let r := { r with queue := r.queue ++ List.replicate n (what, up) }
  if what = 0 then { r with target := r.goal } else r

/-- Queue the CTLE steps that lead to a code (R427). -/
def LaneRec.ctleTo (r : LaneRec) (c : Nat) : LaneRec :=
  if r.goal < c then r.steps 0 true (c - r.goal) else r.steps 0 false (r.goal - c)

/-- Queue the steps that move an offset from its present code to a target. -/
def LaneRec.offsetTo (r : LaneRec) (what : Nat) (now want : Int) : LaneRec :=
  r.steps what (decide (now < want)) (want - now).natAbs

/-! ## LOW_EYE and AT_BOUND (R429, R432) -/

/-- LOW_EYE of an eye width and height in mV against FAB_LANE_CFG (R432). -/
def eyeIsLow (s : State) (w h : Nat) : Bool :=
  let cfg := s.reg Reg.FAB_LANE_CFG
  decide (w < bits cfg 13 8) || decide (h < 4 * bits cfg 23 16)

/-- LANE_EYE, at most once per second per lane (R433). -/
def laneLowEye (s : State) (l i : Nat) : State :=
  let r := s.lane l i
  let low := r.scanned && eyeIsLow s r.qW r.qH
  if r.lowEye = low then s
  else (s.setLane l i { r with lowEye := low }).raiseLimited (0x076100 + 2 * l + i) 1000000000 0x0761
    (leBytes 1 l ++ leBytes 1 i ++ leBytes 1 (b2n low) ++ leBytes 1 r.qW ++ leBytes 2 r.qH)

/-- The code pins at a bound (R429). -/
def lanePin (s : State) (l i : Nat) : State :=
  let r := s.lane l i
  if r.atBound then s
  else (s.setLane l i { r with atBound := true }).raise 0x0762 (leBytes 1 l ++ leBytes 1 i ++ leBytes 1 r.goal)

/-! ## Runs (R423, R426, R428) -/

/-- A run starts: Tref becomes the sensor's reading (R423), and dir follows the previous run's last CTLE move (R426).
(DEDUCED: log entry 105.) -/
def startRun (s : State) (l i : Nat) : State :=
  let r := s.lane l i
  if r.ovr ∨ r.run.isSome ∨ !(s.linkUp l) then s
  else s.setLane l i { r with
    tref := laneTemp s l, again := false, lastDown := false,
    run := some { m0 := 0, stage := 0, up := !r.lastDown, tried := false, steps := 0, old := r.goal, last := none } }

/-- |T − Tref| > DELTA_T (R423, R428). -/
def laneDrift (s : State) (l i : Nat) : Bool :=
  decide ((laneTemp s l - (s.lane l i).tref).natAbs > 16 * bits (s.reg Reg.FAB_LANE_CFG) 4 0)

/-- LANE_CAL result codes (R433). -/
def resUNCHANGED : Nat := 0
def resADJUSTED : Nat := 1
def resREVERTED : Nat := 2
def resABANDONED : Nat := 3
def resBOUND : Nat := 4

/-- A run ends: its result, LANE_CAL, the count, and the check for another run (R426, R428). (DEDUCED: log entry 105.) -/
def endRun (s : State) (l i result : Nat) : State :=
  let r := s.lane l i
  match r.run with
  | none => s
  | some u =>
    let again := r.again
    let s : State := (s.setLane l i { r with run := none, result := result, again := false }).bump (Reg.FAB_LANE_RUNS + 4 * l)
    let s : State := s.raise 0x0760 (leBytes 1 l ++ leBytes 1 i ++ leBytes 1 result ++ leBytes 1 u.old ++ leBytes 1 r.goal
      ++ leBytes 1 r.qW ++ leBytes 2 r.qH ++ leBytes 1 (ofInt 8 (degrees r.tref)))
    if again ∨ laneDrift s l i then startRun s l i else s

/-- The result of a run that ends by its procedure. -/
def runResult (r : LaneRec) (u : RunRec) : Nat := if r.goal = u.old then resUNCHANGED else resADJUSTED

/-- A CTLE step of the run (R426). -/
def ctleStep (s : State) (l i : Nat) (u : RunRec) (up : Bool) : State :=
  let r := (s.lane l i).steps 0 up 1
  s.setLane l i { r with lastDown := !up, atBound := false, run := some { u with last := some up } }

/-- A CTLE step would leave the bounds of the link (R429). -/
def stepOutside (s : State) (l i : Nat) (up : Bool) : Bool :=
  let (lo, hi) := laneBounds s l
  let c := (s.lane l i).goal
  if up then decide (c + 1 < lo) || decide (c + 1 > hi) else decide (c < lo + 1) || decide (c > hi + 1)

/-- The run undoes its last CTLE step; a bound changed meanwhile that excludes the code keeps it where it is (R426, R428, R429).
(DEDUCED: log entry 105.) -/
def undoStep (s : State) (l i : Nat) (u : RunRec) (up : Bool) : State :=
  if stepOutside s l i up then s.setLane l i { s.lane l i with run := some u } else ctleStep s l i u up

/-- The head of the loop: pin at a bound, or step by dir and scan (R426). (DEDUCED: log entry 105.) -/
def tryStep (s : State) (l i : Nat) (u : RunRec) : State :=
  if stepOutside s l i u.up then
    let s : State := s.setLane l i { s.lane l i with run := some u }
    endRun (lanePin s l i) l i resBOUND
  else ctleStep s l i { u with stage := 1 } u.up

/-- The clean positions from the data samplers' own on, and those right before it (R424). (DEDUCED: log entry 105.) -/
def eyeArms (e : Eye) : Nat × Nat :=
  let p := e.clean.take 64
  if p.getD e.own false then (((p.drop e.own).takeWhile id).length, ((p.take e.own).reverse.takeWhile id).length) else (0, 0)

/-- The eye width (R424): consecutive clean positions that hold the data samplers', at most the 64 of a UI. (DEDUCED: log entry 105.) -/
def eyeWidth (e : Eye) : Nat := (eyeArms e).1 + (eyeArms e).2

/-- The eye height in mV (R418, R424): from the lowest to the highest offset about zero without a disagreement, which the search finds in
steps of 2 mV; the monitor reaches 300 mV either way. (DEDUCED: log entry 105.) -/
def eyeHeight (e : Eye) : Nat := 2 * (min e.below 150 + min e.above 150)

/-- How far the centre of the open phase region lies from the data samplers, in 1/64 UI (R424). (DEDUCED: log entry 105.) -/
def eyeShift (e : Eye) : Int := (((eyeArms e).1 : Int) - 1 - ((eyeArms e).2 : Int)) / 2

/-- The corrections of offsets toward a scan's targets: samplers in order, then phase (R426, R427). (DEDUCED: log entry 105.) -/
def stepOffsets (r : LaneRec) (e : Eye) : LaneRec :=
  let want := fun (k : Nat) => clampInt 31 (e.offsets.getD k (r.samp.getD k 0))
  let r := (List.range 4).foldl (fun r k => r.offsetTo (2 + k) (r.samp.getD k 0) (want k)) r
  r.offsetTo 1 r.phase (clampInt 16 (r.phase + (if eyeWidth e = 0 then 0 else eyeShift e)))

/-- The procedure of R426 after a scan of the run; M is the product of width and height. (DEDUCED: log entry 105.) -/
def runScan (s : State) (l i : Nat) (u : RunRec) (e : Eye) : State :=
  let m := eyeWidth e * eyeHeight e
  match u.stage with
  | 0 =>
    let s : State := s.setLane l i (stepOffsets (s.lane l i) e)
    tryStep s l i { u with m0 := m }
  | 1 =>
    let n := u.steps + 1
    let gain := decide (100 * m ≥ 105 * u.m0)
    if gain ∧ n < 4 then tryStep s l i { u with m0 := m, steps := n }
    else if gain then endRun s l i (runResult (s.lane l i) u)
    else
      let s : State := undoStep s l i { u with steps := n, stage := 2 } (!u.up)
      if n = 1 ∧ !u.tried then tryStep s l i { u with up := !u.up, tried := true, steps := 0 } else s
  | _ => endRun s l i (runResult (s.lane l i) u)

/-- The sampler offset of largest magnitude. -/
def largest (xs : List Int) : Int := xs.foldl (fun m x => if x.natAbs > m.natAbs then x else m) 0

/-- A complete scan updates the quality figure and LOW_EYE (R425, R431, R432). -/
def laneFigure (s : State) (l i : Nat) (e : Eye) : State :=
  let r := s.lane l i
  laneLowEye (s.setLane l i { r with
    qW := eyeWidth e, qH := eyeHeight e, qCtle := r.ctle, qPhase := r.phase, qSamp := largest r.samp, qTime := s.ftUs,
    scans := (r.scans + 1) % 2 ^ 32, valid := true, scanned := true }) l i

/-- A scan of a lane completes: in a run it is the run's scan, once no correction is pending; outside a run a background scan
(R424 to R426). An override has stopped both. -/
def doLaneScan (s : State) (l i : Nat) (e : Eye) : State :=
  let r := s.lane l i
  if !(s.linkUp l) ∨ r.ovr then s
  else
    match r.run with
    | none => laneFigure s l i e
    | some u =>
      if !r.queue.isEmpty then s
      else runScan (laneFigure s l i e) l i u e

/-- CLASS_T_RUN (R426): the scan that the run waits for, and the procedure's next decision. -/
def doClassT (s : State) (l i : Nat) (e : Eye) : State := if (s.lane l i).run.isSome then doLaneScan s l i e else s

/-- LANE_TEMP_CHECK (R423): the sensor reads temp. -/
def doLaneTemp (s : State) (l i : Nat) (temp : Int) : State :=
  let ts := s.sys.therm.temps
  let s : State := takeTemps s ((List.range 9).map (fun k => if k = laneSensor l then temp else ts.getD k 0))
  if s.linkUp l ∧ laneDrift s l i then startRun s l i else s

/-- CORRECTION_STEP (R427): one queued code change of a lane. -/
def doCorrection (s : State) (l i : Nat) : State :=
  let r := s.lane l i
  match r.queue with
  | [] => s
  | (what, up) :: q =>
    let r := { r with queue := q }
    let d : Int := if up then 1 else -1
    if what = 0 then s.setLane l i { r with ctle := min 31 (if up then r.ctle + 1 else r.ctle - 1) }
    else if what = 1 then s.setLane l i { r with phase := r.phase + d }
    else s.setLane l i { r with samp := r.samp.set (what - 2) (r.samp.getD (what - 2) 0 + d) }

/-! ## What follows from the link (R422, R428) -/

/-- Both lanes of a link. -/
def onLanes (s : State) (f : State → Nat → State) : State := f (f s 0) 1

/-- The overridden lane goes to OVR_CTLE (R430). (DEDUCED: log entry 105.) -/
def laneToOvr (s : State) (l i : Nat) : State :=
  s.setLane l i ((s.lane l i).ctleTo (bits (s.reg (Reg.FAB_LANE_CTRL + 0x10 * l)) 20 16))

/-- Full adaptation in LOCK (R422): the codes it finds are free values within the lane's bounds and the trims' ranges.
(DESIGN CHOICE: log entry 106.) -/
def laneAdapt (s : State) (l i : Nat) : State :=
  let (lo, hi) := laneBounds s l
  let (c, s) := s.fresh
  let (p, s) := s.fresh
  let (a, s) := s.fresh
  let (b, s) := s.fresh
  let (d, s) := s.fresh
  let (e, s) := s.fresh
  let off := fun (x : Nat) => ((x % 63 : Nat) : Int) - 31
  let code := lo + c % (hi + 1 - lo)
  let s : State := s.setLane l i { s.lane l i with
    ctle := code, target := code, phase := ((p % 33 : Nat) : Int) - 16, samp := [off a, off b, off d, off e], queue := [],
    tref := laneTemp s l }
  if (s.lane l i).ovr then laneToOvr s l i else s

/-- A link that leaves UP ends the runs of its lanes with ABANDONED; the codes stay (R428). (DEDUCED: log entry 105.) -/
def laneDown (s : State) (l i : Nat) : State :=
  let r := s.lane l i
  let s : State := endRun (s.setLane l i { r with queue := [], target := r.ctle }) l i resABANDONED
  s.setLane l i { s.lane l i with valid := false }

/-- FAB_LINK_CODE_ERR(l) has increased: a run undoes its most recent CTLE step and ends with REVERTED (R428).
(DEDUCED: log entry 105.) -/
def laneRevert (s : State) (l i : Nat) : State :=
  match (s.lane l i).run with
  | none => s
  | some u =>
    let s : State := match u.last with
      | some up => undoStep s l i u (!up)
      | none => s
    endRun s l i resREVERTED

/-- What a link's change of state and its code errors mean for its lanes, from the state before the command. -/
def lanesFollow (before s : State) (l : Nat) : State :=
  let a := (before.link l).st
  let b := (s.link l).st
  let s : State := if a = .lock ∧ b = .map then onLanes s (fun s i => laneAdapt s l i) else s
  let s : State := if a ≠ .up ∧ b = .up then onLanes s (fun s i => s.setLane l i { s.lane l i with scans := 0, valid := false }) else s
  let s : State := if a = .up ∧ b ≠ .up then onLanes s (fun s i => laneDown s l i) else s
  let e := Reg.FAB_LINK_CODE_ERR + 0x100 * l
  if s.cnt e > before.cnt e then onLanes s (fun s i => laneRevert s l i) else s

/-- The same for every link. -/
def allLanesFollow (before s : State) : State := (List.range 11).foldl (lanesFollow before) s

/-! ## Registers (R423, R429, R430) -/

/-- A new bound moves a code that it excludes into range (R429). -/
def laneNewBound (s : State) (l : Nat) : State :=
  let (lo, hi) := laneBounds s l
  onLanes s (fun s i =>
    let r := s.lane l i
    if r.ovr then s
    else if r.goal < lo then s.setLane l i (r.ctleTo lo)
    else if r.goal > hi then s.setLane l i (r.ctleTo hi)
    else s)

/-- An accepted write of FAB_LANE_CTRL(l): an override stops runs and steps to OVR_CTLE; RECAL starts or requests a run. -/
def laneCtrl (s : State) (l v : Nat) : State :=
  let s : State := s.setReg (Reg.FAB_LANE_CTRL + 0x10 * l) (v &&& 0x1F0100)
  let ovr := bit v 8
  let s : State := onLanes s (fun s i =>
    let s : State := s.setLane l i { s.lane l i with ovr := ovr }
    if ovr then laneToOvr (endRun s l i resABANDONED) l i else s)
  if bit v 0 then
    onLanes s (fun s i =>
      if (s.lane l i).run.isSome then s.setLane l i { s.lane l i with again := true } else startRun s l i)
  else s

/-- SERVICE_EXIT removes the overrides; each overridden lane makes a run (R410, R430). (DEDUCED: log entry 107.) -/
def lanesEndService (s : State) : State :=
  (List.range 11).foldl (fun s l =>
    let off := Reg.FAB_LANE_CTRL + 0x10 * l
    let s : State := s.setReg off (setBit (s.reg off) 8 false)
    onLanes s (fun s i =>
      if (s.lane l i).ovr then startRun (s.setLane l i { s.lane l i with ovr := false }) l i else s)) s

def viewLaneStatus (s : State) (l i : Nat) : Nat :=
  let r := s.lane l i
  r.result * 2 ^ 20 + b2n r.ovr * 2 ^ 19 + b2n r.lowEye * 2 ^ 18 + b2n r.atBound * 2 ^ 17 + b2n r.run.isSome * 2 ^ 16
    + r.target * 256 + r.ctle

/-! ## Mailbox items (R431) -/

/-- Item 0x0704_0000 + 2l + i (Table: lane quality figure). -/
def laneItem (s : State) (l i : Nat) : List Byte :=
  let r := s.lane l i
  leBytes 1 r.qW ++ leBytes 1 r.qCtle ++ leBytes 2 r.qH ++ leBytes 1 (ofInt 8 r.qPhase) ++ leBytes 1 (ofInt 8 r.qSamp)
    ++ leBytes 1 (ofInt 8 (degrees r.tref))
    ++ leBytes 1 (b2n r.run.isSome + 2 * b2n r.atBound + 4 * b2n r.lowEye + 8 * b2n r.ovr + 16 * b2n r.valid)
    ++ leBytes 4 r.scans ++ leBytes 4 r.qTime

/-- Item 0x0603_0000 + 4p + i: the figure of a capture lane, with bytes 4 to 6 and flags bits 0, 1 and 3 zero (R431, R432). -/
def dpiItem (s : State) (p i : Nat) : List Byte :=
  match (s.cap p).eq[i]? with
  | some l =>
    leBytes 1 l.qW ++ leBytes 1 l.ctle ++ leBytes 2 l.qH ++ leBytes 3 0
      ++ leBytes 1 (4 * b2n (l.valid && eyeIsLow s l.qW l.qH) + 16 * b2n l.valid) ++ leBytes 4 l.scans ++ leBytes 4 l.qTime
  | none => List.replicate 16 0

/-- Item 0x0604_0000 + 4n + i: levels in use, trim codes, validity and override of an output lane (R420, R421).
(DESIGN CHOICE: log entry 108.) -/
def dpoItem (s : State) (n i : Nat) : List Byte :=
  let lv := bits (s.dp n).drive (4 * i + 3) (4 * i)
  let sw := lv % 4
  let pre := lv / 4
  let ok := bit s.otp.calf n
  match s.lanes.trims.get? n with
  | some (a, b) => leBytes 1 sw ++ leBytes 1 pre ++ leBytes 1 a ++ leBytes 1 b ++ leBytes 1 0 ++ leBytes 1 1 ++ leBytes 10 0
  | none =>
    let code := fun kind lvl width nominal => if ok then Config.classF (4 * n + i) 0 kind lvl % 2 ^ width else nominal
    leBytes 1 sw ++ leBytes 1 pre ++ leBytes 1 (code 0 sw 6 32) ++ leBytes 1 (code 1 pre 5 16) ++ leBytes 1 (b2n ok)
      ++ leBytes 1 0 ++ leBytes 10 0

end Machine
end Sys2Proof
end

