-- ==== Sys2Proof/Machine/Pairing.lean ====
section
/-! DEFINITION. Redundant pairs: claims, ownership and conflicts (R342 to R354), MIRROR_CFG (R361), the mirror channel's full image and its
receiving side (R355 to R359), and the views that differ (R362). -/

namespace Sys2Proof
namespace Machine

/-! ## Claims (R345 to R347) -/

/-- Some trigger of codes 1 to 8 is asserted. -/
def someTrigger (s : State) : Bool := (List.range 8).any (fun i => bit s.pair.trig (i + 1))

/-- The generator of REF_OUTPUT runs, if REF_OUTPUT names an output. -/
def refRuns (s : State) : Bool :=
  match s.pair.refOut with
  | some n => (s.tg n).running
  | none => true

/-- The conditions of R345 but for the pair state. -/
def claimable (s : State) : Bool :=
  s.sys.mode == .standby && s.otp.lifecycle != 2 && !s.pair.barred && !(someTrigger s) && s.isReady 1 && s.isReady 27 && refRuns s
    && (!s.pair.reqSync || s.mir.inSync)

/-- A paired device is eligible to claim (R345). -/
def eligible (s : State) : Bool := decide (s.pair.state = 1) && claimable s

/-- The claim of R346: PAIR_OWN_O high, CLAIMING; bits 9 to 11 of the triggers fall (R351). -/
def claim (s : State) : State :=
  setPairState { s with pair.claimAt := s.clk, pair.trig := s.pair.trig % 512 } 2 0

/-- A claim is withdrawn (R346). -/
def withdraw (s : State) : State := setPairState s 1 0

/-- AUTO_CLAIM (R346): PAIR_OWN_I has been low for 10 µs. -/
def doAutoClaim (s : State) : State :=
  let s : State := { s with pair.ownI := false, pair.claimFrom := min s.pair.claimFrom s.clk }
  if s.pair.autoClaim ∧ eligible s then claim s else s

/-- A write of EDG_PAIR_CTRL: CLAIM (R346), then RELEASE, trigger 9 (R351). (DEDUCED: log entry 82.) -/
def pairCtrl (s : State) (v : Nat) : State :=
  let s : State := if bit v 0 ∧ eligible s ∧ !s.pair.ownI ∧ s.clk ≥ s.pair.claimFrom then claim s else s
  if bit v 1 then s.relinquish 9 false else s

/-- Streams of ALIAS_STREAMS mark their first picture after a takeover with RESTART (R94, R350). -/
def aliasRestart (s : State) : State :=
  (List.range 8).foldl (fun s h =>
    if bit s.pair.aliasStreams h ∧ (s.enc h).open_ then s.setEnc h { s.enc h with restart := true } else s) s

/-- A conflict is counted, and PAIR_CONFLICT raised at most once per second (R347). -/
def noteConflict (s : State) : State :=
  let s : State := s.bump Reg.EDG_PAIR_CONFLICT_CNT
  s.raiseLimited 0x084200 1000000000 0x0842
    (leBytes 1 s.pair.state ++ leBytes 1 (b2n s.pair.roleB) ++ leBytes 4 (s.cnt Reg.EDG_PAIR_CONFLICT_CNT))

/-- A claim is withdrawn as soon as the device is not eligible, in role B while the peer claims, and in role A, with PAIR_CONFLICT, where
the peer claims more than 2 µs after the claim (R346). (DESIGN CHOICE: log entry 2; DEDUCED: log entry 88.) -/
def checkClaim (s : State) : State :=
  if s.pair.state ≠ 2 then s
  else if !(claimable s) ∨ (s.pair.roleB ∧ s.pair.ownI) then withdraw s
  else if s.pair.ownI ∧ s.clk > s.pair.claimAt + 2000 then withdraw (noteConflict s)
  else s

/-- REF_OUTPUT's frame starts now, or REF_OUTPUT is none (R346). -/
def refStarts (s : State) : Bool := match s.pair.refOut with | some n => (s.tg n).startClk == s.clk | none => true

/-- ACTING_OWNER (R346): the frame start of REF_OUTPUT at least 2 µs after the claim, or 2 µs after it with REF_OUTPUT none.
(DEDUCED: log entry 88.) -/
def doActingOwner (s : State) : State :=
  let s : State := checkClaim s
  if s.pair.state ≠ 2 then s
  else if s.pair.ownI ∨ s.clk < s.pair.claimAt + 2000 ∨ !(refStarts s) then s
  else
    let s : State := setPairState s 3 0
    let s : State := if s.sys.mode = .standby then s.setMode .active 2 else s
    aliasRestart (s.bump Reg.EDG_PAIR_TAKEOVER_CNT)

/-- PAIR_OWN_I_RISE (R346): role B withdraws its claim, role A one made more than 2 µs ago. -/
def doOwnIRise (s : State) : State := checkClaim { s with pair.ownI := true }

/-- PAIR_CONFLICT (R346, R347): PAIR_OWN_I has been high for more than 2 µs; a claim of role B has only to be withdrawn. -/
def doPairConflict (s : State) : State :=
  let s : State := { s with pair.ownI := true }
  let st := s.pair.state
  if st ≠ 2 ∧ st ≠ 3 then s
  else if st = 2 ∧ s.pair.roleB then withdraw s
  else
    let s : State := noteConflict s
    if st = 2 then withdraw s else if s.pair.roleB then s.relinquish 10 false else s

/-- RELINQUISH (R351, R352): a trigger is asserted; trigger 8 is off while UNLOCK_LIMIT_MS is 0. -/
def doRelinquish (s : State) (code : Nat) : State :=
  if code = 0 ∨ (code = 8 ∧ s.pair.unlockMs = 0) then s else s.trigger code (code == 1 || code == 4 || code == 6)

/-- UNLOCKED for more than UNLOCK_LIMIT_MS, unless that is 0: the condition of trigger 8 (R351). -/
def unlockedLong (s : State) : Bool :=
  s.time.st == .unlocked && s.pair.unlockMs != 0 && decide (s.clk > s.time.since + s.pair.unlockMs * 1000000)

/-- TIME_UNLOCK_LIMIT_EXPIRY (R351): trigger 8. -/
def doUnlockExpiry (s : State) : State := if unlockedLong s then s.trigger 8 false else s

/-! ## The full image (R357) -/

/-- A command's bytes 16 to 63 from fields of (offset, size, value). -/
def bodyOf (fs : List (Nat × Nat × Nat)) : List Byte :=
  leBytes 48 (fs.foldl (fun a f => a + (f.2.2 % 256 ^ f.2.1) * 256 ^ (f.1 - 16)) 0)

/-- Every block of a pipe's active state. -/
def pipeBlocks (s : State) (p : Nat) : List Byte :=
  s.actBlock bPIPE p 0 ++ s.actBlock bPOST p 0
    ++ (List.range 8).flatMap (fun l => s.actBlock bLAYER p l ++ s.actBlock bPRE p l ++ s.actBlock bPAL p l)

/-- The body of FUM_POLICY that sets policy i as it is. -/
def policyBody (s : State) (i : Nat) : List Byte :=
  let p := s.policy i
  bodyOf [(16, 1, i), (20, 4, p.treat), (24, 4, p.late), (28, 4, p.max), (32, 2, p.frozen), (34, 2, p.lost), (36, 2, p.static),
          (38, 1, p.slate), (40, 4, p.blank)]

/-- The body of FUM_BIND for source i. -/
def sourceBody (i : Nat) (r : SourceRec) : List Byte :=
  bodyOf [(16, 1, 0), (17, 1, r.policy), (18, 2, i), (22, 1, match r.prod with | some k => k / 1024 | none => 0xFF),
          (24, 2, (r.prod.getD 0) % 1024)]

/-- The body of FUM_BIND for tile t. -/
def tileBody (t : Nat) (b : TileBind) : List Byte :=
  bodyOf [(16, 1, 1), (17, 1, b.policy), (18, 2, t), (20, 2, b.source.getD 0xFFFF), (26, 1, b2n b.steam + 2 * b2n b.evt)]

/-- A loaded slate's record: bytes 16 to 35 of its SLATE_LOAD, then the image as the store holds it. -/
def slateData (s : State) (k : Nat) (r : SlateRec) : List Byte :=
  leBytes 2 k ++ leBytes 2 r.width ++ leBytes 2 r.height ++ leBytes 14 0
    ++ (List.range r.height).flatMap (fun y => memRead s.mem (s.slateBase + k * 2 ^ 20 + 2048 * y) (4 * r.width))

/-- The body of CHECK_CFG that configures rectangle c as it is. -/
def checkBody (c : Nat) (r : ChkRec) : List Byte :=
  bodyOf ([(16, 1, c), (17, 1, r.mode), (18, 1, r.action), (19, 1, b2n r.inter), (20, 2, r.x), (22, 2, r.y), (24, 2, r.w), (26, 2, r.h),
           (28, 4, if r.mode = 1 then r.expect else 0), (32, 1, r.persist)]
    ++ (List.range 8).map (fun i => (36 + 2 * i, 2, r.tiles.getD i 0xFFFF)))

/-- The records of a full image in the order of R357: class and content. (DEDUCED: log entry 86.) -/
def imageRecords (s : State) : List (Nat × List Byte) :=
  let outs := (List.range 8).foldl (fun m p => if s.enabled p then setBit m p true else m) 0
  let differ := s.cmp.shd.filter (fun e => !(s.actBlock (e.1 / 64) (e.1 / 8 % 8) (e.1 % 8) == e.2))
  (List.range 8).map (fun p => (1, pipeBlocks s p))
    ++ (if outs = 0 then [] else [(2, bodyOf [(16, 1, outs)])])
    ++ differ.map (fun e => (1, e.2))
    ++ (List.range 256).map (fun i => (3, policyBody s i))
    ++ [(3, leBytes 1 (b2n s.policyLock))]
    ++ s.fum.sources.map (fun e => (4, sourceBody e.1 e.2))
    ++ s.fum.act.map (fun e => (4, tileBody e.1 e.2)) ++ s.fum.shadow.map (fun e => (4, tileBody e.1 e.2))
    ++ (s.cmp.slates.filter (fun e => e.2.loaded)).map (fun e => (5, slateData s e.1 e.2))
    ++ [(6, routeTable s)]
    ++ (List.range 256).map (fun g =>
         let v := s.reg (Reg.FAB_GROUP + 4 * g)
         (7, bodyOf [(16, 1, g), (17, 1, bits v 16 16), (18, 2, bits v 9 0)]))
    ++ (s.scan.chks.filter (fun e => e.2.w != 0)).map (fun e => (8, checkBody e.1 e.2))

/-- The OWNER sends a full image: the records of the enabled classes with RESYNC, then RESYNC_END (R357). (DEDUCED: log entry 86.) -/
def sendImage (s : State) : State :=
  if !(s.pair.enable && s.peerUp && decide (s.pair.state = 3)) then s
  else
    let s : State := ((imageRecords s).filter (fun r => bit s.pair.classes (r.1 - 1))).foldl (fun s r => mirrorRecord s r.1 4 r.2) s
    let s : State := mirrorPacket ({ s with mir.ended := true }.bump Reg.FAB_MIR_RESYNC_CNT) 3 0 0 0 ((s.mir.recId + 0xFFFFFFFF) % 2 ^ 32) 0 0 []
    mirrorPump s.mir.waiting.length s

/-- PEER has become ready (R356, R357): SEQ counts from 0, and the OWNER sends a full image. -/
def peerCame (s : State) : State :=
  sendImage { s with mir.txSeq := 0, mir.rxSeq := 0, mir.waiting := [], mir.dropped := 0, mir.ended := false }

/-! ## The receiving side (R357 to R359) -/

/-- The job of a mirrored command: its opcode, and its bytes from 16 on. -/
def mirrorJob (cls rid : Nat) (ack : Bool) (opcode : Nat) (data : List Byte) : Job :=
  { org := .mirror cls rid ack, desc := BitVec.ofNat 512 (opcode + leNat (data.take 48) * 256 ^ 16) }

/-- A ROUTE record (R358): every entry but those of the two members' own addresses. -/
def applyRoute (s : State) (j : Job) (tbl : List Byte) : State :=
  let mine := s.addr
  let other := (s.link 10).peerAddr
  let keepM := s.route mine
  let keepO := s.route other
  let s : State := (List.range 128).foldl (fun s w => s.setReg (Reg.FAB_ROUTE_TBL + 4 * w) (fieldAt tbl (4 * w) 4)) s
  (setRoute (setRoute s mine keepM) other keepO).finish j .done 0 0

/-- A SLATE record: the image is in the record (R355). -/
def applySlate (s : State) (j : Job) (data : List Byte) : State :=
  if bit (j.n 17 1) 0 then doSlateLoad s j []
  else
    runJob s j { pf0 := false, ready := s.isReady 2, body := j.onlyBits 17 1 1 && j.zero [(22, 2)],
                 own := [chk (slateSize j || noSlateStore s) .badDescriptor, chk (decide (data.length ≠ 20 + 4 * j.n 18 2 * j.n 20 2)) .badDescriptor,
                        chkMpu s 0x3A (s.slateBase + (j.n 16 1) * 2 ^ 20) (2 ^ 20) true] }
      (fun s => slateCopy (slateBegin s j) j (data.drop 20))

/-- A record whose class or length is not one of R355's is rejected with BAD_DESCRIPTOR (R358). (DEDUCED: log entry 85.) -/
def recordBad (s : State) (cls rid : Nat) (ack : Bool) (data : List Byte) : State :=
  s.finish (mirrorJob cls rid ack 0 data) .badDescriptor 0 0

/-- A record is applied as the same command executed locally (R358). A class 1 record of 48 bytes is a LIVE_SET: no load of
state blocks has that length. (DEDUCED: log entry 85.) -/
def applyRecord (s : State) (cls rid : Nat) (ack : Bool) (data : List Byte) : State :=
  let j := fun op => mirrorJob cls rid ack op data
  let whole := decide (data.length = 48)
  match cls with
  | 1 =>
    if whole then doLiveSet s (j 0x32)
    else runJob s (mirrorJob 1 rid ack 0x30 []) { pf0 := false, ready := s.isReady 2, body := true,
                                                      own := [chk (decide (data.length < 16 ∨ data.length > 0x100000 ∨ data.length % 16 ≠ 0)) .badDescriptor] }
      (fun s => loadBlocks s (mirrorJob 1 rid ack 0x30 []) data)
  | 2 =>
    if !whole then recordBad s cls rid ack data
    else match firstRefusal s (j 0x31) (commitSpec s (j 0x31)) with
      | some r => doCommit (commitAck s (j 0x31) r.st) (j 0x31)
      | none => doCommit s (j 0x31)
  | 3 => if data.length = 1 then (fumLockSet s (leNat data)).finish (j 0) .done 0 0 else if whole then doFumPolicy s (j 0x40) else recordBad s cls rid ack data
  | 4 => if whole then doFumBind s (j 0x41) else recordBad s cls rid ack data
  | 5 => applySlate s { j 0x38 with desc := BitVec.ofNat 512 (0x38 + leNat (data.take 20) * 256 ^ 16) } data
  | 6 => if data.length = 512 then applyRoute s (j 0x50) data else recordBad s cls rid ack data
  | 7 => if whole then doGroupSet s (j 0x51) else recordBad s cls rid ack data
  | 8 => if whole then doCheckCfg s (j 0x48) else recordBad s cls rid ack data
  | _ => recordBad s cls rid ack data

/-- The pipes that the blocks of a buffer of total bytes name, from a block at off on: a block's size is its LENGTH, and the walk ends where
that names no further block. (DEDUCED: log entry 132.) -/
def loadPipes (total : Nat) : Nat → Nat → List Byte → List Nat
  | 0, _, _ => []
  | n + 1, off, buf =>
    let len := fieldAt buf 4 4
    if off + 16 ≤ total then fieldAt buf 1 1 :: (if len = 0 then [] else loadPipes total n (off + len) (buf.drop len)) else []

/-- A commit for a pipe is being validated, or has been and is not yet applied there (R210). -/
def pipeBusy (s : State) (p : Nat) : Bool :=
  s.commits.any (fun c => bit (if c.stage = 2 then c.left else c.outs) p)

/-- The pipes that a mirrored STATE_LOAD, COMMIT or FUM_BIND names (R210, R358). (DEDUCED: log entry 85; DEDUCED: log entry 132.) -/
def recordPipes (e : MirLate) : List Nat :=
  match e.cls with
  | 1 => if e.data.length = 48 then [] else loadPipes e.data.length (e.data.length / 16) 0 e.data
  | 2 => outsOf (fieldAt e.data 0 1)
  | 4 => if fieldAt e.data 0 1 = 1 then [fieldAt e.data 2 2 / 512] else []
  | _ => []

/-- The first record that waits is applied, unless a commit holds a pipe it names (R210, R358). With RESYNC_END the receiver is in sync
(R357). (DEDUCED: log entry 85; DESIGN CHOICE: log entry 2.) -/
def mirrorNext (s : State) : State :=
  match s.mir.late with
  | [] => s
  | e :: es =>
    if (recordPipes e).any (pipeBusy s) then s
    else
      let s : State := { s with mir.late := es }
      if e.cls = 0 then mirrorSync { s with mir.busy := false, mir.lastRec := e.rid } true 0 e.rid
      else applyRecord s e.cls e.rid e.ack e.data

/-- A record or RESYNC_END is here whole: it is applied in its turn (R357, R358). -/
def mirrorTake (s : State) (e : MirLate) : State :=
  (List.range (s.mir.late.length + 1)).foldl (fun s _ => mirrorNext s) { s with mir.late := s.mir.late ++ [e] }

/-- A RECORD packet of a receiver (R357): staged at STAGE_BASE under MID 0x3A, and the record applied with its LAST packet. A
packet that continues no staged record is dropped. (DEDUCED: log entry 85.) -/
def mirrorStage (s : State) (cls flags rid off total : Nat) (data : List Byte) : State :=
  let first := bit flags 0
  let now := if first then some (cls, rid, total, 0) else s.mir.partRec
  match now with
  | none => s
  | some (c, r, t, have_) =>
    if r ≠ rid ∨ off ≠ have_ then s
    else
      let d := data.take (min 496 (t - off))
      let s : State := { s with mir.busy := s.mir.busy || bit flags 2, mir.lastRec := rid }
      let fits := decide (t ≤ 0x400000)
      let s : State := if fits then (s.memWr 0x3A (s.pair.stage + off) d).1 else s
      if !(bit flags 1) then { s with mir.partRec := some (c, r, t, have_ + d.length) }
      else
        let s : State := { s with mir.partRec := none }
        if !fits then s.finish (mirrorJob c rid false 0 []) .badDescriptor 0 0
        else
          let (b, s, ok) := s.memRd 0x3A s.pair.stage t
          if ok then mirrorTake s { cls := c, rid := rid, ack := bit flags 3, data := b } else s.finish (mirrorJob c rid false 0 []) .denied 0 0

/-- The OWNER takes an ACK (R359): step 8 of the waiting commit passes or fails. (DEDUCED: log entry 85.) -/
def takeAck (s : State) (status rid : Nat) : State :=
  let s : State := s.setReg Reg.FAB_MIR_ACK (2 ^ 31 + status % 256)
  match s.commits.find? (fun c => c.stage == 1 && c.recId == rid) with
  | some c => if status = 0 then acceptCommit s c else ackFailed s c
  | none => s

/-- A MIRROR packet arrives over PL (R355 to R359); an unpaired device ignores it. A SEQ gap is counted; one that packets dropped for
their CRC account for has cost the sync already. (DEDUCED: log entry 85.) -/
def mirrorIn (s : State) (p : Packet) : State :=
  let s : State := takeLocal s (fun q => q.cls == clsMIRROR && q == p)
  let gap := decide (p.seq ≠ s.mir.rxSeq)
  let known := decide (p.seq = (s.mir.rxSeq + s.mir.dropped) % 65536)
  let s : State := { s with mir.rxSeq := (p.seq + 1) % 65536, mir.dropped := 0 }
  if !s.pair.enable then s
  else
    let s : State := if gap then s.bump Reg.FAB_MIR_GAP_CNT else s
    let s : State := if gap && !known then mirrorLose s 1 else s
    let rid := fieldAt p.data 4 4
    let flags := fieldAt p.data 2 1
    match fieldAt p.data 0 1 with
    | 0 =>
      if s.pair.state = 3 then (if bit flags 1 then s.bump Reg.FAB_MIR_REJECT_CNT else s)
      else mirrorStage s (fieldAt p.data 1 1) flags rid (fieldAt p.data 8 4) (fieldAt p.data 12 4) (p.data.drop 16)
    | 1 => takeAck s (fieldAt p.data 3 1) rid
    | 2 => sendImage s
    | 3 => if s.pair.state = 3 then s else mirrorTake s { cls := 0, rid := rid, ack := false, data := [] }
    | _ => s

/-- RESYNC_REQ (R357): the request that waits in the local queue is answered. -/
def doResyncReq (s : State) : State :=
  match s.fab.localQ.find? (fun q => q.cls == clsMIRROR && fieldAt q.data 0 1 == 2) with
  | some p => mirrorIn s p
  | none => sendImage s

/-- MIRROR_ACK (R359). (DEDUCED: log entry 87.) -/
def doMirrorAck (s : State) (p : Packet) : State := if fieldAt p.data 0 1 = 1 then mirrorIn s p else s

/-- ACK_TIMEOUT (R359): no ACK within ACK_TIMEOUT_US of the oldest waiting commit. (DEDUCED: log entry 87.) -/
def doAckTimeout (s : State) : State :=
  match s.commits.find? (fun c => c.stage == 1 && decide (c.sentAt + s.pair.ackUs * 1000 ≤ s.clk)) with
  | some c => ackFailed s c
  | none => s

/-! ## MIRROR_CFG (R361) -/

/-- A value of MIRROR_CFG is out of range. (DEDUCED: log entry 84.) -/
def mirrorBad (s : State) (j : Job) : Bool :=
  let ref := j.n 18 1
  let lim := j.n 22 2
  let ack := j.n 24 4
  decide (j.n 16 1 > 1) || (decide (ref > 7) && ref != 0xFF) || j.n 20 2 == s.addr || j.n 20 2 == 0x3FF
    || (lim != 0 && (decide (lim < 100) || decide (lim > 60000))) || (ack != 0 && (decide (ack < 100) || decide (ack > 100000)))

/-- ENABLE 0 (R344): a release where the device owns or claims, then UNPAIRED and ACTIVE. -/
def unpair (s : State) : State :=
  let s : State := setPairState (s.relinquish 11 false) 0 0
  let s : State := { s with pair.enable := false, mir.waiting := [], mir.partRec := none, mir.busy := false, mir.late := [] }
  if s.sys.mode = .standby then s.setMode .active 2 else s

/-- ENABLE 1 (R344, R351): an UNPAIRED device goes to STANDBY. -/
def pairUp (s : State) : State :=
  let s : State := { s with pair.enable := true, pair.trig := s.pair.trig % 512 }
  if s.pair.state = 0 then
    let s : State := setPairState s 1 0
    if s.sys.mode = .active then s.setMode .standby 2 else s
  else s

/-- The checks of MirrorCfg (R361). (DEDUCED: log entry 84.) -/
def mirrorCfgSpec (s : State) (j : Job) : CmdSpec :=
  let en := j.n 16 1
  let fl := j.n 17 1
  { pf0 := true, ready := en != 1 || s.peerUp,
    body := j.onlyBits 17 1 7 && j.onlyBits 20 2 0x3FF && j.zero [(19, 1), (30, 2), (40, 24)],
    own := [chk (mirrorBad s j) .badDescriptor, chk (decide (j.n 32 8 % 4096 ≠ 0)) .outOfBounds,
            chk (bit fl 2 && s.pair.state != 3) .notOwner] }

/-- MIRROR_CFG (R361). -/
def doMirrorCfg (s : State) (j : Job) : State :=
  let en := j.n 16 1
  let fl := j.n 17 1
  runJob s j (mirrorCfgSpec s j) (fun s =>
    let s : State := if en = 1 then pairUp s else unpair s
    let s : State := { s with
      pair.autoClaim := bit fl 0, pair.reqSync := bit fl 1, pair.refOut := if j.n 18 1 = 0xFF then none else some (j.n 18 1),
      pair.addrAlias := j.n 20 2, pair.unlockMs := j.n 22 2, pair.ackUs := if j.n 24 4 = 0 then 2000 else j.n 24 4,
      pair.aliasStreams := j.n 28 1, pair.classes := j.n 29 1, pair.stage := j.n 32 8 }
    let s : State := if unlockedLong s then s else s.untrigger 8
    let s : State := if bit fl 2 then sendImage s else s
    s.finish j .done 0 0)

/-! ## Views that differ (R362) -/

/-- RESYNC_BUSY on the sender: image packets still wait for queue space. (DESIGN CHOICE: log entry 89.) -/
def imageWaiting (s : State) : Bool := s.mir.waiting.any (fun p => fieldAt p.data 0 1 == 3 || (fieldAt p.data 0 1 == 0 && bit (fieldAt p.data 2 1) 2))

/-- The two views of a kind and index: management, then data path. What NM0's firmware last reported, and what the standby's
ACKs carry, the spec does not give: free values. The owner's last RESYNC_END has been sent once no packet of its image waits.
(DESIGN CHOICE: log entry 89.) -/
def twoViews (s : State) (kind idx : Nat) : Nat × Nat :=
  match kind with
  | 0 =>
    let pins := if s.pair.ownO ∧ s.pair.selO then 3 else if s.pair.ownO then 2 else if s.pair.enable then 1 else 0
    (Config.freeNat s.free % 4, pins)
  | 1 => (b2n (s.enabled idx && (s.tg idx).cfg.idx != 0), b2n (s.tg idx).running)
  | _ => (b2n (s.mir.ended && !imageWaiting s), Config.freeNat (s.free + 1) % 2)

/-- STATE_DISAGREE (R362): a pair of views has been as it is for 100 µs; every occurrence is counted. (DESIGN CHOICE: log entry 89.) -/
def doStateDisagree (s : State) (kind idx : Nat) : State :=
  if idx > (if kind = 1 then 7 else 0) then s
  else
    let (m, d) := twoViews s kind idx
    let s : State := { s with free := s.free + 2 }
    let known := s.pair.disagree.contains (kind, idx)
    if decide (m ≠ d) = known then s
    else
      let s : State := { s with pair.disagree := if known then s.pair.disagree.erase (kind, idx) else (kind, idx) :: s.pair.disagree,
                                pair.disagreed := s.pair.disagreed.set (256 * kind + idx) (s.pair.disagreed.getD (256 * kind + idx) 0 + 1) }
      s.raiseLimited (0x01200000 + kind * 256 + idx) 1000000000 0x0120
        (leBytes 1 kind ++ leBytes 1 idx ++ leBytes 1 m ++ leBytes 1 d ++ leBytes 1 (b2n (!known)) ++ leBytes 8 s.ft.toNat)

/-! ## Register views -/

/-- The mirror channel carries this device's records, or receives the owner's (R355). -/
def mirSending (s : State) : Bool := s.pair.enable && s.peerUp && decide (s.pair.state = 3)
def mirInSync (s : State) : Bool := if s.pair.state = 3 then mirSending s else s.mir.inSync

def viewPairStatus (s : State) : Nat :=
  let ok := eligible s || (decide (s.pair.state = 3) && decide (s.pair.trig / 2 = 0))
  s.pair.barCause * 2 ^ 20 + b2n (mirInSync s) * 2 ^ 11 + b2n ok * 2 ^ 10 + b2n s.pair.barred * 2 ^ 9 + s.pair.state * 16
    + b2n s.pair.roleB * 8 + b2n s.pair.selO * 4 + b2n s.pair.ownI * 2 + b2n s.pair.ownO

def viewPairCfg (s : State) : Nat :=
  (s.pair.refOut.getD 0xF) * 2 ^ 16 + b2n s.pair.enable * 2 ^ 14 + b2n s.pair.reqSync * 2 ^ 13 + b2n s.pair.autoClaim * 2 ^ 12
    + s.pair.addrAlias

def viewMirStatus (s : State) : Nat :=
  16 * b2n (s.commits.any (fun c => c.stage == 1)) + 8 * b2n (s.mir.busy || imageWaiting s) + 4 * b2n (mirInSync s)
    + 2 * b2n (s.pair.enable && s.peerUp && (s.pair.state == 1 || s.pair.state == 2)) + b2n (mirSending s)

end Machine
end Sys2Proof
end

