-- ==== Sys2Proof/Machine/Boot.lean ====
section
/-! DEFINITION. Bring-up (R262 to R266, R396, R420): the bootstrap window and its chunks, the verification of the
firmware image, and the start of the units. -/

namespace Sys2Proof
namespace Machine

/-! ## The bootstrap window (R264) -/

/-- Accessors that the register space admits (R332). -/
def admitted : Acc → Bool
  | .other _ => false | _ => true

/-- Accessors that the bootstrap window serves: PF0 and MGMT requests with PRIV (R264). -/
def bootServed : Acc → Bool
  | .pf0 => true | .mgmtPriv => true | _ => false

/-- Bytes stored at window offset off. -/
def putWindow (s : State) (off : Nat) (b : List Byte) : State :=
  { s with sys.boot.window := memWrite s.sys.boot.window off b }

/-- A write of the bootstrap window (R264): aligned 32-bit and 64-bit writes, captured once VERIFIED is 1; what a byte written
while BUSY is 1 holds is left open. (DEDUCED: log entry 71.) -/
def bootWrite (s : State) (a : Acc) (off size : Nat) (v : U64) : State :=
  let at_ := 0x100000 + off
  if !(size = 4 ∨ size = 8) ∨ off % size ≠ 0 then s.raf a .size true at_ size
  else if !(admitted a) then s
  else if !(mpuOk s (Acc.mid a) (regSpace + at_) size) then s.mpuDeny (Acc.mid a) (regSpace + at_) size true
  else if !(bootServed a) then s
  else if s.sys.boot.verified then s.raf a .locked true at_ size
  else if s.sys.boot.busy then
    let (b, s) := freeBytes size s
    putWindow s off b
  else putWindow s off (leBytes size v.toNat)

/-- What SYS_BOOT_CHUNK refuses (R264, R323). (DEDUCED: log entry 71.) -/
def chunkFault (s : State) (v : Nat) : Option RafCause :=
  let len := bits v 24 16
  if s.sys.boot.verified then some .locked
  else if s.sys.boot.busy then some .busy
  else if len = 0 ∨ len > 256 ∨ bits v 10 0 + len > 2048 then some .value
  else none

/-- An accepted write of SYS_BOOT_CHUNK (R264). -/
def bootChunk (s : State) (v : Nat) : State :=
  { s with sys.boot.busy := true, sys.boot.copying := some (bits v 10 0, bits v 24 16), sys.boot.verifying := bit v 31 }

/-- The window's bytes below len moved to the staging store at off (R264). -/
def stageChunk (b : BootRec) (page len : Nat) : BootRec :=
  let lo := page * 4096
  let hi := lo + len * 4096
  let moved := (b.window.filter (fun e => decide (e.1 < len * 4096))).map (fun e => (e.1 + lo, e.2))
  { b with
    staging := b.staging.filter (fun e => decide (e.1 < lo)) ++ moved ++ b.staging.filter (fun e => decide (hi ≤ e.1)),
    pages := (page, len) :: b.pages, copying := none }

/-- The chunk under way reaches the staging store. -/
def copyChunk (b : BootRec) : BootRec :=
  match b.copying with
  | some (page, len) => stageChunk b page len
  | none => b

/-- BOOT_CHUNK_COPY_END: a chunk that is not the last has moved, and BUSY falls (R264). -/
def doChunkCopyEnd (s : State) : State :=
  if s.sys.boot.busy ∧ !s.sys.boot.verifying then
    { s with sys.boot := { copyChunk s.sys.boot with busy := false } }
  else s

/-! ## Verification (R265, R266) -/

/-- A 32-bit field of the staged image. -/
def BootRec.word (b : BootRec) (off : Nat) : Nat := leNat (memRead b.staging off 4)

/-- Every 4 KiB unit below LENGTH came in a chunk. -/
def BootRec.whole (b : BootRec) (length : Nat) : Bool :=
  (List.range ((length + 4095) / 4096)).all (fun p => b.pages.any (fun e => decide (e.1 ≤ p) && decide (p < e.1 + e.2)))

/-- n staged bytes from off. -/
def BootRec.part (b : BootRec) (off n : Nat) : List Byte := memRead b.staging off n

/-- The SHA-384 of PUBKEY equals the key hash in OTP (R265). -/
def imageKeyOk (b : BootRec) (otp : OtpRec) : Bool := sha384 (b.part 32 97) == beNat otp.keyHash

/-- SIGNATURE is a valid signature by PUBKEY over the SHA-384 of bytes 0 to 143 and 256 to LENGTH - 1 (R265). -/
def imageSigOk (b : BootRec) : Bool :=
  b.part 32 1 == [4] &&
    p384Verify (beNat (b.part 33 48)) (beNat (b.part 81 48)) (beNat (b.part 144 48)) (beNat (b.part 192 48))
      (sha384 (b.part 0 144 ++ b.part 256 (b.word 8 - 256)))

/-- The refusal codes that apply to the staged image (R265, R266); the bytes that the signature covers and the chunks are judged for a
valid LENGTH. (DEDUCED: log entry 71.) -/
def imageFaults (b : BootRec) (otp : OtpRec) : List Nat :=
  let len := b.word 8
  let sized := decide (4096 ≤ len) && decide (len ≤ 8388608)
  (if b.word 0 = 0x0824F1A0 ∧ sized then [] else [1]) ++ (if imageKeyOk b otp then [] else [2])
    ++ (if sized ∧ !(imageSigOk b) then [3] else []) ++ (if b.word 12 < otp.svnMin then [4] else [])
    ++ (if sized ∧ !(b.whole len) then [5] else [])

/-- Failed Class F groups: a bit for each (R420). -/
def failedGroups (s : State) : Nat := 0x7FF - s.otp.calf % 0x800

/-- MGMT becomes ready; CALF_DEFAULT and a TOUCH_WAKE that waited are raised (R384, R420). -/
def mgmtReady (s : State) : State :=
  let s := s.setReady 1 true
  let s := if failedGroups s ≠ 0 then s.raise 0x0870 (leBytes 2 (failedGroups s)) else s
  match s.sys.wakeEv with
  | some d => { s with sys.wakeEv := none }.raise 0x0866 d
  | none => s

/-- IMAGE_VERIFICATION_END (R265, R266): VERIFIED and MGMT, or FAIL. Where several refusal codes apply, the spec does not say which
is reported. (DEDUCED: log entry 71; DEDUCED: log entry 72.) -/
def doImageEnd (s : State) : State :=
  if s.sys.boot.busy ∧ s.sys.boot.verifying then
    let b := { copyChunk s.sys.boot with busy := false, verifying := false }
    let svn := b.word 12
    match imageFaults b s.otp with
    | [] => mgmtReady ({ s with sys.boot := { b with verified := true, svn := svn } }.raise 0x0101 (leBytes 1 0 ++ leBytes 4 svn))
    | c :: cs =>
      let (x, s) := s.fresh
      let code := (c :: cs).getD (x % (cs.length + 1)) c
      { s with sys.boot := { b with fail := code, fails := min (b.fails + 1) 0xFFFF, staging := [], pages := [] } }.raise 0x0101
        (leBytes 1 code ++ leBytes 4 svn)
  else s

/-! ## Idle units and their domains (R387 to R389) -/

/-- The idle units of a power domain that may go off (Table: power domains, Table: idle units). -/
def unitsOf : Nat → List PowerUnit
  | 1 => (List.finRange 2).map .touch
  | 5 => (List.finRange 8).map .de
  | 6 => (List.finRange 2).map .ee ++ (List.finRange 4).map .cw
  | 8 => (List.finRange 8).map .out ++ (List.finRange 4).map .cw
  | _ => []

/-- Domains that hold a unit. -/
def domainsOf : PowerUnit → List Nat
  | .touch _ => [1] | .de _ => [5] | .ee _ => [6] | .cw _ => [6, 8] | .out _ => [8] | .link _ => []

/-- Every idle unit of the device. -/
def allUnits : List PowerUnit :=
  unitsOf 1 ++ unitsOf 5 ++ unitsOf 6 ++ (List.finRange 8).map .out ++ (List.finRange 11).map .link

/-- A unit is idle (Table: idle units); a touch port that is to stop still has its last report slot before it (R372). (DEDUCED: log entry 92.) -/
def unitIdle (s : State) : PowerUnit → Bool
  | .de e => s.dec.ctxs.all (fun c => decide (c.2.state = 0) || decide (c.2.engine ≠ e.val))
  | .ee e => s.encs.all (fun h => !h.2.open_ || decide (h.2.engine ≠ e.val))
  | .cw p => !((s.caps.get? p.val).any (·.enabled))
  | .out n => !((s.scan.tgs.get? n.val).any (·.running))
  | .link l => !(bit (s.reg (Reg.FAB_LINK_CTRL + 0x100 * l.val)) 0)
  | .touch t => !(bit (s.reg (tchOff Reg.EDG_TCH_CTRL t.val)) 0) && !(s.tch t.val).scanning

/-- A domain's units are all gated. -/
def allGated (s : State) (d : Nat) : Bool := (unitsOf d).all (fun u => s.sys.power.gated.contains u)

/-- What the PHY of a DisplayPort source forgets without power: the link it had trained. (DEDUCED: log entry 96.) -/
def DpRec.unpowered (r : DpRec) : DpRec :=
  { r with trained := false, rate := 0, lanes := 0, limRate := 0, limLanes := 0, tryRate := 0, tryLanes := 0, training := false, retry := false,
           drive := 0, pattern := 2, wholeFrame := false }

/-- PD8 goes off: the output and capture PHYs lose what they held, and sources see the HPD of every capture port low (R74).
(DEDUCED: log entry 96.) -/
def pd8Off (s : State) : State :=
  let s := { s with sys.power.on := setBit s.sys.power.on 8 false, scan.dps := s.scan.dps.map (fun e => (e.1, e.2.unpowered)),
                    caps := s.caps.map (fun e => (e.1, { e.2 with trained := false, rate := 0, lanes := 0, eq := [] })) }
  [0, 1, 2, 3].foldl driveHpd s

/-- A domain of idle units goes off (R387). (DEDUCED: log entry 96.) -/
def domainOff (s : State) : Nat → State
  | 5 => pd5Off s
  | 6 => pd6Off s
  | 8 => pd8Off s
  | d => { s with sys.power.on := setBit s.sys.power.on d false }

/-- A domain is powered. (DEDUCED: log entry 95.) -/
def domainOn (s : State) (d : Nat) : State :=
  let s := { s with sys.power.on := setBit s.sys.power.on d true }
  if d = 8 then [0, 1, 2, 3].foldl driveHpd s else s

/-- IDLE_GATING (R388): a unit idle for IDLE_MS is clock-gated; a domain whose units are all gated goes off. IDLE_MS 0 never gates. -/
def doIdleGating (s : State) (u : PowerUnit) : State :=
  if s.reg Reg.SYS_PWR_IDLE = 0 ∨ s.sys.power.gated.contains u ∨ !(unitIdle s u) ∨ s.sys.mode = .dormant then s
  else
    let s := { s with sys.power.gated := u :: s.sys.power.gated }
    (domainsOf u).foldl (fun s d => if s.pdOn d ∧ allGated s d then domainOff s d else s) s

/-- FROZEN takes the power of PD5 and PD6, and of the touch ports; output PHYs and links keep theirs (R406). (DEDUCED: log entry 74.) -/
def frozenPowers : PowerUnit → Bool
  | .out _ => true | .link _ => true | .de _ => false | .ee _ => false | .cw _ => false | .touch _ => false

/-- UNIT_WAKE (R388, R389): a gated unit becomes usable again. (DEDUCED: log entry 95.) -/
def doUnitWake (s : State) (u : PowerUnit) : State :=
  if s.sys.power.gated.contains u ∧ (s.sys.mode ≠ .frozen ∨ frozenPowers u) ∧ s.sys.mode ≠ .dormant ∧ !s.sys.power.cut then
    let s := { s with sys.power.gated := s.sys.power.gated.erase u }
    (domainsOf u).foldl (fun s d => if s.pdOn d then s else domainOn s d) s
  else s

/-- Units that a command has put to work are ungated (R388). -/
def wakeBusy (s : State) : State :=
  s.sys.power.gated.foldl (fun s u => if unitIdle s u then s else doUnitWake s u) s

/-! ## The start of the units (R394, R396, R400) -/

/-- FIRMWARE_UNIT_START: firmware powers PD7 and starts the units; once MGMT and FUMAROLE are ready the device leaves BRINGUP.
After a wake the units that the restored configuration leaves idle stay gated. (DEDUCED: log entry 95.) -/
def doUnitStart (s : State) : State :=
  if s.isReady 1 ∧ !(s.isReady 27) ∧ s.sys.mode = .bringup ∧ !s.sys.power.cut then
    let gated := if s.sys.cause = 6 then allUnits.filter (unitIdle s) else []
    let s := { s with sys.power.on := setBit s.sys.power.on 7 true, sys.power.gated := gated, sys.power.strLock := true }
    let s := [1, 5, 6, 8].foldl (fun s d => if allGated s d then s else domainOn s d) s
    let s := s.setReady 27 true
    let s := s.setMode (if s.pair.enable then .standby else .active) 1
    let s := [18, 19, 20, 21, 22, 23, 24, 25, 4, 5, 6, 7, 8, 9, 10, 11, 12, 13, 14, 15, 16, 17].foldl
      (fun s i => s.setReady i true) s
    [0, 1].foldl (fun s t => if bit (s.reg (tchOff Reg.EDG_TCH_CTRL t)) 0 then touchStart s t else s) s
  else s

/-- PD9 is powered by hardware in bring-up (R396), before links train. (DEDUCED: log entry 95.) -/
def powerFabric (s : State) : State :=
  if s.sys.power.cut ∨ s.sys.mode = .dormant then s else { s with sys.power.on := setBit s.sys.power.on 9 true }

end Machine
end Sys2Proof
end

