-- ==== Sys2Proof/Machine/Regs.lean ====
section
/-! DEFINITION. Register accesses (R318 to R331): reads with the views of RS registers, the order of checks of a write, the rules of
each register's fields, and what an accepted write does. -/

namespace Sys2Proof
namespace Machine

/-! ## Accessors (R320, R328, R332, R339) -/

/-- The debug port is privileged in DEVELOPMENT and RMA (Table: lifecycle states). -/
def dapPriv (s : State) : Bool := decide (s.otp.lifecycle ≠ 1)

/-- The debug port is enabled: DAP_EN, which reads 1 outside PRODUCTION (R339). -/
def dapEnabled (s : State) : Bool := dapPriv s || bit (s.reg Reg.SYS_DEBUG_CTRL) 0

/-- A privileged accessor (R320). -/
def privileged (s : State) : Acc → Bool
  | .nm0 => true | .nm1 => true | .pf0 => true | .mgmtPriv => true | .dap => dapPriv s
  | .pf1 => false | .mgmt => false | .other _ => false

/-- The mailbox bank of an accessor (R328). -/
def bankOf : Acc → Nat
  | .nm0 => 0 | .nm1 => 1 | .pf0 => 2 | .pf1 => 3 | .mgmtPriv => 4 | .mgmt => 5 | .dap => 6 | .other _ => 7

/-- A mailbox right after reset. -/
def MbxRec.init : MbxRec := { sel := 0, valid := false, err := 0, data := [] }

def mbxKey (bank m : Nat) : Nat := bank * 4 + m
def State.mbx (s : State) (bank m : Nat) : MbxRec := s.sys.mbx.getD (mbxKey bank m) MbxRec.init
def State.setMbx (s : State) (bank m : Nat) (r : MbxRec) : State := { s with sys.mbx := s.sys.mbx.set (mbxKey bank m) r }

/-- Mailbox item 0x0700_0000, fabric time and uncertainty (R59). (DEDUCED: log entry 148.) -/
def timeNow (s : State) : List Byte := leBytes 8 s.ft.toNat ++ leBytes 4 s.uncert ++ leBytes 1 s.time.st.code
  ++ leBytes 1 (match s.time.st with | .root => 0 | .free => 0x1F | _ => s.time.hops) ++ leBytes 1 (s.time.parent.getD 0xFF) ++ [0]

/-- The unit that holds an item and may be gated (R329, R388). -/
def itemUnit (s : State) (v : Nat) : Option PowerUnit :=
  let idx := v % 0x10000
  match v / 0x10000 with
  | 0x0400 => (s.dec.ctxs.get? idx).map (fun c => .de (Fin.ofNat 8 c.engine))
  | 0x0601 => some (.out (Fin.ofNat 8 idx)) | 0x0602 => some (.out (Fin.ofNat 8 idx))
  | 0x0603 => some (.cw (Fin.ofNat 4 (idx / 4))) | 0x0604 => some (.out (Fin.ofNat 8 (idx / 4)))
  | 0x0610 => some (.out (Fin.ofNat 8 (idx / 32)))
  | 0x0702 => some (.link (Fin.ofNat 11 idx)) | 0x0703 => some (.link (Fin.ofNat 11 idx))
  | 0x0704 => some (.link (Fin.ofNat 11 (idx / 2)))
  | 0x0850 => some (.touch (Fin.ofNat 2 (idx / 1024))) | 0x0851 => some (.touch (Fin.ofNat 2 (idx / 1024)))
  | 0x0852 => some (.touch (Fin.ofNat 2 (idx / 16)))
  | _ => none

/-- A write of MBX_SEL (R329): VALID falls; TIME_NOW is latched as the write reaches the register fabric (R59); a gated unit that
holds the item wakes (R388). (DEDUCED: log entry 80.) -/
def selectItem (s : State) (bank m v : Nat) : State :=
  let s := match itemUnit s v with | some u => doUnitWake s u | none => s
  s.setMbx bank m { sel := BitVec.ofNat 32 v, valid := false, err := 0, data := if v = 0x07000000 then timeNow s else [] }

/-! ## The value a register reads (R325) -/

/-- The status of a submission ring. -/
def viewSq (s : State) (f q : Nat) : Nat :=
  let r := s.sq f q
  b2n (bit (s.sqCtrl f q) 31) * 2 ^ 31 + b2n r.halted * 2 ^ 30 + b2n r.waitCq.isSome * 2 ^ 29 + r.tail * 2 ^ 16 + r.head

/-- The status of a completion or event ring with control register ctrl. -/
def viewRing (ctrl : Nat) (r : CqRec) : Nat :=
  b2n (bit ctrl 31) * 2 ^ 31 + b2n (bit ctrl 31 && ringFull (cqSize ctrl) r.head r.tail) * 2 ^ 30 + b2n r.phase * 2 ^ 29
    + r.tail * 2 ^ 16 + r.head

/-- PX PLL n and the LC PLLs run while a unit that they feed is not gated (R389, R391). -/
def unitOn (s : State) (d : Nat) (u : PowerUnit) : Bool := s.pdOn d && !(s.sys.power.gated.contains u)

/-- SYS_CLK_STATUS (R390, R391). -/
def viewClk (s : State) : Nat :=
  let p := s.sys.power
  let pix := (List.finRange 8).foldl (fun m n => setBit m n.val (unitOn s 7 (.out n))) 0
  let lc := b2n ((List.finRange 11).any (fun l => unitOn s 9 (.link l))) + 2 * b2n ((List.finRange 8).any (fun n => unitOn s 8 (.out n)))
    + 4 * b2n ((List.finRange 4).any (fun q => unitOn s 8 (.cw q))) + 8 * b2n (s.pdOn 3)
  let str := p.strLock && ((List.finRange 8).any (fun e => unitOn s 5 (.de e)) || (List.finRange 2).any (fun e => unitOn s 6 (.ee e)))
  b2n s.straps.refHcsl * 2 ^ 16 + lc * 2 ^ 12 + pix * 16 + 8 * b2n p.memLock + 4 * b2n str + 2 * b2n p.sysLock + b2n p.refOk

/-- SYS_BOOT_STATUS (R264, R266). -/
def viewBoot (s : State) : Nat :=
  let b := s.sys.boot
  b2n b.busy * 2 ^ 31 + b2n b.verified * 2 ^ 30 + b.fail * 2 ^ 16 + b.fails

/-- The lowest bad register's offset. -/
def lowestBad (s : State) : Nat := s.sys.parity.foldl min (s.sys.parity.headD 0)

/-- The region in force. -/
def State.region (s : State) (r : Nat) : MpuRegion := s.sys.mpu.getD r MpuRegion.init

/-- A shadow register of region r: 0 base, 1 limit, 2 low mask, 3 high mask. -/
def mpuShadow (s : State) (r k : Nat) : Nat := s.reg (Reg.SYS_MPU_BASE + 0x20 * r + 4 * k)

/-- The region that the shadows spell. -/
def shadowRegion (s : State) (r : Nat) (en lock : Bool) : MpuRegion :=
  { en := en, lock := lock, base := mpuShadow s r 0, lim := mpuShadow s r 1,
    mask := BitVec.ofNat 64 (mpuShadow s r 2 + 2 ^ 32 * mpuShadow s r 3) }

/-- SYS_MPU_CTRL(r). -/
def viewMpu (s : State) (r : Nat) : Nat :=
  let g := s.region r
  4 * b2n g.lock + 2 * b2n g.en + b2n (!(shadowRegion s r g.en g.lock == g))

/-- EDG_THERM_STATUS (R411, R412). -/
def viewTherm (s : State) : Nat :=
  let t := s.sys.therm
  let (k, v) := hottest t.temps
  b2n t.tripped * 2 ^ 31 + b2n t.atBound * 2 ^ 30 + (k % 16) * 2 ^ 24 + t.step * 2 ^ 16 + ofInt 8 (degrees v)

/-- The views of the SYS and HST regions. (DEDUCED: log entry 10.) -/
def viewSys (s : State) (w base i j : Nat) : Option Nat :=
  if base = Reg.SYS_ID then some (0x08240000 + 0xB000 + s.otp.grade.toNat)
  else if base = Reg.SYS_LIFECYCLE then some (32 * b2n (dapPriv s) + 16 * b2n (dapEnabled s) + s.otp.lifecycle)
  else if base = Reg.SYS_JTAG_IDCODE then some (2 ^ 28 + 0x824 * 2 ^ 12 + (s.otp.manuf % 2048) * 2 + 1)
  else if base = Reg.SYS_READY0 then some (s.sys.ready % 2 ^ 28)
  else if base = Reg.SYS_READY1 then some (bits s.sys.ready 44 32)
  else if base = Reg.SYS_MODE then some (s.sys.wakeSrc * 2 ^ 16 + s.sys.cause * 256 + s.sys.mode.code)
  else if base = Reg.SYS_PWR_STATUS then some s.sys.power.on
  else if base = Reg.SYS_CLK_STATUS then some (viewClk s)
  else if base = Reg.SYS_BOOT_STATUS then some (viewBoot s)
  else if base = Reg.SYS_BOOT_SVN then some s.sys.boot.svn
  else if base = Reg.SYS_PARITY_STATUS then some (b2n (!s.sys.parity.isEmpty) * 2 ^ 31 + lowestBad s)
  else if base = Reg.SYS_PARITY_BAD then some s.sys.parity.length
  else if base = Reg.SYS_MPU_CTRL then some (viewMpu s i)
  else if base = Reg.HST_SQ_STATUS then some (viewSq s i j)
  else if base = Reg.HST_CQ_STATUS then some (viewRing (s.cqCtrl i j) (s.cq i j))
  else if base = Reg.HST_EVQ_STATUS then
    some (viewRing (s.reg (evqOff w i Reg.HST_EVQ_CTRL)) (s.host.evq.getD (w * 2 + i) CqRec.init))
  else none

/-- The views of the MEM and STR regions. (DEDUCED: log entry 10.) -/
def viewStr (s : State) (base i : Nat) : Option Nat :=
  if base = Reg.MEM_CONFIG then some (viewMemConfig s)
  else if base = Reg.MEM_STATUS then some (viewMemStatus s)
  else if base = Reg.MEM_THROTTLE_LO then some (viewThrottle s false)
  else if base = Reg.MEM_THROTTLE_HI then some (viewThrottle s true)
  else if base = Reg.STR_DEC_ENG_STATUS then some (viewEngStatus s i)
  else if base = Reg.STR_DEC_ENG_LOAD then some (viewEngLoad s i)
  else if base = Reg.STR_DEC_CTX_STATUS then some (viewCtxStatus s i)
  else if base = Reg.STR_DEC_CTX_PIC then some (viewCtxPic s i)
  else if base = Reg.STR_CAP_STATUS then some (viewCapStatus s i)
  else if base = Reg.STR_CAP_TIMING then some (viewCapTiming s i)
  else if base = Reg.STR_CAP_PERIOD then some (viewCapPeriod s i)
  else if base = Reg.STR_ENC_STATUS then some (viewEncStatus s i)
  else if base = Reg.STR_ENC_LOAD then some (encLoad s i)
  else none

/-- The views of the CMP and OUT regions. (DEDUCED: log entry 10.) -/
def viewCmp (s : State) (base i : Nat) : Option Nat :=
  if base = Reg.CMP_SLATE_LOADED then some (viewSlateLoaded s i)
  else if base = Reg.CMP_PIPE_STATUS then some (viewPipeStatus s i)
  else if base = Reg.CMP_PIPE_FRAME then some (s.tg i).frame
  else if base = Reg.CMP_LBUF_PEAK then some (viewLbufPeak s i)
  else if base = Reg.FUM_STATUS then some (viewFumStatus s)
  else if base = Reg.FUM_UNCERT then some s.uncert
  else if base = Reg.FUM_TILE_COUNT then some (viewTileCount s i)
  else if base = Reg.FUM_SRC_COUNT then some (viewSrcCount s i)
  else if base = Reg.OUT_TG_CTRL then some (viewTgCtrl s i)
  else if base = Reg.OUT_TG_STATUS then some (viewTgStatus s i)
  else if base = Reg.OUT_TG_FRAME then some (s.tg (s.pairLead i)).frame
  else if base = Reg.OUT_TG_PERIOD then some (s.tg i).period
  else if base = Reg.OUT_TG_PHASE then some (viewTgPhase s i)
  else if base = Reg.OUT_TG_TRIM then some (ofInt 32 (s.tg (s.pairLead i)).trim)
  else if base = Reg.OUT_TG_LOCK then some (viewTgLock s i)
  else if base = Reg.OUT_DP_STATUS then some (viewDpStatus s i)
  else if base = Reg.OUT_DP_DRIVE then some (s.dp i).drive
  else if base = Reg.OUT_CHK_FAIL then some (viewChkFail s i)
  else if base = Reg.OUT_CHK_ENABLED then some (viewChkEnabled s i)
  else if base = Reg.OUT_CHK_SUMMARY then some (viewChkSummary s)
  else none

/-- The views of the FAB and EDG regions. (DEDUCED: log entry 10.) -/
def viewFab (s : State) (base i j : Nat) : Option Nat :=
  if base = Reg.FAB_LINK_STATUS then some (viewLinkStatus s i)
  else if base = Reg.FAB_LINK_PEER then some (viewLinkPeer s i)
  else if base = Reg.FAB_DOMAIN then some (viewDomain s)
  else if base = Reg.FAB_GW_WIN ∧ i = 0 then some 0
  else if base = Reg.FAB_TEPHRA_STATUS then some (viewTephra s)
  else if base = Reg.FAB_MIR_STATUS then some (viewMirStatus s)
  else if base = Reg.FAB_LANE_STATUS then some (viewLaneStatus s i j)
  else if base = Reg.FAB_TIME_STATUS then some (viewTimeStatus s)
  else if base = Reg.FAB_TIME_RATE then some (ofInt 32 s.rateAdj)
  else if base = Reg.FAB_TIME_UNCERT then some s.uncert
  else if base = Reg.FAB_TIME_OFFSET then some (viewTimeOffset s)
  else if base = Reg.FAB_TIME_HOLD then some s.holdMs
  else if base = Reg.EDG_THERM_STATUS then some (viewTherm s)
  else if base = Reg.EDG_THERM_TEMP then some (ofInt 16 (s.sys.therm.temps.getD i 0))
  else if base = Reg.EDG_CALF_STATUS then some (s.otp.calf % 0x800)
  else if base = Reg.EDG_PAIR_STATUS then some (viewPairStatus s)
  else if base = Reg.EDG_PAIR_TRIG then some s.pair.trig
  else if base = Reg.EDG_PAIR_CFG then some (viewPairCfg s)
  else if base = Reg.EDG_TCH_STATUS then some (viewTchStatus s i)
  else if base = Reg.EDG_TCH_CYCLE then some ((s.tch i).cycle % 2 ^ 32)
  else if base = Reg.EDG_TCH_NOISE then some (viewTchNoise s i)
  else if base = Reg.EDG_TCH_OPEN then some (viewTchBits (s.tch i).open_ j)
  else if base = Reg.EDG_TCH_SHORT then some (viewTchBits (s.tch i).short j)
  else none

/-- Offset of the register as it is stored: event ring registers of a window beyond 0 are held apart (R285). -/
def storeOff (w off : Nat) : Nat := w * 0x1000000 + off

/-- The 32 bits of a register before access codes and privilege. (DEDUCED: log entry 10.) -/
def rawValue (s : State) (w off : Nat) (d : RegDef) (i j : Nat) : Nat :=
  let v :=
    if off < 0x400000 then viewSys s w d.base i j
    else if off < 0x800000 then viewStr s d.base i
    else if off < 0xC00000 then viewCmp s d.base i
    else viewFab s d.base i j
  v.getD (s.reg (storeOff w off))

/-- The bits of a field. -/
def Fld.mask (f : Fld) : Nat := (2 ^ (f.hi + 1 - f.lo) - 1) * 2 ^ f.lo

/-- A field served only to privileged accessors (R320): one marked PV-, and in bank 0 of the ring registers each one marked RW or W1
(08_host_rings.md, Registers). -/
def pvField (d : RegDef) (i : Nat) (f : Fld) : Bool :=
  f.pv || (decide (Reg.HST_SQ_BASE_LO ≤ d.base) && decide (d.base < Reg.HST_EVQ_MASK) && i == 0 && (f.acc == .rw || f.acc == .w1))

/-- The bits that a read of register i by this accessor sees: reserved and WO fields read zero, PV- fields too without privilege
(R319, R320). -/
def readMask (d : RegDef) (i : Nat) (priv : Bool) : Nat :=
  d.flds.foldl (fun m f => if f.acc = .wo ∨ (pvField d i f ∧ !priv) then m else m ||| f.mask) 0

/-- The unit that an access to a register needs (R388). (DEDUCED: log entry 10.) -/
def unitFor (s : State) (d : RegDef) (i : Nat) : Option PowerUnit :=
  if d.base / 0x100 = Reg.STR_DEC_ENG_STATUS / 0x100 then some (.de (Fin.ofNat 8 i))
  else if d.base / 0x10000 = 0x74 then some (.cw (Fin.ofNat 4 i))
  else if d.base = Reg.STR_ENC_LOAD then some (.ee (Fin.ofNat 2 i))
  else if d.base / 0x10000 = 0x78 then (if (s.enc i).open_ then some (.ee (Fin.ofNat 2 (s.enc i).engine)) else none)
  else if d.base / 0x10000 = 0x81 then some (.out (Fin.ofNat 8 i))
  else if d.base / 0x10000 = 0xA1 ∨ d.base / 0x10000 = 0xA2 then some (.out (Fin.ofNat 8 i))
  else if d.base / 0x10000 = 0xC0 ∨ d.base = Reg.FAB_LANE_BOUND ∨ d.base = Reg.FAB_LANE_CTRL ∨ d.base = Reg.FAB_LANE_STATUS
      ∨ d.base = Reg.FAB_LANE_RUNS then some (.link (Fin.ofNat 11 i))
  else if d.base / 0x1000 = 0xE40 then some (.touch (Fin.ofNat 2 i))
  else none

/-- An access ungates the unit that it needs. -/
def touchUnit (s : State) (d : RegDef) (i : Nat) : State :=
  match unitFor s d i with
  | some u => doUnitWake s u
  | none => s

/-! ## Reads (R318 to R321) -/

/-- How an access was answered: 0 served, 1 denied by the MPU, 2 refused by the register rules. -/
abbrev Ans := Nat

/-- One 32-bit read of the fabric, its size and alignment already checked: value, state, answer. -/
def readWord (s : State) (a : Acc) (w off : Nat) : Nat × State × Ans :=
  if !(admitted a) then (0, s, 0)
  else if !(mpuOk s (Acc.mid a) (regSpace + off) 4) then (0, s.mpuDeny (Acc.mid a) (regSpace + off) 4 false, 1)
  else
    match findReg off with
    | none => (0, s, 0)
    | some (d, i, j) =>
      let s := touchUnit s d i
      if d.base = Reg.MBX_SEL then ((s.mbx (bankOf a) i).sel.toNat, s, 0)
      else if d.base = Reg.MBX_STAT then
        let r := s.mbx (bankOf a) i
        (b2n r.valid * 2 ^ 31 + r.err, s, 0)
      else if d.base = Reg.MBX_DATA then
        let r := s.mbx (bankOf a) i
        (if r.valid then fieldAt r.data (4 * j) 4 else 0, s, 0)
      else
        let v := rawValue s w off d i j &&& readMask d i (privileged s a)
        (v, if d.base = Reg.STR_DEC_ENG_LOAD then { s with free := s.free + 1 } else s, 0)

/-- An access that the fabric serves: aligned, of 4 or 8 bytes, with every byte enabled (R318). -/
def sizeOk (off size : Nat) (full : Bool) : Bool := full && (size == 4 || size == 8) && decide (off % size = 0)

/-- A register read (R318): an aligned 64-bit read is two 32-bit reads, the lower address first. (DEDUCED: log entry 13.) -/
def regRead (s : State) (a : Acc) (w off size : Nat) (full : Bool) : Nat × State × Ans :=
  if !(s.pdOn 2) then (0, s, 0)
  else if !(sizeOk off size full) then (0, s.raf a .size false off size, 2)
  else if size = 4 then readWord s a w off
  else
    let (x, s, r) := readWord s a w off
    let (y, s, t) := readWord s a w (off + 4)
    (x + y * 2 ^ 32, s, max r t)

/-! ## Rules of the fields written (R322, R323, R327) -/

/-- The bits of register i that this accessor can write (R319, R320). -/
def writeMask (d : RegDef) (i : Nat) (priv : Bool) : Nat :=
  d.flds.foldl (fun m f => if f.acc = .ro ∨ f.acc = .rs ∨ (pvField d i f ∧ !priv) then m else m ||| f.mask) 0

/-- Bits of a field of a value. -/
def Fld.of (f : Fld) (v : Nat) : Nat := bits v f.hi f.lo

/-- A write changes a locked W1 field (R322). -/
def writeOnceBroken (d : RegDef) (i old new : Nat) (priv : Bool) : Bool :=
  d.flds.any (fun f => f.acc == .w1 && (!(pvField d i f) || priv) && decide (f.of old ≠ f.reset % 2 ^ (f.hi + 1 - f.lo)) && decide (f.of new ≠ f.of old))

/-- Some ring of either function is enabled. -/
def anyRing (s : State) : Bool :=
  [0, 1].any (fun f => bit (s.reg (evqOff 0 f Reg.HST_EVQ_CTRL)) 31
    || (List.range 64).any (fun q => bit (s.sqCtrl f q) 31 || bit (s.cqCtrl f q) 31))

/-- The pages of two regions intersect. -/
def regionsMeet (a b : MpuRegion) : Bool := decide (a.base ≤ b.lim) && decide (b.base ≤ a.lim)

/-- A load of region r is refused (R335, R337). -/
def mpuLoadBad (s : State) (r v : Nat) : Bool :=
  let g := shadowRegion s r (bit v 1) (bit v 2)
  (g.en && (decide (g.lim < g.base)
    || (List.range 64).any (fun k => decide (k ≠ r) && (s.region k).en && regionsMeet g (s.region k))))
  || (g.lock && decide (s.otp.lifecycle = 1) && bit g.mask.toNat 63)

/-- A ring's LOG2_SIZE lies in 4 to 12 (R267). -/
def logOk (n : Nat) : Bool := decide (4 ≤ n) && decide (n ≤ 12)

/-- EDG_TCH_SCAN and the four frequencies of port t, with one of them replaced. -/
def tchFreqs (s : State) (t j v : Nat) : List Nat :=
  (List.range 4).map (fun k => if k = j then v else s.reg (tchOff Reg.EDG_TCH_FREQ t + 4 * k))

/-- Written to a field of a register that is stopped-only, changing it while the unit runs (R323): the register at base, its instance,
the old and new values. -/
def stoppedBroken (s : State) (w base i j old new : Nat) : Bool :=
  let changed := fun hi lo => decide (bits old hi lo ≠ bits new hi lo)
  if base = Reg.HST_SQ_BASE_LO ∨ base = Reg.HST_SQ_BASE_HI then bit (s.sqCtrl i j) 31 && changed 31 0
  else if base = Reg.HST_CQ_BASE_LO ∨ base = Reg.HST_CQ_BASE_HI then bit (s.cqCtrl i j) 31 && changed 31 0
  else if base = Reg.HST_EVQ_BASE_LO ∨ base = Reg.HST_EVQ_BASE_HI then bit (s.reg (evqOff w i Reg.HST_EVQ_CTRL)) 31 && changed 31 0
  else if base = Reg.HST_SQ_CTRL then bit old 31 && changed 19 16
  else if base = Reg.HST_CQ_CTRL ∨ base = Reg.HST_EVQ_CTRL then bit old 31 && changed 27 24
  else if base = Reg.SYS_APERTURE_HI then anyRing s && changed 24 0
  else if base = Reg.FAB_LINK_CTRL then bit old 0 && changed 1 1
  else if base = Reg.EDG_TCH_SCAN ∨ base = Reg.EDG_TCH_FREQ then bit (s.tchReg Reg.EDG_TCH_CTRL i) 0 && changed 31 0
  else false

/-- The value written is one that a field's rule forbids: SYS, HST and MEM registers. (DEDUCED: log entry 40.) -/
def valueBadA (base old new : Nat) : Bool :=
  if base = Reg.HST_SQ_BASE_LO ∨ base = Reg.HST_CQ_BASE_LO ∨ base = Reg.HST_EVQ_BASE_LO then decide (new % 4096 ≠ 0)
  else if base = Reg.HST_SQ_CTRL then !(bit old 31) && bit new 31 && !(logOk (bits new 19 16))
  else if base = Reg.HST_CQ_CTRL ∨ base = Reg.HST_EVQ_CTRL then !(bit old 31) && bit new 31 && !(logOk (bits new 27 24))
  else if base = Reg.MEM_WQ_MARK then decide (bits new 13 8 ≤ bits new 5 0)
  else if base = Reg.CMP_SLATE_BASE then decide (bits new 19 0 ≠ 0) && !(bit new 31)
  else false

/-- The value written is one that a field's rule forbids: OUT, FAB and EDG registers. (DEDUCED: log entry 40.) -/
def valueBadB (s : State) (a : Acc) (base i j new : Nat) : Bool :=
  let out := fun lo hi x => decide (x < lo) || decide (hi < x)
  let service := decide (s.sys.mode = .service)
  if base = Reg.OUT_DP_TRIM_OVR then bit new 31 && !service
  else if base = Reg.FAB_DOMAIN then !(a == .mgmtPriv || a == .mgmt)
  else if base = Reg.FAB_GW_WIN then decide (i ≠ 0) && decide (bits new 29 28 = 2) && out 1 30 (bits new 20 16)
  else if base = Reg.FAB_LANE_CFG then out 2 20 (bits new 4 0)
  else if base = Reg.FAB_LANE_BOUND then decide (bits new 12 8 < bits new 4 0)
  else if base = Reg.FAB_LANE_CTRL then bit new 8 && !service
  else if base = Reg.EDG_THERM_CFG then out 70 105 (bits new 23 16) || out 4 16 (bits new 4 0)
  else if base = Reg.EDG_AON_CLEAR then decide (bits new 31 16 ≠ 0xA0C1)
  else if base = Reg.EDG_TCH_CTRL then bit new 1 && !service
  else if base = Reg.EDG_TCH_SCAN then
    out 2 12 (bits new 31 28) || out 16 256 (bits new 24 16) || out 16 256 (bits new 8 0)
      || !(tchTimingOk new (tchFreqs s i 4 0))
  else if base = Reg.EDG_TCH_FREQ then
    (decide (j = 0) && !(bit new 31)) || !(tchTimingOk (s.tchReg Reg.EDG_TCH_SCAN i) (tchFreqs s i j new))
  else if base = Reg.EDG_TCH_TIME then out 1 600 (bits new 25 16) || out 5 600 (bits new 9 0)
  else if base = Reg.EDG_TCH_PITCH then out 1000 20000 (bits new 31 16) || out 1000 20000 (bits new 15 0)
  else false

/-- The first refusal of a write by the rules of its fields, in the order of R321. -/
def fieldFault (s : State) (a : Acc) (w : Nat) (d : RegDef) (i j old new : Nat) : Option RafCause :=
  let base := d.base
  let mpu := decide (Reg.SYS_MPU_BASE ≤ base) && decide (base ≤ Reg.SYS_MPU_CTRL)
  if mpu ∧ (s.region i).lock then some .locked
  else if base = Reg.FUM_COLOUR ∧ s.policyLock then some .locked
  else if base = Reg.SYS_BOOT_CHUNK then chunkFault s new
  else if writeOnceBroken d i old new (privileged s a) then some .writeOnce
  else if base = Reg.OUT_DP_CTRL ∧ bit new 0 ∧ (s.dp i).edidBusy then some .busy
  else if stoppedBroken s w base i j old new then some .stoppedOnly
  else if valueBadA base old new || valueBadB s a base i j new then some .value
  else if base = Reg.SYS_MPU_CTRL ∧ mpuLoadBad s i new then some .mpuConfig
  else none

/-! ## What an accepted write does -/

/-- Clear a held capture (R325): VALID falls and the record is empty. -/
def releaseCap (s : State) (offs : List Nat) (v : Nat) : State := if bit v 0 then offs.foldl (fun s o => s.setReg o 0) s else s

/-- SYS_MPU_CTRL(r): the shadows, ENABLE and LOCK load as one change (R335); a locked region does not change (R337). -/
def mpuLoad (s : State) (r v : Nat) : State :=
  if (s.sys.mpu.getD r MpuRegion.init).lock then s
  else { s with sys.mpu := s.sys.mpu.set r (shadowRegion s r (bit v 1) (bit v 2)) }

/-- ENABLE of a ring has been set: head, tail and phase begin (R268). -/
def ringStart (s : State) (w base i j : Nat) : State :=
  if base = Reg.HST_SQ_CTRL then s.setSq i j SqRec.init
  else if base = Reg.HST_CQ_CTRL then s.setCq i j CqRec.init
  else { s with host.evq := s.host.evq.set (w * 2 + i) CqRec.init }

/-- SYS_DEBUG_CTRL: DAP_EN acts in PRODUCTION only; a change raises SYS_DEBUG (R339, R341). -/
def debugCtrl (s : State) (v : Nat) : State :=
  let was := bit (s.reg Reg.SYS_DEBUG_CTRL) 0
  if s.otp.lifecycle ≠ 1 ∨ bit v 0 = was then s
  else (s.setReg Reg.SYS_DEBUG_CTRL (v % 2)).raise 0x0113 (leBytes 1 (v % 2) ++ leBytes 1 s.otp.lifecycle)

/-- SYS_LIFECYCLE_ADV: DEVELOPMENT advances to PRODUCTION at the next reset, in SERVICE only (R339). (DEDUCED: log entry 78.) -/
def lifecycleAdv (s : State) (v : Nat) : State :=
  if bits v 31 16 = 0x5052 ∧ bit v 0 ∧ s.sys.mode = .service ∧ s.otp.lifecycle = 0 then { s with otp.advance := true } else s

/-- SYS_RESET: a full reset 10 µs later (R288). (DEDUCED: log entry 78.) -/
def resetWrite (s : State) (v : Nat) : State :=
  if bits v 31 16 = 0xB824 ∧ bit v 0 ∧ s.sys.power.resetDue.isNone then { s with sys.power.resetDue := some (s.clk + 10000) } else s

/-- EDG_AON_CLEAR (R407): a cleared record reads zero except the fields that count since VDD_AON came up. -/
def aonClear (s : State) (v : Nat) : State :=
  let s := if bit v 0 then
      { s with aon.fault := leBytes 12 0 ++ slice s.aon.fault 12 3 ++ leBytes 1 0 } else s
  let s := if bit v 1 then
      { s with aon.freeze := leBytes 12 0 ++ slice s.aon.freeze 12 2 ++ leBytes 2 0, aon.freezeTime := 0 } else s
  if bit v 2 then { s with aon.relq := [] } else s

/-- FAB_LINK_CTRL(l). -/
def linkCtrl (s : State) (l old new : Nat) : State :=
  let s := s.setReg (Reg.FAB_LINK_CTRL + 0x100 * l) (new % 4)
  let s := if bit old 0 = bit new 0 then s else linkSetEnable s l (bit new 0)
  let s := if bit new 2 then linkRetrainNow s l else s
  wakeBusy s

/-- OUT_DP_CTRL(n) (R235, R237). -/
def dpCtrl (s : State) (n v : Nat) : State :=
  let s := if bit v 0 then s.setDp n { s.dp n with edidBusy := true } else s
  if bit v 1 then dpForce s n else s

/-- Run f on every lane of every link. -/
def everyLane (s : State) (f : State → Nat → Nat → State) : State :=
  (List.range 11).foldl (fun s l => [0, 1].foldl (fun s i => f s l i) s) s

/-- The effect of an accepted write on the SYS and HST regions; none where the value is only stored. -/
def effectSys (s : State) (w base i j old new : Nat) : Option State :=
  if base = Reg.SYS_DEBUG_CTRL then some (debugCtrl s new)
  else if base = Reg.SYS_LIFECYCLE_ADV then some (lifecycleAdv s new)
  else if base = Reg.SYS_RESET then some (resetWrite s new)
  else if base = Reg.SYS_BOOT_CHUNK then some (bootChunk s new)
  else if base = Reg.SYS_RAF_RELEASE then some (releaseCap s [Reg.SYS_RAF_CAP0, Reg.SYS_RAF_CAP1] new)
  else if base = Reg.SYS_MPU_CTRL then some (mpuLoad s i new)
  else if base = Reg.SYS_MPU_RELEASE then some (releaseCap s [Reg.SYS_MPU_CAP0, Reg.SYS_MPU_CAP1] new)
  else if (base = Reg.HST_SQ_CTRL ∨ base = Reg.HST_CQ_CTRL ∨ base = Reg.HST_EVQ_CTRL) ∧ bit new 31 ∧ !(bit old 31) then
    let at_ := if base = Reg.HST_EVQ_CTRL then evqOff w i base else ringOff base i j
    some (ringStart (s.setReg at_ new) w base i j)
  else if base = Reg.HST_CQ_CTRL then some (coalNow (s.setReg (ringOff base i j) new) w base i j)
  else if base = Reg.HST_EVQ_CTRL then some (coalNow (s.setReg (evqOff w i base) new) w base i j)
  else none

/-- The effect of an accepted write on the STR, CMP, OUT, FAB and EDG regions; none where the value is only stored. -/
def effectUnit (s : State) (a : Acc) (base i old new : Nat) : Option State :=
  if base = Reg.STR_DEC_FAULT_RELEASE then some (releaseCap s [Reg.STR_DEC_FAULT_CAP0, Reg.STR_DEC_FAULT_CAP1] new)
  else if base = Reg.CMP_FAULT_RELEASE then some (releaseCap s [Reg.CMP_FAULT_CAP0, Reg.CMP_FAULT_CAP1] new)
  else if base = Reg.FUM_SELFTEST_RELEASE then
    some (releaseCap s [Reg.FUM_SELFTEST_CAP0, Reg.FUM_SELFTEST_CAP1, Reg.FUM_SELFTEST_CAP2] new)
  else if base = Reg.FUM_LOCK then some (fumLockSet s new)
  else if base = Reg.OUT_DP_CTRL then some (dpCtrl s i new)
  else if base = Reg.FAB_LINK_CTRL then some (linkCtrl s i old new)
  else if base = Reg.FAB_NODE_ADDR then some (if new = old then s else capsAll (s.setReg Reg.FAB_NODE_ADDR new))
  else if base = Reg.FAB_DOMAIN then some (domainWrite s (a == .mgmtPriv) s.domain new).1
  else if base = Reg.FAB_GW_WIN ∧ i = 0 then some s
  else if base = Reg.FAB_GW_FAIL_RELEASE then some (releaseCap s [Reg.FAB_GW_FAIL_CAP, Reg.FAB_GW_FAIL_ADDR] new)
  else if base = Reg.FAB_LANE_CFG then some (everyLane (s.setReg Reg.FAB_LANE_CFG new) laneLowEye)
  else if base = Reg.FAB_LANE_BOUND then some (laneNewBound (s.setReg (Reg.FAB_LANE_BOUND + 0x10 * i) new) i)
  else if base = Reg.FAB_LANE_CTRL then some (laneCtrl s i new)
  else if base = Reg.EDG_AON_CLEAR then some (aonClear s new)
  else if base = Reg.EDG_PAIR_CTRL then some (pairCtrl s new)
  else if base = Reg.EDG_TCH_CTRL then some (wakeBusy (touchCtrl s i new))
  else none

/-- An accepted write stores new parity (R326). (DEDUCED: log entry 81.) -/
def cureParity (s : State) (off : Nat) : State :=
  if s.sys.parity.contains off then
    let s := { s with sys.parity := s.sys.parity.filter (fun o => !(o == off)) }
    if s.sys.parity.isEmpty then s.untrigger 2 else s
  else s

/-- A register of which nothing but locked W1 fields is writable: it cannot be written (R322, R326). -/
def lockedWhole (d : RegDef) (old : Nat) : Bool :=
  d.flds.any (fun f => f.acc == .w1)
    && d.flds.all (fun f => f.acc == .ro || f.acc == .rs || (f.acc == .w1 && decide (f.of old ≠ f.reset % 2 ^ (f.hi + 1 - f.lo))))

/-- An accepted write of a register (R323). -/
def acceptWrite (s : State) (a : Acc) (w off : Nat) (d : RegDef) (i j old new : Nat) : State :=
  let s := if w = 0 ∧ !(lockedWhole d old) then cureParity s off else s
  let e := if off < 0x400000 then effectSys s w d.base i j old new else effectUnit s a d.base i old new
  match e with
  | some s => s
  | none => if d.flds.all (fun f => f.acc == .wo) then s else s.setReg (storeOff w off) new

/-! ## Writes (R318 to R324) -/

/-- One 32-bit write of the fabric, its size and alignment already checked: state, answer. -/
def writeWord (s : State) (a : Acc) (w off v : Nat) : State × Ans :=
  if !(admitted a) then (s, 0)
  else if !(mpuOk s (Acc.mid a) (regSpace + off) 4) then (s.mpuDeny (Acc.mid a) (regSpace + off) 4 true, 1)
  else
    match findReg off with
    | none => (s, 0)
    | some (d, i, j) =>
      let s := touchUnit s d i
      if d.base = Reg.MBX_SEL then (selectItem s (bankOf a) i (v % 2 ^ 32), 0)
      else
        let m := writeMask d i (privileged s a)
        if m = 0 then (s, 0)
        else
          let old := if d.base = Reg.SYS_MPU_CTRL then viewMpu s i - viewMpu s i % 2 else s.reg (storeOff w off)
          let new := (old &&& (0xFFFFFFFF - m)) ||| (v &&& m)
          match fieldFault s a w d i j old new with
          | some c => (s.raf a c true off 4, 2)
          | none => (acceptWrite s a w off d i j old new, 0)

/-- Offsets of the bootstrap window (R264). -/
def inBootWindow (off : Nat) : Bool := decide (0x100000 ≤ off) && decide (off < 0x200000)

/-- The MSI-X vectors whose pending bit a table write lets go (R276). -/
def msixRelease (s : State) (pf v : Nat) : State :=
  if s.host.pba.contains (pf * 64 + v) ∧ !(bit (s.host.msix.getD (pf * 256 + v * 4 + 3) 1).toNat 0) then
    { s with host.pba := s.host.pba.filter (fun k => !(k == pf * 64 + v)) }.emit (.msix pf v)
  else s

/-- A write of one dword of a function's MSI-X table (R260). -/
def msixWrite (s : State) (pf k v : Nat) : State :=
  msixRelease { s with host.msix := s.host.msix.set (pf * 256 + k) (BitVec.ofNat 32 v) } pf (k / 4)

/-- A register write (R318): an aligned 64-bit write is two 32-bit writes, the lower address first; the bootstrap window has its own
rule (R264). (DEDUCED: log entry 13.) -/
def regWrite (s : State) (a : Acc) (w off size : Nat) (full : Bool) (v : Nat) : State × Ans :=
  if !(s.pdOn 2) then (s, 0)
  else if inBootWindow off ∧ full then (bootWrite s a (off - 0x100000) size (BitVec.ofNat 64 v), 0)
  else if !(sizeOk off size full) then (s.raf a .size true off size, 2)
  else if size = 4 then writeWord s a w off v
  else
    let (s, r) := writeWord s a w off (v % 2 ^ 32)
    let (s, t) := writeWord s a w (off + 4) (v / 2 ^ 32)
    (s, max r t)

/-- A 32-bit write by an accessor to a register of this device. -/
def regWrite32 (s : State) (a : Acc) (off : Nat) (v : U32) : State := (regWrite s a 0 off 4 true v.toNat).1

/-- The control register of a ring (R267). -/
def ringCtrlOff (f : Nat) : RingSel → Nat
  | .sq q => ringOff Reg.HST_SQ_CTRL f q.val
  | .cq q => ringOff Reg.HST_CQ_CTRL f q.val
  | .evq => evqOff 0 f Reg.HST_EVQ_CTRL

end Machine
end Sys2Proof
end

