-- ==== Sys2Proof/Machine/Mailbox.lean ====
section
/-! DEFINITION. The mailboxes (R328 to R331) and the items of every region. -/

namespace Sys2Proof
namespace Machine

/-- Whether a bank is privileged (Table: mailbox banks). -/
def bankPriv (s : State) (bank : Nat) : Bool :=
  bank == 0 || bank == 1 || bank == 2 || bank == 4 || (bank == 6 && dapPriv s)

/-- Items of region SYS (R331). -/
def sysItem (s : State) (item idx : Nat) : Option (List Byte) :=
  match item with
  | 0x00 => if idx = 0 then
      some (leBytes 8 s.otp.uid.toNat ++ leBytes 2 s.addr ++ leBytes 1 s.otp.lifecycle ++ leBytes 1 s.otp.grade.toNat ++ leBytes 4 0)
    else none
  | 0x10 => if idx < 64 then
      let g := s.region idx
      some (leBytes 4 (g.base + 2 ^ 30 * b2n g.lock + 2 ^ 31 * b2n g.en) ++ leBytes 4 g.lim ++ leBytes 8 g.mask.toNat)
    else none
  | _ => none

/-- Items of region MEM (R308, R317, R409). -/
def memItem (s : State) (item idx : Nat) : Option (List Byte) :=
  match item with
  | 0x00 => if idx = 0 then some ((s.dram.frozen.map (·.summary)).getD []) else none
  | 0x01 => if idx < 8 then some ((s.dram.frozen.map (fun f => f.entries.getD idx [])).getD []) else none
  | 0x02 =>
    if idx = 0 then some s.aon.freeze
    else if idx = 1 then some (leBytes 8 (if fieldAt s.aon.freeze 14 1 = 1 then s.aon.freezeTime.toNat else 0))
    else none
  | 0x03 => if idx < 24 then some (leBytes 8 (s.chan idx).ceTotal ++ leBytes 8 (s.chan idx).acts) else none
  | 0x10 => if idx = 0 then
      let t := s.dram.test
      some (leBytes 4 t.passes ++ leBytes 4 t.bad ++ leBytes 8 t.first)
    else none
  | _ => none

/-- Items of region CMP: Fumarole's (R45). -/
def fumItem (s : State) (item idx : Nat) : Option (List Byte) :=
  match item with
  | 0x00 => if idx < 4096 then some (tileEntry s idx) else none
  | 0x01 => if idx < 1024 then some (sourceEntry s idx) else none
  | 0x02 => if idx < 128 then some (checkEntry s idx) else none
  | _ => none

/-- Items of region OUT (R256, Table: lane quality figure). -/
def outItem (s : State) (item idx : Nat) : Option (List Byte) :=
  match item with
  | 0x00 => if idx < 128 then some (checkItem s idx) else none
  | 0x01 => if idx < 8 then some (tgItem s idx) else none
  | 0x02 => if idx < 8 then some (tgLockItem s idx) else none
  | 0x03 => if idx < 16 then some (dpiItem s (idx / 4) (idx % 4)) else none
  | 0x04 => if idx < 32 then some (dpoItem s (idx / 4) (idx % 4)) else none
  | 0x10 => if idx < 256 then some (edidItem s (idx / 32) (idx % 32)) else none
  | _ => none

/-- Items of region FAB (R59, R110, R138, Table: fabric time mailbox items). (DEDUCED: log entry 24; DESIGN CHOICE: log entry 127.) -/
def fabItem (s : State) (item idx : Nat) : Option (List Byte) :=
  match item with
  | 0x00 => if idx = 0 then some (timeNow s) else none
  | 0x01 => if idx < 11 then
      let t := s.tlink idx
      some (leBytes 4 (ofInt 32 t.d) ++ leBytes 4 (ofInt 32 t.theta) ++ leBytes 2 t.seq ++ leBytes 1 t.hops ++ leBytes 1 t.state
        ++ leBytes 2 t.root ++ leBytes 2 0)
    else none
  | 0x02 => if idx < 11 then some (leBytes 8 (s.link idx).rxPkts ++ leBytes 8 (s.link idx).txPkts) else none
  | 0x03 => if idx < 11 then
      let r := if s.linkUp idx then s.link idx else LinkRec.init
      some (leBytes 8 r.peerUid.toNat ++ leBytes 2 r.peerAddr ++ leBytes 1 r.peerLink ++ leBytes 1 r.peerFlags ++ leBytes 2 r.peerDom
        ++ leBytes 2 0)
    else none
  | 0x04 => if idx < 22 then some (laneItem s (idx / 2) (idx % 2)) else none
  | _ => none

/-- Items of region EDG (R364, R386, R416). -/
def edgItem (s : State) (item idx : Nat) : Option (List Byte) :=
  match item with
  | 0x00 => if idx = 0 then some s.aon.fault else none
  | 0x40 => if idx = 0 then some s.aon.relq else none
  | _ => touchItem s item idx

/-- The bytes that an item code names; none where it names no item (R329, R330). (DEDUCED: log entry 80.) -/
def itemOf (s : State) (v : Nat) : Option (List Byte) :=
  let item := bits v 23 16
  let idx := bits v 15 0
  match bits v 31 24 with
  | 1 => sysItem s item idx
  | 3 => memItem s item idx
  | 4 => if item = 0 ∧ idx < 256 then some (ctxItem s idx) else none
  | 5 => fumItem s item idx
  | 6 => outItem s item idx
  | 7 => fabItem s item idx
  | 8 => edgItem s item idx
  | _ => none

/-- MAILBOX_LATCH (R329, R330): the 16 bytes are latched and VALID becomes 1; nothing changes where no selection waits.
(DEDUCED: log entry 80.) -/
def doLatch (s : State) (bank m : Nat) : State :=
  match s.sys.mbx.get? (mbxKey bank m) with
  | none => s
  | some r =>
    if r.valid ∨ !(s.pdOn 2) then s
    else
      let v := r.sel.toNat
      match itemOf s v with
      | none => s.setMbx bank m { r with valid := true, err := 1, data := [] }
      | some b =>
        if bits v 31 16 = 0x0110 ∧ !(bankPriv s bank) then s.setMbx bank m { r with valid := true, err := 2, data := [] }
        else s.setMbx bank m { r with valid := true, err := 0, data := if v = 0x07000000 then r.data else slice b 0 16 }

end Machine
end Sys2Proof
end

