-- ==== Sys2Proof/Machine/Mgmt.lean ====
section
/-! DEFINITION. Host domains and the gateway (R121 to R132): window accesses, the MGMT responder and requester, retries, and the event
records of devices behind a gateway. -/

namespace Sys2Proof
namespace Machine

/-! ## Doorbell pages (R260, R261) -/

/-- A write of a doorbell page of this device: function, offset in the page, whether it is an aligned 32-bit write. -/
def doorbellWrite (s : State) (f off v : Nat) (aligned : Bool) : State :=
  if off ≥ 0x204 then s
  else if !aligned then (if s.pdOn 2 then s.bump (Reg.HST_DB_FAULT_CNT + 0x10000 * f) else s)
  else if off < 0x100 then sqDoorbell s f (off / 4) v true
  else if off < 0x200 then cqDoorbell s f ((off - 0x100) / 4) v true
  else evqDoorbell s 0 f v true

/-! ## Requests of a window (R126, R127) -/

/-- The setting of window w: its MODE with 3 read as 0, LEN and ADDR. -/
def winMode (s : State) (w : Nat) : Nat :=
  let m := bits (s.reg (Reg.FAB_GW_WIN + 0x20 * w)) 29 28
  if m = 3 then 0 else m
def winLen (s : State) (w : Nat) : Nat := bits (s.reg (Reg.FAB_GW_WIN + 0x20 * w)) 20 16
def winAddr (s : State) (w : Nat) : Nat := bits (s.reg (Reg.FAB_GW_WIN + 0x20 * w)) 9 0

/-- Route entry k of window w. (DEDUCED: log entry 41.) -/
def winRoute (s : State) (w k : Nat) : Nat :=
  bits (s.reg (Reg.FAB_GW_ROUTE + 0x20 * w + 4 * (k / 8))) (4 * (k % 8) + 3) (4 * (k % 8))

/-- The route prefix of a directed request (R121). -/
def routePrefix (s : State) (w : Nat) : List Byte :=
  let n := winLen s w
  leBytes 1 n ++ leBytes 1 0 ++ (List.range 30).map (fun k => BitVec.ofNat 8 (if k < n then winRoute s w k else 0))

/-- The table key of the requester whose responder a route names (R121, R128), above those of flows and addresses.
(DEDUCED: log entry 41.) -/
def routeKey (pre : List Byte) : Nat := 2048 + leNat pre

/-- The requester of the directed requests of window w that wait for a response; where none does, of those it would send now.
(DEDUCED: log entry 41.) -/
def directedReq (s : State) (w : Nat) : Nat :=
  match s.fab.reqs.find? (fun e => decide (2048 ≤ e.1) && (e.2.open_.head?).any (fun r => r.win == w)) with
  | some e => e.1
  | none => routeKey (routePrefix s w)

/-- Send one window request (R127, R128): type, offset, length, data. (DEDUCED: log entry 41.) -/
def windowRequest (s : State) (f w type off len : Nat) (data : List Byte) : State :=
  let directed := decide (winMode s w = 2)
  let body := mgmtBody type (b2n (f == 0)) 0 len off data
  let pay := if directed then routePrefix s w ++ body else body
  let p := mkPacket (winAddr s w) s.addr clsMGMT 0 0 (2 * b2n directed) s.domain pay
  mgmtIssue State.raise s (if directed then routeKey (routePrefix s w) else mgmtKey 0 (winAddr s w))
    { seq := 0, pkt := p, tries := 0, sent := s.clk, win := w, isRead := type == 0, cmd := none, reader := none }

/-- Offsets of the event ring registers, which the gateway holds for every window (R285). -/
def isEvqReg (off : Nat) : Bool :=
  [Reg.HST_EVQ_BASE_LO, Reg.HST_EVQ_BASE_LO + 0x10000].any (fun b => decide (b ≤ off) && decide (off < b + 0x18))

/-- The accessor of function f. -/
def accOf (f : Nat) : Acc := if f = 0 then .pf0 else .pf1

/-- Dwords of the MSI-X table and the pending bits, as function f reads them (R260). -/
def msixRead (s : State) (f off : Nat) : Nat :=
  if off < 0x3F0400 then
    let k := (off - 0x3F0000) / 4
    (s.host.msix.getD (f * 256 + k) (if k % 4 = 3 then 1 else 0)).toNat
  else if 0x3F8000 ≤ off ∧ off < 0x3F8008 then
    (List.range 32).foldl (fun a b => if s.host.pba.contains (f * 64 + (off - 0x3F8000) * 8 + b) then setBit a b true else a) 0
  else 0

/-- The MSI-X range of window 0 (R260). -/
def inMsix (off : Nat) : Bool := decide (0x3F0000 ≤ off) && decide (off < 0x3F8008)

/-- A function's access to one dword of its MSI-X range, as the MPU decides on it (R321, R334). -/
def msixAllowed (s : State) (f off : Nat) (write : Bool) : State × Bool :=
  let mid := Acc.mid (accOf f)
  if mpuOk s mid (regSpace + off) 4 then (s, true) else (s.mpuDeny mid (regSpace + off) 4 write, false)

/-- A read of one dword of the MSI-X range by a function. -/
def msixLoad (s : State) (f off : Nat) : Nat × State :=
  let (s, ok) := msixAllowed s f off false
  (if ok then msixRead s f off else 0, s)

/-- A write of one dword of the MSI-X range by a function; the pending bits take none. -/
def msixStore (s : State) (f off v : Nat) : State :=
  let (s, ok) := msixAllowed s f off true
  if !ok ∨ 0x3F0400 ≤ off then s else msixWrite s f ((off - 0x3F0000) / 4) v

/-- A read of this device's own window by a function. -/
def localRead (s : State) (f off size : Nat) (full : Bool) : Nat × State :=
  if inMsix off ∧ sizeOk off size full then
    if !(s.pdOn 2) then (0, s)
    else
      let (x, s) := msixLoad s f off
      if size = 8 then
        let (y, s) := msixLoad s f (off + 4)
        (x + y * 2 ^ 32, s)
      else (x, s)
  else
    let (v, s, _) := regRead s (accOf f) 0 off size full
    (v, s)

/-- A write of this device's own window by a function. -/
def localWrite (s : State) (f off size : Nat) (full : Bool) (v : Nat) : State :=
  if inMsix off ∧ sizeOk off size full then
    if !(s.pdOn 2) then s
    else
      let s := msixStore s f off (v % 2 ^ 32)
      if size = 8 then msixStore s f (off + 4) (v / 2 ^ 32) else s
  else (regWrite s (accOf f) 0 off size full v).1

/-- The range of the register space (R332). -/
def inRegSpace (addr : Nat) : Bool := decide (regSpace ≤ addr) && decide (addr < regSpace + 0x1000000)

/-- The accessor that a master is in the register space (R332). -/
def accOfMid (mid : Nat) : Acc :=
  if mid = 0 then .nm0 else if mid = 1 then .nm1 else if mid = 0x30 then .pf0 else if mid = 0x31 then .pf1
  else if mid = 0x39 then .mgmt else if mid = 0x3F then .dap else .other (BitVec.ofNat 6 mid)

/-- An access of a master to the register space by its internal address (R332): size, accessor, MPU and fields in the order of R321. -/
def regRequest (s : State) (mid addr len : Nat) (write : Bool) (data : List Byte) : State :=
  let off := addr - regSpace
  let func := mid == 0x30 || mid == 0x31
  if write then
    let v := leNat (slice data 0 len)
    if func then localWrite s (mid - 0x30) off len true v else (regWrite s (accOfMid mid) 0 off len true v).1
  else if func then
    let (v, s) := localRead s (mid - 0x30) off len true
    s.emit (.readData mid (leBytes len v))
  else
    let (v, s, _) := regRead s (accOfMid mid) 0 off len true
    s.emit (.readData mid (leBytes len v))

/-- MEMORY_REQUEST (R295, R332): to the register space, or to memory. -/
def doMasterRequest (s : State) (mid addr len : Nat) (write : Bool) (data : List Byte) : State :=
  if inRegSpace addr ∧ !(mid == 0x3E && s.dram.test.on) then regRequest s mid addr len write data
  else doMemRequest s mid addr len write data

/-- A PCIe read completes (R129). -/
def pcieAnswer (s : State) (f addr v : Nat) : State := s.emit (.pcieData f addr (BitVec.ofNat 64 v))

/-- An access to BAR0 window w at an offset (R126, R260, R285). -/
def windowAccess (s : State) (f w off addr : Nat) (write : Bool) (size : Nat) (full : Bool) (v : Nat) : State :=
  if w = 0 then
    if write then localWrite s f off size full v
    else
      let (x, s) := localRead s f off size full
      pcieAnswer s f addr x
  else if winMode s w = 0 ∨ !(s.pdOn 2) then (if write then s else pcieAnswer s f addr 0)
  else if isEvqReg off then
    if write then (regWrite s (accOf f) w off size full v).1
    else
      let (x, s, _) := regRead s (accOf f) w off size full
      pcieAnswer s f addr x
  else if !(sizeOk off size full) then
    let s := s.raf (accOf f) .size write off size
    if write then s else pcieAnswer s f addr 0
  else if write then windowRequest s f w 1 off size (leBytes size v)
  else windowRequest s f w 0 off size []

/-- An access to BAR2 doorbell page w (R126, R260, R261, R285). -/
def pageAccess (s : State) (f w off addr : Nat) (write : Bool) (size : Nat) (full : Bool) (v : Nat) : State :=
  let aligned := full && size == 4 && decide (off % 4 = 0)
  if !write then pcieAnswer s f addr 0
  else if w = 0 then doorbellWrite s f off v aligned
  else if s.sys.mode = .dormant then (if off < 0x204 then holdDoorbell s w f off v aligned else s)
  else if winMode s w = 0 ∨ off ≥ 0x204 ∨ !(s.pdOn 2) then s
  else if !aligned then s.bump (Reg.HST_DB_FAULT_CNT + 0x10000 * f)
  else if off = 0x200 then evqDoorbell s w f v true
  else windowRequest s f w 2 off 4 (leBytes 4 v)

/-- WINDOW_ACCESS: a PCIe access to a gateway. (PRESUMED: log entry 135.) -/
def doWindowAccess (s : State) (f : Nat) (doorbell : Bool) (addr : Nat) (write : Bool) (size : Nat) (full : Bool) (v : Nat) : State :=
  if !s.isGateway ∨ (s.pcieFn f).d3hot then s
  else if doorbell then
    if addr < 0x40000 then pageAccess s f (addr / 0x1000) (addr % 0x1000) addr write size full v else s
  else if addr < 0x40000000 then windowAccess s f (addr / 0x1000000) (addr % 0x1000000) addr write size full v
  else s

/-! ## The responder (R122, R125, R127, R128) -/

/-- The response to a request: directed back along its path, or addressed to its source (R122, R128). -/
def mgmtResponse (s : State) (link : Option Nat) (p : Packet) (status : Status) (data : List Byte) : Packet :=
  let body := mgmtBody 15 0 status.code data.length (fieldAt p.data (p.bodyOff + 8) 8) data
  if p.directed then
    let n := fieldAt p.data 0 1
    let entries := (List.range 30).map (fun k =>
      if k = 0 then BitVec.ofNat 8 (link.getD 0xF) else if k < n then p.data.getD (2 + n - k) 0 else 0)
    mkPacket p.src s.addr clsMGMT p.flow p.seq 2 s.domain (leBytes 1 n ++ leBytes 1 0 ++ entries ++ body)
  else mkPacket p.src s.addr clsMGMT p.flow p.seq 0 s.domain body

/-- A write of FAB_DOMAIN by an MGMT request (R125), after the MPU (R334); one that takes effect cures a bad parity (R326).
(DEDUCED: log entry 43.) -/
def domainRequest (s : State) (priv : Bool) (dom v : Nat) : State × Status :=
  if mpuOk s 0x39 (regSpace + Reg.FAB_DOMAIN) 4 then
    let (s, st) := domainWrite s priv dom v
    (if st = .done then cureParity s Reg.FAB_DOMAIN else s, st)
  else (s.mpuDeny 0x39 (regSpace + Reg.FAB_DOMAIN) 4 true, .denied)

/-- A register write by an MGMT request, 32 bits: FAB_DOMAIN takes the request's domain (R125). (DEDUCED: log entry 43.) -/
def mgmtWriteWord (s : State) (priv : Bool) (dom off v : Nat) : State × Status :=
  if off = Reg.FAB_DOMAIN then domainRequest s priv dom v
  else
    let (s, r) := regWrite s (if priv then .mgmtPriv else .mgmt) 0 off 4 true v
    (s, if r = 1 then .denied else .done)

/-- Execute a request that passed the SEQ rules: state, status and answer data.
(DEDUCED: log entry 42; DEDUCED: log entry 43; DESIGN CHOICE: log entry 44.) -/
def mgmtExecute (s : State) (p : Packet) : State × Status × List Byte :=
  let o := p.bodyOff
  let type := fieldAt p.data o 1
  let priv := bit (fieldAt p.data (o + 1) 1) 0
  let acc : Acc := if priv then .mgmtPriv else .mgmt
  let len := fieldAt p.data (o + 4) 4
  let addr := fieldAt p.data (o + 8) 8
  let data := p.data.drop (o + 16)
  let claimed := s.isGateway || s.fab.claimed
  let claimWrite := decide (type = 1) && decide (addr = Reg.FAB_DOMAIN) && decide (len = 4)
  if !claimed ∧ !(decide (type = 0) || claimWrite) then (s, .denied, [])
  else if claimed ∧ p.dom ≠ s.domain then (domainDenied s p.dom type, .denied, [])
  else
    match type with
    | 0 =>
      if addr ≥ 0x1000000 then (s, .outOfBounds, [])
      else
        let (v, s, r) := regRead s acc 0 addr len true
        (s, if r = 1 then .denied else .done, leBytes (if len = 8 then 8 else 4) v)
    | 1 =>
      if addr ≥ 0x1000000 then (s, .outOfBounds, [])
      else if len = 4 ∧ addr % 4 = 0 ∧ !(inBootWindow addr) then
        let (s, st) := mgmtWriteWord s priv p.dom addr (fieldAt data 0 4)
        (s, st, [])
      else if len = 8 ∧ addr % 8 = 0 ∧ !(inBootWindow addr) then
        let (s, a) := mgmtWriteWord s priv p.dom addr (fieldAt data 0 4)
        let (s, b) := mgmtWriteWord s priv p.dom (addr + 4) (fieldAt data 4 4)
        (s, if a = .done then b else a, [])
      else ((regWrite s acc 0 addr len true (fieldAt data 0 (min len 8))).1, .done, [])
    | 2 =>
      if addr ≥ 0x1000 then (s, .outOfBounds, [])
      else (doorbellWrite s (b2n (!priv)) addr (fieldAt data 0 4) (decide (len = 4) && decide (addr % 4 = 0)), .done, [])
    | 8 =>
      if s.isGateway then
        let (b, s) := freeBytes (min len 256) s
        (s.emit (.hostRead (b2n (!priv)) addr len), .done, b)
      else (s, .denied, [])
    | _ =>
      if s.isGateway then
        if len = 0 then (msixSignal s (b2n (!priv)) (addr % 64), .done, [])
        else (s.emit (.hostWrite (b2n (!priv)) addr (data.take len)), .done, [])
      else (s, .denied, [])

/-- Types that a request can have (R127). -/
def requestType (t : Nat) : Bool := t == 0 || t == 1 || t == 2 || t == 8 || t == 9

/-- MGMT_REQUEST (R128): executed only when its SEQ is the next expected or it carries RESYNC; a repeat is answered from the copy; a
later SEQ is discarded. (DEDUCED: log entry 42.) -/
def doMgmtRequest (s : State) (link : Option Nat) (p : Packet) : State :=
  let s : State := takeLocal s (fun q => q.cls == clsMGMT && q == p)
  let fl := fieldAt p.data (p.bodyOff + 1) 1
  let key := mgmtKey p.flow p.src
  let r : MResponder := s.fab.resps.getD key { next := 0, copies := [] }
  let resync := bit fl 2
  match Tab.get? r.copies p.seq with
  | some a =>
    if resync ∧ !(bit fl 1) then
      let (s, st, d) := mgmtExecute s p
      let a := mgmtResponse s link p st d
      { s with fab.resps := s.fab.resps.set key { next := (p.seq + 1) % 65536, copies := [(p.seq, a)] } }.routePkt none a
    else s.routePkt none a
  | none =>
    if !(requestType (fieldAt p.data p.bodyOff 1)) ∨ !(resync || decide (p.seq = r.next)) then s
    else
      let (s, st, d) := mgmtExecute s p
      let a := mgmtResponse s link p st d
      let old : List (Nat × Packet) := if resync then [] else r.copies
      let copies := (old ++ [(p.seq, a)]).drop (old.length + 1 - 64)
      { s with fab.resps := s.fab.resps.set key { next := (p.seq + 1) % 65536, copies := copies } }.routePkt none a

/-! ## The requester (R128, R129) -/

/-- What a command has begun is taken back: a copy, a snapshot, a feed, a host buffer. -/
def dropWork (s : State) (j : Job) : State :=
  { s with
    cmp.copies := s.cmp.copies.filter (fun c => !(c.1 == j)), fum.snap := s.fum.snap.filter (fun c => !(c.1 == j)),
    dec.ctxs := s.dec.ctxs.map (fun e => (e.1, { e.2 with feeds := e.2.feeds.filter (fun f => !(f.job == j)) })),
    encs := s.encs.map (fun e => (e.1, { e.2 with bufs := e.2.bufs.filter (fun b => !(b.job == j)) })) }

/-- The bytes that an unfinished host buffer has taken; 0 for every other command. -/
def bytesOut (s : State) (j : Job) : Nat :=
  (((s.encs.flatMap (fun e => e.2.bufs)).find? (fun b => b.job == j)).map (·.used)).getD
    (((s.host.dma.find? (fun w => w.job == j)).bind (·.ended)).elim 0 (fun e => if j.opcode = 0x23 then e.2.2 else 0))

/-- A request's function, type and ADDR. -/
def MReq.pf (r : MReq) : Nat := b2n (!(bit (fieldAt r.pkt.data (r.pkt.bodyOff + 1) 1) 0))
def MReq.type (r : MReq) : Nat := fieldAt r.pkt.data r.pkt.bodyOff 1
def MReq.addr (r : MReq) : Nat := fieldAt r.pkt.data (r.pkt.bodyOff + 8) 8
def MReq.len (r : MReq) : Nat := fieldAt r.pkt.data (r.pkt.bodyOff + 4) 4

/-- A master's read of the host aperture gets the bytes of one answered request, in address order; the debug port's access ends with its
last one (R131, R340). (DESIGN CHOICE: log entry 44.) -/
def readerAnswer (s : State) (mid : Nat) (b : List Byte) : State :=
  if mid = 0x3F then
    let d := s.sys.dap
    let got := d.got ++ (List.range (b.length / 4)).map (fun k => BitVec.ofNat 32 (fieldAt b (4 * k) 4))
    if s.fab.reqs.any (fun e => (e.2.open_ ++ e.2.wait).any (fun r => r.reader == some mid)) then { s with sys.dap := { d with got := got } }
    else { s with sys.dap := { d with got := [], words := got, busy := false } }
  else s.emit (.readData mid b)

/-- A command that needed a DMA that failed completes with ABORTED (R129). (DEDUCED: log entry 42; DEDUCED: log entry 129.) -/
def dmaFailed (s : State) (r : MReq) : State :=
  match r.cmd, r.reader with
  | some j, _ =>
    if s.host.inFlight.any (fun e => e.job == j) then
      let t := abortJob (dropWork s j) { job := j, used := bytesOut s j }
      if j.opcode = 0x11 then pumpFeeds ((t.ctx (j.n 16 1)).feeds.length + 1) t (j.n 16 1) else t
    else s
  | none, some mid => readerAnswer s mid (List.replicate (r.len) 0)
  | none, none => s


/-- A command whose host bytes are here goes on with them (R131); one that needs memory which has stopped ends with ABORTED (R306). -/
def resumeWith (s : State) (j : Job) (b : List Byte) : State :=
  if (s.dram.frozen.isSome ∨ s.dram.selfRefresh) ∧ [0x11, 0x28, 0x38, 0x74].contains j.opcode then abortJob (dropWork s j) j.idle
  else match j.opcode with
  | 0x11 => feedHere s j b
  | 0x28 => capLoad s j b
  | 0x30 => loadBlocks s j (slice b 0 (j.n 24 4))
  | 0x38 => slateCopy s j (slice b 0 (4 * j.n 18 2 * j.n 20 2))
  | 0x50 => routeLoad s j b
  | 0x61 => panelLoad s j b
  | 0x74 => memCopyIn s j (slice b 0 (j.n 20 4))
  | _ => s.finish j .done 0 0

/-- Every DMA request of a command has been answered: it finishes, or goes on with what was read (R129, R131). -/
def resumeDma (s : State) (w : DmaWait) : State :=
  match w.ended with
  | some (st, flags, result) => s.finish w.job st flags result
  | none => resumeWith { s with host.dma := s.host.dma.eraseP (fun x => x == w) } w.job (w.parts.flatMap (·.2))

/-- A DMA request has been served: the bytes of a DMA_RD are kept, and with the last answer the command goes on (R129, R131).
(DEDUCED: log entry 129.) -/
def dmaAnswer (s : State) (r : MReq) (p : Packet) : State :=
  match r.cmd, r.reader with
  | none, none => s
  | none, some mid => readerAnswer s mid (slice p.data (p.bodyOff + 16) r.len)
  | some j, _ =>
    let s : State :=
      if r.isRead then
        { s with host.dma := s.host.dma.map (fun w => if w.job == j then { w with parts := w.parts.set r.addr (slice p.data (p.bodyOff + 16) r.len) } else w) }
      else s
    if dmaOpen s j then s else (s.host.dma.filter (fun w => w.job == j)).foldl resumeDma s

/-- The BAR0 offset of a window request. -/
def MReq.bar (r : MReq) : Nat := r.win * 0x1000000 + r.addr

/-- A slot among the 32 outstanding is free: the oldest waiting request goes out (R128). -/
def pumpRequests (s : State) (key : Nat) : State :=
  let q := s.requester key
  match q.wait with
  | r :: rs => if q.open_.length < 32 then mgmtIssue State.raise (s.setRequester key { q with wait := rs }) key r else s
  | [] => s

/-- A directed response that came on link l retraces the route of this request (R122). (DEDUCED: log entry 41.) -/
def routeBack (l : Option Nat) (r : MReq) (p : Packet) : Bool :=
  let n := fieldAt r.pkt.data 0 1
  r.pkt.directed && p.directed && decide (fieldAt p.data 0 1 = n) && (n == 0 || l == some (fieldAt r.pkt.data 2 1))
    && (List.range n).all (fun k => k == 0 || decide (p.data.getD (2 + k) 0 = r.pkt.data.getD (2 + n - k) 0))

/-- The requester and outstanding request that a response answers. (DEDUCED: log entry 41.) -/
def answered (s : State) (l : Option Nat) (p : Packet) : Option (Nat × MReq) :=
  if p.directed then
    s.fab.reqs.findSome? (fun (e : Nat × MRequester) => (e.2.open_.find? (fun r => r.seq == p.seq && routeBack l r p)).map (fun r => (e.1, r)))
  else
    let key := mgmtKey p.flow p.src
    ((s.requester key).open_.find? (fun r => r.seq == p.seq)).map (fun r => (key, r))

/-- RESP (R127 to R129) on link l: the window access or DMA completes; a DMA whose status is not DONE has failed. (DEDUCED: log entry 41.) -/
def doResp (s : State) (l : Option Nat) (p : Packet) : State :=
  let s : State := takeLocal s (fun q => q.cls == clsMGMT && q == p)
  match answered s l p with
  | none => s
  | some (key, r) =>
    let q := s.requester key
    let s : State := s.setRequester key { q with open_ := q.open_.filter (fun e => !(e.seq == r.seq)) }
    let st := fieldAt p.data (p.bodyOff + 2) 1
    let denied := decide (st = Status.denied.code)
    let s :=
      if r.win ≠ 0 then
        let s := if denied then s.bump Reg.FAB_GW_DENIED_CNT else s
        if r.isRead then
          pcieAnswer s r.pf r.bar (if denied then 0 else fieldAt p.data (p.bodyOff + 16) (min 8 (fieldAt p.data (p.bodyOff + 4) 4)))
        else s
      else if st ≠ Status.done.code then dmaFailed s r
      else dmaAnswer s r p
    pumpRequests s key

/-- A request has failed after its resends (R128, R129). (DEDUCED: log entry 42.) -/
def requestFailed (s : State) (r : MReq) : State :=
  if r.win = 0 then dmaFailed s r
  else
    let s := s.bump Reg.FAB_GW_FAIL_CNT
    let s :=
      if bit (s.cnt Reg.FAB_GW_FAIL_CAP) 31 then s
      else (s.setReg Reg.FAB_GW_FAIL_CAP (2 ^ 31 + r.type * 256 + r.win)).setReg Reg.FAB_GW_FAIL_ADDR (r.addr % 2 ^ 32)
    let s := s.raise 0x0720 (leBytes 1 r.win ++ leBytes 1 r.type ++ leBytes 8 r.addr)
    if r.isRead then pcieAnswer s r.pf r.bar 0 else s

/-- Send outstanding requests again, in order, with RETRY set (R128). (DEDUCED: log entry 42.) -/
def resendAll (s : State) (key : Nat) : State :=
  let q := s.requester key
  let q' : MRequester := { q with open_ := q.open_.map (fun (r : MReq) =>
    { r with
      tries := r.tries + 1, sent := s.clk, pkt := { r.pkt with data := orByte r.pkt.data (r.pkt.bodyOff + 1) 2 } }) }
  q'.open_.foldl (fun s r => s.routePkt none r.pkt) (s.setRequester key q')

/-- MGMT_RETRY_TIMEOUT (R128): the oldest outstanding request of a flow and peer has had no response: resent with every later one, or
failed after RETRIES; the next request then carries RESYNC. (DESIGN CHOICE: log entry 4.) -/
def doRetryTimeout (s : State) (key : Nat) : State :=
  let q := s.requester key
  match q.open_ with
  | [] => s
  | r :: rs =>
    if r.tries < bits (s.reg Reg.FAB_GW_MGMT_CFG) 18 16 then resendAll s key
    else
      let mark := fun (x : MReq) => { x with pkt := { x.pkt with data := orByte x.pkt.data (x.pkt.bodyOff + 1) 4 } }
      let q' : MRequester := match rs with
        | [] => { q with open_ := [], resync := true }
        | x :: xs => { q with open_ := mark x :: xs }
      let s := requestFailed (s.setRequester key q') r
      pumpRequests (resendAll s key) key

/-! ## Events of devices behind the gateway (R132, R285, R286) -/

/-- The window that names a device; the lowest where several do. (DEDUCED: log entry 46.) -/
def windowOf (s : State) (addr : Nat) : Option Nat :=
  (List.range 64).find? (fun w => w != 0 && winMode s w != 0 && winAddr s w == addr)

/-- EVENTS_LOST for a gap of n events of a device, into the rings of its window that take any event (R132). (DEDUCED: log entry 46.) -/
def gapRecord (s : State) (w dev n : Nat) : State :=
  let data := leBytes 2 dev ++ leBytes 4 n
  let evr := eventRecord s 0x0722 data
  let s := { s with evSeq := (s.evSeq + 1) % 65536 }.emit (.event 0x0722 data)
  [0, 1].foldl (fun s f => if s.reg (evqOff w f Reg.HST_EVQ_MASK) = 0 then s else evqWrite s w f evr) s

/-- EVENT_PACKET (R120, R132): the record goes into the device's event rings, after EVENTS_LOST where its SEQ shows a gap; a packet with a SEQ
older than expected is discarded. (DEDUCED: log entry 46; DEDUCED: log entry 128.) -/
def doEventPacket (s : State) (p : Packet) : State :=
  let s : State := takeLocal s (fun q => q.cls == clsEVENT && q == p)
  if !s.isGateway then s
  else
    let ahead := match s.fab.evSeqs.get? p.src with | some n => (p.seq + 65536 - n) % 65536 | none => 0
    if ahead ≥ 32769 then s
    else
      let s := { s with fab.evSeqs := s.fab.evSeqs.set p.src ((p.seq + 1) % 65536) }
      match windowOf s p.src with
      | none => s
      | some w => evqDeliver (if ahead = 0 then s else gapRecord s w p.src ahead) w (p.data.take 32)

end Machine
end Sys2Proof
end

