-- ==== Sys2Proof/Machine/Dap.lean ====
section
/-! DEFINITION. The JTAG debug access port (R339, R340): DAP_CMD and DAP_DATA. -/

namespace Sys2Proof
namespace Machine

/-- The status that Capture-DR of DAP_CMD returns (Table: JTAG instructions). -/
def dapStatus (s : State) : U64 :=
  let d := s.sys.dap
  BitVec.ofNat 64 (b2n d.busy + 2 * b2n d.denied + 4 * b2n d.refused + 8 * b2n (!(dapEnabled s)))

/-- What Capture-DR of a JTAG instruction returns (Table: JTAG instructions): the register's width in bits and its value; none for the boundary
register, whose cells are balls outside the model. (DEDUCED: log entry 79.) -/
def jtagCapture (s : State) (ir : Nat) : Option (Nat × Nat) :=
  match ir with
  | 0x00 => if s.sys.power.released then some (1, 0) else none
  | 0x01 => some (32, (viewSys s 0 Reg.SYS_JTAG_IDCODE 0 0).getD 0)
  | 0x02 => none
  | 0x20 => some (64, (dapStatus s).toNat)
  | 0x21 => some (32, (s.sys.dap.words.headD 0).toNat)
  | _ => some (1, 0)

/-- Bytes as 32-bit words, low byte first. -/
def wordsOf (n : Nat) (b : List Byte) : List U32 := (List.range n).map (fun k => BitVec.ofNat 32 (fieldAt b (4 * k) 4))

/-- The end of an access: its status and, for a read, its words. -/
def dapDone (s : State) (words : List U32) (denied refused : Bool) : State :=
  { s with sys.dap := { s.sys.dap with armed := false, got := [], words := words, busy := false, denied := denied, refused := refused } }

/-- A read of len bytes of device or host memory that the MPU has allowed as one access (R332, R336); none while the answers of a claimed
device's DMA_RDs are awaited (R131). (DESIGN CHOICE: log entry 44.) -/
def dapMemRead (s : State) (addr len : Nat) : Option (List Byte) × State :=
  if addr < apertureLo then
    let (b, s) := (blocksOf (len + 1) addr 0 len).foldl
      (fun (b, s) (o, k) =>
        if addr + o < s.usable then (b ++ memRead s.mem (addr + o) k, s) else (b ++ List.replicate k 0, s.addrFault 0x3F (addr + o)))
      (([] : List Byte), s)
    (some b, s)
  else if addr < regSpace then s.masterRead 0x3F 0 (s.apertureBase + (addr - apertureLo)) len
  else (some (List.replicate len 0), s)

/-- A write likewise. -/
def dapMemWrite (s : State) (addr : Nat) (b : List Byte) : State :=
  if addr < apertureLo then
    (blocksOf (b.length + 1) addr 0 b.length).foldl
      (fun s (o, k) =>
        if addr + o < s.usable then { s with mem := memWrite s.mem (addr + o) ((b.drop o).take k) } else s.addrFault 0x3F (addr + o)) s
  else if addr < regSpace then s.hostWrite 0 (s.apertureBase + (addr - apertureLo)) b
  else s

/-- ADDR and LEN + 1 are multiples of 4 (R340); in the register space the register fabric checks sizes itself (R318).
(DEDUCED: log entry 79.) -/
def dapFits (addr len : Nat) : Bool := inRegSpace addr || (decide (addr % 4 = 0) && decide ((len + 1) % 4 = 0))

/-- The memory controller answers nothing while frozen or in self-refresh: the access stays pending (R306). -/
def memHolds (s : State) (addr : Nat) : Bool := decide (addr < s.usable) && (s.dram.frozen.isSome || s.dram.selfRefresh)

/-- The access stays BUSY, and its answer comes later. (DEDUCED: log entry 79.) -/
def dapWaits (s : State) : State := { s with sys.dap := { s.sys.dap with armed := false, got := [], words := [], busy := true } }

/-- A debug read (R340); a refused one yields zeros (R318). (DEDUCED: log entry 79.) -/
def dapRead (s : State) (addr len : Nat) : State :=
  let n := len + 1
  if !(dapFits addr len) then dapDone s (wordsOf ((n + 3) / 4) []) false true
  else if inRegSpace addr then
    let (v, s, r) := regRead s .dap 0 (addr - regSpace) n true
    dapDone s (wordsOf ((n + 3) / 4) (leBytes 8 v)) (r == 1) (r == 2)
  else if !(mpuOk s 0x3F addr n) then dapDone (s.mpuDeny 0x3F addr n false) (wordsOf (n / 4) []) true false
  else if memHolds s addr then dapWaits s
  else
    let (b, s) := dapMemRead s addr n
    match b with
    | some b => dapDone s (wordsOf (n / 4) b) false false
    | none => dapWaits s

/-- A debug write of the words that have arrived (R340). (DEDUCED: log entry 79.) -/
def dapWrite (s : State) (addr len : Nat) (words : List U32) : State :=
  let n := len + 1
  let b := words.flatMap (fun w => leBytes 4 w.toNat)
  if !(dapFits addr len) then dapDone s [] false true
  else if inRegSpace addr then
    let (s, r) := regWrite s .dap 0 (addr - regSpace) n true (leNat b)
    dapDone s [] (r == 1) (r == 2)
  else if !(mpuOk s 0x3F addr n) then dapDone (s.mpuDeny 0x3F addr n true) [] true false
  else if memHolds s addr then dapWaits s
  else dapDone (dapMemWrite s addr b) [] false false

/-- DAP_CMD (R340): Capture-DR gives the status of the last access; with GO a read is made at once and a write waits for its words.
(DEDUCED: log entry 79.) -/
def doDapCmd (s : State) (w : Nat) : State :=
  let s := s.emit (.dapStatus (dapStatus s))
  let s := { s with sys.dap.ir := 0x20 }
  if !(bit w 51) ∨ !(dapEnabled s) ∨ s.sys.dap.busy ∨ !(s.pdOn 2) then s
  else
    let addr := bits w 39 0
    let len := bits w 49 40
    let s := { s with sys.dap := { s.sys.dap with
      addr := addr, len := len, armed := bit w 50, got := [], words := [], denied := false, refused := false } }
    if bit w 50 then s else dapRead s addr len

/-- DAP_DATA (R340): the next word of an armed write, the access being made with the last; otherwise the next read word comes out.
(DEDUCED: log entry 79.) -/
def doDapData (s : State) (w : U32) : State :=
  let s := { s with sys.dap.ir := 0x21 }
  let d := s.sys.dap
  if d.armed then
    let got := d.got ++ [w]
    if d.len + 1 ≤ 4 * got.length then dapWrite s d.addr d.len got else { s with sys.dap := { d with got := got } }
  else
    match d.words with
    | x :: xs => { s with sys.dap := { d with words := xs } }.emit (.dapWord x)
    | [] => s

end Machine
end Sys2Proof
end

