-- ==== Sys2Proof/Machine/Power.lean ====
section
/-! DEFINITION. Reset, DORMANT, wake and resume, SERVICE, and the always-on island's own acts (R288, R326, R351, R384, R392 to R414,
R451, R452). -/

namespace Sys2Proof
namespace Machine

/-! ## Full reset (R288, R395, R397) -/

/-- THERMTRIP_N falls. -/
def tripPin (s : State) : State := s.emit (.pin "THERMTRIP_N" false)

/-- The OTP after a full reset: a pending lifecycle change takes effect (R339). -/
def OtpRec.afterReset (o : OtpRec) : OtpRec :=
  if o.advance ∧ o.lifecycle = 0 then { o with lifecycle := 1, advance := false } else o

/-- The codes in force after the check of the Class F groups (R419, R420): those of OTP, or mid-scale where a group fails: the RC trim, and the
gain trims of the 64 receivers of each touch port. (DESIGN CHOICE: log entry 108.) -/
def OtpRec.checked (o : OtpRec) (calf : Nat) : OtpRec :=
  { o with calf := calf, rcTrim := if bit calf 8 then Config.classF 32 0 2 0 % 256 else 128,
           gain := (List.range 128).map (fun k => if bit calf (9 + k / 64) then Config.classF 33 (k / 64) 3 (k % 64) % 256 else 128) }

/-- The state after a full reset (R288, R397): State.reset but for OTP, the always-on records, the straps, the pair pins' level and the
sensors. While a thermal event holds the domains off (R413, R414), only PD0 is powered. pin says that the reset ends with the release of a pin,
at which the straps are sampled (R396). (DEDUCED: log entry 101.) -/
def resetState (s : State) (pin : Bool) : State :=
  let held := decide (s.aon.hot ≠ 0)
  { State.reset with
    pending := s.pending, out := s.out, clk := s.clk, free := s.free, otp := s.otp.afterReset, aon := s.aon, straps := s.straps,
    sys.power.on := if held then 1 else 5, sys.power.cut := held, sys.power.refOk := !pin, sys.power.sysLock := !pin && !held,
    sys.power.released := !pin, sys.therm.temps := s.sys.therm.temps,
    pair.ownI := s.pair.ownI, pair.roleB := s.pair.roleB, pair.claimFrom := s.clk + 10000 }

/-- A cause of R288 is present: PCIe causes on a gateway's port, DL_Down after the link has been up, SYS_RESET 10 µs after its write. -/
def resetCauseOk (s : State) : ResetCause → Bool
  | .sysRstN => true
  | .perst => s.straps.pcieEn
  | .hotReset => s.straps.pcieEn
  | .dlDown => s.isGateway
  | .sysReset => s.sys.power.resetDue.isSome

/-- Every readiness bit but those kept falls while no ring is left to take the record: SYS_READY is raised and reaches none (R262).
(DEDUCED: log entry 134.) -/
def readyFalls (s : State) (keep : Nat) : State :=
  ((List.range 45).filter (fun i => s.isReady i && !(bit keep i))).foldl
    (fun s i => s.emit (.event 0x0100 (leBytes 1 i ++ leBytes 1 0))) s

/-- The pins a full reset drives, SYS_READY for each bit that falls, and SYS_MODE for the change of mode; every ring is disabled, so the
records reach none. THERMTRIP_N is released unless R414 still holds it (R441). (DEDUCED: log entry 101; DEDUCED: log entry 73.) -/
def resetOut (s : State) (held : Bool) : State :=
  let s := readyFalls (hpdLow s) 0
  let s := if (s.sys.therm.tripped ∨ s.aon.hot = 2) ∧ !held then s.emit (.pin "THERMTRIP_N" true) else s
  let s := if s.dram.resetN then s.emit (.pin "MEM_RESET_N" false) else s
  if s.sys.mode = .bringup then s
  else
    s.emit (.event 0x0102 (leBytes 1 s.sys.mode.code ++ leBytes 1 0 ++ leBytes 1 0 ++ leBytes 1 s.sys.wakeSrc ++ leBytes 8 s.ft.toNat))

/-- FULL_RESET (R288). (DEDUCED: log entry 101.) -/
def doFullReset (s : State) (c : ResetCause) : State :=
  if resetCauseOk s c then resetState (resetOut s (decide (s.aon.hot = 2))) (decide (c = .sysRstN) || decide (c = .perst)) else s

/-- RESET_RELEASE (R396, R420, R442): the straps are sampled, the Class F groups checked, fabric time starts at 0 (R46), bring-up begins with PD2.
(DEDUCED: log entry 101.) -/
def doResetRelease (s : State) (straps : Straps) (calf : Nat) : State :=
  if s.sys.power.released then s
  else
    let held := decide (s.aon.hot ≠ 0)
    { s with straps := straps, pair.roleB := straps.roleB, otp := s.otp.checked calf, ft := 0, time.frac := 0,
             sys.power.released := true, sys.power.refOk := true, sys.power.sysLock := !held, sys.power.on := if held then 1 else 5 }

/-- AON_RESET (R451): the always-on island resets, and everything that Table: what survives lists as lost with VDD_AON is lost.
(DEDUCED: log entry 101.) -/
def doAonReset (s : State) : State :=
  resetState { resetOut s false with aon := AonRec.reset } true

/-! ## DORMANT_ENTER (R398, R399) -/

/-- Segments of [addr, addr + len). -/
def segsOf (s : State) (addr len : Nat) : List Nat :=
  let cfg := s.dram.config
  (List.range 8).filter (fun k =>
    decide (addr < (if k = 7 then max (segStart cfg 8) s.usable else segStart cfg (k + 1))) && decide (segStart cfg k < addr + len))

/-- A range lies in segments of MEM_PASR_RETAIN. -/
def retained (s : State) (addr len : Nat) : Bool :=
  (segsOf s addr len).all (fun k => bit (s.reg Reg.MEM_PASR_RETAIN) k)

/-- What DORMANT_ENTER calls bad (R398). -/
def dormantBad (s : State) (j : Job) : Bool :=
  let w := j.n 16 1
  !(s.sys.mode == .active || s.sys.mode == .standby) || w == 0 || (bit w 2 && !s.straps.pcieEn)
    || (bit w 3 && j.n 18 2 == 0) || (bit w 0 && !(bit (s.reg Reg.EDG_TCH_WAKE) 0))

/-- A capture port stops (R399): its HPD falls and nothing arrives any more. -/
def capStop (s : State) (p : Nat) : State :=
  let s := capSignal s p false
  driveHpd (s.setCap p { s.cap p with enabled := false, trained := false, live := false, cur := none }) p

/-- Every stream context and encode stream is closed as without DRAIN (R399). (DEDUCED: log entry 97.) -/
def closeAll (s : State) : State :=
  let waits := s.dec.ctxs.flatMap (fun e => e.2.closing.toList.map Job.idle) ++ encWaits s
  let s := s.dec.ctxs.foldl (fun s e =>
    if e.2.state = 0 then s
    else
      let s := s.setCtx e.1 { s.ctx e.1 with closing := none }
      setCtxState (flushCtx s e.1 false) e.1 0) s
  abortAll { s with encs := [] } waits

/-- The checks of DormantEnter (R398, R399). -/
def dormantEnterSpec (s : State) (j : Job) : CmdSpec :=
  let base := j.n 24 8
  { pf0 := true, ready := true, body := j.onlyBits 16 1 15 && j.onlyBits 18 2 0x7FF && j.zero [(17, 1), (20, 4), (32, 32)],
    own := [chk (dormantBad s j) .badDescriptor,
            chk (decide (base % 4096 ≠ 0) || decide (base + 2 ^ 24 > s.usable) || !(retained s base (2 ^ 24)))
              .outOfBounds] }

/-- DORMANT_ENTER (R315, R398, R399), steps 1 to 3; the generators then stop at their frame boundaries. -/
def doDormantEnter (s : State) (j : Job) : State :=
  runJob s j (dormantEnterSpec s j) (fun s =>
    let s := s.relinquish 11 false
    let s := touchHalt (touchHalt s 0) 1
    let s := (List.range 11).foldl tephraDisarm s
    let caps := s.caps
    let s := closeAll s
    let s := (List.range 4).foldl capStop s
    let s := (s.setReady 2 false).setReady 3 false
    { s with sys.dorm := some { job := j, wake := j.n 16 1, links := j.n 18 2, caps := caps, posted := false, dead := false,
                                image := none, events := [] } })

/-! ## The resume image and the power-down (R313, R387, R399, R400) -/

/-- The bits of a register that hold configuration (R400): its RW, W1, PV-RW and PV-W1 fields; routes and groups
whole, and none of MBX_SEL, which carries no parity (R326).
(DEDUCED: log entry 98.) -/
def configMask (off : Nat) : Nat :=
  match findReg (off % 0x1000000) with
  | none => 0
  | some (d, _, _) =>
    if d.base = Reg.MBX_SEL then 0
    else if d.base = Reg.FAB_ROUTE_TBL ∨ d.base = Reg.FAB_GROUP then 0xFFFFFFFF
    else d.flds.foldl (fun m f =>
      if f.acc == .rw || f.acc == .w1 then m ||| ((2 ^ (f.hi + 1 - f.lo) - 1) * 2 ^ f.lo) else m) 0

/-- The configuration among stored registers. (DEDUCED: log entry 98.) -/
def configRegs (rs : Tab U32) : Tab U32 :=
  rs.filterMap (fun e => let m := configMask e.1; if m = 0 then none else some (e.1, BitVec.ofNat 32 (e.2.toNat &&& m)))

/-- A source's binding, as the image keeps it. (DEDUCED: log entry 98.) -/
def SourceRec.binding (r : SourceRec) : SourceRec :=
  { SourceRec.init with prod := r.prod, policy := r.policy, inForce := r.policy, remote := r.remote }

/-- A check rectangle's configuration. (DEDUCED: log entry 98.) -/
def ChkRec.config (r : ChkRec) : ChkRec :=
  { ChkRec.init with mode := r.mode, action := r.action, inter := r.inter, x := r.x, y := r.y, w := r.w, h := r.h, expect := r.expect,
                     persist := r.persist, tiles := r.tiles }

/-- A capture port's settings. (DEDUCED: log entry 98.) -/
def CapRec.config (r : CapRec) : CapRec :=
  { CapRec.init with enabled := r.enabled, lanesMax := r.lanesMax, rateMax := r.rateMax, width := r.width, height := r.height,
                     format := r.format, edid := r.edid }

/-- The resume image of a device (R400). (DEDUCED: log entry 98.) -/
def imageOf (s : State) (caps : Tab CapRec) : ResumeImage :=
  { regs := configRegs s.regs, mpu := s.sys.mpu, sq := s.host.sq, cq := s.host.cq, evq := s.host.evq, lastSq := s.host.lastSq,
    act := s.cmp.act, shd := s.cmp.shd, policies := s.fum.policies,
    sources := s.fum.sources.map (fun e => (e.1, e.2.binding)), binds := s.fum.act, bindsShd := s.fum.shadow,
    slates := s.cmp.slates, surfs := s.surf.surfs, pubs := s.surf.pubs.map (fun e => (e.1, { e.2 with bufs := [] })),
    chks := s.scan.chks.map (fun e => (e.1, e.2.config)),
    tgs := s.scan.tgs.map (fun e => (e.1, { TgRec.init with cfg := e.2.cfg, odd := e.2.odd })),
    caps := caps.map (fun e => (e.1, e.2.config)), maps := s.touch.ports.map (fun e => (e.1, e.2.map)), time := s.time.cfg,
    domain := s.fab.domain, claimed := s.fab.claimed, tephraUsed := s.fab.tephraUsed, svn := s.sys.boot.svn }

/-- The registers of the always-on island (R397): configuration of region EDG, and MEM_PASR_RETAIN. (DEDUCED: log entry 97.) -/
def islandRegs (rs : Tab U32) : Tab U32 :=
  (configRegs rs).filter (fun e => e.1 == Reg.MEM_PASR_RETAIN || (decide (0xE00000 ≤ e.1) && decide (e.1 < 0x1000000)))

/-- Write the finished completions in order; a full ring holds its own (R272, R273). (DEDUCED: log entry 97.) -/
def postAll (s : State) : State := s.host.done.foldl (fun s d => doCompletion s d.pf d.cq) s

/-- The state while the device sleeps: what Table: what survives keeps, and what the always-on island needs. (DEDUCED: log entry 97.) -/
def sleepState (s : State) (d : DormRec) (im : ResumeImage) : State :=
  let gw := s.isGateway
  { State.reset with
    pending := s.pending, held := s.held, out := s.out, clk := s.clk, ft := s.ft, free := s.free, mem := s.mem, otp := s.otp, aon := s.aon,
    straps := s.straps, time := s.time, regs := islandRegs s.regs,
    sys.mode := .dormant, sys.cause := 5, sys.ready := b2n gw, sys.therm := s.sys.therm,
    sys.power := { SysRec.reset.power with on := 1 + 8 * b2n gw, refOk := true, released := true },
    sys.dorm := some { d with posted := true, image := some im, events := [] },
    host.done := s.host.done, host.pcie := s.host.pcie, host.msix := s.host.msix, host.pba := s.host.pba,
    dram.lost := 0xFF - s.reg Reg.MEM_PASR_RETAIN % 256, dram.selfRefresh := true, dram.config := s.dram.config,
    dram.resetN := s.dram.resetN,
    pair := { s.pair.withState (b2n s.pair.enable) with disagree := [], trig := s.pair.trig &&& 0xE40 } }

/-- The memory controller on the way to self-refresh (R313): every queued request is issued, and each channel's PASR register keeps the fitted
segments that hold a row of a retained one. -/
def pasrOps (s : State) : State :=
  (List.range 24).foldl (fun s ch =>
    let c := s.chan ch
    let s : State := c.queue.foldl (fun s q => issued (checkedAccess s q (decide (q.kind ≠ 1)) (if q.kind = 2 then 2 else 1) .clean) q) s
    s.emit (.dramOp ch "PASR" (pasrMask s.dram.config c.density (s.reg Reg.MEM_PASR_RETAIN % 256)) 0 0)) s

/-- The ring command that an instruction is. -/
def ringCmd : Instr → Option Cmd
  | .nop c => some c | .fence c => some c | .unknownOpcode c => some c
  | .streamOpen c => some c | .streamFeed c _ _ => some c | .streamClose c => some c | .streamFlush c => some c
  | .surfacePool c => some c | .encOpen c => some c | .encParams c => some c | .encClose c => some c | .encOutbuf c => some c
  | .captureCfg c _ => some c | .stateLoad c _ => some c | .commit c => some c | .liveSet c => some c | .slateLoad c _ => some c
  | .modeSet c => some c | .fumPolicy c => some c | .fumBind c => some c | .fumSnapshot c => some c | .checkCfg c => some c
  | .routeSet c _ => some c | .groupSet c => some c | .timeCfg c => some c | .tephraCfg c => some c | .touchMap c => some c
  | .touchRefLoad c _ => some c | .mirrorCfg c => some c | .dormantEnter c => some c | .memWrite c _ => some c
  | .memRead c => some c | .serviceEnter c => some c | .serviceExit c => some c
  | _ => none

/-- DORMANT_POWER_DOWN (R399 steps 5 to 7): commands not yet fetched wait for the wake; once no generator runs, the resume image is written, what is still in flight on the
other function ends, the completion is posted, SYS_MODE raised, and the domains go off. What the image's bytes are is not stated.
(DEDUCED: log entry 97.) -/
def doPowerDown (s : State) : State :=
  match s.sys.dorm with
  | none => s
  | some d =>
    if d.posted ∨ s.scan.tgs.any (fun e => e.2.running) then s
    else
      let s := s.relinquish 11 false
      let im := imageOf s d.caps
      let k := s.free
      let s : State := { s with
        mem := memFill s.mem (d.job.n 24 8) (2 ^ 24) (fun i => BitVec.ofNat 8 (Config.freeNat (k + i))), free := k + 2 ^ 24,
        held := s.held.filter (fun i => !((ringCmd i).any (fun c => s.host.inFlight.any (fun e => e.job == Cmd.job c)))) }
      let others := ((s.host.inFlight.map (·.job)).filter (fun j => !(j == d.job))).map Job.idle
      let s := (abortAll s others).finish d.job .done 0 0
      let s := (postAll s).setMode .dormant 5
      let s := ((List.range 45).filter (fun i => i != 0 || !s.isGateway)).foldl (fun s i => s.setReady i false) s
      sleepState (pasrOps s) d { im with sq := s.host.sq, cq := s.host.cq, evq := s.host.evq, lastSq := s.host.lastSq }

/-! ## Wake (R395, R401 to R404) -/

/-- A wake source's bit. -/
def wakeBit : WakeSrc → Nat
  | .touch _ _ _ => 0 | .wakeIn => 1 | .pcie => 2 | .link _ => 3

/-- A wake source that may act: its WAKE bit was set, and it is what R401 asks for. -/
def wakeOk (s : State) (d : DormRec) (src : WakeSrc) : Bool :=
  bit d.wake (wakeBit src) && d.posted && !d.dead && s.aon.hot == 0
    && (match src with
        | .touch press _ _ =>
          bit (s.reg Reg.EDG_TCH_WAKE) 0 && bit (s.reg Reg.EDG_TCH_WAKE) (if press then 3 else 2)
        | .wakeIn => true
        | .pcie => s.isGateway
        | .link l => bit d.links l.val)

/-- The time base as newly released from reset, with the carried value (R403). -/
def timeAfterWake (s : State) : State := { s with time := { TimeRec.reset with frac := s.time.frac } }

/-- WAKE (R395, R401 to R404): the first source powers PD2, PD4 and PD9 and leaves DORMANT; later ones of the same period are recorded.
(DEDUCED: log entry 99.) -/
def doWake (s : State) (src : WakeSrc) : State :=
  match s.sys.dorm with
  | none => s
  | some d =>
    if wakeOk s d src then
      let ev := match src with
        | .touch press x y =>
          some (leBytes 1 (b2n (bit (s.reg Reg.EDG_TCH_WAKE) 1)) ++ leBytes 1 (b2n press) ++ leBytes 2 x.toNat ++ leBytes 2 y.toNat)
        | _ => s.sys.wakeEv
      let s : State := { s with sys.wakeSrc := setBit s.sys.wakeSrc (wakeBit src) true, sys.wakeEv := ev }
      if s.sys.mode = .dormant then
        let s := timeAfterWake { s with
          sys.power.on := s.sys.power.on ||| 0x215, sys.power.sysLock := true, dram.selfRefresh := true, dram.config := 0 }
        s.setMode .bringup 6
      else s
    else s

/-! ## The wake sequencer (R384) -/

/-- Groups within 2 of a group on its axis: sense groups 0 to 7, drive groups 8 to 21. (DEDUCED: log entry 94.) -/
def groupsNear (g : Nat) : List Nat :=
  let (lo, hi) := if g < 8 then (0, 8) else (8, 22)
  (List.range 5).filterMap (fun a => if g + a ≥ lo + 2 ∧ g + a < hi + 2 then some (g + a - 2) else none)

/-- The delta-weighted centroid of one axis in 1/16 group, deltas clipped at 0, halves rounded up. (DEDUCED: log entry 94.) -/
def groupPos (ds : List Int) : Nat :=
  let w := ds.map Int.toNat
  let sum := w.foldl (· + ·) 0
  let mom := (w.zip (List.range w.length)).foldl (fun a e => a + e.1 * e.2) 0
  if sum = 0 then 0 else (32 * mom + sum) / (2 * sum)

/-- Two positions lie no more than 15 mm apart: a group is 8 electrodes wide, each as EDG_TCH_PITCH(t) says in µm. -/
def nearBy (s : State) (t : Nat) (a b : Nat × Nat) : Bool :=
  let p := s.tchReg Reg.EDG_TCH_PITCH t
  let d := fun (x y u : Nat) => (if x ≥ y then x - y else y - x) * u
  let x := d a.1 b.1 (bits p 15 0)
  let y := d a.2 b.2 (bits p 31 16)
  decide (x * x + y * y ≤ 30000 * 30000)

/-- A position lies within the zone of EDG_TCH_WAKE: its nearest groups do. (DEDUCED: log entry 94.) -/
def inZone (v : Nat) (p : Nat × Nat) : Bool :=
  let gx := (p.1 + 8) / 16
  let gy := (p.2 + 8) / 16
  decide (bits v 10 8 ≤ gx) && decide (gx ≤ bits v 14 12) && decide (bits v 19 16 ≤ gy) && decide (gy ≤ bits v 23 20)

/-- The neighbours on its axis that a group is connected to by groups with ok, itself among them where it has it. (DEDUCED: log entry 94.) -/
def groupRun (ok : Nat → Bool) (g : Nat) : List Nat :=
  let (lo, hi) := if g < 8 then (0, 8) else (8, 22)
  if ok g then ((List.range (hi - g)).map (g + ·)).takeWhile ok ++ ((List.range (g - lo)).map (fun k => g - 1 - k)).takeWhile ok else []

/-- The baselines of one scan without a seed: the groups of a lift's region, widened by 2, take their raw counts (R381), then the groups that
are not frozen follow theirs (R378). (DEDUCED: log entry 94.) -/
def groupLift (base : List Nat) (raw : List Nat) (neg : Nat) : List Nat :=
  let d := fun g => (raw.getD g 0 : Int) * 65536 - base.getD g 0
  let low := (List.range 22).filter (fun g => decide (d g ≤ -((neg : Int) * 65536)))
  let hit := (low.flatMap (groupRun (fun g => decide (2 * d g ≤ -((neg : Int) * 65536))))).flatMap groupsNear
  (List.range 22).map (fun g => if hit.contains g then raw.getD g 0 * 65536 else base.getD g 0)

/-- What one scan recognizes: the tracked contact, and a gesture: double tap (false) or press (true), with its position.
(DEDUCED: log entry 94.) -/
def wakeTrack (s : State) (t v : Nat) (w : WakeRec) (pos : Option (Nat × Nat)) : WakeRec × Option (Bool × Nat × Nat) :=
  match pos, w.cur with
  | none, none => (w, none)
  | none, some (first, x, y) =>
    let w' := { w with cur := none, near := false, tap := if w.scan - first ≤ 6 then some (first, x, y) else none }
    match w.tap with
    | some (f0, x0, y0) =>
      if bit v 2 ∧ w.scan - first ≤ 6 ∧ first - f0 ≤ 8 ∧ nearBy s t (x0, y0) (x, y) ∧ inZone v (x0, y0) ∧ inZone v (x, y) then
        ({ w' with tap := none }, some (false, x, y))
      else (w', none)
    | none => (w', none)
  | some p, none => ({ w with cur := some (w.scan, p.1, p.2), near := true }, none)
  | some p, some (first, x, y) =>
    let near := w.near && nearBy s t (x, y) p
    let w' := { w with near := near }
    if bit v 3 ∧ near ∧ w.scan - first = 30 ∧ inZone v (x, y) then (w', some (true, p)) else (w', none)

/-- A contact held for more than ANCHOR_S is withdrawn (R379): scans are 50 ms apart. (DEDUCED: log entry 94.) -/
def wakeAnchored (s : State) (t : Nat) (w : WakeRec) : Bool :=
  match w.cur with
  | some (first, _, _) => decide ((w.scan - first) * 50 > 1000 * bits (s.tchReg Reg.EDG_TCH_TIME t) 25 16)
  | none => false

/-- WAKE_SCAN (R384): one ganged self measurement of 8 sense and 14 drive groups; a recognized gesture wakes the device.
(DEDUCED: log entry 94.) -/
def doWakeScan (s : State) (sense drive : List Nat) : State :=
  let v := s.reg Reg.EDG_TCH_WAKE
  if s.sys.mode ≠ .dormant ∨ !(bit v 0) then s
  else
    let t := b2n (bit v 1)
    let raw := (List.range 8).map (fun i => sense.getD i 0) ++ (List.range 14).map (fun i => drive.getD i 0)
    let w := s.touch.wake
    if !w.seeded then
      { s with touch.wake := { w with seeded := true, base := raw.map (· * 65536), scan := w.scan + 1 } }
    else
      let base := groupLift w.base raw (bits (s.tchReg Reg.EDG_TCH_THR2 t) 15 0)
      let ds : List Int := (List.range 22).map (fun g => (raw.getD g 0 : Int) * 65536 - base.getD g 0)
      let thr := (bits v 31 24 * 64 : Int) * 65536
      let top := fun (l : List Int) => l.foldl max (l.headD 0)
      let there := decide (top (ds.take 8) ≥ thr) && decide (top (ds.drop 8) ≥ thr)
      let pos := if there then some (groupPos (ds.take 8), groupPos (ds.drop 8)) else none
      let peak := fun lo (l : List Int) => lo + l.findIdx (fun x => x == top l)
      let froz := if there then ([peak 0 (ds.take 8), peak 8 (ds.drop 8)].flatMap (groupRun (fun g => decide (4 * ds.getD g 0 ≥ thr)))).flatMap groupsNear
        else []
      let (w, gest) := wakeTrack s t v { w with scan := w.scan + 1 } pos
      let gone := there && wakeAnchored s t w
      let mask := ((List.range 22).map (fun g => froz.contains g)).toArray
      let base := if gone then (List.range 22).map (fun g => if froz.contains g then raw.getD g 0 * 65536 else base.getD g 0)
        else driftBase (bits (s.tchReg Reg.EDG_TCH_TIME t) 9 0) base raw.toArray mask
      let s : State := { s with touch.wake := { w with base := base, cur := if gone then none else w.cur } }
      match gest with
      | some (press, x, y) => doWake s (.touch press (BitVec.ofNat 16 x) (BitVec.ofNat 16 y))
      | none => s

/-! ## Resume (R400, R402 to R404) -/

/-- The stored registers of the image over those there are. -/
def mergeRegs (rs : Tab U32) (im : Tab U32) : Tab U32 := im.foldl (fun t e => t.set e.1 e.2) rs

/-- A band block keeps its contents: every byte lies in retained segments (R400). -/
def blockKept (s : State) (q : SurfRec) : Bool := retained s q.block (4096 * (1 + q.buffers))

/-- Band blocks in lost segments are initialized as under R158; the others go on with their counts. -/
def resumeBlocks (s : State) (im : ResumeImage) : State :=
  im.surfs.foldl (fun s e => if blockKept s e.2 then s else (initBlock s e.2).1)
    { s with surf.surfs := im.surfs,
             surf.pubs := im.pubs.filter (fun p => match im.surfs.get? p.1 with | some q => blockKept s q | none => true) }

/-- The slates whose whole slot lies in retained segments (R400). -/
def resumeSlates (s : State) (im : ResumeImage) : Tab SlateRec :=
  (im.slates.filter (fun e => e.2.copied && retained s (s.slateBase + e.1 * 2 ^ 20) (2 ^ 20))).map (fun e => (e.1, { e.2 with seen := 0 }))

/-- Sources restart as if bound at this moment (R400, R17). -/
def resumeSources (s : State) (im : ResumeImage) : State :=
  im.sources.foldl (fun s e =>
    if e.2.prod.isSome then evalSource (s.setSource e.1 e.2) e.1 { bind := true } else s.setSource e.1 e.2) s

/-- The time base takes its settings: a root resumes as ROOT (R403). -/
def resumeTime (s : State) (cfg : TimeCfg) : State :=
  let s : State := { s with time.cfg := cfg }
  if cfg.root then setTimeState { s with time.hops := 0 } .root else s

/-- Links whose ENABLE the image gives another value than reset change state (R107). -/
def resumeLinks (s : State) : State :=
  (List.range 11).foldl (fun s l => if bit (s.reg (Reg.FAB_LINK_CTRL + 0x100 * l)) 0 then s else linkSetEnable s l false) s

/-- A LOCKED generator restored while TIME_LOCK is not ready starts in FREE (R403). (DEDUCED: log entry 99.) -/
def resumeTg (s : State) (n : Nat) : State :=
  let g := s.tg n
  if g.cfg.timing ≠ 1 ∨ g.cfg.idx = 0 then s
  else if s.isReady 26 then enterLock s n true
  else s.setTg n { g with unlocked := true }

/-- The doorbell values held in DORMANT are applied (R402). (DEDUCED: log entry 99.) -/
def resumeDoorbells (s : State) : State :=
  let db := s.host.dormDb
  db.foldl (fun s e =>
    let f := e.1 / 0x1000 % 16
    let o := e.1 % 0x1000
    let w := e.1 / 0x10000
    if w ≠ 0 ∧ winMode s w = 0 then s
    else if w ≠ 0 ∧ o < 0x200 then windowRequest s f w 2 o 4 (leBytes 4 e.2.toNat)
    else if o < 0x100 then sqDoorbell s f (o / 4) e.2.toNat true
    else if o < 0x200 then cqDoorbell s f (o % 0x100 / 4) e.2.toNat true
    else evqDoorbell s w f e.2.toNat true) { s with host.dormDb := [] }

/-- The events held until the rings were restored are written in order (R404). (DEDUCED: log entry 99.) -/
def resumeEvents (s : State) (evs : List (List Byte)) : State :=
  evs.foldl (fun s evr => sendRecord State.raise s (fieldAt evr 4 2) evr) s

/-- The plain fields of the restore (R400); links already in UP are then told the address and domain that came back (R110). -/
def restore (s : State) (im : ResumeImage) : State :=
  { s with
    regs := mergeRegs s.regs im.regs, sys.mpu := im.mpu, host.sq := im.sq, host.cq := im.cq, host.evq := im.evq,
    host.lastSq := im.lastSq, cmp.act := im.act, cmp.shd := im.shd, fum.policies := im.policies, fum.tickPol := im.policies,
    fum.act := im.binds, fum.shadow := im.bindsShd, scan.chks := im.chks, scan.tgs := im.tgs, caps := im.caps,
    touch.ports := im.maps.map (fun e => (e.1, { TouchRec.init with map := e.2 })),
    fab.domain := im.domain, fab.claimed := im.claimed, fab.tephraUsed := im.tephraUsed,
    sys.boot.verified := true, sys.boot.svn := im.svn }

/-- A firmware copy that fails its check (R265): which of R266's codes is reported is not stated; nothing is restored, and the device
waits in BRINGUP for an image. (DEDUCED: log entry 99.) -/
def resumeFail (s : State) : State :=
  let (x, s) := s.fresh
  let code := x % 5 + 1
  let s := s.raise 0x0101 (leBytes 1 code ++ leBytes 4 0)
  { s with sys.dorm := none, sys.wakeEv := none, sys.boot.fail := code, sys.boot.fails := 1, host.dormDb := [], host.done := [],
           pair := { s.pair.withState 0 with enable := false } }

/-- RESUME (R400, R403, R404): once MEM_RETAINED is ready the firmware copy is checked, and the configuration restored.
(DEDUCED: log entry 99.) -/
def doResume (s : State) (imageOk : Bool) : State :=
  match s.sys.dorm with
  | none => s
  | some d =>
    match d.image with
    | none => s
    | some im =>
      if s.sys.mode ≠ .bringup ∨ !(s.isReady 2) then s
      else if !imageOk then resumeFail s
      else
        let s := s.raise 0x0101 (leBytes 1 0 ++ leBytes 4 im.svn)
        let evs := match s.sys.dorm with | some d => d.events | none => []
        let s := capsAll (restore { s with sys.dorm := none } im)
        let s := resumeEvents (resumeDoorbells s) evs
        let s := resumeBlocks s im
        let s : State := { s with cmp.slates := resumeSlates s im }
        let s := resumeLinks (resumeTime (resumeSources s im) im.time)
        let s := (List.range 8).foldl resumeTg s
        mgmtReady s

/-! ## SERVICE (R408 to R410) -/

/-- What SERVICE_ENTER calls bad. (DEDUCED: log entry 104.) -/
def serviceBad (s : State) (j : Job) : Bool :=
  let test := bit (j.n 16 1) 0
  !(s.sys.mode == .active || s.sys.mode == .standby) || decide (j.n 17 1 > (if test then 2 else 0)) || (test && j.n 32 8 == 0)

/-- The checks of ServiceEnter (R408, R409). (DEDUCED: log entry 104.) -/
def serviceEnterSpec (s : State) (j : Job) : CmdSpec :=
  let test := bit (j.n 16 1) 0
  let base := j.n 24 8
  let size := j.n 32 8
  { pf0 := true, ready := true, body := j.onlyBits 16 1 1 && j.zero [(18, 6), (40, 24)],
    own := [chk (serviceBad s j) .badDescriptor,
            chk (test && (decide (base % 64 ≠ 0) || decide (size % 64 ≠ 0) || decide (base + size > s.usable)))
              .outOfBounds] }

/-- SERVICE_ENTER (R408, R409). -/
def doServiceEnter (s : State) (j : Job) : State :=
  let test := bit (j.n 16 1) 0
  let base := j.n 24 8
  let size := j.n 32 8
  runJob s j (serviceEnterSpec s j) (fun s =>
    let s := (s.relinquish 11 false).setMode .service 3
    let s : State := if test then { s with dram.test :=
        { on := true, pattern := j.n 17 1, base := base, size := size, pos := 0, reading := false, passes := 0, bad := 0, first := 0 } }
      else s
    s.finish j .done 0 0)

/-- The checks of ServiceExit (R410). -/
def serviceExitSpec (s : State) (j : Job) : CmdSpec :=
  { pf0 := true, ready := true, body := j.zero [(16, 48)], own := [chk (!(s.sys.mode == .service)) .badDescriptor] }

/-- SERVICE_EXIT (R410). -/
def doServiceExit (s : State) (j : Job) : State :=
  runJob s j (serviceExitSpec s j) (fun s =>
    let s : State := { s with dram.test.on := false }
    let s := (List.range 11).foldl tephraDisarm s
    let s := [0, 1].foldl (fun (s : State) t =>
      s.setReg (tchOff Reg.EDG_TCH_CTRL t) (setBit (s.tchReg Reg.EDG_TCH_CTRL t) 1 false)) s
    let s := (List.range 8).foldl (fun (s : State) n =>
      let off := Reg.OUT_DP_TRIM_OVR + 0x100 * n
      s.setReg off (setBit (s.reg off) 31 false)) (lanesEndService s)
    let s := s.setMode (if s.pair.enable then .standby else .active) 4
    s.finish j .done 0 0)

/-! ## Watchdog, parity, PLLs and supplies (R326, R351, R392, R406, R452) -/

/-- NM0_WATCHDOG (R351, R406), while firmware runs. (DEDUCED: log entry 104.) -/
def doWatchdog (s : State) : State :=
  if s.isReady 1 ∧ s.sys.mode ≠ .dormant then (s.trigger 4 true).enterFrozen 9 else s

/-- A register that the scrubber newly finds bad (R326). -/
def parityFound (s : State) (off : Nat) : State :=
  if s.sys.parity.contains off ∨ configMask off = 0 ∨ (findReg off).isNone then s
  else
    let s := ({ s with sys.parity := off :: s.sys.parity }).bump Reg.SYS_PARITY_CNT
    let s := s.raiseLimited 0x011100 1000000000 0x0111 (leBytes 4 off ++ leBytes 2 s.sys.parity.length)
    s.trigger 2 false

/-- PARITY_SCRUB (R326). (DEDUCED: log entry 81.) -/
def doParityScrub (s : State) (found : List Nat) : State :=
  if s.pdOn 2 then found.foldl parityFound s else s

/-- Whether a PLL is locked (SYS_CLK_STATUS). (DEDUCED: log entry 103.) -/
def pllLocked (s : State) : Pll → Bool
  | .sys => s.sys.power.sysLock | .str => s.sys.power.strLock | .mem => s.sys.power.memLock

/-- Set a PLL's lock. -/
def setPll (s : State) (v : Bool) : Pll → State
  | .sys => { s with sys.power.sysLock := v }
  | .str => { s with sys.power.strLock := v }
  | .mem => { s with sys.power.memLock := v }

/-- A PLL that the device has started: it has its lock, or has lost it (R391, R406). (DEDUCED: log entry 103.) -/
def pllStarted (s : State) : Pll → Bool
  | .sys => s.pdOn 2 && s.sys.power.released
  | .str => s.isReady 27 && s.sys.mode != .frozen
  | .mem => s.pdOn 4 && s.dram.trained

/-- PLL_LOCK_LOSS (R351, R406): out of lock for more than 1 µs asserts trigger 7; us100 says that it has lasted 100 µs.
(DEDUCED: log entry 103.) -/
def doLockLoss (s : State) (p : Pll) (us100 : Bool) : State :=
  if s.sys.mode ≠ .dormant ∧ (pllLocked s p ∨ (pllStarted s p ∧ bit s.pair.trig 7)) then
    let s := (setPll s false p).trigger 7 us100
    if us100 then s.enterFrozen 10 else s
  else s

/-- PLL_RELOCK (R392): trigger 7 stops being asserted once every PLL that the device has started is locked. (DEDUCED: log entry 103.) -/
def doRelock (s : State) (p : Pll) : State :=
  if pllStarted s p then
    let s := setPll s true p
    if [Pll.sys, .str, .mem].all (fun q => !(pllStarted s q) || pllLocked s q) then s.untrigger 7 else s
  else s

/-- SUPPLY_DROPOUT (R452), with SYS_RST_N high: the SYS PLL loses lock, and trigger 7 drops the pins. (DEDUCED: log entry 103.) -/
def doDropout (s : State) : State :=
  if s.sys.mode = .dormant ∨ !s.sys.power.released then s else (setPll s false .sys).trigger 7 false

/-! ## Temperatures (R411 to R414) -/

/-- EDG_THERMAL for the readings as they are. -/
def thermalEvent (s : State) : State :=
  let (k, t) := hottest s.sys.therm.temps
  s.raise 0x0800 (leBytes 1 (ofInt 8 (degrees t)) ++ leBytes 1 k ++ leBytes 1 s.sys.therm.step ++ leBytes 1 (b2n s.sys.therm.atBound)
    ++ leBytes 1 (b2n s.sys.therm.tripped))

/-- The domains that a thermal event held off come back: R413 waits for TS8, R414 for Tmax, below 100 °C. (DEDUCED: log entry 102.) -/
def coolDown (s : State) : State :=
  let top := (hottest s.sys.therm.temps).2
  let ok := if s.aon.hot = 1 then decide (s.sys.therm.temps.getD 8 0 < 1600) else decide (top < 1600)
  if s.aon.hot ≠ 0 ∧ ok ∧ s.sys.mode = .bringup then
    let t : State := { s with aon.hot := 0, sys.power.cut := false, sys.power.on := 5, sys.power.sysLock := s.sys.power.released }
    if s.aon.hot = 2 then t.emit (.pin "THERMTRIP_N" true) else t
  else s

/-- STEP after one reading (R411): STEP and AT_BOUND, for Tmax in 1/16 °C. (DEDUCED: log entry 102.) -/
def governor (tmax : Int) (target floor step : Nat) (bound : Bool) : Nat × Bool :=
  if tmax > 16 * (target : Int) then (if step > floor then (step - 1, bound) else (step, true))
  else (if tmax < 16 * ((target : Int) - 3) ∧ step < 16 then step + 1 else step, false)

/-- THERMAL_GOVERNOR (R411): the nine readings in 1/16 °C. In DORMANT the core die is off, and the governor rests. -/
def doGovernor (s : State) (temps : List Int) : State :=
  if s.sys.mode = .dormant then s
  else
    let s := takeTemps s ((List.range 9).map (fun i => temps.getD i 0))
    let cfg := s.reg Reg.EDG_THERM_CFG
    let tmax := (hottest s.sys.therm.temps).2
    let was := s.sys.therm.atBound
    let (step, bound) := governor tmax (bits cfg 23 16) (bits cfg 4 0) s.sys.therm.step was
    let s : State := { s with sys.therm.step := step, sys.therm.atBound := bound }
    let s := if tmax < 1760 then s.untrigger 6 else if bit s.pair.trig 6 then s else s.trigger 6 true
    let s := if bound ∧ !was then thermalEvent s else s
    coolDown s

/-- THERMAL_TRIP (R412). (DEDUCED: log entry 102.) -/
def doThermalTrip (s : State) : State :=
  if s.sys.mode = .dormant then s
  else if s.sys.therm.tripped then s.trigger 6 true
  else
    let s := abortSlates ((s.trigger 6 true).enterFrozen 8)
    let s : State := { s with sys.therm.tripped := true, dram.selfRefresh := s.dram.selfRefresh || s.dram.frozen.isNone }
    tripPin (thermalEvent s)

/-- DORMANT_THERMAL_TRIP (R413): TS8's reading in 1/16 °C. (DEDUCED: log entry 102.) -/
def doDormantTrip (s : State) (temp : Int) : State :=
  match s.sys.dorm with
  | some d =>
    if s.sys.mode = .dormant ∧ !d.dead then
      let s := takeTemps s (s.sys.therm.temps.set 8 temp)
      let s := s.trigger 6 false
      tripPin { s with aon.fault := faultRecord s 8 8 temp, aon.hot := 1, sys.therm.tripped := true, sys.dorm := some { d with dead := true } }
    else s
  | none => s

/-- THERMAL_CUT (R414): the island removes power from PD1 to PD9; what they held is gone. (DEDUCED: log entry 102.) -/
def doThermalCut (s : State) : State :=
  if s.sys.power.cut then s
  else
    let s := readyFalls (hpdLow (doThermalTrip s)) 0
    let m := s.sys.mode
    let p := s.pair
    tripPin { State.reset with
      pending := s.pending, out := s.out, clk := s.clk, ft := s.ft, free := s.free, otp := s.otp, straps := s.straps,
      aon := { s.aon with hot := 2 }, regs := islandRegs s.regs, time := s.time,
      sys.mode := m, sys.cause := s.sys.cause, sys.therm := s.sys.therm,
      sys.power := { SysRec.reset.power with on := 1, cut := true, refOk := true, released := s.sys.power.released },
      dram.resetN := s.dram.resetN,
      sys.dorm := s.sys.dorm.map (fun d => { d with dead := true }), pair := { p.withState (b2n p.enable) with disagree := [] } }

end Machine
end Sys2Proof
end

