-- ==== Sys2Proof/Machine/Order.lean ====
section
/-! DEFINITION. When a ring command may start (R210, R269, R274, R275, R399), and what surrounds a command's own effect: the power
domain it needs, links that change state, the PCIe wake. -/

namespace Sys2Proof
namespace Machine

/-- The outcome of a command. -/
abbrev Result := Host.Outcome State Fault Refusal

/-- The pipes that a command of R210 names, as far as the command itself says. (DEDUCED: log entry 132.) -/
def pipesOf : Instr → List Nat
  | .stateLoad c buf =>
    let len := (Cmd.job c).n 24 4
    if len ≤ 0x100000 then loadPipes len (len / 16) 0 (slice buf 0 len) else []
  | .commit c => outsOf ((Cmd.job c).n 16 1)
  | .fumBind c => if (Cmd.job c).n 16 1 = 1 then [(Cmd.job c).n 18 2 / 512] else []
  | _ => []

/-- The pipes that a command of R210 may name: the blocks of a STATE_LOAD that are still to come over the fabric can name any pipe.
(DEDUCED: log entry 132.) -/
def namedPipes (s : State) (i : Instr) : List Nat :=
  match i with
  | .stateLoad _ _ => if s.fab.claimed && !s.isGateway then List.range 8 else pipesOf i
  | _ => pipesOf i

/-- The one object that a command under execution holds against later commands of its ring (R274): its kind and number. -/
def objectOf (j : Job) : Option (Nat × Nat) :=
  match j.opcode with
  | 0x12 => some (0, j.n 16 1)
  | 0x10 => some (0, j.n 16 1)
  | 0x11 => some (0, j.n 16 1)
  | 0x13 => some (0, j.n 16 1)
  | 0x22 => some (1, j.n 16 1)
  | 0x20 => some (1, 4 * j.n 16 1 + j.n 17 1)
  | 0x21 => some (1, j.n 16 1)
  | 0x23 => some (1, j.n 16 1)
  | 0x48 => some (3, j.n 16 1)
  | 0x38 => some (4, j.n 16 1)
  | 0x18 => some (5, j.n 16 1 * 65536 + j.n 18 2)
  | _ => none

/-- A command that keeps its object until it completes. -/
def holdsObject (j : Job) : Bool := [0x12, 0x22, 0x48, 0x38, 0x18].contains j.opcode

/-- The outputs that a command acts on (R274). -/
def outputsOf (j : Job) : List Nat :=
  match j.opcode with
  | 0x31 => outsOf (j.n 16 1)
  | 0x32 => [j.n 16 1]
  | 0x3A => [j.n 16 1]
  | 0x48 => [j.n 16 1 / 16]
  | _ => []

/-- A command waits for the bytes that its DMA_RDs bring: what its ring holds behind it waits with it (R274). (DEDUCED: log entry 129.) -/
def dmaReads (s : State) (j : Job) : Bool := s.host.dma.any (fun w => w.job == j && w.ended.isNone)

/-- Two commands act on one output: a MODE_SET beside any of them, or a LIVE_SET behind a COMMIT (R274). -/
def sameOutput (a b : Job) : Bool :=
  (a.opcode == 0x3A || b.opcode == 0x3A || (a.opcode == 0x31 && b.opcode == 0x32)) && (outputsOf a).any (outputsOf b).contains

/-- An earlier MODE_SET for a job's output has not applied, or still waits to start (R228). -/
def modeSetWaits (s : State) (before : List Instr) (j : Job) : Bool :=
  j.opcode == 0x3A && (!(s.tg (j.n 16 1)).jobs.isEmpty || before.any (fun k => match k with
    | .modeSet c => (Cmd.job c).n 16 1 == j.n 16 1
    | _ => false))

/-- The descriptors fetched before the first unstarted one of a job. -/
def earlier (s : State) (j : Job) : List Flight := s.host.inFlight.takeWhile (fun e => !(e.job == j && !e.started))

/-- Two jobs of one ring. -/
def sameRing (a b : Job) : Bool := a.org == b.org

/-- A ring command may not start yet: before are the commands that wait for longer. (DEDUCED: log entry 11; DEDUCED: log entry 12; DEDUCED: log entry 132.) -/
def blocked (s : State) (before : List Instr) (i : Instr) (j : Job) : Bool :=
  let es := earlier s j
  let mine := es.filter (fun e => sameRing e.job j)
  let ps := namedPipes s i
  !(s.pdOn 2)
    || (s.sys.dorm.isSome && !(s.host.inFlight.any (fun e => e.job == j && !e.started)))
    || before.any (fun k => (ringCmd k).any (fun c => sameRing (Cmd.job c) j))
    || mine.any (fun e => !e.started || e.job.opcode == 0x70)
    || ((bit (j.n 1 1) 0 || (j.opcode == 0x02 && j.n 16 1 == 0)) && !mine.isEmpty)
    || (((j.opcode == 0x02 && j.n 16 1 == 1) || j.opcode == 0x70) && es.any (fun e => e.job.pf == j.pf))
    || modeSetWaits s before j
    || ps.any (pipeBusy s) || before.any (fun k => (namedPipes s k).any ps.contains)
    || (!ps.isEmpty && s.host.dma.any (fun w => w.job.opcode == 0x30))
    || mine.any (fun e => sameOutput e.job j) || mine.any (fun e => dmaReads s e.job)
    || mine.any (fun e => holdsObject e.job && (objectOf e.job).isSome && objectOf e.job == objectOf j)

/-- The first unstarted flight of a job is marked as started; a descriptor that was not fetched by DESCRIPTOR_FETCH counts as fetched now. -/
def markStarted (j : Job) : List Flight → List Flight
  | [] => [{ job := j, started := true }]
  | e :: es => if e.job == j && !e.started then { e with started := true } :: es else e :: markStarted j es

/-- The job is among the fetched descriptors that have not started. (DEDUCED: log entry 11.) -/
def noteFetched (s : State) (j : Job) : State :=
  if s.host.inFlight.any (fun e => e.job == j && !e.started) then s
  else { s with host.inFlight := s.host.inFlight ++ [{ job := j, started := false }] }

/-- Start a ring command now, or keep it until it may start; what DORMANT_ENTER holds is fetched after the wake (R399). (DEDUCED: log entry 11.) -/
def gate (s : State) (i : Instr) (c : Cmd) (run : State → Job → State) : State :=
  let j := Cmd.job c
  if blocked s s.held i j then
    let t := if s.pdOn 2 && s.sys.dorm.isNone then noteFetched s j else s
    { t with held := t.held ++ [i] }
  else run { s with host.inFlight := markStarted j s.host.inFlight } j

/-- The first held command that may start: its index. -/
def readyHeld (s : State) : Nat → List Instr → List Instr → Option Nat
  | _, _, [] => none
  | k, before, i :: is =>
    match ringCmd i with
    | some c => if blocked s before i (Cmd.job c) then readyHeld s (k + 1) (before ++ [i]) is else some k
    | none => some k

/-- The held command that goes next on an empty queue: the command, the state with the commands that wait for longer, and those behind it.
(DESIGN CHOICE: log entry 2; DEDUCED: log entry 11.) -/
def heldNext (s : State) : Option (Instr × State × List Instr) :=
  match readyHeld s 0 [] s.held with
  | some k =>
    match s.held[k]? with
    | some i => some (i, { s with held := s.held.take k }, s.held.drop (k + 1))
    | none => none
  | none => none

/-- One tick of the clock on an empty queue: 1 ns; requests that waited for the next ns enter the memory (R304), capture lanes whose scan is due
are scanned (R431), the first mirrored record that waits is applied once its pipes are free (R210, R358),
and a claim is withdrawn when the device is no longer eligible (R346). (DESIGN CHOICE: log entry 2.) -/
def tick (s : State) : State := checkClaim (mirrorNext (dpiScans (drainIngress (advanceTime s 1))))

/-- The commands behind a held one that has run. -/
def withHeld (rest : List Instr) : Result → Result
  | .next t => .next { t with held := t.held ++ rest }
  | .fault e => .fault e
  | .refused e => .refused e

/-! ## What surrounds a command's effect -/

/-- An effect of a unit in a power domain: nothing happens while the domain is off (R387).
(DEDUCED: log entry 13; DEDUCED: log entry 14.) -/
def onDomain (s : State) (d : Nat) (f : State → State) : State := if s.pdOn d then f s else s

/-- An effect that can change a link's state: lanes follow their links (R426), and PEER that becomes ready starts a full image (R357). -/
def onLinks (s : State) (f : State → State) : State :=
  let t := allLanesFollow s (f s)
  if t.peerUp ∧ !s.peerUp then peerCame t else t

/-- A MODE_SET ungates the unit of its output, before it applies and when it does (R388). -/
def wakeOutputs (s : State) : State :=
  (List.finRange 8).foldl (fun s n => if (s.tg n.val).jobs.isEmpty then s else doUnitWake s (.out n)) s

/-- A TLP to BAR0 or BAR2 of a gateway in DORMANT is its PCIE wake source (R401). (DEDUCED: log entry 12; DEDUCED: log entry 100.) -/
def tlpWakes (s : State) : State := if s.sys.mode = .dormant ∧ s.isGateway then doWake s .pcie else s

/-- A PCIe write of a gateway's BAR: its effect while PD2 is on or the device sleeps (R402), then the wake.
(DEDUCED: log entry 12; DEDUCED: log entry 100.) -/
def hostTlp (s : State) (f : State → State) : State :=
  if s.pdOn 2 ∨ s.sys.mode = .dormant then tlpWakes (f s) else s

/-- A register write of any accessor and size (R318). -/
def accWrite (s : State) (a : Acc) (off size : Nat) (full : Bool) (v : Nat) : State :=
  let t := onLinks s (fun s => (regWrite s a 0 off size full v).1)
  if a = .pf0 ∨ a = .pf1 then tlpWakes t else t

/-- A write into the bootstrap window, of any accessor and size (R264, R401). -/
def windowWrite (s : State) (a : Acc) (off size : Nat) (v : U64) : State :=
  let t := onDomain s 2 (fun s => bootWrite s a off size v)
  if a = .pf0 ∨ a = .pf1 then tlpWakes t else t

/-- A register write of a row that names its register. (DEDUCED: log entry 13.) -/
def rowWrite (s : State) (a : Acc) (off : Nat) (v : U32) : State :=
  let t := onLinks s (fun s => regWrite32 s a off v)
  if a = .pf0 ∨ a = .pf1 then tlpWakes t else t

end Machine
end Sys2Proof
end

