-- ==== Sys2Proof/Machine/RunBasic.lean ====
section
/-! DEFINITION. Commands served before MGMT, memory copies, SERVICE and DORMANT_ENTER: the meaning of each. -/

namespace Sys2Proof
namespace Machine

/-- NOP (R456). -/
def execNop (c : Cmd) (s : State) : Result := .next (gate s (.nop c) c (fun s j => doNop s j))

/-- FENCE (R275). -/
def execFence (c : Cmd) (s : State) : Result := .next (gate s (.fence c) c (fun s j => doFence s j))

/-- An opcode outside the opcode table (R278). -/
def execUnknownOpcode (c : Cmd) (s : State) : Result := .next (gate s (.unknownOpcode c) c (fun s j => doUnknown s j))

/-- MEM_WRITE (R282); buf is what the host buffer holds. -/
def execMemWrite (c : Cmd) (buf : List Byte) (s : State) : Result :=
  .next (gate s (.memWrite c buf) c (fun s j => doMemWrite s j buf))

/-- MEM_READ (R282). -/
def execMemRead (c : Cmd) (s : State) : Result := .next (gate s (.memRead c) c (fun s j => doMemRead s j))

/-- SERVICE_ENTER (R408). -/
def execServiceEnter (c : Cmd) (s : State) : Result := .next (gate s (.serviceEnter c) c (fun s j => doServiceEnter s j))

/-- SERVICE_EXIT (R410). -/
def execServiceExit (c : Cmd) (s : State) : Result := .next (gate s (.serviceExit c) c (fun s j => doServiceExit s j))

/-- DORMANT_ENTER (R398). -/
def execDormantEnter (c : Cmd) (s : State) : Result := .next (gate s (.dormantEnter c) c (fun s j => doDormantEnter s j))

end Machine
end Sys2Proof
end

