-- ==== Sys2Proof/Machine/RunFabric.lean ====
section
/-! DEFINITION. Commands of the fabric, the time base, touch and the pair: the meaning of each. -/

namespace Sys2Proof
namespace Machine

/-- ROUTE_SET (R135); tbl is what the host table holds. -/
def execRouteSet (c : Cmd) (tbl : List Byte) (s : State) : Result :=
  .next (gate s (.routeSet c tbl) c (fun s j => doRouteSet s j tbl))

/-- GROUP_SET (R135). -/
def execGroupSet (c : Cmd) (s : State) : Result := .next (gate s (.groupSet c) c (fun s j => doGroupSet s j))

/-- TIME_CFG (R67). -/
def execTimeCfg (c : Cmd) (s : State) : Result := .next (gate s (.timeCfg c) c (fun s j => doTimeCfg s j))

/-- TEPHRA_CFG (R136). -/
def execTephraCfg (c : Cmd) (s : State) : Result := .next (gate s (.tephraCfg c) c (fun s j => doTephraCfg s j))

/-- TOUCH_MAP (R373). -/
def execTouchMap (c : Cmd) (s : State) : Result := .next (gate s (.touchMap c) c (fun s j => doTouchMap s j))

/-- TOUCH_REF_LOAD (R382); img is what the host image holds. -/
def execTouchRefLoad (c : Cmd) (img : List Byte) (s : State) : Result :=
  .next (gate s (.touchRefLoad c img) c (fun s j => doTouchRef s j img))

/-- MIRROR_CFG (R361). -/
def execMirrorCfg (c : Cmd) (s : State) : Result := .next (gate s (.mirrorCfg c) c (fun s j => doMirrorCfg s j))

end Machine
end Sys2Proof
end

