-- ==== Sys2Proof/Machine/RunHost.lean ====
section
/-! DEFINITION. Rings, doorbells and register accesses of the host: the meaning of each. -/

namespace Sys2Proof
namespace Machine

/-- SQ_TAIL_DOORBELL (R270). -/
def execSqTailDoorbell (f : Fin 2) (q : Fin 64) (v : U32) (aligned : Bool) (s : State) : Result :=
  .next (hostTlp s (fun s => sqDoorbell s f.val q.val v.toNat aligned))

/-- DESCRIPTOR_FETCH (R270); under DORMANT_ENTER nothing is fetched (R399). -/
def execDescriptorFetch (desc : BitVec 512) (err : Bool) (s : State) : Result :=
  .next (if s.sys.dorm.isSome then s else onDomain s 2 (fun s => doFetch s desc err))

/-- CQ_HEAD_DOORBELL (R273). -/
def execCqHeadDoorbell (f : Fin 2) (q : Fin 64) (v : U32) (aligned : Bool) (s : State) : Result :=
  .next (hostTlp s (fun s => cqDoorbell s f.val q.val v.toNat aligned))

/-- EVENT_RING_HEAD_DOORBELL (R286). -/
def execEventRingHeadDoorbell (f : Fin 2) (v : U32) (aligned : Bool) (s : State) : Result :=
  .next (hostTlp s (fun s => evqDoorbell s 0 f.val v.toNat aligned))

/-- COMPLETION_WRITE (R272). -/
def execCompletionWrite (f : Fin 2) (q : Fin 64) (s : State) : Result :=
  .next (onDomain s 2 (fun s => doCompletion s f.val q.val))

/-- CQ_COALESCE_TIMEOUT (R276). -/
def execCqCoalesceTimeout (f : Fin 2) (ring : CoalRing) (s : State) : Result :=
  .next (onDomain s 2 (fun s => doCoalesce s f.val ring))

/-- REGISTER_WRITE (R321). -/
def execRegisterWrite (a : Acc) (off : BitVec 24) (size : Nat) (full : Bool) (v : U64) (s : State) : Result :=
  .next (accWrite s a off.toNat size full v.toNat)

/-- RING_ENABLE (R267). -/
def execRingEnable (a : Acc) (f : Fin 2) (ring : RingSel) (v : U32) (s : State) : Result :=
  .next (rowWrite s a (ringCtrlOff f.val ring) v)

/-- SYS_RESET (R288). -/
def execSysReset (a : Acc) (v : U32) (s : State) : Result := .next (rowWrite s a Reg.SYS_RESET v)

/-- WINDOW_ACCESS (R126). -/
def execWindowAccess (f : Fin 2) (doorbell : Bool) (addr : U32) (write : Bool) (size : Nat) (full : Bool) (v : U64) (s : State) : Result :=
  .next (tlpWakes (onLinks s (fun s => doWindowAccess s f.val doorbell addr.toNat write size full v.toNat)))

/-- PCIE_LINK_UP (R262). -/
def execPcieLinkUp (s : State) : Result := .next (onLinks s (fun s => if s.sys.power.cut then s else doPcieLinkUp s))

end Machine
end Sys2Proof
end

