-- ==== Sys2Proof/Machine/RunLinks.lean ====
section
/-! DEFINITION. Events of the links, the router and the time base: the meaning of each. -/

namespace Sys2Proof
namespace Machine

/-- PACKET_RECEIVE (R117). -/
def execPacketReceive (l : Fin 11) (p : Packet) (crc : U32) (abt : Bool) (s : State) : Result :=
  .next (onDomain s 9 (fun s => onLinks s (fun s => doPacketReceive s l.val p crc abt)))

/-- LINK_CRC_WINDOW_END (R115). -/
def execLinkCrcWindowEnd (l : Fin 11) (s : State) : Result := .next (onDomain s 9 (fun s => doCrcWindowEnd s l.val))

/-- PACKET_END (R114). -/
def execPacketEnd (l : Fin 11) (s : State) : Result := .next (onDomain s 9 (fun s => doPacketEnd s l.val))

/-- SKP (R106). -/
def execSkp (l : Fin 11) (s : State) : Result := .next (onDomain s 9 (fun s => doSkp s l.val))

/-- REORDER_RELEASE (R133). -/
def execReorderRelease (l : Fin 11) (s : State) : Result := .next (onDomain s 9 (fun s => doReorderRelease s l.val))

/-- TRAINING_STATE_ADVANCE (R107). -/
def execTrainingStateAdvance (l : Fin 11) (obs : TrainObs) (s : State) : Result :=
  .next (onLinks s (fun s => trainAdvance (powerFabric s) l.val obs))

/-- LINK_TRAIN_TIMEOUT (R107). -/
def execLinkTrainTimeout (l : Fin 11) (s : State) : Result :=
  .next (onDomain s 9 (fun s => onLinks s (fun s => doTrainTimeout s l.val)))

/-- BACKOFF_EXPIRY (R107). -/
def execBackoffExpiry (l : Fin 11) (s : State) : Result :=
  .next (onDomain s 9 (fun s => onLinks s (fun s => doBackoffExpiry s l.val)))

/-- CAPS_REPEAT (R107). -/
def execCapsRepeat (l : Fin 11) (s : State) : Result := .next (onDomain s 9 (fun s => doCapsRepeat s l.val))

/-- CAPS (R110). -/
def execCaps (l : Fin 11) (payload : BitVec 256) (s : State) : Result :=
  .next (onDomain s 9 (fun s => onLinks s (fun s => doCaps s l.val (leBytes 32 payload.toNat))))

/-- CODE_ERROR (R112). -/
def execCodeError (l : Fin 11) (lane : Fin 2) (symbol : Nat) (s : State) : Result :=
  .next (onDomain s 9 (fun s => onLinks s (fun s => codeErrorBase s l.val lane.val symbol)))

/-- LOCK_LOST (R112). -/
def execLockLost (l : Fin 11) (_lane : Fin 2) (s : State) : Result :=
  .next (onDomain s 9 (fun s => onLinks s (fun s => linkLockLost s l.val)))

/-- SYNC (R49). -/
def execSync (l : Fin 11) (payload : BitVec 256) (s : State) : Result :=
  .next (onDomain s 9 (fun s => doSync s l.val (leBytes 32 payload.toNat)))

/-- REPLY (R50). -/
def execReply (l : Fin 11) (payload : BitVec 256) (s : State) : Result :=
  .next (onDomain s 9 (fun s => doReply s l.val (leBytes 32 payload.toNat)))

/-- TIME_EXCHANGE_PERIOD (R54). -/
def execTimeExchangePeriod (s : State) : Result := .next (onDomain s 9 (fun s => followTime (doExchangePeriod s)))

/-- HOLDOVER_LIMIT_EXPIRY (R54). -/
def execHoldoverLimitExpiry (s : State) : Result := .next (onDomain s 9 (fun s => followTime (doHoldoverExpiry s)))

/-- MGMT_REQUEST (R128). -/
def execMgmtRequest (l : Option (Fin 11)) (p : Packet) (s : State) : Result :=
  .next (onDomain s 9 (fun s => onLinks s (fun s => doMgmtRequest s (l.map (·.val)) p)))

/-- RESP (R128). -/
def execResp (r : Delivered) (s : State) : Result := .next (onDomain s 9 (fun s => doResp s (r.link.map (·.val)) r.pkt))

/-- MGMT_RETRY_TIMEOUT (R128) of a flow and peer; flow 2 stands for the requester of the directed requests of window peer.
(DEDUCED: log entry 41.) -/
def execMgmtRetryTimeout (flow : Fin 3) (peer : BitVec 10) (s : State) : Result :=
  .next (onDomain s 9 (fun s => doRetryTimeout s (if flow = 2 then directedReq s peer.toNat else mgmtKey flow.val peer.toNat)))

/-- EVENT_PACKET (R132). -/
def execEventPacket (p : Packet) (s : State) : Result := .next (onDomain s 9 (fun s => doEventPacket s p))

end Machine
end Sys2Proof
end

