-- ==== Sys2Proof/Machine/RunMemory.lean ====
section
/-! DEFINITION. Events of the memory controller: the meaning of each. -/

namespace Sys2Proof
namespace Machine

/-- MEMORY_REQUEST (R295). -/
def execMemoryRequest (mid : BitVec 6) (addr : BitVec 40) (len : Nat) (write : Bool) (data : List Byte) (s : State) : Result :=
  .next (onDomain s 2 (fun s => doMasterRequest s mid.toNat addr.toNat len write data))

/-- CHANNEL_ISSUE (R299). -/
def execChannelIssue (ch : Fin 24) (ecc : Ecc) (s : State) : Result := .next (onDomain s 4 (fun s => doChannelIssue s ch.val ecc))

/-- COMMAND_ERROR (R306, R307): in a channel, or in shared state, which counts as channel 0. -/
def execCommandError (ch : Option (Fin 24)) (what : MemStruct) (s : State) : Result :=
  .next (onDomain s 4 (fun s => doCommandError s (ch.elim 0 (·.val)) what))

/-- THROTTLE_EXPIRY (R304). -/
def execThrottleExpiry (mid : BitVec 6) (s : State) : Result := .next (onDomain s 4 (fun s => doThrottleExpiry s mid.toNat))

/-- SCRUB_READ (R302). -/
def execScrubRead (ch : Fin 24) (ecc : Ecc) (s : State) : Result := .next (onDomain s 4 (fun s => doScrub s ch.val ecc))

/-- REFRESH (R311). -/
def execRefresh (ch : Fin 24) (bank : Fin 16) (s : State) : Result := .next (onDomain s 4 (fun s => doRefresh s ch.val bank.val))

/-- CHANNEL_RETRAIN (R310). -/
def execChannelRetrain (ch : Fin 24) (obs : RetrainObs) (s : State) : Result :=
  .next (onDomain s 4 (fun s => doRetrain s ch.val obs.temp obs.drift))

/-- CHANNEL_RETRAIN_END (R310). -/
def execChannelRetrainEnd (ch : Fin 24) (ns : U16) (s : State) : Result :=
  .next (onDomain s 4 (fun s => doRetrainEnd s ch.val ns.toNat))

/-- MEMORY_TRAINING_END (R309). -/
def execMemoryTrainingEnd (density : List Nat) (obs : DramObs) (s : State) : Result :=
  .next (onDomain s 2 (fun s => doTrainingEnd s density obs.temps (obs.failed.map (fun e => (e.1.val, e.2.toNat)))))

/-- SEGMENT_INITIALIZED (R314). -/
def execSegmentInitialized (s : State) : Result := .next (onDomain s 4 (fun s => doSegment s))

end Machine
end Sys2Proof
end

