-- ==== Sys2Proof/Machine/RunMirror.lean ====
section
/-! DEFINITION. Events of the pair and the mirror channel: the meaning of each. -/

namespace Sys2Proof
namespace Machine

/-- MIRROR_PACKET (R357). -/
def execMirrorPacket (p : Packet) (s : State) : Result := .next (onDomain s 9 (fun s => mirrorIn s p))

/-- RESYNC_REQ (R357). -/
def execResyncReq (s : State) : Result := .next (onDomain s 9 (fun s => doResyncReq s))

/-- MIRROR_ACK (R359). -/
def execMirrorAck (p : Packet) (s : State) : Result := .next (onDomain s 9 (fun s => doMirrorAck s p))

/-- ACK_TIMEOUT (R359). -/
def execAckTimeout (s : State) : Result := .next (onDomain s 9 (fun s => doAckTimeout s))

/-- AUTO_CLAIM (R346). -/
def execAutoClaim (s : State) : Result := .next (doAutoClaim s)

/-- ACTING_OWNER (R346). -/
def execActingOwner (s : State) : Result := .next (doActingOwner s)

/-- PAIR_CONFLICT (R347). -/
def execPairConflict (s : State) : Result := .next (doPairConflict s)

/-- PAIR_OWN_I_RISE (R346). -/
def execPairOwnIRise (s : State) : Result := .next (doOwnIRise s)

/-- RELINQUISH (R352). -/
def execRelinquish (trig : Fin 12) (s : State) : Result := .next (doRelinquish s trig.val)

/-- TIME_UNLOCK_LIMIT_EXPIRY (R351). -/
def execTimeUnlockLimitExpiry (s : State) : Result := .next (onDomain s 9 (fun s => doUnlockExpiry s))

/-- NM0_WATCHDOG (R351). -/
def execNm0Watchdog (s : State) : Result := .next (doWatchdog s)

/-- STATE_DISAGREE (R362). -/
def execStateDisagree (kind : Fin 3) (idx : Byte) (s : State) : Result :=
  .next (onDomain s 2 (fun s => doStateDisagree s kind.val idx.toNat))

end Machine
end Sys2Proof
end

