-- ==== Sys2Proof/Machine/RunOutput.lean ====
section
/-! DEFINITION. Commands of composition, scan-out, Fumarole and the checks: the meaning of each. -/

namespace Sys2Proof
namespace Machine

/-- STATE_LOAD (R204); buf is what the host buffer holds. -/
def execStateLoad (c : Cmd) (buf : List Byte) (s : State) : Result :=
  .next (gate s (.stateLoad c buf) c (fun s j => doStateLoad s j buf))

/-- COMMIT (R206). -/
def execCommit (c : Cmd) (s : State) : Result := .next (gate s (.commit c) c (fun s j => doCommit s j))

/-- LIVE_SET (R212). -/
def execLiveSet (c : Cmd) (s : State) : Result := .next (gate s (.liveSet c) c (fun s j => doLiveSet s j))

/-- SLATE_LOAD (R216); img is what the host image holds. -/
def execSlateLoad (c : Cmd) (img : List Byte) (s : State) : Result :=
  .next (gate s (.slateLoad c img) c (fun s j => doSlateLoad s j img))

/-- MODE_SET (R226). -/
def execModeSet (c : Cmd) (s : State) : Result := .next (gate s (.modeSet c) c (fun s j => wakeOutputs (doModeSet s j)))

/-- FUM_POLICY (R39). -/
def execFumPolicy (c : Cmd) (s : State) : Result := .next (gate s (.fumPolicy c) c (fun s j => doFumPolicy s j))

/-- FUM_BIND (R40). -/
def execFumBind (c : Cmd) (s : State) : Result := .next (gate s (.fumBind c) c (fun s j => doFumBind s j))

/-- FUM_SNAPSHOT (R41). -/
def execFumSnapshot (c : Cmd) (s : State) : Result := .next (gate s (.fumSnapshot c) c (fun s j => doSnapshot s j))

/-- CHECK_CFG (R250). -/
def execCheckCfg (c : Cmd) (s : State) : Result := .next (gate s (.checkCfg c) c (fun s j => doCheckCfg s j))

end Machine
end Sys2Proof
end

