-- ==== Sys2Proof/Machine/RunPictures.lean ====
section
/-! DEFINITION. Commands of the decode, encode and capture side: the meaning of each. -/

namespace Sys2Proof
namespace Machine

/-- STREAM_OPEN (R174). -/
def execStreamOpen (c : Cmd) (s : State) : Result := .next (gate s (.streamOpen c) c (fun s j => wakeBusy (doStreamOpen s j)))

/-- STREAM_FEED (R175); buf is what the host buffer holds, sets the parameter sets among it (R141). -/
def execStreamFeed (c : Cmd) (buf : List Byte) (sets : FeedSets) (s : State) : Result :=
  .next (gate s (.streamFeed c buf sets) c (fun s j => doFeed s j buf sets))

/-- STREAM_CLOSE (R177). -/
def execStreamClose (c : Cmd) (s : State) : Result := .next (gate s (.streamClose c) c (fun s j => doClose s j))

/-- STREAM_FLUSH (R176). -/
def execStreamFlush (c : Cmd) (s : State) : Result := .next (gate s (.streamFlush c) c (fun s j => doFlush s j))

/-- SURFACE_POOL (R178). -/
def execSurfacePool (c : Cmd) (s : State) : Result := .next (gate s (.surfacePool c) c (fun s j => doSurfacePool s j))

/-- ENC_OPEN (R99). -/
def execEncOpen (c : Cmd) (s : State) : Result := .next (gate s (.encOpen c) c (fun s j => wakeBusy (doEncOpen s j)))

/-- ENC_PARAMS (R100). -/
def execEncParams (c : Cmd) (s : State) : Result := .next (gate s (.encParams c) c (fun s j => doEncParams s j))

/-- ENC_CLOSE (R101). -/
def execEncClose (c : Cmd) (s : State) : Result := .next (gate s (.encClose c) c (fun s j => doEncClose s j))

/-- ENC_OUTBUF (R102). -/
def execEncOutbuf (c : Cmd) (s : State) : Result := .next (gate s (.encOutbuf c) c (fun s j => doEncOutbuf s j))

/-- CAPTURE_CFG (R98); edid is what the EDID image holds. -/
def execCaptureCfg (c : Cmd) (edid : List Byte) (s : State) : Result :=
  .next (gate s (.captureCfg c edid) c (fun s j => wakeBusy (doCaptureCfg s j edid)))

end Machine
end Sys2Proof
end

