-- ==== Sys2Proof/Machine/RunPower.lean ====
section
/-! DEFINITION. Reset, bring-up, power, modes and temperatures: the meaning of each. -/

namespace Sys2Proof
namespace Machine

/-- FULL_RESET (R288). -/
def execFullReset (cause : ResetCause) (s : State) : Result := .next (doFullReset s cause)

/-- RESET_RELEASE (R396). -/
def execResetRelease (straps : Straps) (calf : BitVec 11) (s : State) : Result := .next (doResetRelease s straps calf.toNat)

/-- BOOT_CHUNK_COPY_END (R264). -/
def execBootChunkCopyEnd (s : State) : Result := .next (onDomain s 2 (fun s => doChunkCopyEnd s))

/-- IMAGE_VERIFICATION_END (R266): the staged image and OTP decide; its operands carry nothing. -/
def execImageVerificationEnd (_key _sig : Unit) (s : State) : Result := .next (onDomain s 2 (fun s => doImageEnd s))

/-- FIRMWARE_UNIT_START (R396). -/
def execFirmwareUnitStart (s : State) : Result := .next (onDomain s 2 (fun s => followTime (doUnitStart s)))

/-- PARITY_SCRUB (R326). -/
def execParityScrub (found : List (BitVec 24)) (s : State) : Result := .next (doParityScrub s (found.map (·.toNat)))

/-- THERMAL_GOVERNOR (R411): the readings of TS0 to TS8 in 1/16 °C. -/
def execThermalGovernor (temps : List Int) (s : State) : Result := .next (doGovernor s temps)

/-- THERMAL_TRIP (R412). -/
def execThermalTrip (s : State) : Result := .next (doThermalTrip s)

/-- DORMANT_THERMAL_TRIP (R413): the reading of TS8 in 1/16 °C. -/
def execDormantThermalTrip (temp : Int) (s : State) : Result := .next (doDormantTrip s temp)

/-- THERMAL_CUT (R414). -/
def execThermalCut (s : State) : Result := .next (doThermalCut s)

/-- PLL_LOCK_LOSS (R406). -/
def execPllLockLoss (p : Pll) (us100 : Bool) (s : State) : Result := .next (doLockLoss s p us100)

/-- PLL_RELOCK (R392). -/
def execPllRelock (p : Pll) (s : State) : Result := .next (doRelock s p)

/-- IDLE_GATING (R388). -/
def execIdleGating (u : PowerUnit) (s : State) : Result := .next (doIdleGating s u)

/-- UNIT_WAKE (R389). -/
def execUnitWake (u : PowerUnit) (s : State) : Result := .next (doUnitWake s u)

/-- DORMANT_POWER_DOWN (R399). -/
def execDormantPowerDown (s : State) : Result := .next (doPowerDown s)

/-- WAKE (R401). -/
def execWake (src : WakeSrc) (s : State) : Result := .next (doWake s src)

/-- RESUME (R404). -/
def execResume (imageOk : Bool) (s : State) : Result := .next (onLinks s (fun s => followTime (doResume s imageOk)))

/-- SUPPLY_DROPOUT (R452). -/
def execSupplyDropout (s : State) : Result := .next (doDropout s)

/-- AON_RESET (R451). -/
def execAonReset (s : State) : Result := .next (doAonReset s)

end Machine
end Sys2Proof
end

