-- ==== Sys2Proof/Machine/RunRegs.lean ====
section
/-! DEFINITION. Commands that are writes of one named register: the meaning of each. -/

namespace Sys2Proof
namespace Machine

/-- BOOTSTRAP_WINDOW_WRITE (R264, R401). -/
def execBootstrapWindowWrite (a : Acc) (off : BitVec 20) (size : Nat) (v : U64) (s : State) : Result :=
  .next (windowWrite s a off.toNat size v)

/-- SYS_BOOT_CHUNK (R264). -/
def execSysBootChunk (a : Acc) (v : U32) (s : State) : Result := .next (rowWrite s a Reg.SYS_BOOT_CHUNK v)

/-- MBX_SEL (R329). -/
def execMbxSel (a : Acc) (m : Fin 4) (v : U32) (s : State) : Result := .next (rowWrite s a (Reg.MBX_SEL + 0x20 * m.val) v)

/-- MAILBOX_LATCH (R329). -/
def execMailboxLatch (bank : Fin 7) (m : Fin 4) (s : State) : Result := .next (doLatch s bank.val m.val)

/-- FUM_LOCK (R25). -/
def execFumLock (a : Acc) (v : U32) (s : State) : Result := .next (rowWrite s a Reg.FUM_LOCK v)

/-- FUM_SELFTEST_RELEASE (R38). -/
def execFumSelftestRelease (a : Acc) (v : U32) (s : State) : Result := .next (rowWrite s a Reg.FUM_SELFTEST_RELEASE v)

/-- FAB_GW_FAIL_RELEASE (R129). -/
def execFabGwFailRelease (a : Acc) (v : U32) (s : State) : Result := .next (rowWrite s a Reg.FAB_GW_FAIL_RELEASE v)

/-- STR_DEC_FAULT_RELEASE (R169). -/
def execStrDecFaultRelease (a : Acc) (v : U32) (s : State) : Result := .next (rowWrite s a Reg.STR_DEC_FAULT_RELEASE v)

/-- CMP_FAULT_RELEASE (R188). -/
def execCmpFaultRelease (a : Acc) (v : U32) (s : State) : Result := .next (rowWrite s a Reg.CMP_FAULT_RELEASE v)

/-- SYS_RAF_RELEASE (R327). -/
def execSysRafRelease (a : Acc) (v : U32) (s : State) : Result := .next (rowWrite s a Reg.SYS_RAF_RELEASE v)

/-- SYS_MPU_RELEASE (R338). -/
def execSysMpuRelease (a : Acc) (v : U32) (s : State) : Result := .next (rowWrite s a Reg.SYS_MPU_RELEASE v)

/-- SYS_MPU_CTRL (R335). -/
def execSysMpuCtrl (a : Acc) (r : Fin 64) (v : U32) (s : State) : Result :=
  .next (rowWrite s a (Reg.SYS_MPU_CTRL + 0x20 * r.val) v)

/-- FAB_NODE_ADDR (R123). -/
def execFabNodeAddr (a : Acc) (v : U32) (s : State) : Result := .next (rowWrite s a Reg.FAB_NODE_ADDR v)

/-- DOMAIN_CLAIM (R125): a write of FAB_DOMAIN by an MGMT request of a domain. -/
def execDomainClaim (priv : Bool) (dom : BitVec 10) (v : U32) (s : State) : Result :=
  .next (onDomain s 9 (fun s => (domainRequest s priv dom.toNat v.toNat).1))

/-- LINK_ENABLE (R107). -/
def execLinkEnable (a : Acc) (l : Fin 11) (v : U32) (s : State) : Result :=
  .next (rowWrite s a (Reg.FAB_LINK_CTRL + 0x100 * l.val) v)

/-- LINK_RETRAIN (R107). -/
def execLinkRetrain (a : Acc) (l : Fin 11) (v : U32) (s : State) : Result :=
  .next (rowWrite s a (Reg.FAB_LINK_CTRL + 0x100 * l.val) v)

/-- EDID_READ (R237). -/
def execEdidRead (a : Acc) (n : Fin 8) (v : U32) (s : State) : Result := .next (rowWrite s a (Reg.OUT_DP_CTRL + 0x100 * n.val) v)

/-- DP_RETRAIN (R235). -/
def execDpRetrain (a : Acc) (n : Fin 8) (v : U32) (s : State) : Result := .next (rowWrite s a (Reg.OUT_DP_CTRL + 0x100 * n.val) v)

/-- PAIR_CLAIM (R346). -/
def execPairClaim (a : Acc) (v : U32) (s : State) : Result := .next (rowWrite s a Reg.EDG_PAIR_CTRL v)

/-- PAIR_RELEASE (R351). -/
def execPairRelease (a : Acc) (v : U32) (s : State) : Result := .next (rowWrite s a Reg.EDG_PAIR_CTRL v)

/-- SYS_LIFECYCLE_ADV (R339). -/
def execSysLifecycleAdv (a : Acc) (v : U32) (s : State) : Result := .next (rowWrite s a Reg.SYS_LIFECYCLE_ADV v)

/-- DAP_EN (R339). -/
def execDapEn (a : Acc) (v : U32) (s : State) : Result := .next (rowWrite s a Reg.SYS_DEBUG_CTRL v)

/-- EDG_AON_CLEAR (R407). -/
def execEdgAonClear (a : Acc) (v : U32) (s : State) : Result := .next (rowWrite s a Reg.EDG_AON_CLEAR v)

/-- CMP_SLATE_BASE (R216). -/
def execCmpSlateBase (a : Acc) (v : U32) (s : State) : Result := .next (rowWrite s a Reg.CMP_SLATE_BASE v)

/-- RECAL (R423). -/
def execRecal (a : Acc) (l : Fin 11) (v : U32) (s : State) : Result := .next (rowWrite s a (Reg.FAB_LANE_CTRL + 0x10 * l.val) v)

/-- LANE_OVERRIDE (R430). -/
def execLaneOverride (a : Acc) (l : Fin 11) (v : U32) (s : State) : Result :=
  .next (rowWrite s a (Reg.FAB_LANE_CTRL + 0x10 * l.val) v)

/-- OUT_DP_TRIM_OVR (R421). -/
def execOutDpTrimOvr (a : Acc) (n : Fin 8) (v : U32) (s : State) : Result :=
  .next (rowWrite s a (Reg.OUT_DP_TRIM_OVR + 0x100 * n.val) v)

/-- TOUCH_ENABLE (R380). -/
def execTouchEnable (a : Acc) (t : Fin 2) (v : U32) (s : State) : Result := .next (rowWrite s a (tchOff Reg.EDG_TCH_CTRL t.val) v)

/-- TOUCH_DISABLE (R372). -/
def execTouchDisable (a : Acc) (t : Fin 2) (v : U32) (s : State) : Result :=
  .next (rowWrite s a (tchOff Reg.EDG_TCH_CTRL t.val) v)

/-- TOUCH_HOLD (R382). -/
def execTouchHold (a : Acc) (t : Fin 2) (v : U32) (s : State) : Result := .next (rowWrite s a (tchOff Reg.EDG_TCH_CTRL t.val) v)

/-- DAP_CMD (R340). -/
def execDapCmd (w : U64) (s : State) : Result := .next (onLinks s (fun s => doDapCmd s w.toNat))

/-- DAP_DATA (R340). -/
def execDapData (w : U32) (s : State) : Result := .next (onLinks s (fun s => doDapData s w))

end Machine
end Sys2Proof
end

