-- ==== Sys2Proof/Machine/RunScan.lean ====
section
/-! DEFINITION. Events of Fumarole, composition, scan-out and the checks: the meaning of each. -/

namespace Sys2Proof
namespace Machine

/-- FUMAROLE_TICK (R17). -/
def execFumaroleTick (s : State) : Result := .next (doTick s)

/-- RECORD_LATCH (R186). -/
def execRecordLatch (tile : Fin 4096) (s : State) : Result := .next (onDomain s 7 (fun s => doRecordLatch s tile.val))

/-- SCAN_START (R18). -/
def execScanStart (tile : Fin 4096) (s : State) : Result := .next (onDomain s 7 (fun s => doScanStart s tile.val))

/-- TILE_EVENT_WINDOW_END (R44). -/
def execTileEventWindowEnd (tile : Fin 4096) (s : State) : Result := .next (onDomain s 7 (fun s => doTileWindowEnd s tile.val))

/-- OUTPUT_LINE (R214). -/
def execOutputLine (n : Fin 8) (y : Nat) (late : List (Fin 4096)) (linkXor : U16 × U16 × U16) (s : State) : Result :=
  .next (onDomain s 7 (fun s => doOutputLine s n.val y (late.map (·.val)) linkXor))

/-- FRAME_START (R61). -/
def execFrameStart (n : Fin 8) (s : State) : Result := .next (onDomain s 7 (fun s => wakeBusy (doFrameStart s n.val)))

/-- VBLANK_LINE_BOUNDARY (R222). -/
def execVblankLineBoundary (n : Fin 8) (s : State) : Result := .next (onDomain s 7 (fun s => doVblankLine s n.val))

/-- COMMIT_VALIDATION (R207). -/
def execCommitValidation (p : Fin 8) (s : State) : Result := .next (onDomain s 7 (fun s => doCommitValidation s p.val))

/-- COMMIT_APPLY (R209). -/
def execCommitApply (n : Fin 8) (s : State) : Result := .next (onDomain s 7 (fun s => doCommitApply s n.val))

/-- MODE_SET_APPLY (R228). -/
def execModeSetApply (n : Fin 8) (s : State) : Result := .next (onDomain s 7 (fun s => doModeSetApply (wakeOutputs s) n.val))

/-- CHECK_CFG_APPLY (R252). -/
def execCheckCfgApply (k : Fin 128) (s : State) : Result := .next (onDomain s 7 (fun s => doCheckCfgApply s k.val))

/-- CHECK_RESULT (R243). -/
def execCheckResult (k : Fin 128) (s : State) : Result := .next (onDomain s 7 (fun s => doCheckResult s k.val))

/-- CHK_RESULT_WINDOW_END (R255). -/
def execChkResultWindowEnd (k : Fin 128) (s : State) : Result := .next (onDomain s 7 (fun s => doChkWindowEnd s k.val))

/-- SLATE_COPY_END (R217). -/
def execSlateCopyEnd (slot : Fin 256) (s : State) : Result := .next (onDomain s 2 (fun s => doSlateCopyEnd s slot.val))

/-- SNAPSHOT_WRITE_END (R41). -/
def execSnapshotWriteEnd (s : State) : Result := .next (onDomain s 7 (fun s => doSnapshotEnd s))

/-- EDID_READ_END (R237). -/
def execEdidReadEnd (n : Fin 8) (res : EdidEnd) (s : State) : Result := .next (onDomain s 7 (fun s => doEdidEnd s n.val res))

/-- HPD_UNPLUG (R235). -/
def execHpdUnplug (n : Fin 8) (s : State) : Result := .next (onDomain s 7 (fun s => doHpdUnplug s n.val))

/-- HPD_PLUG (R235). -/
def execHpdPlug (n : Fin 8) (caps : SinkCaps) (s : State) : Result := .next (onDomain s 7 (fun s => doHpdPlug s n.val caps))

/-- IRQ_HPD (R235). -/
def execIrqHpd (n : Fin 8) (lost : Bool) (s : State) : Result := .next (onDomain s 7 (fun s => doIrqHpd s n.val lost))

/-- DP_LINK_TRAINING (R234). -/
def execDpLinkTraining (n : Fin 8) (res : TrainResult) (s : State) : Result :=
  .next (onDomain s 7 (fun s => doDpTraining s n.val res))

/-- TRAINING_RETRY (R234). -/
def execTrainingRetry (n : Fin 8) (s : State) : Result := .next (onDomain s 7 (fun s => doTrainingRetry s n.val))

end Machine
end Sys2Proof
end

