-- ==== Sys2Proof/Machine/RunStreams.lean ====
section
/-! DEFINITION. Events of capture, encoding and decoding: the meaning of each. -/

namespace Sys2Proof
namespace Machine

/-- CAPTURE_PICTURE_START (R76). -/
def execCapturePictureStart (p : Fin 4) (m : Msa) (s : State) : Result := .next (onDomain s 6 (fun s => doCapStart s p.val m))

/-- CAPTURE_BAND (R75). -/
def execCaptureBand (p : Fin 4) (elems : List (List (List U16))) (s : State) : Result :=
  .next (onDomain s 6 (fun s => doCapBand s p.val elems))

/-- CAP_SIGNAL_LOSS (R79). -/
def execCapSignalLoss (p : Fin 4) (s : State) : Result := .next (onDomain s 6 (fun s => doCapLoss s p.val))

/-- HPD_PULSE_END (R74). -/
def execHpdPulseEnd (p : Fin 4) (s : State) : Result := .next (onDomain s 6 (fun s => doHpdPulseEnd s p.val))

/-- SINK_LINK_TRAINING (R71). -/
def execSinkLinkTraining (p : Fin 4) (trained : Bool) (rate : Fin 4) (lanes : Nat) (s : State) : Result :=
  .next (onDomain s 6 (fun s => doSinkTraining s p.val trained rate.val lanes))

/-- ENC_PICTURE_START (R81). -/
def execEncPictureStart (h : Fin 8) (s : State) : Result := .next (onDomain s 6 (fun s => doEncStart s h.val))

/-- SLICE_CODING (R88). -/
def execSliceCoding (h : Fin 8) (sl : CodedSlice) (s : State) : Result := .next (onDomain s 6 (fun s => doSliceCoding s h.val sl))

/-- SLICE_READY (R93). -/
def execSliceReady (h : Fin 8) (params nal : List Byte) (s : State) : Result :=
  .next (onDomain s 6 (fun s => doSliceReady s h.val params nal))

/-- KEEPALIVE_PICTURE (R90). -/
def execKeepalivePicture (h : Fin 8) (s : State) : Result := .next (onDomain s 6 (fun s => doKeepalive s h.val))

/-- KEEPALIVE_EXPIRY (R90). -/
def execKeepaliveExpiry (h : Fin 8) (s : State) : Result := .next (onDomain s 6 (fun s => doKeepExpiry s h.val))

/-- PICTURE_START (R154). -/
def execPictureStart (e : Fin 8) (ready : List (Fin 256 × PicInfo)) (s : State) : Result :=
  .next (onDomain s 5 (fun s => doPictureStart s e.val (ready.map (fun r => (r.1.val, r.2)))))

/-- SLICE_DECODE (R160). -/
def execSliceDecode (e : Fin 8) (sl : SliceInfo) (s : State) : Result := .next (onDomain s 5 (fun s => doSlice s e.val sl))

/-- STALL_LIMIT (R154). -/
def execStallLimit (o : StallObs) (s : State) : Result := .next (onDomain s 5 (fun s => doStallLimit s o.eng.val o.whole))

/-- DEC_CONCEAL_WINDOW_END (R179). -/
def execDecConcealWindowEnd (k : Fin 256) (s : State) : Result := .next (onDomain s 5 (fun s => doConcealEnd s k.val))

/-- STREAM_DEMUX (R149). -/
def execStreamDemux (p : Packet) (s : State) : Result := .next (onDomain s 9 (fun s => doDemux s p))

/-- RASTER_PACKET (R124). -/
def execRasterPacket (p : Packet) (s : State) : Result := .next (onDomain s 9 (fun s => doRaster s p))

end Machine
end Sys2Proof
end

