-- ==== Sys2Proof/Machine/RunTouch.lean ====
section
/-! DEFINITION. Scans of the touch ports, and the receiver lanes: the meaning of each. -/

namespace Sys2Proof
namespace Machine

/-- SCAN_CYCLE (R371). -/
def execScanCycle (t : Fin 2) (nodes selfs noise : List U16) (s : State) : Result :=
  .next (onDomain s 1 (fun s => doScanCycle s t.val (nodes.map (·.toNat)) (selfs.map (·.toNat)) (noise.map (·.toNat))))

/-- WAKE_SCAN (R384). -/
def execWakeScan (sense drive : List U16) (s : State) : Result := .next (doWakeScan s (sense.map (·.toNat)) (drive.map (·.toNat)))

/-- LANE_TEMP_CHECK (R423): the reading in 1/16 °C. -/
def execLaneTempCheck (l : Fin 11) (lane : Fin 2) (temp : Int) (s : State) : Result :=
  .next (onDomain s 9 (fun s => doLaneTemp s l.val lane.val temp))

/-- CLASS_T_RUN (R426). -/
def execClassTRun (l : Fin 11) (lane : Fin 2) (eye : Eye) (s : State) : Result :=
  .next (onDomain s 9 (fun s => doClassT s l.val lane.val eye))

/-- EYE_SCAN (R424). -/
def execEyeScan (l : Fin 11) (lane : Fin 2) (eye : Eye) (s : State) : Result :=
  .next (onDomain s 9 (fun s => doLaneScan s l.val lane.val eye))

/-- CORRECTION_STEP (R427). -/
def execCorrectionStep (l : Fin 11) (lane : Fin 2) (s : State) : Result :=
  .next (onDomain s 9 (fun s => doCorrection s l.val lane.val))

end Machine
end Sys2Proof
end

