-- ==== Sys2Proof/Machine/Dispatch.lean ====
section
/-! DEFINITION. The meaning of each command: one arm per constructor of Instr. -/

namespace Sys2Proof.Machine

/-- What a command does to everything but the queue. -/
def exec (i : Instr) (s : State) : Host.Outcome State Fault Refusal :=
  match i with
  | .nop c => Sys2Proof.Machine.execNop c s
  | .fence c => Sys2Proof.Machine.execFence c s
  | .unknownOpcode c => Sys2Proof.Machine.execUnknownOpcode c s
  | .streamOpen c => Sys2Proof.Machine.execStreamOpen c s
  | .streamFeed c buf sets => Sys2Proof.Machine.execStreamFeed c buf sets s
  | .streamClose c => Sys2Proof.Machine.execStreamClose c s
  | .streamFlush c => Sys2Proof.Machine.execStreamFlush c s
  | .surfacePool c => Sys2Proof.Machine.execSurfacePool c s
  | .encOpen c => Sys2Proof.Machine.execEncOpen c s
  | .encParams c => Sys2Proof.Machine.execEncParams c s
  | .encClose c => Sys2Proof.Machine.execEncClose c s
  | .encOutbuf c => Sys2Proof.Machine.execEncOutbuf c s
  | .captureCfg c edid => Sys2Proof.Machine.execCaptureCfg c edid s
  | .stateLoad c buf => Sys2Proof.Machine.execStateLoad c buf s
  | .commit c => Sys2Proof.Machine.execCommit c s
  | .liveSet c => Sys2Proof.Machine.execLiveSet c s
  | .slateLoad c img => Sys2Proof.Machine.execSlateLoad c img s
  | .modeSet c => Sys2Proof.Machine.execModeSet c s
  | .fumPolicy c => Sys2Proof.Machine.execFumPolicy c s
  | .fumBind c => Sys2Proof.Machine.execFumBind c s
  | .fumSnapshot c => Sys2Proof.Machine.execFumSnapshot c s
  | .checkCfg c => Sys2Proof.Machine.execCheckCfg c s
  | .routeSet c tbl => Sys2Proof.Machine.execRouteSet c tbl s
  | .groupSet c => Sys2Proof.Machine.execGroupSet c s
  | .timeCfg c => Sys2Proof.Machine.execTimeCfg c s
  | .tephraCfg c => Sys2Proof.Machine.execTephraCfg c s
  | .touchMap c => Sys2Proof.Machine.execTouchMap c s
  | .touchRefLoad c img => Sys2Proof.Machine.execTouchRefLoad c img s
  | .mirrorCfg c => Sys2Proof.Machine.execMirrorCfg c s
  | .dormantEnter c => Sys2Proof.Machine.execDormantEnter c s
  | .memWrite c buf => Sys2Proof.Machine.execMemWrite c buf s
  | .memRead c => Sys2Proof.Machine.execMemRead c s
  | .serviceEnter c => Sys2Proof.Machine.execServiceEnter c s
  | .serviceExit c => Sys2Proof.Machine.execServiceExit c s
  | .sqTailDoorbell f q v aligned => Sys2Proof.Machine.execSqTailDoorbell f q v aligned s
  | .descriptorFetch desc err => Sys2Proof.Machine.execDescriptorFetch desc err s
  | .cqHeadDoorbell f q v aligned => Sys2Proof.Machine.execCqHeadDoorbell f q v aligned s
  | .eventRingHeadDoorbell f v aligned => Sys2Proof.Machine.execEventRingHeadDoorbell f v aligned s
  | .completionWrite f q => Sys2Proof.Machine.execCompletionWrite f q s
  | .cqCoalesceTimeout f ring => Sys2Proof.Machine.execCqCoalesceTimeout f ring s
  | .registerWrite a off size full v => Sys2Proof.Machine.execRegisterWrite a off size full v s
  | .ringEnable a f ring v => Sys2Proof.Machine.execRingEnable a f ring v s
  | .sysReset a v => Sys2Proof.Machine.execSysReset a v s
  | .fullReset cause => Sys2Proof.Machine.execFullReset cause s
  | .bootstrapWindowWrite a off size v => Sys2Proof.Machine.execBootstrapWindowWrite a off size v s
  | .sysBootChunk a v => Sys2Proof.Machine.execSysBootChunk a v s
  | .imageVerificationEnd key sig => Sys2Proof.Machine.execImageVerificationEnd key sig s
  | .firmwareUnitStart => Sys2Proof.Machine.execFirmwareUnitStart s
  | .mbxSel a m v => Sys2Proof.Machine.execMbxSel a m v s
  | .mailboxLatch bank m => Sys2Proof.Machine.execMailboxLatch bank m s
  | .fumLock a v => Sys2Proof.Machine.execFumLock a v s
  | .fumSelftestRelease a v => Sys2Proof.Machine.execFumSelftestRelease a v s
  | .fabGwFailRelease a v => Sys2Proof.Machine.execFabGwFailRelease a v s
  | .strDecFaultRelease a v => Sys2Proof.Machine.execStrDecFaultRelease a v s
  | .cmpFaultRelease a v => Sys2Proof.Machine.execCmpFaultRelease a v s
  | .sysRafRelease a v => Sys2Proof.Machine.execSysRafRelease a v s
  | .sysMpuRelease a v => Sys2Proof.Machine.execSysMpuRelease a v s
  | .sysMpuCtrl a r v => Sys2Proof.Machine.execSysMpuCtrl a r v s
  | .fabNodeAddr a v => Sys2Proof.Machine.execFabNodeAddr a v s
  | .domainClaim priv dom v => Sys2Proof.Machine.execDomainClaim priv dom v s
  | .linkEnable a l v => Sys2Proof.Machine.execLinkEnable a l v s
  | .linkRetrain a l v => Sys2Proof.Machine.execLinkRetrain a l v s
  | .edidRead a n v => Sys2Proof.Machine.execEdidRead a n v s
  | .edidReadEnd n res => Sys2Proof.Machine.execEdidReadEnd n res s
  | .dpRetrain a n v => Sys2Proof.Machine.execDpRetrain a n v s
  | .pairClaim a v => Sys2Proof.Machine.execPairClaim a v s
  | .pairRelease a v => Sys2Proof.Machine.execPairRelease a v s
  | .sysLifecycleAdv a v => Sys2Proof.Machine.execSysLifecycleAdv a v s
  | .dapEn a v => Sys2Proof.Machine.execDapEn a v s
  | .edgAonClear a v => Sys2Proof.Machine.execEdgAonClear a v s
  | .cmpSlateBase a v => Sys2Proof.Machine.execCmpSlateBase a v s
  | .recal a l v => Sys2Proof.Machine.execRecal a l v s
  | .laneOverride a l v => Sys2Proof.Machine.execLaneOverride a l v s
  | .outDpTrimOvr a n v => Sys2Proof.Machine.execOutDpTrimOvr a n v s
  | .touchEnable a t v => Sys2Proof.Machine.execTouchEnable a t v s
  | .touchDisable a t v => Sys2Proof.Machine.execTouchDisable a t v s
  | .touchHold a t v => Sys2Proof.Machine.execTouchHold a t v s
  | .dapCmd w => Sys2Proof.Machine.execDapCmd w s
  | .dapData w => Sys2Proof.Machine.execDapData w s
  | .windowAccess f doorbell addr write size full v => Sys2Proof.Machine.execWindowAccess f doorbell addr write size full v s
  | .pcieLinkUp => Sys2Proof.Machine.execPcieLinkUp s
  | .packetReceive l p crc abt => Sys2Proof.Machine.execPacketReceive l p crc abt s
  | .linkCrcWindowEnd l => Sys2Proof.Machine.execLinkCrcWindowEnd l s
  | .packetEnd l => Sys2Proof.Machine.execPacketEnd l s
  | .skp l => Sys2Proof.Machine.execSkp l s
  | .reorderRelease l => Sys2Proof.Machine.execReorderRelease l s
  | .trainingStateAdvance l obs => Sys2Proof.Machine.execTrainingStateAdvance l obs s
  | .linkTrainTimeout l => Sys2Proof.Machine.execLinkTrainTimeout l s
  | .backoffExpiry l => Sys2Proof.Machine.execBackoffExpiry l s
  | .capsRepeat l => Sys2Proof.Machine.execCapsRepeat l s
  | .caps l payload => Sys2Proof.Machine.execCaps l payload s
  | .codeError l lane symbol => Sys2Proof.Machine.execCodeError l lane symbol s
  | .lockLost l lane => Sys2Proof.Machine.execLockLost l lane s
  | .sync l payload => Sys2Proof.Machine.execSync l payload s
  | .reply l payload => Sys2Proof.Machine.execReply l payload s
  | .timeExchangePeriod => Sys2Proof.Machine.execTimeExchangePeriod s
  | .holdoverLimitExpiry => Sys2Proof.Machine.execHoldoverLimitExpiry s
  | .mgmtRequest l p => Sys2Proof.Machine.execMgmtRequest l p s
  | .resp r => Sys2Proof.Machine.execResp r s
  | .mgmtRetryTimeout flow peer => Sys2Proof.Machine.execMgmtRetryTimeout flow peer s
  | .eventPacket p => Sys2Proof.Machine.execEventPacket p s
  | .streamDemux p => Sys2Proof.Machine.execStreamDemux p s
  | .rasterPacket p => Sys2Proof.Machine.execRasterPacket p s
  | .mirrorPacket p => Sys2Proof.Machine.execMirrorPacket p s
  | .resyncReq => Sys2Proof.Machine.execResyncReq s
  | .mirrorAck p => Sys2Proof.Machine.execMirrorAck p s
  | .ackTimeout => Sys2Proof.Machine.execAckTimeout s
  | .fumaroleTick => Sys2Proof.Machine.execFumaroleTick s
  | .recordLatch tile => Sys2Proof.Machine.execRecordLatch tile s
  | .scanStart tile => Sys2Proof.Machine.execScanStart tile s
  | .tileEventWindowEnd tile => Sys2Proof.Machine.execTileEventWindowEnd tile s
  | .outputLine n y late linkXor => Sys2Proof.Machine.execOutputLine n y late linkXor s
  | .frameStart n => Sys2Proof.Machine.execFrameStart n s
  | .vblankLineBoundary n => Sys2Proof.Machine.execVblankLineBoundary n s
  | .commitValidation p => Sys2Proof.Machine.execCommitValidation p s
  | .commitApply n => Sys2Proof.Machine.execCommitApply n s
  | .modeSetApply n => Sys2Proof.Machine.execModeSetApply n s
  | .checkCfgApply k => Sys2Proof.Machine.execCheckCfgApply k s
  | .checkResult k => Sys2Proof.Machine.execCheckResult k s
  | .chkResultWindowEnd k => Sys2Proof.Machine.execChkResultWindowEnd k s
  | .slateCopyEnd slot => Sys2Proof.Machine.execSlateCopyEnd slot s
  | .snapshotWriteEnd => Sys2Proof.Machine.execSnapshotWriteEnd s
  | .capturePictureStart p m => Sys2Proof.Machine.execCapturePictureStart p m s
  | .captureBand p elems => Sys2Proof.Machine.execCaptureBand p elems s
  | .capSignalLoss p => Sys2Proof.Machine.execCapSignalLoss p s
  | .hpdPulseEnd p => Sys2Proof.Machine.execHpdPulseEnd p s
  | .sinkLinkTraining p trained rate lanes => Sys2Proof.Machine.execSinkLinkTraining p trained rate lanes s
  | .encPictureStart h => Sys2Proof.Machine.execEncPictureStart h s
  | .sliceCoding h sl => Sys2Proof.Machine.execSliceCoding h sl s
  | .sliceReady h params nal => Sys2Proof.Machine.execSliceReady h params nal s
  | .keepalivePicture h => Sys2Proof.Machine.execKeepalivePicture h s
  | .keepaliveExpiry h => Sys2Proof.Machine.execKeepaliveExpiry h s
  | .pictureStart e ready => Sys2Proof.Machine.execPictureStart e ready s
  | .sliceDecode e sl => Sys2Proof.Machine.execSliceDecode e sl s
  | .stallLimit o => Sys2Proof.Machine.execStallLimit o s
  | .decConcealWindowEnd k => Sys2Proof.Machine.execDecConcealWindowEnd k s
  | .hpdUnplug n => Sys2Proof.Machine.execHpdUnplug n s
  | .hpdPlug n caps => Sys2Proof.Machine.execHpdPlug n caps s
  | .irqHpd n lost => Sys2Proof.Machine.execIrqHpd n lost s
  | .dpLinkTraining n res => Sys2Proof.Machine.execDpLinkTraining n res s
  | .trainingRetry n => Sys2Proof.Machine.execTrainingRetry n s
  | .memoryRequest mid addr len write data => Sys2Proof.Machine.execMemoryRequest mid addr len write data s
  | .channelIssue ch ecc => Sys2Proof.Machine.execChannelIssue ch ecc s
  | .commandError ch what => Sys2Proof.Machine.execCommandError ch what s
  | .throttleExpiry mid => Sys2Proof.Machine.execThrottleExpiry mid s
  | .scrubRead ch ecc => Sys2Proof.Machine.execScrubRead ch ecc s
  | .refresh ch bank => Sys2Proof.Machine.execRefresh ch bank s
  | .channelRetrain ch obs => Sys2Proof.Machine.execChannelRetrain ch obs s
  | .memoryTrainingEnd density obs => Sys2Proof.Machine.execMemoryTrainingEnd density obs s
  | .segmentInitialized => Sys2Proof.Machine.execSegmentInitialized s
  | .parityScrub found => Sys2Proof.Machine.execParityScrub found s
  | .autoClaim => Sys2Proof.Machine.execAutoClaim s
  | .actingOwner => Sys2Proof.Machine.execActingOwner s
  | .pairConflict => Sys2Proof.Machine.execPairConflict s
  | .relinquish trig => Sys2Proof.Machine.execRelinquish trig s
  | .nm0Watchdog => Sys2Proof.Machine.execNm0Watchdog s
  | .stateDisagree kind idx => Sys2Proof.Machine.execStateDisagree kind idx s
  | .thermalGovernor temps => Sys2Proof.Machine.execThermalGovernor temps s
  | .thermalTrip => Sys2Proof.Machine.execThermalTrip s
  | .dormantThermalTrip temp => Sys2Proof.Machine.execDormantThermalTrip temp s
  | .thermalCut => Sys2Proof.Machine.execThermalCut s
  | .pllLockLoss p us100 => Sys2Proof.Machine.execPllLockLoss p us100 s
  | .idleGating u => Sys2Proof.Machine.execIdleGating u s
  | .unitWake u => Sys2Proof.Machine.execUnitWake u s
  | .dormantPowerDown => Sys2Proof.Machine.execDormantPowerDown s
  | .wake src => Sys2Proof.Machine.execWake src s
  | .resume imageOk => Sys2Proof.Machine.execResume imageOk s
  | .supplyDropout => Sys2Proof.Machine.execSupplyDropout s
  | .aonReset => Sys2Proof.Machine.execAonReset s
  | .scanCycle t nodes selfs noise => Sys2Proof.Machine.execScanCycle t nodes selfs noise s
  | .wakeScan sense drive => Sys2Proof.Machine.execWakeScan sense drive s
  | .laneTempCheck l lane temp => Sys2Proof.Machine.execLaneTempCheck l lane temp s
  | .classTRun l lane eye => Sys2Proof.Machine.execClassTRun l lane eye s
  | .eyeScan l lane eye => Sys2Proof.Machine.execEyeScan l lane eye s
  | .correctionStep l lane => Sys2Proof.Machine.execCorrectionStep l lane s
  | .resetRelease straps calf => Sys2Proof.Machine.execResetRelease straps calf s
  | .pairOwnIRise => Sys2Proof.Machine.execPairOwnIRise s
  | .pllRelock p => Sys2Proof.Machine.execPllRelock p s
  | .timeUnlockLimitExpiry => Sys2Proof.Machine.execTimeUnlockLimitExpiry s
  | .bootChunkCopyEnd => Sys2Proof.Machine.execBootChunkCopyEnd s
  | .channelRetrainEnd ch ns => Sys2Proof.Machine.execChannelRetrainEnd ch ns s

end Sys2Proof.Machine
end

