-- ==== Sys2Proof/Machine/Step.lean ====
section
/-! DEFINITION. One step of the block: the command at the front of the queue, a held command, or a tick of the clock. -/

namespace Sys2Proof.Machine

/-- One step. On an empty queue the first held command that may start goes next (R210, R274, R275); with none, the clock
advances by 1 ns (DESIGN CHOICE, log entry 2). -/
def step (s : State) : Host.Outcome State Fault Refusal :=
  match s.pending with
  | c :: cs => exec c { s with pending := cs }
  | [] =>
    match heldNext s with
    | some (i, t, rest) => withHeld rest (exec i t)
    | none => .next (tick s)

/-- The state with the command that a table word spells at the front of its queue. (DESIGN CHOICE: log entry 3.) -/
def State.withFetchWord (s : State) (nbits w : Nat) : State :=
  match decodeTableWord nbits w with
  | some i => { s with pending := i :: s.pending }
  | none => s

end Sys2Proof.Machine
end

