-- ==== Sys2Proof/Safety.lean ====
section
/-! DEFINITION. What holds of every state of a run: the terms that claims about whole runs use. -/

namespace Sys2Proof.Machine

/-- Device memory is in its canonical form. -/
def MemOk (s : State) : Prop := Memory.wf s.mem = true

/-- The interlock's pins follow the pair state (Table: pair states): PAIR_OWN_O is high in CLAIMING and OWNER, PAIR_SEL_O in OWNER. -/
def PinsOk (s : State) : Prop :=
  s.pair.ownO = (s.pair.state == 2 || s.pair.state == 3) ∧ s.pair.selO = (s.pair.state == 3)

/-- A command that resets the device (R288, R451). -/
def Resets (i : Instr) : Prop :=
  match i with
  | .fullReset _ => True
  | .aonReset => True
  | _ => False

/-- The pair of a state before and after a step obeys the one-way lifecycle of R339: what OTP holds of the part's identity, its key hash, its minimum
security version and its subsystem IDs stays, and the lifecycle stays or goes from DEVELOPMENT to PRODUCTION. -/
def OtpStep (s t : State) : Prop :=
  t.otp.uid = s.otp.uid ∧ t.otp.manuf = s.otp.manuf ∧ t.otp.svnMin = s.otp.svnMin ∧ t.otp.grade = s.otp.grade
    ∧ t.otp.keyHash = s.otp.keyHash ∧ t.otp.subVendor = s.otp.subVendor ∧ t.otp.subsys = s.otp.subsys
    ∧ (t.otp.lifecycle = s.otp.lifecycle ∨ (s.otp.lifecycle = 0 ∧ t.otp.lifecycle = 1))

/-- A state that runs safely: memory canonical, the pins as the pair state says. -/
def Safe (s : State) : Prop := MemOk s ∧ PinsOk s

/-! ## Frames -/

/-- The parts of the state that frames speak of. -/
inductive Part where
  /-- The queue of waiting commands. -/
  | pending
  /-- Ring commands that may not start yet. -/
  | held
  /-- What the device has put out. -/
  | out
  /-- The clock. -/
  | clk
  /-- The fabric time. -/
  | ft
  /-- The count of free values used. -/
  | free
  /-- The event count. -/
  | evSeq
  /-- When each limited event was last raised. -/
  | rate
  /-- The stored registers. -/
  | regs
  /-- The configuration registers of region SYS. -/
  | sysCtl
  /-- Device memory. -/
  | mem
  /-- OTP. -/
  | otp
  /-- The always-on records. -/
  | aon
  /-- The straps. -/
  | straps
  /-- The operating mode, its cause and the wake source. -/
  | mode
  /-- The readiness bits. -/
  | ready
  /-- The power and clock state. -/
  | power
  /-- The bootstrap. -/
  | boot
  /-- The mailboxes. -/
  | mbx
  /-- The MPU regions. -/
  | mpu
  /-- Registers with bad parity. -/
  | parity
  /-- The debug port. -/
  | dap
  /-- The governor and the sensors. -/
  | therm
  /-- DORMANT in progress. -/
  | dorm
  /-- The indices of the rings. -/
  | rings
  /-- Completions not yet written. -/
  | done
  /-- Fetched descriptors. -/
  | inFlight
  /-- Commands that wait for their DMA. -/
  | dma
  /-- The functions' configuration spaces. -/
  | pcie
  /-- The MSI-X tables and pending bits. -/
  | irq
  /-- Doorbells held in DORMANT. -/
  | dormDb
  /-- The links. -/
  | links
  /-- MGMT requesters and responders. -/
  | mgmt
  /-- The event SEQ of each device behind the gateway. -/
  | evSeqs
  /-- Packets delivered inside the device. -/
  | localQ
  /-- The domain that claimed the device. -/
  | domain
  /-- The memory controller. -/
  | dram
  /-- The memory channels. -/
  | chans
  /-- The pair. -/
  | pair
  /-- The mirror. -/
  | mir
  /-- Commits in progress. -/
  | commits
  /-- The time base, without its exchanges. -/
  | time
  /-- The time exchanges of each link. -/
  | exch
  /-- Surfaces and publications. -/
  | surf
  /-- Policies, sources and tiles. -/
  | fum
  /-- Decode contexts, engines and RASTER receivers. -/
  | dec
  /-- The capture ports. -/
  | caps
  /-- The encoders. -/
  | encs
  /-- The state blocks, pipes and slates. -/
  | cmp
  /-- Generators, displays and checks. -/
  | scan
  /-- Touch ports. -/
  | touch
  /-- Lanes and trims. -/
  | lanes
  deriving DecidableEq, Repr

/-- A part is the same in two states. -/
def same (p : Part) (s t : State) : Prop :=
  match p with
  | .pending => t.pending = s.pending
  | .held => t.held = s.held
  | .out => t.out = s.out
  | .clk => t.clk = s.clk
  | .ft => t.ft = s.ft
  | .free => t.free = s.free
  | .evSeq => t.evSeq = s.evSeq
  | .rate => t.rate = s.rate
  | .regs => t.regs = s.regs
  | .sysCtl => ∀ off, off < 0x200000 → configMask off ≠ 0 → t.regs.get? off = s.regs.get? off
  | .mem => t.mem = s.mem
  | .otp => t.otp = s.otp
  | .aon => t.aon = s.aon
  | .straps => t.straps = s.straps
  | .mode => t.sys.mode = s.sys.mode ∧ t.sys.cause = s.sys.cause ∧ t.sys.wakeSrc = s.sys.wakeSrc
  | .ready => t.sys.ready = s.sys.ready
  | .power => t.sys.power = s.sys.power
  | .boot => t.sys.boot = s.sys.boot
  | .mbx => t.sys.mbx = s.sys.mbx
  | .mpu => t.sys.mpu = s.sys.mpu
  | .parity => t.sys.parity = s.sys.parity
  | .dap => t.sys.dap = s.sys.dap
  | .therm => t.sys.therm = s.sys.therm
  | .dorm => t.sys.dorm = s.sys.dorm ∧ t.sys.wakeEv = s.sys.wakeEv
  | .rings => t.host.sq = s.host.sq ∧ t.host.cq = s.host.cq ∧ t.host.evq = s.host.evq ∧ t.host.lastSq = s.host.lastSq
  | .done => t.host.done = s.host.done
  | .inFlight => t.host.inFlight = s.host.inFlight
  | .dma => t.host.dma = s.host.dma
  | .pcie => t.host.pcie = s.host.pcie
  | .irq => t.host.msix = s.host.msix ∧ t.host.pba = s.host.pba
  | .dormDb => t.host.dormDb = s.host.dormDb
  | .links => t.fab.links = s.fab.links
  | .mgmt => t.fab.reqs = s.fab.reqs ∧ t.fab.resps = s.fab.resps
  | .evSeqs => t.fab.evSeqs = s.fab.evSeqs
  | .localQ => t.fab.localQ = s.fab.localQ
  | .domain => t.fab.domain = s.fab.domain ∧ t.fab.claimed = s.fab.claimed ∧ t.fab.tephraUsed = s.fab.tephraUsed
  | .dram => t.dram = s.dram
  | .chans => t.chans = s.chans
  | .pair => t.pair = s.pair
  | .mir => t.mir = s.mir
  | .commits => t.commits = s.commits
  | .time => { t.time with links := s.time.links } = s.time
  | .exch => t.time.links = s.time.links
  | .surf => t.surf = s.surf
  | .fum => t.fum = s.fum
  | .dec => t.dec = s.dec
  | .caps => t.caps = s.caps
  | .encs => t.encs = s.encs
  | .cmp => t.cmp = s.cmp
  | .scan => t.scan = s.scan
  | .touch => t.touch = s.touch
  | .lanes => t.lanes = s.lanes

/-- From s to t only the listed parts may have changed. -/
def Frame (ps : List Part) (s t : State) : Prop := ∀ p, p ∈ ps ∨ same p s t

/-! ## What each command may change -/

/-- What raising an event may change: its delivery on this device's rings or over the fabric, and the counters this keeps (R284 to R287). -/
def eventParts : List Part := [.evSeq, .out, .dorm, .rings, .regs, .irq, .rate, .localQ, .links, .exch]

/-- The n bytes from address a on. -/
def inRange (a n x : Nat) : Prop := a ≤ x ∧ x < a + n

/-- The n bytes of an ES ring from offset wr on, which wrap at its end (R144). -/
def onRing (base size wr n x : Nat) : Prop := ∃ k, k < n ∧ x = base + (wr + k) % size

/-- The bytes of stored rows [first, first + n) of a picture of w pixels in buffer b of a pool, in each of its planes (R78, R156). -/
def onRows (f : SurfRec) (w b first n x : Nat) : Prop :=
  ∃ p, p ∈ planesOf f.format w f.height f.pitch ∧ ∃ i, i < (planeRows p.2.2.2 first n).2
    ∧ inRange (f.buffer b + p.1 + ((planeRows p.2.2.2 first n).1 + i) * f.pitch) p.2.2.1 x

/-- The bytes of the reduced rows that become complete with rows [was, done) of a picture of w by h pixels in buffer b (R164). -/
def onReduced (f : SurfRec) (w h b was done x : Nat) : Prop :=
  f.reduce ≠ 0 ∧ ∃ p q, (p, q) ∈ (planesOf f.format w f.height f.pitch).zip (planesOf f.format f.rsize.1 f.rsize.2 f.rpitch)
    ∧ (let k := 2 ^ f.reduce
       let n := fun (v : Nat) => if p.2.2.2 then (v + 1) / 2 else v
       let upTo := fun (d : Nat) => if planeDone p.2.2.2 h d = n h then (n h + k - 1) / k else planeDone p.2.2.2 h d / k
       ∃ i, upTo was ≤ i ∧ i < upTo done
         ∧ inRange (f.buffer b + f.roff + q.1 + i * f.rpitch) (2 * ((if p.2.2.2 then 2 else 1) * ((n w + k - 1) / k))) x)

/-- The fence page's FENCE, LAST, T_FENCE and ROW_NS (R158). -/
def inFence (f : SurfRec) (x : Nat) : Prop := inRange f.block 28 x

/-- The picture record of buffer b and its band entries n to n + k - 1 (R158). -/
def inRecord (f : SurfRec) (b n k x : Nat) : Prop := inRange (bufPage f b) 64 x ∨ inRange (bufPage f b + 64 + 24 * n) (24 * k) x

/-- The registers that a denial and its event keep (R338, R270): the denial's capture and counter, the event rings' lost records, and
on a device that sends its events over the fabric the drop, format, gate and fault-injection counters of the packet's way. -/
def EventReg (o : Nat) : Prop :=
  o ∈ [Reg.SYS_MPU_DENY_CNT, Reg.SYS_MPU_CAP0, Reg.SYS_MPU_CAP1, Reg.FAB_NOROUTE_DROP, Reg.FAB_HOP_DROP,
       Reg.EDG_PAIR_GATED_CNT]
    ∨ (∃ l, l < 11 ∧ o = Reg.FAB_TEPHRA_COUNT + 4 * l)
    ∨ (∃ l, o = Reg.FAB_LINK_TX_DROP + 0x100 * l ∨ o = Reg.FAB_LINK_FORMAT_ERR + 0x100 * l)
    ∨ ∃ w f, o = evqOff w f Reg.HST_EVQ_LOST

/-- What a refused ring command may change (R279): its completion; the commands that wake an idle unit first (R388) may have woken
it. -/
def refusalParts (i : Instr) : List Part :=
  [.done, .inFlight, .dma] ++
    (match i with
      | .streamOpen _ => [.power, .caps, .out]
      | .encOpen _ => [.power, .caps, .out]
      | .captureCfg _ _ => [.power, .caps, .out]
      | .modeSet _ => [.power, .caps, .out]
      | _ => [])

/-- The parts of the state that a command may change. -/
def changes (i : Instr) : List Part :=
  match i with
  | .nop _ | .fence _ | .unknownOpcode _ | .groupSet _ => eventParts ++ [.held, .done, .inFlight, .dma, .mir]
  | .streamOpen _ => eventParts ++ [.held, .free, .mem, .power, .done, .inFlight, .dma, .mir, .dec, .caps]
  | .streamFeed _ _ _ => eventParts ++ [.held, .mem, .done, .inFlight, .dma, .mgmt, .dram, .mir, .dec]
  | .streamClose _ | .streamFlush _ => eventParts ++ [.held, .mem, .done, .inFlight, .dma, .dram, .mir, .surf, .fum, .dec]
  | .surfacePool _ => eventParts ++ [.held, .mem, .done, .inFlight, .dma, .dram, .mir, .surf]
  | .encOpen _ => eventParts ++ [.held, .power, .done, .inFlight, .dma, .mir, .caps, .encs]
  | .encParams _ | .encClose _ | .encOutbuf _ => eventParts ++ [.held, .done, .inFlight, .dma, .mir, .encs]
  | .captureCfg _ _ => eventParts ++ [.held, .mem, .power, .done, .inFlight, .dma, .mgmt, .dram, .mir, .surf, .caps]
  | .stateLoad _ _ | .slateLoad _ _ => eventParts ++ [.held, .done, .inFlight, .dma, .mgmt, .mir, .cmp]
  | .commit _ => eventParts ++ [.held, .done, .inFlight, .dma, .mir, .commits]
  | .liveSet _ => eventParts ++ [.held, .done, .inFlight, .dma, .mir, .fum, .cmp]
  | .modeSet _ => eventParts ++ [.held, .power, .done, .inFlight, .dma, .mir, .caps, .scan]
  | .fumPolicy _ | .fumBind _ | .fumSnapshot _ => eventParts ++ [.held, .done, .inFlight, .dma, .mir, .fum]
  | .checkCfg _ => eventParts ++ [.held, .done, .inFlight, .dma, .pair, .mir, .cmp, .scan]
  | .routeSet _ _ => eventParts ++ [.held, .done, .inFlight, .dma, .mgmt, .mir]
  | .timeCfg _ => eventParts ++ [.held, .done, .inFlight, .dma, .mir, .time]
  | .tephraCfg _ => eventParts ++ [.held, .done, .inFlight, .dma, .domain, .mir]
  | .touchMap _ => eventParts ++ [.held, .done, .inFlight, .dma, .mir, .touch]
  | .touchRefLoad _ _ => eventParts ++ [.held, .aon, .done, .inFlight, .dma, .mgmt, .mir]
  | .mirrorCfg _ => eventParts ++ [.held, .free, .aon, .mode, .done, .inFlight, .dma, .pair, .mir, .commits]
  | .dormantEnter _ =>
    eventParts ++ [.held, .free, .mem, .aon, .mode, .ready, .done, .inFlight, .dma, .dram, .pair, .mir, .commits, .surf, .fum,
      .dec, .caps, .encs, .touch]
  | .memWrite _ _ => eventParts ++ [.held, .mem, .done, .inFlight, .dma, .mgmt, .dram, .mir, .surf, .fum]
  | .memRead _ => eventParts ++ [.held, .done, .inFlight, .dma, .mgmt, .dram, .mir]
  | .serviceEnter _ => eventParts ++ [.held, .free, .aon, .mode, .done, .inFlight, .dma, .dram, .pair, .mir, .commits]
  | .serviceExit _ => eventParts ++ [.held, .mode, .done, .inFlight, .dma, .dram, .mir, .lanes]
  | .sqTailDoorbell _ _ _ _ | .cqHeadDoorbell _ _ _ _ => eventParts ++ [.mode, .power, .dormDb, .dram, .time]
  | .descriptorFetch _ _ => eventParts ++ [.inFlight, .mgmt]
  | .eventRingHeadDoorbell _ _ _ => eventParts ++ [.free, .mode, .power, .dormDb, .dram, .time]
  | .completionWrite _ _ => eventParts ++ [.done, .mgmt]
  | .cqCoalesceTimeout _ _ => eventParts ++ [.mgmt]
  | .registerWrite _ _ _ _ _ | .ringEnable _ _ _ _ | .sysReset _ _ | .sysBootChunk _ _ | .mbxSel _ _ _ | .fumLock _ _ |
    .fumSelftestRelease _ _ | .fabGwFailRelease _ _ | .strDecFaultRelease _ _ | .cmpFaultRelease _ _ | .sysRafRelease _ _ |
    .sysMpuRelease _ _ | .sysMpuCtrl _ _ _ | .fabNodeAddr _ _ | .linkEnable _ _ _ | .linkRetrain _ _ _ | .edidRead _ _ _ |
    .dpRetrain _ _ _ | .pairClaim _ _ | .pairRelease _ _ | .sysLifecycleAdv _ _ | .dapEn _ _ | .edgAonClear _ _ |
    .cmpSlateBase _ _ | .recal _ _ _ | .laneOverride _ _ _ | .outDpTrimOvr _ _ _ | .touchEnable _ _ _ | .touchDisable _ _ _ |
    .touchHold _ _ _ =>
    eventParts ++ [.free, .sysCtl, .otp, .aon, .mode, .ready, .power, .boot, .mbx, .mpu, .parity, .done, .inFlight, .dma, .mgmt,
      .domain, .dram, .pair, .mir, .commits, .time, .caps, .scan, .touch, .lanes]
  | .fullReset _ =>
    eventParts ++ [.held, .ft, .sysCtl, .mem, .otp, .mode, .ready, .power, .boot, .mbx, .mpu, .parity, .dap, .therm, .done,
      .inFlight, .dma, .pcie, .dormDb, .mgmt, .evSeqs, .domain, .dram, .chans, .pair, .mir, .commits, .time, .surf, .fum, .dec,
      .caps, .encs, .cmp, .scan, .touch, .lanes]
  | .bootstrapWindowWrite _ _ _ _ => eventParts ++ [.free, .mode, .power, .boot, .dram, .time]
  | .imageVerificationEnd _ _ => eventParts ++ [.free, .ready, .boot]
  | .firmwareUnitStart => eventParts ++ [.mode, .ready, .power, .caps, .scan, .touch]
  | .mailboxLatch _ _ => [.mbx]
  | .domainClaim _ _ _ => eventParts ++ [.parity, .domain, .pair]
  | .edidReadEnd _ _ | .chkResultWindowEnd _ | .hpdUnplug _ | .hpdPlug _ _ | .irqHpd _ _ | .dpLinkTraining _ _ =>
    eventParts ++ [.scan]
  | .dapCmd _ => eventParts ++ [.free, .power, .dap, .mgmt, .mir, .caps, .lanes]
  | .dapData _ =>
    eventParts ++ [.free, .sysCtl, .mem, .otp, .aon, .mode, .ready, .power, .boot, .mbx, .mpu, .parity, .dap, .done, .inFlight,
      .dma, .mgmt, .domain, .pair, .mir, .commits, .caps, .scan, .touch, .lanes]
  | .windowAccess _ _ _ _ _ _ _ =>
    eventParts ++ [.free, .sysCtl, .otp, .aon, .mode, .ready, .power, .boot, .mbx, .mpu, .parity, .done, .inFlight, .dma, .dormDb,
      .mgmt, .domain, .dram, .pair, .mir, .commits, .time, .caps, .scan, .touch, .lanes]
  | .pcieLinkUp => eventParts ++ [.free, .ready, .power, .pcie, .mir, .lanes]
  | .packetReceive _ _ _ _ | .backoffExpiry _ => eventParts ++ [.free, .mir, .lanes]
  | .linkCrcWindowEnd _ | .reorderRelease _ | .capsRepeat _ | .sync _ _ | .reply _ _ => eventParts
  | .packetEnd _ => eventParts ++ [.mir]
  | .skp _ => [.out, .links]
  | .trainingStateAdvance _ _ => eventParts ++ [.free, .ready, .power, .mir, .lanes]
  | .linkTrainTimeout _ | .caps _ _ | .codeError _ _ _ | .lockLost _ _ => eventParts ++ [.free, .ready, .mir, .lanes]
  | .timeExchangePeriod => eventParts ++ [.ft, .free, .ready, .done, .inFlight, .dma, .pair, .mir, .time, .scan, .touch]
  | .holdoverLimitExpiry => eventParts ++ [.ready, .pair, .time, .scan]
  | .mgmtRequest _ _ =>
    eventParts ++ [.free, .sysCtl, .otp, .aon, .mode, .ready, .power, .boot, .mbx, .mpu, .parity, .done, .inFlight, .dma, .dormDb,
      .mgmt, .domain, .pair, .mir, .commits, .caps, .scan, .touch, .lanes]
  | .resp _ =>
    eventParts ++ [.mem, .aon, .dap, .done, .inFlight, .dma, .mgmt, .dram, .mir, .surf, .fum, .dec, .caps, .encs, .cmp]
  | .mgmtRetryTimeout _ _ => eventParts ++ [.mem, .dap, .done, .inFlight, .dma, .mgmt, .dram, .mir, .fum, .dec, .encs, .cmp]
  | .eventPacket _ => [.out, .evSeq, .regs, .rings, .irq, .evSeqs, .localQ]
  | .streamDemux _ => eventParts ++ [.mem, .dram, .dec]
  | .rasterPacket _ => eventParts ++ [.mem, .dram, .surf, .fum, .dec]
  | .mirrorPacket _ | .resyncReq | .mirrorAck _ =>
    eventParts ++ [.mem, .done, .inFlight, .dma, .mgmt, .dram, .pair, .mir, .commits, .fum, .cmp, .scan]
  | .ackTimeout => eventParts ++ [.done, .inFlight, .dma, .mir, .commits]
  | .fumaroleTick | .tileEventWindowEnd _ => eventParts ++ [.fum]
  | .recordLatch _ => eventParts ++ [.surf, .fum, .scan]
  | .scanStart _ => eventParts ++ [.free, .aon, .mode, .done, .inFlight, .dma, .pair, .mir, .commits, .surf, .fum, .scan]
  | .outputLine _ _ _ _ =>
    eventParts ++ [.free, .aon, .mode, .done, .inFlight, .dma, .pair, .mir, .commits, .surf, .fum, .encs, .scan]
  | .frameStart _ =>
    eventParts ++ [.free, .power, .done, .inFlight, .dma, .pair, .mir, .surf, .fum, .caps, .cmp, .scan, .lanes]
  | .vblankLineBoundary _ =>
    eventParts ++ [.free, .done, .inFlight, .dma, .pair, .mir, .commits, .surf, .fum, .cmp, .scan, .lanes]
  | .commitValidation _ => eventParts ++ [.done, .inFlight, .dma, .mir, .commits, .fum, .cmp]
  | .commitApply _ => eventParts ++ [.done, .inFlight, .dma, .mir, .commits, .fum, .cmp, .scan]
  | .modeSetApply _ => eventParts ++ [.power, .done, .inFlight, .dma, .pair, .mir, .commits, .surf, .fum, .caps, .cmp, .scan]
  | .checkCfgApply _ => eventParts ++ [.done, .inFlight, .dma, .pair, .mir, .cmp, .scan]
  | .checkResult _ => eventParts ++ [.free, .aon, .mode, .done, .inFlight, .dma, .pair, .mir, .commits, .cmp, .scan]
  | .slateCopyEnd _ => eventParts ++ [.mem, .done, .inFlight, .dma, .dram, .mir, .cmp]
  | .snapshotWriteEnd => eventParts ++ [.done, .inFlight, .dma, .mgmt, .mir, .fum]
  | .capturePictureStart _ _ => eventParts ++ [.mem, .dram, .surf, .caps]
  | .captureBand _ _ => eventParts ++ [.mem, .dram, .surf, .fum, .caps, .encs]
  | .capSignalLoss _ => eventParts ++ [.caps]
  | .hpdPulseEnd _ => [.out, .caps]
  | .sinkLinkTraining _ _ _ _ => eventParts ++ [.free, .caps]
  | .encPictureStart _ | .keepalivePicture _ => eventParts ++ [.free, .encs]
  | .sliceCoding _ _ => eventParts ++ [.free, .done, .inFlight, .dma, .mir, .encs]
  | .sliceReady _ _ _ => eventParts ++ [.free, .done, .inFlight, .dma, .mgmt, .mir, .encs]
  | .keepaliveExpiry _ => eventParts ++ [.encs]
  | .pictureStart _ _ => eventParts ++ [.free, .mem, .done, .inFlight, .dma, .dram, .mir, .surf, .fum, .dec]
  | .sliceDecode _ _ | .stallLimit _ => eventParts ++ [.mem, .done, .inFlight, .dma, .dram, .mir, .surf, .fum, .dec]
  | .decConcealWindowEnd _ => eventParts ++ [.dec]
  | .trainingRetry _ => [.scan]
  | .memoryRequest _ _ _ _ _ =>
    eventParts ++ [.free, .sysCtl, .mem, .otp, .aon, .mode, .ready, .power, .boot, .mbx, .mpu, .parity, .done, .inFlight, .dma,
      .mgmt, .domain, .dram, .chans, .pair, .mir, .commits, .caps, .scan, .touch, .lanes]
  | .channelIssue _ _ | .scrubRead _ _ =>
    eventParts ++ [.free, .mem, .aon, .mode, .ready, .power, .done, .inFlight, .dma, .dram, .chans, .pair, .mir, .commits, .dec,
      .caps, .encs, .cmp, .touch]
  | .commandError _ _ =>
    eventParts ++ [.free, .mem, .aon, .mode, .ready, .power, .done, .inFlight, .dma, .dram, .pair, .mir, .commits, .dec, .caps,
      .encs, .cmp, .touch]
  | .throttleExpiry _ => [.regs, .mem, .dram, .chans]
  | .refresh _ _ => [.out, .chans]
  | .channelRetrain _ _ => [.dram, .chans]
  | .memoryTrainingEnd _ _ => eventParts ++ [.free, .mem, .ready, .power, .dram, .chans]
  | .segmentInitialized => eventParts ++ [.mem, .ready, .dram, .chans]
  | .parityScrub _ => eventParts ++ [.free, .aon, .mode, .parity, .done, .inFlight, .dma, .pair, .mir, .commits]
  | .autoClaim | .pairOwnIRise => eventParts ++ [.pair]
  | .actingOwner => eventParts ++ [.mode, .pair, .encs]
  | .pairConflict | .relinquish _ | .timeUnlockLimitExpiry =>
    eventParts ++ [.free, .aon, .mode, .done, .inFlight, .dma, .pair, .mir, .commits]
  | .nm0Watchdog | .pllLockLoss _ _ =>
    eventParts ++ [.free, .aon, .mode, .ready, .power, .done, .inFlight, .dma, .dram, .pair, .mir, .commits, .dec, .caps, .encs,
      .touch]
  | .stateDisagree _ _ => eventParts ++ [.free, .pair]
  | .thermalGovernor _ => eventParts ++ [.free, .aon, .mode, .power, .therm, .done, .inFlight, .dma, .pair, .mir, .commits]
  | .thermalTrip =>
    eventParts ++ [.free, .aon, .mode, .ready, .power, .therm, .done, .inFlight, .dma, .dram, .pair, .mir, .commits, .dec, .caps,
      .encs, .cmp, .touch]
  | .dormantThermalTrip _ => eventParts ++ [.free, .aon, .mode, .therm, .done, .inFlight, .dma, .pair, .mir, .commits]
  | .thermalCut =>
    eventParts ++ [.held, .free, .sysCtl, .mem, .aon, .mode, .ready, .power, .boot, .mbx, .mpu, .parity, .dap, .therm, .done,
      .inFlight, .dma, .pcie, .dormDb, .mgmt, .evSeqs, .domain, .dram, .chans, .pair, .mir, .commits, .surf, .fum, .dec, .caps,
      .encs, .cmp, .scan, .touch, .lanes]
  | .idleGating _ => [.out, .regs, .power, .dec, .caps, .encs, .scan]
  | .unitWake _ => [.out, .power, .caps]
  | .dormantPowerDown =>
    eventParts ++ [.held, .free, .sysCtl, .mem, .aon, .mode, .ready, .power, .boot, .mbx, .mpu, .parity, .dap, .done, .inFlight,
      .dma, .dormDb, .mgmt, .evSeqs, .domain, .dram, .chans, .pair, .mir, .commits, .surf, .fum, .dec, .caps, .encs, .cmp, .scan,
      .touch, .lanes]
  | .wake _ => eventParts ++ [.mode, .power, .dram, .time]
  | .resume _ =>
    eventParts ++ [.free, .sysCtl, .mem, .ready, .boot, .mpu, .done, .dormDb, .mgmt, .domain, .dram, .pair, .mir, .time, .surf,
      .fum, .caps, .cmp, .scan, .touch, .lanes]
  | .supplyDropout => eventParts ++ [.free, .aon, .mode, .power, .done, .inFlight, .dma, .pair, .mir, .commits]
  | .aonReset =>
    eventParts ++ [.held, .ft, .sysCtl, .mem, .otp, .aon, .mode, .ready, .power, .boot, .mbx, .mpu, .parity, .dap, .therm, .done,
      .inFlight, .dma, .pcie, .dormDb, .mgmt, .evSeqs, .domain, .dram, .chans, .pair, .mir, .commits, .time, .surf, .fum, .dec,
      .caps, .encs, .cmp, .scan, .touch, .lanes]
  | .scanCycle _ _ _ _ => eventParts ++ [.free, .ready, .touch]
  | .wakeScan _ _ => eventParts ++ [.mode, .power, .dram, .time, .touch]
  | .laneTempCheck _ _ _ => [.aon, .therm, .lanes]
  | .classTRun _ _ _ | .eyeScan _ _ _ => eventParts ++ [.lanes]
  | .correctionStep _ _ => [.lanes]
  | .resetRelease _ _ => [.ft, .otp, .straps, .power, .pair, .time]
  | .pllRelock _ => [.power, .pair]
  | .bootChunkCopyEnd => [.boot]
  | .channelRetrainEnd _ _ => eventParts ++ [.mem, .dram, .chans]

/-- The checks of each ring command that R263 and R279 name; none for NOP, FENCE and an unknown opcode, which need no function, and for every command
that is no ring command. -/
def ringSpec : Instr → Option (State → Job → CmdSpec)
  | .streamOpen _ => some streamOpenSpec | .streamFeed _ _ _ => some feedSpec | .streamClose _ => some closeSpec
  | .streamFlush _ => some flushSpec | .surfacePool _ => some surfacePoolSpec | .encOpen _ => some encOpenSpec
  | .encParams _ => some encParamsSpec | .encClose _ => some encCloseSpec | .encOutbuf _ => some encOutbufSpec
  | .captureCfg _ _ => some captureCfgSpec | .stateLoad _ _ => some stateLoadSpec | .commit _ => some commitSpec
  | .liveSet _ => some liveSetSpec | .slateLoad _ _ => some slateLoadSpec | .modeSet _ => some modeSetSpec
  | .fumPolicy _ => some fumPolicySpec | .fumBind _ => some fumBindSpec | .fumSnapshot _ => some snapshotSpec
  | .checkCfg _ => some checkCfgSpec | .routeSet _ _ => some routeSetSpec | .groupSet _ => some groupSetSpec
  | .timeCfg _ => some (fun _ j => timeCfgSpec j) | .tephraCfg _ => some (fun _ j => tephraCfgSpec j) | .touchMap _ => some touchMapSpec
  | .touchRefLoad _ _ => some touchRefSpec | .mirrorCfg _ => some mirrorCfgSpec | .dormantEnter _ => some dormantEnterSpec
  | .memWrite _ _ => some memWriteSpec | .memRead _ => some memReadSpec | .serviceEnter _ => some serviceEnterSpec
  | .serviceExit _ => some serviceExitSpec
  | _ => none

/-! ## When commands have their effect -/

/-- A ring command may start at once: nothing of R210, R228, R269, R274, R275 or R399 holds it back. -/
def Starts (s : State) (i : Instr) (c : Cmd) : Prop := blocked s s.held i c.job = false

/-- The state in which a command that starts is performed: its descriptor counts as started. -/
def begun (s : State) (c : Cmd) : State := { s with host.inFlight := markStarted c.job s.host.inFlight }

/-- No check of R279 refuses the command: sp gives the command's own checks. -/
def Admits (s : State) (c : Cmd) (sp : State → Job → CmdSpec) : Prop :=
  firstRefusal (begun s c) c.job (sp (begun s c) c.job) = none

/-- The completion entry of a ring command (R271): none where QUIET suppresses it (R269). -/
def entry (s : State) (c : Cmd) (st : Status) (flags result : Nat) : List DoneRec :=
  let j := c.job
  let fl := flags + 2 * b2n s.fab.tephraUsed
  if bit (j.n 1 1) 1 ∧ st = .done ∧ fl = 0 then []
  else [{ pf := c.pf.val, cq := j.n 4 1, sq := c.sq.val, tag := j.n 2 2, opcode := j.opcode, status := st, flags := fl,
          result := BitVec.ofNat 64 result }]

/-- The command is over: its completion is the newest that waits to be written, and its descriptor is no longer in flight. -/
def Ends (s t : State) (c : Cmd) (st : Status) (flags result : Nat) : Prop :=
  t.host.done = s.host.done ++ entry s c st flags result
    ∧ t.host.inFlight = (begun s c).host.inFlight.eraseP (fun e => e.job == c.job)

/-- The command has started and waits for the host bytes it has asked for with DMA_RD (R129, R131): nothing of it has completed. -/
def Awaits (s t : State) (c : Cmd) : Prop :=
  t.host.done = s.host.done ∧ t.host.inFlight = (begun s c).host.inFlight
    ∧ t.host.dma = s.host.dma ++ [{ job := c.job, parts := [], ended := none }]

/-- The host bytes of a command are there when it starts: on a gateway, and on a device without a domain (R131). -/
abbrev BytesHere (s : State) : Prop := s.isGateway = true ∨ s.fab.claimed = false

/-- The n host bytes that a command reads at its start: those of a gateway's PCIe, the zeros of an unimplemented location elsewhere (R131). -/
def hostData (s : State) (buf : List Byte) (n : Nat) : List Byte := if s.isGateway then slice buf 0 n else List.replicate n 0

/-- A register write reaches the register's own rules: PD2 is on in a device that is awake, the register space admits the accessor,
and the MPU lets it write there (R318, R332, R334). -/
def Reaches (s : State) (a : Acc) (off : Nat) : Prop :=
  s.pdOn 2 = true ∧ s.sys.mode ≠ .dormant ∧ admitted a = true ∧ mpuOk s (Acc.mid a) (regSpace + off) 4 = true

/-- What the device put out between two states, newest first. -/
def news (s t : State) : List Out := t.out.take (t.out.length - s.out.length)

/-- Between two states the device raised this event with this data (R284). -/
def Raised (s t : State) (code : Nat) (data : List Byte) : Prop := Out.event code data ∈ news s t

/-- The payload of a MIRROR packet of STATUS 0 (R356). -/
def mirrorPay (type cls flags rid off total : Nat) (data : List Byte) : List Byte :=
  leBytes 1 type ++ leBytes 1 cls ++ leBytes 1 flags ++ leBytes 1 0 ++ leBytes 4 rid ++ leBytes 4 off ++ leBytes 4 total ++ data

/-- The payloads of one record, 496 data bytes each, FIRST on the first and LAST on the last (R356); extra holds the other FLAGS. -/
def recordPays (rid cls extra : Nat) (data : List Byte) : List (List Byte) :=
  let k := max 1 ((data.length + 495) / 496)
  (List.range k).map (fun i =>
    mirrorPay 0 cls (extra + b2n (i == 0) + 2 * b2n (i + 1 == k)) rid (496 * i) data.length ((data.drop (496 * i)).take 496))

/-- The records of a full image that are sent: those of the enabled classes (R357). -/
def imageSent (s : State) : List (Nat × List Byte) := (imageRecords s).filter (fun r => bit s.pair.classes (r.1 - 1))

/-- The payloads of a full image: its records with FLAGS.RESYNC, numbered on from the last record sent, and RESYNC_END (R356, R357). -/
def imagePays (s : State) : List (List Byte) :=
  let rs := imageSent s
  (rs.zip (List.range rs.length)).flatMap (fun e => recordPays (s.mir.recId + e.2) e.1.1 4 e.1.2)
    ++ [mirrorPay 3 0 0 (s.mir.recId + rs.length + 0xFFFFFFFF) 0 0 []]

/-- The MIRROR packets of some payloads, to the device at the other end of PL (R356). -/
def mirrorPkts (s : State) (ps : List (List Byte)) : List Packet := ps.map (mkPacket (s.link 10).peerAddr s.addr clsMIRROR 0 0 0 s.domain)

/-- The MIRROR packets of some payloads join those that wait, and the first n of all have been sent, each counted in SEQ (R356). -/
def MirrorSent (s t : State) (n : Nat) (ps : List (List Byte)) : Prop :=
  let all := s.mir.waiting ++ mirrorPkts s ps
  n ≤ all.length ∧ t.mir.waiting.map (fun p => p.data) = (all.drop n).map (fun p => p.data) ∧ t.mir.txSeq % 65536 = (s.mir.txSeq + n) % 65536

/-- The releases of a capture (R325, R327, R338): bit 0 of v empties the capture registers, and nothing else changes but the parity of the
register written (R326) and the interlock that it may release. -/
def Freed (s t : State) (caps : List Nat) (v : U32) : Prop :=
  (∀ o, t.reg o = if o ∈ caps ∧ v.getLsbD 0 = true then 0 else s.reg o) ∧ Frame [.regs, .parity, .pair] s t

end Sys2Proof.Machine
end

