-- ==== Sys2Proof/Certificates/Slice0/Obligations.lean ====
section
/-! DEFINITION. The statements about the model, each over the rules of the specification that its docstring names. -/

open Sys2Proof Sys2Proof.Machine

/-- A step with a command at the front of the queue is that command's effect on the state with the queue's rest. On an empty queue the first held ring command
that may start goes next, the others staying held in their order; with none, time advances by one tick, and where no claim is under way, no mirrored record
waits, no request waits at the ingress and no capture port's scan is due, nothing else changes (the model's choices, log entries 2, 11 and 106). -/
def Obligations.StepRunsTheFrontCommand : Prop :=
  ∀ (s : State),
    (∀ c, step { s with pending := c :: s.pending } = exec c s)
    ∧ (s.pending = [] → heldNext s = none → ∃ t, step s = .next t ∧ t.clk = s.clk + 1
        ∧ Frame (eventParts ++ [.clk, .ft, .time, .dram, .mem, .chans, .free, .caps, .mir, .inFlight, .dma, .done, .cmp, .fum, .commits, .mgmt, .scan,
            .pair]) s t
        ∧ (s.pair.state ≠ 2 → s.mir.late = [] → s.dram.ingress = [] →
            (∀ p, p < 4 → (s.cap p).trained = false ∨ s.clk + 1 < (s.cap p).scanAt) → Frame [.clk, .ft, .time] s t))
    ∧ (∀ k i, s.pending = [] → s.held[k]? = some i → (∀ c, ringCmd i = some c → blocked s (s.held.take k) i c.job = false) →
        (∀ m x, m < k → s.held[m]? = some x → ∃ d, ringCmd x = some d ∧ blocked s (s.held.take m) x d.job = true) →
        ∃ t, exec i { s with held := s.held.take k } = .next t ∧ step s = .next { t with held := t.held ++ s.held.drop (k + 1) })

/-- R288, R268, R143, R155, R40, R53, R344, R291: after reset the device is in BRINGUP with no function ready, no ring enabled and no command waiting; no context,
pool, source, stream or port is in use, no output runs, time is FREE, the pair is UNPAIRED with its pins low, no link is up and memory is untrained; the
policies are not locked, the device has address 0x3FF, and bits 4 to 0 of FAB_LANE_CFG read 6. -/
def Obligations.TheStateAfterReset : Prop :=
  let r := State.reset
  r.pending = [] ∧ r.held = [] ∧ r.sys.mode = .bringup ∧ (∀ i, r.isReady i = false) ∧ MemOk r ∧ PinsOk r
    ∧ (∀ (f : Fin 2) (q : Fin 64), bit (r.sqCtrl f.val q.val) 31 = false ∧ bit (r.cqCtrl f.val q.val) 31 = false)
    ∧ (∀ c, r.ctxOpen c = false) ∧ (∀ k, r.surface k = none) ∧ (∀ i, (r.source i).prod = none) ∧ (∀ h, (r.enc h).open_ = false)
    ∧ (∀ p, (r.cap p).enabled = false) ∧ (∀ n, (r.tg n).running = false) ∧ r.time.st = .free ∧ r.pair.state = 0 ∧ r.pair.barred = false
    ∧ (∀ l, r.linkUp l = false) ∧ r.dram.trained = false ∧ r.reg Reg.FUM_LOCK = 0
    ∧ r.reg Reg.FAB_NODE_ADDR = 0x3FF ∧ bits (r.reg Reg.FAB_LANE_CFG) 4 0 = 6

/-- R296, R297: every command leaves device memory in its canonical form. -/
def Obligations.EveryCommandKeepsMemoryCanonical : Prop :=
  ∀ (i : Instr) (s t : State), MemOk s → exec i s = .next t → MemOk t

/-- R344 and Table: pair states: after every command the interlock's pins are as the pair state says; R353: the bar, once set, stays until a full reset. -/
def Obligations.PinsFollowTheStateAndTheBarStays : Prop :=
  ∀ (i : Instr) (s t : State), exec i s = .next t →
    (PinsOk s → PinsOk t) ∧ (s.pair.barred = true → ¬ Resets i → t.pair.barred = true)

/-- R339: the part's identity, grade, key hash, minimum security version and subsystem IDs in OTP never change, and its lifecycle changes only from
DEVELOPMENT to PRODUCTION. R337: a locked region stays as it is, but for a reset, the power-down to DORMANT, the thermal cut and the resume. -/
def Obligations.IdentityAndLocksStay : Prop :=
  ∀ (i : Instr) (s t : State), exec i s = .next t → OtpStep s t
    ∧ (¬ Resets i → i ≠ .dormantPowerDown → i ≠ .thermalCut → (∀ b, i ≠ .resume b) →
        ∀ r g, s.sys.mpu.get? r = some g → g.lock = true → t.sys.mpu.get? r = some g)

/-- The frame of every command: it answers a next state, and nothing changes but the parts of the state that the table of changes lists for it. Which bytes
a command that stores may change, at the address the model computes for it, the obligations on that command say: FeedsFillTheRing, PoolsAreSetAndReleased,
CapturePortsAreConfigured, PicturesAreCaptured, SlicesAreDecoded, StreamPacketsAreDemultiplexed, RasterPacketsPublish, SlatesAreLoaded, CopiesMoveBytes,
SnapshotsAreWritten, CompletionsAreWritten, MemoryRequestsEnter, ChannelsIssueAndFreeze and TheMirrorIsRun. -/
def Obligations.CommandsChangeOnlyTheirParts : Prop :=
  ∀ (i : Instr) (s : State), ∃ t, exec i s = .next t ∧ Frame (changes i) s t

/-- R334, R336: while no admitted request waits at the ingress or in a channel, a byte of device memory that the MPU allows no master is changed by no
command but a reset, the power-down to DORMANT, the thermal cut, the resume and the end of memory training. -/
def Obligations.DeniedMemoryStays : Prop :=
  ∀ (i : Instr) (s t : State), exec i s = .next t → s.dram.ingress = [] → (∀ e ∈ s.chans, e.2.queue = []) → ¬ Resets i → i ≠ .dormantPowerDown → i ≠ .thermalCut →
    (∀ b, i ≠ .resume b) → (∀ d o, i ≠ .memoryTrainingEnd d o) →
      ∀ x, (∀ mid, mpuOk s mid x 1 = false) → memGet t.mem x = memGet s.mem x

/-- No command touches the queue of those that wait; what the device has put out only grows, and the clock never runs backwards. 
The queue, the record of what was put out and the clock are the model's own, its choices of log entries 2, 3 and 6; no rule is
formalised. -/
def Obligations.QueueStaysAndOutputGrows : Prop :=
  ∀ (i : Instr) (s t : State), exec i s = .next t → t.pending = s.pending ∧ (∃ l, t.out = l ++ s.out) ∧ s.clk ≤ t.clk

/-- R279: a ring command completes with the first status that applies: UNSUPPORTED for an unknown opcode, DENIED for a PF0-only opcode on a PF1 ring, NOT_READY
(which NOP and FENCE never meet), BAD_DESCRIPTOR for a reserved byte or bit, then its own checks in their order. It then has no effect but its completion
and, for STREAM_OPEN, ENC_OPEN, CAPTURE_CFG and MODE_SET, the wake of an idle unit (R388). Where the MPU denied an access, the denial's capture, its counter
and its event come with it (R338, R270): no register changes but these and the counters that the event's own way keeps, and no link changes its state. -/
def Obligations.RefusedCommandsHaveNoEffect : Prop :=
  (∀ (c : Cmd) (s : State),
    (Starts s (.unknownOpcode c) c → ∃ t, exec (.unknownOpcode c) s = .next t ∧ Ends s t c .unsupported 0 0 ∧ Frame [.done, .inFlight, .dma] s t)
    ∧ (Starts s (.nop c) c → headerOk c.job = false ∨ c.job.zero [(24, 40)] = false →
        ∃ t, exec (.nop c) s = .next t ∧ Ends s t c .badDescriptor 0 (c.job.n 16 8) ∧ Frame [.done, .inFlight, .dma] s t)
    ∧ (Starts s (.fence c) c → headerOk c.job = false ∨ c.job.zero [(17, 47)] = false ∨ c.job.n 16 1 > 1 →
        ∃ t, exec (.fence c) s = .next t ∧ Ends s t c .badDescriptor 0 0 ∧ Frame [.done, .inFlight, .dma] s t))
  ∧ (∀ (i : Instr) (c : Cmd) (s : State) (sp : State → Job → CmdSpec), ringCmd i = some c → ringSpec i = some sp → Starts s i c →
    let j := c.job
    let p := sp (begun s c) j
    let refused := fun (st : Status) => ∃ t result, exec i s = .next t ∧ Ends s t c st 0 result ∧ Frame (refusalParts i) s t
    let denied := ∃ t result, exec i s = .next t ∧ Ends s t c .denied 0 result ∧ Frame (eventParts ++ refusalParts i) s t
      ∧ (∀ o, ¬ EventReg o → t.reg o = s.reg o) ∧ ∀ l, (t.link l).st = (s.link l).st
    let pf1 := p.pf0 = true ∧ j.pf ≠ 0
    let unready := s.isReady 1 = false ∨ p.ready = false
    let reserved := headerOk j = false ∨ p.body = false
    (pf1 → refused .denied)
    ∧ (¬ pf1 → unready → refused .notReady)
    ∧ (¬ pf1 → ¬ unready → reserved → refused .badDescriptor)
    ∧ (∀ r, ¬ pf1 → ¬ unready → ¬ reserved → p.own.findSome? id = some r → r.st ≠ .done
        ∧ (r.deny = none → refused r.st) ∧ (r.deny ≠ none → r.st = .denied ∧ denied)))

/-- R274, R275, R210, R269: a ring command that may not start yet is held behind those held before it and changes nothing else. It may not start while an
earlier descriptor of its ring waits to start; a FENCE of SCOPE 0 or an ORDERED command, while one has not completed; a FENCE of SCOPE 1, while one of its
function has not; a STATE_LOAD, COMMIT or tile binding, while a commit for a pipe it names is under way (the blocks that a STATE_LOAD has still to read over
the fabric can name any pipe: the model's reading, log entry 132). -/
def Obligations.OrderedCommandsWait : Prop :=
  ∀ (i : Instr) (c : Cmd) (s : State), ringCmd i = some c →
    let j := c.job
    (blocked s s.held i j = true → ∃ t, exec i s = .next t ∧ t.held = s.held ++ [i] ∧ Frame [.held, .inFlight] s t)
    ∧ (∀ e, e ∈ earlier s j → sameRing e.job j = true → e.started = false → blocked s s.held i j = true)
    ∧ (∀ e, e ∈ earlier s j → sameRing e.job j = true → (j.opcode = 0x02 ∧ j.n 16 1 = 0 ∨ bit (j.n 1 1) 0 = true) →
        blocked s s.held i j = true)
    ∧ (∀ e, e ∈ earlier s j → e.job.pf = j.pf → j.opcode = 0x02 → j.n 16 1 = 1 → blocked s s.held i j = true)
    ∧ (∀ p, p ∈ namedPipes s i → pipeBusy s p = true → blocked s s.held i j = true)
    ∧ (∀ w, w ∈ s.host.dma → w.job.opcode = 0x30 → namedPipes s i ≠ [] → blocked s s.held i j = true)
    ∧ (earlier s j = [] → s.held = [] → s.pdOn 2 = true → s.sys.dorm = none → (s.tg (j.n 16 1)).jobs = [] →
        (∀ p, p ∈ namedPipes s i → pipeBusy s p = false) → (∀ w, w ∈ s.host.dma → w.job.opcode ≠ 0x30) → Starts s i c)

/-- R456: NOP completes with DONE, and with BAD_DESCRIPTOR where a reserved byte or bit is not zero; its RESULT is its DATA, its completion carries
TEPHRA_USED where that flag is set, and no function has to be ready for it. An opcode outside the table (R278) completes with UNSUPPORTED. Neither
changes anything but its completion. -/
def Obligations.NopAndUnknownOpcodesComplete : Prop :=
  ∀ (s : State) (c : Cmd),
    (c.job.opcode = 0x01 → Starts s (.nop c) c → ∃ t, exec (.nop c) s = .next t ∧ Frame [.done, .inFlight, .dma] s t
      ∧ (headerOk c.job = true → c.job.zero [(24, 40)] = true → Ends s t c .done 0 (c.job.n 16 8))
      ∧ (headerOk c.job = false ∨ c.job.zero [(24, 40)] = false → Ends s t c .badDescriptor 0 (c.job.n 16 8)))
    ∧ (Starts s (.unknownOpcode c) c → ∃ t, exec (.unknownOpcode c) s = .next t ∧ Frame [.done, .inFlight, .dma] s t ∧ Ends s t c .unsupported 0 0)

/-- R275: a FENCE that starts completes with DONE where its SCOPE is 0 or 1 and its reserved bytes and bits are zero, and with BAD_DESCRIPTOR otherwise; it
changes nothing but its completion.
R282, R283: an admitted MEM_WRITE puts its LENGTH bytes, inline or of a host buffer, into device memory from DEV_ADDR on, changes no other byte and
completes with their number; on a claimed device it first waits for the bytes of the host buffer (R129). An admitted MEM_READ of a gateway puts
out a write of the LENGTH bytes from DEV_ADDR on to the host address, changes no byte of memory and completes with their number; on a claimed device it asks its gateway
for that write, 256 bytes a request, and completes once these are answered (R129; the model's reading, log entry 129); on a device without a domain the bytes are
dropped (R131). -/
def Obligations.FencesCompleteAndCopiesMoveBytes : Prop :=
  (∀ (s : State) (c : Cmd), c.job.opcode = 0x02 → Starts s (.fence c) c → ∃ t, exec (.fence c) s = .next t ∧ Frame [.done, .inFlight, .dma] s t
      ∧ (headerOk c.job = true → c.job.zero [(17, 47)] = true → c.job.n 16 1 ≤ 1 → Ends s t c .done 0 0)
      ∧ (headerOk c.job = false ∨ c.job.zero [(17, 47)] = false ∨ c.job.n 16 1 > 1 → Ends s t c .badDescriptor 0 0))
  ∧ (∀ (s : State) (c : Cmd) (buf : List Byte), MemOk s → s.dram.frozen = none → s.dram.selfRefresh = false →
      let j := c.job
      let dev := j.n 24 8
      let len := j.n 20 4
      (Starts s (.memWrite c buf) c → Admits s c (fun s j => memWriteSpec s j) → (j.n 16 1 = 0 ∨ BytesHere s) →
        let data := if j.n 16 1 = 1 then hostData s buf len else j.bytes 32 len
        ∃ t, exec (.memWrite c buf) s = .next t ∧ Ends s t c .done 0 len
          ∧ (∀ x, memGet t.mem x = if dev ≤ x ∧ x < dev + len then data.getD (x - dev) 0 else memGet s.mem x))
      ∧ (Starts s (.memWrite c buf) c → Admits s c (fun s j => memWriteSpec s j) → j.n 16 1 = 1 → s.isGateway = false → s.fab.claimed = true →
        ∃ t, exec (.memWrite c buf) s = .next t ∧ t.mem = s.mem ∧ Awaits s t c)
      ∧ (Starts s (.memRead c) c → Admits s c (fun s j => memReadSpec s j) → s.isGateway = true → dmaOpen s j = false →
        ∃ t, exec (.memRead c) s = .next t ∧ Ends s t c .done 0 len ∧ t.mem = s.mem
          ∧ Out.hostWrite c.pf.val (j.n 32 8) (memRead s.mem dev len) ∈ news s t)
      ∧ (Starts s (.memRead c) c → Admits s c (fun s j => memReadSpec s j) → s.isGateway = false → s.fab.claimed = true →
        ∃ t, exec (.memRead c) s = .next t ∧ t.mem = s.mem ∧ t.host.done = s.host.done ∧ t.host.inFlight = (begun s c).host.inFlight
          ∧ t.host.dma = s.host.dma ++ [{ job := j, parts := [], ended := some (.done, 0, len) }]
          ∧ ∀ k, 256 * k < len → ∃ r, r ∈ (t.requester (mgmtKey 1 s.domain)).open_ ++ (t.requester (mgmtKey 1 s.domain)).wait ∧ r.cmd = some j
              ∧ fieldAt r.pkt.data 0 1 = 9 ∧ fieldAt r.pkt.data 8 8 = (j.n 32 8 + 256 * k) % 2 ^ 64
              ∧ slice r.pkt.data 16 (min 256 (len - 256 * k)) = memRead s.mem (dev + 256 * k) (min 256 (len - 256 * k)))
      ∧ (Starts s (.memRead c) c → Admits s c (fun s j => memReadSpec s j) → s.isGateway = false → s.fab.claimed = false → dmaOpen s j = false →
        ∃ t, exec (.memRead c) s = .next t ∧ Ends s t c .done 0 len ∧ t.mem = s.mem))

/-- R408: an admitted SERVICE_ENTER drops both interlock pins, takes the mode to SERVICE with cause 3, starts the memory test of its descriptor where
DRAM_TEST asks for it and leaves the memory controller as it is otherwise, and completes with DONE. R410: an admitted SERVICE_EXIT stops the test, takes the
mode to ACTIVE, or to STANDBY on a paired device, with cause 4, and completes with DONE.
R399: an admitted DORMANT_ENTER drops both interlock pins, closes every encode stream, stops both touch ports and keeps its descriptor with its wake
sources, its completion not yet posted. -/
def Obligations.ServiceAndDormantAreEntered : Prop :=
  (∀ (s : State) (c : Cmd),
      let j := c.job
      (Starts s (.serviceEnter c) c → Admits s c serviceEnterSpec → ∃ t, exec (.serviceEnter c) s = .next t ∧ t.sys.mode = .service ∧ t.sys.cause = 3
        ∧ (PinsOk s → t.pair.ownO = false ∧ t.pair.selO = false)
        ∧ (bit (j.n 16 1) 0 = true → t.dram.test.on = true ∧ t.dram.test.pattern = j.n 17 1 ∧ t.dram.test.base = j.n 24 8
            ∧ t.dram.test.size = j.n 32 8 ∧ t.dram.test.bad = 0)
        ∧ (bit (j.n 16 1) 0 = false → t.dram = s.dram)
        ∧ ∃ ds, t.host.done = s.host.done ++ ds ++ entry s c .done 0 0)
      ∧ (Starts s (.serviceExit c) c → Admits s c serviceExitSpec → ∃ t, exec (.serviceExit c) s = .next t
        ∧ t.sys.mode = (if s.pair.enable then .standby else .active) ∧ t.sys.cause = 4 ∧ t.dram.test.on = false ∧ Ends s t c .done 0 0))
  ∧ (∀ (s : State) (c : Cmd), Starts s (.dormantEnter c) c → Admits s c dormantEnterSpec → PinsOk s →
      ∃ t, exec (.dormantEnter c) s = .next t ∧ t.pair.ownO = false ∧ t.pair.selO = false ∧ t.encs = []
        ∧ (∀ p, p < 2 → (t.tch p).scanning = false)
        ∧ ∃ d, t.sys.dorm = some d ∧ d.job = c.job ∧ d.wake = c.job.n 16 1 ∧ d.links = c.job.n 18 2 ∧ d.posted = false)

/-- R143, R174: an admitted STREAM_OPEN opens its context as its descriptor says on the engine it names, or with ENGINE 0xFF on the ready engine that can
admit it with the lowest load, the lowest-numbered of those, zeroes its counters and answers the engine. Of device memory it changes only the 8 KiB at
CTX_BASE, and no other context.
R176, R177: a flush discards the ring, the waiting feeds and the picture in progress of its context, leaves the other contexts and completes; a close
without DRAIN closes the context as well; a close with DRAIN of a context that holds bytes, feeds or a picture puts it in state 4 and waits, and one of a
context that holds none closes it and completes. -/
def Obligations.StreamsOpenAndAreEmptied : Prop :=
  (∀ (s : State) (c : Cmd), Starts s (.streamOpen c) c → Admits s c streamOpenSpec →
      let j := c.job
      ∃ t, exec (.streamOpen c) s = .next t
        ∧ (let r := t.ctx (j.n 16 1)
           Ends s t c .done 0 r.engine ∧ r.state = 1 ∧ r.codec = j.n 18 1 ∧ (r.fabric = true ↔ j.n 19 1 = 1) ∧ r.early = bit (j.n 20 1) 0
             ∧ r.mpxs = j.n 22 2 ∧ r.maxW = j.n 24 2 ∧ r.maxH = j.n 26 2 ∧ r.src = j.n 28 2 ∧ r.flow = j.n 30 2 ∧ r.deadline = j.n 32 4
             ∧ r.feedPf = c.pf.val ∧ r.feedSq = j.n 21 1 ∧ r.ctxBase = j.n 40 8 ∧ r.esBase = j.n 48 8 ∧ r.esSize = j.n 56 4
             ∧ r.ring = [] ∧ r.feeds = [] ∧ r.cur = none ∧ r.stall = (if j.n 36 2 = 0 then 50 else j.n 36 2)
             ∧ (j.n 17 1 ≤ 7 → r.engine = j.n 17 1)
             ∧ (j.n 17 1 = 0xFF → s.isReady (4 + r.engine) = true ∧ admits s r.engine (j.n 22 2) = true
                 ∧ ∀ e, e < 8 → s.isReady (4 + e) = true → admits s e (j.n 22 2) = true →
                     decLoad s r.engine ≤ decLoad s e ∧ (e < r.engine → decLoad s r.engine < decLoad s e)))
        ∧ (∀ k, k < 10 → t.reg (ctxReg Reg.STR_DEC_CTX_DECODED (j.n 16 1) + 4 * k) = 0)
        ∧ (∀ x, (x < j.n 40 8 ∨ j.n 40 8 + 8192 ≤ x) → memGet t.mem x = memGet s.mem x)
        ∧ ∀ k, k ≠ j.n 16 1 → t.ctx k = s.ctx k)
  ∧ (∀ (s : State) (c : Cmd),
      let j := c.job
      let i := j.n 16 1
      (Starts s (.streamFlush c) c → Admits s c flushSpec → ∃ t, exec (.streamFlush c) s = .next t
        ∧ (t.ctx i).ring = [] ∧ (t.ctx i).feeds = [] ∧ (t.ctx i).cur = none ∧ (t.ctx i).expect = none
        ∧ (∃ ds, t.host.done = s.host.done ++ ds ++ entry s c .done 0 0) ∧ ∀ k, k ≠ i → t.ctx k = s.ctx k)
      ∧ (Starts s (.streamClose c) c → Admits s c closeSpec → bit (j.n 17 1) 0 = false → ∃ t, exec (.streamClose c) s = .next t
        ∧ (t.ctx i).state = 0 ∧ (t.ctx i).ring = [] ∧ (t.ctx i).feeds = [] ∧ (t.ctx i).cur = none
        ∧ (∃ ds, t.host.done = s.host.done ++ ds ++ entry s c .done 0 0) ∧ ∀ k, k ≠ i → t.ctx k = s.ctx k)
      ∧ (Starts s (.streamClose c) c → Admits s c closeSpec → bit (j.n 17 1) 0 = true →
        ((s.ctx i).cur ≠ none ∨ (s.ctx i).ring ≠ [] ∨ (s.ctx i).feeds ≠ []) → ∃ t, exec (.streamClose c) s = .next t
          ∧ (t.ctx i).state = 4 ∧ (t.ctx i).closing = some j ∧ (t.ctx i).ring = (s.ctx i).ring ∧ (t.ctx i).feeds = (s.ctx i).feeds
          ∧ t.host.done = s.host.done)
      ∧ (Starts s (.streamClose c) c → Admits s c closeSpec → bit (j.n 17 1) 0 = true →
        (s.ctx i).cur = none → (s.ctx i).ring = [] → (s.ctx i).feeds = [] → ∃ t, exec (.streamClose c) s = .next t
          ∧ (t.ctx i).state = 0 ∧ ∃ ds, t.host.done = s.host.done ++ ds ++ entry s c .done 0 0))

/-- R146, R175, R141: the bytes of an admitted feed that fits and stands first go whole into the ring, which wraps at its end, and it completes, with
UNSUPPORTED where they hold a parameter set of a profile or tool that is not decoded. A feed that does not fit, or stands behind one that does not, waits
with its bytes and has not completed; on a claimed device a feed waits for its bytes (R129).
R178: SURFACE_POOL sets a pool as its descriptor says, with nothing published, and leaves the others; a release of a pool that is not set changes no
pool, that of a pool which no pipe reads takes the pool away, and that of one being read waits. -/
def Obligations.FeedsFillTheRingAndPoolsAreSet : Prop :=
  (∀ (s : State) (c : Cmd) (buf : List Byte) (sets : FeedSets), Starts s (.streamFeed c buf sets) c → Admits s c feedSpec →
      let j := c.job
      let i := j.n 16 1
      let len := j.n 32 4
      let mid := 0x08 + (s.ctx i).engine
      (BytesHere s → (s.ctx i).feeds = [] → (s.ctx i).occ + len ≤ (s.ctx i).esSize → ∃ t, exec (.streamFeed c buf sets) s = .next t
        ∧ (t.ctx i).occ = (s.ctx i).occ + len ∧ (t.ctx i).total = (s.ctx i).total + len ∧ (t.ctx i).feeds = []
        ∧ (t.ctx i).wr = ((s.ctx i).wr + len) % (s.ctx i).esSize
        ∧ Ends s t c (if sets.all.any (fun p => setReason s i p == 1) then .unsupported else .done) 0 0
        ∧ (MemOk s → s.dram.frozen = none → s.dram.selfRefresh = false → mpuAllows s mid (s.hostInternal (j.n 24 8)) len = true →
            mpuAllows s mid (s.ctx i).esBase (s.ctx i).esSize = true → (s.ctx i).esBase + (s.ctx i).esSize ≤ s.usable →
            (s.ctx i).wr < (s.ctx i).esSize →
            ∀ k, k < len → memGet t.mem ((s.ctx i).esBase + ((s.ctx i).wr + k) % (s.ctx i).esSize) = (hostData s buf len).getD k 0)
        ∧ (MemOk s → (s.ctx i).wr < (s.ctx i).esSize → ∀ x, ¬ onRing (s.ctx i).esBase (s.ctx i).esSize (s.ctx i).wr len x →
            memGet t.mem x = memGet s.mem x))
      ∧ (BytesHere s → ((s.ctx i).feeds = [] ∧ (s.ctx i).occ + len > (s.ctx i).esSize
            ∨ ∃ f fs, (s.ctx i).feeds = f :: fs ∧ (f.here = false ∨ (s.ctx i).occ + f.buf.length > (s.ctx i).esSize)
                ∧ ∀ g ∈ f :: fs, g.job ≠ j) →
        ∃ t, exec (.streamFeed c buf sets) s = .next t ∧ (t.ctx i).ring = (s.ctx i).ring ∧ t.host.done = s.host.done ∧ t.mem = s.mem
          ∧ ∃ f, (t.ctx i).feeds = (s.ctx i).feeds ++ [f] ∧ f.job = j ∧ f.sets = sets ∧ f.here = true ∧ f.buf.length = len)
      ∧ (s.isGateway = false → s.fab.claimed = true → ∃ t, exec (.streamFeed c buf sets) s = .next t ∧ Awaits s t c
          ∧ (t.ctx i).ring = (s.ctx i).ring ∧ t.mem = s.mem
          ∧ ∃ f, (t.ctx i).feeds = (s.ctx i).feeds ++ [f] ∧ f.job = j ∧ f.sets = sets ∧ f.here = false))
  ∧ (∀ (s : State) (c : Cmd), Starts s (.surfacePool c) c → Admits s c surfacePoolSpec →
      let j := c.job
      let k := prodKey (j.n 16 1) (j.n 18 2)
      (j.n 17 1 = 1 → ∃ t, exec (.surfacePool c) s = .next t ∧ t.surface k = some (poolOf j) ∧ t.pub k = PubRec.init ∧ Ends s t c .done 0 0
        ∧ (∀ k', k' ≠ k → t.surface k' = s.surface k')
        ∧ (MemOk s → ∀ x, ¬ inRange (poolOf j).block (4096 * (1 + (poolOf j).buffers)) x → memGet t.mem x = memGet s.mem x))
      ∧ (j.n 17 1 = 0 → s.surface k = none → ∃ t, exec (.surfacePool c) s = .next t ∧ t.surf = s.surf ∧ t.mem = s.mem ∧ Ends s t c .done 0 0)
      ∧ (j.n 17 1 = 0 → s.surface k ≠ none → s.surf.reading.any (fun e => e.2.1 == k) = false → ∃ t, exec (.surfacePool c) s = .next t
        ∧ t.surface k = none ∧ t.mem = s.mem ∧ ∃ ds, t.host.done = s.host.done ++ ds ++ entry s c .done 0 0)
      ∧ (j.n 17 1 = 0 → s.surface k ≠ none → s.surf.reading.any (fun e => e.2.1 == k) = true → ∃ t, exec (.surfacePool c) s = .next t
        ∧ t.surface k = s.surface k ∧ t.mem = s.mem ∧ j ∈ t.surf.release))

/-- R99 to R102: ENC_OPEN opens a stream with its settings, the defaults for 0, leaves the other streams and answers its number; ENC_PARAMS and ENC_OUTBUF
are queued on their stream, ENC_OUTBUF not yet complete; ENC_CLOSE closes a stream of which nothing is left to code or to send, ending its buffers with
ABORTED first, and waits otherwise; without DRAIN it ends the coding of the current picture at once. -/
def Obligations.EncodeStreamsAreConfigured : Prop :=
  ∀ (s : State) (c : Cmd),
    let j := c.job
    let h := j.n 16 1
    (Starts s (.encOpen c) c → Admits s c encOpenSpec → ∃ t, exec (.encOpen c) s = .next t ∧ Ends s t c .done 0 (4 * j.n 16 1 + j.n 17 1)
      ∧ (let r := t.enc (4 * j.n 16 1 + j.n 17 1)
         r.open_ = true ∧ r.engine = j.n 16 1 ∧ r.kind = j.n 18 1 ∧ r.index = j.n 19 1 ∧ r.width = j.n 20 2 ∧ r.height = j.n 22 2
           ∧ r.chroma = j.n 24 1 ∧ r.rows = (if j.n 25 1 = 0 then 2 else j.n 25 1) ∧ r.refresh = (if j.n 26 1 = 0 then 16 else j.n 26 1)
           ∧ r.div = (if j.n 27 1 = 0 then 1 else j.n 27 1) ∧ r.bitrate = j.n 28 4 ∧ r.qpMin = j.n 32 1 ∧ r.qpMax = j.n 33 1
           ∧ r.cpb = (if j.n 34 1 = 0 then 2 else j.n 34 1) ∧ r.out = j.n 35 1 ∧ r.group = j.n 36 1 ∧ r.flow = j.n 38 2 ∧ r.mpxs = j.n 40 2
           ∧ r.keepS = j.n 42 2 ∧ r.refSize = j.n 44 4 ∧ r.refBase = j.n 48 8 ∧ r.idr = true ∧ r.bufs = [])
      ∧ ∀ k, k ≠ 4 * j.n 16 1 + j.n 17 1 → t.enc k = s.enc k)
    ∧ (Starts s (.encParams c) c → Admits s c encParamsSpec → ∃ t, exec (.encParams c) s = .next t ∧ Ends s t c .done 0 0
      ∧ t.enc h = { s.enc h with params := (s.enc h).params ++ [j] })
    ∧ (Starts s (.encOutbuf c) c → Admits s c encOutbufSpec → ∃ t, exec (.encOutbuf c) s = .next t ∧ t.host.done = s.host.done
      ∧ t.enc h = { s.enc h with bufs := (s.enc h).bufs ++ [{ job := j, used := 0 }] })
    ∧ (Starts s (.encClose c) c → Admits s c encCloseSpec → (s.enc h).queue = [] → ((s.enc h).cur = none ∨ bit (j.n 17 1) 0 = false) →
      ∃ t, exec (.encClose c) s = .next t ∧ (t.enc h).open_ = false ∧ (t.enc h).bufs = []
        ∧ (∃ ds, t.host.done = s.host.done ++ ds ++ entry s c .done 0 0)
        ∧ ∀ d ∈ t.host.done.drop s.host.done.length, d.status = .aborted ∨ [d] = entry s c .done 0 0)
    ∧ (Starts s (.encClose c) c → Admits s c encCloseSpec → ((s.enc h).queue ≠ [] ∨ ((s.enc h).cur ≠ none ∧ bit (j.n 17 1) 0 = true)) →
      ∃ t, exec (.encClose c) s = .next t ∧ (t.enc h).closing = some j ∧ (t.enc h).stop = !(bit (j.n 17 1) 0) ∧ t.host.done = s.host.done
        ∧ (t.enc h).queue = (s.enc h).queue ∧ (t.enc h).cur = (if bit (j.n 17 1) 0 then (s.enc h).cur else none))

/-- R74, R98: the full form of CAPTURE_CFG gives its port the EDID, the limits, the expected size and the buffer set and drives HPD high while PD8 is on;
the EDID form changes the EDID alone and drives HPD low; the stop form disables the port, drives HPD low and ends its signal. On a claimed device the two
forms that read an EDID first wait for its bytes (R129).
R74: the pulse of an EDID replacement ends with HPD high on an enabled port while PD8 is on. R71, R73, R98: a link trained within the configured rate
and lanes is the port's link; one that lost lock is answered with IRQ_HPD; every training that ends in
a trained link, or finds one, raises CAP_LINK (the model's reading, log entry 138). -/
def Obligations.CapturePortsAreConfiguredAndTrain : Prop :=
  (∀ (s : State) (c : Cmd) (edid : List Byte), Starts s (.captureCfg c edid) c → Admits s c captureCfgSpec →
      let j := c.job
      let p := j.n 16 1
      (bit (j.n 22 1) 0 = true → BytesHere s → ∃ t, exec (.captureCfg c edid) s = .next t ∧ Ends s t c .done 0 0
        ∧ t.cap p = { s.cap p with edid := hostData s edid (j.n 24 2), pulse := true, hpd := false } ∧ t.surf = s.surf ∧ t.mem = s.mem)
      ∧ (bit (j.n 22 1) 0 = false → j.n 17 1 = 1 → BytesHere s → ∃ t, exec (.captureCfg c edid) s = .next t ∧ Ends s t c .done 0 0
        ∧ (t.cap p).enabled = true ∧ (t.cap p).lanesMax = j.n 18 1 ∧ (t.cap p).rateMax = j.n 19 1 ∧ (t.cap p).format = j.n 20 1
        ∧ (t.cap p).width = j.n 26 2 ∧ (t.cap p).height = j.n 28 2 ∧ (t.cap p).edid = hostData s edid (j.n 24 2)
        ∧ (s.pdOn 8 = true → (t.cap p).hpd = true) ∧ t.surface (prodKey 1 p) = some (capSurf j) ∧ t.pub (prodKey 1 p) = PubRec.init
        ∧ (MemOk s → ∀ x, ¬ inRange (capSurf j).block (4096 * (1 + (capSurf j).buffers)) x → memGet t.mem x = memGet s.mem x))
      ∧ ((bit (j.n 22 1) 0 = true ∨ j.n 17 1 = 1) → s.isGateway = false → s.fab.claimed = true →
          ∃ t, exec (.captureCfg c edid) s = .next t ∧ Awaits s t c ∧ t.cap p = s.cap p ∧ t.mem = s.mem)
      ∧ (bit (j.n 22 1) 0 = false → j.n 17 1 = 0 → ∃ t, exec (.captureCfg c edid) s = .next t ∧ Ends s t c .done 0 0
        ∧ (t.cap p).enabled = false ∧ (t.cap p).hpd = false ∧ (t.cap p).signal = false ∧ t.mem = s.mem))
  ∧ (∀ (s : State) (p : Fin 4) (trained : Bool) (rate : Fin 4) (lanes : Nat), s.pdOn 6 = true →
      let r := s.cap p.val
      (∃ t, exec (.hpdPulseEnd p) s = .next t ∧ (t.cap p.val).pulse = false ∧ ((t.cap p.val).hpd = true ↔ r.enabled = true ∧ s.pdOn 8 = true)
        ∧ (t.cap p.val).edid = r.edid)
      ∧ (trained = true → r.hpd = true → rate.val ≤ r.rateMax → lanes ≤ r.lanesMax →
        ∃ t, exec (.sinkLinkTraining p trained rate lanes) s = .next t ∧ (t.cap p.val).trained = true ∧ (t.cap p.val).rate = rate.val
          ∧ (t.cap p.val).lanes = lanes
          ∧ Raised s t 0x0460 (leBytes 1 p.val ++ leBytes 1 1 ++ leBytes 1 rate.val ++ leBytes 1 lanes))
      ∧ (trained = false → r.trained = true → ∃ t, exec (.sinkLinkTraining p trained rate lanes) s = .next t
          ∧ (t.cap p.val).trained = false ∧ (t.cap p.val).rate = 0 ∧ (t.cap p.val).lanes = 0 ∧ Out.irqHpd p.val ∈ news s t
          ∧ Raised s t 0x0460 (leBytes 1 p.val ++ leBytes 1 0 ++ leBytes 1 0 ++ leBytes 1 0))
      ∧ ((trained = false ∨ r.hpd = false ∨ r.rateMax < rate.val ∨ r.lanesMax < lanes) → r.trained = false → r.rate = 0 → r.lanes = 0 →
        ∃ t, exec (.sinkLinkTraining p trained rate lanes) s = .next t ∧ t.cap p.val = r ∧ t.out = s.out))

/-- R73, R75, R76, R79: a picture on an enabled, trained port that breaks a limit is discarded and counted; one that keeps them is given the lowest-numbered
free buffer and its epoch, or is skipped and counted; its next 64 rows, or its last ones, are published as a band with the picture's epoch, the last one ending the picture;
without a signal nothing further is published. -/
def Obligations.PicturesAreCaptured : Prop :=
  ∀ (s : State) (p : Fin 4) (m : Msa) (elems : List (List (List U16))), s.pdOn 6 = true →
    let key := prodKey 1 p.val
    let r := s.cap p.val
    let at_ := fun (t : State) => t.cap p.val
    let n := min 64 (m.height - r.row)
    ((r.enabled = false ∨ r.trained = false) → exec (.capturePictureStart p m) s = .next s)
    ∧ (r.enabled = true → r.trained = true → capAccepts r m = false → ∃ t, exec (.capturePictureStart p m) s = .next t
      ∧ (at_ t).refused = true ∧ (at_ t).live = false ∧ (at_ t).cur = none ∧ t.surf = s.surf ∧ t.mem = s.mem
      ∧ t.cnt (Reg.STR_CAP_REFUSED + 0x100 * p.val) = min (s.cnt (Reg.STR_CAP_REFUSED + 0x100 * p.val) + 1) 0xFFFFFFFF)
    ∧ (∀ f b, r.enabled = true → r.trained = true → capAccepts r m = true → s.surface key = some f → freeBuffer s key f [] = some b →
      ∃ t, exec (.capturePictureStart p m) s = .next t ∧ (at_ t).signal = true ∧ (at_ t).live = true ∧ (at_ t).cur.isSome = true
        ∧ (t.pub key).buf = b ∧ (t.pub key).rows = 0 ∧ (t.pub key).cur.height = m.height ∧ (t.pub key).cur.epoch = s.ft.toNat
        ∧ (t.pub key).cur.bands = []
        ∧ (MemOk s → ∀ x, ¬ inFence f x → ¬ inRecord f b 0 0 x → memGet t.mem x = memGet s.mem x))
    ∧ (∀ f, r.enabled = true → r.trained = true → capAccepts r m = true → s.surface key = some f → freeBuffer s key f [] = none →
      ∃ t, exec (.capturePictureStart p m) s = .next t ∧ (at_ t).cur = none ∧ (at_ t).live = true ∧ t.surf = s.surf ∧ t.mem = s.mem
        ∧ t.cnt (Reg.STR_CAP_SKIP + 0x100 * p.val) = min (s.cnt (Reg.STR_CAP_SKIP + 0x100 * p.val) + 1) 0xFFFFFFFF)
    ∧ (∀ f, r.cur.isSome = true → r.msa = some m → s.surface key = some f → r.enabled = true → r.live = true → r.row < m.height →
      n ≤ (elems.headD []).length → ∃ t, exec (.captureBand p elems) s = .next t
        ∧ (at_ t).row = r.row + n ∧ (t.pub key).rows = r.row + n ∧ (t.pub key).buf = (s.pub key).buf
        ∧ (∃ b, (t.pub key).cur.bands = (s.pub key).cur.bands ++ [b] ∧ b.first = r.row ∧ b.epoch = r.epoch ∧ b.rows = n)
        ∧ (m.height - r.row ≤ 64 → (at_ t).cur = none
            ∧ t.cnt (Reg.STR_CAP_PICS + 0x100 * p.val) = min (s.cnt (Reg.STR_CAP_PICS + 0x100 * p.val) + 1) 0xFFFFFFFF)
        ∧ (MemOk s → (f.format = 0x10 ∨ f.format = 0x11 ∨ f.format = 0x20) → ∀ x, ¬ onRows f m.width (s.pub key).buf r.row n x →
            ¬ inFence f x → ¬ inRecord f (s.pub key).buf (s.pub key).cur.bands.length 1 x → memGet t.mem x = memGet s.mem x))
    ∧ ((r.enabled = false ∨ r.live = false ∨ (elems.headD []).length < n) → exec (.captureBand p elems) s = .next s)
    ∧ (r.signal = true → ∃ t, exec (.capSignalLoss p) s = .next t ∧ (at_ t).signal = false ∧ (at_ t).cur = none
      ∧ Raised s t 0x0462 (leBytes 1 p.val ++ leBytes 1 0 ++ leBytes 8 s.ft.toNat))
    ∧ (r.signal = false → exec (.capSignalLoss p) s = .next s)

/-- R80, R81, R84, R86, R90: an open stream codes every FRAME_DIV-th accepted picture of its input, unless it comes too soon, when it is dropped and counted;
the picture starts in NORMAL with its slices, its hard budget, its count and its input's epoch, and ends a keepalive. R87: it starts at the QP halfway
between the bounds after an IDR picture, else at the mean of the last one. Which picture of FRAME_DIV is coded, the first of each, is the model's reading (log entry 138).
R90: without valid input a stream with KEEPALIVE_S emits pictures of held slices that carry KEEPALIVE and the previous PIC_EPOCH, until it expires;
entering and leaving keepalive raise ENC_KEEPALIVE. PIC_COUNT of ENC_KEEPALIVE, the next picture's, is the
model's reading (log entry 138). -/
def Obligations.EncodePicturesStartAndAreKeptAlive : Prop :=
  (∀ (s : State) (h : Fin 8), s.pdOn 6 = true →
      let r := s.enc h.val
      let e := fun (t : State) => t.enc h.val
      let soon := fun (t0 : Nat) => (s.ft.toNat - t0) * r.mpxs < r.width * r.height * 1000
      let takes := r.open_ = true ∧ r.closing = none ∧ inputLive s r = true ∧ s.isReady (12 + r.engine) = true
      let d := ({ r with period := inputPeriod s r } : EncRec).drain
      (¬ takes → exec (.encPictureStart h) s = .next s)
      ∧ (takes → r.keeping = false → r.expired = false → r.inCount % r.div ≠ 0 → ∃ t, exec (.encPictureStart h) s = .next t
        ∧ e t = { r with inCount := r.inCount + 1, taking := false } ∧ t.out = s.out)
      ∧ (∀ t0, takes → r.inCount % r.div = 0 → r.lastStart = some t0 → soon t0 → ∃ t, exec (.encPictureStart h) s = .next t
        ∧ (e t).cur = r.cur ∧ (e t).picCount = r.picCount ∧ (e t).lastStart = some t0
        ∧ t.cnt (encReg Reg.STR_ENC_DROP_CNT h.val) = min (s.cnt (encReg Reg.STR_ENC_DROP_CNT h.val) + 1) 0xFFFFFFFF)
      ∧ (takes → r.inCount % r.div = 0 → (∀ t0, r.lastStart = some t0 → ¬ soon t0) → r.cur = none → r.params = [] →
        ∃ t, exec (.encPictureStart h) s = .next t ∧ (e t).lastStart = some s.ft.toNat ∧ (e t).picCount = (r.picCount + 1) % 2 ^ 32
          ∧ (e t).idr = false ∧ (e t).keeping = false ∧ (e t).expired = false
          ∧ (r.keeping = true → Raised s t 0x0472 (leBytes 1 h.val ++ leBytes 1 0 ++ leBytes 4 r.picCount))
          ∧ ∃ p, (e t).cur = some p ∧ p.idr = r.idr ∧ p.keep = false ∧ p.state = 0 ∧ p.next = 0 ∧ p.used = 0 ∧ p.slices = r.sliceCount
              ∧ p.count = r.picCount ∧ p.drain = d ∧ p.budget = max d (r.cpb * d - r.full) ∧ d ≤ p.budget
              ∧ (r.afterIdr = true → 2 * p.qp = r.qpMin + r.qpMax ∨ 2 * p.qp = r.qpMin + r.qpMax + 1 ∨ 2 * p.qp + 1 = r.qpMin + r.qpMax)
              ∧ (r.afterIdr = false → ∀ q : Nat, r.meanQp = some q → p.qp = q)
              ∧ p.epoch = (if r.kind = 0 then (s.cap r.index).epoch else (s.tg r.index).startFt)))
  ∧ (∀ (s : State) (h : Fin 8), s.pdOn 6 = true →
      let r := s.enc h.val
      let e := fun (t : State) => t.enc h.val
      ((r.open_ = false ∨ r.keepS = 0 ∨ r.expired = true ∨ keepDue s r = false) → exec (.keepalivePicture h) s = .next s)
      ∧ (r.open_ = true → r.closing = none → r.keepS ≠ 0 → r.expired = false → keepDue s r = true → r.cur = none → r.params = [] → 0 < r.sliceCount →
        ∃ t, exec (.keepalivePicture h) s = .next t ∧ (e t).keeping = true ∧ (e t).cur = none ∧ (e t).epoch = r.epoch
          ∧ (e t).picCount = (r.picCount + 1) % 2 ^ 32
          ∧ (r.keeping = false → Raised s t 0x0472 (leBytes 1 h.val ++ leBytes 1 1 ++ leBytes 4 r.picCount))
          ∧ ∃ l, (e t).queue = r.queue ++ l ∧ l.length = r.sliceCount
              ∧ ∀ o, o ∈ l → bit o.sei.flags.toNat 0 = true ∧ bit o.sei.flags.toNat 6 = true ∧ o.sei.picEpoch = BitVec.ofNat 64 r.epoch
                  ∧ o.sei.picCount = BitVec.ofNat 32 r.picCount)
      ∧ (r.keeping = true → ∃ t, exec (.keepaliveExpiry h) s = .next t ∧ (e t).keeping = false ∧ (e t).expired = true
        ∧ Raised s t 0x0472 (leBytes 1 h.val ++ leBytes 1 0 ++ leBytes 4 r.picCount))
      ∧ (r.keeping = false → exec (.keepaliveExpiry h) s = .next s))

/-- R87 to R89 and Table: rate control states: a slice is coded at the loop's QP while the projection at that QP fits, at QPMAX while only that one fits, and
is held otherwise, as are all slices of a picture from its first held one on; a slice found too large is replaced by a held one; the picture's last slice
carries the bucket on. AT_BOUND is set at a slice coded away from the QP that the loop asks for, or held. No slice is coded before its last input row has
arrived. The projection leaves a slice that was never coded without a size, so each case asks for every value of it. -/
def Obligations.SlicesAreCodedOrHeld : Prop :=
  ∀ (s : State) (h : Fin 8) (sl : CodedSlice) (p : EncPic), s.pdOn 6 = true →
    let r := s.enc h.val
    let e := fun (t : State) => t.enc h.val
    let left := p.slices - p.next
    let q := (r.clampQp (loopQp r p)).toNat
    let A : Int := (p.budget : Int) - p.used - left * 4096
    let fits := fun (x : Nat) => (x : Int) ≤ A * 2 ^ 42
    let small := p.used + sl.bits + (left - 1) * 4096 ≤ p.budget
    let here := r.nextRows p ≤ r.lines.length
    let more := r.cur = some p ∧ r.closing = none ∧ here ∧ p.next + 1 < p.slices
    let coded := fun (qp st : Nat) => ∃ t, exec (.sliceCoding h sl) s = .next t ∧ (∃ p', (e t).cur = some p' ∧ p'.next = p.next + 1
        ∧ p'.used = p.used + sl.bits ∧ p'.state = st ∧ p'.held = p.held)
      ∧ (e t).atBound = decide (st = 1 ∨ loopQp r p ≠ r.clampQp (loopQp r p))
      ∧ ∃ o, (e t).queue = r.queue ++ [o] ∧ bit o.sei.flags.toNat 0 = false ∧ o.sei.qp = BitVec.ofNat 8 qp ∧ o.sei.slice = BitVec.ofNat 8 p.next
    let held := ∃ t, exec (.sliceCoding h sl) s = .next t ∧ (e t).atBound = true ∧ (∃ p', (e t).cur = some p' ∧ p'.next = p.next + 1
        ∧ p'.used = p.used + min sl.heldBits 4096 ∧ p'.state = 2 ∧ p'.held = p.held + 1)
      ∧ t.cnt (encReg Reg.STR_ENC_HELD_CNT h.val) = min (s.cnt (encReg Reg.STR_ENC_HELD_CNT h.val) + 1) 0xFFFFFFFF
      ∧ ∃ o, (e t).queue = r.queue ++ [o] ∧ bit o.sei.flags.toNat 0 = true
        ∧ o.sei.bandEpoch = BitVec.ofNat 64 (if p.idr then 0 else r.epochs.getD p.next 0)
    ((r.cur = none ∨ r.cur = some p ∧ ¬ here) → exec (.sliceCoding h sl) s = .next s)
    ∧ (more → p.state = 0 → (∀ x, fits (projection r p q x)) → small → coded q 0)
    ∧ (more → p.state = 0 → (∀ x, ¬ fits (projection r p q x)) → (∀ x, fits (projection r p r.qpMax x)) → small → coded r.qpMax 1)
    ∧ (more → p.state = 1 → (∀ x, fits (projection r p r.qpMax x)) → small → coded r.qpMax 1)
    ∧ (more → p.state ≤ 1 → (∀ x, ¬ fits (projection r p q x)) → (∀ x, ¬ fits (projection r p r.qpMax x)) → held)
    ∧ (more → p.state = 2 → held)
    ∧ (more → ¬ small → held)
    ∧ (r.cur = some p → r.closing = none → here → p.next + 1 = p.slices → p.state = 2 → ∃ t, exec (.sliceCoding h sl) s = .next t ∧ (e t).cur = none
      ∧ (e t).full = r.full + (p.used + min sl.heldBits 4096) - p.drain ∧ (e t).afterIdr = p.idr
      ∧ (e t).idx = (if p.idr then 0 else if p.idx + 1 ≥ r.refresh then 0 else p.idx + 1))

/-- R92 to R95: the oldest slice of the queue leaves, on the fabric as packets of at most 508 bytes that advance the flow's SEQ, dropped and counted where the
engine's 1 MiB queue cannot hold it (how much earlier slices left there is a free value), and into the host buffers as a record, left out and counted where it does not fit. 
A record does not fit where the total of the remaining buffers is too small: the model's reading (log entry 33). -/
def Obligations.SlicesLeave : Prop :=
  ∀ (s : State) (h : Fin 8) (params nal : List Byte) (o : SliceOut) (q : List SliceOut), s.pdOn 6 = true →
    let r := s.enc h.val
    let e := fun (t : State) => t.enc h.val
    let b := sliceBytes o params nal
    let size : Nat := (slicePackets s h.val o b).foldl (fun a p => a + p.size) 0
    let recLen := 16 + b.length + (16 - b.length % 16) % 16
    (r.queue = [] → exec (.sliceReady h params nal) s = .next s)
    ∧ (r.queue = o :: q → r.closing = none → ∃ t, exec (.sliceReady h params nal) s = .next t ∧ (e t).queue = q ∧ (e t).cur = r.cur
      ∧ (bit r.out 0 = true → (e t).seq = (r.seq + (b.length + 507) / 508) % 65536)
      ∧ (bit r.out 0 = false → (e t).seq = r.seq)
      ∧ (bit r.out 0 = true → size > 0x100000 →
          t.cnt (encReg Reg.STR_ENC_FABDROP_CNT h.val) = min (s.cnt (encReg Reg.STR_ENC_FABDROP_CNT h.val) + 1) 0xFFFFFFFF)
      ∧ (bit r.out 0 = true → size ≤ 0x100000 → engQueued s (h.val / 4) = 0 →
          t.cnt (encReg Reg.STR_ENC_FABDROP_CNT h.val) = s.cnt (encReg Reg.STR_ENC_FABDROP_CNT h.val))
      ∧ (bit r.out 1 = true → recLen > bufRoom r.bufs → (e t).discont = true
          ∧ t.cnt (encReg Reg.STR_ENC_HOSTDROP_CNT h.val) = min (s.cnt (encReg Reg.STR_ENC_HOSTDROP_CNT h.val) + 1) 0xFFFFFFFF)
      ∧ (bit r.out 1 = false → (e t).bufs = r.bufs)
      ∧ ∀ f fs, bit r.out 1 = true → r.bufs = f :: fs → f.used + recLen < f.job.n 32 4 → f.job.n 17 1 = 0 →
          firstDenied s (0x18 + r.engine) (s.hostInternal (f.job.n 24 8 + f.used)) recLen = none →
          (e t).bufs = { f with used := f.used + recLen } :: fs ∧ (e t).discont = false)

/-- R152, R153, R154, R157: an idle engine starts, of the contexts whose next picture it may start, the one with the earliest deadline, on equal deadlines the
lowest; the picture takes the lowest free buffer. A busy engine starts nothing, and neither does a picture without a buffer. R141, R142, R172: a refused
picture's bytes leave the ring and it is counted; a refused SPS is recorded, puts its context in REFUSED, and reports itself where it came on the fabric. -/
def Obligations.PicturesAreStarted : Prop :=
  ∀ (s : State) (e : Fin 8) (ready : List (Fin 256 × PicInfo)), s.pdOn 5 = true →
    let s1 := ready.foldl (fun u x => takeParams u x.1.val x.2.sets) s
    let sps := fun (x : Fin 256 × PicInfo) => picSps s1 x.1.val x.2
    let due := fun (x : Fin 256 × PicInfo) => (sps x).elim 0 (deadlineOf (s1.ctx x.1.val))
    let fine := fun (x : Fin 256 × PicInfo) => s.ctxOpen x.1.val = true ∧ (s.ctx x.1.val).engine = e.val ∧ (s.ctx x.1.val).cur = none
      ∧ picRefusal s1 x.1.val x.2 = 0 ∧ x.2.release = [] ∧ dataReady (s1.ctx x.1.val) x.2 = true
      ∧ (sps x).all (rateReady s1 (s1.ctx x.1.val)) = true
    (ready ≠ [] → (∀ x, x ∈ ready → fine x ∧ (decBuffer s1 x.1.val x.2).isSome = true) → (s.eng e.val).busy = none → s.isReady (4 + e.val) = true →
      ∃ t x p q, exec (.pictureStart e ready) s = .next t ∧ x ∈ ready ∧ sps x = some q ∧ (t.eng e.val).busy = some x.1.val
        ∧ (∀ y, y ∈ ready → due x < due y ∨ due x = due y ∧ x.1.val ≤ y.1.val)
        ∧ (t.ctx x.1.val).cur = some p ∧ decBuffer s1 x.1.val x.2 = some p.buf ∧ p.width = q.width ∧ p.height = q.height
        ∧ p.deadline = due x ∧ p.published = 0 ∧ (t.ctx x.1.val).lastStart = some s.ft.toNat
        ∧ ((s1.ctx x.1.val).state ≠ 4 → (t.ctx x.1.val).state = 2)
        ∧ (inOrderOf (s.ctx x.1.val).codec q = true → x.2.output = true →
            (t.pub x.1.val).buf = p.buf ∧ (t.pub x.1.val).rows = 0 ∧ (t.pub x.1.val).cur.epoch = p.epoch)
        ∧ (∀ v, x.2.sei = some v → v.ok = true → p.epoch = v.picEpoch.toNat))
    ∧ ((∀ x, x ∈ ready → fine x) → ((s.eng e.val).busy.isSome = true ∨ s.isReady (4 + e.val) = false) → ∃ t, exec (.pictureStart e ready) s = .next t
      ∧ t.dec = s1.dec ∧ t.surf = s.surf)
    ∧ ((∀ x, x ∈ ready → fine x ∧ decBuffer s1 x.1.val x.2 = none) → ∃ t, exec (.pictureStart e ready) s = .next t
      ∧ t.dec = s1.dec ∧ t.surf = s.surf)
    ∧ (∀ c pic, ready = [(c, pic)] → s.ctxOpen c.val = true → (s.ctx c.val).engine = e.val → (s.ctx c.val).cur = none → (s.ctx c.val).feeds = [] →
      (s.ctx c.val).closing = none → picRefusal s1 c.val pic ≠ 0 → ∃ t, exec (.pictureStart e ready) s = .next t
        ∧ (t.ctx c.val).cur = none ∧ (t.ctx c.val).ring = (consume (s.ctx c.val).ring pic.bytes true).1 ∧ t.dec.engs = s.dec.engs
        ∧ t.cnt (ctxReg Reg.STR_DEC_CTX_SKIPPED c.val) = min (s.cnt (ctxReg Reg.STR_DEC_CTX_SKIPPED c.val) + 1) 0xFFFFFFFF
        ∧ (picRefusal s1 c.val pic ≠ 4 → (s1.ctx c.val).state ≠ 4 → (t.ctx c.val).state = 3))
    ∧ (∀ c pic id q n, ready = [(c, pic)] → s.ctxOpen c.val = true → (s.ctx c.val).engine = e.val → (s.ctx c.val).cur = none →
      (s.ctx c.val).setsTaken = false → (s.ctx c.val).fabric = true → (s.ctx c.val).feeds = [] → (s.ctx c.val).closing = none →
      pic.sets = [.sps id q n] → pic.sps = some id → spsRefusal s c.val q ≠ 0 →
      let k := spsRefusal s c.val q
      ∃ t, exec (.pictureStart e ready) s = .next t ∧ (t.ctx c.val).sps.get? id = some q
        ∧ t.reg (ctxReg Reg.STR_DEC_CTX_REFUSE c.val) = k * 256 + (refuseStatus k).code
        ∧ ((s.ctx c.val).state ≠ 4 → (t.ctx c.val).state = 3))

/-- R154, R156, R160, R168, R169, R172: a slice in the ring that passes its checks joins its picture; when at least 16 further rows are complete they are
published as one band; a slice that fails is counted and its rows are concealed; one whose address repeats the last is discarded, and one with a lower
address ends the picture; the picture's last slice finishes it and frees the engine. R154, R172: STALL_LIMIT conceals the rest and frees the engine once
STALL_MS has passed without a slice. R179: the conceal window's end gives the count of what was coalesced. That an address below the
last one's ends the picture is the model's reading (log entry 137). -/
def Obligations.SlicesAreDecoded : Prop :=
  ∀ (s : State) (e : Fin 8) (w : Bool) (sl : SliceInfo) (c : Fin 256) (p : DecPic) (f : SurfRec), s.pdOn 5 = true →
    let r := s.ctx c.val
    let at_ := fun (t : State) => t.ctx c.val
    let running := (s.eng e.val).busy = some c.val ∧ r.cur = some p ∧ r.engine = e.val ∧ s.surface c.val = some f ∧ r.feeds = []
    let here := sl.bytes ≤ r.occ
    let fit := here ∧ p.lastAddr.all (fun a => decide (a < sl.addr)) = true
      ∧ sl.firstRow = p.nextRow ∧ 0 < sl.rows ∧ sl.firstRow + sl.rows ≤ p.height
    let ws := sliceWrites f p sl sl.firstRow sl.rows
    let fail := sliceFail s r f p sl ws
    let good := fail = 0 ∧ sl.missingRef = false ∧ (r.refBad = false ∨ p.irap = true ∨ sl.intra = true)
    let told := p.sei.isSome = true ∨ sl.sei.filter (·.ok) = none
    let d := min p.height sl.rowsDone
    let due := p.published < d ∧ (p.published + 16 ≤ d ∨ d = p.height)
    let rest := (consume r.ring sl.bytes true).1
    let whole := (if r.fabric then r.ring.any (·.closes) else w && !r.ring.isEmpty) = true
    let ended := fun (t : State) => (at_ t).cur = none ∧ (t.eng e.val).busy = none ∧ (at_ t).prevBuf = p.buf
    ((s.eng e.val).busy = none → exec (.sliceDecode e sl) s = .next s)
    ∧ (running → ¬ here → exec (.sliceDecode e sl) s = .next s)
    ∧ (running → fit → good → sl.last = false → ∃ t, exec (.sliceDecode e sl) s = .next t ∧ (at_ t).ring = rest
      ∧ (t.eng e.val).busy = some c.val
      ∧ (∃ p', (at_ t).cur = some p' ∧ p'.nextRow = sl.firstRow + sl.rows ∧ p'.lastAddr = some sl.addr ∧ p'.aborted = p.aborted
          ∧ p'.subst = p.subst
          ∧ (due → p'.published = d ∧ p'.bands.length = p.bands.length + 1) ∧ (¬ due → p'.published = p.published ∧ p'.bands = p.bands))
      ∧ (due → p.inOrder = true → p.output = true → (t.pub c.val).rows = d)
      ∧ (¬ due → told → (t.pub c.val) = s.pub c.val)
      ∧ (¬ due → told → ws = [] → t.mem = s.mem)
      ∧ (MemOk s → ∀ x, (∀ q, q ∈ ws → ¬ inRange (f.buffer p.buf + q.1.toNat) q.2.length x) → ¬ inRecord f p.buf (s.pub c.val).cur.bands.length 1 x →
          (due → (s.pub c.val).buf = p.buf ∧ ¬ inFence f x ∧ ¬ onReduced f p.width p.height p.buf p.published d x) → memGet t.mem x = memGet s.mem x))
    ∧ (running → fit → fail ≠ 0 → sl.last = false → ∃ t, exec (.sliceDecode e sl) s = .next t ∧ (at_ t).ring = rest
      ∧ (∃ p', (at_ t).cur = some p' ∧ p'.nextRow = sl.firstRow + sl.rows ∧ p'.aborted = true)
      ∧ t.cnt (ctxReg Reg.STR_DEC_CTX_ABORTED c.val) = min (s.cnt (ctxReg Reg.STR_DEC_CTX_ABORTED c.val) + 1) 0xFFFFFFFF
      ∧ t.cnt (Reg.STR_DEC_ENG_ABORT_CNT + 0x100 * e.val) = min (s.cnt (Reg.STR_DEC_ENG_ABORT_CNT + 0x100 * e.val) + 1) 0xFFFFFFFF
      ∧ (fail = 7 → t.cnt (Reg.STR_DEC_ENG_BUDGET_CNT + 0x100 * e.val) = min (s.cnt (Reg.STR_DEC_ENG_BUDGET_CNT + 0x100 * e.val) + 1) 0xFFFFFFFF)
      ∧ (fail = 8 → t.cnt (Reg.STR_DEC_ENG_CLAMP_CNT + 0x100 * e.val) = min (s.cnt (Reg.STR_DEC_ENG_CLAMP_CNT + 0x100 * e.val) + 1) 0xFFFFFFFF))
    ∧ (running → here → p.lastAddr = some sl.addr → sl.last = false → ¬ due → ∃ t, exec (.sliceDecode e sl) s = .next t ∧ (at_ t).ring = rest
      ∧ t.mem = s.mem ∧ t.surf = s.surf ∧ ∃ p', (at_ t).cur = some p' ∧ p'.nextRow = p.nextRow ∧ p'.bands = p.bands ∧ p'.slices = p.slices)
    ∧ (∀ a, running → here → p.lastAddr = some a → sl.addr < a → sl.release = [] → r.closing = none → ∃ t, exec (.sliceDecode e sl) s = .next t
      ∧ ended t ∧ (at_ t).ring = r.ring)
    ∧ (running → fit → good → sl.last = true → p.height ≤ sl.rowsDone → sl.release = [] → r.closing = none →
      ∃ t, exec (.sliceDecode e sl) s = .next t ∧ ended t ∧ (at_ t).refBad = false ∧ (at_ t).state = r.state
        ∧ (p.inOrder = true → p.output = true → p.published < p.height → (t.pub c.val).rows = p.height)
        ∧ (p.inOrder = true → p.output = true →
            t.cnt (ctxReg Reg.STR_DEC_CTX_DECODED c.val) = min (s.cnt (ctxReg Reg.STR_DEC_CTX_DECODED c.val) + 1) 0xFFFFFFFF)
        ∧ (p.inOrder = false → p.output = true → ∃ hp, (at_ t).held = r.held ++ [hp] ∧ hp.pic.buf = p.buf))
    ∧ (running → fit → good → sl.last = true → d < p.height → p.done < p.height → sl.release = [] → r.closing = none →
      ∃ t, exec (.sliceDecode e sl) s = .next t ∧ ended t)
    ∧ ((s.eng e.val).busy = none → exec (.stallLimit ⟨e, w⟩) s = .next s)
    ∧ (running → (whole ∨ s.clk < r.lastByte + r.stall * 1000000) → exec (.stallLimit ⟨e, w⟩) s = .next s)
    ∧ (running → ¬ whole → r.lastByte + r.stall * 1000000 ≤ s.clk → ∃ t, exec (.stallLimit ⟨e, w⟩) s = .next t ∧ ended t)
    ∧ (∃ t, exec (.decConcealWindowEnd c) s = .next t ∧ (at_ t).conc = false ∧ (at_ t).concCnt = 0
      ∧ (r.conc = true → r.concCnt ≠ 0 → Raised s t 0x0402 (r.concLast ++ leBytes 4 r.concCnt))
      ∧ ((r.conc = false ∨ r.concCnt = 0) → t.out = s.out))

/-- R148, R149: a STREAM packet of no open context is counted; one that is stale is counted and dropped; one that is accepted moves the expected SEQ on, counts
what is missing, and puts its bytes into the ring with a mark of the gap; one that does not fit is counted and its slice skipped;
the packets of a slice that is skipped go the same way. -/
def Obligations.StreamPacketsAreDemultiplexed : Prop :=
  ∀ (s : State) (p : Packet) (c : Nat) (r : CtxRec), s.pdOn 9 = true →
    let hit := s.dec.ctxs.find? (fun x => !(x.2.state == 0) && x.2.fabric && x.2.src == p.src && x.2.flow == p.flow)
    let ahead := match r.expect with | some x => (p.seq + 65536 - x) % 65536 | none => 0
    let b := slice p.data 4 (min 508 (fieldAt p.data 0 2))
    let start := bit (fieldAt p.data 2 1) 0
    (hit = none → ∃ t, exec (.streamDemux p) s = .next t ∧ t.dec = s.dec ∧ t.mem = s.mem
      ∧ t.cnt Reg.STR_DEMUX_UNMATCHED = min (s.cnt Reg.STR_DEMUX_UNMATCHED + 1) 0xFFFFFFFF)
    ∧ (hit = some (c, r) → p.restart = false → 32769 ≤ ahead → ∃ t, exec (.streamDemux p) s = .next t ∧ t.dec = s.dec ∧ t.mem = s.mem
      ∧ t.cnt Reg.STR_DEMUX_STALE = min (s.cnt Reg.STR_DEMUX_STALE + 1) 0xFFFFFFFF)
    ∧ (hit = some (c, r) → (p.restart = true ∨ ahead < 32769) → (r.skipping = false ∨ start = true) → r.occ + b.length ≤ r.esSize →
      ∃ t, exec (.streamDemux p) s = .next t ∧ (t.ctx c).expect = some ((p.seq + 1) % 65536) ∧ (t.ctx c).total = r.total + b.length
        ∧ (t.ctx c).skipping = false ∧ (t.ctx c).gapNext = 0
        ∧ (∃ k, (t.ctx c).ring = r.ring ++ [k] ∧ k.len = b.length ∧ k.gap = (if ahead ≠ 0 then 10 else r.gapNext) ∧ k.epoch = s.ft.toNat
            ∧ k.starts = start)
        ∧ (p.restart = false → t.cnt (ctxReg Reg.STR_DEC_CTX_SEQGAP c) = min (s.cnt (ctxReg Reg.STR_DEC_CTX_SEQGAP c) + ahead) 0xFFFFFFFF)
        ∧ (p.restart = true → t.cnt (ctxReg Reg.STR_DEC_CTX_SEQGAP c) = s.cnt (ctxReg Reg.STR_DEC_CTX_SEQGAP c))
        ∧ (MemOk s → r.wr < r.esSize → ∀ x, ¬ onRing r.esBase r.esSize r.wr b.length x → memGet t.mem x = memGet s.mem x))
    ∧ (hit = some (c, r) → (p.restart = true ∨ ahead < 32769) → (r.skipping = false ∨ start = true) → r.esSize < r.occ + b.length →
      ∃ t, exec (.streamDemux p) s = .next t ∧ (t.ctx c).expect = some ((p.seq + 1) % 65536) ∧ (t.ctx c).skipping = true ∧ t.mem = s.mem
        ∧ (t.ctx c).gapNext = 11
        ∧ t.cnt (ctxReg Reg.STR_DEC_CTX_ESDROP c) = min (s.cnt (ctxReg Reg.STR_DEC_CTX_ESDROP c) + 1) 0xFFFFFFFF)
    ∧ (hit = some (c, r) → (p.restart = true ∨ ahead < 32769) → r.skipping = true → start = false → ∃ t, exec (.streamDemux p) s = .next t
      ∧ (t.ctx c).expect = some ((p.seq + 1) % 65536) ∧ t.mem = s.mem
      ∧ (t.ctx c).ring = if bit (fieldAt p.data 2 1) 3 then markEnd r.ring else r.ring)

/-- R124, R157: a RASTER packet whose receiver has no pool, no picture or no buffer is counted and dropped; a stale one changes nothing; PIC_START takes the
lowest free buffer; FENCE publishes the rows up to its own as one band, with the packet's epoch where no gap preceded it, else concealed. -/
def Obligations.RasterPacketsPublish : Prop :=
  ∀ (s : State) (p : Packet) (f : SurfRec), s.pdOn 9 = true →
    let idx := fieldAt p.data 0 1
    let fl := fieldAt p.data 1 1
    let row := fieldAt p.data 2 2
    let key := prodKey 2 idx
    let flow := 64 + p.src * 4096 + p.flow
    let fr := s.dec.rasters.getD flow RasterRec.init
    let r := s.dec.rasters.getD idx RasterRec.init
    let ahead := match fr.expect with | some x => (p.seq + 65536 - x) % 65536 | none => 0
    let dropped := fun (t : State) => t.cnt Reg.FAB_CLASS_DROP = min (s.cnt Reg.FAB_CLASS_DROP + 1) 0xFFFFFFFF
    let inside := row * f.pitch + fieldAt p.data 4 4 + (p.data.drop 16).length ≤ planeBytes f.format f.height f.pitch
    let seen := if (Tab.get? r.seen flow).isSome then r.seen else r.seen.set flow 0
    let mark := s.pub key
    let n := row + 1 - mark.rows
    let at_ := row * f.pitch + fieldAt p.data 4 4
    let pix := (p.data.drop 16).length
    let stores := fun (t : State) (b : Nat) => MemOk s → ∀ x, ¬ inFence f x → ¬ inRecord f mark.buf mark.cur.bands.length 1 x →
      ¬ inRange (f.buffer b + at_) pix x → memGet t.mem x = memGet s.mem x
    ((s.surface key = none ∨ 63 < idx) → ahead < 32769 → ∃ t, exec (.rasterPacket p) s = .next t ∧ t.dec.ctxs = s.dec.ctxs ∧ t.surf = s.surf
      ∧ t.mem = s.mem ∧ dropped t)
    ∧ (32769 ≤ ahead → ∃ t, exec (.rasterPacket p) s = .next t ∧ t.dec = s.dec ∧ t.surf = s.surf
      ∧ t.mem = s.mem ∧ t.regs = s.regs)
    ∧ (s.surface key = some f → idx ≤ 63 → ahead < 32769 → bit fl 1 = false → r.cur = none → ∃ t, exec (.rasterPacket p) s = .next t
      ∧ t.surf = s.surf ∧ t.mem = s.mem ∧ dropped t)
    ∧ (s.surface key = some f → idx ≤ 63 → ahead < 32769 → bit fl 1 = true → (releasing s key = true ∨ freeBuffer s key f [] = none) →
      ∃ t, exec (.rasterPacket p) s = .next t ∧ t.surf = s.surf ∧ t.mem = s.mem ∧ dropped t)
    ∧ (∀ b, s.surface key = some f → idx ≤ 63 → ahead < 32769 → bit fl 1 = true → bit fl 0 = false → releasing s key = false →
      freeBuffer s key f [] = some b → ∃ t, exec (.rasterPacket p) s = .next t ∧ (t.pub key).buf = b ∧ (t.pub key).rows = 0
        ∧ (t.dec.rasters.getD flow RasterRec.init).expect = some ((p.seq + 1) % 65536)
        ∧ (t.pub key).cur.bands = [] ∧ (t.pub key).cur.height = f.height
        ∧ (MemOk s → ∀ x, ¬ inFence f x → ¬ inRecord f b 0 0 x → ¬ inRange (f.buffer b + at_) pix x → memGet t.mem x = memGet s.mem x))
    ∧ (∀ q, s.surface key = some f → idx ≤ 63 → ahead = 0 → rasterGap s { r with seen := seen } = false → bit fl 1 = false → bit fl 0 = true →
      r.cur = some q → mark.rows ≤ row → row < f.height → inside → ∃ t, exec (.rasterPacket p) s = .next t ∧ (t.pub key).rows = row + 1
        ∧ (∃ b, (t.pub key).cur.bands = mark.cur.bands ++ [b] ∧ b.first = mark.rows ∧ b.epoch = fieldAt p.data 8 8 ∧ b.rows = n
            ∧ b.flags = 0)
        ∧ stores t q.2)
    ∧ (∀ q, s.surface key = some f → idx ≤ 63 → ahead ≠ 0 → ahead < 32769 → (∀ v, Tab.get? r.seen flow = some v → v ≤ fr.gaps) → bit fl 1 = false →
      bit fl 0 = true → r.cur = some q → mark.rows ≤ row → row < f.height → inside → ∃ t, exec (.rasterPacket p) s = .next t
        ∧ (t.pub key).rows = row + 1
        ∧ (∃ b, (t.pub key).cur.bands = mark.cur.bands ++ [b] ∧ b.first = mark.rows ∧ b.rows = n ∧ b.flags = 1
            ∧ b.epoch = oldestOver ((newestFull s key).map (·.2)) mark.rows n)
        ∧ stores t q.2)

/-- R204: STATE_LOAD replaces the named shadows whole where every block passes its checks, and none where one fails; the active state does not
change. On a claimed device it first waits for the bytes of the buffer (R129).
R212: LIVE_SET changes its one field in the active state and in the shadow alike, and no other block or binding. -/
def Obligations.ShadowsAreLoadedAndLiveFieldsSet : Prop :=
  (∀ (s : State) (c : Cmd) (buf : List Byte), Starts s (.stateLoad c buf) c → Admits s c stateLoadSpec →
      let data := hostData s buf (c.job.n 24 4)
      (∀ bs, BytesHere s → walkBlocks data.length (data.length / 16 + 1) 0 [] data = .inr bs → ∃ t, exec (.stateLoad c buf) s = .next t
        ∧ (∀ e ∈ bs, t.cmp.shd.get? e.1 = some e.2) ∧ (∀ k, (∀ e ∈ bs, e.1 ≠ k) → t.cmp.shd.get? k = s.cmp.shd.get? k)
        ∧ t.cmp.act = s.cmp.act ∧ Ends s t c .done 0 compNone)
      ∧ (∀ f, BytesHere s → walkBlocks data.length (data.length / 16 + 1) 0 [] data = .inl f → ∃ t, exec (.stateLoad c buf) s = .next t
        ∧ t.cmp = s.cmp ∧ Ends s t c f.st 0 f.result)
      ∧ (s.isGateway = false → s.fab.claimed = true → ∃ t, exec (.stateLoad c buf) s = .next t ∧ t.cmp = s.cmp ∧ Awaits s t c))
  ∧ (∀ (s : State) (c : Cmd), Starts s (.liveSet c) c → Admits s c liveSetSpec →
      let j := c.job
      let p := j.n 16 1
      let x := j.n 18 2
      let v := j.n 20 4
      ∃ t, exec (.liveSet c) s = .next t ∧ Ends s t c .done 0 0
        ∧ (j.n 17 1 = 0 → t.actBlock bPIPE p 0 = putBytes (s.actBlock bPIPE p 0) 30 (leBytes 4 v)
            ∧ t.shdBlock bPIPE p 0 = putBytes (s.shdBlock bPIPE p 0) 30 (leBytes 4 v))
        ∧ (j.n 17 1 = 1 → t.actBlock bPIPE p 0 = putBytes (s.actBlock bPIPE p 0) 28 [BitVec.ofNat 8 v, BitVec.ofNat 8 (v / 256)]
            ∧ t.shdBlock bPIPE p 0 = putBytes (s.shdBlock bPIPE p 0) 28 [BitVec.ofNat 8 v, BitVec.ofNat 8 (v / 256)])
        ∧ (j.n 17 1 = 2 → t.actBlock bLAYER p (x % 512 / 64) = putAlarm (s.actBlock bLAYER p (x % 512 / 64)) (x % 64) v
            ∧ t.shdBlock bLAYER p (x % 512 / 64) = putAlarm (s.shdBlock bLAYER p (x % 512 / 64)) (x % 64) v)
        ∧ (j.n 17 1 = 3 → t.cmp = s.cmp ∧ t.bindAct x = { s.bindAct x with steam := bit v 0 } ∧ t.bindShd x = { s.bindShd x with steam := bit v 0 }
            ∧ ∀ y, y ≠ x → t.bindAct y = s.bindAct y ∧ t.bindShd y = s.bindShd y)
        ∧ (j.n 17 1 ≠ 3 → t.fum = s.fum
            ∧ ∀ k, k ≠ (if j.n 17 1 = 2 then blockKey bLAYER p (x % 512 / 64) else blockKey bPIPE p 0) →
                t.cmp.act.get? k = s.cmp.act.get? k ∧ t.cmp.shd.get? k = s.cmp.shd.get? k))

/-- R206 to R209: COMMIT starts a validation; a rejected one leaves both states alone, is counted for each output it names and completes with its status;
an accepted one waits for the frame boundary of each running output, one with MIRROR_ACK on a pair's OWNER first for the peer's ACK (R359). At that boundary
the output's shadow blocks become its active ones. -/
def Obligations.CommitsValidateThenApply : Prop :=
  ∀ (s : State) (c : Cmd) (p : Fin 8) (k : CommitRec),
    (Starts s (.commit c) c → Admits s c commitSpec → ∃ t, exec (.commit c) s = .next t
      ∧ t.commits = s.commits ++ [{ job := c.job, outs := c.job.n 16 1, stage := 0, left := 0, late := 0, skip := 0, recId := 0,
                                     sentAt := 0 }]
      ∧ t.host.done = s.host.done ∧ t.cmp = s.cmp)
    ∧ (∀ f, s.pdOn 7 = true → s.commitOf 0 p.val = some k → k.job = c.job → validateCommit s k.outs = some f →
      ∃ t, exec (.commitValidation p) s = .next t ∧ t.commits = s.commits.erase k ∧ t.cmp = s.cmp
        ∧ (∀ n, n < 8 → t.cnt (Reg.CMP_REJECT_CNT + 0x1000 * n) = if bit k.outs n then min (s.cnt (Reg.CMP_REJECT_CNT + 0x1000 * n) + 1) 0xFFFFFFFF
              else s.cnt (Reg.CMP_REJECT_CNT + 0x1000 * n))
        ∧ t.host.done = s.host.done ++ entry s c f.st 0 f.result)
    ∧ (s.pdOn 7 = true → s.commitOf 0 p.val = some k → k.job = c.job → validateCommit s k.outs = none → bit (c.job.n 17 1) 0 = false →
      (∀ n, n < 8 → (s.tg n).running = true) → ∃ t, exec (.commitValidation p) s = .next t ∧ t.cmp = s.cmp ∧ t.host.done = s.host.done
        ∧ ∃ k', k' ∈ t.commits ∧ k'.job = c.job ∧ k'.stage = 2 ∧ k'.left = k.outs)
    ∧ (s.pdOn 7 = true → s.commitOf 0 p.val = some k → k.job = c.job → validateCommit s k.outs = none → bit (c.job.n 17 1) 0 = true →
      s.pair.enable = true → s.pair.state = 3 → s.peerUp = true → ∃ t, exec (.commitValidation p) s = .next t ∧ t.cmp = s.cmp ∧ t.host.done = s.host.done
        ∧ ∃ k', k' ∈ t.commits ∧ k'.job = c.job ∧ k'.stage = 1 ∧ k'.recId = s.mir.recId ∧ k'.sentAt = s.clk)
    ∧ (s.pdOn 7 = true → s.commitOf 0 p.val = some k → k.job = c.job → validateCommit s k.outs = none → bit (c.job.n 17 1) 0 = true →
      s.pair.enable = true → s.pair.state ≠ 3 → ∃ t, exec (.commitValidation p) s = .next t ∧ t.cmp = s.cmp ∧ t.commits = s.commits.erase k
        ∧ t.host.done = s.host.done ++ entry s c .notOwner 0 0xFFFFFF)
    ∧ (s.pdOn 7 = true → s.commitOf 2 p.val = some k → bit k.left p.val = true → bit k.skip p.val = false → (s.tg p.val).running = true →
      (s.tg p.val).blanking = false → (s.cmp.shd.map (·.1)).Nodup → ∃ t, exec (.commitApply p) s = .next t
        ∧ (∀ type layer, layer < 8 → t.actBlock type p.val layer = s.shdBlock type p.val layer)
        ∧ t.cnt (Reg.CMP_COMMIT_CNT + 0x1000 * p.val) = min (s.cnt (Reg.CMP_COMMIT_CNT + 0x1000 * p.val) + 1) 0xFFFFFFFF)

/-- R216, R217: SLATE_LOAD starts the copy of an image, the slot not loaded meanwhile, or unloads the slot at once; at the end of a copy that no
access was denied to, the rows of the image stand in the slot, the slot is loaded where no generator runs, and the command completes. On a claimed device the
copy first waits for the image's bytes, the slot not loaded meanwhile (R129). -/
def Obligations.SlatesAreLoaded : Prop :=
  ∀ (s : State) (c : Cmd) (img : List Byte),
    let j := c.job
    let k := j.n 16 1
    (Starts s (.slateLoad c img) c → Admits s c slateLoadSpec → bit (j.n 17 1) 0 = false → BytesHere s → ∃ t, exec (.slateLoad c img) s = .next t
      ∧ (t.slate k).loaded = false ∧ (t.slate k).copied = false ∧ (t.slate k).width = j.n 18 2 ∧ (t.slate k).height = j.n 20 2
      ∧ t.cmp.copies = s.cmp.copies ++ [(j, hostData s img (4 * j.n 18 2 * j.n 20 2))] ∧ t.host.done = s.host.done)
    ∧ (Starts s (.slateLoad c img) c → Admits s c slateLoadSpec → bit (j.n 17 1) 0 = false → s.isGateway = false → s.fab.claimed = true →
      ∃ t, exec (.slateLoad c img) s = .next t ∧ Awaits s t c
        ∧ (t.slate k).loaded = false ∧ (t.slate k).copied = false ∧ t.cmp.copies = s.cmp.copies)
    ∧ (Starts s (.slateLoad c img) c → Admits s c slateLoadSpec → bit (j.n 17 1) 0 = true → ∃ t, exec (.slateLoad c img) s = .next t
      ∧ (t.slate k).loaded = false ∧ (t.slate k).copied = false ∧ Ends s t c .done 0 0)
    ∧ (∀ slot : Fin 256, s.pdOn 2 = true → s.cmp.copies = [(j, img)] → k = slot.val → (∀ n, n < 8 → (s.tg n).running = false) →
      (slateRows j (s.slateBase + k * 2 ^ 20) (j.n 18 2) (j.n 20 2) 0 img { s with cmp.copies := [] }).2 = true →
      ∃ t, exec (.slateCopyEnd slot) s = .next t ∧ (t.slate k).copied = true ∧ (t.slate k).loaded = true ∧ t.cmp.copies = []
        ∧ t.host.done = s.host.done ++ entry s c .done 0 0
        ∧ (MemOk s → s.dram.frozen = none → s.dram.selfRefresh = false → j.n 18 2 ≤ 512 → j.n 20 2 ≤ 512 →
            s.slateBase + (k + 1) * 2 ^ 20 ≤ s.usable → img.length = 4 * j.n 18 2 * j.n 20 2 →
            ∀ y, y < j.n 20 2 → ∀ x, x < 4 * j.n 18 2 →
              memGet t.mem (s.slateBase + k * 2 ^ 20 + 2048 * y + x) = img.getD (4 * j.n 18 2 * y + x) 0)
        ∧ (MemOk s → ∀ x, (∀ y, y < j.n 20 2 → ¬ inRange (s.slateBase + k * 2 ^ 20 + 2048 * y) (4 * j.n 18 2) x) →
            memGet t.mem x = memGet s.mem x))

/-- R39: FUM_POLICY writes one policy and no other, FROZEN_MS and LOST_MS taking 300 and 500 for 0. R40: FUM_BIND binds a source without a producer at once,
which is LOST until its first arrival, gives one that keeps its producer another policy, releases it, or shadows a tile binding until the next commit; no
other source changes.
R41: FUM_SNAPSHOT takes the 83,008 bytes of now and waits; at the end of the writes a gateway has put them out and the command completes, on a claimed
device once its DMA is answered (R129); R457: a denied block ends it with DENIED, with PARTIAL where bytes went before it. -/
def Obligations.PoliciesBindingsAndSnapshots : Prop :=
  (∀ (s : State) (c : Cmd),
      let j := c.job
      (Starts s (.fumPolicy c) c → Admits s c fumPolicySpec → ∃ t, exec (.fumPolicy c) s = .next t ∧ Ends s t c .done 0 0
        ∧ (t.policy (j.n 16 1)).treat = j.n 20 4 ∧ (t.policy (j.n 16 1)).late = j.n 24 4 ∧ (t.policy (j.n 16 1)).max = j.n 28 4
        ∧ (t.policy (j.n 16 1)).frozen = (if j.n 32 2 = 0 then 300 else j.n 32 2)
        ∧ (t.policy (j.n 16 1)).lost = (if j.n 34 2 = 0 then 500 else j.n 34 2) ∧ (t.policy (j.n 16 1)).static = j.n 36 2
        ∧ (t.policy (j.n 16 1)).slate = j.n 38 1 ∧ (t.policy (j.n 16 1)).blank = j.n 40 4
        ∧ ∀ k, k ≠ j.n 16 1 → t.policy k = s.policy k)
      ∧ (Starts s (.fumBind c) c → Admits s c fumBindSpec → j.n 16 1 = 0 → j.n 22 1 ≠ 0xFF →
        (s.source (j.n 18 2)).prod = none → ∃ t, exec (.fumBind c) s = .next t ∧ Ends s t c .done 0 0
          ∧ (t.source (j.n 18 2)).prod = some (prodKey (j.n 22 1) (j.n 24 2)) ∧ (t.source (j.n 18 2)).policy = j.n 17 1
          ∧ (t.source (j.n 18 2)).state = 6 ∧ (t.source (j.n 18 2)).arrived = false ∧ ∀ k, k ≠ j.n 18 2 → t.source k = s.source k)
      ∧ (Starts s (.fumBind c) c → Admits s c fumBindSpec → j.n 16 1 = 0 → j.n 22 1 ≠ 0xFF →
        (s.source (j.n 18 2)).prod = some (prodKey (j.n 22 1) (j.n 24 2)) → ∃ t, exec (.fumBind c) s = .next t ∧ Ends s t c .done 0 0
          ∧ t.source (j.n 18 2) = { s.source (j.n 18 2) with policy := j.n 17 1 } ∧ ∀ k, k ≠ j.n 18 2 → t.source k = s.source k)
      ∧ (Starts s (.fumBind c) c → Admits s c fumBindSpec → j.n 16 1 = 0 → j.n 22 1 = 0xFF → ∃ t, exec (.fumBind c) s = .next t
          ∧ Ends s t c .done 0 0 ∧ (t.source (j.n 18 2)).prod = none ∧ (t.source (j.n 18 2)).state = 7
          ∧ ∀ k, k ≠ j.n 18 2 → t.source k = s.source k)
      ∧ (Starts s (.fumBind c) c → Admits s c fumBindSpec → j.n 16 1 = 1 → ∃ t, exec (.fumBind c) s = .next t ∧ Ends s t c .done 0 0
          ∧ t.bindShd (j.n 18 2) = { source := if j.n 20 2 = 0xFFFF then none else some (j.n 20 2), policy := j.n 17 1,
                                     steam := bit (j.n 26 1) 0, evt := bit (j.n 26 1) 1 }
          ∧ t.fum.act = s.fum.act ∧ t.fum.sources = s.fum.sources))
  ∧ (∀ (s : State) (c : Cmd) (b : List Byte),
      (Starts s (.fumSnapshot c) c → Admits s c snapshotSpec → ∃ t, exec (.fumSnapshot c) s = .next t
        ∧ t.fum.snap = some (c.job, snapshotBytes s) ∧ (snapshotBytes s).length = 83008 ∧ t.host.done = s.host.done)
      ∧ (s.pdOn 7 = true → s.fum.snap = some (c.job, b) → firstDenied s 0x28 (s.hostInternal (c.job.n 16 8)) b.length = none →
        BytesHere s → dmaOpen s c.job = false →
        ∃ t, exec .snapshotWriteEnd s = .next t ∧ t.fum.snap = none ∧ t.host.done = s.host.done ++ entry s c .done 0 0
          ∧ (s.isGateway = true → Out.hostWrite c.pf.val (c.job.n 16 8) b ∈ news s t))
      ∧ (s.pdOn 7 = true → s.fum.snap = some (c.job, b) → firstDenied s 0x28 (s.hostInternal (c.job.n 16 8)) b.length = none →
        s.isGateway = false → s.fab.claimed = true → b ≠ [] → ∃ t, exec .snapshotWriteEnd s = .next t ∧ t.fum.snap = none
          ∧ t.host.done = s.host.done ∧ t.host.dma = s.host.dma ++ [{ job := c.job, parts := [], ended := some (.done, 0, 0) }])
      ∧ (∀ d, BytesHere s → dmaOpen s c.job = false → s.pdOn 7 = true → s.fum.snap = some (c.job, b) → firstDenied s 0x28 (s.hostInternal (c.job.n 16 8)) b.length = some d →
        ∃ t, exec .snapshotWriteEnd s = .next t ∧ t.fum.snap = none ∧ t.host.done = s.host.done ++ entry s c .denied (if d.1 = s.hostInternal (c.job.n 16 8) then 0 else 4) 0))

/-- R16, R17: at a tick every bound source takes the worst state that its policy gives it, in the order LOST, FROZEN, LATE beyond MAX, STATIC, CONCEALED,
LATE, LIVE. -/
def Obligations.TickEvaluatesSources : Prop :=
  ∀ (s : State) (i : Nat), s.pdOn 7 = true → s.fumRuns = true → (s.source i).prod.isSome = true →
    let r := s.source i
    let p := s.policy r.policy
    let now := s.ft.toNat
    let a := if r.arrived then ageUnits now r.epoch (s.uFor r.remote) else 0xFFFFF
    ∃ t, exec .fumaroleTick s = .next t ∧ (t.source i).prod = r.prod ∧
      (t.source i).state =
        if r.arrived = false then 6
        else if now - r.lastArr > p.lost * 1000000 then 6
        else if now - r.lastAdv > p.frozen * 1000000 then 5
        else if exceeds a p.max then 4
        else if p.static ≠ 0 ∧ staticAvailable r.prod = true ∧ now - r.lastChg > p.static * 1000000000 then 3
        else if r.conc then 2
        else if exceeds a p.late then 1
        else 0

/-- R186: a pool record's latch holds FENCE's picture and buffer, or finds the surface missing. R18: at its scan start a tile takes the worst of its
source's state, its own age's and the pipeline's, and the treatment its policy maps that state to, with R28 at least STALE's where a bound tile is over its
max age; R44: a window's further changes of a tile bound with TILE_EVT give one event.
R181: an active line of a running output is put out on its trained link with what the source alters in it (R241): the composed line of an enabled pipe,
dithered to the depth sent, and black where the pipe is not enabled; R248: a blanked output shows black. -/
def Obligations.TilesAreDecidedAndLinesGoOut : Prop :=
  (∀ (s : State) (k : Fin 4096) (r : LRec), s.pdOn 7 = true →
      (shownRecord s k.val = some r → r.kind = 1 → s.surface r.key = none → ∃ t, exec (.recordLatch k) s = .next t
        ∧ ∃ l, (t.tile k.val).latch = some l ∧ l.key = r.key ∧ l.choice = 0)
      ∧ (∀ f, shownRecord s k.val = some r → r.kind = 1 → s.surface r.key = some f → releasing s r.key = false →
        firstDenied s (0x20 + k.val / 512) f.block 32 = none → ∃ t, exec (.recordLatch k) s = .next t
          ∧ ∃ l, (t.tile k.val).latch = some l ∧ l.key = r.key ∧ l.pic = bits (pipeRead s (k.val / 512) f.block 8) 63 32
            ∧ l.buf = bits (pipeRead s (k.val / 512) f.block 8) 20 16 ∧ l.rows = bits (pipeRead s (k.val / 512) f.block 8) 15 0)
      ∧ (shownRecord s k.val = some r → (r.clip (s.active (k.val / 512)).1 (s.active (k.val / 512)).2).isSome = true → s.fumRuns = true →
        svcShown s (k.val / 512) = false → ∃ t, exec (.scanStart k) s = .next t
          ∧ (t.tile k.val).frame = (s.tg (k.val / 512)).frame ∧ (t.tile k.val).scanAt = s.ft.toNat
          ∧ (t.tile k.val).source = (s.bindAct k.val).source.getD 0xFFFF ∧ (t.tile k.val).policy = (s.bindAct k.val).policy
          ∧ ((t.tile k.val).mismatch = false →
              (t.tile k.val).state = max (t.tile k.val).srcSt
                (max (ageState (s.policy (s.bindAct k.val).policy) (t.tile k.val).age) (t.tile k.val).pipeState)
              ∧ (t.tile k.val).treat = (let m := (s.policy (s.bindAct k.val).policy).treat
                  let x := treatOf m (t.tile k.val).state
                  if (t.tile k.val).source ≠ 0xFFFF ∧ exceeds (t.tile k.val).age (s.policy (s.bindAct k.val).policy).max = true
                  then max x (treatOf m 4) else x)))
      ∧ ((s.tile k.val).win = true → (s.tile k.val).winCnt ≠ 0 → (s.bindAct k.val).evt = true → ∃ t, exec (.tileEventWindowEnd k) s = .next t
          ∧ (t.tile k.val).win = false
          ∧ Raised s t 0x0511 (leBytes 2 k.val ++ leBytes 1 (s.tile k.val).winState ++ leBytes 1 (s.tile k.val).state
              ++ leBytes 1 (s.tile k.val).winCause ++ leBytes 1 (min (s.tile k.val).winCnt 255)
              ++ leBytes 4 ((s.tg (k.val / 512)).frame % 2 ^ 32))))
  ∧ (∀ (s : State) (n : Fin 8) (y : Nat) (late : List (Fin 4096)) (x : U16 × U16 × U16), s.pdOn 7 = true →
      (s.tg n.val).running = true → y < (s.active n.val).2 → ∃ t, exec (.outputLine n y late x) s = .next t ∧ (t.tg n.val).line = y
        ∧ ((s.dp n.val).trained = true → (s.dp n.val).short = false → ∃ px, Out.line n.val y px ∈ news s t
            ∧ ((s.pipe n.val).blanked = true →
                px = List.replicate (s.active n.val).1 (packPx (x.1.toNat, x.2.1.toNat, x.2.2.toNat)))
            ∧ ((s.pipe n.val).blanked = false → svcShown s n.val = false → s.enabled n.val = false →
                px = List.replicate (s.active n.val).1 (packPx (x.1.toNat, x.2.1.toNat, x.2.2.toNat)))
            ∧ ((s.pipe n.val).blanked = false → svcShown s n.val = false → s.enabled n.val = true →
                (let b := lineDepth s n.val
                 let d := fieldAt (s.actBlock bPIPE n.val 0) 18 1
                 px = (((pipeLine (s.setTg n.val { s.tg n.val with line := y }) n.val y (late.map (·.val))).2.zip
                   (List.range (s.active n.val).1)).map (fun v =>
                     packPx (xorPx (ditherTo b d v.2 y v.1.1, ditherTo b d v.2 y v.1.2.1, ditherTo b d v.2 y v.1.2.2) x)))))))

/-- R226, R228: an accepted MODE_SET waits for its output; MODE_SET_APPLY takes the oldest one, where the odd output of a pair that it forms waits for
none: a running output with the same mode and split goes on with the new timing fields, any other stops, its frame counter at 0, and takes the mode; it
completes with its next frame start, and with MODE_IDX 0 at once. R399: under DORMANT_ENTER a frame boundary stops the
generator.
R61, R228: at a frame start the generator runs, the frame counter moves on (or begins at 0), and a MODE_SET that waits for it completes.
R222, R224: a source-paced generator starts a frame 3 line boundaries after one that found its picture ready, or when PACE_MAX_NS would pass, with the
count of it; it starts none before the nominal period, and without pacing a line boundary starts none. -/
def Obligations.ModesApplyAndFramesStart : Prop :=
  (∀ (s : State) (c : Cmd) (n : Fin 8),
      let j := c.job
      let m := modeCfgOf j
      let g := s.tg n.val
      (Starts s (.modeSet c) c → Admits s c modeSetSpec → ∃ t, exec (.modeSet c) s = .next t ∧ t.host.done = s.host.done
        ∧ t.tg (j.n 16 1) = { s.tg (j.n 16 1) with jobs := (s.tg (j.n 16 1)).jobs ++ [j] })
      ∧ (∀ js, s.pdOn 7 = true → g.jobs = j :: js → g.waiting = none → g.running = true → m.idx = g.cfg.idx → m.split = g.cfg.split →
        (m.split = true → (s.tg (partner n.val)).jobs = [] ∧ (s.tg (partner n.val)).waiting = none) →
        ∃ t, exec (.modeSetApply n) s = .next t ∧ (t.tg n.val).cfg = m ∧ (t.tg n.val).jobs = js ∧ (t.tg n.val).running = true
          ∧ (t.tg n.val).frame = g.frame ∧ (t.tg n.val).waiting = some j)
      ∧ (∀ js, s.pdOn 7 = true → g.jobs = j :: js → g.waiting = none → (g.running = false ∨ m.idx ≠ g.cfg.idx ∨ m.split ≠ g.cfg.split) →
        (m.split = true → (s.tg (partner n.val)).jobs = [] ∧ (s.tg (partner n.val)).waiting = none) →
        ∃ t, exec (.modeSetApply n) s = .next t ∧ (t.tg n.val).cfg = m ∧ (t.tg n.val).jobs = js ∧ (t.tg n.val).running = false
          ∧ (t.tg n.val).frame = 0 ∧ (m.idx ≠ 0 → (t.tg n.val).waiting = some j)
          ∧ (m.idx = 0 → (t.tg n.val).waiting = none ∧ ∃ ds, t.host.done = s.host.done ++ ds ++ entry s c .done 0 0))
      ∧ (s.pdOn 7 = true → g.cfg.idx ≠ 0 → g.odd = false → s.sys.dorm.isSome = true → ∃ t, exec (.frameStart n) s = .next t
        ∧ (t.tg n.val).running = false))
  ∧ (∀ (s : State) (n : Fin 8),
      let g := s.tg n.val
      let next := if g.started then g.frame + 1 else 0
      s.pdOn 7 = true → s.sys.dorm = none → g.odd = false → g.cfg.split = false →
      (g.cfg.idx ≠ 0 → ∃ t, exec (.frameStart n) s = .next t
        ∧ (t.tg n.val).running = true ∧ (t.tg n.val).started = true ∧ (t.tg n.val).frame = next ∧ (t.tg n.val).startFt = s.ft.toNat
        ∧ (t.tg n.val).waiting = none ∧ ∀ c : Cmd, g.waiting = some c.job → ∃ ds, t.host.done = s.host.done ++ ds ++ entry s c .done 0 0)
      ∧ (∀ m, g.running = true → modeInfo g.cfg.idx = some m →
        (pacingRecord s n.val = none → ∃ t, exec (.vblankLineBoundary n) s = .next t ∧ (t.tg n.val).blanking = true
          ∧ (t.tg n.val).pacing = false ∧ (t.tg n.val).frame = g.frame)
        ∧ (∀ q, pacingRecord s n.val = some q → (s.clk - g.startClk) * m.num < m.hTot * m.vTot * m.den * 1000000000 →
          ∃ t, exec (.vblankLineBoundary n) s = .next t ∧ (t.tg n.val).frame = g.frame ∧ (t.tg n.val).running = true)
        ∧ (∀ q, pacingRecord s n.val = some q → m.hTot * m.vTot * m.den * 1000000000 ≤ (s.clk - g.startClk) * m.num → 3 ≤ g.ready.length →
          g.ready.getD (g.ready.length - 3) false = true → ∃ t, exec (.vblankLineBoundary n) s = .next t ∧ (t.tg n.val).frame = next
            ∧ (t.tg n.val).startClk = s.clk)
        ∧ (∀ q, pacingRecord s n.val = some q → m.hTot * m.vTot * m.den * 1000000000 ≤ (s.clk - g.startClk) * m.num →
          g.cfg.paceMax < s.clk - g.startClk + m.linesNs 1 → ∃ t, exec (.vblankLineBoundary n) s = .next t ∧ (t.tg n.val).frame = next
            ∧ (t.tg n.val).startClk = s.clk
            ∧ (g.ready.length < 3 → t.cnt (Reg.OUT_TG_PACE_MAX_CNT + 0x100 * n.val)
                = min (s.cnt (Reg.OUT_TG_PACE_MAX_CNT + 0x100 * n.val) + 1) 0xFFFFFFFF))))

/-- R250, R252: CHECK_CFG on a stopped output applies its fields at once, FAILS at 0; on a running one it waits for the frame start, which applies it and completes
it.
R240 to R244: an evaluated rectangle fails where its CRC is not what its mode expects: EXPECT differs from EXPECTED, PATH differs from the composed one,
ADVANCE equals the last evaluated one, OBSERVE never; FAILS counts or returns to 0. A rectangle that is not evaluated keeps its result. R249: a PATH
rectangle that fails PERSIST times asserts trigger 3. R255: a window's further changes give one event. -/
def Obligations.PictureChecksAreConfiguredAndDecided : Prop :=
  (∀ (s : State) (c : Cmd) (k : Fin 128),
      let j := c.job
      let put := fun (r : ChkRec) => r.mode = j.n 17 1 ∧ r.action = j.n 18 1 ∧ r.inter = bit (j.n 19 1) 0 ∧ r.x = j.n 20 2 ∧ r.y = j.n 22 2
        ∧ r.w = j.n 24 2 ∧ r.h = j.n 26 2 ∧ r.expect = j.n 28 4 ∧ r.persist = (if j.n 32 1 = 0 then 3 else j.n 32 1)
        ∧ r.tiles = ((List.range 8).map (fun i => j.n (36 + 2 * i) 2)).filter (fun x => x ≠ 0xFFFF) ∧ r.fails = 0
      (Starts s (.checkCfg c) c → Admits s c checkCfgSpec → (s.tg (j.n 16 1 / 16)).running = false → ∃ t, exec (.checkCfg c) s = .next t
        ∧ put (t.chk (j.n 16 1)) ∧ Ends s t c .done 0 0)
      ∧ (Starts s (.checkCfg c) c → Admits s c checkCfgSpec → (s.tg (j.n 16 1 / 16)).running = true → ∃ t, exec (.checkCfg c) s = .next t
        ∧ t.chk (j.n 16 1) = { s.chk (j.n 16 1) with jobs := (s.chk (j.n 16 1)).jobs ++ [j] } ∧ t.host.done = s.host.done)
      ∧ (s.pdOn 7 = true → (s.chk k.val).jobs = [j] → j.n 16 1 = k.val → ∃ t, exec (.checkCfgApply k) s = .next t ∧ put (t.chk k.val)
        ∧ (t.chk k.val).jobs = [] ∧ t.host.done = s.host.done ++ entry s c .done 0 0))
  ∧ (∀ (s : State) (k : Fin 128), s.pdOn 7 = true →
      let r := s.chk k.val
      let link := r.linkAcc ^^^ 0xFFFFFFFF
      let fail := (r.mode = 1 ∧ link ≠ r.expect) ∨ (r.mode = 2 ∧ link ≠ r.refAcc ^^^ 0xFFFFFFFF) ∨ (r.mode = 3 ∧ r.prev = some link)
      (evaluated s k.val = false → exec (.checkResult k) s = .next s)
      ∧ (evaluated s k.val = true → r.done = false → ∃ t, exec (.checkResult k) s = .next t ∧ (t.chk k.val).link = link
        ∧ (t.chk k.val).prev = some link
        ∧ (fail → (t.chk k.val).result = 1 ∧ (t.chk k.val).fails = min (r.fails + 1) 0xFFFF)
        ∧ (¬ fail → (t.chk k.val).result = 0 ∧ (t.chk k.val).fails = 0)
        ∧ (fail → r.mode = 2 → min (r.fails + 1) 0xFFFF = r.persist → bit t.pair.trig 3 = true ∧ (PinsOk s → t.pair.ownO = false)))
      ∧ (r.win = true → r.winCnt ≠ 0 → ∃ t, exec (.chkResultWindowEnd k) s = .next t ∧ (t.chk k.val).win = false
        ∧ Raised s t 0x0630 (leBytes 1 k.val ++ leBytes 1 r.winRes ++ leBytes 1 r.result ++ leBytes 1 r.mode ++ leBytes 1 (min r.winCnt 255)
            ++ leBytes 4 ((s.tg (k.val / 16)).frame % 2 ^ 32))))

/-- R235, R237: EDID_READ sets the EDID read going, unless one is; RETRAIN trains a source with a sink and a mode anew. R323: an EDID_READ while one
runs is refused and changes nothing. R421: OUT_DP_TRIM_OVR takes a privileged write, with EN in SERVICE only.
R235, R237: a sink that comes trains from its highest configuration, one that goes ends the link, an IRQ_HPD is counted and a lost lane trains anew;
an EDID read ends with the bytes and their checksums' verdict, or with an absent sink. -/
def Obligations.SinksComeAndGoAndDpRegistersAct : Prop :=
  (∀ (s : State) (a : Acc) (n : Fin 8) (v : U32),
      (Reaches s a (Reg.OUT_DP_CTRL + 0x100 * n.val) → v.getLsbD 0 = true → (s.dp n.val).edidBusy = false →
        ∃ t, exec (.edidRead a n v) s = .next t ∧ (t.dp n.val).edidBusy = true)
      ∧ (Reaches s a (Reg.OUT_DP_CTRL + 0x100 * n.val) → v.getLsbD 0 = true → (s.dp n.val).edidBusy = true →
        ∃ t, exec (.edidRead a n v) s = .next t ∧ t.dp n.val = s.dp n.val)
      ∧ (Reaches s a (Reg.OUT_DP_CTRL + 0x100 * n.val) → v.getLsbD 0 = false → v.getLsbD 1 = true → (s.dp n.val).hpd = true →
        (s.tg n.val).cfg.idx ≠ 0 → ∃ t, exec (.dpRetrain a n v) s = .next t ∧ (t.dp n.val).training = true ∧ (t.dp n.val).trained = false
          ∧ (t.dp n.val).tryRate = min (s.tg n.val).cfg.rate (s.dp n.val).caps.maxRate
          ∧ (t.dp n.val).tryLanes = min (s.tg n.val).cfg.lanes (s.dp n.val).caps.maxLanes)
      ∧ (Reaches s a (Reg.OUT_DP_TRIM_OVR + 0x100 * n.val) → privileged s a = true → (v.getLsbD 31 = false ∨ s.sys.mode = .service) →
        ∃ t, exec (.outDpTrimOvr a n v) s = .next t ∧ bit (t.reg (Reg.OUT_DP_TRIM_OVR + 0x100 * n.val)) 31 = v.getLsbD 31
          ∧ bits (t.reg (Reg.OUT_DP_TRIM_OVR + 0x100 * n.val)) 13 8 = bits v.toNat 13 8
          ∧ bits (t.reg (Reg.OUT_DP_TRIM_OVR + 0x100 * n.val)) 4 0 = bits v.toNat 4 0)
      ∧ (Reaches s a (Reg.OUT_DP_TRIM_OVR + 0x100 * n.val) → privileged s a = true → v.getLsbD 31 = true → s.sys.mode ≠ .service →
        ∃ t, exec (.outDpTrimOvr a n v) s = .next t
          ∧ t.reg (Reg.OUT_DP_TRIM_OVR + 0x100 * n.val) = s.reg (Reg.OUT_DP_TRIM_OVR + 0x100 * n.val)))
  ∧ (∀ (s : State) (n : Fin 8) (caps : SinkCaps) (res : EdidEnd), s.pdOn 7 = true →
      let d := s.dp n.val
      let g := s.tg n.val
      (d.hpd = true → ∃ t, exec (.hpdUnplug n) s = .next t ∧ (t.dp n.val).hpd = false ∧ (t.dp n.val).trained = false
        ∧ (t.dp n.val).training = false ∧ Raised s t 0x0600 (leBytes 1 n.val ++ leBytes 1 0))
      ∧ (d.hpd = false → ∃ t, exec (.hpdPlug n caps) s = .next t ∧ (t.dp n.val).hpd = true ∧ (t.dp n.val).caps = caps
        ∧ Raised s t 0x0600 (leBytes 1 n.val ++ leBytes 1 1)
        ∧ (g.cfg.idx ≠ 0 → (t.dp n.val).training = true ∧ (t.dp n.val).tryRate = min g.cfg.rate caps.maxRate
            ∧ (t.dp n.val).tryLanes = min g.cfg.lanes caps.maxLanes))
      ∧ (d.hpd = true → ∀ lost, ∃ t, exec (.irqHpd n lost) s = .next t
        ∧ t.cnt (Reg.OUT_DP_IRQ_HPD + 0x100 * n.val) = min (s.cnt (Reg.OUT_DP_IRQ_HPD + 0x100 * n.val) + 1) 0xFFFFFFFF
        ∧ Raised s t 0x0600 (leBytes 1 n.val ++ leBytes 1 2)
        ∧ (lost = true → (t.dp n.val).trained = false) ∧ (lost = false → t.dp n.val = d))
      ∧ (d.edidBusy = true → ∃ t, exec (.edidReadEnd n res) s = .next t ∧ (t.dp n.val).edidBusy = false
        ∧ (res = .absent → (t.dp n.val).edid = [] ∧ (t.dp n.val).edidOk = false
            ∧ Raised s t 0x0602 (leBytes 1 n.val ++ leBytes 1 1 ++ leBytes 2 0))
        ∧ (∀ b, res = .bytes b → (t.dp n.val).edid = slice b 0 (128 * (1 + min 3 (fieldAt b 126 1)))
            ∧ ((t.dp n.val).edidOk = true ↔ ∀ i, i < 1 + min 3 (fieldAt b 126 1) → edidSum (slice (t.dp n.val).edid (128 * i) 128) = true))))

/-- R234: a training pass writes the sink its rate and lane count and ends with a trained link at the rate and lanes tried; a failed clock recovery falls to the next lower rate that carries the mode, a
failed equalization first to half the lanes; where nothing lower carries it, the training ends, is counted and is tried again later from the highest
configuration. The names and codes of the sink's registers and the form
of its drive levels are presumed (log entry 120); that the lanes return to the most when the rate falls after a failed equalization is the model's reading (log entry 65). -/
def Obligations.DpTrainingDescends : Prop :=
  ∀ (s : State) (n : Fin 8) (m : ModeInfo), s.pdOn 7 = true → modeInfo (s.tg n.val).cfg.idx = some m →
    let d := s.dp n.val
    let top := min (s.tg n.val).cfg.lanes d.caps.maxLanes
    (∀ drive : U16, d.training = true → ∃ t, exec (.dpLinkTraining n (.trained drive)) s = .next t ∧ (t.dp n.val).trained = true
      ∧ (t.dp n.val).training = false ∧ (t.dp n.val).rate = d.tryRate ∧ (t.dp n.val).lanes = d.tryLanes ∧ (t.dp n.val).drive = levelsWord drive.toNat
      ∧ Out.dpcd n.val "LINK_BW_SET" ([6, 10, 20, 30].getD d.tryRate 30) ∈ news s t ∧ Out.dpcd n.val "LANE_COUNT_SET" d.tryLanes ∈ news s t)
    ∧ (d.training = true → d.tryRate ≠ 0 → linkCarries m (d.tryRate - 1) d.tryLanes 8 = true →
      ∃ t, exec (.dpLinkTraining n .crFail) s = .next t ∧ (t.dp n.val).training = true ∧ (t.dp n.val).tryRate = d.tryRate - 1
        ∧ (t.dp n.val).tryLanes = d.tryLanes)
    ∧ (d.training = true → (d.tryRate = 0 ∨ linkCarries m (d.tryRate - 1) d.tryLanes 8 = false) →
      ∃ t, exec (.dpLinkTraining n .crFail) s = .next t ∧ (t.dp n.val).training = false ∧ (t.dp n.val).retry = true
        ∧ t.cnt (Reg.OUT_DP_TRAIN_FAIL + 0x100 * n.val) = min (s.cnt (Reg.OUT_DP_TRAIN_FAIL + 0x100 * n.val) + 1) 0xFFFFFFFF)
    ∧ (d.training = true → d.tryLanes > 1 → linkCarries m d.tryRate (d.tryLanes / 2) 8 = true →
      ∃ t, exec (.dpLinkTraining n .eqFail) s = .next t ∧ (t.dp n.val).training = true ∧ (t.dp n.val).tryRate = d.tryRate
        ∧ (t.dp n.val).tryLanes = d.tryLanes / 2)
    ∧ (d.training = true → (d.tryLanes ≤ 1 ∨ linkCarries m d.tryRate (d.tryLanes / 2) 8 = false) → d.tryRate ≠ 0 →
      linkCarries m (d.tryRate - 1) top 8 = true → ∃ t, exec (.dpLinkTraining n .eqFail) s = .next t
        ∧ (t.dp n.val).training = true ∧ (t.dp n.val).tryRate = d.tryRate - 1 ∧ (t.dp n.val).tryLanes = top)
    ∧ (d.training = true → (d.tryLanes ≤ 1 ∨ linkCarries m d.tryRate (d.tryLanes / 2) 8 = false) →
      (d.tryRate = 0 ∨ linkCarries m (d.tryRate - 1) top 8 = false) → ∃ t, exec (.dpLinkTraining n .eqFail) s = .next t
        ∧ (t.dp n.val).training = false ∧ (t.dp n.val).retry = true
        ∧ t.cnt (Reg.OUT_DP_TRAIN_FAIL + 0x100 * n.val) = min (s.cnt (Reg.OUT_DP_TRAIN_FAIL + 0x100 * n.val) + 1) 0xFFFFFFFF)
    ∧ (d.retry = true → d.hpd = true → (s.tg n.val).cfg.idx ≠ 0 → ∃ t, exec (.trainingRetry n) s = .next t
      ∧ (t.dp n.val).training = true ∧ (t.dp n.val).retry = false
      ∧ (t.dp n.val).tryRate = min (s.tg n.val).cfg.rate d.caps.maxRate ∧ (t.dp n.val).tryLanes = top)

/-- R430, R423: RECAL starts a run on each lane of an UP link that has none, and asks for another on one that has; an override ends the runs and steps each
lane to OVR_CTLE, in SERVICE only.
R423: a lane's sensor that leaves Tref by more than DELTA_T starts a run on an UP link. R424, R425, R431: a scan updates the quality figure: the width counts the clean positions around
the data samplers' own, the height is at most 600 mV (DEDUCED: log entry 105).
R426: a run's first scan steps CTLE by the run's direction, or pins it at the bound and ends the run. R427: each correction step applies the oldest of the
queue. -/
def Obligations.LanesAreControlledAndCalibrated : Prop :=
  (∀ (s : State) (a : Acc) (l : Fin 11) (i : Fin 2) (v : U32), Reaches s a (Reg.FAB_LANE_CTRL + 0x10 * l.val) →
      (v.getLsbD 8 = false → v.getLsbD 0 = true → s.linkUp l.val = true → (s.lane l.val i.val).run = none → ∃ t, exec (.recal a l v) s = .next t
        ∧ (t.lane l.val i.val).run.isSome = true ∧ (t.lane l.val i.val).tref = laneTemp s l.val ∧ (t.lane l.val i.val).ovr = false)
      ∧ (v.getLsbD 8 = false → v.getLsbD 0 = true → (s.lane l.val i.val).run.isSome = true → ∃ t, exec (.recal a l v) s = .next t
        ∧ (t.lane l.val i.val).run = (s.lane l.val i.val).run ∧ (t.lane l.val i.val).again = true)
      ∧ (v.getLsbD 8 = true → s.sys.mode = .service → ∃ t, exec (.laneOverride a l v) s = .next t
        ∧ (t.lane l.val i.val).ovr = true ∧ (t.lane l.val i.val).run = none ∧ (t.lane l.val i.val).goal = bits v.toNat 20 16)
      ∧ (v.getLsbD 8 = true → s.sys.mode ≠ .service → ∃ t, exec (.laneOverride a l v) s = .next t ∧ t.lane l.val i.val = s.lane l.val i.val))
  ∧ (∀ (s : State) (l : Fin 11) (i : Fin 2) (e : Eye) (temp : Int), s.pdOn 9 = true →
      let r := s.lane l.val i.val
      let at_ := fun (t : State) => t.lane l.val i.val
      (s.linkUp l.val = true → r.run = none → r.ovr = false → (temp - r.tref).natAbs > 16 * bits (s.reg Reg.FAB_LANE_CFG) 4 0 →
        ∃ t, exec (.laneTempCheck l i temp) s = .next t ∧ (at_ t).run.isSome = true ∧ (at_ t).tref = temp)
      ∧ ((temp - r.tref).natAbs ≤ 16 * bits (s.reg Reg.FAB_LANE_CFG) 4 0 →
        ∃ t, exec (.laneTempCheck l i temp) s = .next t ∧ at_ t = r)
      ∧ (s.linkUp l.val = true → r.ovr = false → r.run = none → ∃ t, exec (.eyeScan l i e) s = .next t
        ∧ (at_ t).qW = eyeWidth e ∧ (at_ t).qH = eyeHeight e ∧ (at_ t).qCtle = r.ctle ∧ (at_ t).valid = true
        ∧ (at_ t).scans = (r.scans + 1) % 2 ^ 32)
      ∧ (∀ u, s.linkUp l.val = true → r.ovr = false → r.run = some u → u.stage = 0 → r.queue = [] →
        (let c := if u.up then (r.ctle : Int) + 1 else r.ctle - 1; (laneBounds s l.val).1 ≤ c ∧ c ≤ (laneBounds s l.val).2) →
        ∃ t, exec (.classTRun l i e) s = .next t ∧ (at_ t).target = (if u.up then r.ctle + 1 else r.ctle - 1) ∧ (at_ t).qW = eyeWidth e
          ∧ ∃ u', (at_ t).run = some u' ∧ u'.stage = 1 ∧ u'.m0 = eyeWidth e * eyeHeight e)
      ∧ (∀ u, s.linkUp l.val = true → r.ovr = false → r.run = some u → u.stage = 0 → r.queue = [] → r.again = false →
        laneDrift s l.val i.val = false →
        (let c := if u.up then (r.ctle : Int) + 1 else r.ctle - 1; c < (laneBounds s l.val).1 ∨ (laneBounds s l.val).2 < c) →
        ∃ t, exec (.classTRun l i e) s = .next t ∧ (at_ t).run = none ∧ (at_ t).atBound = true ∧ (at_ t).result = 4
          ∧ t.cnt (Reg.FAB_LANE_RUNS + 4 * l.val) = min (s.cnt (Reg.FAB_LANE_RUNS + 4 * l.val) + 1) 0xFFFFFFFF)
      ∧ (∀ what up q, r.queue = (what, up) :: q → ∃ t, exec (.correctionStep l i) s = .next t ∧ (at_ t).queue = q
        ∧ (what = 0 → (at_ t).ctle = min 31 (if up then r.ctle + 1 else r.ctle - 1) ∧ (at_ t).phase = r.phase)
        ∧ (what = 1 → (at_ t).phase = r.phase + (if up then 1 else -1) ∧ (at_ t).ctle = r.ctle)
        ∧ (what > 1 → (at_ t).ctle = r.ctle ∧ (at_ t).phase = r.phase)))

/-- R373, R382: TOUCH_MAP replaces its port's map; TOUCH_REF_LOAD puts a reference into the always-on memory, clears it, or turns away what is none;
on a claimed device it waits for the image that it asks the gateway for (R131).
R372, R380, R382: ENABLE 1 starts a port that seeds in its first cycle, the next whole one (R367); ENABLE 0 lets a scanning port stop in its next report slot
(that the slot is the cycle's is the model's reading, log entry 92); HOLD is written in SERVICE only. -/
def Obligations.TouchPortsAreConfiguredAndRun : Prop :=
  (∀ (s : State) (c : Cmd) (img : List Byte),
      let j := c.job
      let p := j.n 16 1
      let ref := hostData s img 14720
      (Starts s (.touchMap c) c → Admits s c touchMapSpec → ∃ t, exec (.touchMap c) s = .next t ∧ Ends s t c .done 0 0
        ∧ t.tch p = { s.tch p with map := { out := j.n 17 1, orient := j.n 18 1, px0 := j.n 20 2, py0 := j.n 22 2, px1 := j.n 24 2, py1 := j.n 26 2,
                                            ox := j.n 28 2, oy := j.n 30 2, ow := j.n 32 2, oh := j.n 34 2 } })
      ∧ (Starts s (.touchRefLoad c img) c → Admits s c touchRefSpec → bit (j.n 17 1) 0 = true → ∃ t, exec (.touchRefLoad c img) s = .next t
        ∧ Ends s t c .done 0 0 ∧ t.panel p = none ∧ ∀ q, q < 2 → q ≠ p → t.panel q = s.panel q)
      ∧ (Starts s (.touchRefLoad c img) c → Admits s c touchRefSpec → bit (j.n 17 1) 0 = false → BytesHere s → panelOk ref = true →
        ∃ t, exec (.touchRefLoad c img) s = .next t ∧ Ends s t c .done 0 0 ∧ t.panel p = some ref
          ∧ ∀ q, q < 2 → q ≠ p → t.panel q = s.panel q)
      ∧ (Starts s (.touchRefLoad c img) c → Admits s c touchRefSpec → bit (j.n 17 1) 0 = false → BytesHere s → panelOk ref = false →
        ∃ t, exec (.touchRefLoad c img) s = .next t ∧ Ends s t c .badDescriptor 0 0 ∧ ∀ q, t.panel q = s.panel q)
      ∧ (Starts s (.touchRefLoad c img) c → Admits s c touchRefSpec → bit (j.n 17 1) 0 = false → s.isGateway = false → s.fab.claimed = true →
        ∃ t, exec (.touchRefLoad c img) s = .next t ∧ Awaits s t c ∧ ∀ q, t.panel q = s.panel q))
  ∧ (∀ (s : State) (a : Acc) (p : Fin 2) (v : U32), Reaches s a (tchOff Reg.EDG_TCH_CTRL p.val) →
      let was := s.tchReg Reg.EDG_TCH_CTRL p.val
      let ok := v.getLsbD 1 = false ∨ s.sys.mode = .service
      (ok → bit was 0 = false → v.getLsbD 0 = true → ∃ t, exec (.touchEnable a p v) s = .next t
        ∧ (t.tch p.val).scanning = true ∧ (t.tch p.val).seed = true ∧ (t.tch p.val).contacts = [] ∧ (t.tch p.val).first = nextCycle s
        ∧ (t.tch p.val).stopping = false ∧ bit (t.tchReg Reg.EDG_TCH_CTRL p.val) 0 = true)
      ∧ (ok → bit was 0 = true → v.getLsbD 0 = false → ∃ t, exec (.touchDisable a p v) s = .next t
        ∧ t.tch p.val = { s.tch p.val with stopping := (s.tch p.val).stopping || (s.tch p.val).scanning }
        ∧ bit (t.tchReg Reg.EDG_TCH_CTRL p.val) 0 = false)
      ∧ (ok → v.getLsbD 0 = bit was 0 → ∃ t, exec (.touchHold a p v) s = .next t
        ∧ bit (t.tchReg Reg.EDG_TCH_CTRL p.val) 1 = v.getLsbD 1 ∧ t.tch p.val = s.tch p.val)
      ∧ (¬ ok → ∃ t, exec (.touchHold a p v) s = .next t ∧ t.tchReg Reg.EDG_TCH_CTRL p.val = was ∧ t.tch p.val = s.tch p.val))

/-- R367, R371, R380: a scan cycle of a running port takes the raw counts of the cycle that fabric time lies in, and makes the port ready; a port that
does not scan, or has not come to its first cycle yet, takes none. R372: a port that is to stop stops with it, which takes its readiness and its contacts away.
Which cycle a row stands for is the model's reading (log entry 91). R384: in DORMANT with EN 1 each wake scan counts, and the first one seeds; otherwise there is none. R382: with HOLD
the baseline stays (its effect on the updates and the seeding is the model's reading, log entry 93). -/
def Obligations.PortsAreScanned : Prop :=
  ∀ (s : State) (p : Fin 2) (nodes selfs noise : List U16),
    let raw := fun n (l : List U16) => (l.map BitVec.toNat ++ List.replicate (n - l.length) 0).take n
    let wake := s.reg Reg.EDG_TCH_WAKE
    let r := s.tch p.val
    let n := r.cur.getD (cycleOf s.ft.toNat)
    let runs := r.scanning = true ∧ (r.cur.isSome = true ∨ r.first ≤ n)
    (s.pdOn 1 = true → runs → r.stopping = false → ∃ t, exec (.scanCycle p nodes selfs noise) s = .next t
      ∧ (t.tch p.val).cycle = n ∧ (t.tch p.val).seed = false ∧ t.isReady (43 + p.val) = true
      ∧ (r.seed = true → (t.tch p.val).refUsed = (refFreq s p.val).isSome)
      ∧ (bit (s.tchReg Reg.EDG_TCH_CTRL p.val) 1 = false → (t.tch p.val).rawM = raw 7168 nodes ∧ (t.tch p.val).rawS = raw 176 selfs)
      ∧ (bit (s.tchReg Reg.EDG_TCH_CTRL p.val) 1 = true → (t.tch p.val).rawM = r.rawM
          ∧ (r.seed = false → (t.tch p.val).baseM = r.baseM)))
    ∧ (s.pdOn 1 = true → runs → r.stopping = true → ∃ t, exec (.scanCycle p nodes selfs noise) s = .next t
      ∧ (t.tch p.val).scanning = false ∧ (t.tch p.val).contacts = [] ∧ t.isReady (43 + p.val) = false)
    ∧ (¬ runs → exec (.scanCycle p nodes selfs noise) s = .next s)
    ∧ (s.sys.mode = .dormant → bit wake 0 = true → s.touch.wake.seeded = false → ∃ t, exec (.wakeScan selfs nodes) s = .next t
      ∧ t.touch.wake.seeded = true ∧ t.touch.wake.scan = s.touch.wake.scan + 1 ∧ t.sys.mode = .dormant
      ∧ t.touch.wake.base = (List.range 8).map (fun i => (selfs.getD i 0).toNat * 65536)
          ++ (List.range 14).map (fun i => (nodes.getD i 0).toNat * 65536))
    ∧ (s.sys.mode = .dormant → bit wake 0 = true → s.touch.wake.seeded = true → ∃ t, exec (.wakeScan selfs nodes) s = .next t
      ∧ t.touch.wake.scan = s.touch.wake.scan + 1)
    ∧ (s.sys.mode ≠ .dormant ∨ bit wake 0 = false → exec (.wakeScan selfs nodes) s = .next s)

/-- R261, R270, R273, R286: a doorbell of an enabled ring within its size moves the tail, or the head, which gives a full completion ring room again (or
fills one, each with HST_CQ_FULL) and pays an event ring's EVENTS_LOST; any other doorbell is counted and moves nothing. R402: in DORMANT an aligned doorbell is held. -/
def Obligations.DoorbellsMoveRings : Prop :=
  ∀ (s : State) (f : Fin 2) (q : Fin 64) (v : U32),
    let n := v.toNat
    let sc := s.sqCtrl f.val q.val
    let cc := s.cqCtrl f.val q.val
    let ec := s.reg (evqOff 0 f.val Reg.HST_EVQ_CTRL)
    let e := s.host.evq.getD f.val CqRec.init
    let faults := fun (t : State) => t.cnt (Reg.HST_DB_FAULT_CNT + 0x10000 * f.val)
      = min (s.cnt (Reg.HST_DB_FAULT_CNT + 0x10000 * f.val) + 1) 0xFFFFFFFF
    (s.pdOn 2 = true → s.sys.mode ≠ .dormant →
      (bit sc 31 = true → n < sqSize sc → n < 4096 → ∃ t, exec (.sqTailDoorbell f q v true) s = .next t
        ∧ t.sq f.val q.val = { s.sq f.val q.val with tail := n } ∧ ∀ k : Fin 64, k ≠ q → t.sq f.val k.val = s.sq f.val k.val)
      ∧ (∀ al, (al = false ∨ bit sc 31 = false ∨ sqSize sc ≤ n ∨ 4096 ≤ n) → ∃ t, exec (.sqTailDoorbell f q v al) s = .next t
        ∧ t.sq f.val q.val = s.sq f.val q.val ∧ faults t)
      ∧ (bit cc 31 = true → n < cqSize cc → n < 4096 → ∃ t, exec (.cqHeadDoorbell f q v true) s = .next t
        ∧ t.cq f.val q.val = { s.cq f.val q.val with head := n }
        ∧ (ringFull (cqSize cc) (s.cq f.val q.val).head (s.cq f.val q.val).tail = true →
            ringFull (cqSize cc) n (s.cq f.val q.val).tail = false →
            Raised s t 0x0201 (leBytes 1 f.val ++ leBytes 1 q.val ++ leBytes 1 0)
              ∧ ∀ k : Fin 64, (s.sq f.val k.val).waitCq = some q.val → (t.sq f.val k.val).waitCq = none)
        ∧ (ringFull (cqSize cc) (s.cq f.val q.val).head (s.cq f.val q.val).tail = false → ringFull (cqSize cc) n (s.cq f.val q.val).tail = true →
            Raised s t 0x0201 (leBytes 1 f.val ++ leBytes 1 q.val ++ leBytes 1 1)))
      ∧ (∀ al, (al = false ∨ bit cc 31 = false ∨ cqSize cc ≤ n ∨ 4096 ≤ n) → ∃ t, exec (.cqHeadDoorbell f q v al) s = .next t
        ∧ t.cq f.val q.val = s.cq f.val q.val ∧ faults t)
      ∧ (bit ec 31 = true → n < cqSize ec → n < 4096 → (e.lostPend = 0 ∨ ringFull (cqSize ec) n e.tail = true) →
        ∃ t, exec (.eventRingHeadDoorbell f v true) s = .next t ∧ t.host.evq.get? f.val = some { e with head := n })
      ∧ (bit ec 31 = true → n < cqSize ec → n < 4096 → e.lostPend ≠ 0 → ringFull (cqSize ec) n e.tail = false →
        ∃ t, exec (.eventRingHeadDoorbell f v true) s = .next t ∧ Raised s t 0x0722 (leBytes 2 s.addr ++ leBytes 4 e.lostPend)
          ∧ ∃ r, t.host.evq.get? f.val = some r ∧ r.head = n ∧ r.lostPend = 0 ∧ r.tail = (e.tail + 1) % cqSize ec)
      ∧ (∀ al, (al = false ∨ bit ec 31 = false ∨ cqSize ec ≤ n ∨ 4096 ≤ n) → ∃ t, exec (.eventRingHeadDoorbell f v al) s = .next t ∧ faults t))
    ∧ (s.sys.mode = .dormant →
      (∃ t, exec (.sqTailDoorbell f q v true) s = .next t ∧ t.host.dormDb.get? (f.val * 0x1000 + 4 * q.val) = some v)
      ∧ (∃ t, exec (.cqHeadDoorbell f q v true) s = .next t ∧ t.host.dormDb.get? (f.val * 0x1000 + (0x100 + 4 * q.val)) = some v)
      ∧ (∃ t, exec (.eventRingHeadDoorbell f v true) s = .next t ∧ t.host.dormDb.get? (f.val * 0x1000 + 0x200) = some v))

/-- R274: the ring served has a descriptor, and no ring of higher priority has one. R270, R273: its next descriptor is fetched, unless its completion ring
is full, which it then waits for; a descriptor whose completion ring is not enabled is discarded and counted; an error halts its ring. R277: over the
fabric a fetch takes up to four descriptors, up to the ring's end (the model's reading, log entry 130).
R271 to R273: the oldest completion of a ring that has room is written as 16 bytes with the PHASE and the ring's tail moves on, with HST_CQ_FULL where
that fills it; a full ring holds it. R276: after COAL_US the vector of a completion ring, and of the event ring of a window, is signalled. -/
def Obligations.DescriptorsAreFetchedAndCompletionsWritten : Prop :=
  (∀ (s : State) (desc : BitVec 512) (k : Nat), s.pdOn 2 = true → s.sys.dorm = none →
      let f := k / 64
      let q := k % 64
      let r := s.sq f q
      let j : Job := { org := .ring f q, desc := desc }
      let n := sqSize (s.sqCtrl f q)
      let cq := j.n 4 1
      let k4 := if s.isGateway then 1 else min 4 (min ((r.tail + n - r.head) % n) (n - r.head))
      let next : SqRec := { r with head := (r.head + 1) % n, ahead := if r.ahead = 0 then k4 - 1 else r.ahead - 1 }
      let faults := fun (t : State) => t.cnt (Reg.HST_RING_FAULT_CNT + 0x10000 * f) = min (s.cnt (Reg.HST_RING_FAULT_CNT + 0x10000 * f) + 1) 0xFFFFFFFF
      (nextSq s = none → ∀ err, exec (.descriptorFetch desc err) s = .next s)
      ∧ (nextSq s = some k → fetchable s k = true ∧ ∀ m, m < 128 → fetchable s m = true → sqPrio s m ≤ sqPrio s k)
      ∧ (nextSq s = some k →
        (cq < 64 → bit (s.cqCtrl f cq) 31 = true → ringFull (cqSize (s.cqCtrl f cq)) (s.cq f cq).head (s.cq f cq).tail = false →
          ∃ t, exec (.descriptorFetch desc false) s = .next t ∧ t.sq f q = next
            ∧ t.host.inFlight = s.host.inFlight ++ [{ job := j, started := false }])
        ∧ (cq < 64 → bit (s.cqCtrl f cq) 31 = true → ringFull (cqSize (s.cqCtrl f cq)) (s.cq f cq).head (s.cq f cq).tail = true →
          ∃ t, exec (.descriptorFetch desc false) s = .next t ∧ t.sq f q = { r with waitCq := some cq } ∧ t.host.inFlight = s.host.inFlight)
        ∧ ((64 ≤ cq ∨ bit (s.cqCtrl f cq) 31 = false) → ∃ t, exec (.descriptorFetch desc false) s = .next t
          ∧ t.sq f q = next ∧ t.host.inFlight = s.host.inFlight ∧ faults t)
        ∧ (∃ t, exec (.descriptorFetch desc true) s = .next t ∧ t.sq f q = { r with halted := true, ahead := 0 } ∧ t.host.inFlight = s.host.inFlight ∧ faults t)))
  ∧ (∀ (s : State) (f : Fin 2) (q : Fin 64) (d : DoneRec), s.pdOn 2 = true →
      let c := s.cqCtrl f.val q.val
      let r := s.cq f.val q.val
      let n := cqSize c
      let at_ := s.base64 (ringOff Reg.HST_CQ_BASE_LO f.val q.val) (ringOff Reg.HST_CQ_BASE_HI f.val q.val) + 16 * r.tail
      let oldest := s.host.done.find? (fun d => d.pf == f.val && d.cq == q.val)
      (oldest = some d → bit c 31 = true → ringFull n r.head r.tail = false → ∃ t, exec (.completionWrite f q) s = .next t
        ∧ t.host.done = s.host.done.erase d ∧ (t.cq f.val q.val).tail = (r.tail + 1) % n ∧ (t.cq f.val q.val).head = r.head
        ∧ (t.cq f.val q.val).phase = (if r.tail + 1 = n then !r.phase else r.phase)
        ∧ (ringFull n r.head ((r.tail + 1) % n) = true → Raised s t 0x0201 (leBytes 1 f.val ++ leBytes 1 q.val ++ leBytes 1 1))
        ∧ (s.isGateway = true → Out.hostWrite f.val at_ (leBytes 2 d.tag ++ leBytes 2 (s.sq d.pf d.sq).head ++ leBytes 1 d.sq
            ++ leBytes 1 d.status.code ++ leBytes 1 (d.flags % 8 + 128 * b2n r.phase) ++ leBytes 1 d.opcode ++ leBytes 8 d.result.toNat) ∈ news s t))
      ∧ ((oldest = none ∨ bit c 31 = false ∨ ringFull n r.head r.tail = true) → exec (.completionWrite f q) s = .next s)
      ∧ (bit c 31 = true → bit c 30 = true → r.since ≠ 0 → ∃ t, exec (.cqCoalesceTimeout f (.cq q)) s = .next t
        ∧ t.cq f.val q.val = { r with since := 0 }
        ∧ (s.isGateway = true → bit (s.host.msix.getD (f.val * 256 + bits c 21 16 * 4 + 3) 1).toNat 0 = false →
            Out.msix f.val (bits c 21 16) ∈ news s t))
      ∧ (∀ w : Fin 64, let ec := s.reg (evqOff w.val f.val Reg.HST_EVQ_CTRL)
         let e := s.host.evq.getD (w.val * 2 + f.val) CqRec.init
         bit ec 31 = true → bit ec 30 = true → e.since ≠ 0 → ∃ t, exec (.cqCoalesceTimeout f (.evq w)) s = .next t
           ∧ t.host.evq.get? (w.val * 2 + f.val) = some { e with since := 0 }
           ∧ (bit (s.host.msix.getD (f.val * 256 + bits ec 21 16 * 4 + 3) 1).toNat 0 = false → Out.msix f.val (bits ec 21 16) ∈ news s t)))

/-- R318: an aligned 64-bit write is two 32-bit writes; an access that is misaligned, of any other size but 4, or with byte enables clear is refused, counted and captured
with SIZE. R319: a write of an offset without a register does nothing. R334, R338: a write that the MPU denies is counted and changes no memory. R260: an
MSI-X table dword is written through its function's own window.
R126, R127, R129: a window of a gateway whose MODE is 0 reads as zero and drops writes; one with a device sends it a request under the next SEQ, which is
outstanding until its response; a device that is no gateway, or a function in D3hot, answers no window. R261: doorbell page 0 holds the doorbells of the own rings. That a function in
D3hot answers none is presumed (log entry 135); that a window's requester is kept by its own address is the model's reading (log entry 41). -/
def Obligations.RegistersAndWindowsAreAccessed : Prop :=
  (∀ (s : State) (a : Acc) (off : BitVec 24) (size : Nat) (full : Bool) (v : U64),
      s.pdOn 2 = true → s.sys.mode ≠ .dormant →
      (∀ (f : Fin 2) (q : Fin 64), off.toNat = ringOff Reg.HST_SQ_BASE_LO f.val q.val → off.toNat % 8 = 0 →
        Reaches s a off.toNat → Reaches s a (off.toNat + 4) → (f.val = 1 ∨ privileged s a = true) → bit (s.sqCtrl f.val q.val) 31 = false → v.toNat % 4096 = 0 →
        ∃ t, exec (.registerWrite a off 8 true v) s = .next t ∧ t.reg off.toNat = v.toNat % 2 ^ 32 ∧ t.reg (off.toNat + 4) = v.toNat / 2 ^ 32)
      ∧ ((inBootWindow off.toNat && full) = false → sizeOk off.toNat size full = false → ∃ t, exec (.registerWrite a off size full v) s = .next t
        ∧ t.cnt Reg.SYS_RAF_CNT = min (s.cnt Reg.SYS_RAF_CNT + 1) 0xFFFFFFFF ∧ t.mem = s.mem
        ∧ (bit (s.cnt Reg.SYS_RAF_CAP0) 31 = false →
            Raised s t 0x0110 (leBytes 1 (Acc.mid a) ++ leBytes 1 RafCause.size.code ++ leBytes 1 1 ++ leBytes 4 off.toNat)))
      ∧ (findReg off.toNat = none → inBootWindow off.toNat = false → Reaches s a off.toNat → off.toNat % 4 = 0 →
        exec (.registerWrite a off 4 true v) s = .next s)
      ∧ (inBootWindow off.toNat = false → off.toNat % 4 = 0 → admitted a = true → mpuOk s (Acc.mid a) (regSpace + off.toNat) 4 = false →
        ∃ t, exec (.registerWrite a off 4 true v) s = .next t ∧ t.mem = s.mem
          ∧ t.cnt Reg.SYS_MPU_DENY_CNT = min (s.cnt Reg.SYS_MPU_DENY_CNT + 1) 0xFFFFFFFF)
      ∧ (∀ (f : Fin 2) (k : Fin 256) (x : U32), s.isGateway = true → (s.pcieFn f.val).d3hot = false →
        ∃ t, exec (.windowAccess f false (BitVec.ofNat 32 (0x3F0000 + 4 * k.val)) true 4 true (x.setWidth 64)) s = .next t
          ∧ t.host.msix.get? (f.val * 256 + k.val) = some x))
  ∧ (∀ (s : State) (f : Fin 2) (addr : U32) (write : Bool) (size : Nat) (v : U64), s.sys.mode ≠ .dormant → s.pdOn 2 = true →
      let w := addr.toNat / 0x1000000
      let off := addr.toNat % 0x1000000
      let key := mgmtKey 0 (winAddr s w)
      let here := s.isGateway = true ∧ (s.pcieFn f.val).d3hot = false
      (¬ here → exec (.windowAccess f false addr write size true v) s = .next s)
      ∧ (here → 0 < w → w < 64 → winMode s w = 0 → ∃ t, exec (.windowAccess f false addr write size true v) s = .next t
        ∧ t.mem = s.mem ∧ t.regs = s.regs ∧ t.fab = s.fab ∧ (write = false → Out.pcieData f.val addr.toNat 0 ∈ news s t))
      ∧ (here → 0 < w → w < 64 → winMode s w ≠ 0 → isEvqReg off = false → sizeOk off size true = true →
        (s.requester key).open_.length < 32 → ∃ t, exec (.windowAccess f false addr write size true v) s = .next t
          ∧ (t.requester key).next = ((s.requester key).next + 1) % 65536
          ∧ ∃ r, (t.requester key).open_ = (s.requester key).open_ ++ [r] ∧ r.seq = (s.requester key).next ∧ r.win = w ∧ r.isRead = !write
              ∧ r.tries = 0)
      ∧ (here → 0 < w → w < 64 → winMode s w ≠ 0 → isEvqReg off = false → sizeOk off size true = true →
        32 ≤ (s.requester key).open_.length → ∃ t, exec (.windowAccess f false addr write size true v) s = .next t
          ∧ (t.requester key).open_ = (s.requester key).open_ ∧ (t.requester key).wait.length = (s.requester key).wait.length + 1)
      ∧ (∀ q : Fin 64, here → addr.toNat = 4 * q.val → bit (s.sqCtrl f.val q.val) 31 = true → v.toNat < sqSize (s.sqCtrl f.val q.val) →
        v.toNat < 4096 → ∃ t, exec (.windowAccess f true addr true 4 true v) s = .next t ∧ (t.sq f.val q.val).tail = v.toNat))

/-- R329, R330: a write of MBX_SEL selects an item with VALID 0; its latch gives the item's 16 bytes with VALID 1, ERR 1 for a code that names no item and
ERR 2 where the bank lacks the privilege; a latched mailbox keeps its bytes.
R340: DAP_CMD shifts out the last access's status; with GO a write is armed for its words and a read gives the words of device memory that the MPU allows.
DAP_DATA takes the words of an armed write, the last of which makes the access, and otherwise shifts out the next word. R339: a disabled port starts no
access. What an access that breaks the size or alignment rule and one to a frozen controller give is the model's reading (log entry 79). -/
def Obligations.MailboxesAndTheDebugPortAreServed : Prop :=
  (∀ (s : State) (a : Acc) (bank : Fin 7) (m : Fin 4) (v : U32) (r : MbxRec),
      let at_ := fun (t : State) => t.mbx bank.val m.val
      (Reaches s a (Reg.MBX_SEL + 0x20 * m.val) → bankOf a = bank.val → ∃ t, exec (.mbxSel a m v) s = .next t
        ∧ (at_ t).sel = v ∧ (at_ t).valid = false ∧ (at_ t).err = 0 ∧ ∀ k, k ≠ mbxKey bank.val m.val → t.sys.mbx.get? k = s.sys.mbx.get? k)
      ∧ (s.pdOn 2 = true → s.sys.mbx.get? (mbxKey bank.val m.val) = some r → r.valid = false →
        (itemOf s r.sel.toNat = none → ∃ t, exec (.mailboxLatch bank m) s = .next t ∧ (at_ t).valid = true ∧ (at_ t).err = 1 ∧ (at_ t).data = [])
        ∧ (∀ b, itemOf s r.sel.toNat = some b → bits r.sel.toNat 31 16 = 0x0110 → bankPriv s bank.val = false →
            ∃ t, exec (.mailboxLatch bank m) s = .next t ∧ (at_ t).valid = true ∧ (at_ t).err = 2 ∧ (at_ t).data = [])
        ∧ (∀ b, itemOf s r.sel.toNat = some b → (bits r.sel.toNat 31 16 ≠ 0x0110 ∨ bankPriv s bank.val = true) → r.sel ≠ 0x07000000 →
            ∃ t, exec (.mailboxLatch bank m) s = .next t ∧ (at_ t).valid = true ∧ (at_ t).err = 0 ∧ (at_ t).data = slice b 0 16))
      ∧ (s.sys.mbx.get? (mbxKey bank.val m.val) = some r → r.valid = true → exec (.mailboxLatch bank m) s = .next s))
  ∧ (∀ (s : State) (w : U64) (x : U32), MemOk s →
      let addr := bits w.toNat 39 0
      let n := bits w.toNat 49 40 + 1
      let d := s.sys.dap
      let go := bit w.toNat 51 = true ∧ dapEnabled s = true ∧ d.busy = false ∧ s.pdOn 2 = true
      (¬ go → ∃ t, exec (.dapCmd w) s = .next t ∧ t.out = Out.dapStatus (dapStatus s) :: s.out ∧ t.mem = s.mem ∧ t.sys.dap = { d with ir := 0x20 })
      ∧ (go → bit w.toNat 50 = true → ∃ t, exec (.dapCmd w) s = .next t ∧ t.sys.dap.armed = true ∧ t.sys.dap.addr = addr ∧ t.sys.dap.len + 1 = n
        ∧ t.sys.dap.got = [] ∧ t.mem = s.mem)
      ∧ (go → bit w.toNat 50 = false → addr % 4 = 0 → n % 4 = 0 → addr + n ≤ s.usable → addr + n ≤ apertureLo → mpuOk s 0x3F addr n = true →
        memHolds s addr = false → ∃ t, exec (.dapCmd w) s = .next t ∧ t.sys.dap.words = wordsOf (n / 4) (memRead s.mem addr n)
          ∧ t.sys.dap.denied = false ∧ t.sys.dap.refused = false ∧ t.mem = s.mem)
      ∧ (go → bit w.toNat 50 = false → (addr % 4 ≠ 0 ∨ n % 4 ≠ 0) → ∃ t, exec (.dapCmd w) s = .next t
        ∧ t.sys.dap.words = List.replicate ((n + 3) / 4) 0 ∧ t.sys.dap.refused = true ∧ t.mem = s.mem)
      ∧ (d.armed = true → 4 * (d.got.length + 1) < d.len + 1 → ∃ t, exec (.dapData x) s = .next t ∧ t.sys.dap.got = d.got ++ [x] ∧ t.mem = s.mem)
      ∧ (d.armed = true → 4 * (d.got.length + 1) = d.len + 1 → d.addr % 4 = 0 → d.addr + d.len < s.usable → d.addr + d.len < apertureLo →
        mpuOk s 0x3F d.addr (d.len + 1) = true → memHolds s d.addr = false → ∃ t, exec (.dapData x) s = .next t
          ∧ t.sys.dap.armed = false ∧ t.sys.dap.denied = false
          ∧ ∀ y, memGet t.mem y = if d.addr ≤ y ∧ y ≤ d.addr + d.len
              then ((d.got ++ [x]).flatMap (fun w => leBytes 4 w.toNat)).getD (y - d.addr) 0 else memGet s.mem y)
      ∧ (∀ y ys, d.armed = false → d.words = y :: ys → ∃ t, exec (.dapData x) s = .next t ∧ t.out = Out.dapWord y :: s.out ∧ t.sys.dap.words = ys
        ∧ t.mem = s.mem))

/-- R128: a request with the next SEQ, or with RESYNC, is executed and its answer kept; a repeat is answered from the copy alone, and a later SEQ is
discarded. R125: a request of another domain is answered DENIED and changes no memory. That a device without a gateway's function answers a DMA request DENIED, and one of an unknown
type is discarded, is the model's reading (log entry 42).
R127 to R129: a response ends its request and completes a window read; a response without a request does nothing. R128, R129: a timeout sends the outstanding
requests again until RETRIES is reached; then the oldest fails: a window's is counted and raises MGMT_FAIL. R129: a command whose DMA is answered with any status but DONE ends
with ABORTED. R132: a gap in a device's event SEQ raises EVENTS_LOST; a SEQ of more than half the range behind is older and does nothing (DEDUCED: log
entry 128). Which answers end a command, and that the next request is sent again with
RESYNC after one has failed, is the model's reading (log entries 42 and 129). -/
def Obligations.ManagementRequestsAreServedAndEnd : Prop :=
  (∀ (s : State) (l : Option (Fin 11)) (p : Packet), s.pdOn 9 = true →
      let key := mgmtKey p.flow p.src
      let r := s.fab.resps.getD key { next := 0, copies := [] }
      let resync := bit (fieldAt p.data (p.bodyOff + 1) 1) 2
      let type := fieldAt p.data p.bodyOff 1
      (Tab.get? r.copies p.seq = none → requestType type = true → (resync = true ∨ p.seq = r.next) →
        ∃ t, exec (.mgmtRequest l p) s = .next t ∧ ∃ r', t.fab.resps.get? key = some r' ∧ r'.next = (p.seq + 1) % 65536
          ∧ ∃ a, (p.seq, a) ∈ r'.copies ∧ fieldAt a.data a.bodyOff 1 = 15
            ∧ ((s.isGateway = true ∨ s.fab.claimed = true) → p.dom ≠ s.domain →
                fieldAt a.data (a.bodyOff + 2) 1 = Status.denied.code ∧ t.mem = s.mem))
      ∧ (∀ a, Tab.get? r.copies p.seq = some a → (resync = false ∨ bit (fieldAt p.data (p.bodyOff + 1) 1) 1 = true) →
        ∃ t, exec (.mgmtRequest l p) s = .next t ∧ t.fab.resps = s.fab.resps ∧ t.mem = s.mem ∧ t.sys.mpu = s.sys.mpu)
      ∧ (Tab.get? r.copies p.seq = none → resync = false → p.seq ≠ r.next → ∃ t, exec (.mgmtRequest l p) s = .next t
        ∧ t.fab.resps = s.fab.resps ∧ t.mem = s.mem ∧ t.regs = s.regs ∧ t.out = s.out))
  ∧ (∀ (s : State) (l : Option (Fin 11)) (p : Packet) (flow : Fin 3) (peer : BitVec 10) (r : MReq) (rs : List MReq), s.pdOn 9 = true →
      let key := if flow = 2 then directedReq s peer.toNat else mgmtKey flow.val peer.toNat
      let ask := answered s (l.map (·.val)) p
      let resp : Instr := .resp ⟨l, p⟩
      let q := s.requester key
      let retries := bits (s.reg Reg.FAB_GW_MGMT_CFG) 18 16
      (ask = some (key, r) → q.wait = [] → r.win ≠ 0 → ∃ t, exec resp s = .next t
        ∧ (t.requester key).open_ = q.open_.filter (fun e => !(e.seq == r.seq))
        ∧ (fieldAt p.data (p.bodyOff + 2) 1 ≠ Status.denied.code → r.isRead = true →
            Out.pcieData r.pf r.bar (BitVec.ofNat 64 (fieldAt p.data (p.bodyOff + 16) (min 8 (fieldAt p.data (p.bodyOff + 4) 4)))) ∈ news s t)
        ∧ (fieldAt p.data (p.bodyOff + 2) 1 = Status.denied.code →
            t.cnt Reg.FAB_GW_DENIED_CNT = min (s.cnt Reg.FAB_GW_DENIED_CNT + 1) 0xFFFFFFFF
              ∧ (r.isRead = true → Out.pcieData r.pf r.bar 0 ∈ news s t)))
      ∧ (∀ c : Cmd, ask = some (key, r) → r.win = 0 → r.cmd = some c.job → s.host.inFlight.any (fun e => e.job == c.job) = true →
        fieldAt p.data (p.bodyOff + 2) 1 ≠ Status.done.code → ∃ t, exec resp s = .next t
          ∧ t.host.done.any (fun e => e.pf == c.pf.val && e.sq == c.sq.val && e.tag == c.job.n 2 2 && e.status == .aborted) = true)
      ∧ (ask = none → ∃ t, exec resp s = .next t ∧ t.fab.reqs = s.fab.reqs ∧ t.out = s.out ∧ t.mem = s.mem)
      ∧ (q.open_ = r :: rs → r.tries < retries → ∃ t, exec (.mgmtRetryTimeout flow peer) s = .next t
        ∧ (t.requester key).open_.length = q.open_.length ∧ (t.requester key).open_.map (·.tries) = q.open_.map (fun e => e.tries + 1)
        ∧ (t.requester key).open_.map (·.seq) = q.open_.map (·.seq))
      ∧ (q.open_ = r :: rs → retries ≤ r.tries → r.win ≠ 0 → q.wait = [] → ∃ t, exec (.mgmtRetryTimeout flow peer) s = .next t
        ∧ (t.requester key).open_.map (·.seq) = rs.map (·.seq) ∧ t.cnt Reg.FAB_GW_FAIL_CNT = min (s.cnt Reg.FAB_GW_FAIL_CNT + 1) 0xFFFFFFFF
        ∧ Raised s t 0x0720 (leBytes 1 r.win ++ leBytes 1 r.type ++ leBytes 8 r.addr))
      ∧ (s.isGateway = true → s.fab.evSeqs.get? p.src = none → ∃ t, exec (.eventPacket p) s = .next t
        ∧ t.fab.evSeqs.get? p.src = some ((p.seq + 1) % 65536))
      ∧ (∀ n, s.isGateway = true → s.fab.evSeqs.get? p.src = some n → (p.seq + 65536 - n) % 65536 ≤ 32768 →
        ∃ t, exec (.eventPacket p) s = .next t ∧ t.fab.evSeqs.get? p.src = some ((p.seq + 1) % 65536)
          ∧ ((p.seq + 65536 - n) % 65536 ≠ 0 → (windowOf s p.src).isSome = true →
            Raised s t 0x0722 (leBytes 2 p.src ++ leBytes 4 ((p.seq + 65536 - n) % 65536))))
      ∧ (∀ n, s.isGateway = true → s.fab.evSeqs.get? p.src = some n → (p.seq + 65536 - n) % 65536 > 32768 →
        ∃ t, exec (.eventPacket p) s = .next t ∧ t.fab.evSeqs = s.fab.evSeqs ∧ t.out = s.out)
      ∧ (s.isGateway = false → ∃ t, exec (.eventPacket p) s = .next t ∧ t.fab.evSeqs = s.fab.evSeqs ∧ t.out = s.out))

/-- R38, R129, R169, R188, R327, R338: a write of 1 to a RELEASE bit frees the capture, and no other register changes; nor
does anything else but the parity of the register written and the interlock it may release (R326). SYS_MPU_RELEASE is privileged (R320): without privilege the write does nothing.
R335, R337: a load of SYS_MPU_CTRL(r) that the rules admit puts the shadows, ENABLE and LOCK into the region as one change, and no
other region changes; a locked region does not change.
R339, R341: in PRODUCTION a privileged write of DAP_EN sets it, and a change raises SYS_DEBUG; in DEVELOPMENT it has no effect. -/
def Obligations.ReleaseRowsAndProtectionRowsAct : Prop :=
  (∀ (s : State) (a : Acc) (v : U32),
      (Reaches s a Reg.FUM_SELFTEST_RELEASE → ∃ t, exec (.fumSelftestRelease a v) s = .next t
        ∧ Freed s t [Reg.FUM_SELFTEST_CAP0, Reg.FUM_SELFTEST_CAP1, Reg.FUM_SELFTEST_CAP2] v)
      ∧ (Reaches s a Reg.FAB_GW_FAIL_RELEASE → ∃ t, exec (.fabGwFailRelease a v) s = .next t
        ∧ Freed s t [Reg.FAB_GW_FAIL_CAP, Reg.FAB_GW_FAIL_ADDR] v)
      ∧ (Reaches s a Reg.STR_DEC_FAULT_RELEASE → ∃ t, exec (.strDecFaultRelease a v) s = .next t
        ∧ Freed s t [Reg.STR_DEC_FAULT_CAP0, Reg.STR_DEC_FAULT_CAP1] v)
      ∧ (Reaches s a Reg.CMP_FAULT_RELEASE → ∃ t, exec (.cmpFaultRelease a v) s = .next t
        ∧ Freed s t [Reg.CMP_FAULT_CAP0, Reg.CMP_FAULT_CAP1] v)
      ∧ (Reaches s a Reg.SYS_RAF_RELEASE → ∃ t, exec (.sysRafRelease a v) s = .next t
        ∧ Freed s t [Reg.SYS_RAF_CAP0, Reg.SYS_RAF_CAP1] v)
      ∧ (Reaches s a Reg.SYS_MPU_RELEASE → privileged s a = true → ∃ t, exec (.sysMpuRelease a v) s = .next t
        ∧ Freed s t [Reg.SYS_MPU_CAP0, Reg.SYS_MPU_CAP1] v)
      ∧ (Reaches s a Reg.SYS_MPU_RELEASE → privileged s a = false → exec (.sysMpuRelease a v) s = .next s))
  ∧ (∀ (s : State) (a : Acc) (r : Fin 64) (v : U32),
      (Reaches s a (Reg.SYS_MPU_CTRL + 0x20 * r.val) → privileged s a = true → (s.region r.val).lock = false →
        mpuLoadBad s r.val v.toNat = false →
        ∃ t, exec (.sysMpuCtrl a r v) s = .next t
          ∧ t.region r.val = shadowRegion s r.val (v.getLsbD 1) (v.getLsbD 2)
          ∧ (∀ k, k ≠ r.val → t.region k = s.region k))
      ∧ (Reaches s a (Reg.SYS_MPU_CTRL + 0x20 * r.val) → (s.region r.val).lock = true → ∃ t, exec (.sysMpuCtrl a r v) s = .next t ∧ ∀ k, t.region k = s.region k))
  ∧ (∀ (s : State) (a : Acc) (v : U32), Reaches s a Reg.SYS_DEBUG_CTRL → privileged s a = true →
      ∃ t, exec (.dapEn a v) s = .next t
        ∧ (s.otp.lifecycle = 1 → bit (t.reg Reg.SYS_DEBUG_CTRL) 0 = v.getLsbD 0)
        ∧ (s.otp.lifecycle = 1 → bit (s.reg Reg.SYS_DEBUG_CTRL) 0 ≠ v.getLsbD 0 →
            Raised s t 0x0113 [BitVec.ofNat 8 (v.toNat % 2), BitVec.ofNat 8 1])
        ∧ (s.otp.lifecycle ≠ 1 → t.reg Reg.SYS_DEBUG_CTRL = s.reg Reg.SYS_DEBUG_CTRL))

/-- R123: the first write of an address assigns it; R322: once assigned it stays. R216: a write with SET sets the slate store's base.
R288, R339, R407: keyed writes. SYS_RESET schedules a full reset 10 µs later; SYS_LIFECYCLE_ADV in SERVICE arms the advance of
DEVELOPMENT; EDG_AON_CLEAR clears the fault, freeze and release records that it selects, all but their fields that
count since power came, and nothing else of the island. With any other key the three rows schedule, arm and clear
nothing.
R25: the first privileged write of 1 to POLICY_LOCK locks the policies and raises FUM_POLICY_LOCKED. R355: the OWNER of an enabled pair then sends the
lock as a record of class 3. R322: once locked, no write of the row unlocks them. -/
def Obligations.KeyedAndWriteOnceRowsAct : Prop :=
  (∀ (s : State) (a : Acc) (v : U32),
      (Reaches s a Reg.FAB_NODE_ADDR → privileged s a = true → s.addr = 0x3FF →
        ∃ t, exec (.fabNodeAddr a v) s = .next t ∧ t.addr = v.toNat % 1024)
      ∧ (Reaches s a Reg.FAB_NODE_ADDR → s.addr ≠ 0x3FF → ∃ t, exec (.fabNodeAddr a v) s = .next t ∧ t.addr = s.addr)
      ∧ (Reaches s a Reg.CMP_SLATE_BASE → privileged s a = true → s.reg Reg.CMP_SLATE_BASE = 0 → v.getLsbD 31 = true →
        ∃ t, exec (.cmpSlateBase a v) s = .next t ∧ t.reg Reg.CMP_SLATE_BASE = 0x80000000 + v.toNat % 0x100000
          ∧ ∀ o, o ≠ Reg.CMP_SLATE_BASE → t.reg o = s.reg o))
  ∧ (∀ (s : State) (a : Acc) (v : U32),
      (Reaches s a Reg.SYS_RESET → privileged s a = true → bits v.toNat 31 16 = 0xB824 → v.getLsbD 0 = true →
        s.sys.power.resetDue = none →
        ∃ t, exec (.sysReset a v) s = .next t ∧ t.sys.power.resetDue = some (s.clk + 10000))
      ∧ (Reaches s a Reg.SYS_RESET → bits v.toNat 31 16 ≠ 0xB824 → ∃ t, exec (.sysReset a v) s = .next t ∧ t.sys.power.resetDue = s.sys.power.resetDue)
      ∧ (Reaches s a Reg.SYS_LIFECYCLE_ADV → privileged s a = true → bits v.toNat 31 16 = 0x5052 → v.getLsbD 0 = true →
        s.sys.mode = .service → s.otp.lifecycle = 0 →
        ∃ t, exec (.sysLifecycleAdv a v) s = .next t ∧ t.otp = { s.otp with advance := true })
      ∧ (Reaches s a Reg.SYS_LIFECYCLE_ADV → (s.sys.mode ≠ .service ∨ s.otp.lifecycle ≠ 0 ∨ bits v.toNat 31 16 ≠ 0x5052) →
        ∃ t, exec (.sysLifecycleAdv a v) s = .next t ∧ t.otp = s.otp)
      ∧ (Reaches s a Reg.EDG_AON_CLEAR → privileged s a = true → bits v.toNat 31 16 = 0xA0C1 →
        ∃ t, exec (.edgAonClear a v) s = .next t ∧ t.aon = { s.aon with
          fault := if v.getLsbD 0 then List.replicate 12 0 ++ slice s.aon.fault 12 3 ++ [0] else s.aon.fault,
          freeze := if v.getLsbD 1 then List.replicate 12 0 ++ slice s.aon.freeze 12 2 ++ [0, 0] else s.aon.freeze,
          freezeTime := if v.getLsbD 1 then 0 else s.aon.freezeTime, relq := if v.getLsbD 2 then [] else s.aon.relq })
      ∧ (Reaches s a Reg.EDG_AON_CLEAR → bits v.toNat 31 16 ≠ 0xA0C1 → ∃ t, exec (.edgAonClear a v) s = .next t ∧ t.aon = s.aon))
  ∧ (∀ (s : State) (a : Acc) (v : U32),
      (Reaches s a Reg.FUM_LOCK → privileged s a = true → s.policyLock = false → v.getLsbD 0 = true →
        ∃ t, exec (.fumLock a v) s = .next t ∧ t.policyLock = true ∧ Raised s t 0x0514 []
          ∧ (mirrorsOut s 3 = true → t.mir.recId = (s.mir.recId + 1) % 2 ^ 32 ∧ ∃ n, MirrorSent s t n (recordPays s.mir.recId 3 0 [1]))
          ∧ (mirrorsOut s 3 = false → t.mir = s.mir))
      ∧ (Reaches s a Reg.FUM_LOCK → s.policyLock = true → ∃ t, exec (.fumLock a v) s = .next t ∧ t.policyLock = true))

/-- R267, R268: setting ENABLE of a ring that is not enabled, with a size of the table, enables it with its head and tail at 0; a submission ring has the
size, priority and bits written. The registers of PF0's rings take no write without privilege (R320). -/
def Obligations.RingEnableStartsRing : Prop :=
  ∀ (s : State) (a : Acc) (f : Fin 2) (q : Fin 64) (v : U32), v.getLsbD 31 = true →
    let may := f.val = 1 ∨ privileged s a = true
    (Reaches s a (ringOff Reg.HST_SQ_CTRL f.val q.val) → bit (s.sqCtrl f.val q.val) 31 = false → may →
      4 ≤ bits v.toNat 19 16 → bits v.toNat 19 16 ≤ 12 →
      ∃ t, exec (.ringEnable a f (.sq q) v) s = .next t ∧ t.sqCtrl f.val q.val = v.toNat &&& 0x800F0003
        ∧ t.sq f.val q.val = ({ head := 0, tail := 0, halted := false, waitCq := none, ahead := 0 } : SqRec))
    ∧ (Reaches s a (ringOff Reg.HST_CQ_CTRL f.val q.val) → bit (s.cqCtrl f.val q.val) 31 = false → may →
      4 ≤ bits v.toNat 27 24 → bits v.toNat 27 24 ≤ 12 →
      ∃ t, exec (.ringEnable a f (.cq q) v) s = .next t ∧ bit (t.cqCtrl f.val q.val) 31 = true
        ∧ (t.cq f.val q.val).head = 0 ∧ (t.cq f.val q.val).tail = 0)
    ∧ (Reaches s a (evqOff 0 f.val Reg.HST_EVQ_CTRL) → bit (s.reg (evqOff 0 f.val Reg.HST_EVQ_CTRL)) 31 = false → may →
      4 ≤ bits v.toNat 27 24 → bits v.toNat 27 24 ≤ 12 →
      ∃ t, exec (.ringEnable a f .evq v) s = .next t ∧ bit (t.reg (evqOff 0 f.val Reg.HST_EVQ_CTRL)) 31 = true
        ∧ t.host.evq.get? f.val = some ({ head := 0, tail := 0, phase := true, since := 0, first := 0, lostPend := 0 } : CqRec))
    ∧ (Reaches s a (ringOff Reg.HST_SQ_CTRL f.val q.val) → ¬ may → ∃ t, exec (.ringEnable a f (.sq q) v) s = .next t ∧ t.regs = s.regs
      ∧ t.host.sq = s.host.sq)
    ∧ (Reaches s a (ringOff Reg.HST_CQ_CTRL f.val q.val) → ¬ may → ∃ t, exec (.ringEnable a f (.cq q) v) s = .next t ∧ t.regs = s.regs
      ∧ t.host.cq = s.host.cq)
    ∧ (Reaches s a (evqOff 0 f.val Reg.HST_EVQ_CTRL) → ¬ may → ∃ t, exec (.ringEnable a f .evq v) s = .next t ∧ t.regs = s.regs
      ∧ t.host.evq = s.host.evq)

/-- R107 to R109: each training state is left for the next when its condition is met: DETECT, LOCK, MAP (by eight sets with ACK that name the two lanes in one
order, which the link keeps), ALIGN, CAPS, UP. Reaching UP makes the link ready and raises LINK_STATE. R107: BACKOFF ends in DETECT; a timeout of LOCK, MAP,
ALIGN or CAPS sends the link to BACKOFF and is counted; an unacknowledged CAPS goes out again. -/
def Obligations.LinkTrainingGoesStepByStep : Prop :=
  ∀ (s : State) (l : Fin 11) (obs : TrainObs), s.pdOn 9 = true →
    ((s.link l.val).st = .detect → ∃ t, exec (.trainingStateAdvance l obs) s = .next t ∧ (t.link l.val).st = .lock
        ∧ (t.link l.val).half = bit (s.reg (Reg.FAB_LINK_CTRL + 0x100 * l.val)) 1)
    ∧ ((s.link l.val).st = .lock → ∃ t, exec (.trainingStateAdvance l obs) s = .next t ∧ (t.link l.val).st = .map
        ∧ (t.link l.val).pol = obs.pol.toNat)
    ∧ (∀ k, (s.link l.val).st = .map → k < 2 → 8 ≤ obs.sets.length →
        (∀ e ∈ obs.sets, e.1.lane.toNat = k ∧ e.2.lane.toNat = 1 - k ∧ bit e.1.flags.toNat 0 = true ∧ bit e.2.flags.toNat 0 = true) →
        ∃ t, exec (.trainingStateAdvance l obs) s = .next t ∧ (t.link l.val).st = .align ∧ (t.link l.val).reversed = decide (k = 1))
    ∧ ((s.link l.val).st = .align → ∃ t, exec (.trainingStateAdvance l obs) s = .next t ∧ (t.link l.val).st = .caps)
    ∧ ((s.link l.val).st = .caps → (s.link l.val).capsAcked = true → (s.link l.val).capsSeen = true → (s.link l.val).mismatch = false →
        ∃ t, exec (.trainingStateAdvance l obs) s = .next t ∧ (t.link l.val).st = .up ∧ t.isReady (32 + l.val) = true
          ∧ Raised s t 0x0700 [BitVec.ofNat 8 l.val, 1, 0])
    ∧ ((s.link l.val).st = .backoff → ∃ t, exec (.backoffExpiry l) s = .next t ∧ (t.link l.val).st = .detect)
    ∧ ((s.link l.val).st ∈ [LinkState.lock, .map, .align, .caps] → ∃ t, exec (.linkTrainTimeout l) s = .next t
        ∧ (t.link l.val).st = .backoff
        ∧ t.cnt (Reg.FAB_LINK_TRAIN_FAIL + 0x100 * l.val) = min (s.cnt (Reg.FAB_LINK_TRAIN_FAIL + 0x100 * l.val) + 1) 0xFFFFFFFF)
    ∧ ((s.link l.val).st = .caps → (s.link l.val).capsAcked = false → ∃ t, exec (.capsRepeat l) s = .next t
        ∧ (t.link l.val).capsSent = true ∧ (t.link l.val).st = .caps
        ∧ ((s.link l.val).cur = none → (s.link l.val).queue = [] → (s.link l.val).tephra.heldPkt = none → (s.link l.val).tephra.action = 0 →
            (t.link l.val).cur = some (mkPacket (s.link l.val).peerAddr s.addr clsLINK 0 0 0 s.domain (capsPayload s l.val 0))))

/-- R107: ENABLE 1 starts the training of a disabled link, ENABLE 0 takes a link to DISABLED, and RETRAIN sends a link to BACKOFF.
HALF_RATE keeps its value here: R323 refuses its change while ENABLE is 1.
R112: a code or disparity error is counted; a lane that loses lock takes its UP link to BACKOFF with LINK_STATE. R106: a SKP, or every
16th time in UP an ALN, goes out on both lanes of a link that is not DISABLED or in BACKOFF, after the packet in progress where there is one. -/
def Obligations.LinksAreControlledAndFail : Prop :=
  (∀ (s : State) (a : Acc) (l : Fin 11) (v : U32), Reaches s a (Reg.FAB_LINK_CTRL + 0x100 * l.val) →
      (bit (s.reg (Reg.FAB_LINK_CTRL + 0x100 * l.val)) 0 = false → (s.link l.val).st = .disabled → v.getLsbD 0 = true → v.getLsbD 2 = false →
        ∃ t, exec (.linkEnable a l v) s = .next t ∧ (t.link l.val).st = .detect
          ∧ bit (t.reg (Reg.FAB_LINK_CTRL + 0x100 * l.val)) 0 = true)
      ∧ (bit (s.reg (Reg.FAB_LINK_CTRL + 0x100 * l.val)) 0 = true → v.getLsbD 0 = false → v.getLsbD 2 = false →
        v.getLsbD 1 = bit (s.reg (Reg.FAB_LINK_CTRL + 0x100 * l.val)) 1 → (s.link l.val).st ≠ .disabled →
        ∃ t, exec (.linkEnable a l v) s = .next t ∧ (t.link l.val).st = .disabled
          ∧ bit (t.reg (Reg.FAB_LINK_CTRL + 0x100 * l.val)) 0 = false)
      ∧ (bit (s.reg (Reg.FAB_LINK_CTRL + 0x100 * l.val)) 0 = true → v.getLsbD 0 = true → v.getLsbD 2 = true →
        v.getLsbD 1 = bit (s.reg (Reg.FAB_LINK_CTRL + 0x100 * l.val)) 1 → (s.link l.val).st ≠ .disabled →
        ∃ t, exec (.linkRetrain a l v) s = .next t ∧ (t.link l.val).st = .backoff))
  ∧ (∀ (s : State) (l : Fin 11) (i : Fin 2) (sym : Nat), s.pdOn 9 = true →
      (∃ t, exec (.codeError l i sym) s = .next t
        ∧ t.cnt (Reg.FAB_LINK_CODE_ERR + 0x100 * l.val) = min (s.cnt (Reg.FAB_LINK_CODE_ERR + 0x100 * l.val) + 1) 0xFFFFFFFF)
      ∧ ((s.link l.val).st = .up → ∃ t, exec (.lockLost l i) s = .next t ∧ (t.link l.val).st = .backoff
          ∧ Raised s t 0x0700 [BitVec.ofNat 8 l.val, 0, 1])
      ∧ ((s.link l.val).st ≠ .disabled → (s.link l.val).st ≠ .backoff → (s.link l.val).cur = none → ∃ t, exec (.skp l) s = .next t
          ∧ (t.link l.val).skps = ((s.link l.val).skps + 1) % 16
          ∧ (let n := if ((s.link l.val).skps + 1) % 16 = 0 ∧ (s.link l.val).st = .up then "ALN" else "SKP"
             t.out = Out.lanes l.val [(.k n, .k n)] :: Out.symbol l.val n :: s.out))
      ∧ ((s.link l.val).st ≠ .disabled → (s.link l.val).st ≠ .backoff → (s.link l.val).cur ≠ none → ∃ t, exec (.skp l) s = .next t
          ∧ (t.link l.val).skpDue = true ∧ t.out = s.out))

/-- R110: a CAPS that arrives gives the peer's address, domain, link and UID; a CAPS_ACK that repeats this device's own payload acknowledges
it.
R115: a packet whose CRC fails is counted, and on a gateway nothing is delivered inside the device for it. R117: a good packet of class LINK or TIME is
delivered inside the device. R115: the further mismatches of a window are reported when it ends. R114: when a packet ends, an empty queue leaves the link
idle. R133: a held REORDER packet is sent on an idle link. -/
def Obligations.CapsAndPacketsCrossLinks : Prop :=
  (∀ (s : State) (l : Fin 11) (payload : BitVec 256), s.pdOn 9 = true → (s.link l.val).st = .caps →
      (payload.toNat % 256 = 0 → ∃ t, exec (.caps l payload) s = .next t
        ∧ (t.link l.val).peerAddr = fieldAt (leBytes 32 payload.toNat) 4 2 % 1024
        ∧ (t.link l.val).peerDom = fieldAt (leBytes 32 payload.toNat) 6 2 % 1024
        ∧ (t.link l.val).peerLink = fieldAt (leBytes 32 payload.toNat) 2 1
        ∧ (t.link l.val).peerUid = BitVec.ofNat 64 (fieldAt (leBytes 32 payload.toNat) 8 8))
      ∧ (leBytes 32 payload.toNat = capsPayload s l.val 1 → ∃ t, exec (.caps l payload) s = .next t ∧ (t.link l.val).capsAcked = true))
  ∧ (∀ (s : State) (l : Fin 11) (p : Packet) (crc : U32), s.pdOn 9 = true →
      ((s.link l.val).st = .up → malformed p = false → crc ≠ crc32 p.bytes → ∃ t, exec (.packetReceive l p crc false) s = .next t
        ∧ t.cnt (Reg.FAB_LINK_CRC_ERR + 0x100 * l.val) = min (s.cnt (Reg.FAB_LINK_CRC_ERR + 0x100 * l.val) + 1) 0xFFFFFFFF
        ∧ (s.isGateway = true → t.fab.localQ = s.fab.localQ))
      ∧ ((s.link l.val).st = .up → malformed p = false → crc = crc32 p.bytes → p.cls = clsLINK ∨ p.cls = clsTIME →
        ∃ t, exec (.packetReceive l p crc false) s = .next t ∧ t.fab.localQ = s.fab.localQ ++ [p]
          ∧ (t.link l.val).rxPkts = (s.link l.val).rxPkts + 1)
      ∧ ((s.link l.val).crcOpen = true → (s.link l.val).crcMore ≠ 0 → ∃ t, exec (.linkCrcWindowEnd l) s = .next t
        ∧ (t.link l.val).crcOpen = false ∧ Raised s t 0x0701 (BitVec.ofNat 8 l.val :: leBytes 4 (s.link l.val).crcMore))
      ∧ ((s.link l.val).queue = [] → (s.link l.val).tephra.heldPkt = none → (l.val ≠ 10 ∨ s.mir.waiting = []) → ∃ t, exec (.packetEnd l) s = .next t
        ∧ (t.link l.val).cur = none)
      ∧ (∀ m, (s.link l.val).tephra.heldPkt = some (p, m) → (s.link l.val).cur = none → ∃ t, exec (.reorderRelease l) s = .next t
        ∧ (t.link l.val).cur = some (timeStamped s p) ∧ (t.link l.val).tephra.heldPkt = none))

/-- R125: an unclaimed device that is no gateway is claimed by a privileged request of a domain, and released by a privileged request of the domain
that claimed it; a request of another domain leaves it claimed as it is. R262: PCIE_LINK_UP makes HOST ready on a device with PCIE_EN 1.
R119, R135: ROUTE_SET replaces the entries it names, inline or by the whole table, and no other, on a claimed device once the bytes of the table are there;
GROUP_SET sets one group's links and LOCAL and no other group's.
R133, R134, R136: TEPHRA_CFG gives one link's block the descriptor's settings and completes with DONE; arming outside SERVICE sets TEPHRA_USED, which the
completion then shows. Where the event of it leaves by no link, the block is then armed or disarmed as the descriptor says, its count at 0. -/
def Obligations.TheFabricIsConfigured : Prop :=
  (∀ (s : State) (d : BitVec 10) (v : U32), s.pdOn 9 = true → s.isGateway = false →
      (s.fab.claimed = false → v.getLsbD 16 = true → d.toNat ≠ 0x3FF → ∃ t, exec (.domainClaim true d v) s = .next t
        ∧ t.fab.claimed = true ∧ t.fab.domain = d.toNat)
      ∧ (s.fab.claimed = true → s.fab.domain = d.toNat → v.getLsbD 16 = false → ∃ t, exec (.domainClaim true d v) s = .next t
        ∧ t.fab.claimed = false ∧ t.fab.domain = 0x3FF)
      ∧ (s.fab.claimed = true → s.fab.domain ≠ d.toNat → ∀ priv, ∃ t, exec (.domainClaim priv d v) s = .next t
        ∧ t.fab.claimed = true ∧ t.fab.domain = s.fab.domain)
      ∧ (s.straps.pcieEn = true → s.sys.power.cut = false → ∃ t, exec .pcieLinkUp s = .next t ∧ t.isGateway = true ∧ t.pdOn 3 = true))
  ∧ (∀ (s : State) (c : Cmd) (tbl : List Byte),
      let j := c.job
      (Starts s (.routeSet c tbl) c → Admits s c routeSetSpec → (j.n 16 1 = 0 ∨ BytesHere s) → ∃ t, exec (.routeSet c tbl) s = .next t ∧ Ends s t c .done 0 0
        ∧ (j.n 16 1 = 0 → ∀ a, a < 1024 → t.route a = if j.n 18 2 ≤ a ∧ a < j.n 18 2 + j.n 20 2 then
              bits (j.n (24 + (a - j.n 18 2) / 2) 1) (4 * ((a - j.n 18 2) % 2) + 3) (4 * ((a - j.n 18 2) % 2)) else s.route a)
        ∧ (j.n 16 1 = 1 → ∀ a, a < 1024 → t.route a = bits (fieldAt (hostData s tbl 512) (4 * (a / 8)) 4) (4 * (a % 8) + 3) (4 * (a % 8))))
      ∧ (Starts s (.routeSet c tbl) c → Admits s c routeSetSpec → j.n 16 1 = 1 → s.isGateway = false → s.fab.claimed = true →
        ∃ t, exec (.routeSet c tbl) s = .next t ∧ Awaits s t c ∧ ∀ a, a < 1024 → t.route a = s.route a)
      ∧ (Starts s (.groupSet c) c → Admits s c groupSetSpec → ∃ t, exec (.groupSet c) s = .next t ∧ Ends s t c .done 0 0
        ∧ t.reg (Reg.FAB_GROUP + 4 * j.n 16 1) = j.n 18 2 + 2 ^ 16 * b2n (bit (j.n 17 1) 0)
        ∧ ∀ g, g < 256 → g ≠ j.n 16 1 → t.reg (Reg.FAB_GROUP + 4 * g) = s.reg (Reg.FAB_GROUP + 4 * g)))
  ∧ (∀ (s : State) (c : Cmd), Starts s (.tephraCfg c) c → Admits s c (fun _ j => tephraCfgSpec j) →
      let j := c.job
      let l := j.n 16 1
      ∃ t, exec (.tephraCfg c) s = .next t
        ∧ (BytesHere s → (t.link l).tephra.action = j.n 17 1 ∧ t.cnt (Reg.FAB_TEPHRA_COUNT + 4 * l) = 0)
        ∧ Ends s t c .done (if j.n 17 1 ≠ 0 ∧ s.sys.mode ≠ .service ∧ s.fab.tephraUsed = false then 2 else 0) 0
        ∧ t.fab.tephraUsed = (s.fab.tephraUsed || (decide (j.n 17 1 ≠ 0) && decide (s.sys.mode ≠ .service)))
        ∧ (j.n 17 1 ≠ 0 → (t.link l).tephra.mask = j.n 18 1 ∧ (t.link l).tephra.prob = bit (j.n 19 1) 0 ∧ (t.link l).tephra.payload = bit (j.n 19 1) 1
            ∧ (t.link l).tephra.n = j.n 20 2 ∧ (t.link l).tephra.k = j.n 22 1
            ∧ (t.link l).tephra.bits = j.n 23 1 ∧ (t.link l).tephra.m = j.n 24 2 ∧ (t.link l).tephra.limit = j.n 28 4))

/-- R49: a SYNC on an idle link of OUT_MASK that is UP is answered: a REPLY with its SEQ, its arrival time and the REPLY's own departure time goes out after
a K28.1. R50, R54: a follower's REPLY to an exchange under way gives the link's path delay, offset and hops, unless it comes more than 4 periods after its
SYNC, when it gives nothing. Halves of odd numbers are rounded down (the model's choice, log entry 125).
R67, R68: TIME_CFG waits for the next exchange period without completing; the period applies the oldest one, which makes a root of the device
where ROLE is 1, and completes it. R54: a LOCKED follower without a candidate enters HOLDOVER with its uncertainty, and holdover beyond its limit is UNLOCKED, TIME not ready. -/
def Obligations.TimeIsExchangedAndHeld : Prop :=
  (∀ (s : State) (l : Fin 11) (payload : BitVec 256), s.pdOn 9 = true →
      let b := leBytes 32 payload.toNat
      (fieldAt b 0 1 = 0 → bit s.time.cfg.outMask l.val = true → (s.link l.val).st = .up → BytesHere s → (s.link l.val).cur = none →
        (s.link l.val).queue = [] → (s.link l.val).tephra.heldPkt = none → (s.link l.val).tephra.action = 0 →
        ∃ t, exec (.sync l payload) s = .next t ∧ Out.symbol l.val "TSM" ∈ news s t
          ∧ ∃ q, (t.link l.val).cur = some q ∧ q.cls = clsTIME ∧ fieldAt q.data 0 1 = 1 ∧ fieldAt q.data 6 2 = fieldAt b 6 2
            ∧ fieldAt q.data 8 8 = s.ft.toNat ∧ fieldAt q.data 16 8 = s.ft.toNat)
      ∧ (∀ (t1 : U64) (age : Nat), fieldAt b 0 1 = 1 → s.time.cfg.root = false →
          (s.tlink l.val).open_.find? (fun e => e.1 == fieldAt b 6 2) = some (fieldAt b 6 2, t1, age) → s.ft.toNat - t1.toNat ≤ 4 * s.time.cfg.periodNs →
          ∃ t, exec (.reply l payload) s = .next t
            ∧ (t.tlink l.val).d = ((s.ft.toNat - t1.toNat : Int) - ((fieldAt b 8 8 : Int) - (fieldAt b 16 8 : Int))) / 2
            ∧ (t.tlink l.val).theta = (((s.ft.toNat : Int) - (fieldAt b 8 8 : Int)) - ((fieldAt b 16 8 : Int) - (t1.toNat : Int))
                - s.time.cfg.asymOf l.val) / 2
            ∧ (t.tlink l.val).have_ = true ∧ (t.tlink l.val).hops = fieldAt b 1 1)
      ∧ (∀ (t1 : U64) (age : Nat), fieldAt b 0 1 = 1 → s.time.cfg.root = false →
          (s.tlink l.val).open_.find? (fun e => e.1 == fieldAt b 6 2) = some (fieldAt b 6 2, t1, age) → s.ft.toNat - t1.toNat > 4 * s.time.cfg.periodNs →
          ∃ t, exec (.reply l payload) s = .next t ∧ (t.tlink l.val).d = (s.tlink l.val).d ∧ (t.tlink l.val).theta = (s.tlink l.val).theta
            ∧ (t.tlink l.val).have_ = (s.tlink l.val).have_))
  ∧ (∀ (s : State) (c : Cmd),
      (Starts s (.timeCfg c) c → Admits s c (fun _ j => timeCfgSpec j) → ∃ t, exec (.timeCfg c) s = .next t
        ∧ t.time.queue = s.time.queue ++ [c.job] ∧ t.time.st = s.time.st ∧ t.host.done = s.host.done)
      ∧ (∀ js, s.pdOn 9 = true → s.time.queue = c.job :: js → c.job.n 16 1 = 1 → ∃ t, exec .timeExchangePeriod s = .next t
        ∧ t.time.st = .root ∧ t.time.queue = js ∧ t.time.cfg.root = true ∧ t.time.cfg.outMask = c.job.n 20 2
        ∧ t.host.done = s.host.done ++ entry s c .done 0 0)
      ∧ (s.pdOn 9 = true → s.time.queue = [] → s.time.cfg.root = false → s.time.st = .locked → (∀ l, (s.tlink l).have_ = false) →
        ∃ t, exec .timeExchangePeriod s = .next t ∧ t.time.st = .holdover ∧ t.time.u0 = s.uncert ∧ t.time.holdAt = s.clk)
      ∧ (s.pdOn 9 = true → s.time.st = .holdover → s.clk - s.time.holdAt > s.time.cfg.holdMs * 1000000 → ∃ t, exec .holdoverLimitExpiry s = .next t ∧ t.time.st = .unlocked
        ∧ t.isReady 26 = false))

/-- R344, R346: an eligible device claims: PAIR_OWN_O goes high and the pair state is CLAIMING, by EDG_PAIR_CTRL.CLAIM with PAIR_OWN_I low for
10 µs or by AUTO_CLAIM; a device that is not eligible does not. At the frame start of REF_OUTPUT 2 µs after the claim at the earliest, or 2 µs after it
without one, the claim becomes OWNER with PAIR_SEL_O high and the device ACTIVE while the peer does not claim; a claim of a device that is no longer eligible is
withdrawn.
R347: PAIR_OWN_I high for over 2 µs on an OWNER is counted as a conflict, and an OWNER of role B lets go. R346: a claim ends with it too, counted in role A
alone; PAIR_OWN_I that rises while a member of role B claims ends the claim at once, and a role A claim stays. R362: the two views of an output that differ
for 100 µs are noted as a disagreement. -/
def Obligations.ClaimsBecomeOwnershipAndConflictsResolve : Prop :=
  (∀ (s : State) (a : Acc) (v : U32),
      (Reaches s a Reg.EDG_PAIR_CTRL → privileged s a = true → v.getLsbD 0 = true → v.getLsbD 1 = false → eligible s = true →
        s.pair.ownI = false → s.pair.claimFrom ≤ s.clk →
        ∃ t, exec (.pairClaim a v) s = .next t ∧ t.pair.state = 2 ∧ t.pair.ownO = true ∧ t.pair.selO = false)
      ∧ (Reaches s a Reg.EDG_PAIR_CTRL → v.getLsbD 1 = false → eligible s = false → ¬ (Reg.EDG_PAIR_CTRL ∈ s.sys.parity) →
        ∃ t, exec (.pairClaim a v) s = .next t ∧ t.pair.state = s.pair.state ∧ t.pair.ownO = s.pair.ownO)
      ∧ (s.pair.autoClaim = true → eligible s = true → ∃ t, exec .autoClaim s = .next t ∧ t.pair.state = 2 ∧ t.pair.ownO = true
        ∧ t.pair.selO = false ∧ t.pair.ownI = false)
      ∧ (s.pair.state = 2 → claimable s = true → s.pair.ownI = false → s.pair.claimAt + 2000 ≤ s.clk → refStarts s = true → ∃ t, exec .actingOwner s = .next t ∧ t.pair.state = 3
        ∧ t.pair.ownO = true ∧ t.pair.selO = true ∧ t.sys.mode = .active)
      ∧ (s.pair.state = 2 → claimable s = false → ∃ t, exec .actingOwner s = .next t ∧ t.pair.state = 1 ∧ t.pair.ownO = false))
  ∧ (∀ (s : State),
      (s.pair.state = 3 → ∃ t, exec .pairConflict s = .next t ∧ t.pair.state = (if s.pair.roleB then 1 else 3)
        ∧ t.cnt Reg.EDG_PAIR_CONFLICT_CNT = min (s.cnt Reg.EDG_PAIR_CONFLICT_CNT + 1) 0xFFFFFFFF)
      ∧ (s.pair.state = 2 → ∃ t, exec .pairConflict s = .next t ∧ t.pair.state = 1 ∧ t.pair.ownO = false
        ∧ t.cnt Reg.EDG_PAIR_CONFLICT_CNT
            = if s.pair.roleB then s.cnt Reg.EDG_PAIR_CONFLICT_CNT else min (s.cnt Reg.EDG_PAIR_CONFLICT_CNT + 1) 0xFFFFFFFF)
      ∧ (s.pair.state = 2 → ∃ t, exec .pairOwnIRise s = .next t ∧ t.pair.ownI = true ∧ t.pair.state = (if s.pair.roleB then 1 else 2)
        ∧ t.pair.ownO = (s.pair.ownO && !s.pair.roleB))
      ∧ (∀ i : Byte, i.toNat ≤ 7 → s.pdOn 2 = true → (s.pair.disagree.contains (1, i.toNat)) = false →
        (s.enabled i.toNat && (s.tg i.toNat).cfg.idx != 0) ≠ (s.tg i.toNat).running →
        ∃ t, exec (.stateDisagree 1 i) s = .next t ∧ (1, i.toNat) ∈ t.pair.disagree))

/-- R351, R352: a trigger on an OWNER or a CLAIMING device drops both pins, returns the pair to STANDBY with PAIR_RELINQUISH, and bars the device
where it is one of triggers 1 to 8. R351: RELEASE is trigger 9 and bars nothing; trigger 8 is UNLOCKED for too long; trigger 4 is the watchdog, with
FROZEN. -/
def Obligations.TriggersReleaseOwnership : Prop :=
  ∀ (s : State), s.pair.state = 2 ∨ s.pair.state = 3 →
    (∀ k : Fin 12, k.val ≠ 0 → ∃ t, exec (.relinquish k) s = .next t ∧ t.pair.state = 1 ∧ t.pair.ownO = false ∧ t.pair.selO = false
      ∧ bit t.pair.trig k.val = true ∧ t.pair.barred = (s.pair.barred || decide (k.val ≤ 8))
      ∧ Raised s t 0x0841 ([BitVec.ofNat 8 k.val, if k.val ≤ 8 then 1 else 0, BitVec.ofNat 8 s.pair.state] ++ leBytes 8 s.ft.toNat))
    ∧ (∀ a v, Reaches s a Reg.EDG_PAIR_CTRL → privileged s a = true → (v : U32).getLsbD 0 = false → v.getLsbD 1 = true →
      ∃ t, exec (.pairRelease a v) s = .next t ∧ t.pair.state = 1 ∧ t.pair.ownO = false
        ∧ t.pair.selO = false ∧ t.pair.barred = s.pair.barred ∧ bit t.pair.trig 9 = true)
    ∧ (s.pdOn 9 = true → s.time.st = .unlocked → s.pair.unlockMs ≠ 0 → s.clk > s.time.since + s.pair.unlockMs * 1000000 →
      ∃ t, exec .timeUnlockLimitExpiry s = .next t ∧ t.pair.state = 1
      ∧ bit t.pair.trig 8 = true ∧ t.pair.barred = true)
    ∧ (s.isReady 1 = true → s.sys.mode ≠ .dormant → ∃ t, exec .nm0Watchdog s = .next t ∧ t.sys.mode = .frozen ∧ bit t.pair.trig 4 = true ∧ t.pair.barred = true
      ∧ t.pair.ownO = false ∧ t.pair.selO = false)

/-- R361: MIRROR_CFG pairs or unpairs the device and takes its settings. R357: a packet of a RECORD that is not its LAST is staged at STAGE_BASE under MID 0x3A: its
data stand in memory at its OFFSET and no other byte changes. The OWNER answers a RESYNC_REQ with every record of a full image in its classes and RESYNC_END:
their packets join those that wait, and while PL is sending, those that fit stand in its queue with the next SEQs; any other device answers nothing. R359: the peer's
ACK of status 0 is noted and accepts the waiting commit; its absence within the limit fails the commit with MIRROR_TIMEOUT. The content of each record, the staging of
records and the way the rows act are the model's reading (log entries 84 to 87). -/
def Obligations.TheMirrorIsRun : Prop :=
  ∀ (s : State) (c : Cmd) (p : Packet),
    (Starts s (.mirrorCfg c) c → Admits s c mirrorCfgSpec → c.job.n 16 1 = 1 → s.pair.state = 0 → s.sys.mode = .active → bit (c.job.n 17 1) 2 = false →
      ∃ t, exec (.mirrorCfg c) s = .next t ∧ t.pair.enable = true ∧ t.pair.state = 1 ∧ t.sys.mode = .standby
        ∧ t.pair.addrAlias = c.job.n 20 2 ∧ t.pair.classes = c.job.n 29 1 ∧ t.pair.stage = c.job.n 32 8 ∧ Ends s t c .done 0 0)
    ∧ (Starts s (.mirrorCfg c) c → Admits s c mirrorCfgSpec → c.job.n 16 1 = 0 → bit (c.job.n 17 1) 2 = false → PinsOk s →
      ∃ t, exec (.mirrorCfg c) s = .next t ∧ t.pair.enable = false ∧ t.pair.state = 0 ∧ t.pair.ownO = false ∧ t.pair.selO = false)
    ∧ (∀ k total, s.pdOn 9 = true → s.pair.enable = true → s.pair.state ≠ 3 → p.seq = s.mir.rxSeq → fieldAt p.data 0 1 = 0 →
      bit (fieldAt p.data 2 1) 1 = false → total ≤ 0x400000 →
      let rid := fieldAt p.data 4 4
      let off := fieldAt p.data 8 4
      let d := (p.data.drop 16).take (min 496 (total - off))
      (if bit (fieldAt p.data 2 1) 0 then some (fieldAt p.data 1 1, rid, fieldAt p.data 12 4, 0) else s.mir.partRec) = some (k, rid, total, off) →
      ∃ t, exec (.mirrorPacket p) s = .next t ∧ t.mir.rxSeq = (s.mir.rxSeq + 1) % 65536 ∧ t.mir.lastRec = rid
        ∧ t.mir.partRec = some (k, rid, total, off + d.length)
        ∧ (MemOk s → s.dram.frozen = none → s.dram.selfRefresh = false → s.pair.stage + off + d.length ≤ s.usable →
            firstDenied s 0x3A (s.pair.stage + off) d.length = none → ∀ x, memGet t.mem x =
              if s.pair.stage + off ≤ x ∧ x < s.pair.stage + off + d.length then d.getD (x - (s.pair.stage + off)) 0 else memGet s.mem x))
    ∧ (s.pdOn 9 = true → s.pair.enable = true → s.peerUp = true → s.pair.state = 3 →
      s.fab.localQ.find? (fun q => q.cls == clsMIRROR && fieldAt q.data 0 1 == 2) = none → ∃ t, exec .resyncReq s = .next t
        ∧ t.cnt Reg.FAB_MIR_RESYNC_CNT = min (s.cnt Reg.FAB_MIR_RESYNC_CNT + 1) 0xFFFFFFFF
        ∧ t.mir.recId % 2 ^ 32 = (s.mir.recId + (imageSent s).length) % 2 ^ 32 ∧ t.mir.ended = true
        ∧ ∃ n, MirrorSent s t n (imagePays s)
          ∧ ((s.link 10).cur.isSome = true → (t.link 10).queue = (s.link 10).queue
              ++ (((s.mir.waiting ++ mirrorPkts s (imagePays s)).take n).zip (List.range n)).map (fun e => e.1.withSeq (s.mir.txSeq + e.2))))
    ∧ (s.pdOn 9 = true → s.pair.enable = false ∨ s.peerUp = false ∨ s.pair.state ≠ 3 →
      s.fab.localQ.find? (fun q => q.cls == clsMIRROR && fieldAt q.data 0 1 == 2) = none → exec .resyncReq s = .next s)
    ∧ (s.fab.localQ.find? (fun q => q.cls == clsMIRROR && fieldAt q.data 0 1 == 2) = some p → exec .resyncReq s = exec (.mirrorPacket p) s)
    ∧ (s.pdOn 9 = true → s.pair.enable = true → p.seq = s.mir.rxSeq → fieldAt p.data 0 1 = 1 → fieldAt p.data 3 1 = 0 →
      s.commits.find? (fun c => c.stage == 1 && c.recId == fieldAt p.data 4 4) = none → ∃ t, exec (.mirrorAck p) s = .next t
        ∧ t.reg Reg.FAB_MIR_ACK = 2 ^ 31)
    ∧ (∀ k, s.pdOn 9 = true → s.pair.enable = true → p.seq = s.mir.rxSeq → fieldAt p.data 0 1 = 1 → fieldAt p.data 3 1 = 0 →
      s.commits = [k] → k.stage = 1 → k.recId = fieldAt p.data 4 4 → k.job = c.job → (∀ n, n < 8 → (s.tg n).running = true) →
      ∃ t, exec (.mirrorAck p) s = .next t ∧ t.reg Reg.FAB_MIR_ACK = 2 ^ 31
        ∧ ∃ k', k' ∈ t.commits ∧ k'.job = c.job ∧ k'.stage = 2 ∧ k'.left = k.outs)
    ∧ (∀ k, s.pdOn 9 = true → s.commits = [k] → k.stage = 1 → k.job = c.job → k.sentAt + s.pair.ackUs * 1000 ≤ s.clk → ∃ t, exec .ackTimeout s = .next t
        ∧ t.commits = [] ∧ ∃ d, d ∈ t.host.done ∧ d.status = .mirrorTimeout ∧ d.tag = c.job.n 2 2)

/-- R288, R397: a full reset by a cause that is present leaves BRINGUP with no function ready, every ring disabled, the interlock's pins low and no command
in flight; OTP (its lifecycle advanced where that was armed) and the always-on records stay. R396: the release of the pins samples the straps and powers
PD2; R46: fabric time starts at 0 there. R451: a reset of the always-on island clears its records as well. That straps are sampled only after a reset of the pins, and what an AON_RESET is, is the model's reading (log entry 101).
R264: the bootstrap window stores aligned 32-bit and 64-bit writes of PF0 and of privileged MGMT requests until VERIFIED, then refuses them. An admitted
SYS_BOOT_CHUNK makes the sequencer busy with its chunk, whose copy ends it. R265, R266: a verification that finds no fault sets VERIFIED with the image's
SVN and makes MGMT ready; any other reports a code of a fault it found and counts it. R263, R394: the start of the units makes FUMAROLE ready and leaves
BRINGUP. R413, R414: a device held off by a thermal event powers no domain until it has cooled (the model's reading,
log entry 102). -/
def Obligations.ResetsLeaveAndBringUpRuns : Prop :=
  (∀ (s : State) (cause : ResetCause) (straps : Straps) (calf : BitVec 11),
      let fresh := fun (t : State) => t.sys.mode = .bringup ∧ t.sys.ready = 0 ∧ t.regs = [] ∧ t.host.inFlight = [] ∧ t.host.done = []
        ∧ t.pair.ownO = false ∧ t.pair.selO = false ∧ t.pair.barred = false ∧ t.fab.claimed = false ∧ t.sys.dorm = none ∧ t.held = []
        ∧ (t.otp.lifecycle = if s.otp.advance = true ∧ s.otp.lifecycle = 0 then 1 else s.otp.lifecycle) ∧ t.otp.uid = s.otp.uid
        ∧ t.pending = s.pending
      (resetCauseOk s cause = true → ∃ t, exec (.fullReset cause) s = .next t ∧ fresh t ∧ t.aon = s.aon
        ∧ (s.aon.hot = 0 → t.sys.power.on = 5) ∧ (s.aon.hot ≠ 0 → t.sys.power.on = 1))
      ∧ (resetCauseOk s cause = false → exec (.fullReset cause) s = .next s)
      ∧ (∃ t, exec .aonReset s = .next t ∧ fresh t ∧ t.aon = AonRec.reset ∧ t.sys.power.on = 5)
      ∧ (s.sys.power.released = false → ∃ t, exec (.resetRelease straps calf) s = .next t ∧ t.straps = straps ∧ t.pair.roleB = straps.roleB
        ∧ t.otp.calf = calf.toNat ∧ t.sys.power.released = true ∧ t.ft = 0 ∧ (s.aon.hot = 0 → t.pdOn 2 = true) ∧ (s.aon.hot ≠ 0 → t.sys.power.on = 1))
      ∧ (s.sys.power.released = true → exec (.resetRelease straps calf) s = .next s))
  ∧ (∀ (s : State) (a : Acc) (off : BitVec 20) (size : Nat) (x : U64) (v : U32), s.pdOn 2 = true →
      let b := s.sys.boot
      let win := size = 4 ∨ size = 8
      let allowed := mpuOk s (Acc.mid a) (regSpace + (0x100000 + off.toNat)) size = true
      (win → off.toNat % size = 0 → allowed → (a = .pf0 ∨ a = .mgmtPriv) → b.verified = false → b.busy = false →
        ∃ t, exec (.bootstrapWindowWrite a off size x) s = .next t ∧ t.sys.boot = { b with window := memWrite b.window off.toNat (leBytes size x.toNat) })
      ∧ (win → off.toNat % size = 0 → allowed → (a = .pf0 ∨ a = .mgmtPriv) → b.verified = true →
        ∃ t, exec (.bootstrapWindowWrite a off size x) s = .next t ∧ t.sys.boot = b
          ∧ t.cnt Reg.SYS_RAF_CNT = min (s.cnt Reg.SYS_RAF_CNT + 1) 0xFFFFFFFF)
      ∧ (win → off.toNat % size = 0 → allowed → a ≠ .pf0 → a ≠ .mgmtPriv → exec (.bootstrapWindowWrite a off size x) s = .next s)
      ∧ (Reaches s a Reg.SYS_BOOT_CHUNK → privileged s a = true → b.verified = false → b.busy = false → 1 ≤ bits v.toNat 24 16 →
        bits v.toNat 24 16 ≤ 256 → bits v.toNat 10 0 + bits v.toNat 24 16 ≤ 2048 → ∃ t, exec (.sysBootChunk a v) s = .next t
          ∧ t.sys.boot = { b with busy := true, copying := some (bits v.toNat 10 0, bits v.toNat 24 16), verifying := v.getLsbD 31 })
      ∧ (Reaches s a Reg.SYS_BOOT_CHUNK → (b.verified = true ∨ b.busy = true) → ∃ t, exec (.sysBootChunk a v) s = .next t ∧ t.sys.boot = b)
      ∧ (∀ p n, b.busy = true → b.verifying = false → b.copying = some (p, n) → ∃ t, exec .bootChunkCopyEnd s = .next t
        ∧ t.sys.boot.busy = false ∧ t.sys.boot.copying = none ∧ t.sys.boot.pages = (p, n) :: b.pages ∧ t.sys.boot.window = b.window)
      ∧ (b.busy = true → b.verifying = true → imageFaults (copyChunk b) s.otp = [] →
        ∃ t, exec (.imageVerificationEnd () ()) s = .next t ∧ t.sys.boot.verified = true ∧ t.sys.boot.busy = false
          ∧ t.sys.boot.svn = (copyChunk b).word 12 ∧ t.isReady 1 = true ∧ Raised s t 0x0101 (leBytes 1 0 ++ leBytes 4 ((copyChunk b).word 12)))
      ∧ (b.busy = true → b.verifying = true → imageFaults (copyChunk b) s.otp ≠ [] →
        ∃ t, exec (.imageVerificationEnd () ()) s = .next t ∧ t.sys.boot.verified = b.verified ∧ t.sys.boot.busy = false
          ∧ t.sys.boot.fail ∈ imageFaults (copyChunk b) s.otp ∧ t.sys.boot.fails = min (b.fails + 1) 0xFFFF
          ∧ t.sys.boot.staging = [] ∧ t.sys.ready = s.sys.ready)
      ∧ (s.isReady 1 = true → s.isReady 27 = false → s.sys.mode = .bringup → s.sys.power.cut = false → ∃ t, exec .firmwareUnitStart s = .next t
        ∧ t.sys.mode = (if s.pair.enable then .standby else .active) ∧ t.sys.cause = 1 ∧ t.pdOn 7 = true ∧ t.isReady 27 = true
        ∧ ∀ i, 4 ≤ i → i ≤ 25 → t.isReady i = true))

/-- R399, R400: once every generator has stopped, the power-down writes the resume area alone, posts the completion, takes the mode to DORMANT and leaves PD0
on, with PD3 on a gateway. R401: a wake source that DORMANT_ENTER allowed powers PD2, PD4 and PD9 and takes the mode to BRINGUP with cause 6; any other
does nothing. R400, R403: the resume restores the MPU regions, the pipes' records and the policies of the image and makes MGMT ready; where the firmware copy fails, none of them is restored. R404, R265, R266: the
code that a failed firmware copy reports is free, and what it leaves undone is the model's reading (log entry 99).
R388: a unit that is idle for IDLE_MS is gated, and a domain whose units are all gated goes off; IDLE_MS 0, a busy unit, or DORMANT gates nothing.
R389: a gated unit that is needed is usable again, with its domains on. R326: a register found with bad parity is counted and asserts trigger 2, once. -/
def Obligations.DormantSleepsAndWakes : Prop :=
  (∀ (s : State) (d : DormRec) (src : WakeSrc), s.sys.dorm = some d →
      (d.posted = false → s.scan.tgs.any (fun e => e.2.running) = false → MemOk s → ∃ t, exec .dormantPowerDown s = .next t
        ∧ t.sys.mode = .dormant ∧ t.sys.power.on = 1 + 8 * b2n s.isGateway ∧ t.pair.ownO = false ∧ t.pair.selO = false
        ∧ t.dram.selfRefresh = true ∧ (∃ d', t.sys.dorm = some d' ∧ d'.posted = true ∧ d'.wake = d.wake ∧ d'.image.isSome = true)
        ∧ ∀ x, (x < d.job.n 24 8 ∨ d.job.n 24 8 + 2 ^ 24 ≤ x) → memGet t.mem x = memGet s.mem x)
      ∧ (s.scan.tgs.any (fun e => e.2.running) = true → exec .dormantPowerDown s = .next s)
      ∧ (s.sys.mode = .dormant → wakeOk s d src = true → ∃ t, exec (.wake src) s = .next t ∧ t.sys.mode = .bringup ∧ t.sys.cause = 6
        ∧ bit t.sys.wakeSrc (wakeBit src) = true ∧ t.pdOn 2 = true ∧ t.pdOn 4 = true ∧ t.pdOn 9 = true ∧ t.mem = s.mem)
      ∧ (wakeOk s d src = false → exec (.wake src) s = .next s)
      ∧ (∀ im, d.image = some im → s.sys.mode = .bringup → s.isReady 2 = true → ∃ t, exec (.resume true) s = .next t
        ∧ t.sys.dorm = none ∧ t.isReady 1 = true ∧ t.sys.mpu = im.mpu ∧ t.cmp.act = im.act ∧ t.cmp.shd = im.shd ∧ t.fum.policies = im.policies
        ∧ t.sys.boot.verified = true)
      ∧ (∀ im, d.image = some im → s.sys.mode = .bringup → s.isReady 2 = true → ∃ t, exec (.resume false) s = .next t
        ∧ t.sys.dorm = none ∧ t.sys.mpu = s.sys.mpu ∧ t.cmp = s.cmp ∧ t.sys.boot.verified = s.sys.boot.verified ∧ 1 ≤ t.sys.boot.fail
        ∧ t.sys.boot.fail ≤ 5 ∧ t.pair.enable = false ∧ t.pair.ownO = false))
  ∧ (∀ (s : State) (u : PowerUnit) (o : BitVec 24),
      (s.reg Reg.SYS_PWR_IDLE ≠ 0 → u ∉ s.sys.power.gated → unitIdle s u = true → s.sys.mode ≠ .dormant → ∃ t, exec (.idleGating u) s = .next t
        ∧ t.sys.power.gated = u :: s.sys.power.gated
        ∧ (∀ d ∈ domainsOf u, (∀ u' ∈ unitsOf d, u' = u ∨ u' ∈ s.sys.power.gated) → t.pdOn d = false)
        ∧ (∀ d, d ∉ domainsOf u → t.pdOn d = s.pdOn d))
      ∧ ((s.reg Reg.SYS_PWR_IDLE = 0 ∨ u ∈ s.sys.power.gated ∨ unitIdle s u = false ∨ s.sys.mode = .dormant) →
        exec (.idleGating u) s = .next s)
      ∧ (u ∈ s.sys.power.gated → s.sys.mode ≠ .frozen → s.sys.mode ≠ .dormant → s.sys.power.cut = false → ∃ t, exec (.unitWake u) s = .next t
        ∧ t.sys.power.gated = s.sys.power.gated.erase u ∧ ∀ d ∈ domainsOf u, t.pdOn d = true)
      ∧ (s.pdOn 2 = true → o.toNat ∉ s.sys.parity → configMask o.toNat ≠ 0 → (findReg o.toNat).isSome = true →
        ∃ t, exec (.parityScrub [o]) s = .next t ∧ o.toNat ∈ t.sys.parity ∧ bit t.pair.trig 2 = true
          ∧ t.cnt Reg.SYS_PARITY_CNT = min (s.cnt Reg.SYS_PARITY_CNT + 1) 0xFFFFFFFF)
      ∧ ((o.toNat ∈ s.sys.parity ∨ configMask o.toNat = 0) → exec (.parityScrub [o]) s = .next s))

/-- R411: the governor lowers STEP by one while Tmax is above TARGET and STEP above FLOOR, with AT_BOUND where STEP can fall no more, and raises it while
Tmax is more than 3 °C below. R412 to R414:
the trip drives THERMTRIP_N low, asserts trigger 6 and freezes the device; in DORMANT it bars the wake; the cut takes every domain but PD0. R406: PLL loss
asserts trigger 7 and after 100 µs freezes; R392: the last PLL to lock again lifts it. R452: a dropout asserts trigger 7. The comparisons in sixteenths of a degree,
the sensors that bar the wake and what the cut does are the model's reading (log entry 102). -/
def Obligations.HeatAndPowerAct : Prop :=
  ∀ (s : State) (temps : List Int) (temp : Int) (p : Pll) (us100 : Bool), PinsOk s →
    let low := fun (t : State) => t.pair.ownO = false ∧ t.pair.selO = false
    (s.sys.mode ≠ .dormant → ∃ t, exec (.thermalGovernor temps) s = .next t
      ∧ t.sys.therm.temps = (List.range 9).map (fun i => temps.getD i 0)
      ∧ t.sys.therm.step =
          (let cfg := s.reg Reg.EDG_THERM_CFG
           let tmax := (hottest ((List.range 9).map (fun i => temps.getD i 0))).2
           let step := s.sys.therm.step
           if tmax > 16 * (bits cfg 23 16 : Int) then (if step > bits cfg 4 0 then step - 1 else step)
           else if tmax < 16 * ((bits cfg 23 16 : Int) - 3) ∧ step < 16 then step + 1 else step)
      ∧ (let cfg := s.reg Reg.EDG_THERM_CFG
         let tmax := (hottest ((List.range 9).map (fun i => temps.getD i 0))).2
         (tmax > 16 * (bits cfg 23 16 : Int) → s.sys.therm.step ≤ bits cfg 4 0 → t.sys.therm.atBound = true)
           ∧ (tmax ≤ 16 * (bits cfg 23 16 : Int) → t.sys.therm.atBound = false)))
    ∧ (s.sys.mode ≠ .dormant → s.sys.therm.tripped = false → ∃ t, exec .thermalTrip s = .next t ∧ t.sys.mode = .frozen
      ∧ t.sys.therm.tripped = true ∧ bit t.pair.trig 6 = true ∧ low t ∧ Out.pin "THERMTRIP_N" false ∈ news s t)
    ∧ (∀ d, s.sys.dorm = some d → s.sys.mode = .dormant → d.dead = false → ∃ t, exec (.dormantThermalTrip temp) s = .next t
      ∧ t.sys.therm.tripped = true ∧ t.aon.hot = 1 ∧ t.sys.mode = .dormant ∧ Out.pin "THERMTRIP_N" false ∈ news s t
      ∧ ∃ d', t.sys.dorm = some d' ∧ d'.dead = true)
    ∧ (s.sys.power.cut = false → ∃ t, exec .thermalCut s = .next t ∧ t.sys.power.on = 1 ∧ t.sys.power.cut = true ∧ t.aon.hot = 2 ∧ low t
      ∧ t.otp = s.otp ∧ Out.pin "THERMTRIP_N" false ∈ news s t)
    ∧ (s.sys.mode ≠ .dormant → pllLocked s p = true → ∃ t, exec (.pllLockLoss p us100) s = .next t ∧ pllLocked t p = false
      ∧ bit t.pair.trig 7 = true ∧ low t ∧ (us100 = true → t.sys.mode = .frozen))
    ∧ (pllStarted s p = true → (∀ q, q ≠ p → pllStarted s q = true → pllLocked s q = true) → ∃ t, exec (.pllRelock p) s = .next t
      ∧ pllLocked t p = true ∧ bit t.pair.trig 7 = false)
    ∧ (s.sys.mode ≠ .dormant → s.sys.power.released = true → ∃ t, exec .supplyDropout s = .next t ∧ pllLocked t .sys = false ∧ bit t.pair.trig 7 = true ∧ low t)

/-- R295, R297, R334, R336: a request within one 64-byte block that need not wait enters its channel's queue, a write visible at once and to no other byte, a
read with what memory holds; one that must wait stays at the ingress; one that the MPU denies is counted and changes no memory. R409: a request of a
running DRAM test is its next access. -/
def Obligations.MemoryRequestsEnter : Prop :=
  ∀ (s : State) (mid : BitVec 6) (addr : BitVec 40) (len : Nat) (write : Bool) (data : List Byte), s.pdOn 2 = true → MemOk s →
    0 < len → addr.toNat % 64 + len ≤ 64 →
    let a := addr.toNat
    let q : DramReq := { kind := if write then (if len = 64 then 1 else 2) else 0, mid := mid.toNat, addr := a, data := slice data 0 len }
    let ch := (s.loc a).ch
    let plain := ¬ (mid.toNat = 0x3E ∧ s.dram.test.on = true)
    (plain → mpuOk s mid.toNat a len = true → a < s.usable → s.dram.ingress = [] → s.dram.frozen = none → mustWait s q = false →
      ∃ t, exec (.memoryRequest mid addr len write data) s = .next t ∧ t.dram.ingress = []
        ∧ (write = true → (t.chan ch).queue = (s.chan ch).queue ++ [{ q with old := memRead s.mem a len }]
            ∧ ∀ x, memGet t.mem x = if a ≤ x ∧ x < a + len then data.getD (x - a) 0 else memGet s.mem x)
        ∧ (write = false → (t.chan ch).queue = (s.chan ch).queue ++ [{ q with data := memRead s.mem a len }] ∧ t.mem = s.mem))
    ∧ (plain → mpuOk s mid.toNat a len = true → a < s.usable → s.dram.ingress = [] → (s.dram.frozen.isSome = true ∨ mustWait s q = true) →
      ∃ t, exec (.memoryRequest mid addr len write data) s = .next t ∧ t.dram.ingress = [q] ∧ t.mem = s.mem ∧ t.chans = s.chans)
    ∧ (plain → mpuOk s mid.toNat a len = false → ∃ t, exec (.memoryRequest mid addr len write data) s = .next t ∧ t.mem = s.mem
      ∧ t.dram.ingress = s.dram.ingress ∧ t.cnt Reg.SYS_MPU_DENY_CNT = min (s.cnt Reg.SYS_MPU_DENY_CNT + 1) 0xFFFFFFFF)
    ∧ (mid.toNat = 0x3E → s.dram.test.on = true → (s.dram.frozen.isSome = true ∨ ∃ x, x ∈ s.dram.ingress ∧ x.mid = 0x3E) →
      ∃ t, exec (.memoryRequest mid addr len write data) s = .next t ∧ t.dram.test = s.dram.test)
    ∧ (mid.toNat = 0x3E → s.dram.test.on = true → s.dram.frozen = none → (∀ x, x ∈ s.dram.ingress → x.mid ≠ 0x3E) →
      ∃ t, exec (.memoryRequest mid addr len write data) s = .next t
      ∧ t.dram.test.pos = (if s.dram.test.pos + 64 ≥ s.dram.test.size then 0 else s.dram.test.pos + 64)
      ∧ (s.dram.test.reading = false → t.dram.test.bad = s.dram.test.bad)
      ∧ (s.dram.test.reading = true → s.dram.ingress = [] → t.mem = s.mem))

/-- R299, R301, R306: a channel issues the request it picks, and a read's data returns; a bad word freezes the controller with trigger 1; a frozen controller,
or a channel that retrains, issues nothing. R304: a throttle ends once its time is over. R300, R302, R310: a scrub read that may be made takes the next
block. R306: a command error freezes. -/
def Obligations.ChannelsIssueAndFreeze : Prop :=
  ∀ (s : State) (ch : Fin 24) (q : DramReq) (w : Fin 8) (syn : Byte) (what : MemStruct) (mid : BitVec 6) (where_ : Option (Fin 24)), s.pdOn 4 = true →
    let c := s.chan ch.val
    let pick := pickReq { c with batch := batchNext s c }
    let froze := fun (t : State) => t.dram.frozen.isSome = true ∧ bit t.pair.trig 1 = true ∧ t.isReady 2 = false
      ∧ (s.sys.mode ≠ .dormant → t.sys.mode = .frozen) ∧ (PinsOk s → t.pair.ownO = false)
    (s.dram.frozen.isSome = true ∨ s.dram.retrain = some ch.val → ∀ ecc, exec (.channelIssue ch ecc) s = .next s)
    ∧ (s.dram.frozen = none → s.dram.retrain ≠ some ch.val → pick = none → ∀ ecc, ∃ t, exec (.channelIssue ch ecc) s = .next t
      ∧ (t.chan ch.val).queue = c.queue ∧ t.mem = s.mem)
    ∧ (s.dram.frozen = none → s.dram.retrain ≠ some ch.val → pick = some q → s.dram.ingress = [] →
      ∃ t, exec (.channelIssue ch .clean) s = .next t ∧ (t.chan ch.val).queue.Perm (c.queue.erase q) ∧ t.mem = s.mem
        ∧ (q.kind = 0 → Out.readData q.mid q.data ∈ news s t))
    ∧ (s.dram.frozen = none → s.dram.retrain ≠ some ch.val → pick = some q → (q.kind = 0 ∨ q.kind = 2) →
      ∃ t, exec (.channelIssue ch (.bad w syn)) s = .next t ∧ froze t)
    ∧ (s.dram.frozen = none → ∃ t, exec (.commandError where_ what) s = .next t ∧ froze t)
    ∧ (s.dram.frozen.isSome = true → exec (.commandError where_ what) s = .next s)
    ∧ (s.clk < s.dram.throttleEnd.getD mid.toNat 0 → exec (.throttleExpiry mid) s = .next s)
    ∧ (s.dram.throttleEnd.getD mid.toNat 0 ≤ s.clk → ∃ t, exec (.throttleExpiry mid) s = .next t ∧ mid.toNat ∉ t.dram.throttle
      ∧ ∀ m, m ≠ mid.toNat → (m ∈ t.dram.throttle ↔ m ∈ s.dram.throttle))
    ∧ (scrubMay s ch.val = false → ∀ ecc, exec (.scrubRead ch ecc) s = .next s)
    ∧ (scrubMay s ch.val = true →
      (∃ k : Fin 24, k ≠ ch ∧ (s.chan k.val).scrub < chanBlocks s k.val) →
      (∃ t, exec (.scrubRead ch .clean) s = .next t ∧ (t.chan ch.val).scrub = c.scrub + 1 ∧ t.mem = s.mem)
      ∧ (segUsable s (blockAddr ch.val c.scrub) = true → ∃ t, exec (.scrubRead ch (.bad w syn)) s = .next t ∧ froze t))

/-- R309 to R315: training that succeeds gives the configuration of the smallest density, TRAINED, MEM_RETAINED and PD4, and a segment that is not retained
reads zero; training that fails in some channels, or finds one below 3 Gb, raises MEM_TRAIN_FAIL for each of them. A segment initialized is usable, and the last one makes MEM_FULL ready. One channel at a time
retrains, for its drift or a change of 10 °C; its end is counted. A refresh is counted. R292: a channel below
3 Gb fails, with a free step; the training row's densities, temperatures and failures are the model's reading (log entry 73). -/
def Obligations.MemoryComesUp : Prop :=
  ∀ (s : State) (density : List Nat) (temps : List Int) (failed : List (Fin 24 × Byte)) (ch : Fin 24) (bank : Fin 16) (temp : Int) (ns : U16),
    let cfg := configOf density
    let keep := 0xFF - s.dram.lost % 256
    (s.pdOn 2 = true → s.dram.frozen = none → cfg ≠ 0 → MemOk s → ∃ t, exec (.memoryTrainingEnd density ⟨temps, []⟩) s = .next t ∧ t.dram.trained = true ∧ t.dram.config = cfg
      ∧ t.isReady 2 = true ∧ t.pdOn 4 = true ∧ t.dram.segReady = keep
      ∧ (∀ k x, k < 8 → segStart cfg k ≤ x → x < segStart cfg (k + 1) → memGet t.mem x = if bit keep k then memGet s.mem x else 0))
    ∧ (s.pdOn 2 = true → s.dram.frozen = none → (failed ≠ [] ∨ cfg = 0) → ∃ t, exec (.memoryTrainingEnd density ⟨temps, failed⟩) s = .next t
      ∧ t.dram.trained = false ∧ t.mem = s.mem ∧ (∀ e ∈ failed, Raised s t 0x0305 (leBytes 1 e.1.val ++ leBytes 1 e.2.toNat))
      ∧ ∀ k : Fin 24, density.getD k.val 0 < 3 → k ∉ failed.map (·.1) → ∃ x : Byte, Raised s t 0x0305 (leBytes 1 k.val ++ leBytes 1 x.toNat))
    ∧ (s.dram.frozen.isSome = true → exec (.memoryTrainingEnd density ⟨temps, failed⟩) s = .next s)
    ∧ (∀ k, s.pdOn 4 = true → s.dram.initSeg = some k → s.dram.frozen = none → ∃ t, exec .segmentInitialized s = .next t
      ∧ bit t.dram.segReady k = true ∧ Raised s t 0x0303 (leBytes 1 k ++ leBytes 1 1 ++ leBytes 1 (setBit s.dram.segReady k true))
      ∧ ((∀ i, i < 8 → i ≠ k → bit s.dram.segReady i = true) → t.isReady 3 = s.isReady 2 ∧ t.dram.initSeg = none))
    ∧ (∀ drift, s.pdOn 4 = true → s.dram.retrain = none → s.dram.trained = true → (drift = true ∨ tempMoved s ch.val temp = true) →
      ∃ t, exec (.channelRetrain ch ⟨temp, drift⟩) s = .next t
      ∧ t.dram.retrain = some ch.val ∧ (t.chan ch.val).trainTemp = temp)
    ∧ (∀ drift, s.dram.retrain.isSome = true → exec (.channelRetrain ch ⟨temp, drift⟩) s = .next s)
    ∧ (tempMoved s ch.val temp = false → exec (.channelRetrain ch ⟨temp, false⟩) s = .next s)
    ∧ (s.pdOn 4 = true → s.dram.retrain = some ch.val → ∃ t, exec (.channelRetrainEnd ch ns) s = .next t ∧ t.dram.retrain = none
      ∧ t.cnt (Reg.MEM_RETRAIN_CNT + 4 * ch.val) = min (s.cnt (Reg.MEM_RETRAIN_CNT + 4 * ch.val) + 1) 0xFFFFFFFF
      ∧ Raised s t 0x0304 (leBytes 1 ch.val ++ leBytes 1 (ofInt 8 (s.chan ch.val).trainTemp) ++ leBytes 2 ns.toNat))
    ∧ (s.pdOn 4 = true → ∃ t, exec (.refresh ch bank) s = .next t ∧ (t.chan ch.val).refreshes = (s.chan ch.val).refreshes + 1
      ∧ (t.chan ch.val).queue = (s.chan ch.val).queue)
end

