-- ==== Sys2Proof/Laws/Tables.lean ====
section
/-! SUPPORT. Laws of tables: a read after a write of an entry, and the register file's reads after its writes. -/

set_option Elab.async false

namespace Sys2Proof

/-- An entry read after a set. -/
@[simp] theorem Tab.get?_set {α : Type} (t : Tab α) (k r : Nat) (v : α) :
    (t.set k v).get? r = if r = k then some v else t.get? r := by
  induction t with
  | nil => simp [Tab.set, Tab.get?]
  | cons e t ih =>
    obtain ⟨j, w⟩ := e
    rw [Tab.set]
    by_cases h1 : k < j
    · simp [h1, Tab.get?]
    · by_cases h2 : k = j
      · subst h2
        by_cases hr : r = k <;> simp [Tab.get?, hr]
      · by_cases hr : r = j
        · have : r ≠ k := by omega
          subst hr
          simp [h1, h2, Tab.get?, this]
        · simp [h1, h2, Tab.get?, hr, ih]

/-- An entry read with its default after a set. -/
@[simp] theorem Tab.getD_set {α : Type} (t : Tab α) (k r : Nat) (v d : α) :
    (t.set k v).getD r d = if r = k then v else t.getD r d := by
  unfold Tab.getD
  rw [Tab.get?_set]
  split <;> rfl

/-- Nothing is listed in an empty table. -/
@[simp] theorem Tab.get?_nil {α : Type} (k : Nat) : Tab.get? ([] : Tab α) k = none := rfl

/-- Every entry of an empty table is the default. -/
@[simp] theorem Tab.getD_nil {α : Type} (k : Nat) (d : α) : Tab.getD ([] : Tab α) k d = d := rfl

namespace Machine

/-- A stored register read after a write of one. -/
theorem State.reg_setReg (s : State) (off v r : Nat) (h : r = off) : (s.setReg off v).reg r = v % 2 ^ 32 := by
  subst h
  simp [State.reg, State.setReg, BitVec.toNat_ofNat]

/-- Another register after a write of one. -/
theorem State.reg_setReg_ne (s : State) (off v r : Nat) (h : r ≠ off) : (s.setReg off v).reg r = s.reg r := by
  simp only [State.reg, State.setReg, Tab.get?_set, if_neg h]
  rfl

/-- A counter after it has counted n, saturating (R325). -/
theorem State.cnt_bumpBy (s : State) (off n : Nat) : (s.bumpBy off n).cnt off = min (s.cnt off + n) 0xFFFFFFFF := by
  simp only [State.cnt, State.bumpBy, Tab.getD_set, if_pos, satInc, BitVec.toNat_ofNat]
  omega

/-- Another counter after one has counted. -/
theorem State.cnt_bumpBy_ne (s : State) (off n r : Nat) (h : r ≠ off) : (s.bumpBy off n).cnt r = s.cnt r := by
  simp only [State.cnt, State.bumpBy, Tab.getD_set, if_neg h]

end Machine
end Sys2Proof
end

