-- ==== Sys2Proof/Laws/Calm.lean ====
section
/-! SUPPORT. What an event, a packet, a completion or a release of ownership leaves alone, said once for each operation: no link
changes its state, and no register changes but the counters and captures that these operations keep. -/

set_option Elab.async false

namespace Sys2Proof
namespace Machine

/-- The counters and captures that events, packets, rings and denials keep. -/
def Counted (o : Nat) : Prop :=
  o ∈ [Reg.FAB_NOROUTE_DROP, Reg.FAB_HOP_DROP, Reg.EDG_PAIR_GATED_CNT, Reg.EDG_PAIR_RELQ_CNT, Reg.SYS_RAF_CNT, Reg.SYS_RAF_CAP0,
       Reg.SYS_RAF_CAP1, Reg.SYS_MPU_DENY_CNT, Reg.SYS_MPU_CAP0, Reg.SYS_MPU_CAP1, Reg.MEM_ADDR_ERR_CNT, Reg.FAB_MIR_TX_CNT,
       Reg.FAB_MIR_REJECT_CNT, Reg.FAB_MIR_RX_CNT]
    ∨ (∃ n, n < 11 ∧ (o = Reg.FAB_TEPHRA_COUNT + 4 * n ∨ o = Reg.FAB_LANE_RUNS + 4 * n))
    ∨ ∃ n, o = Reg.FAB_LINK_TX_DROP + 0x100 * n ∨ o = Reg.FAB_LINK_FORMAT_ERR + 0x100 * n
      ∨ o = Reg.HST_DB_FAULT_CNT + 0x10000 * n ∨ o = Reg.HST_RING_FAULT_CNT + 0x10000 * n
      ∨ ∃ w f, o = evqOff w f Reg.HST_EVQ_LOST

theorem counted (o : Nat) (h : EventReg o) : Counted o := by
  rcases h with h | ⟨n, hn, h⟩ | ⟨n, h⟩ | ⟨w, f, h⟩
  · have e : ([Reg.SYS_MPU_DENY_CNT, Reg.SYS_MPU_CAP0, Reg.SYS_MPU_CAP1, Reg.FAB_NOROUTE_DROP, Reg.FAB_HOP_DROP,
      Reg.EDG_PAIR_GATED_CNT] : List Nat) ⊆ [Reg.FAB_NOROUTE_DROP, Reg.FAB_HOP_DROP, Reg.EDG_PAIR_GATED_CNT, Reg.EDG_PAIR_RELQ_CNT, Reg.SYS_RAF_CNT, Reg.SYS_RAF_CAP0,
       Reg.SYS_RAF_CAP1, Reg.SYS_MPU_DENY_CNT, Reg.SYS_MPU_CAP0, Reg.SYS_MPU_CAP1, Reg.MEM_ADDR_ERR_CNT, Reg.FAB_MIR_TX_CNT,
       Reg.FAB_MIR_REJECT_CNT, Reg.FAB_MIR_RX_CNT] := by decide
    exact .inl (e h)
  · exact .inr (.inl ⟨n, hn, .inl h⟩)
  · rcases h with h | h
    · exact .inr (.inr ⟨n, .inl h⟩)
    · exact .inr (.inr ⟨n, .inr (.inl h)⟩)
  · exact .inr (.inr ⟨0, .inr (.inr (.inr (.inr ⟨w, f, h⟩)))⟩)

/-- Nothing but registers of P changed among the registers, and no link changed its state. -/
structure CalmOf (P : Nat → Prop) (s t : State) : Prop where
  get : ∀ o, ¬ P o → t.regs.get? o = s.regs.get? o
  otp : t.otp = s.otp
  straps : t.straps = s.straps
  st : ∀ l, (t.link l).st = (s.link l).st

theorem CalmOf.refl {P : Nat → Prop} (s : State) : CalmOf P s s := ⟨fun _ _ => rfl, rfl, rfl, fun _ => rfl⟩

theorem CalmOf.trans {P : Nat → Prop} {s t u : State} (h : CalmOf P s t) (k : CalmOf P t u) : CalmOf P s u :=
  ⟨fun o ho => (k.get o ho).trans (h.get o ho), k.otp.trans h.otp, k.straps.trans h.straps, fun l => (k.st l).trans (h.st l)⟩

theorem CalmOf.upd {P : Nat → Prop} {s t u : State} (h : CalmOf P s t) (hr : u.regs = t.regs := by rfl) (hl : u.fab.links = t.fab.links := by rfl)
    (ho : u.otp = t.otp := by rfl) (hs : u.straps = t.straps := by rfl) : CalmOf P s u :=
  ⟨fun o ho => by rw [← h.get o ho, hr], ho.trans h.otp, hs.trans h.straps, fun l => by rw [← h.st l]; simp only [State.link, hl]⟩

/-- A register that is no counter reads the same. -/
theorem CalmOf.reg {P : Nat → Prop} {s t : State} (h : CalmOf P s t) {o : Nat} (ho : ¬ P o) : t.reg o = s.reg o := by
  have e : regReset t o = regReset s o := by simp only [regReset, specialReset, h.otp, h.straps]
  simp only [State.reg, h.get o ho, e]

/-- A counter outside the list reads the same. -/
theorem CalmOf.cnt {P : Nat → Prop} {s t : State} (h : CalmOf P s t) {o : Nat} (ho : ¬ P o) : t.cnt o = s.cnt o := by
  simp only [State.cnt, Tab.getD, h.get o ho]

theorem CalmOf.ite {P : Nat → Prop} {s a b : State} {c : Prop} [Decidable c] (ha : CalmOf P s a) (hb : CalmOf P s b) : CalmOf P s (if c then a else b) := by
  split <;> assumption

theorem CalmOf.ite1 {P : Nat → Prop} {α : Type} {s : State} {a b : State × α} {c : Prop} [Decidable c] (ha : CalmOf P s a.1) (hb : CalmOf P s b.1) :
    CalmOf P s (if c then a else b).1 := by
  split <;> assumption

theorem CalmOf.ite2 {P : Nat → Prop} {α : Type} {s : State} {a b : α × State} {c : Prop} [Decidable c] (ha : CalmOf P s a.2) (hb : CalmOf P s b.2) :
    CalmOf P s (if c then a else b).2 := by
  split <;> assumption

theorem CalmOf.opt {P : Nat → Prop} {s u : State} (h : CalmOf P s u) : ∀ t, some u = some t → CalmOf P s t := by
  intro t e
  cases e
  exact h

theorem CalmOf.optIte {P : Nat → Prop} {s u : State} {o : Option State} {c : Prop} [Decidable c] (h : CalmOf P s u) (ho : ∀ t, o = some t → CalmOf P s t) :
    ∀ t, (if c then some u else o) = some t → CalmOf P s t := by
  split
  · exact h.opt
  · exact ho

theorem CalmOf.optNone {P : Nat → Prop} {s : State} : ∀ t, (none : Option State) = some t → CalmOf P s t := by
  intro t e
  cases e

theorem CalmOf.foldl {P : Nat → Prop} {α : Type} {s t : State} {f : State → α → State} {xs : List α} (h : CalmOf P s t)
    (hf : ∀ u a, CalmOf P s u → CalmOf P s (f u a)) : CalmOf P s (xs.foldl f t) := by
  induction xs generalizing t with
  | nil => exact h
  | cons x xs ih => exact ih (hf _ _ h)

theorem CalmOf.foldlMem {P : Nat → Prop} {α : Type} {s t : State} {f : State → α → State} {xs : List α} (h : CalmOf P s t)
    (hf : ∀ u a, a ∈ xs → CalmOf P s u → CalmOf P s (f u a)) : CalmOf P s (xs.foldl f t) := by
  induction xs generalizing t with
  | nil => exact h
  | cons x xs ih => exact ih (hf _ _ (by simp) h) (fun u a ha => hf u a (by simp [ha]))

theorem CalmOf.foldl1 {P : Nat → Prop} {α β : Type} {s : State} {p : State × β} {f : State × β → α → State × β} {xs : List α} (h : CalmOf P s p.1)
    (hf : ∀ u a, CalmOf P s u.1 → CalmOf P s (f u a).1) : CalmOf P s (xs.foldl f p).1 := by
  induction xs generalizing p with
  | nil => exact h
  | cons x xs ih => exact ih (hf _ _ h)

theorem CalmOf.foldl2 {P : Nat → Prop} {α β : Type} {s : State} {p : β × State} {f : β × State → α → β × State} {xs : List α} (h : CalmOf P s p.2)
    (hf : ∀ u a, CalmOf P s u.2 → CalmOf P s (f u a).2) : CalmOf P s (xs.foldl f p).2 := by
  induction xs generalizing p with
  | nil => exact h
  | cons x xs ih => exact ih (hf _ _ h)

theorem CalmOf.foldl21 {P : Nat → Prop} {α β γ : Type} {s : State} {p : β × State × γ} {f : β × State × γ → α → β × State × γ} {xs : List α}
    (h : CalmOf P s p.2.1) (hf : ∀ u a, CalmOf P s u.2.1 → CalmOf P s (f u a).2.1) : CalmOf P s (xs.foldl f p).2.1 := by
  induction xs generalizing p with
  | nil => exact h
  | cons x xs ih => exact ih (hf _ _ h)

theorem CalmOf.foldl22 {P : Nat → Prop} {α β γ : Type} {s : State} {p : β × γ × State} {f : β × γ × State → α → β × γ × State} {xs : List α}
    (h : CalmOf P s p.2.2) (hf : ∀ u a, CalmOf P s u.2.2 → CalmOf P s (f u a).2.2) : CalmOf P s (xs.foldl f p).2.2 := by
  induction xs generalizing p with
  | nil => exact h
  | cons x xs ih => exact ih (hf _ _ h)

theorem CalmOf.name {P : Nat → Prop} {s x : State} (h : CalmOf P s x) : ∃ y, x = y ∧ CalmOf P s y := ⟨_, rfl, h⟩

theorem CalmOf.name1 {P : Nat → Prop} {α : Type} {s : State} {x : State × α} (h : CalmOf P s x.1) : ∃ y, x = y ∧ CalmOf P s y.1 := ⟨_, rfl, h⟩

theorem CalmOf.name2 {P : Nat → Prop} {α : Type} {s : State} {x : α × State} (h : CalmOf P s x.2) : ∃ y, x = y ∧ CalmOf P s y.2 := ⟨_, rfl, h⟩

theorem CalmOf.name21 {P : Nat → Prop} {α β : Type} {s : State} {x : α × State × β} (h : CalmOf P s x.2.1) : ∃ y, x = y ∧ CalmOf P s y.2.1 := ⟨_, rfl, h⟩

theorem CalmOf.mk1 {P : Nat → Prop} {α : Type} {s t : State} {a : α} (h : CalmOf P s t) : CalmOf P s (t, a).1 := h

theorem CalmOf.mk2 {P : Nat → Prop} {α : Type} {s t : State} {a : α} (h : CalmOf P s t) : CalmOf P s (a, t).2 := h

theorem CalmOf.mk21 {P : Nat → Prop} {α β : Type} {s : State} {a : α} {p : State × β} (h : CalmOf P s p.1) : CalmOf P s (a, p).2.1 := h

theorem CalmOf.mk22 {P : Nat → Prop} {α β : Type} {s : State} {a : α} {p : β × State} (h : CalmOf P s p.2) : CalmOf P s (a, p).2.2 := h

theorem CalmOf.of_1 {P : Nat → Prop} {α : Type} {s u : State} {a : α} {p : State × α} (e : p = (u, a)) (h : CalmOf P s p.1) : CalmOf P s u := by
  subst e; exact h

theorem CalmOf.of_2 {P : Nat → Prop} {α : Type} {s u : State} {a : α} {p : α × State} (e : p = (a, u)) (h : CalmOf P s p.2) : CalmOf P s u := by
  subst e; exact h

theorem CalmOf.of_2_1 {P : Nat → Prop} {α β : Type} {s u : State} {a : α} {b : β} {p : α × State × β} (e : p = (a, u, b)) (h : CalmOf P s p.2.1) :
    CalmOf P s u := by
  subst e; exact h

theorem CalmOf.of_2_2 {P : Nat → Prop} {α β : Type} {s u : State} {a : α} {b : β} {p : α × β × State} (e : p = (a, b, u)) (h : CalmOf P s p.2.2) :
    CalmOf P s u := by
  subst e; exact h

theorem calm_State_setReg {P : Nat → Prop} {s v : State} {o x : Nat} (ho : P o) (g : CalmOf P s v) : CalmOf P s (v.setReg o x) :=
  ⟨fun p hp => by
    have hne : p ≠ o := by rintro rfl; exact hp ho
    rw [← g.get p hp]
    simp only [State.setReg, Tab.get?_set, if_neg hne], g.otp, g.straps, fun l => g.st l⟩

theorem calm_State_bumpBy {P : Nat → Prop} {s v : State} {o n : Nat} (ho : P o) (g : CalmOf P s v) : CalmOf P s (v.bumpBy o n) :=
  ⟨fun p hp => by
    have hne : p ≠ o := by rintro rfl; exact hp ho
    rw [← g.get p hp]
    simp only [State.bumpBy, Tab.get?_set, if_neg hne], g.otp, g.straps, fun l => g.st l⟩

theorem calm_State_bump {P : Nat → Prop} {s v : State} {o : Nat} (ho : P o) (g : CalmOf P s v) : CalmOf P s (v.bump o) := calm_State_bumpBy ho g

theorem calm_State_setLink {P : Nat → Prop} {s v : State} {l : Nat} {r : LinkRec} (hst : r.st = (v.link l).st) (g : CalmOf P s v) : CalmOf P s (v.setLink l r) :=
  ⟨g.get, g.otp, g.straps, fun k => by
    rw [← g.st k]
    simp only [State.link, State.setLink, Tab.getD_set]
    by_cases e : k = l
    · subst e; simp [State.link] at hst ⊢; exact hst
    · simp [e]⟩

theorem calm_State_emit {P} (hP : ∀ o, EventReg o → P o) {s v0 v1} (g0 : CalmOf P s v0) : CalmOf P s (State.emit v0 v1) := by
  unfold State.emit
  exact (.upd g0)

theorem calm_State_fresh {P} (hP : ∀ o, EventReg o → P o) {s v0} (g0 : CalmOf P s v0) : CalmOf P s (State.fresh v0).2 := by
  unfold State.fresh
  refine CalmOf.mk2 ?_
  exact (.upd g0)

theorem calm_State_rateMark {P} (hP : ∀ o, EventReg o → P o) {s v0 v1} (g0 : CalmOf P s v0) : CalmOf P s (State.rateMark v0 v1) := by
  unfold State.rateMark
  exact (.upd g0)

theorem calm_State_setTlink {P} (hP : ∀ o, EventReg o → P o) {s v0 v1 v2} (g0 : CalmOf P s v0) : CalmOf P s (State.setTlink v0 v1 v2) := by
  unfold State.setTlink
  exact (.upd g0)

theorem calm_departs {P} (hP : ∀ o, EventReg o → P o) {s v0 v1 v2} (g0 : CalmOf P s v0) : CalmOf P s (departs v0 v1 v2) := by
  unfold departs
  refine CalmOf.ite ?_ ?_
  · exact g0
  · extract_lets -merge -underBinder +onlyGivenNames x0
    obtain ⟨y0, e0, h0⟩ := CalmOf.name (x := x0) (calm_State_emit hP (calm_State_emit hP g0))
    rw [e0]
    refine CalmOf.ite ?_ ?_
    · exact h0
    · extract_lets -merge -underBinder +onlyGivenNames x1
      exact (calm_State_setTlink hP h0)

theorem calm_sendOn {P} (hP : ∀ o, EventReg o → P o) {s v0 v1 v2 v3} (g0 : CalmOf P s v0) : CalmOf P s (sendOn v0 v1 v2 v3) := by
  unfold sendOn
  extract_lets -merge -underBinder +onlyGivenNames x0
  exact (calm_State_emit hP (calm_State_emit hP (calm_State_setLink (by first | rfl | simp) g0)))

theorem calm_tephraCount {P} (hP : ∀ o, EventReg o → P o) {s v0 v1 v2} (g0 : ∀ u0 u1 u2, CalmOf P s u0 → CalmOf P s (v0 u0 u1 u2)) (hl : v2 < 11) (g1 : CalmOf P s v1) : CalmOf P s (tephraCount v0 v1 v2) := by
  unfold tephraCount
  extract_lets -merge -underBinder +onlyGivenNames x0 x1 x2 x3
  obtain ⟨y3, e3, h3⟩ := CalmOf.name (x := x3) (calm_State_bump (hP _ (by first | (left; decide) | (right; left; exact ⟨_, hl, rfl⟩) | (right; right; left; exact ⟨_, .inl rfl⟩) | (right; right; left; exact ⟨_, .inr rfl⟩) | (right; right; right; exact ⟨0, _, rfl⟩))) (calm_State_setLink (by first | rfl | simp) g1))
  rw [e3]
  refine CalmOf.ite ?_ ?_
  · extract_lets -merge -underBinder +onlyGivenNames x4 x5 x6
    obtain ⟨y6, e6, h6⟩ := CalmOf.name (x := x6) (calm_State_setLink (by first | rfl | simp) h3)
    rw [e6]
    exact g0 _ _ _ h6
  · exact h3

theorem calm_startNext {P} (hP : ∀ o, EventReg o → P o) {s v0 v1 v2 v3} (g0 : ∀ u0 u1 u2, CalmOf P s u0 → CalmOf P s (v0 u0 u1 u2)) (hl : v3 < 11) (g2 : CalmOf P s v2) : CalmOf P s (startNext v0 v1 v2 v3) := by
  induction v1 generalizing v2 with
  | zero =>
    rw [startNext]
    exact g2
  | succ v ih =>
    rw [startNext]
    refine CalmOf.ite ?_ ?_
    · exact g2
    · split
      · extract_lets -merge -underBinder +onlyGivenNames x0 x1
        obtain ⟨y1, e1, h1⟩ := CalmOf.name (x := x1) (calm_departs hP (calm_State_setLink (by first | rfl | simp) g2))
        rw [e1]
        extract_lets -merge -underBinder +onlyGivenNames x2
        exact (calm_sendOn hP h1)
      · split
        · exact g2
        · extract_lets -merge -underBinder +onlyGivenNames x3
          split
          · extract_lets -merge -underBinder +onlyGivenNames x4
            obtain ⟨y4, e4, h4⟩ := CalmOf.name (x := x4) (calm_State_setLink (by first | rfl | simp) g2)
            rw [e4]
            refine CalmOf.ite ?_ ?_
            · split
              · exact (ih (calm_tephraCount hP g0 hl h4))
              · extract_lets -merge -underBinder +onlyGivenNames x5
                obtain ⟨y5, e5, h5⟩ := CalmOf.name (x := x5) (calm_departs hP h4)
                rw [e5]
                extract_lets -merge -underBinder +onlyGivenNames x6
                refine CalmOf.ite ?_ ?_
                · extract_lets -merge -underBinder +onlyGivenNames x7 x8
                  exact (calm_tephraCount hP g0 hl (calm_sendOn hP h5))
                · extract_lets -merge -underBinder +onlyGivenNames x9 x10 x11
                  exact (calm_tephraCount hP g0 hl (calm_sendOn hP h5))
              · extract_lets -merge -underBinder +onlyGivenNames x12 x13
                obtain ⟨y13, e13, h13⟩ := CalmOf.name (x := x13) (calm_State_setLink (by first | rfl | simp) h4)
                rw [e13]
                exact (ih (calm_tephraCount hP g0 hl h13))
              · exact (calm_sendOn hP h4)
            · extract_lets -merge -underBinder +onlyGivenNames x14 x15
              obtain ⟨y15, e15, h15⟩ := CalmOf.name (x := x15) (calm_departs hP (calm_State_setLink (by first | rfl | simp) h4))
              rw [e15]
              extract_lets -merge -underBinder +onlyGivenNames x16
              exact (calm_sendOn hP h15)

theorem calm_fabDrop {P} (hP : ∀ o, EventReg o → P o) {s v0 v1 v2 v3 v4} (g0 : ∀ u0 u1 u2, CalmOf P s u0 → CalmOf P s (v0 u0 u1 u2)) (g1 : CalmOf P s v1) : CalmOf P s (fabDrop v0 v1 v2 v3 v4) := by
  unfold fabDrop
  extract_lets -merge -underBinder +onlyGivenNames x0
  exact (.ite (g0 _ _ _ (calm_State_rateMark hP g1)) g1)

theorem calm_enqueue {P} (hP : ∀ o, EventReg o → P o) {s v0 v1 v2 v3} (g0 : ∀ u0 u1 u2, CalmOf P s u0 → CalmOf P s (v0 u0 u1 u2)) (hl : v2 < 11) (g1 : CalmOf P s v1) : CalmOf P s (enqueue v0 v1 v2 v3) := by
  unfold enqueue
  extract_lets -merge -underBinder +onlyGivenNames x0 x1
  refine CalmOf.ite ?_ ?_
  · exact (calm_startNext hP g0 hl (calm_State_setLink (by first | rfl | simp) g1))
  · extract_lets -merge -underBinder +onlyGivenNames x2
    obtain ⟨y2, e2, h2⟩ := CalmOf.name (x := x2) (calm_State_bump (hP _ (by first | (left; decide) | (right; left; exact ⟨_, hl, rfl⟩) | (right; right; left; exact ⟨_, .inl rfl⟩) | (right; right; left; exact ⟨_, .inr rfl⟩) | (right; right; right; exact ⟨0, _, rfl⟩))) g1)
    rw [e2]
    exact (calm_fabDrop hP g0 h2)

theorem calm_noRoute {P} (hP : ∀ o, EventReg o → P o) {s v0 v1 v2} (g0 : ∀ u0 u1 u2, CalmOf P s u0 → CalmOf P s (v0 u0 u1 u2)) (g1 : CalmOf P s v1) : CalmOf P s (noRoute v0 v1 v2) := by
  unfold noRoute
  extract_lets -merge -underBinder +onlyGivenNames x0
  obtain ⟨y0, e0, h0⟩ := CalmOf.name (x := x0) (calm_State_bump (hP _ (by first | (left; decide) | (right; left; exact ⟨_, hl, rfl⟩) | (right; right; left; exact ⟨_, .inl rfl⟩) | (right; right; left; exact ⟨_, .inr rfl⟩) | (right; right; right; exact ⟨0, _, rfl⟩))) g1)
  rw [e0]
  exact (calm_fabDrop hP g0 h0)

theorem calm_deliver {P} (hP : ∀ o, EventReg o → P o) {s v0 v1} (g0 : CalmOf P s v0) : CalmOf P s (deliver v0 v1) := by
  unfold deliver
  exact (calm_State_emit hP (.upd g0))

theorem calm_deliverAlias {P} (hP : ∀ o, EventReg o → P o) {s v0 v1 v2} (g0 : ∀ u0 u1 u2, CalmOf P s u0 → CalmOf P s (v0 u0 u1 u2)) (g1 : CalmOf P s v1) : CalmOf P s (deliverAlias v0 v1 v2) := by
  unfold deliverAlias
  exact (.ite (.ite (calm_deliver hP g1) (calm_State_bump (hP _ (by first | (left; decide) | (right; left; exact ⟨_, hl, rfl⟩) | (right; right; left; exact ⟨_, .inl rfl⟩) | (right; right; left; exact ⟨_, .inr rfl⟩) | (right; right; right; exact ⟨0, _, rfl⟩))) g1)) (calm_noRoute hP g0 g1))

theorem calm_passOn {P} (hP : ∀ o, EventReg o → P o) {s v0 v1 v2 v3 v4} (g0 : ∀ u0 u1 u2, CalmOf P s u0 → CalmOf P s (v0 u0 u1 u2)) (hl : v3 < 11) (g1 : CalmOf P s v1) : CalmOf P s (passOn v0 v1 v2 v3 v4) := by
  unfold passOn
  extract_lets -merge -underBinder +onlyGivenNames x0 x1
  obtain ⟨y1, e1, h1⟩ := CalmOf.name (x := x1) (calm_enqueue hP g0 hl g1)
  rw [e1]
  exact (.ite (calm_State_setLink (by first | rfl | simp) h1) h1)

theorem calm_routeDirected {P} (hP : ∀ o, EventReg o → P o) {s v0 v1 v2 v3} (g0 : ∀ u0 u1 u2, CalmOf P s u0 → CalmOf P s (v0 u0 u1 u2)) (g1 : CalmOf P s v1) : CalmOf P s (routeDirected v0 v1 v2 v3) := by
  unfold routeDirected
  extract_lets -merge -underBinder +onlyGivenNames x0 x1
  refine CalmOf.ite ?_ ?_
  · extract_lets -merge -underBinder +onlyGivenNames x2
    split
    · rename_i hc
      exact calm_passOn hP g0 (Nat.lt_of_le_of_lt hc.1 (by decide)) g1
    · exact calm_noRoute hP g0 g1
  · exact (calm_deliver hP g1)

theorem calm_forward {P} (hP : ∀ o, EventReg o → P o) {s v0 v1 v2 v3 v4} (g0 : ∀ u0 u1 u2, CalmOf P s u0 → CalmOf P s (v0 u0 u1 u2)) (hl : v3 < 11) (g1 : CalmOf P s v1) : CalmOf P s (forward v0 v1 v2 v3 v4) := by
  unfold forward
  refine CalmOf.ite ?_ ?_
  · exact (calm_passOn hP g0 hl g1)
  · extract_lets -merge -underBinder +onlyGivenNames x0
    obtain ⟨y0, e0, h0⟩ := CalmOf.name (x := x0) (calm_State_bump (hP _ (by first | (left; decide) | (right; left; exact ⟨_, hl, rfl⟩) | (right; right; left; exact ⟨_, .inl rfl⟩) | (right; right; left; exact ⟨_, .inr rfl⟩) | (right; right; right; exact ⟨0, _, rfl⟩))) g1)
    rw [e0]
    exact (calm_fabDrop hP g0 h0)

theorem calm_routeWith {P} (hP : ∀ o, EventReg o → P o) {s v0 v1 v2 v3} (g0 : ∀ u0 u1 u2, CalmOf P s u0 → CalmOf P s (v0 u0 u1 u2)) (g1 : CalmOf P s v1) : CalmOf P s (routeWith v0 v1 v2 v3) := by
  unfold routeWith
  refine CalmOf.ite ?_ ?_
  · extract_lets -merge -underBinder +onlyGivenNames x0
    obtain ⟨y0, e0, h0⟩ := CalmOf.name (x := x0) (calm_State_bump (hP _ (by first | (left; decide) | (right; left; exact ⟨_, hl, rfl⟩) | (right; right; left; exact ⟨_, .inl rfl⟩) | (right; right; left; exact ⟨_, .inr rfl⟩) | (right; right; right; exact ⟨0, _, rfl⟩))) g1)
    rw [e0]
    exact (calm_fabDrop hP g0 h0)
  · extract_lets -merge -underBinder +onlyGivenNames x1
    refine CalmOf.ite ?_ ?_
    · exact (calm_noRoute hP g0 g1)
    · refine CalmOf.ite ?_ ?_
      · exact (calm_State_bump (hP _ (by first | (left; decide) | (right; left; exact ⟨_, hl, rfl⟩) | (right; right; left; exact ⟨_, .inl rfl⟩) | (right; right; left; exact ⟨_, .inr rfl⟩) | (right; right; right; exact ⟨0, _, rfl⟩))) g1)
      · refine CalmOf.ite ?_ ?_
        · refine CalmOf.ite ?_ ?_
          · exact (calm_routeDirected hP g0 g1)
          · split
            · exact (calm_State_bump (hP _ (by first | (left; decide) | (right; left; exact ⟨_, hl, rfl⟩) | (right; right; left; exact ⟨_, .inl rfl⟩) | (right; right; left; exact ⟨_, .inr rfl⟩) | (right; right; right; exact ⟨0, _, rfl⟩))) g1)
            · exact g1
        · refine CalmOf.ite ?_ ?_
          · extract_lets -merge -underBinder +onlyGivenNames x2 x3
            obtain ⟨y3, e3, h3⟩ := CalmOf.name (P := P) (s := s) (x := x3) (by
              unfold x3
              refine CalmOf.foldlMem ?_ ?_
              · exact g1
              · intro x4 a4 m4 h4
                exact (.ite (calm_forward hP g0 (Nat.lt_of_lt_of_le (List.mem_range.1 m4) (by decide)) h4) h4))
            rw [e3]
            exact (.ite (calm_deliver hP h3) h3)
          · refine CalmOf.ite ?_ ?_
            · exact (calm_deliverAlias hP g0 g1)
            · refine CalmOf.ite ?_ ?_
              · exact (calm_deliver hP g1)
              · refine CalmOf.ite ?_ ?_
                · exact (calm_noRoute hP g0 g1)
                · extract_lets -merge -underBinder +onlyGivenNames x5
                  refine CalmOf.ite (calm_deliver hP g1) ?_
                  split
                  · rename_i hc
                    exact calm_forward hP g0 (Nat.lt_of_le_of_lt hc (by decide)) g1
                  · exact calm_noRoute hP g0 g1

theorem calm_State_setRequester {P} (hP : ∀ o, EventReg o → P o) {s v0 v1 v2} (g0 : CalmOf P s v0) : CalmOf P s (State.setRequester v0 v1 v2) := by
  unfold State.setRequester
  exact (.upd g0)

theorem calm_mgmtIssue {P} (hP : ∀ o, EventReg o → P o) {s v0 v1 v2 v3} (g0 : ∀ u0 u1 u2, CalmOf P s u0 → CalmOf P s (v0 u0 u1 u2)) (g1 : CalmOf P s v1) : CalmOf P s (mgmtIssue v0 v1 v2 v3) := by
  unfold mgmtIssue
  extract_lets -merge -underBinder +onlyGivenNames x0
  refine CalmOf.ite ?_ ?_
  · extract_lets -merge -underBinder +onlyGivenNames x1 x2 x3 x4
    obtain ⟨y4, e4, h4⟩ := CalmOf.name (x := x4) (calm_State_setRequester hP g1)
    rw [e4]
    exact (calm_routeWith hP g0 h4)
  · exact (calm_State_setRequester hP g1)

theorem calm_dmaRequest {P} (hP : ∀ o, EventReg o → P o) {s v0 v1 v2 v3 v4 v5 v6 v7 v8} (g0 : ∀ u0 u1 u2, CalmOf P s u0 → CalmOf P s (v0 u0 u1 u2)) (g1 : CalmOf P s v1) : CalmOf P s (dmaRequest v0 v1 v2 v3 v4 v5 v6 v7 v8) := by
  unfold dmaRequest
  extract_lets -merge -underBinder +onlyGivenNames x0 x1
  exact (calm_mgmtIssue hP g0 g1)

theorem calm_dmaWrites {P} (hP : ∀ o, EventReg o → P o) {s v0 v1 v2 v3 v4 v5 v6} (g0 : ∀ u0 u1 u2, CalmOf P s u0 → CalmOf P s (v0 u0 u1 u2)) (g3 : CalmOf P s v3) : CalmOf P s (dmaWrites v0 v1 v2 v3 v4 v5 v6) := by
  induction v2 generalizing v1 v3 v4 v5 v6 with
  | zero =>
    rw [dmaWrites]
    exact g3
  | succ v ih =>
    rw [dmaWrites]
    exact (.ite g3 (ih (calm_dmaRequest hP g0 g3)))

theorem calm_hostWriteR {P} (hP : ∀ o, EventReg o → P o) {s v0 v1 v2 v3 v4 v5} (g0 : ∀ u0 u1 u2, CalmOf P s u0 → CalmOf P s (v0 u0 u1 u2)) (g1 : CalmOf P s v1) : CalmOf P s (hostWriteR v0 v1 v2 v3 v4 v5) := by
  unfold hostWriteR
  exact (.ite (calm_State_emit hP g1) (.ite (calm_dmaWrites hP g0 g1) g1))

theorem calm_msixSignal {P} (hP : ∀ o, EventReg o → P o) {s v0 v1 v2} (g0 : CalmOf P s v0) : CalmOf P s (msixSignal v0 v1 v2) := by
  unfold msixSignal
  exact (.ite (.upd g0) (calm_State_emit hP g0))

theorem calm_signalR {P} (hP : ∀ o, EventReg o → P o) {s v0 v1 v2 v3} (g0 : ∀ u0 u1 u2, CalmOf P s u0 → CalmOf P s (v0 u0 u1 u2)) (g1 : CalmOf P s v1) : CalmOf P s (signalR v0 v1 v2 v3) := by
  unfold signalR
  exact (.ite (calm_msixSignal hP g1) (.ite (calm_dmaRequest hP g0 g1) g1))

theorem calm_ringIrq {P} (hP : ∀ o, EventReg o → P o) {s v0 v1 v2 v3 v4} (g0 : ∀ u0 u1 u2, CalmOf P s u0 → CalmOf P s (v0 u0 u1 u2)) (g1 : CalmOf P s v1) : CalmOf P s (ringIrq v0 v1 v2 v3 v4).2 := by
  unfold ringIrq
  extract_lets -merge -underBinder +onlyGivenNames x0 x1
  refine CalmOf.ite2 ?_ ?_
  · refine CalmOf.mk2 ?_
    exact g0 _ _ _ g1
  · refine CalmOf.mk2 ?_
    exact g1

theorem calm_evqWrite {P} (hP : ∀ o, EventReg o → P o) {s v0 v1 v2 v3} (g0 : CalmOf P s v0) : CalmOf P s (evqWrite v0 v1 v2 v3) := by
  unfold evqWrite
  extract_lets -merge -underBinder +onlyGivenNames x0 x1 x2 x3
  refine CalmOf.ite ?_ ?_
  · exact g0
  · refine CalmOf.ite ?_ ?_
    · exact (calm_State_bump (hP _ (.inr (.inr (.inr ⟨_, _, rfl⟩)))) (.upd g0))
    · extract_lets -merge -underBinder +onlyGivenNames x4 x5
      obtain ⟨y5, e5, h5⟩ := CalmOf.name (x := x5) (calm_State_emit hP g0)
      rw [e5]
      split
      rename_i y6_0 x6 e6
      have h6 : CalmOf P s x6 := CalmOf.of_2 e6 (by
        refine calm_ringIrq hP ?_ ?_
        · intro x7_0 a7_1 a7_2 h7_0
          exact (calm_msixSignal hP h7_0)
        · exact h5)
      exact (.upd h6)

theorem calm_evqDeliver {P} (hP : ∀ o, EventReg o → P o) {s v0 v1 v2} (g0 : CalmOf P s v0) : CalmOf P s (evqDeliver v0 v1 v2) := by
  unfold evqDeliver
  extract_lets -merge -underBinder +onlyGivenNames x0
  refine CalmOf.foldl ?_ ?_
  · exact g0
  · intro x1 a1 h1
    exact (.ite (calm_evqWrite hP h1) h1)

theorem calm_sendRecord {P} (hP : ∀ o, EventReg o → P o) {s v0 v1 v2 v3} (g0 : ∀ u0 u1 u2, CalmOf P s u0 → CalmOf P s (v0 u0 u1 u2)) (g1 : CalmOf P s v1) : CalmOf P s (sendRecord v0 v1 v2 v3) := by
  unfold sendRecord
  exact (.ite (calm_evqDeliver hP g1) (.ite (calm_routeWith hP g0 g1) g1))

theorem calm_raiseN {P} (hP : ∀ o, EventReg o → P o) {s v0 v1 v2 v3} (g1 : CalmOf P s v1) : CalmOf P s (raiseN v0 v1 v2 v3) := by
  induction v0 generalizing v1 v2 v3 with
  | zero =>
    rw [raiseN]
    exact (calm_State_emit hP (.upd g1))
  | succ v ih =>
    rw [raiseN]
    split
    · refine CalmOf.ite ?_ ?_
      · exact (.upd g1)
      · refine calm_sendRecord hP ?_ ?_
        · intro x0_0 a0_1 a0_2 h0_0
          exact ih h0_0
        · exact (calm_State_emit hP (.upd g1))
    · refine calm_sendRecord hP ?_ ?_
      · intro x1_0 a1_1 a1_2 h1_0
        exact ih h1_0
      · exact (calm_State_emit hP (.upd g1))

theorem calm_State_raise {P} (hP : ∀ o, EventReg o → P o) {s v0 v1 v2} (g0 : CalmOf P s v0) : CalmOf P s (State.raise v0 v1 v2) := by
  unfold State.raise
  exact (calm_raiseN hP g0)

theorem calm_State_raiseLimited {P} (hP : ∀ o, EventReg o → P o) {s v0 v1 v2 v3 v4} (g0 : CalmOf P s v0) : CalmOf P s (State.raiseLimited v0 v1 v2 v3 v4) := by
  unfold State.raiseLimited
  exact (.ite (calm_State_raise hP (calm_State_rateMark hP g0)) g0)

theorem calm_State_routePkt {P} (hP : ∀ o, EventReg o → P o) {s v0 v1 v2} (g0 : CalmOf P s v0) : CalmOf P s (State.routePkt v0 v1 v2) := by
  unfold State.routePkt
  exact (calm_routeWith hP (fun _ _ _ h => calm_State_raise hP h) g0)

theorem calm_State_hostWrite {P} (hP : ∀ o, EventReg o → P o) {s v0 v1 v2 v3} (g0 : CalmOf P s v0) : CalmOf P s (State.hostWrite v0 v1 v2 v3) := by
  unfold State.hostWrite
  exact (calm_hostWriteR hP (fun _ _ _ h => calm_State_raise hP h) g0)

theorem calm_State_signal {P} (hP : ∀ o, EventReg o → P o) {s v0 v1 v2} (g0 : CalmOf P s v0) : CalmOf P s (State.signal v0 v1 v2) := by
  unfold State.signal
  exact (calm_signalR hP (fun _ _ _ h => calm_State_raise hP h) g0)

theorem calm_State_hostRead {P} (hP : ∀ o, EventReg o → P o) {s v0 v1 v2 v3 v4} (g0 : CalmOf P s v0) : CalmOf P s (State.hostRead v0 v1 v2 v3 v4) := by
  unfold State.hostRead
  refine CalmOf.ite ?_ ?_
  · exact (calm_State_emit hP g0)
  · refine CalmOf.ite ?_ ?_
    · refine CalmOf.foldl ?_ ?_
      · exact g0
      · intro x0 a0 h0
        exact (calm_dmaRequest hP (fun _ _ _ h => calm_State_raise hP h) h0)
    · exact g0

theorem calm_State_setReady {P} (hP : ∀ o, EventReg o → P o) {s v0 v1 v2} (g0 : CalmOf P s v0) : CalmOf P s (State.setReady v0 v1 v2) := by
  unfold State.setReady
  exact (.ite g0 (calm_State_raise hP (.upd g0)))

theorem calm_State_setMode {P} (hP : ∀ o, EventReg o → P o) {s v0 v1 v2} (g0 : CalmOf P s v0) : CalmOf P s (State.setMode v0 v1 v2) := by
  unfold State.setMode
  refine CalmOf.ite ?_ ?_
  · exact g0
  · extract_lets -merge -underBinder +onlyGivenNames x0
    exact (calm_State_raise hP (.upd g0))

theorem calm_State_mpuDeny {P} (hP : ∀ o, EventReg o → P o) {s v0 v1 v2 v3 v4} (g0 : CalmOf P s v0) : CalmOf P s (State.mpuDeny v0 v1 v2 v3 v4) := by
  unfold State.mpuDeny
  extract_lets -merge -underBinder +onlyGivenNames x0
  obtain ⟨y0, e0, h0⟩ := CalmOf.name (x := x0) (calm_State_bump (hP _ (by first | (left; decide) | (right; left; exact ⟨_, hl, rfl⟩) | (right; right; left; exact ⟨_, .inl rfl⟩) | (right; right; left; exact ⟨_, .inr rfl⟩) | (right; right; right; exact ⟨0, _, rfl⟩))) g0)
  rw [e0]
  refine CalmOf.ite ?_ ?_
  · exact h0
  · extract_lets -merge -underBinder +onlyGivenNames x1
    obtain ⟨y1, e1, h1⟩ := CalmOf.name (x := x1) (calm_State_setReg (hP _ (by first | (left; decide) | (right; left; exact ⟨_, hl, rfl⟩) | (right; right; left; exact ⟨_, .inl rfl⟩) | (right; right; left; exact ⟨_, .inr rfl⟩) | (right; right; right; exact ⟨0, _, rfl⟩))) h0)
    rw [e1]
    extract_lets -merge -underBinder +onlyGivenNames x2
    obtain ⟨y2, e2, h2⟩ := CalmOf.name (x := x2) (calm_State_setReg (hP _ (by first | (left; decide) | (right; left; exact ⟨_, hl, rfl⟩) | (right; right; left; exact ⟨_, .inl rfl⟩) | (right; right; left; exact ⟨_, .inr rfl⟩) | (right; right; right; exact ⟨0, _, rfl⟩))) h1)
    rw [e2]
    exact (calm_State_raise hP h2)

/-- Nothing but counters and captures changed among the registers, and no link changed its state. -/
abbrev Calm (s t : State) : Prop := CalmOf Counted s t

theorem calm_State_raf {s v0 v1 v2 v3 v4 v5} (g0 : Calm s v0) : Calm s (State.raf v0 v1 v2 v3 v4 v5) := by
  unfold State.raf
  extract_lets -merge -underBinder +onlyGivenNames x0
  obtain ⟨y0, e0, h0⟩ := CalmOf.name (x := x0) (calm_State_bump (by first | (left; decide) | (right; left; exact ⟨_, hl, .inl rfl⟩) | (right; left; exact ⟨_, hl, .inr rfl⟩) | (right; right; exact ⟨_, by first | (left; rfl) | (right; left; rfl) | (right; right; left; rfl) | (right; right; right; left; rfl)⟩) | (right; right; exact ⟨0, .inr (.inr (.inr (.inr ⟨_, _, rfl⟩)))⟩)) g0)
  rw [e0]
  refine CalmOf.ite ?_ ?_
  · exact h0
  · extract_lets -merge -underBinder +onlyGivenNames x1 x2
    obtain ⟨y2, e2, h2⟩ := CalmOf.name (x := x2) (calm_State_setReg (by first | (left; decide) | (right; left; exact ⟨_, hl, .inl rfl⟩) | (right; left; exact ⟨_, hl, .inr rfl⟩) | (right; right; exact ⟨_, by first | (left; rfl) | (right; left; rfl) | (right; right; left; rfl) | (right; right; right; left; rfl)⟩) | (right; right; exact ⟨0, .inr (.inr (.inr (.inr ⟨_, _, rfl⟩)))⟩)) h0)
    rw [e2]
    extract_lets -merge -underBinder +onlyGivenNames x3
    obtain ⟨y3, e3, h3⟩ := CalmOf.name (x := x3) (calm_State_setReg (by first | (left; decide) | (right; left; exact ⟨_, hl, .inl rfl⟩) | (right; left; exact ⟨_, hl, .inr rfl⟩) | (right; right; exact ⟨_, by first | (left; rfl) | (right; left; rfl) | (right; right; left; rfl) | (right; right; right; left; rfl)⟩) | (right; right; exact ⟨0, .inr (.inr (.inr (.inr ⟨_, _, rfl⟩)))⟩)) h2)
    rw [e3]
    exact (calm_State_raise counted h3)

theorem calm_State_addrFault {s v0 v1 v2} (g0 : Calm s v0) : Calm s (State.addrFault v0 v1 v2) := by
  unfold State.addrFault
  exact (calm_State_raiseLimited counted (calm_State_bump (by first | (left; decide) | (right; left; exact ⟨_, hl, .inl rfl⟩) | (right; left; exact ⟨_, hl, .inr rfl⟩) | (right; right; exact ⟨_, by first | (left; rfl) | (right; left; rfl) | (right; right; left; rfl) | (right; right; right; left; rfl)⟩) | (right; right; exact ⟨0, .inr (.inr (.inr (.inr ⟨_, _, rfl⟩)))⟩)) g0))

theorem calm_State_askSeg {s v0 v1} (g0 : Calm s v0) : Calm s (State.askSeg v0 v1) := by
  unfold State.askSeg
  extract_lets -merge -underBinder +onlyGivenNames x0
  exact (.ite g0 (.upd g0))

theorem calm_State_wrBlock {s v0 v1 v2 v3} (g0 : Calm s v0) : Calm s (State.wrBlock v0 v1 v2 v3).1 := by
  unfold State.wrBlock
  refine CalmOf.ite1 ?_ ?_
  · refine CalmOf.mk1 ?_
    exact (calm_State_mpuDeny counted g0)
  · refine CalmOf.ite1 ?_ ?_
    · refine CalmOf.mk1 ?_
      exact g0
    · refine CalmOf.ite1 ?_ ?_
      · refine CalmOf.mk1 ?_
        exact (calm_State_askSeg (.upd g0))
      · refine CalmOf.ite1 ?_ ?_
        · refine CalmOf.mk1 ?_
          exact (calm_State_addrFault g0)
        · refine CalmOf.mk1 ?_
          exact g0

theorem calm_State_rdBlock {s v0 v1 v2 v3} (g0 : Calm s v0) : Calm s (State.rdBlock v0 v1 v2 v3).2.1 := by
  unfold State.rdBlock
  extract_lets -merge -underBinder +onlyGivenNames x0
  split
  · refine CalmOf.mk21 ?_
    refine CalmOf.mk1 ?_
    exact (calm_State_mpuDeny counted g0)
  · split
    · refine CalmOf.mk21 ?_
      refine CalmOf.mk1 ?_
      exact g0
    · split
      · refine CalmOf.mk21 ?_
        refine CalmOf.mk1 ?_
        exact (calm_State_askSeg g0)
      · split
        · refine CalmOf.mk21 ?_
          refine CalmOf.mk1 ?_
          exact (calm_State_addrFault g0)
        · refine CalmOf.mk21 ?_
          refine CalmOf.mk1 ?_
          exact g0

theorem calm_State_memWr {s v0 v1 v2 v3} (g0 : Calm s v0) : Calm s (State.memWr v0 v1 v2 v3).1 := by
  unfold State.memWr
  refine CalmOf.foldl1 ?_ ?_
  · refine CalmOf.mk1 ?_
    exact g0
  · intro x0 a0 h0
    split
    split
    split
    rename_i x1 y1_1 e1
    have h1 : Calm s x1 := CalmOf.of_1 e1 (by
      refine calm_State_wrBlock ?_
      exact h0)
    refine CalmOf.mk1 ?_
    exact h1

theorem calm_State_memRd {s v0 v1 v2 v3} (g0 : Calm s v0) : Calm s (State.memRd v0 v1 v2 v3).2.1 := by
  unfold State.memRd
  refine CalmOf.foldl21 ?_ ?_
  · refine CalmOf.mk21 ?_
    refine CalmOf.mk1 ?_
    exact g0
  · intro x0 a0 h0
    split
    split
    split
    rename_i y1_0 x1 y1_2 e1
    have h1 : Calm s x1 := CalmOf.of_2_1 e1 (by
      refine calm_State_rdBlock ?_
      exact h0)
    refine CalmOf.mk21 ?_
    refine CalmOf.mk1 ?_
    exact h1

theorem calm_mirrorPump {s v0 v1} (g1 : Calm s v1) : Calm s (mirrorPump v0 v1) := by
  induction v0 generalizing v1 with
  | zero =>
    rw [mirrorPump]
    exact g1
  | succ v ih =>
    rw [mirrorPump]
    split
    · exact g1
    · extract_lets -merge -underBinder +onlyGivenNames x0 x1
      refine CalmOf.ite ?_ ?_
      · extract_lets -merge -underBinder +onlyGivenNames x2 x3
        obtain ⟨y3, e3, h3⟩ := CalmOf.name (x := x3) (.upd g1)
        rw [e3]
        exact (ih (calm_enqueue counted (fun _ _ _ h => calm_State_raise counted h) (by decide) h3))
      · exact g1

theorem calm_mirrorPacket {s v0 v1 v2 v3 v4 v5 v6 v7 v8} (g0 : Calm s v0) : Calm s (mirrorPacket v0 v1 v2 v3 v4 v5 v6 v7 v8) := by
  unfold mirrorPacket
  extract_lets -merge -underBinder +onlyGivenNames x0 x1
  exact (.upd g0)

theorem calm_mirrorRecord {s v0 v1 v2 v3} (g0 : Calm s v0) : Calm s (mirrorRecord v0 v1 v2 v3) := by
  unfold mirrorRecord
  extract_lets -merge -underBinder +onlyGivenNames x0 x1 x2
  obtain ⟨y2, e2, h2⟩ := CalmOf.name (P := Counted) (s := s) (x := x2) (by
    unfold x2
    refine CalmOf.foldl ?_ ?_
    · exact g0
    · intro x3 a3 h3
      exact (calm_mirrorPacket h3))
  rw [e2]
  extract_lets -merge -underBinder +onlyGivenNames x4 x5
  obtain ⟨y5, e5, h5⟩ := CalmOf.name (x := x5) (calm_State_bump (by first | (left; decide) | (right; left; exact ⟨_, hl, .inl rfl⟩) | (right; left; exact ⟨_, hl, .inr rfl⟩) | (right; right; exact ⟨_, by first | (left; rfl) | (right; left; rfl) | (right; right; left; rfl) | (right; right; right; left; rfl)⟩) | (right; right; exact ⟨0, .inr (.inr (.inr (.inr ⟨_, _, rfl⟩)))⟩)) (.upd h2))
  rw [e5]
  exact (calm_mirrorPump h5)

theorem calm_mirrorOut {s v0 v1 v2} (g0 : Calm s v0) : Calm s (mirrorOut v0 v1 v2) := by
  unfold mirrorOut
  exact (.ite (calm_mirrorRecord g0) g0)

theorem calm_mirrorOfDone {s v0 v1} (g0 : Calm s v0) : Calm s (mirrorOfDone v0 v1) := by
  unfold mirrorOfDone
  split
  · exact (calm_mirrorOut g0)
  · exact (.ite g0 (calm_mirrorOut g0))
  · exact (calm_mirrorOut g0)
  · exact (calm_mirrorOut g0)
  · exact (calm_mirrorOut g0)
  · exact (calm_mirrorOut g0)
  · exact (calm_mirrorOut g0)
  · exact g0

theorem calm_mirrorSync {s v0 v1 v2 v3} (g0 : Calm s v0) : Calm s (mirrorSync v0 v1 v2 v3) := by
  unfold mirrorSync
  exact (.ite g0 (calm_State_raise counted (.upd g0)))

theorem calm_mirrorReject {s v0 v1 v2 v3} (g0 : Calm s v0) : Calm s (mirrorReject v0 v1 v2 v3) := by
  unfold mirrorReject
  extract_lets -merge -underBinder +onlyGivenNames x0
  obtain ⟨y0, e0, h0⟩ := CalmOf.name (x := x0) (calm_State_bump (by first | (left; decide) | (right; left; exact ⟨_, hl, .inl rfl⟩) | (right; left; exact ⟨_, hl, .inr rfl⟩) | (right; right; exact ⟨_, by first | (left; rfl) | (right; left; rfl) | (right; right; left; rfl) | (right; right; right; left; rfl)⟩) | (right; right; exact ⟨0, .inr (.inr (.inr (.inr ⟨_, _, rfl⟩)))⟩)) g0)
  rw [e0]
  extract_lets -merge -underBinder +onlyGivenNames x1
  obtain ⟨y1, e1, h1⟩ := CalmOf.name (x := x1) (calm_State_raiseLimited counted h0)
  rw [e1]
  exact (calm_mirrorSync h1)

theorem calm_State_finish {s v0 v1 v2 v3 v4} (g0 : Calm s v0) : Calm s (State.finish v0 v1 v2 v3 v4) := by
  unfold State.finish
  split
  · extract_lets -merge -underBinder +onlyGivenNames x0 x1 x2
    obtain ⟨y2, e2, h2⟩ := CalmOf.name (x := x2) (CalmOf.upd g0 (by rfl) (by rfl) (by rfl) (by rfl))
    rw [e2]
    extract_lets -merge -underBinder +onlyGivenNames x3 x4 x5
    obtain ⟨y5, e5, h5⟩ := CalmOf.name (x := x5) (.ite h2 (.upd h2))
    rw [e5]
    exact (.ite (calm_mirrorOfDone h5) h5)
  · exact (.ite (calm_State_bump (by first | (left; decide) | (right; left; exact ⟨_, hl, .inl rfl⟩) | (right; left; exact ⟨_, hl, .inr rfl⟩) | (right; right; exact ⟨_, by first | (left; rfl) | (right; left; rfl) | (right; right; left; rfl) | (right; right; right; left; rfl)⟩) | (right; right; exact ⟨0, .inr (.inr (.inr (.inr ⟨_, _, rfl⟩)))⟩)) g0) (calm_mirrorReject g0))

theorem calm_State_finishDma {s v0 v1 v2 v3 v4} (g0 : Calm s v0) : Calm s (State.finishDma v0 v1 v2 v3 v4) := by
  unfold State.finishDma
  exact (.ite (.upd g0) (calm_State_finish g0))

theorem calm_State_hostWriteFor {s v0 v1 v2 v3} (g0 : Calm s v0) : Calm s (State.hostWriteFor v0 v1 v2 v3) := by
  unfold State.hostWriteFor
  exact (calm_hostWriteR counted (fun _ _ _ h => calm_State_raise counted h) g0)

theorem calm_State_hostFetch {s v0 v1 v2 v3 v4} (g0 : Calm s v0) (g4 : ∀ u0 u1, Calm s u0 → Calm s (v4 u0 u1)) : Calm s (State.hostFetch v0 v1 v2 v3 v4) := by
  unfold State.hostFetch
  extract_lets -merge -underBinder +onlyGivenNames x0
  obtain ⟨y0, e0, h0⟩ := CalmOf.name (P := Counted) (s := s) (x := x0) (by
    unfold x0
    refine CalmOf.foldl ?_ ?_
    · exact g0
    · intro x1 a1 h1
      exact (calm_State_hostRead counted h1))
  rw [e0]
  exact (.ite (g4 _ _ h0) (.ite (.upd h0) (g4 _ _ h0)))

theorem calm_State_refuse {s v0 v1 v2} (g0 : Calm s v0) : Calm s (State.refuse v0 v1 v2) := by
  unfold State.refuse
  extract_lets -merge -underBinder +onlyGivenNames x0
  obtain ⟨y0, e0, h0⟩ := CalmOf.name (P := Counted) (s := s) (x := x0) (by
    unfold x0
    split
    · exact (calm_State_mpuDeny counted g0)
    · exact g0)
  rw [e0]
  exact (calm_State_finish h0)

theorem calm_runJob {s v0 v1 v2 v3} (g0 : Calm s v0) (g3 : ∀ u0, Calm s u0 → Calm s (v3 u0)) : Calm s (runJob v0 v1 v2 v3) := by
  unfold runJob
  split
  · exact (calm_State_refuse g0)
  · exact g3 _ g0

theorem calm_pairStateEvent {s v0 v1 v2 v3} (g0 : Calm s v0) : Calm s (pairStateEvent v0 v1 v2 v3) := by
  unfold pairStateEvent
  exact (calm_State_raise counted g0)

theorem calm_setPairState {s v0 v1 v2} (g0 : Calm s v0) : Calm s (setPairState v0 v1 v2) := by
  unfold setPairState
  exact (.ite g0 (calm_pairStateEvent (.upd g0)))

theorem calm_dropAckWaits {s v0} (g0 : Calm s v0) : Calm s (dropAckWaits v0) := by
  unfold dropAckWaits
  extract_lets -merge -underBinder +onlyGivenNames x0 x1
  obtain ⟨y1, e1, h1⟩ := CalmOf.name (x := x1) (.upd g0)
  rw [e1]
  refine CalmOf.foldl ?_ ?_
  · exact h1
  · intro x2 a2 h2
    exact (calm_State_finish h2)

theorem calm_State_relinquish {s v0 v1 v2} (g0 : Calm s v0) : Calm s (State.relinquish v0 v1 v2) := by
  unfold State.relinquish
  refine CalmOf.ite ?_ ?_
  · extract_lets -merge -underBinder +onlyGivenNames x0
    split
    rename_i y1_0 x1 e1
    have h1 : Calm s x1 := CalmOf.of_2 e1 (by
      refine calm_State_fresh counted ?_
      exact g0)
    extract_lets -merge -underBinder +onlyGivenNames x2 x3 x4
    have h4 : Calm s x4 := (CalmOf.upd h1 (by rfl) (by rfl) (by rfl) (by rfl))
    extract_lets -merge -underBinder +onlyGivenNames x5
    obtain ⟨y5, e5, h5⟩ := CalmOf.name (x := x5) (.ite h4 (calm_State_setMode counted h4))
    rw [e5]
    extract_lets -merge -underBinder +onlyGivenNames x6
    obtain ⟨y6, e6, h6⟩ := CalmOf.name (x := x6) (calm_State_raise counted h5)
    rw [e6]
    extract_lets -merge -underBinder +onlyGivenNames x7
    obtain ⟨y7, e7, h7⟩ := CalmOf.name (x := x7) (calm_pairStateEvent h6)
    rw [e7]
    extract_lets -merge -underBinder +onlyGivenNames x8 x9 x10
    obtain ⟨y10, e10, h10⟩ := CalmOf.name (x := x10) (.upd h7)
    rw [e10]
    extract_lets -merge -underBinder +onlyGivenNames x11 x12
    obtain ⟨y12, e12, h12⟩ := CalmOf.name (x := x12) (.ite (.upd h10) h10)
    rw [e12]
    exact (calm_dropAckWaits (calm_State_bump (by first | (left; decide) | (right; left; exact ⟨_, hl, .inl rfl⟩) | (right; left; exact ⟨_, hl, .inr rfl⟩) | (right; right; exact ⟨_, by first | (left; rfl) | (right; left; rfl) | (right; right; left; rfl) | (right; right; right; left; rfl)⟩) | (right; right; exact ⟨0, .inr (.inr (.inr (.inr ⟨_, _, rfl⟩)))⟩)) h12))
  · exact g0

theorem calm_State_trigger {s v0 v1 v2} (g0 : Calm s v0) : Calm s (State.trigger v0 v1 v2) := by
  unfold State.trigger
  extract_lets -merge -underBinder +onlyGivenNames x0 x1
  obtain ⟨y1, e1, h1⟩ := CalmOf.name (x := x1) (.ite (.upd g0) g0)
  rw [e1]
  extract_lets -merge -underBinder +onlyGivenNames x2 x3
  obtain ⟨y3, e3, h3⟩ := CalmOf.name (x := x3) (.ite (.upd h1) h1)
  rw [e3]
  exact (calm_State_relinquish h3)

theorem calm_State_untrigger {s v0 v1} (g0 : Calm s v0) : Calm s (State.untrigger v0 v1) := by
  unfold State.untrigger
  exact (.upd g0)

theorem calm_doNop {s v0 v1} (g0 : Calm s v0) : Calm s (doNop v0 v1) := by
  unfold doNop
  exact (calm_State_finish g0)

theorem calm_doFence {s v0 v1} (g0 : Calm s v0) : Calm s (doFence v0 v1) := by
  unfold doFence
  exact (.ite (calm_State_finish g0) (calm_State_finish g0))

theorem calm_doUnknown {s v0 v1} (g0 : Calm s v0) : Calm s (doUnknown v0 v1) := by
  unfold doUnknown
  exact (calm_State_finish g0)

theorem calm_State_setSq {s v0 v1 v2 v3} (g0 : Calm s v0) : Calm s (State.setSq v0 v1 v2 v3) := by
  unfold State.setSq
  exact (.upd g0)

theorem calm_State_setCq {s v0 v1 v2 v3} (g0 : Calm s v0) : Calm s (State.setCq v0 v1 v2 v3) := by
  unfold State.setCq
  exact (.upd g0)

theorem calm_ringFault {s v0 v1 v2 v3} (g0 : Calm s v0) : Calm s (ringFault v0 v1 v2 v3) := by
  unfold ringFault
  exact (calm_State_raiseLimited counted g0)

theorem calm_badDoorbell {s v0 v1 v2} (g0 : Calm s v0) : Calm s (badDoorbell v0 v1 v2) := by
  unfold badDoorbell
  exact (calm_ringFault (calm_State_bump (by first | (left; decide) | (right; left; exact ⟨_, hl, .inl rfl⟩) | (right; left; exact ⟨_, hl, .inr rfl⟩) | (right; right; exact ⟨_, by first | (left; rfl) | (right; left; rfl) | (right; right; left; rfl) | (right; right; right; left; rfl)⟩) | (right; right; exact ⟨0, .inr (.inr (.inr (.inr ⟨_, _, rfl⟩)))⟩)) g0))

theorem calm_holdDoorbell {s v0 v1 v2 v3 v4 v5} (g0 : Calm s v0) : Calm s (holdDoorbell v0 v1 v2 v3 v4 v5) := by
  unfold holdDoorbell
  exact (.ite (.upd g0) g0)

theorem calm_sqDoorbell {s v0 v1 v2 v3 v4} (g0 : Calm s v0) : Calm s (sqDoorbell v0 v1 v2 v3 v4) := by
  unfold sqDoorbell
  refine CalmOf.ite ?_ ?_
  · exact (calm_holdDoorbell g0)
  · refine CalmOf.ite ?_ ?_
    · exact (calm_State_bump (by first | (left; decide) | (right; left; exact ⟨_, hl, .inl rfl⟩) | (right; left; exact ⟨_, hl, .inr rfl⟩) | (right; right; exact ⟨_, by first | (left; rfl) | (right; left; rfl) | (right; right; left; rfl) | (right; right; right; left; rfl)⟩) | (right; right; exact ⟨0, .inr (.inr (.inr (.inr ⟨_, _, rfl⟩)))⟩)) g0)
    · extract_lets -merge -underBinder +onlyGivenNames x0
      exact (.ite (calm_badDoorbell g0) (calm_State_setSq g0))

theorem calm_wakeSqs {s v0 v1 v2} (g0 : Calm s v0) : Calm s (wakeSqs v0 v1 v2) := by
  unfold wakeSqs
  refine CalmOf.foldl ?_ ?_
  · exact g0
  · intro x0 a0 h0
    extract_lets -merge -underBinder +onlyGivenNames x1
    exact (.ite (calm_State_setSq h0) h0)

theorem calm_cqDoorbell {s v0 v1 v2 v3 v4} (g0 : Calm s v0) : Calm s (cqDoorbell v0 v1 v2 v3 v4) := by
  unfold cqDoorbell
  refine CalmOf.ite ?_ ?_
  · exact (calm_holdDoorbell g0)
  · refine CalmOf.ite ?_ ?_
    · exact (calm_State_bump (by first | (left; decide) | (right; left; exact ⟨_, hl, .inl rfl⟩) | (right; left; exact ⟨_, hl, .inr rfl⟩) | (right; right; exact ⟨_, by first | (left; rfl) | (right; left; rfl) | (right; right; left; rfl) | (right; right; right; left; rfl)⟩) | (right; right; exact ⟨0, .inr (.inr (.inr (.inr ⟨_, _, rfl⟩)))⟩)) g0)
    · extract_lets -merge -underBinder +onlyGivenNames x0
      refine CalmOf.ite ?_ ?_
      · exact (calm_badDoorbell g0)
      · extract_lets -merge -underBinder +onlyGivenNames x1 x2 x3
        obtain ⟨y3, e3, h3⟩ := CalmOf.name (x := x3) (calm_State_setCq g0)
        rw [e3]
        exact (.ite (calm_State_raise counted (calm_wakeSqs h3)) (.ite (calm_State_raise counted h3) h3))

theorem calm_evqDoorbell {s v0 v1 v2 v3 v4} (g0 : Calm s v0) : Calm s (evqDoorbell v0 v1 v2 v3 v4) := by
  unfold evqDoorbell
  refine CalmOf.ite ?_ ?_
  · exact (calm_holdDoorbell g0)
  · refine CalmOf.ite ?_ ?_
    · exact (calm_State_bump (by first | (left; decide) | (right; left; exact ⟨_, hl, .inl rfl⟩) | (right; left; exact ⟨_, hl, .inr rfl⟩) | (right; right; exact ⟨_, by first | (left; rfl) | (right; left; rfl) | (right; right; left; rfl) | (right; right; right; left; rfl)⟩) | (right; right; exact ⟨0, .inr (.inr (.inr (.inr ⟨_, _, rfl⟩)))⟩)) g0)
    · extract_lets -merge -underBinder +onlyGivenNames x0
      refine CalmOf.ite ?_ ?_
      · split
        rename_i y1_0 x1 e1
        have h1 : Calm s x1 := CalmOf.of_2 e1 (by
          refine calm_State_fresh counted ?_
          exact g0)
        exact (calm_badDoorbell h1)
      · extract_lets -merge -underBinder +onlyGivenNames x2 x3 x4 x5 x6
        obtain ⟨y6, e6, h6⟩ := CalmOf.name (x := x6) (.upd g0)
        rw [e6]
        refine CalmOf.ite ?_ ?_
        · extract_lets -merge -underBinder +onlyGivenNames x7 x8 x9 x10
          obtain ⟨y10, e10, h10⟩ := CalmOf.name (x := x10) (.upd h6)
          rw [e10]
          extract_lets -merge -underBinder +onlyGivenNames x11
          obtain ⟨y11, e11, h11⟩ := CalmOf.name (x := x11) (calm_State_emit counted (.upd h10))
          rw [e11]
          exact (calm_evqWrite counted h11)
        · exact h6

theorem calm_takeDesc {s v0 v1 v2 v3} (g0 : Calm s v0) : Calm s (takeDesc v0 v1 v2 v3) := by
  unfold takeDesc
  extract_lets -merge -underBinder +onlyGivenNames x0 x1 x2 x3
  obtain ⟨y3, e3, h3⟩ := CalmOf.name (x := x3) (.ite (calm_State_hostRead counted g0) g0)
  rw [e3]
  exact (calm_State_setSq h3)

theorem calm_doFetch {s v0 v1 v2} (g0 : Calm s v0) : Calm s (doFetch v0 v1 v2) := by
  unfold doFetch
  split
  · exact g0
  · extract_lets -merge -underBinder +onlyGivenNames x0 x1 x2 x3 x4 x5
    obtain ⟨y5, e5, h5⟩ := CalmOf.name (x := x5) (.upd g0)
    rw [e5]
    refine CalmOf.ite ?_ ?_
    · extract_lets -merge -underBinder +onlyGivenNames x6
      obtain ⟨y6, e6, h6⟩ := CalmOf.name (x := x6) (calm_State_bump (by first | (left; decide) | (right; left; exact ⟨_, hl, .inl rfl⟩) | (right; left; exact ⟨_, hl, .inr rfl⟩) | (right; right; exact ⟨_, by first | (left; rfl) | (right; left; rfl) | (right; right; left; rfl) | (right; right; right; left; rfl)⟩) | (right; right; exact ⟨0, .inr (.inr (.inr (.inr ⟨_, _, rfl⟩)))⟩)) (calm_State_setSq h5))
      rw [e6]
      exact (calm_ringFault h6)
    · extract_lets -merge -underBinder +onlyGivenNames x7 x8 x9
      refine CalmOf.ite ?_ ?_
      · extract_lets -merge -underBinder +onlyGivenNames x10
        obtain ⟨y10, e10, h10⟩ := CalmOf.name (x := x10) (calm_takeDesc h5)
        rw [e10]
        exact (calm_ringFault (calm_State_bump (by first | (left; decide) | (right; left; exact ⟨_, hl, .inl rfl⟩) | (right; left; exact ⟨_, hl, .inr rfl⟩) | (right; right; exact ⟨_, by first | (left; rfl) | (right; left; rfl) | (right; right; left; rfl) | (right; right; right; left; rfl)⟩) | (right; right; exact ⟨0, .inr (.inr (.inr (.inr ⟨_, _, rfl⟩)))⟩)) h10))
      · refine CalmOf.ite ?_ ?_
        · exact (calm_State_setSq h5)
        · extract_lets -merge -underBinder +onlyGivenNames x11
          obtain ⟨y11, e11, h11⟩ := CalmOf.name (x := x11) (calm_takeDesc h5)
          rw [e11]
          exact (.upd h11)

theorem calm_doCompletion {s v0 v1 v2} (g0 : Calm s v0) : Calm s (doCompletion v0 v1 v2) := by
  unfold doCompletion
  split
  · exact g0
  · extract_lets -merge -underBinder +onlyGivenNames x0 x1 x2
    refine CalmOf.ite ?_ ?_
    · exact g0
    · extract_lets -merge -underBinder +onlyGivenNames x3 x4 x5
      obtain ⟨y5, e5, h5⟩ := CalmOf.name (x := x5) (.upd g0)
      rw [e5]
      extract_lets -merge -underBinder +onlyGivenNames x6
      obtain ⟨y6, e6, h6⟩ := CalmOf.name (x := x6) (calm_State_hostWrite counted h5)
      rw [e6]
      split
      rename_i y7_0 x7 e7
      have h7 : Calm s x7 := CalmOf.of_2 e7 (by
        refine calm_ringIrq counted ?_ ?_
        · intro x8_0 a8_1 a8_2 h8_0
          exact (calm_State_signal counted h8_0)
        · exact h6)
      extract_lets -merge -underBinder +onlyGivenNames x9
      obtain ⟨y9, e9, h9⟩ := CalmOf.name (x := x9) (calm_State_setCq h7)
      rw [e9]
      exact (.ite (calm_State_raise counted h9) h9)

theorem calm_cqSignal {s v0 v1 v2 v3} (g0 : Calm s v0) : Calm s (cqSignal v0 v1 v2 v3) := by
  unfold cqSignal
  extract_lets -merge -underBinder +onlyGivenNames x0 x1
  exact (.ite (calm_State_signal counted (calm_State_setCq g0)) g0)

theorem calm_evqSignal {s v0 v1 v2 v3} (g0 : Calm s v0) : Calm s (evqSignal v0 v1 v2 v3) := by
  unfold evqSignal
  extract_lets -merge -underBinder +onlyGivenNames x0 x1
  exact (.ite (calm_msixSignal counted (.upd g0)) g0)

theorem calm_doCoalesce {s v0 v1 v2} (g0 : Calm s v0) : Calm s (doCoalesce v0 v1 v2) := by
  unfold doCoalesce
  split
  · exact (calm_cqSignal g0)
  · exact (calm_evqSignal g0)

theorem calm_coalNow {s v0 v1 v2 v3 v4} (g0 : Calm s v0) : Calm s (coalNow v0 v1 v2 v3 v4) := by
  unfold coalNow
  exact (.ite (calm_cqSignal g0) (calm_evqSignal g0))

theorem calm_takeTemps {s v0 v1} (g0 : Calm s v0) : Calm s (takeTemps v0 v1) := by
  unfold takeTemps
  extract_lets -merge -underBinder +onlyGivenNames x0
  exact (CalmOf.upd g0 (by rfl) (by rfl) (by rfl) (by rfl))

theorem calm_abortJob {s v0 v1} (g0 : Calm s v0) : Calm s (abortJob v0 v1) := by
  unfold abortJob
  exact (.ite (calm_State_finish g0) (calm_State_finish g0))

end Machine
end Sys2Proof
end

