-- ==== Sys2Proof/Laws/CalmLanes.lean ====
section
/-! SUPPORT. The lanes leave links and registers alone, but for their own counters: a lemma calm_f for each operation f of the lanes. -/

set_option Elab.async false

namespace Sys2Proof
namespace Machine

theorem calm_State_setLane {s v0 v1 v2 v3} (g0 : Calm s v0) : Calm s (State.setLane v0 v1 v2 v3) := by
  unfold State.setLane
  exact (.upd g0)

theorem calm_laneLowEye {s v0 v1 v2} (g0 : Calm s v0) : Calm s (laneLowEye v0 v1 v2) := by
  unfold laneLowEye
  extract_lets -merge -underBinder +onlyGivenNames x0 x1 x2
  exact (.ite g0 (calm_State_raiseLimited counted (calm_State_setLane g0)))

theorem calm_lanePin {s v0 v1 v2} (g0 : Calm s v0) : Calm s (lanePin v0 v1 v2) := by
  unfold lanePin
  extract_lets -merge -underBinder +onlyGivenNames x0
  exact (.ite g0 (calm_State_raise counted (calm_State_setLane g0)))

theorem calm_startRun {s v0 v1 v2} (g0 : Calm s v0) : Calm s (startRun v0 v1 v2) := by
  unfold startRun
  extract_lets -merge -underBinder +onlyGivenNames x0
  exact (.ite g0 (calm_State_setLane g0))

theorem calm_endRun {s v0 v1 v2 v3} (hl : v1 < 11) (g0 : Calm s v0) : Calm s (endRun v0 v1 v2 v3) := by
  unfold endRun
  extract_lets -merge -underBinder +onlyGivenNames x0
  split
  · exact g0
  · extract_lets -merge -underBinder +onlyGivenNames x1 x2
    obtain ⟨y2, e2, h2⟩ := CalmOf.name (x := x2) (calm_State_bump (.inr (.inl ⟨_, hl, .inr rfl⟩)) (calm_State_setLane g0))
    rw [e2]
    extract_lets -merge -underBinder +onlyGivenNames x3
    obtain ⟨y3, e3, h3⟩ := CalmOf.name (x := x3) (calm_State_raise counted h2)
    rw [e3]
    exact (.ite (calm_startRun h3) h3)

theorem calm_ctleStep {s v0 v1 v2 v3 v4} (g0 : Calm s v0) : Calm s (ctleStep v0 v1 v2 v3 v4) := by
  unfold ctleStep
  extract_lets -merge -underBinder +onlyGivenNames x0
  exact (calm_State_setLane g0)

theorem calm_undoStep {s v0 v1 v2 v3 v4} (g0 : Calm s v0) : Calm s (undoStep v0 v1 v2 v3 v4) := by
  unfold undoStep
  exact (.ite (calm_State_setLane g0) (calm_ctleStep g0))

theorem calm_tryStep {s v0 v1 v2 v3} (hl : v1 < 11) (g0 : Calm s v0) : Calm s (tryStep v0 v1 v2 v3) := by
  unfold tryStep
  refine CalmOf.ite ?_ ?_
  · extract_lets -merge -underBinder +onlyGivenNames x0 x1
    obtain ⟨y1, e1, h1⟩ := CalmOf.name (x := x1) (calm_State_setLane g0)
    rw [e1]
    exact (calm_endRun hl (calm_lanePin h1))
  · exact (calm_ctleStep g0)

theorem calm_runScan {s v0 v1 v2 v3 v4} (hl : v1 < 11) (g0 : Calm s v0) : Calm s (runScan v0 v1 v2 v3 v4) := by
  unfold runScan
  extract_lets -merge -underBinder +onlyGivenNames x0
  split
  · extract_lets -merge -underBinder +onlyGivenNames x1
    obtain ⟨y1, e1, h1⟩ := CalmOf.name (x := x1) (calm_State_setLane g0)
    rw [e1]
    exact (calm_tryStep hl h1)
  · extract_lets -merge -underBinder +onlyGivenNames x2 x3
    refine CalmOf.ite ?_ ?_
    · exact (calm_tryStep hl g0)
    · refine CalmOf.ite ?_ ?_
      · exact (calm_endRun hl g0)
      · extract_lets -merge -underBinder +onlyGivenNames x4
        obtain ⟨y4, e4, h4⟩ := CalmOf.name (x := x4) (calm_undoStep g0)
        rw [e4]
        exact (.ite (calm_tryStep hl h4) h4)
  · exact (calm_endRun hl g0)

theorem calm_laneFigure {s v0 v1 v2 v3} (g0 : Calm s v0) : Calm s (laneFigure v0 v1 v2 v3) := by
  unfold laneFigure
  extract_lets -merge -underBinder +onlyGivenNames x0
  exact (calm_laneLowEye (calm_State_setLane g0))

theorem calm_doLaneScan {s v0 v1 v2 v3} (hl : v1 < 11) (g0 : Calm s v0) : Calm s (doLaneScan v0 v1 v2 v3) := by
  unfold doLaneScan
  extract_lets -merge -underBinder +onlyGivenNames x0
  refine CalmOf.ite ?_ ?_
  · exact g0
  · split
    · exact (calm_laneFigure g0)
    · exact (.ite g0 (calm_runScan hl (calm_laneFigure g0)))

theorem calm_doClassT {s v0 v1 v2 v3} (hl : v1 < 11) (g0 : Calm s v0) : Calm s (doClassT v0 v1 v2 v3) := by
  unfold doClassT
  exact (.ite (calm_doLaneScan hl g0) g0)

theorem calm_doLaneTemp {s v0 v1 v2 v3} (g0 : Calm s v0) : Calm s (doLaneTemp v0 v1 v2 v3) := by
  unfold doLaneTemp
  extract_lets -merge -underBinder +onlyGivenNames x0 x1
  obtain ⟨y1, e1, h1⟩ := CalmOf.name (x := x1) (calm_takeTemps g0)
  rw [e1]
  exact (.ite (calm_startRun h1) h1)

theorem calm_doCorrection {s v0 v1 v2} (g0 : Calm s v0) : Calm s (doCorrection v0 v1 v2) := by
  unfold doCorrection
  extract_lets -merge -underBinder +onlyGivenNames x0
  split
  · exact g0
  · extract_lets -merge -underBinder +onlyGivenNames x1 x2
    exact (.ite (calm_State_setLane g0) (.ite (calm_State_setLane g0) (calm_State_setLane g0)))

theorem calm_onLanes {s v0 v1} (g0 : Calm s v0) (g1 : ∀ u0 u1, Calm s u0 → Calm s (v1 u0 u1)) : Calm s (onLanes v0 v1) := by
  unfold onLanes
  exact (g1 _ _ (g1 _ _ g0))

theorem calm_laneToOvr {s v0 v1 v2} (g0 : Calm s v0) : Calm s (laneToOvr v0 v1 v2) := by
  unfold laneToOvr
  exact (calm_State_setLane g0)

theorem calm_laneAdapt {s v0 v1 v2} (g0 : Calm s v0) : Calm s (laneAdapt v0 v1 v2) := by
  unfold laneAdapt
  split
  · split
    rename_i y0_0 x0 e0
    have h0 : Calm s x0 := CalmOf.of_2 e0 (by
      refine calm_State_fresh counted ?_
      exact g0)
    split
    rename_i y1_0 x1 e1
    have h1 : Calm s x1 := CalmOf.of_2 e1 (by
      refine calm_State_fresh counted ?_
      exact h0)
    split
    rename_i y2_0 x2 e2
    have h2 : Calm s x2 := CalmOf.of_2 e2 (by
      refine calm_State_fresh counted ?_
      exact h1)
    split
    rename_i y3_0 x3 e3
    have h3 : Calm s x3 := CalmOf.of_2 e3 (by
      refine calm_State_fresh counted ?_
      exact h2)
    split
    rename_i y4_0 x4 e4
    have h4 : Calm s x4 := CalmOf.of_2 e4 (by
      refine calm_State_fresh counted ?_
      exact h3)
    split
    rename_i y5_0 x5 e5
    have h5 : Calm s x5 := CalmOf.of_2 e5 (by
      refine calm_State_fresh counted ?_
      exact h4)
    extract_lets -merge -underBinder +onlyGivenNames x6 x7 x8 x9
    obtain ⟨y9, e9, h9⟩ := CalmOf.name (x := x9) (calm_State_setLane h5)
    rw [e9]
    exact (.ite (calm_laneToOvr h9) h9)

theorem calm_laneDown {s v0 v1 v2} (hl : v1 < 11) (g0 : Calm s v0) : Calm s (laneDown v0 v1 v2) := by
  unfold laneDown
  extract_lets -merge -underBinder +onlyGivenNames x0 x1
  obtain ⟨y1, e1, h1⟩ := CalmOf.name (x := x1) (calm_endRun hl (calm_State_setLane g0))
  rw [e1]
  exact (calm_State_setLane h1)

theorem calm_laneRevert {s v0 v1 v2} (hl : v1 < 11) (g0 : Calm s v0) : Calm s (laneRevert v0 v1 v2) := by
  unfold laneRevert
  split
  · exact g0
  · extract_lets -merge -underBinder +onlyGivenNames x0
    obtain ⟨y0, e0, h0⟩ := CalmOf.name (P := Counted) (s := s) (x := x0) (by
      unfold x0
      split
      · exact (calm_undoStep g0)
      · exact g0)
    rw [e0]
    exact (calm_endRun hl h0)

theorem calm_lanesFollow {s v0 v1 v2} (hl : v2 < 11) (g0 : Calm s v0) (g1 : Calm s v1) : Calm s (lanesFollow v0 v1 v2) := by
  unfold lanesFollow
  extract_lets -merge -underBinder +onlyGivenNames x0 x1 x2
  obtain ⟨y2, e2, h2⟩ := CalmOf.name (P := Counted) (s := s) (x := x2) (by
    unfold x2
    refine CalmOf.ite ?_ ?_
    · refine calm_onLanes ?_ ?_
      · exact g1
      · intro x3_0 a3_1 h3_0
        exact (calm_laneAdapt h3_0)
    · exact g1)
  rw [e2]
  extract_lets -merge -underBinder +onlyGivenNames x4
  obtain ⟨y4, e4, h4⟩ := CalmOf.name (P := Counted) (s := s) (x := x4) (by
    unfold x4
    refine CalmOf.ite ?_ ?_
    · refine calm_onLanes ?_ ?_
      · exact h2
      · intro x5_0 a5_1 h5_0
        exact (calm_State_setLane h5_0)
    · exact h2)
  rw [e4]
  extract_lets -merge -underBinder +onlyGivenNames x6
  obtain ⟨y6, e6, h6⟩ := CalmOf.name (P := Counted) (s := s) (x := x6) (by
    unfold x6
    refine CalmOf.ite ?_ ?_
    · refine calm_onLanes ?_ ?_
      · exact h4
      · intro x7_0 a7_1 h7_0
        exact (calm_laneDown hl h7_0)
    · exact h4)
  rw [e6]
  extract_lets -merge -underBinder +onlyGivenNames x8
  refine CalmOf.ite ?_ ?_
  · refine calm_onLanes ?_ ?_
    · exact h6
    · intro x9_0 a9_1 h9_0
      exact (calm_laneRevert hl h9_0)
  · exact h6

theorem calm_allLanesFollow {s v0 v1} (g0 : Calm s v0) (g1 : Calm s v1) : Calm s (allLanesFollow v0 v1) := by
  unfold allLanesFollow
  refine CalmOf.foldlMem ?_ ?_
  · exact g1
  · intro x0 a0 m0 h0
    exact (calm_lanesFollow (List.mem_range.1 m0) g0 h0)

theorem calm_laneNewBound {s v0 v1} (g0 : Calm s v0) : Calm s (laneNewBound v0 v1) := by
  unfold laneNewBound
  split
  · refine calm_onLanes ?_ ?_
    · exact g0
    · intro x0_0 a0_1 h0_0
      extract_lets -merge -underBinder +onlyGivenNames x1
      exact (.ite h0_0 (.ite (calm_State_setLane h0_0) (.ite (calm_State_setLane h0_0) h0_0)))

end Machine
end Sys2Proof
end

