-- ==== Sys2Proof/Laws/Frames.lean ====
section
/-! SUPPORT. Frames: how they compose, and what an update of one part changes. -/

set_option Elab.async false

namespace Sys2Proof
namespace Machine

theorem Frame.refl (m : List Part) (s : State) : Frame m s s := fun p => .inr (by cases p <;> simp [same])

theorem same.trans {p : Part} {s t u : State} (h : same p s t) (k : same p t u) : same p s u := by
  cases p
  case time =>
    have h' : { t.time with links := s.time.links } = s.time := h
    have k' : { u.time with links := t.time.links } = t.time := k
    have e : { u.time with links := s.time.links } = { t.time with links := s.time.links } :=
      congrArg (fun x : TimeRec => { x with links := s.time.links }) k'
    exact e.trans h'
  all_goals simp_all [same]

theorem Frame.trans {m : List Part} {s t u : State} (h : Frame m s t) (k : Frame m t u) : Frame m s u := fun p =>
  (h p).elim .inl (fun hp => (k p).elim .inl (fun kp => .inr (hp.trans kp)))

theorem Frame.mono {a b : List Part} {s t : State} (h : Frame a s t) (hs : a ⊆ b) : Frame b s t := fun p =>
  (h p).elim (fun x => .inl (hs x)) .inr

/-- An update of several parts. -/
theorem Frame.upd {m : List Part} {s t u : State} (h : Frame m s t) (hu : ∀ p, p ∈ m ∨ same p t u) : Frame m s u := h.trans hu

/-- A part outside the frame is as it was. -/
theorem Frame.keep {m : List Part} {s t : State} (h : Frame m s t) (p : Part) (hp : p ∉ m) : same p s t :=
  (h p).resolve_left hp

/-- A part of the list is in every list that holds it. -/
theorem sub {a b m : List Part} (hm : b ⊆ m) (h : ∀ p ∈ a, p ∈ b) : a ⊆ m := fun _ hp => hm (h _ hp)

theorem Frame.pending {m : List Part} {s t : State} {x} (hm : Part.pending ∈ m) (h : Frame m s t) :
    Frame m s { t with pending := x } := fun p => by
  cases p <;> first | exact .inl hm | exact h _

theorem Frame.held {m : List Part} {s t : State} {x} (hm : Part.held ∈ m) (h : Frame m s t) :
    Frame m s { t with held := x } := fun p => by
  cases p <;> first | exact .inl hm | exact h _

theorem Frame.out {m : List Part} {s t : State} {x} (hm : Part.out ∈ m) (h : Frame m s t) :
    Frame m s { t with out := x } := fun p => by
  cases p <;> first | exact .inl hm | exact h _

theorem Frame.clk {m : List Part} {s t : State} {x} (hm : Part.clk ∈ m) (h : Frame m s t) :
    Frame m s { t with clk := x } := fun p => by
  cases p <;> first | exact .inl hm | exact h _

theorem Frame.ft {m : List Part} {s t : State} {x} (hm : Part.ft ∈ m) (h : Frame m s t) :
    Frame m s { t with ft := x } := fun p => by
  cases p <;> first | exact .inl hm | exact h _

theorem Frame.free {m : List Part} {s t : State} {x} (hm : Part.free ∈ m) (h : Frame m s t) :
    Frame m s { t with free := x } := fun p => by
  cases p <;> first | exact .inl hm | exact h _

theorem Frame.evSeq {m : List Part} {s t : State} {x} (hm : Part.evSeq ∈ m) (h : Frame m s t) :
    Frame m s { t with evSeq := x } := fun p => by
  cases p <;> first | exact .inl hm | exact h _

theorem Frame.rate {m : List Part} {s t : State} {x} (hm : Part.rate ∈ m) (h : Frame m s t) :
    Frame m s { t with rate := x } := fun p => by
  cases p <;> first | exact .inl hm | exact h _

theorem Frame.regs {m : List Part} {s t : State} {x} (hm : Part.regs ∈ m) (hc : Part.sysCtl ∈ m) (h : Frame m s t) :
    Frame m s { t with regs := x } := fun p => by
  cases p <;> first | exact .inl hm | exact .inl hc | exact h _

/-- An offset that no configuration register of region SYS has. -/
def OffSys (off : Nat) : Prop := 0x200000 ≤ off ∨ configMask off = 0

theorem Frame.regsAt {m : List Part} {s t : State} {off : Nat} {v : U32} (hm : Part.regs ∈ m) (ho : OffSys off) (h : Frame m s t) :
    Frame m s { t with regs := t.regs.set off v } := h.trans fun p => by
  cases p
  case regs => exact .inl hm
  case sysCtl =>
    refine .inr fun o hl hc => ?_
    have : o ≠ off := fun e => by subst e; exact ho.elim (fun h1 => absurd hl (Nat.not_lt.mpr h1)) hc
    simp [this]
  all_goals first | exact .inr rfl | exact .inr (fun _ _ _ => rfl) | exact .inr ⟨rfl, rfl⟩ | exact .inr ⟨rfl, rfl, rfl⟩ | exact .inr ⟨rfl, rfl, rfl, rfl⟩

/-- Registers of an array that begins behind region SYS. -/
theorem offSys_add {b : Nat} (k : Nat) (h : 0x200000 ≤ b) : OffSys (b + k) := .inl (Nat.le_add_right_of_le h)
theorem offSys_encReg {b : Nat} (k : Nat) (h : 0x200000 ≤ b) : OffSys (encReg b k) := offSys_add _ h
theorem offSys_ctxReg {b : Nat} (k : Nat) (h : 0x200000 ≤ b) : OffSys (ctxReg b k) := offSys_add _ h
theorem offSys_tchOff {b : Nat} (k : Nat) (h : 0x200000 ≤ b) : OffSys (tchOff b k) := offSys_add _ h
theorem offSys_evqOff {b : Nat} (w k : Nat) (h : 0x200000 ≤ b) : OffSys (evqOff w k b) :=
  offSys_add _ (Nat.le_add_left_of_le h)

/-- Registers behind region SYS lose their contents. -/
theorem get?_drop {α : Type} (t : Tab α) {lo hi off : Nat} (h : off < lo) :
    Tab.get? (t.filter (fun e => !(decide (lo ≤ e.1) && decide (e.1 < hi)))) off = t.get? off := by
  induction t with
  | nil => rfl
  | cons e t ih =>
    obtain ⟨j, w⟩ := e
    by_cases hj : lo ≤ j ∧ j < hi
    · have : off ≠ j := by omega
      rw [List.filter_cons, if_neg (by simp [hj.1, hj.2]), ih]
      simp [Tab.get?, this]
    · rw [List.filter_cons, if_pos (by simp; omega)]
      by_cases ho : off = j <;> simp [Tab.get?, ho]
      simpa using ih

theorem Frame.mem {m : List Part} {s t : State} {x} (hm : Part.mem ∈ m) (h : Frame m s t) :
    Frame m s { t with mem := x } := fun p => by
  cases p <;> first | exact .inl hm | exact h _

theorem Frame.otp {m : List Part} {s t : State} {x} (hm : Part.otp ∈ m) (h : Frame m s t) :
    Frame m s { t with otp := x } := fun p => by
  cases p <;> first | exact .inl hm | exact h _

theorem Frame.aon {m : List Part} {s t : State} {x} (hm : Part.aon ∈ m) (h : Frame m s t) :
    Frame m s { t with aon := x } := fun p => by
  cases p <;> first | exact .inl hm | exact h _

theorem Frame.straps {m : List Part} {s t : State} {x} (hm : Part.straps ∈ m) (h : Frame m s t) :
    Frame m s { t with straps := x } := fun p => by
  cases p <;> first | exact .inl hm | exact h _

theorem Frame.mode {m : List Part} {s t : State} {x y z} (hm : Part.mode ∈ m) (h : Frame m s t) :
    Frame m s { t with sys := { t.sys with mode := x, cause := y, wakeSrc := z } } := fun p => by
  cases p <;> first | exact .inl hm | exact h _

theorem Frame.ready {m : List Part} {s t : State} {x} (hm : Part.ready ∈ m) (h : Frame m s t) :
    Frame m s { t with sys := { t.sys with ready := x } } := fun p => by
  cases p <;> first | exact .inl hm | exact h _

theorem Frame.power {m : List Part} {s t : State} {x} (hm : Part.power ∈ m) (h : Frame m s t) :
    Frame m s { t with sys := { t.sys with power := x } } := fun p => by
  cases p <;> first | exact .inl hm | exact h _

theorem Frame.boot {m : List Part} {s t : State} {x} (hm : Part.boot ∈ m) (h : Frame m s t) :
    Frame m s { t with sys := { t.sys with boot := x } } := fun p => by
  cases p <;> first | exact .inl hm | exact h _

theorem Frame.mbx {m : List Part} {s t : State} {x} (hm : Part.mbx ∈ m) (h : Frame m s t) :
    Frame m s { t with sys := { t.sys with mbx := x } } := fun p => by
  cases p <;> first | exact .inl hm | exact h _

theorem Frame.mpu {m : List Part} {s t : State} {x} (hm : Part.mpu ∈ m) (h : Frame m s t) :
    Frame m s { t with sys := { t.sys with mpu := x } } := fun p => by
  cases p <;> first | exact .inl hm | exact h _

theorem Frame.parity {m : List Part} {s t : State} {x} (hm : Part.parity ∈ m) (h : Frame m s t) :
    Frame m s { t with sys := { t.sys with parity := x } } := fun p => by
  cases p <;> first | exact .inl hm | exact h _

theorem Frame.dap {m : List Part} {s t : State} {x} (hm : Part.dap ∈ m) (h : Frame m s t) :
    Frame m s { t with sys := { t.sys with dap := x } } := fun p => by
  cases p <;> first | exact .inl hm | exact h _

theorem Frame.therm {m : List Part} {s t : State} {x} (hm : Part.therm ∈ m) (h : Frame m s t) :
    Frame m s { t with sys := { t.sys with therm := x } } := fun p => by
  cases p <;> first | exact .inl hm | exact h _

theorem Frame.dorm {m : List Part} {s t : State} {x y} (hm : Part.dorm ∈ m) (h : Frame m s t) :
    Frame m s { t with sys := { t.sys with dorm := x, wakeEv := y } } := fun p => by
  cases p <;> first | exact .inl hm | exact h _

theorem Frame.rings {m : List Part} {s t : State} {x y z w} (hm : Part.rings ∈ m) (h : Frame m s t) :
    Frame m s { t with host := { t.host with sq := x, cq := y, evq := z, lastSq := w } } := fun p => by
  cases p <;> first | exact .inl hm | exact h _

theorem Frame.done {m : List Part} {s t : State} {x} (hm : Part.done ∈ m) (h : Frame m s t) :
    Frame m s { t with host := { t.host with done := x } } := fun p => by
  cases p <;> first | exact .inl hm | exact h _

theorem Frame.inFlight {m : List Part} {s t : State} {x} (hm : Part.inFlight ∈ m) (h : Frame m s t) :
    Frame m s { t with host := { t.host with inFlight := x } } := fun p => by
  cases p <;> first | exact .inl hm | exact h _

theorem Frame.irq {m : List Part} {s t : State} {x y} (hm : Part.irq ∈ m) (h : Frame m s t) :
    Frame m s { t with host := { t.host with msix := x, pba := y } } := fun p => by
  cases p <;> first | exact .inl hm | exact h _

theorem Frame.dma {m : List Part} {s t : State} {x} (hm : Part.dma ∈ m) (h : Frame m s t) :
    Frame m s { t with host := { t.host with dma := x } } := fun p => by
  cases p <;> first | exact .inl hm | exact h _

theorem Frame.pcie {m : List Part} {s t : State} {x} (hm : Part.pcie ∈ m) (h : Frame m s t) :
    Frame m s { t with host := { t.host with pcie := x } } := fun p => by
  cases p <;> first | exact .inl hm | exact h _

theorem Frame.dormDb {m : List Part} {s t : State} {x} (hm : Part.dormDb ∈ m) (h : Frame m s t) :
    Frame m s { t with host := { t.host with dormDb := x } } := fun p => by
  cases p <;> first | exact .inl hm | exact h _

theorem Frame.links {m : List Part} {s t : State} {x} (hm : Part.links ∈ m) (h : Frame m s t) :
    Frame m s { t with fab := { t.fab with links := x } } := fun p => by
  cases p <;> first | exact .inl hm | exact h _

theorem Frame.mgmt {m : List Part} {s t : State} {x y} (hm : Part.mgmt ∈ m) (h : Frame m s t) :
    Frame m s { t with fab := { t.fab with reqs := x, resps := y } } := fun p => by
  cases p <;> first | exact .inl hm | exact h _

theorem Frame.evSeqs {m : List Part} {s t : State} {x} (hm : Part.evSeqs ∈ m) (h : Frame m s t) :
    Frame m s { t with fab := { t.fab with evSeqs := x } } := fun p => by
  cases p <;> first | exact .inl hm | exact h _

theorem Frame.localQ {m : List Part} {s t : State} {x} (hm : Part.localQ ∈ m) (h : Frame m s t) :
    Frame m s { t with fab := { t.fab with localQ := x } } := fun p => by
  cases p <;> first | exact .inl hm | exact h _

theorem Frame.domain {m : List Part} {s t : State} {x y z} (hm : Part.domain ∈ m) (h : Frame m s t) :
    Frame m s { t with fab := { t.fab with domain := x, claimed := y, tephraUsed := z } } := fun p => by
  cases p <;> first | exact .inl hm | exact h _

theorem Frame.dram {m : List Part} {s t : State} {x} (hm : Part.dram ∈ m) (h : Frame m s t) :
    Frame m s { t with dram := x } := fun p => by
  cases p <;> first | exact .inl hm | exact h _

theorem Frame.chans {m : List Part} {s t : State} {x} (hm : Part.chans ∈ m) (h : Frame m s t) :
    Frame m s { t with chans := x } := fun p => by
  cases p <;> first | exact .inl hm | exact h _

theorem Frame.pair {m : List Part} {s t : State} {x} (hm : Part.pair ∈ m) (h : Frame m s t) :
    Frame m s { t with pair := x } := fun p => by
  cases p <;> first | exact .inl hm | exact h _

theorem Frame.mir {m : List Part} {s t : State} {x} (hm : Part.mir ∈ m) (h : Frame m s t) :
    Frame m s { t with mir := x } := fun p => by
  cases p <;> first | exact .inl hm | exact h _

theorem Frame.commits {m : List Part} {s t : State} {x} (hm : Part.commits ∈ m) (h : Frame m s t) :
    Frame m s { t with commits := x } := fun p => by
  cases p <;> first | exact .inl hm | exact h _

theorem Frame.time {m : List Part} {s t : State} {x : TimeRec} (hm : Part.time ∈ m) (h : Frame m s t) (hx : x.links = t.time.links := by rfl) :
    Frame m s { t with time := x } := h.trans fun p => by
  cases p
  case time => exact .inl hm
  case exch => exact .inr hx
  all_goals first | exact .inr rfl | exact .inr (fun _ _ _ => rfl) | exact .inr ⟨rfl, rfl⟩ | exact .inr ⟨rfl, rfl, rfl⟩ | exact .inr ⟨rfl, rfl, rfl, rfl⟩

theorem Frame.exch {m : List Part} {s t : State} {x} (hm : Part.exch ∈ m) (h : Frame m s t) :
    Frame m s { t with time := { t.time with links := x } } := fun p => by
  cases p <;> first | exact .inl hm | exact h _

theorem Frame.surf {m : List Part} {s t : State} {x} (hm : Part.surf ∈ m) (h : Frame m s t) :
    Frame m s { t with surf := x } := fun p => by
  cases p <;> first | exact .inl hm | exact h _

theorem Frame.fum {m : List Part} {s t : State} {x} (hm : Part.fum ∈ m) (h : Frame m s t) :
    Frame m s { t with fum := x } := fun p => by
  cases p <;> first | exact .inl hm | exact h _

theorem Frame.dec {m : List Part} {s t : State} {x} (hm : Part.dec ∈ m) (h : Frame m s t) :
    Frame m s { t with dec := x } := fun p => by
  cases p <;> first | exact .inl hm | exact h _

theorem Frame.caps {m : List Part} {s t : State} {x} (hm : Part.caps ∈ m) (h : Frame m s t) :
    Frame m s { t with caps := x } := fun p => by
  cases p <;> first | exact .inl hm | exact h _

theorem Frame.encs {m : List Part} {s t : State} {x} (hm : Part.encs ∈ m) (h : Frame m s t) :
    Frame m s { t with encs := x } := fun p => by
  cases p <;> first | exact .inl hm | exact h _

theorem Frame.cmp {m : List Part} {s t : State} {x} (hm : Part.cmp ∈ m) (h : Frame m s t) :
    Frame m s { t with cmp := x } := fun p => by
  cases p <;> first | exact .inl hm | exact h _

theorem Frame.scan {m : List Part} {s t : State} {x} (hm : Part.scan ∈ m) (h : Frame m s t) :
    Frame m s { t with scan := x } := fun p => by
  cases p <;> first | exact .inl hm | exact h _

theorem Frame.touch {m : List Part} {s t : State} {x} (hm : Part.touch ∈ m) (h : Frame m s t) :
    Frame m s { t with touch := x } := fun p => by
  cases p <;> first | exact .inl hm | exact h _

theorem Frame.lanes {m : List Part} {s t : State} {x} (hm : Part.lanes ∈ m) (h : Frame m s t) :
    Frame m s { t with lanes := x } := fun p => by
  cases p <;> first | exact .inl hm | exact h _

theorem Frame.ite {m : List Part} {s a b : State} {c : Prop} [Decidable c] (ha : Frame m s a) (hb : Frame m s b) : Frame m s (if c then a else b) := by
  split <;> assumption

theorem Frame.ite1 {α : Type} {m : List Part} {s : State} {a b : State × α} {c : Prop} [Decidable c] (ha : Frame m s a.1) (hb : Frame m s b.1) :
    Frame m s (if c then a else b).1 := by
  split <;> assumption

theorem Frame.ite2 {α : Type} {m : List Part} {s : State} {a b : α × State} {c : Prop} [Decidable c] (ha : Frame m s a.2) (hb : Frame m s b.2) :
    Frame m s (if c then a else b).2 := by
  split <;> assumption

theorem Frame.opt {m : List Part} {s u : State} (h : Frame m s u) : ∀ t, some u = some t → Frame m s t := by
  intro t e
  cases e
  exact h

theorem Frame.optIte {m : List Part} {s u : State} {o : Option State} {c : Prop} [Decidable c] (h : Frame m s u) (ho : ∀ t, o = some t → Frame m s t) :
    ∀ t, (if c then some u else o) = some t → Frame m s t := by
  split
  · exact h.opt
  · exact ho

theorem Frame.optNone {m : List Part} {s : State} : ∀ t, (none : Option State) = some t → Frame m s t := by
  intro t e
  cases e

theorem Frame.foldl {α : Type} {m : List Part} {s t : State} {f : State → α → State} {xs : List α} (h : Frame m s t)
    (hf : ∀ u a, Frame m s u → Frame m s (f u a)) : Frame m s (xs.foldl f t) := by
  induction xs generalizing t with
  | nil => exact h
  | cons x xs ih => exact ih (hf _ _ h)

theorem Frame.foldlMem {α : Type} {m : List Part} {s t : State} {f : State → α → State} {xs : List α} (h : Frame m s t)
    (hf : ∀ u a, a ∈ xs → Frame m s u → Frame m s (f u a)) : Frame m s (xs.foldl f t) := by
  induction xs generalizing t with
  | nil => exact h
  | cons x xs ih => exact ih (hf _ _ (by simp) h) (fun u a ha => hf u a (by simp [ha]))

theorem Frame.foldl1 {α β : Type} {m : List Part} {s : State} {p : State × β} {f : State × β → α → State × β} {xs : List α} (h : Frame m s p.1)
    (hf : ∀ u a, Frame m s u.1 → Frame m s (f u a).1) : Frame m s (xs.foldl f p).1 := by
  induction xs generalizing p with
  | nil => exact h
  | cons x xs ih => exact ih (hf _ _ h)

theorem Frame.foldl2 {α β : Type} {m : List Part} {s : State} {p : β × State} {f : β × State → α → β × State} {xs : List α} (h : Frame m s p.2)
    (hf : ∀ u a, Frame m s u.2 → Frame m s (f u a).2) : Frame m s (xs.foldl f p).2 := by
  induction xs generalizing p with
  | nil => exact h
  | cons x xs ih => exact ih (hf _ _ h)

theorem Frame.foldl21 {α β γ : Type} {m : List Part} {s : State} {p : β × State × γ} {f : β × State × γ → α → β × State × γ} {xs : List α}
    (h : Frame m s p.2.1) (hf : ∀ u a, Frame m s u.2.1 → Frame m s (f u a).2.1) : Frame m s (xs.foldl f p).2.1 := by
  induction xs generalizing p with
  | nil => exact h
  | cons x xs ih => exact ih (hf _ _ h)

theorem Frame.foldl22 {α β γ : Type} {m : List Part} {s : State} {p : β × γ × State} {f : β × γ × State → α → β × γ × State} {xs : List α}
    (h : Frame m s p.2.2) (hf : ∀ u a, Frame m s u.2.2 → Frame m s (f u a).2.2) : Frame m s (xs.foldl f p).2.2 := by
  induction xs generalizing p with
  | nil => exact h
  | cons x xs ih => exact ih (hf _ _ h)

theorem Frame.name {m : List Part} {s x : State} (h : Frame m s x) : ∃ y, x = y ∧ Frame m s y := ⟨_, rfl, h⟩

theorem Frame.name1 {α : Type} {m : List Part} {s : State} {x : State × α} (h : Frame m s x.1) : ∃ y, x = y ∧ Frame m s y.1 := ⟨_, rfl, h⟩

theorem Frame.name2 {α : Type} {m : List Part} {s : State} {x : α × State} (h : Frame m s x.2) : ∃ y, x = y ∧ Frame m s y.2 := ⟨_, rfl, h⟩

theorem Frame.name21 {α β : Type} {m : List Part} {s : State} {x : α × State × β} (h : Frame m s x.2.1) : ∃ y, x = y ∧ Frame m s y.2.1 := ⟨_, rfl, h⟩

theorem Frame.mk1 {α : Type} {m : List Part} {s t : State} {a : α} (h : Frame m s t) : Frame m s (t, a).1 := h

theorem Frame.mk2 {α : Type} {m : List Part} {s t : State} {a : α} (h : Frame m s t) : Frame m s (a, t).2 := h

theorem Frame.mk21 {α β : Type} {m : List Part} {s : State} {a : α} {p : State × β} (h : Frame m s p.1) : Frame m s (a, p).2.1 := h

theorem Frame.mk22 {α β : Type} {m : List Part} {s : State} {a : α} {p : β × State} (h : Frame m s p.2) : Frame m s (a, p).2.2 := h

theorem Frame.of_1 {α : Type} {m : List Part} {s u : State} {a : α} {p : State × α} (e : p = (u, a)) (h : Frame m s p.1) : Frame m s u := by
  subst e; exact h

theorem Frame.of_2 {α : Type} {m : List Part} {s u : State} {a : α} {p : α × State} (e : p = (a, u)) (h : Frame m s p.2) : Frame m s u := by
  subst e; exact h

theorem Frame.of_2_1 {α β : Type} {m : List Part} {s u : State} {a : α} {b : β} {p : α × State × β} (e : p = (a, u, b)) (h : Frame m s p.2.1) :
    Frame m s u := by
  subst e; exact h

theorem Frame.of_2_2 {α β : Type} {m : List Part} {s u : State} {a : α} {b : β} {p : α × β × State} (e : p = (a, b, u)) (h : Frame m s p.2.2) :
    Frame m s u := by
  subst e; exact h

end Machine
end Sys2Proof
end

