-- ==== Sys2Proof/Laws/FramesCore.lean ====
section
/-! SUPPORT. Which parts of the state the primitive updates, events, packets, rings, the MPU, completions and the release of ownership can change, said once for each operation: a lemma frame_f says that the operation f
changes no part outside the list of its hypothesis. -/

set_option Elab.async false

namespace Sys2Proof
namespace Machine

theorem frame_State_setReg {m s v0 v1 v2} (hm : ([.regs] : List Part) ⊆ m) (g0 : Frame m s v0)
    (ho : OffSys v1 := by first | exact .inl (by decide) | exact .inr (by decide) | exact offSys_add _ (by decide) | exact offSys_encReg _ (by decide) | exact offSys_ctxReg _ (by decide) | exact offSys_tchOff _ (by decide) | exact offSys_evqOff _ _ (by decide) | exact offSys_add _ (Nat.le_add_right_of_le (by decide))) :
    Frame m s (State.setReg v0 v1 v2) := by
  unfold State.setReg
  exact (.regsAt (hm (by decide)) ho g0)

theorem frame_State_bumpBy {m s v0 v1 v2} (hm : ([.regs] : List Part) ⊆ m) (g0 : Frame m s v0)
    (ho : OffSys v1 := by first | exact .inl (by decide) | exact .inr (by decide) | exact offSys_add _ (by decide) | exact offSys_encReg _ (by decide) | exact offSys_ctxReg _ (by decide) | exact offSys_tchOff _ (by decide) | exact offSys_evqOff _ _ (by decide) | exact offSys_add _ (Nat.le_add_right_of_le (by decide))) :
    Frame m s (State.bumpBy v0 v1 v2) := by
  unfold State.bumpBy
  exact (.regsAt (hm (by decide)) ho g0)

/-- A write of any register. -/
theorem frame_State_setReg_any {m s v0 v1 v2} (hm : ([.regs, .sysCtl] : List Part) ⊆ m) (g0 : Frame m s v0) : Frame m s (State.setReg v0 v1 v2) := by
  unfold State.setReg
  exact (.regs (hm (by decide)) (hm (by decide)) g0)

theorem frame_State_bump {m s v0 v1} (hm : ([.regs] : List Part) ⊆ m) (g0 : Frame m s v0)
    (ho : OffSys v1 := by first | exact .inl (by decide) | exact .inr (by decide) | exact offSys_add _ (by decide) | exact offSys_encReg _ (by decide) | exact offSys_ctxReg _ (by decide) | exact offSys_tchOff _ (by decide) | exact offSys_evqOff _ _ (by decide) | exact offSys_add _ (Nat.le_add_right_of_le (by decide))) :
    Frame m s (State.bump v0 v1) := by
  unfold State.bump
  exact (frame_State_bumpBy (sub hm (by decide)) g0 ho)

theorem frame_State_emit {m s v0 v1} (hm : ([.out] : List Part) ⊆ m) (g0 : Frame m s v0) : Frame m s (State.emit v0 v1) := by
  unfold State.emit
  exact (.out (hm (by decide)) g0)

theorem frame_State_fresh {m s v0} (hm : ([.free] : List Part) ⊆ m) (g0 : Frame m s v0) : Frame m s (State.fresh v0).2 := by
  unfold State.fresh
  refine Frame.mk2 ?_
  exact (.free (hm (by decide)) g0)

theorem frame_freeBytes {m s v0 v1} (hm : ([.free] : List Part) ⊆ m) (g1 : Frame m s v1) : Frame m s (freeBytes v0 v1).2 := by
  induction v0 generalizing v1 with
  | zero =>
    rw [freeBytes]
    refine Frame.mk2 ?_
    exact g1
  | succ v ih =>
    rw [freeBytes]
    split
    rename_i y0_0 x0 e0
    have h0 : Frame m s x0 := Frame.of_2 e0 (by
      refine frame_State_fresh (sub hm (by decide)) ?_
      exact g1)
    split
    rename_i y1_0 x1 e1
    have h1 : Frame m s x1 := Frame.of_2 e1 (by
      refine ih ?_
      exact h0)
    refine Frame.mk2 ?_
    exact h1

theorem frame_State_rateMark {m s v0 v1} (hm : ([.rate] : List Part) ⊆ m) (g0 : Frame m s v0) : Frame m s (State.rateMark v0 v1) := by
  unfold State.rateMark
  exact (.rate (hm (by decide)) g0)

theorem frame_State_setLink {m s v0 v1 v2} (hm : ([.links] : List Part) ⊆ m) (g0 : Frame m s v0) : Frame m s (State.setLink v0 v1 v2) := by
  unfold State.setLink
  exact (.links (hm (by decide)) g0)

theorem frame_State_setTlink {m s v0 v1 v2} (hm : ([.exch] : List Part) ⊆ m) (g0 : Frame m s v0) : Frame m s (State.setTlink v0 v1 v2) := by
  unfold State.setTlink
  exact (.exch (hm (by decide)) g0)

theorem frame_departs {m s v0 v1 v2} (hm : ([.out, .exch] : List Part) ⊆ m) (g0 : Frame m s v0) : Frame m s (departs v0 v1 v2) := by
  unfold departs
  refine Frame.ite ?_ ?_
  · exact g0
  · extract_lets -merge -underBinder +onlyGivenNames x0
    obtain ⟨y0, e0, h0⟩ := Frame.name (x := x0) (frame_State_emit (sub hm (by decide)) (frame_State_emit (sub hm (by decide)) g0))
    rw [e0]
    refine Frame.ite ?_ ?_
    · exact h0
    · extract_lets -merge -underBinder +onlyGivenNames x1
      exact (frame_State_setTlink (sub hm (by decide)) h0)

theorem frame_sendOn {m s v0 v1 v2 v3} (hm : ([.links, .out] : List Part) ⊆ m) (g0 : Frame m s v0) : Frame m s (sendOn v0 v1 v2 v3) := by
  unfold sendOn
  extract_lets -merge -underBinder +onlyGivenNames x0
  exact (frame_State_emit (sub hm (by decide)) (frame_State_emit (sub hm (by decide)) (frame_State_setLink (sub hm (by decide)) g0)))

theorem frame_tephraCount {m s v0 v1 v2} (hm : ([.links, .regs] : List Part) ⊆ m) (g0 : ∀ u0 u1 u2, Frame m s u0 → Frame m s (v0 u0 u1 u2)) (g1 : Frame m s v1) : Frame m s (tephraCount v0 v1 v2) := by
  unfold tephraCount
  extract_lets -merge -underBinder +onlyGivenNames x0 x1 x2 x3
  obtain ⟨y3, e3, h3⟩ := Frame.name (x := x3) (frame_State_bump (sub hm (by decide)) (frame_State_setLink (sub hm (by decide)) g1))
  rw [e3]
  refine Frame.ite ?_ ?_
  · extract_lets -merge -underBinder +onlyGivenNames x4 x5 x6
    obtain ⟨y6, e6, h6⟩ := Frame.name (x := x6) (frame_State_setLink (sub hm (by decide)) h3)
    rw [e6]
    exact g0 _ _ _ h6
  · exact h3

theorem frame_startNext {m s v0 v1 v2 v3} (hm : ([.links, .out, .exch, .regs] : List Part) ⊆ m) (g0 : ∀ u0 u1 u2, Frame m s u0 → Frame m s (v0 u0 u1 u2)) (g2 : Frame m s v2) : Frame m s (startNext v0 v1 v2 v3) := by
  induction v1 generalizing v2 v3 with
  | zero =>
    rw [startNext]
    exact g2
  | succ v ih =>
    rw [startNext]
    refine Frame.ite ?_ ?_
    · exact g2
    · split
      · extract_lets -merge -underBinder +onlyGivenNames x0 x1
        obtain ⟨y1, e1, h1⟩ := Frame.name (x := x1) (frame_departs (sub hm (by decide)) (frame_State_setLink (sub hm (by decide)) g2))
        rw [e1]
        extract_lets -merge -underBinder +onlyGivenNames x2
        exact (frame_sendOn (sub hm (by decide)) h1)
      · split
        · exact g2
        · extract_lets -merge -underBinder +onlyGivenNames x3
          split
          · extract_lets -merge -underBinder +onlyGivenNames x4
            obtain ⟨y4, e4, h4⟩ := Frame.name (x := x4) (frame_State_setLink (sub hm (by decide)) g2)
            rw [e4]
            refine Frame.ite ?_ ?_
            · split
              · exact (ih (frame_tephraCount (sub hm (by decide)) g0 h4))
              · extract_lets -merge -underBinder +onlyGivenNames x5
                obtain ⟨y5, e5, h5⟩ := Frame.name (x := x5) (frame_departs (sub hm (by decide)) h4)
                rw [e5]
                extract_lets -merge -underBinder +onlyGivenNames x6
                refine Frame.ite ?_ ?_
                · extract_lets -merge -underBinder +onlyGivenNames x7 x8
                  exact (frame_tephraCount (sub hm (by decide)) g0 (frame_sendOn (sub hm (by decide)) h5))
                · extract_lets -merge -underBinder +onlyGivenNames x9 x10 x11
                  exact (frame_tephraCount (sub hm (by decide)) g0 (frame_sendOn (sub hm (by decide)) h5))
              · extract_lets -merge -underBinder +onlyGivenNames x12 x13
                obtain ⟨y13, e13, h13⟩ := Frame.name (x := x13) (frame_State_setLink (sub hm (by decide)) h4)
                rw [e13]
                exact (ih (frame_tephraCount (sub hm (by decide)) g0 h13))
              · exact (frame_sendOn (sub hm (by decide)) h4)
            · extract_lets -merge -underBinder +onlyGivenNames x14 x15
              obtain ⟨y15, e15, h15⟩ := Frame.name (x := x15) (frame_departs (sub hm (by decide)) (frame_State_setLink (sub hm (by decide)) h4))
              rw [e15]
              extract_lets -merge -underBinder +onlyGivenNames x16
              exact (frame_sendOn (sub hm (by decide)) h15)

theorem frame_fabDrop {m s v0 v1 v2 v3 v4} (hm : ([.rate] : List Part) ⊆ m) (g0 : ∀ u0 u1 u2, Frame m s u0 → Frame m s (v0 u0 u1 u2)) (g1 : Frame m s v1) : Frame m s (fabDrop v0 v1 v2 v3 v4) := by
  unfold fabDrop
  extract_lets -merge -underBinder +onlyGivenNames x0
  exact (.ite (g0 _ _ _ (frame_State_rateMark (sub hm (by decide)) g1)) g1)

theorem frame_enqueue {m s v0 v1 v2 v3} (hm : ([.links, .out, .exch, .regs, .rate] : List Part) ⊆ m) (g0 : ∀ u0 u1 u2, Frame m s u0 → Frame m s (v0 u0 u1 u2)) (g1 : Frame m s v1) : Frame m s (enqueue v0 v1 v2 v3) := by
  unfold enqueue
  extract_lets -merge -underBinder +onlyGivenNames x0 x1
  refine Frame.ite ?_ ?_
  · exact (frame_startNext (sub hm (by decide)) g0 (frame_State_setLink (sub hm (by decide)) g1))
  · extract_lets -merge -underBinder +onlyGivenNames x2
    obtain ⟨y2, e2, h2⟩ := Frame.name (x := x2) (frame_State_bump (sub hm (by decide)) g1)
    rw [e2]
    exact (frame_fabDrop (sub hm (by decide)) g0 h2)

theorem frame_noRoute {m s v0 v1 v2} (hm : ([.regs, .rate] : List Part) ⊆ m) (g0 : ∀ u0 u1 u2, Frame m s u0 → Frame m s (v0 u0 u1 u2)) (g1 : Frame m s v1) : Frame m s (noRoute v0 v1 v2) := by
  unfold noRoute
  extract_lets -merge -underBinder +onlyGivenNames x0
  obtain ⟨y0, e0, h0⟩ := Frame.name (x := x0) (frame_State_bump (sub hm (by decide)) g1)
  rw [e0]
  exact (frame_fabDrop (sub hm (by decide)) g0 h0)

theorem frame_deliver {m s v0 v1} (hm : ([.localQ, .out] : List Part) ⊆ m) (g0 : Frame m s v0) : Frame m s (deliver v0 v1) := by
  unfold deliver
  exact (frame_State_emit (sub hm (by decide)) (.localQ (hm (by decide)) g0))

theorem frame_deliverAlias {m s v0 v1 v2} (hm : ([.localQ, .out, .regs, .rate] : List Part) ⊆ m) (g0 : ∀ u0 u1 u2, Frame m s u0 → Frame m s (v0 u0 u1 u2)) (g1 : Frame m s v1) : Frame m s (deliverAlias v0 v1 v2) := by
  unfold deliverAlias
  exact (.ite (.ite (frame_deliver (sub hm (by decide)) g1) (frame_State_bump (sub hm (by decide)) g1)) (frame_noRoute (sub hm (by decide)) g0 g1))

theorem frame_passOn {m s v0 v1 v2 v3 v4} (hm : ([.links, .out, .exch, .regs, .rate] : List Part) ⊆ m) (g0 : ∀ u0 u1 u2, Frame m s u0 → Frame m s (v0 u0 u1 u2)) (g1 : Frame m s v1) : Frame m s (passOn v0 v1 v2 v3 v4) := by
  unfold passOn
  extract_lets -merge -underBinder +onlyGivenNames x0 x1
  obtain ⟨y1, e1, h1⟩ := Frame.name (x := x1) (frame_enqueue (sub hm (by decide)) g0 g1)
  rw [e1]
  exact (.ite (frame_State_setLink (sub hm (by decide)) h1) h1)

theorem frame_routeDirected {m s v0 v1 v2 v3} (hm : ([.localQ, .out, .links, .exch, .regs, .rate] : List Part) ⊆ m) (g0 : ∀ u0 u1 u2, Frame m s u0 → Frame m s (v0 u0 u1 u2)) (g1 : Frame m s v1) : Frame m s (routeDirected v0 v1 v2 v3) := by
  unfold routeDirected
  extract_lets -merge -underBinder +onlyGivenNames x0 x1
  refine Frame.ite ?_ ?_
  · extract_lets -merge -underBinder +onlyGivenNames x2
    exact (.ite (frame_passOn (sub hm (by decide)) g0 g1) (frame_noRoute (sub hm (by decide)) g0 g1))
  · exact (frame_deliver (sub hm (by decide)) g1)

theorem frame_forward {m s v0 v1 v2 v3 v4} (hm : ([.links, .out, .exch, .regs, .rate] : List Part) ⊆ m) (g0 : ∀ u0 u1 u2, Frame m s u0 → Frame m s (v0 u0 u1 u2)) (g1 : Frame m s v1) : Frame m s (forward v0 v1 v2 v3 v4) := by
  unfold forward
  refine Frame.ite ?_ ?_
  · exact (frame_passOn (sub hm (by decide)) g0 g1)
  · extract_lets -merge -underBinder +onlyGivenNames x0
    obtain ⟨y0, e0, h0⟩ := Frame.name (x := x0) (frame_State_bump (sub hm (by decide)) g1)
    rw [e0]
    exact (frame_fabDrop (sub hm (by decide)) g0 h0)

theorem frame_routeWith {m s v0 v1 v2 v3} (hm : ([.regs, .rate, .localQ, .out, .links, .exch] : List Part) ⊆ m) (g0 : ∀ u0 u1 u2, Frame m s u0 → Frame m s (v0 u0 u1 u2)) (g1 : Frame m s v1) : Frame m s (routeWith v0 v1 v2 v3) := by
  unfold routeWith
  refine Frame.ite ?_ ?_
  · extract_lets -merge -underBinder +onlyGivenNames x0
    obtain ⟨y0, e0, h0⟩ := Frame.name (x := x0) (frame_State_bump (sub hm (by decide)) g1)
    rw [e0]
    exact (frame_fabDrop (sub hm (by decide)) g0 h0)
  · extract_lets -merge -underBinder +onlyGivenNames x1
    refine Frame.ite ?_ ?_
    · exact (frame_noRoute (sub hm (by decide)) g0 g1)
    · refine Frame.ite ?_ ?_
      · exact (frame_State_bump (sub hm (by decide)) g1)
      · refine Frame.ite ?_ ?_
        · refine Frame.ite ?_ ?_
          · exact (frame_routeDirected (sub hm (by decide)) g0 g1)
          · split
            · exact (frame_State_bump (sub hm (by decide)) g1)
            · exact g1
        · refine Frame.ite ?_ ?_
          · extract_lets -merge -underBinder +onlyGivenNames x2 x3
            obtain ⟨y3, e3, h3⟩ := Frame.name (m := m) (s := s) (x := x3) (by
              unfold x3
              refine Frame.foldl ?_ ?_
              · exact g1
              · intro x4 a4 h4
                exact (.ite (frame_forward (sub hm (by decide)) g0 h4) h4))
            rw [e3]
            exact (.ite (frame_deliver (sub hm (by decide)) h3) h3)
          · refine Frame.ite ?_ ?_
            · exact (frame_deliverAlias (sub hm (by decide)) g0 g1)
            · refine Frame.ite ?_ ?_
              · exact (frame_deliver (sub hm (by decide)) g1)
              · refine Frame.ite ?_ ?_
                · exact (frame_noRoute (sub hm (by decide)) g0 g1)
                · extract_lets -merge -underBinder +onlyGivenNames x5
                  exact (.ite (frame_deliver (sub hm (by decide)) g1) (.ite (frame_forward (sub hm (by decide)) g0 g1) (frame_noRoute (sub hm (by decide)) g0 g1)))

theorem frame_State_setRequester {m s v0 v1 v2} (hm : ([.mgmt] : List Part) ⊆ m) (g0 : Frame m s v0) : Frame m s (State.setRequester v0 v1 v2) := by
  unfold State.setRequester
  exact (.mgmt (hm (by decide)) g0)

theorem frame_mgmtIssue {m s v0 v1 v2 v3} (hm : ([.mgmt, .regs, .rate, .localQ, .out, .links, .exch] : List Part) ⊆ m) (g0 : ∀ u0 u1 u2, Frame m s u0 → Frame m s (v0 u0 u1 u2)) (g1 : Frame m s v1) : Frame m s (mgmtIssue v0 v1 v2 v3) := by
  unfold mgmtIssue
  extract_lets -merge -underBinder +onlyGivenNames x0
  refine Frame.ite ?_ ?_
  · extract_lets -merge -underBinder +onlyGivenNames x1 x2 x3 x4
    obtain ⟨y4, e4, h4⟩ := Frame.name (x := x4) (frame_State_setRequester (sub hm (by decide)) g1)
    rw [e4]
    exact (frame_routeWith (sub hm (by decide)) g0 h4)
  · exact (frame_State_setRequester (sub hm (by decide)) g1)

theorem frame_dmaRequest {m s v0 v1 v2 v3 v4 v5 v6 v7 v8} (hm : ([.mgmt, .regs, .rate, .localQ, .out, .links, .exch] : List Part) ⊆ m) (g0 : ∀ u0 u1 u2, Frame m s u0 → Frame m s (v0 u0 u1 u2)) (g1 : Frame m s v1) : Frame m s (dmaRequest v0 v1 v2 v3 v4 v5 v6 v7 v8) := by
  unfold dmaRequest
  extract_lets -merge -underBinder +onlyGivenNames x0 x1
  exact (frame_mgmtIssue (sub hm (by decide)) g0 g1)

theorem frame_dmaWrites {m s v0 v1 v2 v3 v4 v5 v6} (hm : ([.mgmt, .regs, .rate, .localQ, .out, .links, .exch] : List Part) ⊆ m) (g0 : ∀ u0 u1 u2, Frame m s u0 → Frame m s (v0 u0 u1 u2)) (g3 : Frame m s v3) : Frame m s (dmaWrites v0 v1 v2 v3 v4 v5 v6) := by
  induction v2 generalizing v1 v3 v4 v5 v6 with
  | zero =>
    rw [dmaWrites]
    exact g3
  | succ v ih =>
    rw [dmaWrites]
    exact (.ite g3 (ih (frame_dmaRequest (sub hm (by decide)) g0 g3)))

theorem frame_hostWriteR {m s v0 v1 v2 v3 v4 v5} (hm : ([.out, .mgmt, .regs, .rate, .localQ, .links, .exch] : List Part) ⊆ m) (g0 : ∀ u0 u1 u2, Frame m s u0 → Frame m s (v0 u0 u1 u2)) (g1 : Frame m s v1) : Frame m s (hostWriteR v0 v1 v2 v3 v4 v5) := by
  unfold hostWriteR
  exact (.ite (frame_State_emit (sub hm (by decide)) g1) (.ite (frame_dmaWrites (sub hm (by decide)) g0 g1) g1))

theorem frame_msixSignal {m s v0 v1 v2} (hm : ([.irq, .out] : List Part) ⊆ m) (g0 : Frame m s v0) : Frame m s (msixSignal v0 v1 v2) := by
  unfold msixSignal
  exact (.ite (.irq (hm (by decide)) g0) (frame_State_emit (sub hm (by decide)) g0))

theorem frame_signalR {m s v0 v1 v2 v3} (hm : ([.irq, .out, .mgmt, .regs, .rate, .localQ, .links, .exch] : List Part) ⊆ m) (g0 : ∀ u0 u1 u2, Frame m s u0 → Frame m s (v0 u0 u1 u2)) (g1 : Frame m s v1) : Frame m s (signalR v0 v1 v2 v3) := by
  unfold signalR
  exact (.ite (frame_msixSignal (sub hm (by decide)) g1) (.ite (frame_dmaRequest (sub hm (by decide)) g0 g1) g1))

theorem frame_ringIrq {m s v0 v1 v2 v3 v4} (hm : ([] : List Part) ⊆ m) (g0 : ∀ u0 u1 u2, Frame m s u0 → Frame m s (v0 u0 u1 u2)) (g1 : Frame m s v1) : Frame m s (ringIrq v0 v1 v2 v3 v4).2 := by
  unfold ringIrq
  extract_lets -merge -underBinder +onlyGivenNames x0 x1
  refine Frame.ite2 ?_ ?_
  · refine Frame.mk2 ?_
    exact g0 _ _ _ g1
  · refine Frame.mk2 ?_
    exact g1

theorem frame_evqWrite {m s v0 v1 v2 v3} (hm : ([.rings, .regs, .out, .irq] : List Part) ⊆ m) (g0 : Frame m s v0) : Frame m s (evqWrite v0 v1 v2 v3) := by
  unfold evqWrite
  extract_lets -merge -underBinder +onlyGivenNames x0 x1 x2 x3
  refine Frame.ite ?_ ?_
  · exact g0
  · refine Frame.ite ?_ ?_
    · exact (frame_State_bump (sub hm (by decide)) (.rings (hm (by decide)) g0))
    · extract_lets -merge -underBinder +onlyGivenNames x4 x5
      obtain ⟨y5, e5, h5⟩ := Frame.name (x := x5) (frame_State_emit (sub hm (by decide)) g0)
      rw [e5]
      split
      rename_i y6_0 x6 e6
      have h6 : Frame m s x6 := Frame.of_2 e6 (by
        refine frame_ringIrq (sub hm (by decide)) ?_ ?_
        · intro x7_0 a7_1 a7_2 h7_0
          exact (frame_msixSignal (sub hm (by decide)) h7_0)
        · exact h5)
      exact (.rings (hm (by decide)) h6)

theorem frame_evqDeliver {m s v0 v1 v2} (hm : ([.rings, .regs, .out, .irq] : List Part) ⊆ m) (g0 : Frame m s v0) : Frame m s (evqDeliver v0 v1 v2) := by
  unfold evqDeliver
  extract_lets -merge -underBinder +onlyGivenNames x0
  refine Frame.foldl ?_ ?_
  · exact g0
  · intro x1 a1 h1
    exact (.ite (frame_evqWrite (sub hm (by decide)) h1) h1)

theorem frame_sendRecord {m s v0 v1 v2 v3} (hm : ([.rings, .regs, .out, .irq, .rate, .localQ, .links, .exch] : List Part) ⊆ m) (g0 : ∀ u0 u1 u2, Frame m s u0 → Frame m s (v0 u0 u1 u2)) (g1 : Frame m s v1) : Frame m s (sendRecord v0 v1 v2 v3) := by
  unfold sendRecord
  exact (.ite (frame_evqDeliver (sub hm (by decide)) g1) (.ite (frame_routeWith (sub hm (by decide)) g0 g1) g1))

theorem frame_raiseN {m s v0 v1 v2 v3} (hm : ([.evSeq, .out, .dorm, .rings, .regs, .irq, .rate, .localQ, .links, .exch] : List Part) ⊆ m) (g1 : Frame m s v1) : Frame m s (raiseN v0 v1 v2 v3) := by
  induction v0 generalizing v1 v2 v3 with
  | zero =>
    rw [raiseN]
    exact (frame_State_emit (sub hm (by decide)) (.evSeq (hm (by decide)) g1))
  | succ v ih =>
    rw [raiseN]
    split
    · refine Frame.ite ?_ ?_
      · exact (.dorm (hm (by decide)) (frame_State_emit (sub hm (by decide)) (.evSeq (hm (by decide)) g1)))
      · refine frame_sendRecord (sub hm (by decide)) ?_ ?_
        · intro x0_0 a0_1 a0_2 h0_0
          exact ih h0_0
        · exact (frame_State_emit (sub hm (by decide)) (.evSeq (hm (by decide)) g1))
    · refine frame_sendRecord (sub hm (by decide)) ?_ ?_
      · intro x1_0 a1_1 a1_2 h1_0
        exact ih h1_0
      · exact (frame_State_emit (sub hm (by decide)) (.evSeq (hm (by decide)) g1))

theorem frame_State_raise {m s v0 v1 v2} (hm : ([.evSeq, .out, .dorm, .rings, .regs, .irq, .rate, .localQ, .links, .exch] : List Part) ⊆ m) (g0 : Frame m s v0) : Frame m s (State.raise v0 v1 v2) := by
  unfold State.raise
  exact (frame_raiseN (sub hm (by decide)) g0)

theorem frame_State_raiseLimited {m s v0 v1 v2 v3 v4} (hm : ([.rate, .evSeq, .out, .dorm, .rings, .regs, .irq, .localQ, .links, .exch] : List Part) ⊆ m) (g0 : Frame m s v0) : Frame m s (State.raiseLimited v0 v1 v2 v3 v4) := by
  unfold State.raiseLimited
  exact (.ite (frame_State_raise (sub hm (by decide)) (frame_State_rateMark (sub hm (by decide)) g0)) g0)

theorem frame_State_routePkt {m s v0 v1 v2} (hm : ([.evSeq, .out, .dorm, .rings, .regs, .irq, .rate, .localQ, .links, .exch] : List Part) ⊆ m) (g0 : Frame m s v0) : Frame m s (State.routePkt v0 v1 v2) := by
  unfold State.routePkt
  exact (frame_routeWith (sub hm (by decide)) (fun _ _ _ h => frame_State_raise (sub hm (by decide)) h) g0)

theorem frame_State_hostWrite {m s v0 v1 v2 v3} (hm : ([.evSeq, .out, .dorm, .rings, .regs, .irq, .rate, .localQ, .links, .exch, .mgmt] : List Part) ⊆ m) (g0 : Frame m s v0) : Frame m s (State.hostWrite v0 v1 v2 v3) := by
  unfold State.hostWrite
  exact (frame_hostWriteR (sub hm (by decide)) (fun _ _ _ h => frame_State_raise (sub hm (by decide)) h) g0)

theorem frame_State_signal {m s v0 v1 v2} (hm : ([.evSeq, .out, .dorm, .rings, .regs, .irq, .rate, .localQ, .links, .exch, .mgmt] : List Part) ⊆ m) (g0 : Frame m s v0) : Frame m s (State.signal v0 v1 v2) := by
  unfold State.signal
  exact (frame_signalR (sub hm (by decide)) (fun _ _ _ h => frame_State_raise (sub hm (by decide)) h) g0)

theorem frame_State_hostRead {m s v0 v1 v2 v3 v4} (hm : ([.out, .evSeq, .dorm, .rings, .regs, .irq, .rate, .localQ, .links, .exch, .mgmt] : List Part) ⊆ m) (g0 : Frame m s v0) : Frame m s (State.hostRead v0 v1 v2 v3 v4) := by
  unfold State.hostRead
  refine Frame.ite ?_ ?_
  · exact (frame_State_emit (sub hm (by decide)) g0)
  · refine Frame.ite ?_ ?_
    · refine Frame.foldl ?_ ?_
      · exact g0
      · intro x0 a0 h0
        exact (frame_dmaRequest (sub hm (by decide)) (fun _ _ _ h => frame_State_raise (sub hm (by decide)) h) h0)
    · exact g0

theorem frame_State_masterRead {m s v0 v1 v2 v3 v4} (hm : ([.free, .out, .evSeq, .dorm, .rings, .regs, .irq, .rate, .localQ, .links, .exch, .mgmt] : List Part) ⊆ m) (g0 : Frame m s v0) : Frame m s (State.masterRead v0 v1 v2 v3 v4).2 := by
  unfold State.masterRead
  refine Frame.ite2 ?_ ?_
  · split
    rename_i y0_0 x0 e0
    have h0 : Frame m s x0 := Frame.of_2 e0 (by
      refine frame_freeBytes (sub hm (by decide)) ?_
      exact (frame_State_emit (sub hm (by decide)) g0))
    refine Frame.mk2 ?_
    exact h0
  · refine Frame.ite2 ?_ ?_
    · refine Frame.mk2 ?_
      refine Frame.foldl ?_ ?_
      · exact g0
      · intro x1 a1 h1
        exact (frame_dmaRequest (sub hm (by decide)) (fun _ _ _ h => frame_State_raise (sub hm (by decide)) h) h1)
    · refine Frame.mk2 ?_
      exact g0

theorem frame_State_setReady {m s v0 v1 v2} (hm : ([.ready, .evSeq, .out, .dorm, .rings, .regs, .irq, .rate, .localQ, .links, .exch] : List Part) ⊆ m) (g0 : Frame m s v0) : Frame m s (State.setReady v0 v1 v2) := by
  unfold State.setReady
  exact (.ite g0 (frame_State_raise (sub hm (by decide)) (.ready (hm (by decide)) g0)))

theorem frame_State_setMode {m s v0 v1 v2} (hm : ([.mode, .evSeq, .out, .dorm, .rings, .regs, .irq, .rate, .localQ, .links, .exch] : List Part) ⊆ m) (g0 : Frame m s v0) : Frame m s (State.setMode v0 v1 v2) := by
  unfold State.setMode
  refine Frame.ite ?_ ?_
  · exact g0
  · extract_lets -merge -underBinder +onlyGivenNames x0
    exact (frame_State_raise (sub hm (by decide)) (.mode (hm (by decide)) g0))

theorem frame_State_raf {m s v0 v1 v2 v3 v4 v5} (hm : ([.regs, .evSeq, .out, .dorm, .rings, .irq, .rate, .localQ, .links, .exch] : List Part) ⊆ m) (g0 : Frame m s v0) : Frame m s (State.raf v0 v1 v2 v3 v4 v5) := by
  unfold State.raf
  extract_lets -merge -underBinder +onlyGivenNames x0
  obtain ⟨y0, e0, h0⟩ := Frame.name (x := x0) (frame_State_bump (sub hm (by decide)) g0)
  rw [e0]
  refine Frame.ite ?_ ?_
  · exact h0
  · extract_lets -merge -underBinder +onlyGivenNames x1 x2
    obtain ⟨y2, e2, h2⟩ := Frame.name (x := x2) (frame_State_setReg (sub hm (by decide)) h0)
    rw [e2]
    extract_lets -merge -underBinder +onlyGivenNames x3
    obtain ⟨y3, e3, h3⟩ := Frame.name (x := x3) (frame_State_setReg (sub hm (by decide)) h2)
    rw [e3]
    exact (frame_State_raise (sub hm (by decide)) h3)

theorem frame_State_mpuDeny {m s v0 v1 v2 v3 v4} (hm : ([.regs, .evSeq, .out, .dorm, .rings, .irq, .rate, .localQ, .links, .exch] : List Part) ⊆ m) (g0 : Frame m s v0) : Frame m s (State.mpuDeny v0 v1 v2 v3 v4) := by
  unfold State.mpuDeny
  extract_lets -merge -underBinder +onlyGivenNames x0
  obtain ⟨y0, e0, h0⟩ := Frame.name (x := x0) (frame_State_bump (sub hm (by decide)) g0)
  rw [e0]
  refine Frame.ite ?_ ?_
  · exact h0
  · extract_lets -merge -underBinder +onlyGivenNames x1
    obtain ⟨y1, e1, h1⟩ := Frame.name (x := x1) (frame_State_setReg (sub hm (by decide)) h0)
    rw [e1]
    extract_lets -merge -underBinder +onlyGivenNames x2
    obtain ⟨y2, e2, h2⟩ := Frame.name (x := x2) (frame_State_setReg (sub hm (by decide)) h1)
    rw [e2]
    exact (frame_State_raise (sub hm (by decide)) h2)

theorem frame_State_addrFault {m s v0 v1 v2} (hm : ([.regs, .rate, .evSeq, .out, .dorm, .rings, .irq, .localQ, .links, .exch] : List Part) ⊆ m) (g0 : Frame m s v0) : Frame m s (State.addrFault v0 v1 v2) := by
  unfold State.addrFault
  exact (frame_State_raiseLimited (sub hm (by decide)) (frame_State_bump (sub hm (by decide)) g0))

theorem frame_State_askSeg {m s v0 v1} (hm : ([.dram] : List Part) ⊆ m) (g0 : Frame m s v0) : Frame m s (State.askSeg v0 v1) := by
  unfold State.askSeg
  extract_lets -merge -underBinder +onlyGivenNames x0
  exact (.ite g0 (.dram (hm (by decide)) g0))

theorem frame_State_wrBlock {m s v0 v1 v2 v3} (hm : ([.regs, .evSeq, .out, .dorm, .rings, .irq, .rate, .localQ, .links, .exch, .mem, .dram] : List Part) ⊆ m) (g0 : Frame m s v0) : Frame m s (State.wrBlock v0 v1 v2 v3).1 := by
  unfold State.wrBlock
  refine Frame.ite1 ?_ ?_
  · refine Frame.mk1 ?_
    exact (frame_State_mpuDeny (sub hm (by decide)) g0)
  · refine Frame.ite1 ?_ ?_
    · refine Frame.mk1 ?_
      exact g0
    · refine Frame.ite1 ?_ ?_
      · refine Frame.mk1 ?_
        exact (frame_State_askSeg (sub hm (by decide)) (.mem (hm (by decide)) g0))
      · refine Frame.ite1 ?_ ?_
        · refine Frame.mk1 ?_
          exact (frame_State_addrFault (sub hm (by decide)) g0)
        · refine Frame.mk1 ?_
          exact g0

theorem frame_State_rdBlock {m s v0 v1 v2 v3} (hm : ([.regs, .evSeq, .out, .dorm, .rings, .irq, .rate, .localQ, .links, .exch, .dram] : List Part) ⊆ m) (g0 : Frame m s v0) : Frame m s (State.rdBlock v0 v1 v2 v3).2.1 := by
  unfold State.rdBlock
  extract_lets -merge -underBinder +onlyGivenNames x0
  split
  · refine Frame.mk21 ?_
    refine Frame.mk1 ?_
    exact (frame_State_mpuDeny (sub hm (by decide)) g0)
  · split
    · refine Frame.mk21 ?_
      refine Frame.mk1 ?_
      exact g0
    · split
      · refine Frame.mk21 ?_
        refine Frame.mk1 ?_
        exact (frame_State_askSeg (sub hm (by decide)) g0)
      · split
        · refine Frame.mk21 ?_
          refine Frame.mk1 ?_
          exact (frame_State_addrFault (sub hm (by decide)) g0)
        · refine Frame.mk21 ?_
          refine Frame.mk1 ?_
          exact g0

theorem frame_State_memWr {m s v0 v1 v2 v3} (hm : ([.regs, .evSeq, .out, .dorm, .rings, .irq, .rate, .localQ, .links, .exch, .mem, .dram] : List Part) ⊆ m) (g0 : Frame m s v0) : Frame m s (State.memWr v0 v1 v2 v3).1 := by
  unfold State.memWr
  refine Frame.foldl1 ?_ ?_
  · refine Frame.mk1 ?_
    exact g0
  · intro x0 a0 h0
    split
    split
    split
    rename_i x1 y1_1 e1
    have h1 : Frame m s x1 := Frame.of_1 e1 (by
      refine frame_State_wrBlock (sub hm (by decide)) ?_
      exact h0)
    refine Frame.mk1 ?_
    exact h1

theorem frame_State_memRd {m s v0 v1 v2 v3} (hm : ([.regs, .evSeq, .out, .dorm, .rings, .irq, .rate, .localQ, .links, .exch, .dram] : List Part) ⊆ m) (g0 : Frame m s v0) : Frame m s (State.memRd v0 v1 v2 v3).2.1 := by
  unfold State.memRd
  refine Frame.foldl21 ?_ ?_
  · refine Frame.mk21 ?_
    refine Frame.mk1 ?_
    exact g0
  · intro x0 a0 h0
    split
    split
    split
    rename_i y1_0 x1 y1_2 e1
    have h1 : Frame m s x1 := Frame.of_2_1 e1 (by
      refine frame_State_rdBlock (sub hm (by decide)) ?_
      exact h0)
    refine Frame.mk21 ?_
    refine Frame.mk1 ?_
    exact h1

theorem frame_State_memWrTill {m s v0 v1 v2 v3} (hm : ([.regs, .evSeq, .out, .dorm, .rings, .irq, .rate, .localQ, .links, .exch, .mem, .dram] : List Part) ⊆ m) (g0 : Frame m s v0) : Frame m s (State.memWrTill v0 v1 v2 v3).1 := by
  unfold State.memWrTill
  split
  · refine frame_State_memWr (sub hm (by decide)) ?_
    exact g0
  · refine Frame.mk1 ?_
    refine frame_State_mpuDeny (sub hm (by decide)) ?_
    refine frame_State_memWr (sub hm (by decide)) ?_
    exact g0

theorem frame_mirrorPump {m s v0 v1} (hm : ([.mir, .evSeq, .out, .dorm, .rings, .regs, .irq, .rate, .localQ, .links, .exch] : List Part) ⊆ m) (g1 : Frame m s v1) : Frame m s (mirrorPump v0 v1) := by
  induction v0 generalizing v1 with
  | zero =>
    rw [mirrorPump]
    exact g1
  | succ v ih =>
    rw [mirrorPump]
    split
    · exact g1
    · extract_lets -merge -underBinder +onlyGivenNames x0 x1
      refine Frame.ite ?_ ?_
      · extract_lets -merge -underBinder +onlyGivenNames x2 x3
        obtain ⟨y3, e3, h3⟩ := Frame.name (x := x3) (.mir (hm (by decide)) g1)
        rw [e3]
        exact (ih (frame_enqueue (sub hm (by decide)) (fun _ _ _ h => frame_State_raise (sub hm (by decide)) h) h3))
      · exact g1

theorem frame_mirrorPacket {m s v0 v1 v2 v3 v4 v5 v6 v7 v8} (hm : ([.mir] : List Part) ⊆ m) (g0 : Frame m s v0) : Frame m s (mirrorPacket v0 v1 v2 v3 v4 v5 v6 v7 v8) := by
  unfold mirrorPacket
  extract_lets -merge -underBinder +onlyGivenNames x0 x1
  exact (.mir (hm (by decide)) g0)

theorem frame_mirrorRecord {m s v0 v1 v2 v3} (hm : ([.mir, .regs, .evSeq, .out, .dorm, .rings, .irq, .rate, .localQ, .links, .exch] : List Part) ⊆ m) (g0 : Frame m s v0) : Frame m s (mirrorRecord v0 v1 v2 v3) := by
  unfold mirrorRecord
  extract_lets -merge -underBinder +onlyGivenNames x0 x1 x2
  obtain ⟨y2, e2, h2⟩ := Frame.name (m := m) (s := s) (x := x2) (by
    unfold x2
    refine Frame.foldl ?_ ?_
    · exact g0
    · intro x3 a3 h3
      exact (frame_mirrorPacket (sub hm (by decide)) h3))
  rw [e2]
  extract_lets -merge -underBinder +onlyGivenNames x4 x5
  obtain ⟨y5, e5, h5⟩ := Frame.name (x := x5) (frame_State_bump (sub hm (by decide)) (.mir (hm (by decide)) h2))
  rw [e5]
  exact (frame_mirrorPump (sub hm (by decide)) h5)

theorem frame_mirrorOut {m s v0 v1 v2} (hm : ([.mir, .regs, .evSeq, .out, .dorm, .rings, .irq, .rate, .localQ, .links, .exch] : List Part) ⊆ m) (g0 : Frame m s v0) : Frame m s (mirrorOut v0 v1 v2) := by
  unfold mirrorOut
  exact (.ite (frame_mirrorRecord (sub hm (by decide)) g0) g0)

theorem frame_mirrorOfDone {m s v0 v1} (hm : ([.mir, .regs, .evSeq, .out, .dorm, .rings, .irq, .rate, .localQ, .links, .exch] : List Part) ⊆ m) (g0 : Frame m s v0) : Frame m s (mirrorOfDone v0 v1) := by
  unfold mirrorOfDone
  split
  · exact (frame_mirrorOut (sub hm (by decide)) g0)
  · exact (.ite g0 (frame_mirrorOut (sub hm (by decide)) g0))
  · exact (frame_mirrorOut (sub hm (by decide)) g0)
  · exact (frame_mirrorOut (sub hm (by decide)) g0)
  · exact (frame_mirrorOut (sub hm (by decide)) g0)
  · exact (frame_mirrorOut (sub hm (by decide)) g0)
  · exact (frame_mirrorOut (sub hm (by decide)) g0)
  · exact g0

theorem frame_mirrorSync {m s v0 v1 v2 v3} (hm : ([.mir, .evSeq, .out, .dorm, .rings, .regs, .irq, .rate, .localQ, .links, .exch] : List Part) ⊆ m) (g0 : Frame m s v0) : Frame m s (mirrorSync v0 v1 v2 v3) := by
  unfold mirrorSync
  exact (.ite g0 (frame_State_raise (sub hm (by decide)) (.mir (hm (by decide)) g0)))

theorem frame_mirrorReject {m s v0 v1 v2 v3} (hm : ([.regs, .rate, .evSeq, .out, .dorm, .rings, .irq, .localQ, .links, .exch, .mir] : List Part) ⊆ m) (g0 : Frame m s v0) : Frame m s (mirrorReject v0 v1 v2 v3) := by
  unfold mirrorReject
  extract_lets -merge -underBinder +onlyGivenNames x0
  obtain ⟨y0, e0, h0⟩ := Frame.name (x := x0) (frame_State_bump (sub hm (by decide)) g0)
  rw [e0]
  extract_lets -merge -underBinder +onlyGivenNames x1
  obtain ⟨y1, e1, h1⟩ := Frame.name (x := x1) (frame_State_raiseLimited (sub hm (by decide)) h0)
  rw [e1]
  exact (frame_mirrorSync (sub hm (by decide)) h1)

theorem frame_State_finish {m s v0 v1 v2 v3 v4} (hm : ([.inFlight, .dma, .done, .mir, .regs, .evSeq, .out, .dorm, .rings, .irq, .rate, .localQ, .links, .exch] : List Part) ⊆ m) (g0 : Frame m s v0) : Frame m s (State.finish v0 v1 v2 v3 v4) := by
  unfold State.finish
  split
  · extract_lets -merge -underBinder +onlyGivenNames x0 x1 x2
    obtain ⟨y2, e2, h2⟩ := Frame.name (x := x2) (Frame.upd g0 (fun p => by cases p; (case inFlight | dma => exact .inl (hm (by decide))); all_goals first | exact .inr rfl | exact .inr (fun _ _ _ => rfl) | exact .inr ⟨rfl, rfl⟩ | exact .inr ⟨rfl, rfl, rfl⟩ | exact .inr ⟨rfl, rfl, rfl, rfl⟩))
    rw [e2]
    extract_lets -merge -underBinder +onlyGivenNames x3 x4 x5
    obtain ⟨y5, e5, h5⟩ := Frame.name (x := x5) (.ite h2 (.done (hm (by decide)) h2))
    rw [e5]
    exact (.ite (frame_mirrorOfDone (sub hm (by decide)) h5) h5)
  · exact (.ite (frame_State_bump (sub hm (by decide)) g0) (frame_mirrorReject (sub hm (by decide)) g0))

theorem frame_State_finishDma {m s v0 v1 v2 v3 v4} (hm : ([.dma, .inFlight, .done, .mir, .regs, .evSeq, .out, .dorm, .rings, .irq, .rate, .localQ, .links, .exch] : List Part) ⊆ m) (g0 : Frame m s v0) : Frame m s (State.finishDma v0 v1 v2 v3 v4) := by
  unfold State.finishDma
  exact (.ite (.dma (hm (by decide)) g0) (frame_State_finish (sub hm (by decide)) g0))

theorem frame_State_hostWriteFor {m s v0 v1 v2 v3} (hm : ([.evSeq, .out, .dorm, .rings, .regs, .irq, .rate, .localQ, .links, .exch, .mgmt] : List Part) ⊆ m) (g0 : Frame m s v0) : Frame m s (State.hostWriteFor v0 v1 v2 v3) := by
  unfold State.hostWriteFor
  exact (frame_hostWriteR (sub hm (by decide)) (fun _ _ _ h => frame_State_raise (sub hm (by decide)) h) g0)

theorem frame_State_hostFetch {m s v0 v1 v2 v3 v4} (hm : ([.out, .evSeq, .dorm, .rings, .regs, .irq, .rate, .localQ, .links, .exch, .mgmt, .dma] : List Part) ⊆ m) (g0 : Frame m s v0) (g4 : ∀ u0 u1, Frame m s u0 → Frame m s (v4 u0 u1)) : Frame m s (State.hostFetch v0 v1 v2 v3 v4) := by
  unfold State.hostFetch
  extract_lets -merge -underBinder +onlyGivenNames x0
  obtain ⟨y0, e0, h0⟩ := Frame.name (m := m) (s := s) (x := x0) (by
    unfold x0
    refine Frame.foldl ?_ ?_
    · exact g0
    · intro x1 a1 h1
      exact (frame_State_hostRead (sub hm (by decide)) h1))
  rw [e0]
  exact (.ite (g4 _ _ h0) (.ite (.dma (hm (by decide)) h0) (g4 _ _ h0)))

theorem frame_State_refuse {m s v0 v1 v2} (hm : ([.regs, .evSeq, .out, .dorm, .rings, .irq, .rate, .localQ, .links, .exch, .inFlight, .dma, .done, .mir] : List Part) ⊆ m) (g0 : Frame m s v0) : Frame m s (State.refuse v0 v1 v2) := by
  unfold State.refuse
  extract_lets -merge -underBinder +onlyGivenNames x0
  obtain ⟨y0, e0, h0⟩ := Frame.name (m := m) (s := s) (x := x0) (by
    unfold x0
    split
    · exact (frame_State_mpuDeny (sub hm (by decide)) g0)
    · exact g0)
  rw [e0]
  exact (frame_State_finish (sub hm (by decide)) h0)

theorem frame_runJob {m s v0 v1 v2 v3} (hm : ([.regs, .evSeq, .out, .dorm, .rings, .irq, .rate, .localQ, .links, .exch, .inFlight, .dma, .done, .mir] : List Part) ⊆ m) (g0 : Frame m s v0) (g3 : ∀ u0, Frame m s u0 → Frame m s (v3 u0)) : Frame m s (runJob v0 v1 v2 v3) := by
  unfold runJob
  split
  · exact (frame_State_refuse (sub hm (by decide)) g0)
  · exact g3 _ g0

theorem frame_pairStateEvent {m s v0 v1 v2 v3} (hm : ([.evSeq, .out, .dorm, .rings, .regs, .irq, .rate, .localQ, .links, .exch] : List Part) ⊆ m) (g0 : Frame m s v0) : Frame m s (pairStateEvent v0 v1 v2 v3) := by
  unfold pairStateEvent
  exact (frame_State_raise (sub hm (by decide)) g0)

theorem frame_setPairState {m s v0 v1 v2} (hm : ([.pair, .evSeq, .out, .dorm, .rings, .regs, .irq, .rate, .localQ, .links, .exch] : List Part) ⊆ m) (g0 : Frame m s v0) : Frame m s (setPairState v0 v1 v2) := by
  unfold setPairState
  exact (.ite g0 (frame_pairStateEvent (sub hm (by decide)) (.pair (hm (by decide)) g0)))

theorem frame_dropAckWaits {m s v0} (hm : ([.commits, .inFlight, .dma, .done, .mir, .regs, .evSeq, .out, .dorm, .rings, .irq, .rate, .localQ, .links, .exch] : List Part) ⊆ m) (g0 : Frame m s v0) : Frame m s (dropAckWaits v0) := by
  unfold dropAckWaits
  extract_lets -merge -underBinder +onlyGivenNames x0 x1
  obtain ⟨y1, e1, h1⟩ := Frame.name (x := x1) (.commits (hm (by decide)) g0)
  rw [e1]
  refine Frame.foldl ?_ ?_
  · exact h1
  · intro x2 a2 h2
    exact (frame_State_finish (sub hm (by decide)) h2)

theorem frame_State_relinquish {m s v0 v1 v2} (hm : ([.free, .pair, .mir, .mode, .evSeq, .out, .dorm, .rings, .regs, .irq, .rate, .localQ, .links, .exch, .aon, .commits, .inFlight, .dma, .done] : List Part) ⊆ m) (g0 : Frame m s v0) : Frame m s (State.relinquish v0 v1 v2) := by
  unfold State.relinquish
  refine Frame.ite ?_ ?_
  · extract_lets -merge -underBinder +onlyGivenNames x0
    split
    rename_i y1_0 x1 e1
    have h1 : Frame m s x1 := Frame.of_2 e1 (by
      refine frame_State_fresh (sub hm (by decide)) ?_
      exact g0)
    extract_lets -merge -underBinder +onlyGivenNames x2 x3 x4
    have h4 : Frame m s x4 := (Frame.upd h1 (fun p => by cases p; (case pair | mir => exact .inl (hm (by decide))); all_goals first | exact .inr rfl | exact .inr (fun _ _ _ => rfl) | exact .inr ⟨rfl, rfl⟩ | exact .inr ⟨rfl, rfl, rfl⟩ | exact .inr ⟨rfl, rfl, rfl, rfl⟩))
    extract_lets -merge -underBinder +onlyGivenNames x5
    obtain ⟨y5, e5, h5⟩ := Frame.name (x := x5) (.ite h4 (frame_State_setMode (sub hm (by decide)) h4))
    rw [e5]
    extract_lets -merge -underBinder +onlyGivenNames x6
    obtain ⟨y6, e6, h6⟩ := Frame.name (x := x6) (frame_State_raise (sub hm (by decide)) h5)
    rw [e6]
    extract_lets -merge -underBinder +onlyGivenNames x7
    obtain ⟨y7, e7, h7⟩ := Frame.name (x := x7) (frame_pairStateEvent (sub hm (by decide)) h6)
    rw [e7]
    extract_lets -merge -underBinder +onlyGivenNames x8 x9 x10
    obtain ⟨y10, e10, h10⟩ := Frame.name (x := x10) (.aon (hm (by decide)) h7)
    rw [e10]
    extract_lets -merge -underBinder +onlyGivenNames x11 x12
    obtain ⟨y12, e12, h12⟩ := Frame.name (x := x12) (.ite (.pair (hm (by decide)) h10) h10)
    rw [e12]
    exact (frame_dropAckWaits (sub hm (by decide)) (frame_State_bump (sub hm (by decide)) h12))
  · exact g0

theorem frame_State_trigger {m s v0 v1 v2} (hm : ([.pair, .free, .mir, .mode, .evSeq, .out, .dorm, .rings, .regs, .irq, .rate, .localQ, .links, .exch, .aon, .commits, .inFlight, .dma, .done] : List Part) ⊆ m) (g0 : Frame m s v0) : Frame m s (State.trigger v0 v1 v2) := by
  unfold State.trigger
  extract_lets -merge -underBinder +onlyGivenNames x0 x1
  obtain ⟨y1, e1, h1⟩ := Frame.name (x := x1) (.ite (.pair (hm (by decide)) g0) g0)
  rw [e1]
  extract_lets -merge -underBinder +onlyGivenNames x2 x3
  obtain ⟨y3, e3, h3⟩ := Frame.name (x := x3) (.ite (.pair (hm (by decide)) h1) h1)
  rw [e3]
  exact (frame_State_relinquish (sub hm (by decide)) h3)

theorem frame_State_untrigger {m s v0 v1} (hm : ([.pair] : List Part) ⊆ m) (g0 : Frame m s v0) : Frame m s (State.untrigger v0 v1) := by
  unfold State.untrigger
  exact (.pair (hm (by decide)) g0)

theorem frame_doNop {m s v0 v1} (hm : ([.inFlight, .dma, .done, .mir, .regs, .evSeq, .out, .dorm, .rings, .irq, .rate, .localQ, .links, .exch] : List Part) ⊆ m) (g0 : Frame m s v0) : Frame m s (doNop v0 v1) := by
  unfold doNop
  exact (frame_State_finish (sub hm (by decide)) g0)

theorem frame_doFence {m s v0 v1} (hm : ([.inFlight, .dma, .done, .mir, .regs, .evSeq, .out, .dorm, .rings, .irq, .rate, .localQ, .links, .exch] : List Part) ⊆ m) (g0 : Frame m s v0) : Frame m s (doFence v0 v1) := by
  unfold doFence
  exact (.ite (frame_State_finish (sub hm (by decide)) g0) (frame_State_finish (sub hm (by decide)) g0))

theorem frame_doUnknown {m s v0 v1} (hm : ([.inFlight, .dma, .done, .mir, .regs, .evSeq, .out, .dorm, .rings, .irq, .rate, .localQ, .links, .exch] : List Part) ⊆ m) (g0 : Frame m s v0) : Frame m s (doUnknown v0 v1) := by
  unfold doUnknown
  exact (frame_State_finish (sub hm (by decide)) g0)

theorem frame_State_setSq {m s v0 v1 v2 v3} (hm : ([.rings] : List Part) ⊆ m) (g0 : Frame m s v0) : Frame m s (State.setSq v0 v1 v2 v3) := by
  unfold State.setSq
  exact (.rings (hm (by decide)) g0)

theorem frame_State_setCq {m s v0 v1 v2 v3} (hm : ([.rings] : List Part) ⊆ m) (g0 : Frame m s v0) : Frame m s (State.setCq v0 v1 v2 v3) := by
  unfold State.setCq
  exact (.rings (hm (by decide)) g0)

theorem frame_ringFault {m s v0 v1 v2 v3} (hm : ([.rate, .evSeq, .out, .dorm, .rings, .regs, .irq, .localQ, .links, .exch] : List Part) ⊆ m) (g0 : Frame m s v0) : Frame m s (ringFault v0 v1 v2 v3) := by
  unfold ringFault
  exact (frame_State_raiseLimited (sub hm (by decide)) g0)

theorem frame_badDoorbell {m s v0 v1 v2} (hm : ([.regs, .rate, .evSeq, .out, .dorm, .rings, .irq, .localQ, .links, .exch] : List Part) ⊆ m) (g0 : Frame m s v0) : Frame m s (badDoorbell v0 v1 v2) := by
  unfold badDoorbell
  exact (frame_ringFault (sub hm (by decide)) (frame_State_bump (sub hm (by decide)) g0))

theorem frame_holdDoorbell {m s v0 v1 v2 v3 v4 v5} (hm : ([.dormDb] : List Part) ⊆ m) (g0 : Frame m s v0) : Frame m s (holdDoorbell v0 v1 v2 v3 v4 v5) := by
  unfold holdDoorbell
  exact (.ite (.dormDb (hm (by decide)) g0) g0)

theorem frame_sqDoorbell {m s v0 v1 v2 v3 v4} (hm : ([.dormDb, .regs, .rate, .evSeq, .out, .dorm, .rings, .irq, .localQ, .links, .exch] : List Part) ⊆ m) (g0 : Frame m s v0) : Frame m s (sqDoorbell v0 v1 v2 v3 v4) := by
  unfold sqDoorbell
  refine Frame.ite ?_ ?_
  · exact (frame_holdDoorbell (sub hm (by decide)) g0)
  · refine Frame.ite ?_ ?_
    · exact (frame_State_bump (sub hm (by decide)) g0)
    · extract_lets -merge -underBinder +onlyGivenNames x0
      exact (.ite (frame_badDoorbell (sub hm (by decide)) g0) (frame_State_setSq (sub hm (by decide)) g0))

theorem frame_wakeSqs {m s v0 v1 v2} (hm : ([.rings] : List Part) ⊆ m) (g0 : Frame m s v0) : Frame m s (wakeSqs v0 v1 v2) := by
  unfold wakeSqs
  refine Frame.foldl ?_ ?_
  · exact g0
  · intro x0 a0 h0
    extract_lets -merge -underBinder +onlyGivenNames x1
    exact (.ite (frame_State_setSq (sub hm (by decide)) h0) h0)

theorem frame_cqDoorbell {m s v0 v1 v2 v3 v4} (hm : ([.dormDb, .regs, .rate, .evSeq, .out, .dorm, .rings, .irq, .localQ, .links, .exch] : List Part) ⊆ m) (g0 : Frame m s v0) : Frame m s (cqDoorbell v0 v1 v2 v3 v4) := by
  unfold cqDoorbell
  refine Frame.ite ?_ ?_
  · exact (frame_holdDoorbell (sub hm (by decide)) g0)
  · refine Frame.ite ?_ ?_
    · exact (frame_State_bump (sub hm (by decide)) g0)
    · extract_lets -merge -underBinder +onlyGivenNames x0
      refine Frame.ite ?_ ?_
      · exact (frame_badDoorbell (sub hm (by decide)) g0)
      · extract_lets -merge -underBinder +onlyGivenNames x1 x2 x3
        obtain ⟨y3, e3, h3⟩ := Frame.name (x := x3) (frame_State_setCq (sub hm (by decide)) g0)
        rw [e3]
        exact (.ite (frame_State_raise (sub hm (by decide)) (frame_wakeSqs (sub hm (by decide)) h3)) (.ite (frame_State_raise (sub hm (by decide)) h3) h3))

theorem frame_evqDoorbell {m s v0 v1 v2 v3 v4} (hm : ([.dormDb, .regs, .free, .rate, .evSeq, .out, .dorm, .rings, .irq, .localQ, .links, .exch] : List Part) ⊆ m) (g0 : Frame m s v0) : Frame m s (evqDoorbell v0 v1 v2 v3 v4) := by
  unfold evqDoorbell
  refine Frame.ite ?_ ?_
  · exact (frame_holdDoorbell (sub hm (by decide)) g0)
  · refine Frame.ite ?_ ?_
    · exact (frame_State_bump (sub hm (by decide)) g0)
    · extract_lets -merge -underBinder +onlyGivenNames x0
      refine Frame.ite ?_ ?_
      · split
        rename_i y1_0 x1 e1
        have h1 : Frame m s x1 := Frame.of_2 e1 (by
          refine frame_State_fresh (sub hm (by decide)) ?_
          exact g0)
        exact (frame_badDoorbell (sub hm (by decide)) h1)
      · extract_lets -merge -underBinder +onlyGivenNames x2 x3 x4 x5 x6
        obtain ⟨y6, e6, h6⟩ := Frame.name (x := x6) (.rings (hm (by decide)) g0)
        rw [e6]
        refine Frame.ite ?_ ?_
        · extract_lets -merge -underBinder +onlyGivenNames x7 x8 x9 x10
          obtain ⟨y10, e10, h10⟩ := Frame.name (x := x10) (.rings (hm (by decide)) h6)
          rw [e10]
          extract_lets -merge -underBinder +onlyGivenNames x11
          obtain ⟨y11, e11, h11⟩ := Frame.name (x := x11) (frame_State_emit (sub hm (by decide)) (.evSeq (hm (by decide)) h10))
          rw [e11]
          exact (frame_evqWrite (sub hm (by decide)) h11)
        · exact h6

theorem frame_takeDesc {m s v0 v1 v2 v3} (hm : ([.out, .evSeq, .dorm, .rings, .regs, .irq, .rate, .localQ, .links, .exch, .mgmt] : List Part) ⊆ m) (g0 : Frame m s v0) : Frame m s (takeDesc v0 v1 v2 v3) := by
  unfold takeDesc
  extract_lets -merge -underBinder +onlyGivenNames x0 x1 x2 x3
  obtain ⟨y3, e3, h3⟩ := Frame.name (x := x3) (.ite (frame_State_hostRead (sub hm (by decide)) g0) g0)
  rw [e3]
  exact (frame_State_setSq (sub hm (by decide)) h3)

theorem frame_doFetch {m s v0 v1 v2} (hm : ([.rings, .regs, .rate, .evSeq, .out, .dorm, .irq, .localQ, .links, .exch, .mgmt, .inFlight] : List Part) ⊆ m) (g0 : Frame m s v0) : Frame m s (doFetch v0 v1 v2) := by
  unfold doFetch
  split
  · exact g0
  · extract_lets -merge -underBinder +onlyGivenNames x0 x1 x2 x3 x4 x5
    obtain ⟨y5, e5, h5⟩ := Frame.name (x := x5) (.rings (hm (by decide)) g0)
    rw [e5]
    refine Frame.ite ?_ ?_
    · extract_lets -merge -underBinder +onlyGivenNames x6
      obtain ⟨y6, e6, h6⟩ := Frame.name (x := x6) (frame_State_bump (sub hm (by decide)) (frame_State_setSq (sub hm (by decide)) h5))
      rw [e6]
      exact (frame_ringFault (sub hm (by decide)) h6)
    · extract_lets -merge -underBinder +onlyGivenNames x7 x8 x9
      refine Frame.ite ?_ ?_
      · extract_lets -merge -underBinder +onlyGivenNames x10
        obtain ⟨y10, e10, h10⟩ := Frame.name (x := x10) (frame_takeDesc (sub hm (by decide)) h5)
        rw [e10]
        exact (frame_ringFault (sub hm (by decide)) (frame_State_bump (sub hm (by decide)) h10))
      · refine Frame.ite ?_ ?_
        · exact (frame_State_setSq (sub hm (by decide)) h5)
        · extract_lets -merge -underBinder +onlyGivenNames x11
          obtain ⟨y11, e11, h11⟩ := Frame.name (x := x11) (frame_takeDesc (sub hm (by decide)) h5)
          rw [e11]
          exact (.inFlight (hm (by decide)) h11)

theorem frame_doCompletion {m s v0 v1 v2} (hm : ([.done, .evSeq, .out, .dorm, .rings, .regs, .irq, .rate, .localQ, .links, .exch, .mgmt] : List Part) ⊆ m) (g0 : Frame m s v0) : Frame m s (doCompletion v0 v1 v2) := by
  unfold doCompletion
  split
  · exact g0
  · extract_lets -merge -underBinder +onlyGivenNames x0 x1 x2
    refine Frame.ite ?_ ?_
    · exact g0
    · extract_lets -merge -underBinder +onlyGivenNames x3 x4 x5
      obtain ⟨y5, e5, h5⟩ := Frame.name (x := x5) (.done (hm (by decide)) g0)
      rw [e5]
      extract_lets -merge -underBinder +onlyGivenNames x6
      obtain ⟨y6, e6, h6⟩ := Frame.name (x := x6) (frame_State_hostWrite (sub hm (by decide)) h5)
      rw [e6]
      split
      rename_i y7_0 x7 e7
      have h7 : Frame m s x7 := Frame.of_2 e7 (by
        refine frame_ringIrq (sub hm (by decide)) ?_ ?_
        · intro x8_0 a8_1 a8_2 h8_0
          exact (frame_State_signal (sub hm (by decide)) h8_0)
        · exact h6)
      extract_lets -merge -underBinder +onlyGivenNames x9
      obtain ⟨y9, e9, h9⟩ := Frame.name (x := x9) (frame_State_setCq (sub hm (by decide)) h7)
      rw [e9]
      exact (.ite (frame_State_raise (sub hm (by decide)) h9) h9)

theorem frame_cqSignal {m s v0 v1 v2 v3} (hm : ([.rings, .evSeq, .out, .dorm, .regs, .irq, .rate, .localQ, .links, .exch, .mgmt] : List Part) ⊆ m) (g0 : Frame m s v0) : Frame m s (cqSignal v0 v1 v2 v3) := by
  unfold cqSignal
  extract_lets -merge -underBinder +onlyGivenNames x0 x1
  exact (.ite (frame_State_signal (sub hm (by decide)) (frame_State_setCq (sub hm (by decide)) g0)) g0)

theorem frame_evqSignal {m s v0 v1 v2 v3} (hm : ([.rings, .irq, .out] : List Part) ⊆ m) (g0 : Frame m s v0) : Frame m s (evqSignal v0 v1 v2 v3) := by
  unfold evqSignal
  extract_lets -merge -underBinder +onlyGivenNames x0 x1
  exact (.ite (frame_msixSignal (sub hm (by decide)) (.rings (hm (by decide)) g0)) g0)

theorem frame_doCoalesce {m s v0 v1 v2} (hm : ([.rings, .evSeq, .out, .dorm, .regs, .irq, .rate, .localQ, .links, .exch, .mgmt] : List Part) ⊆ m) (g0 : Frame m s v0) : Frame m s (doCoalesce v0 v1 v2) := by
  unfold doCoalesce
  split
  · exact (frame_cqSignal (sub hm (by decide)) g0)
  · exact (frame_evqSignal (sub hm (by decide)) g0)

theorem frame_coalNow {m s v0 v1 v2 v3 v4} (hm : ([.rings, .evSeq, .out, .dorm, .regs, .irq, .rate, .localQ, .links, .exch, .mgmt] : List Part) ⊆ m) (g0 : Frame m s v0) : Frame m s (coalNow v0 v1 v2 v3 v4) := by
  unfold coalNow
  exact (.ite (frame_cqSignal (sub hm (by decide)) g0) (frame_evqSignal (sub hm (by decide)) g0))

theorem frame_takeTemps {m s v0 v1} (hm : ([.aon, .therm] : List Part) ⊆ m) (g0 : Frame m s v0) : Frame m s (takeTemps v0 v1) := by
  unfold takeTemps
  extract_lets -merge -underBinder +onlyGivenNames x0
  exact (Frame.upd g0 (fun p => by cases p; (case aon | therm => exact .inl (hm (by decide))); all_goals first | exact .inr rfl | exact .inr (fun _ _ _ => rfl) | exact .inr ⟨rfl, rfl⟩ | exact .inr ⟨rfl, rfl, rfl⟩ | exact .inr ⟨rfl, rfl, rfl, rfl⟩))

theorem frame_writeFault {m s v0 v1} (hm : ([.aon] : List Part) ⊆ m) (g0 : Frame m s v0) : Frame m s (writeFault v0 v1) := by
  unfold writeFault
  split
  · exact (.aon (hm (by decide)) g0)

theorem frame_dropRegs {m s v0 v1 v2} (hm : ([.regs] : List Part) ⊆ m) (g0 : Frame m s v0) (hl : 0x200000 ≤ v1 := by decide) :
    Frame m s (dropRegs v0 v1 v2) := by
  unfold dropRegs
  refine g0.trans fun p => ?_
  cases p
  case regs => exact .inl (hm (by decide))
  case sysCtl => exact .inr fun o h1 _ => get?_drop _ (by omega)
  all_goals first | exact .inr rfl | exact .inr (fun _ _ _ => rfl) | exact .inr ⟨rfl, rfl⟩ | exact .inr ⟨rfl, rfl, rfl⟩ | exact .inr ⟨rfl, rfl, rfl, rfl⟩

theorem frame_abortJob {m s v0 v1} (hm : ([.inFlight, .dma, .done, .mir, .regs, .evSeq, .out, .dorm, .rings, .irq, .rate, .localQ, .links, .exch] : List Part) ⊆ m) (g0 : Frame m s v0) : Frame m s (abortJob v0 v1) := by
  unfold abortJob
  exact (.ite (frame_State_finish (sub hm (by decide)) g0) (frame_State_finish (sub hm (by decide)) g0))

theorem frame_abortAll {m s v0 v1} (hm : ([.inFlight, .dma, .done, .mir, .regs, .evSeq, .out, .dorm, .rings, .irq, .rate, .localQ, .links, .exch] : List Part) ⊆ m) (g0 : Frame m s v0) : Frame m s (abortAll v0 v1) := by
  unfold abortAll
  refine Frame.foldl ?_ ?_
  · exact g0
  · intro x0 a0 h0
    exact (frame_abortJob (sub hm (by decide)) h0)

theorem frame_abortSlates {m s v0} (hm : ([.cmp, .inFlight, .dma, .done, .mir, .regs, .evSeq, .out, .dorm, .rings, .irq, .rate, .localQ, .links, .exch] : List Part) ⊆ m) (g0 : Frame m s v0) : Frame m s (abortSlates v0) := by
  unfold abortSlates
  exact (frame_abortAll (sub hm (by decide)) (.cmp (hm (by decide)) g0))

theorem frame_pd5Off {m s v0} (hm : ([.power, .dec, .regs] : List Part) ⊆ m) (g0 : Frame m s v0) : Frame m s (pd5Off v0) := by
  unfold pd5Off
  exact (frame_dropRegs (sub hm (by decide)) (Frame.upd g0 (fun p => by cases p; (case power | dec => exact .inl (hm (by decide))); all_goals first | exact .inr rfl | exact .inr (fun _ _ _ => rfl) | exact .inr ⟨rfl, rfl⟩ | exact .inr ⟨rfl, rfl, rfl⟩ | exact .inr ⟨rfl, rfl, rfl, rfl⟩)))

theorem frame_hpdLow {m s v0} (hm : ([.out] : List Part) ⊆ m) (g0 : Frame m s v0) : Frame m s (hpdLow v0) := by
  unfold hpdLow
  refine Frame.foldl ?_ ?_
  · exact g0
  · intro x0 a0 h0
    exact (frame_State_emit (sub hm (by decide)) h0)

theorem frame_pd6Off {m s v0} (hm : ([.regs, .out, .power, .caps, .encs] : List Part) ⊆ m) (g0 : Frame m s v0) : Frame m s (pd6Off v0) := by
  unfold pd6Off
  refine frame_dropRegs (sub hm (by decide)) ?_
  extract_lets -merge -underBinder +onlyGivenNames x0
  obtain ⟨y0, e0, h0⟩ := Frame.name (x := x0) (frame_hpdLow (sub hm (by decide)) g0)
  rw [e0]
  exact (Frame.upd h0 (fun p => by cases p; (case power | caps | encs => exact .inl (hm (by decide))); all_goals first | exact .inr rfl | exact .inr (fun _ _ _ => rfl) | exact .inr ⟨rfl, rfl⟩ | exact .inr ⟨rfl, rfl, rfl⟩ | exact .inr ⟨rfl, rfl, rfl, rfl⟩))

theorem frame_State_enterFrozen {m s v0 v1} (hm : ([.aon, .mode, .evSeq, .out, .dorm, .rings, .regs, .irq, .rate, .localQ, .links, .exch, .ready, .power, .dram, .touch, .dec, .caps, .encs, .inFlight, .dma, .done, .mir] : List Part) ⊆ m) (g0 : Frame m s v0) : Frame m s (State.enterFrozen v0 v1) := by
  unfold State.enterFrozen
  refine Frame.ite ?_ ?_
  · exact g0
  · extract_lets -merge -underBinder +onlyGivenNames x0
    obtain ⟨y0, e0, h0⟩ := Frame.name (x := x0) (frame_State_setMode (sub hm (by decide)) (frame_writeFault (sub hm (by decide)) g0))
    rw [e0]
    extract_lets -merge -underBinder +onlyGivenNames x1
    obtain ⟨y1, e1, h1⟩ := Frame.name (m := m) (s := s) (x := x1) (by
      unfold x1
      refine Frame.foldl ?_ ?_
      · exact h0
      · intro x2 a2 h2
        exact (.ite h2 (frame_State_setReady (sub hm (by decide)) h2)))
    rw [e1]
    extract_lets -merge -underBinder +onlyGivenNames x3 x4 x5 x6 x7 x8
    obtain ⟨y8, e8, h8⟩ := Frame.name (x := x8) (Frame.upd h1 (fun p => by cases p; (case power | dorm | dram | touch => exact .inl (hm (by decide))); all_goals first | exact .inr rfl | exact .inr (fun _ _ _ => rfl) | exact .inr ⟨rfl, rfl⟩ | exact .inr ⟨rfl, rfl, rfl⟩ | exact .inr ⟨rfl, rfl, rfl, rfl⟩))
    rw [e8]
    extract_lets -merge -underBinder +onlyGivenNames x9
    obtain ⟨y9, e9, h9⟩ := Frame.name (x := x9) (frame_pd6Off (sub hm (by decide)) (frame_pd5Off (sub hm (by decide)) h8))
    rw [e9]
    extract_lets -merge -underBinder +onlyGivenNames x10 x11 x12
    obtain ⟨y12, e12, h12⟩ := Frame.name (x := x12) (.power (hm (by decide)) h9)
    rw [e12]
    exact (frame_abortAll (sub hm (by decide)) h12)

end Machine
end Sys2Proof
end

