-- ==== Sys2Proof/Laws/FramesFabric.lean ====
section
/-! SUPPORT. Which parts of the state the memory controller, the links and the time base can change, said once for each operation: a lemma frame_f says that the operation f
changes no part outside the list of its hypothesis. -/

set_option Elab.async false

namespace Sys2Proof
namespace Machine

theorem frame_State_setChan {m s v0 v1 v2} (hm : ([.chans] : List Part) ⊆ m) (g0 : Frame m s v0) : Frame m s (State.setChan v0 v1 v2) := by
  unfold State.setChan
  exact (.chans (hm (by decide)) g0)

theorem frame_acceptReq {m s v0 v1} (hm : ([.dram, .mem, .chans, .regs] : List Part) ⊆ m) (g0 : Frame m s v0) : Frame m s (acceptReq v0 v1) := by
  unfold acceptReq
  extract_lets -merge -underBinder +onlyGivenNames x0 x1 x2 x3
  obtain ⟨y3, e3, h3⟩ := Frame.name (x := x3) (.dram (hm (by decide)) g0)
  rw [e3]
  refine Frame.ite ?_ ?_
  · extract_lets -merge -underBinder +onlyGivenNames x4 x5
    obtain ⟨y5, e5, h5⟩ := Frame.name (x := x5) (.mem (hm (by decide)) h3)
    rw [e5]
    exact (frame_State_setChan (sub hm (by decide)) h5)
  · extract_lets -merge -underBinder +onlyGivenNames x6 x7
    obtain ⟨y7, e7, h7⟩ := Frame.name (x := x7) (.ite (frame_State_bump (sub hm (by decide)) h3) h3)
    rw [e7]
    exact (frame_State_setChan (sub hm (by decide)) h7)

theorem frame_drainList {m s v0 v1 v2} (hm : ([.dram, .mem, .chans, .regs] : List Part) ⊆ m) (g2 : Frame m s v2) : Frame m s (drainList v0 v1 v2) := by
  induction v0 generalizing v1 v2 with
  | nil =>
    rw [drainList]
    exact (.dram (hm (by decide)) g2)
  | cons v vs ih =>
    rw [drainList]
    exact (.ite (ih g2) (ih (frame_acceptReq (sub hm (by decide)) g2)))

theorem frame_drainIngress {m s v0} (hm : ([.dram, .mem, .chans, .regs] : List Part) ⊆ m) (g0 : Frame m s v0) : Frame m s (drainIngress v0) := by
  unfold drainIngress
  exact (frame_drainList (sub hm (by decide)) g0)

theorem frame_testCompare {m s v0 v1 v2} (hm : ([.dram] : List Part) ⊆ m) (g0 : Frame m s v0) : Frame m s (testCompare v0 v1 v2) := by
  unfold testCompare
  extract_lets -merge -underBinder +onlyGivenNames x0 x1
  exact (.dram (hm (by decide)) g0)

theorem frame_testAccess {m s v0} (hm : ([.dram, .mem, .chans, .regs, .evSeq, .out, .dorm, .rings, .irq, .rate, .localQ, .links, .exch] : List Part) ⊆ m) (g0 : Frame m s v0) : Frame m s (testAccess v0) := by
  unfold testAccess
  extract_lets -merge -underBinder +onlyGivenNames x0 x1 x2
  refine Frame.ite ?_ ?_
  · exact (frame_drainIngress (sub hm (by decide)) g0)
  · extract_lets -merge -underBinder +onlyGivenNames x3 x4
    obtain ⟨y4, e4, h4⟩ := Frame.name (x := x4) (.dram (hm (by decide)) g0)
    rw [e4]
    refine Frame.ite ?_ ?_
    · extract_lets -merge -underBinder +onlyGivenNames x5
      obtain ⟨y5, e5, h5⟩ := Frame.name (x := x5) (frame_State_mpuDeny (sub hm (by decide)) h4)
      rw [e5]
      exact (.ite (frame_testCompare (sub hm (by decide)) h5) h5)
    · extract_lets -merge -underBinder +onlyGivenNames x6
      exact (frame_drainIngress (sub hm (by decide)) (.dram (hm (by decide)) h4))

theorem frame_ingressOne {m s v0 v1 v2 v3 v4} (hm : ([.dram, .out, .regs, .evSeq, .dorm, .rings, .irq, .rate, .localQ, .links, .exch, .mem, .chans, .mgmt, .free] : List Part) ⊆ m) (g0 : Frame m s v0) : Frame m s (ingressOne v0 v1 v2 v3 v4) := by
  unfold ingressOne
  extract_lets -merge -underBinder +onlyGivenNames x0
  refine Frame.ite ?_ ?_
  · extract_lets -merge -underBinder +onlyGivenNames x1
    obtain ⟨y1, e1, h1⟩ := Frame.name (x := x1) (frame_State_mpuDeny (sub hm (by decide)) g0)
    rw [e1]
    exact (.ite h1 (frame_State_emit (sub hm (by decide)) h1))
  · refine Frame.ite ?_ ?_
    · extract_lets -merge -underBinder +onlyGivenNames x2
      exact (frame_drainIngress (sub hm (by decide)) (.dram (hm (by decide)) g0))
    · refine Frame.ite ?_ ?_
      · exact (.dram (hm (by decide)) g0)
      · refine Frame.ite ?_ ?_
        · extract_lets -merge -underBinder +onlyGivenNames x3
          obtain ⟨y3, e3, h3⟩ := Frame.name (x := x3) (frame_State_addrFault (sub hm (by decide)) g0)
          rw [e3]
          exact (.ite h3 (frame_State_emit (sub hm (by decide)) h3))
        · refine Frame.ite ?_ ?_
          · extract_lets -merge -underBinder +onlyGivenNames x4 x5
            refine Frame.ite ?_ ?_
            · exact (frame_State_hostWrite (sub hm (by decide)) g0)
            · split
              rename_i y6_0 x6 e6
              have h6 : Frame m s x6 := Frame.of_2 e6 (by
                refine frame_State_masterRead (sub hm (by decide)) ?_
                exact g0)
              split
              · exact (frame_State_emit (sub hm (by decide)) h6)
              · exact h6
          · exact (.ite g0 (frame_State_emit (sub hm (by decide)) g0))

theorem frame_doMemRequest {m s v0 v1 v2 v3 v4 v5} (hm : ([.dram, .mem, .chans, .regs, .evSeq, .out, .dorm, .rings, .irq, .rate, .localQ, .links, .exch, .mgmt, .free] : List Part) ⊆ m) (g0 : Frame m s v0) : Frame m s (doMemRequest v0 v1 v2 v3 v4 v5) := by
  unfold doMemRequest
  refine Frame.ite ?_ ?_
  · exact (frame_testAccess (sub hm (by decide)) g0)
  · refine Frame.ite ?_ ?_
    · exact (frame_ingressOne (sub hm (by decide)) g0)
    · refine Frame.foldl ?_ ?_
      · exact g0
      · intro x0 a0 h0
        exact (frame_ingressOne (sub hm (by decide)) h0)

theorem frame_throttleOn {m s v0 v1} (hm : ([.dram] : List Part) ⊆ m) (g0 : Frame m s v0) : Frame m s (throttleOn v0 v1) := by
  unfold throttleOn
  exact (.dram (hm (by decide)) g0)

theorem frame_hammerHit {m s v0 v1 v2 v3 v4} (hm : ([.out, .dram, .regs, .rate, .evSeq, .dorm, .rings, .irq, .localQ, .links, .exch] : List Part) ⊆ m) (g0 : Frame m s v0) : Frame m s (hammerHit v0 v1 v2 v3 v4) := by
  unfold hammerHit
  extract_lets -merge -underBinder +onlyGivenNames x0 x1
  obtain ⟨y1, e1, h1⟩ := Frame.name (x := x1) (frame_State_emit (sub hm (by decide)) g0)
  rw [e1]
  split
  rename_i y2_0 x2 e2
  have h2 : Frame m s x2 := Frame.of_2 e2 (by
    refine Frame.ite2 ?_ ?_
    · refine Frame.mk2 ?_
      exact h1
    · refine Frame.ite2 ?_ ?_
      · refine Frame.mk2 ?_
        exact (frame_throttleOn (sub hm (by decide)) h1)
      · refine Frame.ite2 ?_ ?_
        · refine Frame.mk2 ?_
          exact h1
        · refine Frame.mk2 ?_
          exact (frame_throttleOn (sub hm (by decide)) (.dram (hm (by decide)) h1)))
  extract_lets -merge -underBinder +onlyGivenNames x3 x4 x5
  obtain ⟨y5, e5, h5⟩ := Frame.name (x := x5) (frame_State_bump (sub hm (by decide)) (.dram (hm (by decide)) h2))
  rw [e5]
  exact (frame_State_raiseLimited (sub hm (by decide)) h5)

theorem frame_activate {m s v0 v1 v2 v3 v4 v5} (hm : ([.out, .chans, .dram, .regs, .rate, .evSeq, .dorm, .rings, .irq, .localQ, .links, .exch] : List Part) ⊆ m) (g0 : Frame m s v0) : Frame m s (activate v0 v1 v2 v3 v4 v5) := by
  unfold activate
  extract_lets -merge -underBinder +onlyGivenNames x0
  obtain ⟨y0, e0, h0⟩ := Frame.name (x := x0) (frame_State_emit (sub hm (by decide)) g0)
  rw [e0]
  extract_lets -merge -underBinder +onlyGivenNames x1
  split
  · split
    · extract_lets -merge -underBinder +onlyGivenNames x2 x3 x4 x5
      obtain ⟨y5, e5, h5⟩ := Frame.name (x := x5) (frame_State_setChan (sub hm (by decide)) h0)
      rw [e5]
      clear_value x3
      split
      · exact (frame_hammerHit (sub hm (by decide)) h5)
      · exact h5

theorem frame_doThrottleExpiry {m s v0 v1} (hm : ([.dram, .mem, .chans, .regs] : List Part) ⊆ m) (g0 : Frame m s v0) : Frame m s (doThrottleExpiry v0 v1) := by
  unfold doThrottleExpiry
  exact (.ite g0 (frame_drainIngress (sub hm (by decide)) (.dram (hm (by decide)) g0)))

theorem frame_undoWrites {m s v0} (hm : ([.mem] : List Part) ⊆ m) (g0 : Frame m s v0) : Frame m s (undoWrites v0) := by
  unfold undoWrites
  exact (.mem (hm (by decide)) g0)

theorem frame_freeze {m s v0 v1 v2 v3 v4 v5 v6 v7 v8} (hm : ([.dram, .mem, .aon, .evSeq, .out, .dorm, .rings, .regs, .irq, .rate, .localQ, .links, .exch, .pair, .free, .mir, .mode, .commits, .inFlight, .dma, .done, .ready, .power, .touch, .dec, .caps, .encs, .cmp] : List Part) ⊆ m) (g0 : Frame m s v0) : Frame m s (freeze v0 v1 v2 v3 v4 v5 v6 v7 v8) := by
  unfold freeze
  refine Frame.ite ?_ ?_
  · exact g0
  · extract_lets -merge -underBinder +onlyGivenNames x0 x1 x2 x3 x4
    obtain ⟨y4, e4, h4⟩ := Frame.name (x := x4) (frame_undoWrites (sub hm (by decide)) (.dram (hm (by decide)) g0))
    rw [e4]
    extract_lets -merge -underBinder +onlyGivenNames x5 x6
    obtain ⟨y6, e6, h6⟩ := Frame.name (x := x6) (.aon (hm (by decide)) h4)
    rw [e6]
    extract_lets -merge -underBinder +onlyGivenNames x7
    obtain ⟨y7, e7, h7⟩ := Frame.name (x := x7) (frame_State_raise (sub hm (by decide)) h6)
    rw [e7]
    extract_lets -merge -underBinder +onlyGivenNames x8
    obtain ⟨y8, e8, h8⟩ := Frame.name (x := x8) (frame_State_trigger (sub hm (by decide)) h7)
    rw [e8]
    exact (frame_abortSlates (sub hm (by decide)) (frame_State_enterFrozen (sub hm (by decide)) (frame_State_setReady (sub hm (by decide)) (frame_State_setReady (sub hm (by decide)) h8))))

theorem frame_doCommandError {m s v0 v1 v2} (hm : ([.dram, .mem, .aon, .evSeq, .out, .dorm, .rings, .regs, .irq, .rate, .localQ, .links, .exch, .pair, .free, .mir, .mode, .commits, .inFlight, .dma, .done, .ready, .power, .touch, .dec, .caps, .encs, .cmp] : List Part) ⊆ m) (g0 : Frame m s v0) : Frame m s (doCommandError v0 v1 v2) := by
  unfold doCommandError
  extract_lets -merge -underBinder +onlyGivenNames x0
  exact (frame_freeze (sub hm (by decide)) g0)

theorem frame_eccAccess {m s v0 v1 v2} (hm : ([.chans, .out, .dram, .regs, .rate, .evSeq, .dorm, .rings, .irq, .localQ, .links, .exch] : List Part) ⊆ m) (g0 : Frame m s v0) : Frame m s (eccAccess v0 v1 v2) := by
  unfold eccAccess
  extract_lets -merge -underBinder +onlyGivenNames x0 x1
  exact (.ite (frame_State_setChan (sub hm (by decide)) g0) (frame_activate (sub hm (by decide)) (frame_State_setChan (sub hm (by decide)) g0)))

theorem frame_countCe {m s v0 v1 v2} (hm : ([.chans, .regs, .rate, .evSeq, .out, .dorm, .rings, .irq, .localQ, .links, .exch] : List Part) ⊆ m) (g0 : Frame m s v0) : Frame m s (countCe v0 v1 v2) := by
  unfold countCe
  extract_lets -merge -underBinder +onlyGivenNames x0 x1 x2
  obtain ⟨y2, e2, h2⟩ := Frame.name (x := x2) (frame_State_bumpBy (sub hm (by decide)) (frame_State_setChan (sub hm (by decide)) g0))
  rw [e2]
  extract_lets -merge -underBinder +onlyGivenNames x3
  refine Frame.ite ?_ ?_
  · extract_lets -merge -underBinder +onlyGivenNames x4
    obtain ⟨y4, e4, h4⟩ := Frame.name (x := x4) (frame_State_setChan (sub hm (by decide)) (frame_State_rateMark (sub hm (by decide)) h2))
    rw [e4]
    exact (frame_State_raise (sub hm (by decide)) h4)
  · exact h2

theorem frame_eccResult {m s v0 v1 v2 v3 v4 v5} (hm : ([.chans, .regs, .rate, .evSeq, .out, .dorm, .rings, .irq, .localQ, .links, .exch, .dram, .mem, .aon, .pair, .free, .mir, .mode, .commits, .inFlight, .dma, .done, .ready, .power, .touch, .dec, .caps, .encs, .cmp] : List Part) ⊆ m) (g0 : Frame m s v0) : Frame m s (eccResult v0 v1 v2 v3 v4 v5) := by
  unfold eccResult
  split
  · exact g0
  · extract_lets -merge -underBinder +onlyGivenNames x0
    obtain ⟨y0, e0, h0⟩ := Frame.name (x := x0) (frame_countCe (sub hm (by decide)) g0)
    rw [e0]
    extract_lets -merge -underBinder +onlyGivenNames x1 x2 x3
    exact (frame_State_setChan (sub hm (by decide)) h0)
  · exact (frame_freeze (sub hm (by decide)) g0)

theorem frame_checkedAccess {m s v0 v1 v2 v3 v4} (hm : ([.chans, .out, .dram, .regs, .rate, .evSeq, .dorm, .rings, .irq, .localQ, .links, .exch, .mem, .aon, .pair, .free, .mir, .mode, .commits, .inFlight, .dma, .done, .ready, .power, .touch, .dec, .caps, .encs, .cmp] : List Part) ⊆ m) (g0 : Frame m s v0) : Frame m s (checkedAccess v0 v1 v2 v3 v4) := by
  unfold checkedAccess
  extract_lets -merge -underBinder +onlyGivenNames x0 x1 x2 x3
  obtain ⟨y3, e3, h3⟩ := Frame.name (x := x3) (frame_State_setChan (sub hm (by decide)) g0)
  rw [e3]
  extract_lets -merge -underBinder +onlyGivenNames x4
  obtain ⟨y4, e4, h4⟩ := Frame.name (x := x4) (frame_eccAccess (sub hm (by decide)) (frame_activate (sub hm (by decide)) h3))
  rw [e4]
  extract_lets -merge -underBinder +onlyGivenNames x5
  obtain ⟨y5, e5, h5⟩ := Frame.name (x := x5) (.ite (frame_eccResult (sub hm (by decide)) h4) h4)
  rw [e5]
  exact (.ite h5 (frame_State_setChan (sub hm (by decide)) h5))

theorem frame_issued {m s v0 v1} (hm : ([.out, .dram, .chans, .regs, .rate, .evSeq, .dorm, .rings, .irq, .localQ, .links, .exch] : List Part) ⊆ m) (g0 : Frame m s v0) : Frame m s (issued v0 v1) := by
  unfold issued
  extract_lets -merge -underBinder +onlyGivenNames x0
  split
  · extract_lets -merge -underBinder +onlyGivenNames x1
    obtain ⟨y1, e1, h1⟩ := Frame.name (x := x1) (frame_State_emit (sub hm (by decide)) g0)
    rw [e1]
    exact (.ite (frame_testCompare (sub hm (by decide)) h1) h1)
  · exact (frame_activate (sub hm (by decide)) g0)
  · exact g0

theorem frame_doChannelIssue {m s v0 v1 v2} (hm : ([.chans, .out, .dram, .regs, .rate, .evSeq, .dorm, .rings, .irq, .localQ, .links, .exch, .mem, .aon, .pair, .free, .mir, .mode, .commits, .inFlight, .dma, .done, .ready, .power, .touch, .dec, .caps, .encs, .cmp] : List Part) ⊆ m) (g0 : Frame m s v0) : Frame m s (doChannelIssue v0 v1 v2) := by
  unfold doChannelIssue
  refine Frame.ite ?_ ?_
  · exact g0
  · extract_lets -merge -underBinder +onlyGivenNames x0 x1
    split
    · exact (frame_State_setChan (sub hm (by decide)) g0)
    · extract_lets -merge -underBinder +onlyGivenNames x2
      obtain ⟨y2, e2, h2⟩ := Frame.name (x := x2) (frame_State_setChan (sub hm (by decide)) g0)
      rw [e2]
      extract_lets -merge -underBinder +onlyGivenNames x3
      obtain ⟨y3, e3, h3⟩ := Frame.name (x := x3) (frame_checkedAccess (sub hm (by decide)) h2)
      rw [e3]
      exact (.ite h3 (frame_drainIngress (sub hm (by decide)) (frame_issued (sub hm (by decide)) h3)))

theorem frame_nextPass {m s v0} (hm : ([.dram] : List Part) ⊆ m) (g0 : Frame m s v0) : Frame m s (nextPass v0) := by
  unfold nextPass
  exact (.dram (hm (by decide)) g0)

theorem frame_doScrub {m s v0 v1 v2} (hm : ([.chans, .out, .dram, .regs, .rate, .evSeq, .dorm, .rings, .irq, .localQ, .links, .exch, .mem, .aon, .pair, .free, .mir, .mode, .commits, .inFlight, .dma, .done, .ready, .power, .touch, .dec, .caps, .encs, .cmp] : List Part) ⊆ m) (g0 : Frame m s v0) : Frame m s (doScrub v0 v1 v2) := by
  unfold doScrub
  refine Frame.ite ?_ ?_
  · exact g0
  · extract_lets -merge -underBinder +onlyGivenNames x0 x1 x2
    obtain ⟨y2, e2, h2⟩ := Frame.name (x := x2) (frame_State_setChan (sub hm (by decide)) g0)
    rw [e2]
    extract_lets -merge -underBinder +onlyGivenNames x3
    obtain ⟨y3, e3, h3⟩ := Frame.name (x := x3) (.ite (frame_checkedAccess (sub hm (by decide)) h2) h2)
    rw [e3]
    refine Frame.ite ?_ ?_
    · refine frame_State_bump (sub hm (by decide)) ?_
      refine Frame.foldl ?_ ?_
      · exact (frame_nextPass (sub hm (by decide)) h3)
      · intro x4 a4 h4
        exact (frame_State_setChan (sub hm (by decide)) h4)
    · exact h3

theorem frame_doRefresh {m s v0 v1 v2} (hm : ([.chans, .out] : List Part) ⊆ m) (g0 : Frame m s v0) : Frame m s (doRefresh v0 v1 v2) := by
  unfold doRefresh
  extract_lets -merge -underBinder +onlyGivenNames x0
  exact (frame_State_emit (sub hm (by decide)) (frame_State_setChan (sub hm (by decide)) g0))

theorem frame_doRetrain {m s v0 v1 v2 v3} (hm : ([.dram, .chans] : List Part) ⊆ m) (g0 : Frame m s v0) : Frame m s (doRetrain v0 v1 v2 v3) := by
  unfold doRetrain
  exact (.ite g0 (frame_State_setChan (sub hm (by decide)) (.dram (hm (by decide)) g0)))

theorem frame_doRetrainEnd {m s v0 v1 v2} (hm : ([.dram, .regs, .evSeq, .out, .dorm, .rings, .irq, .rate, .localQ, .links, .exch, .mem, .chans] : List Part) ⊆ m) (g0 : Frame m s v0) : Frame m s (doRetrainEnd v0 v1 v2) := by
  unfold doRetrainEnd
  refine Frame.ite ?_ ?_
  · extract_lets -merge -underBinder +onlyGivenNames x0 x1
    obtain ⟨y1, e1, h1⟩ := Frame.name (x := x1) (frame_State_bump (sub hm (by decide)) (.dram (hm (by decide)) g0))
    rw [e1]
    exact (frame_drainIngress (sub hm (by decide)) (frame_State_raise (sub hm (by decide)) h1))
  · exact g0

theorem frame_startInit {m s v0} (hm : ([.dram, .ready, .evSeq, .out, .dorm, .rings, .regs, .irq, .rate, .localQ, .links, .exch] : List Part) ⊆ m) (g0 : Frame m s v0) : Frame m s (startInit v0) := by
  unfold startInit
  split
  · exact (.dram (hm (by decide)) g0)
  · exact (frame_State_setReady (sub hm (by decide)) (.dram (hm (by decide)) g0))

theorem frame_trainFails {m s v0 v1 v2} (hm : ([.free] : List Part) ⊆ m) (g0 : Frame m s v0) : Frame m s (trainFails v0 v1 v2).2 := by
  unfold trainFails
  split
  rename_i y0_0 x0 e0
  have h0 : Frame m s x0 := Frame.of_2 e0 (by
    refine frame_State_fresh (sub hm (by decide)) ?_
    exact g0)
  extract_lets -merge -underBinder +onlyGivenNames x1
  refine Frame.mk2 ?_
  exact h0

theorem frame_doTrainingEnd {m s v0 v1 v2 v3} (hm : ([.dram, .out, .chans, .free, .evSeq, .dorm, .rings, .regs, .irq, .rate, .localQ, .links, .exch, .power, .mem, .ready] : List Part) ⊆ m) (g0 : Frame m s v0) : Frame m s (doTrainingEnd v0 v1 v2 v3) := by
  unfold doTrainingEnd
  refine Frame.ite ?_ ?_
  · exact g0
  · extract_lets -merge -underBinder +onlyGivenNames x0 x1
    obtain ⟨y1, e1, h1⟩ := Frame.name (x := x1) (.ite g0 (frame_State_emit (sub hm (by decide)) (.dram (hm (by decide)) g0)))
    rw [e1]
    extract_lets -merge -underBinder +onlyGivenNames x2
    obtain ⟨y2, e2, h2⟩ := Frame.name (m := m) (s := s) (x := x2) (by
      unfold x2
      refine Frame.foldl ?_ ?_
      · exact h1
      · intro x3 a3 h3
        exact (frame_State_setChan (sub hm (by decide)) h3))
    rw [e2]
    split
    rename_i y4_0 x4 e4
    have h4 : Frame m s x4 := Frame.of_2 e4 (by
      refine frame_trainFails (sub hm (by decide)) ?_
      exact h2)
    extract_lets -merge -underBinder +onlyGivenNames x5
    refine Frame.ite ?_ ?_
    · refine Frame.foldl ?_ ?_
      · exact (.dram (hm (by decide)) h4)
      · intro x6 a6 h6
        exact (frame_State_raise (sub hm (by decide)) h6)
    · extract_lets -merge -underBinder +onlyGivenNames x7 x8 x9 x10 x11
      obtain ⟨y11, e11, h11⟩ := Frame.name (x := x11) (Frame.upd h4 (fun p => by cases p; (case power | dram => exact .inl (hm (by decide))); all_goals first | exact .inr rfl | exact .inr (fun _ _ _ => rfl) | exact .inr ⟨rfl, rfl⟩ | exact .inr ⟨rfl, rfl, rfl⟩ | exact .inr ⟨rfl, rfl, rfl, rfl⟩))
      rw [e11]
      extract_lets -merge -underBinder +onlyGivenNames x12
      obtain ⟨y12, e12, h12⟩ := Frame.name (m := m) (s := s) (x := x12) (by
        unfold x12
        refine Frame.foldl ?_ ?_
        · exact h11
        · intro x13 a13 h13
          exact (.ite (frame_State_raise (sub hm (by decide)) h13) (.mem (hm (by decide)) h13)))
      rw [e12]
      exact (frame_startInit (sub hm (by decide)) (frame_State_setReady (sub hm (by decide)) h12))

theorem frame_doSegment {m s v0} (hm : ([.dram, .evSeq, .out, .dorm, .rings, .regs, .irq, .rate, .localQ, .links, .exch, .mem, .chans, .ready] : List Part) ⊆ m) (g0 : Frame m s v0) : Frame m s (doSegment v0) := by
  unfold doSegment
  split
  · exact g0
  · refine Frame.ite ?_ ?_
    · exact g0
    · extract_lets -merge -underBinder +onlyGivenNames x0 x1 x2
      obtain ⟨y2, e2, h2⟩ := Frame.name (x := x2) (.dram (hm (by decide)) g0)
      rw [e2]
      extract_lets -merge -underBinder +onlyGivenNames x3
      obtain ⟨y3, e3, h3⟩ := Frame.name (x := x3) (frame_State_raise (sub hm (by decide)) h2)
      rw [e3]
      exact (frame_startInit (sub hm (by decide)) (frame_drainIngress (sub hm (by decide)) h3))

theorem frame_linkEnter {m s v0 v1 v2} (hm : ([.links, .out] : List Part) ⊆ m) (g0 : Frame m s v0) : Frame m s (linkEnter v0 v1 v2) := by
  unfold linkEnter
  extract_lets -merge -underBinder +onlyGivenNames x0
  obtain ⟨y0, e0, h0⟩ := Frame.name (x := x0) (frame_State_setLink (sub hm (by decide)) g0)
  rw [e0]
  exact (frame_State_emit (sub hm (by decide)) h0)

theorem frame_sendLinkClass {m s v0 v1 v2} (hm : ([.evSeq, .out, .dorm, .rings, .regs, .irq, .rate, .localQ, .links, .exch] : List Part) ⊆ m) (g0 : Frame m s v0) : Frame m s (sendLinkClass v0 v1 v2) := by
  unfold sendLinkClass
  exact (frame_enqueue (sub hm (by decide)) (fun _ _ _ h => frame_State_raise (sub hm (by decide)) h) g0)

theorem frame_sendCaps {m s v0 v1} (hm : ([.links, .evSeq, .out, .dorm, .rings, .regs, .irq, .rate, .localQ, .exch] : List Part) ⊆ m) (g0 : Frame m s v0) : Frame m s (sendCaps v0 v1) := by
  unfold sendCaps
  extract_lets -merge -underBinder +onlyGivenNames x0
  exact (frame_sendLinkClass (sub hm (by decide)) (frame_State_setLink (sub hm (by decide)) g0))

theorem frame_capsAll {m s v0} (hm : ([.links, .evSeq, .out, .dorm, .rings, .regs, .irq, .rate, .localQ, .exch] : List Part) ⊆ m) (g0 : Frame m s v0) : Frame m s (capsAll v0) := by
  unfold capsAll
  refine Frame.foldl ?_ ?_
  · exact g0
  · intro x0 a0 h0
    exact (.ite (frame_sendCaps (sub hm (by decide)) h0) h0)

theorem frame_mirrorLose {m s v0 v1} (hm : ([.mir, .evSeq, .out, .dorm, .rings, .regs, .irq, .rate, .localQ, .links, .exch] : List Part) ⊆ m) (g0 : Frame m s v0) : Frame m s (mirrorLose v0 v1) := by
  unfold mirrorLose
  refine Frame.ite ?_ ?_
  · exact g0
  · extract_lets -merge -underBinder +onlyGivenNames x0 x1
    obtain ⟨y1, e1, h1⟩ := Frame.name (x := x1) (frame_State_raise (sub hm (by decide)) (.mir (hm (by decide)) g0))
    rw [e1]
    refine Frame.ite ?_ ?_
    · extract_lets -merge -underBinder +onlyGivenNames x2
      obtain ⟨y2, e2, h2⟩ := Frame.name (x := x2) (frame_mirrorPacket (sub hm (by decide)) h1)
      rw [e2]
      exact (frame_mirrorPump (sub hm (by decide)) h2)
    · exact h1

theorem frame_leaveUp {m s v0 v1 v2 v3} (hm : ([.links, .out, .regs, .evSeq, .dorm, .rings, .irq, .rate, .localQ, .exch, .ready, .mir] : List Part) ⊆ m) (g0 : Frame m s v0) : Frame m s (leaveUp v0 v1 v2 v3) := by
  unfold leaveUp
  extract_lets -merge -underBinder +onlyGivenNames x0 x1 x2 x3 x4 x5 x6
  obtain ⟨y6, e6, h6⟩ := Frame.name (x := x6) (frame_linkEnter (sub hm (by decide)) g0)
  rw [e6]
  refine Frame.ite ?_ ?_
  · extract_lets -merge -underBinder +onlyGivenNames x7
    obtain ⟨y7, e7, h7⟩ := Frame.name (x := x7) (frame_State_bumpBy (sub hm (by decide)) h6)
    rw [e7]
    extract_lets -merge -underBinder +onlyGivenNames x8
    obtain ⟨y8, e8, h8⟩ := Frame.name (x := x8) (.ite (frame_fabDrop (sub hm (by decide)) (fun _ _ _ h => frame_State_raise (sub hm (by decide)) h) h7) h7)
    rw [e8]
    extract_lets -merge -underBinder +onlyGivenNames x9
    obtain ⟨y9, e9, h9⟩ := Frame.name (m := m) (s := s) (x := x9) (by
      unfold x9
      refine Frame.foldl ?_ ?_
      · exact h8
      · intro x10 a10 h10
        extract_lets -merge -underBinder +onlyGivenNames x11
        split
        · exact (.ite (frame_State_emit (sub hm (by decide)) (frame_State_emit (sub hm (by decide)) (frame_State_emit (sub hm (by decide)) (frame_State_setLink (sub hm (by decide)) h10)))) h10)
        · exact h10)
    rw [e9]
    extract_lets -merge -underBinder +onlyGivenNames x12
    obtain ⟨y12, e12, h12⟩ := Frame.name (x := x12) (frame_State_setReady (sub hm (by decide)) h9)
    rw [e12]
    extract_lets -merge -underBinder +onlyGivenNames x13
    obtain ⟨y13, e13, h13⟩ := Frame.name (x := x13) (frame_State_raise (sub hm (by decide)) h12)
    rw [e13]
    exact (.ite (frame_mirrorLose (sub hm (by decide)) (.mir (hm (by decide)) h13)) h13)
  · exact h6

theorem frame_doTrainTimeout {m s v0 v1} (hm : ([.links, .out, .regs, .evSeq, .dorm, .rings, .irq, .rate, .localQ, .exch, .ready, .mir] : List Part) ⊆ m) (g0 : Frame m s v0) : Frame m s (doTrainTimeout v0 v1) := by
  unfold doTrainTimeout
  extract_lets -merge -underBinder +onlyGivenNames x0
  refine Frame.ite ?_ ?_
  · extract_lets -merge -underBinder +onlyGivenNames x1
    obtain ⟨y1, e1, h1⟩ := Frame.name (x := x1) (frame_State_bump (sub hm (by decide)) (frame_leaveUp (sub hm (by decide)) g0))
    rw [e1]
    exact (frame_State_raiseLimited (sub hm (by decide)) h1)
  · exact g0

theorem frame_doBackoffExpiry {m s v0 v1} (hm : ([.links, .out] : List Part) ⊆ m) (g0 : Frame m s v0) : Frame m s (doBackoffExpiry v0 v1) := by
  unfold doBackoffExpiry
  extract_lets -merge -underBinder +onlyGivenNames x0
  exact (.ite (frame_linkEnter (sub hm (by decide)) g0) g0)

theorem frame_linkSetEnable {m s v0 v1 v2} (hm : ([.links, .out, .regs, .evSeq, .dorm, .rings, .irq, .rate, .localQ, .exch, .ready, .mir] : List Part) ⊆ m) (g0 : Frame m s v0) : Frame m s (linkSetEnable v0 v1 v2) := by
  unfold linkSetEnable
  extract_lets -merge -underBinder +onlyGivenNames x0
  exact (.ite (.ite (frame_linkEnter (sub hm (by decide)) g0) g0) (.ite g0 (frame_leaveUp (sub hm (by decide)) g0)))

theorem frame_linkRetrainNow {m s v0 v1} (hm : ([.links, .out, .regs, .evSeq, .dorm, .rings, .irq, .rate, .localQ, .exch, .ready, .mir] : List Part) ⊆ m) (g0 : Frame m s v0) : Frame m s (linkRetrainNow v0 v1) := by
  unfold linkRetrainNow
  exact (.ite g0 (frame_leaveUp (sub hm (by decide)) g0))

theorem frame_linkGoesUp {m s v0 v1} (hm : ([.links, .out, .ready, .evSeq, .dorm, .rings, .regs, .irq, .rate, .localQ, .exch] : List Part) ⊆ m) (g0 : Frame m s v0) : Frame m s (linkGoesUp v0 v1) := by
  unfold linkGoesUp
  extract_lets -merge -underBinder +onlyGivenNames x0 x1
  obtain ⟨y1, e1, h1⟩ := Frame.name (x := x1) (frame_State_setReady (sub hm (by decide)) (frame_linkEnter (sub hm (by decide)) g0))
  rw [e1]
  exact (frame_State_raise (sub hm (by decide)) h1)

theorem frame_takeSets {m s v0 v1 v2} (hm : ([.links, .regs] : List Part) ⊆ m) (g1 : Frame m s v1) : Frame m s (takeSets v0 v1 v2) := by
  unfold takeSets
  extract_lets -merge -underBinder +onlyGivenNames x0 x1 x2
  refine Frame.ite ?_ ?_
  · exact (frame_State_bump (sub hm (by decide)) (frame_State_setLink (sub hm (by decide)) g1))
  · extract_lets -merge -underBinder +onlyGivenNames x3 x4 x5
    exact (frame_State_setLink (sub hm (by decide)) g1)

theorem frame_trainAdvance {m s v0 v1 v2} (hm : ([.links, .out, .regs, .evSeq, .dorm, .rings, .irq, .rate, .localQ, .exch, .ready] : List Part) ⊆ m) (g0 : Frame m s v0) : Frame m s (trainAdvance v0 v1 v2) := by
  unfold trainAdvance
  extract_lets -merge -underBinder +onlyGivenNames x0
  split
  · exact (.ite (frame_linkEnter (sub hm (by decide)) g0) g0)
  · exact (frame_linkEnter (sub hm (by decide)) g0)
  · exact (frame_linkEnter (sub hm (by decide)) g0)
  · extract_lets -merge -underBinder +onlyGivenNames x1
    obtain ⟨y1, e1, h1⟩ := Frame.name (m := m) (s := s) (x := x1) (by
      unfold x1
      refine Frame.foldl ?_ ?_
      · exact g0
      · intro x2 a2 h2
        exact (frame_takeSets (sub hm (by decide)) h2))
    rw [e1]
    extract_lets -merge -underBinder +onlyGivenNames x3
    exact (.ite (frame_linkEnter (sub hm (by decide)) h1) h1)
  · exact (frame_sendCaps (sub hm (by decide)) (frame_linkEnter (sub hm (by decide)) g0))
  · exact (.ite (frame_linkGoesUp (sub hm (by decide)) g0) g0)
  · exact g0
  · exact g0

theorem frame_doCapsRepeat {m s v0 v1} (hm : ([.links, .evSeq, .out, .dorm, .rings, .regs, .irq, .rate, .localQ, .exch] : List Part) ⊆ m) (g0 : Frame m s v0) : Frame m s (doCapsRepeat v0 v1) := by
  unfold doCapsRepeat
  extract_lets -merge -underBinder +onlyGivenNames x0
  exact (.ite (frame_sendCaps (sub hm (by decide)) g0) g0)

theorem frame_takeLocal {m s v0 v1} (hm : ([.localQ] : List Part) ⊆ m) (g0 : Frame m s v0) : Frame m s (takeLocal v0 v1) := by
  unfold takeLocal
  exact (.localQ (hm (by decide)) g0)

theorem frame_doCaps {m s v0 v1 v2} (hm : ([.localQ, .links, .evSeq, .out, .dorm, .rings, .regs, .irq, .rate, .exch, .ready, .mir] : List Part) ⊆ m) (g0 : Frame m s v0) : Frame m s (doCaps v0 v1 v2) := by
  unfold doCaps
  extract_lets -merge -underBinder +onlyGivenNames x0
  obtain ⟨y0, e0, h0⟩ := Frame.name (x := x0) (frame_takeLocal (sub hm (by decide)) g0)
  rw [e0]
  extract_lets -merge -underBinder +onlyGivenNames x1
  refine Frame.ite ?_ ?_
  · exact h0
  · refine Frame.ite ?_ ?_
    · exact (.ite (frame_State_setLink (sub hm (by decide)) h0) h0)
    · extract_lets -merge -underBinder +onlyGivenNames x2 x3 x4 x5 x6 x7 x8 x9
      obtain ⟨y9, e9, h9⟩ := Frame.name (x := x9) (frame_State_setLink (sub hm (by decide)) h0)
      rw [e9]
      extract_lets -merge -underBinder +onlyGivenNames x10
      obtain ⟨y10, e10, h10⟩ := Frame.name (x := x10) (frame_sendLinkClass (sub hm (by decide)) h9)
      rw [e10]
      extract_lets -merge -underBinder +onlyGivenNames x11
      obtain ⟨y11, e11, h11⟩ := Frame.name (x := x11) (.ite (frame_State_raise (sub hm (by decide)) h10) h10)
      rw [e11]
      extract_lets -merge -underBinder +onlyGivenNames x12
      obtain ⟨y12, e12, h12⟩ := Frame.name (x := x12) (.ite (frame_State_raise (sub hm (by decide)) h11) h11)
      rw [e12]
      exact (.ite (frame_leaveUp (sub hm (by decide)) h12) (.ite (frame_State_raise (sub hm (by decide)) h12) h12))

theorem frame_linkLockLost {m s v0 v1} (hm : ([.links, .out, .regs, .evSeq, .dorm, .rings, .irq, .rate, .localQ, .exch, .ready, .mir] : List Part) ⊆ m) (g0 : Frame m s v0) : Frame m s (linkLockLost v0 v1) := by
  unfold linkLockLost
  exact (.ite (frame_leaveUp (sub hm (by decide)) g0) g0)

theorem frame_codeErrorBase {m s v0 v1 v2 v3} (hm : ([.links, .regs, .out, .evSeq, .dorm, .rings, .irq, .rate, .localQ, .exch, .ready, .mir] : List Part) ⊆ m) (g0 : Frame m s v0) : Frame m s (codeErrorBase v0 v1 v2 v3) := by
  unfold codeErrorBase
  extract_lets -merge -underBinder +onlyGivenNames x0 x1 x2
  obtain ⟨y2, e2, h2⟩ := Frame.name (x := x2) (frame_State_bump (sub hm (by decide)) (frame_State_setLink (sub hm (by decide)) g0))
  rw [e2]
  exact (.ite (frame_linkLockLost (sub hm (by decide)) h2) h2)

theorem frame_abortCopies {m s v0 v1 v2} (hm : ([.links, .out] : List Part) ⊆ m) (g0 : Frame m s v0) : Frame m s (abortCopies v0 v1 v2) := by
  unfold abortCopies
  extract_lets -merge -underBinder +onlyGivenNames x0
  refine Frame.foldl ?_ ?_
  · exact g0
  · intro x1 a1 h1
    extract_lets -merge -underBinder +onlyGivenNames x2
    exact (.ite (frame_State_emit (sub hm (by decide)) (frame_State_emit (sub hm (by decide)) (frame_State_setLink (sub hm (by decide)) h1))) h1)

theorem frame_crcBad {m s v0 v1 v2} (hm : ([.regs, .links, .evSeq, .out, .dorm, .rings, .irq, .rate, .localQ, .exch, .mir] : List Part) ⊆ m) (g0 : Frame m s v0) : Frame m s (crcBad v0 v1 v2) := by
  unfold crcBad
  extract_lets -merge -underBinder +onlyGivenNames x0
  obtain ⟨y0, e0, h0⟩ := Frame.name (x := x0) (frame_State_bump (sub hm (by decide)) g0)
  rw [e0]
  extract_lets -merge -underBinder +onlyGivenNames x1 x2
  obtain ⟨y2, e2, h2⟩ := Frame.name (x := x2) (.ite (frame_State_setLink (sub hm (by decide)) h0) (frame_State_raise (sub hm (by decide)) (frame_State_setLink (sub hm (by decide)) h0)))
  rw [e2]
  extract_lets -merge -underBinder +onlyGivenNames x3
  obtain ⟨y3, e3, h3⟩ := Frame.name (x := x3) (frame_abortCopies (sub hm (by decide)) h2)
  rw [e3]
  refine Frame.ite ?_ ?_
  · extract_lets -merge -underBinder +onlyGivenNames x4 x5
    obtain ⟨y5, e5, h5⟩ := Frame.name (x := x5) (.mir (hm (by decide)) h3)
    rw [e5]
    exact (.ite (frame_mirrorLose (sub hm (by decide)) h5) h5)
  · exact h3

theorem frame_doPacketReceive {m s v0 v1 v2 v3 v4} (hm : ([.links, .regs, .out, .evSeq, .dorm, .rings, .irq, .rate, .localQ, .exch, .mir] : List Part) ⊆ m) (g0 : Frame m s v0) : Frame m s (doPacketReceive v0 v1 v2 v3 v4) := by
  unfold doPacketReceive
  extract_lets -merge -underBinder +onlyGivenNames x0
  refine Frame.ite ?_ ?_
  · exact g0
  · extract_lets -merge -underBinder +onlyGivenNames x1
    obtain ⟨y1, e1, h1⟩ := Frame.name (x := x1) (frame_State_setLink (sub hm (by decide)) g0)
    rw [e1]
    refine Frame.ite ?_ ?_
    · exact (frame_abortCopies (sub hm (by decide)) (frame_State_bump (sub hm (by decide)) h1))
    · refine Frame.ite ?_ ?_
      · extract_lets -merge -underBinder +onlyGivenNames x2
        obtain ⟨y2, e2, h2⟩ := Frame.name (x := x2) (.ite (frame_State_bump (sub hm (by decide)) h1) h1)
        rw [e2]
        exact (.ite (frame_crcBad (sub hm (by decide)) h2) h2)
      · extract_lets -merge -underBinder +onlyGivenNames x3 x4
        refine Frame.ite ?_ ?_
        · extract_lets -merge -underBinder +onlyGivenNames x5
          obtain ⟨y5, e5, h5⟩ := Frame.name (x := x5) (frame_State_bump (sub hm (by decide)) h1)
          rw [e5]
          exact (frame_fabDrop (sub hm (by decide)) (fun _ _ _ h => frame_State_raise (sub hm (by decide)) h) h5)
        · exact (.ite (frame_deliver (sub hm (by decide)) h1) (frame_State_routePkt (sub hm (by decide)) h1))

theorem frame_doCrcWindowEnd {m s v0 v1} (hm : ([.links, .evSeq, .out, .dorm, .rings, .regs, .irq, .rate, .localQ, .exch] : List Part) ⊆ m) (g0 : Frame m s v0) : Frame m s (doCrcWindowEnd v0 v1) := by
  unfold doCrcWindowEnd
  extract_lets -merge -underBinder +onlyGivenNames x0 x1
  obtain ⟨y1, e1, h1⟩ := Frame.name (x := x1) (frame_State_setLink (sub hm (by decide)) g0)
  rw [e1]
  exact (.ite (frame_State_raise (sub hm (by decide)) h1) h1)

theorem frame_pumpLink {m s v0 v1} (hm : ([.evSeq, .out, .dorm, .rings, .regs, .irq, .rate, .localQ, .links, .exch] : List Part) ⊆ m) (g0 : Frame m s v0) : Frame m s (pumpLink v0 v1) := by
  unfold pumpLink
  exact (frame_startNext (sub hm (by decide)) (fun _ _ _ h => frame_State_raise (sub hm (by decide)) h) g0)

theorem frame_sendSkp {m s v0 v1} (hm : ([.links, .out] : List Part) ⊆ m) (g0 : Frame m s v0) : Frame m s (sendSkp v0 v1) := by
  unfold sendSkp
  extract_lets -merge -underBinder +onlyGivenNames x0 x1 x2
  exact (frame_State_emit (sub hm (by decide)) (frame_State_emit (sub hm (by decide)) (frame_State_setLink (sub hm (by decide)) g0)))

theorem frame_doPacketEnd {m s v0 v1} (hm : ([.links, .out, .evSeq, .dorm, .rings, .regs, .irq, .rate, .localQ, .exch, .mir] : List Part) ⊆ m) (g0 : Frame m s v0) : Frame m s (doPacketEnd v0 v1) := by
  unfold doPacketEnd
  extract_lets -merge -underBinder +onlyGivenNames x0 x1
  obtain ⟨y1, e1, h1⟩ := Frame.name (x := x1) (frame_State_setLink (sub hm (by decide)) g0)
  rw [e1]
  extract_lets -merge -underBinder +onlyGivenNames x2
  obtain ⟨y2, e2, h2⟩ := Frame.name (x := x2) (.ite (frame_State_emit (sub hm (by decide)) h1) h1)
  rw [e2]
  extract_lets -merge -underBinder +onlyGivenNames x3
  obtain ⟨y3, e3, h3⟩ := Frame.name (x := x3) (frame_pumpLink (sub hm (by decide)) (.ite (frame_sendSkp (sub hm (by decide)) h2) h2))
  rw [e3]
  exact (.ite (frame_mirrorPump (sub hm (by decide)) h3) h3)

theorem frame_doSkp {m s v0 v1} (hm : ([.links, .out] : List Part) ⊆ m) (g0 : Frame m s v0) : Frame m s (doSkp v0 v1) := by
  unfold doSkp
  extract_lets -merge -underBinder +onlyGivenNames x0
  exact (.ite g0 (.ite (frame_State_setLink (sub hm (by decide)) g0) (frame_sendSkp (sub hm (by decide)) g0)))

theorem frame_doReorderRelease {m s v0 v1} (hm : ([.links, .evSeq, .out, .dorm, .rings, .regs, .irq, .rate, .localQ, .exch] : List Part) ⊆ m) (g0 : Frame m s v0) : Frame m s (doReorderRelease v0 v1) := by
  unfold doReorderRelease
  extract_lets -merge -underBinder +onlyGivenNames x0
  split
  · exact (frame_pumpLink (sub hm (by decide)) (frame_State_setLink (sub hm (by decide)) g0))
  · exact g0

theorem frame_tephraDisarm {m s v0 v1} (hm : ([.links, .evSeq, .out, .dorm, .rings, .regs, .irq, .rate, .localQ, .exch] : List Part) ⊆ m) (g0 : Frame m s v0) : Frame m s (tephraDisarm v0 v1) := by
  unfold tephraDisarm
  extract_lets -merge -underBinder +onlyGivenNames x0
  obtain ⟨y0, e0, h0⟩ := Frame.name (x := x0) (frame_doReorderRelease (sub hm (by decide)) g0)
  rw [e0]
  extract_lets -merge -underBinder +onlyGivenNames x1
  refine Frame.ite ?_ ?_
  · exact h0
  · extract_lets -merge -underBinder +onlyGivenNames x2 x3 x4 x5
    obtain ⟨y5, e5, h5⟩ := Frame.name (x := x5) (frame_State_setLink (sub hm (by decide)) h0)
    rw [e5]
    exact (frame_State_raise (sub hm (by decide)) h5)

theorem frame_doTephraCfg {m s v0 v1} (hm : ([.regs, .evSeq, .out, .dorm, .rings, .irq, .rate, .localQ, .links, .exch, .inFlight, .dma, .done, .mir, .domain] : List Part) ⊆ m) (g0 : Frame m s v0) : Frame m s (doTephraCfg v0 v1) := by
  unfold doTephraCfg
  extract_lets -merge -underBinder +onlyGivenNames x0 x1 x2
  refine frame_runJob (sub hm (by decide)) ?_ ?_
  · exact g0
  · intro x3_0 h3_0
    extract_lets -merge -underBinder +onlyGivenNames x4
    obtain ⟨y4, e4, h4⟩ := Frame.name (x := x4) (frame_State_setReg (sub hm (by decide)) (frame_tephraDisarm (sub hm (by decide)) h3_0))
    rw [e4]
    extract_lets -merge -underBinder +onlyGivenNames x5 x6 x7
    obtain ⟨y7, e7, h7⟩ := Frame.name (x := x7) (frame_State_setLink (sub hm (by decide)) h4)
    rw [e7]
    extract_lets -merge -underBinder +onlyGivenNames x8 x9
    obtain ⟨y9, e9, h9⟩ := Frame.name (x := x9) (.ite h7 (.domain (hm (by decide)) h7))
    rw [e9]
    extract_lets -merge -underBinder +onlyGivenNames x10
    obtain ⟨y10, e10, h10⟩ := Frame.name (x := x10) (.ite h4 (frame_State_raise (sub hm (by decide)) h9))
    rw [e10]
    exact (frame_State_finish (sub hm (by decide)) h10)

theorem frame_setRoute {m s v0 v1 v2} (hm : ([.regs] : List Part) ⊆ m) (g0 : Frame m s v0) : Frame m s (setRoute v0 v1 v2) := by
  unfold setRoute
  extract_lets -merge -underBinder +onlyGivenNames x0 x1 x2
  exact (frame_State_setReg (sub hm (by decide)) g0)

theorem frame_routeLoad {m s v0 v1 v2} (hm : ([.inFlight, .dma, .done, .mir, .regs, .evSeq, .out, .dorm, .rings, .irq, .rate, .localQ, .links, .exch] : List Part) ⊆ m) (g0 : Frame m s v0) : Frame m s (routeLoad v0 v1 v2) := by
  unfold routeLoad
  refine frame_State_finish (sub hm (by decide)) ?_
  refine Frame.foldl ?_ ?_
  · exact g0
  · intro x0 a0 h0
    exact (frame_State_setReg (sub hm (by decide)) h0)

theorem frame_doRouteSet {m s v0 v1 v2} (hm : ([.regs, .evSeq, .out, .dorm, .rings, .irq, .rate, .localQ, .links, .exch, .inFlight, .dma, .done, .mir, .mgmt] : List Part) ⊆ m) (g0 : Frame m s v0) : Frame m s (doRouteSet v0 v1 v2) := by
  unfold doRouteSet
  extract_lets -merge -underBinder +onlyGivenNames x0 x1 x2 x3
  refine frame_runJob (sub hm (by decide)) ?_ ?_
  · exact g0
  · intro x4_0 h4_0
    refine Frame.ite ?_ ?_
    · refine frame_State_finish (sub hm (by decide)) ?_
      refine Frame.foldl ?_ ?_
      · exact h4_0
      · intro x5 a5 h5
        exact (frame_setRoute (sub hm (by decide)) h5)
    · refine frame_State_hostFetch (sub hm (by decide)) ?_ ?_
      · exact h4_0
      · intro x6_0 a6_1 h6_0
        exact (frame_routeLoad (sub hm (by decide)) h6_0)

theorem frame_doGroupSet {m s v0 v1} (hm : ([.regs, .evSeq, .out, .dorm, .rings, .irq, .rate, .localQ, .links, .exch, .inFlight, .dma, .done, .mir] : List Part) ⊆ m) (g0 : Frame m s v0) : Frame m s (doGroupSet v0 v1) := by
  unfold doGroupSet
  refine frame_runJob (sub hm (by decide)) ?_ ?_
  · exact g0
  · intro x0_0 h0_0
    exact (frame_State_finish (sub hm (by decide)) (frame_State_setReg (sub hm (by decide)) h0_0))

theorem frame_domainDenied {m s v0 v1 v2} (hm : ([.rate, .evSeq, .out, .dorm, .rings, .regs, .irq, .localQ, .links, .exch] : List Part) ⊆ m) (g0 : Frame m s v0) : Frame m s (domainDenied v0 v1 v2) := by
  unfold domainDenied
  exact (frame_State_raiseLimited (sub hm (by decide)) g0)

theorem frame_domainWrite {m s v0 v1 v2 v3} (hm : ([.rate, .evSeq, .out, .dorm, .rings, .regs, .irq, .localQ, .links, .exch, .domain] : List Part) ⊆ m) (g0 : Frame m s v0) : Frame m s (domainWrite v0 v1 v2 v3).1 := by
  unfold domainWrite
  extract_lets -merge -underBinder +onlyGivenNames x0
  refine Frame.ite1 ?_ ?_
  · refine Frame.ite1 ?_ ?_
    · refine Frame.mk1 ?_
      exact g0
    · refine Frame.mk1 ?_
      exact (frame_domainDenied (sub hm (by decide)) g0)
  · refine Frame.ite1 ?_ ?_
    · refine Frame.ite1 ?_ ?_
      · refine Frame.mk1 ?_
        exact (frame_domainDenied (sub hm (by decide)) g0)
      · refine Frame.ite1 ?_ ?_
        · refine Frame.mk1 ?_
          exact (frame_capsAll (sub hm (by decide)) (.domain (hm (by decide)) g0))
        · refine Frame.mk1 ?_
          exact g0
    · refine Frame.ite1 ?_ ?_
      · refine Frame.mk1 ?_
        exact (frame_capsAll (sub hm (by decide)) (.domain (hm (by decide)) g0))
      · refine Frame.mk1 ?_
        exact g0

theorem frame_pcieTrained {m s v0} (hm : ([.free, .pcie] : List Part) ⊆ m) (g0 : Frame m s v0) : Frame m s (pcieTrained v0) := by
  unfold pcieTrained
  extract_lets -merge -underBinder +onlyGivenNames x0 x1 x2
  exact (Frame.upd g0 (fun p => by cases p; (case free | pcie => exact .inl (hm (by decide))); all_goals first | exact .inr rfl | exact .inr (fun _ _ _ => rfl) | exact .inr ⟨rfl, rfl⟩ | exact .inr ⟨rfl, rfl, rfl⟩ | exact .inr ⟨rfl, rfl, rfl, rfl⟩))

theorem frame_doPcieLinkUp {m s v0} (hm : ([.power, .free, .pcie, .ready, .evSeq, .out, .dorm, .rings, .regs, .irq, .rate, .localQ, .links, .exch] : List Part) ⊆ m) (g0 : Frame m s v0) : Frame m s (doPcieLinkUp v0) := by
  unfold doPcieLinkUp
  exact (.ite (frame_capsAll (sub hm (by decide)) (frame_State_setReady (sub hm (by decide)) (frame_pcieTrained (sub hm (by decide)) (.power (hm (by decide)) g0)))) g0)

theorem frame_advanceTime {m s v0 v1} (hm : ([.clk, .ft, .time] : List Part) ⊆ m) (g0 : Frame m s v0) : Frame m s (advanceTime v0 v1) := by
  unfold advanceTime
  extract_lets -merge -underBinder +onlyGivenNames x0 x1
  exact (.ite (.clk (hm (by decide)) g0) (Frame.upd g0 (fun p => by cases p; (case clk | ft | time => exact .inl (hm (by decide))); all_goals first | exact .inr rfl | exact .inr (fun _ _ _ => rfl) | exact .inr ⟨rfl, rfl⟩ | exact .inr ⟨rfl, rfl, rfl⟩ | exact .inr ⟨rfl, rfl, rfl, rfl⟩)))

theorem frame_setTimeState {m s v0 v1} (hm : ([.time, .evSeq, .out, .dorm, .rings, .regs, .irq, .rate, .localQ, .links, .exch, .pair, .ready] : List Part) ⊆ m) (g0 : Frame m s v0) : Frame m s (setTimeState v0 v1) := by
  unfold setTimeState
  refine Frame.ite ?_ ?_
  · exact g0
  · extract_lets -merge -underBinder +onlyGivenNames x0 x1 x2
    obtain ⟨y2, e2, h2⟩ := Frame.name (x := x2) (.time (hm (by decide)) g0)
    rw [e2]
    extract_lets -merge -underBinder +onlyGivenNames x3
    obtain ⟨y3, e3, h3⟩ := Frame.name (x := x3) (frame_State_raise (sub hm (by decide)) h2)
    rw [e3]
    extract_lets -merge -underBinder +onlyGivenNames x4
    obtain ⟨y4, e4, h4⟩ := Frame.name (x := x4) (.ite (frame_State_untrigger (sub hm (by decide)) h3) h3)
    rw [e4]
    exact (frame_State_setReady (sub hm (by decide)) h4)

theorem frame_sendTime {m s v0 v1 v2} (hm : ([.evSeq, .out, .dorm, .rings, .regs, .irq, .rate, .localQ, .links, .exch] : List Part) ⊆ m) (g0 : Frame m s v0) : Frame m s (sendTime v0 v1 v2) := by
  unfold sendTime
  exact (frame_enqueue (sub hm (by decide)) (fun _ _ _ h => frame_State_raise (sub hm (by decide)) h) g0)

theorem frame_noteRoot {m s v0 v1 v2} (hm : ([.exch, .rate, .evSeq, .out, .dorm, .rings, .regs, .irq, .localQ, .links] : List Part) ⊆ m) (g0 : Frame m s v0) : Frame m s (noteRoot v0 v1 v2) := by
  unfold noteRoot
  refine Frame.ite ?_ ?_
  · exact g0
  · extract_lets -merge -underBinder +onlyGivenNames x0 x1
    obtain ⟨y1, e1, h1⟩ := Frame.name (x := x1) (frame_State_setTlink (sub hm (by decide)) g0)
    rw [e1]
    extract_lets -merge -underBinder +onlyGivenNames x2 x3 x4
    refine Frame.ite ?_ ?_
    · exact h1
    · split
      · exact (frame_State_raiseLimited (sub hm (by decide)) h1)

theorem frame_doSync {m s v0 v1 v2} (hm : ([.localQ, .exch, .rate, .evSeq, .out, .dorm, .rings, .regs, .irq, .links] : List Part) ⊆ m) (g0 : Frame m s v0) : Frame m s (doSync v0 v1 v2) := by
  unfold doSync
  extract_lets -merge -underBinder +onlyGivenNames x0
  obtain ⟨y0, e0, h0⟩ := Frame.name (x := x0) (frame_takeLocal (sub hm (by decide)) g0)
  rw [e0]
  refine Frame.ite ?_ ?_
  · exact h0
  · extract_lets -merge -underBinder +onlyGivenNames x1 x2
    obtain ⟨y2, e2, h2⟩ := Frame.name (x := x2) (frame_noteRoot (sub hm (by decide)) h0)
    rw [e2]
    exact (.ite (frame_sendTime (sub hm (by decide)) h2) h2)

theorem frame_doReply {m s v0 v1 v2} (hm : ([.localQ, .exch, .rate, .evSeq, .out, .dorm, .rings, .regs, .irq, .links] : List Part) ⊆ m) (g0 : Frame m s v0) : Frame m s (doReply v0 v1 v2) := by
  unfold doReply
  extract_lets -merge -underBinder +onlyGivenNames x0
  obtain ⟨y0, e0, h0⟩ := Frame.name (x := x0) (frame_takeLocal (sub hm (by decide)) g0)
  rw [e0]
  refine Frame.ite ?_ ?_
  · exact h0
  · extract_lets -merge -underBinder +onlyGivenNames x1 x2
    obtain ⟨y2, e2, h2⟩ := Frame.name (x := x2) (frame_noteRoot (sub hm (by decide)) h0)
    rw [e2]
    refine Frame.ite ?_ ?_
    · exact h2
    · extract_lets -merge -underBinder +onlyGivenNames x3 x4
      split
      · exact h2
      · extract_lets -merge -underBinder +onlyGivenNames x5
        refine Frame.ite ?_ ?_
        · exact (frame_State_setTlink (sub hm (by decide)) h2)
        · extract_lets -merge -underBinder +onlyGivenNames x6 x7 x8 x9 x10 x11
          obtain ⟨y11, e11, h11⟩ := Frame.name (x := x11) (frame_State_setTlink (sub hm (by decide)) h2)
          rw [e11]
          exact (.ite (frame_State_raise (sub hm (by decide)) h11) h11)

theorem frame_stepTime {m s v0 v1} (hm : ([.ft, .touch, .exch] : List Part) ⊆ m) (g0 : Frame m s v0) : Frame m s (stepTime v0 v1) := by
  unfold stepTime
  extract_lets -merge -underBinder +onlyGivenNames x0 x1
  obtain ⟨y1, e1, h1⟩ := Frame.name (x := x1) (.ft (hm (by decide)) g0)
  rw [e1]
  extract_lets -merge -underBinder +onlyGivenNames x2 x3
  obtain ⟨y3, e3, h3⟩ := Frame.name (x := x3) (.touch (hm (by decide)) h1)
  rw [e3]
  refine Frame.foldl ?_ ?_
  · exact h3
  · intro x4 a4 h4
    extract_lets -merge -underBinder +onlyGivenNames x5
    exact (frame_State_setTlink (sub hm (by decide)) h4)

theorem frame_servo {m s v0 v1} (hm : ([.free, .time, .evSeq, .out, .dorm, .rings, .regs, .irq, .rate, .localQ, .links, .exch] : List Part) ⊆ m) (g0 : Frame m s v0) : Frame m s (servo v0 v1) := by
  unfold servo
  extract_lets -merge -underBinder +onlyGivenNames x0 x1 x2 x3 x4 x5 x6 x7 x8
  obtain ⟨y8, e8, h8⟩ := Frame.name (x := x8) (Frame.upd g0 (fun p => by cases p; (case free | time => exact .inl (hm (by decide))); all_goals first | exact .inr rfl | exact .inr (fun _ _ _ => rfl) | exact .inr ⟨rfl, rfl⟩ | exact .inr ⟨rfl, rfl, rfl⟩ | exact .inr ⟨rfl, rfl, rfl, rfl⟩))
  rw [e8]
  exact (.ite (frame_State_raise (sub hm (by decide)) h8) h8)

theorem frame_withParent {m s v0 v1 v2} (hm : ([.time, .ft, .touch, .exch, .evSeq, .out, .dorm, .rings, .regs, .irq, .rate, .localQ, .links, .pair, .ready, .free] : List Part) ⊆ m) (g0 : Frame m s v0) : Frame m s (withParent v0 v1 v2) := by
  unfold withParent
  extract_lets -merge -underBinder +onlyGivenNames x0 x1
  obtain ⟨y1, e1, h1⟩ := Frame.name (x := x1) (.time (hm (by decide)) g0)
  rw [e1]
  extract_lets -merge -underBinder +onlyGivenNames x2 x3
  obtain ⟨y3, e3, h3⟩ := Frame.name (x := x3) (frame_stepTime (sub hm (by decide)) h1)
  rw [e3]
  extract_lets -merge -underBinder +onlyGivenNames x4 x5 x6
  obtain ⟨y6, e6, h6⟩ := Frame.name (x := x6) (.ite (frame_setTimeState (sub hm (by decide)) (frame_stepTime (sub hm (by decide)) h1)) (.ite (.time (hm (by decide)) h3) h1))
  rw [e6]
  extract_lets -merge -underBinder +onlyGivenNames x7 x8 x9
  obtain ⟨y9, e9, h9⟩ := Frame.name (x := x9) (.time (hm (by decide)) h6)
  rw [e9]
  extract_lets -merge -underBinder +onlyGivenNames x10 x11
  obtain ⟨y11, e11, h11⟩ := Frame.name (x := x11) (.ite (frame_setTimeState (sub hm (by decide)) (.time (hm (by decide)) h9)) h9)
  rw [e11]
  extract_lets -merge -underBinder +onlyGivenNames x12 x13
  obtain ⟨y13, e13, h13⟩ := Frame.name (x := x13) (frame_servo (sub hm (by decide)) h11)
  rw [e13]
  extract_lets -merge -underBinder +onlyGivenNames x14 x15
  obtain ⟨y15, e15, h15⟩ := Frame.name (x := x15) (.time (hm (by decide)) h13)
  rw [e15]
  extract_lets -merge -underBinder +onlyGivenNames x16 x17
  obtain ⟨y17, e17, h17⟩ := Frame.name (x := x17) (frame_State_setTlink (sub hm (by decide)) h15)
  rw [e17]
  extract_lets -merge -underBinder +onlyGivenNames x18 x19
  obtain ⟨y19, e19, h19⟩ := Frame.name (x := x19) (.ite (frame_setTimeState (sub hm (by decide)) (.time (hm (by decide)) h17)) h17)
  rw [e19]
  exact (.ite (frame_setTimeState (sub hm (by decide)) (.time (hm (by decide)) h19)) h19)

theorem frame_enterHoldover {m s v0 v1} (hm : ([.time, .evSeq, .out, .dorm, .rings, .regs, .irq, .rate, .localQ, .links, .exch, .pair, .ready] : List Part) ⊆ m) (g0 : Frame m s v0) : Frame m s (enterHoldover v0 v1) := by
  unfold enterHoldover
  exact (frame_setTimeState (sub hm (by decide)) (.time (hm (by decide)) g0))

theorem frame_withoutParent {m s v0} (hm : ([.time, .evSeq, .out, .dorm, .rings, .regs, .irq, .rate, .localQ, .links, .exch, .pair, .ready] : List Part) ⊆ m) (g0 : Frame m s v0) : Frame m s (withoutParent v0) := by
  unfold withoutParent
  split
  · exact (frame_enterHoldover (sub hm (by decide)) g0)
  · exact (frame_enterHoldover (sub hm (by decide)) g0)
  · exact (frame_setTimeState (sub hm (by decide)) (.time (hm (by decide)) g0))
  · exact (.ite (frame_setTimeState (sub hm (by decide)) g0) g0)
  · exact g0

theorem frame_applyTimeCfg {m s v0 v1} (hm : ([.time, .ft, .evSeq, .out, .dorm, .rings, .regs, .irq, .rate, .localQ, .links, .exch, .pair, .ready, .inFlight, .dma, .done, .mir] : List Part) ⊆ m) (g0 : Frame m s v0) : Frame m s (applyTimeCfg v0 v1) := by
  unfold applyTimeCfg
  extract_lets -merge -underBinder +onlyGivenNames x0 x1 x2
  obtain ⟨y2, e2, h2⟩ := Frame.name (x := x2) (.time (hm (by decide)) g0)
  rw [e2]
  extract_lets -merge -underBinder +onlyGivenNames x3 x4
  obtain ⟨y4, e4, h4⟩ := Frame.name (x := x4) (.ite (Frame.upd h2 (fun p => by cases p; (case ft | time => exact .inl (hm (by decide))); all_goals first | exact .inr rfl | exact .inr (fun _ _ _ => rfl) | exact .inr ⟨rfl, rfl⟩ | exact .inr ⟨rfl, rfl, rfl⟩ | exact .inr ⟨rfl, rfl, rfl, rfl⟩)) h2)
  rw [e4]
  extract_lets -merge -underBinder +onlyGivenNames x5 x6 x7
  obtain ⟨y7, e7, h7⟩ := Frame.name (x := x7) (.ite (.ite h2 (frame_setTimeState (sub hm (by decide)) (.time (hm (by decide)) h4))) (.ite (frame_enterHoldover (sub hm (by decide)) (.time (hm (by decide)) h2)) h2))
  rw [e7]
  exact (frame_State_finish (sub hm (by decide)) h7)

theorem frame_doTimeCfg {m s v0 v1} (hm : ([.regs, .evSeq, .out, .dorm, .rings, .irq, .rate, .localQ, .links, .exch, .inFlight, .dma, .done, .mir, .time] : List Part) ⊆ m) (g0 : Frame m s v0) : Frame m s (doTimeCfg v0 v1) := by
  unfold doTimeCfg
  refine frame_runJob (sub hm (by decide)) ?_ ?_
  · exact g0
  · intro x0_0 h0_0
    exact (.time (hm (by decide)) h0_0)

theorem frame_sendSyncs {m s v0} (hm : ([.time, .evSeq, .out, .dorm, .rings, .regs, .irq, .rate, .localQ, .links, .exch] : List Part) ⊆ m) (g0 : Frame m s v0) : Frame m s (sendSyncs v0) := by
  unfold sendSyncs
  refine Frame.foldl ?_ ?_
  · exact g0
  · intro x0 a0 h0
    refine Frame.ite ?_ ?_
    · extract_lets -merge -underBinder +onlyGivenNames x1
      exact (frame_sendTime (sub hm (by decide)) (.time (hm (by decide)) h0))
    · exact h0

theorem frame_ageLinks {m s v0} (hm : ([.exch] : List Part) ⊆ m) (g0 : Frame m s v0) : Frame m s (ageLinks v0) := by
  unfold ageLinks
  refine Frame.foldl ?_ ?_
  · exact g0
  · intro x0 a0 h0
    extract_lets -merge -underBinder +onlyGivenNames x1
    exact (frame_State_setTlink (sub hm (by decide)) h0)

theorem frame_doExchangePeriod {m s v0} (hm : ([.time, .ft, .evSeq, .out, .dorm, .rings, .regs, .irq, .rate, .localQ, .links, .exch, .pair, .ready, .inFlight, .dma, .done, .mir, .touch, .free] : List Part) ⊆ m) (g0 : Frame m s v0) : Frame m s (doExchangePeriod v0) := by
  unfold doExchangePeriod
  extract_lets -merge -underBinder +onlyGivenNames x0
  obtain ⟨y0, e0, h0⟩ := Frame.name (m := m) (s := s) (x := x0) (by
    unfold x0
    split
    · exact g0
    · exact (frame_applyTimeCfg (sub hm (by decide)) (.time (hm (by decide)) g0)))
  rw [e0]
  extract_lets -merge -underBinder +onlyGivenNames x1
  obtain ⟨y1, e1, h1⟩ := Frame.name (x := x1) (frame_ageLinks (sub hm (by decide)) h0)
  rw [e1]
  refine Frame.ite ?_ ?_
  · exact h1
  · extract_lets -merge -underBinder +onlyGivenNames x2 x3
    obtain ⟨y3, e3, h3⟩ := Frame.name (m := m) (s := s) (x := x3) (by
      unfold x3
      split
      · exact (frame_withParent (sub hm (by decide)) h1)
      · exact (frame_withoutParent (sub hm (by decide)) h1))
    rw [e3]
    exact (frame_sendSyncs (sub hm (by decide)) h3)

theorem frame_doHoldoverExpiry {m s v0} (hm : ([.time, .evSeq, .out, .dorm, .rings, .regs, .irq, .rate, .localQ, .links, .exch, .pair, .ready] : List Part) ⊆ m) (g0 : Frame m s v0) : Frame m s (doHoldoverExpiry v0) := by
  unfold doHoldoverExpiry
  exact (.ite (frame_setTimeState (sub hm (by decide)) g0) g0)

end Machine
end Sys2Proof
end

