-- ==== Sys2Proof/Laws/FramesPictures.lean ====
section
/-! SUPPORT. Which parts of the state sources and tiles, surfaces, decode contexts and capture ports can change, said once for each operation: a lemma frame_f says that the operation f
changes no part outside the list of its hypothesis. -/

set_option Elab.async false

namespace Sys2Proof
namespace Machine

theorem frame_State_setSource {m s v0 v1 v2} (hm : ([.fum] : List Part) ⊆ m) (g0 : Frame m s v0) : Frame m s (State.setSource v0 v1 v2) := by
  unfold State.setSource
  exact (.fum (hm (by decide)) g0)

theorem frame_State_setTile {m s v0 v1 v2} (hm : ([.fum] : List Part) ⊆ m) (g0 : Frame m s v0) : Frame m s (State.setTile v0 v1 v2) := by
  unfold State.setTile
  exact (.fum (hm (by decide)) g0)

theorem frame_State_setTg {m s v0 v1 v2} (hm : ([.scan] : List Part) ⊆ m) (g0 : Frame m s v0) : Frame m s (State.setTg v0 v1 v2) := by
  unfold State.setTg
  exact (.scan (hm (by decide)) g0)

theorem frame_State_setChk {m s v0 v1 v2} (hm : ([.scan] : List Part) ⊆ m) (g0 : Frame m s v0) : Frame m s (State.setChk v0 v1 v2) := by
  unfold State.setChk
  exact (.scan (hm (by decide)) g0)

theorem frame_State_setPub {m s v0 v1 v2} (hm : ([.surf] : List Part) ⊆ m) (g0 : Frame m s v0) : Frame m s (State.setPub v0 v1 v2) := by
  unfold State.setPub
  exact (.surf (hm (by decide)) g0)

theorem frame_pairAlarm {m s v0 v1 v2 v3 v4} (hm : ([.evSeq, .out, .dorm, .rings, .regs, .irq, .rate, .localQ, .links, .exch] : List Part) ⊆ m) (g0 : Frame m s v0) : Frame m s (pairAlarm v0 v1 v2 v3 v4) := by
  unfold pairAlarm
  exact (.ite g0 (.ite (frame_State_raise (sub hm (by decide)) g0) (frame_State_bump (sub hm (by decide)) g0)))

theorem frame_evalSource {m s v0 v1 v2} (hm : ([.fum, .evSeq, .out, .dorm, .rings, .regs, .irq, .rate, .localQ, .links, .exch] : List Part) ⊆ m) (g0 : Frame m s v0) : Frame m s (evalSource v0 v1 v2) := by
  unfold evalSource
  extract_lets -merge -underBinder +onlyGivenNames x0 x1
  refine Frame.ite ?_ ?_
  · exact g0
  · extract_lets -merge -underBinder +onlyGivenNames x2
    obtain ⟨y2, e2, h2⟩ := Frame.name (x := x2) (frame_State_setSource (sub hm (by decide)) g0)
    rw [e2]
    extract_lets -merge -underBinder +onlyGivenNames x3
    obtain ⟨y3, e3, h3⟩ := Frame.name (x := x3) (frame_State_raise (sub hm (by decide)) h2)
    rw [e3]
    exact (frame_pairAlarm (sub hm (by decide)) h3)

theorem frame_doTick {m s v0} (hm : ([.fum, .evSeq, .out, .dorm, .rings, .regs, .irq, .rate, .localQ, .links, .exch] : List Part) ⊆ m) (g0 : Frame m s v0) : Frame m s (doTick v0) := by
  unfold doTick
  refine Frame.ite ?_ ?_
  · exact g0
  · extract_lets -merge -underBinder +onlyGivenNames x0 x1
    obtain ⟨y1, e1, h1⟩ := Frame.name (x := x1) (.fum (hm (by decide)) g0)
    rw [e1]
    refine Frame.foldl ?_ ?_
    · exact h1
    · intro x2 a2 h2
      exact (.ite (frame_evalSource (sub hm (by decide)) h2) h2)

theorem frame_sourceBand {m s v0 v1 v2 v3 v4 v5 v6 v7 v8 v9} (hm : ([.fum, .evSeq, .out, .dorm, .rings, .regs, .irq, .rate, .localQ, .links, .exch] : List Part) ⊆ m) (g0 : Frame m s v0) : Frame m s (sourceBand v0 v1 v2 v3 v4 v5 v6 v7 v8 v9) := by
  unfold sourceBand
  split
  · exact g0
  · extract_lets -merge -underBinder +onlyGivenNames x0 x1
    refine Frame.ite ?_ ?_
    · exact g0
    · extract_lets -merge -underBinder +onlyGivenNames x2 x3 x4 x5 x6 x7 x8 x9 x10 x11 x12
      obtain ⟨y12, e12, h12⟩ := Frame.name (x := x12) (frame_State_setSource (sub hm (by decide)) g0)
      rw [e12]
      exact (.ite (frame_evalSource (sub hm (by decide)) h12) h12)

theorem frame_tableStart {m s v0 v1 v2 v3} (hm : ([.surf] : List Part) ⊆ m) (g0 : Frame m s v0) : Frame m s (tableStart v0 v1 v2 v3) := by
  unfold tableStart
  extract_lets -merge -underBinder +onlyGivenNames x0
  exact (frame_State_setPub (sub hm (by decide)) g0)

theorem frame_tableBand {m s v0 v1 v2 v3 v4 v5 v6 v7 v8} (hm : ([.surf, .fum, .evSeq, .out, .dorm, .rings, .regs, .irq, .rate, .localQ, .links, .exch] : List Part) ⊆ m) (g0 : Frame m s v0) : Frame m s (tableBand v0 v1 v2 v3 v4 v5 v6 v7 v8) := by
  unfold tableBand
  extract_lets -merge -underBinder +onlyGivenNames x0 x1 x2 x3 x4 x5
  obtain ⟨y5, e5, h5⟩ := Frame.name (x := x5) (frame_State_setPub (sub hm (by decide)) g0)
  rw [e5]
  exact (frame_sourceBand (sub hm (by decide)) h5)

theorem frame_State_wr {m s v0 v1 v2 v3} (hm : ([.regs, .evSeq, .out, .dorm, .rings, .irq, .rate, .localQ, .links, .exch, .mem, .dram] : List Part) ⊆ m) (g0 : Frame m s v0) : Frame m s (State.wr v0 v1 v2 v3) := by
  unfold State.wr
  refine frame_State_memWr (sub hm (by decide)) ?_
  exact g0

theorem frame_startPicture {m s v0 v1 v2 v3 v4 v5 v6 v7 v8 v9 v10 v11} (hm : ([.regs, .evSeq, .out, .dorm, .rings, .irq, .rate, .localQ, .links, .exch, .dram, .mem, .surf] : List Part) ⊆ m) (g0 : Frame m s v0) : Frame m s (startPicture v0 v1 v2 v3 v4 v5 v6 v7 v8 v9 v10 v11).2 := by
  unfold startPicture
  split
  rename_i y0_0 x0 y0_2 e0
  have h0 : Frame m s x0 := Frame.of_2_1 e0 (by
    refine frame_State_memRd (sub hm (by decide)) ?_
    exact g0)
  extract_lets -merge -underBinder +onlyGivenNames x1 x2 x3
  split
  rename_i y4_0 x4 y4_2 e4
  have h4 : Frame m s x4 := Frame.of_2_1 e4 (by
    refine frame_State_memRd (sub hm (by decide)) ?_
    exact h0)
  split
  rename_i y5_0 x5 y5_2 e5
  have h5 : Frame m s x5 := Frame.of_2_1 e5 (by
    refine frame_State_memRd (sub hm (by decide)) ?_
    exact h4)
  extract_lets -merge -underBinder +onlyGivenNames x6 x7 x8
  obtain ⟨y8, e8, h8⟩ := Frame.name (x := x8) (frame_State_wr (sub hm (by decide)) h5)
  rw [e8]
  extract_lets -merge -underBinder +onlyGivenNames x9
  obtain ⟨y9, e9, h9⟩ := Frame.name (x := x9) (.ite (frame_State_wr (sub hm (by decide)) h8) h8)
  rw [e9]
  extract_lets -merge -underBinder +onlyGivenNames x10
  obtain ⟨y10, e10, h10⟩ := Frame.name (x := x10) (frame_State_wr (sub hm (by decide)) h9)
  rw [e10]
  refine Frame.mk2 ?_
  exact (frame_tableStart (sub hm (by decide)) h10)

theorem frame_publishBand {m s v0 v1 v2 v3 v4 v5 v6 v7 v8 v9} (hm : ([.regs, .evSeq, .out, .dorm, .rings, .irq, .rate, .localQ, .links, .exch, .mem, .dram, .surf, .fum] : List Part) ⊆ m) (g0 : Frame m s v0) : Frame m s (publishBand v0 v1 v2 v3 v4 v5 v6 v7 v8 v9) := by
  unfold publishBand
  extract_lets -merge -underBinder +onlyGivenNames x0 x1 x2 x3 x4 x5
  obtain ⟨y5, e5, h5⟩ := Frame.name (x := x5) (frame_State_wr (sub hm (by decide)) g0)
  rw [e5]
  extract_lets -merge -underBinder +onlyGivenNames x6
  obtain ⟨y6, e6, h6⟩ := Frame.name (x := x6) (frame_State_wr (sub hm (by decide)) h5)
  rw [e6]
  extract_lets -merge -underBinder +onlyGivenNames x7
  obtain ⟨y7, e7, h7⟩ := Frame.name (x := x7) (frame_State_wr (sub hm (by decide)) h6)
  rw [e7]
  extract_lets -merge -underBinder +onlyGivenNames x8
  obtain ⟨y8, e8, h8⟩ := Frame.name (x := x8) (frame_State_wr (sub hm (by decide)) h7)
  rw [e8]
  exact (frame_tableBand (sub hm (by decide)) h8)

theorem frame_initBlock {m s v0 v1} (hm : ([.regs, .evSeq, .out, .dorm, .rings, .irq, .rate, .localQ, .links, .exch, .mem, .dram] : List Part) ⊆ m) (g0 : Frame m s v0) : Frame m s (initBlock v0 v1).1 := by
  unfold initBlock
  split
  rename_i x0 y0_1 e0
  have h0 : Frame m s x0 := Frame.of_1 e0 (by
    refine frame_State_memWrTill (sub hm (by decide)) ?_
    exact g0)
  refine Frame.mk1 ?_
  exact h0

theorem frame_doFumPolicy {m s v0 v1} (hm : ([.regs, .evSeq, .out, .dorm, .rings, .irq, .rate, .localQ, .links, .exch, .inFlight, .dma, .done, .mir, .fum] : List Part) ⊆ m) (g0 : Frame m s v0) : Frame m s (doFumPolicy v0 v1) := by
  unfold doFumPolicy
  extract_lets -merge -underBinder +onlyGivenNames x0
  refine frame_runJob (sub hm (by decide)) ?_ ?_
  · exact g0
  · intro x1_0 h1_0
    exact (frame_State_finish (sub hm (by decide)) (.fum (hm (by decide)) h1_0))

theorem frame_bindSource {m s v0 v1} (hm : ([.fum, .evSeq, .out, .dorm, .rings, .regs, .irq, .rate, .localQ, .links, .exch, .inFlight, .dma, .done, .mir] : List Part) ⊆ m) (g0 : Frame m s v0) : Frame m s (bindSource v0 v1) := by
  unfold bindSource
  extract_lets -merge -underBinder +onlyGivenNames x0 x1 x2 x3 x4 x5 x6 x7
  obtain ⟨y7, e7, h7⟩ := Frame.name (x := x7) (.ite (frame_evalSource (sub hm (by decide)) (frame_State_setSource (sub hm (by decide)) g0)) (.ite (frame_State_setSource (sub hm (by decide)) g0) (frame_evalSource (sub hm (by decide)) (frame_State_setSource (sub hm (by decide)) g0))))
  rw [e7]
  exact (frame_State_finish (sub hm (by decide)) h7)

theorem frame_doFumBind {m s v0 v1} (hm : ([.regs, .evSeq, .out, .dorm, .rings, .irq, .rate, .localQ, .links, .exch, .inFlight, .dma, .done, .mir, .fum] : List Part) ⊆ m) (g0 : Frame m s v0) : Frame m s (doFumBind v0 v1) := by
  unfold doFumBind
  extract_lets -merge -underBinder +onlyGivenNames x0 x1 x2 x3
  refine frame_runJob (sub hm (by decide)) ?_ ?_
  · exact g0
  · intro x4_0 h4_0
    refine Frame.ite ?_ ?_
    · exact (frame_bindSource (sub hm (by decide)) h4_0)
    · extract_lets -merge -underBinder +onlyGivenNames x5
      exact (frame_State_finish (sub hm (by decide)) (.fum (hm (by decide)) h4_0))

theorem frame_applyBindings {m s v0 v1} (hm : ([.fum] : List Part) ⊆ m) (g0 : Frame m s v0) : Frame m s (applyBindings v0 v1) := by
  unfold applyBindings
  split
  · exact (.fum (hm (by decide)) g0)

theorem frame_doSnapshot {m s v0 v1} (hm : ([.regs, .evSeq, .out, .dorm, .rings, .irq, .rate, .localQ, .links, .exch, .inFlight, .dma, .done, .mir, .fum] : List Part) ⊆ m) (g0 : Frame m s v0) : Frame m s (doSnapshot v0 v1) := by
  unfold doSnapshot
  refine frame_runJob (sub hm (by decide)) ?_ ?_
  · exact g0
  · intro x0_0 h0_0
    exact (.fum (hm (by decide)) h0_0)

theorem frame_hostWriteUnder {m s v0 v1 v2 v3 v4} (hm : ([.evSeq, .out, .dorm, .rings, .regs, .irq, .rate, .localQ, .links, .exch, .mgmt] : List Part) ⊆ m) (g0 : Frame m s v0) : Frame m s (hostWriteUnder v0 v1 v2 v3 v4).1 := by
  unfold hostWriteUnder
  split
  · refine Frame.mk1 ?_
    exact (frame_State_hostWriteFor (sub hm (by decide)) g0)
  · extract_lets -merge -underBinder +onlyGivenNames x0 x1
    obtain ⟨y1, e1, h1⟩ := Frame.name (x := x1) (.ite g0 (frame_State_hostWriteFor (sub hm (by decide)) g0))
    rw [e1]
    refine Frame.mk1 ?_
    exact (frame_State_mpuDeny (sub hm (by decide)) h1)

theorem frame_doSnapshotEnd {m s v0} (hm : ([.evSeq, .out, .dorm, .rings, .regs, .irq, .rate, .localQ, .links, .exch, .mgmt, .fum, .dma, .inFlight, .done, .mir] : List Part) ⊆ m) (g0 : Frame m s v0) : Frame m s (doSnapshotEnd v0) := by
  unfold doSnapshotEnd
  split
  · exact g0
  · split
    rename_i x0 y0_1 e0
    have h0 : Frame m s x0 := Frame.of_1 e0 (by
      refine frame_hostWriteUnder (sub hm (by decide)) ?_
      exact g0)
    extract_lets -merge -underBinder +onlyGivenNames x1 x2
    obtain ⟨y2, e2, h2⟩ := Frame.name (x := x2) (.fum (hm (by decide)) h0)
    rw [e2]
    exact (.ite (frame_State_finishDma (sub hm (by decide)) h2) (frame_State_finishDma (sub hm (by decide)) h2))

theorem frame_fumLockSet {m s v0 v1} (hm : ([.regs, .evSeq, .out, .dorm, .rings, .irq, .rate, .localQ, .links, .exch, .mir] : List Part) ⊆ m) (g0 : Frame m s v0) : Frame m s (fumLockSet v0 v1) := by
  unfold fumLockSet
  exact (.ite g0 (frame_mirrorOut (sub hm (by decide)) (frame_State_raise (sub hm (by decide)) (frame_State_setReg (sub hm (by decide)) g0))))

theorem frame_settleReleases {m s v0} (hm : ([.surf, .inFlight, .dma, .done, .mir, .regs, .evSeq, .out, .dorm, .rings, .irq, .rate, .localQ, .links, .exch] : List Part) ⊆ m) (g0 : Frame m s v0) : Frame m s (settleReleases v0) := by
  unfold settleReleases
  extract_lets -merge -underBinder +onlyGivenNames x0
  refine Frame.foldl ?_ ?_
  · exact g0
  · intro x1 a1 h1
    extract_lets -merge -underBinder +onlyGivenNames x2 x3
    obtain ⟨y3, e3, h3⟩ := Frame.name (x := x3) (.surf (hm (by decide)) h1)
    rw [e3]
    exact (frame_State_finish (sub hm (by decide)) h3)

theorem frame_doSurfacePool {m s v0 v1} (hm : ([.regs, .evSeq, .out, .dorm, .rings, .irq, .rate, .localQ, .links, .exch, .inFlight, .dma, .done, .mir, .surf, .mem, .dram] : List Part) ⊆ m) (g0 : Frame m s v0) : Frame m s (doSurfacePool v0 v1) := by
  unfold doSurfacePool
  extract_lets -merge -underBinder +onlyGivenNames x0 x1 x2 x3 x4 x5
  refine frame_runJob (sub hm (by decide)) ?_ ?_
  · exact g0
  · intro x6_0 h6_0
    refine Frame.ite ?_ ?_
    · exact (.ite (frame_settleReleases (sub hm (by decide)) (.surf (hm (by decide)) h6_0)) (frame_State_finish (sub hm (by decide)) h6_0))
    · split
      rename_i x7 y7_1 e7
      have h7 : Frame m s x7 := Frame.of_1 e7 (by
        refine frame_initBlock (sub hm (by decide)) ?_
        exact h6_0)
      exact (.ite (frame_State_finish (sub hm (by decide)) (frame_State_setPub (sub hm (by decide)) (.surf (hm (by decide)) h7))) (frame_State_finish (sub hm (by decide)) h7))

theorem frame_State_setRaster {m s v0 v1 v2} (hm : ([.dec] : List Part) ⊆ m) (g0 : Frame m s v0) : Frame m s (State.setRaster v0 v1 v2) := by
  unfold State.setRaster
  exact (.dec (hm (by decide)) g0)

theorem frame_rasterDrop {m s v0} (hm : ([.regs, .evSeq, .out, .dorm, .rings, .irq, .rate, .localQ, .links, .exch] : List Part) ⊆ m) (g0 : Frame m s v0) : Frame m s (rasterDrop v0) := by
  unfold rasterDrop
  extract_lets -merge -underBinder +onlyGivenNames x0
  obtain ⟨y0, e0, h0⟩ := Frame.name (x := x0) (frame_State_bump (sub hm (by decide)) g0)
  rw [e0]
  exact (frame_fabDrop (sub hm (by decide)) (fun _ _ _ h => frame_State_raise (sub hm (by decide)) h) h0)

theorem frame_rasterFence {m s v0 v1 v2 v3 v4 v5} (hm : ([.regs, .evSeq, .out, .dorm, .rings, .irq, .rate, .localQ, .links, .exch, .mem, .dram, .surf, .fum] : List Part) ⊆ m) (g0 : Frame m s v0) : Frame m s (rasterFence v0 v1 v2 v3 v4 v5) := by
  unfold rasterFence
  extract_lets -merge -underBinder +onlyGivenNames x0
  refine Frame.ite ?_ ?_
  · exact g0
  · extract_lets -merge -underBinder +onlyGivenNames x1 x2 x3 x4 x5 x6
    obtain ⟨y6, e6, h6⟩ := Frame.name (x := x6) (.ite (frame_State_wr (sub hm (by decide)) g0) g0)
    rw [e6]
    exact (frame_publishBand (sub hm (by decide)) h6)

theorem frame_rasterBody {m s v0 v1 v2 v3} (hm : ([.regs, .evSeq, .out, .dorm, .rings, .irq, .rate, .localQ, .links, .exch, .dram, .mem, .surf, .dec, .fum] : List Part) ⊆ m) (g0 : Frame m s v0) : Frame m s (rasterBody v0 v1 v2 v3) := by
  unfold rasterBody
  extract_lets -merge -underBinder +onlyGivenNames x0 x1
  split
  rename_i x2 y2_1 e2
  have h2 : Frame m s x2 := Frame.of_1 e2 (by
    refine Frame.ite1 ?_ ?_
    · split
      · refine Frame.mk1 ?_
        exact g0
      · split
        rename_i y3_0 x3 e3
        have h3 : Frame m s x3 := Frame.of_2 e3 (by
          refine frame_startPicture (sub hm (by decide)) ?_
          exact g0)
        refine Frame.mk1 ?_
        exact h3
    · refine Frame.mk1 ?_
      exact g0)
  extract_lets -merge -underBinder +onlyGivenNames x4 x5
  obtain ⟨y5, e5, h5⟩ := Frame.name (x := x5) (frame_State_setRaster (sub hm (by decide)) h2)
  rw [e5]
  split
  · exact (frame_rasterDrop (sub hm (by decide)) h5)
  · extract_lets -merge -underBinder +onlyGivenNames x6 x7 x8 x9
    obtain ⟨y9, e9, h9⟩ := Frame.name (x := x9) (.ite (frame_State_wr (sub hm (by decide)) h5) (frame_rasterDrop (sub hm (by decide)) h5))
    rw [e9]
    refine Frame.ite ?_ ?_
    · extract_lets -merge -underBinder +onlyGivenNames x10 x11
      obtain ⟨y11, e11, h11⟩ := Frame.name (x := x11) (frame_rasterFence (sub hm (by decide)) h9)
      rw [e11]
      exact (frame_State_setRaster (sub hm (by decide)) h11)
    · exact h9

theorem frame_doRaster {m s v0 v1} (hm : ([.localQ, .dec, .regs, .evSeq, .out, .dorm, .rings, .irq, .rate, .links, .exch, .dram, .mem, .surf, .fum] : List Part) ⊆ m) (g0 : Frame m s v0) : Frame m s (doRaster v0 v1) := by
  unfold doRaster
  extract_lets -merge -underBinder +onlyGivenNames x0
  obtain ⟨y0, e0, h0⟩ := Frame.name (x := x0) (frame_takeLocal (sub hm (by decide)) g0)
  rw [e0]
  extract_lets -merge -underBinder +onlyGivenNames x1 x2 x3 x4
  refine Frame.ite ?_ ?_
  · exact h0
  · extract_lets -merge -underBinder +onlyGivenNames x5
    obtain ⟨y5, e5, h5⟩ := Frame.name (x := x5) (frame_State_setRaster (sub hm (by decide)) h0)
    rw [e5]
    refine Frame.ite ?_ ?_
    · exact (frame_rasterDrop (sub hm (by decide)) h5)
    · extract_lets -merge -underBinder +onlyGivenNames x6 x7
      obtain ⟨y7, e7, h7⟩ := Frame.name (x := x7) (frame_State_setRaster (sub hm (by decide)) h5)
      rw [e7]
      split
      · exact (frame_rasterDrop (sub hm (by decide)) h7)
      · exact (frame_rasterBody (sub hm (by decide)) h7)

theorem frame_State_setCtx {m s v0 v1 v2} (hm : ([.dec] : List Part) ⊆ m) (g0 : Frame m s v0) : Frame m s (State.setCtx v0 v1 v2) := by
  unfold State.setCtx
  exact (.dec (hm (by decide)) g0)

theorem frame_State_setEng {m s v0 v1 v2} (hm : ([.dec] : List Part) ⊆ m) (g0 : Frame m s v0) : Frame m s (State.setEng v0 v1 v2) := by
  unfold State.setEng
  exact (.dec (hm (by decide)) g0)

theorem frame_setCtxState {m s v0 v1 v2} (hm : ([.dec, .evSeq, .out, .dorm, .rings, .regs, .irq, .rate, .localQ, .links, .exch] : List Part) ⊆ m) (g0 : Frame m s v0) : Frame m s (setCtxState v0 v1 v2) := by
  unfold setCtxState
  extract_lets -merge -underBinder +onlyGivenNames x0
  exact (.ite g0 (frame_State_raise (sub hm (by decide)) (frame_State_setCtx (sub hm (by decide)) g0)))

theorem frame_ringCopy {m s v0 v1 v2} (hm : ([.regs, .evSeq, .out, .dorm, .rings, .irq, .rate, .localQ, .links, .exch, .mem, .dram, .dec] : List Part) ⊆ m) (g0 : Frame m s v0) : Frame m s (ringCopy v0 v1 v2) := by
  unfold ringCopy
  extract_lets -merge -underBinder +onlyGivenNames x0 x1 x2 x3
  obtain ⟨y3, e3, h3⟩ := Frame.name (x := x3) (frame_State_wr (sub hm (by decide)) g0)
  rw [e3]
  extract_lets -merge -underBinder +onlyGivenNames x4
  obtain ⟨y4, e4, h4⟩ := Frame.name (x := x4) (.ite (frame_State_wr (sub hm (by decide)) h3) h3)
  rw [e4]
  exact (frame_State_setCtx (sub hm (by decide)) h4)

theorem frame_keepState {m s v0 v1} (hm : ([.regs, .evSeq, .out, .dorm, .rings, .irq, .rate, .localQ, .links, .exch, .free, .mem] : List Part) ⊆ m) (g0 : Frame m s v0) : Frame m s (keepState v0 v1) := by
  unfold keepState
  extract_lets -merge -underBinder +onlyGivenNames x0 x1
  split
  · exact (frame_State_mpuDeny (sub hm (by decide)) g0)
  · refine Frame.ite ?_ ?_
    · extract_lets -merge -underBinder +onlyGivenNames x2
      exact (Frame.upd g0 (fun p => by cases p; (case free | mem => exact .inl (hm (by decide))); all_goals first | exact .inr rfl | exact .inr (fun _ _ _ => rfl) | exact .inr ⟨rfl, rfl⟩ | exact .inr ⟨rfl, rfl, rfl⟩ | exact .inr ⟨rfl, rfl, rfl, rfl⟩))
    · exact (frame_State_addrFault (sub hm (by decide)) g0)

theorem frame_refuseReport {m s v0 v1 v2 v3} (hm : ([.regs, .rate, .evSeq, .out, .dorm, .rings, .irq, .localQ, .links, .exch] : List Part) ⊆ m) (g0 : Frame m s v0) : Frame m s (refuseReport v0 v1 v2 v3) := by
  unfold refuseReport
  extract_lets -merge -underBinder +onlyGivenNames x0
  exact (frame_State_raiseLimited (sub hm (by decide)) (frame_State_setReg (sub hm (by decide)) g0))

theorem frame_reportSets {m s v0 v1 v2} (hm : ([.regs, .rate, .evSeq, .out, .dorm, .rings, .irq, .localQ, .links, .exch] : List Part) ⊆ m) (g0 : Frame m s v0) : Frame m s (reportSets v0 v1 v2) := by
  unfold reportSets
  refine Frame.foldl ?_ ?_
  · exact g0
  · intro x0 a0 h0
    exact (.ite h0 (frame_refuseReport (sub hm (by decide)) h0))

theorem frame_takeSet {m s v0 v1 v2} (hm : ([.dec, .evSeq, .out, .dorm, .rings, .regs, .irq, .rate, .localQ, .links, .exch] : List Part) ⊆ m) (g0 : Frame m s v0) : Frame m s (takeSet v0 v1 v2) := by
  unfold takeSet
  split
  · exact g0
  · extract_lets -merge -underBinder +onlyGivenNames x0 x1
    obtain ⟨y1, e1, h1⟩ := Frame.name (x := x1) (frame_State_setCtx (sub hm (by decide)) g0)
    rw [e1]
    extract_lets -merge -underBinder +onlyGivenNames x2
    exact (.ite (.ite h1 (frame_setCtxState (sub hm (by decide)) h1)) (.ite (frame_setCtxState (sub hm (by decide)) h1) h1))

theorem frame_takeParams {m s v0 v1 v2} (hm : ([.dec, .regs, .rate, .evSeq, .out, .dorm, .rings, .irq, .localQ, .links, .exch] : List Part) ⊆ m) (g0 : Frame m s v0) : Frame m s (takeParams v0 v1 v2) := by
  unfold takeParams
  extract_lets -merge -underBinder +onlyGivenNames x0
  refine Frame.ite ?_ ?_
  · exact g0
  · extract_lets -merge -underBinder +onlyGivenNames x1
    obtain ⟨y1, e1, h1⟩ := Frame.name (x := x1) (frame_State_setCtx (sub hm (by decide)) g0)
    rw [e1]
    extract_lets -merge -underBinder +onlyGivenNames x2
    obtain ⟨y2, e2, h2⟩ := Frame.name (x := x2) (.ite (frame_reportSets (sub hm (by decide)) h1) h1)
    rw [e2]
    refine Frame.foldl ?_ ?_
    · exact h2
    · intro x3 a3 h3
      exact (frame_takeSet (sub hm (by decide)) h3)

theorem frame_takeLead {m s v0 v1 v2} (hm : ([.dec, .evSeq, .out, .dorm, .rings, .regs, .irq, .rate, .localQ, .links, .exch] : List Part) ⊆ m) (g0 : Frame m s v0) : Frame m s (takeLead v0 v1 v2) := by
  unfold takeLead
  refine Frame.foldl ?_ ?_
  · exact (frame_State_setCtx (sub hm (by decide)) g0)
  · intro x0 a0 h0
    exact (frame_takeSet (sub hm (by decide)) h0)

theorem frame_pumpFeeds {m s v0 v1 v2} (hm : ([.dec, .regs, .evSeq, .out, .dorm, .rings, .irq, .rate, .localQ, .links, .exch, .mem, .dram, .inFlight, .dma, .done, .mir] : List Part) ⊆ m) (g1 : Frame m s v1) : Frame m s (pumpFeeds v0 v1 v2) := by
  induction v0 generalizing v1 v2 with
  | zero =>
    rw [pumpFeeds]
    exact g1
  | succ v ih =>
    rw [pumpFeeds]
    split
    · exact g1
    · refine Frame.ite ?_ ?_
      · extract_lets -merge -underBinder +onlyGivenNames x0 x1 x2
        obtain ⟨y2, e2, h2⟩ := Frame.name (x := x2) (frame_ringCopy (sub hm (by decide)) (frame_State_setCtx (sub hm (by decide)) g1))
        rw [e2]
        extract_lets -merge -underBinder +onlyGivenNames x3 x4
        obtain ⟨y4, e4, h4⟩ := Frame.name (x := x4) (frame_State_setCtx (sub hm (by decide)) h2)
        rw [e4]
        extract_lets -merge -underBinder +onlyGivenNames x5
        obtain ⟨y5, e5, h5⟩ := Frame.name (x := x5) (frame_reportSets (sub hm (by decide)) h4)
        rw [e5]
        extract_lets -merge -underBinder +onlyGivenNames x6
        obtain ⟨y6, e6, h6⟩ := Frame.name (x := x6) (.ite (frame_takeLead (sub hm (by decide)) h5) h5)
        rw [e6]
        extract_lets -merge -underBinder +onlyGivenNames x7
        obtain ⟨y7, e7, h7⟩ := Frame.name (x := x7) (frame_State_finish (sub hm (by decide)) h6)
        rw [e7]
        exact ih h7
      · exact g1

theorem frame_hostReadBlock {m s v0 v1 v2 v3 v4} (hm : ([.regs, .evSeq, .out, .dorm, .rings, .irq, .rate, .localQ, .links, .exch] : List Part) ⊆ m) (g3 : Frame m s v3.2) :
    Frame m s (hostReadBlock v0 v1 v2 v3 v4).2 := by
  unfold hostReadBlock
  exact Frame.ite2 (Frame.mk2 g3) (Frame.mk2 (frame_State_mpuDeny (sub hm (by decide)) g3))

theorem frame_hostReadUnder {m s v0 v1 v2 v3} (hm : ([.regs, .evSeq, .out, .dorm, .rings, .irq, .rate, .localQ, .links, .exch] : List Part) ⊆ m) (g0 : Frame m s v0) :
    Frame m s (hostReadUnder v0 v1 v2 v3).2 :=
  Frame.foldl2 (Frame.mk2 g0) (fun _ _ h => frame_hostReadBlock (sub hm (by decide)) h)

theorem frame_feedHere {m s v0 v1 v2} (hm : ([.regs, .evSeq, .out, .dorm, .rings, .irq, .rate, .localQ, .links, .exch, .dec, .mem, .dram, .inFlight, .dma, .done, .mir] : List Part) ⊆ m) (g0 : Frame m s v0) : Frame m s (feedHere v0 v1 v2) := by
  unfold feedHere
  extract_lets -merge -underBinder +onlyGivenNames x0
  split
  rename_i y1_0 x1 e1
  have h1 : Frame m s x1 := Frame.of_2 e1 (by
    refine frame_hostReadUnder (sub hm (by decide)) ?_
    exact g0)
  extract_lets -merge -underBinder +onlyGivenNames x2
  exact (frame_pumpFeeds (sub hm (by decide)) (frame_State_setCtx (sub hm (by decide)) h1))

theorem frame_doFeed {m s v0 v1 v2 v3} (hm : ([.regs, .evSeq, .out, .dorm, .rings, .irq, .rate, .localQ, .links, .exch, .inFlight, .dma, .done, .mir, .dec, .mgmt, .mem, .dram] : List Part) ⊆ m) (g0 : Frame m s v0) : Frame m s (doFeed v0 v1 v2 v3) := by
  unfold doFeed
  extract_lets -merge -underBinder +onlyGivenNames x0 x1 x2 x3
  refine frame_runJob (sub hm (by decide)) ?_ ?_
  · exact g0
  · intro x4_0 h4_0
    extract_lets -merge -underBinder +onlyGivenNames x5 x6
    obtain ⟨y6, e6, h6⟩ := Frame.name (x := x6) (frame_State_setCtx (sub hm (by decide)) h4_0)
    rw [e6]
    refine frame_State_hostFetch (sub hm (by decide)) ?_ ?_
    · exact h6
    · intro x7_0 a7_1 h7_0
      exact (frame_feedHere (sub hm (by decide)) h7_0)

theorem frame_doDemux {m s v0 v1} (hm : ([.localQ, .regs, .dec, .evSeq, .out, .dorm, .rings, .irq, .rate, .links, .exch, .mem, .dram] : List Part) ⊆ m) (g0 : Frame m s v0) : Frame m s (doDemux v0 v1) := by
  unfold doDemux
  extract_lets -merge -underBinder +onlyGivenNames x0
  obtain ⟨y0, e0, h0⟩ := Frame.name (x := x0) (frame_takeLocal (sub hm (by decide)) g0)
  rw [e0]
  split
  · exact (frame_State_bump (sub hm (by decide)) h0)
  · extract_lets -merge -underBinder +onlyGivenNames x1 x2
    refine Frame.ite ?_ ?_
    · exact (frame_State_bump (sub hm (by decide)) h0)
    · extract_lets -merge -underBinder +onlyGivenNames x3
      obtain ⟨y3, e3, h3⟩ := Frame.name (x := x3) (.ite h0 (frame_State_bumpBy (sub hm (by decide)) h0))
      rw [e3]
      extract_lets -merge -underBinder +onlyGivenNames x4 x5 x6 x7 x8 x9
      refine Frame.ite ?_ ?_
      · exact (frame_State_setCtx (sub hm (by decide)) h3)
      · refine Frame.ite ?_ ?_
        · extract_lets -merge -underBinder +onlyGivenNames x10 x11
          obtain ⟨y11, e11, h11⟩ := Frame.name (x := x11) (frame_ringCopy (sub hm (by decide)) (frame_State_setCtx (sub hm (by decide)) h3))
          rw [e11]
          exact (frame_State_setCtx (sub hm (by decide)) h11)
        · extract_lets -merge -underBinder +onlyGivenNames x12 x13 x14 x15
          obtain ⟨y15, e15, h15⟩ := Frame.name (x := x15) (frame_State_setCtx (sub hm (by decide)) h3)
          rw [e15]
          exact (frame_State_bump (sub hm (by decide)) h15)

theorem frame_decFault {m s v0 v1 v2 v3 v4} (hm : ([.regs, .rate, .evSeq, .out, .dorm, .rings, .irq, .localQ, .links, .exch] : List Part) ⊆ m) (g0 : Frame m s v0) : Frame m s (decFault v0 v1 v2 v3 v4) := by
  unfold decFault
  extract_lets -merge -underBinder +onlyGivenNames x0
  obtain ⟨y0, e0, h0⟩ := Frame.name (x := x0) (.ite g0 (frame_State_setReg (sub hm (by decide)) (frame_State_setReg (sub hm (by decide)) g0)))
  rw [e0]
  exact (frame_State_raiseLimited (sub hm (by decide)) h0)

theorem frame_decConceal {m s v0 v1 v2 v3 v4 v5} (hm : ([.dec, .evSeq, .out, .dorm, .rings, .regs, .irq, .rate, .localQ, .links, .exch] : List Part) ⊆ m) (g0 : Frame m s v0) : Frame m s (decConceal v0 v1 v2 v3 v4 v5) := by
  unfold decConceal
  extract_lets -merge -underBinder +onlyGivenNames x0 x1
  exact (.ite (frame_State_setCtx (sub hm (by decide)) g0) (frame_State_raise (sub hm (by decide)) (frame_State_setCtx (sub hm (by decide)) g0)))

theorem frame_doConcealEnd {m s v0 v1} (hm : ([.dec, .evSeq, .out, .dorm, .rings, .regs, .irq, .rate, .localQ, .links, .exch] : List Part) ⊆ m) (g0 : Frame m s v0) : Frame m s (doConcealEnd v0 v1) := by
  unfold doConcealEnd
  extract_lets -merge -underBinder +onlyGivenNames x0 x1
  obtain ⟨y1, e1, h1⟩ := Frame.name (x := x1) (frame_State_setCtx (sub hm (by decide)) g0)
  rw [e1]
  exact (.ite (frame_State_raise (sub hm (by decide)) h1) h1)

theorem frame_decStall {m s v0 v1 v2 v3} (hm : ([.rate, .evSeq, .out, .dorm, .rings, .regs, .irq, .localQ, .links, .exch] : List Part) ⊆ m) (g0 : Frame m s v0) : Frame m s (decStall v0 v1 v2 v3) := by
  unfold decStall
  exact (frame_State_raiseLimited (sub hm (by decide)) g0)

theorem frame_unlessAllowed {m s v0 v1 v2} (hm : ([.regs, .rate, .evSeq, .out, .dorm, .rings, .irq, .localQ, .links, .exch] : List Part) ⊆ m) (g0 : Frame m s v0) : Frame m s (unlessAllowed v0 v1 v2) := by
  unfold unlessAllowed
  exact (.ite g0 (frame_decFault (sub hm (by decide)) g0))

theorem frame_copyRows {m s v0 v1 v2 v3 v4 v5 v6 v7} (hm : ([.regs, .evSeq, .out, .dorm, .rings, .irq, .rate, .localQ, .links, .exch, .dram, .mem] : List Part) ⊆ m) (g0 : Frame m s v0) : Frame m s (copyRows v0 v1 v2 v3 v4 v5 v6 v7).1 := by
  unfold copyRows
  refine Frame.foldl1 ?_ ?_
  · refine Frame.mk1 ?_
    exact g0
  · intro x0 a0 h0
    split
    · refine Frame.foldl1 ?_ ?_
      · exact h0
      · intro x1 a1 h1
        extract_lets -merge -underBinder +onlyGivenNames x2
        split
        · split
          rename_i y3_0 x3 y3_2 e3
          have h3 : Frame m s x3 := Frame.of_2_1 e3 (by
            refine frame_State_memRd (sub hm (by decide)) ?_
            exact h1)
          split
          rename_i x4 y4_1 e4
          have h4 : Frame m s x4 := Frame.of_1 e4 (by
            refine frame_State_memWr (sub hm (by decide)) ?_
            exact h3)
          refine Frame.mk1 ?_
          exact h4
        · split
          rename_i x5 y5_1 e5
          have h5 : Frame m s x5 := Frame.of_1 e5 (by
            refine frame_State_memWr (sub hm (by decide)) ?_
            exact h1)
          refine Frame.mk1 ?_
          exact h5

theorem frame_concealRows {m s v0 v1 v2 v3 v4} (hm : ([.regs, .evSeq, .out, .dorm, .rings, .irq, .rate, .localQ, .links, .exch, .dram, .mem, .dec] : List Part) ⊆ m) (g0 : Frame m s v0) : Frame m s (concealRows v0 v1 v2 v3 v4) := by
  unfold concealRows
  extract_lets -merge -underBinder +onlyGivenNames x0
  split
  · refine Frame.ite ?_ ?_
    · exact g0
    · extract_lets -merge -underBinder +onlyGivenNames x1
      split
      rename_i x2 y2_1 e2
      have h2 : Frame m s x2 := Frame.of_1 e2 (by
        refine frame_copyRows (sub hm (by decide)) ?_
        exact g0)
      extract_lets -merge -underBinder +onlyGivenNames x3
      obtain ⟨y3, e3, h3⟩ := Frame.name (x := x3) (frame_unlessAllowed (sub hm (by decide)) h2)
      rw [e3]
      extract_lets -merge -underBinder +onlyGivenNames x4 x5 x6 x7 x8
      obtain ⟨y8, e8, h8⟩ := Frame.name (x := x8) (frame_State_setCtx (sub hm (by decide)) h3)
      rw [e8]
      exact (frame_decConceal (sub hm (by decide)) h8)
  · exact g0

theorem frame_reduceRows {m s v0 v1 v2 v3 v4 v5 v6 v7} (hm : ([.regs, .evSeq, .out, .dorm, .rings, .irq, .rate, .localQ, .links, .exch, .mem, .dram] : List Part) ⊆ m) (g0 : Frame m s v0) : Frame m s (reduceRows v0 v1 v2 v3 v4 v5 v6 v7).1 := by
  unfold reduceRows
  refine Frame.ite1 ?_ ?_
  · refine Frame.mk1 ?_
    exact g0
  · extract_lets -merge -underBinder +onlyGivenNames x0 x1 x2
    split
    · extract_lets -merge -underBinder +onlyGivenNames x3 x4
      refine Frame.foldl1 ?_ ?_
      · refine Frame.mk1 ?_
        exact g0
      · intro x5 a5 h5
        split
        extract_lets -merge -underBinder +onlyGivenNames x6 x7 x8 x9 x10
        refine Frame.foldl1 ?_ ?_
        · exact h5
        · intro x11 a11 h11
          extract_lets -merge -underBinder +onlyGivenNames x12
          split
          rename_i x13 y13_1 e13
          have h13 : Frame m s x13 := Frame.of_1 e13 (by
            refine frame_State_memWr (sub hm (by decide)) ?_
            exact h11)
          refine Frame.mk1 ?_
          exact h13

theorem frame_pubStart {m s v0 v1 v2 v3} (hm : ([.regs, .rate, .evSeq, .out, .dorm, .rings, .irq, .localQ, .links, .exch, .dram, .mem, .surf] : List Part) ⊆ m) (g0 : Frame m s v0) : Frame m s (pubStart v0 v1 v2 v3) := by
  unfold pubStart
  split
  · extract_lets -merge -underBinder +onlyGivenNames x0
    refine frame_unlessAllowed (sub hm (by decide)) ?_
    refine frame_startPicture (sub hm (by decide)) ?_
    exact g0

theorem frame_judgeClean {m s v0 v1 v2 v3} (hm : ([.regs, .evSeq, .out, .dorm, .rings, .irq, .rate, .localQ, .links, .exch, .dec] : List Part) ⊆ m) (g0 : Frame m s v0) : Frame m s (judgeClean v0 v1 v2 v3).2 := by
  unfold judgeClean
  extract_lets -merge -underBinder +onlyGivenNames x0 x1 x2 x3
  obtain ⟨y3, e3, h3⟩ := Frame.name (x := x3) (.ite (frame_State_raise (sub hm (by decide)) (frame_State_bump (sub hm (by decide)) g0)) g0)
  rw [e3]
  refine Frame.mk2 ?_
  exact (frame_State_setCtx (sub hm (by decide)) h3)

theorem frame_pubDone {m s v0 v1 v2} (hm : ([.regs, .dec, .rate, .evSeq, .out, .dorm, .rings, .irq, .localQ, .links, .exch] : List Part) ⊆ m) (g0 : Frame m s v0) : Frame m s (pubDone v0 v1 v2) := by
  unfold pubDone
  extract_lets -merge -underBinder +onlyGivenNames x0
  obtain ⟨y0, e0, h0⟩ := Frame.name (x := x0) (frame_State_bump (sub hm (by decide)) g0)
  rw [e0]
  extract_lets -merge -underBinder +onlyGivenNames x1 x2 x3
  obtain ⟨y3, e3, h3⟩ := Frame.name (x := x3) (frame_State_setCtx (sub hm (by decide)) h0)
  rw [e3]
  exact (.ite (frame_State_raiseLimited (sub hm (by decide)) (frame_State_bump (sub hm (by decide)) h3)) h3)

theorem frame_publishRows {m s v0 v1 v2} (hm : ([.dec, .regs, .evSeq, .out, .dorm, .rings, .irq, .rate, .localQ, .links, .exch, .mem, .dram, .surf, .fum] : List Part) ⊆ m) (g0 : Frame m s v0) : Frame m s (publishRows v0 v1 v2) := by
  unfold publishRows
  extract_lets -merge -underBinder +onlyGivenNames x0
  split
  · refine Frame.ite ?_ ?_
    · exact (frame_State_setCtx (sub hm (by decide)) g0)
    · extract_lets -merge -underBinder +onlyGivenNames x1 x2
      split
      rename_i x3 y3_1 e3
      have h3 : Frame m s x3 := Frame.of_1 e3 (by
        refine frame_reduceRows (sub hm (by decide)) ?_
        exact g0)
      extract_lets -merge -underBinder +onlyGivenNames x4
      obtain ⟨y4, e4, h4⟩ := Frame.name (x := x4) (frame_unlessAllowed (sub hm (by decide)) h3)
      rw [e4]
      extract_lets -merge -underBinder +onlyGivenNames x5 x6 x7 x8
      obtain ⟨y8, e8, h8⟩ := Frame.name (x := x8) (frame_State_setCtx (sub hm (by decide)) h4)
      rw [e8]
      refine Frame.ite ?_ ?_
      · extract_lets -merge -underBinder +onlyGivenNames x9 x10
        obtain ⟨y10, e10, h10⟩ := Frame.name (x := x10) (.ite (frame_State_setCtx (sub hm (by decide)) h8) h8)
        rw [e10]
        split
        rename_i y11_0 x11 e11
        have h11 : Frame m s x11 := Frame.of_2 e11 (by
          refine Frame.ite2 ?_ ?_
          · refine frame_judgeClean (sub hm (by decide)) ?_
            exact h10
          · refine Frame.mk2 ?_
            exact h10)
        exact (frame_unlessAllowed (sub hm (by decide)) (frame_publishBand (sub hm (by decide)) h11))
      · exact h8
  · exact g0

theorem frame_releaseHeld {m s v0 v1 v2} (hm : ([.dec, .regs, .rate, .evSeq, .out, .dorm, .rings, .irq, .localQ, .links, .exch, .dram, .mem, .surf, .fum] : List Part) ⊆ m) (g0 : Frame m s v0) : Frame m s (releaseHeld v0 v1 v2) := by
  unfold releaseHeld
  split
  · exact g0
  · extract_lets -merge -underBinder +onlyGivenNames x0 x1 x2
    obtain ⟨y2, e2, h2⟩ := Frame.name (x := x2) (frame_State_setCtx (sub hm (by decide)) g0)
    rw [e2]
    extract_lets -merge -underBinder +onlyGivenNames x3
    obtain ⟨y3, e3, h3⟩ := Frame.name (x := x3) (frame_pubStart (sub hm (by decide)) h2)
    rw [e3]
    split
    rename_i y4_0 x4 e4
    have h4 : Frame m s x4 := Frame.of_2 e4 (by
      refine frame_judgeClean (sub hm (by decide)) ?_
      exact h3)
    extract_lets -merge -underBinder +onlyGivenNames x5 x6 x7 x8
    obtain ⟨y8, e8, h8⟩ := Frame.name (m := m) (s := s) (x := x8) (by
      unfold x8
      refine Frame.foldl ?_ ?_
      · exact h4
      · intro x9 a9 h9
        split
        exact (frame_State_wr (sub hm (by decide)) h9))
    rw [e8]
    extract_lets -merge -underBinder +onlyGivenNames x10 x11
    obtain ⟨y11, e11, h11⟩ := Frame.name (x := x11) (frame_State_wr (sub hm (by decide)) h8)
    rw [e11]
    extract_lets -merge -underBinder +onlyGivenNames x12
    obtain ⟨y12, e12, h12⟩ := Frame.name (x := x12) (frame_State_wr (sub hm (by decide)) h11)
    rw [e12]
    extract_lets -merge -underBinder +onlyGivenNames x13
    obtain ⟨y13, e13, h13⟩ := Frame.name (x := x13) (frame_unlessAllowed (sub hm (by decide)) (frame_State_wr (sub hm (by decide)) h12))
    rw [e13]
    extract_lets -merge -underBinder +onlyGivenNames x14
    obtain ⟨y14, e14, h14⟩ := Frame.name (m := m) (s := s) (x := x14) (by
      unfold x14
      refine Frame.foldl ?_ ?_
      · exact h13
      · intro x15 a15 h15
        exact (frame_tableBand (sub hm (by decide)) h15))
    rw [e14]
    exact (frame_pubDone (sub hm (by decide)) h14)

theorem frame_releaseList {m s v0 v1 v2} (hm : ([.dec, .regs, .rate, .evSeq, .out, .dorm, .rings, .irq, .localQ, .links, .exch, .dram, .mem, .surf, .fum] : List Part) ⊆ m) (g0 : Frame m s v0) : Frame m s (releaseList v0 v1 v2) := by
  unfold releaseList
  refine Frame.foldl ?_ ?_
  · exact g0
  · intro x0 a0 h0
    split
    · exact (frame_releaseHeld (sub hm (by decide)) h0)
    · exact h0

theorem frame_releaseAll {m s v0 v1} (hm : ([.dec, .regs, .rate, .evSeq, .out, .dorm, .rings, .irq, .localQ, .links, .exch, .dram, .mem, .surf, .fum] : List Part) ⊆ m) (g0 : Frame m s v0) : Frame m s (releaseAll v0 v1) := by
  unfold releaseAll
  extract_lets -merge -underBinder +onlyGivenNames x0 x1
  refine Frame.foldl ?_ ?_
  · exact g0
  · intro x2 a2 h2
    exact (frame_releaseHeld (sub hm (by decide)) h2)

theorem frame_settleClose {m s v0 v1} (hm : ([.dec, .regs, .rate, .evSeq, .out, .dorm, .rings, .irq, .localQ, .links, .exch, .dram, .mem, .surf, .fum, .inFlight, .dma, .done, .mir] : List Part) ⊆ m) (g0 : Frame m s v0) : Frame m s (settleClose v0 v1) := by
  unfold settleClose
  extract_lets -merge -underBinder +onlyGivenNames x0
  split
  · refine Frame.ite ?_ ?_
    · extract_lets -merge -underBinder +onlyGivenNames x1
      obtain ⟨y1, e1, h1⟩ := Frame.name (x := x1) (frame_releaseAll (sub hm (by decide)) g0)
      rw [e1]
      extract_lets -merge -underBinder +onlyGivenNames x2
      obtain ⟨y2, e2, h2⟩ := Frame.name (x := x2) (frame_setCtxState (sub hm (by decide)) h1)
      rw [e2]
      exact (frame_State_finish (sub hm (by decide)) (frame_State_setCtx (sub hm (by decide)) h2))
    · exact g0
  · exact g0

theorem frame_finishPicture {m s v0 v1 v2} (hm : ([.dec, .regs, .evSeq, .out, .dorm, .rings, .irq, .rate, .localQ, .links, .exch, .mem, .dram, .surf, .fum, .inFlight, .dma, .done, .mir] : List Part) ⊆ m) (g0 : Frame m s v0) : Frame m s (finishPicture v0 v1 v2) := by
  unfold finishPicture
  split
  · exact g0
  · extract_lets -merge -underBinder +onlyGivenNames x0
    obtain ⟨y0, e0, h0⟩ := Frame.name (x := x0) (frame_publishRows (sub hm (by decide)) g0)
    rw [e0]
    split
    · exact h0
    · extract_lets -merge -underBinder +onlyGivenNames x1 x2 x3 x4
      obtain ⟨y4, e4, h4⟩ := Frame.name (x := x4) (frame_State_setCtx (sub hm (by decide)) h0)
      rw [e4]
      extract_lets -merge -underBinder +onlyGivenNames x5
      obtain ⟨y5, e5, h5⟩ := Frame.name (x := x5) (.ite (frame_State_bump (sub hm (by decide)) h4) h4)
      rw [e5]
      extract_lets -merge -underBinder +onlyGivenNames x6
      obtain ⟨y6, e6, h6⟩ := Frame.name (x := x6) (frame_State_setEng (sub hm (by decide)) h5)
      rw [e6]
      extract_lets -merge -underBinder +onlyGivenNames x7
      obtain ⟨y7, e7, h7⟩ := Frame.name (x := x7) (.ite (frame_pubDone (sub hm (by decide)) h6) h6)
      rw [e7]
      extract_lets -merge -underBinder +onlyGivenNames x8
      obtain ⟨y8, e8, h8⟩ := Frame.name (x := x8) (frame_releaseList (sub hm (by decide)) h7)
      rw [e8]
      exact (frame_settleClose (sub hm (by decide)) (frame_pumpFeeds (sub hm (by decide)) h8))

theorem frame_concealRest {m s v0 v1 v2 v3} (hm : ([.regs, .evSeq, .out, .dorm, .rings, .irq, .rate, .localQ, .links, .exch, .dram, .mem, .dec, .surf, .fum, .inFlight, .dma, .done, .mir] : List Part) ⊆ m) (g0 : Frame m s v0) : Frame m s (concealRest v0 v1 v2 v3) := by
  unfold concealRest
  split
  · exact g0
  · exact (frame_finishPicture (sub hm (by decide)) (frame_concealRows (sub hm (by decide)) g0))

theorem frame_decRefuse {m s v0 v1 v2 v3 v4} (hm : ([.dec, .regs, .evSeq, .out, .dorm, .rings, .irq, .rate, .localQ, .links, .exch, .mem, .dram, .inFlight, .dma, .done, .mir, .surf, .fum] : List Part) ⊆ m) (g0 : Frame m s v0) : Frame m s (decRefuse v0 v1 v2 v3 v4) := by
  unfold decRefuse
  extract_lets -merge -underBinder +onlyGivenNames x0 x1
  obtain ⟨y1, e1, h1⟩ := Frame.name (x := x1) (frame_State_setCtx (sub hm (by decide)) g0)
  rw [e1]
  extract_lets -merge -underBinder +onlyGivenNames x2
  obtain ⟨y2, e2, h2⟩ := Frame.name (x := x2) (frame_State_bump (sub hm (by decide)) h1)
  rw [e2]
  extract_lets -merge -underBinder +onlyGivenNames x3
  obtain ⟨y3, e3, h3⟩ := Frame.name (x := x3) (.ite h2 (frame_setCtxState (sub hm (by decide)) h2))
  rw [e3]
  extract_lets -merge -underBinder +onlyGivenNames x4
  obtain ⟨y4, e4, h4⟩ := Frame.name (m := m) (s := s) (x := x4) (by
    unfold x4
    split
    · exact (frame_refuseReport (sub hm (by decide)) h3)
    · exact h3)
  rw [e4]
  exact (frame_settleClose (sub hm (by decide)) (frame_pumpFeeds (sub hm (by decide)) h4))

theorem frame_startDecode {m s v0 v1 v2 v3 v4} (hm : ([.regs, .dec, .evSeq, .out, .dorm, .rings, .irq, .rate, .localQ, .links, .exch, .free, .mem, .dram, .surf] : List Part) ⊆ m) (g0 : Frame m s v0) : Frame m s (startDecode v0 v1 v2 v3 v4) := by
  unfold startDecode
  split
  · extract_lets -merge -underBinder +onlyGivenNames x0 x1 x2
    split
    · extract_lets -merge -underBinder +onlyGivenNames x3 x4
      obtain ⟨y4, e4, h4⟩ := Frame.name (x := x4) (.ite (frame_State_bump (sub hm (by decide)) g0) g0)
      rw [e4]
      extract_lets -merge -underBinder +onlyGivenNames x5 x6
      obtain ⟨y6, e6, h6⟩ := Frame.name (x := x6) (frame_State_setCtx (sub hm (by decide)) h4)
      rw [e6]
      extract_lets -merge -underBinder +onlyGivenNames x7
      obtain ⟨y7, e7, h7⟩ := Frame.name (x := x7) (.ite h6 (frame_setCtxState (sub hm (by decide)) h6))
      rw [e7]
      extract_lets -merge -underBinder +onlyGivenNames x8
      obtain ⟨y8, e8, h8⟩ := Frame.name (x := x8) (frame_State_setEng (sub hm (by decide)) h7)
      rw [e8]
      extract_lets -merge -underBinder +onlyGivenNames x9
      obtain ⟨y9, e9, h9⟩ := Frame.name (x := x9) (frame_keepState (sub hm (by decide)) h8)
      rw [e9]
      exact (.ite (frame_pubStart (sub hm (by decide)) h9) h9)
  · exact g0

theorem frame_lookAhead {m s v0 v1} (hm : ([.dec, .regs, .rate, .evSeq, .out, .dorm, .rings, .irq, .localQ, .links, .exch, .mem, .dram, .inFlight, .dma, .done, .mir, .surf, .fum] : List Part) ⊆ m) (g0 : Frame m s v0) : Frame m s (lookAhead v0 v1) := by
  unfold lookAhead
  extract_lets -merge -underBinder +onlyGivenNames x0
  obtain ⟨y0, e0, h0⟩ := Frame.name (x := x0) (frame_takeParams (sub hm (by decide)) g0)
  rw [e0]
  extract_lets -merge -underBinder +onlyGivenNames x1
  exact (.ite (frame_decRefuse (sub hm (by decide)) h0) (frame_releaseList (sub hm (by decide)) h0))

theorem frame_doPictureStart {m s v0 v1 v2} (hm : ([.dec, .regs, .rate, .evSeq, .out, .dorm, .rings, .irq, .localQ, .links, .exch, .mem, .dram, .inFlight, .dma, .done, .mir, .surf, .fum, .free] : List Part) ⊆ m) (g0 : Frame m s v0) : Frame m s (doPictureStart v0 v1 v2) := by
  unfold doPictureStart
  extract_lets -merge -underBinder +onlyGivenNames x0 x1
  obtain ⟨y1, e1, h1⟩ := Frame.name (m := m) (s := s) (x := x1) (by
    unfold x1
    refine Frame.foldl ?_ ?_
    · exact g0
    · intro x2 a2 h2
      exact (frame_lookAhead (sub hm (by decide)) h2))
  rw [e1]
  extract_lets -merge -underBinder +onlyGivenNames x3 x4
  obtain ⟨y4, e4, h4⟩ := Frame.name (m := m) (s := s) (x := x4) (by
    unfold x4
    refine Frame.foldl ?_ ?_
    · exact h1
    · intro x5 a5 h5
      exact (.ite (frame_decStall (sub hm (by decide)) h5) h5))
  rw [e4]
  refine Frame.ite ?_ ?_
  · exact h4
  · split
    · exact (frame_startDecode (sub hm (by decide)) h4)
    · exact h4

theorem frame_abortSlice {m s v0 v1 v2 v3 v4} (hm : ([.regs, .rate, .evSeq, .out, .dorm, .rings, .irq, .localQ, .links, .exch, .dec, .dram, .mem] : List Part) ⊆ m) (g0 : Frame m s v0) : Frame m s (abortSlice v0 v1 v2 v3 v4) := by
  unfold abortSlice
  extract_lets -merge -underBinder +onlyGivenNames x0 x1
  obtain ⟨y1, e1, h1⟩ := Frame.name (x := x1) (frame_State_bump (sub hm (by decide)) (frame_State_bump (sub hm (by decide)) g0))
  rw [e1]
  extract_lets -merge -underBinder +onlyGivenNames x2
  obtain ⟨y2, e2, h2⟩ := Frame.name (x := x2) (.ite (frame_State_bump (sub hm (by decide)) h1) h1)
  rw [e2]
  extract_lets -merge -underBinder +onlyGivenNames x3
  obtain ⟨y3, e3, h3⟩ := Frame.name (x := x3) (.ite (frame_State_bump (sub hm (by decide)) h2) h2)
  rw [e3]
  extract_lets -merge -underBinder +onlyGivenNames x4
  obtain ⟨y4, e4, h4⟩ := Frame.name (x := x4) (.ite (frame_decFault (sub hm (by decide)) h3) h3)
  rw [e4]
  exact (.ite (frame_decConceal (sub hm (by decide)) h4) (frame_concealRows (sub hm (by decide)) h4))

theorem frame_advanceRow {m s v0 v1 v2} (hm : ([.dec] : List Part) ⊆ m) (g0 : Frame m s v0) : Frame m s (advanceRow v0 v1 v2) := by
  unfold advanceRow
  extract_lets -merge -underBinder +onlyGivenNames x0
  split
  · exact (frame_State_setCtx (sub hm (by decide)) g0)
  · exact g0

theorem frame_noteSei {m s v0 v1 v2 v3} (hm : ([.dec, .regs, .evSeq, .out, .dorm, .rings, .irq, .rate, .localQ, .links, .exch, .mem, .dram, .surf] : List Part) ⊆ m) (g0 : Frame m s v0) : Frame m s (noteSei v0 v1 v2 v3) := by
  unfold noteSei
  split
  · refine Frame.ite ?_ ?_
    · exact g0
    · extract_lets -merge -underBinder +onlyGivenNames x0 x1 x2
      obtain ⟨y2, e2, h2⟩ := Frame.name (x := x2) (frame_State_setCtx (sub hm (by decide)) g0)
      rw [e2]
      refine Frame.ite ?_ ?_
      · split
        · extract_lets -merge -underBinder +onlyGivenNames x3 x4 x5
          obtain ⟨y5, e5, h5⟩ := Frame.name (x := x5) (frame_State_wr (sub hm (by decide)) h2)
          rw [e5]
          exact (frame_State_setPub (sub hm (by decide)) h5)
      · exact h2
  · exact g0

theorem frame_keepSlice {m s v0 v1 v2 v3 v4 v5 v6} (hm : ([.regs, .evSeq, .out, .dorm, .rings, .irq, .rate, .localQ, .links, .exch, .mem, .dram, .dec] : List Part) ⊆ m) (g0 : Frame m s v0) : Frame m s (keepSlice v0 v1 v2 v3 v4 v5 v6) := by
  unfold keepSlice
  split
  · exact g0
  · extract_lets -merge -underBinder +onlyGivenNames x0 x1
    obtain ⟨y1, e1, h1⟩ := Frame.name (m := m) (s := s) (x := x1) (by
      unfold x1
      refine Frame.foldl ?_ ?_
      · exact g0
      · intro x2 a2 h2
        exact (frame_State_wr (sub hm (by decide)) h2))
    rw [e1]
    extract_lets -merge -underBinder +onlyGivenNames x3 x4 x5 x6
    obtain ⟨y6, e6, h6⟩ := Frame.name (x := x6) (frame_State_setCtx (sub hm (by decide)) h1)
    rw [e6]
    exact (.ite (frame_decConceal (sub hm (by decide)) (frame_State_bump (sub hm (by decide)) h6)) h6)

theorem frame_takeSlice {m s v0 v1 v2 v3 v4} (hm : ([.dec, .regs, .evSeq, .out, .dorm, .rings, .irq, .rate, .localQ, .links, .exch, .dram, .mem, .surf] : List Part) ⊆ m) (g0 : Frame m s v0) : Frame m s (takeSlice v0 v1 v2 v3 v4) := by
  unfold takeSlice
  extract_lets -merge -underBinder +onlyGivenNames x0 x1 x2 x3 x4 x5
  obtain ⟨y5, e5, h5⟩ := Frame.name (x := x5) (frame_State_setCtx (sub hm (by decide)) g0)
  rw [e5]
  extract_lets -merge -underBinder +onlyGivenNames x6 x7
  obtain ⟨y7, e7, h7⟩ := Frame.name (m := m) (s := s) (x := x7) (by
    unfold x7
    refine Frame.foldl ?_ ?_
    · exact h5
    · intro x8 a8 h8
      exact (frame_concealRows (sub hm (by decide)) h8))
  rw [e7]
  extract_lets -merge -underBinder +onlyGivenNames x9
  obtain ⟨y9, e9, h9⟩ := Frame.name (x := x9) (frame_noteSei (sub hm (by decide)) h7)
  rw [e9]
  extract_lets -merge -underBinder +onlyGivenNames x10
  obtain ⟨y10, e10, h10⟩ := Frame.name (m := m) (s := s) (x := x10) (by
    unfold x10
    split
    · exact (frame_State_mpuDeny (sub hm (by decide)) h9)
    · exact h9)
  rw [e10]
  extract_lets -merge -underBinder +onlyGivenNames x11
  obtain ⟨y11, e11, h11⟩ := Frame.name (x := x11) (.ite (frame_keepSlice (sub hm (by decide)) h9) (frame_abortSlice (sub hm (by decide)) h10))
  rw [e11]
  exact (frame_advanceRow (sub hm (by decide)) h11)

theorem frame_afterSlice {m s v0 v1 v2} (hm : ([.dec, .regs, .evSeq, .out, .dorm, .rings, .irq, .rate, .localQ, .links, .exch, .mem, .dram, .inFlight, .dma, .done, .mir, .surf, .fum] : List Part) ⊆ m) (g0 : Frame m s v0) : Frame m s (afterSlice v0 v1 v2) := by
  unfold afterSlice
  extract_lets -merge -underBinder +onlyGivenNames x0
  obtain ⟨y0, e0, h0⟩ := Frame.name (x := x0) (frame_pumpFeeds (sub hm (by decide)) g0)
  rw [e0]
  split
  · exact h0
  · extract_lets -merge -underBinder +onlyGivenNames x1
    obtain ⟨y1, e1, h1⟩ := Frame.name (x := x1) (frame_publishRows (sub hm (by decide)) h0)
    rw [e1]
    refine Frame.ite ?_ ?_
    · split
      · exact (.ite (frame_concealRest (sub hm (by decide)) h1) (frame_finishPicture (sub hm (by decide)) h1))
      · exact h1
    · exact h1

theorem frame_doSlice {m s v0 v1 v2} (hm : ([.regs, .evSeq, .out, .dorm, .rings, .irq, .rate, .localQ, .links, .exch, .dram, .mem, .dec, .surf, .fum, .inFlight, .dma, .done, .mir] : List Part) ⊆ m) (g0 : Frame m s v0) : Frame m s (doSlice v0 v1 v2) := by
  unfold doSlice
  split
  · exact g0
  · extract_lets -merge -underBinder +onlyGivenNames x0
    split
    · exact (.ite g0 (.ite (frame_concealRest (sub hm (by decide)) g0) (.ite (frame_afterSlice (sub hm (by decide)) (frame_State_setCtx (sub hm (by decide)) g0)) (frame_afterSlice (sub hm (by decide)) (frame_takeSlice (sub hm (by decide)) g0)))))
    · exact g0

theorem frame_doStallLimit {m s v0 v1 v2} (hm : ([.rate, .evSeq, .out, .dorm, .rings, .regs, .irq, .localQ, .links, .exch, .dram, .mem, .dec, .surf, .fum, .inFlight, .dma, .done, .mir] : List Part) ⊆ m) (g0 : Frame m s v0) : Frame m s (doStallLimit v0 v1 v2) := by
  unfold doStallLimit
  split
  · exact g0
  · extract_lets -merge -underBinder +onlyGivenNames x0
    exact (.ite g0 (frame_concealRest (sub hm (by decide)) (frame_decStall (sub hm (by decide)) g0)))

theorem frame_doStreamOpen {m s v0 v1} (hm : ([.regs, .evSeq, .out, .dorm, .rings, .irq, .rate, .localQ, .links, .exch, .inFlight, .dma, .done, .mir, .dec, .free, .mem] : List Part) ⊆ m) (g0 : Frame m s v0) : Frame m s (doStreamOpen v0 v1) := by
  unfold doStreamOpen
  extract_lets -merge -underBinder +onlyGivenNames x0 x1 x2 x3 x4
  refine frame_runJob (sub hm (by decide)) ?_ ?_
  · exact g0
  · intro x5_0 h5_0
    extract_lets -merge -underBinder +onlyGivenNames x6 x7 x8 x9
    obtain ⟨y9, e9, h9⟩ := Frame.name (m := m) (s := s) (x := x9) (by
      unfold x9
      refine Frame.foldl ?_ ?_
      · exact (frame_State_setCtx (sub hm (by decide)) h5_0)
      · intro x10 a10 h10
        exact (frame_State_setReg (sub hm (by decide)) h10))
    rw [e9]
    exact (frame_State_finish (sub hm (by decide)) (frame_keepState (sub hm (by decide)) (frame_setCtxState (sub hm (by decide)) h9)))

theorem frame_flushCtx {m s v0 v1 v2} (hm : ([.dec, .regs, .evSeq, .out, .dorm, .rings, .irq, .rate, .localQ, .links, .exch, .dram, .mem, .surf, .fum, .inFlight, .dma, .done, .mir] : List Part) ⊆ m) (g0 : Frame m s v0) : Frame m s (flushCtx v0 v1 v2) := by
  unfold flushCtx
  extract_lets -merge -underBinder +onlyGivenNames x0 x1
  obtain ⟨y1, e1, h1⟩ := Frame.name (x := x1) (frame_State_setCtx (sub hm (by decide)) g0)
  rw [e1]
  extract_lets -merge -underBinder +onlyGivenNames x2 x3 x4
  obtain ⟨y4, e4, h4⟩ := Frame.name (x := x4) (frame_State_setCtx (sub hm (by decide)) h1)
  rw [e4]
  extract_lets -merge -underBinder +onlyGivenNames x5
  obtain ⟨y5, e5, h5⟩ := Frame.name (x := x5) (frame_concealRest (sub hm (by decide)) h4)
  rw [e5]
  extract_lets -merge -underBinder +onlyGivenNames x6
  obtain ⟨y6, e6, h6⟩ := Frame.name (x := x6) (frame_releaseAll (sub hm (by decide)) h5)
  rw [e6]
  extract_lets -merge -underBinder +onlyGivenNames x7
  obtain ⟨y7, e7, h7⟩ := Frame.name (m := m) (s := s) (x := x7) (by
    unfold x7
    refine Frame.foldl ?_ ?_
    · exact h6
    · intro x8 a8 h8
      exact (frame_State_finish (sub hm (by decide)) h8))
  rw [e7]
  extract_lets -merge -underBinder +onlyGivenNames x9
  exact (frame_State_setCtx (sub hm (by decide)) h7)

theorem frame_doFlush {m s v0 v1} (hm : ([.regs, .evSeq, .out, .dorm, .rings, .irq, .rate, .localQ, .links, .exch, .inFlight, .dma, .done, .mir, .dec, .dram, .mem, .surf, .fum] : List Part) ⊆ m) (g0 : Frame m s v0) : Frame m s (doFlush v0 v1) := by
  unfold doFlush
  extract_lets -merge -underBinder +onlyGivenNames x0
  refine frame_runJob (sub hm (by decide)) ?_ ?_
  · exact g0
  · intro x1_0 h1_0
    exact (frame_State_finish (sub hm (by decide)) (frame_settleClose (sub hm (by decide)) (frame_flushCtx (sub hm (by decide)) h1_0)))

theorem frame_doClose {m s v0 v1} (hm : ([.regs, .evSeq, .out, .dorm, .rings, .irq, .rate, .localQ, .links, .exch, .inFlight, .dma, .done, .mir, .dec, .dram, .mem, .surf, .fum] : List Part) ⊆ m) (g0 : Frame m s v0) : Frame m s (doClose v0 v1) := by
  unfold doClose
  extract_lets -merge -underBinder +onlyGivenNames x0
  refine frame_runJob (sub hm (by decide)) ?_ ?_
  · exact g0
  · intro x1_0 h1_0
    refine Frame.ite ?_ ?_
    · extract_lets -merge -underBinder +onlyGivenNames x2
      obtain ⟨y2, e2, h2⟩ := Frame.name (x := x2) (frame_setCtxState (sub hm (by decide)) h1_0)
      rw [e2]
      exact (frame_settleClose (sub hm (by decide)) (frame_State_setCtx (sub hm (by decide)) h2))
    · extract_lets -merge -underBinder +onlyGivenNames x3
      obtain ⟨y3, e3, h3⟩ := Frame.name (x := x3) (frame_setCtxState (sub hm (by decide)) (frame_flushCtx (sub hm (by decide)) h1_0))
      rw [e3]
      exact (frame_State_finish (sub hm (by decide)) h3)

theorem frame_State_setCap {m s v0 v1 v2} (hm : ([.caps] : List Part) ⊆ m) (g0 : Frame m s v0) : Frame m s (State.setCap v0 v1 v2) := by
  unfold State.setCap
  exact (.caps (hm (by decide)) g0)

theorem frame_driveHpd {m s v0 v1} (hm : ([.caps, .out] : List Part) ⊆ m) (g0 : Frame m s v0) : Frame m s (driveHpd v0 v1) := by
  unfold driveHpd
  extract_lets -merge -underBinder +onlyGivenNames x0 x1
  exact (.ite g0 (frame_State_emit (sub hm (by decide)) (frame_State_setCap (sub hm (by decide)) g0)))

theorem frame_capSignal {m s v0 v1 v2} (hm : ([.caps, .evSeq, .out, .dorm, .rings, .regs, .irq, .rate, .localQ, .links, .exch] : List Part) ⊆ m) (g0 : Frame m s v0) : Frame m s (capSignal v0 v1 v2) := by
  unfold capSignal
  extract_lets -merge -underBinder +onlyGivenNames x0
  exact (.ite g0 (frame_State_raise (sub hm (by decide)) (frame_State_setCap (sub hm (by decide)) g0)))

theorem frame_capEdid {m s v0 v1 v2} (hm : ([.caps, .out, .inFlight, .dma, .done, .mir, .regs, .evSeq, .dorm, .rings, .irq, .rate, .localQ, .links, .exch] : List Part) ⊆ m) (g0 : Frame m s v0) : Frame m s (capEdid v0 v1 v2) := by
  unfold capEdid
  extract_lets -merge -underBinder +onlyGivenNames x0 x1 x2
  obtain ⟨y2, e2, h2⟩ := Frame.name (x := x2) (frame_State_setCap (sub hm (by decide)) g0)
  rw [e2]
  exact (frame_State_finish (sub hm (by decide)) (frame_driveHpd (sub hm (by decide)) h2))

theorem frame_capEnable {m s v0 v1 v2} (hm : ([.regs, .evSeq, .out, .dorm, .rings, .irq, .rate, .localQ, .links, .exch, .mem, .dram, .inFlight, .dma, .done, .mir, .surf, .caps] : List Part) ⊆ m) (g0 : Frame m s v0) : Frame m s (capEnable v0 v1 v2) := by
  unfold capEnable
  extract_lets -merge -underBinder +onlyGivenNames x0 x1
  split
  rename_i x2 y2_1 e2
  have h2 : Frame m s x2 := Frame.of_1 e2 (by
    refine frame_initBlock (sub hm (by decide)) ?_
    exact g0)
  refine Frame.ite ?_ ?_
  · exact (frame_State_finish (sub hm (by decide)) h2)
  · extract_lets -merge -underBinder +onlyGivenNames x3 x4 x5
    obtain ⟨y5, e5, h5⟩ := Frame.name (x := x5) (frame_State_setPub (sub hm (by decide)) (.surf (hm (by decide)) h2))
    rw [e5]
    extract_lets -merge -underBinder +onlyGivenNames x6 x7
    obtain ⟨y7, e7, h7⟩ := Frame.name (x := x7) (frame_State_setCap (sub hm (by decide)) h5)
    rw [e7]
    exact (frame_State_finish (sub hm (by decide)) (frame_driveHpd (sub hm (by decide)) h7))

theorem frame_capLoad {m s v0 v1 v2} (hm : ([.caps, .out, .inFlight, .dma, .done, .mir, .regs, .evSeq, .dorm, .rings, .irq, .rate, .localQ, .links, .exch, .mem, .dram, .surf] : List Part) ⊆ m) (g0 : Frame m s v0) : Frame m s (capLoad v0 v1 v2) := by
  unfold capLoad
  exact (.ite (frame_capEdid (sub hm (by decide)) g0) (frame_capEnable (sub hm (by decide)) g0))

theorem frame_doCaptureCfg {m s v0 v1 v2} (hm : ([.regs, .evSeq, .out, .dorm, .rings, .irq, .rate, .localQ, .links, .exch, .inFlight, .dma, .done, .mir, .mgmt, .caps, .mem, .dram, .surf] : List Part) ⊆ m) (g0 : Frame m s v0) : Frame m s (doCaptureCfg v0 v1 v2) := by
  unfold doCaptureCfg
  extract_lets -merge -underBinder +onlyGivenNames x0
  refine frame_runJob (sub hm (by decide)) ?_ ?_
  · exact g0
  · intro x1_0 h1_0
    refine Frame.ite ?_ ?_
    · refine frame_State_hostFetch (sub hm (by decide)) ?_ ?_
      · exact h1_0
      · intro x2_0 a2_1 h2_0
        exact (frame_capLoad (sub hm (by decide)) h2_0)
    · extract_lets -merge -underBinder +onlyGivenNames x3
      obtain ⟨y3, e3, h3⟩ := Frame.name (x := x3) (frame_capSignal (sub hm (by decide)) h1_0)
      rw [e3]
      extract_lets -merge -underBinder +onlyGivenNames x4 x5
      obtain ⟨y5, e5, h5⟩ := Frame.name (x := x5) (frame_State_setCap (sub hm (by decide)) h3)
      rw [e5]
      exact (frame_State_finish (sub hm (by decide)) (frame_driveHpd (sub hm (by decide)) h5))

theorem frame_doHpdPulseEnd {m s v0 v1} (hm : ([.caps, .out] : List Part) ⊆ m) (g0 : Frame m s v0) : Frame m s (doHpdPulseEnd v0 v1) := by
  unfold doHpdPulseEnd
  exact (frame_driveHpd (sub hm (by decide)) (frame_State_setCap (sub hm (by decide)) g0))

theorem frame_dpiLane {m s v0} (hm : ([.free] : List Part) ⊆ m) (g0 : Frame m s v0) : Frame m s (dpiLane v0).2 := by
  unfold dpiLane
  extract_lets -merge -underBinder +onlyGivenNames x0 x1 x2
  refine Frame.mk2 ?_
  exact (.free (hm (by decide)) g0)

theorem frame_dpiAdapt {m s v0 v1 v2} (hm : ([.caps, .free] : List Part) ⊆ m) (g0 : Frame m s v0) : Frame m s (dpiAdapt v0 v1 v2) := by
  unfold dpiAdapt
  refine Frame.foldl ?_ ?_
  · exact (frame_State_setCap (sub hm (by decide)) g0)
  · intro x0 a0 h0
    split
    rename_i y1_0 x1 e1
    have h1 : Frame m s x1 := Frame.of_2 e1 (by
      refine frame_dpiLane (sub hm (by decide)) ?_
      exact h0)
    exact (frame_State_setCap (sub hm (by decide)) h1)

theorem frame_dpiScan {m s v0 v1} (hm : ([.free, .caps] : List Part) ⊆ m) (g0 : Frame m s v0) : Frame m s (dpiScan v0 v1) := by
  unfold dpiScan
  extract_lets -merge -underBinder +onlyGivenNames x0
  refine Frame.ite ?_ ?_
  · exact g0
  · extract_lets -merge -underBinder +onlyGivenNames x1 x2
    exact (frame_State_setCap (sub hm (by decide)) (.free (hm (by decide)) g0))

theorem frame_dpiScans {m s v0} (hm : ([.free, .caps] : List Part) ⊆ m) (g0 : Frame m s v0) : Frame m s (dpiScans v0) := by
  unfold dpiScans
  refine Frame.foldl ?_ ?_
  · exact g0
  · intro x0 a0 h0
    exact (frame_dpiScan (sub hm (by decide)) h0)

theorem frame_doSinkTraining {m s v0 v1 v2 v3 v4} (hm : ([.caps, .free, .out, .evSeq, .dorm, .rings, .regs, .irq, .rate, .localQ, .links, .exch] : List Part) ⊆ m) (g0 : Frame m s v0) : Frame m s (doSinkTraining v0 v1 v2 v3 v4) := by
  unfold doSinkTraining
  extract_lets -merge -underBinder +onlyGivenNames x0 x1 x2
  obtain ⟨y2, e2, h2⟩ := Frame.name (x := x2) (frame_State_setCap (sub hm (by decide)) g0)
  rw [e2]
  extract_lets -merge -underBinder +onlyGivenNames x3
  obtain ⟨y3, e3, h3⟩ := Frame.name (x := x3) (.ite (frame_dpiAdapt (sub hm (by decide)) h2) h2)
  rw [e3]
  extract_lets -merge -underBinder +onlyGivenNames x4
  obtain ⟨y4, e4, h4⟩ := Frame.name (x := x4) (.ite (frame_State_emit (sub hm (by decide)) h3) h3)
  rw [e4]
  exact (.ite (frame_State_raise (sub hm (by decide)) h4) h4)

theorem frame_doCapStart {m s v0 v1 v2} (hm : ([.caps, .evSeq, .out, .dorm, .rings, .regs, .irq, .rate, .localQ, .links, .exch, .dram, .mem, .surf] : List Part) ⊆ m) (g0 : Frame m s v0) : Frame m s (doCapStart v0 v1 v2) := by
  unfold doCapStart
  extract_lets -merge -underBinder +onlyGivenNames x0
  refine Frame.ite ?_ ?_
  · exact g0
  · extract_lets -merge -underBinder +onlyGivenNames x1 x2 x3 x4
    obtain ⟨y4, e4, h4⟩ := Frame.name (x := x4) (frame_State_setCap (sub hm (by decide)) g0)
    rw [e4]
    extract_lets -merge -underBinder +onlyGivenNames x5
    obtain ⟨y5, e5, h5⟩ := Frame.name (x := x5) (.ite (frame_State_raise (sub hm (by decide)) h4) h4)
    rw [e5]
    refine Frame.ite ?_ ?_
    · exact (frame_State_bump (sub hm (by decide)) h5)
    · extract_lets -merge -underBinder +onlyGivenNames x6
      obtain ⟨y6, e6, h6⟩ := Frame.name (x := x6) (frame_capSignal (sub hm (by decide)) h5)
      rw [e6]
      extract_lets -merge -underBinder +onlyGivenNames x7
      split
      · exact h6
      · split
        · exact (frame_State_bump (sub hm (by decide)) h6)
        · split
          rename_i y8_0 x8 e8
          have h8 : Frame m s x8 := Frame.of_2 e8 (by
            refine frame_startPicture (sub hm (by decide)) ?_
            exact h6)
          exact (frame_State_setCap (sub hm (by decide)) h8)

theorem frame_feedLine {m s v0 v1 v2 v3 v4} (hm : ([.encs] : List Part) ⊆ m) (g0 : Frame m s v0) : Frame m s (feedLine v0 v1 v2 v3 v4) := by
  unfold feedLine
  exact (.encs (hm (by decide)) g0)

theorem frame_storeBand {m s v0 v1 v2 v3 v4 v5} (hm : ([.regs, .evSeq, .out, .dorm, .rings, .irq, .rate, .localQ, .links, .exch, .mem, .dram, .surf, .fum, .caps] : List Part) ⊆ m) (g0 : Frame m s v0) : Frame m s (storeBand v0 v1 v2 v3 v4 v5) := by
  unfold storeBand
  extract_lets -merge -underBinder +onlyGivenNames x0
  split
  · extract_lets -merge -underBinder +onlyGivenNames x1 x2 x3 x4 x5
    obtain ⟨y5, e5, h5⟩ := Frame.name (m := m) (s := s) (x := x5) (by
      unfold x5
      refine Frame.foldl ?_ ?_
      · exact g0
      · intro x6 a6 h6
        split
        split
        · refine Frame.foldl ?_ ?_
          · exact h6
          · intro x7 a7 h7
            exact (frame_State_wr (sub hm (by decide)) h7))
    rw [e5]
    extract_lets -merge -underBinder +onlyGivenNames x8 x9 x10
    obtain ⟨y10, e10, h10⟩ := Frame.name (x := x10) (frame_publishBand (sub hm (by decide)) h5)
    rw [e10]
    exact (.ite (frame_State_bump (sub hm (by decide)) (frame_State_setCap (sub hm (by decide)) h10)) h10)
  · exact g0

theorem frame_doCapBand {m s v0 v1 v2} (hm : ([.caps, .encs, .regs, .evSeq, .out, .dorm, .rings, .irq, .rate, .localQ, .links, .exch, .mem, .dram, .surf, .fum] : List Part) ⊆ m) (g0 : Frame m s v0) : Frame m s (doCapBand v0 v1 v2) := by
  unfold doCapBand
  extract_lets -merge -underBinder +onlyGivenNames x0
  split
  · extract_lets -merge -underBinder +onlyGivenNames x1 x2
    refine Frame.ite ?_ ?_
    · exact g0
    · extract_lets -merge -underBinder +onlyGivenNames x3
      obtain ⟨y3, e3, h3⟩ := Frame.name (x := x3) (frame_State_setCap (sub hm (by decide)) g0)
      rw [e3]
      extract_lets -merge -underBinder +onlyGivenNames x4
      obtain ⟨y4, e4, h4⟩ := Frame.name (m := m) (s := s) (x := x4) (by
        unfold x4
        refine Frame.foldl ?_ ?_
        · exact h3
        · intro x5 a5 h5
          exact (frame_feedLine (sub hm (by decide)) h5))
      rw [e4]
      exact (frame_storeBand (sub hm (by decide)) h4)
  · exact g0

theorem frame_doCapLoss {m s v0 v1} (hm : ([.caps, .evSeq, .out, .dorm, .rings, .regs, .irq, .rate, .localQ, .links, .exch] : List Part) ⊆ m) (g0 : Frame m s v0) : Frame m s (doCapLoss v0 v1) := by
  unfold doCapLoss
  exact (frame_capSignal (sub hm (by decide)) g0)

end Machine
end Sys2Proof
end

