-- ==== Sys2Proof/Laws/FramesOutput.lean ====
section
/-! SUPPORT. Which parts of the state commits, scan-out, tile records and output checks can change, said once for each operation: a lemma frame_f says that the operation f
changes no part outside the list of its hypothesis. -/

set_option Elab.async false

namespace Sys2Proof
namespace Machine

theorem frame_runComp {m s v0 v1 v2 v3} (hm : ([.regs, .evSeq, .out, .dorm, .rings, .irq, .rate, .localQ, .links, .exch, .inFlight, .dma, .done, .mir] : List Part) ⊆ m) (g0 : Frame m s v0) (g3 : ∀ u0, Frame m s u0 → Frame m s (v3 u0)) : Frame m s (runComp v0 v1 v2 v3) := by
  unfold runComp
  split
  · exact (frame_State_refuse (sub hm (by decide)) g0)
  · exact g3 _ g0

theorem frame_loadBlocks {m s v0 v1 v2} (hm : ([.inFlight, .dma, .done, .mir, .regs, .evSeq, .out, .dorm, .rings, .irq, .rate, .localQ, .links, .exch, .cmp] : List Part) ⊆ m) (g0 : Frame m s v0) : Frame m s (loadBlocks v0 v1 v2) := by
  unfold loadBlocks
  split
  · exact (frame_State_finish (sub hm (by decide)) g0)
  · extract_lets -merge -underBinder +onlyGivenNames x0 x1
    obtain ⟨y1, e1, h1⟩ := Frame.name (x := x1) (.cmp (hm (by decide)) g0)
    rw [e1]
    exact (frame_State_finish (sub hm (by decide)) (frame_mirrorOut (sub hm (by decide)) h1))

theorem frame_doStateLoad {m s v0 v1 v2} (hm : ([.regs, .evSeq, .out, .dorm, .rings, .irq, .rate, .localQ, .links, .exch, .inFlight, .dma, .done, .mir, .mgmt, .cmp] : List Part) ⊆ m) (g0 : Frame m s v0) : Frame m s (doStateLoad v0 v1 v2) := by
  unfold doStateLoad
  extract_lets -merge -underBinder +onlyGivenNames x0 x1
  refine frame_runComp (sub hm (by decide)) ?_ ?_
  · exact g0
  · intro x2_0 h2_0
    refine frame_State_hostFetch (sub hm (by decide)) ?_ ?_
    · exact h2_0
    · intro x3_0 a3_1 h3_0
      exact (frame_loadBlocks (sub hm (by decide)) h3_0)

theorem frame_doCommit {m s v0 v1} (hm : ([.regs, .evSeq, .out, .dorm, .rings, .irq, .rate, .localQ, .links, .exch, .inFlight, .dma, .done, .mir, .commits] : List Part) ⊆ m) (g0 : Frame m s v0) : Frame m s (doCommit v0 v1) := by
  unfold doCommit
  refine frame_runComp (sub hm (by decide)) ?_ ?_
  · exact g0
  · intro x0_0 h0_0
    exact (.commits (hm (by decide)) h0_0)

theorem frame_State_putCommit {m s v0 v1 v2} (hm : ([.commits] : List Part) ⊆ m) (g0 : Frame m s v0) : Frame m s (State.putCommit v0 v1 v2) := by
  unfold State.putCommit
  exact (.commits (hm (by decide)) g0)

theorem frame_State_dropCommit {m s v0 v1} (hm : ([.commits] : List Part) ⊆ m) (g0 : Frame m s v0) : Frame m s (State.dropCommit v0 v1) := by
  unfold State.dropCommit
  exact (.commits (hm (by decide)) g0)

theorem frame_commitAck {m s v0 v1 v2} (hm : ([.mir, .evSeq, .out, .dorm, .rings, .regs, .irq, .rate, .localQ, .links, .exch] : List Part) ⊆ m) (g0 : Frame m s v0) : Frame m s (commitAck v0 v1 v2) := by
  unfold commitAck
  split
  · extract_lets -merge -underBinder +onlyGivenNames x0
    obtain ⟨y0, e0, h0⟩ := Frame.name (x := x0) (frame_mirrorPacket (sub hm (by decide)) g0)
    rw [e0]
    exact (frame_mirrorPump (sub hm (by decide)) h0)
  · exact g0

theorem frame_rejectCommit {m s v0 v1 v2} (hm : ([.commits, .regs, .mir, .evSeq, .out, .dorm, .rings, .irq, .rate, .localQ, .links, .exch, .inFlight, .dma, .done] : List Part) ⊆ m) (g0 : Frame m s v0) : Frame m s (rejectCommit v0 v1 v2) := by
  unfold rejectCommit
  extract_lets -merge -underBinder +onlyGivenNames x0
  obtain ⟨y0, e0, h0⟩ := Frame.name (x := x0) (frame_State_dropCommit (sub hm (by decide)) g0)
  rw [e0]
  extract_lets -merge -underBinder +onlyGivenNames x1
  obtain ⟨y1, e1, h1⟩ := Frame.name (m := m) (s := s) (x := x1) (by
    unfold x1
    refine Frame.foldl ?_ ?_
    · exact h0
    · intro x2 a2 h2
      exact (frame_State_bump (sub hm (by decide)) h2))
  rw [e1]
  extract_lets -merge -underBinder +onlyGivenNames x3
  obtain ⟨y3, e3, h3⟩ := Frame.name (x := x3) (frame_commitAck (sub hm (by decide)) h1)
  rw [e3]
  exact (frame_State_finish (sub hm (by decide)) h3)

theorem frame_ackFailed {m s v0 v1} (hm : ([.regs, .commits, .mir, .evSeq, .out, .dorm, .rings, .irq, .rate, .localQ, .links, .exch, .inFlight, .dma, .done] : List Part) ⊆ m) (g0 : Frame m s v0) : Frame m s (ackFailed v0 v1) := by
  unfold ackFailed
  exact (frame_rejectCommit (sub hm (by decide)) (frame_State_bump (sub hm (by decide)) g0))

theorem frame_State_setPipe {m s v0 v1 v2} (hm : ([.cmp] : List Part) ⊆ m) (g0 : Frame m s v0) : Frame m s (State.setPipe v0 v1 v2) := by
  unfold State.setPipe
  exact (.cmp (hm (by decide)) g0)

theorem frame_applyShadow {m s v0 v1 v2} (hm : ([.cmp, .fum, .regs] : List Part) ⊆ m) (g0 : Frame m s v0) : Frame m s (applyShadow v0 v1 v2) := by
  unfold applyShadow
  split
  · extract_lets -merge -underBinder +onlyGivenNames x0 x1
    obtain ⟨y1, e1, h1⟩ := Frame.name (x := x1) (.cmp (hm (by decide)) g0)
    rw [e1]
    extract_lets -merge -underBinder +onlyGivenNames x2
    obtain ⟨y2, e2, h2⟩ := Frame.name (x := x2) (frame_applyBindings (sub hm (by decide)) h1)
    rw [e2]
    extract_lets -merge -underBinder +onlyGivenNames x3 x4
    obtain ⟨y4, e4, h4⟩ := Frame.name (x := x4) (frame_State_setPipe (sub hm (by decide)) h2)
    rw [e4]
    extract_lets -merge -underBinder +onlyGivenNames x5
    obtain ⟨y5, e5, h5⟩ := Frame.name (x := x5) (frame_State_bump (sub hm (by decide)) h4)
    rw [e5]
    exact (.ite (frame_State_bump (sub hm (by decide)) h5) h5)

theorem frame_applyOn {m s v0 v1 v2} (hm : ([.cmp, .fum, .regs, .commits, .inFlight, .dma, .done, .mir, .evSeq, .out, .dorm, .rings, .irq, .rate, .localQ, .links, .exch] : List Part) ⊆ m) (g0 : Frame m s v0) : Frame m s (applyOn v0 v1 v2) := by
  unfold applyOn
  extract_lets -merge -underBinder +onlyGivenNames x0
  obtain ⟨y0, e0, h0⟩ := Frame.name (x := x0) (frame_applyShadow (sub hm (by decide)) g0)
  rw [e0]
  extract_lets -merge -underBinder +onlyGivenNames x1
  exact (.ite (frame_State_finish (sub hm (by decide)) (frame_State_dropCommit (sub hm (by decide)) h0)) (frame_State_putCommit (sub hm (by decide)) h0))

theorem frame_acceptCommit {m s v0 v1} (hm : ([.commits, .mir, .evSeq, .out, .dorm, .rings, .regs, .irq, .rate, .localQ, .links, .exch, .cmp, .fum, .inFlight, .dma, .done] : List Part) ⊆ m) (g0 : Frame m s v0) : Frame m s (acceptCommit v0 v1) := by
  unfold acceptCommit
  extract_lets -merge -underBinder +onlyGivenNames x0 x1 x2 x3 x4
  obtain ⟨y4, e4, h4⟩ := Frame.name (x := x4) (frame_commitAck (sub hm (by decide)) (frame_State_putCommit (sub hm (by decide)) g0))
  rw [e4]
  refine Frame.foldl ?_ ?_
  · exact h4
  · intro x5 a5 h5
    split
    · exact (frame_applyOn (sub hm (by decide)) h5)
    · exact h5

theorem frame_notOwnerNow {m s v0 v1} (hm : ([.commits, .inFlight, .dma, .done, .mir, .regs, .evSeq, .out, .dorm, .rings, .irq, .rate, .localQ, .links, .exch] : List Part) ⊆ m) (g0 : Frame m s v0) : Frame m s (notOwnerNow v0 v1) := by
  unfold notOwnerNow
  exact (frame_State_finish (sub hm (by decide)) (frame_State_dropCommit (sub hm (by decide)) g0))

theorem frame_doCommitValidation {m s v0 v1} (hm : ([.commits, .regs, .mir, .evSeq, .out, .dorm, .rings, .irq, .rate, .localQ, .links, .exch, .inFlight, .dma, .done, .cmp, .fum] : List Part) ⊆ m) (g0 : Frame m s v0) : Frame m s (doCommitValidation v0 v1) := by
  unfold doCommitValidation
  split
  · exact g0
  · split
    · exact (frame_rejectCommit (sub hm (by decide)) g0)
    · extract_lets -merge -underBinder +onlyGivenNames x0
      refine Frame.ite ?_ ?_
      · refine Frame.ite ?_ ?_
        · exact (frame_notOwnerNow (sub hm (by decide)) g0)
        · refine Frame.ite ?_ ?_
          · extract_lets -merge -underBinder +onlyGivenNames x1 x2
            obtain ⟨y2, e2, h2⟩ := Frame.name (x := x2) (frame_State_putCommit (sub hm (by decide)) g0)
            rw [e2]
            exact (frame_mirrorRecord (sub hm (by decide)) h2)
          · exact (frame_ackFailed (sub hm (by decide)) g0)
      · exact (frame_acceptCommit (sub hm (by decide)) g0)

theorem frame_boundaryCommit {m s v0 v1} (hm : ([.commits, .cmp, .fum, .regs, .inFlight, .dma, .done, .mir, .evSeq, .out, .dorm, .rings, .irq, .rate, .localQ, .links, .exch] : List Part) ⊆ m) (g0 : Frame m s v0) : Frame m s (boundaryCommit v0 v1) := by
  unfold boundaryCommit
  split
  · exact g0
  · exact (.ite g0 (.ite (frame_State_putCommit (sub hm (by decide)) g0) (frame_applyOn (sub hm (by decide)) g0)))

theorem frame_atBoundary {m s v0 v1} (hm : ([.scan, .commits, .cmp, .fum, .regs, .inFlight, .dma, .done, .mir, .evSeq, .out, .dorm, .rings, .irq, .rate, .localQ, .links, .exch] : List Part) ⊆ m) (g0 : Frame m s v0) : Frame m s (atBoundary v0 v1) := by
  unfold atBoundary
  extract_lets -merge -underBinder +onlyGivenNames x0
  refine Frame.ite ?_ ?_
  · exact g0
  · extract_lets -merge -underBinder +onlyGivenNames x1
    obtain ⟨y1, e1, h1⟩ := Frame.name (x := x1) (.ite (frame_State_setTg (sub hm (by decide)) g0) g0)
    rw [e1]
    exact (frame_boundaryCommit (sub hm (by decide)) h1)

theorem frame_doCommitApply {m s v0 v1} (hm : ([.scan, .commits, .cmp, .fum, .regs, .inFlight, .dma, .done, .mir, .evSeq, .out, .dorm, .rings, .irq, .rate, .localQ, .links, .exch] : List Part) ⊆ m) (g0 : Frame m s v0) : Frame m s (doCommitApply v0 v1) := by
  unfold doCommitApply
  exact (frame_atBoundary (sub hm (by decide)) g0)

theorem frame_changeBlock {m s v0 v1 v2 v3 v4} (hm : ([.cmp] : List Part) ⊆ m) (g0 : Frame m s v0) : Frame m s (changeBlock v0 v1 v2 v3 v4) := by
  unfold changeBlock
  extract_lets -merge -underBinder +onlyGivenNames x0 x1
  obtain ⟨y1, e1, h1⟩ := Frame.name (m := m) (s := s) (x := x1) (by
    unfold x1
    split
    · exact (.cmp (hm (by decide)) g0)
    · exact g0)
  rw [e1]
  exact (.cmp (hm (by decide)) h1)

theorem frame_setSteam {m s v0 v1 v2} (hm : ([.fum] : List Part) ⊆ m) (g0 : Frame m s v0) : Frame m s (setSteam v0 v1 v2) := by
  unfold setSteam
  extract_lets -merge -underBinder +onlyGivenNames x0
  obtain ⟨y0, e0, h0⟩ := Frame.name (m := m) (s := s) (x := x0) (by
    unfold x0
    split
    · exact (.fum (hm (by decide)) g0)
    · exact g0)
  rw [e0]
  exact (.fum (hm (by decide)) h0)

theorem frame_doLiveSet {m s v0 v1} (hm : ([.regs, .evSeq, .out, .dorm, .rings, .irq, .rate, .localQ, .links, .exch, .inFlight, .dma, .done, .mir, .cmp, .fum] : List Part) ⊆ m) (g0 : Frame m s v0) : Frame m s (doLiveSet v0 v1) := by
  unfold doLiveSet
  extract_lets -merge -underBinder +onlyGivenNames x0 x1 x2 x3
  refine frame_runJob (sub hm (by decide)) ?_ ?_
  · exact g0
  · intro x4_0 h4_0
    extract_lets -merge -underBinder +onlyGivenNames x5
    obtain ⟨y5, e5, h5⟩ := Frame.name (m := m) (s := s) (x := x5) (by
      unfold x5
      clear_value x1
      split
      · exact (frame_changeBlock (sub hm (by decide)) h4_0)
      · exact (frame_changeBlock (sub hm (by decide)) h4_0)
      · exact (frame_changeBlock (sub hm (by decide)) h4_0)
      · exact (frame_setSteam (sub hm (by decide)) h4_0))
    rw [e5]
    exact (frame_State_finish (sub hm (by decide)) h5)

theorem frame_State_setSlate {m s v0 v1 v2} (hm : ([.cmp] : List Part) ⊆ m) (g0 : Frame m s v0) : Frame m s (State.setSlate v0 v1 v2) := by
  unfold State.setSlate
  exact (.cmp (hm (by decide)) g0)

theorem frame_setLoaded {m s v0 v1 v2} (hm : ([.cmp, .evSeq, .out, .dorm, .rings, .regs, .irq, .rate, .localQ, .links, .exch] : List Part) ⊆ m) (g0 : Frame m s v0) : Frame m s (setLoaded v0 v1 v2) := by
  unfold setLoaded
  extract_lets -merge -underBinder +onlyGivenNames x0
  exact (.ite g0 (frame_State_raise (sub hm (by decide)) (frame_State_setSlate (sub hm (by decide)) g0)))

theorem frame_settleSlate {m s v0 v1} (hm : ([.cmp, .evSeq, .out, .dorm, .rings, .regs, .irq, .rate, .localQ, .links, .exch] : List Part) ⊆ m) (g0 : Frame m s v0) : Frame m s (settleSlate v0 v1) := by
  unfold settleSlate
  extract_lets -merge -underBinder +onlyGivenNames x0
  exact (.ite (frame_setLoaded (sub hm (by decide)) g0) g0)

theorem frame_slatesSeen {m s v0 v1} (hm : ([.cmp, .evSeq, .out, .dorm, .rings, .regs, .irq, .rate, .localQ, .links, .exch] : List Part) ⊆ m) (g0 : Frame m s v0) : Frame m s (slatesSeen v0 v1) := by
  unfold slatesSeen
  refine Frame.foldl ?_ ?_
  · exact g0
  · intro x0 a0 h0
    extract_lets -merge -underBinder +onlyGivenNames x1
    exact (frame_settleSlate (sub hm (by decide)) (frame_State_setSlate (sub hm (by decide)) h0))

theorem frame_slateBegin {m s v0 v1} (hm : ([.cmp, .evSeq, .out, .dorm, .rings, .regs, .irq, .rate, .localQ, .links, .exch] : List Part) ⊆ m) (g0 : Frame m s v0) : Frame m s (slateBegin v0 v1) := by
  unfold slateBegin
  extract_lets -merge -underBinder +onlyGivenNames x0
  exact (frame_State_setSlate (sub hm (by decide)) (frame_setLoaded (sub hm (by decide)) g0))

theorem frame_slateCopy {m s v0 v1 v2} (hm : ([.cmp] : List Part) ⊆ m) (g0 : Frame m s v0) : Frame m s (slateCopy v0 v1 v2) := by
  unfold slateCopy
  exact (.cmp (hm (by decide)) g0)

theorem frame_doSlateLoad {m s v0 v1 v2} (hm : ([.regs, .evSeq, .out, .dorm, .rings, .irq, .rate, .localQ, .links, .exch, .inFlight, .dma, .done, .mir, .cmp, .mgmt] : List Part) ⊆ m) (g0 : Frame m s v0) : Frame m s (doSlateLoad v0 v1 v2) := by
  unfold doSlateLoad
  extract_lets -merge -underBinder +onlyGivenNames x0 x1 x2 x3 x4
  refine frame_runJob (sub hm (by decide)) ?_ ?_
  · exact g0
  · intro x5_0 h5_0
    refine Frame.ite ?_ ?_
    · extract_lets -merge -underBinder +onlyGivenNames x6 x7
      obtain ⟨y7, e7, h7⟩ := Frame.name (x := x7) (frame_setLoaded (sub hm (by decide)) h5_0)
      rw [e7]
      extract_lets -merge -underBinder +onlyGivenNames x8 x9
      obtain ⟨y9, e9, h9⟩ := Frame.name (x := x9) (frame_State_setSlate (sub hm (by decide)) h7)
      rw [e9]
      exact (frame_State_finish (sub hm (by decide)) (frame_mirrorOut (sub hm (by decide)) h9))
    · refine frame_State_hostFetch (sub hm (by decide)) ?_ ?_
      · exact (frame_slateBegin (sub hm (by decide)) h5_0)
      · intro x10_0 a10_1 h10_0
        exact (frame_slateCopy (sub hm (by decide)) h10_0)

theorem frame_slateRows {m s v0 v1 v2 v3 v4 v5 v6} (hm : ([.regs, .evSeq, .out, .dorm, .rings, .irq, .rate, .localQ, .links, .exch, .mem, .dram] : List Part) ⊆ m) (g6 : Frame m s v6) : Frame m s (slateRows v0 v1 v2 v3 v4 v5 v6).1 := by
  induction v3 generalizing v0 v1 v2 v4 v5 v6 with
  | zero =>
    rw [slateRows]
    refine Frame.mk1 ?_
    exact g6
  | succ v ih =>
    rw [slateRows]
    split
    · refine Frame.mk1 ?_
      exact (frame_State_mpuDeny (sub hm (by decide)) g6)
    · split
      · extract_lets -merge -underBinder +onlyGivenNames x0 x1
        obtain ⟨y1, e1, h1⟩ := Frame.name (x := x1) (.ite g6 (frame_State_wr (sub hm (by decide)) g6))
        rw [e1]
        refine Frame.mk1 ?_
        exact (frame_State_wr (sub hm (by decide)) h1)
      · refine ih ?_
        exact (frame_State_wr (sub hm (by decide)) g6)

theorem frame_doSlateCopyEnd {m s v0 v1} (hm : ([.cmp, .regs, .evSeq, .out, .dorm, .rings, .irq, .rate, .localQ, .links, .exch, .mem, .dram, .inFlight, .dma, .done, .mir] : List Part) ⊆ m) (g0 : Frame m s v0) : Frame m s (doSlateCopyEnd v0 v1) := by
  unfold doSlateCopyEnd
  split
  · exact g0
  · extract_lets -merge -underBinder +onlyGivenNames x0 x1 x2 x3
    obtain ⟨y3, e3, h3⟩ := Frame.name (x := x3) (.cmp (hm (by decide)) g0)
    rw [e3]
    split
    rename_i x4 y4_1 e4
    have h4 : Frame m s x4 := Frame.of_1 e4 (by
      refine frame_slateRows (sub hm (by decide)) ?_
      exact h3)
    refine Frame.ite ?_ ?_
    · extract_lets -merge -underBinder +onlyGivenNames x5 x6
      obtain ⟨y6, e6, h6⟩ := Frame.name (x := x6) (frame_State_setSlate (sub hm (by decide)) h4)
      rw [e6]
      extract_lets -merge -underBinder +onlyGivenNames x7
      obtain ⟨y7, e7, h7⟩ := Frame.name (x := x7) (frame_settleSlate (sub hm (by decide)) h6)
      rw [e7]
      exact (frame_State_finish (sub hm (by decide)) (frame_mirrorOut (sub hm (by decide)) h7))
    · exact (frame_State_finish (sub hm (by decide)) h4)

theorem frame_raiseChk {m s v0 v1 v2 v3 v4} (hm : ([.evSeq, .out, .dorm, .rings, .regs, .irq, .rate, .localQ, .links, .exch] : List Part) ⊆ m) (g0 : Frame m s v0) : Frame m s (raiseChk v0 v1 v2 v3 v4) := by
  unfold raiseChk
  extract_lets -merge -underBinder +onlyGivenNames x0 x1
  exact (frame_pairAlarm (sub hm (by decide)) (frame_State_raise (sub hm (by decide)) g0))

theorem frame_chkReport {m s v0 v1 v2} (hm : ([.scan, .evSeq, .out, .dorm, .rings, .regs, .irq, .rate, .localQ, .links, .exch] : List Part) ⊆ m) (g0 : Frame m s v0) : Frame m s (chkReport v0 v1 v2) := by
  unfold chkReport
  extract_lets -merge -underBinder +onlyGivenNames x0
  exact (.ite g0 (.ite (frame_State_setChk (sub hm (by decide)) g0) (frame_raiseChk (sub hm (by decide)) (frame_State_setChk (sub hm (by decide)) g0))))

theorem frame_doChkWindowEnd {m s v0 v1} (hm : ([.scan, .evSeq, .out, .dorm, .rings, .regs, .irq, .rate, .localQ, .links, .exch] : List Part) ⊆ m) (g0 : Frame m s v0) : Frame m s (doChkWindowEnd v0 v1) := by
  unfold doChkWindowEnd
  extract_lets -merge -underBinder +onlyGivenNames x0 x1
  obtain ⟨y1, e1, h1⟩ := Frame.name (x := x1) (frame_State_setChk (sub hm (by decide)) g0)
  rw [e1]
  exact (.ite (frame_raiseChk (sub hm (by decide)) h1) h1)

theorem frame_chkForce {m s v0 v1} (hm : ([.scan, .evSeq, .out, .dorm, .rings, .regs, .irq, .rate, .localQ, .links, .exch] : List Part) ⊆ m) (g0 : Frame m s v0) : Frame m s (chkForce v0 v1) := by
  unfold chkForce
  extract_lets -merge -underBinder +onlyGivenNames x0
  exact (.ite (frame_State_setChk (sub hm (by decide)) g0) (frame_raiseChk (sub hm (by decide)) (frame_State_setChk (sub hm (by decide)) g0)))

theorem frame_trimChecks {m s v0 v1 v2 v3} (hm : ([.scan, .evSeq, .out, .dorm, .rings, .regs, .irq, .rate, .localQ, .links, .exch] : List Part) ⊆ m) (g0 : Frame m s v0) : Frame m s (trimChecks v0 v1 v2 v3) := by
  unfold trimChecks
  refine Frame.foldl ?_ ?_
  · exact g0
  · intro x0 a0 h0
    extract_lets -merge -underBinder +onlyGivenNames x1
    exact (.ite (frame_chkForce (sub hm (by decide)) (frame_State_setChk (sub hm (by decide)) h0)) h0)

theorem frame_State_setDp {m s v0 v1 v2} (hm : ([.scan] : List Part) ⊆ m) (g0 : Frame m s v0) : Frame m s (State.setDp v0 v1 v2) := by
  unfold State.setDp
  exact (.scan (hm (by decide)) g0)

theorem frame_raiseLink {m s v0 v1 v2} (hm : ([.evSeq, .out, .dorm, .rings, .regs, .irq, .rate, .localQ, .links, .exch] : List Part) ⊆ m) (g0 : Frame m s v0) : Frame m s (raiseLink v0 v1 v2) := by
  unfold raiseLink
  extract_lets -merge -underBinder +onlyGivenNames x0
  exact (frame_State_raise (sub hm (by decide)) g0)

theorem frame_dpDepth {m s v0 v1} (hm : ([.scan, .evSeq, .out, .dorm, .rings, .regs, .irq, .rate, .localQ, .links, .exch] : List Part) ⊆ m) (g0 : Frame m s v0) : Frame m s (dpDepth v0 v1) := by
  unfold dpDepth
  extract_lets -merge -underBinder +onlyGivenNames x0
  split
  · exact (frame_State_setDp (sub hm (by decide)) g0)
  · refine Frame.ite ?_ ?_
    · exact g0
    · split
      · exact (frame_State_setDp (sub hm (by decide)) g0)
      · extract_lets -merge -underBinder +onlyGivenNames x1
        obtain ⟨y1, e1, h1⟩ := Frame.name (x := x1) (frame_State_setDp (sub hm (by decide)) g0)
        rw [e1]
        exact (.ite h1 (frame_raiseLink (sub hm (by decide)) h1))

theorem frame_dpStart {m s v0 v1} (hm : ([.scan] : List Part) ⊆ m) (g0 : Frame m s v0) : Frame m s (dpStart v0 v1) := by
  unfold dpStart
  extract_lets -merge -underBinder +onlyGivenNames x0 x1
  exact (.ite (frame_State_setDp (sub hm (by decide)) g0) g0)

theorem frame_dpRetrain {m s v0 v1} (hm : ([.scan, .evSeq, .out, .dorm, .rings, .regs, .irq, .rate, .localQ, .links, .exch] : List Part) ⊆ m) (g0 : Frame m s v0) : Frame m s (dpRetrain v0 v1) := by
  unfold dpRetrain
  extract_lets -merge -underBinder +onlyGivenNames x0 x1
  obtain ⟨y1, e1, h1⟩ := Frame.name (x := x1) (frame_State_setDp (sub hm (by decide)) g0)
  rw [e1]
  extract_lets -merge -underBinder +onlyGivenNames x2
  obtain ⟨y2, e2, h2⟩ := Frame.name (x := x2) (.ite (frame_raiseLink (sub hm (by decide)) h1) h1)
  rw [e2]
  exact (frame_dpStart (sub hm (by decide)) h2)

theorem frame_doHpdUnplug {m s v0 v1} (hm : ([.scan, .evSeq, .out, .dorm, .rings, .regs, .irq, .rate, .localQ, .links, .exch] : List Part) ⊆ m) (g0 : Frame m s v0) : Frame m s (doHpdUnplug v0 v1) := by
  unfold doHpdUnplug
  extract_lets -merge -underBinder +onlyGivenNames x0
  refine Frame.ite ?_ ?_
  · exact g0
  · extract_lets -merge -underBinder +onlyGivenNames x1
    obtain ⟨y1, e1, h1⟩ := Frame.name (x := x1) (frame_State_setDp (sub hm (by decide)) g0)
    rw [e1]
    exact (frame_raiseLink (sub hm (by decide)) (frame_State_raise (sub hm (by decide)) h1))

theorem frame_doHpdPlug {m s v0 v1 v2} (hm : ([.scan, .evSeq, .out, .dorm, .rings, .regs, .irq, .rate, .localQ, .links, .exch] : List Part) ⊆ m) (g0 : Frame m s v0) : Frame m s (doHpdPlug v0 v1 v2) := by
  unfold doHpdPlug
  extract_lets -merge -underBinder +onlyGivenNames x0
  refine Frame.ite ?_ ?_
  · exact g0
  · extract_lets -merge -underBinder +onlyGivenNames x1
    obtain ⟨y1, e1, h1⟩ := Frame.name (x := x1) (frame_State_setDp (sub hm (by decide)) g0)
    rw [e1]
    exact (frame_dpStart (sub hm (by decide)) (frame_State_raise (sub hm (by decide)) h1))

theorem frame_doIrqHpd {m s v0 v1 v2} (hm : ([.regs, .evSeq, .out, .dorm, .rings, .irq, .rate, .localQ, .links, .exch, .scan] : List Part) ⊆ m) (g0 : Frame m s v0) : Frame m s (doIrqHpd v0 v1 v2) := by
  unfold doIrqHpd
  extract_lets -merge -underBinder +onlyGivenNames x0
  refine Frame.ite ?_ ?_
  · exact g0
  · extract_lets -merge -underBinder +onlyGivenNames x1
    obtain ⟨y1, e1, h1⟩ := Frame.name (x := x1) (frame_State_raise (sub hm (by decide)) (frame_State_bump (sub hm (by decide)) g0))
    rw [e1]
    exact (.ite (frame_dpRetrain (sub hm (by decide)) h1) h1)

theorem frame_trainFailed {m s v0 v1 v2 v3 v4} (hm : ([.scan, .regs, .evSeq, .out, .dorm, .rings, .irq, .rate, .localQ, .links, .exch] : List Part) ⊆ m) (g0 : Frame m s v0) : Frame m s (trainFailed v0 v1 v2 v3 v4) := by
  unfold trainFailed
  extract_lets -merge -underBinder +onlyGivenNames x0
  split
  · exact (frame_State_setDp (sub hm (by decide)) g0)
  · exact (frame_raiseLink (sub hm (by decide)) (frame_State_bump (sub hm (by decide)) (frame_State_setDp (sub hm (by decide)) g0)))

theorem frame_trainWrites {m s v0 v1 v2} (hm : ([.scan, .out] : List Part) ⊆ m) (g0 : Frame m s v0) : Frame m s (trainWrites v0 v1 v2) := by
  unfold trainWrites
  extract_lets -merge -underBinder +onlyGivenNames x0 x1 x2
  obtain ⟨y2, e2, h2⟩ := Frame.name (x := x2) (frame_State_setDp (sub hm (by decide)) g0)
  rw [e2]
  extract_lets -merge -underBinder +onlyGivenNames x3
  obtain ⟨y3, e3, h3⟩ := Frame.name (x := x3) (frame_State_emit (sub hm (by decide)) h2)
  rw [e3]
  extract_lets -merge -underBinder +onlyGivenNames x4
  obtain ⟨y4, e4, h4⟩ := Frame.name (x := x4) (frame_State_emit (sub hm (by decide)) h3)
  rw [e4]
  extract_lets -merge -underBinder +onlyGivenNames x5
  obtain ⟨y5, e5, h5⟩ := Frame.name (x := x5) (frame_State_emit (sub hm (by decide)) h4)
  rw [e5]
  extract_lets -merge -underBinder +onlyGivenNames x6
  obtain ⟨y6, e6, h6⟩ := Frame.name (x := x6) (frame_State_emit (sub hm (by decide)) h5)
  rw [e6]
  exact (.ite (frame_State_emit (sub hm (by decide)) h6) h6)

theorem frame_doDpTraining {m s v0 v1 v2} (hm : ([.scan, .out, .evSeq, .dorm, .rings, .regs, .irq, .rate, .localQ, .links, .exch] : List Part) ⊆ m) (g0 : Frame m s v0) : Frame m s (doDpTraining v0 v1 v2) := by
  unfold doDpTraining
  extract_lets -merge -underBinder +onlyGivenNames x0 x1
  split
  · exact g0
  · refine Frame.ite ?_ ?_
    · exact g0
    · extract_lets -merge -underBinder +onlyGivenNames x2
      obtain ⟨y2, e2, h2⟩ := Frame.name (x := x2) (frame_trainWrites (sub hm (by decide)) g0)
      rw [e2]
      split
      · extract_lets -merge -underBinder +onlyGivenNames x3 x4 x5
        obtain ⟨y5, e5, h5⟩ := Frame.name (x := x5) (frame_State_setDp (sub hm (by decide)) h2)
        rw [e5]
        extract_lets -merge -underBinder +onlyGivenNames x6
        obtain ⟨y6, e6, h6⟩ := Frame.name (x := x6) (frame_State_emit (sub hm (by decide)) h5)
        rw [e6]
        extract_lets -merge -underBinder +onlyGivenNames x7
        obtain ⟨y7, e7, h7⟩ := Frame.name (x := x7) (frame_State_emit (sub hm (by decide)) h6)
        rw [e7]
        extract_lets -merge -underBinder +onlyGivenNames x8
        obtain ⟨y8, e8, h8⟩ := Frame.name (x := x8) (frame_dpDepth (sub hm (by decide)) h7)
        rw [e8]
        exact (.ite h8 (frame_raiseLink (sub hm (by decide)) h8))
      · exact (frame_trainFailed (sub hm (by decide)) h2)
      · exact (frame_trainFailed (sub hm (by decide)) h2)

theorem frame_doTrainingRetry {m s v0 v1} (hm : ([.scan] : List Part) ⊆ m) (g0 : Frame m s v0) : Frame m s (doTrainingRetry v0 v1) := by
  unfold doTrainingRetry
  exact (.ite (frame_dpStart (sub hm (by decide)) g0) g0)

theorem frame_dpForce {m s v0 v1} (hm : ([.scan, .evSeq, .out, .dorm, .rings, .regs, .irq, .rate, .localQ, .links, .exch] : List Part) ⊆ m) (g0 : Frame m s v0) : Frame m s (dpForce v0 v1) := by
  unfold dpForce
  exact (.ite (frame_dpRetrain (sub hm (by decide)) g0) g0)

theorem frame_doEdidEnd {m s v0 v1 v2} (hm : ([.scan, .evSeq, .out, .dorm, .rings, .regs, .irq, .rate, .localQ, .links, .exch] : List Part) ⊆ m) (g0 : Frame m s v0) : Frame m s (doEdidEnd v0 v1 v2) := by
  unfold doEdidEnd
  extract_lets -merge -underBinder +onlyGivenNames x0
  refine Frame.ite ?_ ?_
  · exact g0
  · split
    · extract_lets -merge -underBinder +onlyGivenNames x1
      obtain ⟨y1, e1, h1⟩ := Frame.name (x := x1) (frame_State_setDp (sub hm (by decide)) g0)
      rw [e1]
      exact (frame_State_raise (sub hm (by decide)) h1)

theorem frame_doModeSet {m s v0 v1} (hm : ([.regs, .evSeq, .out, .dorm, .rings, .irq, .rate, .localQ, .links, .exch, .inFlight, .dma, .done, .mir, .scan] : List Part) ⊆ m) (g0 : Frame m s v0) : Frame m s (doModeSet v0 v1) := by
  unfold doModeSet
  extract_lets -merge -underBinder +onlyGivenNames x0
  refine frame_runJob (sub hm (by decide)) ?_ ?_
  · exact g0
  · intro x1_0 h1_0
    extract_lets -merge -underBinder +onlyGivenNames x2
    exact (frame_State_setTg (sub hm (by decide)) h1_0)

theorem frame_setPhaseLocked {m s v0 v1 v2} (hm : ([.scan, .evSeq, .out, .dorm, .rings, .regs, .irq, .rate, .localQ, .links, .exch] : List Part) ⊆ m) (g0 : Frame m s v0) : Frame m s (setPhaseLocked v0 v1 v2) := by
  unfold setPhaseLocked
  extract_lets -merge -underBinder +onlyGivenNames x0
  exact (.ite g0 (frame_State_raise (sub hm (by decide)) (frame_State_setTg (sub hm (by decide)) g0)))

theorem frame_enterLock {m s v0 v1 v2} (hm : ([.scan] : List Part) ⊆ m) (g0 : Frame m s v0) : Frame m s (enterLock v0 v1 v2) := by
  unfold enterLock
  extract_lets -merge -underBinder +onlyGivenNames x0
  exact (.ite (frame_State_setTg (sub hm (by decide)) g0) (frame_State_setTg (sub hm (by decide)) g0))

theorem frame_leaveLock {m s v0 v1} (hm : ([.scan, .evSeq, .out, .dorm, .rings, .regs, .irq, .rate, .localQ, .links, .exch] : List Part) ⊆ m) (g0 : Frame m s v0) : Frame m s (leaveLock v0 v1) := by
  unfold leaveLock
  extract_lets -merge -underBinder +onlyGivenNames x0
  obtain ⟨y0, e0, h0⟩ := Frame.name (x := x0) (frame_setPhaseLocked (sub hm (by decide)) g0)
  rw [e0]
  exact (frame_State_setTg (sub hm (by decide)) h0)

theorem frame_leaveFallback {m s v0 v1} (hm : ([.scan, .evSeq, .out, .dorm, .rings, .regs, .irq, .rate, .localQ, .links, .exch] : List Part) ⊆ m) (g0 : Frame m s v0) : Frame m s (leaveFallback v0 v1) := by
  unfold leaveFallback
  extract_lets -merge -underBinder +onlyGivenNames x0
  split
  · exact g0
  · exact (frame_State_raise (sub hm (by decide)) (frame_State_setTg (sub hm (by decide)) g0))

theorem frame_followTime {m s v0} (hm : ([.scan, .evSeq, .out, .dorm, .rings, .regs, .irq, .rate, .localQ, .links, .exch] : List Part) ⊆ m) (g0 : Frame m s v0) : Frame m s (followTime v0) := by
  unfold followTime
  refine Frame.foldl ?_ ?_
  · exact g0
  · intro x0 a0 h0
    extract_lets -merge -underBinder +onlyGivenNames x1
    refine Frame.ite ?_ ?_
    · exact (.ite (frame_enterLock (sub hm (by decide)) h0) h0)
    · refine Frame.ite ?_ ?_
      · exact h0
      · refine Frame.ite ?_ ?_
        · extract_lets -merge -underBinder +onlyGivenNames x2 x3 x4
          obtain ⟨y4, e4, h4⟩ := Frame.name (x := x4) (frame_State_setTg (sub hm (by decide)) h0)
          rw [e4]
          exact (frame_State_raise (sub hm (by decide)) h4)
        · exact (.ite (frame_enterLock (sub hm (by decide)) (frame_leaveFallback (sub hm (by decide)) h0)) h0)

theorem frame_settleSlates {m s v0} (hm : ([.cmp, .evSeq, .out, .dorm, .rings, .regs, .irq, .rate, .localQ, .links, .exch] : List Part) ⊆ m) (g0 : Frame m s v0) : Frame m s (settleSlates v0) := by
  unfold settleSlates
  refine Frame.foldl ?_ ?_
  · exact g0
  · intro x0 a0 h0
    exact (frame_settleSlate (sub hm (by decide)) h0)

theorem frame_stopGen {m s v0 v1} (hm : ([.scan, .evSeq, .out, .dorm, .rings, .regs, .irq, .rate, .localQ, .links, .exch, .surf, .fum, .pair, .inFlight, .dma, .done, .mir, .cmp] : List Part) ⊆ m) (g0 : Frame m s v0) : Frame m s (stopGen v0 v1) := by
  unfold stopGen
  extract_lets -merge -underBinder +onlyGivenNames x0
  obtain ⟨y0, e0, h0⟩ := Frame.name (x := x0) (frame_leaveLock (sub hm (by decide)) (frame_leaveFallback (sub hm (by decide)) g0))
  rw [e0]
  extract_lets -merge -underBinder +onlyGivenNames x1
  obtain ⟨y1, e1, h1⟩ := Frame.name (m := m) (s := s) (x := x1) (by
    unfold x1
    refine Frame.foldl ?_ ?_
    · exact h0
    · intro x2 a2 h2
      exact (frame_chkReport (sub hm (by decide)) (frame_State_setChk (sub hm (by decide)) h2)))
  rw [e1]
  extract_lets -merge -underBinder +onlyGivenNames x3 x4
  obtain ⟨y4, e4, h4⟩ := Frame.name (x := x4) (frame_State_setTg (sub hm (by decide)) h1)
  rw [e4]
  extract_lets -merge -underBinder +onlyGivenNames x5 x6 x7 x8
  obtain ⟨y8, e8, h8⟩ := Frame.name (x := x8) (Frame.upd h4 (fun p => by cases p; (case surf | fum => exact .inl (hm (by decide))); all_goals first | exact .inr rfl | exact .inr (fun _ _ _ => rfl) | exact .inr ⟨rfl, rfl⟩ | exact .inr ⟨rfl, rfl, rfl⟩ | exact .inr ⟨rfl, rfl, rfl, rfl⟩))
  rw [e8]
  extract_lets -merge -underBinder +onlyGivenNames x9
  obtain ⟨y9, e9, h9⟩ := Frame.name (x := x9) (.ite (frame_State_untrigger (sub hm (by decide)) h8) h8)
  rw [e9]
  exact (frame_settleSlates (sub hm (by decide)) (frame_settleReleases (sub hm (by decide)) h9))

theorem frame_dpLimits {m s v0 v1} (hm : ([.scan, .evSeq, .out, .dorm, .rings, .regs, .irq, .rate, .localQ, .links, .exch] : List Part) ⊆ m) (g0 : Frame m s v0) : Frame m s (dpLimits v0 v1) := by
  unfold dpLimits
  extract_lets -merge -underBinder +onlyGivenNames x0 x1
  exact (.ite (frame_State_setDp (sub hm (by decide)) g0) (.ite g0 (.ite (frame_dpRetrain (sub hm (by decide)) g0) (frame_dpStart (sub hm (by decide)) g0))))

theorem frame_takeMode {m s v0 v1 v2 v3} (hm : ([.scan, .evSeq, .out, .dorm, .rings, .regs, .irq, .rate, .localQ, .links, .exch, .surf, .fum, .pair, .inFlight, .dma, .done, .mir, .cmp, .commits] : List Part) ⊆ m) (g0 : Frame m s v0) : Frame m s (takeMode v0 v1 v2 v3) := by
  unfold takeMode
  split
  · extract_lets -merge -underBinder +onlyGivenNames x0
    obtain ⟨y0, e0, h0⟩ := Frame.name (x := x0) (frame_stopGen (sub hm (by decide)) (frame_trimChecks (sub hm (by decide)) g0))
    rw [e0]
    extract_lets -merge -underBinder +onlyGivenNames x1 x2
    obtain ⟨y2, e2, h2⟩ := Frame.name (x := x2) (frame_State_setTg (sub hm (by decide)) h0)
    rw [e2]
    extract_lets -merge -underBinder +onlyGivenNames x3
    obtain ⟨y3, e3, h3⟩ := Frame.name (x := x3) (frame_boundaryCommit (sub hm (by decide)) h2)
    rw [e3]
    extract_lets -merge -underBinder +onlyGivenNames x4
    obtain ⟨y4, e4, h4⟩ := Frame.name (x := x4) (.ite (frame_enterLock (sub hm (by decide)) h3) h3)
    rw [e4]
    exact (frame_dpLimits (sub hm (by decide)) h4)

theorem frame_takeTiming {m s v0 v1 v2} (hm : ([.scan, .evSeq, .out, .dorm, .rings, .regs, .irq, .rate, .localQ, .links, .exch] : List Part) ⊆ m) (g0 : Frame m s v0) : Frame m s (takeTiming v0 v1 v2) := by
  unfold takeTiming
  extract_lets -merge -underBinder +onlyGivenNames x0 x1
  obtain ⟨y1, e1, h1⟩ := Frame.name (x := x1) (frame_leaveFallback (sub hm (by decide)) g0)
  rw [e1]
  extract_lets -merge -underBinder +onlyGivenNames x2
  obtain ⟨y2, e2, h2⟩ := Frame.name (x := x2) (.ite (frame_leaveLock (sub hm (by decide)) h1) h1)
  rw [e2]
  extract_lets -merge -underBinder +onlyGivenNames x3 x4
  obtain ⟨y4, e4, h4⟩ := Frame.name (x := x4) (frame_State_setTg (sub hm (by decide)) h2)
  rw [e4]
  extract_lets -merge -underBinder +onlyGivenNames x5
  obtain ⟨y5, e5, h5⟩ := Frame.name (x := x5) (.ite (frame_enterLock (sub hm (by decide)) h4) h4)
  rw [e5]
  exact (frame_dpLimits (sub hm (by decide)) h5)

theorem frame_doModeSetApply {m s v0 v1} (hm : ([.scan, .commits, .cmp, .fum, .regs, .inFlight, .dma, .done, .mir, .evSeq, .out, .dorm, .rings, .irq, .rate, .localQ, .links, .exch, .surf, .pair] : List Part) ⊆ m) (g0 : Frame m s v0) : Frame m s (doModeSetApply v0 v1) := by
  unfold doModeSetApply
  extract_lets -merge -underBinder +onlyGivenNames x0
  split
  · exact g0
  · extract_lets -merge -underBinder +onlyGivenNames x1 x2
    refine Frame.ite ?_ ?_
    · exact g0
    · extract_lets -merge -underBinder +onlyGivenNames x3 x4
      obtain ⟨y4, e4, h4⟩ := Frame.name (x := x4) (frame_atBoundary (sub hm (by decide)) g0)
      rw [e4]
      extract_lets -merge -underBinder +onlyGivenNames x5
      obtain ⟨y5, e5, h5⟩ := Frame.name (x := x5) (.ite (frame_atBoundary (sub hm (by decide)) h4) h4)
      rw [e5]
      extract_lets -merge -underBinder +onlyGivenNames x6 x7
      obtain ⟨y7, e7, h7⟩ := Frame.name (x := x7) (frame_State_setTg (sub hm (by decide)) h5)
      rw [e7]
      refine Frame.ite ?_ ?_
      · extract_lets -merge -underBinder +onlyGivenNames x8
        obtain ⟨y8, e8, h8⟩ := Frame.name (x := x8) (frame_takeTiming (sub hm (by decide)) h7)
        rw [e8]
        extract_lets -merge -underBinder +onlyGivenNames x9
        obtain ⟨y9, e9, h9⟩ := Frame.name (x := x9) (.ite (frame_takeTiming (sub hm (by decide)) h8) h8)
        rw [e9]
        exact (frame_followTime (sub hm (by decide)) (frame_State_setTg (sub hm (by decide)) h9))
      · extract_lets -merge -underBinder +onlyGivenNames x10
        obtain ⟨y10, e10, h10⟩ := Frame.name (x := x10) (frame_takeMode (sub hm (by decide)) h7)
        rw [e10]
        extract_lets -merge -underBinder +onlyGivenNames x11
        obtain ⟨y11, e11, h11⟩ := Frame.name (x := x11) (.ite (frame_takeMode (sub hm (by decide)) h10) (.ite (frame_takeMode (sub hm (by decide)) h10) h10))
        rw [e11]
        exact (.ite (frame_State_finish (sub hm (by decide)) h11) (frame_State_setTg (sub hm (by decide)) h11))

theorem frame_lockFrame {m s v0 v1} (hm : ([.free, .scan, .evSeq, .out, .dorm, .rings, .regs, .irq, .rate, .localQ, .links, .exch] : List Part) ⊆ m) (g0 : Frame m s v0) : Frame m s (lockFrame v0 v1) := by
  unfold lockFrame
  extract_lets -merge -underBinder +onlyGivenNames x0 x1
  refine Frame.ite ?_ ?_
  · exact g0
  · extract_lets -merge -underBinder +onlyGivenNames x2 x3 x4 x5
    split
    rename_i y6_0 x6 e6
    have h6 : Frame m s x6 := Frame.of_2 e6 (by
      refine frame_State_fresh (sub hm (by decide)) ?_
      exact g0)
    extract_lets -merge -underBinder +onlyGivenNames x7 x8 x9 x10
    obtain ⟨y10, e10, h10⟩ := Frame.name (x := x10) (frame_State_setTg (sub hm (by decide)) h6)
    rw [e10]
    exact (.ite (frame_setPhaseLocked (sub hm (by decide)) h10) (.ite (frame_setPhaseLocked (sub hm (by decide)) h10) h10))

theorem frame_followPair {m s v0 v1} (hm : ([.scan, .evSeq, .out, .dorm, .rings, .regs, .irq, .rate, .localQ, .links, .exch] : List Part) ⊆ m) (g0 : Frame m s v0) : Frame m s (followPair v0 v1) := by
  unfold followPair
  extract_lets -merge -underBinder +onlyGivenNames x0 x1 x2
  obtain ⟨y2, e2, h2⟩ := Frame.name (x := x2) (frame_State_setTg (sub hm (by decide)) g0)
  rw [e2]
  exact (frame_setPhaseLocked (sub hm (by decide)) h2)

theorem frame_blankEvent {m s v0 v1 v2 v3} (hm : ([.evSeq, .out, .dorm, .rings, .regs, .irq, .rate, .localQ, .links, .exch] : List Part) ⊆ m) (g0 : Frame m s v0) : Frame m s (blankEvent v0 v1 v2 v3) := by
  unfold blankEvent
  exact (frame_State_raise (sub hm (by decide)) g0)

theorem frame_blankFrame {m s v0 v1} (hm : ([.cmp, .evSeq, .out, .dorm, .rings, .regs, .irq, .rate, .localQ, .links, .exch] : List Part) ⊆ m) (g0 : Frame m s v0) : Frame m s (blankFrame v0 v1) := by
  unfold blankFrame
  extract_lets -merge -underBinder +onlyGivenNames x0
  split
  · exact g0
  · refine Frame.ite ?_ ?_
    · extract_lets -merge -underBinder +onlyGivenNames x1
      obtain ⟨y1, e1, h1⟩ := Frame.name (x := x1) (frame_State_setPipe (sub hm (by decide)) g0)
      rw [e1]
      extract_lets -merge -underBinder +onlyGivenNames x2
      obtain ⟨y2, e2, h2⟩ := Frame.name (x := x2) (.ite (frame_blankEvent (sub hm (by decide)) h1) h1)
      rw [e2]
      split
      · exact (frame_blankEvent (sub hm (by decide)) h2)
      · exact h2
    · exact (.ite g0 (frame_blankEvent (sub hm (by decide)) (frame_State_setPipe (sub hm (by decide)) g0)))

theorem frame_applyTrim {m s v0 v1} (hm : ([.lanes] : List Part) ⊆ m) (g0 : Frame m s v0) : Frame m s (applyTrim v0 v1) := by
  unfold applyTrim
  extract_lets -merge -underBinder +onlyGivenNames x0
  exact (.lanes (hm (by decide)) g0)

theorem frame_sendMsa {m s v0 v1} (hm : ([.out] : List Part) ⊆ m) (g0 : Frame m s v0) : Frame m s (sendMsa v0 v1) := by
  unfold sendMsa
  extract_lets -merge -underBinder +onlyGivenNames x0
  split
  · exact (.ite (frame_State_emit (sub hm (by decide)) g0) g0)
  · exact g0

theorem frame_resumeChecks {m s v0 v1} (hm : ([.scan, .evSeq, .out, .dorm, .rings, .regs, .irq, .rate, .localQ, .links, .exch] : List Part) ⊆ m) (g0 : Frame m s v0) : Frame m s (resumeChecks v0 v1) := by
  unfold resumeChecks
  refine Frame.foldl ?_ ?_
  · exact g0
  · intro x0 a0 h0
    extract_lets -merge -underBinder +onlyGivenNames x1
    exact (.ite h0 (frame_chkReport (sub hm (by decide)) h0))

theorem frame_frameOn {m s v0 v1} (hm : ([.scan, .evSeq, .out, .dorm, .rings, .regs, .irq, .rate, .localQ, .links, .exch, .free, .cmp, .lanes, .fum, .pair, .inFlight, .dma, .done, .mir] : List Part) ⊆ m) (g0 : Frame m s v0) : Frame m s (frameOn v0 v1) := by
  unfold frameOn
  extract_lets -merge -underBinder +onlyGivenNames x0 x1
  obtain ⟨y1, e1, h1⟩ := Frame.name (x := x1) (frame_State_setTg (sub hm (by decide)) g0)
  rw [e1]
  extract_lets -merge -underBinder +onlyGivenNames x2
  obtain ⟨y2, e2, h2⟩ := Frame.name (x := x2) (.ite (frame_followPair (sub hm (by decide)) h1) (frame_lockFrame (sub hm (by decide)) h1))
  rw [e2]
  extract_lets -merge -underBinder +onlyGivenNames x3
  obtain ⟨y3, e3, h3⟩ := Frame.name (x := x3) (frame_applyTrim (sub hm (by decide)) (frame_blankFrame (sub hm (by decide)) h2))
  rw [e3]
  extract_lets -merge -underBinder +onlyGivenNames x4
  obtain ⟨y4, e4, h4⟩ := Frame.name (x := x4) (frame_slatesSeen (sub hm (by decide)) h3)
  rw [e4]
  extract_lets -merge -underBinder +onlyGivenNames x5
  obtain ⟨y5, e5, h5⟩ := Frame.name (x := x5) (frame_dpDepth (sub hm (by decide)) h4)
  rw [e5]
  extract_lets -merge -underBinder +onlyGivenNames x6 x7
  obtain ⟨y7, e7, h7⟩ := Frame.name (x := x7) (frame_sendMsa (sub hm (by decide)) (frame_State_setDp (sub hm (by decide)) h5))
  rw [e7]
  extract_lets -merge -underBinder +onlyGivenNames x8
  obtain ⟨y8, e8, h8⟩ := Frame.name (x := x8) (.ite h7 (frame_resumeChecks (sub hm (by decide)) h7))
  rw [e8]
  extract_lets -merge -underBinder +onlyGivenNames x9
  obtain ⟨y9, e9, h9⟩ := Frame.name (m := m) (s := s) (x := x9) (by
    unfold x9
    refine Frame.foldl ?_ ?_
    · exact h8
    · intro x10 a10 h10
      extract_lets -merge -underBinder +onlyGivenNames x11
      exact (frame_State_setChk (sub hm (by decide)) h10))
  rw [e9]
  extract_lets -merge -underBinder +onlyGivenNames x12 x13 x14
  obtain ⟨y14, e14, h14⟩ := Frame.name (x := x14) (.fum (hm (by decide)) h9)
  rw [e14]
  extract_lets -merge -underBinder +onlyGivenNames x15
  obtain ⟨y15, e15, h15⟩ := Frame.name (x := x15) (.ite (frame_State_untrigger (sub hm (by decide)) h14) h14)
  rw [e15]
  extract_lets -merge -underBinder +onlyGivenNames x16
  split
  · exact (frame_State_finish (sub hm (by decide)) (frame_State_setTg (sub hm (by decide)) h15))
  · exact h15

theorem frame_startFrame {m s v0 v1} (hm : ([.scan, .evSeq, .out, .dorm, .rings, .regs, .irq, .rate, .localQ, .links, .exch, .free, .cmp, .lanes, .fum, .pair, .inFlight, .dma, .done, .mir] : List Part) ⊆ m) (g0 : Frame m s v0) : Frame m s (startFrame v0 v1) := by
  unfold startFrame
  extract_lets -merge -underBinder +onlyGivenNames x0
  obtain ⟨y0, e0, h0⟩ := Frame.name (x := x0) (frame_frameOn (sub hm (by decide)) g0)
  rw [e0]
  exact (.ite (frame_frameOn (sub hm (by decide)) h0) h0)

theorem frame_frameBoundary {m s v0 v1} (hm : ([.scan, .evSeq, .out, .dorm, .rings, .regs, .irq, .rate, .localQ, .links, .exch, .free, .cmp, .lanes, .fum, .pair, .inFlight, .dma, .done, .mir, .surf] : List Part) ⊆ m) (g0 : Frame m s v0) : Frame m s (frameBoundary v0 v1) := by
  unfold frameBoundary
  refine Frame.ite ?_ ?_
  · extract_lets -merge -underBinder +onlyGivenNames x0
    obtain ⟨y0, e0, h0⟩ := Frame.name (x := x0) (frame_stopGen (sub hm (by decide)) g0)
    rw [e0]
    exact (.ite (frame_stopGen (sub hm (by decide)) h0) h0)
  · exact (frame_startFrame (sub hm (by decide)) g0)

theorem frame_doFrameStart {m s v0 v1} (hm : ([.scan, .evSeq, .out, .dorm, .rings, .regs, .irq, .rate, .localQ, .links, .exch, .free, .cmp, .lanes, .fum, .pair, .inFlight, .dma, .done, .mir, .surf] : List Part) ⊆ m) (g0 : Frame m s v0) : Frame m s (doFrameStart v0 v1) := by
  unfold doFrameStart
  extract_lets -merge -underBinder +onlyGivenNames x0
  exact (.ite g0 (frame_frameBoundary (sub hm (by decide)) g0))

theorem frame_cmpFault {m s v0 v1 v2} (hm : ([.regs, .rate, .evSeq, .out, .dorm, .rings, .irq, .localQ, .links, .exch] : List Part) ⊆ m) (g0 : Frame m s v0) : Frame m s (cmpFault v0 v1 v2) := by
  unfold cmpFault
  extract_lets -merge -underBinder +onlyGivenNames x0
  obtain ⟨y0, e0, h0⟩ := Frame.name (x := x0) (.ite g0 (frame_State_setReg (sub hm (by decide)) (frame_State_setReg (sub hm (by decide)) g0)))
  rw [e0]
  exact (frame_State_raiseLimited (sub hm (by decide)) h0)

theorem frame_pipeCheck {m s v0 v1 v2 v3} (hm : ([.regs, .evSeq, .out, .dorm, .rings, .irq, .rate, .localQ, .links, .exch] : List Part) ⊆ m) (g0 : Frame m s v0) : Frame m s (pipeCheck v0 v1 v2 v3).1 := by
  unfold pipeCheck
  split
  · refine Frame.mk1 ?_
    exact g0
  · refine Frame.mk1 ?_
    exact (frame_cmpFault (sub hm (by decide)) (frame_State_mpuDeny (sub hm (by decide)) g0))

theorem frame_pipePages {m s v0 v1 v2 v3} (hm : ([.regs, .evSeq, .out, .dorm, .rings, .irq, .rate, .localQ, .links, .exch] : List Part) ⊆ m) (g0 : Frame m s v0) : Frame m s (pipePages v0 v1 v2 v3).1 := by
  unfold pipePages
  refine Frame.foldl1 ?_ ?_
  · refine Frame.mk1 ?_
    exact g0
  · intro x0 a0 h0
    split
    rename_i x1 y1_1 e1
    have h1 : Frame m s x1 := Frame.of_1 e1 (by
      refine frame_pipeCheck (sub hm (by decide)) ?_
      exact h0)
    refine Frame.mk1 ?_
    exact h1

theorem frame_paceReady {m s v0 v1 v2 v3 v4 v5} (hm : ([.regs, .evSeq, .out, .dorm, .rings, .irq, .rate, .localQ, .links, .exch] : List Part) ⊆ m) (g0 : Frame m s v0) : Frame m s (paceReady v0 v1 v2 v3 v4 v5).1 := by
  unfold paceReady
  split
  rename_i x0 y0_1 e0
  have h0 : Frame m s x0 := Frame.of_1 e0 (by
    refine frame_pipeCheck (sub hm (by decide)) ?_
    exact g0)
  extract_lets -merge -underBinder +onlyGivenNames x1 x2 x3 x4 x5
  split
  rename_i x6 y6_1 e6
  have h6 : Frame m s x6 := Frame.of_1 e6 (by
    refine Frame.ite1 ?_ ?_
    · refine frame_pipeCheck (sub hm (by decide)) ?_
      exact h0
    · refine Frame.mk1 ?_
      exact h0)
  refine Frame.mk1 ?_
  exact h6

theorem frame_paceMaxed {m s v0 v1} (hm : ([.regs, .scan, .rate, .evSeq, .out, .dorm, .rings, .irq, .localQ, .links, .exch] : List Part) ⊆ m) (g0 : Frame m s v0) : Frame m s (paceMaxed v0 v1) := by
  unfold paceMaxed
  extract_lets -merge -underBinder +onlyGivenNames x0
  obtain ⟨y0, e0, h0⟩ := Frame.name (x := x0) (frame_State_bump (sub hm (by decide)) g0)
  rw [e0]
  extract_lets -merge -underBinder +onlyGivenNames x1 x2
  obtain ⟨y2, e2, h2⟩ := Frame.name (x := x2) (frame_State_setTg (sub hm (by decide)) h0)
  rw [e2]
  extract_lets -merge -underBinder +onlyGivenNames x3
  refine Frame.ite ?_ ?_
  · extract_lets -merge -underBinder +onlyGivenNames x4
    obtain ⟨y4, e4, h4⟩ := Frame.name (x := x4) (frame_State_raise (sub hm (by decide)) (frame_State_rateMark (sub hm (by decide)) h2))
    rw [e4]
    exact (frame_State_setTg (sub hm (by decide)) h4)
  · exact h2

theorem frame_doVblankLine {m s v0 v1} (hm : ([.scan, .commits, .cmp, .fum, .regs, .inFlight, .dma, .done, .mir, .evSeq, .out, .dorm, .rings, .irq, .rate, .localQ, .links, .exch, .free, .lanes, .pair, .surf] : List Part) ⊆ m) (g0 : Frame m s v0) : Frame m s (doVblankLine v0 v1) := by
  unfold doVblankLine
  extract_lets -merge -underBinder +onlyGivenNames x0
  refine Frame.ite ?_ ?_
  · exact g0
  · split
    · exact g0
    · extract_lets -merge -underBinder +onlyGivenNames x1
      obtain ⟨y1, e1, h1⟩ := Frame.name (x := x1) (frame_atBoundary (sub hm (by decide)) g0)
      rw [e1]
      extract_lets -merge -underBinder +onlyGivenNames x2
      obtain ⟨y2, e2, h2⟩ := Frame.name (x := x2) (.ite (frame_atBoundary (sub hm (by decide)) h1) h1)
      rw [e2]
      split
      · exact (frame_State_setTg (sub hm (by decide)) h2)
      · split
        rename_i x3 y3_1 e3
        have h3 : Frame m s x3 := Frame.of_1 e3 (by
          refine frame_paceReady (sub hm (by decide)) ?_
          exact h2)
        extract_lets -merge -underBinder +onlyGivenNames x4 x5 x6
        obtain ⟨y6, e6, h6⟩ := Frame.name (x := x6) (frame_State_setTg (sub hm (by decide)) h3)
        rw [e6]
        extract_lets -merge -underBinder +onlyGivenNames x7 x8
        exact (.ite h6 (.ite (frame_frameBoundary (sub hm (by decide)) h6) (.ite (frame_frameBoundary (sub hm (by decide)) (frame_paceMaxed (sub hm (by decide)) h6)) h6)))

theorem frame_addReading {m s v0 v1 v2 v3} (hm : ([.surf] : List Part) ⊆ m) (g0 : Frame m s v0) : Frame m s (addReading v0 v1 v2 v3) := by
  unfold addReading
  exact (.surf (hm (by decide)) g0)

theorem frame_latchNone {m s v0 v1 v2} (hm : ([.fum] : List Part) ⊆ m) (g0 : Frame m s v0) : Frame m s (latchNone v0 v1 v2) := by
  unfold latchNone
  exact (frame_State_setTile (sub hm (by decide)) g0)

theorem frame_doRecordLatch {m s v0 v1} (hm : ([.fum, .regs, .evSeq, .out, .dorm, .rings, .irq, .rate, .localQ, .links, .exch, .surf, .scan] : List Part) ⊆ m) (g0 : Frame m s v0) : Frame m s (doRecordLatch v0 v1) := by
  unfold doRecordLatch
  extract_lets -merge -underBinder +onlyGivenNames x0
  split
  · exact g0
  · refine Frame.ite ?_ ?_
    · exact g0
    · split
      · exact (frame_latchNone (sub hm (by decide)) g0)
      · split
        rename_i x1 y1_1 e1
        have h1 : Frame m s x1 := Frame.of_1 e1 (by
          refine frame_pipeCheck (sub hm (by decide)) ?_
          exact g0)
        refine Frame.ite ?_ ?_
        · exact (frame_latchNone (sub hm (by decide)) h1)
        · extract_lets -merge -underBinder +onlyGivenNames x2 x3 x4 x5 x6 x7 x8 x9 x10 x11
          split
          rename_i x12 y12_1 e12
          have h12 : Frame m s x12 := Frame.of_1 e12 (by
            refine Frame.ite1 ?_ ?_
            · refine frame_pipeCheck (sub hm (by decide)) ?_
              exact h1
            · refine Frame.mk1 ?_
              exact h1)
          extract_lets -merge -underBinder +onlyGivenNames x13 x14 x15 x16
          obtain ⟨y16, e16, h16⟩ := Frame.name (x := x16) (frame_State_setTile (sub hm (by decide)) h12)
          rw [e16]
          extract_lets -merge -underBinder +onlyGivenNames x17 x18 x19
          obtain ⟨y19, e19, h19⟩ := Frame.name (x := x19) (frame_addReading (sub hm (by decide)) h16)
          rw [e19]
          extract_lets -merge -underBinder +onlyGivenNames x20
          refine Frame.foldl ?_ ?_
          · exact h19
          · intro x21 a21 h21
            extract_lets -merge -underBinder +onlyGivenNames x22
            exact (.ite (frame_State_setTg (sub hm (by decide)) h21) h21)

theorem frame_selfMismatch {m s v0 v1 v2 v3} (hm : ([.regs, .evSeq, .out, .dorm, .rings, .irq, .rate, .localQ, .links, .exch, .fum, .pair, .free, .mir, .mode, .aon, .commits, .inFlight, .dma, .done] : List Part) ⊆ m) (g0 : Frame m s v0) : Frame m s (selfMismatch v0 v1 v2 v3) := by
  unfold selfMismatch
  extract_lets -merge -underBinder +onlyGivenNames x0 x1
  obtain ⟨y1, e1, h1⟩ := Frame.name (x := x1) (frame_State_bump (sub hm (by decide)) g0)
  rw [e1]
  extract_lets -merge -underBinder +onlyGivenNames x2
  obtain ⟨y2, e2, h2⟩ := Frame.name (x := x2) (.ite h1 (frame_State_setReg (sub hm (by decide)) (frame_State_setReg (sub hm (by decide)) (frame_State_setReg (sub hm (by decide)) h1))))
  rw [e2]
  extract_lets -merge -underBinder +onlyGivenNames x3
  obtain ⟨y3, e3, h3⟩ := Frame.name (x := x3) (frame_State_raise (sub hm (by decide)) h2)
  rw [e3]
  exact (frame_State_trigger (sub hm (by decide)) (.fum (hm (by decide)) h3))

theorem frame_negAge {m s v0 v1 v2} (hm : ([.fum, .regs, .rate, .evSeq, .out, .dorm, .rings, .irq, .localQ, .links, .exch] : List Part) ⊆ m) (g0 : Frame m s v0) : Frame m s (negAge v0 v1 v2) := by
  unfold negAge
  extract_lets -merge -underBinder +onlyGivenNames x0 x1 x2
  obtain ⟨y2, e2, h2⟩ := Frame.name (x := x2) (frame_State_bump (sub hm (by decide)) (.fum (hm (by decide)) g0))
  rw [e2]
  exact (frame_State_raiseLimited (sub hm (by decide)) h2)

theorem frame_raiseTile {m s v0 v1 v2 v3 v4 v5} (hm : ([.evSeq, .out, .dorm, .rings, .regs, .irq, .rate, .localQ, .links, .exch] : List Part) ⊆ m) (g0 : Frame m s v0) : Frame m s (raiseTile v0 v1 v2 v3 v4 v5) := by
  unfold raiseTile
  extract_lets -merge -underBinder +onlyGivenNames x0
  exact (frame_pairAlarm (sub hm (by decide)) (frame_State_raise (sub hm (by decide)) g0))

theorem frame_tileChange {m s v0 v1 v2 v3} (hm : ([.fum, .evSeq, .out, .dorm, .rings, .regs, .irq, .rate, .localQ, .links, .exch] : List Part) ⊆ m) (g0 : Frame m s v0) : Frame m s (tileChange v0 v1 v2 v3) := by
  unfold tileChange
  extract_lets -merge -underBinder +onlyGivenNames x0
  exact (.ite g0 (.ite (frame_State_setTile (sub hm (by decide)) g0) (frame_raiseTile (sub hm (by decide)) (frame_State_setTile (sub hm (by decide)) g0))))

theorem frame_doTileWindowEnd {m s v0 v1} (hm : ([.fum, .evSeq, .out, .dorm, .rings, .regs, .irq, .rate, .localQ, .links, .exch] : List Part) ⊆ m) (g0 : Frame m s v0) : Frame m s (doTileWindowEnd v0 v1) := by
  unfold doTileWindowEnd
  extract_lets -merge -underBinder +onlyGivenNames x0 x1
  obtain ⟨y1, e1, h1⟩ := Frame.name (x := x1) (frame_State_setTile (sub hm (by decide)) g0)
  rw [e1]
  exact (.ite (frame_raiseTile (sub hm (by decide)) h1) h1)

theorem frame_assess {m s v0 v1 v2} (hm : ([.regs, .evSeq, .out, .dorm, .rings, .irq, .rate, .localQ, .links, .exch, .fum, .pair, .free, .mir, .mode, .aon, .commits, .inFlight, .dma, .done] : List Part) ⊆ m) (g0 : Frame m s v0) : Frame m s (assess v0 v1 v2) := by
  unfold assess
  extract_lets -merge -underBinder +onlyGivenNames x0 x1 x2 x3
  obtain ⟨y3, e3, h3⟩ := Frame.name (x := x3) (.ite (frame_selfMismatch (sub hm (by decide)) g0) g0)
  rw [e3]
  extract_lets -merge -underBinder +onlyGivenNames x4 x5
  exact (frame_State_setTile (sub hm (by decide)) h3)

theorem frame_doScanStart {m s v0 v1} (hm : ([.fum, .regs, .evSeq, .out, .dorm, .rings, .irq, .rate, .localQ, .links, .exch, .surf, .scan, .pair, .free, .mir, .mode, .aon, .commits, .inFlight, .dma, .done] : List Part) ⊆ m) (g0 : Frame m s v0) : Frame m s (doScanStart v0 v1) := by
  unfold doScanStart
  extract_lets -merge -underBinder +onlyGivenNames x0
  split
  · exact g0
  · split
    · exact g0
    · refine Frame.ite ?_ ?_
      · exact g0
      · extract_lets -merge -underBinder +onlyGivenNames x1
        obtain ⟨y1, e1, h1⟩ := Frame.name (x := x1) (.ite (frame_doRecordLatch (sub hm (by decide)) g0) g0)
        rw [e1]
        extract_lets -merge -underBinder +onlyGivenNames x2 x3 x4 x5 x6
        split
        rename_i x7 y7_1 e7
        have h7 : Frame m s x7 := Frame.of_1 e7 (by
          clear_value x5
          clear_value x6
          split
          · refine frame_pipePages (sub hm (by decide)) ?_
            exact h1
          · refine Frame.mk1 ?_
            exact h1)
        extract_lets -merge -underBinder +onlyGivenNames x8 x9
        split
        · extract_lets -merge -underBinder +onlyGivenNames x10 x11 x12
          obtain ⟨y12, e12, h12⟩ := Frame.name (x := x12) (frame_State_setTile (sub hm (by decide)) h7)
          rw [e12]
          extract_lets -merge -underBinder +onlyGivenNames x13 x14
          obtain ⟨y14, e14, h14⟩ := Frame.name (x := x14) (.ite (frame_negAge (sub hm (by decide)) h12) h12)
          rw [e14]
          extract_lets -merge -underBinder +onlyGivenNames x15
          obtain ⟨y15, e15, h15⟩ := Frame.name (x := x15) (frame_assess (sub hm (by decide)) h14)
          rw [e15]
          extract_lets -merge -underBinder +onlyGivenNames x16 x17
          obtain ⟨y17, e17, h17⟩ := Frame.name (x := x17) (frame_State_setTile (sub hm (by decide)) h15)
          rw [e17]
          exact (frame_tileChange (sub hm (by decide)) h17)

theorem frame_escalate {m s v0 v1 v2 v3 v4 v5} (hm : ([.fum, .regs, .evSeq, .out, .dorm, .rings, .irq, .rate, .localQ, .links, .exch, .pair, .free, .mir, .mode, .aon, .commits, .inFlight, .dma, .done] : List Part) ⊆ m) (g0 : Frame m s v0) : Frame m s (escalate v0 v1 v2 v3 v4 v5) := by
  unfold escalate
  extract_lets -merge -underBinder +onlyGivenNames x0 x1 x2
  obtain ⟨y2, e2, h2⟩ := Frame.name (x := x2) (frame_State_setTile (sub hm (by decide)) g0)
  rw [e2]
  extract_lets -merge -underBinder +onlyGivenNames x3
  obtain ⟨y3, e3, h3⟩ := Frame.name (x := x3) (frame_assess (sub hm (by decide)) h2)
  rw [e3]
  exact (frame_tileChange (sub hm (by decide)) h3)

theorem frame_raceFault {m s v0 v1 v2 v3 v4 v5 v6 v7} (hm : ([.regs, .rate, .evSeq, .out, .dorm, .rings, .irq, .localQ, .links, .exch, .fum, .pair, .free, .mir, .mode, .aon, .commits, .inFlight, .dma, .done] : List Part) ⊆ m) (g0 : Frame m s v0) : Frame m s (raceFault v0 v1 v2 v3 v4 v5 v6 v7) := by
  unfold raceFault
  extract_lets -merge -underBinder +onlyGivenNames x0
  obtain ⟨y0, e0, h0⟩ := Frame.name (x := x0) (frame_State_bump (sub hm (by decide)) g0)
  rw [e0]
  extract_lets -merge -underBinder +onlyGivenNames x1
  obtain ⟨y1, e1, h1⟩ := Frame.name (x := x1) (frame_State_raiseLimited (sub hm (by decide)) h0)
  rw [e1]
  extract_lets -merge -underBinder +onlyGivenNames x2 x3
  obtain ⟨y3, e3, h3⟩ := Frame.name (x := x3) (frame_State_setTile (sub hm (by decide)) h1)
  rw [e3]
  split
  · extract_lets -merge -underBinder +onlyGivenNames x4
    exact (frame_escalate (sub hm (by decide)) h3)

theorem frame_missAt {m s v0 v1 v2} (hm : ([.fum, .regs, .evSeq, .out, .dorm, .rings, .irq, .rate, .localQ, .links, .exch, .pair, .free, .mir, .mode, .aon, .commits, .inFlight, .dma, .done] : List Part) ⊆ m) (g0 : Frame m s v0) : Frame m s (missAt v0 v1 v2) := by
  unfold missAt
  extract_lets -merge -underBinder +onlyGivenNames x0
  exact (frame_escalate (sub hm (by decide)) (frame_State_setTile (sub hm (by decide)) g0))

theorem frame_raceLine {m s v0 v1 v2 v3} (hm : ([.regs, .evSeq, .out, .dorm, .rings, .irq, .rate, .localQ, .links, .exch, .fum, .pair, .free, .mir, .mode, .aon, .commits, .inFlight, .dma, .done] : List Part) ⊆ m) (g0 : Frame m s v0) : Frame m s (raceLine v0 v1 v2 v3) := by
  unfold raceLine
  extract_lets -merge -underBinder +onlyGivenNames x0 x1
  split
  · refine Frame.ite ?_ ?_
    · exact g0
    · split
      · extract_lets -merge -underBinder +onlyGivenNames x2
        split
        rename_i x3 y3_1 e3
        have h3 : Frame m s x3 := Frame.of_1 e3 (by
          refine frame_pipeCheck (sub hm (by decide)) ?_
          exact g0)
        split
        rename_i x4 y4_1 e4
        have h4 : Frame m s x4 := Frame.of_1 e4 (by
          refine frame_pipePages (sub hm (by decide)) ?_
          exact h3)
        refine Frame.ite ?_ ?_
        · exact (frame_missAt (sub hm (by decide)) h4)
        · extract_lets -merge -underBinder +onlyGivenNames x5 x6
          refine Frame.ite ?_ ?_
          · exact (frame_raceFault (sub hm (by decide)) h4)
          · extract_lets -merge -underBinder +onlyGivenNames x7 x8 x9 x10 x11 x12 x13
            exact (.ite (frame_escalate (sub hm (by decide)) h4) h4)
  · exact g0

theorem frame_underrun {m s v0 v1 v2 v3} (hm : ([.regs, .rate, .evSeq, .out, .dorm, .rings, .irq, .localQ, .links, .exch, .fum, .pair, .free, .mir, .mode, .aon, .commits, .inFlight, .dma, .done] : List Part) ⊆ m) (g0 : Frame m s v0) : Frame m s (underrun v0 v1 v2 v3) := by
  unfold underrun
  extract_lets -merge -underBinder +onlyGivenNames x0 x1
  obtain ⟨y1, e1, h1⟩ := Frame.name (x := x1) (frame_State_bump (sub hm (by decide)) g0)
  rw [e1]
  extract_lets -merge -underBinder +onlyGivenNames x2
  obtain ⟨y2, e2, h2⟩ := Frame.name (x := x2) (frame_State_raiseLimited (sub hm (by decide)) h1)
  rw [e2]
  exact (frame_escalate (sub hm (by decide)) h2)

theorem frame_checkReads {m s v0 v1 v2 v3} (hm : ([.regs, .evSeq, .out, .dorm, .rings, .irq, .rate, .localQ, .links, .exch] : List Part) ⊆ m) (g0 : Frame m s v0) : Frame m s (checkReads v0 v1 v2 v3) := by
  unfold checkReads
  refine Frame.ite ?_ ?_
  · exact g0
  · split
    · exact g0
    · refine Frame.foldl ?_ ?_
      · exact g0
      · intro x0 a0 h0
        refine frame_pipeCheck (sub hm (by decide)) ?_
        exact h0

theorem frame_checkSlateRow {m s v0 v1 v2 v3 v4} (hm : ([.regs, .evSeq, .out, .dorm, .rings, .irq, .rate, .localQ, .links, .exch] : List Part) ⊆ m) (g0 : Frame m s v0) : Frame m s (checkSlateRow v0 v1 v2 v3 v4) := by
  unfold checkSlateRow
  extract_lets -merge -underBinder +onlyGivenNames x0 x1
  refine Frame.ite ?_ ?_
  · refine frame_pipeCheck (sub hm (by decide)) ?_
    exact g0
  · exact g0

theorem frame_checkSlates {m s v0 v1 v2 v3} (hm : ([.regs, .evSeq, .out, .dorm, .rings, .irq, .rate, .localQ, .links, .exch] : List Part) ⊆ m) (g0 : Frame m s v0) : Frame m s (checkSlates v0 v1 v2 v3) := by
  unfold checkSlates
  extract_lets -merge -underBinder +onlyGivenNames x0
  obtain ⟨y0, e0, h0⟩ := Frame.name (m := m) (s := s) (x := x0) (by
    unfold x0
    refine Frame.foldl ?_ ?_
    · exact g0
    · intro x1 a1 h1
      extract_lets -merge -underBinder +onlyGivenNames x2
      exact (.ite (frame_checkSlateRow (sub hm (by decide)) h1) h1))
  rw [e0]
  extract_lets -merge -underBinder +onlyGivenNames x3
  exact (.ite (frame_checkSlateRow (sub hm (by decide)) h0) h0)

theorem frame_crcLine {m s v0 v1 v2 v3 v4 v5} (hm : ([.scan] : List Part) ⊆ m) (g0 : Frame m s v0) : Frame m s (crcLine v0 v1 v2 v3 v4 v5) := by
  unfold crcLine
  refine Frame.foldl ?_ ?_
  · exact g0
  · intro x0 a0 h0
    extract_lets -merge -underBinder +onlyGivenNames x1
    refine Frame.ite ?_ ?_
    · exact h0
    · extract_lets -merge -underBinder +onlyGivenNames x2
      exact (frame_State_setChk (sub hm (by decide)) h0)

theorem frame_pipeLine {m s v0 v1 v2 v3} (hm : ([.regs, .evSeq, .out, .dorm, .rings, .irq, .rate, .localQ, .links, .exch, .fum, .pair, .free, .mir, .mode, .aon, .commits, .inFlight, .dma, .done] : List Part) ⊆ m) (g0 : Frame m s v0) : Frame m s (pipeLine v0 v1 v2 v3).1 := by
  unfold pipeLine
  split
  · extract_lets -merge -underBinder +onlyGivenNames x0 x1
    obtain ⟨y1, e1, h1⟩ := Frame.name (m := m) (s := s) (x := x1) (by
      unfold x1
      refine Frame.foldl ?_ ?_
      · exact g0
      · intro x2 a2 h2
        exact (frame_raceLine (sub hm (by decide)) h2))
    rw [e1]
    extract_lets -merge -underBinder +onlyGivenNames x3 x4
    obtain ⟨y4, e4, h4⟩ := Frame.name (m := m) (s := s) (x := x4) (by
      unfold x4
      refine Frame.foldl ?_ ?_
      · exact h1
      · intro x5 a5 h5
        exact (.ite (frame_underrun (sub hm (by decide)) h5) (frame_checkReads (sub hm (by decide)) h5)))
    rw [e4]
    extract_lets -merge -underBinder +onlyGivenNames x6
    obtain ⟨y6, e6, h6⟩ := Frame.name (x := x6) (frame_checkSlates (sub hm (by decide)) h4)
    rw [e6]
    extract_lets -merge -underBinder +onlyGivenNames x7 x8 x9 x10
    obtain ⟨y10, e10, h10⟩ := Frame.name (m := m) (s := s) (x := x10) (by
      unfold x10
      refine Frame.foldl ?_ ?_
      · exact h6
      · intro x11 a11 h11
        exact (frame_State_setTile (sub hm (by decide)) h11))
    rw [e10]
    refine Frame.mk1 ?_
    exact h10

theorem frame_endActive {m s v0 v1} (hm : ([.surf, .fum, .inFlight, .dma, .done, .mir, .regs, .evSeq, .out, .dorm, .rings, .irq, .rate, .localQ, .links, .exch] : List Part) ⊆ m) (g0 : Frame m s v0) : Frame m s (endActive v0 v1) := by
  unfold endActive
  extract_lets -merge -underBinder +onlyGivenNames x0 x1 x2
  obtain ⟨y2, e2, h2⟩ := Frame.name (x := x2) (Frame.upd g0 (fun p => by cases p; (case surf | fum => exact .inl (hm (by decide))); all_goals first | exact .inr rfl | exact .inr (fun _ _ _ => rfl) | exact .inr ⟨rfl, rfl⟩ | exact .inr ⟨rfl, rfl, rfl⟩ | exact .inr ⟨rfl, rfl, rfl, rfl⟩))
  rw [e2]
  exact (frame_settleReleases (sub hm (by decide)) h2)

theorem frame_tapLine {m s v0 v1 v2 v3} (hm : ([.out, .encs] : List Part) ⊆ m) (g0 : Frame m s v0) : Frame m s (tapLine v0 v1 v2 v3) := by
  unfold tapLine
  extract_lets -merge -underBinder +onlyGivenNames x0
  exact (frame_feedLine (sub hm (by decide)) (frame_State_emit (sub hm (by decide)) g0))

theorem frame_doOutputLine {m s v0 v1 v2 v3 v4} (hm : ([.scan, .regs, .evSeq, .out, .dorm, .rings, .irq, .rate, .localQ, .links, .exch, .fum, .pair, .free, .mir, .mode, .aon, .commits, .inFlight, .dma, .done, .encs, .surf] : List Part) ⊆ m) (g0 : Frame m s v0) : Frame m s (doOutputLine v0 v1 v2 v3 v4) := by
  unfold doOutputLine
  extract_lets -merge -underBinder +onlyGivenNames x0
  split
  · refine Frame.ite ?_ ?_
    · exact g0
    · extract_lets -merge -underBinder +onlyGivenNames x1
      obtain ⟨y1, e1, h1⟩ := Frame.name (x := x1) (frame_State_setTg (sub hm (by decide)) g0)
      rw [e1]
      split
      rename_i x2 y2_1 e2
      have h2 : Frame m s x2 := Frame.of_1 e2 (by
        refine Frame.ite1 ?_ ?_
        · refine Frame.mk1 ?_
          exact h1
        · refine Frame.ite1 ?_ ?_
          · refine Frame.mk1 ?_
            exact h1
          · refine frame_pipeLine (sub hm (by decide)) ?_
            exact h1)
      extract_lets -merge -underBinder +onlyGivenNames x3
      obtain ⟨y3, e3, h3⟩ := Frame.name (x := x3) (.ite (frame_tapLine (sub hm (by decide)) h2) h2)
      rw [e3]
      extract_lets -merge -underBinder +onlyGivenNames x4 x5 x6 x7 x8 x9
      obtain ⟨y9, e9, h9⟩ := Frame.name (x := x9) (frame_crcLine (sub hm (by decide)) h3)
      rw [e9]
      extract_lets -merge -underBinder +onlyGivenNames x10
      obtain ⟨y10, e10, h10⟩ := Frame.name (x := x10) (.ite (frame_State_emit (sub hm (by decide)) h9) h9)
      rw [e10]
      exact (.ite (frame_endActive (sub hm (by decide)) h10) h10)

theorem frame_settleRelq {m s v0} (hm : ([.pair] : List Part) ⊆ m) (g0 : Frame m s v0) : Frame m s (settleRelq v0) := by
  unfold settleRelq
  exact (.ite g0 (frame_State_untrigger (sub hm (by decide)) g0))

theorem frame_applyChk {m s v0 v1} (hm : ([.scan, .pair, .evSeq, .out, .dorm, .rings, .regs, .irq, .rate, .localQ, .links, .exch, .cmp, .inFlight, .dma, .done, .mir] : List Part) ⊆ m) (g0 : Frame m s v0) : Frame m s (applyChk v0 v1) := by
  unfold applyChk
  extract_lets -merge -underBinder +onlyGivenNames x0 x1 x2 x3
  obtain ⟨y3, e3, h3⟩ := Frame.name (x := x3) (frame_State_setChk (sub hm (by decide)) g0)
  rw [e3]
  extract_lets -merge -underBinder +onlyGivenNames x4
  obtain ⟨y4, e4, h4⟩ := Frame.name (x := x4) (frame_settleRelq (sub hm (by decide)) h3)
  rw [e4]
  extract_lets -merge -underBinder +onlyGivenNames x5
  obtain ⟨y5, e5, h5⟩ := Frame.name (x := x5) (frame_chkReport (sub hm (by decide)) h4)
  rw [e5]
  extract_lets -merge -underBinder +onlyGivenNames x6 x7
  obtain ⟨y7, e7, h7⟩ := Frame.name (x := x7) (frame_State_setPipe (sub hm (by decide)) h5)
  rw [e7]
  exact (frame_State_finish (sub hm (by decide)) h7)

theorem frame_doCheckCfg {m s v0 v1} (hm : ([.regs, .evSeq, .out, .dorm, .rings, .irq, .rate, .localQ, .links, .exch, .inFlight, .dma, .done, .mir, .scan, .pair, .cmp] : List Part) ⊆ m) (g0 : Frame m s v0) : Frame m s (doCheckCfg v0 v1) := by
  unfold doCheckCfg
  extract_lets -merge -underBinder +onlyGivenNames x0
  refine frame_runJob (sub hm (by decide)) ?_ ?_
  · exact g0
  · intro x1_0 h1_0
    refine Frame.ite ?_ ?_
    · extract_lets -merge -underBinder +onlyGivenNames x2
      exact (frame_State_setChk (sub hm (by decide)) h1_0)
    · exact (frame_applyChk (sub hm (by decide)) h1_0)

theorem frame_doCheckCfgApply {m s v0 v1} (hm : ([.scan, .pair, .evSeq, .out, .dorm, .rings, .regs, .irq, .rate, .localQ, .links, .exch, .cmp, .inFlight, .dma, .done, .mir] : List Part) ⊆ m) (g0 : Frame m s v0) : Frame m s (doCheckCfgApply v0 v1) := by
  unfold doCheckCfgApply
  extract_lets -merge -underBinder +onlyGivenNames x0
  refine Frame.foldl ?_ ?_
  · exact (frame_State_setChk (sub hm (by decide)) g0)
  · intro x1 a1 h1
    exact (frame_applyChk (sub hm (by decide)) h1)

theorem frame_doCheckResult {m s v0 v1} (hm : ([.scan, .regs, .pair, .evSeq, .out, .dorm, .rings, .irq, .rate, .localQ, .links, .exch, .cmp, .free, .mir, .mode, .aon, .commits, .inFlight, .dma, .done] : List Part) ⊆ m) (g0 : Frame m s v0) : Frame m s (doCheckResult v0 v1) := by
  unfold doCheckResult
  extract_lets -merge -underBinder +onlyGivenNames x0 x1 x2
  refine Frame.ite ?_ ?_
  · exact g0
  · extract_lets -merge -underBinder +onlyGivenNames x3 x4 x5 x6 x7 x8 x9
    obtain ⟨y9, e9, h9⟩ := Frame.name (x := x9) (frame_State_setChk (sub hm (by decide)) g0)
    rw [e9]
    extract_lets -merge -underBinder +onlyGivenNames x10
    obtain ⟨y10, e10, h10⟩ := Frame.name (x := x10) (.ite (frame_State_bump (sub hm (by decide)) h9) (frame_settleRelq (sub hm (by decide)) h9))
    rw [e10]
    extract_lets -merge -underBinder +onlyGivenNames x11
    obtain ⟨y11, e11, h11⟩ := Frame.name (x := x11) (frame_chkReport (sub hm (by decide)) h10)
    rw [e11]
    extract_lets -merge -underBinder +onlyGivenNames x12 x13
    obtain ⟨y13, e13, h13⟩ := Frame.name (x := x13) (.ite (frame_State_setPipe (sub hm (by decide)) h11) h11)
    rw [e13]
    refine Frame.ite ?_ ?_
    · extract_lets -merge -underBinder +onlyGivenNames x14
      obtain ⟨y14, e14, h14⟩ := Frame.name (x := x14) (frame_State_raise (sub hm (by decide)) h13)
      rw [e14]
      exact (frame_State_trigger (sub hm (by decide)) h14)
    · exact h13

end Machine
end Sys2Proof
end

