-- ==== Sys2Proof/Laws/FramesStreams.lean ====
section
/-! SUPPORT. Which parts of the state encoders, host memory copies, touch ports and lanes can change, said once for each operation: a lemma frame_f says that the operation f
changes no part outside the list of its hypothesis. -/

set_option Elab.async false

namespace Sys2Proof
namespace Machine

theorem frame_State_setEnc {m s v0 v1 v2} (hm : ([.encs] : List Part) ⊆ m) (g0 : Frame m s v0) : Frame m s (State.setEnc v0 v1 v2) := by
  unfold State.setEnc
  exact (.encs (hm (by decide)) g0)

theorem frame_doEncOpen {m s v0 v1} (hm : ([.regs, .evSeq, .out, .dorm, .rings, .irq, .rate, .localQ, .links, .exch, .inFlight, .dma, .done, .mir, .encs] : List Part) ⊆ m) (g0 : Frame m s v0) : Frame m s (doEncOpen v0 v1) := by
  unfold doEncOpen
  extract_lets -merge -underBinder +onlyGivenNames x0 x1
  refine frame_runJob (sub hm (by decide)) ?_ ?_
  · exact g0
  · intro x2_0 h2_0
    extract_lets -merge -underBinder +onlyGivenNames x3 x4 x5 x6
    obtain ⟨y6, e6, h6⟩ := Frame.name (m := m) (s := s) (x := x6) (by
      unfold x6
      refine Frame.foldlMem ?_ ?_
      · exact (frame_State_setEnc (sub hm (by decide)) h2_0)
      · intro x7 a7 m7 h7
        exact (frame_State_setReg (sub hm (by decide)) h7 (offSys_encReg _ ((by decide : ∀ a ∈ _, 0x200000 ≤ a) a7 m7))))
    rw [e6]
    exact (frame_State_finish (sub hm (by decide)) h6)

theorem frame_doEncParams {m s v0 v1} (hm : ([.regs, .evSeq, .out, .dorm, .rings, .irq, .rate, .localQ, .links, .exch, .inFlight, .dma, .done, .mir, .encs] : List Part) ⊆ m) (g0 : Frame m s v0) : Frame m s (doEncParams v0 v1) := by
  unfold doEncParams
  extract_lets -merge -underBinder +onlyGivenNames x0
  refine frame_runJob (sub hm (by decide)) ?_ ?_
  · exact g0
  · intro x1_0 h1_0
    exact (frame_State_finish (sub hm (by decide)) (frame_State_setEnc (sub hm (by decide)) h1_0))

theorem frame_bufDone {m s v0 v1 v2} (hm : ([.dma, .inFlight, .done, .mir, .regs, .evSeq, .out, .dorm, .rings, .irq, .rate, .localQ, .links, .exch] : List Part) ⊆ m) (g0 : Frame m s v0) : Frame m s (bufDone v0 v1 v2) := by
  unfold bufDone
  exact (frame_State_finishDma (sub hm (by decide)) g0)

theorem frame_settleEncClose {m s v0 v1} (hm : ([.inFlight, .dma, .done, .mir, .regs, .evSeq, .out, .dorm, .rings, .irq, .rate, .localQ, .links, .exch, .encs] : List Part) ⊆ m) (g0 : Frame m s v0) : Frame m s (settleEncClose v0 v1) := by
  unfold settleEncClose
  extract_lets -merge -underBinder +onlyGivenNames x0
  split
  · refine Frame.ite ?_ ?_
    · extract_lets -merge -underBinder +onlyGivenNames x1
      obtain ⟨y1, e1, h1⟩ := Frame.name (m := m) (s := s) (x := x1) (by
        unfold x1
        refine Frame.foldl ?_ ?_
        · exact g0
        · intro x2 a2 h2
          exact (frame_State_finish (sub hm (by decide)) h2))
      rw [e1]
      exact (frame_State_finish (sub hm (by decide)) (frame_State_setEnc (sub hm (by decide)) h1))
    · exact g0
  · exact g0

theorem frame_doEncClose {m s v0 v1} (hm : ([.regs, .evSeq, .out, .dorm, .rings, .irq, .rate, .localQ, .links, .exch, .inFlight, .dma, .done, .mir, .encs] : List Part) ⊆ m) (g0 : Frame m s v0) : Frame m s (doEncClose v0 v1) := by
  unfold doEncClose
  extract_lets -merge -underBinder +onlyGivenNames x0
  refine frame_runJob (sub hm (by decide)) ?_ ?_
  · exact g0
  · intro x1_0 h1_0
    extract_lets -merge -underBinder +onlyGivenNames x2 x3
    exact (frame_settleEncClose (sub hm (by decide)) (frame_State_setEnc (sub hm (by decide)) h1_0))

theorem frame_doEncOutbuf {m s v0 v1} (hm : ([.regs, .evSeq, .out, .dorm, .rings, .irq, .rate, .localQ, .links, .exch, .inFlight, .dma, .done, .mir, .encs] : List Part) ⊆ m) (g0 : Frame m s v0) : Frame m s (doEncOutbuf v0 v1) := by
  unfold doEncOutbuf
  extract_lets -merge -underBinder +onlyGivenNames x0
  refine frame_runJob (sub hm (by decide)) ?_ ?_
  · exact g0
  · intro x1_0 h1_0
    exact (frame_State_setEnc (sub hm (by decide)) h1_0)

theorem frame_encDrop {m s v0 v1 v2 v3} (hm : ([.regs, .rate, .evSeq, .out, .dorm, .rings, .irq, .localQ, .links, .exch] : List Part) ⊆ m) (g0 : Frame m s v0) (hb : 0x200000 ≤ v3 := by decide) : Frame m s (encDrop v0 v1 v2 v3) := by
  unfold encDrop
  extract_lets -merge -underBinder +onlyGivenNames x0
  obtain ⟨y0, e0, h0⟩ := Frame.name (x := x0) (frame_State_bump (sub hm (by decide)) g0 (offSys_encReg _ hb))
  rw [e0]
  exact (frame_State_raiseLimited (sub hm (by decide)) h0)

theorem frame_encKeepEvent {m s v0 v1 v2} (hm : ([.evSeq, .out, .dorm, .rings, .regs, .irq, .rate, .localQ, .links, .exch] : List Part) ⊆ m) (g0 : Frame m s v0) : Frame m s (encKeepEvent v0 v1 v2) := by
  unfold encKeepEvent
  exact (frame_State_raise (sub hm (by decide)) g0)

theorem frame_startQp {m s v0 v1} (hm : ([.free] : List Part) ⊆ m) (g0 : Frame m s v0) : Frame m s (startQp v0 v1).2 := by
  unfold startQp
  split
  rename_i y0_0 x0 e0
  have h0 : Frame m s x0 := Frame.of_2 e0 (by
    refine frame_State_fresh (sub hm (by decide)) ?_
    exact g0)
  refine Frame.ite2 ?_ ?_
  · refine Frame.mk2 ?_
    exact h0
  · split
    · refine Frame.mk2 ?_
      exact h0
    · refine Frame.mk2 ?_
      exact h0

theorem frame_beginPicture {m s v0 v1 v2 v3 v4} (hm : ([.free, .encs] : List Part) ⊆ m) (g0 : Frame m s v0) : Frame m s (beginPicture v0 v1 v2 v3 v4) := by
  unfold beginPicture
  extract_lets -merge -underBinder +onlyGivenNames x0 x1
  split
  rename_i y2_0 x2 e2
  have h2 : Frame m s x2 := Frame.of_2 e2 (by
    refine frame_startQp (sub hm (by decide)) ?_
    exact g0)
  split
  rename_i y3_0 x3 e3
  have h3 : Frame m s x3 := Frame.of_2 e3 (by
    refine frame_State_fresh (sub hm (by decide)) ?_
    exact h2)
  split
  rename_i y4_0 x4 e4
  have h4 : Frame m s x4 := Frame.of_2 e4 (by
    refine frame_State_fresh (sub hm (by decide)) ?_
    exact h3)
  extract_lets -merge -underBinder +onlyGivenNames x5 x6 x7 x8 x9
  exact (frame_State_setEnc (sub hm (by decide)) h4)

theorem frame_setAtBound {m s v0 v1 v2 v3 v4} (hm : ([.encs, .evSeq, .out, .dorm, .rings, .regs, .irq, .rate, .localQ, .links, .exch] : List Part) ⊆ m) (g0 : Frame m s v0) : Frame m s (setAtBound v0 v1 v2 v3 v4) := by
  unfold setAtBound
  extract_lets -merge -underBinder +onlyGivenNames x0 x1 x2
  obtain ⟨y2, e2, h2⟩ := Frame.name (x := x2) (frame_State_setEnc (sub hm (by decide)) g0)
  rw [e2]
  exact (.ite (frame_State_raise (sub hm (by decide)) h2) h2)

theorem frame_endEncPicture {m s v0 v1 v2} (hm : ([.encs, .regs, .rate, .evSeq, .out, .dorm, .rings, .irq, .localQ, .links, .exch] : List Part) ⊆ m) (g0 : Frame m s v0) : Frame m s (endEncPicture v0 v1 v2) := by
  unfold endEncPicture
  extract_lets -merge -underBinder +onlyGivenNames x0 x1 x2 x3
  obtain ⟨y3, e3, h3⟩ := Frame.name (x := x3) (frame_State_setEnc (sub hm (by decide)) g0)
  rw [e3]
  extract_lets -merge -underBinder +onlyGivenNames x4
  obtain ⟨y4, e4, h4⟩ := Frame.name (x := x4) (frame_State_setReg (sub hm (by decide)) h3)
  rw [e4]
  extract_lets -merge -underBinder +onlyGivenNames x5
  obtain ⟨y5, e5, h5⟩ := Frame.name (x := x5) (frame_State_setReg (sub hm (by decide)) h4)
  rw [e5]
  extract_lets -merge -underBinder +onlyGivenNames x6
  obtain ⟨y6, e6, h6⟩ := Frame.name (x := x6) (frame_State_setReg (sub hm (by decide)) h5)
  rw [e6]
  exact (.ite (frame_State_raiseLimited (sub hm (by decide)) h6) h6)

theorem frame_emitSlice {m s v0 v1 v2 v3 v4 v5 v6} (hm : ([.encs, .regs, .rate, .evSeq, .out, .dorm, .rings, .irq, .localQ, .links, .exch] : List Part) ⊆ m) (g0 : Frame m s v0) : Frame m s (emitSlice v0 v1 v2 v3 v4 v5 v6) := by
  unfold emitSlice
  extract_lets -merge -underBinder +onlyGivenNames x0 x1 x2 x3 x4 x5 x6 x7 x8 x9 x10 x11 x12 x13 x14
  obtain ⟨y14, e14, h14⟩ := Frame.name (x := x14) (frame_State_setEnc (sub hm (by decide)) g0)
  rw [e14]
  extract_lets -merge -underBinder +onlyGivenNames x15
  obtain ⟨y15, e15, h15⟩ := Frame.name (x := x15) (.ite (frame_State_bump (sub hm (by decide)) h14) h14)
  rw [e15]
  exact (.ite (frame_endEncPicture (sub hm (by decide)) h15) h15)

theorem frame_holdSlice {m s v0 v1 v2 v3} (hm : ([.encs, .regs, .rate, .evSeq, .out, .dorm, .rings, .irq, .localQ, .links, .exch] : List Part) ⊆ m) (g0 : Frame m s v0) : Frame m s (holdSlice v0 v1 v2 v3) := by
  unfold holdSlice
  extract_lets -merge -underBinder +onlyGivenNames x0
  obtain ⟨y0, e0, h0⟩ := Frame.name (x := x0) (frame_emitSlice (sub hm (by decide)) g0)
  rw [e0]
  exact (frame_setAtBound (sub hm (by decide)) h0)

theorem frame_codeSlice {m s v0 v1 v2 v3} (hm : ([.free, .encs, .regs, .rate, .evSeq, .out, .dorm, .rings, .irq, .localQ, .links, .exch] : List Part) ⊆ m) (g0 : Frame m s v0) : Frame m s (codeSlice v0 v1 v2 v3) := by
  unfold codeSlice
  extract_lets -merge -underBinder +onlyGivenNames x0
  split
  rename_i y1_0 x1 e1
  have h1 : Frame m s x1 := Frame.of_2 e1 (by
    refine frame_State_fresh (sub hm (by decide)) ?_
    exact g0)
  split
  rename_i y2_0 x2 e2
  have h2 : Frame m s x2 := Frame.of_2 e2 (by
    refine frame_State_fresh (sub hm (by decide)) ?_
    exact h1)
  extract_lets -merge -underBinder +onlyGivenNames x3 x4 x5 x6 x7 x8 x9 x10
  refine Frame.ite ?_ ?_
  · exact (frame_holdSlice (sub hm (by decide)) h2)
  · extract_lets -merge -underBinder +onlyGivenNames x11 x12
    refine Frame.ite ?_ ?_
    · exact (frame_holdSlice (sub hm (by decide)) h2)
    · extract_lets -merge -underBinder +onlyGivenNames x13
      obtain ⟨y13, e13, h13⟩ := Frame.name (x := x13) (frame_emitSlice (sub hm (by decide)) h2)
      rw [e13]
      exact (frame_setAtBound (sub hm (by decide)) h13)

theorem frame_doSliceCoding {m s v0 v1 v2} (hm : ([.free, .encs, .regs, .rate, .evSeq, .out, .dorm, .rings, .irq, .localQ, .links, .exch, .inFlight, .dma, .done, .mir] : List Part) ⊆ m) (g0 : Frame m s v0) : Frame m s (doSliceCoding v0 v1 v2) := by
  unfold doSliceCoding
  split
  · exact g0
  · exact (.ite g0 (frame_settleEncClose (sub hm (by decide)) (frame_codeSlice (sub hm (by decide)) g0)))

theorem frame_holdRest {m s v0 v1 v2} (hm : ([.free, .encs, .regs, .rate, .evSeq, .out, .dorm, .rings, .irq, .localQ, .links, .exch] : List Part) ⊆ m) (g1 : Frame m s v1) : Frame m s (holdRest v0 v1 v2) := by
  induction v0 generalizing v1 v2 with
  | zero =>
    rw [holdRest]
    exact g1
  | succ v ih =>
    rw [holdRest]
    split
    · exact g1
    · split
      rename_i y0_0 x0 e0
      have h0 : Frame m s x0 := Frame.of_2 e0 (by
        refine frame_State_fresh (sub hm (by decide)) ?_
        exact g1)
      exact (ih (frame_holdSlice (sub hm (by decide)) h0))

theorem frame_finishEncPicture {m s v0 v1} (hm : ([.free, .encs, .regs, .rate, .evSeq, .out, .dorm, .rings, .irq, .localQ, .links, .exch] : List Part) ⊆ m) (g0 : Frame m s v0) : Frame m s (finishEncPicture v0 v1) := by
  unfold finishEncPicture
  split
  · exact (frame_holdRest (sub hm (by decide)) g0)
  · exact g0

theorem frame_doEncStart {m s v0 v1} (hm : ([.encs, .evSeq, .out, .dorm, .rings, .regs, .irq, .rate, .localQ, .links, .exch, .free] : List Part) ⊆ m) (g0 : Frame m s v0) : Frame m s (doEncStart v0 v1) := by
  unfold doEncStart
  extract_lets -merge -underBinder +onlyGivenNames x0
  refine Frame.ite ?_ ?_
  · exact g0
  · extract_lets -merge -underBinder +onlyGivenNames x1 x2
    obtain ⟨y2, e2, h2⟩ := Frame.name (x := x2) (frame_State_setEnc (sub hm (by decide)) g0)
    rw [e2]
    extract_lets -merge -underBinder +onlyGivenNames x3
    obtain ⟨y3, e3, h3⟩ := Frame.name (x := x3) (.ite (.ite (frame_encKeepEvent (sub hm (by decide)) h2) h2) g0)
    rw [e3]
    extract_lets -merge -underBinder +onlyGivenNames x4 x5
    obtain ⟨y5, e5, h5⟩ := Frame.name (x := x5) (frame_State_setEnc (sub hm (by decide)) h3)
    rw [e5]
    refine Frame.ite ?_ ?_
    · exact h5
    · extract_lets -merge -underBinder +onlyGivenNames x6 x7
      refine Frame.ite ?_ ?_
      · exact (frame_encDrop (sub hm (by decide)) h5)
      · extract_lets -merge -underBinder +onlyGivenNames x8
        obtain ⟨y8, e8, h8⟩ := Frame.name (x := x8) (frame_finishEncPicture (sub hm (by decide)) h5)
        rw [e8]
        extract_lets -merge -underBinder +onlyGivenNames x9 x10
        obtain ⟨y10, e10, h10⟩ := Frame.name (x := x10) (frame_State_setEnc (sub hm (by decide)) h8)
        rw [e10]
        extract_lets -merge -underBinder +onlyGivenNames x11 x12
        exact (frame_beginPicture (sub hm (by decide)) h10)

theorem frame_doKeepalive {m s v0 v1} (hm : ([.free, .encs, .regs, .rate, .evSeq, .out, .dorm, .rings, .irq, .localQ, .links, .exch] : List Part) ⊆ m) (g0 : Frame m s v0) : Frame m s (doKeepalive v0 v1) := by
  unfold doKeepalive
  extract_lets -merge -underBinder +onlyGivenNames x0
  refine Frame.ite ?_ ?_
  · exact g0
  · extract_lets -merge -underBinder +onlyGivenNames x1
    obtain ⟨y1, e1, h1⟩ := Frame.name (x := x1) (frame_finishEncPicture (sub hm (by decide)) g0)
    rw [e1]
    extract_lets -merge -underBinder +onlyGivenNames x2 x3
    obtain ⟨y3, e3, h3⟩ := Frame.name (x := x3) (.ite h1 (frame_encKeepEvent (sub hm (by decide)) (frame_State_setEnc (sub hm (by decide)) h1)))
    rw [e3]
    extract_lets -merge -underBinder +onlyGivenNames x4
    exact (frame_finishEncPicture (sub hm (by decide)) (frame_beginPicture (sub hm (by decide)) h3))

theorem frame_doKeepExpiry {m s v0 v1} (hm : ([.encs, .evSeq, .out, .dorm, .rings, .regs, .irq, .rate, .localQ, .links, .exch] : List Part) ⊆ m) (g0 : Frame m s v0) : Frame m s (doKeepExpiry v0 v1) := by
  unfold doKeepExpiry
  extract_lets -merge -underBinder +onlyGivenNames x0
  exact (.ite (frame_encKeepEvent (sub hm (by decide)) (frame_State_setEnc (sub hm (by decide)) g0)) g0)

theorem frame_setEngQueued {m s v0 v1 v2} (hm : ([.encs] : List Part) ⊆ m) (g0 : Frame m s v0) : Frame m s (setEngQueued v0 v1 v2) := by
  unfold setEngQueued
  exact (.encs (hm (by decide)) g0)

theorem frame_sliceFabric {m s v0 v1 v2 v3} (hm : ([.encs, .free, .regs, .rate, .evSeq, .out, .dorm, .rings, .irq, .localQ, .links, .exch] : List Part) ⊆ m) (g0 : Frame m s v0) : Frame m s (sliceFabric v0 v1 v2 v3) := by
  unfold sliceFabric
  extract_lets -merge -underBinder +onlyGivenNames x0 x1 x2 x3
  obtain ⟨y3, e3, h3⟩ := Frame.name (x := x3) (frame_State_setEnc (sub hm (by decide)) g0)
  rw [e3]
  split
  rename_i y4_0 x4 e4
  have h4 : Frame m s x4 := Frame.of_2 e4 (by
    refine frame_State_fresh (sub hm (by decide)) ?_
    exact h3)
  extract_lets -merge -underBinder +onlyGivenNames x5
  refine Frame.ite ?_ ?_
  · exact (frame_encDrop (sub hm (by decide)) (frame_setEngQueued (sub hm (by decide)) h4))
  · refine Frame.foldl ?_ ?_
    · exact (frame_setEngQueued (sub hm (by decide)) h4)
    · intro x6 a6 h6
      exact (frame_State_routePkt (sub hm (by decide)) h6)

theorem frame_putRecord {m s v0 v1 v2 v3} (hm : ([.evSeq, .out, .dorm, .rings, .regs, .irq, .rate, .localQ, .links, .exch, .mgmt, .encs, .dma, .inFlight, .done, .mir] : List Part) ⊆ m) (g1 : Frame m s v1) : Frame m s (putRecord v0 v1 v2 v3) := by
  induction v0 generalizing v1 v2 v3 with
  | zero =>
    rw [putRecord]
    exact g1
  | succ v ih =>
    rw [putRecord]
    split
    · exact g1
    · extract_lets -merge -underBinder +onlyGivenNames x0 x1
      split
      rename_i x2 y2_1 e2
      have h2 : Frame m s x2 := Frame.of_1 e2 (by
        refine Frame.ite1 ?_ ?_
        · refine Frame.mk1 ?_
          exact g1
        · refine frame_hostWriteUnder (sub hm (by decide)) ?_
          exact g1)
      extract_lets -merge -underBinder +onlyGivenNames x3
      exact (.ite (frame_bufDone (sub hm (by decide)) (frame_State_setEnc (sub hm (by decide)) h2)) (.ite (ih (frame_bufDone (sub hm (by decide)) (frame_State_setEnc (sub hm (by decide)) h2))) (frame_State_setEnc (sub hm (by decide)) h2)))

theorem frame_sliceHost {m s v0 v1 v2 v3} (hm : ([.encs, .regs, .rate, .evSeq, .out, .dorm, .rings, .irq, .localQ, .links, .exch, .mgmt, .dma, .inFlight, .done, .mir] : List Part) ⊆ m) (g0 : Frame m s v0) : Frame m s (sliceHost v0 v1 v2 v3) := by
  unfold sliceHost
  extract_lets -merge -underBinder +onlyGivenNames x0 x1 x2 x3
  obtain ⟨y3, e3, h3⟩ := Frame.name (x := x3) (.ite (frame_encDrop (sub hm (by decide)) (frame_State_setEnc (sub hm (by decide)) g0)) (frame_putRecord (sub hm (by decide)) (frame_State_setEnc (sub hm (by decide)) g0)))
  rw [e3]
  split
  · extract_lets -merge -underBinder +onlyGivenNames x4
    exact (.ite (frame_bufDone (sub hm (by decide)) (frame_State_setEnc (sub hm (by decide)) h3)) h3)
  · exact h3

theorem frame_doSliceReady {m s v0 v1 v2 v3} (hm : ([.encs, .free, .regs, .rate, .evSeq, .out, .dorm, .rings, .irq, .localQ, .links, .exch, .mgmt, .dma, .inFlight, .done, .mir] : List Part) ⊆ m) (g0 : Frame m s v0) : Frame m s (doSliceReady v0 v1 v2 v3) := by
  unfold doSliceReady
  extract_lets -merge -underBinder +onlyGivenNames x0
  split
  · exact g0
  · extract_lets -merge -underBinder +onlyGivenNames x1 x2
    obtain ⟨y2, e2, h2⟩ := Frame.name (x := x2) (frame_State_setEnc (sub hm (by decide)) g0)
    rw [e2]
    extract_lets -merge -underBinder +onlyGivenNames x3
    obtain ⟨y3, e3, h3⟩ := Frame.name (x := x3) (.ite (frame_sliceFabric (sub hm (by decide)) h2) h2)
    rw [e3]
    extract_lets -merge -underBinder +onlyGivenNames x4
    obtain ⟨y4, e4, h4⟩ := Frame.name (x := x4) (.ite (frame_sliceHost (sub hm (by decide)) h3) h3)
    rw [e4]
    exact (frame_settleEncClose (sub hm (by decide)) h4)

theorem frame_fumRead {m s v0 v1 v2 v3} (hm : ([.regs, .evSeq, .out, .dorm, .rings, .irq, .rate, .localQ, .links, .exch, .dram] : List Part) ⊆ m) (g0 : Frame m s v0) : Frame m s (fumRead v0 v1 v2 v3).2 := by
  unfold fumRead
  refine Frame.ite2 ?_ ?_
  · split
    rename_i y0_0 x0 y0_2 e0
    have h0 : Frame m s x0 := Frame.of_2_1 e0 (by
      refine frame_State_memRd (sub hm (by decide)) ?_
      exact g0)
    refine Frame.mk2 ?_
    exact h0
  · refine Frame.mk2 ?_
    exact g0

theorem frame_hostFence {m s v0 v1 v2} (hm : ([.regs, .evSeq, .out, .dorm, .rings, .irq, .rate, .localQ, .links, .exch, .dram, .surf, .fum] : List Part) ⊆ m) (g0 : Frame m s v0) : Frame m s (hostFence v0 v1 v2) := by
  unfold hostFence
  split
  rename_i y0_0 x0 e0
  have h0 : Frame m s x0 := Frame.of_2 e0 (by
    refine frame_fumRead (sub hm (by decide)) ?_
    exact g0)
  extract_lets -merge -underBinder +onlyGivenNames x1 x2 x3 x4 x5
  split
  rename_i y6_0 x6 e6
  have h6 : Frame m s x6 := Frame.of_2 e6 (by
    refine frame_fumRead (sub hm (by decide)) ?_
    exact h0)
  extract_lets -merge -underBinder +onlyGivenNames x7
  obtain ⟨y7, e7, h7⟩ := Frame.name (x := x7) (.ite (frame_tableStart (sub hm (by decide)) h6) h6)
  rw [e7]
  extract_lets -merge -underBinder +onlyGivenNames x8
  refine Frame.ite ?_ ?_
  · exact h7
  · extract_lets -merge -underBinder +onlyGivenNames x9 x10
    refine Frame.foldl ?_ ?_
    · exact h7
    · intro x11 a11 h11
      extract_lets -merge -underBinder +onlyGivenNames x12
      split
      rename_i y13_0 x13 e13
      have h13 : Frame m s x13 := Frame.of_2 e13 (by
        refine frame_fumRead (sub hm (by decide)) ?_
        exact h11)
      extract_lets -merge -underBinder +onlyGivenNames x14 x15 x16 x17 x18
      exact (frame_tableBand (sub hm (by decide)) h13)

theorem frame_hostPublish {m s v0 v1 v2} (hm : ([.regs, .evSeq, .out, .dorm, .rings, .irq, .rate, .localQ, .links, .exch, .dram, .surf, .fum] : List Part) ⊆ m) (g0 : Frame m s v0) : Frame m s (hostPublish v0 v1 v2) := by
  unfold hostPublish
  refine Frame.foldl ?_ ?_
  · exact g0
  · intro x0 a0 h0
    exact (frame_hostFence (sub hm (by decide)) h0)

theorem frame_memCopyIn {m s v0 v1 v2} (hm : ([.regs, .evSeq, .out, .dorm, .rings, .irq, .rate, .localQ, .links, .exch, .mem, .dram, .surf, .fum, .inFlight, .dma, .done, .mir] : List Part) ⊆ m) (g0 : Frame m s v0) : Frame m s (memCopyIn v0 v1 v2) := by
  unfold memCopyIn
  extract_lets -merge -underBinder +onlyGivenNames x0 x1
  split
  rename_i x2 y2_1 e2
  have h2 : Frame m s x2 := Frame.of_1 e2 (by
    refine frame_State_memWrTill (sub hm (by decide)) ?_
    exact g0)
  exact (.ite (frame_State_finish (sub hm (by decide)) (frame_hostPublish (sub hm (by decide)) h2)) (frame_State_finish (sub hm (by decide)) h2))

theorem frame_doMemWrite {m s v0 v1 v2} (hm : ([.regs, .evSeq, .out, .dorm, .rings, .irq, .rate, .localQ, .links, .exch, .inFlight, .dma, .done, .mir, .mem, .dram, .surf, .fum, .mgmt] : List Part) ⊆ m) (g0 : Frame m s v0) : Frame m s (doMemWrite v0 v1 v2) := by
  unfold doMemWrite
  extract_lets -merge -underBinder +onlyGivenNames x0
  refine frame_runJob (sub hm (by decide)) ?_ ?_
  · exact g0
  · intro x1_0 h1_0
    refine Frame.ite ?_ ?_
    · refine frame_State_hostFetch (sub hm (by decide)) ?_ ?_
      · exact h1_0
      · intro x2_0 a2_1 h2_0
        exact (frame_memCopyIn (sub hm (by decide)) h2_0)
    · exact (frame_memCopyIn (sub hm (by decide)) h1_0)

theorem frame_doMemRead {m s v0 v1} (hm : ([.regs, .evSeq, .out, .dorm, .rings, .irq, .rate, .localQ, .links, .exch, .inFlight, .dma, .done, .mir, .dram, .mgmt] : List Part) ⊆ m) (g0 : Frame m s v0) : Frame m s (doMemRead v0 v1) := by
  unfold doMemRead
  extract_lets -merge -underBinder +onlyGivenNames x0
  refine frame_runJob (sub hm (by decide)) ?_ ?_
  · exact g0
  · intro x1_0 h1_0
    split
    rename_i y2_0 x2 y2_2 e2
    have h2 : Frame m s x2 := Frame.of_2_1 e2 (by
      refine frame_State_memRd (sub hm (by decide)) ?_
      exact h1_0)
    exact (.ite (frame_State_finishDma (sub hm (by decide)) (frame_State_hostWriteFor (sub hm (by decide)) h2)) (frame_State_finish (sub hm (by decide)) h2))

theorem frame_State_setTch {m s v0 v1 v2} (hm : ([.touch] : List Part) ⊆ m) (g0 : Frame m s v0) : Frame m s (State.setTch v0 v1 v2) := by
  unfold State.setTch
  exact (.touch (hm (by decide)) g0)

theorem frame_doTouchMap {m s v0 v1} (hm : ([.regs, .evSeq, .out, .dorm, .rings, .irq, .rate, .localQ, .links, .exch, .inFlight, .dma, .done, .mir, .touch] : List Part) ⊆ m) (g0 : Frame m s v0) : Frame m s (doTouchMap v0 v1) := by
  unfold doTouchMap
  extract_lets -merge -underBinder +onlyGivenNames x0 x1 x2
  refine frame_runJob (sub hm (by decide)) ?_ ?_
  · exact g0
  · intro x3_0 h3_0
    exact (frame_State_finish (sub hm (by decide)) (frame_State_setTch (sub hm (by decide)) h3_0))

theorem frame_setPanel {m s v0 v1 v2} (hm : ([.aon] : List Part) ⊆ m) (g0 : Frame m s v0) : Frame m s (setPanel v0 v1 v2) := by
  unfold setPanel
  extract_lets -merge -underBinder +onlyGivenNames x0
  exact (.aon (hm (by decide)) g0)

theorem frame_panelLoad {m s v0 v1 v2} (hm : ([.aon, .inFlight, .dma, .done, .mir, .regs, .evSeq, .out, .dorm, .rings, .irq, .rate, .localQ, .links, .exch] : List Part) ⊆ m) (g0 : Frame m s v0) : Frame m s (panelLoad v0 v1 v2) := by
  unfold panelLoad
  extract_lets -merge -underBinder +onlyGivenNames x0
  exact (.ite (frame_State_finish (sub hm (by decide)) (frame_setPanel (sub hm (by decide)) g0)) (frame_State_finish (sub hm (by decide)) g0))

theorem frame_doTouchRef {m s v0 v1 v2} (hm : ([.regs, .evSeq, .out, .dorm, .rings, .irq, .rate, .localQ, .links, .exch, .inFlight, .dma, .done, .mir, .aon, .mgmt] : List Part) ⊆ m) (g0 : Frame m s v0) : Frame m s (doTouchRef v0 v1 v2) := by
  unfold doTouchRef
  extract_lets -merge -underBinder +onlyGivenNames x0 x1 x2 x3
  refine frame_runJob (sub hm (by decide)) ?_ ?_
  · exact g0
  · intro x4_0 h4_0
    refine Frame.ite ?_ ?_
    · exact (frame_State_finish (sub hm (by decide)) (frame_setPanel (sub hm (by decide)) h4_0))
    · refine frame_State_hostFetch (sub hm (by decide)) ?_ ?_
      · exact h4_0
      · intro x5_0 a5_1 h5_0
        exact (frame_panelLoad (sub hm (by decide)) h5_0)

theorem frame_mapContact {m s v0 v1 v2 v3 v4} (hm : ([.free] : List Part) ⊆ m) (g0 : Frame m s v0) : Frame m s (mapContact v0 v1 v2 v3 v4).2 := by
  unfold mapContact
  split
  rename_i y0_0 x0 e0
  have h0 : Frame m s x0 := Frame.of_2 e0 (by
    refine frame_State_fresh (sub hm (by decide)) ?_
    exact g0)
  extract_lets -merge -underBinder +onlyGivenNames x1
  refine Frame.ite2 ?_ ?_
  · refine Frame.mk2 ?_
    exact h0
  · split
    · refine Frame.mk2 ?_
      exact h0
    · extract_lets -merge -underBinder +onlyGivenNames x2 x3
      split
      · extract_lets -merge -underBinder +onlyGivenNames x4
        refine Frame.ite2 ?_ ?_
        · refine Frame.mk2 ?_
          exact h0
        · split
          · split
            · refine Frame.mk2 ?_
              exact h0
            · extract_lets -merge -underBinder +onlyGivenNames x5 x6 x7
              split
              · refine Frame.mk2 ?_
                exact h0

theorem frame_touchReport {m s v0 v1 v2 v3 v4 v5 v6 v7} (hm : ([.evSeq, .out, .dorm, .rings, .regs, .irq, .rate, .localQ, .links, .exch] : List Part) ⊆ m) (g0 : Frame m s v0) : Frame m s (touchReport v0 v1 v2 v3 v4 v5 v6 v7) := by
  unfold touchReport
  exact (frame_State_raise (sub hm (by decide)) g0)

theorem frame_reportUp {m s v0 v1 v2 v3 v4 v5} (hm : ([.free, .evSeq, .out, .dorm, .rings, .regs, .irq, .rate, .localQ, .links, .exch] : List Part) ⊆ m) (g0 : Frame m s v0) : Frame m s (reportUp v0 v1 v2 v3 v4 v5) := by
  unfold reportUp
  split
  rename_i y0_0 x0 e0
  have h0 : Frame m s x0 := Frame.of_2 e0 (by
    refine frame_mapContact (sub hm (by decide)) ?_
    exact g0)
  split
  rename_i y1_0 x1 e1
  have h1 : Frame m s x1 := Frame.of_2 e1 (by
    refine frame_State_fresh (sub hm (by decide)) ?_
    exact h0)
  exact (frame_touchReport (sub hm (by decide)) h1)

theorem frame_touchStart {m s v0 v1} (hm : ([.touch] : List Part) ⊆ m) (g0 : Frame m s v0) : Frame m s (touchStart v0 v1) := by
  unfold touchStart
  exact (frame_State_setTch (sub hm (by decide)) g0)

theorem frame_touchHalt {m s v0 v1} (hm : ([.touch, .ready, .evSeq, .out, .dorm, .rings, .regs, .irq, .rate, .localQ, .links, .exch] : List Part) ⊆ m) (g0 : Frame m s v0) : Frame m s (touchHalt v0 v1) := by
  unfold touchHalt
  exact (frame_State_setReady (sub hm (by decide)) (frame_State_setTch (sub hm (by decide)) g0))

theorem frame_touchStop {m s v0 v1 v2} (hm : ([.touch, .ready, .evSeq, .out, .dorm, .rings, .regs, .irq, .rate, .localQ, .links, .exch, .free] : List Part) ⊆ m) (g0 : Frame m s v0) : Frame m s (touchStop v0 v1 v2) := by
  unfold touchStop
  refine frame_touchHalt (sub hm (by decide)) ?_
  refine Frame.foldl ?_ ?_
  · exact g0
  · intro x0 a0 h0
    exact (frame_reportUp (sub hm (by decide)) h0)

theorem frame_touchEnd {m s v0 v1} (hm : ([.touch] : List Part) ⊆ m) (g0 : Frame m s v0) : Frame m s (touchEnd v0 v1) := by
  unfold touchEnd
  exact (.ite (frame_State_setTch (sub hm (by decide)) g0) g0)

theorem frame_touchCtrl {m s v0 v1 v2} (hm : ([.regs, .touch, .ready, .evSeq, .out, .dorm, .rings, .irq, .rate, .localQ, .links, .exch, .free] : List Part) ⊆ m) (g0 : Frame m s v0) : Frame m s (touchCtrl v0 v1 v2) := by
  unfold touchCtrl
  extract_lets -merge -underBinder +onlyGivenNames x0 x1
  obtain ⟨y1, e1, h1⟩ := Frame.name (x := x1) (frame_State_setReg (sub hm (by decide)) g0)
  rw [e1]
  exact (.ite h1 (.ite (frame_touchStart (sub hm (by decide)) (.ite (frame_touchStop (sub hm (by decide)) h1) h1)) (frame_touchEnd (sub hm (by decide)) h1)))

theorem frame_testEvents {m s v0 v1 v2 v3 v4} (hm : ([.evSeq, .out, .dorm, .rings, .regs, .irq, .rate, .localQ, .links, .exch] : List Part) ⊆ m) (g0 : Frame m s v0) : Frame m s (testEvents v0 v1 v2 v3 v4) := by
  unfold testEvents
  refine Frame.foldl ?_ ?_
  · exact g0
  · intro x0 a0 h0
    split
    exact (.ite h0 (frame_State_raise (sub hm (by decide)) h0))

theorem frame_doScanCycle {m s v0 v1 v2 v3 v4} (hm : ([.touch, .ready, .evSeq, .out, .dorm, .rings, .regs, .irq, .rate, .localQ, .links, .exch, .free] : List Part) ⊆ m) (g0 : Frame m s v0) : Frame m s (doScanCycle v0 v1 v2 v3 v4) := by
  unfold doScanCycle
  extract_lets -merge -underBinder +onlyGivenNames x0 x1
  refine Frame.ite ?_ ?_
  · exact g0
  · refine Frame.ite ?_ ?_
    · exact (frame_touchStop (sub hm (by decide)) g0)
    · extract_lets -merge -underBinder +onlyGivenNames x2 x3 x4 x5 x6 x7 x8 x9 x10 x11 x12
      split
      · extract_lets -merge -underBinder +onlyGivenNames x13 x14
        obtain ⟨y14, e14, h14⟩ := Frame.name (x := x14) (frame_State_setTch (sub hm (by decide)) g0)
        rw [e14]
        extract_lets -merge -underBinder +onlyGivenNames x15 x16 x17 x18 x19 x20 x21 x22 x23 x24
        obtain ⟨y24, e24, h24⟩ := Frame.name (x := x24) (frame_State_bumpBy (sub hm (by decide)) h14)
        rw [e24]
        extract_lets -merge -underBinder +onlyGivenNames x25 x26 x27 x28 x29 x30 x31
        obtain ⟨y31, e31, h31⟩ := Frame.name (x := x31) (frame_State_bumpBy (sub hm (by decide)) h24)
        rw [e31]
        extract_lets -merge -underBinder +onlyGivenNames x32 x33 x34 x35 x36 x37 x38 x39 x40 x41
        obtain ⟨y41, e41, h41⟩ := Frame.name (m := m) (s := s) (x := x41) (by
          unfold x41
          refine Frame.foldl ?_ ?_
          · exact h31
          · intro x42 a42 h42
            extract_lets -merge -underBinder +onlyGivenNames x43
            obtain ⟨y43, e43, h43⟩ := Frame.name (m := m) (s := s) (x := x43) (by
              unfold x43
              split
              · extract_lets -merge -underBinder +onlyGivenNames x44 x45
                obtain ⟨y45, e45, h45⟩ := Frame.name (x := x45) (.ite h42 (frame_reportUp (sub hm (by decide)) h42))
                rw [e45]
                exact (frame_State_setTch (sub hm (by decide)) h45)
              · exact h42)
            rw [e43]
            extract_lets -merge -underBinder +onlyGivenNames x46
            obtain ⟨y46, e46, h46⟩ := Frame.name (m := m) (s := s) (x := x46) (by
              unfold x46
              split
              · extract_lets -merge -underBinder +onlyGivenNames x47
                split
                rename_i y48_0 x48 e48
                have h48 : Frame m s x48 := Frame.of_2 e48 (by
                  refine frame_mapContact (sub hm (by decide)) ?_
                  exact h43)
                extract_lets -merge -underBinder +onlyGivenNames x49
                obtain ⟨y49, e49, h49⟩ := Frame.name (x := x49) (.ite h48 (frame_touchReport (sub hm (by decide)) h48))
                rw [e49]
                extract_lets -merge -underBinder +onlyGivenNames x50
                obtain ⟨y50, e50, h50⟩ := Frame.name (x := x50) (frame_State_bump (sub hm (by decide)) h49)
                rw [e50]
                extract_lets -merge -underBinder +onlyGivenNames x51
                obtain ⟨y51, e51, h51⟩ := Frame.name (x := x51) (frame_State_raise (sub hm (by decide)) h50)
                rw [e51]
                exact (frame_State_setTch (sub hm (by decide)) h51)
              · split
                · split
                  rename_i y52_0 x52 e52
                  have h52 : Frame m s x52 := Frame.of_2 e52 (by
                    refine frame_mapContact (sub hm (by decide)) ?_
                    exact h43)
                  extract_lets -merge -underBinder +onlyGivenNames x53
                  obtain ⟨y53, e53, h53⟩ := Frame.name (x := x53) (.ite h52 (frame_touchReport (sub hm (by decide)) h52))
                  rw [e53]
                  exact (frame_State_setTch (sub hm (by decide)) h53)
                · exact h43)
            rw [e46]
            split
            · split
              rename_i y54_0 x54 e54
              have h54 : Frame m s x54 := Frame.of_2 e54 (by
                refine frame_mapContact (sub hm (by decide)) ?_
                exact h46)
              extract_lets -merge -underBinder +onlyGivenNames x55
              obtain ⟨y55, e55, h55⟩ := Frame.name (x := x55) (.ite h54 (frame_touchReport (sub hm (by decide)) h54))
              rw [e55]
              exact (frame_State_setTch (sub hm (by decide)) h55)
            · exact h46)
        rw [e41]
        extract_lets -merge -underBinder +onlyGivenNames x56 x57
        split
        · split
          · extract_lets -merge -underBinder +onlyGivenNames x58 x59 x60 x61 x62 x63 x64 x65 x66 x67 x68
            obtain ⟨y68, e68, h68⟩ := Frame.name (x := x68) (frame_testEvents (sub hm (by decide)) (frame_testEvents (sub hm (by decide)) h41))
            rw [e68]
            extract_lets -merge -underBinder +onlyGivenNames x69 x70 x71
            obtain ⟨y71, e71, h71⟩ := Frame.name (x := x71) (frame_State_setTch (sub hm (by decide)) h68)
            rw [e71]
            extract_lets -merge -underBinder +onlyGivenNames x72
            obtain ⟨y72, e72, h72⟩ := Frame.name (x := x72) (.ite h71 (frame_State_raiseLimited (sub hm (by decide)) h71))
            rw [e72]
            extract_lets -merge -underBinder +onlyGivenNames x73 x74 x75 x76 x77
            obtain ⟨y77, e77, h77⟩ := Frame.name (x := x77) (frame_State_setTch (sub hm (by decide)) h72)
            rw [e77]
            extract_lets -merge -underBinder +onlyGivenNames x78
            obtain ⟨y78, e78, h78⟩ := Frame.name (m := m) (s := s) (x := x78) (by
              unfold x78
              split
              · exact (frame_State_setTch (sub hm (by decide)) h77)
              · extract_lets -merge -underBinder +onlyGivenNames x79 x80
                obtain ⟨y80, e80, h80⟩ := Frame.name (x := x80) (frame_State_setTch (sub hm (by decide)) h77)
                rw [e80]
                exact (frame_State_raise (sub hm (by decide)) (frame_State_bump (sub hm (by decide)) h80))
              · extract_lets -merge -underBinder +onlyGivenNames x81 x82
                obtain ⟨y82, e82, h82⟩ := Frame.name (x := x82) (frame_State_setTch (sub hm (by decide)) h77)
                rw [e82]
                exact (.ite h82 (frame_State_raise (sub hm (by decide)) h82)))
            rw [e78]
            exact (frame_State_setReady (sub hm (by decide)) h78)

theorem frame_State_setLane {m s v0 v1 v2 v3} (hm : ([.lanes] : List Part) ⊆ m) (g0 : Frame m s v0) : Frame m s (State.setLane v0 v1 v2 v3) := by
  unfold State.setLane
  exact (.lanes (hm (by decide)) g0)

theorem frame_laneLowEye {m s v0 v1 v2} (hm : ([.lanes, .rate, .evSeq, .out, .dorm, .rings, .regs, .irq, .localQ, .links, .exch] : List Part) ⊆ m) (g0 : Frame m s v0) : Frame m s (laneLowEye v0 v1 v2) := by
  unfold laneLowEye
  extract_lets -merge -underBinder +onlyGivenNames x0 x1
  exact (.ite g0 (frame_State_raiseLimited (sub hm (by decide)) (frame_State_setLane (sub hm (by decide)) g0)))

theorem frame_lanePin {m s v0 v1 v2} (hm : ([.lanes, .evSeq, .out, .dorm, .rings, .regs, .irq, .rate, .localQ, .links, .exch] : List Part) ⊆ m) (g0 : Frame m s v0) : Frame m s (lanePin v0 v1 v2) := by
  unfold lanePin
  extract_lets -merge -underBinder +onlyGivenNames x0
  exact (.ite g0 (frame_State_raise (sub hm (by decide)) (frame_State_setLane (sub hm (by decide)) g0)))

theorem frame_startRun {m s v0 v1 v2} (hm : ([.lanes] : List Part) ⊆ m) (g0 : Frame m s v0) : Frame m s (startRun v0 v1 v2) := by
  unfold startRun
  extract_lets -merge -underBinder +onlyGivenNames x0
  exact (.ite g0 (frame_State_setLane (sub hm (by decide)) g0))

theorem frame_endRun {m s v0 v1 v2 v3} (hm : ([.lanes, .regs, .evSeq, .out, .dorm, .rings, .irq, .rate, .localQ, .links, .exch] : List Part) ⊆ m) (g0 : Frame m s v0) : Frame m s (endRun v0 v1 v2 v3) := by
  unfold endRun
  extract_lets -merge -underBinder +onlyGivenNames x0
  split
  · exact g0
  · extract_lets -merge -underBinder +onlyGivenNames x1 x2
    obtain ⟨y2, e2, h2⟩ := Frame.name (x := x2) (frame_State_bump (sub hm (by decide)) (frame_State_setLane (sub hm (by decide)) g0))
    rw [e2]
    extract_lets -merge -underBinder +onlyGivenNames x3
    obtain ⟨y3, e3, h3⟩ := Frame.name (x := x3) (frame_State_raise (sub hm (by decide)) h2)
    rw [e3]
    exact (.ite (frame_startRun (sub hm (by decide)) h3) h3)

theorem frame_ctleStep {m s v0 v1 v2 v3 v4} (hm : ([.lanes] : List Part) ⊆ m) (g0 : Frame m s v0) : Frame m s (ctleStep v0 v1 v2 v3 v4) := by
  unfold ctleStep
  extract_lets -merge -underBinder +onlyGivenNames x0
  exact (frame_State_setLane (sub hm (by decide)) g0)

theorem frame_undoStep {m s v0 v1 v2 v3 v4} (hm : ([.lanes] : List Part) ⊆ m) (g0 : Frame m s v0) : Frame m s (undoStep v0 v1 v2 v3 v4) := by
  unfold undoStep
  exact (.ite (frame_State_setLane (sub hm (by decide)) g0) (frame_ctleStep (sub hm (by decide)) g0))

theorem frame_tryStep {m s v0 v1 v2 v3} (hm : ([.lanes, .evSeq, .out, .dorm, .rings, .regs, .irq, .rate, .localQ, .links, .exch] : List Part) ⊆ m) (g0 : Frame m s v0) : Frame m s (tryStep v0 v1 v2 v3) := by
  unfold tryStep
  refine Frame.ite ?_ ?_
  · extract_lets -merge -underBinder +onlyGivenNames x0 x1
    obtain ⟨y1, e1, h1⟩ := Frame.name (x := x1) (frame_State_setLane (sub hm (by decide)) g0)
    rw [e1]
    exact (frame_endRun (sub hm (by decide)) (frame_lanePin (sub hm (by decide)) h1))
  · exact (frame_ctleStep (sub hm (by decide)) g0)

theorem frame_runScan {m s v0 v1 v2 v3 v4} (hm : ([.lanes, .evSeq, .out, .dorm, .rings, .regs, .irq, .rate, .localQ, .links, .exch] : List Part) ⊆ m) (g0 : Frame m s v0) : Frame m s (runScan v0 v1 v2 v3 v4) := by
  unfold runScan
  extract_lets -merge -underBinder +onlyGivenNames x0
  split
  · extract_lets -merge -underBinder +onlyGivenNames x1
    obtain ⟨y1, e1, h1⟩ := Frame.name (x := x1) (frame_State_setLane (sub hm (by decide)) g0)
    rw [e1]
    exact (frame_tryStep (sub hm (by decide)) h1)
  · extract_lets -merge -underBinder +onlyGivenNames x2 x3
    refine Frame.ite ?_ ?_
    · exact (frame_tryStep (sub hm (by decide)) g0)
    · refine Frame.ite ?_ ?_
      · exact (frame_endRun (sub hm (by decide)) g0)
      · extract_lets -merge -underBinder +onlyGivenNames x4
        obtain ⟨y4, e4, h4⟩ := Frame.name (x := x4) (frame_undoStep (sub hm (by decide)) g0)
        rw [e4]
        exact (.ite (frame_tryStep (sub hm (by decide)) h4) h4)
  · exact (frame_endRun (sub hm (by decide)) g0)

theorem frame_laneFigure {m s v0 v1 v2 v3} (hm : ([.lanes, .rate, .evSeq, .out, .dorm, .rings, .regs, .irq, .localQ, .links, .exch] : List Part) ⊆ m) (g0 : Frame m s v0) : Frame m s (laneFigure v0 v1 v2 v3) := by
  unfold laneFigure
  extract_lets -merge -underBinder +onlyGivenNames x0
  exact (frame_laneLowEye (sub hm (by decide)) (frame_State_setLane (sub hm (by decide)) g0))

theorem frame_doLaneScan {m s v0 v1 v2 v3} (hm : ([.lanes, .rate, .evSeq, .out, .dorm, .rings, .regs, .irq, .localQ, .links, .exch] : List Part) ⊆ m) (g0 : Frame m s v0) : Frame m s (doLaneScan v0 v1 v2 v3) := by
  unfold doLaneScan
  extract_lets -merge -underBinder +onlyGivenNames x0
  refine Frame.ite ?_ ?_
  · exact g0
  · split
    · exact (frame_laneFigure (sub hm (by decide)) g0)
    · exact (.ite g0 (frame_runScan (sub hm (by decide)) (frame_laneFigure (sub hm (by decide)) g0)))

theorem frame_doClassT {m s v0 v1 v2 v3} (hm : ([.lanes, .rate, .evSeq, .out, .dorm, .rings, .regs, .irq, .localQ, .links, .exch] : List Part) ⊆ m) (g0 : Frame m s v0) : Frame m s (doClassT v0 v1 v2 v3) := by
  unfold doClassT
  exact (.ite (frame_doLaneScan (sub hm (by decide)) g0) g0)

theorem frame_doLaneTemp {m s v0 v1 v2 v3} (hm : ([.aon, .therm, .lanes] : List Part) ⊆ m) (g0 : Frame m s v0) : Frame m s (doLaneTemp v0 v1 v2 v3) := by
  unfold doLaneTemp
  extract_lets -merge -underBinder +onlyGivenNames x0 x1
  obtain ⟨y1, e1, h1⟩ := Frame.name (x := x1) (frame_takeTemps (sub hm (by decide)) g0)
  rw [e1]
  exact (.ite (frame_startRun (sub hm (by decide)) h1) h1)

theorem frame_doCorrection {m s v0 v1 v2} (hm : ([.lanes] : List Part) ⊆ m) (g0 : Frame m s v0) : Frame m s (doCorrection v0 v1 v2) := by
  unfold doCorrection
  extract_lets -merge -underBinder +onlyGivenNames x0
  split
  · exact g0
  · extract_lets -merge -underBinder +onlyGivenNames x1 x2
    exact (.ite (frame_State_setLane (sub hm (by decide)) g0) (.ite (frame_State_setLane (sub hm (by decide)) g0) (frame_State_setLane (sub hm (by decide)) g0)))

theorem frame_onLanes {m s v0 v1} (hm : ([] : List Part) ⊆ m) (g0 : Frame m s v0) (g1 : ∀ u0 u1, Frame m s u0 → Frame m s (v1 u0 u1)) : Frame m s (onLanes v0 v1) := by
  unfold onLanes
  exact g1 _ _ (g1 _ _ g0)

theorem frame_laneToOvr {m s v0 v1 v2} (hm : ([.lanes] : List Part) ⊆ m) (g0 : Frame m s v0) : Frame m s (laneToOvr v0 v1 v2) := by
  unfold laneToOvr
  exact (frame_State_setLane (sub hm (by decide)) g0)

theorem frame_laneAdapt {m s v0 v1 v2} (hm : ([.free, .lanes] : List Part) ⊆ m) (g0 : Frame m s v0) : Frame m s (laneAdapt v0 v1 v2) := by
  unfold laneAdapt
  split
  · split
    rename_i y0_0 x0 e0
    have h0 : Frame m s x0 := Frame.of_2 e0 (by
      refine frame_State_fresh (sub hm (by decide)) ?_
      exact g0)
    split
    rename_i y1_0 x1 e1
    have h1 : Frame m s x1 := Frame.of_2 e1 (by
      refine frame_State_fresh (sub hm (by decide)) ?_
      exact h0)
    split
    rename_i y2_0 x2 e2
    have h2 : Frame m s x2 := Frame.of_2 e2 (by
      refine frame_State_fresh (sub hm (by decide)) ?_
      exact h1)
    split
    rename_i y3_0 x3 e3
    have h3 : Frame m s x3 := Frame.of_2 e3 (by
      refine frame_State_fresh (sub hm (by decide)) ?_
      exact h2)
    split
    rename_i y4_0 x4 e4
    have h4 : Frame m s x4 := Frame.of_2 e4 (by
      refine frame_State_fresh (sub hm (by decide)) ?_
      exact h3)
    split
    rename_i y5_0 x5 e5
    have h5 : Frame m s x5 := Frame.of_2 e5 (by
      refine frame_State_fresh (sub hm (by decide)) ?_
      exact h4)
    extract_lets -merge -underBinder +onlyGivenNames x6 x7 x8 x9
    obtain ⟨y9, e9, h9⟩ := Frame.name (x := x9) (frame_State_setLane (sub hm (by decide)) h5)
    rw [e9]
    exact (.ite (frame_laneToOvr (sub hm (by decide)) h9) h9)

theorem frame_laneDown {m s v0 v1 v2} (hm : ([.lanes, .regs, .evSeq, .out, .dorm, .rings, .irq, .rate, .localQ, .links, .exch] : List Part) ⊆ m) (g0 : Frame m s v0) : Frame m s (laneDown v0 v1 v2) := by
  unfold laneDown
  extract_lets -merge -underBinder +onlyGivenNames x0 x1
  obtain ⟨y1, e1, h1⟩ := Frame.name (x := x1) (frame_endRun (sub hm (by decide)) (frame_State_setLane (sub hm (by decide)) g0))
  rw [e1]
  exact (frame_State_setLane (sub hm (by decide)) h1)

theorem frame_laneRevert {m s v0 v1 v2} (hm : ([.lanes, .regs, .evSeq, .out, .dorm, .rings, .irq, .rate, .localQ, .links, .exch] : List Part) ⊆ m) (g0 : Frame m s v0) : Frame m s (laneRevert v0 v1 v2) := by
  unfold laneRevert
  split
  · exact g0
  · extract_lets -merge -underBinder +onlyGivenNames x0
    obtain ⟨y0, e0, h0⟩ := Frame.name (m := m) (s := s) (x := x0) (by
      unfold x0
      split
      · exact (frame_undoStep (sub hm (by decide)) g0)
      · exact g0)
    rw [e0]
    exact (frame_endRun (sub hm (by decide)) h0)

theorem frame_lanesFollow {m s v0 v1 v2} (hm : ([.free, .lanes, .regs, .evSeq, .out, .dorm, .rings, .irq, .rate, .localQ, .links, .exch] : List Part) ⊆ m) (g0 : Frame m s v0) (g1 : Frame m s v1) : Frame m s (lanesFollow v0 v1 v2) := by
  unfold lanesFollow
  extract_lets -merge -underBinder +onlyGivenNames x0 x1 x2
  obtain ⟨y2, e2, h2⟩ := Frame.name (m := m) (s := s) (x := x2) (by
    unfold x2
    refine Frame.ite ?_ ?_
    · refine frame_onLanes (sub hm (by decide)) ?_ ?_
      · exact g1
      · intro x3_0 a3_1 h3_0
        exact (frame_laneAdapt (sub hm (by decide)) h3_0)
    · exact g1)
  rw [e2]
  extract_lets -merge -underBinder +onlyGivenNames x4
  obtain ⟨y4, e4, h4⟩ := Frame.name (m := m) (s := s) (x := x4) (by
    unfold x4
    refine Frame.ite ?_ ?_
    · refine frame_onLanes (sub hm (by decide)) ?_ ?_
      · exact h2
      · intro x5_0 a5_1 h5_0
        exact (frame_State_setLane (sub hm (by decide)) h5_0)
    · exact h2)
  rw [e4]
  extract_lets -merge -underBinder +onlyGivenNames x6
  obtain ⟨y6, e6, h6⟩ := Frame.name (m := m) (s := s) (x := x6) (by
    unfold x6
    refine Frame.ite ?_ ?_
    · refine frame_onLanes (sub hm (by decide)) ?_ ?_
      · exact h4
      · intro x7_0 a7_1 h7_0
        exact (frame_laneDown (sub hm (by decide)) h7_0)
    · exact h4)
  rw [e6]
  extract_lets -merge -underBinder +onlyGivenNames x8
  refine Frame.ite ?_ ?_
  · refine frame_onLanes (sub hm (by decide)) ?_ ?_
    · exact h6
    · intro x9_0 a9_1 h9_0
      exact (frame_laneRevert (sub hm (by decide)) h9_0)
  · exact h6

theorem frame_allLanesFollow {m s v0 v1} (hm : ([.free, .lanes, .regs, .evSeq, .out, .dorm, .rings, .irq, .rate, .localQ, .links, .exch] : List Part) ⊆ m) (g0 : Frame m s v0) (g1 : Frame m s v1) : Frame m s (allLanesFollow v0 v1) := by
  unfold allLanesFollow
  refine Frame.foldl ?_ ?_
  · exact g1
  · intro x0 a0 h0
    exact (frame_lanesFollow (sub hm (by decide)) g0 h0)

theorem frame_laneNewBound {m s v0 v1} (hm : ([.lanes] : List Part) ⊆ m) (g0 : Frame m s v0) : Frame m s (laneNewBound v0 v1) := by
  unfold laneNewBound
  split
  · refine frame_onLanes (sub hm (by decide)) ?_ ?_
    · exact g0
    · intro x0_0 a0_1 h0_0
      extract_lets -merge -underBinder +onlyGivenNames x1
      exact (.ite h0_0 (.ite (frame_State_setLane (sub hm (by decide)) h0_0) (.ite (frame_State_setLane (sub hm (by decide)) h0_0) h0_0)))

theorem frame_laneCtrl {m s v0 v1 v2} (hm : ([.regs, .lanes, .evSeq, .out, .dorm, .rings, .irq, .rate, .localQ, .links, .exch] : List Part) ⊆ m) (g0 : Frame m s v0) : Frame m s (laneCtrl v0 v1 v2) := by
  unfold laneCtrl
  extract_lets -merge -underBinder +onlyGivenNames x0
  obtain ⟨y0, e0, h0⟩ := Frame.name (x := x0) (frame_State_setReg (sub hm (by decide)) g0)
  rw [e0]
  extract_lets -merge -underBinder +onlyGivenNames x1 x2
  obtain ⟨y2, e2, h2⟩ := Frame.name (m := m) (s := s) (x := x2) (by
    unfold x2
    refine frame_onLanes (sub hm (by decide)) ?_ ?_
    · exact h0
    · intro x3_0 a3_1 h3_0
      extract_lets -merge -underBinder +onlyGivenNames x4 x5
      obtain ⟨y5, e5, h5⟩ := Frame.name (x := x5) (frame_State_setLane (sub hm (by decide)) h3_0)
      rw [e5]
      exact (.ite (frame_laneToOvr (sub hm (by decide)) (frame_endRun (sub hm (by decide)) h5)) h5))
  rw [e2]
  refine Frame.ite ?_ ?_
  · refine frame_onLanes (sub hm (by decide)) ?_ ?_
    · exact h2
    · intro x6_0 a6_1 h6_0
      exact (.ite (frame_State_setLane (sub hm (by decide)) h6_0) (frame_startRun (sub hm (by decide)) h6_0))
  · exact h2

theorem frame_lanesEndService {m s v0} (hm : ([.regs, .lanes] : List Part) ⊆ m) (g0 : Frame m s v0) : Frame m s (lanesEndService v0) := by
  unfold lanesEndService
  refine Frame.foldl ?_ ?_
  · exact g0
  · intro x0 a0 h0
    extract_lets -merge -underBinder +onlyGivenNames x1 x2
    obtain ⟨y2, e2, h2⟩ := Frame.name (x := x2) (frame_State_setReg (sub hm (by decide)) h0)
    rw [e2]
    refine frame_onLanes (sub hm (by decide)) ?_ ?_
    · exact h2
    · intro x3_0 a3_1 h3_0
      exact (.ite (frame_startRun (sub hm (by decide)) (frame_State_setLane (sub hm (by decide)) h3_0)) h3_0)

end Machine
end Sys2Proof
end

