-- ==== Sys2Proof/Laws/FramesSystem.lean ====
section
/-! SUPPORT. Which parts of the state the pair, the mirror, boot, registers, the mailbox, management and the debug port can change, said once for each operation: a lemma frame_f says that the operation f
changes no part outside the list of its hypothesis. -/

set_option Elab.async false

namespace Sys2Proof
namespace Machine

theorem frame_claim {m s v0} (hm : ([.pair, .evSeq, .out, .dorm, .rings, .regs, .irq, .rate, .localQ, .links, .exch] : List Part) ⊆ m) (g0 : Frame m s v0) : Frame m s (claim v0) := by
  unfold claim
  exact (frame_setPairState (sub hm (by decide)) (.pair (hm (by decide)) g0))

theorem frame_withdraw {m s v0} (hm : ([.pair, .evSeq, .out, .dorm, .rings, .regs, .irq, .rate, .localQ, .links, .exch] : List Part) ⊆ m) (g0 : Frame m s v0) : Frame m s (withdraw v0) := by
  unfold withdraw
  exact (frame_setPairState (sub hm (by decide)) g0)

theorem frame_doAutoClaim {m s v0} (hm : ([.pair, .evSeq, .out, .dorm, .rings, .regs, .irq, .rate, .localQ, .links, .exch] : List Part) ⊆ m) (g0 : Frame m s v0) : Frame m s (doAutoClaim v0) := by
  unfold doAutoClaim
  extract_lets -merge -underBinder +onlyGivenNames x0 x1
  obtain ⟨y1, e1, h1⟩ := Frame.name (x := x1) (.pair (hm (by decide)) g0)
  rw [e1]
  exact (.ite (frame_claim (sub hm (by decide)) h1) h1)

theorem frame_pairCtrl {m s v0 v1} (hm : ([.pair, .evSeq, .out, .dorm, .rings, .regs, .irq, .rate, .localQ, .links, .exch, .free, .mir, .mode, .aon, .commits, .inFlight, .dma, .done] : List Part) ⊆ m) (g0 : Frame m s v0) : Frame m s (pairCtrl v0 v1) := by
  unfold pairCtrl
  extract_lets -merge -underBinder +onlyGivenNames x0
  obtain ⟨y0, e0, h0⟩ := Frame.name (x := x0) (.ite (frame_claim (sub hm (by decide)) g0) g0)
  rw [e0]
  exact (.ite (frame_State_relinquish (sub hm (by decide)) h0) h0)

theorem frame_aliasRestart {m s v0} (hm : ([.encs] : List Part) ⊆ m) (g0 : Frame m s v0) : Frame m s (aliasRestart v0) := by
  unfold aliasRestart
  refine Frame.foldl ?_ ?_
  · exact g0
  · intro x0 a0 h0
    exact (.ite (frame_State_setEnc (sub hm (by decide)) h0) h0)

theorem frame_noteConflict {m s v0} (hm : ([.regs, .rate, .evSeq, .out, .dorm, .rings, .irq, .localQ, .links, .exch] : List Part) ⊆ m) (g0 : Frame m s v0) : Frame m s (noteConflict v0) := by
  unfold noteConflict
  extract_lets -merge -underBinder +onlyGivenNames x0
  obtain ⟨y0, e0, h0⟩ := Frame.name (x := x0) (frame_State_bump (sub hm (by decide)) g0)
  rw [e0]
  exact (frame_State_raiseLimited (sub hm (by decide)) h0)

theorem frame_checkClaim {m s v0} (hm : ([.pair, .evSeq, .out, .dorm, .rings, .regs, .irq, .rate, .localQ, .links, .exch] : List Part) ⊆ m) (g0 : Frame m s v0) : Frame m s (checkClaim v0) := by
  unfold checkClaim
  exact (.ite g0 (.ite (frame_withdraw (sub hm (by decide)) g0) (.ite (frame_withdraw (sub hm (by decide)) (frame_noteConflict (sub hm (by decide)) g0)) g0)))

theorem frame_doActingOwner {m s v0} (hm : ([.pair, .evSeq, .out, .dorm, .rings, .regs, .irq, .rate, .localQ, .links, .exch, .mode, .encs] : List Part) ⊆ m) (g0 : Frame m s v0) : Frame m s (doActingOwner v0) := by
  unfold doActingOwner
  extract_lets -merge -underBinder +onlyGivenNames x0
  obtain ⟨y0, e0, h0⟩ := Frame.name (x := x0) (frame_checkClaim (sub hm (by decide)) g0)
  rw [e0]
  refine Frame.ite ?_ ?_
  · exact h0
  · refine Frame.ite ?_ ?_
    · exact h0
    · extract_lets -merge -underBinder +onlyGivenNames x1
      obtain ⟨y1, e1, h1⟩ := Frame.name (x := x1) (frame_setPairState (sub hm (by decide)) h0)
      rw [e1]
      extract_lets -merge -underBinder +onlyGivenNames x2
      obtain ⟨y2, e2, h2⟩ := Frame.name (x := x2) (.ite (frame_State_setMode (sub hm (by decide)) h1) h1)
      rw [e2]
      exact (frame_aliasRestart (sub hm (by decide)) (frame_State_bump (sub hm (by decide)) h2))

theorem frame_doOwnIRise {m s v0} (hm : ([.pair, .evSeq, .out, .dorm, .rings, .regs, .irq, .rate, .localQ, .links, .exch] : List Part) ⊆ m) (g0 : Frame m s v0) : Frame m s (doOwnIRise v0) := by
  unfold doOwnIRise
  exact (frame_checkClaim (sub hm (by decide)) (.pair (hm (by decide)) g0))

theorem frame_doPairConflict {m s v0} (hm : ([.pair, .evSeq, .out, .dorm, .rings, .regs, .irq, .rate, .localQ, .links, .exch, .free, .mir, .mode, .aon, .commits, .inFlight, .dma, .done] : List Part) ⊆ m) (g0 : Frame m s v0) : Frame m s (doPairConflict v0) := by
  unfold doPairConflict
  extract_lets -merge -underBinder +onlyGivenNames x0 x1
  obtain ⟨y1, e1, h1⟩ := Frame.name (x := x1) (.pair (hm (by decide)) g0)
  rw [e1]
  extract_lets -merge -underBinder +onlyGivenNames x2
  refine Frame.ite ?_ ?_
  · exact h1
  · refine Frame.ite ?_ ?_
    · exact (frame_withdraw (sub hm (by decide)) h1)
    · extract_lets -merge -underBinder +onlyGivenNames x3
      obtain ⟨y3, e3, h3⟩ := Frame.name (x := x3) (frame_noteConflict (sub hm (by decide)) h1)
      rw [e3]
      exact (.ite (frame_withdraw (sub hm (by decide)) h3) (.ite (frame_State_relinquish (sub hm (by decide)) h3) h3))

theorem frame_doRelinquish {m s v0 v1} (hm : ([.pair, .free, .mir, .mode, .evSeq, .out, .dorm, .rings, .regs, .irq, .rate, .localQ, .links, .exch, .aon, .commits, .inFlight, .dma, .done] : List Part) ⊆ m) (g0 : Frame m s v0) : Frame m s (doRelinquish v0 v1) := by
  unfold doRelinquish
  exact (.ite g0 (frame_State_trigger (sub hm (by decide)) g0))

theorem frame_doUnlockExpiry {m s v0} (hm : ([.pair, .free, .mir, .mode, .evSeq, .out, .dorm, .rings, .regs, .irq, .rate, .localQ, .links, .exch, .aon, .commits, .inFlight, .dma, .done] : List Part) ⊆ m) (g0 : Frame m s v0) : Frame m s (doUnlockExpiry v0) := by
  unfold doUnlockExpiry
  exact (.ite (frame_State_trigger (sub hm (by decide)) g0) g0)

theorem frame_sendImage {m s v0} (hm : ([.mir, .regs, .evSeq, .out, .dorm, .rings, .irq, .rate, .localQ, .links, .exch] : List Part) ⊆ m) (g0 : Frame m s v0) : Frame m s (sendImage v0) := by
  unfold sendImage
  refine Frame.ite ?_ ?_
  · exact g0
  · extract_lets -merge -underBinder +onlyGivenNames x0
    obtain ⟨y0, e0, h0⟩ := Frame.name (m := m) (s := s) (x := x0) (by
      unfold x0
      refine Frame.foldl ?_ ?_
      · exact g0
      · intro x1 a1 h1
        exact (frame_mirrorRecord (sub hm (by decide)) h1))
    rw [e0]
    extract_lets -merge -underBinder +onlyGivenNames x2 x3
    obtain ⟨y3, e3, h3⟩ := Frame.name (x := x3) (frame_mirrorPacket (sub hm (by decide)) (frame_State_bump (sub hm (by decide)) (.mir (hm (by decide)) h0)))
    rw [e3]
    exact (frame_mirrorPump (sub hm (by decide)) h3)

theorem frame_peerCame {m s v0} (hm : ([.mir, .regs, .evSeq, .out, .dorm, .rings, .irq, .rate, .localQ, .links, .exch] : List Part) ⊆ m) (g0 : Frame m s v0) : Frame m s (peerCame v0) := by
  unfold peerCame
  exact (frame_sendImage (sub hm (by decide)) (.mir (hm (by decide)) g0))

theorem frame_applyRoute {m s v0 v1 v2} (hm : ([.regs, .inFlight, .dma, .done, .mir, .evSeq, .out, .dorm, .rings, .irq, .rate, .localQ, .links, .exch] : List Part) ⊆ m) (g0 : Frame m s v0) : Frame m s (applyRoute v0 v1 v2) := by
  unfold applyRoute
  extract_lets -merge -underBinder +onlyGivenNames x0 x1 x2 x3 x4
  obtain ⟨y4, e4, h4⟩ := Frame.name (m := m) (s := s) (x := x4) (by
    unfold x4
    refine Frame.foldl ?_ ?_
    · exact g0
    · intro x5 a5 h5
      exact (frame_State_setReg (sub hm (by decide)) h5))
  rw [e4]
  exact (frame_State_finish (sub hm (by decide)) (frame_setRoute (sub hm (by decide)) (frame_setRoute (sub hm (by decide)) h4)))

theorem frame_applySlate {m s v0 v1 v2} (hm : ([.regs, .evSeq, .out, .dorm, .rings, .irq, .rate, .localQ, .links, .exch, .inFlight, .dma, .done, .mir, .cmp, .mgmt] : List Part) ⊆ m) (g0 : Frame m s v0) : Frame m s (applySlate v0 v1 v2) := by
  unfold applySlate
  refine Frame.ite ?_ ?_
  · exact (frame_doSlateLoad (sub hm (by decide)) g0)
  · refine frame_runJob (sub hm (by decide)) ?_ ?_
    · exact g0
    · intro x0_0 h0_0
      exact (frame_slateCopy (sub hm (by decide)) (frame_slateBegin (sub hm (by decide)) h0_0))

theorem frame_recordBad {m s v0 v1 v2 v3 v4} (hm : ([.inFlight, .dma, .done, .mir, .regs, .evSeq, .out, .dorm, .rings, .irq, .rate, .localQ, .links, .exch] : List Part) ⊆ m) (g0 : Frame m s v0) : Frame m s (recordBad v0 v1 v2 v3 v4) := by
  unfold recordBad
  exact (frame_State_finish (sub hm (by decide)) g0)

theorem frame_applyRecord {m s v0 v1 v2 v3 v4} (hm : ([.regs, .evSeq, .out, .dorm, .rings, .irq, .rate, .localQ, .links, .exch, .inFlight, .dma, .done, .mir, .cmp, .fum, .commits, .mgmt, .scan, .pair] : List Part) ⊆ m) (g0 : Frame m s v0) : Frame m s (applyRecord v0 v1 v2 v3 v4) := by
  unfold applyRecord
  extract_lets -merge -underBinder +onlyGivenNames x0 x1
  split
  · refine Frame.ite ?_ ?_
    · exact (frame_doLiveSet (sub hm (by decide)) g0)
    · refine frame_runJob (sub hm (by decide)) ?_ ?_
      · exact g0
      · intro x2_0 h2_0
        exact (frame_loadBlocks (sub hm (by decide)) h2_0)
  · refine Frame.ite ?_ ?_
    · exact (frame_recordBad (sub hm (by decide)) g0)
    · split
      · exact (frame_doCommit (sub hm (by decide)) (frame_commitAck (sub hm (by decide)) g0))
      · exact (frame_doCommit (sub hm (by decide)) g0)
  · exact (.ite (frame_State_finish (sub hm (by decide)) (frame_fumLockSet (sub hm (by decide)) g0)) (.ite (frame_doFumPolicy (sub hm (by decide)) g0) (frame_recordBad (sub hm (by decide)) g0)))
  · exact (.ite (frame_doFumBind (sub hm (by decide)) g0) (frame_recordBad (sub hm (by decide)) g0))
  · exact (frame_applySlate (sub hm (by decide)) g0)
  · exact (.ite (frame_applyRoute (sub hm (by decide)) g0) (frame_recordBad (sub hm (by decide)) g0))
  · exact (.ite (frame_doGroupSet (sub hm (by decide)) g0) (frame_recordBad (sub hm (by decide)) g0))
  · exact (.ite (frame_doCheckCfg (sub hm (by decide)) g0) (frame_recordBad (sub hm (by decide)) g0))
  · exact (frame_recordBad (sub hm (by decide)) g0)

theorem frame_mirrorNext {m s v0} (hm : ([.mir, .evSeq, .out, .dorm, .rings, .regs, .irq, .rate, .localQ, .links, .exch, .inFlight, .dma, .done, .cmp, .fum, .commits, .mgmt, .scan, .pair] : List Part) ⊆ m) (g0 : Frame m s v0) : Frame m s (mirrorNext v0) := by
  unfold mirrorNext
  split
  · exact g0
  · refine Frame.ite ?_ ?_
    · exact g0
    · extract_lets -merge -underBinder +onlyGivenNames x0 x1
      obtain ⟨y1, e1, h1⟩ := Frame.name (x := x1) (.mir (hm (by decide)) g0)
      rw [e1]
      exact (.ite (frame_mirrorSync (sub hm (by decide)) (.mir (hm (by decide)) h1)) (frame_applyRecord (sub hm (by decide)) h1))

theorem frame_mirrorTake {m s v0 v1} (hm : ([.mir, .evSeq, .out, .dorm, .rings, .regs, .irq, .rate, .localQ, .links, .exch, .inFlight, .dma, .done, .cmp, .fum, .commits, .mgmt, .scan, .pair] : List Part) ⊆ m) (g0 : Frame m s v0) : Frame m s (mirrorTake v0 v1) := by
  unfold mirrorTake
  refine Frame.foldl ?_ ?_
  · exact (.mir (hm (by decide)) g0)
  · intro x0 a0 h0
    exact (frame_mirrorNext (sub hm (by decide)) h0)

theorem frame_mirrorStage {m s v0 v1 v2 v3 v4 v5 v6} (hm : ([.mir, .regs, .evSeq, .out, .dorm, .rings, .irq, .rate, .localQ, .links, .exch, .mem, .dram, .inFlight, .dma, .done, .cmp, .fum, .commits, .mgmt, .scan, .pair] : List Part) ⊆ m) (g0 : Frame m s v0) : Frame m s (mirrorStage v0 v1 v2 v3 v4 v5 v6) := by
  unfold mirrorStage
  extract_lets -merge -underBinder +onlyGivenNames x0 x1
  clear_value x1
  split
  · exact g0
  · refine Frame.ite ?_ ?_
    · exact g0
    · extract_lets -merge -underBinder +onlyGivenNames x2 x3 x4
      obtain ⟨y4, e4, h4⟩ := Frame.name (x := x4) (.mir (hm (by decide)) g0)
      rw [e4]
      extract_lets -merge -underBinder +onlyGivenNames x5 x6
      obtain ⟨y6, e6, h6⟩ := Frame.name (m := m) (s := s) (x := x6) (by
        unfold x6
        refine Frame.ite ?_ ?_
        · refine frame_State_memWr (sub hm (by decide)) ?_
          exact h4
        · exact h4)
      rw [e6]
      refine Frame.ite ?_ ?_
      · exact (.mir (hm (by decide)) h6)
      · extract_lets -merge -underBinder +onlyGivenNames x7 x8
        obtain ⟨y8, e8, h8⟩ := Frame.name (x := x8) (.mir (hm (by decide)) h6)
        rw [e8]
        refine Frame.ite ?_ ?_
        · exact (frame_State_finish (sub hm (by decide)) h8)
        · split
          rename_i y9_0 x9 y9_2 e9
          have h9 : Frame m s x9 := Frame.of_2_1 e9 (by
            refine frame_State_memRd (sub hm (by decide)) ?_
            exact h8)
          exact (.ite (frame_mirrorTake (sub hm (by decide)) h9) (frame_State_finish (sub hm (by decide)) h9))

theorem frame_takeAck {m s v0 v1 v2} (hm : ([.regs, .commits, .mir, .evSeq, .out, .dorm, .rings, .irq, .rate, .localQ, .links, .exch, .cmp, .fum, .inFlight, .dma, .done] : List Part) ⊆ m) (g0 : Frame m s v0) : Frame m s (takeAck v0 v1 v2) := by
  unfold takeAck
  extract_lets -merge -underBinder +onlyGivenNames x0
  obtain ⟨y0, e0, h0⟩ := Frame.name (x := x0) (frame_State_setReg (sub hm (by decide)) g0)
  rw [e0]
  split
  · exact (.ite (frame_acceptCommit (sub hm (by decide)) h0) (frame_ackFailed (sub hm (by decide)) h0))
  · exact h0

theorem frame_mirrorIn {m s v0 v1} (hm : ([.localQ, .mir, .regs, .evSeq, .out, .dorm, .rings, .irq, .rate, .links, .exch, .mem, .dram, .inFlight, .dma, .done, .cmp, .fum, .commits, .mgmt, .scan, .pair] : List Part) ⊆ m) (g0 : Frame m s v0) : Frame m s (mirrorIn v0 v1) := by
  unfold mirrorIn
  extract_lets -merge -underBinder +onlyGivenNames x0
  obtain ⟨y0, e0, h0⟩ := Frame.name (x := x0) (frame_takeLocal (sub hm (by decide)) g0)
  rw [e0]
  extract_lets -merge -underBinder +onlyGivenNames x1 x2 x3 x4
  obtain ⟨y4, e4, h4⟩ := Frame.name (x := x4) (.mir (hm (by decide)) h0)
  rw [e4]
  refine Frame.ite ?_ ?_
  · exact h4
  · extract_lets -merge -underBinder +onlyGivenNames x5
    obtain ⟨y5, e5, h5⟩ := Frame.name (x := x5) (.ite (frame_State_bump (sub hm (by decide)) h4) h4)
    rw [e5]
    extract_lets -merge -underBinder +onlyGivenNames x6
    obtain ⟨y6, e6, h6⟩ := Frame.name (x := x6) (.ite (frame_mirrorLose (sub hm (by decide)) h5) h5)
    rw [e6]
    extract_lets -merge -underBinder +onlyGivenNames x7 x8
    split
    · exact (.ite (.ite (frame_State_bump (sub hm (by decide)) h6) h6) (frame_mirrorStage (sub hm (by decide)) h6))
    · exact (frame_takeAck (sub hm (by decide)) h6)
    · exact (frame_sendImage (sub hm (by decide)) h6)
    · exact (.ite h6 (frame_mirrorTake (sub hm (by decide)) h6))
    · exact h6

theorem frame_doResyncReq {m s v0} (hm : ([.localQ, .mir, .regs, .evSeq, .out, .dorm, .rings, .irq, .rate, .links, .exch, .mem, .dram, .inFlight, .dma, .done, .cmp, .fum, .commits, .mgmt, .scan, .pair] : List Part) ⊆ m) (g0 : Frame m s v0) : Frame m s (doResyncReq v0) := by
  unfold doResyncReq
  split
  · exact (frame_mirrorIn (sub hm (by decide)) g0)
  · exact (frame_sendImage (sub hm (by decide)) g0)

theorem frame_doMirrorAck {m s v0 v1} (hm : ([.localQ, .mir, .regs, .evSeq, .out, .dorm, .rings, .irq, .rate, .links, .exch, .mem, .dram, .inFlight, .dma, .done, .cmp, .fum, .commits, .mgmt, .scan, .pair] : List Part) ⊆ m) (g0 : Frame m s v0) : Frame m s (doMirrorAck v0 v1) := by
  unfold doMirrorAck
  exact (.ite (frame_mirrorIn (sub hm (by decide)) g0) g0)

theorem frame_doAckTimeout {m s v0} (hm : ([.regs, .commits, .mir, .evSeq, .out, .dorm, .rings, .irq, .rate, .localQ, .links, .exch, .inFlight, .dma, .done] : List Part) ⊆ m) (g0 : Frame m s v0) : Frame m s (doAckTimeout v0) := by
  unfold doAckTimeout
  split
  · exact (frame_ackFailed (sub hm (by decide)) g0)
  · exact g0

theorem frame_unpair {m s v0} (hm : ([.free, .pair, .mir, .mode, .evSeq, .out, .dorm, .rings, .regs, .irq, .rate, .localQ, .links, .exch, .aon, .commits, .inFlight, .dma, .done] : List Part) ⊆ m) (g0 : Frame m s v0) : Frame m s (unpair v0) := by
  unfold unpair
  extract_lets -merge -underBinder +onlyGivenNames x0
  obtain ⟨y0, e0, h0⟩ := Frame.name (x := x0) (frame_setPairState (sub hm (by decide)) (frame_State_relinquish (sub hm (by decide)) g0))
  rw [e0]
  extract_lets -merge -underBinder +onlyGivenNames x1 x2 x3
  obtain ⟨y3, e3, h3⟩ := Frame.name (x := x3) (Frame.upd h0 (fun p => by cases p; (case pair | mir => exact .inl (hm (by decide))); all_goals first | exact .inr rfl | exact .inr (fun _ _ _ => rfl) | exact .inr ⟨rfl, rfl⟩ | exact .inr ⟨rfl, rfl, rfl⟩ | exact .inr ⟨rfl, rfl, rfl, rfl⟩))
  rw [e3]
  exact (.ite (frame_State_setMode (sub hm (by decide)) h3) h3)

theorem frame_pairUp {m s v0} (hm : ([.pair, .evSeq, .out, .dorm, .rings, .regs, .irq, .rate, .localQ, .links, .exch, .mode] : List Part) ⊆ m) (g0 : Frame m s v0) : Frame m s (pairUp v0) := by
  unfold pairUp
  extract_lets -merge -underBinder +onlyGivenNames x0 x1
  obtain ⟨y1, e1, h1⟩ := Frame.name (x := x1) (.pair (hm (by decide)) g0)
  rw [e1]
  refine Frame.ite ?_ ?_
  · extract_lets -merge -underBinder +onlyGivenNames x2
    obtain ⟨y2, e2, h2⟩ := Frame.name (x := x2) (frame_setPairState (sub hm (by decide)) h1)
    rw [e2]
    exact (.ite (frame_State_setMode (sub hm (by decide)) h2) h2)
  · exact h1

theorem frame_doMirrorCfg {m s v0 v1} (hm : ([.regs, .evSeq, .out, .dorm, .rings, .irq, .rate, .localQ, .links, .exch, .inFlight, .dma, .done, .mir, .pair, .mode, .free, .aon, .commits] : List Part) ⊆ m) (g0 : Frame m s v0) : Frame m s (doMirrorCfg v0 v1) := by
  unfold doMirrorCfg
  extract_lets -merge -underBinder +onlyGivenNames x0 x1
  refine frame_runJob (sub hm (by decide)) ?_ ?_
  · exact g0
  · intro x2_0 h2_0
    extract_lets -merge -underBinder +onlyGivenNames x3
    obtain ⟨y3, e3, h3⟩ := Frame.name (x := x3) (.ite (frame_pairUp (sub hm (by decide)) h2_0) (frame_unpair (sub hm (by decide)) h2_0))
    rw [e3]
    extract_lets -merge -underBinder +onlyGivenNames x4 x5
    obtain ⟨y5, e5, h5⟩ := Frame.name (x := x5) (.pair (hm (by decide)) h3)
    rw [e5]
    extract_lets -merge -underBinder +onlyGivenNames x6
    obtain ⟨y6, e6, h6⟩ := Frame.name (x := x6) (.ite h5 (frame_State_untrigger (sub hm (by decide)) h5))
    rw [e6]
    extract_lets -merge -underBinder +onlyGivenNames x7
    obtain ⟨y7, e7, h7⟩ := Frame.name (x := x7) (.ite (frame_sendImage (sub hm (by decide)) h6) h6)
    rw [e7]
    exact (frame_State_finish (sub hm (by decide)) h7)

theorem frame_doStateDisagree {m s v0 v1 v2} (hm : ([.free, .pair, .rate, .evSeq, .out, .dorm, .rings, .regs, .irq, .localQ, .links, .exch] : List Part) ⊆ m) (g0 : Frame m s v0) : Frame m s (doStateDisagree v0 v1 v2) := by
  unfold doStateDisagree
  refine Frame.ite ?_ ?_
  · exact g0
  · split
    · extract_lets -merge -underBinder +onlyGivenNames x0
      obtain ⟨y0, e0, h0⟩ := Frame.name (x := x0) (.free (hm (by decide)) g0)
      rw [e0]
      extract_lets -merge -underBinder +onlyGivenNames x1
      refine Frame.ite ?_ ?_
      · exact h0
      · extract_lets -merge -underBinder +onlyGivenNames x2 x3
        obtain ⟨y3, e3, h3⟩ := Frame.name (x := x3) (.pair (hm (by decide)) h0)
        rw [e3]
        exact (frame_State_raiseLimited (sub hm (by decide)) h3)

theorem frame_putWindow {m s v0 v1 v2} (hm : ([.boot] : List Part) ⊆ m) (g0 : Frame m s v0) : Frame m s (putWindow v0 v1 v2) := by
  unfold putWindow
  exact (.boot (hm (by decide)) g0)

theorem frame_bootWrite {m s v0 v1 v2 v3 v4} (hm : ([.regs, .evSeq, .out, .dorm, .rings, .irq, .rate, .localQ, .links, .exch, .boot, .free] : List Part) ⊆ m) (g0 : Frame m s v0) : Frame m s (bootWrite v0 v1 v2 v3 v4) := by
  unfold bootWrite
  extract_lets -merge -underBinder +onlyGivenNames x0
  refine Frame.ite ?_ ?_
  · exact (frame_State_raf (sub hm (by decide)) g0)
  · refine Frame.ite ?_ ?_
    · exact g0
    · refine Frame.ite ?_ ?_
      · exact (frame_State_mpuDeny (sub hm (by decide)) g0)
      · refine Frame.ite ?_ ?_
        · exact g0
        · refine Frame.ite ?_ ?_
          · exact (frame_State_raf (sub hm (by decide)) g0)
          · refine Frame.ite ?_ ?_
            · split
              rename_i y1_0 x1 e1
              have h1 : Frame m s x1 := Frame.of_2 e1 (by
                refine frame_freeBytes (sub hm (by decide)) ?_
                exact g0)
              exact (frame_putWindow (sub hm (by decide)) h1)
            · exact (frame_putWindow (sub hm (by decide)) g0)

theorem frame_bootChunk {m s v0 v1} (hm : ([.boot] : List Part) ⊆ m) (g0 : Frame m s v0) : Frame m s (bootChunk v0 v1) := by
  unfold bootChunk
  exact (.boot (hm (by decide)) g0)

theorem frame_doChunkCopyEnd {m s v0} (hm : ([.boot] : List Part) ⊆ m) (g0 : Frame m s v0) : Frame m s (doChunkCopyEnd v0) := by
  unfold doChunkCopyEnd
  exact (.ite (.boot (hm (by decide)) g0) g0)

theorem frame_mgmtReady {m s v0} (hm : ([.ready, .evSeq, .out, .dorm, .rings, .regs, .irq, .rate, .localQ, .links, .exch] : List Part) ⊆ m) (g0 : Frame m s v0) : Frame m s (mgmtReady v0) := by
  unfold mgmtReady
  extract_lets -merge -underBinder +onlyGivenNames x0
  obtain ⟨y0, e0, h0⟩ := Frame.name (x := x0) (frame_State_setReady (sub hm (by decide)) g0)
  rw [e0]
  extract_lets -merge -underBinder +onlyGivenNames x1
  obtain ⟨y1, e1, h1⟩ := Frame.name (x := x1) (.ite (frame_State_raise (sub hm (by decide)) h0) h0)
  rw [e1]
  split
  · exact (frame_State_raise (sub hm (by decide)) (.dorm (hm (by decide)) h1))
  · exact h1

theorem frame_doImageEnd {m s v0} (hm : ([.boot, .evSeq, .out, .dorm, .rings, .regs, .irq, .rate, .localQ, .links, .exch, .ready, .free] : List Part) ⊆ m) (g0 : Frame m s v0) : Frame m s (doImageEnd v0) := by
  unfold doImageEnd
  refine Frame.ite ?_ ?_
  · extract_lets -merge -underBinder +onlyGivenNames x0 x1 x2
    split
    · exact (frame_mgmtReady (sub hm (by decide)) (frame_State_raise (sub hm (by decide)) (.boot (hm (by decide)) g0)))
    · split
      rename_i y3_0 x3 e3
      have h3 : Frame m s x3 := Frame.of_2 e3 (by
        refine frame_State_fresh (sub hm (by decide)) ?_
        exact g0)
      extract_lets -merge -underBinder +onlyGivenNames x4
      exact (frame_State_raise (sub hm (by decide)) (.boot (hm (by decide)) h3))
  · exact g0

theorem frame_pd8Off {m s v0} (hm : ([.power, .caps, .scan, .out] : List Part) ⊆ m) (g0 : Frame m s v0) : Frame m s (pd8Off v0) := by
  unfold pd8Off
  extract_lets -merge -underBinder +onlyGivenNames x0 x1 x2 x3
  obtain ⟨y3, e3, h3⟩ := Frame.name (x := x3) (Frame.upd g0 (fun p => by cases p; (case power | caps | scan => exact .inl (hm (by decide))); all_goals first | exact .inr rfl | exact .inr (fun _ _ _ => rfl) | exact .inr ⟨rfl, rfl⟩ | exact .inr ⟨rfl, rfl, rfl⟩ | exact .inr ⟨rfl, rfl, rfl, rfl⟩))
  rw [e3]
  refine Frame.foldl ?_ ?_
  · exact h3
  · intro x4 a4 h4
    exact (frame_driveHpd (sub hm (by decide)) h4)

theorem frame_domainOff {m s v0 v1} (hm : ([.power, .dec, .regs, .out, .caps, .encs, .scan] : List Part) ⊆ m) (g0 : Frame m s v0) : Frame m s (domainOff v0 v1) := by
  unfold domainOff
  split
  · exact (frame_pd5Off (sub hm (by decide)) g0)
  · exact (frame_pd6Off (sub hm (by decide)) g0)
  · exact (frame_pd8Off (sub hm (by decide)) g0)
  · exact (.power (hm (by decide)) g0)

theorem frame_domainOn {m s v0 v1} (hm : ([.power, .caps, .out] : List Part) ⊆ m) (g0 : Frame m s v0) : Frame m s (domainOn v0 v1) := by
  unfold domainOn
  extract_lets -merge -underBinder +onlyGivenNames x0 x1 x2
  obtain ⟨y2, e2, h2⟩ := Frame.name (x := x2) (.power (hm (by decide)) g0)
  rw [e2]
  refine Frame.ite ?_ ?_
  · refine Frame.foldl ?_ ?_
    · exact h2
    · intro x3 a3 h3
      exact (frame_driveHpd (sub hm (by decide)) h3)
  · exact h2

theorem frame_doIdleGating {m s v0 v1} (hm : ([.power, .dec, .regs, .out, .caps, .encs, .scan] : List Part) ⊆ m) (g0 : Frame m s v0) : Frame m s (doIdleGating v0 v1) := by
  unfold doIdleGating
  refine Frame.ite ?_ ?_
  · exact g0
  · extract_lets -merge -underBinder +onlyGivenNames x0 x1 x2
    obtain ⟨y2, e2, h2⟩ := Frame.name (x := x2) (.power (hm (by decide)) g0)
    rw [e2]
    refine Frame.foldl ?_ ?_
    · exact h2
    · intro x3 a3 h3
      exact (.ite (frame_domainOff (sub hm (by decide)) h3) h3)

theorem frame_doUnitWake {m s v0 v1} (hm : ([.power, .caps, .out] : List Part) ⊆ m) (g0 : Frame m s v0) : Frame m s (doUnitWake v0 v1) := by
  unfold doUnitWake
  refine Frame.ite ?_ ?_
  · extract_lets -merge -underBinder +onlyGivenNames x0 x1 x2
    obtain ⟨y2, e2, h2⟩ := Frame.name (x := x2) (.power (hm (by decide)) g0)
    rw [e2]
    refine Frame.foldl ?_ ?_
    · exact h2
    · intro x3 a3 h3
      exact (.ite h3 (frame_domainOn (sub hm (by decide)) h3))
  · exact g0

theorem frame_wakeBusy {m s v0} (hm : ([.power, .caps, .out] : List Part) ⊆ m) (g0 : Frame m s v0) : Frame m s (wakeBusy v0) := by
  unfold wakeBusy
  refine Frame.foldl ?_ ?_
  · exact g0
  · intro x0 a0 h0
    exact (.ite h0 (frame_doUnitWake (sub hm (by decide)) h0))

theorem frame_doUnitStart {m s v0} (hm : ([.power, .caps, .out, .ready, .evSeq, .dorm, .rings, .regs, .irq, .rate, .localQ, .links, .exch, .mode, .touch] : List Part) ⊆ m) (g0 : Frame m s v0) : Frame m s (doUnitStart v0) := by
  unfold doUnitStart
  refine Frame.ite ?_ ?_
  · extract_lets -merge -underBinder +onlyGivenNames x0 x1 x2 x3
    obtain ⟨y3, e3, h3⟩ := Frame.name (x := x3) (.power (hm (by decide)) g0)
    rw [e3]
    extract_lets -merge -underBinder +onlyGivenNames x4
    obtain ⟨y4, e4, h4⟩ := Frame.name (m := m) (s := s) (x := x4) (by
      unfold x4
      refine Frame.foldl ?_ ?_
      · exact h3
      · intro x5 a5 h5
        exact (.ite h5 (frame_domainOn (sub hm (by decide)) h5)))
    rw [e4]
    extract_lets -merge -underBinder +onlyGivenNames x6
    obtain ⟨y6, e6, h6⟩ := Frame.name (x := x6) (frame_State_setReady (sub hm (by decide)) h4)
    rw [e6]
    extract_lets -merge -underBinder +onlyGivenNames x7
    obtain ⟨y7, e7, h7⟩ := Frame.name (x := x7) (frame_State_setMode (sub hm (by decide)) h6)
    rw [e7]
    extract_lets -merge -underBinder +onlyGivenNames x8
    obtain ⟨y8, e8, h8⟩ := Frame.name (m := m) (s := s) (x := x8) (by
      unfold x8
      refine Frame.foldl ?_ ?_
      · exact h7
      · intro x9 a9 h9
        exact (frame_State_setReady (sub hm (by decide)) h9))
    rw [e8]
    refine Frame.foldl ?_ ?_
    · exact h8
    · intro x10 a10 h10
      exact (.ite (frame_touchStart (sub hm (by decide)) h10) h10)
  · exact g0

theorem frame_powerFabric {m s v0} (hm : ([.power] : List Part) ⊆ m) (g0 : Frame m s v0) : Frame m s (powerFabric v0) := by
  unfold powerFabric
  exact (.ite g0 (.power (hm (by decide)) g0))

theorem frame_State_setMbx {m s v0 v1 v2 v3} (hm : ([.mbx] : List Part) ⊆ m) (g0 : Frame m s v0) : Frame m s (State.setMbx v0 v1 v2 v3) := by
  unfold State.setMbx
  exact (.mbx (hm (by decide)) g0)

theorem frame_selectItem {m s v0 v1 v2 v3} (hm : ([.power, .caps, .out, .mbx] : List Part) ⊆ m) (g0 : Frame m s v0) : Frame m s (selectItem v0 v1 v2 v3) := by
  unfold selectItem
  extract_lets -merge -underBinder +onlyGivenNames x0
  obtain ⟨y0, e0, h0⟩ := Frame.name (m := m) (s := s) (x := x0) (by
    unfold x0
    split
    · exact (frame_doUnitWake (sub hm (by decide)) g0)
    · exact g0)
  rw [e0]
  exact (frame_State_setMbx (sub hm (by decide)) h0)

theorem frame_touchUnit {m s v0 v1 v2} (hm : ([.power, .caps, .out] : List Part) ⊆ m) (g0 : Frame m s v0) : Frame m s (touchUnit v0 v1 v2) := by
  unfold touchUnit
  split
  · exact (frame_doUnitWake (sub hm (by decide)) g0)
  · exact g0

theorem frame_readWord {m s v0 v1 v2 v3} (hm : ([.regs, .evSeq, .out, .dorm, .rings, .irq, .rate, .localQ, .links, .exch, .power, .caps, .free] : List Part) ⊆ m) (g0 : Frame m s v0) : Frame m s (readWord v0 v1 v2 v3).2.1 := by
  unfold readWord
  split
  · refine Frame.mk21 ?_
    refine Frame.mk1 ?_
    exact g0
  · split
    · refine Frame.mk21 ?_
      refine Frame.mk1 ?_
      exact (frame_State_mpuDeny (sub hm (by decide)) g0)
    · split
      · refine Frame.mk21 ?_
        refine Frame.mk1 ?_
        exact g0
      · extract_lets -merge -underBinder +onlyGivenNames x0
        obtain ⟨y0, e0, h0⟩ := Frame.name (x := x0) (frame_touchUnit (sub hm (by decide)) g0)
        rw [e0]
        split
        · refine Frame.mk21 ?_
          refine Frame.mk1 ?_
          exact h0
        · split
          · extract_lets -merge -underBinder +onlyGivenNames x1
            refine Frame.mk21 ?_
            refine Frame.mk1 ?_
            exact h0
          · split
            · extract_lets -merge -underBinder +onlyGivenNames x2
              refine Frame.mk21 ?_
              refine Frame.mk1 ?_
              exact h0
            · extract_lets -merge -underBinder +onlyGivenNames x3
              refine Frame.mk21 ?_
              refine Frame.mk1 ?_
              exact (.ite (.free (hm (by decide)) h0) h0)

theorem frame_regRead {m s v0 v1 v2 v3 v4 v5} (hm : ([.regs, .evSeq, .out, .dorm, .rings, .irq, .rate, .localQ, .links, .exch, .power, .caps, .free] : List Part) ⊆ m) (g0 : Frame m s v0) : Frame m s (regRead v0 v1 v2 v3 v4 v5).2.1 := by
  unfold regRead
  split
  · refine Frame.mk21 ?_
    refine Frame.mk1 ?_
    exact g0
  · split
    · refine Frame.mk21 ?_
      refine Frame.mk1 ?_
      exact (frame_State_raf (sub hm (by decide)) g0)
    · split
      · refine frame_readWord (sub hm (by decide)) ?_
        exact g0
      · split
        rename_i y0_0 x0 y0_2 e0
        have h0 : Frame m s x0 := Frame.of_2_1 e0 (by
          refine frame_readWord (sub hm (by decide)) ?_
          exact g0)
        split
        rename_i y1_0 x1 y1_2 e1
        have h1 : Frame m s x1 := Frame.of_2_1 e1 (by
          refine frame_readWord (sub hm (by decide)) ?_
          exact h0)
        refine Frame.mk21 ?_
        refine Frame.mk1 ?_
        exact h1

theorem frame_releaseCap {m s v0 v1 v2} (hm : ([.regs, .sysCtl] : List Part) ⊆ m) (g0 : Frame m s v0) : Frame m s (releaseCap v0 v1 v2) := by
  unfold releaseCap
  refine Frame.ite ?_ ?_
  · refine Frame.foldl ?_ ?_
    · exact g0
    · intro x0 a0 h0
      exact (frame_State_setReg_any (sub hm (by decide)) h0)
  · exact g0

theorem frame_mpuLoad {m s v0 v1 v2} (hm : ([.mpu] : List Part) ⊆ m) (g0 : Frame m s v0) : Frame m s (mpuLoad v0 v1 v2) := by
  unfold mpuLoad
  exact (.ite g0 (.mpu (hm (by decide)) g0))

theorem frame_ringStart {m s v0 v1 v2 v3 v4} (hm : ([.rings] : List Part) ⊆ m) (g0 : Frame m s v0) : Frame m s (ringStart v0 v1 v2 v3 v4) := by
  unfold ringStart
  exact (.ite (frame_State_setSq (sub hm (by decide)) g0) (.ite (frame_State_setCq (sub hm (by decide)) g0) (.rings (hm (by decide)) g0)))

theorem frame_debugCtrl {m s v0 v1} (hm : ([.regs, .sysCtl, .evSeq, .out, .dorm, .rings, .irq, .rate, .localQ, .links, .exch] : List Part) ⊆ m) (g0 : Frame m s v0) : Frame m s (debugCtrl v0 v1) := by
  unfold debugCtrl
  extract_lets -merge -underBinder +onlyGivenNames x0
  exact (.ite g0 (frame_State_raise (sub hm (by decide)) (frame_State_setReg_any (sub hm (by decide)) g0)))

theorem frame_lifecycleAdv {m s v0 v1} (hm : ([.otp] : List Part) ⊆ m) (g0 : Frame m s v0) : Frame m s (lifecycleAdv v0 v1) := by
  unfold lifecycleAdv
  exact (.ite (.otp (hm (by decide)) g0) g0)

theorem frame_resetWrite {m s v0 v1} (hm : ([.power] : List Part) ⊆ m) (g0 : Frame m s v0) : Frame m s (resetWrite v0 v1) := by
  unfold resetWrite
  exact (.ite (.power (hm (by decide)) g0) g0)

theorem frame_aonClear {m s v0 v1} (hm : ([.aon] : List Part) ⊆ m) (g0 : Frame m s v0) : Frame m s (aonClear v0 v1) := by
  unfold aonClear
  extract_lets -merge -underBinder +onlyGivenNames x0 x1
  obtain ⟨y1, e1, h1⟩ := Frame.name (x := x1) (.ite (.aon (hm (by decide)) g0) g0)
  rw [e1]
  extract_lets -merge -underBinder +onlyGivenNames x2 x3
  obtain ⟨y3, e3, h3⟩ := Frame.name (x := x3) (.ite (.aon (hm (by decide)) h1) h1)
  rw [e3]
  exact (.ite (.aon (hm (by decide)) h3) h3)

theorem frame_linkCtrl {m s v0 v1 v2 v3} (hm : ([.regs, .links, .out, .evSeq, .dorm, .rings, .irq, .rate, .localQ, .exch, .ready, .mir, .power, .caps] : List Part) ⊆ m) (g0 : Frame m s v0) : Frame m s (linkCtrl v0 v1 v2 v3) := by
  unfold linkCtrl
  extract_lets -merge -underBinder +onlyGivenNames x0
  obtain ⟨y0, e0, h0⟩ := Frame.name (x := x0) (frame_State_setReg (sub hm (by decide)) g0)
  rw [e0]
  extract_lets -merge -underBinder +onlyGivenNames x1
  obtain ⟨y1, e1, h1⟩ := Frame.name (x := x1) (.ite h0 (frame_linkSetEnable (sub hm (by decide)) h0))
  rw [e1]
  extract_lets -merge -underBinder +onlyGivenNames x2
  obtain ⟨y2, e2, h2⟩ := Frame.name (x := x2) (.ite (frame_linkRetrainNow (sub hm (by decide)) h1) h1)
  rw [e2]
  exact (frame_wakeBusy (sub hm (by decide)) h2)

theorem frame_dpCtrl {m s v0 v1 v2} (hm : ([.scan, .evSeq, .out, .dorm, .rings, .regs, .irq, .rate, .localQ, .links, .exch] : List Part) ⊆ m) (g0 : Frame m s v0) : Frame m s (dpCtrl v0 v1 v2) := by
  unfold dpCtrl
  extract_lets -merge -underBinder +onlyGivenNames x0 x1
  obtain ⟨y1, e1, h1⟩ := Frame.name (x := x1) (.ite (frame_State_setDp (sub hm (by decide)) g0) g0)
  rw [e1]
  exact (.ite (frame_dpForce (sub hm (by decide)) h1) h1)

theorem frame_everyLane {m s v0 v1} (hm : ([] : List Part) ⊆ m) (g0 : Frame m s v0) (g1 : ∀ u0 u1 u2, Frame m s u0 → Frame m s (v1 u0 u1 u2)) : Frame m s (everyLane v0 v1) := by
  unfold everyLane
  refine Frame.foldl ?_ ?_
  · exact g0
  · intro x0 a0 h0
    refine Frame.foldl ?_ ?_
    · exact h0
    · intro x1 a1 h1
      exact g1 _ _ _ h1

theorem frame_cureParity {m s v0 v1} (hm : ([.parity, .pair] : List Part) ⊆ m) (g0 : Frame m s v0) : Frame m s (cureParity v0 v1) := by
  unfold cureParity
  refine Frame.ite ?_ ?_
  · extract_lets -merge -underBinder +onlyGivenNames x0 x1
    obtain ⟨y1, e1, h1⟩ := Frame.name (x := x1) (.parity (hm (by decide)) g0)
    rw [e1]
    exact (.ite (frame_State_untrigger (sub hm (by decide)) h1) h1)
  · exact g0

theorem frame_effectSys {m s v0 v1 v2 v3 v4 v5 v6} (hm : ([.regs, .sysCtl, .evSeq, .out, .dorm, .rings, .irq, .rate, .localQ, .links, .exch, .otp, .power, .boot, .mpu, .mgmt] : List Part) ⊆ m) (g0 : Frame m s v0) :
    ∀ t, effectSys v0 v1 v2 v3 v4 v5 v6 = some t → Frame m s t := by
  unfold effectSys
  refine Frame.optIte (frame_debugCtrl (sub hm (by decide)) g0) ?_
  refine Frame.optIte (frame_lifecycleAdv (sub hm (by decide)) g0) ?_
  refine Frame.optIte (frame_resetWrite (sub hm (by decide)) g0) ?_
  refine Frame.optIte (frame_bootChunk (sub hm (by decide)) g0) ?_
  refine Frame.optIte (frame_releaseCap (sub hm (by decide)) g0) ?_
  refine Frame.optIte (frame_mpuLoad (sub hm (by decide)) g0) ?_
  refine Frame.optIte (frame_releaseCap (sub hm (by decide)) g0) ?_
  refine Frame.optIte (frame_ringStart (sub hm (by decide)) (frame_State_setReg_any (sub hm (by decide)) g0)) ?_
  refine Frame.optIte (frame_coalNow (sub hm (by decide)) (frame_State_setReg_any (sub hm (by decide)) g0)) ?_
  refine Frame.optIte (frame_coalNow (sub hm (by decide)) (frame_State_setReg_any (sub hm (by decide)) g0)) ?_
  exact Frame.optNone

theorem frame_effectUnit {m s v0 v1 v2 v3 v4 v5} (hm : ([.regs, .sysCtl, .evSeq, .out, .dorm, .rings, .irq, .rate, .localQ, .links, .exch, .scan, .ready, .mir, .power, .caps, .domain, .lanes, .aon, .pair, .free, .mode, .commits, .inFlight, .dma, .done, .touch] : List Part) ⊆ m) (g0 : Frame m s v0) :
    ∀ t, effectUnit v0 v1 v2 v3 v4 v5 = some t → Frame m s t := by
  unfold effectUnit
  refine Frame.optIte (frame_releaseCap (sub hm (by decide)) g0) ?_
  refine Frame.optIte (frame_releaseCap (sub hm (by decide)) g0) ?_
  refine Frame.optIte (frame_releaseCap (sub hm (by decide)) g0) ?_
  refine Frame.optIte (frame_fumLockSet (sub hm (by decide)) g0) ?_
  refine Frame.optIte (frame_dpCtrl (sub hm (by decide)) g0) ?_
  refine Frame.optIte (frame_linkCtrl (sub hm (by decide)) g0) ?_
  refine Frame.optIte (Frame.ite g0 (frame_capsAll (sub hm (by decide)) (frame_State_setReg (sub hm (by decide)) g0))) ?_
  refine Frame.optIte (frame_domainWrite (sub hm (by decide)) g0) ?_
  refine Frame.optIte g0 ?_
  refine Frame.optIte (frame_releaseCap (sub hm (by decide)) g0) ?_
  refine Frame.optIte (frame_everyLane (sub hm (by decide)) (frame_State_setReg (sub hm (by decide)) g0) (fun _ _ _ h => frame_laneLowEye (sub hm (by decide)) h)) ?_
  refine Frame.optIte (frame_laneNewBound (sub hm (by decide)) (frame_State_setReg (sub hm (by decide)) g0)) ?_
  refine Frame.optIte (frame_laneCtrl (sub hm (by decide)) g0) ?_
  refine Frame.optIte (frame_aonClear (sub hm (by decide)) g0) ?_
  refine Frame.optIte (frame_pairCtrl (sub hm (by decide)) g0) ?_
  refine Frame.optIte (frame_wakeBusy (sub hm (by decide)) (frame_touchCtrl (sub hm (by decide)) g0)) ?_
  exact Frame.optNone

theorem frame_acceptWrite {m s v0 v1 v2 v3 v4 v5 v6 v7 v8} (hm : ([.regs, .sysCtl, .evSeq, .out, .dorm, .rings, .irq, .rate, .localQ, .links, .exch, .otp, .power, .boot, .mpu, .mgmt, .scan, .ready, .mir, .caps, .domain, .lanes, .aon, .pair, .free, .mode, .commits, .inFlight, .dma, .done, .touch, .parity] : List Part) ⊆ m) (g0 : Frame m s v0) :
    Frame m s (acceptWrite v0 v1 v2 v3 v4 v5 v6 v7 v8) := by
  unfold acceptWrite
  extract_lets -merge -underBinder +onlyGivenNames x1 x2
  have h1 : Frame m s x1 := Frame.ite (frame_cureParity (sub hm (by decide)) g0) g0
  have h2 : ∀ t, x2 = some t → Frame m s t := by
    intro t ht
    by_cases hc : v3 < 0x400000
    · exact frame_effectSys (sub hm (by decide)) h1 t ((if_pos hc).symm.trans ht)
    · exact frame_effectUnit (sub hm (by decide)) h1 t ((if_neg hc).symm.trans ht)
  clear_value x2
  split
  · exact h2 _ rfl
  · exact Frame.ite h1 (frame_State_setReg_any (sub hm (by decide)) h1)

theorem frame_writeWord {m s v0 v1 v2 v3 v4} (hm : ([.regs, .evSeq, .out, .dorm, .rings, .irq, .rate, .localQ, .links, .exch, .power, .caps, .mbx, .sysCtl, .otp, .boot, .mpu, .mgmt, .scan, .ready, .mir, .domain, .lanes, .aon, .pair, .free, .mode, .commits, .inFlight, .dma, .done, .touch, .parity] : List Part) ⊆ m) (g0 : Frame m s v0) : Frame m s (writeWord v0 v1 v2 v3 v4).1 := by
  unfold writeWord
  refine Frame.ite1 ?_ ?_
  · refine Frame.mk1 ?_
    exact g0
  · refine Frame.ite1 ?_ ?_
    · refine Frame.mk1 ?_
      exact (frame_State_mpuDeny (sub hm (by decide)) g0)
    · split
      · refine Frame.mk1 ?_
        exact g0
      · extract_lets -merge -underBinder +onlyGivenNames x0
        obtain ⟨y0, e0, h0⟩ := Frame.name (x := x0) (frame_touchUnit (sub hm (by decide)) g0)
        rw [e0]
        refine Frame.ite1 ?_ ?_
        · refine Frame.mk1 ?_
          exact (frame_selectItem (sub hm (by decide)) h0)
        · extract_lets -merge -underBinder +onlyGivenNames x1
          refine Frame.ite1 ?_ ?_
          · refine Frame.mk1 ?_
            exact h0
          · extract_lets -merge -underBinder +onlyGivenNames x2 x3
            split
            · refine Frame.mk1 ?_
              exact (frame_State_raf (sub hm (by decide)) h0)
            · refine Frame.mk1 ?_
              exact (frame_acceptWrite (sub hm (by decide)) h0)

theorem frame_msixRelease {m s v0 v1 v2} (hm : ([.irq, .out] : List Part) ⊆ m) (g0 : Frame m s v0) : Frame m s (msixRelease v0 v1 v2) := by
  unfold msixRelease
  exact (.ite (frame_State_emit (sub hm (by decide)) (.irq (hm (by decide)) g0)) g0)

theorem frame_msixWrite {m s v0 v1 v2 v3} (hm : ([.irq, .out] : List Part) ⊆ m) (g0 : Frame m s v0) : Frame m s (msixWrite v0 v1 v2 v3) := by
  unfold msixWrite
  exact (frame_msixRelease (sub hm (by decide)) (.irq (hm (by decide)) g0))

theorem frame_regWrite {m s v0 v1 v2 v3 v4 v5 v6} (hm : ([.regs, .evSeq, .out, .dorm, .rings, .irq, .rate, .localQ, .links, .exch, .boot, .free, .power, .caps, .mbx, .sysCtl, .otp, .mpu, .mgmt, .scan, .ready, .mir, .domain, .lanes, .aon, .pair, .mode, .commits, .inFlight, .dma, .done, .touch, .parity] : List Part) ⊆ m) (g0 : Frame m s v0) : Frame m s (regWrite v0 v1 v2 v3 v4 v5 v6).1 := by
  unfold regWrite
  refine Frame.ite1 ?_ ?_
  · refine Frame.mk1 ?_
    exact g0
  · refine Frame.ite1 ?_ ?_
    · refine Frame.mk1 ?_
      exact (frame_bootWrite (sub hm (by decide)) g0)
    · refine Frame.ite1 ?_ ?_
      · refine Frame.mk1 ?_
        exact (frame_State_raf (sub hm (by decide)) g0)
      · refine Frame.ite1 ?_ ?_
        · refine frame_writeWord (sub hm (by decide)) ?_
          exact g0
        · split
          rename_i x0 y0_1 e0
          have h0 : Frame m s x0 := Frame.of_1 e0 (by
            refine frame_writeWord (sub hm (by decide)) ?_
            exact g0)
          split
          rename_i x1 y1_1 e1
          have h1 : Frame m s x1 := Frame.of_1 e1 (by
            refine frame_writeWord (sub hm (by decide)) ?_
            exact h0)
          refine Frame.mk1 ?_
          exact h1

theorem frame_regWrite32 {m s v0 v1 v2 v3} (hm : ([.regs, .evSeq, .out, .dorm, .rings, .irq, .rate, .localQ, .links, .exch, .boot, .free, .power, .caps, .mbx, .sysCtl, .otp, .mpu, .mgmt, .scan, .ready, .mir, .domain, .lanes, .aon, .pair, .mode, .commits, .inFlight, .dma, .done, .touch, .parity] : List Part) ⊆ m) (g0 : Frame m s v0) : Frame m s (regWrite32 v0 v1 v2 v3) := by
  unfold regWrite32
  refine frame_regWrite (sub hm (by decide)) ?_
  exact g0

theorem frame_doLatch {m s v0 v1 v2} (hm : ([.mbx] : List Part) ⊆ m) (g0 : Frame m s v0) : Frame m s (doLatch v0 v1 v2) := by
  unfold doLatch
  split
  · exact g0
  · refine Frame.ite ?_ ?_
    · exact g0
    · extract_lets -merge -underBinder +onlyGivenNames x0
      split
      · exact (frame_State_setMbx (sub hm (by decide)) g0)
      · exact (.ite (frame_State_setMbx (sub hm (by decide)) g0) (frame_State_setMbx (sub hm (by decide)) g0))

theorem frame_doorbellWrite {m s v0 v1 v2 v3 v4} (hm : ([.regs, .dormDb, .rate, .evSeq, .out, .dorm, .rings, .irq, .localQ, .links, .exch, .free] : List Part) ⊆ m) (g0 : Frame m s v0) : Frame m s (doorbellWrite v0 v1 v2 v3 v4) := by
  unfold doorbellWrite
  exact (.ite g0 (.ite (.ite (frame_State_bump (sub hm (by decide)) g0) g0) (.ite (frame_sqDoorbell (sub hm (by decide)) g0) (.ite (frame_cqDoorbell (sub hm (by decide)) g0) (frame_evqDoorbell (sub hm (by decide)) g0)))))

theorem frame_windowRequest {m s v0 v1 v2 v3 v4 v5 v6} (hm : ([.evSeq, .out, .dorm, .rings, .regs, .irq, .rate, .localQ, .links, .exch, .mgmt] : List Part) ⊆ m) (g0 : Frame m s v0) : Frame m s (windowRequest v0 v1 v2 v3 v4 v5 v6) := by
  unfold windowRequest
  extract_lets -merge -underBinder +onlyGivenNames x0 x1 x2 x3
  exact (frame_mgmtIssue (sub hm (by decide)) (fun _ _ _ h => frame_State_raise (sub hm (by decide)) h) g0)

theorem frame_msixAllowed {m s v0 v1 v2 v3} (hm : ([.regs, .evSeq, .out, .dorm, .rings, .irq, .rate, .localQ, .links, .exch] : List Part) ⊆ m) (g0 : Frame m s v0) : Frame m s (msixAllowed v0 v1 v2 v3).1 := by
  unfold msixAllowed
  extract_lets -merge -underBinder +onlyGivenNames x0
  refine Frame.ite1 ?_ ?_
  · refine Frame.mk1 ?_
    exact g0
  · refine Frame.mk1 ?_
    exact (frame_State_mpuDeny (sub hm (by decide)) g0)

theorem frame_msixLoad {m s v0 v1 v2} (hm : ([.regs, .evSeq, .out, .dorm, .rings, .irq, .rate, .localQ, .links, .exch] : List Part) ⊆ m) (g0 : Frame m s v0) : Frame m s (msixLoad v0 v1 v2).2 := by
  unfold msixLoad
  split
  rename_i x0 y0_1 e0
  have h0 : Frame m s x0 := Frame.of_1 e0 (by
    refine frame_msixAllowed (sub hm (by decide)) ?_
    exact g0)
  refine Frame.mk2 ?_
  exact h0

theorem frame_msixStore {m s v0 v1 v2 v3} (hm : ([.regs, .evSeq, .out, .dorm, .rings, .irq, .rate, .localQ, .links, .exch] : List Part) ⊆ m) (g0 : Frame m s v0) : Frame m s (msixStore v0 v1 v2 v3) := by
  unfold msixStore
  split
  rename_i x0 y0_1 e0
  have h0 : Frame m s x0 := Frame.of_1 e0 (by
    refine frame_msixAllowed (sub hm (by decide)) ?_
    exact g0)
  exact (.ite h0 (frame_msixWrite (sub hm (by decide)) h0))

theorem frame_localRead {m s v0 v1 v2 v3 v4} (hm : ([.regs, .evSeq, .out, .dorm, .rings, .irq, .rate, .localQ, .links, .exch, .power, .caps, .free] : List Part) ⊆ m) (g0 : Frame m s v0) : Frame m s (localRead v0 v1 v2 v3 v4).2 := by
  unfold localRead
  refine Frame.ite2 ?_ ?_
  · refine Frame.ite2 ?_ ?_
    · refine Frame.mk2 ?_
      exact g0
    · split
      rename_i y0_0 x0 e0
      have h0 : Frame m s x0 := Frame.of_2 e0 (by
        refine frame_msixLoad (sub hm (by decide)) ?_
        exact g0)
      refine Frame.ite2 ?_ ?_
      · split
        rename_i y1_0 x1 e1
        have h1 : Frame m s x1 := Frame.of_2 e1 (by
          refine frame_msixLoad (sub hm (by decide)) ?_
          exact h0)
        refine Frame.mk2 ?_
        exact h1
      · refine Frame.mk2 ?_
        exact h0
  · split
    rename_i y2_0 x2 y2_2 e2
    have h2 : Frame m s x2 := Frame.of_2_1 e2 (by
      refine frame_regRead (sub hm (by decide)) ?_
      exact g0)
    refine Frame.mk2 ?_
    exact h2

theorem frame_localWrite {m s v0 v1 v2 v3 v4 v5} (hm : ([.regs, .evSeq, .out, .dorm, .rings, .irq, .rate, .localQ, .links, .exch, .boot, .free, .power, .caps, .mbx, .sysCtl, .otp, .mpu, .mgmt, .scan, .ready, .mir, .domain, .lanes, .aon, .pair, .mode, .commits, .inFlight, .dma, .done, .touch, .parity] : List Part) ⊆ m) (g0 : Frame m s v0) : Frame m s (localWrite v0 v1 v2 v3 v4 v5) := by
  unfold localWrite
  refine Frame.ite ?_ ?_
  · refine Frame.ite ?_ ?_
    · exact g0
    · extract_lets -merge -underBinder +onlyGivenNames x0
      obtain ⟨y0, e0, h0⟩ := Frame.name (x := x0) (frame_msixStore (sub hm (by decide)) g0)
      rw [e0]
      exact (.ite (frame_msixStore (sub hm (by decide)) h0) h0)
  · refine frame_regWrite (sub hm (by decide)) ?_
    exact g0

theorem frame_regRequest {m s v0 v1 v2 v3 v4 v5} (hm : ([.regs, .evSeq, .out, .dorm, .rings, .irq, .rate, .localQ, .links, .exch, .boot, .free, .power, .caps, .mbx, .sysCtl, .otp, .mpu, .mgmt, .scan, .ready, .mir, .domain, .lanes, .aon, .pair, .mode, .commits, .inFlight, .dma, .done, .touch, .parity] : List Part) ⊆ m) (g0 : Frame m s v0) : Frame m s (regRequest v0 v1 v2 v3 v4 v5) := by
  unfold regRequest
  extract_lets -merge -underBinder +onlyGivenNames x0 x1
  refine Frame.ite ?_ ?_
  · extract_lets -merge -underBinder +onlyGivenNames x2
    refine Frame.ite ?_ ?_
    · exact (frame_localWrite (sub hm (by decide)) g0)
    · refine frame_regWrite (sub hm (by decide)) ?_
      exact g0
  · refine Frame.ite ?_ ?_
    · split
      rename_i y3_0 x3 e3
      have h3 : Frame m s x3 := Frame.of_2 e3 (by
        refine frame_localRead (sub hm (by decide)) ?_
        exact g0)
      exact (frame_State_emit (sub hm (by decide)) h3)
    · split
      rename_i y4_0 x4 y4_2 e4
      have h4 : Frame m s x4 := Frame.of_2_1 e4 (by
        refine frame_regRead (sub hm (by decide)) ?_
        exact g0)
      exact (frame_State_emit (sub hm (by decide)) h4)

theorem frame_doMasterRequest {m s v0 v1 v2 v3 v4 v5} (hm : ([.regs, .evSeq, .out, .dorm, .rings, .irq, .rate, .localQ, .links, .exch, .boot, .free, .power, .caps, .mbx, .sysCtl, .otp, .mpu, .mgmt, .scan, .ready, .mir, .domain, .lanes, .aon, .pair, .mode, .commits, .inFlight, .dma, .done, .touch, .parity, .dram, .mem, .chans] : List Part) ⊆ m) (g0 : Frame m s v0) : Frame m s (doMasterRequest v0 v1 v2 v3 v4 v5) := by
  unfold doMasterRequest
  exact (.ite (frame_regRequest (sub hm (by decide)) g0) (frame_doMemRequest (sub hm (by decide)) g0))

theorem frame_pcieAnswer {m s v0 v1 v2 v3} (hm : ([.out] : List Part) ⊆ m) (g0 : Frame m s v0) : Frame m s (pcieAnswer v0 v1 v2 v3) := by
  unfold pcieAnswer
  exact (frame_State_emit (sub hm (by decide)) g0)

theorem frame_windowAccess {m s v0 v1 v2 v3 v4 v5 v6 v7 v8} (hm : ([.regs, .evSeq, .out, .dorm, .rings, .irq, .rate, .localQ, .links, .exch, .boot, .free, .power, .caps, .mbx, .sysCtl, .otp, .mpu, .mgmt, .scan, .ready, .mir, .domain, .lanes, .aon, .pair, .mode, .commits, .inFlight, .dma, .done, .touch, .parity] : List Part) ⊆ m) (g0 : Frame m s v0) : Frame m s (windowAccess v0 v1 v2 v3 v4 v5 v6 v7 v8) := by
  unfold windowAccess
  refine Frame.ite ?_ ?_
  · refine Frame.ite ?_ ?_
    · exact (frame_localWrite (sub hm (by decide)) g0)
    · split
      rename_i y0_0 x0 e0
      have h0 : Frame m s x0 := Frame.of_2 e0 (by
        refine frame_localRead (sub hm (by decide)) ?_
        exact g0)
      exact (frame_pcieAnswer (sub hm (by decide)) h0)
  · refine Frame.ite ?_ ?_
    · exact (.ite g0 (frame_pcieAnswer (sub hm (by decide)) g0))
    · refine Frame.ite ?_ ?_
      · refine Frame.ite ?_ ?_
        · refine frame_regWrite (sub hm (by decide)) ?_
          exact g0
        · split
          rename_i y1_0 x1 y1_2 e1
          have h1 : Frame m s x1 := Frame.of_2_1 e1 (by
            refine frame_regRead (sub hm (by decide)) ?_
            exact g0)
          exact (frame_pcieAnswer (sub hm (by decide)) h1)
      · refine Frame.ite ?_ ?_
        · extract_lets -merge -underBinder +onlyGivenNames x2
          obtain ⟨y2, e2, h2⟩ := Frame.name (x := x2) (frame_State_raf (sub hm (by decide)) g0)
          rw [e2]
          exact (.ite h2 (frame_pcieAnswer (sub hm (by decide)) h2))
        · exact (.ite (frame_windowRequest (sub hm (by decide)) g0) (frame_windowRequest (sub hm (by decide)) g0))

theorem frame_pageAccess {m s v0 v1 v2 v3 v4 v5 v6 v7 v8} (hm : ([.out, .regs, .dormDb, .rate, .evSeq, .dorm, .rings, .irq, .localQ, .links, .exch, .free, .mgmt] : List Part) ⊆ m) (g0 : Frame m s v0) : Frame m s (pageAccess v0 v1 v2 v3 v4 v5 v6 v7 v8) := by
  unfold pageAccess
  extract_lets -merge -underBinder +onlyGivenNames x0
  exact (.ite (frame_pcieAnswer (sub hm (by decide)) g0) (.ite (frame_doorbellWrite (sub hm (by decide)) g0) (.ite (.ite (frame_holdDoorbell (sub hm (by decide)) g0) g0) (.ite g0 (.ite (frame_State_bump (sub hm (by decide)) g0) (.ite (frame_evqDoorbell (sub hm (by decide)) g0) (frame_windowRequest (sub hm (by decide)) g0)))))))

theorem frame_doWindowAccess {m s v0 v1 v2 v3 v4 v5 v6 v7} (hm : ([.out, .regs, .dormDb, .rate, .evSeq, .dorm, .rings, .irq, .localQ, .links, .exch, .free, .mgmt, .boot, .power, .caps, .mbx, .sysCtl, .otp, .mpu, .scan, .ready, .mir, .domain, .lanes, .aon, .pair, .mode, .commits, .inFlight, .dma, .done, .touch, .parity] : List Part) ⊆ m) (g0 : Frame m s v0) : Frame m s (doWindowAccess v0 v1 v2 v3 v4 v5 v6 v7) := by
  unfold doWindowAccess
  exact (.ite g0 (.ite (.ite (frame_pageAccess (sub hm (by decide)) g0) g0) (.ite (frame_windowAccess (sub hm (by decide)) g0) g0)))

theorem frame_domainRequest {m s v0 v1 v2 v3} (hm : ([.rate, .evSeq, .out, .dorm, .rings, .regs, .irq, .localQ, .links, .exch, .domain, .parity, .pair] : List Part) ⊆ m) (g0 : Frame m s v0) : Frame m s (domainRequest v0 v1 v2 v3).1 := by
  unfold domainRequest
  refine Frame.ite1 ?_ ?_
  · split
    rename_i x0 y0_1 e0
    have h0 : Frame m s x0 := Frame.of_1 e0 (by
      refine frame_domainWrite (sub hm (by decide)) ?_
      exact g0)
    refine Frame.mk1 ?_
    exact (.ite (frame_cureParity (sub hm (by decide)) h0) h0)
  · refine Frame.mk1 ?_
    exact (frame_State_mpuDeny (sub hm (by decide)) g0)

theorem frame_mgmtWriteWord {m s v0 v1 v2 v3 v4} (hm : ([.rate, .evSeq, .out, .dorm, .rings, .regs, .irq, .localQ, .links, .exch, .domain, .parity, .pair, .boot, .free, .power, .caps, .mbx, .sysCtl, .otp, .mpu, .mgmt, .scan, .ready, .mir, .lanes, .aon, .mode, .commits, .inFlight, .dma, .done, .touch] : List Part) ⊆ m) (g0 : Frame m s v0) : Frame m s (mgmtWriteWord v0 v1 v2 v3 v4).1 := by
  unfold mgmtWriteWord
  refine Frame.ite1 ?_ ?_
  · refine frame_domainRequest (sub hm (by decide)) ?_
    exact g0
  · split
    rename_i x0 y0_1 e0
    have h0 : Frame m s x0 := Frame.of_1 e0 (by
      refine frame_regWrite (sub hm (by decide)) ?_
      exact g0)
    refine Frame.mk1 ?_
    exact h0

theorem frame_mgmtExecute {m s v0 v1} (hm : ([.rate, .evSeq, .out, .dorm, .rings, .regs, .irq, .localQ, .links, .exch, .power, .caps, .free, .domain, .parity, .pair, .boot, .mbx, .sysCtl, .otp, .mpu, .mgmt, .scan, .ready, .mir, .lanes, .aon, .mode, .commits, .inFlight, .dma, .done, .touch, .dormDb] : List Part) ⊆ m) (g0 : Frame m s v0) : Frame m s (mgmtExecute v0 v1).1 := by
  unfold mgmtExecute
  extract_lets -merge -underBinder +onlyGivenNames x0 x1 x2 x3 x4 x5 x6 x7 x8
  refine Frame.ite1 ?_ ?_
  · refine Frame.mk1 ?_
    exact g0
  · refine Frame.ite1 ?_ ?_
    · refine Frame.mk1 ?_
      exact (frame_domainDenied (sub hm (by decide)) g0)
    · clear_value x1
      split
      · refine Frame.ite1 ?_ ?_
        · refine Frame.mk1 ?_
          exact g0
        · split
          rename_i y9_0 x9 y9_2 e9
          have h9 : Frame m s x9 := Frame.of_2_1 e9 (by
            refine frame_regRead (sub hm (by decide)) ?_
            exact g0)
          refine Frame.mk1 ?_
          exact h9
      · refine Frame.ite1 ?_ ?_
        · refine Frame.mk1 ?_
          exact g0
        · refine Frame.ite1 ?_ ?_
          · split
            rename_i x10 y10_1 e10
            have h10 : Frame m s x10 := Frame.of_1 e10 (by
              refine frame_mgmtWriteWord (sub hm (by decide)) ?_
              exact g0)
            refine Frame.mk1 ?_
            exact h10
          · refine Frame.ite1 ?_ ?_
            · split
              rename_i x11 y11_1 e11
              have h11 : Frame m s x11 := Frame.of_1 e11 (by
                refine frame_mgmtWriteWord (sub hm (by decide)) ?_
                exact g0)
              split
              rename_i x12 y12_1 e12
              have h12 : Frame m s x12 := Frame.of_1 e12 (by
                refine frame_mgmtWriteWord (sub hm (by decide)) ?_
                exact h11)
              refine Frame.mk1 ?_
              exact h12
            · refine Frame.mk1 ?_
              refine frame_regWrite (sub hm (by decide)) ?_
              exact g0
      · refine Frame.ite1 ?_ ?_
        · refine Frame.mk1 ?_
          exact g0
        · refine Frame.mk1 ?_
          exact (frame_doorbellWrite (sub hm (by decide)) g0)
      · refine Frame.ite1 ?_ ?_
        · split
          rename_i y13_0 x13 e13
          have h13 : Frame m s x13 := Frame.of_2 e13 (by
            refine frame_freeBytes (sub hm (by decide)) ?_
            exact g0)
          refine Frame.mk1 ?_
          exact (frame_State_emit (sub hm (by decide)) h13)
        · refine Frame.mk1 ?_
          exact g0
      · refine Frame.ite1 ?_ ?_
        · refine Frame.ite1 ?_ ?_
          · refine Frame.mk1 ?_
            exact (frame_msixSignal (sub hm (by decide)) g0)
          · refine Frame.mk1 ?_
            exact (frame_State_emit (sub hm (by decide)) g0)
        · refine Frame.mk1 ?_
          exact g0

theorem frame_doMgmtRequest {m s v0 v1 v2} (hm : ([.localQ, .evSeq, .out, .dorm, .rings, .regs, .irq, .rate, .links, .exch, .power, .caps, .free, .domain, .parity, .pair, .boot, .mbx, .sysCtl, .otp, .mpu, .mgmt, .scan, .ready, .mir, .lanes, .aon, .mode, .commits, .inFlight, .dma, .done, .touch, .dormDb] : List Part) ⊆ m) (g0 : Frame m s v0) : Frame m s (doMgmtRequest v0 v1 v2) := by
  unfold doMgmtRequest
  extract_lets -merge -underBinder +onlyGivenNames x0
  obtain ⟨y0, e0, h0⟩ := Frame.name (x := x0) (frame_takeLocal (sub hm (by decide)) g0)
  rw [e0]
  extract_lets -merge -underBinder +onlyGivenNames x1 x2 x3 x4
  split
  · refine Frame.ite ?_ ?_
    · split
      rename_i x5 y5_1 y5_2 e5
      have h5 : Frame m s x5 := Frame.of_1 e5 (by
        refine frame_mgmtExecute (sub hm (by decide)) ?_
        exact h0)
      extract_lets -merge -underBinder +onlyGivenNames x6
      exact (frame_State_routePkt (sub hm (by decide)) (.mgmt (hm (by decide)) h5))
    · exact (frame_State_routePkt (sub hm (by decide)) h0)
  · refine Frame.ite ?_ ?_
    · exact h0
    · split
      rename_i x7 y7_1 y7_2 e7
      have h7 : Frame m s x7 := Frame.of_1 e7 (by
        refine frame_mgmtExecute (sub hm (by decide)) ?_
        exact h0)
      extract_lets -merge -underBinder +onlyGivenNames x8 x9 x10
      exact (frame_State_routePkt (sub hm (by decide)) (.mgmt (hm (by decide)) h7))

theorem frame_dropWork {m s v0 v1} (hm : ([.fum, .dec, .encs, .cmp] : List Part) ⊆ m) (g0 : Frame m s v0) : Frame m s (dropWork v0 v1) := by
  unfold dropWork
  exact (Frame.upd g0 (fun p => by cases p; (case fum | dec | encs | cmp => exact .inl (hm (by decide))); all_goals first | exact .inr rfl | exact .inr (fun _ _ _ => rfl) | exact .inr ⟨rfl, rfl⟩ | exact .inr ⟨rfl, rfl, rfl⟩ | exact .inr ⟨rfl, rfl, rfl, rfl⟩))

theorem frame_readerAnswer {m s v0 v1 v2} (hm : ([.out, .dap] : List Part) ⊆ m) (g0 : Frame m s v0) : Frame m s (readerAnswer v0 v1 v2) := by
  unfold readerAnswer
  refine Frame.ite ?_ ?_
  · extract_lets -merge -underBinder +onlyGivenNames x0 x1
    exact (.ite (.dap (hm (by decide)) g0) (.dap (hm (by decide)) g0))
  · exact (frame_State_emit (sub hm (by decide)) g0)

theorem frame_dmaFailed {m s v0 v1} (hm : ([.fum, .dec, .encs, .cmp, .inFlight, .dma, .done, .mir, .regs, .evSeq, .out, .dorm, .rings, .irq, .rate, .localQ, .links, .exch, .mem, .dram, .dap] : List Part) ⊆ m) (g0 : Frame m s v0) : Frame m s (dmaFailed v0 v1) := by
  unfold dmaFailed
  split
  · refine Frame.ite ?_ ?_
    · extract_lets -merge -underBinder +onlyGivenNames x0
      obtain ⟨y0, e0, h0⟩ := Frame.name (x := x0) (frame_abortJob (sub hm (by decide)) (frame_dropWork (sub hm (by decide)) g0))
      rw [e0]
      exact (.ite (frame_pumpFeeds (sub hm (by decide)) h0) h0)
    · exact g0
  · exact (frame_readerAnswer (sub hm (by decide)) g0)
  · exact g0

theorem frame_resumeWith {m s v0 v1 v2} (hm : ([.fum, .dec, .encs, .cmp, .inFlight, .dma, .done, .mir, .regs, .evSeq, .out, .dorm, .rings, .irq, .rate, .localQ, .links, .exch, .mem, .dram, .caps, .surf, .aon] : List Part) ⊆ m) (g0 : Frame m s v0) : Frame m s (resumeWith v0 v1 v2) := by
  unfold resumeWith
  refine Frame.ite ?_ ?_
  · exact (frame_abortJob (sub hm (by decide)) (frame_dropWork (sub hm (by decide)) g0))
  · split
    · exact (frame_feedHere (sub hm (by decide)) g0)
    · exact (frame_capLoad (sub hm (by decide)) g0)
    · exact (frame_loadBlocks (sub hm (by decide)) g0)
    · exact (frame_slateCopy (sub hm (by decide)) g0)
    · exact (frame_routeLoad (sub hm (by decide)) g0)
    · exact (frame_panelLoad (sub hm (by decide)) g0)
    · exact (frame_memCopyIn (sub hm (by decide)) g0)
    · exact (frame_State_finish (sub hm (by decide)) g0)

theorem frame_resumeDma {m s v0 v1} (hm : ([.inFlight, .dma, .done, .mir, .regs, .evSeq, .out, .dorm, .rings, .irq, .rate, .localQ, .links, .exch, .fum, .dec, .encs, .cmp, .mem, .dram, .caps, .surf, .aon] : List Part) ⊆ m) (g0 : Frame m s v0) : Frame m s (resumeDma v0 v1) := by
  unfold resumeDma
  split
  · exact (frame_State_finish (sub hm (by decide)) g0)
  · exact (frame_resumeWith (sub hm (by decide)) (.dma (hm (by decide)) g0))

theorem frame_dmaAnswer {m s v0 v1 v2} (hm : ([.out, .dap, .dma, .inFlight, .done, .mir, .regs, .evSeq, .dorm, .rings, .irq, .rate, .localQ, .links, .exch, .fum, .dec, .encs, .cmp, .mem, .dram, .caps, .surf, .aon] : List Part) ⊆ m) (g0 : Frame m s v0) : Frame m s (dmaAnswer v0 v1 v2) := by
  unfold dmaAnswer
  split
  · exact g0
  · exact (frame_readerAnswer (sub hm (by decide)) g0)
  · extract_lets -merge -underBinder +onlyGivenNames x0 x1
    obtain ⟨y1, e1, h1⟩ := Frame.name (x := x1) (.ite (.dma (hm (by decide)) g0) g0)
    rw [e1]
    refine Frame.ite ?_ ?_
    · exact h1
    · refine Frame.foldl ?_ ?_
      · exact h1
      · intro x2 a2 h2
        exact (frame_resumeDma (sub hm (by decide)) h2)

theorem frame_pumpRequests {m s v0 v1} (hm : ([.evSeq, .out, .dorm, .rings, .regs, .irq, .rate, .localQ, .links, .exch, .mgmt] : List Part) ⊆ m) (g0 : Frame m s v0) : Frame m s (pumpRequests v0 v1) := by
  unfold pumpRequests
  extract_lets -merge -underBinder +onlyGivenNames x0
  split
  · exact (.ite (frame_mgmtIssue (sub hm (by decide)) (fun _ _ _ h => frame_State_raise (sub hm (by decide)) h) (frame_State_setRequester (sub hm (by decide)) g0)) g0)
  · exact g0

theorem frame_doResp {m s v0 v1 v2} (hm : ([.localQ, .mgmt, .regs, .out, .fum, .dec, .encs, .cmp, .inFlight, .dma, .done, .mir, .evSeq, .dorm, .rings, .irq, .rate, .links, .exch, .mem, .dram, .dap, .caps, .surf, .aon] : List Part) ⊆ m) (g0 : Frame m s v0) : Frame m s (doResp v0 v1 v2) := by
  unfold doResp
  extract_lets -merge -underBinder +onlyGivenNames x0
  obtain ⟨y0, e0, h0⟩ := Frame.name (x := x0) (frame_takeLocal (sub hm (by decide)) g0)
  rw [e0]
  split
  · exact h0
  · extract_lets -merge -underBinder +onlyGivenNames x1 x2
    obtain ⟨y2, e2, h2⟩ := Frame.name (x := x2) (frame_State_setRequester (sub hm (by decide)) h0)
    rw [e2]
    extract_lets -merge -underBinder +onlyGivenNames x3 x4 x5
    obtain ⟨y5, e5, h5⟩ := Frame.name (x := x5) (.ite (frame_State_bump (sub hm (by decide)) h2) h2)
    rw [e5]
    extract_lets -merge -underBinder +onlyGivenNames x6
    obtain ⟨y6, e6, h6⟩ := Frame.name (x := x6) (.ite (.ite (frame_pcieAnswer (sub hm (by decide)) h5) h5) (.ite (frame_dmaFailed (sub hm (by decide)) h2) (frame_dmaAnswer (sub hm (by decide)) h2)))
    rw [e6]
    exact (frame_pumpRequests (sub hm (by decide)) h6)

theorem frame_requestFailed {m s v0 v1} (hm : ([.fum, .dec, .encs, .cmp, .inFlight, .dma, .done, .mir, .regs, .evSeq, .out, .dorm, .rings, .irq, .rate, .localQ, .links, .exch, .mem, .dram, .dap] : List Part) ⊆ m) (g0 : Frame m s v0) : Frame m s (requestFailed v0 v1) := by
  unfold requestFailed
  refine Frame.ite ?_ ?_
  · exact (frame_dmaFailed (sub hm (by decide)) g0)
  · extract_lets -merge -underBinder +onlyGivenNames x0
    obtain ⟨y0, e0, h0⟩ := Frame.name (x := x0) (frame_State_bump (sub hm (by decide)) g0)
    rw [e0]
    extract_lets -merge -underBinder +onlyGivenNames x1
    obtain ⟨y1, e1, h1⟩ := Frame.name (x := x1) (.ite h0 (frame_State_setReg (sub hm (by decide)) (frame_State_setReg (sub hm (by decide)) h0)))
    rw [e1]
    extract_lets -merge -underBinder +onlyGivenNames x2
    obtain ⟨y2, e2, h2⟩ := Frame.name (x := x2) (frame_State_raise (sub hm (by decide)) h1)
    rw [e2]
    exact (.ite (frame_pcieAnswer (sub hm (by decide)) h2) h2)

theorem frame_resendAll {m s v0 v1} (hm : ([.mgmt, .evSeq, .out, .dorm, .rings, .regs, .irq, .rate, .localQ, .links, .exch] : List Part) ⊆ m) (g0 : Frame m s v0) : Frame m s (resendAll v0 v1) := by
  unfold resendAll
  extract_lets -merge -underBinder +onlyGivenNames x0 x1
  refine Frame.foldl ?_ ?_
  · exact (frame_State_setRequester (sub hm (by decide)) g0)
  · intro x2 a2 h2
    exact (frame_State_routePkt (sub hm (by decide)) h2)

theorem frame_doRetryTimeout {m s v0 v1} (hm : ([.mgmt, .evSeq, .out, .dorm, .rings, .regs, .irq, .rate, .localQ, .links, .exch, .fum, .dec, .encs, .cmp, .inFlight, .dma, .done, .mir, .mem, .dram, .dap] : List Part) ⊆ m) (g0 : Frame m s v0) : Frame m s (doRetryTimeout v0 v1) := by
  unfold doRetryTimeout
  extract_lets -merge -underBinder +onlyGivenNames x0
  split
  · exact g0
  · refine Frame.ite ?_ ?_
    · exact (frame_resendAll (sub hm (by decide)) g0)
    · extract_lets -merge -underBinder +onlyGivenNames x1 x2 x3
      obtain ⟨y3, e3, h3⟩ := Frame.name (x := x3) (frame_requestFailed (sub hm (by decide)) (frame_State_setRequester (sub hm (by decide)) g0))
      rw [e3]
      exact (frame_pumpRequests (sub hm (by decide)) (frame_resendAll (sub hm (by decide)) h3))

theorem frame_gapRecord {m s v0 v1 v2 v3} (hm : ([.evSeq, .out, .rings, .regs, .irq] : List Part) ⊆ m) (g0 : Frame m s v0) : Frame m s (gapRecord v0 v1 v2 v3) := by
  unfold gapRecord
  extract_lets -merge -underBinder +onlyGivenNames x0 x1 x2
  obtain ⟨y2, e2, h2⟩ := Frame.name (x := x2) (frame_State_emit (sub hm (by decide)) (.evSeq (hm (by decide)) g0))
  rw [e2]
  refine Frame.foldl ?_ ?_
  · exact h2
  · intro x3 a3 h3
    exact (.ite h3 (frame_evqWrite (sub hm (by decide)) h3))

theorem frame_doEventPacket {m s v0 v1} (hm : ([.localQ, .evSeqs, .evSeq, .out, .rings, .regs, .irq] : List Part) ⊆ m) (g0 : Frame m s v0) : Frame m s (doEventPacket v0 v1) := by
  unfold doEventPacket
  extract_lets -merge -underBinder +onlyGivenNames x0
  obtain ⟨y0, e0, h0⟩ := Frame.name (x := x0) (frame_takeLocal (sub hm (by decide)) g0)
  rw [e0]
  refine Frame.ite ?_ ?_
  · exact h0
  · extract_lets -merge -underBinder +onlyGivenNames x1
    refine Frame.ite ?_ ?_
    · exact h0
    · extract_lets -merge -underBinder +onlyGivenNames x2 x3
      obtain ⟨y3, e3, h3⟩ := Frame.name (x := x3) (.evSeqs (hm (by decide)) h0)
      rw [e3]
      split
      · exact h3
      · exact (frame_evqDeliver (sub hm (by decide)) (.ite h3 (frame_gapRecord (sub hm (by decide)) h3)))

theorem frame_dapDone {m s v0 v1 v2 v3} (hm : ([.dap] : List Part) ⊆ m) (g0 : Frame m s v0) : Frame m s (dapDone v0 v1 v2 v3) := by
  unfold dapDone
  exact (.dap (hm (by decide)) g0)

theorem frame_dapMemRead {m s v0 v1 v2} (hm : ([.regs, .rate, .evSeq, .out, .dorm, .rings, .irq, .localQ, .links, .exch, .free, .mgmt] : List Part) ⊆ m) (g0 : Frame m s v0) : Frame m s (dapMemRead v0 v1 v2).2 := by
  unfold dapMemRead
  refine Frame.ite2 ?_ ?_
  · split
    rename_i y0_0 x0 e0
    have h0 : Frame m s x0 := Frame.of_2 e0 (by
      refine Frame.foldl2 ?_ ?_
      · refine Frame.mk2 ?_
        exact g0
      · intro x1 a1 h1
        split
        split
        refine Frame.ite2 ?_ ?_
        · refine Frame.mk2 ?_
          exact h1
        · refine Frame.mk2 ?_
          exact (frame_State_addrFault (sub hm (by decide)) h1))
    refine Frame.mk2 ?_
    exact h0
  · refine Frame.ite2 ?_ ?_
    · refine frame_State_masterRead (sub hm (by decide)) ?_
      exact g0
    · refine Frame.mk2 ?_
      exact g0

theorem frame_dapMemWrite {m s v0 v1 v2} (hm : ([.evSeq, .out, .dorm, .rings, .regs, .irq, .rate, .localQ, .links, .exch, .mgmt, .mem] : List Part) ⊆ m) (g0 : Frame m s v0) : Frame m s (dapMemWrite v0 v1 v2) := by
  unfold dapMemWrite
  refine Frame.ite ?_ ?_
  · refine Frame.foldl ?_ ?_
    · exact g0
    · intro x0 a0 h0
      split
      exact (.ite (.mem (hm (by decide)) h0) (frame_State_addrFault (sub hm (by decide)) h0))
  · exact (.ite (frame_State_hostWrite (sub hm (by decide)) g0) g0)

theorem frame_dapWaits {m s v0} (hm : ([.dap] : List Part) ⊆ m) (g0 : Frame m s v0) : Frame m s (dapWaits v0) := by
  unfold dapWaits
  exact (.dap (hm (by decide)) g0)

theorem frame_dapRead {m s v0 v1 v2} (hm : ([.dap, .regs, .evSeq, .out, .dorm, .rings, .irq, .rate, .localQ, .links, .exch, .power, .caps, .free, .mgmt] : List Part) ⊆ m) (g0 : Frame m s v0) : Frame m s (dapRead v0 v1 v2) := by
  unfold dapRead
  extract_lets -merge -underBinder +onlyGivenNames x0
  refine Frame.ite ?_ ?_
  · exact (frame_dapDone (sub hm (by decide)) g0)
  · refine Frame.ite ?_ ?_
    · split
      rename_i y1_0 x1 y1_2 e1
      have h1 : Frame m s x1 := Frame.of_2_1 e1 (by
        refine frame_regRead (sub hm (by decide)) ?_
        exact g0)
      exact (frame_dapDone (sub hm (by decide)) h1)
    · refine Frame.ite ?_ ?_
      · exact (frame_dapDone (sub hm (by decide)) (frame_State_mpuDeny (sub hm (by decide)) g0))
      · refine Frame.ite ?_ ?_
        · exact (frame_dapWaits (sub hm (by decide)) g0)
        · split
          rename_i y2_0 x2 e2
          have h2 : Frame m s x2 := Frame.of_2 e2 (by
            refine frame_dapMemRead (sub hm (by decide)) ?_
            exact g0)
          split
          · exact (frame_dapDone (sub hm (by decide)) h2)
          · exact (frame_dapWaits (sub hm (by decide)) h2)

theorem frame_dapWrite {m s v0 v1 v2 v3} (hm : ([.dap, .regs, .evSeq, .out, .dorm, .rings, .irq, .rate, .localQ, .links, .exch, .mgmt, .mem, .boot, .free, .power, .caps, .mbx, .sysCtl, .otp, .mpu, .scan, .ready, .mir, .domain, .lanes, .aon, .pair, .mode, .commits, .inFlight, .dma, .done, .touch, .parity] : List Part) ⊆ m) (g0 : Frame m s v0) : Frame m s (dapWrite v0 v1 v2 v3) := by
  unfold dapWrite
  extract_lets -merge -underBinder +onlyGivenNames x0 x1
  refine Frame.ite ?_ ?_
  · exact (frame_dapDone (sub hm (by decide)) g0)
  · refine Frame.ite ?_ ?_
    · split
      rename_i x2 y2_1 e2
      have h2 : Frame m s x2 := Frame.of_1 e2 (by
        refine frame_regWrite (sub hm (by decide)) ?_
        exact g0)
      exact (frame_dapDone (sub hm (by decide)) h2)
    · exact (.ite (frame_dapDone (sub hm (by decide)) (frame_State_mpuDeny (sub hm (by decide)) g0)) (.ite (frame_dapWaits (sub hm (by decide)) g0) (frame_dapDone (sub hm (by decide)) (frame_dapMemWrite (sub hm (by decide)) g0))))

theorem frame_doDapCmd {m s v0 v1} (hm : ([.out, .dap, .regs, .evSeq, .dorm, .rings, .irq, .rate, .localQ, .links, .exch, .power, .caps, .free, .mgmt] : List Part) ⊆ m) (g0 : Frame m s v0) : Frame m s (doDapCmd v0 v1) := by
  unfold doDapCmd
  extract_lets -merge -underBinder +onlyGivenNames x0
  obtain ⟨y0, e0, h0⟩ := Frame.name (x := x0) (frame_State_emit (sub hm (by decide)) g0)
  rw [e0]
  extract_lets -merge -underBinder +onlyGivenNames x1 x2 x3
  obtain ⟨y3, e3, h3⟩ := Frame.name (x := x3) (.dap (hm (by decide)) h0)
  rw [e3]
  refine Frame.ite ?_ ?_
  · exact h3
  · extract_lets -merge -underBinder +onlyGivenNames x4 x5 x6 x7 x8
    obtain ⟨y8, e8, h8⟩ := Frame.name (x := x8) (.dap (hm (by decide)) h3)
    rw [e8]
    exact (.ite h8 (frame_dapRead (sub hm (by decide)) h8))

theorem frame_doDapData {m s v0 v1} (hm : ([.dap, .regs, .evSeq, .out, .dorm, .rings, .irq, .rate, .localQ, .links, .exch, .mgmt, .mem, .boot, .free, .power, .caps, .mbx, .sysCtl, .otp, .mpu, .scan, .ready, .mir, .domain, .lanes, .aon, .pair, .mode, .commits, .inFlight, .dma, .done, .touch, .parity] : List Part) ⊆ m) (g0 : Frame m s v0) : Frame m s (doDapData v0 v1) := by
  unfold doDapData
  extract_lets -merge -underBinder +onlyGivenNames x0 x1 x2
  obtain ⟨y2, e2, h2⟩ := Frame.name (x := x2) (.dap (hm (by decide)) g0)
  rw [e2]
  extract_lets -merge -underBinder +onlyGivenNames x3
  refine Frame.ite ?_ ?_
  · extract_lets -merge -underBinder +onlyGivenNames x4
    exact (.ite (frame_dapWrite (sub hm (by decide)) h2) (.dap (hm (by decide)) h2))
  · split
    · exact (frame_State_emit (sub hm (by decide)) (.dap (hm (by decide)) h2))
    · exact h2

end Machine
end Sys2Proof
end

