-- ==== Sys2Proof/Laws/FramesPower.lean ====
section
/-! SUPPORT. Which parts of the state power, resets, DORMANT and the order of commands can change, said once for each operation: a lemma frame_f says that the operation f
changes no part outside the list of its hypothesis. -/

set_option Elab.async false

namespace Sys2Proof
namespace Machine

theorem frame_tripPin {m s v0} (hm : ([.out] : List Part) ⊆ m) (g0 : Frame m s v0) : Frame m s (tripPin v0) := by
  unfold tripPin
  exact (frame_State_emit (sub hm (by decide)) g0)

theorem frame_resetState {m s v0 v1} (hm : ([.held, .ft, .evSeq, .rate, .regs, .sysCtl, .mem, .otp, .mode, .ready, .power, .boot, .mbx, .mpu, .parity, .dap, .therm, .dorm, .rings, .done, .inFlight, .dma, .pcie, .irq, .dormDb, .links, .mgmt, .evSeqs, .localQ, .domain, .dram, .chans, .pair, .mir, .commits, .time, .exch, .surf, .fum, .dec, .caps, .encs, .cmp, .scan, .touch, .lanes] : List Part) ⊆ m) (g0 : Frame m s v0) : Frame m s (resetState v0 v1) := by
  unfold resetState
  extract_lets -merge -underBinder +onlyGivenNames x0 x1
  exact (Frame.upd g0 (fun p => by cases p; (case held | ft | evSeq | rate | regs | sysCtl | mem | otp | mode | ready | power | boot | mbx | mpu | parity | dap | therm | dorm | rings | done | inFlight | dma | pcie | irq | dormDb | links | mgmt | evSeqs | localQ | domain | dram | chans | pair | mir | commits | time | exch | surf | fum | dec | caps | encs | cmp | scan | touch | lanes => exact .inl (hm (by decide))); all_goals first | exact .inr rfl | exact .inr (fun _ _ _ => rfl) | exact .inr ⟨rfl, rfl⟩ | exact .inr ⟨rfl, rfl, rfl⟩ | exact .inr ⟨rfl, rfl, rfl, rfl⟩))

theorem frame_readyFalls {m s v0 v1} (hm : ([.out] : List Part) ⊆ m) (g0 : Frame m s v0) : Frame m s (readyFalls v0 v1) := by
  unfold readyFalls
  refine Frame.foldl ?_ ?_
  · exact g0
  · intro x0 a0 h0
    exact (frame_State_emit (sub hm (by decide)) h0)

theorem frame_resetOut {m s v0 v1} (hm : ([.out] : List Part) ⊆ m) (g0 : Frame m s v0) : Frame m s (resetOut v0 v1) := by
  unfold resetOut
  extract_lets -merge -underBinder +onlyGivenNames x0
  obtain ⟨y0, e0, h0⟩ := Frame.name (x := x0) (frame_readyFalls (sub hm (by decide)) (frame_hpdLow (sub hm (by decide)) g0))
  rw [e0]
  extract_lets -merge -underBinder +onlyGivenNames x1
  obtain ⟨y1, e1, h1⟩ := Frame.name (x := x1) (.ite (frame_State_emit (sub hm (by decide)) h0) h0)
  rw [e1]
  extract_lets -merge -underBinder +onlyGivenNames x2
  obtain ⟨y2, e2, h2⟩ := Frame.name (x := x2) (.ite (frame_State_emit (sub hm (by decide)) h1) h1)
  rw [e2]
  exact (.ite h2 (frame_State_emit (sub hm (by decide)) h2))

theorem frame_doFullReset {m s v0 v1} (hm : ([.out, .held, .ft, .evSeq, .rate, .regs, .sysCtl, .mem, .otp, .mode, .ready, .power, .boot, .mbx, .mpu, .parity, .dap, .therm, .dorm, .rings, .done, .inFlight, .dma, .pcie, .irq, .dormDb, .links, .mgmt, .evSeqs, .localQ, .domain, .dram, .chans, .pair, .mir, .commits, .time, .exch, .surf, .fum, .dec, .caps, .encs, .cmp, .scan, .touch, .lanes] : List Part) ⊆ m) (g0 : Frame m s v0) : Frame m s (doFullReset v0 v1) := by
  unfold doFullReset
  exact (.ite (frame_resetState (sub hm (by decide)) (frame_resetOut (sub hm (by decide)) g0)) g0)

theorem frame_doResetRelease {m s v0 v1 v2} (hm : ([.ft, .otp, .straps, .power, .pair, .time] : List Part) ⊆ m) (g0 : Frame m s v0) : Frame m s (doResetRelease v0 v1 v2) := by
  unfold doResetRelease
  refine Frame.ite ?_ ?_
  · exact g0
  · extract_lets -merge -underBinder +onlyGivenNames x0
    exact (Frame.upd g0 (fun p => by cases p; (case ft | otp | straps | power | pair | time => exact .inl (hm (by decide))); all_goals first | exact .inr rfl | exact .inr (fun _ _ _ => rfl) | exact .inr ⟨rfl, rfl⟩ | exact .inr ⟨rfl, rfl, rfl⟩ | exact .inr ⟨rfl, rfl, rfl, rfl⟩))

theorem frame_doAonReset {m s v0} (hm : ([.held, .ft, .evSeq, .rate, .regs, .sysCtl, .mem, .otp, .mode, .ready, .power, .boot, .mbx, .mpu, .parity, .dap, .therm, .dorm, .rings, .done, .inFlight, .dma, .pcie, .irq, .dormDb, .links, .mgmt, .evSeqs, .localQ, .domain, .dram, .chans, .pair, .mir, .commits, .time, .exch, .surf, .fum, .dec, .caps, .encs, .cmp, .scan, .touch, .lanes, .out, .aon] : List Part) ⊆ m) (g0 : Frame m s v0) : Frame m s (doAonReset v0) := by
  unfold doAonReset
  refine frame_resetState (sub hm (by decide)) ?_
  extract_lets -merge -underBinder +onlyGivenNames x0
  obtain ⟨y0, e0, h0⟩ := Frame.name (x := x0) (frame_resetOut (sub hm (by decide)) g0)
  rw [e0]
  exact (.aon (hm (by decide)) h0)

theorem frame_capStop {m s v0 v1} (hm : ([.caps, .evSeq, .out, .dorm, .rings, .regs, .irq, .rate, .localQ, .links, .exch] : List Part) ⊆ m) (g0 : Frame m s v0) : Frame m s (capStop v0 v1) := by
  unfold capStop
  extract_lets -merge -underBinder +onlyGivenNames x0
  obtain ⟨y0, e0, h0⟩ := Frame.name (x := x0) (frame_capSignal (sub hm (by decide)) g0)
  rw [e0]
  exact (frame_driveHpd (sub hm (by decide)) (frame_State_setCap (sub hm (by decide)) h0))

theorem frame_closeAll {m s v0} (hm : ([.dec, .regs, .evSeq, .out, .dorm, .rings, .irq, .rate, .localQ, .links, .exch, .dram, .mem, .surf, .fum, .inFlight, .dma, .done, .mir, .encs] : List Part) ⊆ m) (g0 : Frame m s v0) : Frame m s (closeAll v0) := by
  unfold closeAll
  extract_lets -merge -underBinder +onlyGivenNames x0 x1
  obtain ⟨y1, e1, h1⟩ := Frame.name (m := m) (s := s) (x := x1) (by
    unfold x1
    refine Frame.foldl ?_ ?_
    · exact g0
    · intro x2 a2 h2
      refine Frame.ite ?_ ?_
      · exact h2
      · extract_lets -merge -underBinder +onlyGivenNames x3 x4
        obtain ⟨y4, e4, h4⟩ := Frame.name (x := x4) (frame_State_setCtx (sub hm (by decide)) h2)
        rw [e4]
        exact (frame_setCtxState (sub hm (by decide)) (frame_flushCtx (sub hm (by decide)) h4)))
  rw [e1]
  exact (frame_abortAll (sub hm (by decide)) (.encs (hm (by decide)) h1))

theorem frame_doDormantEnter {m s v0 v1} (hm : ([.regs, .evSeq, .out, .dorm, .rings, .irq, .rate, .localQ, .links, .exch, .inFlight, .dma, .done, .mir, .free, .pair, .mode, .aon, .commits, .touch, .ready, .dec, .dram, .mem, .surf, .fum, .encs, .caps] : List Part) ⊆ m) (g0 : Frame m s v0) : Frame m s (doDormantEnter v0 v1) := by
  unfold doDormantEnter
  refine frame_runJob (sub hm (by decide)) ?_ ?_
  · exact g0
  · intro x0_0 h0_0
    extract_lets -merge -underBinder +onlyGivenNames x1
    obtain ⟨y1, e1, h1⟩ := Frame.name (x := x1) (frame_State_relinquish (sub hm (by decide)) h0_0)
    rw [e1]
    extract_lets -merge -underBinder +onlyGivenNames x2
    obtain ⟨y2, e2, h2⟩ := Frame.name (x := x2) (frame_touchHalt (sub hm (by decide)) (frame_touchHalt (sub hm (by decide)) h1))
    rw [e2]
    extract_lets -merge -underBinder +onlyGivenNames x3
    obtain ⟨y3, e3, h3⟩ := Frame.name (m := m) (s := s) (x := x3) (by
      unfold x3
      refine Frame.foldl ?_ ?_
      · exact h2
      · intro x4 a4 h4
        exact (frame_tephraDisarm (sub hm (by decide)) h4))
    rw [e3]
    extract_lets -merge -underBinder +onlyGivenNames x5 x6
    obtain ⟨y6, e6, h6⟩ := Frame.name (x := x6) (frame_closeAll (sub hm (by decide)) h3)
    rw [e6]
    extract_lets -merge -underBinder +onlyGivenNames x7
    obtain ⟨y7, e7, h7⟩ := Frame.name (m := m) (s := s) (x := x7) (by
      unfold x7
      refine Frame.foldl ?_ ?_
      · exact h6
      · intro x8 a8 h8
        exact (frame_capStop (sub hm (by decide)) h8))
    rw [e7]
    extract_lets -merge -underBinder +onlyGivenNames x9
    obtain ⟨y9, e9, h9⟩ := Frame.name (x := x9) (frame_State_setReady (sub hm (by decide)) (frame_State_setReady (sub hm (by decide)) h7))
    rw [e9]
    exact (.dorm (hm (by decide)) h9)

theorem frame_postAll {m s v0} (hm : ([.done, .evSeq, .out, .dorm, .rings, .regs, .irq, .rate, .localQ, .links, .exch, .mgmt] : List Part) ⊆ m) (g0 : Frame m s v0) : Frame m s (postAll v0) := by
  unfold postAll
  refine Frame.foldl ?_ ?_
  · exact g0
  · intro x0 a0 h0
    exact (frame_doCompletion (sub hm (by decide)) h0)

theorem frame_sleepState {m s v0 v1 v2} (hm : ([.evSeq, .rate, .regs, .sysCtl, .mode, .ready, .power, .boot, .mbx, .mpu, .parity, .dap, .dorm, .rings, .inFlight, .dma, .dormDb, .links, .mgmt, .evSeqs, .localQ, .domain, .dram, .chans, .pair, .mir, .commits, .surf, .fum, .dec, .caps, .encs, .cmp, .scan, .touch, .lanes] : List Part) ⊆ m) (g0 : Frame m s v0) : Frame m s (sleepState v0 v1 v2) := by
  unfold sleepState
  extract_lets -merge -underBinder +onlyGivenNames x0 x1
  exact (Frame.upd g0 (fun p => by cases p; (case evSeq | rate | regs | sysCtl | mode | ready | power | boot | mbx | mpu | parity | dap | dorm | rings | inFlight | dma | dormDb | links | mgmt | evSeqs | localQ | domain | dram | chans | pair | mir | commits | surf | fum | dec | caps | encs | cmp | scan | touch | lanes => exact .inl (hm (by decide))); all_goals first | exact .inr rfl | exact .inr (fun _ _ _ => rfl) | exact .inr ⟨rfl, rfl⟩ | exact .inr ⟨rfl, rfl, rfl⟩ | exact .inr ⟨rfl, rfl, rfl, rfl⟩))

theorem frame_pasrOps {m s v0} (hm : ([.chans, .out, .dram, .regs, .rate, .evSeq, .dorm, .rings, .irq, .localQ, .links, .exch, .mem, .aon, .pair, .free, .mir, .mode, .commits, .inFlight, .dma, .done, .ready, .power, .touch, .dec, .caps, .encs, .cmp] : List Part) ⊆ m) (g0 : Frame m s v0) : Frame m s (pasrOps v0) := by
  unfold pasrOps
  refine Frame.foldl ?_ ?_
  · exact g0
  · intro x0 a0 h0
    extract_lets -merge -underBinder +onlyGivenNames x1 x2
    obtain ⟨y2, e2, h2⟩ := Frame.name (m := m) (s := s) (x := x2) (by
      unfold x2
      refine Frame.foldl ?_ ?_
      · exact h0
      · intro x3 a3 h3
        exact (frame_issued (sub hm (by decide)) (frame_checkedAccess (sub hm (by decide)) h3)))
    rw [e2]
    exact (frame_State_emit (sub hm (by decide)) h2)

theorem frame_doPowerDown {m s v0} (hm : ([.free, .pair, .mir, .mode, .evSeq, .out, .dorm, .rings, .regs, .irq, .rate, .localQ, .links, .exch, .aon, .commits, .inFlight, .dma, .done, .held, .mem, .mgmt, .ready, .chans, .dram, .power, .touch, .dec, .caps, .encs, .cmp, .sysCtl, .boot, .mbx, .mpu, .parity, .dap, .dormDb, .evSeqs, .domain, .surf, .fum, .scan, .lanes] : List Part) ⊆ m) (g0 : Frame m s v0) : Frame m s (doPowerDown v0) := by
  unfold doPowerDown
  split
  · exact g0
  · refine Frame.ite ?_ ?_
    · exact g0
    · extract_lets -merge -underBinder +onlyGivenNames x0
      obtain ⟨y0, e0, h0⟩ := Frame.name (x := x0) (frame_State_relinquish (sub hm (by decide)) g0)
      rw [e0]
      extract_lets -merge -underBinder +onlyGivenNames x1 x2 x3
      obtain ⟨y3, e3, h3⟩ := Frame.name (x := x3) (Frame.upd h0 (fun p => by cases p; (case held | free | mem => exact .inl (hm (by decide))); all_goals first | exact .inr rfl | exact .inr (fun _ _ _ => rfl) | exact .inr ⟨rfl, rfl⟩ | exact .inr ⟨rfl, rfl, rfl⟩ | exact .inr ⟨rfl, rfl, rfl, rfl⟩))
      rw [e3]
      extract_lets -merge -underBinder +onlyGivenNames x4 x5
      obtain ⟨y5, e5, h5⟩ := Frame.name (x := x5) (frame_State_finish (sub hm (by decide)) (frame_abortAll (sub hm (by decide)) h3))
      rw [e5]
      extract_lets -merge -underBinder +onlyGivenNames x6
      obtain ⟨y6, e6, h6⟩ := Frame.name (x := x6) (frame_State_setMode (sub hm (by decide)) (frame_postAll (sub hm (by decide)) h5))
      rw [e6]
      extract_lets -merge -underBinder +onlyGivenNames x7
      obtain ⟨y7, e7, h7⟩ := Frame.name (m := m) (s := s) (x := x7) (by
        unfold x7
        refine Frame.foldl ?_ ?_
        · exact h6
        · intro x8 a8 h8
          exact (frame_State_setReady (sub hm (by decide)) h8))
      rw [e7]
      exact (frame_sleepState (sub hm (by decide)) (frame_pasrOps (sub hm (by decide)) h7))

theorem frame_timeAfterWake {m s v0} (hm : ([.time, .exch] : List Part) ⊆ m) (g0 : Frame m s v0) : Frame m s (timeAfterWake v0) := by
  unfold timeAfterWake
  exact (Frame.upd g0 (fun p => by cases p; (case time | exch => exact .inl (hm (by decide))); all_goals first | exact .inr rfl | exact .inr (fun _ _ _ => rfl) | exact .inr ⟨rfl, rfl⟩ | exact .inr ⟨rfl, rfl, rfl⟩ | exact .inr ⟨rfl, rfl, rfl, rfl⟩))

theorem frame_doWake {m s v0 v1} (hm : ([.mode, .dorm, .power, .dram, .time, .exch, .evSeq, .out, .rings, .regs, .irq, .rate, .localQ, .links] : List Part) ⊆ m) (g0 : Frame m s v0) : Frame m s (doWake v0 v1) := by
  unfold doWake
  split
  · exact g0
  · refine Frame.ite ?_ ?_
    · extract_lets -merge -underBinder +onlyGivenNames x0 x1 x2
      obtain ⟨y2, e2, h2⟩ := Frame.name (x := x2) (Frame.upd g0 (fun p => by cases p; (case mode | dorm => exact .inl (hm (by decide))); all_goals first | exact .inr rfl | exact .inr (fun _ _ _ => rfl) | exact .inr ⟨rfl, rfl⟩ | exact .inr ⟨rfl, rfl, rfl⟩ | exact .inr ⟨rfl, rfl, rfl, rfl⟩))
      rw [e2]
      refine Frame.ite ?_ ?_
      · extract_lets -merge -underBinder +onlyGivenNames x3 x4 x5 x6
        obtain ⟨y6, e6, h6⟩ := Frame.name (x := x6) (frame_timeAfterWake (sub hm (by decide)) (Frame.upd h2 (fun p => by cases p; (case power | dram => exact .inl (hm (by decide))); all_goals first | exact .inr rfl | exact .inr (fun _ _ _ => rfl) | exact .inr ⟨rfl, rfl⟩ | exact .inr ⟨rfl, rfl, rfl⟩ | exact .inr ⟨rfl, rfl, rfl, rfl⟩)))
        rw [e6]
        exact (frame_State_setMode (sub hm (by decide)) h6)
      · exact h2
    · exact g0

theorem frame_doWakeScan {m s v0 v1 v2} (hm : ([.touch, .mode, .dorm, .power, .dram, .time, .exch, .evSeq, .out, .rings, .regs, .irq, .rate, .localQ, .links] : List Part) ⊆ m) (g0 : Frame m s v0) : Frame m s (doWakeScan v0 v1 v2) := by
  unfold doWakeScan
  extract_lets -merge -underBinder +onlyGivenNames x0
  refine Frame.ite ?_ ?_
  · exact g0
  · extract_lets -merge -underBinder +onlyGivenNames x1 x2 x3
    refine Frame.ite ?_ ?_
    · exact (.touch (hm (by decide)) g0)
    · extract_lets -merge -underBinder +onlyGivenNames x4 x5 x6 x7 x8 x9 x10 x11
      split
      · extract_lets -merge -underBinder +onlyGivenNames x12 x13 x14 x15 x16
        obtain ⟨y16, e16, h16⟩ := Frame.name (x := x16) (.touch (hm (by decide)) g0)
        rw [e16]
        split
        · exact (frame_doWake (sub hm (by decide)) h16)
        · exact h16

theorem frame_resumeBlocks {m s v0 v1} (hm : ([.surf, .regs, .evSeq, .out, .dorm, .rings, .irq, .rate, .localQ, .links, .exch, .mem, .dram] : List Part) ⊆ m) (g0 : Frame m s v0) : Frame m s (resumeBlocks v0 v1) := by
  unfold resumeBlocks
  refine Frame.foldl ?_ ?_
  · exact (.surf (hm (by decide)) g0)
  · intro x0 a0 h0
    refine Frame.ite ?_ ?_
    · exact h0
    · refine frame_initBlock (sub hm (by decide)) ?_
      exact h0

theorem frame_resumeSources {m s v0 v1} (hm : ([.fum, .evSeq, .out, .dorm, .rings, .regs, .irq, .rate, .localQ, .links, .exch] : List Part) ⊆ m) (g0 : Frame m s v0) : Frame m s (resumeSources v0 v1) := by
  unfold resumeSources
  refine Frame.foldl ?_ ?_
  · exact g0
  · intro x0 a0 h0
    exact (.ite (frame_evalSource (sub hm (by decide)) (frame_State_setSource (sub hm (by decide)) h0)) (frame_State_setSource (sub hm (by decide)) h0))

theorem frame_resumeTime {m s v0 v1} (hm : ([.time, .evSeq, .out, .dorm, .rings, .regs, .irq, .rate, .localQ, .links, .exch, .pair, .ready] : List Part) ⊆ m) (g0 : Frame m s v0) : Frame m s (resumeTime v0 v1) := by
  unfold resumeTime
  extract_lets -merge -underBinder +onlyGivenNames x0 x1
  obtain ⟨y1, e1, h1⟩ := Frame.name (x := x1) (.time (hm (by decide)) g0)
  rw [e1]
  exact (.ite (frame_setTimeState (sub hm (by decide)) (.time (hm (by decide)) h1)) h1)

theorem frame_resumeLinks {m s v0} (hm : ([.links, .out, .regs, .evSeq, .dorm, .rings, .irq, .rate, .localQ, .exch, .ready, .mir] : List Part) ⊆ m) (g0 : Frame m s v0) : Frame m s (resumeLinks v0) := by
  unfold resumeLinks
  refine Frame.foldl ?_ ?_
  · exact g0
  · intro x0 a0 h0
    exact (.ite h0 (frame_linkSetEnable (sub hm (by decide)) h0))

theorem frame_resumeTg {m s v0 v1} (hm : ([.scan] : List Part) ⊆ m) (g0 : Frame m s v0) : Frame m s (resumeTg v0 v1) := by
  unfold resumeTg
  extract_lets -merge -underBinder +onlyGivenNames x0
  exact (.ite g0 (.ite (frame_enterLock (sub hm (by decide)) g0) (frame_State_setTg (sub hm (by decide)) g0)))

theorem frame_resumeDoorbells {m s v0} (hm : ([.dormDb, .evSeq, .out, .dorm, .rings, .regs, .irq, .rate, .localQ, .links, .exch, .mgmt, .free] : List Part) ⊆ m) (g0 : Frame m s v0) : Frame m s (resumeDoorbells v0) := by
  unfold resumeDoorbells
  extract_lets -merge -underBinder +onlyGivenNames x0
  refine Frame.foldl ?_ ?_
  · exact (.dormDb (hm (by decide)) g0)
  · intro x1 a1 h1
    extract_lets -merge -underBinder +onlyGivenNames x2 x3 x4
    exact (.ite h1 (.ite (frame_windowRequest (sub hm (by decide)) h1) (.ite (frame_sqDoorbell (sub hm (by decide)) h1) (.ite (frame_cqDoorbell (sub hm (by decide)) h1) (frame_evqDoorbell (sub hm (by decide)) h1)))))

theorem frame_resumeEvents {m s v0 v1} (hm : ([.evSeq, .out, .dorm, .rings, .regs, .irq, .rate, .localQ, .links, .exch] : List Part) ⊆ m) (g0 : Frame m s v0) : Frame m s (resumeEvents v0 v1) := by
  unfold resumeEvents
  refine Frame.foldl ?_ ?_
  · exact g0
  · intro x0 a0 h0
    exact (frame_sendRecord (sub hm (by decide)) (fun _ _ _ h => frame_State_raise (sub hm (by decide)) h) h0)

theorem frame_restore {m s v0 v1} (hm : ([.regs, .sysCtl, .boot, .mpu, .rings, .domain, .fum, .caps, .cmp, .scan, .touch] : List Part) ⊆ m) (g0 : Frame m s v0) : Frame m s (restore v0 v1) := by
  unfold restore
  exact (Frame.upd g0 (fun p => by cases p; (case regs | sysCtl | boot | mpu | rings | domain | fum | caps | cmp | scan | touch => exact .inl (hm (by decide))); all_goals first | exact .inr rfl | exact .inr (fun _ _ _ => rfl) | exact .inr ⟨rfl, rfl⟩ | exact .inr ⟨rfl, rfl, rfl⟩ | exact .inr ⟨rfl, rfl, rfl, rfl⟩))

theorem frame_resumeFail {m s v0} (hm : ([.free, .evSeq, .out, .dorm, .rings, .regs, .irq, .rate, .localQ, .links, .exch, .boot, .done, .dormDb, .pair] : List Part) ⊆ m) (g0 : Frame m s v0) : Frame m s (resumeFail v0) := by
  unfold resumeFail
  split
  rename_i y0_0 x0 e0
  have h0 : Frame m s x0 := Frame.of_2 e0 (by
    refine frame_State_fresh (sub hm (by decide)) ?_
    exact g0)
  extract_lets -merge -underBinder +onlyGivenNames x1 x2
  obtain ⟨y2, e2, h2⟩ := Frame.name (x := x2) (frame_State_raise (sub hm (by decide)) h0)
  rw [e2]
  exact (Frame.upd h2 (fun p => by cases p; (case boot | dorm | done | dormDb | pair => exact .inl (hm (by decide))); all_goals first | exact .inr rfl | exact .inr (fun _ _ _ => rfl) | exact .inr ⟨rfl, rfl⟩ | exact .inr ⟨rfl, rfl, rfl⟩ | exact .inr ⟨rfl, rfl, rfl, rfl⟩))

theorem frame_doResume {m s v0 v1} (hm : ([.free, .evSeq, .out, .dorm, .rings, .regs, .irq, .rate, .localQ, .links, .exch, .boot, .done, .dormDb, .pair, .sysCtl, .mpu, .domain, .fum, .caps, .cmp, .scan, .touch, .mgmt, .surf, .mem, .dram, .time, .ready, .mir] : List Part) ⊆ m) (g0 : Frame m s v0) : Frame m s (doResume v0 v1) := by
  unfold doResume
  split
  · exact g0
  · split
    · exact g0
    · refine Frame.ite ?_ ?_
      · exact g0
      · refine Frame.ite ?_ ?_
        · exact (frame_resumeFail (sub hm (by decide)) g0)
        · extract_lets -merge -underBinder +onlyGivenNames x0
          obtain ⟨y0, e0, h0⟩ := Frame.name (x := x0) (frame_State_raise (sub hm (by decide)) g0)
          rw [e0]
          extract_lets -merge -underBinder +onlyGivenNames x1 x2 x3
          obtain ⟨y3, e3, h3⟩ := Frame.name (x := x3) (frame_capsAll (sub hm (by decide)) (frame_restore (sub hm (by decide)) (.dorm (hm (by decide)) h0)))
          rw [e3]
          extract_lets -merge -underBinder +onlyGivenNames x4
          obtain ⟨y4, e4, h4⟩ := Frame.name (x := x4) (frame_resumeEvents (sub hm (by decide)) (frame_resumeDoorbells (sub hm (by decide)) h3))
          rw [e4]
          extract_lets -merge -underBinder +onlyGivenNames x5
          obtain ⟨y5, e5, h5⟩ := Frame.name (x := x5) (frame_resumeBlocks (sub hm (by decide)) h4)
          rw [e5]
          extract_lets -merge -underBinder +onlyGivenNames x6 x7
          obtain ⟨y7, e7, h7⟩ := Frame.name (x := x7) (.cmp (hm (by decide)) h5)
          rw [e7]
          extract_lets -merge -underBinder +onlyGivenNames x8
          obtain ⟨y8, e8, h8⟩ := Frame.name (x := x8) (frame_resumeLinks (sub hm (by decide)) (frame_resumeTime (sub hm (by decide)) (frame_resumeSources (sub hm (by decide)) h7)))
          rw [e8]
          extract_lets -merge -underBinder +onlyGivenNames x9
          obtain ⟨y9, e9, h9⟩ := Frame.name (m := m) (s := s) (x := x9) (by
            unfold x9
            refine Frame.foldl ?_ ?_
            · exact h8
            · intro x10 a10 h10
              exact (frame_resumeTg (sub hm (by decide)) h10))
          rw [e9]
          exact (frame_mgmtReady (sub hm (by decide)) h9)

theorem frame_doServiceEnter {m s v0 v1} (hm : ([.regs, .evSeq, .out, .dorm, .rings, .irq, .rate, .localQ, .links, .exch, .inFlight, .dma, .done, .mir, .free, .pair, .mode, .aon, .commits, .dram] : List Part) ⊆ m) (g0 : Frame m s v0) : Frame m s (doServiceEnter v0 v1) := by
  unfold doServiceEnter
  extract_lets -merge -underBinder +onlyGivenNames x0 x1 x2
  refine frame_runJob (sub hm (by decide)) ?_ ?_
  · exact g0
  · intro x3_0 h3_0
    extract_lets -merge -underBinder +onlyGivenNames x4
    obtain ⟨y4, e4, h4⟩ := Frame.name (x := x4) (frame_State_setMode (sub hm (by decide)) (frame_State_relinquish (sub hm (by decide)) h3_0))
    rw [e4]
    extract_lets -merge -underBinder +onlyGivenNames x5 x6
    obtain ⟨y6, e6, h6⟩ := Frame.name (x := x6) (.ite (.dram (hm (by decide)) h4) h4)
    rw [e6]
    exact (frame_State_finish (sub hm (by decide)) h6)

theorem frame_doServiceExit {m s v0 v1} (hm : ([.regs, .evSeq, .out, .dorm, .rings, .irq, .rate, .localQ, .links, .exch, .inFlight, .dma, .done, .mir, .dram, .lanes, .mode] : List Part) ⊆ m) (g0 : Frame m s v0) : Frame m s (doServiceExit v0 v1) := by
  unfold doServiceExit
  refine frame_runJob (sub hm (by decide)) ?_ ?_
  · exact g0
  · intro x0_0 h0_0
    extract_lets -merge -underBinder +onlyGivenNames x1 x2 x3
    obtain ⟨y3, e3, h3⟩ := Frame.name (x := x3) (.dram (hm (by decide)) h0_0)
    rw [e3]
    extract_lets -merge -underBinder +onlyGivenNames x4
    obtain ⟨y4, e4, h4⟩ := Frame.name (m := m) (s := s) (x := x4) (by
      unfold x4
      refine Frame.foldl ?_ ?_
      · exact h3
      · intro x5 a5 h5
        exact (frame_tephraDisarm (sub hm (by decide)) h5))
    rw [e4]
    extract_lets -merge -underBinder +onlyGivenNames x6
    obtain ⟨y6, e6, h6⟩ := Frame.name (m := m) (s := s) (x := x6) (by
      unfold x6
      refine Frame.foldl ?_ ?_
      · exact h4
      · intro x7 a7 h7
        exact (frame_State_setReg (sub hm (by decide)) h7))
    rw [e6]
    extract_lets -merge -underBinder +onlyGivenNames x8
    obtain ⟨y8, e8, h8⟩ := Frame.name (m := m) (s := s) (x := x8) (by
      unfold x8
      refine Frame.foldl ?_ ?_
      · exact (frame_lanesEndService (sub hm (by decide)) h6)
      · intro x9 a9 h9
        extract_lets -merge -underBinder +onlyGivenNames x10
        exact (frame_State_setReg (sub hm (by decide)) h9))
    rw [e8]
    extract_lets -merge -underBinder +onlyGivenNames x11
    obtain ⟨y11, e11, h11⟩ := Frame.name (x := x11) (frame_State_setMode (sub hm (by decide)) h8)
    rw [e11]
    exact (frame_State_finish (sub hm (by decide)) h11)

theorem frame_doWatchdog {m s v0} (hm : ([.pair, .free, .mir, .mode, .evSeq, .out, .dorm, .rings, .regs, .irq, .rate, .localQ, .links, .exch, .aon, .commits, .inFlight, .dma, .done, .ready, .power, .dram, .touch, .dec, .caps, .encs] : List Part) ⊆ m) (g0 : Frame m s v0) : Frame m s (doWatchdog v0) := by
  unfold doWatchdog
  exact (.ite (frame_State_enterFrozen (sub hm (by decide)) (frame_State_trigger (sub hm (by decide)) g0)) g0)

theorem frame_parityFound {m s v0 v1} (hm : ([.parity, .regs, .rate, .evSeq, .out, .dorm, .rings, .irq, .localQ, .links, .exch, .pair, .free, .mir, .mode, .aon, .commits, .inFlight, .dma, .done] : List Part) ⊆ m) (g0 : Frame m s v0) : Frame m s (parityFound v0 v1) := by
  unfold parityFound
  refine Frame.ite ?_ ?_
  · exact g0
  · extract_lets -merge -underBinder +onlyGivenNames x0 x1
    obtain ⟨y1, e1, h1⟩ := Frame.name (x := x1) (frame_State_bump (sub hm (by decide)) (.parity (hm (by decide)) g0))
    rw [e1]
    extract_lets -merge -underBinder +onlyGivenNames x2
    obtain ⟨y2, e2, h2⟩ := Frame.name (x := x2) (frame_State_raiseLimited (sub hm (by decide)) h1)
    rw [e2]
    exact (frame_State_trigger (sub hm (by decide)) h2)

theorem frame_doParityScrub {m s v0 v1} (hm : ([.parity, .regs, .rate, .evSeq, .out, .dorm, .rings, .irq, .localQ, .links, .exch, .pair, .free, .mir, .mode, .aon, .commits, .inFlight, .dma, .done] : List Part) ⊆ m) (g0 : Frame m s v0) : Frame m s (doParityScrub v0 v1) := by
  unfold doParityScrub
  refine Frame.ite ?_ ?_
  · refine Frame.foldl ?_ ?_
    · exact g0
    · intro x0 a0 h0
      exact (frame_parityFound (sub hm (by decide)) h0)
  · exact g0

theorem frame_setPll {m s v0 v1 v2} (hm : ([.power] : List Part) ⊆ m) (g0 : Frame m s v0) : Frame m s (setPll v0 v1 v2) := by
  unfold setPll
  split
  · exact (.power (hm (by decide)) g0)
  · exact (.power (hm (by decide)) g0)
  · exact (.power (hm (by decide)) g0)

theorem frame_doLockLoss {m s v0 v1 v2} (hm : ([.power, .pair, .free, .mir, .mode, .evSeq, .out, .dorm, .rings, .regs, .irq, .rate, .localQ, .links, .exch, .aon, .commits, .inFlight, .dma, .done, .ready, .dram, .touch, .dec, .caps, .encs] : List Part) ⊆ m) (g0 : Frame m s v0) : Frame m s (doLockLoss v0 v1 v2) := by
  unfold doLockLoss
  refine Frame.ite ?_ ?_
  · extract_lets -merge -underBinder +onlyGivenNames x0
    obtain ⟨y0, e0, h0⟩ := Frame.name (x := x0) (frame_State_trigger (sub hm (by decide)) (frame_setPll (sub hm (by decide)) g0))
    rw [e0]
    exact (.ite (frame_State_enterFrozen (sub hm (by decide)) h0) h0)
  · exact g0

theorem frame_doRelock {m s v0 v1} (hm : ([.power, .pair] : List Part) ⊆ m) (g0 : Frame m s v0) : Frame m s (doRelock v0 v1) := by
  unfold doRelock
  refine Frame.ite ?_ ?_
  · extract_lets -merge -underBinder +onlyGivenNames x0
    obtain ⟨y0, e0, h0⟩ := Frame.name (x := x0) (frame_setPll (sub hm (by decide)) g0)
    rw [e0]
    exact (.ite (frame_State_untrigger (sub hm (by decide)) h0) h0)
  · exact g0

theorem frame_doDropout {m s v0} (hm : ([.power, .pair, .free, .mir, .mode, .evSeq, .out, .dorm, .rings, .regs, .irq, .rate, .localQ, .links, .exch, .aon, .commits, .inFlight, .dma, .done] : List Part) ⊆ m) (g0 : Frame m s v0) : Frame m s (doDropout v0) := by
  unfold doDropout
  exact (.ite g0 (frame_State_trigger (sub hm (by decide)) (frame_setPll (sub hm (by decide)) g0)))

theorem frame_thermalEvent {m s v0} (hm : ([.evSeq, .out, .dorm, .rings, .regs, .irq, .rate, .localQ, .links, .exch] : List Part) ⊆ m) (g0 : Frame m s v0) : Frame m s (thermalEvent v0) := by
  unfold thermalEvent
  split
  · exact (frame_State_raise (sub hm (by decide)) g0)

theorem frame_coolDown {m s v0} (hm : ([.aon, .power, .out] : List Part) ⊆ m) (g0 : Frame m s v0) : Frame m s (coolDown v0) := by
  unfold coolDown
  extract_lets -merge -underBinder +onlyGivenNames x0 x1
  refine Frame.ite ?_ ?_
  · extract_lets -merge -underBinder +onlyGivenNames x2 x3 x4 x5
    obtain ⟨y5, e5, h5⟩ := Frame.name (x := x5) (Frame.upd g0 (fun p => by cases p; (case aon | power => exact .inl (hm (by decide))); all_goals first | exact .inr rfl | exact .inr (fun _ _ _ => rfl) | exact .inr ⟨rfl, rfl⟩ | exact .inr ⟨rfl, rfl, rfl⟩ | exact .inr ⟨rfl, rfl, rfl, rfl⟩))
    rw [e5]
    exact (.ite (frame_State_emit (sub hm (by decide)) h5) h5)
  · exact g0

theorem frame_doGovernor {m s v0 v1} (hm : ([.aon, .therm, .pair, .free, .mir, .mode, .evSeq, .out, .dorm, .rings, .regs, .irq, .rate, .localQ, .links, .exch, .commits, .inFlight, .dma, .done, .power] : List Part) ⊆ m) (g0 : Frame m s v0) : Frame m s (doGovernor v0 v1) := by
  unfold doGovernor
  refine Frame.ite ?_ ?_
  · exact g0
  · extract_lets -merge -underBinder +onlyGivenNames x0
    obtain ⟨y0, e0, h0⟩ := Frame.name (x := x0) (frame_takeTemps (sub hm (by decide)) g0)
    rw [e0]
    extract_lets -merge -underBinder +onlyGivenNames x1 x2 x3
    split
    · extract_lets -merge -underBinder +onlyGivenNames x4 x5 x6
      obtain ⟨y6, e6, h6⟩ := Frame.name (x := x6) (.therm (hm (by decide)) h0)
      rw [e6]
      extract_lets -merge -underBinder +onlyGivenNames x7
      obtain ⟨y7, e7, h7⟩ := Frame.name (x := x7) (.ite (frame_State_untrigger (sub hm (by decide)) h6) (.ite h6 (frame_State_trigger (sub hm (by decide)) h6)))
      rw [e7]
      extract_lets -merge -underBinder +onlyGivenNames x8
      obtain ⟨y8, e8, h8⟩ := Frame.name (x := x8) (.ite (frame_thermalEvent (sub hm (by decide)) h7) h7)
      rw [e8]
      exact (frame_coolDown (sub hm (by decide)) h8)

theorem frame_doThermalTrip {m s v0} (hm : ([.pair, .free, .mir, .mode, .evSeq, .out, .dorm, .rings, .regs, .irq, .rate, .localQ, .links, .exch, .aon, .commits, .inFlight, .dma, .done, .ready, .power, .dram, .touch, .dec, .caps, .encs, .cmp, .therm] : List Part) ⊆ m) (g0 : Frame m s v0) : Frame m s (doThermalTrip v0) := by
  unfold doThermalTrip
  refine Frame.ite ?_ ?_
  · exact g0
  · refine Frame.ite ?_ ?_
    · exact (frame_State_trigger (sub hm (by decide)) g0)
    · extract_lets -merge -underBinder +onlyGivenNames x0
      obtain ⟨y0, e0, h0⟩ := Frame.name (x := x0) (frame_abortSlates (sub hm (by decide)) (frame_State_enterFrozen (sub hm (by decide)) (frame_State_trigger (sub hm (by decide)) g0)))
      rw [e0]
      extract_lets -merge -underBinder +onlyGivenNames x1 x2 x3 x4
      obtain ⟨y4, e4, h4⟩ := Frame.name (x := x4) (Frame.upd h0 (fun p => by cases p; (case therm | dram => exact .inl (hm (by decide))); all_goals first | exact .inr rfl | exact .inr (fun _ _ _ => rfl) | exact .inr ⟨rfl, rfl⟩ | exact .inr ⟨rfl, rfl, rfl⟩ | exact .inr ⟨rfl, rfl, rfl, rfl⟩))
      rw [e4]
      exact (frame_tripPin (sub hm (by decide)) (frame_thermalEvent (sub hm (by decide)) h4))

theorem frame_doDormantTrip {m s v0 v1} (hm : ([.aon, .therm, .pair, .free, .mir, .mode, .evSeq, .out, .dorm, .rings, .regs, .irq, .rate, .localQ, .links, .exch, .commits, .inFlight, .dma, .done] : List Part) ⊆ m) (g0 : Frame m s v0) : Frame m s (doDormantTrip v0 v1) := by
  unfold doDormantTrip
  split
  · refine Frame.ite ?_ ?_
    · extract_lets -merge -underBinder +onlyGivenNames x0
      obtain ⟨y0, e0, h0⟩ := Frame.name (x := x0) (frame_takeTemps (sub hm (by decide)) g0)
      rw [e0]
      extract_lets -merge -underBinder +onlyGivenNames x1
      obtain ⟨y1, e1, h1⟩ := Frame.name (x := x1) (frame_State_trigger (sub hm (by decide)) h0)
      rw [e1]
      exact (frame_tripPin (sub hm (by decide)) (Frame.upd h1 (fun p => by cases p; (case aon | therm | dorm => exact .inl (hm (by decide))); all_goals first | exact .inr rfl | exact .inr (fun _ _ _ => rfl) | exact .inr ⟨rfl, rfl⟩ | exact .inr ⟨rfl, rfl, rfl⟩ | exact .inr ⟨rfl, rfl, rfl, rfl⟩)))
    · exact g0
  · exact g0

theorem frame_doThermalCut {m s v0} (hm : ([.pair, .free, .mir, .mode, .evSeq, .out, .dorm, .rings, .regs, .irq, .rate, .localQ, .links, .exch, .aon, .commits, .inFlight, .dma, .done, .ready, .power, .dram, .touch, .dec, .caps, .encs, .cmp, .therm, .held, .sysCtl, .mem, .boot, .mbx, .mpu, .parity, .dap, .pcie, .dormDb, .mgmt, .evSeqs, .domain, .chans, .surf, .fum, .scan, .lanes] : List Part) ⊆ m) (g0 : Frame m s v0) : Frame m s (doThermalCut v0) := by
  unfold doThermalCut
  refine Frame.ite ?_ ?_
  · exact g0
  · extract_lets -merge -underBinder +onlyGivenNames x0
    obtain ⟨y0, e0, h0⟩ := Frame.name (x := x0) (frame_readyFalls (sub hm (by decide)) (frame_hpdLow (sub hm (by decide)) (frame_doThermalTrip (sub hm (by decide)) g0)))
    rw [e0]
    extract_lets -merge -underBinder +onlyGivenNames x1 x2
    refine frame_tripPin (sub hm (by decide)) ?_
    extract_lets -merge -underBinder +onlyGivenNames x3
    exact (Frame.upd h0 (fun p => by cases p; (case held | evSeq | rate | regs | sysCtl | mem | aon | mode | ready | power | boot | mbx | mpu | parity | dap | dorm | rings | done | inFlight | dma | pcie | irq | dormDb | links | mgmt | evSeqs | localQ | domain | dram | chans | pair | mir | commits | surf | fum | dec | caps | encs | cmp | scan | touch | lanes => exact .inl (hm (by decide))); all_goals first | exact .inr rfl | exact .inr (fun _ _ _ => rfl) | exact .inr ⟨rfl, rfl⟩ | exact .inr ⟨rfl, rfl, rfl⟩ | exact .inr ⟨rfl, rfl, rfl, rfl⟩))

theorem frame_noteFetched {m s v0 v1} (hm : ([.inFlight] : List Part) ⊆ m) (g0 : Frame m s v0) : Frame m s (noteFetched v0 v1) := by
  unfold noteFetched
  exact (.ite g0 (.inFlight (hm (by decide)) g0))

theorem frame_gate {m s v0 v1 v2 v3} (hm : ([.inFlight, .held] : List Part) ⊆ m) (g0 : Frame m s v0) (g3 : ∀ u0 u1, Frame m s u0 → Frame m s (v3 u0 u1)) : Frame m s (gate v0 v1 v2 v3) := by
  unfold gate
  extract_lets -merge -underBinder +onlyGivenNames x0
  refine Frame.ite ?_ ?_
  · extract_lets -merge -underBinder +onlyGivenNames x1
    obtain ⟨y1, e1, h1⟩ := Frame.name (x := x1) (.ite (frame_noteFetched (sub hm (by decide)) g0) g0)
    rw [e1]
    exact (.held (hm (by decide)) h1)
  · exact (g3 _ _ (.inFlight (hm (by decide)) g0))

theorem frame_tick {m s v0} (hm : ([.clk, .ft, .time, .dram, .mem, .chans, .regs, .free, .caps, .mir, .evSeq, .out, .dorm, .rings, .irq, .rate, .localQ, .links, .exch, .inFlight, .dma, .done, .cmp, .fum, .commits, .mgmt, .scan, .pair] : List Part) ⊆ m) (g0 : Frame m s v0) : Frame m s (tick v0) := by
  unfold tick
  exact (frame_checkClaim (sub hm (by decide)) (frame_mirrorNext (sub hm (by decide)) (frame_dpiScans (sub hm (by decide)) (frame_drainIngress (sub hm (by decide)) (frame_advanceTime (sub hm (by decide)) g0)))))

theorem frame_onDomain {m s v0 v1 v2} (hm : ([] : List Part) ⊆ m) (g0 : Frame m s v0) (g2 : ∀ u0, Frame m s u0 → Frame m s (v2 u0)) : Frame m s (onDomain v0 v1 v2) := by
  unfold onDomain
  exact .ite (g2 _ g0) g0

theorem frame_onLinks {m s v0 v1} (hm : ([.free, .lanes, .regs, .evSeq, .out, .dorm, .rings, .irq, .rate, .localQ, .links, .exch, .mir] : List Part) ⊆ m) (g0 : Frame m s v0) (g1 : ∀ u0, Frame m s u0 → Frame m s (v1 u0)) : Frame m s (onLinks v0 v1) := by
  unfold onLinks
  extract_lets -merge -underBinder +onlyGivenNames x0
  obtain ⟨y0, e0, h0⟩ := Frame.name (x := x0) (frame_allLanesFollow (sub hm (by decide)) g0 (g1 _ g0))
  rw [e0]
  exact (.ite (frame_peerCame (sub hm (by decide)) h0) h0)

theorem frame_wakeOutputs {m s v0} (hm : ([.power, .caps, .out] : List Part) ⊆ m) (g0 : Frame m s v0) : Frame m s (wakeOutputs v0) := by
  unfold wakeOutputs
  refine Frame.foldl ?_ ?_
  · exact g0
  · intro x0 a0 h0
    exact (.ite h0 (frame_doUnitWake (sub hm (by decide)) h0))

theorem frame_tlpWakes {m s v0} (hm : ([.mode, .dorm, .power, .dram, .time, .exch, .evSeq, .out, .rings, .regs, .irq, .rate, .localQ, .links] : List Part) ⊆ m) (g0 : Frame m s v0) : Frame m s (tlpWakes v0) := by
  unfold tlpWakes
  exact (.ite (frame_doWake (sub hm (by decide)) g0) g0)

theorem frame_hostTlp {m s v0 v1} (hm : ([.mode, .dorm, .power, .dram, .time, .exch, .evSeq, .out, .rings, .regs, .irq, .rate, .localQ, .links] : List Part) ⊆ m) (g0 : Frame m s v0) (g1 : ∀ u0, Frame m s u0 → Frame m s (v1 u0)) : Frame m s (hostTlp v0 v1) := by
  unfold hostTlp
  exact (.ite (frame_tlpWakes (sub hm (by decide)) (g1 _ g0)) g0)

theorem frame_accWrite {m s v0 v1 v2 v3 v4 v5} (hm : ([.free, .lanes, .regs, .evSeq, .out, .dorm, .rings, .irq, .rate, .localQ, .links, .exch, .mir, .boot, .power, .caps, .mbx, .sysCtl, .otp, .mpu, .mgmt, .scan, .ready, .domain, .aon, .pair, .mode, .commits, .inFlight, .dma, .done, .touch, .parity, .dram, .time] : List Part) ⊆ m) (g0 : Frame m s v0) : Frame m s (accWrite v0 v1 v2 v3 v4 v5) := by
  unfold accWrite
  extract_lets -merge -underBinder +onlyGivenNames x0
  obtain ⟨y0, e0, h0⟩ := Frame.name (m := m) (s := s) (x := x0) (by
    unfold x0
    refine frame_onLinks (sub hm (by decide)) ?_ ?_
    · exact g0
    · intro x1_0 h1_0
      refine frame_regWrite (sub hm (by decide)) ?_
      exact h1_0)
  rw [e0]
  exact (.ite (frame_tlpWakes (sub hm (by decide)) h0) h0)

theorem frame_windowWrite {m s v0 v1 v2 v3 v4} (hm : ([.regs, .evSeq, .out, .dorm, .rings, .irq, .rate, .localQ, .links, .exch, .boot, .free, .mode, .power, .dram, .time] : List Part) ⊆ m) (g0 : Frame m s v0) : Frame m s (windowWrite v0 v1 v2 v3 v4) := by
  unfold windowWrite
  extract_lets -merge -underBinder +onlyGivenNames x0
  obtain ⟨y0, e0, h0⟩ := Frame.name (m := m) (s := s) (x := x0) (by
    unfold x0
    refine frame_onDomain (sub hm (by decide)) ?_ ?_
    · exact g0
    · intro x1_0 h1_0
      exact (frame_bootWrite (sub hm (by decide)) h1_0))
  rw [e0]
  exact (.ite (frame_tlpWakes (sub hm (by decide)) h0) h0)

theorem frame_rowWrite {m s v0 v1 v2 v3} (hm : ([.free, .lanes, .regs, .evSeq, .out, .dorm, .rings, .irq, .rate, .localQ, .links, .exch, .mir, .boot, .power, .caps, .mbx, .sysCtl, .otp, .mpu, .mgmt, .scan, .ready, .domain, .aon, .pair, .mode, .commits, .inFlight, .dma, .done, .touch, .parity, .dram, .time] : List Part) ⊆ m) (g0 : Frame m s v0) : Frame m s (rowWrite v0 v1 v2 v3) := by
  unfold rowWrite
  extract_lets -merge -underBinder +onlyGivenNames x0
  obtain ⟨y0, e0, h0⟩ := Frame.name (m := m) (s := s) (x := x0) (by
    unfold x0
    refine frame_onLinks (sub hm (by decide)) ?_ ?_
    · exact g0
    · intro x1_0 h1_0
      exact (frame_regWrite32 (sub hm (by decide)) h1_0))
  rw [e0]
  exact (.ite (frame_tlpWakes (sub hm (by decide)) h0) h0)

end Machine
end Sys2Proof
end

