-- ==== Sys2Proof/Laws/FramesExec.lean ====
section
/-! SUPPORT. Which parts of the state the next state of each command can change, said once for each operation: a lemma frame_f says that the operation f
changes no part outside the list of its hypothesis. -/

set_option Elab.async false

namespace Sys2Proof
namespace Machine

theorem frame_execNop {m s v0 v1} (hm : ([.inFlight, .held, .dma, .done, .mir, .regs, .evSeq, .out, .dorm, .rings, .irq, .rate, .localQ, .links, .exch] : List Part) ⊆ m) (g1 : Frame m s v1) {u} (e : execNop v0 v1 = .next u) : Frame m s u := by
  cases e
  refine frame_gate (sub hm (by decide)) ?_ ?_
  · exact g1
  · intro x0_0 a0_1 h0_0
    exact (frame_doNop (sub hm (by decide)) h0_0)

theorem frame_execFence {m s v0 v1} (hm : ([.inFlight, .held, .dma, .done, .mir, .regs, .evSeq, .out, .dorm, .rings, .irq, .rate, .localQ, .links, .exch] : List Part) ⊆ m) (g1 : Frame m s v1) {u} (e : execFence v0 v1 = .next u) : Frame m s u := by
  cases e
  refine frame_gate (sub hm (by decide)) ?_ ?_
  · exact g1
  · intro x0_0 a0_1 h0_0
    exact (frame_doFence (sub hm (by decide)) h0_0)

theorem frame_execUnknownOpcode {m s v0 v1} (hm : ([.inFlight, .held, .dma, .done, .mir, .regs, .evSeq, .out, .dorm, .rings, .irq, .rate, .localQ, .links, .exch] : List Part) ⊆ m) (g1 : Frame m s v1) {u} (e : execUnknownOpcode v0 v1 = .next u) : Frame m s u := by
  cases e
  refine frame_gate (sub hm (by decide)) ?_ ?_
  · exact g1
  · intro x0_0 a0_1 h0_0
    exact (frame_doUnknown (sub hm (by decide)) h0_0)

theorem frame_execMemWrite {m s v0 v1 v2} (hm : ([.inFlight, .held, .regs, .evSeq, .out, .dorm, .rings, .irq, .rate, .localQ, .links, .exch, .dma, .done, .mir, .mem, .dram, .surf, .fum, .mgmt] : List Part) ⊆ m) (g2 : Frame m s v2) {u} (e : execMemWrite v0 v1 v2 = .next u) : Frame m s u := by
  cases e
  refine frame_gate (sub hm (by decide)) ?_ ?_
  · exact g2
  · intro x0_0 a0_1 h0_0
    exact (frame_doMemWrite (sub hm (by decide)) h0_0)

theorem frame_execMemRead {m s v0 v1} (hm : ([.inFlight, .held, .regs, .evSeq, .out, .dorm, .rings, .irq, .rate, .localQ, .links, .exch, .dma, .done, .mir, .dram, .mgmt] : List Part) ⊆ m) (g1 : Frame m s v1) {u} (e : execMemRead v0 v1 = .next u) : Frame m s u := by
  cases e
  refine frame_gate (sub hm (by decide)) ?_ ?_
  · exact g1
  · intro x0_0 a0_1 h0_0
    exact (frame_doMemRead (sub hm (by decide)) h0_0)

theorem frame_execServiceEnter {m s v0 v1} (hm : ([.inFlight, .held, .regs, .evSeq, .out, .dorm, .rings, .irq, .rate, .localQ, .links, .exch, .dma, .done, .mir, .free, .pair, .mode, .aon, .commits, .dram] : List Part) ⊆ m) (g1 : Frame m s v1) {u} (e : execServiceEnter v0 v1 = .next u) : Frame m s u := by
  cases e
  refine frame_gate (sub hm (by decide)) ?_ ?_
  · exact g1
  · intro x0_0 a0_1 h0_0
    exact (frame_doServiceEnter (sub hm (by decide)) h0_0)

theorem frame_execServiceExit {m s v0 v1} (hm : ([.inFlight, .held, .regs, .evSeq, .out, .dorm, .rings, .irq, .rate, .localQ, .links, .exch, .dma, .done, .mir, .dram, .lanes, .mode] : List Part) ⊆ m) (g1 : Frame m s v1) {u} (e : execServiceExit v0 v1 = .next u) : Frame m s u := by
  cases e
  refine frame_gate (sub hm (by decide)) ?_ ?_
  · exact g1
  · intro x0_0 a0_1 h0_0
    exact (frame_doServiceExit (sub hm (by decide)) h0_0)

theorem frame_execDormantEnter {m s v0 v1} (hm : ([.inFlight, .held, .regs, .evSeq, .out, .dorm, .rings, .irq, .rate, .localQ, .links, .exch, .dma, .done, .mir, .free, .pair, .mode, .aon, .commits, .touch, .ready, .dec, .dram, .mem, .surf, .fum, .encs, .caps] : List Part) ⊆ m) (g1 : Frame m s v1) {u} (e : execDormantEnter v0 v1 = .next u) : Frame m s u := by
  cases e
  refine frame_gate (sub hm (by decide)) ?_ ?_
  · exact g1
  · intro x0_0 a0_1 h0_0
    exact (frame_doDormantEnter (sub hm (by decide)) h0_0)

theorem frame_execStreamOpen {m s v0 v1} (hm : ([.inFlight, .held, .regs, .evSeq, .out, .dorm, .rings, .irq, .rate, .localQ, .links, .exch, .dma, .done, .mir, .dec, .free, .mem, .power, .caps] : List Part) ⊆ m) (g1 : Frame m s v1) {u} (e : execStreamOpen v0 v1 = .next u) : Frame m s u := by
  cases e
  refine frame_gate (sub hm (by decide)) ?_ ?_
  · exact g1
  · intro x0_0 a0_1 h0_0
    exact (frame_wakeBusy (sub hm (by decide)) (frame_doStreamOpen (sub hm (by decide)) h0_0))

theorem frame_execStreamFeed {m s v0 v1 v2 v3} (hm : ([.inFlight, .held, .regs, .evSeq, .out, .dorm, .rings, .irq, .rate, .localQ, .links, .exch, .dma, .done, .mir, .dec, .mgmt, .mem, .dram] : List Part) ⊆ m) (g3 : Frame m s v3) {u} (e : execStreamFeed v0 v1 v2 v3 = .next u) : Frame m s u := by
  cases e
  refine frame_gate (sub hm (by decide)) ?_ ?_
  · exact g3
  · intro x0_0 a0_1 h0_0
    exact (frame_doFeed (sub hm (by decide)) h0_0)

theorem frame_execStreamClose {m s v0 v1} (hm : ([.inFlight, .held, .regs, .evSeq, .out, .dorm, .rings, .irq, .rate, .localQ, .links, .exch, .dma, .done, .mir, .dec, .dram, .mem, .surf, .fum] : List Part) ⊆ m) (g1 : Frame m s v1) {u} (e : execStreamClose v0 v1 = .next u) : Frame m s u := by
  cases e
  refine frame_gate (sub hm (by decide)) ?_ ?_
  · exact g1
  · intro x0_0 a0_1 h0_0
    exact (frame_doClose (sub hm (by decide)) h0_0)

theorem frame_execStreamFlush {m s v0 v1} (hm : ([.inFlight, .held, .regs, .evSeq, .out, .dorm, .rings, .irq, .rate, .localQ, .links, .exch, .dma, .done, .mir, .dec, .dram, .mem, .surf, .fum] : List Part) ⊆ m) (g1 : Frame m s v1) {u} (e : execStreamFlush v0 v1 = .next u) : Frame m s u := by
  cases e
  refine frame_gate (sub hm (by decide)) ?_ ?_
  · exact g1
  · intro x0_0 a0_1 h0_0
    exact (frame_doFlush (sub hm (by decide)) h0_0)

theorem frame_execSurfacePool {m s v0 v1} (hm : ([.inFlight, .held, .regs, .evSeq, .out, .dorm, .rings, .irq, .rate, .localQ, .links, .exch, .dma, .done, .mir, .surf, .mem, .dram] : List Part) ⊆ m) (g1 : Frame m s v1) {u} (e : execSurfacePool v0 v1 = .next u) : Frame m s u := by
  cases e
  refine frame_gate (sub hm (by decide)) ?_ ?_
  · exact g1
  · intro x0_0 a0_1 h0_0
    exact (frame_doSurfacePool (sub hm (by decide)) h0_0)

theorem frame_execEncOpen {m s v0 v1} (hm : ([.inFlight, .held, .regs, .evSeq, .out, .dorm, .rings, .irq, .rate, .localQ, .links, .exch, .dma, .done, .mir, .encs, .power, .caps] : List Part) ⊆ m) (g1 : Frame m s v1) {u} (e : execEncOpen v0 v1 = .next u) : Frame m s u := by
  cases e
  refine frame_gate (sub hm (by decide)) ?_ ?_
  · exact g1
  · intro x0_0 a0_1 h0_0
    exact (frame_wakeBusy (sub hm (by decide)) (frame_doEncOpen (sub hm (by decide)) h0_0))

theorem frame_execEncParams {m s v0 v1} (hm : ([.inFlight, .held, .regs, .evSeq, .out, .dorm, .rings, .irq, .rate, .localQ, .links, .exch, .dma, .done, .mir, .encs] : List Part) ⊆ m) (g1 : Frame m s v1) {u} (e : execEncParams v0 v1 = .next u) : Frame m s u := by
  cases e
  refine frame_gate (sub hm (by decide)) ?_ ?_
  · exact g1
  · intro x0_0 a0_1 h0_0
    exact (frame_doEncParams (sub hm (by decide)) h0_0)

theorem frame_execEncClose {m s v0 v1} (hm : ([.inFlight, .held, .regs, .evSeq, .out, .dorm, .rings, .irq, .rate, .localQ, .links, .exch, .dma, .done, .mir, .encs] : List Part) ⊆ m) (g1 : Frame m s v1) {u} (e : execEncClose v0 v1 = .next u) : Frame m s u := by
  cases e
  refine frame_gate (sub hm (by decide)) ?_ ?_
  · exact g1
  · intro x0_0 a0_1 h0_0
    exact (frame_doEncClose (sub hm (by decide)) h0_0)

theorem frame_execEncOutbuf {m s v0 v1} (hm : ([.inFlight, .held, .regs, .evSeq, .out, .dorm, .rings, .irq, .rate, .localQ, .links, .exch, .dma, .done, .mir, .encs] : List Part) ⊆ m) (g1 : Frame m s v1) {u} (e : execEncOutbuf v0 v1 = .next u) : Frame m s u := by
  cases e
  refine frame_gate (sub hm (by decide)) ?_ ?_
  · exact g1
  · intro x0_0 a0_1 h0_0
    exact (frame_doEncOutbuf (sub hm (by decide)) h0_0)

theorem frame_execCaptureCfg {m s v0 v1 v2} (hm : ([.inFlight, .held, .regs, .evSeq, .out, .dorm, .rings, .irq, .rate, .localQ, .links, .exch, .dma, .done, .mir, .mgmt, .caps, .mem, .dram, .surf, .power] : List Part) ⊆ m) (g2 : Frame m s v2) {u} (e : execCaptureCfg v0 v1 v2 = .next u) : Frame m s u := by
  cases e
  refine frame_gate (sub hm (by decide)) ?_ ?_
  · exact g2
  · intro x0_0 a0_1 h0_0
    exact (frame_wakeBusy (sub hm (by decide)) (frame_doCaptureCfg (sub hm (by decide)) h0_0))

theorem frame_execStateLoad {m s v0 v1 v2} (hm : ([.inFlight, .held, .regs, .evSeq, .out, .dorm, .rings, .irq, .rate, .localQ, .links, .exch, .dma, .done, .mir, .mgmt, .cmp] : List Part) ⊆ m) (g2 : Frame m s v2) {u} (e : execStateLoad v0 v1 v2 = .next u) : Frame m s u := by
  cases e
  refine frame_gate (sub hm (by decide)) ?_ ?_
  · exact g2
  · intro x0_0 a0_1 h0_0
    exact (frame_doStateLoad (sub hm (by decide)) h0_0)

theorem frame_execCommit {m s v0 v1} (hm : ([.inFlight, .held, .regs, .evSeq, .out, .dorm, .rings, .irq, .rate, .localQ, .links, .exch, .dma, .done, .mir, .commits] : List Part) ⊆ m) (g1 : Frame m s v1) {u} (e : execCommit v0 v1 = .next u) : Frame m s u := by
  cases e
  refine frame_gate (sub hm (by decide)) ?_ ?_
  · exact g1
  · intro x0_0 a0_1 h0_0
    exact (frame_doCommit (sub hm (by decide)) h0_0)

theorem frame_execLiveSet {m s v0 v1} (hm : ([.inFlight, .held, .regs, .evSeq, .out, .dorm, .rings, .irq, .rate, .localQ, .links, .exch, .dma, .done, .mir, .cmp, .fum] : List Part) ⊆ m) (g1 : Frame m s v1) {u} (e : execLiveSet v0 v1 = .next u) : Frame m s u := by
  cases e
  refine frame_gate (sub hm (by decide)) ?_ ?_
  · exact g1
  · intro x0_0 a0_1 h0_0
    exact (frame_doLiveSet (sub hm (by decide)) h0_0)

theorem frame_execSlateLoad {m s v0 v1 v2} (hm : ([.inFlight, .held, .regs, .evSeq, .out, .dorm, .rings, .irq, .rate, .localQ, .links, .exch, .dma, .done, .mir, .cmp, .mgmt] : List Part) ⊆ m) (g2 : Frame m s v2) {u} (e : execSlateLoad v0 v1 v2 = .next u) : Frame m s u := by
  cases e
  refine frame_gate (sub hm (by decide)) ?_ ?_
  · exact g2
  · intro x0_0 a0_1 h0_0
    exact (frame_doSlateLoad (sub hm (by decide)) h0_0)

theorem frame_execModeSet {m s v0 v1} (hm : ([.inFlight, .held, .regs, .evSeq, .out, .dorm, .rings, .irq, .rate, .localQ, .links, .exch, .dma, .done, .mir, .scan, .power, .caps] : List Part) ⊆ m) (g1 : Frame m s v1) {u} (e : execModeSet v0 v1 = .next u) : Frame m s u := by
  cases e
  refine frame_gate (sub hm (by decide)) ?_ ?_
  · exact g1
  · intro x0_0 a0_1 h0_0
    exact (frame_wakeOutputs (sub hm (by decide)) (frame_doModeSet (sub hm (by decide)) h0_0))

theorem frame_execFumPolicy {m s v0 v1} (hm : ([.inFlight, .held, .regs, .evSeq, .out, .dorm, .rings, .irq, .rate, .localQ, .links, .exch, .dma, .done, .mir, .fum] : List Part) ⊆ m) (g1 : Frame m s v1) {u} (e : execFumPolicy v0 v1 = .next u) : Frame m s u := by
  cases e
  refine frame_gate (sub hm (by decide)) ?_ ?_
  · exact g1
  · intro x0_0 a0_1 h0_0
    exact (frame_doFumPolicy (sub hm (by decide)) h0_0)

theorem frame_execFumBind {m s v0 v1} (hm : ([.inFlight, .held, .regs, .evSeq, .out, .dorm, .rings, .irq, .rate, .localQ, .links, .exch, .dma, .done, .mir, .fum] : List Part) ⊆ m) (g1 : Frame m s v1) {u} (e : execFumBind v0 v1 = .next u) : Frame m s u := by
  cases e
  refine frame_gate (sub hm (by decide)) ?_ ?_
  · exact g1
  · intro x0_0 a0_1 h0_0
    exact (frame_doFumBind (sub hm (by decide)) h0_0)

theorem frame_execFumSnapshot {m s v0 v1} (hm : ([.inFlight, .held, .regs, .evSeq, .out, .dorm, .rings, .irq, .rate, .localQ, .links, .exch, .dma, .done, .mir, .fum] : List Part) ⊆ m) (g1 : Frame m s v1) {u} (e : execFumSnapshot v0 v1 = .next u) : Frame m s u := by
  cases e
  refine frame_gate (sub hm (by decide)) ?_ ?_
  · exact g1
  · intro x0_0 a0_1 h0_0
    exact (frame_doSnapshot (sub hm (by decide)) h0_0)

theorem frame_execCheckCfg {m s v0 v1} (hm : ([.inFlight, .held, .regs, .evSeq, .out, .dorm, .rings, .irq, .rate, .localQ, .links, .exch, .dma, .done, .mir, .scan, .pair, .cmp] : List Part) ⊆ m) (g1 : Frame m s v1) {u} (e : execCheckCfg v0 v1 = .next u) : Frame m s u := by
  cases e
  refine frame_gate (sub hm (by decide)) ?_ ?_
  · exact g1
  · intro x0_0 a0_1 h0_0
    exact (frame_doCheckCfg (sub hm (by decide)) h0_0)

theorem frame_execRouteSet {m s v0 v1 v2} (hm : ([.inFlight, .held, .regs, .evSeq, .out, .dorm, .rings, .irq, .rate, .localQ, .links, .exch, .dma, .done, .mir, .mgmt] : List Part) ⊆ m) (g2 : Frame m s v2) {u} (e : execRouteSet v0 v1 v2 = .next u) : Frame m s u := by
  cases e
  refine frame_gate (sub hm (by decide)) ?_ ?_
  · exact g2
  · intro x0_0 a0_1 h0_0
    exact (frame_doRouteSet (sub hm (by decide)) h0_0)

theorem frame_execGroupSet {m s v0 v1} (hm : ([.inFlight, .held, .regs, .evSeq, .out, .dorm, .rings, .irq, .rate, .localQ, .links, .exch, .dma, .done, .mir] : List Part) ⊆ m) (g1 : Frame m s v1) {u} (e : execGroupSet v0 v1 = .next u) : Frame m s u := by
  cases e
  refine frame_gate (sub hm (by decide)) ?_ ?_
  · exact g1
  · intro x0_0 a0_1 h0_0
    exact (frame_doGroupSet (sub hm (by decide)) h0_0)

theorem frame_execTimeCfg {m s v0 v1} (hm : ([.inFlight, .held, .regs, .evSeq, .out, .dorm, .rings, .irq, .rate, .localQ, .links, .exch, .dma, .done, .mir, .time] : List Part) ⊆ m) (g1 : Frame m s v1) {u} (e : execTimeCfg v0 v1 = .next u) : Frame m s u := by
  cases e
  refine frame_gate (sub hm (by decide)) ?_ ?_
  · exact g1
  · intro x0_0 a0_1 h0_0
    exact (frame_doTimeCfg (sub hm (by decide)) h0_0)

theorem frame_execTephraCfg {m s v0 v1} (hm : ([.inFlight, .held, .regs, .evSeq, .out, .dorm, .rings, .irq, .rate, .localQ, .links, .exch, .dma, .done, .mir, .domain] : List Part) ⊆ m) (g1 : Frame m s v1) {u} (e : execTephraCfg v0 v1 = .next u) : Frame m s u := by
  cases e
  refine frame_gate (sub hm (by decide)) ?_ ?_
  · exact g1
  · intro x0_0 a0_1 h0_0
    exact (frame_doTephraCfg (sub hm (by decide)) h0_0)

theorem frame_execTouchMap {m s v0 v1} (hm : ([.inFlight, .held, .regs, .evSeq, .out, .dorm, .rings, .irq, .rate, .localQ, .links, .exch, .dma, .done, .mir, .touch] : List Part) ⊆ m) (g1 : Frame m s v1) {u} (e : execTouchMap v0 v1 = .next u) : Frame m s u := by
  cases e
  refine frame_gate (sub hm (by decide)) ?_ ?_
  · exact g1
  · intro x0_0 a0_1 h0_0
    exact (frame_doTouchMap (sub hm (by decide)) h0_0)

theorem frame_execTouchRefLoad {m s v0 v1 v2} (hm : ([.inFlight, .held, .regs, .evSeq, .out, .dorm, .rings, .irq, .rate, .localQ, .links, .exch, .dma, .done, .mir, .aon, .mgmt] : List Part) ⊆ m) (g2 : Frame m s v2) {u} (e : execTouchRefLoad v0 v1 v2 = .next u) : Frame m s u := by
  cases e
  refine frame_gate (sub hm (by decide)) ?_ ?_
  · exact g2
  · intro x0_0 a0_1 h0_0
    exact (frame_doTouchRef (sub hm (by decide)) h0_0)

theorem frame_execMirrorCfg {m s v0 v1} (hm : ([.inFlight, .held, .regs, .evSeq, .out, .dorm, .rings, .irq, .rate, .localQ, .links, .exch, .dma, .done, .mir, .pair, .mode, .free, .aon, .commits] : List Part) ⊆ m) (g1 : Frame m s v1) {u} (e : execMirrorCfg v0 v1 = .next u) : Frame m s u := by
  cases e
  refine frame_gate (sub hm (by decide)) ?_ ?_
  · exact g1
  · intro x0_0 a0_1 h0_0
    exact (frame_doMirrorCfg (sub hm (by decide)) h0_0)

theorem frame_execSqTailDoorbell {m s v0 v1 v2 v3 v4} (hm : ([.mode, .dorm, .power, .dram, .time, .exch, .evSeq, .out, .rings, .regs, .irq, .rate, .localQ, .links, .dormDb] : List Part) ⊆ m) (g4 : Frame m s v4) {u} (e : execSqTailDoorbell v0 v1 v2 v3 v4 = .next u) : Frame m s u := by
  cases e
  refine frame_hostTlp (sub hm (by decide)) ?_ ?_
  · exact g4
  · intro x0_0 h0_0
    exact (frame_sqDoorbell (sub hm (by decide)) h0_0)

theorem frame_execDescriptorFetch {m s v0 v1 v2} (hm : ([.rings, .regs, .rate, .evSeq, .out, .dorm, .irq, .localQ, .links, .exch, .mgmt, .inFlight] : List Part) ⊆ m) (g2 : Frame m s v2) {u} (e : execDescriptorFetch v0 v1 v2 = .next u) : Frame m s u := by
  cases e
  refine Frame.ite ?_ ?_
  · exact g2
  · refine frame_onDomain (sub hm (by decide)) ?_ ?_
    · exact g2
    · intro x0_0 h0_0
      exact (frame_doFetch (sub hm (by decide)) h0_0)

theorem frame_execCqHeadDoorbell {m s v0 v1 v2 v3 v4} (hm : ([.mode, .dorm, .power, .dram, .time, .exch, .evSeq, .out, .rings, .regs, .irq, .rate, .localQ, .links, .dormDb] : List Part) ⊆ m) (g4 : Frame m s v4) {u} (e : execCqHeadDoorbell v0 v1 v2 v3 v4 = .next u) : Frame m s u := by
  cases e
  refine frame_hostTlp (sub hm (by decide)) ?_ ?_
  · exact g4
  · intro x0_0 h0_0
    exact (frame_cqDoorbell (sub hm (by decide)) h0_0)

theorem frame_execEventRingHeadDoorbell {m s v0 v1 v2 v3} (hm : ([.mode, .dorm, .power, .dram, .time, .exch, .evSeq, .out, .rings, .regs, .irq, .rate, .localQ, .links, .dormDb, .free] : List Part) ⊆ m) (g3 : Frame m s v3) {u} (e : execEventRingHeadDoorbell v0 v1 v2 v3 = .next u) : Frame m s u := by
  cases e
  refine frame_hostTlp (sub hm (by decide)) ?_ ?_
  · exact g3
  · intro x0_0 h0_0
    exact (frame_evqDoorbell (sub hm (by decide)) h0_0)

theorem frame_execCompletionWrite {m s v0 v1 v2} (hm : ([.done, .evSeq, .out, .dorm, .rings, .regs, .irq, .rate, .localQ, .links, .exch, .mgmt] : List Part) ⊆ m) (g2 : Frame m s v2) {u} (e : execCompletionWrite v0 v1 v2 = .next u) : Frame m s u := by
  cases e
  refine frame_onDomain (sub hm (by decide)) ?_ ?_
  · exact g2
  · intro x0_0 h0_0
    exact (frame_doCompletion (sub hm (by decide)) h0_0)

theorem frame_execCqCoalesceTimeout {m s v0 v1 v2} (hm : ([.rings, .evSeq, .out, .dorm, .regs, .irq, .rate, .localQ, .links, .exch, .mgmt] : List Part) ⊆ m) (g2 : Frame m s v2) {u} (e : execCqCoalesceTimeout v0 v1 v2 = .next u) : Frame m s u := by
  cases e
  refine frame_onDomain (sub hm (by decide)) ?_ ?_
  · exact g2
  · intro x0_0 h0_0
    exact (frame_doCoalesce (sub hm (by decide)) h0_0)

theorem frame_execRegisterWrite {m s v0 v1 v2 v3 v4 v5} (hm : ([.free, .lanes, .regs, .evSeq, .out, .dorm, .rings, .irq, .rate, .localQ, .links, .exch, .mir, .boot, .power, .caps, .mbx, .sysCtl, .otp, .mpu, .mgmt, .scan, .ready, .domain, .aon, .pair, .mode, .commits, .inFlight, .dma, .done, .touch, .parity, .dram, .time] : List Part) ⊆ m) (g5 : Frame m s v5) {u} (e : execRegisterWrite v0 v1 v2 v3 v4 v5 = .next u) : Frame m s u := by
  cases e
  exact (frame_accWrite (sub hm (by decide)) g5)

theorem frame_execRingEnable {m s v0 v1 v2 v3 v4} (hm : ([.free, .lanes, .regs, .evSeq, .out, .dorm, .rings, .irq, .rate, .localQ, .links, .exch, .mir, .boot, .power, .caps, .mbx, .sysCtl, .otp, .mpu, .mgmt, .scan, .ready, .domain, .aon, .pair, .mode, .commits, .inFlight, .dma, .done, .touch, .parity, .dram, .time] : List Part) ⊆ m) (g4 : Frame m s v4) {u} (e : execRingEnable v0 v1 v2 v3 v4 = .next u) : Frame m s u := by
  cases e
  exact (frame_rowWrite (sub hm (by decide)) g4)

theorem frame_execSysReset {m s v0 v1 v2} (hm : ([.free, .lanes, .regs, .evSeq, .out, .dorm, .rings, .irq, .rate, .localQ, .links, .exch, .mir, .boot, .power, .caps, .mbx, .sysCtl, .otp, .mpu, .mgmt, .scan, .ready, .domain, .aon, .pair, .mode, .commits, .inFlight, .dma, .done, .touch, .parity, .dram, .time] : List Part) ⊆ m) (g2 : Frame m s v2) {u} (e : execSysReset v0 v1 v2 = .next u) : Frame m s u := by
  cases e
  exact (frame_rowWrite (sub hm (by decide)) g2)

theorem frame_execWindowAccess {m s v0 v1 v2 v3 v4 v5 v6 v7} (hm : ([.mode, .dorm, .power, .dram, .time, .exch, .evSeq, .out, .rings, .regs, .irq, .rate, .localQ, .links, .free, .lanes, .mir, .dormDb, .mgmt, .boot, .caps, .mbx, .sysCtl, .otp, .mpu, .scan, .ready, .domain, .aon, .pair, .commits, .inFlight, .dma, .done, .touch, .parity] : List Part) ⊆ m) (g7 : Frame m s v7) {u} (e : execWindowAccess v0 v1 v2 v3 v4 v5 v6 v7 = .next u) : Frame m s u := by
  cases e
  refine frame_tlpWakes (sub hm (by decide)) ?_
  refine frame_onLinks (sub hm (by decide)) ?_ ?_
  · exact g7
  · intro x0_0 h0_0
    exact (frame_doWindowAccess (sub hm (by decide)) h0_0)

theorem frame_execPcieLinkUp {m s v0} (hm : ([.free, .lanes, .regs, .evSeq, .out, .dorm, .rings, .irq, .rate, .localQ, .links, .exch, .mir, .power, .pcie, .ready] : List Part) ⊆ m) (g0 : Frame m s v0) {u} (e : execPcieLinkUp v0 = .next u) : Frame m s u := by
  cases e
  refine frame_onLinks (sub hm (by decide)) ?_ ?_
  · exact g0
  · intro x0_0 h0_0
    exact (.ite h0_0 (frame_doPcieLinkUp (sub hm (by decide)) h0_0))

theorem frame_execBootstrapWindowWrite {m s v0 v1 v2 v3 v4} (hm : ([.regs, .evSeq, .out, .dorm, .rings, .irq, .rate, .localQ, .links, .exch, .boot, .free, .mode, .power, .dram, .time] : List Part) ⊆ m) (g4 : Frame m s v4) {u} (e : execBootstrapWindowWrite v0 v1 v2 v3 v4 = .next u) : Frame m s u := by
  cases e
  exact (frame_windowWrite (sub hm (by decide)) g4)

theorem frame_execSysBootChunk {m s v0 v1 v2} (hm : ([.free, .lanes, .regs, .evSeq, .out, .dorm, .rings, .irq, .rate, .localQ, .links, .exch, .mir, .boot, .power, .caps, .mbx, .sysCtl, .otp, .mpu, .mgmt, .scan, .ready, .domain, .aon, .pair, .mode, .commits, .inFlight, .dma, .done, .touch, .parity, .dram, .time] : List Part) ⊆ m) (g2 : Frame m s v2) {u} (e : execSysBootChunk v0 v1 v2 = .next u) : Frame m s u := by
  cases e
  exact (frame_rowWrite (sub hm (by decide)) g2)

theorem frame_execMbxSel {m s v0 v1 v2 v3} (hm : ([.free, .lanes, .regs, .evSeq, .out, .dorm, .rings, .irq, .rate, .localQ, .links, .exch, .mir, .boot, .power, .caps, .mbx, .sysCtl, .otp, .mpu, .mgmt, .scan, .ready, .domain, .aon, .pair, .mode, .commits, .inFlight, .dma, .done, .touch, .parity, .dram, .time] : List Part) ⊆ m) (g3 : Frame m s v3) {u} (e : execMbxSel v0 v1 v2 v3 = .next u) : Frame m s u := by
  cases e
  exact (frame_rowWrite (sub hm (by decide)) g3)

theorem frame_execMailboxLatch {m s v0 v1 v2} (hm : ([.mbx] : List Part) ⊆ m) (g2 : Frame m s v2) {u} (e : execMailboxLatch v0 v1 v2 = .next u) : Frame m s u := by
  cases e
  exact (frame_doLatch (sub hm (by decide)) g2)

theorem frame_execFumLock {m s v0 v1 v2} (hm : ([.free, .lanes, .regs, .evSeq, .out, .dorm, .rings, .irq, .rate, .localQ, .links, .exch, .mir, .boot, .power, .caps, .mbx, .sysCtl, .otp, .mpu, .mgmt, .scan, .ready, .domain, .aon, .pair, .mode, .commits, .inFlight, .dma, .done, .touch, .parity, .dram, .time] : List Part) ⊆ m) (g2 : Frame m s v2) {u} (e : execFumLock v0 v1 v2 = .next u) : Frame m s u := by
  cases e
  exact (frame_rowWrite (sub hm (by decide)) g2)

theorem frame_execFumSelftestRelease {m s v0 v1 v2} (hm : ([.free, .lanes, .regs, .evSeq, .out, .dorm, .rings, .irq, .rate, .localQ, .links, .exch, .mir, .boot, .power, .caps, .mbx, .sysCtl, .otp, .mpu, .mgmt, .scan, .ready, .domain, .aon, .pair, .mode, .commits, .inFlight, .dma, .done, .touch, .parity, .dram, .time] : List Part) ⊆ m) (g2 : Frame m s v2) {u} (e : execFumSelftestRelease v0 v1 v2 = .next u) : Frame m s u := by
  cases e
  exact (frame_rowWrite (sub hm (by decide)) g2)

theorem frame_execFabGwFailRelease {m s v0 v1 v2} (hm : ([.free, .lanes, .regs, .evSeq, .out, .dorm, .rings, .irq, .rate, .localQ, .links, .exch, .mir, .boot, .power, .caps, .mbx, .sysCtl, .otp, .mpu, .mgmt, .scan, .ready, .domain, .aon, .pair, .mode, .commits, .inFlight, .dma, .done, .touch, .parity, .dram, .time] : List Part) ⊆ m) (g2 : Frame m s v2) {u} (e : execFabGwFailRelease v0 v1 v2 = .next u) : Frame m s u := by
  cases e
  exact (frame_rowWrite (sub hm (by decide)) g2)

theorem frame_execStrDecFaultRelease {m s v0 v1 v2} (hm : ([.free, .lanes, .regs, .evSeq, .out, .dorm, .rings, .irq, .rate, .localQ, .links, .exch, .mir, .boot, .power, .caps, .mbx, .sysCtl, .otp, .mpu, .mgmt, .scan, .ready, .domain, .aon, .pair, .mode, .commits, .inFlight, .dma, .done, .touch, .parity, .dram, .time] : List Part) ⊆ m) (g2 : Frame m s v2) {u} (e : execStrDecFaultRelease v0 v1 v2 = .next u) : Frame m s u := by
  cases e
  exact (frame_rowWrite (sub hm (by decide)) g2)

theorem frame_execCmpFaultRelease {m s v0 v1 v2} (hm : ([.free, .lanes, .regs, .evSeq, .out, .dorm, .rings, .irq, .rate, .localQ, .links, .exch, .mir, .boot, .power, .caps, .mbx, .sysCtl, .otp, .mpu, .mgmt, .scan, .ready, .domain, .aon, .pair, .mode, .commits, .inFlight, .dma, .done, .touch, .parity, .dram, .time] : List Part) ⊆ m) (g2 : Frame m s v2) {u} (e : execCmpFaultRelease v0 v1 v2 = .next u) : Frame m s u := by
  cases e
  exact (frame_rowWrite (sub hm (by decide)) g2)

theorem frame_execSysRafRelease {m s v0 v1 v2} (hm : ([.free, .lanes, .regs, .evSeq, .out, .dorm, .rings, .irq, .rate, .localQ, .links, .exch, .mir, .boot, .power, .caps, .mbx, .sysCtl, .otp, .mpu, .mgmt, .scan, .ready, .domain, .aon, .pair, .mode, .commits, .inFlight, .dma, .done, .touch, .parity, .dram, .time] : List Part) ⊆ m) (g2 : Frame m s v2) {u} (e : execSysRafRelease v0 v1 v2 = .next u) : Frame m s u := by
  cases e
  exact (frame_rowWrite (sub hm (by decide)) g2)

theorem frame_execSysMpuRelease {m s v0 v1 v2} (hm : ([.free, .lanes, .regs, .evSeq, .out, .dorm, .rings, .irq, .rate, .localQ, .links, .exch, .mir, .boot, .power, .caps, .mbx, .sysCtl, .otp, .mpu, .mgmt, .scan, .ready, .domain, .aon, .pair, .mode, .commits, .inFlight, .dma, .done, .touch, .parity, .dram, .time] : List Part) ⊆ m) (g2 : Frame m s v2) {u} (e : execSysMpuRelease v0 v1 v2 = .next u) : Frame m s u := by
  cases e
  exact (frame_rowWrite (sub hm (by decide)) g2)

theorem frame_execSysMpuCtrl {m s v0 v1 v2 v3} (hm : ([.free, .lanes, .regs, .evSeq, .out, .dorm, .rings, .irq, .rate, .localQ, .links, .exch, .mir, .boot, .power, .caps, .mbx, .sysCtl, .otp, .mpu, .mgmt, .scan, .ready, .domain, .aon, .pair, .mode, .commits, .inFlight, .dma, .done, .touch, .parity, .dram, .time] : List Part) ⊆ m) (g3 : Frame m s v3) {u} (e : execSysMpuCtrl v0 v1 v2 v3 = .next u) : Frame m s u := by
  cases e
  exact (frame_rowWrite (sub hm (by decide)) g3)

theorem frame_execFabNodeAddr {m s v0 v1 v2} (hm : ([.free, .lanes, .regs, .evSeq, .out, .dorm, .rings, .irq, .rate, .localQ, .links, .exch, .mir, .boot, .power, .caps, .mbx, .sysCtl, .otp, .mpu, .mgmt, .scan, .ready, .domain, .aon, .pair, .mode, .commits, .inFlight, .dma, .done, .touch, .parity, .dram, .time] : List Part) ⊆ m) (g2 : Frame m s v2) {u} (e : execFabNodeAddr v0 v1 v2 = .next u) : Frame m s u := by
  cases e
  exact (frame_rowWrite (sub hm (by decide)) g2)

theorem frame_execDomainClaim {m s v0 v1 v2 v3} (hm : ([.rate, .evSeq, .out, .dorm, .rings, .regs, .irq, .localQ, .links, .exch, .domain, .parity, .pair] : List Part) ⊆ m) (g3 : Frame m s v3) {u} (e : execDomainClaim v0 v1 v2 v3 = .next u) : Frame m s u := by
  cases e
  refine frame_onDomain (sub hm (by decide)) ?_ ?_
  · exact g3
  · intro x0_0 h0_0
    refine frame_domainRequest (sub hm (by decide)) ?_
    exact h0_0

theorem frame_execLinkEnable {m s v0 v1 v2 v3} (hm : ([.free, .lanes, .regs, .evSeq, .out, .dorm, .rings, .irq, .rate, .localQ, .links, .exch, .mir, .boot, .power, .caps, .mbx, .sysCtl, .otp, .mpu, .mgmt, .scan, .ready, .domain, .aon, .pair, .mode, .commits, .inFlight, .dma, .done, .touch, .parity, .dram, .time] : List Part) ⊆ m) (g3 : Frame m s v3) {u} (e : execLinkEnable v0 v1 v2 v3 = .next u) : Frame m s u := by
  cases e
  exact (frame_rowWrite (sub hm (by decide)) g3)

theorem frame_execLinkRetrain {m s v0 v1 v2 v3} (hm : ([.free, .lanes, .regs, .evSeq, .out, .dorm, .rings, .irq, .rate, .localQ, .links, .exch, .mir, .boot, .power, .caps, .mbx, .sysCtl, .otp, .mpu, .mgmt, .scan, .ready, .domain, .aon, .pair, .mode, .commits, .inFlight, .dma, .done, .touch, .parity, .dram, .time] : List Part) ⊆ m) (g3 : Frame m s v3) {u} (e : execLinkRetrain v0 v1 v2 v3 = .next u) : Frame m s u := by
  cases e
  exact (frame_rowWrite (sub hm (by decide)) g3)

theorem frame_execEdidRead {m s v0 v1 v2 v3} (hm : ([.free, .lanes, .regs, .evSeq, .out, .dorm, .rings, .irq, .rate, .localQ, .links, .exch, .mir, .boot, .power, .caps, .mbx, .sysCtl, .otp, .mpu, .mgmt, .scan, .ready, .domain, .aon, .pair, .mode, .commits, .inFlight, .dma, .done, .touch, .parity, .dram, .time] : List Part) ⊆ m) (g3 : Frame m s v3) {u} (e : execEdidRead v0 v1 v2 v3 = .next u) : Frame m s u := by
  cases e
  exact (frame_rowWrite (sub hm (by decide)) g3)

theorem frame_execDpRetrain {m s v0 v1 v2 v3} (hm : ([.free, .lanes, .regs, .evSeq, .out, .dorm, .rings, .irq, .rate, .localQ, .links, .exch, .mir, .boot, .power, .caps, .mbx, .sysCtl, .otp, .mpu, .mgmt, .scan, .ready, .domain, .aon, .pair, .mode, .commits, .inFlight, .dma, .done, .touch, .parity, .dram, .time] : List Part) ⊆ m) (g3 : Frame m s v3) {u} (e : execDpRetrain v0 v1 v2 v3 = .next u) : Frame m s u := by
  cases e
  exact (frame_rowWrite (sub hm (by decide)) g3)

theorem frame_execPairClaim {m s v0 v1 v2} (hm : ([.free, .lanes, .regs, .evSeq, .out, .dorm, .rings, .irq, .rate, .localQ, .links, .exch, .mir, .boot, .power, .caps, .mbx, .sysCtl, .otp, .mpu, .mgmt, .scan, .ready, .domain, .aon, .pair, .mode, .commits, .inFlight, .dma, .done, .touch, .parity, .dram, .time] : List Part) ⊆ m) (g2 : Frame m s v2) {u} (e : execPairClaim v0 v1 v2 = .next u) : Frame m s u := by
  cases e
  exact (frame_rowWrite (sub hm (by decide)) g2)

theorem frame_execPairRelease {m s v0 v1 v2} (hm : ([.free, .lanes, .regs, .evSeq, .out, .dorm, .rings, .irq, .rate, .localQ, .links, .exch, .mir, .boot, .power, .caps, .mbx, .sysCtl, .otp, .mpu, .mgmt, .scan, .ready, .domain, .aon, .pair, .mode, .commits, .inFlight, .dma, .done, .touch, .parity, .dram, .time] : List Part) ⊆ m) (g2 : Frame m s v2) {u} (e : execPairRelease v0 v1 v2 = .next u) : Frame m s u := by
  cases e
  exact (frame_rowWrite (sub hm (by decide)) g2)

theorem frame_execSysLifecycleAdv {m s v0 v1 v2} (hm : ([.free, .lanes, .regs, .evSeq, .out, .dorm, .rings, .irq, .rate, .localQ, .links, .exch, .mir, .boot, .power, .caps, .mbx, .sysCtl, .otp, .mpu, .mgmt, .scan, .ready, .domain, .aon, .pair, .mode, .commits, .inFlight, .dma, .done, .touch, .parity, .dram, .time] : List Part) ⊆ m) (g2 : Frame m s v2) {u} (e : execSysLifecycleAdv v0 v1 v2 = .next u) : Frame m s u := by
  cases e
  exact (frame_rowWrite (sub hm (by decide)) g2)

theorem frame_execDapEn {m s v0 v1 v2} (hm : ([.free, .lanes, .regs, .evSeq, .out, .dorm, .rings, .irq, .rate, .localQ, .links, .exch, .mir, .boot, .power, .caps, .mbx, .sysCtl, .otp, .mpu, .mgmt, .scan, .ready, .domain, .aon, .pair, .mode, .commits, .inFlight, .dma, .done, .touch, .parity, .dram, .time] : List Part) ⊆ m) (g2 : Frame m s v2) {u} (e : execDapEn v0 v1 v2 = .next u) : Frame m s u := by
  cases e
  exact (frame_rowWrite (sub hm (by decide)) g2)

theorem frame_execEdgAonClear {m s v0 v1 v2} (hm : ([.free, .lanes, .regs, .evSeq, .out, .dorm, .rings, .irq, .rate, .localQ, .links, .exch, .mir, .boot, .power, .caps, .mbx, .sysCtl, .otp, .mpu, .mgmt, .scan, .ready, .domain, .aon, .pair, .mode, .commits, .inFlight, .dma, .done, .touch, .parity, .dram, .time] : List Part) ⊆ m) (g2 : Frame m s v2) {u} (e : execEdgAonClear v0 v1 v2 = .next u) : Frame m s u := by
  cases e
  exact (frame_rowWrite (sub hm (by decide)) g2)

theorem frame_execCmpSlateBase {m s v0 v1 v2} (hm : ([.free, .lanes, .regs, .evSeq, .out, .dorm, .rings, .irq, .rate, .localQ, .links, .exch, .mir, .boot, .power, .caps, .mbx, .sysCtl, .otp, .mpu, .mgmt, .scan, .ready, .domain, .aon, .pair, .mode, .commits, .inFlight, .dma, .done, .touch, .parity, .dram, .time] : List Part) ⊆ m) (g2 : Frame m s v2) {u} (e : execCmpSlateBase v0 v1 v2 = .next u) : Frame m s u := by
  cases e
  exact (frame_rowWrite (sub hm (by decide)) g2)

theorem frame_execRecal {m s v0 v1 v2 v3} (hm : ([.free, .lanes, .regs, .evSeq, .out, .dorm, .rings, .irq, .rate, .localQ, .links, .exch, .mir, .boot, .power, .caps, .mbx, .sysCtl, .otp, .mpu, .mgmt, .scan, .ready, .domain, .aon, .pair, .mode, .commits, .inFlight, .dma, .done, .touch, .parity, .dram, .time] : List Part) ⊆ m) (g3 : Frame m s v3) {u} (e : execRecal v0 v1 v2 v3 = .next u) : Frame m s u := by
  cases e
  exact (frame_rowWrite (sub hm (by decide)) g3)

theorem frame_execLaneOverride {m s v0 v1 v2 v3} (hm : ([.free, .lanes, .regs, .evSeq, .out, .dorm, .rings, .irq, .rate, .localQ, .links, .exch, .mir, .boot, .power, .caps, .mbx, .sysCtl, .otp, .mpu, .mgmt, .scan, .ready, .domain, .aon, .pair, .mode, .commits, .inFlight, .dma, .done, .touch, .parity, .dram, .time] : List Part) ⊆ m) (g3 : Frame m s v3) {u} (e : execLaneOverride v0 v1 v2 v3 = .next u) : Frame m s u := by
  cases e
  exact (frame_rowWrite (sub hm (by decide)) g3)

theorem frame_execOutDpTrimOvr {m s v0 v1 v2 v3} (hm : ([.free, .lanes, .regs, .evSeq, .out, .dorm, .rings, .irq, .rate, .localQ, .links, .exch, .mir, .boot, .power, .caps, .mbx, .sysCtl, .otp, .mpu, .mgmt, .scan, .ready, .domain, .aon, .pair, .mode, .commits, .inFlight, .dma, .done, .touch, .parity, .dram, .time] : List Part) ⊆ m) (g3 : Frame m s v3) {u} (e : execOutDpTrimOvr v0 v1 v2 v3 = .next u) : Frame m s u := by
  cases e
  exact (frame_rowWrite (sub hm (by decide)) g3)

theorem frame_execTouchEnable {m s v0 v1 v2 v3} (hm : ([.free, .lanes, .regs, .evSeq, .out, .dorm, .rings, .irq, .rate, .localQ, .links, .exch, .mir, .boot, .power, .caps, .mbx, .sysCtl, .otp, .mpu, .mgmt, .scan, .ready, .domain, .aon, .pair, .mode, .commits, .inFlight, .dma, .done, .touch, .parity, .dram, .time] : List Part) ⊆ m) (g3 : Frame m s v3) {u} (e : execTouchEnable v0 v1 v2 v3 = .next u) : Frame m s u := by
  cases e
  exact (frame_rowWrite (sub hm (by decide)) g3)

theorem frame_execTouchDisable {m s v0 v1 v2 v3} (hm : ([.free, .lanes, .regs, .evSeq, .out, .dorm, .rings, .irq, .rate, .localQ, .links, .exch, .mir, .boot, .power, .caps, .mbx, .sysCtl, .otp, .mpu, .mgmt, .scan, .ready, .domain, .aon, .pair, .mode, .commits, .inFlight, .dma, .done, .touch, .parity, .dram, .time] : List Part) ⊆ m) (g3 : Frame m s v3) {u} (e : execTouchDisable v0 v1 v2 v3 = .next u) : Frame m s u := by
  cases e
  exact (frame_rowWrite (sub hm (by decide)) g3)

theorem frame_execTouchHold {m s v0 v1 v2 v3} (hm : ([.free, .lanes, .regs, .evSeq, .out, .dorm, .rings, .irq, .rate, .localQ, .links, .exch, .mir, .boot, .power, .caps, .mbx, .sysCtl, .otp, .mpu, .mgmt, .scan, .ready, .domain, .aon, .pair, .mode, .commits, .inFlight, .dma, .done, .touch, .parity, .dram, .time] : List Part) ⊆ m) (g3 : Frame m s v3) {u} (e : execTouchHold v0 v1 v2 v3 = .next u) : Frame m s u := by
  cases e
  exact (frame_rowWrite (sub hm (by decide)) g3)

theorem frame_execDapCmd {m s v0 v1} (hm : ([.free, .lanes, .regs, .evSeq, .out, .dorm, .rings, .irq, .rate, .localQ, .links, .exch, .mir, .dap, .power, .caps, .mgmt] : List Part) ⊆ m) (g1 : Frame m s v1) {u} (e : execDapCmd v0 v1 = .next u) : Frame m s u := by
  cases e
  refine frame_onLinks (sub hm (by decide)) ?_ ?_
  · exact g1
  · intro x0_0 h0_0
    exact (frame_doDapCmd (sub hm (by decide)) h0_0)

theorem frame_execDapData {m s v0 v1} (hm : ([.free, .lanes, .regs, .evSeq, .out, .dorm, .rings, .irq, .rate, .localQ, .links, .exch, .mir, .dap, .mgmt, .mem, .boot, .power, .caps, .mbx, .sysCtl, .otp, .mpu, .scan, .ready, .domain, .aon, .pair, .mode, .commits, .inFlight, .dma, .done, .touch, .parity] : List Part) ⊆ m) (g1 : Frame m s v1) {u} (e : execDapData v0 v1 = .next u) : Frame m s u := by
  cases e
  refine frame_onLinks (sub hm (by decide)) ?_ ?_
  · exact g1
  · intro x0_0 h0_0
    exact (frame_doDapData (sub hm (by decide)) h0_0)

theorem frame_execPacketReceive {m s v0 v1 v2 v3 v4} (hm : ([.free, .lanes, .regs, .evSeq, .out, .dorm, .rings, .irq, .rate, .localQ, .links, .exch, .mir] : List Part) ⊆ m) (g4 : Frame m s v4) {u} (e : execPacketReceive v0 v1 v2 v3 v4 = .next u) : Frame m s u := by
  cases e
  refine frame_onDomain (sub hm (by decide)) ?_ ?_
  · exact g4
  · intro x0_0 h0_0
    refine frame_onLinks (sub hm (by decide)) ?_ ?_
    · exact h0_0
    · intro x1_0 h1_0
      exact (frame_doPacketReceive (sub hm (by decide)) h1_0)

theorem frame_execLinkCrcWindowEnd {m s v0 v1} (hm : ([.links, .evSeq, .out, .dorm, .rings, .regs, .irq, .rate, .localQ, .exch] : List Part) ⊆ m) (g1 : Frame m s v1) {u} (e : execLinkCrcWindowEnd v0 v1 = .next u) : Frame m s u := by
  cases e
  refine frame_onDomain (sub hm (by decide)) ?_ ?_
  · exact g1
  · intro x0_0 h0_0
    exact (frame_doCrcWindowEnd (sub hm (by decide)) h0_0)

theorem frame_execPacketEnd {m s v0 v1} (hm : ([.links, .out, .evSeq, .dorm, .rings, .regs, .irq, .rate, .localQ, .exch, .mir] : List Part) ⊆ m) (g1 : Frame m s v1) {u} (e : execPacketEnd v0 v1 = .next u) : Frame m s u := by
  cases e
  refine frame_onDomain (sub hm (by decide)) ?_ ?_
  · exact g1
  · intro x0_0 h0_0
    exact (frame_doPacketEnd (sub hm (by decide)) h0_0)

theorem frame_execSkp {m s v0 v1} (hm : ([.links, .out] : List Part) ⊆ m) (g1 : Frame m s v1) {u} (e : execSkp v0 v1 = .next u) : Frame m s u := by
  cases e
  refine frame_onDomain (sub hm (by decide)) ?_ ?_
  · exact g1
  · intro x0_0 h0_0
    exact (frame_doSkp (sub hm (by decide)) h0_0)

theorem frame_execReorderRelease {m s v0 v1} (hm : ([.links, .evSeq, .out, .dorm, .rings, .regs, .irq, .rate, .localQ, .exch] : List Part) ⊆ m) (g1 : Frame m s v1) {u} (e : execReorderRelease v0 v1 = .next u) : Frame m s u := by
  cases e
  refine frame_onDomain (sub hm (by decide)) ?_ ?_
  · exact g1
  · intro x0_0 h0_0
    exact (frame_doReorderRelease (sub hm (by decide)) h0_0)

theorem frame_execTrainingStateAdvance {m s v0 v1 v2} (hm : ([.free, .lanes, .regs, .evSeq, .out, .dorm, .rings, .irq, .rate, .localQ, .links, .exch, .mir, .power, .ready] : List Part) ⊆ m) (g2 : Frame m s v2) {u} (e : execTrainingStateAdvance v0 v1 v2 = .next u) : Frame m s u := by
  cases e
  refine frame_onLinks (sub hm (by decide)) ?_ ?_
  · exact g2
  · intro x0_0 h0_0
    exact (frame_trainAdvance (sub hm (by decide)) (frame_powerFabric (sub hm (by decide)) h0_0))

theorem frame_execLinkTrainTimeout {m s v0 v1} (hm : ([.free, .lanes, .regs, .evSeq, .out, .dorm, .rings, .irq, .rate, .localQ, .links, .exch, .mir, .ready] : List Part) ⊆ m) (g1 : Frame m s v1) {u} (e : execLinkTrainTimeout v0 v1 = .next u) : Frame m s u := by
  cases e
  refine frame_onDomain (sub hm (by decide)) ?_ ?_
  · exact g1
  · intro x0_0 h0_0
    refine frame_onLinks (sub hm (by decide)) ?_ ?_
    · exact h0_0
    · intro x1_0 h1_0
      exact (frame_doTrainTimeout (sub hm (by decide)) h1_0)

theorem frame_execBackoffExpiry {m s v0 v1} (hm : ([.free, .lanes, .regs, .evSeq, .out, .dorm, .rings, .irq, .rate, .localQ, .links, .exch, .mir] : List Part) ⊆ m) (g1 : Frame m s v1) {u} (e : execBackoffExpiry v0 v1 = .next u) : Frame m s u := by
  cases e
  refine frame_onDomain (sub hm (by decide)) ?_ ?_
  · exact g1
  · intro x0_0 h0_0
    refine frame_onLinks (sub hm (by decide)) ?_ ?_
    · exact h0_0
    · intro x1_0 h1_0
      exact (frame_doBackoffExpiry (sub hm (by decide)) h1_0)

theorem frame_execCapsRepeat {m s v0 v1} (hm : ([.links, .evSeq, .out, .dorm, .rings, .regs, .irq, .rate, .localQ, .exch] : List Part) ⊆ m) (g1 : Frame m s v1) {u} (e : execCapsRepeat v0 v1 = .next u) : Frame m s u := by
  cases e
  refine frame_onDomain (sub hm (by decide)) ?_ ?_
  · exact g1
  · intro x0_0 h0_0
    exact (frame_doCapsRepeat (sub hm (by decide)) h0_0)

theorem frame_execCaps {m s v0 v1 v2} (hm : ([.free, .lanes, .regs, .evSeq, .out, .dorm, .rings, .irq, .rate, .localQ, .links, .exch, .mir, .ready] : List Part) ⊆ m) (g2 : Frame m s v2) {u} (e : execCaps v0 v1 v2 = .next u) : Frame m s u := by
  cases e
  refine frame_onDomain (sub hm (by decide)) ?_ ?_
  · exact g2
  · intro x0_0 h0_0
    refine frame_onLinks (sub hm (by decide)) ?_ ?_
    · exact h0_0
    · intro x1_0 h1_0
      exact (frame_doCaps (sub hm (by decide)) h1_0)

theorem frame_execCodeError {m s v0 v1 v2 v3} (hm : ([.free, .lanes, .regs, .evSeq, .out, .dorm, .rings, .irq, .rate, .localQ, .links, .exch, .mir, .ready] : List Part) ⊆ m) (g3 : Frame m s v3) {u} (e : execCodeError v0 v1 v2 v3 = .next u) : Frame m s u := by
  cases e
  refine frame_onDomain (sub hm (by decide)) ?_ ?_
  · exact g3
  · intro x0_0 h0_0
    refine frame_onLinks (sub hm (by decide)) ?_ ?_
    · exact h0_0
    · intro x1_0 h1_0
      exact (frame_codeErrorBase (sub hm (by decide)) h1_0)

theorem frame_execLockLost {m s v0 v1 v2} (hm : ([.free, .lanes, .regs, .evSeq, .out, .dorm, .rings, .irq, .rate, .localQ, .links, .exch, .mir, .ready] : List Part) ⊆ m) (g2 : Frame m s v2) {u} (e : execLockLost v0 v1 v2 = .next u) : Frame m s u := by
  cases e
  refine frame_onDomain (sub hm (by decide)) ?_ ?_
  · exact g2
  · intro x0_0 h0_0
    refine frame_onLinks (sub hm (by decide)) ?_ ?_
    · exact h0_0
    · intro x1_0 h1_0
      exact (frame_linkLockLost (sub hm (by decide)) h1_0)

theorem frame_execSync {m s v0 v1 v2} (hm : ([.localQ, .exch, .rate, .evSeq, .out, .dorm, .rings, .regs, .irq, .links] : List Part) ⊆ m) (g2 : Frame m s v2) {u} (e : execSync v0 v1 v2 = .next u) : Frame m s u := by
  cases e
  refine frame_onDomain (sub hm (by decide)) ?_ ?_
  · exact g2
  · intro x0_0 h0_0
    exact (frame_doSync (sub hm (by decide)) h0_0)

theorem frame_execReply {m s v0 v1 v2} (hm : ([.localQ, .exch, .rate, .evSeq, .out, .dorm, .rings, .regs, .irq, .links] : List Part) ⊆ m) (g2 : Frame m s v2) {u} (e : execReply v0 v1 v2 = .next u) : Frame m s u := by
  cases e
  refine frame_onDomain (sub hm (by decide)) ?_ ?_
  · exact g2
  · intro x0_0 h0_0
    exact (frame_doReply (sub hm (by decide)) h0_0)

theorem frame_execTimeExchangePeriod {m s v0} (hm : ([.time, .ft, .evSeq, .out, .dorm, .rings, .regs, .irq, .rate, .localQ, .links, .exch, .pair, .ready, .inFlight, .dma, .done, .mir, .touch, .free, .scan] : List Part) ⊆ m) (g0 : Frame m s v0) {u} (e : execTimeExchangePeriod v0 = .next u) : Frame m s u := by
  cases e
  refine frame_onDomain (sub hm (by decide)) ?_ ?_
  · exact g0
  · intro x0_0 h0_0
    exact (frame_followTime (sub hm (by decide)) (frame_doExchangePeriod (sub hm (by decide)) h0_0))

theorem frame_execHoldoverLimitExpiry {m s v0} (hm : ([.time, .evSeq, .out, .dorm, .rings, .regs, .irq, .rate, .localQ, .links, .exch, .pair, .ready, .scan] : List Part) ⊆ m) (g0 : Frame m s v0) {u} (e : execHoldoverLimitExpiry v0 = .next u) : Frame m s u := by
  cases e
  refine frame_onDomain (sub hm (by decide)) ?_ ?_
  · exact g0
  · intro x0_0 h0_0
    exact (frame_followTime (sub hm (by decide)) (frame_doHoldoverExpiry (sub hm (by decide)) h0_0))

theorem frame_execMgmtRequest {m s v0 v1 v2} (hm : ([.free, .lanes, .regs, .evSeq, .out, .dorm, .rings, .irq, .rate, .localQ, .links, .exch, .mir, .power, .caps, .domain, .parity, .pair, .boot, .mbx, .sysCtl, .otp, .mpu, .mgmt, .scan, .ready, .aon, .mode, .commits, .inFlight, .dma, .done, .touch, .dormDb] : List Part) ⊆ m) (g2 : Frame m s v2) {u} (e : execMgmtRequest v0 v1 v2 = .next u) : Frame m s u := by
  cases e
  refine frame_onDomain (sub hm (by decide)) ?_ ?_
  · exact g2
  · intro x0_0 h0_0
    refine frame_onLinks (sub hm (by decide)) ?_ ?_
    · exact h0_0
    · intro x1_0 h1_0
      exact (frame_doMgmtRequest (sub hm (by decide)) h1_0)

theorem frame_execResp {m s v0 v1} (hm : ([.localQ, .mgmt, .regs, .out, .fum, .dec, .encs, .cmp, .inFlight, .dma, .done, .mir, .evSeq, .dorm, .rings, .irq, .rate, .links, .exch, .mem, .dram, .dap, .caps, .surf, .aon] : List Part) ⊆ m) (g1 : Frame m s v1) {u} (e : execResp v0 v1 = .next u) : Frame m s u := by
  cases e
  refine frame_onDomain (sub hm (by decide)) ?_ ?_
  · exact g1
  · intro x0_0 h0_0
    exact (frame_doResp (sub hm (by decide)) h0_0)

theorem frame_execMgmtRetryTimeout {m s v0 v1 v2} (hm : ([.mgmt, .evSeq, .out, .dorm, .rings, .regs, .irq, .rate, .localQ, .links, .exch, .fum, .dec, .encs, .cmp, .inFlight, .dma, .done, .mir, .mem, .dram, .dap] : List Part) ⊆ m) (g2 : Frame m s v2) {u} (e : execMgmtRetryTimeout v0 v1 v2 = .next u) : Frame m s u := by
  cases e
  refine frame_onDomain (sub hm (by decide)) ?_ ?_
  · exact g2
  · intro x0_0 h0_0
    exact (frame_doRetryTimeout (sub hm (by decide)) h0_0)

theorem frame_execEventPacket {m s v0 v1} (hm : ([.localQ, .evSeqs, .evSeq, .out, .rings, .regs, .irq] : List Part) ⊆ m) (g1 : Frame m s v1) {u} (e : execEventPacket v0 v1 = .next u) : Frame m s u := by
  cases e
  refine frame_onDomain (sub hm (by decide)) ?_ ?_
  · exact g1
  · intro x0_0 h0_0
    exact (frame_doEventPacket (sub hm (by decide)) h0_0)

theorem frame_execMirrorPacket {m s v0 v1} (hm : ([.localQ, .mir, .regs, .evSeq, .out, .dorm, .rings, .irq, .rate, .links, .exch, .mem, .dram, .inFlight, .dma, .done, .cmp, .fum, .commits, .mgmt, .scan, .pair] : List Part) ⊆ m) (g1 : Frame m s v1) {u} (e : execMirrorPacket v0 v1 = .next u) : Frame m s u := by
  cases e
  refine frame_onDomain (sub hm (by decide)) ?_ ?_
  · exact g1
  · intro x0_0 h0_0
    exact (frame_mirrorIn (sub hm (by decide)) h0_0)

theorem frame_execResyncReq {m s v0} (hm : ([.localQ, .mir, .regs, .evSeq, .out, .dorm, .rings, .irq, .rate, .links, .exch, .mem, .dram, .inFlight, .dma, .done, .cmp, .fum, .commits, .mgmt, .scan, .pair] : List Part) ⊆ m) (g0 : Frame m s v0) {u} (e : execResyncReq v0 = .next u) : Frame m s u := by
  cases e
  refine frame_onDomain (sub hm (by decide)) ?_ ?_
  · exact g0
  · intro x0_0 h0_0
    exact (frame_doResyncReq (sub hm (by decide)) h0_0)

theorem frame_execMirrorAck {m s v0 v1} (hm : ([.localQ, .mir, .regs, .evSeq, .out, .dorm, .rings, .irq, .rate, .links, .exch, .mem, .dram, .inFlight, .dma, .done, .cmp, .fum, .commits, .mgmt, .scan, .pair] : List Part) ⊆ m) (g1 : Frame m s v1) {u} (e : execMirrorAck v0 v1 = .next u) : Frame m s u := by
  cases e
  refine frame_onDomain (sub hm (by decide)) ?_ ?_
  · exact g1
  · intro x0_0 h0_0
    exact (frame_doMirrorAck (sub hm (by decide)) h0_0)

theorem frame_execAckTimeout {m s v0} (hm : ([.regs, .commits, .mir, .evSeq, .out, .dorm, .rings, .irq, .rate, .localQ, .links, .exch, .inFlight, .dma, .done] : List Part) ⊆ m) (g0 : Frame m s v0) {u} (e : execAckTimeout v0 = .next u) : Frame m s u := by
  cases e
  refine frame_onDomain (sub hm (by decide)) ?_ ?_
  · exact g0
  · intro x0_0 h0_0
    exact (frame_doAckTimeout (sub hm (by decide)) h0_0)

theorem frame_execAutoClaim {m s v0} (hm : ([.pair, .evSeq, .out, .dorm, .rings, .regs, .irq, .rate, .localQ, .links, .exch] : List Part) ⊆ m) (g0 : Frame m s v0) {u} (e : execAutoClaim v0 = .next u) : Frame m s u := by
  cases e
  exact (frame_doAutoClaim (sub hm (by decide)) g0)

theorem frame_execActingOwner {m s v0} (hm : ([.pair, .evSeq, .out, .dorm, .rings, .regs, .irq, .rate, .localQ, .links, .exch, .mode, .encs] : List Part) ⊆ m) (g0 : Frame m s v0) {u} (e : execActingOwner v0 = .next u) : Frame m s u := by
  cases e
  exact (frame_doActingOwner (sub hm (by decide)) g0)

theorem frame_execPairConflict {m s v0} (hm : ([.pair, .evSeq, .out, .dorm, .rings, .regs, .irq, .rate, .localQ, .links, .exch, .free, .mir, .mode, .aon, .commits, .inFlight, .dma, .done] : List Part) ⊆ m) (g0 : Frame m s v0) {u} (e : execPairConflict v0 = .next u) : Frame m s u := by
  cases e
  exact (frame_doPairConflict (sub hm (by decide)) g0)

theorem frame_execPairOwnIRise {m s v0} (hm : ([.pair, .evSeq, .out, .dorm, .rings, .regs, .irq, .rate, .localQ, .links, .exch] : List Part) ⊆ m) (g0 : Frame m s v0) {u} (e : execPairOwnIRise v0 = .next u) : Frame m s u := by
  cases e
  exact (frame_doOwnIRise (sub hm (by decide)) g0)

theorem frame_execRelinquish {m s v0 v1} (hm : ([.pair, .free, .mir, .mode, .evSeq, .out, .dorm, .rings, .regs, .irq, .rate, .localQ, .links, .exch, .aon, .commits, .inFlight, .dma, .done] : List Part) ⊆ m) (g1 : Frame m s v1) {u} (e : execRelinquish v0 v1 = .next u) : Frame m s u := by
  cases e
  exact (frame_doRelinquish (sub hm (by decide)) g1)

theorem frame_execTimeUnlockLimitExpiry {m s v0} (hm : ([.pair, .free, .mir, .mode, .evSeq, .out, .dorm, .rings, .regs, .irq, .rate, .localQ, .links, .exch, .aon, .commits, .inFlight, .dma, .done] : List Part) ⊆ m) (g0 : Frame m s v0) {u} (e : execTimeUnlockLimitExpiry v0 = .next u) : Frame m s u := by
  cases e
  refine frame_onDomain (sub hm (by decide)) ?_ ?_
  · exact g0
  · intro x0_0 h0_0
    exact (frame_doUnlockExpiry (sub hm (by decide)) h0_0)

theorem frame_execNm0Watchdog {m s v0} (hm : ([.pair, .free, .mir, .mode, .evSeq, .out, .dorm, .rings, .regs, .irq, .rate, .localQ, .links, .exch, .aon, .commits, .inFlight, .dma, .done, .ready, .power, .dram, .touch, .dec, .caps, .encs] : List Part) ⊆ m) (g0 : Frame m s v0) {u} (e : execNm0Watchdog v0 = .next u) : Frame m s u := by
  cases e
  exact (frame_doWatchdog (sub hm (by decide)) g0)

theorem frame_execStateDisagree {m s v0 v1 v2} (hm : ([.free, .pair, .rate, .evSeq, .out, .dorm, .rings, .regs, .irq, .localQ, .links, .exch] : List Part) ⊆ m) (g2 : Frame m s v2) {u} (e : execStateDisagree v0 v1 v2 = .next u) : Frame m s u := by
  cases e
  refine frame_onDomain (sub hm (by decide)) ?_ ?_
  · exact g2
  · intro x0_0 h0_0
    exact (frame_doStateDisagree (sub hm (by decide)) h0_0)

theorem frame_execFumaroleTick {m s v0} (hm : ([.fum, .evSeq, .out, .dorm, .rings, .regs, .irq, .rate, .localQ, .links, .exch] : List Part) ⊆ m) (g0 : Frame m s v0) {u} (e : execFumaroleTick v0 = .next u) : Frame m s u := by
  cases e
  exact (frame_doTick (sub hm (by decide)) g0)

theorem frame_execRecordLatch {m s v0 v1} (hm : ([.fum, .regs, .evSeq, .out, .dorm, .rings, .irq, .rate, .localQ, .links, .exch, .surf, .scan] : List Part) ⊆ m) (g1 : Frame m s v1) {u} (e : execRecordLatch v0 v1 = .next u) : Frame m s u := by
  cases e
  refine frame_onDomain (sub hm (by decide)) ?_ ?_
  · exact g1
  · intro x0_0 h0_0
    exact (frame_doRecordLatch (sub hm (by decide)) h0_0)

theorem frame_execScanStart {m s v0 v1} (hm : ([.fum, .regs, .evSeq, .out, .dorm, .rings, .irq, .rate, .localQ, .links, .exch, .surf, .scan, .pair, .free, .mir, .mode, .aon, .commits, .inFlight, .dma, .done] : List Part) ⊆ m) (g1 : Frame m s v1) {u} (e : execScanStart v0 v1 = .next u) : Frame m s u := by
  cases e
  refine frame_onDomain (sub hm (by decide)) ?_ ?_
  · exact g1
  · intro x0_0 h0_0
    exact (frame_doScanStart (sub hm (by decide)) h0_0)

theorem frame_execTileEventWindowEnd {m s v0 v1} (hm : ([.fum, .evSeq, .out, .dorm, .rings, .regs, .irq, .rate, .localQ, .links, .exch] : List Part) ⊆ m) (g1 : Frame m s v1) {u} (e : execTileEventWindowEnd v0 v1 = .next u) : Frame m s u := by
  cases e
  refine frame_onDomain (sub hm (by decide)) ?_ ?_
  · exact g1
  · intro x0_0 h0_0
    exact (frame_doTileWindowEnd (sub hm (by decide)) h0_0)

theorem frame_execOutputLine {m s v0 v1 v2 v3 v4} (hm : ([.scan, .regs, .evSeq, .out, .dorm, .rings, .irq, .rate, .localQ, .links, .exch, .fum, .pair, .free, .mir, .mode, .aon, .commits, .inFlight, .dma, .done, .encs, .surf] : List Part) ⊆ m) (g4 : Frame m s v4) {u} (e : execOutputLine v0 v1 v2 v3 v4 = .next u) : Frame m s u := by
  cases e
  refine frame_onDomain (sub hm (by decide)) ?_ ?_
  · exact g4
  · intro x0_0 h0_0
    exact (frame_doOutputLine (sub hm (by decide)) h0_0)

theorem frame_execFrameStart {m s v0 v1} (hm : ([.scan, .evSeq, .out, .dorm, .rings, .regs, .irq, .rate, .localQ, .links, .exch, .free, .cmp, .lanes, .fum, .pair, .inFlight, .dma, .done, .mir, .surf, .power, .caps] : List Part) ⊆ m) (g1 : Frame m s v1) {u} (e : execFrameStart v0 v1 = .next u) : Frame m s u := by
  cases e
  refine frame_onDomain (sub hm (by decide)) ?_ ?_
  · exact g1
  · intro x0_0 h0_0
    exact (frame_wakeBusy (sub hm (by decide)) (frame_doFrameStart (sub hm (by decide)) h0_0))

theorem frame_execVblankLineBoundary {m s v0 v1} (hm : ([.scan, .commits, .cmp, .fum, .regs, .inFlight, .dma, .done, .mir, .evSeq, .out, .dorm, .rings, .irq, .rate, .localQ, .links, .exch, .free, .lanes, .pair, .surf] : List Part) ⊆ m) (g1 : Frame m s v1) {u} (e : execVblankLineBoundary v0 v1 = .next u) : Frame m s u := by
  cases e
  refine frame_onDomain (sub hm (by decide)) ?_ ?_
  · exact g1
  · intro x0_0 h0_0
    exact (frame_doVblankLine (sub hm (by decide)) h0_0)

theorem frame_execCommitValidation {m s v0 v1} (hm : ([.commits, .regs, .mir, .evSeq, .out, .dorm, .rings, .irq, .rate, .localQ, .links, .exch, .inFlight, .dma, .done, .cmp, .fum] : List Part) ⊆ m) (g1 : Frame m s v1) {u} (e : execCommitValidation v0 v1 = .next u) : Frame m s u := by
  cases e
  refine frame_onDomain (sub hm (by decide)) ?_ ?_
  · exact g1
  · intro x0_0 h0_0
    exact (frame_doCommitValidation (sub hm (by decide)) h0_0)

theorem frame_execCommitApply {m s v0 v1} (hm : ([.scan, .commits, .cmp, .fum, .regs, .inFlight, .dma, .done, .mir, .evSeq, .out, .dorm, .rings, .irq, .rate, .localQ, .links, .exch] : List Part) ⊆ m) (g1 : Frame m s v1) {u} (e : execCommitApply v0 v1 = .next u) : Frame m s u := by
  cases e
  refine frame_onDomain (sub hm (by decide)) ?_ ?_
  · exact g1
  · intro x0_0 h0_0
    exact (frame_doCommitApply (sub hm (by decide)) h0_0)

theorem frame_execModeSetApply {m s v0 v1} (hm : ([.power, .caps, .out, .scan, .commits, .cmp, .fum, .regs, .inFlight, .dma, .done, .mir, .evSeq, .dorm, .rings, .irq, .rate, .localQ, .links, .exch, .surf, .pair] : List Part) ⊆ m) (g1 : Frame m s v1) {u} (e : execModeSetApply v0 v1 = .next u) : Frame m s u := by
  cases e
  refine frame_onDomain (sub hm (by decide)) ?_ ?_
  · exact g1
  · intro x0_0 h0_0
    exact (frame_doModeSetApply (sub hm (by decide)) (frame_wakeOutputs (sub hm (by decide)) h0_0))

theorem frame_execCheckCfgApply {m s v0 v1} (hm : ([.scan, .pair, .evSeq, .out, .dorm, .rings, .regs, .irq, .rate, .localQ, .links, .exch, .cmp, .inFlight, .dma, .done, .mir] : List Part) ⊆ m) (g1 : Frame m s v1) {u} (e : execCheckCfgApply v0 v1 = .next u) : Frame m s u := by
  cases e
  refine frame_onDomain (sub hm (by decide)) ?_ ?_
  · exact g1
  · intro x0_0 h0_0
    exact (frame_doCheckCfgApply (sub hm (by decide)) h0_0)

theorem frame_execCheckResult {m s v0 v1} (hm : ([.scan, .regs, .pair, .evSeq, .out, .dorm, .rings, .irq, .rate, .localQ, .links, .exch, .cmp, .free, .mir, .mode, .aon, .commits, .inFlight, .dma, .done] : List Part) ⊆ m) (g1 : Frame m s v1) {u} (e : execCheckResult v0 v1 = .next u) : Frame m s u := by
  cases e
  refine frame_onDomain (sub hm (by decide)) ?_ ?_
  · exact g1
  · intro x0_0 h0_0
    exact (frame_doCheckResult (sub hm (by decide)) h0_0)

theorem frame_execChkResultWindowEnd {m s v0 v1} (hm : ([.scan, .evSeq, .out, .dorm, .rings, .regs, .irq, .rate, .localQ, .links, .exch] : List Part) ⊆ m) (g1 : Frame m s v1) {u} (e : execChkResultWindowEnd v0 v1 = .next u) : Frame m s u := by
  cases e
  refine frame_onDomain (sub hm (by decide)) ?_ ?_
  · exact g1
  · intro x0_0 h0_0
    exact (frame_doChkWindowEnd (sub hm (by decide)) h0_0)

theorem frame_execSlateCopyEnd {m s v0 v1} (hm : ([.cmp, .regs, .evSeq, .out, .dorm, .rings, .irq, .rate, .localQ, .links, .exch, .mem, .dram, .inFlight, .dma, .done, .mir] : List Part) ⊆ m) (g1 : Frame m s v1) {u} (e : execSlateCopyEnd v0 v1 = .next u) : Frame m s u := by
  cases e
  refine frame_onDomain (sub hm (by decide)) ?_ ?_
  · exact g1
  · intro x0_0 h0_0
    exact (frame_doSlateCopyEnd (sub hm (by decide)) h0_0)

theorem frame_execSnapshotWriteEnd {m s v0} (hm : ([.evSeq, .out, .dorm, .rings, .regs, .irq, .rate, .localQ, .links, .exch, .mgmt, .fum, .dma, .inFlight, .done, .mir] : List Part) ⊆ m) (g0 : Frame m s v0) {u} (e : execSnapshotWriteEnd v0 = .next u) : Frame m s u := by
  cases e
  refine frame_onDomain (sub hm (by decide)) ?_ ?_
  · exact g0
  · intro x0_0 h0_0
    exact (frame_doSnapshotEnd (sub hm (by decide)) h0_0)

theorem frame_execEdidReadEnd {m s v0 v1 v2} (hm : ([.scan, .evSeq, .out, .dorm, .rings, .regs, .irq, .rate, .localQ, .links, .exch] : List Part) ⊆ m) (g2 : Frame m s v2) {u} (e : execEdidReadEnd v0 v1 v2 = .next u) : Frame m s u := by
  cases e
  refine frame_onDomain (sub hm (by decide)) ?_ ?_
  · exact g2
  · intro x0_0 h0_0
    exact (frame_doEdidEnd (sub hm (by decide)) h0_0)

theorem frame_execHpdUnplug {m s v0 v1} (hm : ([.scan, .evSeq, .out, .dorm, .rings, .regs, .irq, .rate, .localQ, .links, .exch] : List Part) ⊆ m) (g1 : Frame m s v1) {u} (e : execHpdUnplug v0 v1 = .next u) : Frame m s u := by
  cases e
  refine frame_onDomain (sub hm (by decide)) ?_ ?_
  · exact g1
  · intro x0_0 h0_0
    exact (frame_doHpdUnplug (sub hm (by decide)) h0_0)

theorem frame_execHpdPlug {m s v0 v1 v2} (hm : ([.scan, .evSeq, .out, .dorm, .rings, .regs, .irq, .rate, .localQ, .links, .exch] : List Part) ⊆ m) (g2 : Frame m s v2) {u} (e : execHpdPlug v0 v1 v2 = .next u) : Frame m s u := by
  cases e
  refine frame_onDomain (sub hm (by decide)) ?_ ?_
  · exact g2
  · intro x0_0 h0_0
    exact (frame_doHpdPlug (sub hm (by decide)) h0_0)

theorem frame_execIrqHpd {m s v0 v1 v2} (hm : ([.regs, .evSeq, .out, .dorm, .rings, .irq, .rate, .localQ, .links, .exch, .scan] : List Part) ⊆ m) (g2 : Frame m s v2) {u} (e : execIrqHpd v0 v1 v2 = .next u) : Frame m s u := by
  cases e
  refine frame_onDomain (sub hm (by decide)) ?_ ?_
  · exact g2
  · intro x0_0 h0_0
    exact (frame_doIrqHpd (sub hm (by decide)) h0_0)

theorem frame_execDpLinkTraining {m s v0 v1 v2} (hm : ([.scan, .out, .evSeq, .dorm, .rings, .regs, .irq, .rate, .localQ, .links, .exch] : List Part) ⊆ m) (g2 : Frame m s v2) {u} (e : execDpLinkTraining v0 v1 v2 = .next u) : Frame m s u := by
  cases e
  refine frame_onDomain (sub hm (by decide)) ?_ ?_
  · exact g2
  · intro x0_0 h0_0
    exact (frame_doDpTraining (sub hm (by decide)) h0_0)

theorem frame_execTrainingRetry {m s v0 v1} (hm : ([.scan] : List Part) ⊆ m) (g1 : Frame m s v1) {u} (e : execTrainingRetry v0 v1 = .next u) : Frame m s u := by
  cases e
  refine frame_onDomain (sub hm (by decide)) ?_ ?_
  · exact g1
  · intro x0_0 h0_0
    exact (frame_doTrainingRetry (sub hm (by decide)) h0_0)

theorem frame_execCapturePictureStart {m s v0 v1 v2} (hm : ([.caps, .evSeq, .out, .dorm, .rings, .regs, .irq, .rate, .localQ, .links, .exch, .dram, .mem, .surf] : List Part) ⊆ m) (g2 : Frame m s v2) {u} (e : execCapturePictureStart v0 v1 v2 = .next u) : Frame m s u := by
  cases e
  refine frame_onDomain (sub hm (by decide)) ?_ ?_
  · exact g2
  · intro x0_0 h0_0
    exact (frame_doCapStart (sub hm (by decide)) h0_0)

theorem frame_execCaptureBand {m s v0 v1 v2} (hm : ([.caps, .encs, .regs, .evSeq, .out, .dorm, .rings, .irq, .rate, .localQ, .links, .exch, .mem, .dram, .surf, .fum] : List Part) ⊆ m) (g2 : Frame m s v2) {u} (e : execCaptureBand v0 v1 v2 = .next u) : Frame m s u := by
  cases e
  refine frame_onDomain (sub hm (by decide)) ?_ ?_
  · exact g2
  · intro x0_0 h0_0
    exact (frame_doCapBand (sub hm (by decide)) h0_0)

theorem frame_execCapSignalLoss {m s v0 v1} (hm : ([.caps, .evSeq, .out, .dorm, .rings, .regs, .irq, .rate, .localQ, .links, .exch] : List Part) ⊆ m) (g1 : Frame m s v1) {u} (e : execCapSignalLoss v0 v1 = .next u) : Frame m s u := by
  cases e
  refine frame_onDomain (sub hm (by decide)) ?_ ?_
  · exact g1
  · intro x0_0 h0_0
    exact (frame_doCapLoss (sub hm (by decide)) h0_0)

theorem frame_execHpdPulseEnd {m s v0 v1} (hm : ([.caps, .out] : List Part) ⊆ m) (g1 : Frame m s v1) {u} (e : execHpdPulseEnd v0 v1 = .next u) : Frame m s u := by
  cases e
  refine frame_onDomain (sub hm (by decide)) ?_ ?_
  · exact g1
  · intro x0_0 h0_0
    exact (frame_doHpdPulseEnd (sub hm (by decide)) h0_0)

theorem frame_execSinkLinkTraining {m s v0 v1 v2 v3 v4} (hm : ([.caps, .free, .out, .evSeq, .dorm, .rings, .regs, .irq, .rate, .localQ, .links, .exch] : List Part) ⊆ m) (g4 : Frame m s v4) {u} (e : execSinkLinkTraining v0 v1 v2 v3 v4 = .next u) : Frame m s u := by
  cases e
  refine frame_onDomain (sub hm (by decide)) ?_ ?_
  · exact g4
  · intro x0_0 h0_0
    exact (frame_doSinkTraining (sub hm (by decide)) h0_0)

theorem frame_execEncPictureStart {m s v0 v1} (hm : ([.encs, .evSeq, .out, .dorm, .rings, .regs, .irq, .rate, .localQ, .links, .exch, .free] : List Part) ⊆ m) (g1 : Frame m s v1) {u} (e : execEncPictureStart v0 v1 = .next u) : Frame m s u := by
  cases e
  refine frame_onDomain (sub hm (by decide)) ?_ ?_
  · exact g1
  · intro x0_0 h0_0
    exact (frame_doEncStart (sub hm (by decide)) h0_0)

theorem frame_execSliceCoding {m s v0 v1 v2} (hm : ([.free, .encs, .regs, .rate, .evSeq, .out, .dorm, .rings, .irq, .localQ, .links, .exch, .inFlight, .dma, .done, .mir] : List Part) ⊆ m) (g2 : Frame m s v2) {u} (e : execSliceCoding v0 v1 v2 = .next u) : Frame m s u := by
  cases e
  refine frame_onDomain (sub hm (by decide)) ?_ ?_
  · exact g2
  · intro x0_0 h0_0
    exact (frame_doSliceCoding (sub hm (by decide)) h0_0)

theorem frame_execSliceReady {m s v0 v1 v2 v3} (hm : ([.encs, .free, .regs, .rate, .evSeq, .out, .dorm, .rings, .irq, .localQ, .links, .exch, .mgmt, .dma, .inFlight, .done, .mir] : List Part) ⊆ m) (g3 : Frame m s v3) {u} (e : execSliceReady v0 v1 v2 v3 = .next u) : Frame m s u := by
  cases e
  refine frame_onDomain (sub hm (by decide)) ?_ ?_
  · exact g3
  · intro x0_0 h0_0
    exact (frame_doSliceReady (sub hm (by decide)) h0_0)

theorem frame_execKeepalivePicture {m s v0 v1} (hm : ([.free, .encs, .regs, .rate, .evSeq, .out, .dorm, .rings, .irq, .localQ, .links, .exch] : List Part) ⊆ m) (g1 : Frame m s v1) {u} (e : execKeepalivePicture v0 v1 = .next u) : Frame m s u := by
  cases e
  refine frame_onDomain (sub hm (by decide)) ?_ ?_
  · exact g1
  · intro x0_0 h0_0
    exact (frame_doKeepalive (sub hm (by decide)) h0_0)

theorem frame_execKeepaliveExpiry {m s v0 v1} (hm : ([.encs, .evSeq, .out, .dorm, .rings, .regs, .irq, .rate, .localQ, .links, .exch] : List Part) ⊆ m) (g1 : Frame m s v1) {u} (e : execKeepaliveExpiry v0 v1 = .next u) : Frame m s u := by
  cases e
  refine frame_onDomain (sub hm (by decide)) ?_ ?_
  · exact g1
  · intro x0_0 h0_0
    exact (frame_doKeepExpiry (sub hm (by decide)) h0_0)

theorem frame_execPictureStart {m s v0 v1 v2} (hm : ([.dec, .regs, .rate, .evSeq, .out, .dorm, .rings, .irq, .localQ, .links, .exch, .mem, .dram, .inFlight, .dma, .done, .mir, .surf, .fum, .free] : List Part) ⊆ m) (g2 : Frame m s v2) {u} (e : execPictureStart v0 v1 v2 = .next u) : Frame m s u := by
  cases e
  refine frame_onDomain (sub hm (by decide)) ?_ ?_
  · exact g2
  · intro x0_0 h0_0
    exact (frame_doPictureStart (sub hm (by decide)) h0_0)

theorem frame_execSliceDecode {m s v0 v1 v2} (hm : ([.regs, .evSeq, .out, .dorm, .rings, .irq, .rate, .localQ, .links, .exch, .dram, .mem, .dec, .surf, .fum, .inFlight, .dma, .done, .mir] : List Part) ⊆ m) (g2 : Frame m s v2) {u} (e : execSliceDecode v0 v1 v2 = .next u) : Frame m s u := by
  cases e
  refine frame_onDomain (sub hm (by decide)) ?_ ?_
  · exact g2
  · intro x0_0 h0_0
    exact (frame_doSlice (sub hm (by decide)) h0_0)

theorem frame_execStallLimit {m s v0 v1} (hm : ([.rate, .evSeq, .out, .dorm, .rings, .regs, .irq, .localQ, .links, .exch, .dram, .mem, .dec, .surf, .fum, .inFlight, .dma, .done, .mir] : List Part) ⊆ m) (g1 : Frame m s v1) {u} (e : execStallLimit v0 v1 = .next u) : Frame m s u := by
  cases e
  refine frame_onDomain (sub hm (by decide)) ?_ ?_
  · exact g1
  · intro x0_0 h0_0
    exact (frame_doStallLimit (sub hm (by decide)) h0_0)

theorem frame_execDecConcealWindowEnd {m s v0 v1} (hm : ([.dec, .evSeq, .out, .dorm, .rings, .regs, .irq, .rate, .localQ, .links, .exch] : List Part) ⊆ m) (g1 : Frame m s v1) {u} (e : execDecConcealWindowEnd v0 v1 = .next u) : Frame m s u := by
  cases e
  refine frame_onDomain (sub hm (by decide)) ?_ ?_
  · exact g1
  · intro x0_0 h0_0
    exact (frame_doConcealEnd (sub hm (by decide)) h0_0)

theorem frame_execStreamDemux {m s v0 v1} (hm : ([.localQ, .regs, .dec, .evSeq, .out, .dorm, .rings, .irq, .rate, .links, .exch, .mem, .dram] : List Part) ⊆ m) (g1 : Frame m s v1) {u} (e : execStreamDemux v0 v1 = .next u) : Frame m s u := by
  cases e
  refine frame_onDomain (sub hm (by decide)) ?_ ?_
  · exact g1
  · intro x0_0 h0_0
    exact (frame_doDemux (sub hm (by decide)) h0_0)

theorem frame_execRasterPacket {m s v0 v1} (hm : ([.localQ, .dec, .regs, .evSeq, .out, .dorm, .rings, .irq, .rate, .links, .exch, .dram, .mem, .surf, .fum] : List Part) ⊆ m) (g1 : Frame m s v1) {u} (e : execRasterPacket v0 v1 = .next u) : Frame m s u := by
  cases e
  refine frame_onDomain (sub hm (by decide)) ?_ ?_
  · exact g1
  · intro x0_0 h0_0
    exact (frame_doRaster (sub hm (by decide)) h0_0)

theorem frame_execMemoryRequest {m s v0 v1 v2 v3 v4 v5} (hm : ([.regs, .evSeq, .out, .dorm, .rings, .irq, .rate, .localQ, .links, .exch, .boot, .free, .power, .caps, .mbx, .sysCtl, .otp, .mpu, .mgmt, .scan, .ready, .mir, .domain, .lanes, .aon, .pair, .mode, .commits, .inFlight, .dma, .done, .touch, .parity, .dram, .mem, .chans] : List Part) ⊆ m) (g5 : Frame m s v5) {u} (e : execMemoryRequest v0 v1 v2 v3 v4 v5 = .next u) : Frame m s u := by
  cases e
  refine frame_onDomain (sub hm (by decide)) ?_ ?_
  · exact g5
  · intro x0_0 h0_0
    exact (frame_doMasterRequest (sub hm (by decide)) h0_0)

theorem frame_execChannelIssue {m s v0 v1 v2} (hm : ([.chans, .out, .dram, .regs, .rate, .evSeq, .dorm, .rings, .irq, .localQ, .links, .exch, .mem, .aon, .pair, .free, .mir, .mode, .commits, .inFlight, .dma, .done, .ready, .power, .touch, .dec, .caps, .encs, .cmp] : List Part) ⊆ m) (g2 : Frame m s v2) {u} (e : execChannelIssue v0 v1 v2 = .next u) : Frame m s u := by
  cases e
  refine frame_onDomain (sub hm (by decide)) ?_ ?_
  · exact g2
  · intro x0_0 h0_0
    exact (frame_doChannelIssue (sub hm (by decide)) h0_0)

theorem frame_execCommandError {m s v0 v1 v2} (hm : ([.dram, .mem, .aon, .evSeq, .out, .dorm, .rings, .regs, .irq, .rate, .localQ, .links, .exch, .pair, .free, .mir, .mode, .commits, .inFlight, .dma, .done, .ready, .power, .touch, .dec, .caps, .encs, .cmp] : List Part) ⊆ m) (g2 : Frame m s v2) {u} (e : execCommandError v0 v1 v2 = .next u) : Frame m s u := by
  cases e
  refine frame_onDomain (sub hm (by decide)) ?_ ?_
  · exact g2
  · intro x0_0 h0_0
    exact (frame_doCommandError (sub hm (by decide)) h0_0)

theorem frame_execThrottleExpiry {m s v0 v1} (hm : ([.dram, .mem, .chans, .regs] : List Part) ⊆ m) (g1 : Frame m s v1) {u} (e : execThrottleExpiry v0 v1 = .next u) : Frame m s u := by
  cases e
  refine frame_onDomain (sub hm (by decide)) ?_ ?_
  · exact g1
  · intro x0_0 h0_0
    exact (frame_doThrottleExpiry (sub hm (by decide)) h0_0)

theorem frame_execScrubRead {m s v0 v1 v2} (hm : ([.chans, .out, .dram, .regs, .rate, .evSeq, .dorm, .rings, .irq, .localQ, .links, .exch, .mem, .aon, .pair, .free, .mir, .mode, .commits, .inFlight, .dma, .done, .ready, .power, .touch, .dec, .caps, .encs, .cmp] : List Part) ⊆ m) (g2 : Frame m s v2) {u} (e : execScrubRead v0 v1 v2 = .next u) : Frame m s u := by
  cases e
  refine frame_onDomain (sub hm (by decide)) ?_ ?_
  · exact g2
  · intro x0_0 h0_0
    exact (frame_doScrub (sub hm (by decide)) h0_0)

theorem frame_execRefresh {m s v0 v1 v2} (hm : ([.chans, .out] : List Part) ⊆ m) (g2 : Frame m s v2) {u} (e : execRefresh v0 v1 v2 = .next u) : Frame m s u := by
  cases e
  refine frame_onDomain (sub hm (by decide)) ?_ ?_
  · exact g2
  · intro x0_0 h0_0
    exact (frame_doRefresh (sub hm (by decide)) h0_0)

theorem frame_execChannelRetrain {m s v0 v1 v2} (hm : ([.dram, .chans] : List Part) ⊆ m) (g2 : Frame m s v2) {u} (e : execChannelRetrain v0 v1 v2 = .next u) : Frame m s u := by
  cases e
  refine frame_onDomain (sub hm (by decide)) ?_ ?_
  · exact g2
  · intro x0_0 h0_0
    exact (frame_doRetrain (sub hm (by decide)) h0_0)

theorem frame_execChannelRetrainEnd {m s v0 v1 v2} (hm : ([.dram, .regs, .evSeq, .out, .dorm, .rings, .irq, .rate, .localQ, .links, .exch, .mem, .chans] : List Part) ⊆ m) (g2 : Frame m s v2) {u} (e : execChannelRetrainEnd v0 v1 v2 = .next u) : Frame m s u := by
  cases e
  refine frame_onDomain (sub hm (by decide)) ?_ ?_
  · exact g2
  · intro x0_0 h0_0
    exact (frame_doRetrainEnd (sub hm (by decide)) h0_0)

theorem frame_execMemoryTrainingEnd {m s v0 v1 v2} (hm : ([.dram, .out, .chans, .free, .evSeq, .dorm, .rings, .regs, .irq, .rate, .localQ, .links, .exch, .power, .mem, .ready] : List Part) ⊆ m) (g2 : Frame m s v2) {u} (e : execMemoryTrainingEnd v0 v1 v2 = .next u) : Frame m s u := by
  cases e
  refine frame_onDomain (sub hm (by decide)) ?_ ?_
  · exact g2
  · intro x0_0 h0_0
    exact (frame_doTrainingEnd (sub hm (by decide)) h0_0)

theorem frame_execSegmentInitialized {m s v0} (hm : ([.dram, .evSeq, .out, .dorm, .rings, .regs, .irq, .rate, .localQ, .links, .exch, .mem, .chans, .ready] : List Part) ⊆ m) (g0 : Frame m s v0) {u} (e : execSegmentInitialized v0 = .next u) : Frame m s u := by
  cases e
  refine frame_onDomain (sub hm (by decide)) ?_ ?_
  · exact g0
  · intro x0_0 h0_0
    exact (frame_doSegment (sub hm (by decide)) h0_0)

theorem frame_execFullReset {m s v0 v1} (hm : ([.out, .held, .ft, .evSeq, .rate, .regs, .sysCtl, .mem, .otp, .mode, .ready, .power, .boot, .mbx, .mpu, .parity, .dap, .therm, .dorm, .rings, .done, .inFlight, .dma, .pcie, .irq, .dormDb, .links, .mgmt, .evSeqs, .localQ, .domain, .dram, .chans, .pair, .mir, .commits, .time, .exch, .surf, .fum, .dec, .caps, .encs, .cmp, .scan, .touch, .lanes] : List Part) ⊆ m) (g1 : Frame m s v1) {u} (e : execFullReset v0 v1 = .next u) : Frame m s u := by
  cases e
  exact (frame_doFullReset (sub hm (by decide)) g1)

theorem frame_execResetRelease {m s v0 v1 v2} (hm : ([.ft, .otp, .straps, .power, .pair, .time] : List Part) ⊆ m) (g2 : Frame m s v2) {u} (e : execResetRelease v0 v1 v2 = .next u) : Frame m s u := by
  cases e
  exact (frame_doResetRelease (sub hm (by decide)) g2)

theorem frame_execBootChunkCopyEnd {m s v0} (hm : ([.boot] : List Part) ⊆ m) (g0 : Frame m s v0) {u} (e : execBootChunkCopyEnd v0 = .next u) : Frame m s u := by
  cases e
  refine frame_onDomain (sub hm (by decide)) ?_ ?_
  · exact g0
  · intro x0_0 h0_0
    exact (frame_doChunkCopyEnd (sub hm (by decide)) h0_0)

theorem frame_execImageVerificationEnd {m s v0 v1 v2} (hm : ([.boot, .evSeq, .out, .dorm, .rings, .regs, .irq, .rate, .localQ, .links, .exch, .ready, .free] : List Part) ⊆ m) (g2 : Frame m s v2) {u} (e : execImageVerificationEnd v0 v1 v2 = .next u) : Frame m s u := by
  cases e
  refine frame_onDomain (sub hm (by decide)) ?_ ?_
  · exact g2
  · intro x0_0 h0_0
    exact (frame_doImageEnd (sub hm (by decide)) h0_0)

theorem frame_execFirmwareUnitStart {m s v0} (hm : ([.power, .caps, .out, .ready, .evSeq, .dorm, .rings, .regs, .irq, .rate, .localQ, .links, .exch, .mode, .touch, .scan] : List Part) ⊆ m) (g0 : Frame m s v0) {u} (e : execFirmwareUnitStart v0 = .next u) : Frame m s u := by
  cases e
  refine frame_onDomain (sub hm (by decide)) ?_ ?_
  · exact g0
  · intro x0_0 h0_0
    exact (frame_followTime (sub hm (by decide)) (frame_doUnitStart (sub hm (by decide)) h0_0))

theorem frame_execParityScrub {m s v0 v1} (hm : ([.parity, .regs, .rate, .evSeq, .out, .dorm, .rings, .irq, .localQ, .links, .exch, .pair, .free, .mir, .mode, .aon, .commits, .inFlight, .dma, .done] : List Part) ⊆ m) (g1 : Frame m s v1) {u} (e : execParityScrub v0 v1 = .next u) : Frame m s u := by
  cases e
  exact (frame_doParityScrub (sub hm (by decide)) g1)

theorem frame_execThermalGovernor {m s v0 v1} (hm : ([.aon, .therm, .pair, .free, .mir, .mode, .evSeq, .out, .dorm, .rings, .regs, .irq, .rate, .localQ, .links, .exch, .commits, .inFlight, .dma, .done, .power] : List Part) ⊆ m) (g1 : Frame m s v1) {u} (e : execThermalGovernor v0 v1 = .next u) : Frame m s u := by
  cases e
  exact (frame_doGovernor (sub hm (by decide)) g1)

theorem frame_execThermalTrip {m s v0} (hm : ([.pair, .free, .mir, .mode, .evSeq, .out, .dorm, .rings, .regs, .irq, .rate, .localQ, .links, .exch, .aon, .commits, .inFlight, .dma, .done, .ready, .power, .dram, .touch, .dec, .caps, .encs, .cmp, .therm] : List Part) ⊆ m) (g0 : Frame m s v0) {u} (e : execThermalTrip v0 = .next u) : Frame m s u := by
  cases e
  exact (frame_doThermalTrip (sub hm (by decide)) g0)

theorem frame_execDormantThermalTrip {m s v0 v1} (hm : ([.aon, .therm, .pair, .free, .mir, .mode, .evSeq, .out, .dorm, .rings, .regs, .irq, .rate, .localQ, .links, .exch, .commits, .inFlight, .dma, .done] : List Part) ⊆ m) (g1 : Frame m s v1) {u} (e : execDormantThermalTrip v0 v1 = .next u) : Frame m s u := by
  cases e
  exact (frame_doDormantTrip (sub hm (by decide)) g1)

theorem frame_execThermalCut {m s v0} (hm : ([.pair, .free, .mir, .mode, .evSeq, .out, .dorm, .rings, .regs, .irq, .rate, .localQ, .links, .exch, .aon, .commits, .inFlight, .dma, .done, .ready, .power, .dram, .touch, .dec, .caps, .encs, .cmp, .therm, .held, .sysCtl, .mem, .boot, .mbx, .mpu, .parity, .dap, .pcie, .dormDb, .mgmt, .evSeqs, .domain, .chans, .surf, .fum, .scan, .lanes] : List Part) ⊆ m) (g0 : Frame m s v0) {u} (e : execThermalCut v0 = .next u) : Frame m s u := by
  cases e
  exact (frame_doThermalCut (sub hm (by decide)) g0)

theorem frame_execPllLockLoss {m s v0 v1 v2} (hm : ([.power, .pair, .free, .mir, .mode, .evSeq, .out, .dorm, .rings, .regs, .irq, .rate, .localQ, .links, .exch, .aon, .commits, .inFlight, .dma, .done, .ready, .dram, .touch, .dec, .caps, .encs] : List Part) ⊆ m) (g2 : Frame m s v2) {u} (e : execPllLockLoss v0 v1 v2 = .next u) : Frame m s u := by
  cases e
  exact (frame_doLockLoss (sub hm (by decide)) g2)

theorem frame_execPllRelock {m s v0 v1} (hm : ([.power, .pair] : List Part) ⊆ m) (g1 : Frame m s v1) {u} (e : execPllRelock v0 v1 = .next u) : Frame m s u := by
  cases e
  exact (frame_doRelock (sub hm (by decide)) g1)

theorem frame_execIdleGating {m s v0 v1} (hm : ([.power, .dec, .regs, .out, .caps, .encs, .scan] : List Part) ⊆ m) (g1 : Frame m s v1) {u} (e : execIdleGating v0 v1 = .next u) : Frame m s u := by
  cases e
  exact (frame_doIdleGating (sub hm (by decide)) g1)

theorem frame_execUnitWake {m s v0 v1} (hm : ([.power, .caps, .out] : List Part) ⊆ m) (g1 : Frame m s v1) {u} (e : execUnitWake v0 v1 = .next u) : Frame m s u := by
  cases e
  exact (frame_doUnitWake (sub hm (by decide)) g1)

theorem frame_execDormantPowerDown {m s v0} (hm : ([.free, .pair, .mir, .mode, .evSeq, .out, .dorm, .rings, .regs, .irq, .rate, .localQ, .links, .exch, .aon, .commits, .inFlight, .dma, .done, .held, .mem, .mgmt, .ready, .chans, .dram, .power, .touch, .dec, .caps, .encs, .cmp, .sysCtl, .boot, .mbx, .mpu, .parity, .dap, .dormDb, .evSeqs, .domain, .surf, .fum, .scan, .lanes] : List Part) ⊆ m) (g0 : Frame m s v0) {u} (e : execDormantPowerDown v0 = .next u) : Frame m s u := by
  cases e
  exact (frame_doPowerDown (sub hm (by decide)) g0)

theorem frame_execWake {m s v0 v1} (hm : ([.mode, .dorm, .power, .dram, .time, .exch, .evSeq, .out, .rings, .regs, .irq, .rate, .localQ, .links] : List Part) ⊆ m) (g1 : Frame m s v1) {u} (e : execWake v0 v1 = .next u) : Frame m s u := by
  cases e
  exact (frame_doWake (sub hm (by decide)) g1)

theorem frame_execResume {m s v0 v1} (hm : ([.free, .lanes, .regs, .evSeq, .out, .dorm, .rings, .irq, .rate, .localQ, .links, .exch, .mir, .boot, .done, .dormDb, .pair, .sysCtl, .mpu, .domain, .fum, .caps, .cmp, .scan, .touch, .mgmt, .surf, .mem, .dram, .time, .ready] : List Part) ⊆ m) (g1 : Frame m s v1) {u} (e : execResume v0 v1 = .next u) : Frame m s u := by
  cases e
  refine frame_onLinks (sub hm (by decide)) ?_ ?_
  · exact g1
  · intro x0_0 h0_0
    exact (frame_followTime (sub hm (by decide)) (frame_doResume (sub hm (by decide)) h0_0))

theorem frame_execSupplyDropout {m s v0} (hm : ([.power, .pair, .free, .mir, .mode, .evSeq, .out, .dorm, .rings, .regs, .irq, .rate, .localQ, .links, .exch, .aon, .commits, .inFlight, .dma, .done] : List Part) ⊆ m) (g0 : Frame m s v0) {u} (e : execSupplyDropout v0 = .next u) : Frame m s u := by
  cases e
  exact (frame_doDropout (sub hm (by decide)) g0)

theorem frame_execAonReset {m s v0} (hm : ([.held, .ft, .evSeq, .rate, .regs, .sysCtl, .mem, .otp, .mode, .ready, .power, .boot, .mbx, .mpu, .parity, .dap, .therm, .dorm, .rings, .done, .inFlight, .dma, .pcie, .irq, .dormDb, .links, .mgmt, .evSeqs, .localQ, .domain, .dram, .chans, .pair, .mir, .commits, .time, .exch, .surf, .fum, .dec, .caps, .encs, .cmp, .scan, .touch, .lanes, .out, .aon] : List Part) ⊆ m) (g0 : Frame m s v0) {u} (e : execAonReset v0 = .next u) : Frame m s u := by
  cases e
  exact (frame_doAonReset (sub hm (by decide)) g0)

theorem frame_execScanCycle {m s v0 v1 v2 v3 v4} (hm : ([.touch, .ready, .evSeq, .out, .dorm, .rings, .regs, .irq, .rate, .localQ, .links, .exch, .free] : List Part) ⊆ m) (g4 : Frame m s v4) {u} (e : execScanCycle v0 v1 v2 v3 v4 = .next u) : Frame m s u := by
  cases e
  refine frame_onDomain (sub hm (by decide)) ?_ ?_
  · exact g4
  · intro x0_0 h0_0
    exact (frame_doScanCycle (sub hm (by decide)) h0_0)

theorem frame_execWakeScan {m s v0 v1 v2} (hm : ([.touch, .mode, .dorm, .power, .dram, .time, .exch, .evSeq, .out, .rings, .regs, .irq, .rate, .localQ, .links] : List Part) ⊆ m) (g2 : Frame m s v2) {u} (e : execWakeScan v0 v1 v2 = .next u) : Frame m s u := by
  cases e
  exact (frame_doWakeScan (sub hm (by decide)) g2)

theorem frame_execLaneTempCheck {m s v0 v1 v2 v3} (hm : ([.aon, .therm, .lanes] : List Part) ⊆ m) (g3 : Frame m s v3) {u} (e : execLaneTempCheck v0 v1 v2 v3 = .next u) : Frame m s u := by
  cases e
  refine frame_onDomain (sub hm (by decide)) ?_ ?_
  · exact g3
  · intro x0_0 h0_0
    exact (frame_doLaneTemp (sub hm (by decide)) h0_0)

theorem frame_execClassTRun {m s v0 v1 v2 v3} (hm : ([.lanes, .rate, .evSeq, .out, .dorm, .rings, .regs, .irq, .localQ, .links, .exch] : List Part) ⊆ m) (g3 : Frame m s v3) {u} (e : execClassTRun v0 v1 v2 v3 = .next u) : Frame m s u := by
  cases e
  refine frame_onDomain (sub hm (by decide)) ?_ ?_
  · exact g3
  · intro x0_0 h0_0
    exact (frame_doClassT (sub hm (by decide)) h0_0)

theorem frame_execEyeScan {m s v0 v1 v2 v3} (hm : ([.lanes, .rate, .evSeq, .out, .dorm, .rings, .regs, .irq, .localQ, .links, .exch] : List Part) ⊆ m) (g3 : Frame m s v3) {u} (e : execEyeScan v0 v1 v2 v3 = .next u) : Frame m s u := by
  cases e
  refine frame_onDomain (sub hm (by decide)) ?_ ?_
  · exact g3
  · intro x0_0 h0_0
    exact (frame_doLaneScan (sub hm (by decide)) h0_0)

theorem frame_execCorrectionStep {m s v0 v1 v2} (hm : ([.lanes] : List Part) ⊆ m) (g2 : Frame m s v2) {u} (e : execCorrectionStep v0 v1 v2 = .next u) : Frame m s u := by
  cases e
  refine frame_onDomain (sub hm (by decide)) ?_ ?_
  · exact g2
  · intro x0_0 h0_0
    exact (frame_doCorrection (sub hm (by decide)) h0_0)

end Machine
end Sys2Proof
end

