-- ==== Sys2Proof/Laws/Memory.lean ====
section
/-! SUPPORT. Laws of device memory: every operation keeps the canonical form, a read after a write gives the value written, and a write leaves
every other address alone. -/

set_option Elab.async false

namespace Sys2Proof
namespace Machine

/-- The canonical form of a nonempty memory, said of its first entry and its rest. -/
theorem wf_cons (e : Host.Cell) (m : List Host.Cell) :
    Memory.wf (e :: m) = true ↔ e.2 ≠ memDefault ∧ (∀ x ∈ m, e.1 < x.1) ∧ Memory.wf m = true := by
  induction m generalizing e with
  | nil => simp [Memory.wf]
  | cons x m ih =>
    obtain ⟨a, b⟩ := e
    obtain ⟨a', b'⟩ := x
    have h : Memory.wf ((a, b) :: (a', b') :: m) = true
        ↔ b ≠ memDefault ∧ a < a' ∧ Memory.wf ((a', b') :: m) = true := by
      simp [Memory.wf, and_assoc]
    rw [h]
    constructor
    · rintro ⟨h1, h2, h3⟩
      refine ⟨h1, ?_, h3⟩
      intro y hy
      rcases List.mem_cons.1 hy with rfl | hy
      · exact h2
      · exact lt_trans h2 (((ih _).1 h3).2.1 y hy)
    · rintro ⟨h1, h2, h3⟩
      exact ⟨h1, h2 (a', b') (by simp), h3⟩

/-- An address below every listed one reads as the default. -/
theorem memGet_below (m : List Host.Cell) (a : Nat) (h : ∀ e ∈ m, a < e.1) : memGet m a = memDefault := by
  induction m with
  | nil => rfl
  | cons e m ih =>
    have h1 := h e (by simp)
    simp [memGet, Nat.ne_of_lt h1, ih (fun x hx => h x (by simp [hx]))]

/-- Addresses listed after a byte is set were listed before, or are its own. -/
theorem memSet_mem (m : List Host.Cell) (a : Nat) (b : Byte) (e : Host.Cell) (h : e ∈ memSet m a b) : e ∈ m ∨ e = (a, b) := by
  induction m with
  | nil =>
    by_cases hb : b = memDefault <;> simp_all [memSet]
  | cons x m ih =>
    obtain ⟨k, c⟩ := x
    rw [memSet] at h
    split_ifs at h <;> simp only [List.mem_cons] at h ⊢
    all_goals tauto

/-- Setting a byte keeps the canonical form. -/
theorem memSet_wf (m : List Host.Cell) (a : Nat) (b : Byte) (h : Memory.wf m = true) : Memory.wf (memSet m a b) = true := by
  induction m with
  | nil => by_cases hb : b = memDefault <;> simp [memSet, hb, Memory.wf]
  | cons x m ih =>
    obtain ⟨k, c⟩ := x
    obtain ⟨h1, h2, h3⟩ := (wf_cons _ _).1 h
    simp only [memSet]
    split_ifs with g1 g2 g3 g4
    · exact h
    · refine (wf_cons _ _).2 ⟨g2, ?_, h⟩
      intro y hy
      rcases List.mem_cons.1 hy with rfl | hy
      · exact g1
      · exact lt_trans g1 (h2 y hy)
    · exact h3
    · exact (wf_cons _ _).2 ⟨g4, fun y hy => g3 ▸ h2 y hy, h3⟩
    · refine (wf_cons _ _).2 ⟨h1, ?_, ih h3⟩
      intro y hy
      rcases memSet_mem _ _ _ _ hy with hy | rfl
      · exact h2 y hy
      · simp; omega

/-- Writing bytes keeps the canonical form. -/
theorem memWrite_wf (m : List Host.Cell) (a : Nat) (d : List Byte) (h : Memory.wf m = true) :
    Memory.wf (memWrite m a d) = true := by
  induction d generalizing m a with
  | nil => simpa [memWrite] using h
  | cons b d ih => exact ih _ _ (memSet_wf m a b h)

/-- Dropping entries keeps the canonical form. -/
theorem memFilter_wf (m : List Host.Cell) (p : Host.Cell → Bool) (h : Memory.wf m = true) : Memory.wf (m.filter p) = true := by
  induction m with
  | nil => simpa using h
  | cons e m ih =>
    obtain ⟨h1, h2, h3⟩ := (wf_cons _ _).1 h
    rw [List.filter_cons]
    split
    · exact (wf_cons _ _).2 ⟨h1, fun y hy => h2 y (List.mem_filter.1 hy).1, ih h3⟩
    · exact ih h3

/-- Zeroing a range keeps the canonical form. -/
theorem memClear_wf (m : List Host.Cell) (lo hi : Nat) (h : Memory.wf m = true) : Memory.wf (memClear m lo hi) = true :=
  memFilter_wf m _ h

/-- Two canonical memories, every address of the first below those of the second, joined. -/
theorem append_wf (m n : List Host.Cell) (hm : Memory.wf m = true) (hn : Memory.wf n = true)
    (h : ∀ x ∈ m, ∀ y ∈ n, x.1 < y.1) : Memory.wf (m ++ n) = true := by
  induction m with
  | nil => simpa using hn
  | cons e m ih =>
    obtain ⟨h1, h2, h3⟩ := (wf_cons _ _).1 hm
    refine (wf_cons _ _).2 ⟨h1, ?_, ih h3 (fun x hx y hy => h x (by simp [hx]) y hy)⟩
    intro y hy
    rcases List.mem_append.1 hy with hy | hy
    · exact h2 y hy
    · exact h e (by simp) y hy

/-- Bytes at consecutive addresses, those equal to the default left out, are canonical. -/
theorem run_wf (lo n : Nat) (f : Nat → Byte) :
    Memory.wf (((List.range n).map (fun i => (lo + i, f i))).filter (fun e => !(e.2 == memDefault))) = true := by
  induction n with
  | zero => rfl
  | succ n ih =>
    rw [List.range_succ, List.map_append, List.filter_append]
    refine append_wf _ _ ih ?_ ?_
    · by_cases hb : f n = memDefault <;> simp [hb, Memory.wf]
    · intro x hx y hy
      simp only [List.mem_filter, List.mem_map, List.mem_range] at hx hy
      obtain ⟨⟨i, hi, rfl⟩, -⟩ := hx
      obtain ⟨⟨k, hk, rfl⟩, -⟩ := hy
      simp at hk
      simp; omega

/-- Filling a range keeps the canonical form. -/
theorem memFill_wf (m : List Host.Cell) (lo n : Nat) (f : Nat → Byte) (h : Memory.wf m = true) :
    Memory.wf (memFill m lo n f) = true := by
  refine append_wf _ _ (append_wf _ _ (memFilter_wf m _ h) (run_wf lo n f) ?_) (memFilter_wf m _ h) ?_
  · intro x hx y hy
    simp only [List.mem_filter, decide_eq_true_eq, List.mem_map, List.mem_range] at hx hy
    obtain ⟨⟨i, hi, rfl⟩, -⟩ := hy
    have := hx.2
    simp; omega
  · intro x hx y hy
    simp only [List.mem_append, List.mem_filter, decide_eq_true_eq, List.mem_map, List.mem_range] at hx hy
    rcases hx with ⟨-, hx⟩ | ⟨⟨i, hi, rfl⟩, -⟩
    · have := hy.2; omega
    · have := hy.2; simp; omega

/-- A read after a set of one byte, in canonical memory. -/
theorem memGet_memSet (m : List Host.Cell) (a x : Nat) (b : Byte) (h : Memory.wf m = true) :
    memGet (memSet m a b) x = if x = a then b else memGet m x := by
  induction m with
  | nil =>
    by_cases hb : b = memDefault <;> by_cases hx : x = a <;> simp [memSet, memGet, hb, hx]
  | cons e m ih =>
    obtain ⟨k, c⟩ := e
    obtain ⟨h1, h2, h3⟩ := (wf_cons _ _).1 h
    by_cases g1 : a < k
    · have hbelow : memGet ((k, c) :: m) a = memDefault := memGet_below _ _ (fun y hy => by
        rcases List.mem_cons.1 hy with rfl | hy
        · exact g1
        · exact lt_trans g1 (h2 y hy))
      by_cases hb : b = memDefault
      · by_cases hx : x = a
        · subst hx; simp [memSet, g1, hb, hbelow]
        · simp [memSet, g1, hb, hx]
      · by_cases hx : x = a <;> simp [memSet, g1, hb, hx, memGet]
    · by_cases g3 : a = k
      · subst g3
        have hbelow : memGet m a = memDefault := memGet_below _ _ h2
        by_cases hb : b = memDefault
        · by_cases hx : x = a
          · subst hx; simp [memSet, hb, hbelow]
          · simp [memSet, hb, hx, memGet]
        · by_cases hx : x = a <;> simp [memSet, hb, hx, memGet]
      · by_cases hk : x = k
        · have hx : x ≠ a := by omega
          subst hk
          simp [memSet, g1, g3, memGet, hx]
        · simp [memSet, g1, g3, memGet, hk, ih h3]

/-- A read after a write of bytes: inside the written range the byte written, elsewhere what was there. -/
theorem memGet_memWrite (m : List Host.Cell) (a x : Nat) (d : List Byte) (h : Memory.wf m = true) :
    memGet (memWrite m a d) x = if a ≤ x ∧ x < a + d.length then d.getD (x - a) 0 else memGet m x := by
  induction d generalizing m a with
  | nil =>
    have : ¬(a ≤ x ∧ x < a + ([] : List Byte).length) := by simp
    rw [if_neg this, memWrite]
  | cons b d ih =>
    rw [memWrite, ih _ _ (memSet_wf m a b h), memGet_memSet m a x b h]
    simp only [List.length_cons]
    by_cases h1 : x = a
    · subst h1
      have h0 : ¬(x + 1 ≤ x ∧ x < x + 1 + d.length) := by omega
      have h3 : x ≤ x ∧ x < x + (d.length + 1) := by omega
      rw [if_neg h0, if_pos rfl, if_pos h3]
      simp
    · by_cases h2 : a + 1 ≤ x ∧ x < a + 1 + d.length
      · have : a ≤ x ∧ x < a + (d.length + 1) := by omega
        rw [if_pos h2, if_pos this]
        obtain ⟨n, rfl⟩ : ∃ n, x = a + 1 + n := ⟨x - (a + 1), by omega⟩
        have e1 : a + 1 + n - (a + 1) = n := by omega
        have e2 : a + 1 + n - a = n + 1 := by omega
        simp [e1, e2]
      · have : ¬(a ≤ x ∧ x < a + (d.length + 1)) := by omega
        rw [if_neg h2, if_neg h1, if_neg this]

/-- A byte read is the listed one, or the default. -/
@[simp] theorem memRead_length (m : List Host.Cell) (a n : Nat) : (memRead m a n).length = n := by
  induction n generalizing a with
  | zero => rfl
  | succ n ih => simp [memRead, ih]

/-- After reset device memory is canonical. -/
theorem reset_mem_wf : Memory.wf State.reset.mem = true := rfl

end Machine
end Sys2Proof
end

