-- ==== Sys2Proof/Laws/Keeps.lean ====
section
/-! SUPPORT. What every operation but a reset and the power-down of DORMANT keeps, as one relation between the state before and the state
after, and the lemmas that carry it through choices, loops and updates of other fields. -/

set_option Elab.async false

namespace Sys2Proof
namespace Machine

/-- What an operation keeps from s to t: canonical memory, the pair's pins, the one-way lifecycle, the bar, locked MPU regions, the queue
of waiting commands, everything already put out, and the clock's direction. -/
structure Keeps (s t : State) : Prop where
  mem    : MemOk s → MemOk t
  pins   : PinsOk s → PinsOk t
  otp    : OtpStep s t
  barred : s.pair.barred = true → t.pair.barred = true
  locks  : ∀ r g, s.sys.mpu.get? r = some g → g.lock = true → t.sys.mpu.get? r = some g
  queue  : t.pending = s.pending
  log    : s.out <:+ t.out
  clock  : s.clk ≤ t.clk

/-- The fields that Keeps speaks of. -/
def State.kept (s : State) : List Host.Cell × OtpRec × (Nat × Bool × Bool × Bool) × Tab MpuRegion × List Instr × List Out × Nat :=
  (s.mem, s.otp, (s.pair.state, s.pair.ownO, s.pair.selO, s.pair.barred), s.sys.mpu, s.pending, s.out, s.clk)

theorem OtpStep.refl (s : State) : OtpStep s s := ⟨rfl, rfl, rfl, rfl, rfl, rfl, rfl, .inl rfl⟩

theorem OtpStep.trans {s t u : State} (h : OtpStep s t) (k : OtpStep t u) : OtpStep s u := by
  obtain ⟨h1, h2, h3, h4, h6, h7, h8, h5⟩ := h
  obtain ⟨k1, k2, k3, k4, k6, k7, k8, k5⟩ := k
  refine ⟨k1.trans h1, k2.trans h2, k3.trans h3, k4.trans h4, k6.trans h6, k7.trans h7, k8.trans h8, ?_⟩
  rcases h5 with h5 | ⟨h5, h6⟩ <;> rcases k5 with k5 | ⟨k5, k6⟩ <;> simp_all

theorem Keeps.refl (s : State) : Keeps s s :=
  ⟨id, id, OtpStep.refl s, id, fun _ _ h _ => h, rfl, List.suffix_refl _, Nat.le_refl _⟩

theorem Keeps.trans {s t u : State} (h : Keeps s t) (k : Keeps t u) : Keeps s u :=
  ⟨fun x => k.mem (h.mem x), fun x => k.pins (h.pins x), h.otp.trans k.otp, fun x => k.barred (h.barred x),
    fun r g x y => k.locks r g (h.locks r g x y) y, k.queue.trans h.queue, h.log.trans k.log, h.clock.trans k.clock⟩

/-- An update of fields that Keeps does not speak of. -/
theorem Keeps.cong {s t u : State} (h : Keeps s t) (e : u.kept = t.kept) : Keeps s u := by
  simp only [State.kept, Prod.mk.injEq] at e
  obtain ⟨e1, e2, ⟨e3, e4, e5, e6⟩, e7, e8, e9, e10⟩ := e
  refine ⟨fun x => ?_, fun x => ?_, ?_, fun x => ?_, ?_, ?_, ?_, ?_⟩
  · rw [MemOk, e1]; exact h.mem x
  · rw [PinsOk, e3, e4, e5]; exact h.pins x
  · rw [OtpStep, e2]; exact h.otp
  · rw [e6]; exact h.barred x
  · rw [e7]; exact h.locks
  · rw [e8]; exact h.queue
  · rw [e9]; exact h.log
  · rw [e10]; exact h.clock

/-- The clock advances. -/
theorem Keeps.later {s t u : State} (h : Keeps s t) (hc : t.clk ≤ u.clk) (e : u.kept = { t with clk := u.clk }.kept) : Keeps s u :=
  Keeps.cong (t := { t with clk := u.clk })
    ⟨h.mem, h.pins, h.otp, h.barred, h.locks, h.queue, h.log, Nat.le_trans h.clock hc⟩ e

/-- What even a reset keeps, with the bar: the part of Keeps that the power-down of DORMANT, a resume and a thermal cut keep; a full
reset keeps all of it but the bar. -/
structure Survives (s t : State) : Prop where
  mem   : MemOk s → MemOk t
  pins  : PinsOk s → PinsOk t
  otp   : OtpStep s t
  queue : t.pending = s.pending
  log   : s.out <:+ t.out
  clock : s.clk ≤ t.clk

/-- The bar stays (R353). -/
def BarStays (s t : State) : Prop := s.pair.barred = true → t.pair.barred = true

theorem Survives.trans {s t u : State} (h : Survives s t) (k : Survives t u) : Survives s u :=
  ⟨fun x => k.mem (h.mem x), fun x => k.pins (h.pins x), h.otp.trans k.otp, k.queue.trans h.queue, h.log.trans k.log,
    Nat.le_trans h.clock k.clock⟩

theorem Keeps.survives {s t : State} (h : Keeps s t) : Survives s t := ⟨h.mem, h.pins, h.otp, h.queue, h.log, h.clock⟩

theorem Keeps.bar {s t : State} (h : Keeps s t) : BarStays s t := h.barred

theorem BarStays.trans {s t u : State} (h : BarStays s t) (k : BarStays t u) : BarStays s u := fun x => k (h x)

theorem Keeps.ite {s a b : State} {c : Prop} [Decidable c] (ha : Keeps s a) (hb : Keeps s b) : Keeps s (if c then a else b) := by
  split <;> assumption

theorem Keeps.ite1 {α : Type} {s : State} {a b : State × α} {c : Prop} [Decidable c] (ha : Keeps s a.1) (hb : Keeps s b.1) :
    Keeps s (if c then a else b).1 := by
  split <;> assumption

theorem Keeps.ite2 {α : Type} {s : State} {a b : α × State} {c : Prop} [Decidable c] (ha : Keeps s a.2) (hb : Keeps s b.2) :
    Keeps s (if c then a else b).2 := by
  split <;> assumption

theorem Keeps.opt {s u : State} (h : Keeps s u) : ∀ t, some u = some t → Keeps s t := by
  intro t e
  cases e
  exact h

theorem Keeps.optIte {s u : State} {o : Option State} {c : Prop} [Decidable c] (h : Keeps s u) (ho : ∀ t, o = some t → Keeps s t) :
    ∀ t, (if c then some u else o) = some t → Keeps s t := by
  split
  · exact h.opt
  · exact ho

theorem Keeps.optNone {s : State} : ∀ t, (none : Option State) = some t → Keeps s t := by
  intro t e
  cases e

theorem Keeps.foldl {α : Type} {s t : State} {f : State → α → State} {xs : List α} (h : Keeps s t)
    (hf : ∀ u a, Keeps s u → Keeps s (f u a)) : Keeps s (xs.foldl f t) := by
  induction xs generalizing t with
  | nil => exact h
  | cons x xs ih => exact ih (hf _ _ h)

theorem Keeps.foldl1 {α β : Type} {s : State} {p : State × β} {f : State × β → α → State × β} {xs : List α} (h : Keeps s p.1)
    (hf : ∀ u a, Keeps s u.1 → Keeps s (f u a).1) : Keeps s (xs.foldl f p).1 := by
  induction xs generalizing p with
  | nil => exact h
  | cons x xs ih => exact ih (hf _ _ h)

theorem Keeps.foldl2 {α β : Type} {s : State} {p : β × State} {f : β × State → α → β × State} {xs : List α} (h : Keeps s p.2)
    (hf : ∀ u a, Keeps s u.2 → Keeps s (f u a).2) : Keeps s (xs.foldl f p).2 := by
  induction xs generalizing p with
  | nil => exact h
  | cons x xs ih => exact ih (hf _ _ h)

theorem Keeps.foldl21 {α β γ : Type} {s : State} {p : β × State × γ} {f : β × State × γ → α → β × State × γ} {xs : List α}
    (h : Keeps s p.2.1) (hf : ∀ u a, Keeps s u.2.1 → Keeps s (f u a).2.1) : Keeps s (xs.foldl f p).2.1 := by
  induction xs generalizing p with
  | nil => exact h
  | cons x xs ih => exact ih (hf _ _ h)

theorem Keeps.foldl22 {α β γ : Type} {s : State} {p : β × γ × State} {f : β × γ × State → α → β × γ × State} {xs : List α}
    (h : Keeps s p.2.2) (hf : ∀ u a, Keeps s u.2.2 → Keeps s (f u a).2.2) : Keeps s (xs.foldl f p).2.2 := by
  induction xs generalizing p with
  | nil => exact h
  | cons x xs ih => exact ih (hf _ _ h)

theorem Keeps.name {s x : State} (h : Keeps s x) : ∃ y, x = y ∧ Keeps s y := ⟨_, rfl, h⟩

theorem Keeps.name1 {α : Type} {s : State} {x : State × α} (h : Keeps s x.1) : ∃ y, x = y ∧ Keeps s y.1 := ⟨_, rfl, h⟩

theorem Keeps.name2 {α : Type} {s : State} {x : α × State} (h : Keeps s x.2) : ∃ y, x = y ∧ Keeps s y.2 := ⟨_, rfl, h⟩

theorem Keeps.name21 {α β : Type} {s : State} {x : α × State × β} (h : Keeps s x.2.1) : ∃ y, x = y ∧ Keeps s y.2.1 := ⟨_, rfl, h⟩

theorem Keeps.mk1 {α : Type} {s t : State} {a : α} (h : Keeps s t) : Keeps s (t, a).1 := h

theorem Keeps.mk2 {α : Type} {s t : State} {a : α} (h : Keeps s t) : Keeps s (a, t).2 := h

theorem Keeps.mk21 {α β : Type} {s : State} {a : α} {p : State × β} (h : Keeps s p.1) : Keeps s (a, p).2.1 := h

theorem Keeps.mk22 {α β : Type} {s : State} {a : α} {p : β × State} (h : Keeps s p.2) : Keeps s (a, p).2.2 := h

theorem Keeps.of_1 {α : Type} {s u : State} {a : α} {p : State × α} (e : p = (u, a)) (h : Keeps s p.1) : Keeps s u := by
  subst e; exact h

theorem Keeps.of_2 {α : Type} {s u : State} {a : α} {p : α × State} (e : p = (a, u)) (h : Keeps s p.2) : Keeps s u := by
  subst e; exact h

theorem Keeps.of_2_1 {α β : Type} {s u : State} {a : α} {b : β} {p : α × State × β} (e : p = (a, u, b)) (h : Keeps s p.2.1) :
    Keeps s u := by
  subst e; exact h

theorem Keeps.of_2_2 {α β : Type} {s u : State} {a : α} {b : β} {p : α × β × State} (e : p = (a, b, u)) (h : Keeps s p.2.2) :
    Keeps s u := by
  subst e; exact h

end Machine
end Sys2Proof
end

