-- ==== Sys2Proof/Laws/KeepsCore.lean ====
section
/-! SUPPORT. What the primitive updates, events, packets, rings, the MPU, completions and the release of ownership keep, said once for each operation: the memory stays canonical, the pins follow the pair
state, the lifecycle is one-way, the bar and locked MPU regions stay, the queue is untouched, what was put out stays, and the clock never
goes back. A lemma keeps_f says it of the operation f. -/

set_option Elab.async false

namespace Sys2Proof
namespace Machine

theorem keeps_State_setReg {s v0 v1 v2} (g0 : Keeps s v0) : Keeps s (State.setReg v0 v1 v2) := by
  unfold State.setReg
  exact g0.cong rfl

theorem keeps_State_bumpBy {s v0 v1 v2} (g0 : Keeps s v0) : Keeps s (State.bumpBy v0 v1 v2) := by
  unfold State.bumpBy
  exact g0.cong rfl

theorem keeps_State_bump {s v0 v1} (g0 : Keeps s v0) : Keeps s (State.bump v0 v1) := by
  unfold State.bump
  exact keeps_State_bumpBy g0

theorem keeps_State_emit {s v0 v1} (g0 : Keeps s v0) : Keeps s (State.emit v0 v1) :=
  g0.trans ⟨id, id, OtpStep.refl _, id, fun _ _ h _ => h, rfl, List.suffix_cons _ _, Nat.le_refl _⟩

theorem keeps_State_fresh {s v0} (g0 : Keeps s v0) : Keeps s (State.fresh v0).2 := by
  unfold State.fresh
  refine Keeps.mk2 ?_
  exact g0.cong rfl

theorem keeps_freeBytes {s v0 v1} (g1 : Keeps s v1) : Keeps s (freeBytes v0 v1).2 := by
  induction v0 generalizing v1 with
  | zero =>
    rw [freeBytes]
    refine Keeps.mk2 ?_
    exact g1
  | succ v ih =>
    rw [freeBytes]
    split
    rename_i y0_0 x0 e0
    have h0 : Keeps s x0 := Keeps.of_2 e0 (by
      refine keeps_State_fresh ?_
      exact g1)
    split
    rename_i y1_0 x1 e1
    have h1 : Keeps s x1 := Keeps.of_2 e1 (by
      refine ih ?_
      exact h0)
    refine Keeps.mk2 ?_
    exact h1

theorem keeps_State_rateMark {s v0 v1} (g0 : Keeps s v0) : Keeps s (State.rateMark v0 v1) := by
  unfold State.rateMark
  exact g0.cong rfl

theorem keeps_State_setLink {s v0 v1 v2} (g0 : Keeps s v0) : Keeps s (State.setLink v0 v1 v2) := by
  unfold State.setLink
  exact g0.cong rfl

theorem keeps_State_setTlink {s v0 v1 v2} (g0 : Keeps s v0) : Keeps s (State.setTlink v0 v1 v2) := by
  unfold State.setTlink
  exact g0.cong rfl

theorem keeps_departs {s v0 v1 v2} (g0 : Keeps s v0) : Keeps s (departs v0 v1 v2) := by
  unfold departs
  refine Keeps.ite ?_ ?_
  · exact g0
  · extract_lets -merge -underBinder +onlyGivenNames x0
    obtain ⟨y0, e0, h0⟩ := Keeps.name (x := x0) (keeps_State_emit (keeps_State_emit g0))
    rw [e0]
    refine Keeps.ite ?_ ?_
    · exact h0
    · extract_lets -merge -underBinder +onlyGivenNames x1
      exact keeps_State_setTlink h0

theorem keeps_sendOn {s v0 v1 v2 v3} (g0 : Keeps s v0) : Keeps s (sendOn v0 v1 v2 v3) := by
  unfold sendOn
  extract_lets -merge -underBinder +onlyGivenNames x0
  exact (keeps_State_emit (keeps_State_emit (keeps_State_setLink g0)))

theorem keeps_tephraCount {s v0 v1 v2} (g0 : ∀ u0 u1 u2, Keeps s u0 → Keeps s (v0 u0 u1 u2)) (g1 : Keeps s v1) : Keeps s (tephraCount v0 v1 v2) := by
  unfold tephraCount
  extract_lets -merge -underBinder +onlyGivenNames x0 x1 x2 x3
  obtain ⟨y3, e3, h3⟩ := Keeps.name (x := x3) (keeps_State_bump (keeps_State_setLink g1))
  rw [e3]
  refine Keeps.ite ?_ ?_
  · extract_lets -merge -underBinder +onlyGivenNames x4 x5 x6
    obtain ⟨y6, e6, h6⟩ := Keeps.name (x := x6) (keeps_State_setLink h3)
    rw [e6]
    exact g0 _ _ _ h6
  · exact h3

theorem keeps_startNext {s v0 v1 v2 v3} (g0 : ∀ u0 u1 u2, Keeps s u0 → Keeps s (v0 u0 u1 u2)) (g2 : Keeps s v2) : Keeps s (startNext v0 v1 v2 v3) := by
  induction v1 generalizing v2 v3 with
  | zero =>
    rw [startNext]
    exact g2
  | succ v ih =>
    rw [startNext]
    refine Keeps.ite ?_ ?_
    · exact g2
    · split
      · extract_lets -merge -underBinder +onlyGivenNames x0 x1
        obtain ⟨y1, e1, h1⟩ := Keeps.name (x := x1) (keeps_departs (keeps_State_setLink g2))
        rw [e1]
        extract_lets -merge -underBinder +onlyGivenNames x2
        exact keeps_sendOn h1
      · split
        · exact g2
        · extract_lets -merge -underBinder +onlyGivenNames x3
          split
          · extract_lets -merge -underBinder +onlyGivenNames x4
            obtain ⟨y4, e4, h4⟩ := Keeps.name (x := x4) (keeps_State_setLink g2)
            rw [e4]
            refine Keeps.ite ?_ ?_
            · split
              · exact ih (keeps_tephraCount g0 h4)
              · extract_lets -merge -underBinder +onlyGivenNames x5
                obtain ⟨y5, e5, h5⟩ := Keeps.name (x := x5) (keeps_departs h4)
                rw [e5]
                extract_lets -merge -underBinder +onlyGivenNames x6
                refine Keeps.ite ?_ ?_
                · extract_lets -merge -underBinder +onlyGivenNames x7 x8
                  exact keeps_tephraCount g0 (keeps_sendOn h5)
                · extract_lets -merge -underBinder +onlyGivenNames x9 x10 x11
                  exact keeps_tephraCount g0 (keeps_sendOn h5)
              · extract_lets -merge -underBinder +onlyGivenNames x12 x13
                obtain ⟨y13, e13, h13⟩ := Keeps.name (x := x13) (keeps_State_setLink h4)
                rw [e13]
                exact ih (keeps_tephraCount g0 h13)
              · exact keeps_sendOn h4
            · extract_lets -merge -underBinder +onlyGivenNames x14 x15
              obtain ⟨y15, e15, h15⟩ := Keeps.name (x := x15) (keeps_departs (keeps_State_setLink h4))
              rw [e15]
              extract_lets -merge -underBinder +onlyGivenNames x16
              exact keeps_sendOn h15

theorem keeps_fabDrop {s v0 v1 v2 v3 v4} (g0 : ∀ u0 u1 u2, Keeps s u0 → Keeps s (v0 u0 u1 u2)) (g1 : Keeps s v1) : Keeps s (fabDrop v0 v1 v2 v3 v4) := by
  unfold fabDrop
  extract_lets -merge -underBinder +onlyGivenNames x0
  exact (.ite (g0 _ _ _ (keeps_State_rateMark g1)) g1)

theorem keeps_enqueue {s v0 v1 v2 v3} (g0 : ∀ u0 u1 u2, Keeps s u0 → Keeps s (v0 u0 u1 u2)) (g1 : Keeps s v1) : Keeps s (enqueue v0 v1 v2 v3) := by
  unfold enqueue
  extract_lets -merge -underBinder +onlyGivenNames x0 x1
  refine Keeps.ite ?_ ?_
  · exact keeps_startNext g0 (keeps_State_setLink g1)
  · extract_lets -merge -underBinder +onlyGivenNames x2
    obtain ⟨y2, e2, h2⟩ := Keeps.name (x := x2) (keeps_State_bump g1)
    rw [e2]
    exact keeps_fabDrop g0 h2

theorem keeps_noRoute {s v0 v1 v2} (g0 : ∀ u0 u1 u2, Keeps s u0 → Keeps s (v0 u0 u1 u2)) (g1 : Keeps s v1) : Keeps s (noRoute v0 v1 v2) := by
  unfold noRoute
  extract_lets -merge -underBinder +onlyGivenNames x0
  obtain ⟨y0, e0, h0⟩ := Keeps.name (x := x0) (keeps_State_bump g1)
  rw [e0]
  exact keeps_fabDrop g0 h0

theorem keeps_deliver {s v0 v1} (g0 : Keeps s v0) : Keeps s (deliver v0 v1) := by
  unfold deliver
  exact keeps_State_emit (g0.cong rfl)

theorem keeps_deliverAlias {s v0 v1 v2} (g0 : ∀ u0 u1 u2, Keeps s u0 → Keeps s (v0 u0 u1 u2)) (g1 : Keeps s v1) : Keeps s (deliverAlias v0 v1 v2) := by
  unfold deliverAlias
  exact (.ite (.ite (keeps_deliver g1) (keeps_State_bump g1)) (keeps_noRoute g0 g1))

theorem keeps_passOn {s v0 v1 v2 v3 v4} (g0 : ∀ u0 u1 u2, Keeps s u0 → Keeps s (v0 u0 u1 u2)) (g1 : Keeps s v1) : Keeps s (passOn v0 v1 v2 v3 v4) := by
  unfold passOn
  extract_lets -merge -underBinder +onlyGivenNames x0 x1
  obtain ⟨y1, e1, h1⟩ := Keeps.name (x := x1) (keeps_enqueue g0 g1)
  rw [e1]
  exact .ite (keeps_State_setLink h1) h1

theorem keeps_routeDirected {s v0 v1 v2 v3} (g0 : ∀ u0 u1 u2, Keeps s u0 → Keeps s (v0 u0 u1 u2)) (g1 : Keeps s v1) : Keeps s (routeDirected v0 v1 v2 v3) := by
  unfold routeDirected
  extract_lets -merge -underBinder +onlyGivenNames x0 x1
  refine Keeps.ite ?_ ?_
  · extract_lets -merge -underBinder +onlyGivenNames x2
    exact .ite (keeps_passOn g0 g1) (keeps_noRoute g0 g1)
  · exact keeps_deliver g1

theorem keeps_forward {s v0 v1 v2 v3 v4} (g0 : ∀ u0 u1 u2, Keeps s u0 → Keeps s (v0 u0 u1 u2)) (g1 : Keeps s v1) : Keeps s (forward v0 v1 v2 v3 v4) := by
  unfold forward
  refine Keeps.ite ?_ ?_
  · exact keeps_passOn g0 g1
  · extract_lets -merge -underBinder +onlyGivenNames x0
    obtain ⟨y0, e0, h0⟩ := Keeps.name (x := x0) (keeps_State_bump g1)
    rw [e0]
    exact keeps_fabDrop g0 h0

theorem keeps_routeWith {s v0 v1 v2 v3} (g0 : ∀ u0 u1 u2, Keeps s u0 → Keeps s (v0 u0 u1 u2)) (g1 : Keeps s v1) : Keeps s (routeWith v0 v1 v2 v3) := by
  unfold routeWith
  refine Keeps.ite ?_ ?_
  · extract_lets -merge -underBinder +onlyGivenNames x0
    obtain ⟨y0, e0, h0⟩ := Keeps.name (x := x0) (keeps_State_bump g1)
    rw [e0]
    exact keeps_fabDrop g0 h0
  · extract_lets -merge -underBinder +onlyGivenNames x1
    refine Keeps.ite ?_ ?_
    · exact keeps_noRoute g0 g1
    · refine Keeps.ite ?_ ?_
      · exact keeps_State_bump g1
      · refine Keeps.ite ?_ ?_
        · refine Keeps.ite ?_ ?_
          · exact keeps_routeDirected g0 g1
          · split
            · exact keeps_State_bump g1
            · exact g1
        · refine Keeps.ite ?_ ?_
          · extract_lets -merge -underBinder +onlyGivenNames x2 x3
            obtain ⟨y3, e3, h3⟩ := Keeps.name (s := s) (x := x3) (by
              unfold x3
              refine Keeps.foldl ?_ ?_
              · exact g1
              · intro x4 a4 h4
                exact (.ite (keeps_forward g0 h4) h4))
            rw [e3]
            exact .ite (keeps_deliver h3) h3
          · refine Keeps.ite ?_ ?_
            · exact keeps_deliverAlias g0 g1
            · refine Keeps.ite ?_ ?_
              · exact keeps_deliver g1
              · refine Keeps.ite ?_ ?_
                · exact keeps_noRoute g0 g1
                · extract_lets -merge -underBinder +onlyGivenNames x5
                  exact (.ite (keeps_deliver g1) (.ite (keeps_forward g0 g1) (keeps_noRoute g0 g1)))

theorem keeps_State_setRequester {s v0 v1 v2} (g0 : Keeps s v0) : Keeps s (State.setRequester v0 v1 v2) := by
  unfold State.setRequester
  exact g0.cong rfl

theorem keeps_mgmtIssue {s v0 v1 v2 v3} (g0 : ∀ u0 u1 u2, Keeps s u0 → Keeps s (v0 u0 u1 u2)) (g1 : Keeps s v1) : Keeps s (mgmtIssue v0 v1 v2 v3) := by
  unfold mgmtIssue
  extract_lets -merge -underBinder +onlyGivenNames x0
  refine Keeps.ite ?_ ?_
  · extract_lets -merge -underBinder +onlyGivenNames x1 x2 x3 x4
    obtain ⟨y4, e4, h4⟩ := Keeps.name (x := x4) (keeps_State_setRequester g1)
    rw [e4]
    exact keeps_routeWith g0 h4
  · exact keeps_State_setRequester g1

theorem keeps_dmaRequest {s v0 v1 v2 v3 v4 v5 v6 v7 v8} (g0 : ∀ u0 u1 u2, Keeps s u0 → Keeps s (v0 u0 u1 u2)) (g1 : Keeps s v1) : Keeps s (dmaRequest v0 v1 v2 v3 v4 v5 v6 v7 v8) := by
  unfold dmaRequest
  extract_lets -merge -underBinder +onlyGivenNames x0 x1
  exact keeps_mgmtIssue g0 g1

theorem keeps_dmaWrites {s v0 v1 v2 v3 v4 v5 v6} (g0 : ∀ u0 u1 u2, Keeps s u0 → Keeps s (v0 u0 u1 u2)) (g3 : Keeps s v3) : Keeps s (dmaWrites v0 v1 v2 v3 v4 v5 v6) := by
  induction v2 generalizing v1 v3 v4 v5 v6 with
  | zero =>
    rw [dmaWrites]
    exact g3
  | succ v ih =>
    rw [dmaWrites]
    exact (.ite g3 (ih (keeps_dmaRequest g0 g3)))

theorem keeps_hostWriteR {s v0 v1 v2 v3 v4 v5} (g0 : ∀ u0 u1 u2, Keeps s u0 → Keeps s (v0 u0 u1 u2)) (g1 : Keeps s v1) : Keeps s (hostWriteR v0 v1 v2 v3 v4 v5) := by
  unfold hostWriteR
  exact (.ite (keeps_State_emit g1) (.ite (keeps_dmaWrites g0 g1) g1))

theorem keeps_msixSignal {s v0 v1 v2} (g0 : Keeps s v0) : Keeps s (msixSignal v0 v1 v2) := by
  unfold msixSignal
  exact .ite (g0.cong rfl) (keeps_State_emit g0)

theorem keeps_signalR {s v0 v1 v2 v3} (g0 : ∀ u0 u1 u2, Keeps s u0 → Keeps s (v0 u0 u1 u2)) (g1 : Keeps s v1) : Keeps s (signalR v0 v1 v2 v3) := by
  unfold signalR
  exact (.ite (keeps_msixSignal g1) (.ite (keeps_dmaRequest g0 g1) g1))

theorem keeps_ringIrq {s v0 v1 v2 v3 v4} (g0 : ∀ u0 u1 u2, Keeps s u0 → Keeps s (v0 u0 u1 u2)) (g1 : Keeps s v1) : Keeps s (ringIrq v0 v1 v2 v3 v4).2 := by
  unfold ringIrq
  extract_lets -merge -underBinder +onlyGivenNames x0 x1
  refine Keeps.ite2 ?_ ?_
  · refine Keeps.mk2 ?_
    exact g0 _ _ _ g1
  · refine Keeps.mk2 ?_
    exact g1

theorem keeps_evqWrite {s v0 v1 v2 v3} (g0 : Keeps s v0) : Keeps s (evqWrite v0 v1 v2 v3) := by
  unfold evqWrite
  extract_lets -merge -underBinder +onlyGivenNames x0 x1 x2 x3
  refine Keeps.ite ?_ ?_
  · exact g0
  · refine Keeps.ite ?_ ?_
    · exact keeps_State_bump (g0.cong rfl)
    · extract_lets -merge -underBinder +onlyGivenNames x4 x5
      obtain ⟨y5, e5, h5⟩ := Keeps.name (x := x5) (keeps_State_emit g0)
      rw [e5]
      split
      rename_i y6_0 x6 e6
      have h6 : Keeps s x6 := Keeps.of_2 e6 (by
        refine keeps_ringIrq ?_ ?_
        · intro x7_0 a7_1 a7_2 h7_0
          exact keeps_msixSignal h7_0
        · exact h5)
      exact h6.cong rfl

theorem keeps_evqDeliver {s v0 v1 v2} (g0 : Keeps s v0) : Keeps s (evqDeliver v0 v1 v2) := by
  unfold evqDeliver
  extract_lets -merge -underBinder +onlyGivenNames x0
  refine Keeps.foldl ?_ ?_
  · exact g0
  · intro x1 a1 h1
    exact .ite (keeps_evqWrite h1) h1

theorem keeps_sendRecord {s v0 v1 v2 v3} (g0 : ∀ u0 u1 u2, Keeps s u0 → Keeps s (v0 u0 u1 u2)) (g1 : Keeps s v1) : Keeps s (sendRecord v0 v1 v2 v3) := by
  unfold sendRecord
  exact (.ite (keeps_evqDeliver g1) (.ite (keeps_routeWith g0 g1) g1))

theorem keeps_raiseN {s v0 v1 v2 v3} (g1 : Keeps s v1) : Keeps s (raiseN v0 v1 v2 v3) := by
  induction v0 generalizing v1 v2 v3 with
  | zero =>
    rw [raiseN]
    exact keeps_State_emit (g1.cong rfl)
  | succ v ih =>
    rw [raiseN]
    split
    · refine Keeps.ite ?_ ?_
      · exact ((keeps_State_emit (g1.cong rfl)).cong rfl)
      · refine keeps_sendRecord ?_ ?_
        · intro x0_0 a0_1 a0_2 h0_0
          exact ih h0_0
        · exact keeps_State_emit (g1.cong rfl)
    · refine keeps_sendRecord ?_ ?_
      · intro x1_0 a1_1 a1_2 h1_0
        exact ih h1_0
      · exact keeps_State_emit (g1.cong rfl)

theorem keeps_State_raise {s v0 v1 v2} (g0 : Keeps s v0) : Keeps s (State.raise v0 v1 v2) := by
  unfold State.raise
  exact keeps_raiseN g0

theorem keeps_State_raiseLimited {s v0 v1 v2 v3 v4} (g0 : Keeps s v0) : Keeps s (State.raiseLimited v0 v1 v2 v3 v4) := by
  unfold State.raiseLimited
  exact (.ite (keeps_State_raise (keeps_State_rateMark g0)) g0)

theorem keeps_State_routePkt {s v0 v1 v2} (g0 : Keeps s v0) : Keeps s (State.routePkt v0 v1 v2) := by
  unfold State.routePkt
  exact keeps_routeWith (fun _ _ _ h => keeps_State_raise h) g0

theorem keeps_State_hostWrite {s v0 v1 v2 v3} (g0 : Keeps s v0) : Keeps s (State.hostWrite v0 v1 v2 v3) := by
  unfold State.hostWrite
  exact keeps_hostWriteR (fun _ _ _ h => keeps_State_raise h) g0

theorem keeps_State_signal {s v0 v1 v2} (g0 : Keeps s v0) : Keeps s (State.signal v0 v1 v2) := by
  unfold State.signal
  exact keeps_signalR (fun _ _ _ h => keeps_State_raise h) g0

theorem keeps_State_hostRead {s v0 v1 v2 v3 v4} (g0 : Keeps s v0) : Keeps s (State.hostRead v0 v1 v2 v3 v4) := by
  unfold State.hostRead
  refine Keeps.ite ?_ ?_
  · exact keeps_State_emit g0
  · refine Keeps.ite ?_ ?_
    · refine Keeps.foldl ?_ ?_
      · exact g0
      · intro x0 a0 h0
        exact keeps_dmaRequest (fun _ _ _ h => keeps_State_raise h) h0
    · exact g0

theorem keeps_State_masterRead {s v0 v1 v2 v3 v4} (g0 : Keeps s v0) : Keeps s (State.masterRead v0 v1 v2 v3 v4).2 := by
  unfold State.masterRead
  refine Keeps.ite2 ?_ ?_
  · split
    rename_i y0_0 x0 e0
    have h0 : Keeps s x0 := Keeps.of_2 e0 (by
      refine keeps_freeBytes ?_
      exact (keeps_State_emit g0))
    refine Keeps.mk2 ?_
    exact h0
  · refine Keeps.ite2 ?_ ?_
    · refine Keeps.mk2 ?_
      refine Keeps.foldl ?_ ?_
      · exact g0
      · intro x1 a1 h1
        exact keeps_dmaRequest (fun _ _ _ h => keeps_State_raise h) h1
    · refine Keeps.mk2 ?_
      exact g0

theorem keeps_State_setReady {s v0 v1 v2} (g0 : Keeps s v0) : Keeps s (State.setReady v0 v1 v2) := by
  unfold State.setReady
  exact (.ite g0 (keeps_State_raise (g0.cong rfl)))

theorem keeps_State_setMode {s v0 v1 v2} (g0 : Keeps s v0) : Keeps s (State.setMode v0 v1 v2) := by
  unfold State.setMode
  refine Keeps.ite ?_ ?_
  · exact g0
  · extract_lets -merge -underBinder +onlyGivenNames x0
    exact keeps_State_raise (g0.cong rfl)

theorem keeps_State_raf {s v0 v1 v2 v3 v4 v5} (g0 : Keeps s v0) : Keeps s (State.raf v0 v1 v2 v3 v4 v5) := by
  unfold State.raf
  extract_lets -merge -underBinder +onlyGivenNames x0
  obtain ⟨y0, e0, h0⟩ := Keeps.name (x := x0) (keeps_State_bump g0)
  rw [e0]
  refine Keeps.ite ?_ ?_
  · exact h0
  · extract_lets -merge -underBinder +onlyGivenNames x1 x2
    obtain ⟨y2, e2, h2⟩ := Keeps.name (x := x2) (keeps_State_setReg h0)
    rw [e2]
    extract_lets -merge -underBinder +onlyGivenNames x3
    obtain ⟨y3, e3, h3⟩ := Keeps.name (x := x3) (keeps_State_setReg h2)
    rw [e3]
    exact keeps_State_raise h3

theorem keeps_State_mpuDeny {s v0 v1 v2 v3 v4} (g0 : Keeps s v0) : Keeps s (State.mpuDeny v0 v1 v2 v3 v4) := by
  unfold State.mpuDeny
  extract_lets -merge -underBinder +onlyGivenNames x0
  obtain ⟨y0, e0, h0⟩ := Keeps.name (x := x0) (keeps_State_bump g0)
  rw [e0]
  refine Keeps.ite ?_ ?_
  · exact h0
  · extract_lets -merge -underBinder +onlyGivenNames x1
    obtain ⟨y1, e1, h1⟩ := Keeps.name (x := x1) (keeps_State_setReg h0)
    rw [e1]
    extract_lets -merge -underBinder +onlyGivenNames x2
    obtain ⟨y2, e2, h2⟩ := Keeps.name (x := x2) (keeps_State_setReg h1)
    rw [e2]
    exact keeps_State_raise h2

theorem keeps_State_addrFault {s v0 v1 v2} (g0 : Keeps s v0) : Keeps s (State.addrFault v0 v1 v2) := by
  unfold State.addrFault
  exact keeps_State_raiseLimited (keeps_State_bump g0)

theorem keeps_State_askSeg {s v0 v1} (g0 : Keeps s v0) : Keeps s (State.askSeg v0 v1) := by
  unfold State.askSeg
  extract_lets -merge -underBinder +onlyGivenNames x0
  exact .ite g0 (g0.cong rfl)

theorem keeps_State_wrBlock {s v0 v1 v2 v3} (g0 : Keeps s v0) : Keeps s (State.wrBlock v0 v1 v2 v3).1 := by
  unfold State.wrBlock
  split
  · exact keeps_State_mpuDeny g0
  · split
    · exact g0
    · split
      · exact keeps_State_askSeg (g0.trans ⟨fun h => memWrite_wf _ _ _ h, id, OtpStep.refl _, id, fun _ _ h _ => h, rfl, List.suffix_refl _, Nat.le_refl _⟩)
      · split
        · exact keeps_State_addrFault g0
        · exact g0

theorem keeps_State_rdBlock {s v0 v1 v2 v3} (g0 : Keeps s v0) : Keeps s (State.rdBlock v0 v1 v2 v3).2.1 := by
  unfold State.rdBlock
  extract_lets -merge -underBinder +onlyGivenNames x0
  split
  · refine Keeps.mk21 ?_
    refine Keeps.mk1 ?_
    exact keeps_State_mpuDeny g0
  · split
    · refine Keeps.mk21 ?_
      refine Keeps.mk1 ?_
      exact g0
    · split
      · refine Keeps.mk21 ?_
        refine Keeps.mk1 ?_
        exact keeps_State_askSeg g0
      · split
        · refine Keeps.mk21 ?_
          refine Keeps.mk1 ?_
          exact keeps_State_addrFault g0
        · refine Keeps.mk21 ?_
          refine Keeps.mk1 ?_
          exact g0

theorem keeps_State_memWr {s v0 v1 v2 v3} (g0 : Keeps s v0) : Keeps s (State.memWr v0 v1 v2 v3).1 := by
  unfold State.memWr
  refine Keeps.foldl1 ?_ ?_
  · refine Keeps.mk1 ?_
    exact g0
  · intro x0 a0 h0
    split
    split
    split
    rename_i x1 y1_1 e1
    have h1 : Keeps s x1 := Keeps.of_1 e1 (by
      refine keeps_State_wrBlock ?_
      exact h0)
    refine Keeps.mk1 ?_
    exact h1

theorem keeps_State_memRd {s v0 v1 v2 v3} (g0 : Keeps s v0) : Keeps s (State.memRd v0 v1 v2 v3).2.1 := by
  unfold State.memRd
  refine Keeps.foldl21 ?_ ?_
  · refine Keeps.mk21 ?_
    refine Keeps.mk1 ?_
    exact g0
  · intro x0 a0 h0
    split
    split
    split
    rename_i y1_0 x1 y1_2 e1
    have h1 : Keeps s x1 := Keeps.of_2_1 e1 (by
      refine keeps_State_rdBlock ?_
      exact h0)
    refine Keeps.mk21 ?_
    refine Keeps.mk1 ?_
    exact h1

theorem keeps_State_memWrTill {s v0 v1 v2 v3} (g0 : Keeps s v0) : Keeps s (State.memWrTill v0 v1 v2 v3).1 := by
  unfold State.memWrTill
  split
  · refine keeps_State_memWr ?_
    exact g0
  · refine Keeps.mk1 ?_
    refine keeps_State_mpuDeny ?_
    refine keeps_State_memWr ?_
    exact g0

theorem keeps_mirrorPump {s v0 v1} (g1 : Keeps s v1) : Keeps s (mirrorPump v0 v1) := by
  induction v0 generalizing v1 with
  | zero =>
    rw [mirrorPump]
    exact g1
  | succ v ih =>
    rw [mirrorPump]
    split
    · exact g1
    · extract_lets -merge -underBinder +onlyGivenNames x0 x1
      refine Keeps.ite ?_ ?_
      · extract_lets -merge -underBinder +onlyGivenNames x2 x3
        obtain ⟨y3, e3, h3⟩ := Keeps.name (x := x3) (g1.cong rfl)
        rw [e3]
        exact (ih (keeps_enqueue (fun _ _ _ h => keeps_State_raise h) h3))
      · exact g1

theorem keeps_mirrorPacket {s v0 v1 v2 v3 v4 v5 v6 v7 v8} (g0 : Keeps s v0) : Keeps s (mirrorPacket v0 v1 v2 v3 v4 v5 v6 v7 v8) := by
  unfold mirrorPacket
  extract_lets -merge -underBinder +onlyGivenNames x0 x1
  exact g0.cong rfl

theorem keeps_mirrorRecord {s v0 v1 v2 v3} (g0 : Keeps s v0) : Keeps s (mirrorRecord v0 v1 v2 v3) := by
  unfold mirrorRecord
  extract_lets -merge -underBinder +onlyGivenNames x0 x1 x2
  obtain ⟨y2, e2, h2⟩ := Keeps.name (s := s) (x := x2) (by
    unfold x2
    refine Keeps.foldl ?_ ?_
    · exact g0
    · intro x3 a3 h3
      exact (keeps_mirrorPacket h3))
  rw [e2]
  extract_lets -merge -underBinder +onlyGivenNames x4 x5
  obtain ⟨y5, e5, h5⟩ := Keeps.name (x := x5) (keeps_State_bump (h2.cong rfl))
  rw [e5]
  exact keeps_mirrorPump h5

theorem keeps_mirrorOut {s v0 v1 v2} (g0 : Keeps s v0) : Keeps s (mirrorOut v0 v1 v2) := by
  unfold mirrorOut
  exact .ite (keeps_mirrorRecord g0) g0

theorem keeps_mirrorOfDone {s v0 v1} (g0 : Keeps s v0) : Keeps s (mirrorOfDone v0 v1) := by
  unfold mirrorOfDone
  split
  · exact keeps_mirrorOut g0
  · exact .ite g0 (keeps_mirrorOut g0)
  · exact keeps_mirrorOut g0
  · exact keeps_mirrorOut g0
  · exact keeps_mirrorOut g0
  · exact keeps_mirrorOut g0
  · exact keeps_mirrorOut g0
  · exact g0

theorem keeps_mirrorSync {s v0 v1 v2 v3} (g0 : Keeps s v0) : Keeps s (mirrorSync v0 v1 v2 v3) := by
  unfold mirrorSync
  exact (.ite g0 (keeps_State_raise (g0.cong rfl)))

theorem keeps_mirrorReject {s v0 v1 v2 v3} (g0 : Keeps s v0) : Keeps s (mirrorReject v0 v1 v2 v3) := by
  unfold mirrorReject
  extract_lets -merge -underBinder +onlyGivenNames x0
  obtain ⟨y0, e0, h0⟩ := Keeps.name (x := x0) (keeps_State_bump g0)
  rw [e0]
  extract_lets -merge -underBinder +onlyGivenNames x1
  obtain ⟨y1, e1, h1⟩ := Keeps.name (x := x1) (keeps_State_raiseLimited h0)
  rw [e1]
  exact keeps_mirrorSync h1

theorem keeps_State_finish {s v0 v1 v2 v3 v4} (g0 : Keeps s v0) : Keeps s (State.finish v0 v1 v2 v3 v4) := by
  unfold State.finish
  split
  · extract_lets -merge -underBinder +onlyGivenNames x0 x1 x2
    obtain ⟨y2, e2, h2⟩ := Keeps.name (x := x2) (g0.cong rfl)
    rw [e2]
    extract_lets -merge -underBinder +onlyGivenNames x3 x4 x5
    obtain ⟨y5, e5, h5⟩ := Keeps.name (x := x5) (.ite h2 (h2.cong rfl))
    rw [e5]
    exact .ite (keeps_mirrorOfDone h5) h5
  · exact .ite (keeps_State_bump g0) (keeps_mirrorReject g0)

theorem keeps_State_finishDma {s v0 v1 v2 v3 v4} (g0 : Keeps s v0) : Keeps s (State.finishDma v0 v1 v2 v3 v4) := by
  unfold State.finishDma
  exact .ite (g0.cong rfl) (keeps_State_finish g0)

theorem keeps_State_hostWriteFor {s v0 v1 v2 v3} (g0 : Keeps s v0) : Keeps s (State.hostWriteFor v0 v1 v2 v3) := by
  unfold State.hostWriteFor
  exact keeps_hostWriteR (fun _ _ _ h => keeps_State_raise h) g0

theorem keeps_State_hostFetch {s v0 v1 v2 v3 v4} (g0 : Keeps s v0) (g4 : ∀ u0 u1, Keeps s u0 → Keeps s (v4 u0 u1)) : Keeps s (State.hostFetch v0 v1 v2 v3 v4) := by
  unfold State.hostFetch
  extract_lets -merge -underBinder +onlyGivenNames x0
  obtain ⟨y0, e0, h0⟩ := Keeps.name (s := s) (x := x0) (by
    unfold x0
    refine Keeps.foldl ?_ ?_
    · exact g0
    · intro x1 a1 h1
      exact (keeps_State_hostRead h1))
  rw [e0]
  exact (.ite (g4 _ _ h0) (.ite (h0.cong rfl) (g4 _ _ h0)))

theorem keeps_State_refuse {s v0 v1 v2} (g0 : Keeps s v0) : Keeps s (State.refuse v0 v1 v2) := by
  unfold State.refuse
  extract_lets -merge -underBinder +onlyGivenNames x0
  obtain ⟨y0, e0, h0⟩ := Keeps.name (s := s) (x := x0) (by
    unfold x0
    split
    · exact keeps_State_mpuDeny g0
    · exact g0)
  rw [e0]
  exact keeps_State_finish h0

theorem keeps_runJob {s v0 v1 v2 v3} (g0 : Keeps s v0) (g3 : ∀ u0, Keeps s u0 → Keeps s (v3 u0)) : Keeps s (runJob v0 v1 v2 v3) := by
  unfold runJob
  split
  · exact keeps_State_refuse g0
  · exact g3 _ g0

theorem keeps_pairStateEvent {s v0 v1 v2 v3} (g0 : Keeps s v0) : Keeps s (pairStateEvent v0 v1 v2 v3) := by
  unfold pairStateEvent
  exact keeps_State_raise g0

theorem keeps_setPairState {s v0 v1 v2} (g0 : Keeps s v0) : Keeps s (setPairState v0 v1 v2) := by
  unfold setPairState
  split
  · exact g0
  · refine keeps_pairStateEvent (g0.trans ⟨id, fun _ => ⟨rfl, rfl⟩, OtpStep.refl _, id, fun _ _ h _ => h, rfl, List.suffix_refl _, Nat.le_refl _⟩)

theorem keeps_dropAckWaits {s v0} (g0 : Keeps s v0) : Keeps s (dropAckWaits v0) := by
  unfold dropAckWaits
  extract_lets -merge -underBinder +onlyGivenNames x0 x1
  obtain ⟨y1, e1, h1⟩ := Keeps.name (x := x1) (g0.cong rfl)
  rw [e1]
  refine Keeps.foldl ?_ ?_
  · exact h1
  · intro x2 a2 h2
    exact keeps_State_finish h2

theorem keeps_State_relinquish {s v0 v1 v2} (g0 : Keeps s v0) : Keeps s (State.relinquish v0 v1 v2) := by
  unfold State.relinquish
  refine Keeps.ite ?_ ?_
  · extract_lets -merge -underBinder +onlyGivenNames x0
    split
    rename_i y1_0 x1 e1
    have h1 : Keeps s x1 := Keeps.of_2 e1 (by
      refine keeps_State_fresh ?_
      exact g0)
    extract_lets -merge -underBinder +onlyGivenNames x2 x3 x4
    have h4 : Keeps s x4 := h1.trans ⟨id, fun _ => ⟨rfl, rfl⟩, OtpStep.refl _, id, fun _ _ h _ => h, rfl, List.suffix_refl _, Nat.le_refl _⟩
    extract_lets -merge -underBinder +onlyGivenNames x5
    obtain ⟨y5, e5, h5⟩ := Keeps.name (x := x5) (.ite h4 (keeps_State_setMode h4))
    rw [e5]
    extract_lets -merge -underBinder +onlyGivenNames x6
    obtain ⟨y6, e6, h6⟩ := Keeps.name (x := x6) (keeps_State_raise h5)
    rw [e6]
    extract_lets -merge -underBinder +onlyGivenNames x7
    obtain ⟨y7, e7, h7⟩ := Keeps.name (x := x7) (keeps_pairStateEvent h6)
    rw [e7]
    extract_lets -merge -underBinder +onlyGivenNames x8 x9 x10
    obtain ⟨y10, e10, h10⟩ := Keeps.name (x := x10) (h7.cong rfl)
    rw [e10]
    extract_lets -merge -underBinder +onlyGivenNames x11 x12
    obtain ⟨y12, e12, h12⟩ := Keeps.name (x := x12) (.ite (h10.cong rfl) h10)
    rw [e12]
    exact keeps_dropAckWaits (keeps_State_bump h12)
  · exact g0

theorem keeps_State_trigger {s v0 v1 v2} (g0 : Keeps s v0) : Keeps s (State.trigger v0 v1 v2) := by
  unfold State.trigger
  extract_lets -merge -underBinder +onlyGivenNames x0 x1
  obtain ⟨y1, e1, h1⟩ := Keeps.name (x := x1) (.ite (g0.cong rfl) g0)
  rw [e1]
  extract_lets -merge -underBinder +onlyGivenNames x2 x3
  obtain ⟨y3, e3, h3⟩ := Keeps.name (x := x3) (.ite (h1.trans ⟨id, id, OtpStep.refl _, fun _ => rfl, fun _ _ h _ => h, rfl, List.suffix_refl _, Nat.le_refl _⟩) h1)
  rw [e3]
  exact keeps_State_relinquish h3

theorem keeps_State_untrigger {s v0 v1} (g0 : Keeps s v0) : Keeps s (State.untrigger v0 v1) := by
  unfold State.untrigger
  exact g0.cong rfl

theorem keeps_doNop {s v0 v1} (g0 : Keeps s v0) : Keeps s (doNop v0 v1) := by
  unfold doNop
  exact keeps_State_finish g0

theorem keeps_doFence {s v0 v1} (g0 : Keeps s v0) : Keeps s (doFence v0 v1) := by
  unfold doFence
  exact .ite (keeps_State_finish g0) (keeps_State_finish g0)

theorem keeps_doUnknown {s v0 v1} (g0 : Keeps s v0) : Keeps s (doUnknown v0 v1) := by
  unfold doUnknown
  exact keeps_State_finish g0

theorem keeps_State_setSq {s v0 v1 v2 v3} (g0 : Keeps s v0) : Keeps s (State.setSq v0 v1 v2 v3) := by
  unfold State.setSq
  exact g0.cong rfl

theorem keeps_State_setCq {s v0 v1 v2 v3} (g0 : Keeps s v0) : Keeps s (State.setCq v0 v1 v2 v3) := by
  unfold State.setCq
  exact g0.cong rfl

theorem keeps_ringFault {s v0 v1 v2 v3} (g0 : Keeps s v0) : Keeps s (ringFault v0 v1 v2 v3) := by
  unfold ringFault
  exact keeps_State_raiseLimited g0

theorem keeps_badDoorbell {s v0 v1 v2} (g0 : Keeps s v0) : Keeps s (badDoorbell v0 v1 v2) := by
  unfold badDoorbell
  exact keeps_ringFault (keeps_State_bump g0)

theorem keeps_holdDoorbell {s v0 v1 v2 v3 v4 v5} (g0 : Keeps s v0) : Keeps s (holdDoorbell v0 v1 v2 v3 v4 v5) := by
  unfold holdDoorbell
  exact .ite (g0.cong rfl) g0

theorem keeps_sqDoorbell {s v0 v1 v2 v3 v4} (g0 : Keeps s v0) : Keeps s (sqDoorbell v0 v1 v2 v3 v4) := by
  unfold sqDoorbell
  refine Keeps.ite ?_ ?_
  · exact keeps_holdDoorbell g0
  · refine Keeps.ite ?_ ?_
    · exact keeps_State_bump g0
    · extract_lets -merge -underBinder +onlyGivenNames x0
      exact .ite (keeps_badDoorbell g0) (keeps_State_setSq g0)

theorem keeps_wakeSqs {s v0 v1 v2} (g0 : Keeps s v0) : Keeps s (wakeSqs v0 v1 v2) := by
  unfold wakeSqs
  refine Keeps.foldl ?_ ?_
  · exact g0
  · intro x0 a0 h0
    extract_lets -merge -underBinder +onlyGivenNames x1
    exact .ite (keeps_State_setSq h0) h0

theorem keeps_cqDoorbell {s v0 v1 v2 v3 v4} (g0 : Keeps s v0) : Keeps s (cqDoorbell v0 v1 v2 v3 v4) := by
  unfold cqDoorbell
  refine Keeps.ite ?_ ?_
  · exact keeps_holdDoorbell g0
  · refine Keeps.ite ?_ ?_
    · exact keeps_State_bump g0
    · extract_lets -merge -underBinder +onlyGivenNames x0
      refine Keeps.ite ?_ ?_
      · exact keeps_badDoorbell g0
      · extract_lets -merge -underBinder +onlyGivenNames x1 x2 x3
        obtain ⟨y3, e3, h3⟩ := Keeps.name (x := x3) (keeps_State_setCq g0)
        rw [e3]
        exact (.ite (keeps_State_raise (keeps_wakeSqs h3)) (.ite (keeps_State_raise h3) h3))

theorem keeps_evqDoorbell {s v0 v1 v2 v3 v4} (g0 : Keeps s v0) : Keeps s (evqDoorbell v0 v1 v2 v3 v4) := by
  unfold evqDoorbell
  refine Keeps.ite ?_ ?_
  · exact keeps_holdDoorbell g0
  · refine Keeps.ite ?_ ?_
    · exact keeps_State_bump g0
    · extract_lets -merge -underBinder +onlyGivenNames x0
      refine Keeps.ite ?_ ?_
      · split
        rename_i y1_0 x1 e1
        have h1 : Keeps s x1 := Keeps.of_2 e1 (by
          refine keeps_State_fresh ?_
          exact g0)
        exact keeps_badDoorbell h1
      · extract_lets -merge -underBinder +onlyGivenNames x2 x3 x4 x5 x6
        obtain ⟨y6, e6, h6⟩ := Keeps.name (x := x6) (g0.cong rfl)
        rw [e6]
        refine Keeps.ite ?_ ?_
        · extract_lets -merge -underBinder +onlyGivenNames x7 x8 x9 x10
          obtain ⟨y10, e10, h10⟩ := Keeps.name (x := x10) (h6.cong rfl)
          rw [e10]
          extract_lets -merge -underBinder +onlyGivenNames x11
          obtain ⟨y11, e11, h11⟩ := Keeps.name (x := x11) (keeps_State_emit (h10.cong rfl))
          rw [e11]
          exact keeps_evqWrite h11
        · exact h6

theorem keeps_takeDesc {s v0 v1 v2 v3} (g0 : Keeps s v0) : Keeps s (takeDesc v0 v1 v2 v3) := by
  unfold takeDesc
  extract_lets -merge -underBinder +onlyGivenNames x0 x1 x2 x3
  obtain ⟨y3, e3, h3⟩ := Keeps.name (x := x3) (.ite (keeps_State_hostRead g0) g0)
  rw [e3]
  exact keeps_State_setSq h3

theorem keeps_doFetch {s v0 v1 v2} (g0 : Keeps s v0) : Keeps s (doFetch v0 v1 v2) := by
  unfold doFetch
  split
  · exact g0
  · extract_lets -merge -underBinder +onlyGivenNames x0 x1 x2 x3 x4 x5
    obtain ⟨y5, e5, h5⟩ := Keeps.name (x := x5) (g0.cong rfl)
    rw [e5]
    refine Keeps.ite ?_ ?_
    · extract_lets -merge -underBinder +onlyGivenNames x6
      obtain ⟨y6, e6, h6⟩ := Keeps.name (x := x6) (keeps_State_bump (keeps_State_setSq h5))
      rw [e6]
      exact keeps_ringFault h6
    · extract_lets -merge -underBinder +onlyGivenNames x7 x8 x9
      refine Keeps.ite ?_ ?_
      · extract_lets -merge -underBinder +onlyGivenNames x10
        obtain ⟨y10, e10, h10⟩ := Keeps.name (x := x10) (keeps_takeDesc h5)
        rw [e10]
        exact keeps_ringFault (keeps_State_bump h10)
      · refine Keeps.ite ?_ ?_
        · exact keeps_State_setSq h5
        · extract_lets -merge -underBinder +onlyGivenNames x11
          obtain ⟨y11, e11, h11⟩ := Keeps.name (x := x11) (keeps_takeDesc h5)
          rw [e11]
          exact h11.cong rfl

theorem keeps_doCompletion {s v0 v1 v2} (g0 : Keeps s v0) : Keeps s (doCompletion v0 v1 v2) := by
  unfold doCompletion
  split
  · exact g0
  · extract_lets -merge -underBinder +onlyGivenNames x0 x1 x2
    refine Keeps.ite ?_ ?_
    · exact g0
    · extract_lets -merge -underBinder +onlyGivenNames x3 x4 x5
      obtain ⟨y5, e5, h5⟩ := Keeps.name (x := x5) (g0.cong rfl)
      rw [e5]
      extract_lets -merge -underBinder +onlyGivenNames x6
      obtain ⟨y6, e6, h6⟩ := Keeps.name (x := x6) (keeps_State_hostWrite h5)
      rw [e6]
      split
      rename_i y7_0 x7 e7
      have h7 : Keeps s x7 := Keeps.of_2 e7 (by
        refine keeps_ringIrq ?_ ?_
        · intro x8_0 a8_1 a8_2 h8_0
          exact keeps_State_signal h8_0
        · exact h6)
      extract_lets -merge -underBinder +onlyGivenNames x9
      obtain ⟨y9, e9, h9⟩ := Keeps.name (x := x9) (keeps_State_setCq h7)
      rw [e9]
      exact .ite (keeps_State_raise h9) h9

theorem keeps_cqSignal {s v0 v1 v2 v3} (g0 : Keeps s v0) : Keeps s (cqSignal v0 v1 v2 v3) := by
  unfold cqSignal
  extract_lets -merge -underBinder +onlyGivenNames x0 x1
  exact (.ite (keeps_State_signal (keeps_State_setCq g0)) g0)

theorem keeps_evqSignal {s v0 v1 v2 v3} (g0 : Keeps s v0) : Keeps s (evqSignal v0 v1 v2 v3) := by
  unfold evqSignal
  extract_lets -merge -underBinder +onlyGivenNames x0 x1
  exact (.ite (keeps_msixSignal (g0.cong rfl)) g0)

theorem keeps_doCoalesce {s v0 v1 v2} (g0 : Keeps s v0) : Keeps s (doCoalesce v0 v1 v2) := by
  unfold doCoalesce
  split
  · exact keeps_cqSignal g0
  · exact keeps_evqSignal g0

theorem keeps_coalNow {s v0 v1 v2 v3 v4} (g0 : Keeps s v0) : Keeps s (coalNow v0 v1 v2 v3 v4) := by
  unfold coalNow
  exact .ite (keeps_cqSignal g0) (keeps_evqSignal g0)

theorem keeps_takeTemps {s v0 v1} (g0 : Keeps s v0) : Keeps s (takeTemps v0 v1) := by
  unfold takeTemps
  extract_lets -merge -underBinder +onlyGivenNames x0
  exact g0.cong rfl

theorem keeps_writeFault {s v0 v1} (g0 : Keeps s v0) : Keeps s (writeFault v0 v1) := by
  unfold writeFault
  split
  · exact g0.cong rfl

theorem keeps_dropRegs {s v0 v1 v2} (g0 : Keeps s v0) : Keeps s (dropRegs v0 v1 v2) := by
  unfold dropRegs
  exact g0.cong rfl

theorem keeps_abortJob {s v0 v1} (g0 : Keeps s v0) : Keeps s (abortJob v0 v1) := by
  unfold abortJob
  exact .ite (keeps_State_finish g0) (keeps_State_finish g0)

theorem keeps_abortAll {s v0 v1} (g0 : Keeps s v0) : Keeps s (abortAll v0 v1) := by
  unfold abortAll
  refine Keeps.foldl ?_ ?_
  · exact g0
  · intro x0 a0 h0
    exact keeps_abortJob h0

theorem keeps_abortSlates {s v0} (g0 : Keeps s v0) : Keeps s (abortSlates v0) := by
  unfold abortSlates
  exact keeps_abortAll (g0.cong rfl)

theorem keeps_pd5Off {s v0} (g0 : Keeps s v0) : Keeps s (pd5Off v0) := by
  unfold pd5Off
  exact keeps_dropRegs (g0.cong rfl)

theorem keeps_hpdLow {s v0} (g0 : Keeps s v0) : Keeps s (hpdLow v0) := by
  unfold hpdLow
  refine Keeps.foldl ?_ ?_
  · exact g0
  · intro x0 a0 h0
    exact keeps_State_emit h0

theorem keeps_pd6Off {s v0} (g0 : Keeps s v0) : Keeps s (pd6Off v0) := by
  unfold pd6Off
  refine keeps_dropRegs ?_
  extract_lets -merge -underBinder +onlyGivenNames x0
  obtain ⟨y0, e0, h0⟩ := Keeps.name (x := x0) (keeps_hpdLow g0)
  rw [e0]
  exact h0.cong rfl

theorem keeps_State_enterFrozen {s v0 v1} (g0 : Keeps s v0) : Keeps s (State.enterFrozen v0 v1) := by
  unfold State.enterFrozen
  refine Keeps.ite ?_ ?_
  · exact g0
  · extract_lets -merge -underBinder +onlyGivenNames x0
    obtain ⟨y0, e0, h0⟩ := Keeps.name (x := x0) (keeps_State_setMode (keeps_writeFault g0))
    rw [e0]
    extract_lets -merge -underBinder +onlyGivenNames x1
    obtain ⟨y1, e1, h1⟩ := Keeps.name (s := s) (x := x1) (by
      unfold x1
      refine Keeps.foldl ?_ ?_
      · exact h0
      · intro x2 a2 h2
        exact (.ite h2 (keeps_State_setReady h2)))
    rw [e1]
    extract_lets -merge -underBinder +onlyGivenNames x3 x4 x5 x6 x7 x8
    obtain ⟨y8, e8, h8⟩ := Keeps.name (x := x8) (h1.cong rfl)
    rw [e8]
    extract_lets -merge -underBinder +onlyGivenNames x9
    obtain ⟨y9, e9, h9⟩ := Keeps.name (x := x9) (keeps_pd6Off (keeps_pd5Off h8))
    rw [e9]
    extract_lets -merge -underBinder +onlyGivenNames x10 x11 x12
    obtain ⟨y12, e12, h12⟩ := Keeps.name (x := x12) (h9.cong rfl)
    rw [e12]
    exact keeps_abortAll h12

end Machine
end Sys2Proof
end

