-- ==== Sys2Proof/Laws/KeepsFabric.lean ====
section
/-! SUPPORT. What the memory controller, the links and the time base keep, said once for each operation: the memory stays canonical, the pins follow the pair
state, the lifecycle is one-way, the bar and locked MPU regions stay, the queue is untouched, what was put out stays, and the clock never
goes back. A lemma keeps_f says it of the operation f. -/

set_option Elab.async false

namespace Sys2Proof
namespace Machine

theorem undoQueue_wf (m : List Host.Cell) (qs : List DramReq) (h : Memory.wf m = true) : Memory.wf (undoQueue m qs) = true := by
  unfold undoQueue
  generalize qs.reverse = l
  induction l generalizing m with
  | nil => exact h
  | cons q l ih =>
    refine ih _ ?_
    by_cases hq : q.isWrite = true
    · simp only [hq, if_true]; exact memWrite_wf _ _ _ h
    · simp only [hq]; exact h

theorem undoWrites_wf (m : List Host.Cell) (cs : Tab ChanRec) (h : Memory.wf m = true) :
    Memory.wf (cs.foldl (fun m e => undoQueue m e.2.queue) m) = true := by
  induction cs generalizing m with
  | nil => exact h
  | cons e cs ih => exact ih _ (undoQueue_wf _ _ h)

theorem keeps_State_setChan {s v0 v1 v2} (g0 : Keeps s v0) : Keeps s (State.setChan v0 v1 v2) := by
  unfold State.setChan
  exact g0.cong rfl

theorem keeps_acceptReq {s v0 v1} (g0 : Keeps s v0) : Keeps s (acceptReq v0 v1) := by
  unfold acceptReq
  extract_lets -merge -underBinder +onlyGivenNames x0 x1 x2 x3
  obtain ⟨y3, e3, h3⟩ := Keeps.name (x := x3) (g0.cong rfl)
  rw [e3]
  refine Keeps.ite ?_ ?_
  · extract_lets -merge -underBinder +onlyGivenNames x4 x5
    obtain ⟨y5, e5, h5⟩ := Keeps.name (x := x5) (h3.trans ⟨fun h => memWrite_wf _ _ _ h, id, OtpStep.refl _, id, fun _ _ h _ => h, rfl, List.suffix_refl _, Nat.le_refl _⟩)
    rw [e5]
    exact keeps_State_setChan h5
  · extract_lets -merge -underBinder +onlyGivenNames x6 x7
    obtain ⟨y7, e7, h7⟩ := Keeps.name (x := x7) (.ite (keeps_State_bump h3) h3)
    rw [e7]
    exact keeps_State_setChan h7

theorem keeps_drainList {s v0 v1 v2} (g2 : Keeps s v2) : Keeps s (drainList v0 v1 v2) := by
  induction v0 generalizing v1 v2 with
  | nil =>
    rw [drainList]
    exact g2.cong rfl
  | cons v vs ih =>
    rw [drainList]
    exact (.ite (ih g2) (ih (keeps_acceptReq g2)))

theorem keeps_drainIngress {s v0} (g0 : Keeps s v0) : Keeps s (drainIngress v0) := by
  unfold drainIngress
  exact keeps_drainList g0

theorem keeps_testCompare {s v0 v1 v2} (g0 : Keeps s v0) : Keeps s (testCompare v0 v1 v2) := by
  unfold testCompare
  extract_lets -merge -underBinder +onlyGivenNames x0 x1
  exact g0.cong rfl

theorem keeps_testAccess {s v0} (g0 : Keeps s v0) : Keeps s (testAccess v0) := by
  unfold testAccess
  extract_lets -merge -underBinder +onlyGivenNames x0 x1 x2
  refine Keeps.ite ?_ ?_
  · exact keeps_drainIngress g0
  · extract_lets -merge -underBinder +onlyGivenNames x3 x4
    obtain ⟨y4, e4, h4⟩ := Keeps.name (x := x4) (g0.cong rfl)
    rw [e4]
    refine Keeps.ite ?_ ?_
    · extract_lets -merge -underBinder +onlyGivenNames x5
      obtain ⟨y5, e5, h5⟩ := Keeps.name (x := x5) (keeps_State_mpuDeny h4)
      rw [e5]
      exact .ite (keeps_testCompare h5) h5
    · extract_lets -merge -underBinder +onlyGivenNames x6
      exact keeps_drainIngress (h4.cong rfl)

theorem keeps_ingressOne {s v0 v1 v2 v3 v4} (g0 : Keeps s v0) : Keeps s (ingressOne v0 v1 v2 v3 v4) := by
  unfold ingressOne
  extract_lets -merge -underBinder +onlyGivenNames x0
  refine Keeps.ite ?_ ?_
  · extract_lets -merge -underBinder +onlyGivenNames x1
    obtain ⟨y1, e1, h1⟩ := Keeps.name (x := x1) (keeps_State_mpuDeny g0)
    rw [e1]
    exact .ite h1 (keeps_State_emit h1)
  · refine Keeps.ite ?_ ?_
    · extract_lets -merge -underBinder +onlyGivenNames x2
      exact keeps_drainIngress (g0.cong rfl)
    · refine Keeps.ite ?_ ?_
      · exact g0.cong rfl
      · refine Keeps.ite ?_ ?_
        · extract_lets -merge -underBinder +onlyGivenNames x3
          obtain ⟨y3, e3, h3⟩ := Keeps.name (x := x3) (keeps_State_addrFault g0)
          rw [e3]
          exact .ite h3 (keeps_State_emit h3)
        · refine Keeps.ite ?_ ?_
          · extract_lets -merge -underBinder +onlyGivenNames x4 x5
            refine Keeps.ite ?_ ?_
            · exact keeps_State_hostWrite g0
            · split
              rename_i y6_0 x6 e6
              have h6 : Keeps s x6 := Keeps.of_2 e6 (by
                refine keeps_State_masterRead ?_
                exact g0)
              split
              · exact keeps_State_emit h6
              · exact h6
          · exact .ite g0 (keeps_State_emit g0)

theorem keeps_doMemRequest {s v0 v1 v2 v3 v4 v5} (g0 : Keeps s v0) : Keeps s (doMemRequest v0 v1 v2 v3 v4 v5) := by
  unfold doMemRequest
  refine Keeps.ite ?_ ?_
  · exact keeps_testAccess g0
  · refine Keeps.ite ?_ ?_
    · exact keeps_ingressOne g0
    · refine Keeps.foldl ?_ ?_
      · exact g0
      · intro x0 a0 h0
        exact keeps_ingressOne h0

theorem keeps_throttleOn {s v0 v1} (g0 : Keeps s v0) : Keeps s (throttleOn v0 v1) := by
  unfold throttleOn
  exact g0.cong rfl

theorem keeps_hammerHit {s v0 v1 v2 v3 v4} (g0 : Keeps s v0) : Keeps s (hammerHit v0 v1 v2 v3 v4) := by
  unfold hammerHit
  extract_lets -merge -underBinder +onlyGivenNames x0 x1
  obtain ⟨y1, e1, h1⟩ := Keeps.name (x := x1) (keeps_State_emit g0)
  rw [e1]
  split
  rename_i y2_0 x2 e2
  have h2 : Keeps s x2 := Keeps.of_2 e2 (by
    refine Keeps.ite2 ?_ ?_
    · refine Keeps.mk2 ?_
      exact h1
    · refine Keeps.ite2 ?_ ?_
      · refine Keeps.mk2 ?_
        exact keeps_throttleOn h1
      · refine Keeps.ite2 ?_ ?_
        · refine Keeps.mk2 ?_
          exact h1
        · refine Keeps.mk2 ?_
          exact (keeps_throttleOn (h1.cong rfl)))
  extract_lets -merge -underBinder +onlyGivenNames x3 x4 x5
  obtain ⟨y5, e5, h5⟩ := Keeps.name (x := x5) (keeps_State_bump (h2.cong rfl))
  rw [e5]
  exact keeps_State_raiseLimited h5

theorem keeps_activate {s v0 v1 v2 v3 v4 v5} (g0 : Keeps s v0) : Keeps s (activate v0 v1 v2 v3 v4 v5) := by
  unfold activate
  extract_lets -merge -underBinder +onlyGivenNames x0
  obtain ⟨y0, e0, h0⟩ := Keeps.name (x := x0) (keeps_State_emit g0)
  rw [e0]
  extract_lets -merge -underBinder +onlyGivenNames x1
  split
  · split
    · extract_lets -merge -underBinder +onlyGivenNames x2 x3 x4 x5
      obtain ⟨y5, e5, h5⟩ := Keeps.name (x := x5) (keeps_State_setChan h0)
      rw [e5]
      clear_value x3
      split
      · exact keeps_hammerHit h5
      · exact h5

theorem keeps_doThrottleExpiry {s v0 v1} (g0 : Keeps s v0) : Keeps s (doThrottleExpiry v0 v1) := by
  unfold doThrottleExpiry
  exact (.ite g0 (keeps_drainIngress (g0.cong rfl)))

theorem keeps_undoWrites {s v0} (g0 : Keeps s v0) : Keeps s (undoWrites v0) := by
  unfold undoWrites
  exact g0.trans ⟨fun h => undoWrites_wf _ _ h, id, OtpStep.refl _, id, fun _ _ h _ => h, rfl, List.suffix_refl _, Nat.le_refl _⟩

theorem keeps_freeze {s v0 v1 v2 v3 v4 v5 v6 v7 v8} (g0 : Keeps s v0) : Keeps s (freeze v0 v1 v2 v3 v4 v5 v6 v7 v8) := by
  unfold freeze
  refine Keeps.ite ?_ ?_
  · exact g0
  · extract_lets -merge -underBinder +onlyGivenNames x0 x1 x2 x3 x4
    obtain ⟨y4, e4, h4⟩ := Keeps.name (x := x4) (keeps_undoWrites (g0.cong rfl))
    rw [e4]
    extract_lets -merge -underBinder +onlyGivenNames x5 x6
    obtain ⟨y6, e6, h6⟩ := Keeps.name (x := x6) (h4.cong rfl)
    rw [e6]
    extract_lets -merge -underBinder +onlyGivenNames x7
    obtain ⟨y7, e7, h7⟩ := Keeps.name (x := x7) (keeps_State_raise h6)
    rw [e7]
    extract_lets -merge -underBinder +onlyGivenNames x8
    obtain ⟨y8, e8, h8⟩ := Keeps.name (x := x8) (keeps_State_trigger h7)
    rw [e8]
    exact (keeps_abortSlates (keeps_State_enterFrozen (keeps_State_setReady (keeps_State_setReady h8))))

theorem keeps_doCommandError {s v0 v1 v2} (g0 : Keeps s v0) : Keeps s (doCommandError v0 v1 v2) := by
  unfold doCommandError
  extract_lets -merge -underBinder +onlyGivenNames x0
  exact keeps_freeze g0

theorem keeps_eccAccess {s v0 v1 v2} (g0 : Keeps s v0) : Keeps s (eccAccess v0 v1 v2) := by
  unfold eccAccess
  extract_lets -merge -underBinder +onlyGivenNames x0 x1
  exact (.ite (keeps_State_setChan g0) (keeps_activate (keeps_State_setChan g0)))

theorem keeps_countCe {s v0 v1 v2} (g0 : Keeps s v0) : Keeps s (countCe v0 v1 v2) := by
  unfold countCe
  extract_lets -merge -underBinder +onlyGivenNames x0 x1 x2
  obtain ⟨y2, e2, h2⟩ := Keeps.name (x := x2) (keeps_State_bumpBy (keeps_State_setChan g0))
  rw [e2]
  extract_lets -merge -underBinder +onlyGivenNames x3
  refine Keeps.ite ?_ ?_
  · extract_lets -merge -underBinder +onlyGivenNames x4
    obtain ⟨y4, e4, h4⟩ := Keeps.name (x := x4) (keeps_State_setChan (keeps_State_rateMark h2))
    rw [e4]
    exact keeps_State_raise h4
  · exact h2

theorem keeps_eccResult {s v0 v1 v2 v3 v4 v5} (g0 : Keeps s v0) : Keeps s (eccResult v0 v1 v2 v3 v4 v5) := by
  unfold eccResult
  split
  · exact g0
  · extract_lets -merge -underBinder +onlyGivenNames x0
    obtain ⟨y0, e0, h0⟩ := Keeps.name (x := x0) (keeps_countCe g0)
    rw [e0]
    extract_lets -merge -underBinder +onlyGivenNames x1 x2 x3
    exact keeps_State_setChan h0
  · exact keeps_freeze g0

theorem keeps_checkedAccess {s v0 v1 v2 v3 v4} (g0 : Keeps s v0) : Keeps s (checkedAccess v0 v1 v2 v3 v4) := by
  unfold checkedAccess
  extract_lets -merge -underBinder +onlyGivenNames x0 x1 x2 x3
  obtain ⟨y3, e3, h3⟩ := Keeps.name (x := x3) (keeps_State_setChan g0)
  rw [e3]
  extract_lets -merge -underBinder +onlyGivenNames x4
  obtain ⟨y4, e4, h4⟩ := Keeps.name (x := x4) (keeps_eccAccess (keeps_activate h3))
  rw [e4]
  extract_lets -merge -underBinder +onlyGivenNames x5
  obtain ⟨y5, e5, h5⟩ := Keeps.name (x := x5) (.ite (keeps_eccResult h4) h4)
  rw [e5]
  exact .ite h5 (keeps_State_setChan h5)

theorem keeps_issued {s v0 v1} (g0 : Keeps s v0) : Keeps s (issued v0 v1) := by
  unfold issued
  extract_lets -merge -underBinder +onlyGivenNames x0
  split
  · extract_lets -merge -underBinder +onlyGivenNames x1
    obtain ⟨y1, e1, h1⟩ := Keeps.name (x := x1) (keeps_State_emit g0)
    rw [e1]
    exact .ite (keeps_testCompare h1) h1
  · exact keeps_activate g0
  · exact g0

theorem keeps_doChannelIssue {s v0 v1 v2} (g0 : Keeps s v0) : Keeps s (doChannelIssue v0 v1 v2) := by
  unfold doChannelIssue
  refine Keeps.ite ?_ ?_
  · exact g0
  · extract_lets -merge -underBinder +onlyGivenNames x0 x1
    split
    · exact keeps_State_setChan g0
    · extract_lets -merge -underBinder +onlyGivenNames x2
      obtain ⟨y2, e2, h2⟩ := Keeps.name (x := x2) (keeps_State_setChan g0)
      rw [e2]
      extract_lets -merge -underBinder +onlyGivenNames x3
      obtain ⟨y3, e3, h3⟩ := Keeps.name (x := x3) (keeps_checkedAccess h2)
      rw [e3]
      exact (.ite h3 (keeps_drainIngress (keeps_issued h3)))

theorem keeps_nextPass {s v0} (g0 : Keeps s v0) : Keeps s (nextPass v0) := by
  unfold nextPass
  exact g0.cong rfl

theorem keeps_doScrub {s v0 v1 v2} (g0 : Keeps s v0) : Keeps s (doScrub v0 v1 v2) := by
  unfold doScrub
  refine Keeps.ite ?_ ?_
  · exact g0
  · extract_lets -merge -underBinder +onlyGivenNames x0 x1 x2
    obtain ⟨y2, e2, h2⟩ := Keeps.name (x := x2) (keeps_State_setChan g0)
    rw [e2]
    extract_lets -merge -underBinder +onlyGivenNames x3
    obtain ⟨y3, e3, h3⟩ := Keeps.name (x := x3) (.ite (keeps_checkedAccess h2) h2)
    rw [e3]
    refine Keeps.ite ?_ ?_
    · refine keeps_State_bump ?_
      refine Keeps.foldl ?_ ?_
      · exact keeps_nextPass h3
      · intro x4 a4 h4
        exact keeps_State_setChan h4
    · exact h3

theorem keeps_doRefresh {s v0 v1 v2} (g0 : Keeps s v0) : Keeps s (doRefresh v0 v1 v2) := by
  unfold doRefresh
  extract_lets -merge -underBinder +onlyGivenNames x0
  exact keeps_State_emit (keeps_State_setChan g0)

theorem keeps_doRetrain {s v0 v1 v2 v3} (g0 : Keeps s v0) : Keeps s (doRetrain v0 v1 v2 v3) := by
  unfold doRetrain
  exact (.ite g0 (keeps_State_setChan (g0.cong rfl)))

theorem keeps_doRetrainEnd {s v0 v1 v2} (g0 : Keeps s v0) : Keeps s (doRetrainEnd v0 v1 v2) := by
  unfold doRetrainEnd
  refine Keeps.ite ?_ ?_
  · extract_lets -merge -underBinder +onlyGivenNames x0 x1
    obtain ⟨y1, e1, h1⟩ := Keeps.name (x := x1) (keeps_State_bump (g0.cong rfl))
    rw [e1]
    exact keeps_drainIngress (keeps_State_raise h1)
  · exact g0

theorem keeps_startInit {s v0} (g0 : Keeps s v0) : Keeps s (startInit v0) := by
  unfold startInit
  split
  · exact g0.cong rfl
  · exact keeps_State_setReady (g0.cong rfl)

theorem keeps_trainFails {s v0 v1 v2} (g0 : Keeps s v0) : Keeps s (trainFails v0 v1 v2).2 := by
  unfold trainFails
  split
  rename_i y0_0 x0 e0
  have h0 : Keeps s x0 := Keeps.of_2 e0 (by
    refine keeps_State_fresh ?_
    exact g0)
  extract_lets -merge -underBinder +onlyGivenNames x1
  refine Keeps.mk2 ?_
  exact h0

theorem keeps_doTrainingEnd {s v0 v1 v2 v3} (g0 : Keeps s v0) : Keeps s (doTrainingEnd v0 v1 v2 v3) := by
  unfold doTrainingEnd
  refine Keeps.ite ?_ ?_
  · exact g0
  · extract_lets -merge -underBinder +onlyGivenNames x0 x1
    obtain ⟨y1, e1, h1⟩ := Keeps.name (x := x1) (.ite g0 (keeps_State_emit (g0.cong rfl)))
    rw [e1]
    extract_lets -merge -underBinder +onlyGivenNames x2
    obtain ⟨y2, e2, h2⟩ := Keeps.name (s := s) (x := x2) (by
      unfold x2
      refine Keeps.foldl ?_ ?_
      · exact h1
      · intro x3 a3 h3
        exact (keeps_State_setChan h3))
    rw [e2]
    split
    rename_i y4_0 x4 e4
    have h4 : Keeps s x4 := Keeps.of_2 e4 (by
      refine keeps_trainFails ?_
      exact h2)
    extract_lets -merge -underBinder +onlyGivenNames x5
    refine Keeps.ite ?_ ?_
    · refine Keeps.foldl ?_ ?_
      · exact h4.cong rfl
      · intro x6 a6 h6
        exact keeps_State_raise h6
    · extract_lets -merge -underBinder +onlyGivenNames x7 x8 x9 x10 x11
      obtain ⟨y11, e11, h11⟩ := Keeps.name (x := x11) (h4.cong rfl)
      rw [e11]
      extract_lets -merge -underBinder +onlyGivenNames x12
      obtain ⟨y12, e12, h12⟩ := Keeps.name (s := s) (x := x12) (by
        unfold x12
        refine Keeps.foldl ?_ ?_
        · exact h11
        · intro x13 a13 h13
          exact (.ite (keeps_State_raise h13) (h13.trans ⟨fun h => memClear_wf _ _ _ h, id, OtpStep.refl _, id, fun _ _ h _ => h, rfl, List.suffix_refl _, Nat.le_refl _⟩)))
      rw [e12]
      exact keeps_startInit (keeps_State_setReady h12)

theorem keeps_doSegment {s v0} (g0 : Keeps s v0) : Keeps s (doSegment v0) := by
  unfold doSegment
  split
  · exact g0
  · refine Keeps.ite ?_ ?_
    · exact g0
    · extract_lets -merge -underBinder +onlyGivenNames x0 x1 x2
      obtain ⟨y2, e2, h2⟩ := Keeps.name (x := x2) (g0.cong rfl)
      rw [e2]
      extract_lets -merge -underBinder +onlyGivenNames x3
      obtain ⟨y3, e3, h3⟩ := Keeps.name (x := x3) (keeps_State_raise h2)
      rw [e3]
      exact keeps_startInit (keeps_drainIngress h3)

theorem keeps_linkEnter {s v0 v1 v2} (g0 : Keeps s v0) : Keeps s (linkEnter v0 v1 v2) := by
  unfold linkEnter
  extract_lets -merge -underBinder +onlyGivenNames x0
  obtain ⟨y0, e0, h0⟩ := Keeps.name (x := x0) (keeps_State_setLink g0)
  rw [e0]
  exact keeps_State_emit h0

theorem keeps_sendLinkClass {s v0 v1 v2} (g0 : Keeps s v0) : Keeps s (sendLinkClass v0 v1 v2) := by
  unfold sendLinkClass
  exact keeps_enqueue (fun _ _ _ h => keeps_State_raise h) g0

theorem keeps_sendCaps {s v0 v1} (g0 : Keeps s v0) : Keeps s (sendCaps v0 v1) := by
  unfold sendCaps
  extract_lets -merge -underBinder +onlyGivenNames x0
  exact keeps_sendLinkClass (keeps_State_setLink g0)

theorem keeps_capsAll {s v0} (g0 : Keeps s v0) : Keeps s (capsAll v0) := by
  unfold capsAll
  refine Keeps.foldl ?_ ?_
  · exact g0
  · intro x0 a0 h0
    exact .ite (keeps_sendCaps h0) h0

theorem keeps_mirrorLose {s v0 v1} (g0 : Keeps s v0) : Keeps s (mirrorLose v0 v1) := by
  unfold mirrorLose
  refine Keeps.ite ?_ ?_
  · exact g0
  · extract_lets -merge -underBinder +onlyGivenNames x0 x1
    obtain ⟨y1, e1, h1⟩ := Keeps.name (x := x1) (keeps_State_raise (g0.cong rfl))
    rw [e1]
    refine Keeps.ite ?_ ?_
    · extract_lets -merge -underBinder +onlyGivenNames x2
      obtain ⟨y2, e2, h2⟩ := Keeps.name (x := x2) (keeps_mirrorPacket h1)
      rw [e2]
      exact keeps_mirrorPump h2
    · exact h1

theorem keeps_leaveUp {s v0 v1 v2 v3} (g0 : Keeps s v0) : Keeps s (leaveUp v0 v1 v2 v3) := by
  unfold leaveUp
  extract_lets -merge -underBinder +onlyGivenNames x0 x1 x2 x3 x4 x5 x6
  obtain ⟨y6, e6, h6⟩ := Keeps.name (x := x6) (keeps_linkEnter g0)
  rw [e6]
  refine Keeps.ite ?_ ?_
  · extract_lets -merge -underBinder +onlyGivenNames x7
    obtain ⟨y7, e7, h7⟩ := Keeps.name (x := x7) (keeps_State_bumpBy h6)
    rw [e7]
    extract_lets -merge -underBinder +onlyGivenNames x8
    obtain ⟨y8, e8, h8⟩ := Keeps.name (x := x8) (.ite (keeps_fabDrop (fun _ _ _ h => keeps_State_raise h) h7) h7)
    rw [e8]
    extract_lets -merge -underBinder +onlyGivenNames x9
    obtain ⟨y9, e9, h9⟩ := Keeps.name (s := s) (x := x9) (by
      unfold x9
      refine Keeps.foldl ?_ ?_
      · exact h8
      · intro x10 a10 h10
        extract_lets -merge -underBinder +onlyGivenNames x11
        split
        · exact (.ite (keeps_State_emit (keeps_State_emit (keeps_State_emit (keeps_State_setLink h10)))) h10)
        · exact h10)
    rw [e9]
    extract_lets -merge -underBinder +onlyGivenNames x12
    obtain ⟨y12, e12, h12⟩ := Keeps.name (x := x12) (keeps_State_setReady h9)
    rw [e12]
    extract_lets -merge -underBinder +onlyGivenNames x13
    obtain ⟨y13, e13, h13⟩ := Keeps.name (x := x13) (keeps_State_raise h12)
    rw [e13]
    exact (.ite (keeps_mirrorLose (h13.cong rfl)) h13)
  · exact h6

theorem keeps_doTrainTimeout {s v0 v1} (g0 : Keeps s v0) : Keeps s (doTrainTimeout v0 v1) := by
  unfold doTrainTimeout
  extract_lets -merge -underBinder +onlyGivenNames x0
  refine Keeps.ite ?_ ?_
  · extract_lets -merge -underBinder +onlyGivenNames x1
    obtain ⟨y1, e1, h1⟩ := Keeps.name (x := x1) (keeps_State_bump (keeps_leaveUp g0))
    rw [e1]
    exact keeps_State_raiseLimited h1
  · exact g0

theorem keeps_doBackoffExpiry {s v0 v1} (g0 : Keeps s v0) : Keeps s (doBackoffExpiry v0 v1) := by
  unfold doBackoffExpiry
  extract_lets -merge -underBinder +onlyGivenNames x0
  exact .ite (keeps_linkEnter g0) g0

theorem keeps_linkSetEnable {s v0 v1 v2} (g0 : Keeps s v0) : Keeps s (linkSetEnable v0 v1 v2) := by
  unfold linkSetEnable
  extract_lets -merge -underBinder +onlyGivenNames x0
  exact (.ite (.ite (keeps_linkEnter g0) g0) (.ite g0 (keeps_leaveUp g0)))

theorem keeps_linkRetrainNow {s v0 v1} (g0 : Keeps s v0) : Keeps s (linkRetrainNow v0 v1) := by
  unfold linkRetrainNow
  exact .ite g0 (keeps_leaveUp g0)

theorem keeps_linkGoesUp {s v0 v1} (g0 : Keeps s v0) : Keeps s (linkGoesUp v0 v1) := by
  unfold linkGoesUp
  extract_lets -merge -underBinder +onlyGivenNames x0 x1
  obtain ⟨y1, e1, h1⟩ := Keeps.name (x := x1) (keeps_State_setReady (keeps_linkEnter g0))
  rw [e1]
  exact keeps_State_raise h1

theorem keeps_takeSets {s v0 v1 v2} (g1 : Keeps s v1) : Keeps s (takeSets v0 v1 v2) := by
  unfold takeSets
  extract_lets -merge -underBinder +onlyGivenNames x0 x1 x2
  refine Keeps.ite ?_ ?_
  · exact keeps_State_bump (keeps_State_setLink g1)
  · extract_lets -merge -underBinder +onlyGivenNames x3 x4 x5
    exact keeps_State_setLink g1

theorem keeps_trainAdvance {s v0 v1 v2} (g0 : Keeps s v0) : Keeps s (trainAdvance v0 v1 v2) := by
  unfold trainAdvance
  extract_lets -merge -underBinder +onlyGivenNames x0
  split
  · exact .ite (keeps_linkEnter g0) g0
  · exact keeps_linkEnter g0
  · exact keeps_linkEnter g0
  · extract_lets -merge -underBinder +onlyGivenNames x1
    obtain ⟨y1, e1, h1⟩ := Keeps.name (s := s) (x := x1) (by
      unfold x1
      refine Keeps.foldl ?_ ?_
      · exact g0
      · intro x2 a2 h2
        exact (keeps_takeSets h2))
    rw [e1]
    extract_lets -merge -underBinder +onlyGivenNames x3
    exact .ite (keeps_linkEnter h1) h1
  · exact keeps_sendCaps (keeps_linkEnter g0)
  · exact .ite (keeps_linkGoesUp g0) g0
  · exact g0
  · exact g0

theorem keeps_doCapsRepeat {s v0 v1} (g0 : Keeps s v0) : Keeps s (doCapsRepeat v0 v1) := by
  unfold doCapsRepeat
  extract_lets -merge -underBinder +onlyGivenNames x0
  exact .ite (keeps_sendCaps g0) g0

theorem keeps_takeLocal {s v0 v1} (g0 : Keeps s v0) : Keeps s (takeLocal v0 v1) := by
  unfold takeLocal
  exact g0.cong rfl

theorem keeps_doCaps {s v0 v1 v2} (g0 : Keeps s v0) : Keeps s (doCaps v0 v1 v2) := by
  unfold doCaps
  extract_lets -merge -underBinder +onlyGivenNames x0
  obtain ⟨y0, e0, h0⟩ := Keeps.name (x := x0) (keeps_takeLocal g0)
  rw [e0]
  extract_lets -merge -underBinder +onlyGivenNames x1
  refine Keeps.ite ?_ ?_
  · exact h0
  · refine Keeps.ite ?_ ?_
    · exact .ite (keeps_State_setLink h0) h0
    · extract_lets -merge -underBinder +onlyGivenNames x2 x3 x4 x5 x6 x7 x8 x9
      obtain ⟨y9, e9, h9⟩ := Keeps.name (x := x9) (keeps_State_setLink h0)
      rw [e9]
      extract_lets -merge -underBinder +onlyGivenNames x10
      obtain ⟨y10, e10, h10⟩ := Keeps.name (x := x10) (keeps_sendLinkClass h9)
      rw [e10]
      extract_lets -merge -underBinder +onlyGivenNames x11
      obtain ⟨y11, e11, h11⟩ := Keeps.name (x := x11) (.ite (keeps_State_raise h10) h10)
      rw [e11]
      extract_lets -merge -underBinder +onlyGivenNames x12
      obtain ⟨y12, e12, h12⟩ := Keeps.name (x := x12) (.ite (keeps_State_raise h11) h11)
      rw [e12]
      exact (.ite (keeps_leaveUp h12) (.ite (keeps_State_raise h12) h12))

theorem keeps_linkLockLost {s v0 v1} (g0 : Keeps s v0) : Keeps s (linkLockLost v0 v1) := by
  unfold linkLockLost
  exact .ite (keeps_leaveUp g0) g0

theorem keeps_codeErrorBase {s v0 v1 v2 v3} (g0 : Keeps s v0) : Keeps s (codeErrorBase v0 v1 v2 v3) := by
  unfold codeErrorBase
  extract_lets -merge -underBinder +onlyGivenNames x0 x1 x2
  obtain ⟨y2, e2, h2⟩ := Keeps.name (x := x2) (keeps_State_bump (keeps_State_setLink g0))
  rw [e2]
  exact .ite (keeps_linkLockLost h2) h2

theorem keeps_abortCopies {s v0 v1 v2} (g0 : Keeps s v0) : Keeps s (abortCopies v0 v1 v2) := by
  unfold abortCopies
  extract_lets -merge -underBinder +onlyGivenNames x0
  refine Keeps.foldl ?_ ?_
  · exact g0
  · intro x1 a1 h1
    extract_lets -merge -underBinder +onlyGivenNames x2
    exact (.ite (keeps_State_emit (keeps_State_emit (keeps_State_setLink h1))) h1)

theorem keeps_crcBad {s v0 v1 v2} (g0 : Keeps s v0) : Keeps s (crcBad v0 v1 v2) := by
  unfold crcBad
  extract_lets -merge -underBinder +onlyGivenNames x0
  obtain ⟨y0, e0, h0⟩ := Keeps.name (x := x0) (keeps_State_bump g0)
  rw [e0]
  extract_lets -merge -underBinder +onlyGivenNames x1 x2
  obtain ⟨y2, e2, h2⟩ := Keeps.name (x := x2) (.ite (keeps_State_setLink h0) (keeps_State_raise (keeps_State_setLink h0)))
  rw [e2]
  extract_lets -merge -underBinder +onlyGivenNames x3
  obtain ⟨y3, e3, h3⟩ := Keeps.name (x := x3) (keeps_abortCopies h2)
  rw [e3]
  refine Keeps.ite ?_ ?_
  · extract_lets -merge -underBinder +onlyGivenNames x4 x5
    obtain ⟨y5, e5, h5⟩ := Keeps.name (x := x5) (h3.cong rfl)
    rw [e5]
    exact .ite (keeps_mirrorLose h5) h5
  · exact h3

theorem keeps_doPacketReceive {s v0 v1 v2 v3 v4} (g0 : Keeps s v0) : Keeps s (doPacketReceive v0 v1 v2 v3 v4) := by
  unfold doPacketReceive
  extract_lets -merge -underBinder +onlyGivenNames x0
  refine Keeps.ite ?_ ?_
  · exact g0
  · extract_lets -merge -underBinder +onlyGivenNames x1
    obtain ⟨y1, e1, h1⟩ := Keeps.name (x := x1) (keeps_State_setLink g0)
    rw [e1]
    refine Keeps.ite ?_ ?_
    · exact keeps_abortCopies (keeps_State_bump h1)
    · refine Keeps.ite ?_ ?_
      · extract_lets -merge -underBinder +onlyGivenNames x2
        obtain ⟨y2, e2, h2⟩ := Keeps.name (x := x2) (.ite (keeps_State_bump h1) h1)
        rw [e2]
        exact .ite (keeps_crcBad h2) h2
      · extract_lets -merge -underBinder +onlyGivenNames x3 x4
        refine Keeps.ite ?_ ?_
        · extract_lets -merge -underBinder +onlyGivenNames x5
          obtain ⟨y5, e5, h5⟩ := Keeps.name (x := x5) (keeps_State_bump h1)
          rw [e5]
          exact keeps_fabDrop (fun _ _ _ h => keeps_State_raise h) h5
        · exact .ite (keeps_deliver h1) (keeps_State_routePkt h1)

theorem keeps_doCrcWindowEnd {s v0 v1} (g0 : Keeps s v0) : Keeps s (doCrcWindowEnd v0 v1) := by
  unfold doCrcWindowEnd
  extract_lets -merge -underBinder +onlyGivenNames x0 x1
  obtain ⟨y1, e1, h1⟩ := Keeps.name (x := x1) (keeps_State_setLink g0)
  rw [e1]
  exact .ite (keeps_State_raise h1) h1

theorem keeps_pumpLink {s v0 v1} (g0 : Keeps s v0) : Keeps s (pumpLink v0 v1) := by
  unfold pumpLink
  exact keeps_startNext (fun _ _ _ h => keeps_State_raise h) g0

theorem keeps_sendSkp {s v0 v1} (g0 : Keeps s v0) : Keeps s (sendSkp v0 v1) := by
  unfold sendSkp
  extract_lets -merge -underBinder +onlyGivenNames x0 x1 x2
  exact (keeps_State_emit (keeps_State_emit (keeps_State_setLink g0)))

theorem keeps_doPacketEnd {s v0 v1} (g0 : Keeps s v0) : Keeps s (doPacketEnd v0 v1) := by
  unfold doPacketEnd
  extract_lets -merge -underBinder +onlyGivenNames x0 x1
  obtain ⟨y1, e1, h1⟩ := Keeps.name (x := x1) (keeps_State_setLink g0)
  rw [e1]
  extract_lets -merge -underBinder +onlyGivenNames x2
  obtain ⟨y2, e2, h2⟩ := Keeps.name (x := x2) (.ite (keeps_State_emit h1) h1)
  rw [e2]
  extract_lets -merge -underBinder +onlyGivenNames x3
  obtain ⟨y3, e3, h3⟩ := Keeps.name (x := x3) (keeps_pumpLink (.ite (keeps_sendSkp h2) h2))
  rw [e3]
  exact .ite (keeps_mirrorPump h3) h3

theorem keeps_doSkp {s v0 v1} (g0 : Keeps s v0) : Keeps s (doSkp v0 v1) := by
  unfold doSkp
  extract_lets -merge -underBinder +onlyGivenNames x0
  exact (.ite g0 (.ite (keeps_State_setLink g0) (keeps_sendSkp g0)))

theorem keeps_doReorderRelease {s v0 v1} (g0 : Keeps s v0) : Keeps s (doReorderRelease v0 v1) := by
  unfold doReorderRelease
  extract_lets -merge -underBinder +onlyGivenNames x0
  split
  · exact keeps_pumpLink (keeps_State_setLink g0)
  · exact g0

theorem keeps_tephraDisarm {s v0 v1} (g0 : Keeps s v0) : Keeps s (tephraDisarm v0 v1) := by
  unfold tephraDisarm
  extract_lets -merge -underBinder +onlyGivenNames x0
  obtain ⟨y0, e0, h0⟩ := Keeps.name (x := x0) (keeps_doReorderRelease g0)
  rw [e0]
  extract_lets -merge -underBinder +onlyGivenNames x1
  refine Keeps.ite ?_ ?_
  · exact h0
  · extract_lets -merge -underBinder +onlyGivenNames x2 x3 x4 x5
    obtain ⟨y5, e5, h5⟩ := Keeps.name (x := x5) (keeps_State_setLink h0)
    rw [e5]
    exact keeps_State_raise h5

theorem keeps_doTephraCfg {s v0 v1} (g0 : Keeps s v0) : Keeps s (doTephraCfg v0 v1) := by
  unfold doTephraCfg
  extract_lets -merge -underBinder +onlyGivenNames x0 x1 x2
  refine keeps_runJob ?_ ?_
  · exact g0
  · intro x3_0 h3_0
    extract_lets -merge -underBinder +onlyGivenNames x4
    obtain ⟨y4, e4, h4⟩ := Keeps.name (x := x4) (keeps_State_setReg (keeps_tephraDisarm h3_0))
    rw [e4]
    extract_lets -merge -underBinder +onlyGivenNames x5 x6 x7
    obtain ⟨y7, e7, h7⟩ := Keeps.name (x := x7) (keeps_State_setLink h4)
    rw [e7]
    extract_lets -merge -underBinder +onlyGivenNames x8 x9
    obtain ⟨y9, e9, h9⟩ := Keeps.name (x := x9) (.ite h7 (h7.cong rfl))
    rw [e9]
    extract_lets -merge -underBinder +onlyGivenNames x10
    obtain ⟨y10, e10, h10⟩ := Keeps.name (x := x10) (.ite h4 (keeps_State_raise h9))
    rw [e10]
    exact keeps_State_finish h10

theorem keeps_setRoute {s v0 v1 v2} (g0 : Keeps s v0) : Keeps s (setRoute v0 v1 v2) := by
  unfold setRoute
  extract_lets -merge -underBinder +onlyGivenNames x0 x1 x2
  exact keeps_State_setReg g0

theorem keeps_routeLoad {s v0 v1 v2} (g0 : Keeps s v0) : Keeps s (routeLoad v0 v1 v2) := by
  unfold routeLoad
  refine keeps_State_finish ?_
  refine Keeps.foldl ?_ ?_
  · exact g0
  · intro x0 a0 h0
    exact keeps_State_setReg h0

theorem keeps_doRouteSet {s v0 v1 v2} (g0 : Keeps s v0) : Keeps s (doRouteSet v0 v1 v2) := by
  unfold doRouteSet
  extract_lets -merge -underBinder +onlyGivenNames x0 x1 x2 x3
  refine keeps_runJob ?_ ?_
  · exact g0
  · intro x4_0 h4_0
    refine Keeps.ite ?_ ?_
    · refine keeps_State_finish ?_
      refine Keeps.foldl ?_ ?_
      · exact h4_0
      · intro x5 a5 h5
        exact keeps_setRoute h5
    · refine keeps_State_hostFetch ?_ ?_
      · exact h4_0
      · intro x6_0 a6_1 h6_0
        exact keeps_routeLoad h6_0

theorem keeps_doGroupSet {s v0 v1} (g0 : Keeps s v0) : Keeps s (doGroupSet v0 v1) := by
  unfold doGroupSet
  refine keeps_runJob ?_ ?_
  · exact g0
  · intro x0_0 h0_0
    exact keeps_State_finish (keeps_State_setReg h0_0)

theorem keeps_domainDenied {s v0 v1 v2} (g0 : Keeps s v0) : Keeps s (domainDenied v0 v1 v2) := by
  unfold domainDenied
  exact keeps_State_raiseLimited g0

theorem keeps_domainWrite {s v0 v1 v2 v3} (g0 : Keeps s v0) : Keeps s (domainWrite v0 v1 v2 v3).1 := by
  unfold domainWrite
  extract_lets -merge -underBinder +onlyGivenNames x0
  refine Keeps.ite1 ?_ ?_
  · refine Keeps.ite1 ?_ ?_
    · refine Keeps.mk1 ?_
      exact g0
    · refine Keeps.mk1 ?_
      exact keeps_domainDenied g0
  · refine Keeps.ite1 ?_ ?_
    · refine Keeps.ite1 ?_ ?_
      · refine Keeps.mk1 ?_
        exact keeps_domainDenied g0
      · refine Keeps.ite1 ?_ ?_
        · refine Keeps.mk1 ?_
          exact keeps_capsAll (g0.cong rfl)
        · refine Keeps.mk1 ?_
          exact g0
    · refine Keeps.ite1 ?_ ?_
      · refine Keeps.mk1 ?_
        exact keeps_capsAll (g0.cong rfl)
      · refine Keeps.mk1 ?_
        exact g0

theorem keeps_pcieTrained {s v0} (g0 : Keeps s v0) : Keeps s (pcieTrained v0) := by
  unfold pcieTrained
  extract_lets -merge -underBinder +onlyGivenNames x0 x1 x2
  exact g0.cong rfl

theorem keeps_doPcieLinkUp {s v0} (g0 : Keeps s v0) : Keeps s (doPcieLinkUp v0) := by
  unfold doPcieLinkUp
  exact (.ite (keeps_capsAll (keeps_State_setReady (keeps_pcieTrained (g0.cong rfl)))) g0)

theorem keeps_advanceTime {s v0 v1} (g0 : Keeps s v0) : Keeps s (advanceTime v0 v1) := by
  unfold advanceTime
  extract_lets -merge -underBinder +onlyGivenNames x0 x1
  exact (.ite (g0.later (Nat.le_add_right _ _) rfl) (g0.later (Nat.le_add_right _ _) rfl))

theorem keeps_setTimeState {s v0 v1} (g0 : Keeps s v0) : Keeps s (setTimeState v0 v1) := by
  unfold setTimeState
  refine Keeps.ite ?_ ?_
  · exact g0
  · extract_lets -merge -underBinder +onlyGivenNames x0 x1 x2
    obtain ⟨y2, e2, h2⟩ := Keeps.name (x := x2) (g0.cong rfl)
    rw [e2]
    extract_lets -merge -underBinder +onlyGivenNames x3
    obtain ⟨y3, e3, h3⟩ := Keeps.name (x := x3) (keeps_State_raise h2)
    rw [e3]
    extract_lets -merge -underBinder +onlyGivenNames x4
    obtain ⟨y4, e4, h4⟩ := Keeps.name (x := x4) (.ite (keeps_State_untrigger h3) h3)
    rw [e4]
    exact keeps_State_setReady h4

theorem keeps_sendTime {s v0 v1 v2} (g0 : Keeps s v0) : Keeps s (sendTime v0 v1 v2) := by
  unfold sendTime
  exact keeps_enqueue (fun _ _ _ h => keeps_State_raise h) g0

theorem keeps_noteRoot {s v0 v1 v2} (g0 : Keeps s v0) : Keeps s (noteRoot v0 v1 v2) := by
  unfold noteRoot
  refine Keeps.ite ?_ ?_
  · exact g0
  · extract_lets -merge -underBinder +onlyGivenNames x0 x1
    obtain ⟨y1, e1, h1⟩ := Keeps.name (x := x1) (keeps_State_setTlink g0)
    rw [e1]
    extract_lets -merge -underBinder +onlyGivenNames x2 x3 x4
    refine Keeps.ite ?_ ?_
    · exact h1
    · split
      · exact keeps_State_raiseLimited h1

theorem keeps_doSync {s v0 v1 v2} (g0 : Keeps s v0) : Keeps s (doSync v0 v1 v2) := by
  unfold doSync
  extract_lets -merge -underBinder +onlyGivenNames x0
  obtain ⟨y0, e0, h0⟩ := Keeps.name (x := x0) (keeps_takeLocal g0)
  rw [e0]
  refine Keeps.ite ?_ ?_
  · exact h0
  · extract_lets -merge -underBinder +onlyGivenNames x1 x2
    obtain ⟨y2, e2, h2⟩ := Keeps.name (x := x2) (keeps_noteRoot h0)
    rw [e2]
    exact .ite (keeps_sendTime h2) h2

theorem keeps_doReply {s v0 v1 v2} (g0 : Keeps s v0) : Keeps s (doReply v0 v1 v2) := by
  unfold doReply
  extract_lets -merge -underBinder +onlyGivenNames x0
  obtain ⟨y0, e0, h0⟩ := Keeps.name (x := x0) (keeps_takeLocal g0)
  rw [e0]
  refine Keeps.ite ?_ ?_
  · exact h0
  · extract_lets -merge -underBinder +onlyGivenNames x1 x2
    obtain ⟨y2, e2, h2⟩ := Keeps.name (x := x2) (keeps_noteRoot h0)
    rw [e2]
    refine Keeps.ite ?_ ?_
    · exact h2
    · extract_lets -merge -underBinder +onlyGivenNames x3 x4
      split
      · exact h2
      · extract_lets -merge -underBinder +onlyGivenNames x5
        refine Keeps.ite ?_ ?_
        · exact keeps_State_setTlink h2
        · extract_lets -merge -underBinder +onlyGivenNames x6 x7 x8 x9 x10 x11
          obtain ⟨y11, e11, h11⟩ := Keeps.name (x := x11) (keeps_State_setTlink h2)
          rw [e11]
          exact .ite (keeps_State_raise h11) h11

theorem keeps_stepTime {s v0 v1} (g0 : Keeps s v0) : Keeps s (stepTime v0 v1) := by
  unfold stepTime
  extract_lets -merge -underBinder +onlyGivenNames x0 x1
  obtain ⟨y1, e1, h1⟩ := Keeps.name (x := x1) (g0.cong rfl)
  rw [e1]
  extract_lets -merge -underBinder +onlyGivenNames x2 x3
  obtain ⟨y3, e3, h3⟩ := Keeps.name (x := x3) (h1.cong rfl)
  rw [e3]
  refine Keeps.foldl ?_ ?_
  · exact h3
  · intro x4 a4 h4
    extract_lets -merge -underBinder +onlyGivenNames x5
    exact keeps_State_setTlink h4

theorem keeps_servo {s v0 v1} (g0 : Keeps s v0) : Keeps s (servo v0 v1) := by
  unfold servo
  extract_lets -merge -underBinder +onlyGivenNames x0 x1 x2 x3 x4 x5 x6 x7 x8
  obtain ⟨y8, e8, h8⟩ := Keeps.name (x := x8) (g0.cong rfl)
  rw [e8]
  exact .ite (keeps_State_raise h8) h8

theorem keeps_withParent {s v0 v1 v2} (g0 : Keeps s v0) : Keeps s (withParent v0 v1 v2) := by
  unfold withParent
  extract_lets -merge -underBinder +onlyGivenNames x0 x1
  obtain ⟨y1, e1, h1⟩ := Keeps.name (x := x1) (g0.cong rfl)
  rw [e1]
  extract_lets -merge -underBinder +onlyGivenNames x2 x3
  obtain ⟨y3, e3, h3⟩ := Keeps.name (x := x3) (keeps_stepTime h1)
  rw [e3]
  extract_lets -merge -underBinder +onlyGivenNames x4 x5 x6
  obtain ⟨y6, e6, h6⟩ := Keeps.name (x := x6) (.ite (keeps_setTimeState (keeps_stepTime h1)) (.ite (h3.cong rfl) h1))
  rw [e6]
  extract_lets -merge -underBinder +onlyGivenNames x7 x8 x9
  obtain ⟨y9, e9, h9⟩ := Keeps.name (x := x9) (h6.cong rfl)
  rw [e9]
  extract_lets -merge -underBinder +onlyGivenNames x10 x11
  obtain ⟨y11, e11, h11⟩ := Keeps.name (x := x11) (.ite (keeps_setTimeState (h9.cong rfl)) h9)
  rw [e11]
  extract_lets -merge -underBinder +onlyGivenNames x12 x13
  obtain ⟨y13, e13, h13⟩ := Keeps.name (x := x13) (keeps_servo h11)
  rw [e13]
  extract_lets -merge -underBinder +onlyGivenNames x14 x15
  obtain ⟨y15, e15, h15⟩ := Keeps.name (x := x15) (h13.cong rfl)
  rw [e15]
  extract_lets -merge -underBinder +onlyGivenNames x16 x17
  obtain ⟨y17, e17, h17⟩ := Keeps.name (x := x17) (keeps_State_setTlink h15)
  rw [e17]
  extract_lets -merge -underBinder +onlyGivenNames x18 x19
  obtain ⟨y19, e19, h19⟩ := Keeps.name (x := x19) (.ite (keeps_setTimeState (h17.cong rfl)) h17)
  rw [e19]
  exact (.ite (keeps_setTimeState (h19.cong rfl)) h19)

theorem keeps_enterHoldover {s v0 v1} (g0 : Keeps s v0) : Keeps s (enterHoldover v0 v1) := by
  unfold enterHoldover
  exact keeps_setTimeState (g0.cong rfl)

theorem keeps_withoutParent {s v0} (g0 : Keeps s v0) : Keeps s (withoutParent v0) := by
  unfold withoutParent
  split
  · exact keeps_enterHoldover g0
  · exact keeps_enterHoldover g0
  · exact keeps_setTimeState (g0.cong rfl)
  · exact .ite (keeps_setTimeState g0) g0
  · exact g0

theorem keeps_applyTimeCfg {s v0 v1} (g0 : Keeps s v0) : Keeps s (applyTimeCfg v0 v1) := by
  unfold applyTimeCfg
  extract_lets -merge -underBinder +onlyGivenNames x0 x1 x2
  obtain ⟨y2, e2, h2⟩ := Keeps.name (x := x2) (g0.cong rfl)
  rw [e2]
  extract_lets -merge -underBinder +onlyGivenNames x3 x4
  obtain ⟨y4, e4, h4⟩ := Keeps.name (x := x4) (.ite (h2.cong rfl) h2)
  rw [e4]
  extract_lets -merge -underBinder +onlyGivenNames x5 x6 x7
  obtain ⟨y7, e7, h7⟩ := Keeps.name (x := x7) (.ite (.ite h2 (keeps_setTimeState (h4.cong rfl))) (.ite (keeps_enterHoldover (h2.cong rfl)) h2))
  rw [e7]
  exact keeps_State_finish h7

theorem keeps_doTimeCfg {s v0 v1} (g0 : Keeps s v0) : Keeps s (doTimeCfg v0 v1) := by
  unfold doTimeCfg
  refine keeps_runJob ?_ ?_
  · exact g0
  · intro x0_0 h0_0
    exact h0_0.cong rfl

theorem keeps_sendSyncs {s v0} (g0 : Keeps s v0) : Keeps s (sendSyncs v0) := by
  unfold sendSyncs
  refine Keeps.foldl ?_ ?_
  · exact g0
  · intro x0 a0 h0
    refine Keeps.ite ?_ ?_
    · extract_lets -merge -underBinder +onlyGivenNames x1
      exact keeps_sendTime (h0.cong rfl)
    · exact h0

theorem keeps_ageLinks {s v0} (g0 : Keeps s v0) : Keeps s (ageLinks v0) := by
  unfold ageLinks
  refine Keeps.foldl ?_ ?_
  · exact g0
  · intro x0 a0 h0
    extract_lets -merge -underBinder +onlyGivenNames x1
    exact keeps_State_setTlink h0

theorem keeps_doExchangePeriod {s v0} (g0 : Keeps s v0) : Keeps s (doExchangePeriod v0) := by
  unfold doExchangePeriod
  extract_lets -merge -underBinder +onlyGivenNames x0
  obtain ⟨y0, e0, h0⟩ := Keeps.name (s := s) (x := x0) (by
    unfold x0
    split
    · exact g0
    · exact (keeps_applyTimeCfg (g0.cong rfl)))
  rw [e0]
  extract_lets -merge -underBinder +onlyGivenNames x1
  obtain ⟨y1, e1, h1⟩ := Keeps.name (x := x1) (keeps_ageLinks h0)
  rw [e1]
  refine Keeps.ite ?_ ?_
  · exact h1
  · extract_lets -merge -underBinder +onlyGivenNames x2 x3
    obtain ⟨y3, e3, h3⟩ := Keeps.name (s := s) (x := x3) (by
      unfold x3
      split
      · exact keeps_withParent h1
      · exact (keeps_withoutParent h1))
    rw [e3]
    exact keeps_sendSyncs h3

theorem keeps_doHoldoverExpiry {s v0} (g0 : Keeps s v0) : Keeps s (doHoldoverExpiry v0) := by
  unfold doHoldoverExpiry
  exact .ite (keeps_setTimeState g0) g0

end Machine
end Sys2Proof
end

