-- ==== Sys2Proof/Laws/KeepsPictures.lean ====
section
/-! SUPPORT. What sources and tiles, surfaces, decode contexts and capture ports keep, said once for each operation: the memory stays canonical, the pins follow the pair
state, the lifecycle is one-way, the bar and locked MPU regions stay, the queue is untouched, what was put out stays, and the clock never
goes back. A lemma keeps_f says it of the operation f. -/

set_option Elab.async false

namespace Sys2Proof
namespace Machine

theorem keeps_State_setSource {s v0 v1 v2} (g0 : Keeps s v0) : Keeps s (State.setSource v0 v1 v2) := by
  unfold State.setSource
  exact g0.cong rfl

theorem keeps_State_setTile {s v0 v1 v2} (g0 : Keeps s v0) : Keeps s (State.setTile v0 v1 v2) := by
  unfold State.setTile
  exact g0.cong rfl

theorem keeps_State_setTg {s v0 v1 v2} (g0 : Keeps s v0) : Keeps s (State.setTg v0 v1 v2) := by
  unfold State.setTg
  exact g0.cong rfl

theorem keeps_State_setChk {s v0 v1 v2} (g0 : Keeps s v0) : Keeps s (State.setChk v0 v1 v2) := by
  unfold State.setChk
  exact g0.cong rfl

theorem keeps_State_setPub {s v0 v1 v2} (g0 : Keeps s v0) : Keeps s (State.setPub v0 v1 v2) := by
  unfold State.setPub
  exact g0.cong rfl

theorem keeps_pairAlarm {s v0 v1 v2 v3 v4} (g0 : Keeps s v0) : Keeps s (pairAlarm v0 v1 v2 v3 v4) := by
  unfold pairAlarm
  exact (.ite g0 (.ite (keeps_State_raise g0) (keeps_State_bump g0)))

theorem keeps_evalSource {s v0 v1 v2} (g0 : Keeps s v0) : Keeps s (evalSource v0 v1 v2) := by
  unfold evalSource
  extract_lets -merge -underBinder +onlyGivenNames x0 x1
  refine Keeps.ite ?_ ?_
  · exact g0
  · extract_lets -merge -underBinder +onlyGivenNames x2
    obtain ⟨y2, e2, h2⟩ := Keeps.name (x := x2) (keeps_State_setSource g0)
    rw [e2]
    extract_lets -merge -underBinder +onlyGivenNames x3
    obtain ⟨y3, e3, h3⟩ := Keeps.name (x := x3) (keeps_State_raise h2)
    rw [e3]
    exact keeps_pairAlarm h3

theorem keeps_doTick {s v0} (g0 : Keeps s v0) : Keeps s (doTick v0) := by
  unfold doTick
  refine Keeps.ite ?_ ?_
  · exact g0
  · extract_lets -merge -underBinder +onlyGivenNames x0 x1
    obtain ⟨y1, e1, h1⟩ := Keeps.name (x := x1) (g0.cong rfl)
    rw [e1]
    refine Keeps.foldl ?_ ?_
    · exact h1
    · intro x2 a2 h2
      exact .ite (keeps_evalSource h2) h2

theorem keeps_sourceBand {s v0 v1 v2 v3 v4 v5 v6 v7 v8 v9} (g0 : Keeps s v0) : Keeps s (sourceBand v0 v1 v2 v3 v4 v5 v6 v7 v8 v9) := by
  unfold sourceBand
  split
  · exact g0
  · extract_lets -merge -underBinder +onlyGivenNames x0 x1
    refine Keeps.ite ?_ ?_
    · exact g0
    · extract_lets -merge -underBinder +onlyGivenNames x2 x3 x4 x5 x6 x7 x8 x9 x10 x11 x12
      obtain ⟨y12, e12, h12⟩ := Keeps.name (x := x12) (keeps_State_setSource g0)
      rw [e12]
      exact .ite (keeps_evalSource h12) h12

theorem keeps_tableStart {s v0 v1 v2 v3} (g0 : Keeps s v0) : Keeps s (tableStart v0 v1 v2 v3) := by
  unfold tableStart
  extract_lets -merge -underBinder +onlyGivenNames x0
  exact keeps_State_setPub g0

theorem keeps_tableBand {s v0 v1 v2 v3 v4 v5 v6 v7 v8} (g0 : Keeps s v0) : Keeps s (tableBand v0 v1 v2 v3 v4 v5 v6 v7 v8) := by
  unfold tableBand
  extract_lets -merge -underBinder +onlyGivenNames x0 x1 x2 x3 x4 x5
  obtain ⟨y5, e5, h5⟩ := Keeps.name (x := x5) (keeps_State_setPub g0)
  rw [e5]
  exact keeps_sourceBand h5

theorem keeps_State_wr {s v0 v1 v2 v3} (g0 : Keeps s v0) : Keeps s (State.wr v0 v1 v2 v3) := by
  unfold State.wr
  refine keeps_State_memWr ?_
  exact g0

theorem keeps_startPicture {s v0 v1 v2 v3 v4 v5 v6 v7 v8 v9 v10 v11} (g0 : Keeps s v0) : Keeps s (startPicture v0 v1 v2 v3 v4 v5 v6 v7 v8 v9 v10 v11).2 := by
  unfold startPicture
  split
  rename_i y0_0 x0 y0_2 e0
  have h0 : Keeps s x0 := Keeps.of_2_1 e0 (by
    refine keeps_State_memRd ?_
    exact g0)
  extract_lets -merge -underBinder +onlyGivenNames x1 x2 x3
  split
  rename_i y4_0 x4 y4_2 e4
  have h4 : Keeps s x4 := Keeps.of_2_1 e4 (by
    refine keeps_State_memRd ?_
    exact h0)
  split
  rename_i y5_0 x5 y5_2 e5
  have h5 : Keeps s x5 := Keeps.of_2_1 e5 (by
    refine keeps_State_memRd ?_
    exact h4)
  extract_lets -merge -underBinder +onlyGivenNames x6 x7 x8
  obtain ⟨y8, e8, h8⟩ := Keeps.name (x := x8) (keeps_State_wr h5)
  rw [e8]
  extract_lets -merge -underBinder +onlyGivenNames x9
  obtain ⟨y9, e9, h9⟩ := Keeps.name (x := x9) (.ite (keeps_State_wr h8) h8)
  rw [e9]
  extract_lets -merge -underBinder +onlyGivenNames x10
  obtain ⟨y10, e10, h10⟩ := Keeps.name (x := x10) (keeps_State_wr h9)
  rw [e10]
  refine Keeps.mk2 ?_
  exact keeps_tableStart h10

theorem keeps_publishBand {s v0 v1 v2 v3 v4 v5 v6 v7 v8 v9} (g0 : Keeps s v0) : Keeps s (publishBand v0 v1 v2 v3 v4 v5 v6 v7 v8 v9) := by
  unfold publishBand
  extract_lets -merge -underBinder +onlyGivenNames x0 x1 x2 x3 x4 x5
  obtain ⟨y5, e5, h5⟩ := Keeps.name (x := x5) (keeps_State_wr g0)
  rw [e5]
  extract_lets -merge -underBinder +onlyGivenNames x6
  obtain ⟨y6, e6, h6⟩ := Keeps.name (x := x6) (keeps_State_wr h5)
  rw [e6]
  extract_lets -merge -underBinder +onlyGivenNames x7
  obtain ⟨y7, e7, h7⟩ := Keeps.name (x := x7) (keeps_State_wr h6)
  rw [e7]
  extract_lets -merge -underBinder +onlyGivenNames x8
  obtain ⟨y8, e8, h8⟩ := Keeps.name (x := x8) (keeps_State_wr h7)
  rw [e8]
  exact keeps_tableBand h8

theorem keeps_initBlock {s v0 v1} (g0 : Keeps s v0) : Keeps s (initBlock v0 v1).1 := by
  unfold initBlock
  split
  rename_i x0 y0_1 e0
  have h0 : Keeps s x0 := Keeps.of_1 e0 (by
    refine keeps_State_memWrTill ?_
    exact g0)
  refine Keeps.mk1 ?_
  exact h0

theorem keeps_doFumPolicy {s v0 v1} (g0 : Keeps s v0) : Keeps s (doFumPolicy v0 v1) := by
  unfold doFumPolicy
  extract_lets -merge -underBinder +onlyGivenNames x0
  refine keeps_runJob ?_ ?_
  · exact g0
  · intro x1_0 h1_0
    exact keeps_State_finish (h1_0.cong rfl)

theorem keeps_bindSource {s v0 v1} (g0 : Keeps s v0) : Keeps s (bindSource v0 v1) := by
  unfold bindSource
  extract_lets -merge -underBinder +onlyGivenNames x0 x1 x2 x3 x4 x5 x6 x7
  obtain ⟨y7, e7, h7⟩ := Keeps.name (x := x7) (.ite (keeps_evalSource (keeps_State_setSource g0)) (.ite (keeps_State_setSource g0) (keeps_evalSource (keeps_State_setSource g0))))
  rw [e7]
  exact keeps_State_finish h7

theorem keeps_doFumBind {s v0 v1} (g0 : Keeps s v0) : Keeps s (doFumBind v0 v1) := by
  unfold doFumBind
  extract_lets -merge -underBinder +onlyGivenNames x0 x1 x2 x3
  refine keeps_runJob ?_ ?_
  · exact g0
  · intro x4_0 h4_0
    refine Keeps.ite ?_ ?_
    · exact keeps_bindSource h4_0
    · extract_lets -merge -underBinder +onlyGivenNames x5
      exact keeps_State_finish (h4_0.cong rfl)

theorem keeps_applyBindings {s v0 v1} (g0 : Keeps s v0) : Keeps s (applyBindings v0 v1) := by
  unfold applyBindings
  split
  · exact g0.cong rfl

theorem keeps_doSnapshot {s v0 v1} (g0 : Keeps s v0) : Keeps s (doSnapshot v0 v1) := by
  unfold doSnapshot
  refine keeps_runJob ?_ ?_
  · exact g0
  · intro x0_0 h0_0
    exact h0_0.cong rfl

theorem keeps_hostWriteUnder {s v0 v1 v2 v3 v4} (g0 : Keeps s v0) : Keeps s (hostWriteUnder v0 v1 v2 v3 v4).1 := by
  unfold hostWriteUnder
  split
  · refine Keeps.mk1 ?_
    exact keeps_State_hostWriteFor g0
  · extract_lets -merge -underBinder +onlyGivenNames x0 x1
    obtain ⟨y1, e1, h1⟩ := Keeps.name (x := x1) (.ite g0 (keeps_State_hostWriteFor g0))
    rw [e1]
    refine Keeps.mk1 ?_
    exact keeps_State_mpuDeny h1

theorem keeps_doSnapshotEnd {s v0} (g0 : Keeps s v0) : Keeps s (doSnapshotEnd v0) := by
  unfold doSnapshotEnd
  split
  · exact g0
  · split
    rename_i x0 y0_1 e0
    have h0 : Keeps s x0 := Keeps.of_1 e0 (by
      refine keeps_hostWriteUnder ?_
      exact g0)
    extract_lets -merge -underBinder +onlyGivenNames x1 x2
    obtain ⟨y2, e2, h2⟩ := Keeps.name (x := x2) (h0.cong rfl)
    rw [e2]
    exact .ite (keeps_State_finishDma h2) (keeps_State_finishDma h2)

theorem keeps_fumLockSet {s v0 v1} (g0 : Keeps s v0) : Keeps s (fumLockSet v0 v1) := by
  unfold fumLockSet
  exact (.ite g0 (keeps_mirrorOut (keeps_State_raise (keeps_State_setReg g0))))

theorem keeps_settleReleases {s v0} (g0 : Keeps s v0) : Keeps s (settleReleases v0) := by
  unfold settleReleases
  extract_lets -merge -underBinder +onlyGivenNames x0
  refine Keeps.foldl ?_ ?_
  · exact g0
  · intro x1 a1 h1
    extract_lets -merge -underBinder +onlyGivenNames x2 x3
    obtain ⟨y3, e3, h3⟩ := Keeps.name (x := x3) (h1.cong rfl)
    rw [e3]
    exact keeps_State_finish h3

theorem keeps_doSurfacePool {s v0 v1} (g0 : Keeps s v0) : Keeps s (doSurfacePool v0 v1) := by
  unfold doSurfacePool
  extract_lets -merge -underBinder +onlyGivenNames x0 x1 x2 x3 x4 x5
  refine keeps_runJob ?_ ?_
  · exact g0
  · intro x6_0 h6_0
    refine Keeps.ite ?_ ?_
    · exact (.ite (keeps_settleReleases (h6_0.cong rfl)) (keeps_State_finish h6_0))
    · split
      rename_i x7 y7_1 e7
      have h7 : Keeps s x7 := Keeps.of_1 e7 (by
        refine keeps_initBlock ?_
        exact h6_0)
      exact (.ite (keeps_State_finish (keeps_State_setPub (h7.cong rfl))) (keeps_State_finish h7))

theorem keeps_State_setRaster {s v0 v1 v2} (g0 : Keeps s v0) : Keeps s (State.setRaster v0 v1 v2) := by
  unfold State.setRaster
  exact g0.cong rfl

theorem keeps_rasterDrop {s v0} (g0 : Keeps s v0) : Keeps s (rasterDrop v0) := by
  unfold rasterDrop
  extract_lets -merge -underBinder +onlyGivenNames x0
  obtain ⟨y0, e0, h0⟩ := Keeps.name (x := x0) (keeps_State_bump g0)
  rw [e0]
  exact keeps_fabDrop (fun _ _ _ h => keeps_State_raise h) h0

theorem keeps_rasterFence {s v0 v1 v2 v3 v4 v5} (g0 : Keeps s v0) : Keeps s (rasterFence v0 v1 v2 v3 v4 v5) := by
  unfold rasterFence
  extract_lets -merge -underBinder +onlyGivenNames x0
  refine Keeps.ite ?_ ?_
  · exact g0
  · extract_lets -merge -underBinder +onlyGivenNames x1 x2 x3 x4 x5 x6
    obtain ⟨y6, e6, h6⟩ := Keeps.name (x := x6) (.ite (keeps_State_wr g0) g0)
    rw [e6]
    exact keeps_publishBand h6

theorem keeps_rasterBody {s v0 v1 v2 v3} (g0 : Keeps s v0) : Keeps s (rasterBody v0 v1 v2 v3) := by
  unfold rasterBody
  extract_lets -merge -underBinder +onlyGivenNames x0 x1
  split
  rename_i x2 y2_1 e2
  have h2 : Keeps s x2 := Keeps.of_1 e2 (by
    refine Keeps.ite1 ?_ ?_
    · split
      · refine Keeps.mk1 ?_
        exact g0
      · split
        rename_i y3_0 x3 e3
        have h3 : Keeps s x3 := Keeps.of_2 e3 (by
          refine keeps_startPicture ?_
          exact g0)
        refine Keeps.mk1 ?_
        exact h3
    · refine Keeps.mk1 ?_
      exact g0)
  extract_lets -merge -underBinder +onlyGivenNames x4 x5
  obtain ⟨y5, e5, h5⟩ := Keeps.name (x := x5) (keeps_State_setRaster h2)
  rw [e5]
  split
  · exact keeps_rasterDrop h5
  · extract_lets -merge -underBinder +onlyGivenNames x6 x7 x8 x9
    obtain ⟨y9, e9, h9⟩ := Keeps.name (x := x9) (.ite (keeps_State_wr h5) (keeps_rasterDrop h5))
    rw [e9]
    refine Keeps.ite ?_ ?_
    · extract_lets -merge -underBinder +onlyGivenNames x10 x11
      obtain ⟨y11, e11, h11⟩ := Keeps.name (x := x11) (keeps_rasterFence h9)
      rw [e11]
      exact keeps_State_setRaster h11
    · exact h9

theorem keeps_doRaster {s v0 v1} (g0 : Keeps s v0) : Keeps s (doRaster v0 v1) := by
  unfold doRaster
  extract_lets -merge -underBinder +onlyGivenNames x0
  obtain ⟨y0, e0, h0⟩ := Keeps.name (x := x0) (keeps_takeLocal g0)
  rw [e0]
  extract_lets -merge -underBinder +onlyGivenNames x1 x2 x3 x4
  refine Keeps.ite ?_ ?_
  · exact h0
  · extract_lets -merge -underBinder +onlyGivenNames x5
    obtain ⟨y5, e5, h5⟩ := Keeps.name (x := x5) (keeps_State_setRaster h0)
    rw [e5]
    refine Keeps.ite ?_ ?_
    · exact keeps_rasterDrop h5
    · extract_lets -merge -underBinder +onlyGivenNames x6 x7
      obtain ⟨y7, e7, h7⟩ := Keeps.name (x := x7) (keeps_State_setRaster h5)
      rw [e7]
      split
      · exact keeps_rasterDrop h7
      · exact keeps_rasterBody h7

theorem keeps_State_setCtx {s v0 v1 v2} (g0 : Keeps s v0) : Keeps s (State.setCtx v0 v1 v2) := by
  unfold State.setCtx
  exact g0.cong rfl

theorem keeps_State_setEng {s v0 v1 v2} (g0 : Keeps s v0) : Keeps s (State.setEng v0 v1 v2) := by
  unfold State.setEng
  exact g0.cong rfl

theorem keeps_setCtxState {s v0 v1 v2} (g0 : Keeps s v0) : Keeps s (setCtxState v0 v1 v2) := by
  unfold setCtxState
  extract_lets -merge -underBinder +onlyGivenNames x0
  exact (.ite g0 (keeps_State_raise (keeps_State_setCtx g0)))

theorem keeps_ringCopy {s v0 v1 v2} (g0 : Keeps s v0) : Keeps s (ringCopy v0 v1 v2) := by
  unfold ringCopy
  extract_lets -merge -underBinder +onlyGivenNames x0 x1 x2 x3
  obtain ⟨y3, e3, h3⟩ := Keeps.name (x := x3) (keeps_State_wr g0)
  rw [e3]
  extract_lets -merge -underBinder +onlyGivenNames x4
  obtain ⟨y4, e4, h4⟩ := Keeps.name (x := x4) (.ite (keeps_State_wr h3) h3)
  rw [e4]
  exact keeps_State_setCtx h4

theorem keeps_keepState {s v0 v1} (g0 : Keeps s v0) : Keeps s (keepState v0 v1) := by
  unfold keepState
  extract_lets -merge -underBinder +onlyGivenNames x0 x1
  split
  · exact keeps_State_mpuDeny g0
  · refine Keeps.ite ?_ ?_
    · extract_lets -merge -underBinder +onlyGivenNames x2
      exact g0.trans ⟨fun h => memFill_wf _ _ _ _ h, id, OtpStep.refl _, id, fun _ _ h _ => h, rfl, List.suffix_refl _, Nat.le_refl _⟩
    · exact keeps_State_addrFault g0

theorem keeps_refuseReport {s v0 v1 v2 v3} (g0 : Keeps s v0) : Keeps s (refuseReport v0 v1 v2 v3) := by
  unfold refuseReport
  extract_lets -merge -underBinder +onlyGivenNames x0
  exact keeps_State_raiseLimited (keeps_State_setReg g0)

theorem keeps_reportSets {s v0 v1 v2} (g0 : Keeps s v0) : Keeps s (reportSets v0 v1 v2) := by
  unfold reportSets
  refine Keeps.foldl ?_ ?_
  · exact g0
  · intro x0 a0 h0
    exact .ite h0 (keeps_refuseReport h0)

theorem keeps_takeSet {s v0 v1 v2} (g0 : Keeps s v0) : Keeps s (takeSet v0 v1 v2) := by
  unfold takeSet
  split
  · exact g0
  · extract_lets -merge -underBinder +onlyGivenNames x0 x1
    obtain ⟨y1, e1, h1⟩ := Keeps.name (x := x1) (keeps_State_setCtx g0)
    rw [e1]
    extract_lets -merge -underBinder +onlyGivenNames x2
    exact (.ite (.ite h1 (keeps_setCtxState h1)) (.ite (keeps_setCtxState h1) h1))

theorem keeps_takeParams {s v0 v1 v2} (g0 : Keeps s v0) : Keeps s (takeParams v0 v1 v2) := by
  unfold takeParams
  extract_lets -merge -underBinder +onlyGivenNames x0
  refine Keeps.ite ?_ ?_
  · exact g0
  · extract_lets -merge -underBinder +onlyGivenNames x1
    obtain ⟨y1, e1, h1⟩ := Keeps.name (x := x1) (keeps_State_setCtx g0)
    rw [e1]
    extract_lets -merge -underBinder +onlyGivenNames x2
    obtain ⟨y2, e2, h2⟩ := Keeps.name (x := x2) (.ite (keeps_reportSets h1) h1)
    rw [e2]
    refine Keeps.foldl ?_ ?_
    · exact h2
    · intro x3 a3 h3
      exact keeps_takeSet h3

theorem keeps_takeLead {s v0 v1 v2} (g0 : Keeps s v0) : Keeps s (takeLead v0 v1 v2) := by
  unfold takeLead
  refine Keeps.foldl ?_ ?_
  · exact keeps_State_setCtx g0
  · intro x0 a0 h0
    exact keeps_takeSet h0

theorem keeps_pumpFeeds {s v0 v1 v2} (g1 : Keeps s v1) : Keeps s (pumpFeeds v0 v1 v2) := by
  induction v0 generalizing v1 v2 with
  | zero =>
    rw [pumpFeeds]
    exact g1
  | succ v ih =>
    rw [pumpFeeds]
    split
    · exact g1
    · refine Keeps.ite ?_ ?_
      · extract_lets -merge -underBinder +onlyGivenNames x0 x1 x2
        obtain ⟨y2, e2, h2⟩ := Keeps.name (x := x2) (keeps_ringCopy (keeps_State_setCtx g1))
        rw [e2]
        extract_lets -merge -underBinder +onlyGivenNames x3 x4
        obtain ⟨y4, e4, h4⟩ := Keeps.name (x := x4) (keeps_State_setCtx h2)
        rw [e4]
        extract_lets -merge -underBinder +onlyGivenNames x5
        obtain ⟨y5, e5, h5⟩ := Keeps.name (x := x5) (keeps_reportSets h4)
        rw [e5]
        extract_lets -merge -underBinder +onlyGivenNames x6
        obtain ⟨y6, e6, h6⟩ := Keeps.name (x := x6) (.ite (keeps_takeLead h5) h5)
        rw [e6]
        extract_lets -merge -underBinder +onlyGivenNames x7
        obtain ⟨y7, e7, h7⟩ := Keeps.name (x := x7) (keeps_State_finish h6)
        rw [e7]
        exact ih h7
      · exact g1

theorem keeps_hostReadBlock {s v0 v1 v2 v3 v4} (g3 : Keeps s v3.2) : Keeps s (hostReadBlock v0 v1 v2 v3 v4).2 := by
  unfold hostReadBlock
  exact Keeps.ite2 (Keeps.mk2 g3) (Keeps.mk2 (keeps_State_mpuDeny g3))

theorem keeps_hostReadUnder {s v0 v1 v2 v3} (g0 : Keeps s v0) : Keeps s (hostReadUnder v0 v1 v2 v3).2 :=
  Keeps.foldl2 (Keeps.mk2 g0) (fun _ _ h => keeps_hostReadBlock h)

theorem keeps_feedHere {s v0 v1 v2} (g0 : Keeps s v0) : Keeps s (feedHere v0 v1 v2) := by
  unfold feedHere
  extract_lets -merge -underBinder +onlyGivenNames x0
  split
  rename_i y1_0 x1 e1
  have h1 : Keeps s x1 := Keeps.of_2 e1 (by
    refine keeps_hostReadUnder ?_
    exact g0)
  extract_lets -merge -underBinder +onlyGivenNames x2
  exact keeps_pumpFeeds (keeps_State_setCtx h1)

theorem keeps_doFeed {s v0 v1 v2 v3} (g0 : Keeps s v0) : Keeps s (doFeed v0 v1 v2 v3) := by
  unfold doFeed
  extract_lets -merge -underBinder +onlyGivenNames x0 x1 x2 x3
  refine keeps_runJob ?_ ?_
  · exact g0
  · intro x4_0 h4_0
    extract_lets -merge -underBinder +onlyGivenNames x5 x6
    obtain ⟨y6, e6, h6⟩ := Keeps.name (x := x6) (keeps_State_setCtx h4_0)
    rw [e6]
    refine keeps_State_hostFetch ?_ ?_
    · exact h6
    · intro x7_0 a7_1 h7_0
      exact keeps_feedHere h7_0

theorem keeps_doDemux {s v0 v1} (g0 : Keeps s v0) : Keeps s (doDemux v0 v1) := by
  unfold doDemux
  extract_lets -merge -underBinder +onlyGivenNames x0
  obtain ⟨y0, e0, h0⟩ := Keeps.name (x := x0) (keeps_takeLocal g0)
  rw [e0]
  split
  · exact keeps_State_bump h0
  · extract_lets -merge -underBinder +onlyGivenNames x1 x2
    refine Keeps.ite ?_ ?_
    · exact keeps_State_bump h0
    · extract_lets -merge -underBinder +onlyGivenNames x3
      obtain ⟨y3, e3, h3⟩ := Keeps.name (x := x3) (.ite h0 (keeps_State_bumpBy h0))
      rw [e3]
      extract_lets -merge -underBinder +onlyGivenNames x4 x5 x6 x7 x8 x9
      refine Keeps.ite ?_ ?_
      · exact keeps_State_setCtx h3
      · refine Keeps.ite ?_ ?_
        · extract_lets -merge -underBinder +onlyGivenNames x10 x11
          obtain ⟨y11, e11, h11⟩ := Keeps.name (x := x11) (keeps_ringCopy (keeps_State_setCtx h3))
          rw [e11]
          exact keeps_State_setCtx h11
        · extract_lets -merge -underBinder +onlyGivenNames x12 x13 x14 x15
          obtain ⟨y15, e15, h15⟩ := Keeps.name (x := x15) (keeps_State_setCtx h3)
          rw [e15]
          exact keeps_State_bump h15

theorem keeps_decFault {s v0 v1 v2 v3 v4} (g0 : Keeps s v0) : Keeps s (decFault v0 v1 v2 v3 v4) := by
  unfold decFault
  extract_lets -merge -underBinder +onlyGivenNames x0
  obtain ⟨y0, e0, h0⟩ := Keeps.name (x := x0) (.ite g0 (keeps_State_setReg (keeps_State_setReg g0)))
  rw [e0]
  exact keeps_State_raiseLimited h0

theorem keeps_decConceal {s v0 v1 v2 v3 v4 v5} (g0 : Keeps s v0) : Keeps s (decConceal v0 v1 v2 v3 v4 v5) := by
  unfold decConceal
  extract_lets -merge -underBinder +onlyGivenNames x0 x1
  exact (.ite (keeps_State_setCtx g0) (keeps_State_raise (keeps_State_setCtx g0)))

theorem keeps_doConcealEnd {s v0 v1} (g0 : Keeps s v0) : Keeps s (doConcealEnd v0 v1) := by
  unfold doConcealEnd
  extract_lets -merge -underBinder +onlyGivenNames x0 x1
  obtain ⟨y1, e1, h1⟩ := Keeps.name (x := x1) (keeps_State_setCtx g0)
  rw [e1]
  exact .ite (keeps_State_raise h1) h1

theorem keeps_decStall {s v0 v1 v2 v3} (g0 : Keeps s v0) : Keeps s (decStall v0 v1 v2 v3) := by
  unfold decStall
  exact keeps_State_raiseLimited g0

theorem keeps_unlessAllowed {s v0 v1 v2} (g0 : Keeps s v0) : Keeps s (unlessAllowed v0 v1 v2) := by
  unfold unlessAllowed
  exact .ite g0 (keeps_decFault g0)

theorem keeps_copyRows {s v0 v1 v2 v3 v4 v5 v6 v7} (g0 : Keeps s v0) : Keeps s (copyRows v0 v1 v2 v3 v4 v5 v6 v7).1 := by
  unfold copyRows
  refine Keeps.foldl1 ?_ ?_
  · refine Keeps.mk1 ?_
    exact g0
  · intro x0 a0 h0
    split
    · refine Keeps.foldl1 ?_ ?_
      · exact h0
      · intro x1 a1 h1
        extract_lets -merge -underBinder +onlyGivenNames x2
        split
        · split
          rename_i y3_0 x3 y3_2 e3
          have h3 : Keeps s x3 := Keeps.of_2_1 e3 (by
            refine keeps_State_memRd ?_
            exact h1)
          split
          rename_i x4 y4_1 e4
          have h4 : Keeps s x4 := Keeps.of_1 e4 (by
            refine keeps_State_memWr ?_
            exact h3)
          refine Keeps.mk1 ?_
          exact h4
        · split
          rename_i x5 y5_1 e5
          have h5 : Keeps s x5 := Keeps.of_1 e5 (by
            refine keeps_State_memWr ?_
            exact h1)
          refine Keeps.mk1 ?_
          exact h5

theorem keeps_concealRows {s v0 v1 v2 v3 v4} (g0 : Keeps s v0) : Keeps s (concealRows v0 v1 v2 v3 v4) := by
  unfold concealRows
  extract_lets -merge -underBinder +onlyGivenNames x0
  split
  · refine Keeps.ite ?_ ?_
    · exact g0
    · extract_lets -merge -underBinder +onlyGivenNames x1
      split
      rename_i x2 y2_1 e2
      have h2 : Keeps s x2 := Keeps.of_1 e2 (by
        refine keeps_copyRows ?_
        exact g0)
      extract_lets -merge -underBinder +onlyGivenNames x3
      obtain ⟨y3, e3, h3⟩ := Keeps.name (x := x3) (keeps_unlessAllowed h2)
      rw [e3]
      extract_lets -merge -underBinder +onlyGivenNames x4 x5 x6 x7 x8
      obtain ⟨y8, e8, h8⟩ := Keeps.name (x := x8) (keeps_State_setCtx h3)
      rw [e8]
      exact keeps_decConceal h8
  · exact g0

theorem keeps_reduceRows {s v0 v1 v2 v3 v4 v5 v6 v7} (g0 : Keeps s v0) : Keeps s (reduceRows v0 v1 v2 v3 v4 v5 v6 v7).1 := by
  unfold reduceRows
  refine Keeps.ite1 ?_ ?_
  · refine Keeps.mk1 ?_
    exact g0
  · extract_lets -merge -underBinder +onlyGivenNames x0 x1 x2
    split
    · extract_lets -merge -underBinder +onlyGivenNames x3 x4
      refine Keeps.foldl1 ?_ ?_
      · refine Keeps.mk1 ?_
        exact g0
      · intro x5 a5 h5
        split
        extract_lets -merge -underBinder +onlyGivenNames x6 x7 x8 x9 x10
        refine Keeps.foldl1 ?_ ?_
        · exact h5
        · intro x11 a11 h11
          extract_lets -merge -underBinder +onlyGivenNames x12
          split
          rename_i x13 y13_1 e13
          have h13 : Keeps s x13 := Keeps.of_1 e13 (by
            refine keeps_State_memWr ?_
            exact h11)
          refine Keeps.mk1 ?_
          exact h13

theorem keeps_pubStart {s v0 v1 v2 v3} (g0 : Keeps s v0) : Keeps s (pubStart v0 v1 v2 v3) := by
  unfold pubStart
  split
  · extract_lets -merge -underBinder +onlyGivenNames x0
    refine keeps_unlessAllowed ?_
    refine keeps_startPicture ?_
    exact g0

theorem keeps_judgeClean {s v0 v1 v2 v3} (g0 : Keeps s v0) : Keeps s (judgeClean v0 v1 v2 v3).2 := by
  unfold judgeClean
  extract_lets -merge -underBinder +onlyGivenNames x0 x1 x2 x3
  obtain ⟨y3, e3, h3⟩ := Keeps.name (x := x3) (.ite (keeps_State_raise (keeps_State_bump g0)) g0)
  rw [e3]
  refine Keeps.mk2 ?_
  exact keeps_State_setCtx h3

theorem keeps_pubDone {s v0 v1 v2} (g0 : Keeps s v0) : Keeps s (pubDone v0 v1 v2) := by
  unfold pubDone
  extract_lets -merge -underBinder +onlyGivenNames x0
  obtain ⟨y0, e0, h0⟩ := Keeps.name (x := x0) (keeps_State_bump g0)
  rw [e0]
  extract_lets -merge -underBinder +onlyGivenNames x1 x2 x3
  obtain ⟨y3, e3, h3⟩ := Keeps.name (x := x3) (keeps_State_setCtx h0)
  rw [e3]
  exact (.ite (keeps_State_raiseLimited (keeps_State_bump h3)) h3)

theorem keeps_publishRows {s v0 v1 v2} (g0 : Keeps s v0) : Keeps s (publishRows v0 v1 v2) := by
  unfold publishRows
  extract_lets -merge -underBinder +onlyGivenNames x0
  split
  · refine Keeps.ite ?_ ?_
    · exact keeps_State_setCtx g0
    · extract_lets -merge -underBinder +onlyGivenNames x1 x2
      split
      rename_i x3 y3_1 e3
      have h3 : Keeps s x3 := Keeps.of_1 e3 (by
        refine keeps_reduceRows ?_
        exact g0)
      extract_lets -merge -underBinder +onlyGivenNames x4
      obtain ⟨y4, e4, h4⟩ := Keeps.name (x := x4) (keeps_unlessAllowed h3)
      rw [e4]
      extract_lets -merge -underBinder +onlyGivenNames x5 x6 x7 x8
      obtain ⟨y8, e8, h8⟩ := Keeps.name (x := x8) (keeps_State_setCtx h4)
      rw [e8]
      refine Keeps.ite ?_ ?_
      · extract_lets -merge -underBinder +onlyGivenNames x9 x10
        obtain ⟨y10, e10, h10⟩ := Keeps.name (x := x10) (.ite (keeps_State_setCtx h8) h8)
        rw [e10]
        split
        rename_i y11_0 x11 e11
        have h11 : Keeps s x11 := Keeps.of_2 e11 (by
          refine Keeps.ite2 ?_ ?_
          · refine keeps_judgeClean ?_
            exact h10
          · refine Keeps.mk2 ?_
            exact h10)
        exact keeps_unlessAllowed (keeps_publishBand h11)
      · exact h8
  · exact g0

theorem keeps_releaseHeld {s v0 v1 v2} (g0 : Keeps s v0) : Keeps s (releaseHeld v0 v1 v2) := by
  unfold releaseHeld
  split
  · exact g0
  · extract_lets -merge -underBinder +onlyGivenNames x0 x1 x2
    obtain ⟨y2, e2, h2⟩ := Keeps.name (x := x2) (keeps_State_setCtx g0)
    rw [e2]
    extract_lets -merge -underBinder +onlyGivenNames x3
    obtain ⟨y3, e3, h3⟩ := Keeps.name (x := x3) (keeps_pubStart h2)
    rw [e3]
    split
    rename_i y4_0 x4 e4
    have h4 : Keeps s x4 := Keeps.of_2 e4 (by
      refine keeps_judgeClean ?_
      exact h3)
    extract_lets -merge -underBinder +onlyGivenNames x5 x6 x7 x8
    obtain ⟨y8, e8, h8⟩ := Keeps.name (s := s) (x := x8) (by
      unfold x8
      refine Keeps.foldl ?_ ?_
      · exact h4
      · intro x9 a9 h9
        split
        exact (keeps_State_wr h9))
    rw [e8]
    extract_lets -merge -underBinder +onlyGivenNames x10 x11
    obtain ⟨y11, e11, h11⟩ := Keeps.name (x := x11) (keeps_State_wr h8)
    rw [e11]
    extract_lets -merge -underBinder +onlyGivenNames x12
    obtain ⟨y12, e12, h12⟩ := Keeps.name (x := x12) (keeps_State_wr h11)
    rw [e12]
    extract_lets -merge -underBinder +onlyGivenNames x13
    obtain ⟨y13, e13, h13⟩ := Keeps.name (x := x13) (keeps_unlessAllowed (keeps_State_wr h12))
    rw [e13]
    extract_lets -merge -underBinder +onlyGivenNames x14
    obtain ⟨y14, e14, h14⟩ := Keeps.name (s := s) (x := x14) (by
      unfold x14
      refine Keeps.foldl ?_ ?_
      · exact h13
      · intro x15 a15 h15
        exact (keeps_tableBand h15))
    rw [e14]
    exact keeps_pubDone h14

theorem keeps_releaseList {s v0 v1 v2} (g0 : Keeps s v0) : Keeps s (releaseList v0 v1 v2) := by
  unfold releaseList
  refine Keeps.foldl ?_ ?_
  · exact g0
  · intro x0 a0 h0
    split
    · exact keeps_releaseHeld h0
    · exact h0

theorem keeps_releaseAll {s v0 v1} (g0 : Keeps s v0) : Keeps s (releaseAll v0 v1) := by
  unfold releaseAll
  extract_lets -merge -underBinder +onlyGivenNames x0 x1
  refine Keeps.foldl ?_ ?_
  · exact g0
  · intro x2 a2 h2
    exact keeps_releaseHeld h2

theorem keeps_settleClose {s v0 v1} (g0 : Keeps s v0) : Keeps s (settleClose v0 v1) := by
  unfold settleClose
  extract_lets -merge -underBinder +onlyGivenNames x0
  split
  · refine Keeps.ite ?_ ?_
    · extract_lets -merge -underBinder +onlyGivenNames x1
      obtain ⟨y1, e1, h1⟩ := Keeps.name (x := x1) (keeps_releaseAll g0)
      rw [e1]
      extract_lets -merge -underBinder +onlyGivenNames x2
      obtain ⟨y2, e2, h2⟩ := Keeps.name (x := x2) (keeps_setCtxState h1)
      rw [e2]
      exact keeps_State_finish (keeps_State_setCtx h2)
    · exact g0
  · exact g0

theorem keeps_finishPicture {s v0 v1 v2} (g0 : Keeps s v0) : Keeps s (finishPicture v0 v1 v2) := by
  unfold finishPicture
  split
  · exact g0
  · extract_lets -merge -underBinder +onlyGivenNames x0
    obtain ⟨y0, e0, h0⟩ := Keeps.name (x := x0) (keeps_publishRows g0)
    rw [e0]
    split
    · exact h0
    · extract_lets -merge -underBinder +onlyGivenNames x1 x2 x3 x4
      obtain ⟨y4, e4, h4⟩ := Keeps.name (x := x4) (keeps_State_setCtx h0)
      rw [e4]
      extract_lets -merge -underBinder +onlyGivenNames x5
      obtain ⟨y5, e5, h5⟩ := Keeps.name (x := x5) (.ite (keeps_State_bump h4) h4)
      rw [e5]
      extract_lets -merge -underBinder +onlyGivenNames x6
      obtain ⟨y6, e6, h6⟩ := Keeps.name (x := x6) (keeps_State_setEng h5)
      rw [e6]
      extract_lets -merge -underBinder +onlyGivenNames x7
      obtain ⟨y7, e7, h7⟩ := Keeps.name (x := x7) (.ite (keeps_pubDone h6) h6)
      rw [e7]
      extract_lets -merge -underBinder +onlyGivenNames x8
      obtain ⟨y8, e8, h8⟩ := Keeps.name (x := x8) (keeps_releaseList h7)
      rw [e8]
      exact keeps_settleClose (keeps_pumpFeeds h8)

theorem keeps_concealRest {s v0 v1 v2 v3} (g0 : Keeps s v0) : Keeps s (concealRest v0 v1 v2 v3) := by
  unfold concealRest
  split
  · exact g0
  · exact keeps_finishPicture (keeps_concealRows g0)

theorem keeps_decRefuse {s v0 v1 v2 v3 v4} (g0 : Keeps s v0) : Keeps s (decRefuse v0 v1 v2 v3 v4) := by
  unfold decRefuse
  extract_lets -merge -underBinder +onlyGivenNames x0 x1
  obtain ⟨y1, e1, h1⟩ := Keeps.name (x := x1) (keeps_State_setCtx g0)
  rw [e1]
  extract_lets -merge -underBinder +onlyGivenNames x2
  obtain ⟨y2, e2, h2⟩ := Keeps.name (x := x2) (keeps_State_bump h1)
  rw [e2]
  extract_lets -merge -underBinder +onlyGivenNames x3
  obtain ⟨y3, e3, h3⟩ := Keeps.name (x := x3) (.ite h2 (keeps_setCtxState h2))
  rw [e3]
  extract_lets -merge -underBinder +onlyGivenNames x4
  obtain ⟨y4, e4, h4⟩ := Keeps.name (s := s) (x := x4) (by
    unfold x4
    split
    · exact keeps_refuseReport h3
    · exact h3)
  rw [e4]
  exact keeps_settleClose (keeps_pumpFeeds h4)

theorem keeps_startDecode {s v0 v1 v2 v3 v4} (g0 : Keeps s v0) : Keeps s (startDecode v0 v1 v2 v3 v4) := by
  unfold startDecode
  split
  · extract_lets -merge -underBinder +onlyGivenNames x0 x1 x2
    split
    · extract_lets -merge -underBinder +onlyGivenNames x3 x4
      obtain ⟨y4, e4, h4⟩ := Keeps.name (x := x4) (.ite (keeps_State_bump g0) g0)
      rw [e4]
      extract_lets -merge -underBinder +onlyGivenNames x5 x6
      obtain ⟨y6, e6, h6⟩ := Keeps.name (x := x6) (keeps_State_setCtx h4)
      rw [e6]
      extract_lets -merge -underBinder +onlyGivenNames x7
      obtain ⟨y7, e7, h7⟩ := Keeps.name (x := x7) (.ite h6 (keeps_setCtxState h6))
      rw [e7]
      extract_lets -merge -underBinder +onlyGivenNames x8
      obtain ⟨y8, e8, h8⟩ := Keeps.name (x := x8) (keeps_State_setEng h7)
      rw [e8]
      extract_lets -merge -underBinder +onlyGivenNames x9
      obtain ⟨y9, e9, h9⟩ := Keeps.name (x := x9) (keeps_keepState h8)
      rw [e9]
      exact .ite (keeps_pubStart h9) h9
  · exact g0

theorem keeps_lookAhead {s v0 v1} (g0 : Keeps s v0) : Keeps s (lookAhead v0 v1) := by
  unfold lookAhead
  extract_lets -merge -underBinder +onlyGivenNames x0
  obtain ⟨y0, e0, h0⟩ := Keeps.name (x := x0) (keeps_takeParams g0)
  rw [e0]
  extract_lets -merge -underBinder +onlyGivenNames x1
  exact .ite (keeps_decRefuse h0) (keeps_releaseList h0)

theorem keeps_doPictureStart {s v0 v1 v2} (g0 : Keeps s v0) : Keeps s (doPictureStart v0 v1 v2) := by
  unfold doPictureStart
  extract_lets -merge -underBinder +onlyGivenNames x0 x1
  obtain ⟨y1, e1, h1⟩ := Keeps.name (s := s) (x := x1) (by
    unfold x1
    refine Keeps.foldl ?_ ?_
    · exact g0
    · intro x2 a2 h2
      exact (keeps_lookAhead h2))
  rw [e1]
  extract_lets -merge -underBinder +onlyGivenNames x3 x4
  obtain ⟨y4, e4, h4⟩ := Keeps.name (s := s) (x := x4) (by
    unfold x4
    refine Keeps.foldl ?_ ?_
    · exact h1
    · intro x5 a5 h5
      exact (.ite (keeps_decStall h5) h5))
  rw [e4]
  refine Keeps.ite ?_ ?_
  · exact h4
  · split
    · exact keeps_startDecode h4
    · exact h4

theorem keeps_abortSlice {s v0 v1 v2 v3 v4} (g0 : Keeps s v0) : Keeps s (abortSlice v0 v1 v2 v3 v4) := by
  unfold abortSlice
  extract_lets -merge -underBinder +onlyGivenNames x0 x1
  obtain ⟨y1, e1, h1⟩ := Keeps.name (x := x1) (keeps_State_bump (keeps_State_bump g0))
  rw [e1]
  extract_lets -merge -underBinder +onlyGivenNames x2
  obtain ⟨y2, e2, h2⟩ := Keeps.name (x := x2) (.ite (keeps_State_bump h1) h1)
  rw [e2]
  extract_lets -merge -underBinder +onlyGivenNames x3
  obtain ⟨y3, e3, h3⟩ := Keeps.name (x := x3) (.ite (keeps_State_bump h2) h2)
  rw [e3]
  extract_lets -merge -underBinder +onlyGivenNames x4
  obtain ⟨y4, e4, h4⟩ := Keeps.name (x := x4) (.ite (keeps_decFault h3) h3)
  rw [e4]
  exact .ite (keeps_decConceal h4) (keeps_concealRows h4)

theorem keeps_advanceRow {s v0 v1 v2} (g0 : Keeps s v0) : Keeps s (advanceRow v0 v1 v2) := by
  unfold advanceRow
  extract_lets -merge -underBinder +onlyGivenNames x0
  split
  · exact keeps_State_setCtx g0
  · exact g0

theorem keeps_noteSei {s v0 v1 v2 v3} (g0 : Keeps s v0) : Keeps s (noteSei v0 v1 v2 v3) := by
  unfold noteSei
  split
  · refine Keeps.ite ?_ ?_
    · exact g0
    · extract_lets -merge -underBinder +onlyGivenNames x0 x1 x2
      obtain ⟨y2, e2, h2⟩ := Keeps.name (x := x2) (keeps_State_setCtx g0)
      rw [e2]
      refine Keeps.ite ?_ ?_
      · split
        · extract_lets -merge -underBinder +onlyGivenNames x3 x4 x5
          obtain ⟨y5, e5, h5⟩ := Keeps.name (x := x5) (keeps_State_wr h2)
          rw [e5]
          exact keeps_State_setPub h5
      · exact h2
  · exact g0

theorem keeps_keepSlice {s v0 v1 v2 v3 v4 v5 v6} (g0 : Keeps s v0) : Keeps s (keepSlice v0 v1 v2 v3 v4 v5 v6) := by
  unfold keepSlice
  split
  · exact g0
  · extract_lets -merge -underBinder +onlyGivenNames x0 x1
    obtain ⟨y1, e1, h1⟩ := Keeps.name (s := s) (x := x1) (by
      unfold x1
      refine Keeps.foldl ?_ ?_
      · exact g0
      · intro x2 a2 h2
        exact (keeps_State_wr h2))
    rw [e1]
    extract_lets -merge -underBinder +onlyGivenNames x3 x4 x5 x6
    obtain ⟨y6, e6, h6⟩ := Keeps.name (x := x6) (keeps_State_setCtx h1)
    rw [e6]
    exact (.ite (keeps_decConceal (keeps_State_bump h6)) h6)

theorem keeps_takeSlice {s v0 v1 v2 v3 v4} (g0 : Keeps s v0) : Keeps s (takeSlice v0 v1 v2 v3 v4) := by
  unfold takeSlice
  extract_lets -merge -underBinder +onlyGivenNames x0 x1 x2 x3 x4 x5
  obtain ⟨y5, e5, h5⟩ := Keeps.name (x := x5) (keeps_State_setCtx g0)
  rw [e5]
  extract_lets -merge -underBinder +onlyGivenNames x6 x7
  obtain ⟨y7, e7, h7⟩ := Keeps.name (s := s) (x := x7) (by
    unfold x7
    refine Keeps.foldl ?_ ?_
    · exact h5
    · intro x8 a8 h8
      exact (keeps_concealRows h8))
  rw [e7]
  extract_lets -merge -underBinder +onlyGivenNames x9
  obtain ⟨y9, e9, h9⟩ := Keeps.name (x := x9) (keeps_noteSei h7)
  rw [e9]
  extract_lets -merge -underBinder +onlyGivenNames x10
  obtain ⟨y10, e10, h10⟩ := Keeps.name (s := s) (x := x10) (by
    unfold x10
    split
    · exact keeps_State_mpuDeny h9
    · exact h9)
  rw [e10]
  extract_lets -merge -underBinder +onlyGivenNames x11
  obtain ⟨y11, e11, h11⟩ := Keeps.name (x := x11) (.ite (keeps_keepSlice h9) (keeps_abortSlice h10))
  rw [e11]
  exact keeps_advanceRow h11

theorem keeps_afterSlice {s v0 v1 v2} (g0 : Keeps s v0) : Keeps s (afterSlice v0 v1 v2) := by
  unfold afterSlice
  extract_lets -merge -underBinder +onlyGivenNames x0
  obtain ⟨y0, e0, h0⟩ := Keeps.name (x := x0) (keeps_pumpFeeds g0)
  rw [e0]
  split
  · exact h0
  · extract_lets -merge -underBinder +onlyGivenNames x1
    obtain ⟨y1, e1, h1⟩ := Keeps.name (x := x1) (keeps_publishRows h0)
    rw [e1]
    refine Keeps.ite ?_ ?_
    · split
      · exact .ite (keeps_concealRest h1) (keeps_finishPicture h1)
      · exact h1
    · exact h1

theorem keeps_doSlice {s v0 v1 v2} (g0 : Keeps s v0) : Keeps s (doSlice v0 v1 v2) := by
  unfold doSlice
  split
  · exact g0
  · extract_lets -merge -underBinder +onlyGivenNames x0
    split
    · exact (.ite g0 (.ite (keeps_concealRest g0) (.ite (keeps_afterSlice (keeps_State_setCtx g0)) (keeps_afterSlice (keeps_takeSlice g0)))))
    · exact g0

theorem keeps_doStallLimit {s v0 v1 v2} (g0 : Keeps s v0) : Keeps s (doStallLimit v0 v1 v2) := by
  unfold doStallLimit
  split
  · exact g0
  · extract_lets -merge -underBinder +onlyGivenNames x0
    exact (.ite g0 (keeps_concealRest (keeps_decStall g0)))

theorem keeps_doStreamOpen {s v0 v1} (g0 : Keeps s v0) : Keeps s (doStreamOpen v0 v1) := by
  unfold doStreamOpen
  extract_lets -merge -underBinder +onlyGivenNames x0 x1 x2 x3 x4
  refine keeps_runJob ?_ ?_
  · exact g0
  · intro x5_0 h5_0
    extract_lets -merge -underBinder +onlyGivenNames x6 x7 x8 x9
    obtain ⟨y9, e9, h9⟩ := Keeps.name (s := s) (x := x9) (by
      unfold x9
      refine Keeps.foldl ?_ ?_
      · exact keeps_State_setCtx h5_0
      · intro x10 a10 h10
        exact (keeps_State_setReg h10))
    rw [e9]
    exact (keeps_State_finish (keeps_keepState (keeps_setCtxState h9)))

theorem keeps_flushCtx {s v0 v1 v2} (g0 : Keeps s v0) : Keeps s (flushCtx v0 v1 v2) := by
  unfold flushCtx
  extract_lets -merge -underBinder +onlyGivenNames x0 x1
  obtain ⟨y1, e1, h1⟩ := Keeps.name (x := x1) (keeps_State_setCtx g0)
  rw [e1]
  extract_lets -merge -underBinder +onlyGivenNames x2 x3 x4
  obtain ⟨y4, e4, h4⟩ := Keeps.name (x := x4) (keeps_State_setCtx h1)
  rw [e4]
  extract_lets -merge -underBinder +onlyGivenNames x5
  obtain ⟨y5, e5, h5⟩ := Keeps.name (x := x5) (keeps_concealRest h4)
  rw [e5]
  extract_lets -merge -underBinder +onlyGivenNames x6
  obtain ⟨y6, e6, h6⟩ := Keeps.name (x := x6) (keeps_releaseAll h5)
  rw [e6]
  extract_lets -merge -underBinder +onlyGivenNames x7
  obtain ⟨y7, e7, h7⟩ := Keeps.name (s := s) (x := x7) (by
    unfold x7
    refine Keeps.foldl ?_ ?_
    · exact h6
    · intro x8 a8 h8
      exact (keeps_State_finish h8))
  rw [e7]
  extract_lets -merge -underBinder +onlyGivenNames x9
  exact keeps_State_setCtx h7

theorem keeps_doFlush {s v0 v1} (g0 : Keeps s v0) : Keeps s (doFlush v0 v1) := by
  unfold doFlush
  extract_lets -merge -underBinder +onlyGivenNames x0
  refine keeps_runJob ?_ ?_
  · exact g0
  · intro x1_0 h1_0
    exact (keeps_State_finish (keeps_settleClose (keeps_flushCtx h1_0)))

theorem keeps_doClose {s v0 v1} (g0 : Keeps s v0) : Keeps s (doClose v0 v1) := by
  unfold doClose
  extract_lets -merge -underBinder +onlyGivenNames x0
  refine keeps_runJob ?_ ?_
  · exact g0
  · intro x1_0 h1_0
    refine Keeps.ite ?_ ?_
    · extract_lets -merge -underBinder +onlyGivenNames x2
      obtain ⟨y2, e2, h2⟩ := Keeps.name (x := x2) (keeps_setCtxState h1_0)
      rw [e2]
      exact keeps_settleClose (keeps_State_setCtx h2)
    · extract_lets -merge -underBinder +onlyGivenNames x3
      obtain ⟨y3, e3, h3⟩ := Keeps.name (x := x3) (keeps_setCtxState (keeps_flushCtx h1_0))
      rw [e3]
      exact keeps_State_finish h3

theorem keeps_State_setCap {s v0 v1 v2} (g0 : Keeps s v0) : Keeps s (State.setCap v0 v1 v2) := by
  unfold State.setCap
  exact g0.cong rfl

theorem keeps_driveHpd {s v0 v1} (g0 : Keeps s v0) : Keeps s (driveHpd v0 v1) := by
  unfold driveHpd
  extract_lets -merge -underBinder +onlyGivenNames x0 x1
  exact (.ite g0 (keeps_State_emit (keeps_State_setCap g0)))

theorem keeps_capSignal {s v0 v1 v2} (g0 : Keeps s v0) : Keeps s (capSignal v0 v1 v2) := by
  unfold capSignal
  extract_lets -merge -underBinder +onlyGivenNames x0
  exact (.ite g0 (keeps_State_raise (keeps_State_setCap g0)))

theorem keeps_capEdid {s v0 v1 v2} (g0 : Keeps s v0) : Keeps s (capEdid v0 v1 v2) := by
  unfold capEdid
  extract_lets -merge -underBinder +onlyGivenNames x0 x1 x2
  obtain ⟨y2, e2, h2⟩ := Keeps.name (x := x2) (keeps_State_setCap g0)
  rw [e2]
  exact keeps_State_finish (keeps_driveHpd h2)

theorem keeps_capEnable {s v0 v1 v2} (g0 : Keeps s v0) : Keeps s (capEnable v0 v1 v2) := by
  unfold capEnable
  extract_lets -merge -underBinder +onlyGivenNames x0 x1
  split
  rename_i x2 y2_1 e2
  have h2 : Keeps s x2 := Keeps.of_1 e2 (by
    refine keeps_initBlock ?_
    exact g0)
  refine Keeps.ite ?_ ?_
  · exact keeps_State_finish h2
  · extract_lets -merge -underBinder +onlyGivenNames x3 x4 x5
    obtain ⟨y5, e5, h5⟩ := Keeps.name (x := x5) (keeps_State_setPub (h2.cong rfl))
    rw [e5]
    extract_lets -merge -underBinder +onlyGivenNames x6 x7
    obtain ⟨y7, e7, h7⟩ := Keeps.name (x := x7) (keeps_State_setCap h5)
    rw [e7]
    exact keeps_State_finish (keeps_driveHpd h7)

theorem keeps_capLoad {s v0 v1 v2} (g0 : Keeps s v0) : Keeps s (capLoad v0 v1 v2) := by
  unfold capLoad
  exact .ite (keeps_capEdid g0) (keeps_capEnable g0)

theorem keeps_doCaptureCfg {s v0 v1 v2} (g0 : Keeps s v0) : Keeps s (doCaptureCfg v0 v1 v2) := by
  unfold doCaptureCfg
  extract_lets -merge -underBinder +onlyGivenNames x0
  refine keeps_runJob ?_ ?_
  · exact g0
  · intro x1_0 h1_0
    refine Keeps.ite ?_ ?_
    · refine keeps_State_hostFetch ?_ ?_
      · exact h1_0
      · intro x2_0 a2_1 h2_0
        exact keeps_capLoad h2_0
    · extract_lets -merge -underBinder +onlyGivenNames x3
      obtain ⟨y3, e3, h3⟩ := Keeps.name (x := x3) (keeps_capSignal h1_0)
      rw [e3]
      extract_lets -merge -underBinder +onlyGivenNames x4 x5
      obtain ⟨y5, e5, h5⟩ := Keeps.name (x := x5) (keeps_State_setCap h3)
      rw [e5]
      exact keeps_State_finish (keeps_driveHpd h5)

theorem keeps_doHpdPulseEnd {s v0 v1} (g0 : Keeps s v0) : Keeps s (doHpdPulseEnd v0 v1) := by
  unfold doHpdPulseEnd
  exact keeps_driveHpd (keeps_State_setCap g0)

theorem keeps_dpiLane {s v0} (g0 : Keeps s v0) : Keeps s (dpiLane v0).2 := by
  unfold dpiLane
  extract_lets -merge -underBinder +onlyGivenNames x0 x1 x2
  refine Keeps.mk2 ?_
  exact g0.cong rfl

theorem keeps_dpiAdapt {s v0 v1 v2} (g0 : Keeps s v0) : Keeps s (dpiAdapt v0 v1 v2) := by
  unfold dpiAdapt
  refine Keeps.foldl ?_ ?_
  · exact keeps_State_setCap g0
  · intro x0 a0 h0
    split
    rename_i y1_0 x1 e1
    have h1 : Keeps s x1 := Keeps.of_2 e1 (by
      refine keeps_dpiLane ?_
      exact h0)
    exact keeps_State_setCap h1

theorem keeps_dpiScan {s v0 v1} (g0 : Keeps s v0) : Keeps s (dpiScan v0 v1) := by
  unfold dpiScan
  extract_lets -merge -underBinder +onlyGivenNames x0
  refine Keeps.ite ?_ ?_
  · exact g0
  · extract_lets -merge -underBinder +onlyGivenNames x1 x2
    exact keeps_State_setCap (g0.cong rfl)

theorem keeps_dpiScans {s v0} (g0 : Keeps s v0) : Keeps s (dpiScans v0) := by
  unfold dpiScans
  refine Keeps.foldl ?_ ?_
  · exact g0
  · intro x0 a0 h0
    exact keeps_dpiScan h0

theorem keeps_doSinkTraining {s v0 v1 v2 v3 v4} (g0 : Keeps s v0) : Keeps s (doSinkTraining v0 v1 v2 v3 v4) := by
  unfold doSinkTraining
  extract_lets -merge -underBinder +onlyGivenNames x0 x1 x2
  obtain ⟨y2, e2, h2⟩ := Keeps.name (x := x2) (keeps_State_setCap g0)
  rw [e2]
  extract_lets -merge -underBinder +onlyGivenNames x3
  obtain ⟨y3, e3, h3⟩ := Keeps.name (x := x3) (.ite (keeps_dpiAdapt h2) h2)
  rw [e3]
  extract_lets -merge -underBinder +onlyGivenNames x4
  obtain ⟨y4, e4, h4⟩ := Keeps.name (x := x4) (.ite (keeps_State_emit h3) h3)
  rw [e4]
  exact .ite (keeps_State_raise h4) h4

theorem keeps_doCapStart {s v0 v1 v2} (g0 : Keeps s v0) : Keeps s (doCapStart v0 v1 v2) := by
  unfold doCapStart
  extract_lets -merge -underBinder +onlyGivenNames x0
  refine Keeps.ite ?_ ?_
  · exact g0
  · extract_lets -merge -underBinder +onlyGivenNames x1 x2 x3 x4
    obtain ⟨y4, e4, h4⟩ := Keeps.name (x := x4) (keeps_State_setCap g0)
    rw [e4]
    extract_lets -merge -underBinder +onlyGivenNames x5
    obtain ⟨y5, e5, h5⟩ := Keeps.name (x := x5) (.ite (keeps_State_raise h4) h4)
    rw [e5]
    refine Keeps.ite ?_ ?_
    · exact keeps_State_bump h5
    · extract_lets -merge -underBinder +onlyGivenNames x6
      obtain ⟨y6, e6, h6⟩ := Keeps.name (x := x6) (keeps_capSignal h5)
      rw [e6]
      extract_lets -merge -underBinder +onlyGivenNames x7
      split
      · exact h6
      · split
        · exact keeps_State_bump h6
        · split
          rename_i y8_0 x8 e8
          have h8 : Keeps s x8 := Keeps.of_2 e8 (by
            refine keeps_startPicture ?_
            exact h6)
          exact keeps_State_setCap h8

theorem keeps_feedLine {s v0 v1 v2 v3 v4} (g0 : Keeps s v0) : Keeps s (feedLine v0 v1 v2 v3 v4) := by
  unfold feedLine
  exact g0.cong rfl

theorem keeps_storeBand {s v0 v1 v2 v3 v4 v5} (g0 : Keeps s v0) : Keeps s (storeBand v0 v1 v2 v3 v4 v5) := by
  unfold storeBand
  extract_lets -merge -underBinder +onlyGivenNames x0
  split
  · extract_lets -merge -underBinder +onlyGivenNames x1 x2 x3 x4 x5
    obtain ⟨y5, e5, h5⟩ := Keeps.name (s := s) (x := x5) (by
      unfold x5
      refine Keeps.foldl ?_ ?_
      · exact g0
      · intro x6 a6 h6
        split
        split
        · refine Keeps.foldl ?_ ?_
          · exact h6
          · intro x7 a7 h7
            exact (keeps_State_wr h7))
    rw [e5]
    extract_lets -merge -underBinder +onlyGivenNames x8 x9 x10
    obtain ⟨y10, e10, h10⟩ := Keeps.name (x := x10) (keeps_publishBand h5)
    rw [e10]
    exact (.ite (keeps_State_bump (keeps_State_setCap h10)) h10)
  · exact g0

theorem keeps_doCapBand {s v0 v1 v2} (g0 : Keeps s v0) : Keeps s (doCapBand v0 v1 v2) := by
  unfold doCapBand
  extract_lets -merge -underBinder +onlyGivenNames x0
  split
  · extract_lets -merge -underBinder +onlyGivenNames x1 x2
    refine Keeps.ite ?_ ?_
    · exact g0
    · extract_lets -merge -underBinder +onlyGivenNames x3
      obtain ⟨y3, e3, h3⟩ := Keeps.name (x := x3) (keeps_State_setCap g0)
      rw [e3]
      extract_lets -merge -underBinder +onlyGivenNames x4
      obtain ⟨y4, e4, h4⟩ := Keeps.name (s := s) (x := x4) (by
        unfold x4
        refine Keeps.foldl ?_ ?_
        · exact h3
        · intro x5 a5 h5
          exact (keeps_feedLine h5))
      rw [e4]
      exact keeps_storeBand h4
  · exact g0

theorem keeps_doCapLoss {s v0 v1} (g0 : Keeps s v0) : Keeps s (doCapLoss v0 v1) := by
  unfold doCapLoss
  exact keeps_capSignal g0

end Machine
end Sys2Proof
end

