-- ==== Sys2Proof/Laws/KeepsOutput.lean ====
section
/-! SUPPORT. What commits, scan-out, tile records and output checks keep, said once for each operation: the memory stays canonical, the pins follow the pair
state, the lifecycle is one-way, the bar and locked MPU regions stay, the queue is untouched, what was put out stays, and the clock never
goes back. A lemma keeps_f says it of the operation f. -/

set_option Elab.async false

namespace Sys2Proof
namespace Machine

theorem keeps_runComp {s v0 v1 v2 v3} (g0 : Keeps s v0) (g3 : ∀ u0, Keeps s u0 → Keeps s (v3 u0)) : Keeps s (runComp v0 v1 v2 v3) := by
  unfold runComp
  split
  · exact keeps_State_refuse g0
  · exact g3 _ g0

theorem keeps_loadBlocks {s v0 v1 v2} (g0 : Keeps s v0) : Keeps s (loadBlocks v0 v1 v2) := by
  unfold loadBlocks
  split
  · exact keeps_State_finish g0
  · extract_lets -merge -underBinder +onlyGivenNames x0 x1
    obtain ⟨y1, e1, h1⟩ := Keeps.name (x := x1) (g0.cong rfl)
    rw [e1]
    exact keeps_State_finish (keeps_mirrorOut h1)

theorem keeps_doStateLoad {s v0 v1 v2} (g0 : Keeps s v0) : Keeps s (doStateLoad v0 v1 v2) := by
  unfold doStateLoad
  extract_lets -merge -underBinder +onlyGivenNames x0 x1
  refine keeps_runComp ?_ ?_
  · exact g0
  · intro x2_0 h2_0
    refine keeps_State_hostFetch ?_ ?_
    · exact h2_0
    · intro x3_0 a3_1 h3_0
      exact keeps_loadBlocks h3_0

theorem keeps_doCommit {s v0 v1} (g0 : Keeps s v0) : Keeps s (doCommit v0 v1) := by
  unfold doCommit
  refine keeps_runComp ?_ ?_
  · exact g0
  · intro x0_0 h0_0
    exact h0_0.cong rfl

theorem keeps_State_putCommit {s v0 v1 v2} (g0 : Keeps s v0) : Keeps s (State.putCommit v0 v1 v2) := by
  unfold State.putCommit
  exact g0.cong rfl

theorem keeps_State_dropCommit {s v0 v1} (g0 : Keeps s v0) : Keeps s (State.dropCommit v0 v1) := by
  unfold State.dropCommit
  exact g0.cong rfl

theorem keeps_commitAck {s v0 v1 v2} (g0 : Keeps s v0) : Keeps s (commitAck v0 v1 v2) := by
  unfold commitAck
  split
  · extract_lets -merge -underBinder +onlyGivenNames x0
    obtain ⟨y0, e0, h0⟩ := Keeps.name (x := x0) (keeps_mirrorPacket g0)
    rw [e0]
    exact keeps_mirrorPump h0
  · exact g0

theorem keeps_rejectCommit {s v0 v1 v2} (g0 : Keeps s v0) : Keeps s (rejectCommit v0 v1 v2) := by
  unfold rejectCommit
  extract_lets -merge -underBinder +onlyGivenNames x0
  obtain ⟨y0, e0, h0⟩ := Keeps.name (x := x0) (keeps_State_dropCommit g0)
  rw [e0]
  extract_lets -merge -underBinder +onlyGivenNames x1
  obtain ⟨y1, e1, h1⟩ := Keeps.name (s := s) (x := x1) (by
    unfold x1
    refine Keeps.foldl ?_ ?_
    · exact h0
    · intro x2 a2 h2
      exact (keeps_State_bump h2))
  rw [e1]
  extract_lets -merge -underBinder +onlyGivenNames x3
  obtain ⟨y3, e3, h3⟩ := Keeps.name (x := x3) (keeps_commitAck h1)
  rw [e3]
  exact keeps_State_finish h3

theorem keeps_ackFailed {s v0 v1} (g0 : Keeps s v0) : Keeps s (ackFailed v0 v1) := by
  unfold ackFailed
  exact keeps_rejectCommit (keeps_State_bump g0)

theorem keeps_State_setPipe {s v0 v1 v2} (g0 : Keeps s v0) : Keeps s (State.setPipe v0 v1 v2) := by
  unfold State.setPipe
  exact g0.cong rfl

theorem keeps_applyShadow {s v0 v1 v2} (g0 : Keeps s v0) : Keeps s (applyShadow v0 v1 v2) := by
  unfold applyShadow
  split
  · extract_lets -merge -underBinder +onlyGivenNames x0 x1
    obtain ⟨y1, e1, h1⟩ := Keeps.name (x := x1) (g0.cong rfl)
    rw [e1]
    extract_lets -merge -underBinder +onlyGivenNames x2
    obtain ⟨y2, e2, h2⟩ := Keeps.name (x := x2) (keeps_applyBindings h1)
    rw [e2]
    extract_lets -merge -underBinder +onlyGivenNames x3 x4
    obtain ⟨y4, e4, h4⟩ := Keeps.name (x := x4) (keeps_State_setPipe h2)
    rw [e4]
    extract_lets -merge -underBinder +onlyGivenNames x5
    obtain ⟨y5, e5, h5⟩ := Keeps.name (x := x5) (keeps_State_bump h4)
    rw [e5]
    exact .ite (keeps_State_bump h5) h5

theorem keeps_applyOn {s v0 v1 v2} (g0 : Keeps s v0) : Keeps s (applyOn v0 v1 v2) := by
  unfold applyOn
  extract_lets -merge -underBinder +onlyGivenNames x0
  obtain ⟨y0, e0, h0⟩ := Keeps.name (x := x0) (keeps_applyShadow g0)
  rw [e0]
  extract_lets -merge -underBinder +onlyGivenNames x1
  exact (.ite (keeps_State_finish (keeps_State_dropCommit h0)) (keeps_State_putCommit h0))

theorem keeps_acceptCommit {s v0 v1} (g0 : Keeps s v0) : Keeps s (acceptCommit v0 v1) := by
  unfold acceptCommit
  extract_lets -merge -underBinder +onlyGivenNames x0 x1 x2 x3 x4
  obtain ⟨y4, e4, h4⟩ := Keeps.name (x := x4) (keeps_commitAck (keeps_State_putCommit g0))
  rw [e4]
  refine Keeps.foldl ?_ ?_
  · exact h4
  · intro x5 a5 h5
    split
    · exact keeps_applyOn h5
    · exact h5

theorem keeps_notOwnerNow {s v0 v1} (g0 : Keeps s v0) : Keeps s (notOwnerNow v0 v1) := by
  unfold notOwnerNow
  exact keeps_State_finish (keeps_State_dropCommit g0)

theorem keeps_doCommitValidation {s v0 v1} (g0 : Keeps s v0) : Keeps s (doCommitValidation v0 v1) := by
  unfold doCommitValidation
  split
  · exact g0
  · split
    · exact keeps_rejectCommit g0
    · extract_lets -merge -underBinder +onlyGivenNames x0
      refine Keeps.ite ?_ ?_
      · refine Keeps.ite ?_ ?_
        · exact keeps_notOwnerNow g0
        · refine Keeps.ite ?_ ?_
          · extract_lets -merge -underBinder +onlyGivenNames x1 x2
            obtain ⟨y2, e2, h2⟩ := Keeps.name (x := x2) (keeps_State_putCommit g0)
            rw [e2]
            exact keeps_mirrorRecord h2
          · exact keeps_ackFailed g0
      · exact keeps_acceptCommit g0

theorem keeps_boundaryCommit {s v0 v1} (g0 : Keeps s v0) : Keeps s (boundaryCommit v0 v1) := by
  unfold boundaryCommit
  split
  · exact g0
  · exact (.ite g0 (.ite (keeps_State_putCommit g0) (keeps_applyOn g0)))

theorem keeps_atBoundary {s v0 v1} (g0 : Keeps s v0) : Keeps s (atBoundary v0 v1) := by
  unfold atBoundary
  extract_lets -merge -underBinder +onlyGivenNames x0
  refine Keeps.ite ?_ ?_
  · exact g0
  · extract_lets -merge -underBinder +onlyGivenNames x1
    obtain ⟨y1, e1, h1⟩ := Keeps.name (x := x1) (.ite (keeps_State_setTg g0) g0)
    rw [e1]
    exact keeps_boundaryCommit h1

theorem keeps_doCommitApply {s v0 v1} (g0 : Keeps s v0) : Keeps s (doCommitApply v0 v1) := by
  unfold doCommitApply
  exact keeps_atBoundary g0

theorem keeps_changeBlock {s v0 v1 v2 v3 v4} (g0 : Keeps s v0) : Keeps s (changeBlock v0 v1 v2 v3 v4) := by
  unfold changeBlock
  extract_lets -merge -underBinder +onlyGivenNames x0 x1
  obtain ⟨y1, e1, h1⟩ := Keeps.name (s := s) (x := x1) (by
    unfold x1
    split
    · exact g0.cong rfl
    · exact g0)
  rw [e1]
  exact h1.cong rfl

theorem keeps_setSteam {s v0 v1 v2} (g0 : Keeps s v0) : Keeps s (setSteam v0 v1 v2) := by
  unfold setSteam
  extract_lets -merge -underBinder +onlyGivenNames x0
  obtain ⟨y0, e0, h0⟩ := Keeps.name (s := s) (x := x0) (by
    unfold x0
    split
    · exact g0.cong rfl
    · exact g0)
  rw [e0]
  exact h0.cong rfl

theorem keeps_doLiveSet {s v0 v1} (g0 : Keeps s v0) : Keeps s (doLiveSet v0 v1) := by
  unfold doLiveSet
  extract_lets -merge -underBinder +onlyGivenNames x0 x1 x2 x3
  refine keeps_runJob ?_ ?_
  · exact g0
  · intro x4_0 h4_0
    extract_lets -merge -underBinder +onlyGivenNames x5
    obtain ⟨y5, e5, h5⟩ := Keeps.name (s := s) (x := x5) (by
      unfold x5
      clear_value x1
      split
      · exact keeps_changeBlock h4_0
      · exact keeps_changeBlock h4_0
      · exact keeps_changeBlock h4_0
      · exact (keeps_setSteam h4_0))
    rw [e5]
    exact keeps_State_finish h5

theorem keeps_State_setSlate {s v0 v1 v2} (g0 : Keeps s v0) : Keeps s (State.setSlate v0 v1 v2) := by
  unfold State.setSlate
  exact g0.cong rfl

theorem keeps_setLoaded {s v0 v1 v2} (g0 : Keeps s v0) : Keeps s (setLoaded v0 v1 v2) := by
  unfold setLoaded
  extract_lets -merge -underBinder +onlyGivenNames x0
  exact (.ite g0 (keeps_State_raise (keeps_State_setSlate g0)))

theorem keeps_settleSlate {s v0 v1} (g0 : Keeps s v0) : Keeps s (settleSlate v0 v1) := by
  unfold settleSlate
  extract_lets -merge -underBinder +onlyGivenNames x0
  exact .ite (keeps_setLoaded g0) g0

theorem keeps_slatesSeen {s v0 v1} (g0 : Keeps s v0) : Keeps s (slatesSeen v0 v1) := by
  unfold slatesSeen
  refine Keeps.foldl ?_ ?_
  · exact g0
  · intro x0 a0 h0
    extract_lets -merge -underBinder +onlyGivenNames x1
    exact keeps_settleSlate (keeps_State_setSlate h0)

theorem keeps_slateBegin {s v0 v1} (g0 : Keeps s v0) : Keeps s (slateBegin v0 v1) := by
  unfold slateBegin
  extract_lets -merge -underBinder +onlyGivenNames x0
  exact keeps_State_setSlate (keeps_setLoaded g0)

theorem keeps_slateCopy {s v0 v1 v2} (g0 : Keeps s v0) : Keeps s (slateCopy v0 v1 v2) := by
  unfold slateCopy
  exact g0.cong rfl

theorem keeps_doSlateLoad {s v0 v1 v2} (g0 : Keeps s v0) : Keeps s (doSlateLoad v0 v1 v2) := by
  unfold doSlateLoad
  extract_lets -merge -underBinder +onlyGivenNames x0 x1 x2 x3 x4
  refine keeps_runJob ?_ ?_
  · exact g0
  · intro x5_0 h5_0
    refine Keeps.ite ?_ ?_
    · extract_lets -merge -underBinder +onlyGivenNames x6 x7
      obtain ⟨y7, e7, h7⟩ := Keeps.name (x := x7) (keeps_setLoaded h5_0)
      rw [e7]
      extract_lets -merge -underBinder +onlyGivenNames x8 x9
      obtain ⟨y9, e9, h9⟩ := Keeps.name (x := x9) (keeps_State_setSlate h7)
      rw [e9]
      exact keeps_State_finish (keeps_mirrorOut h9)
    · refine keeps_State_hostFetch ?_ ?_
      · exact keeps_slateBegin h5_0
      · intro x10_0 a10_1 h10_0
        exact keeps_slateCopy h10_0

theorem keeps_slateRows {s v0 v1 v2 v3 v4 v5 v6} (g6 : Keeps s v6) : Keeps s (slateRows v0 v1 v2 v3 v4 v5 v6).1 := by
  induction v3 generalizing v0 v1 v2 v4 v5 v6 with
  | zero =>
    rw [slateRows]
    refine Keeps.mk1 ?_
    exact g6
  | succ v ih =>
    rw [slateRows]
    split
    · refine Keeps.mk1 ?_
      exact keeps_State_mpuDeny g6
    · split
      · extract_lets -merge -underBinder +onlyGivenNames x0 x1
        obtain ⟨y1, e1, h1⟩ := Keeps.name (x := x1) (.ite g6 (keeps_State_wr g6))
        rw [e1]
        refine Keeps.mk1 ?_
        exact keeps_State_wr h1
      · refine ih ?_
        exact keeps_State_wr g6

theorem keeps_doSlateCopyEnd {s v0 v1} (g0 : Keeps s v0) : Keeps s (doSlateCopyEnd v0 v1) := by
  unfold doSlateCopyEnd
  split
  · exact g0
  · extract_lets -merge -underBinder +onlyGivenNames x0 x1 x2 x3
    obtain ⟨y3, e3, h3⟩ := Keeps.name (x := x3) (g0.cong rfl)
    rw [e3]
    split
    rename_i x4 y4_1 e4
    have h4 : Keeps s x4 := Keeps.of_1 e4 (by
      refine keeps_slateRows ?_
      exact h3)
    refine Keeps.ite ?_ ?_
    · extract_lets -merge -underBinder +onlyGivenNames x5 x6
      obtain ⟨y6, e6, h6⟩ := Keeps.name (x := x6) (keeps_State_setSlate h4)
      rw [e6]
      extract_lets -merge -underBinder +onlyGivenNames x7
      obtain ⟨y7, e7, h7⟩ := Keeps.name (x := x7) (keeps_settleSlate h6)
      rw [e7]
      exact keeps_State_finish (keeps_mirrorOut h7)
    · exact keeps_State_finish h4

theorem keeps_raiseChk {s v0 v1 v2 v3 v4} (g0 : Keeps s v0) : Keeps s (raiseChk v0 v1 v2 v3 v4) := by
  unfold raiseChk
  extract_lets -merge -underBinder +onlyGivenNames x0 x1
  exact keeps_pairAlarm (keeps_State_raise g0)

theorem keeps_chkReport {s v0 v1 v2} (g0 : Keeps s v0) : Keeps s (chkReport v0 v1 v2) := by
  unfold chkReport
  extract_lets -merge -underBinder +onlyGivenNames x0
  exact (.ite g0 (.ite (keeps_State_setChk g0) (keeps_raiseChk (keeps_State_setChk g0))))

theorem keeps_doChkWindowEnd {s v0 v1} (g0 : Keeps s v0) : Keeps s (doChkWindowEnd v0 v1) := by
  unfold doChkWindowEnd
  extract_lets -merge -underBinder +onlyGivenNames x0 x1
  obtain ⟨y1, e1, h1⟩ := Keeps.name (x := x1) (keeps_State_setChk g0)
  rw [e1]
  exact .ite (keeps_raiseChk h1) h1

theorem keeps_chkForce {s v0 v1} (g0 : Keeps s v0) : Keeps s (chkForce v0 v1) := by
  unfold chkForce
  extract_lets -merge -underBinder +onlyGivenNames x0
  exact (.ite (keeps_State_setChk g0) (keeps_raiseChk (keeps_State_setChk g0)))

theorem keeps_trimChecks {s v0 v1 v2 v3} (g0 : Keeps s v0) : Keeps s (trimChecks v0 v1 v2 v3) := by
  unfold trimChecks
  refine Keeps.foldl ?_ ?_
  · exact g0
  · intro x0 a0 h0
    extract_lets -merge -underBinder +onlyGivenNames x1
    exact (.ite (keeps_chkForce (keeps_State_setChk h0)) h0)

theorem keeps_State_setDp {s v0 v1 v2} (g0 : Keeps s v0) : Keeps s (State.setDp v0 v1 v2) := by
  unfold State.setDp
  exact g0.cong rfl

theorem keeps_raiseLink {s v0 v1 v2} (g0 : Keeps s v0) : Keeps s (raiseLink v0 v1 v2) := by
  unfold raiseLink
  extract_lets -merge -underBinder +onlyGivenNames x0
  exact keeps_State_raise g0

theorem keeps_dpDepth {s v0 v1} (g0 : Keeps s v0) : Keeps s (dpDepth v0 v1) := by
  unfold dpDepth
  extract_lets -merge -underBinder +onlyGivenNames x0
  split
  · exact keeps_State_setDp g0
  · refine Keeps.ite ?_ ?_
    · exact g0
    · split
      · exact keeps_State_setDp g0
      · extract_lets -merge -underBinder +onlyGivenNames x1
        obtain ⟨y1, e1, h1⟩ := Keeps.name (x := x1) (keeps_State_setDp g0)
        rw [e1]
        exact .ite h1 (keeps_raiseLink h1)

theorem keeps_dpStart {s v0 v1} (g0 : Keeps s v0) : Keeps s (dpStart v0 v1) := by
  unfold dpStart
  extract_lets -merge -underBinder +onlyGivenNames x0 x1
  exact .ite (keeps_State_setDp g0) g0

theorem keeps_dpRetrain {s v0 v1} (g0 : Keeps s v0) : Keeps s (dpRetrain v0 v1) := by
  unfold dpRetrain
  extract_lets -merge -underBinder +onlyGivenNames x0 x1
  obtain ⟨y1, e1, h1⟩ := Keeps.name (x := x1) (keeps_State_setDp g0)
  rw [e1]
  extract_lets -merge -underBinder +onlyGivenNames x2
  obtain ⟨y2, e2, h2⟩ := Keeps.name (x := x2) (.ite (keeps_raiseLink h1) h1)
  rw [e2]
  exact keeps_dpStart h2

theorem keeps_doHpdUnplug {s v0 v1} (g0 : Keeps s v0) : Keeps s (doHpdUnplug v0 v1) := by
  unfold doHpdUnplug
  extract_lets -merge -underBinder +onlyGivenNames x0
  refine Keeps.ite ?_ ?_
  · exact g0
  · extract_lets -merge -underBinder +onlyGivenNames x1
    obtain ⟨y1, e1, h1⟩ := Keeps.name (x := x1) (keeps_State_setDp g0)
    rw [e1]
    exact keeps_raiseLink (keeps_State_raise h1)

theorem keeps_doHpdPlug {s v0 v1 v2} (g0 : Keeps s v0) : Keeps s (doHpdPlug v0 v1 v2) := by
  unfold doHpdPlug
  extract_lets -merge -underBinder +onlyGivenNames x0
  refine Keeps.ite ?_ ?_
  · exact g0
  · extract_lets -merge -underBinder +onlyGivenNames x1
    obtain ⟨y1, e1, h1⟩ := Keeps.name (x := x1) (keeps_State_setDp g0)
    rw [e1]
    exact keeps_dpStart (keeps_State_raise h1)

theorem keeps_doIrqHpd {s v0 v1 v2} (g0 : Keeps s v0) : Keeps s (doIrqHpd v0 v1 v2) := by
  unfold doIrqHpd
  extract_lets -merge -underBinder +onlyGivenNames x0
  refine Keeps.ite ?_ ?_
  · exact g0
  · extract_lets -merge -underBinder +onlyGivenNames x1
    obtain ⟨y1, e1, h1⟩ := Keeps.name (x := x1) (keeps_State_raise (keeps_State_bump g0))
    rw [e1]
    exact .ite (keeps_dpRetrain h1) h1

theorem keeps_trainFailed {s v0 v1 v2 v3 v4} (g0 : Keeps s v0) : Keeps s (trainFailed v0 v1 v2 v3 v4) := by
  unfold trainFailed
  extract_lets -merge -underBinder +onlyGivenNames x0
  split
  · exact keeps_State_setDp g0
  · exact (keeps_raiseLink (keeps_State_bump (keeps_State_setDp g0)))

theorem keeps_trainWrites {s v0 v1 v2} (g0 : Keeps s v0) : Keeps s (trainWrites v0 v1 v2) := by
  unfold trainWrites
  extract_lets -merge -underBinder +onlyGivenNames x0 x1 x2
  obtain ⟨y2, e2, h2⟩ := Keeps.name (x := x2) (keeps_State_setDp g0)
  rw [e2]
  extract_lets -merge -underBinder +onlyGivenNames x3
  obtain ⟨y3, e3, h3⟩ := Keeps.name (x := x3) (keeps_State_emit h2)
  rw [e3]
  extract_lets -merge -underBinder +onlyGivenNames x4
  obtain ⟨y4, e4, h4⟩ := Keeps.name (x := x4) (keeps_State_emit h3)
  rw [e4]
  extract_lets -merge -underBinder +onlyGivenNames x5
  obtain ⟨y5, e5, h5⟩ := Keeps.name (x := x5) (keeps_State_emit h4)
  rw [e5]
  extract_lets -merge -underBinder +onlyGivenNames x6
  obtain ⟨y6, e6, h6⟩ := Keeps.name (x := x6) (keeps_State_emit h5)
  rw [e6]
  exact .ite (keeps_State_emit h6) h6

theorem keeps_doDpTraining {s v0 v1 v2} (g0 : Keeps s v0) : Keeps s (doDpTraining v0 v1 v2) := by
  unfold doDpTraining
  extract_lets -merge -underBinder +onlyGivenNames x0 x1
  split
  · exact g0
  · refine Keeps.ite ?_ ?_
    · exact g0
    · extract_lets -merge -underBinder +onlyGivenNames x2
      obtain ⟨y2, e2, h2⟩ := Keeps.name (x := x2) (keeps_trainWrites g0)
      rw [e2]
      split
      · extract_lets -merge -underBinder +onlyGivenNames x3 x4 x5
        obtain ⟨y5, e5, h5⟩ := Keeps.name (x := x5) (keeps_State_setDp h2)
        rw [e5]
        extract_lets -merge -underBinder +onlyGivenNames x6
        obtain ⟨y6, e6, h6⟩ := Keeps.name (x := x6) (keeps_State_emit h5)
        rw [e6]
        extract_lets -merge -underBinder +onlyGivenNames x7
        obtain ⟨y7, e7, h7⟩ := Keeps.name (x := x7) (keeps_State_emit h6)
        rw [e7]
        extract_lets -merge -underBinder +onlyGivenNames x8
        obtain ⟨y8, e8, h8⟩ := Keeps.name (x := x8) (keeps_dpDepth h7)
        rw [e8]
        exact .ite h8 (keeps_raiseLink h8)
      · exact keeps_trainFailed h2
      · exact keeps_trainFailed h2

theorem keeps_doTrainingRetry {s v0 v1} (g0 : Keeps s v0) : Keeps s (doTrainingRetry v0 v1) := by
  unfold doTrainingRetry
  exact .ite (keeps_dpStart g0) g0

theorem keeps_dpForce {s v0 v1} (g0 : Keeps s v0) : Keeps s (dpForce v0 v1) := by
  unfold dpForce
  exact .ite (keeps_dpRetrain g0) g0

theorem keeps_doEdidEnd {s v0 v1 v2} (g0 : Keeps s v0) : Keeps s (doEdidEnd v0 v1 v2) := by
  unfold doEdidEnd
  extract_lets -merge -underBinder +onlyGivenNames x0
  refine Keeps.ite ?_ ?_
  · exact g0
  · split
    · extract_lets -merge -underBinder +onlyGivenNames x1
      obtain ⟨y1, e1, h1⟩ := Keeps.name (x := x1) (keeps_State_setDp g0)
      rw [e1]
      exact keeps_State_raise h1

theorem keeps_doModeSet {s v0 v1} (g0 : Keeps s v0) : Keeps s (doModeSet v0 v1) := by
  unfold doModeSet
  extract_lets -merge -underBinder +onlyGivenNames x0
  refine keeps_runJob ?_ ?_
  · exact g0
  · intro x1_0 h1_0
    extract_lets -merge -underBinder +onlyGivenNames x2
    exact keeps_State_setTg h1_0

theorem keeps_setPhaseLocked {s v0 v1 v2} (g0 : Keeps s v0) : Keeps s (setPhaseLocked v0 v1 v2) := by
  unfold setPhaseLocked
  extract_lets -merge -underBinder +onlyGivenNames x0
  exact (.ite g0 (keeps_State_raise (keeps_State_setTg g0)))

theorem keeps_enterLock {s v0 v1 v2} (g0 : Keeps s v0) : Keeps s (enterLock v0 v1 v2) := by
  unfold enterLock
  extract_lets -merge -underBinder +onlyGivenNames x0
  exact .ite (keeps_State_setTg g0) (keeps_State_setTg g0)

theorem keeps_leaveLock {s v0 v1} (g0 : Keeps s v0) : Keeps s (leaveLock v0 v1) := by
  unfold leaveLock
  extract_lets -merge -underBinder +onlyGivenNames x0
  obtain ⟨y0, e0, h0⟩ := Keeps.name (x := x0) (keeps_setPhaseLocked g0)
  rw [e0]
  exact keeps_State_setTg h0

theorem keeps_leaveFallback {s v0 v1} (g0 : Keeps s v0) : Keeps s (leaveFallback v0 v1) := by
  unfold leaveFallback
  extract_lets -merge -underBinder +onlyGivenNames x0
  split
  · exact g0
  · exact keeps_State_raise (keeps_State_setTg g0)

theorem keeps_followTime {s v0} (g0 : Keeps s v0) : Keeps s (followTime v0) := by
  unfold followTime
  refine Keeps.foldl ?_ ?_
  · exact g0
  · intro x0 a0 h0
    extract_lets -merge -underBinder +onlyGivenNames x1
    refine Keeps.ite ?_ ?_
    · exact .ite (keeps_enterLock h0) h0
    · refine Keeps.ite ?_ ?_
      · exact h0
      · refine Keeps.ite ?_ ?_
        · extract_lets -merge -underBinder +onlyGivenNames x2 x3 x4
          obtain ⟨y4, e4, h4⟩ := Keeps.name (x := x4) (keeps_State_setTg h0)
          rw [e4]
          exact keeps_State_raise h4
        · exact (.ite (keeps_enterLock (keeps_leaveFallback h0)) h0)

theorem keeps_settleSlates {s v0} (g0 : Keeps s v0) : Keeps s (settleSlates v0) := by
  unfold settleSlates
  refine Keeps.foldl ?_ ?_
  · exact g0
  · intro x0 a0 h0
    exact keeps_settleSlate h0

theorem keeps_stopGen {s v0 v1} (g0 : Keeps s v0) : Keeps s (stopGen v0 v1) := by
  unfold stopGen
  extract_lets -merge -underBinder +onlyGivenNames x0
  obtain ⟨y0, e0, h0⟩ := Keeps.name (x := x0) (keeps_leaveLock (keeps_leaveFallback g0))
  rw [e0]
  extract_lets -merge -underBinder +onlyGivenNames x1
  obtain ⟨y1, e1, h1⟩ := Keeps.name (s := s) (x := x1) (by
    unfold x1
    refine Keeps.foldl ?_ ?_
    · exact h0
    · intro x2 a2 h2
      exact (keeps_chkReport (keeps_State_setChk h2)))
  rw [e1]
  extract_lets -merge -underBinder +onlyGivenNames x3 x4
  obtain ⟨y4, e4, h4⟩ := Keeps.name (x := x4) (keeps_State_setTg h1)
  rw [e4]
  extract_lets -merge -underBinder +onlyGivenNames x5 x6 x7 x8
  obtain ⟨y8, e8, h8⟩ := Keeps.name (x := x8) (h4.cong rfl)
  rw [e8]
  extract_lets -merge -underBinder +onlyGivenNames x9
  obtain ⟨y9, e9, h9⟩ := Keeps.name (x := x9) (.ite (keeps_State_untrigger h8) h8)
  rw [e9]
  exact keeps_settleSlates (keeps_settleReleases h9)

theorem keeps_dpLimits {s v0 v1} (g0 : Keeps s v0) : Keeps s (dpLimits v0 v1) := by
  unfold dpLimits
  extract_lets -merge -underBinder +onlyGivenNames x0 x1
  exact (.ite (keeps_State_setDp g0) (.ite g0 (.ite (keeps_dpRetrain g0) (keeps_dpStart g0))))

theorem keeps_takeMode {s v0 v1 v2 v3} (g0 : Keeps s v0) : Keeps s (takeMode v0 v1 v2 v3) := by
  unfold takeMode
  split
  · extract_lets -merge -underBinder +onlyGivenNames x0
    obtain ⟨y0, e0, h0⟩ := Keeps.name (x := x0) (keeps_stopGen (keeps_trimChecks g0))
    rw [e0]
    extract_lets -merge -underBinder +onlyGivenNames x1 x2
    obtain ⟨y2, e2, h2⟩ := Keeps.name (x := x2) (keeps_State_setTg h0)
    rw [e2]
    extract_lets -merge -underBinder +onlyGivenNames x3
    obtain ⟨y3, e3, h3⟩ := Keeps.name (x := x3) (keeps_boundaryCommit h2)
    rw [e3]
    extract_lets -merge -underBinder +onlyGivenNames x4
    obtain ⟨y4, e4, h4⟩ := Keeps.name (x := x4) (.ite (keeps_enterLock h3) h3)
    rw [e4]
    exact keeps_dpLimits h4

theorem keeps_takeTiming {s v0 v1 v2} (g0 : Keeps s v0) : Keeps s (takeTiming v0 v1 v2) := by
  unfold takeTiming
  extract_lets -merge -underBinder +onlyGivenNames x0 x1
  obtain ⟨y1, e1, h1⟩ := Keeps.name (x := x1) (keeps_leaveFallback g0)
  rw [e1]
  extract_lets -merge -underBinder +onlyGivenNames x2
  obtain ⟨y2, e2, h2⟩ := Keeps.name (x := x2) (.ite (keeps_leaveLock h1) h1)
  rw [e2]
  extract_lets -merge -underBinder +onlyGivenNames x3 x4
  obtain ⟨y4, e4, h4⟩ := Keeps.name (x := x4) (keeps_State_setTg h2)
  rw [e4]
  extract_lets -merge -underBinder +onlyGivenNames x5
  obtain ⟨y5, e5, h5⟩ := Keeps.name (x := x5) (.ite (keeps_enterLock h4) h4)
  rw [e5]
  exact keeps_dpLimits h5

theorem keeps_doModeSetApply {s v0 v1} (g0 : Keeps s v0) : Keeps s (doModeSetApply v0 v1) := by
  unfold doModeSetApply
  extract_lets -merge -underBinder +onlyGivenNames x0
  split
  · exact g0
  · extract_lets -merge -underBinder +onlyGivenNames x1 x2
    refine Keeps.ite ?_ ?_
    · exact g0
    · extract_lets -merge -underBinder +onlyGivenNames x3 x4
      obtain ⟨y4, e4, h4⟩ := Keeps.name (x := x4) (keeps_atBoundary g0)
      rw [e4]
      extract_lets -merge -underBinder +onlyGivenNames x5
      obtain ⟨y5, e5, h5⟩ := Keeps.name (x := x5) (.ite (keeps_atBoundary h4) h4)
      rw [e5]
      extract_lets -merge -underBinder +onlyGivenNames x6 x7
      obtain ⟨y7, e7, h7⟩ := Keeps.name (x := x7) (keeps_State_setTg h5)
      rw [e7]
      refine Keeps.ite ?_ ?_
      · extract_lets -merge -underBinder +onlyGivenNames x8
        obtain ⟨y8, e8, h8⟩ := Keeps.name (x := x8) (keeps_takeTiming h7)
        rw [e8]
        extract_lets -merge -underBinder +onlyGivenNames x9
        obtain ⟨y9, e9, h9⟩ := Keeps.name (x := x9) (.ite (keeps_takeTiming h8) h8)
        rw [e9]
        exact keeps_followTime (keeps_State_setTg h9)
      · extract_lets -merge -underBinder +onlyGivenNames x10
        obtain ⟨y10, e10, h10⟩ := Keeps.name (x := x10) (keeps_takeMode h7)
        rw [e10]
        extract_lets -merge -underBinder +onlyGivenNames x11
        obtain ⟨y11, e11, h11⟩ := Keeps.name (x := x11) (.ite (keeps_takeMode h10) (.ite (keeps_takeMode h10) h10))
        rw [e11]
        exact .ite (keeps_State_finish h11) (keeps_State_setTg h11)

theorem keeps_lockFrame {s v0 v1} (g0 : Keeps s v0) : Keeps s (lockFrame v0 v1) := by
  unfold lockFrame
  extract_lets -merge -underBinder +onlyGivenNames x0 x1
  refine Keeps.ite ?_ ?_
  · exact g0
  · extract_lets -merge -underBinder +onlyGivenNames x2 x3 x4 x5
    split
    rename_i y6_0 x6 e6
    have h6 : Keeps s x6 := Keeps.of_2 e6 (by
      refine keeps_State_fresh ?_
      exact g0)
    extract_lets -merge -underBinder +onlyGivenNames x7 x8 x9 x10
    obtain ⟨y10, e10, h10⟩ := Keeps.name (x := x10) (keeps_State_setTg h6)
    rw [e10]
    exact (.ite (keeps_setPhaseLocked h10) (.ite (keeps_setPhaseLocked h10) h10))

theorem keeps_followPair {s v0 v1} (g0 : Keeps s v0) : Keeps s (followPair v0 v1) := by
  unfold followPair
  extract_lets -merge -underBinder +onlyGivenNames x0 x1 x2
  obtain ⟨y2, e2, h2⟩ := Keeps.name (x := x2) (keeps_State_setTg g0)
  rw [e2]
  exact keeps_setPhaseLocked h2

theorem keeps_blankEvent {s v0 v1 v2 v3} (g0 : Keeps s v0) : Keeps s (blankEvent v0 v1 v2 v3) := by
  unfold blankEvent
  exact keeps_State_raise g0

theorem keeps_blankFrame {s v0 v1} (g0 : Keeps s v0) : Keeps s (blankFrame v0 v1) := by
  unfold blankFrame
  extract_lets -merge -underBinder +onlyGivenNames x0
  split
  · exact g0
  · refine Keeps.ite ?_ ?_
    · extract_lets -merge -underBinder +onlyGivenNames x1
      obtain ⟨y1, e1, h1⟩ := Keeps.name (x := x1) (keeps_State_setPipe g0)
      rw [e1]
      extract_lets -merge -underBinder +onlyGivenNames x2
      obtain ⟨y2, e2, h2⟩ := Keeps.name (x := x2) (.ite (keeps_blankEvent h1) h1)
      rw [e2]
      split
      · exact keeps_blankEvent h2
      · exact h2
    · exact (.ite g0 (keeps_blankEvent (keeps_State_setPipe g0)))

theorem keeps_applyTrim {s v0 v1} (g0 : Keeps s v0) : Keeps s (applyTrim v0 v1) := by
  unfold applyTrim
  extract_lets -merge -underBinder +onlyGivenNames x0
  exact g0.cong rfl

theorem keeps_sendMsa {s v0 v1} (g0 : Keeps s v0) : Keeps s (sendMsa v0 v1) := by
  unfold sendMsa
  extract_lets -merge -underBinder +onlyGivenNames x0
  split
  · exact .ite (keeps_State_emit g0) g0
  · exact g0

theorem keeps_resumeChecks {s v0 v1} (g0 : Keeps s v0) : Keeps s (resumeChecks v0 v1) := by
  unfold resumeChecks
  refine Keeps.foldl ?_ ?_
  · exact g0
  · intro x0 a0 h0
    extract_lets -merge -underBinder +onlyGivenNames x1
    exact .ite h0 (keeps_chkReport h0)

theorem keeps_frameOn {s v0 v1} (g0 : Keeps s v0) : Keeps s (frameOn v0 v1) := by
  unfold frameOn
  extract_lets -merge -underBinder +onlyGivenNames x0 x1
  obtain ⟨y1, e1, h1⟩ := Keeps.name (x := x1) (keeps_State_setTg g0)
  rw [e1]
  extract_lets -merge -underBinder +onlyGivenNames x2
  obtain ⟨y2, e2, h2⟩ := Keeps.name (x := x2) (.ite (keeps_followPair h1) (keeps_lockFrame h1))
  rw [e2]
  extract_lets -merge -underBinder +onlyGivenNames x3
  obtain ⟨y3, e3, h3⟩ := Keeps.name (x := x3) (keeps_applyTrim (keeps_blankFrame h2))
  rw [e3]
  extract_lets -merge -underBinder +onlyGivenNames x4
  obtain ⟨y4, e4, h4⟩ := Keeps.name (x := x4) (keeps_slatesSeen h3)
  rw [e4]
  extract_lets -merge -underBinder +onlyGivenNames x5
  obtain ⟨y5, e5, h5⟩ := Keeps.name (x := x5) (keeps_dpDepth h4)
  rw [e5]
  extract_lets -merge -underBinder +onlyGivenNames x6 x7
  obtain ⟨y7, e7, h7⟩ := Keeps.name (x := x7) (keeps_sendMsa (keeps_State_setDp h5))
  rw [e7]
  extract_lets -merge -underBinder +onlyGivenNames x8
  obtain ⟨y8, e8, h8⟩ := Keeps.name (x := x8) (.ite h7 (keeps_resumeChecks h7))
  rw [e8]
  extract_lets -merge -underBinder +onlyGivenNames x9
  obtain ⟨y9, e9, h9⟩ := Keeps.name (s := s) (x := x9) (by
    unfold x9
    refine Keeps.foldl ?_ ?_
    · exact h8
    · intro x10 a10 h10
      extract_lets -merge -underBinder +onlyGivenNames x11
      exact (keeps_State_setChk h10))
  rw [e9]
  extract_lets -merge -underBinder +onlyGivenNames x12 x13 x14
  obtain ⟨y14, e14, h14⟩ := Keeps.name (x := x14) (h9.cong rfl)
  rw [e14]
  extract_lets -merge -underBinder +onlyGivenNames x15
  obtain ⟨y15, e15, h15⟩ := Keeps.name (x := x15) (.ite (keeps_State_untrigger h14) h14)
  rw [e15]
  extract_lets -merge -underBinder +onlyGivenNames x16
  split
  · exact keeps_State_finish (keeps_State_setTg h15)
  · exact h15

theorem keeps_startFrame {s v0 v1} (g0 : Keeps s v0) : Keeps s (startFrame v0 v1) := by
  unfold startFrame
  extract_lets -merge -underBinder +onlyGivenNames x0
  obtain ⟨y0, e0, h0⟩ := Keeps.name (x := x0) (keeps_frameOn g0)
  rw [e0]
  exact .ite (keeps_frameOn h0) h0

theorem keeps_frameBoundary {s v0 v1} (g0 : Keeps s v0) : Keeps s (frameBoundary v0 v1) := by
  unfold frameBoundary
  refine Keeps.ite ?_ ?_
  · extract_lets -merge -underBinder +onlyGivenNames x0
    obtain ⟨y0, e0, h0⟩ := Keeps.name (x := x0) (keeps_stopGen g0)
    rw [e0]
    exact .ite (keeps_stopGen h0) h0
  · exact keeps_startFrame g0

theorem keeps_doFrameStart {s v0 v1} (g0 : Keeps s v0) : Keeps s (doFrameStart v0 v1) := by
  unfold doFrameStart
  extract_lets -merge -underBinder +onlyGivenNames x0
  exact .ite g0 (keeps_frameBoundary g0)

theorem keeps_cmpFault {s v0 v1 v2} (g0 : Keeps s v0) : Keeps s (cmpFault v0 v1 v2) := by
  unfold cmpFault
  extract_lets -merge -underBinder +onlyGivenNames x0
  obtain ⟨y0, e0, h0⟩ := Keeps.name (x := x0) (.ite g0 (keeps_State_setReg (keeps_State_setReg g0)))
  rw [e0]
  exact keeps_State_raiseLimited h0

theorem keeps_pipeCheck {s v0 v1 v2 v3} (g0 : Keeps s v0) : Keeps s (pipeCheck v0 v1 v2 v3).1 := by
  unfold pipeCheck
  split
  · refine Keeps.mk1 ?_
    exact g0
  · refine Keeps.mk1 ?_
    exact keeps_cmpFault (keeps_State_mpuDeny g0)

theorem keeps_pipePages {s v0 v1 v2 v3} (g0 : Keeps s v0) : Keeps s (pipePages v0 v1 v2 v3).1 := by
  unfold pipePages
  refine Keeps.foldl1 ?_ ?_
  · refine Keeps.mk1 ?_
    exact g0
  · intro x0 a0 h0
    split
    rename_i x1 y1_1 e1
    have h1 : Keeps s x1 := Keeps.of_1 e1 (by
      refine keeps_pipeCheck ?_
      exact h0)
    refine Keeps.mk1 ?_
    exact h1

theorem keeps_paceReady {s v0 v1 v2 v3 v4 v5} (g0 : Keeps s v0) : Keeps s (paceReady v0 v1 v2 v3 v4 v5).1 := by
  unfold paceReady
  split
  rename_i x0 y0_1 e0
  have h0 : Keeps s x0 := Keeps.of_1 e0 (by
    refine keeps_pipeCheck ?_
    exact g0)
  extract_lets -merge -underBinder +onlyGivenNames x1 x2 x3 x4 x5
  split
  rename_i x6 y6_1 e6
  have h6 : Keeps s x6 := Keeps.of_1 e6 (by
    refine Keeps.ite1 ?_ ?_
    · refine keeps_pipeCheck ?_
      exact h0
    · refine Keeps.mk1 ?_
      exact h0)
  refine Keeps.mk1 ?_
  exact h6

theorem keeps_paceMaxed {s v0 v1} (g0 : Keeps s v0) : Keeps s (paceMaxed v0 v1) := by
  unfold paceMaxed
  extract_lets -merge -underBinder +onlyGivenNames x0
  obtain ⟨y0, e0, h0⟩ := Keeps.name (x := x0) (keeps_State_bump g0)
  rw [e0]
  extract_lets -merge -underBinder +onlyGivenNames x1 x2
  obtain ⟨y2, e2, h2⟩ := Keeps.name (x := x2) (keeps_State_setTg h0)
  rw [e2]
  extract_lets -merge -underBinder +onlyGivenNames x3
  refine Keeps.ite ?_ ?_
  · extract_lets -merge -underBinder +onlyGivenNames x4
    obtain ⟨y4, e4, h4⟩ := Keeps.name (x := x4) (keeps_State_raise (keeps_State_rateMark h2))
    rw [e4]
    exact keeps_State_setTg h4
  · exact h2

theorem keeps_doVblankLine {s v0 v1} (g0 : Keeps s v0) : Keeps s (doVblankLine v0 v1) := by
  unfold doVblankLine
  extract_lets -merge -underBinder +onlyGivenNames x0
  refine Keeps.ite ?_ ?_
  · exact g0
  · split
    · exact g0
    · extract_lets -merge -underBinder +onlyGivenNames x1
      obtain ⟨y1, e1, h1⟩ := Keeps.name (x := x1) (keeps_atBoundary g0)
      rw [e1]
      extract_lets -merge -underBinder +onlyGivenNames x2
      obtain ⟨y2, e2, h2⟩ := Keeps.name (x := x2) (.ite (keeps_atBoundary h1) h1)
      rw [e2]
      split
      · exact keeps_State_setTg h2
      · split
        rename_i x3 y3_1 e3
        have h3 : Keeps s x3 := Keeps.of_1 e3 (by
          refine keeps_paceReady ?_
          exact h2)
        extract_lets -merge -underBinder +onlyGivenNames x4 x5 x6
        obtain ⟨y6, e6, h6⟩ := Keeps.name (x := x6) (keeps_State_setTg h3)
        rw [e6]
        extract_lets -merge -underBinder +onlyGivenNames x7 x8
        exact (.ite h6 (.ite (keeps_frameBoundary h6) (.ite (keeps_frameBoundary (keeps_paceMaxed h6)) h6)))

theorem keeps_addReading {s v0 v1 v2 v3} (g0 : Keeps s v0) : Keeps s (addReading v0 v1 v2 v3) := by
  unfold addReading
  exact g0.cong rfl

theorem keeps_latchNone {s v0 v1 v2} (g0 : Keeps s v0) : Keeps s (latchNone v0 v1 v2) := by
  unfold latchNone
  exact keeps_State_setTile g0

theorem keeps_doRecordLatch {s v0 v1} (g0 : Keeps s v0) : Keeps s (doRecordLatch v0 v1) := by
  unfold doRecordLatch
  extract_lets -merge -underBinder +onlyGivenNames x0
  split
  · exact g0
  · refine Keeps.ite ?_ ?_
    · exact g0
    · split
      · exact keeps_latchNone g0
      · split
        rename_i x1 y1_1 e1
        have h1 : Keeps s x1 := Keeps.of_1 e1 (by
          refine keeps_pipeCheck ?_
          exact g0)
        refine Keeps.ite ?_ ?_
        · exact keeps_latchNone h1
        · extract_lets -merge -underBinder +onlyGivenNames x2 x3 x4 x5 x6 x7 x8 x9 x10 x11
          split
          rename_i x12 y12_1 e12
          have h12 : Keeps s x12 := Keeps.of_1 e12 (by
            refine Keeps.ite1 ?_ ?_
            · refine keeps_pipeCheck ?_
              exact h1
            · refine Keeps.mk1 ?_
              exact h1)
          extract_lets -merge -underBinder +onlyGivenNames x13 x14 x15 x16
          obtain ⟨y16, e16, h16⟩ := Keeps.name (x := x16) (keeps_State_setTile h12)
          rw [e16]
          extract_lets -merge -underBinder +onlyGivenNames x17 x18 x19
          obtain ⟨y19, e19, h19⟩ := Keeps.name (x := x19) (keeps_addReading h16)
          rw [e19]
          extract_lets -merge -underBinder +onlyGivenNames x20
          refine Keeps.foldl ?_ ?_
          · exact h19
          · intro x21 a21 h21
            extract_lets -merge -underBinder +onlyGivenNames x22
            exact .ite (keeps_State_setTg h21) h21

theorem keeps_selfMismatch {s v0 v1 v2 v3} (g0 : Keeps s v0) : Keeps s (selfMismatch v0 v1 v2 v3) := by
  unfold selfMismatch
  extract_lets -merge -underBinder +onlyGivenNames x0 x1
  obtain ⟨y1, e1, h1⟩ := Keeps.name (x := x1) (keeps_State_bump g0)
  rw [e1]
  extract_lets -merge -underBinder +onlyGivenNames x2
  obtain ⟨y2, e2, h2⟩ := Keeps.name (x := x2) (.ite h1 (keeps_State_setReg (keeps_State_setReg (keeps_State_setReg h1))))
  rw [e2]
  extract_lets -merge -underBinder +onlyGivenNames x3
  obtain ⟨y3, e3, h3⟩ := Keeps.name (x := x3) (keeps_State_raise h2)
  rw [e3]
  exact keeps_State_trigger (h3.cong rfl)

theorem keeps_negAge {s v0 v1 v2} (g0 : Keeps s v0) : Keeps s (negAge v0 v1 v2) := by
  unfold negAge
  extract_lets -merge -underBinder +onlyGivenNames x0 x1 x2
  obtain ⟨y2, e2, h2⟩ := Keeps.name (x := x2) (keeps_State_bump (g0.cong rfl))
  rw [e2]
  exact keeps_State_raiseLimited h2

theorem keeps_raiseTile {s v0 v1 v2 v3 v4 v5} (g0 : Keeps s v0) : Keeps s (raiseTile v0 v1 v2 v3 v4 v5) := by
  unfold raiseTile
  extract_lets -merge -underBinder +onlyGivenNames x0
  exact keeps_pairAlarm (keeps_State_raise g0)

theorem keeps_tileChange {s v0 v1 v2 v3} (g0 : Keeps s v0) : Keeps s (tileChange v0 v1 v2 v3) := by
  unfold tileChange
  extract_lets -merge -underBinder +onlyGivenNames x0
  exact (.ite g0 (.ite (keeps_State_setTile g0) (keeps_raiseTile (keeps_State_setTile g0))))

theorem keeps_doTileWindowEnd {s v0 v1} (g0 : Keeps s v0) : Keeps s (doTileWindowEnd v0 v1) := by
  unfold doTileWindowEnd
  extract_lets -merge -underBinder +onlyGivenNames x0 x1
  obtain ⟨y1, e1, h1⟩ := Keeps.name (x := x1) (keeps_State_setTile g0)
  rw [e1]
  exact .ite (keeps_raiseTile h1) h1

theorem keeps_assess {s v0 v1 v2} (g0 : Keeps s v0) : Keeps s (assess v0 v1 v2) := by
  unfold assess
  extract_lets -merge -underBinder +onlyGivenNames x0 x1 x2 x3
  obtain ⟨y3, e3, h3⟩ := Keeps.name (x := x3) (.ite (keeps_selfMismatch g0) g0)
  rw [e3]
  extract_lets -merge -underBinder +onlyGivenNames x4 x5
  exact keeps_State_setTile h3

theorem keeps_doScanStart {s v0 v1} (g0 : Keeps s v0) : Keeps s (doScanStart v0 v1) := by
  unfold doScanStart
  extract_lets -merge -underBinder +onlyGivenNames x0
  split
  · exact g0
  · split
    · exact g0
    · refine Keeps.ite ?_ ?_
      · exact g0
      · extract_lets -merge -underBinder +onlyGivenNames x1
        obtain ⟨y1, e1, h1⟩ := Keeps.name (x := x1) (.ite (keeps_doRecordLatch g0) g0)
        rw [e1]
        extract_lets -merge -underBinder +onlyGivenNames x2 x3 x4 x5 x6
        split
        rename_i x7 y7_1 e7
        have h7 : Keeps s x7 := Keeps.of_1 e7 (by
          clear_value x5
          clear_value x6
          split
          · refine keeps_pipePages ?_
            exact h1
          · refine Keeps.mk1 ?_
            exact h1)
        extract_lets -merge -underBinder +onlyGivenNames x8 x9
        split
        · extract_lets -merge -underBinder +onlyGivenNames x10 x11 x12
          obtain ⟨y12, e12, h12⟩ := Keeps.name (x := x12) (keeps_State_setTile h7)
          rw [e12]
          extract_lets -merge -underBinder +onlyGivenNames x13 x14
          obtain ⟨y14, e14, h14⟩ := Keeps.name (x := x14) (.ite (keeps_negAge h12) h12)
          rw [e14]
          extract_lets -merge -underBinder +onlyGivenNames x15
          obtain ⟨y15, e15, h15⟩ := Keeps.name (x := x15) (keeps_assess h14)
          rw [e15]
          extract_lets -merge -underBinder +onlyGivenNames x16 x17
          obtain ⟨y17, e17, h17⟩ := Keeps.name (x := x17) (keeps_State_setTile h15)
          rw [e17]
          exact keeps_tileChange h17

theorem keeps_escalate {s v0 v1 v2 v3 v4 v5} (g0 : Keeps s v0) : Keeps s (escalate v0 v1 v2 v3 v4 v5) := by
  unfold escalate
  extract_lets -merge -underBinder +onlyGivenNames x0 x1 x2
  obtain ⟨y2, e2, h2⟩ := Keeps.name (x := x2) (keeps_State_setTile g0)
  rw [e2]
  extract_lets -merge -underBinder +onlyGivenNames x3
  obtain ⟨y3, e3, h3⟩ := Keeps.name (x := x3) (keeps_assess h2)
  rw [e3]
  exact keeps_tileChange h3

theorem keeps_raceFault {s v0 v1 v2 v3 v4 v5 v6 v7} (g0 : Keeps s v0) : Keeps s (raceFault v0 v1 v2 v3 v4 v5 v6 v7) := by
  unfold raceFault
  extract_lets -merge -underBinder +onlyGivenNames x0
  obtain ⟨y0, e0, h0⟩ := Keeps.name (x := x0) (keeps_State_bump g0)
  rw [e0]
  extract_lets -merge -underBinder +onlyGivenNames x1
  obtain ⟨y1, e1, h1⟩ := Keeps.name (x := x1) (keeps_State_raiseLimited h0)
  rw [e1]
  extract_lets -merge -underBinder +onlyGivenNames x2 x3
  obtain ⟨y3, e3, h3⟩ := Keeps.name (x := x3) (keeps_State_setTile h1)
  rw [e3]
  split
  · extract_lets -merge -underBinder +onlyGivenNames x4
    exact keeps_escalate h3

theorem keeps_missAt {s v0 v1 v2} (g0 : Keeps s v0) : Keeps s (missAt v0 v1 v2) := by
  unfold missAt
  extract_lets -merge -underBinder +onlyGivenNames x0
  exact keeps_escalate (keeps_State_setTile g0)

theorem keeps_raceLine {s v0 v1 v2 v3} (g0 : Keeps s v0) : Keeps s (raceLine v0 v1 v2 v3) := by
  unfold raceLine
  extract_lets -merge -underBinder +onlyGivenNames x0 x1
  split
  · refine Keeps.ite ?_ ?_
    · exact g0
    · split
      · extract_lets -merge -underBinder +onlyGivenNames x2
        split
        rename_i x3 y3_1 e3
        have h3 : Keeps s x3 := Keeps.of_1 e3 (by
          refine keeps_pipeCheck ?_
          exact g0)
        split
        rename_i x4 y4_1 e4
        have h4 : Keeps s x4 := Keeps.of_1 e4 (by
          refine keeps_pipePages ?_
          exact h3)
        refine Keeps.ite ?_ ?_
        · exact keeps_missAt h4
        · extract_lets -merge -underBinder +onlyGivenNames x5 x6
          refine Keeps.ite ?_ ?_
          · exact keeps_raceFault h4
          · extract_lets -merge -underBinder +onlyGivenNames x7 x8 x9 x10 x11 x12 x13
            exact .ite (keeps_escalate h4) h4
  · exact g0

theorem keeps_underrun {s v0 v1 v2 v3} (g0 : Keeps s v0) : Keeps s (underrun v0 v1 v2 v3) := by
  unfold underrun
  extract_lets -merge -underBinder +onlyGivenNames x0 x1
  obtain ⟨y1, e1, h1⟩ := Keeps.name (x := x1) (keeps_State_bump g0)
  rw [e1]
  extract_lets -merge -underBinder +onlyGivenNames x2
  obtain ⟨y2, e2, h2⟩ := Keeps.name (x := x2) (keeps_State_raiseLimited h1)
  rw [e2]
  exact keeps_escalate h2

theorem keeps_checkReads {s v0 v1 v2 v3} (g0 : Keeps s v0) : Keeps s (checkReads v0 v1 v2 v3) := by
  unfold checkReads
  refine Keeps.ite ?_ ?_
  · exact g0
  · split
    · exact g0
    · refine Keeps.foldl ?_ ?_
      · exact g0
      · intro x0 a0 h0
        refine keeps_pipeCheck ?_
        exact h0

theorem keeps_checkSlateRow {s v0 v1 v2 v3 v4} (g0 : Keeps s v0) : Keeps s (checkSlateRow v0 v1 v2 v3 v4) := by
  unfold checkSlateRow
  extract_lets -merge -underBinder +onlyGivenNames x0 x1
  refine Keeps.ite ?_ ?_
  · refine keeps_pipeCheck ?_
    exact g0
  · exact g0

theorem keeps_checkSlates {s v0 v1 v2 v3} (g0 : Keeps s v0) : Keeps s (checkSlates v0 v1 v2 v3) := by
  unfold checkSlates
  extract_lets -merge -underBinder +onlyGivenNames x0
  obtain ⟨y0, e0, h0⟩ := Keeps.name (s := s) (x := x0) (by
    unfold x0
    refine Keeps.foldl ?_ ?_
    · exact g0
    · intro x1 a1 h1
      extract_lets -merge -underBinder +onlyGivenNames x2
      exact (.ite (keeps_checkSlateRow h1) h1))
  rw [e0]
  extract_lets -merge -underBinder +onlyGivenNames x3
  exact .ite (keeps_checkSlateRow h0) h0

theorem keeps_crcLine {s v0 v1 v2 v3 v4 v5} (g0 : Keeps s v0) : Keeps s (crcLine v0 v1 v2 v3 v4 v5) := by
  unfold crcLine
  refine Keeps.foldl ?_ ?_
  · exact g0
  · intro x0 a0 h0
    extract_lets -merge -underBinder +onlyGivenNames x1
    refine Keeps.ite ?_ ?_
    · exact h0
    · extract_lets -merge -underBinder +onlyGivenNames x2
      exact keeps_State_setChk h0

theorem keeps_pipeLine {s v0 v1 v2 v3} (g0 : Keeps s v0) : Keeps s (pipeLine v0 v1 v2 v3).1 := by
  unfold pipeLine
  split
  · extract_lets -merge -underBinder +onlyGivenNames x0 x1
    obtain ⟨y1, e1, h1⟩ := Keeps.name (s := s) (x := x1) (by
      unfold x1
      refine Keeps.foldl ?_ ?_
      · exact g0
      · intro x2 a2 h2
        exact (keeps_raceLine h2))
    rw [e1]
    extract_lets -merge -underBinder +onlyGivenNames x3 x4
    obtain ⟨y4, e4, h4⟩ := Keeps.name (s := s) (x := x4) (by
      unfold x4
      refine Keeps.foldl ?_ ?_
      · exact h1
      · intro x5 a5 h5
        exact (.ite (keeps_underrun h5) (keeps_checkReads h5)))
    rw [e4]
    extract_lets -merge -underBinder +onlyGivenNames x6
    obtain ⟨y6, e6, h6⟩ := Keeps.name (x := x6) (keeps_checkSlates h4)
    rw [e6]
    extract_lets -merge -underBinder +onlyGivenNames x7 x8 x9 x10
    obtain ⟨y10, e10, h10⟩ := Keeps.name (s := s) (x := x10) (by
      unfold x10
      refine Keeps.foldl ?_ ?_
      · exact h6
      · intro x11 a11 h11
        exact (keeps_State_setTile h11))
    rw [e10]
    refine Keeps.mk1 ?_
    exact h10

theorem keeps_endActive {s v0 v1} (g0 : Keeps s v0) : Keeps s (endActive v0 v1) := by
  unfold endActive
  extract_lets -merge -underBinder +onlyGivenNames x0 x1 x2
  obtain ⟨y2, e2, h2⟩ := Keeps.name (x := x2) (g0.cong rfl)
  rw [e2]
  exact keeps_settleReleases h2

theorem keeps_tapLine {s v0 v1 v2 v3} (g0 : Keeps s v0) : Keeps s (tapLine v0 v1 v2 v3) := by
  unfold tapLine
  extract_lets -merge -underBinder +onlyGivenNames x0
  exact keeps_feedLine (keeps_State_emit g0)

theorem keeps_doOutputLine {s v0 v1 v2 v3 v4} (g0 : Keeps s v0) : Keeps s (doOutputLine v0 v1 v2 v3 v4) := by
  unfold doOutputLine
  extract_lets -merge -underBinder +onlyGivenNames x0
  split
  · refine Keeps.ite ?_ ?_
    · exact g0
    · extract_lets -merge -underBinder +onlyGivenNames x1
      obtain ⟨y1, e1, h1⟩ := Keeps.name (x := x1) (keeps_State_setTg g0)
      rw [e1]
      split
      rename_i x2 y2_1 e2
      have h2 : Keeps s x2 := Keeps.of_1 e2 (by
        refine Keeps.ite1 ?_ ?_
        · refine Keeps.mk1 ?_
          exact h1
        · refine Keeps.ite1 ?_ ?_
          · refine Keeps.mk1 ?_
            exact h1
          · refine keeps_pipeLine ?_
            exact h1)
      extract_lets -merge -underBinder +onlyGivenNames x3
      obtain ⟨y3, e3, h3⟩ := Keeps.name (x := x3) (.ite (keeps_tapLine h2) h2)
      rw [e3]
      extract_lets -merge -underBinder +onlyGivenNames x4 x5 x6 x7 x8 x9
      obtain ⟨y9, e9, h9⟩ := Keeps.name (x := x9) (keeps_crcLine h3)
      rw [e9]
      extract_lets -merge -underBinder +onlyGivenNames x10
      obtain ⟨y10, e10, h10⟩ := Keeps.name (x := x10) (.ite (keeps_State_emit h9) h9)
      rw [e10]
      exact .ite (keeps_endActive h10) h10

theorem keeps_settleRelq {s v0} (g0 : Keeps s v0) : Keeps s (settleRelq v0) := by
  unfold settleRelq
  exact .ite g0 (keeps_State_untrigger g0)

theorem keeps_applyChk {s v0 v1} (g0 : Keeps s v0) : Keeps s (applyChk v0 v1) := by
  unfold applyChk
  extract_lets -merge -underBinder +onlyGivenNames x0 x1 x2 x3
  obtain ⟨y3, e3, h3⟩ := Keeps.name (x := x3) (keeps_State_setChk g0)
  rw [e3]
  extract_lets -merge -underBinder +onlyGivenNames x4
  obtain ⟨y4, e4, h4⟩ := Keeps.name (x := x4) (keeps_settleRelq h3)
  rw [e4]
  extract_lets -merge -underBinder +onlyGivenNames x5
  obtain ⟨y5, e5, h5⟩ := Keeps.name (x := x5) (keeps_chkReport h4)
  rw [e5]
  extract_lets -merge -underBinder +onlyGivenNames x6 x7
  obtain ⟨y7, e7, h7⟩ := Keeps.name (x := x7) (keeps_State_setPipe h5)
  rw [e7]
  exact keeps_State_finish h7

theorem keeps_doCheckCfg {s v0 v1} (g0 : Keeps s v0) : Keeps s (doCheckCfg v0 v1) := by
  unfold doCheckCfg
  extract_lets -merge -underBinder +onlyGivenNames x0
  refine keeps_runJob ?_ ?_
  · exact g0
  · intro x1_0 h1_0
    refine Keeps.ite ?_ ?_
    · extract_lets -merge -underBinder +onlyGivenNames x2
      exact keeps_State_setChk h1_0
    · exact keeps_applyChk h1_0

theorem keeps_doCheckCfgApply {s v0 v1} (g0 : Keeps s v0) : Keeps s (doCheckCfgApply v0 v1) := by
  unfold doCheckCfgApply
  extract_lets -merge -underBinder +onlyGivenNames x0
  refine Keeps.foldl ?_ ?_
  · exact keeps_State_setChk g0
  · intro x1 a1 h1
    exact keeps_applyChk h1

theorem keeps_doCheckResult {s v0 v1} (g0 : Keeps s v0) : Keeps s (doCheckResult v0 v1) := by
  unfold doCheckResult
  extract_lets -merge -underBinder +onlyGivenNames x0 x1 x2
  refine Keeps.ite ?_ ?_
  · exact g0
  · extract_lets -merge -underBinder +onlyGivenNames x3 x4 x5 x6 x7 x8 x9
    obtain ⟨y9, e9, h9⟩ := Keeps.name (x := x9) (keeps_State_setChk g0)
    rw [e9]
    extract_lets -merge -underBinder +onlyGivenNames x10
    obtain ⟨y10, e10, h10⟩ := Keeps.name (x := x10) (.ite (keeps_State_bump h9) (keeps_settleRelq h9))
    rw [e10]
    extract_lets -merge -underBinder +onlyGivenNames x11
    obtain ⟨y11, e11, h11⟩ := Keeps.name (x := x11) (keeps_chkReport h10)
    rw [e11]
    extract_lets -merge -underBinder +onlyGivenNames x12 x13
    obtain ⟨y13, e13, h13⟩ := Keeps.name (x := x13) (.ite (keeps_State_setPipe h11) h11)
    rw [e13]
    refine Keeps.ite ?_ ?_
    · extract_lets -merge -underBinder +onlyGivenNames x14
      obtain ⟨y14, e14, h14⟩ := Keeps.name (x := x14) (keeps_State_raise h13)
      rw [e14]
      exact keeps_State_trigger h14
    · exact h13

end Machine
end Sys2Proof
end

