-- ==== Sys2Proof/Laws/KeepsStreams.lean ====
section
/-! SUPPORT. What encoders, host memory copies, touch ports and lanes keep, said once for each operation: the memory stays canonical, the pins follow the pair
state, the lifecycle is one-way, the bar and locked MPU regions stay, the queue is untouched, what was put out stays, and the clock never
goes back. A lemma keeps_f says it of the operation f. -/

set_option Elab.async false

namespace Sys2Proof
namespace Machine

theorem keeps_State_setEnc {s v0 v1 v2} (g0 : Keeps s v0) : Keeps s (State.setEnc v0 v1 v2) := by
  unfold State.setEnc
  exact g0.cong rfl

theorem keeps_doEncOpen {s v0 v1} (g0 : Keeps s v0) : Keeps s (doEncOpen v0 v1) := by
  unfold doEncOpen
  extract_lets -merge -underBinder +onlyGivenNames x0 x1
  refine keeps_runJob ?_ ?_
  · exact g0
  · intro x2_0 h2_0
    extract_lets -merge -underBinder +onlyGivenNames x3 x4 x5 x6
    obtain ⟨y6, e6, h6⟩ := Keeps.name (s := s) (x := x6) (by
      unfold x6
      refine Keeps.foldl ?_ ?_
      · exact keeps_State_setEnc h2_0
      · intro x7 a7 h7
        exact (keeps_State_setReg h7))
    rw [e6]
    exact keeps_State_finish h6

theorem keeps_doEncParams {s v0 v1} (g0 : Keeps s v0) : Keeps s (doEncParams v0 v1) := by
  unfold doEncParams
  extract_lets -merge -underBinder +onlyGivenNames x0
  refine keeps_runJob ?_ ?_
  · exact g0
  · intro x1_0 h1_0
    exact keeps_State_finish (keeps_State_setEnc h1_0)

theorem keeps_bufDone {s v0 v1 v2} (g0 : Keeps s v0) : Keeps s (bufDone v0 v1 v2) := by
  unfold bufDone
  exact keeps_State_finishDma g0

theorem keeps_settleEncClose {s v0 v1} (g0 : Keeps s v0) : Keeps s (settleEncClose v0 v1) := by
  unfold settleEncClose
  extract_lets -merge -underBinder +onlyGivenNames x0
  split
  · refine Keeps.ite ?_ ?_
    · extract_lets -merge -underBinder +onlyGivenNames x1
      obtain ⟨y1, e1, h1⟩ := Keeps.name (s := s) (x := x1) (by
        unfold x1
        refine Keeps.foldl ?_ ?_
        · exact g0
        · intro x2 a2 h2
          exact (keeps_State_finish h2))
      rw [e1]
      exact keeps_State_finish (keeps_State_setEnc h1)
    · exact g0
  · exact g0

theorem keeps_doEncClose {s v0 v1} (g0 : Keeps s v0) : Keeps s (doEncClose v0 v1) := by
  unfold doEncClose
  extract_lets -merge -underBinder +onlyGivenNames x0
  refine keeps_runJob ?_ ?_
  · exact g0
  · intro x1_0 h1_0
    extract_lets -merge -underBinder +onlyGivenNames x2 x3
    exact keeps_settleEncClose (keeps_State_setEnc h1_0)

theorem keeps_doEncOutbuf {s v0 v1} (g0 : Keeps s v0) : Keeps s (doEncOutbuf v0 v1) := by
  unfold doEncOutbuf
  extract_lets -merge -underBinder +onlyGivenNames x0
  refine keeps_runJob ?_ ?_
  · exact g0
  · intro x1_0 h1_0
    exact keeps_State_setEnc h1_0

theorem keeps_encDrop {s v0 v1 v2 v3} (g0 : Keeps s v0) : Keeps s (encDrop v0 v1 v2 v3) := by
  unfold encDrop
  extract_lets -merge -underBinder +onlyGivenNames x0
  obtain ⟨y0, e0, h0⟩ := Keeps.name (x := x0) (keeps_State_bump g0)
  rw [e0]
  exact keeps_State_raiseLimited h0

theorem keeps_encKeepEvent {s v0 v1 v2} (g0 : Keeps s v0) : Keeps s (encKeepEvent v0 v1 v2) := by
  unfold encKeepEvent
  exact keeps_State_raise g0

theorem keeps_startQp {s v0 v1} (g0 : Keeps s v0) : Keeps s (startQp v0 v1).2 := by
  unfold startQp
  split
  rename_i y0_0 x0 e0
  have h0 : Keeps s x0 := Keeps.of_2 e0 (by
    refine keeps_State_fresh ?_
    exact g0)
  refine Keeps.ite2 ?_ ?_
  · refine Keeps.mk2 ?_
    exact h0
  · split
    · refine Keeps.mk2 ?_
      exact h0
    · refine Keeps.mk2 ?_
      exact h0

theorem keeps_beginPicture {s v0 v1 v2 v3 v4} (g0 : Keeps s v0) : Keeps s (beginPicture v0 v1 v2 v3 v4) := by
  unfold beginPicture
  extract_lets -merge -underBinder +onlyGivenNames x0 x1
  split
  rename_i y2_0 x2 e2
  have h2 : Keeps s x2 := Keeps.of_2 e2 (by
    refine keeps_startQp ?_
    exact g0)
  split
  rename_i y3_0 x3 e3
  have h3 : Keeps s x3 := Keeps.of_2 e3 (by
    refine keeps_State_fresh ?_
    exact h2)
  split
  rename_i y4_0 x4 e4
  have h4 : Keeps s x4 := Keeps.of_2 e4 (by
    refine keeps_State_fresh ?_
    exact h3)
  extract_lets -merge -underBinder +onlyGivenNames x5 x6 x7 x8 x9
  exact keeps_State_setEnc h4

theorem keeps_setAtBound {s v0 v1 v2 v3 v4} (g0 : Keeps s v0) : Keeps s (setAtBound v0 v1 v2 v3 v4) := by
  unfold setAtBound
  extract_lets -merge -underBinder +onlyGivenNames x0 x1 x2
  obtain ⟨y2, e2, h2⟩ := Keeps.name (x := x2) (keeps_State_setEnc g0)
  rw [e2]
  exact .ite (keeps_State_raise h2) h2

theorem keeps_endEncPicture {s v0 v1 v2} (g0 : Keeps s v0) : Keeps s (endEncPicture v0 v1 v2) := by
  unfold endEncPicture
  extract_lets -merge -underBinder +onlyGivenNames x0 x1 x2 x3
  obtain ⟨y3, e3, h3⟩ := Keeps.name (x := x3) (keeps_State_setEnc g0)
  rw [e3]
  extract_lets -merge -underBinder +onlyGivenNames x4
  obtain ⟨y4, e4, h4⟩ := Keeps.name (x := x4) (keeps_State_setReg h3)
  rw [e4]
  extract_lets -merge -underBinder +onlyGivenNames x5
  obtain ⟨y5, e5, h5⟩ := Keeps.name (x := x5) (keeps_State_setReg h4)
  rw [e5]
  extract_lets -merge -underBinder +onlyGivenNames x6
  obtain ⟨y6, e6, h6⟩ := Keeps.name (x := x6) (keeps_State_setReg h5)
  rw [e6]
  exact .ite (keeps_State_raiseLimited h6) h6

theorem keeps_emitSlice {s v0 v1 v2 v3 v4 v5 v6} (g0 : Keeps s v0) : Keeps s (emitSlice v0 v1 v2 v3 v4 v5 v6) := by
  unfold emitSlice
  extract_lets -merge -underBinder +onlyGivenNames x0 x1 x2 x3 x4 x5 x6 x7 x8 x9 x10 x11 x12 x13 x14
  obtain ⟨y14, e14, h14⟩ := Keeps.name (x := x14) (keeps_State_setEnc g0)
  rw [e14]
  extract_lets -merge -underBinder +onlyGivenNames x15
  obtain ⟨y15, e15, h15⟩ := Keeps.name (x := x15) (.ite (keeps_State_bump h14) h14)
  rw [e15]
  exact .ite (keeps_endEncPicture h15) h15

theorem keeps_holdSlice {s v0 v1 v2 v3} (g0 : Keeps s v0) : Keeps s (holdSlice v0 v1 v2 v3) := by
  unfold holdSlice
  extract_lets -merge -underBinder +onlyGivenNames x0
  obtain ⟨y0, e0, h0⟩ := Keeps.name (x := x0) (keeps_emitSlice g0)
  rw [e0]
  exact keeps_setAtBound h0

theorem keeps_codeSlice {s v0 v1 v2 v3} (g0 : Keeps s v0) : Keeps s (codeSlice v0 v1 v2 v3) := by
  unfold codeSlice
  extract_lets -merge -underBinder +onlyGivenNames x0
  split
  rename_i y1_0 x1 e1
  have h1 : Keeps s x1 := Keeps.of_2 e1 (by
    refine keeps_State_fresh ?_
    exact g0)
  split
  rename_i y2_0 x2 e2
  have h2 : Keeps s x2 := Keeps.of_2 e2 (by
    refine keeps_State_fresh ?_
    exact h1)
  extract_lets -merge -underBinder +onlyGivenNames x3 x4 x5 x6 x7 x8 x9 x10
  refine Keeps.ite ?_ ?_
  · exact keeps_holdSlice h2
  · extract_lets -merge -underBinder +onlyGivenNames x11 x12
    refine Keeps.ite ?_ ?_
    · exact keeps_holdSlice h2
    · extract_lets -merge -underBinder +onlyGivenNames x13
      obtain ⟨y13, e13, h13⟩ := Keeps.name (x := x13) (keeps_emitSlice h2)
      rw [e13]
      exact keeps_setAtBound h13

theorem keeps_doSliceCoding {s v0 v1 v2} (g0 : Keeps s v0) : Keeps s (doSliceCoding v0 v1 v2) := by
  unfold doSliceCoding
  split
  · exact g0
  · exact (.ite g0 (keeps_settleEncClose (keeps_codeSlice g0)))

theorem keeps_holdRest {s v0 v1 v2} (g1 : Keeps s v1) : Keeps s (holdRest v0 v1 v2) := by
  induction v0 generalizing v1 v2 with
  | zero =>
    rw [holdRest]
    exact g1
  | succ v ih =>
    rw [holdRest]
    split
    · exact g1
    · split
      rename_i y0_0 x0 e0
      have h0 : Keeps s x0 := Keeps.of_2 e0 (by
        refine keeps_State_fresh ?_
        exact g1)
      exact ih (keeps_holdSlice h0)

theorem keeps_finishEncPicture {s v0 v1} (g0 : Keeps s v0) : Keeps s (finishEncPicture v0 v1) := by
  unfold finishEncPicture
  split
  · exact keeps_holdRest g0
  · exact g0

theorem keeps_doEncStart {s v0 v1} (g0 : Keeps s v0) : Keeps s (doEncStart v0 v1) := by
  unfold doEncStart
  extract_lets -merge -underBinder +onlyGivenNames x0
  refine Keeps.ite ?_ ?_
  · exact g0
  · extract_lets -merge -underBinder +onlyGivenNames x1 x2
    obtain ⟨y2, e2, h2⟩ := Keeps.name (x := x2) (keeps_State_setEnc g0)
    rw [e2]
    extract_lets -merge -underBinder +onlyGivenNames x3
    obtain ⟨y3, e3, h3⟩ := Keeps.name (x := x3) (.ite (.ite (keeps_encKeepEvent h2) h2) g0)
    rw [e3]
    extract_lets -merge -underBinder +onlyGivenNames x4 x5
    obtain ⟨y5, e5, h5⟩ := Keeps.name (x := x5) (keeps_State_setEnc h3)
    rw [e5]
    refine Keeps.ite ?_ ?_
    · exact h5
    · extract_lets -merge -underBinder +onlyGivenNames x6 x7
      refine Keeps.ite ?_ ?_
      · exact keeps_encDrop h5
      · extract_lets -merge -underBinder +onlyGivenNames x8
        obtain ⟨y8, e8, h8⟩ := Keeps.name (x := x8) (keeps_finishEncPicture h5)
        rw [e8]
        extract_lets -merge -underBinder +onlyGivenNames x9 x10
        obtain ⟨y10, e10, h10⟩ := Keeps.name (x := x10) (keeps_State_setEnc h8)
        rw [e10]
        extract_lets -merge -underBinder +onlyGivenNames x11 x12
        exact keeps_beginPicture h10

theorem keeps_doKeepalive {s v0 v1} (g0 : Keeps s v0) : Keeps s (doKeepalive v0 v1) := by
  unfold doKeepalive
  extract_lets -merge -underBinder +onlyGivenNames x0
  refine Keeps.ite ?_ ?_
  · exact g0
  · extract_lets -merge -underBinder +onlyGivenNames x1
    obtain ⟨y1, e1, h1⟩ := Keeps.name (x := x1) (keeps_finishEncPicture g0)
    rw [e1]
    extract_lets -merge -underBinder +onlyGivenNames x2 x3
    obtain ⟨y3, e3, h3⟩ := Keeps.name (x := x3) (.ite h1 (keeps_encKeepEvent (keeps_State_setEnc h1)))
    rw [e3]
    extract_lets -merge -underBinder +onlyGivenNames x4
    exact keeps_finishEncPicture (keeps_beginPicture h3)

theorem keeps_doKeepExpiry {s v0 v1} (g0 : Keeps s v0) : Keeps s (doKeepExpiry v0 v1) := by
  unfold doKeepExpiry
  extract_lets -merge -underBinder +onlyGivenNames x0
  exact (.ite (keeps_encKeepEvent (keeps_State_setEnc g0)) g0)

theorem keeps_setEngQueued {s v0 v1 v2} (g0 : Keeps s v0) : Keeps s (setEngQueued v0 v1 v2) := by
  unfold setEngQueued
  exact g0.cong rfl

theorem keeps_sliceFabric {s v0 v1 v2 v3} (g0 : Keeps s v0) : Keeps s (sliceFabric v0 v1 v2 v3) := by
  unfold sliceFabric
  extract_lets -merge -underBinder +onlyGivenNames x0 x1 x2 x3
  obtain ⟨y3, e3, h3⟩ := Keeps.name (x := x3) (keeps_State_setEnc g0)
  rw [e3]
  split
  rename_i y4_0 x4 e4
  have h4 : Keeps s x4 := Keeps.of_2 e4 (by
    refine keeps_State_fresh ?_
    exact h3)
  extract_lets -merge -underBinder +onlyGivenNames x5
  refine Keeps.ite ?_ ?_
  · exact keeps_encDrop (keeps_setEngQueued h4)
  · refine Keeps.foldl ?_ ?_
    · exact keeps_setEngQueued h4
    · intro x6 a6 h6
      exact keeps_State_routePkt h6

theorem keeps_putRecord {s v0 v1 v2 v3} (g1 : Keeps s v1) : Keeps s (putRecord v0 v1 v2 v3) := by
  induction v0 generalizing v1 v2 v3 with
  | zero =>
    rw [putRecord]
    exact g1
  | succ v ih =>
    rw [putRecord]
    split
    · exact g1
    · extract_lets -merge -underBinder +onlyGivenNames x0 x1
      split
      rename_i x2 y2_1 e2
      have h2 : Keeps s x2 := Keeps.of_1 e2 (by
        refine Keeps.ite1 ?_ ?_
        · refine Keeps.mk1 ?_
          exact g1
        · refine keeps_hostWriteUnder ?_
          exact g1)
      extract_lets -merge -underBinder +onlyGivenNames x3
      exact (.ite (keeps_bufDone (keeps_State_setEnc h2)) (.ite (ih (keeps_bufDone (keeps_State_setEnc h2))) (keeps_State_setEnc h2)))

theorem keeps_sliceHost {s v0 v1 v2 v3} (g0 : Keeps s v0) : Keeps s (sliceHost v0 v1 v2 v3) := by
  unfold sliceHost
  extract_lets -merge -underBinder +onlyGivenNames x0 x1 x2 x3
  obtain ⟨y3, e3, h3⟩ := Keeps.name (x := x3) (.ite (keeps_encDrop (keeps_State_setEnc g0)) (keeps_putRecord (keeps_State_setEnc g0)))
  rw [e3]
  split
  · extract_lets -merge -underBinder +onlyGivenNames x4
    exact (.ite (keeps_bufDone (keeps_State_setEnc h3)) h3)
  · exact h3

theorem keeps_doSliceReady {s v0 v1 v2 v3} (g0 : Keeps s v0) : Keeps s (doSliceReady v0 v1 v2 v3) := by
  unfold doSliceReady
  extract_lets -merge -underBinder +onlyGivenNames x0
  split
  · exact g0
  · extract_lets -merge -underBinder +onlyGivenNames x1 x2
    obtain ⟨y2, e2, h2⟩ := Keeps.name (x := x2) (keeps_State_setEnc g0)
    rw [e2]
    extract_lets -merge -underBinder +onlyGivenNames x3
    obtain ⟨y3, e3, h3⟩ := Keeps.name (x := x3) (.ite (keeps_sliceFabric h2) h2)
    rw [e3]
    extract_lets -merge -underBinder +onlyGivenNames x4
    obtain ⟨y4, e4, h4⟩ := Keeps.name (x := x4) (.ite (keeps_sliceHost h3) h3)
    rw [e4]
    exact keeps_settleEncClose h4

theorem keeps_fumRead {s v0 v1 v2 v3} (g0 : Keeps s v0) : Keeps s (fumRead v0 v1 v2 v3).2 := by
  unfold fumRead
  refine Keeps.ite2 ?_ ?_
  · split
    rename_i y0_0 x0 y0_2 e0
    have h0 : Keeps s x0 := Keeps.of_2_1 e0 (by
      refine keeps_State_memRd ?_
      exact g0)
    refine Keeps.mk2 ?_
    exact h0
  · refine Keeps.mk2 ?_
    exact g0

theorem keeps_hostFence {s v0 v1 v2} (g0 : Keeps s v0) : Keeps s (hostFence v0 v1 v2) := by
  unfold hostFence
  split
  rename_i y0_0 x0 e0
  have h0 : Keeps s x0 := Keeps.of_2 e0 (by
    refine keeps_fumRead ?_
    exact g0)
  extract_lets -merge -underBinder +onlyGivenNames x1 x2 x3 x4 x5
  split
  rename_i y6_0 x6 e6
  have h6 : Keeps s x6 := Keeps.of_2 e6 (by
    refine keeps_fumRead ?_
    exact h0)
  extract_lets -merge -underBinder +onlyGivenNames x7
  obtain ⟨y7, e7, h7⟩ := Keeps.name (x := x7) (.ite (keeps_tableStart h6) h6)
  rw [e7]
  extract_lets -merge -underBinder +onlyGivenNames x8
  refine Keeps.ite ?_ ?_
  · exact h7
  · extract_lets -merge -underBinder +onlyGivenNames x9 x10
    refine Keeps.foldl ?_ ?_
    · exact h7
    · intro x11 a11 h11
      extract_lets -merge -underBinder +onlyGivenNames x12
      split
      rename_i y13_0 x13 e13
      have h13 : Keeps s x13 := Keeps.of_2 e13 (by
        refine keeps_fumRead ?_
        exact h11)
      extract_lets -merge -underBinder +onlyGivenNames x14 x15 x16 x17 x18
      exact keeps_tableBand h13

theorem keeps_hostPublish {s v0 v1 v2} (g0 : Keeps s v0) : Keeps s (hostPublish v0 v1 v2) := by
  unfold hostPublish
  refine Keeps.foldl ?_ ?_
  · exact g0
  · intro x0 a0 h0
    exact keeps_hostFence h0

theorem keeps_memCopyIn {s v0 v1 v2} (g0 : Keeps s v0) : Keeps s (memCopyIn v0 v1 v2) := by
  unfold memCopyIn
  extract_lets -merge -underBinder +onlyGivenNames x0 x1
  split
  rename_i x2 y2_1 e2
  have h2 : Keeps s x2 := Keeps.of_1 e2 (by
    refine keeps_State_memWrTill ?_
    exact g0)
  exact (.ite (keeps_State_finish (keeps_hostPublish h2)) (keeps_State_finish h2))

theorem keeps_doMemWrite {s v0 v1 v2} (g0 : Keeps s v0) : Keeps s (doMemWrite v0 v1 v2) := by
  unfold doMemWrite
  extract_lets -merge -underBinder +onlyGivenNames x0
  refine keeps_runJob ?_ ?_
  · exact g0
  · intro x1_0 h1_0
    refine Keeps.ite ?_ ?_
    · refine keeps_State_hostFetch ?_ ?_
      · exact h1_0
      · intro x2_0 a2_1 h2_0
        exact keeps_memCopyIn h2_0
    · exact keeps_memCopyIn h1_0

theorem keeps_doMemRead {s v0 v1} (g0 : Keeps s v0) : Keeps s (doMemRead v0 v1) := by
  unfold doMemRead
  extract_lets -merge -underBinder +onlyGivenNames x0
  refine keeps_runJob ?_ ?_
  · exact g0
  · intro x1_0 h1_0
    split
    rename_i y2_0 x2 y2_2 e2
    have h2 : Keeps s x2 := Keeps.of_2_1 e2 (by
      refine keeps_State_memRd ?_
      exact h1_0)
    exact (.ite (keeps_State_finishDma (keeps_State_hostWriteFor h2)) (keeps_State_finish h2))

theorem keeps_State_setTch {s v0 v1 v2} (g0 : Keeps s v0) : Keeps s (State.setTch v0 v1 v2) := by
  unfold State.setTch
  exact g0.cong rfl

theorem keeps_doTouchMap {s v0 v1} (g0 : Keeps s v0) : Keeps s (doTouchMap v0 v1) := by
  unfold doTouchMap
  extract_lets -merge -underBinder +onlyGivenNames x0 x1 x2
  refine keeps_runJob ?_ ?_
  · exact g0
  · intro x3_0 h3_0
    exact keeps_State_finish (keeps_State_setTch h3_0)

theorem keeps_setPanel {s v0 v1 v2} (g0 : Keeps s v0) : Keeps s (setPanel v0 v1 v2) := by
  unfold setPanel
  extract_lets -merge -underBinder +onlyGivenNames x0
  exact g0.cong rfl

theorem keeps_panelLoad {s v0 v1 v2} (g0 : Keeps s v0) : Keeps s (panelLoad v0 v1 v2) := by
  unfold panelLoad
  extract_lets -merge -underBinder +onlyGivenNames x0
  exact (.ite (keeps_State_finish (keeps_setPanel g0)) (keeps_State_finish g0))

theorem keeps_doTouchRef {s v0 v1 v2} (g0 : Keeps s v0) : Keeps s (doTouchRef v0 v1 v2) := by
  unfold doTouchRef
  extract_lets -merge -underBinder +onlyGivenNames x0 x1 x2 x3
  refine keeps_runJob ?_ ?_
  · exact g0
  · intro x4_0 h4_0
    refine Keeps.ite ?_ ?_
    · exact keeps_State_finish (keeps_setPanel h4_0)
    · refine keeps_State_hostFetch ?_ ?_
      · exact h4_0
      · intro x5_0 a5_1 h5_0
        exact keeps_panelLoad h5_0

theorem keeps_mapContact {s v0 v1 v2 v3 v4} (g0 : Keeps s v0) : Keeps s (mapContact v0 v1 v2 v3 v4).2 := by
  unfold mapContact
  split
  rename_i y0_0 x0 e0
  have h0 : Keeps s x0 := Keeps.of_2 e0 (by
    refine keeps_State_fresh ?_
    exact g0)
  extract_lets -merge -underBinder +onlyGivenNames x1
  refine Keeps.ite2 ?_ ?_
  · refine Keeps.mk2 ?_
    exact h0
  · split
    · refine Keeps.mk2 ?_
      exact h0
    · extract_lets -merge -underBinder +onlyGivenNames x2 x3
      split
      · extract_lets -merge -underBinder +onlyGivenNames x4
        refine Keeps.ite2 ?_ ?_
        · refine Keeps.mk2 ?_
          exact h0
        · split
          · split
            · refine Keeps.mk2 ?_
              exact h0
            · extract_lets -merge -underBinder +onlyGivenNames x5 x6 x7
              split
              · refine Keeps.mk2 ?_
                exact h0

theorem keeps_touchReport {s v0 v1 v2 v3 v4 v5 v6 v7} (g0 : Keeps s v0) : Keeps s (touchReport v0 v1 v2 v3 v4 v5 v6 v7) := by
  unfold touchReport
  exact keeps_State_raise g0

theorem keeps_reportUp {s v0 v1 v2 v3 v4 v5} (g0 : Keeps s v0) : Keeps s (reportUp v0 v1 v2 v3 v4 v5) := by
  unfold reportUp
  split
  rename_i y0_0 x0 e0
  have h0 : Keeps s x0 := Keeps.of_2 e0 (by
    refine keeps_mapContact ?_
    exact g0)
  split
  rename_i y1_0 x1 e1
  have h1 : Keeps s x1 := Keeps.of_2 e1 (by
    refine keeps_State_fresh ?_
    exact h0)
  exact keeps_touchReport h1

theorem keeps_touchStart {s v0 v1} (g0 : Keeps s v0) : Keeps s (touchStart v0 v1) := by
  unfold touchStart
  exact keeps_State_setTch g0

theorem keeps_touchHalt {s v0 v1} (g0 : Keeps s v0) : Keeps s (touchHalt v0 v1) := by
  unfold touchHalt
  exact keeps_State_setReady (keeps_State_setTch g0)

theorem keeps_touchStop {s v0 v1 v2} (g0 : Keeps s v0) : Keeps s (touchStop v0 v1 v2) := by
  unfold touchStop
  refine keeps_touchHalt ?_
  refine Keeps.foldl ?_ ?_
  · exact g0
  · intro x0 a0 h0
    exact keeps_reportUp h0

theorem keeps_touchEnd {s v0 v1} (g0 : Keeps s v0) : Keeps s (touchEnd v0 v1) := by
  unfold touchEnd
  exact .ite (keeps_State_setTch g0) g0

theorem keeps_touchCtrl {s v0 v1 v2} (g0 : Keeps s v0) : Keeps s (touchCtrl v0 v1 v2) := by
  unfold touchCtrl
  extract_lets -merge -underBinder +onlyGivenNames x0 x1
  obtain ⟨y1, e1, h1⟩ := Keeps.name (x := x1) (keeps_State_setReg g0)
  rw [e1]
  exact (.ite h1 (.ite (keeps_touchStart (.ite (keeps_touchStop h1) h1)) (keeps_touchEnd h1)))

theorem keeps_testEvents {s v0 v1 v2 v3 v4} (g0 : Keeps s v0) : Keeps s (testEvents v0 v1 v2 v3 v4) := by
  unfold testEvents
  refine Keeps.foldl ?_ ?_
  · exact g0
  · intro x0 a0 h0
    split
    exact .ite h0 (keeps_State_raise h0)

theorem keeps_doScanCycle {s v0 v1 v2 v3 v4} (g0 : Keeps s v0) : Keeps s (doScanCycle v0 v1 v2 v3 v4) := by
  unfold doScanCycle
  extract_lets -merge -underBinder +onlyGivenNames x0 x1
  refine Keeps.ite ?_ ?_
  · exact g0
  · refine Keeps.ite ?_ ?_
    · exact keeps_touchStop g0
    · extract_lets -merge -underBinder +onlyGivenNames x2 x3 x4 x5 x6 x7 x8 x9 x10 x11 x12
      split
      · extract_lets -merge -underBinder +onlyGivenNames x13 x14
        obtain ⟨y14, e14, h14⟩ := Keeps.name (x := x14) (keeps_State_setTch g0)
        rw [e14]
        extract_lets -merge -underBinder +onlyGivenNames x15 x16 x17 x18 x19 x20 x21 x22 x23 x24
        obtain ⟨y24, e24, h24⟩ := Keeps.name (x := x24) (keeps_State_bumpBy h14)
        rw [e24]
        extract_lets -merge -underBinder +onlyGivenNames x25 x26 x27 x28 x29 x30 x31
        obtain ⟨y31, e31, h31⟩ := Keeps.name (x := x31) (keeps_State_bumpBy h24)
        rw [e31]
        extract_lets -merge -underBinder +onlyGivenNames x32 x33 x34 x35 x36 x37 x38 x39 x40 x41
        obtain ⟨y41, e41, h41⟩ := Keeps.name (s := s) (x := x41) (by
          unfold x41
          refine Keeps.foldl ?_ ?_
          · exact h31
          · intro x42 a42 h42
            extract_lets -merge -underBinder +onlyGivenNames x43
            obtain ⟨y43, e43, h43⟩ := Keeps.name (s := s) (x := x43) (by
              unfold x43
              split
              · extract_lets -merge -underBinder +onlyGivenNames x44 x45
                obtain ⟨y45, e45, h45⟩ := Keeps.name (x := x45) (.ite h42 (keeps_reportUp h42))
                rw [e45]
                exact keeps_State_setTch h45
              · exact h42)
            rw [e43]
            extract_lets -merge -underBinder +onlyGivenNames x46
            obtain ⟨y46, e46, h46⟩ := Keeps.name (s := s) (x := x46) (by
              unfold x46
              split
              · extract_lets -merge -underBinder +onlyGivenNames x47
                split
                rename_i y48_0 x48 e48
                have h48 : Keeps s x48 := Keeps.of_2 e48 (by
                  refine keeps_mapContact ?_
                  exact h43)
                extract_lets -merge -underBinder +onlyGivenNames x49
                obtain ⟨y49, e49, h49⟩ := Keeps.name (x := x49) (.ite h48 (keeps_touchReport h48))
                rw [e49]
                extract_lets -merge -underBinder +onlyGivenNames x50
                obtain ⟨y50, e50, h50⟩ := Keeps.name (x := x50) (keeps_State_bump h49)
                rw [e50]
                extract_lets -merge -underBinder +onlyGivenNames x51
                obtain ⟨y51, e51, h51⟩ := Keeps.name (x := x51) (keeps_State_raise h50)
                rw [e51]
                exact keeps_State_setTch h51
              · split
                · split
                  rename_i y52_0 x52 e52
                  have h52 : Keeps s x52 := Keeps.of_2 e52 (by
                    refine keeps_mapContact ?_
                    exact h43)
                  extract_lets -merge -underBinder +onlyGivenNames x53
                  obtain ⟨y53, e53, h53⟩ := Keeps.name (x := x53) (.ite h52 (keeps_touchReport h52))
                  rw [e53]
                  exact keeps_State_setTch h53
                · exact h43)
            rw [e46]
            split
            · split
              rename_i y54_0 x54 e54
              have h54 : Keeps s x54 := Keeps.of_2 e54 (by
                refine keeps_mapContact ?_
                exact h46)
              extract_lets -merge -underBinder +onlyGivenNames x55
              obtain ⟨y55, e55, h55⟩ := Keeps.name (x := x55) (.ite h54 (keeps_touchReport h54))
              rw [e55]
              exact keeps_State_setTch h55
            · exact h46)
        rw [e41]
        extract_lets -merge -underBinder +onlyGivenNames x56 x57
        split
        · split
          · extract_lets -merge -underBinder +onlyGivenNames x58 x59 x60 x61 x62 x63 x64 x65 x66 x67 x68
            obtain ⟨y68, e68, h68⟩ := Keeps.name (x := x68) (keeps_testEvents (keeps_testEvents h41))
            rw [e68]
            extract_lets -merge -underBinder +onlyGivenNames x69 x70 x71
            obtain ⟨y71, e71, h71⟩ := Keeps.name (x := x71) (keeps_State_setTch h68)
            rw [e71]
            extract_lets -merge -underBinder +onlyGivenNames x72
            obtain ⟨y72, e72, h72⟩ := Keeps.name (x := x72) (.ite h71 (keeps_State_raiseLimited h71))
            rw [e72]
            extract_lets -merge -underBinder +onlyGivenNames x73 x74 x75 x76 x77
            obtain ⟨y77, e77, h77⟩ := Keeps.name (x := x77) (keeps_State_setTch h72)
            rw [e77]
            extract_lets -merge -underBinder +onlyGivenNames x78
            obtain ⟨y78, e78, h78⟩ := Keeps.name (s := s) (x := x78) (by
              unfold x78
              split
              · exact keeps_State_setTch h77
              · extract_lets -merge -underBinder +onlyGivenNames x79 x80
                obtain ⟨y80, e80, h80⟩ := Keeps.name (x := x80) (keeps_State_setTch h77)
                rw [e80]
                exact keeps_State_raise (keeps_State_bump h80)
              · extract_lets -merge -underBinder +onlyGivenNames x81 x82
                obtain ⟨y82, e82, h82⟩ := Keeps.name (x := x82) (keeps_State_setTch h77)
                rw [e82]
                exact (.ite h82 (keeps_State_raise h82)))
            rw [e78]
            exact keeps_State_setReady h78

theorem keeps_State_setLane {s v0 v1 v2 v3} (g0 : Keeps s v0) : Keeps s (State.setLane v0 v1 v2 v3) := by
  unfold State.setLane
  exact g0.cong rfl

theorem keeps_laneLowEye {s v0 v1 v2} (g0 : Keeps s v0) : Keeps s (laneLowEye v0 v1 v2) := by
  unfold laneLowEye
  extract_lets -merge -underBinder +onlyGivenNames x0 x1
  exact (.ite g0 (keeps_State_raiseLimited (keeps_State_setLane g0)))

theorem keeps_lanePin {s v0 v1 v2} (g0 : Keeps s v0) : Keeps s (lanePin v0 v1 v2) := by
  unfold lanePin
  extract_lets -merge -underBinder +onlyGivenNames x0
  exact (.ite g0 (keeps_State_raise (keeps_State_setLane g0)))

theorem keeps_startRun {s v0 v1 v2} (g0 : Keeps s v0) : Keeps s (startRun v0 v1 v2) := by
  unfold startRun
  extract_lets -merge -underBinder +onlyGivenNames x0
  exact .ite g0 (keeps_State_setLane g0)

theorem keeps_endRun {s v0 v1 v2 v3} (g0 : Keeps s v0) : Keeps s (endRun v0 v1 v2 v3) := by
  unfold endRun
  extract_lets -merge -underBinder +onlyGivenNames x0
  split
  · exact g0
  · extract_lets -merge -underBinder +onlyGivenNames x1 x2
    obtain ⟨y2, e2, h2⟩ := Keeps.name (x := x2) (keeps_State_bump (keeps_State_setLane g0))
    rw [e2]
    extract_lets -merge -underBinder +onlyGivenNames x3
    obtain ⟨y3, e3, h3⟩ := Keeps.name (x := x3) (keeps_State_raise h2)
    rw [e3]
    exact .ite (keeps_startRun h3) h3

theorem keeps_ctleStep {s v0 v1 v2 v3 v4} (g0 : Keeps s v0) : Keeps s (ctleStep v0 v1 v2 v3 v4) := by
  unfold ctleStep
  extract_lets -merge -underBinder +onlyGivenNames x0
  exact keeps_State_setLane g0

theorem keeps_undoStep {s v0 v1 v2 v3 v4} (g0 : Keeps s v0) : Keeps s (undoStep v0 v1 v2 v3 v4) := by
  unfold undoStep
  exact .ite (keeps_State_setLane g0) (keeps_ctleStep g0)

theorem keeps_tryStep {s v0 v1 v2 v3} (g0 : Keeps s v0) : Keeps s (tryStep v0 v1 v2 v3) := by
  unfold tryStep
  refine Keeps.ite ?_ ?_
  · extract_lets -merge -underBinder +onlyGivenNames x0 x1
    obtain ⟨y1, e1, h1⟩ := Keeps.name (x := x1) (keeps_State_setLane g0)
    rw [e1]
    exact keeps_endRun (keeps_lanePin h1)
  · exact keeps_ctleStep g0

theorem keeps_runScan {s v0 v1 v2 v3 v4} (g0 : Keeps s v0) : Keeps s (runScan v0 v1 v2 v3 v4) := by
  unfold runScan
  extract_lets -merge -underBinder +onlyGivenNames x0
  split
  · extract_lets -merge -underBinder +onlyGivenNames x1
    obtain ⟨y1, e1, h1⟩ := Keeps.name (x := x1) (keeps_State_setLane g0)
    rw [e1]
    exact keeps_tryStep h1
  · extract_lets -merge -underBinder +onlyGivenNames x2 x3
    refine Keeps.ite ?_ ?_
    · exact keeps_tryStep g0
    · refine Keeps.ite ?_ ?_
      · exact keeps_endRun g0
      · extract_lets -merge -underBinder +onlyGivenNames x4
        obtain ⟨y4, e4, h4⟩ := Keeps.name (x := x4) (keeps_undoStep g0)
        rw [e4]
        exact .ite (keeps_tryStep h4) h4
  · exact keeps_endRun g0

theorem keeps_laneFigure {s v0 v1 v2 v3} (g0 : Keeps s v0) : Keeps s (laneFigure v0 v1 v2 v3) := by
  unfold laneFigure
  extract_lets -merge -underBinder +onlyGivenNames x0
  exact keeps_laneLowEye (keeps_State_setLane g0)

theorem keeps_doLaneScan {s v0 v1 v2 v3} (g0 : Keeps s v0) : Keeps s (doLaneScan v0 v1 v2 v3) := by
  unfold doLaneScan
  extract_lets -merge -underBinder +onlyGivenNames x0
  refine Keeps.ite ?_ ?_
  · exact g0
  · split
    · exact keeps_laneFigure g0
    · exact (.ite g0 (keeps_runScan (keeps_laneFigure g0)))

theorem keeps_doClassT {s v0 v1 v2 v3} (g0 : Keeps s v0) : Keeps s (doClassT v0 v1 v2 v3) := by
  unfold doClassT
  exact .ite (keeps_doLaneScan g0) g0

theorem keeps_doLaneTemp {s v0 v1 v2 v3} (g0 : Keeps s v0) : Keeps s (doLaneTemp v0 v1 v2 v3) := by
  unfold doLaneTemp
  extract_lets -merge -underBinder +onlyGivenNames x0 x1
  obtain ⟨y1, e1, h1⟩ := Keeps.name (x := x1) (keeps_takeTemps g0)
  rw [e1]
  exact .ite (keeps_startRun h1) h1

theorem keeps_doCorrection {s v0 v1 v2} (g0 : Keeps s v0) : Keeps s (doCorrection v0 v1 v2) := by
  unfold doCorrection
  extract_lets -merge -underBinder +onlyGivenNames x0
  split
  · exact g0
  · extract_lets -merge -underBinder +onlyGivenNames x1 x2
    exact (.ite (keeps_State_setLane g0) (.ite (keeps_State_setLane g0) (keeps_State_setLane g0)))

theorem keeps_onLanes {s v0 v1} (g0 : Keeps s v0) (g1 : ∀ u0 u1, Keeps s u0 → Keeps s (v1 u0 u1)) : Keeps s (onLanes v0 v1) := by
  unfold onLanes
  exact g1 _ _ (g1 _ _ g0)

theorem keeps_laneToOvr {s v0 v1 v2} (g0 : Keeps s v0) : Keeps s (laneToOvr v0 v1 v2) := by
  unfold laneToOvr
  exact keeps_State_setLane g0

theorem keeps_laneAdapt {s v0 v1 v2} (g0 : Keeps s v0) : Keeps s (laneAdapt v0 v1 v2) := by
  unfold laneAdapt
  split
  · split
    rename_i y0_0 x0 e0
    have h0 : Keeps s x0 := Keeps.of_2 e0 (by
      refine keeps_State_fresh ?_
      exact g0)
    split
    rename_i y1_0 x1 e1
    have h1 : Keeps s x1 := Keeps.of_2 e1 (by
      refine keeps_State_fresh ?_
      exact h0)
    split
    rename_i y2_0 x2 e2
    have h2 : Keeps s x2 := Keeps.of_2 e2 (by
      refine keeps_State_fresh ?_
      exact h1)
    split
    rename_i y3_0 x3 e3
    have h3 : Keeps s x3 := Keeps.of_2 e3 (by
      refine keeps_State_fresh ?_
      exact h2)
    split
    rename_i y4_0 x4 e4
    have h4 : Keeps s x4 := Keeps.of_2 e4 (by
      refine keeps_State_fresh ?_
      exact h3)
    split
    rename_i y5_0 x5 e5
    have h5 : Keeps s x5 := Keeps.of_2 e5 (by
      refine keeps_State_fresh ?_
      exact h4)
    extract_lets -merge -underBinder +onlyGivenNames x6 x7 x8 x9
    obtain ⟨y9, e9, h9⟩ := Keeps.name (x := x9) (keeps_State_setLane h5)
    rw [e9]
    exact .ite (keeps_laneToOvr h9) h9

theorem keeps_laneDown {s v0 v1 v2} (g0 : Keeps s v0) : Keeps s (laneDown v0 v1 v2) := by
  unfold laneDown
  extract_lets -merge -underBinder +onlyGivenNames x0 x1
  obtain ⟨y1, e1, h1⟩ := Keeps.name (x := x1) (keeps_endRun (keeps_State_setLane g0))
  rw [e1]
  exact keeps_State_setLane h1

theorem keeps_laneRevert {s v0 v1 v2} (g0 : Keeps s v0) : Keeps s (laneRevert v0 v1 v2) := by
  unfold laneRevert
  split
  · exact g0
  · extract_lets -merge -underBinder +onlyGivenNames x0
    obtain ⟨y0, e0, h0⟩ := Keeps.name (s := s) (x := x0) (by
      unfold x0
      split
      · exact keeps_undoStep g0
      · exact g0)
    rw [e0]
    exact keeps_endRun h0

theorem keeps_follow {s v0 v1 v2} (g1 : Keeps s v1) : Keeps s (lanesFollow v0 v1 v2) := by
  unfold lanesFollow
  extract_lets -merge -underBinder +onlyGivenNames x0 x1 x2
  obtain ⟨y2, e2, h2⟩ := Keeps.name (s := s) (x := x2) (by
    unfold x2
    refine Keeps.ite ?_ ?_
    · refine keeps_onLanes ?_ ?_
      · exact g1
      · intro x3_0 a3_1 h3_0
        exact keeps_laneAdapt h3_0
    · exact g1)
  rw [e2]
  extract_lets -merge -underBinder +onlyGivenNames x4
  obtain ⟨y4, e4, h4⟩ := Keeps.name (s := s) (x := x4) (by
    unfold x4
    refine Keeps.ite ?_ ?_
    · refine keeps_onLanes ?_ ?_
      · exact h2
      · intro x5_0 a5_1 h5_0
        exact keeps_State_setLane h5_0
    · exact h2)
  rw [e4]
  extract_lets -merge -underBinder +onlyGivenNames x6
  obtain ⟨y6, e6, h6⟩ := Keeps.name (s := s) (x := x6) (by
    unfold x6
    refine Keeps.ite ?_ ?_
    · refine keeps_onLanes ?_ ?_
      · exact h4
      · intro x7_0 a7_1 h7_0
        exact keeps_laneDown h7_0
    · exact h4)
  rw [e6]
  extract_lets -merge -underBinder +onlyGivenNames x8
  refine Keeps.ite ?_ ?_
  · refine keeps_onLanes ?_ ?_
    · exact h6
    · intro x9_0 a9_1 h9_0
      exact keeps_laneRevert h9_0
  · exact h6

theorem keeps_lanesFollow {s v0 v1 v2} (_ : Keeps s v0) (g1 : Keeps s v1) : Keeps s (lanesFollow v0 v1 v2) := keeps_follow g1

theorem keeps_followAll {s v0 v1} (g1 : Keeps s v1) : Keeps s (allLanesFollow v0 v1) := by
  unfold allLanesFollow
  refine Keeps.foldl ?_ ?_
  · exact g1
  · intro x0 a0 h0
    exact keeps_follow h0

theorem keeps_allLanesFollow {s v0 v1} (_ : Keeps s v0) (g1 : Keeps s v1) : Keeps s (allLanesFollow v0 v1) := keeps_followAll g1

theorem keeps_laneNewBound {s v0 v1} (g0 : Keeps s v0) : Keeps s (laneNewBound v0 v1) := by
  unfold laneNewBound
  split
  · refine keeps_onLanes ?_ ?_
    · exact g0
    · intro x0_0 a0_1 h0_0
      extract_lets -merge -underBinder +onlyGivenNames x1
      exact (.ite h0_0 (.ite (keeps_State_setLane h0_0) (.ite (keeps_State_setLane h0_0) h0_0)))

theorem keeps_laneCtrl {s v0 v1 v2} (g0 : Keeps s v0) : Keeps s (laneCtrl v0 v1 v2) := by
  unfold laneCtrl
  extract_lets -merge -underBinder +onlyGivenNames x0
  obtain ⟨y0, e0, h0⟩ := Keeps.name (x := x0) (keeps_State_setReg g0)
  rw [e0]
  extract_lets -merge -underBinder +onlyGivenNames x1 x2
  obtain ⟨y2, e2, h2⟩ := Keeps.name (s := s) (x := x2) (by
    unfold x2
    refine keeps_onLanes ?_ ?_
    · exact h0
    · intro x3_0 a3_1 h3_0
      extract_lets -merge -underBinder +onlyGivenNames x4 x5
      obtain ⟨y5, e5, h5⟩ := Keeps.name (x := x5) (keeps_State_setLane h3_0)
      rw [e5]
      exact (.ite (keeps_laneToOvr (keeps_endRun h5)) h5))
  rw [e2]
  refine Keeps.ite ?_ ?_
  · refine keeps_onLanes ?_ ?_
    · exact h2
    · intro x6_0 a6_1 h6_0
      exact .ite (keeps_State_setLane h6_0) (keeps_startRun h6_0)
  · exact h2

theorem keeps_lanesEndService {s v0} (g0 : Keeps s v0) : Keeps s (lanesEndService v0) := by
  unfold lanesEndService
  refine Keeps.foldl ?_ ?_
  · exact g0
  · intro x0 a0 h0
    extract_lets -merge -underBinder +onlyGivenNames x1 x2
    obtain ⟨y2, e2, h2⟩ := Keeps.name (x := x2) (keeps_State_setReg h0)
    rw [e2]
    refine keeps_onLanes ?_ ?_
    · exact h2
    · intro x3_0 a3_1 h3_0
      exact (.ite (keeps_startRun (keeps_State_setLane h3_0)) h3_0)

end Machine
end Sys2Proof
end

