-- ==== Sys2Proof/Laws/KeepsSystem.lean ====
section
/-! SUPPORT. What the pair, the mirror, boot, registers, the mailbox, management and the debug port keep, said once for each operation: the memory stays canonical, the pins follow the pair
state, the lifecycle is one-way, the bar and locked MPU regions stay, the queue is untouched, what was put out stays, and the clock never
goes back. A lemma keeps_f says it of the operation f. -/

set_option Elab.async false

namespace Sys2Proof
namespace Machine

theorem keeps_claim {s v0} (g0 : Keeps s v0) : Keeps s (claim v0) := by
  unfold claim
  exact keeps_setPairState (g0.cong rfl)

theorem keeps_withdraw {s v0} (g0 : Keeps s v0) : Keeps s (withdraw v0) := by
  unfold withdraw
  exact keeps_setPairState g0

theorem keeps_doAutoClaim {s v0} (g0 : Keeps s v0) : Keeps s (doAutoClaim v0) := by
  unfold doAutoClaim
  extract_lets -merge -underBinder +onlyGivenNames x0 x1
  obtain ⟨y1, e1, h1⟩ := Keeps.name (x := x1) (g0.cong rfl)
  rw [e1]
  exact .ite (keeps_claim h1) h1

theorem keeps_pairCtrl {s v0 v1} (g0 : Keeps s v0) : Keeps s (pairCtrl v0 v1) := by
  unfold pairCtrl
  extract_lets -merge -underBinder +onlyGivenNames x0
  obtain ⟨y0, e0, h0⟩ := Keeps.name (x := x0) (.ite (keeps_claim g0) g0)
  rw [e0]
  exact .ite (keeps_State_relinquish h0) h0

theorem keeps_aliasRestart {s v0} (g0 : Keeps s v0) : Keeps s (aliasRestart v0) := by
  unfold aliasRestart
  refine Keeps.foldl ?_ ?_
  · exact g0
  · intro x0 a0 h0
    exact .ite (keeps_State_setEnc h0) h0

theorem keeps_noteConflict {s v0} (g0 : Keeps s v0) : Keeps s (noteConflict v0) := by
  unfold noteConflict
  extract_lets -merge -underBinder +onlyGivenNames x0
  obtain ⟨y0, e0, h0⟩ := Keeps.name (x := x0) (keeps_State_bump g0)
  rw [e0]
  exact keeps_State_raiseLimited h0

theorem keeps_checkClaim {s v0} (g0 : Keeps s v0) : Keeps s (checkClaim v0) := by
  unfold checkClaim
  exact (.ite g0 (.ite (keeps_withdraw g0) (.ite (keeps_withdraw (keeps_noteConflict g0)) g0)))

theorem keeps_doActingOwner {s v0} (g0 : Keeps s v0) : Keeps s (doActingOwner v0) := by
  unfold doActingOwner
  extract_lets -merge -underBinder +onlyGivenNames x0
  obtain ⟨y0, e0, h0⟩ := Keeps.name (x := x0) (keeps_checkClaim g0)
  rw [e0]
  refine Keeps.ite ?_ ?_
  · exact h0
  · refine Keeps.ite ?_ ?_
    · exact h0
    · extract_lets -merge -underBinder +onlyGivenNames x1
      obtain ⟨y1, e1, h1⟩ := Keeps.name (x := x1) (keeps_setPairState h0)
      rw [e1]
      extract_lets -merge -underBinder +onlyGivenNames x2
      obtain ⟨y2, e2, h2⟩ := Keeps.name (x := x2) (.ite (keeps_State_setMode h1) h1)
      rw [e2]
      exact keeps_aliasRestart (keeps_State_bump h2)

theorem keeps_doOwnIRise {s v0} (g0 : Keeps s v0) : Keeps s (doOwnIRise v0) := by
  unfold doOwnIRise
  exact keeps_checkClaim (g0.cong rfl)

theorem keeps_doPairConflict {s v0} (g0 : Keeps s v0) : Keeps s (doPairConflict v0) := by
  unfold doPairConflict
  extract_lets -merge -underBinder +onlyGivenNames x0 x1
  obtain ⟨y1, e1, h1⟩ := Keeps.name (x := x1) (g0.cong rfl)
  rw [e1]
  extract_lets -merge -underBinder +onlyGivenNames x2
  refine Keeps.ite ?_ ?_
  · exact h1
  · refine Keeps.ite ?_ ?_
    · exact keeps_withdraw h1
    · extract_lets -merge -underBinder +onlyGivenNames x3
      obtain ⟨y3, e3, h3⟩ := Keeps.name (x := x3) (keeps_noteConflict h1)
      rw [e3]
      exact (.ite (keeps_withdraw h3) (.ite (keeps_State_relinquish h3) h3))

theorem keeps_doRelinquish {s v0 v1} (g0 : Keeps s v0) : Keeps s (doRelinquish v0 v1) := by
  unfold doRelinquish
  exact .ite g0 (keeps_State_trigger g0)

theorem keeps_doUnlockExpiry {s v0} (g0 : Keeps s v0) : Keeps s (doUnlockExpiry v0) := by
  unfold doUnlockExpiry
  exact .ite (keeps_State_trigger g0) g0

theorem keeps_sendImage {s v0} (g0 : Keeps s v0) : Keeps s (sendImage v0) := by
  unfold sendImage
  refine Keeps.ite ?_ ?_
  · exact g0
  · extract_lets -merge -underBinder +onlyGivenNames x0
    obtain ⟨y0, e0, h0⟩ := Keeps.name (s := s) (x := x0) (by
      unfold x0
      refine Keeps.foldl ?_ ?_
      · exact g0
      · intro x1 a1 h1
        exact (keeps_mirrorRecord h1))
    rw [e0]
    extract_lets -merge -underBinder +onlyGivenNames x2 x3
    obtain ⟨y3, e3, h3⟩ := Keeps.name (x := x3) (keeps_mirrorPacket (keeps_State_bump (h0.cong rfl)))
    rw [e3]
    exact keeps_mirrorPump h3

theorem keeps_peerCame {s v0} (g0 : Keeps s v0) : Keeps s (peerCame v0) := by
  unfold peerCame
  exact keeps_sendImage (g0.cong rfl)

theorem keeps_applyRoute {s v0 v1 v2} (g0 : Keeps s v0) : Keeps s (applyRoute v0 v1 v2) := by
  unfold applyRoute
  extract_lets -merge -underBinder +onlyGivenNames x0 x1 x2 x3 x4
  obtain ⟨y4, e4, h4⟩ := Keeps.name (s := s) (x := x4) (by
    unfold x4
    refine Keeps.foldl ?_ ?_
    · exact g0
    · intro x5 a5 h5
      exact (keeps_State_setReg h5))
  rw [e4]
  exact (keeps_State_finish (keeps_setRoute (keeps_setRoute h4)))

theorem keeps_applySlate {s v0 v1 v2} (g0 : Keeps s v0) : Keeps s (applySlate v0 v1 v2) := by
  unfold applySlate
  refine Keeps.ite ?_ ?_
  · exact keeps_doSlateLoad g0
  · refine keeps_runJob ?_ ?_
    · exact g0
    · intro x0_0 h0_0
      exact keeps_slateCopy (keeps_slateBegin h0_0)

theorem keeps_recordBad {s v0 v1 v2 v3 v4} (g0 : Keeps s v0) : Keeps s (recordBad v0 v1 v2 v3 v4) := by
  unfold recordBad
  exact keeps_State_finish g0

theorem keeps_applyRecord {s v0 v1 v2 v3 v4} (g0 : Keeps s v0) : Keeps s (applyRecord v0 v1 v2 v3 v4) := by
  unfold applyRecord
  extract_lets -merge -underBinder +onlyGivenNames x0 x1
  split
  · refine Keeps.ite ?_ ?_
    · exact keeps_doLiveSet g0
    · refine keeps_runJob ?_ ?_
      · exact g0
      · intro x2_0 h2_0
        exact keeps_loadBlocks h2_0
  · refine Keeps.ite ?_ ?_
    · exact keeps_recordBad g0
    · split
      · exact keeps_doCommit (keeps_commitAck g0)
      · exact keeps_doCommit g0
  · exact (.ite (keeps_State_finish (keeps_fumLockSet g0)) (.ite (keeps_doFumPolicy g0) (keeps_recordBad g0)))
  · exact .ite (keeps_doFumBind g0) (keeps_recordBad g0)
  · exact keeps_applySlate g0
  · exact .ite (keeps_applyRoute g0) (keeps_recordBad g0)
  · exact .ite (keeps_doGroupSet g0) (keeps_recordBad g0)
  · exact .ite (keeps_doCheckCfg g0) (keeps_recordBad g0)
  · exact keeps_recordBad g0

theorem keeps_mirrorNext {s v0} (g0 : Keeps s v0) : Keeps s (mirrorNext v0) := by
  unfold mirrorNext
  split
  · exact g0
  · refine Keeps.ite ?_ ?_
    · exact g0
    · extract_lets -merge -underBinder +onlyGivenNames x0 x1
      obtain ⟨y1, e1, h1⟩ := Keeps.name (x := x1) (g0.cong rfl)
      rw [e1]
      exact (.ite (keeps_mirrorSync (h1.cong rfl)) (keeps_applyRecord h1))

theorem keeps_mirrorTake {s v0 v1} (g0 : Keeps s v0) : Keeps s (mirrorTake v0 v1) := by
  unfold mirrorTake
  refine Keeps.foldl ?_ ?_
  · exact g0.cong rfl
  · intro x0 a0 h0
    exact keeps_mirrorNext h0

theorem keeps_mirrorStage {s v0 v1 v2 v3 v4 v5 v6} (g0 : Keeps s v0) : Keeps s (mirrorStage v0 v1 v2 v3 v4 v5 v6) := by
  unfold mirrorStage
  extract_lets -merge -underBinder +onlyGivenNames x0 x1
  clear_value x1
  split
  · exact g0
  · refine Keeps.ite ?_ ?_
    · exact g0
    · extract_lets -merge -underBinder +onlyGivenNames x2 x3 x4
      obtain ⟨y4, e4, h4⟩ := Keeps.name (x := x4) (g0.cong rfl)
      rw [e4]
      extract_lets -merge -underBinder +onlyGivenNames x5 x6
      obtain ⟨y6, e6, h6⟩ := Keeps.name (s := s) (x := x6) (by
        unfold x6
        refine Keeps.ite ?_ ?_
        · refine keeps_State_memWr ?_
          exact h4
        · exact h4)
      rw [e6]
      refine Keeps.ite ?_ ?_
      · exact h6.cong rfl
      · extract_lets -merge -underBinder +onlyGivenNames x7 x8
        obtain ⟨y8, e8, h8⟩ := Keeps.name (x := x8) (h6.cong rfl)
        rw [e8]
        refine Keeps.ite ?_ ?_
        · exact keeps_State_finish h8
        · split
          rename_i y9_0 x9 y9_2 e9
          have h9 : Keeps s x9 := Keeps.of_2_1 e9 (by
            refine keeps_State_memRd ?_
            exact h8)
          exact .ite (keeps_mirrorTake h9) (keeps_State_finish h9)

theorem keeps_takeAck {s v0 v1 v2} (g0 : Keeps s v0) : Keeps s (takeAck v0 v1 v2) := by
  unfold takeAck
  extract_lets -merge -underBinder +onlyGivenNames x0
  obtain ⟨y0, e0, h0⟩ := Keeps.name (x := x0) (keeps_State_setReg g0)
  rw [e0]
  split
  · exact .ite (keeps_acceptCommit h0) (keeps_ackFailed h0)
  · exact h0

theorem keeps_mirrorIn {s v0 v1} (g0 : Keeps s v0) : Keeps s (mirrorIn v0 v1) := by
  unfold mirrorIn
  extract_lets -merge -underBinder +onlyGivenNames x0
  obtain ⟨y0, e0, h0⟩ := Keeps.name (x := x0) (keeps_takeLocal g0)
  rw [e0]
  extract_lets -merge -underBinder +onlyGivenNames x1 x2 x3 x4
  obtain ⟨y4, e4, h4⟩ := Keeps.name (x := x4) (h0.cong rfl)
  rw [e4]
  refine Keeps.ite ?_ ?_
  · exact h4
  · extract_lets -merge -underBinder +onlyGivenNames x5
    obtain ⟨y5, e5, h5⟩ := Keeps.name (x := x5) (.ite (keeps_State_bump h4) h4)
    rw [e5]
    extract_lets -merge -underBinder +onlyGivenNames x6
    obtain ⟨y6, e6, h6⟩ := Keeps.name (x := x6) (.ite (keeps_mirrorLose h5) h5)
    rw [e6]
    extract_lets -merge -underBinder +onlyGivenNames x7 x8
    split
    · exact (.ite (.ite (keeps_State_bump h6) h6) (keeps_mirrorStage h6))
    · exact keeps_takeAck h6
    · exact keeps_sendImage h6
    · exact .ite h6 (keeps_mirrorTake h6)
    · exact h6

theorem keeps_doResyncReq {s v0} (g0 : Keeps s v0) : Keeps s (doResyncReq v0) := by
  unfold doResyncReq
  split
  · exact keeps_mirrorIn g0
  · exact keeps_sendImage g0

theorem keeps_doMirrorAck {s v0 v1} (g0 : Keeps s v0) : Keeps s (doMirrorAck v0 v1) := by
  unfold doMirrorAck
  exact .ite (keeps_mirrorIn g0) g0

theorem keeps_doAckTimeout {s v0} (g0 : Keeps s v0) : Keeps s (doAckTimeout v0) := by
  unfold doAckTimeout
  split
  · exact keeps_ackFailed g0
  · exact g0

theorem keeps_unpair {s v0} (g0 : Keeps s v0) : Keeps s (unpair v0) := by
  unfold unpair
  extract_lets -merge -underBinder +onlyGivenNames x0
  obtain ⟨y0, e0, h0⟩ := Keeps.name (x := x0) (keeps_setPairState (keeps_State_relinquish g0))
  rw [e0]
  extract_lets -merge -underBinder +onlyGivenNames x1 x2 x3
  obtain ⟨y3, e3, h3⟩ := Keeps.name (x := x3) (h0.cong rfl)
  rw [e3]
  exact .ite (keeps_State_setMode h3) h3

theorem keeps_pairUp {s v0} (g0 : Keeps s v0) : Keeps s (pairUp v0) := by
  unfold pairUp
  extract_lets -merge -underBinder +onlyGivenNames x0 x1
  obtain ⟨y1, e1, h1⟩ := Keeps.name (x := x1) (g0.cong rfl)
  rw [e1]
  refine Keeps.ite ?_ ?_
  · extract_lets -merge -underBinder +onlyGivenNames x2
    obtain ⟨y2, e2, h2⟩ := Keeps.name (x := x2) (keeps_setPairState h1)
    rw [e2]
    exact .ite (keeps_State_setMode h2) h2
  · exact h1

theorem keeps_doMirrorCfg {s v0 v1} (g0 : Keeps s v0) : Keeps s (doMirrorCfg v0 v1) := by
  unfold doMirrorCfg
  extract_lets -merge -underBinder +onlyGivenNames x0 x1
  refine keeps_runJob ?_ ?_
  · exact g0
  · intro x2_0 h2_0
    extract_lets -merge -underBinder +onlyGivenNames x3
    obtain ⟨y3, e3, h3⟩ := Keeps.name (x := x3) (.ite (keeps_pairUp h2_0) (keeps_unpair h2_0))
    rw [e3]
    extract_lets -merge -underBinder +onlyGivenNames x4 x5
    obtain ⟨y5, e5, h5⟩ := Keeps.name (x := x5) (h3.cong rfl)
    rw [e5]
    extract_lets -merge -underBinder +onlyGivenNames x6
    obtain ⟨y6, e6, h6⟩ := Keeps.name (x := x6) (.ite h5 (keeps_State_untrigger h5))
    rw [e6]
    extract_lets -merge -underBinder +onlyGivenNames x7
    obtain ⟨y7, e7, h7⟩ := Keeps.name (x := x7) (.ite (keeps_sendImage h6) h6)
    rw [e7]
    exact keeps_State_finish h7

theorem keeps_doStateDisagree {s v0 v1 v2} (g0 : Keeps s v0) : Keeps s (doStateDisagree v0 v1 v2) := by
  unfold doStateDisagree
  refine Keeps.ite ?_ ?_
  · exact g0
  · split
    · extract_lets -merge -underBinder +onlyGivenNames x0
      obtain ⟨y0, e0, h0⟩ := Keeps.name (x := x0) (g0.cong rfl)
      rw [e0]
      extract_lets -merge -underBinder +onlyGivenNames x1
      refine Keeps.ite ?_ ?_
      · exact h0
      · extract_lets -merge -underBinder +onlyGivenNames x2 x3
        obtain ⟨y3, e3, h3⟩ := Keeps.name (x := x3) (h0.cong rfl)
        rw [e3]
        exact keeps_State_raiseLimited h3

theorem keeps_putWindow {s v0 v1 v2} (g0 : Keeps s v0) : Keeps s (putWindow v0 v1 v2) := by
  unfold putWindow
  exact g0.cong rfl

theorem keeps_bootWrite {s v0 v1 v2 v3 v4} (g0 : Keeps s v0) : Keeps s (bootWrite v0 v1 v2 v3 v4) := by
  unfold bootWrite
  extract_lets -merge -underBinder +onlyGivenNames x0
  refine Keeps.ite ?_ ?_
  · exact keeps_State_raf g0
  · refine Keeps.ite ?_ ?_
    · exact g0
    · refine Keeps.ite ?_ ?_
      · exact keeps_State_mpuDeny g0
      · refine Keeps.ite ?_ ?_
        · exact g0
        · refine Keeps.ite ?_ ?_
          · exact keeps_State_raf g0
          · refine Keeps.ite ?_ ?_
            · split
              rename_i y1_0 x1 e1
              have h1 : Keeps s x1 := Keeps.of_2 e1 (by
                refine keeps_freeBytes ?_
                exact g0)
              exact keeps_putWindow h1
            · exact keeps_putWindow g0

theorem keeps_bootChunk {s v0 v1} (g0 : Keeps s v0) : Keeps s (bootChunk v0 v1) := by
  unfold bootChunk
  exact g0.cong rfl

theorem keeps_doChunkCopyEnd {s v0} (g0 : Keeps s v0) : Keeps s (doChunkCopyEnd v0) := by
  unfold doChunkCopyEnd
  exact .ite (g0.cong rfl) g0

theorem keeps_mgmtReady {s v0} (g0 : Keeps s v0) : Keeps s (mgmtReady v0) := by
  unfold mgmtReady
  extract_lets -merge -underBinder +onlyGivenNames x0
  obtain ⟨y0, e0, h0⟩ := Keeps.name (x := x0) (keeps_State_setReady g0)
  rw [e0]
  extract_lets -merge -underBinder +onlyGivenNames x1
  obtain ⟨y1, e1, h1⟩ := Keeps.name (x := x1) (.ite (keeps_State_raise h0) h0)
  rw [e1]
  split
  · exact keeps_State_raise (h1.cong rfl)
  · exact h1

theorem keeps_doImageEnd {s v0} (g0 : Keeps s v0) : Keeps s (doImageEnd v0) := by
  unfold doImageEnd
  refine Keeps.ite ?_ ?_
  · extract_lets -merge -underBinder +onlyGivenNames x0 x1 x2
    split
    · exact (keeps_mgmtReady (keeps_State_raise (g0.cong rfl)))
    · split
      rename_i y3_0 x3 e3
      have h3 : Keeps s x3 := Keeps.of_2 e3 (by
        refine keeps_State_fresh ?_
        exact g0)
      extract_lets -merge -underBinder +onlyGivenNames x4
      exact keeps_State_raise (h3.cong rfl)
  · exact g0

theorem keeps_pd8Off {s v0} (g0 : Keeps s v0) : Keeps s (pd8Off v0) := by
  unfold pd8Off
  extract_lets -merge -underBinder +onlyGivenNames x0 x1 x2 x3
  obtain ⟨y3, e3, h3⟩ := Keeps.name (x := x3) (g0.cong rfl)
  rw [e3]
  refine Keeps.foldl ?_ ?_
  · exact h3
  · intro x4 a4 h4
    exact keeps_driveHpd h4

theorem keeps_domainOff {s v0 v1} (g0 : Keeps s v0) : Keeps s (domainOff v0 v1) := by
  unfold domainOff
  split
  · exact keeps_pd5Off g0
  · exact keeps_pd6Off g0
  · exact keeps_pd8Off g0
  · exact g0.cong rfl

theorem keeps_domainOn {s v0 v1} (g0 : Keeps s v0) : Keeps s (domainOn v0 v1) := by
  unfold domainOn
  extract_lets -merge -underBinder +onlyGivenNames x0 x1 x2
  obtain ⟨y2, e2, h2⟩ := Keeps.name (x := x2) (g0.cong rfl)
  rw [e2]
  refine Keeps.ite ?_ ?_
  · refine Keeps.foldl ?_ ?_
    · exact h2
    · intro x3 a3 h3
      exact keeps_driveHpd h3
  · exact h2

theorem keeps_doIdleGating {s v0 v1} (g0 : Keeps s v0) : Keeps s (doIdleGating v0 v1) := by
  unfold doIdleGating
  refine Keeps.ite ?_ ?_
  · exact g0
  · extract_lets -merge -underBinder +onlyGivenNames x0 x1 x2
    obtain ⟨y2, e2, h2⟩ := Keeps.name (x := x2) (g0.cong rfl)
    rw [e2]
    refine Keeps.foldl ?_ ?_
    · exact h2
    · intro x3 a3 h3
      exact .ite (keeps_domainOff h3) h3

theorem keeps_doUnitWake {s v0 v1} (g0 : Keeps s v0) : Keeps s (doUnitWake v0 v1) := by
  unfold doUnitWake
  refine Keeps.ite ?_ ?_
  · extract_lets -merge -underBinder +onlyGivenNames x0 x1 x2
    obtain ⟨y2, e2, h2⟩ := Keeps.name (x := x2) (g0.cong rfl)
    rw [e2]
    refine Keeps.foldl ?_ ?_
    · exact h2
    · intro x3 a3 h3
      exact .ite h3 (keeps_domainOn h3)
  · exact g0

theorem keeps_wakeBusy {s v0} (g0 : Keeps s v0) : Keeps s (wakeBusy v0) := by
  unfold wakeBusy
  refine Keeps.foldl ?_ ?_
  · exact g0
  · intro x0 a0 h0
    exact .ite h0 (keeps_doUnitWake h0)

theorem keeps_doUnitStart {s v0} (g0 : Keeps s v0) : Keeps s (doUnitStart v0) := by
  unfold doUnitStart
  refine Keeps.ite ?_ ?_
  · extract_lets -merge -underBinder +onlyGivenNames x0 x1 x2 x3
    obtain ⟨y3, e3, h3⟩ := Keeps.name (x := x3) (g0.cong rfl)
    rw [e3]
    extract_lets -merge -underBinder +onlyGivenNames x4
    obtain ⟨y4, e4, h4⟩ := Keeps.name (s := s) (x := x4) (by
      unfold x4
      refine Keeps.foldl ?_ ?_
      · exact h3
      · intro x5 a5 h5
        exact (.ite h5 (keeps_domainOn h5)))
    rw [e4]
    extract_lets -merge -underBinder +onlyGivenNames x6
    obtain ⟨y6, e6, h6⟩ := Keeps.name (x := x6) (keeps_State_setReady h4)
    rw [e6]
    extract_lets -merge -underBinder +onlyGivenNames x7
    obtain ⟨y7, e7, h7⟩ := Keeps.name (x := x7) (keeps_State_setMode h6)
    rw [e7]
    extract_lets -merge -underBinder +onlyGivenNames x8
    obtain ⟨y8, e8, h8⟩ := Keeps.name (s := s) (x := x8) (by
      unfold x8
      refine Keeps.foldl ?_ ?_
      · exact h7
      · intro x9 a9 h9
        exact (keeps_State_setReady h9))
    rw [e8]
    refine Keeps.foldl ?_ ?_
    · exact h8
    · intro x10 a10 h10
      exact .ite (keeps_touchStart h10) h10
  · exact g0

theorem keeps_powerFabric {s v0} (g0 : Keeps s v0) : Keeps s (powerFabric v0) := by
  unfold powerFabric
  exact .ite g0 (g0.cong rfl)

theorem keeps_State_setMbx {s v0 v1 v2 v3} (g0 : Keeps s v0) : Keeps s (State.setMbx v0 v1 v2 v3) := by
  unfold State.setMbx
  exact g0.cong rfl

theorem keeps_selectItem {s v0 v1 v2 v3} (g0 : Keeps s v0) : Keeps s (selectItem v0 v1 v2 v3) := by
  unfold selectItem
  extract_lets -merge -underBinder +onlyGivenNames x0
  obtain ⟨y0, e0, h0⟩ := Keeps.name (s := s) (x := x0) (by
    unfold x0
    split
    · exact keeps_doUnitWake g0
    · exact g0)
  rw [e0]
  exact keeps_State_setMbx h0

theorem keeps_touchUnit {s v0 v1 v2} (g0 : Keeps s v0) : Keeps s (touchUnit v0 v1 v2) := by
  unfold touchUnit
  split
  · exact keeps_doUnitWake g0
  · exact g0

theorem keeps_readWord {s v0 v1 v2 v3} (g0 : Keeps s v0) : Keeps s (readWord v0 v1 v2 v3).2.1 := by
  unfold readWord
  split
  · refine Keeps.mk21 ?_
    refine Keeps.mk1 ?_
    exact g0
  · split
    · refine Keeps.mk21 ?_
      refine Keeps.mk1 ?_
      exact keeps_State_mpuDeny g0
    · split
      · refine Keeps.mk21 ?_
        refine Keeps.mk1 ?_
        exact g0
      · extract_lets -merge -underBinder +onlyGivenNames x0
        obtain ⟨y0, e0, h0⟩ := Keeps.name (x := x0) (keeps_touchUnit g0)
        rw [e0]
        split
        · refine Keeps.mk21 ?_
          refine Keeps.mk1 ?_
          exact h0
        · split
          · extract_lets -merge -underBinder +onlyGivenNames x1
            refine Keeps.mk21 ?_
            refine Keeps.mk1 ?_
            exact h0
          · split
            · extract_lets -merge -underBinder +onlyGivenNames x2
              refine Keeps.mk21 ?_
              refine Keeps.mk1 ?_
              exact h0
            · extract_lets -merge -underBinder +onlyGivenNames x3
              refine Keeps.mk21 ?_
              refine Keeps.mk1 ?_
              exact .ite (h0.cong rfl) h0

theorem keeps_regRead {s v0 v1 v2 v3 v4 v5} (g0 : Keeps s v0) : Keeps s (regRead v0 v1 v2 v3 v4 v5).2.1 := by
  unfold regRead
  split
  · refine Keeps.mk21 ?_
    refine Keeps.mk1 ?_
    exact g0
  · split
    · refine Keeps.mk21 ?_
      refine Keeps.mk1 ?_
      exact keeps_State_raf g0
    · split
      · refine keeps_readWord ?_
        exact g0
      · split
        rename_i y0_0 x0 y0_2 e0
        have h0 : Keeps s x0 := Keeps.of_2_1 e0 (by
          refine keeps_readWord ?_
          exact g0)
        split
        rename_i y1_0 x1 y1_2 e1
        have h1 : Keeps s x1 := Keeps.of_2_1 e1 (by
          refine keeps_readWord ?_
          exact h0)
        refine Keeps.mk21 ?_
        refine Keeps.mk1 ?_
        exact h1

theorem keeps_releaseCap {s v0 v1 v2} (g0 : Keeps s v0) : Keeps s (releaseCap v0 v1 v2) := by
  unfold releaseCap
  refine Keeps.ite ?_ ?_
  · refine Keeps.foldl ?_ ?_
    · exact g0
    · intro x0 a0 h0
      exact keeps_State_setReg h0
  · exact g0

theorem keeps_mpuLoad {s v0 v1 v2} (g0 : Keeps s v0) : Keeps s (mpuLoad v0 v1 v2) := by
  unfold mpuLoad
  split
  · exact g0
  · rename_i hl
    refine g0.trans ⟨id, id, OtpStep.refl _, id, fun r g h hg => ?_, rfl, List.suffix_refl _, Nat.le_refl _⟩
    show (v0.sys.mpu.set v1 _).get? r = some g
    rw [Tab.get?_set]
    split
    · rename_i hr
      subst hr
      exact absurd hg (by simpa [Tab.getD, h] using hl)
    · exact h

theorem keeps_ringStart {s v0 v1 v2 v3 v4} (g0 : Keeps s v0) : Keeps s (ringStart v0 v1 v2 v3 v4) := by
  unfold ringStart
  exact (.ite (keeps_State_setSq g0) (.ite (keeps_State_setCq g0) (g0.cong rfl)))

theorem keeps_debugCtrl {s v0 v1} (g0 : Keeps s v0) : Keeps s (debugCtrl v0 v1) := by
  unfold debugCtrl
  extract_lets -merge -underBinder +onlyGivenNames x0
  exact (.ite g0 (keeps_State_raise (keeps_State_setReg g0)))

theorem keeps_lifecycleAdv {s v0 v1} (g0 : Keeps s v0) : Keeps s (lifecycleAdv v0 v1) := by
  unfold lifecycleAdv
  split
  · exact g0.trans ⟨id, id, ⟨rfl, rfl, rfl, rfl, rfl, rfl, rfl, .inl rfl⟩, id, fun _ _ h _ => h, rfl, List.suffix_refl _, Nat.le_refl _⟩
  · exact g0

theorem keeps_resetWrite {s v0 v1} (g0 : Keeps s v0) : Keeps s (resetWrite v0 v1) := by
  unfold resetWrite
  exact .ite (g0.cong rfl) g0

theorem keeps_aonClear {s v0 v1} (g0 : Keeps s v0) : Keeps s (aonClear v0 v1) := by
  unfold aonClear
  extract_lets -merge -underBinder +onlyGivenNames x0 x1
  obtain ⟨y1, e1, h1⟩ := Keeps.name (x := x1) (.ite (g0.cong rfl) g0)
  rw [e1]
  extract_lets -merge -underBinder +onlyGivenNames x2 x3
  obtain ⟨y3, e3, h3⟩ := Keeps.name (x := x3) (.ite (h1.cong rfl) h1)
  rw [e3]
  exact .ite (h3.cong rfl) h3

theorem keeps_linkCtrl {s v0 v1 v2 v3} (g0 : Keeps s v0) : Keeps s (linkCtrl v0 v1 v2 v3) := by
  unfold linkCtrl
  extract_lets -merge -underBinder +onlyGivenNames x0
  obtain ⟨y0, e0, h0⟩ := Keeps.name (x := x0) (keeps_State_setReg g0)
  rw [e0]
  extract_lets -merge -underBinder +onlyGivenNames x1
  obtain ⟨y1, e1, h1⟩ := Keeps.name (x := x1) (.ite h0 (keeps_linkSetEnable h0))
  rw [e1]
  extract_lets -merge -underBinder +onlyGivenNames x2
  obtain ⟨y2, e2, h2⟩ := Keeps.name (x := x2) (.ite (keeps_linkRetrainNow h1) h1)
  rw [e2]
  exact keeps_wakeBusy h2

theorem keeps_dpCtrl {s v0 v1 v2} (g0 : Keeps s v0) : Keeps s (dpCtrl v0 v1 v2) := by
  unfold dpCtrl
  extract_lets -merge -underBinder +onlyGivenNames x0 x1
  obtain ⟨y1, e1, h1⟩ := Keeps.name (x := x1) (.ite (keeps_State_setDp g0) g0)
  rw [e1]
  exact .ite (keeps_dpForce h1) h1

theorem keeps_everyLane {s v0 v1} (g0 : Keeps s v0) (g1 : ∀ u0 u1 u2, Keeps s u0 → Keeps s (v1 u0 u1 u2)) : Keeps s (everyLane v0 v1) := by
  unfold everyLane
  refine Keeps.foldl ?_ ?_
  · exact g0
  · intro x0 a0 h0
    refine Keeps.foldl ?_ ?_
    · exact h0
    · intro x1 a1 h1
      exact g1 _ _ _ h1

theorem keeps_cureParity {s v0 v1} (g0 : Keeps s v0) : Keeps s (cureParity v0 v1) := by
  unfold cureParity
  refine Keeps.ite ?_ ?_
  · extract_lets -merge -underBinder +onlyGivenNames x0 x1
    obtain ⟨y1, e1, h1⟩ := Keeps.name (x := x1) (g0.cong rfl)
    rw [e1]
    exact .ite (keeps_State_untrigger h1) h1
  · exact g0

theorem keeps_effectSys {s v0 v1 v2 v3 v4 v5 v6} (g0 : Keeps s v0) : ∀ t, effectSys v0 v1 v2 v3 v4 v5 v6 = some t → Keeps s t := by
  unfold effectSys
  refine Keeps.optIte (keeps_debugCtrl g0) ?_
  refine Keeps.optIte (keeps_lifecycleAdv g0) ?_
  refine Keeps.optIte (keeps_resetWrite g0) ?_
  refine Keeps.optIte (keeps_bootChunk g0) ?_
  refine Keeps.optIte (keeps_releaseCap g0) ?_
  refine Keeps.optIte (keeps_mpuLoad g0) ?_
  refine Keeps.optIte (keeps_releaseCap g0) ?_
  refine Keeps.optIte (keeps_ringStart (keeps_State_setReg g0)) ?_
  refine Keeps.optIte (keeps_coalNow (keeps_State_setReg g0)) ?_
  refine Keeps.optIte (keeps_coalNow (keeps_State_setReg g0)) ?_
  exact Keeps.optNone

theorem keeps_effectUnit {s v0 v1 v2 v3 v4 v5} (g0 : Keeps s v0) : ∀ t, effectUnit v0 v1 v2 v3 v4 v5 = some t → Keeps s t := by
  unfold effectUnit
  refine Keeps.optIte (keeps_releaseCap g0) ?_
  refine Keeps.optIte (keeps_releaseCap g0) ?_
  refine Keeps.optIte (keeps_releaseCap g0) ?_
  refine Keeps.optIte (keeps_fumLockSet g0) ?_
  refine Keeps.optIte (keeps_dpCtrl g0) ?_
  refine Keeps.optIte (keeps_linkCtrl g0) ?_
  refine Keeps.optIte (Keeps.ite g0 (keeps_capsAll (keeps_State_setReg g0))) ?_
  refine Keeps.optIte (keeps_domainWrite g0) ?_
  refine Keeps.optIte g0 ?_
  refine Keeps.optIte (keeps_releaseCap g0) ?_
  refine Keeps.optIte (keeps_everyLane (keeps_State_setReg g0) (fun _ _ _ h => keeps_laneLowEye h)) ?_
  refine Keeps.optIte (keeps_laneNewBound (keeps_State_setReg g0)) ?_
  refine Keeps.optIte (keeps_laneCtrl g0) ?_
  refine Keeps.optIte (keeps_aonClear g0) ?_
  refine Keeps.optIte (keeps_pairCtrl g0) ?_
  refine Keeps.optIte (keeps_wakeBusy (keeps_touchCtrl g0)) ?_
  exact Keeps.optNone

theorem keeps_acceptWrite {s v0 v1 v2 v3 v4 v5 v6 v7 v8} (g0 : Keeps s v0) : Keeps s (acceptWrite v0 v1 v2 v3 v4 v5 v6 v7 v8) := by
  unfold acceptWrite
  extract_lets -merge -underBinder +onlyGivenNames x1 x2
  have h1 : Keeps s x1 := Keeps.ite (keeps_cureParity g0) g0
  have h2 : ∀ t, x2 = some t → Keeps s t := by
    intro t ht
    by_cases hc : v3 < 0x400000
    · exact keeps_effectSys h1 t ((if_pos hc).symm.trans ht)
    · exact keeps_effectUnit h1 t ((if_neg hc).symm.trans ht)
  clear_value x2
  split
  · exact h2 _ rfl
  · exact Keeps.ite h1 (keeps_State_setReg h1)

theorem keeps_writeWord {s v0 v1 v2 v3 v4} (g0 : Keeps s v0) : Keeps s (writeWord v0 v1 v2 v3 v4).1 := by
  unfold writeWord
  refine Keeps.ite1 ?_ ?_
  · refine Keeps.mk1 ?_
    exact g0
  · refine Keeps.ite1 ?_ ?_
    · refine Keeps.mk1 ?_
      exact keeps_State_mpuDeny g0
    · split
      · refine Keeps.mk1 ?_
        exact g0
      · extract_lets -merge -underBinder +onlyGivenNames x0
        obtain ⟨y0, e0, h0⟩ := Keeps.name (x := x0) (keeps_touchUnit g0)
        rw [e0]
        refine Keeps.ite1 ?_ ?_
        · refine Keeps.mk1 ?_
          exact keeps_selectItem h0
        · extract_lets -merge -underBinder +onlyGivenNames x1
          refine Keeps.ite1 ?_ ?_
          · refine Keeps.mk1 ?_
            exact h0
          · extract_lets -merge -underBinder +onlyGivenNames x2 x3
            split
            · refine Keeps.mk1 ?_
              exact keeps_State_raf h0
            · refine Keeps.mk1 ?_
              exact keeps_acceptWrite h0

theorem keeps_msixRelease {s v0 v1 v2} (g0 : Keeps s v0) : Keeps s (msixRelease v0 v1 v2) := by
  unfold msixRelease
  exact (.ite (keeps_State_emit (g0.cong rfl)) g0)

theorem keeps_msixWrite {s v0 v1 v2 v3} (g0 : Keeps s v0) : Keeps s (msixWrite v0 v1 v2 v3) := by
  unfold msixWrite
  exact keeps_msixRelease (g0.cong rfl)

theorem keeps_regWrite {s v0 v1 v2 v3 v4 v5 v6} (g0 : Keeps s v0) : Keeps s (regWrite v0 v1 v2 v3 v4 v5 v6).1 := by
  unfold regWrite
  refine Keeps.ite1 ?_ ?_
  · refine Keeps.mk1 ?_
    exact g0
  · refine Keeps.ite1 ?_ ?_
    · refine Keeps.mk1 ?_
      exact keeps_bootWrite g0
    · refine Keeps.ite1 ?_ ?_
      · refine Keeps.mk1 ?_
        exact keeps_State_raf g0
      · refine Keeps.ite1 ?_ ?_
        · refine keeps_writeWord ?_
          exact g0
        · split
          rename_i x0 y0_1 e0
          have h0 : Keeps s x0 := Keeps.of_1 e0 (by
            refine keeps_writeWord ?_
            exact g0)
          split
          rename_i x1 y1_1 e1
          have h1 : Keeps s x1 := Keeps.of_1 e1 (by
            refine keeps_writeWord ?_
            exact h0)
          refine Keeps.mk1 ?_
          exact h1

theorem keeps_regWrite32 {s v0 v1 v2 v3} (g0 : Keeps s v0) : Keeps s (regWrite32 v0 v1 v2 v3) := by
  unfold regWrite32
  refine keeps_regWrite ?_
  exact g0

theorem keeps_doLatch {s v0 v1 v2} (g0 : Keeps s v0) : Keeps s (doLatch v0 v1 v2) := by
  unfold doLatch
  split
  · exact g0
  · refine Keeps.ite ?_ ?_
    · exact g0
    · extract_lets -merge -underBinder +onlyGivenNames x0
      split
      · exact keeps_State_setMbx g0
      · exact .ite (keeps_State_setMbx g0) (keeps_State_setMbx g0)

theorem keeps_doorbellWrite {s v0 v1 v2 v3 v4} (g0 : Keeps s v0) : Keeps s (doorbellWrite v0 v1 v2 v3 v4) := by
  unfold doorbellWrite
  exact (.ite g0 (.ite (.ite (keeps_State_bump g0) g0) (.ite (keeps_sqDoorbell g0) (.ite (keeps_cqDoorbell g0) (keeps_evqDoorbell g0)))))

theorem keeps_windowRequest {s v0 v1 v2 v3 v4 v5 v6} (g0 : Keeps s v0) : Keeps s (windowRequest v0 v1 v2 v3 v4 v5 v6) := by
  unfold windowRequest
  extract_lets -merge -underBinder +onlyGivenNames x0 x1 x2 x3
  exact keeps_mgmtIssue (fun _ _ _ h => keeps_State_raise h) g0

theorem keeps_msixAllowed {s v0 v1 v2 v3} (g0 : Keeps s v0) : Keeps s (msixAllowed v0 v1 v2 v3).1 := by
  unfold msixAllowed
  extract_lets -merge -underBinder +onlyGivenNames x0
  refine Keeps.ite1 ?_ ?_
  · refine Keeps.mk1 ?_
    exact g0
  · refine Keeps.mk1 ?_
    exact keeps_State_mpuDeny g0

theorem keeps_msixLoad {s v0 v1 v2} (g0 : Keeps s v0) : Keeps s (msixLoad v0 v1 v2).2 := by
  unfold msixLoad
  split
  rename_i x0 y0_1 e0
  have h0 : Keeps s x0 := Keeps.of_1 e0 (by
    refine keeps_msixAllowed ?_
    exact g0)
  refine Keeps.mk2 ?_
  exact h0

theorem keeps_msixStore {s v0 v1 v2 v3} (g0 : Keeps s v0) : Keeps s (msixStore v0 v1 v2 v3) := by
  unfold msixStore
  split
  rename_i x0 y0_1 e0
  have h0 : Keeps s x0 := Keeps.of_1 e0 (by
    refine keeps_msixAllowed ?_
    exact g0)
  exact .ite h0 (keeps_msixWrite h0)

theorem keeps_localRead {s v0 v1 v2 v3 v4} (g0 : Keeps s v0) : Keeps s (localRead v0 v1 v2 v3 v4).2 := by
  unfold localRead
  refine Keeps.ite2 ?_ ?_
  · refine Keeps.ite2 ?_ ?_
    · refine Keeps.mk2 ?_
      exact g0
    · split
      rename_i y0_0 x0 e0
      have h0 : Keeps s x0 := Keeps.of_2 e0 (by
        refine keeps_msixLoad ?_
        exact g0)
      refine Keeps.ite2 ?_ ?_
      · split
        rename_i y1_0 x1 e1
        have h1 : Keeps s x1 := Keeps.of_2 e1 (by
          refine keeps_msixLoad ?_
          exact h0)
        refine Keeps.mk2 ?_
        exact h1
      · refine Keeps.mk2 ?_
        exact h0
  · split
    rename_i y2_0 x2 y2_2 e2
    have h2 : Keeps s x2 := Keeps.of_2_1 e2 (by
      refine keeps_regRead ?_
      exact g0)
    refine Keeps.mk2 ?_
    exact h2

theorem keeps_localWrite {s v0 v1 v2 v3 v4 v5} (g0 : Keeps s v0) : Keeps s (localWrite v0 v1 v2 v3 v4 v5) := by
  unfold localWrite
  refine Keeps.ite ?_ ?_
  · refine Keeps.ite ?_ ?_
    · exact g0
    · extract_lets -merge -underBinder +onlyGivenNames x0
      obtain ⟨y0, e0, h0⟩ := Keeps.name (x := x0) (keeps_msixStore g0)
      rw [e0]
      exact .ite (keeps_msixStore h0) h0
  · refine keeps_regWrite ?_
    exact g0

theorem keeps_regRequest {s v0 v1 v2 v3 v4 v5} (g0 : Keeps s v0) : Keeps s (regRequest v0 v1 v2 v3 v4 v5) := by
  unfold regRequest
  extract_lets -merge -underBinder +onlyGivenNames x0 x1
  refine Keeps.ite ?_ ?_
  · extract_lets -merge -underBinder +onlyGivenNames x2
    refine Keeps.ite ?_ ?_
    · exact keeps_localWrite g0
    · refine keeps_regWrite ?_
      exact g0
  · refine Keeps.ite ?_ ?_
    · split
      rename_i y3_0 x3 e3
      have h3 : Keeps s x3 := Keeps.of_2 e3 (by
        refine keeps_localRead ?_
        exact g0)
      exact keeps_State_emit h3
    · split
      rename_i y4_0 x4 y4_2 e4
      have h4 : Keeps s x4 := Keeps.of_2_1 e4 (by
        refine keeps_regRead ?_
        exact g0)
      exact keeps_State_emit h4

theorem keeps_doMasterRequest {s v0 v1 v2 v3 v4 v5} (g0 : Keeps s v0) : Keeps s (doMasterRequest v0 v1 v2 v3 v4 v5) := by
  unfold doMasterRequest
  exact .ite (keeps_regRequest g0) (keeps_doMemRequest g0)

theorem keeps_pcieAnswer {s v0 v1 v2 v3} (g0 : Keeps s v0) : Keeps s (pcieAnswer v0 v1 v2 v3) := by
  unfold pcieAnswer
  exact keeps_State_emit g0

theorem keeps_windowAccess {s v0 v1 v2 v3 v4 v5 v6 v7 v8} (g0 : Keeps s v0) : Keeps s (windowAccess v0 v1 v2 v3 v4 v5 v6 v7 v8) := by
  unfold windowAccess
  refine Keeps.ite ?_ ?_
  · refine Keeps.ite ?_ ?_
    · exact keeps_localWrite g0
    · split
      rename_i y0_0 x0 e0
      have h0 : Keeps s x0 := Keeps.of_2 e0 (by
        refine keeps_localRead ?_
        exact g0)
      exact keeps_pcieAnswer h0
  · refine Keeps.ite ?_ ?_
    · exact .ite g0 (keeps_pcieAnswer g0)
    · refine Keeps.ite ?_ ?_
      · refine Keeps.ite ?_ ?_
        · refine keeps_regWrite ?_
          exact g0
        · split
          rename_i y1_0 x1 y1_2 e1
          have h1 : Keeps s x1 := Keeps.of_2_1 e1 (by
            refine keeps_regRead ?_
            exact g0)
          exact keeps_pcieAnswer h1
      · refine Keeps.ite ?_ ?_
        · extract_lets -merge -underBinder +onlyGivenNames x2
          obtain ⟨y2, e2, h2⟩ := Keeps.name (x := x2) (keeps_State_raf g0)
          rw [e2]
          exact .ite h2 (keeps_pcieAnswer h2)
        · exact .ite (keeps_windowRequest g0) (keeps_windowRequest g0)

theorem keeps_pageAccess {s v0 v1 v2 v3 v4 v5 v6 v7 v8} (g0 : Keeps s v0) : Keeps s (pageAccess v0 v1 v2 v3 v4 v5 v6 v7 v8) := by
  unfold pageAccess
  extract_lets -merge -underBinder +onlyGivenNames x0
  exact (.ite (keeps_pcieAnswer g0) (.ite (keeps_doorbellWrite g0) (.ite (.ite (keeps_holdDoorbell g0) g0) (.ite g0 (.ite (keeps_State_bump g0) (.ite (keeps_evqDoorbell g0) (keeps_windowRequest g0)))))))

theorem keeps_doWindowAccess {s v0 v1 v2 v3 v4 v5 v6 v7} (g0 : Keeps s v0) : Keeps s (doWindowAccess v0 v1 v2 v3 v4 v5 v6 v7) := by
  unfold doWindowAccess
  exact (.ite g0 (.ite (.ite (keeps_pageAccess g0) g0) (.ite (keeps_windowAccess g0) g0)))

theorem keeps_domainRequest {s v0 v1 v2 v3} (g0 : Keeps s v0) : Keeps s (domainRequest v0 v1 v2 v3).1 := by
  unfold domainRequest
  refine Keeps.ite1 ?_ ?_
  · split
    rename_i x0 y0_1 e0
    have h0 : Keeps s x0 := Keeps.of_1 e0 (by
      refine keeps_domainWrite ?_
      exact g0)
    refine Keeps.mk1 ?_
    exact .ite (keeps_cureParity h0) h0
  · refine Keeps.mk1 ?_
    exact keeps_State_mpuDeny g0

theorem keeps_mgmtWriteWord {s v0 v1 v2 v3 v4} (g0 : Keeps s v0) : Keeps s (mgmtWriteWord v0 v1 v2 v3 v4).1 := by
  unfold mgmtWriteWord
  refine Keeps.ite1 ?_ ?_
  · refine keeps_domainRequest ?_
    exact g0
  · split
    rename_i x0 y0_1 e0
    have h0 : Keeps s x0 := Keeps.of_1 e0 (by
      refine keeps_regWrite ?_
      exact g0)
    refine Keeps.mk1 ?_
    exact h0

theorem keeps_mgmtExecute {s v0 v1} (g0 : Keeps s v0) : Keeps s (mgmtExecute v0 v1).1 := by
  unfold mgmtExecute
  extract_lets -merge -underBinder +onlyGivenNames x0 x1 x2 x3 x4 x5 x6 x7 x8
  refine Keeps.ite1 ?_ ?_
  · refine Keeps.mk1 ?_
    exact g0
  · refine Keeps.ite1 ?_ ?_
    · refine Keeps.mk1 ?_
      exact keeps_domainDenied g0
    · clear_value x1
      split
      · refine Keeps.ite1 ?_ ?_
        · refine Keeps.mk1 ?_
          exact g0
        · split
          rename_i y9_0 x9 y9_2 e9
          have h9 : Keeps s x9 := Keeps.of_2_1 e9 (by
            refine keeps_regRead ?_
            exact g0)
          refine Keeps.mk1 ?_
          exact h9
      · refine Keeps.ite1 ?_ ?_
        · refine Keeps.mk1 ?_
          exact g0
        · refine Keeps.ite1 ?_ ?_
          · split
            rename_i x10 y10_1 e10
            have h10 : Keeps s x10 := Keeps.of_1 e10 (by
              refine keeps_mgmtWriteWord ?_
              exact g0)
            refine Keeps.mk1 ?_
            exact h10
          · refine Keeps.ite1 ?_ ?_
            · split
              rename_i x11 y11_1 e11
              have h11 : Keeps s x11 := Keeps.of_1 e11 (by
                refine keeps_mgmtWriteWord ?_
                exact g0)
              split
              rename_i x12 y12_1 e12
              have h12 : Keeps s x12 := Keeps.of_1 e12 (by
                refine keeps_mgmtWriteWord ?_
                exact h11)
              refine Keeps.mk1 ?_
              exact h12
            · refine Keeps.mk1 ?_
              refine keeps_regWrite ?_
              exact g0
      · refine Keeps.ite1 ?_ ?_
        · refine Keeps.mk1 ?_
          exact g0
        · refine Keeps.mk1 ?_
          exact keeps_doorbellWrite g0
      · refine Keeps.ite1 ?_ ?_
        · split
          rename_i y13_0 x13 e13
          have h13 : Keeps s x13 := Keeps.of_2 e13 (by
            refine keeps_freeBytes ?_
            exact g0)
          refine Keeps.mk1 ?_
          exact keeps_State_emit h13
        · refine Keeps.mk1 ?_
          exact g0
      · refine Keeps.ite1 ?_ ?_
        · refine Keeps.ite1 ?_ ?_
          · refine Keeps.mk1 ?_
            exact keeps_msixSignal g0
          · refine Keeps.mk1 ?_
            exact keeps_State_emit g0
        · refine Keeps.mk1 ?_
          exact g0

theorem keeps_doMgmtRequest {s v0 v1 v2} (g0 : Keeps s v0) : Keeps s (doMgmtRequest v0 v1 v2) := by
  unfold doMgmtRequest
  extract_lets -merge -underBinder +onlyGivenNames x0
  obtain ⟨y0, e0, h0⟩ := Keeps.name (x := x0) (keeps_takeLocal g0)
  rw [e0]
  extract_lets -merge -underBinder +onlyGivenNames x1 x2 x3 x4
  split
  · refine Keeps.ite ?_ ?_
    · split
      rename_i x5 y5_1 y5_2 e5
      have h5 : Keeps s x5 := Keeps.of_1 e5 (by
        refine keeps_mgmtExecute ?_
        exact h0)
      extract_lets -merge -underBinder +onlyGivenNames x6
      exact keeps_State_routePkt (h5.cong rfl)
    · exact keeps_State_routePkt h0
  · refine Keeps.ite ?_ ?_
    · exact h0
    · split
      rename_i x7 y7_1 y7_2 e7
      have h7 : Keeps s x7 := Keeps.of_1 e7 (by
        refine keeps_mgmtExecute ?_
        exact h0)
      extract_lets -merge -underBinder +onlyGivenNames x8 x9 x10
      exact keeps_State_routePkt (h7.cong rfl)

theorem keeps_dropWork {s v0 v1} (g0 : Keeps s v0) : Keeps s (dropWork v0 v1) := by
  unfold dropWork
  exact g0.cong rfl

theorem keeps_readerAnswer {s v0 v1 v2} (g0 : Keeps s v0) : Keeps s (readerAnswer v0 v1 v2) := by
  unfold readerAnswer
  refine Keeps.ite ?_ ?_
  · extract_lets -merge -underBinder +onlyGivenNames x0 x1
    exact .ite (g0.cong rfl) (g0.cong rfl)
  · exact keeps_State_emit g0

theorem keeps_dmaFailed {s v0 v1} (g0 : Keeps s v0) : Keeps s (dmaFailed v0 v1) := by
  unfold dmaFailed
  split
  · refine Keeps.ite ?_ ?_
    · extract_lets -merge -underBinder +onlyGivenNames x0
      obtain ⟨y0, e0, h0⟩ := Keeps.name (x := x0) (keeps_abortJob (keeps_dropWork g0))
      rw [e0]
      exact .ite (keeps_pumpFeeds h0) h0
    · exact g0
  · exact keeps_readerAnswer g0
  · exact g0

theorem keeps_resumeWith {s v0 v1 v2} (g0 : Keeps s v0) : Keeps s (resumeWith v0 v1 v2) := by
  unfold resumeWith
  refine Keeps.ite ?_ ?_
  · exact keeps_abortJob (keeps_dropWork g0)
  · split
    · exact keeps_feedHere g0
    · exact keeps_capLoad g0
    · exact keeps_loadBlocks g0
    · exact keeps_slateCopy g0
    · exact keeps_routeLoad g0
    · exact keeps_panelLoad g0
    · exact keeps_memCopyIn g0
    · exact keeps_State_finish g0

theorem keeps_resumeDma {s v0 v1} (g0 : Keeps s v0) : Keeps s (resumeDma v0 v1) := by
  unfold resumeDma
  split
  · exact keeps_State_finish g0
  · exact keeps_resumeWith (g0.cong rfl)

theorem keeps_dmaAnswer {s v0 v1 v2} (g0 : Keeps s v0) : Keeps s (dmaAnswer v0 v1 v2) := by
  unfold dmaAnswer
  split
  · exact g0
  · exact keeps_readerAnswer g0
  · extract_lets -merge -underBinder +onlyGivenNames x0 x1
    obtain ⟨y1, e1, h1⟩ := Keeps.name (x := x1) (.ite (g0.cong rfl) g0)
    rw [e1]
    refine Keeps.ite ?_ ?_
    · exact h1
    · refine Keeps.foldl ?_ ?_
      · exact h1
      · intro x2 a2 h2
        exact keeps_resumeDma h2

theorem keeps_pumpRequests {s v0 v1} (g0 : Keeps s v0) : Keeps s (pumpRequests v0 v1) := by
  unfold pumpRequests
  extract_lets -merge -underBinder +onlyGivenNames x0
  split
  · exact (.ite (keeps_mgmtIssue (fun _ _ _ h => keeps_State_raise h) (keeps_State_setRequester g0)) g0)
  · exact g0

theorem keeps_doResp {s v0 v1 v2} (g0 : Keeps s v0) : Keeps s (doResp v0 v1 v2) := by
  unfold doResp
  extract_lets -merge -underBinder +onlyGivenNames x0
  obtain ⟨y0, e0, h0⟩ := Keeps.name (x := x0) (keeps_takeLocal g0)
  rw [e0]
  split
  · exact h0
  · extract_lets -merge -underBinder +onlyGivenNames x1 x2
    obtain ⟨y2, e2, h2⟩ := Keeps.name (x := x2) (keeps_State_setRequester h0)
    rw [e2]
    extract_lets -merge -underBinder +onlyGivenNames x3 x4 x5
    obtain ⟨y5, e5, h5⟩ := Keeps.name (x := x5) (.ite (keeps_State_bump h2) h2)
    rw [e5]
    extract_lets -merge -underBinder +onlyGivenNames x6
    obtain ⟨y6, e6, h6⟩ := Keeps.name (x := x6) (.ite (.ite (keeps_pcieAnswer h5) h5) (.ite (keeps_dmaFailed h2) (keeps_dmaAnswer h2)))
    rw [e6]
    exact keeps_pumpRequests h6

theorem keeps_requestFailed {s v0 v1} (g0 : Keeps s v0) : Keeps s (requestFailed v0 v1) := by
  unfold requestFailed
  refine Keeps.ite ?_ ?_
  · exact keeps_dmaFailed g0
  · extract_lets -merge -underBinder +onlyGivenNames x0
    obtain ⟨y0, e0, h0⟩ := Keeps.name (x := x0) (keeps_State_bump g0)
    rw [e0]
    extract_lets -merge -underBinder +onlyGivenNames x1
    obtain ⟨y1, e1, h1⟩ := Keeps.name (x := x1) (.ite h0 (keeps_State_setReg (keeps_State_setReg h0)))
    rw [e1]
    extract_lets -merge -underBinder +onlyGivenNames x2
    obtain ⟨y2, e2, h2⟩ := Keeps.name (x := x2) (keeps_State_raise h1)
    rw [e2]
    exact .ite (keeps_pcieAnswer h2) h2

theorem keeps_resendAll {s v0 v1} (g0 : Keeps s v0) : Keeps s (resendAll v0 v1) := by
  unfold resendAll
  extract_lets -merge -underBinder +onlyGivenNames x0 x1
  refine Keeps.foldl ?_ ?_
  · exact keeps_State_setRequester g0
  · intro x2 a2 h2
    exact keeps_State_routePkt h2

theorem keeps_doRetryTimeout {s v0 v1} (g0 : Keeps s v0) : Keeps s (doRetryTimeout v0 v1) := by
  unfold doRetryTimeout
  extract_lets -merge -underBinder +onlyGivenNames x0
  split
  · exact g0
  · refine Keeps.ite ?_ ?_
    · exact keeps_resendAll g0
    · extract_lets -merge -underBinder +onlyGivenNames x1 x2 x3
      obtain ⟨y3, e3, h3⟩ := Keeps.name (x := x3) (keeps_requestFailed (keeps_State_setRequester g0))
      rw [e3]
      exact keeps_pumpRequests (keeps_resendAll h3)

theorem keeps_gapRecord {s v0 v1 v2 v3} (g0 : Keeps s v0) : Keeps s (gapRecord v0 v1 v2 v3) := by
  unfold gapRecord
  extract_lets -merge -underBinder +onlyGivenNames x0 x1 x2
  obtain ⟨y2, e2, h2⟩ := Keeps.name (x := x2) (keeps_State_emit (g0.cong rfl))
  rw [e2]
  refine Keeps.foldl ?_ ?_
  · exact h2
  · intro x3 a3 h3
    exact .ite h3 (keeps_evqWrite h3)

theorem keeps_doEventPacket {s v0 v1} (g0 : Keeps s v0) : Keeps s (doEventPacket v0 v1) := by
  unfold doEventPacket
  extract_lets -merge -underBinder +onlyGivenNames x0
  obtain ⟨y0, e0, h0⟩ := Keeps.name (x := x0) (keeps_takeLocal g0)
  rw [e0]
  refine Keeps.ite ?_ ?_
  · exact h0
  · extract_lets -merge -underBinder +onlyGivenNames x1
    refine Keeps.ite ?_ ?_
    · exact h0
    · extract_lets -merge -underBinder +onlyGivenNames x2 x3
      obtain ⟨y3, e3, h3⟩ := Keeps.name (x := x3) (h0.cong rfl)
      rw [e3]
      split
      · exact h3
      · exact (keeps_evqDeliver (.ite h3 (keeps_gapRecord h3)))

theorem keeps_dapDone {s v0 v1 v2 v3} (g0 : Keeps s v0) : Keeps s (dapDone v0 v1 v2 v3) := by
  unfold dapDone
  exact g0.cong rfl

theorem keeps_dapMemRead {s v0 v1 v2} (g0 : Keeps s v0) : Keeps s (dapMemRead v0 v1 v2).2 := by
  unfold dapMemRead
  refine Keeps.ite2 ?_ ?_
  · split
    rename_i y0_0 x0 e0
    have h0 : Keeps s x0 := Keeps.of_2 e0 (by
      refine Keeps.foldl2 ?_ ?_
      · refine Keeps.mk2 ?_
        exact g0
      · intro x1 a1 h1
        split
        split
        refine Keeps.ite2 ?_ ?_
        · refine Keeps.mk2 ?_
          exact h1
        · refine Keeps.mk2 ?_
          exact (keeps_State_addrFault h1))
    refine Keeps.mk2 ?_
    exact h0
  · refine Keeps.ite2 ?_ ?_
    · refine keeps_State_masterRead ?_
      exact g0
    · refine Keeps.mk2 ?_
      exact g0

theorem keeps_dapMemWrite {s v0 v1 v2} (g0 : Keeps s v0) : Keeps s (dapMemWrite v0 v1 v2) := by
  unfold dapMemWrite
  refine Keeps.ite ?_ ?_
  · refine Keeps.foldl ?_ ?_
    · exact g0
    · intro x0 a0 h0
      split
      exact .ite (h0.trans ⟨fun h => memWrite_wf _ _ _ h, id, OtpStep.refl _, id, fun _ _ h _ => h, rfl, List.suffix_refl _, Nat.le_refl _⟩) (keeps_State_addrFault h0)
  · exact .ite (keeps_State_hostWrite g0) g0

theorem keeps_dapWaits {s v0} (g0 : Keeps s v0) : Keeps s (dapWaits v0) := by
  unfold dapWaits
  exact g0.cong rfl

theorem keeps_dapRead {s v0 v1 v2} (g0 : Keeps s v0) : Keeps s (dapRead v0 v1 v2) := by
  unfold dapRead
  extract_lets -merge -underBinder +onlyGivenNames x0
  refine Keeps.ite ?_ ?_
  · exact keeps_dapDone g0
  · refine Keeps.ite ?_ ?_
    · split
      rename_i y1_0 x1 y1_2 e1
      have h1 : Keeps s x1 := Keeps.of_2_1 e1 (by
        refine keeps_regRead ?_
        exact g0)
      exact keeps_dapDone h1
    · refine Keeps.ite ?_ ?_
      · exact keeps_dapDone (keeps_State_mpuDeny g0)
      · refine Keeps.ite ?_ ?_
        · exact keeps_dapWaits g0
        · split
          rename_i y2_0 x2 e2
          have h2 : Keeps s x2 := Keeps.of_2 e2 (by
            refine keeps_dapMemRead ?_
            exact g0)
          split
          · exact keeps_dapDone h2
          · exact keeps_dapWaits h2

theorem keeps_dapWrite {s v0 v1 v2 v3} (g0 : Keeps s v0) : Keeps s (dapWrite v0 v1 v2 v3) := by
  unfold dapWrite
  extract_lets -merge -underBinder +onlyGivenNames x0 x1
  refine Keeps.ite ?_ ?_
  · exact keeps_dapDone g0
  · refine Keeps.ite ?_ ?_
    · split
      rename_i x2 y2_1 e2
      have h2 : Keeps s x2 := Keeps.of_1 e2 (by
        refine keeps_regWrite ?_
        exact g0)
      exact keeps_dapDone h2
    · exact (.ite (keeps_dapDone (keeps_State_mpuDeny g0)) (.ite (keeps_dapWaits g0) (keeps_dapDone (keeps_dapMemWrite g0))))

theorem keeps_doDapCmd {s v0 v1} (g0 : Keeps s v0) : Keeps s (doDapCmd v0 v1) := by
  unfold doDapCmd
  extract_lets -merge -underBinder +onlyGivenNames x0
  obtain ⟨y0, e0, h0⟩ := Keeps.name (x := x0) (keeps_State_emit g0)
  rw [e0]
  extract_lets -merge -underBinder +onlyGivenNames x1 x2 x3
  obtain ⟨y3, e3, h3⟩ := Keeps.name (x := x3) (h0.cong rfl)
  rw [e3]
  refine Keeps.ite ?_ ?_
  · exact h3
  · extract_lets -merge -underBinder +onlyGivenNames x4 x5 x6 x7 x8
    obtain ⟨y8, e8, h8⟩ := Keeps.name (x := x8) (h3.cong rfl)
    rw [e8]
    exact .ite h8 (keeps_dapRead h8)

theorem keeps_doDapData {s v0 v1} (g0 : Keeps s v0) : Keeps s (doDapData v0 v1) := by
  unfold doDapData
  extract_lets -merge -underBinder +onlyGivenNames x0 x1 x2
  obtain ⟨y2, e2, h2⟩ := Keeps.name (x := x2) (g0.cong rfl)
  rw [e2]
  extract_lets -merge -underBinder +onlyGivenNames x3
  refine Keeps.ite ?_ ?_
  · extract_lets -merge -underBinder +onlyGivenNames x4
    exact .ite (keeps_dapWrite h2) (h2.cong rfl)
  · split
    · exact keeps_State_emit (h2.cong rfl)
    · exact h2

end Machine
end Sys2Proof
end

