-- ==== Sys2Proof/Laws/KeepsPower.lean ====
section
/-! SUPPORT. What power, resets, DORMANT and the order of commands keep, said once for each operation: the memory stays canonical, the pins follow the pair
state, the lifecycle is one-way, the bar and locked MPU regions stay, the queue is untouched, what was put out stays, and the clock never
goes back. A lemma keeps_f says it of the operation f. -/

set_option Elab.async false

namespace Sys2Proof
namespace Machine

theorem keeps_tripPin {s v0} (g0 : Keeps s v0) : Keeps s (tripPin v0) := by
  unfold tripPin
  exact keeps_State_emit g0

theorem OtpRec.afterReset_step (s t : State) (h : t.otp = s.otp.afterReset) : OtpStep s t := by
  unfold OtpStep
  rw [h]
  unfold OtpRec.afterReset
  split
  · rename_i h1
    exact ⟨rfl, rfl, rfl, rfl, rfl, rfl, rfl, .inr ⟨h1.2, rfl⟩⟩
  · exact ⟨rfl, rfl, rfl, rfl, rfl, rfl, rfl, .inl rfl⟩
theorem survives_resetState (t : State) (pin : Bool) : Survives t (resetState t pin) :=
  ⟨fun _ => rfl, fun _ => ⟨rfl, rfl⟩, OtpRec.afterReset_step _ _ rfl, rfl, List.suffix_refl _, Nat.le_refl _⟩

theorem keeps_readyFalls {s v0 v1} (g0 : Keeps s v0) : Keeps s (readyFalls v0 v1) := by
  unfold readyFalls
  refine Keeps.foldl ?_ ?_
  · exact g0
  · intro x0 a0 h0
    exact keeps_State_emit h0

theorem keeps_resetOut {s v0 v1} (g0 : Keeps s v0) : Keeps s (resetOut v0 v1) := by
  unfold resetOut
  extract_lets -merge -underBinder +onlyGivenNames x0
  obtain ⟨y0, e0, h0⟩ := Keeps.name (x := x0) (keeps_readyFalls (keeps_hpdLow g0))
  rw [e0]
  extract_lets -merge -underBinder +onlyGivenNames x1
  obtain ⟨y1, e1, h1⟩ := Keeps.name (x := x1) (.ite (keeps_State_emit h0) h0)
  rw [e1]
  extract_lets -merge -underBinder +onlyGivenNames x2
  obtain ⟨y2, e2, h2⟩ := Keeps.name (x := x2) (.ite (keeps_State_emit h1) h1)
  rw [e2]
  exact .ite h2 (keeps_State_emit h2)

theorem survives_doFullReset (t : State) (c : ResetCause) : Survives t (doFullReset t c) := by
  unfold doFullReset
  split
  · exact (keeps_resetOut (Keeps.refl t)).survives.trans (survives_resetState _ _)
  · exact (Keeps.refl t).survives

theorem keeps_doResetRelease {s v0 v1 v2} (g0 : Keeps s v0) : Keeps s (doResetRelease v0 v1 v2) := by
  unfold doResetRelease
  split
  · exact g0
  · extract_lets -merge -underBinder +onlyGivenNames x0
    exact g0.trans ⟨id, id, ⟨rfl, rfl, rfl, rfl, rfl, rfl, rfl, .inl rfl⟩, id, fun _ _ h _ => h, rfl, List.suffix_refl _, Nat.le_refl _⟩

theorem survives_doAonReset (t : State) : Survives t (doAonReset t) :=
  ((keeps_resetOut (Keeps.refl t)).cong (u := { resetOut t false with aon := AonRec.reset }) rfl).survives.trans (survives_resetState _ _)

theorem keeps_capStop {s v0 v1} (g0 : Keeps s v0) : Keeps s (capStop v0 v1) := by
  unfold capStop
  extract_lets -merge -underBinder +onlyGivenNames x0
  obtain ⟨y0, e0, h0⟩ := Keeps.name (x := x0) (keeps_capSignal g0)
  rw [e0]
  exact keeps_driveHpd (keeps_State_setCap h0)

theorem keeps_closeAll {s v0} (g0 : Keeps s v0) : Keeps s (closeAll v0) := by
  unfold closeAll
  extract_lets -merge -underBinder +onlyGivenNames x0 x1
  obtain ⟨y1, e1, h1⟩ := Keeps.name (s := s) (x := x1) (by
    unfold x1
    refine Keeps.foldl ?_ ?_
    · exact g0
    · intro x2 a2 h2
      refine Keeps.ite ?_ ?_
      · exact h2
      · extract_lets -merge -underBinder +onlyGivenNames x3 x4
        obtain ⟨y4, e4, h4⟩ := Keeps.name (x := x4) (keeps_State_setCtx h2)
        rw [e4]
        exact (keeps_setCtxState (keeps_flushCtx h4)))
  rw [e1]
  exact keeps_abortAll (h1.cong rfl)

theorem keeps_doDormantEnter {s v0 v1} (g0 : Keeps s v0) : Keeps s (doDormantEnter v0 v1) := by
  unfold doDormantEnter
  refine keeps_runJob ?_ ?_
  · exact g0
  · intro x0_0 h0_0
    extract_lets -merge -underBinder +onlyGivenNames x1
    obtain ⟨y1, e1, h1⟩ := Keeps.name (x := x1) (keeps_State_relinquish h0_0)
    rw [e1]
    extract_lets -merge -underBinder +onlyGivenNames x2
    obtain ⟨y2, e2, h2⟩ := Keeps.name (x := x2) (keeps_touchHalt (keeps_touchHalt h1))
    rw [e2]
    extract_lets -merge -underBinder +onlyGivenNames x3
    obtain ⟨y3, e3, h3⟩ := Keeps.name (s := s) (x := x3) (by
      unfold x3
      refine Keeps.foldl ?_ ?_
      · exact h2
      · intro x4 a4 h4
        exact (keeps_tephraDisarm h4))
    rw [e3]
    extract_lets -merge -underBinder +onlyGivenNames x5 x6
    obtain ⟨y6, e6, h6⟩ := Keeps.name (x := x6) (keeps_closeAll h3)
    rw [e6]
    extract_lets -merge -underBinder +onlyGivenNames x7
    obtain ⟨y7, e7, h7⟩ := Keeps.name (s := s) (x := x7) (by
      unfold x7
      refine Keeps.foldl ?_ ?_
      · exact h6
      · intro x8 a8 h8
        exact (keeps_capStop h8))
    rw [e7]
    extract_lets -merge -underBinder +onlyGivenNames x9
    obtain ⟨y9, e9, h9⟩ := Keeps.name (x := x9) (keeps_State_setReady (keeps_State_setReady h7))
    rw [e9]
    exact h9.cong rfl

theorem keeps_postAll {s v0} (g0 : Keeps s v0) : Keeps s (postAll v0) := by
  unfold postAll
  refine Keeps.foldl ?_ ?_
  · exact g0
  · intro x0 a0 h0
    exact keeps_doCompletion h0

theorem survives_sleepState (t : State) (d : DormRec) (im : ResumeImage) : Survives t (sleepState t d im) ∧ BarStays t (sleepState t d im) :=
  ⟨⟨id, fun _ => by unfold sleepState; cases t.pair.enable <;> exact ⟨rfl, rfl⟩, ⟨rfl, rfl, rfl, rfl, rfl, rfl, rfl, .inl rfl⟩, rfl, List.suffix_refl _, Nat.le_refl _⟩, id⟩

theorem keeps_pasrOps {s v0} (g0 : Keeps s v0) : Keeps s (pasrOps v0) := by
  unfold pasrOps
  refine Keeps.foldl ?_ ?_
  · exact g0
  · intro x0 a0 h0
    extract_lets -merge -underBinder +onlyGivenNames x1 x2
    obtain ⟨y2, e2, h2⟩ := Keeps.name (s := s) (x := x2) (by
      unfold x2
      refine Keeps.foldl ?_ ?_
      · exact h0
      · intro x3 a3 h3
        exact (keeps_issued (keeps_checkedAccess h3)))
    rw [e2]
    exact keeps_State_emit h2

theorem survives_doPowerDown (t : State) : Survives t (doPowerDown t) ∧ BarStays t (doPowerDown t) := by
  have g0 := Keeps.refl t
  unfold doPowerDown
  split
  · exact ⟨g0.survives, g0.bar⟩
  · split
    · exact ⟨g0.survives, g0.bar⟩
    · extract_lets -merge -underBinder +onlyGivenNames x0
      obtain ⟨y0, e0, h0⟩ := Keeps.name (x := x0) (keeps_State_relinquish g0)
      rw [e0]
      extract_lets -merge -underBinder +onlyGivenNames x1 x2 x3
      obtain ⟨y3, e3, h3⟩ := Keeps.name (x := x3) (h0.trans ⟨fun h => memFill_wf _ _ _ _ h, id, OtpStep.refl _, id, fun _ _ h _ => h, rfl, List.suffix_refl _, Nat.le_refl _⟩)
      rw [e3]
      extract_lets -merge -underBinder +onlyGivenNames x4 x5
      obtain ⟨y5, e5, h5⟩ := Keeps.name (x := x5) (keeps_State_finish (keeps_abortAll h3))
      rw [e5]
      extract_lets -merge -underBinder +onlyGivenNames x6
      obtain ⟨y6, e6, h6⟩ := Keeps.name (x := x6) (keeps_State_setMode (keeps_postAll h5))
      rw [e6]
      extract_lets -merge -underBinder +onlyGivenNames x7
      obtain ⟨y7, e7, h7⟩ := Keeps.name (x := x7) (Keeps.foldl h6 (fun _ _ h => keeps_State_setReady h))
      rw [e7]
      have h8 := keeps_pasrOps h7
      exact ⟨h8.survives.trans (survives_sleepState _ _ _).1, h8.bar.trans (survives_sleepState _ _ _).2⟩

theorem keeps_timeAfterWake {s v0} (g0 : Keeps s v0) : Keeps s (timeAfterWake v0) := by
  unfold timeAfterWake
  exact g0.cong rfl

theorem keeps_doWake {s v0 v1} (g0 : Keeps s v0) : Keeps s (doWake v0 v1) := by
  unfold doWake
  split
  · exact g0
  · refine Keeps.ite ?_ ?_
    · extract_lets -merge -underBinder +onlyGivenNames x0 x1 x2
      obtain ⟨y2, e2, h2⟩ := Keeps.name (x := x2) (g0.cong rfl)
      rw [e2]
      refine Keeps.ite ?_ ?_
      · extract_lets -merge -underBinder +onlyGivenNames x3 x4 x5 x6
        obtain ⟨y6, e6, h6⟩ := Keeps.name (x := x6) (keeps_timeAfterWake (h2.cong rfl))
        rw [e6]
        exact keeps_State_setMode h6
      · exact h2
    · exact g0

theorem keeps_doWakeScan {s v0 v1 v2} (g0 : Keeps s v0) : Keeps s (doWakeScan v0 v1 v2) := by
  unfold doWakeScan
  extract_lets -merge -underBinder +onlyGivenNames x0
  refine Keeps.ite ?_ ?_
  · exact g0
  · extract_lets -merge -underBinder +onlyGivenNames x1 x2 x3
    refine Keeps.ite ?_ ?_
    · exact g0.cong rfl
    · extract_lets -merge -underBinder +onlyGivenNames x4 x5 x6 x7 x8 x9 x10 x11
      split
      · extract_lets -merge -underBinder +onlyGivenNames x12 x13 x14 x15 x16
        obtain ⟨y16, e16, h16⟩ := Keeps.name (x := x16) (g0.cong rfl)
        rw [e16]
        split
        · exact keeps_doWake h16
        · exact h16

theorem keeps_resumeBlocks {s v0 v1} (g0 : Keeps s v0) : Keeps s (resumeBlocks v0 v1) := by
  unfold resumeBlocks
  refine Keeps.foldl ?_ ?_
  · exact g0.cong rfl
  · intro x0 a0 h0
    refine Keeps.ite ?_ ?_
    · exact h0
    · refine keeps_initBlock ?_
      exact h0

theorem keeps_resumeSources {s v0 v1} (g0 : Keeps s v0) : Keeps s (resumeSources v0 v1) := by
  unfold resumeSources
  refine Keeps.foldl ?_ ?_
  · exact g0
  · intro x0 a0 h0
    exact (.ite (keeps_evalSource (keeps_State_setSource h0)) (keeps_State_setSource h0))

theorem keeps_resumeTime {s v0 v1} (g0 : Keeps s v0) : Keeps s (resumeTime v0 v1) := by
  unfold resumeTime
  extract_lets -merge -underBinder +onlyGivenNames x0 x1
  obtain ⟨y1, e1, h1⟩ := Keeps.name (x := x1) (g0.cong rfl)
  rw [e1]
  exact (.ite (keeps_setTimeState (h1.cong rfl)) h1)

theorem keeps_resumeLinks {s v0} (g0 : Keeps s v0) : Keeps s (resumeLinks v0) := by
  unfold resumeLinks
  refine Keeps.foldl ?_ ?_
  · exact g0
  · intro x0 a0 h0
    exact .ite h0 (keeps_linkSetEnable h0)

theorem keeps_resumeTg {s v0 v1} (g0 : Keeps s v0) : Keeps s (resumeTg v0 v1) := by
  unfold resumeTg
  extract_lets -merge -underBinder +onlyGivenNames x0
  exact (.ite g0 (.ite (keeps_enterLock g0) (keeps_State_setTg g0)))

theorem keeps_resumeDoorbells {s v0} (g0 : Keeps s v0) : Keeps s (resumeDoorbells v0) := by
  unfold resumeDoorbells
  extract_lets -merge -underBinder +onlyGivenNames x0
  refine Keeps.foldl ?_ ?_
  · exact g0.cong rfl
  · intro x1 a1 h1
    extract_lets -merge -underBinder +onlyGivenNames x2 x3 x4
    exact (.ite h1 (.ite (keeps_windowRequest h1) (.ite (keeps_sqDoorbell h1) (.ite (keeps_cqDoorbell h1) (keeps_evqDoorbell h1)))))

theorem keeps_resumeEvents {s v0 v1} (g0 : Keeps s v0) : Keeps s (resumeEvents v0 v1) := by
  unfold resumeEvents
  refine Keeps.foldl ?_ ?_
  · exact g0
  · intro x0 a0 h0
    exact keeps_sendRecord (fun _ _ _ h => keeps_State_raise h) h0

theorem survives_restore (t : State) (im : ResumeImage) : Survives t (restore t im) ∧ BarStays t (restore t im) :=
  ⟨⟨id, id, ⟨rfl, rfl, rfl, rfl, rfl, rfl, rfl, .inl rfl⟩, rfl, List.suffix_refl _, Nat.le_refl _⟩, id⟩

theorem keeps_resumeFail {s v0} (g0 : Keeps s v0) : Keeps s (resumeFail v0) := by
  unfold resumeFail
  split
  rename_i y0_0 x0 e0
  have h0 : Keeps s x0 := Keeps.of_2 e0 (keeps_State_fresh g0)
  extract_lets -merge -underBinder +onlyGivenNames x1 x2
  obtain ⟨y2, e2, h2⟩ := Keeps.name (x := x2) (keeps_State_raise h0)
  rw [e2]
  exact h2.trans ⟨id, fun _ => ⟨rfl, rfl⟩, OtpStep.refl _, id, fun _ _ h _ => h, rfl, List.suffix_refl _, Nat.le_refl _⟩

theorem survives_doResume (t : State) (ok : Bool) : Survives t (doResume t ok) ∧ BarStays t (doResume t ok) := by
  have g0 := Keeps.refl t
  unfold doResume
  split
  · exact ⟨g0.survives, g0.bar⟩
  · split
    · exact ⟨g0.survives, g0.bar⟩
    · split
      · exact ⟨g0.survives, g0.bar⟩
      · split
        · exact ⟨(keeps_resumeFail g0).survives, (keeps_resumeFail g0).bar⟩
        · extract_lets -merge -underBinder +onlyGivenNames x0
          obtain ⟨y0, e0, k0⟩ := Keeps.name (x := x0) (keeps_State_raise g0)
          rw [e0]
          extract_lets -merge -underBinder +onlyGivenNames x1 x2 x3
          have hr := survives_restore { y0 with sys.dorm := none } (by assumption)
          have hc := keeps_capsAll (Keeps.refl (restore { y0 with sys.dorm := none } (by assumption)))
          have hs : Survives t x3 := ((k0.cong (u := { y0 with sys.dorm := none }) rfl).survives.trans hr.1).trans hc.survives
          have hb : BarStays t x3 := ((k0.cong (u := { y0 with sys.dorm := none }) rfl).bar.trans hr.2).trans hc.bar
          obtain ⟨y3, e3, h3⟩ : ∃ y, x3 = y ∧ Keeps x3 y := ⟨_, rfl, Keeps.refl _⟩
          refine (fun (k : Keeps x3 _) => ⟨hs.trans k.survives, hb.trans k.bar⟩) ?_
          rw [e3]
          rw [e3] at h3
          extract_lets -merge -underBinder +onlyGivenNames x4
          obtain ⟨y4, e4, h4⟩ := Keeps.name (x := x4) (keeps_resumeEvents (keeps_resumeDoorbells h3))
          rw [e4]
          extract_lets -merge -underBinder +onlyGivenNames x5
          obtain ⟨y5, e5, h5⟩ := Keeps.name (x := x5) (keeps_resumeBlocks h4)
          rw [e5]
          extract_lets -merge -underBinder +onlyGivenNames x6 x7
          obtain ⟨y7, e7, h7⟩ := Keeps.name (x := x7) (h5.cong rfl)
          rw [e7]
          extract_lets -merge -underBinder +onlyGivenNames x8
          obtain ⟨y8, e8, h8⟩ := Keeps.name (x := x8) (keeps_resumeLinks (keeps_resumeTime (keeps_resumeSources h7)))
          rw [e8]
          extract_lets -merge -underBinder +onlyGivenNames x9
          obtain ⟨y9, e9, h9⟩ := Keeps.name (x := x9) (Keeps.foldl h8 (fun _ _ h => keeps_resumeTg h))
          rw [e9]
          exact keeps_mgmtReady h9

theorem keeps_doServiceEnter {s v0 v1} (g0 : Keeps s v0) : Keeps s (doServiceEnter v0 v1) := by
  unfold doServiceEnter
  extract_lets -merge -underBinder +onlyGivenNames x0 x1 x2
  refine keeps_runJob ?_ ?_
  · exact g0
  · intro x3_0 h3_0
    extract_lets -merge -underBinder +onlyGivenNames x4
    obtain ⟨y4, e4, h4⟩ := Keeps.name (x := x4) (keeps_State_setMode (keeps_State_relinquish h3_0))
    rw [e4]
    extract_lets -merge -underBinder +onlyGivenNames x5 x6
    obtain ⟨y6, e6, h6⟩ := Keeps.name (x := x6) (.ite (h4.cong rfl) h4)
    rw [e6]
    exact keeps_State_finish h6

theorem keeps_doServiceExit {s v0 v1} (g0 : Keeps s v0) : Keeps s (doServiceExit v0 v1) := by
  unfold doServiceExit
  refine keeps_runJob ?_ ?_
  · exact g0
  · intro x0_0 h0_0
    extract_lets -merge -underBinder +onlyGivenNames x1 x2 x3
    obtain ⟨y3, e3, h3⟩ := Keeps.name (x := x3) (h0_0.cong rfl)
    rw [e3]
    extract_lets -merge -underBinder +onlyGivenNames x4
    obtain ⟨y4, e4, h4⟩ := Keeps.name (s := s) (x := x4) (by
      unfold x4
      refine Keeps.foldl ?_ ?_
      · exact h3
      · intro x5 a5 h5
        exact (keeps_tephraDisarm h5))
    rw [e4]
    extract_lets -merge -underBinder +onlyGivenNames x6
    obtain ⟨y6, e6, h6⟩ := Keeps.name (s := s) (x := x6) (by
      unfold x6
      refine Keeps.foldl ?_ ?_
      · exact h4
      · intro x7 a7 h7
        exact (keeps_State_setReg h7))
    rw [e6]
    extract_lets -merge -underBinder +onlyGivenNames x8
    obtain ⟨y8, e8, h8⟩ := Keeps.name (s := s) (x := x8) (by
      unfold x8
      refine Keeps.foldl ?_ ?_
      · exact keeps_lanesEndService h6
      · intro x9 a9 h9
        extract_lets -merge -underBinder +onlyGivenNames x10
        exact (keeps_State_setReg h9))
    rw [e8]
    extract_lets -merge -underBinder +onlyGivenNames x11
    obtain ⟨y11, e11, h11⟩ := Keeps.name (x := x11) (keeps_State_setMode h8)
    rw [e11]
    exact keeps_State_finish h11

theorem keeps_doWatchdog {s v0} (g0 : Keeps s v0) : Keeps s (doWatchdog v0) := by
  unfold doWatchdog
  exact (.ite (keeps_State_enterFrozen (keeps_State_trigger g0)) g0)

theorem keeps_parityFound {s v0 v1} (g0 : Keeps s v0) : Keeps s (parityFound v0 v1) := by
  unfold parityFound
  refine Keeps.ite ?_ ?_
  · exact g0
  · extract_lets -merge -underBinder +onlyGivenNames x0 x1
    obtain ⟨y1, e1, h1⟩ := Keeps.name (x := x1) (keeps_State_bump (g0.cong rfl))
    rw [e1]
    extract_lets -merge -underBinder +onlyGivenNames x2
    obtain ⟨y2, e2, h2⟩ := Keeps.name (x := x2) (keeps_State_raiseLimited h1)
    rw [e2]
    exact keeps_State_trigger h2

theorem keeps_doParityScrub {s v0 v1} (g0 : Keeps s v0) : Keeps s (doParityScrub v0 v1) := by
  unfold doParityScrub
  refine Keeps.ite ?_ ?_
  · refine Keeps.foldl ?_ ?_
    · exact g0
    · intro x0 a0 h0
      exact keeps_parityFound h0
  · exact g0

theorem keeps_setPll {s v0 v1 v2} (g0 : Keeps s v0) : Keeps s (setPll v0 v1 v2) := by
  unfold setPll
  split
  · exact g0.cong rfl
  · exact g0.cong rfl
  · exact g0.cong rfl

theorem keeps_doLockLoss {s v0 v1 v2} (g0 : Keeps s v0) : Keeps s (doLockLoss v0 v1 v2) := by
  unfold doLockLoss
  refine Keeps.ite ?_ ?_
  · extract_lets -merge -underBinder +onlyGivenNames x0
    obtain ⟨y0, e0, h0⟩ := Keeps.name (x := x0) (keeps_State_trigger (keeps_setPll g0))
    rw [e0]
    exact .ite (keeps_State_enterFrozen h0) h0
  · exact g0

theorem keeps_doRelock {s v0 v1} (g0 : Keeps s v0) : Keeps s (doRelock v0 v1) := by
  unfold doRelock
  refine Keeps.ite ?_ ?_
  · extract_lets -merge -underBinder +onlyGivenNames x0
    obtain ⟨y0, e0, h0⟩ := Keeps.name (x := x0) (keeps_setPll g0)
    rw [e0]
    exact .ite (keeps_State_untrigger h0) h0
  · exact g0

theorem keeps_doDropout {s v0} (g0 : Keeps s v0) : Keeps s (doDropout v0) := by
  unfold doDropout
  exact (.ite g0 (keeps_State_trigger (keeps_setPll g0)))

theorem keeps_thermalEvent {s v0} (g0 : Keeps s v0) : Keeps s (thermalEvent v0) := by
  unfold thermalEvent
  split
  · exact keeps_State_raise g0

theorem keeps_coolDown {s v0} (g0 : Keeps s v0) : Keeps s (coolDown v0) := by
  unfold coolDown
  extract_lets -merge -underBinder +onlyGivenNames x0 x1
  refine Keeps.ite ?_ ?_
  · extract_lets -merge -underBinder +onlyGivenNames x2 x3 x4 x5
    obtain ⟨y5, e5, h5⟩ := Keeps.name (x := x5) (g0.cong rfl)
    rw [e5]
    exact .ite (keeps_State_emit h5) h5
  · exact g0

theorem keeps_doGovernor {s v0 v1} (g0 : Keeps s v0) : Keeps s (doGovernor v0 v1) := by
  unfold doGovernor
  refine Keeps.ite ?_ ?_
  · exact g0
  · extract_lets -merge -underBinder +onlyGivenNames x0
    obtain ⟨y0, e0, h0⟩ := Keeps.name (x := x0) (keeps_takeTemps g0)
    rw [e0]
    extract_lets -merge -underBinder +onlyGivenNames x1 x2 x3
    split
    · extract_lets -merge -underBinder +onlyGivenNames x4 x5 x6
      obtain ⟨y6, e6, h6⟩ := Keeps.name (x := x6) (h0.cong rfl)
      rw [e6]
      extract_lets -merge -underBinder +onlyGivenNames x7
      obtain ⟨y7, e7, h7⟩ := Keeps.name (x := x7) (.ite (keeps_State_untrigger h6) (.ite h6 (keeps_State_trigger h6)))
      rw [e7]
      extract_lets -merge -underBinder +onlyGivenNames x8
      obtain ⟨y8, e8, h8⟩ := Keeps.name (x := x8) (.ite (keeps_thermalEvent h7) h7)
      rw [e8]
      exact keeps_coolDown h8

theorem keeps_doThermalTrip {s v0} (g0 : Keeps s v0) : Keeps s (doThermalTrip v0) := by
  unfold doThermalTrip
  refine Keeps.ite ?_ ?_
  · exact g0
  · refine Keeps.ite ?_ ?_
    · exact keeps_State_trigger g0
    · extract_lets -merge -underBinder +onlyGivenNames x0
      obtain ⟨y0, e0, h0⟩ := Keeps.name (x := x0) (keeps_abortSlates (keeps_State_enterFrozen (keeps_State_trigger g0)))
      rw [e0]
      extract_lets -merge -underBinder +onlyGivenNames x1 x2 x3 x4
      obtain ⟨y4, e4, h4⟩ := Keeps.name (x := x4) (h0.cong rfl)
      rw [e4]
      exact keeps_tripPin (keeps_thermalEvent h4)

theorem keeps_doDormantTrip {s v0 v1} (g0 : Keeps s v0) : Keeps s (doDormantTrip v0 v1) := by
  unfold doDormantTrip
  split
  · refine Keeps.ite ?_ ?_
    · extract_lets -merge -underBinder +onlyGivenNames x0
      obtain ⟨y0, e0, h0⟩ := Keeps.name (x := x0) (keeps_takeTemps g0)
      rw [e0]
      extract_lets -merge -underBinder +onlyGivenNames x1
      obtain ⟨y1, e1, h1⟩ := Keeps.name (x := x1) (keeps_State_trigger h0)
      rw [e1]
      exact keeps_tripPin (h1.cong rfl)
    · exact g0
  · exact g0

theorem survives_doThermalCut (t : State) : Survives t (doThermalCut t) ∧ BarStays t (doThermalCut t) := by
  have g0 := Keeps.refl t
  unfold doThermalCut
  split
  · exact ⟨g0.survives, g0.bar⟩
  · extract_lets -merge -underBinder +onlyGivenNames x0
    obtain ⟨y0, e0, h0⟩ := Keeps.name (x := x0) (keeps_readyFalls (keeps_hpdLow (keeps_doThermalTrip g0)))
    rw [e0]
    extract_lets -merge -underBinder +onlyGivenNames x1 x2 x3
    refine (fun (k : Survives y0 _ ∧ BarStays y0 _) => ⟨h0.survives.trans k.1, h0.bar.trans k.2⟩) ?_
    refine ⟨⟨fun _ => rfl, fun _ => ?_, ⟨rfl, rfl, rfl, rfl, rfl, rfl, rfl, .inl rfl⟩, rfl, List.suffix_cons _ _, Nat.le_refl _⟩, id⟩
    show PinsOk (tripPin _)
    unfold PinsOk tripPin
    cases h : y0.pair.enable <;> simp [x2, h, State.emit, PairRec.withState, b2n]

theorem keeps_noteFetched {s v0 v1} (g0 : Keeps s v0) : Keeps s (noteFetched v0 v1) := by
  unfold noteFetched
  exact .ite g0 (g0.cong rfl)

theorem keeps_gate {s v0 v1 v2 v3} (g0 : Keeps s v0) (g3 : ∀ u0 u1, Keeps s u0 → Keeps s (v3 u0 u1)) : Keeps s (gate v0 v1 v2 v3) := by
  unfold gate
  extract_lets -merge -underBinder +onlyGivenNames x0
  refine Keeps.ite ?_ ?_
  · extract_lets -merge -underBinder +onlyGivenNames x1
    obtain ⟨y1, e1, h1⟩ := Keeps.name (x := x1) (.ite (keeps_noteFetched g0) g0)
    rw [e1]
    exact h1.cong rfl
  · exact g3 _ _ (g0.cong rfl)

theorem keeps_tick {s v0} (g0 : Keeps s v0) : Keeps s (tick v0) := by
  unfold tick
  exact (keeps_checkClaim (keeps_mirrorNext (keeps_dpiScans (keeps_drainIngress (keeps_advanceTime g0)))))

theorem keeps_onDomain {s v0 v1 v2} (g0 : Keeps s v0) (g2 : ∀ u0, Keeps s u0 → Keeps s (v2 u0)) : Keeps s (onDomain v0 v1 v2) := by
  unfold onDomain
  exact .ite (g2 _ g0) g0

theorem keeps_onLinks {s v0 v1} (g0 : Keeps s v0) (g1 : ∀ u0, Keeps s u0 → Keeps s (v1 u0)) : Keeps s (onLinks v0 v1) := by
  unfold onLinks
  extract_lets -merge -underBinder +onlyGivenNames x0
  obtain ⟨y0, e0, h0⟩ := Keeps.name (x := x0) (keeps_allLanesFollow g0 (g1 _ g0))
  rw [e0]
  exact .ite (keeps_peerCame h0) h0

theorem keeps_wakeOutputs {s v0} (g0 : Keeps s v0) : Keeps s (wakeOutputs v0) := by
  unfold wakeOutputs
  refine Keeps.foldl ?_ ?_
  · exact g0
  · intro x0 a0 h0
    exact .ite h0 (keeps_doUnitWake h0)

theorem keeps_tlpWakes {s v0} (g0 : Keeps s v0) : Keeps s (tlpWakes v0) := by
  unfold tlpWakes
  exact .ite (keeps_doWake g0) g0

theorem keeps_hostTlp {s v0 v1} (g0 : Keeps s v0) (g1 : ∀ u0, Keeps s u0 → Keeps s (v1 u0)) : Keeps s (hostTlp v0 v1) := by
  unfold hostTlp
  exact (.ite (keeps_tlpWakes (g1 _ g0)) g0)

theorem keeps_accWrite {s v0 v1 v2 v3 v4 v5} (g0 : Keeps s v0) : Keeps s (accWrite v0 v1 v2 v3 v4 v5) := by
  unfold accWrite
  extract_lets -merge -underBinder +onlyGivenNames x0
  obtain ⟨y0, e0, h0⟩ := Keeps.name (s := s) (x := x0) (by
    unfold x0
    refine keeps_onLinks ?_ ?_
    · exact g0
    · intro x1_0 h1_0
      refine keeps_regWrite ?_
      exact h1_0)
  rw [e0]
  exact .ite (keeps_tlpWakes h0) h0

theorem keeps_windowWrite {s v0 v1 v2 v3 v4} (g0 : Keeps s v0) : Keeps s (windowWrite v0 v1 v2 v3 v4) := by
  unfold windowWrite
  extract_lets -merge -underBinder +onlyGivenNames x0
  obtain ⟨y0, e0, h0⟩ := Keeps.name (s := s) (x := x0) (by
    unfold x0
    refine keeps_onDomain ?_ ?_
    · exact g0
    · intro x1_0 h1_0
      exact (keeps_bootWrite h1_0))
  rw [e0]
  exact .ite (keeps_tlpWakes h0) h0

theorem keeps_rowWrite {s v0 v1 v2 v3} (g0 : Keeps s v0) : Keeps s (rowWrite v0 v1 v2 v3) := by
  unfold rowWrite
  extract_lets -merge -underBinder +onlyGivenNames x0
  obtain ⟨y0, e0, h0⟩ := Keeps.name (s := s) (x := x0) (by
    unfold x0
    refine keeps_onLinks ?_ ?_
    · exact g0
    · intro x1_0 h1_0
      exact (keeps_regWrite32 h1_0))
  rw [e0]
  exact .ite (keeps_tlpWakes h0) h0

end Machine
end Sys2Proof
end

