-- ==== Sys2Proof/Laws/KeepsExec.lean ====
section
/-! SUPPORT. What the next state of each command keep, said once for each operation: the memory stays canonical, the pins follow the pair
state, the lifecycle is one-way, the bar and locked MPU regions stay, the queue is untouched, what was put out stays, and the clock never
goes back. A lemma keeps_f says it of the operation f. -/

set_option Elab.async false

namespace Sys2Proof
namespace Machine

theorem keeps_execNop {s v0 v1} (g1 : Keeps s v1) {u} (e : execNop v0 v1 = .next u) : Keeps s u := by
  cases e
  refine keeps_gate ?_ ?_
  · exact g1
  · intro x0_0 a0_1 h0_0
    exact keeps_doNop h0_0

theorem keeps_execFence {s v0 v1} (g1 : Keeps s v1) {u} (e : execFence v0 v1 = .next u) : Keeps s u := by
  cases e
  refine keeps_gate ?_ ?_
  · exact g1
  · intro x0_0 a0_1 h0_0
    exact keeps_doFence h0_0

theorem keeps_execUnknownOpcode {s v0 v1} (g1 : Keeps s v1) {u} (e : execUnknownOpcode v0 v1 = .next u) : Keeps s u := by
  cases e
  refine keeps_gate ?_ ?_
  · exact g1
  · intro x0_0 a0_1 h0_0
    exact keeps_doUnknown h0_0

theorem keeps_execMemWrite {s v0 v1 v2} (g2 : Keeps s v2) {u} (e : execMemWrite v0 v1 v2 = .next u) : Keeps s u := by
  cases e
  refine keeps_gate ?_ ?_
  · exact g2
  · intro x0_0 a0_1 h0_0
    exact keeps_doMemWrite h0_0

theorem keeps_execMemRead {s v0 v1} (g1 : Keeps s v1) {u} (e : execMemRead v0 v1 = .next u) : Keeps s u := by
  cases e
  refine keeps_gate ?_ ?_
  · exact g1
  · intro x0_0 a0_1 h0_0
    exact keeps_doMemRead h0_0

theorem keeps_execServiceEnter {s v0 v1} (g1 : Keeps s v1) {u} (e : execServiceEnter v0 v1 = .next u) : Keeps s u := by
  cases e
  refine keeps_gate ?_ ?_
  · exact g1
  · intro x0_0 a0_1 h0_0
    exact keeps_doServiceEnter h0_0

theorem keeps_execServiceExit {s v0 v1} (g1 : Keeps s v1) {u} (e : execServiceExit v0 v1 = .next u) : Keeps s u := by
  cases e
  refine keeps_gate ?_ ?_
  · exact g1
  · intro x0_0 a0_1 h0_0
    exact keeps_doServiceExit h0_0

theorem keeps_execDormantEnter {s v0 v1} (g1 : Keeps s v1) {u} (e : execDormantEnter v0 v1 = .next u) : Keeps s u := by
  cases e
  refine keeps_gate ?_ ?_
  · exact g1
  · intro x0_0 a0_1 h0_0
    exact keeps_doDormantEnter h0_0

theorem keeps_execStreamOpen {s v0 v1} (g1 : Keeps s v1) {u} (e : execStreamOpen v0 v1 = .next u) : Keeps s u := by
  cases e
  refine keeps_gate ?_ ?_
  · exact g1
  · intro x0_0 a0_1 h0_0
    exact keeps_wakeBusy (keeps_doStreamOpen h0_0)

theorem keeps_execStreamFeed {s v0 v1 v2 v3} (g3 : Keeps s v3) {u} (e : execStreamFeed v0 v1 v2 v3 = .next u) : Keeps s u := by
  cases e
  refine keeps_gate ?_ ?_
  · exact g3
  · intro x0_0 a0_1 h0_0
    exact keeps_doFeed h0_0

theorem keeps_execStreamClose {s v0 v1} (g1 : Keeps s v1) {u} (e : execStreamClose v0 v1 = .next u) : Keeps s u := by
  cases e
  refine keeps_gate ?_ ?_
  · exact g1
  · intro x0_0 a0_1 h0_0
    exact keeps_doClose h0_0

theorem keeps_execStreamFlush {s v0 v1} (g1 : Keeps s v1) {u} (e : execStreamFlush v0 v1 = .next u) : Keeps s u := by
  cases e
  refine keeps_gate ?_ ?_
  · exact g1
  · intro x0_0 a0_1 h0_0
    exact keeps_doFlush h0_0

theorem keeps_execSurfacePool {s v0 v1} (g1 : Keeps s v1) {u} (e : execSurfacePool v0 v1 = .next u) : Keeps s u := by
  cases e
  refine keeps_gate ?_ ?_
  · exact g1
  · intro x0_0 a0_1 h0_0
    exact keeps_doSurfacePool h0_0

theorem keeps_execEncOpen {s v0 v1} (g1 : Keeps s v1) {u} (e : execEncOpen v0 v1 = .next u) : Keeps s u := by
  cases e
  refine keeps_gate ?_ ?_
  · exact g1
  · intro x0_0 a0_1 h0_0
    exact keeps_wakeBusy (keeps_doEncOpen h0_0)

theorem keeps_execEncParams {s v0 v1} (g1 : Keeps s v1) {u} (e : execEncParams v0 v1 = .next u) : Keeps s u := by
  cases e
  refine keeps_gate ?_ ?_
  · exact g1
  · intro x0_0 a0_1 h0_0
    exact keeps_doEncParams h0_0

theorem keeps_execEncClose {s v0 v1} (g1 : Keeps s v1) {u} (e : execEncClose v0 v1 = .next u) : Keeps s u := by
  cases e
  refine keeps_gate ?_ ?_
  · exact g1
  · intro x0_0 a0_1 h0_0
    exact keeps_doEncClose h0_0

theorem keeps_execEncOutbuf {s v0 v1} (g1 : Keeps s v1) {u} (e : execEncOutbuf v0 v1 = .next u) : Keeps s u := by
  cases e
  refine keeps_gate ?_ ?_
  · exact g1
  · intro x0_0 a0_1 h0_0
    exact keeps_doEncOutbuf h0_0

theorem keeps_execCaptureCfg {s v0 v1 v2} (g2 : Keeps s v2) {u} (e : execCaptureCfg v0 v1 v2 = .next u) : Keeps s u := by
  cases e
  refine keeps_gate ?_ ?_
  · exact g2
  · intro x0_0 a0_1 h0_0
    exact keeps_wakeBusy (keeps_doCaptureCfg h0_0)

theorem keeps_execStateLoad {s v0 v1 v2} (g2 : Keeps s v2) {u} (e : execStateLoad v0 v1 v2 = .next u) : Keeps s u := by
  cases e
  refine keeps_gate ?_ ?_
  · exact g2
  · intro x0_0 a0_1 h0_0
    exact keeps_doStateLoad h0_0

theorem keeps_execCommit {s v0 v1} (g1 : Keeps s v1) {u} (e : execCommit v0 v1 = .next u) : Keeps s u := by
  cases e
  refine keeps_gate ?_ ?_
  · exact g1
  · intro x0_0 a0_1 h0_0
    exact keeps_doCommit h0_0

theorem keeps_execLiveSet {s v0 v1} (g1 : Keeps s v1) {u} (e : execLiveSet v0 v1 = .next u) : Keeps s u := by
  cases e
  refine keeps_gate ?_ ?_
  · exact g1
  · intro x0_0 a0_1 h0_0
    exact keeps_doLiveSet h0_0

theorem keeps_execSlateLoad {s v0 v1 v2} (g2 : Keeps s v2) {u} (e : execSlateLoad v0 v1 v2 = .next u) : Keeps s u := by
  cases e
  refine keeps_gate ?_ ?_
  · exact g2
  · intro x0_0 a0_1 h0_0
    exact keeps_doSlateLoad h0_0

theorem keeps_execModeSet {s v0 v1} (g1 : Keeps s v1) {u} (e : execModeSet v0 v1 = .next u) : Keeps s u := by
  cases e
  refine keeps_gate ?_ ?_
  · exact g1
  · intro x0_0 a0_1 h0_0
    exact keeps_wakeOutputs (keeps_doModeSet h0_0)

theorem keeps_execFumPolicy {s v0 v1} (g1 : Keeps s v1) {u} (e : execFumPolicy v0 v1 = .next u) : Keeps s u := by
  cases e
  refine keeps_gate ?_ ?_
  · exact g1
  · intro x0_0 a0_1 h0_0
    exact keeps_doFumPolicy h0_0

theorem keeps_execFumBind {s v0 v1} (g1 : Keeps s v1) {u} (e : execFumBind v0 v1 = .next u) : Keeps s u := by
  cases e
  refine keeps_gate ?_ ?_
  · exact g1
  · intro x0_0 a0_1 h0_0
    exact keeps_doFumBind h0_0

theorem keeps_execFumSnapshot {s v0 v1} (g1 : Keeps s v1) {u} (e : execFumSnapshot v0 v1 = .next u) : Keeps s u := by
  cases e
  refine keeps_gate ?_ ?_
  · exact g1
  · intro x0_0 a0_1 h0_0
    exact keeps_doSnapshot h0_0

theorem keeps_execCheckCfg {s v0 v1} (g1 : Keeps s v1) {u} (e : execCheckCfg v0 v1 = .next u) : Keeps s u := by
  cases e
  refine keeps_gate ?_ ?_
  · exact g1
  · intro x0_0 a0_1 h0_0
    exact keeps_doCheckCfg h0_0

theorem keeps_execRouteSet {s v0 v1 v2} (g2 : Keeps s v2) {u} (e : execRouteSet v0 v1 v2 = .next u) : Keeps s u := by
  cases e
  refine keeps_gate ?_ ?_
  · exact g2
  · intro x0_0 a0_1 h0_0
    exact keeps_doRouteSet h0_0

theorem keeps_execGroupSet {s v0 v1} (g1 : Keeps s v1) {u} (e : execGroupSet v0 v1 = .next u) : Keeps s u := by
  cases e
  refine keeps_gate ?_ ?_
  · exact g1
  · intro x0_0 a0_1 h0_0
    exact keeps_doGroupSet h0_0

theorem keeps_execTimeCfg {s v0 v1} (g1 : Keeps s v1) {u} (e : execTimeCfg v0 v1 = .next u) : Keeps s u := by
  cases e
  refine keeps_gate ?_ ?_
  · exact g1
  · intro x0_0 a0_1 h0_0
    exact keeps_doTimeCfg h0_0

theorem keeps_execTephraCfg {s v0 v1} (g1 : Keeps s v1) {u} (e : execTephraCfg v0 v1 = .next u) : Keeps s u := by
  cases e
  refine keeps_gate ?_ ?_
  · exact g1
  · intro x0_0 a0_1 h0_0
    exact keeps_doTephraCfg h0_0

theorem keeps_execTouchMap {s v0 v1} (g1 : Keeps s v1) {u} (e : execTouchMap v0 v1 = .next u) : Keeps s u := by
  cases e
  refine keeps_gate ?_ ?_
  · exact g1
  · intro x0_0 a0_1 h0_0
    exact keeps_doTouchMap h0_0

theorem keeps_execTouchRefLoad {s v0 v1 v2} (g2 : Keeps s v2) {u} (e : execTouchRefLoad v0 v1 v2 = .next u) : Keeps s u := by
  cases e
  refine keeps_gate ?_ ?_
  · exact g2
  · intro x0_0 a0_1 h0_0
    exact keeps_doTouchRef h0_0

theorem keeps_execMirrorCfg {s v0 v1} (g1 : Keeps s v1) {u} (e : execMirrorCfg v0 v1 = .next u) : Keeps s u := by
  cases e
  refine keeps_gate ?_ ?_
  · exact g1
  · intro x0_0 a0_1 h0_0
    exact keeps_doMirrorCfg h0_0

theorem keeps_execSqTailDoorbell {s v0 v1 v2 v3 v4} (g4 : Keeps s v4) {u} (e : execSqTailDoorbell v0 v1 v2 v3 v4 = .next u) : Keeps s u := by
  cases e
  refine keeps_hostTlp ?_ ?_
  · exact g4
  · intro x0_0 h0_0
    exact keeps_sqDoorbell h0_0

theorem keeps_execDescriptorFetch {s v0 v1 v2} (g2 : Keeps s v2) {u} (e : execDescriptorFetch v0 v1 v2 = .next u) : Keeps s u := by
  cases e
  refine Keeps.ite ?_ ?_
  · exact g2
  · refine keeps_onDomain ?_ ?_
    · exact g2
    · intro x0_0 h0_0
      exact keeps_doFetch h0_0

theorem keeps_execCqHeadDoorbell {s v0 v1 v2 v3 v4} (g4 : Keeps s v4) {u} (e : execCqHeadDoorbell v0 v1 v2 v3 v4 = .next u) : Keeps s u := by
  cases e
  refine keeps_hostTlp ?_ ?_
  · exact g4
  · intro x0_0 h0_0
    exact keeps_cqDoorbell h0_0

theorem keeps_execEventRingHeadDoorbell {s v0 v1 v2 v3} (g3 : Keeps s v3) {u} (e : execEventRingHeadDoorbell v0 v1 v2 v3 = .next u) : Keeps s u := by
  cases e
  refine keeps_hostTlp ?_ ?_
  · exact g3
  · intro x0_0 h0_0
    exact keeps_evqDoorbell h0_0

theorem keeps_execCompletionWrite {s v0 v1 v2} (g2 : Keeps s v2) {u} (e : execCompletionWrite v0 v1 v2 = .next u) : Keeps s u := by
  cases e
  refine keeps_onDomain ?_ ?_
  · exact g2
  · intro x0_0 h0_0
    exact keeps_doCompletion h0_0

theorem keeps_execCqCoalesceTimeout {s v0 v1 v2} (g2 : Keeps s v2) {u} (e : execCqCoalesceTimeout v0 v1 v2 = .next u) : Keeps s u := by
  cases e
  refine keeps_onDomain ?_ ?_
  · exact g2
  · intro x0_0 h0_0
    exact keeps_doCoalesce h0_0

theorem keeps_execRegisterWrite {s v0 v1 v2 v3 v4 v5} (g5 : Keeps s v5) {u} (e : execRegisterWrite v0 v1 v2 v3 v4 v5 = .next u) : Keeps s u := by
  cases e
  exact keeps_accWrite g5

theorem keeps_execRingEnable {s v0 v1 v2 v3 v4} (g4 : Keeps s v4) {u} (e : execRingEnable v0 v1 v2 v3 v4 = .next u) : Keeps s u := by
  cases e
  exact keeps_rowWrite g4

theorem keeps_execSysReset {s v0 v1 v2} (g2 : Keeps s v2) {u} (e : execSysReset v0 v1 v2 = .next u) : Keeps s u := by
  cases e
  exact keeps_rowWrite g2

theorem keeps_execWindowAccess {s v0 v1 v2 v3 v4 v5 v6 v7} (g7 : Keeps s v7) {u} (e : execWindowAccess v0 v1 v2 v3 v4 v5 v6 v7 = .next u) : Keeps s u := by
  cases e
  refine keeps_tlpWakes ?_
  refine keeps_onLinks ?_ ?_
  · exact g7
  · intro x0_0 h0_0
    exact keeps_doWindowAccess h0_0

theorem keeps_execPcieLinkUp {s v0} (g0 : Keeps s v0) {u} (e : execPcieLinkUp v0 = .next u) : Keeps s u := by
  cases e
  refine keeps_onLinks ?_ ?_
  · exact g0
  · intro x0_0 h0_0
    exact .ite h0_0 (keeps_doPcieLinkUp h0_0)

theorem keeps_execBootstrapWindowWrite {s v0 v1 v2 v3 v4} (g4 : Keeps s v4) {u} (e : execBootstrapWindowWrite v0 v1 v2 v3 v4 = .next u) : Keeps s u := by
  cases e
  exact keeps_windowWrite g4

theorem keeps_execSysBootChunk {s v0 v1 v2} (g2 : Keeps s v2) {u} (e : execSysBootChunk v0 v1 v2 = .next u) : Keeps s u := by
  cases e
  exact keeps_rowWrite g2

theorem keeps_execMbxSel {s v0 v1 v2 v3} (g3 : Keeps s v3) {u} (e : execMbxSel v0 v1 v2 v3 = .next u) : Keeps s u := by
  cases e
  exact keeps_rowWrite g3

theorem keeps_execMailboxLatch {s v0 v1 v2} (g2 : Keeps s v2) {u} (e : execMailboxLatch v0 v1 v2 = .next u) : Keeps s u := by
  cases e
  exact keeps_doLatch g2

theorem keeps_execFumLock {s v0 v1 v2} (g2 : Keeps s v2) {u} (e : execFumLock v0 v1 v2 = .next u) : Keeps s u := by
  cases e
  exact keeps_rowWrite g2

theorem keeps_execFumSelftestRelease {s v0 v1 v2} (g2 : Keeps s v2) {u} (e : execFumSelftestRelease v0 v1 v2 = .next u) : Keeps s u := by
  cases e
  exact keeps_rowWrite g2

theorem keeps_execFabGwFailRelease {s v0 v1 v2} (g2 : Keeps s v2) {u} (e : execFabGwFailRelease v0 v1 v2 = .next u) : Keeps s u := by
  cases e
  exact keeps_rowWrite g2

theorem keeps_execStrDecFaultRelease {s v0 v1 v2} (g2 : Keeps s v2) {u} (e : execStrDecFaultRelease v0 v1 v2 = .next u) : Keeps s u := by
  cases e
  exact keeps_rowWrite g2

theorem keeps_execCmpFaultRelease {s v0 v1 v2} (g2 : Keeps s v2) {u} (e : execCmpFaultRelease v0 v1 v2 = .next u) : Keeps s u := by
  cases e
  exact keeps_rowWrite g2

theorem keeps_execSysRafRelease {s v0 v1 v2} (g2 : Keeps s v2) {u} (e : execSysRafRelease v0 v1 v2 = .next u) : Keeps s u := by
  cases e
  exact keeps_rowWrite g2

theorem keeps_execSysMpuRelease {s v0 v1 v2} (g2 : Keeps s v2) {u} (e : execSysMpuRelease v0 v1 v2 = .next u) : Keeps s u := by
  cases e
  exact keeps_rowWrite g2

theorem keeps_execSysMpuCtrl {s v0 v1 v2 v3} (g3 : Keeps s v3) {u} (e : execSysMpuCtrl v0 v1 v2 v3 = .next u) : Keeps s u := by
  cases e
  exact keeps_rowWrite g3

theorem keeps_execFabNodeAddr {s v0 v1 v2} (g2 : Keeps s v2) {u} (e : execFabNodeAddr v0 v1 v2 = .next u) : Keeps s u := by
  cases e
  exact keeps_rowWrite g2

theorem keeps_execDomainClaim {s v0 v1 v2 v3} (g3 : Keeps s v3) {u} (e : execDomainClaim v0 v1 v2 v3 = .next u) : Keeps s u := by
  cases e
  refine keeps_onDomain ?_ ?_
  · exact g3
  · intro x0_0 h0_0
    refine keeps_domainRequest ?_
    exact h0_0

theorem keeps_execLinkEnable {s v0 v1 v2 v3} (g3 : Keeps s v3) {u} (e : execLinkEnable v0 v1 v2 v3 = .next u) : Keeps s u := by
  cases e
  exact keeps_rowWrite g3

theorem keeps_execLinkRetrain {s v0 v1 v2 v3} (g3 : Keeps s v3) {u} (e : execLinkRetrain v0 v1 v2 v3 = .next u) : Keeps s u := by
  cases e
  exact keeps_rowWrite g3

theorem keeps_execEdidRead {s v0 v1 v2 v3} (g3 : Keeps s v3) {u} (e : execEdidRead v0 v1 v2 v3 = .next u) : Keeps s u := by
  cases e
  exact keeps_rowWrite g3

theorem keeps_execDpRetrain {s v0 v1 v2 v3} (g3 : Keeps s v3) {u} (e : execDpRetrain v0 v1 v2 v3 = .next u) : Keeps s u := by
  cases e
  exact keeps_rowWrite g3

theorem keeps_execPairClaim {s v0 v1 v2} (g2 : Keeps s v2) {u} (e : execPairClaim v0 v1 v2 = .next u) : Keeps s u := by
  cases e
  exact keeps_rowWrite g2

theorem keeps_execPairRelease {s v0 v1 v2} (g2 : Keeps s v2) {u} (e : execPairRelease v0 v1 v2 = .next u) : Keeps s u := by
  cases e
  exact keeps_rowWrite g2

theorem keeps_execSysLifecycleAdv {s v0 v1 v2} (g2 : Keeps s v2) {u} (e : execSysLifecycleAdv v0 v1 v2 = .next u) : Keeps s u := by
  cases e
  exact keeps_rowWrite g2

theorem keeps_execDapEn {s v0 v1 v2} (g2 : Keeps s v2) {u} (e : execDapEn v0 v1 v2 = .next u) : Keeps s u := by
  cases e
  exact keeps_rowWrite g2

theorem keeps_execEdgAonClear {s v0 v1 v2} (g2 : Keeps s v2) {u} (e : execEdgAonClear v0 v1 v2 = .next u) : Keeps s u := by
  cases e
  exact keeps_rowWrite g2

theorem keeps_execCmpSlateBase {s v0 v1 v2} (g2 : Keeps s v2) {u} (e : execCmpSlateBase v0 v1 v2 = .next u) : Keeps s u := by
  cases e
  exact keeps_rowWrite g2

theorem keeps_execRecal {s v0 v1 v2 v3} (g3 : Keeps s v3) {u} (e : execRecal v0 v1 v2 v3 = .next u) : Keeps s u := by
  cases e
  exact keeps_rowWrite g3

theorem keeps_execLaneOverride {s v0 v1 v2 v3} (g3 : Keeps s v3) {u} (e : execLaneOverride v0 v1 v2 v3 = .next u) : Keeps s u := by
  cases e
  exact keeps_rowWrite g3

theorem keeps_execOutDpTrimOvr {s v0 v1 v2 v3} (g3 : Keeps s v3) {u} (e : execOutDpTrimOvr v0 v1 v2 v3 = .next u) : Keeps s u := by
  cases e
  exact keeps_rowWrite g3

theorem keeps_execTouchEnable {s v0 v1 v2 v3} (g3 : Keeps s v3) {u} (e : execTouchEnable v0 v1 v2 v3 = .next u) : Keeps s u := by
  cases e
  exact keeps_rowWrite g3

theorem keeps_execTouchDisable {s v0 v1 v2 v3} (g3 : Keeps s v3) {u} (e : execTouchDisable v0 v1 v2 v3 = .next u) : Keeps s u := by
  cases e
  exact keeps_rowWrite g3

theorem keeps_execTouchHold {s v0 v1 v2 v3} (g3 : Keeps s v3) {u} (e : execTouchHold v0 v1 v2 v3 = .next u) : Keeps s u := by
  cases e
  exact keeps_rowWrite g3

theorem keeps_execDapCmd {s v0 v1} (g1 : Keeps s v1) {u} (e : execDapCmd v0 v1 = .next u) : Keeps s u := by
  cases e
  refine keeps_onLinks ?_ ?_
  · exact g1
  · intro x0_0 h0_0
    exact keeps_doDapCmd h0_0

theorem keeps_execDapData {s v0 v1} (g1 : Keeps s v1) {u} (e : execDapData v0 v1 = .next u) : Keeps s u := by
  cases e
  refine keeps_onLinks ?_ ?_
  · exact g1
  · intro x0_0 h0_0
    exact keeps_doDapData h0_0

theorem keeps_execPacketReceive {s v0 v1 v2 v3 v4} (g4 : Keeps s v4) {u} (e : execPacketReceive v0 v1 v2 v3 v4 = .next u) : Keeps s u := by
  cases e
  refine keeps_onDomain ?_ ?_
  · exact g4
  · intro x0_0 h0_0
    refine keeps_onLinks ?_ ?_
    · exact h0_0
    · intro x1_0 h1_0
      exact keeps_doPacketReceive h1_0

theorem keeps_execLinkCrcWindowEnd {s v0 v1} (g1 : Keeps s v1) {u} (e : execLinkCrcWindowEnd v0 v1 = .next u) : Keeps s u := by
  cases e
  refine keeps_onDomain ?_ ?_
  · exact g1
  · intro x0_0 h0_0
    exact keeps_doCrcWindowEnd h0_0

theorem keeps_execPacketEnd {s v0 v1} (g1 : Keeps s v1) {u} (e : execPacketEnd v0 v1 = .next u) : Keeps s u := by
  cases e
  refine keeps_onDomain ?_ ?_
  · exact g1
  · intro x0_0 h0_0
    exact keeps_doPacketEnd h0_0

theorem keeps_execSkp {s v0 v1} (g1 : Keeps s v1) {u} (e : execSkp v0 v1 = .next u) : Keeps s u := by
  cases e
  refine keeps_onDomain ?_ ?_
  · exact g1
  · intro x0_0 h0_0
    exact keeps_doSkp h0_0

theorem keeps_execReorderRelease {s v0 v1} (g1 : Keeps s v1) {u} (e : execReorderRelease v0 v1 = .next u) : Keeps s u := by
  cases e
  refine keeps_onDomain ?_ ?_
  · exact g1
  · intro x0_0 h0_0
    exact keeps_doReorderRelease h0_0

theorem keeps_execTrainingStateAdvance {s v0 v1 v2} (g2 : Keeps s v2) {u} (e : execTrainingStateAdvance v0 v1 v2 = .next u) : Keeps s u := by
  cases e
  refine keeps_onLinks ?_ ?_
  · exact g2
  · intro x0_0 h0_0
    exact keeps_trainAdvance (keeps_powerFabric h0_0)

theorem keeps_execLinkTrainTimeout {s v0 v1} (g1 : Keeps s v1) {u} (e : execLinkTrainTimeout v0 v1 = .next u) : Keeps s u := by
  cases e
  refine keeps_onDomain ?_ ?_
  · exact g1
  · intro x0_0 h0_0
    refine keeps_onLinks ?_ ?_
    · exact h0_0
    · intro x1_0 h1_0
      exact keeps_doTrainTimeout h1_0

theorem keeps_execBackoffExpiry {s v0 v1} (g1 : Keeps s v1) {u} (e : execBackoffExpiry v0 v1 = .next u) : Keeps s u := by
  cases e
  refine keeps_onDomain ?_ ?_
  · exact g1
  · intro x0_0 h0_0
    refine keeps_onLinks ?_ ?_
    · exact h0_0
    · intro x1_0 h1_0
      exact keeps_doBackoffExpiry h1_0

theorem keeps_execCapsRepeat {s v0 v1} (g1 : Keeps s v1) {u} (e : execCapsRepeat v0 v1 = .next u) : Keeps s u := by
  cases e
  refine keeps_onDomain ?_ ?_
  · exact g1
  · intro x0_0 h0_0
    exact keeps_doCapsRepeat h0_0

theorem keeps_execCaps {s v0 v1 v2} (g2 : Keeps s v2) {u} (e : execCaps v0 v1 v2 = .next u) : Keeps s u := by
  cases e
  refine keeps_onDomain ?_ ?_
  · exact g2
  · intro x0_0 h0_0
    refine keeps_onLinks ?_ ?_
    · exact h0_0
    · intro x1_0 h1_0
      exact keeps_doCaps h1_0

theorem keeps_execCodeError {s v0 v1 v2 v3} (g3 : Keeps s v3) {u} (e : execCodeError v0 v1 v2 v3 = .next u) : Keeps s u := by
  cases e
  refine keeps_onDomain ?_ ?_
  · exact g3
  · intro x0_0 h0_0
    refine keeps_onLinks ?_ ?_
    · exact h0_0
    · intro x1_0 h1_0
      exact keeps_codeErrorBase h1_0

theorem keeps_execLockLost {s v0 v1 v2} (g2 : Keeps s v2) {u} (e : execLockLost v0 v1 v2 = .next u) : Keeps s u := by
  cases e
  refine keeps_onDomain ?_ ?_
  · exact g2
  · intro x0_0 h0_0
    refine keeps_onLinks ?_ ?_
    · exact h0_0
    · intro x1_0 h1_0
      exact keeps_linkLockLost h1_0

theorem keeps_execSync {s v0 v1 v2} (g2 : Keeps s v2) {u} (e : execSync v0 v1 v2 = .next u) : Keeps s u := by
  cases e
  refine keeps_onDomain ?_ ?_
  · exact g2
  · intro x0_0 h0_0
    exact keeps_doSync h0_0

theorem keeps_execReply {s v0 v1 v2} (g2 : Keeps s v2) {u} (e : execReply v0 v1 v2 = .next u) : Keeps s u := by
  cases e
  refine keeps_onDomain ?_ ?_
  · exact g2
  · intro x0_0 h0_0
    exact keeps_doReply h0_0

theorem keeps_execTimeExchangePeriod {s v0} (g0 : Keeps s v0) {u} (e : execTimeExchangePeriod v0 = .next u) : Keeps s u := by
  cases e
  refine keeps_onDomain ?_ ?_
  · exact g0
  · intro x0_0 h0_0
    exact keeps_followTime (keeps_doExchangePeriod h0_0)

theorem keeps_execHoldoverLimitExpiry {s v0} (g0 : Keeps s v0) {u} (e : execHoldoverLimitExpiry v0 = .next u) : Keeps s u := by
  cases e
  refine keeps_onDomain ?_ ?_
  · exact g0
  · intro x0_0 h0_0
    exact keeps_followTime (keeps_doHoldoverExpiry h0_0)

theorem keeps_execMgmtRequest {s v0 v1 v2} (g2 : Keeps s v2) {u} (e : execMgmtRequest v0 v1 v2 = .next u) : Keeps s u := by
  cases e
  refine keeps_onDomain ?_ ?_
  · exact g2
  · intro x0_0 h0_0
    refine keeps_onLinks ?_ ?_
    · exact h0_0
    · intro x1_0 h1_0
      exact keeps_doMgmtRequest h1_0

theorem keeps_execResp {s v0 v1} (g1 : Keeps s v1) {u} (e : execResp v0 v1 = .next u) : Keeps s u := by
  cases e
  refine keeps_onDomain ?_ ?_
  · exact g1
  · intro x0_0 h0_0
    exact keeps_doResp h0_0

theorem keeps_execMgmtRetryTimeout {s v0 v1 v2} (g2 : Keeps s v2) {u} (e : execMgmtRetryTimeout v0 v1 v2 = .next u) : Keeps s u := by
  cases e
  refine keeps_onDomain ?_ ?_
  · exact g2
  · intro x0_0 h0_0
    exact keeps_doRetryTimeout h0_0

theorem keeps_execEventPacket {s v0 v1} (g1 : Keeps s v1) {u} (e : execEventPacket v0 v1 = .next u) : Keeps s u := by
  cases e
  refine keeps_onDomain ?_ ?_
  · exact g1
  · intro x0_0 h0_0
    exact keeps_doEventPacket h0_0

theorem keeps_execMirrorPacket {s v0 v1} (g1 : Keeps s v1) {u} (e : execMirrorPacket v0 v1 = .next u) : Keeps s u := by
  cases e
  refine keeps_onDomain ?_ ?_
  · exact g1
  · intro x0_0 h0_0
    exact keeps_mirrorIn h0_0

theorem keeps_execResyncReq {s v0} (g0 : Keeps s v0) {u} (e : execResyncReq v0 = .next u) : Keeps s u := by
  cases e
  refine keeps_onDomain ?_ ?_
  · exact g0
  · intro x0_0 h0_0
    exact keeps_doResyncReq h0_0

theorem keeps_execMirrorAck {s v0 v1} (g1 : Keeps s v1) {u} (e : execMirrorAck v0 v1 = .next u) : Keeps s u := by
  cases e
  refine keeps_onDomain ?_ ?_
  · exact g1
  · intro x0_0 h0_0
    exact keeps_doMirrorAck h0_0

theorem keeps_execAckTimeout {s v0} (g0 : Keeps s v0) {u} (e : execAckTimeout v0 = .next u) : Keeps s u := by
  cases e
  refine keeps_onDomain ?_ ?_
  · exact g0
  · intro x0_0 h0_0
    exact keeps_doAckTimeout h0_0

theorem keeps_execAutoClaim {s v0} (g0 : Keeps s v0) {u} (e : execAutoClaim v0 = .next u) : Keeps s u := by
  cases e
  exact keeps_doAutoClaim g0

theorem keeps_execActingOwner {s v0} (g0 : Keeps s v0) {u} (e : execActingOwner v0 = .next u) : Keeps s u := by
  cases e
  exact keeps_doActingOwner g0

theorem keeps_execPairConflict {s v0} (g0 : Keeps s v0) {u} (e : execPairConflict v0 = .next u) : Keeps s u := by
  cases e
  exact keeps_doPairConflict g0

theorem keeps_execPairOwnIRise {s v0} (g0 : Keeps s v0) {u} (e : execPairOwnIRise v0 = .next u) : Keeps s u := by
  cases e
  exact keeps_doOwnIRise g0

theorem keeps_execRelinquish {s v0 v1} (g1 : Keeps s v1) {u} (e : execRelinquish v0 v1 = .next u) : Keeps s u := by
  cases e
  exact keeps_doRelinquish g1

theorem keeps_execTimeUnlockLimitExpiry {s v0} (g0 : Keeps s v0) {u} (e : execTimeUnlockLimitExpiry v0 = .next u) : Keeps s u := by
  cases e
  refine keeps_onDomain ?_ ?_
  · exact g0
  · intro x0_0 h0_0
    exact keeps_doUnlockExpiry h0_0

theorem keeps_execNm0Watchdog {s v0} (g0 : Keeps s v0) {u} (e : execNm0Watchdog v0 = .next u) : Keeps s u := by
  cases e
  exact keeps_doWatchdog g0

theorem keeps_execStateDisagree {s v0 v1 v2} (g2 : Keeps s v2) {u} (e : execStateDisagree v0 v1 v2 = .next u) : Keeps s u := by
  cases e
  refine keeps_onDomain ?_ ?_
  · exact g2
  · intro x0_0 h0_0
    exact keeps_doStateDisagree h0_0

theorem keeps_execFumaroleTick {s v0} (g0 : Keeps s v0) {u} (e : execFumaroleTick v0 = .next u) : Keeps s u := by
  cases e
  exact keeps_doTick g0

theorem keeps_execRecordLatch {s v0 v1} (g1 : Keeps s v1) {u} (e : execRecordLatch v0 v1 = .next u) : Keeps s u := by
  cases e
  refine keeps_onDomain ?_ ?_
  · exact g1
  · intro x0_0 h0_0
    exact keeps_doRecordLatch h0_0

theorem keeps_execScanStart {s v0 v1} (g1 : Keeps s v1) {u} (e : execScanStart v0 v1 = .next u) : Keeps s u := by
  cases e
  refine keeps_onDomain ?_ ?_
  · exact g1
  · intro x0_0 h0_0
    exact keeps_doScanStart h0_0

theorem keeps_execTileEventWindowEnd {s v0 v1} (g1 : Keeps s v1) {u} (e : execTileEventWindowEnd v0 v1 = .next u) : Keeps s u := by
  cases e
  refine keeps_onDomain ?_ ?_
  · exact g1
  · intro x0_0 h0_0
    exact keeps_doTileWindowEnd h0_0

theorem keeps_execOutputLine {s v0 v1 v2 v3 v4} (g4 : Keeps s v4) {u} (e : execOutputLine v0 v1 v2 v3 v4 = .next u) : Keeps s u := by
  cases e
  refine keeps_onDomain ?_ ?_
  · exact g4
  · intro x0_0 h0_0
    exact keeps_doOutputLine h0_0

theorem keeps_execFrameStart {s v0 v1} (g1 : Keeps s v1) {u} (e : execFrameStart v0 v1 = .next u) : Keeps s u := by
  cases e
  refine keeps_onDomain ?_ ?_
  · exact g1
  · intro x0_0 h0_0
    exact keeps_wakeBusy (keeps_doFrameStart h0_0)

theorem keeps_execVblankLineBoundary {s v0 v1} (g1 : Keeps s v1) {u} (e : execVblankLineBoundary v0 v1 = .next u) : Keeps s u := by
  cases e
  refine keeps_onDomain ?_ ?_
  · exact g1
  · intro x0_0 h0_0
    exact keeps_doVblankLine h0_0

theorem keeps_execCommitValidation {s v0 v1} (g1 : Keeps s v1) {u} (e : execCommitValidation v0 v1 = .next u) : Keeps s u := by
  cases e
  refine keeps_onDomain ?_ ?_
  · exact g1
  · intro x0_0 h0_0
    exact keeps_doCommitValidation h0_0

theorem keeps_execCommitApply {s v0 v1} (g1 : Keeps s v1) {u} (e : execCommitApply v0 v1 = .next u) : Keeps s u := by
  cases e
  refine keeps_onDomain ?_ ?_
  · exact g1
  · intro x0_0 h0_0
    exact keeps_doCommitApply h0_0

theorem keeps_execModeSetApply {s v0 v1} (g1 : Keeps s v1) {u} (e : execModeSetApply v0 v1 = .next u) : Keeps s u := by
  cases e
  refine keeps_onDomain ?_ ?_
  · exact g1
  · intro x0_0 h0_0
    exact keeps_doModeSetApply (keeps_wakeOutputs h0_0)

theorem keeps_execCheckCfgApply {s v0 v1} (g1 : Keeps s v1) {u} (e : execCheckCfgApply v0 v1 = .next u) : Keeps s u := by
  cases e
  refine keeps_onDomain ?_ ?_
  · exact g1
  · intro x0_0 h0_0
    exact keeps_doCheckCfgApply h0_0

theorem keeps_execCheckResult {s v0 v1} (g1 : Keeps s v1) {u} (e : execCheckResult v0 v1 = .next u) : Keeps s u := by
  cases e
  refine keeps_onDomain ?_ ?_
  · exact g1
  · intro x0_0 h0_0
    exact keeps_doCheckResult h0_0

theorem keeps_execChkResultWindowEnd {s v0 v1} (g1 : Keeps s v1) {u} (e : execChkResultWindowEnd v0 v1 = .next u) : Keeps s u := by
  cases e
  refine keeps_onDomain ?_ ?_
  · exact g1
  · intro x0_0 h0_0
    exact keeps_doChkWindowEnd h0_0

theorem keeps_execSlateCopyEnd {s v0 v1} (g1 : Keeps s v1) {u} (e : execSlateCopyEnd v0 v1 = .next u) : Keeps s u := by
  cases e
  refine keeps_onDomain ?_ ?_
  · exact g1
  · intro x0_0 h0_0
    exact keeps_doSlateCopyEnd h0_0

theorem keeps_execSnapshotWriteEnd {s v0} (g0 : Keeps s v0) {u} (e : execSnapshotWriteEnd v0 = .next u) : Keeps s u := by
  cases e
  refine keeps_onDomain ?_ ?_
  · exact g0
  · intro x0_0 h0_0
    exact keeps_doSnapshotEnd h0_0

theorem keeps_execEdidReadEnd {s v0 v1 v2} (g2 : Keeps s v2) {u} (e : execEdidReadEnd v0 v1 v2 = .next u) : Keeps s u := by
  cases e
  refine keeps_onDomain ?_ ?_
  · exact g2
  · intro x0_0 h0_0
    exact keeps_doEdidEnd h0_0

theorem keeps_execHpdUnplug {s v0 v1} (g1 : Keeps s v1) {u} (e : execHpdUnplug v0 v1 = .next u) : Keeps s u := by
  cases e
  refine keeps_onDomain ?_ ?_
  · exact g1
  · intro x0_0 h0_0
    exact keeps_doHpdUnplug h0_0

theorem keeps_execHpdPlug {s v0 v1 v2} (g2 : Keeps s v2) {u} (e : execHpdPlug v0 v1 v2 = .next u) : Keeps s u := by
  cases e
  refine keeps_onDomain ?_ ?_
  · exact g2
  · intro x0_0 h0_0
    exact keeps_doHpdPlug h0_0

theorem keeps_execIrqHpd {s v0 v1 v2} (g2 : Keeps s v2) {u} (e : execIrqHpd v0 v1 v2 = .next u) : Keeps s u := by
  cases e
  refine keeps_onDomain ?_ ?_
  · exact g2
  · intro x0_0 h0_0
    exact keeps_doIrqHpd h0_0

theorem keeps_execDpLinkTraining {s v0 v1 v2} (g2 : Keeps s v2) {u} (e : execDpLinkTraining v0 v1 v2 = .next u) : Keeps s u := by
  cases e
  refine keeps_onDomain ?_ ?_
  · exact g2
  · intro x0_0 h0_0
    exact keeps_doDpTraining h0_0

theorem keeps_execTrainingRetry {s v0 v1} (g1 : Keeps s v1) {u} (e : execTrainingRetry v0 v1 = .next u) : Keeps s u := by
  cases e
  refine keeps_onDomain ?_ ?_
  · exact g1
  · intro x0_0 h0_0
    exact keeps_doTrainingRetry h0_0

theorem keeps_execCapturePictureStart {s v0 v1 v2} (g2 : Keeps s v2) {u} (e : execCapturePictureStart v0 v1 v2 = .next u) : Keeps s u := by
  cases e
  refine keeps_onDomain ?_ ?_
  · exact g2
  · intro x0_0 h0_0
    exact keeps_doCapStart h0_0

theorem keeps_execCaptureBand {s v0 v1 v2} (g2 : Keeps s v2) {u} (e : execCaptureBand v0 v1 v2 = .next u) : Keeps s u := by
  cases e
  refine keeps_onDomain ?_ ?_
  · exact g2
  · intro x0_0 h0_0
    exact keeps_doCapBand h0_0

theorem keeps_execCapSignalLoss {s v0 v1} (g1 : Keeps s v1) {u} (e : execCapSignalLoss v0 v1 = .next u) : Keeps s u := by
  cases e
  refine keeps_onDomain ?_ ?_
  · exact g1
  · intro x0_0 h0_0
    exact keeps_doCapLoss h0_0

theorem keeps_execHpdPulseEnd {s v0 v1} (g1 : Keeps s v1) {u} (e : execHpdPulseEnd v0 v1 = .next u) : Keeps s u := by
  cases e
  refine keeps_onDomain ?_ ?_
  · exact g1
  · intro x0_0 h0_0
    exact keeps_doHpdPulseEnd h0_0

theorem keeps_execSinkLinkTraining {s v0 v1 v2 v3 v4} (g4 : Keeps s v4) {u} (e : execSinkLinkTraining v0 v1 v2 v3 v4 = .next u) : Keeps s u := by
  cases e
  refine keeps_onDomain ?_ ?_
  · exact g4
  · intro x0_0 h0_0
    exact keeps_doSinkTraining h0_0

theorem keeps_execEncPictureStart {s v0 v1} (g1 : Keeps s v1) {u} (e : execEncPictureStart v0 v1 = .next u) : Keeps s u := by
  cases e
  refine keeps_onDomain ?_ ?_
  · exact g1
  · intro x0_0 h0_0
    exact keeps_doEncStart h0_0

theorem keeps_execSliceCoding {s v0 v1 v2} (g2 : Keeps s v2) {u} (e : execSliceCoding v0 v1 v2 = .next u) : Keeps s u := by
  cases e
  refine keeps_onDomain ?_ ?_
  · exact g2
  · intro x0_0 h0_0
    exact keeps_doSliceCoding h0_0

theorem keeps_execSliceReady {s v0 v1 v2 v3} (g3 : Keeps s v3) {u} (e : execSliceReady v0 v1 v2 v3 = .next u) : Keeps s u := by
  cases e
  refine keeps_onDomain ?_ ?_
  · exact g3
  · intro x0_0 h0_0
    exact keeps_doSliceReady h0_0

theorem keeps_execKeepalivePicture {s v0 v1} (g1 : Keeps s v1) {u} (e : execKeepalivePicture v0 v1 = .next u) : Keeps s u := by
  cases e
  refine keeps_onDomain ?_ ?_
  · exact g1
  · intro x0_0 h0_0
    exact keeps_doKeepalive h0_0

theorem keeps_execKeepaliveExpiry {s v0 v1} (g1 : Keeps s v1) {u} (e : execKeepaliveExpiry v0 v1 = .next u) : Keeps s u := by
  cases e
  refine keeps_onDomain ?_ ?_
  · exact g1
  · intro x0_0 h0_0
    exact keeps_doKeepExpiry h0_0

theorem keeps_execPictureStart {s v0 v1 v2} (g2 : Keeps s v2) {u} (e : execPictureStart v0 v1 v2 = .next u) : Keeps s u := by
  cases e
  refine keeps_onDomain ?_ ?_
  · exact g2
  · intro x0_0 h0_0
    exact keeps_doPictureStart h0_0

theorem keeps_execSliceDecode {s v0 v1 v2} (g2 : Keeps s v2) {u} (e : execSliceDecode v0 v1 v2 = .next u) : Keeps s u := by
  cases e
  refine keeps_onDomain ?_ ?_
  · exact g2
  · intro x0_0 h0_0
    exact keeps_doSlice h0_0

theorem keeps_execStallLimit {s v0 v1} (g1 : Keeps s v1) {u} (e : execStallLimit v0 v1 = .next u) : Keeps s u := by
  cases e
  refine keeps_onDomain ?_ ?_
  · exact g1
  · intro x0_0 h0_0
    exact keeps_doStallLimit h0_0

theorem keeps_execDecConcealWindowEnd {s v0 v1} (g1 : Keeps s v1) {u} (e : execDecConcealWindowEnd v0 v1 = .next u) : Keeps s u := by
  cases e
  refine keeps_onDomain ?_ ?_
  · exact g1
  · intro x0_0 h0_0
    exact keeps_doConcealEnd h0_0

theorem keeps_execStreamDemux {s v0 v1} (g1 : Keeps s v1) {u} (e : execStreamDemux v0 v1 = .next u) : Keeps s u := by
  cases e
  refine keeps_onDomain ?_ ?_
  · exact g1
  · intro x0_0 h0_0
    exact keeps_doDemux h0_0

theorem keeps_execRasterPacket {s v0 v1} (g1 : Keeps s v1) {u} (e : execRasterPacket v0 v1 = .next u) : Keeps s u := by
  cases e
  refine keeps_onDomain ?_ ?_
  · exact g1
  · intro x0_0 h0_0
    exact keeps_doRaster h0_0

theorem keeps_execMemoryRequest {s v0 v1 v2 v3 v4 v5} (g5 : Keeps s v5) {u} (e : execMemoryRequest v0 v1 v2 v3 v4 v5 = .next u) : Keeps s u := by
  cases e
  refine keeps_onDomain ?_ ?_
  · exact g5
  · intro x0_0 h0_0
    exact keeps_doMasterRequest h0_0

theorem keeps_execChannelIssue {s v0 v1 v2} (g2 : Keeps s v2) {u} (e : execChannelIssue v0 v1 v2 = .next u) : Keeps s u := by
  cases e
  refine keeps_onDomain ?_ ?_
  · exact g2
  · intro x0_0 h0_0
    exact keeps_doChannelIssue h0_0

theorem keeps_execCommandError {s v0 v1 v2} (g2 : Keeps s v2) {u} (e : execCommandError v0 v1 v2 = .next u) : Keeps s u := by
  cases e
  refine keeps_onDomain ?_ ?_
  · exact g2
  · intro x0_0 h0_0
    exact keeps_doCommandError h0_0

theorem keeps_execThrottleExpiry {s v0 v1} (g1 : Keeps s v1) {u} (e : execThrottleExpiry v0 v1 = .next u) : Keeps s u := by
  cases e
  refine keeps_onDomain ?_ ?_
  · exact g1
  · intro x0_0 h0_0
    exact keeps_doThrottleExpiry h0_0

theorem keeps_execScrubRead {s v0 v1 v2} (g2 : Keeps s v2) {u} (e : execScrubRead v0 v1 v2 = .next u) : Keeps s u := by
  cases e
  refine keeps_onDomain ?_ ?_
  · exact g2
  · intro x0_0 h0_0
    exact keeps_doScrub h0_0

theorem keeps_execRefresh {s v0 v1 v2} (g2 : Keeps s v2) {u} (e : execRefresh v0 v1 v2 = .next u) : Keeps s u := by
  cases e
  refine keeps_onDomain ?_ ?_
  · exact g2
  · intro x0_0 h0_0
    exact keeps_doRefresh h0_0

theorem keeps_execChannelRetrain {s v0 v1 v2} (g2 : Keeps s v2) {u} (e : execChannelRetrain v0 v1 v2 = .next u) : Keeps s u := by
  cases e
  refine keeps_onDomain ?_ ?_
  · exact g2
  · intro x0_0 h0_0
    exact keeps_doRetrain h0_0

theorem keeps_execChannelRetrainEnd {s v0 v1 v2} (g2 : Keeps s v2) {u} (e : execChannelRetrainEnd v0 v1 v2 = .next u) : Keeps s u := by
  cases e
  refine keeps_onDomain ?_ ?_
  · exact g2
  · intro x0_0 h0_0
    exact keeps_doRetrainEnd h0_0

theorem keeps_execMemoryTrainingEnd {s v0 v1 v2} (g2 : Keeps s v2) {u} (e : execMemoryTrainingEnd v0 v1 v2 = .next u) : Keeps s u := by
  cases e
  refine keeps_onDomain ?_ ?_
  · exact g2
  · intro x0_0 h0_0
    exact keeps_doTrainingEnd h0_0

theorem keeps_execSegmentInitialized {s v0} (g0 : Keeps s v0) {u} (e : execSegmentInitialized v0 = .next u) : Keeps s u := by
  cases e
  refine keeps_onDomain ?_ ?_
  · exact g0
  · intro x0_0 h0_0
    exact keeps_doSegment h0_0

theorem survives_execFullReset {s : State} {c : ResetCause} {u : State} (e : execFullReset c s = .next u) : Survives s u := by
  cases e
  exact survives_doFullReset s c

theorem keeps_execResetRelease {s v0 v1 v2} (g2 : Keeps s v2) {u} (e : execResetRelease v0 v1 v2 = .next u) : Keeps s u := by
  cases e
  exact keeps_doResetRelease g2

theorem keeps_execBootChunkCopyEnd {s v0} (g0 : Keeps s v0) {u} (e : execBootChunkCopyEnd v0 = .next u) : Keeps s u := by
  cases e
  refine keeps_onDomain ?_ ?_
  · exact g0
  · intro x0_0 h0_0
    exact keeps_doChunkCopyEnd h0_0

theorem keeps_execImageVerificationEnd {s v0 v1 v2} (g2 : Keeps s v2) {u} (e : execImageVerificationEnd v0 v1 v2 = .next u) : Keeps s u := by
  cases e
  refine keeps_onDomain ?_ ?_
  · exact g2
  · intro x0_0 h0_0
    exact keeps_doImageEnd h0_0

theorem keeps_execFirmwareUnitStart {s v0} (g0 : Keeps s v0) {u} (e : execFirmwareUnitStart v0 = .next u) : Keeps s u := by
  cases e
  refine keeps_onDomain ?_ ?_
  · exact g0
  · intro x0_0 h0_0
    exact keeps_followTime (keeps_doUnitStart h0_0)

theorem keeps_execParityScrub {s v0 v1} (g1 : Keeps s v1) {u} (e : execParityScrub v0 v1 = .next u) : Keeps s u := by
  cases e
  exact keeps_doParityScrub g1

theorem keeps_execThermalGovernor {s v0 v1} (g1 : Keeps s v1) {u} (e : execThermalGovernor v0 v1 = .next u) : Keeps s u := by
  cases e
  exact keeps_doGovernor g1

theorem keeps_execThermalTrip {s v0} (g0 : Keeps s v0) {u} (e : execThermalTrip v0 = .next u) : Keeps s u := by
  cases e
  exact keeps_doThermalTrip g0

theorem keeps_execDormantThermalTrip {s v0 v1} (g1 : Keeps s v1) {u} (e : execDormantThermalTrip v0 v1 = .next u) : Keeps s u := by
  cases e
  exact keeps_doDormantTrip g1

theorem survives_execThermalCut {s u : State} (e : execThermalCut s = .next u) : Survives s u ∧ BarStays s u := by
  cases e
  exact survives_doThermalCut s

theorem keeps_execPllLockLoss {s v0 v1 v2} (g2 : Keeps s v2) {u} (e : execPllLockLoss v0 v1 v2 = .next u) : Keeps s u := by
  cases e
  exact keeps_doLockLoss g2

theorem keeps_execPllRelock {s v0 v1} (g1 : Keeps s v1) {u} (e : execPllRelock v0 v1 = .next u) : Keeps s u := by
  cases e
  exact keeps_doRelock g1

theorem keeps_execIdleGating {s v0 v1} (g1 : Keeps s v1) {u} (e : execIdleGating v0 v1 = .next u) : Keeps s u := by
  cases e
  exact keeps_doIdleGating g1

theorem keeps_execUnitWake {s v0 v1} (g1 : Keeps s v1) {u} (e : execUnitWake v0 v1 = .next u) : Keeps s u := by
  cases e
  exact keeps_doUnitWake g1

theorem survives_execDormantPowerDown {s u : State} (e : execDormantPowerDown s = .next u) : Survives s u ∧ BarStays s u := by
  cases e
  exact survives_doPowerDown s

theorem keeps_execWake {s v0 v1} (g1 : Keeps s v1) {u} (e : execWake v0 v1 = .next u) : Keeps s u := by
  cases e
  exact keeps_doWake g1

theorem survives_execResume {s : State} {b : Bool} {u : State} (e : execResume b s = .next u) : Survives s u ∧ BarStays s u := by
  cases e
  unfold onLinks
  extract_lets -merge -underBinder +onlyGivenNames t
  have h := survives_doResume s b
  have k : Keeps (doResume s b) t := keeps_followAll (keeps_followTime (Keeps.refl _))
  have hs := h.1.trans k.survives
  have hb := h.2.trans k.bar
  split
  · exact ⟨hs.trans (keeps_peerCame (Keeps.refl _)).survives, hb.trans (keeps_peerCame (Keeps.refl _)).bar⟩
  · exact ⟨hs, hb⟩

theorem keeps_execSupplyDropout {s v0} (g0 : Keeps s v0) {u} (e : execSupplyDropout v0 = .next u) : Keeps s u := by
  cases e
  exact keeps_doDropout g0

theorem survives_execAonReset {s u : State} (e : execAonReset s = .next u) : Survives s u := by
  cases e
  exact survives_doAonReset s

theorem keeps_execScanCycle {s v0 v1 v2 v3 v4} (g4 : Keeps s v4) {u} (e : execScanCycle v0 v1 v2 v3 v4 = .next u) : Keeps s u := by
  cases e
  refine keeps_onDomain ?_ ?_
  · exact g4
  · intro x0_0 h0_0
    exact keeps_doScanCycle h0_0

theorem keeps_execWakeScan {s v0 v1 v2} (g2 : Keeps s v2) {u} (e : execWakeScan v0 v1 v2 = .next u) : Keeps s u := by
  cases e
  exact keeps_doWakeScan g2

theorem keeps_execLaneTempCheck {s v0 v1 v2 v3} (g3 : Keeps s v3) {u} (e : execLaneTempCheck v0 v1 v2 v3 = .next u) : Keeps s u := by
  cases e
  refine keeps_onDomain ?_ ?_
  · exact g3
  · intro x0_0 h0_0
    exact keeps_doLaneTemp h0_0

theorem keeps_execClassTRun {s v0 v1 v2 v3} (g3 : Keeps s v3) {u} (e : execClassTRun v0 v1 v2 v3 = .next u) : Keeps s u := by
  cases e
  refine keeps_onDomain ?_ ?_
  · exact g3
  · intro x0_0 h0_0
    exact keeps_doClassT h0_0

theorem keeps_execEyeScan {s v0 v1 v2 v3} (g3 : Keeps s v3) {u} (e : execEyeScan v0 v1 v2 v3 = .next u) : Keeps s u := by
  cases e
  refine keeps_onDomain ?_ ?_
  · exact g3
  · intro x0_0 h0_0
    exact keeps_doLaneScan h0_0

theorem keeps_execCorrectionStep {s v0 v1 v2} (g2 : Keeps s v2) {u} (e : execCorrectionStep v0 v1 v2 = .next u) : Keeps s u := by
  cases e
  refine keeps_onDomain ?_ ?_
  · exact g2
  · intro x0_0 h0_0
    exact keeps_doCorrection h0_0

end Machine
end Sys2Proof
end

