-- ==== Sys2Proof/WellFormed.lean ====
section
/-! DEFINITION. Well-formed commands: what the block's surroundings can give as operands. A meaning is total and does not rest on it. -/

namespace Sys2Proof

/-- The opcode byte of a descriptor (R269). -/
def Cmd.opcode (c : Cmd) : Nat := c.desc.toNat % 256

/-- The opcodes of Table: opcodes (R278). -/
def opcodes : List Nat :=
  [0x01, 0x02, 0x10, 0x11, 0x12, 0x13, 0x18, 0x20, 0x21, 0x22, 0x23, 0x28, 0x30, 0x31, 0x32, 0x38, 0x3A, 0x40, 0x41, 0x42, 0x48, 0x50,
   0x51, 0x54, 0x5C, 0x60, 0x61, 0x68, 0x70, 0x74, 0x75, 0x7E, 0x7F]

/-- The opcode that a ring command's constructor stands for (R278); none for UNKNOWN_OPCODE and for the other rows. -/
def Instr.opcode : Instr → Option Nat
  | .nop _ => some 0x01 | .fence _ => some 0x02 | .streamOpen _ => some 0x10 | .streamFeed _ _ _ => some 0x11
  | .streamClose _ => some 0x12 | .streamFlush _ => some 0x13 | .surfacePool _ => some 0x18 | .encOpen _ => some 0x20
  | .encParams _ => some 0x21 | .encClose _ => some 0x22 | .encOutbuf _ => some 0x23 | .captureCfg _ _ => some 0x28
  | .stateLoad _ _ => some 0x30 | .commit _ => some 0x31 | .liveSet _ => some 0x32 | .slateLoad _ _ => some 0x38
  | .modeSet _ => some 0x3A | .fumPolicy _ => some 0x40 | .fumBind _ => some 0x41 | .fumSnapshot _ => some 0x42
  | .checkCfg _ => some 0x48 | .routeSet _ _ => some 0x50 | .groupSet _ => some 0x51 | .timeCfg _ => some 0x54
  | .tephraCfg _ => some 0x5C | .touchMap _ => some 0x60 | .touchRefLoad _ _ => some 0x61 | .mirrorCfg _ => some 0x68
  | .dormantEnter _ => some 0x70 | .memWrite _ _ => some 0x74 | .memRead _ => some 0x75 | .serviceEnter _ => some 0x7E
  | .serviceExit _ => some 0x7F
  | _ => none

/-- The command of a ring row. -/
def Instr.cmd : Instr → Option Cmd
  | .nop c => some c | .fence c => some c | .streamOpen c => some c | .streamFeed c _ _ => some c
  | .streamClose c => some c | .streamFlush c => some c | .surfacePool c => some c | .encOpen c => some c
  | .encParams c => some c | .encClose c => some c | .encOutbuf c => some c | .captureCfg c _ => some c
  | .stateLoad c _ => some c | .commit c => some c | .liveSet c => some c | .slateLoad c _ => some c
  | .modeSet c => some c | .fumPolicy c => some c | .fumBind c => some c | .fumSnapshot c => some c
  | .checkCfg c => some c | .routeSet c _ => some c | .groupSet c => some c | .timeCfg c => some c
  | .tephraCfg c => some c | .touchMap c => some c | .touchRefLoad c _ => some c | .mirrorCfg c => some c
  | .dormantEnter c => some c | .memWrite c _ => some c | .memRead c => some c | .serviceEnter c => some c
  | .serviceExit c => some c | .unknownOpcode c => some c
  | _ => none

/-- A packet's payload fits the length its header can give (R113). -/
def Packet.fits (p : Packet) : Bool := decide (p.data.length ≤ 512) && decide (p.data.length % 4 = 0)

/-- A well-formed command: a ring row carries its own opcode, UNKNOWN_OPCODE one outside the table; accesses have sizes that a bus can
have; packets fit; measured lists have their lengths. -/
def Instr.wf (i : Instr) : Bool :=
  (match i.opcode, i.cmd with
    | some o, some c => c.opcode == o
    | none, some c => !(opcodes.contains c.opcode)
    | _, none => true)
  && (match i with
    | .registerWrite _ _ size _ _ => decide (1 ≤ size) && decide (size ≤ 8)
    | .windowAccess _ _ _ _ size _ _ => decide (1 ≤ size) && decide (size ≤ 8)
    | .bootstrapWindowWrite _ _ size _ => decide (1 ≤ size) && decide (size ≤ 8)
    | .packetReceive _ p _ _ => p.fits
    | .mgmtRequest _ p => p.fits
    | .resp r => r.pkt.fits
    | .eventPacket p => p.fits
    | .streamDemux p => p.fits
    | .rasterPacket p => p.fits
    | .mirrorPacket p => p.fits
    | .mirrorAck p => p.fits
    | .memoryRequest _ _ len write data => !write || data.length == len
    | .memoryTrainingEnd density _ => density.length == 24
    | .thermalGovernor temps => temps.length == 9
    | .scanCycle _ nodes selfs noise => nodes.length == 7168 && selfs.length == 176 && noise.length == 4
    | .wakeScan sense drive => sense.length == 8 && drive.length == 14
    | .sinkLinkTraining _ _ _ lanes => lanes == 1 || lanes == 2 || lanes == 4
    | _ => true)

end Sys2Proof
end

