-- ==== Sys2Proof/Laws/PerInstr.lean ====
section
/-! SUPPORT. Statements about every command as syntax, one lemma for each constructor of Instr. -/

set_option Elab.async false

namespace Sys2Proof.Laws.Opcode
open Sys2Proof

/-- R278: a well-formed ring command carries the opcode that Table: opcodes gives its row, which is one byte and in the table; UNKNOWN_OPCODE carries one
outside it; the other rows carry no descriptor and have no opcode. -/
def Statement (i : Instr) : Prop :=
  match i.cmd with
  | some c => i.wf = true → c.opcode < 256 ∧ (i.opcode = some c.opcode ∧ c.opcode ∈ opcodes ∨ i.opcode = none ∧ c.opcode ∉ opcodes)
  | none => i.opcode = none

theorem opcode_lt (c : Cmd) : c.opcode < 256 := Nat.mod_lt _ (by decide)

/-- A ring row of the table. -/
theorem ring {i : Instr} {c : Cmd} {o : Nat} (hc : i.cmd = some c) (ho : i.opcode = some o) (hm : o ∈ opcodes) : Statement i := by
  simp only [Statement, hc]
  intro hw
  have h : c.opcode = o := by
    simp only [Instr.wf, ho, hc, Bool.and_eq_true, beq_iff_eq] at hw
    exact hw.1
  exact ⟨opcode_lt c, .inl ⟨by rw [ho, h], h ▸ hm⟩⟩

theorem nop (c : Cmd) : Statement (.nop c) := ring rfl rfl (by decide)
theorem fence (c : Cmd) : Statement (.fence c) := ring rfl rfl (by decide)
theorem unknownOpcode (c : Cmd) : Statement (.unknownOpcode c) := by
  simp only [Statement, Instr.cmd]
  intro hw
  refine ⟨opcode_lt c, .inr ⟨rfl, ?_⟩⟩
  simpa [Instr.wf, Instr.opcode, Instr.cmd] using hw
theorem streamOpen (c : Cmd) : Statement (.streamOpen c) := ring rfl rfl (by decide)
theorem streamFeed (c : Cmd) (buf : List Byte) (sets : FeedSets) : Statement (.streamFeed c buf sets) := ring rfl rfl (by decide)
theorem streamClose (c : Cmd) : Statement (.streamClose c) := ring rfl rfl (by decide)
theorem streamFlush (c : Cmd) : Statement (.streamFlush c) := ring rfl rfl (by decide)
theorem surfacePool (c : Cmd) : Statement (.surfacePool c) := ring rfl rfl (by decide)
theorem encOpen (c : Cmd) : Statement (.encOpen c) := ring rfl rfl (by decide)
theorem encParams (c : Cmd) : Statement (.encParams c) := ring rfl rfl (by decide)
theorem encClose (c : Cmd) : Statement (.encClose c) := ring rfl rfl (by decide)
theorem encOutbuf (c : Cmd) : Statement (.encOutbuf c) := ring rfl rfl (by decide)
theorem captureCfg (c : Cmd) (edid : List Byte) : Statement (.captureCfg c edid) := ring rfl rfl (by decide)
theorem stateLoad (c : Cmd) (buf : List Byte) : Statement (.stateLoad c buf) := ring rfl rfl (by decide)
theorem commit (c : Cmd) : Statement (.commit c) := ring rfl rfl (by decide)
theorem liveSet (c : Cmd) : Statement (.liveSet c) := ring rfl rfl (by decide)
theorem slateLoad (c : Cmd) (img : List Byte) : Statement (.slateLoad c img) := ring rfl rfl (by decide)
theorem modeSet (c : Cmd) : Statement (.modeSet c) := ring rfl rfl (by decide)
theorem fumPolicy (c : Cmd) : Statement (.fumPolicy c) := ring rfl rfl (by decide)
theorem fumBind (c : Cmd) : Statement (.fumBind c) := ring rfl rfl (by decide)
theorem fumSnapshot (c : Cmd) : Statement (.fumSnapshot c) := ring rfl rfl (by decide)
theorem checkCfg (c : Cmd) : Statement (.checkCfg c) := ring rfl rfl (by decide)
theorem routeSet (c : Cmd) (tbl : List Byte) : Statement (.routeSet c tbl) := ring rfl rfl (by decide)
theorem groupSet (c : Cmd) : Statement (.groupSet c) := ring rfl rfl (by decide)
theorem timeCfg (c : Cmd) : Statement (.timeCfg c) := ring rfl rfl (by decide)
theorem tephraCfg (c : Cmd) : Statement (.tephraCfg c) := ring rfl rfl (by decide)
theorem touchMap (c : Cmd) : Statement (.touchMap c) := ring rfl rfl (by decide)
theorem touchRefLoad (c : Cmd) (img : List Byte) : Statement (.touchRefLoad c img) := ring rfl rfl (by decide)
theorem mirrorCfg (c : Cmd) : Statement (.mirrorCfg c) := ring rfl rfl (by decide)
theorem dormantEnter (c : Cmd) : Statement (.dormantEnter c) := ring rfl rfl (by decide)
theorem memWrite (c : Cmd) (buf : List Byte) : Statement (.memWrite c buf) := ring rfl rfl (by decide)
theorem memRead (c : Cmd) : Statement (.memRead c) := ring rfl rfl (by decide)
theorem serviceEnter (c : Cmd) : Statement (.serviceEnter c) := ring rfl rfl (by decide)
theorem serviceExit (c : Cmd) : Statement (.serviceExit c) := ring rfl rfl (by decide)
theorem sqTailDoorbell (f : Fin 2) (q : Fin 64) (v : U32) (aligned : Bool) : Statement (.sqTailDoorbell f q v aligned) := rfl
theorem descriptorFetch (desc : BitVec 512) (err : Bool) : Statement (.descriptorFetch desc err) := rfl
theorem cqHeadDoorbell (f : Fin 2) (q : Fin 64) (v : U32) (aligned : Bool) : Statement (.cqHeadDoorbell f q v aligned) := rfl
theorem eventRingHeadDoorbell (f : Fin 2) (v : U32) (aligned : Bool) : Statement (.eventRingHeadDoorbell f v aligned) := rfl
theorem completionWrite (f : Fin 2) (q : Fin 64) : Statement (.completionWrite f q) := rfl
theorem cqCoalesceTimeout (f : Fin 2) (ring : CoalRing) : Statement (.cqCoalesceTimeout f ring) := rfl
theorem registerWrite (a : Acc) (off : BitVec 24) (size : Nat) (full : Bool) (v : U64) : Statement (.registerWrite a off size full v) := rfl
theorem ringEnable (a : Acc) (f : Fin 2) (ring : RingSel) (v : U32) : Statement (.ringEnable a f ring v) := rfl
theorem sysReset (a : Acc) (v : U32) : Statement (.sysReset a v) := rfl
theorem fullReset (cause : ResetCause) : Statement (.fullReset cause) := rfl
theorem bootstrapWindowWrite (a : Acc) (off : BitVec 20) (size : Nat) (v : U64) : Statement (.bootstrapWindowWrite a off size v) := rfl
theorem sysBootChunk (a : Acc) (v : U32) : Statement (.sysBootChunk a v) := rfl
theorem imageVerificationEnd (key sig : Unit) : Statement (.imageVerificationEnd key sig) := rfl
theorem firmwareUnitStart : Statement .firmwareUnitStart := rfl
theorem mbxSel (a : Acc) (m : Fin 4) (v : U32) : Statement (.mbxSel a m v) := rfl
theorem mailboxLatch (bank : Fin 7) (m : Fin 4) : Statement (.mailboxLatch bank m) := rfl
theorem fumLock (a : Acc) (v : U32) : Statement (.fumLock a v) := rfl
theorem fumSelftestRelease (a : Acc) (v : U32) : Statement (.fumSelftestRelease a v) := rfl
theorem fabGwFailRelease (a : Acc) (v : U32) : Statement (.fabGwFailRelease a v) := rfl
theorem strDecFaultRelease (a : Acc) (v : U32) : Statement (.strDecFaultRelease a v) := rfl
theorem cmpFaultRelease (a : Acc) (v : U32) : Statement (.cmpFaultRelease a v) := rfl
theorem sysRafRelease (a : Acc) (v : U32) : Statement (.sysRafRelease a v) := rfl
theorem sysMpuRelease (a : Acc) (v : U32) : Statement (.sysMpuRelease a v) := rfl
theorem sysMpuCtrl (a : Acc) (r : Fin 64) (v : U32) : Statement (.sysMpuCtrl a r v) := rfl
theorem fabNodeAddr (a : Acc) (v : U32) : Statement (.fabNodeAddr a v) := rfl
theorem domainClaim (priv : Bool) (dom : BitVec 10) (v : U32) : Statement (.domainClaim priv dom v) := rfl
theorem linkEnable (a : Acc) (l : Fin 11) (v : U32) : Statement (.linkEnable a l v) := rfl
theorem linkRetrain (a : Acc) (l : Fin 11) (v : U32) : Statement (.linkRetrain a l v) := rfl
theorem edidRead (a : Acc) (n : Fin 8) (v : U32) : Statement (.edidRead a n v) := rfl
theorem edidReadEnd (n : Fin 8) (res : EdidEnd) : Statement (.edidReadEnd n res) := rfl
theorem dpRetrain (a : Acc) (n : Fin 8) (v : U32) : Statement (.dpRetrain a n v) := rfl
theorem pairClaim (a : Acc) (v : U32) : Statement (.pairClaim a v) := rfl
theorem pairRelease (a : Acc) (v : U32) : Statement (.pairRelease a v) := rfl
theorem sysLifecycleAdv (a : Acc) (v : U32) : Statement (.sysLifecycleAdv a v) := rfl
theorem dapEn (a : Acc) (v : U32) : Statement (.dapEn a v) := rfl
theorem edgAonClear (a : Acc) (v : U32) : Statement (.edgAonClear a v) := rfl
theorem cmpSlateBase (a : Acc) (v : U32) : Statement (.cmpSlateBase a v) := rfl
theorem recal (a : Acc) (l : Fin 11) (v : U32) : Statement (.recal a l v) := rfl
theorem laneOverride (a : Acc) (l : Fin 11) (v : U32) : Statement (.laneOverride a l v) := rfl
theorem outDpTrimOvr (a : Acc) (n : Fin 8) (v : U32) : Statement (.outDpTrimOvr a n v) := rfl
theorem touchEnable (a : Acc) (t : Fin 2) (v : U32) : Statement (.touchEnable a t v) := rfl
theorem touchDisable (a : Acc) (t : Fin 2) (v : U32) : Statement (.touchDisable a t v) := rfl
theorem touchHold (a : Acc) (t : Fin 2) (v : U32) : Statement (.touchHold a t v) := rfl
theorem dapCmd (w : U64) : Statement (.dapCmd w) := rfl
theorem dapData (w : U32) : Statement (.dapData w) := rfl
theorem windowAccess (f : Fin 2) (doorbell : Bool) (addr : U32) (write : Bool) (size : Nat) (full : Bool) (v : U64) : Statement (.windowAccess f doorbell addr write size full v) := rfl
theorem pcieLinkUp : Statement .pcieLinkUp := rfl
theorem packetReceive (l : Fin 11) (p : Packet) (crc : U32) (abt : Bool) : Statement (.packetReceive l p crc abt) := rfl
theorem linkCrcWindowEnd (l : Fin 11) : Statement (.linkCrcWindowEnd l) := rfl
theorem packetEnd (l : Fin 11) : Statement (.packetEnd l) := rfl
theorem skp (l : Fin 11) : Statement (.skp l) := rfl
theorem reorderRelease (l : Fin 11) : Statement (.reorderRelease l) := rfl
theorem trainingStateAdvance (l : Fin 11) (obs : TrainObs) : Statement (.trainingStateAdvance l obs) := rfl
theorem linkTrainTimeout (l : Fin 11) : Statement (.linkTrainTimeout l) := rfl
theorem backoffExpiry (l : Fin 11) : Statement (.backoffExpiry l) := rfl
theorem capsRepeat (l : Fin 11) : Statement (.capsRepeat l) := rfl
theorem caps (l : Fin 11) (payload : BitVec 256) : Statement (.caps l payload) := rfl
theorem codeError (l : Fin 11) (lane : Fin 2) (symbol : Nat) : Statement (.codeError l lane symbol) := rfl
theorem lockLost (l : Fin 11) (lane : Fin 2) : Statement (.lockLost l lane) := rfl
theorem sync (l : Fin 11) (payload : BitVec 256) : Statement (.sync l payload) := rfl
theorem reply (l : Fin 11) (payload : BitVec 256) : Statement (.reply l payload) := rfl
theorem timeExchangePeriod : Statement .timeExchangePeriod := rfl
theorem holdoverLimitExpiry : Statement .holdoverLimitExpiry := rfl
theorem mgmtRequest (l : Option (Fin 11)) (p : Packet) : Statement (.mgmtRequest l p) := rfl
theorem resp (r : Delivered) : Statement (.resp r) := rfl
theorem mgmtRetryTimeout (flow : Fin 3) (peer : BitVec 10) : Statement (.mgmtRetryTimeout flow peer) := rfl
theorem eventPacket (p : Packet) : Statement (.eventPacket p) := rfl
theorem streamDemux (p : Packet) : Statement (.streamDemux p) := rfl
theorem rasterPacket (p : Packet) : Statement (.rasterPacket p) := rfl
theorem mirrorPacket (p : Packet) : Statement (.mirrorPacket p) := rfl
theorem resyncReq : Statement .resyncReq := rfl
theorem mirrorAck (p : Packet) : Statement (.mirrorAck p) := rfl
theorem ackTimeout : Statement .ackTimeout := rfl
theorem fumaroleTick : Statement .fumaroleTick := rfl
theorem recordLatch (tile : Fin 4096) : Statement (.recordLatch tile) := rfl
theorem scanStart (tile : Fin 4096) : Statement (.scanStart tile) := rfl
theorem tileEventWindowEnd (tile : Fin 4096) : Statement (.tileEventWindowEnd tile) := rfl
theorem outputLine (n : Fin 8) (y : Nat) (late : List (Fin 4096)) (linkXor : U16 × U16 × U16) : Statement (.outputLine n y late linkXor) := rfl
theorem frameStart (n : Fin 8) : Statement (.frameStart n) := rfl
theorem vblankLineBoundary (n : Fin 8) : Statement (.vblankLineBoundary n) := rfl
theorem commitValidation (p : Fin 8) : Statement (.commitValidation p) := rfl
theorem commitApply (n : Fin 8) : Statement (.commitApply n) := rfl
theorem modeSetApply (n : Fin 8) : Statement (.modeSetApply n) := rfl
theorem checkCfgApply (k : Fin 128) : Statement (.checkCfgApply k) := rfl
theorem checkResult (k : Fin 128) : Statement (.checkResult k) := rfl
theorem chkResultWindowEnd (k : Fin 128) : Statement (.chkResultWindowEnd k) := rfl
theorem slateCopyEnd (slot : Fin 256) : Statement (.slateCopyEnd slot) := rfl
theorem snapshotWriteEnd : Statement .snapshotWriteEnd := rfl
theorem capturePictureStart (p : Fin 4) (m : Msa) : Statement (.capturePictureStart p m) := rfl
theorem captureBand (p : Fin 4) (elems : List (List (List U16))) : Statement (.captureBand p elems) := rfl
theorem capSignalLoss (p : Fin 4) : Statement (.capSignalLoss p) := rfl
theorem hpdPulseEnd (p : Fin 4) : Statement (.hpdPulseEnd p) := rfl
theorem sinkLinkTraining (p : Fin 4) (trained : Bool) (rate : Fin 4) (lanes : Nat) : Statement (.sinkLinkTraining p trained rate lanes) := rfl
theorem encPictureStart (h : Fin 8) : Statement (.encPictureStart h) := rfl
theorem sliceCoding (h : Fin 8) (sl : CodedSlice) : Statement (.sliceCoding h sl) := rfl
theorem sliceReady (h : Fin 8) (params nal : List Byte) : Statement (.sliceReady h params nal) := rfl
theorem keepalivePicture (h : Fin 8) : Statement (.keepalivePicture h) := rfl
theorem keepaliveExpiry (h : Fin 8) : Statement (.keepaliveExpiry h) := rfl
theorem pictureStart (e : Fin 8) (ready : List (Fin 256 × PicInfo)) : Statement (.pictureStart e ready) := rfl
theorem sliceDecode (e : Fin 8) (sl : SliceInfo) : Statement (.sliceDecode e sl) := rfl
theorem stallLimit (o : StallObs) : Statement (.stallLimit o) := rfl
theorem decConcealWindowEnd (k : Fin 256) : Statement (.decConcealWindowEnd k) := rfl
theorem hpdUnplug (n : Fin 8) : Statement (.hpdUnplug n) := rfl
theorem hpdPlug (n : Fin 8) (caps : SinkCaps) : Statement (.hpdPlug n caps) := rfl
theorem irqHpd (n : Fin 8) (lost : Bool) : Statement (.irqHpd n lost) := rfl
theorem dpLinkTraining (n : Fin 8) (res : TrainResult) : Statement (.dpLinkTraining n res) := rfl
theorem trainingRetry (n : Fin 8) : Statement (.trainingRetry n) := rfl
theorem memoryRequest (mid : BitVec 6) (addr : BitVec 40) (len : Nat) (write : Bool) (data : List Byte) : Statement (.memoryRequest mid addr len write data) := rfl
theorem channelIssue (ch : Fin 24) (ecc : Ecc) : Statement (.channelIssue ch ecc) := rfl
theorem commandError (ch : Option (Fin 24)) (what : MemStruct) : Statement (.commandError ch what) := rfl
theorem throttleExpiry (mid : BitVec 6) : Statement (.throttleExpiry mid) := rfl
theorem scrubRead (ch : Fin 24) (ecc : Ecc) : Statement (.scrubRead ch ecc) := rfl
theorem refresh (ch : Fin 24) (bank : Fin 16) : Statement (.refresh ch bank) := rfl
theorem channelRetrain (ch : Fin 24) (obs : RetrainObs) : Statement (.channelRetrain ch obs) := rfl
theorem memoryTrainingEnd (density : List Nat) (obs : DramObs) : Statement (.memoryTrainingEnd density obs) := rfl
theorem segmentInitialized : Statement .segmentInitialized := rfl
theorem parityScrub (found : List (BitVec 24)) : Statement (.parityScrub found) := rfl
theorem autoClaim : Statement .autoClaim := rfl
theorem actingOwner : Statement .actingOwner := rfl
theorem pairConflict : Statement .pairConflict := rfl
theorem relinquish (trig : Fin 12) : Statement (.relinquish trig) := rfl
theorem nm0Watchdog : Statement .nm0Watchdog := rfl
theorem stateDisagree (kind : Fin 3) (idx : Byte) : Statement (.stateDisagree kind idx) := rfl
theorem thermalGovernor (temps : List Int) : Statement (.thermalGovernor temps) := rfl
theorem thermalTrip : Statement .thermalTrip := rfl
theorem dormantThermalTrip (temp : Int) : Statement (.dormantThermalTrip temp) := rfl
theorem thermalCut : Statement .thermalCut := rfl
theorem pllLockLoss (p : Pll) (us100 : Bool) : Statement (.pllLockLoss p us100) := rfl
theorem idleGating (u : PowerUnit) : Statement (.idleGating u) := rfl
theorem unitWake (u : PowerUnit) : Statement (.unitWake u) := rfl
theorem dormantPowerDown : Statement .dormantPowerDown := rfl
theorem wake (src : WakeSrc) : Statement (.wake src) := rfl
theorem resume (imageOk : Bool) : Statement (.resume imageOk) := rfl
theorem supplyDropout : Statement .supplyDropout := rfl
theorem aonReset : Statement .aonReset := rfl
theorem scanCycle (t : Fin 2) (nodes : List U16) (selfs : List U16) (noise : List U16) : Statement (.scanCycle t nodes selfs noise) := rfl
theorem wakeScan (sense : List U16) (drive : List U16) : Statement (.wakeScan sense drive) := rfl
theorem laneTempCheck (l : Fin 11) (lane : Fin 2) (temp : Int) : Statement (.laneTempCheck l lane temp) := rfl
theorem classTRun (l : Fin 11) (lane : Fin 2) (eye : Eye) : Statement (.classTRun l lane eye) := rfl
theorem eyeScan (l : Fin 11) (lane : Fin 2) (eye : Eye) : Statement (.eyeScan l lane eye) := rfl
theorem correctionStep (l : Fin 11) (lane : Fin 2) : Statement (.correctionStep l lane) := rfl
theorem resetRelease (straps : Straps) (calf : BitVec 11) : Statement (.resetRelease straps calf) := rfl
theorem pairOwnIRise : Statement .pairOwnIRise := rfl
theorem pllRelock (p : Pll) : Statement (.pllRelock p) := rfl
theorem timeUnlockLimitExpiry : Statement .timeUnlockLimitExpiry := rfl
theorem bootChunkCopyEnd : Statement .bootChunkCopyEnd := rfl
theorem channelRetrainEnd (ch : Fin 24) (ns : U16) : Statement (.channelRetrainEnd ch ns) := rfl

end Sys2Proof.Laws.Opcode
end

