-- ==== Sys2Proof/Laws/Raised.lean ====
section
/-! SUPPORT. Events among what the device puts out. -/

set_option Elab.async false

namespace Sys2Proof
namespace Machine

/-- What was put out stays put out. -/
theorem news_mono {s t u : State} (hs : s.out <:+ t.out) (h : t.out <:+ u.out) {o : Out} (ho : o ∈ news s t) : o ∈ news s u := by
  obtain ⟨a, ha⟩ := hs
  obtain ⟨b, hb⟩ := h
  have e1 : news s t = a := by
    unfold news
    rw [← ha, List.length_append, Nat.add_sub_cancel, List.take_left]
  have e2 : news s u = b ++ a := by
    unfold news
    rw [← hb, ← ha, ← List.append_assoc, List.length_append, Nat.add_sub_cancel, List.take_left]
  rw [e1] at ho
  rw [e2]
  exact List.mem_append_right _ ho

/-- An event raised stays raised. -/
theorem Raised.later {s t u : State} {c : Nat} {d : List Byte} (h : Raised s t c d) (hs : s.out <:+ t.out) (k : t.out <:+ u.out) :
    Raised s u c d := news_mono hs k h

/-- Raising an event puts it out. -/
theorem raised_raise {s v : State} (c : Nat) (d : List Byte) (h : s.out <:+ v.out) : Raised s (v.raise c d) c d := by
  have k : Out.event c d :: v.out <:+ (v.raise c d).out := by
    unfold State.raise
    rw [raiseN]
    have g : ∀ (w : State) (x : Nat) (y : List Byte), w.out <:+ (sendRecord (raiseN 11) w x y).out := fun w _ _ =>
      (keeps_sendRecord (s := w) (fun _ _ _ h => keeps_raiseN h) (Keeps.refl w)).log
    simp only
    split
    · split
      · exact List.suffix_refl _
      · exact g ({ v with evSeq := (v.evSeq + 1) % 65536 }.emit (.event c d)) _ _
    · exact g ({ v with evSeq := (v.evSeq + 1) % 65536 }.emit (.event c d)) _ _
  obtain ⟨a, ha⟩ := h
  obtain ⟨b, hb⟩ := k
  unfold Raised news
  rw [← hb, ← ha]
  simp only [List.length_append, List.length_cons]
  rw [show b.length + (a.length + s.out.length + 1) - s.out.length = (b ++ (Out.event c d :: a)).length by simp; omega,
    ← List.cons_append, ← List.append_assoc, List.take_left]
  simp

end Machine
end Sys2Proof
end

