-- ==== Sys2Proof/Laws/State.lean ====
section
/-! SUPPORT. The small lemmas of the updates of State: what each leaves as it was, and what a read after it gives. -/

set_option Elab.async false

namespace Sys2Proof.Machine

/-! setReg: the field regs alone -/

@[simp] theorem State.setReg_pending (s : State) (off v : Nat) : (s.setReg off v).pending = s.pending := rfl
@[simp] theorem State.setReg_held (s : State) (off v : Nat) : (s.setReg off v).held = s.held := rfl
@[simp] theorem State.setReg_out (s : State) (off v : Nat) : (s.setReg off v).out = s.out := rfl
@[simp] theorem State.setReg_clk (s : State) (off v : Nat) : (s.setReg off v).clk = s.clk := rfl
@[simp] theorem State.setReg_ft (s : State) (off v : Nat) : (s.setReg off v).ft = s.ft := rfl
@[simp] theorem State.setReg_free (s : State) (off v : Nat) : (s.setReg off v).free = s.free := rfl
@[simp] theorem State.setReg_evSeq (s : State) (off v : Nat) : (s.setReg off v).evSeq = s.evSeq := rfl
@[simp] theorem State.setReg_rate (s : State) (off v : Nat) : (s.setReg off v).rate = s.rate := rfl
@[simp] theorem State.setReg_mem (s : State) (off v : Nat) : (s.setReg off v).mem = s.mem := rfl
@[simp] theorem State.setReg_otp (s : State) (off v : Nat) : (s.setReg off v).otp = s.otp := rfl
@[simp] theorem State.setReg_aon (s : State) (off v : Nat) : (s.setReg off v).aon = s.aon := rfl
@[simp] theorem State.setReg_straps (s : State) (off v : Nat) : (s.setReg off v).straps = s.straps := rfl
@[simp] theorem State.setReg_sys (s : State) (off v : Nat) : (s.setReg off v).sys = s.sys := rfl
@[simp] theorem State.setReg_host (s : State) (off v : Nat) : (s.setReg off v).host = s.host := rfl
@[simp] theorem State.setReg_fab (s : State) (off v : Nat) : (s.setReg off v).fab = s.fab := rfl
@[simp] theorem State.setReg_dram (s : State) (off v : Nat) : (s.setReg off v).dram = s.dram := rfl
@[simp] theorem State.setReg_chans (s : State) (off v : Nat) : (s.setReg off v).chans = s.chans := rfl
@[simp] theorem State.setReg_pair (s : State) (off v : Nat) : (s.setReg off v).pair = s.pair := rfl
@[simp] theorem State.setReg_mir (s : State) (off v : Nat) : (s.setReg off v).mir = s.mir := rfl
@[simp] theorem State.setReg_commits (s : State) (off v : Nat) : (s.setReg off v).commits = s.commits := rfl
@[simp] theorem State.setReg_time (s : State) (off v : Nat) : (s.setReg off v).time = s.time := rfl
@[simp] theorem State.setReg_surf (s : State) (off v : Nat) : (s.setReg off v).surf = s.surf := rfl
@[simp] theorem State.setReg_fum (s : State) (off v : Nat) : (s.setReg off v).fum = s.fum := rfl
@[simp] theorem State.setReg_dec (s : State) (off v : Nat) : (s.setReg off v).dec = s.dec := rfl
@[simp] theorem State.setReg_caps (s : State) (off v : Nat) : (s.setReg off v).caps = s.caps := rfl
@[simp] theorem State.setReg_encs (s : State) (off v : Nat) : (s.setReg off v).encs = s.encs := rfl
@[simp] theorem State.setReg_cmp (s : State) (off v : Nat) : (s.setReg off v).cmp = s.cmp := rfl
@[simp] theorem State.setReg_scan (s : State) (off v : Nat) : (s.setReg off v).scan = s.scan := rfl
@[simp] theorem State.setReg_touch (s : State) (off v : Nat) : (s.setReg off v).touch = s.touch := rfl
@[simp] theorem State.setReg_lanes (s : State) (off v : Nat) : (s.setReg off v).lanes = s.lanes := rfl

/-! emit: the field out alone -/

@[simp] theorem State.emit_pending (s : State) (o : Out) : (s.emit o).pending = s.pending := rfl
@[simp] theorem State.emit_held (s : State) (o : Out) : (s.emit o).held = s.held := rfl
@[simp] theorem State.emit_clk (s : State) (o : Out) : (s.emit o).clk = s.clk := rfl
@[simp] theorem State.emit_ft (s : State) (o : Out) : (s.emit o).ft = s.ft := rfl
@[simp] theorem State.emit_free (s : State) (o : Out) : (s.emit o).free = s.free := rfl
@[simp] theorem State.emit_evSeq (s : State) (o : Out) : (s.emit o).evSeq = s.evSeq := rfl
@[simp] theorem State.emit_rate (s : State) (o : Out) : (s.emit o).rate = s.rate := rfl
@[simp] theorem State.emit_regs (s : State) (o : Out) : (s.emit o).regs = s.regs := rfl
@[simp] theorem State.emit_mem (s : State) (o : Out) : (s.emit o).mem = s.mem := rfl
@[simp] theorem State.emit_otp (s : State) (o : Out) : (s.emit o).otp = s.otp := rfl
@[simp] theorem State.emit_aon (s : State) (o : Out) : (s.emit o).aon = s.aon := rfl
@[simp] theorem State.emit_straps (s : State) (o : Out) : (s.emit o).straps = s.straps := rfl
@[simp] theorem State.emit_sys (s : State) (o : Out) : (s.emit o).sys = s.sys := rfl
@[simp] theorem State.emit_host (s : State) (o : Out) : (s.emit o).host = s.host := rfl
@[simp] theorem State.emit_fab (s : State) (o : Out) : (s.emit o).fab = s.fab := rfl
@[simp] theorem State.emit_dram (s : State) (o : Out) : (s.emit o).dram = s.dram := rfl
@[simp] theorem State.emit_chans (s : State) (o : Out) : (s.emit o).chans = s.chans := rfl
@[simp] theorem State.emit_pair (s : State) (o : Out) : (s.emit o).pair = s.pair := rfl
@[simp] theorem State.emit_mir (s : State) (o : Out) : (s.emit o).mir = s.mir := rfl
@[simp] theorem State.emit_commits (s : State) (o : Out) : (s.emit o).commits = s.commits := rfl
@[simp] theorem State.emit_time (s : State) (o : Out) : (s.emit o).time = s.time := rfl
@[simp] theorem State.emit_surf (s : State) (o : Out) : (s.emit o).surf = s.surf := rfl
@[simp] theorem State.emit_fum (s : State) (o : Out) : (s.emit o).fum = s.fum := rfl
@[simp] theorem State.emit_dec (s : State) (o : Out) : (s.emit o).dec = s.dec := rfl
@[simp] theorem State.emit_caps (s : State) (o : Out) : (s.emit o).caps = s.caps := rfl
@[simp] theorem State.emit_encs (s : State) (o : Out) : (s.emit o).encs = s.encs := rfl
@[simp] theorem State.emit_cmp (s : State) (o : Out) : (s.emit o).cmp = s.cmp := rfl
@[simp] theorem State.emit_scan (s : State) (o : Out) : (s.emit o).scan = s.scan := rfl
@[simp] theorem State.emit_touch (s : State) (o : Out) : (s.emit o).touch = s.touch := rfl
@[simp] theorem State.emit_lanes (s : State) (o : Out) : (s.emit o).lanes = s.lanes := rfl
@[simp] theorem State.emit_reg (s : State) (o : Out) (x : Nat) : (s.emit o).reg x = s.reg x := rfl

/-! rateMark: the field rate alone -/

@[simp] theorem State.rateMark_pending (s : State) (key : Nat) : (s.rateMark key).pending = s.pending := rfl
@[simp] theorem State.rateMark_held (s : State) (key : Nat) : (s.rateMark key).held = s.held := rfl
@[simp] theorem State.rateMark_out (s : State) (key : Nat) : (s.rateMark key).out = s.out := rfl
@[simp] theorem State.rateMark_clk (s : State) (key : Nat) : (s.rateMark key).clk = s.clk := rfl
@[simp] theorem State.rateMark_ft (s : State) (key : Nat) : (s.rateMark key).ft = s.ft := rfl
@[simp] theorem State.rateMark_free (s : State) (key : Nat) : (s.rateMark key).free = s.free := rfl
@[simp] theorem State.rateMark_evSeq (s : State) (key : Nat) : (s.rateMark key).evSeq = s.evSeq := rfl
@[simp] theorem State.rateMark_regs (s : State) (key : Nat) : (s.rateMark key).regs = s.regs := rfl
@[simp] theorem State.rateMark_mem (s : State) (key : Nat) : (s.rateMark key).mem = s.mem := rfl
@[simp] theorem State.rateMark_otp (s : State) (key : Nat) : (s.rateMark key).otp = s.otp := rfl
@[simp] theorem State.rateMark_aon (s : State) (key : Nat) : (s.rateMark key).aon = s.aon := rfl
@[simp] theorem State.rateMark_straps (s : State) (key : Nat) : (s.rateMark key).straps = s.straps := rfl
@[simp] theorem State.rateMark_sys (s : State) (key : Nat) : (s.rateMark key).sys = s.sys := rfl
@[simp] theorem State.rateMark_host (s : State) (key : Nat) : (s.rateMark key).host = s.host := rfl
@[simp] theorem State.rateMark_fab (s : State) (key : Nat) : (s.rateMark key).fab = s.fab := rfl
@[simp] theorem State.rateMark_dram (s : State) (key : Nat) : (s.rateMark key).dram = s.dram := rfl
@[simp] theorem State.rateMark_chans (s : State) (key : Nat) : (s.rateMark key).chans = s.chans := rfl
@[simp] theorem State.rateMark_pair (s : State) (key : Nat) : (s.rateMark key).pair = s.pair := rfl
@[simp] theorem State.rateMark_mir (s : State) (key : Nat) : (s.rateMark key).mir = s.mir := rfl
@[simp] theorem State.rateMark_commits (s : State) (key : Nat) : (s.rateMark key).commits = s.commits := rfl
@[simp] theorem State.rateMark_time (s : State) (key : Nat) : (s.rateMark key).time = s.time := rfl
@[simp] theorem State.rateMark_surf (s : State) (key : Nat) : (s.rateMark key).surf = s.surf := rfl
@[simp] theorem State.rateMark_fum (s : State) (key : Nat) : (s.rateMark key).fum = s.fum := rfl
@[simp] theorem State.rateMark_dec (s : State) (key : Nat) : (s.rateMark key).dec = s.dec := rfl
@[simp] theorem State.rateMark_caps (s : State) (key : Nat) : (s.rateMark key).caps = s.caps := rfl
@[simp] theorem State.rateMark_encs (s : State) (key : Nat) : (s.rateMark key).encs = s.encs := rfl
@[simp] theorem State.rateMark_cmp (s : State) (key : Nat) : (s.rateMark key).cmp = s.cmp := rfl
@[simp] theorem State.rateMark_scan (s : State) (key : Nat) : (s.rateMark key).scan = s.scan := rfl
@[simp] theorem State.rateMark_touch (s : State) (key : Nat) : (s.rateMark key).touch = s.touch := rfl
@[simp] theorem State.rateMark_lanes (s : State) (key : Nat) : (s.rateMark key).lanes = s.lanes := rfl
@[simp] theorem State.rateMark_reg (s : State) (key : Nat) (x : Nat) : (s.rateMark key).reg x = s.reg x := rfl

/-! setLink: the field fab alone -/

@[simp] theorem State.setLink_pending (s : State) (l : Nat) (r : LinkRec) : (s.setLink l r).pending = s.pending := rfl
@[simp] theorem State.setLink_held (s : State) (l : Nat) (r : LinkRec) : (s.setLink l r).held = s.held := rfl
@[simp] theorem State.setLink_out (s : State) (l : Nat) (r : LinkRec) : (s.setLink l r).out = s.out := rfl
@[simp] theorem State.setLink_clk (s : State) (l : Nat) (r : LinkRec) : (s.setLink l r).clk = s.clk := rfl
@[simp] theorem State.setLink_ft (s : State) (l : Nat) (r : LinkRec) : (s.setLink l r).ft = s.ft := rfl
@[simp] theorem State.setLink_free (s : State) (l : Nat) (r : LinkRec) : (s.setLink l r).free = s.free := rfl
@[simp] theorem State.setLink_evSeq (s : State) (l : Nat) (r : LinkRec) : (s.setLink l r).evSeq = s.evSeq := rfl
@[simp] theorem State.setLink_rate (s : State) (l : Nat) (r : LinkRec) : (s.setLink l r).rate = s.rate := rfl
@[simp] theorem State.setLink_regs (s : State) (l : Nat) (r : LinkRec) : (s.setLink l r).regs = s.regs := rfl
@[simp] theorem State.setLink_mem (s : State) (l : Nat) (r : LinkRec) : (s.setLink l r).mem = s.mem := rfl
@[simp] theorem State.setLink_otp (s : State) (l : Nat) (r : LinkRec) : (s.setLink l r).otp = s.otp := rfl
@[simp] theorem State.setLink_aon (s : State) (l : Nat) (r : LinkRec) : (s.setLink l r).aon = s.aon := rfl
@[simp] theorem State.setLink_straps (s : State) (l : Nat) (r : LinkRec) : (s.setLink l r).straps = s.straps := rfl
@[simp] theorem State.setLink_sys (s : State) (l : Nat) (r : LinkRec) : (s.setLink l r).sys = s.sys := rfl
@[simp] theorem State.setLink_host (s : State) (l : Nat) (r : LinkRec) : (s.setLink l r).host = s.host := rfl
@[simp] theorem State.setLink_dram (s : State) (l : Nat) (r : LinkRec) : (s.setLink l r).dram = s.dram := rfl
@[simp] theorem State.setLink_chans (s : State) (l : Nat) (r : LinkRec) : (s.setLink l r).chans = s.chans := rfl
@[simp] theorem State.setLink_pair (s : State) (l : Nat) (r : LinkRec) : (s.setLink l r).pair = s.pair := rfl
@[simp] theorem State.setLink_mir (s : State) (l : Nat) (r : LinkRec) : (s.setLink l r).mir = s.mir := rfl
@[simp] theorem State.setLink_commits (s : State) (l : Nat) (r : LinkRec) : (s.setLink l r).commits = s.commits := rfl
@[simp] theorem State.setLink_time (s : State) (l : Nat) (r : LinkRec) : (s.setLink l r).time = s.time := rfl
@[simp] theorem State.setLink_surf (s : State) (l : Nat) (r : LinkRec) : (s.setLink l r).surf = s.surf := rfl
@[simp] theorem State.setLink_fum (s : State) (l : Nat) (r : LinkRec) : (s.setLink l r).fum = s.fum := rfl
@[simp] theorem State.setLink_dec (s : State) (l : Nat) (r : LinkRec) : (s.setLink l r).dec = s.dec := rfl
@[simp] theorem State.setLink_caps (s : State) (l : Nat) (r : LinkRec) : (s.setLink l r).caps = s.caps := rfl
@[simp] theorem State.setLink_encs (s : State) (l : Nat) (r : LinkRec) : (s.setLink l r).encs = s.encs := rfl
@[simp] theorem State.setLink_cmp (s : State) (l : Nat) (r : LinkRec) : (s.setLink l r).cmp = s.cmp := rfl
@[simp] theorem State.setLink_scan (s : State) (l : Nat) (r : LinkRec) : (s.setLink l r).scan = s.scan := rfl
@[simp] theorem State.setLink_touch (s : State) (l : Nat) (r : LinkRec) : (s.setLink l r).touch = s.touch := rfl
@[simp] theorem State.setLink_lanes (s : State) (l : Nat) (r : LinkRec) : (s.setLink l r).lanes = s.lanes := rfl
@[simp] theorem State.setLink_reg (s : State) (l : Nat) (r : LinkRec) (x : Nat) : (s.setLink l r).reg x = s.reg x := rfl
@[simp] theorem State.link_setLink (s : State) (l : Nat) (r : LinkRec) : (s.setLink l r).link l = r := by simp [State.link, State.setLink]
theorem State.link_setLink_ne (s : State) (l : Nat) (r : LinkRec) (k : Nat) (h : k ≠ l) : (s.setLink l r).link k = s.link k := by simp [State.link, State.setLink, h]

/-! setRequester: the field fab alone -/

@[simp] theorem State.setRequester_pending (s : State) (l : Nat) (r : MRequester) : (s.setRequester l r).pending = s.pending := rfl
@[simp] theorem State.setRequester_held (s : State) (l : Nat) (r : MRequester) : (s.setRequester l r).held = s.held := rfl
@[simp] theorem State.setRequester_out (s : State) (l : Nat) (r : MRequester) : (s.setRequester l r).out = s.out := rfl
@[simp] theorem State.setRequester_clk (s : State) (l : Nat) (r : MRequester) : (s.setRequester l r).clk = s.clk := rfl
@[simp] theorem State.setRequester_ft (s : State) (l : Nat) (r : MRequester) : (s.setRequester l r).ft = s.ft := rfl
@[simp] theorem State.setRequester_free (s : State) (l : Nat) (r : MRequester) : (s.setRequester l r).free = s.free := rfl
@[simp] theorem State.setRequester_evSeq (s : State) (l : Nat) (r : MRequester) : (s.setRequester l r).evSeq = s.evSeq := rfl
@[simp] theorem State.setRequester_rate (s : State) (l : Nat) (r : MRequester) : (s.setRequester l r).rate = s.rate := rfl
@[simp] theorem State.setRequester_regs (s : State) (l : Nat) (r : MRequester) : (s.setRequester l r).regs = s.regs := rfl
@[simp] theorem State.setRequester_mem (s : State) (l : Nat) (r : MRequester) : (s.setRequester l r).mem = s.mem := rfl
@[simp] theorem State.setRequester_otp (s : State) (l : Nat) (r : MRequester) : (s.setRequester l r).otp = s.otp := rfl
@[simp] theorem State.setRequester_aon (s : State) (l : Nat) (r : MRequester) : (s.setRequester l r).aon = s.aon := rfl
@[simp] theorem State.setRequester_straps (s : State) (l : Nat) (r : MRequester) : (s.setRequester l r).straps = s.straps := rfl
@[simp] theorem State.setRequester_sys (s : State) (l : Nat) (r : MRequester) : (s.setRequester l r).sys = s.sys := rfl
@[simp] theorem State.setRequester_host (s : State) (l : Nat) (r : MRequester) : (s.setRequester l r).host = s.host := rfl
@[simp] theorem State.setRequester_dram (s : State) (l : Nat) (r : MRequester) : (s.setRequester l r).dram = s.dram := rfl
@[simp] theorem State.setRequester_chans (s : State) (l : Nat) (r : MRequester) : (s.setRequester l r).chans = s.chans := rfl
@[simp] theorem State.setRequester_pair (s : State) (l : Nat) (r : MRequester) : (s.setRequester l r).pair = s.pair := rfl
@[simp] theorem State.setRequester_mir (s : State) (l : Nat) (r : MRequester) : (s.setRequester l r).mir = s.mir := rfl
@[simp] theorem State.setRequester_commits (s : State) (l : Nat) (r : MRequester) : (s.setRequester l r).commits = s.commits := rfl
@[simp] theorem State.setRequester_time (s : State) (l : Nat) (r : MRequester) : (s.setRequester l r).time = s.time := rfl
@[simp] theorem State.setRequester_surf (s : State) (l : Nat) (r : MRequester) : (s.setRequester l r).surf = s.surf := rfl
@[simp] theorem State.setRequester_fum (s : State) (l : Nat) (r : MRequester) : (s.setRequester l r).fum = s.fum := rfl
@[simp] theorem State.setRequester_dec (s : State) (l : Nat) (r : MRequester) : (s.setRequester l r).dec = s.dec := rfl
@[simp] theorem State.setRequester_caps (s : State) (l : Nat) (r : MRequester) : (s.setRequester l r).caps = s.caps := rfl
@[simp] theorem State.setRequester_encs (s : State) (l : Nat) (r : MRequester) : (s.setRequester l r).encs = s.encs := rfl
@[simp] theorem State.setRequester_cmp (s : State) (l : Nat) (r : MRequester) : (s.setRequester l r).cmp = s.cmp := rfl
@[simp] theorem State.setRequester_scan (s : State) (l : Nat) (r : MRequester) : (s.setRequester l r).scan = s.scan := rfl
@[simp] theorem State.setRequester_touch (s : State) (l : Nat) (r : MRequester) : (s.setRequester l r).touch = s.touch := rfl
@[simp] theorem State.setRequester_lanes (s : State) (l : Nat) (r : MRequester) : (s.setRequester l r).lanes = s.lanes := rfl
@[simp] theorem State.setRequester_reg (s : State) (l : Nat) (r : MRequester) (x : Nat) : (s.setRequester l r).reg x = s.reg x := rfl
@[simp] theorem State.requester_setRequester (s : State) (l : Nat) (r : MRequester) : (s.setRequester l r).requester l = r := by simp [State.requester, State.setRequester]
theorem State.requester_setRequester_ne (s : State) (l : Nat) (r : MRequester) (k : Nat) (h : k ≠ l) : (s.setRequester l r).requester k = s.requester k := by simp [State.requester, State.setRequester, h]

/-! setChan: the field chans alone -/

@[simp] theorem State.setChan_pending (s : State) (l : Nat) (r : ChanRec) : (s.setChan l r).pending = s.pending := rfl
@[simp] theorem State.setChan_held (s : State) (l : Nat) (r : ChanRec) : (s.setChan l r).held = s.held := rfl
@[simp] theorem State.setChan_out (s : State) (l : Nat) (r : ChanRec) : (s.setChan l r).out = s.out := rfl
@[simp] theorem State.setChan_clk (s : State) (l : Nat) (r : ChanRec) : (s.setChan l r).clk = s.clk := rfl
@[simp] theorem State.setChan_ft (s : State) (l : Nat) (r : ChanRec) : (s.setChan l r).ft = s.ft := rfl
@[simp] theorem State.setChan_free (s : State) (l : Nat) (r : ChanRec) : (s.setChan l r).free = s.free := rfl
@[simp] theorem State.setChan_evSeq (s : State) (l : Nat) (r : ChanRec) : (s.setChan l r).evSeq = s.evSeq := rfl
@[simp] theorem State.setChan_rate (s : State) (l : Nat) (r : ChanRec) : (s.setChan l r).rate = s.rate := rfl
@[simp] theorem State.setChan_regs (s : State) (l : Nat) (r : ChanRec) : (s.setChan l r).regs = s.regs := rfl
@[simp] theorem State.setChan_mem (s : State) (l : Nat) (r : ChanRec) : (s.setChan l r).mem = s.mem := rfl
@[simp] theorem State.setChan_otp (s : State) (l : Nat) (r : ChanRec) : (s.setChan l r).otp = s.otp := rfl
@[simp] theorem State.setChan_aon (s : State) (l : Nat) (r : ChanRec) : (s.setChan l r).aon = s.aon := rfl
@[simp] theorem State.setChan_straps (s : State) (l : Nat) (r : ChanRec) : (s.setChan l r).straps = s.straps := rfl
@[simp] theorem State.setChan_sys (s : State) (l : Nat) (r : ChanRec) : (s.setChan l r).sys = s.sys := rfl
@[simp] theorem State.setChan_host (s : State) (l : Nat) (r : ChanRec) : (s.setChan l r).host = s.host := rfl
@[simp] theorem State.setChan_fab (s : State) (l : Nat) (r : ChanRec) : (s.setChan l r).fab = s.fab := rfl
@[simp] theorem State.setChan_dram (s : State) (l : Nat) (r : ChanRec) : (s.setChan l r).dram = s.dram := rfl
@[simp] theorem State.setChan_pair (s : State) (l : Nat) (r : ChanRec) : (s.setChan l r).pair = s.pair := rfl
@[simp] theorem State.setChan_mir (s : State) (l : Nat) (r : ChanRec) : (s.setChan l r).mir = s.mir := rfl
@[simp] theorem State.setChan_commits (s : State) (l : Nat) (r : ChanRec) : (s.setChan l r).commits = s.commits := rfl
@[simp] theorem State.setChan_time (s : State) (l : Nat) (r : ChanRec) : (s.setChan l r).time = s.time := rfl
@[simp] theorem State.setChan_surf (s : State) (l : Nat) (r : ChanRec) : (s.setChan l r).surf = s.surf := rfl
@[simp] theorem State.setChan_fum (s : State) (l : Nat) (r : ChanRec) : (s.setChan l r).fum = s.fum := rfl
@[simp] theorem State.setChan_dec (s : State) (l : Nat) (r : ChanRec) : (s.setChan l r).dec = s.dec := rfl
@[simp] theorem State.setChan_caps (s : State) (l : Nat) (r : ChanRec) : (s.setChan l r).caps = s.caps := rfl
@[simp] theorem State.setChan_encs (s : State) (l : Nat) (r : ChanRec) : (s.setChan l r).encs = s.encs := rfl
@[simp] theorem State.setChan_cmp (s : State) (l : Nat) (r : ChanRec) : (s.setChan l r).cmp = s.cmp := rfl
@[simp] theorem State.setChan_scan (s : State) (l : Nat) (r : ChanRec) : (s.setChan l r).scan = s.scan := rfl
@[simp] theorem State.setChan_touch (s : State) (l : Nat) (r : ChanRec) : (s.setChan l r).touch = s.touch := rfl
@[simp] theorem State.setChan_lanes (s : State) (l : Nat) (r : ChanRec) : (s.setChan l r).lanes = s.lanes := rfl
@[simp] theorem State.setChan_reg (s : State) (l : Nat) (r : ChanRec) (x : Nat) : (s.setChan l r).reg x = s.reg x := rfl
@[simp] theorem State.chan_setChan (s : State) (l : Nat) (r : ChanRec) : (s.setChan l r).chan l = r := by simp [State.chan, State.setChan]
theorem State.chan_setChan_ne (s : State) (l : Nat) (r : ChanRec) (k : Nat) (h : k ≠ l) : (s.setChan l r).chan k = s.chan k := by simp [State.chan, State.setChan, h]

/-! setTlink: the field time alone -/

@[simp] theorem State.setTlink_pending (s : State) (l : Nat) (r : TimeLink) : (s.setTlink l r).pending = s.pending := rfl
@[simp] theorem State.setTlink_held (s : State) (l : Nat) (r : TimeLink) : (s.setTlink l r).held = s.held := rfl
@[simp] theorem State.setTlink_out (s : State) (l : Nat) (r : TimeLink) : (s.setTlink l r).out = s.out := rfl
@[simp] theorem State.setTlink_clk (s : State) (l : Nat) (r : TimeLink) : (s.setTlink l r).clk = s.clk := rfl
@[simp] theorem State.setTlink_ft (s : State) (l : Nat) (r : TimeLink) : (s.setTlink l r).ft = s.ft := rfl
@[simp] theorem State.setTlink_free (s : State) (l : Nat) (r : TimeLink) : (s.setTlink l r).free = s.free := rfl
@[simp] theorem State.setTlink_evSeq (s : State) (l : Nat) (r : TimeLink) : (s.setTlink l r).evSeq = s.evSeq := rfl
@[simp] theorem State.setTlink_rate (s : State) (l : Nat) (r : TimeLink) : (s.setTlink l r).rate = s.rate := rfl
@[simp] theorem State.setTlink_regs (s : State) (l : Nat) (r : TimeLink) : (s.setTlink l r).regs = s.regs := rfl
@[simp] theorem State.setTlink_mem (s : State) (l : Nat) (r : TimeLink) : (s.setTlink l r).mem = s.mem := rfl
@[simp] theorem State.setTlink_otp (s : State) (l : Nat) (r : TimeLink) : (s.setTlink l r).otp = s.otp := rfl
@[simp] theorem State.setTlink_aon (s : State) (l : Nat) (r : TimeLink) : (s.setTlink l r).aon = s.aon := rfl
@[simp] theorem State.setTlink_straps (s : State) (l : Nat) (r : TimeLink) : (s.setTlink l r).straps = s.straps := rfl
@[simp] theorem State.setTlink_sys (s : State) (l : Nat) (r : TimeLink) : (s.setTlink l r).sys = s.sys := rfl
@[simp] theorem State.setTlink_host (s : State) (l : Nat) (r : TimeLink) : (s.setTlink l r).host = s.host := rfl
@[simp] theorem State.setTlink_fab (s : State) (l : Nat) (r : TimeLink) : (s.setTlink l r).fab = s.fab := rfl
@[simp] theorem State.setTlink_dram (s : State) (l : Nat) (r : TimeLink) : (s.setTlink l r).dram = s.dram := rfl
@[simp] theorem State.setTlink_chans (s : State) (l : Nat) (r : TimeLink) : (s.setTlink l r).chans = s.chans := rfl
@[simp] theorem State.setTlink_pair (s : State) (l : Nat) (r : TimeLink) : (s.setTlink l r).pair = s.pair := rfl
@[simp] theorem State.setTlink_mir (s : State) (l : Nat) (r : TimeLink) : (s.setTlink l r).mir = s.mir := rfl
@[simp] theorem State.setTlink_commits (s : State) (l : Nat) (r : TimeLink) : (s.setTlink l r).commits = s.commits := rfl
@[simp] theorem State.setTlink_surf (s : State) (l : Nat) (r : TimeLink) : (s.setTlink l r).surf = s.surf := rfl
@[simp] theorem State.setTlink_fum (s : State) (l : Nat) (r : TimeLink) : (s.setTlink l r).fum = s.fum := rfl
@[simp] theorem State.setTlink_dec (s : State) (l : Nat) (r : TimeLink) : (s.setTlink l r).dec = s.dec := rfl
@[simp] theorem State.setTlink_caps (s : State) (l : Nat) (r : TimeLink) : (s.setTlink l r).caps = s.caps := rfl
@[simp] theorem State.setTlink_encs (s : State) (l : Nat) (r : TimeLink) : (s.setTlink l r).encs = s.encs := rfl
@[simp] theorem State.setTlink_cmp (s : State) (l : Nat) (r : TimeLink) : (s.setTlink l r).cmp = s.cmp := rfl
@[simp] theorem State.setTlink_scan (s : State) (l : Nat) (r : TimeLink) : (s.setTlink l r).scan = s.scan := rfl
@[simp] theorem State.setTlink_touch (s : State) (l : Nat) (r : TimeLink) : (s.setTlink l r).touch = s.touch := rfl
@[simp] theorem State.setTlink_lanes (s : State) (l : Nat) (r : TimeLink) : (s.setTlink l r).lanes = s.lanes := rfl
@[simp] theorem State.setTlink_reg (s : State) (l : Nat) (r : TimeLink) (x : Nat) : (s.setTlink l r).reg x = s.reg x := rfl
@[simp] theorem State.tlink_setTlink (s : State) (l : Nat) (r : TimeLink) : (s.setTlink l r).tlink l = r := by simp [State.tlink, State.setTlink]
theorem State.tlink_setTlink_ne (s : State) (l : Nat) (r : TimeLink) (k : Nat) (h : k ≠ l) : (s.setTlink l r).tlink k = s.tlink k := by simp [State.tlink, State.setTlink, h]

/-! setSource: the field fum alone -/

@[simp] theorem State.setSource_pending (s : State) (l : Nat) (r : SourceRec) : (s.setSource l r).pending = s.pending := rfl
@[simp] theorem State.setSource_held (s : State) (l : Nat) (r : SourceRec) : (s.setSource l r).held = s.held := rfl
@[simp] theorem State.setSource_out (s : State) (l : Nat) (r : SourceRec) : (s.setSource l r).out = s.out := rfl
@[simp] theorem State.setSource_clk (s : State) (l : Nat) (r : SourceRec) : (s.setSource l r).clk = s.clk := rfl
@[simp] theorem State.setSource_ft (s : State) (l : Nat) (r : SourceRec) : (s.setSource l r).ft = s.ft := rfl
@[simp] theorem State.setSource_free (s : State) (l : Nat) (r : SourceRec) : (s.setSource l r).free = s.free := rfl
@[simp] theorem State.setSource_evSeq (s : State) (l : Nat) (r : SourceRec) : (s.setSource l r).evSeq = s.evSeq := rfl
@[simp] theorem State.setSource_rate (s : State) (l : Nat) (r : SourceRec) : (s.setSource l r).rate = s.rate := rfl
@[simp] theorem State.setSource_regs (s : State) (l : Nat) (r : SourceRec) : (s.setSource l r).regs = s.regs := rfl
@[simp] theorem State.setSource_mem (s : State) (l : Nat) (r : SourceRec) : (s.setSource l r).mem = s.mem := rfl
@[simp] theorem State.setSource_otp (s : State) (l : Nat) (r : SourceRec) : (s.setSource l r).otp = s.otp := rfl
@[simp] theorem State.setSource_aon (s : State) (l : Nat) (r : SourceRec) : (s.setSource l r).aon = s.aon := rfl
@[simp] theorem State.setSource_straps (s : State) (l : Nat) (r : SourceRec) : (s.setSource l r).straps = s.straps := rfl
@[simp] theorem State.setSource_sys (s : State) (l : Nat) (r : SourceRec) : (s.setSource l r).sys = s.sys := rfl
@[simp] theorem State.setSource_host (s : State) (l : Nat) (r : SourceRec) : (s.setSource l r).host = s.host := rfl
@[simp] theorem State.setSource_fab (s : State) (l : Nat) (r : SourceRec) : (s.setSource l r).fab = s.fab := rfl
@[simp] theorem State.setSource_dram (s : State) (l : Nat) (r : SourceRec) : (s.setSource l r).dram = s.dram := rfl
@[simp] theorem State.setSource_chans (s : State) (l : Nat) (r : SourceRec) : (s.setSource l r).chans = s.chans := rfl
@[simp] theorem State.setSource_pair (s : State) (l : Nat) (r : SourceRec) : (s.setSource l r).pair = s.pair := rfl
@[simp] theorem State.setSource_mir (s : State) (l : Nat) (r : SourceRec) : (s.setSource l r).mir = s.mir := rfl
@[simp] theorem State.setSource_commits (s : State) (l : Nat) (r : SourceRec) : (s.setSource l r).commits = s.commits := rfl
@[simp] theorem State.setSource_time (s : State) (l : Nat) (r : SourceRec) : (s.setSource l r).time = s.time := rfl
@[simp] theorem State.setSource_surf (s : State) (l : Nat) (r : SourceRec) : (s.setSource l r).surf = s.surf := rfl
@[simp] theorem State.setSource_dec (s : State) (l : Nat) (r : SourceRec) : (s.setSource l r).dec = s.dec := rfl
@[simp] theorem State.setSource_caps (s : State) (l : Nat) (r : SourceRec) : (s.setSource l r).caps = s.caps := rfl
@[simp] theorem State.setSource_encs (s : State) (l : Nat) (r : SourceRec) : (s.setSource l r).encs = s.encs := rfl
@[simp] theorem State.setSource_cmp (s : State) (l : Nat) (r : SourceRec) : (s.setSource l r).cmp = s.cmp := rfl
@[simp] theorem State.setSource_scan (s : State) (l : Nat) (r : SourceRec) : (s.setSource l r).scan = s.scan := rfl
@[simp] theorem State.setSource_touch (s : State) (l : Nat) (r : SourceRec) : (s.setSource l r).touch = s.touch := rfl
@[simp] theorem State.setSource_lanes (s : State) (l : Nat) (r : SourceRec) : (s.setSource l r).lanes = s.lanes := rfl
@[simp] theorem State.setSource_reg (s : State) (l : Nat) (r : SourceRec) (x : Nat) : (s.setSource l r).reg x = s.reg x := rfl
@[simp] theorem State.source_setSource (s : State) (l : Nat) (r : SourceRec) : (s.setSource l r).source l = r := by simp [State.source, State.setSource]
theorem State.source_setSource_ne (s : State) (l : Nat) (r : SourceRec) (k : Nat) (h : k ≠ l) : (s.setSource l r).source k = s.source k := by simp [State.source, State.setSource, h]

/-! setTile: the field fum alone -/

@[simp] theorem State.setTile_pending (s : State) (l : Nat) (r : TileRec) : (s.setTile l r).pending = s.pending := rfl
@[simp] theorem State.setTile_held (s : State) (l : Nat) (r : TileRec) : (s.setTile l r).held = s.held := rfl
@[simp] theorem State.setTile_out (s : State) (l : Nat) (r : TileRec) : (s.setTile l r).out = s.out := rfl
@[simp] theorem State.setTile_clk (s : State) (l : Nat) (r : TileRec) : (s.setTile l r).clk = s.clk := rfl
@[simp] theorem State.setTile_ft (s : State) (l : Nat) (r : TileRec) : (s.setTile l r).ft = s.ft := rfl
@[simp] theorem State.setTile_free (s : State) (l : Nat) (r : TileRec) : (s.setTile l r).free = s.free := rfl
@[simp] theorem State.setTile_evSeq (s : State) (l : Nat) (r : TileRec) : (s.setTile l r).evSeq = s.evSeq := rfl
@[simp] theorem State.setTile_rate (s : State) (l : Nat) (r : TileRec) : (s.setTile l r).rate = s.rate := rfl
@[simp] theorem State.setTile_regs (s : State) (l : Nat) (r : TileRec) : (s.setTile l r).regs = s.regs := rfl
@[simp] theorem State.setTile_mem (s : State) (l : Nat) (r : TileRec) : (s.setTile l r).mem = s.mem := rfl
@[simp] theorem State.setTile_otp (s : State) (l : Nat) (r : TileRec) : (s.setTile l r).otp = s.otp := rfl
@[simp] theorem State.setTile_aon (s : State) (l : Nat) (r : TileRec) : (s.setTile l r).aon = s.aon := rfl
@[simp] theorem State.setTile_straps (s : State) (l : Nat) (r : TileRec) : (s.setTile l r).straps = s.straps := rfl
@[simp] theorem State.setTile_sys (s : State) (l : Nat) (r : TileRec) : (s.setTile l r).sys = s.sys := rfl
@[simp] theorem State.setTile_host (s : State) (l : Nat) (r : TileRec) : (s.setTile l r).host = s.host := rfl
@[simp] theorem State.setTile_fab (s : State) (l : Nat) (r : TileRec) : (s.setTile l r).fab = s.fab := rfl
@[simp] theorem State.setTile_dram (s : State) (l : Nat) (r : TileRec) : (s.setTile l r).dram = s.dram := rfl
@[simp] theorem State.setTile_chans (s : State) (l : Nat) (r : TileRec) : (s.setTile l r).chans = s.chans := rfl
@[simp] theorem State.setTile_pair (s : State) (l : Nat) (r : TileRec) : (s.setTile l r).pair = s.pair := rfl
@[simp] theorem State.setTile_mir (s : State) (l : Nat) (r : TileRec) : (s.setTile l r).mir = s.mir := rfl
@[simp] theorem State.setTile_commits (s : State) (l : Nat) (r : TileRec) : (s.setTile l r).commits = s.commits := rfl
@[simp] theorem State.setTile_time (s : State) (l : Nat) (r : TileRec) : (s.setTile l r).time = s.time := rfl
@[simp] theorem State.setTile_surf (s : State) (l : Nat) (r : TileRec) : (s.setTile l r).surf = s.surf := rfl
@[simp] theorem State.setTile_dec (s : State) (l : Nat) (r : TileRec) : (s.setTile l r).dec = s.dec := rfl
@[simp] theorem State.setTile_caps (s : State) (l : Nat) (r : TileRec) : (s.setTile l r).caps = s.caps := rfl
@[simp] theorem State.setTile_encs (s : State) (l : Nat) (r : TileRec) : (s.setTile l r).encs = s.encs := rfl
@[simp] theorem State.setTile_cmp (s : State) (l : Nat) (r : TileRec) : (s.setTile l r).cmp = s.cmp := rfl
@[simp] theorem State.setTile_scan (s : State) (l : Nat) (r : TileRec) : (s.setTile l r).scan = s.scan := rfl
@[simp] theorem State.setTile_touch (s : State) (l : Nat) (r : TileRec) : (s.setTile l r).touch = s.touch := rfl
@[simp] theorem State.setTile_lanes (s : State) (l : Nat) (r : TileRec) : (s.setTile l r).lanes = s.lanes := rfl
@[simp] theorem State.setTile_reg (s : State) (l : Nat) (r : TileRec) (x : Nat) : (s.setTile l r).reg x = s.reg x := rfl
@[simp] theorem State.tile_setTile (s : State) (l : Nat) (r : TileRec) : (s.setTile l r).tile l = r := by simp [State.tile, State.setTile]
theorem State.tile_setTile_ne (s : State) (l : Nat) (r : TileRec) (k : Nat) (h : k ≠ l) : (s.setTile l r).tile k = s.tile k := by simp [State.tile, State.setTile, h]

/-! setTg: the field scan alone -/

@[simp] theorem State.setTg_pending (s : State) (l : Nat) (r : TgRec) : (s.setTg l r).pending = s.pending := rfl
@[simp] theorem State.setTg_held (s : State) (l : Nat) (r : TgRec) : (s.setTg l r).held = s.held := rfl
@[simp] theorem State.setTg_out (s : State) (l : Nat) (r : TgRec) : (s.setTg l r).out = s.out := rfl
@[simp] theorem State.setTg_clk (s : State) (l : Nat) (r : TgRec) : (s.setTg l r).clk = s.clk := rfl
@[simp] theorem State.setTg_ft (s : State) (l : Nat) (r : TgRec) : (s.setTg l r).ft = s.ft := rfl
@[simp] theorem State.setTg_free (s : State) (l : Nat) (r : TgRec) : (s.setTg l r).free = s.free := rfl
@[simp] theorem State.setTg_evSeq (s : State) (l : Nat) (r : TgRec) : (s.setTg l r).evSeq = s.evSeq := rfl
@[simp] theorem State.setTg_rate (s : State) (l : Nat) (r : TgRec) : (s.setTg l r).rate = s.rate := rfl
@[simp] theorem State.setTg_regs (s : State) (l : Nat) (r : TgRec) : (s.setTg l r).regs = s.regs := rfl
@[simp] theorem State.setTg_mem (s : State) (l : Nat) (r : TgRec) : (s.setTg l r).mem = s.mem := rfl
@[simp] theorem State.setTg_otp (s : State) (l : Nat) (r : TgRec) : (s.setTg l r).otp = s.otp := rfl
@[simp] theorem State.setTg_aon (s : State) (l : Nat) (r : TgRec) : (s.setTg l r).aon = s.aon := rfl
@[simp] theorem State.setTg_straps (s : State) (l : Nat) (r : TgRec) : (s.setTg l r).straps = s.straps := rfl
@[simp] theorem State.setTg_sys (s : State) (l : Nat) (r : TgRec) : (s.setTg l r).sys = s.sys := rfl
@[simp] theorem State.setTg_host (s : State) (l : Nat) (r : TgRec) : (s.setTg l r).host = s.host := rfl
@[simp] theorem State.setTg_fab (s : State) (l : Nat) (r : TgRec) : (s.setTg l r).fab = s.fab := rfl
@[simp] theorem State.setTg_dram (s : State) (l : Nat) (r : TgRec) : (s.setTg l r).dram = s.dram := rfl
@[simp] theorem State.setTg_chans (s : State) (l : Nat) (r : TgRec) : (s.setTg l r).chans = s.chans := rfl
@[simp] theorem State.setTg_pair (s : State) (l : Nat) (r : TgRec) : (s.setTg l r).pair = s.pair := rfl
@[simp] theorem State.setTg_mir (s : State) (l : Nat) (r : TgRec) : (s.setTg l r).mir = s.mir := rfl
@[simp] theorem State.setTg_commits (s : State) (l : Nat) (r : TgRec) : (s.setTg l r).commits = s.commits := rfl
@[simp] theorem State.setTg_time (s : State) (l : Nat) (r : TgRec) : (s.setTg l r).time = s.time := rfl
@[simp] theorem State.setTg_surf (s : State) (l : Nat) (r : TgRec) : (s.setTg l r).surf = s.surf := rfl
@[simp] theorem State.setTg_fum (s : State) (l : Nat) (r : TgRec) : (s.setTg l r).fum = s.fum := rfl
@[simp] theorem State.setTg_dec (s : State) (l : Nat) (r : TgRec) : (s.setTg l r).dec = s.dec := rfl
@[simp] theorem State.setTg_caps (s : State) (l : Nat) (r : TgRec) : (s.setTg l r).caps = s.caps := rfl
@[simp] theorem State.setTg_encs (s : State) (l : Nat) (r : TgRec) : (s.setTg l r).encs = s.encs := rfl
@[simp] theorem State.setTg_cmp (s : State) (l : Nat) (r : TgRec) : (s.setTg l r).cmp = s.cmp := rfl
@[simp] theorem State.setTg_touch (s : State) (l : Nat) (r : TgRec) : (s.setTg l r).touch = s.touch := rfl
@[simp] theorem State.setTg_lanes (s : State) (l : Nat) (r : TgRec) : (s.setTg l r).lanes = s.lanes := rfl
@[simp] theorem State.setTg_reg (s : State) (l : Nat) (r : TgRec) (x : Nat) : (s.setTg l r).reg x = s.reg x := rfl
@[simp] theorem State.tg_setTg (s : State) (l : Nat) (r : TgRec) : (s.setTg l r).tg l = r := by simp [State.tg, State.setTg]
theorem State.tg_setTg_ne (s : State) (l : Nat) (r : TgRec) (k : Nat) (h : k ≠ l) : (s.setTg l r).tg k = s.tg k := by simp [State.tg, State.setTg, h]

/-! setChk: the field scan alone -/

@[simp] theorem State.setChk_pending (s : State) (l : Nat) (r : ChkRec) : (s.setChk l r).pending = s.pending := rfl
@[simp] theorem State.setChk_held (s : State) (l : Nat) (r : ChkRec) : (s.setChk l r).held = s.held := rfl
@[simp] theorem State.setChk_out (s : State) (l : Nat) (r : ChkRec) : (s.setChk l r).out = s.out := rfl
@[simp] theorem State.setChk_clk (s : State) (l : Nat) (r : ChkRec) : (s.setChk l r).clk = s.clk := rfl
@[simp] theorem State.setChk_ft (s : State) (l : Nat) (r : ChkRec) : (s.setChk l r).ft = s.ft := rfl
@[simp] theorem State.setChk_free (s : State) (l : Nat) (r : ChkRec) : (s.setChk l r).free = s.free := rfl
@[simp] theorem State.setChk_evSeq (s : State) (l : Nat) (r : ChkRec) : (s.setChk l r).evSeq = s.evSeq := rfl
@[simp] theorem State.setChk_rate (s : State) (l : Nat) (r : ChkRec) : (s.setChk l r).rate = s.rate := rfl
@[simp] theorem State.setChk_regs (s : State) (l : Nat) (r : ChkRec) : (s.setChk l r).regs = s.regs := rfl
@[simp] theorem State.setChk_mem (s : State) (l : Nat) (r : ChkRec) : (s.setChk l r).mem = s.mem := rfl
@[simp] theorem State.setChk_otp (s : State) (l : Nat) (r : ChkRec) : (s.setChk l r).otp = s.otp := rfl
@[simp] theorem State.setChk_aon (s : State) (l : Nat) (r : ChkRec) : (s.setChk l r).aon = s.aon := rfl
@[simp] theorem State.setChk_straps (s : State) (l : Nat) (r : ChkRec) : (s.setChk l r).straps = s.straps := rfl
@[simp] theorem State.setChk_sys (s : State) (l : Nat) (r : ChkRec) : (s.setChk l r).sys = s.sys := rfl
@[simp] theorem State.setChk_host (s : State) (l : Nat) (r : ChkRec) : (s.setChk l r).host = s.host := rfl
@[simp] theorem State.setChk_fab (s : State) (l : Nat) (r : ChkRec) : (s.setChk l r).fab = s.fab := rfl
@[simp] theorem State.setChk_dram (s : State) (l : Nat) (r : ChkRec) : (s.setChk l r).dram = s.dram := rfl
@[simp] theorem State.setChk_chans (s : State) (l : Nat) (r : ChkRec) : (s.setChk l r).chans = s.chans := rfl
@[simp] theorem State.setChk_pair (s : State) (l : Nat) (r : ChkRec) : (s.setChk l r).pair = s.pair := rfl
@[simp] theorem State.setChk_mir (s : State) (l : Nat) (r : ChkRec) : (s.setChk l r).mir = s.mir := rfl
@[simp] theorem State.setChk_commits (s : State) (l : Nat) (r : ChkRec) : (s.setChk l r).commits = s.commits := rfl
@[simp] theorem State.setChk_time (s : State) (l : Nat) (r : ChkRec) : (s.setChk l r).time = s.time := rfl
@[simp] theorem State.setChk_surf (s : State) (l : Nat) (r : ChkRec) : (s.setChk l r).surf = s.surf := rfl
@[simp] theorem State.setChk_fum (s : State) (l : Nat) (r : ChkRec) : (s.setChk l r).fum = s.fum := rfl
@[simp] theorem State.setChk_dec (s : State) (l : Nat) (r : ChkRec) : (s.setChk l r).dec = s.dec := rfl
@[simp] theorem State.setChk_caps (s : State) (l : Nat) (r : ChkRec) : (s.setChk l r).caps = s.caps := rfl
@[simp] theorem State.setChk_encs (s : State) (l : Nat) (r : ChkRec) : (s.setChk l r).encs = s.encs := rfl
@[simp] theorem State.setChk_cmp (s : State) (l : Nat) (r : ChkRec) : (s.setChk l r).cmp = s.cmp := rfl
@[simp] theorem State.setChk_touch (s : State) (l : Nat) (r : ChkRec) : (s.setChk l r).touch = s.touch := rfl
@[simp] theorem State.setChk_lanes (s : State) (l : Nat) (r : ChkRec) : (s.setChk l r).lanes = s.lanes := rfl
@[simp] theorem State.setChk_reg (s : State) (l : Nat) (r : ChkRec) (x : Nat) : (s.setChk l r).reg x = s.reg x := rfl
@[simp] theorem State.chk_setChk (s : State) (l : Nat) (r : ChkRec) : (s.setChk l r).chk l = r := by simp [State.chk, State.setChk]
theorem State.chk_setChk_ne (s : State) (l : Nat) (r : ChkRec) (k : Nat) (h : k ≠ l) : (s.setChk l r).chk k = s.chk k := by simp [State.chk, State.setChk, h]

/-! setDp: the field scan alone -/

@[simp] theorem State.setDp_pending (s : State) (l : Nat) (r : DpRec) : (s.setDp l r).pending = s.pending := rfl
@[simp] theorem State.setDp_held (s : State) (l : Nat) (r : DpRec) : (s.setDp l r).held = s.held := rfl
@[simp] theorem State.setDp_out (s : State) (l : Nat) (r : DpRec) : (s.setDp l r).out = s.out := rfl
@[simp] theorem State.setDp_clk (s : State) (l : Nat) (r : DpRec) : (s.setDp l r).clk = s.clk := rfl
@[simp] theorem State.setDp_ft (s : State) (l : Nat) (r : DpRec) : (s.setDp l r).ft = s.ft := rfl
@[simp] theorem State.setDp_free (s : State) (l : Nat) (r : DpRec) : (s.setDp l r).free = s.free := rfl
@[simp] theorem State.setDp_evSeq (s : State) (l : Nat) (r : DpRec) : (s.setDp l r).evSeq = s.evSeq := rfl
@[simp] theorem State.setDp_rate (s : State) (l : Nat) (r : DpRec) : (s.setDp l r).rate = s.rate := rfl
@[simp] theorem State.setDp_regs (s : State) (l : Nat) (r : DpRec) : (s.setDp l r).regs = s.regs := rfl
@[simp] theorem State.setDp_mem (s : State) (l : Nat) (r : DpRec) : (s.setDp l r).mem = s.mem := rfl
@[simp] theorem State.setDp_otp (s : State) (l : Nat) (r : DpRec) : (s.setDp l r).otp = s.otp := rfl
@[simp] theorem State.setDp_aon (s : State) (l : Nat) (r : DpRec) : (s.setDp l r).aon = s.aon := rfl
@[simp] theorem State.setDp_straps (s : State) (l : Nat) (r : DpRec) : (s.setDp l r).straps = s.straps := rfl
@[simp] theorem State.setDp_sys (s : State) (l : Nat) (r : DpRec) : (s.setDp l r).sys = s.sys := rfl
@[simp] theorem State.setDp_host (s : State) (l : Nat) (r : DpRec) : (s.setDp l r).host = s.host := rfl
@[simp] theorem State.setDp_fab (s : State) (l : Nat) (r : DpRec) : (s.setDp l r).fab = s.fab := rfl
@[simp] theorem State.setDp_dram (s : State) (l : Nat) (r : DpRec) : (s.setDp l r).dram = s.dram := rfl
@[simp] theorem State.setDp_chans (s : State) (l : Nat) (r : DpRec) : (s.setDp l r).chans = s.chans := rfl
@[simp] theorem State.setDp_pair (s : State) (l : Nat) (r : DpRec) : (s.setDp l r).pair = s.pair := rfl
@[simp] theorem State.setDp_mir (s : State) (l : Nat) (r : DpRec) : (s.setDp l r).mir = s.mir := rfl
@[simp] theorem State.setDp_commits (s : State) (l : Nat) (r : DpRec) : (s.setDp l r).commits = s.commits := rfl
@[simp] theorem State.setDp_time (s : State) (l : Nat) (r : DpRec) : (s.setDp l r).time = s.time := rfl
@[simp] theorem State.setDp_surf (s : State) (l : Nat) (r : DpRec) : (s.setDp l r).surf = s.surf := rfl
@[simp] theorem State.setDp_fum (s : State) (l : Nat) (r : DpRec) : (s.setDp l r).fum = s.fum := rfl
@[simp] theorem State.setDp_dec (s : State) (l : Nat) (r : DpRec) : (s.setDp l r).dec = s.dec := rfl
@[simp] theorem State.setDp_caps (s : State) (l : Nat) (r : DpRec) : (s.setDp l r).caps = s.caps := rfl
@[simp] theorem State.setDp_encs (s : State) (l : Nat) (r : DpRec) : (s.setDp l r).encs = s.encs := rfl
@[simp] theorem State.setDp_cmp (s : State) (l : Nat) (r : DpRec) : (s.setDp l r).cmp = s.cmp := rfl
@[simp] theorem State.setDp_touch (s : State) (l : Nat) (r : DpRec) : (s.setDp l r).touch = s.touch := rfl
@[simp] theorem State.setDp_lanes (s : State) (l : Nat) (r : DpRec) : (s.setDp l r).lanes = s.lanes := rfl
@[simp] theorem State.setDp_reg (s : State) (l : Nat) (r : DpRec) (x : Nat) : (s.setDp l r).reg x = s.reg x := rfl
@[simp] theorem State.dp_setDp (s : State) (l : Nat) (r : DpRec) : (s.setDp l r).dp l = r := by simp [State.dp, State.setDp]
theorem State.dp_setDp_ne (s : State) (l : Nat) (r : DpRec) (k : Nat) (h : k ≠ l) : (s.setDp l r).dp k = s.dp k := by simp [State.dp, State.setDp, h]

/-! setPub: the field surf alone -/

@[simp] theorem State.setPub_pending (s : State) (l : Nat) (r : PubRec) : (s.setPub l r).pending = s.pending := rfl
@[simp] theorem State.setPub_held (s : State) (l : Nat) (r : PubRec) : (s.setPub l r).held = s.held := rfl
@[simp] theorem State.setPub_out (s : State) (l : Nat) (r : PubRec) : (s.setPub l r).out = s.out := rfl
@[simp] theorem State.setPub_clk (s : State) (l : Nat) (r : PubRec) : (s.setPub l r).clk = s.clk := rfl
@[simp] theorem State.setPub_ft (s : State) (l : Nat) (r : PubRec) : (s.setPub l r).ft = s.ft := rfl
@[simp] theorem State.setPub_free (s : State) (l : Nat) (r : PubRec) : (s.setPub l r).free = s.free := rfl
@[simp] theorem State.setPub_evSeq (s : State) (l : Nat) (r : PubRec) : (s.setPub l r).evSeq = s.evSeq := rfl
@[simp] theorem State.setPub_rate (s : State) (l : Nat) (r : PubRec) : (s.setPub l r).rate = s.rate := rfl
@[simp] theorem State.setPub_regs (s : State) (l : Nat) (r : PubRec) : (s.setPub l r).regs = s.regs := rfl
@[simp] theorem State.setPub_mem (s : State) (l : Nat) (r : PubRec) : (s.setPub l r).mem = s.mem := rfl
@[simp] theorem State.setPub_otp (s : State) (l : Nat) (r : PubRec) : (s.setPub l r).otp = s.otp := rfl
@[simp] theorem State.setPub_aon (s : State) (l : Nat) (r : PubRec) : (s.setPub l r).aon = s.aon := rfl
@[simp] theorem State.setPub_straps (s : State) (l : Nat) (r : PubRec) : (s.setPub l r).straps = s.straps := rfl
@[simp] theorem State.setPub_sys (s : State) (l : Nat) (r : PubRec) : (s.setPub l r).sys = s.sys := rfl
@[simp] theorem State.setPub_host (s : State) (l : Nat) (r : PubRec) : (s.setPub l r).host = s.host := rfl
@[simp] theorem State.setPub_fab (s : State) (l : Nat) (r : PubRec) : (s.setPub l r).fab = s.fab := rfl
@[simp] theorem State.setPub_dram (s : State) (l : Nat) (r : PubRec) : (s.setPub l r).dram = s.dram := rfl
@[simp] theorem State.setPub_chans (s : State) (l : Nat) (r : PubRec) : (s.setPub l r).chans = s.chans := rfl
@[simp] theorem State.setPub_pair (s : State) (l : Nat) (r : PubRec) : (s.setPub l r).pair = s.pair := rfl
@[simp] theorem State.setPub_mir (s : State) (l : Nat) (r : PubRec) : (s.setPub l r).mir = s.mir := rfl
@[simp] theorem State.setPub_commits (s : State) (l : Nat) (r : PubRec) : (s.setPub l r).commits = s.commits := rfl
@[simp] theorem State.setPub_time (s : State) (l : Nat) (r : PubRec) : (s.setPub l r).time = s.time := rfl
@[simp] theorem State.setPub_fum (s : State) (l : Nat) (r : PubRec) : (s.setPub l r).fum = s.fum := rfl
@[simp] theorem State.setPub_dec (s : State) (l : Nat) (r : PubRec) : (s.setPub l r).dec = s.dec := rfl
@[simp] theorem State.setPub_caps (s : State) (l : Nat) (r : PubRec) : (s.setPub l r).caps = s.caps := rfl
@[simp] theorem State.setPub_encs (s : State) (l : Nat) (r : PubRec) : (s.setPub l r).encs = s.encs := rfl
@[simp] theorem State.setPub_cmp (s : State) (l : Nat) (r : PubRec) : (s.setPub l r).cmp = s.cmp := rfl
@[simp] theorem State.setPub_scan (s : State) (l : Nat) (r : PubRec) : (s.setPub l r).scan = s.scan := rfl
@[simp] theorem State.setPub_touch (s : State) (l : Nat) (r : PubRec) : (s.setPub l r).touch = s.touch := rfl
@[simp] theorem State.setPub_lanes (s : State) (l : Nat) (r : PubRec) : (s.setPub l r).lanes = s.lanes := rfl
@[simp] theorem State.setPub_reg (s : State) (l : Nat) (r : PubRec) (x : Nat) : (s.setPub l r).reg x = s.reg x := rfl
@[simp] theorem State.pub_setPub (s : State) (l : Nat) (r : PubRec) : (s.setPub l r).pub l = r := by simp [State.pub, State.setPub]
theorem State.pub_setPub_ne (s : State) (l : Nat) (r : PubRec) (k : Nat) (h : k ≠ l) : (s.setPub l r).pub k = s.pub k := by simp [State.pub, State.setPub, h]

/-! setCtx: the field dec alone -/

@[simp] theorem State.setCtx_pending (s : State) (l : Nat) (r : CtxRec) : (s.setCtx l r).pending = s.pending := rfl
@[simp] theorem State.setCtx_held (s : State) (l : Nat) (r : CtxRec) : (s.setCtx l r).held = s.held := rfl
@[simp] theorem State.setCtx_out (s : State) (l : Nat) (r : CtxRec) : (s.setCtx l r).out = s.out := rfl
@[simp] theorem State.setCtx_clk (s : State) (l : Nat) (r : CtxRec) : (s.setCtx l r).clk = s.clk := rfl
@[simp] theorem State.setCtx_ft (s : State) (l : Nat) (r : CtxRec) : (s.setCtx l r).ft = s.ft := rfl
@[simp] theorem State.setCtx_free (s : State) (l : Nat) (r : CtxRec) : (s.setCtx l r).free = s.free := rfl
@[simp] theorem State.setCtx_evSeq (s : State) (l : Nat) (r : CtxRec) : (s.setCtx l r).evSeq = s.evSeq := rfl
@[simp] theorem State.setCtx_rate (s : State) (l : Nat) (r : CtxRec) : (s.setCtx l r).rate = s.rate := rfl
@[simp] theorem State.setCtx_regs (s : State) (l : Nat) (r : CtxRec) : (s.setCtx l r).regs = s.regs := rfl
@[simp] theorem State.setCtx_mem (s : State) (l : Nat) (r : CtxRec) : (s.setCtx l r).mem = s.mem := rfl
@[simp] theorem State.setCtx_otp (s : State) (l : Nat) (r : CtxRec) : (s.setCtx l r).otp = s.otp := rfl
@[simp] theorem State.setCtx_aon (s : State) (l : Nat) (r : CtxRec) : (s.setCtx l r).aon = s.aon := rfl
@[simp] theorem State.setCtx_straps (s : State) (l : Nat) (r : CtxRec) : (s.setCtx l r).straps = s.straps := rfl
@[simp] theorem State.setCtx_sys (s : State) (l : Nat) (r : CtxRec) : (s.setCtx l r).sys = s.sys := rfl
@[simp] theorem State.setCtx_host (s : State) (l : Nat) (r : CtxRec) : (s.setCtx l r).host = s.host := rfl
@[simp] theorem State.setCtx_fab (s : State) (l : Nat) (r : CtxRec) : (s.setCtx l r).fab = s.fab := rfl
@[simp] theorem State.setCtx_dram (s : State) (l : Nat) (r : CtxRec) : (s.setCtx l r).dram = s.dram := rfl
@[simp] theorem State.setCtx_chans (s : State) (l : Nat) (r : CtxRec) : (s.setCtx l r).chans = s.chans := rfl
@[simp] theorem State.setCtx_pair (s : State) (l : Nat) (r : CtxRec) : (s.setCtx l r).pair = s.pair := rfl
@[simp] theorem State.setCtx_mir (s : State) (l : Nat) (r : CtxRec) : (s.setCtx l r).mir = s.mir := rfl
@[simp] theorem State.setCtx_commits (s : State) (l : Nat) (r : CtxRec) : (s.setCtx l r).commits = s.commits := rfl
@[simp] theorem State.setCtx_time (s : State) (l : Nat) (r : CtxRec) : (s.setCtx l r).time = s.time := rfl
@[simp] theorem State.setCtx_surf (s : State) (l : Nat) (r : CtxRec) : (s.setCtx l r).surf = s.surf := rfl
@[simp] theorem State.setCtx_fum (s : State) (l : Nat) (r : CtxRec) : (s.setCtx l r).fum = s.fum := rfl
@[simp] theorem State.setCtx_caps (s : State) (l : Nat) (r : CtxRec) : (s.setCtx l r).caps = s.caps := rfl
@[simp] theorem State.setCtx_encs (s : State) (l : Nat) (r : CtxRec) : (s.setCtx l r).encs = s.encs := rfl
@[simp] theorem State.setCtx_cmp (s : State) (l : Nat) (r : CtxRec) : (s.setCtx l r).cmp = s.cmp := rfl
@[simp] theorem State.setCtx_scan (s : State) (l : Nat) (r : CtxRec) : (s.setCtx l r).scan = s.scan := rfl
@[simp] theorem State.setCtx_touch (s : State) (l : Nat) (r : CtxRec) : (s.setCtx l r).touch = s.touch := rfl
@[simp] theorem State.setCtx_lanes (s : State) (l : Nat) (r : CtxRec) : (s.setCtx l r).lanes = s.lanes := rfl
@[simp] theorem State.setCtx_reg (s : State) (l : Nat) (r : CtxRec) (x : Nat) : (s.setCtx l r).reg x = s.reg x := rfl
@[simp] theorem State.ctx_setCtx (s : State) (l : Nat) (r : CtxRec) : (s.setCtx l r).ctx l = r := by simp [State.ctx, State.setCtx]
theorem State.ctx_setCtx_ne (s : State) (l : Nat) (r : CtxRec) (k : Nat) (h : k ≠ l) : (s.setCtx l r).ctx k = s.ctx k := by simp [State.ctx, State.setCtx, h]

/-! setEng: the field dec alone -/

@[simp] theorem State.setEng_pending (s : State) (l : Nat) (r : EngRec) : (s.setEng l r).pending = s.pending := rfl
@[simp] theorem State.setEng_held (s : State) (l : Nat) (r : EngRec) : (s.setEng l r).held = s.held := rfl
@[simp] theorem State.setEng_out (s : State) (l : Nat) (r : EngRec) : (s.setEng l r).out = s.out := rfl
@[simp] theorem State.setEng_clk (s : State) (l : Nat) (r : EngRec) : (s.setEng l r).clk = s.clk := rfl
@[simp] theorem State.setEng_ft (s : State) (l : Nat) (r : EngRec) : (s.setEng l r).ft = s.ft := rfl
@[simp] theorem State.setEng_free (s : State) (l : Nat) (r : EngRec) : (s.setEng l r).free = s.free := rfl
@[simp] theorem State.setEng_evSeq (s : State) (l : Nat) (r : EngRec) : (s.setEng l r).evSeq = s.evSeq := rfl
@[simp] theorem State.setEng_rate (s : State) (l : Nat) (r : EngRec) : (s.setEng l r).rate = s.rate := rfl
@[simp] theorem State.setEng_regs (s : State) (l : Nat) (r : EngRec) : (s.setEng l r).regs = s.regs := rfl
@[simp] theorem State.setEng_mem (s : State) (l : Nat) (r : EngRec) : (s.setEng l r).mem = s.mem := rfl
@[simp] theorem State.setEng_otp (s : State) (l : Nat) (r : EngRec) : (s.setEng l r).otp = s.otp := rfl
@[simp] theorem State.setEng_aon (s : State) (l : Nat) (r : EngRec) : (s.setEng l r).aon = s.aon := rfl
@[simp] theorem State.setEng_straps (s : State) (l : Nat) (r : EngRec) : (s.setEng l r).straps = s.straps := rfl
@[simp] theorem State.setEng_sys (s : State) (l : Nat) (r : EngRec) : (s.setEng l r).sys = s.sys := rfl
@[simp] theorem State.setEng_host (s : State) (l : Nat) (r : EngRec) : (s.setEng l r).host = s.host := rfl
@[simp] theorem State.setEng_fab (s : State) (l : Nat) (r : EngRec) : (s.setEng l r).fab = s.fab := rfl
@[simp] theorem State.setEng_dram (s : State) (l : Nat) (r : EngRec) : (s.setEng l r).dram = s.dram := rfl
@[simp] theorem State.setEng_chans (s : State) (l : Nat) (r : EngRec) : (s.setEng l r).chans = s.chans := rfl
@[simp] theorem State.setEng_pair (s : State) (l : Nat) (r : EngRec) : (s.setEng l r).pair = s.pair := rfl
@[simp] theorem State.setEng_mir (s : State) (l : Nat) (r : EngRec) : (s.setEng l r).mir = s.mir := rfl
@[simp] theorem State.setEng_commits (s : State) (l : Nat) (r : EngRec) : (s.setEng l r).commits = s.commits := rfl
@[simp] theorem State.setEng_time (s : State) (l : Nat) (r : EngRec) : (s.setEng l r).time = s.time := rfl
@[simp] theorem State.setEng_surf (s : State) (l : Nat) (r : EngRec) : (s.setEng l r).surf = s.surf := rfl
@[simp] theorem State.setEng_fum (s : State) (l : Nat) (r : EngRec) : (s.setEng l r).fum = s.fum := rfl
@[simp] theorem State.setEng_caps (s : State) (l : Nat) (r : EngRec) : (s.setEng l r).caps = s.caps := rfl
@[simp] theorem State.setEng_encs (s : State) (l : Nat) (r : EngRec) : (s.setEng l r).encs = s.encs := rfl
@[simp] theorem State.setEng_cmp (s : State) (l : Nat) (r : EngRec) : (s.setEng l r).cmp = s.cmp := rfl
@[simp] theorem State.setEng_scan (s : State) (l : Nat) (r : EngRec) : (s.setEng l r).scan = s.scan := rfl
@[simp] theorem State.setEng_touch (s : State) (l : Nat) (r : EngRec) : (s.setEng l r).touch = s.touch := rfl
@[simp] theorem State.setEng_lanes (s : State) (l : Nat) (r : EngRec) : (s.setEng l r).lanes = s.lanes := rfl
@[simp] theorem State.setEng_reg (s : State) (l : Nat) (r : EngRec) (x : Nat) : (s.setEng l r).reg x = s.reg x := rfl
@[simp] theorem State.eng_setEng (s : State) (l : Nat) (r : EngRec) : (s.setEng l r).eng l = r := by simp [State.eng, State.setEng]
theorem State.eng_setEng_ne (s : State) (l : Nat) (r : EngRec) (k : Nat) (h : k ≠ l) : (s.setEng l r).eng k = s.eng k := by simp [State.eng, State.setEng, h]

/-! setCap: the field caps alone -/

@[simp] theorem State.setCap_pending (s : State) (l : Nat) (r : CapRec) : (s.setCap l r).pending = s.pending := rfl
@[simp] theorem State.setCap_held (s : State) (l : Nat) (r : CapRec) : (s.setCap l r).held = s.held := rfl
@[simp] theorem State.setCap_out (s : State) (l : Nat) (r : CapRec) : (s.setCap l r).out = s.out := rfl
@[simp] theorem State.setCap_clk (s : State) (l : Nat) (r : CapRec) : (s.setCap l r).clk = s.clk := rfl
@[simp] theorem State.setCap_ft (s : State) (l : Nat) (r : CapRec) : (s.setCap l r).ft = s.ft := rfl
@[simp] theorem State.setCap_free (s : State) (l : Nat) (r : CapRec) : (s.setCap l r).free = s.free := rfl
@[simp] theorem State.setCap_evSeq (s : State) (l : Nat) (r : CapRec) : (s.setCap l r).evSeq = s.evSeq := rfl
@[simp] theorem State.setCap_rate (s : State) (l : Nat) (r : CapRec) : (s.setCap l r).rate = s.rate := rfl
@[simp] theorem State.setCap_regs (s : State) (l : Nat) (r : CapRec) : (s.setCap l r).regs = s.regs := rfl
@[simp] theorem State.setCap_mem (s : State) (l : Nat) (r : CapRec) : (s.setCap l r).mem = s.mem := rfl
@[simp] theorem State.setCap_otp (s : State) (l : Nat) (r : CapRec) : (s.setCap l r).otp = s.otp := rfl
@[simp] theorem State.setCap_aon (s : State) (l : Nat) (r : CapRec) : (s.setCap l r).aon = s.aon := rfl
@[simp] theorem State.setCap_straps (s : State) (l : Nat) (r : CapRec) : (s.setCap l r).straps = s.straps := rfl
@[simp] theorem State.setCap_sys (s : State) (l : Nat) (r : CapRec) : (s.setCap l r).sys = s.sys := rfl
@[simp] theorem State.setCap_host (s : State) (l : Nat) (r : CapRec) : (s.setCap l r).host = s.host := rfl
@[simp] theorem State.setCap_fab (s : State) (l : Nat) (r : CapRec) : (s.setCap l r).fab = s.fab := rfl
@[simp] theorem State.setCap_dram (s : State) (l : Nat) (r : CapRec) : (s.setCap l r).dram = s.dram := rfl
@[simp] theorem State.setCap_chans (s : State) (l : Nat) (r : CapRec) : (s.setCap l r).chans = s.chans := rfl
@[simp] theorem State.setCap_pair (s : State) (l : Nat) (r : CapRec) : (s.setCap l r).pair = s.pair := rfl
@[simp] theorem State.setCap_mir (s : State) (l : Nat) (r : CapRec) : (s.setCap l r).mir = s.mir := rfl
@[simp] theorem State.setCap_commits (s : State) (l : Nat) (r : CapRec) : (s.setCap l r).commits = s.commits := rfl
@[simp] theorem State.setCap_time (s : State) (l : Nat) (r : CapRec) : (s.setCap l r).time = s.time := rfl
@[simp] theorem State.setCap_surf (s : State) (l : Nat) (r : CapRec) : (s.setCap l r).surf = s.surf := rfl
@[simp] theorem State.setCap_fum (s : State) (l : Nat) (r : CapRec) : (s.setCap l r).fum = s.fum := rfl
@[simp] theorem State.setCap_dec (s : State) (l : Nat) (r : CapRec) : (s.setCap l r).dec = s.dec := rfl
@[simp] theorem State.setCap_encs (s : State) (l : Nat) (r : CapRec) : (s.setCap l r).encs = s.encs := rfl
@[simp] theorem State.setCap_cmp (s : State) (l : Nat) (r : CapRec) : (s.setCap l r).cmp = s.cmp := rfl
@[simp] theorem State.setCap_scan (s : State) (l : Nat) (r : CapRec) : (s.setCap l r).scan = s.scan := rfl
@[simp] theorem State.setCap_touch (s : State) (l : Nat) (r : CapRec) : (s.setCap l r).touch = s.touch := rfl
@[simp] theorem State.setCap_lanes (s : State) (l : Nat) (r : CapRec) : (s.setCap l r).lanes = s.lanes := rfl
@[simp] theorem State.setCap_reg (s : State) (l : Nat) (r : CapRec) (x : Nat) : (s.setCap l r).reg x = s.reg x := rfl
@[simp] theorem State.cap_setCap (s : State) (l : Nat) (r : CapRec) : (s.setCap l r).cap l = r := by simp [State.cap, State.setCap]
theorem State.cap_setCap_ne (s : State) (l : Nat) (r : CapRec) (k : Nat) (h : k ≠ l) : (s.setCap l r).cap k = s.cap k := by simp [State.cap, State.setCap, h]

/-! setEnc: the field encs alone -/

@[simp] theorem State.setEnc_pending (s : State) (l : Nat) (r : EncRec) : (s.setEnc l r).pending = s.pending := rfl
@[simp] theorem State.setEnc_held (s : State) (l : Nat) (r : EncRec) : (s.setEnc l r).held = s.held := rfl
@[simp] theorem State.setEnc_out (s : State) (l : Nat) (r : EncRec) : (s.setEnc l r).out = s.out := rfl
@[simp] theorem State.setEnc_clk (s : State) (l : Nat) (r : EncRec) : (s.setEnc l r).clk = s.clk := rfl
@[simp] theorem State.setEnc_ft (s : State) (l : Nat) (r : EncRec) : (s.setEnc l r).ft = s.ft := rfl
@[simp] theorem State.setEnc_free (s : State) (l : Nat) (r : EncRec) : (s.setEnc l r).free = s.free := rfl
@[simp] theorem State.setEnc_evSeq (s : State) (l : Nat) (r : EncRec) : (s.setEnc l r).evSeq = s.evSeq := rfl
@[simp] theorem State.setEnc_rate (s : State) (l : Nat) (r : EncRec) : (s.setEnc l r).rate = s.rate := rfl
@[simp] theorem State.setEnc_regs (s : State) (l : Nat) (r : EncRec) : (s.setEnc l r).regs = s.regs := rfl
@[simp] theorem State.setEnc_mem (s : State) (l : Nat) (r : EncRec) : (s.setEnc l r).mem = s.mem := rfl
@[simp] theorem State.setEnc_otp (s : State) (l : Nat) (r : EncRec) : (s.setEnc l r).otp = s.otp := rfl
@[simp] theorem State.setEnc_aon (s : State) (l : Nat) (r : EncRec) : (s.setEnc l r).aon = s.aon := rfl
@[simp] theorem State.setEnc_straps (s : State) (l : Nat) (r : EncRec) : (s.setEnc l r).straps = s.straps := rfl
@[simp] theorem State.setEnc_sys (s : State) (l : Nat) (r : EncRec) : (s.setEnc l r).sys = s.sys := rfl
@[simp] theorem State.setEnc_host (s : State) (l : Nat) (r : EncRec) : (s.setEnc l r).host = s.host := rfl
@[simp] theorem State.setEnc_fab (s : State) (l : Nat) (r : EncRec) : (s.setEnc l r).fab = s.fab := rfl
@[simp] theorem State.setEnc_dram (s : State) (l : Nat) (r : EncRec) : (s.setEnc l r).dram = s.dram := rfl
@[simp] theorem State.setEnc_chans (s : State) (l : Nat) (r : EncRec) : (s.setEnc l r).chans = s.chans := rfl
@[simp] theorem State.setEnc_pair (s : State) (l : Nat) (r : EncRec) : (s.setEnc l r).pair = s.pair := rfl
@[simp] theorem State.setEnc_mir (s : State) (l : Nat) (r : EncRec) : (s.setEnc l r).mir = s.mir := rfl
@[simp] theorem State.setEnc_commits (s : State) (l : Nat) (r : EncRec) : (s.setEnc l r).commits = s.commits := rfl
@[simp] theorem State.setEnc_time (s : State) (l : Nat) (r : EncRec) : (s.setEnc l r).time = s.time := rfl
@[simp] theorem State.setEnc_surf (s : State) (l : Nat) (r : EncRec) : (s.setEnc l r).surf = s.surf := rfl
@[simp] theorem State.setEnc_fum (s : State) (l : Nat) (r : EncRec) : (s.setEnc l r).fum = s.fum := rfl
@[simp] theorem State.setEnc_dec (s : State) (l : Nat) (r : EncRec) : (s.setEnc l r).dec = s.dec := rfl
@[simp] theorem State.setEnc_caps (s : State) (l : Nat) (r : EncRec) : (s.setEnc l r).caps = s.caps := rfl
@[simp] theorem State.setEnc_cmp (s : State) (l : Nat) (r : EncRec) : (s.setEnc l r).cmp = s.cmp := rfl
@[simp] theorem State.setEnc_scan (s : State) (l : Nat) (r : EncRec) : (s.setEnc l r).scan = s.scan := rfl
@[simp] theorem State.setEnc_touch (s : State) (l : Nat) (r : EncRec) : (s.setEnc l r).touch = s.touch := rfl
@[simp] theorem State.setEnc_lanes (s : State) (l : Nat) (r : EncRec) : (s.setEnc l r).lanes = s.lanes := rfl
@[simp] theorem State.setEnc_reg (s : State) (l : Nat) (r : EncRec) (x : Nat) : (s.setEnc l r).reg x = s.reg x := rfl
@[simp] theorem State.enc_setEnc (s : State) (l : Nat) (r : EncRec) : (s.setEnc l r).enc l = r := by simp [State.enc, State.setEnc]
theorem State.enc_setEnc_ne (s : State) (l : Nat) (r : EncRec) (k : Nat) (h : k ≠ l) : (s.setEnc l r).enc k = s.enc k := by simp [State.enc, State.setEnc, h]

/-! setPipe: the field cmp alone -/

@[simp] theorem State.setPipe_pending (s : State) (l : Nat) (r : PipeRec) : (s.setPipe l r).pending = s.pending := rfl
@[simp] theorem State.setPipe_held (s : State) (l : Nat) (r : PipeRec) : (s.setPipe l r).held = s.held := rfl
@[simp] theorem State.setPipe_out (s : State) (l : Nat) (r : PipeRec) : (s.setPipe l r).out = s.out := rfl
@[simp] theorem State.setPipe_clk (s : State) (l : Nat) (r : PipeRec) : (s.setPipe l r).clk = s.clk := rfl
@[simp] theorem State.setPipe_ft (s : State) (l : Nat) (r : PipeRec) : (s.setPipe l r).ft = s.ft := rfl
@[simp] theorem State.setPipe_free (s : State) (l : Nat) (r : PipeRec) : (s.setPipe l r).free = s.free := rfl
@[simp] theorem State.setPipe_evSeq (s : State) (l : Nat) (r : PipeRec) : (s.setPipe l r).evSeq = s.evSeq := rfl
@[simp] theorem State.setPipe_rate (s : State) (l : Nat) (r : PipeRec) : (s.setPipe l r).rate = s.rate := rfl
@[simp] theorem State.setPipe_regs (s : State) (l : Nat) (r : PipeRec) : (s.setPipe l r).regs = s.regs := rfl
@[simp] theorem State.setPipe_mem (s : State) (l : Nat) (r : PipeRec) : (s.setPipe l r).mem = s.mem := rfl
@[simp] theorem State.setPipe_otp (s : State) (l : Nat) (r : PipeRec) : (s.setPipe l r).otp = s.otp := rfl
@[simp] theorem State.setPipe_aon (s : State) (l : Nat) (r : PipeRec) : (s.setPipe l r).aon = s.aon := rfl
@[simp] theorem State.setPipe_straps (s : State) (l : Nat) (r : PipeRec) : (s.setPipe l r).straps = s.straps := rfl
@[simp] theorem State.setPipe_sys (s : State) (l : Nat) (r : PipeRec) : (s.setPipe l r).sys = s.sys := rfl
@[simp] theorem State.setPipe_host (s : State) (l : Nat) (r : PipeRec) : (s.setPipe l r).host = s.host := rfl
@[simp] theorem State.setPipe_fab (s : State) (l : Nat) (r : PipeRec) : (s.setPipe l r).fab = s.fab := rfl
@[simp] theorem State.setPipe_dram (s : State) (l : Nat) (r : PipeRec) : (s.setPipe l r).dram = s.dram := rfl
@[simp] theorem State.setPipe_chans (s : State) (l : Nat) (r : PipeRec) : (s.setPipe l r).chans = s.chans := rfl
@[simp] theorem State.setPipe_pair (s : State) (l : Nat) (r : PipeRec) : (s.setPipe l r).pair = s.pair := rfl
@[simp] theorem State.setPipe_mir (s : State) (l : Nat) (r : PipeRec) : (s.setPipe l r).mir = s.mir := rfl
@[simp] theorem State.setPipe_commits (s : State) (l : Nat) (r : PipeRec) : (s.setPipe l r).commits = s.commits := rfl
@[simp] theorem State.setPipe_time (s : State) (l : Nat) (r : PipeRec) : (s.setPipe l r).time = s.time := rfl
@[simp] theorem State.setPipe_surf (s : State) (l : Nat) (r : PipeRec) : (s.setPipe l r).surf = s.surf := rfl
@[simp] theorem State.setPipe_fum (s : State) (l : Nat) (r : PipeRec) : (s.setPipe l r).fum = s.fum := rfl
@[simp] theorem State.setPipe_dec (s : State) (l : Nat) (r : PipeRec) : (s.setPipe l r).dec = s.dec := rfl
@[simp] theorem State.setPipe_caps (s : State) (l : Nat) (r : PipeRec) : (s.setPipe l r).caps = s.caps := rfl
@[simp] theorem State.setPipe_encs (s : State) (l : Nat) (r : PipeRec) : (s.setPipe l r).encs = s.encs := rfl
@[simp] theorem State.setPipe_scan (s : State) (l : Nat) (r : PipeRec) : (s.setPipe l r).scan = s.scan := rfl
@[simp] theorem State.setPipe_touch (s : State) (l : Nat) (r : PipeRec) : (s.setPipe l r).touch = s.touch := rfl
@[simp] theorem State.setPipe_lanes (s : State) (l : Nat) (r : PipeRec) : (s.setPipe l r).lanes = s.lanes := rfl
@[simp] theorem State.setPipe_reg (s : State) (l : Nat) (r : PipeRec) (x : Nat) : (s.setPipe l r).reg x = s.reg x := rfl
@[simp] theorem State.pipe_setPipe (s : State) (l : Nat) (r : PipeRec) : (s.setPipe l r).pipe l = r := by simp [State.pipe, State.setPipe]
theorem State.pipe_setPipe_ne (s : State) (l : Nat) (r : PipeRec) (k : Nat) (h : k ≠ l) : (s.setPipe l r).pipe k = s.pipe k := by simp [State.pipe, State.setPipe, h]

/-! setSlate: the field cmp alone -/

@[simp] theorem State.setSlate_pending (s : State) (l : Nat) (r : SlateRec) : (s.setSlate l r).pending = s.pending := rfl
@[simp] theorem State.setSlate_held (s : State) (l : Nat) (r : SlateRec) : (s.setSlate l r).held = s.held := rfl
@[simp] theorem State.setSlate_out (s : State) (l : Nat) (r : SlateRec) : (s.setSlate l r).out = s.out := rfl
@[simp] theorem State.setSlate_clk (s : State) (l : Nat) (r : SlateRec) : (s.setSlate l r).clk = s.clk := rfl
@[simp] theorem State.setSlate_ft (s : State) (l : Nat) (r : SlateRec) : (s.setSlate l r).ft = s.ft := rfl
@[simp] theorem State.setSlate_free (s : State) (l : Nat) (r : SlateRec) : (s.setSlate l r).free = s.free := rfl
@[simp] theorem State.setSlate_evSeq (s : State) (l : Nat) (r : SlateRec) : (s.setSlate l r).evSeq = s.evSeq := rfl
@[simp] theorem State.setSlate_rate (s : State) (l : Nat) (r : SlateRec) : (s.setSlate l r).rate = s.rate := rfl
@[simp] theorem State.setSlate_regs (s : State) (l : Nat) (r : SlateRec) : (s.setSlate l r).regs = s.regs := rfl
@[simp] theorem State.setSlate_mem (s : State) (l : Nat) (r : SlateRec) : (s.setSlate l r).mem = s.mem := rfl
@[simp] theorem State.setSlate_otp (s : State) (l : Nat) (r : SlateRec) : (s.setSlate l r).otp = s.otp := rfl
@[simp] theorem State.setSlate_aon (s : State) (l : Nat) (r : SlateRec) : (s.setSlate l r).aon = s.aon := rfl
@[simp] theorem State.setSlate_straps (s : State) (l : Nat) (r : SlateRec) : (s.setSlate l r).straps = s.straps := rfl
@[simp] theorem State.setSlate_sys (s : State) (l : Nat) (r : SlateRec) : (s.setSlate l r).sys = s.sys := rfl
@[simp] theorem State.setSlate_host (s : State) (l : Nat) (r : SlateRec) : (s.setSlate l r).host = s.host := rfl
@[simp] theorem State.setSlate_fab (s : State) (l : Nat) (r : SlateRec) : (s.setSlate l r).fab = s.fab := rfl
@[simp] theorem State.setSlate_dram (s : State) (l : Nat) (r : SlateRec) : (s.setSlate l r).dram = s.dram := rfl
@[simp] theorem State.setSlate_chans (s : State) (l : Nat) (r : SlateRec) : (s.setSlate l r).chans = s.chans := rfl
@[simp] theorem State.setSlate_pair (s : State) (l : Nat) (r : SlateRec) : (s.setSlate l r).pair = s.pair := rfl
@[simp] theorem State.setSlate_mir (s : State) (l : Nat) (r : SlateRec) : (s.setSlate l r).mir = s.mir := rfl
@[simp] theorem State.setSlate_commits (s : State) (l : Nat) (r : SlateRec) : (s.setSlate l r).commits = s.commits := rfl
@[simp] theorem State.setSlate_time (s : State) (l : Nat) (r : SlateRec) : (s.setSlate l r).time = s.time := rfl
@[simp] theorem State.setSlate_surf (s : State) (l : Nat) (r : SlateRec) : (s.setSlate l r).surf = s.surf := rfl
@[simp] theorem State.setSlate_fum (s : State) (l : Nat) (r : SlateRec) : (s.setSlate l r).fum = s.fum := rfl
@[simp] theorem State.setSlate_dec (s : State) (l : Nat) (r : SlateRec) : (s.setSlate l r).dec = s.dec := rfl
@[simp] theorem State.setSlate_caps (s : State) (l : Nat) (r : SlateRec) : (s.setSlate l r).caps = s.caps := rfl
@[simp] theorem State.setSlate_encs (s : State) (l : Nat) (r : SlateRec) : (s.setSlate l r).encs = s.encs := rfl
@[simp] theorem State.setSlate_scan (s : State) (l : Nat) (r : SlateRec) : (s.setSlate l r).scan = s.scan := rfl
@[simp] theorem State.setSlate_touch (s : State) (l : Nat) (r : SlateRec) : (s.setSlate l r).touch = s.touch := rfl
@[simp] theorem State.setSlate_lanes (s : State) (l : Nat) (r : SlateRec) : (s.setSlate l r).lanes = s.lanes := rfl
@[simp] theorem State.setSlate_reg (s : State) (l : Nat) (r : SlateRec) (x : Nat) : (s.setSlate l r).reg x = s.reg x := rfl
@[simp] theorem State.slate_setSlate (s : State) (l : Nat) (r : SlateRec) : (s.setSlate l r).slate l = r := by simp [State.slate, State.setSlate]
theorem State.slate_setSlate_ne (s : State) (l : Nat) (r : SlateRec) (k : Nat) (h : k ≠ l) : (s.setSlate l r).slate k = s.slate k := by simp [State.slate, State.setSlate, h]

/-! setTch: the field touch alone -/

@[simp] theorem State.setTch_pending (s : State) (l : Nat) (r : TouchRec) : (s.setTch l r).pending = s.pending := rfl
@[simp] theorem State.setTch_held (s : State) (l : Nat) (r : TouchRec) : (s.setTch l r).held = s.held := rfl
@[simp] theorem State.setTch_out (s : State) (l : Nat) (r : TouchRec) : (s.setTch l r).out = s.out := rfl
@[simp] theorem State.setTch_clk (s : State) (l : Nat) (r : TouchRec) : (s.setTch l r).clk = s.clk := rfl
@[simp] theorem State.setTch_ft (s : State) (l : Nat) (r : TouchRec) : (s.setTch l r).ft = s.ft := rfl
@[simp] theorem State.setTch_free (s : State) (l : Nat) (r : TouchRec) : (s.setTch l r).free = s.free := rfl
@[simp] theorem State.setTch_evSeq (s : State) (l : Nat) (r : TouchRec) : (s.setTch l r).evSeq = s.evSeq := rfl
@[simp] theorem State.setTch_rate (s : State) (l : Nat) (r : TouchRec) : (s.setTch l r).rate = s.rate := rfl
@[simp] theorem State.setTch_regs (s : State) (l : Nat) (r : TouchRec) : (s.setTch l r).regs = s.regs := rfl
@[simp] theorem State.setTch_mem (s : State) (l : Nat) (r : TouchRec) : (s.setTch l r).mem = s.mem := rfl
@[simp] theorem State.setTch_otp (s : State) (l : Nat) (r : TouchRec) : (s.setTch l r).otp = s.otp := rfl
@[simp] theorem State.setTch_aon (s : State) (l : Nat) (r : TouchRec) : (s.setTch l r).aon = s.aon := rfl
@[simp] theorem State.setTch_straps (s : State) (l : Nat) (r : TouchRec) : (s.setTch l r).straps = s.straps := rfl
@[simp] theorem State.setTch_sys (s : State) (l : Nat) (r : TouchRec) : (s.setTch l r).sys = s.sys := rfl
@[simp] theorem State.setTch_host (s : State) (l : Nat) (r : TouchRec) : (s.setTch l r).host = s.host := rfl
@[simp] theorem State.setTch_fab (s : State) (l : Nat) (r : TouchRec) : (s.setTch l r).fab = s.fab := rfl
@[simp] theorem State.setTch_dram (s : State) (l : Nat) (r : TouchRec) : (s.setTch l r).dram = s.dram := rfl
@[simp] theorem State.setTch_chans (s : State) (l : Nat) (r : TouchRec) : (s.setTch l r).chans = s.chans := rfl
@[simp] theorem State.setTch_pair (s : State) (l : Nat) (r : TouchRec) : (s.setTch l r).pair = s.pair := rfl
@[simp] theorem State.setTch_mir (s : State) (l : Nat) (r : TouchRec) : (s.setTch l r).mir = s.mir := rfl
@[simp] theorem State.setTch_commits (s : State) (l : Nat) (r : TouchRec) : (s.setTch l r).commits = s.commits := rfl
@[simp] theorem State.setTch_time (s : State) (l : Nat) (r : TouchRec) : (s.setTch l r).time = s.time := rfl
@[simp] theorem State.setTch_surf (s : State) (l : Nat) (r : TouchRec) : (s.setTch l r).surf = s.surf := rfl
@[simp] theorem State.setTch_fum (s : State) (l : Nat) (r : TouchRec) : (s.setTch l r).fum = s.fum := rfl
@[simp] theorem State.setTch_dec (s : State) (l : Nat) (r : TouchRec) : (s.setTch l r).dec = s.dec := rfl
@[simp] theorem State.setTch_caps (s : State) (l : Nat) (r : TouchRec) : (s.setTch l r).caps = s.caps := rfl
@[simp] theorem State.setTch_encs (s : State) (l : Nat) (r : TouchRec) : (s.setTch l r).encs = s.encs := rfl
@[simp] theorem State.setTch_cmp (s : State) (l : Nat) (r : TouchRec) : (s.setTch l r).cmp = s.cmp := rfl
@[simp] theorem State.setTch_scan (s : State) (l : Nat) (r : TouchRec) : (s.setTch l r).scan = s.scan := rfl
@[simp] theorem State.setTch_lanes (s : State) (l : Nat) (r : TouchRec) : (s.setTch l r).lanes = s.lanes := rfl
@[simp] theorem State.setTch_reg (s : State) (l : Nat) (r : TouchRec) (x : Nat) : (s.setTch l r).reg x = s.reg x := rfl
@[simp] theorem State.tch_setTch (s : State) (l : Nat) (r : TouchRec) : (s.setTch l r).tch l = r := by simp [State.tch, State.setTch]
theorem State.tch_setTch_ne (s : State) (l : Nat) (r : TouchRec) (k : Nat) (h : k ≠ l) : (s.setTch l r).tch k = s.tch k := by simp [State.tch, State.setTch, h]

/-! setSq: the field host alone -/

@[simp] theorem State.setSq_pending (s : State) (f q : Nat) (r : SqRec) : (s.setSq f q r).pending = s.pending := rfl
@[simp] theorem State.setSq_held (s : State) (f q : Nat) (r : SqRec) : (s.setSq f q r).held = s.held := rfl
@[simp] theorem State.setSq_out (s : State) (f q : Nat) (r : SqRec) : (s.setSq f q r).out = s.out := rfl
@[simp] theorem State.setSq_clk (s : State) (f q : Nat) (r : SqRec) : (s.setSq f q r).clk = s.clk := rfl
@[simp] theorem State.setSq_ft (s : State) (f q : Nat) (r : SqRec) : (s.setSq f q r).ft = s.ft := rfl
@[simp] theorem State.setSq_free (s : State) (f q : Nat) (r : SqRec) : (s.setSq f q r).free = s.free := rfl
@[simp] theorem State.setSq_evSeq (s : State) (f q : Nat) (r : SqRec) : (s.setSq f q r).evSeq = s.evSeq := rfl
@[simp] theorem State.setSq_rate (s : State) (f q : Nat) (r : SqRec) : (s.setSq f q r).rate = s.rate := rfl
@[simp] theorem State.setSq_regs (s : State) (f q : Nat) (r : SqRec) : (s.setSq f q r).regs = s.regs := rfl
@[simp] theorem State.setSq_mem (s : State) (f q : Nat) (r : SqRec) : (s.setSq f q r).mem = s.mem := rfl
@[simp] theorem State.setSq_otp (s : State) (f q : Nat) (r : SqRec) : (s.setSq f q r).otp = s.otp := rfl
@[simp] theorem State.setSq_aon (s : State) (f q : Nat) (r : SqRec) : (s.setSq f q r).aon = s.aon := rfl
@[simp] theorem State.setSq_straps (s : State) (f q : Nat) (r : SqRec) : (s.setSq f q r).straps = s.straps := rfl
@[simp] theorem State.setSq_sys (s : State) (f q : Nat) (r : SqRec) : (s.setSq f q r).sys = s.sys := rfl
@[simp] theorem State.setSq_fab (s : State) (f q : Nat) (r : SqRec) : (s.setSq f q r).fab = s.fab := rfl
@[simp] theorem State.setSq_dram (s : State) (f q : Nat) (r : SqRec) : (s.setSq f q r).dram = s.dram := rfl
@[simp] theorem State.setSq_chans (s : State) (f q : Nat) (r : SqRec) : (s.setSq f q r).chans = s.chans := rfl
@[simp] theorem State.setSq_pair (s : State) (f q : Nat) (r : SqRec) : (s.setSq f q r).pair = s.pair := rfl
@[simp] theorem State.setSq_mir (s : State) (f q : Nat) (r : SqRec) : (s.setSq f q r).mir = s.mir := rfl
@[simp] theorem State.setSq_commits (s : State) (f q : Nat) (r : SqRec) : (s.setSq f q r).commits = s.commits := rfl
@[simp] theorem State.setSq_time (s : State) (f q : Nat) (r : SqRec) : (s.setSq f q r).time = s.time := rfl
@[simp] theorem State.setSq_surf (s : State) (f q : Nat) (r : SqRec) : (s.setSq f q r).surf = s.surf := rfl
@[simp] theorem State.setSq_fum (s : State) (f q : Nat) (r : SqRec) : (s.setSq f q r).fum = s.fum := rfl
@[simp] theorem State.setSq_dec (s : State) (f q : Nat) (r : SqRec) : (s.setSq f q r).dec = s.dec := rfl
@[simp] theorem State.setSq_caps (s : State) (f q : Nat) (r : SqRec) : (s.setSq f q r).caps = s.caps := rfl
@[simp] theorem State.setSq_encs (s : State) (f q : Nat) (r : SqRec) : (s.setSq f q r).encs = s.encs := rfl
@[simp] theorem State.setSq_cmp (s : State) (f q : Nat) (r : SqRec) : (s.setSq f q r).cmp = s.cmp := rfl
@[simp] theorem State.setSq_scan (s : State) (f q : Nat) (r : SqRec) : (s.setSq f q r).scan = s.scan := rfl
@[simp] theorem State.setSq_touch (s : State) (f q : Nat) (r : SqRec) : (s.setSq f q r).touch = s.touch := rfl
@[simp] theorem State.setSq_lanes (s : State) (f q : Nat) (r : SqRec) : (s.setSq f q r).lanes = s.lanes := rfl
@[simp] theorem State.setSq_reg (s : State) (f q : Nat) (r : SqRec) (x : Nat) : (s.setSq f q r).reg x = s.reg x := rfl

/-! setCq: the field host alone -/

@[simp] theorem State.setCq_pending (s : State) (f q : Nat) (r : CqRec) : (s.setCq f q r).pending = s.pending := rfl
@[simp] theorem State.setCq_held (s : State) (f q : Nat) (r : CqRec) : (s.setCq f q r).held = s.held := rfl
@[simp] theorem State.setCq_out (s : State) (f q : Nat) (r : CqRec) : (s.setCq f q r).out = s.out := rfl
@[simp] theorem State.setCq_clk (s : State) (f q : Nat) (r : CqRec) : (s.setCq f q r).clk = s.clk := rfl
@[simp] theorem State.setCq_ft (s : State) (f q : Nat) (r : CqRec) : (s.setCq f q r).ft = s.ft := rfl
@[simp] theorem State.setCq_free (s : State) (f q : Nat) (r : CqRec) : (s.setCq f q r).free = s.free := rfl
@[simp] theorem State.setCq_evSeq (s : State) (f q : Nat) (r : CqRec) : (s.setCq f q r).evSeq = s.evSeq := rfl
@[simp] theorem State.setCq_rate (s : State) (f q : Nat) (r : CqRec) : (s.setCq f q r).rate = s.rate := rfl
@[simp] theorem State.setCq_regs (s : State) (f q : Nat) (r : CqRec) : (s.setCq f q r).regs = s.regs := rfl
@[simp] theorem State.setCq_mem (s : State) (f q : Nat) (r : CqRec) : (s.setCq f q r).mem = s.mem := rfl
@[simp] theorem State.setCq_otp (s : State) (f q : Nat) (r : CqRec) : (s.setCq f q r).otp = s.otp := rfl
@[simp] theorem State.setCq_aon (s : State) (f q : Nat) (r : CqRec) : (s.setCq f q r).aon = s.aon := rfl
@[simp] theorem State.setCq_straps (s : State) (f q : Nat) (r : CqRec) : (s.setCq f q r).straps = s.straps := rfl
@[simp] theorem State.setCq_sys (s : State) (f q : Nat) (r : CqRec) : (s.setCq f q r).sys = s.sys := rfl
@[simp] theorem State.setCq_fab (s : State) (f q : Nat) (r : CqRec) : (s.setCq f q r).fab = s.fab := rfl
@[simp] theorem State.setCq_dram (s : State) (f q : Nat) (r : CqRec) : (s.setCq f q r).dram = s.dram := rfl
@[simp] theorem State.setCq_chans (s : State) (f q : Nat) (r : CqRec) : (s.setCq f q r).chans = s.chans := rfl
@[simp] theorem State.setCq_pair (s : State) (f q : Nat) (r : CqRec) : (s.setCq f q r).pair = s.pair := rfl
@[simp] theorem State.setCq_mir (s : State) (f q : Nat) (r : CqRec) : (s.setCq f q r).mir = s.mir := rfl
@[simp] theorem State.setCq_commits (s : State) (f q : Nat) (r : CqRec) : (s.setCq f q r).commits = s.commits := rfl
@[simp] theorem State.setCq_time (s : State) (f q : Nat) (r : CqRec) : (s.setCq f q r).time = s.time := rfl
@[simp] theorem State.setCq_surf (s : State) (f q : Nat) (r : CqRec) : (s.setCq f q r).surf = s.surf := rfl
@[simp] theorem State.setCq_fum (s : State) (f q : Nat) (r : CqRec) : (s.setCq f q r).fum = s.fum := rfl
@[simp] theorem State.setCq_dec (s : State) (f q : Nat) (r : CqRec) : (s.setCq f q r).dec = s.dec := rfl
@[simp] theorem State.setCq_caps (s : State) (f q : Nat) (r : CqRec) : (s.setCq f q r).caps = s.caps := rfl
@[simp] theorem State.setCq_encs (s : State) (f q : Nat) (r : CqRec) : (s.setCq f q r).encs = s.encs := rfl
@[simp] theorem State.setCq_cmp (s : State) (f q : Nat) (r : CqRec) : (s.setCq f q r).cmp = s.cmp := rfl
@[simp] theorem State.setCq_scan (s : State) (f q : Nat) (r : CqRec) : (s.setCq f q r).scan = s.scan := rfl
@[simp] theorem State.setCq_touch (s : State) (f q : Nat) (r : CqRec) : (s.setCq f q r).touch = s.touch := rfl
@[simp] theorem State.setCq_lanes (s : State) (f q : Nat) (r : CqRec) : (s.setCq f q r).lanes = s.lanes := rfl
@[simp] theorem State.setCq_reg (s : State) (f q : Nat) (r : CqRec) (x : Nat) : (s.setCq f q r).reg x = s.reg x := rfl

/-! setMbx: the field sys alone -/

@[simp] theorem State.setMbx_pending (s : State) (b m : Nat) (r : MbxRec) : (s.setMbx b m r).pending = s.pending := rfl
@[simp] theorem State.setMbx_held (s : State) (b m : Nat) (r : MbxRec) : (s.setMbx b m r).held = s.held := rfl
@[simp] theorem State.setMbx_out (s : State) (b m : Nat) (r : MbxRec) : (s.setMbx b m r).out = s.out := rfl
@[simp] theorem State.setMbx_clk (s : State) (b m : Nat) (r : MbxRec) : (s.setMbx b m r).clk = s.clk := rfl
@[simp] theorem State.setMbx_ft (s : State) (b m : Nat) (r : MbxRec) : (s.setMbx b m r).ft = s.ft := rfl
@[simp] theorem State.setMbx_free (s : State) (b m : Nat) (r : MbxRec) : (s.setMbx b m r).free = s.free := rfl
@[simp] theorem State.setMbx_evSeq (s : State) (b m : Nat) (r : MbxRec) : (s.setMbx b m r).evSeq = s.evSeq := rfl
@[simp] theorem State.setMbx_rate (s : State) (b m : Nat) (r : MbxRec) : (s.setMbx b m r).rate = s.rate := rfl
@[simp] theorem State.setMbx_regs (s : State) (b m : Nat) (r : MbxRec) : (s.setMbx b m r).regs = s.regs := rfl
@[simp] theorem State.setMbx_mem (s : State) (b m : Nat) (r : MbxRec) : (s.setMbx b m r).mem = s.mem := rfl
@[simp] theorem State.setMbx_otp (s : State) (b m : Nat) (r : MbxRec) : (s.setMbx b m r).otp = s.otp := rfl
@[simp] theorem State.setMbx_aon (s : State) (b m : Nat) (r : MbxRec) : (s.setMbx b m r).aon = s.aon := rfl
@[simp] theorem State.setMbx_straps (s : State) (b m : Nat) (r : MbxRec) : (s.setMbx b m r).straps = s.straps := rfl
@[simp] theorem State.setMbx_host (s : State) (b m : Nat) (r : MbxRec) : (s.setMbx b m r).host = s.host := rfl
@[simp] theorem State.setMbx_fab (s : State) (b m : Nat) (r : MbxRec) : (s.setMbx b m r).fab = s.fab := rfl
@[simp] theorem State.setMbx_dram (s : State) (b m : Nat) (r : MbxRec) : (s.setMbx b m r).dram = s.dram := rfl
@[simp] theorem State.setMbx_chans (s : State) (b m : Nat) (r : MbxRec) : (s.setMbx b m r).chans = s.chans := rfl
@[simp] theorem State.setMbx_pair (s : State) (b m : Nat) (r : MbxRec) : (s.setMbx b m r).pair = s.pair := rfl
@[simp] theorem State.setMbx_mir (s : State) (b m : Nat) (r : MbxRec) : (s.setMbx b m r).mir = s.mir := rfl
@[simp] theorem State.setMbx_commits (s : State) (b m : Nat) (r : MbxRec) : (s.setMbx b m r).commits = s.commits := rfl
@[simp] theorem State.setMbx_time (s : State) (b m : Nat) (r : MbxRec) : (s.setMbx b m r).time = s.time := rfl
@[simp] theorem State.setMbx_surf (s : State) (b m : Nat) (r : MbxRec) : (s.setMbx b m r).surf = s.surf := rfl
@[simp] theorem State.setMbx_fum (s : State) (b m : Nat) (r : MbxRec) : (s.setMbx b m r).fum = s.fum := rfl
@[simp] theorem State.setMbx_dec (s : State) (b m : Nat) (r : MbxRec) : (s.setMbx b m r).dec = s.dec := rfl
@[simp] theorem State.setMbx_caps (s : State) (b m : Nat) (r : MbxRec) : (s.setMbx b m r).caps = s.caps := rfl
@[simp] theorem State.setMbx_encs (s : State) (b m : Nat) (r : MbxRec) : (s.setMbx b m r).encs = s.encs := rfl
@[simp] theorem State.setMbx_cmp (s : State) (b m : Nat) (r : MbxRec) : (s.setMbx b m r).cmp = s.cmp := rfl
@[simp] theorem State.setMbx_scan (s : State) (b m : Nat) (r : MbxRec) : (s.setMbx b m r).scan = s.scan := rfl
@[simp] theorem State.setMbx_touch (s : State) (b m : Nat) (r : MbxRec) : (s.setMbx b m r).touch = s.touch := rfl
@[simp] theorem State.setMbx_lanes (s : State) (b m : Nat) (r : MbxRec) : (s.setMbx b m r).lanes = s.lanes := rfl
@[simp] theorem State.setMbx_reg (s : State) (b m : Nat) (r : MbxRec) (x : Nat) : (s.setMbx b m r).reg x = s.reg x := rfl

/-! setLane: the field lanes alone -/

@[simp] theorem State.setLane_pending (s : State) (l i : Nat) (r : LaneRec) : (s.setLane l i r).pending = s.pending := rfl
@[simp] theorem State.setLane_held (s : State) (l i : Nat) (r : LaneRec) : (s.setLane l i r).held = s.held := rfl
@[simp] theorem State.setLane_out (s : State) (l i : Nat) (r : LaneRec) : (s.setLane l i r).out = s.out := rfl
@[simp] theorem State.setLane_clk (s : State) (l i : Nat) (r : LaneRec) : (s.setLane l i r).clk = s.clk := rfl
@[simp] theorem State.setLane_ft (s : State) (l i : Nat) (r : LaneRec) : (s.setLane l i r).ft = s.ft := rfl
@[simp] theorem State.setLane_free (s : State) (l i : Nat) (r : LaneRec) : (s.setLane l i r).free = s.free := rfl
@[simp] theorem State.setLane_evSeq (s : State) (l i : Nat) (r : LaneRec) : (s.setLane l i r).evSeq = s.evSeq := rfl
@[simp] theorem State.setLane_rate (s : State) (l i : Nat) (r : LaneRec) : (s.setLane l i r).rate = s.rate := rfl
@[simp] theorem State.setLane_regs (s : State) (l i : Nat) (r : LaneRec) : (s.setLane l i r).regs = s.regs := rfl
@[simp] theorem State.setLane_mem (s : State) (l i : Nat) (r : LaneRec) : (s.setLane l i r).mem = s.mem := rfl
@[simp] theorem State.setLane_otp (s : State) (l i : Nat) (r : LaneRec) : (s.setLane l i r).otp = s.otp := rfl
@[simp] theorem State.setLane_aon (s : State) (l i : Nat) (r : LaneRec) : (s.setLane l i r).aon = s.aon := rfl
@[simp] theorem State.setLane_straps (s : State) (l i : Nat) (r : LaneRec) : (s.setLane l i r).straps = s.straps := rfl
@[simp] theorem State.setLane_sys (s : State) (l i : Nat) (r : LaneRec) : (s.setLane l i r).sys = s.sys := rfl
@[simp] theorem State.setLane_host (s : State) (l i : Nat) (r : LaneRec) : (s.setLane l i r).host = s.host := rfl
@[simp] theorem State.setLane_fab (s : State) (l i : Nat) (r : LaneRec) : (s.setLane l i r).fab = s.fab := rfl
@[simp] theorem State.setLane_dram (s : State) (l i : Nat) (r : LaneRec) : (s.setLane l i r).dram = s.dram := rfl
@[simp] theorem State.setLane_chans (s : State) (l i : Nat) (r : LaneRec) : (s.setLane l i r).chans = s.chans := rfl
@[simp] theorem State.setLane_pair (s : State) (l i : Nat) (r : LaneRec) : (s.setLane l i r).pair = s.pair := rfl
@[simp] theorem State.setLane_mir (s : State) (l i : Nat) (r : LaneRec) : (s.setLane l i r).mir = s.mir := rfl
@[simp] theorem State.setLane_commits (s : State) (l i : Nat) (r : LaneRec) : (s.setLane l i r).commits = s.commits := rfl
@[simp] theorem State.setLane_time (s : State) (l i : Nat) (r : LaneRec) : (s.setLane l i r).time = s.time := rfl
@[simp] theorem State.setLane_surf (s : State) (l i : Nat) (r : LaneRec) : (s.setLane l i r).surf = s.surf := rfl
@[simp] theorem State.setLane_fum (s : State) (l i : Nat) (r : LaneRec) : (s.setLane l i r).fum = s.fum := rfl
@[simp] theorem State.setLane_dec (s : State) (l i : Nat) (r : LaneRec) : (s.setLane l i r).dec = s.dec := rfl
@[simp] theorem State.setLane_caps (s : State) (l i : Nat) (r : LaneRec) : (s.setLane l i r).caps = s.caps := rfl
@[simp] theorem State.setLane_encs (s : State) (l i : Nat) (r : LaneRec) : (s.setLane l i r).encs = s.encs := rfl
@[simp] theorem State.setLane_cmp (s : State) (l i : Nat) (r : LaneRec) : (s.setLane l i r).cmp = s.cmp := rfl
@[simp] theorem State.setLane_scan (s : State) (l i : Nat) (r : LaneRec) : (s.setLane l i r).scan = s.scan := rfl
@[simp] theorem State.setLane_touch (s : State) (l i : Nat) (r : LaneRec) : (s.setLane l i r).touch = s.touch := rfl
@[simp] theorem State.setLane_reg (s : State) (l i : Nat) (r : LaneRec) (x : Nat) : (s.setLane l i r).reg x = s.reg x := rfl

/-! dropCommit: the field commits alone -/

@[simp] theorem State.dropCommit_pending (s : State) (c : CommitRec) : (s.dropCommit c).pending = s.pending := rfl
@[simp] theorem State.dropCommit_held (s : State) (c : CommitRec) : (s.dropCommit c).held = s.held := rfl
@[simp] theorem State.dropCommit_out (s : State) (c : CommitRec) : (s.dropCommit c).out = s.out := rfl
@[simp] theorem State.dropCommit_clk (s : State) (c : CommitRec) : (s.dropCommit c).clk = s.clk := rfl
@[simp] theorem State.dropCommit_ft (s : State) (c : CommitRec) : (s.dropCommit c).ft = s.ft := rfl
@[simp] theorem State.dropCommit_free (s : State) (c : CommitRec) : (s.dropCommit c).free = s.free := rfl
@[simp] theorem State.dropCommit_evSeq (s : State) (c : CommitRec) : (s.dropCommit c).evSeq = s.evSeq := rfl
@[simp] theorem State.dropCommit_rate (s : State) (c : CommitRec) : (s.dropCommit c).rate = s.rate := rfl
@[simp] theorem State.dropCommit_regs (s : State) (c : CommitRec) : (s.dropCommit c).regs = s.regs := rfl
@[simp] theorem State.dropCommit_mem (s : State) (c : CommitRec) : (s.dropCommit c).mem = s.mem := rfl
@[simp] theorem State.dropCommit_otp (s : State) (c : CommitRec) : (s.dropCommit c).otp = s.otp := rfl
@[simp] theorem State.dropCommit_aon (s : State) (c : CommitRec) : (s.dropCommit c).aon = s.aon := rfl
@[simp] theorem State.dropCommit_straps (s : State) (c : CommitRec) : (s.dropCommit c).straps = s.straps := rfl
@[simp] theorem State.dropCommit_sys (s : State) (c : CommitRec) : (s.dropCommit c).sys = s.sys := rfl
@[simp] theorem State.dropCommit_host (s : State) (c : CommitRec) : (s.dropCommit c).host = s.host := rfl
@[simp] theorem State.dropCommit_fab (s : State) (c : CommitRec) : (s.dropCommit c).fab = s.fab := rfl
@[simp] theorem State.dropCommit_dram (s : State) (c : CommitRec) : (s.dropCommit c).dram = s.dram := rfl
@[simp] theorem State.dropCommit_chans (s : State) (c : CommitRec) : (s.dropCommit c).chans = s.chans := rfl
@[simp] theorem State.dropCommit_pair (s : State) (c : CommitRec) : (s.dropCommit c).pair = s.pair := rfl
@[simp] theorem State.dropCommit_mir (s : State) (c : CommitRec) : (s.dropCommit c).mir = s.mir := rfl
@[simp] theorem State.dropCommit_time (s : State) (c : CommitRec) : (s.dropCommit c).time = s.time := rfl
@[simp] theorem State.dropCommit_surf (s : State) (c : CommitRec) : (s.dropCommit c).surf = s.surf := rfl
@[simp] theorem State.dropCommit_fum (s : State) (c : CommitRec) : (s.dropCommit c).fum = s.fum := rfl
@[simp] theorem State.dropCommit_dec (s : State) (c : CommitRec) : (s.dropCommit c).dec = s.dec := rfl
@[simp] theorem State.dropCommit_caps (s : State) (c : CommitRec) : (s.dropCommit c).caps = s.caps := rfl
@[simp] theorem State.dropCommit_encs (s : State) (c : CommitRec) : (s.dropCommit c).encs = s.encs := rfl
@[simp] theorem State.dropCommit_cmp (s : State) (c : CommitRec) : (s.dropCommit c).cmp = s.cmp := rfl
@[simp] theorem State.dropCommit_scan (s : State) (c : CommitRec) : (s.dropCommit c).scan = s.scan := rfl
@[simp] theorem State.dropCommit_touch (s : State) (c : CommitRec) : (s.dropCommit c).touch = s.touch := rfl
@[simp] theorem State.dropCommit_lanes (s : State) (c : CommitRec) : (s.dropCommit c).lanes = s.lanes := rfl
@[simp] theorem State.dropCommit_reg (s : State) (c : CommitRec) (x : Nat) : (s.dropCommit c).reg x = s.reg x := rfl

/-! putCommit: the field commits alone -/

@[simp] theorem State.putCommit_pending (s : State) (c d : CommitRec) : (s.putCommit c d).pending = s.pending := rfl
@[simp] theorem State.putCommit_held (s : State) (c d : CommitRec) : (s.putCommit c d).held = s.held := rfl
@[simp] theorem State.putCommit_out (s : State) (c d : CommitRec) : (s.putCommit c d).out = s.out := rfl
@[simp] theorem State.putCommit_clk (s : State) (c d : CommitRec) : (s.putCommit c d).clk = s.clk := rfl
@[simp] theorem State.putCommit_ft (s : State) (c d : CommitRec) : (s.putCommit c d).ft = s.ft := rfl
@[simp] theorem State.putCommit_free (s : State) (c d : CommitRec) : (s.putCommit c d).free = s.free := rfl
@[simp] theorem State.putCommit_evSeq (s : State) (c d : CommitRec) : (s.putCommit c d).evSeq = s.evSeq := rfl
@[simp] theorem State.putCommit_rate (s : State) (c d : CommitRec) : (s.putCommit c d).rate = s.rate := rfl
@[simp] theorem State.putCommit_regs (s : State) (c d : CommitRec) : (s.putCommit c d).regs = s.regs := rfl
@[simp] theorem State.putCommit_mem (s : State) (c d : CommitRec) : (s.putCommit c d).mem = s.mem := rfl
@[simp] theorem State.putCommit_otp (s : State) (c d : CommitRec) : (s.putCommit c d).otp = s.otp := rfl
@[simp] theorem State.putCommit_aon (s : State) (c d : CommitRec) : (s.putCommit c d).aon = s.aon := rfl
@[simp] theorem State.putCommit_straps (s : State) (c d : CommitRec) : (s.putCommit c d).straps = s.straps := rfl
@[simp] theorem State.putCommit_sys (s : State) (c d : CommitRec) : (s.putCommit c d).sys = s.sys := rfl
@[simp] theorem State.putCommit_host (s : State) (c d : CommitRec) : (s.putCommit c d).host = s.host := rfl
@[simp] theorem State.putCommit_fab (s : State) (c d : CommitRec) : (s.putCommit c d).fab = s.fab := rfl
@[simp] theorem State.putCommit_dram (s : State) (c d : CommitRec) : (s.putCommit c d).dram = s.dram := rfl
@[simp] theorem State.putCommit_chans (s : State) (c d : CommitRec) : (s.putCommit c d).chans = s.chans := rfl
@[simp] theorem State.putCommit_pair (s : State) (c d : CommitRec) : (s.putCommit c d).pair = s.pair := rfl
@[simp] theorem State.putCommit_mir (s : State) (c d : CommitRec) : (s.putCommit c d).mir = s.mir := rfl
@[simp] theorem State.putCommit_time (s : State) (c d : CommitRec) : (s.putCommit c d).time = s.time := rfl
@[simp] theorem State.putCommit_surf (s : State) (c d : CommitRec) : (s.putCommit c d).surf = s.surf := rfl
@[simp] theorem State.putCommit_fum (s : State) (c d : CommitRec) : (s.putCommit c d).fum = s.fum := rfl
@[simp] theorem State.putCommit_dec (s : State) (c d : CommitRec) : (s.putCommit c d).dec = s.dec := rfl
@[simp] theorem State.putCommit_caps (s : State) (c d : CommitRec) : (s.putCommit c d).caps = s.caps := rfl
@[simp] theorem State.putCommit_encs (s : State) (c d : CommitRec) : (s.putCommit c d).encs = s.encs := rfl
@[simp] theorem State.putCommit_cmp (s : State) (c d : CommitRec) : (s.putCommit c d).cmp = s.cmp := rfl
@[simp] theorem State.putCommit_scan (s : State) (c d : CommitRec) : (s.putCommit c d).scan = s.scan := rfl
@[simp] theorem State.putCommit_touch (s : State) (c d : CommitRec) : (s.putCommit c d).touch = s.touch := rfl
@[simp] theorem State.putCommit_lanes (s : State) (c d : CommitRec) : (s.putCommit c d).lanes = s.lanes := rfl
@[simp] theorem State.putCommit_reg (s : State) (c d : CommitRec) (x : Nat) : (s.putCommit c d).reg x = s.reg x := rfl

/-! untrigger: the field pair alone -/

@[simp] theorem State.untrigger_pending (s : State) (code : Nat) : (s.untrigger code).pending = s.pending := rfl
@[simp] theorem State.untrigger_held (s : State) (code : Nat) : (s.untrigger code).held = s.held := rfl
@[simp] theorem State.untrigger_out (s : State) (code : Nat) : (s.untrigger code).out = s.out := rfl
@[simp] theorem State.untrigger_clk (s : State) (code : Nat) : (s.untrigger code).clk = s.clk := rfl
@[simp] theorem State.untrigger_ft (s : State) (code : Nat) : (s.untrigger code).ft = s.ft := rfl
@[simp] theorem State.untrigger_free (s : State) (code : Nat) : (s.untrigger code).free = s.free := rfl
@[simp] theorem State.untrigger_evSeq (s : State) (code : Nat) : (s.untrigger code).evSeq = s.evSeq := rfl
@[simp] theorem State.untrigger_rate (s : State) (code : Nat) : (s.untrigger code).rate = s.rate := rfl
@[simp] theorem State.untrigger_regs (s : State) (code : Nat) : (s.untrigger code).regs = s.regs := rfl
@[simp] theorem State.untrigger_mem (s : State) (code : Nat) : (s.untrigger code).mem = s.mem := rfl
@[simp] theorem State.untrigger_otp (s : State) (code : Nat) : (s.untrigger code).otp = s.otp := rfl
@[simp] theorem State.untrigger_aon (s : State) (code : Nat) : (s.untrigger code).aon = s.aon := rfl
@[simp] theorem State.untrigger_straps (s : State) (code : Nat) : (s.untrigger code).straps = s.straps := rfl
@[simp] theorem State.untrigger_sys (s : State) (code : Nat) : (s.untrigger code).sys = s.sys := rfl
@[simp] theorem State.untrigger_host (s : State) (code : Nat) : (s.untrigger code).host = s.host := rfl
@[simp] theorem State.untrigger_fab (s : State) (code : Nat) : (s.untrigger code).fab = s.fab := rfl
@[simp] theorem State.untrigger_dram (s : State) (code : Nat) : (s.untrigger code).dram = s.dram := rfl
@[simp] theorem State.untrigger_chans (s : State) (code : Nat) : (s.untrigger code).chans = s.chans := rfl
@[simp] theorem State.untrigger_mir (s : State) (code : Nat) : (s.untrigger code).mir = s.mir := rfl
@[simp] theorem State.untrigger_commits (s : State) (code : Nat) : (s.untrigger code).commits = s.commits := rfl
@[simp] theorem State.untrigger_time (s : State) (code : Nat) : (s.untrigger code).time = s.time := rfl
@[simp] theorem State.untrigger_surf (s : State) (code : Nat) : (s.untrigger code).surf = s.surf := rfl
@[simp] theorem State.untrigger_fum (s : State) (code : Nat) : (s.untrigger code).fum = s.fum := rfl
@[simp] theorem State.untrigger_dec (s : State) (code : Nat) : (s.untrigger code).dec = s.dec := rfl
@[simp] theorem State.untrigger_caps (s : State) (code : Nat) : (s.untrigger code).caps = s.caps := rfl
@[simp] theorem State.untrigger_encs (s : State) (code : Nat) : (s.untrigger code).encs = s.encs := rfl
@[simp] theorem State.untrigger_cmp (s : State) (code : Nat) : (s.untrigger code).cmp = s.cmp := rfl
@[simp] theorem State.untrigger_scan (s : State) (code : Nat) : (s.untrigger code).scan = s.scan := rfl
@[simp] theorem State.untrigger_touch (s : State) (code : Nat) : (s.untrigger code).touch = s.touch := rfl
@[simp] theorem State.untrigger_lanes (s : State) (code : Nat) : (s.untrigger code).lanes = s.lanes := rfl
@[simp] theorem State.untrigger_reg (s : State) (code : Nat) (x : Nat) : (s.untrigger code).reg x = s.reg x := rfl

@[simp] theorem State.emit_out (s : State) (o : Out) : (s.emit o).out = o :: s.out := rfl

end Sys2Proof.Machine
end

