-- ==== Sys2Proof/Laws/Stores.lean ====
section
/-! SUPPORT. What a store of a unit leaves alone, said once for each operation: every byte of device memory outside the range that it
stores to. -/

set_option Elab.async false

namespace Sys2Proof
namespace Machine

/-- From s to t no byte of memory outside the n bytes from address a on changed. -/
def Outside (s t : State) (a n : Nat) : Prop := ∀ x, x < a ∨ a + n ≤ x → memGet t.mem x = memGet s.mem x

theorem Outside.of_mem {s t : State} (a n : Nat) (h : t.mem = s.mem) : Outside s t a n := fun x _ => by rw [h]

theorem Outside.trans {s t u : State} {a n : Nat} (h : Outside s t a n) (k : Outside t u a n) : Outside s u a n :=
  fun x hx => (k x hx).trans (h x hx)

theorem Outside.mono {s t : State} {a n b m : Nat} (h : Outside s t b m) (h1 : a ≤ b) (h2 : b + m ≤ a + n) : Outside s t a n :=
  fun x hx => h x (by omega)

/-- A part that is in no list of what may change is the same. -/
theorem Frame.mem_eq {ps : List Part} {s t : State} (h : Frame ps s t) (hp : Part.mem ∉ ps) : t.mem = s.mem := (h .mem).resolve_left hp

theorem mpuDeny_mem (s : State) (mid a l : Nat) (w : Bool) : (s.mpuDeny mid a l w).mem = s.mem :=
  (frame_State_mpuDeny (List.Subset.refl _) (Frame.refl _ s)).mem_eq (by decide)

theorem addrFault_mem (s : State) (mid a : Nat) : (s.addrFault mid a).mem = s.mem :=
  (frame_State_addrFault (List.Subset.refl _) (Frame.refl _ s)).mem_eq (by decide)

theorem askSeg_mem (s : State) (a : Nat) : (s.askSeg a).mem = s.mem :=
  (frame_State_askSeg (List.Subset.refl _) (Frame.refl _ s)).mem_eq (by decide)

/-- One block written by a unit changes no byte outside it. -/
theorem wrBlock_outside {s : State} (hm : MemOk s) (mid a : Nat) (d : List Byte) : Outside s (s.wrBlock mid a d).1 a d.length := by
  intro x hx
  unfold State.wrBlock
  split
  · rw [mpuDeny_mem]
  · split
    · rfl
    · split
      · rw [askSeg_mem, memGet_memWrite s.mem a x d hm, if_neg (by omega)]
      · split
        · rw [addrFault_mem]
        · rfl

/-- The pieces of a transfer lie within it. -/
theorem blocksOf_within (n a off len : Nat) : ∀ p ∈ blocksOf n a off len, off ≤ p.1 ∧ p.1 + p.2 ≤ off + len := by
  induction n generalizing off len with
  | zero => simp [blocksOf]
  | succ n ih =>
    intro p hp
    rw [blocksOf] at hp
    split at hp
    · simp at hp
    · rcases List.mem_cons.mp hp with rfl | hp
      · simp only
        omega
      · have := ih _ _ p hp
        omega

/-- Blocks of a transfer written one after the other change no byte outside the transfer. -/
theorem foldl_wrBlock_outside (mid a : Nat) (d : List Byte) (l : List (Nat × Nat)) (hl : ∀ p ∈ l, p.1 + p.2 ≤ d.length) (s : State) (ok : Bool)
    (hm : MemOk s) :
    Outside s (l.foldl (fun (e : State × Bool) p =>
      ((e.1.wrBlock mid (a + p.1) ((d.drop p.1).take p.2)).1, e.2 && (e.1.wrBlock mid (a + p.1) ((d.drop p.1).take p.2)).2)) (s, ok)).1 a d.length := by
  induction l generalizing s ok with
  | nil => exact .of_mem _ _ rfl
  | cons p l ih =>
    have h1 := hl p (by simp)
    have hk : ((d.drop p.1).take p.2).length ≤ p.2 := by simp
    exact ((wrBlock_outside hm mid (a + p.1) ((d.drop p.1).take p.2)).mono (by omega) (by omega)).trans
      (ih (fun q hq => hl q (by simp [hq])) _ _ ((keeps_State_wrBlock (Keeps.refl s)).mem hm))

/-- A unit's transfer to device memory changes no byte outside it. -/
theorem memWr_outside {s : State} (hm : MemOk s) (mid a : Nat) (d : List Byte) : Outside s (s.memWr mid a d).1 a d.length :=
  foldl_wrBlock_outside mid a d _ (fun p hp => by have := blocksOf_within _ _ _ _ p hp; omega) s true hm

/-- The same, with the flag dropped. -/
theorem wr_outside {s : State} (hm : MemOk s) (mid a : Nat) (d : List Byte) : Outside s (s.wr mid a d) a d.length := memWr_outside hm mid a d

/-- A command's transfer, which stops at the first denied block, changes no byte outside it. -/
theorem memWrTill_outside {s : State} (hm : MemOk s) (mid a : Nat) (d : List Byte) : Outside s (s.memWrTill mid a d).1 a d.length := by
  unfold State.memWrTill
  split
  · exact memWr_outside hm mid a d
  · next b l _ =>
    exact ((memWr_outside hm mid a (d.take (b - a))).mono (Nat.le_refl a) (by simp [List.length_take])).trans (.of_mem _ _ (mpuDeny_mem _ _ _ _ _))

end Machine
end Sys2Proof
end

