-- ==== Sys2Proof/Laws/Writes.lean ====
section
/-! SUPPORT. What surrounds a register write, said once: links that do not move leave the lanes alone, and a write that reaches its register and
breaks no rule is the accepted write. -/

set_option Elab.async false

namespace Sys2Proof
namespace Machine

/-- The counters and captures by their offsets. -/
theorem Counted.num {o : Nat} (h : Counted o) :
    o ∈ ([0xC4000C, 0xC40008, 0xE2001C, 0xE20010, 0x00030C, 0x000300, 0x000304, 0x04100C, 0x041000, 0x041004, 0x400034, 0xCA0008, 0xCA0014, 0xCA000C] : List Nat)
      ∨ (∃ n, n < 11 ∧ (o = 0xC80040 + 4 * n ∨ o = 0xCC0200 + 4 * n))
      ∨ ∃ n, o = 0xC0001C + 0x100 * n ∨ o = 0xC00018 + 0x100 * n ∨ o = 0x211018 + 0x10000 * n ∨ o = 0x21101C + 0x10000 * n
        ∨ ∃ w f, o = w * 0x1000000 + 0x211014 + 0x10000 * f := h

/-- No link changed its state and none counted a code error. -/
structure Still (s t : State) : Prop where
  st : ∀ l, (t.link l).st = (s.link l).st
  cnt : ∀ l, l < 11 → t.cnt (0xC00014 + 0x100 * l) = s.cnt (0xC00014 + 0x100 * l)

theorem Calm.still {s t : State} (h : Calm s t) : Still s t where
  st := h.st
  cnt l hl := h.cnt (by
    intro hx
    rcases hx.num with h | ⟨n, h⟩ | ⟨n, h | h | h | h | ⟨w, f, h⟩⟩
    · simp only [List.mem_cons, List.not_mem_nil, or_false] at h; omega
    all_goals omega)

theorem Still.trans {s t u : State} (h : Still s t) (k : Still t u) : Still s u :=
  ⟨fun l => (k.st l).trans (h.st l), fun l hl => (k.cnt l hl).trans (h.cnt l hl)⟩

theorem Still.setReg {s t : State} {o v : Nat} (h : Still s t) (ho : ∀ l, l < 11 → 0xC00014 + 0x100 * l ≠ o) : Still s (t.setReg o v) :=
  ⟨h.st, fun l hl => by rw [← h.cnt l hl]; simp only [State.cnt, State.setReg, Tab.getD_set, if_neg (ho l hl)]⟩

theorem Still.upd {s t u : State} (h : Still s t) (hr : u.regs = t.regs := by rfl) (hl : u.fab.links = t.fab.links := by rfl) : Still s u :=
  ⟨fun l => by rw [← h.st l]; simp only [State.link, hl], fun l hll => by rw [← h.cnt l hll]; simp only [State.cnt, hr]⟩

theorem Still.refl (s : State) : Still s s := ⟨fun _ => rfl, fun _ _ => rfl⟩

/-- Links that did not change their state, with no new code errors, leave the lanes alone. -/
theorem lanesFollow_still {s t u : State} {l : Nat} (hl : l < 11) (h : Still s t) (e : u = t) : lanesFollow s u l = t := by
  subst e
  have hs := h.st l
  have hc : u.cnt (Reg.FAB_LINK_CODE_ERR + 0x100 * l) = s.cnt (Reg.FAB_LINK_CODE_ERR + 0x100 * l) := h.cnt l hl
  unfold lanesFollow
  simp only [hs, gt_iff_lt]
  generalize (s.link l).st = x
  cases x <;> simp [hc]

/-- The same for every link. -/
theorem allLanesFollow_still {s t : State} (h : Still s t) : allLanesFollow s t = t := by
  unfold allLanesFollow
  have : ∀ xs : List Nat, (∀ l ∈ xs, l < 11) → ∀ u, u = t → xs.foldl (lanesFollow s) u = t := by
    intro xs
    induction xs with
    | nil => exact fun _ u hu => hu
    | cons x xs ih => exact fun hx u hu => ih (fun l hl => hx l (by simp [hl])) _ (lanesFollow_still (hx x (by simp)) h hu)
  exact this _ (fun l hl => List.mem_range.1 hl) t rfl

/-- An effect that moves no link and leaves PEER's readiness alone is all that happens. -/
theorem onLinks_still {s : State} {f : State → State} (h : Still s (f s)) (hr : (f s).peerUp = s.peerUp) : onLinks s f = f s := by
  simp [onLinks, allLanesFollow_still h, hr]

/-- No wake of a device that is not DORMANT. -/
theorem tlpWakes_awake {s : State} (h : s.sys.mode ≠ .dormant) : tlpWakes s = s := by simp [tlpWakes, h]

/-- The value that a write of v leaves to be accepted: the writable bits of v over the others of the old value. -/
def mergeWrite (d : RegDef) (i : Nat) (priv : Bool) (old v : Nat) : Nat :=
  (old &&& (0xFFFFFFFF - writeMask d i priv)) ||| (v &&& writeMask d i priv)

/-- The old value that a write of a register starts from. -/
def oldValue (s : State) (d : RegDef) (off i : Nat) : Nat :=
  if d.base = Reg.SYS_MPU_CTRL then viewMpu s i - viewMpu s i % 2 else s.reg off

/-- A word written to a register, none of whose rules it breaks. -/
theorem writeWord_accept {s : State} {a : Acc} {off v : Nat} {d : RegDef} {i j : Nat} (ha : admitted a = true)
    (hp : mpuOk s (Acc.mid a) (regSpace + off) 4 = true) (hf : findReg off = some (d, i, j)) (hb : d.base ≠ Reg.MBX_SEL)
    (hm : writeMask d i (privileged (touchUnit s d i) a) ≠ 0)
    (hx : fieldFault (touchUnit s d i) a 0 d i j (oldValue (touchUnit s d i) d off i)
      (mergeWrite d i (privileged (touchUnit s d i) a) (oldValue (touchUnit s d i) d off i) v) = none) :
    (writeWord s a 0 off v).1 = acceptWrite (touchUnit s d i) a 0 off d i j (oldValue (touchUnit s d i) d off i)
      (mergeWrite d i (privileged (touchUnit s d i) a) (oldValue (touchUnit s d i) d off i) v) := by
  have e : storeOff 0 off = off := by simp [storeOff]
  unfold oldValue mergeWrite at hx ⊢
  unfold writeWord
  simp only [ha, hp, hf, hb, hm, e, Bool.not_true, Bool.false_eq_true, if_false, hx]

/-- A 32-bit write of a register, none of whose rules it breaks. -/
theorem regWrite32_accept {s : State} {a : Acc} {off : Nat} {v : U32} {d : RegDef} {i j : Nat} (h : Reaches s a off)
    (h4 : inBootWindow off = false ∧ off % 4 = 0) (hf : findReg off = some (d, i, j)) (hb : d.base ≠ Reg.MBX_SEL)
    (hm : writeMask d i (privileged (touchUnit s d i) a) ≠ 0)
    (hx : fieldFault (touchUnit s d i) a 0 d i j (oldValue (touchUnit s d i) d off i)
      (mergeWrite d i (privileged (touchUnit s d i) a) (oldValue (touchUnit s d i) d off i) v.toNat) = none) :
    regWrite32 s a off v = acceptWrite (touchUnit s d i) a 0 off d i j (oldValue (touchUnit s d i) d off i)
      (mergeWrite d i (privileged (touchUnit s d i) a) (oldValue (touchUnit s d i) d off i) v.toNat) := by
  obtain ⟨h2, _, ha, hp⟩ := h
  rw [← writeWord_accept ha hp hf hb hm hx]
  simp [regWrite32, regWrite, h2, h4, sizeOk]

/-- A row's write, with the links and the wake around it. -/
theorem rowWrite_eq {s t : State} {a : Acc} {off : Nat} {v : U32} (e : regWrite32 s a off v = t)
    (hm : (onLinks s (fun _ => t)).sys.mode ≠ .dormant) : rowWrite s a off v = onLinks s (fun _ => t) := by
  have e2 : onLinks s (fun s => regWrite32 s a off v) = onLinks s (fun _ => t) := by simp only [onLinks, e]
  unfold rowWrite
  simp only [e2]
  split
  · exact tlpWakes_awake hm
  · rfl

/-- A row's write that moves no link, readies no function and puts the device in no other mode. -/
theorem rowWrite_still {s t : State} {a : Acc} {off : Nat} {v : U32} (e : regWrite32 s a off v = t) (hc : Still s t)
    (hr : t.sys.ready = s.sys.ready) (hm : t.sys.mode ≠ .dormant) : rowWrite s a off v = t := by
  have e2 : onLinks s (fun _ => t) = t := onLinks_still hc (by simp [State.peerUp, State.isReady, hr])
  rw [rowWrite_eq e (by rw [e2]; exact hm), e2]

end Machine
end Sys2Proof
end

