-- ==== Sys2Proof/Machine/Package.lean ====
section
/-! DEFINITION. The ball map of the package (R435 to R441): the signal of each ball, by its row index and column. -/

namespace Sys2Proof
namespace Machine

/-- The letters of the rows; I, O, Q, R, S, X and Z are skipped (R435). -/
def rowLetters : List String :=
  ["A", "B", "C", "D", "E", "F", "G", "H", "J", "K", "L", "M", "N", "P", "T", "U", "V", "W", "Y"]

/-- The name of row i (Table: row index). -/
def rowName (i : Nat) : String :=
  (if i < 19 then "" else if i < 38 then "A" else "B") ++ rowLetters.getD (i % 19) ""

/-- The name of a ball, such as BA13. -/
def ballOf (i c : Nat) : String := rowName i ++ toString c

/-- Table: DRAM tile; signals of a channel first, then the supplies. -/
def dramTile : List (List String) :=
  [["DQ0", "DQ1", "VSS", "DQ2", "DQ3", "VSS", "DMI0", "VDDQ"],
   ["DQ4", "DQ5", "VSS", "DQ6", "DQ7", "VSS", "RDQS0_T", "RDQS0_C"],
   ["WCK0_T", "WCK0_C", "VSS", "VDDQ", "VDD2H", "VSS", "CA0", "CA1"],
   ["CK_T", "CK_C", "VSS", "CS", "CA2", "CA3", "CA4", "VDD2H"],
   ["WCK1_T", "WCK1_C", "VSS", "VDDQ", "VDD2H", "VSS", "CA5", "CA6"],
   ["DQ8", "DQ9", "VSS", "DQ10", "DQ11", "VSS", "RDQS1_T", "RDQS1_C"],
   ["DQ12", "DQ13", "VSS", "DQ14", "DQ15", "VSS", "DMI1", "VDDQ"]]

/-- The channel and tile column of a ball in columns 1 to 16 and 49 to 56 (R437). -/
def dramCol (i c : Nat) : Nat × Nat :=
  if c < 9 then (i / 7, c - 1) else if c < 17 then (i / 7 + 8, c - 9) else (i / 7 + 16, c - 49)

/-- A ball of the DRAM zones (R437). -/
def dramBall (i c : Nat) : String :=
  let (ch, j) := dramCol i c
  let n := (dramTile.getD (i % 7) []).getD j ""
  if n == "VSS" || n == "VDDQ" || n == "VDD2H" then n else "MEM" ++ toString ch ++ "_" ++ n

/-- The pair with number q (Table: lane pair numbers). -/
def pairName (q : Nat) : Option String :=
  let yl := fun (l : Nat) => if l = 10 then "PL" else "YL" ++ toString l
  if q < 44 then some (yl (q / 4) ++ (if q % 4 < 2 then "_TX" else "_RX") ++ toString (q % 2))
  else if q < 76 then some ("DPO" ++ toString ((q - 44) / 4) ++ "_TX" ++ toString ((q - 44) % 4))
  else if q < 92 then some ("DPI" ++ toString ((q - 76) / 4) ++ "_RX" ++ toString ((q - 76) % 4))
  else if q < 108 then some ((if q % 2 = 0 then "PCIE_TX" else "PCIE_RX") ++ toString ((q - 92) / 2))
  else if q = 108 then some "PCIE_REFCLK"
  else none

/-- A ball of the serial lanes' zone (R438). -/
def laneBall (i c : Nat) : String :=
  match if i % 2 = 0 then pairName (16 * (i / 2) + (c - 17) / 2) else none with
  | some n => n ++ (if (c - 17) % 2 = 0 then "_P" else "_N")
  | none => "VSS"

/-- Table: low-speed pins, from column 17. -/
def rowBE : List String :=
  ["SYS_RST_N", "VSS", "WAKE_IN", "THERMTRIP_N", "PAIR_OWN_O", "PAIR_OWN_I", "PAIR_SEL_O", "PAIR_ROLE", "YL_HALF_RATE", "CLK_REF_SEL",
   "PCIE_EN", "TEST_EN", "PCIE_PERST_N", "VSS", "TCK", "TMS", "TDI", "TDO", "TRST_N", "VSS", "XTAL_IN", "XTAL_OUT", "VSS", "REF_CLK_P",
   "REF_CLK_N", "VSS", "RCAL_VPHY", "RCAL_FAB", "VSS", "VDD_AON", "VDD_AON", "VSS"]

/-- Three sideband balls of port k, from column 17 + 3k. -/
def sideband (port last : String) (k : Nat) : String :=
  port ++ toString (k / 3) ++ (if k % 3 = 0 then "_AUX_P" else if k % 3 = 1 then "_AUX_N" else last)

/-- A ball of rows BC to BF (R439). -/
def lowBall (i c : Nat) : String :=
  let io := if c % 2 = 1 then "VDD_IO" else "VSS"
  if i = 40 then (if c < 41 then sideband "DPO" "_HPD" (c - 17) else io)
  else if i = 41 then
    (if c < 29 then sideband "DPI" "_HPD_O" (c - 17)
     else if c < 37 then (if c % 2 = 1 then "MEM_RESET_N" else "MEM_ZQ") ++ toString ((c - 29) / 2)
     else io)
  else if i = 42 then rowBE.getD (c - 17) ""
  else if c % 2 = 1 then "VDD_EDGE" else "VSS"

/-- A ball of the touch ports (R440). -/
def touchBall (i c : Nat) : String :=
  let t := (c - 17) / 16
  let b := 16 * (i - 44) + (c - 17 - 16 * t)
  let tp := "TP" ++ toString t ++ "_"
  if b < 112 then tp ++ "D" ++ toString b
  else if b < 176 then tp ++ "S" ++ toString (b - 112)
  else if b = 176 then tp ++ "SHIELD"
  else if b < 180 then (if t = 0 then ["TCH_CP_FLYP", "TCH_CP_FLYN", "TCH_CP_OUT"].getD (b - 177) "" else "VDDA_TCH")
  else if b < 186 then "VDDA_TCH" else "VSS"

/-- The signal or supply of the ball in row i, column c (Table: ball zones). -/
def ballSignal (i c : Nat) : String :=
  let even := (i + c) % 2 == 0
  if c < 17 ∨ 48 < c then dramBall i c
  else if i < 16 then laneBall i c
  else if i = 16 then "VDD_SD"
  else if i = 17 then (if c % 2 = 1 then "VDDA_SD" else "VSS")
  else if i < 38 then (if even then "VDD_CORE" else "VSS")
  else if i < 40 then (if even then "VDD_SRAM" else "VSS")
  else if i < 44 then lowBall i c
  else touchBall i c

end Machine
end Sys2Proof
end

