-- ==== Sys2Proof/Tests/Slice0.lean ====
section
/-! SUPPORT. Tests of the model: helpers, the refusals of well-formedness, worked values of the specification, single steps, and for each
statement states and operands that meet its hypotheses. -/

set_option Elab.async false

namespace Sys2Proof.Tests
open Sys2Proof Sys2Proof.Machine

/-- A descriptor: its opcode, and fields at byte offsets. -/
def desc (op : Nat) (fs : List (Nat × Nat)) : BitVec 512 := BitVec.ofNat 512 (fs.foldl (fun a f => a + f.2 * 2 ^ (8 * f.1)) op)

/-- A ring command of PF0's ring 0. -/
def cmd (op : Nat) (fs : List (Nat × Nat)) : Cmd := { pf := 0, sq := 0, desc := desc op fs }

/-- An MPU region that allows every master everything. -/
def openRegion : MpuRegion := { en := true, lock := false, base := 0, lim := 0xFEFFFFF, mask := BitVec.ofNat 64 (2 ^ 64 - 1) }

/-- A device that is up: every function ready, every domain on, memory trained. -/
def live : State :=
  { State.reset with
    sys := { State.reset.sys with mode := .active, ready := 2 ^ 45 - 1, mpu := [(0, openRegion)],
                                  power := { State.reset.sys.power with on := 0x3FF } },
    dram := { State.reset.dram with trained := true, config := 4, segReady := 0xFF, lost := 0 } }

/-- The live device with a link in a state. -/
def linkIn (l : Nat) (st : LinkState) : State := live.setLink l { LinkRec.init with st := st }

/-- The live device with a link's record. -/
def withLink (l : Nat) (r : LinkRec) : State := live.setLink l r

/-- The live device without PCIe: no gateway. -/
def behind : State := { live with sys.ready := 2 ^ 45 - 2 }

/-- A link that is UP. -/
def upLink : LinkRec := { LinkRec.init with st := .up }

/-- A packet of a class for another device, and its CRC. -/
def packet (cls : Nat) : Packet := mkPacket 5 7 cls 1 3 0 2 (leBytes 32 0x1234)

/-- A time link that waits for the reply to the exchange of a sequence number. -/
def timeWaits (age : Nat) : State :=
  live.setTlink 2 { TimeLink.init with open_ := [(9, 1000, age)] }

/-- A device of a pair, its peer's link ready, in a pair state and a mode. -/
def paired (st : Nat) (m : Mode) : State :=
  { live with sys.mode := m,
              pair := { live.pair with enable := true, state := st, ownO := st == 2 || st == 3, selO := st == 3, claimFrom := 0 } }

/-- A MIRROR packet: its bytes of type, class, flags and so on, and the record ID, offset and total. -/
def mirrorPkt (ty cls fl st rid off total : Nat) (b : List Byte) : Packet :=
  mkPacket 5 7 clsMIRROR 0 0 0 2 (leBytes 1 ty ++ leBytes 1 cls ++ leBytes 1 fl ++ leBytes 1 st ++ leBytes 4 rid ++ leBytes 4 off ++ leBytes 4 total ++ b)

/-- A commit in progress. -/
def aCommit (c : Cmd) (stage outs left : Nat) : CommitRec :=
  { job := c.job, outs := outs, stage := stage, left := left, late := 0, skip := 0, recId := 0, sentAt := 0 }

/-- A PIPE block that turns pipe 7 on. -/
def pipeBlock : List Byte :=
  [1, 7, 0, 0] ++ leBytes 4 64 ++ List.replicate 8 0 ++ [1, 10, 1, 2] ++ leBytes 4 0x3FFFFFFF ++ leBytes 2 1024 ++ leBytes 2 64
    ++ List.replicate 36 0

/-- A LAYER block of pipe 7, layer 7: one static record of the last member, at the left and top. -/
def layerBlock : List Byte :=
  [2, 7, 7, 0] ++ leBytes 4 176 ++ List.replicate 8 0 ++ [2, 1, 0, 0] ++ List.replicate 108 0
    ++ ([63, 0, 0, 0, 0, 0, 0, 0] ++ leBytes 2 0 ++ leBytes 2 0 ++ leBytes 2 16 ++ leBytes 2 16 ++ List.replicate 32 0)

/-- The live device with all eight generators running. -/
def running : State :=
  (List.range 8).foldl (fun s n => s.setTg n { TgRec.init with running := true, cfg := { ModeCfg.init with idx := 1 } }) live


/-- A LAYER block of pipe 7, layer 7: one record of the last member that shows pool 255 of kind 0. -/
def poolLayer : List Byte :=
  [2, 7, 7, 0] ++ leBytes 4 176 ++ List.replicate 8 0 ++ [1, 1, 0, 0] ++ List.replicate 108 0
    ++ ([63, 0, 1, 0, 255, 0, 0, 0] ++ leBytes 2 0 ++ leBytes 2 0 ++ leBytes 2 64 ++ leBytes 2 64 ++ leBytes 2 0 ++ leBytes 2 0 ++ leBytes 2 64
        ++ leBytes 2 64 ++ List.replicate 24 0)

/-- A small surface: two buffers, its fence at 1 MiB. -/
def aSurf : SurfRec :=
  { format := 0x10, buffers := 2, reduce := 0, width := 64, height := 64, pitch := 256, base := 0x200000, stride := 0x8000, rpitch := 0, roff := 0,
    block := 0x100000 }

/-- All generators run, and output 7 shows the pool record. -/
def shows : State :=
  { running with cmp := { running.cmp with act := [(blockKey 1 7 0, pipeBlock), (blockKey 2 7 7, poolLayer)] } }

/-- Context 255 is open on engine 7 with a 64 KiB ring. -/
def streaming : State := live.setCtx 255 { CtxRec.init with state := 1, engine := 7, esSize := 65536, ctxBase := 0x300000, esBase := 0x400000 }

/-- Encode stream 7 is open with both outputs. -/
def encoding : State := live.setEnc 7 { EncRec.init with open_ := true, engine := 1, out := 3, width := 640, height := 480 }

/-- Output 7 is source-paced by the pool record, in mode 1. -/
def paced (clk : Nat) : State :=
  let s : State := { shows with surf.surfs := [(255, aSurf)], clk := clk }
  let s : State := s.setDp 7 { DpRec.init with trained := true, caps := { DpRec.init.caps with adaptive := true } }
  s.setTg 7 { TgRec.init with running := true, started := true, cfg := { ModeCfg.init with idx := 1, timing := 2, pace := 4095, paceMax := 16800000 } }

/-- Output 7 has a sink in training. -/
def sinking (rate lanes : Nat) : State :=
  running.setDp 7 { DpRec.init with hpd := true, training := true, caps := { DpRec.init.caps with maxRate := 3, maxLanes := 4 }, tryRate := rate,
                                    tryLanes := lanes }

/-- A touch port that scans, with its ENABLE set. -/
def touching (v : Nat) : State :=
  let s : State := live.setReg (tchOff Reg.EDG_TCH_CTRL 1) v
  s.setTch 1 { s.tch 1 with scanning := true, seed := true }

/-- PF1's last submission, completion and event rings are enabled, of 16 entries each, with coalescing. -/
def rings : State :=
  let s : State := live.setReg (ringOff Reg.HST_SQ_CTRL 1 63) 0x80040000
  let s : State := s.setReg (ringOff Reg.HST_CQ_CTRL 1 63) 0xC4000000
  s.setReg (evqOff 0 1 Reg.HST_EVQ_CTRL) 0xC4000000

/-- A request in flight from window 63, its SEQ 3. -/
def aReq (tries : Nat) : MReq :=
  { seq := 3, pkt := packet clsMGMT, tries := tries, sent := 0, win := 63, isRead := true, cmd := none, reader := none }

/-- A requester of device 7 on flow 1 with requests outstanding. -/
def asked (rs : List MReq) : State :=
  { live with fab.reqs := [(mgmtKey 1 7, { next := 4, open_ := rs, wait := [], resync := false })] }

/-- A response to the request above with a STATUS. -/
def respPkt (st : Nat) : Packet := mkPacket 5 7 clsMGMT 1 3 0 2 ([15, 0] ++ leBytes 1 st ++ leBytes 5 8 ++ List.replicate 8 0 ++ leBytes 8 77)

/-- A window that names a device. -/
def windows : State :=
  let s : State := live.setReg (Reg.FAB_GW_WIN + 0x20 * 63) 0x10000007
  s.setReg (Reg.HST_SQ_CTRL + 0x40 * 63) 0x80040000

/-- The state after a command. -/
def after (i : Instr) (s : State) : State := match exec i s with | .next t => t | _ => s

/-- A command DORMANT_ENTER that keeps the last 16 MiB of segment 0 for the resume area, and its record. -/
def sleepCmd : Cmd := cmd 0x70 [(16, 15), (18, 0x7FF), (24, 0x1000000)]
def sleepRec : DormRec :=
  { job := sleepCmd.job, wake := 15, links := 0x7FF, caps := [], posted := false, dead := false, image := none, events := [] }

/-- A device under DORMANT_ENTER, and one in DORMANT. -/
def entering : State := { live with sys.dorm := some sleepRec }
def asleep : State :=
  { live with sys := { live.sys with dorm := some { sleepRec with posted := true, image := some (imageOf live []) }, mode := .dormant } }

/-- A capture picture of 640 by 480 pixels. -/
def aMsa : Msa := { width := 640, height := 480, pclkHz := 25000000, periodNs := 16000000, lineNs := 30000, encoding := 0, bpc10 := false, bad := false }

/-- Capture port 3 is enabled and trained, with its pool of two buffers. -/
def capturing : State :=
  let s : State := live.setCap 3 { CapRec.init with enabled := true, trained := true, hpd := true, rateMax := 3, lanesMax := 4, width := 640,
                                                    height := 480, format := 0x20 }
  { s with surf.surfs := [(prodKey 1 3, { aSurf with format := 0x20, width := 640, height := 480, pitch := 1280, stride := 0x200000 })] }

/-- A channel's queue holds a read. -/
def reading (kind : Nat) : State := live.setChan 23 { ChanRec.init with queue := [{ kind := kind, mid := 8, addr := 0x1700, data := [1] }] }

/-- Every remaining slice was coded before: the projection has no free part. -/
theorem projection_coded {r : EncRec} {p : EncPic} {q x y : Nat}
    (h : ∀ i ∈ List.range (p.slices - p.next), (r.sizes.get? (p.next + i)).isSome = true) : projection r p q x = projection r p q y := by
  unfold projection
  generalize List.range (p.slices - p.next) = l at h ⊢
  generalize 0 = a
  induction l generalizing a with
  | nil => rfl
  | cons i l ih =>
    obtain ⟨v, hv⟩ := Option.isSome_iff_exists.mp (h i (by simp))
    simp only [List.foldl_cons, hv]
    exact ih (fun k hk => h k (by simp [hk])) _

/-- A picture being encoded of eight slices. -/
def aPic (st next : Nat) : EncPic :=
  { idr := false, keep := false, change := false, count := 3, epoch := 0, source := 7, slices := 8, next := next, used := 0, held := 0,
    firstHeld := 0, budget := 1000000, drain := 500000, state := st, qp := 30, qpSum := 0, qpCnt := 0, idx := 0, restart := false, level := 51 }

/-- Stream 7 codes output 7, each slice of a size before. -/
def coding (size : Nat) (cur : Option EncPic) : State :=
  running.setEnc 7 { EncRec.init with open_ := true, engine := 1, kind := 1, index := 7, width := 640, height := 480, out := 3, qpMin := 10, qpMax := 40,
                                      bitrate := 10000, mpxs := 1000, keepS := 1, sizes := (List.range 8).map (fun i => (i, size, 30)), cur := cur,
                                      lines := List.replicate 64 [] }

/-- A coded slice, and the size in bits its coding gives. -/
def aSlice (b : Nat) : CodedSlice := { bits := b, heldBits := 100 }

/-- A slice that waits to leave. -/
def waiting : SliceOut :=
  { sei := { uuid := seiUuid, size := 52, version := 1, flags := 0, origin := 0, source := 0, slice := 0, slices := 8, picCount := 0, picEpoch := 0, bandEpoch := 0, firstRow := 0,
             rows := 2, refreshN := 16, refreshIdx := 0, qp := 30 },
    code := .skipped, sets := none, restart := false }

/-- A host buffer of stream 7. -/
def aBuf : BufOut := { job := (cmd 0x23 [(16, 7), (24, 0x10000), (32, 65536)]).job, used := 0 }

/-- A picture's first parse, and a slice of it of 16 rows. -/
def aSps : SpsInfo :=
  { profile := .hevcMain, chroma := 1, depthY := 8, depthC := 8, tools := [], codedW := 64, codedH := 64, width := 64, height := 64, dpb := some 0,
    levelDpb := 0, reorder := some 0 }
def aPicInfo : PicInfo :=
  { sets := [.sps 0 aSps 33], sps := some 0, tools := [], nalType := 1, bytes := 50, next := some 10, output := true, poc := 0, keepBufs := [],
    release := [], irap := true, recovery := false, recovStart := false, sei := none }
def aSliceInfo (first rows done_ : Nat) : SliceInfo :=
  { bytes := 10, addr := first, firstRow := first, rows := rows, rowsDone := done_, fail := 0, ns := 0, luma := 1000, missingRef := false,
    intra := true, sei := none, px := [{ comp := 0, x := 0, y := first, v := [1, 2, 3] }], refs := [], rowNs := 100, lost := [], last := false, release := [] }

/-- Context 255 holds bytes of a picture. -/
def filled : State :=
  { streaming.setCtx 255 { streaming.ctx 255 with
      codec := 1, early := true, mpxs := 1000, maxW := 64, maxH := 64, fabric := true, src := 7, flow := 1,
      ring := [{ len := 100, gap := 0, epoch := 0, arrival := false, used := false, at_ := 0, starts := true, closes := true, ends := true, bare := false }] } with
    surf.surfs := [(255, aSurf), (prodKey 2 63, aSurf)] }

/-- Its picture, and the state in which engine 7 decodes it. -/
def decPic : DecPic :=
  { buf := 0, width := 64, height := 64, sps := aSps, lastAddr := none, inOrder := true, output := true, poc := 0, irap := true, recovery := false, recovStart := false, sei := none,
    epoch := 0, arrival := true, remote := false, startAt := 0, deadline := 0, published := 0, done := 0, nextRow := 0, slices := [], bands := [],
    aborted := false, subst := false, noted := false, rowNs := 0 }
def decoding : State :=
  pubStart ((filled.setCtx 255 { filled.ctx 255 with state := 2, cur := some decPic, lastStart := some 0 }).setEng 7
    { busy := some 255, waiting := false }) 255 aSurf decPic

/-- The picture with one slice at address 5 taken. -/
def midPic : DecPic :=
  { decPic with lastAddr := some 5, published := 16, done := 16, nextRow := 16, bands := [{ first := 0, rows := 16, flags := 0, epoch := 0, sig := 0 }] }
def midway : State := decoding.setCtx 255 { decoding.ctx 255 with cur := some midPic }
/-- A picture whose SPS no profile of the device covers. -/
def refusedPic : PicInfo := { aPicInfo with sets := [.sps 0 { aSps with profile := .other } 33] }

/-- A STREAM packet of 508 bytes, and a RASTER packet. -/
def streamPkt (seq fl : Nat) : Packet := mkPacket 5 7 clsSTREAM 1 seq 0 2 (leBytes 2 508 ++ leBytes 2 fl ++ List.replicate 508 1)
def rasterPkt (seq fl row : Nat) : Packet :=
  mkPacket 5 7 clsRASTER 1 seq 0 2 (leBytes 1 63 ++ leBytes 1 fl ++ leBytes 2 row ++ leBytes 4 0 ++ leBytes 8 77 ++ List.replicate 32 3)

/-- A staged image of 4 KiB with SVN 7, signed with the key whose hash OTP holds; a second implementation of the algorithms made its key, hash and
signature. -/
def signed : State :=
  let be : Nat → List Byte := fun n => (leBytes 48 n).reverse
  let m := memWrite [] 0 (leBytes 4 0x0824F1A0 ++ leBytes 4 1 ++ leBytes 4 4096 ++ leBytes 4 7)
  let m := memWrite m 32 ([4]
    ++ be 0x2ca8c560f92280756d4d4e5903043a370532b246669e6110b033f9ab150d51863208e24bd70ce3738d027638bbd54cd2
    ++ be 0x1fc91a81a4cd7ea2ab6c205986767e830926c1bbf7eff71c25a2245d787dd8cc01731db7c2d9b1f4ab7ce1959c83624f)
  let m := memWrite m 144
    (be 0xf43f21997c2ae29de689cfe1ab3affd903c51721cbb02a551d03ae9b8a90e503c4453df1607430c2528c8f5462eed767
    ++ be 0x904a63d0fcef2cfafee29d461f2daf77f55da9d415f52e27d424b98c04510316110558a00a999504a5c23718d2386f09)
  { live with
    sys.boot := { live.sys.boot with busy := true, verifying := true, pages := [(0, 1)], staging := m }
    otp.keyHash := be 0x3de46d69a8e02a18320d8223d5a256f9917184c9a74850a412b124da885e85c13322d4a44e66a6bc31be7210f9c5e77d }


/-- Three descriptors of PF0's ring 0: two fetched before the third. -/
def behind2 (op : Nat) (fs : List (Nat × Nat)) : State :=
  { live with host.inFlight := [{ job := (cmd 1 [(2, 1)]).job, started := true }, { job := (cmd op fs).job, started := false }] }

theorem memGet_above (m : List Host.Cell) (a : Nat) (h : ∀ e ∈ m, e.1 < a) : memGet m a = 0 := by
  induction m with
  | nil => rfl
  | cons e m ih =>
    have h1 := h e (by simp)
    simp only [memGet]
    rw [if_neg (by omega), ih (fun x hx => h x (by simp [hx]))]

theorem memRead_above (m : List Host.Cell) (n a : Nat) (h : ∀ e ∈ m, e.1 < a) : memRead m a n = List.replicate n 0 := by
  induction n generalizing a with
  | zero => rfl
  | succ n ih =>
    rw [memRead, memGet_above m a h, ih (a + 1) (fun e he => by have := h e he; omega)]
    rfl

theorem signed_rest : signed.sys.boot.part 256 (4096 - 256) = List.replicate 3840 0 :=
  memRead_above _ _ _ (by decide +kernel)

theorem signed_digest : sha384 (signed.sys.boot.part 0 144 ++ List.replicate 3840 0)
    = 0x1a0d804ba498b102497b19d7743273facce5bad96d1d0ecb0f63094c13e01b35a0c7b051262fcd882c7eb4998b9af787 := by decide +kernel

/-- The model's SHA-384 and P-384 accept a signature that a second implementation made (R265). -/
theorem test_signature : imageSigOk signed.sys.boot = true := by
  unfold imageSigOk
  rw [show signed.sys.boot.word 8 = 4096 by decide +kernel, signed_rest, signed_digest]
  decide +kernel

theorem signed_faults : imageFaults (copyChunk signed.sys.boot) signed.otp = [] := by
  have h : copyChunk signed.sys.boot = signed.sys.boot := rfl
  rw [h]
  unfold imageFaults
  rw [test_signature]
  decide +kernel


/-! ## Each check of well-formedness refuses an ill-formed command -/

theorem test_wf_opcode_mismatch : (Instr.fence (cmd 0x01 [])).wf = false := by decide +kernel
theorem test_wf_unknown_is_known : (Instr.unknownOpcode (cmd 0x01 [])).wf = false := by decide +kernel
theorem test_wf_register_size : (Instr.registerWrite .pf0 0 0 true 0).wf = false ∧ (Instr.registerWrite .pf0 0 9 true 0).wf = false := by decide +kernel
theorem test_wf_window_size : (Instr.windowAccess 0 false 0 true 9 true 0).wf = false := by decide +kernel
theorem test_wf_boot_size : (Instr.bootstrapWindowWrite .pf0 0 0 0).wf = false := by decide +kernel
theorem test_wf_packet_words : (Instr.packetReceive 0 ⟨0, [1, 2, 3]⟩ 0 false).wf = false := by decide +kernel
theorem test_wf_request_words : (Instr.mgmtRequest none ⟨0, [1]⟩).wf = false := by decide +kernel
theorem test_wf_resp_words : (Instr.resp ⟨none, ⟨0, [1]⟩⟩).wf = false := by decide +kernel
theorem test_wf_event_words : (Instr.eventPacket ⟨0, [1]⟩).wf = false := by decide +kernel
theorem test_wf_stream_length : (Instr.streamDemux ⟨0, List.replicate 516 0⟩).wf = false := by decide +kernel
theorem test_wf_raster_length : (Instr.rasterPacket ⟨0, List.replicate 516 0⟩).wf = false := by decide +kernel
theorem test_wf_mirror_words : (Instr.mirrorPacket ⟨0, [1]⟩).wf = false := by decide +kernel
theorem test_wf_ack_words : (Instr.mirrorAck ⟨0, [1]⟩).wf = false := by decide +kernel
theorem test_wf_request_data : (Instr.memoryRequest 1 0 4 true [1]).wf = false := by decide +kernel
theorem test_wf_densities : (Instr.memoryTrainingEnd [16] ⟨[], []⟩).wf = false := by decide +kernel
theorem test_wf_sensors : (Instr.thermalGovernor [50]).wf = false := by decide +kernel
theorem test_wf_scan : (Instr.scanCycle 0 [] [] []).wf = false := by decide +kernel
theorem test_wf_wake_scan : (Instr.wakeScan [] []).wf = false := by decide +kernel
theorem test_wf_sink_lanes : (Instr.sinkLinkTraining 0 true 0 3).wf = false := by decide +kernel
theorem test_wf_holds : (Instr.nop (cmd 0x01 [(16, 7)])).wf = true ∧ (Instr.unknownOpcode (cmd 0x03 [])).wf = true := by decide +kernel

/-! ## The words of the table -/

/-- The table gives no row any bits: no word spells a command, and the queue stays. -/
theorem test_no_word : decodeTableWord 512 1 = none ∧ State.reset.withFetchWord 512 1 = State.reset := by decide +kernel

/-! ## Worked values of the specification -/

/-- R293: A = 0x00_1234_5678 in the 48 GiB configuration. -/
theorem test_dram_map : (let x := dramMap 4 0x0012345678; (x.ch, x.bank, x.row, x.slot, x.seg)) = (6, 6, 443, 13, 0) := by decide +kernel

/-- FIPS 180-4's own example: the SHA-384 of "abc". -/
theorem test_sha384 : sha384 [0x61, 0x62, 0x63]
    = 0xcb00753f45a35e8bb5a03d699ac65007272c32ab0eded1631a8b605a43ff5bed8086072ba1e7cc2358baeca134c825a7 := by decide +kernel

/-- R435 to R440: balls of the worked list, one of each part of the map. -/
theorem test_balls : ballOf 0 47 = "A47" ∧ ballSignal 0 47 = "YL3_RX1_P" ∧ ballSignal 8 21 = "DPO5_TX2_P" ∧ ballSignal 12 39 = "PCIE_RX7_P"
    ∧ ballSignal 38 13 = "MEM13_CA2" ∧ ballSignal 52 37 = "TP1_S20" := by decide +kernel

/-- Worked example "The CRC of a black gutter": the CRC-32 of 32 zero bytes. -/
theorem test_crc_black : crc32 (List.replicate 32 0) = 0x190A55AD := by decide +kernel

/-- The same example: what a pixel of 10-bit codes contributes. -/
theorem test_crc_pixel : crcPx 10 (0x3FF, 0x200, 0) = [0xFC, 0x0F, 0x00, 0x08, 0, 0, 0, 0] := by decide +kernel

/-- Worked example "One operator screen on a wall tile": 9,100,000 ns and U = 120 round up to 92 units; n + 19 reads 3,258. -/
theorem test_age : ageUnits 9100000 0 120 = 92 ∧ ageUnits 25766667 0 120 = 258 ∧ ageUnits 59100000 0 120 = 592 ∧ ageUnits 325766667 0 120 = 3258 := by
  decide +kernel

/-- The same example: 500 units do not exceed 50 ms, 592 do; 2,092 exceed 200 ms; a saturated age exceeds every threshold. -/
theorem test_exceeds : exceeds 500 50 = false ∧ exceeds 592 50 = true ∧ exceeds 2092 200 = true ∧ exceeds 0xFFFFF 0xFFFFFF = true := by decide +kernel

/-- Worked example "Two wall devices seven hops apart": MODE_SET applied at 7,200,004,100,000 starts at k = 2; frame 1,000,002's start. -/
theorem test_phase_grid :
    let c : ModeCfg := { ModeCfg.init with t0 := 7200000000000, pNum := 50000000, pDen := 3 }
    firstLocked c 7200004100000 = 2 ∧ nominalStart c 2 = 7200033333333 ∧ nominalStart c 1000002 = 23866700000000 := by decide +kernel

/-- Worked example "A touch on a live operator screen": the contact's output point. -/
theorem test_touch_point :
    mapPoint { out := 1, orient := 1, px0 := 0, py0 := 0, px1 := 1023, py1 := 1791, ox := 0, oy := 0, ow := 1920, oh := 1080 } 400 1000
      = some (1071, 421) := by decide +kernel

/-- The same example: cycle 864,000 starts at 7,200,000,000,000 and its sense time is 2,880 µs later. -/
theorem test_sense_time : cycleStart 864000 = 7200000000000 ∧ senseTime live 0 864000 = 7200002880000 := by decide +kernel

/-! ## One step each -/

/-- What the oldest completion says. -/
def firstDone (s : State) : Option (Status × Nat × U64) := (s.host.done.head?).map (fun d => (d.status, d.tag, d.result))

/-- R456: NOP answers its DATA, and R279 a nonzero reserved byte. -/
theorem test_nop : firstDone (after (.nop (cmd 1 [(16, 3)])) { live with sys.ready := 0 }) = some (.done, 0, 3)
    ∧ firstDone (after (.nop (cmd 1 [(2, 0x1234), (16, 0x8877665544332211)])) live) = some (.done, 0x1234, 0x8877665544332211)
    ∧ firstDone (after (.nop (cmd 1 [(24, 1)])) live) = some (.badDescriptor, 0, 0) := by decide +kernel

/-- R278. -/
theorem test_unknown : firstDone (after (.unknownOpcode (cmd 0x03 [])) live) = some (.unsupported, 0, 0) := by decide +kernel

/-- R263: before MGMT is ready, NOT_READY; R259: a PF0-only opcode on PF1's ring. -/
theorem test_not_ready : firstDone (after (.fumPolicy (cmd 0x40 [])) { live with sys.ready := 0 }) = some (.notReady, 0, 0)
    ∧ firstDone (after (.serviceExit { pf := 1, sq := 0, desc := desc 0x7F [] }) live) = some (.denied, 0, 0) := by decide +kernel

/-- R319: a write of an offset without a register does nothing; R318: one of three bytes is counted in SYS_RAF_CNT. -/
theorem test_register_write : (after (.registerWrite .pf0 0x1FFFFC 4 true 5) live).regs = live.regs
    ∧ (after (.registerWrite .pf0 0 3 true 5) live).cnt Reg.SYS_RAF_CNT = 1 := by decide +kernel

/-- R268: at enable head and tail are 0. -/
theorem test_ring_enable : ((after (.ringEnable .pf0 0 (.sq 0) 0x80040000) live).sq 0 0).head = 0
    ∧ bit ((after (.ringEnable .pf0 0 (.sq 0) 0x80040000) live).sqCtrl 0 0) 31 = true := by decide +kernel

/-- R346 and R352: EDG_PAIR_CTRL.RELEASE of the owner lowers both pins. -/
theorem test_release : (after (.pairRelease .pf0 2) (paired 3 .active)).pair.selO = false
    ∧ (after (.pairRelease .pf0 2) (paired 3 .active)).pair.ownO = false := by decide +kernel

/-- R295, R296: a partial write is visible at once and touches no other byte. -/
theorem test_memory_request : memGet (after (.memoryRequest 8 0x1001 2 true [7, 9]) live).mem 0x1002 = 9
    ∧ memGet (after (.memoryRequest 8 0x1001 2 true [7, 9]) live).mem 0x1003 = 0 := by decide +kernel

/-- R297: an access above the usable capacity is dropped and counted. -/
theorem test_out_of_memory : (after (.memoryRequest 8 0x7FFFFFFFC0 1 true [7]) live).mem = live.mem
    ∧ (after (.memoryRequest 8 0x7FFFFFFFC0 1 true [7]) live).cnt Reg.MEM_ADDR_ERR_CNT = 1 := by decide +kernel

/-- R107: ENABLE 0 takes a link to DISABLED from any state. -/
theorem test_link_disable : ((after (.linkEnable .pf0 3 0) (linkIn 3 .up)).link 3).st = .disabled := by decide +kernel

/-- R288: a full reset by SYS_RST_N comes up in BRINGUP. -/
theorem test_full_reset : (after (.fullReset .sysRstN) live).sys.mode = .bringup ∧ (after (.fullReset .sysRstN) live).sys.ready = 0 := by decide +kernel

/-- On an empty queue a step is one tick (log entry 2). -/
theorem test_idle : step live = .next (tick live) := rfl


/-! ## States and operands that meet the hypotheses of the statements -/


/-! StepRunsTheFrontCommand -/

theorem met_StepRunsTheFrontCommand_2 : ∃ s : State, s.pending = [] ∧ heldNext s = none := ⟨live, by decide +kernel⟩
theorem met_StepRunsTheFrontCommand_3 : ∃ (s : State) (k : Nat) (i : Instr), s.pending = [] ∧ s.held[k]? = some i
    ∧ (∀ c, ringCmd i = some c → blocked s (s.held.take k) i c.job = false)
    ∧ ∀ m x, m < k → s.held[m]? = some x → ∃ d, ringCmd x = some d ∧ blocked s (s.held.take m) x d.job = true := by
  refine ⟨{ live with commits := [aCommit (cmd 0x31 [(16, 0xFF)]) 0 0xFF 0],
                      held := [.fumBind (cmd 0x41 [(16, 1), (18, 4095)]), .nop { pf := 1, sq := 1, desc := desc 1 [] }] }, 1,
    .nop { pf := 1, sq := 1, desc := desc 1 [] }, by decide +kernel, by decide +kernel, ?_, ?_⟩
  · intro c h
    cases h
    decide +kernel
  · intro m x hm hx
    obtain rfl : m = 0 := by omega
    cases hx
    exact ⟨_, rfl, by decide +kernel⟩
theorem met_StepRunsTheFrontCommand_4 : ∃ s : State, s.pending = [] ∧ heldNext s = none ∧ s.pair.state ≠ 2 ∧ s.mir.late = [] ∧ s.dram.ingress = []
    ∧ ∀ p, p < 4 → (s.cap p).trained = false ∨ s.clk + 1 < (s.cap p).scanAt := ⟨live, by decide +kernel⟩

/-! EveryCommandKeepsMemoryCanonical -/

theorem met_EveryCommandKeepsMemoryCanonical_1 : ∃ s : State, Memory.wf s.mem = true := ⟨live, by decide +kernel⟩

/-! PinsFollowTheStateAndTheBarStays -/

theorem met_PinsFollowTheStateAndTheBarStays_1 : ∃ (i : Instr) (s t : State), exec i s = .next t
    ∧ (s.pair.ownO = (s.pair.state == 2 || s.pair.state == 3) ∧ s.pair.selO = (s.pair.state == 3)) ∧ s.pair.barred = true :=
  ⟨.nop (cmd 1 []), { live with pair.barred := true }, after (.nop (cmd 1 [])) { live with pair.barred := true }, rfl, by decide +kernel⟩

/-! IdentityAndLocksStay -/

theorem met_IdentityAndLocksStay_1 : ∃ (i : Instr) (s t : State) (r : Nat) (g : MpuRegion), exec i s = .next t ∧ s.sys.mpu.get? r = some g
    ∧ g.lock = true :=
  ⟨.nop (cmd 1 []), { live with sys.mpu := [(0, { openRegion with lock := true })] },
    after (.nop (cmd 1 [])) { live with sys.mpu := [(0, { openRegion with lock := true })] }, 0, { openRegion with lock := true }, rfl, by decide +kernel⟩

/-! DeniedMemoryStays -/

theorem met_DeniedMemoryStays_1 : ∃ (i : Instr) (s t : State) (x : Nat), exec i s = .next t ∧ s.dram.ingress = []
    ∧ (∀ e ∈ s.chans, e.2.queue = []) ∧ ¬ Resets i
    ∧ i ≠ .dormantPowerDown ∧ i ≠ .thermalCut ∧ (∀ b, i ≠ .resume b) ∧ (∀ d o, i ≠ .memoryTrainingEnd d o) ∧ ∀ mid, mpuOk s mid x 1 = false := by
  refine ⟨.nop (cmd 1 []), { live with sys.mpu := [] }, after (.nop (cmd 1 [])) { live with sys.mpu := [] }, 0, rfl, by decide +kernel, by decide +kernel, ?_, ?_, ?_,
    ?_, ?_, ?_⟩ <;> simp [Resets, mpuOk, mpuAllows, regSpace]

/-! QueueStaysAndOutputGrows -/

theorem met_QueueStaysAndOutputGrows_1 : ∃ (i : Instr) (s t : State), exec i s = .next t := ⟨.aonReset, live, after .aonReset live, rfl⟩

/-! RefusedCommandsHaveNoEffect -/

theorem met_RefusedCommandsHaveNoEffect_1 : ∃ (s : State) (c : Cmd), blocked s s.held (.serviceExit c) c.job = false
    ∧ (serviceExitSpec (begun s c) c.job).pf0 = true ∧ c.job.pf ≠ 0 :=
  ⟨live, { pf := 1, sq := 0, desc := desc 0x7F [] }, by decide +kernel⟩
theorem met_RefusedCommandsHaveNoEffect_2 : ∃ (s : State) (c : Cmd), blocked s s.held (.surfacePool c) c.job = false
    ∧ (s.isReady 1 = false ∨ (surfacePoolSpec (begun s c) c.job).ready = false) :=
  ⟨{ live with sys.ready := 2 }, cmd 0x18 [], by decide +kernel⟩
theorem met_RefusedCommandsHaveNoEffect_3 : ∃ (s : State) (c : Cmd), blocked s s.held (.surfacePool c) c.job = false
    ∧ s.isReady 1 = true ∧ (surfacePoolSpec (begun s c) c.job).ready = true
    ∧ (headerOk c.job = false ∨ (surfacePoolSpec (begun s c) c.job).body = false) :=
  ⟨live, cmd 0x18 [(23, 1)], by decide +kernel⟩
theorem met_RefusedCommandsHaveNoEffect_4 : ∃ (s : State) (c : Cmd) (r : Refuse), blocked s s.held (.surfacePool c) c.job = false
    ∧ s.isReady 1 = true ∧ (surfacePoolSpec (begun s c) c.job).ready = true
    ∧ headerOk c.job = true ∧ (surfacePoolSpec (begun s c) c.job).body = true
    ∧ (surfacePoolSpec (begun s c) c.job).own.findSome? id = some r ∧ r.deny = none :=
  ⟨live, cmd 0x18 [(16, 1)], ((surfacePoolSpec (begun live (cmd 0x18 [(16, 1)])) (cmd 0x18 [(16, 1)]).job).own.findSome? id).get (by decide +kernel),
    by decide +kernel⟩
theorem met_RefusedCommandsHaveNoEffect_5 : ∃ (s : State) (c : Cmd), blocked s s.held (.unknownOpcode c) c.job = false :=
  ⟨live, cmd 0xFF [], by decide +kernel⟩
theorem met_RefusedCommandsHaveNoEffect_6 : ∃ (s : State) (c : Cmd), blocked s s.held (.nop c) c.job = false
    ∧ (headerOk c.job = false ∨ c.job.zero [(24, 40)] = false) := ⟨live, cmd 1 [(63, 1)], by decide +kernel⟩
theorem met_RefusedCommandsHaveNoEffect_7 : ∃ (s : State) (c : Cmd), blocked s s.held (.fence c) c.job = false
    ∧ (headerOk c.job = false ∨ c.job.zero [(17, 47)] = false ∨ c.job.n 16 1 > 1) := ⟨live, cmd 2 [(16, 2)], by decide +kernel⟩
theorem met_RefusedCommandsHaveNoEffect_8 : ∃ (s : State) (c : Cmd) (r : Refuse), blocked s s.held (.memRead c) c.job = false
    ∧ s.isReady 1 = true ∧ (memReadSpec (begun s c) c.job).ready = true
    ∧ headerOk c.job = true ∧ (memReadSpec (begun s c) c.job).body = true
    ∧ (memReadSpec (begun s c) c.job).own.findSome? id = some r ∧ r.deny ≠ none :=
  ⟨{ live with sys.mpu := [] }, cmd 0x75 [(16, 1), (20, 64), (24, 0x1000), (32, 0x10000)],
    ((memReadSpec (begun { live with sys.mpu := [] } (cmd 0x75 [(16, 1), (20, 64), (24, 0x1000), (32, 0x10000)]))
      (cmd 0x75 [(16, 1), (20, 64), (24, 0x1000), (32, 0x10000)]).job).own.findSome? id).get (by decide +kernel), by decide +kernel⟩

/-! OrderedCommandsWait -/

theorem met_OrderedCommandsWait_1 : ∃ (s : State) (i : Instr) (c : Cmd), ringCmd i = some c ∧ blocked s s.held i c.job = true :=
  ⟨{ live with sys.power.on := 0 }, .nop (cmd 1 []), cmd 1 [], by decide +kernel⟩
theorem met_OrderedCommandsWait_2 : ∃ (s : State) (c : Cmd) (e : Flight), e ∈ earlier s c.job ∧ sameRing e.job c.job = true ∧ e.started = false :=
  ⟨{ live with host.inFlight := [{ job := (cmd 1 [(2, 1)]).job, started := false }, { job := (cmd 1 []).job, started := false }] }, cmd 1 [],
    { job := (cmd 1 [(2, 1)]).job, started := false }, by decide +kernel⟩
theorem met_OrderedCommandsWait_3 : ∃ (s : State) (c : Cmd) (e : Flight), e ∈ earlier s c.job ∧ sameRing e.job c.job = true
    ∧ (c.job.opcode = 0x02 ∧ c.job.n 16 1 = 0 ∨ bit (c.job.n 1 1) 0 = true) :=
  ⟨behind2 2 [], cmd 2 [], { job := (cmd 1 [(2, 1)]).job, started := true }, by decide +kernel⟩
theorem met_OrderedCommandsWait_4 : ∃ (s : State) (c : Cmd) (e : Flight), e ∈ earlier s c.job ∧ e.job.pf = c.job.pf ∧ c.job.opcode = 0x02
    ∧ c.job.n 16 1 = 1 :=
  ⟨behind2 2 [(16, 1)], cmd 2 [(16, 1)], { job := (cmd 1 [(2, 1)]).job, started := true }, by decide +kernel⟩
theorem met_OrderedCommandsWait_5 : ∃ (s : State) (i : Instr) (c : Cmd) (p : Nat), ringCmd i = some c ∧ p ∈ namedPipes s i ∧ pipeBusy s p = true :=
  ⟨{ live with commits := [aCommit (cmd 0x31 [(16, 0xFF)]) 0 0xFF 0] }, .fumBind (cmd 0x41 [(16, 1), (18, 4095)]),
    cmd 0x41 [(16, 1), (18, 4095)], 7, by decide +kernel⟩
theorem met_OrderedCommandsWait_6 : ∃ (s : State) (i : Instr) (c : Cmd), ringCmd i = some c ∧ earlier s c.job = [] ∧ s.held = [] ∧ s.pdOn 2 = true
    ∧ s.sys.dorm = none ∧ (s.tg (c.job.n 16 1)).jobs = [] ∧ (∀ p, p ∈ namedPipes s i → pipeBusy s p = false)
    ∧ ∀ w, w ∈ s.host.dma → w.job.opcode ≠ 0x30 :=
  ⟨live, .commit (cmd 0x31 [(16, 0xFF)]), cmd 0x31 [(16, 0xFF)], by decide +kernel⟩
theorem met_OrderedCommandsWait_7 : ∃ (s : State) (i : Instr) (c : Cmd) (w : DmaWait), ringCmd i = some c ∧ w ∈ s.host.dma ∧ w.job.opcode = 0x30
    ∧ namedPipes s i ≠ [] :=
  ⟨{ live with host.dma := [{ job := (cmd 0x30 [(24, 64)]).job, parts := [], ended := none }] }, .fumBind (cmd 0x41 [(16, 1), (18, 4095)]),
    cmd 0x41 [(16, 1), (18, 4095)], { job := (cmd 0x30 [(24, 64)]).job, parts := [], ended := none }, by decide +kernel⟩

/-! NopAndUnknownOpcodesComplete -/

theorem met_NopAndUnknownOpcodesComplete_1 : ∃ (s : State) (c : Cmd), (c.job.opcode = 0x01) ∧ (blocked s s.held (.nop c) c.job = false) :=
  ⟨live, cmd 1 [(16, 0xFFFFFFFFFFFFFFFF)], by decide +kernel⟩
theorem met_NopAndUnknownOpcodesComplete_2 : ∃ (s : State) (c : Cmd), (blocked s s.held (.unknownOpcode c) c.job = false) :=
  ⟨live, cmd 0 [], by decide +kernel⟩

/-! FencesCompleteAndCopiesMoveBytes -/

theorem met_FencesComplete_1 : ∃ (s : State) (c : Cmd), (c.job.opcode = 0x02) ∧ (blocked s s.held (.fence c) c.job = false) :=
  ⟨live, cmd 2 [(16, 1)], by decide +kernel⟩
theorem met_CopiesMoveBytes_1 : ∃ (s : State) (c : Cmd) (buf : List Byte),
    let j := c.job
    (Memory.wf s.mem = true) ∧ (s.dram.frozen = none) ∧ (s.dram.selfRefresh = false) ∧ (blocked s s.held (.memWrite c buf) c.job = false)
      ∧ (firstRefusal (begun s c) c.job ((fun s j => memWriteSpec s j) (begun s c) c.job) = none) ∧ ((j.n 16 1 = 0 ∨ BytesHere s)) :=
  ⟨live, cmd 0x74 [(20, 32), (24, 0x1000), (32, 0x99)], [], by decide +kernel⟩
theorem met_CopiesMoveBytes_2 : ∃ (s : State) (c : Cmd) (buf : List Byte),
    let j := c.job
    (Memory.wf s.mem = true) ∧ (s.dram.frozen = none) ∧ (s.dram.selfRefresh = false) ∧ (blocked s s.held (.memWrite c buf) c.job = false)
      ∧ (firstRefusal (begun s c) c.job ((fun s j => memWriteSpec s j) (begun s c) c.job) = none) ∧ (j.n 16 1 = 1) ∧ (s.isGateway = false)
      ∧ (s.fab.claimed = true) :=
  ⟨{ behind with fab.claimed := true, fab.domain := 5 }, cmd 0x74 [(16, 1), (20, 64), (24, 0x1000), (32, 0x10000)], [], by decide +kernel⟩
theorem met_CopiesMoveBytes_3 : ∃ (s : State) (c : Cmd) (buf : List Byte),
    let j := c.job
    (Memory.wf s.mem = true) ∧ (s.dram.frozen = none) ∧ (s.dram.selfRefresh = false) ∧ (blocked s s.held (.memRead c) c.job = false)
      ∧ (firstRefusal (begun s c) c.job ((fun s j => memReadSpec s j) (begun s c) c.job) = none) ∧ (s.isGateway = true) ∧ (dmaOpen s j = false) :=
  ⟨live, cmd 0x75 [(16, 1), (20, 64), (24, 0x1000), (32, 0x10000)], [], by decide +kernel⟩
theorem met_CopiesMoveBytes_4 : ∃ (s : State) (c : Cmd) (buf : List Byte),
    let j := c.job
    (Memory.wf s.mem = true) ∧ (s.dram.frozen = none) ∧ (s.dram.selfRefresh = false) ∧ (blocked s s.held (.memRead c) c.job = false)
      ∧ (firstRefusal (begun s c) c.job ((fun s j => memReadSpec s j) (begun s c) c.job) = none) ∧ (s.isGateway = false) ∧ (s.fab.claimed = true) :=
  ⟨{ behind with fab.claimed := true, fab.domain := 5 }, cmd 0x75 [(16, 1), (20, 512), (24, 0x1000), (32, 0x10000)], [], by decide +kernel⟩
theorem met_CopiesMoveBytes_5 : ∃ (s : State) (c : Cmd) (buf : List Byte),
    let j := c.job
    (Memory.wf s.mem = true) ∧ (s.dram.frozen = none) ∧ (s.dram.selfRefresh = false) ∧ (blocked s s.held (.memRead c) c.job = false)
      ∧ (firstRefusal (begun s c) c.job ((fun s j => memReadSpec s j) (begun s c) c.job) = none) ∧ (s.isGateway = false) ∧ (s.fab.claimed = false)
      ∧ (dmaOpen s j = false) :=
  ⟨behind, cmd 0x75 [(16, 1), (20, 64), (24, 0x1000), (32, 0x10000)], [], by decide +kernel⟩

/-! ServiceAndDormantAreEntered -/

theorem met_ServiceIsEnteredAndLeft_1 : ∃ (s : State) (c : Cmd),
    (blocked s s.held (.serviceEnter c) c.job = false) ∧ (firstRefusal (begun s c) c.job (serviceEnterSpec (begun s c) c.job) = none) :=
  ⟨live, cmd 0x7E [(16, 1), (24, 0x100000), (32, 0x100000)], by decide +kernel⟩
theorem met_ServiceIsEnteredAndLeft_2 : ∃ (s : State) (c : Cmd),
    (blocked s s.held (.serviceExit c) c.job = false) ∧ (firstRefusal (begun s c) c.job (serviceExitSpec (begun s c) c.job) = none) :=
  ⟨{ live with sys.mode := .service }, cmd 0x7F [], by decide +kernel⟩
theorem met_DormantIsBegun_1 : ∃ (s : State) (c : Cmd),
    (blocked s s.held (.dormantEnter c) c.job = false) ∧ (firstRefusal (begun s c) c.job (dormantEnterSpec (begun s c) c.job) = none)
      ∧ ((s.pair.ownO = (s.pair.state == 2 || s.pair.state == 3) ∧ s.pair.selO = (s.pair.state == 3))) :=
  ⟨(paired 3 .active).setReg Reg.MEM_PASR_RETAIN 0xFF, cmd 0x70 [(16, 2), (18, 0x7FF), (24, 0x1000000)], by decide +kernel⟩

/-! StreamsOpenAndAreEmptied -/

theorem met_StreamsOpenOnAnEngine_1 : ∃ (s : State) (c : Cmd),
    (blocked s s.held (.streamOpen c) c.job = false) ∧ (firstRefusal (begun s c) c.job (streamOpenSpec (begun s c) c.job) = none) :=
  ⟨{ live with surf.surfs := [(255, aSurf)] }, cmd 0x10 [(16, 255), (17, 255), (18, 1), (22, 1), (24, 4096), (26, 64), (32, 100), (36, 1000), (40, 4096), (48, 0x100000), (56, 0x10000)], by decide +kernel⟩
theorem met_FlushAndCloseEmptyContexts_1 : ∃ (s : State) (c : Cmd),
    (blocked s s.held (.streamFlush c) c.job = false) ∧ (firstRefusal (begun s c) c.job (flushSpec (begun s c) c.job) = none) :=
  ⟨streaming, cmd 0x13 [(16, 255)], by decide +kernel⟩
theorem met_FlushAndCloseEmptyContexts_2 : ∃ (s : State) (c : Cmd),
    let j := c.job
    (blocked s s.held (.streamClose c) c.job = false) ∧ (firstRefusal (begun s c) c.job (closeSpec (begun s c) c.job) = none)
      ∧ (bit (j.n 17 1) 0 = false) :=
  ⟨streaming, cmd 0x12 [(16, 255)], by decide +kernel⟩
theorem met_FlushAndCloseEmptyContexts_3 : ∃ (s : State) (c : Cmd),
    let j := c.job
    let i := j.n 16 1
    (blocked s s.held (.streamClose c) c.job = false) ∧ (firstRefusal (begun s c) c.job (closeSpec (begun s c) c.job) = none) ∧ (bit (j.n 17 1) 0 = true)
      ∧ (((s.ctx i).cur ≠ none ∨ (s.ctx i).ring ≠ [] ∨ (s.ctx i).feeds ≠ [])) :=
  ⟨streaming.setCtx 255 { streaming.ctx 255 with feeds := [{ job := (cmd 0x11 [(16, 255), (32, 65537)]).job, buf := List.replicate 65537 1, here := true, sets := ⟨[], [], true⟩, arrived := 0 }] }, cmd 0x12 [(16, 255), (17, 1)], by decide +kernel⟩
theorem met_FlushAndCloseEmptyContexts_4 : ∃ (s : State) (c : Cmd),
    let j := c.job
    let i := j.n 16 1
    (blocked s s.held (.streamClose c) c.job = false) ∧ (firstRefusal (begun s c) c.job (closeSpec (begun s c) c.job) = none) ∧ (bit (j.n 17 1) 0 = true)
      ∧ ((s.ctx i).cur = none) ∧ ((s.ctx i).ring = []) ∧ ((s.ctx i).feeds = []) :=
  ⟨streaming, cmd 0x12 [(16, 255), (17, 1)], by decide +kernel⟩

/-! FeedsFillTheRingAndPoolsAreSet -/

theorem met_FeedsFillTheRing_1 : ∃ (s : State) (c : Cmd) (buf : List Byte) (sets : FeedSets),
    let j := c.job
    let i := j.n 16 1
    let len := j.n 32 4
    (blocked s s.held (.streamFeed c buf sets) c.job = false) ∧ (firstRefusal (begun s c) c.job (feedSpec (begun s c) c.job) = none) ∧ (BytesHere s)
      ∧ ((s.ctx i).feeds = []) ∧ ((s.ctx i).occ + len ≤ (s.ctx i).esSize) :=
  ⟨streaming, cmd 0x11 [(16, 255), (24, 0x1000), (32, 65536)], [1], { lead := [.bad 33], rest := [], slices := true }, by decide +kernel⟩
theorem met_FeedsFillTheRing_2 : ∃ (s : State) (c : Cmd) (buf : List Byte) (sets : FeedSets),
    let j := c.job
    let i := j.n 16 1
    let len := j.n 32 4
    (blocked s s.held (.streamFeed c buf sets) c.job = false) ∧ (firstRefusal (begun s c) c.job (feedSpec (begun s c) c.job) = none) ∧ (BytesHere s)
      ∧ (((s.ctx i).feeds = [] ∧ (s.ctx i).occ + len > (s.ctx i).esSize ∨ ∃ f fs, (s.ctx i).feeds = f :: fs ∧ (f.here = false ∨ (s.ctx i).occ + f.buf.length > (s.ctx i).esSize) ∧ ∀ g ∈ f :: fs, g.job ≠ j)) :=
  ⟨streaming.setCtx 255 { streaming.ctx 255 with ring := [{ len := 1, gap := 0, epoch := 0, arrival := false, used := false, at_ := 0, starts := false, closes := false, ends := false, bare := false }] }, cmd 0x11 [(16, 255), (24, 0x1000), (32, 65536)], [1], { lead := [.bad 33], rest := [], slices := true }, by decide +kernel, by decide +kernel, by decide +kernel, Or.inl (by decide +kernel)⟩
theorem met_FeedsFillTheRing_3 : ∃ (s : State) (c : Cmd) (buf : List Byte) (sets : FeedSets),
    (blocked s s.held (.streamFeed c buf sets) c.job = false) ∧ (firstRefusal (begun s c) c.job (feedSpec (begun s c) c.job) = none)
      ∧ (s.isGateway = false) ∧ (s.fab.claimed = true) :=
  ⟨({ streaming with sys.ready := 2 ^ 45 - 2, fab.claimed := true, fab.domain := 5 } : State), cmd 0x11 [(16, 255), (24, 0x1000), (32, 65536)], [1], { lead := [.bad 33], rest := [], slices := true }, by decide +kernel⟩
theorem met_PoolsAreSetAndReleased_1 : ∃ (s : State) (c : Cmd),
    let j := c.job
    (blocked s s.held (.surfacePool c) c.job = false) ∧ (firstRefusal (begun s c) c.job (surfacePoolSpec (begun s c) c.job) = none) ∧ (j.n 17 1 = 1) :=
  ⟨live, cmd 0x18 [(16, 3), (17, 1), (18, 0), (20, 0x20), (21, 16), (24, 64), (26, 64), (28, 1024), (32, 0x200000), (40, 0x40000), (56, 0x100000)], by decide +kernel⟩
theorem met_PoolsAreSetAndReleased_2 : ∃ (s : State) (c : Cmd),
    let j := c.job
    let k := prodKey (j.n 16 1) (j.n 18 2)
    (blocked s s.held (.surfacePool c) c.job = false) ∧ (firstRefusal (begun s c) c.job (surfacePoolSpec (begun s c) c.job) = none) ∧ (j.n 17 1 = 0)
      ∧ (s.surface k = none) :=
  ⟨live, cmd 0x18 [(16, 0), (17, 0), (18, 255)], by decide +kernel⟩
theorem met_PoolsAreSetAndReleased_3 : ∃ (s : State) (c : Cmd),
    let j := c.job
    let k := prodKey (j.n 16 1) (j.n 18 2)
    (blocked s s.held (.surfacePool c) c.job = false) ∧ (firstRefusal (begun s c) c.job (surfacePoolSpec (begun s c) c.job) = none) ∧ (j.n 17 1 = 0)
      ∧ (s.surface k ≠ none) ∧ (s.surf.reading.any (fun e => e.2.1 == k) = false) :=
  ⟨{ live with surf.surfs := [(255, aSurf)] }, cmd 0x18 [(16, 0), (17, 0), (18, 255)], by decide +kernel⟩
theorem met_PoolsAreSetAndReleased_4 : ∃ (s : State) (c : Cmd),
    let j := c.job
    let k := prodKey (j.n 16 1) (j.n 18 2)
    (blocked s s.held (.surfacePool c) c.job = false) ∧ (firstRefusal (begun s c) c.job (surfacePoolSpec (begun s c) c.job) = none) ∧ (j.n 17 1 = 0)
      ∧ (s.surface k ≠ none) ∧ (s.surf.reading.any (fun e => e.2.1 == k) = true) :=
  ⟨{ live with surf.surfs := [(255, aSurf)], surf.reading := [(7, 255, 1)] }, cmd 0x18 [(16, 0), (17, 0), (18, 255)], by decide +kernel⟩

/-! EncodeStreamsAreConfigured -/

theorem met_EncodeStreamsAreConfigured_1 : ∃ (s : State) (c : Cmd),
    (blocked s s.held (.encOpen c) c.job = false) ∧ (firstRefusal (begun s c) c.job (encOpenSpec (begun s c) c.job) = none) :=
  ⟨live, cmd 0x20 [(16, 1), (17, 3), (18, 0), (19, 3), (20, 640), (22, 480), (28, 400000), (33, 51), (34, 8), (35, 3), (38, 5), (40, 1000), (44, 0x200000), (48, 0x100000)], by decide +kernel⟩
theorem met_EncodeStreamsAreConfigured_2 : ∃ (s : State) (c : Cmd),
    (blocked s s.held (.encParams c) c.job = false) ∧ (firstRefusal (begun s c) c.job (encParamsSpec (begun s c) c.job) = none) :=
  ⟨encoding, cmd 0x21 [(16, 7), (17, 1), (20, 1000)], by decide +kernel⟩
theorem met_EncodeStreamsAreConfigured_3 : ∃ (s : State) (c : Cmd),
    (blocked s s.held (.encOutbuf c) c.job = false) ∧ (firstRefusal (begun s c) c.job (encOutbufSpec (begun s c) c.job) = none) :=
  ⟨encoding, cmd 0x23 [(16, 7), (17, 2), (24, 0x10000), (32, 65536)], by decide +kernel⟩
theorem met_EncodeStreamsAreConfigured_4 : ∃ (s : State) (c : Cmd),
    let j := c.job
    let h := j.n 16 1
    (blocked s s.held (.encClose c) c.job = false) ∧ (firstRefusal (begun s c) c.job (encCloseSpec (begun s c) c.job) = none) ∧ ((s.enc h).queue = [])
      ∧ (((s.enc h).cur = none ∨ bit (j.n 17 1) 0 = false)) :=
  ⟨encoding, cmd 0x22 [(16, 7)], by decide +kernel⟩
theorem met_EncodeStreamsAreConfigured_5 : ∃ (s : State) (c : Cmd),
    let j := c.job
    let h := j.n 16 1
    (blocked s s.held (.encClose c) c.job = false) ∧ (firstRefusal (begun s c) c.job (encCloseSpec (begun s c) c.job) = none)
      ∧ (((s.enc h).queue ≠ [] ∨ ((s.enc h).cur ≠ none ∧ bit (j.n 17 1) 0 = true))) :=
  ⟨encoding.setEnc 7 { encoding.enc 7 with cur := some { idr := false, keep := false, change := false, epoch := 0, source := 0, slices := 2, next := 0, used := 0, held := 0, firstHeld := 0, budget := 0, drain := 0, state := 0, qp := 30, qpSum := 0, qpCnt := 0, count := 0, idx := 0, restart := false, level := 51 } }, cmd 0x22 [(16, 7), (17, 1)], by decide +kernel⟩

/-! CapturePortsAreConfiguredAndTrain -/

theorem met_CapturePortsAreConfigured_1 : ∃ (s : State) (c : Cmd) (edid : List Byte),
    let j := c.job
    (blocked s s.held (.captureCfg c edid) c.job = false) ∧ (firstRefusal (begun s c) c.job (captureCfgSpec (begun s c) c.job) = none)
      ∧ (bit (j.n 22 1) 0 = true) ∧ (BytesHere s) :=
  ⟨live.setCap 3 { CapRec.init with enabled := true }, cmd 0x28 [(16, 3), (22, 1), (24, 128), (32, 64)], List.replicate 128 3, by decide +kernel⟩
theorem met_CapturePortsAreConfigured_2 : ∃ (s : State) (c : Cmd) (edid : List Byte),
    let j := c.job
    (blocked s s.held (.captureCfg c edid) c.job = false) ∧ (firstRefusal (begun s c) c.job (captureCfgSpec (begun s c) c.job) = none)
      ∧ (bit (j.n 22 1) 0 = false) ∧ (j.n 17 1 = 1) ∧ (BytesHere s) :=
  ⟨live, cmd 0x28 [(16, 3), (17, 1), (18, 4), (19, 3), (20, 0x20), (21, 4), (24, 128), (26, 64), (28, 64), (32, 64), (40, 0x200000), (48, 0x100000), (56, 1024), (60, 0x40000)], List.replicate 128 3, by decide +kernel⟩
theorem met_CapturePortsAreConfigured_3 : ∃ (s : State) (c : Cmd) (edid : List Byte),
    let j := c.job
    (blocked s s.held (.captureCfg c edid) c.job = false) ∧ (firstRefusal (begun s c) c.job (captureCfgSpec (begun s c) c.job) = none)
      ∧ ((bit (j.n 22 1) 0 = true ∨ j.n 17 1 = 1)) ∧ (s.isGateway = false) ∧ (s.fab.claimed = true) :=
  ⟨{ behind with fab.claimed := true, fab.domain := 5 }, cmd 0x28 [(16, 3), (17, 1), (18, 4), (19, 3), (20, 0x20), (21, 4), (24, 128), (26, 64), (28, 64), (32, 64), (40, 0x200000), (48, 0x100000), (56, 1024), (60, 0x40000)], List.replicate 128 3, by decide +kernel⟩
theorem met_CapturePortsAreConfigured_4 : ∃ (s : State) (c : Cmd) (edid : List Byte),
    let j := c.job
    (blocked s s.held (.captureCfg c edid) c.job = false) ∧ (firstRefusal (begun s c) c.job (captureCfgSpec (begun s c) c.job) = none)
      ∧ (bit (j.n 22 1) 0 = false) ∧ (j.n 17 1 = 0) :=
  ⟨live.setCap 3 { CapRec.init with enabled := true }, cmd 0x28 [(16, 3)], List.replicate 128 3, by decide +kernel⟩
theorem met_CaptureLinksTrain_1 : ∃ (s : State) (p : Fin 4) (trained : Bool) (rate : Fin 4) (lanes : Nat), let r := s.cap p.val; (s.pdOn 6 = true) :=
  ⟨capturing, 3, true, 3, 4, by decide +kernel⟩
theorem met_CaptureLinksTrain_2 : ∃ (s : State) (p : Fin 4) (trained : Bool) (rate : Fin 4) (lanes : Nat),
    let r := s.cap p.val
    (s.pdOn 6 = true) ∧ (trained = true) ∧ (r.hpd = true) ∧ (rate.val ≤ r.rateMax) ∧ (lanes ≤ r.lanesMax) :=
  ⟨capturing, 3, true, 3, 4, by decide +kernel⟩
theorem met_CaptureLinksTrain_3 : ∃ (s : State) (p : Fin 4) (trained : Bool) (rate : Fin 4) (lanes : Nat),
    let r := s.cap p.val
    (s.pdOn 6 = true) ∧ (trained = false) ∧ (r.trained = true) :=
  ⟨capturing, 3, false, 3, 4, by decide +kernel⟩
theorem met_CaptureLinksTrain_4 : ∃ (s : State) (p : Fin 4) (trained : Bool) (rate : Fin 4) (lanes : Nat),
    let r := s.cap p.val
    (s.pdOn 6 = true) ∧ ((trained = false ∨ r.hpd = false ∨ r.rateMax < rate.val ∨ r.lanesMax < lanes)) ∧ (r.trained = false) ∧ (r.rate = 0)
      ∧ (r.lanes = 0) :=
  ⟨live, 3, false, 3, 4, by decide +kernel⟩

/-! PicturesAreCaptured -/

theorem met_PicturesAreCaptured_1 : ∃ (s : State) (p : Fin 4) (m : Msa) (elems : List (List (List U16))),
    let r := s.cap p.val
    (s.pdOn 6 = true) ∧ ((r.enabled = false ∨ r.trained = false)) :=
  ⟨live, 3, aMsa, [], by decide +kernel⟩
theorem met_PicturesAreCaptured_2 : ∃ (s : State) (p : Fin 4) (m : Msa) (elems : List (List (List U16))),
    let r := s.cap p.val
    (s.pdOn 6 = true) ∧ (r.enabled = true) ∧ (r.trained = true) ∧ (capAccepts r m = false) :=
  ⟨capturing, 3, { aMsa with bad := true }, [], by decide +kernel⟩
theorem met_PicturesAreCaptured_3 : ∃ (s : State) (p : Fin 4) (m : Msa) (elems : List (List (List U16))) (f : SurfRec) (b : Nat),
    let key := prodKey 1 p.val
    let r := s.cap p.val
    (s.pdOn 6 = true) ∧ (r.enabled = true) ∧ (r.trained = true) ∧ (capAccepts r m = true) ∧ (s.surface key = some f)
      ∧ (freeBuffer s key f [] = some b) :=
  ⟨capturing, 3, aMsa, [], (capturing.surface (prodKey 1 3)).get (by decide +kernel), 0, by decide +kernel⟩
theorem met_PicturesAreCaptured_4 : ∃ (s : State) (p : Fin 4) (m : Msa) (elems : List (List (List U16))) (f : SurfRec),
    let key := prodKey 1 p.val
    let r := s.cap p.val
    (s.pdOn 6 = true) ∧ (r.enabled = true) ∧ (r.trained = true) ∧ (capAccepts r m = true) ∧ (s.surface key = some f) ∧ (freeBuffer s key f [] = none) :=
  ⟨{ capturing with surf.reading := [(7, prodKey 1 3, 0), (7, prodKey 1 3, 1)] }, 3, aMsa, [], (capturing.surface (prodKey 1 3)).get (by decide +kernel), by decide +kernel⟩
theorem met_PicturesAreCaptured_5 : ∃ (s : State) (p : Fin 4) (m : Msa) (elems : List (List (List U16))) (f : SurfRec),
    let key := prodKey 1 p.val
    let r := s.cap p.val
    let n := min 64 (m.height - r.row)
    (s.pdOn 6 = true) ∧ (r.cur.isSome = true) ∧ (r.msa = some m) ∧ (s.surface key = some f) ∧ (r.enabled = true) ∧ (r.live = true) ∧ (r.row < m.height)
      ∧ (n ≤ (elems.headD []).length) :=
  ⟨after (.capturePictureStart 3 aMsa) capturing, 3, aMsa, [List.replicate 64 []], (capturing.surface (prodKey 1 3)).get (by decide +kernel), by decide +kernel⟩
theorem met_PicturesAreCaptured_6 : ∃ (s : State) (p : Fin 4) (m : Msa) (elems : List (List (List U16))),
    let r := s.cap p.val
    let n := min 64 (m.height - r.row)
    (s.pdOn 6 = true) ∧ ((r.enabled = false ∨ r.live = false ∨ (elems.headD []).length < n)) :=
  ⟨live, 3, aMsa, [], by decide +kernel⟩
theorem met_PicturesAreCaptured_7 : ∃ (s : State) (p : Fin 4) (m : Msa) (elems : List (List (List U16))),
    let r := s.cap p.val
    (s.pdOn 6 = true) ∧ (r.signal = true) :=
  ⟨live.setCap 3 { CapRec.init with signal := true }, 3, aMsa, [], by decide +kernel⟩
theorem met_PicturesAreCaptured_8 : ∃ (s : State) (p : Fin 4) (m : Msa) (elems : List (List (List U16))),
    let r := s.cap p.val
    (s.pdOn 6 = true) ∧ (r.signal = false) :=
  ⟨live, 3, aMsa, [], by decide +kernel⟩

/-! EncodePicturesStartAndAreKeptAlive -/

theorem met_EncodePicturesStart_1 : ∃ (s : State) (h : Fin 8),
    let r := s.enc h.val
    let takes := r.open_ = true ∧ r.closing = none ∧ inputLive s r = true ∧ s.isReady (12 + r.engine) = true
    (s.pdOn 6 = true) ∧ (¬ takes) :=
  ⟨live, 7, by decide +kernel, by simp; decide +kernel⟩
theorem met_EncodePicturesStart_2 : ∃ (s : State) (h : Fin 8),
    let r := s.enc h.val
    let takes := r.open_ = true ∧ r.closing = none ∧ inputLive s r = true ∧ s.isReady (12 + r.engine) = true
    (s.pdOn 6 = true) ∧ (takes) ∧ (r.keeping = false) ∧ (r.expired = false) ∧ (r.inCount % r.div ≠ 0) :=
  ⟨(coding 1000 none).setEnc 7 { (coding 1000 none).enc 7 with div := 2, inCount := 1 }, 7, by decide +kernel⟩
theorem met_EncodePicturesStart_3 : ∃ (s : State) (h : Fin 8) (t0 : Nat),
    let r := s.enc h.val
    let soon := fun (t0 : Nat) => (s.ft.toNat - t0) * r.mpxs < r.width * r.height * 1000
    let takes := r.open_ = true ∧ r.closing = none ∧ inputLive s r = true ∧ s.isReady (12 + r.engine) = true
    (s.pdOn 6 = true) ∧ (takes) ∧ (r.inCount % r.div = 0) ∧ (r.lastStart = some t0) ∧ (soon t0) :=
  ⟨(coding 1000 none).setEnc 7 { (coding 1000 none).enc 7 with lastStart := some 0 }, 7, 0, by decide +kernel⟩
theorem met_EncodePicturesStart_4 : ∃ (s : State) (h : Fin 8),
    let r := s.enc h.val
    let soon := fun (t0 : Nat) => (s.ft.toNat - t0) * r.mpxs < r.width * r.height * 1000
    let takes := r.open_ = true ∧ r.closing = none ∧ inputLive s r = true ∧ s.isReady (12 + r.engine) = true
    (s.pdOn 6 = true) ∧ (takes) ∧ (r.inCount % r.div = 0) ∧ ((∀ t0, r.lastStart = some t0 → ¬ soon t0)) ∧ (r.cur = none) ∧ (r.params = []) :=
  ⟨coding 1000 none, 7, by decide +kernel, by decide +kernel, by decide +kernel, (by intro t0 h; rw [show ((coding 1000 none).enc (7 : Fin 8).val).lastStart = none from by decide +kernel] at h; cases h), by decide +kernel, by decide +kernel⟩
theorem met_KeepaliveRunsAndExpires_1 : ∃ (s : State) (h : Fin 8),
    let r := s.enc h.val
    (s.pdOn 6 = true) ∧ ((r.open_ = false ∨ r.keepS = 0 ∨ r.expired = true ∨ keepDue s r = false)) :=
  ⟨live, 7, by decide +kernel⟩
theorem met_KeepaliveRunsAndExpires_2 : ∃ (s : State) (h : Fin 8),
    let r := s.enc h.val
    (s.pdOn 6 = true) ∧ (r.open_ = true) ∧ (r.closing = none) ∧ (r.keepS ≠ 0) ∧ (r.expired = false) ∧ (keepDue s r = true) ∧ (r.cur = none)
      ∧ (r.params = []) ∧ (0 < r.sliceCount) :=
  ⟨{ coding 1000 none with scan := live.scan }, 7, by decide +kernel⟩
theorem met_KeepaliveRunsAndExpires_3 : ∃ (s : State) (h : Fin 8),
    let r := s.enc h.val
    (s.pdOn 6 = true) ∧ (r.keeping = true) :=
  ⟨(coding 1000 none).setEnc 7 { (coding 1000 none).enc 7 with keeping := true }, 7, by decide +kernel⟩
theorem met_KeepaliveRunsAndExpires_4 : ∃ (s : State) (h : Fin 8),
    let r := s.enc h.val
    (s.pdOn 6 = true) ∧ (r.keeping = false) :=
  ⟨live, 7, by decide +kernel⟩

/-! SlicesAreCodedOrHeld -/

theorem met_SlicesAreCodedOrHeld_1 : ∃ (s : State) (h : Fin 8) (sl : CodedSlice) (p : EncPic),
    let r := s.enc h.val
    let here := r.nextRows p ≤ r.lines.length
    (s.pdOn 6 = true) ∧ ((r.cur = none ∨ r.cur = some p ∧ ¬ here)) :=
  ⟨live, 7, aSlice 1000, aPic 0 0, by decide +kernel⟩
theorem met_SlicesAreCodedOrHeld_2 : ∃ (s : State) (h : Fin 8) (sl : CodedSlice) (p : EncPic),
    let r := s.enc h.val
    let left := p.slices - p.next
    let q := (r.clampQp (loopQp r p)).toNat
    let A : Int := (p.budget : Int) - p.used - left * 4096
    let fits := fun (x : Nat) => (x : Int) ≤ A * 2 ^ 42
    let small := p.used + sl.bits + (left - 1) * 4096 ≤ p.budget
    let here := r.nextRows p ≤ r.lines.length
    let more := r.cur = some p ∧ r.closing = none ∧ here ∧ p.next + 1 < p.slices
    (s.pdOn 6 = true) ∧ (more) ∧ (p.state = 0) ∧ ((∀ x, fits (projection r p q x))) ∧ (small) :=
  ⟨coding 1000 (some (aPic 0 0)), 7, aSlice 1000, aPic 0 0, by decide +kernel, by decide +kernel, by decide +kernel, (fun x => by rw [projection_coded (y := 0) (by decide +kernel)]; decide +kernel), by decide +kernel⟩
theorem met_SlicesAreCodedOrHeld_3 : ∃ (s : State) (h : Fin 8) (sl : CodedSlice) (p : EncPic),
    let r := s.enc h.val
    let left := p.slices - p.next
    let q := (r.clampQp (loopQp r p)).toNat
    let A : Int := (p.budget : Int) - p.used - left * 4096
    let fits := fun (x : Nat) => (x : Int) ≤ A * 2 ^ 42
    let small := p.used + sl.bits + (left - 1) * 4096 ≤ p.budget
    let here := r.nextRows p ≤ r.lines.length
    let more := r.cur = some p ∧ r.closing = none ∧ here ∧ p.next + 1 < p.slices
    (s.pdOn 6 = true) ∧ (more) ∧ (p.state = 0) ∧ ((∀ x, ¬ fits (projection r p q x))) ∧ ((∀ x, fits (projection r p r.qpMax x))) ∧ (small) :=
  ⟨coding 150000 (some (aPic 0 0)), 7, aSlice 1000, aPic 0 0, by decide +kernel, by decide +kernel, by decide +kernel, (fun x => by rw [projection_coded (y := 0) (by decide +kernel)]; decide +kernel), (fun x => by rw [projection_coded (y := 0) (by decide +kernel)]; decide +kernel), by decide +kernel⟩
theorem met_SlicesAreCodedOrHeld_4 : ∃ (s : State) (h : Fin 8) (sl : CodedSlice) (p : EncPic),
    let r := s.enc h.val
    let left := p.slices - p.next
    let A : Int := (p.budget : Int) - p.used - left * 4096
    let fits := fun (x : Nat) => (x : Int) ≤ A * 2 ^ 42
    let small := p.used + sl.bits + (left - 1) * 4096 ≤ p.budget
    let here := r.nextRows p ≤ r.lines.length
    let more := r.cur = some p ∧ r.closing = none ∧ here ∧ p.next + 1 < p.slices
    (s.pdOn 6 = true) ∧ (more) ∧ (p.state = 1) ∧ ((∀ x, fits (projection r p r.qpMax x))) ∧ (small) :=
  ⟨coding 150000 (some (aPic 1 0)), 7, aSlice 1000, aPic 1 0, by decide +kernel, by decide +kernel, by decide +kernel, (fun x => by rw [projection_coded (y := 0) (by decide +kernel)]; decide +kernel), by decide +kernel⟩
theorem met_SlicesAreCodedOrHeld_5 : ∃ (s : State) (h : Fin 8) (sl : CodedSlice) (p : EncPic),
    let r := s.enc h.val
    let left := p.slices - p.next
    let q := (r.clampQp (loopQp r p)).toNat
    let A : Int := (p.budget : Int) - p.used - left * 4096
    let fits := fun (x : Nat) => (x : Int) ≤ A * 2 ^ 42
    let here := r.nextRows p ≤ r.lines.length
    let more := r.cur = some p ∧ r.closing = none ∧ here ∧ p.next + 1 < p.slices
    (s.pdOn 6 = true) ∧ (more) ∧ (p.state ≤ 1) ∧ ((∀ x, ¬ fits (projection r p q x))) ∧ ((∀ x, ¬ fits (projection r p r.qpMax x))) :=
  ⟨coding 100000000 (some (aPic 1 0)), 7, aSlice 1000, aPic 1 0, by decide +kernel, by decide +kernel, by decide +kernel, (fun x => by rw [projection_coded (y := 0) (by decide +kernel)]; decide +kernel), (fun x => by rw [projection_coded (y := 0) (by decide +kernel)]; decide +kernel)⟩
theorem met_SlicesAreCodedOrHeld_6 : ∃ (s : State) (h : Fin 8) (sl : CodedSlice) (p : EncPic),
    let r := s.enc h.val
    let here := r.nextRows p ≤ r.lines.length
    let more := r.cur = some p ∧ r.closing = none ∧ here ∧ p.next + 1 < p.slices
    (s.pdOn 6 = true) ∧ (more) ∧ (p.state = 2) :=
  ⟨coding 1000 (some (aPic 2 0)), 7, aSlice 1000, aPic 2 0, by decide +kernel⟩
theorem met_SlicesAreCodedOrHeld_7 : ∃ (s : State) (h : Fin 8) (sl : CodedSlice) (p : EncPic),
    let r := s.enc h.val
    let left := p.slices - p.next
    let small := p.used + sl.bits + (left - 1) * 4096 ≤ p.budget
    let here := r.nextRows p ≤ r.lines.length
    let more := r.cur = some p ∧ r.closing = none ∧ here ∧ p.next + 1 < p.slices
    (s.pdOn 6 = true) ∧ (more) ∧ (¬ small) :=
  ⟨coding 1000 (some (aPic 0 0)), 7, aSlice 2000000, aPic 0 0, by decide +kernel⟩
theorem met_SlicesAreCodedOrHeld_8 : ∃ (s : State) (h : Fin 8) (sl : CodedSlice) (p : EncPic),
    let r := s.enc h.val
    let here := r.nextRows p ≤ r.lines.length
    (s.pdOn 6 = true) ∧ (r.cur = some p) ∧ (r.closing = none) ∧ (here) ∧ (p.next + 1 = p.slices) ∧ (p.state = 2) :=
  ⟨coding 1000 (some (aPic 2 7)), 7, aSlice 1000, aPic 2 7, by decide +kernel⟩

/-! SlicesLeave -/

theorem met_SlicesLeave_1 : ∃ (s : State) (h : Fin 8) (params : List Byte) (nal : List Byte) (o : SliceOut) (q : List SliceOut),
    let r := s.enc h.val
    (s.pdOn 6 = true) ∧ (r.queue = []) :=
  ⟨live, 7, [], List.replicate 600 5, waiting, [], by decide +kernel⟩
theorem met_SlicesLeave_2 : ∃ (s : State) (h : Fin 8) (params : List Byte) (nal : List Byte) (o : SliceOut) (q : List SliceOut),
    let r := s.enc h.val
    (s.pdOn 6 = true) ∧ (r.queue = o :: q) ∧ (r.closing = none) :=
  ⟨(coding 1000 none).setEnc 7 { (coding 1000 none).enc 7 with queue := [waiting], bufs := [aBuf] }, 7, [], List.replicate 600 5, waiting, [], by decide +kernel⟩

/-! PicturesAreStarted -/

theorem met_PicturesAreStarted_1 : ∃ (s : State) (e : Fin 8) (ready : List (Fin 256 × PicInfo)),
    let s1 := ready.foldl (fun u x => takeParams u x.1.val x.2.sets) s
    let sps := fun (x : Fin 256 × PicInfo) => picSps s1 x.1.val x.2
    let fine := fun (x : Fin 256 × PicInfo) => s.ctxOpen x.1.val = true ∧ (s.ctx x.1.val).engine = e.val ∧ (s.ctx x.1.val).cur = none
      ∧ picRefusal s1 x.1.val x.2 = 0 ∧ x.2.release = [] ∧ dataReady (s1.ctx x.1.val) x.2 = true ∧ (sps x).all (rateReady s1 (s1.ctx x.1.val)) = true
    (s.pdOn 5 = true) ∧ (ready ≠ []) ∧ ((∀ x, x ∈ ready → fine x ∧ (decBuffer s1 x.1.val x.2).isSome = true)) ∧ ((s.eng e.val).busy = none)
      ∧ (s.isReady (4 + e.val) = true) :=
  ⟨filled, 7, [(255, aPicInfo)], by decide +kernel⟩
theorem met_PicturesAreStarted_2 : ∃ (s : State) (e : Fin 8) (ready : List (Fin 256 × PicInfo)),
    let s1 := ready.foldl (fun u x => takeParams u x.1.val x.2.sets) s
    let sps := fun (x : Fin 256 × PicInfo) => picSps s1 x.1.val x.2
    let fine := fun (x : Fin 256 × PicInfo) => s.ctxOpen x.1.val = true ∧ (s.ctx x.1.val).engine = e.val ∧ (s.ctx x.1.val).cur = none
      ∧ picRefusal s1 x.1.val x.2 = 0 ∧ x.2.release = [] ∧ dataReady (s1.ctx x.1.val) x.2 = true ∧ (sps x).all (rateReady s1 (s1.ctx x.1.val)) = true
    (s.pdOn 5 = true) ∧ ((∀ x, x ∈ ready → fine x)) ∧ (((s.eng e.val).busy.isSome = true ∨ s.isReady (4 + e.val) = false)) :=
  ⟨{ filled with dec.engs := [(7, { busy := some 3, waiting := false })] }, 7, [(255, aPicInfo)], by decide +kernel⟩
theorem met_PicturesAreStarted_3 : ∃ (s : State) (e : Fin 8) (ready : List (Fin 256 × PicInfo)),
    let s1 := ready.foldl (fun u x => takeParams u x.1.val x.2.sets) s
    let sps := fun (x : Fin 256 × PicInfo) => picSps s1 x.1.val x.2
    let fine := fun (x : Fin 256 × PicInfo) => s.ctxOpen x.1.val = true ∧ (s.ctx x.1.val).engine = e.val ∧ (s.ctx x.1.val).cur = none
      ∧ picRefusal s1 x.1.val x.2 = 0 ∧ x.2.release = [] ∧ dataReady (s1.ctx x.1.val) x.2 = true ∧ (sps x).all (rateReady s1 (s1.ctx x.1.val)) = true
    (s.pdOn 5 = true) ∧ ((∀ x, x ∈ ready → fine x ∧ decBuffer s1 x.1.val x.2 = none)) :=
  ⟨{ filled with surf.reading := [(7, 255, 0), (7, 255, 1)] }, 7, [(255, aPicInfo)], by decide +kernel⟩
theorem met_PicturesAreStarted_4 : ∃ (s : State) (e : Fin 8) (ready : List (Fin 256 × PicInfo)) (c : Fin 256) (pic : PicInfo),
    let s1 := ready.foldl (fun u x => takeParams u x.1.val x.2.sets) s
    (s.pdOn 5 = true) ∧ (ready = [(c, pic)]) ∧ (s.ctxOpen c.val = true) ∧ ((s.ctx c.val).engine = e.val) ∧ ((s.ctx c.val).cur = none)
      ∧ ((s.ctx c.val).feeds = []) ∧ ((s.ctx c.val).closing = none) ∧ (picRefusal s1 c.val pic ≠ 0) :=
  ⟨filled, 7, [(255, { aPicInfo with sps := some 1 })], 255, { aPicInfo with sps := some 1 }, by decide +kernel⟩
theorem met_PicturesAreStarted_5 : ∃ (s : State) (e : Fin 8) (ready : List (Fin 256 × PicInfo)) (c : Fin 256) (pic : PicInfo) (id : Nat) (q : SpsInfo) (n : Byte),
    (s.pdOn 5 = true) ∧ (ready = [(c, pic)]) ∧ (s.ctxOpen c.val = true) ∧ ((s.ctx c.val).engine = e.val) ∧ ((s.ctx c.val).cur = none)
      ∧ ((s.ctx c.val).setsTaken = false) ∧ ((s.ctx c.val).fabric = true) ∧ ((s.ctx c.val).feeds = []) ∧ ((s.ctx c.val).closing = none)
      ∧ (pic.sets = [.sps id q n]) ∧ (pic.sps = some id) ∧ (spsRefusal s c.val q ≠ 0) :=
  ⟨filled, 7, [(255, refusedPic)], 255, refusedPic, 0, { aSps with profile := .other }, 33, by decide +kernel⟩

/-! SlicesAreDecoded -/

theorem met_SlicesAreDecoded_1 : ∃ (s : State) (e : Fin 8) (w : Bool) (sl : SliceInfo) (c : Fin 256) (p : DecPic) (f : SurfRec),
    (s.pdOn 5 = true) ∧ ((s.eng e.val).busy = none) :=
  ⟨filled, 7, false, aSliceInfo 0 16 16, 255, decPic, aSurf, by decide +kernel⟩
theorem met_SlicesAreDecoded_2 : ∃ (s : State) (e : Fin 8) (w : Bool) (sl : SliceInfo) (c : Fin 256) (p : DecPic) (f : SurfRec),
    let r := s.ctx c.val
    let running := (s.eng e.val).busy = some c.val ∧ r.cur = some p ∧ r.engine = e.val ∧ s.surface c.val = some f ∧ r.feeds = []
    let here := sl.bytes ≤ r.occ
    (s.pdOn 5 = true) ∧ (running) ∧ (¬ here) :=
  ⟨decoding, 7, false, { aSliceInfo 0 16 16 with bytes := 1000 }, 255, decPic, aSurf, by decide +kernel⟩
theorem met_SlicesAreDecoded_3 : ∃ (s : State) (e : Fin 8) (w : Bool) (sl : SliceInfo) (c : Fin 256) (p : DecPic) (f : SurfRec),
    let r := s.ctx c.val
    let running := (s.eng e.val).busy = some c.val ∧ r.cur = some p ∧ r.engine = e.val ∧ s.surface c.val = some f ∧ r.feeds = []
    let here := sl.bytes ≤ r.occ
    let fit := here ∧ p.lastAddr.all (fun a => decide (a < sl.addr)) = true ∧ sl.firstRow = p.nextRow ∧ 0 < sl.rows ∧ sl.firstRow + sl.rows ≤ p.height
    let ws := sliceWrites f p sl sl.firstRow sl.rows
    let fail := sliceFail s r f p sl ws
    let good := fail = 0 ∧ sl.missingRef = false ∧ (r.refBad = false ∨ p.irap = true ∨ sl.intra = true)
    (s.pdOn 5 = true) ∧ (running) ∧ (fit) ∧ (good) ∧ (sl.last = false) :=
  ⟨decoding, 7, false, aSliceInfo 0 16 16, 255, decPic, aSurf, by decide +kernel⟩
theorem met_SlicesAreDecoded_4 : ∃ (s : State) (e : Fin 8) (w : Bool) (sl : SliceInfo) (c : Fin 256) (p : DecPic) (f : SurfRec),
    let r := s.ctx c.val
    let running := (s.eng e.val).busy = some c.val ∧ r.cur = some p ∧ r.engine = e.val ∧ s.surface c.val = some f ∧ r.feeds = []
    let here := sl.bytes ≤ r.occ
    let fit := here ∧ p.lastAddr.all (fun a => decide (a < sl.addr)) = true ∧ sl.firstRow = p.nextRow ∧ 0 < sl.rows ∧ sl.firstRow + sl.rows ≤ p.height
    let ws := sliceWrites f p sl sl.firstRow sl.rows
    let fail := sliceFail s r f p sl ws
    (s.pdOn 5 = true) ∧ (running) ∧ (fit) ∧ (fail ≠ 0) ∧ (sl.last = false) :=
  ⟨decoding, 7, false, { aSliceInfo 0 16 16 with fail := 6 }, 255, decPic, aSurf, by decide +kernel⟩
theorem met_SlicesAreDecoded_5 : ∃ (s : State) (e : Fin 8) (w : Bool) (sl : SliceInfo) (c : Fin 256) (p : DecPic) (f : SurfRec),
    let r := s.ctx c.val
    let running := (s.eng e.val).busy = some c.val ∧ r.cur = some p ∧ r.engine = e.val ∧ s.surface c.val = some f ∧ r.feeds = []
    let here := sl.bytes ≤ r.occ
    let d := min p.height sl.rowsDone
    let due := p.published < d ∧ (p.published + 16 ≤ d ∨ d = p.height)
    (s.pdOn 5 = true) ∧ (running) ∧ (here) ∧ (p.lastAddr = some sl.addr) ∧ (sl.last = false) ∧ (¬ due) :=
  ⟨midway, 7, false, { aSliceInfo 0 16 16 with addr := 5 }, 255, midPic, aSurf, by decide +kernel⟩
theorem met_SlicesAreDecoded_6 : ∃ (s : State) (e : Fin 8) (w : Bool) (sl : SliceInfo) (c : Fin 256) (p : DecPic) (f : SurfRec) (a : Nat),
    let r := s.ctx c.val
    let running := (s.eng e.val).busy = some c.val ∧ r.cur = some p ∧ r.engine = e.val ∧ s.surface c.val = some f ∧ r.feeds = []
    let here := sl.bytes ≤ r.occ
    (s.pdOn 5 = true) ∧ (running) ∧ (here) ∧ (p.lastAddr = some a) ∧ (sl.addr < a) ∧ (sl.release = []) ∧ (r.closing = none) :=
  ⟨midway, 7, false, { aSliceInfo 0 16 16 with addr := 0 }, 255, midPic, aSurf, 5, by decide +kernel⟩
theorem met_SlicesAreDecoded_7 : ∃ (s : State) (e : Fin 8) (w : Bool) (sl : SliceInfo) (c : Fin 256) (p : DecPic) (f : SurfRec),
    let r := s.ctx c.val
    let running := (s.eng e.val).busy = some c.val ∧ r.cur = some p ∧ r.engine = e.val ∧ s.surface c.val = some f ∧ r.feeds = []
    let here := sl.bytes ≤ r.occ
    let fit := here ∧ p.lastAddr.all (fun a => decide (a < sl.addr)) = true ∧ sl.firstRow = p.nextRow ∧ 0 < sl.rows ∧ sl.firstRow + sl.rows ≤ p.height
    let ws := sliceWrites f p sl sl.firstRow sl.rows
    let fail := sliceFail s r f p sl ws
    let good := fail = 0 ∧ sl.missingRef = false ∧ (r.refBad = false ∨ p.irap = true ∨ sl.intra = true)
    (s.pdOn 5 = true) ∧ (running) ∧ (fit) ∧ (good) ∧ (sl.last = true) ∧ (p.height ≤ sl.rowsDone) ∧ (sl.release = []) ∧ (r.closing = none) :=
  ⟨decoding, 7, false, { aSliceInfo 0 64 64 with last := true }, 255, decPic, aSurf, by decide +kernel⟩
theorem met_SlicesAreDecoded_8 : ∃ (s : State) (e : Fin 8) (w : Bool) (sl : SliceInfo) (c : Fin 256) (p : DecPic) (f : SurfRec),
    let r := s.ctx c.val
    let running := (s.eng e.val).busy = some c.val ∧ r.cur = some p ∧ r.engine = e.val ∧ s.surface c.val = some f ∧ r.feeds = []
    let here := sl.bytes ≤ r.occ
    let fit := here ∧ p.lastAddr.all (fun a => decide (a < sl.addr)) = true ∧ sl.firstRow = p.nextRow ∧ 0 < sl.rows ∧ sl.firstRow + sl.rows ≤ p.height
    let ws := sliceWrites f p sl sl.firstRow sl.rows
    let fail := sliceFail s r f p sl ws
    let good := fail = 0 ∧ sl.missingRef = false ∧ (r.refBad = false ∨ p.irap = true ∨ sl.intra = true)
    let d := min p.height sl.rowsDone
    (s.pdOn 5 = true) ∧ (running) ∧ (fit) ∧ (good) ∧ (sl.last = true) ∧ (d < p.height) ∧ (p.done < p.height) ∧ (sl.release = []) ∧ (r.closing = none) :=
  ⟨decoding, 7, false, { aSliceInfo 0 16 16 with last := true }, 255, decPic, aSurf, by decide +kernel⟩
theorem met_SlicesAreDecoded_9 : ∃ (s : State) (e : Fin 8) (w : Bool) (sl : SliceInfo) (c : Fin 256) (p : DecPic) (f : SurfRec),
    (s.pdOn 5 = true) ∧ ((s.eng e.val).busy = none) :=
  ⟨filled, 7, false, aSliceInfo 0 16 16, 255, decPic, aSurf, by decide +kernel⟩
theorem met_SlicesAreDecoded_10 : ∃ (s : State) (e : Fin 8) (w : Bool) (sl : SliceInfo) (c : Fin 256) (p : DecPic) (f : SurfRec),
    let r := s.ctx c.val
    let running := (s.eng e.val).busy = some c.val ∧ r.cur = some p ∧ r.engine = e.val ∧ s.surface c.val = some f ∧ r.feeds = []
    let whole := (if r.fabric then r.ring.any (·.closes) else w && !r.ring.isEmpty) = true
    (s.pdOn 5 = true) ∧ (running) ∧ ((whole ∨ s.clk < r.lastByte + r.stall * 1000000)) :=
  ⟨{ decoding with clk := 0 }, 7, false, aSliceInfo 0 16 16, 255, decPic, aSurf, by decide +kernel⟩
theorem met_SlicesAreDecoded_11 : ∃ (s : State) (e : Fin 8) (w : Bool) (sl : SliceInfo) (c : Fin 256) (p : DecPic) (f : SurfRec),
    let r := s.ctx c.val
    let running := (s.eng e.val).busy = some c.val ∧ r.cur = some p ∧ r.engine = e.val ∧ s.surface c.val = some f ∧ r.feeds = []
    let whole := (if r.fabric then r.ring.any (·.closes) else w && !r.ring.isEmpty) = true
    (s.pdOn 5 = true) ∧ (running) ∧ (¬ whole) ∧ (r.lastByte + r.stall * 1000000 ≤ s.clk) :=
  ⟨{ decoding.setCtx 255 { decoding.ctx 255 with fabric := false } with clk := 100000000000 }, 7, false, aSliceInfo 0 16 16, 255, decPic, aSurf, by decide +kernel⟩
theorem met_SlicesAreDecoded_12 : ∃ (s : State) (e : Fin 8) (w : Bool) (sl : SliceInfo) (c : Fin 256) (p : DecPic) (f : SurfRec),
    (s.pdOn 5 = true) :=
  ⟨decoding, 7, false, aSliceInfo 0 16 16, 255, decPic, aSurf, by decide +kernel⟩

/-! StreamPacketsAreDemultiplexed -/

theorem met_StreamPacketsAreDemultiplexed_1 : ∃ (s : State) (p : Packet) (c : Nat) (r : CtxRec),
    let hit := s.dec.ctxs.find? (fun x => !(x.2.state == 0) && x.2.fabric && x.2.src == p.src && x.2.flow == p.flow)
    (s.pdOn 9 = true) ∧ (hit = none) :=
  ⟨filled, mkPacket 5 8 clsSTREAM 1 0 0 2 [], 255, filled.ctx 255, by decide +kernel⟩
theorem met_StreamPacketsAreDemultiplexed_2 : ∃ (s : State) (p : Packet) (c : Nat) (r : CtxRec),
    let hit := s.dec.ctxs.find? (fun x => !(x.2.state == 0) && x.2.fabric && x.2.src == p.src && x.2.flow == p.flow)
    let ahead := match r.expect with | some x => (p.seq + 65536 - x) % 65536 | none => 0
    (s.pdOn 9 = true) ∧ (hit = some (c, r)) ∧ (p.restart = false) ∧ (32769 ≤ ahead) :=
  ⟨filled.setCtx 255 { filled.ctx 255 with expect := some 0 }, streamPkt 32769 1, 255, { filled.ctx 255 with expect := some 0 }, by decide +kernel⟩
theorem met_StreamPacketsAreDemultiplexed_3 : ∃ (s : State) (p : Packet) (c : Nat) (r : CtxRec),
    let hit := s.dec.ctxs.find? (fun x => !(x.2.state == 0) && x.2.fabric && x.2.src == p.src && x.2.flow == p.flow)
    let ahead := match r.expect with | some x => (p.seq + 65536 - x) % 65536 | none => 0
    let b := slice p.data 4 (min 508 (fieldAt p.data 0 2))
    let start := bit (fieldAt p.data 2 1) 0
    (s.pdOn 9 = true) ∧ (hit = some (c, r)) ∧ ((p.restart = true ∨ ahead < 32769)) ∧ ((r.skipping = false ∨ start = true))
      ∧ (r.occ + b.length ≤ r.esSize) :=
  ⟨filled.setCtx 255 { filled.ctx 255 with expect := some 0, skipping := true }, streamPkt 32768 1, 255, { filled.ctx 255 with expect := some 0, skipping := true }, by decide +kernel⟩
theorem met_StreamPacketsAreDemultiplexed_4 : ∃ (s : State) (p : Packet) (c : Nat) (r : CtxRec),
    let hit := s.dec.ctxs.find? (fun x => !(x.2.state == 0) && x.2.fabric && x.2.src == p.src && x.2.flow == p.flow)
    let ahead := match r.expect with | some x => (p.seq + 65536 - x) % 65536 | none => 0
    let b := slice p.data 4 (min 508 (fieldAt p.data 0 2))
    let start := bit (fieldAt p.data 2 1) 0
    (s.pdOn 9 = true) ∧ (hit = some (c, r)) ∧ ((p.restart = true ∨ ahead < 32769)) ∧ ((r.skipping = false ∨ start = true))
      ∧ (r.esSize < r.occ + b.length) :=
  ⟨filled.setCtx 255 { filled.ctx 255 with esSize := 607 }, streamPkt 0xFFFF 1, 255, { filled.ctx 255 with esSize := 607 }, by decide +kernel⟩
theorem met_StreamPacketsAreDemultiplexed_5 : ∃ (s : State) (p : Packet) (c : Nat) (r : CtxRec),
    let hit := s.dec.ctxs.find? (fun x => !(x.2.state == 0) && x.2.fabric && x.2.src == p.src && x.2.flow == p.flow)
    let ahead := match r.expect with | some x => (p.seq + 65536 - x) % 65536 | none => 0
    let start := bit (fieldAt p.data 2 1) 0
    (s.pdOn 9 = true) ∧ (hit = some (c, r)) ∧ ((p.restart = true ∨ ahead < 32769)) ∧ (r.skipping = true) ∧ (start = false) :=
  ⟨filled.setCtx 255 { filled.ctx 255 with skipping := true }, streamPkt 0xFFFF 0, 255, { filled.ctx 255 with skipping := true }, by decide +kernel⟩

/-! RasterPacketsPublish -/

theorem met_RasterPacketsPublish_1 : ∃ (s : State) (p : Packet) (f : SurfRec),
    let idx := fieldAt p.data 0 1
    let key := prodKey 2 idx
    let flow := 64 + p.src * 4096 + p.flow
    let fr := s.dec.rasters.getD flow RasterRec.init
    let ahead := match fr.expect with | some x => (p.seq + 65536 - x) % 65536 | none => 0
    (s.pdOn 9 = true) ∧ ((s.surface key = none ∨ 63 < idx)) ∧ (ahead < 32769) :=
  ⟨live, rasterPkt 0xFFFF 2 0, aSurf, by decide +kernel⟩
theorem met_RasterPacketsPublish_2 : ∃ (s : State) (p : Packet) (f : SurfRec),
    let flow := 64 + p.src * 4096 + p.flow
    let fr := s.dec.rasters.getD flow RasterRec.init
    let ahead := match fr.expect with | some x => (p.seq + 65536 - x) % 65536 | none => 0
    (s.pdOn 9 = true) ∧ (32769 ≤ ahead) :=
  ⟨{ filled with dec.rasters := [(64 + 7 * 4096 + 1, { RasterRec.init with expect := some 0 })] }, rasterPkt 32769 2 0, aSurf, by decide +kernel⟩
theorem met_RasterPacketsPublish_3 : ∃ (s : State) (p : Packet) (f : SurfRec),
    let idx := fieldAt p.data 0 1
    let fl := fieldAt p.data 1 1
    let key := prodKey 2 idx
    let flow := 64 + p.src * 4096 + p.flow
    let fr := s.dec.rasters.getD flow RasterRec.init
    let r := s.dec.rasters.getD idx RasterRec.init
    let ahead := match fr.expect with | some x => (p.seq + 65536 - x) % 65536 | none => 0
    (s.pdOn 9 = true) ∧ (s.surface key = some f) ∧ (idx ≤ 63) ∧ (ahead < 32769) ∧ (bit fl 1 = false) ∧ (r.cur = none) :=
  ⟨filled, rasterPkt 0 1 0, aSurf, by decide +kernel⟩
theorem met_RasterPacketsPublish_4 : ∃ (s : State) (p : Packet) (f : SurfRec),
    let idx := fieldAt p.data 0 1
    let fl := fieldAt p.data 1 1
    let key := prodKey 2 idx
    let flow := 64 + p.src * 4096 + p.flow
    let fr := s.dec.rasters.getD flow RasterRec.init
    let ahead := match fr.expect with | some x => (p.seq + 65536 - x) % 65536 | none => 0
    (s.pdOn 9 = true) ∧ (s.surface key = some f) ∧ (idx ≤ 63) ∧ (ahead < 32769) ∧ (bit fl 1 = true)
      ∧ ((releasing s key = true ∨ freeBuffer s key f [] = none)) :=
  ⟨{ filled with surf.reading := [(7, prodKey 2 63, 0), (7, prodKey 2 63, 1)] }, rasterPkt 0xFFFF 2 0, aSurf, by decide +kernel⟩
theorem met_RasterPacketsPublish_5 : ∃ (s : State) (p : Packet) (f : SurfRec) (b : Nat),
    let idx := fieldAt p.data 0 1
    let fl := fieldAt p.data 1 1
    let key := prodKey 2 idx
    let flow := 64 + p.src * 4096 + p.flow
    let fr := s.dec.rasters.getD flow RasterRec.init
    let ahead := match fr.expect with | some x => (p.seq + 65536 - x) % 65536 | none => 0
    (s.pdOn 9 = true) ∧ (s.surface key = some f) ∧ (idx ≤ 63) ∧ (ahead < 32769) ∧ (bit fl 1 = true) ∧ (bit fl 0 = false) ∧ (releasing s key = false)
      ∧ (freeBuffer s key f [] = some b) :=
  ⟨filled, rasterPkt 0xFFFF 2 0, aSurf, 0, by decide +kernel⟩
theorem met_RasterPacketsPublish_6 : ∃ (s : State) (p : Packet) (f : SurfRec) (q : Nat × Nat),
    let idx := fieldAt p.data 0 1
    let fl := fieldAt p.data 1 1
    let row := fieldAt p.data 2 2
    let key := prodKey 2 idx
    let flow := 64 + p.src * 4096 + p.flow
    let fr := s.dec.rasters.getD flow RasterRec.init
    let r := s.dec.rasters.getD idx RasterRec.init
    let ahead := match fr.expect with | some x => (p.seq + 65536 - x) % 65536 | none => 0
    let inside := row * f.pitch + fieldAt p.data 4 4 + (p.data.drop 16).length ≤ planeBytes f.format f.height f.pitch
    let seen := if (Tab.get? r.seen flow).isSome then r.seen else r.seen.set flow 0
    let mark := s.pub key
    (s.pdOn 9 = true) ∧ (s.surface key = some f) ∧ (idx ≤ 63) ∧ (ahead = 0) ∧ (rasterGap s { r with seen := seen } = false) ∧ (bit fl 1 = false)
      ∧ (bit fl 0 = true) ∧ (r.cur = some q) ∧ (mark.rows ≤ row) ∧ (row < f.height) ∧ (inside) :=
  ⟨after (.rasterPacket (rasterPkt 0xFFFF 2 0)) filled, rasterPkt 0 1 63, aSurf, ((after (.rasterPacket (rasterPkt 0xFFFF 2 0)) filled).dec.rasters.getD 63 RasterRec.init).cur.get (by decide +kernel), by decide +kernel⟩
theorem met_RasterPacketsPublish_7 : ∃ (s : State) (p : Packet) (f : SurfRec) (q : Nat × Nat),
    let idx := fieldAt p.data 0 1
    let fl := fieldAt p.data 1 1
    let row := fieldAt p.data 2 2
    let key := prodKey 2 idx
    let flow := 64 + p.src * 4096 + p.flow
    let fr := s.dec.rasters.getD flow RasterRec.init
    let r := s.dec.rasters.getD idx RasterRec.init
    let ahead := match fr.expect with | some x => (p.seq + 65536 - x) % 65536 | none => 0
    let inside := row * f.pitch + fieldAt p.data 4 4 + (p.data.drop 16).length ≤ planeBytes f.format f.height f.pitch
    let mark := s.pub key
    (s.pdOn 9 = true) ∧ (s.surface key = some f) ∧ (idx ≤ 63) ∧ (ahead ≠ 0) ∧ (ahead < 32769) ∧ ((∀ v, Tab.get? r.seen flow = some v → v ≤ fr.gaps))
      ∧ (bit fl 1 = false) ∧ (bit fl 0 = true) ∧ (r.cur = some q) ∧ (mark.rows ≤ row) ∧ (row < f.height) ∧ (inside) :=
  ⟨after (.rasterPacket (rasterPkt 0xFFFF 2 0)) filled, rasterPkt 5 1 63, aSurf, ((after (.rasterPacket (rasterPkt 0xFFFF 2 0)) filled).dec.rasters.getD 63 RasterRec.init).cur.get (by decide +kernel), by decide +kernel⟩

/-! ShadowsAreLoadedAndLiveFieldsSet -/

theorem met_StateLoadReplacesShadows_1 : ∃ (s : State) (c : Cmd) (buf : List Byte) (bs : List (Nat × List Byte)),
    let data := hostData s buf (c.job.n 24 4)
    (blocked s s.held (.stateLoad c buf) c.job = false) ∧ (firstRefusal (begun s c) c.job (stateLoadSpec (begun s c) c.job) = none) ∧ (BytesHere s)
      ∧ (walkBlocks data.length (data.length / 16 + 1) 0 [] data = .inr bs) :=
  ⟨live, cmd 0x30 [(16, 0x10), (24, 64)], pipeBlock, [(blockKey 1 7 0, pipeBlock)], by decide +kernel⟩
theorem met_StateLoadReplacesShadows_2 : ∃ (s : State) (c : Cmd) (buf : List Byte) (f : CompFail),
    let data := hostData s buf (c.job.n 24 4)
    (blocked s s.held (.stateLoad c buf) c.job = false) ∧ (firstRefusal (begun s c) c.job (stateLoadSpec (begun s c) c.job) = none) ∧ (BytesHere s)
      ∧ (walkBlocks data.length (data.length / 16 + 1) 0 [] data = .inl f) :=
  ⟨live, cmd 0x30 [(16, 0x10), (24, 64)], [1, 8] ++ pipeBlock.drop 2, ⟨.badDescriptor, 8, 0xFF, 0xFF, 2, 0⟩, by decide +kernel⟩
theorem met_StateLoadReplacesShadows_3 : ∃ (s : State) (c : Cmd) (buf : List Byte),
    (blocked s s.held (.stateLoad c buf) c.job = false) ∧ (firstRefusal (begun s c) c.job (stateLoadSpec (begun s c) c.job) = none)
      ∧ (s.isGateway = false) ∧ (s.fab.claimed = true) :=
  ⟨{ behind with fab.claimed := true, fab.domain := 5 }, cmd 0x30 [(16, 0x10), (24, 64)], pipeBlock, by decide +kernel⟩
theorem met_LiveSetChangesOneField_1 : ∃ (s : State) (c : Cmd),
    (blocked s s.held (.liveSet c) c.job = false) ∧ (firstRefusal (begun s c) c.job (liveSetSpec (begun s c) c.job) = none) :=
  ⟨{ running with cmp.act := [(blockKey 2 7 7, layerBlock)] }, cmd 0x32 [(16, 7), (17, 2), (18, 4095), (20, 0xBFFFFFFF)], by decide +kernel⟩

/-! CommitsValidateThenApply -/

theorem met_CommitsValidateThenApply_1 : ∃ (s : State) (c : Cmd) (p : Fin 8) (k : CommitRec),
    (blocked s s.held (.commit c) c.job = false) ∧ (firstRefusal (begun s c) c.job (commitSpec (begun s c) c.job) = none) :=
  ⟨running, cmd 0x31 [(16, 0xFF)], 7, aCommit (cmd 0x31 [(16, 0xFF)]) 0 0xFF 0, by decide +kernel⟩
theorem met_CommitsValidateThenApply_2 : ∃ (s : State) (c : Cmd) (p : Fin 8) (k : CommitRec) (f : CompFail),
    (s.pdOn 7 = true) ∧ (s.commitOf 0 p.val = some k) ∧ (k.job = c.job) ∧ (validateCommit s k.outs = some f) :=
  ⟨{ running with sys.ready := 2 ^ 25 - 1, commits := [aCommit (cmd 0x31 [(16, 0xFF)]) 0 0xFF 0] }, cmd 0x31 [(16, 0xFF)], 7, aCommit (cmd 0x31 [(16, 0xFF)]) 0 0xFF 0, ⟨.notReady, 7, 0xFF, 0xFF, 1, 0⟩, by decide +kernel⟩
theorem met_CommitsValidateThenApply_3 : ∃ (s : State) (c : Cmd) (p : Fin 8) (k : CommitRec),
    (s.pdOn 7 = true) ∧ (s.commitOf 0 p.val = some k) ∧ (k.job = c.job) ∧ (validateCommit s k.outs = none) ∧ (bit (c.job.n 17 1) 0 = false)
      ∧ ((∀ n, n < 8 → (s.tg n).running = true)) :=
  ⟨{ running with commits := [aCommit (cmd 0x31 [(16, 0xFF)]) 0 0xFF 0] }, cmd 0x31 [(16, 0xFF)], 7, aCommit (cmd 0x31 [(16, 0xFF)]) 0 0xFF 0, by decide +kernel⟩
theorem met_CommitsValidateThenApply_4 : ∃ (s : State) (c : Cmd) (p : Fin 8) (k : CommitRec),
    (s.pdOn 7 = true) ∧ (s.commitOf 0 p.val = some k) ∧ (k.job = c.job) ∧ (validateCommit s k.outs = none) ∧ (bit (c.job.n 17 1) 0 = true)
      ∧ (s.pair.enable = true) ∧ (s.pair.state = 3) ∧ (s.peerUp = true) :=
  ⟨{ running with pair := (paired 3 .active).pair, commits := [aCommit (cmd 0x31 [(16, 0xFF), (17, 1)]) 0 0xFF 0] }, cmd 0x31 [(16, 0xFF), (17, 1)], 7, aCommit (cmd 0x31 [(16, 0xFF), (17, 1)]) 0 0xFF 0, by decide +kernel⟩
theorem met_CommitsValidateThenApply_5 : ∃ (s : State) (c : Cmd) (p : Fin 8) (k : CommitRec),
    (s.pdOn 7 = true) ∧ (s.commitOf 0 p.val = some k) ∧ (k.job = c.job) ∧ (validateCommit s k.outs = none) ∧ (bit (c.job.n 17 1) 0 = true)
      ∧ (s.pair.enable = true) ∧ (s.pair.state ≠ 3) :=
  ⟨{ running with pair := (paired 1 .standby).pair, commits := [aCommit (cmd 0x31 [(16, 0xFF), (17, 1)]) 0 0xFF 0] }, cmd 0x31 [(16, 0xFF), (17, 1)], 7, aCommit (cmd 0x31 [(16, 0xFF), (17, 1)]) 0 0xFF 0, by decide +kernel⟩
theorem met_CommitsValidateThenApply_6 : ∃ (s : State) (c : Cmd) (p : Fin 8) (k : CommitRec),
    (s.pdOn 7 = true) ∧ (s.commitOf 2 p.val = some k) ∧ (bit k.left p.val = true) ∧ (bit k.skip p.val = false) ∧ ((s.tg p.val).running = true)
      ∧ ((s.tg p.val).blanking = false) ∧ ((s.cmp.shd.map (·.1)).Nodup) :=
  ⟨{ running with commits := [aCommit (cmd 0x31 [(16, 0xFF)]) 2 0xFF 0x80], cmp.shd := [(blockKey 1 7 0, pipeBlock)] }, cmd 0x31 [(16, 0xFF)], 7, aCommit (cmd 0x31 [(16, 0xFF)]) 2 0xFF 0x80, by decide +kernel⟩

/-! SlatesAreLoaded -/

theorem met_SlatesAreLoaded_1 : ∃ (s : State) (c : Cmd) (img : List Byte),
    let j := c.job
    (blocked s s.held (.slateLoad c img) c.job = false) ∧ (firstRefusal (begun s c) c.job (slateLoadSpec (begun s c) c.job) = none)
      ∧ (bit (j.n 17 1) 0 = false) ∧ (BytesHere s) :=
  ⟨live.setReg Reg.CMP_SLATE_BASE 0x80000000, cmd 0x38 [(16, 255), (18, 512), (20, 512), (32, 2048)], List.replicate 0x100000 1, by decide +kernel⟩
theorem met_SlatesAreLoaded_2 : ∃ (s : State) (c : Cmd) (img : List Byte),
    let j := c.job
    (blocked s s.held (.slateLoad c img) c.job = false) ∧ (firstRefusal (begun s c) c.job (slateLoadSpec (begun s c) c.job) = none)
      ∧ (bit (j.n 17 1) 0 = false) ∧ (s.isGateway = false) ∧ (s.fab.claimed = true) :=
  ⟨{ behind.setReg Reg.CMP_SLATE_BASE 0x80000000 with fab.claimed := true, fab.domain := 5 }, cmd 0x38 [(16, 255), (18, 512), (20, 512), (32, 2048)], List.replicate 0x100000 1, by decide +kernel⟩
theorem met_SlatesAreLoaded_3 : ∃ (s : State) (c : Cmd) (img : List Byte),
    let j := c.job
    (blocked s s.held (.slateLoad c img) c.job = false) ∧ (firstRefusal (begun s c) c.job (slateLoadSpec (begun s c) c.job) = none)
      ∧ (bit (j.n 17 1) 0 = true) :=
  ⟨live.setReg Reg.CMP_SLATE_BASE 0x80000000, cmd 0x38 [(16, 255), (17, 1)], List.replicate 0x100000 1, by decide +kernel⟩
theorem met_SlatesAreLoaded_4 : ∃ (s : State) (c : Cmd) (img : List Byte) (slot : Fin 256),
    let j := c.job
    let k := j.n 16 1
    (s.pdOn 2 = true) ∧ (s.cmp.copies = [(j, img)]) ∧ (k = slot.val) ∧ ((∀ n, n < 8 → (s.tg n).running = false))
      ∧ ((slateRows j (s.slateBase + k * 2 ^ 20) (j.n 18 2) (j.n 20 2) 0 img { s with cmp.copies := [] }).2 = true) :=
  ⟨{ live.setReg Reg.CMP_SLATE_BASE 0x80000000 with cmp.copies := [((cmd 0x38 [(16, 255), (18, 1), (20, 1), (32, 4)]).job, [1, 2, 3, 4])] }, cmd 0x38 [(16, 255), (18, 1), (20, 1), (32, 4)], [1, 2, 3, 4], 255, by decide +kernel⟩

/-! PoliciesBindingsAndSnapshots -/

theorem met_PoliciesAndBindings_1 : ∃ (s : State) (c : Cmd),
    (blocked s s.held (.fumPolicy c) c.job = false) ∧ (firstRefusal (begun s c) c.job (fumPolicySpec (begun s c) c.job) = none) :=
  ⟨live, cmd 0x40 [(16, 255), (20, 1683528), (24, 1), (28, 60000), (32, 10), (34, 60000), (36, 3600)], by decide +kernel⟩
theorem met_PoliciesAndBindings_2 : ∃ (s : State) (c : Cmd),
    let j := c.job
    (blocked s s.held (.fumBind c) c.job = false) ∧ (firstRefusal (begun s c) c.job (fumBindSpec (begun s c) c.job) = none) ∧ (j.n 16 1 = 0)
      ∧ (j.n 22 1 ≠ 0xFF) ∧ ((s.source (j.n 18 2)).prod = none) :=
  ⟨live, cmd 0x41 [(18, 1023), (22, 3), (24, 255), (17, 9)], by decide +kernel⟩
theorem met_PoliciesAndBindings_3 : ∃ (s : State) (c : Cmd),
    let j := c.job
    (blocked s s.held (.fumBind c) c.job = false) ∧ (firstRefusal (begun s c) c.job (fumBindSpec (begun s c) c.job) = none) ∧ (j.n 16 1 = 0)
      ∧ (j.n 22 1 ≠ 0xFF) ∧ ((s.source (j.n 18 2)).prod = some (prodKey (j.n 22 1) (j.n 24 2))) :=
  ⟨live.setSource 1023 { SourceRec.init with prod := some 5 }, cmd 0x41 [(18, 1023), (17, 9), (24, 5)], by decide +kernel⟩
theorem met_PoliciesAndBindings_4 : ∃ (s : State) (c : Cmd),
    let j := c.job
    (blocked s s.held (.fumBind c) c.job = false) ∧ (firstRefusal (begun s c) c.job (fumBindSpec (begun s c) c.job) = none) ∧ (j.n 16 1 = 0)
      ∧ (j.n 22 1 = 0xFF) :=
  ⟨live.setSource 1023 { SourceRec.init with prod := some 5 }, cmd 0x41 [(18, 1023), (22, 255)], by decide +kernel⟩
theorem met_PoliciesAndBindings_5 : ∃ (s : State) (c : Cmd),
    let j := c.job
    (blocked s s.held (.fumBind c) c.job = false) ∧ (firstRefusal (begun s c) c.job (fumBindSpec (begun s c) c.job) = none) ∧ (j.n 16 1 = 1) :=
  ⟨live, cmd 0x41 [(16, 1), (18, 4095), (20, 0xFFFF), (17, 255)], by decide +kernel⟩
theorem met_SnapshotsAreWritten_1 : ∃ (s : State) (c : Cmd) (b : List Byte),
    (blocked s s.held (.fumSnapshot c) c.job = false) ∧ (firstRefusal (begun s c) c.job (snapshotSpec (begun s c) c.job) = none) :=
  ⟨live, cmd 0x42 [(16, 64), (24, 83008)], [1, 2, 3], by decide +kernel⟩
theorem met_SnapshotsAreWritten_2 : ∃ (s : State) (c : Cmd) (b : List Byte),
    (s.pdOn 7 = true) ∧ (s.fum.snap = some (c.job, b)) ∧ (firstDenied s 0x28 (s.hostInternal (c.job.n 16 8)) b.length = none) ∧ (BytesHere s)
      ∧ (dmaOpen s c.job = false) :=
  ⟨{ live with fum.snap := some ((cmd 0x42 [(16, 64), (24, 83008)]).job, [1, 2, 3]) }, cmd 0x42 [(16, 64), (24, 83008)], [1, 2, 3], by decide +kernel⟩
theorem met_SnapshotsAreWritten_3 : ∃ (s : State) (c : Cmd) (b : List Byte),
    (s.pdOn 7 = true) ∧ (s.fum.snap = some (c.job, b)) ∧ (firstDenied s 0x28 (s.hostInternal (c.job.n 16 8)) b.length = none) ∧ (s.isGateway = false)
      ∧ (s.fab.claimed = true) ∧ (b ≠ []) :=
  ⟨{ behind with fum.snap := some ((cmd 0x42 [(16, 64), (24, 83008)]).job, [1, 2, 3]), fab.claimed := true, fab.domain := 5 }, cmd 0x42 [(16, 64), (24, 83008)], [1, 2, 3], by decide +kernel⟩
theorem met_SnapshotsAreWritten_4 : ∃ (s : State) (c : Cmd) (b : List Byte) (d : Nat × Nat),
    (BytesHere s) ∧ (dmaOpen s c.job = false) ∧ (s.pdOn 7 = true) ∧ (s.fum.snap = some (c.job, b))
      ∧ (firstDenied s 0x28 (s.hostInternal (c.job.n 16 8)) b.length = some d) :=
  ⟨{ live with fum.snap := some ((cmd 0x42 [(16, 64), (24, 83008)]).job, [1, 2, 3]), sys.mpu := [] }, cmd 0x42 [(16, 64), (24, 83008)], [1, 2, 3], (live.hostInternal 64, 3), by decide +kernel⟩

/-! TickEvaluatesSources -/

theorem met_TickEvaluatesSources_1 : ∃ (s : State) (i : Nat),
    (s.pdOn 7 = true) ∧ (s.fumRuns = true) ∧ ((s.source i).prod.isSome = true) :=
  ⟨{ live.setSource 1023 { SourceRec.init with prod := some 3, arrived := true } with ft := 400000000 }, 1023, by decide +kernel⟩

/-! TilesAreDecidedAndLinesGoOut -/

theorem met_TilesAreDecided_1 : ∃ (s : State) (k : Fin 4096) (r : LRec),
    (s.pdOn 7 = true) ∧ (shownRecord s k.val = some r) ∧ (r.kind = 1) ∧ (s.surface r.key = none) :=
  ⟨shows, 4095, (shownRecord shows 4095).getD (recordOf 0 []), by decide +kernel⟩
theorem met_TilesAreDecided_2 : ∃ (s : State) (k : Fin 4096) (r : LRec) (f : SurfRec),
    (s.pdOn 7 = true) ∧ (shownRecord s k.val = some r) ∧ (r.kind = 1) ∧ (s.surface r.key = some f) ∧ (releasing s r.key = false)
      ∧ (firstDenied s (0x20 + k.val / 512) f.block 32 = none) :=
  ⟨{ shows with surf.surfs := [(255, aSurf)], mem := [⟨0x100000, 7⟩, ⟨0x100004, 9⟩] }, 4095, (shownRecord shows 4095).getD (recordOf 0 []), aSurf, by decide +kernel⟩
theorem met_TilesAreDecided_3 : ∃ (s : State) (k : Fin 4096) (r : LRec),
    (s.pdOn 7 = true) ∧ (shownRecord s k.val = some r) ∧ ((r.clip (s.active (k.val / 512)).1 (s.active (k.val / 512)).2).isSome = true)
      ∧ (s.fumRuns = true) ∧ (svcShown s (k.val / 512) = false) :=
  ⟨shows, 4095, (shownRecord shows 4095).getD (recordOf 0 []), by decide +kernel⟩
theorem met_TilesAreDecided_4 : ∃ (s : State) (k : Fin 4096) (r : LRec),
    (s.pdOn 7 = true) ∧ ((s.tile k.val).win = true) ∧ ((s.tile k.val).winCnt ≠ 0) ∧ ((s.bindAct k.val).evt = true) :=
  ⟨{ shows.setTile 4095 { TileRec.init with win := true, winCnt := 3, winState := 6, winCause := 2 } with fum.act := [(4095, { source := none, policy := 0, steam := false, evt := true })] }, 4095, (shownRecord shows 4095).getD (recordOf 0 []), by decide +kernel⟩
theorem met_LinesGoOut_1 : ∃ (s : State) (n : Fin 8) (y : Nat) (late : List (Fin 4096)) (x : U16 × U16 × U16),
    (s.pdOn 7 = true) ∧ ((s.tg n.val).running = true) ∧ (y < (s.active n.val).2) :=
  ⟨running.setDp 7 { DpRec.init with trained := true }, 7, 0, [], (1, 2, 3), by decide +kernel⟩

/-! ModesApplyAndFramesStart -/

theorem met_ModesAreSetAndApplied_1 : ∃ (s : State) (c : Cmd) (n : Fin 8),
    (blocked s s.held (.modeSet c) c.job = false) ∧ (firstRefusal (begun s c) c.job (modeSetSpec (begun s c) c.job) = none) :=
  ⟨live, cmd 0x3A [(16, 7), (17, 21), (20, 4), (21, 3)], 7, by decide +kernel⟩
theorem met_ModesAreSetAndApplied_2 : ∃ (s : State) (c : Cmd) (n : Fin 8) (js : List Job),
    let j := c.job
    let m := modeCfgOf j
    let g := s.tg n.val
    (s.pdOn 7 = true) ∧ (g.jobs = j :: js) ∧ (g.waiting = none) ∧ (g.running = true) ∧ (m.idx = g.cfg.idx) ∧ (m.split = g.cfg.split)
      ∧ ((m.split = true → (s.tg (partner n.val)).jobs = [] ∧ (s.tg (partner n.val)).waiting = none)) :=
  ⟨live.setTg 7 { TgRec.init with jobs := [(cmd 0x3A [(16, 7), (17, 21), (20, 4)]).job], running := true, cfg := { ModeCfg.init with idx := 21 } }, cmd 0x3A [(16, 7), (17, 21), (20, 4)], 7, [], by decide +kernel⟩
theorem met_ModesAreSetAndApplied_3 : ∃ (s : State) (c : Cmd) (n : Fin 8) (js : List Job),
    let j := c.job
    let m := modeCfgOf j
    let g := s.tg n.val
    (s.pdOn 7 = true) ∧ (g.jobs = j :: js) ∧ (g.waiting = none) ∧ ((g.running = false ∨ m.idx ≠ g.cfg.idx ∨ m.split ≠ g.cfg.split))
      ∧ ((m.split = true → (s.tg (partner n.val)).jobs = [] ∧ (s.tg (partner n.val)).waiting = none)) :=
  ⟨live.setTg 7 { TgRec.init with jobs := [(cmd 0x3A [(16, 7), (17, 0), (20, 4)]).job], running := true, cfg := { ModeCfg.init with idx := 21 } }, cmd 0x3A [(16, 7), (17, 0), (20, 4)], 7, [], by decide +kernel⟩
theorem met_ModesAreSetAndApplied_4 : ∃ (s : State) (c : Cmd) (n : Fin 8),
    let g := s.tg n.val
    (s.pdOn 7 = true) ∧ (g.cfg.idx ≠ 0) ∧ (g.odd = false) ∧ (s.sys.dorm.isSome = true) :=
  ⟨{ running with sys.dorm := some { job := (cmd 0x70 []).job, wake := 0, links := 0, caps := [], posted := false, dead := false, image := none, events := [] } }, cmd 0x3A [(16, 7), (17, 21), (20, 4), (21, 3)], 7, by decide +kernel⟩
theorem met_FramesStart_1 : ∃ (s : State) (n : Fin 8),
    let g := s.tg n.val
    (s.pdOn 7 = true) ∧ (s.sys.dorm = none) ∧ (g.odd = false) ∧ (g.cfg.split = false) ∧ (g.cfg.idx ≠ 0) :=
  ⟨running, 7, by decide +kernel⟩
theorem met_FramesStart_2 : ∃ (s : State) (n : Fin 8) (m : ModeInfo),
    let g := s.tg n.val
    (s.pdOn 7 = true) ∧ (s.sys.dorm = none) ∧ (g.odd = false) ∧ (g.cfg.split = false) ∧ (g.running = true) ∧ (modeInfo g.cfg.idx = some m)
      ∧ (pacingRecord s n.val = none) :=
  ⟨running, 7, (modeInfo 1).get (by decide), by decide +kernel⟩
theorem met_FramesStart_3 : ∃ (s : State) (n : Fin 8) (m : ModeInfo) (q : Nat × LRec × SurfRec),
    let g := s.tg n.val
    (s.pdOn 7 = true) ∧ (s.sys.dorm = none) ∧ (g.odd = false) ∧ (g.cfg.split = false) ∧ (g.running = true) ∧ (modeInfo g.cfg.idx = some m)
      ∧ (pacingRecord s n.val = some q) ∧ ((s.clk - g.startClk) * m.num < m.hTot * m.vTot * m.den * 1000000000) :=
  ⟨paced 16000000, 7, (modeInfo 1).get (by decide), (pacingRecord (paced 16000000) 7).get (by decide +kernel), by decide +kernel⟩
theorem met_FramesStart_4 : ∃ (s : State) (n : Fin 8) (m : ModeInfo) (q : Nat × LRec × SurfRec),
    let g := s.tg n.val
    (s.pdOn 7 = true) ∧ (s.sys.dorm = none) ∧ (g.odd = false) ∧ (g.cfg.split = false) ∧ (g.running = true) ∧ (modeInfo g.cfg.idx = some m)
      ∧ (pacingRecord s n.val = some q) ∧ (m.hTot * m.vTot * m.den * 1000000000 ≤ (s.clk - g.startClk) * m.num) ∧ (3 ≤ g.ready.length)
      ∧ (g.ready.getD (g.ready.length - 3) false = true) :=
  ⟨(paced 16790000).setTg 7 { (paced 16790000).tg 7 with ready := [true, false, false] }, 7, (modeInfo 1).get (by decide), (pacingRecord (paced 16790000) 7).get (by decide +kernel), by decide +kernel⟩
theorem met_FramesStart_5 : ∃ (s : State) (n : Fin 8) (m : ModeInfo) (q : Nat × LRec × SurfRec),
    let g := s.tg n.val
    (s.pdOn 7 = true) ∧ (s.sys.dorm = none) ∧ (g.odd = false) ∧ (g.cfg.split = false) ∧ (g.running = true) ∧ (modeInfo g.cfg.idx = some m)
      ∧ (pacingRecord s n.val = some q) ∧ (m.hTot * m.vTot * m.den * 1000000000 ≤ (s.clk - g.startClk) * m.num)
      ∧ (g.cfg.paceMax < s.clk - g.startClk + m.linesNs 1) :=
  ⟨paced 16790000, 7, (modeInfo 1).get (by decide), (pacingRecord (paced 16790000) 7).get (by decide +kernel), by decide +kernel⟩

/-! PictureChecksAreConfiguredAndDecided -/

theorem met_ChecksAreConfigured_1 : ∃ (s : State) (c : Cmd) (k : Fin 128),
    let j := c.job
    (blocked s s.held (.checkCfg c) c.job = false) ∧ (firstRefusal (begun s c) c.job (checkCfgSpec (begun s c) c.job) = none)
      ∧ ((s.tg (j.n 16 1 / 16)).running = false) :=
  ⟨{ running with scan := { running.scan with tgs := [(7, { running.tg 7 with running := false })] } }, cmd 0x48 [(16, 127), (17, 1), (18, 3), (24, 64), (26, 64), (28, 0xFFFFFFFF), (36, 2 ^ 128 - 1)], 127, by decide +kernel⟩
theorem met_ChecksAreConfigured_2 : ∃ (s : State) (c : Cmd) (k : Fin 128),
    let j := c.job
    (blocked s s.held (.checkCfg c) c.job = false) ∧ (firstRefusal (begun s c) c.job (checkCfgSpec (begun s c) c.job) = none)
      ∧ ((s.tg (j.n 16 1 / 16)).running = true) :=
  ⟨running, cmd 0x48 [(16, 127), (17, 1), (18, 3), (24, 64), (26, 64), (28, 0xFFFFFFFF), (36, 2 ^ 128 - 1)], 127, by decide +kernel⟩
theorem met_ChecksAreConfigured_3 : ∃ (s : State) (c : Cmd) (k : Fin 128),
    let j := c.job
    (s.pdOn 7 = true) ∧ ((s.chk k.val).jobs = [j]) ∧ (j.n 16 1 = k.val) :=
  ⟨running.setChk 127 { ChkRec.init with jobs := [(cmd 0x48 [(16, 127), (17, 1)]).job] }, cmd 0x48 [(16, 127), (17, 1)], 127, by decide +kernel⟩
theorem met_ChecksAreDecided_1 : ∃ (s : State) (k : Fin 128),
    (s.pdOn 7 = true) ∧ (evaluated s k.val = false) :=
  ⟨running, 127, by decide +kernel⟩
theorem met_ChecksAreDecided_2 : ∃ (s : State) (k : Fin 128),
    let r := s.chk k.val
    (s.pdOn 7 = true) ∧ (evaluated s k.val = true) ∧ (r.done = false) :=
  ⟨((running.setTg 7 { running.tg 7 with started := true }).setDp 7 { DpRec.init with trained := true, wholeFrame := true }).setChk 127 { ChkRec.init with mode := 2, persist := 1, refAcc := 1 }, 127, by decide +kernel⟩
theorem met_ChecksAreDecided_3 : ∃ (s : State) (k : Fin 128),
    let r := s.chk k.val
    (s.pdOn 7 = true) ∧ (r.win = true) ∧ (r.winCnt ≠ 0) :=
  ⟨running.setChk 127 { ChkRec.init with win := true, winCnt := 2 }, 127, by decide +kernel⟩

/-! SinksComeAndGoAndDpRegistersAct -/

theorem met_DpRegistersAct_1 : ∃ (s : State) (a : Acc) (n : Fin 8) (v : U32),
    ((s.pdOn 2 = true ∧ s.sys.mode ≠ .dormant ∧ admitted a = true ∧ mpuOk s (Acc.mid a) (regSpace + ((Reg.OUT_DP_CTRL + 0x100 * n.val))) 4 = true))
      ∧ (v.getLsbD 0 = true) ∧ ((s.dp n.val).edidBusy = false) :=
  ⟨live, .pf0, 7, 1, by decide +kernel⟩
theorem met_DpRegistersAct_2 : ∃ (s : State) (a : Acc) (n : Fin 8) (v : U32),
    ((s.pdOn 2 = true ∧ s.sys.mode ≠ .dormant ∧ admitted a = true ∧ mpuOk s (Acc.mid a) (regSpace + ((Reg.OUT_DP_CTRL + 0x100 * n.val))) 4 = true))
      ∧ (v.getLsbD 0 = true) ∧ ((s.dp n.val).edidBusy = true) :=
  ⟨live.setDp 7 { DpRec.init with edidBusy := true }, .pf0, 7, 1, by decide +kernel⟩
theorem met_DpRegistersAct_3 : ∃ (s : State) (a : Acc) (n : Fin 8) (v : U32),
    ((s.pdOn 2 = true ∧ s.sys.mode ≠ .dormant ∧ admitted a = true ∧ mpuOk s (Acc.mid a) (regSpace + ((Reg.OUT_DP_CTRL + 0x100 * n.val))) 4 = true))
      ∧ (v.getLsbD 0 = false) ∧ (v.getLsbD 1 = true) ∧ ((s.dp n.val).hpd = true) ∧ ((s.tg n.val).cfg.idx ≠ 0) :=
  ⟨sinking 3 4, .pf0, 7, 2, by decide +kernel⟩
theorem met_DpRegistersAct_4 : ∃ (s : State) (a : Acc) (n : Fin 8) (v : U32),
    ((s.pdOn 2 = true ∧ s.sys.mode ≠ .dormant ∧ admitted a = true ∧ mpuOk s (Acc.mid a) (regSpace + ((Reg.OUT_DP_TRIM_OVR + 0x100 * n.val))) 4 = true))
      ∧ (privileged s a = true) ∧ ((v.getLsbD 31 = false ∨ s.sys.mode = .service)) :=
  ⟨{ live with sys.mode := .service }, .pf0, 7, 0x80003F1F, by decide +kernel⟩
theorem met_DpRegistersAct_5 : ∃ (s : State) (a : Acc) (n : Fin 8) (v : U32),
    ((s.pdOn 2 = true ∧ s.sys.mode ≠ .dormant ∧ admitted a = true ∧ mpuOk s (Acc.mid a) (regSpace + ((Reg.OUT_DP_TRIM_OVR + 0x100 * n.val))) 4 = true))
      ∧ (privileged s a = true) ∧ (v.getLsbD 31 = true) ∧ (s.sys.mode ≠ .service) :=
  ⟨live, .pf0, 7, 0x80003F1F, by decide +kernel⟩
theorem met_SinksComeAndGo_1 : ∃ (s : State) (n : Fin 8) (caps : SinkCaps) (res : EdidEnd),
    let d := s.dp n.val
    (s.pdOn 7 = true) ∧ (d.hpd = true) :=
  ⟨sinking 3 4, 7, { maxRate := 1, maxLanes := 2, tps3 := true, tps4 := false, adaptive := true }, .absent, by decide +kernel⟩
theorem met_SinksComeAndGo_2 : ∃ (s : State) (n : Fin 8) (caps : SinkCaps) (res : EdidEnd),
    let d := s.dp n.val
    (s.pdOn 7 = true) ∧ (d.hpd = false) :=
  ⟨running, 7, { maxRate := 1, maxLanes := 2, tps3 := true, tps4 := false, adaptive := true }, .absent, by decide +kernel⟩
theorem met_SinksComeAndGo_3 : ∃ (s : State) (n : Fin 8) (caps : SinkCaps) (res : EdidEnd) (lost : Bool),
    let d := s.dp n.val
    (s.pdOn 7 = true) ∧ (d.hpd = true) :=
  ⟨sinking 3 4, 7, { maxRate := 1, maxLanes := 2, tps3 := true, tps4 := false, adaptive := true }, .absent, true, by decide +kernel⟩
theorem met_SinksComeAndGo_4 : ∃ (s : State) (n : Fin 8) (caps : SinkCaps) (res : EdidEnd),
    let d := s.dp n.val
    (s.pdOn 7 = true) ∧ (d.edidBusy = true) :=
  ⟨running.setDp 7 { DpRec.init with edidBusy := true }, 7, { maxRate := 1, maxLanes := 2, tps3 := true, tps4 := false, adaptive := true }, .absent, by decide +kernel⟩

/-! DpTrainingDescends -/

theorem met_DpTrainingDescends_1 : ∃ (s : State) (n : Fin 8) (m : ModeInfo) (drive : U16),
    let d := s.dp n.val
    (s.pdOn 7 = true) ∧ (modeInfo (s.tg n.val).cfg.idx = some m) ∧ (d.training = true) :=
  ⟨sinking 3 4, 7, (modeInfo 1).get (by decide), 0x3FFF, by decide +kernel⟩
theorem met_DpTrainingDescends_2 : ∃ (s : State) (n : Fin 8) (m : ModeInfo),
    let d := s.dp n.val
    (s.pdOn 7 = true) ∧ (modeInfo (s.tg n.val).cfg.idx = some m) ∧ (d.training = true) ∧ (d.tryRate ≠ 0)
      ∧ (linkCarries m (d.tryRate - 1) d.tryLanes 8 = true) :=
  ⟨sinking 3 4, 7, (modeInfo 1).get (by decide), by decide +kernel⟩
theorem met_DpTrainingDescends_3 : ∃ (s : State) (n : Fin 8) (m : ModeInfo),
    let d := s.dp n.val
    (s.pdOn 7 = true) ∧ (modeInfo (s.tg n.val).cfg.idx = some m) ∧ (d.training = true)
      ∧ ((d.tryRate = 0 ∨ linkCarries m (d.tryRate - 1) d.tryLanes 8 = false)) :=
  ⟨sinking 0 1, 7, (modeInfo 1).get (by decide), by decide +kernel⟩
theorem met_DpTrainingDescends_4 : ∃ (s : State) (n : Fin 8) (m : ModeInfo),
    let d := s.dp n.val
    (s.pdOn 7 = true) ∧ (modeInfo (s.tg n.val).cfg.idx = some m) ∧ (d.training = true) ∧ (d.tryLanes > 1)
      ∧ (linkCarries m d.tryRate (d.tryLanes / 2) 8 = true) :=
  ⟨sinking 3 4, 7, (modeInfo 1).get (by decide), by decide +kernel⟩
theorem met_DpTrainingDescends_5 : ∃ (s : State) (n : Fin 8) (m : ModeInfo),
    let d := s.dp n.val
    let top := min (s.tg n.val).cfg.lanes d.caps.maxLanes
    (s.pdOn 7 = true) ∧ (modeInfo (s.tg n.val).cfg.idx = some m) ∧ (d.training = true)
      ∧ ((d.tryLanes ≤ 1 ∨ linkCarries m d.tryRate (d.tryLanes / 2) 8 = false)) ∧ (d.tryRate ≠ 0) ∧ (linkCarries m (d.tryRate - 1) top 8 = true) :=
  ⟨sinking 3 1, 7, (modeInfo 1).get (by decide), by decide +kernel⟩
theorem met_DpTrainingDescends_6 : ∃ (s : State) (n : Fin 8) (m : ModeInfo),
    let d := s.dp n.val
    let top := min (s.tg n.val).cfg.lanes d.caps.maxLanes
    (s.pdOn 7 = true) ∧ (modeInfo (s.tg n.val).cfg.idx = some m) ∧ (d.training = true)
      ∧ ((d.tryLanes ≤ 1 ∨ linkCarries m d.tryRate (d.tryLanes / 2) 8 = false)) ∧ ((d.tryRate = 0 ∨ linkCarries m (d.tryRate - 1) top 8 = false)) :=
  ⟨sinking 0 1, 7, (modeInfo 1).get (by decide), by decide +kernel⟩
theorem met_DpTrainingDescends_7 : ∃ (s : State) (n : Fin 8) (m : ModeInfo),
    let d := s.dp n.val
    (s.pdOn 7 = true) ∧ (modeInfo (s.tg n.val).cfg.idx = some m) ∧ (d.retry = true) ∧ (d.hpd = true) ∧ ((s.tg n.val).cfg.idx ≠ 0) :=
  ⟨running.setDp 7 { DpRec.init with hpd := true, retry := true }, 7, (modeInfo 1).get (by decide), by decide +kernel⟩

/-! LanesAreControlledAndCalibrated -/

theorem met_LaneControlActs_1 : ∃ (s : State) (a : Acc) (l : Fin 11) (i : Fin 2) (v : U32),
    ((s.pdOn 2 = true ∧ s.sys.mode ≠ .dormant ∧ admitted a = true ∧ mpuOk s (Acc.mid a) (regSpace + ((Reg.FAB_LANE_CTRL + 0x10 * l.val))) 4 = true))
      ∧ (v.getLsbD 8 = false) ∧ (v.getLsbD 0 = true) ∧ (s.linkUp l.val = true) ∧ ((s.lane l.val i.val).run = none) :=
  ⟨linkIn 10 .up, .pf0, 10, 1, 1, by decide +kernel⟩
theorem met_LaneControlActs_2 : ∃ (s : State) (a : Acc) (l : Fin 11) (i : Fin 2) (v : U32),
    ((s.pdOn 2 = true ∧ s.sys.mode ≠ .dormant ∧ admitted a = true ∧ mpuOk s (Acc.mid a) (regSpace + ((Reg.FAB_LANE_CTRL + 0x10 * l.val))) 4 = true))
      ∧ (v.getLsbD 8 = false) ∧ (v.getLsbD 0 = true) ∧ ((s.lane l.val i.val).run.isSome = true) :=
  ⟨(linkIn 10 .up).setLane 10 1 { LaneRec.init with run := some { m0 := 0, stage := 0, up := true, tried := false, steps := 0, old := 0, last := none } }, .pf0, 10, 1, 1, by decide +kernel⟩
theorem met_LaneControlActs_3 : ∃ (s : State) (a : Acc) (l : Fin 11) (i : Fin 2) (v : U32),
    ((s.pdOn 2 = true ∧ s.sys.mode ≠ .dormant ∧ admitted a = true ∧ mpuOk s (Acc.mid a) (regSpace + ((Reg.FAB_LANE_CTRL + 0x10 * l.val))) 4 = true))
      ∧ (v.getLsbD 8 = true) ∧ (s.sys.mode = .service) :=
  ⟨{ live with sys.mode := .service }, .pf0, 10, 1, 0x1F0100, by decide +kernel⟩
theorem met_LaneControlActs_4 : ∃ (s : State) (a : Acc) (l : Fin 11) (i : Fin 2) (v : U32),
    ((s.pdOn 2 = true ∧ s.sys.mode ≠ .dormant ∧ admitted a = true ∧ mpuOk s (Acc.mid a) (regSpace + ((Reg.FAB_LANE_CTRL + 0x10 * l.val))) 4 = true))
      ∧ (v.getLsbD 8 = true) ∧ (s.sys.mode ≠ .service) :=
  ⟨linkIn 10 .up, .pf0, 10, 1, 0x1F0100, by decide +kernel⟩
theorem met_LanesAreCalibrated_1 : ∃ (s : State) (l : Fin 11) (i : Fin 2) (e : Eye) (temp : Int),
    let r := s.lane l.val i.val
    (s.pdOn 9 = true) ∧ (s.linkUp l.val = true) ∧ (r.run = none) ∧ (r.ovr = false) ∧ ((temp - r.tref).natAbs > 16 * bits (s.reg Reg.FAB_LANE_CFG) 4 0) :=
  ⟨linkIn 10 .up, 10, 1, { clean := List.replicate 64 true, own := 32, below := 150, above := 150, offsets := [0, 0, 0, 0] }, 2000, by decide +kernel⟩
theorem met_LanesAreCalibrated_2 : ∃ (s : State) (l : Fin 11) (i : Fin 2) (e : Eye) (temp : Int),
    let r := s.lane l.val i.val
    (s.pdOn 9 = true) ∧ ((temp - r.tref).natAbs ≤ 16 * bits (s.reg Reg.FAB_LANE_CFG) 4 0) :=
  ⟨live, 10, 1, { clean := List.replicate 64 true, own := 32, below := 150, above := 150, offsets := [0, 0, 0, 0] }, 0, by decide +kernel⟩
theorem met_LanesAreCalibrated_3 : ∃ (s : State) (l : Fin 11) (i : Fin 2) (e : Eye) (temp : Int),
    let r := s.lane l.val i.val
    (s.pdOn 9 = true) ∧ (s.linkUp l.val = true) ∧ (r.ovr = false) ∧ (r.run = none) :=
  ⟨linkIn 10 .up, 10, 1, { clean := List.replicate 64 true, own := 32, below := 150, above := 150, offsets := [0, 0, 0, 0] }, 2000, by decide +kernel⟩
theorem met_LanesAreCalibrated_4 : ∃ (s : State) (l : Fin 11) (i : Fin 2) (e : Eye) (temp : Int) (u : RunRec),
    let r := s.lane l.val i.val
    (s.pdOn 9 = true) ∧ (s.linkUp l.val = true) ∧ (r.ovr = false) ∧ (r.run = some u) ∧ (u.stage = 0) ∧ (r.queue = [])
      ∧ ((let c := if u.up then (r.ctle : Int) + 1 else r.ctle - 1; (laneBounds s l.val).1 ≤ c ∧ c ≤ (laneBounds s l.val).2)) :=
  ⟨(linkIn 10 .up).setLane 10 1 { LaneRec.init with run := some { m0 := 0, stage := 0, up := true, tried := false, steps := 0, old := 0, last := none } }, 10, 1, { clean := List.replicate 64 true, own := 32, below := 150, above := 150, offsets := [0, 0, 0, 0] }, 2000, { m0 := 0, stage := 0, up := true, tried := false, steps := 0, old := 0, last := none }, by decide +kernel⟩
theorem met_LanesAreCalibrated_5 : ∃ (s : State) (l : Fin 11) (i : Fin 2) (e : Eye) (temp : Int) (u : RunRec),
    let r := s.lane l.val i.val
    (s.pdOn 9 = true) ∧ (s.linkUp l.val = true) ∧ (r.ovr = false) ∧ (r.run = some u) ∧ (u.stage = 0) ∧ (r.queue = []) ∧ (r.again = false)
      ∧ (laneDrift s l.val i.val = false)
      ∧ ((let c := if u.up then (r.ctle : Int) + 1 else r.ctle - 1; c < (laneBounds s l.val).1 ∨ (laneBounds s l.val).2 < c)) :=
  ⟨(linkIn 10 .up).setLane 10 1 { LaneRec.init with ctle := 31, tref := laneTemp live 10, run := some { m0 := 0, stage := 0, up := true, tried := false, steps := 0, old := 0, last := none } }, 10, 1, { clean := List.replicate 64 true, own := 32, below := 150, above := 150, offsets := [0, 0, 0, 0] }, 2000, { m0 := 0, stage := 0, up := true, tried := false, steps := 0, old := 0, last := none }, by decide +kernel⟩
theorem met_LanesAreCalibrated_6 : ∃ (s : State) (l : Fin 11) (i : Fin 2) (e : Eye) (temp : Int) (what : Nat) (up : Bool) (q : List (Nat × Bool)),
    let r := s.lane l.val i.val
    (s.pdOn 9 = true) ∧ (r.queue = (what, up) :: q) :=
  ⟨live.setLane 10 1 { LaneRec.init with queue := [(0, true)] }, 10, 1, { clean := List.replicate 64 true, own := 32, below := 150, above := 150, offsets := [0, 0, 0, 0] }, 2000, 0, true, [], by decide +kernel⟩

/-! TouchPortsAreConfiguredAndRun -/

theorem met_TouchIsConfigured_1 : ∃ (s : State) (c : Cmd) (img : List Byte),
    (blocked s s.held (.touchMap c) c.job = false) ∧ (firstRefusal (begun s c) c.job (touchMapSpec (begun s c) c.job) = none) :=
  ⟨live, cmd 0x60 [(16, 1), (17, 0xFF), (18, 7), (24, 1023), (26, 1791), (28, 8191), (30, 8191), (32, 8192), (34, 8192)], List.replicate 14720 0, by decide +kernel⟩
theorem met_TouchIsConfigured_2 : ∃ (s : State) (c : Cmd) (img : List Byte),
    let j := c.job
    (blocked s s.held (.touchRefLoad c img) c.job = false) ∧ (firstRefusal (begun s c) c.job (touchRefSpec (begun s c) c.job) = none)
      ∧ (bit (j.n 17 1) 0 = true) :=
  ⟨live, cmd 0x61 [(16, 1), (17, 1)], List.replicate 14720 0, by decide +kernel⟩
theorem met_TouchIsConfigured_3 : ∃ (s : State) (c : Cmd) (img : List Byte),
    let j := c.job
    let ref := hostData s img 14720
    (blocked s s.held (.touchRefLoad c img) c.job = false) ∧ (firstRefusal (begun s c) c.job (touchRefSpec (begun s c) c.job) = none)
      ∧ (bit (j.n 17 1) 0 = false) ∧ (BytesHere s) ∧ (panelOk ref = true) :=
  ⟨live, cmd 0x61 [(16, 1), (24, 4), (32, 14720)], leBytes 4 0x08247EF0 ++ leBytes 2 1 ++ leBytes 1 12 ++ List.replicate 14713 7, by decide +kernel⟩
theorem met_TouchIsConfigured_4 : ∃ (s : State) (c : Cmd) (img : List Byte),
    let j := c.job
    let ref := hostData s img 14720
    (blocked s s.held (.touchRefLoad c img) c.job = false) ∧ (firstRefusal (begun s c) c.job (touchRefSpec (begun s c) c.job) = none)
      ∧ (bit (j.n 17 1) 0 = false) ∧ (BytesHere s) ∧ (panelOk ref = false) :=
  ⟨live, cmd 0x61 [(16, 1), (24, 4), (32, 14720)], List.replicate 14720 0, by decide +kernel⟩
theorem met_TouchIsConfigured_5 : ∃ (s : State) (c : Cmd) (img : List Byte),
    let j := c.job
    (blocked s s.held (.touchRefLoad c img) c.job = false) ∧ (firstRefusal (begun s c) c.job (touchRefSpec (begun s c) c.job) = none)
      ∧ (bit (j.n 17 1) 0 = false) ∧ (s.isGateway = false) ∧ (s.fab.claimed = true) :=
  ⟨{ behind with fab.claimed := true, fab.domain := 5 }, cmd 0x61 [(16, 1), (24, 4), (32, 14720)], List.replicate 14720 0, by decide +kernel⟩
theorem met_TouchPortsStartAndStop_1 : ∃ (s : State) (a : Acc) (p : Fin 2) (v : U32),
    let was := s.tchReg Reg.EDG_TCH_CTRL p.val
    let ok := v.getLsbD 1 = false ∨ s.sys.mode = .service
    ((s.pdOn 2 = true ∧ s.sys.mode ≠ .dormant ∧ admitted a = true ∧ mpuOk s (Acc.mid a) (regSpace + ((tchOff Reg.EDG_TCH_CTRL p.val))) 4 = true)) ∧ (ok)
      ∧ (bit was 0 = false) ∧ (v.getLsbD 0 = true) :=
  ⟨live, .pf0, 1, 1, by decide +kernel⟩
theorem met_TouchPortsStartAndStop_2 : ∃ (s : State) (a : Acc) (p : Fin 2) (v : U32),
    let was := s.tchReg Reg.EDG_TCH_CTRL p.val
    let ok := v.getLsbD 1 = false ∨ s.sys.mode = .service
    ((s.pdOn 2 = true ∧ s.sys.mode ≠ .dormant ∧ admitted a = true ∧ mpuOk s (Acc.mid a) (regSpace + ((tchOff Reg.EDG_TCH_CTRL p.val))) 4 = true)) ∧ (ok)
      ∧ (bit was 0 = true) ∧ (v.getLsbD 0 = false) :=
  ⟨touching 1, .pf0, 1, 0, by decide +kernel⟩
theorem met_TouchPortsStartAndStop_3 : ∃ (s : State) (a : Acc) (p : Fin 2) (v : U32),
    let was := s.tchReg Reg.EDG_TCH_CTRL p.val
    let ok := v.getLsbD 1 = false ∨ s.sys.mode = .service
    ((s.pdOn 2 = true ∧ s.sys.mode ≠ .dormant ∧ admitted a = true ∧ mpuOk s (Acc.mid a) (regSpace + ((tchOff Reg.EDG_TCH_CTRL p.val))) 4 = true)) ∧ (ok)
      ∧ (v.getLsbD 0 = bit was 0) :=
  ⟨{ touching 1 with sys.mode := .service }, .pf0, 1, 3, by decide +kernel⟩
theorem met_TouchPortsStartAndStop_4 : ∃ (s : State) (a : Acc) (p : Fin 2) (v : U32),
    let ok := v.getLsbD 1 = false ∨ s.sys.mode = .service
    ((s.pdOn 2 = true ∧ s.sys.mode ≠ .dormant ∧ admitted a = true ∧ mpuOk s (Acc.mid a) (regSpace + ((tchOff Reg.EDG_TCH_CTRL p.val))) 4 = true))
      ∧ (¬ ok) :=
  ⟨touching 1, .pf0, 1, 3, by decide +kernel⟩

/-! PortsAreScanned -/

theorem met_PortsAreScanned_1 : ∃ (s : State) (p : Fin 2) (nodes : List U16) (selfs : List U16) (noise : List U16),
    let r := s.tch p.val
    let n := r.cur.getD (cycleOf s.ft.toNat)
    let runs := r.scanning = true ∧ (r.cur.isSome = true ∨ r.first ≤ n)
    (s.pdOn 1 = true) ∧ (runs) ∧ (r.stopping = false) :=
  ⟨touching 1, 1, List.replicate 7168 1000, List.replicate 176 500, [1, 2], by decide +kernel⟩
theorem met_PortsAreScanned_2 : ∃ (s : State) (p : Fin 2) (nodes : List U16) (selfs : List U16) (noise : List U16),
    let r := s.tch p.val
    let n := r.cur.getD (cycleOf s.ft.toNat)
    let runs := r.scanning = true ∧ (r.cur.isSome = true ∨ r.first ≤ n)
    (s.pdOn 1 = true) ∧ (runs) ∧ (r.stopping = true) :=
  ⟨(touching 0).setTch 1 { (touching 0).tch 1 with stopping := true }, 1, List.replicate 7168 1000, List.replicate 176 500, [1, 2], by decide +kernel⟩
theorem met_PortsAreScanned_3 : ∃ (s : State) (p : Fin 2) (nodes : List U16) (selfs : List U16) (noise : List U16),
    let r := s.tch p.val
    let n := r.cur.getD (cycleOf s.ft.toNat)
    let runs := r.scanning = true ∧ (r.cur.isSome = true ∨ r.first ≤ n)
    (¬ runs) :=
  ⟨live, 1, List.replicate 7168 1000, List.replicate 176 500, [1, 2], by decide +kernel⟩
theorem met_PortsAreScanned_4 : ∃ (s : State) (p : Fin 2) (nodes : List U16) (selfs : List U16) (noise : List U16),
    let wake := s.reg Reg.EDG_TCH_WAKE
    (s.sys.mode = .dormant) ∧ (bit wake 0 = true) ∧ (s.touch.wake.seeded = false) :=
  ⟨{ (live.setReg Reg.EDG_TCH_WAKE 1) with sys.mode := .dormant }, 1, List.replicate 14 9, List.replicate 8 5, [1, 2], by decide +kernel⟩
theorem met_PortsAreScanned_5 : ∃ (s : State) (p : Fin 2) (nodes : List U16) (selfs : List U16) (noise : List U16),
    let wake := s.reg Reg.EDG_TCH_WAKE
    (s.sys.mode = .dormant) ∧ (bit wake 0 = true) ∧ (s.touch.wake.seeded = true) :=
  ⟨{ (live.setReg Reg.EDG_TCH_WAKE 1) with sys.mode := .dormant, touch.wake.seeded := true }, 1, List.replicate 14 9, List.replicate 8 5, [1, 2], by decide +kernel⟩
theorem met_PortsAreScanned_6 : ∃ (s : State) (p : Fin 2) (nodes : List U16) (selfs : List U16) (noise : List U16),
    let wake := s.reg Reg.EDG_TCH_WAKE
    (s.sys.mode ≠ .dormant ∨ bit wake 0 = false) :=
  ⟨live, 1, List.replicate 7168 1000, List.replicate 176 500, [1, 2], by decide +kernel⟩

/-! DoorbellsMoveRings -/

theorem met_DoorbellsMoveRings_1 : ∃ (s : State) (f : Fin 2) (q : Fin 64) (v : U32),
    let n := v.toNat
    let sc := s.sqCtrl f.val q.val
    (s.pdOn 2 = true) ∧ (s.sys.mode ≠ .dormant) ∧ (bit sc 31 = true) ∧ (n < sqSize sc) ∧ (n < 4096) :=
  ⟨rings, 1, 63, 15, by decide +kernel⟩
theorem met_DoorbellsMoveRings_2 : ∃ (s : State) (f : Fin 2) (q : Fin 64) (v : U32) (al : Bool),
    let n := v.toNat
    let sc := s.sqCtrl f.val q.val
    (s.pdOn 2 = true) ∧ (s.sys.mode ≠ .dormant) ∧ ((al = false ∨ bit sc 31 = false ∨ sqSize sc ≤ n ∨ 4096 ≤ n)) :=
  ⟨rings, 1, 63, 16, true, by decide +kernel⟩
theorem met_DoorbellsMoveRings_3 : ∃ (s : State) (f : Fin 2) (q : Fin 64) (v : U32),
    let n := v.toNat
    let cc := s.cqCtrl f.val q.val
    (s.pdOn 2 = true) ∧ (s.sys.mode ≠ .dormant) ∧ (bit cc 31 = true) ∧ (n < cqSize cc) ∧ (n < 4096) :=
  ⟨{ rings with host.cq := [(127, { head := 0, tail := 15, phase := true, since := 0, first := 0, lostPend := 0 })] }, 1, 63, 1, by decide +kernel⟩
theorem met_DoorbellsMoveRings_4 : ∃ (s : State) (f : Fin 2) (q : Fin 64) (v : U32) (al : Bool),
    let n := v.toNat
    let cc := s.cqCtrl f.val q.val
    (s.pdOn 2 = true) ∧ (s.sys.mode ≠ .dormant) ∧ ((al = false ∨ bit cc 31 = false ∨ cqSize cc ≤ n ∨ 4096 ≤ n)) :=
  ⟨rings, 1, 63, 15, false, by decide +kernel⟩
theorem met_DoorbellsMoveRings_5 : ∃ (s : State) (f : Fin 2) (q : Fin 64) (v : U32),
    let n := v.toNat
    let ec := s.reg (evqOff 0 f.val Reg.HST_EVQ_CTRL)
    let e := s.host.evq.getD f.val CqRec.init
    (s.pdOn 2 = true) ∧ (s.sys.mode ≠ .dormant) ∧ (bit ec 31 = true) ∧ (n < cqSize ec) ∧ (n < 4096)
      ∧ ((e.lostPend = 0 ∨ ringFull (cqSize ec) n e.tail = true)) :=
  ⟨rings, 1, 63, 15, by decide +kernel⟩
theorem met_DoorbellsMoveRings_6 : ∃ (s : State) (f : Fin 2) (q : Fin 64) (v : U32),
    let n := v.toNat
    let ec := s.reg (evqOff 0 f.val Reg.HST_EVQ_CTRL)
    let e := s.host.evq.getD f.val CqRec.init
    (s.pdOn 2 = true) ∧ (s.sys.mode ≠ .dormant) ∧ (bit ec 31 = true) ∧ (n < cqSize ec) ∧ (n < 4096) ∧ (e.lostPend ≠ 0)
      ∧ (ringFull (cqSize ec) n e.tail = false) :=
  ⟨{ rings with host.evq := [(1, { head := 0, tail := 15, phase := true, since := 0, first := 0, lostPend := 7 })] }, 1, 63, 1, by decide +kernel⟩
theorem met_DoorbellsMoveRings_7 : ∃ (s : State) (f : Fin 2) (q : Fin 64) (v : U32) (al : Bool),
    let n := v.toNat
    let ec := s.reg (evqOff 0 f.val Reg.HST_EVQ_CTRL)
    (s.pdOn 2 = true) ∧ (s.sys.mode ≠ .dormant) ∧ ((al = false ∨ bit ec 31 = false ∨ cqSize ec ≤ n ∨ 4096 ≤ n)) :=
  ⟨rings, 1, 63, 16, true, by decide +kernel⟩
theorem met_DoorbellsMoveRings_8 : ∃ (s : State) (f : Fin 2) (q : Fin 64) (v : U32),
    (s.sys.mode = .dormant) :=
  ⟨{ rings with sys.mode := .dormant }, 1, 63, 15, by decide +kernel⟩
theorem met_DoorbellsMoveRings_9 : ∃ (s : State) (f : Fin 2) (q : Fin 64) (v : U32),
    (s.sys.mode = .dormant) :=
  ⟨{ rings with sys.mode := .dormant }, 1, 63, 15, by decide +kernel⟩
theorem met_DoorbellsMoveRings_10 : ∃ (s : State) (f : Fin 2) (q : Fin 64) (v : U32),
    (s.sys.mode = .dormant) :=
  ⟨{ rings with sys.mode := .dormant }, 1, 63, 15, by decide +kernel⟩

/-! DescriptorsAreFetchedAndCompletionsWritten -/

theorem met_DescriptorsAreFetched_1 : ∃ (s : State) (desc : BitVec 512) (k : Nat) (err : Bool),
    (s.pdOn 2 = true) ∧ (s.sys.dorm = none) ∧ (nextSq s = none) :=
  ⟨rings, Tests.desc 1 [(4, 63)], 127, true, by decide +kernel⟩
theorem met_DescriptorsAreFetched_2 : ∃ (s : State) (k m : Nat), s.pdOn 2 = true ∧ s.sys.dorm = none ∧ nextSq s = some k ∧ m < 128 ∧ fetchable s m = true :=
  ⟨{ rings with host.sq := [(127, { head := 15, tail := 1, halted := false, waitCq := none, ahead := 0 })] }, 127, 127, by decide +kernel⟩
theorem met_DescriptorsAreFetched_3 : ∃ (s : State) (desc : BitVec 512) (k : Nat),
    let f := k / 64
    let q := k % 64
    let j : Job := { org := .ring f q, desc := desc }
    let cq := j.n 4 1
    (s.pdOn 2 = true) ∧ (s.sys.dorm = none) ∧ (nextSq s = some k) ∧ (cq < 64) ∧ (bit (s.cqCtrl f cq) 31 = true)
      ∧ (ringFull (cqSize (s.cqCtrl f cq)) (s.cq f cq).head (s.cq f cq).tail = false) :=
  ⟨{ rings with host.sq := [(127, { head := 15, tail := 1, halted := false, waitCq := none, ahead := 0 })] }, Tests.desc 1 [(4, 63)], 127, by decide +kernel⟩
theorem met_DescriptorsAreFetched_4 : ∃ (s : State) (desc : BitVec 512) (k : Nat),
    let f := k / 64
    let q := k % 64
    let j : Job := { org := .ring f q, desc := desc }
    let cq := j.n 4 1
    (s.pdOn 2 = true) ∧ (s.sys.dorm = none) ∧ (nextSq s = some k) ∧ (cq < 64) ∧ (bit (s.cqCtrl f cq) 31 = true)
      ∧ (ringFull (cqSize (s.cqCtrl f cq)) (s.cq f cq).head (s.cq f cq).tail = true) :=
  ⟨{ rings with host.sq := [(127, { head := 15, tail := 1, halted := false, waitCq := none, ahead := 0 })], host.cq := [(127, { head := 0, tail := 15, phase := true, since := 0, first := 0, lostPend := 0 })] }, Tests.desc 1 [(4, 63)], 127, by decide +kernel⟩
theorem met_DescriptorsAreFetched_5 : ∃ (s : State) (desc : BitVec 512) (k : Nat),
    let f := k / 64
    let q := k % 64
    let j : Job := { org := .ring f q, desc := desc }
    let cq := j.n 4 1
    (s.pdOn 2 = true) ∧ (s.sys.dorm = none) ∧ (nextSq s = some k) ∧ ((64 ≤ cq ∨ bit (s.cqCtrl f cq) 31 = false)) :=
  ⟨{ rings with host.sq := [(127, { head := 15, tail := 1, halted := false, waitCq := none, ahead := 0 })] }, Tests.desc 1 [(4, 64)], 127, by decide +kernel⟩
theorem met_DescriptorsAreFetched_6 : ∃ (s : State) (desc : BitVec 512) (k : Nat),
    (s.pdOn 2 = true) ∧ (s.sys.dorm = none) ∧ (nextSq s = some k) :=
  ⟨{ rings with host.sq := [(127, { head := 15, tail := 1, halted := false, waitCq := none, ahead := 0 })] }, Tests.desc 1 [(4, 63)], 127, by decide +kernel⟩
theorem met_CompletionsAreWritten_1 : ∃ (s : State) (f : Fin 2) (q : Fin 64) (d : DoneRec),
    let c := s.cqCtrl f.val q.val
    let r := s.cq f.val q.val
    let n := cqSize c
    let oldest := s.host.done.find? (fun d => d.pf == f.val && d.cq == q.val)
    (s.pdOn 2 = true) ∧ (oldest = some d) ∧ (bit c 31 = true) ∧ (ringFull n r.head r.tail = false) :=
  ⟨{ rings with host.done := [{ pf := 1, cq := 63, sq := 63, tag := 0xFFFF, opcode := 1, status := .done, flags := 0, result := 5 }], host.cq := [(127, { head := 1, tail := 15, phase := true, since := 0, first := 0, lostPend := 0 })] }, 1, 63, { pf := 1, cq := 63, sq := 63, tag := 0xFFFF, opcode := 1, status := .done, flags := 0, result := 5 }, by decide +kernel⟩
theorem met_CompletionsAreWritten_2 : ∃ (s : State) (f : Fin 2) (q : Fin 64) (d : DoneRec),
    let c := s.cqCtrl f.val q.val
    let r := s.cq f.val q.val
    let n := cqSize c
    let oldest := s.host.done.find? (fun d => d.pf == f.val && d.cq == q.val)
    (s.pdOn 2 = true) ∧ ((oldest = none ∨ bit c 31 = false ∨ ringFull n r.head r.tail = true)) :=
  ⟨rings, 1, 63, { pf := 1, cq := 63, sq := 63, tag := 0xFFFF, opcode := 1, status := .done, flags := 0, result := 5 }, by decide +kernel⟩
theorem met_CompletionsAreWritten_3 : ∃ (s : State) (f : Fin 2) (q : Fin 64) (d : DoneRec),
    let c := s.cqCtrl f.val q.val
    let r := s.cq f.val q.val
    (s.pdOn 2 = true) ∧ (bit c 31 = true) ∧ (bit c 30 = true) ∧ (r.since ≠ 0) :=
  ⟨{ rings with host.msix := [(1 * 256 + 3, 0)], host.cq := [(127, { head := 1, tail := 15, phase := true, since := 2, first := 0, lostPend := 0 })] }, 1, 63, { pf := 1, cq := 63, sq := 63, tag := 0xFFFF, opcode := 1, status := .done, flags := 0, result := 5 }, by decide +kernel⟩
theorem met_CompletionsAreWritten_4 : ∃ (s : State) (f : Fin 2) (q : Fin 64) (d : DoneRec) (w : Fin 64),
    let ec := s.reg (evqOff w.val f.val Reg.HST_EVQ_CTRL)
    let e := s.host.evq.getD (w.val * 2 + f.val) CqRec.init
    (s.pdOn 2 = true) ∧ (bit ec 31 = true) ∧ (bit ec 30 = true) ∧ (e.since ≠ 0) :=
  ⟨{ rings with host.msix := [(1 * 256 + 3, 0)], host.evq := [(1, { head := 1, tail := 15, phase := true, since := 2, first := 0, lostPend := 0 })] }, 1, 63, { pf := 1, cq := 63, sq := 63, tag := 0xFFFF, opcode := 1, status := .done, flags := 0, result := 5 }, 0, by decide +kernel⟩

/-! RegistersAndWindowsAreAccessed -/

theorem met_RegisterSpaceIsWritten_1 : ∃ (s : State) (a : Acc) (off : BitVec 24) (size : Nat) (full : Bool) (v : U64) (f : Fin 2) (q : Fin 64),
    (s.pdOn 2 = true) ∧ (s.sys.mode ≠ .dormant) ∧ (off.toNat = ringOff Reg.HST_SQ_BASE_LO f.val q.val) ∧ (off.toNat % 8 = 0)
      ∧ ((s.pdOn 2 = true ∧ s.sys.mode ≠ .dormant ∧ admitted a = true ∧ mpuOk s (Acc.mid a) (regSpace + (off.toNat)) 4 = true))
      ∧ ((s.pdOn 2 = true ∧ s.sys.mode ≠ .dormant ∧ admitted a = true ∧ mpuOk s (Acc.mid a) (regSpace + ((off.toNat + 4))) 4 = true))
      ∧ ((f.val = 1 ∨ privileged s a = true)) ∧ (bit (s.sqCtrl f.val q.val) 31 = false) ∧ (v.toNat % 4096 = 0) :=
  ⟨live, .pf0, BitVec.ofNat 24 (ringOff Reg.HST_SQ_BASE_LO 1 63), 8, true, 0x1FFFFF000, 1, 63, by decide +kernel⟩
theorem met_RegisterSpaceIsWritten_2 : ∃ (s : State) (a : Acc) (off : BitVec 24) (size : Nat) (full : Bool) (v : U64),
    (s.pdOn 2 = true) ∧ (s.sys.mode ≠ .dormant) ∧ ((inBootWindow off.toNat && full) = false) ∧ (sizeOk off.toNat size full = false) :=
  ⟨live, .pf0, 0xFFFFFF, 4, true, 0x1FFFFF000, by decide +kernel⟩
theorem met_RegisterSpaceIsWritten_3 : ∃ (s : State) (a : Acc) (off : BitVec 24) (size : Nat) (full : Bool) (v : U64),
    (s.pdOn 2 = true) ∧ (s.sys.mode ≠ .dormant) ∧ (findReg off.toNat = none) ∧ (inBootWindow off.toNat = false)
      ∧ ((s.pdOn 2 = true ∧ s.sys.mode ≠ .dormant ∧ admitted a = true ∧ mpuOk s (Acc.mid a) (regSpace + (off.toNat)) 4 = true)) ∧ (off.toNat % 4 = 0) :=
  ⟨live, .pf0, 0xFFFFFC, 8, true, 0x1FFFFF000, by decide +kernel⟩
theorem met_RegisterSpaceIsWritten_4 : ∃ (s : State) (a : Acc) (off : BitVec 24) (size : Nat) (full : Bool) (v : U64),
    (s.pdOn 2 = true) ∧ (s.sys.mode ≠ .dormant) ∧ (inBootWindow off.toNat = false) ∧ (off.toNat % 4 = 0) ∧ (admitted a = true)
      ∧ (mpuOk s (Acc.mid a) (regSpace + off.toNat) 4 = false) :=
  ⟨{ live with sys.mpu := [(9, { openRegion with base := 0xFF00000, lim := 0xFF00FFF, mask := 0 })] }, .pf1, BitVec.ofNat 24 (ringOff Reg.HST_SQ_BASE_LO 1 63), 8, true, 0x1FFFFF000, by decide +kernel⟩
theorem met_RegisterSpaceIsWritten_5 : ∃ (s : State) (a : Acc) (off : BitVec 24) (size : Nat) (full : Bool) (v : U64) (f : Fin 2) (k : Fin 256) (x : U32),
    (s.pdOn 2 = true) ∧ (s.sys.mode ≠ .dormant) ∧ (s.isGateway = true) ∧ ((s.pcieFn f.val).d3hot = false) :=
  ⟨live, .pf0, BitVec.ofNat 24 (ringOff Reg.HST_SQ_BASE_LO 1 63), 8, true, 0x1FFFFF000, 1, 255, 0xFFFFFFFF, by decide +kernel⟩
theorem met_WindowsReachDevices_1 : ∃ (s : State) (f : Fin 2) (addr : U32) (write : Bool) (size : Nat) (v : U64),
    let here := s.isGateway = true ∧ (s.pcieFn f.val).d3hot = false
    (s.sys.mode ≠ .dormant) ∧ (s.pdOn 2 = true) ∧ (¬ here) :=
  ⟨behind, 0, 0x3F000008, false, 4, 15, by decide +kernel⟩
theorem met_WindowsReachDevices_2 : ∃ (s : State) (f : Fin 2) (addr : U32) (write : Bool) (size : Nat) (v : U64),
    let w := addr.toNat / 0x1000000
    let here := s.isGateway = true ∧ (s.pcieFn f.val).d3hot = false
    (s.sys.mode ≠ .dormant) ∧ (s.pdOn 2 = true) ∧ (here) ∧ (0 < w) ∧ (w < 64) ∧ (winMode s w = 0) :=
  ⟨windows, 0, 0x01000008, false, 4, 15, by decide +kernel⟩
theorem met_WindowsReachDevices_3 : ∃ (s : State) (f : Fin 2) (addr : U32) (write : Bool) (size : Nat) (v : U64),
    let w := addr.toNat / 0x1000000
    let off := addr.toNat % 0x1000000
    let key := mgmtKey 0 (winAddr s w)
    let here := s.isGateway = true ∧ (s.pcieFn f.val).d3hot = false
    (s.sys.mode ≠ .dormant) ∧ (s.pdOn 2 = true) ∧ (here) ∧ (0 < w) ∧ (w < 64) ∧ (winMode s w ≠ 0) ∧ (isEvqReg off = false)
      ∧ (sizeOk off size true = true) ∧ ((s.requester key).open_.length < 32) :=
  ⟨windows, 0, 0x3F000008, false, 4, 15, by decide +kernel⟩
theorem met_WindowsReachDevices_4 : ∃ (s : State) (f : Fin 2) (addr : U32) (write : Bool) (size : Nat) (v : U64),
    let w := addr.toNat / 0x1000000
    let off := addr.toNat % 0x1000000
    let key := mgmtKey 0 (winAddr s w)
    let here := s.isGateway = true ∧ (s.pcieFn f.val).d3hot = false
    (s.sys.mode ≠ .dormant) ∧ (s.pdOn 2 = true) ∧ (here) ∧ (0 < w) ∧ (w < 64) ∧ (winMode s w ≠ 0) ∧ (isEvqReg off = false)
      ∧ (sizeOk off size true = true) ∧ (32 ≤ (s.requester key).open_.length) :=
  ⟨{ windows with fab.reqs := [(mgmtKey 0 7, { next := 35, open_ := List.replicate 32 (aReq 0), wait := [], resync := false })] }, 0, 0x3F000008, false, 4, 15, by decide +kernel⟩
theorem met_WindowsReachDevices_5 : ∃ (s : State) (f : Fin 2) (addr : U32) (write : Bool) (size : Nat) (v : U64) (q : Fin 64),
    let here := s.isGateway = true ∧ (s.pcieFn f.val).d3hot = false
    (s.sys.mode ≠ .dormant) ∧ (s.pdOn 2 = true) ∧ (here) ∧ (addr.toNat = 4 * q.val) ∧ (bit (s.sqCtrl f.val q.val) 31 = true)
      ∧ (v.toNat < sqSize (s.sqCtrl f.val q.val)) ∧ (v.toNat < 4096) :=
  ⟨windows, 0, 252, false, 4, 15, 63, by decide +kernel⟩

/-! MailboxesAndTheDebugPortAreServed -/

theorem met_MailboxesLatchItems_1 : ∃ (s : State) (a : Acc) (bank : Fin 7) (m : Fin 4) (v : U32) (r : MbxRec),
    ((s.pdOn 2 = true ∧ s.sys.mode ≠ .dormant ∧ admitted a = true ∧ mpuOk s (Acc.mid a) (regSpace + ((Reg.MBX_SEL + 0x20 * m.val))) 4 = true))
      ∧ (bankOf a = bank.val) :=
  ⟨live, .pf1, 3, 3, 0x04000007, { sel := 0x05FF0000, valid := false, err := 0, data := [] }, by decide +kernel⟩
theorem met_MailboxesLatchItems_2 : ∃ (s : State) (a : Acc) (bank : Fin 7) (m : Fin 4) (v : U32) (r : MbxRec),
    (s.pdOn 2 = true) ∧ (s.sys.mbx.get? (mbxKey bank.val m.val) = some r) ∧ (r.valid = false) ∧ (itemOf s r.sel.toNat = none) :=
  ⟨{ live with sys.mbx := [(mbxKey 3 3, { sel := 0x05FF0000, valid := false, err := 0, data := [] })] }, .other 7, 3, 3, 0x04000007, { sel := 0x05FF0000, valid := false, err := 0, data := [] }, by decide +kernel⟩
theorem met_MailboxesLatchItems_3 : ∃ (s : State) (a : Acc) (bank : Fin 7) (m : Fin 4) (v : U32) (r : MbxRec) (b : List Byte),
    (s.pdOn 2 = true) ∧ (s.sys.mbx.get? (mbxKey bank.val m.val) = some r) ∧ (r.valid = false) ∧ (itemOf s r.sel.toNat = some b)
      ∧ (bits r.sel.toNat 31 16 = 0x0110) ∧ (bankPriv s bank.val = false) :=
  ⟨{ live with sys.mbx := [(mbxKey 3 3, { sel := 0x01100000, valid := false, err := 0, data := [] })] }, .other 7, 3, 3, 0x04000007, { sel := 0x01100000, valid := false, err := 0, data := [] }, (itemOf live 0x01100000).getD [], by decide +kernel⟩
theorem met_MailboxesLatchItems_4 : ∃ (s : State) (a : Acc) (bank : Fin 7) (m : Fin 4) (v : U32) (r : MbxRec) (b : List Byte),
    (s.pdOn 2 = true) ∧ (s.sys.mbx.get? (mbxKey bank.val m.val) = some r) ∧ (r.valid = false) ∧ (itemOf s r.sel.toNat = some b)
      ∧ ((bits r.sel.toNat 31 16 ≠ 0x0110 ∨ bankPriv s bank.val = true)) ∧ (r.sel ≠ 0x07000000) :=
  ⟨{ live with sys.mbx := [(mbxKey 3 3, { sel := 0x04000007, valid := false, err := 0, data := [] })] }, .other 7, 3, 3, 0x04000007, { sel := 0x04000007, valid := false, err := 0, data := [] }, (itemOf live 0x04000007).getD [], by decide +kernel⟩
theorem met_MailboxesLatchItems_5 : ∃ (s : State) (a : Acc) (bank : Fin 7) (m : Fin 4) (v : U32) (r : MbxRec),
    (s.sys.mbx.get? (mbxKey bank.val m.val) = some r) ∧ (r.valid = true) :=
  ⟨{ live with sys.mbx := [(mbxKey 3 3, { sel := 0x04000007, valid := true, err := 0, data := [] })] }, .other 7, 3, 3, 0x04000007, { sel := 0x04000007, valid := true, err := 0, data := [] }, by decide +kernel⟩
theorem met_DebugPortAccesses_1 : ∃ (s : State) (w : U64) (x : U32),
    let d := s.sys.dap
    let go := bit w.toNat 51 = true ∧ dapEnabled s = true ∧ d.busy = false ∧ s.pdOn 2 = true
    (Memory.wf s.mem = true) ∧ (¬ go) :=
  ⟨live.setReg Reg.SYS_DEBUG_CTRL 1, 0, 0x12345678, by decide +kernel⟩
theorem met_DebugPortAccesses_2 : ∃ (s : State) (w : U64) (x : U32),
    let d := s.sys.dap
    let go := bit w.toNat 51 = true ∧ dapEnabled s = true ∧ d.busy = false ∧ s.pdOn 2 = true
    (Memory.wf s.mem = true) ∧ (go) ∧ (bit w.toNat 50 = true) :=
  ⟨live.setReg Reg.SYS_DEBUG_CTRL 1, BitVec.ofNat 64 (0x1000 + 7 * 2 ^ 40 + 3 * 2 ^ 50), 0x12345678, by decide +kernel⟩
theorem met_DebugPortAccesses_3 : ∃ (s : State) (w : U64) (x : U32),
    let addr := bits w.toNat 39 0
    let n := bits w.toNat 49 40 + 1
    let d := s.sys.dap
    let go := bit w.toNat 51 = true ∧ dapEnabled s = true ∧ d.busy = false ∧ s.pdOn 2 = true
    (Memory.wf s.mem = true) ∧ (go) ∧ (bit w.toNat 50 = false) ∧ (addr % 4 = 0) ∧ (n % 4 = 0) ∧ (addr + n ≤ s.usable) ∧ (addr + n ≤ apertureLo)
      ∧ (mpuOk s 0x3F addr n = true) ∧ (memHolds s addr = false) :=
  ⟨live.setReg Reg.SYS_DEBUG_CTRL 1, BitVec.ofNat 64 (0x1000 + 7 * 2 ^ 40 + 2 * 2 ^ 50), 0x12345678, by decide +kernel⟩
theorem met_DebugPortAccesses_4 : ∃ (s : State) (w : U64) (x : U32),
    let addr := bits w.toNat 39 0
    let n := bits w.toNat 49 40 + 1
    let d := s.sys.dap
    let go := bit w.toNat 51 = true ∧ dapEnabled s = true ∧ d.busy = false ∧ s.pdOn 2 = true
    (Memory.wf s.mem = true) ∧ (go) ∧ (bit w.toNat 50 = false) ∧ ((addr % 4 ≠ 0 ∨ n % 4 ≠ 0)) :=
  ⟨live.setReg Reg.SYS_DEBUG_CTRL 1, BitVec.ofNat 64 (0x1002 + 7 * 2 ^ 40 + 2 * 2 ^ 50), 0x12345678, by decide +kernel⟩
theorem met_DebugPortAccesses_5 : ∃ (s : State) (w : U64) (x : U32),
    let d := s.sys.dap
    (Memory.wf s.mem = true) ∧ (d.armed = true) ∧ (4 * (d.got.length + 1) < d.len + 1) :=
  ⟨{ live with sys.dap := { live.sys.dap with armed := true, addr := 0x1000, len := 7 } }, 0, 0x12345678, by decide +kernel⟩
theorem met_DebugPortAccesses_6 : ∃ (s : State) (w : U64) (x : U32),
    let d := s.sys.dap
    (Memory.wf s.mem = true) ∧ (d.armed = true) ∧ (4 * (d.got.length + 1) = d.len + 1) ∧ (d.addr % 4 = 0) ∧ (d.addr + d.len < s.usable)
      ∧ (d.addr + d.len < apertureLo) ∧ (mpuOk s 0x3F d.addr (d.len + 1) = true) ∧ (memHolds s d.addr = false) :=
  ⟨{ live with sys.dap := { live.sys.dap with armed := true, addr := 0x1000, len := 7, got := [1] } }, 0, 0x12345678, by decide +kernel⟩
theorem met_DebugPortAccesses_7 : ∃ (s : State) (w : U64) (x : U32) (y : U32) (ys : List U32),
    let d := s.sys.dap
    (Memory.wf s.mem = true) ∧ (d.armed = false) ∧ (d.words = y :: ys) :=
  ⟨{ live with sys.dap := { live.sys.dap with words := [1, 2] } }, 0, 0x12345678, 1, [2], by decide +kernel⟩

/-! ManagementRequestsAreServedAndEnd -/

theorem met_RequestsAreServedInOrder_1 : ∃ (s : State) (l : Option (Fin 11)) (p : Packet),
    let key := mgmtKey p.flow p.src
    let r := s.fab.resps.getD key { next := 0, copies := [] }
    let resync := bit (fieldAt p.data (p.bodyOff + 1) 1) 2
    let type := fieldAt p.data p.bodyOff 1
    (s.pdOn 9 = true) ∧ (Tab.get? r.copies p.seq = none) ∧ (requestType type = true) ∧ ((resync = true ∨ p.seq = r.next)) :=
  ⟨live, none, mkPacket 5 7 clsMGMT 1 0 0 2 (leBytes 32 0), by decide +kernel⟩
theorem met_RequestsAreServedInOrder_2 : ∃ (s : State) (l : Option (Fin 11)) (p : Packet) (a : Packet),
    let key := mgmtKey p.flow p.src
    let r := s.fab.resps.getD key { next := 0, copies := [] }
    let resync := bit (fieldAt p.data (p.bodyOff + 1) 1) 2
    (s.pdOn 9 = true) ∧ (Tab.get? r.copies p.seq = some a) ∧ ((resync = false ∨ bit (fieldAt p.data (p.bodyOff + 1) 1) 1 = true)) :=
  ⟨{ live with fab.resps := [(mgmtKey 1 7, { next := 1, copies := [(0, respPkt 0)] })] }, none, mkPacket 5 7 clsMGMT 1 0 0 2 (leBytes 32 0), respPkt 0, by decide +kernel⟩
theorem met_RequestsAreServedInOrder_3 : ∃ (s : State) (l : Option (Fin 11)) (p : Packet),
    let key := mgmtKey p.flow p.src
    let r := s.fab.resps.getD key { next := 0, copies := [] }
    let resync := bit (fieldAt p.data (p.bodyOff + 1) 1) 2
    (s.pdOn 9 = true) ∧ (Tab.get? r.copies p.seq = none) ∧ (resync = false) ∧ (p.seq ≠ r.next) :=
  ⟨live, none, mkPacket 5 7 clsMGMT 1 0xFFFF 0 2 (leBytes 32 0), by decide +kernel⟩
theorem met_RequestsEnd_1 : ∃ (s : State) (l : Option (Fin 11)) (p : Packet) (flow : Fin 3) (peer : BitVec 10) (r : MReq) (rs : List MReq),
    let key := if flow = 2 then directedReq s peer.toNat else mgmtKey flow.val peer.toNat
    let ask := answered s (l.map (·.val)) p
    let q := s.requester key
    (s.pdOn 9 = true) ∧ (ask = some (key, r)) ∧ (q.wait = []) ∧ (r.win ≠ 0) :=
  ⟨asked [aReq 0], none, respPkt 0, 1, 7, aReq 0, [], by decide +kernel⟩
theorem met_RequestsEnd_2 : ∃ (s : State) (l : Option (Fin 11)) (p : Packet) (flow : Fin 3) (peer : BitVec 10) (r : MReq) (rs : List MReq) (c : Cmd),
    let key := if flow = 2 then directedReq s peer.toNat else mgmtKey flow.val peer.toNat
    let ask := answered s (l.map (·.val)) p
    (s.pdOn 9 = true) ∧ (ask = some (key, r)) ∧ (r.win = 0) ∧ (r.cmd = some c.job) ∧ (s.host.inFlight.any (fun e => e.job == c.job) = true)
      ∧ (fieldAt p.data (p.bodyOff + 2) 1 ≠ Status.done.code) :=
  ⟨{ asked [{ aReq 0 with win := 0, cmd := some (cmd 0x50 [(2, 9)]).job }] with host.inFlight := [{ job := (cmd 0x50 [(2, 9)]).job, started := true }] }, none, respPkt Status.denied.code, 1, 7, { aReq 0 with win := 0, cmd := some (cmd 0x50 [(2, 9)]).job }, [], cmd 0x50 [(2, 9)], by decide +kernel⟩
theorem met_RequestsEnd_3 : ∃ (s : State) (l : Option (Fin 11)) (p : Packet) (flow : Fin 3) (peer : BitVec 10) (r : MReq) (rs : List MReq),
    let ask := answered s (l.map (·.val)) p
    (s.pdOn 9 = true) ∧ (ask = none) :=
  ⟨live, none, respPkt 0, 1, 7, aReq 0, [], by decide +kernel⟩
theorem met_RequestsEnd_4 : ∃ (s : State) (l : Option (Fin 11)) (p : Packet) (flow : Fin 3) (peer : BitVec 10) (r : MReq) (rs : List MReq),
    let key := if flow = 2 then directedReq s peer.toNat else mgmtKey flow.val peer.toNat
    let q := s.requester key
    let retries := bits (s.reg Reg.FAB_GW_MGMT_CFG) 18 16
    (s.pdOn 9 = true) ∧ (q.open_ = r :: rs) ∧ (r.tries < retries) :=
  ⟨asked [aReq 0], none, respPkt 0, 1, 7, aReq 0, [], by decide +kernel⟩
theorem met_RequestsEnd_5 : ∃ (s : State) (l : Option (Fin 11)) (p : Packet) (flow : Fin 3) (peer : BitVec 10) (r : MReq) (rs : List MReq),
    let key := if flow = 2 then directedReq s peer.toNat else mgmtKey flow.val peer.toNat
    let q := s.requester key
    let retries := bits (s.reg Reg.FAB_GW_MGMT_CFG) 18 16
    (s.pdOn 9 = true) ∧ (q.open_ = r :: rs) ∧ (retries ≤ r.tries) ∧ (r.win ≠ 0) ∧ (q.wait = []) :=
  ⟨asked [aReq 7], none, respPkt 0, 1, 7, aReq 7, [], by decide +kernel⟩
theorem met_RequestsEnd_6 : ∃ (s : State) (l : Option (Fin 11)) (p : Packet) (flow : Fin 3) (peer : BitVec 10) (r : MReq) (rs : List MReq),
    (s.pdOn 9 = true) ∧ (s.isGateway = true) ∧ (s.fab.evSeqs.get? p.src = none) :=
  ⟨windows, none, respPkt 0, 1, 7, aReq 0, [], by decide +kernel⟩
theorem met_RequestsEnd_7 : ∃ (s : State) (l : Option (Fin 11)) (p : Packet) (flow : Fin 3) (peer : BitVec 10) (r : MReq) (rs : List MReq) (n : Nat),
    (s.pdOn 9 = true) ∧ (s.isGateway = true) ∧ (s.fab.evSeqs.get? p.src = some n) ∧ ((p.seq + 65536 - n) % 65536 ≤ 32768) :=
  ⟨{ windows with fab.evSeqs := [(7, 1)] }, none, respPkt 0, 1, 7, aReq 0, [], 1, by decide +kernel⟩
theorem met_RequestsEnd_8 : ∃ (s : State) (l : Option (Fin 11)) (p : Packet) (flow : Fin 3) (peer : BitVec 10) (r : MReq) (rs : List MReq) (n : Nat),
    (s.pdOn 9 = true) ∧ (s.isGateway = true) ∧ (s.fab.evSeqs.get? p.src = some n) ∧ ((p.seq + 65536 - n) % 65536 > 32768) :=
  ⟨{ windows with fab.evSeqs := [(7, 5)] }, none, respPkt 0, 1, 7, aReq 0, [], 5, by decide +kernel⟩
theorem met_RequestsEnd_9 : ∃ (s : State) (l : Option (Fin 11)) (p : Packet) (flow : Fin 3) (peer : BitVec 10) (r : MReq) (rs : List MReq),
    (s.pdOn 9 = true) ∧ (s.isGateway = false) :=
  ⟨behind, none, respPkt 0, 1, 7, aReq 0, [], by decide +kernel⟩

/-! ReleaseRowsAndProtectionRowsAct -/

theorem met_ReleaseRowsFreeTheirCapture_1 : ∃ (s : State) (a : Acc) (v : U32),
    ((s.pdOn 2 = true ∧ s.sys.mode ≠ .dormant ∧ admitted a = true ∧ mpuOk s (Acc.mid a) (regSpace + (Reg.FUM_SELFTEST_RELEASE)) 4 = true)) :=
  ⟨live, .pf0, 1, by decide +kernel⟩
theorem met_ReleaseRowsFreeTheirCapture_2 : ∃ (s : State) (a : Acc) (v : U32),
    ((s.pdOn 2 = true ∧ s.sys.mode ≠ .dormant ∧ admitted a = true ∧ mpuOk s (Acc.mid a) (regSpace + (Reg.FAB_GW_FAIL_RELEASE)) 4 = true)) :=
  ⟨live, .pf0, 1, by decide +kernel⟩
theorem met_ReleaseRowsFreeTheirCapture_3 : ∃ (s : State) (a : Acc) (v : U32),
    ((s.pdOn 2 = true ∧ s.sys.mode ≠ .dormant ∧ admitted a = true ∧ mpuOk s (Acc.mid a) (regSpace + (Reg.STR_DEC_FAULT_RELEASE)) 4 = true)) :=
  ⟨live, .pf0, 1, by decide +kernel⟩
theorem met_ReleaseRowsFreeTheirCapture_4 : ∃ (s : State) (a : Acc) (v : U32),
    ((s.pdOn 2 = true ∧ s.sys.mode ≠ .dormant ∧ admitted a = true ∧ mpuOk s (Acc.mid a) (regSpace + (Reg.CMP_FAULT_RELEASE)) 4 = true)) :=
  ⟨live, .pf0, 1, by decide +kernel⟩
theorem met_ReleaseRowsFreeTheirCapture_5 : ∃ (s : State) (a : Acc) (v : U32),
    ((s.pdOn 2 = true ∧ s.sys.mode ≠ .dormant ∧ admitted a = true ∧ mpuOk s (Acc.mid a) (regSpace + (Reg.SYS_RAF_RELEASE)) 4 = true)) :=
  ⟨live, .pf0, 1, by decide +kernel⟩
theorem met_ReleaseRowsFreeTheirCapture_6 : ∃ (s : State) (a : Acc) (v : U32),
    ((s.pdOn 2 = true ∧ s.sys.mode ≠ .dormant ∧ admitted a = true ∧ mpuOk s (Acc.mid a) (regSpace + (Reg.SYS_MPU_RELEASE)) 4 = true))
      ∧ (privileged s a = true) :=
  ⟨live, .pf0, 1, by decide +kernel⟩
theorem met_ReleaseRowsFreeTheirCapture_7 : ∃ (s : State) (a : Acc) (v : U32),
    ((s.pdOn 2 = true ∧ s.sys.mode ≠ .dormant ∧ admitted a = true ∧ mpuOk s (Acc.mid a) (regSpace + (Reg.SYS_MPU_RELEASE)) 4 = true))
      ∧ (privileged s a = false) :=
  ⟨live, .pf1, 1, by decide +kernel⟩
theorem met_MpuLoadIsOneChange_1 : ∃ (s : State) (a : Acc) (r : Fin 64) (v : U32),
    ((s.pdOn 2 = true ∧ s.sys.mode ≠ .dormant ∧ admitted a = true ∧ mpuOk s (Acc.mid a) (regSpace + ((Reg.SYS_MPU_CTRL + 0x20 * r.val))) 4 = true))
      ∧ (privileged s a = true) ∧ ((s.region r.val).lock = false) ∧ (mpuLoadBad s r.val v.toNat = false) :=
  ⟨(live.setReg (Reg.SYS_MPU_CTRL + 0x20 * 63 - 0x10) 0xFF00000).setReg (Reg.SYS_MPU_CTRL + 0x20 * 63 - 0xC) 0xFF00000, .pf0, 63, 6, by decide +kernel⟩
theorem met_MpuLoadIsOneChange_2 : ∃ (s : State) (a : Acc) (r : Fin 64) (v : U32),
    ((s.pdOn 2 = true ∧ s.sys.mode ≠ .dormant ∧ admitted a = true ∧ mpuOk s (Acc.mid a) (regSpace + ((Reg.SYS_MPU_CTRL + 0x20 * r.val))) 4 = true))
      ∧ ((s.region r.val).lock = true) :=
  ⟨{ live with sys.mpu := [(0, openRegion), (63, { openRegion with lock := true })] }, .pf0, 63, 6, by decide +kernel⟩
theorem met_DapEnInProduction_1 : ∃ (s : State) (a : Acc) (v : U32),
    ((s.pdOn 2 = true ∧ s.sys.mode ≠ .dormant ∧ admitted a = true ∧ mpuOk s (Acc.mid a) (regSpace + (Reg.SYS_DEBUG_CTRL)) 4 = true))
      ∧ (privileged s a = true) :=
  ⟨live, .pf0, 1, by decide +kernel⟩

/-! KeyedAndWriteOnceRowsAct -/

theorem met_WriteOnceRows_1 : ∃ (s : State) (a : Acc) (v : U32),
    ((s.pdOn 2 = true ∧ s.sys.mode ≠ .dormant ∧ admitted a = true ∧ mpuOk s (Acc.mid a) (regSpace + (Reg.FAB_NODE_ADDR)) 4 = true))
      ∧ (privileged s a = true) ∧ (s.addr = 0x3FF) :=
  ⟨live, .pf0, 0x80000001, by decide +kernel⟩
theorem met_WriteOnceRows_2 : ∃ (s : State) (a : Acc) (v : U32),
    ((s.pdOn 2 = true ∧ s.sys.mode ≠ .dormant ∧ admitted a = true ∧ mpuOk s (Acc.mid a) (regSpace + (Reg.FAB_NODE_ADDR)) 4 = true)) ∧ (s.addr ≠ 0x3FF) :=
  ⟨live.setReg Reg.FAB_NODE_ADDR 5, .pf0, 0x80000001, by decide +kernel⟩
theorem met_WriteOnceRows_3 : ∃ (s : State) (a : Acc) (v : U32),
    ((s.pdOn 2 = true ∧ s.sys.mode ≠ .dormant ∧ admitted a = true ∧ mpuOk s (Acc.mid a) (regSpace + (Reg.CMP_SLATE_BASE)) 4 = true))
      ∧ (privileged s a = true) ∧ (s.reg Reg.CMP_SLATE_BASE = 0) ∧ (v.getLsbD 31 = true) :=
  ⟨live, .pf0, 0x80000001, by decide +kernel⟩
theorem met_KeyedRows_1 : ∃ (s : State) (a : Acc) (v : U32),
    ((s.pdOn 2 = true ∧ s.sys.mode ≠ .dormant ∧ admitted a = true ∧ mpuOk s (Acc.mid a) (regSpace + (Reg.SYS_RESET)) 4 = true)) ∧ (privileged s a = true)
      ∧ (bits v.toNat 31 16 = 0xB824) ∧ (v.getLsbD 0 = true) ∧ (s.sys.power.resetDue = none) :=
  ⟨live, .pf0, 0xB8240001, by decide +kernel⟩
theorem met_KeyedRows_2 : ∃ (s : State) (a : Acc) (v : U32),
    ((s.pdOn 2 = true ∧ s.sys.mode ≠ .dormant ∧ admitted a = true ∧ mpuOk s (Acc.mid a) (regSpace + (Reg.SYS_RESET)) 4 = true))
      ∧ (bits v.toNat 31 16 ≠ 0xB824) :=
  ⟨live, .pf0, 1, by decide +kernel⟩
theorem met_KeyedRows_3 : ∃ (s : State) (a : Acc) (v : U32),
    ((s.pdOn 2 = true ∧ s.sys.mode ≠ .dormant ∧ admitted a = true ∧ mpuOk s (Acc.mid a) (regSpace + (Reg.SYS_LIFECYCLE_ADV)) 4 = true))
      ∧ (privileged s a = true) ∧ (bits v.toNat 31 16 = 0x5052) ∧ (v.getLsbD 0 = true) ∧ (s.sys.mode = .service) ∧ (s.otp.lifecycle = 0) :=
  ⟨{ live with sys.mode := .service, otp.lifecycle := 0 }, .pf0, 0x50520001, by decide +kernel⟩
theorem met_KeyedRows_4 : ∃ (s : State) (a : Acc) (v : U32),
    ((s.pdOn 2 = true ∧ s.sys.mode ≠ .dormant ∧ admitted a = true ∧ mpuOk s (Acc.mid a) (regSpace + (Reg.SYS_LIFECYCLE_ADV)) 4 = true))
      ∧ ((s.sys.mode ≠ .service ∨ s.otp.lifecycle ≠ 0 ∨ bits v.toNat 31 16 ≠ 0x5052)) :=
  ⟨live, .pf0, 0x50520001, by decide +kernel⟩
theorem met_KeyedRows_5 : ∃ (s : State) (a : Acc) (v : U32),
    ((s.pdOn 2 = true ∧ s.sys.mode ≠ .dormant ∧ admitted a = true ∧ mpuOk s (Acc.mid a) (regSpace + (Reg.EDG_AON_CLEAR)) 4 = true))
      ∧ (privileged s a = true) ∧ (bits v.toNat 31 16 = 0xA0C1) :=
  ⟨live, .pf0, 0xA0C10006, by decide +kernel⟩
theorem met_KeyedRows_6 : ∃ (s : State) (a : Acc) (v : U32),
    ((s.pdOn 2 = true ∧ s.sys.mode ≠ .dormant ∧ admitted a = true ∧ mpuOk s (Acc.mid a) (regSpace + (Reg.EDG_AON_CLEAR)) 4 = true))
      ∧ (bits v.toNat 31 16 ≠ 0xA0C1) :=
  ⟨live, .pf0, 0xA0C00006, by decide +kernel⟩
theorem met_FumLockLocksOnce_1 : ∃ (s : State) (a : Acc) (v : U32),
    ((s.pdOn 2 = true ∧ s.sys.mode ≠ .dormant ∧ admitted a = true ∧ mpuOk s (Acc.mid a) (regSpace + (Reg.FUM_LOCK)) 4 = true)) ∧ (privileged s a = true)
      ∧ (s.policyLock = false) ∧ (v.getLsbD 0 = true) :=
  ⟨live, .pf0, 1, by decide +kernel⟩
theorem met_FumLockLocksOnce_2 : ∃ (s : State) (a : Acc) (v : U32),
    ((s.pdOn 2 = true ∧ s.sys.mode ≠ .dormant ∧ admitted a = true ∧ mpuOk s (Acc.mid a) (regSpace + (Reg.FUM_LOCK)) 4 = true)) ∧ (s.policyLock = true) :=
  ⟨live.setReg Reg.FUM_LOCK 1, .pf0, 1, by decide +kernel⟩

/-! RingEnableStartsRing -/

theorem met_RingEnableStartsRing_1 : ∃ (s : State) (a : Acc) (f : Fin 2) (q : Fin 64) (v : U32),
    let may := f.val = 1 ∨ privileged s a = true
    (v.getLsbD 31 = true)
      ∧ ((s.pdOn 2 = true ∧ s.sys.mode ≠ .dormant ∧ admitted a = true ∧ mpuOk s (Acc.mid a) (regSpace + ((ringOff Reg.HST_SQ_CTRL f.val q.val))) 4 = true))
      ∧ (bit (s.sqCtrl f.val q.val) 31 = false) ∧ (may) ∧ (4 ≤ bits v.toNat 19 16) ∧ (bits v.toNat 19 16 ≤ 12) :=
  ⟨live, .pf0, 1, 63, 0x80040000, by decide +kernel⟩
theorem met_RingEnableStartsRing_2 : ∃ (s : State) (a : Acc) (f : Fin 2) (q : Fin 64) (v : U32),
    let may := f.val = 1 ∨ privileged s a = true
    (v.getLsbD 31 = true)
      ∧ ((s.pdOn 2 = true ∧ s.sys.mode ≠ .dormant ∧ admitted a = true ∧ mpuOk s (Acc.mid a) (regSpace + ((ringOff Reg.HST_CQ_CTRL f.val q.val))) 4 = true))
      ∧ (bit (s.cqCtrl f.val q.val) 31 = false) ∧ (may) ∧ (4 ≤ bits v.toNat 27 24) ∧ (bits v.toNat 27 24 ≤ 12) :=
  ⟨live, .pf0, 1, 63, 0x8C000000, by decide +kernel⟩
theorem met_RingEnableStartsRing_3 : ∃ (s : State) (a : Acc) (f : Fin 2) (q : Fin 64) (v : U32),
    let may := f.val = 1 ∨ privileged s a = true
    (v.getLsbD 31 = true)
      ∧ ((s.pdOn 2 = true ∧ s.sys.mode ≠ .dormant ∧ admitted a = true ∧ mpuOk s (Acc.mid a) (regSpace + ((evqOff 0 f.val Reg.HST_EVQ_CTRL))) 4 = true))
      ∧ (bit (s.reg (evqOff 0 f.val Reg.HST_EVQ_CTRL)) 31 = false) ∧ (may) ∧ (4 ≤ bits v.toNat 27 24) ∧ (bits v.toNat 27 24 ≤ 12) :=
  ⟨live, .pf0, 1, 63, 0x84000000, by decide +kernel⟩
theorem met_RingEnableStartsRing_4 : ∃ (s : State) (a : Acc) (f : Fin 2) (q : Fin 64) (v : U32),
    let may := f.val = 1 ∨ privileged s a = true
    (v.getLsbD 31 = true)
      ∧ ((s.pdOn 2 = true ∧ s.sys.mode ≠ .dormant ∧ admitted a = true ∧ mpuOk s (Acc.mid a) (regSpace + ((ringOff Reg.HST_SQ_CTRL f.val q.val))) 4 = true))
      ∧ (¬ may) :=
  ⟨live, .pf1, 0, 63, 0x80040000, by decide +kernel⟩
theorem met_RingEnableStartsRing_5 : ∃ (s : State) (a : Acc) (f : Fin 2) (q : Fin 64) (v : U32),
    let may := f.val = 1 ∨ privileged s a = true
    (v.getLsbD 31 = true)
      ∧ ((s.pdOn 2 = true ∧ s.sys.mode ≠ .dormant ∧ admitted a = true ∧ mpuOk s (Acc.mid a) (regSpace + ((ringOff Reg.HST_CQ_CTRL f.val q.val))) 4 = true))
      ∧ (¬ may) :=
  ⟨live, .pf1, 0, 63, 0x8C000000, by decide +kernel⟩
theorem met_RingEnableStartsRing_6 : ∃ (s : State) (a : Acc) (f : Fin 2) (q : Fin 64) (v : U32),
    let may := f.val = 1 ∨ privileged s a = true
    (v.getLsbD 31 = true)
      ∧ ((s.pdOn 2 = true ∧ s.sys.mode ≠ .dormant ∧ admitted a = true ∧ mpuOk s (Acc.mid a) (regSpace + ((evqOff 0 f.val Reg.HST_EVQ_CTRL))) 4 = true))
      ∧ (¬ may) :=
  ⟨live, .pf1, 0, 63, 0x84000000, by decide +kernel⟩

/-! LinkTrainingGoesStepByStep -/

theorem met_LinkTrainingGoesStepByStep_1 : ∃ (s : State) (l : Fin 11) (obs : TrainObs), (s.pdOn 9 = true) ∧ ((s.link l.val).st = .detect) :=
  ⟨linkIn 10 .detect, 10, { pol := 3, sets := [] }, by decide +kernel⟩
theorem met_LinkTrainingGoesStepByStep_2 : ∃ (s : State) (l : Fin 11) (obs : TrainObs), (s.pdOn 9 = true) ∧ ((s.link l.val).st = .lock) :=
  ⟨linkIn 10 .lock, 10, { pol := 3, sets := [] }, by decide +kernel⟩
theorem met_LinkTrainingGoesStepByStep_3 : ∃ (s : State) (l : Fin 11) (obs : TrainObs) (k : Nat),
    (s.pdOn 9 = true) ∧ ((s.link l.val).st = .map) ∧ (k < 2) ∧ (8 ≤ obs.sets.length)
      ∧ ((∀ e ∈ obs.sets, e.1.lane.toNat = k ∧ e.2.lane.toNat = 1 - k ∧ bit e.1.flags.toNat 0 = true ∧ bit e.2.flags.toNat 0 = true)) :=
  ⟨linkIn 10 .map, 10, { pol := 0, sets := List.replicate 8 (⟨1, 4, 3, 5, 77⟩, ⟨0, 4, 3, 5, 77⟩) }, 1, by decide +kernel⟩
theorem met_LinkTrainingGoesStepByStep_4 : ∃ (s : State) (l : Fin 11) (obs : TrainObs), (s.pdOn 9 = true) ∧ ((s.link l.val).st = .align) :=
  ⟨linkIn 10 .align, 10, { pol := 3, sets := [] }, by decide +kernel⟩
theorem met_LinkTrainingGoesStepByStep_5 : ∃ (s : State) (l : Fin 11) (obs : TrainObs),
    (s.pdOn 9 = true) ∧ ((s.link l.val).st = .caps) ∧ ((s.link l.val).capsAcked = true) ∧ ((s.link l.val).capsSeen = true)
      ∧ ((s.link l.val).mismatch = false) :=
  ⟨withLink 10 { LinkRec.init with st := .caps, capsAcked := true, capsSeen := true }, 10, { pol := 3, sets := [] }, by decide +kernel⟩
theorem met_LinkTrainingGoesStepByStep_6 : ∃ (s : State) (l : Fin 11) (obs : TrainObs), (s.pdOn 9 = true) ∧ ((s.link l.val).st = .backoff) :=
  ⟨linkIn 10 .backoff, 10, { pol := 3, sets := [] }, by decide +kernel⟩
theorem met_LinkTrainingGoesStepByStep_7 : ∃ (s : State) (l : Fin 11) (obs : TrainObs),
    (s.pdOn 9 = true) ∧ ((s.link l.val).st ∈ [LinkState.lock, .map, .align, .caps]) :=
  ⟨linkIn 10 .caps, 10, { pol := 3, sets := [] }, by decide +kernel⟩
theorem met_LinkTrainingGoesStepByStep_8 : ∃ (s : State) (l : Fin 11) (obs : TrainObs),
    (s.pdOn 9 = true) ∧ ((s.link l.val).st = .caps) ∧ ((s.link l.val).capsAcked = false) :=
  ⟨linkIn 10 .caps, 10, { pol := 3, sets := [] }, by decide +kernel⟩

/-! LinksAreControlledAndFail -/

theorem met_LinkControlMovesTheLink_1 : ∃ (s : State) (a : Acc) (l : Fin 11) (v : U32),
    ((s.pdOn 2 = true ∧ s.sys.mode ≠ .dormant ∧ admitted a = true ∧ mpuOk s (Acc.mid a) (regSpace + ((Reg.FAB_LINK_CTRL + 0x100 * l.val))) 4 = true))
      ∧ (bit (s.reg (Reg.FAB_LINK_CTRL + 0x100 * l.val)) 0 = false) ∧ ((s.link l.val).st = .disabled) ∧ (v.getLsbD 0 = true) ∧ (v.getLsbD 2 = false) :=
  ⟨live.setReg (Reg.FAB_LINK_CTRL + 0xA00) 0, .pf0, 10, 1, by decide +kernel⟩
theorem met_LinkControlMovesTheLink_2 : ∃ (s : State) (a : Acc) (l : Fin 11) (v : U32),
    ((s.pdOn 2 = true ∧ s.sys.mode ≠ .dormant ∧ admitted a = true ∧ mpuOk s (Acc.mid a) (regSpace + ((Reg.FAB_LINK_CTRL + 0x100 * l.val))) 4 = true))
      ∧ (bit (s.reg (Reg.FAB_LINK_CTRL + 0x100 * l.val)) 0 = true) ∧ (v.getLsbD 0 = false) ∧ (v.getLsbD 2 = false)
      ∧ (v.getLsbD 1 = bit (s.reg (Reg.FAB_LINK_CTRL + 0x100 * l.val)) 1) ∧ ((s.link l.val).st ≠ .disabled) :=
  ⟨linkIn 10 .up, .pf0, 10, 0, by decide +kernel⟩
theorem met_LinkControlMovesTheLink_3 : ∃ (s : State) (a : Acc) (l : Fin 11) (v : U32),
    ((s.pdOn 2 = true ∧ s.sys.mode ≠ .dormant ∧ admitted a = true ∧ mpuOk s (Acc.mid a) (regSpace + ((Reg.FAB_LINK_CTRL + 0x100 * l.val))) 4 = true))
      ∧ (bit (s.reg (Reg.FAB_LINK_CTRL + 0x100 * l.val)) 0 = true) ∧ (v.getLsbD 0 = true) ∧ (v.getLsbD 2 = true)
      ∧ (v.getLsbD 1 = bit (s.reg (Reg.FAB_LINK_CTRL + 0x100 * l.val)) 1) ∧ ((s.link l.val).st ≠ .disabled) :=
  ⟨linkIn 10 .up, .pf0, 10, 5, by decide +kernel⟩
theorem met_LinkSymbolsAndErrors_1 : ∃ (s : State) (l : Fin 11) (i : Fin 2) (sym : Nat), (s.pdOn 9 = true) :=
  ⟨linkIn 10 .up, 10, 1, 0x3FF, by decide +kernel⟩
theorem met_LinkSymbolsAndErrors_2 : ∃ (s : State) (l : Fin 11) (i : Fin 2) (sym : Nat), (s.pdOn 9 = true) ∧ ((s.link l.val).st = .up) :=
  ⟨linkIn 10 .up, 10, 1, 0x3FF, by decide +kernel⟩
theorem met_LinkSymbolsAndErrors_3 : ∃ (s : State) (l : Fin 11) (i : Fin 2) (sym : Nat),
    (s.pdOn 9 = true) ∧ ((s.link l.val).st ≠ .disabled) ∧ ((s.link l.val).st ≠ .backoff) ∧ ((s.link l.val).cur = none) :=
  ⟨withLink 10 { upLink with skps := 15 }, 10, 1, 0x3FF, by decide +kernel⟩
theorem met_LinkSymbolsAndErrors_4 : ∃ (s : State) (l : Fin 11) (i : Fin 2) (sym : Nat),
    (s.pdOn 9 = true) ∧ ((s.link l.val).st ≠ .disabled) ∧ ((s.link l.val).st ≠ .backoff) ∧ ((s.link l.val).cur ≠ none) :=
  ⟨withLink 10 { upLink with cur := some (packet 3) }, 10, 1, 0x3FF, by decide +kernel⟩

/-! CapsAndPacketsCrossLinks -/

theorem met_CapsAreExchanged_1 : ∃ (s : State) (l : Fin 11) (payload : BitVec 256),
    (s.pdOn 9 = true) ∧ ((s.link l.val).st = .caps) ∧ (payload.toNat % 256 = 0) :=
  ⟨linkIn 10 .caps, 10, BitVec.ofNat 256 (0x100 + 3 * 2 ^ 16 + 5 * 2 ^ 32 + 2 ^ 48 + 77 * 2 ^ 64), by decide +kernel⟩
theorem met_CapsAreExchanged_2 : ∃ (s : State) (l : Fin 11) (payload : BitVec 256),
    (s.pdOn 9 = true) ∧ ((s.link l.val).st = .caps) ∧ (leBytes 32 payload.toNat = capsPayload s l.val 1) :=
  ⟨linkIn 10 .caps, 10, BitVec.ofNat 256 (leNat (capsPayload (linkIn 10 .caps) 10 1)), by decide +kernel⟩
theorem met_PacketsArriveAndLeave_1 : ∃ (s : State) (l : Fin 11) (p : Packet) (crc : U32),
    (s.pdOn 9 = true) ∧ ((s.link l.val).st = .up) ∧ (malformed p = false) ∧ (crc ≠ crc32 p.bytes) :=
  ⟨linkIn 0 .up, 0, packet 3, crc32 (packet 3).bytes + 1, by decide +kernel⟩
theorem met_PacketsArriveAndLeave_2 : ∃ (s : State) (l : Fin 11) (p : Packet) (crc : U32),
    (s.pdOn 9 = true) ∧ ((s.link l.val).st = .up) ∧ (malformed p = false) ∧ (crc = crc32 p.bytes) ∧ (p.cls = clsLINK ∨ p.cls = clsTIME) :=
  ⟨linkIn 0 .up, 0, packet clsTIME, crc32 (packet clsTIME).bytes, by decide +kernel⟩
theorem met_PacketsArriveAndLeave_3 : ∃ (s : State) (l : Fin 11) (p : Packet) (crc : U32),
    (s.pdOn 9 = true) ∧ ((s.link l.val).crcOpen = true) ∧ ((s.link l.val).crcMore ≠ 0) :=
  ⟨withLink 0 { upLink with crcOpen := true, crcMore := 1 }, 0, packet 3, crc32 (packet 3).bytes, by decide +kernel⟩
theorem met_PacketsArriveAndLeave_4 : ∃ (s : State) (l : Fin 11) (p : Packet) (crc : U32),
    (s.pdOn 9 = true) ∧ ((s.link l.val).queue = []) ∧ ((s.link l.val).tephra.heldPkt = none) ∧ ((l.val ≠ 10 ∨ s.mir.waiting = [])) :=
  ⟨linkIn 0 .up, 9, packet 3, crc32 (packet 3).bytes, by decide +kernel⟩
theorem met_PacketsArriveAndLeave_5 : ∃ (s : State) (l : Fin 11) (p : Packet) (crc : U32) (m : Nat),
    (s.pdOn 9 = true) ∧ ((s.link l.val).tephra.heldPkt = some (p, m)) ∧ ((s.link l.val).cur = none) :=
  ⟨withLink 0 { upLink with tephra := { upLink.tephra with heldPkt := some (packet 3, 0) } }, 0, packet 3, crc32 (packet 3).bytes, 0, by decide +kernel⟩

/-! TheFabricIsConfigured -/

theorem met_DomainsAreClaimed_1 : ∃ (s : State) (d : BitVec 10) (v : U32),
    (s.pdOn 9 = true) ∧ (s.isGateway = false) ∧ (s.fab.claimed = false) ∧ (v.getLsbD 16 = true) ∧ (d.toNat ≠ 0x3FF) :=
  ⟨behind, 5, 0x10000, by decide +kernel⟩
theorem met_DomainsAreClaimed_2 : ∃ (s : State) (d : BitVec 10) (v : U32),
    (s.pdOn 9 = true) ∧ (s.isGateway = false) ∧ (s.fab.claimed = true) ∧ (s.fab.domain = d.toNat) ∧ (v.getLsbD 16 = false) :=
  ⟨{ behind with fab.claimed := true, fab.domain := 5 }, 5, 0, by decide +kernel⟩
theorem met_DomainsAreClaimed_3 : ∃ (s : State) (d : BitVec 10) (v : U32) (priv : Bool),
    (s.pdOn 9 = true) ∧ (s.isGateway = false) ∧ (s.fab.claimed = true) ∧ (s.fab.domain ≠ d.toNat) :=
  ⟨{ behind with fab.claimed := true, fab.domain := 6 }, 5, 0x10000, true, by decide +kernel⟩
theorem met_DomainsAreClaimed_4 : ∃ (s : State) (d : BitVec 10) (v : U32),
    (s.pdOn 9 = true) ∧ (s.isGateway = false) ∧ (s.straps.pcieEn = true) ∧ (s.sys.power.cut = false) :=
  ⟨{ behind with straps.pcieEn := true }, 5, 0x10000, by decide +kernel⟩
theorem met_RoutesAndGroupsAreSet_1 : ∃ (s : State) (c : Cmd) (tbl : List Byte),
    let j := c.job
    (blocked s s.held (.routeSet c tbl) c.job = false) ∧ (firstRefusal (begun s c) c.job (routeSetSpec (begun s c) c.job) = none)
      ∧ ((j.n 16 1 = 0 ∨ BytesHere s)) :=
  ⟨live, cmd 0x50 [(18, 944), (20, 80), (24, 0x87654321), (62, 0x9A)], List.replicate 512 0x21, by decide +kernel⟩
theorem met_RoutesAndGroupsAreSet_2 : ∃ (s : State) (c : Cmd) (tbl : List Byte),
    let j := c.job
    (blocked s s.held (.routeSet c tbl) c.job = false) ∧ (firstRefusal (begun s c) c.job (routeSetSpec (begun s c) c.job) = none) ∧ (j.n 16 1 = 1)
      ∧ (s.isGateway = false) ∧ (s.fab.claimed = true) :=
  ⟨{ behind with fab.claimed := true, fab.domain := 5 }, cmd 0x50 [(16, 1), (24, 0x1000)], List.replicate 512 0x21, by decide +kernel⟩
theorem met_RoutesAndGroupsAreSet_3 : ∃ (s : State) (c : Cmd) (tbl : List Byte),
    (blocked s s.held (.groupSet c) c.job = false) ∧ (firstRefusal (begun s c) c.job (groupSetSpec (begun s c) c.job) = none) :=
  ⟨live, cmd 0x51 [(16, 255), (17, 1), (18, 0x3FF)], List.replicate 512 0x21, by decide +kernel⟩
theorem met_TephraIsArmedAndDisarmed_1 : ∃ (s : State) (c : Cmd),
    let j := c.job
    (blocked s s.held (.tephraCfg c) c.job = false) ∧ (firstRefusal (begun s c) c.job ((fun _ j => tephraCfgSpec j) (begun s c) c.job) = none) :=
  ⟨live, cmd 0x5C [(16, 10), (17, 3), (18, 0x3F), (20, 2), (24, 64), (28, 1)], by decide +kernel⟩

/-! TimeIsExchangedAndHeld -/

theorem met_TimeExchangesAreMeasured_1 : ∃ (s : State) (l : Fin 11) (payload : BitVec 256),
    let b := leBytes 32 payload.toNat
    (s.pdOn 9 = true) ∧ (fieldAt b 0 1 = 0) ∧ (bit s.time.cfg.outMask l.val = true) ∧ ((s.link l.val).st = .up) ∧ (BytesHere s)
      ∧ ((s.link l.val).cur = none) ∧ ((s.link l.val).queue = []) ∧ ((s.link l.val).tephra.heldPkt = none) ∧ ((s.link l.val).tephra.action = 0) :=
  ⟨{ linkIn 2 .up with time.cfg.outMask := 4 }, 2, 0, by decide +kernel⟩
theorem met_TimeExchangesAreMeasured_2 : ∃ (s : State) (l : Fin 11) (payload : BitVec 256) (t1 : U64) (age : Nat),
    let b := leBytes 32 payload.toNat
    (s.pdOn 9 = true) ∧ (fieldAt b 0 1 = 1) ∧ (s.time.cfg.root = false)
      ∧ ((s.tlink l.val).open_.find? (fun e => e.1 == fieldAt b 6 2) = some (fieldAt b 6 2, t1, age))
      ∧ (s.ft.toNat - t1.toNat ≤ 4 * s.time.cfg.periodNs) :=
  ⟨{ timeWaits 4 with ft := 4001000 }, 2, BitVec.ofNat 256 (1 + 3 * 2 ^ 8 + 9 * 2 ^ 48 + 5000 * 2 ^ 64 + 4000 * 2 ^ 128), 1000, 4, by decide +kernel⟩
theorem met_TimeExchangesAreMeasured_3 : ∃ (s : State) (l : Fin 11) (payload : BitVec 256) (t1 : U64) (age : Nat),
    let b := leBytes 32 payload.toNat
    (s.pdOn 9 = true) ∧ (fieldAt b 0 1 = 1) ∧ (s.time.cfg.root = false)
      ∧ ((s.tlink l.val).open_.find? (fun e => e.1 == fieldAt b 6 2) = some (fieldAt b 6 2, t1, age))
      ∧ (s.ft.toNat - t1.toNat > 4 * s.time.cfg.periodNs) :=
  ⟨{ timeWaits 4 with ft := 4001001 }, 2, BitVec.ofNat 256 (1 + 3 * 2 ^ 8 + 9 * 2 ^ 48 + 5000 * 2 ^ 64 + 4000 * 2 ^ 128), 1000, 4, by decide +kernel⟩
theorem met_TimeStatesFollowTheRules_1 : ∃ (s : State) (c : Cmd),
    (blocked s s.held (.timeCfg c) c.job = false) ∧ (firstRefusal (begun s c) c.job ((fun _ j => timeCfgSpec j) (begun s c) c.job) = none) :=
  ⟨live, cmd 0x54 [(16, 1), (17, 7), (18, 0x7FF), (20, 0x7FF), (22, 100), (24, 200000)], by decide +kernel⟩
theorem met_TimeStatesFollowTheRules_2 : ∃ (s : State) (c : Cmd) (js : List Job), (s.pdOn 9 = true) ∧ (s.time.queue = c.job :: js) ∧ (c.job.n 16 1 = 1) :=
  ⟨{ live with time.queue := [(cmd 0x54 [(16, 1), (20, 0x7FF)]).job] }, cmd 0x54 [(16, 1), (20, 0x7FF)], [], by decide +kernel⟩
theorem met_TimeStatesFollowTheRules_3 : ∃ (s : State) (c : Cmd),
    (s.pdOn 9 = true) ∧ (s.time.queue = []) ∧ (s.time.cfg.root = false) ∧ (s.time.st = .locked) ∧ ((∀ l, (s.tlink l).have_ = false)) :=
  ⟨{ live with time.st := .locked, time.hops := 3 }, cmd 0x54 [(16, 1), (17, 7), (18, 0x7FF), (20, 0x7FF), (22, 100), (24, 200000)], by refine ⟨?_, ?_, ?_, ?_, ?_⟩ <;> first | decide +kernel | exact fun _ => rfl⟩
theorem met_TimeStatesFollowTheRules_4 : ∃ (s : State) (c : Cmd),
    (s.pdOn 9 = true) ∧ (s.time.st = .holdover) ∧ (s.clk - s.time.holdAt > s.time.cfg.holdMs * 1000000) :=
  ⟨{ live with time.st := .holdover, clk := 2000000001 }, cmd 0x54 [(16, 1), (17, 7), (18, 0x7FF), (20, 0x7FF), (22, 100), (24, 200000)], by decide +kernel⟩

/-! ClaimsBecomeOwnershipAndConflictsResolve -/

theorem met_ClaimsBecomeOwnership_1 : ∃ (s : State) (a : Acc) (v : U32),
    ((s.pdOn 2 = true ∧ s.sys.mode ≠ .dormant ∧ admitted a = true ∧ mpuOk s (Acc.mid a) (regSpace + (Reg.EDG_PAIR_CTRL)) 4 = true))
      ∧ (privileged s a = true) ∧ (v.getLsbD 0 = true) ∧ (v.getLsbD 1 = false) ∧ (eligible s = true) ∧ (s.pair.ownI = false)
      ∧ (s.pair.claimFrom ≤ s.clk) :=
  ⟨paired 1 .standby, .pf0, 1, by decide +kernel⟩
theorem met_ClaimsBecomeOwnership_2 : ∃ (s : State) (a : Acc) (v : U32),
    ((s.pdOn 2 = true ∧ s.sys.mode ≠ .dormant ∧ admitted a = true ∧ mpuOk s (Acc.mid a) (regSpace + (Reg.EDG_PAIR_CTRL)) 4 = true))
      ∧ (v.getLsbD 1 = false) ∧ (eligible s = false) ∧ (¬ (Reg.EDG_PAIR_CTRL ∈ s.sys.parity)) :=
  ⟨paired 1 .active, .pf0, 1, by decide +kernel⟩
theorem met_ClaimsBecomeOwnership_3 : ∃ (s : State) (a : Acc) (v : U32), (s.pair.autoClaim = true) ∧ (eligible s = true) :=
  ⟨{ paired 1 .standby with pair.autoClaim := true }, .pf0, 1, by decide +kernel⟩
theorem met_ClaimsBecomeOwnership_4 : ∃ (s : State) (a : Acc) (v : U32),
    (s.pair.state = 2) ∧ (claimable s = true) ∧ (s.pair.ownI = false) ∧ (s.pair.claimAt + 2000 ≤ s.clk) ∧ (refStarts s = true) :=
  ⟨{ paired 2 .standby with clk := 2000 }, .pf0, 1, by decide +kernel⟩
theorem met_ClaimsBecomeOwnership_5 : ∃ (s : State) (a : Acc) (v : U32), (s.pair.state = 2) ∧ (claimable s = false) :=
  ⟨{ paired 2 .standby with pair.barred := true }, .pf0, 1, by decide +kernel⟩
theorem met_ConflictsAreResolved_1 : ∃ (s : State), (s.pair.state = 3) :=
  ⟨{ paired 3 .active with pair.roleB := true }, by decide +kernel⟩
theorem met_ConflictsAreResolved_2 : ∃ (s : State), (s.pair.state = 2) :=
  ⟨paired 2 .standby, by decide +kernel⟩
theorem met_ConflictsAreResolved_3 : ∃ (s : State), (s.pair.state = 2) :=
  ⟨{ paired 2 .standby with pair.roleB := true }, by decide +kernel⟩
theorem met_ConflictsAreResolved_4 : ∃ (s : State) (i : Byte),
    (i.toNat ≤ 7) ∧ (s.pdOn 2 = true) ∧ ((s.pair.disagree.contains (1, i.toNat)) = false)
      ∧ ((s.enabled i.toNat && (s.tg i.toNat).cfg.idx != 0) ≠ (s.tg i.toNat).running) :=
  ⟨running, 7, by decide +kernel⟩

/-! TriggersReleaseOwnership -/

theorem met_TriggersReleaseOwnership_1 : ∃ (s : State) (k : Fin 12), (s.pair.state = 2 ∨ s.pair.state = 3) ∧ (k.val ≠ 0) :=
  ⟨paired 3 .active, 11, by decide +kernel⟩
theorem met_TriggersReleaseOwnership_2 : ∃ (s : State) (a : Acc) (v : U32),
    (s.pair.state = 2 ∨ s.pair.state = 3)
      ∧ ((s.pdOn 2 = true ∧ s.sys.mode ≠ .dormant ∧ admitted a = true ∧ mpuOk s (Acc.mid a) (regSpace + (Reg.EDG_PAIR_CTRL)) 4 = true))
      ∧ (privileged s a = true) ∧ ((v : U32).getLsbD 0 = false) ∧ (v.getLsbD 1 = true) :=
  ⟨paired 3 .active, .pf0, 2, by decide +kernel⟩
theorem met_TriggersReleaseOwnership_3 : ∃ (s : State),
    (s.pair.state = 2 ∨ s.pair.state = 3) ∧ (s.pdOn 9 = true) ∧ (s.time.st = .unlocked) ∧ (s.pair.unlockMs ≠ 0)
      ∧ (s.clk > s.time.since + s.pair.unlockMs * 1000000) :=
  ⟨{ paired 2 .active with time.st := .unlocked, pair.unlockMs := 1, clk := 1000001 }, by decide +kernel⟩
theorem met_TriggersReleaseOwnership_4 : ∃ (s : State), (s.pair.state = 2 ∨ s.pair.state = 3) ∧ (s.isReady 1 = true) ∧ (s.sys.mode ≠ .dormant) :=
  ⟨paired 2 .standby, by decide +kernel⟩

/-! TheMirrorIsRun -/

theorem met_TheMirrorIsRun_1 : ∃ (s : State) (c : Cmd) (p : Packet),
    (blocked s s.held (.mirrorCfg c) c.job = false) ∧ (firstRefusal (begun s c) c.job (mirrorCfgSpec (begun s c) c.job) = none) ∧ (c.job.n 16 1 = 1)
      ∧ (s.pair.state = 0) ∧ (s.sys.mode = .active) ∧ (bit (c.job.n 17 1) 2 = false) :=
  ⟨live, cmd 0x68 [(16, 1), (18, 7), (20, 0x3FE), (22, 100), (24, 100000), (29, 0xFF), (32, 0x1000)], mirrorPkt 0 1 1 0 9 0 0x400000 (List.replicate 496 1), by decide +kernel⟩
theorem met_TheMirrorIsRun_2 : ∃ (s : State) (c : Cmd) (p : Packet),
    (blocked s s.held (.mirrorCfg c) c.job = false) ∧ (firstRefusal (begun s c) c.job (mirrorCfgSpec (begun s c) c.job) = none) ∧ (c.job.n 16 1 = 0)
      ∧ (bit (c.job.n 17 1) 2 = false) ∧ ((s.pair.ownO = (s.pair.state == 2 || s.pair.state == 3) ∧ s.pair.selO = (s.pair.state == 3))) :=
  ⟨paired 3 .active, cmd 0x68 [(18, 0xFF)], mirrorPkt 0 1 1 0 9 0 0x400000 (List.replicate 496 1), by decide +kernel⟩
theorem met_TheMirrorIsRun_3 : ∃ (s : State) (c : Cmd) (p : Packet) (k : Nat) (total : Nat),
    let rid := fieldAt p.data 4 4
    let off := fieldAt p.data 8 4
    (s.pdOn 9 = true) ∧ (s.pair.enable = true) ∧ (s.pair.state ≠ 3) ∧ (p.seq = s.mir.rxSeq) ∧ (fieldAt p.data 0 1 = 0)
      ∧ (bit (fieldAt p.data 2 1) 1 = false) ∧ (total ≤ 0x400000)
      ∧ ((if bit (fieldAt p.data 2 1) 0 then some (fieldAt p.data 1 1, rid, fieldAt p.data 12 4, 0) else s.mir.partRec) = some (k, rid, total, off)) :=
  ⟨paired 1 .standby, cmd 0x68 [(16, 1), (18, 7), (20, 0x3FE), (22, 100), (24, 100000), (29, 0xFF), (32, 0x1000)], mirrorPkt 0 1 1 0 9 0 0x400000 (List.replicate 496 1), 1, 0x400000, by decide +kernel⟩
theorem met_TheMirrorIsRun_4 : ∃ (s : State) (c : Cmd) (p : Packet),
    (s.pdOn 9 = true) ∧ (s.pair.enable = true) ∧ (s.peerUp = true) ∧ (s.pair.state = 3)
      ∧ (s.fab.localQ.find? (fun q => q.cls == clsMIRROR && fieldAt q.data 0 1 == 2) = none) :=
  ⟨paired 3 .active, cmd 0x68 [(16, 1), (18, 7), (20, 0x3FE), (22, 100), (24, 100000), (29, 0xFF), (32, 0x1000)], mirrorPkt 0 1 1 0 9 0 0x400000 (List.replicate 496 1), by decide +kernel⟩
theorem met_TheMirrorIsRun_5 : ∃ (s : State) (c : Cmd) (p : Packet),
    (s.pdOn 9 = true) ∧ (s.pair.enable = false ∨ s.peerUp = false ∨ s.pair.state ≠ 3)
      ∧ (s.fab.localQ.find? (fun q => q.cls == clsMIRROR && fieldAt q.data 0 1 == 2) = none) :=
  ⟨paired 1 .standby, cmd 0x68 [(16, 1), (18, 7), (20, 0x3FE), (22, 100), (24, 100000), (29, 0xFF), (32, 0x1000)], mirrorPkt 0 1 1 0 9 0 0x400000 (List.replicate 496 1), by decide +kernel⟩
theorem met_TheMirrorIsRun_6 : ∃ (s : State) (c : Cmd) (p : Packet), (s.fab.localQ.find? (fun q => q.cls == clsMIRROR && fieldAt q.data 0 1 == 2) = some p) :=
  ⟨{ paired 3 .active with fab.localQ := [mirrorPkt 2 0 0 0 0 0 0 []] }, cmd 0x68 [(16, 1), (18, 7), (20, 0x3FE), (22, 100), (24, 100000), (29, 0xFF), (32, 0x1000)], mirrorPkt 2 0 0 0 0 0 0 [], by decide +kernel⟩
theorem met_TheMirrorIsRun_7 : ∃ (s : State) (c : Cmd) (p : Packet),
    (s.pdOn 9 = true) ∧ (s.pair.enable = true) ∧ (p.seq = s.mir.rxSeq) ∧ (fieldAt p.data 0 1 = 1) ∧ (fieldAt p.data 3 1 = 0)
      ∧ (s.commits.find? (fun c => c.stage == 1 && c.recId == fieldAt p.data 4 4) = none) :=
  ⟨paired 3 .active, cmd 0x68 [(16, 1), (18, 7), (20, 0x3FE), (22, 100), (24, 100000), (29, 0xFF), (32, 0x1000)], mirrorPkt 1 0 0 0 9 0 0 [], by decide +kernel⟩
theorem met_TheMirrorIsRun_8 : ∃ (s : State) (c : Cmd) (p : Packet) (k : CommitRec),
    (s.pdOn 9 = true) ∧ (s.pair.enable = true) ∧ (p.seq = s.mir.rxSeq) ∧ (fieldAt p.data 0 1 = 1) ∧ (fieldAt p.data 3 1 = 0) ∧ (s.commits = [k])
      ∧ (k.stage = 1) ∧ (k.recId = fieldAt p.data 4 4) ∧ (k.job = c.job) ∧ ((∀ n, n < 8 → (s.tg n).running = true)) :=
  ⟨{ running with pair := (paired 3 .active).pair, commits := [{ aCommit (cmd 0x31 [(16, 0xFF), (17, 1)]) 1 0xFF 0 with recId := 9 }] }, cmd 0x31 [(16, 0xFF), (17, 1)], mirrorPkt 1 0 0 0 9 0 0 [], { aCommit (cmd 0x31 [(16, 0xFF), (17, 1)]) 1 0xFF 0 with recId := 9 }, by decide +kernel⟩
theorem met_TheMirrorIsRun_9 : ∃ (s : State) (c : Cmd) (p : Packet) (k : CommitRec),
    (s.pdOn 9 = true) ∧ (s.commits = [k]) ∧ (k.stage = 1) ∧ (k.job = c.job) ∧ (k.sentAt + s.pair.ackUs * 1000 ≤ s.clk) :=
  ⟨{ live with clk := 2000000, commits := [aCommit (cmd 0x31 [(16, 0xFF), (17, 1)]) 1 0xFF 0] }, cmd 0x31 [(16, 0xFF), (17, 1)], mirrorPkt 0 1 1 0 9 0 0x400000 (List.replicate 496 1), aCommit (cmd 0x31 [(16, 0xFF), (17, 1)]) 1 0xFF 0, by decide +kernel⟩

/-! ResetsLeaveAndBringUpRuns -/

theorem met_ResetsLeaveBringUp_1 : ∃ (s : State) (cause : ResetCause) (straps : Straps) (calf : BitVec 11),
    (resetCauseOk s cause = true) :=
  ⟨live, .sysRstN, { roleB := true, halfRate := false, refHcsl := false, pcieEn := true }, 0x7FE, by decide +kernel⟩
theorem met_ResetsLeaveBringUp_2 : ∃ (s : State) (cause : ResetCause) (straps : Straps) (calf : BitVec 11),
    (resetCauseOk s cause = false) :=
  ⟨behind, .dlDown, { roleB := true, halfRate := false, refHcsl := false, pcieEn := true }, 0x7FE, by decide +kernel⟩
theorem met_ResetsLeaveBringUp_4 : ∃ (s : State) (cause : ResetCause) (straps : Straps) (calf : BitVec 11),
    (s.sys.power.released = false) :=
  ⟨{ live with sys.power.released := false }, .sysRstN, { roleB := true, halfRate := false, refHcsl := false, pcieEn := true }, 0x7FE, by decide +kernel⟩
theorem met_ResetsLeaveBringUp_5 : ∃ (s : State) (cause : ResetCause) (straps : Straps) (calf : BitVec 11),
    (s.sys.power.released = true) :=
  ⟨{ live with sys.power.released := true }, .sysRstN, { roleB := true, halfRate := false, refHcsl := false, pcieEn := true }, 0x7FE, by decide +kernel⟩
theorem met_BringUpRuns_1 : ∃ (s : State) (a : Acc) (off : BitVec 20) (size : Nat) (x : U64) (v : U32),
    let b := s.sys.boot
    let win := size = 4 ∨ size = 8
    let allowed := mpuOk s (Acc.mid a) (regSpace + (0x100000 + off.toNat)) size = true
    (s.pdOn 2 = true) ∧ (win) ∧ (off.toNat % size = 0) ∧ (allowed) ∧ ((a = .pf0 ∨ a = .mgmtPriv)) ∧ (b.verified = false) ∧ (b.busy = false) :=
  ⟨{ live with sys.boot := { live.sys.boot with verified := false, busy := false } }, .pf0, 0xFFFF8, 8, 5, 0x010007FF, by decide +kernel⟩
theorem met_BringUpRuns_2 : ∃ (s : State) (a : Acc) (off : BitVec 20) (size : Nat) (x : U64) (v : U32),
    let b := s.sys.boot
    let win := size = 4 ∨ size = 8
    let allowed := mpuOk s (Acc.mid a) (regSpace + (0x100000 + off.toNat)) size = true
    (s.pdOn 2 = true) ∧ (win) ∧ (off.toNat % size = 0) ∧ (allowed) ∧ ((a = .pf0 ∨ a = .mgmtPriv)) ∧ (b.verified = true) :=
  ⟨{ live with sys.boot := { live.sys.boot with verified := true, busy := false } }, .pf0, 0xFFFF8, 8, 5, 0x010007FF, by decide +kernel⟩
theorem met_BringUpRuns_3 : ∃ (s : State) (a : Acc) (off : BitVec 20) (size : Nat) (x : U64) (v : U32),
    let win := size = 4 ∨ size = 8
    let allowed := mpuOk s (Acc.mid a) (regSpace + (0x100000 + off.toNat)) size = true
    (s.pdOn 2 = true) ∧ (win) ∧ (off.toNat % size = 0) ∧ (allowed) ∧ (a ≠ .pf0) ∧ (a ≠ .mgmtPriv) :=
  ⟨live, .pf1, 0xFFFF8, 8, 5, 0x010007FF, by decide +kernel⟩
theorem met_BringUpRuns_4 : ∃ (s : State) (a : Acc) (off : BitVec 20) (size : Nat) (x : U64) (v : U32),
    let b := s.sys.boot
    (s.pdOn 2 = true) ∧ ((s.pdOn 2 = true ∧ s.sys.mode ≠ .dormant ∧ admitted a = true ∧ mpuOk s (Acc.mid a) (regSpace + (Reg.SYS_BOOT_CHUNK)) 4 = true))
      ∧ (privileged s a = true) ∧ (b.verified = false) ∧ (b.busy = false) ∧ (1 ≤ bits v.toNat 24 16) ∧ (bits v.toNat 24 16 ≤ 256)
      ∧ (bits v.toNat 10 0 + bits v.toNat 24 16 ≤ 2048) :=
  ⟨{ live with sys.boot := { live.sys.boot with verified := false, busy := false } }, .pf0, 0xFFFF8, 8, 5, 0x800107FF, by decide +kernel⟩
theorem met_BringUpRuns_5 : ∃ (s : State) (a : Acc) (off : BitVec 20) (size : Nat) (x : U64) (v : U32),
    let b := s.sys.boot
    (s.pdOn 2 = true) ∧ ((s.pdOn 2 = true ∧ s.sys.mode ≠ .dormant ∧ admitted a = true ∧ mpuOk s (Acc.mid a) (regSpace + (Reg.SYS_BOOT_CHUNK)) 4 = true))
      ∧ ((b.verified = true ∨ b.busy = true)) :=
  ⟨{ live with sys.boot := { live.sys.boot with verified := true, busy := false } }, .pf0, 0xFFFF8, 8, 5, 0x010007FF, by decide +kernel⟩
theorem met_BringUpRuns_6 : ∃ (s : State) (a : Acc) (off : BitVec 20) (size : Nat) (x : U64) (v : U32) (p : Nat) (n : Nat),
    let b := s.sys.boot
    (s.pdOn 2 = true) ∧ (b.busy = true) ∧ (b.verifying = false) ∧ (b.copying = some (p, n)) :=
  ⟨{ live with sys.boot := { live.sys.boot with busy := true, copying := some (0, 1) } }, .pf0, 0xFFFF8, 8, 5, 0x010007FF, 0, 1, by decide +kernel⟩
theorem met_BringUpRuns_7 : ∃ s : State, s.pdOn 2 = true ∧ s.sys.boot.busy = true ∧ s.sys.boot.verifying = true
    ∧ imageFaults (copyChunk s.sys.boot) s.otp = [] :=
  ⟨signed, by decide +kernel, by decide +kernel, by decide +kernel, signed_faults⟩
theorem met_BringUpRuns_8 : ∃ (s : State) (a : Acc) (off : BitVec 20) (size : Nat) (x : U64) (v : U32),
    let b := s.sys.boot
    (s.pdOn 2 = true) ∧ (b.busy = true) ∧ (b.verifying = true) ∧ (imageFaults (copyChunk b) s.otp ≠ []) :=
  ⟨{ live with sys.boot := { live.sys.boot with busy := true, verifying := true, pages := [(0, 1)], staging := [(0, 0xA0), (1, 0xF1), (2, 0x24), (3, 0x08), (9, 0x10)] } }, .pf0, 0xFFFF8, 8, 5, 0x010007FF, by decide +kernel⟩
theorem met_BringUpRuns_9 : ∃ (s : State) (a : Acc) (off : BitVec 20) (size : Nat) (x : U64) (v : U32),
    (s.pdOn 2 = true) ∧ (s.isReady 1 = true) ∧ (s.isReady 27 = false) ∧ (s.sys.mode = .bringup) ∧ (s.sys.power.cut = false) :=
  ⟨{ State.reset with sys.ready := 2 }, .pf0, 0xFFFF8, 8, 5, 0x010007FF, by decide +kernel⟩

/-! DormantSleepsAndWakes -/

theorem met_DormantSleepsAndWakes_1 : ∃ (s : State) (d : DormRec) (src : WakeSrc),
    (s.sys.dorm = some d) ∧ (d.posted = false) ∧ (s.scan.tgs.any (fun e => e.2.running) = false) ∧ (Memory.wf s.mem = true) :=
  ⟨entering, sleepRec, .link 10, by decide +kernel⟩
theorem met_DormantSleepsAndWakes_2 : ∃ (s : State) (d : DormRec) (src : WakeSrc), (s.sys.dorm = some d) ∧ (s.scan.tgs.any (fun e => e.2.running) = true) :=
  ⟨{ running with sys.dorm := some sleepRec }, sleepRec, .link 10, by decide +kernel⟩
theorem met_DormantSleepsAndWakes_3 : ∃ (s : State) (d : DormRec) (src : WakeSrc), (s.sys.dorm = some d) ∧ (s.sys.mode = .dormant) ∧ (wakeOk s d src = true) :=
  ⟨asleep, { sleepRec with posted := true, image := some (imageOf live []) }, .link 10, by decide +kernel⟩
theorem met_DormantSleepsAndWakes_4 : ∃ (s : State) (d : DormRec) (src : WakeSrc), (s.sys.dorm = some d) ∧ (wakeOk s d src = false) :=
  ⟨entering, sleepRec, .link 10, by decide +kernel⟩
theorem met_DormantSleepsAndWakes_5 : ∃ (s : State) (d : DormRec) (src : WakeSrc) (im : ResumeImage),
    (s.sys.dorm = some d) ∧ (d.image = some im) ∧ (s.sys.mode = .bringup) ∧ (s.isReady 2 = true) :=
  ⟨{ asleep with sys.mode := .bringup }, { sleepRec with posted := true, image := some (imageOf live []) }, .link 10, imageOf live [], by decide +kernel⟩
theorem met_DormantSleepsAndWakes_6 : ∃ (s : State) (d : DormRec) (src : WakeSrc) (im : ResumeImage),
    (s.sys.dorm = some d) ∧ (d.image = some im) ∧ (s.sys.mode = .bringup) ∧ (s.isReady 2 = true) :=
  ⟨{ asleep with sys.mode := .bringup }, { sleepRec with posted := true, image := some (imageOf live []) }, .link 10, imageOf live [], by decide +kernel⟩
theorem met_UnitsIdleAndParityIsScrubbed_1 : ∃ (s : State) (u : PowerUnit) (o : BitVec 24),
    (s.reg Reg.SYS_PWR_IDLE ≠ 0) ∧ (u ∉ s.sys.power.gated) ∧ (unitIdle s u = true) ∧ (s.sys.mode ≠ .dormant) :=
  ⟨live.setReg Reg.SYS_PWR_IDLE 1, .de 7, BitVec.ofNat 24 Reg.SYS_PWR_IDLE, by decide +kernel⟩
theorem met_UnitsIdleAndParityIsScrubbed_2 : ∃ (s : State) (u : PowerUnit) (o : BitVec 24),
    ((s.reg Reg.SYS_PWR_IDLE = 0 ∨ u ∈ s.sys.power.gated ∨ unitIdle s u = false ∨ s.sys.mode = .dormant)) :=
  ⟨live.setReg Reg.SYS_PWR_IDLE 0, .de 7, BitVec.ofNat 24 Reg.SYS_PWR_IDLE, Or.inl (by decide +kernel)⟩
theorem met_UnitsIdleAndParityIsScrubbed_3 : ∃ (s : State) (u : PowerUnit) (o : BitVec 24),
    (u ∈ s.sys.power.gated) ∧ (s.sys.mode ≠ .frozen) ∧ (s.sys.mode ≠ .dormant) ∧ (s.sys.power.cut = false) :=
  ⟨{ live with sys.power.gated := [.de 7] }, .de 7, BitVec.ofNat 24 Reg.SYS_PWR_IDLE, by decide +kernel⟩
theorem met_UnitsIdleAndParityIsScrubbed_4 : ∃ (s : State) (u : PowerUnit) (o : BitVec 24),
    (s.pdOn 2 = true) ∧ (o.toNat ∉ s.sys.parity) ∧ (configMask o.toNat ≠ 0) ∧ ((findReg o.toNat).isSome = true) :=
  ⟨live.setReg Reg.SYS_PWR_IDLE 1, .de 7, BitVec.ofNat 24 Reg.SYS_PWR_IDLE, by decide +kernel⟩
theorem met_UnitsIdleAndParityIsScrubbed_5 : ∃ (s : State) (u : PowerUnit) (o : BitVec 24), ((o.toNat ∈ s.sys.parity ∨ configMask o.toNat = 0)) :=
  ⟨{ live with sys.parity := [Reg.SYS_PWR_IDLE] }, .de 7, BitVec.ofNat 24 Reg.SYS_PWR_IDLE, by decide +kernel⟩

/-! HeatAndPowerAct -/

theorem met_HeatAndPowerAct_1 : ∃ (s : State) (temps : List Int) (temp : Int) (p : Pll) (us100 : Bool),
    ((s.pair.ownO = (s.pair.state == 2 || s.pair.state == 3) ∧ s.pair.selO = (s.pair.state == 3))) ∧ (s.sys.mode ≠ .dormant) :=
  ⟨live, List.replicate 9 1600, 2000, .mem, true, by decide +kernel⟩
theorem met_HeatAndPowerAct_2 : ∃ (s : State) (temps : List Int) (temp : Int) (p : Pll) (us100 : Bool),
    ((s.pair.ownO = (s.pair.state == 2 || s.pair.state == 3) ∧ s.pair.selO = (s.pair.state == 3))) ∧ (s.sys.mode ≠ .dormant)
      ∧ (s.sys.therm.tripped = false) :=
  ⟨live, List.replicate 9 1600, 2000, .mem, true, by decide +kernel⟩
theorem met_HeatAndPowerAct_3 : ∃ (s : State) (temps : List Int) (temp : Int) (p : Pll) (us100 : Bool) (d : DormRec),
    ((s.pair.ownO = (s.pair.state == 2 || s.pair.state == 3) ∧ s.pair.selO = (s.pair.state == 3))) ∧ (s.sys.dorm = some d) ∧ (s.sys.mode = .dormant)
      ∧ (d.dead = false) :=
  ⟨asleep, List.replicate 9 1600, 2000, .mem, true, { sleepRec with posted := true, image := some (imageOf live []) }, by decide +kernel⟩
theorem met_HeatAndPowerAct_4 : ∃ (s : State) (temps : List Int) (temp : Int) (p : Pll) (us100 : Bool),
    ((s.pair.ownO = (s.pair.state == 2 || s.pair.state == 3) ∧ s.pair.selO = (s.pair.state == 3))) ∧ (s.sys.power.cut = false) :=
  ⟨live, List.replicate 9 1600, 2000, .mem, true, by decide +kernel⟩
theorem met_HeatAndPowerAct_5 : ∃ (s : State) (temps : List Int) (temp : Int) (p : Pll) (us100 : Bool),
    ((s.pair.ownO = (s.pair.state == 2 || s.pair.state == 3) ∧ s.pair.selO = (s.pair.state == 3))) ∧ (s.sys.mode ≠ .dormant) ∧ (pllLocked s p = true) :=
  ⟨{ live with sys.power := { live.sys.power with sysLock := true, strLock := true, memLock := true } }, List.replicate 9 1600, 2000, .mem, true, by decide +kernel⟩
theorem met_HeatAndPowerAct_6 : ∃ (s : State) (temps : List Int) (temp : Int) (p : Pll) (us100 : Bool),
    ((s.pair.ownO = (s.pair.state == 2 || s.pair.state == 3) ∧ s.pair.selO = (s.pair.state == 3))) ∧ (pllStarted s p = true)
      ∧ ((∀ q, q ≠ p → pllStarted s q = true → pllLocked s q = true)) :=
  ⟨{ live with sys.power := { live.sys.power with sysLock := true, strLock := true, memLock := false, released := true } }, List.replicate 9 1600, 2000, .mem, true, by refine ⟨by decide +kernel, by decide +kernel, ?_⟩; intro q hq _; cases q <;> first | exact absurd rfl hq | decide +kernel⟩
theorem met_HeatAndPowerAct_7 : ∃ (s : State) (temps : List Int) (temp : Int) (p : Pll) (us100 : Bool),
    ((s.pair.ownO = (s.pair.state == 2 || s.pair.state == 3) ∧ s.pair.selO = (s.pair.state == 3))) ∧ (s.sys.mode ≠ .dormant)
      ∧ (s.sys.power.released = true) :=
  ⟨{ live with sys.power := { live.sys.power with released := true } }, List.replicate 9 1600, 2000, .mem, true, by decide +kernel⟩

/-! MemoryRequestsEnter -/

theorem met_MemoryRequestsEnter_1 : ∃ (s : State) (mid : BitVec 6) (addr : BitVec 40) (len : Nat) (write : Bool) (data : List Byte),
    let a := addr.toNat
    let q : DramReq := { kind := if write then (if len = 64 then 1 else 2) else 0, mid := mid.toNat, addr := a, data := slice data 0 len }
    let plain := ¬ (mid.toNat = 0x3E ∧ s.dram.test.on = true)
    (s.pdOn 2 = true) ∧ (Memory.wf s.mem = true) ∧ (0 < len) ∧ (addr.toNat % 64 + len ≤ 64) ∧ (plain) ∧ (mpuOk s mid.toNat a len = true) ∧ (a < s.usable)
      ∧ (s.dram.ingress = []) ∧ (s.dram.frozen = none) ∧ (mustWait s q = false) :=
  ⟨live, 0x28, 0x1FF8, 8, true, [1, 2, 3, 4, 5, 6, 7, 8], by decide +kernel⟩
theorem met_MemoryRequestsEnter_2 : ∃ (s : State) (mid : BitVec 6) (addr : BitVec 40) (len : Nat) (write : Bool) (data : List Byte),
    let a := addr.toNat
    let q : DramReq := { kind := if write then (if len = 64 then 1 else 2) else 0, mid := mid.toNat, addr := a, data := slice data 0 len }
    let plain := ¬ (mid.toNat = 0x3E ∧ s.dram.test.on = true)
    (s.pdOn 2 = true) ∧ (Memory.wf s.mem = true) ∧ (0 < len) ∧ (addr.toNat % 64 + len ≤ 64) ∧ (plain) ∧ (mpuOk s mid.toNat a len = true) ∧ (a < s.usable)
      ∧ (s.dram.ingress = []) ∧ ((s.dram.frozen.isSome = true ∨ mustWait s q = true)) :=
  ⟨{ live with dram.selfRefresh := true }, 0x28, 0x1FF8, 8, true, [1, 2, 3, 4, 5, 6, 7, 8], by decide +kernel⟩
theorem met_MemoryRequestsEnter_3 : ∃ (s : State) (mid : BitVec 6) (addr : BitVec 40) (len : Nat) (write : Bool) (data : List Byte),
    let a := addr.toNat
    let plain := ¬ (mid.toNat = 0x3E ∧ s.dram.test.on = true)
    (s.pdOn 2 = true) ∧ (Memory.wf s.mem = true) ∧ (0 < len) ∧ (addr.toNat % 64 + len ≤ 64) ∧ (plain) ∧ (mpuOk s mid.toNat a len = false) :=
  ⟨{ live with sys.mpu := [] }, 0x28, 0x1FF8, 8, true, [1, 2, 3, 4, 5, 6, 7, 8], by decide +kernel⟩
theorem met_MemoryRequestsEnter_4 : ∃ (s : State) (mid : BitVec 6) (addr : BitVec 40) (len : Nat) (write : Bool) (data : List Byte),
    (s.pdOn 2 = true) ∧ (Memory.wf s.mem = true) ∧ (0 < len) ∧ (addr.toNat % 64 + len ≤ 64) ∧ (mid.toNat = 0x3E) ∧ (s.dram.test.on = true)
      ∧ ((s.dram.frozen.isSome = true ∨ ∃ x, x ∈ s.dram.ingress ∧ x.mid = 0x3E)) :=
  ⟨{ live with dram.test := { live.dram.test with on := true, size := 128, pos := 64 }, dram.ingress := [{ kind := 0, mid := 0x3E, addr := 0, data := [] }] }, 0x3E, 0x1FC0, 64, true, [1, 2, 3, 4, 5, 6, 7, 8], by decide +kernel⟩
theorem met_MemoryRequestsEnter_5 : ∃ (s : State) (mid : BitVec 6) (addr : BitVec 40) (len : Nat) (write : Bool) (data : List Byte),
    (s.pdOn 2 = true) ∧ (Memory.wf s.mem = true) ∧ (0 < len) ∧ (addr.toNat % 64 + len ≤ 64) ∧ (mid.toNat = 0x3E) ∧ (s.dram.test.on = true)
      ∧ (s.dram.frozen = none) ∧ ((∀ x, x ∈ s.dram.ingress → x.mid ≠ 0x3E)) :=
  ⟨{ live with dram.test := { live.dram.test with on := true, size := 128, pos := 64 } }, 0x3E, 0x1FC0, 64, true, [1, 2, 3, 4, 5, 6, 7, 8], by decide +kernel⟩

/-! ChannelsIssueAndFreeze -/

theorem met_ChannelsIssueAndFreeze_1 : ∃ (s : State) (ch : Fin 24) (q : DramReq) (w : Fin 8) (syn : Byte) (what : MemStruct) (mid : BitVec 6) (where_ : Option (Fin 24)) (ecc : Ecc),
    (s.pdOn 4 = true) ∧ (s.dram.frozen.isSome = true ∨ s.dram.retrain = some ch.val) :=
  ⟨{ live with dram.retrain := some 23 }, 23, { kind := 0, mid := 8, addr := 0x1700, data := [1] }, 7, 0xFF, .scheduler, 0x3F, none, .clean, by decide +kernel⟩
theorem met_ChannelsIssueAndFreeze_2 : ∃ (s : State) (ch : Fin 24) (q : DramReq) (w : Fin 8) (syn : Byte) (what : MemStruct) (mid : BitVec 6) (where_ : Option (Fin 24)) (ecc : Ecc),
    let c := s.chan ch.val
    let pick := pickReq { c with batch := batchNext s c }
    (s.pdOn 4 = true) ∧ (s.dram.frozen = none) ∧ (s.dram.retrain ≠ some ch.val) ∧ (pick = none) :=
  ⟨live, 23, { kind := 0, mid := 8, addr := 0x1700, data := [1] }, 7, 0xFF, .scheduler, 0x3F, none, .clean, by decide +kernel⟩
theorem met_ChannelsIssueAndFreeze_3 : ∃ (s : State) (ch : Fin 24) (q : DramReq) (w : Fin 8) (syn : Byte) (what : MemStruct) (mid : BitVec 6) (where_ : Option (Fin 24)),
    let c := s.chan ch.val
    let pick := pickReq { c with batch := batchNext s c }
    (s.pdOn 4 = true) ∧ (s.dram.frozen = none) ∧ (s.dram.retrain ≠ some ch.val) ∧ (pick = some q) ∧ (s.dram.ingress = []) :=
  ⟨reading 0, 23, { kind := 0, mid := 8, addr := 0x1700, data := [1] }, 7, 0xFF, .scheduler, 0x3F, none, by decide +kernel⟩
theorem met_ChannelsIssueAndFreeze_4 : ∃ (s : State) (ch : Fin 24) (q : DramReq) (w : Fin 8) (syn : Byte) (what : MemStruct) (mid : BitVec 6) (where_ : Option (Fin 24)),
    let c := s.chan ch.val
    let pick := pickReq { c with batch := batchNext s c }
    (s.pdOn 4 = true) ∧ (s.dram.frozen = none) ∧ (s.dram.retrain ≠ some ch.val) ∧ (pick = some q) ∧ ((q.kind = 0 ∨ q.kind = 2)) :=
  ⟨reading 0, 23, { kind := 0, mid := 8, addr := 0x1700, data := [1] }, 7, 0xFF, .scheduler, 0x3F, none, by decide +kernel⟩
theorem met_ChannelsIssueAndFreeze_5 : ∃ (s : State) (ch : Fin 24) (q : DramReq) (w : Fin 8) (syn : Byte) (what : MemStruct) (mid : BitVec 6) (where_ : Option (Fin 24)),
    (s.pdOn 4 = true) ∧ (s.dram.frozen = none) :=
  ⟨reading 0, 23, { kind := 0, mid := 8, addr := 0x1700, data := [1] }, 7, 0xFF, .scheduler, 0x3F, none, by decide +kernel⟩
theorem met_ChannelsIssueAndFreeze_6 : ∃ (s : State) (ch : Fin 24) (q : DramReq) (w : Fin 8) (syn : Byte) (what : MemStruct) (mid : BitVec 6) (where_ : Option (Fin 24)),
    (s.pdOn 4 = true) ∧ (s.dram.frozen.isSome = true) :=
  ⟨after (.commandError none .scheduler) live, 23, { kind := 0, mid := 8, addr := 0x1700, data := [1] }, 7, 0xFF, .scheduler, 0x3F, none, by decide +kernel⟩
theorem met_ChannelsIssueAndFreeze_7 : ∃ (s : State) (ch : Fin 24) (q : DramReq) (w : Fin 8) (syn : Byte) (what : MemStruct) (mid : BitVec 6) (where_ : Option (Fin 24)),
    (s.pdOn 4 = true) ∧ (s.clk < s.dram.throttleEnd.getD mid.toNat 0) :=
  ⟨{ live with dram.throttleEnd := [(0x3F, 5)] }, 23, { kind := 0, mid := 8, addr := 0x1700, data := [1] }, 7, 0xFF, .scheduler, 0x3F, none, by decide +kernel⟩
theorem met_ChannelsIssueAndFreeze_8 : ∃ (s : State) (ch : Fin 24) (q : DramReq) (w : Fin 8) (syn : Byte) (what : MemStruct) (mid : BitVec 6) (where_ : Option (Fin 24)),
    (s.pdOn 4 = true) ∧ (s.dram.throttleEnd.getD mid.toNat 0 ≤ s.clk) :=
  ⟨reading 0, 23, { kind := 0, mid := 8, addr := 0x1700, data := [1] }, 7, 0xFF, .scheduler, 0x3F, none, by decide +kernel⟩
theorem met_ChannelsIssueAndFreeze_9 : ∃ (s : State) (ch : Fin 24) (q : DramReq) (w : Fin 8) (syn : Byte) (what : MemStruct) (mid : BitVec 6) (where_ : Option (Fin 24)) (ecc : Ecc),
    (s.pdOn 4 = true) ∧ (scrubMay s ch.val = false) :=
  ⟨{ live with dram.trained := false }, 23, { kind := 0, mid := 8, addr := 0x1700, data := [1] }, 7, 0xFF, .scheduler, 0x3F, none, .clean, by decide +kernel⟩
theorem met_ChannelsIssueAndFreeze_10 : ∃ (s : State) (ch : Fin 24) (q : DramReq) (w : Fin 8) (syn : Byte) (what : MemStruct) (mid : BitVec 6) (where_ : Option (Fin 24)),
    (s.pdOn 4 = true) ∧ (scrubMay s ch.val = true) ∧ ((∃ k : Fin 24, k ≠ ch ∧ (s.chan k.val).scrub < chanBlocks s k.val)) :=
  ⟨live, 23, { kind := 0, mid := 8, addr := 0x1700, data := [1] }, 7, 0xFF, .scheduler, 0x3F, none, by refine ⟨by decide +kernel, by decide +kernel, ⟨0, by decide +kernel, by decide +kernel⟩⟩⟩
theorem met_ChannelsIssueAndFreeze_11 : ∃ (s : State) (ch : Fin 24) (q : DramReq) (w : Fin 8) (syn : Byte) (what : MemStruct) (mid : BitVec 6) (where_ : Option (Fin 24)),
    let c := s.chan ch.val
    (s.pdOn 4 = true) ∧ (scrubMay s ch.val = true) ∧ ((∃ k : Fin 24, k ≠ ch ∧ (s.chan k.val).scrub < chanBlocks s k.val))
      ∧ (segUsable s (blockAddr ch.val c.scrub) = true) :=
  ⟨live, 23, { kind := 0, mid := 8, addr := 0x1700, data := [1] }, 7, 0xFF, .scheduler, 0x3F, none, by refine ⟨by decide +kernel, by decide +kernel, ⟨0, by decide +kernel, by decide +kernel⟩, by decide +kernel⟩⟩

/-! MemoryComesUp -/

theorem met_MemoryComesUp_1 : ∃ (s : State) (density : List Nat) (temps : List Int) (failed : List (Fin 24 × Byte)) (ch : Fin 24) (bank : Fin 16) (temp : Int) (ns : U16),
    let cfg := configOf density
    (s.pdOn 2 = true) ∧ (s.dram.frozen = none) ∧ (cfg ≠ 0) ∧ (Memory.wf s.mem = true) :=
  ⟨State.reset, List.replicate 24 3, List.replicate 24 400, [(23, 9), (0, 1)], 23, 15, 50, 0xFFFF, by decide +kernel⟩
theorem met_MemoryComesUp_2 : ∃ (s : State) (density : List Nat) (temps : List Int) (failed : List (Fin 24 × Byte)) (ch : Fin 24) (bank : Fin 16) (temp : Int) (ns : U16),
    let cfg := configOf density
    (s.pdOn 2 = true) ∧ (s.dram.frozen = none) ∧ ((failed ≠ [] ∨ cfg = 0)) :=
  ⟨State.reset, List.replicate 23 3 ++ [2], List.replicate 24 400, [(23, 9), (0, 1)], 23, 15, 50, 0xFFFF, by decide +kernel⟩
theorem met_MemoryComesUp_3 : ∃ (s : State) (density : List Nat) (temps : List Int) (failed : List (Fin 24 × Byte)) (ch : Fin 24) (bank : Fin 16) (temp : Int) (ns : U16),
    (s.dram.frozen.isSome = true) :=
  ⟨after (.commandError none .scheduler) live, List.replicate 24 3, List.replicate 24 400, [(23, 9), (0, 1)], 23, 15, 50, 0xFFFF, by decide +kernel⟩
theorem met_MemoryComesUp_4 : ∃ (s : State) (density : List Nat) (temps : List Int) (failed : List (Fin 24 × Byte)) (ch : Fin 24) (bank : Fin 16) (temp : Int) (ns : U16) (k : Nat),
    (s.pdOn 4 = true) ∧ (s.dram.initSeg = some k) ∧ (s.dram.frozen = none) :=
  ⟨{ live with dram.initSeg := some 7 }, List.replicate 24 3, List.replicate 24 400, [(23, 9), (0, 1)], 23, 15, 50, 0xFFFF, 7, by decide +kernel⟩
theorem met_MemoryComesUp_5 : ∃ (s : State) (density : List Nat) (temps : List Int) (failed : List (Fin 24 × Byte)) (ch : Fin 24) (bank : Fin 16) (temp : Int) (ns : U16) (drift : Bool),
    (s.pdOn 4 = true) ∧ (s.dram.retrain = none) ∧ (s.dram.trained = true) ∧ ((drift = true ∨ tempMoved s ch.val temp = true)) :=
  ⟨live, List.replicate 24 3, List.replicate 24 400, [(23, 9), (0, 1)], 23, 15, 50, 0xFFFF, true, by decide +kernel⟩
theorem met_MemoryComesUp_6 : ∃ (s : State) (density : List Nat) (temps : List Int) (failed : List (Fin 24 × Byte)) (ch : Fin 24) (bank : Fin 16) (temp : Int) (ns : U16) (drift : Bool),
    (s.dram.retrain.isSome = true) :=
  ⟨{ live with dram.retrain := some 0 }, List.replicate 24 3, List.replicate 24 400, [(23, 9), (0, 1)], 23, 15, 50, 0xFFFF, true, by decide +kernel⟩
theorem met_MemoryComesUp_7 : ∃ (s : State) (density : List Nat) (temps : List Int) (failed : List (Fin 24 × Byte)) (ch : Fin 24) (bank : Fin 16) (temp : Int) (ns : U16),
    (tempMoved s ch.val temp = false) :=
  ⟨live, List.replicate 24 3, List.replicate 24 400, [(23, 9), (0, 1)], 23, 15, 9, 0xFFFF, by decide +kernel⟩
theorem met_MemoryComesUp_8 : ∃ (s : State) (density : List Nat) (temps : List Int) (failed : List (Fin 24 × Byte)) (ch : Fin 24) (bank : Fin 16) (temp : Int) (ns : U16),
    (s.pdOn 4 = true) ∧ (s.dram.retrain = some ch.val) :=
  ⟨{ live with dram.retrain := some 23 }, List.replicate 24 3, List.replicate 24 400, [(23, 9), (0, 1)], 23, 15, 50, 0xFFFF, by decide +kernel⟩
theorem met_MemoryComesUp_9 : ∃ (s : State) (density : List Nat) (temps : List Int) (failed : List (Fin 24 × Byte)) (ch : Fin 24) (bank : Fin 16) (temp : Int) (ns : U16),
    (s.pdOn 4 = true) :=
  ⟨live, List.replicate 24 3, List.replicate 24 400, [(23, 9), (0, 1)], 23, 15, 50, 0xFFFF, by decide +kernel⟩

end Sys2Proof.Tests
end

/-! SUPPORT. Tables: entries of a mapped table, and listed entries. -/

namespace Sys2Proof

/-- An entry of a table whose entries are mapped. -/
theorem Tab.get?_map {α β : Type} (t : Tab α) (f : α → β) (k : Nat) :
    Tab.get? (t.map (fun e => (e.1, f e.2))) k = (t.get? k).map f := by
  induction t with
  | nil => rfl
  | cons e t ih =>
    obtain ⟨j, v⟩ := e
    by_cases h : k = j <;> simp [Tab.get?, h]
    exact ih

/-- A number with an entry is listed. -/
theorem Tab.mem_of_get? {α : Type} {t : Tab α} {k : Nat} {v : α} (h : t.get? k = some v) : (k, v) ∈ t := by
  induction t with
  | nil => simp at h
  | cons e t ih =>
    obtain ⟨j, w⟩ := e
    by_cases hk : k = j
    · simp_all [Tab.get?]
    · simp only [Tab.get?, if_neg hk] at h
      exact List.mem_cons_of_mem _ (ih h)

end Sys2Proof

/-! SUPPORT. A ring command that starts and is admitted, and what its completion writes and leaves alone. -/

namespace Sys2Proof.Machine

/-! ## Ring commands that start (R274, R279) -/

/-- A command that nothing holds back runs in the state in which its descriptor counts as started. -/
theorem gate_starts {s : State} {i : Instr} {c : Cmd} (run : State → Job → State) (h : Starts s i c) :
    gate s i c run = run (begun s c) c.job := by
  have h' : blocked s s.held i c.job = false := h
  simp [gate, h', begun]

/-- A command that no check refuses is performed. -/
theorem runJob_admits {s : State} {j : Job} {sp : CmdSpec} (act : State → State) (h : firstRefusal s j sp = none) :
    runJob s j sp act = act s := by
  simp [runJob, h]

/-! ## Completion (R271, R272) -/

/-- What a completion may change. -/
abbrev finishParts : List Part :=
  [.inFlight, .dma, .done, .mir, .regs, .evSeq, .out, .dorm, .rings, .irq, .rate, .localQ, .links, .exch]

theorem frame_finish (s : State) (j : Job) (st : Status) (fl r : Nat) : Frame finishParts s (s.finish j st fl r) :=
  frame_State_finish (List.Subset.refl _) (Frame.refl _ s)

/-- A completion leaves policies, sources and tiles alone. -/
@[simp] theorem finish_fum (s : State) (j : Job) (st : Status) (fl r : Nat) : (s.finish j st fl r).fum = s.fum :=
  (frame_finish s j st fl r).keep .fum (by decide)

/-- The mirror's record of a finished command leaves the completions and the fetched descriptors alone. -/
theorem mirrorOfDone_host (s : State) (j : Job) :
    (mirrorOfDone s j).host.done = s.host.done ∧ (mirrorOfDone s j).host.inFlight = s.host.inFlight :=
  have h := frame_mirrorOfDone (v1 := j) (List.Subset.refl _) (Frame.refl _ s)
  ⟨h.keep .done (by decide), h.keep .inFlight (by decide)⟩

/-- A finished ring command leaves its completion entry and is no longer in flight. -/
theorem finish_host (s : State) (c : Cmd) (st : Status) (fl r : Nat) :
    (s.finish c.job st fl r).host.done = s.host.done ++ entry s c st fl r
      ∧ (s.finish c.job st fl r).host.inFlight = s.host.inFlight.eraseP (fun e => e.job == c.job) := by
  unfold State.finish entry
  simp only [Cmd.job]
  by_cases hst : st = .done
  · simp only [hst, if_true]
    refine ⟨(mirrorOfDone_host _ _).1.trans ?_, (mirrorOfDone_host _ _).2.trans ?_⟩ <;> split <;> simp_all
  · simp [hst]

/-- A command that finishes in a state with the completions, descriptors and TEPHRA_USED of its start ends there. -/
theorem finish_ends {s t : State} {c : Cmd} {st : Status} {fl r : Nat} (hd : t.host.done = s.host.done)
    (hf : t.host.inFlight = (begun s c).host.inFlight) (ht : t.fab.tephraUsed = s.fab.tephraUsed) :
    Ends s (t.finish c.job st fl r) c st fl r := by
  obtain ⟨h1, h2⟩ := finish_host t c st fl r
  exact ⟨by rw [h1, hd]; simp only [entry, ht], by rw [h2, hf]⟩

/-- The same for a state that differs from the start by a frame that holds no part of the host's. -/
theorem Frame.finish_ends {m : List Part} {s t : State} {c : Cmd} {st : Status} {fl r : Nat} (h : Frame m (begun s c) t)
    (hm : Part.done ∉ m ∧ Part.inFlight ∉ m ∧ Part.domain ∉ m) : Ends s (t.finish c.job st fl r) c st fl r :=
  Machine.finish_ends (h.keep .done hm.1) (h.keep .inFlight hm.2.1) (h.keep .domain hm.2.2).2.2

end Sys2Proof.Machine

/-! SUPPORT. Fumarole: the evaluation of a source, FUM_POLICY and FUM_BIND. -/

namespace Sys2Proof.Machine

/-! ## The evaluation of one source (R16, R17) -/

/-- A source record after an evaluation of it: its new state, with the cause of the change. -/
def evalRec (s : State) (r : SourceRec) (t : Trig) : SourceRec :=
  if sourceState s r = r.state then r else { r with state := sourceState s r, cause := sourceCause r.state (sourceState s r) t }

@[simp] theorem evalRec_state (s : State) (r : SourceRec) (t : Trig) : (evalRec s r t).state = sourceState s r := by
  unfold evalRec
  split
  · next h => exact h.symm
  · rfl

/-- An evaluation writes a record's state and cause only. -/
theorem evalRec_evidence (s : State) (r : SourceRec) (t : Trig) :
    { evalRec s r t with state := r.state, cause := r.cause } = r := by
  unfold evalRec
  split <;> rfl

/-- Of Fumarole's records an evaluation writes that of the source, where its state changes. -/
theorem evalSource_fum (s : State) (i : Nat) (t : Trig) :
    (evalSource s i t).fum =
      if sourceState s (s.source i) = (s.source i).state then s.fum else (s.setSource i (evalRec s (s.source i) t)).fum := by
  unfold evalSource evalRec
  by_cases h : sourceState s (s.source i) = (s.source i).state
  · simp only [h, if_true]
  · simp only [h, if_false]
    exact (frame_pairAlarm (List.Subset.refl _) (frame_State_raise (List.Subset.refl _) (Frame.refl _ _))).keep .fum (by decide)

/-- The sources are Fumarole's. -/
theorem source_of_fum {s t : State} (h : t.fum = s.fum) (k : Nat) : t.source k = s.source k := by simp only [State.source, h]

/-- An evaluation of a source changes no other source. -/
theorem evalSource_source (s : State) (i k : Nat) (t : Trig) :
    (evalSource s i t).source k = if k = i then evalRec s (s.source i) t else s.source k := by
  by_cases h : sourceState s (s.source i) = (s.source i).state
  · rw [source_of_fum ((evalSource_fum s i t).trans (if_pos h))]
    by_cases hk : k = i
    · subst hk
      simp [evalRec, h]
    · simp [hk]
  · rw [source_of_fum ((evalSource_fum s i t).trans (if_neg h))]
    by_cases hk : k = i
    · subst hk
      simp
    · simp [hk, State.source_setSource_ne]

/-- What an evaluation may change. -/
abbrev evalParts : List Part := [.fum, .evSeq, .out, .dorm, .rings, .regs, .irq, .rate, .localQ, .links, .exch]

/-- A source that is given a record and evaluated. -/
theorem evalSource_setSource (s : State) (i k : Nat) (r : SourceRec) (t : Trig) :
    (evalSource (s.setSource i r) i t).source k = if k = i then evalRec (s.setSource i r) r t else s.source k := by
  rw [evalSource_source, State.source_setSource]
  by_cases hk : k = i
  · simp [hk]
  · simp [hk, State.source_setSource_ne]

theorem frame_evalSource_setSource (s : State) (i : Nat) (r : SourceRec) (t : Trig) :
    Frame evalParts s (evalSource (s.setSource i r) i t) :=
  frame_evalSource (List.Subset.refl _) (frame_State_setSource (by decide) (Frame.refl _ s))

/-- A completion leaves the sources alone. -/
@[simp] theorem finish_source (s : State) (j : Job) (st : Status) (fl r k : Nat) : (s.finish j st fl r).source k = s.source k :=
  source_of_fum (finish_fum s j st fl r) k

/-- A command that gives a source a record, has it evaluated and completes: the source keeps the record but for its state and cause. -/
theorem evalSource_finish (s : State) (c : Cmd) (i : Nat) (r : SourceRec) (t : Trig) :
    let u := (evalSource ((begun s c).setSource i r) i t).finish c.job .done 0 0
    Ends s u c .done 0 0 ∧ (∀ k, k ≠ i → u.source k = s.source k)
      ∧ { u.source i with state := r.state, cause := r.cause } = r
      ∧ (u.source i).state = sourceState ((begun s c).setSource i r) r := by
  intro u
  have hu : ∀ k, u.source k = if k = i then evalRec ((begun s c).setSource i r) r t else s.source k := fun k =>
    (finish_source _ _ _ _ _ k).trans (evalSource_setSource (begun s c) i k r t)
  refine ⟨(frame_evalSource_setSource _ _ _ _).finish_ends (by decide), fun k hk => (hu k).trans (if_neg hk), ?_, ?_⟩
  · rw [hu, if_pos rfl]
    exact evalRec_evidence _ r t
  · rw [hu, if_pos rfl, evalRec_state]

/-! ## FUM_POLICY (R39) -/

/-- An admitted FUM_POLICY writes its policy and completes. -/
theorem exec_fumPolicy {s : State} {c : Cmd} (hs : Starts s (.fumPolicy c) c) (ha : Admits s c fumPolicySpec) :
    exec (.fumPolicy c) s = .next ({ begun s c with
      fum.policies := s.fum.policies.set (c.job.n 16 1) (policyOf c.job) }.finish c.job .done 0 0) := by
  rw [show exec (.fumPolicy c) s = .next (gate s (.fumPolicy c) c doFumPolicy) from rfl, gate_starts _ hs, doFumPolicy,
    runJob_admits _ ha]
  rfl

theorem policy_finish_set (s : State) (i k : Nat) (p : PolicyRec) (j : Job) (st : Status) (fl r : Nat) :
    ({ s with fum.policies := s.fum.policies.set i p }.finish j st fl r).policy k = if k = i then p else s.policy k := by
  simp [State.policy]

theorem fumPolicy_admitted {s : State} {c : Cmd} (hs : Starts s (.fumPolicy c) c) (ha : Admits s c fumPolicySpec) :
    ∃ t, exec (.fumPolicy c) s = .next t ∧ Ends s t c .done 0 0
      ∧ ∀ k, t.policy k = if k = c.job.n 16 1 then policyOf c.job else s.policy k :=
  ⟨_, exec_fumPolicy hs ha, finish_ends rfl rfl rfl, fun k => policy_finish_set _ _ k _ _ _ _ _⟩

/-! ## FUM_BIND (R40) -/

/-- The record of a source that is bound to a producer it did not have, before its first evaluation. -/
def newlyBound (r : SourceRec) (j : Job) : SourceRec :=
  { SourceRec.init with prod := some (prodKey (j.n 22 1) (j.n 24 2)), policy := j.n 17 1, inForce := j.n 17 1, state := r.state,
                        remote := decide (j.n 22 1 ≥ 2) }

/-- The record of a source that loses its producer, before its evaluation. -/
def unbound (r : SourceRec) (j : Job) : SourceRec :=
  { SourceRec.init with policy := j.n 17 1, inForce := j.n 17 1, state := r.state }

/-- A source is LOST until its first arrival. -/
theorem sourceState_newlyBound (s : State) (r : SourceRec) (j : Job) : sourceState s (newlyBound r j) = 6 := rfl

/-- A source without a producer is UNASSIGNED. -/
theorem sourceState_unbound (s : State) (r : SourceRec) (j : Job) : sourceState s (unbound r j) = 7 := rfl

/-- A FUM_BIND that releases, keeps or binds its source. -/
theorem bindSource_eq (s : State) (j : Job) :
    bindSource s j =
      (if j.n 22 1 = 0xFF then
        evalSource (s.setSource (j.n 18 2) (unbound (s.source (j.n 18 2)) j)) (j.n 18 2) { bind := true }
      else if (s.source (j.n 18 2)).prod = some (prodKey (j.n 22 1) (j.n 24 2)) then
        s.setSource (j.n 18 2) { s.source (j.n 18 2) with policy := j.n 17 1 }
      else
        evalSource (s.setSource (j.n 18 2) (newlyBound (s.source (j.n 18 2)) j)) (j.n 18 2) { bind := true }).finish j .done 0 0 :=
  rfl

/-- An admitted FUM_BIND of a source. -/
theorem exec_fumBind_source {s : State} {c : Cmd} (hs : Starts s (.fumBind c) c) (ha : Admits s c fumBindSpec) (hk : c.job.n 16 1 = 0) :
    exec (.fumBind c) s = .next (bindSource (begun s c) c.job) := by
  rw [show exec (.fumBind c) s = .next (gate s (.fumBind c) c doFumBind) from rfl, gate_starts _ hs, doFumBind, runJob_admits _ ha,
    if_pos hk]

/-- The tile binding that a FUM_BIND names. -/
def tileBindOf (j : Job) : TileBind :=
  { source := if j.n 20 2 = 0xFFFF then none else some (j.n 20 2), policy := j.n 17 1, steam := bit (j.n 26 1) 0,
    evt := bit (j.n 26 1) 1 }

/-- An admitted FUM_BIND of a tile puts its binding into the shadow. -/
theorem exec_fumBind_tile {s : State} {c : Cmd} (hs : Starts s (.fumBind c) c) (ha : Admits s c fumBindSpec) (hk : c.job.n 16 1 ≠ 0) :
    exec (.fumBind c) s = .next ({ begun s c with
      fum.shadow := s.fum.shadow.set (c.job.n 18 2) (tileBindOf c.job) }.finish c.job .done 0 0) := by
  rw [show exec (.fumBind c) s = .next (gate s (.fumBind c) c doFumBind) from rfl, gate_starts _ hs, doFumBind, runJob_admits _ ha,
    if_neg hk]
  rfl

/-- A source that had no producer is bound at once, and LOST until its first arrival. -/
theorem fumBind_binds {s : State} {c : Cmd} (hs : Starts s (.fumBind c) c) (ha : Admits s c fumBindSpec) (hk : c.job.n 16 1 = 0)
    (hf : c.job.n 22 1 ≠ 0xFF) (hp : (s.source (c.job.n 18 2)).prod = none) :
    ∃ t, exec (.fumBind c) s = .next t ∧ Ends s t c .done 0 0
      ∧ (t.source (c.job.n 18 2)).prod = some (prodKey (c.job.n 22 1) (c.job.n 24 2)) ∧ (t.source (c.job.n 18 2)).policy = c.job.n 17 1
      ∧ (t.source (c.job.n 18 2)).state = 6 ∧ (t.source (c.job.n 18 2)).arrived = false
      ∧ ∀ k, k ≠ c.job.n 18 2 → t.source k = s.source k := by
  have hn : ((begun s c).source (c.job.n 18 2)).prod ≠ some (prodKey (c.job.n 22 1) (c.job.n 24 2)) := by
    rw [show ((begun s c).source (c.job.n 18 2)).prod = none from hp]
    exact nofun
  obtain ⟨hends, hother, hrec, hst⟩ :=
    evalSource_finish s c (c.job.n 18 2) (newlyBound ((begun s c).source (c.job.n 18 2)) c.job) { bind := true }
  refine ⟨_, (exec_fumBind_source hs ha hk).trans (by rw [bindSource_eq, if_neg hf, if_neg hn]), hends, ?_, ?_,
    hst.trans (sourceState_newlyBound _ _ _), ?_, hother⟩
  · exact (congrArg SourceRec.prod hrec :)
  · exact (congrArg SourceRec.policy hrec :)
  · exact (congrArg SourceRec.arrived hrec :)

/-- A source that keeps its producer gets another policy. -/
theorem fumBind_keeps {s : State} {c : Cmd} (hs : Starts s (.fumBind c) c) (ha : Admits s c fumBindSpec) (hk : c.job.n 16 1 = 0)
    (hf : c.job.n 22 1 ≠ 0xFF) (hp : (s.source (c.job.n 18 2)).prod = some (prodKey (c.job.n 22 1) (c.job.n 24 2))) :
    ∃ t, exec (.fumBind c) s = .next t ∧ Ends s t c .done 0 0
      ∧ t.source (c.job.n 18 2) = { s.source (c.job.n 18 2) with policy := c.job.n 17 1 }
      ∧ ∀ k, k ≠ c.job.n 18 2 → t.source k = s.source k := by
  have hp' : ((begun s c).source (c.job.n 18 2)).prod = some (prodKey (c.job.n 22 1) (c.job.n 24 2)) := hp
  have e : exec (.fumBind c) s = .next (((begun s c).setSource (c.job.n 18 2)
      { s.source (c.job.n 18 2) with policy := c.job.n 17 1 }).finish c.job .done 0 0) := by
    rw [exec_fumBind_source hs ha hk, bindSource_eq, if_neg hf, if_pos hp']
    rfl
  refine ⟨_, e, finish_ends rfl rfl rfl, ?_, fun k hne => ?_⟩
  · rw [finish_source, State.source_setSource]
  · rw [finish_source, State.source_setSource_ne _ _ _ _ hne]
    rfl

/-- A source that is released has no producer and is UNASSIGNED. -/
theorem fumBind_releases {s : State} {c : Cmd} (hs : Starts s (.fumBind c) c) (ha : Admits s c fumBindSpec) (hk : c.job.n 16 1 = 0)
    (hf : c.job.n 22 1 = 0xFF) :
    ∃ t, exec (.fumBind c) s = .next t ∧ Ends s t c .done 0 0 ∧ (t.source (c.job.n 18 2)).prod = none
      ∧ (t.source (c.job.n 18 2)).state = 7 ∧ ∀ k, k ≠ c.job.n 18 2 → t.source k = s.source k := by
  obtain ⟨hends, hother, hrec, hst⟩ :=
    evalSource_finish s c (c.job.n 18 2) (unbound ((begun s c).source (c.job.n 18 2)) c.job) { bind := true }
  exact ⟨_, (exec_fumBind_source hs ha hk).trans (by rw [bindSource_eq, if_pos hf]), hends, (congrArg SourceRec.prod hrec :),
    hst.trans (sourceState_unbound _ _ _), hother⟩

/-- A tile's binding is shadowed until the next commit. -/
theorem fumBind_shadows {s : State} {c : Cmd} (hs : Starts s (.fumBind c) c) (ha : Admits s c fumBindSpec) (hk : c.job.n 16 1 ≠ 0) :
    ∃ t, exec (.fumBind c) s = .next t ∧ Ends s t c .done 0 0 ∧ t.bindShd (c.job.n 18 2) = tileBindOf c.job
      ∧ t.fum.act = s.fum.act ∧ t.fum.sources = s.fum.sources := by
  refine ⟨_, exec_fumBind_tile hs ha hk, finish_ends rfl rfl rfl, ?_⟩
  simp [State.bindShd, begun]

end Sys2Proof.Machine

/-! SUPPORT. The Fumarole tick: every bound source takes its state, and the evaluation of one disturbs no other's. -/

namespace Sys2Proof.Machine

/-! ## What an evaluation rests on -/

/-- From s to t the policies of the tick, the time and its uncertainty stay, and source i keeps all but its state and cause. -/
structure TickKeeps (i : Nat) (s t : State) : Prop where
  pol  : t.fum.tickPol = s.fum.tickPol
  ft   : t.ft = s.ft
  unc  : t.uncert = s.uncert
  evid : { t.source i with state := (s.source i).state, cause := (s.source i).cause } = s.source i

theorem TickKeeps.refl (i : Nat) (s : State) : TickKeeps i s s := ⟨rfl, rfl, rfl, rfl⟩

theorem TickKeeps.trans {i : Nat} {s t u : State} (h : TickKeeps i s t) (k : TickKeeps i t u) : TickKeeps i s u where
  pol := k.pol.trans h.pol
  ft := k.ft.trans h.ft
  unc := k.unc.trans h.unc
  evid := by
    have e := h.evid
    rw [← k.evid] at e
    exact e

/-- The uncertainty stays where the clock and the time base do. -/
theorem uncert_of_frame {m : List Part} {s t : State} (h : Frame m s t) (hm : Part.clk ∉ m ∧ Part.time ∉ m) : t.uncert = s.uncert := by
  have hc : t.clk = s.clk := h.keep .clk hm.1
  have ht : { t.time with links := s.time.links } = s.time := h.keep .time hm.2
  have e : ∀ l, ({ t with time := { t.time with links := l } } : State).uncert = t.uncert := fun _ => rfl
  rw [← e s.time.links, ht]
  simp only [State.uncert, State.holdMs, hc]

/-- A source's state rests on its record without state and cause. -/
theorem sourceState_of_keeps {i : Nat} {s t : State} (h : TickKeeps i s t) : sourceState t (t.source i) = sourceState s (s.source i) := by
  have e : ∀ (u : State) (r : SourceRec) (x y : Nat), sourceState u { r with state := x, cause := y } = sourceState u r :=
    fun _ _ _ _ => rfl
  rw [← h.evid, e]
  unfold sourceState State.srcUnits State.uFor
  rw [h.pol, h.ft, h.unc]

/-- An evaluation of any source keeps what the evaluation of source i rests on. -/
theorem evalSource_tickKeeps (i k : Nat) (s : State) (t : Trig) : TickKeeps i s (evalSource s k t) where
  pol := by
    rw [evalSource_fum]
    split <;> rfl
  ft := (frame_evalSource (v1 := k) (v2 := t) (List.Subset.refl _) (Frame.refl _ s)).keep .ft (by decide)
  unc := uncert_of_frame (frame_evalSource (v1 := k) (v2 := t) (List.Subset.refl _) (Frame.refl _ s)) (by decide)
  evid := by
    rw [evalSource_source]
    by_cases h : i = k
    · subst h
      simpa using evalRec_evidence s (s.source i) t
    · simp [h]

/-! ## The loop of a tick -/

/-- A tick's visit of one source: it is evaluated where it is bound. -/
def tickSource (s : State) (k : Nat) : State := if (s.source k).prod.isSome then evalSource s k {} else s

theorem tickSource_keeps (i k : Nat) (s : State) : TickKeeps i s (tickSource s k) := by
  unfold tickSource
  split
  · exact evalSource_tickKeeps i k s {}
  · exact .refl i s

/-- A visit gives a bound source its state. -/
theorem tickSource_state {i : Nat} {s : State} (h : (s.source i).prod.isSome = true) :
    ((tickSource s i).source i).state = sourceState s (s.source i) := by
  simp [tickSource, h, evalSource_source]

/-- A visit of another source leaves the state of source i. -/
theorem tickSource_other {i k : Nat} {s : State} (h : i ≠ k) : (tickSource s k).source i = s.source i := by
  unfold tickSource
  split
  · rw [evalSource_source, if_neg h]
  · rfl

/-- After the visits of some sources, a bound source that was among them, or had its state before, has it. -/
theorem foldl_tickSource (i : Nat) (ks : List Nat) (s : State) (hp : (s.source i).prod.isSome = true) :
    TickKeeps i s (ks.foldl tickSource s)
      ∧ (i ∈ ks ∨ (s.source i).state = sourceState s (s.source i) →
          ((ks.foldl tickSource s).source i).state = sourceState s (s.source i)) := by
  induction ks generalizing s with
  | nil => exact ⟨.refl i s, fun h => h.resolve_left (by simp)⟩
  | cons k ks ih =>
    have hk := tickSource_keeps i k s
    have hp' : ((tickSource s k).source i).prod = (s.source i).prod := (congrArg SourceRec.prod hk.evid :)
    obtain ⟨h1, h2⟩ := ih (tickSource s k) (by rw [hp']; exact hp)
    rw [sourceState_of_keeps hk] at h2
    refine ⟨hk.trans h1, fun h => h2 ?_⟩
    by_cases e : i = k
    · exact .inr (e ▸ tickSource_state hp)
    · rcases h with h | h
      · exact .inl ((List.mem_cons.mp h).resolve_left e)
      · exact .inr (by rw [tickSource_other e, h])

/-! ## The tick -/

/-- A source's policy is in force. -/
def withPolicy (r : SourceRec) : SourceRec := { r with inForce := r.policy }

/-- The policies and policy bindings of sources come into force (R39, R40). -/
def inForceNow (s : State) : State :=
  { s with fum.tickPol := s.fum.policies, fum.sources := s.fum.sources.map (fun e => (e.1, withPolicy e.2)) }

theorem doTick_eq {s : State} (h : s.fumRuns = true) :
    doTick s = ((inForceNow s).fum.sources.map (·.1)).foldl tickSource (inForceNow s) := by
  simp only [doTick, h]
  rfl

/-- With its policy in force, a source is as it was otherwise. -/
theorem source_inForceNow (s : State) (i : Nat) :
    (inForceNow s).source i = withPolicy (s.source i) := by
  have e : (inForceNow s).fum.sources.get? i = (s.fum.sources.get? i).map withPolicy :=
    Tab.get?_map s.fum.sources withPolicy i
  unfold State.source Tab.getD
  rw [e]
  cases s.fum.sources.get? i <;> rfl

/-- A bound source is visited. -/
theorem mem_sources_of_bound {s : State} {i : Nat} (h : (s.source i).prod.isSome = true) : i ∈ s.fum.sources.map (·.1) := by
  cases e : s.fum.sources.get? i with
  | none => simp [State.source, Tab.getD, e, SourceRec.init] at h
  | some r => exact List.mem_map.mpr ⟨_, Tab.mem_of_get? e, rfl⟩

/-- A tick gives every bound source the state of its policy, and keeps its producer. -/
theorem doTick_source {s : State} {i : Nat} (hr : s.fumRuns = true) (hp : (s.source i).prod.isSome = true) :
    ((doTick s).source i).prod = (s.source i).prod
      ∧ ((doTick s).source i).state = sourceState (inForceNow s) ((inForceNow s).source i) := by
  have hp' : ((inForceNow s).source i).prod.isSome = true := by rw [source_inForceNow]; exact hp
  obtain ⟨h1, h2⟩ := foldl_tickSource i ((inForceNow s).fum.sources.map (·.1)) (inForceNow s) hp'
  rw [doTick_eq hr]
  refine ⟨?_, h2 (.inl (mem_sources_of_bound hp'))⟩
  have := congrArg SourceRec.prod h1.evid
  rw [source_inForceNow] at this
  exact this

/-- Settles O30: a tick visits every bound source, no visit disturbs what another's evaluation rests on, and the state a visit gives is
the worst of the policy in force. -/
theorem tickEvaluatesSources : Obligations.TickEvaluatesSources := by
  unfold Obligations.TickEvaluatesSources
  intro s i _ hr hp
  obtain ⟨h1, h2⟩ := doTick_source hr hp
  refine ⟨doTick s, rfl, h1, h2.trans ?_⟩
  rw [source_inForceNow]
  obtain ⟨k, hk⟩ := Option.isSome_iff_exists.mp hp
  have hpol : (inForceNow s).fum.tickPol.getD (s.source i).policy PolicyRec.init = s.policy (s.source i).policy := rfl
  have hft : (inForceNow s).ft = s.ft := rfl
  have hu : ∀ x, (inForceNow s).uFor x = s.uFor x := fun _ => rfl
  cases ha : (s.source i).arrived <;> simp [sourceState, State.srcUnits, withPolicy, hk, ha, hpol, hft, hu]

end Sys2Proof.Machine

/-! SUPPORT. FUM_SNAPSHOT: the length of a snapshot, and the host writes at its end on a gateway and on a claimed device. -/

namespace Sys2Proof.Machine

/-! ## The bytes of a snapshot (R42) -/

@[simp] theorem leBytes_length (n x : Nat) : (leBytes n x).length = n := by
  induction n generalizing x with
  | zero => rfl
  | succ n ih => simp [leBytes, ih]

theorem flatMap_range_length {f : Nat → List Byte} {k : Nat} (n : Nat) (h : ∀ i, (f i).length = k) :
    ((List.range n).flatMap f).length = n * k := by
  simp [List.length_flatMap, h]

theorem snapHeader_length (s : State) : (snapHeader s).length = 64 := by simp [snapHeader]

theorem sourceEntry_length (s : State) (i : Nat) : (sourceEntry s i).length = 16 := by simp [sourceEntry]

theorem tileEntry_length (s : State) (i : Nat) : (tileEntry s i).length = 16 := by simp [tileEntry]

theorem checkEntry_length (s : State) (i : Nat) : (checkEntry s i).length = 8 := by simp [checkEntry]

/-- The header, 1,024 sources, 4,096 tiles and 128 checks. -/
theorem snapshotBytes_length (s : State) : (snapshotBytes s).length = 83008 := by
  simp only [snapshotBytes, List.length_append, snapHeader_length, flatMap_range_length _ (sourceEntry_length s),
    flatMap_range_length _ (tileEntry_length s), flatMap_range_length _ (checkEntry_length s)]

/-- An admitted FUM_SNAPSHOT takes the snapshot of now. -/
theorem exec_fumSnapshot {s : State} {c : Cmd} (hs : Starts s (.fumSnapshot c) c) (ha : Admits s c snapshotSpec) :
    exec (.fumSnapshot c) s = .next { begun s c with fum.snap := some (c.job, snapshotBytes s) } :=
  congrArg Host.Outcome.next ((gate_starts _ hs).trans (runJob_admits _ ha))

/-! ## What is put out -/

/-- What has been put out since is news. -/
theorem mem_news {s t : State} {o : Out} (h : o :: s.out <:+ t.out) : o ∈ news s t := by
  obtain ⟨l, hl⟩ := h
  have e : t.out = (l ++ [o]) ++ s.out := by simp [← hl]
  rw [news, e, List.length_append, Nat.add_sub_cancel, List.take_left]
  simp

/-! ## The DMA of a command (R129, R131) -/

/-- Whether DMA of a command is open rests on the MGMT requesters alone. -/
theorem dmaOpen_congr {s t : State} (h : t.fab.reqs = s.fab.reqs) (j : Job) : dmaOpen t j = dmaOpen s j := by
  simp only [dmaOpen, h]

/-- A command without open DMA finishes at once. -/
theorem finishDma_closed {s : State} {j : Job} (h : dmaOpen s j = false) (st : Status) (fl r : Nat) :
    s.finishDma j st fl r = s.finish j st fl r := by
  simp [State.finishDma, h]

/-- A command with open DMA waits for it. -/
theorem finishDma_open {s : State} {j : Job} (h : dmaOpen s j = true) (st : Status) (fl r : Nat) :
    s.finishDma j st fl r = { s with host.dma := s.host.dma ++ [{ job := j, parts := [], ended := some (st, fl, r) }] } := by
  simp [State.finishDma, h]

/-- A ring command that finishes with no DMA open leaves its completion entry. -/
theorem finishDma_done {s t : State} {c : Cmd} (hd : t.host.done = s.host.done) (hr : t.fab.reqs = s.fab.reqs)
    (ht : t.fab.tephraUsed = s.fab.tephraUsed) (hc : dmaOpen s c.job = false) (st : Status) (fl r : Nat) :
    (t.finishDma c.job st fl r).host.done = s.host.done ++ entry s c st fl r := by
  rw [finishDma_closed ((dmaOpen_congr hr c.job).trans hc), (finish_host t c st fl r).1, hd]
  simp only [entry, ht]

@[simp] theorem finishDma_fum (s : State) (j : Job) (st : Status) (fl r : Nat) : (s.finishDma j st fl r).fum = s.fum :=
  (frame_State_finishDma (List.Subset.refl _) (Frame.refl _ s)).keep .fum (by decide)

/-- The requester of a key holds a request of the command. -/
def Asks (s : State) (j : Job) (key : Nat) : Prop :=
  ∃ r ∈ (s.requester key).open_ ++ (s.requester key).wait, r.cmd = some j

/-- Such a request is open DMA. -/
theorem Asks.dmaOpen {s : State} {j : Job} {key : Nat} (h : Asks s j key) : dmaOpen s j = true := by
  obtain ⟨r, hr, hj⟩ := h
  cases e : s.fab.reqs.get? key with
  | none => simp [State.requester, Tab.getD, e] at hr
  | some q =>
    have hq : s.requester key = q := by simp [State.requester, Tab.getD, e]
    rw [hq] at hr
    exact List.any_eq_true.mpr ⟨_, Tab.mem_of_get? e, List.any_eq_true.mpr ⟨r, hr, by simp [hj]⟩⟩

theorem Asks.congr {s t : State} {j : Job} {key : Nat} (h : Asks s j key) (e : t.fab.reqs = s.fab.reqs) : Asks t j key := by
  simpa only [Asks, State.requester, e] using h

/-- The router leaves the requesters alone. -/
theorem routeWith_reqs (s : State) (p : Packet) : (routeWith State.raise s none p).fab.reqs = s.fab.reqs :=
  ((frame_routeWith (m := eventParts) (v2 := none) (v3 := p) (by decide)
    (fun _ _ _ h => frame_State_raise (by decide) h) (Frame.refl _ s)).keep .mgmt (by decide)).1

@[simp] theorem requester_setRequester (s : State) (key k : Nat) (q : MRequester) :
    (s.setRequester key q).requester k = if k = key then q else s.requester k := by
  simp [State.requester, State.setRequester]

/-- A request issued joins those that its requester holds; no other requester changes. -/
theorem mgmtIssue_reqs (s : State) (key : Nat) (r : MReq) :
    ∃ q, (mgmtIssue State.raise s key r).fab.reqs = (s.setRequester key q).fab.reqs
      ∧ (∀ x ∈ (s.requester key).open_ ++ (s.requester key).wait, x ∈ q.open_ ++ q.wait) ∧ ∃ x ∈ q.open_ ++ q.wait, x.cmd = r.cmd := by
  unfold mgmtIssue
  by_cases h : (s.requester key).open_.length < 32
  · simp only [h, if_true]
    refine ⟨_, routeWith_reqs _ _, fun x hx => ?_, _, List.mem_append_left _ (List.mem_append_right _ (List.mem_singleton_self _)), rfl⟩
    rcases List.mem_append.mp hx with hx | hx
    · exact List.mem_append_left _ (List.mem_append_left _ hx)
    · exact List.mem_append_right _ hx
  · simp only [h, if_false]
    refine ⟨_, rfl, fun x hx => ?_, r, List.mem_append_right _ (List.mem_append_right _ (List.mem_singleton_self _)), rfl⟩
    rw [← List.append_assoc]
    exact List.mem_append_left _ hx

/-- A request once asked for stays asked for while others are issued. -/
theorem Asks.mgmtIssue {s : State} {j : Job} {k : Nat} (h : Asks s j k) (key : Nat) (r : MReq) :
    Asks (mgmtIssue State.raise s key r) j k := by
  obtain ⟨q, hq, hold, _⟩ := mgmtIssue_reqs s key r
  refine Asks.congr (s := s.setRequester key q) ?_ hq
  unfold Asks
  rw [requester_setRequester]
  split
  · next e =>
    subst e
    obtain ⟨x, hx, hc⟩ := h
    exact ⟨x, hold x hx, hc⟩
  · exact h

/-- A command's request, issued, is asked for. -/
theorem asks_mgmtIssue (s : State) (key : Nat) {r : MReq} {j : Job} (h : r.cmd = some j) : Asks (mgmtIssue State.raise s key r) j key := by
  obtain ⟨q, hq, _, x, hx, hc⟩ := mgmtIssue_reqs s key r
  refine Asks.congr (s := s.setRequester key q) ?_ hq
  unfold Asks
  rw [requester_setRequester, if_pos rfl]
  exact ⟨x, hx, hc.trans h⟩

theorem Asks.dmaWrites {s : State} {j : Job} {k : Nat} (h : Asks s j k) (cmd : Option Job) (n pf addr : Nat) (data : List Byte) :
    Asks (dmaWrites State.raise cmd n s pf addr data) j k := by
  induction n generalizing s addr data with
  | zero => exact h
  | succ n ih =>
    rw [Machine.dmaWrites]
    split
    · exact h
    · exact ih (h.mgmtIssue _ _) _ _

/-! ## Host writes of a command (R129, R131, R457) -/

/-- On a gateway the bytes go out, on a device without a domain they are dropped. -/
theorem hostWriteFor_here {s : State} (h : BytesHere s) (j : Job) (addr : Nat) (data : List Byte) :
    s.hostWriteFor j addr data = if s.isGateway then s.emit (.hostWrite j.pf addr data) else s := by
  unfold State.hostWriteFor hostWriteR
  rcases h with h | h <;> simp [h]

/-- On a claimed device some bytes to write open DMA of the command. -/
theorem hostWriteFor_dmaOpen {s : State} (hg : s.isGateway = false) (hc : s.fab.claimed = true) (j : Job) (addr : Nat) {data : List Byte}
    (hd : data ≠ []) : dmaOpen (s.hostWriteFor j addr data) j = true := by
  unfold State.hostWriteFor hostWriteR
  simp only [hg, hc, Bool.false_eq_true, if_false, if_true]
  rw [dmaWrites, if_neg (by simpa using hd)]
  exact (Asks.dmaWrites (asks_mgmtIssue _ _ rfl) _ _ _ _ _).dmaOpen

/-- What a command's host write may change. -/
abbrev hostWriteParts : List Part := [.evSeq, .out, .dorm, .rings, .regs, .irq, .rate, .localQ, .links, .exch, .mgmt]

theorem frame_hostWriteFor (s : State) (j : Job) (addr : Nat) (data : List Byte) : Frame hostWriteParts s (s.hostWriteFor j addr data) :=
  frame_State_hostWriteFor (List.Subset.refl _) (Frame.refl _ s)

theorem hostWriteUnder_allowed {s : State} {mid addr : Nat} {data : List Byte} (j : Job)
    (h : firstDenied s mid (s.hostInternal addr) data.length = none) :
    hostWriteUnder s mid j addr data = (s.hostWriteFor j addr data, data.length) := by
  simp [hostWriteUnder, h]

theorem hostWriteUnder_denied {s : State} {mid addr : Nat} {data : List Byte} {d : Nat × Nat} (j : Job)
    (h : firstDenied s mid (s.hostInternal addr) data.length = some d) :
    hostWriteUnder s mid j addr data =
      ((if d.1 - s.hostInternal addr = 0 then s else s.hostWriteFor j addr (data.take (d.1 - s.hostInternal addr))).mpuDeny mid d.1 d.2 true,
        d.1 - s.hostInternal addr) := by
  simp [hostWriteUnder, h]

/-- Every piece of a transfer holds a byte. -/
theorem blocksOf_pos (n a off len : Nat) : ∀ p ∈ blocksOf n a off len, 0 < p.2 := by
  induction n generalizing off len with
  | zero => simp [blocksOf]
  | succ n ih =>
    intro p hp
    rw [blocksOf] at hp
    split at hp
    · simp at hp
    · rcases List.mem_cons.mp hp with rfl | hp
      · simp only
        omega
      · exact ih _ _ p hp

/-- The first denied block begins within its range. -/
theorem firstDenied_within {s : State} {mid addr len : Nat} {d : Nat × Nat} (h : firstDenied s mid addr len = some d) :
    addr ≤ d.1 ∧ d.1 < addr + len := by
  unfold firstDenied at h
  obtain ⟨p, hp, rfl⟩ := Option.map_eq_some_iff.mp h
  have hm := List.mem_of_find?_eq_some hp
  have h1 := blocksOf_within _ _ _ _ p hm
  have h2 := blocksOf_pos _ _ _ _ p hm
  simp only
  omega

/-! ## The end of a snapshot (R41, R457) -/

/-- No snapshot is under way any more. -/
def snapOver (s : State) : State := { s with fum.snap := none }

/-- The end of a snapshot's writes, all of them allowed. -/
theorem exec_snapshotWriteEnd_allowed {s : State} {j : Job} {b : List Byte} (hp : s.pdOn 7 = true) (hs : s.fum.snap = some (j, b))
    (hd : firstDenied s 0x28 (s.hostInternal (j.n 16 8)) b.length = none) :
    exec .snapshotWriteEnd s = .next ((snapOver (s.hostWriteFor j (j.n 16 8) b)).finishDma j .done 0 0) := by
  have e : exec .snapshotWriteEnd s = .next (onDomain s 7 doSnapshotEnd) := rfl
  rw [e]
  simp only [onDomain, hp, if_true, doSnapshotEnd, hs, hostWriteUnder_allowed j hd]
  rfl

/-- The end of a snapshot's writes at the first one denied. -/
theorem exec_snapshotWriteEnd_denied {s : State} {j : Job} {b : List Byte} {d : Nat × Nat} (hp : s.pdOn 7 = true)
    (hs : s.fum.snap = some (j, b)) (hd : firstDenied s 0x28 (s.hostInternal (j.n 16 8)) b.length = some d) :
    exec .snapshotWriteEnd s = .next ((snapOver (hostWriteUnder s 0x28 j (j.n 16 8) b).1).finishDma j .denied
      (if d.1 = s.hostInternal (j.n 16 8) then 0 else 4) 0) := by
  obtain ⟨h1, h2⟩ := firstDenied_within hd
  have e : exec .snapshotWriteEnd s = .next (onDomain s 7 doSnapshotEnd) := rfl
  have hn : d.1 - s.hostInternal (j.n 16 8) ≠ b.length := by omega
  have h0 : d.1 - s.hostInternal (j.n 16 8) = 0 ↔ d.1 = s.hostInternal (j.n 16 8) := by omega
  rw [e]
  simp only [onDomain, hp, if_true, doSnapshotEnd, hs, hostWriteUnder_denied j hd, if_neg hn, h0]
  rfl

/-- With the host bytes here, the writes of a transfer leave completions, requesters and TEPHRA_USED alone. -/
theorem hostWriteUnder_here {s : State} (h : BytesHere s) (mid : Nat) (j : Job) (addr : Nat) (data : List Byte) :
    let t := (hostWriteUnder s mid j addr data).1
    t.host.done = s.host.done ∧ t.fab.reqs = s.fab.reqs ∧ t.fab.tephraUsed = s.fab.tephraUsed := by
  have hf := frame_hostWriteUnder (v1 := mid) (v2 := j) (v3 := addr) (v4 := data) (List.Subset.refl _) (Frame.refl _ s)
  refine ⟨hf.keep .done (by decide), ?_, (hf.keep .domain (by decide)).2.2⟩
  have hw : ∀ b, (s.hostWriteFor j addr b).fab.reqs = s.fab.reqs := fun b => by
    rw [hostWriteFor_here h]
    split <;> rfl
  cases hd : firstDenied s mid (s.hostInternal addr) data.length with
  | none => rw [hostWriteUnder_allowed j hd]; exact hw _
  | some d =>
    rw [hostWriteUnder_denied j hd]
    refine ((frame_State_mpuDeny (List.Subset.refl _) (Frame.refl _ _)).keep .mgmt (by decide)).1.trans ?_
    split
    · rfl
    · exact hw _

/-- A snapshot that is over, its command finished with no DMA open. -/
theorem finishDma_snapOver {s t : State} {c : Cmd} (hd : t.host.done = s.host.done) (hr : t.fab.reqs = s.fab.reqs)
    (ht : t.fab.tephraUsed = s.fab.tephraUsed) (hc : dmaOpen s c.job = false) (st : Status) (fl r : Nat) :
    ((snapOver t).finishDma c.job st fl r).fum.snap = none
      ∧ ((snapOver t).finishDma c.job st fl r).host.done = s.host.done ++ entry s c st fl r :=
  ⟨congrArg FumRec.snap (finishDma_fum (snapOver t) c.job st fl r), finishDma_done (t := snapOver t) hd hr ht hc st fl r⟩

/-- R41 on a device that has its host bytes: all writes allowed. -/
theorem snapshotWriteEnd_completes {s : State} {c : Cmd} {b : List Byte} (hp : s.pdOn 7 = true) (hs : s.fum.snap = some (c.job, b))
    (hd : firstDenied s 0x28 (s.hostInternal (c.job.n 16 8)) b.length = none) (hb : BytesHere s) (hc : dmaOpen s c.job = false) :
    ∃ t, exec .snapshotWriteEnd s = .next t ∧ t.fum.snap = none ∧ t.host.done = s.host.done ++ entry s c .done 0 0
      ∧ (s.isGateway = true → Out.hostWrite c.pf.val (c.job.n 16 8) b ∈ news s t) := by
  obtain ⟨h1, h2, h3⟩ := hostWriteUnder_here hb 0x28 c.job (c.job.n 16 8) b
  rw [hostWriteUnder_allowed c.job hd] at h1 h2 h3
  obtain ⟨hn, hh⟩ := finishDma_snapOver h1 h2 h3 hc .done 0 0
  refine ⟨_, exec_snapshotWriteEnd_allowed hp hs hd, hn, hh, fun hg => mem_news ?_⟩
  have hw : Out.hostWrite c.pf.val (c.job.n 16 8) b :: s.out = (snapOver (s.hostWriteFor c.job (c.job.n 16 8) b)).out := by
    rw [hostWriteFor_here hb, if_pos hg]
    rfl
  rw [hw]
  exact (keeps_State_finishDma (Keeps.refl _)).log

/-- R129: on a claimed device the command waits for its DMA. -/
theorem snapshotWriteEnd_waits {s : State} {c : Cmd} {b : List Byte} (hp : s.pdOn 7 = true) (hs : s.fum.snap = some (c.job, b))
    (hd : firstDenied s 0x28 (s.hostInternal (c.job.n 16 8)) b.length = none) (hg : s.isGateway = false) (hc : s.fab.claimed = true)
    (hb : b ≠ []) :
    ∃ t, exec .snapshotWriteEnd s = .next t ∧ t.fum.snap = none ∧ t.host.done = s.host.done
      ∧ t.host.dma = s.host.dma ++ [{ job := c.job, parts := [], ended := some (.done, 0, 0) }] := by
  have hf := frame_hostWriteFor s c.job (c.job.n 16 8) b
  have hdone : (s.hostWriteFor c.job (c.job.n 16 8) b).host.done = s.host.done := hf.keep .done (by decide)
  have hdma : (s.hostWriteFor c.job (c.job.n 16 8) b).host.dma = s.host.dma := hf.keep .dma (by decide)
  have ho : dmaOpen (snapOver (s.hostWriteFor c.job (c.job.n 16 8) b)) c.job = true :=
    (dmaOpen_congr rfl c.job).trans (hostWriteFor_dmaOpen hg hc c.job (c.job.n 16 8) hb)
  refine ⟨_, exec_snapshotWriteEnd_allowed hp hs hd, ?_⟩
  rw [finishDma_open ho]
  exact ⟨rfl, hdone, by rw [← hdma]; rfl⟩

/-- R457: a denied block ends the command with DENIED, and PARTIAL where bytes went before it. -/
theorem snapshotWriteEnd_denied {s : State} {c : Cmd} {b : List Byte} {d : Nat × Nat} (hp : s.pdOn 7 = true)
    (hs : s.fum.snap = some (c.job, b)) (hd : firstDenied s 0x28 (s.hostInternal (c.job.n 16 8)) b.length = some d) (hb : BytesHere s)
    (hc : dmaOpen s c.job = false) :
    ∃ t, exec .snapshotWriteEnd s = .next t ∧ t.fum.snap = none
      ∧ t.host.done = s.host.done ++ entry s c .denied (if d.1 = s.hostInternal (c.job.n 16 8) then 0 else 4) 0 := by
  obtain ⟨h1, h2, h3⟩ := hostWriteUnder_here hb 0x28 c.job (c.job.n 16 8) b
  obtain ⟨hn, hh⟩ := finishDma_snapOver h1 h2 h3 hc .denied (if d.1 = s.hostInternal (c.job.n 16 8) then 0 else 4) 0
  exact ⟨_, exec_snapshotWriteEnd_denied hp hs hd, hn, hh⟩

/-- Settles O29: an admitted command acts on the state of its start, and the end of a snapshot follows the host write it makes. -/
theorem policiesBindingsAndSnapshots : Obligations.PoliciesBindingsAndSnapshots := by
  unfold Obligations.PoliciesBindingsAndSnapshots
  refine ⟨fun s c => ⟨fun hs ha => ?policy, fumBind_binds, fumBind_keeps, fumBind_releases,
      fun hs ha hk => fumBind_shadows hs ha (by simp [hk])⟩,
    fun s c b => ⟨fun hs ha => ⟨_, exec_fumSnapshot hs ha, rfl, snapshotBytes_length s, rfl⟩, snapshotWriteEnd_completes,
      snapshotWriteEnd_waits, fun d hb hc hp hs hd => snapshotWriteEnd_denied hp hs hd hb hc⟩⟩
  case policy =>
    obtain ⟨t, he, hends, hpol⟩ := fumPolicy_admitted hs ha
    have hi : t.policy (c.job.n 16 1) = policyOf c.job := (hpol _).trans (if_pos rfl)
    refine ⟨t, he, hends, ?_⟩
    rw [hi]
    exact ⟨rfl, rfl, rfl, rfl, rfl, rfl, rfl, rfl, fun k hk => (hpol k).trans (if_neg hk)⟩

end Sys2Proof.Machine

/-! SUPPORT. Register writes whose effect moves no link: the RELEASE rows, SYS_MPU_CTRL and DAP_EN. -/

namespace Sys2Proof.Machine

/-! ## A write around its effect -/

/-- The part of an accepted write that is the register's own. -/
def writeEffect (s : State) (a : Acc) (off : Nat) (d : RegDef) (i j old new : Nat) : Option State :=
  if off < 0x400000 then effectSys s 0 d.base i j old new else effectUnit s a d.base i old new

/-- No register changed and no link changed its state. -/
abbrev Quiet (s t : State) : Prop := CalmOf (fun _ => False) s t

theorem Quiet.still {s t : State} (h : Quiet s t) : Still s t := ⟨h.st, fun _ _ => h.cnt id⟩

/-- New parity changes no register and no link. -/
theorem cureParity_quiet (s : State) (off : Nat) : Quiet s (cureParity s off) := by
  unfold cureParity
  refine CalmOf.ite ?_ (.refl s)
  extract_lets t
  exact CalmOf.ite (.upd (.refl s)) (.upd (.refl s))

/-- An accepted write stores new parity, then has its register's effect (R323, R326). -/
theorem acceptWrite_effect {s : State} {a : Acc} {off : Nat} {d : RegDef} {i j old new : Nat} {f : State → State}
    (he : ∀ u, writeEffect u a off d i j old new = some (f u)) :
    ∃ u, Frame [.parity, .pair] s u ∧ Quiet s u ∧ acceptWrite s a 0 off d i j old new = f u := by
  refine ⟨if (0 : Nat) = 0 ∧ !(lockedWhole d old) then cureParity s off else s, ?_, ?_, ?_⟩
  · exact .ite (frame_cureParity (List.Subset.refl _) (Frame.refl _ s)) (Frame.refl _ s)
  · exact .ite (cureParity_quiet s off) (.refl s)
  · unfold acceptWrite
    extract_lets t e
    rw [show e = some (f t) from he t]

/-- A row's write that reaches its register, breaks no rule and moves no link is the register's effect, after new parity. -/
theorem rowWrite_effect {s : State} {a : Acc} {off : Nat} {v : U32} {d : RegDef} {i j : Nat} {f : State → State} {m : List Part}
    (h : Reaches s a off) (h4 : inBootWindow off = false ∧ off % 4 = 0) (hf : findReg off = some (d, i, j)) (hb : d.base ≠ Reg.MBX_SEL)
    (hu : unitFor s d i = none) (hm : writeMask d i (privileged s a) ≠ 0)
    (hx : fieldFault s a 0 d i j (oldValue s d off i) (mergeWrite d i (privileged s a) (oldValue s d off i) v.toNat) = none)
    (he : ∀ u, writeEffect u a off d i j (oldValue s d off i) (mergeWrite d i (privileged s a) (oldValue s d off i) v.toNat) = some (f u))
    (hs : ∀ u, Still u (f u)) (hfr : ∀ u, Frame m u (f u)) (hmem : Part.ready ∉ m ∧ Part.mode ∉ m) :
    ∃ u, Frame [.parity, .pair] s u ∧ Quiet s u ∧ rowWrite s a off v = f u := by
  have ht : touchUnit s d i = s := by simp [touchUnit, hu]
  obtain ⟨u, hu1, hu2, hu3⟩ := acceptWrite_effect (s := s) he
  have e : regWrite32 s a off v = f u := by
    rw [← hu3]
    have := regWrite32_accept (v := v) h h4 hf hb (by rw [ht]; exact hm) (by rw [ht]; exact hx)
    rwa [ht] at this
  have hr : same .ready s (f u) := (hu1.keep .ready (by decide)).trans ((hfr u).keep .ready hmem.1)
  have hmd : same .mode s (f u) := (hu1.keep .mode (by decide)).trans ((hfr u).keep .mode hmem.2)
  exact ⟨u, hu1, hu2, rowWrite_still e (hu2.still.trans (hs u)) hr (by rw [hmd.1]; exact h.2.1)⟩

/-- Bit k of the value that a write leaves, where the accessor can write it. -/
theorem bit_mergeWrite {d : RegDef} {i : Nat} {p : Bool} {old v k : Nat} (h : (writeMask d i p).testBit k = true)
    (h' : (0xFFFFFFFF - writeMask d i p).testBit k = false) : bit (mergeWrite d i p old v) k = v.testBit k := by
  simp [bit, mergeWrite, h, h']

/-- A register of which the accessor can write nothing stays as it is (R319, R320). -/
theorem regWrite32_unwritable {s : State} {a : Acc} {off : Nat} {v : U32} {d : RegDef} {i j : Nat} (h : Reaches s a off)
    (h4 : inBootWindow off = false ∧ off % 4 = 0) (hf : findReg off = some (d, i, j)) (hb : d.base ≠ Reg.MBX_SEL)
    (hu : unitFor s d i = none) (hm : writeMask d i (privileged s a) = 0) : regWrite32 s a off v = s := by
  obtain ⟨h2, _, ha, hp⟩ := h
  simp [regWrite32, regWrite, h2, h4, sizeOk, writeWord, ha, hp, hf, hb, touchUnit, hu, hm]

/-- A write that breaks a rule of its register is refused and changes nothing but the fault's record (R327). -/
theorem regWrite32_refused {s : State} {a : Acc} {off : Nat} {v : U32} {d : RegDef} {i j : Nat} {e : RafCause} (h : Reaches s a off)
    (h4 : inBootWindow off = false ∧ off % 4 = 0) (hf : findReg off = some (d, i, j)) (hb : d.base ≠ Reg.MBX_SEL)
    (hu : unitFor s d i = none) (hm : writeMask d i (privileged s a) ≠ 0)
    (hx : fieldFault s a 0 d i j (oldValue s d off i) (mergeWrite d i (privileged s a) (oldValue s d off i) v.toNat) = some e) :
    regWrite32 s a off v = s.raf a e true off 4 := by
  obtain ⟨h2, _, ha, hp⟩ := h
  have e0 : storeOff 0 off = off := by simp [storeOff]
  unfold oldValue mergeWrite at hx
  simp [regWrite32, regWrite, h2, h4, sizeOk, writeWord, ha, hp, hf, hb, touchUnit, hu, hm, e0, hx]

/-! ## RELEASE rows (R325) -/

/-- A row with the one field RELEASE. -/
def releaseRow (name : String) (off : Nat) (pv : Bool) : RegDef := ⟨name, off, 1, 0, 1, 0, [⟨"RELEASE", 0, 0, .wo, pv, 0⟩]⟩

theorem releaseRow_mask (name : String) (off i : Nat) (pv p : Bool) :
    writeMask (releaseRow name off pv) i p = if pv && !p then 0 else 1 := by
  cases pv <;> cases p <;> simp [writeMask, releaseRow, pvField, Fld.mask]

/-- A register after some were emptied. -/
theorem reg_foldl_setReg (caps : List Nat) (s : State) (o : Nat) :
    (caps.foldl (fun s o => s.setReg o 0) s).reg o = if o ∈ caps then 0 else s.reg o := by
  induction caps generalizing s with
  | nil => simp
  | cons c cs ih =>
    rw [List.foldl_cons, ih]
    by_cases h : o = c
    · simp [h, State.reg_setReg]
    · simp [h, State.reg_setReg_ne _ _ _ _ h]

theorem reg_releaseCap (s : State) (caps : List Nat) (v o : Nat) :
    (releaseCap s caps v).reg o = if o ∈ caps ∧ bit v 0 = true then 0 else s.reg o := by
  unfold releaseCap
  by_cases h : bit v 0 = true <;> simp [h, reg_foldl_setReg]

/-- Capture registers: no configuration of region SYS, and none of the counters that move a lane. -/
abbrev IsCapture (o : Nat) : Prop := (0x200000 ≤ o ∨ configMask o = 0) ∧ ∀ l, l < 11 → 0xC00014 + 0x100 * l ≠ o

/-- Emptying capture registers moves no link and writes registers only. -/
theorem foldl_setReg_frame {caps : List Nat} (hc : ∀ o ∈ caps, IsCapture o) (s : State) :
    Frame [.regs] s (caps.foldl (fun s o => s.setReg o 0) s) ∧ Still s (caps.foldl (fun s o => s.setReg o 0) s) := by
  induction caps generalizing s with
  | nil => exact ⟨Frame.refl _ s, .refl s⟩
  | cons c cs ih =>
    obtain ⟨hcfg, hlane⟩ := hc c List.mem_cons_self
    obtain ⟨h1, h2⟩ := ih (fun o ho => hc o (List.mem_cons_of_mem _ ho)) (s.setReg c 0)
    exact ⟨(frame_State_setReg (List.Subset.refl _) (Frame.refl _ s) hcfg).trans h1, ((Still.refl s).setReg hlane).trans h2⟩

theorem releaseCap_frame {caps : List Nat} (hc : ∀ o ∈ caps, IsCapture o) (s : State) (v : Nat) :
    Frame [.regs] s (releaseCap s caps v) ∧ Still s (releaseCap s caps v) := by
  unfold releaseCap
  split
  · exact foldl_setReg_frame hc s
  · exact ⟨Frame.refl _ s, .refl s⟩

/-- A RELEASE row of the register map: where it lies, that it needs no unit, that no rule forbids a write of it, and the capture registers
that it frees. -/
structure Releases (name : String) (off : Nat) (pv : Bool) (caps : List Nat) : Prop where
  place  : inBootWindow off = false ∧ off % 4 = 0 ∧ off ≠ Reg.MBX_SEL
  found  : findReg off = some (releaseRow name off pv, 0, 0)
  unit   : ∀ s, unitFor s (releaseRow name off pv) 0 = none
  rules  : ∀ s a old new, fieldFault s a 0 (releaseRow name off pv) 0 0 old new = none
  effect : ∀ s a old new, writeEffect s a off (releaseRow name off pv) 0 0 old new = some (releaseCap s caps new)
  caps   : ∀ o ∈ caps, IsCapture o

/-- A write of a RELEASE row that no rule forbids frees its capture. -/
theorem Releases.frees {name : String} {off : Nat} {pv : Bool} {caps : List Nat} (r : Releases name off pv caps) {s : State} {a : Acc}
    (v : U32) (h : Reaches s a off) (hp : pv = true → privileged s a = true) : Freed s (rowWrite s a off v) caps v := by
  obtain ⟨hboot, halign, hmbx⟩ := r.place
  have hm : writeMask (releaseRow name off pv) 0 (privileged s a) = 1 := by
    rw [releaseRow_mask]
    cases pv
    · rfl
    · simp [hp rfl]
  obtain ⟨u, hu1, hu2, e⟩ := rowWrite_effect h ⟨hboot, halign⟩ r.found hmbx (r.unit s) (by rw [hm]; decide) (r.rules s a _ _)
    (fun u => r.effect u a _ _) (fun u => (releaseCap_frame r.caps u _).2) (fun u => (releaseCap_frame r.caps u _).1) (by decide)
  rw [e]
  refine ⟨fun o => ?_, (hu1.mono (by decide)).trans ((releaseCap_frame r.caps u _).1.mono (by decide))⟩
  rw [reg_releaseCap, bit_mergeWrite (by rw [hm]; rfl) (by rw [hm]; rfl), hu2.reg id]
  rfl

/-! ## The RELEASE rows of the map -/

theorem releases_fumSelftest : Releases "FUM_SELFTEST_RELEASE" Reg.FUM_SELFTEST_RELEASE false
    [Reg.FUM_SELFTEST_CAP0, Reg.FUM_SELFTEST_CAP1, Reg.FUM_SELFTEST_CAP2] :=
  ⟨by decide, by rfl, fun _ => by rfl, fun _ _ _ _ => by rfl, fun _ _ _ _ => by rfl, by decide⟩

theorem releases_fabGwFail : Releases "FAB_GW_FAIL_RELEASE" Reg.FAB_GW_FAIL_RELEASE false [Reg.FAB_GW_FAIL_CAP, Reg.FAB_GW_FAIL_ADDR] :=
  ⟨by decide, by rfl, fun _ => by rfl, fun _ _ _ _ => by rfl, fun _ _ _ _ => by rfl, by decide⟩

theorem releases_strDecFault : Releases "STR_DEC_FAULT_RELEASE" Reg.STR_DEC_FAULT_RELEASE false
    [Reg.STR_DEC_FAULT_CAP0, Reg.STR_DEC_FAULT_CAP1] :=
  ⟨by decide, by rfl, fun _ => by rfl, fun _ _ _ _ => by rfl, fun _ _ _ _ => by rfl, by decide⟩

theorem releases_cmpFault : Releases "CMP_FAULT_RELEASE" Reg.CMP_FAULT_RELEASE false [Reg.CMP_FAULT_CAP0, Reg.CMP_FAULT_CAP1] :=
  ⟨by decide, by rfl, fun _ => by rfl, fun _ _ _ _ => by rfl, fun _ _ _ _ => by rfl, by decide⟩

theorem releases_sysRaf : Releases "SYS_RAF_RELEASE" Reg.SYS_RAF_RELEASE false [Reg.SYS_RAF_CAP0, Reg.SYS_RAF_CAP1] :=
  ⟨by decide, by rfl, fun _ => by rfl, fun _ _ _ _ => by rfl, fun _ _ _ _ => by rfl, by decide⟩

theorem releases_sysMpu : Releases "SYS_MPU_RELEASE" Reg.SYS_MPU_RELEASE true [Reg.SYS_MPU_CAP0, Reg.SYS_MPU_CAP1] :=
  ⟨by decide, by rfl, fun _ => by rfl, fun _ _ _ _ => by rfl, fun _ _ _ _ => by rfl, by decide⟩

/-- Without privilege nothing of SYS_MPU_RELEASE can be written (R320). -/
theorem sysMpuRelease_unprivileged {s : State} {a : Acc} (v : U32) (h : Reaches s a Reg.SYS_MPU_RELEASE) (hp : privileged s a = false) :
    rowWrite s a Reg.SYS_MPU_RELEASE v = s :=
  rowWrite_still (regWrite32_unwritable h (by decide) releases_sysMpu.found (by decide) (by rfl) (by rw [releaseRow_mask, hp]; rfl))
    (.refl s) rfl h.2.1

/-! ## SYS_MPU_CTRL (R335, R337) -/

/-- The row of SYS_MPU_CTRL. -/
def mpuCtrlRow : RegDef :=
  ⟨"SYS_MPU_CTRL", Reg.SYS_MPU_CTRL, 64, 0x20, 1, 0, [pvf "LOCK" 2 2 .w1 0, pvf "ENABLE" 1 1 .rw 0, fld "SHADOW_DIFFERS" 0 0 .rs 0]⟩

theorem findReg_mpuCtrl (r : Fin 64) : findReg (Reg.SYS_MPU_CTRL + 0x20 * r.val) = some (mpuCtrlRow, r.val, 0) := by
  revert r
  decide

theorem mpuCtrlRow_mask (i : Nat) (p : Bool) : writeMask mpuCtrlRow i p = if p then 6 else 0 := by
  cases p <;> simp [writeMask, mpuCtrlRow, pvField, Fld.mask, pvf, fld]

theorem mpuCtrl_lt (r : Fin 64) : Reg.SYS_MPU_CTRL + 0x20 * r.val < 0x400000 := by
  simp only [Reg.SYS_MPU_CTRL]
  omega

theorem mpuCtrl_off (r : Fin 64) :
    inBootWindow (Reg.SYS_MPU_CTRL + 0x20 * r.val) = false ∧ (Reg.SYS_MPU_CTRL + 0x20 * r.val) % 4 = 0 := by
  revert r
  decide

/-- A write to a locked region's row is refused (R337). -/
theorem fieldFault_mpuCtrl_locked {s : State} {r : Nat} (a : Acc) (old new : Nat) (hl : (s.region r).lock = true) :
    fieldFault s a 0 mpuCtrlRow r 0 old new = some .locked := by
  have hb : (decide (Reg.SYS_MPU_BASE ≤ mpuCtrlRow.base) && decide (mpuCtrlRow.base ≤ Reg.SYS_MPU_CTRL)) = true := by decide
  simp [fieldFault, hb, hl]

/-- While LOCK is 0 no write breaks it. -/
theorem writeOnceBroken_mpuCtrl {r old new : Nat} {p : Bool} (h : old < 4) : writeOnceBroken mpuCtrlRow r old new p = false := by
  have : bits old 2 2 = 0 := by simp [bits]; omega
  simp [writeOnceBroken, mpuCtrlRow, pvf, fld, Fld.of, this]

/-- The old value of an unlocked region's row has LOCK 0. -/
theorem oldValue_mpuCtrl {s : State} {r off : Nat} (h : (s.region r).lock = false) : oldValue s mpuCtrlRow off r < 4 := by
  have hb : ∀ b : Bool, b2n b ≤ 1 := fun b => by cases b <;> decide
  have h1 := hb (s.region r).en
  have h2 := hb (!(shadowRegion s r (s.region r).en (s.region r).lock == s.region r))
  have h3 : viewMpu s r = 4 * b2n (s.region r).lock + 2 * b2n (s.region r).en
    + b2n (!(shadowRegion s r (s.region r).en (s.region r).lock == s.region r)) := rfl
  have h4 : b2n (s.region r).lock = 0 := by rw [h]; rfl
  simp only [oldValue, mpuCtrlRow, if_true]
  omega

/-- A load of an unlocked region that R335 and R337 allow breaks no rule. -/
theorem fieldFault_mpuCtrl_open {s : State} {a : Acc} {r old new : Nat} (hl : (s.region r).lock = false) (ho : old < 4)
    (hb : mpuLoadBad s r new = false) : fieldFault s a 0 mpuCtrlRow r 0 old new = none := by
  have h1 : stoppedBroken s 0 mpuCtrlRow.base r 0 old new = false := by rfl
  have h2 : valueBadA mpuCtrlRow.base old new = false := by rfl
  have h3 : valueBadB s a mpuCtrlRow.base r 0 new = false := by rfl
  have h4 : mpuCtrlRow.base ≠ Reg.FUM_COLOUR ∧ mpuCtrlRow.base ≠ Reg.SYS_BOOT_CHUNK ∧ mpuCtrlRow.base ≠ Reg.OUT_DP_CTRL := by decide
  simp [fieldFault, hl, hb, h1, h2, h3, h4, writeOnceBroken_mpuCtrl ho]

/-- A load's refusal rests on ENABLE and LOCK of the value alone. -/
theorem mpuLoadBad_congr {s : State} {r x y : Nat} (h1 : bit x 1 = bit y 1) (h2 : bit x 2 = bit y 2) :
    mpuLoadBad s r x = mpuLoadBad s r y := by
  unfold mpuLoadBad
  rw [h1, h2]

/-- The region that an unlocked region becomes, and the others. -/
theorem region_mpuLoad {s : State} {r : Nat} (h : (s.region r).lock = false) (v k : Nat) :
    (mpuLoad s r v).region k = if k = r then shadowRegion s r (bit v 1) (bit v 2) else s.region k := by
  have h' : (s.sys.mpu.getD r MpuRegion.init).lock = false := h
  simp [mpuLoad, h', State.region]

theorem mpuLoad_still (s : State) (r v : Nat) : Still s (mpuLoad s r v) := by
  unfold mpuLoad
  split
  · exact .refl s
  · exact (Still.refl s).upd

/-- The regions of the MPU, where they stay. -/
theorem region_of_mpu {s t : State} (h : t.sys.mpu = s.sys.mpu) (k : Nat) : t.region k = s.region k := by
  simp only [State.region, h]

/-- R335: an admitted load puts the shadows, ENABLE and LOCK into the region as one change. -/
theorem sysMpuCtrl_loads {s : State} {a : Acc} {r : Fin 64} {v : U32} (h : Reaches s a (Reg.SYS_MPU_CTRL + 0x20 * r.val))
    (hp : privileged s a = true) (hl : (s.region r.val).lock = false) (hb : mpuLoadBad s r.val v.toNat = false) :
    ∀ k, (rowWrite s a (Reg.SYS_MPU_CTRL + 0x20 * r.val) v).region k =
      if k = r.val then shadowRegion s r.val (v.getLsbD 1) (v.getLsbD 2) else s.region k := by
  have hm : writeMask mpuCtrlRow r.val (privileged s a) = 6 := by rw [mpuCtrlRow_mask, hp]; rfl
  have h1 : ∀ old, bit (mergeWrite mpuCtrlRow r.val (privileged s a) old v.toNat) 1 = v.getLsbD 1 :=
    fun _ => bit_mergeWrite (by rw [hm]; rfl) (by rw [hm]; rfl)
  have h2 : ∀ old, bit (mergeWrite mpuCtrlRow r.val (privileged s a) old v.toNat) 2 = v.getLsbD 2 :=
    fun _ => bit_mergeWrite (by rw [hm]; rfl) (by rw [hm]; rfl)
  obtain ⟨u, hu1, hu2, e⟩ := rowWrite_effect (v := v) (j := 0) h (mpuCtrl_off r) (findReg_mpuCtrl r) (by decide) (by rfl)
    (by rw [hm]; decide)
    (fieldFault_mpuCtrl_open hl (oldValue_mpuCtrl hl) ((mpuLoadBad_congr (h1 _) (h2 _)).trans hb))
    (fun u => by rw [writeEffect, if_pos (mpuCtrl_lt r)]; rfl)
    (fun u => mpuLoad_still u _ _) (fun u => frame_mpuLoad (List.Subset.refl _) (Frame.refl _ u)) (by decide)
  have hmpu : u.sys.mpu = s.sys.mpu := hu1.keep .mpu (by decide)
  have hsh : ∀ en lock, shadowRegion u r.val en lock = shadowRegion s r.val en lock := fun en lock => by
    simp only [shadowRegion, mpuShadow, hu2.reg id]
  intro k
  rw [e, region_mpuLoad (by rw [region_of_mpu hmpu]; exact hl), h1, h2, hsh, region_of_mpu hmpu]

/-- A write that its register's rules refuse, with the links and the wake around it. -/
theorem rowWrite_refused {s : State} {a : Acc} {off : Nat} {v : U32} {c : RafCause} (h : s.sys.mode ≠ .dormant)
    (e : regWrite32 s a off v = s.raf a c true off 4) : rowWrite s a off v = s.raf a c true off 4 := by
  have hf := frame_State_raf (v1 := a) (v2 := c) (v3 := true) (v4 := off) (v5 := 4) (List.Subset.refl _) (Frame.refl _ s)
  have hmode : (s.raf a c true off 4).sys.mode = s.sys.mode := (hf.keep .mode (by decide)).1
  exact rowWrite_still e (calm_State_raf (.refl s)).still (hf.keep .ready (by decide)) (by rw [hmode]; exact h)

/-- R337: a locked region does not change, and with it no other. -/
theorem sysMpuCtrl_locked {s : State} {a : Acc} {r : Fin 64} {v : U32} (h : Reaches s a (Reg.SYS_MPU_CTRL + 0x20 * r.val))
    (hl : (s.region r.val).lock = true) : (rowWrite s a (Reg.SYS_MPU_CTRL + 0x20 * r.val) v).sys.mpu = s.sys.mpu := by
  by_cases hm : writeMask mpuCtrlRow r.val (privileged s a) = 0
  · rw [rowWrite_still (regWrite32_unwritable h (mpuCtrl_off r) (findReg_mpuCtrl r) (by decide) (by rfl) hm) (.refl s) rfl h.2.1]
  · rw [rowWrite_refused h.2.1 (regWrite32_refused h (mpuCtrl_off r) (findReg_mpuCtrl r) (by decide) (by rfl) hm
      (fieldFault_mpuCtrl_locked a _ _ hl))]
    exact (frame_State_raf (List.Subset.refl _) (Frame.refl _ s)).keep .mpu (by decide)

/-! ## SYS_DEBUG_CTRL (R339, R341) -/

/-- The row of SYS_DEBUG_CTRL. -/
def debugRow : RegDef := ⟨"SYS_DEBUG_CTRL", Reg.SYS_DEBUG_CTRL, 1, 0, 1, 0, [pvf "DAP_EN" 0 0 .rw 0]⟩

theorem debugRow_mask (i : Nat) : writeMask debugRow i true = 1 := by
  simp [writeMask, debugRow, pvField, Fld.mask, pvf]

/-- An event leaves SYS_DEBUG_CTRL alone. -/
theorem raise_debugCtrl (s : State) (code : Nat) (d : List Byte) : (s.raise code d).reg Reg.SYS_DEBUG_CTRL = s.reg Reg.SYS_DEBUG_CTRL :=
  (calm_State_raise counted (.refl s)).reg (by
    intro h
    rcases h.num with h | ⟨n, h⟩ | ⟨n, h | h | h | h | ⟨w, f, h⟩⟩
    · exact absurd h (by decide)
    all_goals simp only [Reg.SYS_DEBUG_CTRL] at h; omega)

/-- Outside PRODUCTION a write of DAP_EN has no effect. -/
theorem debugCtrl_development {s : State} (h : s.otp.lifecycle ≠ 1) (v : Nat) : debugCtrl s v = s := by
  simp [debugCtrl, h]

/-- In PRODUCTION a write that changes DAP_EN sets it and raises SYS_DEBUG. -/
theorem debugCtrl_changes {s : State} (h : s.otp.lifecycle = 1) {v : Nat} (hv : bit v 0 ≠ bit (s.reg Reg.SYS_DEBUG_CTRL) 0) :
    debugCtrl s v = (s.setReg Reg.SYS_DEBUG_CTRL (v % 2)).raise 0x0113 [BitVec.ofNat 8 (v % 2), BitVec.ofNat 8 1] := by
  simp [debugCtrl, h, hv, leBytes]

/-- In PRODUCTION a write sets DAP_EN. -/
theorem debugCtrl_production {s : State} (h : s.otp.lifecycle = 1) (v : Nat) : bit ((debugCtrl s v).reg Reg.SYS_DEBUG_CTRL) 0 = bit v 0 := by
  by_cases hv : bit v 0 = bit (s.reg Reg.SYS_DEBUG_CTRL) 0
  · have : debugCtrl s v = s := by simp [debugCtrl, hv]
    rw [this, hv]
  · rw [debugCtrl_changes h hv, raise_debugCtrl, State.reg_setReg _ _ _ _ rfl]
    simp only [bit, Nat.testBit_zero]
    congr 1
    apply propext
    omega

theorem debugCtrl_still (s : State) (v : Nat) : Still s (debugCtrl s v) := by
  unfold debugCtrl
  extract_lets was
  split
  · exact .refl s
  · exact ((Still.refl s).setReg (by decide)).trans (Calm.still (calm_State_raise counted (.refl _)))

/-- R339, R341: what a privileged write of DAP_EN does. -/
theorem dapEn_acts {s : State} {a : Acc} (v : U32) (h : Reaches s a Reg.SYS_DEBUG_CTRL) (hp : privileged s a = true) :
    let t := rowWrite s a Reg.SYS_DEBUG_CTRL v
    (s.otp.lifecycle = 1 → bit (t.reg Reg.SYS_DEBUG_CTRL) 0 = v.getLsbD 0)
      ∧ (s.otp.lifecycle = 1 → bit (s.reg Reg.SYS_DEBUG_CTRL) 0 ≠ v.getLsbD 0 →
          Raised s t 0x0113 [BitVec.ofNat 8 (v.toNat % 2), BitVec.ofNat 8 1])
      ∧ (s.otp.lifecycle ≠ 1 → t.reg Reg.SYS_DEBUG_CTRL = s.reg Reg.SYS_DEBUG_CTRL) := by
  have hm : writeMask debugRow 0 (privileged s a) = 1 := by rw [hp, debugRow_mask]
  have h0 : ∀ old, bit (mergeWrite debugRow 0 (privileged s a) old v.toNat) 0 = v.getLsbD 0 :=
    fun _ => bit_mergeWrite (by rw [hm]; rfl) (by rw [hm]; rfl)
  obtain ⟨u, hu1, hu2, e⟩ := rowWrite_effect (v := v) (d := debugRow) (i := 0) (j := 0) h (by decide) (by rfl) (by decide) (by rfl)
    (by rw [hm]; decide) (by rfl) (fun u => by rfl) (fun u => debugCtrl_still u _)
    (fun u => frame_debugCtrl (List.Subset.refl _) (Frame.refl _ u)) (by decide)
  have hotp : u.otp = s.otp := hu1.keep .otp (by decide)
  have hout : u.out = s.out := hu1.keep .out (by decide)
  have hreg : u.reg Reg.SYS_DEBUG_CTRL = s.reg Reg.SYS_DEBUG_CTRL := hu2.reg id
  intro t
  simp only [t, e]
  refine ⟨fun hl => ?_, fun hl hv => ?_, fun hl => ?_⟩
  · rw [debugCtrl_production (by rw [hotp]; exact hl), h0]
  · rw [debugCtrl_changes (by rw [hotp]; exact hl) (by rw [h0, hreg]; exact hv.symm)]
    have hn : ∀ old, mergeWrite debugRow 0 (privileged s a) old v.toNat % 2 = v.toNat % 2 := fun old => by
      have := h0 old
      simp only [bit, BitVec.getLsbD, Nat.testBit_zero, decide_eq_decide] at this
      omega
    rw [hn]
    exact raised_raise _ _ (by rw [State.setReg_out, hout])
  · rw [debugCtrl_development (by rw [hotp]; exact hl), hreg]

/-- Settles O44: a write that reaches one of these rows is the row's own effect after new parity, or is refused. -/
theorem releaseRowsAndProtectionRowsAct : Obligations.ReleaseRowsAndProtectionRowsAct := by
  unfold Obligations.ReleaseRowsAndProtectionRowsAct
  refine ⟨fun s a v => ⟨fun h => ⟨_, rfl, releases_fumSelftest.frees v h nofun⟩, fun h => ⟨_, rfl, releases_fabGwFail.frees v h nofun⟩,
      fun h => ⟨_, rfl, releases_strDecFault.frees v h nofun⟩, fun h => ⟨_, rfl, releases_cmpFault.frees v h nofun⟩,
      fun h => ⟨_, rfl, releases_sysRaf.frees v h nofun⟩, fun h hp => ⟨_, rfl, releases_sysMpu.frees v h fun _ => hp⟩,
      fun h hp => congrArg Host.Outcome.next (sysMpuRelease_unprivileged v h hp)⟩,
    fun s a r v => ⟨fun h hp hl hb => ⟨_, rfl, ?_, fun k hk => ?_⟩, fun h hl => ⟨_, rfl, region_of_mpu (sysMpuCtrl_locked h hl)⟩⟩,
    fun s a v h hp => ⟨_, rfl, dapEn_acts v h hp⟩⟩
  · exact (sysMpuCtrl_loads h hp hl hb _).trans (if_pos rfl)
  · exact (sysMpuCtrl_loads h hp hl hb k).trans (if_neg hk)

end Sys2Proof.Machine

/-! SUPPORT. What an event leaves of the time base: the exchanges measured on the links, and on a device that has its host bytes the links. -/

namespace Sys2Proof.Machine

/-! ## The raising of an event (R284, R404) -/

/-- An event that is counted and told, its record not yet sent. -/
def noted (s : State) (code : Nat) (data : List Byte) : State := { s with evSeq := (s.evSeq + 1) % 65536 }.emit (.event code data)

/-- Behind the count of an event its record is held for the resume, or sent. -/
theorem raiseN_cases (n : Nat) (s : State) (code : Nat) (data : List Byte) :
    (∃ d, raiseN (n + 1) s code data = { noted s code data with sys.dorm := some d })
      ∨ ∃ seq evr, raiseN (n + 1) s code data = sendRecord (raiseN n) (noted s code data) seq evr := by
  rw [raiseN]
  cases h : s.sys.dorm with
  | none => exact .inr ⟨s.evSeq, eventRecord s code data, by simp [h, noted]⟩
  | some d =>
    by_cases hp : d.posted = true
    · exact .inl ⟨{ d with events := d.events ++ [eventRecord s code data] }, by simp [h, hp, noted]⟩
    · exact .inr ⟨s.evSeq, eventRecord s code data, by simp [h, hp, noted]⟩

/-! ## The exchanges of the links (R49, R50)

An event of a claimed device leaves over the fabric, and the packets that start behind it may hold SYNCs: each begins an exchange. -/

/-- The record of a link holds the same measurement, and its exchanges under way are those of before and perhaps new ones behind them. -/
structure TimeLink.Extends (a b : TimeLink) : Prop where
  have_ : b.have_ = a.have_
  d     : b.d = a.d
  theta : b.theta = a.theta
  hops  : b.hops = a.hops
  open_ : a.open_ <+: b.open_

theorem TimeLink.Extends.refl (a : TimeLink) : a.Extends a := ⟨rfl, rfl, rfl, rfl, ⟨[], List.append_nil _⟩⟩

theorem TimeLink.Extends.trans {a b c : TimeLink} (h : a.Extends b) (k : b.Extends c) : a.Extends c :=
  ⟨k.have_.trans h.have_, k.d.trans h.d, k.theta.trans h.theta, k.hops.trans h.hops, h.open_.trans k.open_⟩

/-- Every link keeps its measurement and its exchanges under way. -/
def ExchKept (s t : State) : Prop := ∀ k, (s.tlink k).Extends (t.tlink k)

theorem ExchKept.refl (s : State) : ExchKept s s := fun _ => .refl _

theorem ExchKept.trans {s t u : State} (h : ExchKept s t) (k : ExchKept t u) : ExchKept s u := fun l => (h l).trans (k l)

/-- Operations that leave the links' time records alone. -/
theorem ExchKept.of_links {s t : State} (h : t.time.links = s.time.links) : ExchKept s t := fun k => by
  simp only [State.tlink, h]
  exact .refl _

theorem ExchKept.of_frame {m : List Part} {s t : State} (h : Frame m s t) (hm : Part.exch ∉ m) : ExchKept s t :=
  .of_links (h.keep .exch hm)

theorem ExchKept.foldl {α : Type} {f : State → α → State} (h : ∀ u a, ExchKept u (f u a)) (xs : List α) (s : State) :
    ExchKept s (xs.foldl f s) := by
  induction xs generalizing s with
  | nil => exact .refl s
  | cons x xs ih => exact (h s x).trans (ih _)

theorem ExchKept.ite {s a b : State} {c : Prop} [Decidable c] (ha : ExchKept s a) (hb : ExchKept s b) : ExchKept s (if c then a else b) := by
  split <;> assumption

/-- A record that extends the one of its link takes its place. -/
theorem exchKept_setTlink {s : State} {l : Nat} {r : TimeLink} (h : (s.tlink l).Extends r) : ExchKept s (s.setTlink l r) := fun k => by
  by_cases hk : k = l
  · subst hk
    rw [State.tlink_setTlink]
    exact h
  · rw [State.tlink_setTlink_ne _ _ _ _ hk]
    exact .refl _

/-- A packet that starts begins an exchange where it is a SYNC. -/
theorem exchKept_departs (s : State) (l : Nat) (p : Packet) : ExchKept s (departs s l p) := by
  unfold departs
  split
  · exact .refl s
  · extract_lets -merge -underBinder +onlyGivenNames u
    split
    · exact .of_links rfl
    · exact (ExchKept.of_links (t := u) rfl).trans (exchKept_setTlink ⟨rfl, rfl, rfl, rfl, ⟨_, rfl⟩⟩)

theorem exchKept_sendOn (s : State) (l : Nat) (p : Packet) (crc : U32) : ExchKept s (sendOn s l p crc) := .of_links rfl

section
/- The packet operations are given how they raise events: a way of raising that keeps the exchanges makes them keep the exchanges too. -/
variable {rz : State → Nat → List Byte → State} (hr : ∀ u code data, ExchKept u (rz u code data))
include hr

theorem exchKept_tephraCount (s : State) (l : Nat) : ExchKept s (tephraCount rz s l) := by
  unfold tephraCount
  extract_lets -merge -underBinder +onlyGivenNames r x t v
  split
  · extract_lets -merge -underBinder +onlyGivenNames act x w
    exact (ExchKept.of_links (t := w) rfl).trans (hr _ _ _)
  · exact .of_links rfl

theorem exchKept_startNext (n : Nat) (s : State) (l : Nat) : ExchKept s (startNext rz n s l) := by
  induction n generalizing s with
  | zero => exact .refl s
  | succ n ih =>
    have sends : ∀ (u : State) (p q : Packet) (crc : U32), u.time.links = s.time.links → ExchKept s (sendOn (departs u l p) l q crc) :=
      fun u p q crc e => (ExchKept.of_links e).trans ((exchKept_departs u l p).trans (exchKept_sendOn _ _ _ _))
    have faults : ∀ (u : State) (p q : Packet) (crc : U32), u.time.links = s.time.links →
        ExchKept s (tephraCount rz (sendOn (departs u l p) l q crc) l) :=
      fun u p q crc e => (sends u p q crc e).trans (exchKept_tephraCount hr _ _)
    have again : ∀ u : State, u.time.links = s.time.links → ExchKept s (startNext rz n (tephraCount rz u l) l) :=
      fun u e => (ExchKept.of_links e).trans ((exchKept_tephraCount hr u l).trans (ih _))
    rw [startNext]
    refine .ite (.refl s) ?_
    split
    · exact sends _ _ _ _ (by rfl)
    split
    · exact .refl s
    extract_lets -merge -underBinder +onlyGivenNames r
    split
    refine .ite ?_ (sends _ _ _ _ (by rfl))
    split
    · exact again _ (by rfl)
    · exact .ite (faults _ _ _ _ (by rfl)) (faults _ _ _ _ (by rfl))
    · exact again _ (by rfl)
    · exact .of_links rfl

theorem exchKept_fabDrop (s : State) (reason cls count : Nat) : ExchKept s (fabDrop rz s reason cls count) := by
  unfold fabDrop
  extract_lets -merge -underBinder +onlyGivenNames key
  split
  · exact (ExchKept.of_links (t := s.rateMark key) rfl).trans (hr _ _ _)
  · exact .refl s

/-- A drop, counted and told. -/
theorem exchKept_drop (s : State) (off reason cls count : Nat) : ExchKept s (fabDrop rz (s.bump off) reason cls count) :=
  (ExchKept.of_links (t := s.bump off) rfl).trans (exchKept_fabDrop hr _ _ _ _)

theorem exchKept_enqueue (s : State) (l : Nat) (p : Packet) : ExchKept s (enqueue rz s l p) := by
  unfold enqueue
  extract_lets -merge -underBinder +onlyGivenNames r used
  split
  · exact (ExchKept.of_links (s := s) rfl).trans (exchKept_startNext hr _ (s.setLink l { r with queue := r.queue ++ [p] }) l)
  · exact exchKept_drop hr _ _ _ _ _

theorem exchKept_noRoute (s : State) (p : Packet) : ExchKept s (noRoute rz s p) := exchKept_drop hr _ _ _ _ _

theorem exchKept_deliverAlias (s : State) (p : Packet) : ExchKept s (deliverAlias rz s p) := by
  unfold deliverAlias
  split
  · split <;> exact .of_links rfl
  · exact exchKept_noRoute hr s p

theorem exchKept_passOn (s : State) (src : Option Nat) (l : Nat) (p : Packet) : ExchKept s (passOn rz s src l p) := by
  unfold passOn
  extract_lets -merge -underBinder +onlyGivenNames idle u
  have h : ExchKept s u := exchKept_enqueue hr s l p
  split
  · exact h.trans (.of_links rfl)
  · exact h

theorem exchKept_routeDirected (s : State) (src : Option Nat) (p : Packet) : ExchKept s (routeDirected rz s src p) := by
  unfold routeDirected
  extract_lets -merge -underBinder +onlyGivenNames n k
  split
  · extract_lets -merge -underBinder +onlyGivenNames e
    split
    · exact exchKept_passOn hr _ _ _ _
    · exact exchKept_noRoute hr _ _
  · exact .of_links rfl

theorem exchKept_forward (s : State) (src : Option Nat) (l : Nat) (p : Packet) : ExchKept s (forward rz s src l p) := by
  unfold forward
  split
  · exact exchKept_passOn hr _ _ _ _
  · exact exchKept_drop hr _ _ _ _ _

theorem exchKept_routeWith (s : State) (src : Option Nat) (p : Packet) : ExchKept s (routeWith rz s src p) := by
  unfold routeWith
  split
  · exact exchKept_drop hr _ _ _ _ _
  extract_lets -merge -underBinder +onlyGivenNames q
  split
  · exact exchKept_noRoute hr _ _
  split
  · exact .of_links rfl
  split
  · split
    · exact exchKept_routeDirected hr _ _ _
    · split <;> exact .of_links rfl
  split
  · extract_lets -merge -underBinder +onlyGivenNames g u
    have h : ExchKept s u := ExchKept.foldl (fun v l => by
      split
      · exact exchKept_forward hr _ _ _ _
      · exact .refl v) _ s
    split
    · exact h.trans (.of_links rfl)
    · exact h
  split
  · exact exchKept_deliverAlias hr _ _
  split
  · exact .of_links rfl
  split
  · exact exchKept_noRoute hr _ _
  extract_lets -merge -underBinder +onlyGivenNames e
  split
  · exact .of_links rfl
  split
  · exact exchKept_forward hr _ _ _ _
  · exact exchKept_noRoute hr _ _

/-- A gateway writes its record into its rings, another device sends it over the fabric. -/
theorem exchKept_sendRecord (s : State) (seq : Nat) (evr : List Byte) : ExchKept s (sendRecord rz s seq evr) := by
  unfold sendRecord
  split
  · exact .of_frame (frame_evqDeliver (List.Subset.refl _) (Frame.refl _ s)) (by decide)
  split
  · exact exchKept_routeWith hr _ _ _
  · exact .refl s

end

theorem exchKept_raiseN (n : Nat) (s : State) (code : Nat) (data : List Byte) : ExchKept s (raiseN n s code data) := by
  induction n generalizing s code data with
  | zero => exact .of_links rfl
  | succ n ih =>
    have h : ExchKept s (noted s code data) := .of_links rfl
    obtain ⟨d, e⟩ | ⟨seq, evr, e⟩ := raiseN_cases n s code data <;> rw [e]
    · exact h.trans (.of_links rfl)
    · exact h.trans (exchKept_sendRecord ih _ _ _)

theorem exchKept_raise (s : State) (code : Nat) (data : List Byte) : ExchKept s (s.raise code data) := exchKept_raiseN 12 s code data

theorem exchKept_raiseLimited (s : State) (key period code : Nat) (data : List Byte) : ExchKept s (s.raiseLimited key period code data) := by
  unfold State.raiseLimited
  split
  · exact (ExchKept.of_links (t := s.rateMark key) rfl).trans (exchKept_raise _ _ _)
  · exact .refl s

/-- An exchange under way stays the one that its SEQ finds. -/
theorem ExchKept.find {s t : State} (h : ExchKept s t) {k : Nat} {f : Nat × U64 × Nat → Bool} {e : Nat × U64 × Nat}
    (hf : (s.tlink k).open_.find? f = some e) : (t.tlink k).open_.find? f = some e :=
  List.IsPrefix.find?_eq_some (h k).open_ hf

/-! ## Events of a device that has its host bytes (R285) -/

/-- What an event may change on a gateway and on a device without a domain: no packet carries it. -/
abbrev localEventParts : List Part := [.evSeq, .out, .dorm, .rings, .regs, .irq]

theorem frame_sendRecord_here {s : State} (h : BytesHere s) (rz : State → Nat → List Byte → State) (seq : Nat) (evr : List Byte) :
    Frame localEventParts s (sendRecord rz s seq evr) := by
  unfold sendRecord
  rcases h with h | h
  · rw [if_pos h]
    exact frame_evqDeliver (by decide) (Frame.refl _ s)
  · rw [h, if_neg Bool.false_ne_true]
    split
    · exact frame_evqDeliver (by decide) (Frame.refl _ s)
    · exact Frame.refl _ s

theorem frame_raise_here {s : State} (h : BytesHere s) (code : Nat) (data : List Byte) : Frame localEventParts s (s.raise code data) := by
  have hu : Frame localEventParts s (noted s code data) := .out (by decide) (.evSeq (by decide) (Frame.refl _ s))
  unfold State.raise
  obtain ⟨d, e⟩ | ⟨seq, evr, e⟩ := raiseN_cases 11 s code data <;> rw [e]
  · exact .dorm (by decide) hu
  · have hb : BytesHere (noted s code data) := h
    exact hu.trans (frame_sendRecord_here hb _ _ _)

theorem frame_raiseLimited_here {s : State} (h : BytesHere s) (key period code : Nat) (data : List Byte) :
    Frame (.rate :: localEventParts) s (s.raiseLimited key period code data) := by
  unfold State.raiseLimited
  split
  · have hb : BytesHere (s.rateMark key) := h
    exact (Frame.rate (by decide) (Frame.refl _ s)).trans ((frame_raise_here hb code data).mono (List.subset_cons_self _ _))
  · exact Frame.refl _ s

end Sys2Proof.Machine

/-! SUPPORT. TIME packets: the fields of their payload, and the start of a REPLY on an idle link. -/

namespace Sys2Proof.Machine

/-! ## Little-endian fields (R3) -/

/-- A number is what its low bytes spell. -/
theorem leNat_leBytes (n x : Nat) : leNat (leBytes n x) = x % 256 ^ n := by
  induction n generalizing x with
  | zero => simp [leBytes, leNat, Nat.mod_one]
  | succ n ih =>
    have h : x % 256 ^ (n + 1) = x % 256 + 256 * (x / 256 % 256 ^ n) := by rw [Nat.pow_succ', Nat.mod_mul]
    rw [leBytes, leNat, ih, BitVec.toNat_ofNat, h]

theorem leNat_lt (b : List Byte) : leNat b < 256 ^ b.length := by
  induction b with
  | nil => simp [leNat]
  | cons x b ih =>
    have := x.isLt
    rw [leNat, List.length_cons, Nat.pow_succ]
    omega

theorem slice_length (b : List Byte) (off n : Nat) : (slice b off n).length = n := by
  simp [slice]

/-- A field of n bytes is below 256 ^ n. -/
theorem fieldAt_lt (b : List Byte) (off n : Nat) : fieldAt b off n < 256 ^ n := by
  simpa [fieldAt, slice_length] using leNat_lt (slice b off n)

/-- The field that stands between a and b. -/
theorem fieldAt_middle {a b : List Byte} {off n : Nat} (x : Nat) (h : a.length = off) : fieldAt (a ++ (leBytes n x ++ b)) off n = x % 256 ^ n := by
  subst h
  simp [fieldAt, slice, leNat_leBytes]

/-! ## The payload of a TIME packet (R49) -/

@[simp] theorem timePayload_length (s : State) (type seq tx rx : Nat) : (timePayload s type seq tx rx).length = 32 := by simp [timePayload]

/-- TYPE, SEQ, T_TX and T_RX, and what stands between and behind them. -/
theorem timePayload_shape (s : State) (type seq : Nat) : ∃ a z, a.length = 5 ∧ ∀ tx rx,
    timePayload s type seq tx rx = leBytes 1 type ++ (a ++ (leBytes 2 seq ++ (leBytes 8 tx ++ (leBytes 8 rx ++ z)))) := by
  obtain ⟨h, e⟩ : ∃ h, ∀ tx rx, timePayload s type seq tx rx =
      leBytes 1 type ++ leBytes 1 h ++ leBytes 2 s.timeRoot ++ leBytes 1 s.time.st.code ++ leBytes 1 0 ++ leBytes 2 seq
        ++ leBytes 8 tx ++ leBytes 8 rx ++ leBytes 4 s.uncert ++ leBytes 4 0 := ⟨_, fun _ _ => rfl⟩
  exact ⟨leBytes 1 h ++ leBytes 2 s.timeRoot ++ leBytes 1 s.time.st.code ++ leBytes 1 0, leBytes 4 s.uncert ++ leBytes 4 0, by simp,
    fun tx rx => by simp only [e, List.append_assoc]⟩

/-- The departure time takes its place in the payload. -/
theorem timePayload_stamped (s : State) (type seq tx rx x : Nat) :
    (timePayload s type seq tx rx).take 8 ++ leBytes 8 x ++ (timePayload s type seq tx rx).drop 16 = timePayload s type seq x rx := by
  obtain ⟨a, z, ha, e⟩ := timePayload_shape s type seq
  have hl : (leBytes 1 type ++ (a ++ leBytes 2 seq)).length = 8 := by simp [ha]
  have e' : ∀ y, timePayload s type seq y rx = leBytes 1 type ++ (a ++ leBytes 2 seq) ++ (leBytes 8 y ++ (leBytes 8 rx ++ z)) := fun y => by
    simp only [e, List.append_assoc]
  rw [e', e', List.take_left' hl, ← List.append_assoc _ (leBytes 8 tx), List.drop_left' (by simp [ha])]
  simp only [List.append_assoc]

theorem timePayload_type (s : State) (type seq tx rx : Nat) : fieldAt (timePayload s type seq tx rx) 0 1 = type % 256 := by
  obtain ⟨a, z, ha, e⟩ := timePayload_shape s type seq
  rw [e]
  exact fieldAt_middle (a := []) type rfl

theorem timePayload_seq (s : State) (type seq tx rx : Nat) : fieldAt (timePayload s type seq tx rx) 6 2 = seq % 65536 := by
  obtain ⟨a, z, ha, e⟩ := timePayload_shape s type seq
  rw [e, ← List.append_assoc]
  exact fieldAt_middle seq (by simp [ha])

theorem timePayload_tx (s : State) (type seq tx rx : Nat) : fieldAt (timePayload s type seq tx rx) 8 8 = tx % 2 ^ 64 := by
  obtain ⟨a, z, ha, e⟩ := timePayload_shape s type seq
  rw [e, ← List.append_assoc, ← List.append_assoc]
  exact fieldAt_middle tx (by simp [ha])

theorem timePayload_rx (s : State) (type seq tx rx : Nat) : fieldAt (timePayload s type seq tx rx) 16 8 = rx % 2 ^ 64 := by
  obtain ⟨a, z, ha, e⟩ := timePayload_shape s type seq
  rw [e, ← List.append_assoc, ← List.append_assoc, ← List.append_assoc]
  exact fieldAt_middle rx (by simp [ha])

/-- The class of a packet is that of its header. -/
theorem mkPacket_cls (dest src cls flow seq flags dom : Nat) (data : List Byte) : (mkPacket dest src cls flow seq flags dom data).cls = cls % 8 := by
  simp only [mkPacket, Packet.cls, bits, BitVec.toNat_ofNat, Nat.shiftRight_eq_div_pow]
  omega

/-- A payload of whole words is sent as it is. -/
theorem mkPacket_data (dest src cls flow seq flags dom : Nat) {data : List Byte} (h : data.length % 4 = 0) :
    (mkPacket dest src cls flow seq flags dom data).data = data := by
  simp [mkPacket, pad4, h]

/-! ## A TIME packet on an idle link (R49, R114) -/

/-- A TIME packet that waits alone is the one of the highest priority. -/
theorem findSome_time {p : Packet} (hc : p.cls = clsTIME) {q : List Packet} (hq : q = [p]) :
    (List.range 7).findSome? (fun i => q.find? (fun x => clsPrio x.cls == i + 1)) = some p := by
  have hp : clsPrio p.cls = 2 := by rw [hc]; rfl
  simp [hq, List.range, List.range.loop, hp]

/-- T_TX is the time of the start. -/
@[simp] theorem timeStamped_departs (s : State) (l : Nat) (p q : Packet) : timeStamped (departs s l p) q = timeStamped s q := by
  have h : (departs s l p).ft = s.ft := (frame_departs (List.Subset.refl _) (Frame.refl _ s)).keep .ft (by decide)
  simp only [timeStamped, h]

/-- A TIME packet that waits alone on a link where nothing is being sent and Tephra holds and selects nothing is started. -/
theorem startNext_time (rz : State → Nat → List Byte → State) (n : Nat) {s : State} {l : Nat} {p : Packet} (hcur : (s.link l).cur = none)
    (hq : (s.link l).queue = [p]) (hheld : (s.link l).tephra.heldPkt = none) (hact : (s.link l).tephra.action = 0) (hc : p.cls = clsTIME) :
    ∃ u, u.link l = { s.link l with queue := [] } ∧ u.ft = s.ft ∧ u.out = s.out ∧
      startNext rz (n + 1) s l = sendOn (departs u l p) l (timeStamped u p) (crc32 (timeStamped u p).bytes) := by
  have hsel : tephraSelect (s.link l).tephra p = (false, (s.link l).tephra) := by simp [tephraSelect, hact]
  have hage : tephraAge (s.link l).tephra p = (s.link l).tephra := by simp [tephraAge, hheld]
  let r : LinkRec := { s.link l with queue := [] }
  refine ⟨(s.setLink l r).setLink l r, State.link_setLink _ _ _, rfl, rfl, ?_⟩
  have he : (s.link l).queue.erase p = [] := by simp [hq]
  simp only [startNext, hcur, Option.isSome_none, Bool.false_eq_true, if_false, hheld, findSome_time hc hq, hsel, he,
    State.link_setLink, hage, timeStamped_departs, r]

/-- A link on which nothing is being sent and nothing waits, and where Tephra holds and selects nothing. -/
structure LinkRec.Idle (r : LinkRec) : Prop where
  cur     : r.cur = none
  queue   : r.queue = []
  heldPkt : r.tephra.heldPkt = none
  action  : r.tephra.action = 0

/-- A TIME packet goes out at once on an idle link: its transmitter starts it in a state u that differs from s in the link table alone, and not
in the link's own entry. -/
theorem enqueue_time_idle (rz : State → Nat → List Byte → State) {s : State} {l : Nat} {p : Packet} (hi : (s.link l).Idle)
    (hc : p.cls = clsTIME) (hs : p.size ≤ 2048) :
    ∃ u, u.link l = s.link l ∧ u.ft = s.ft ∧ u.out = s.out ∧
      enqueue rz s l p = sendOn (departs u l p) l (timeStamped u p) (crc32 (timeStamped u p).bytes) := by
  obtain ⟨hcur, hq, hheld, hact⟩ := hi
  have hcap : p.size ≤ clsCap p.cls := by rw [hc]; exact hs
  let v := s.setLink l { s.link l with queue := [p] }
  have hv : v.link l = { s.link l with queue := [p] } := State.link_setLink _ _ _
  obtain ⟨u, hu, hft, hout, e⟩ := startNext_time (s := v) (l := l) (p := p) rz 1 (by rw [hv]; exact hcur) (by rw [hv])
    (by rw [hv]; exact hheld) (by rw [hv]; exact hact) hc
  refine ⟨u, by rw [hu, hv, ← hq], hft, hout, ?_⟩
  rw [← e]
  simp [enqueue, hq, hcap, v]

/-- A TIME packet that is no SYNC starts behind a K28.1 with its symbols, and no exchange begins. -/
theorem departs_reply {s : State} {l : Nat} {p : Packet} (hc : p.cls = clsTIME) (ht : fieldAt p.data 0 1 ≠ 0) :
    departs s l p = (s.emit (.symbol l "TSM")).emit (.lanes l [(.k "TSM", .k "TSM")]) := by
  simp [departs, hc, ht]

/-- What is sent on a link is the packet in progress. -/
theorem sendOn_cur (s : State) (l : Nat) (p : Packet) (crc : U32) : ((sendOn s l p crc).link l).cur = some p :=
  congrArg LinkRec.cur (State.link_setLink s l { s.link l with cur := some p, txPkts := (s.link l).txPkts + 1 })

/-- A REPLY handed to an idle link goes out at once, with the time of its start as T_TX. -/
theorem sendTime_reply {s : State} {l : Nat} (seq rx : Nat) (hi : (s.link l).Idle) :
    let t := sendTime s l (timePayload s 1 seq 0 rx)
    Out.symbol l "TSM" :: s.out <:+ t.out
      ∧ ∃ q, (t.link l).cur = some q ∧ q.cls = clsTIME ∧ q.data = timePayload s 1 seq s.ft.toNat rx := by
  unfold sendTime
  set p := mkPacket (s.link l).peerAddr s.addr clsTIME 0 0 0 s.domain (timePayload s 1 seq 0 rx)
  have hc : p.cls = clsTIME := mkPacket_cls _ _ _ _ _ _ _ _
  have hd : p.data = timePayload s 1 seq 0 rx := mkPacket_data _ _ _ _ _ _ _ (by simp)
  have hty : fieldAt p.data 0 1 ≠ 0 := by simp [hd, timePayload_type]
  obtain ⟨u, -, hft, hout, e⟩ := enqueue_time_idle State.raise hi hc (by simp [Packet.size, hd])
  have hq : (timeStamped u p).data = timePayload s 1 seq s.ft.toNat rx := by
    rw [timeStamped, if_pos hc, hft, hd]
    exact timePayload_stamped _ _ _ _ _ _
  have hqc : (timeStamped u p).cls = clsTIME := by
    unfold timeStamped
    split <;> exact hc
  rw [e, departs_reply hc hty]
  refine ⟨?_, timeStamped u p, sendOn_cur _ _ _ _, hqc, hq⟩
  rw [← hout]
  exact ⟨[_, _, _], rfl⟩

end Sys2Proof.Machine

/-! SUPPORT. The time base: a TIME packet that is heard, the REPLY to an exchange, time states, TIME_CFG and holdover. -/

namespace Sys2Proof.Machine

/-! ## What a frame keeps of the time base -/

/-- A frame without the time base keeps it but for the links' records. -/
theorem Frame.time_eq {m : List Part} {s t : State} (h : Frame m s t) (hm : Part.time ∉ m) : t.time = { s.time with links := t.time.links } := by
  have e : { t.time with links := s.time.links } = s.time := h.keep .time hm
  rw [← e]

/-- With it every part of the time base that does not read those records. -/
theorem Frame.keep_time {m : List Part} {s t : State} {α : Type} (h : Frame m s t) (f : TimeRec → α) (hm : Part.time ∉ m)
    (hf : ∀ r x, f { r with links := x } = f r := by intros; rfl) : f t.time = f s.time := by
  rw [h.time_eq hm, hf]

/-- What is put out behind the outputs of a later state u is news since s, whatever came between. -/
theorem mem_news_later {s u t : State} {o : Out} (hs : s.out <:+ u.out) (h : o :: u.out <:+ t.out) : o ∈ news s t := by
  obtain ⟨a, ha⟩ := hs
  obtain ⟨b, hb⟩ := h
  have e : t.out = (b ++ (o :: a)) ++ s.out := by simp [← hb, ← ha]
  rw [news, e, List.length_append, Nat.add_sub_cancel, List.take_left]
  simp

/-! ## A TIME packet that is heard (R48 to R50) -/

/-- A TIME packet is taken, and its root noted. -/
def timeHeard (s : State) (l : Nat) (pay : List Byte) : State :=
  noteRoot (takeLocal s (fun p => p.cls == clsTIME && p.data == pay)) l (fieldAt pay 2 2 % 1024)

theorem frame_timeHeard (s : State) (l : Nat) (pay : List Byte) : Frame eventParts s (timeHeard s l pay) :=
  frame_noteRoot (by decide) (frame_takeLocal (by decide) (Frame.refl _ s))

/-- A root that is noted is written in the record of its link, and a conflict of roots is told. -/
theorem noteRoot_elim {P : State → Prop} {s : State} {l root : Nat} (hnone : P s) (hnote : ∀ r, (s.tlink l).Extends r → P (s.setTlink l r))
    (htell : ∀ r data, (s.tlink l).Extends r → P ((s.setTlink l r).raiseLimited 0x074100 1000000000 0x0741 data)) : P (noteRoot s l root) := by
  unfold noteRoot
  split
  · exact hnone
  · have hr : (s.tlink l).Extends { s.tlink l with seen := root, seenAge := 0 } := ⟨rfl, rfl, rfl, rfl, ⟨[], List.append_nil _⟩⟩
    extract_lets -merge -underBinder +onlyGivenNames x u mine other clash
    split
    · exact hnote _ hr
    · split
      exact htell _ _ hr

/-- A root that is noted moves no measurement. -/
theorem exchKept_noteRoot (s : State) (l root : Nat) : ExchKept s (noteRoot s l root) :=
  noteRoot_elim (.refl s) (fun _ hr => exchKept_setTlink hr) (fun _ _ hr => (exchKept_setTlink hr).trans (exchKept_raiseLimited _ _ _ _ _))

theorem exchKept_timeHeard (s : State) (l : Nat) (pay : List Byte) : ExchKept s (timeHeard s l pay) :=
  have h : ExchKept s (takeLocal s (fun p => p.cls == clsTIME && p.data == pay)) := .of_links rfl
  h.trans (exchKept_noteRoot _ _ _)

/-- On a device that has its host bytes a conflict of roots that is told moves no link. -/
theorem frame_noteRoot_here {s : State} (h : BytesHere s) (l root : Nat) : Frame (.exch :: .rate :: localEventParts) s (noteRoot s l root) := by
  have hset : ∀ r, Frame (.exch :: .rate :: localEventParts) s (s.setTlink l r) := fun r => frame_State_setTlink (by decide) (Frame.refl _ s)
  exact noteRoot_elim (Frame.refl _ s) (fun r _ => hset r) (fun r _ _ =>
    have hb : BytesHere (s.setTlink l r) := h
    (hset r).trans ((frame_raiseLimited_here hb _ _ _ _).mono (List.subset_cons_self _ _)))

theorem link_timeHeard_here {s : State} (h : BytesHere s) (l : Nat) (pay : List Byte) (k : Nat) : (timeHeard s l pay).link k = s.link k := by
  have hb : BytesHere (takeLocal s (fun p => p.cls == clsTIME && p.data == pay)) := h
  have e : (timeHeard s l pay).fab.links = s.fab.links := (frame_noteRoot_here hb l _).keep .links (by decide)
  simp only [State.link, e]

/-- A SYNC on a link of OUT_MASK that is UP is answered with its SEQ and its arrival time. -/
theorem doSync_answers {s : State} {l : Nat} {pay : List Byte} (hty : fieldAt pay 0 1 = 0) (hm : bit s.time.cfg.outMask l = true)
    (hup : (timeHeard s l pay).linkUp l = true) :
    doSync s l pay = sendTime (timeHeard s l pay) l (timePayload (timeHeard s l pay) 1 (fieldAt pay 6 2) 0 s.ft.toNat) := by
  have hmask : bit (timeHeard s l pay).time.cfg.outMask l = true := by rw [(frame_timeHeard s l pay).keep_time TimeRec.cfg (by decide), hm]
  rw [doSync, if_neg (by simp [hty])]
  exact if_pos ⟨hmask, hup⟩

/-- A SYNC is heard by the time base. -/
theorem exec_sync {s : State} (l : Fin 11) (payload : BitVec 256) (hp : s.pdOn 9 = true) :
    exec (.sync l payload) s = .next (doSync s l.val (leBytes 32 payload.toNat)) :=
  congrArg Host.Outcome.next (if_pos hp)

/-- R49: on an idle link the REPLY goes out at once. -/
theorem doSync_idle {s : State} {l : Nat} {pay : List Byte} (hty : fieldAt pay 0 1 = 0) (hm : bit s.time.cfg.outMask l = true)
    (hup : (s.link l).st = .up) (hb : BytesHere s) (hi : (s.link l).Idle) :
    let t := doSync s l pay
    Out.symbol l "TSM" ∈ news s t ∧ ∃ q, (t.link l).cur = some q ∧ q.cls = clsTIME ∧ fieldAt q.data 0 1 = 1
      ∧ fieldAt q.data 6 2 = fieldAt pay 6 2 ∧ fieldAt q.data 8 8 = s.ft.toNat ∧ fieldAt q.data 16 8 = s.ft.toNat := by
  have hft : (timeHeard s l pay).ft = s.ft := (frame_timeHeard s l pay).keep .ft (by decide)
  have hlink := link_timeHeard_here hb l pay l
  have hidle : ((timeHeard s l pay).link l).Idle := hlink ▸ hi
  have hkeep : s.out <:+ (timeHeard s l pay).out := (keeps_noteRoot (keeps_takeLocal (Keeps.refl s))).log
  obtain ⟨hout, q, hcur, hcls, hdata⟩ := sendTime_reply (fieldAt pay 6 2) s.ft.toNat hidle
  rw [doSync_answers hty hm (by simp [State.linkUp, hlink, hup])]
  refine ⟨mem_news_later hkeep hout, q, hcur, hcls, ?_⟩
  rw [hdata, timePayload_type, timePayload_seq, timePayload_tx, timePayload_rx, hft]
  exact ⟨rfl, Nat.mod_eq_of_lt (fieldAt_lt pay 6 2), Nat.mod_eq_of_lt s.ft.isLt, Nat.mod_eq_of_lt s.ft.isLt⟩

/-! ## The REPLY to an exchange (R50, R54) -/

/-- A REPLY that finds its exchange reaches a follower. -/
structure Answers (s : State) (l : Nat) (pay : List Byte) (t1 : U64) : Prop where
  type  : fieldAt pay 0 1 = 1
  root  : s.time.cfg.root = false
  open_ : ∃ age, (s.tlink l).open_.find? (fun e => e.1 == fieldAt pay 6 2) = some (fieldAt pay 6 2, t1, age)

/-- The exchange of a SEQ is over. -/
def TimeLink.close (r : TimeLink) (seq : Nat) : TimeLink := { r with open_ := r.open_.filter (fun e => !(e.1 == seq)) }

/-- The exchange that a REPLY answers is over. One that comes too late leaves it at that; else the link is measured, and an offset beyond 1 ms
that was not so before is told. -/
theorem doReply_cases {s : State} {l : Nat} {pay : List Byte} {t1 : U64} (h : Answers s l pay t1) :
    let u := timeHeard s l pay
    let r := (u.tlink l).close (fieldAt pay 6 2)
    (s.ft.toNat - t1.toNat > 4 * s.time.cfg.periodNs → doReply s l pay = u.setTlink l r)
      ∧ (s.ft.toNat - t1.toNat ≤ 4 * s.time.cfg.periodNs → ∃ r', ExchKept (u.setTlink l r') (doReply s l pay)
          ∧ r'.d = pathDelay t1.toNat (fieldAt pay 16 8) (fieldAt pay 8 8) s.ft.toNat
          ∧ r'.theta = timeOffset t1.toNat (fieldAt pay 16 8) (fieldAt pay 8 8) s.ft.toNat (s.time.cfg.asymOf l)
          ∧ r'.have_ = true ∧ r'.hops = fieldAt pay 1 1) := by
  obtain ⟨hty, hroot, age, ho⟩ := h
  have hf := frame_timeHeard s l pay
  have hft : (timeHeard s l pay).ft = s.ft := hf.keep .ft (by decide)
  have hcfg : (timeHeard s l pay).time.cfg = s.time.cfg := hf.keep_time TimeRec.cfg (by decide)
  have hfind := (exchKept_timeHeard s l pay).find ho
  intro u r
  generalize ht : doReply s l pay = t
  unfold doReply at ht
  extract_lets -merge -underBinder +onlyGivenNames v at ht
  rw [if_neg (by simp [hty])] at ht
  extract_lets -merge -underBinder +onlyGivenNames root u' at ht
  have hu : u' = u := rfl
  rw [hu, if_neg (by simp [u, hcfg, hroot])] at ht
  extract_lets -merge -underBinder +onlyGivenNames r' seq at ht
  split at ht
  · next hn => exact absurd (hn.symm.trans hfind) nofun
  · next q t0 a hs =>
    obtain ⟨rfl, rfl, rfl⟩ : q = fieldAt pay 6 2 ∧ t0 = t1 ∧ a = age := by simpa using hs.symm.trans hfind
    extract_lets -merge -underBinder +onlyGivenNames r'' at ht
    have hlate : u.ft.toNat - t0.toNat > 4 * u.time.cfg.periodNs ↔ s.ft.toNat - t0.toNat > 4 * s.time.cfg.periodNs := by rw [hft, hcfg]
    refine ⟨fun hl => ?_, fun hl => ?_⟩
    · rw [if_pos (hlate.mpr hl)] at ht
      exact ht.symm
    · rw [if_neg (mt hlate.mp (Nat.not_lt.mpr hl))] at ht
      extract_lets -merge -underBinder +onlyGivenNames t2 t3 t4 th far w at ht
      have ht4 : t4 = (s.ft.toNat : Int) := by simp only [t4, u, hft]
      have hw : ExchKept w t := by
        split at ht <;> subst ht
        · exact exchKept_raise _ _ _
        · exact .refl _
      refine ⟨_, hw, ?_, ?_, rfl, rfl⟩
      · rw [← ht4]
      · rw [← ht4, ← hcfg]

/-- A REPLY is heard by the time base. -/
theorem exec_reply {s : State} (l : Fin 11) (payload : BitVec 256) (hp : s.pdOn 9 = true) :
    exec (.reply l payload) s = .next (doReply s l.val (leBytes 32 payload.toNat)) :=
  congrArg Host.Outcome.next (if_pos hp)

/-- R50: a REPLY in time measures its link. -/
theorem doReply_measures {s : State} {l : Nat} {pay : List Byte} {t1 : U64} (h : Answers s l pay t1)
    (hl : s.ft.toNat - t1.toNat ≤ 4 * s.time.cfg.periodNs) :
    let r := (doReply s l pay).tlink l
    r.d = pathDelay t1.toNat (fieldAt pay 16 8) (fieldAt pay 8 8) s.ft.toNat
      ∧ r.theta = timeOffset t1.toNat (fieldAt pay 16 8) (fieldAt pay 8 8) s.ft.toNat (s.time.cfg.asymOf l)
      ∧ r.have_ = true ∧ r.hops = fieldAt pay 1 1 := by
  obtain ⟨r', hk, hd, hth, hhave, hhops⟩ := (doReply_cases h).2 hl
  have hr := hk l
  rw [State.tlink_setTlink] at hr
  exact ⟨hr.d.trans hd, hr.theta.trans hth, hr.have_.trans hhave, hr.hops.trans hhops⟩

/-- R54: a REPLY that comes too late leaves the measurement of its link. -/
theorem doReply_late {s : State} {l : Nat} {pay : List Byte} {t1 : U64} (h : Answers s l pay t1)
    (hl : s.ft.toNat - t1.toNat > 4 * s.time.cfg.periodNs) :
    let r := (doReply s l pay).tlink l
    r.d = (s.tlink l).d ∧ r.theta = (s.tlink l).theta ∧ r.have_ = (s.tlink l).have_ := by
  have hk := exchKept_timeHeard s l pay l
  simp only [(doReply_cases h).1 hl, State.tlink_setTlink]
  exact ⟨hk.d, hk.theta, hk.have_⟩

end Sys2Proof.Machine

/-! SUPPORT. Time states: TIME_CFG at an exchange period, a follower without a candidate, and the end of holdover. -/

namespace Sys2Proof.Machine

/-! ## Entering a time state (R53, R69) -/

/-- What the telling of a change of the time state may change. -/
abbrev stateParts : List Part := .pair :: .ready :: eventParts

/-- A change of the time state, not yet told. -/
def stateSet (s : State) (new : TimeState) : State :=
  { s with time.st := new, time.since := s.clk, time.ever := s.time.ever || (new == .locked || new == .root) }

/-- A new time state is set, told, and followed by TIME_LOCK. -/
theorem setTimeState_told (s : State) (new : TimeState) (h : s.time.st ≠ new) :
    ∃ u, Frame stateParts (stateSet s new) u ∧ setTimeState s new = u.setReady 26 (new == .locked || new == .holdover || new == .root) := by
  unfold setTimeState
  rw [if_neg h]
  refine ⟨_, ?_, rfl⟩
  refine Frame.ite (frame_State_untrigger (by decide) ?_) ?_ <;> exact frame_State_raise (by decide) (Frame.refl _ _)

/-- Beside the time base a change of the time state leaves what its telling leaves. -/
theorem setTimeState_frame_set (s : State) (new : TimeState) (h : s.time.st ≠ new) : Frame stateParts (stateSet s new) (setTimeState s new) := by
  obtain ⟨u, hu, e⟩ := setTimeState_told s new h
  rw [e]
  exact frame_State_setReady (by decide) hu

/-- A change of the time state leaves what is neither the time base nor a part of its telling. -/
theorem setTimeState_frame (s : State) (new : TimeState) : Frame (.time :: stateParts) s (setTimeState s new) :=
  frame_setTimeState (by decide) (Frame.refl _ s)

/-- The time base is in the state set. -/
theorem setTimeState_st (s : State) (new : TimeState) : (setTimeState s new).time.st = new := by
  by_cases h : s.time.st = new
  · rw [setTimeState, if_pos h, h]
  · exact (setTimeState_frame_set s new h).keep_time TimeRec.st (by decide)

/-- A change of the time state leaves the rest of the time base: any part of it that does not read the state and its times. -/
theorem setTimeState_time {α : Type} (s : State) (new : TimeState) (f : TimeRec → α)
    (hl : ∀ r x, f { r with links := x } = f r := by intros; rfl)
    (hs : ∀ r x y z, f { r with st := x, since := y, ever := z } = f r := by intros; rfl) : f (setTimeState s new).time = f s.time := by
  by_cases h : s.time.st = new
  · rw [setTimeState, if_pos h]
  · exact ((setTimeState_frame_set s new h).keep_time f (by decide) hl).trans (hs _ _ _ _)

/-- A bit reads what it is set to. -/
theorem testBit_setBit (x i : Nat) (b : Bool) : (setBit x i b).testBit i = b := by
  unfold setBit
  split
  · assumption
  · next h =>
    cases b with
    | true => simpa [Nat.add_comm x, Nat.testBit_two_pow_add_eq] using h
    | false =>
      have hx : x.testBit i = true := by simpa using h
      have hge : 2 ^ i ≤ x := Nat.ge_two_pow_of_testBit hx
      have e := Nat.testBit_two_pow_add_eq (x - 2 ^ i) i
      rw [Nat.add_sub_cancel' hge, hx] at e
      simpa using e

/-- A readiness bit reads what it is set to. -/
theorem isReady_setReady (s : State) (i : Nat) (v : Bool) : (s.setReady i v).isReady i = v := by
  unfold State.setReady
  split
  · assumption
  · have e : (State.raise { s with sys.ready := setBit s.sys.ready i v } 0x0100 (leBytes 1 i ++ leBytes 1 (b2n v))).sys.ready
        = setBit s.sys.ready i v := (frame_State_raise (m := eventParts) (by decide) (Frame.refl _ _)).keep .ready (by decide)
    rw [State.isReady, e]
    exact testBit_setBit _ _ _

/-- TIME_LOCK is ready in LOCKED, HOLDOVER and ROOT, once the state has changed. -/
theorem isReady_setTimeState {s : State} {new : TimeState} (h : s.time.st ≠ new) :
    (setTimeState s new).isReady 26 = (new == .locked || new == .holdover || new == .root) := by
  obtain ⟨u, -, e⟩ := setTimeState_told s new h
  rw [e, isReady_setReady]

/-! ## The end of holdover (R54) -/

/-- What the outputs that follow the time base may change. -/
theorem followTime_frame (s : State) : Frame (.scan :: eventParts) s (followTime s) := frame_followTime (by decide) (Frame.refl _ s)

/-- R54: holdover beyond its limit is UNLOCKED, and TIME_LOCK is not ready. -/
theorem holdoverLimitExpiry_unlocks {s : State} (hp : s.pdOn 9 = true) (hst : s.time.st = .holdover)
    (hl : s.clk - s.time.holdAt > s.time.cfg.holdMs * 1000000) :
    ∃ t, exec .holdoverLimitExpiry s = .next t ∧ t.time.st = .unlocked ∧ t.isReady 26 = false := by
  have hd : doHoldoverExpiry s = setTimeState s .unlocked := if_pos ⟨hst, hl⟩
  have he : exec .holdoverLimitExpiry s = .next (followTime (doHoldoverExpiry s)) := congrArg Host.Outcome.next (if_pos hp)
  rw [hd] at he
  have hf := followTime_frame (setTimeState s .unlocked)
  refine ⟨_, he, (hf.keep_time TimeRec.st (by decide)).trans (setTimeState_st _ _), ?_⟩
  have hr : (followTime (setTimeState s .unlocked)).sys.ready = (setTimeState s .unlocked).sys.ready := hf.keep .ready (by decide)
  rw [State.isReady, hr]
  exact isReady_setTimeState (by simp [hst])

/-! ## TIME_CFG (R67, R68) -/

/-- R67: an admitted TIME_CFG waits for the next exchange period. -/
theorem exec_timeCfg {s : State} {c : Cmd} (hs : Starts s (.timeCfg c) c) (ha : Admits s c (fun _ j => timeCfgSpec j)) :
    exec (.timeCfg c) s = .next { begun s c with time.queue := s.time.queue ++ [c.job] } :=
  congrArg Host.Outcome.next ((gate_starts _ hs).trans (runJob_admits _ ha))

/-- The settings of a TIME_CFG (R67). -/
def timeCfgOf (j : Job) : TimeCfg :=
  { root := j.n 16 1 == 1, period := if j.n 17 1 = 0 then 3 else j.n 17 1, inMask := j.n 18 2, outMask := j.n 20 2,
    holdMs := if j.n 22 2 = 0 then 2000 else j.n 22 2, rateLimit := if j.n 24 4 = 0 then 200000 else j.n 24 4,
    resync := bit (j.n 28 1) 0, initTime := BitVec.ofNat 64 (j.n 32 8),
    asym := (List.range 11).map (fun l => sInt 16 (j.n (40 + 2 * l) 2)) }

/-- A state becomes, or stays, that of a root with the settings cfg, from which completions and TEPHRA_USED are as they were. -/
structure RootWith (s t : State) (cfg : TimeCfg) : Prop where
  st    : t.time.st = .root
  cfg   : t.time.cfg = cfg
  queue : t.time.queue = s.time.queue
  done  : t.host.done = s.host.done
  used  : t.fab.tephraUsed = s.fab.tephraUsed

/-- Any state with the settings becomes a root by entering ROOT. -/
theorem rootWith_setTimeState {s x : State} {cfg : TimeCfg} (hc : x.time.cfg = cfg) (hq : x.time.queue = s.time.queue)
    (hd : x.host.done = s.host.done) (hu : x.fab.tephraUsed = s.fab.tephraUsed) : RootWith s (setTimeState x .root) cfg :=
  have hf := setTimeState_frame x .root
  ⟨setTimeState_st _ _, (setTimeState_time _ _ TimeRec.cfg).trans hc, (setTimeState_time _ _ TimeRec.queue).trans hq,
    Eq.trans (hf.keep .done (by decide)) hd, (hf.keep .domain (by decide)).2.2.trans hu⟩

/-- A TIME_CFG of ROLE 1 makes a root with its settings, and then completes. -/
theorem applyTimeCfg_root (s : State) {j : Job} (hr : j.n 16 1 = 1) :
    ∃ w, RootWith s w (timeCfgOf j) ∧ applyTimeCfg s j = w.finish j .done 0 0 := by
  generalize ht : applyTimeCfg s j = t
  unfold applyTimeCfg at ht
  extract_lets -merge -underBinder +onlyGivenNames cfg x v y p z z' w at ht
  have hroot : cfg.root = true := by simp [cfg, hr]
  refine ⟨w, ?_, ht.symm⟩
  have hp : p.time.cfg = cfg ∧ p.time.queue = s.time.queue ∧ p.host.done = s.host.done ∧ p.fab.tephraUsed = s.fab.tephraUsed := by
    simp only [p]
    split <;> exact ⟨rfl, rfl, rfl, rfl⟩
  obtain ⟨hc, hq, hd, hu⟩ := hp
  simp only [w, if_pos hroot]
  split
  · next h => exact ⟨h, rfl, rfl, rfl, rfl⟩
  · exact rootWith_setTimeState hc hq hd hu

/-! ## The exchange period (R49, R54, R68) -/

/-- A period runs, and the outputs follow the time base. -/
theorem exec_timeExchangePeriod {s : State} (hp : s.pdOn 9 = true) : exec .timeExchangePeriod s = .next (followTime (doExchangePeriod s)) :=
  congrArg Host.Outcome.next (if_pos hp)

theorem ageLinks_frame (s : State) : Frame [.exch] s (ageLinks s) := frame_ageLinks (List.Subset.refl _) (Frame.refl _ s)

/-- Age leaves a link measured or not. -/
theorem ageLinks_have (s : State) (k : Nat) : ((ageLinks s).tlink k).have_ = (s.tlink k).have_ :=
  List.foldlRecOn (motive := fun (t : State) => (t.tlink k).have_ = (s.tlink k).have_) _ _ rfl fun t ht l _ => by
    by_cases hk : k = l
    · subst hk
      simpa using ht
    · simpa only [State.tlink_setTlink_ne _ _ _ _ hk] using ht

/-- A period with a TIME_CFG of ROLE 1 applies it, and sends no SYNC. -/
theorem doExchangePeriod_root {s : State} {j : Job} {js : List Job} (hq : s.time.queue = j :: js) (hr : j.n 16 1 = 1) :
    ∃ w, RootWith { s with time.queue := js } w (timeCfgOf j) ∧ doExchangePeriod s = ageLinks (w.finish j .done 0 0) := by
  obtain ⟨w, hw, e⟩ := applyTimeCfg_root { s with time.queue := js } hr
  refine ⟨w, hw, ?_⟩
  have hroot : (ageLinks (w.finish j .done 0 0)).time.cfg.root = true := by
    rw [(ageLinks_frame _).keep_time TimeRec.cfg (by decide), (frame_finish w j .done 0 0).keep_time TimeRec.cfg (by decide), hw.cfg]
    simp [timeCfgOf, hr]
  simp only [doExchangePeriod, hq, e, hroot, if_true]

/-- R67, R68: the period applies the oldest TIME_CFG, which makes a root where ROLE is 1, and completes it. -/
theorem timeExchangePeriod_root {s : State} {c : Cmd} {js : List Job} (hp : s.pdOn 9 = true) (hq : s.time.queue = c.job :: js)
    (hr : c.job.n 16 1 = 1) :
    ∃ t, exec .timeExchangePeriod s = .next t ∧ t.time.st = .root ∧ t.time.queue = js ∧ t.time.cfg = timeCfgOf c.job
      ∧ t.host.done = s.host.done ++ entry s c .done 0 0 := by
  obtain ⟨w, hw, e⟩ := doExchangePeriod_root hq hr
  have hv : Frame finishParts w (w.finish c.job .done 0 0) := frame_finish _ _ _ _ _
  have ht : Frame (.scan :: eventParts) (w.finish c.job .done 0 0) (followTime (ageLinks (w.finish c.job .done 0 0))) :=
    ((ageLinks_frame _).mono (by decide)).trans (followTime_frame _)
  have hdone : (followTime (ageLinks (w.finish c.job .done 0 0))).host.done = (w.finish c.job .done 0 0).host.done := ht.keep .done (by decide)
  have hentry : entry w c .done 0 0 = entry s c .done 0 0 := by simp only [entry, hw.used]
  refine ⟨_, e ▸ exec_timeExchangePeriod hp, ?_, ?_, ?_, ?_⟩
  · rw [ht.keep_time TimeRec.st (by decide), hv.keep_time TimeRec.st (by decide), hw.st]
  · rw [ht.keep_time TimeRec.queue (by decide), hv.keep_time TimeRec.queue (by decide), hw.queue]
  · rw [ht.keep_time TimeRec.cfg (by decide), hv.keep_time TimeRec.cfg (by decide), hw.cfg]
  · rw [hdone, (finish_host w c .done 0 0).1, hw.done, hentry]

/-! ## A follower without a candidate (R53, R54) -/

/-- A link without a measurement is no candidate. -/
theorem chooseParent_none {s : State} (h : ∀ k, (s.tlink k).have_ = false) (root : Nat) : chooseParent s root = none := by
  have hc : ∀ l, candidate s root l = false := fun l => by simp [candidate, h]
  simp [chooseParent, hc]

/-- Of the time base only the links' records and the SEQ of SYNCs differ. -/
def SameButSyncs (s t : State) : Prop := ∃ x n, t.time = { s.time with links := x, seq := n }

/-- A SYNC that is sent takes a SEQ. -/
theorem SameButSyncs.sync {s t : State} (h : SameButSyncs s t) (l n : Nat) (pay : List Byte) :
    SameButSyncs s (sendTime { t with time.seq := n } l pay) := by
  obtain ⟨x, m, e⟩ := h
  have hf : Frame eventParts { t with time.seq := n } (sendTime { t with time.seq := n } l pay) := frame_sendTime (by decide) (Frame.refl _ _)
  exact ⟨_, n, by rw [hf.time_eq (by decide), e]⟩

/-- SYNCs that are sent leave the rest of the time base. -/
theorem sameButSyncs_sendSyncs (s : State) : SameButSyncs s (sendSyncs s) := by
  unfold sendSyncs
  refine List.foldlRecOn (motive := SameButSyncs s) _ _ ⟨s.time.links, s.time.seq, rfl⟩ fun t ht l _ => ?_
  split
  · exact ht.sync _ _ _
  · exact ht

/-- The time uncertainty rests on the clock and on the time base without the links' records. -/
theorem Frame.keep_uncert {m : List Part} {s t : State} (h : Frame m s t) (hm : Part.time ∉ m ∧ Part.clk ∉ m) : t.uncert = s.uncert := by
  have hc : t.clk = s.clk := h.keep .clk hm.2
  have e : t.uncert = State.uncert { s with time := t.time } := by simp only [State.uncert, State.holdMs, hc]
  rw [e]
  exact h.keep_time (fun r => State.uncert { s with time := r }) hm.1

/-- HOLDOVER begins now, with the uncertainty given. -/
theorem enterHoldover_time (s : State) (u : Nat) :
    (enterHoldover s u).time.st = .holdover ∧ (enterHoldover s u).time.u0 = u ∧ (enterHoldover s u).time.holdAt = s.clk :=
  ⟨setTimeState_st _ _, setTimeState_time _ _ TimeRec.u0, setTimeState_time _ _ TimeRec.holdAt⟩

/-- A LOCKED follower whose links have no measurement enters HOLDOVER in the period, and sends its SYNCs. -/
theorem doExchangePeriod_alone {s : State} (hq : s.time.queue = []) (hr : s.time.cfg.root = false) (hst : s.time.st = .locked)
    (hl : ∀ k, (s.tlink k).have_ = false) : doExchangePeriod s = sendSyncs (enterHoldover (ageLinks s) s.uncert) := by
  have hf := ageLinks_frame s
  have hroot : (ageLinks s).time.cfg.root = false := by rw [hf.keep_time TimeRec.cfg (by decide), hr]
  have hlock : (ageLinks s).time.st = .locked := by rw [hf.keep_time TimeRec.st (by decide), hst]
  have hnone := chooseParent_none (fun k => (ageLinks_have s k).trans (hl k)) (chosenRoot (ageLinks s))
  simp only [doExchangePeriod, hq, hroot, Bool.false_eq_true, if_false, hnone, withoutParent, hlock, hf.keep_uncert (by decide)]

/-- R54: such a follower holds over from now on. -/
theorem timeExchangePeriod_holdsOver {s : State} (hp : s.pdOn 9 = true) (hq : s.time.queue = []) (hr : s.time.cfg.root = false)
    (hst : s.time.st = .locked) (hl : ∀ k, (s.tlink k).have_ = false) :
    ∃ t, exec .timeExchangePeriod s = .next t ∧ t.time.st = .holdover ∧ t.time.u0 = s.uncert ∧ t.time.holdAt = s.clk := by
  obtain ⟨h1, h2, h3⟩ := enterHoldover_time (ageLinks s) s.uncert
  have hclk : (ageLinks s).clk = s.clk := (ageLinks_frame s).keep .clk (by decide)
  obtain ⟨x, n, e⟩ := sameButSyncs_sendSyncs (enterHoldover (ageLinks s) s.uncert)
  have ht := followTime_frame (sendSyncs (enterHoldover (ageLinks s) s.uncert))
  refine ⟨_, doExchangePeriod_alone hq hr hst hl ▸ exec_timeExchangePeriod hp, ?_, ?_, ?_⟩
  · rw [ht.keep_time TimeRec.st (by decide), e, h1]
  · rw [ht.keep_time TimeRec.u0 (by decide), e, h2]
  · rw [ht.keep_time TimeRec.holdAt (by decide), e, h3, hclk]

/-- Settles O51: a SYNC is answered by what starts at once on the idle link, a REPLY measures the link of its exchange whatever events it
raises, and the period and the end of holdover set the time state before the outputs follow it. -/
theorem timeIsExchangedAndHeld : Obligations.TimeIsExchangedAndHeld := by
  unfold Obligations.TimeIsExchangedAndHeld
  refine ⟨fun s l payload hp => ⟨fun hty hm hup hb hcur hq hheld hact => ?sync, fun t1 age hty hr ho hl => ?measured,
      fun t1 age hty hr ho hl => ?late⟩,
    fun s c => ⟨fun hs ha => ?queued, fun js hp hq hr => ?root, timeExchangePeriod_holdsOver, holdoverLimitExpiry_unlocks⟩⟩
  case sync => exact ⟨_, exec_sync l payload hp, doSync_idle hty hm hup hb ⟨hcur, hq, hheld, hact⟩⟩
  case measured => exact ⟨_, exec_reply l payload hp, doReply_measures ⟨hty, hr, age, ho⟩ hl⟩
  case late => exact ⟨_, exec_reply l payload hp, doReply_late ⟨hty, hr, age, ho⟩ hl⟩
  case queued => exact ⟨_, exec_timeCfg hs ha, rfl, rfl, rfl⟩
  case root =>
    obtain ⟨t, he, hst, hqueue, hcfg, hdone⟩ := timeExchangePeriod_root hp hq hr
    exact ⟨t, he, hst, hqueue, by simp [hcfg, timeCfgOf, hr], by rw [hcfg]; rfl, hdone⟩

end Sys2Proof.Machine

/-! SUPPORT. Encode streams: ENC_OPEN, ENC_PARAMS, ENC_OUTBUF and ENC_CLOSE. -/

namespace Sys2Proof.Machine

/-! ## What a frame keeps -/

/-- A frame without the encoders keeps every stream. -/
theorem Frame.enc_eq {m : List Part} {s t : State} (h : Frame m s t) (hm : Part.encs ∉ m) (k : Nat) : t.enc k = s.enc k := by
  have e : t.encs = s.encs := h.keep .encs hm
  simp only [State.enc, e]

/-- A command that has ended stays ended. -/
theorem Ends.later {m : List Part} {s t u : State} {c : Cmd} {st : Status} {fl r : Nat} (h : Ends s t c st fl r) (hf : Frame m t u)
    (hm : Part.done ∉ m ∧ Part.inFlight ∉ m) : Ends s u c st fl r :=
  ⟨Eq.trans (hf.keep .done hm.1) h.1, Eq.trans (hf.keep .inFlight hm.2) h.2⟩

/-- A completion leaves the streams alone. -/
@[simp] theorem finish_enc (s : State) (j : Job) (st : Status) (fl r k : Nat) : (s.finish j st fl r).enc k = s.enc k :=
  (frame_finish s j st fl r).enc_eq (by decide) k

/-- What the wake of units that a command has put to work may change (R388). -/
theorem frame_wake (s : State) : Frame [.power, .caps, .out] s (wakeBusy s) := frame_wakeBusy (List.Subset.refl _) (Frame.refl _ s)

/-! ## ENC_OPEN (R99) -/

/-- The record of a stream that ENC_OPEN opens; queued is what its engine's fabric queue may still hold. -/
def openedEnc (j : Job) (queued : Nat) : EncRec :=
  { EncRec.init with
    open_ := true, engine := j.n 16 1, kind := j.n 18 1, index := j.n 19 1, width := j.n 20 2, height := j.n 22 2, chroma := j.n 24 1,
    rows := orDefault (j.n 25 1) 2, refresh := orDefault (j.n 26 1) 16, nextRefresh := orDefault (j.n 26 1) 16,
    div := orDefault (j.n 27 1) 1, bitrate := j.n 28 4, qpMin := j.n 32 1, qpMax := j.n 33 1, cpb := orDefault (j.n 34 1) 2,
    out := j.n 35 1, group := j.n 36 1, flow := j.n 38 2, mpxs := j.n 40 2, keepS := j.n 42 2, idr := true, fresh := true,
    restart := true, refSize := j.n 44 4, refBase := j.n 48 8, queued := queued }

/-- The counters of a stream that is opened read 0. -/
def encCleared (s : State) (h : Nat) : State :=
  [Reg.STR_ENC_BITS, Reg.STR_ENC_CPB, Reg.STR_ENC_HELD_CNT, Reg.STR_ENC_DROP_CNT, Reg.STR_ENC_FABDROP_CNT, Reg.STR_ENC_HOSTDROP_CNT,
    Reg.STR_ENC_PICS].foldl (fun s b => s.setReg (encReg b h) 0) s

theorem frame_encCleared (s : State) (h : Nat) : Frame [.regs] s (encCleared s h) :=
  Frame.foldlMem (Frame.refl _ s) fun _ b hb hf =>
    frame_State_setReg (List.Subset.refl _) hf (offSys_encReg h ((by decide : ∀ r ∈ [Reg.STR_ENC_BITS, Reg.STR_ENC_CPB, Reg.STR_ENC_HELD_CNT,
      Reg.STR_ENC_DROP_CNT, Reg.STR_ENC_FABDROP_CNT, Reg.STR_ENC_HOSTDROP_CNT, Reg.STR_ENC_PICS], 0x200000 ≤ r) b hb))

/-- The state in which an ENC_OPEN has opened its stream k. -/
def encOpened (s : State) (j : Job) (k : Nat) : State := encCleared (s.setEnc k (openedEnc j (s.enc k).queued)) k

theorem frame_encOpened (s : State) (j : Job) (k : Nat) : Frame [.regs, .encs] s (encOpened s j k) :=
  (frame_State_setEnc (by decide) (Frame.refl _ s)).trans ((frame_encCleared _ k).mono (by decide))

theorem encOpened_enc (s : State) (j : Job) (k i : Nat) :
    (encOpened s j k).enc i = if i = k then openedEnc j (s.enc k).queued else s.enc i := by
  rw [encOpened, (frame_encCleared _ k).enc_eq (by decide)]
  split
  · next h => rw [h, State.enc_setEnc]
  · next h => exact State.enc_setEnc_ne _ _ _ _ h

/-- A command that starts and that no check refuses acts on the state of its start. -/
theorem gate_acts {s : State} {i : Instr} {c : Cmd} {sp : State → Job → CmdSpec} {run : State → Job → State} {act : State → State}
    (hs : Starts s i c) (ha : Admits s c sp) (hr : ∀ u, run u c.job = runJob u c.job (sp u c.job) act) : gate s i c run = act (begun s c) := by
  rw [gate_starts run hs, hr, runJob_admits act ha]

/-- An admitted ENC_OPEN opens its stream, and answers its number. -/
theorem exec_encOpen {s : State} {c : Cmd} (hs : Starts s (.encOpen c) c) (ha : Admits s c encOpenSpec) :
    let k := 4 * c.job.n 16 1 + c.job.n 17 1
    exec (.encOpen c) s = .next (wakeBusy ((encOpened (begun s c) c.job k).finish c.job .done 0 k)) := by
  have e : exec (.encOpen c) s = .next (gate s (.encOpen c) c (fun s j => wakeBusy (doEncOpen s j))) := rfl
  rw [e, gate_starts _ hs, doEncOpen, runJob_admits _ ha]
  rfl

theorem encOpen_opens {s : State} {c : Cmd} (hs : Starts s (.encOpen c) c) (ha : Admits s c encOpenSpec) :
    let k := 4 * c.job.n 16 1 + c.job.n 17 1
    ∃ t, exec (.encOpen c) s = .next t ∧ Ends s t c .done 0 k
      ∧ ∀ i, t.enc i = if i = k then openedEnc c.job (s.enc k).queued else s.enc i := by
  intro k
  refine ⟨_, exec_encOpen hs ha, ((frame_encOpened _ _ _).finish_ends (by decide)).later (frame_wake _) (by decide), fun i => ?_⟩
  rw [(frame_wake _).enc_eq (by decide), finish_enc, encOpened_enc]
  rfl

/-! ## ENC_PARAMS and ENC_OUTBUF (R100, R102) -/

/-- An admitted ENC_PARAMS waits at its stream, and completes. -/
theorem exec_encParams {s : State} {c : Cmd} (hs : Starts s (.encParams c) c) (ha : Admits s c encParamsSpec) :
    let h := c.job.n 16 1
    exec (.encParams c) s =
      .next (((begun s c).setEnc h { s.enc h with params := (s.enc h).params ++ [c.job] }).finish c.job .done 0 0) :=
  congrArg Host.Outcome.next ((gate_acts hs ha fun _ => rfl).trans rfl)

/-- An admitted ENC_OUTBUF waits at its stream. -/
theorem exec_encOutbuf {s : State} {c : Cmd} (hs : Starts s (.encOutbuf c) c) (ha : Admits s c encOutbufSpec) :
    let h := c.job.n 16 1
    exec (.encOutbuf c) s =
      .next ((begun s c).setEnc h { s.enc h with bufs := (s.enc h).bufs ++ [{ job := c.job, used := 0 }] }) :=
  congrArg Host.Outcome.next ((gate_acts hs ha fun _ => rfl).trans rfl)

/-! ## ENC_CLOSE (R101) -/

/-- A stream that is not closing does not close. -/
theorem settleEncClose_open {s : State} {h : Nat} (hc : (s.enc h).closing = none) : settleEncClose s h = s := by
  simp [settleEncClose, hc]

/-- A closing stream with a picture under way or slices to send does not close yet. -/
theorem settleEncClose_busy {s : State} {h : Nat} (hb : (s.enc h).queue ≠ [] ∨ (s.enc h).cur ≠ none) : settleEncClose s h = s := by
  have hn : ¬ ((s.enc h).cur.isNone = true ∧ (s.enc h).queue.isEmpty = true) := fun ⟨hc, hq⟩ =>
    hb.elim (fun hb => hb (List.isEmpty_iff.mp hq)) (fun hb => hb (Option.isNone_iff_eq_none.mp hc))
  unfold settleEncClose
  extract_lets r
  split
  · exact if_neg hn
  · rfl

/-- The buffers of a stream that closes complete with ABORTED. -/
def abortBufs (s : State) (bs : List BufOut) : State := bs.foldl (fun s b => s.finish b.job .aborted (bufFlags b.job b.used) b.used) s

/-- A closing stream of which nothing is left closes. -/
theorem settleEncClose_idle {s : State} {h : Nat} {j : Job} (hc : (s.enc h).closing = some j) (hp : (s.enc h).cur = none)
    (hq : (s.enc h).queue = []) :
    settleEncClose s h = ((abortBufs s (s.enc h).bufs).setEnc h { EncRec.init with queued := (s.enc h).queued }).finish j .done 0 0 := by
  simp [settleEncClose, hc, hp, hq, abortBufs]

/-- A command that ends with ABORTED leaves completions of that status only. -/
theorem finish_aborted_done (s : State) (j : Job) (fl r : Nat) :
    ∃ ds, (s.finish j .aborted fl r).host.done = s.host.done ++ ds ∧ ∀ d ∈ ds, d.status = .aborted := by
  obtain ⟨org, desc⟩ := j
  cases org with
  | ring pf sq =>
    let j : Job := { org := .ring pf sq, desc := desc }
    refine ⟨[{ pf := pf, cq := j.n 4 1, sq := sq, tag := j.n 2 2, opcode := j.opcode, status := .aborted,
               flags := fl + 2 * b2n s.fab.tephraUsed, result := BitVec.ofNat 64 r }], ?_, by simp⟩
    simp [State.finish, j]
  | mirror cls rid ack =>
    have h := frame_mirrorReject (v1 := cls) (v2 := rid) (v3 := .aborted) (List.Subset.refl _) (Frame.refl _ s)
    exact ⟨[], Eq.trans (h.keep .done (by decide)) (List.append_nil _).symm, by simp⟩

theorem abortBufs_done (s : State) (bs : List BufOut) :
    Frame finishParts s (abortBufs s bs)
      ∧ ∃ ds, (abortBufs s bs).host.done = s.host.done ++ ds ∧ ∀ d ∈ ds, d.status = .aborted := by
  unfold abortBufs
  induction bs generalizing s with
  | nil => exact ⟨Frame.refl _ s, [], (List.append_nil _).symm, by simp⟩
  | cons b bs ih =>
    obtain ⟨hf, ds, hd, hs⟩ := ih (s.finish b.job .aborted (bufFlags b.job b.used) b.used)
    obtain ⟨es, he, hs'⟩ := finish_aborted_done s b.job (bufFlags b.job b.used) b.used
    refine ⟨(frame_finish _ _ _ _ _).trans hf, es ++ ds, ?_, fun d hm => (List.mem_append.mp hm).elim (hs' d) (hs d)⟩
    rw [List.foldl_cons, hd, he, List.append_assoc]

/-- A completion entry is the only one of its command. -/
theorem entry_of_mem {s : State} {c : Cmd} {st : Status} {fl r : Nat} {d : DoneRec} (h : d ∈ entry s c st fl r) : [d] = entry s c st fl r := by
  simp only [entry] at h ⊢
  split at h
  · exact absurd h List.not_mem_nil
  · next hn => rw [if_neg hn, List.mem_singleton.mp h]

/-- An admitted ENC_CLOSE makes its stream close, at once where nothing is left of it; without DRAIN its picture ends. -/
theorem exec_encClose {s : State} {c : Cmd} (hs : Starts s (.encClose c) c) (ha : Admits s c encCloseSpec) :
    let h := c.job.n 16 1
    exec (.encClose c) s = .next (settleEncClose ((begun s c).setEnc h { s.enc h with
      closing := some c.job, stop := !(bit (c.job.n 17 1) 0), cur := if bit (c.job.n 17 1) 0 then (s.enc h).cur else none }) h) := by
  intro h
  refine congrArg Host.Outcome.next ((gate_acts hs ha fun _ => rfl).trans ?_)
  cases bit (c.job.n 17 1) 0 <;> rfl

/-- R101: a stream of which nothing is left closes, its buffers before it. -/
theorem encClose_closes {s : State} {c : Cmd} (hs : Starts s (.encClose c) c) (ha : Admits s c encCloseSpec)
    (hq : (s.enc (c.job.n 16 1)).queue = []) (hp : (s.enc (c.job.n 16 1)).cur = none ∨ bit (c.job.n 17 1) 0 = false) :
    let h := c.job.n 16 1
    ∃ t, exec (.encClose c) s = .next t ∧ (t.enc h).open_ = false ∧ (t.enc h).bufs = []
      ∧ ∃ ds, t.host.done = s.host.done ++ ds ++ entry s c .done 0 0 ∧ ∀ d ∈ ds, d.status = .aborted := by
  intro h
  refine ⟨_, exec_encClose hs ha, ?_⟩
  set u := (begun s c).setEnc h { s.enc h with
    closing := some c.job, stop := !(bit (c.job.n 17 1) 0), cur := if bit (c.job.n 17 1) 0 then (s.enc h).cur else none } with hu
  have hcur : (u.enc h).cur = none := by
    rw [hu, State.enc_setEnc]
    rcases hp with hp | hp <;> simp [h, hp]
  have hidle := settleEncClose_idle (s := u) (h := h) (j := c.job) (by rw [hu, State.enc_setEnc]) hcur (by rw [hu, State.enc_setEnc]; exact hq)
  obtain ⟨hf, ds, hd, ha'⟩ := abortBufs_done u (u.enc h).bufs
  set v := abortBufs u (u.enc h).bufs
  have ht : v.fab.tephraUsed = s.fab.tephraUsed := (hf.keep .domain (by decide)).2.2
  rw [hidle, finish_enc, State.enc_setEnc]
  refine ⟨rfl, rfl, ds, ?_, ha'⟩
  rw [(finish_host _ c .done 0 0).1]
  refine congrArg₂ (· ++ ·) hd ?_
  simp only [entry, State.setEnc_fab, ht]

/-- R101: a stream with slices to send, or with a picture that DRAIN finishes, waits. -/
theorem encClose_waits {s : State} {c : Cmd} (hs : Starts s (.encClose c) c) (ha : Admits s c encCloseSpec)
    (hb : (s.enc (c.job.n 16 1)).queue ≠ [] ∨ ((s.enc (c.job.n 16 1)).cur ≠ none ∧ bit (c.job.n 17 1) 0 = true)) :
    let h := c.job.n 16 1
    ∃ t, exec (.encClose c) s = .next t ∧ t.host.done = s.host.done ∧ t.enc h = { s.enc h with
      closing := some c.job, stop := !(bit (c.job.n 17 1) 0), cur := if bit (c.job.n 17 1) 0 then (s.enc h).cur else none } := by
  intro h
  refine ⟨_, exec_encClose hs ha, ?_⟩
  rw [settleEncClose_busy]
  · exact ⟨rfl, State.enc_setEnc _ _ _⟩
  · rw [State.enc_setEnc]
    exact hb.imp id fun ⟨hc, hd⟩ => by rwa [if_pos hd]

/-- Settles O16: ENC_OPEN gives its stream the record of its settings, ENC_PARAMS and ENC_OUTBUF join what waits at the stream, and ENC_CLOSE
closes it at once or waits. -/
theorem encodeStreamsAreConfigured : Obligations.EncodeStreamsAreConfigured := by
  unfold Obligations.EncodeStreamsAreConfigured
  refine fun s c => ⟨fun hs ha => ?opens, fun hs ha => ?params, fun hs ha => ?outbuf, fun hs ha hq hp => ?closes, fun hs ha hb => ?waits⟩
  case opens =>
    obtain ⟨t, he, hends, henc⟩ := encOpen_opens hs ha
    refine ⟨t, he, hends, ?_, fun k hk => (henc k).trans (if_neg hk)⟩
    rw [(henc _).trans (if_pos rfl)]
    exact ⟨rfl, rfl, rfl, rfl, rfl, rfl, rfl, rfl, rfl, rfl, rfl, rfl, rfl, rfl, rfl, rfl, rfl, rfl, rfl, rfl, rfl, rfl, rfl⟩
  case params =>
    exact ⟨_, exec_encParams hs ha, (frame_State_setEnc (List.Subset.refl _) (Frame.refl _ _)).finish_ends (by decide),
      (finish_enc _ _ _ _ _ _).trans (State.enc_setEnc _ _ _)⟩
  case outbuf => exact ⟨_, exec_encOutbuf hs ha, rfl, State.enc_setEnc _ _ _⟩
  case closes =>
    obtain ⟨t, he, hopen, hbufs, ds, hd, hab⟩ := encClose_closes hs ha hq hp
    refine ⟨t, he, hopen, hbufs, ⟨ds, hd⟩, fun d hm => ?_⟩
    rw [hd, List.append_assoc, List.drop_left] at hm
    exact (List.mem_append.mp hm).imp (hab d) entry_of_mem
  case waits =>
    obtain ⟨t, he, hd, henc⟩ := encClose_waits hs ha hb
    exact ⟨t, he, by rw [henc], by rw [henc], hd, by rw [henc], by rw [henc]⟩

end Sys2Proof.Machine

/-! SUPPORT. Slices of an encode stream: what a slice that goes into the output queue leaves of its stream and of its picture, and the choice
of the rate control. -/

namespace Sys2Proof.Machine

/-! ## Events and the counters of a stream (R103) -/

/-- The counters of a stream are none of those that events, packets and completions keep. -/
theorem not_counted_encReg {b h : Nat} (hh : h < 8)
    (hb : b ∈ [Reg.STR_ENC_HELD_CNT, Reg.STR_ENC_DROP_CNT, Reg.STR_ENC_FABDROP_CNT, Reg.STR_ENC_HOSTDROP_CNT]) : ¬ Counted (encReg b h) := by
  have hb' : b = 0x78000C ∨ b = 0x780010 ∨ b = 0x780014 ∨ b = 0x780018 := by simpa using hb
  have he : encReg b h = b + 0x100 * h := rfl
  intro hc
  rcases hc.num with hm | ⟨n, hn, hc⟩ | ⟨n, hc | hc | hc | hc | ⟨w, f, hc⟩⟩
  · simp only [List.mem_cons, List.not_mem_nil, or_false] at hm
    omega
  all_goals omega

@[simp] theorem raise_enc (s : State) (code : Nat) (d : List Byte) (k : Nat) : (s.raise code d).enc k = s.enc k :=
  (frame_State_raise (m := eventParts) (by decide) (Frame.refl _ s)).enc_eq (by decide) k

@[simp] theorem raiseLimited_enc (s : State) (key per code : Nat) (d : List Byte) (k : Nat) : (s.raiseLimited key per code d).enc k = s.enc k :=
  (frame_State_raiseLimited (m := eventParts) (by decide) (Frame.refl _ s)).enc_eq (by decide) k

theorem raise_cnt {o : Nat} (ho : ¬ Counted o) (s : State) (code : Nat) (d : List Byte) : (s.raise code d).cnt o = s.cnt o :=
  (calm_State_raise counted (.refl s)).cnt ho

theorem raiseLimited_cnt {o : Nat} (ho : ¬ Counted o) (s : State) (key per code : Nat) (d : List Byte) :
    (s.raiseLimited key per code d).cnt o = s.cnt o :=
  (calm_State_raiseLimited counted (.refl s)).cnt ho

@[simp] theorem setReg_enc (s : State) (o v k : Nat) : (s.setReg o v).enc k = s.enc k := rfl

@[simp] theorem bump_enc (s : State) (o k : Nat) : (s.bump o).enc k = s.enc k := rfl

@[simp] theorem setEnc_cnt (s : State) (h : Nat) (r : EncRec) (o : Nat) : (s.setEnc h r).cnt o = s.cnt o := rfl

/-! ## AT_BOUND and the end of a picture (R85 to R87) -/

/-- AT_BOUND is set, and told where it rises. -/
theorem setAtBound_eq (s : State) (h : Nat) (v : Bool) (b c : Nat) :
    setAtBound s h v b c = s.setEnc h { s.enc h with atBound := v }
      ∨ ∃ d, setAtBound s h v b c = (s.setEnc h { s.enc h with atBound := v }).raise 0x0470 d := by
  have e : setAtBound s h v b c = if v = true ∧ (!(s.enc h).atBound) = true
      then (s.setEnc h { s.enc h with atBound := v }).raise 0x0470 (leBytes 1 h ++ leBytes 1 b ++ leBytes 4 c)
      else s.setEnc h { s.enc h with atBound := v } := rfl
  rw [e]
  split
  · exact .inr ⟨_, rfl⟩
  · exact .inl rfl

@[simp] theorem setAtBound_enc (s : State) (h : Nat) (v : Bool) (b c : Nat) :
    (setAtBound s h v b c).enc h = { s.enc h with atBound := v } := by
  obtain e | ⟨d, e⟩ := setAtBound_eq s h v b c <;> simp [e]

theorem setAtBound_cnt {o : Nat} (ho : ¬ Counted o) (s : State) (h : Nat) (v : Bool) (b c : Nat) :
    (setAtBound s h v b c).cnt o = s.cnt o := by
  obtain e | ⟨d, e⟩ := setAtBound_eq s h v b c <;> simp [e, raise_cnt ho]

/-- The record of a stream whose picture p has all its slices. -/
def EncRec.ended (r : EncRec) (p : EncPic) : EncRec :=
  { r with
    cur := none, full := r.full + p.used - p.drain, afterIdr := p.idr,
    meanQp := if p.qpCnt = 0 then none else some ((2 * p.qpSum + p.qpCnt) / (2 * p.qpCnt)),
    idx := if p.idr then 0 else if p.idx + 1 ≥ r.refresh then 0 else p.idx + 1 }

theorem endEncPicture_enc (s : State) (h : Nat) (p : EncPic) : (endEncPicture s h p).enc h = (s.enc h).ended p := by
  unfold endEncPicture
  extract_lets -merge -underBinder +onlyGivenNames r full mean s1 s2 s3 s4
  have e : s4.enc h = (s.enc h).ended p := State.enc_setEnc s h ((s.enc h).ended p)
  split
  · rw [raiseLimited_enc, e]
  · exact e

/-! ## A slice goes into the output queue (R84, R88, R89, R91, R92) -/

/-- The slice is held: skipped or grey. -/
def SliceCode.isHeld : SliceCode → Bool
  | .coded _ _ _ _ _ => false
  | _ => true

/-- Bit 0 of FLAGS says held, bit 6 keepalive. -/
theorem seiFlags_bits (held a b c d e keep i : Bool) :
    let fl := b2n held + 2 * b2n a + 4 * b2n b + 8 * b2n c + 16 * b2n d + 32 * b2n e + 64 * b2n keep + 128 * b2n i
    bit (BitVec.ofNat 8 fl).toNat 0 = held ∧ bit (BitVec.ofNat 8 fl).toNat 6 = keep := by
  revert held a b c d e keep i
  decide

/-- From its stream's record r and its picture p a slice of some bits makes the record r', the picture p' and the queued slice o. -/
structure Emits (r : EncRec) (p : EncPic) (held : Bool) (size qp state : Nat) (r' : EncRec) (p' : EncPic) (o : SliceOut) : Prop where
  queue    : r'.queue = r.queue ++ [o]
  closing  : r'.closing = r.closing
  keeping  : r'.keeping = r.keeping
  epoch    : r'.epoch = r.epoch
  picCount : r'.picCount = r.picCount
  full     : r'.full = r.full
  refresh  : r'.refresh = r.refresh
  cur      : r'.cur = some p'
  next     : p'.next = p.next + 1
  used     : p'.used = p.used + size
  st       : p'.state = state
  heldCnt  : p'.held = p.held + b2n held
  rest     : p'.idr = p.idr ∧ p'.keep = p.keep ∧ p'.epoch = p.epoch ∧ p'.count = p.count ∧ p'.slices = p.slices ∧ p'.idx = p.idx
               ∧ p'.drain = p.drain
  flags    : bit o.sei.flags.toNat 0 = held ∧ bit o.sei.flags.toNat 6 = p.keep
  slice    : o.sei.slice = BitVec.ofNat 8 p.next
  pic      : o.sei.picEpoch = BitVec.ofNat 64 p.epoch ∧ o.sei.picCount = BitVec.ofNat 32 p.count
  qp       : held = false → o.sei.qp = BitVec.ofNat 8 qp
  band     : held = true → o.sei.bandEpoch = BitVec.ofNat 64 (if p.idr then 0 else r.epochs.getD p.next 0)

/-- A stream's record, stored for a slice; a held one is counted. -/
def emitted (s : State) (h : Nat) (held : Bool) (r : EncRec) : State :=
  if held then (s.setEnc h r).bump (encReg Reg.STR_ENC_HELD_CNT h) else s.setEnc h r

@[simp] theorem emitted_enc (s : State) (h : Nat) (held : Bool) (r : EncRec) : (emitted s h held r).enc h = r := by
  unfold emitted
  split <;> simp

theorem emitSlice_emits (s : State) (h : Nat) (p : EncPic) (code : SliceCode) (size qp state : Nat) :
    ∃ r p' o, emitSlice s h p code size qp state =
        (if decide (p.next + 1 = p.slices) then endEncPicture (emitted s h code.isHeld r) h p' else emitted s h code.isHeld r)
      ∧ Emits (s.enc h) p code.isHeld size qp state r p' o := by
  have hqp : code.isHeld = false → (if code.isHeld then 0 else BitVec.ofNat 8 qp) = BitVec.ofNat 8 qp := fun hh => by simp [hh]
  have hband : code.isHeld = true → ∀ x y : Nat, (if code.isHeld then x else y) = x := fun hh _ _ => if_pos hh
  exact ⟨_, _, _, rfl,
    { queue := rfl, closing := rfl, keeping := rfl, epoch := rfl, picCount := rfl, full := rfl, refresh := rfl, cur := rfl, next := rfl,
      used := rfl, st := rfl, heldCnt := rfl, rest := ⟨rfl, rfl, rfl, rfl, rfl, rfl, rfl⟩, flags := seiFlags_bits _ _ _ _ _ _ _ _,
      slice := rfl, pic := ⟨rfl, rfl⟩, qp := hqp, band := fun hh => congrArg (BitVec.ofNat 64) (hband hh _ _) }⟩

/-! ## Held slices (R88, R89) -/

/-- A held slice takes at most 4,096 bits, and AT_BOUND is set. -/
theorem holdSlice_emits (s : State) (h : Nat) (p : EncPic) (bits_ : Nat) :
    ∃ r p' o, holdSlice s h p bits_ =
        setAtBound (if decide (p.next + 1 = p.slices) then endEncPicture (emitted s h true r) h p' else emitted s h true r) h true 1 p.count
      ∧ Emits (s.enc h) p true (min bits_ 4096) 0 2 r p' o := by
  have hc : (if p.idr then SliceCode.grey else SliceCode.skipped).isHeld = true := by split <;> rfl
  obtain ⟨r, p', o, e, hem⟩ := emitSlice_emits s h p (if p.idr then .grey else .skipped) (min bits_ 4096) 0 2
  rw [hc] at e hem
  exact ⟨r, p', o, congrArg (fun u => setAtBound u h true 1 p.count) e, hem⟩

/-- A held slice before the last of its picture. -/
theorem holdSlice_more (s : State) {h : Nat} {p : EncPic} (bits_ : Nat) (hm : p.next + 1 < p.slices) :
    ∃ r p' o, (holdSlice s h p bits_).enc h = { r with atBound := true } ∧ Emits (s.enc h) p true (min bits_ 4096) 0 2 r p' o := by
  obtain ⟨r, p', o, e, hem⟩ := holdSlice_emits s h p bits_
  exact ⟨r, p', o, by simp [e, Nat.ne_of_lt hm], hem⟩

/-- The held slice that ends its picture. -/
theorem holdSlice_last (s : State) {h : Nat} {p : EncPic} (bits_ : Nat) (hl : p.next + 1 = p.slices) :
    ∃ r p' o, (holdSlice s h p bits_).enc h = { r.ended p' with atBound := true } ∧ Emits (s.enc h) p true (min bits_ 4096) 0 2 r p' o := by
  obtain ⟨r, p', o, e, hem⟩ := holdSlice_emits s h p bits_
  exact ⟨r, p', o, by simp [e, hl, endEncPicture_enc], hem⟩

/-- A held slice before the last of its picture is counted. -/
theorem holdSlice_cnt (s : State) {h : Nat} (hh : h < 8) {p : EncPic} (bits_ : Nat) (hm : p.next + 1 < p.slices) :
    (holdSlice s h p bits_).cnt (encReg Reg.STR_ENC_HELD_CNT h) = min (s.cnt (encReg Reg.STR_ENC_HELD_CNT h) + 1) 0xFFFFFFFF := by
  obtain ⟨r, p', o, e, -⟩ := holdSlice_emits s h p bits_
  rw [e, setAtBound_cnt (not_counted_encReg hh (by simp)), if_neg (by simpa using Nat.ne_of_lt hm)]
  exact State.cnt_bumpBy _ _ _

/-! ## The choice of the rate control (R87, R88, Table: rate control states) -/

/-- The projected size x, scaled, fits what the budget leaves for the slices to come. -/
def EncPic.fits (p : EncPic) (x : Nat) : Bool :=
  decide ((x : Int) ≤ ((p.budget : Int) - p.used - ((p.slices - p.next : Nat) : Int) * 4096) * 2 ^ 42)

/-- A slice of some bits leaves the budget room for the held slices behind it. -/
def EncPic.small (p : EncPic) (bits_ : Nat) : Bool := decide (p.used + bits_ + (p.slices - p.next - 1) * 4096 ≤ p.budget)

/-- The state in which a slice is coded: two free values are used. -/
def codingState (s : State) : State := { s with free := s.free + 2 }

/-- The picture with the loop's QP for its next slice. -/
def loopPic (r : EncRec) (p : EncPic) : EncPic := { p with qp := r.clampQp (loopQp r p) }

/-- The next slice coded at a QP in a state of the rate control. -/
def codedAt (s : State) (h : Nat) (p : EncPic) (sl : CodedSlice) (qp st : Nat) : State :=
  let r := s.enc h
  let u := codingState s
  setAtBound (emitSlice u h (loopPic r p) (fullCode u r (loopPic r p) qp) sl.bits qp st) h
    (st == 1 || !(loopQp r p == r.clampQp (loopQp r p))) (if st = 1 ∨ loopQp r p > r.clampQp (loopQp r p) then 1 else 0) p.count

/-- The next slice held. -/
def heldAt (s : State) (h : Nat) (p : EncPic) (sl : CodedSlice) : State :=
  holdSlice (codingState s) h (loopPic (s.enc h) p) sl.heldBits

/-- A slice is held where the table says so or where it is too large, else coded at the loop's QP or at QPMAX. -/
theorem codeSlice_cases (s : State) (h : Nat) (p : EncPic) (sl : CodedSlice) :
    let r := s.enc h
    let q := (r.clampQp (loopQp r p)).toNat
    ∃ fitLoop fitMax, (∃ x, fitLoop = p.fits (projection r p q x)) ∧ (∃ x, fitMax = p.fits (projection r p r.qpMax x))
      ∧ codeSlice s h p sl =
          if p.state = 2 ∨ ¬ (p.state = 0 ∧ fitLoop = true ∨ fitMax = true) ∨ p.small sl.bits = false then heldAt s h p sl
          else if p.state = 0 ∧ fitLoop = true then codedAt s h p sl q 0 else codedAt s h p sl r.qpMax 1 := by
  intro r q
  refine ⟨_, _, ⟨Config.freeNat s.free, rfl⟩, ⟨Config.freeNat (s.free + 1), rfl⟩, ?_⟩
  generalize hl : p.fits (projection r p q (Config.freeNat s.free)) = fitLoop
  generalize hm : p.fits (projection r p r.qpMax (Config.freeNat (s.free + 1))) = fitMax
  have e : codeSlice s h p sl =
      if p.state = 2 ∨ (!(if p.state = 0 then fitLoop || fitMax else fitMax)) = true then heldAt s h p sl
      else if p.used + sl.bits + (p.slices - p.next - 1) * 4096 > p.budget then heldAt s h p sl
      else
        let st := if p.state = 0 ∧ fitLoop = true then 0 else 1
        codedAt s h p sl (if st = 0 then q else r.qpMax) st := by
    subst hl hm
    rfl
  have hs : p.used + sl.bits + (p.slices - p.next - 1) * 4096 > p.budget ↔ p.small sl.bits = false := by
    simp [EncPic.small]
  rw [e]
  simp only [hs]
  -- What is left is a truth table: the state is 0 or not, and three yes-or-no checks.
  by_cases h0 : p.state = 0 <;> cases fitLoop <;> cases fitMax <;> cases p.small sl.bits <;> simp [h0]

/-- A slice coded before the last of its picture. -/
theorem codedAt_emits (s : State) (h : Nat) {p : EncPic} (sl : CodedSlice) (qp st : Nat) (hm : p.next + 1 < p.slices) :
    ∃ r p' o, (codedAt s h p sl qp st).enc h =
        { r with atBound := decide (st = 1 ∨ loopQp (s.enc h) p ≠ (s.enc h).clampQp (loopQp (s.enc h) p)) }
      ∧ Emits (s.enc h) (loopPic (s.enc h) p) false sl.bits qp st r p' o := by
  let u := codingState s
  let pl := loopPic (s.enc h) p
  have hc : (fullCode u (s.enc h) pl qp).isHeld = false := rfl
  obtain ⟨r, p', o, e, hem⟩ := emitSlice_emits u h pl (fullCode u (s.enc h) pl qp) sl.bits qp st
  rw [hc] at e hem
  have hn : decide (pl.next + 1 = pl.slices) = false := decide_eq_false (Nat.ne_of_lt hm)
  have eu : (emitSlice u h pl (fullCode u (s.enc h) pl qp) sl.bits qp st).enc h = r := by simp [e, hn]
  refine ⟨r, p', o, ?_, hem⟩
  have ev : (st == 1 || !(loopQp (s.enc h) p == (s.enc h).clampQp (loopQp (s.enc h) p)))
      = decide (st = 1 ∨ loopQp (s.enc h) p ≠ (s.enc h).clampQp (loopQp (s.enc h) p)) := by
    rw [Bool.eq_iff_iff]
    simp
  rw [← ev, ← eu]
  exact setAtBound_enc ..

/-! ## SLICE_CODING -/

/-- SLICE_CODING of a stream that is not closing is the rate control's choice. -/
theorem exec_sliceCoding {s : State} {h : Fin 8} {sl : CodedSlice} {p : EncPic} {r : EncRec} (hp : s.pdOn 6 = true)
    (hcur : (s.enc h.val).cur = some p) (here : (s.enc h.val).nextRows p ≤ (s.enc h.val).lines.length)
    (hr : (codeSlice s h.val p sl).enc h.val = r) (hcl : r.closing = none) :
    exec (.sliceCoding h sl) s = .next (codeSlice s h.val p sl) := by
  have e : exec (.sliceCoding h sl) s = .next (doSliceCoding s h.val sl) := congrArg Host.Outcome.next (if_pos hp)
  rw [e]
  unfold doSliceCoding
  simp only [hcur]
  rw [if_neg (by omega), settleEncClose_open (by rw [hr, hcl])]

/-- The stream has a picture with a slice before its last one to code, and is not closing. -/
structure Coding (s : State) (h : Fin 8) (p : EncPic) : Prop where
  on    : s.pdOn 6 = true
  cur   : (s.enc h.val).cur = some p
  going : (s.enc h.val).closing = none
  here  : (s.enc h.val).nextRows p ≤ (s.enc h.val).lines.length
  more  : p.next + 1 < p.slices

section
variable {s : State} {h : Fin 8} {sl : CodedSlice} {p : EncPic}

/-- What SLICE_CODING leaves of a slice that is coded. -/
theorem Coding.coded {qp st : Nat} (hc : Coding s h p) (e : codeSlice s h.val p sl = codedAt s h.val p sl qp st) :
    ∃ t, exec (.sliceCoding h sl) s = .next t ∧ (∃ p', (t.enc h.val).cur = some p' ∧ p'.next = p.next + 1
        ∧ p'.used = p.used + sl.bits ∧ p'.state = st ∧ p'.held = p.held)
      ∧ (t.enc h.val).atBound = decide (st = 1 ∨ loopQp (s.enc h.val) p ≠ (s.enc h.val).clampQp (loopQp (s.enc h.val) p))
      ∧ ∃ o, (t.enc h.val).queue = (s.enc h.val).queue ++ [o] ∧ bit o.sei.flags.toNat 0 = false ∧ o.sei.qp = BitVec.ofNat 8 qp
        ∧ o.sei.slice = BitVec.ofNat 8 p.next := by
  obtain ⟨r, p', o, er, hem⟩ := codedAt_emits s h.val sl qp st hc.more
  rw [← e] at er
  refine ⟨_, exec_sliceCoding hc.on hc.cur hc.here er (hem.closing.trans hc.going), ?_⟩
  rw [er]
  exact ⟨⟨p', hem.cur, hem.next, hem.used, hem.st, hem.heldCnt⟩, rfl, o, hem.queue, hem.flags.1, hem.qp rfl, hem.slice⟩

/-- What SLICE_CODING leaves of a slice that is held. -/
theorem Coding.held (hc : Coding s h p) (e : codeSlice s h.val p sl = heldAt s h.val p sl) :
    ∃ t, exec (.sliceCoding h sl) s = .next t ∧ (t.enc h.val).atBound = true ∧ (∃ p', (t.enc h.val).cur = some p' ∧ p'.next = p.next + 1
        ∧ p'.used = p.used + min sl.heldBits 4096 ∧ p'.state = 2 ∧ p'.held = p.held + 1)
      ∧ t.cnt (encReg Reg.STR_ENC_HELD_CNT h.val) = min (s.cnt (encReg Reg.STR_ENC_HELD_CNT h.val) + 1) 0xFFFFFFFF
      ∧ ∃ o, (t.enc h.val).queue = (s.enc h.val).queue ++ [o] ∧ bit o.sei.flags.toNat 0 = true
        ∧ o.sei.bandEpoch = BitVec.ofNat 64 (if p.idr then 0 else (s.enc h.val).epochs.getD p.next 0) := by
  have hm : (loopPic (s.enc h.val) p).next + 1 < (loopPic (s.enc h.val) p).slices := hc.more
  obtain ⟨r, p', o, er, hem⟩ := holdSlice_more (codingState s) (h := h.val) sl.heldBits hm
  have hn := holdSlice_cnt (codingState s) h.isLt sl.heldBits hm
  change (heldAt s h.val p sl).enc h.val = _ at er
  rw [← e] at er
  refine ⟨_, exec_sliceCoding hc.on hc.cur hc.here er (hem.closing.trans hc.going), ?_⟩
  rw [er, e]
  exact ⟨rfl, ⟨p', hem.cur, hem.next, hem.used, hem.st, hem.heldCnt⟩, hn, o, hem.queue, hem.flags.1, hem.band rfl⟩

/-- Once held, a picture's slices stay held. -/
theorem codeSlice_of_holding (h : Nat) (h2 : p.state = 2) : codeSlice s h p sl = heldAt s h p sl := by
  obtain ⟨_, _, -, -, e⟩ := codeSlice_cases s h p sl
  rw [e, if_pos (.inl h2)]

end

/-- SLICE_CODING of the held slice that ends its picture. -/
theorem exec_sliceCoding_last {s : State} {h : Fin 8} {sl : CodedSlice} {p : EncPic} (hp : s.pdOn 6 = true)
    (hcur : (s.enc h.val).cur = some p) (hcl : (s.enc h.val).closing = none) (here : (s.enc h.val).nextRows p ≤ (s.enc h.val).lines.length)
    (hl : p.next + 1 = p.slices) (h2 : p.state = 2) :
    ∃ t, exec (.sliceCoding h sl) s = .next t ∧ (t.enc h.val).cur = none
      ∧ (t.enc h.val).full = (s.enc h.val).full + (p.used + min sl.heldBits 4096) - p.drain ∧ (t.enc h.val).afterIdr = p.idr
      ∧ (t.enc h.val).idx = (if p.idr then 0 else if p.idx + 1 ≥ (s.enc h.val).refresh then 0 else p.idx + 1) := by
  obtain ⟨r, p', o, er, hem⟩ := holdSlice_last (codingState s) (h := h.val) (p := loopPic (s.enc h.val) p) sl.heldBits hl
  change (heldAt s h.val p sl).enc h.val = _ at er
  rw [← codeSlice_of_holding h.val h2] at er
  refine ⟨_, exec_sliceCoding hp hcur here er (hem.closing.trans hcl), ?_⟩
  rw [er]
  obtain ⟨hidr, -, -, -, -, hidx, hdrain⟩ := hem.rest
  refine ⟨rfl, ?_, hidr, ?_⟩
  · change r.full + p'.used - p'.drain = _
    rw [hem.full, hem.used, hdrain]
    rfl
  · change (if p'.idr then 0 else if p'.idx + 1 ≥ r.refresh then 0 else p'.idx + 1) = _
    rw [hidr, hidx, hem.refresh]
    rfl

/-- Settles O20, by the rate control's choice and what a coded and a held slice leave of the stream. -/
theorem slicesAreCodedOrHeld : Obligations.SlicesAreCodedOrHeld := by
  intro s h sl p hp r e left q A fits small here more coded held
  have hfit : ∀ x, p.fits x = true ↔ fits x := fun x => decide_eq_true_iff
  have hsmall : p.small sl.bits = true ↔ small := decide_eq_true_iff
  have hcoding : more → Coding s h p := fun ⟨hc, hcl, hh, hm⟩ => ⟨hp, hc, hcl, hh, hm⟩
  obtain ⟨fitLoop, fitMax, ⟨x, hx⟩, ⟨y, hy⟩, ec⟩ := codeSlice_cases s h.val p sl
  have loopFits (ha : ∀ x, fits (projection r p q x)) : fitLoop = true := hx.trans ((hfit _).2 (ha x))
  have loopMisses (ha : ∀ x, ¬ fits (projection r p q x)) : fitLoop = false := hx.trans (Bool.eq_false_iff.2 (mt (hfit _).1 (ha x)))
  have maxFits (ha : ∀ x, fits (projection r p r.qpMax x)) : fitMax = true := hy.trans ((hfit _).2 (ha y))
  have maxMisses (ha : ∀ x, ¬ fits (projection r p r.qpMax x)) : fitMax = false := hy.trans (Bool.eq_false_iff.2 (mt (hfit _).1 (ha y)))
  refine ⟨?_, ?_, ?_, ?_, ?_, ?_, ?_, ?_⟩
  · intro hnone
    rw [show exec (.sliceCoding h sl) s = .next (doSliceCoding s h.val sl) from congrArg Host.Outcome.next (if_pos hp)]
    obtain hc | ⟨hc, hn⟩ := hnone
    · simp only [doSliceCoding, show (s.enc h.val).cur = none from hc]
    · simp only [doSliceCoding, show (s.enc h.val).cur = some p from hc]
      rw [if_pos (Nat.lt_of_not_le hn)]
  · intro hm h0 hl hs
    exact (hcoding hm).coded (by rw [ec]; simp [h0, loopFits hl, hsmall.2 hs, q, r])
  · intro hm h0 hl hx hs
    exact (hcoding hm).coded (by rw [ec]; simp [h0, loopMisses hl, maxFits hx, hsmall.2 hs, r])
  · intro hm h1 hx hs
    exact (hcoding hm).coded (by rw [ec]; simp [h1, maxFits hx, hsmall.2 hs, r])
  · intro hm _ hl hx
    exact (hcoding hm).held (by rw [ec]; simp [loopMisses hl, maxMisses hx])
  · exact fun hm h2 => (hcoding hm).held (codeSlice_of_holding h.val h2)
  · intro hm hs
    exact (hcoding hm).held (by rw [ec, if_pos (.inr (.inr (Bool.eq_false_iff.2 (mt hsmall.1 hs))))])
  · exact exec_sliceCoding_last hp

end Sys2Proof.Machine

/-! SUPPORT. The pictures of an encode stream: the start of an accepted one, and those of keepalive. -/

namespace Sys2Proof.Machine

/-! ## Dropped pictures -/

@[simp] theorem encDrop_enc (s : State) (h reason b k : Nat) : (encDrop s h reason b).enc k = s.enc k := by
  unfold encDrop
  simp

/-- A drop is counted. -/
theorem encDrop_cnt (s : State) {h b : Nat} (reason : Nat) (hh : h < 8)
    (hb : b ∈ [Reg.STR_ENC_HELD_CNT, Reg.STR_ENC_DROP_CNT, Reg.STR_ENC_FABDROP_CNT, Reg.STR_ENC_HOSTDROP_CNT]) :
    (encDrop s h reason b).cnt (encReg b h) = min (s.cnt (encReg b h) + 1) 0xFFFFFFFF := by
  unfold encDrop
  rw [raiseLimited_cnt (not_counted_encReg hh hb)]
  exact State.cnt_bumpBy _ _ _

@[simp] theorem encKeepEvent_enc (s : State) (h : Nat) (v : Bool) (k : Nat) : (encKeepEvent s h v).enc k = s.enc k := by
  unfold encKeepEvent
  simp

/-! ## Leaving keepalive (R90) -/

/-- The stream as an accepted picture of its input finds it: out of keepalive. -/
def leaveKeepalive (s : State) (h : Nat) : State :=
  let u := s.setEnc h { s.enc h with keeping := false, expired := false }
  if (s.enc h).keeping ∨ (s.enc h).expired then if (s.enc h).keeping then encKeepEvent u h false else u else s

theorem frame_leaveKeepalive (s : State) (h : Nat) : Frame (.encs :: eventParts) s (leaveKeepalive s h) := by
  have hu : Frame (.encs :: eventParts) s (s.setEnc h { s.enc h with keeping := false, expired := false }) :=
    frame_State_setEnc (by decide) (Frame.refl _ s)
  unfold leaveKeepalive
  exact .ite (.ite (frame_encKeepEvent (by decide) hu) hu) (Frame.refl _ s)

theorem EncRec.awake {r : EncRec} (hk : r.keeping = false) (he : r.expired = false) : { r with keeping := false, expired := false } = r := by
  cases r
  simp_all

theorem leaveKeepalive_enc (s : State) (h : Nat) : (leaveKeepalive s h).enc h = { s.enc h with keeping := false, expired := false } := by
  unfold leaveKeepalive
  dsimp only
  split
  · split <;> simp
  · next hn =>
    obtain ⟨hk, he⟩ := not_or.mp hn
    exact (EncRec.awake (Bool.eq_false_iff.2 hk) (Bool.eq_false_iff.2 he)).symm

theorem leaveKeepalive_of_valid {s : State} {h : Nat} (hk : (s.enc h).keeping = false) (he : (s.enc h).expired = false) :
    leaveKeepalive s h = s := by
  simp [leaveKeepalive, hk, he]

theorem leaveKeepalive_cnt {o : Nat} (ho : ¬ Counted o) (s : State) (h : Nat) : (leaveKeepalive s h).cnt o = s.cnt o := by
  unfold leaveKeepalive encKeepEvent
  dsimp only
  split
  · split <;> simp [raise_cnt ho]
  · rfl

theorem leaveKeepalive_raised {s : State} {h : Nat} (hk : (s.enc h).keeping = true) :
    Raised s (leaveKeepalive s h) 0x0472 (leBytes 1 h ++ leBytes 1 0 ++ leBytes 4 (s.enc h).picCount) := by
  have e : leaveKeepalive s h = (s.setEnc h { s.enc h with keeping := false, expired := false }).raise 0x0472
      (leBytes 1 h ++ leBytes 1 0 ++ leBytes 4 (s.enc h).picCount) := by
    simp [leaveKeepalive, hk, encKeepEvent, b2n]
  rw [e]
  exact raised_raise _ _ (List.suffix_refl _)

theorem keeps_leaveKeepalive (s : State) (h : Nat) : Keeps s (leaveKeepalive s h) := by
  unfold leaveKeepalive
  exact .ite (.ite (keeps_encKeepEvent (keeps_State_setEnc (Keeps.refl s))) (keeps_State_setEnc (Keeps.refl s))) (Keeps.refl s)

/-! ## A picture begins (R84 to R88) -/

/-- The starting QP after an IDR picture is the middle of the bounds, where an odd sum leaves a half open. -/
theorem startQp_middle (s : State) {r : EncRec} (ha : r.afterIdr = true) : ∃ x, (startQp s r).1 = (r.qpMin + r.qpMax + x % 2) / 2 :=
  ⟨Config.freeNat s.free, by simp [startQp, ha, State.fresh]⟩

/-- Else it is the last picture's mean, where there is one. -/
theorem startQp_mean (s : State) {r : EncRec} {q : Nat} (ha : r.afterIdr = false) (hq : r.meanQp = some q) : (startQp s r).1 = q := by
  simp [startQp, ha, hq, State.fresh]

/-- What a picture begins with on a stream of record r without waiting ENC_PARAMS. -/
structure Begins (r : EncRec) (keep : Bool) (input : Nat) (r' : EncRec) (p : EncPic) : Prop where
  cur       : r'.cur = some p
  picCount  : r'.picCount = (r.picCount + 1) % 2 ^ 32
  idr       : r'.idr = false
  keeping   : r'.keeping = r.keeping
  expired   : r'.expired = r.expired
  lastStart : r'.lastStart = r.lastStart
  queue     : r'.queue = r.queue
  closing   : r'.closing = r.closing
  epoch     : r'.epoch = p.epoch
  type      : p.idr = r.idr ∧ p.keep = keep ∧ p.epoch = (if keep then r.epoch else input) ∧ p.count = r.picCount
  slices    : p.slices = r.sliceCount ∧ p.next = 0 ∧ p.used = 0 ∧ p.state = (if keep then 2 else 0)
  budget    : p.drain = r.drain ∧ p.budget = max r.drain (r.cpb * r.drain - r.full)
  middle    : r.afterIdr = true → ∃ x : Nat, p.qp = ((r.qpMin + r.qpMax + x % 2) / 2 : Nat)
  mean      : r.afterIdr = false → ∀ q : Nat, r.meanQp = some q → p.qp = q

theorem beginPicture_begins (s : State) {h : Nat} (keep : Bool) (input source : Nat) (hp : (s.enc h).params = []) :
    ∃ p, Begins (s.enc h) keep input ((beginPicture s h keep input source).enc h) p := by
  set r : EncRec := { s.enc h with params := [] } with hr
  unfold beginPicture
  extract_lets r0 r1
  have e1 : r1 = r := by
    change (s.enc h).params.foldl applyParams r = r
    rw [hp, List.foldl_nil]
  clear_value r1
  subst e1
  rw [State.enc_setEnc]
  refine ⟨_,
    { cur := rfl, picCount := rfl, idr := rfl, keeping := rfl, expired := rfl, lastStart := rfl, queue := rfl, closing := rfl, epoch := rfl,
      type := ⟨rfl, rfl, rfl, rfl⟩, slices := ⟨rfl, rfl, rfl, rfl⟩, budget := ⟨rfl, rfl⟩,
      middle := fun ha => ?_, mean := fun ha q hq => ?_ }⟩
  · obtain ⟨x, hx⟩ := startQp_middle s (r := r) ha
    exact ⟨x, congrArg Int.ofNat hx⟩
  · exact congrArg Int.ofNat (startQp_mean s (r := r) ha hq)

/-! ## ENC_PICTURE_START (R80, R81, R86) -/

/-- An accepted picture of the input reaches the open stream. -/
structure Takes (s : State) (h : Nat) : Prop where
  open_ : (s.enc h).open_ = true
  going : (s.enc h).closing = none
  live  : inputLive s (s.enc h) = true
  ready : s.isReady (12 + (s.enc h).engine) = true

/-- The accepted picture is counted. -/
def encCounted (s : State) (h : Nat) : State := s.setEnc h { s.enc h with inCount := (s.enc h).inCount + 1, taking := false }

/-- The last picture started less than the engine's time for one before. -/
def EncRec.soon (r : EncRec) (now : Nat) : Bool :=
  match r.lastStart with
  | some t => decide ((now - t) * r.mpxs < r.width * r.height * 1000)
  | none => false

/-- The stream with the time of its picture's start and the period of record r's input. -/
def encStarted (s : State) (h : Nat) (r : EncRec) (now : Nat) : State :=
  s.setEnc h { s.enc h with lastStart := some now, period := inputPeriod s r }

/-- The epoch of a stream's input, as a picture of it starts. -/
def inputEpoch (s : State) (r : EncRec) : Nat := if r.kind = 0 then (s.cap r.index).epoch else (s.tg r.index).startFt

/-- The number of a stream's input as a source. -/
def inputSource (s : State) (r : EncRec) : Nat := if r.kind = 0 then (sourceOf s (prodKey 1 r.index)).getD 0xFFFF else 0xFFFF

theorem exec_encPictureStart_idle {s : State} {h : Fin 8} (hp : s.pdOn 6 = true) (ht : ¬ Takes s h.val) :
    exec (.encPictureStart h) s = .next s := by
  have e : exec (.encPictureStart h) s = .next (doEncStart s h.val) := congrArg Host.Outcome.next (if_pos hp)
  rw [e, doEncStart]
  refine congrArg Host.Outcome.next (if_pos ?_)
  by_contra hn
  simp only [not_or, Bool.not_eq_true', Bool.not_eq_false, Bool.not_eq_true, Option.isSome_eq_false_iff, Option.isNone_iff_eq_none] at hn
  exact ht ⟨hn.1, hn.2.1, hn.2.2.1, hn.2.2.2⟩

/-- What an accepted picture of the input does to its stream. -/
theorem exec_encPictureStart {s : State} {h : Fin 8} (hp : s.pdOn 6 = true) (ht : Takes s h.val) :
    let u := leaveKeepalive s h.val
    let v := encCounted u h.val
    let r := u.enc h.val
    let w := encStarted (finishEncPicture v h.val) h.val r v.ft.toNat
    exec (.encPictureStart h) s = .next (
      if r.inCount % r.div ≠ 0 then v
      else if r.soon v.ft.toNat then encDrop v h.val 0 Reg.STR_ENC_DROP_CNT
      else beginPicture w h.val false (inputEpoch w r) (inputSource w r)) := by
  have e : exec (.encPictureStart h) s = .next (doEncStart s h.val) := congrArg Host.Outcome.next (if_pos hp)
  rw [e, doEncStart]
  refine congrArg Host.Outcome.next ((if_neg ?_).trans rfl)
  simp [ht.open_, ht.going, ht.live, ht.ready]

/-- Nothing is left to hold of a stream without a picture. -/
theorem finishEncPicture_none {s : State} {h : Nat} (hc : (s.enc h).cur = none) : finishEncPicture s h = s := by
  simp [finishEncPicture, hc]

/-! ## The input of a stream -/

section
variable {m : List Part} {s t : State} {r : EncRec}

theorem inputEpoch_frame (hf : Frame m s t) (hm : Part.caps ∉ m ∧ Part.scan ∉ m) : inputEpoch t r = inputEpoch s r := by
  have hc : t.caps = s.caps := hf.keep .caps hm.1
  have ht : t.scan = s.scan := hf.keep .scan hm.2
  simp only [inputEpoch, State.cap, State.tg, hc, ht]

theorem inputPeriod_frame (hf : Frame m s t) (hm : Part.caps ∉ m ∧ Part.scan ∉ m) : inputPeriod t r = inputPeriod s r := by
  have hc : t.caps = s.caps := hf.keep .caps hm.1
  have ht : t.scan = s.scan := hf.keep .scan hm.2
  simp only [inputPeriod, State.cap, State.tg, hc, ht]

end

/-! ## The pictures that a stream takes -/

/-- The record of a stream that takes an accepted picture of its input. -/
def EncRec.counted (r : EncRec) : EncRec := { r with keeping := false, expired := false, inCount := r.inCount + 1, taking := false }

theorem encCounted_enc (s : State) (h : Nat) : (encCounted (leaveKeepalive s h) h).enc h = (s.enc h).counted := by
  rw [encCounted, State.enc_setEnc, leaveKeepalive_enc]
  rfl

theorem frame_encCounted (s : State) (h : Nat) : Frame (.encs :: eventParts) s (encCounted (leaveKeepalive s h) h) :=
  frame_State_setEnc (by decide) (frame_leaveKeepalive s h)

theorem keeps_encCounted (s : State) (h : Nat) : Keeps (leaveKeepalive s h) (encCounted (leaveKeepalive s h) h) :=
  keeps_State_setEnc (Keeps.refl _)

section
variable {s : State} {h : Fin 8} (hp : s.pdOn 6 = true) (ht : Takes s h.val)
include hp ht

/-- Of FRAME_DIV pictures all but one are counted only. -/
theorem exec_encPictureStart_counts (hn : (s.enc h.val).inCount % (s.enc h.val).div ≠ 0) :
    exec (.encPictureStart h) s = .next (encCounted (leaveKeepalive s h.val) h.val) := by
  rw [exec_encPictureStart hp ht, leaveKeepalive_enc, if_pos hn]

/-- A picture that comes too soon is dropped. -/
theorem exec_encPictureStart_drops (hn : (s.enc h.val).inCount % (s.enc h.val).div = 0) (hs : (s.enc h.val).soon s.ft.toNat = true) :
    exec (.encPictureStart h) s = .next (encDrop (encCounted (leaveKeepalive s h.val) h.val) h.val 0 Reg.STR_ENC_DROP_CNT) := by
  have hft : (encCounted (leaveKeepalive s h.val) h.val).ft = s.ft := (frame_encCounted s h.val).keep .ft (by decide)
  rw [exec_encPictureStart hp ht, leaveKeepalive_enc, hft, if_neg (by simpa using hn), if_pos (by exact hs)]

/-- A picture that comes in time starts: the stream is out of keepalive, and its picture begins. -/
theorem exec_encPictureStart_starts (hn : (s.enc h.val).inCount % (s.enc h.val).div = 0) (hs : (s.enc h.val).soon s.ft.toNat = false)
    (hc : (s.enc h.val).cur = none) (hpar : (s.enc h.val).params = []) :
    let r := s.enc h.val
    ∃ t p, exec (.encPictureStart h) s = .next t
      ∧ Begins { r.counted with lastStart := some s.ft.toNat, period := inputPeriod s r } false (inputEpoch s r) (t.enc h.val) p
      ∧ Keeps (leaveKeepalive s h.val) t := by
  intro r
  set v := encCounted (leaveKeepalive s h.val) h.val
  have hv : v.enc h.val = r.counted := encCounted_enc s h.val
  have hf : Frame (.encs :: eventParts) s v := frame_encCounted s h.val
  have hft : v.ft = s.ft := hf.keep .ft (by decide)
  set r' : EncRec := { r with keeping := false, expired := false }
  set w := encStarted v h.val r' s.ft.toNat
  have hw : Frame (.encs :: eventParts) s w := frame_State_setEnc (by decide) hf
  have hwe : w.enc h.val = { r.counted with lastStart := some s.ft.toNat, period := inputPeriod s r } := by
    have hper : inputPeriod v r' = inputPeriod s r := inputPeriod_frame (r := r') hf (by decide)
    change (v.setEnc h.val _).enc h.val = _
    rw [State.enc_setEnc, hv, hper]
  have he : exec (.encPictureStart h) s = .next (beginPicture w h.val false (inputEpoch w r') (inputSource w r')) := by
    rw [exec_encPictureStart hp ht, leaveKeepalive_enc, finishEncPicture_none (by rw [encCounted_enc]; exact hc), hft,
      if_neg (by simpa using hn), if_neg (by exact Bool.eq_false_iff.1 hs)]
  obtain ⟨p, hb⟩ := beginPicture_begins w (h := h.val) false (inputEpoch w r') (inputSource w r') (by rw [hwe]; exact hpar)
  have hin : inputEpoch w r' = inputEpoch s r := inputEpoch_frame (r := r') hw (by decide)
  rw [hin] at he hb
  rw [hwe] at hb
  exact ⟨_, p, he, hb, keeps_beginPicture (keeps_State_setEnc (keeps_encCounted s h.val))⟩

end

/-! ## Pictures of held slices (R88 to R90) -/

/-- From record r to record r' the n slices that a keepalive picture p still lacks are held, and it ends. -/
structure HeldOut (r : EncRec) (p : EncPic) (n : Nat) (r' : EncRec) : Prop where
  cur      : r'.cur = none
  keeping  : r'.keeping = r.keeping
  epoch    : r'.epoch = r.epoch
  picCount : r'.picCount = r.picCount
  queue    : ∃ l, r'.queue = r.queue ++ l ∧ l.length = n ∧ ∀ o ∈ l, bit o.sei.flags.toNat 0 = true ∧ bit o.sei.flags.toNat 6 = p.keep
               ∧ o.sei.picEpoch = BitVec.ofNat 64 p.epoch ∧ o.sei.picCount = BitVec.ofNat 32 p.count

theorem holdRest_none {s : State} {h : Nat} (hc : (s.enc h).cur = none) : ∀ n, holdRest n s h = s
  | 0 => rfl
  | n + 1 => by simp [holdRest, hc]

theorem holdRest_succ {s : State} {h : Nat} {p : EncPic} (hc : (s.enc h).cur = some p) (n : Nat) :
    holdRest (n + 1) s h = holdRest n (holdSlice s.fresh.2 h p (s.fresh.1 % 4097)) h := by
  simp [holdRest, hc]

/-- By induction on the slices that are left: each is held, and the last ends the picture. -/
theorem holdRest_holds {h : Nat} (n : Nat) {s : State} {p : EncPic} (hc : (s.enc h).cur = some p) (hn : p.next + (n + 1) = p.slices) :
    HeldOut (s.enc h) p (n + 1) ((holdRest (n + 2) s h).enc h) := by
  rw [holdRest_succ hc]
  induction n generalizing s p with
  | zero =>
    obtain ⟨r, p', o, er, hem⟩ := holdSlice_last s.fresh.2 (h := h) (s.fresh.1 % 4097) hn
    rw [holdRest_none (by rw [er]; rfl), er]
    exact ⟨rfl, hem.keeping, hem.epoch, hem.picCount, [o], hem.queue, rfl, by simpa using ⟨hem.flags.1, hem.flags.2, hem.pic⟩⟩
  | succ n ih =>
    obtain ⟨r, p', o, er, hem⟩ := holdSlice_more s.fresh.2 (h := h) (p := p) (s.fresh.1 % 4097) (by omega)
    set u := holdSlice s.fresh.2 h p (s.fresh.1 % 4097)
    obtain ⟨-, hkeep, hepoch, hcount, hslices, -⟩ := hem.rest
    have hcu : (u.enc h).cur = some p' := by rw [er]; exact hem.cur
    have hl := ih hcu (by rw [hem.next, hslices]; omega)
    rw [← holdRest_succ hcu, er] at hl
    obtain ⟨l, hq, hlen, hall⟩ := hl.queue
    rw [hkeep, hepoch, hcount] at hall
    refine ⟨hl.cur, hl.keeping.trans hem.keeping, hl.epoch.trans hem.epoch, hl.picCount.trans hem.picCount, o :: l, ?_, by simp [hlen],
      List.forall_mem_cons.2 ⟨⟨hem.flags.1, hem.flags.2, hem.pic⟩, hall⟩⟩
    rw [hq]
    change r.queue ++ l = _
    rw [hem.queue, List.append_assoc]
    rfl

/-! ## Keepalive (R90) -/

/-- The stream as a keepalive picture finds it: in keepalive. -/
def enterKeepalive (s : State) (h : Nat) : State :=
  if (s.enc h).keeping then s else encKeepEvent (s.setEnc h { s.enc h with keeping := true }) h true

theorem EncRec.kept {r : EncRec} (hk : r.keeping = true) : { r with keeping := true } = r := by
  cases r
  simp_all

theorem enterKeepalive_enc (s : State) (h : Nat) : (enterKeepalive s h).enc h = { s.enc h with keeping := true } := by
  unfold enterKeepalive
  split
  · next hk => exact (EncRec.kept hk).symm
  · simp

theorem enterKeepalive_raised {s : State} {h : Nat} (hk : (s.enc h).keeping = false) :
    Raised s (enterKeepalive s h) 0x0472 (leBytes 1 h ++ leBytes 1 1 ++ leBytes 4 (s.enc h).picCount) := by
  have e : enterKeepalive s h = (s.setEnc h { s.enc h with keeping := true }).raise 0x0472
      (leBytes 1 h ++ leBytes 1 1 ++ leBytes 4 (s.enc h).picCount) := by
    simp [enterKeepalive, hk, encKeepEvent, b2n]
  rw [e]
  exact raised_raise _ _ (List.suffix_refl _)

theorem keeps_enterKeepalive (s : State) (h : Nat) : Keeps s (enterKeepalive s h) := by
  unfold enterKeepalive
  exact .ite (Keeps.refl s) (keeps_encKeepEvent (keeps_State_setEnc (Keeps.refl s)))

theorem exec_keepalivePicture_idle {s : State} {h : Fin 8} (hp : s.pdOn 6 = true) (hn : (s.enc h.val).open_ = false ∨ (s.enc h.val).keepS = 0
      ∨ (s.enc h.val).expired = true ∨ keepDue s (s.enc h.val) = false) : exec (.keepalivePicture h) s = .next s := by
  have e : exec (.keepalivePicture h) s = .next (doKeepalive s h.val) := congrArg Host.Outcome.next (if_pos hp)
  rw [e, doKeepalive]
  refine congrArg Host.Outcome.next (if_pos ?_)
  rcases hn with hn | hn | hn | hn <;> simp [hn]

/-- A keepalive picture of a stream without a picture under way and without waiting ENC_PARAMS. -/
theorem exec_keepalivePicture {s : State} {h : Fin 8} (hp : s.pdOn 6 = true) (ho : (s.enc h.val).open_ = true)
    (hcl : (s.enc h.val).closing = none) (hk : (s.enc h.val).keepS ≠ 0) (hx : (s.enc h.val).expired = false)
    (hd : keepDue s (s.enc h.val) = true) (hc : (s.enc h.val).cur = none) :
    exec (.keepalivePicture h) s =
      .next (finishEncPicture (beginPicture (enterKeepalive s h.val) h.val true 0 (inputSource (enterKeepalive s h.val) (s.enc h.val))) h.val) := by
  have e : exec (.keepalivePicture h) s = .next (doKeepalive s h.val) := congrArg Host.Outcome.next (if_pos hp)
  rw [e, doKeepalive]
  refine congrArg Host.Outcome.next ((if_neg ?_).trans ?_)
  · simp [ho, hcl, hk, hx, hd]
  · rw [finishEncPicture_none hc]
    rfl

/-- R90: all slices of a keepalive picture are held. -/
theorem exec_keepalivePicture_holds {s : State} {h : Fin 8} (hp : s.pdOn 6 = true) (ho : (s.enc h.val).open_ = true)
    (hcl : (s.enc h.val).closing = none) (hk : (s.enc h.val).keepS ≠ 0) (hx : (s.enc h.val).expired = false)
    (hd : keepDue s (s.enc h.val) = true) (hc : (s.enc h.val).cur = none) (hpar : (s.enc h.val).params = [])
    (hs : 0 < (s.enc h.val).sliceCount) :
    let r := s.enc h.val
    ∃ t r' p, exec (.keepalivePicture h) s = .next t ∧ Keeps (enterKeepalive s h.val) t ∧ Begins { r with keeping := true } true 0 r' p
      ∧ HeldOut r' p r.sliceCount (t.enc h.val) := by
  intro r
  set u := enterKeepalive s h.val
  have hu : u.enc h.val = { r with keeping := true } := enterKeepalive_enc s h.val
  set v := beginPicture u h.val true 0 (inputSource u (s.enc h.val))
  obtain ⟨p, hb⟩ : ∃ p, Begins (u.enc h.val) true 0 (v.enc h.val) p := beginPicture_begins u true 0 _ (by rw [hu]; exact hpar)
  rw [hu] at hb
  obtain ⟨hsl, hnext, -, -⟩ := hb.slices
  obtain ⟨n, hn⟩ : ∃ n, r.sliceCount = n + 1 := Nat.exists_eq_add_one.2 hs
  have hsl' : p.slices = n + 1 := hsl.trans hn
  have hfin : finishEncPicture v h.val = holdRest (n + 2) v h.val := by
    simp [finishEncPicture, hb.cur, hsl']
  refine ⟨_, _, p, exec_keepalivePicture hp ho hcl hk hx hd hc, keeps_finishEncPicture (keeps_beginPicture (Keeps.refl _)), hb, ?_⟩
  rw [hfin, hn]
  exact holdRest_holds n hb.cur (by rw [hsl', hnext, Nat.zero_add])

/-- KEEPALIVE_EXPIRY of a stream in keepalive ends it, with its event; else it changes nothing. -/
theorem exec_keepaliveExpiry {s : State} {h : Fin 8} (hp : s.pdOn 6 = true) :
    exec (.keepaliveExpiry h) s = .next (if (s.enc h.val).keeping then
      (s.setEnc h.val { s.enc h.val with keeping := false, expired := true }).raise 0x0472
        (leBytes 1 h.val ++ leBytes 1 0 ++ leBytes 4 (s.enc h.val).picCount) else s) := by
  have e : exec (.keepaliveExpiry h) s = .next (doKeepExpiry s h.val) := congrArg Host.Outcome.next (if_pos hp)
  rw [e]
  simp [doKeepExpiry, encKeepEvent, b2n]

/-- Settles O19, by what an accepted picture of the input does to its stream, and by what a keepalive picture begins with and holds. -/
theorem encodePicturesStartAndAreKeptAlive : Obligations.EncodePicturesStartAndAreKeptAlive := by
  constructor
  · intro s h hp r e soon takes d
    refine ⟨?idle, ?counts, ?drops, ?starts⟩
    case idle =>
      exact fun hn => exec_encPictureStart_idle hp fun ht => hn ⟨ht.open_, ht.going, ht.live, ht.ready⟩
    case counts =>
      rintro ⟨ho, hg, hl, hr⟩ hk hx hn
      refine ⟨_, exec_encPictureStart_counts hp ⟨ho, hg, hl, hr⟩ hn, ?_⟩
      rw [leaveKeepalive_of_valid hk hx]
      exact ⟨State.enc_setEnc _ _ _, rfl⟩
    case drops =>
      rintro t0 ⟨ho, hg, hl, hr⟩ hn h0 hs
      have hs' : r.soon s.ft.toNat = true := by
        simp only [EncRec.soon, h0]
        exact decide_eq_true hs
      refine ⟨_, exec_encPictureStart_drops hp ⟨ho, hg, hl, hr⟩ hn hs', ?_⟩
      simp only [e, encDrop_enc, encCounted_enc]
      refine ⟨rfl, rfl, h0, ?_⟩
      rw [encDrop_cnt _ _ h.isLt (by simp), encCounted, setEnc_cnt, leaveKeepalive_cnt (not_counted_encReg h.isLt (by simp))]
    case starts =>
      rintro ⟨ho, hg, hl, hr⟩ hn hs hc hpar
      have hs' : r.soon s.ft.toNat = false := by
        unfold EncRec.soon
        split
        · next t0 h0 => exact decide_eq_false (hs t0 h0)
        · rfl
      obtain ⟨t, p, he, hb, hk⟩ := exec_encPictureStart_starts hp ⟨ho, hg, hl, hr⟩ hn hs' hc hpar
      obtain ⟨hidr, hkeep, hepoch, hcount⟩ := hb.type
      obtain ⟨hslices, hnext, hused, hstate⟩ := hb.slices
      obtain ⟨hdrain, hbudget⟩ := hb.budget
      refine ⟨t, he, hb.lastStart, hb.picCount, hb.idr, hb.keeping, hb.expired,
        fun hkp => (leaveKeepalive_raised hkp).later (keeps_leaveKeepalive s h.val).log hk.log,
        p, hb.cur, hidr, hkeep, hstate, hnext, hused, hslices, hcount, hdrain, hbudget, ?_, ?_, hb.mean, hepoch⟩
      · rw [hbudget]
        exact Nat.le_max_left _ _
      · intro ha
        obtain ⟨x, hx⟩ := hb.middle ha
        have hx' : p.qp = ((r.qpMin + r.qpMax + x % 2) / 2 : Nat) := hx
        omega
  · intro s h hp r e
    refine ⟨exec_keepalivePicture_idle hp, ?holds, ?expires, ?ends⟩
    case holds =>
      intro ho hcl hk hx hd hc hpar hs
      obtain ⟨t, r', p, he, hkeeps, hb, hh⟩ := exec_keepalivePicture_holds hp ho hcl hk hx hd hc hpar hs
      obtain ⟨-, hkeep, hepoch, hcount⟩ := hb.type
      obtain ⟨l, hq, hlen, hall⟩ := hh.queue
      rw [hkeep, hepoch, hcount] at hall
      refine ⟨t, he, hh.keeping.trans hb.keeping, hh.cur, (hh.epoch.trans hb.epoch).trans hepoch, hh.picCount.trans hb.picCount,
        fun hkp => (enterKeepalive_raised hkp).later (keeps_enterKeepalive s h.val).log hkeeps.log, l, ?_, hlen, hall⟩
      rw [hq, hb.queue]
    case expires =>
      intro hk
      refine ⟨_, exec_keepaliveExpiry hp, ?_⟩
      rw [if_pos hk]
      simp only [e, raise_enc, State.enc_setEnc, true_and]
      exact raised_raise _ _ (List.suffix_refl _)
    case ends =>
      intro hk
      rw [exec_keepaliveExpiry hp, if_neg (Bool.eq_false_iff.1 hk)]

end Sys2Proof.Machine

/-! SUPPORT. The output of an encode stream: the fabric queue of an engine, and the host buffers of a stream. -/

namespace Sys2Proof

/-- An entry of a table whose entries are mapped by their numbers. -/
theorem Tab.get?_mapWithKey {α β : Type} (t : Tab α) (f : Nat → α → β) (k : Nat) :
    Tab.get? (t.map (fun e => (e.1, f e.1 e.2))) k = (t.get? k).map (f k) := by
  induction t with
  | nil => rfl
  | cons e t ih =>
    obtain ⟨j, v⟩ := e
    by_cases h : k = j
    · simp [Tab.get?, h]
    · simpa [Tab.get?, h] using ih

/-- An entry listed after one was set is that one or was listed before. -/
theorem Tab.mem_set {α : Type} {t : Tab α} {k : Nat} {v : α} {e : Nat × α} (h : e ∈ t.set k v) : e = (k, v) ∨ e ∈ t := by
  induction t with
  | nil => exact .inl (List.mem_singleton.mp h)
  | cons x t ih =>
    obtain ⟨j, w⟩ := x
    unfold Tab.set at h
    split at h
    · exact List.mem_cons.mp h
    · split at h
      · exact (List.mem_cons.mp h).imp id (List.mem_cons_of_mem _)
      · rcases List.mem_cons.mp h with rfl | h
        · exact .inr List.mem_cons_self
        · exact (ih h).imp id (List.mem_cons_of_mem _)

namespace Machine

/-! ## Counters of a stream -/

/-- A drop leaves the other counters of the streams alone. -/
theorem encDrop_cnt_ne (s : State) {h b o : Nat} (reason : Nat) (ho : ¬ Counted o) (hn : o ≠ encReg b h) :
    (encDrop s h reason b).cnt o = s.cnt o := by
  unfold encDrop
  rw [raiseLimited_cnt ho]
  exact State.cnt_bumpBy_ne _ _ _ _ hn

theorem encReg_ne {a b h : Nat} (hab : a ≠ b) : encReg a h ≠ encReg b h := by
  simp only [encReg]
  omega

/-! ## The fabric queue of an engine (R94) -/

theorem slicePackets_length (s : State) (h : Nat) (o : SliceOut) (b : List Byte) : (slicePackets s h o b).length = (b.length + 507) / 508 := by
  simp [slicePackets]

/-- The packets of a slice do not depend on what waits behind it. -/
theorem slicePackets_setQueue (s : State) (h : Nat) (o : SliceOut) (b : List Byte) (q : List SliceOut) :
    slicePackets (s.setEnc h { s.enc h with queue := q }) h o b = slicePackets s h o b := by
  unfold slicePackets
  rw [State.enc_setEnc]
  rfl

theorem foldl_queued_eq_zero {l : List (Nat × EncRec)} {a : Nat} :
    l.foldl (fun a p => a + p.2.queued) a = 0 ↔ a = 0 ∧ ∀ p ∈ l, p.2.queued = 0 := by
  induction l generalizing a with
  | nil => simp
  | cons x l ih => simp [ih, and_assoc]

/-- An engine's fabric queue is empty where none of its streams has bytes there. -/
theorem engQueued_eq_zero {s : State} {e : Nat} : engQueued s e = 0 ↔ ∀ p ∈ s.encs, p.1 / 4 = e → p.2.queued = 0 := by
  rw [engQueued, foldl_queued_eq_zero]
  simp

theorem enc_queued_eq_zero {s : State} {h : Nat} (hq : engQueued s (h / 4) = 0) : (s.enc h).queued = 0 := by
  unfold State.enc Tab.getD
  cases hg : s.encs.get? h with
  | none => rfl
  | some r => exact engQueued_eq_zero.1 hq _ (Tab.mem_of_get? hg) rfl

/-- An empty fabric queue stays empty where a stream's record changes only in other things. -/
theorem engQueued_setEnc {s : State} {h : Nat} {r : EncRec} (hr : r.queued = (s.enc h).queued) (hq : engQueued s (h / 4) = 0) :
    engQueued (s.setEnc h r) (h / 4) = 0 := by
  refine engQueued_eq_zero.2 fun p hp hd => ?_
  rcases Tab.mem_set hp with rfl | hp
  · exact hr.trans (enc_queued_eq_zero hq)
  · exact engQueued_eq_zero.1 hq p hp hd

/-- The count of an engine's queue stands in one stream, and changes nothing else of any. -/
theorem setEngQueued_enc (s : State) (h v k : Nat) : ∃ w, (setEngQueued s h v).enc k = { s.enc k with queued := w } := by
  have e : (setEngQueued s h v).encs.get? k
      = (s.encs.get? k).map (fun r => if k / 4 = h / 4 then { r with queued := if k = h then v else 0 } else r) := by
    rw [← Tab.get?_mapWithKey s.encs (fun j r => if j / 4 = h / 4 then { r with queued := if j = h then v else 0 } else r)]
    refine congrArg (fun t : Tab EncRec => t.get? k) (List.map_congr_left fun p _ => ?_)
    split <;> rfl
  simp only [State.enc, Tab.getD, e]
  cases s.encs.get? k with
  | none => exact ⟨_, rfl⟩
  | some r =>
    dsimp only [Option.map_some, Option.getD_some]
    split <;> exact ⟨_, rfl⟩

@[simp] theorem setEngQueued_cnt (s : State) (h v o : Nat) : (setEngQueued s h v).cnt o = s.cnt o := rfl

theorem routePkts_enc (s : State) (ps : List Packet) (k : Nat) : (ps.foldl (fun s p => s.routePkt none p) s).enc k = s.enc k :=
  (Frame.foldl (m := eventParts) (Frame.refl _ s) fun _ _ hf => frame_State_routePkt (by decide) hf).enc_eq (by decide) k

theorem routePkts_cnt {o : Nat} (ho : ¬ Counted o) (s : State) (ps : List Packet) :
    (ps.foldl (fun s p => s.routePkt none p) s).cnt o = s.cnt o :=
  (CalmOf.foldl (CalmOf.refl (P := Counted) s) fun _ _ hc => calm_State_routePkt counted hc).cnt ho

/-- The stream with the SEQ behind n packets; a free value is used. -/
def seqAdvanced (s : State) (h n : Nat) : State := (s.setEnc h { s.enc h with seq := ((s.enc h).seq + n) % 65536 }).fresh.2

/-- What the engine's queue may hold of earlier slices. -/
theorem sliceFabric_eq (s : State) (h : Nat) (o : SliceOut) (b : List Byte) :
    let ps := slicePackets s h o b
    let size : Nat := ps.foldl (fun a p => a + p.size) 0
    let u := seqAdvanced s h ((b.length + 507) / 508)
    ∃ left, left ≤ engQueued u (h / 4) ∧ sliceFabric s h o b =
      if left + size > 0x100000 then encDrop (setEngQueued u h left) h 1 Reg.STR_ENC_FABDROP_CNT
      else ps.foldl (fun s p => s.routePkt none p) (setEngQueued u h (left + size)) := by
  intro ps size u
  refine ⟨Config.freeNat s.free % (engQueued u (h / 4) + 1), Nat.le_of_lt_succ (Nat.mod_lt _ (Nat.succ_pos _)), ?_⟩
  have e : u = seqAdvanced s h ps.length := by rw [slicePackets_length]
  rw [e]
  rfl

/-- The fabric output of a slice advances SEQ, and changes nothing else of the stream but the count of its engine's queue. -/
theorem sliceFabric_enc (s : State) (h : Nat) (o : SliceOut) (b : List Byte) :
    ∃ w, (sliceFabric s h o b).enc h = { s.enc h with seq := ((s.enc h).seq + (b.length + 507) / 508) % 65536, queued := w } := by
  obtain ⟨left, -, e⟩ := sliceFabric_eq s h o b
  have hu : (seqAdvanced s h ((b.length + 507) / 508)).enc h = { s.enc h with seq := ((s.enc h).seq + (b.length + 507) / 508) % 65536 } :=
    State.enc_setEnc _ _ _
  have hw (v : Nat) : ∃ w, (setEngQueued (seqAdvanced s h ((b.length + 507) / 508)) h v).enc h
      = { s.enc h with seq := ((s.enc h).seq + (b.length + 507) / 508) % 65536, queued := w } := by
    obtain ⟨w, hw⟩ := setEngQueued_enc (seqAdvanced s h ((b.length + 507) / 508)) h v h
    exact ⟨w, by rw [hw, hu]⟩
  rw [e]
  split
  · rw [encDrop_enc]
    exact hw _
  · rw [routePkts_enc]
    exact hw _

section
variable {s : State} {h : Nat} (hh : h < 8) {o : SliceOut} {b : List Byte}
include hh

/-- A slice larger than the engine's queue is dropped and counted. -/
theorem sliceFabric_large (hs : (slicePackets s h o b).foldl (fun a p => a + p.size) 0 > 0x100000) :
    (sliceFabric s h o b).cnt (encReg Reg.STR_ENC_FABDROP_CNT h) = min (s.cnt (encReg Reg.STR_ENC_FABDROP_CNT h) + 1) 0xFFFFFFFF := by
  obtain ⟨left, -, e⟩ := sliceFabric_eq s h o b
  rw [e, if_pos (by omega), encDrop_cnt _ _ hh (by simp)]
  rfl

/-- A slice that the engine's empty queue can hold is sent. -/
theorem sliceFabric_small (hs : (slicePackets s h o b).foldl (fun a p => a + p.size) 0 ≤ 0x100000) (hq : engQueued s (h / 4) = 0) :
    (sliceFabric s h o b).cnt (encReg Reg.STR_ENC_FABDROP_CNT h) = s.cnt (encReg Reg.STR_ENC_FABDROP_CNT h) := by
  obtain ⟨left, hl, e⟩ := sliceFabric_eq s h o b
  have hu : engQueued (seqAdvanced s h ((b.length + 507) / 508)) (h / 4) = 0 := engQueued_setEnc rfl hq
  rw [e, if_neg (by omega), routePkts_cnt (not_counted_encReg hh (by simp))]
  rfl

/-- The fabric output leaves HOSTDROP alone. -/
theorem sliceFabric_hostdrop : (sliceFabric s h o b).cnt (encReg Reg.STR_ENC_HOSTDROP_CNT h) = s.cnt (encReg Reg.STR_ENC_HOSTDROP_CNT h) := by
  have ho : ¬ Counted (encReg Reg.STR_ENC_HOSTDROP_CNT h) := not_counted_encReg hh (by simp)
  obtain ⟨left, -, e⟩ := sliceFabric_eq s h o b
  rw [e]
  split
  · rw [encDrop_cnt_ne _ _ ho (encReg_ne (by decide))]
    rfl
  · rw [routePkts_cnt ho]
    rfl

end

end Machine

end Sys2Proof

/-! SUPPORT. The host buffers of an encode stream, and SLICE_READY. -/

namespace Sys2Proof.Machine

/-! ## What the MPU and the aperture decide (R333, R334) -/

theorem firstDenied_frame {m : List Part} {s t : State} (hf : Frame m s t) (hm : Part.mpu ∉ m) (mid addr len : Nat) :
    firstDenied t mid addr len = firstDenied s mid addr len := by
  have e : t.sys.mpu = s.sys.mpu := hf.keep .mpu hm
  simp only [firstDenied, mpuOk, mpuAllows, mpuCovers, e]

theorem hostInternal_frame {m : List Part} {s t : State} (hf : Frame m s t) (hm : Part.sysCtl ∉ m ∧ Part.otp ∉ m ∧ Part.straps ∉ m) (addr : Nat) :
    t.hostInternal addr = s.hostInternal addr := by
  have hr : t.regs.get? Reg.SYS_APERTURE_HI = s.regs.get? Reg.SYS_APERTURE_HI := hf.keep .sysCtl hm.1 _ (by decide) (by decide)
  have ho : t.otp = s.otp := hf.keep .otp hm.2.1
  have hs : t.straps = s.straps := hf.keep .straps hm.2.2
  simp only [State.hostInternal, State.apertureBase, State.reg, hr, regReset, specialReset, ho, hs]

/-! ## The host buffers (R95) -/

/-- From s to t stream h has at most other buffers, and no counter of a stream has counted. -/
def Flushes (h : Nat) (s t : State) : Prop := (∃ bs, t.enc h = { s.enc h with bufs := bs }) ∧ Calm s t

theorem Flushes.refl (h : Nat) (s : State) : Flushes h s s := ⟨⟨(s.enc h).bufs, rfl⟩, CalmOf.refl s⟩

theorem Flushes.trans {h : Nat} {s t u : State} (hs : Flushes h s t) (ht : Flushes h t u) : Flushes h s u := by
  obtain ⟨⟨_, es⟩, cs⟩ := hs
  obtain ⟨⟨bs, et⟩, ct⟩ := ht
  exact ⟨⟨bs, by rw [et, es]⟩, cs.trans ct⟩

theorem flushes_setBufs (h : Nat) (s : State) (bs : List BufOut) : Flushes h s (s.setEnc h { s.enc h with bufs := bs }) :=
  ⟨⟨bs, State.enc_setEnc _ _ _⟩, (CalmOf.refl s).upd⟩

/-- What changes no stream and is calm. -/
theorem Flushes.of_frame {h : Nat} {m : List Part} {s t : State} (hf : Frame m s t) (hm : Part.encs ∉ m) (hc : Calm s t) : Flushes h s t :=
  ⟨⟨(s.enc h).bufs, hf.enc_eq hm h⟩, hc⟩

theorem flushes_bufDone (h : Nat) (s : State) (b : BufOut) (st : Status) : Flushes h s (bufDone s b st) :=
  .of_frame (frame_bufDone (List.Subset.refl _) (Frame.refl _ s)) (by decide) (calm_State_finishDma (CalmOf.refl s))

theorem calm_hostWriteUnder (s : State) (mid : Nat) (j : Job) (addr : Nat) (data : List Byte) :
    Calm s (hostWriteUnder s mid j addr data).1 := by
  cases hd : firstDenied s mid (s.hostInternal addr) data.length with
  | none =>
    rw [hostWriteUnder_allowed j hd]
    exact calm_State_hostWriteFor (CalmOf.refl s)
  | some d =>
    rw [hostWriteUnder_denied j hd]
    exact calm_State_mpuDeny counted (.ite (CalmOf.refl s) (calm_State_hostWriteFor (CalmOf.refl s)))

theorem flushes_hostWriteUnder (h : Nat) (s : State) (mid : Nat) (j : Job) (addr : Nat) (data : List Byte) :
    Flushes h s (hostWriteUnder s mid j addr data).1 :=
  .of_frame (frame_hostWriteUnder (List.Subset.refl _) (Frame.refl _ s)) (by decide) (calm_hostWriteUnder s mid j addr data)

/-- The part of a record that goes into the first buffer of a stream: the state and how many bytes were moved. -/
def putPart (s : State) (h : Nat) (b : BufOut) (rec_ : List Byte) : State × Nat :=
  let k := min rec_.length (b.job.n 32 4 - b.used)
  if k = 0 then (s, 0) else hostWriteUnder s (0x18 + (s.enc h).engine) b.job (b.job.n 24 8 + b.used) (rec_.take k)

theorem flushes_putPart (s : State) (h : Nat) (b : BufOut) (rec_ : List Byte) : Flushes h s (putPart s h b rec_).1 := by
  unfold putPart
  dsimp only
  split
  · exact Flushes.refl h s
  · exact flushes_hostWriteUnder h s _ _ _ _

/-- A record goes into the first buffer; what it leaves full or denied is done, and the rest goes on in the next. -/
theorem putRecord_cons {s : State} {h : Nat} {f : BufOut} {fs : List BufOut} (n : Nat) (rec_ : List Byte) (hb : (s.enc h).bufs = f :: fs) :
    let k := min rec_.length (f.job.n 32 4 - f.used)
    let u := (putPart s h f rec_).1
    let g : BufOut := { f with used := f.used + (putPart s h f rec_).2 }
    let v := u.setEnc h { u.enc h with bufs := fs }
    putRecord (n + 1) s h rec_ =
      if (putPart s h f rec_).2 < k then bufDone v g .denied
      else if g.used = f.job.n 32 4 then putRecord n (bufDone v g .done) h (rec_.drop k)
      else u.setEnc h { u.enc h with bufs := g :: fs } := by
  rw [putRecord]
  simp only [hb]
  rfl

/-- By induction on the buffers that may be filled. -/
theorem flushes_putRecord (n : Nat) (s : State) (h : Nat) (rec_ : List Byte) : Flushes h s (putRecord n s h rec_) := by
  induction n generalizing s rec_ with
  | zero => exact Flushes.refl h s
  | succ n ih =>
    cases hb : (s.enc h).bufs with
    | nil =>
      rw [putRecord]
      simp only [hb]
      exact Flushes.refl h s
    | cons f fs =>
      rw [putRecord_cons n rec_ hb]
      refine (flushes_putPart s h f rec_).trans ?_
      split
      · exact (flushes_setBufs h _ fs).trans (flushes_bufDone h _ _ _)
      · split
        · exact ((flushes_setBufs h _ fs).trans (flushes_bufDone h _ _ _)).trans (ih _ _)
        · exact flushes_setBufs h _ _

/-- A record that does not fill the first buffer stands in it, where no write is denied. -/
theorem putRecord_first {s : State} {h : Nat} {f : BufOut} {fs : List BufOut} (n : Nat) {rec_ : List Byte} (hb : (s.enc h).bufs = f :: fs)
    (hl : f.used + rec_.length < f.job.n 32 4)
    (hd : firstDenied s (0x18 + (s.enc h).engine) (s.hostInternal (f.job.n 24 8 + f.used)) rec_.length = none) :
    (putRecord (n + 1) s h rec_).enc h = { s.enc h with bufs := { f with used := f.used + rec_.length } :: fs } := by
  have hk : min rec_.length (f.job.n 32 4 - f.used) = rec_.length := by omega
  have hm : (putPart s h f rec_).2 = rec_.length := by
    unfold putPart
    dsimp only
    rw [hk, List.take_length]
    split
    · next h0 => exact h0.symm
    · rw [hostWriteUnder_allowed _ hd]
  obtain ⟨⟨_, e⟩, -⟩ := flushes_putPart s h f rec_
  rw [putRecord_cons n rec_ hb, hk, hm, if_neg (lt_irrefl _), if_neg (Nat.ne_of_lt hl), State.enc_setEnc, e]

/-! ## The record of a slice (R95) -/

/-- The record of a slice for the host. -/
def sliceRecord (r : EncRec) (o : SliceOut) (b : List Byte) : List Byte :=
  let fl := o.sei.flags.toNat
  leBytes 4 b.length ++ leBytes 1 (b2n (bit fl 2) + 2 * b2n (bit fl 3) + 4 * b2n (bit fl 0) + 8 * b2n r.discont)
    ++ [o.sei.slice] ++ leBytes 2 0 ++ leBytes 8 o.sei.bandEpoch.toNat ++ b ++ List.replicate ((16 - b.length % 16) % 16) 0

theorem sliceRecord_length (r : EncRec) (o : SliceOut) (b : List Byte) :
    (sliceRecord r o b).length = 16 + b.length + (16 - b.length % 16) % 16 := by
  simp only [sliceRecord, List.length_append, leBytes_length, List.length_singleton, List.length_replicate]

/-- The room of the first buffer is part of the room of all. -/
theorem bufRoom_first (f : BufOut) (fs : List BufOut) : f.job.n 32 4 - f.used ≤ bufRoom (f :: fs) := by
  have grows : ∀ (bs : List BufOut) (a : Nat), a ≤ bs.foldl (fun a b => a + (b.job.n 32 4 - b.used)) a := fun bs => by
    induction bs with
    | nil => exact fun a => le_refl a
    | cons b bs ih => exact fun a => (Nat.le_add_right _ _).trans (ih _)
  simpa [bufRoom] using grows fs (0 + (f.job.n 32 4 - f.used))

/-- The record goes into the buffers, or is left out where they have no room for it. -/
def storeRecord (s : State) (h : Nat) (rec_ : List Byte) : State :=
  if rec_.length > bufRoom (s.enc h).bufs then encDrop (s.setEnc h { s.enc h with discont := true }) h 2 Reg.STR_ENC_HOSTDROP_CNT
  else putRecord ((s.enc h).bufs.length + 1) (s.setEnc h { s.enc h with discont := false }) h rec_

/-- The first buffer completes, where it is to after a slice or after the last slice of a picture. -/
def flushBuf (s : State) (h : Nat) (last : Bool) : State :=
  match (s.enc h).bufs with
  | f :: fs =>
    if f.used ≠ 0 ∧ (f.job.n 17 1 = 2 ∨ (f.job.n 17 1 = 1 ∧ last)) then bufDone (s.setEnc h { s.enc h with bufs := fs }) f .done else s
  | [] => s

theorem sliceHost_eq (s : State) (h : Nat) (o : SliceOut) (b : List Byte) :
    sliceHost s h o b = flushBuf (storeRecord s h (sliceRecord (s.enc h) o b)) h (bit o.sei.flags.toNat 3) := rfl

theorem flushes_flushBuf (s : State) (h : Nat) (last : Bool) : Flushes h s (flushBuf s h last) := by
  unfold flushBuf
  split
  · split
    · exact (flushes_setBufs h s _).trans (flushes_bufDone h _ _ _)
    · exact Flushes.refl h s
  · exact Flushes.refl h s

/-- A record that is left out. -/
theorem storeRecord_large {s : State} {h : Nat} {rec_ : List Byte} (hl : rec_.length > bufRoom (s.enc h).bufs) :
    storeRecord s h rec_ = encDrop (s.setEnc h { s.enc h with discont := true }) h 2 Reg.STR_ENC_HOSTDROP_CNT := if_pos hl

/-- A record that goes into the buffers. -/
theorem storeRecord_fits {s : State} {h : Nat} {rec_ : List Byte} (hl : rec_.length ≤ bufRoom (s.enc h).bufs) :
    storeRecord s h rec_ = putRecord ((s.enc h).bufs.length + 1) (s.setEnc h { s.enc h with discont := false }) h rec_ :=
  if_neg (Nat.not_lt.2 hl)

/-- The host output of a slice changes of its stream the buffers and the discontinuity. -/
theorem sliceHost_enc (s : State) (h : Nat) (o : SliceOut) (b : List Byte) :
    ∃ bs d, (sliceHost s h o b).enc h = { s.enc h with bufs := bs, discont := d } := by
  obtain ⟨⟨bs, e⟩, -⟩ := flushes_flushBuf (storeRecord s h (sliceRecord (s.enc h) o b)) h (bit o.sei.flags.toNat 3)
  rw [sliceHost_eq, e]
  rcases Nat.lt_or_ge (bufRoom (s.enc h).bufs) (sliceRecord (s.enc h) o b).length with hl | hl
  · rw [storeRecord_large hl, encDrop_enc, State.enc_setEnc]
    exact ⟨bs, _, rfl⟩
  · rw [storeRecord_fits hl]
    obtain ⟨⟨_, e'⟩, -⟩ := flushes_putRecord ((s.enc h).bufs.length + 1) (s.setEnc h { s.enc h with discont := false }) h
      (sliceRecord (s.enc h) o b)
    rw [e', State.enc_setEnc]
    exact ⟨bs, _, rfl⟩

section
variable {s : State} {h : Nat} {o : SliceOut} {b : List Byte}

/-- The host output leaves FABDROP alone. -/
theorem sliceHost_fabdrop (hh : h < 8) : (sliceHost s h o b).cnt (encReg Reg.STR_ENC_FABDROP_CNT h) = s.cnt (encReg Reg.STR_ENC_FABDROP_CNT h) := by
  have ho : ¬ Counted (encReg Reg.STR_ENC_FABDROP_CNT h) := not_counted_encReg hh (by simp)
  rw [sliceHost_eq, (flushes_flushBuf _ h _).2.cnt ho]
  rcases Nat.lt_or_ge (bufRoom (s.enc h).bufs) (sliceRecord (s.enc h) o b).length with hl | hl
  · rw [storeRecord_large hl, encDrop_cnt_ne _ _ ho (encReg_ne (by decide)), setEnc_cnt]
  · rw [storeRecord_fits hl, (flushes_putRecord _ _ h _).2.cnt ho, setEnc_cnt]

/-- A record too large for the buffers is left out and counted. -/
theorem sliceHost_large (hh : h < 8) (hl : (sliceRecord (s.enc h) o b).length > bufRoom (s.enc h).bufs) :
    ((sliceHost s h o b).enc h).discont = true
      ∧ (sliceHost s h o b).cnt (encReg Reg.STR_ENC_HOSTDROP_CNT h) = min (s.cnt (encReg Reg.STR_ENC_HOSTDROP_CNT h) + 1) 0xFFFFFFFF := by
  obtain ⟨⟨bs, e⟩, hc⟩ := flushes_flushBuf (storeRecord s h (sliceRecord (s.enc h) o b)) h (bit o.sei.flags.toNat 3)
  rw [sliceHost_eq, e, hc.cnt (not_counted_encReg hh (by simp)), storeRecord_large hl, encDrop_enc, State.enc_setEnc,
    encDrop_cnt _ _ hh (by simp), setEnc_cnt]
  exact ⟨rfl, rfl⟩

/-- A record that does not fill the first buffer stands in it, where the buffer does not complete early and no write is denied. -/
theorem sliceHost_first {f : BufOut} {fs : List BufOut} {n : Nat} (hn : (sliceRecord (s.enc h) o b).length = n) (hb : (s.enc h).bufs = f :: fs)
    (hl : f.used + n < f.job.n 32 4) (hf : f.job.n 17 1 = 0)
    (hd : firstDenied s (0x18 + (s.enc h).engine) (s.hostInternal (f.job.n 24 8 + f.used)) n = none) :
    (sliceHost s h o b).enc h = { s.enc h with bufs := { f with used := f.used + n } :: fs, discont := false } := by
  subst hn
  have hroom : (sliceRecord (s.enc h) o b).length ≤ bufRoom (s.enc h).bufs := by
    have := bufRoom_first f fs
    rw [hb]
    omega
  have hu : (s.setEnc h { s.enc h with discont := false }).enc h = { s.enc h with discont := false } := State.enc_setEnc _ _ _
  have e : (storeRecord s h (sliceRecord (s.enc h) o b)).enc h
      = { s.enc h with bufs := { f with used := f.used + (sliceRecord (s.enc h) o b).length } :: fs, discont := false } := by
    rw [storeRecord_fits hroom, putRecord_first _ (by rw [hu]; exact hb) hl (by rw [hu]; exact hd), hu]
  rw [sliceHost_eq, flushBuf]
  simp only [e]
  rw [if_neg (by simp [hf]), e]

end

/-! ## SLICE_READY (R92 to R95) -/

/-- The stream without its oldest slice, whose packets have gone out where the stream has fabric output. -/
def sliceSent (s : State) (h : Nat) (o : SliceOut) (q : List SliceOut) (b : List Byte) : State :=
  let u := s.setEnc h { s.enc h with queue := q }
  if bit (s.enc h).out 0 then sliceFabric u h o b else u

/-- The slice has left, with its record where the stream has host output. -/
def sliceLeft (s : State) (h : Nat) (o : SliceOut) (q : List SliceOut) (b : List Byte) : State :=
  let u := sliceSent s h o q b
  if bit (s.enc h).out 1 then sliceHost u h o b else u

theorem sliceSent_enc (s : State) (h : Nat) (o : SliceOut) (q : List SliceOut) (b : List Byte) :
    ∃ w, (sliceSent s h o q b).enc h = { s.enc h with
      queue := q, seq := if bit (s.enc h).out 0 then ((s.enc h).seq + (b.length + 507) / 508) % 65536 else (s.enc h).seq, queued := w } := by
  unfold sliceSent
  dsimp only
  split
  · obtain ⟨w, e⟩ := sliceFabric_enc (s.setEnc h { s.enc h with queue := q }) h o b
    exact ⟨w, by rw [e, State.enc_setEnc]⟩
  · exact ⟨_, State.enc_setEnc _ _ _⟩

theorem frame_sliceSent (s : State) (h : Nat) (o : SliceOut) (q : List SliceOut) (b : List Byte) :
    Frame (.encs :: .free :: eventParts) s (sliceSent s h o q b) := by
  have hu : Frame (.encs :: .free :: eventParts) s (s.setEnc h { s.enc h with queue := q }) := frame_State_setEnc (by decide) (Frame.refl _ s)
  unfold sliceSent
  exact .ite (frame_sliceFabric (by decide) hu) hu

theorem sliceLeft_enc (s : State) (h : Nat) (o : SliceOut) (q : List SliceOut) (b : List Byte) :
    ∃ bs d, (sliceLeft s h o q b).enc h = { (sliceSent s h o q b).enc h with bufs := bs, discont := d } := by
  unfold sliceLeft
  dsimp only
  split
  · exact sliceHost_enc _ _ _ _
  · exact ⟨_, _, rfl⟩

theorem exec_sliceReady {s : State} {h : Fin 8} {params nal : List Byte} {o : SliceOut} {q : List SliceOut} (hp : s.pdOn 6 = true)
    (hq : (s.enc h.val).queue = o :: q) (hc : (s.enc h.val).closing = none) :
    exec (.sliceReady h params nal) s = .next (sliceLeft s h.val o q (sliceBytes o params nal)) := by
  have e : exec (.sliceReady h params nal) s = .next (doSliceReady s h.val params nal) := congrArg Host.Outcome.next (if_pos hp)
  have hcl : ((sliceLeft s h.val o q (sliceBytes o params nal)).enc h.val).closing = none := by
    obtain ⟨bs, d, e1⟩ := sliceLeft_enc s h.val o q (sliceBytes o params nal)
    obtain ⟨w, e2⟩ := sliceSent_enc s h.val o q (sliceBytes o params nal)
    rw [e1, e2]
    exact hc
  rw [e, doSliceReady]
  simp only [hq]
  exact congrArg Host.Outcome.next (settleEncClose_open hcl)

section
variable {s : State} {h : Fin 8} {o : SliceOut} {q : List SliceOut} {b : List Byte}

/-- A counter of a stream that the host output does not count. -/
theorem sliceLeft_fabdrop : (sliceLeft s h.val o q b).cnt (encReg Reg.STR_ENC_FABDROP_CNT h.val)
    = (sliceSent s h.val o q b).cnt (encReg Reg.STR_ENC_FABDROP_CNT h.val) := by
  unfold sliceLeft
  dsimp only
  split
  · exact sliceHost_fabdrop h.isLt
  · rfl

theorem sliceSent_hostdrop : (sliceSent s h.val o q b).cnt (encReg Reg.STR_ENC_HOSTDROP_CNT h.val)
    = s.cnt (encReg Reg.STR_ENC_HOSTDROP_CNT h.val) := by
  unfold sliceSent
  dsimp only
  split
  · exact sliceFabric_hostdrop h.isLt
  · rfl

end

/-- Settles O21, by what the fabric output and then the host output of the oldest slice leave of its stream and of its counters. -/
theorem slicesLeave : Obligations.SlicesLeave := by
  intro s h params nal o q hp r e b size recLen
  constructor
  · intro hq
    have he : exec (.sliceReady h params nal) s = .next (doSliceReady s h.val params nal) := congrArg Host.Outcome.next (if_pos hp)
    rw [he, doSliceReady]
    simp only [show (s.enc h.val).queue = [] from hq]
  · intro hq hc
    obtain ⟨bs, d, e1⟩ := sliceLeft_enc s h.val o q b
    obtain ⟨w, e2⟩ := sliceSent_enc s h.val o q b
    have hlen (r' : EncRec) : (sliceRecord r' o b).length = recLen := sliceRecord_length r' o b
    have hsize : (slicePackets (s.setEnc h.val { s.enc h.val with queue := q }) h.val o b).foldl (fun a p => a + p.size) 0 = size := by
      rw [slicePackets_setQueue]
    have hsent (h0 : bit r.out 0 = true) : sliceSent s h.val o q b = sliceFabric (s.setEnc h.val { s.enc h.val with queue := q }) h.val o b :=
      if_pos h0
    have hleft (h1 : bit r.out 1 = true) : sliceLeft s h.val o q b = sliceHost (sliceSent s h.val o q b) h.val o b := if_pos h1
    refine ⟨sliceLeft s h.val o q b, exec_sliceReady hp hq hc, ?queue, ?cur, ?advanced, ?kept, ?dropped, ?sent, ?leftOut, ?noHost, ?first⟩
    case queue => simp only [e, e1, e2]
    case cur => simp only [e, e1, e2, r]
    case advanced =>
      intro h0
      simp only [e, e1, e2]
      exact if_pos h0
    case kept =>
      intro h0
      simp only [e, e1, e2]
      exact if_neg (Bool.eq_false_iff.1 h0)
    case dropped =>
      intro h0 hs
      rw [sliceLeft_fabdrop, hsent h0, sliceFabric_large h.isLt (by rwa [hsize]), setEnc_cnt]
    case sent =>
      intro h0 hs hz
      have hq0 := engQueued_setEnc (r := { s.enc h.val with queue := q }) rfl hz
      rw [sliceLeft_fabdrop, hsent h0, sliceFabric_small h.isLt (by rwa [hsize]) hq0, setEnc_cnt]
    case leftOut =>
      intro h1 hl
      obtain ⟨hd, hn⟩ := sliceHost_large (s := sliceSent s h.val o q b) (o := o) (b := b) h.isLt (by rw [hlen, e2]; exact hl)
      rw [sliceSent_hostdrop] at hn
      rw [hleft h1]
      exact ⟨hd, hn⟩
    case noHost =>
      intro h1
      have hl : sliceLeft s h.val o q b = sliceSent s h.val o q b := if_neg (Bool.eq_false_iff.1 h1)
      simp only [e, hl, e2, r]
    case first =>
      intro f fs h1 hb hl hf hd
      have hfr := frame_sliceSent s h.val o q b
      rw [hleft h1]
      simp only [e]
      rw [sliceHost_first (hlen _) (by rw [e2]; exact hb) hl hf]
      · exact ⟨rfl, rfl⟩
      · rw [firstDenied_frame hfr (by decide), hostInternal_frame hfr (by decide), e2]
        exact hd

end Sys2Proof.Machine

/-! SUPPORT. CAPTURE_CFG on a claimed device: the unit that it wakes drives HPD while the command waits. -/

namespace Sys2Proof.Machine

/-- An enabled port while PD8 is off: its HPD is low. -/
def darkPort : CapRec := { CapRec.init with enabled := true }

/-- A claimed device behind a gateway, its MPU open, PD8 off, and the unit of its enabled port 0 gated. -/
def darkDevice : State :=
  { State.reset with
    sys := { State.reset.sys with
      mode := .active, ready := 2 ^ 45 - 2, power := { State.reset.sys.power with on := 0x2FF, gated := [.cw 0] }
      mpu := [(0, { en := true, lock := false, base := 0, lim := 0xFEFFFFF, mask := BitVec.ofNat 64 (2 ^ 64 - 1) })] }
    fab := { State.reset.fab with domain := 2, claimed := true }
    caps := [(0, darkPort)] }

/-- CAPTURE_CFG in its EDID form for port 0: EDID_ONLY, 128 bytes at host address 64. -/
def edidCfg : Cmd := { pf := 0, sq := 0, desc := BitVec.ofNat 512 (0x28 + 1 * 2 ^ (8 * 22) + 128 * 2 ^ (8 * 24) + 64 * 2 ^ (8 * 32)) }

theorem edidCfg_starts : Starts darkDevice (.captureCfg edidCfg []) edidCfg := by
  unfold Starts
  decide +kernel

theorem edidCfg_admitted : Admits darkDevice edidCfg captureCfgSpec := by
  unfold Admits
  decide +kernel

/-- The command asks for its EDID and waits; then the wake of busy units (R388) ungates the capture unit, PD8 goes on with it, and the port's
HPD goes high. -/
theorem edidCfg_raises_hpd :
    ((gate darkDevice (.captureCfg edidCfg []) edidCfg (fun s j => wakeBusy (doCaptureCfg s j []))).cap 0).hpd = true := by
  decide +kernel

/-- Refutes O17: the clause for a claimed device says that a CAPTURE_CFG which waits for its EDID leaves its port as it was, but on darkDevice
the command wakes the gated unit of the enabled port, PD8 with it, and the HPD of that port, low before, is high after. -/
theorem not_capturePortsAreConfiguredAndTrain : ¬ Obligations.CapturePortsAreConfiguredAndTrain := by
  intro hall
  obtain ⟨-, -, hwaits, -⟩ := hall.1 darkDevice edidCfg [] edidCfg_starts edidCfg_admitted
  have hport : edidCfg.job.n 16 1 = 0 := by decide +kernel
  have hform : bit (edidCfg.job.n 22 1) 0 = true := by decide +kernel
  obtain ⟨t, he, -, hcap, -⟩ := hwaits (.inl hform) (by decide +kernel) rfl
  rw [hport] at hcap
  have ht : gate darkDevice (.captureCfg edidCfg []) edidCfg (fun s j => wakeBusy (doCaptureCfg s j [])) = t := Host.Outcome.next.inj he
  have hlow : (darkDevice.cap 0).hpd = false := rfl
  have hhigh : (darkDevice.cap 0).hpd = true := by rw [← hcap, ← ht]; exact edidCfg_raises_hpd
  exact Bool.false_ne_true (hlow.symm.trans hhigh)

end Sys2Proof.Machine

/-! SUPPORT. The claim of a device whose MPU denies MGMT the register of the claim. -/

namespace Sys2Proof.Machine

/-- A claim that the MPU denies is captured and changes nothing of the device's domain (R334, R338). -/
theorem domainClaim_denied {s : State} (priv : Bool) (d : BitVec 10) (v : U32) (hp : s.pdOn 9 = true)
    (hm : mpuOk s 0x39 (regSpace + Reg.FAB_DOMAIN) 4 = false) :
    ∃ t, exec (.domainClaim priv d v) s = .next t ∧ t.fab.claimed = s.fab.claimed ∧ t.fab.domain = s.fab.domain := by
  have e : exec (.domainClaim priv d v) s = .next (s.mpuDeny 0x39 (regSpace + Reg.FAB_DOMAIN) 4 true) := by
    show Host.Outcome.next (onDomain s 9 fun s => (domainRequest s priv d.toNat v.toNat).1) = _
    simp [onDomain, hp, domainRequest, hm]
  obtain ⟨hdom, hclaimed, -⟩ : same .domain s (s.mpuDeny 0x39 (regSpace + Reg.FAB_DOMAIN) 4 true) :=
    (frame_State_mpuDeny (List.Subset.refl _) (Frame.refl _ s)).keep .domain (by decide)
  exact ⟨_, e, hclaimed, hdom⟩

/-- An unclaimed device whose fabric is powered, with an enabled region over the page of FAB_DOMAIN that names no master. -/
def shutDevice : State :=
  { State.reset with
    sys := { State.reset.sys with
      power := { State.reset.sys.power with on := 0x205 }
      mpu := [(0, { en := true, lock := false, base := 0xFF00C40, lim := 0xFF00C40, mask := 0 })] } }

/-- Refutes O50: a privileged request of a domain claims an unclaimed device only where its MPU lets MGMT write FAB_DOMAIN; on shutDevice the
write is denied (R334), and the device stays unclaimed. -/
theorem not_theFabricIsConfigured : ¬ Obligations.TheFabricIsConfigured := by
  intro h
  have hdenied : mpuOk shutDevice 0x39 (regSpace + Reg.FAB_DOMAIN) 4 = false := by decide
  obtain ⟨t, ht, hclaimed, -⟩ := (h.1 shutDevice 2 0x10000 (by decide) (by decide)).1 (by decide) (by decide) (by decide)
  obtain ⟨u, hu, hstays, -⟩ := domainClaim_denied true 2 0x10000 (by decide) hdenied
  have htu : t = u := Host.Outcome.next.inj (ht.symm.trans hu)
  rw [htu, hstays] at hclaimed
  exact Bool.false_ne_true hclaimed

end Sys2Proof.Machine

/-! SUPPORT. What a link keeps while packets go out on it, said once for each operation: all of its record but what its transmitter counts and holds. -/

namespace Sys2Proof.Machine

/-! ## The record of a link without its transmit side (R107 to R116) -/

/-- The record of a link without its packets, their counts and its Tephra block. -/
def LinkRec.trained (r : LinkRec) : LinkRec :=
  { r with cur := none, cutFrom := none, queue := [], txPkts := 0, tephra := LinkRec.init.tephra }

/-- Every link keeps its training, its peer, its receiver and its SKPs. -/
def TrainKept (s t : State) : Prop := ∀ k, (t.link k).trained = (s.link k).trained

theorem TrainKept.refl (s : State) : TrainKept s s := fun _ => rfl

theorem TrainKept.trans {s t u : State} (h : TrainKept s t) (k : TrainKept t u) : TrainKept s u := fun l => (k l).trans (h l)

/-- A field that the transmit side does not hold stays. -/
theorem TrainKept.field {s t : State} (h : TrainKept s t) {α : Type} (f : LinkRec → α) (l : Nat)
    (hf : ∀ r : LinkRec, f r.trained = f r := by intro; rfl) : f (t.link l) = f (s.link l) :=
  ((hf _).symm.trans (congrArg f (h l))).trans (hf _)

/-- Operations that leave the table of links alone. -/
theorem TrainKept.of_links {s t : State} (h : t.fab.links = s.fab.links) : TrainKept s t := fun k => by simp only [State.link, h]

theorem TrainKept.of_frame {m : List Part} {s t : State} (h : Frame m s t) (hm : Part.links ∉ m) : TrainKept s t :=
  .of_links (h.keep .links hm)

theorem TrainKept.foldl {α : Type} {f : State → α → State} (h : ∀ u a, TrainKept u (f u a)) (xs : List α) (s : State) :
    TrainKept s (xs.foldl f s) := by
  induction xs generalizing s with
  | nil => exact .refl s
  | cons x xs ih => exact (h s x).trans (ih _)

theorem TrainKept.ite {s a b : State} {c : Prop} [Decidable c] (ha : TrainKept s a) (hb : TrainKept s b) : TrainKept s (if c then a else b) := by
  split <;> assumption

/-- A record that differs from the one of its link in the transmit side takes its place. -/
theorem trainKept_setLink {s : State} {l : Nat} {r : LinkRec} (h : r.trained = (s.link l).trained) : TrainKept s (s.setLink l r) := fun k => by
  by_cases hk : k = l
  · subst hk
    rw [State.link_setLink]
    exact h
  · rw [State.link_setLink_ne _ _ _ _ hk]

/-- A change behind others that leaves the table of links alone. -/
theorem TrainKept.upd {s t u : State} (h : TrainKept s t) (e : u.fab.links = t.fab.links := by rfl) : TrainKept s u := h.trans (.of_links e)

theorem trainKept_departs (s : State) (l : Nat) (p : Packet) : TrainKept s (departs s l p) :=
  .of_frame (m := [.out, .exch]) (frame_departs (List.Subset.refl _) (Frame.refl _ s)) (by decide)

theorem trainKept_sendOn (s : State) (l : Nat) (p : Packet) (crc : U32) : TrainKept s (sendOn s l p crc) :=
  (trainKept_setLink (s := s) (l := l) (r := { s.link l with cur := some p, txPkts := (s.link l).txPkts + 1 }) rfl).trans (.of_links rfl)

section
/- The packet operations are given how they raise events: a way of raising that keeps the links makes them keep the links too. -/
variable {rz : State → Nat → List Byte → State} (hr : ∀ u code data, TrainKept u (rz u code data))
include hr

theorem trainKept_tephraCount (s : State) (l : Nat) : TrainKept s (tephraCount rz s l) := by
  unfold tephraCount
  extract_lets -merge -underBinder +onlyGivenNames r x t v
  have hv : TrainKept s v := (trainKept_setLink (s := s) (l := l) (r := { r with tephra := t }) rfl).upd
  refine .ite ?_ hv
  extract_lets -merge -underBinder +onlyGivenNames act x w
  have hw : TrainKept v w := trainKept_setLink rfl
  exact (hv.trans hw).trans (hr w _ _)

theorem trainKept_startNext (n : Nat) (s : State) (l : Nat) : TrainKept s (startNext rz n s l) := by
  induction n generalizing s with
  | zero => exact .refl s
  | succ n ih =>
    have sends : ∀ (u : State) (p q : Packet) (crc : U32), TrainKept s u → TrainKept s (sendOn (departs u l p) l q crc) :=
      fun u p q crc h => h.trans ((trainKept_departs u l p).trans (trainKept_sendOn _ _ _ _))
    have faults : ∀ (u : State) (p q : Packet) (crc : U32), TrainKept s u → TrainKept s (tephraCount rz (sendOn (departs u l p) l q crc) l) :=
      fun u p q crc h => (sends u p q crc h).trans (trainKept_tephraCount hr _ _)
    have again : ∀ u : State, TrainKept s u → TrainKept s (startNext rz n (tephraCount rz u l) l) :=
      fun u h => h.trans ((trainKept_tephraCount hr u l).trans (ih _))
    rw [startNext]
    refine .ite (.refl s) ?_
    split
    · exact sends _ _ _ _ (trainKept_setLink rfl)
    split
    · exact .refl s
    extract_lets -merge -underBinder +onlyGivenNames r
    split
    next hit t _ =>
    have hs : TrainKept s (s.setLink l { r with tephra := t }) := trainKept_setLink rfl
    have hs2 : ∀ t', TrainKept s ((s.setLink l { r with tephra := t }).setLink l
        { (s.setLink l { r with tephra := t }).link l with tephra := t' }) := fun _ => hs.trans (trainKept_setLink rfl)
    refine .ite ?_ (sends _ _ _ _ (hs2 _))
    split
    · exact again _ hs
    · exact .ite (faults _ _ _ _ hs) (faults _ _ _ _ hs)
    · exact again _ (hs2 _)
    · exact hs.trans (trainKept_sendOn _ _ _ _)

theorem trainKept_fabDrop (s : State) (reason cls count : Nat) : TrainKept s (fabDrop rz s reason cls count) := by
  unfold fabDrop
  extract_lets -merge -underBinder +onlyGivenNames key
  exact .ite ((TrainKept.of_links (t := s.rateMark key) rfl).trans (hr _ _ _)) (.refl s)

/-- A drop, counted and told. -/
theorem trainKept_drop (s : State) (off reason cls count : Nat) : TrainKept s (fabDrop rz (s.bump off) reason cls count) :=
  (TrainKept.of_links (t := s.bump off) rfl).trans (trainKept_fabDrop hr _ _ _ _)

theorem trainKept_enqueue (s : State) (l : Nat) (p : Packet) : TrainKept s (enqueue rz s l p) := by
  unfold enqueue
  extract_lets -merge -underBinder +onlyGivenNames r used
  have hq : TrainKept s (s.setLink l { r with queue := r.queue ++ [p] }) := trainKept_setLink rfl
  exact .ite (hq.trans (trainKept_startNext hr _ _ l)) (trainKept_drop hr _ _ _ _ _)

theorem trainKept_deliverAlias (s : State) (p : Packet) : TrainKept s (deliverAlias rz s p) := by
  unfold deliverAlias
  exact .ite (.ite (.of_links rfl) (.of_links rfl)) (trainKept_drop hr _ _ _ _ _)

theorem trainKept_passOn (s : State) (src : Option Nat) (l : Nat) (p : Packet) : TrainKept s (passOn rz s src l p) := by
  unfold passOn
  extract_lets -merge -underBinder +onlyGivenNames idle u
  have h : TrainKept s u := trainKept_enqueue hr s l p
  exact .ite (h.trans (trainKept_setLink rfl)) h

theorem trainKept_routeDirected (s : State) (src : Option Nat) (p : Packet) : TrainKept s (routeDirected rz s src p) := by
  unfold routeDirected
  extract_lets -merge -underBinder +onlyGivenNames n k
  refine .ite ?_ (.of_links rfl)
  extract_lets -merge -underBinder +onlyGivenNames e
  exact .ite (trainKept_passOn hr _ _ _ _) (trainKept_drop hr _ _ _ _ _)

theorem trainKept_forward (s : State) (src : Option Nat) (l : Nat) (p : Packet) : TrainKept s (forward rz s src l p) := by
  unfold forward
  exact .ite (trainKept_passOn hr _ _ _ _) (trainKept_drop hr _ _ _ _ _)

theorem trainKept_routeWith (s : State) (src : Option Nat) (p : Packet) : TrainKept s (routeWith rz s src p) := by
  unfold routeWith
  split
  · exact trainKept_drop hr _ _ _ _ _
  extract_lets -merge -underBinder +onlyGivenNames q
  refine .ite (trainKept_drop hr _ _ _ _ _) (.ite (.of_links rfl) ?_)
  split
  · refine .ite (trainKept_routeDirected hr _ _ _) ?_
    split <;> exact .of_links rfl
  split
  · extract_lets -merge -underBinder +onlyGivenNames g u
    have h : TrainKept s u := TrainKept.foldl (fun v l => .ite (trainKept_forward hr _ _ _ _) (.refl v)) _ s
    exact .ite (h.trans (.of_links rfl)) h
  refine .ite (trainKept_deliverAlias hr _ _) (.ite (.of_links rfl) (.ite (trainKept_drop hr _ _ _ _ _) ?_))
  extract_lets -merge -underBinder +onlyGivenNames e
  exact .ite (.of_links rfl) (.ite (trainKept_forward hr _ _ _ _) (trainKept_drop hr _ _ _ _ _))

theorem trainKept_sendRecord (s : State) (seq : Nat) (evr : List Byte) : TrainKept s (sendRecord rz s seq evr) := by
  unfold sendRecord
  exact .ite (.of_frame (m := [.rings, .regs, .out, .irq]) (frame_evqDeliver (List.Subset.refl _) (Frame.refl _ s)) (by decide))
    (.ite (trainKept_routeWith hr _ _ _) (.refl s))

end

theorem trainKept_raiseN (n : Nat) (s : State) (code : Nat) (data : List Byte) : TrainKept s (raiseN n s code data) := by
  induction n generalizing s code data with
  | zero => exact .of_links rfl
  | succ n ih =>
    have h : TrainKept s (noted s code data) := .of_links rfl
    obtain ⟨d, e⟩ | ⟨seq, evr, e⟩ := raiseN_cases n s code data <;> rw [e]
    · exact h.trans (.of_links rfl)
    · exact h.trans (trainKept_sendRecord ih _ _ _)

theorem trainKept_raise (s : State) (code : Nat) (data : List Byte) : TrainKept s (s.raise code data) := trainKept_raiseN 12 s code data

theorem trainKept_raiseLimited (s : State) (key period code : Nat) (data : List Byte) : TrainKept s (s.raiseLimited key period code data) := by
  unfold State.raiseLimited
  exact .ite ((TrainKept.of_links (t := s.rateMark key) rfl).trans (trainKept_raise _ _ _)) (.refl s)

theorem trainKept_setReady (s : State) (i : Nat) (v : Bool) : TrainKept s (s.setReady i v) := by
  unfold State.setReady
  exact .ite (.refl s) ((TrainKept.of_links (t := { s with sys.ready := setBit s.sys.ready i v }) rfl).trans (trainKept_raise _ _ _))

theorem trainKept_routePkt (s : State) (src : Option Nat) (p : Packet) : TrainKept s (s.routePkt src p) := trainKept_routeWith trainKept_raise s src p

/-- The mirror's packets leave on PEER. -/
theorem trainKept_mirrorPump (n : Nat) (s : State) : TrainKept s (mirrorPump n s) := by
  induction n generalizing s with
  | zero => exact .refl s
  | succ n ih =>
    rw [mirrorPump]
    split
    · exact .refl s
    · extract_lets -merge -underBinder +onlyGivenNames r used
      refine .ite ?_ (.refl s)
      extract_lets -merge -underBinder +onlyGivenNames x t
      have ht : TrainKept s t := (TrainKept.refl s).upd
      exact ht.trans ((trainKept_enqueue trainKept_raise _ _ _).trans (ih _))

theorem trainKept_mirrorRecord (s : State) (cls extra : Nat) (data : List Byte) : TrainKept s (mirrorRecord s cls extra data) := by
  unfold mirrorRecord
  extract_lets -merge -underBinder +onlyGivenNames rid k u x v
  have hu : TrainKept s u := TrainKept.foldl (fun v _ => (TrainKept.refl v).upd) _ s
  have hv : TrainKept s v := hu.upd
  exact hv.trans (trainKept_mirrorPump _ _)

theorem trainKept_sendImage (s : State) : TrainKept s (sendImage s) := by
  unfold sendImage
  refine .ite (.refl s) ?_
  extract_lets -merge -underBinder +onlyGivenNames u x v
  have hu : TrainKept s u := TrainKept.foldl (fun w r => trainKept_mirrorRecord w _ _ _) _ s
  have hv : TrainKept s v := hu.upd
  exact hv.trans (trainKept_mirrorPump _ _)

/-- PEER that comes starts the mirror, which trains no link. -/
theorem trainKept_peerCame (s : State) : TrainKept s (peerCame s) := by
  unfold peerCame
  refine TrainKept.trans ?_ (trainKept_sendImage _)
  exact .of_links rfl

/-! ## Lanes (R423 to R428) -/

theorem trainKept_endRun (s : State) (l i result : Nat) : TrainKept s (endRun s l i result) := by
  unfold endRun
  extract_lets -merge -underBinder +onlyGivenNames r
  split
  · exact .refl s
  · extract_lets -merge -underBinder +onlyGivenNames again u v
    have hu : TrainKept s u := (TrainKept.refl s).upd
    have hv : TrainKept s v := hu.trans (trainKept_raise _ _ _)
    exact .ite (hv.trans (.of_frame (m := [.lanes]) (frame_startRun (List.Subset.refl _) (Frame.refl _ v)) (by decide))) hv

theorem trainKept_laneDown (s : State) (l i : Nat) : TrainKept s (laneDown s l i) := by
  unfold laneDown
  extract_lets -merge -underBinder +onlyGivenNames r u
  have hu : TrainKept s u := TrainKept.trans (.of_links rfl) (trainKept_endRun _ _ _ _)
  exact hu.upd

theorem trainKept_laneRevert (s : State) (l i : Nat) : TrainKept s (laneRevert s l i) := by
  unfold laneRevert
  split
  · exact .refl s
  next u _ =>
    extract_lets -merge -underBinder +onlyGivenNames v
    have hv : TrainKept s v := by
      show TrainKept s (match u.last with | some up => undoStep s l i u (!up) | none => s)
      split
      · exact .of_frame (m := [.lanes]) (frame_undoStep (List.Subset.refl _) (Frame.refl _ s)) (by decide)
      · exact .refl s
    exact hv.trans (trainKept_endRun _ _ _ _)

theorem trainKept_onLanes {f : State → Nat → State} (h : ∀ u i, TrainKept u (f u i)) (s : State) : TrainKept s (onLanes s f) :=
  (h s 0).trans (h _ 1)

theorem trainKept_lanesFollow (b s : State) (l : Nat) : TrainKept s (lanesFollow b s l) := by
  unfold lanesFollow
  extract_lets -merge -underBinder +onlyGivenNames x y t u v e
  have ht : TrainKept s t := .ite (trainKept_onLanes (fun w i =>
    .of_frame (m := [.free, .lanes]) (frame_laneAdapt (List.Subset.refl _) (Frame.refl _ w)) (by decide)) s) (.refl s)
  have hu : TrainKept t u := .ite (trainKept_onLanes (fun _ _ => .of_links rfl) t) (.refl t)
  have hv : TrainKept u v := .ite (trainKept_onLanes (fun w i => trainKept_laneDown w l i) u) (.refl u)
  exact ht.trans (hu.trans (hv.trans (.ite (trainKept_onLanes (fun w i => trainKept_laneRevert w l i) v) (.refl v))))

/-- What follows a link's change of state changes no link. -/
theorem trainKept_onLinks (s : State) (f : State → State) : TrainKept (f s) (onLinks s f) := by
  unfold onLinks
  extract_lets -merge -underBinder +onlyGivenNames t
  have ht : TrainKept (f s) t := TrainKept.foldl (fun u l => trainKept_lanesFollow s u l) _ (f s)
  exact .ite (ht.trans (trainKept_peerCame t)) ht

end Sys2Proof.Machine

/-! SUPPORT. A link that leaves its state and what follows from it: the registers and the other links stay, but for counters (R107, R112, R357, R426). -/

namespace Sys2Proof.Machine

/-! ## What follows a link's change of state -/

theorem CalmOf.mono {P Q : Nat → Prop} {s t : State} (h : CalmOf P s t) (hp : ∀ o, P o → Q o) : CalmOf Q s t :=
  ⟨fun o ho => h.get o (fun x => ho (hp o x)), h.otp, h.straps, h.st⟩

/-- Lanes that follow their links change no link, whatever the links did. -/
theorem lanesFollow_calm (b t : State) {l : Nat} (hl : l < 11) : Calm t (lanesFollow b t l) := by
  unfold lanesFollow
  extract_lets -merge -underBinder +onlyGivenNames x y u v w e
  have hu : Calm t u := .ite (calm_onLanes (.refl t) fun _ _ g => calm_laneAdapt g) (.refl t)
  have hv : Calm t v := .ite (calm_onLanes hu fun _ _ g => calm_State_setLane g) hu
  have hw : Calm t w := .ite (calm_onLanes hv fun _ _ g => calm_laneDown hl g) hv
  exact .ite (calm_onLanes hw fun _ _ g => calm_laneRevert hl g) hw

theorem allLanesFollow_calm (b t : State) : Calm t (allLanesFollow b t) :=
  CalmOf.foldlMem (.refl t) fun u _ hl g => g.trans (lanesFollow_calm b u (List.mem_range.1 hl))

/-- The counters that move when lanes and the mirror follow a link. -/
def Follows (o : Nat) : Prop := Counted o ∨ o = Reg.FAB_MIR_RESYNC_CNT

theorem Calm.follows {s t : State} (h : Calm s t) : CalmOf Follows s t := h.mono fun _ => .inl

theorem sendImage_calm (s : State) : CalmOf Follows s (sendImage s) := by
  unfold sendImage
  refine .ite (.refl s) ?_
  extract_lets -merge -underBinder +onlyGivenNames u x v
  have hu : Calm s u := CalmOf.foldl (.refl s) fun _ _ g => calm_mirrorRecord g
  have hb : CalmOf Follows s ({ u with mir.ended := true }.bump Reg.FAB_MIR_RESYNC_CNT) :=
    calm_State_bump (.inr rfl) (CalmOf.upd (t := u) hu.follows)
  have hv : CalmOf Follows s v := hb.upd
  exact hv.trans (calm_mirrorPump (.refl v)).follows

/-- PEER that comes changes no register but counters. -/
theorem peerCame_calm (s : State) : CalmOf Follows s (peerCame s) := by
  unfold peerCame
  refine CalmOf.trans ?_ (sendImage_calm _)
  exact (CalmOf.refl s).upd

/-- What follows an effect on the links changes no link's state and no register but counters. -/
theorem onLinks_calm (s : State) (f : State → State) : CalmOf Follows (f s) (onLinks s f) := by
  unfold onLinks
  extract_lets t
  have ht : CalmOf Follows (f s) t := (allLanesFollow_calm s (f s)).follows
  exact .ite (ht.trans (peerCame_calm t)) ht

/-- What follows an effect on the links takes no output back. -/
theorem onLinks_log (s : State) (f : State → State) : (f s).out <:+ (onLinks s f).out := by
  unfold onLinks
  extract_lets t
  have ht : Keeps (f s) t := keeps_followAll (Keeps.refl (f s))
  exact (Keeps.ite (keeps_peerCame ht) ht).log

/-- What lanes that follow their links change: their own records and what events change. -/
abbrev followParts : List Part := [.free, .lanes, .regs, .evSeq, .out, .dorm, .rings, .irq, .rate, .localQ, .links, .exch]

/-- Lanes that follow their links change, besides themselves, what events change. -/
theorem lanesFollow_frame (b t : State) (l : Nat) :
    Frame followParts t (lanesFollow b t l) := by
  unfold lanesFollow
  extract_lets -merge -underBinder +onlyGivenNames x y u v w e
  have hu : Frame followParts t u := .ite (frame_onLanes (by decide) (.refl _ t) fun _ _ g => frame_laneAdapt (by decide) g) (.refl _ t)
  have hv : Frame followParts t v := .ite (frame_onLanes (by decide) hu fun _ _ g => frame_State_setLane (by decide) g) hu
  have hw : Frame followParts t w := .ite (frame_onLanes (by decide) hv fun _ _ g => frame_laneDown (by decide) g) hv
  exact .ite (frame_onLanes (by decide) hw fun _ _ g => frame_laneRevert (by decide) g) hw

theorem allLanesFollow_frame (b t : State) :
    Frame followParts t (allLanesFollow b t) :=
  Frame.foldl (.refl _ t) fun u l g => g.trans (lanesFollow_frame b u l)

/-- What an effect on the links changes behind it. -/
theorem onLinks_frame (s : State) (f : State → State) :
    Frame (.mir :: followParts) (f s) (onLinks s f) := by
  unfold onLinks
  extract_lets t
  have ht : Frame (.mir :: followParts) (f s) t :=
    (allLanesFollow_frame s (f s)).mono (by decide)
  exact .ite (frame_peerCame (by decide) ht) ht

/-- What follows an effect on the links readies nothing and takes no readiness. -/
theorem onLinks_ready (s : State) (f : State → State) (i : Nat) : (onLinks s f).isReady i = (f s).isReady i := by
  have hr : (onLinks s f).sys.ready = (f s).sys.ready := (onLinks_frame s f).keep .ready (by decide)
  simp [State.isReady, hr]

/-! ## What goes out on a link in its training -/

theorem sendLinkClass_calm (s : State) {l : Nat} (hl : l < 11) (payload : List Byte) : Calm s (sendLinkClass s l payload) :=
  calm_enqueue counted (fun _ _ _ g => calm_State_raise counted g) hl (.refl s)

theorem sendCaps_calm (s : State) {l : Nat} (hl : l < 11) : Calm s (sendCaps s l) := by
  unfold sendCaps
  extract_lets r
  refine CalmOf.trans ?_ (sendLinkClass_calm _ hl _)
  exact calm_State_setLink rfl (.refl s)

theorem capsAll_calm (s : State) : Calm s (capsAll s) :=
  CalmOf.foldlMem (.refl s) fun u _ hl g => .ite (g.trans (sendCaps_calm u (List.mem_range.1 hl))) g

/-! ## A link that leaves its state (R107, R112) -/

theorem linkEnter_link (s : State) (l : Nat) (r : LinkRec) : (linkEnter s l r).link l = r := State.link_setLink _ _ _

theorem linkEnter_link_ne (s : State) {l k : Nat} (r : LinkRec) (h : k ≠ l) : (linkEnter s l r).link k = s.link k :=
  State.link_setLink_ne _ _ _ _ h

theorem mirrorLose_calm (s : State) (cause : Nat) : Calm s (mirrorLose s cause) := by
  unfold mirrorLose
  refine .ite (.refl s) ?_
  extract_lets -merge -underBinder +onlyGivenNames x u v
  have hu : Calm s u := calm_State_raise counted (CalmOf.refl s).upd
  exact .ite (calm_mirrorPump (calm_mirrorPacket hu)) hu

/-- The record of a link that leaves its state: its packets, its peer and its errors are gone. -/
def LinkRec.left (r : LinkRec) (st : LinkState) : LinkRec :=
  { LinkRec.init with st := st, pol := if r.st = .up then 0 else r.pol,
                      reversed := decide (r.st ≠ .up) && r.reversed, crcOpen := r.crcOpen, crcMore := r.crcMore, rxPkts := r.rxPkts, txPkts := r.txPkts,
                      tephra := { r.tephra with heldPkt := none }, skps := r.skps }

/-- The packets that come from link l on another link end with ABT. -/
def abortFrom (l : Nat) (s : State) (k : Nat) : State :=
  match (s.link k).cur with
  | some p =>
    if (s.link k).cutFrom = some l then
      (((s.setLink k { s.link k with curAbt := true, cutFrom := none }).emit (.packet k p 0 true)).emit (.symbol k "ABT")).emit
        (.lanes k [frameEnd true])
    else s
  | none => s

theorem abortFrom_calm (l : Nat) (s : State) (k : Nat) : Calm s (abortFrom l s k) := by
  unfold abortFrom
  split
  · exact .ite (calm_State_emit counted (calm_State_emit counted (calm_State_emit counted (calm_State_setLink rfl (.refl s))))) (.refl s)
  · exact .refl s

theorem abortFrom_keeps (l : Nat) (s : State) (k : Nat) : Keeps s (abortFrom l s k) := by
  unfold abortFrom
  split
  · exact .ite (keeps_State_emit (keeps_State_emit (keeps_State_emit (keeps_State_setLink (.refl s))))) (.refl s)
  · exact .refl s

/-- A link enters its next state; what it drops, aborts and tells behind that moves no link and no register but counters. -/
theorem leaveUp_calm (s : State) {l : Nat} (st : LinkState) (cause : Nat) : Calm (linkEnter s l ((s.link l).left st)) (leaveUp s l st cause) := by
  unfold leaveUp
  extract_lets -merge -underBinder +onlyGivenNames r lost n x y r' v
  refine .ite ?_ (.refl v)
  extract_lets -merge -underBinder +onlyGivenNames a b c d e
  have ha : Calm v a := calm_State_bumpBy (.inr (.inr ⟨l, .inl rfl⟩)) (.refl v)
  have hb : Calm v b := .ite (calm_fabDrop counted (fun _ _ _ g => calm_State_raise counted g) ha) ha
  have hc : Calm v c := CalmOf.foldl hb fun u k g => g.trans (abortFrom_calm l u k)
  have he : Calm v e := calm_State_raise counted (calm_State_setReady counted hc)
  refine .ite (CalmOf.trans ?_ (mirrorLose_calm _ _)) he
  exact he.upd

/-- A link that leaves UP raises LINK_STATE with the cause. -/
theorem leaveUp_raised {s : State} {l : Nat} (st : LinkState) (cause : Nat) (h : (s.link l).st = .up) :
    Raised s (leaveUp s l st cause) 0x0700 (leBytes 1 l ++ leBytes 1 0 ++ leBytes 1 cause) := by
  unfold leaveUp
  extract_lets -merge -underBinder +onlyGivenNames r lost n x y r' v
  rw [if_pos h]
  extract_lets -merge -underBinder +onlyGivenNames a b c d e
  have hv : Keeps s v := keeps_linkEnter (Keeps.refl s)
  have ha : Keeps s a := keeps_State_bumpBy hv
  have hb : Keeps s b := .ite (keeps_fabDrop (fun _ _ _ g => keeps_State_raise g) ha) ha
  have hc : Keeps s c := Keeps.foldl hb fun u k g => g.trans (abortFrom_keeps l u k)
  have hd : Keeps s d := keeps_State_setReady hc
  have he : Raised s e 0x0700 (leBytes 1 l ++ leBytes 1 0 ++ leBytes 1 cause) := raised_raise _ _ hd.log
  have hse : s.out <:+ e.out := (keeps_State_raise hd).log
  split
  · refine he.later hse ?_
    have h0 : Keeps e ({ e with mir.waiting := [] } : State) := (Keeps.refl e).cong rfl
    exact (keeps_mirrorLose h0).log
  · exact he

theorem leaveUp_st (s : State) {l : Nat} (st : LinkState) (cause : Nat) : ((leaveUp s l st cause).link l).st = st := by
  rw [(leaveUp_calm s st cause).st l, linkEnter_link]
  rfl

theorem leaveUp_reg (s : State) {l o : Nat} (st : LinkState) (cause : Nat) (ho : ¬ Counted o) : (leaveUp s l st cause).reg o = s.reg o :=
  (leaveUp_calm s st cause).reg ho

theorem leaveUp_cnt (s : State) {l o : Nat} (st : LinkState) (cause : Nat) (ho : ¬ Counted o) : (leaveUp s l st cause).cnt o = s.cnt o :=
  (leaveUp_calm s st cause).cnt ho

/-- Nothing that follows a link counts in its CTRL, CRC_ERR, CODE_ERR and TRAIN_FAIL. -/
theorem linkReg_not_follows {o l : Nat} (hl : l < 11)
    (ho : o ∈ ([Reg.FAB_LINK_CTRL, Reg.FAB_LINK_CRC_ERR, Reg.FAB_LINK_CODE_ERR, Reg.FAB_LINK_TRAIN_FAIL] : List Nat)) : ¬ Follows (o + 0x100 * l) := by
  have ho' : o ∈ ([0xC00000, 0xC0000C, 0xC00014, 0xC00020] : List Nat) := ho
  simp only [List.mem_cons, List.not_mem_nil, or_false] at ho'
  intro h
  rcases h with h | h
  · rcases h.num with h | ⟨n, h⟩ | ⟨n, h | h | h | h | ⟨w, f, h⟩⟩
    · simp only [List.mem_cons, List.not_mem_nil, or_false] at h; omega
    all_goals omega
  · have h' : o + 0x100 * l = 0xCA001C := h
    omega

theorem linkReg_not_counted {o l : Nat} (hl : l < 11)
    (ho : o ∈ ([Reg.FAB_LINK_CTRL, Reg.FAB_LINK_CRC_ERR, Reg.FAB_LINK_CODE_ERR, Reg.FAB_LINK_TRAIN_FAIL] : List Nat)) : ¬ Counted (o + 0x100 * l) :=
  fun h => linkReg_not_follows hl ho (.inl h)

end Sys2Proof.Machine

/-! SUPPORT. The training of a link, state by state (R107 to R109). -/

namespace Sys2Proof.Machine

/-! ## One step of the training -/

/-- The fabric's domain is powered already. -/
theorem powerFabric_on {s : State} (hp : s.pdOn 9 = true) : powerFabric s = s := by
  have hb : s.sys.power.on.testBit 9 = true := hp
  simp [powerFabric, setBit, hb]

/-- TRAINING_STATE_ADVANCE is the link's step; the lanes and the mirror that follow leave its training alone. -/
theorem exec_trainingStateAdvance {s : State} (l : Fin 11) (obs : TrainObs) (hp : s.pdOn 9 = true) :
    ∃ t, exec (.trainingStateAdvance l obs) s = .next t ∧ TrainKept (trainAdvance s l.val obs) t
      ∧ (∀ i, t.isReady i = (trainAdvance s l.val obs).isReady i) ∧ (trainAdvance s l.val obs).out <:+ t.out := by
  have e : (fun u => trainAdvance (powerFabric u) l.val obs) s = trainAdvance s l.val obs := by simp only [powerFabric_on hp]
  refine ⟨onLinks s (fun u => trainAdvance (powerFabric u) l.val obs), rfl, ?_, fun i => ?_, ?_⟩
  · rw [← e]; exact trainKept_onLinks s _
  · rw [← e]; exact onLinks_ready s _ i
  · rw [← e]; exact onLinks_log s (fun u => trainAdvance (powerFabric u) l.val obs)

theorem trainAdvance_detect {s : State} {l : Nat} (obs : TrainObs) (h : (s.link l).st = .detect) :
    trainAdvance s l obs = linkEnter s l { s.link l with st := .lock, half := bit (s.reg (Reg.FAB_LINK_CTRL + 0x100 * l)) 1 } := by
  simp [trainAdvance, h]

theorem trainAdvance_lock {s : State} {l : Nat} (obs : TrainObs) (h : (s.link l).st = .lock) :
    trainAdvance s l obs = linkEnter s l { s.link l with st := .map, locks := 3, pol := obs.pol.toNat, sets := 0 } := by
  simp [trainAdvance, h]

theorem trainAdvance_align {s : State} {l : Nat} (obs : TrainObs) (h : (s.link l).st = .align) :
    trainAdvance s l obs = sendCaps (linkEnter s l { s.link l with st := .caps }) l := by
  simp [trainAdvance, h]

theorem trainAdvance_caps {s : State} {l : Nat} (obs : TrainObs) (h : (s.link l).st = .caps) (ha : (s.link l).capsAcked = true)
    (hs : (s.link l).capsSeen = true) (hm : (s.link l).mismatch = false) : trainAdvance s l obs = linkGoesUp s l := by
  simp [trainAdvance, h, ha, hs, hm]

/-! ## MAP (R108, R109) -/

/-- A pair of sets with ACK that names the lanes in the order k, 1 - k. -/
def Names (k : Nat) (e : TrnSet × TrnSet) : Prop :=
  e.1.lane.toNat = k ∧ e.2.lane.toNat = 1 - k ∧ bit e.1.flags.toNat 0 = true ∧ bit e.2.flags.toNat 0 = true

/-- A pair of sets that names the lanes with ACK is counted, and gives the order of the lanes. -/
theorem takeSets_names {l k : Nat} {s : State} {e : TrnSet × TrnSet} (hk : k < 2) (he : Names k e) :
    takeSets l s e = s.setLink l { s.link l with
      reversed := decide (k = 1), sets := if decide (k = 1) = (s.link l).reversed then (s.link l).sets + 1 else 1, peerSet := some e.1 } := by
  obtain ⟨h1, h2, h3, h4⟩ := he
  have hab : k + (1 - k) = 1 := by omega
  have hb : (k == 1) = decide (k = 1) := rfl
  simp only [takeSets, h1, h2, h3, h4, hab, hb, ne_eq, not_true_eq_false, if_false, Bool.and_self, Bool.not_true, Bool.false_eq_true]

/-- Sets that go on naming the lanes in the order of the link are all counted, and leave its state. -/
theorem foldl_takeSets {l k : Nat} (hk : k < 2) (es : List (TrnSet × TrnSet)) (he : ∀ e ∈ es, Names k e) (s : State)
    (hr : (s.link l).reversed = decide (k = 1)) :
    ((es.foldl (takeSets l) s).link l).reversed = decide (k = 1) ∧ ((es.foldl (takeSets l) s).link l).sets = (s.link l).sets + es.length := by
  induction es generalizing s with
  | nil => exact ⟨hr, rfl⟩
  | cons e es ih =>
    have hs : (takeSets l s e).link l = { s.link l with reversed := decide (k = 1), sets := (s.link l).sets + 1, peerSet := some e.1 } := by
      rw [takeSets_names hk (he e (by simp)), State.link_setLink, hr, if_pos rfl]
    obtain ⟨h1, h2⟩ := ih (fun x hx => he x (by simp [hx])) (takeSets l s e) (by rw [hs])
    refine ⟨h1, h2.trans ?_⟩
    simp only [hs, List.length_cons]
    omega

/-- Eight sets that name the lanes in one order count eight, whatever the order before. -/
theorem foldl_takeSets_eight {l k : Nat} (hk : k < 2) {es : List (TrnSet × TrnSet)} (h8 : 8 ≤ es.length) (he : ∀ e ∈ es, Names k e) (s : State) :
    ((es.foldl (takeSets l) s).link l).reversed = decide (k = 1) ∧ 8 ≤ ((es.foldl (takeSets l) s).link l).sets := by
  cases es with
  | nil => simp at h8
  | cons e es =>
    have hs := takeSets_names (l := l) (s := s) hk (he e (by simp))
    have hone : 1 ≤ ((takeSets l s e).link l).sets := by
      rw [hs, State.link_setLink]
      dsimp only
      split <;> omega
    obtain ⟨h1, h2⟩ := foldl_takeSets hk es (fun x hx => he x (by simp [hx])) (takeSets l s e) (by rw [hs, State.link_setLink])
    refine ⟨h1, ?_⟩
    rw [List.length_cons] at h8
    simp only [List.foldl_cons]
    omega

theorem trainAdvance_map {s : State} {l k : Nat} {obs : TrainObs} (h : (s.link l).st = .map) (hk : k < 2) (h8 : 8 ≤ obs.sets.length)
    (he : ∀ e ∈ obs.sets, Names k e) :
    ((trainAdvance s l obs).link l).st = .align ∧ ((trainAdvance s l obs).link l).reversed = decide (k = 1) := by
  obtain ⟨hr, hn⟩ := foldl_takeSets_eight (l := l) hk h8 he s
  have e : trainAdvance s l obs = linkEnter (obs.sets.foldl (takeSets l) s) l { (obs.sets.foldl (takeSets l) s).link l with st := .align } := by
    simp [trainAdvance, h, hn]
  rw [e, linkEnter_link]
  exact ⟨rfl, hr⟩

/-! ## CAPS and UP (R107, R110) -/

theorem trainKept_sendLinkClass (s : State) (l : Nat) (payload : List Byte) : TrainKept s (sendLinkClass s l payload) :=
  trainKept_enqueue trainKept_raise s l _

theorem linkGoesUp_st (s : State) (l : Nat) : ((linkGoesUp s l).link l).st = .up := by
  have h := (trainKept_setReady (linkEnter s l { s.link l with st := .up, errs := [] }) (linkReadyBit l) true).trans
    (trainKept_raise _ 0x0700 (leBytes 1 l ++ leBytes 1 1 ++ leBytes 1 0))
  exact (h.field LinkRec.st l).trans (congrArg LinkRec.st (linkEnter_link s l _))

theorem linkGoesUp_ready (s : State) (l : Nat) : (linkGoesUp s l).isReady (linkReadyBit l) = true := by
  unfold linkGoesUp
  extract_lets r u
  have hu : u.isReady (linkReadyBit l) = true := isReady_setReady _ _ _
  have hf : (u.raise 0x0700 (leBytes 1 l ++ leBytes 1 1 ++ leBytes 1 0)).sys.ready = u.sys.ready :=
    (frame_State_raise (List.Subset.refl _) (Frame.refl _ u)).keep .ready (by decide)
  rw [← hu, State.isReady, State.isReady, hf]

theorem linkGoesUp_raised (s : State) (l : Nat) : Raised s (linkGoesUp s l) 0x0700 (leBytes 1 l ++ leBytes 1 1 ++ leBytes 1 0) :=
  raised_raise _ _ (keeps_State_setReady (keeps_linkEnter (Keeps.refl s))).log

theorem sendCaps_capsSent (s : State) (l : Nat) : ((sendCaps s l).link l).capsSent = true := by
  rw [sendCaps, (trainKept_sendLinkClass _ l _).field LinkRec.capsSent, State.link_setLink]

theorem sendCaps_st (s : State) (l : Nat) : ((sendCaps s l).link l).st = (s.link l).st := by
  rw [sendCaps, (trainKept_sendLinkClass _ l _).field LinkRec.st, State.link_setLink]

/-- A packet of class LINK that waits alone on a link where nothing is being sent and Tephra holds and selects nothing goes out as it is. -/
theorem startNext_link (rz : State → Nat → List Byte → State) (n : Nat) {s : State} {l : Nat} {p : Packet} (hcur : (s.link l).cur = none)
    (hq : (s.link l).queue = [p]) (hheld : (s.link l).tephra.heldPkt = none) (hact : (s.link l).tephra.action = 0) (hc : p.cls = clsLINK) :
    ((startNext rz (n + 1) s l).link l).cur = some p := by
  have hprio : clsPrio p.cls = 1 := by rw [hc]; rfl
  have hfind : (List.range 7).findSome? (fun i => (s.link l).queue.find? (fun x => clsPrio x.cls == i + 1)) = some p := by
    simp [hq, List.range, List.range.loop, hprio]
  have hsel : tephraSelect (s.link l).tephra p = (false, (s.link l).tephra) := by simp [tephraSelect, hact]
  have hne : p.cls ≠ clsTIME := by rw [hc]; decide
  have hd : ∀ u, departs u l p = u := fun u => if_pos hne
  have ht : ∀ u, timeStamped u p = p := fun u => if_neg hne
  simp only [startNext, hcur, Option.isSome_none, Bool.false_eq_true, if_false, hheld, hfind, hsel, hd, ht, sendOn_cur]

/-- A packet of class LINK goes out as it is on an idle link. -/
theorem enqueue_link_idle (rz : State → Nat → List Byte → State) {s : State} {l : Nat} {p : Packet} (hi : (s.link l).Idle)
    (hc : p.cls = clsLINK) (hs : p.size ≤ 1024) : ((enqueue rz s l p).link l).cur = some p := by
  obtain ⟨hcur, hq, hheld, hact⟩ := hi
  have hcap : p.size ≤ clsCap p.cls := by rw [hc]; exact hs
  have hlink : (s.setLink l { s.link l with queue := [p] }).link l = { s.link l with queue := [p] } := State.link_setLink _ _ _
  have e : enqueue rz s l p = startNext rz 2 (s.setLink l { s.link l with queue := [p] }) l := by simp [enqueue, hq, hcap]
  rw [e]
  exact startNext_link rz 1 (by rw [hlink]; exact hcur) (by rw [hlink]) (by rw [hlink]; exact hheld) (by rw [hlink]; exact hact) hc

theorem capsPayload_length (s : State) (l type : Nat) : (capsPayload s l type).length = 32 := by simp [capsPayload]

/-- A CAPS goes out at once on an idle link. -/
theorem sendCaps_cur {s : State} {l : Nat} (hi : (s.link l).Idle) :
    ((sendCaps s l).link l).cur = some (mkPacket (s.link l).peerAddr s.addr clsLINK 0 0 0 s.domain (capsPayload s l 0)) := by
  have hlink : ∀ r, (s.setLink l r).link l = r := State.link_setLink s l
  have e : sendCaps s l = enqueue State.raise (s.setLink l { s.link l with
      capsSent := true, capsAcked := decide ((s.link l).st = LinkState.up) && (s.link l).capsAcked }) l
      (mkPacket (s.link l).peerAddr s.addr clsLINK 0 0 0 s.domain (capsPayload s l 0)) := by
    simp only [sendCaps, sendLinkClass, hlink]
    rfl
  rw [e]
  refine enqueue_link_idle _ (by rw [hlink]; exact ⟨hi.cur, hi.queue, hi.heldPkt, hi.action⟩) (mkPacket_cls _ _ _ _ _ _ _ _) ?_
  rw [Packet.size, mkPacket_data _ _ _ _ _ _ _ (by rw [capsPayload_length]), capsPayload_length]
  decide

/-! ## The end of BACKOFF, a timeout and a repeat (R107) -/

theorem exec_backoffExpiry {s : State} (l : Fin 11) (hp : s.pdOn 9 = true) (h : (s.link l.val).st = .backoff) :
    ∃ t, exec (.backoffExpiry l) s = .next t ∧ (t.link l.val).st = .detect := by
  refine ⟨_, congrArg Host.Outcome.next (if_pos hp), ?_⟩
  rw [(onLinks_calm s _).st]
  simp [doBackoffExpiry, h, linkEnter_link]

/-- A link that fails its training goes to BACKOFF, counted. -/
theorem exec_linkTrainTimeout {s : State} (l : Fin 11) (hp : s.pdOn 9 = true) (h : (s.link l.val).st ∈ [LinkState.lock, .map, .align, .caps]) :
    ∃ t, exec (.linkTrainTimeout l) s = .next t ∧ (t.link l.val).st = .backoff
      ∧ t.cnt (Reg.FAB_LINK_TRAIN_FAIL + 0x100 * l.val) = min (s.cnt (Reg.FAB_LINK_TRAIN_FAIL + 0x100 * l.val) + 1) 0xFFFFFFFF := by
  have hst : (s.link l.val).st = .lock ∨ (s.link l.val).st = .map ∨ (s.link l.val).st = .align ∨ (s.link l.val).st = .caps := by simpa using h
  have hn := linkReg_not_follows l.isLt (o := Reg.FAB_LINK_TRAIN_FAIL) (by decide)
  have hn' := linkReg_not_counted l.isLt (o := Reg.FAB_LINK_TRAIN_FAIL) (by decide)
  refine ⟨_, congrArg Host.Outcome.next (if_pos hp), ?_⟩
  have hc := onLinks_calm s (fun u => doTrainTimeout u l.val)
  let v := (leaveUp s l.val .backoff 1).bump (Reg.FAB_LINK_TRAIN_FAIL + 0x100 * l.val)
  have hv : Calm v (doTrainTimeout s l.val) := by
    rw [doTrainTimeout, if_pos hst]
    exact calm_State_raiseLimited counted (.refl v)
  refine ⟨?_, ?_⟩
  · rw [hc.st, hv.st]
    exact leaveUp_st s .backoff 1
  · rw [hc.cnt hn, hv.cnt hn', ← leaveUp_cnt s .backoff 1 hn']
    exact State.cnt_bumpBy _ _ 1

theorem exec_capsRepeat {s : State} (l : Fin 11) (hp : s.pdOn 9 = true) (h : (s.link l.val).st = .caps) (ha : (s.link l.val).capsAcked = false) :
    exec (.capsRepeat l) s = .next (sendCaps s l.val) := by
  have e : doCapsRepeat s l.val = sendCaps s l.val := by simp [doCapsRepeat, h, ha]
  rw [← e]
  exact congrArg Host.Outcome.next (if_pos hp)

/-! ## The steps of the training -/

/-- Settles O47, state by state; what the lanes and the mirror do behind a step trains no link. -/
theorem linkTrainingGoesStepByStep : Obligations.LinkTrainingGoesStepByStep := by
  unfold Obligations.LinkTrainingGoesStepByStep
  intro s l obs hp
  obtain ⟨t, he, hk, hr, hlog⟩ := exec_trainingStateAdvance l obs hp
  have hst := hk.field LinkRec.st l.val
  refine ⟨fun h => ?detect, fun h => ?lock, fun k h hk2 h8 hes => ?map, fun h => ?align, fun h ha hs hm => ?caps,
    exec_backoffExpiry l hp, exec_linkTrainTimeout l hp, fun h ha => ?again⟩
  case detect =>
    have hhalf := hk.field LinkRec.half l.val
    rw [trainAdvance_detect obs h, linkEnter_link] at hst hhalf
    exact ⟨t, he, hst, hhalf⟩
  case lock =>
    have hpol := hk.field LinkRec.pol l.val
    rw [trainAdvance_lock obs h, linkEnter_link] at hst hpol
    exact ⟨t, he, hst, hpol⟩
  case map =>
    obtain ⟨h1, h2⟩ := trainAdvance_map h hk2 h8 hes
    exact ⟨t, he, hst.trans h1, (hk.field LinkRec.reversed l.val).trans h2⟩
  case align =>
    rw [trainAdvance_align obs h, sendCaps_st, linkEnter_link] at hst
    exact ⟨t, he, hst⟩
  case caps =>
    rw [trainAdvance_caps obs h ha hs hm] at hst hr hlog
    refine ⟨t, he, hst.trans (linkGoesUp_st s l.val), (hr _).trans (linkGoesUp_ready s l.val), ?_⟩
    have hl : leBytes 1 l.val ++ leBytes 1 1 ++ leBytes 1 0 = [BitVec.ofNat 8 l.val, 1, 0] := by simp [leBytes]
    rw [← hl]
    exact (linkGoesUp_raised s l.val).later (keeps_linkGoesUp (Keeps.refl s)).log hlog
  case again =>
    refine ⟨_, exec_capsRepeat l hp h ha, sendCaps_capsSent s l.val, (sendCaps_st s l.val).trans h, fun h1 h2 h3 h4 => ?_⟩
    exact sendCaps_cur ⟨h1, h2, h3, h4⟩

end Sys2Proof.Machine

/-! SUPPORT. FAB_LINK_CTRL, code errors, lost lanes and SKPs (R106, R107, R112). -/

namespace Sys2Proof.Machine

/-! ## The register FAB_LINK_CTRL (R107, R323) -/

/-- The row of FAB_LINK_CTRL. -/
def linkCtrlRow : RegDef :=
  ⟨"FAB_LINK_CTRL", Reg.FAB_LINK_CTRL, 11, 0x100, 1, 0, [fld "RETRAIN" 2 2 .wo 0, fld "HALF_RATE" 1 1 .rw 0, fld "ENABLE" 0 0 .rw 1]⟩

theorem findReg_linkCtrl (l : Fin 11) : findReg (Reg.FAB_LINK_CTRL + 0x100 * l.val) = some (linkCtrlRow, l.val, 0) := by
  revert l
  decide

theorem linkCtrl_off (l : Fin 11) :
    inBootWindow (Reg.FAB_LINK_CTRL + 0x100 * l.val) = false ∧ (Reg.FAB_LINK_CTRL + 0x100 * l.val) % 4 = 0 := by
  revert l
  decide

theorem linkCtrlRow_mask (i : Nat) (p : Bool) : writeMask linkCtrlRow i p = 7 := by
  have h : ¬ Reg.FAB_LINK_CTRL < Reg.HST_EVQ_MASK := by decide
  simp [writeMask, linkCtrlRow, pvField, Fld.mask, fld, h]

/-- The field HALF_RATE is its bit. -/
theorem bits_one (x : Nat) : bits x 1 1 = b2n (bit x 1) := by
  simp only [bits, bit, b2n, Nat.testBit_eq_decide_div_mod_eq, Nat.shiftRight_eq_div_pow, decide_eq_true_eq, Nat.add_sub_cancel]
  split <;> omega

/-- A write that leaves HALF_RATE, or of a link that is not enabled, breaks no rule. -/
theorem fieldFault_linkCtrl {s : State} {a : Acc} {i old new : Nat} (h : bit old 0 = true → bit new 1 = bit old 1) :
    fieldFault s a 0 linkCtrlRow i 0 old new = none := by
  have hs : stoppedBroken s 0 Reg.FAB_LINK_CTRL i 0 old new = false := by
    show (bit old 0 && decide (bits old 1 1 ≠ bits new 1 1)) = false
    cases ho : bit old 0 with
    | false => rfl
    | true => simp [bits_one, h ho]
  have hw : writeOnceBroken linkCtrlRow i old new (privileged s a) = false := by rfl
  have hv : valueBadA Reg.FAB_LINK_CTRL old new = false ∧ valueBadB s a Reg.FAB_LINK_CTRL i 0 new = false := ⟨rfl, rfl⟩
  have hb : linkCtrlRow.base = Reg.FAB_LINK_CTRL := rfl
  have hm : ¬(Reg.SYS_MPU_BASE ≤ Reg.FAB_LINK_CTRL ∧ Reg.FAB_LINK_CTRL ≤ Reg.SYS_MPU_CTRL) := by decide
  simp [fieldFault, hb, hm, hw, hs, hv]

theorem Quiet.of_frame {m : List Part} {s t : State} (h : Frame m s t) (hm : ∀ p ∈ [Part.regs, .links, .otp, .straps], p ∉ m) : Quiet s t :=
  (CalmOf.refl s).upd (h.keep .regs (hm _ (by simp))) (h.keep .links (hm _ (by simp))) (h.keep .otp (hm _ (by simp))) (h.keep .straps (hm _ (by simp)))

/-- A write that reaches FAB_LINK_CTRL is its effect in a state that differs in power and parity alone, with what follows a link behind it. -/
theorem linkCtrl_write {s : State} {a : Acc} {l : Fin 11} {v : U32} (h : Reaches s a (Reg.FAB_LINK_CTRL + 0x100 * l.val))
    (hr : bit (s.reg (Reg.FAB_LINK_CTRL + 0x100 * l.val)) 0 = true → v.getLsbD 1 = bit (s.reg (Reg.FAB_LINK_CTRL + 0x100 * l.val)) 1) :
    ∃ u new, Quiet s u ∧ (∀ k, k < 3 → bit new k = v.getLsbD k)
      ∧ rowWrite s a (Reg.FAB_LINK_CTRL + 0x100 * l.val) v
          = onLinks s (fun _ => linkCtrl u l.val (s.reg (Reg.FAB_LINK_CTRL + 0x100 * l.val)) new) := by
  let off := Reg.FAB_LINK_CTRL + 0x100 * l.val
  let w := touchUnit s linkCtrlRow l.val
  have hw : Frame [.power, .caps, .out] s w := frame_touchUnit (List.Subset.refl _) (Frame.refl _ s)
  have hq : Quiet s w := .of_frame hw (by decide)
  have hold : oldValue w linkCtrlRow off l.val = s.reg off := by
    have e : oldValue w linkCtrlRow off l.val = w.reg off := by rfl
    rw [e, hq.reg id]
  let new := mergeWrite linkCtrlRow l.val (privileged w a) (s.reg off) v.toNat
  have hnew : ∀ k, k < 3 → bit new k = v.getLsbD k := fun k hk => by
    have hm := linkCtrlRow_mask l.val (privileged w a)
    refine bit_mergeWrite ?_ ?_ <;> rw [hm] <;> revert k <;> decide
  have hx : fieldFault w a 0 linkCtrlRow l.val 0 (s.reg off) new = none :=
    fieldFault_linkCtrl fun ho => (hnew 1 (by decide)).trans (hr ho)
  obtain ⟨u, hu, hqu, e⟩ := acceptWrite_effect (s := w) (a := a) (off := off) (d := linkCtrlRow) (i := l.val) (j := 0) (old := s.reg off) (new := new)
    (f := fun u => linkCtrl u l.val (s.reg off) new) (fun u => by
      have hlt : ¬ off < 0x400000 := by simp only [off, Reg.FAB_LINK_CTRL]; omega
      rw [writeEffect, if_neg hlt]
      rfl)
  have hacc := regWrite32_accept (v := v) h (linkCtrl_off l) (findReg_linkCtrl l) (by decide)
    (by rw [linkCtrlRow_mask]; decide) (by rw [hold]; exact hx)
  rw [hold, e] at hacc
  have hmode : (onLinks s (fun _ => linkCtrl u l.val (s.reg off) new)).sys.mode = s.sys.mode := by
    have h1 := (onLinks_frame s (fun _ => linkCtrl u l.val (s.reg off) new)).keep .mode (by decide)
    have h2 := (frame_linkCtrl (v1 := l.val) (v2 := s.reg off) (v3 := new) (List.Subset.refl _) (Frame.refl _ u)).keep .mode (by decide)
    exact h1.1.trans (h2.1.trans ((hu.keep .mode (by decide)).1.trans (hw.keep .mode (by decide)).1))
  exact ⟨u, new, hq.trans hqu, hnew, rowWrite_eq hacc (by rw [hmode]; exact h.2.1)⟩

/-! ## ENABLE and RETRAIN (R107) -/

/-- The links and the registers of a device that wakes the units with work. -/
theorem wakeBusy_quiet (s : State) : Quiet s (wakeBusy s) :=
  .of_frame (m := [.power, .caps, .out]) (frame_wakeBusy (List.Subset.refl _) (Frame.refl _ s)) (by decide)

/-- The state in which ENABLE and RETRAIN act: HALF_RATE and ENABLE are stored. -/
def linkCtrlStored (s : State) (l new : Nat) : State := s.setReg (Reg.FAB_LINK_CTRL + 0x100 * l) (new % 4)

theorem setReg_link (s : State) (o v k : Nat) : (s.setReg o v).link k = s.link k := rfl

theorem linkCtrlStored_enable (s : State) (l new : Nat) : bit ((linkCtrlStored s l new).reg (Reg.FAB_LINK_CTRL + 0x100 * l)) 0 = bit new 0 := by
  rw [linkCtrlStored, State.reg_setReg _ _ _ _ rfl]
  simp only [bit, Nat.testBit_zero]
  congr 1
  apply propext
  omega

/-- ENABLE that becomes 1 starts the training of a disabled link. -/
theorem linkCtrl_enables {s : State} {l old new : Nat} (hst : (s.link l).st = .disabled) (ho : bit old 0 = false) (h0 : bit new 0 = true)
    (h2 : bit new 2 = false) :
    Quiet (linkEnter (linkCtrlStored s l new) l { s.link l with st := .detect }) (linkCtrl s l old new) := by
  have e : linkCtrl s l old new = wakeBusy (linkEnter (linkCtrlStored s l new) l { s.link l with st := .detect }) := by
    simp [linkCtrl, linkSetEnable, linkCtrlStored, setReg_link, ho, h0, h2, hst]
  rw [e]
  exact wakeBusy_quiet _

/-- ENABLE that becomes 0 takes a link to DISABLED. -/
theorem linkCtrl_disables {s : State} {l old new : Nat} (hst : (s.link l).st ≠ .disabled) (ho : bit old 0 = true) (h0 : bit new 0 = false)
    (h2 : bit new 2 = false) : Quiet (leaveUp (linkCtrlStored s l new) l .disabled 3) (linkCtrl s l old new) := by
  have e : linkCtrl s l old new = wakeBusy (leaveUp (linkCtrlStored s l new) l .disabled 3) := by
    simp [linkCtrl, linkSetEnable, linkCtrlStored, setReg_link, ho, h0, h2, hst]
  rw [e]
  exact wakeBusy_quiet _

/-- RETRAIN sends a link to BACKOFF. -/
theorem linkCtrl_retrains {s : State} {l old new : Nat} (hst : (s.link l).st ≠ .disabled) (ho : bit old 0 = true) (h0 : bit new 0 = true)
    (h2 : bit new 2 = true) : Quiet (leaveUp (linkCtrlStored s l new) l .backoff 3) (linkCtrl s l old new) := by
  have e : linkCtrl s l old new = wakeBusy (leaveUp (linkCtrlStored s l new) l .backoff 3) := by
    simp [linkCtrl, linkRetrainNow, linkCtrlStored, setReg_link, ho, h0, h2, hst]
  rw [e]
  exact wakeBusy_quiet _

/-- A write of FAB_LINK_CTRL ends in the state and with the value in which its effect v leaves the link. -/
theorem onLinks_ends (s : State) {v : State} {l : Fin 11} {st : LinkState} {en : Bool} (hst : (v.link l.val).st = st)
    (hen : bit (v.reg (Reg.FAB_LINK_CTRL + 0x100 * l.val)) 0 = en) :
    ((onLinks s (fun _ => v)).link l.val).st = st
      ∧ bit ((onLinks s (fun _ => v)).reg (Reg.FAB_LINK_CTRL + 0x100 * l.val)) 0 = en := by
  have h := onLinks_calm s (fun _ => v)
  exact ⟨(h.st l.val).trans hst, by rw [h.reg (linkReg_not_follows l.isLt (by decide))]; exact hen⟩

theorem linkEnable_starts {s : State} {a : Acc} {l : Fin 11} {v : U32} (h : Reaches s a (Reg.FAB_LINK_CTRL + 0x100 * l.val))
    (ho : bit (s.reg (Reg.FAB_LINK_CTRL + 0x100 * l.val)) 0 = false) (hst : (s.link l.val).st = .disabled) (h0 : v.getLsbD 0 = true)
    (h2 : v.getLsbD 2 = false) :
    ((rowWrite s a (Reg.FAB_LINK_CTRL + 0x100 * l.val) v).link l.val).st = .detect
      ∧ bit ((rowWrite s a (Reg.FAB_LINK_CTRL + 0x100 * l.val) v).reg (Reg.FAB_LINK_CTRL + 0x100 * l.val)) 0 = true := by
  obtain ⟨u, new, hu, hn, e⟩ := linkCtrl_write h (fun hx => absurd (ho.symm.trans hx) Bool.false_ne_true)
  have hq := linkCtrl_enables (s := u) ((hu.st _).trans hst) ho ((hn 0 (by decide)).trans h0) ((hn 2 (by decide)).trans h2)
  rw [e]
  refine onLinks_ends s ((hq.st _).trans (by rw [linkEnter_link])) ?_
  rw [hq.reg id]
  exact (linkCtrlStored_enable u l.val new).trans ((hn 0 (by decide)).trans h0)

theorem linkEnable_stops {s : State} {a : Acc} {l : Fin 11} {v : U32} (h : Reaches s a (Reg.FAB_LINK_CTRL + 0x100 * l.val))
    (ho : bit (s.reg (Reg.FAB_LINK_CTRL + 0x100 * l.val)) 0 = true) (h0 : v.getLsbD 0 = false) (h2 : v.getLsbD 2 = false)
    (h1 : v.getLsbD 1 = bit (s.reg (Reg.FAB_LINK_CTRL + 0x100 * l.val)) 1) (hst : (s.link l.val).st ≠ .disabled) :
    ((rowWrite s a (Reg.FAB_LINK_CTRL + 0x100 * l.val) v).link l.val).st = .disabled
      ∧ bit ((rowWrite s a (Reg.FAB_LINK_CTRL + 0x100 * l.val) v).reg (Reg.FAB_LINK_CTRL + 0x100 * l.val)) 0 = false := by
  obtain ⟨u, new, hu, hn, e⟩ := linkCtrl_write h (fun _ => h1)
  have hq := linkCtrl_disables (s := u) (by rw [hu.st]; exact hst) ho ((hn 0 (by decide)).trans h0) ((hn 2 (by decide)).trans h2)
  rw [e]
  refine onLinks_ends s ((hq.st _).trans (leaveUp_st _ _ _)) ?_
  rw [hq.reg id, leaveUp_reg _ _ _ (linkReg_not_counted l.isLt (by decide))]
  exact (linkCtrlStored_enable u l.val new).trans ((hn 0 (by decide)).trans h0)

theorem linkRetrain_backsOff {s : State} {a : Acc} {l : Fin 11} {v : U32} (h : Reaches s a (Reg.FAB_LINK_CTRL + 0x100 * l.val))
    (ho : bit (s.reg (Reg.FAB_LINK_CTRL + 0x100 * l.val)) 0 = true) (h0 : v.getLsbD 0 = true) (h2 : v.getLsbD 2 = true)
    (h1 : v.getLsbD 1 = bit (s.reg (Reg.FAB_LINK_CTRL + 0x100 * l.val)) 1) (hst : (s.link l.val).st ≠ .disabled) :
    ((rowWrite s a (Reg.FAB_LINK_CTRL + 0x100 * l.val) v).link l.val).st = .backoff := by
  obtain ⟨u, new, hu, hn, e⟩ := linkCtrl_write h (fun _ => h1)
  have hq := linkCtrl_retrains (s := u) (by rw [hu.st]; exact hst) ho ((hn 0 (by decide)).trans h0) ((hn 2 (by decide)).trans h2)
  rw [e, (onLinks_calm s _).st]
  exact (hq.st _).trans (leaveUp_st _ _ _)

/-! ## Errors on a lane (R112) -/

/-- A code error is counted, whether or not it costs the lane its lock. -/
theorem codeErrorBase_cnt (s : State) (l : Fin 11) (lane sym : Nat) :
    (codeErrorBase s l.val lane sym).cnt (Reg.FAB_LINK_CODE_ERR + 0x100 * l.val)
      = min (s.cnt (Reg.FAB_LINK_CODE_ERR + 0x100 * l.val) + 1) 0xFFFFFFFF := by
  unfold codeErrorBase
  extract_lets r es u
  have hu : u.cnt (Reg.FAB_LINK_CODE_ERR + 0x100 * l.val) = min (s.cnt (Reg.FAB_LINK_CODE_ERR + 0x100 * l.val) + 1) 0xFFFFFFFF :=
    State.cnt_bumpBy _ _ 1
  split
  · unfold linkLockLost
    split
    · rw [leaveUp_cnt _ _ _ (linkReg_not_counted l.isLt (by decide)), hu]
    · exact hu
  · exact hu

theorem exec_codeError {s : State} (l : Fin 11) (i : Fin 2) (sym : Nat) (hp : s.pdOn 9 = true) :
    ∃ t, exec (.codeError l i sym) s = .next t
      ∧ t.cnt (Reg.FAB_LINK_CODE_ERR + 0x100 * l.val) = min (s.cnt (Reg.FAB_LINK_CODE_ERR + 0x100 * l.val) + 1) 0xFFFFFFFF := by
  refine ⟨_, congrArg Host.Outcome.next (if_pos hp), ?_⟩
  rw [(onLinks_calm s _).cnt (linkReg_not_follows l.isLt (by decide))]
  exact codeErrorBase_cnt s l i.val sym

/-- A lane that loses lock takes its UP link to BACKOFF, with LINK_STATE. -/
theorem exec_lockLost {s : State} (l : Fin 11) (i : Fin 2) (hp : s.pdOn 9 = true) (h : (s.link l.val).st = .up) :
    ∃ t, exec (.lockLost l i) s = .next t ∧ (t.link l.val).st = .backoff ∧ Raised s t 0x0700 [BitVec.ofNat 8 l.val, 0, 1] := by
  have e : linkLockLost s l.val = leaveUp s l.val .backoff 1 := by simp [linkLockLost, State.linkUp, h]
  have hd : leBytes 1 l.val ++ leBytes 1 0 ++ leBytes 1 1 = [BitVec.ofNat 8 l.val, 0, 1] := by simp [leBytes]
  refine ⟨_, congrArg Host.Outcome.next (if_pos hp), ?_, ?_⟩
  · rw [(onLinks_calm s _).st, e, leaveUp_st]
  · have hlog := onLinks_log s (fun u => linkLockLost u l.val)
    rw [e] at hlog
    rw [← hd]
    exact (leaveUp_raised .backoff 1 h).later (keeps_leaveUp (Keeps.refl s)).log hlog

/-! ## SKP and ALN (R106) -/

theorem exec_skp_idle {s : State} (l : Fin 11) (hp : s.pdOn 9 = true) (h1 : (s.link l.val).st ≠ .disabled) (h2 : (s.link l.val).st ≠ .backoff)
    (hc : (s.link l.val).cur = none) : exec (.skp l) s = .next (sendSkp s l.val) := by
  have e : doSkp s l.val = sendSkp s l.val := by simp [doSkp, h1, h2, hc]
  rw [← e]
  exact congrArg Host.Outcome.next (if_pos hp)

theorem exec_skp_busy {s : State} (l : Fin 11) (hp : s.pdOn 9 = true) (h1 : (s.link l.val).st ≠ .disabled) (h2 : (s.link l.val).st ≠ .backoff)
    (hc : (s.link l.val).cur ≠ none) : exec (.skp l) s = .next (s.setLink l.val { s.link l.val with skpDue := true }) := by
  have e : doSkp s l.val = s.setLink l.val { s.link l.val with skpDue := true } := by
    simp [doSkp, h1, h2, Option.isSome_iff_ne_none.mpr hc]
  rw [← e]
  exact congrArg Host.Outcome.next (if_pos hp)

theorem sendSkp_link (s : State) (l : Nat) :
    (sendSkp s l).link l = { s.link l with skps := ((s.link l).skps + 1) % 16, skpDue := false } := State.link_setLink _ _ _

/-- Settles O48: a write of FAB_LINK_CTRL is its effect with what follows a link behind it, and so is an error of a lane. -/
theorem linksAreControlledAndFail : Obligations.LinksAreControlledAndFail := by
  unfold Obligations.LinksAreControlledAndFail
  refine ⟨fun s a l v h => ⟨fun ho hst h0 h2 => ?_, fun ho h0 h2 h1 hst => ?_, fun ho h0 h2 h1 hst => ?_⟩,
    fun s l i sym hp => ⟨exec_codeError l i sym hp, exec_lockLost l i hp, fun h1 h2 hc => ?_, fun h1 h2 hc => ?_⟩⟩
  · exact ⟨_, rfl, linkEnable_starts h ho hst h0 h2⟩
  · exact ⟨_, rfl, linkEnable_stops h ho h0 h2 h1 hst⟩
  · exact ⟨_, rfl, linkRetrain_backsOff h ho h0 h2 h1 hst⟩
  · exact ⟨_, exec_skp_idle l hp h1 h2 hc, by rw [sendSkp_link], rfl⟩
  · exact ⟨_, exec_skp_busy l hp h1 h2 hc, by rw [State.link_setLink], rfl⟩

end Sys2Proof.Machine

/-! SUPPORT. CAPS and packets on a link: their arrival, their end, and a held packet's release (R110, R114 to R117, R133). -/

namespace Sys2Proof.Machine

/-! ## CAPS and CAPS_ACK (R110) -/

/-- The first field of a payload is its first byte. -/
theorem fieldAt_leBytes_first (n x : Nat) : fieldAt (leBytes (n + 1) x) 0 1 = x % 256 := by
  simp [fieldAt, slice, leBytes, leNat]

/-- The peer that a CAPS names. -/
def LinkRec.withPeer (r : LinkRec) (pay : List Byte) (seen mis : Bool) : LinkRec :=
  { r with peerAddr := fieldAt pay 4 2 % 1024, peerDom := fieldAt pay 6 2 % 1024, peerLink := fieldAt pay 2 1, peerFlags := fieldAt pay 3 1,
           peerUid := BitVec.ofNat 64 (fieldAt pay 8 8), capsSeen := seen, mismatch := mis }

/-- A CAPS gives a link in CAPS its peer; the answer and the events behind it leave that alone. -/
theorem doCaps_caps {s : State} {l : Nat} {pay : List Byte} (h : (s.link l).st = .caps) (h0 : fieldAt pay 0 1 ≠ 1) :
    ∃ seen mis, TrainKept (s.setLink l ((s.link l).withPeer pay seen mis)) (doCaps s l pay) := by
  let mis := (l == 10) != bit (fieldAt pay 3 1) 2
  refine ⟨(s.link l).capsSeen || !mis, (s.link l).mismatch || mis, ?_⟩
  unfold doCaps
  extract_lets -merge -underBinder +onlyGivenNames u r fl a d k uid changed mis' v w x y
  have hst : r.st = .caps := h
  rw [if_neg (by simp [hst]), if_neg h0]
  have hv : TrainKept (s.setLink l ((s.link l).withPeer pay ((s.link l).capsSeen || !mis) ((s.link l).mismatch || mis))) v := .of_links rfl
  have hw : TrainKept v w := trainKept_sendLinkClass v l _
  have hx : TrainKept w x := .ite (trainKept_raise _ _ _) (.refl w)
  have hy : TrainKept x y := .ite (trainKept_raise _ _ _) (.refl x)
  have hz := hv.trans (hw.trans (hx.trans hy))
  rw [if_neg (by simp [hst])]
  exact .ite (hz.trans (trainKept_raise _ _ _)) hz

/-- A CAPS_ACK that repeats this device's payload acknowledges it. -/
theorem doCaps_ack {s : State} {l : Nat} (h : (s.link l).st = .caps) :
    doCaps s l (capsPayload s l 1) = (takeLocal s fun p => p.cls == clsLINK && p.data == capsPayload s l 1).setLink l { s.link l with capsAcked := true } := by
  have h1 : fieldAt (capsPayload s l 1) 0 1 = 1 := by
    simp only [capsPayload, List.append_assoc]
    exact fieldAt_middle (a := []) 1 rfl
  have hl : ∀ f, (takeLocal s f).link l = s.link l := fun _ => rfl
  have hp : ∀ f, capsPayload (takeLocal s f) l 1 = capsPayload s l 1 := fun _ => rfl
  simp [doCaps, h1, hl, hp, h]

theorem exec_caps {s : State} (l : Fin 11) (payload : BitVec 256) (hp : s.pdOn 9 = true) :
    ∃ t, exec (.caps l payload) s = .next t ∧ TrainKept (doCaps s l.val (leBytes 32 payload.toNat)) t :=
  ⟨_, congrArg Host.Outcome.next (if_pos hp), trainKept_onLinks s _⟩

/-! ## A packet that arrives with a wrong CRC (R115, R116) -/

theorem abortCopies_calm (s : State) (l : Nat) (p : Packet) : Calm s (abortCopies s l p) := by
  unfold abortCopies
  extract_lets q
  refine CalmOf.foldl (.refl s) fun u k g => ?_
  extract_lets r
  exact .ite (calm_State_emit counted (calm_State_emit counted (calm_State_setLink rfl g))) g

/-- A wrong CRC is counted; the rest of it moves no link and no other register but counters. -/
theorem crcBad_calm (s : State) (l : Nat) (p : Packet) : Calm (s.bump (Reg.FAB_LINK_CRC_ERR + 0x100 * l)) (crcBad s l p) := by
  unfold crcBad
  extract_lets -merge -underBinder +onlyGivenNames u r v w x y
  have hv : Calm u v := .ite (calm_State_setLink rfl (.refl u)) (calm_State_raise counted (calm_State_setLink rfl (.refl u)))
  have hw : Calm u w := hv.trans (abortCopies_calm v l p)
  have hy : Calm u y := hw.upd
  exact .ite (.ite (hy.trans (mirrorLose_calm y 1)) hy) hw

/-- A packet that arrives is counted on its link. -/
def packetCounted (s : State) (l : Nat) : State := s.setLink l { s.link l with rxPkts := (s.link l).rxPkts + 1 }

theorem doPacketReceive_bad {s : State} {l : Nat} {p : Packet} {crc : U32} (hst : (s.link l).st = .up) (hm : malformed p = false)
    (hc : crc ≠ crc32 p.bytes) : doPacketReceive s l p crc false = crcBad (packetCounted s l) l p := by
  simp [doPacketReceive, hst, hm, hc, packetCounted]

theorem packetCounted_calm (s : State) (l : Nat) : Calm s (packetCounted s l) := calm_State_setLink rfl (.refl s)

/-- Counting a wrong CRC moves no link and counts no code error. -/
theorem crcBad_still (s : State) (l : Nat) (p : Packet) : Still s (crcBad s l p) := by
  have h : Still s (s.bump (Reg.FAB_LINK_CRC_ERR + 0x100 * l)) := ⟨fun _ => rfl, fun k hk => State.cnt_bumpBy_ne _ _ _ _ (by simp only [Reg.FAB_LINK_CRC_ERR]; omega)⟩
  exact h.trans (crcBad_calm s l p).still

/-- What a wrong CRC may change. -/
abbrev crcParts : List Part := [.mir, .links, .exch, .rate] ++ localEventParts

/-- A gateway that stays one raises an event into its own rings. -/
theorem gateway_raise {s u : State} (hs : s.isGateway = true) (g : Frame crcParts s u) (code : Nat) (data : List Byte) :
    Frame crcParts s (u.raise code data) := by
  have hr : u.sys.ready = s.sys.ready := g.keep .ready (by decide)
  have hu : u.isGateway = true := by rw [← hs, State.isGateway, State.isGateway, State.isReady, State.isReady, hr]
  exact g.trans ((frame_raise_here (.inl hu) code data).mono (by decide))

/-- The mirror's packets that leave a gateway deliver nothing inside it. -/
theorem gateway_mirrorPump {s : State} (hs : s.isGateway = true) (n : Nat) {u : State} (g : Frame crcParts s u) : Frame crcParts s (mirrorPump n u) := by
  induction n generalizing u with
  | zero => exact g
  | succ n ih =>
    rw [mirrorPump]
    split
    · exact g
    · extract_lets -merge -underBinder +onlyGivenNames r used
      refine .ite ?_ g
      extract_lets -merge -underBinder +onlyGivenNames x v
      have hv : Frame crcParts s v := .mir (by decide) g
      exact ih (frame_enqueue (by decide) (fun w c d k => gateway_raise hs k c d) hv)

theorem gateway_mirrorLose {s u : State} (hs : s.isGateway = true) (g : Frame crcParts s u) (cause : Nat) : Frame crcParts s (mirrorLose u cause) := by
  unfold mirrorLose
  refine .ite g ?_
  extract_lets -merge -underBinder +onlyGivenNames x v w
  have hv : Frame crcParts s v := gateway_raise hs (.mir (by decide) g) _ _
  exact .ite (gateway_mirrorPump hs _ (frame_mirrorPacket (by decide) hv)) hv

/-- A gateway delivers nothing inside itself for a packet of a wrong CRC. -/
theorem crcBad_gateway {s : State} (hs : s.isGateway = true) (l : Nat) (p : Packet) : Frame crcParts s (crcBad s l p) := by
  unfold crcBad
  extract_lets -merge -underBinder +onlyGivenNames u r v w x y
  have hu : Frame crcParts s u :=
    frame_State_bump (by decide) (Frame.refl _ s) (.inl (by simp only [Reg.FAB_LINK_CRC_ERR]; omega))
  have hv : Frame crcParts s v := .ite (.links (by decide) hu) (gateway_raise hs (.links (by decide) hu) _ _)
  have hw : Frame crcParts s w := frame_abortCopies (by decide) hv
  have hy : Frame crcParts s y := .mir (by decide) hw
  exact .ite (.ite (gateway_mirrorLose hs hy 1) hy) hw

theorem crcBad_ready (s : State) (l : Nat) (p : Packet) : (crcBad s l p).sys.ready = s.sys.ready :=
  (frame_crcBad (List.Subset.refl _) (Frame.refl _ s)).keep .ready (by decide)

theorem exec_packetReceive_bad {s : State} (l : Fin 11) {p : Packet} {crc : U32} (hp : s.pdOn 9 = true) (hst : (s.link l.val).st = .up)
    (hm : malformed p = false) (hc : crc ≠ crc32 p.bytes) :
    exec (.packetReceive l p crc false) s = .next (crcBad (packetCounted s l.val) l.val p) := by
  have e := doPacketReceive_bad hst hm hc
  refine congrArg Host.Outcome.next ((if_pos hp).trans ((onLinks_still ?_ ?_).trans e)) <;> rw [e]
  · exact (packetCounted_calm s l.val).still.trans (crcBad_still _ _ _)
  · rw [State.peerUp, State.peerUp, State.isReady, State.isReady, crcBad_ready]
    rfl

/-! ## A good packet (R117) -/

/-- A good packet of class LINK or TIME is counted and delivered. -/
theorem doPacketReceive_local {s : State} {l : Nat} {p : Packet} (hst : (s.link l).st = .up) (hm : malformed p = false)
    (hc : p.cls = clsLINK ∨ p.cls = clsTIME) : doPacketReceive s l p (crc32 p.bytes) false = deliver (packetCounted s l) p := by
  rcases hc with hc | hc <;> simp [doPacketReceive, hst, hm, hc, packetCounted, clsLINK, clsTIME, clsMIRROR]

theorem exec_packetReceive_local {s : State} (l : Fin 11) {p : Packet} (hp : s.pdOn 9 = true) (hst : (s.link l.val).st = .up)
    (hm : malformed p = false) (hc : p.cls = clsLINK ∨ p.cls = clsTIME) :
    exec (.packetReceive l p (crc32 p.bytes) false) s = .next (deliver (packetCounted s l.val) p) := by
  have e := doPacketReceive_local hst hm hc
  refine congrArg Host.Outcome.next ((if_pos hp).trans ((onLinks_still ?_ ?_).trans e)) <;> rw [e]
  · exact Calm.still (calm_deliver counted (packetCounted_calm s l.val))
  · rfl

/-! ## The CRC window (R115) -/

theorem exec_linkCrcWindowEnd {s : State} (l : Fin 11) (hp : s.pdOn 9 = true) (ho : (s.link l.val).crcOpen = true) (hm : (s.link l.val).crcMore ≠ 0) :
    exec (.linkCrcWindowEnd l) s = .next ((s.setLink l.val { s.link l.val with crcOpen := false, crcMore := 0 }).raise 0x0701
      (BitVec.ofNat 8 l.val :: leBytes 4 (s.link l.val).crcMore)) := by
  refine congrArg Host.Outcome.next ((if_pos hp).trans ?_)
  simp [doCrcWindowEnd, ho, hm, leBytes]

/-! ## The end of a packet (R106, R114) -/

/-- A link with nothing to send sends nothing. -/
theorem pumpLink_empty {s : State} {l : Nat} (hq : (s.link l).queue = []) (hh : (s.link l).tephra.heldPkt = none) : pumpLink s l = s := by
  have hfind : (List.range 7).findSome? (fun i => ([] : List Packet).find? (fun p => clsPrio p.cls == i + 1)) = none := by simp
  simp only [pumpLink, startNext, hh, hq, hfind, ite_self]

/-- An empty queue leaves the link idle behind a packet. -/
theorem doPacketEnd_empty {s : State} {l : Nat} (hq : (s.link l).queue = []) (hh : (s.link l).tephra.heldPkt = none)
    (hw : l ≠ 10 ∨ s.mir.waiting = []) : ((doPacketEnd s l).link l).cur = none := by
  unfold doPacketEnd
  extract_lets -merge -underBinder +onlyGivenNames r u v w
  have hv : v.link l = { s.link l with cur := none, curAbt := false, cutFrom := none } := by
    have hu : u.link l = { s.link l with cur := none, curAbt := false, cutFrom := none } := State.link_setLink _ _ _
    simp only [v]
    split <;> exact hu
  have hvm : v.mir = s.mir := by
    simp only [v]
    split <;> rfl
  let x := if (v.link l).skpDue then sendSkp v l else v
  have hx : (x.link l).cur = none ∧ (x.link l).queue = [] ∧ (x.link l).tephra.heldPkt = none ∧ x.mir = s.mir := by
    simp only [x]
    split
    · rw [sendSkp_link, hv]
      exact ⟨rfl, hq, hh, hvm⟩
    · rw [hv]
      exact ⟨rfl, hq, hh, hvm⟩
  obtain ⟨hcur, hxq, hxh, hxm⟩ := hx
  have hwx : w = x := pumpLink_empty hxq hxh
  rw [hwx]
  split
  next h10 =>
    have hw' : x.mir.waiting = [] := by rw [hxm]; exact hw.resolve_left (by simpa using h10)
    rw [hw']
    exact hcur
  · exact hcur

/-! ## The release of a held packet (R133) -/

/-- A packet whose wait has ended is sent on an idle link, and nothing is held behind it. -/
theorem doReorderRelease_idle {s : State} {l m : Nat} {p : Packet} (hh : (s.link l).tephra.heldPkt = some (p, m)) (hc : (s.link l).cur = none) :
    ((doReorderRelease s l).link l).cur = some (timeStamped s p) ∧ ((doReorderRelease s l).link l).tephra.heldPkt = none := by
  let r : LinkRec := { s.link l with tephra := { (s.link l).tephra with heldPkt := some (p, 0) } }
  let r' : LinkRec := { s.link l with tephra := { (s.link l).tephra with heldPkt := none } }
  let v := (s.setLink l r).setLink l r'
  have e : doReorderRelease s l = sendOn (departs v l p) l (timeStamped v p) (crc32 (timeStamped v p).bytes) := by
    simp only [doReorderRelease, hh, pumpLink, State.link_setLink, startNext, hc, Option.isSome_none, Bool.false_eq_true, if_false,
      timeStamped_departs, v, r, r']
  have hd : (departs v l p).link l = r' := by
    have h : (departs v l p).fab.links = v.fab.links := (frame_departs (List.Subset.refl _) (Frame.refl _ v)).keep .links (by decide)
    have hv : v.link l = r' := State.link_setLink _ _ _
    rw [← hv, State.link, State.link, h]
  rw [e]
  refine ⟨sendOn_cur _ _ _ _, ?_⟩
  have hs : (sendOn (departs v l p) l (timeStamped v p) (crc32 (timeStamped v p).bytes)).link l
      = { (departs v l p).link l with cur := some (timeStamped v p), txPkts := ((departs v l p).link l).txPkts + 1 } := State.link_setLink _ _ _
  rw [hs, hd]

/-- Settles O49: what an event, an answer or a drop behind a packet does leaves the peer, the windows and the counters of the links alone. -/
theorem capsAndPacketsCrossLinks : Obligations.CapsAndPacketsCrossLinks := by
  unfold Obligations.CapsAndPacketsCrossLinks
  refine ⟨fun s l payload hp h => ⟨fun h0 => ?caps, fun hack => ?ack⟩, fun s l p crc hp => ⟨fun hst hm hc => ?bad, fun hst hm hc hcls => ?good,
    fun ho hm => ?window, fun hq hh hw => ?ended, fun m hh hc => ?released⟩⟩
  case caps =>
    obtain ⟨t, he, ht⟩ := exec_caps l payload hp
    obtain ⟨seen, mis, hd⟩ := doCaps_caps (pay := leBytes 32 payload.toNat) h (by rw [fieldAt_leBytes_first, h0]; decide)
    have hk := hd.trans ht
    have hlink := State.link_setLink s l.val ((s.link l.val).withPeer (leBytes 32 payload.toNat) seen mis)
    refine ⟨t, he, ?_, ?_, ?_, ?_⟩
    · rw [hk.field LinkRec.peerAddr, hlink]
      rfl
    · rw [hk.field LinkRec.peerDom, hlink]
      rfl
    · rw [hk.field LinkRec.peerLink, hlink]
      rfl
    · rw [hk.field LinkRec.peerUid, hlink]
      rfl
  case ack =>
    obtain ⟨t, he, ht⟩ := exec_caps l payload hp
    refine ⟨t, he, ?_⟩
    rw [ht.field LinkRec.capsAcked, hack, doCaps_ack h, State.link_setLink]
  case bad =>
    refine ⟨_, exec_packetReceive_bad l hp hst hm hc, ?_, fun hg => ?_⟩
    · rw [(crcBad_calm _ l.val p).cnt (linkReg_not_counted l.isLt (by decide))]
      exact State.cnt_bumpBy _ _ 1
    · exact (crcBad_gateway (s := packetCounted s l.val) hg l.val p).keep .localQ (by decide)
  case good =>
    subst hc
    refine ⟨_, exec_packetReceive_local l hp hst hm hcls, rfl, ?_⟩
    have h : (deliver (packetCounted s l.val) p).link l.val = (packetCounted s l.val).link l.val := rfl
    rw [h, packetCounted, State.link_setLink]
  case window =>
    refine ⟨_, exec_linkCrcWindowEnd l hp ho hm, ?_, raised_raise _ _ (List.suffix_refl _)⟩
    rw [(trainKept_raise _ _ _).field LinkRec.crcOpen, State.link_setLink]
  case ended => exact ⟨_, congrArg Host.Outcome.next (if_pos hp), doPacketEnd_empty hq hh hw⟩
  case released => exact ⟨_, congrArg Host.Outcome.next (if_pos hp), doReorderRelease_idle hh hc⟩

end Sys2Proof.Machine

/-! SUPPORT. Rows that take a write once, or with a key: FAB_NODE_ADDR, CMP_SLATE_BASE, SYS_RESET, SYS_LIFECYCLE_ADV, EDG_AON_CLEAR and FUM_LOCK. -/

namespace Sys2Proof.Machine

/-! ## A write around what it leaves (R323, R326) -/

/-- A state before or after the parity of a written register is new. -/
def Cured (s : State) (off : Nat) (u : State) : Prop := u = s ∨ u = cureParity s off

theorem Cured.frame {s u : State} {off : Nat} (h : Cured s off u) : Frame [.parity, .pair] s u := by
  rcases h with rfl | rfl
  · exact .refl _ u
  · exact frame_cureParity (List.Subset.refl _) (.refl _ s)

theorem Cured.quiet {s u : State} {off : Nat} (h : Cured s off u) : Quiet s u := by
  rcases h with rfl | rfl
  · exact .refl u
  · exact cureParity_quiet s off

/-- What a write leaves in a state with new parity: its register's effect, or the value stored. -/
def written (u : State) (a : Acc) (off : Nat) (d : RegDef) (i j old new : Nat) : State :=
  (writeEffect u a off d i j old new).getD (if d.flds.all (fun f => f.acc == .wo) then u else u.setReg off new)

theorem acceptWrite_cured (s : State) (a : Acc) (off : Nat) (d : RegDef) (i j old new : Nat) :
    ∃ u, Cured s off u ∧ acceptWrite s a 0 off d i j old new = written u a off d i j old new := by
  refine ⟨if (0 : Nat) = 0 ∧ !(lockedWhole d old) then cureParity s off else s, ?_, ?_⟩
  · split
    · exact .inr rfl
    · exact .inl rfl
  · unfold acceptWrite written
    extract_lets t e
    rw [show writeEffect t a off d i j old new = e from rfl]
    cases e with
    | some w => rfl
    | none =>
      have e0 : storeOff 0 off = off := by simp [storeOff]
      show (if _ then t else t.setReg (storeOff 0 off) new) = _
      rw [e0]
      rfl

/-- A row's write that reaches its register, breaks no rule and moves no link is what it leaves, after new parity. -/
theorem rowWrite_cured {s : State} {a : Acc} {off : Nat} {v : U32} {d : RegDef} {i j : Nat} {f : State → State} {m : List Part}
    (h : Reaches s a off) (h4 : inBootWindow off = false ∧ off % 4 = 0) (hf : findReg off = some (d, i, j)) (hb : d.base ≠ Reg.MBX_SEL)
    (hu : unitFor s d i = none) (hm : writeMask d i (privileged s a) ≠ 0)
    (hx : fieldFault s a 0 d i j (oldValue s d off i) (mergeWrite d i (privileged s a) (oldValue s d off i) v.toNat) = none)
    (he : ∀ u, written u a off d i j (oldValue s d off i) (mergeWrite d i (privileged s a) (oldValue s d off i) v.toNat) = f u)
    (hs : ∀ u, Still u (f u)) (hfr : ∀ u, Frame m u (f u)) (hmem : Part.ready ∉ m ∧ Part.mode ∉ m) :
    ∃ u, Cured s off u ∧ rowWrite s a off v = f u := by
  have ht : touchUnit s d i = s := by simp [touchUnit, hu]
  obtain ⟨u, hc, hu3⟩ := acceptWrite_cured s a off d i j (oldValue s d off i) (mergeWrite d i (privileged s a) (oldValue s d off i) v.toNat)
  rw [he] at hu3
  have e : regWrite32 s a off v = f u := by
    rw [← hu3]
    have := regWrite32_accept (v := v) h h4 hf hb (by rw [ht]; exact hm) (by rw [ht]; exact hx)
    rwa [ht] at this
  have hr : same .ready s (f u) := (hc.frame.keep .ready (by decide)).trans ((hfr u).keep .ready hmem.1)
  have hmd : same .mode s (f u) := (hc.frame.keep .mode (by decide)).trans ((hfr u).keep .mode hmem.2)
  exact ⟨u, hc, rowWrite_still e (hc.quiet.still.trans (hs u)) hr (by rw [hmd.1]; exact h.2.1)⟩

/-- A row of which the accessor can write nothing stays as it is. -/
theorem rowWrite_unwritable {s : State} {a : Acc} {off : Nat} {v : U32} {d : RegDef} {i j : Nat} (h : Reaches s a off)
    (h4 : inBootWindow off = false ∧ off % 4 = 0) (hf : findReg off = some (d, i, j)) (hb : d.base ≠ Reg.MBX_SEL)
    (hu : unitFor s d i = none) (hm : writeMask d i (privileged s a) = 0) : rowWrite s a off v = s :=
  rowWrite_still (regWrite32_unwritable h h4 hf hb hu hm) (.refl s) rfl h.2.1

/-- Bits that the accessor can write are those written. -/
theorem bits_mergeWrite {d : RegDef} {i m hi lo : Nat} {p : Bool} (old v : Nat) (hm : writeMask d i p = m)
    (h : ∀ k, k < hi + 1 → lo ≤ k → m.testBit k = true ∧ (0xFFFFFFFF - m).testBit k = false) :
    bits (mergeWrite d i p old v) hi lo = bits v hi lo := by
  refine Nat.eq_of_testBit_eq fun k => ?_
  simp only [bits, Nat.testBit_mod_two_pow, Nat.testBit_shiftRight]
  by_cases hk : k < hi + 1 - lo
  · obtain ⟨h1, h2⟩ := h (lo + k) (by omega) (by omega)
    simp only [mergeWrite, hm, Nat.testBit_or, Nat.testBit_and, h1, h2, Bool.and_false, Bool.false_or, Bool.and_true]
  · simp [hk]

/-! ## Rows with a key (R288, R339) -/

/-- A row with the fields KEY and GO. -/
def keyRow (name : String) (off : Nat) : RegDef := ⟨name, off, 1, 0, 1, 0, [pvf "KEY" 31 16 .wo 0, pvf "GO" 0 0 .wo 0]⟩

theorem keyRow_mask (name : String) (off : Nat) (p : Bool) : writeMask (keyRow name off) 0 p = if p then 0xFFFF0001 else 0 := by
  cases p <;> simp [writeMask, keyRow, pvField, Fld.mask, pvf]

/-- What a privileged write of a row with KEY and GO hands on: the key and the bit written. -/
theorem keyRow_new (name : String) (off old : Nat) (v : U32) :
    bits (mergeWrite (keyRow name off) 0 true old v.toNat) 31 16 = bits v.toNat 31 16
      ∧ bit (mergeWrite (keyRow name off) 0 true old v.toNat) 0 = v.getLsbD 0 := by
  have hm := keyRow_mask name off true
  refine ⟨bits_mergeWrite old v.toNat hm (by decide), bit_mergeWrite ?_ ?_⟩ <;> rw [hm] <;> decide

/-- A privileged write of SYS_RESET is what its key and its bit make of it. -/
theorem sysReset_write {s : State} {a : Acc} (v : U32) (h : Reaches s a Reg.SYS_RESET) (hp : privileged s a = true) :
    ∃ u new, Cured s Reg.SYS_RESET u ∧ rowWrite s a Reg.SYS_RESET v = resetWrite u new
      ∧ bits new 31 16 = bits v.toNat 31 16 ∧ bit new 0 = v.getLsbD 0 := by
  obtain ⟨u, hu, e⟩ := rowWrite_cured (v := v) (d := keyRow "SYS_RESET" Reg.SYS_RESET) (i := 0) (j := 0) h (by decide) (by rfl) (by decide) (by rfl)
    (by rw [keyRow_mask, hp]; decide) (by rfl) (fun u => by rfl) (fun u => by
      unfold resetWrite
      split
      · exact (Still.refl u).upd
      · exact .refl u)
    (fun u => frame_resetWrite (List.Subset.refl _) (.refl _ u)) (by decide)
  rw [hp] at e
  exact ⟨u, _, hu, e, keyRow_new _ _ _ v⟩

/-- R288: the key and GO schedule a full reset. -/
theorem sysReset_schedules {s : State} {a : Acc} {v : U32} (h : Reaches s a Reg.SYS_RESET) (hp : privileged s a = true)
    (hk : bits v.toNat 31 16 = 0xB824) (h0 : v.getLsbD 0 = true) (hn : s.sys.power.resetDue = none) :
    (rowWrite s a Reg.SYS_RESET v).sys.power.resetDue = some (s.clk + 10000) := by
  obtain ⟨u, new, hu, e, hnk, hn0⟩ := sysReset_write v h hp
  have hpow : u.sys.power = s.sys.power := hu.frame.keep .power (by decide)
  have hclk : u.clk = s.clk := hu.frame.keep .clk (by decide)
  simp [e, resetWrite, hnk, hk, hn0, h0, hpow, hn, hclk]

/-- A write of SYS_RESET with another key schedules nothing. -/
theorem sysReset_wrongKey {s : State} {a : Acc} {v : U32} (h : Reaches s a Reg.SYS_RESET) (hk : bits v.toNat 31 16 ≠ 0xB824) :
    (rowWrite s a Reg.SYS_RESET v).sys.power.resetDue = s.sys.power.resetDue := by
  cases hp : privileged s a with
  | false =>
    rw [rowWrite_unwritable (d := keyRow "SYS_RESET" Reg.SYS_RESET) (i := 0) (j := 0) h (by decide) (by rfl) (by decide) (by rfl) (by rw [keyRow_mask, hp]; rfl)]
  | true =>
    obtain ⟨u, new, hu, e, hnk, -⟩ := sysReset_write v h hp
    have hpow : u.sys.power = s.sys.power := hu.frame.keep .power (by decide)
    simp [e, resetWrite, hnk, hk, hpow]

/-- A privileged write of SYS_LIFECYCLE_ADV is what its key and its bit make of it. -/
theorem sysLifecycleAdv_write {s : State} {a : Acc} (v : U32) (h : Reaches s a Reg.SYS_LIFECYCLE_ADV) (hp : privileged s a = true) :
    ∃ u new, Cured s Reg.SYS_LIFECYCLE_ADV u ∧ rowWrite s a Reg.SYS_LIFECYCLE_ADV v = lifecycleAdv u new
      ∧ bits new 31 16 = bits v.toNat 31 16 ∧ bit new 0 = v.getLsbD 0 := by
  obtain ⟨u, hu, e⟩ := rowWrite_cured (v := v) (d := keyRow "SYS_LIFECYCLE_ADV" Reg.SYS_LIFECYCLE_ADV) (i := 0) (j := 0) h (by decide) (by rfl) (by decide)
    (by rfl) (by rw [keyRow_mask, hp]; decide) (by rfl) (fun u => by rfl) (fun u => by
      unfold lifecycleAdv
      split
      · exact (Still.refl u).upd
      · exact .refl u)
    (fun u => frame_lifecycleAdv (List.Subset.refl _) (.refl _ u)) (by decide)
  rw [hp] at e
  exact ⟨u, _, hu, e, keyRow_new _ _ _ v⟩

/-- R339: in SERVICE the key and GO arm the advance of DEVELOPMENT. -/
theorem sysLifecycleAdv_arms {s : State} {a : Acc} {v : U32} (h : Reaches s a Reg.SYS_LIFECYCLE_ADV) (hp : privileged s a = true)
    (hk : bits v.toNat 31 16 = 0x5052) (h0 : v.getLsbD 0 = true) (hm : s.sys.mode = .service) (hl : s.otp.lifecycle = 0) :
    (rowWrite s a Reg.SYS_LIFECYCLE_ADV v).otp = { s.otp with advance := true } := by
  obtain ⟨u, new, hu, e, hnk, hn0⟩ := sysLifecycleAdv_write v h hp
  have hotp : u.otp = s.otp := hu.frame.keep .otp (by decide)
  have hmode : u.sys.mode = s.sys.mode := (hu.frame.keep .mode (by decide)).1
  simp [e, lifecycleAdv, hnk, hk, hn0, h0, hotp, hl, hmode, hm]

/-- Outside SERVICE or DEVELOPMENT, or with another key, a write of SYS_LIFECYCLE_ADV arms nothing. -/
theorem sysLifecycleAdv_refuses {s : State} {a : Acc} {v : U32} (h : Reaches s a Reg.SYS_LIFECYCLE_ADV)
    (hx : s.sys.mode ≠ .service ∨ s.otp.lifecycle ≠ 0 ∨ bits v.toNat 31 16 ≠ 0x5052) : (rowWrite s a Reg.SYS_LIFECYCLE_ADV v).otp = s.otp := by
  cases hp : privileged s a with
  | false =>
    rw [rowWrite_unwritable (d := keyRow "SYS_LIFECYCLE_ADV" Reg.SYS_LIFECYCLE_ADV) (i := 0) (j := 0) h (by decide) (by rfl) (by decide) (by rfl)
      (by rw [keyRow_mask, hp]; rfl)]
  | true =>
    obtain ⟨u, new, hu, e, hnk, -⟩ := sysLifecycleAdv_write v h hp
    have hotp : u.otp = s.otp := hu.frame.keep .otp (by decide)
    have hmode : u.sys.mode = s.sys.mode := (hu.frame.keep .mode (by decide)).1
    have hno : ¬(bits new 31 16 = 0x5052 ∧ bit new 0 ∧ u.sys.mode = .service ∧ u.otp.lifecycle = 0) := by
      rw [hnk, hmode, hotp]
      tauto
    rw [e, lifecycleAdv, if_neg hno, hotp]

/-! ## EDG_AON_CLEAR (R407) -/

/-- The row of EDG_AON_CLEAR. -/
def aonClearRow : RegDef :=
  ⟨"EDG_AON_CLEAR", Reg.EDG_AON_CLEAR, 1, 0, 1, 0, [pvf "KEY" 31 16 .wo 0, pvf "RELQ" 2 2 .wo 0, pvf "MEMFRZ" 1 1 .wo 0, pvf "FATAL" 0 0 .wo 0]⟩

theorem aonClearRow_mask (p : Bool) : writeMask aonClearRow 0 p = if p then 0xFFFF0007 else 0 := by
  cases p <;> simp [writeMask, aonClearRow, pvField, Fld.mask, pvf]

/-- The rule of EDG_AON_CLEAR is its key. -/
theorem fieldFault_aonClear (s : State) (a : Acc) (old new : Nat) :
    fieldFault s a 0 aonClearRow 0 0 old new = if bits new 31 16 ≠ 0xA0C1 then some .value else none := by
  have e : fieldFault s a 0 aonClearRow 0 0 old new = if false || decide (bits new 31 16 ≠ 0xA0C1) then some .value else none := by rfl
  rw [e]
  simp

theorem aonClear_still (s : State) (v : Nat) : Still s (aonClear s v) := by
  unfold aonClear
  extract_lets -merge -underBinder +onlyGivenNames x u y w
  have hu : Still s u := by
    simp only [u]
    split
    · exact (Still.refl s).upd
    · exact .refl s
  have hw : Still s w := by
    simp only [w]
    split
    · exact hu.upd
    · exact hu
  split
  · exact hw.upd
  · exact hw

/-- R407: the key clears the records that the write selects, and nothing else of the island. -/
theorem edgAonClear_clears {s : State} {a : Acc} {v : U32} (h : Reaches s a Reg.EDG_AON_CLEAR) (hp : privileged s a = true)
    (hk : bits v.toNat 31 16 = 0xA0C1) :
    (rowWrite s a Reg.EDG_AON_CLEAR v).aon = { s.aon with
      fault := if v.getLsbD 0 then List.replicate 12 0 ++ slice s.aon.fault 12 3 ++ [0] else s.aon.fault,
      freeze := if v.getLsbD 1 then List.replicate 12 0 ++ slice s.aon.freeze 12 2 ++ [0, 0] else s.aon.freeze,
      freezeTime := if v.getLsbD 1 then 0 else s.aon.freezeTime, relq := if v.getLsbD 2 then [] else s.aon.relq } := by
  have hm := aonClearRow_mask true
  have hnk : ∀ old, bits (mergeWrite aonClearRow 0 true old v.toNat) 31 16 = bits v.toNat 31 16 := fun old =>
    bits_mergeWrite old v.toNat hm (by decide)
  have hnb : ∀ old k, k < 3 → bit (mergeWrite aonClearRow 0 true old v.toNat) k = v.getLsbD k := fun old k hk => by
    refine bit_mergeWrite ?_ ?_ <;> rw [hm] <;> revert k <;> decide
  obtain ⟨u, hu, e⟩ := rowWrite_cured (v := v) (d := aonClearRow) (i := 0) (j := 0) h (by decide) (by rfl) (by decide) (by rfl)
    (by rw [hp, hm]; decide) (by rw [hp, fieldFault_aonClear, hnk, hk]; rfl) (fun u => by rfl) (fun u => aonClear_still u _)
    (fun u => frame_aonClear (List.Subset.refl _) (.refl _ u)) (by decide)
  have haon : u.aon = s.aon := hu.frame.keep .aon (by decide)
  have h12 : leBytes 12 0 = List.replicate 12 0 := by decide
  have h1 : leBytes 1 0 = [0] := by decide
  have h2 : leBytes 2 0 = [0, 0] := by decide
  rw [hp] at e
  rw [e]
  unfold aonClear
  simp only [hnb _ 0 (by decide), hnb _ 1 (by decide), hnb _ 2 (by decide), h12, h1, h2]
  cases v.getLsbD 0 <;> cases v.getLsbD 1 <;> cases v.getLsbD 2 <;> simp [haon]

/-- With another key nothing of the island is cleared. -/
theorem edgAonClear_wrongKey {s : State} {a : Acc} {v : U32} (h : Reaches s a Reg.EDG_AON_CLEAR) (hk : bits v.toNat 31 16 ≠ 0xA0C1) :
    (rowWrite s a Reg.EDG_AON_CLEAR v).aon = s.aon := by
  cases hp : privileged s a with
  | false =>
    rw [rowWrite_unwritable (d := aonClearRow) (i := 0) (j := 0) h (by decide) (by rfl) (by decide) (by rfl) (by rw [hp, aonClearRow_mask]; rfl)]
  | true =>
    have hm := aonClearRow_mask true
    have hx : ∀ old, fieldFault s a 0 aonClearRow 0 0 old (mergeWrite aonClearRow 0 true old v.toNat) = some .value := fun old => by
      rw [fieldFault_aonClear, bits_mergeWrite old v.toNat hm (by decide), if_pos hk]
    rw [rowWrite_refused h.2.1 (regWrite32_refused (d := aonClearRow) (i := 0) (j := 0) (v := v) h (by decide) (by rfl) (by decide) (by rfl)
      (by rw [hp, hm]; decide) (by rw [hp]; exact hx _))]
    exact (frame_State_raf (List.Subset.refl _) (.refl _ s)).keep .aon (by decide)

/-! ## FAB_NODE_ADDR (R123, R322) -/

/-- The row of FAB_NODE_ADDR. -/
def nodeAddrRow : RegDef := ⟨"FAB_NODE_ADDR", Reg.FAB_NODE_ADDR, 1, 0, 1, 0, [pvf "ADDR" 9 0 .w1 0x3FF]⟩

theorem nodeAddrRow_mask (p : Bool) : writeMask nodeAddrRow 0 p = if p then 0x3FF else 0 := by
  cases p <;> simp [writeMask, nodeAddrRow, pvField, Fld.mask, pvf]

/-- The rule of FAB_NODE_ADDR is that an address that is assigned stays. -/
theorem fieldFault_nodeAddr {s : State} {a : Acc} (hp : privileged s a = true) (old new : Nat) :
    fieldFault s a 0 nodeAddrRow 0 0 old new = if bits old 9 0 ≠ 0x3FF ∧ bits new 9 0 ≠ bits old 9 0 then some .writeOnce else none := by
  have hw : writeOnceBroken nodeAddrRow 0 old new (privileged s a) = decide (bits old 9 0 ≠ 0x3FF ∧ bits new 9 0 ≠ bits old 9 0) := by
    have e : writeOnceBroken nodeAddrRow 0 old new (privileged s a)
        = ((privileged s a && decide (bits old 9 0 ≠ 0x3FF) && decide (bits new 9 0 ≠ bits old 9 0)) || false) := by rfl
    rw [e, hp]
    simp
  have e : fieldFault s a 0 nodeAddrRow 0 0 old new = if writeOnceBroken nodeAddrRow 0 old new (privileged s a) then some .writeOnce else none := by rfl
  rw [e, hw]
  simp

/-- What an accepted write of FAB_NODE_ADDR does: a new value is stored and told to the peers. -/
def nodeAddrSet (u : State) (old new : Nat) : State := if new = old then u else capsAll (u.setReg Reg.FAB_NODE_ADDR new)

theorem nodeAddr_not_counted : ¬ Counted Reg.FAB_NODE_ADDR := by
  intro h
  rcases h.num with h | ⟨n, h⟩ | ⟨n, h | h | h | h | ⟨w, f, h⟩⟩
  · exact absurd h (by decide)
  all_goals simp only [Reg.FAB_NODE_ADDR] at h; omega

theorem nodeAddrSet_still (u : State) (old new : Nat) : Still u (nodeAddrSet u old new) := by
  unfold nodeAddrSet
  split
  · exact .refl u
  · exact ((Still.refl u).setReg (by decide)).trans (capsAll_calm _).still

theorem nodeAddrSet_frame (u : State) (old new : Nat) :
    Frame [.links, .evSeq, .out, .dorm, .rings, .regs, .irq, .rate, .localQ, .exch] u (nodeAddrSet u old new) :=
  .ite (.refl _ u) (frame_capsAll (by decide) (frame_State_setReg (by decide) (.refl _ u)))

/-- The address is then the one written. -/
theorem nodeAddrSet_addr (u : State) (new : Nat) : (nodeAddrSet u (u.reg Reg.FAB_NODE_ADDR) new).addr = bits new 9 0 := by
  unfold nodeAddrSet
  split
  next h => rw [State.addr, h]
  · rw [State.addr, (capsAll_calm _).reg nodeAddr_not_counted, State.reg_setReg _ _ _ _ rfl]
    simp only [bits, Nat.shiftRight_zero]
    omega

/-- A privileged write of FAB_NODE_ADDR that breaks no rule leaves the address written. -/
theorem fabNodeAddr_accepted {s : State} {a : Acc} {v : U32} (h : Reaches s a Reg.FAB_NODE_ADDR) (hp : privileged s a = true)
    (hx : s.addr = 0x3FF ∨ bits v.toNat 9 0 = s.addr) : (rowWrite s a Reg.FAB_NODE_ADDR v).addr = bits v.toNat 9 0 := by
  have hm := nodeAddrRow_mask true
  have hn : ∀ old, bits (mergeWrite nodeAddrRow 0 true old v.toNat) 9 0 = bits v.toNat 9 0 := fun old => bits_mergeWrite old v.toNat hm (by decide)
  obtain ⟨u, hu, e⟩ := rowWrite_cured (v := v) (d := nodeAddrRow) (i := 0) (j := 0)
    (f := fun u => nodeAddrSet u (s.reg Reg.FAB_NODE_ADDR) (mergeWrite nodeAddrRow 0 (privileged s a) (s.reg Reg.FAB_NODE_ADDR) v.toNat))
    h (by decide) (by rfl) (by decide) (by rfl) (by rw [hp, hm]; decide) (by
      rw [fieldFault_nodeAddr hp, hp, hn]
      exact if_neg fun hb => hx.elim hb.1 hb.2)
    (fun u => by rfl) (fun u => nodeAddrSet_still u _ _) (fun u => nodeAddrSet_frame u _ _) (by decide)
  have hr : u.reg Reg.FAB_NODE_ADDR = s.reg Reg.FAB_NODE_ADDR := hu.quiet.reg id
  rw [e, ← hr, nodeAddrSet_addr, hp, hn]

/-- R322: an address that is assigned stays, whoever writes. -/
theorem fabNodeAddr_assigned {s : State} {a : Acc} {v : U32} (h : Reaches s a Reg.FAB_NODE_ADDR) (hs : s.addr ≠ 0x3FF) :
    (rowWrite s a Reg.FAB_NODE_ADDR v).addr = s.addr := by
  cases hp : privileged s a with
  | false =>
    rw [rowWrite_unwritable (d := nodeAddrRow) (i := 0) (j := 0) h (by decide) (by rfl) (by decide) (by rfl) (by rw [hp, nodeAddrRow_mask]; rfl)]
  | true =>
    by_cases hv : bits v.toNat 9 0 = s.addr
    · rw [fabNodeAddr_accepted h hp (.inr hv), hv]
    · have hm := nodeAddrRow_mask true
      have hx : fieldFault s a 0 nodeAddrRow 0 0 (s.reg Reg.FAB_NODE_ADDR) (mergeWrite nodeAddrRow 0 true (s.reg Reg.FAB_NODE_ADDR) v.toNat)
          = some .writeOnce := by
        rw [fieldFault_nodeAddr hp, bits_mergeWrite _ v.toNat hm (by decide)]
        exact if_pos ⟨hs, hv⟩
      rw [rowWrite_refused h.2.1 (regWrite32_refused (d := nodeAddrRow) (i := 0) (j := 0) (v := v) h (by decide) (by rfl) (by decide) (by rfl)
        (by rw [hp, hm]; decide) (by rw [hp]; exact hx))]
      rw [State.addr, State.addr, (calm_State_raf (.refl s)).reg nodeAddr_not_counted]

/-! ## CMP_SLATE_BASE (R216) -/

/-- The row of CMP_SLATE_BASE. -/
def slateBaseRow : RegDef := ⟨"CMP_SLATE_BASE", Reg.CMP_SLATE_BASE, 1, 0, 1, 0, [pvf "SET" 31 31 .w1 0, pvf "ADDR" 19 0 .w1 0]⟩

theorem slateBaseRow_mask (p : Bool) : writeMask slateBaseRow 0 p = if p then 0x800FFFFF else 0 := by
  cases p <;> simp [writeMask, slateBaseRow, pvField, Fld.mask, pvf]

/-- SET and ADDR of a value with SET. -/
theorem and_slateBase {v : Nat} (h : v.testBit 31 = true) : v &&& 0x800FFFFF = 0x80000000 + v % 0x100000 := by
  have e : (0x800FFFFF : Nat) = 2 ^ 31 ||| (2 ^ 20 - 1) := by decide
  have hlt : v % 2 ^ 20 < 2 ^ 31 := Nat.lt_of_lt_of_le (Nat.mod_lt _ (by decide)) (by decide)
  rw [e, Nat.and_or_distrib_left, Nat.and_two_pow_sub_one_eq_mod, Nat.and_two_pow, h]
  simpa using (Nat.two_pow_add_eq_or_of_lt hlt 1).symm

theorem slateBase_new {v : U32} (h : v.getLsbD 31 = true) : mergeWrite slateBaseRow 0 true 0 v.toNat = 0x80000000 + v.toNat % 0x100000 := by
  rw [← and_slateBase (by simpa [BitVec.getLsbD] using h), mergeWrite, slateBaseRow_mask]
  simp

/-- R216: a write with SET sets the base of the slate store, and no other register. -/
theorem cmpSlateBase_sets {s : State} {a : Acc} {v : U32} (h : Reaches s a Reg.CMP_SLATE_BASE) (hp : privileged s a = true)
    (h0 : s.reg Reg.CMP_SLATE_BASE = 0) (hv : v.getLsbD 31 = true) :
    ∃ u, Quiet s u ∧ rowWrite s a Reg.CMP_SLATE_BASE v = u.setReg Reg.CMP_SLATE_BASE (0x80000000 + v.toNat % 0x100000) := by
  have hm := slateBaseRow_mask true
  have hnew := slateBase_new hv
  have hold : oldValue s slateBaseRow Reg.CMP_SLATE_BASE 0 = 0 := h0
  have hbit : bit (0x80000000 + v.toNat % 0x100000) 31 = true := by
    have := Nat.mod_lt v.toNat (show 0 < 0x100000 by decide)
    simp only [bit, Nat.testBit_eq_decide_div_mod_eq, decide_eq_true_eq]
    omega
  have hx : fieldFault s a 0 slateBaseRow 0 0 0 (0x80000000 + v.toNat % 0x100000) = none := by
    have hva : valueBadA Reg.CMP_SLATE_BASE 0 (0x80000000 + v.toNat % 0x100000) = false := by
      show (decide (bits _ 19 0 ≠ 0) && !(bit _ 31)) = false
      rw [hbit, Bool.not_true, Bool.and_false]
    have hw : writeOnceBroken slateBaseRow 0 0 (0x80000000 + v.toNat % 0x100000) (privileged s a) = false := by
      simp [writeOnceBroken, slateBaseRow, pvf, Fld.of, bits]
    have e : fieldFault s a 0 slateBaseRow 0 0 0 (0x80000000 + v.toNat % 0x100000)
        = if writeOnceBroken slateBaseRow 0 0 (0x80000000 + v.toNat % 0x100000) (privileged s a) then some .writeOnce
          else if valueBadA Reg.CMP_SLATE_BASE 0 (0x80000000 + v.toNat % 0x100000) || false then some .value else none := by rfl
    rw [e, hva, hw]
    rfl
  obtain ⟨u, hu, e⟩ := rowWrite_cured (v := v) (d := slateBaseRow) (i := 0) (j := 0)
    (f := fun u => u.setReg Reg.CMP_SLATE_BASE (0x80000000 + v.toNat % 0x100000)) (m := [.regs])
    h (by decide) (by rfl) (by decide) (by rfl) (by rw [hp, hm]; decide) (by rw [hold, hp, hnew]; exact hx)
    (fun u => by rw [hold, hp, hnew]; rfl) (fun u => (Still.refl u).setReg (by decide))
    (fun u => frame_State_setReg (List.Subset.refl _) (.refl _ u)) (by decide)
  exact ⟨u, hu.quiet, e⟩

/-! ## The mirror's packets (R356) -/

/-- What the pump of the mirror sends are the first packets that wait, each counted in SEQ. -/
theorem mirrorPump_mir (n : Nat) (s : State) :
    ∃ k, k ≤ s.mir.waiting.length
      ∧ (mirrorPump n s).mir = { s.mir with waiting := s.mir.waiting.drop k, txSeq := (mirrorPump n s).mir.txSeq }
      ∧ (mirrorPump n s).mir.txSeq % 65536 = (s.mir.txSeq + k) % 65536 := by
  induction n generalizing s with
  | zero => exact ⟨0, Nat.zero_le _, rfl, rfl⟩
  | succ n ih =>
    have stays : ∃ k, k ≤ s.mir.waiting.length ∧ s.mir = { s.mir with waiting := s.mir.waiting.drop k, txSeq := s.mir.txSeq }
        ∧ s.mir.txSeq % 65536 = (s.mir.txSeq + k) % 65536 := ⟨0, Nat.zero_le _, rfl, rfl⟩
    rw [mirrorPump]
    cases hw : s.mir.waiting with
    | nil => simpa [hw] using stays
    | cons p ps =>
      dsimp only
      split
      · let v : State := { s with mir.waiting := ps, mir.txSeq := (s.mir.txSeq + 1) % 65536 }
        let w := enqueue State.raise v 10 (p.withSeq (v.mir.txSeq + 65535))
        have hm : w.mir = v.mir :=
          (frame_enqueue (m := .links :: .exch :: eventParts) (by decide) (fun _ _ _ g => frame_State_raise (by decide) g) (.refl _ v)).keep .mir (by decide)
        obtain ⟨k, hk, e, hq⟩ := ih w
        rw [hm] at hk e hq
        refine ⟨k + 1, by simpa [v] using hk, by simpa [v] using e, hq.trans ?_⟩
        simp only [v]
        omega
      · simpa [hw] using stays

/-- A record joins the packets that wait, and the pump sends the first of them; the next record takes the next number. -/
theorem mirrorRecord_one (s : State) (cls extra : Nat) {data : List Byte} (hd : data.length ≤ 496) :
    (mirrorRecord s cls extra data).mir.recId = (s.mir.recId + 1) % 2 ^ 32
      ∧ ∃ n, MirrorSent s (mirrorRecord s cls extra data) n (recordPays s.mir.recId cls extra data) := by
  have hk : max 1 ((data.length + 495) / 496) = 1 := by omega
  let p := mkPacket (s.link 10).peerAddr s.addr clsMIRROR 0 0 0 s.domain (mirrorPay 0 cls (extra + 1 + 2) s.mir.recId 0 data.length (data.take 496))
  let v : State := { mirrorPacket s 0 cls (extra + 1 + 2) 0 s.mir.recId 0 data.length (data.take 496) with mir.recId := (s.mir.recId + 1) % 2 ^ 32 }.bump Reg.FAB_MIR_TX_CNT
  have e : mirrorRecord s cls extra data = mirrorPump v.mir.waiting.length v := by
    simp only [mirrorRecord, hk]
    rfl
  have hpays : mirrorPkts s (recordPays s.mir.recId cls extra data) = [p] := by
    simp only [recordPays, hk]
    rfl
  have hw : v.mir.waiting = s.mir.waiting ++ [p] := rfl
  obtain ⟨k, hkl, hm, hq⟩ := mirrorPump_mir v.mir.waiting.length v
  rw [← e] at hm hq
  refine ⟨by rw [hm]; rfl, k, ?_, ?_, ?_⟩
  · rw [hpays, ← hw]
    exact hkl
  · rw [hm, hpays, ← hw]
  · exact hq

/-- The payloads of the mirror's packets do not depend on where they go. -/
theorem mirrorPkts_data (s : State) (ps : List (List Byte)) : (mirrorPkts s ps).map (fun p => p.data) = ps.map pad4 := by
  simp [mirrorPkts, mkPacket]

theorem MirrorSent.of_mir {s s' t : State} {n : Nat} {ps : List (List Byte)} (h : MirrorSent s' t n ps) (e : s'.mir = s.mir) : MirrorSent s t n ps := by
  unfold MirrorSent at h ⊢
  simp only [List.map_drop, List.map_append, mirrorPkts_data, e] at h ⊢
  simpa [mirrorPkts] using h

/-! ## FUM_LOCK (R25, R355) -/

/-- The row of FUM_LOCK. -/
def fumLockRow : RegDef := ⟨"FUM_LOCK", Reg.FUM_LOCK, 1, 0, 1, 0, [pvf "POLICY_LOCK" 0 0 .w1 0]⟩

theorem fumLockRow_mask (p : Bool) : writeMask fumLockRow 0 p = if p then 1 else 0 := by
  cases p <;> simp [writeMask, fumLockRow, pvField, Fld.mask, pvf]

/-- The rule of FUM_LOCK is that a lock stays. -/
theorem fieldFault_fumLock {s : State} {a : Acc} (hp : privileged s a = true) (old new : Nat) :
    fieldFault s a 0 fumLockRow 0 0 old new = if bits old 0 0 ≠ 0 ∧ bits new 0 0 ≠ bits old 0 0 then some .writeOnce else none := by
  have e : fieldFault s a 0 fumLockRow 0 0 old new
      = if (privileged s a && decide (bits old 0 0 ≠ 0) && decide (bits new 0 0 ≠ bits old 0 0)) || false then some .writeOnce else none := by rfl
  rw [e, hp]
  simp

theorem fumLock_not_counted : ¬ Counted Reg.FUM_LOCK := by
  intro h
  rcases h.num with h | ⟨n, h⟩ | ⟨n, h | h | h | h | ⟨w, f, h⟩⟩
  · exact absurd h (by decide)
  all_goals simp only [Reg.FUM_LOCK] at h; omega

/-- The policies locked and told, before the mirror. -/
def lockTold (s : State) : State := (s.setReg Reg.FUM_LOCK 1).raise 0x0514 []

theorem lockTold_calm (s : State) : Calm (s.setReg Reg.FUM_LOCK 1) (lockTold s) := calm_State_raise counted (.refl _)

theorem fumLockSet_still (s : State) (v : Nat) : Still s (fumLockSet s v) := by
  unfold fumLockSet
  split
  · exact .refl s
  · exact ((Still.refl s).setReg (by decide)).trans (Calm.still (calm_mirrorOut (lockTold_calm s)))

/-- A state whose policies are locked. -/
theorem policyLock_mirrorOut (s : State) (cls : Nat) (d : List Byte) : (mirrorOut (lockTold s) cls d).policyLock = true := by
  have h : Calm (s.setReg Reg.FUM_LOCK 1) (mirrorOut (lockTold s) cls d) := calm_mirrorOut (lockTold_calm s)
  rw [State.policyLock, h.reg fumLock_not_counted, State.reg_setReg _ _ _ _ rfl]
  rfl

/-- New parity does not change whether records go to the peer. -/
theorem Cured.mirrorsOut {s u : State} {off : Nat} (h : Cured s off u) (cls : Nat) : mirrorsOut u cls = mirrorsOut s cls := by
  rcases h with rfl | rfl
  · rfl
  · unfold cureParity
    split
    · extract_lets t
      split <;> rfl
    · rfl

/-- Nor does an event, and it leaves the mirror's records alone. -/
theorem lockTold_mirror (s : State) (cls : Nat) : mirrorsOut (lockTold s) cls = mirrorsOut s cls ∧ (lockTold s).mir = s.mir := by
  have h : Frame eventParts (s.setReg Reg.FUM_LOCK 1) (lockTold s) := frame_State_raise (by decide) (.refl _ _)
  have hpair : (lockTold s).pair = s.pair := h.keep .pair (by decide)
  have hready : (lockTold s).sys.ready = s.sys.ready := h.keep .ready (by decide)
  refine ⟨?_, h.keep .mir (by decide)⟩
  simp only [Machine.mirrorsOut, State.peerUp, State.isReady, hpair, hready]

/-- A write of 1 by a privileged accessor to an open lock is the lock, with its event and its record. -/
theorem fumLock_write {s : State} {a : Acc} {v : U32} (h : Reaches s a Reg.FUM_LOCK) (hp : privileged s a = true) (hl : s.policyLock = false)
    (hv : v.getLsbD 0 = true) : ∃ u, Cured s Reg.FUM_LOCK u ∧ rowWrite s a Reg.FUM_LOCK v = mirrorOut (lockTold u) 3 [1] := by
  have hm := fumLockRow_mask true
  have h0 : ∀ old, bit (mergeWrite fumLockRow 0 true old v.toNat) 0 = true := fun old => by
    refine (bit_mergeWrite ?_ ?_).trans hv <;> rw [hm] <;> decide
  have hb : bits (s.reg Reg.FUM_LOCK) 0 0 = 0 := by
    have hl' : (s.reg Reg.FUM_LOCK).testBit 0 = false := hl
    simp only [Nat.testBit_zero, decide_eq_false_iff_not] at hl'
    simp only [bits, Nat.shiftRight_zero]
    omega
  obtain ⟨u, hu, e⟩ := rowWrite_cured (v := v) (d := fumLockRow) (i := 0) (j := 0)
    (f := fun u => fumLockSet u (mergeWrite fumLockRow 0 (privileged s a) (oldValue s fumLockRow Reg.FUM_LOCK 0) v.toNat))
    h (by decide) (by rfl) (by decide) (by rfl) (by rw [hp, hm]; decide)
    (by
      rw [fieldFault_fumLock hp]
      exact if_neg fun hx => hx.1 hb)
    (fun u => by rfl) (fun u => fumLockSet_still u _) (fun u => frame_fumLockSet (List.Subset.refl _) (.refl _ u)) (by decide)
  refine ⟨u, hu, ?_⟩
  have hlu : u.policyLock = false := by rw [State.policyLock, hu.quiet.reg id]; exact hl
  have h1 : leBytes 1 1 = [1] := by decide
  rw [e, fumLockSet, if_neg (by rw [hlu, hp, h0]; decide), h1]
  rfl

/-- R25, R355: the lock is set and told, and the OWNER of an enabled pair sends it as a record of class 3. -/
theorem fumLock_locks {s : State} {a : Acc} {v : U32} (h : Reaches s a Reg.FUM_LOCK) (hp : privileged s a = true) (hl : s.policyLock = false)
    (hv : v.getLsbD 0 = true) :
    let t := rowWrite s a Reg.FUM_LOCK v
    t.policyLock = true ∧ Raised s t 0x0514 []
      ∧ (mirrorsOut s 3 = true → t.mir.recId = (s.mir.recId + 1) % 2 ^ 32 ∧ ∃ n, MirrorSent s t n (recordPays s.mir.recId 3 0 [1]))
      ∧ (mirrorsOut s 3 = false → t.mir = s.mir) := by
  obtain ⟨u, hu, e⟩ := fumLock_write h hp hl hv
  obtain ⟨hout, hmir⟩ := lockTold_mirror u 3
  rw [hu.mirrorsOut] at hout
  have hum : u.mir = s.mir := hu.frame.keep .mir (by decide)
  have hulog : u.out = s.out := hu.frame.keep .out (by decide)
  have hk : Keeps u (lockTold u) := keeps_State_raise (keeps_State_setReg (Keeps.refl u))
  intro t
  simp only [t, e]
  refine ⟨policyLock_mirrorOut u 3 [1], ?_, fun ho => ?_, fun ho => ?_⟩
  · have hr : Raised s (lockTold u) 0x0514 [] := raised_raise _ _ (by rw [State.setReg_out, hulog])
    exact hr.later (by rw [← hulog]; exact hk.log) (keeps_mirrorOut (Keeps.refl _)).log
  · rw [mirrorOut, hout, ho, if_pos rfl]
    obtain ⟨h1, n, h2⟩ := mirrorRecord_one (lockTold u) 3 0 (data := [1]) (by decide)
    rw [hmir, hum] at h1 h2
    exact ⟨h1, n, h2.of_mir (hmir.trans hum)⟩
  · rw [mirrorOut, hout, ho, if_neg Bool.false_ne_true, hmir, hum]

/-- R322: once locked, no write unlocks the policies. -/
theorem fumLock_stays {s : State} {a : Acc} {v : U32} (h : Reaches s a Reg.FUM_LOCK) (hl : s.policyLock = true) :
    (rowWrite s a Reg.FUM_LOCK v).policyLock = true := by
  cases hp : privileged s a with
  | false =>
    rw [rowWrite_unwritable (d := fumLockRow) (i := 0) (j := 0) h (by decide) (by rfl) (by decide) (by rfl) (by rw [hp, fumLockRow_mask]; rfl)]
    exact hl
  | true =>
    have hm := fumLockRow_mask true
    let new := mergeWrite fumLockRow 0 (privileged s a) (oldValue s fumLockRow Reg.FUM_LOCK 0) v.toNat
    by_cases hx : fieldFault s a 0 fumLockRow 0 0 (oldValue s fumLockRow Reg.FUM_LOCK 0) new = none
    · obtain ⟨u, hu, e⟩ := rowWrite_cured (v := v) (d := fumLockRow) (i := 0) (j := 0) (f := fun u => fumLockSet u new)
        h (by decide) (by rfl) (by decide) (by rfl) (by rw [hp, hm]; decide) hx
        (fun u => by rfl) (fun u => fumLockSet_still u _) (fun u => frame_fumLockSet (List.Subset.refl _) (.refl _ u)) (by decide)
      have hlu : u.policyLock = true := by rw [State.policyLock, hu.quiet.reg id]; exact hl
      rw [e, fumLockSet, if_pos (.inl hlu), hlu]
    · obtain ⟨c, hc⟩ := Option.ne_none_iff_exists'.mp hx
      rw [rowWrite_refused h.2.1 (regWrite32_refused (d := fumLockRow) (i := 0) (j := 0) (v := v) h (by decide) (by rfl) (by decide) (by rfl)
        (by rw [hp, hm]; decide) hc), State.policyLock, (calm_State_raf (.refl s)).reg fumLock_not_counted]
      exact hl

/-- Settles O45: a write that reaches one of these rows is the row's own effect after new parity, or is refused, or finds nothing it may write. -/
theorem keyedAndWriteOnceRowsAct : Obligations.KeyedAndWriteOnceRowsAct := by
  unfold Obligations.KeyedAndWriteOnceRowsAct
  refine ⟨fun s a v => ⟨fun h hp hs => ⟨_, rfl, ?_⟩, fun h hs => ⟨_, rfl, fabNodeAddr_assigned h hs⟩, fun h hp h0 hv => ?_⟩,
    fun s a v => ⟨fun h hp hk h0 hn => ⟨_, rfl, sysReset_schedules h hp hk h0 hn⟩, fun h hk => ⟨_, rfl, sysReset_wrongKey h hk⟩,
      fun h hp hk h0 hm hl => ⟨_, rfl, sysLifecycleAdv_arms h hp hk h0 hm hl⟩, fun h hx => ⟨_, rfl, sysLifecycleAdv_refuses h hx⟩,
      fun h hp hk => ⟨_, rfl, edgAonClear_clears h hp hk⟩, fun h hk => ⟨_, rfl, edgAonClear_wrongKey h hk⟩⟩,
    fun s a v => ⟨fun h hp hl hv => ⟨_, rfl, fumLock_locks h hp hl hv⟩, fun h hl => ⟨_, rfl, fumLock_stays h hl⟩⟩⟩
  · exact (fabNodeAddr_accepted h hp (.inl hs)).trans (by simp [bits])
  · obtain ⟨u, hu, e⟩ := cmpSlateBase_sets h hp h0 hv
    refine ⟨_, congrArg Host.Outcome.next e, ?_, fun o ho => ?_⟩
    · rw [State.reg_setReg _ _ _ _ rfl]
      omega
    · rw [State.reg_setReg_ne _ _ _ _ ho, hu.reg id]

end Sys2Proof.Machine

/-! SUPPORT. RASTER packets: the receivers and their flows, the pictures that they start and the bands that they publish (R124, R157 to R159). -/

namespace Sys2Proof.Machine

/-! ## Writes to device memory by a unit -/

/-- What a unit's write to device memory may change besides the bytes: the faults and the traffic of the controller. -/
abbrev wrParts : List Part := [.regs, .evSeq, .out, .dorm, .rings, .irq, .rate, .localQ, .links, .exch, .mem, .dram]

/-- Between two states a unit wrote bytes of P, and no others. -/
structure Stores (P : Nat → Prop) (s t : State) : Prop where
  frame : Frame wrParts s t
  ok    : MemOk s → MemOk t
  mem   : MemOk s → ∀ x, ¬ P x → memGet t.mem x = memGet s.mem x

theorem Stores.refl (P : Nat → Prop) (s : State) : Stores P s s := ⟨.refl _ s, id, fun _ _ _ => rfl⟩

theorem Stores.trans {P : Nat → Prop} {s t u : State} (h : Stores P s t) (k : Stores P t u) : Stores P s u :=
  ⟨h.frame.trans k.frame, fun x => k.ok (h.ok x), fun m x hx => (k.mem (h.ok m) x hx).trans (h.mem m x hx)⟩

theorem Stores.mono {P Q : Nat → Prop} {s t : State} (h : Stores P s t) (hpq : ∀ x, P x → Q x) : Stores Q s t :=
  ⟨h.frame, h.ok, fun m x hx => h.mem m x fun hp => hx (hpq x hp)⟩

theorem Stores.ite {P : Nat → Prop} {s a b : State} {c : Prop} [Decidable c] (ha : Stores P s a) (hb : Stores P s b) : Stores P s (if c then a else b) := by
  split <;> assumption

/-- What writes no memory stores nothing. -/
theorem Stores.of_frame {P : Nat → Prop} {m : List Part} {s t : State} (h : Frame m s t) (hm : m ⊆ wrParts) (hx : Part.mem ∉ m) : Stores P s t := by
  have e : t.mem = s.mem := h.keep .mem hx
  exact ⟨h.mono hm, fun x => by rw [MemOk, e]; exact x, fun _ _ _ => by rw [e]⟩

/-- A write of a range of P. -/
theorem stores_wr {P : Nat → Prop} (s : State) (mid a : Nat) (d : List Byte) (h : ∀ x, inRange a d.length x → P x) : Stores P s (s.wr mid a d) := by
  refine ⟨frame_State_wr (List.Subset.refl _) (.refl _ s), fun m => (keeps_State_wr (Keeps.refl s)).mem m, fun m x hx => ?_⟩
  refine wr_outside m mid a d x ?_
  have hn : ¬ inRange a d.length x := fun hr => hx (h x hr)
  unfold inRange at hn
  omega

/-! ## Pictures and bands (R158, R159) -/

/-- The bytes that a picture's start and its bands write: the fence page's words, the picture record, and k band entries from n on. -/
def Page (f : SurfRec) (b n k x : Nat) : Prop := inFence f x ∨ inRecord f b n k x

theorem memRd_stores (P : Nat → Prop) {s t : State} {mid a n : Nat} {d : List Byte} {ok : Bool} (e : s.memRd mid a n = (d, t, ok)) : Stores P s t := by
  have h : Frame [.regs, .evSeq, .out, .dorm, .rings, .irq, .rate, .localQ, .links, .exch, .dram] s t :=
    Frame.of_2_1 e (frame_State_memRd (List.Subset.refl _) (.refl _ s))
  exact .of_frame h (by decide) (by decide)

/-- A picture that starts writes its page alone, and takes its buffer in the own table. -/
theorem startPicture_starts (s : State) (mid key : Nat) (f : SurfRec) (b width height flags epoch origin seiSource seiCount : Nat) :
    ∃ v p, Stores (Page f b 0 0) s v ∧ p.height = height ∧ p.bands = []
      ∧ (startPicture s mid key f b width height flags epoch origin seiSource seiCount).2 = tableStart v key b p := by
  generalize ht : (startPicture s mid key f b width height flags epoch origin seiSource seiCount).2 = t
  unfold startPicture at ht
  split at ht
  next fw s1 _ e1 =>
  extract_lets -merge -underBinder +onlyGivenNames fence pic pb at ht
  split at ht
  next hw s2 _ e2 =>
  split at ht
  next pw s3 _ e3 =>
  extract_lets -merge -underBinder +onlyGivenNames full p u v w at ht
  have h3 : Stores (Page f b 0 0) s s3 := ((memRd_stores _ e1).trans (memRd_stores _ e2)).trans (memRd_stores _ e3)
  have hu : Stores (Page f b 0 0) s3 u := stores_wr _ _ _ _ fun x hx => .inr (.inl (by
    simp only [picBytes, List.length_append, leBytes_length, inRange] at hx ⊢
    omega))
  have hv : Stores (Page f b 0 0) u v := .ite (stores_wr _ _ _ _ fun x hx => .inl (by
    simp only [lastWord, leBytes_length, inFence, inRange] at hx ⊢
    omega)) (.refl _ u)
  have hw : Stores (Page f b 0 0) v w := stores_wr _ _ _ _ fun x hx => .inl (by
    simp only [fenceWord, leBytes_length, inFence, inRange] at hx ⊢
    omega)
  exact ⟨w, p, h3.trans (hu.trans (hv.trans hw)), rfl, rfl, ht.symm⟩

theorem tableStart_pub (v : State) (key b : Nat) (p : PicRec) :
    ((tableStart v key b p).pub key).buf = b ∧ ((tableStart v key b p).pub key).rows = 0 ∧ ((tableStart v key b p).pub key).cur = p := by
  have e : (tableStart v key b p).pub key
      = { v.pub key with pic := p.pic, buf := b, rows := 0, full := false, bufs := (v.pub key).bufs.set b p } := by
    simp [tableStart, State.pub, State.setPub]
  rw [e]
  exact ⟨rfl, rfl, by simp [PubRec.cur]⟩

/-- A band that is published writes its entry and the words of its page alone, and joins the own table. -/
theorem publishBand_publishes (s : State) (mid key : Nat) (f : SurfRec) (band : BandRec) (flags rowNs : Nat) (clean remote arrival : Bool) :
    ∃ v change, Stores (Page f (s.pub key).buf (s.pub key).cur.bands.length 1) s v
      ∧ publishBand s mid key f band flags rowNs clean remote arrival
          = tableBand v key band flags (band.first + band.rows) change clean remote arrival := by
  generalize ht : publishBand s mid key f band flags rowNs clean remote arrival = t
  unfold publishBand at ht
  extract_lets -merge -underBinder +onlyGivenNames p n page rows prev u v w x at ht
  have hu : Stores (Page f p.buf n 1) s u := stores_wr _ _ _ _ fun y hy => .inr (.inr (by
    simp only [bandBytes, List.length_append, leBytes_length, inRange] at hy ⊢
    simpa [page] using hy))
  have hv : Stores (Page f p.buf n 1) u v := stores_wr _ _ _ _ fun y hy => .inr (.inl (by
    simp only [List.length_append, leBytes_length, inRange, page] at hy ⊢
    omega))
  have hw : Stores (Page f p.buf n 1) v w := stores_wr _ _ _ _ fun y hy => .inl (by
    simp only [List.length_append, leBytes_length, inFence, inRange] at hy ⊢
    omega)
  have hx : Stores (Page f p.buf n 1) w x := stores_wr _ _ _ _ fun y hy => .inl (by
    simp only [fenceWord, leBytes_length, inFence, inRange] at hy ⊢
    omega)
  exact ⟨x, _, hu.trans (hv.trans (hw.trans hx)), ht.symm⟩

/-- A band that joins the own table is the last of its picture, and memory stays. -/
theorem tableBand_pub (v : State) (key : Nat) (band : BandRec) (flags rows : Nat) (change clean remote arrival : Bool) :
    let t := tableBand v key band flags rows change clean remote arrival
    (t.pub key).rows = rows ∧ (t.pub key).cur.bands = (v.pub key).cur.bands ++ [band] ∧ t.mem = v.mem := by
  unfold tableBand
  extract_lets -merge -underBinder +onlyGivenNames p cur first cur' full u t
  have ht : Frame [.fum, .evSeq, .out, .dorm, .rings, .regs, .irq, .rate, .localQ, .links, .exch] u t :=
    frame_sourceBand (List.Subset.refl _) (.refl _ u)
  have hs : t.surf = u.surf := ht.keep .surf (by decide)
  have hm : t.mem = u.mem := ht.keep .mem (by decide)
  have hp : t.pub key = { p with rows := rows, full := full, bufs := p.bufs.set p.buf cur' } := by
    rw [State.pub, hs]
    simp [u, State.setPub]
  rw [hp]
  exact ⟨rfl, by simp [PubRec.cur, cur', cur, p], hm⟩

/-- A fence at a row of the surface, behind the rows published, publishes the rows between as one band. -/
theorem rasterFence_publishes {s : State} {key : Nat} {f : SurfRec} {gap : Bool} {row epoch : Nat} (h1 : (s.pub key).rows ≤ row) (h2 : row < f.height) :
    let t := rasterFence s key f gap row epoch
    (t.pub key).rows = row + 1
      ∧ (∃ b : BandRec, (t.pub key).cur.bands = (s.pub key).cur.bands ++ [b] ∧ b.first = (s.pub key).rows ∧ b.rows = row + 1 - (s.pub key).rows
          ∧ b.flags = b2n gap
          ∧ b.epoch = if gap then oldestOver ((newestFull s key).map (·.2)) (s.pub key).rows (row + 1 - (s.pub key).rows) else epoch)
      ∧ (MemOk s → ∀ x, ¬ Page f (s.pub key).buf (s.pub key).cur.bands.length 1 x → memGet t.mem x = memGet s.mem x) := by
  intro t
  obtain ⟨e, he⟩ : ∃ e, e = t := ⟨_, rfl⟩
  simp only [← he]
  unfold t rasterFence at he
  extract_lets -merge -underBinder +onlyGivenNames p n prev band bad clean u at he
  have hp : s.pub key = p := rfl
  have h1' : p.rows ≤ row := h1
  rw [if_neg (by omega)] at he
  have hu : Stores (Page f p.buf p.cur.bands.length 1) s u := by
    refine .ite (stores_wr _ _ _ _ fun x hx => .inr (.inl ?_)) (.refl _ s)
    simp only [leBytes_length, inRange] at hx ⊢
    omega
  have hpub : ∀ v, Stores (Page f p.buf p.cur.bands.length 1) s v → v.pub key = p := fun v hv => by
    have hs : v.surf = s.surf := hv.frame.keep .surf (by decide)
    rw [State.pub, hs]
    rfl
  obtain ⟨v, change, hv, hb⟩ := publishBand_publishes u 0x38 key f band (b2n (decide bad)) 0 clean true false
  rw [hpub u hu] at hv
  obtain ⟨hr, hbands, hmem⟩ := tableBand_pub v key band (b2n (decide bad)) (band.first + band.rows) change clean true false
  rw [← hb, ← he] at hr hbands hmem
  rw [hpub v (hu.trans hv)] at hbands
  refine ⟨?_, ⟨band, hbands, rfl, rfl, rfl, rfl⟩, fun hm x hx => ?_⟩
  · rw [hr]
    exact Nat.add_sub_cancel' (Nat.le_succ_of_le h1')
  · rw [hmem]
    exact (hu.trans hv).mem hm x hx

/-! ## A packet at its receiver (R124) -/

/-- The key of a packet's flow among the receivers. -/
def flowOf (p : Packet) : Nat := 64 + p.src * 4096 + p.flow

/-- How far a packet is ahead of the SEQ that its flow expects. -/
def aheadOf (s : State) (p : Packet) : Nat :=
  match (s.raster (flowOf p)).expect with
  | some e => (p.seq + 65536 - e) % 65536
  | none => 0

/-- The flows that feed a receiver, this one among them. -/
def seenOf (r : RasterRec) (flow : Nat) : Tab Nat := if (Tab.get? r.seen flow).isSome then r.seen else r.seen.set flow 0

/-- The packet taken and its flow's SEQ and gaps noted. -/
def flowNoted (s : State) (p : Packet) : State :=
  (takeLocal s fun q => q.cls == clsRASTER && q == p).setRaster (flowOf p) { s.raster (flowOf p) with
    expect := some ((p.seq + 1) % 65536), gaps := (s.raster (flowOf p)).gaps + b2n (decide (aheadOf s p ≠ 0)) }

/-- The flow noted at the packet's receiver. -/
def receiverNoted (s : State) (p : Packet) (idx : Nat) : State :=
  (flowNoted s p).setRaster idx { (flowNoted s p).raster idx with seen := seenOf ((flowNoted s p).raster idx) (flowOf p) }

theorem doRaster_stale {s : State} {p : Packet} (h : 32769 ≤ aheadOf s p) : doRaster s p = takeLocal s fun q => q.cls == clsRASTER && q == p :=
  if_pos h

theorem doRaster_far {s : State} {p : Packet} (h : aheadOf s p < 32769) (hi : 63 < fieldAt p.data 0 1) : doRaster s p = rasterDrop (flowNoted s p) :=
  (if_neg (Nat.not_le.mpr h)).trans (if_pos hi)

theorem doRaster_near {s : State} {p : Packet} (h : aheadOf s p < 32769) (hi : fieldAt p.data 0 1 ≤ 63) :
    doRaster s p = match s.surface (prodKey 2 (fieldAt p.data 0 1)) with
      | none => rasterDrop (receiverNoted s p (fieldAt p.data 0 1))
      | some f => rasterBody (receiverNoted s p (fieldAt p.data 0 1)) (fieldAt p.data 0 1) f p :=
  (if_neg (Nat.not_le.mpr h)).trans (if_neg (Nat.not_lt.mpr hi))

theorem raster_setRaster (s : State) (k i : Nat) (r : RasterRec) : (s.setRaster k r).raster i = if i = k then r else s.raster i := by
  simp [State.raster, State.setRaster]

theorem flowOf_gt (p : Packet) : 63 < flowOf p := by unfold flowOf; omega

theorem flowNoted_raster (s : State) (p : Packet) {i : Nat} (hi : i ≤ 63) : (flowNoted s p).raster i = s.raster i := by
  have := flowOf_gt p
  rw [flowNoted, raster_setRaster, if_neg (by omega)]
  rfl

theorem receiverNoted_raster (s : State) (p : Packet) {i : Nat} (hi : i ≤ 63) :
    (receiverNoted s p i).raster i = { s.raster i with seen := seenOf (s.raster i) (flowOf p) } := by
  rw [receiverNoted, raster_setRaster, if_pos rfl, flowNoted_raster s p hi]

theorem receiverNoted_flow (s : State) (p : Packet) {i : Nat} (hi : i ≤ 63) :
    (receiverNoted s p i).raster (flowOf p) = { s.raster (flowOf p) with
      expect := some ((p.seq + 1) % 65536), gaps := (s.raster (flowOf p)).gaps + b2n (decide (aheadOf s p ≠ 0)) } := by
  have := flowOf_gt p
  rw [receiverNoted, raster_setRaster, if_neg (by omega), flowNoted, raster_setRaster, if_pos rfl]

/-- Only the packet's flow counts a gap, where the packet is ahead. -/
theorem receiverNoted_gaps (s : State) (p : Packet) {i : Nat} (hi : i ≤ 63) (k : Nat) :
    ((receiverNoted s p i).raster k).gaps = (s.raster k).gaps + if k = flowOf p then b2n (decide (aheadOf s p ≠ 0)) else 0 := by
  have := flowOf_gt p
  by_cases hk : k = flowOf p
  · rw [hk, receiverNoted_flow s p hi, if_pos rfl]
  · rw [if_neg hk]
    by_cases hki : k = i
    · rw [hki, receiverNoted_raster s p hi]
      rfl
    · rw [receiverNoted, raster_setRaster, if_neg hki, flowNoted, raster_setRaster, if_neg hk]
      rfl

/-- What is noted of flows is in the receivers' table alone. -/
theorem setRaster_kept (s : State) (k : Nat) (r : RasterRec) :
    Frame [.dec] s (s.setRaster k r) ∧ (s.setRaster k r).dec.ctxs = s.dec.ctxs := ⟨.dec (by decide) (.refl _ s), rfl⟩

theorem flowNoted_kept (s : State) (p : Packet) : Frame [.localQ, .dec] s (flowNoted s p) ∧ (flowNoted s p).dec.ctxs = s.dec.ctxs :=
  ⟨.dec (by decide) (.localQ (by decide) (.refl _ s)), rfl⟩

theorem receiverNoted_kept (s : State) (p : Packet) (i : Nat) :
    Frame [.localQ, .dec] s (receiverNoted s p i) ∧ (receiverNoted s p i).dec.ctxs = s.dec.ctxs :=
  ⟨.dec (by decide) (flowNoted_kept s p).1, rfl⟩

/-! ## Packets that are dropped (R124, R157) -/

theorem classDrop_not_event : ¬ EventReg Reg.FAB_CLASS_DROP := fun h => by
  rcases (counted _ h).num with h | ⟨n, h⟩ | ⟨n, h | h | h | h | ⟨w, f, h⟩⟩
  · exact absurd h (by decide)
  all_goals simp only [Reg.FAB_CLASS_DROP] at h; omega

/-- A dropped packet is counted. -/
theorem rasterDrop_cnt (s : State) : (rasterDrop s).cnt Reg.FAB_CLASS_DROP = min (s.cnt Reg.FAB_CLASS_DROP + 1) 0xFFFFFFFF := by
  have h : CalmOf EventReg (s.bump Reg.FAB_CLASS_DROP) (rasterDrop s) :=
    calm_fabDrop (fun _ => id) (fun _ _ _ g => calm_State_raise (fun _ => id) g) (.refl _)
  rw [h.cnt classDrop_not_event]
  exact State.cnt_bumpBy _ _ 1

theorem rasterDrop_frame (s : State) : Frame [.regs, .evSeq, .out, .dorm, .rings, .irq, .rate, .localQ, .links, .exch] s (rasterDrop s) :=
  frame_rasterDrop (List.Subset.refl _) (.refl _ s)

/-- A drop behind notes of flows changes no context, no surface and no memory. -/
theorem rasterDrop_noted {s v : State} (h : Frame [.localQ, .dec] s v) (hc : v.dec.ctxs = s.dec.ctxs) :
    (rasterDrop v).dec.ctxs = s.dec.ctxs ∧ (rasterDrop v).surf = s.surf ∧ (rasterDrop v).mem = s.mem
      ∧ (rasterDrop v).cnt Reg.FAB_CLASS_DROP = min (s.cnt Reg.FAB_CLASS_DROP + 1) 0xFFFFFFFF := by
  have hd := rasterDrop_frame v
  have hdec : (rasterDrop v).dec = v.dec := hd.keep .dec (by decide)
  have hregs : v.regs = s.regs := h.keep .regs (by decide)
  refine ⟨by rw [hdec, hc], (h.keep .surf (by decide)).trans (hd.keep .surf (by decide)), (h.keep .mem (by decide)).trans (hd.keep .mem (by decide)), ?_⟩
  rw [rasterDrop_cnt, State.cnt, State.cnt, hregs]

/-! ## The receiver's own part of a packet (R124, R157) -/

/-- The pixel bytes of a packet in buffer b, where they lie inside the surface. -/
def rasterPixels (s : State) (f : SurfRec) (b : Nat) (p : Packet) : State :=
  if fieldAt p.data 2 2 * f.pitch + fieldAt p.data 4 4 + (p.data.drop 16).length ≤ planeBytes f.format f.height f.pitch then
    s.wr 0x38 (f.buffer b + (fieldAt p.data 2 2 * f.pitch + fieldAt p.data 4 4)) (p.data.drop 16)
  else rasterDrop s

theorem rasterPixels_stores (s : State) (f : SurfRec) (b : Nat) (p : Packet) :
    Stores (inRange (f.buffer b + (fieldAt p.data 2 2 * f.pitch + fieldAt p.data 4 4)) (p.data.drop 16).length) s (rasterPixels s f b p) :=
  .ite (stores_wr _ _ _ _ fun _ hx => hx) (.of_frame (rasterDrop_frame s) (by decide) (by decide))

section
variable {v : State} {i : Nat} {f : SurfRec} {p : Packet}

theorem rasterBody_unstarted (h1 : bit (fieldAt p.data 1 1) 1 = false) (hc : (v.raster i).cur = none) :
    rasterBody v i f p = rasterDrop (v.setRaster i { v.raster i with cur := none }) := by
  simp [rasterBody, h1, hc]

theorem rasterBody_bufferless (h1 : bit (fieldAt p.data 1 1) 1 = true)
    (hb : releasing v (prodKey 2 i) = true ∨ freeBuffer v (prodKey 2 i) f [] = none) :
    rasterBody v i f p = rasterDrop (v.setRaster i { v.raster i with cur := none }) := by
  have e : (if releasing v (prodKey 2 i) = true then none else freeBuffer v (prodKey 2 i) f []) = none := by
    rcases hb with h | h <;> simp [h]
  simp [rasterBody, h1, e]

/-- PIC_START takes the lowest free buffer for a picture without bands. -/
theorem rasterBody_starts {b : Nat} (h1 : bit (fieldAt p.data 1 1) 1 = true) (h0 : bit (fieldAt p.data 1 1) 0 = false)
    (hr : releasing v (prodKey 2 i) = false) (hb : freeBuffer v (prodKey 2 i) f [] = some b) :
    ∃ w q r, Stores (Page f b 0 0) v w ∧ q.height = f.height ∧ q.bands = []
      ∧ rasterBody v i f p = rasterPixels ((tableStart w (prodKey 2 i) b q).setRaster i r) f b p := by
  obtain ⟨w, q, hw, hh, hq, e⟩ := startPicture_starts v 0x38 (prodKey 2 i) f b f.width f.height 0 (fieldAt p.data 8 8) v.addr 0xFFFF 0
  let started := startPicture v 0x38 (prodKey 2 i) f b f.width f.height 0 (fieldAt p.data 8 8) v.addr 0xFFFF 0
  refine ⟨w, q, { started.2.raster i with cur := some (started.1, b) }, hw, hh, hq, ?_⟩
  rw [← e]
  simp only [rasterBody, h1, h0, hr, hb, if_true, Bool.false_eq_true, if_false]
  rfl

/-- FENCE behind the pixels of a picture that has started. -/
theorem rasterBody_fences {q : Nat × Nat} (h1 : bit (fieldAt p.data 1 1) 1 = false) (h0 : bit (fieldAt p.data 1 1) 0 = true)
    (hc : (v.raster i).cur = some q) :
    ∃ w r, w = rasterPixels (v.setRaster i (v.raster i)) f q.2 p
      ∧ rasterBody v i f p = (rasterFence w (prodKey 2 i) f (rasterGap w (w.raster i)) (fieldAt p.data 2 2) (fieldAt p.data 8 8)).setRaster i r := by
  let w := rasterPixels (v.setRaster i (v.raster i)) f q.2 p
  let fenced := rasterFence w (prodKey 2 i) f (rasterGap w (w.raster i)) (fieldAt p.data 2 2) (fieldAt p.data 8 8)
  refine ⟨w, { w.raster i with seen := (w.raster i).seen.map (fun e => (e.1, (fenced.raster e.1).gaps)) }, rfl, ?_⟩
  have hs : ({ v.raster i with cur := some q } : RasterRec) = v.raster i := by rw [← hc]
  simp only [rasterBody, h1, h0, hc, if_true, Bool.false_eq_true, if_false, hs]
  rfl

end

/-! ## The cases of R124 and R157 -/

theorem exec_rasterPacket {s : State} (p : Packet) (hp : s.pdOn 9 = true) : exec (.rasterPacket p) s = .next (doRaster s p) :=
  congrArg Host.Outcome.next (if_pos hp)

section
variable {s : State} {p : Packet} {f : SurfRec}

theorem doRaster_at (h : aheadOf s p < 32769) (hi : fieldAt p.data 0 1 ≤ 63) (hf : s.surface (prodKey 2 (fieldAt p.data 0 1)) = some f) :
    doRaster s p = rasterBody (receiverNoted s p (fieldAt p.data 0 1)) (fieldAt p.data 0 1) f p := by
  rw [doRaster_near h hi, hf]

/-- No receiver: the packet is dropped. -/
theorem doRaster_missing (h : aheadOf s p < 32769) (hx : s.surface (prodKey 2 (fieldAt p.data 0 1)) = none ∨ 63 < fieldAt p.data 0 1) :
    (doRaster s p).dec.ctxs = s.dec.ctxs ∧ (doRaster s p).surf = s.surf ∧ (doRaster s p).mem = s.mem
      ∧ (doRaster s p).cnt Reg.FAB_CLASS_DROP = min (s.cnt Reg.FAB_CLASS_DROP + 1) 0xFFFFFFFF := by
  by_cases hi : fieldAt p.data 0 1 ≤ 63
  · obtain ⟨hfr, hc⟩ := receiverNoted_kept s p (fieldAt p.data 0 1)
    rw [doRaster_near h hi, hx.resolve_right (by omega)]
    exact rasterDrop_noted hfr hc
  · obtain ⟨hfr, hc⟩ := flowNoted_kept s p
    rw [doRaster_far h (by omega)]
    exact rasterDrop_noted hfr hc

/-- What the drop of a receiver's packet leaves. -/
theorem rasterDrop_receiver (i : Nat) (r : RasterRec) :
    (rasterDrop ((receiverNoted s p i).setRaster i r)).surf = s.surf ∧ (rasterDrop ((receiverNoted s p i).setRaster i r)).mem = s.mem
      ∧ (rasterDrop ((receiverNoted s p i).setRaster i r)).cnt Reg.FAB_CLASS_DROP = min (s.cnt Reg.FAB_CLASS_DROP + 1) 0xFFFFFFFF := by
  obtain ⟨hfr, hc⟩ := receiverNoted_kept s p i
  exact (rasterDrop_noted (v := (receiverNoted s p i).setRaster i r) (.dec (by decide) hfr) hc).2

/-- What pictures and buffers are chosen by is in the surfaces' table. -/
theorem surf_choice {s v : State} (h : v.surf = s.surf) (key : Nat) (f : SurfRec) :
    releasing v key = releasing s key ∧ freeBuffer v key f [] = freeBuffer s key f [] ∧ newestFull v key = newestFull s key ∧ v.pub key = s.pub key := by
  have hpub : v.pub key = s.pub key := by rw [State.pub, State.pub, h]
  have hnew : newestFull v key = newestFull s key := by simp only [newestFull, hpub]
  have hread : ∀ b, beingRead v key b = beingRead s key b := fun b => by rw [beingRead, beingRead, h]
  have hrel : releasing v key = releasing s key := by rw [releasing, releasing, h]
  exact ⟨hrel, by simp only [freeBuffer, hnew, hread], hnew, hpub⟩

end

/-- A byte outside the ranges written keeps its value behind notes of flows. -/
theorem Stores.mem_from {P : Nat → Prop} {s v t : State} (h : Stores P v t) {m : List Part} (hv : Frame m s v) (hm : Part.mem ∉ m) (ok : MemOk s) {x : Nat}
    (hx : ¬ P x) : memGet t.mem x = memGet s.mem x := by
  have e : v.mem = s.mem := hv.keep .mem hm
  have hok : MemOk v := by rw [MemOk, e]; exact ok
  rw [h.mem hok x hx, e]

/-- PIC_START leaves an empty picture in the lowest free buffer, and writes its page and the packet's pixels alone. -/
theorem doRaster_starts {s : State} {p : Packet} {f : SurfRec} {b : Nat} (h : aheadOf s p < 32769) (hi : fieldAt p.data 0 1 ≤ 63)
    (hf : s.surface (prodKey 2 (fieldAt p.data 0 1)) = some f) (h1 : bit (fieldAt p.data 1 1) 1 = true) (h0 : bit (fieldAt p.data 1 1) 0 = false)
    (hr : releasing s (prodKey 2 (fieldAt p.data 0 1)) = false) (hb : freeBuffer s (prodKey 2 (fieldAt p.data 0 1)) f [] = some b) :
    let t := doRaster s p
    let key := prodKey 2 (fieldAt p.data 0 1)
    (t.pub key).buf = b ∧ (t.pub key).rows = 0 ∧ (t.raster (flowOf p)).expect = some ((p.seq + 1) % 65536)
      ∧ (t.pub key).cur.bands = [] ∧ (t.pub key).cur.height = f.height
      ∧ (MemOk s → ∀ x, ¬ Page f b 0 0 x
          → ¬ inRange (f.buffer b + (fieldAt p.data 2 2 * f.pitch + fieldAt p.data 4 4)) (p.data.drop 16).length x → memGet t.mem x = memGet s.mem x) := by
  have hgt := flowOf_gt p
  let v := receiverNoted s p (fieldAt p.data 0 1)
  have hv : Frame [.localQ, .dec] s v := (receiverNoted_kept s p _).1
  obtain ⟨hrel, hfree, -, -⟩ := surf_choice (s := s) (v := v) (hv.keep .surf (by decide)) (prodKey 2 (fieldAt p.data 0 1)) f
  obtain ⟨w, q, r, hw, hh, hq, e⟩ := rasterBody_starts (v := v) h1 h0 (hrel.trans hr) (hfree.trans hb)
  let u := (tableStart w (prodKey 2 (fieldAt p.data 0 1)) b q).setRaster (fieldAt p.data 0 1) r
  have ht : Stores _ u (rasterPixels u f b p) := rasterPixels_stores u f b p
  have hsurf : (rasterPixels u f b p).surf = (tableStart w (prodKey 2 (fieldAt p.data 0 1)) b q).surf := ht.frame.keep .surf (by decide)
  have hpub : (rasterPixels u f b p).pub (prodKey 2 (fieldAt p.data 0 1))
      = (tableStart w (prodKey 2 (fieldAt p.data 0 1)) b q).pub (prodKey 2 (fieldAt p.data 0 1)) := by rw [State.pub, State.pub, hsurf]
  obtain ⟨hbuf, hrows, hcur⟩ := tableStart_pub w (prodKey 2 (fieldAt p.data 0 1)) b q
  have hdec : (rasterPixels u f b p).dec = u.dec := ht.frame.keep .dec (by decide)
  have hwdec : w.dec = v.dec := hw.frame.keep .dec (by decide)
  have he : doRaster s p = rasterPixels u f b p := (doRaster_at h hi hf).trans e
  intro t key
  simp only [t, key, he]
  refine ⟨by rw [hpub, hbuf], by rw [hpub, hrows], ?_, by rw [hpub, hcur, hq], by rw [hpub, hcur, hh], fun ok x hx hy => ?_⟩
  · have hru : u.raster (flowOf p) = v.raster (flowOf p) := by
      rw [raster_setRaster, if_neg (by omega)]
      simp only [State.raster, tableStart, State.setPub, hwdec]
    rw [State.raster, hdec]
    exact congrArg RasterRec.expect (hru.trans (receiverNoted_flow s p hi))
  · have hwok : MemOk u := hw.ok (by rw [MemOk, hv.keep .mem (by decide)]; exact ok)
    exact (ht.mem hwok x hy).trans (hw.mem_from hv (by decide) ok hx)

/-- No gap of another flow is noted behind a packet in order. -/
theorem rasterGap_receiver {s : State} {p : Packet} {i : Nat} (hi : i ≤ 63) (h : aheadOf s p = 0) :
    rasterGap (receiverNoted s p i) ((receiverNoted s p i).raster i) = rasterGap s { s.raster i with seen := seenOf (s.raster i) (flowOf p) } := by
  have hg : ∀ k, ((receiverNoted s p i).raster k).gaps = (s.raster k).gaps := fun k => by
    rw [receiverNoted_gaps s p hi, h]
    simp [b2n]
  simp only [rasterGap, hg]
  rw [receiverNoted_raster s p hi]

/-- The flow of a packet that is ahead has had a gap since the last fence. -/
theorem rasterGap_ahead {s : State} {p : Packet} {i : Nat} (hi : i ≤ 63) (h : aheadOf s p ≠ 0)
    (hv : ∀ v, Tab.get? (s.raster i).seen (flowOf p) = some v → v ≤ (s.raster (flowOf p)).gaps) :
    rasterGap (receiverNoted s p i) ((receiverNoted s p i).raster i) = true := by
  obtain ⟨v, hs, hle⟩ : ∃ v, Tab.get? (seenOf (s.raster i) (flowOf p)) (flowOf p) = some v ∧ v ≤ (s.raster (flowOf p)).gaps := by
    unfold seenOf
    cases hg : Tab.get? (s.raster i).seen (flowOf p) with
    | some v => exact ⟨v, by simpa using hg, hv v hg⟩
    | none => exact ⟨0, by simp, Nat.zero_le _⟩
  have hmem : (flowOf p, v) ∈ seenOf (s.raster i) (flowOf p) := Tab.mem_of_get? hs
  have hne : ((receiverNoted s p i).raster (flowOf p)).gaps ≠ v := by
    rw [receiverNoted_gaps s p hi, if_pos rfl, decide_eq_true h]
    simp only [b2n, if_true]
    omega
  rw [rasterGap, List.any_eq_true]
  refine ⟨(flowOf p, v), ?_, by simpa using hne⟩
  rw [receiverNoted_raster s p hi]
  exact hmem

/-- FENCE behind a started picture's pixels inside the surface publishes one band, and writes its page and the pixels alone. -/
theorem doRaster_fences {s : State} {p : Packet} {f : SurfRec} {q : Nat × Nat} {gap : Bool} (h : aheadOf s p < 32769) (hi : fieldAt p.data 0 1 ≤ 63)
    (hf : s.surface (prodKey 2 (fieldAt p.data 0 1)) = some f) (h1 : bit (fieldAt p.data 1 1) 1 = false) (h0 : bit (fieldAt p.data 1 1) 0 = true)
    (hc : (s.raster (fieldAt p.data 0 1)).cur = some q) (hrow : (s.pub (prodKey 2 (fieldAt p.data 0 1))).rows ≤ fieldAt p.data 2 2)
    (hrow' : fieldAt p.data 2 2 < f.height)
    (hgap : rasterGap (receiverNoted s p (fieldAt p.data 0 1)) ((receiverNoted s p (fieldAt p.data 0 1)).raster (fieldAt p.data 0 1)) = gap) :
    let t := doRaster s p
    let key := prodKey 2 (fieldAt p.data 0 1)
    let mark := s.pub key
    let n := fieldAt p.data 2 2 + 1 - mark.rows
    (t.pub key).rows = fieldAt p.data 2 2 + 1
      ∧ (∃ b : BandRec, (t.pub key).cur.bands = mark.cur.bands ++ [b] ∧ b.first = mark.rows ∧ b.rows = n ∧ b.flags = b2n gap
          ∧ b.epoch = if gap then oldestOver ((newestFull s key).map (·.2)) mark.rows n else fieldAt p.data 8 8)
      ∧ (MemOk s → ∀ x, ¬ Page f mark.buf mark.cur.bands.length 1 x
          → ¬ inRange (f.buffer q.2 + (fieldAt p.data 2 2 * f.pitch + fieldAt p.data 4 4)) (p.data.drop 16).length x → memGet t.mem x = memGet s.mem x) := by
  let v := receiverNoted s p (fieldAt p.data 0 1)
  have hv : Frame [.localQ, .dec] s v := (receiverNoted_kept s p _).1
  have hcv : (v.raster (fieldAt p.data 0 1)).cur = some q := by rw [receiverNoted_raster s p hi]; exact hc
  obtain ⟨w, r, hw, e⟩ := rasterBody_fences (f := f) h1 h0 hcv
  let v' := v.setRaster (fieldAt p.data 0 1) (v.raster (fieldAt p.data 0 1))
  have hv' : Frame [.localQ, .dec] s v' := .dec (by decide) hv
  have hst : Stores _ v' w := hw ▸ rasterPixels_stores v' f q.2 p
  have hdec : w.dec = v'.dec := hst.frame.keep .dec (by decide)
  have hrw : ∀ k, w.raster k = v.raster k := fun k => by
    have e1 : w.raster k = v'.raster k := by rw [State.raster, State.raster, hdec]
    rw [e1, raster_setRaster]
    split
    next hk => rw [hk]
    · rfl
  have hgw : rasterGap w (w.raster (fieldAt p.data 0 1)) = gap := by
    rw [← hgap, hrw]
    simp only [rasterGap, hrw]
    rfl
  obtain ⟨-, -, hnew, hpub⟩ := surf_choice (s := s) (v := w) ((hv'.keep .surf (by decide)).trans (hst.frame.keep .surf (by decide)))
    (prodKey 2 (fieldAt p.data 0 1)) f
  obtain ⟨hr, hb, hm⟩ := rasterFence_publishes (s := w) (key := prodKey 2 (fieldAt p.data 0 1)) (f := f) (gap := gap) (epoch := fieldAt p.data 8 8)
    (by rw [hpub]; exact hrow) hrow'
  rw [hgw] at e
  rw [hpub, hnew] at hb
  rw [hpub] at hm
  have he : doRaster s p = (rasterFence w (prodKey 2 (fieldAt p.data 0 1)) f gap (fieldAt p.data 2 2) (fieldAt p.data 8 8)).setRaster (fieldAt p.data 0 1) r :=
    (doRaster_at h hi hf).trans e
  intro t key mark n
  simp only [t, key, he]
  refine ⟨hr, hb, fun ok x hx hy => ?_⟩
  have hok : MemOk w := hst.ok (by rw [MemOk, hv'.keep .mem (by decide)]; exact ok)
  exact (hm hok x hx).trans (hst.mem_from hv' (by decide) ok hy)

/-- Settles O25: the packet's flow and receiver are noted, then its picture starts, its pixels are written and its band is published, or it is dropped. -/
theorem rasterPacketsPublish : Obligations.RasterPacketsPublish := by
  unfold Obligations.RasterPacketsPublish
  intro s p f hp idx fl row key flow fr r ahead dropped inside seen mark n at_ pix stores
  refine ⟨fun hx h => ⟨_, exec_rasterPacket p hp, doRaster_missing h hx⟩, fun h => ?stale, fun hf hi h h1 hc => ?unstarted,
    fun hf hi h h1 hb => ?bufferless, fun b hf hi h h1 h0 hr hb => ?starts, fun q hf hi h hg h1 h0 hc hm hrow _ => ?published,
    fun q hf hi h hlt hv h1 h0 hc hm hrow _ => ?concealed⟩
  case stale => exact ⟨_, congrArg Host.Outcome.next ((if_pos hp).trans (doRaster_stale h)), rfl, rfl, rfl, rfl⟩
  case unstarted =>
    refine ⟨_, exec_rasterPacket p hp, ?_⟩
    rw [doRaster_at h hi hf, rasterBody_unstarted h1 (by rw [receiverNoted_raster s p hi]; exact hc)]
    exact rasterDrop_receiver _ _
  case bufferless =>
    refine ⟨_, exec_rasterPacket p hp, ?_⟩
    obtain ⟨hrel, hfree, -, -⟩ := surf_choice (s := s) (v := receiverNoted s p idx) ((receiverNoted_kept s p idx).1.keep .surf (by decide)) key f
    rw [doRaster_at h hi hf, rasterBody_bufferless h1 (hb.imp hrel.trans hfree.trans)]
    exact rasterDrop_receiver _ _
  case starts =>
    obtain ⟨hbuf, hrows, hexp, hbands, hheight, hmem⟩ := doRaster_starts h hi hf h1 h0 hr hb
    exact ⟨_, exec_rasterPacket p hp, hbuf, hrows, hexp, hbands, hheight, fun ok x hx hy hz => hmem ok x (not_or.mpr ⟨hx, hy⟩) hz⟩
  case published =>
    have h' : aheadOf s p = 0 := h
    obtain ⟨hrows, ⟨b, hbands, hfirst, hn, hflags, hepoch⟩, hmem⟩ := doRaster_fences (by omega) hi hf h1 h0 hc hm hrow ((rasterGap_receiver hi h').trans hg)
    exact ⟨_, exec_rasterPacket p hp, hrows, ⟨b, hbands, hfirst, hepoch, hn, hflags⟩, fun ok x hx hy hz => hmem ok x (not_or.mpr ⟨hx, hy⟩) hz⟩
  case concealed =>
    obtain ⟨hrows, ⟨b, hbands, hfirst, hn, hflags, hepoch⟩, hmem⟩ := doRaster_fences hlt hi hf h1 h0 hc hm hrow (rasterGap_ahead hi h hv)
    exact ⟨_, exec_rasterPacket p hp, hrows, ⟨b, hbands, hfirst, hn, hflags, hepoch⟩, fun ok x hx hy hz => hmem ok x (not_or.mpr ⟨hx, hy⟩) hz⟩

end Sys2Proof.Machine

/-! SUPPORT. The management requests of one device and its responder: executed once, answered, ended (R121 to R132). -/

namespace Sys2Proof.Machine

/-! ## The response to a request (R122, R127, R128) -/

theorem mkPacket_directed (dest src cls flow seq flags dom : Nat) (data : List Byte) :
    (mkPacket dest src cls flow seq flags dom data).directed = bit flags 1 := by
  simp only [mkPacket, Packet.directed, bit, BitVec.toNat_ofNat, Nat.testBit_eq_decide_div_mod_eq]
  refine decide_eq_decide.mpr ?_
  omega

theorem Status.code_lt (st : Status) : st.code < 256 := by cases st <;> decide

/-- The type and the status stand at their places of a body, whatever pads it. -/
theorem mgmtBody_type {type flags status length addr : Nat} {pre data post : List Byte} {o : Nat} (ho : pre.length = o) :
    fieldAt (pre ++ mgmtBody type flags status length addr data ++ post) o 1 = type % 256 := by
  simp only [mgmtBody, List.append_assoc]
  exact fieldAt_middle type ho

theorem mgmtBody_status {type flags status length addr : Nat} {pre data post : List Byte} {o : Nat} (ho : pre.length = o) :
    fieldAt (pre ++ mgmtBody type flags status length addr data ++ post) (o + 2) 1 = status % 256 := by
  have e : pre ++ mgmtBody type flags status length addr data ++ post
      = (pre ++ leBytes 1 type ++ leBytes 1 flags) ++ (leBytes 1 status ++ (leBytes 1 0 ++ leBytes 4 length ++ leBytes 8 addr ++ data ++ post)) := by
    simp only [mgmtBody, List.append_assoc]
  rw [e]
  exact fieldAt_middle status (by simp [ho])

/-- A response holds its body at the offset that its header tells. -/
theorem mgmtResponse_body (s : State) (link : Option Nat) (p : Packet) (st : Status) (data : List Byte) :
    ∃ pre post len addr, (mgmtResponse s link p st data).data = pre ++ mgmtBody 15 0 st.code len addr data ++ post
      ∧ pre.length = (mgmtResponse s link p st data).bodyOff := by
  unfold mgmtResponse
  extract_lets body n entries
  split
  · refine ⟨leBytes 1 n ++ leBytes 1 0 ++ entries, _, _, _, rfl, ?_⟩
    simp [Packet.bodyOff, mkPacket_directed, entries]
    rfl
  · refine ⟨[], _, _, _, rfl, ?_⟩
    simp [Packet.bodyOff, mkPacket_directed, bit]

theorem mgmtResponse_type (s : State) (link : Option Nat) (p : Packet) (st : Status) (data : List Byte) :
    fieldAt (mgmtResponse s link p st data).data (mgmtResponse s link p st data).bodyOff 1 = 15 := by
  obtain ⟨pre, post, len, addr, hd, ho⟩ := mgmtResponse_body s link p st data
  rw [hd]
  exact mgmtBody_type ho

theorem mgmtResponse_status (s : State) (link : Option Nat) (p : Packet) (st : Status) (data : List Byte) :
    fieldAt (mgmtResponse s link p st data).data ((mgmtResponse s link p st data).bodyOff + 2) 1 = st.code := by
  obtain ⟨pre, post, len, addr, hd, ho⟩ := mgmtResponse_body s link p st data
  rw [hd, mgmtBody_status ho]
  exact Nat.mod_eq_of_lt st.code_lt

/-! ## The responder (R125, R128) -/

/-- The parts that a packet sent into the fabric may change. -/
abbrev sendParts : List Part := [.evSeq, .out, .dorm, .rings, .regs, .irq, .rate, .localQ, .links, .exch]

theorem routePkt_frame (s : State) (src : Option Nat) (p : Packet) : Frame sendParts s (s.routePkt src p) :=
  frame_State_routePkt (List.Subset.refl _) (.refl _ s)

/-- The request taken from those that were delivered to this device. -/
abbrev requestTaken (s : State) (p : Packet) : State := takeLocal s fun q => q.cls == clsMGMT && q == p

/-- The responder of a request's flow and source. -/
def responderOf (s : State) (p : Packet) : MResponder := s.fab.resps.getD (mgmtKey p.flow p.src) { next := 0, copies := [] }

/-- A request carries RESYNC, or RETRY. -/
def resyncs (p : Packet) : Bool := bit (fieldAt p.data (p.bodyOff + 1) 1) 2
def retries (p : Packet) : Bool := bit (fieldAt p.data (p.bodyOff + 1) 1) 1

/-- The newest of some kept answers is among the last 64. -/
theorem mem_kept_answers {α : Type} (old : List α) (a : α) : a ∈ (old ++ [a]).drop (old.length + 1 - 64) := by
  rw [List.drop_append_of_le_length (by omega)]
  simp

/-- What an executed request leaves: its answer is kept and goes out, and the next SEQ is expected. -/
def servedWith (s : State) (link : Option Nat) (p : Packet) (copies : List (Nat × Packet)) : State :=
  let e := mgmtExecute (requestTaken s p) p
  let a := mgmtResponse e.1 link p e.2.1 e.2.2
  let r : MResponder := { next := (p.seq + 1) % 65536, copies := (copies ++ [(p.seq, a)]).drop (copies.length + 1 - 64) }
  { e.1 with fab.resps := e.1.fab.resps.set (mgmtKey p.flow p.src) r }.routePkt none a

theorem doMgmtRequest_executes {s : State} {link : Option Nat} {p : Packet} (hc : Tab.get? (responderOf s p).copies p.seq = none)
    (ht : requestType (fieldAt p.data p.bodyOff 1) = true) (hq : resyncs p = true ∨ p.seq = (responderOf s p).next) :
    doMgmtRequest s link p = servedWith s link p (if resyncs p then [] else (responderOf s p).copies) := by
  have hn : ¬ ((!(requestType (fieldAt p.data p.bodyOff 1))) = true ∨ (!(resyncs p || decide (p.seq = (responderOf s p).next))) = true) := by
    rcases hq with h | h <;> simp [ht, h]
  unfold doMgmtRequest
  extract_lets -underBinder +onlyGivenNames u fl key r resync
  have hk : Tab.get? r.copies p.seq = none := hc
  simp only [hk]
  exact if_neg hn

theorem doMgmtRequest_repeat {s : State} {link : Option Nat} {p : Packet} {a : Packet} (hc : Tab.get? (responderOf s p).copies p.seq = some a)
    (hq : resyncs p = false ∨ retries p = true) : doMgmtRequest s link p = (requestTaken s p).routePkt none a := by
  have hn : ¬ (resyncs p = true ∧ (!(retries p)) = true) := by rcases hq with h | h <;> simp [h]
  unfold doMgmtRequest
  extract_lets -underBinder +onlyGivenNames u fl key r resync
  have hk : Tab.get? r.copies p.seq = some a := hc
  simp only [hk]
  exact if_neg hn

theorem doMgmtRequest_discards {s : State} {link : Option Nat} {p : Packet} (hc : Tab.get? (responderOf s p).copies p.seq = none)
    (hr : resyncs p = false) (hq : p.seq ≠ (responderOf s p).next) : doMgmtRequest s link p = requestTaken s p := by
  have hn : (!(requestType (fieldAt p.data p.bodyOff 1))) = true ∨ (!(resyncs p || decide (p.seq = (responderOf s p).next))) = true := by simp [hr, hq]
  unfold doMgmtRequest
  extract_lets -underBinder +onlyGivenNames u fl key r resync
  have hk : Tab.get? r.copies p.seq = none := hc
  simp only [hk]
  exact if_pos hn

/-- A request of another domain is answered DENIED; nothing is executed. -/
theorem mgmtExecute_otherDomain {s : State} {p : Packet} (hc : s.isGateway = true ∨ s.fab.claimed = true) (hd : p.dom ≠ s.domain) :
    mgmtExecute s p = (domainDenied s p.dom (fieldAt p.data p.bodyOff 1), .denied, []) := by
  have h : (s.isGateway || s.fab.claimed) = true := by simpa using hc
  simp [mgmtExecute, h, hd]

theorem exec_mgmtRequest {s : State} (l : Option (Fin 11)) (p : Packet) (hp : s.pdOn 9 = true) :
    exec (.mgmtRequest l p) s = .next (onLinks s fun s => doMgmtRequest s (l.map (·.val)) p) := congrArg Host.Outcome.next (if_pos hp)

/-- What follows a request on the links changes none of the management's records, no memory and no region. -/
theorem onLinks_resps (s : State) (f : State → State) : (onLinks s f).fab.resps = (f s).fab.resps :=
  ((onLinks_frame s f).keep .mgmt (by decide)).2

/-- An executed request is answered, its answer kept under its SEQ. -/
theorem servedWith_resps (s : State) (link : Option Nat) (p : Packet) (copies : List (Nat × Packet)) :
    ∃ r', (servedWith s link p copies).fab.resps.get? (mgmtKey p.flow p.src) = some r' ∧ r'.next = (p.seq + 1) % 65536
      ∧ (p.seq, mgmtResponse (mgmtExecute (requestTaken s p) p).1 link p (mgmtExecute (requestTaken s p) p).2.1 (mgmtExecute (requestTaken s p) p).2.2)
          ∈ r'.copies := by
  unfold servedWith
  extract_lets e a r
  rw [((routePkt_frame _ none a).keep .mgmt (by decide)).2]
  exact ⟨_, (Tab.get?_set _ _ _ _).trans (if_pos rfl), rfl, mem_kept_answers _ _⟩

/-- The memory of a served request is what its execution left. -/
theorem servedWith_mem (s : State) (link : Option Nat) (p : Packet) (copies : List (Nat × Packet)) :
    (servedWith s link p copies).mem = (mgmtExecute (requestTaken s p) p).1.mem := (routePkt_frame _ none _).keep .mem (by decide)

/-- A request of another domain changes no memory. -/
theorem mgmtExecute_otherDomain_mem {s : State} {p : Packet} (hc : s.isGateway = true ∨ s.fab.claimed = true) (hd : p.dom ≠ s.domain) :
    (mgmtExecute (requestTaken s p) p).1.mem = s.mem := by
  rw [mgmtExecute_otherDomain (s := requestTaken s p) hc hd]
  exact (frame_domainDenied (m := sendParts) (by decide) (frame_takeLocal (by decide) (.refl _ s))).keep .mem (by decide)

/-- The delivered request alone goes. -/
theorem requestTaken_still (s : State) (p : Packet) : Still s (requestTaken s p) := ⟨fun _ => rfl, fun _ _ => rfl⟩

/-! ## What the device does with a request (R125, R128) -/

section
variable {s : State} {l : Option (Fin 11)} {p : Packet} (hp : s.pdOn 9 = true)
include hp

/-- A request with the next SEQ or RESYNC is executed, its answer kept; one of another domain is answered DENIED. -/
theorem mgmtRequest_executed (hc : Tab.get? (responderOf s p).copies p.seq = none) (ht : requestType (fieldAt p.data p.bodyOff 1) = true)
    (hq : resyncs p = true ∨ p.seq = (responderOf s p).next) :
    ∃ t, exec (.mgmtRequest l p) s = .next t ∧ ∃ r', t.fab.resps.get? (mgmtKey p.flow p.src) = some r' ∧ r'.next = (p.seq + 1) % 65536
      ∧ ∃ a, (p.seq, a) ∈ r'.copies ∧ fieldAt a.data a.bodyOff 1 = 15
        ∧ ((s.isGateway = true ∨ s.fab.claimed = true) → p.dom ≠ s.domain →
            fieldAt a.data (a.bodyOff + 2) 1 = Status.denied.code ∧ t.mem = s.mem) := by
  have hd := doMgmtRequest_executes (link := l.map (·.val)) hc ht hq
  obtain ⟨r', hr, hn, ha⟩ := servedWith_resps s (l.map (·.val)) p (if resyncs p then [] else (responderOf s p).copies)
  refine ⟨_, exec_mgmtRequest l p hp, r', by rw [onLinks_resps, hd]; exact hr, hn, _, ha, mgmtResponse_type _ _ _ _ _, fun hg ho => ⟨?_, ?_⟩⟩
  · rw [mgmtResponse_status, mgmtExecute_otherDomain (s := requestTaken s p) hg ho]
  · refine Eq.trans ((onLinks_frame s _).keep .mem (by decide)) ?_
    rw [hd, servedWith_mem]
    exact mgmtExecute_otherDomain_mem hg ho

/-- A repeat is answered from the copy alone. -/
theorem mgmtRequest_repeated {a : Packet} (hc : Tab.get? (responderOf s p).copies p.seq = some a) (hq : resyncs p = false ∨ retries p = true) :
    ∃ t, exec (.mgmtRequest l p) s = .next t ∧ t.fab.resps = s.fab.resps ∧ t.mem = s.mem ∧ t.sys.mpu = s.sys.mpu := by
  have hd := doMgmtRequest_repeat (link := l.map (·.val)) hc hq
  have hf : Frame (.mir :: followParts) s (onLinks s fun s => doMgmtRequest s (l.map (·.val)) p) := by
    refine Frame.trans ?_ (onLinks_frame s _)
    rw [hd]
    exact frame_State_routePkt (by decide) (frame_takeLocal (by decide) (.refl _ s))
  exact ⟨_, exec_mgmtRequest l p hp, (hf.keep .mgmt (by decide)).2, hf.keep .mem (by decide), hf.keep .mpu (by decide)⟩

/-- A request with another SEQ is discarded. -/
theorem mgmtRequest_discarded (hc : Tab.get? (responderOf s p).copies p.seq = none) (hr : resyncs p = false) (hq : p.seq ≠ (responderOf s p).next) :
    exec (.mgmtRequest l p) s = .next (requestTaken s p) := by
  have hd := doMgmtRequest_discards (link := l.map (·.val)) hc hr hq
  rw [exec_mgmtRequest l p hp, onLinks_still (hd ▸ requestTaken_still s p) (by rw [hd]; rfl)]
  exact congrArg Host.Outcome.next hd

end

/-! ## Completions are never taken back -/

/-- A command that finishes takes no completion back. -/
theorem finish_done_grows (s : State) (j : Job) (st : Status) (fl r : Nat) : s.host.done <+: (s.finish j st fl r).host.done := by
  unfold State.finish
  split
  · next =>
    extract_lets -merge -underBinder +onlyGivenNames x u w d e v
    have hv : s.host.done <+: v.host.done := by
      simp only [v]
      split
      · exact List.prefix_refl _
      · exact List.prefix_append _ _
    split
    · rwa [(mirrorOfDone_host v j).1]
    · exact hv
  · next cls rid _ _ =>
    split
    · exact List.prefix_refl _
    · have h : (mirrorReject s cls rid st).host.done = s.host.done :=
        (frame_mirrorReject (List.Subset.refl _) (Frame.refl _ s)).keep .done (by decide)
      rw [h]

/-- What a feed does in its context before it completes. -/
abbrev feedParts : List Part := [.dec, .regs, .evSeq, .out, .dorm, .rings, .irq, .rate, .localQ, .links, .exch, .mem, .dram]

/-- Feeds that are copied take no completion back. -/
theorem pumpFeeds_done_grows (n : Nat) (s : State) (c : Nat) : s.host.done <+: (pumpFeeds n s c).host.done := by
  induction n generalizing s with
  | zero => exact List.prefix_refl _
  | succ n ih =>
    rw [pumpFeeds]
    split
    · exact List.prefix_refl _
    · next f fs _ =>
      split
      · extract_lets -merge -underBinder +onlyGivenNames ep k u a v w x y
        have hu : Frame feedParts s u := frame_ringCopy (by decide) (frame_State_setCtx (by decide) (.refl _ s))
        have hv : Frame feedParts s v := frame_State_setCtx (by decide) hu
        have hw : Frame feedParts s w := frame_reportSets (by decide) hv
        have hx : Frame feedParts s x := .ite (frame_takeLead (by decide) hw) hw
        have hd : x.host.done = s.host.done := hx.keep .done (by decide)
        exact (hd ▸ finish_done_grows x _ _ _ _).trans (ih y)
      · exact List.prefix_refl _

/-! ## A DMA that fails ends its command (R129) -/

/-- The completion of a command with ABORTED is among those that wait. -/
def HasAborted (t : State) (c : Cmd) : Prop :=
  t.host.done.any (fun e => e.pf == c.pf.val && e.sq == c.sq.val && e.tag == c.job.n 2 2 && e.status == .aborted) = true

theorem HasAborted.grows {t u : State} {c : Cmd} (h : HasAborted t c) (k : t.host.done <+: u.host.done) : HasAborted u c := by
  obtain ⟨e, he, hc⟩ := List.any_eq_true.mp h
  exact List.any_eq_true.mpr ⟨e, k.subset he, hc⟩

theorem finish_hasAborted (s : State) (c : Cmd) (fl r : Nat) : HasAborted (s.finish c.job .aborted fl r) c := by
  rw [HasAborted, (finish_host s c .aborted fl r).1]
  simp [entry]

theorem abortJob_hasAborted (s : State) (c : Cmd) (n : Nat) : HasAborted (abortJob s { job := c.job, used := n }) c := by
  unfold abortJob
  split
  · exact finish_hasAborted s c _ _
  · exact finish_hasAborted s c _ _

theorem dmaFailed_hasAborted {s : State} {r : MReq} {c : Cmd} (hc : r.cmd = some c.job) (hf : s.host.inFlight.any (fun e => e.job == c.job) = true) :
    HasAborted (dmaFailed s r) c := by
  have h := abortJob_hasAborted (dropWork s c.job) c (bytesOut s c.job)
  simp only [dmaFailed, hc, hf, if_true]
  split
  · exact h.grows (pumpFeeds_done_grows _ _ _)
  · exact h

/-! ## The requester (R127 to R129) -/

/-- The requester of a key without one of its outstanding requests. -/
def requestClosed (s : State) (key seq : Nat) : State :=
  s.setRequester key { s.requester key with open_ := (s.requester key).open_.filter (fun e => !(e.seq == seq)) }

theorem requestClosed_requester (s : State) (key seq : Nat) :
    (requestClosed s key seq).requester key = { s.requester key with open_ := (s.requester key).open_.filter (fun e => !(e.seq == seq)) } := by
  simp [requestClosed]

/-- The requester of a key in a state that holds the same requesters. -/
theorem requester_congr {s t : State} (h : t.fab.reqs = s.fab.reqs) (key : Nat) : t.requester key = s.requester key := by
  simp only [State.requester, h]

/-- Nothing waits: no request goes out. -/
theorem pumpRequests_idle {s : State} {key : Nat} (h : (s.requester key).wait = []) : pumpRequests s key = s := by
  simp [pumpRequests, h]

/-- The status of a response. -/
def answerStatus (p : Packet) : Nat := fieldAt p.data (p.bodyOff + 2) 1

/-- A window request's answer: a denial is counted, and a read completes with its data, or with 0 where it was denied. -/
def windowAnswered (s : State) (r : MReq) (p : Packet) : State :=
  let denied := decide (answerStatus p = Status.denied.code)
  let s := if denied then s.bump Reg.FAB_GW_DENIED_CNT else s
  if r.isRead then
    pcieAnswer s r.pf r.bar (if denied then 0 else fieldAt p.data (p.bodyOff + 16) (min 8 (fieldAt p.data (p.bodyOff + 4) 4)))
  else s

theorem doResp_window {s : State} {l : Option Nat} {p : Packet} {key : Nat} {r : MReq} (ha : answered s l p = some (key, r)) (hw : r.win ≠ 0) :
    doResp s l p = pumpRequests (windowAnswered (requestClosed (requestTaken s p) key r.seq) r p) key := by
  unfold doResp
  extract_lets -underBinder +onlyGivenNames u
  have h : answered u l p = some (key, r) := ha
  simp only [h, if_pos hw]
  rfl

theorem doResp_dmaFailed {s : State} {l : Option Nat} {p : Packet} {key : Nat} {r : MReq} (ha : answered s l p = some (key, r)) (hw : r.win = 0)
    (hs : answerStatus p ≠ Status.done.code) :
    doResp s l p = pumpRequests (dmaFailed (requestClosed (requestTaken s p) key r.seq) r) key := by
  unfold doResp
  extract_lets -underBinder +onlyGivenNames u
  have h : answered u l p = some (key, r) := ha
  simp only [h, if_neg (not_not.mpr hw)]
  exact congrArg (pumpRequests · key) (if_pos hs)

theorem doResp_unasked {s : State} {l : Option Nat} {p : Packet} (ha : answered s l p = none) : doResp s l p = requestTaken s p := by
  unfold doResp
  extract_lets -underBinder +onlyGivenNames u
  have h : answered u l p = none := ha
  simp only [h]
  rfl

theorem windowAnswered_reqs (s : State) (r : MReq) (p : Packet) : (windowAnswered s r p).fab.reqs = s.fab.reqs := by
  unfold windowAnswered
  extract_lets denied u
  have hu : u.fab.reqs = s.fab.reqs := by
    simp only [u]
    split <;> rfl
  split
  · exact hu
  · exact hu

/-- An answer that is not DENIED completes a read with its data. -/
theorem windowAnswered_read {s : State} {r : MReq} {p : Packet} (hr : r.isRead = true) (hd : answerStatus p ≠ Status.denied.code) :
    windowAnswered s r p
      = s.emit (.pcieData r.pf r.bar (BitVec.ofNat 64 (fieldAt p.data (p.bodyOff + 16) (min 8 (fieldAt p.data (p.bodyOff + 4) 4))))) := by
  simp [windowAnswered, hr, hd, pcieAnswer]

/-- A denial is counted, and completes a read with 0. -/
theorem windowAnswered_denied {s : State} {r : MReq} {p : Packet} (hd : answerStatus p = Status.denied.code) :
    windowAnswered s r p
      = if r.isRead then (s.bump Reg.FAB_GW_DENIED_CNT).emit (.pcieData r.pf r.bar 0) else s.bump Reg.FAB_GW_DENIED_CNT := by
  simp [windowAnswered, hd, pcieAnswer]

theorem mem_news_emit {s u : State} (o : Out) (h : u.out = s.out) : o ∈ news s (u.emit o) :=
  mem_news_later (List.suffix_refl s.out) (by rw [State.emit, h])

theorem exec_resp {s : State} (l : Option (Fin 11)) (p : Packet) (hp : s.pdOn 9 = true) :
    exec (.resp ⟨l, p⟩) s = .next (doResp s (l.map (·.val)) p) := congrArg Host.Outcome.next (if_pos hp)

section
variable {s : State} {l : Option (Fin 11)} {p : Packet} {key : Nat} {r : MReq} (hp : s.pdOn 9 = true)
include hp

/-- The answer of a window's request ends it, and completes a read. -/
theorem resp_window (ha : answered s (l.map (·.val)) p = some (key, r)) (hq : (s.requester key).wait = []) (hw : r.win ≠ 0) :
    ∃ t, exec (.resp ⟨l, p⟩) s = .next t
      ∧ (t.requester key).open_ = (s.requester key).open_.filter (fun e => !(e.seq == r.seq))
      ∧ (answerStatus p ≠ Status.denied.code → r.isRead = true →
          Out.pcieData r.pf r.bar (BitVec.ofNat 64 (fieldAt p.data (p.bodyOff + 16) (min 8 (fieldAt p.data (p.bodyOff + 4) 4)))) ∈ news s t)
      ∧ (answerStatus p = Status.denied.code →
          t.cnt Reg.FAB_GW_DENIED_CNT = min (s.cnt Reg.FAB_GW_DENIED_CNT + 1) 0xFFFFFFFF
            ∧ (r.isRead = true → Out.pcieData r.pf r.bar 0 ∈ news s t)) := by
  let u := requestClosed (requestTaken s p) key r.seq
  have hu : (windowAnswered u r p).requester key = u.requester key := requester_congr (windowAnswered_reqs u r p) key
  have hk : u.requester key = { s.requester key with open_ := (s.requester key).open_.filter (fun e => !(e.seq == r.seq)) } :=
    requestClosed_requester (requestTaken s p) key r.seq
  have hi : pumpRequests (windowAnswered u r p) key = windowAnswered u r p := pumpRequests_idle (by rw [hu, hk]; exact hq)
  refine ⟨windowAnswered u r p, by rw [exec_resp l p hp, doResp_window ha hw, hi], by rw [hu, hk], fun hd hr => ?_, fun hd => ⟨?_, fun hr => ?_⟩⟩
  · rw [windowAnswered_read hr hd]
    exact mem_news_emit _ rfl
  · rw [windowAnswered_denied hd]
    split
    · exact State.cnt_bumpBy s _ 1
    · exact State.cnt_bumpBy s _ 1
  · rw [windowAnswered_denied hd, if_pos hr]
    exact mem_news_emit _ rfl

/-- A command whose DMA was not answered with DONE ends with ABORTED. -/
theorem resp_dmaFailed {c : Cmd} (ha : answered s (l.map (·.val)) p = some (key, r)) (hw : r.win = 0) (hc : r.cmd = some c.job)
    (hf : s.host.inFlight.any (fun e => e.job == c.job) = true) (hs : answerStatus p ≠ Status.done.code) :
    ∃ t, exec (.resp ⟨l, p⟩) s = .next t ∧ HasAborted t c := by
  refine ⟨_, by rw [exec_resp l p hp, doResp_dmaFailed ha hw hs], ?_⟩
  have h : HasAborted (dmaFailed (requestClosed (requestTaken s p) key r.seq) r) c := dmaFailed_hasAborted hc hf
  have hk : (pumpRequests (dmaFailed (requestClosed (requestTaken s p) key r.seq) r) key).host.done = _ :=
    (frame_pumpRequests (List.Subset.refl _) (.refl _ _)).keep .done (by decide)
  exact h.grows (hk ▸ List.prefix_refl _)

end

/-! ## Timeouts (R128, R129) -/

/-- An outstanding request as it is sent again. -/
def MReq.resent (r : MReq) (clk : Nat) : MReq :=
  { r with tries := r.tries + 1, sent := clk, pkt := { r.pkt with data := orByte r.pkt.data (r.pkt.bodyOff + 1) 2 } }

/-- Requests that are sent again stay outstanding, in their order. -/
theorem resendAll_requester (s : State) (key : Nat) :
    (resendAll s key).requester key = { s.requester key with open_ := (s.requester key).open_.map (·.resent s.clk) } := by
  unfold resendAll
  extract_lets q q'
  have h : Frame sendParts (s.setRequester key q') (q'.open_.foldl (fun s r => s.routePkt none r.pkt) (s.setRequester key q')) :=
    Frame.foldl (.refl _ _) fun u r g => g.trans (routePkt_frame u none r.pkt)
  rw [requester_congr (h.keep .mgmt (by decide)).1]
  exact State.requester_setRequester s key q'

theorem exec_mgmtRetryTimeout {s : State} (flow : Fin 3) (peer : BitVec 10) (hp : s.pdOn 9 = true) :
    exec (.mgmtRetryTimeout flow peer) s = .next (doRetryTimeout s (if flow = 2 then directedReq s peer.toNat else mgmtKey flow.val peer.toNat)) :=
  congrArg Host.Outcome.next (if_pos hp)

/-- The tries that a request has: RETRIES of FAB_GW_MGMT_CFG. -/
def triesOf (s : State) : Nat := bits (s.reg Reg.FAB_GW_MGMT_CFG) 18 16

theorem doRetryTimeout_resends {s : State} {key : Nat} {r : MReq} {rs : List MReq} (hq : (s.requester key).open_ = r :: rs)
    (ht : r.tries < triesOf s) : doRetryTimeout s key = resendAll s key := by
  simp only [doRetryTimeout, hq]
  exact if_pos ht

/-- The requester of a key without its oldest request; the next one, or the next to come, carries RESYNC. -/
def oldestGone (q : MRequester) : List MReq → MRequester
  | [] => { q with open_ := [], resync := true }
  | x :: xs => { q with open_ := { x with pkt := { x.pkt with data := orByte x.pkt.data (x.pkt.bodyOff + 1) 4 } } :: xs }

theorem oldestGone_seqs (q : MRequester) (rs : List MReq) : (oldestGone q rs).open_.map (·.seq) = rs.map (·.seq) := by cases rs <;> rfl

theorem oldestGone_wait (q : MRequester) (rs : List MReq) : (oldestGone q rs).wait = q.wait := by cases rs <;> rfl

theorem doRetryTimeout_fails {s : State} {key : Nat} {r : MReq} {rs : List MReq} (hq : (s.requester key).open_ = r :: rs)
    (ht : triesOf s ≤ r.tries) :
    doRetryTimeout s key = pumpRequests (resendAll (requestFailed (s.setRequester key (oldestGone (s.requester key) rs)) r) key) key := by
  simp only [doRetryTimeout, hq]
  refine (if_neg (Nat.not_lt.mpr ht)).trans ?_
  cases rs <;> rfl

/-- The failure counter is none that an event moves. -/
theorem failCnt_not_event : ¬ EventReg Reg.FAB_GW_FAIL_CNT := fun h => by
  rcases (counted _ h).num with h | ⟨n, h⟩ | ⟨n, h | h | h | h | ⟨w, f, h⟩⟩
  · exact absurd h (by decide)
  all_goals simp only [Reg.FAB_GW_FAIL_CNT] at h; omega

/-- The capture of a failed request, where none is held. -/
def failCaptured (s : State) (r : MReq) : State :=
  if bit (s.cnt Reg.FAB_GW_FAIL_CAP) 31 then s
  else (s.setReg Reg.FAB_GW_FAIL_CAP (2 ^ 31 + r.type * 256 + r.win)).setReg Reg.FAB_GW_FAIL_ADDR (r.addr % 2 ^ 32)

/-- MGMT_FAIL of a failed request. -/
def failTold (s : State) (r : MReq) : State :=
  (failCaptured (s.bump Reg.FAB_GW_FAIL_CNT) r).raise 0x0720 (leBytes 1 r.win ++ leBytes 1 r.type ++ leBytes 8 r.addr)

theorem requestFailed_window {s : State} {r : MReq} (hw : r.win ≠ 0) :
    requestFailed s r = if r.isRead then pcieAnswer (failTold s r) r.pf r.bar 0 else failTold s r := if_neg hw

theorem failCaptured_cnt (s : State) (r : MReq) : (failCaptured s r).cnt Reg.FAB_GW_FAIL_CNT = s.cnt Reg.FAB_GW_FAIL_CNT := by
  unfold failCaptured
  split
  · rfl
  · simp [State.cnt, State.setReg, Reg.FAB_GW_FAIL_CNT, Reg.FAB_GW_FAIL_CAP, Reg.FAB_GW_FAIL_ADDR]

theorem failCaptured_log (s : State) (r : MReq) : (failCaptured s r).out = s.out := by
  unfold failCaptured
  split <;> rfl

/-- The failed request is counted. -/
theorem failTold_cnt (s : State) (r : MReq) : (failTold s r).cnt Reg.FAB_GW_FAIL_CNT = min (s.cnt Reg.FAB_GW_FAIL_CNT + 1) 0xFFFFFFFF := by
  have h := (calm_State_raise (s := failCaptured (s.bump Reg.FAB_GW_FAIL_CNT) r) (v1 := 0x0720)
    (v2 := leBytes 1 r.win ++ leBytes 1 r.type ++ leBytes 8 r.addr) (fun _ => id) (.refl _)).cnt failCnt_not_event
  rw [failTold, h, failCaptured_cnt]
  exact State.cnt_bumpBy s _ 1

theorem failTold_raised (s : State) (r : MReq) : Raised s (failTold s r) 0x0720 (leBytes 1 r.win ++ leBytes 1 r.type ++ leBytes 8 r.addr) :=
  raised_raise _ _ (by rw [failCaptured_log]; exact List.suffix_refl _)

theorem failTold_log (s : State) (r : MReq) : s.out <:+ (failTold s r).out := by
  have h : (failCaptured (s.bump Reg.FAB_GW_FAIL_CNT) r).out = s.out := failCaptured_log _ r
  exact h ▸ (keeps_State_raise (.refl _)).log

/-- Sending requests again moves no counter but those of events. -/
theorem resendAll_calm (s : State) (key : Nat) : CalmOf EventReg s (resendAll s key) := by
  unfold resendAll
  extract_lets q q'
  exact CalmOf.foldl (CalmOf.refl s).upd fun u r g => calm_State_routePkt (fun _ => id) g

theorem requestFailed_cnt {s : State} {r : MReq} (hw : r.win ≠ 0) :
    (requestFailed s r).cnt Reg.FAB_GW_FAIL_CNT = min (s.cnt Reg.FAB_GW_FAIL_CNT + 1) 0xFFFFFFFF := by
  rw [requestFailed_window hw]
  split
  · exact failTold_cnt s r
  · exact failTold_cnt s r

theorem requestFailed_log {s : State} {r : MReq} (hw : r.win ≠ 0) : (failTold s r).out <:+ (requestFailed s r).out := by
  rw [requestFailed_window hw]
  split
  · exact List.suffix_cons _ _
  · exact List.suffix_refl _

section
variable {s : State} {flow : Fin 3} {peer : BitVec 10} {key : Nat} {r : MReq} {rs : List MReq} (hp : s.pdOn 9 = true)
  (hk : (if flow = 2 then directedReq s peer.toNat else mgmtKey flow.val peer.toNat) = key) (hq : (s.requester key).open_ = r :: rs)
include hp hk hq

/-- Before RETRIES every outstanding request goes out again. -/
theorem mgmtRetryTimeout_resends (ht : r.tries < triesOf s) :
    ∃ t, exec (.mgmtRetryTimeout flow peer) s = .next t
      ∧ (t.requester key).open_.length = (s.requester key).open_.length
      ∧ (t.requester key).open_.map (·.tries) = (s.requester key).open_.map (fun e => e.tries + 1)
      ∧ (t.requester key).open_.map (·.seq) = (s.requester key).open_.map (·.seq) := by
  refine ⟨resendAll s key, by rw [exec_mgmtRetryTimeout flow peer hp, hk, doRetryTimeout_resends hq ht], ?_⟩
  rw [resendAll_requester]
  simp [MReq.resent]

/-- After RETRIES the oldest request fails: a window's is counted and raises MGMT_FAIL. -/
theorem mgmtRetryTimeout_fails (ht : triesOf s ≤ r.tries) (hw : r.win ≠ 0) (hi : (s.requester key).wait = []) :
    ∃ t, exec (.mgmtRetryTimeout flow peer) s = .next t
      ∧ (t.requester key).open_.map (·.seq) = rs.map (·.seq)
      ∧ t.cnt Reg.FAB_GW_FAIL_CNT = min (s.cnt Reg.FAB_GW_FAIL_CNT + 1) 0xFFFFFFFF
      ∧ Raised s t 0x0720 (leBytes 1 r.win ++ leBytes 1 r.type ++ leBytes 8 r.addr) := by
  let q' := oldestGone (s.requester key) rs
  let u := s.setRequester key q'
  let v := requestFailed u r
  have hv : v.requester key = q' :=
    (requester_congr ((frame_requestFailed (List.Subset.refl _) (.refl _ u)).keep .mgmt (by decide)).1 key).trans (State.requester_setRequester s key q')
  have ht' : (resendAll v key).requester key = { q' with open_ := q'.open_.map (·.resent v.clk) } := by rw [resendAll_requester, hv]
  have hd : pumpRequests (resendAll v key) key = resendAll v key :=
    pumpRequests_idle (by rw [ht']; exact (oldestGone_wait (s.requester key) rs).trans hi)
  refine ⟨resendAll v key, by rw [exec_mgmtRetryTimeout flow peer hp, hk, doRetryTimeout_fails hq ht, hd], ?_, ?_, ?_⟩
  · rw [ht', ← oldestGone_seqs (s.requester key) rs]
    simp [MReq.resent, q']
  · rw [(resendAll_calm v key).cnt failCnt_not_event]
    exact requestFailed_cnt hw
  · have hr : Raised s (failTold u r) 0x0720 (leBytes 1 r.win ++ leBytes 1 r.type ++ leBytes 8 r.addr) := failTold_raised u r
    exact hr.later (failTold_log u r) ((requestFailed_log hw).trans (keeps_resendAll (.refl v)).log)

end

/-! ## Events of devices behind the gateway (R132) -/

/-- The event packet taken from those that were delivered to this device. -/
abbrev eventTaken (s : State) (p : Packet) : State := takeLocal s fun q => q.cls == clsEVENT && q == p

/-- How far a packet's SEQ is ahead of the one expected of its device. -/
def eventAhead (s : State) (p : Packet) : Nat :=
  match s.fab.evSeqs.get? p.src with
  | some n => (p.seq + 65536 - n) % 65536
  | none => 0

/-- The packet's SEQ is noted: the next one is expected of its device. -/
def eventNoted (s : State) (p : Packet) : State :=
  { eventTaken s p with fab.evSeqs := s.fab.evSeqs.set p.src ((p.seq + 1) % 65536) }

/-- A record of a device behind the gateway goes into the rings of its window, after EVENTS_LOST for a gap before it. -/
def eventDelivered (s : State) (p : Packet) (ahead : Nat) : State :=
  match windowOf s p.src with
  | none => s
  | some w => evqDeliver (if ahead = 0 then s else gapRecord s w p.src ahead) w (p.data.take 32)

theorem doEventPacket_elsewhere {s : State} {p : Packet} (hg : s.isGateway = false) : doEventPacket s p = eventTaken s p := by
  have h : (takeLocal s fun q => q.cls == clsEVENT && q == p).isGateway = false := hg
  simp [doEventPacket, h]

theorem doEventPacket_older {s : State} {p : Packet} (ha : 32768 < eventAhead s p) : doEventPacket s p = eventTaken s p := by
  unfold doEventPacket
  extract_lets -underBinder +onlyGivenNames u
  split
  · rfl
  · exact if_pos (Nat.succ_le_of_lt ha)

theorem doEventPacket_expected {s : State} {p : Packet} (hg : s.isGateway = true) (ha : eventAhead s p ≤ 32768) :
    doEventPacket s p = eventDelivered (eventNoted s p) p (eventAhead s p) := by
  unfold doEventPacket
  extract_lets -underBinder +onlyGivenNames u
  have hu : ¬ (!u.isGateway) = true := by simp [show u.isGateway = true from hg]
  exact (if_neg hu).trans (if_neg (Nat.not_le.mpr (Nat.lt_succ_of_le ha)))

/-- The parts that records into the rings of a window change. -/
abbrev ringParts : List Part := [.evSeq, .out, .rings, .regs, .irq]

theorem eventDelivered_frame (s : State) (p : Packet) (ahead : Nat) : Frame ringParts s (eventDelivered s p ahead) := by
  unfold eventDelivered
  split
  · exact .refl _ s
  · exact frame_evqDeliver (by decide) (.ite (.refl _ s) (frame_gapRecord (by decide) (.refl _ s)))

/-- Delivering a record leaves the next SEQ expected. -/
theorem eventDelivered_noted (s : State) (p : Packet) (ahead : Nat) :
    (eventDelivered (eventNoted s p) p ahead).fab.evSeqs.get? p.src = some ((p.seq + 1) % 65536) := by
  have h : (eventDelivered (eventNoted s p) p ahead).fab.evSeqs = (eventNoted s p).fab.evSeqs := (eventDelivered_frame _ p ahead).keep .evSeqs (by decide)
  rw [h]
  simp [eventNoted]

/-- A gap's record is put out. -/
theorem gapRecord_raised (s : State) (w dev n : Nat) : Raised s (gapRecord s w dev n) 0x0722 (leBytes 2 dev ++ leBytes 4 n) := by
  unfold gapRecord
  extract_lets -merge -underBinder +onlyGivenNames data evr u
  have h : Keeps u ([0, 1].foldl (fun s f => if s.reg (evqOff w f Reg.HST_EVQ_MASK) = 0 then s else evqWrite s w f evr) u) :=
    Keeps.foldl (.refl u) fun v f g => .ite g (keeps_evqWrite g)
  exact mem_news_later (List.suffix_refl s.out) h.log

/-- A gap in a device's SEQ raises EVENTS_LOST where a window names the device. -/
theorem eventDelivered_raised {s : State} {p : Packet} {ahead : Nat} (ha : ahead ≠ 0) (hw : (windowOf s p.src).isSome = true) :
    Raised s (eventDelivered s p ahead) 0x0722 (leBytes 2 p.src ++ leBytes 4 ahead) := by
  obtain ⟨w, hw⟩ := Option.isSome_iff_exists.mp hw
  simp only [eventDelivered, hw, if_neg ha]
  exact (gapRecord_raised s w p.src ahead).later (keeps_gapRecord (.refl s)).log (keeps_evqDeliver (.refl _)).log

theorem exec_eventPacket {s : State} (p : Packet) (hp : s.pdOn 9 = true) : exec (.eventPacket p) s = .next (doEventPacket s p) :=
  congrArg Host.Outcome.next (if_pos hp)

/-! ## The management of a device and its gateway (R121 to R132) -/

/-- Settles O43: each request, response, timeout and event packet by the case of the model it falls in. -/
theorem managementRequestsAreServedAndEnd : Obligations.ManagementRequestsAreServedAndEnd := by
  unfold Obligations.ManagementRequestsAreServedAndEnd
  refine ⟨fun s l p hp => ⟨fun hc ht hq => mgmtRequest_executed hp hc ht hq, fun a hc hq => mgmtRequest_repeated hp hc hq,
      fun hc hr hq => ⟨_, mgmtRequest_discarded hp hc hr hq, rfl, rfl, rfl, rfl⟩⟩,
    fun s l p flow peer r rs hp => ⟨fun ha hq hw => resp_window hp ha hq hw, fun c ha hw hc hf hs => resp_dmaFailed hp ha hw hc hf hs,
      fun ha => ⟨requestTaken s p, by rw [exec_resp l p hp, doResp_unasked ha], rfl, rfl, rfl⟩,
      fun hq ht => mgmtRetryTimeout_resends hp rfl hq ht, fun hq ht hw hi => mgmtRetryTimeout_fails hp rfl hq ht hw hi,
      fun hg hn => ?_, fun n hg hn ha => ?_, fun n hg hn ha => ?_, fun hg => ?_⟩⟩
  case refine_1 =>
    have ha : eventAhead s p ≤ 32768 := by simp [eventAhead, hn]
    exact ⟨_, by rw [exec_eventPacket p hp, doEventPacket_expected hg ha], eventDelivered_noted s p _⟩
  case refine_2 =>
    have he : eventAhead s p = (p.seq + 65536 - n) % 65536 := by simp [eventAhead, hn]
    refine ⟨_, by rw [exec_eventPacket p hp, doEventPacket_expected hg (he ▸ ha)], eventDelivered_noted s p _, fun h0 hw => ?_⟩
    rw [he]
    exact eventDelivered_raised (s := eventNoted s p) h0 hw
  case refine_3 =>
    have he : eventAhead s p = (p.seq + 65536 - n) % 65536 := by simp [eventAhead, hn]
    exact ⟨eventTaken s p, by rw [exec_eventPacket p hp, doEventPacket_older (he ▸ ha)], rfl, rfl⟩
  case refine_4 => exact ⟨eventTaken s p, by rw [exec_eventPacket p hp, doEventPacket_elsewhere hg], rfl, rfl⟩

end Sys2Proof.Machine

/-! SUPPORT. PICTURE_START on a fabric context that counts a parameter set as taken before: the next one is not taken. -/

namespace Sys2Proof.Machine

/-- An open fabric context whose stream core counts one parameter set of the next picture as taken. -/
def countingContext : CtxRec := { CtxRec.init with state := 1, fabric := true, setsSeen := 1 }

/-- A device with PD5 on, whose context 0 counts a set as taken. -/
def countingDevice : State :=
  { State.reset with
    sys := { State.reset.sys with power := { State.reset.sys.power with on := 0x225 } }
    dec := { ctxs := [(0, countingContext)], engs := [], rasters := [] } }

/-- An SPS of a profile that no context decodes (R140). -/
def foreignSps : SpsInfo :=
  { profile := .other, chroma := 1, depthY := 8, depthC := 8, tools := [], codedW := 64, codedH := 64, width := 64, height := 64, dpb := some 0,
    levelDpb := 0, reorder := some 0 }

/-- A picture behind that SPS. -/
def foreignPicture : PicInfo :=
  { sets := [.sps 0 foreignSps 33], sps := some 0, tools := [], nalType := 1, bytes := 50, next := none, output := true, poc := 0, keepBufs := [],
    release := [], irap := true, recovery := false, recovStart := false, sei := none }

/-- The refused SPS is not recorded: the set is dropped as one that was taken. -/
theorem countingDevice_drops_sps :
    ((doPictureStart countingDevice 0 [(0, foreignPicture)]).ctx 0).sps.get? 0 = none := by
  decide +kernel

/-- Refutes O22: its last clause records a refused SPS in every open fabric context, but a context drops as many sets before its next picture as it
counts as taken, and the context of countingDevice counts one. -/
theorem not_picturesAreStarted : ¬ Obligations.PicturesAreStarted := by
  intro h
  obtain ⟨-, -, -, -, hrefused⟩ := h countingDevice 0 [(0, foreignPicture)] (by decide)
  obtain ⟨t, ht, hsps, -⟩ := hrefused 0 foreignPicture 0 foreignSps 33 rfl (by decide) rfl rfl rfl rfl rfl rfl rfl rfl (by decide)
  have he : doPictureStart countingDevice 0 [(0, foreignPicture)] = t := Host.Outcome.next.inj ht
  rw [← he] at hsps
  exact Option.some_ne_none _ (hsps.symm.trans countingDevice_drops_sps)

end Sys2Proof.Machine

/-! SUPPORT. SLICE_DECODE of a slice that is good itself and reports rows of its picture as lost: their concealment marks the picture. -/

namespace Sys2Proof.Machine

/-- A picture of 16 rows of which nothing is decoded. -/
def freshPicture : DecPic :=
  { buf := 0, width := 1, height := 16, sps := foreignSps, lastAddr := none, inOrder := true, output := true, poc := 0, irap := true, recovery := false,
    recovStart := false, sei := none, epoch := 0, arrival := true, remote := false, startAt := 0, deadline := 0, published := 0, done := 0, nextRow := 0,
    slices := [], bands := [], aborted := false, subst := false, noted := false, rowNs := 0 }

/-- A pool without planes. -/
def flatPool : SurfRec :=
  { format := 0x30, buffers := 2, reduce := 0, width := 0, height := 0, pitch := 0, base := 0, stride := 0, rpitch := 0, roff := 0, block := 0 }

/-- A device with PD5 on, its MPU open and its memory in self-refresh, whose engine 0 decodes that picture for context 0. -/
def busyDevice : State :=
  { State.reset with
    sys := { State.reset.sys with
      power := { State.reset.sys.power with on := 0x225 }
      mpu := [(0, { en := true, lock := false, base := 0, lim := 0xFEFFFFF, mask := BitVec.ofNat 64 (2 ^ 64 - 1) })] }
    dram := { State.reset.dram with selfRefresh := true }
    surf := { State.reset.surf with surfs := [(0, flatPool)] }
    dec := { ctxs := [(0, { CtxRec.init with state := 2, cur := some freshPicture })], engs := [(0, { busy := some 0, waiting := false })], rasters := [] } }

/-- A slice of the picture's first row that is decoded well, with that row among those that its neighbours left out. -/
def lossySlice : SliceInfo :=
  { bytes := 0, addr := 0, firstRow := 0, rows := 1, rowsDone := 0, fail := 0, ns := 0, luma := 0, missingRef := false, intra := true, sei := none, px := [],
    refs := [], rowNs := 0, lost := [(0, 1)], last := false, release := [] }

/-- The lost row is concealed, which marks the picture as aborted (R169). -/
theorem busyDevice_aborts : ((doSlice busyDevice 0 lossySlice).ctx 0).cur.map (·.aborted) = some true := by
  decide +kernel

/-- Refutes O23: a slice that passes its checks does not always leave its picture as unharmed as it was: rows that it reports as lost are
concealed (R160, R170), and that of lossySlice marks the picture of busyDevice as aborted. -/
theorem not_slicesAreDecoded : ¬ Obligations.SlicesAreDecoded := by
  intro h
  obtain ⟨-, -, hgood, -⟩ := h busyDevice 0 false lossySlice 0 freshPicture flatPool (by decide)
  obtain ⟨t, ht, -, -, ⟨p, hcur, -, -, haborted, -⟩, -⟩ := hgood ⟨rfl, rfl, rfl, rfl, rfl⟩ (by decide) (by decide +kernel) rfl
  have he : doSlice busyDevice 0 lossySlice = t := Host.Outcome.next.inj ht
  have hmarked : ((doSlice busyDevice 0 lossySlice).ctx 0).cur.map (·.aborted) = some false := by
    rw [he, show (t.ctx 0).cur = some p from hcur, Option.map_some, haborted]
    rfl
  exact absurd (busyDevice_aborts.symm.trans hmarked) (by decide)

end Sys2Proof.Machine

/-! SUPPORT. STREAM_DEMUX for a context numbered so high that its gap counter is the count of a link's Tephra block. -/

namespace Sys2Proof.Machine

/-- The number whose counter of SEQ gaps has the address of the Tephra count of link 6. -/
def highContext : Nat := 0x19001

theorem seqGap_highContext : ctxReg Reg.STR_DEC_CTX_SEQGAP highContext = Reg.FAB_TEPHRA_COUNT + 4 * 6 := rfl

/-- An open fabric context with a ring of 64 bytes. -/
def fedContext : CtxRec := { CtxRec.init with state := 1, fabric := true, src := 7, flow := 1, esSize := 64 }

/-- A link in UP whose Tephra block drops every EVENT packet (R133). -/
def droppingLink : LinkRec := { LinkRec.init with st := .up, tephra := { LinkRec.init.tephra with action := 1, mask := 0x20, n := 1 } }

/-- A claimed device with PD9 on and no enabled MPU region, whose packets for its gateway go out on that link. -/
def leakyDevice : State :=
  { State.reset with
    regs := [(Reg.FAB_NODE_ADDR, 5), (Reg.FAB_ROUTE_TBL, 0x600)]
    sys := { State.reset.sys with power := { State.reset.sys.power with on := 0x205 } }
    fab := { State.reset.fab with links := [(6, droppingLink)], domain := 2, claimed := true }
    dec := { ctxs := [(highContext, fedContext)], engs := [], rasters := [] } }

/-- A STREAM packet of that context with one byte. -/
def oneBytePacket : Packet := mkPacket 5 7 clsSTREAM 1 0 0 2 (leBytes 2 1 ++ leBytes 2 1 ++ [1])

/-- The packet that reports the denied store into the ring is dropped by Tephra and counted there. -/
theorem leakyDevice_counts : (doDemux leakyDevice oneBytePacket).cnt (ctxReg Reg.STR_DEC_CTX_SEQGAP highContext) = 1 := by
  decide +kernel

/-- Refutes O24: the statement speaks of contexts of any number. The gap counter of one beyond 255 can be another counter's register: on leakyDevice the
event of the denied store (R338) goes out on link 6, whose Tephra count is that register, and a packet behind no gap changes it. -/
theorem not_streamPacketsAreDemultiplexed : ¬ Obligations.StreamPacketsAreDemultiplexed := by
  intro h
  obtain ⟨-, -, haccepted, -⟩ := h leakyDevice oneBytePacket highContext fedContext (by decide)
  obtain ⟨t, ht, -, -, -, -, -, hgaps, -⟩ := haccepted (by decide +kernel) (.inr (by decide +kernel)) (.inl rfl) (by decide +kernel)
  have he : doDemux leakyDevice oneBytePacket = t := Host.Outcome.next.inj ht
  have hnone : t.cnt (ctxReg Reg.STR_DEC_CTX_SEQGAP highContext) = 0 := (hgaps (by decide +kernel)).trans (by decide +kernel)
  rw [← he, leakyDevice_counts] at hnone
  exact one_ne_zero hnone

end Sys2Proof.Machine

/-! SUPPORT. STREAM_FLUSH and STREAM_CLOSE: what emptying one context does to it, and that it leaves the others and the completions alone. -/

namespace Sys2Proof.Machine

/-! ## Changes of one context -/

/-- A change that is at most one of context c, and not of what f reads of it, and that takes no completion back. -/
structure CtxKept {α : Type} (f : CtxRec → α) (c : Nat) (s t : State) : Prop where
  others : ∀ k, k ≠ c → t.ctx k = s.ctx k
  same : f (t.ctx c) = f (s.ctx c)
  done : s.host.done <+: t.host.done

/-- What waits in a context, the picture in progress left out. -/
def CtxRec.input (r : CtxRec) : List ChunkRec × List FeedRec × Option Nat := (r.ring, r.feeds, r.expect)

/-- What a context holds. -/
def CtxRec.contents (r : CtxRec) : Option DecPic × List ChunkRec × List FeedRec × Option Nat := (r.cur, r.input)

/-- What a decoder or its output process may change beside its context. -/
abbrev decoderParts : List Part := [.regs, .rate, .evSeq, .out, .dorm, .rings, .irq, .localQ, .links, .exch, .dram, .mem, .surf, .fum]

section
variable {α : Type} {f : CtxRec → α} {c : Nat} {s t u : State}

theorem CtxKept.refl (s : State) : CtxKept f c s s := ⟨fun _ _ => rfl, rfl, List.prefix_refl _⟩

theorem CtxKept.trans (h : CtxKept f c s t) (k : CtxKept f c t u) : CtxKept f c s u :=
  ⟨fun i hi => (k.others i hi).trans (h.others i hi), k.same.trans h.same, h.done.trans k.done⟩

theorem CtxKept.setCtx {r : CtxRec} (h : CtxKept f c s t) (e : f r = f (t.ctx c)) : CtxKept f c s (t.setCtx c r) :=
  h.trans ⟨fun i hi => State.ctx_setCtx_ne _ _ _ _ hi, by rw [State.ctx_setCtx, e], List.prefix_refl _⟩

theorem ctx_of_dec (h : t.dec = s.dec) (k : Nat) : t.ctx k = s.ctx k := by simp only [State.ctx, h]

theorem CtxKept.of_dec (h : t.dec = s.dec) (hd : s.host.done <+: t.host.done) : CtxKept f c s t :=
  ⟨fun k _ => ctx_of_dec h k, by rw [ctx_of_dec h], hd⟩

theorem CtxKept.frame (h : CtxKept f c s t) (hf : Frame decoderParts t u) : CtxKept f c s u :=
  h.trans (.of_dec (hf.keep .dec (by decide)) (by rw [show u.host.done = t.host.done from hf.keep .done (by decide)]))

theorem CtxKept.foldl {β : Type} {g : State → β → State} (hg : ∀ v b, CtxKept f c v (g v b)) (bs : List β) (s : State) :
    CtxKept f c s (bs.foldl g s) := by
  induction bs generalizing s with
  | nil => exact .refl s
  | cons b bs ih => exact (hg s b).trans (ih _)

theorem CtxKept.ite {p : Prop} [Decidable p] (ht : CtxKept f c s t) (hu : CtxKept f c s u) : CtxKept f c s (if p then t else u) := by
  split <;> assumption

theorem CtxKept.weaken (h : CtxKept CtxRec.contents c s t) : CtxKept CtxRec.input c s t :=
  ⟨h.others, congrArg Prod.snd h.same, h.done⟩

theorem finish_dec (s : State) (j : Job) (st : Status) (fl r : Nat) : (s.finish j st fl r).dec = s.dec :=
  (frame_finish s j st fl r).keep .dec (by decide)

theorem CtxKept.finish (h : CtxKept f c s t) (j : Job) (st : Status) (fl r : Nat) : CtxKept f c s (t.finish j st fl r) :=
  h.trans (.of_dec (finish_dec t j st fl r) (finish_done_grows t j st fl r))

end

/-! ## The operations of a context (R162, R172, R173, R177) -/

/-- A context that changes its state keeps everything else. -/
theorem setCtxState_ctx (s : State) (c new : Nat) : (setCtxState s c new).ctx c = { s.ctx c with state := new } := by
  unfold setCtxState
  extract_lets r
  split
  · next h => rw [← h]
  · rw [ctx_of_dec ((frame_State_raise (List.Subset.refl _) (Frame.refl _ _)).keep .dec (by decide)), State.ctx_setCtx]

theorem setCtxState_kept (s : State) (c new : Nat) : CtxKept CtxRec.contents c s (setCtxState s c new) := by
  unfold setCtxState
  extract_lets r
  exact .ite (.refl s) (((CtxKept.refl s).setCtx (by rfl)).frame (frame_State_raise (by decide) (.refl _ _)))

theorem judgeClean_kept (s : State) (c : Nat) (p : DecPic) (kind : Option Nat) : CtxKept CtxRec.contents c s (judgeClean s c p kind).2 := by
  unfold judgeClean
  extract_lets -merge -underBinder +onlyGivenNames r bad clean t
  have ht : CtxKept CtxRec.contents c s t :=
    .ite ((CtxKept.refl s).frame (frame_State_raise (by decide) (frame_State_bump (by decide) (.refl _ s)))) (.refl s)
  exact ht.setCtx rfl

theorem pubDone_kept (s : State) (c : Nat) (p : DecPic) : CtxKept CtxRec.contents c s (pubDone s c p) := by
  unfold pubDone
  extract_lets -merge -underBinder +onlyGivenNames t late u v
  have hv : CtxKept CtxRec.contents c s v := ((CtxKept.refl s).frame (frame_State_bump (by decide) (.refl _ s))).setCtx rfl
  exact .ite (hv.frame (frame_State_raiseLimited (by decide) (frame_State_bump (by decide) (.refl _ v)))) hv

theorem releaseHeld_kept (s : State) (c : Nat) (h : HeldPic) : CtxKept CtxRec.contents c s (releaseHeld s c h) := by
  unfold releaseHeld
  split
  · exact .refl s
  · extract_lets -merge -underBinder +onlyGivenNames mid x t u
    have ht : CtxKept CtxRec.contents c s t := (CtxKept.refl s).setCtx rfl
    have hu : CtxKept CtxRec.contents c s u := ht.frame (frame_pubStart (by decide) (.refl _ t))
    split
    next clean v hv =>
    have hv : CtxKept CtxRec.contents c s v := by
      have hj := judgeClean_kept u c h.pic h.kind
      rw [hv] at hj
      exact hu.trans hj
    refine CtxKept.trans (hv.frame ?_) (pubDone_kept _ _ _)
    refine Frame.foldl ?_ (fun _ _ hx => frame_tableBand (by decide) hx)
    refine frame_unlessAllowed (by decide) (frame_State_wr (by decide) (frame_State_wr (by decide) (frame_State_wr (by decide) ?_)))
    exact Frame.foldl (.refl _ v) (fun _ _ hx => frame_State_wr (by decide) hx)

theorem releaseAll_kept (s : State) (c : Nat) : CtxKept CtxRec.contents c s (releaseAll s c) :=
  CtxKept.foldl (fun v h => releaseHeld_kept v c h) _ s

theorem settleClose_kept (s : State) (c : Nat) : CtxKept CtxRec.contents c s (settleClose s c) := by
  unfold settleClose
  extract_lets -merge -underBinder +onlyGivenNames r
  split
  · refine .ite ?_ (.refl s)
    extract_lets -merge -underBinder +onlyGivenNames t u y
    have hu : CtxKept CtxRec.contents c s u := (releaseAll_kept s c).trans (setCtxState_kept t c 0)
    clear_value u
    have hc : CtxKept CtxRec.contents c s (u.setCtx c { y with closing := none }) := hu.setCtx rfl
    exact hc.finish _ _ _ _
  · exact .refl s

theorem decConceal_kept (s : State) (c reason first bands pic : Nat) : CtxKept CtxRec.contents c s (decConceal s c reason first bands pic) := by
  unfold decConceal
  extract_lets -merge -underBinder +onlyGivenNames r d
  exact .ite ((CtxKept.refl s).setCtx rfl) (((CtxKept.refl s).setCtx (by rfl)).frame (frame_State_raise (by decide) (.refl _ _)))

/-! ## The picture in progress (R154, R160, R170) -/

theorem concealRows_kept (s : State) (c first n reason : Nat) : CtxKept CtxRec.input c s (concealRows s c first n reason) := by
  unfold concealRows
  extract_lets -merge -underBinder +onlyGivenNames r
  split
  · refine .ite (.refl s) ?_
    extract_lets -merge -underBinder +onlyGivenNames mid
    split
    next t ok ht =>
    have hc : Frame decoderParts s t := Frame.of_1 ht (frame_copyRows (by decide) (.refl _ s))
    have hu : CtxKept CtxRec.input c s (unlessAllowed t ok c) := (CtxKept.refl s).frame (frame_unlessAllowed (by decide) hc)
    extract_lets -merge -underBinder +onlyGivenNames u fl b p' x v
    have hv : CtxKept CtxRec.input c s v := hu.setCtx rfl
    exact hv.trans (decConceal_kept _ _ _ _ _ _).weaken
  · exact .refl s

theorem publishRows_kept (s : State) (c done : Nat) : CtxKept CtxRec.input c s (publishRows s c done) := by
  unfold publishRows
  extract_lets -merge -underBinder +onlyGivenNames r
  split
  · refine .ite ((CtxKept.refl s).setCtx rfl) ?_
    extract_lets -merge -underBinder +onlyGivenNames mid n
    split
    next t ok ht =>
    have hr : Frame decoderParts s t := Frame.of_1 ht (frame_reduceRows (by decide) (.refl _ s))
    have hu : CtxKept CtxRec.input c s (unlessAllowed t ok c) := (CtxKept.refl s).frame (frame_unlessAllowed (by decide) hr)
    extract_lets -merge -underBinder +onlyGivenNames u b q y v
    have hv : CtxKept CtxRec.input c s v := hu.setCtx rfl
    refine .ite ?_ hv
    extract_lets -merge -underBinder +onlyGivenNames y w
    have hw : CtxKept CtxRec.input c s w := .ite (hv.setCtx rfl) hv
    split
    next clean x hx =>
    have hx : CtxKept CtxRec.input c s x := by
      split at hx
      · have hj := judgeClean_kept w c q (cleanKind (trackClean (w.ctx c) q) q)
        rw [hx] at hj
        exact hw.trans hj.weaken
      · cases hx
        exact hw
    exact hx.frame (frame_unlessAllowed (by decide) (frame_publishBand (by decide) (.refl _ x)))
  · exact .refl s

theorem pumpFeeds_empty (n : Nat) {s : State} {c : Nat} (h : (s.ctx c).feeds = []) : pumpFeeds n s c = s := by
  cases n <;> simp [pumpFeeds, h]

/-- The end of a picture behind which no feed waits leaves its context without a picture. -/
theorem finishPicture_kept {s : State} {c : Nat} (h : (s.ctx c).feeds = []) :
    CtxKept CtxRec.input c s (finishPicture s c []) ∧ ((finishPicture s c []).ctx c).cur = none := by
  unfold finishPicture
  split
  · next hn => exact ⟨.refl s, hn⟩
  extract_lets -merge -underBinder +onlyGivenNames t
  have ht : CtxKept CtxRec.input c s t := publishRows_kept s c _
  split
  · next hn => exact ⟨ht, hn⟩
  extract_lets -merge -underBinder +onlyGivenNames kind r rec_ u v w x y
  have hu : CtxKept CtxRec.input c s u := ht.setCtx rfl
  have hc : (u.ctx c).cur = none := by simp only [u, State.ctx_setCtx]
  have hv : CtxKept CtxRec.contents c u v := .ite ((CtxKept.refl u).frame (frame_State_bump (by decide) (.refl _ u))) (.refl u)
  have hw : CtxKept CtxRec.contents c u w := hv.trans ⟨fun _ _ => rfl, rfl, List.prefix_refl _⟩
  have hx : CtxKept CtxRec.contents c u x := .ite (hw.trans (pubDone_kept _ _ _)) hw
  have hy : CtxKept CtxRec.contents c u y := hx
  have hf : (y.ctx c).feeds = [] := (congrArg (·.2.1) (hu.trans hy.weaken).same).trans h
  rw [pumpFeeds_empty _ hf]
  have hz := hy.trans (settleClose_kept y c)
  exact ⟨hu.trans hz.weaken, (congrArg Prod.fst hz.same).trans hc⟩

theorem concealRest_kept {s : State} {c : Nat} (reason : Nat) (h : (s.ctx c).feeds = []) :
    CtxKept CtxRec.input c s (concealRest s c reason []) ∧ ((concealRest s c reason []).ctx c).cur = none := by
  unfold concealRest
  split
  · next hn => exact ⟨.refl s, hn⟩
  · next p _ =>
    have hr : CtxKept CtxRec.input c s (concealRows s c p.done (p.height - p.done) reason) := concealRows_kept s c _ _ _
    obtain ⟨hp, hn⟩ := finishPicture_kept ((congrArg (·.2.1) hr.same).trans h)
    exact ⟨hr.trans hp, hn⟩

/-! ## STREAM_FLUSH and STREAM_CLOSE (R176, R177) -/

/-- A context that holds nothing, the others as they were, and every completion still there. -/
structure Emptied (c : Nat) (s t : State) : Prop where
  others : ∀ k, k ≠ c → t.ctx k = s.ctx k
  ring : (t.ctx c).ring = []
  feeds : (t.ctx c).feeds = []
  cur : (t.ctx c).cur = none
  expect : (t.ctx c).expect = none
  done : s.host.done <+: t.host.done

/-- What keeps the contents of a context keeps it empty. -/
theorem Emptied.kept {c : Nat} {s t u : State} (h : Emptied c s t) (k : CtxKept CtxRec.contents c t u) : Emptied c s u where
  others i hi := (k.others i hi).trans (h.others i hi)
  ring := (congrArg (·.2.1) k.same).trans h.ring
  feeds := (congrArg (·.2.2.1) k.same).trans h.feeds
  cur := (congrArg (·.1) k.same).trans h.cur
  expect := (congrArg (·.2.2.2) k.same).trans h.expect
  done := h.done.trans k.done

theorem flushCtx_empties (s : State) (c : Nat) (keep : Bool) : Emptied c s (flushCtx s c keep) := by
  unfold flushCtx
  extract_lets -merge -underBinder +onlyGivenNames x t fs y u v w z r
  have ho : ∀ k, k ≠ c → u.ctx k = s.ctx k := fun k hk => (State.ctx_setCtx_ne _ _ _ _ hk).trans (State.ctx_setCtx_ne _ _ _ _ hk)
  have hu : (u.ctx c).ring = [] ∧ (u.ctx c).feeds = [] := by simp [u, y, t]
  have hd : u.host.done = s.host.done := rfl
  obtain ⟨hv, hc⟩ : CtxKept CtxRec.input c u v ∧ (v.ctx c).cur = none := concealRest_kept 10 hu.2
  have hz : CtxKept CtxRec.contents c v z := (releaseAll_kept v c).trans (CtxKept.foldl (fun q f => (CtxKept.refl q).finish f.job _ _ _) fs w)
  have hi : CtxKept CtxRec.input c u z := hv.trans hz.weaken
  refine ⟨fun k hk => ?_, ?_, ?_, ?_, ?_, hd ▸ hi.done⟩
  · rw [State.ctx_setCtx_ne _ _ _ _ hk, hi.others k hk, ho k hk]
  · rw [State.ctx_setCtx]
    exact (congrArg (·.1) hi.same).trans hu.1
  · rw [State.ctx_setCtx]
    exact (congrArg (·.2.1) hi.same).trans hu.2
  · rw [State.ctx_setCtx]
    exact (congrArg (·.1) hz.same).trans hc
  · rw [State.ctx_setCtx]

/-- What emptying a context may change. -/
abbrev flushParts : List Part :=
  [.dec, .regs, .evSeq, .out, .dorm, .rings, .irq, .rate, .localQ, .links, .exch, .dram, .mem, .surf, .fum, .inFlight, .dma, .done, .mir]

/-- A command that completes behind others whose completions it has written. -/
theorem finish_done_behind {m : List Part} {s t : State} {c : Cmd} (hd : s.host.done <+: t.host.done) (hf : Frame m (begun s c) t)
    (hm : Part.domain ∉ m) (st : Status) (fl r : Nat) :
    ∃ ds, (t.finish c.job st fl r).host.done = s.host.done ++ ds ++ entry s c st fl r := by
  obtain ⟨ds, hds⟩ := hd
  have hu : t.fab.tephraUsed = s.fab.tephraUsed := (hf.keep .domain hm).2.2
  exact ⟨ds, by rw [(finish_host t c st fl r).1, ← hds]; simp only [entry, hu]⟩

theorem Emptied.finish {c : Nat} {s t : State} (h : Emptied c s t) (j : Job) (st : Status) (fl r : Nat) : Emptied c s (t.finish j st fl r) :=
  h.kept ((CtxKept.refl t).finish j st fl r)

section
variable {s : State} {c : Cmd}

theorem exec_streamFlush (hs : Starts s (.streamFlush c) c) (ha : Admits s c flushSpec) :
    exec (.streamFlush c) s
      = .next ((settleClose (flushCtx (begun s c) (c.job.n 16 1) (bit (c.job.n 17 1) 0)) (c.job.n 16 1)).finish c.job .done 0 0) := by
  have e : exec (.streamFlush c) s = .next (gate s (.streamFlush c) c fun u j => doFlush u j) := rfl
  rw [e, gate_starts _ hs, doFlush, runJob_admits _ ha]

theorem exec_streamClose_now (hs : Starts s (.streamClose c) c) (ha : Admits s c closeSpec) (hb : bit (c.job.n 17 1) 0 = false) :
    exec (.streamClose c) s
      = .next ((setCtxState (flushCtx (begun s c) (c.job.n 16 1) false) (c.job.n 16 1) 0).finish c.job .done 0 0) := by
  have e : exec (.streamClose c) s = .next (gate s (.streamClose c) c fun u j => doClose u j) := rfl
  rw [e, gate_starts _ hs, doClose, runJob_admits _ ha, hb]
  rfl

/-- A context in state 4 whose close is to complete once it is drained. -/
def drains (s : State) (i : Nat) (j : Job) : State :=
  (setCtxState s i 4).setCtx i { (setCtxState s i 4).ctx i with closing := some j }

theorem exec_streamClose_drains (hs : Starts s (.streamClose c) c) (ha : Admits s c closeSpec) (hb : bit (c.job.n 17 1) 0 = true) :
    exec (.streamClose c) s = .next (settleClose (drains (begun s c) (c.job.n 16 1) c.job) (c.job.n 16 1)) := by
  have e : exec (.streamClose c) s = .next (gate s (.streamClose c) c fun u j => doClose u j) := rfl
  rw [e, gate_starts _ hs, doClose, runJob_admits _ ha, hb]
  rfl

theorem drains_ctx (s : State) (i : Nat) (j : Job) : (drains s i j).ctx i = { s.ctx i with state := 4, closing := some j } := by
  rw [drains, State.ctx_setCtx, setCtxState_ctx]

theorem frame_drains (s : State) (i : Nat) (j : Job) :
    Frame [.dec, .evSeq, .out, .dorm, .rings, .regs, .irq, .rate, .localQ, .links, .exch] s (drains s i j) :=
  frame_State_setCtx (by decide) (frame_setCtxState (by decide) (.refl _ s))

/-- A close that waits for what its context still holds. -/
theorem settleClose_waits {i : Nat} {j : Job} (hc : (s.ctx i).closing = some j)
    (h : (s.ctx i).cur ≠ none ∨ (s.ctx i).ring ≠ [] ∨ (s.ctx i).feeds ≠ []) : settleClose s i = s := by
  simp only [settleClose, hc, Option.isNone_iff_eq_none, List.isEmpty_iff]
  rw [if_neg]
  tauto

/-- A closed context, whose drained close is over. -/
def closed (s : State) (i : Nat) : State := (setCtxState s i 0).setCtx i { (setCtxState s i 0).ctx i with closing := none }

theorem closed_state (s : State) (i : Nat) : ((closed s i).ctx i).state = 0 := by
  rw [closed, State.ctx_setCtx, setCtxState_ctx]

theorem closed_kept (s : State) (i : Nat) : CtxKept CtxRec.contents i s (closed s i) := by
  have h := setCtxState_kept s i 0
  unfold closed
  exact h.setCtx (by rfl)

theorem frame_closed (s : State) (i : Nat) :
    Frame [.dec, .evSeq, .out, .dorm, .rings, .regs, .irq, .rate, .localQ, .links, .exch] s (closed s i) :=
  frame_State_setCtx (by decide) (frame_setCtxState (by decide) (.refl _ s))

/-- A close of a context that holds nothing completes. -/
theorem settleClose_closes {i : Nat} {j : Job} (hc : (s.ctx i).closing = some j) (h : (s.ctx i).cur = none) (hr : (s.ctx i).ring = [])
    (hf : (s.ctx i).feeds = []) : settleClose s i = (closed (releaseAll s i) i).finish j .done 0 0 := by
  simp only [settleClose, hc, h, hr, hf, Option.isNone_none, List.isEmpty_nil, and_self, if_true, closed]

/-- The close of a context that holds nothing closes it, behind the pictures it releases. -/
theorem settleClose_ends {u : State} {i : Nat} (hc : (u.ctx i).closing = some c.job) (h : (u.ctx i).cur = none) (hr : (u.ctx i).ring = [])
    (he : (u.ctx i).feeds = []) (hd : s.host.done <+: u.host.done) (hf : Frame flushParts (begun s c) u) :
    ((settleClose u i).ctx i).state = 0 ∧ ∃ ds, (settleClose u i).host.done = s.host.done ++ ds ++ entry s c .done 0 0 := by
  have hk := (releaseAll_kept u i).trans (closed_kept _ i)
  have hfr : Frame flushParts (begun s c) (closed (releaseAll u i) i) :=
    (frame_releaseAll (by decide) hf).trans ((frame_closed _ i).mono (by decide))
  rw [settleClose_closes hc h hr he]
  refine ⟨?_, finish_done_behind (hd.trans hk.done) hfr (by decide) _ _ _⟩
  rw [ctx_of_dec (finish_dec _ _ _ _ _), closed_state]

/-- What is empty behind the start of a command is so behind the state before it. -/
theorem Emptied.of_begun {i : Nat} {t : State} (h : Emptied i (begun s c) t) : Emptied i s t :=
  ⟨h.others, h.ring, h.feeds, h.cur, h.expect, h.done⟩

/-- R176. -/
theorem streamFlush_empties (hs : Starts s (.streamFlush c) c) (ha : Admits s c flushSpec) : ∃ t, exec (.streamFlush c) s = .next t
    ∧ Emptied (c.job.n 16 1) s t ∧ ∃ ds, t.host.done = s.host.done ++ ds ++ entry s c .done 0 0 := by
  have h : Emptied (c.job.n 16 1) s _ := (flushCtx_empties (begun s c) (c.job.n 16 1) (bit (c.job.n 17 1) 0)).of_begun.kept (settleClose_kept _ _)
  have hf : Frame flushParts (begun s c) (settleClose (flushCtx (begun s c) (c.job.n 16 1) (bit (c.job.n 17 1) 0)) (c.job.n 16 1)) :=
    frame_settleClose (by decide) (frame_flushCtx (by decide) (.refl _ _))
  exact ⟨_, exec_streamFlush hs ha, h.finish _ _ _ _, finish_done_behind h.done hf (by decide) _ _ _⟩

/-- R177 without DRAIN. -/
theorem streamClose_empties (hs : Starts s (.streamClose c) c) (ha : Admits s c closeSpec) (hb : bit (c.job.n 17 1) 0 = false) :
    ∃ t, exec (.streamClose c) s = .next t ∧ (t.ctx (c.job.n 16 1)).state = 0 ∧ Emptied (c.job.n 16 1) s t
      ∧ ∃ ds, t.host.done = s.host.done ++ ds ++ entry s c .done 0 0 := by
  have h : Emptied (c.job.n 16 1) s _ := (flushCtx_empties (begun s c) (c.job.n 16 1) false).of_begun.kept (setCtxState_kept _ _ 0)
  have hf : Frame flushParts (begun s c) (setCtxState (flushCtx (begun s c) (c.job.n 16 1) false) (c.job.n 16 1) 0) :=
    frame_setCtxState (by decide) (frame_flushCtx (by decide) (.refl _ _))
  refine ⟨_, exec_streamClose_now hs ha hb, ?_, h.finish _ _ _ _, finish_done_behind h.done hf (by decide) _ _ _⟩
  rw [ctx_of_dec (finish_dec _ _ _ _ _), setCtxState_ctx]

/-- R177 with DRAIN, of a context that holds something. -/
theorem streamClose_waits (hs : Starts s (.streamClose c) c) (ha : Admits s c closeSpec) (hb : bit (c.job.n 17 1) 0 = true)
    (hh : (s.ctx (c.job.n 16 1)).cur ≠ none ∨ (s.ctx (c.job.n 16 1)).ring ≠ [] ∨ (s.ctx (c.job.n 16 1)).feeds ≠ []) :
    ∃ t, exec (.streamClose c) s = .next t ∧ t.ctx (c.job.n 16 1) = { s.ctx (c.job.n 16 1) with state := 4, closing := some c.job }
      ∧ t.host.done = s.host.done := by
  have hx := drains_ctx (begun s c) (c.job.n 16 1) c.job
  refine ⟨_, exec_streamClose_drains hs ha hb, ?_⟩
  rw [settleClose_waits (by rw [hx]) (by rw [hx]; exact hh)]
  exact ⟨hx, (frame_drains (begun s c) _ _).keep .done (by decide)⟩

/-- R177 with DRAIN, of a context that holds nothing. -/
theorem streamClose_drained (hs : Starts s (.streamClose c) c) (ha : Admits s c closeSpec) (hb : bit (c.job.n 17 1) 0 = true)
    (hc : (s.ctx (c.job.n 16 1)).cur = none) (hr : (s.ctx (c.job.n 16 1)).ring = []) (hf : (s.ctx (c.job.n 16 1)).feeds = []) :
    ∃ t, exec (.streamClose c) s = .next t ∧ (t.ctx (c.job.n 16 1)).state = 0
      ∧ ∃ ds, t.host.done = s.host.done ++ ds ++ entry s c .done 0 0 := by
  have hx := drains_ctx (begun s c) (c.job.n 16 1) c.job
  have hd : (drains (begun s c) (c.job.n 16 1) c.job).host.done = s.host.done := (frame_drains (begun s c) _ _).keep .done (by decide)
  exact ⟨_, exec_streamClose_drains hs ha hb, settleClose_ends (by rw [hx]) (by rw [hx]; exact hc) (by rw [hx]; exact hr)
    (by rw [hx]; exact hf) (hd ▸ List.prefix_refl _) ((frame_drains (begun s c) _ _).mono (by decide))⟩

end

end Sys2Proof.Machine

/-! SUPPORT. STREAM_OPEN: the registers of the stream contexts, the bytes at CTX_BASE, the engine that is picked, and the context that is opened. -/

namespace Sys2Proof.Machine

/-! ## The registers of the stream contexts (R180) -/

/-- An offset outside the registers of the stream contexts. -/
abbrev OffCtxRegs (o : Nat) : Prop := o < 0x640000 ∨ 0x644000 ≤ o

/-- The registers of the stream contexts are as they were. -/
def CtxRegsKept (s t : State) : Prop := ∀ o, ¬ OffCtxRegs o → t.regs.get? o = s.regs.get? o

theorem CtxRegsKept.refl (s : State) : CtxRegsKept s s := fun _ _ => rfl

theorem CtxRegsKept.trans {s t u : State} (h : CtxRegsKept s t) (k : CtxRegsKept t u) : CtxRegsKept s u :=
  fun o ho => (k o ho).trans (h o ho)

/-- An update of other parts of the state. -/
theorem CtxRegsKept.upd {s t u : State} (h : CtxRegsKept s t) (e : u.regs = t.regs := by rfl) : CtxRegsKept s u :=
  fun o ho => (congrArg (Tab.get? · o) e).trans (h o ho)

theorem CtxRegsKept.of_regs {s t : State} (e : t.regs = s.regs) : CtxRegsKept s t := (CtxRegsKept.refl s).upd e

theorem CtxRegsKept.of_frame {m : List Part} {s t : State} (h : Frame m s t) (hm : Part.regs ∉ m) : CtxRegsKept s t :=
  .of_regs (h.keep .regs hm)

theorem CtxRegsKept.ite {s a b : State} {c : Prop} [Decidable c] (ha : CtxRegsKept s a) (hb : CtxRegsKept s b) :
    CtxRegsKept s (if c then a else b) := by
  split <;> assumption

theorem CtxRegsKept.foldl {α : Type} {f : State → α → State} (h : ∀ u a, CtxRegsKept u (f u a)) (xs : List α) (s : State) :
    CtxRegsKept s (xs.foldl f s) := by
  induction xs generalizing s with
  | nil => exact .refl s
  | cons x xs ih => exact (h s x).trans (ih _)

theorem ctxRegsKept_set {s : State} {o : Nat} (v : U32) (ho : OffCtxRegs o) : CtxRegsKept s { s with regs := s.regs.set o v } :=
  fun p hp => by
    have hne : p ≠ o := by rintro rfl; exact hp ho
    simp only [Tab.get?_set, if_neg hne]

theorem ctxRegsKept_setReg (s : State) {o : Nat} (v : Nat) (ho : OffCtxRegs o) : CtxRegsKept s (s.setReg o v) := ctxRegsKept_set _ ho

theorem ctxRegsKept_bump (s : State) {o : Nat} (ho : OffCtxRegs o) : CtxRegsKept s (s.bump o) := ctxRegsKept_set _ ho

/-- Counters of a link stand behind those of the stream contexts. -/
theorem offCtxRegs_link {base : Nat} (h : 0x644000 ≤ base) (n : Nat) : OffCtxRegs (base + n) := .inr (Nat.le_add_right_of_le h)

/-! ## Events of this device's rings (R286) -/

theorem ctxRegsKept_evqWrite (s : State) (pf : Nat) (hpf : pf ≤ 1) (evr : List Byte) : CtxRegsKept s (evqWrite s 0 pf evr) := by
  have hw : OffCtxRegs (evqOff 0 pf Reg.HST_EVQ_LOST) := .inl (by
    show 0 * 0x1000000 + 0x211014 + 0x10000 * pf < 0x640000
    omega)
  unfold evqWrite
  extract_lets -merge -underBinder +onlyGivenNames ctrl key r n
  refine .ite (.refl s) (.ite ?_ ?_)
  · exact (CtxRegsKept.refl s).upd.trans (ctxRegsKept_bump _ hw)
  · extract_lets -merge -underBinder +onlyGivenNames base t
    split
    next r' u hu =>
    have h : Frame [.out, .irq] s u := Frame.of_2 hu
      (frame_ringIrq (by decide) (fun _ _ _ hx => frame_msixSignal (by decide) hx) (frame_State_emit (by decide) (.refl _ s)))
    exact (CtxRegsKept.of_frame h (by decide)).upd

theorem ctxRegsKept_evqDeliver (s : State) (evr : List Byte) : CtxRegsKept s (evqDeliver s 0 evr) := by
  unfold evqDeliver
  simp only [List.foldl_cons, List.foldl_nil]
  exact (CtxRegsKept.ite (ctxRegsKept_evqWrite s 0 (by decide) evr) (.refl s)).trans (.ite (ctxRegsKept_evqWrite _ 1 (by decide) evr) (.refl _))

/-! ## Packets (R114 to R123, R133) -/

theorem ctxRegsKept_departs (s : State) (l : Nat) (p : Packet) : CtxRegsKept s (departs s l p) :=
  .of_frame (m := [.out, .exch]) (frame_departs (List.Subset.refl _) (Frame.refl _ s)) (by decide)

section
/- The packet operations are given how they raise events: a way of raising that keeps the registers makes them keep the registers too. -/
variable {rz : State → Nat → List Byte → State} (hr : ∀ u code data, CtxRegsKept u (rz u code data))
include hr

theorem ctxRegsKept_tephraCount (s : State) (l : Nat) : CtxRegsKept s (tephraCount rz s l) := by
  unfold tephraCount
  extract_lets -merge -underBinder +onlyGivenNames r x t v
  have hv : CtxRegsKept s v := (CtxRegsKept.refl s).upd.trans (ctxRegsKept_bump _ (offCtxRegs_link (by decide) _))
  refine .ite ?_ hv
  extract_lets -merge -underBinder +onlyGivenNames act x w
  have hw : CtxRegsKept s w := hv.upd
  exact hw.trans (hr w _ _)

theorem ctxRegsKept_startNext (n : Nat) (s : State) (l : Nat) : CtxRegsKept s (startNext rz n s l) := by
  induction n generalizing s with
  | zero => exact .refl s
  | succ n ih =>
    have sends : ∀ (u : State) (p q : Packet) (crc : U32), CtxRegsKept s u → CtxRegsKept s (sendOn (departs u l p) l q crc) :=
      fun u p _ _ h => (h.trans (ctxRegsKept_departs u l p)).upd
    have faults : ∀ (u : State) (p q : Packet) (crc : U32), CtxRegsKept s u → CtxRegsKept s (tephraCount rz (sendOn (departs u l p) l q crc) l) :=
      fun u p q crc h => (sends u p q crc h).trans (ctxRegsKept_tephraCount hr _ _)
    have again : ∀ u : State, CtxRegsKept s u → CtxRegsKept s (startNext rz n (tephraCount rz u l) l) :=
      fun u h => h.trans ((ctxRegsKept_tephraCount hr u l).trans (ih _))
    rw [startNext]
    refine .ite (.refl s) ?_
    split
    · exact sends _ _ _ _ (.of_regs rfl)
    split
    · exact .refl s
    extract_lets -merge -underBinder +onlyGivenNames r
    split
    refine .ite ?_ (sends _ _ _ _ (.of_regs rfl))
    split
    · exact again _ (.of_regs rfl)
    · exact .ite (faults _ _ _ _ (.of_regs rfl)) (faults _ _ _ _ (.of_regs rfl))
    · exact again _ (.of_regs rfl)
    · exact .of_regs rfl

theorem ctxRegsKept_fabDrop (s : State) (reason cls count : Nat) : CtxRegsKept s (fabDrop rz s reason cls count) := by
  unfold fabDrop
  exact .ite ((CtxRegsKept.of_regs (t := s.rateMark _) rfl).trans (hr _ _ _)) (.refl s)

/-- A drop, counted and told. -/
theorem ctxRegsKept_drop (s : State) {o : Nat} (ho : OffCtxRegs o) (reason cls count : Nat) :
    CtxRegsKept s (fabDrop rz (s.bump o) reason cls count) :=
  (ctxRegsKept_bump s ho).trans (ctxRegsKept_fabDrop hr _ _ _ _)

theorem ctxRegsKept_noRoute (s : State) (p : Packet) : CtxRegsKept s (noRoute rz s p) := ctxRegsKept_drop hr s (by decide) _ _ _

theorem ctxRegsKept_enqueue (s : State) (l : Nat) (p : Packet) : CtxRegsKept s (enqueue rz s l p) := by
  unfold enqueue
  exact .ite ((CtxRegsKept.of_regs rfl).trans (ctxRegsKept_startNext hr _ _ l)) (ctxRegsKept_drop hr s (offCtxRegs_link (by decide) _) _ _ _)

theorem ctxRegsKept_deliverAlias (s : State) (p : Packet) : CtxRegsKept s (deliverAlias rz s p) := by
  unfold deliverAlias
  exact .ite (.ite (.of_regs rfl) (ctxRegsKept_bump s (by decide))) (ctxRegsKept_noRoute hr s p)

theorem ctxRegsKept_passOn (s : State) (src : Option Nat) (l : Nat) (p : Packet) : CtxRegsKept s (passOn rz s src l p) := by
  unfold passOn
  extract_lets -merge -underBinder +onlyGivenNames idle u
  have h : CtxRegsKept s u := ctxRegsKept_enqueue hr s l p
  exact .ite h.upd h

theorem ctxRegsKept_routeDirected (s : State) (src : Option Nat) (p : Packet) : CtxRegsKept s (routeDirected rz s src p) := by
  unfold routeDirected
  exact .ite (.ite (ctxRegsKept_passOn hr _ _ _ _) (ctxRegsKept_noRoute hr s p)) (.of_regs rfl)

theorem ctxRegsKept_forward (s : State) (src : Option Nat) (l : Nat) (p : Packet) : CtxRegsKept s (forward rz s src l p) := by
  unfold forward
  exact .ite (ctxRegsKept_passOn hr _ _ _ _) (ctxRegsKept_drop hr s (offCtxRegs_link (by decide) _) _ _ _)

theorem ctxRegsKept_routeWith (s : State) (src : Option Nat) (p : Packet) : CtxRegsKept s (routeWith rz s src p) := by
  unfold routeWith
  refine .ite (ctxRegsKept_drop hr s (by decide) _ _ _) ?_
  extract_lets -merge -underBinder +onlyGivenNames q
  refine .ite (ctxRegsKept_noRoute hr s q) (.ite (ctxRegsKept_bump s (by decide)) (.ite (.ite (ctxRegsKept_routeDirected hr s src q) ?_) (.ite ?_ ?_)))
  · split
    · exact ctxRegsKept_bump s (offCtxRegs_link (by decide) _)
    · exact .refl s
  · extract_lets -merge -underBinder +onlyGivenNames g u
    have h : CtxRegsKept s u := CtxRegsKept.foldl (fun v l => .ite (ctxRegsKept_forward hr v src l q) (.refl v)) _ s
    exact .ite h.upd h
  · refine .ite (ctxRegsKept_deliverAlias hr s q) (.ite (.of_regs rfl) (.ite (ctxRegsKept_noRoute hr s q) ?_))
    exact .ite (.of_regs rfl) (.ite (ctxRegsKept_forward hr s src _ q) (ctxRegsKept_noRoute hr s q))

theorem ctxRegsKept_sendRecord (s : State) (seq : Nat) (evr : List Byte) : CtxRegsKept s (sendRecord rz s seq evr) := by
  unfold sendRecord
  exact .ite (ctxRegsKept_evqDeliver s evr) (.ite (ctxRegsKept_routeWith hr _ _ _) (.refl s))

end

/-! ## Events, denials and completions (R271, R284, R338) -/

theorem ctxRegsKept_raiseN (n : Nat) (s : State) (code : Nat) (data : List Byte) : CtxRegsKept s (raiseN n s code data) := by
  induction n generalizing s code data with
  | zero => exact .of_regs rfl
  | succ n ih =>
    have h : CtxRegsKept s (noted s code data) := .of_regs rfl
    obtain ⟨d, e⟩ | ⟨seq, evr, e⟩ := raiseN_cases n s code data <;> rw [e]
    · exact h.upd
    · exact h.trans (ctxRegsKept_sendRecord ih _ _ _)

theorem ctxRegsKept_raise (s : State) (code : Nat) (data : List Byte) : CtxRegsKept s (s.raise code data) := ctxRegsKept_raiseN 12 s code data

theorem ctxRegsKept_raiseLimited (s : State) (key period code : Nat) (data : List Byte) : CtxRegsKept s (s.raiseLimited key period code data) := by
  unfold State.raiseLimited
  exact .ite ((CtxRegsKept.of_regs (t := s.rateMark key) rfl).trans (ctxRegsKept_raise _ _ _)) (.refl s)

theorem ctxRegsKept_mpuDeny (s : State) (mid addr len : Nat) (write : Bool) : CtxRegsKept s (s.mpuDeny mid addr len write) := by
  unfold State.mpuDeny
  extract_lets -merge -underBinder +onlyGivenNames t u v
  have ht : CtxRegsKept s t := ctxRegsKept_bump s (by decide)
  have hu : CtxRegsKept t u := ctxRegsKept_setReg t _ (by decide)
  have hv : CtxRegsKept u v := ctxRegsKept_setReg u _ (by decide)
  exact .ite ht (((ht.trans hu).trans hv).trans (ctxRegsKept_raise v _ _))

theorem ctxRegsKept_addrFault (s : State) (mid addr : Nat) : CtxRegsKept s (s.addrFault mid addr) :=
  (ctxRegsKept_bump s (by decide)).trans (ctxRegsKept_raiseLimited _ _ _ _ _)

theorem ctxRegsKept_mirrorPump (n : Nat) (s : State) : CtxRegsKept s (mirrorPump n s) := by
  induction n generalizing s with
  | zero => exact .refl s
  | succ n ih =>
    rw [mirrorPump]
    split
    · exact .refl s
    · refine .ite ?_ (.refl s)
      extract_lets -merge -underBinder +onlyGivenNames x t
      have ht : CtxRegsKept s t := .of_regs rfl
      exact ht.trans ((ctxRegsKept_enqueue ctxRegsKept_raise _ _ _).trans (ih _))

theorem ctxRegsKept_mirrorOut (s : State) (cls : Nat) (data : List Byte) : CtxRegsKept s (mirrorOut s cls data) := by
  unfold mirrorOut
  refine .ite ?_ (.refl s)
  unfold mirrorRecord
  extract_lets -merge -underBinder +onlyGivenNames rid k u x v
  have hu : CtxRegsKept s u := CtxRegsKept.foldl (fun v _ => (CtxRegsKept.refl v).upd) _ s
  have hv : CtxRegsKept u v := (CtxRegsKept.refl u).upd.trans (ctxRegsKept_bump _ (by decide))
  exact (hu.trans hv).trans (ctxRegsKept_mirrorPump _ _)

theorem ctxRegsKept_mirrorOfDone (s : State) (j : Job) : CtxRegsKept s (mirrorOfDone s j) := by
  have out := ctxRegsKept_mirrorOut s
  unfold mirrorOfDone
  split
  case h_2 => exact .ite (.refl s) (out _ _)
  case h_8 => exact .refl s
  all_goals exact out _ _

/-- A ring command that completes. -/
theorem ctxRegsKept_finish (s : State) (c : Cmd) (st : Status) (fl r : Nat) : CtxRegsKept s (s.finish c.job st fl r) := by
  unfold State.finish
  simp only [Cmd.job]
  refine .ite (.trans (.of_regs ?_) (ctxRegsKept_mirrorOfDone _ _)) (.ite (.of_regs rfl) (.of_regs rfl))
  exact (apply_ite State.regs _ _ _).trans (ite_self _)


/-! ## The bytes at CTX_BASE (R143) -/

theorem memGet_filter {m : List Host.Cell} {p : Host.Cell → Bool} {x : Nat} (h : ∀ b, p (x, b) = true) : memGet (m.filter p) x = memGet m x := by
  induction m with
  | nil => rfl
  | cons e m ih =>
    obtain ⟨k, b⟩ := e
    by_cases hk : x = k
    · subst hk
      rw [List.filter_cons_of_pos (h b)]
      simp [memGet]
    · by_cases hp : p (k, b) = true
      · rw [List.filter_cons_of_pos hp]
        simp [memGet, hk, ih]
      · rw [List.filter_cons_of_neg hp]
        simp [memGet, hk, ih]

theorem memGet_append_absent {m n : List Host.Cell} {x : Nat} (h : ∀ e ∈ m, e.1 ≠ x) : memGet (m ++ n) x = memGet n x := by
  induction m with
  | nil => rfl
  | cons e m ih =>
    have he : x ≠ e.1 := (h e List.mem_cons_self).symm
    rw [List.cons_append, memGet, if_neg he]
    exact ih fun e he => h e (List.mem_cons_of_mem _ he)

theorem memGet_absent {m : List Host.Cell} {x : Nat} (h : ∀ e ∈ m, e.1 ≠ x) : memGet m x = memDefault := by
  simpa [memGet] using memGet_append_absent (n := []) h

theorem memGet_absent_append {m n : List Host.Cell} {x : Nat} (h : ∀ e ∈ n, e.1 ≠ x) : memGet (m ++ n) x = memGet m x := by
  induction m with
  | nil => exact memGet_absent h
  | cons e m ih => simp only [List.cons_append, memGet, ih]

/-- Outside the range that is filled a byte is as it was. -/
theorem memGet_memFill_outside (m : List Host.Cell) {lo n x : Nat} (f : Nat → Byte) (h : x < lo ∨ lo + n ≤ x) :
    memGet (memFill m lo n f) x = memGet m x := by
  have hfill : ∀ e ∈ ((List.range n).map fun i => (lo + i, f i)).filter fun e => !(e.2 == memDefault), e.1 ≠ x := by
    intro e he
    obtain ⟨i, hi, rfl⟩ := List.mem_map.mp (List.mem_filter.mp he).1
    have hn : i < n := List.mem_range.mp hi
    show lo + i ≠ x
    omega
  have habove : ∀ e ∈ m.filter fun e => decide (e.1 < lo), e.1 < lo := fun e he => of_decide_eq_true (List.mem_filter.mp he).2
  have hbelow : ∀ e ∈ m.filter fun e => decide (lo + n ≤ e.1), lo + n ≤ e.1 := fun e he => of_decide_eq_true (List.mem_filter.mp he).2
  unfold memFill
  rcases h with h | h
  · rw [memGet_absent_append fun e he => by have := hbelow e he; omega, memGet_absent_append hfill, memGet_filter fun _ => by simpa using h]
  · rw [List.append_assoc, memGet_append_absent fun e he => by have := habove e he; omega, memGet_append_absent hfill,
      memGet_filter fun _ => by simpa using h]

theorem keepState_mem_outside (s : State) (i : Nat) {x : Nat} (h : x < (s.ctx i).ctxBase ∨ (s.ctx i).ctxBase + 8192 ≤ x) :
    memGet (keepState s i).mem x = memGet s.mem x := by
  unfold keepState
  extract_lets r mid
  split
  · rw [(frame_State_mpuDeny (List.Subset.refl _) (.refl _ s)).mem_eq (by decide)]
  · split
    · exact memGet_memFill_outside s.mem _ h
    · rw [(frame_State_addrFault (List.Subset.refl _) (.refl _ s)).mem_eq (by decide)]

theorem ctxRegsKept_keepState (s : State) (i : Nat) : CtxRegsKept s (keepState s i) := by
  unfold keepState
  extract_lets r mid
  split
  · exact ctxRegsKept_mpuDeny s _ _ _ _
  · exact .ite (.of_regs rfl) (ctxRegsKept_addrFault s _ _)

theorem ctxRegsKept_setCtxState (s : State) (i new : Nat) : CtxRegsKept s (setCtxState s i new) := by
  unfold setCtxState
  extract_lets r
  exact .ite (.refl s) ((CtxRegsKept.of_regs (t := s.setCtx i { r with state := new }) rfl).trans (ctxRegsKept_raise _ _ _))

/-! ## The engine (R143) -/

theorem foldl_min_le {g : Nat → Nat} (es : List Nat) (a : Nat) :
    es.foldl (fun m e => min m (g e)) a ≤ a ∧ ∀ e ∈ es, es.foldl (fun m e => min m (g e)) a ≤ g e := by
  induction es generalizing a with
  | nil => simp
  | cons e es ih =>
    obtain ⟨ha, hes⟩ := ih (min a (g e))
    rw [List.foldl_cons]
    exact ⟨ha.trans (min_le_left _ _), List.forall_mem_cons.mpr ⟨ha.trans (min_le_right _ _), hes⟩⟩

/-- The first of a rising list with a property stands before every later one that has it. -/
theorem find?_first {p : Nat → Bool} {es : List Nat} {e k : Nat} (hes : es.Pairwise (· < ·)) (h : es.find? p = some e) (hk : k ∈ es)
    (hlt : k < e) : p k = false := by
  obtain ⟨-, as, bs, rfl, has⟩ := List.find?_eq_some_iff_append.mp h
  rcases List.mem_append.mp hk with hk | hk
  · simpa using has k hk
  · have hb : ∀ b ∈ bs, e < b := (List.pairwise_cons.mp (List.pairwise_append.mp hes).2.1).1
    rcases List.mem_cons.mp hk with rfl | hk
    · exact absurd hlt (lt_irrefl _)
    · exact absurd hlt (hb k hk).not_gt

/-- The engine that is picked is ready, can take the context, and has the lowest load, the lowest-numbered of those. -/
theorem pickEngine_lowest {s : State} {mpxs e : Nat} (h : pickEngine s mpxs = some e) :
    s.isReady (4 + e) = true ∧ admits s e mpxs = true
      ∧ ∀ k, k < 8 → s.isReady (4 + k) = true → admits s k mpxs = true →
          decLoad s e ≤ decLoad s k ∧ (k < e → decLoad s e < decLoad s k) := by
  unfold pickEngine at h
  extract_lets es lo at h
  have hmin : ∀ k ∈ es, lo ≤ decLoad s k := (foldl_min_le es 1001).2
  have hmem : ∀ k, k ∈ es ↔ k < 8 ∧ s.isReady (4 + k) = true ∧ admits s k mpxs = true := fun k => by
    simp only [es, List.mem_filter, List.mem_range, Bool.and_eq_true]
  have he : decLoad s e = lo := by simpa using List.find?_some h
  obtain ⟨-, hready, hadmits⟩ := (hmem e).mp (List.mem_of_find?_eq_some h)
  refine ⟨hready, hadmits, fun k hk hr ha => ?_⟩
  have hks : k ∈ es := (hmem k).mpr ⟨hk, hr, ha⟩
  have hle : decLoad s e ≤ decLoad s k := he ▸ hmin k hks
  refine ⟨hle, fun hlt => lt_of_le_of_ne hle fun heq => ?_⟩
  have hne := find?_first (List.pairwise_lt_range.filter _) h hks hlt
  simp [← heq, he] at hne

/-- The engine of a STREAM_OPEN: the one it names, or the one picked. -/
def openEngine (s : State) (j : Job) : Option Nat :=
  if j.n 17 1 = 0xFF then pickEngine s (j.n 22 2) else if admits s (j.n 17 1) (j.n 22 2) then some (j.n 17 1) else none

/-- None of the own checks of a command that is admitted fails. -/
theorem own_passes {s : State} {j : Job} {sp : CmdSpec} (h : firstRefusal s j sp = none) : ∀ o ∈ sp.own, o = none := by
  unfold firstRefusal at h
  split_ifs at h
  exact fun o ho => List.findSome?_eq_none_iff.mp h o ho

theorem chk_eq_none {bad : Bool} {st : Status} : chk bad st = none ↔ bad = false := by
  cases bad <;> simp [chk]

theorem openEngine_isSome {s : State} {c : Cmd} (ha : Admits s c streamOpenSpec) : ∃ e, openEngine s c.job = some e := by
  have h := chk_eq_none.mp (own_passes ha _ (List.mem_cons_of_mem _ List.mem_cons_self))
  simp only [Bool.or_eq_false_iff, Option.isNone_eq_false_iff] at h
  exact Option.isSome_iff_exists.mp h.1.2

/-! ## STREAM_OPEN (R143, R174) -/

/-- The record of a context that a STREAM_OPEN opens on engine e, before it is in state 1; what DEC_CONCEAL has coalesced stays. -/
def openingCtx (r : CtxRec) (j : Job) (e : Nat) : CtxRec :=
  { CtxRec.init with
    engine := e, codec := j.n 18 1, fabric := j.n 19 1 == 1, early := bit (j.n 20 1) 0, feedPf := j.pf, feedSq := j.n 21 1, mpxs := j.n 22 2,
    maxW := j.n 24 2, maxH := j.n 26 2, src := j.n 28 2, flow := j.n 30 2, deadline := j.n 32 4,
    stall := if j.n 36 2 = 0 then 50 else j.n 36 2, ctxBase := j.n 40 8, esBase := j.n 48 8, esSize := j.n 56 4,
    conc := r.conc, concCnt := r.concCnt, concLast := r.concLast }

/-- The counters of a context that is opened read 0. -/
def ctxCleared (s : State) (i : Nat) : State :=
  (List.range 10).foldl (fun s k => s.setReg (ctxReg Reg.STR_DEC_CTX_DECODED i + 4 * k) 0) s

theorem frame_ctxCleared (s : State) (i : Nat) : Frame [.regs] s (ctxCleared s i) :=
  Frame.foldl (.refl _ s) fun _ k h => frame_State_setReg (List.Subset.refl _) h
    (.inl (Nat.le_add_right_of_le (Nat.le_add_right_of_le (by decide))))

theorem get?_foldl_setReg {os : List Nat} {s : State} {o : Nat} (h : o ∈ os ∨ s.regs.get? o = some 0) :
    (os.foldl (fun s o => s.setReg o 0) s).regs.get? o = some 0 := by
  induction os generalizing s with
  | nil => exact h.resolve_left List.not_mem_nil
  | cons p os ih =>
    refine ih ?_
    by_cases hp : o = p
    · exact .inr (by simp [State.setReg, hp])
    · refine h.imp (fun h => (List.mem_cons.mp h).resolve_left hp) fun h => ?_
      simpa [State.setReg, hp] using h

theorem ctxCleared_get? (s : State) (i : Nat) {k : Nat} (hk : k < 10) :
    (ctxCleared s i).regs.get? (ctxReg Reg.STR_DEC_CTX_DECODED i + 4 * k) = some 0 := by
  have e : ctxCleared s i = ((List.range 10).map fun k => ctxReg Reg.STR_DEC_CTX_DECODED i + 4 * k).foldl (fun s o => s.setReg o 0) s := by
    rw [List.foldl_map]
    rfl
  rw [e]
  exact get?_foldl_setReg (.inl (List.mem_map.mpr ⟨k, List.mem_range.mpr hk, rfl⟩))

/-- The state in which a STREAM_OPEN has opened its context on engine e. -/
def ctxOpened (s : State) (j : Job) (e : Nat) : State :=
  let i := j.n 16 1
  keepState (setCtxState (ctxCleared (s.setCtx i (openingCtx (s.ctx i) j e)) i) i 1) i

/-- What opening a context may change. -/
abbrev openParts : List Part := [.dec, .regs, .evSeq, .out, .dorm, .rings, .irq, .rate, .localQ, .links, .exch, .free, .mem]

theorem frame_ctxOpened (s : State) (j : Job) (e : Nat) : Frame openParts s (ctxOpened s j e) :=
  frame_keepState (by decide) (frame_setCtxState (by decide)
    ((frame_State_setCtx (by decide) (.refl _ s)).trans ((frame_ctxCleared _ _).mono (by decide))))

theorem keepState_dec (s : State) (i : Nat) : (keepState s i).dec = s.dec :=
  (frame_keepState (List.Subset.refl _) (.refl _ s)).keep .dec (by decide)

theorem ctxCleared_dec (s : State) (i : Nat) : (ctxCleared s i).dec = s.dec := (frame_ctxCleared s i).keep .dec (by decide)

theorem ctxOpened_ctx (s : State) (j : Job) (e : Nat) :
    (ctxOpened s j e).ctx (j.n 16 1) = { openingCtx (s.ctx (j.n 16 1)) j e with state := 1 } := by
  unfold ctxOpened
  rw [ctx_of_dec (keepState_dec _ _), setCtxState_ctx, ctx_of_dec (ctxCleared_dec _ _), State.ctx_setCtx]

theorem ctxOpened_ctx_ne (s : State) (j : Job) (e : Nat) {k : Nat} (hk : k ≠ j.n 16 1) : (ctxOpened s j e).ctx k = s.ctx k := by
  unfold ctxOpened
  rw [ctx_of_dec (keepState_dec _ _), (setCtxState_kept _ _ 1).others k hk, ctx_of_dec (ctxCleared_dec _ _), State.ctx_setCtx_ne _ _ _ _ hk]

/-- The counters of every context stand among the registers of the stream contexts. -/
theorem not_offCtxRegs (j : Job) {k : Nat} (hk : k < 10) : ¬ OffCtxRegs (ctxReg Reg.STR_DEC_CTX_DECODED (j.n 16 1) + 4 * k) := by
  have hi : j.n 16 1 < 256 := Nat.mod_lt _ (by decide)
  simp only [ctxReg, OffCtxRegs, Reg.STR_DEC_CTX_DECODED]
  omega

theorem ctxOpened_get? (s : State) (j : Job) (e : Nat) {k : Nat} (hk : k < 10) :
    (ctxOpened s j e).regs.get? (ctxReg Reg.STR_DEC_CTX_DECODED (j.n 16 1) + 4 * k) = some 0 := by
  unfold ctxOpened
  rw [((ctxRegsKept_setCtxState _ _ 1).trans (ctxRegsKept_keepState _ _)) _ (not_offCtxRegs j hk)]
  exact ctxCleared_get? _ _ hk

theorem ctxOpened_mem (s : State) (j : Job) (e : Nat) {x : Nat} (h : x < j.n 40 8 ∨ j.n 40 8 + 8192 ≤ x) :
    memGet (ctxOpened s j e).mem x = memGet s.mem x := by
  have hr : Frame [.dec, .regs, .evSeq, .out, .dorm, .rings, .irq, .rate, .localQ, .links, .exch] s
      (setCtxState (ctxCleared (s.setCtx (j.n 16 1) (openingCtx (s.ctx (j.n 16 1)) j e)) (j.n 16 1)) (j.n 16 1) 1) :=
    frame_setCtxState (by decide) ((frame_State_setCtx (by decide) (.refl _ s)).trans ((frame_ctxCleared _ _).mono (by decide)))
  unfold ctxOpened
  rw [keepState_mem_outside, hr.mem_eq (by decide)]
  rw [setCtxState_ctx, ctx_of_dec (ctxCleared_dec _ _), State.ctx_setCtx]
  exact h

section
variable {s : State} {c : Cmd}

theorem exec_streamOpen (hs : Starts s (.streamOpen c) c) (ha : Admits s c streamOpenSpec) {e : Nat} (he : openEngine s c.job = some e) :
    exec (.streamOpen c) s = .next (wakeBusy ((ctxOpened (begun s c) c.job e).finish c.job .done 0 e)) := by
  have hg : exec (.streamOpen c) s = .next (gate s (.streamOpen c) c fun s j => wakeBusy (doStreamOpen s j)) := rfl
  have hd : doStreamOpen (begun s c) c.job
      = (ctxOpened (begun s c) c.job ((openEngine s c.job).getD 0)).finish c.job .done 0 ((openEngine s c.job).getD 0) := by
    unfold doStreamOpen
    rw [runJob_admits _ ha]
    rfl
  rw [hg, gate_starts _ hs, hd, he, Option.getD_some]

/-- The registers behind the completion and the wake of what an open has done. -/
theorem streamOpen_get? (e : Nat) {k : Nat} (hk : k < 10) :
    (wakeBusy ((ctxOpened (begun s c) c.job e).finish c.job .done 0 e)).reg (ctxReg Reg.STR_DEC_CTX_DECODED (c.job.n 16 1) + 4 * k) = 0 := by
  have h := (ctxRegsKept_finish (ctxOpened (begun s c) c.job e) c .done 0 e).trans (.of_frame (frame_wake _) (by decide))
  simp only [State.reg, h _ (not_offCtxRegs c.job hk), ctxOpened_get? _ _ _ hk]
  rfl

/-- The engine that is answered is the one named, or the one picked. -/
theorem openEngine_cases {j : Job} {e : Nat} (h : openEngine s j = some e) :
    (j.n 17 1 ≤ 7 → e = j.n 17 1)
      ∧ (j.n 17 1 = 0xFF → s.isReady (4 + e) = true ∧ admits s e (j.n 22 2) = true
          ∧ ∀ k, k < 8 → s.isReady (4 + k) = true → admits s k (j.n 22 2) = true →
              decLoad s e ≤ decLoad s k ∧ (k < e → decLoad s e < decLoad s k)) := by
  unfold openEngine at h
  split_ifs at h with hn
  · exact ⟨fun h7 => by omega, fun _ => pickEngine_lowest h⟩
  · exact ⟨fun _ => (Option.some.inj h).symm, fun hf => absurd hf hn⟩

end

/-- Settles O14: opening is ctxOpened with the counters read back through its events; a flush or a close empties its context (Emptied). -/
theorem streamsOpenAndAreEmptied : Obligations.StreamsOpenAndAreEmptied := by
  refine ⟨fun s c hs ha => ?_, fun s c => ⟨fun hs ha => ?_, fun hs ha hb => ?_, fun hs ha hb hh => ?_, fun hs ha hb hc hr hf => ?_⟩⟩
  case refine_1 =>
    obtain ⟨e, he⟩ := openEngine_isSome ha
    have hx : ∀ k, (wakeBusy ((ctxOpened (begun s c) c.job e).finish c.job .done 0 e)).ctx k = (ctxOpened (begun s c) c.job e).ctx k := fun k =>
      (ctx_of_dec ((frame_wake _).keep .dec (by decide)) k).trans (ctx_of_dec (finish_dec _ _ _ _ _) k)
    refine ⟨_, exec_streamOpen hs ha he, ?_, fun k hk => streamOpen_get? e hk, fun x hx => ?_, fun k hk => ?_⟩
    · obtain ⟨hnamed, hpicked⟩ := openEngine_cases he
      rw [hx, ctxOpened_ctx]
      exact ⟨((frame_ctxOpened _ _ _).finish_ends (by decide)).later (frame_wake _) (by decide), rfl, rfl, beq_iff_eq, rfl, rfl, rfl, rfl, rfl,
        rfl, rfl, rfl, rfl, rfl, rfl, rfl, rfl, rfl, rfl, rfl, hnamed, hpicked⟩
    · rw [(frame_wake _).mem_eq (by decide), (frame_finish _ _ _ _ _).mem_eq (by decide)]
      exact ctxOpened_mem (begun s c) c.job e hx
    · rw [hx]
      exact ctxOpened_ctx_ne (begun s c) c.job e hk
  case refine_2 =>
    obtain ⟨t, ht, he, hd⟩ := streamFlush_empties hs ha
    exact ⟨t, ht, he.ring, he.feeds, he.cur, he.expect, hd, he.others⟩
  case refine_3 =>
    obtain ⟨t, ht, hst, he, hd⟩ := streamClose_empties hs ha hb
    exact ⟨t, ht, hst, he.ring, he.feeds, he.cur, hd, he.others⟩
  case refine_4 =>
    obtain ⟨t, ht, hx, hd⟩ := streamClose_waits hs ha hb hh
    exact ⟨t, ht, by rw [hx], by rw [hx], by rw [hx], by rw [hx], hd⟩
  case refine_5 => exact streamClose_drained hs ha hb hc hr hf

end Sys2Proof.Machine

/-! SUPPORT. Transfers block by block: what a fold over the blocks of a transfer reaches, and transfers of which no block is denied. -/

namespace Sys2Proof.Machine

/-! ## The blocks of a transfer (R295) -/

/-- What holds of the bytes before each block, and goes on through it, holds of the whole transfer. -/
theorem foldl_blocksOf {σ : Type} {f : σ → Nat × Nat → σ} (P : Nat → σ → Prop) {n addr off len : Nat} {x : σ} (hn : len ≤ n) (h0 : P off x)
    (hstep : ∀ p ∈ blocksOf n addr off len, ∀ y, P p.1 y → P (p.1 + p.2) (f y p)) : P (off + len) ((blocksOf n addr off len).foldl f x) := by
  induction n generalizing off len x with
  | zero => simpa [blocksOf, Nat.le_zero.mp hn] using h0
  | succ n ih =>
    rw [blocksOf] at hstep ⊢
    by_cases hl : len = 0
    · simpa [hl] using h0
    · rw [if_neg hl] at hstep ⊢
      have hk : 0 < min len (64 - (addr + off) % 64) := by omega
      have h := ih (by omega) (hstep _ List.mem_cons_self x h0) fun p hp => hstep p (List.mem_cons_of_mem _ hp)
      rw [List.foldl_cons]
      convert h using 1
      dsimp only
      omega

/-- Fuel for every block of a transfer gives the same blocks. -/
theorem blocksOf_fuel {n m addr off len : Nat} (hn : len = 0 ∨ len + (addr + off) % 64 ≤ 64 * n) (hm : len = 0 ∨ len + (addr + off) % 64 ≤ 64 * m) :
    blocksOf n addr off len = blocksOf m addr off len := by
  induction n generalizing m off len with
  | zero =>
    have hl : len = 0 := by omega
    cases m <;> simp [blocksOf, hl]
  | succ n ih =>
    cases m with
    | zero =>
      have hl : len = 0 := by omega
      simp [blocksOf, hl]
    | succ m =>
      rw [blocksOf, blocksOf]
      by_cases hl : len = 0
      · simp [hl]
      · rw [if_neg hl, if_neg hl]
        dsimp only
        rw [ih (m := m) (by omega) (by omega)]

/-- No block of a range without a denied one is denied, whatever the fuel. -/
theorem block_allowed {s : State} {mid addr len : Nat} (h : firstDenied s mid addr len = none) {p : Nat × Nat}
    (hp : p ∈ blocksOf (len + 1) addr 0 len) : mpuOk s mid (addr + p.1) p.2 = true := by
  rw [blocksOf_fuel (m := len / 64 + 2) (by omega) (by omega)] at hp
  simpa using List.find?_eq_none.mp (Option.map_eq_none_iff.mp h) p hp

/-! ## What the MPU allows (R335, R336) -/

theorem mpuOk_of_allows {s : State} {mid addr len : Nat} (h : mpuAllows s mid addr len = true) : mpuOk s mid addr len = true := by
  simp [mpuOk, h]

/-- What a region allows it allows of every part. -/
theorem mpuAllows_part {s : State} {mid a n b k : Nat} (h : mpuAllows s mid a n = true) (hb : a ≤ b) (hk : b + k ≤ a + n) :
    mpuAllows s mid b k = true := by
  obtain ⟨e, he, hr⟩ := List.any_eq_true.mp h
  refine List.any_eq_true.mpr ⟨e, he, ?_⟩
  simp only [MpuRegion.holds, Bool.and_eq_true, decide_eq_true_eq] at hr ⊢
  obtain ⟨⟨⟨hen, hlo⟩, hhi⟩, hname⟩ := hr
  exact ⟨⟨⟨hen, by omega⟩, by omega⟩, hname⟩

theorem mpuAllows_mpu {s t : State} (h : t.sys.mpu = s.sys.mpu) (mid a n : Nat) : mpuAllows t mid a n = mpuAllows s mid a n := by
  simp only [mpuAllows, h]

theorem mpuOk_mpu {s t : State} (h : t.sys.mpu = s.sys.mpu) (mid a n : Nat) : mpuOk t mid a n = mpuOk s mid a n := by
  simp only [mpuOk, mpuCovers, mpuAllows, h]

/-! ## Stores of which no block is denied (R295, R336) -/

/-- A store of which no block is denied tells so. -/
theorem memWr_allowed {s : State} {mid addr : Nat} {d : List Byte} (h : firstDenied s mid addr d.length = none) : (s.memWr mid addr d).2 = true := by
  unfold State.memWr
  refine (foldl_blocksOf (P := fun _ (e : State × Bool) => e.1.sys.mpu = s.sys.mpu ∧ e.2 = true) (Nat.le_succ _) ⟨rfl, rfl⟩ ?_).2
  rintro p hp ⟨u, ok⟩ ⟨hu, rfl⟩
  have hin := blocksOf_within _ _ _ _ p hp
  have hlen : ((d.drop p.1).take p.2).length = p.2 := by
    rw [List.length_take, List.length_drop]
    omega
  have hok : mpuOk u mid (addr + p.1) p.2 = true := (mpuOk_mpu hu _ _ _).trans (block_allowed h hp)
  have hf : Frame wrParts u (u.wrBlock mid (addr + p.1) ((d.drop p.1).take p.2)).1 := frame_State_wrBlock (by decide) (.refl _ u)
  refine ⟨Eq.trans (hf.keep .mpu (by decide)) hu, ?_⟩
  simp only [State.wrBlock, hlen, hok, Bool.not_true, Bool.false_eq_true, if_false, Bool.true_and]
  split_ifs <;> rfl

theorem memWrTill_allowed {s : State} {mid addr : Nat} {d : List Byte} (h : firstDenied s mid addr d.length = none) :
    (s.memWrTill mid addr d).2 = true := by
  simp only [State.memWrTill, h, memWr_allowed h]

/-- Stores under the master into the n bytes at lo reach memory: the MPU allows them, the controller takes them and the bytes exist. -/
structure Writable (s : State) (mid lo n : Nat) : Prop where
  frozen : s.dram.frozen = none
  awake  : s.dram.selfRefresh = false
  allows : mpuAllows s mid lo n = true
  usable : lo + n ≤ s.usable

theorem Writable.of_frame {m : List Part} {s t : State} {mid lo n : Nat} (h : Writable s mid lo n) (hf : Frame m s t)
    (hm : Part.dram ∉ m ∧ Part.mpu ∉ m) : Writable t mid lo n := by
  have hd : t.dram = s.dram := hf.keep .dram hm.1
  exact ⟨by rw [hd, h.frozen], by rw [hd, h.awake], (mpuAllows_mpu (hf.keep .mpu hm.2) _ _ _).trans h.allows,
    by simpa only [State.usable, hd] using h.usable⟩

/-- A segment that is asked for changes nothing that a store depends on. -/
theorem Writable.askSeg {s : State} {mid lo n : Nat} (h : Writable s mid lo n) (a : Nat) : Writable (s.askSeg a) mid lo n := by
  unfold State.askSeg
  extract_lets k
  split
  · exact h
  · exact ⟨h.frozen, h.awake, h.allows, h.usable⟩

section
variable {s : State} {mid lo n : Nat}

/-- One block of such a store. -/
theorem Writable.wrBlock (h : Writable s mid lo n) {a : Nat} {d : List Byte} (hd : d ≠ []) (ha : lo ≤ a) (hl : a + d.length ≤ lo + n) :
    (s.wrBlock mid a d).1 = ({ s with mem := memWrite s.mem a d }).askSeg a := by
  have hok : mpuOk s mid a d.length = true := mpuOk_of_allows (mpuAllows_part h.allows ha hl)
  have hlt : a < s.usable := by
    have := h.usable
    have := List.length_pos_of_ne_nil hd
    omega
  simp [State.wrBlock, hok, h.frozen, h.awake, hlt]

/-- The first o bytes of d stand at a, the rest of memory is as it was, and more can be stored. -/
structure StoredTo (s : State) (mid lo n a : Nat) (d : List Byte) (o : Nat) (t : State) : Prop where
  ok  : MemOk t
  more : Writable t mid lo n
  get : ∀ x, memGet t.mem x = if a ≤ x ∧ x < a + o then d.getD (x - a) 0 else memGet s.mem x

/-- A store of which no block is denied stands in memory. -/
theorem Writable.wr (h : Writable s mid lo n) (hm : MemOk s) {a : Nat} {d : List Byte} (ha : lo ≤ a) (hl : a + d.length ≤ lo + n) :
    StoredTo s mid lo n a d d.length (s.wr mid a d) := by
  have h0 : StoredTo s mid lo n a d 0 s := ⟨hm, h, fun x => by rw [if_neg (by omega)]⟩
  have hall := foldl_blocksOf (addr := a) (x := (s, true)) (P := fun o (e : State × Bool) => StoredTo s mid lo n a d o e.1) (f := fun e p =>
    ((e.1.wrBlock mid (a + p.1) ((d.drop p.1).take p.2)).1, e.2 && (e.1.wrBlock mid (a + p.1) ((d.drop p.1).take p.2)).2))
    (Nat.le_succ d.length) h0 ?_
  · rw [Nat.zero_add] at hall
    exact hall
  rintro ⟨o, k⟩ hp ⟨u, ok⟩ ⟨hu, hw, hx⟩
  have hin := blocksOf_within _ _ _ _ _ hp
  have hpos := blocksOf_pos _ _ _ _ _ hp
  dsimp only at hin hpos hx ⊢
  have hlen : ((d.drop o).take k).length = k := by
    rw [List.length_take, List.length_drop]
    omega
  have hb := hw.wrBlock (a := a + o) (d := (d.drop o).take k) (List.ne_nil_of_length_pos (by omega)) (by omega) (by omega)
  have hs : Writable { u with mem := memWrite u.mem (a + o) ((d.drop o).take k) } mid lo n := ⟨hw.frozen, hw.awake, hw.allows, hw.usable⟩
  rw [hb]
  refine ⟨?_, hs.askSeg _, fun x => ?_⟩
  · rw [MemOk, askSeg_mem]
    exact memWrite_wf _ _ _ hu
  · rw [askSeg_mem]
    dsimp only
    rw [memGet_memWrite _ _ _ _ hu, hlen, hx]
    by_cases h1 : a + o ≤ x ∧ x < a + o + k
    · have e : o + (x - (a + o)) = x - a := by omega
      rw [if_pos h1, if_pos (by omega), List.getD_eq_getElem?_getD, List.getElem?_take_of_lt (by omega), List.getElem?_drop, e,
        List.getD_eq_getElem?_getD]
    · rw [if_neg h1]
      by_cases h2 : a ≤ x ∧ x < a + o
      · rw [if_pos h2, if_pos (by omega)]
      · rw [if_neg h2, if_neg (by omega)]

end

end Sys2Proof.Machine

/-! SUPPORT. SURFACE_POOL: pools that are set, and releases that complete or wait. -/

namespace Sys2Proof

theorem Tab.get?_erase {α : Type} (t : Tab α) (k i : Nat) : Tab.get? (Tab.erase t k) i = if i = k then none else Tab.get? t i := by
  induction t with
  | nil => simp [Tab.erase]
  | cons e t ih =>
    obtain ⟨n, v⟩ := e
    have ih' : Tab.get? (t.filter fun e => !(e.1 == k)) i = if i = k then none else Tab.get? t i := ih
    by_cases hn : n = k
    · subst hn
      simp only [Tab.erase, List.filter_cons, beq_self_eq_true, Bool.not_true, Bool.false_eq_true, if_false, ih', Tab.get?]
      split <;> rfl
    · have hb : (n == k) = false := beq_false_of_ne hn
      simp only [Tab.erase, List.filter_cons, hb, Bool.not_false, if_true, ih', Tab.get?]
      split_ifs with h1 h2 <;> simp_all

end Sys2Proof

namespace Sys2Proof.Machine

section
variable {s : State} {c : Cmd}

/-! ## A pool is set (R178) -/

/-- The pool of a job. -/
def poolKey (j : Job) : Nat := prodKey (j.n 16 1) (j.n 18 2)

/-- Pool key is set as f, with nothing published. -/
def poolSet (s : State) (key : Nat) (f : SurfRec) : State := { s with surf.surfs := s.surf.surfs.set key f }.setPub key PubRec.init

theorem poolSet_surface (s : State) (key : Nat) (f : SurfRec) (k : Nat) : (poolSet s key f).surface k = if k = key then some f else s.surface k := by
  simp [poolSet, State.surface, State.setPub]

theorem poolSet_pub (s : State) (key : Nat) (f : SurfRec) : (poolSet s key f).pub key = PubRec.init := by
  simp [poolSet, State.pub, State.setPub]

theorem frame_poolSet (s : State) (key : Nat) (f : SurfRec) : Frame [.surf] s (poolSet s key f) :=
  frame_State_setPub (List.Subset.refl _) (.surf (by decide) (.refl _ s))

theorem surface_of_surf {s t : State} (h : t.surf = s.surf) (k : Nat) : t.surface k = s.surface k := by simp only [State.surface, h]

theorem finish_surf (s : State) (j : Job) (st : Status) (fl r : Nat) : (s.finish j st fl r).surf = s.surf :=
  (frame_finish s j st fl r).keep .surf (by decide)

theorem finish_mem (s : State) (j : Job) (st : Status) (fl r : Nat) : (s.finish j st fl r).mem = s.mem :=
  (frame_finish s j st fl r).mem_eq (by decide)

theorem frame_initBlock_self (s : State) (f : SurfRec) : Frame wrParts s (initBlock s f).1 := frame_initBlock (by decide) (.refl _ s)

/-- What a block is initialized with fills it. -/
theorem initBlock_bytes_length (n : Nat) :
    (leBytes 8 (0xFFFFFFFF * 2 ^ 32) ++ List.replicate (4096 * (1 + n) - 8) (0 : Byte)).length = 4096 * (1 + n) := by
  rw [List.length_append, leBytes_length, List.length_replicate]
  omega

theorem initBlock_allowed {f : SurfRec} (h : firstDenied s 1 f.block (4096 * (1 + f.buffers)) = none) : (initBlock s f).2 = true :=
  memWrTill_allowed (by rw [initBlock_bytes_length]; exact h)

theorem initBlock_outside (hm : MemOk s) (f : SurfRec) {x : Nat} (hx : ¬ inRange f.block (4096 * (1 + f.buffers)) x) :
    memGet (initBlock s f).1.mem x = memGet s.mem x := by
  refine memWrTill_outside hm _ _ _ x ?_
  rw [initBlock_bytes_length]
  unfold inRange at hx
  omega

/-- The pool's block passed the check of its command. -/
theorem surfacePool_block_allowed (ha : Admits s c surfacePoolSpec) (h1 : c.job.n 17 1 = 1) :
    firstDenied (begun s c) 1 (poolOf c.job).block (4096 * (1 + (poolOf c.job).buffers)) = none := by
  have h := own_passes ha (if c.job.n 17 1 = 1 then chkMpu (begun s c) 1 (poolOf c.job).block (4096 * (1 + (poolOf c.job).buffers)) true else none)
    (by simp [surfacePoolSpec])
  rw [if_pos h1] at h
  unfold chkMpu at h
  split at h
  · exact absurd h (Option.some_ne_none _)
  · assumption

theorem exec_surfacePool_sets (hs : Starts s (.surfacePool c) c) (ha : Admits s c surfacePoolSpec) (h1 : c.job.n 17 1 = 1) :
    exec (.surfacePool c) s
      = .next ((poolSet (initBlock (begun s c) (poolOf c.job)).1 (poolKey c.job) (poolOf c.job)).finish c.job .done 0 0) := by
  have hok := initBlock_allowed (surfacePool_block_allowed ha h1)
  refine congrArg Host.Outcome.next ((gate_acts hs ha fun _ => rfl).trans ?_)
  dsimp only
  rw [if_neg (by omega), if_pos hok]
  rfl

/-- R178: a pool that is set. -/
theorem surfacePool_sets (hs : Starts s (.surfacePool c) c) (ha : Admits s c surfacePoolSpec) (h1 : c.job.n 17 1 = 1) :
    ∃ t, exec (.surfacePool c) s = .next t ∧ t.surface (poolKey c.job) = some (poolOf c.job) ∧ t.pub (poolKey c.job) = PubRec.init
      ∧ Ends s t c .done 0 0 ∧ (∀ k, k ≠ poolKey c.job → t.surface k = s.surface k)
      ∧ (MemOk s → ∀ x, ¬ inRange (poolOf c.job).block (4096 * (1 + (poolOf c.job).buffers)) x → memGet t.mem x = memGet s.mem x) := by
  have hi := frame_initBlock_self (begun s c) (poolOf c.job)
  have hp := frame_poolSet (initBlock (begun s c) (poolOf c.job)).1 (poolKey c.job) (poolOf c.job)
  refine ⟨_, exec_surfacePool_sets hs ha h1, ?_, ?_, ?_, fun k hk => ?_, fun hm x hx => ?_⟩
  · rw [surface_of_surf (finish_surf _ _ _ _ _), poolSet_surface, if_pos rfl]
  · rw [State.pub, finish_surf]
    exact poolSet_pub _ _ _
  · exact Frame.finish_ends (m := .surf :: wrParts) ((hi.mono (by decide)).trans (hp.mono (by decide))) (by decide)
  · rw [surface_of_surf (finish_surf _ _ _ _ _), poolSet_surface, if_neg hk]
    exact surface_of_surf (s := begun s c) (hi.keep .surf (by decide)) k
  · rw [finish_mem, hp.mem_eq (by decide)]
    exact initBlock_outside (s := begun s c) hm (poolOf c.job) hx

/-! ## A pool is released (R178) -/

/-- A pool is taken away, and its release no longer waits. -/
def poolTaken (s : State) (j : Job) : State :=
  { s with surf.release := s.surf.release.erase j, surf.surfs := s.surf.surfs.erase (poolKey j) }

/-- A pool that no pipe reads any more is taken away, and its release completes. -/
def poolFreed (s : State) (j : Job) : State := (poolTaken s j).finish j .done 0 0

theorem frame_poolTaken (s : State) (j : Job) : Frame [.surf] s (poolTaken s j) := .surf (by decide) (.refl _ s)

/-- The releases whose pool no pipe reads. -/
def freeReleases (s : State) : List Job := s.surf.release.filter fun j => !(s.surf.reading.any fun e => e.2.1 == poolKey j)

theorem settleReleases_eq (s : State) : settleReleases s = (freeReleases s).foldl poolFreed s := rfl

theorem poolFreed_surf (s : State) (j : Job) :
    (poolFreed s j).surf = { s.surf with release := s.surf.release.erase j, surfs := s.surf.surfs.erase (poolKey j) } := by
  rw [poolFreed, finish_surf]
  rfl

theorem frame_poolFreed (s : State) (j : Job) : Frame (.surf :: finishParts) s (poolFreed s j) :=
  frame_State_finish (by decide) ((frame_poolTaken s j).mono (by decide))

theorem poolFreed_surface (s : State) (j : Job) (k : Nat) : (poolFreed s j).surface k = if k = poolKey j then none else s.surface k := by
  rw [State.surface, poolFreed_surf]
  exact Tab.get?_erase _ _ _

/-- Releases that complete keep memory, and take no completion back. -/
theorem foldl_poolFreed (js : List Job) (s : State) :
    Frame (.surf :: finishParts) s (js.foldl poolFreed s) ∧ s.host.done <+: (js.foldl poolFreed s).host.done := by
  induction js generalizing s with
  | nil => exact ⟨.refl _ s, List.prefix_refl _⟩
  | cons j js ih =>
    obtain ⟨hf, hd⟩ := ih (poolFreed s j)
    exact ⟨(frame_poolFreed s j).trans hf, (finish_done_grows (poolTaken s j) j .done 0 0).trans hd⟩

/-- Releases of other pools leave a pool, and its own release, as they are. -/
theorem foldl_poolFreed_others {j : Job} (js : List Job) (h : ∀ i ∈ js, poolKey i ≠ poolKey j) (s : State) :
    (js.foldl poolFreed s).surface (poolKey j) = s.surface (poolKey j) ∧ (j ∈ s.surf.release → j ∈ (js.foldl poolFreed s).surf.release) := by
  induction js generalizing s with
  | nil => exact ⟨rfl, id⟩
  | cons i js ih =>
    have hi : poolKey i ≠ poolKey j := h i List.mem_cons_self
    obtain ⟨hs, hr⟩ := ih (fun k hk => h k (List.mem_cons_of_mem _ hk)) (poolFreed s i)
    refine ⟨hs.trans ?_, fun hj => hr ?_⟩
    · rw [poolFreed_surface, if_neg hi.symm]
    · have hne : j ≠ i := by
        rintro rfl
        exact hi rfl
      rw [poolFreed_surf]
      exact (List.mem_erase_of_ne hne).mpr hj

/-- A state in which one more release waits. -/
def releaseAsked (s : State) (j : Job) : State := { s with surf.release := s.surf.release ++ [j] }

theorem freeReleases_asked (s : State) (j : Job) :
    freeReleases (releaseAsked s j)
      = freeReleases s ++ if s.surf.reading.any (fun e => e.2.1 == poolKey j) then [] else [j] := by
  unfold freeReleases releaseAsked
  rw [List.filter_append]
  cases h : s.surf.reading.any (fun e => e.2.1 == poolKey j) <;> simp [h]

theorem exec_surfacePool_asks (hs : Starts s (.surfacePool c) c) (ha : Admits s c surfacePoolSpec) (h0 : c.job.n 17 1 = 0)
    (hk : s.surface (poolKey c.job) ≠ none) : exec (.surfacePool c) s = .next (settleReleases (releaseAsked (begun s c) c.job)) := by
  refine congrArg Host.Outcome.next ((gate_acts hs ha fun _ => rfl).trans ?_)
  dsimp only
  rw [if_pos h0]
  exact if_pos (Option.isSome_iff_ne_none.mpr hk)

/-- R178: a release of a pool that is not set. -/
theorem surfacePool_unset (hs : Starts s (.surfacePool c) c) (ha : Admits s c surfacePoolSpec) (h0 : c.job.n 17 1 = 0)
    (hk : s.surface (poolKey c.job) = none) :
    ∃ t, exec (.surfacePool c) s = .next t ∧ t.surf = s.surf ∧ t.mem = s.mem ∧ Ends s t c .done 0 0 := by
  have e : exec (.surfacePool c) s = .next ((begun s c).finish c.job .done 0 0) := by
    refine congrArg Host.Outcome.next ((gate_acts hs ha fun _ => rfl).trans ?_)
    dsimp only
    rw [if_pos h0]
    refine if_neg ?_
    show ¬ (s.surface (poolKey c.job)).isSome = true
    simp [hk]
  exact ⟨_, e, finish_surf (begun s c) _ _ _ _, finish_mem (begun s c) _ _ _ _, (Frame.refl [] (begun s c)).finish_ends (by decide)⟩

/-- R178: a release of a pool that no pipe reads. -/
theorem surfacePool_frees (hs : Starts s (.surfacePool c) c) (ha : Admits s c surfacePoolSpec) (h0 : c.job.n 17 1 = 0)
    (hk : s.surface (poolKey c.job) ≠ none) (hr : s.surf.reading.any (fun e => e.2.1 == poolKey c.job) = false) :
    ∃ t, exec (.surfacePool c) s = .next t ∧ t.surface (poolKey c.job) = none ∧ t.mem = s.mem
      ∧ ∃ ds, t.host.done = s.host.done ++ ds ++ entry s c .done 0 0 := by
  have hfree : freeReleases (releaseAsked (begun s c) c.job) = freeReleases (begun s c) ++ [c.job] := by
    rw [freeReleases_asked, show (begun s c).surf.reading = s.surf.reading from rfl, hr]
    rfl
  obtain ⟨hf, hd⟩ := foldl_poolFreed (freeReleases (begun s c)) (releaseAsked (begun s c) c.job)
  refine ⟨_, exec_surfacePool_asks hs ha h0 hk, ?_⟩
  rw [settleReleases_eq, hfree, List.foldl_append, List.foldl_cons, List.foldl_nil]
  refine ⟨by rw [poolFreed_surface, if_pos rfl], ?_, ?_⟩
  · exact ((frame_poolFreed _ _).mem_eq (by decide)).trans (hf.mem_eq (by decide))
  · have hg : Frame (.surf :: finishParts) (begun s c) (releaseAsked (begun s c) c.job) := .surf (by decide) (.refl _ _)
    exact finish_done_behind (s := s) (t := poolTaken _ c.job) hd ((hg.trans hf).trans ((frame_poolTaken _ _).mono (by decide))) (by decide) _ _ _

/-- R178: a release of a pool that is being read. -/
theorem surfacePool_waits (hs : Starts s (.surfacePool c) c) (ha : Admits s c surfacePoolSpec) (h0 : c.job.n 17 1 = 0)
    (hk : s.surface (poolKey c.job) ≠ none) (hr : s.surf.reading.any (fun e => e.2.1 == poolKey c.job) = true) :
    ∃ t, exec (.surfacePool c) s = .next t ∧ t.surface (poolKey c.job) = s.surface (poolKey c.job) ∧ t.mem = s.mem ∧ c.job ∈ t.surf.release := by
  have hother : ∀ i ∈ freeReleases (releaseAsked (begun s c) c.job), poolKey i ≠ poolKey c.job := by
    intro i hi he
    have hn := (List.mem_filter.mp hi).2
    rw [he] at hn
    simp [releaseAsked, begun, hr] at hn
  obtain ⟨hsurf, hrel⟩ := foldl_poolFreed_others _ hother (releaseAsked (begun s c) c.job)
  refine ⟨_, exec_surfacePool_asks hs ha h0 hk, ?_⟩
  rw [settleReleases_eq]
  exact ⟨hsurf, (foldl_poolFreed _ _).1.mem_eq (by decide), hrel (List.mem_append_right _ (List.mem_singleton_self _))⟩

end

end Sys2Proof.Machine

/-! SUPPORT. STREAM_FEED: the bytes of a feed, the ring that takes them, and feeds that wait. -/

namespace Sys2Proof.Machine

/-! ## The host bytes of a command (R131, R333, R336) -/

theorem slice_zeros (n : Nat) : slice (List.replicate n 0) 0 n = List.replicate n 0 := by simp [slice]

/-- A command whose host bytes are there goes on with them at once. -/
theorem hostFetch_here {s : State} (h : BytesHere s) (j : Job) (addr len : Nat) (buf : List Byte) (act : State → List Byte → State) :
    ∃ u b, s.hostFetch j [(addr, len)] buf act = act u b ∧ Frame [.out] s u ∧ slice b 0 len = hostData s buf len := by
  unfold hostData
  cases hg : s.isGateway with
  | true => exact ⟨s.emit (.hostRead j.pf addr len), buf, by simp [State.hostFetch, State.hostRead, hg],
      frame_State_emit (List.Subset.refl _) (.refl _ s), rfl⟩
  | false =>
    have hc : s.fab.claimed = false := h.resolve_left (by simp [hg])
    exact ⟨s, List.replicate len 0, by simp [State.hostFetch, State.hostRead, hg, hc], .refl _ s, slice_zeros len⟩

/-- On a claimed device a command waits for its host bytes. -/
theorem hostFetch_claimed {s : State} (hg : s.isGateway = false) (hc : s.fab.claimed = true) (j : Job) (addr len : Nat) (buf : List Byte)
    (act : State → List Byte → State) :
    ∃ u, s.hostFetch j [(addr, len)] buf act = { u with host.dma := u.host.dma ++ [{ job := j, parts := [], ended := none }] }
      ∧ Frame (.mgmt :: eventParts) s u := by
  refine ⟨s.hostRead j.pf addr len (some j), ?_, frame_State_hostRead (by decide) (.refl _ s)⟩
  simp only [State.hostFetch, hg, hc, Bool.false_eq_true, if_false, if_true, List.foldl_cons, List.foldl_nil]

/-- A host read under a stream core's ID keeps the length, denied blocks as zeros. -/
theorem hostReadUnder_length (s : State) (mid addr : Nat) (b : List Byte) : (hostReadUnder s mid addr b).1.length = b.length := by
  have h := foldl_blocksOf (addr := addr) (f := hostReadBlock mid addr b) (P := fun o p => p.1.length = o) (Nat.le_succ b.length)
    (show (([], s) : List Byte × State).1.length = 0 from rfl) ?_
  · rwa [Nat.zero_add] at h
  rintro ⟨o, k⟩ hp ⟨x, u⟩ hx
  have hin := blocksOf_within _ _ _ _ _ hp
  dsimp only at hin hx
  unfold hostReadBlock
  split
  · simp only [List.length_append, List.length_take, List.length_drop, hx]
    omega
  · simp only [List.length_append, List.length_replicate, hx]

theorem frame_hostReadUnder_self (s : State) (mid addr : Nat) (b : List Byte) : Frame eventParts s (hostReadUnder s mid addr b).2 :=
  frame_hostReadUnder (by decide) (.refl _ s)

/-- A host read that the MPU allows gives the bytes. -/
theorem hostReadUnder_allowed {s : State} {mid addr : Nat} {b : List Byte} (ha : s.apertureBase ≤ addr)
    (h : mpuAllows s mid (s.hostInternal addr) b.length = true) : hostReadUnder s mid addr b = (b, s) := by
  have hall := foldl_blocksOf (addr := addr) (f := hostReadBlock mid addr b) (P := fun o p => p = (b.take o, s)) (Nat.le_succ b.length)
    (show (([], s) : List Byte × State) = (b.take 0, s) by simp) ?_
  · rwa [Nat.zero_add, List.take_length] at hall
  rintro ⟨o, k⟩ hp y rfl
  have hin := blocksOf_within _ _ _ _ _ hp
  dsimp only at hin
  have hok : mpuOk s mid (s.hostInternal (addr + o)) k = true := mpuOk_of_allows (mpuAllows_part h
    (by unfold State.hostInternal; omega) (by unfold State.hostInternal; omega))
  simp only [hostReadBlock, hok, if_true, List.take_add]

/-! ## The ring (R144, R175) -/

/-- A context behind bytes that its ring has taken. -/
def ringFilled (r : CtxRec) (n clk : Nat) : CtxRec := { r with wr := (r.wr + n) % r.esSize, total := r.total + n, lastByte := clk }

section
variable (s : State) (i : Nat) (b : List Byte)

/-- The state in which the bytes before the ring's end are stored. -/
def ringHead : State :=
  s.wr (0x08 + (s.ctx i).engine) ((s.ctx i).esBase + (s.ctx i).wr) (b.take (min b.length ((s.ctx i).esSize - (s.ctx i).wr)))

/-- The state in which all of them are. -/
def ringBytes : State :=
  if min b.length ((s.ctx i).esSize - (s.ctx i).wr) < b.length then
    (ringHead s i b).wr (0x08 + (s.ctx i).engine) (s.ctx i).esBase (b.drop (min b.length ((s.ctx i).esSize - (s.ctx i).wr)))
  else ringHead s i b

theorem ringCopy_eq : ∃ clk, ringCopy s i b = (ringBytes s i b).setCtx i (ringFilled (s.ctx i) b.length clk) := ⟨_, rfl⟩

theorem ringCopy_mem : (ringCopy s i b).mem = (ringBytes s i b).mem := rfl

theorem ringCopy_ctx : ∃ clk, (ringCopy s i b).ctx i = ringFilled (s.ctx i) b.length clk := by
  obtain ⟨clk, e⟩ := ringCopy_eq s i b
  exact ⟨clk, by rw [e, State.ctx_setCtx]⟩

variable {s i b}

/-- Bytes that the ring can hold go into the ring alone. -/
theorem ringBytes_outside (hm : MemOk s) (hwr : (s.ctx i).wr < (s.ctx i).esSize) (hb : b.length ≤ (s.ctx i).esSize) {x : Nat}
    (hx : ¬ onRing (s.ctx i).esBase (s.ctx i).esSize (s.ctx i).wr b.length x) : memGet (ringBytes s i b).mem x = memGet s.mem x := by
  have h1 : Stores (onRing (s.ctx i).esBase (s.ctx i).esSize (s.ctx i).wr b.length) s (ringHead s i b) := stores_wr _ _ _ _ fun y hy => by
    simp only [inRange, List.length_take] at hy
    refine ⟨y - (s.ctx i).esBase - (s.ctx i).wr, by omega, ?_⟩
    rw [Nat.mod_eq_of_lt (by omega)]
    omega
  have h2 : Stores (onRing (s.ctx i).esBase (s.ctx i).esSize (s.ctx i).wr b.length) (ringHead s i b)
      ((ringHead s i b).wr (0x08 + (s.ctx i).engine) (s.ctx i).esBase (b.drop (min b.length ((s.ctx i).esSize - (s.ctx i).wr)))) :=
    stores_wr _ _ _ _ fun y hy => by
      simp only [inRange, List.length_drop] at hy
      refine ⟨y - (s.ctx i).esBase + ((s.ctx i).esSize - (s.ctx i).wr), by omega, ?_⟩
      have e : (s.ctx i).wr + (y - (s.ctx i).esBase + ((s.ctx i).esSize - (s.ctx i).wr)) = y - (s.ctx i).esBase + (s.ctx i).esSize := by omega
      rw [e, Nat.add_mod_right, Nat.mod_eq_of_lt (by omega)]
      omega
  unfold ringBytes
  split
  · exact (h1.trans h2).mem hm x hx
  · exact h1.mem hm x hx

/-- Bytes that reach memory stand in the ring, wrapped at its end. -/
theorem ringBytes_stored (hm : MemOk s) (hw : Writable s (0x08 + (s.ctx i).engine) (s.ctx i).esBase (s.ctx i).esSize)
    (hwr : (s.ctx i).wr < (s.ctx i).esSize) (hb : b.length ≤ (s.ctx i).esSize) {k : Nat} (hk : k < b.length) :
    memGet (ringBytes s i b).mem ((s.ctx i).esBase + ((s.ctx i).wr + k) % (s.ctx i).esSize) = b.getD k 0 := by
  set r := s.ctx i with hr
  have h1 : StoredTo s (0x08 + r.engine) r.esBase r.esSize (r.esBase + r.wr) (b.take (min b.length (r.esSize - r.wr)))
      (b.take (min b.length (r.esSize - r.wr))).length (ringHead s i b) :=
    hw.wr hm (by omega) (by rw [List.length_take]; omega)
  have hlen : (b.take (min b.length (r.esSize - r.wr))).length = min b.length (r.esSize - r.wr) := by rw [List.length_take]; omega
  rw [hlen] at h1
  unfold ringBytes
  rw [← hr]
  by_cases hin : r.wr + k < r.esSize
  · have hfirst : memGet (ringHead s i b).mem (r.esBase + (r.wr + k)) = b.getD k 0 := by
      rw [h1.get, if_pos (by omega), show r.esBase + (r.wr + k) - (r.esBase + r.wr) = k by omega, List.getD_eq_getElem?_getD,
        List.getElem?_take_of_lt (by omega), List.getD_eq_getElem?_getD]
    rw [Nat.mod_eq_of_lt hin]
    split
    · rw [(h1.more.wr h1.ok (le_refl _) (by rw [List.length_drop]; omega)).get, List.length_drop, if_neg (by omega), hfirst]
    · exact hfirst
  · have hmod : (r.wr + k) % r.esSize = r.wr + k - r.esSize := by
      rw [Nat.mod_eq_sub_mod (by omega), Nat.mod_eq_of_lt (by omega)]
    rw [hmod, if_pos (by omega), (h1.more.wr h1.ok (le_refl _) (by rw [List.length_drop]; omega)).get, List.length_drop, if_pos (by omega),
      List.getD_eq_getElem?_getD, List.getElem?_drop, List.getD_eq_getElem?_getD]
    congr 2
    omega

end

end Sys2Proof.Machine

/-! SUPPORT. STREAM_FEED: a feed that the ring takes, one that waits, and the commands of the streams' input and pools. -/

namespace Sys2Proof.Machine

/-! ## Parameter sets (R141, R172) -/

/-- A context but for what parameter sets change of it. -/
def CtxRec.stable (r : CtxRec) : CtxRec := { r with state := 0, sps := [], setsSeen := 0 }

theorem setCtxState_stable (s : State) (i new : Nat) : CtxKept CtxRec.stable i s (setCtxState s i new) :=
  ⟨(setCtxState_kept s i new).others, by rw [setCtxState_ctx]; rfl, (setCtxState_kept s i new).done⟩

theorem takeSet_stable (s : State) (i : Nat) (p : ParamSet) : CtxKept CtxRec.stable i s (takeSet s i p) := by
  unfold takeSet
  split
  · exact .refl s
  · extract_lets -merge -underBinder +onlyGivenNames x t st
    have ht : CtxKept CtxRec.stable i s t := (CtxKept.refl s).setCtx rfl
    exact .ite (.ite ht (ht.trans (setCtxState_stable t i 3))) (.ite (ht.trans (setCtxState_stable t i 2)) ht)

theorem takeLead_stable (s : State) (i : Nat) (ps : List ParamSet) : CtxKept CtxRec.stable i s (takeLead s i ps) := by
  have h : CtxKept CtxRec.stable i s (s.setCtx i { s.ctx i with setsSeen := (s.ctx i).setsSeen + ps.length }) := (CtxKept.refl s).setCtx rfl
  exact h.trans (CtxKept.foldl (fun t p => takeSet_stable t i p) ps _)

/-- What of a context decides which parameter sets it accepts. -/
def CtxRec.limits (r : CtxRec) : Nat × Nat × Nat := (r.codec, r.maxW, r.maxH)

/-- Whether a parameter set is refused rests on the pool and on the context's limits. -/
theorem setReason_congr {s t : State} {i : Nat} (hr : (t.ctx i).limits = (s.ctx i).limits) (hs : t.surf = s.surf) (p : ParamSet) :
    setReason t i p = setReason s i p := by
  obtain ⟨hcodec, hw, hh⟩ : (t.ctx i).codec = (s.ctx i).codec ∧ (t.ctx i).maxW = (s.ctx i).maxW ∧ (t.ctx i).maxH = (s.ctx i).maxH := by
    simpa [CtxRec.limits] using hr
  cases p with
  | sps id q n => simp only [setReason, spsRefusal, hcodec, hw, hh, surface_of_surf hs]
  | bad n => rfl

/-! ## A feed that the ring takes (R146) -/

/-- A context whose ring holds one more chunk. -/
def pushChunk (r : CtxRec) (k : ChunkRec) : CtxRec := { r with ring := r.ring ++ [k] }

theorem pushChunk_occ (r : CtxRec) (k : ChunkRec) : (pushChunk r k).occ = r.occ + k.len := by
  simp [pushChunk, CtxRec.occ, List.foldl_append]

/-- What the ring notes of a feed's bytes. -/
def feedChunk (s : State) (f : FeedRec) : ChunkRec :=
  { len := f.buf.length, gap := if bit (f.job.n 17 1) 0 then 10 else 0, epoch := if f.job.n 40 8 = 0 then f.arrived else f.job.n 40 8,
    arrival := f.job.n 40 8 == 0, used := false, at_ := s.ft.toNat, starts := true, closes := true, ends := bit (f.job.n 17 1) 1,
    bare := !f.sets.slices }

section
variable (s : State) (i : Nat) (f : FeedRec) (fs : List FeedRec)

/-- The state in which a feed no longer waits. -/
def feedTaken : State := s.setCtx i { s.ctx i with feeds := fs }

/-- The state in which its bytes are in the ring. -/
def feedStored : State :=
  (ringCopy (feedTaken s i fs) i f.buf).setCtx i (pushChunk ((ringCopy (feedTaken s i fs) i f.buf).ctx i) (feedChunk s f))

/-- The state in which its parameter sets have been read. -/
def feedRead : State :=
  let u := reportSets (feedStored s i f fs) i f.sets.all
  if (s.ctx i).cur.isNone && (s.ctx i).ring.all (·.bare) then takeLead u i f.sets.lead else u

/-- UNSUPPORTED for a parameter set of a profile or tool that is not decoded. -/
def feedStatus : Status := if f.sets.all.any (fun p => setReason s i p == 1) then .unsupported else .done

theorem feedStored_ctx : ∃ clk, (feedStored s i f fs).ctx i
    = pushChunk (ringFilled { s.ctx i with feeds := fs } f.buf.length clk) (feedChunk s f) := by
  obtain ⟨clk, e⟩ := ringCopy_ctx (feedTaken s i fs) i f.buf
  exact ⟨clk, by rw [feedStored, State.ctx_setCtx, e, feedTaken, State.ctx_setCtx]⟩

theorem feedStored_mem : (feedStored s i f fs).mem = (ringBytes (feedTaken s i fs) i f.buf).mem := rfl

theorem frame_feedStored : Frame feedParts s (feedStored s i f fs) :=
  frame_State_setCtx (by decide) (frame_ringCopy (by decide) (frame_State_setCtx (by decide) (.refl _ s)))

/-- Parameter sets that are read write no memory and no pool. -/
theorem frame_feedRead : Frame (.dec :: eventParts) (feedStored s i f fs) (feedRead s i f fs) := by
  have hr := frame_reportSets (m := .dec :: eventParts) (v1 := i) (v2 := f.sets.all) (by decide) (.refl _ (feedStored s i f fs))
  exact .ite (frame_takeLead (by decide) hr) hr

theorem feedRead_stable : ((feedRead s i f fs).ctx i).stable = ((feedStored s i f fs).ctx i).stable := by
  have hr : CtxKept CtxRec.stable i (feedStored s i f fs) (reportSets (feedStored s i f fs) i f.sets.all) :=
    (CtxKept.refl _).frame (frame_reportSets (by decide) (.refl _ _))
  exact (CtxKept.ite (hr.trans (takeLead_stable _ i f.sets.lead)) hr).same

variable {s i f fs}

/-- The first waiting feed goes into the ring where it fits. -/
theorem pumpFeeds_fits (n : Nat) (h : (s.ctx i).feeds = f :: fs) (hh : f.here = true) (hf : (s.ctx i).occ + f.buf.length ≤ (s.ctx i).esSize) :
    pumpFeeds (n + 1) s i = pumpFeeds n ((feedRead s i f fs).finish f.job (feedStatus (feedRead s i f fs) i f) 0 0) i := by
  rw [pumpFeeds]
  simp only [h, hh, hf, and_self, if_true]
  rfl

/-- A first feed that does not fit holds back all behind it. -/
theorem pumpFeeds_stuck (n : Nat) (h : (s.ctx i).feeds = f :: fs) (hn : f.here = false ∨ (s.ctx i).esSize < (s.ctx i).occ + f.buf.length) :
    pumpFeeds n s i = s := by
  cases n with
  | zero => rfl
  | succ n =>
    rw [pumpFeeds]
    simp only [h]
    rw [if_neg]
    rintro ⟨hh, hf⟩
    rcases hn with hn | hn
    · simp [hn] at hh
    · omega

end

/-! ## A feed that comes (R146, R175) -/

/-- A feed that waits for its bytes. -/
def askedFeed (s : State) (j : Job) (sets : FeedSets) : FeedRec := { job := j, buf := [], here := false, sets := sets, arrived := s.ft.toNat }

/-- A feed that has its bytes. -/
def givenFeed (s : State) (j : Job) (sets : FeedSets) (b : List Byte) : FeedRec := { askedFeed s j sets with buf := b, here := true }

/-- The state in which a feed waits as the last one of its context. -/
def feedAsked (s : State) (j : Job) (sets : FeedSets) : State :=
  s.setCtx (j.n 16 1) { s.ctx (j.n 16 1) with feeds := (s.ctx (j.n 16 1)).feeds ++ [askedFeed s j sets] }

theorem giveBytes_last {j : Job} {fs : List FeedRec} (h : ∀ g ∈ fs, g.job ≠ j) (s : State) (sets : FeedSets) (b : List Byte) :
    giveBytes j b (fs ++ [askedFeed s j sets]) = fs ++ [givenFeed s j sets b] := by
  induction fs with
  | nil => simp [giveBytes, askedFeed, givenFeed]
  | cons g fs ih =>
    have hg : (g.job == j) = false := beq_false_of_ne (h g List.mem_cons_self)
    rw [List.cons_append, giveBytes, hg, ih fun k hk => h k (List.mem_cons_of_mem _ hk)]
    rfl

section
variable {s : State} {c : Cmd} {buf : List Byte} {sets : FeedSets}

theorem exec_streamFeed (hs : Starts s (.streamFeed c buf sets) c) (ha : Admits s c feedSpec) :
    exec (.streamFeed c buf sets) s = .next ((feedAsked (begun s c) c.job sets).hostFetch c.job [(c.job.n 24 8, c.job.n 32 4)] buf
      fun s b => feedHere s c.job b) := by
  have e : exec (.streamFeed c buf sets) s = .next (gate s (.streamFeed c buf sets) c fun u j => doFeed u j buf sets) := rfl
  rw [e, gate_starts _ hs, doFeed, runJob_admits _ ha]
  rfl

theorem apertureBase_frame {m : List Part} {s t : State} (hf : Frame m s t) (hm : Part.sysCtl ∉ m ∧ Part.otp ∉ m ∧ Part.straps ∉ m) :
    t.apertureBase = s.apertureBase := by
  have hr : t.regs.get? Reg.SYS_APERTURE_HI = s.regs.get? Reg.SYS_APERTURE_HI := hf.keep .sysCtl hm.1 _ (by decide) (by decide)
  have ho : t.otp = s.otp := hf.keep .otp hm.2.1
  have hs : t.straps = s.straps := hf.keep .straps hm.2.2
  simp only [State.apertureBase, State.reg, hr, regReset, specialReset, ho, hs]

/-- The host range of an admitted feed begins in the aperture. -/
theorem feed_aperture (ha : Admits s c feedSpec) : s.apertureBase ≤ c.job.n 24 8 := by
  have h := own_passes ha (chkAperture (begun s c) (c.job.n 24 8) (c.job.n 32 4)) (by simp [feedSpec])
  have hin := chk_eq_none.mp h
  simp only [inAperture, Bool.not_eq_false', Bool.and_eq_true, decide_eq_true_eq] at hin
  exact hin.1

theorem frame_feedAsked (s : State) (j : Job) (sets : FeedSets) : Frame [.dec] s (feedAsked s j sets) :=
  frame_State_setCtx (List.Subset.refl _) (.refl _ s)

theorem feedAsked_ctx (s : State) (j : Job) (sets : FeedSets) :
    (feedAsked s j sets).ctx (j.n 16 1) = { s.ctx (j.n 16 1) with feeds := (s.ctx (j.n 16 1)).feeds ++ [askedFeed s j sets] } :=
  State.ctx_setCtx _ _ _

/-- A state in which a command's feed waits with its bytes b, its context as it was otherwise. -/
structure FeedGiven (s : State) (c : Cmd) (buf : List Byte) (sets : FeedSets) (b : List Byte) (w : State) : Prop where
  frame  : Frame (.dec :: eventParts) (begun s c) w
  ctx    : w.ctx (c.job.n 16 1) = { s.ctx (c.job.n 16 1) with
    feeds := (s.ctx (c.job.n 16 1)).feeds ++ [givenFeed (begun s c) c.job sets b] }
  length : b.length = c.job.n 32 4
  bytes  : mpuAllows s (0x08 + (s.ctx (c.job.n 16 1)).engine) (s.hostInternal (c.job.n 24 8)) (c.job.n 32 4) = true →
    b = hostData s buf (c.job.n 32 4)

/-- An admitted feed whose host bytes are there gets them, and goes into the ring as there is room. -/
theorem streamFeed_given (hs : Starts s (.streamFeed c buf sets) c) (ha : Admits s c feedSpec) (hb : BytesHere s)
    (hj : ∀ g ∈ (s.ctx (c.job.n 16 1)).feeds, g.job ≠ c.job) :
    ∃ b w n, exec (.streamFeed c buf sets) s = .next (pumpFeeds (n + 1) w (c.job.n 16 1)) ∧ FeedGiven s c buf sets b w := by
  obtain ⟨u, b0, he, hu, hslice⟩ := hostFetch_here (s := feedAsked (begun s c) c.job sets) hb c.job (c.job.n 24 8) (c.job.n 32 4) buf
    fun s b => feedHere s c.job b
  have hfu : Frame [.dec, .out] (begun s c) u := ((frame_feedAsked _ _ _).mono (by decide)).trans (hu.mono (by decide))
  have hctx : u.ctx (c.job.n 16 1) = (feedAsked (begun s c) c.job sets).ctx (c.job.n 16 1) := ctx_of_dec (hu.keep .dec (by decide)) _
  rw [feedAsked_ctx] at hctx
  have hlen : (slice b0 0 (c.job.n 32 4)).length = c.job.n 32 4 := slice_length _ _ _
  obtain ⟨b, v, hbv⟩ : ∃ b v, hostReadUnder u (0x08 + (u.ctx (c.job.n 16 1)).engine) (c.job.n 24 8) (slice b0 0 (c.job.n 32 4)) = (b, v) :=
    ⟨_, _, rfl⟩
  have hv : Frame eventParts u v := by
    have h := frame_hostReadUnder_self u (0x08 + (u.ctx (c.job.n 16 1)).engine) (c.job.n 24 8) (slice b0 0 (c.job.n 32 4))
    rwa [hbv] at h
  have hvc : v.ctx (c.job.n 16 1) = u.ctx (c.job.n 16 1) := ctx_of_dec (hv.keep .dec (by decide)) _
  have hgive : giveBytes c.job b (v.ctx (c.job.n 16 1)).feeds
      = (s.ctx (c.job.n 16 1)).feeds ++ [givenFeed (begun s c) c.job sets b] := by
    rw [hvc, hctx]
    exact giveBytes_last hj _ _ _
  refine ⟨b, feedTaken v (c.job.n 16 1) (giveBytes c.job b (v.ctx (c.job.n 16 1)).feeds),
    (giveBytes c.job b (v.ctx (c.job.n 16 1)).feeds).length, ?_, ?_, ?_, ?_, fun hm => ?_⟩
  · rw [exec_streamFeed hs ha, he, feedHere, hbv]
    rfl
  · exact frame_State_setCtx (by decide) ((hfu.mono (by decide)).trans (hv.mono (by decide)))
  · rw [feedTaken, State.ctx_setCtx, hgive, hvc, hctx]
    rfl
  · have h := hostReadUnder_length u (0x08 + (u.ctx (c.job.n 16 1)).engine) (c.job.n 24 8) (slice b0 0 (c.job.n 32 4))
    rw [hbv, hlen] at h
    exact h
  · have hi : u.hostInternal (c.job.n 24 8) = s.hostInternal (c.job.n 24 8) := hostInternal_frame (s := begun s c) hfu (by decide) _
    have hbase : u.apertureBase ≤ c.job.n 24 8 := (apertureBase_frame (s := begun s c) hfu (by decide)).trans_le (feed_aperture ha)
    have hall := hostReadUnder_allowed (mid := 0x08 + (u.ctx (c.job.n 16 1)).engine) (b := slice b0 0 (c.job.n 32 4)) hbase (by
      rw [hi, hlen, mpuAllows_mpu (s := s) (hfu.keep .mpu (by decide)), hctx]
      exact hm)
    rw [hbv] at hall
    exact (congrArg Prod.fst hall).trans hslice

/-- A state that differs from the start of a command by its feed and by events has its memory, its pools and its MPU. -/
theorem FeedGiven.mem {b : List Byte} {w : State} (h : FeedGiven s c buf sets b w) : w.mem = s.mem := h.frame.mem_eq (by decide)

theorem FeedGiven.writable {b : List Byte} {w : State} (h : FeedGiven s c buf sets b w) {mid lo n : Nat} (hw : Writable s mid lo n) :
    Writable w mid lo n :=
  Writable.of_frame (s := begun s c) ⟨hw.frozen, hw.awake, hw.allows, hw.usable⟩ h.frame (by decide)

/-- The state behind a feed that the ring has taken, before it completes. -/
def feedOver (s : State) (c : Cmd) (sets : FeedSets) (b : List Byte) (w : State) : State :=
  feedRead w (c.job.n 16 1) (givenFeed (begun s c) c.job sets b) []

theorem feedOver_mem (s : State) (c : Cmd) (sets : FeedSets) (b : List Byte) (w : State) :
    (feedOver s c sets b w).mem = (ringBytes (feedTaken w (c.job.n 16 1) []) (c.job.n 16 1) b).mem :=
  ((frame_feedRead _ _ _ _).mem_eq (by decide)).trans (feedStored_mem _ _ _ _)

section
variable {b : List Byte} {w : State} (hw : FeedGiven s c buf sets b w)
include hw

theorem frame_feedOver : Frame feedParts (begun s c) (feedOver s c sets b w) :=
  (hw.frame.mono (by decide)).trans ((frame_feedStored _ _ _ _).trans ((frame_feedRead _ _ _ _).mono (by decide)))

/-- The context behind a feed: its ring holds the bytes, no feed waits, and its limits are the same. -/
theorem feedOver_ctx {r : CtxRec} (hr : s.ctx (c.job.n 16 1) = r) :
    ((feedOver s c sets b w).ctx (c.job.n 16 1)).occ = r.occ + c.job.n 32 4
    ∧ ((feedOver s c sets b w).ctx (c.job.n 16 1)).total = r.total + c.job.n 32 4
    ∧ ((feedOver s c sets b w).ctx (c.job.n 16 1)).feeds = []
    ∧ ((feedOver s c sets b w).ctx (c.job.n 16 1)).wr = (r.wr + c.job.n 32 4) % r.esSize
    ∧ ((feedOver s c sets b w).ctx (c.job.n 16 1)).limits = r.limits := by
  subst hr
  obtain ⟨clk, hctx⟩ := feedStored_ctx w (c.job.n 16 1) (givenFeed (begun s c) c.job sets b) []
  have key := feedRead_stable w (c.job.n 16 1) (givenFeed (begun s c) c.job sets b) []
  rw [hctx, hw.ctx] at key
  rw [← hw.length]
  exact ⟨(congrArg (·.occ) key).trans (pushChunk_occ _ _), congrArg (·.total) key, congrArg (·.feeds) key, congrArg (·.wr) key,
    congrArg (·.limits) key⟩

/-- Which parameter sets a context refuses is the same behind a feed. -/
theorem feedOver_reason (p : ParamSet) : setReason (feedOver s c sets b w) (c.job.n 16 1) p = setReason s (c.job.n 16 1) p := by
  obtain ⟨-, -, -, -, hlimits⟩ := feedOver_ctx hw rfl
  exact setReason_congr hlimits ((frame_feedOver hw).keep .surf (by decide)) p

theorem feedTaken_ctx : (feedTaken w (c.job.n 16 1) []).ctx (c.job.n 16 1) = { s.ctx (c.job.n 16 1) with feeds := [] } := by
  rw [feedTaken, State.ctx_setCtx, hw.ctx]

theorem feedTaken_memOk (hm : MemOk s) : MemOk (feedTaken w (c.job.n 16 1) []) := by
  have e : (feedTaken w (c.job.n 16 1) []).mem = s.mem := hw.mem
  rwa [MemOk, e]

/-- The bytes of a feed that reach memory stand in the ring. -/
theorem feedOver_stored {r : CtxRec} (hr : s.ctx (c.job.n 16 1) = r) (hm : MemOk s)
    (hring : Writable s (0x08 + r.engine) r.esBase r.esSize) (hwr : r.wr < r.esSize) (hlen : b.length ≤ r.esSize)
    {k : Nat} (hk : k < c.job.n 32 4) :
    memGet (feedOver s c sets b w).mem (r.esBase + (r.wr + k) % r.esSize) = b.getD k 0 := by
  subst hr
  have h := ringBytes_stored (s := feedTaken w (c.job.n 16 1) []) (i := c.job.n 16 1) (b := b) (k := k) (feedTaken_memOk hw hm)
  rw [feedTaken_ctx hw] at h
  rw [feedOver_mem]
  exact h ((hw.writable hring).of_frame (frame_State_setCtx (List.Subset.refl _) (.refl _ w)) (by decide)) hwr hlen (hw.length ▸ hk)

/-- Outside its place in the ring a feed changes no byte. -/
theorem feedOver_outside {r : CtxRec} (hr : s.ctx (c.job.n 16 1) = r) (hm : MemOk s) (hwr : r.wr < r.esSize)
    (hlen : b.length ≤ r.esSize) {x : Nat} (hx : ¬ onRing r.esBase r.esSize r.wr (c.job.n 32 4) x) :
    memGet (feedOver s c sets b w).mem x = memGet s.mem x := by
  subst hr
  have h := ringBytes_outside (s := feedTaken w (c.job.n 16 1) []) (i := c.job.n 16 1) (b := b) (x := x) (feedTaken_memOk hw hm)
  rw [feedTaken_ctx hw] at h
  rw [feedOver_mem, h hwr hlen (by rwa [hw.length]), ← hw.mem]
  rfl

end

/-- R146: a feed that fits and stands first goes into the ring, and completes. -/
theorem streamFeed_fits {r : CtxRec} (hr : s.ctx (c.job.n 16 1) = r) (hs : Starts s (.streamFeed c buf sets) c) (ha : Admits s c feedSpec)
    (hb : BytesHere s) (h0 : r.feeds = []) (hfit : r.occ + c.job.n 32 4 ≤ r.esSize) :
    ∃ b w, FeedGiven s c buf sets b w ∧ exec (.streamFeed c buf sets) s = .next ((feedOver s c sets b w).finish c.job
      (if sets.all.any (fun p => setReason s (c.job.n 16 1) p == 1) then .unsupported else .done) 0 0) := by
  subst hr
  obtain ⟨b, w, n, he, hw⟩ := streamFeed_given hs ha hb (by simp [h0])
  have hfeeds : (w.ctx (c.job.n 16 1)).feeds = [givenFeed (begun s c) c.job sets b] := by rw [hw.ctx, h0]; rfl
  have hroom : (w.ctx (c.job.n 16 1)).occ + b.length ≤ (w.ctx (c.job.n 16 1)).esSize := by rw [hw.ctx, hw.length]; exact hfit
  have hstatus : feedStatus (feedOver s c sets b w) (c.job.n 16 1) (givenFeed (begun s c) c.job sets b)
      = if sets.all.any (fun p => setReason s (c.job.n 16 1) p == 1) then .unsupported else .done := by
    simp only [feedStatus, feedOver_reason hw]
    rfl
  obtain ⟨-, -, hempty, -⟩ := feedOver_ctx hw rfl
  refine ⟨b, w, hw, ?_⟩
  rw [he, pumpFeeds_fits n hfeeds rfl hroom, pumpFeeds_empty]
  · exact congrArg (fun st => Host.Outcome.next ((feedOver s c sets b w).finish c.job st 0 0)) hstatus
  · rw [ctx_of_dec (finish_dec _ _ _ _ _)]
    exact hempty

/-- R146, R147: a feed that does not fit, or stands behind one that does not, waits. -/
theorem streamFeed_waits {r : CtxRec} (hr : s.ctx (c.job.n 16 1) = r) (hs : Starts s (.streamFeed c buf sets) c) (ha : Admits s c feedSpec)
    (hb : BytesHere s)
    (hx : r.feeds = [] ∧ r.occ + c.job.n 32 4 > r.esSize
      ∨ ∃ f fs, r.feeds = f :: fs ∧ (f.here = false ∨ r.occ + f.buf.length > r.esSize) ∧ ∀ g ∈ f :: fs, g.job ≠ c.job) :
    ∃ b w, FeedGiven s c buf sets b w ∧ exec (.streamFeed c buf sets) s = .next w := by
  subst hr
  have hj : ∀ g ∈ (s.ctx (c.job.n 16 1)).feeds, g.job ≠ c.job := by
    rcases hx with ⟨h0, -⟩ | ⟨f, fs, hf, -, hj⟩
    · simp [h0]
    · rwa [hf]
  obtain ⟨b, w, n, he, hw⟩ := streamFeed_given hs ha hb hj
  refine ⟨b, w, hw, ?_⟩
  rw [he]
  rcases hx with ⟨h0, hfull⟩ | ⟨f, fs, hf, hstuck, -⟩
  · rw [pumpFeeds_stuck (f := givenFeed (begun s c) c.job sets b) (fs := []) (n + 1) (by rw [hw.ctx, h0]; rfl)]
    refine .inr ?_
    show _ < _ + b.length
    rw [hw.ctx, hw.length]
    exact hfull
  · rw [pumpFeeds_stuck (f := f) (fs := fs ++ [givenFeed (begun s c) c.job sets b]) (n + 1) (by rw [hw.ctx, hf]; rfl)]
    rw [hw.ctx]
    exact hstuck

/-- R129: on a claimed device a feed waits for its bytes. -/
theorem streamFeed_awaits (hs : Starts s (.streamFeed c buf sets) c) (ha : Admits s c feedSpec) (hg : s.isGateway = false)
    (hc : s.fab.claimed = true) :
    ∃ t, exec (.streamFeed c buf sets) s = .next t ∧ Awaits s t c ∧ t.mem = s.mem
      ∧ t.ctx (c.job.n 16 1) = { s.ctx (c.job.n 16 1) with feeds := (s.ctx (c.job.n 16 1)).feeds ++ [askedFeed (begun s c) c.job sets] } := by
  obtain ⟨u, he, hu⟩ := hostFetch_claimed (s := feedAsked (begun s c) c.job sets) hg hc c.job (c.job.n 24 8) (c.job.n 32 4) buf
    fun s b => feedHere s c.job b
  have hf : Frame (.dec :: .mgmt :: eventParts) (begun s c) u := ((frame_feedAsked _ _ _).mono (by decide)).trans (hu.mono (by decide))
  have hdma : u.host.dma = s.host.dma := hf.keep .dma (by decide)
  refine ⟨_, (exec_streamFeed hs ha).trans (congrArg Host.Outcome.next he), ⟨hf.keep .done (by decide), hf.keep .inFlight (by decide), ?_⟩,
    hf.mem_eq (by decide), ?_⟩
  · simp only [hdma]
  · exact (ctx_of_dec (hu.keep .dec (by decide)) _).trans (feedAsked_ctx (begun s c) c.job sets)

end

/-- Settles O15: a feed's bytes reach the ring through ringBytes, a stuck first feed holds back those behind it, and pools are set and freed one by
one. -/
theorem feedsFillTheRingAndPoolsAreSet : Obligations.FeedsFillTheRingAndPoolsAreSet := by
  refine ⟨fun s c buf sets hs ha => ⟨fun hb h0 hfit => ?_, fun hb hx => ?_, fun hg hc => ?_⟩, fun s c hs ha =>
    ⟨fun h1 => surfacePool_sets hs ha h1, fun h0 hk => surfacePool_unset hs ha h0 hk, fun h0 hk hr => surfacePool_frees hs ha h0 hk hr,
      fun h0 hk hr => surfacePool_waits hs ha h0 hk hr⟩⟩
  case refine_1 =>
    obtain ⟨b, w, hw, he⟩ := streamFeed_fits rfl hs ha hb h0 hfit
    obtain ⟨hocc, htotal, hfeeds, hwr, -⟩ := feedOver_ctx hw rfl
    have hlen : b.length ≤ (s.ctx (c.job.n 16 1)).esSize := by
      have := hw.length
      omega
    refine ⟨_, he, ?_, ?_, ?_, ?_, (frame_feedOver hw).finish_ends (by decide), fun hm hfz hsr hread hring huse hlt k hk => ?_,
      fun hm hlt x hx => ?_⟩
    · rwa [ctx_of_dec (finish_dec _ _ _ _ _)]
    · rwa [ctx_of_dec (finish_dec _ _ _ _ _)]
    · rwa [ctx_of_dec (finish_dec _ _ _ _ _)]
    · rwa [ctx_of_dec (finish_dec _ _ _ _ _)]
    · rw [finish_mem, feedOver_stored hw rfl hm ⟨hfz, hsr, hring, huse⟩ hlt hlen hk, hw.bytes hread]
    · rw [finish_mem, feedOver_outside hw rfl hm hlt hlen hx]
  case refine_2 =>
    obtain ⟨b, w, hw, he⟩ := streamFeed_waits rfl hs ha hb hx
    exact ⟨w, he, by rw [hw.ctx], hw.frame.keep .done (by decide), hw.mem, _, by rw [hw.ctx], rfl, rfl, rfl, hw.length⟩
  case refine_3 =>
    obtain ⟨t, he, hwait, hmem, hctx⟩ := streamFeed_awaits hs ha hg hc
    exact ⟨t, he, hwait, by rw [hctx], hmem, _, by rw [hctx], rfl, rfl, rfl⟩

end Sys2Proof.Machine

/-! SUPPORT. VBLANK_LINE_BOUNDARY at the frame boundary whose commit brings the tile that paces the output. -/

namespace Sys2Proof.Machine

/-- A LAYER block of pipe 0, layer 0, with one record, of member 0 and KIND pool (R203). -/
def tileLayer : List Byte :=
  blockHeader bLAYER 0 0 176 ++ [1, 1] ++ List.replicate 110 0 ++ [0, 0, 1] ++ List.replicate 45 0

/-- The pool that the record shows. -/
def shownPool : SurfRec :=
  { format := 0x10, buffers := 2, reduce := 0, width := 64, height := 64, pitch := 256, base := 0x200000, stride := 0x8000, rpitch := 0, roff := 0,
    block := 0x100000 }

/-- An accepted COMMIT of output 0, which applies at its next boundary (R209). -/
def dueCommit : CommitRec :=
  { job := { org := .ring 0 0, desc := BitVec.ofNat 512 (0x31 + 1 * 2 ^ (8 * 16)) }, outs := 1, stage := 2, left := 1, late := 0, skip := 0, recId := 0,
    sentAt := 0 }

/-- A device with PD7 on and its MPU open, whose output 0 runs in mode 1 and is source-paced by tile 0 (R222): its sink is adaptive and trained, its
first line boundary of vertical blanking is to come, and the commit that is due there brings the record of tile 0. -/
def committingDevice : State :=
  { State.reset with
    sys := { State.reset.sys with
      power := { State.reset.sys.power with on := 0x285 }
      mpu := [(0, { en := true, lock := false, base := 0, lim := 0xFEFFFFF, mask := BitVec.ofNat 64 (2 ^ 64 - 1) })] }
    surf := { State.reset.surf with surfs := [(0, shownPool)] }
    cmp := { State.reset.cmp with shd := [(blockKey bLAYER 0 0, tileLayer)] }
    commits := [dueCommit]
    scan := { State.reset.scan with
      tgs := [(0, { TgRec.init with running := true, started := true, cfg := { ModeCfg.init with idx := 1, timing := 2, paceMax := 16800000 } })]
      dps := [(0, { DpRec.init with hpd := true, trained := true, caps := { DpRec.init.caps with adaptive := true } })] } }

/-- No tile paces the output before the boundary. -/
theorem committingDevice_unpaced : pacingRecord committingDevice 0 = none := by decide +kernel

/-- The commit applies first (R209), and the boundary finds the output paced. -/
theorem committingDevice_paces : ((doVblankLine committingDevice 0).tg 0).pacing = true := by decide +kernel

/-- Refutes O32: a line boundary of an output that no tile paced before it does not always leave it unpaced. The first one of vertical blanking is the
frame boundary with its commit (R209, R223), and that of committingDevice brings the tile that paces its output. -/
theorem not_modesApplyAndFramesStart : ¬ Obligations.ModesApplyAndFramesStart := by
  intro h
  obtain ⟨-, hboundary⟩ := h.2 committingDevice 0 (by decide) rfl rfl rfl
  obtain ⟨m, hm⟩ := Option.isSome_iff_exists.mp (show (modeInfo (committingDevice.tg 0).cfg.idx).isSome = true by decide)
  obtain ⟨t, ht, -, hunpaced, -⟩ := (hboundary m rfl hm).1 committingDevice_unpaced
  have he : onDomain committingDevice 7 (fun s => doVblankLine s 0) = t := Host.Outcome.next.inj ht
  rw [onDomain, if_pos (by decide)] at he
  have hpaced : (t.tg 0).pacing = true := by rw [← he]; exact committingDevice_paces
  exact Bool.false_ne_true (hunpaced.symm.trans hpaced)

end Sys2Proof.Machine

/-! SUPPORT. DisplayPort sources: events and the records of scan-out, the start and the loss of a link, and the passes of its training. -/

namespace Sys2Proof.Machine

/-! ## Events and the records of scan-out -/

/-- A frame without scan-out keeps every generator, every source and every rectangle. -/
theorem Frame.dp_eq {m : List Part} {s t : State} (h : Frame m s t) (hm : Part.scan ∉ m) (k : Nat) : t.dp k = s.dp k := by
  have e : t.scan = s.scan := h.keep .scan hm
  simp only [State.dp, e]

theorem Frame.tg_eq {m : List Part} {s t : State} (h : Frame m s t) (hm : Part.scan ∉ m) (k : Nat) : t.tg k = s.tg k := by
  have e : t.scan = s.scan := h.keep .scan hm
  simp only [State.tg, e]

theorem Frame.chk_eq {m : List Part} {s t : State} (h : Frame m s t) (hm : Part.scan ∉ m) (k : Nat) : t.chk k = s.chk k := by
  have e : t.scan = s.scan := h.keep .scan hm
  simp only [State.chk, e]

theorem frame_raise (s : State) (code : Nat) (d : List Byte) : Frame eventParts s (s.raise code d) :=
  frame_State_raise (by decide) (Frame.refl _ s)

@[simp] theorem raise_dp (s : State) (code : Nat) (d : List Byte) (k : Nat) : (s.raise code d).dp k = s.dp k :=
  (frame_raise s code d).dp_eq (by decide) k

@[simp] theorem raise_tg (s : State) (code : Nat) (d : List Byte) (k : Nat) : (s.raise code d).tg k = s.tg k :=
  (frame_raise s code d).tg_eq (by decide) k

@[simp] theorem bump_dp (s : State) (o k : Nat) : (s.bump o).dp k = s.dp k := rfl
@[simp] theorem setDp_tg (s : State) (n : Nat) (r : DpRec) (k : Nat) : (s.setDp n r).tg k = s.tg k := rfl
@[simp] theorem setDp_cnt (s : State) (n : Nat) (r : DpRec) (o : Nat) : (s.setDp n r).cnt o = s.cnt o := rfl

/-- The registers of the sources are none of those that events keep. -/
theorem not_counted_dpReg {b n : Nat} (hn : n < 8) (hb : b ∈ [Reg.OUT_DP_TRAIN_FAIL, Reg.OUT_DP_IRQ_HPD, Reg.OUT_DP_TRIM_OVR]) :
    ¬ Counted (b + 0x100 * n) := by
  have hb' : b = 0xA2000C ∨ b = 0xA20010 ∨ b = 0xA20014 := by simpa using hb
  intro hc
  rcases hc.num with hm | ⟨k, hk, hc⟩ | ⟨k, hc | hc | hc | hc | ⟨w, f, hc⟩⟩
  · simp only [List.mem_cons, List.not_mem_nil, or_false] at hm
    omega
  all_goals omega

/-- A counter of a source that counts before an event has counted behind it. -/
theorem raise_bump_cnt {b n : Nat} (hn : n < 8) (hb : b ∈ [Reg.OUT_DP_TRAIN_FAIL, Reg.OUT_DP_IRQ_HPD, Reg.OUT_DP_TRIM_OVR]) (s : State)
    (code : Nat) (d : List Byte) :
    ((s.bump (b + 0x100 * n)).raise code d).cnt (b + 0x100 * n) = min (s.cnt (b + 0x100 * n) + 1) 0xFFFFFFFF := by
  rw [raise_cnt (not_counted_dpReg hn hb)]
  exact State.cnt_bumpBy _ _ _

/-! ## The link of a source (R233 to R235) -/

@[simp] theorem raiseLink_dp (s : State) (n cause k : Nat) : (raiseLink s n cause).dp k = s.dp k := raise_dp s _ _ k
@[simp] theorem raiseLink_tg (s : State) (n cause k : Nat) : (raiseLink s n cause).tg k = s.tg k := raise_tg s _ _ k

/-- A source that begins to train at the highest configuration of its output and its sink (R234). -/
def DpRec.starting (r : DpRec) (c : ModeCfg) : DpRec :=
  { r with
    training := true, retry := false, trained := false, rate := 0, lanes := 0, wholeFrame := false, short := false, limRate := c.rate,
    limLanes := c.lanes, tryRate := min c.rate r.caps.maxRate, tryLanes := min c.lanes r.caps.maxLanes }

/-- A source whose link is lost (R235). -/
def DpRec.lost (r : DpRec) : DpRec := { r with trained := false, rate := 0, lanes := 0, wholeFrame := false, short := false }

theorem dpStart_dp (s : State) (n : Nat) :
    (dpStart s n).dp n = if (s.dp n).hpd = true ∧ (s.tg n).cfg.idx ≠ 0 then (s.dp n).starting (s.tg n).cfg else s.dp n := by
  unfold dpStart
  extract_lets r c
  split
  · exact State.dp_setDp _ _ _
  · rfl

theorem dpRetrain_dp (s : State) (n : Nat) :
    (dpRetrain s n).dp n = if (s.dp n).hpd = true ∧ (s.tg n).cfg.idx ≠ 0 then (s.dp n).starting (s.tg n).cfg else (s.dp n).lost := by
  unfold dpRetrain
  extract_lets r u v
  have hu : u.dp n = (s.dp n).lost := State.dp_setDp _ _ _
  have hv : v.dp n = (s.dp n).lost ∧ v.tg n = s.tg n := by
    unfold v
    split
    · exact ⟨by rw [raiseLink_dp, hu], by rw [raiseLink_tg]; rfl⟩
    · exact ⟨hu, rfl⟩
  rw [dpStart_dp, hv.1, hv.2]
  rfl

/-- The depth of a link decides on its depth and its capacity alone (R233). -/
theorem dpDepth_dp (s : State) (n : Nat) : ∃ b x, (dpDepth s n).dp n = { s.dp n with depth := b, short := x } := by
  unfold dpDepth
  extract_lets r
  split
  · exact ⟨r.depth, false, State.dp_setDp _ _ _⟩
  · split
    · exact ⟨r.depth, r.short, rfl⟩
    · split
      · exact ⟨_, _, State.dp_setDp _ _ _⟩
      · refine ⟨r.depth, true, ?_⟩
        split
        · exact State.dp_setDp _ _ _
        · exact (raiseLink_dp _ _ _ _).trans (State.dp_setDp _ _ _)

/-! ## One pass of a training (R232, R234) -/

theorem trainWrites_dp (s : State) (n : Nat) (cr : Bool) :
    (trainWrites s n cr).dp n = { s.dp n with pattern := eqPattern (s.dp n).caps (s.dp n).tryRate } := by
  cases cr <;> exact State.dp_setDp _ _ _

theorem trainWrites_cnt (s : State) (n : Nat) (cr : Bool) (o : Nat) : (trainWrites s n cr).cnt o = s.cnt o := by
  cases cr <;> rfl

/-- The sink is told the rate and the lane count tried. -/
theorem trainWrites_news (s : State) (n : Nat) (cr : Bool) :
    Out.dpcd n "LINK_BW_SET" ([6, 10, 20, 30].getD (s.dp n).tryRate 30) ∈ news s (trainWrites s n cr)
      ∧ Out.dpcd n "LANE_COUNT_SET" (s.dp n).tryLanes ∈ news s (trainWrites s n cr) := by
  let u : State := s.emit (.dpcd n "LINK_BW_SET" ([6, 10, 20, 30].getD (s.dp n).tryRate 30))
  have h : Out.dpcd n "LANE_COUNT_SET" (s.dp n).tryLanes :: u.out <:+ (trainWrites s n cr).out := by
    cases cr
    · exact ⟨[_, _], rfl⟩
    · exact ⟨[_, _, _], rfl⟩
  exact ⟨mem_news ((List.suffix_cons _ u.out).trans h), mem_news_later (List.suffix_cons _ s.out) h⟩

/-- The source holds the rate and lanes tried as those of a trained link, and tells the sink its drive. -/
def dpTrained (s : State) (n : Nat) (drive : Nat) : State :=
  let r := s.dp n
  let c := (s.tg n).cfg
  let ign := r.caps.adaptive && (c.timing == 2 || c.unlock == 1)
  let u : State := trainWrites s n true
  ((u.setDp n { u.dp n with
      training := false, trained := true, rate := r.tryRate, lanes := r.tryLanes, drive := levelsWord drive, msaIgnore := ign }).emit
    (.dpcd n "TRAINING_LANE_SET" (driveWord drive))).emit (.dpcd n "MSA_TIMING_PAR_IGNORE_EN" (b2n ign))

theorem dpTrained_dp (s : State) (n drive : Nat) : ∃ p i, (dpTrained s n drive).dp n = { s.dp n with
    training := false, trained := true, rate := (s.dp n).tryRate, lanes := (s.dp n).tryLanes, drive := levelsWord drive, pattern := p,
    msaIgnore := i } := by
  refine ⟨eqPattern (s.dp n).caps (s.dp n).tryRate, (s.dp n).caps.adaptive && ((s.tg n).cfg.timing == 2 || (s.tg n).cfg.unlock == 1),
    (State.dp_setDp _ _ _).trans ?_⟩
  rw [trainWrites_dp]

theorem trainWrites_log_dpTrained (s : State) (n drive : Nat) : (trainWrites s n true).out <:+ (dpTrained s n drive).out := ⟨[_, _], rfl⟩

section
variable {s : State} {n : Nat} {m : ModeInfo} (hm : modeInfo (s.tg n).cfg.idx = some m) (ht : (s.dp n).training = true)
include hm ht

/-- A pass that succeeds: the link is trained, its depth is found, and it is told unless it is too small for the mode. -/
theorem doDpTraining_trained (drive : U16) :
    doDpTraining s n (.trained drive) = (let u := dpDepth (dpTrained s n drive.toNat) n; if (u.dp n).short then u else raiseLink u n 0) := by
  simp only [doDpTraining, hm, ht, Bool.not_true, Bool.false_eq_true, if_false]
  rfl

theorem doDpTraining_crFail :
    doDpTraining s n .crFail = trainFailed (trainWrites s n false) n m (min (s.tg n).cfg.lanes (s.dp n).caps.maxLanes) true := by
  simp only [doDpTraining, hm, ht, Bool.not_true, Bool.false_eq_true, if_false]
  rfl

theorem doDpTraining_eqFail :
    doDpTraining s n .eqFail = trainFailed (trainWrites s n true) n m (min (s.tg n).cfg.lanes (s.dp n).caps.maxLanes) false := by
  simp only [doDpTraining, hm, ht, Bool.not_true, Bool.false_eq_true, if_false]
  rfl

end

/-- What a pass that succeeds leaves of the source, and what the sink has been told of it. -/
theorem doDpTraining_trained_dp {s : State} {n : Nat} {m : ModeInfo} (hm : modeInfo (s.tg n).cfg.idx = some m) (ht : (s.dp n).training = true)
    (drive : U16) :
    ∃ p i b x, (doDpTraining s n (.trained drive)).dp n = { s.dp n with
      training := false, trained := true, rate := (s.dp n).tryRate, lanes := (s.dp n).tryLanes, drive := levelsWord drive.toNat, pattern := p,
      msaIgnore := i, depth := b, short := x } := by
  rw [doDpTraining_trained hm ht]
  obtain ⟨p, i, hp⟩ := dpTrained_dp s n drive.toNat
  obtain ⟨b, x, hb⟩ := dpDepth_dp (dpTrained s n drive.toNat) n
  rw [hp] at hb
  extract_lets u
  refine ⟨p, i, b, x, ?_⟩
  split
  · exact hb
  · rw [raiseLink_dp]
    exact hb

theorem doDpTraining_trained_log {s : State} {n : Nat} {m : ModeInfo} (hm : modeInfo (s.tg n).cfg.idx = some m) (ht : (s.dp n).training = true)
    (drive : U16) : (trainWrites s n true).out <:+ (doDpTraining s n (.trained drive)).out := by
  rw [doDpTraining_trained hm ht]
  extract_lets u
  have hu : (trainWrites s n true).out <:+ u.out :=
    (trainWrites_log_dpTrained s n drive.toNat).trans (keeps_dpDepth (Keeps.refl (dpTrained s n drive.toNat))).log
  split
  · exact hu
  · exact hu.trans (keeps_raiseLink (Keeps.refl u)).log

/-! ## The descent (R234) -/

theorem nextTrain_cr {m : ModeInfo} {top rate lanes : Nat} :
    nextTrain m top true rate lanes = if rate ≠ 0 ∧ linkCarries m (rate - 1) lanes 8 = true then some (rate - 1, lanes) else none := rfl

/-- Half the lanes carry the mode. -/
theorem nextTrain_halves {m : ModeInfo} {top rate lanes : Nat} (hl : lanes > 1) (hc : linkCarries m rate (lanes / 2) 8 = true) :
    nextTrain m top false rate lanes = some (rate, lanes / 2) := by
  simp [nextTrain, hl, hc]

/-- They do not: the next lower rate is tried with the most lanes. -/
theorem nextTrain_slower {m : ModeInfo} {top rate lanes : Nat} (h : lanes ≤ 1 ∨ linkCarries m rate (lanes / 2) 8 = false) :
    nextTrain m top false rate lanes = if rate ≠ 0 ∧ linkCarries m (rate - 1) top 8 = true then some (rate - 1, top) else none := by
  have hn : ¬ (lanes > 1 ∧ linkCarries m rate (lanes / 2) 8 = true) := by
    rintro ⟨hl, hc⟩
    rcases h with h | h
    · omega
    · simp [h] at hc
  simp only [nextTrain, Bool.false_eq_true, if_false, if_neg hn]

/-- No lower rate with these lanes. -/
theorem not_lower {m : ModeInfo} {rate lanes : Nat} (h : rate = 0 ∨ linkCarries m (rate - 1) lanes 8 = false) :
    ¬ (rate ≠ 0 ∧ linkCarries m (rate - 1) lanes 8 = true) := by
  rintro ⟨h0, hc⟩
  rcases h with h | h
  · exact h0 h
  · simp [h] at hc

section
variable {s : State} {n : Nat} {m : ModeInfo} {top : Nat} {cr x : Bool}

/-- A pass that failed goes on with the next configuration. -/
theorem trainFailed_goes_on {rate lanes : Nat} (ht : (s.dp n).training = true)
    (hx : nextTrain m top cr (s.dp n).tryRate (s.dp n).tryLanes = some (rate, lanes)) :
    let d := (trainFailed (trainWrites s n x) n m top cr).dp n
    d.training = true ∧ d.tryRate = rate ∧ d.tryLanes = lanes := by
  have hw : nextTrain m top cr ((trainWrites s n x).dp n).tryRate ((trainWrites s n x).dp n).tryLanes = some (rate, lanes) := by
    rw [trainWrites_dp]
    exact hx
  have e : (trainFailed (trainWrites s n x) n m top cr).dp n = { (trainWrites s n x).dp n with tryRate := rate, tryLanes := lanes } := by
    unfold trainFailed
    simp only [hw, State.dp_setDp]
  intro d
  rw [show d = _ from e, trainWrites_dp]
  exact ⟨ht, rfl, rfl⟩

/-- Without one the training ends, is counted, and is to be tried again. -/
theorem trainFailed_ends (hn : n < 8) (hx : nextTrain m top cr (s.dp n).tryRate (s.dp n).tryLanes = none) :
    let t := trainFailed (trainWrites s n x) n m top cr
    (t.dp n).training = false ∧ (t.dp n).retry = true
      ∧ t.cnt (Reg.OUT_DP_TRAIN_FAIL + 0x100 * n) = min (s.cnt (Reg.OUT_DP_TRAIN_FAIL + 0x100 * n) + 1) 0xFFFFFFFF := by
  have hw : nextTrain m top cr ((trainWrites s n x).dp n).tryRate ((trainWrites s n x).dp n).tryLanes = none := by
    rw [trainWrites_dp]
    exact hx
  unfold trainFailed
  simp only [hw, raiseLink_dp, bump_dp, State.dp_setDp, true_and]
  refine (raise_bump_cnt hn (by simp) _ _ _).trans ?_
  rw [setDp_cnt, trainWrites_cnt]

end

theorem exec_dpLinkTraining {s : State} (n : Fin 8) (res : TrainResult) (hp : s.pdOn 7 = true) :
    exec (.dpLinkTraining n res) s = .next (doDpTraining s n.val res) := congrArg Host.Outcome.next (if_pos hp)

theorem exec_trainingRetry {s : State} (n : Fin 8) (hp : s.pdOn 7 = true) :
    exec (.trainingRetry n) s = .next (doTrainingRetry s n.val) := congrArg Host.Outcome.next (if_pos hp)

/-- Settles O35: a pass that succeeds holds what it tried, and one that fails goes on with nextTrain or ends the training. -/
theorem dpTrainingDescends : Obligations.DpTrainingDescends := by
  intro s n m hp hm d top
  refine ⟨fun drive ht => ?_, fun ht h0 hc => ?_, fun ht h => ?_, fun ht hl hc => ?_, fun ht hl h0 hc => ?_, fun ht hl h => ?_,
    fun hr hhpd hidx => ?_⟩
  case refine_1 =>
    obtain ⟨_, _, _, _, hd⟩ := doDpTraining_trained_dp hm ht drive
    obtain ⟨hbw, hlc⟩ := trainWrites_news s n.val true
    have hw : s.out <:+ (trainWrites s n.val true).out := (keeps_trainWrites (Keeps.refl s)).log
    have hlog := doDpTraining_trained_log hm ht drive
    exact ⟨_, exec_dpLinkTraining n _ hp, by rw [hd], by rw [hd], by rw [hd], by rw [hd], by rw [hd], news_mono hw hlog hbw,
      news_mono hw hlog hlc⟩
  case refine_2 =>
    refine ⟨_, exec_dpLinkTraining n _ hp, ?_⟩
    rw [doDpTraining_crFail hm ht]
    exact trainFailed_goes_on ht (nextTrain_cr.trans (if_pos ⟨h0, hc⟩))
  case refine_3 =>
    refine ⟨_, exec_dpLinkTraining n _ hp, ?_⟩
    rw [doDpTraining_crFail hm ht]
    exact trainFailed_ends n.isLt (nextTrain_cr.trans (if_neg (not_lower h)))
  case refine_4 =>
    refine ⟨_, exec_dpLinkTraining n _ hp, ?_⟩
    rw [doDpTraining_eqFail hm ht]
    exact trainFailed_goes_on ht (nextTrain_halves hl hc)
  case refine_5 =>
    refine ⟨_, exec_dpLinkTraining n _ hp, ?_⟩
    rw [doDpTraining_eqFail hm ht]
    exact trainFailed_goes_on ht ((nextTrain_slower hl).trans (if_pos ⟨h0, hc⟩))
  case refine_6 =>
    refine ⟨_, exec_dpLinkTraining n _ hp, ?_⟩
    rw [doDpTraining_eqFail hm ht]
    exact trainFailed_ends n.isLt ((nextTrain_slower hl).trans (if_neg (not_lower h)))
  case refine_7 =>
    refine ⟨_, exec_trainingRetry n hp, ?_⟩
    rw [show doTrainingRetry s n.val = dpStart s n.val from if_pos hr, dpStart_dp, if_pos ⟨hhpd, hidx⟩]
    exact ⟨rfl, rfl, rfl, rfl⟩

end Sys2Proof.Machine

/-! SUPPORT. Writes of rows whose unit they wake: what a write that its row accepts leaves, and what one that it refuses leaves (R323, R327, R388). -/

namespace Sys2Proof.Machine

/-- The wake of a row's unit leaves the register, its accessor and its old value as they were. -/
theorem touchUnit_row (s : State) (a : Acc) (off i : Nat) {d : RegDef} (hc : d.base ≠ Reg.SYS_MPU_CTRL) :
    Frame [.power, .caps, .out] s (touchUnit s d i) ∧ Quiet s (touchUnit s d i) ∧ privileged (touchUnit s d i) a = privileged s a
      ∧ oldValue (touchUnit s d i) d off i = s.reg off := by
  have hw : Frame [.power, .caps, .out] s (touchUnit s d i) := frame_touchUnit (List.Subset.refl _) (Frame.refl _ s)
  have hq : Quiet s (touchUnit s d i) := .of_frame hw (by decide)
  refine ⟨hw, hq, ?_, ?_⟩
  · cases a <;> simp only [privileged, dapPriv, hq.otp]
  · rw [oldValue, if_neg hc, hq.reg id]

section
variable {s : State} {a : Acc} {off : Nat} {v : U32} {d : RegDef} {i j : Nat}
  (h : Reaches s a off) (h4 : inBootWindow off = false ∧ off % 4 = 0) (hf : findReg off = some (d, i, j)) (hb : d.base ≠ Reg.MBX_SEL)
  (hc : d.base ≠ Reg.SYS_MPU_CTRL) (hm : writeMask d i (privileged s a) ≠ 0)
include h h4 hf hb hc hm

/-- A write that no rule of its row forbids is what the row leaves, behind the wake and the new parity. -/
theorem rowWrite_unit {f : State → State} {m : List Part}
    (hx : ∀ w, Frame [.power, .caps, .out] s w →
      fieldFault w a 0 d i j (s.reg off) (mergeWrite d i (privileged s a) (s.reg off) v.toNat) = none)
    (he : ∀ u, written u a off d i j (s.reg off) (mergeWrite d i (privileged s a) (s.reg off) v.toNat) = f u)
    (hs : ∀ u, Still u (f u)) (hfr : ∀ u, Frame m u (f u)) (hmem : Part.ready ∉ m ∧ Part.mode ∉ m) :
    ∃ u, Frame [.power, .caps, .out, .parity, .pair] s u ∧ Quiet s u ∧ rowWrite s a off v = f u := by
  obtain ⟨hw, hq, hp, ho⟩ := touchUnit_row s a off i hc
  obtain ⟨u, hu, e⟩ := acceptWrite_cured (touchUnit s d i) a off d i j (s.reg off) (mergeWrite d i (privileged s a) (s.reg off) v.toNat)
  rw [he] at e
  have hacc := regWrite32_accept (v := v) h h4 hf hb (by rw [hp]; exact hm) (by rw [hp, ho]; exact hx _ hw)
  rw [hp, ho, e] at hacc
  have hsu : Frame [.power, .caps, .out, .parity, .pair] s u := (hw.mono (by decide)).trans (hu.frame.mono (by decide))
  have hqu : Quiet s u := hq.trans hu.quiet
  have hr : same .ready s (f u) := (hsu.keep .ready (by decide)).trans ((hfr u).keep .ready hmem.1)
  have hmd : same .mode s (f u) := (hsu.keep .mode (by decide)).trans ((hfr u).keep .mode hmem.2)
  exact ⟨u, hsu, hqu, rowWrite_still hacc (hqu.still.trans (hs u)) hr (by rw [hmd.1]; exact h.2.1)⟩

/-- A write that a rule of its row forbids leaves the fault's record alone, behind the wake. -/
theorem rowWrite_unit_refused {c : RafCause}
    (hx : ∀ w, Frame [.power, .caps, .out] s w →
      fieldFault w a 0 d i j (s.reg off) (mergeWrite d i (privileged s a) (s.reg off) v.toNat) = some c) :
    ∃ w, Frame [.power, .caps, .out] s w ∧ Quiet s w ∧ rowWrite s a off v = w.raf a c true off 4 := by
  obtain ⟨hw, hq, hp, ho⟩ := touchUnit_row s a off i hc
  have hraf := frame_State_raf (v1 := a) (v2 := c) (v3 := true) (v4 := off) (v5 := 4) (List.Subset.refl _) (Frame.refl _ (touchUnit s d i))
  have e : regWrite32 s a off v = (touchUnit s d i).raf a c true off 4 := by
    have hx' := hx _ hw
    have e0 : storeOff 0 off = off := by simp [storeOff]
    rw [← hp, ← ho] at hx'
    rw [← hp] at hm
    unfold oldValue mergeWrite at hx'
    obtain ⟨h2, -, ha, hmpu⟩ := h
    simp [regWrite32, regWrite, h2, h4, sizeOk, writeWord, ha, hmpu, hf, hb, hm, e0, hx']
  have hr : same .ready s ((touchUnit s d i).raf a c true off 4) := (hw.keep .ready (by decide)).trans (hraf.keep .ready (by decide))
  have hmd : same .mode s ((touchUnit s d i).raf a c true off 4) := (hw.keep .mode (by decide)).trans (hraf.keep .mode (by decide))
  exact ⟨_, hw, hq, rowWrite_still e (hq.still.trans (calm_State_raf (.refl _)).still) hr (by rw [hmd.1]; exact h.2.1)⟩

end

end Sys2Proof.Machine

/-! SUPPORT. OUT_DP_CTRL and OUT_DP_TRIM_OVR, sinks that come and go, and EDID reads (R235, R237, R323, R421). -/

namespace Sys2Proof.Machine

/-! ## OUT_DP_CTRL (R235, R237, R323) -/

/-- The row of OUT_DP_CTRL. -/
def dpCtrlRow : RegDef := ⟨"OUT_DP_CTRL", Reg.OUT_DP_CTRL, 8, 0x100, 1, 0, [fld "RETRAIN" 1 1 .wo 0, fld "EDID_READ" 0 0 .wo 0]⟩

theorem findReg_dpCtrl (n : Fin 8) : findReg (Reg.OUT_DP_CTRL + 0x100 * n.val) = some (dpCtrlRow, n.val, 0) := by
  revert n
  decide

theorem dpCtrl_off (n : Fin 8) :
    inBootWindow (Reg.OUT_DP_CTRL + 0x100 * n.val) = false ∧ (Reg.OUT_DP_CTRL + 0x100 * n.val) % 4 = 0 := by
  revert n
  decide

theorem dpCtrlRow_mask (i : Nat) (p : Bool) : writeMask dpCtrlRow i p = 3 := by
  simp [writeMask, dpCtrlRow, pvField, Fld.mask, fld]

/-- Both bits of the value that a write leaves are those written. -/
theorem bit_mergeWrite_dpCtrl {k : Nat} (hk : k < 2) (i : Nat) (p : Bool) (old : Nat) (v : U32) :
    bit (mergeWrite dpCtrlRow i p old v.toNat) k = v.getLsbD k := by
  have hm := dpCtrlRow_mask i p
  refine bit_mergeWrite ?_ ?_ <;> rw [hm] <;> revert k <;> decide

/-- R323: the one rule of the row turns an EDID_READ away while one runs. -/
theorem fieldFault_dpCtrl (s : State) (a : Acc) (i old new : Nat) :
    fieldFault s a 0 dpCtrlRow i 0 old new = if bit new 0 = true ∧ (s.dp i).edidBusy = true then some .busy else none := by
  have hw : writeOnceBroken dpCtrlRow i old new (privileged s a) = false := by rfl
  have hs : stoppedBroken s 0 dpCtrlRow.base i 0 old new = false := by rfl
  have hv : (valueBadA dpCtrlRow.base old new || valueBadB s a dpCtrlRow.base i 0 new) = false := by rfl
  have hmpu : (decide (Reg.SYS_MPU_BASE ≤ dpCtrlRow.base) && decide (dpCtrlRow.base ≤ Reg.SYS_MPU_CTRL)) = false := by decide
  have hn : dpCtrlRow.base ≠ Reg.FUM_COLOUR ∧ dpCtrlRow.base ≠ Reg.SYS_BOOT_CHUNK ∧ dpCtrlRow.base ≠ Reg.SYS_MPU_CTRL := by decide
  have hb : (dpCtrlRow.base = Reg.OUT_DP_CTRL) = True := eq_true rfl
  simp only [fieldFault, hmpu, hn, hw, hs, hv, hb, Bool.false_eq_true, false_and, if_false, true_and]

theorem dpRetrain_calm (s : State) (n : Nat) : Calm s (dpRetrain s n) := by
  have hstart : ∀ u, Calm u (dpStart u n) := fun u =>
    (Quiet.of_frame (frame_dpStart (List.Subset.refl _) (Frame.refl _ u)) (by decide)).mono fun _ => False.elim
  unfold dpRetrain
  extract_lets r u v
  have hu : Calm s u := (CalmOf.refl s).upd
  have hv : Calm s v := .ite (calm_State_raise counted hu) hu
  exact hv.trans (hstart v)

theorem dpCtrl_still (s : State) (n v : Nat) : Still s (dpCtrl s n v) := by
  have hforce : ∀ u, Still u (dpForce u n) := fun u => by
    unfold dpForce
    split
    · exact (dpRetrain_calm u n).still
    · exact .refl u
  let u : State := if bit v 0 then s.setDp n { s.dp n with edidBusy := true } else s
  have hu : Still s u := by
    unfold u
    split
    · exact (Still.refl s).upd
    · exact .refl s
  show Still s (if bit v 1 then dpForce u n else u)
  split
  · exact hu.trans (hforce u)
  · exact hu

/-- A forced training leaves the EDID read as it was. -/
theorem dpForce_edidBusy (s : State) (n : Nat) : ((dpForce s n).dp n).edidBusy = (s.dp n).edidBusy := by
  unfold dpForce
  split
  · rw [dpRetrain_dp]
    split <;> rfl
  · rfl

/-- EDID_READ sets the EDID read going. -/
theorem dpCtrl_reads (s : State) (n : Nat) {v : Nat} (h : bit v 0 = true) : ((dpCtrl s n v).dp n).edidBusy = true := by
  have hu : ((s.setDp n { s.dp n with edidBusy := true }).dp n).edidBusy = true := by rw [State.dp_setDp]
  unfold dpCtrl
  simp only [h, if_true]
  split
  · rw [dpForce_edidBusy, hu]
  · exact hu

/-- RETRAIN trains a source with a sink and a mode anew. -/
theorem dpCtrl_retrains {s : State} {n v : Nat} (h0 : bit v 0 = false) (h1 : bit v 1 = true) (hhpd : (s.dp n).hpd = true)
    (hidx : (s.tg n).cfg.idx ≠ 0) : (dpCtrl s n v).dp n = (s.dp n).starting (s.tg n).cfg := by
  have e : dpCtrl s n v = dpRetrain s n := by
    unfold dpCtrl dpForce
    simp [h0, h1, hhpd, hidx]
  rw [e, dpRetrain_dp, if_pos ⟨hhpd, hidx⟩]

section
variable {s : State} {a : Acc} {n : Fin 8} {v : U32} (h : Reaches s a (Reg.OUT_DP_CTRL + 0x100 * n.val))
include h

/-- A write of OUT_DP_CTRL that finds no EDID read running where it asks for one is its effect. -/
theorem dpCtrl_write (hx : ¬ (v.getLsbD 0 = true ∧ (s.dp n.val).edidBusy = true)) :
    ∃ u new, (∀ k, u.dp k = s.dp k ∧ u.tg k = s.tg k) ∧ (∀ k, k < 2 → bit new k = v.getLsbD k)
      ∧ rowWrite s a (Reg.OUT_DP_CTRL + 0x100 * n.val) v = dpCtrl u n.val new := by
  let off := Reg.OUT_DP_CTRL + 0x100 * n.val
  let new := mergeWrite dpCtrlRow n.val (privileged s a) (s.reg off) v.toNat
  have hnew : ∀ k, k < 2 → bit new k = v.getLsbD k := fun k hk => bit_mergeWrite_dpCtrl hk _ _ _ _
  obtain ⟨u, hu, -, e⟩ := rowWrite_unit (v := v) (f := fun u => dpCtrl u n.val new) h (dpCtrl_off n) (findReg_dpCtrl n) (by decide) (by decide)
    (by rw [dpCtrlRow_mask]; decide)
    (fun w hw => by rw [fieldFault_dpCtrl, hnew 0 (by decide), hw.dp_eq (by decide)]; exact if_neg hx)
    (fun u => by
      have hlt : ¬ off < 0x400000 := by simp only [off, Reg.OUT_DP_CTRL]; omega
      rw [written, writeEffect, if_neg hlt]
      rfl)
    (fun u => dpCtrl_still u n.val new) (fun u => frame_dpCtrl (List.Subset.refl _) (Frame.refl _ u)) (by decide)
  exact ⟨u, new, fun k => ⟨hu.dp_eq (by decide) k, hu.tg_eq (by decide) k⟩, hnew, e⟩

theorem edidRead_starts (h0 : v.getLsbD 0 = true) (hb : (s.dp n.val).edidBusy = false) :
    ((rowWrite s a (Reg.OUT_DP_CTRL + 0x100 * n.val) v).dp n.val).edidBusy = true := by
  obtain ⟨u, new, -, hnew, e⟩ := dpCtrl_write (v := v) h fun hx => Bool.false_ne_true (hb.symm.trans hx.2)
  rw [e]
  exact dpCtrl_reads u n.val ((hnew 0 (by decide)).trans h0)

/-- R323: while an EDID read runs, an EDID_READ is refused, and the source stays as it was. -/
theorem edidRead_refused (h0 : v.getLsbD 0 = true) (hb : (s.dp n.val).edidBusy = true) :
    (rowWrite s a (Reg.OUT_DP_CTRL + 0x100 * n.val) v).dp n.val = s.dp n.val := by
  obtain ⟨w, hw, -, e⟩ := rowWrite_unit_refused (v := v) (c := .busy) h (dpCtrl_off n) (findReg_dpCtrl n) (by decide) (by decide)
    (by rw [dpCtrlRow_mask]; decide) (fun w hw => by
      rw [fieldFault_dpCtrl, bit_mergeWrite_dpCtrl (by decide), hw.dp_eq (by decide)]
      exact if_pos ⟨h0, hb⟩)
  rw [e, (frame_State_raf (List.Subset.refl _) (Frame.refl _ w)).dp_eq (by decide), hw.dp_eq (by decide)]

theorem dpRetrain_starts (h0 : v.getLsbD 0 = false) (h1 : v.getLsbD 1 = true) (hhpd : (s.dp n.val).hpd = true)
    (hidx : (s.tg n.val).cfg.idx ≠ 0) :
    (rowWrite s a (Reg.OUT_DP_CTRL + 0x100 * n.val) v).dp n.val = (s.dp n.val).starting (s.tg n.val).cfg := by
  obtain ⟨u, new, hu, hnew, e⟩ := dpCtrl_write (v := v) h fun hx => Bool.false_ne_true (h0.symm.trans hx.1)
  obtain ⟨hdp, htg⟩ := hu n.val
  rw [e, dpCtrl_retrains ((hnew 0 (by decide)).trans h0) ((hnew 1 (by decide)).trans h1) (by rwa [hdp]) (by rwa [htg]), hdp, htg]

end

/-! ## OUT_DP_TRIM_OVR (R421) -/

/-- The row of OUT_DP_TRIM_OVR. -/
def trimOvrRow : RegDef :=
  ⟨"OUT_DP_TRIM_OVR", Reg.OUT_DP_TRIM_OVR, 8, 0x100, 1, 0, [pvf "EN" 31 31 .rw 0, pvf "SWING" 13 8 .rw 0x20, pvf "PRE" 4 0 .rw 0x10]⟩

theorem findReg_trimOvr (n : Fin 8) : findReg (Reg.OUT_DP_TRIM_OVR + 0x100 * n.val) = some (trimOvrRow, n.val, 0) := by
  revert n
  decide

theorem trimOvr_off (n : Fin 8) :
    inBootWindow (Reg.OUT_DP_TRIM_OVR + 0x100 * n.val) = false ∧ (Reg.OUT_DP_TRIM_OVR + 0x100 * n.val) % 4 = 0 := by
  revert n
  decide

theorem trimOvrRow_mask (i : Nat) : writeMask trimOvrRow i true = 0x80003F1F := by
  simp [writeMask, trimOvrRow, Fld.mask, pvf]

theorem bit_mergeWrite_trimOvr (i old : Nat) (v : U32) : bit (mergeWrite trimOvrRow i true old v.toNat) 31 = v.getLsbD 31 :=
  bit_mergeWrite (by rw [trimOvrRow_mask]; rfl) (by rw [trimOvrRow_mask]; rfl)

/-- R421: the one rule of the row allows EN in SERVICE only. -/
theorem fieldFault_trimOvr (s : State) (a : Acc) (i old new : Nat) :
    fieldFault s a 0 trimOvrRow i 0 old new = if bit new 31 = true ∧ s.sys.mode ≠ .service then some .value else none := by
  have hw : writeOnceBroken trimOvrRow i old new (privileged s a) = false := by rfl
  have hs : stoppedBroken s 0 trimOvrRow.base i 0 old new = false := by rfl
  have hv : (valueBadA trimOvrRow.base old new || valueBadB s a trimOvrRow.base i 0 new) = (bit new 31 && !decide (s.sys.mode = .service)) := by rfl
  have hmpu : (decide (Reg.SYS_MPU_BASE ≤ trimOvrRow.base) && decide (trimOvrRow.base ≤ Reg.SYS_MPU_CTRL)) = false := by decide
  have hn : trimOvrRow.base ≠ Reg.FUM_COLOUR ∧ trimOvrRow.base ≠ Reg.SYS_BOOT_CHUNK ∧ trimOvrRow.base ≠ Reg.OUT_DP_CTRL
    ∧ trimOvrRow.base ≠ Reg.SYS_MPU_CTRL := by decide
  simp only [fieldFault, hmpu, hn, hw, hs, hv, Bool.false_eq_true, false_and, if_false, Bool.and_eq_true, Bool.not_eq_true', decide_eq_false_iff_not,
    ne_eq]

section
variable {s : State} {a : Acc} {n : Fin 8} {v : U32} (h : Reaches s a (Reg.OUT_DP_TRIM_OVR + 0x100 * n.val)) (hp : privileged s a = true)
include h hp

/-- An override that its mode allows is stored. -/
theorem trimOvr_stored (hm : v.getLsbD 31 = false ∨ s.sys.mode = .service) :
    let x := (rowWrite s a (Reg.OUT_DP_TRIM_OVR + 0x100 * n.val) v).reg (Reg.OUT_DP_TRIM_OVR + 0x100 * n.val)
    bit x 31 = v.getLsbD 31 ∧ bits x 13 8 = bits v.toNat 13 8 ∧ bits x 4 0 = bits v.toNat 4 0 := by
  let off := Reg.OUT_DP_TRIM_OVR + 0x100 * n.val
  have hoff : off = 0xA20014 + 0x100 * n.val := rfl
  have hmask := trimOvrRow_mask n.val
  let new := mergeWrite trimOvrRow n.val true (s.reg off) v.toNat
  obtain ⟨u, -, -, e⟩ := rowWrite_unit (v := v) (f := fun u => u.setReg off new) h (trimOvr_off n) (findReg_trimOvr n) (by decide) (by decide)
    (by rw [hp, hmask]; decide)
    (fun w hw => by
      rw [hp, fieldFault_trimOvr, bit_mergeWrite_trimOvr, (hw.keep .mode (by decide)).1]
      refine if_neg ?_
      rintro ⟨h31, hns⟩
      rcases hm with h' | h'
      · exact Bool.false_ne_true (h'.symm.trans h31)
      · exact hns h')
    (fun u => by
      have hlt : ¬ off < 0x400000 := by omega
      rw [hp, written, writeEffect, if_neg hlt]
      rfl)
    (fun u => (Still.refl u).setReg fun l hl => by omega)
    (fun u => frame_State_setReg (List.Subset.refl _) (Frame.refl _ u) (.inl (by omega))) (by decide)
  have hnew : new < 2 ^ 32 := by
    have h1 : s.reg off < 2 ^ 32 := by
      unfold State.reg
      split <;> exact BitVec.isLt _
    exact Nat.or_lt_two_pow (Nat.lt_of_le_of_lt Nat.and_le_left h1) (Nat.lt_of_le_of_lt Nat.and_le_left v.isLt)
  intro x
  have hx : x = new := by
    show (rowWrite s a off v).reg off = new
    rw [e, State.reg_setReg _ _ _ _ rfl, Nat.mod_eq_of_lt hnew]
  rw [hx]
  exact ⟨bit_mergeWrite_trimOvr _ _ _, bits_mergeWrite _ _ hmask (by decide), bits_mergeWrite _ _ hmask (by decide)⟩

/-- Outside SERVICE an override is refused, and the register stays. -/
theorem trimOvr_refused (h31 : v.getLsbD 31 = true) (hm : s.sys.mode ≠ .service) :
    (rowWrite s a (Reg.OUT_DP_TRIM_OVR + 0x100 * n.val) v).reg (Reg.OUT_DP_TRIM_OVR + 0x100 * n.val) = s.reg (Reg.OUT_DP_TRIM_OVR + 0x100 * n.val) := by
  obtain ⟨w, -, hq, e⟩ := rowWrite_unit_refused (v := v) (c := .value) h (trimOvr_off n) (findReg_trimOvr n) (by decide) (by decide)
    (by rw [hp, trimOvrRow_mask]; decide) (fun w hw => by
      rw [hp, fieldFault_trimOvr, bit_mergeWrite_trimOvr, (hw.keep .mode (by decide)).1]
      exact if_pos ⟨h31, hm⟩)
  rw [e, (calm_State_raf (.refl w)).reg (not_counted_dpReg n.isLt (by simp)), hq.reg id]

end

/-! ## Sinks that come and go (R235) -/

theorem exec_hpdUnplug {s : State} (n : Fin 8) (hp : s.pdOn 7 = true) : exec (.hpdUnplug n) s = .next (doHpdUnplug s n.val) :=
  congrArg Host.Outcome.next (if_pos hp)

theorem exec_hpdPlug {s : State} (n : Fin 8) (caps : SinkCaps) (hp : s.pdOn 7 = true) :
    exec (.hpdPlug n caps) s = .next (doHpdPlug s n.val caps) := congrArg Host.Outcome.next (if_pos hp)

theorem exec_irqHpd {s : State} (n : Fin 8) (lost : Bool) (hp : s.pdOn 7 = true) :
    exec (.irqHpd n lost) s = .next (doIrqHpd s n.val lost) := congrArg Host.Outcome.next (if_pos hp)

theorem exec_edidReadEnd {s : State} (n : Fin 8) (res : EdidEnd) (hp : s.pdOn 7 = true) :
    exec (.edidReadEnd n res) s = .next (doEdidEnd s n.val res) := congrArg Host.Outcome.next (if_pos hp)

/-- An event raised before a later operation that keeps what was put out. -/
theorem Raised.keeps {s t u : State} {c : Nat} {d : List Byte} (h : Raised s t c d) (hs : Keeps s t) (k : Keeps t u) : Raised s u c d :=
  h.later hs.log k.log

/-- A sink that goes ends the link (R235). -/
theorem hpdUnplug_ends {s : State} {n : Nat} (h : (s.dp n).hpd = true) :
    let t := doHpdUnplug s n
    (t.dp n).hpd = false ∧ (t.dp n).trained = false ∧ (t.dp n).training = false ∧ Raised s t 0x0600 (leBytes 1 n ++ leBytes 1 0) := by
  let u := s.setDp n { s.dp n with hpd := false, trained := false, training := false, retry := false, rate := 0, lanes := 0, short := false,
                                   wholeFrame := false }
  have e : doHpdUnplug s n = raiseLink (u.raise 0x0600 (leBytes 1 n ++ leBytes 1 0)) n 4 := by
    simp only [doHpdUnplug, h, Bool.not_true, Bool.false_eq_true, if_false]
    rfl
  have hu : Keeps s u := keeps_State_setDp (Keeps.refl s)
  intro t
  rw [show t = _ from e]
  refine ⟨?_, ?_, ?_, (raised_raise _ _ hu.log).keeps (keeps_State_raise hu) (keeps_raiseLink (Keeps.refl _))⟩ <;>
    rw [raiseLink_dp, raise_dp, State.dp_setDp]

/-- A sink that comes: its capabilities are taken, and the source of an output with a mode trains from its highest configuration (R235). -/
theorem hpdPlug_trains {s : State} {n : Nat} (caps : SinkCaps) (h : (s.dp n).hpd = false) :
    let t := doHpdPlug s n caps
    let r := { s.dp n with hpd := true, caps := caps }
    t.dp n = (if (s.tg n).cfg.idx ≠ 0 then r.starting (s.tg n).cfg else r) ∧ Raised s t 0x0600 (leBytes 1 n ++ leBytes 1 1) := by
  let u := s.setDp n { s.dp n with hpd := true, caps := caps }
  have e : doHpdPlug s n caps = dpStart (u.raise 0x0600 (leBytes 1 n ++ leBytes 1 1)) n := by
    simp only [doHpdPlug, h, Bool.false_eq_true, if_false]
    rfl
  have hu : Keeps s u := keeps_State_setDp (Keeps.refl s)
  have hdp : u.dp n = { s.dp n with hpd := true, caps := caps } := State.dp_setDp _ _ _
  intro t r
  rw [show t = _ from e]
  refine ⟨?_, (raised_raise _ _ hu.log).keeps (keeps_State_raise hu) (keeps_dpStart (Keeps.refl _))⟩
  rw [dpStart_dp, raise_dp, raise_tg, hdp, setDp_tg]
  simp only [true_and]
  rfl

/-- An IRQ_HPD is counted and told, and a lost lane loses the link (R235). -/
theorem irqHpd_counts {s : State} {n : Nat} (hn : n < 8) (lost : Bool) (h : (s.dp n).hpd = true) :
    let t := doIrqHpd s n lost
    t.cnt (Reg.OUT_DP_IRQ_HPD + 0x100 * n) = min (s.cnt (Reg.OUT_DP_IRQ_HPD + 0x100 * n) + 1) 0xFFFFFFFF
      ∧ Raised s t 0x0600 (leBytes 1 n ++ leBytes 1 2) ∧ (lost = true → (t.dp n).trained = false) ∧ (lost = false → t.dp n = s.dp n) := by
  let b := s.bump (Reg.OUT_DP_IRQ_HPD + 0x100 * n)
  let u := b.raise 0x0600 (leBytes 1 n ++ leBytes 1 2)
  have e : doIrqHpd s n lost = if lost then dpRetrain u n else u := by
    simp only [doIrqHpd, h, Bool.not_true, Bool.false_eq_true, if_false]
    rfl
  have hb : Keeps s b := keeps_State_bump (Keeps.refl s)
  have hcnt : u.cnt (Reg.OUT_DP_IRQ_HPD + 0x100 * n) = min (s.cnt (Reg.OUT_DP_IRQ_HPD + 0x100 * n) + 1) 0xFFFFFFFF :=
    raise_bump_cnt hn (by simp) s _ _
  have hraised : Raised s u 0x0600 (leBytes 1 n ++ leBytes 1 2) := raised_raise _ _ hb.log
  have hdp : u.dp n = s.dp n := by rw [raise_dp, bump_dp]
  intro t
  rw [show t = _ from e]
  cases lost with
  | false => exact ⟨hcnt, hraised, by simp, fun _ => hdp⟩
  | true =>
    refine ⟨?_, hraised.keeps (keeps_State_raise hb) (keeps_dpRetrain (Keeps.refl u)), fun _ => ?_, by simp⟩
    · rw [if_pos rfl, (dpRetrain_calm u n).cnt (not_counted_dpReg hn (by simp)), hcnt]
    · rw [if_pos rfl, dpRetrain_dp]
      split <;> rfl

/-! ## The end of an EDID read (R237) -/

/-- The blocks of an EDID: block 0 and its extensions, three at most. -/
def edidBlocks (b : List Byte) : Nat := 1 + min 3 (fieldAt b 126 1)

/-- Whether every block of an EDID has its checksum. -/
def edidGood (b : List Byte) : Bool := (List.range (edidBlocks b)).all fun i => edidSum (slice (slice b 0 (128 * edidBlocks b)) (128 * i) 128)

theorem edidGood_iff (b : List Byte) :
    edidGood b = true ↔ ∀ i, i < edidBlocks b → edidSum (slice (slice b 0 (128 * edidBlocks b)) (128 * i) 128) = true := by
  simp [edidGood]

section
variable {s : State} {n : Nat} (h : (s.dp n).edidBusy = true)
include h

theorem doEdidEnd_absent :
    doEdidEnd s n .absent = (s.setDp n { s.dp n with edidBusy := false, edid := [], edidOk := false }).raise 0x0602
      (leBytes 1 n ++ leBytes 1 1 ++ leBytes 2 0) := by
  simp only [doEdidEnd, h, Bool.not_true, Bool.false_eq_true, if_false]
  rfl

theorem doEdidEnd_bytes (b : List Byte) : ∃ d, doEdidEnd s n (.bytes b) =
    (s.setDp n { s.dp n with edidBusy := false, edid := slice b 0 (128 * edidBlocks b), edidOk := edidGood b }).raise 0x0602 d := by
  have hok : ((if edidGood b then 0 else 2 : Nat) == 0) = edidGood b := by cases edidGood b <;> rfl
  rw [← hok]
  refine ⟨leBytes 1 n ++ leBytes 1 (if edidGood b then 0 else 2) ++ leBytes 2 (slice b 0 (128 * edidBlocks b)).length, ?_⟩
  simp only [doEdidEnd, h, Bool.not_true, Bool.false_eq_true, if_false, edidGood, edidBlocks]
  rfl

end

/-- Settles O34: a write of OUT_DP_CTRL or OUT_DP_TRIM_OVR is its row's effect or is refused, and each change of the sink is its case of R235
or R237. -/
theorem sinksComeAndGoAndDpRegistersAct : Obligations.SinksComeAndGoAndDpRegistersAct := by
  refine ⟨fun s a n v => ⟨fun h h0 hb => ?_, fun h h0 hb => ?_, fun h h0 h1 hhpd hidx => ?_, fun h hp hm => ?_, fun h hp h31 hm => ?_⟩,
    fun s n caps res hp => ⟨fun h => ?_, fun h => ?_, fun h lost => ?_, fun h => ?_⟩⟩
  case refine_1 => exact ⟨_, rfl, edidRead_starts h h0 hb⟩
  case refine_2 => exact ⟨_, rfl, edidRead_refused h h0 hb⟩
  case refine_3 =>
    have e := dpRetrain_starts (v := v) h h0 h1 hhpd hidx
    exact ⟨_, rfl, by rw [e]; rfl, by rw [e]; rfl, by rw [e]; rfl, by rw [e]; rfl⟩
  case refine_4 => exact ⟨_, rfl, trimOvr_stored h hp hm⟩
  case refine_5 => exact ⟨_, rfl, trimOvr_refused h hp h31 hm⟩
  case refine_6 => exact ⟨_, exec_hpdUnplug n hp, hpdUnplug_ends h⟩
  case refine_7 =>
    obtain ⟨hdp, hraised⟩ := hpdPlug_trains caps h
    refine ⟨_, exec_hpdPlug n caps hp, ?_, ?_, hraised, fun hidx => ?_⟩
    · rw [hdp]
      split <;> rfl
    · rw [hdp]
      split <;> rfl
    · rw [hdp, if_pos hidx]
      exact ⟨rfl, rfl, rfl⟩
  case refine_8 => exact ⟨_, exec_irqHpd n lost hp, irqHpd_counts n.isLt lost h⟩
  case refine_9 =>
    refine ⟨_, exec_edidReadEnd n res hp, ?_⟩
    cases res with
    | absent =>
      rw [doEdidEnd_absent h]
      simp only [raise_dp, State.dp_setDp]
      exact ⟨trivial, fun _ => ⟨trivial, trivial, raised_raise _ _ (List.suffix_refl _)⟩, nofun⟩
    | bytes b =>
      obtain ⟨d, e⟩ := doEdidEnd_bytes h b
      rw [e]
      simp only [raise_dp, State.dp_setDp]
      refine ⟨trivial, nofun, fun c hc => ?_⟩
      cases hc
      exact ⟨rfl, edidGood_iff b⟩

end Sys2Proof.Machine

/-! SUPPORT. Check rectangles: CHECK_CFG and its application, the result of an evaluated rectangle and its trigger, and the end of a window. -/

namespace Sys2Proof.Machine

/-! ## A trigger of the pair (R351 to R353) -/

/-- The events, completions and records of a release leave the pair as its new state has it (R352). -/
theorem relinquish_pair {s : State} {code : Nat} (hc : code ≤ 8) (frz : Bool) :
    (s.relinquish code frz).pair = if s.pair.state = 2 ∨ s.pair.state = 3 then s.pair.withState 1 else s.pair := by
  have hraise : ∀ (u : State) (x : Nat) (d : List Byte), (u.raise x d).pair = u.pair := fun u x d => (frame_raise u x d).keep .pair (by decide)
  have hmode : ∀ u : State, (u.setMode .standby 2).pair = u.pair := fun u =>
    (frame_State_setMode (List.Subset.refl _) (Frame.refl _ u)).keep .pair (by decide)
  have hdrop : ∀ u : State, (dropAckWaits u).pair = u.pair := fun u =>
    (frame_dropAckWaits (List.Subset.refl _) (Frame.refl _ u)).keep .pair (by decide)
  unfold State.relinquish
  split
  · simp only [if_neg (show ¬ code ≥ 9 by omega), hdrop, pairStateEvent]
    show ((State.raise _ _ _).raise _ _).pair = _
    rw [hraise, hraise]
    split
    · rfl
    · rw [hmode]
      rfl
  · rfl

/-- A trigger is a release of a pair that has its bit, and the bar with its cause (R351, R353). -/
theorem trigger_eq (s : State) {code : Nat} (hc : code ≤ 8) (frz : Bool) :
    ∃ v : State, s.trigger code frz = v.relinquish code frz ∧ v.pair.trig = setBit s.pair.trig code true ∧ v.pair.state = s.pair.state
      ∧ v.pair.ownO = s.pair.ownO := by
  unfold State.trigger
  rw [if_pos hc]
  refine ⟨_, rfl, ?_⟩
  split <;> exact ⟨rfl, rfl, rfl⟩

/-- A trigger's bit stands, and the device drives PAIR_OWN_O no more (R351, R352). -/
theorem trigger_asserts (s : State) {code : Nat} (hc : code ≤ 8) (frz : Bool) :
    bit (s.trigger code frz).pair.trig code = true ∧ (PinsOk s → (s.trigger code frz).pair.ownO = false) := by
  obtain ⟨v, e, htrig, hstate, hown⟩ := trigger_eq s hc frz
  rw [e, relinquish_pair hc]
  split
  · refine ⟨?_, fun _ => rfl⟩
    rw [show (v.pair.withState 1).trig = v.pair.trig from rfl, htrig]
    exact testBit_setBit _ _ _
  · next hn =>
    refine ⟨by rw [htrig]; exact testBit_setBit _ _ _, fun hpins => ?_⟩
    obtain ⟨hpin, -⟩ := hpins
    rw [hown, hpin, ← hstate]
    simpa using hn

/-! ## Reports (R255) -/

@[simp] theorem bump_chk (s : State) (o k : Nat) : (s.bump o).chk k = s.chk k := rfl

@[simp] theorem raise_chk (s : State) (code : Nat) (d : List Byte) (k : Nat) : (s.raise code d).chk k = s.chk k :=
  (frame_raise s code d).chk_eq (by decide) k

@[simp] theorem raiseChk_chk (s : State) (c old new count k : Nat) : (raiseChk s c old new count).chk k = s.chk k :=
  (frame_raiseChk (m := eventParts) (by decide) (Frame.refl _ s)).chk_eq (by decide) k

@[simp] theorem settleRelq_chk (s : State) (k : Nat) : (settleRelq s).chk k = s.chk k :=
  (frame_settleRelq (List.Subset.refl _) (Frame.refl _ s)).chk_eq (by decide) k

/-- A report leaves its result, and of the rectangle nothing else but its window. -/
theorem chkReport_chk (s : State) (c new : Nat) :
    ∃ w x y, (chkReport s c new).chk c = { s.chk c with result := new, win := w, winRes := x, winCnt := y } := by
  unfold chkReport
  extract_lets r
  split
  next h => exact ⟨r.win, r.winRes, r.winCnt, by rw [← h]⟩
  · split
    · exact ⟨r.win, r.winRes, r.winCnt + 1, State.chk_setChk _ _ _⟩
    · exact ⟨true, new, 0, by rw [raiseChk_chk, State.chk_setChk]⟩

theorem exec_chkResultWindowEnd {s : State} (k : Fin 128) (hp : s.pdOn 7 = true) :
    exec (.chkResultWindowEnd k) s = .next (doChkWindowEnd s k.val) := congrArg Host.Outcome.next (if_pos hp)

/-- The changes that a window has counted are told as one, with the result it began with and the one that stands. -/
theorem chkWindowEnd_tells {s : State} {c : Nat} (hw : (s.chk c).win = true) (hc : (s.chk c).winCnt ≠ 0) :
    let r := s.chk c
    ((doChkWindowEnd s c).chk c).win = false
      ∧ Raised s (doChkWindowEnd s c) 0x0630 (leBytes 1 c ++ leBytes 1 r.winRes ++ leBytes 1 r.result ++ leBytes 1 r.mode
          ++ leBytes 1 (min r.winCnt 255) ++ leBytes 4 ((s.tg (c / 16)).frame % 2 ^ 32)) := by
  intro r
  let u := s.setChk c { r with win := false, winCnt := 0 }
  have e : doChkWindowEnd s c = raiseChk u c r.winRes r.result r.winCnt := if_pos ⟨hw, hc⟩
  have hmode : (u.chk c).mode = r.mode := by rw [State.chk_setChk]
  rw [e]
  refine ⟨by rw [raiseChk_chk, State.chk_setChk], ?_⟩
  have hu : Keeps s u := keeps_State_setChk (Keeps.refl s)
  unfold raiseChk
  simp only [hmode]
  exact (raised_raise _ _ hu.log).keeps (keeps_State_raise hu) (keeps_pairAlarm (Keeps.refl _))

/-! ## CHECK_CFG (R250 to R252) -/

/-- The rectangle holds the fields of a CHECK_CFG, and FAILS is 0 (R252). -/
def ChkRec.Holds (r : ChkRec) (j : Job) : Prop :=
  r.mode = j.n 17 1 ∧ r.action = j.n 18 1 ∧ r.inter = bit (j.n 19 1) 0 ∧ r.x = j.n 20 2 ∧ r.y = j.n 22 2 ∧ r.w = j.n 24 2 ∧ r.h = j.n 26 2
    ∧ r.expect = j.n 28 4 ∧ r.persist = (if j.n 32 1 = 0 then 3 else j.n 32 1)
    ∧ r.tiles = ((List.range 8).map (fun i => j.n (36 + 2 * i) 2)).filter (fun x => x ≠ 0xFFFF) ∧ r.fails = 0

theorem cfgTiles_eq (j : Job) : cfgTiles j = ((List.range 8).map (fun i => j.n (36 + 2 * i) 2)).filter (fun x => x ≠ 0xFFFF) :=
  List.filter_congr fun x _ => by by_cases h : x = 0xFFFF <;> simp [h]

/-- A CHECK_CFG that takes effect: its rectangle holds its fields, and nothing but its completion is left to do. -/
theorem applyChk_eq (s : State) (j : Job) :
    ∃ u, applyChk s j = u.finish j .done 0 0 ∧ Frame (.scan :: .pair :: .cmp :: eventParts) s u ∧ (u.chk (j.n 16 1)).Holds j
      ∧ (u.chk (j.n 16 1)).jobs = (s.chk (j.n 16 1)).jobs := by
  obtain ⟨t, e⟩ : ∃ t, applyChk s j = t := ⟨_, rfl⟩
  rw [e]
  unfold applyChk at e
  extract_lets -merge -underBinder +onlyGivenNames c n r s1 s2 s3 p s4 at e
  have h1 : s2.chk c = { r with
      mode := j.n 17 1, action := j.n 18 1, inter := bit (j.n 19 1) 0, x := j.n 20 2, y := j.n 22 2, w := j.n 24 2, h := j.n 26 2,
      expect := j.n 28 4, persist := cfgPersist j, tiles := cfgTiles j, fails := 0, prev := none, relq := false,
      refAcc := 0xFFFFFFFF, linkAcc := 0xFFFFFFFF, done := false } := by
    rw [settleRelq_chk, State.chk_setChk]
  obtain ⟨_, _, _, h3⟩ := chkReport_chk s2 c (if j.n 17 1 = 0 ∨ !(s2.tg n).running then 2 else r.last)
  rw [h1] at h3
  have h4 : s4.chk c = s3.chk c := rfl
  refine ⟨s4, e.symm, ?_, ?_, ?_⟩
  · have f2 : Frame (.scan :: .pair :: .cmp :: eventParts) s s2 := frame_settleRelq (by decide) (frame_State_setChk (by decide) (Frame.refl _ s))
    exact frame_State_setPipe (by decide) (frame_chkReport (by decide) f2)
  · rw [h4, show s3.chk c = _ from h3]
    exact ⟨rfl, rfl, rfl, rfl, rfl, rfl, rfl, rfl, rfl, cfgTiles_eq j, rfl⟩
  · rw [h4, show s3.chk c = _ from h3]

theorem finish_chk (s : State) (j : Job) (st : Status) (fl r k : Nat) : (s.finish j st fl r).chk k = s.chk k :=
  (frame_finish s j st fl r).chk_eq (by decide) k

section
variable {s : State} {c : Cmd}

theorem exec_checkCfg (hs : Starts s (.checkCfg c) c) (ha : Admits s c checkCfgSpec) :
    exec (.checkCfg c) s = .next (if (s.tg (c.job.n 16 1 / 16)).running
      then (begun s c).setChk (c.job.n 16 1) { s.chk (c.job.n 16 1) with jobs := (s.chk (c.job.n 16 1)).jobs ++ [c.job] }
      else applyChk (begun s c) c.job) := by
  show Host.Outcome.next (gate s (.checkCfg c) c fun s j => doCheckCfg s j) = _
  rw [gate_starts _ hs, doCheckCfg, runJob_admits _ ha]
  rfl

theorem exec_checkCfgApply (k : Fin 128) (hp : s.pdOn 7 = true) :
    exec (.checkCfgApply k) s = .next (doCheckCfgApply s k.val) := congrArg Host.Outcome.next (if_pos hp)

/-- On a stopped output a CHECK_CFG applies and ends. -/
theorem checkCfg_applies (hs : Starts s (.checkCfg c) c) (ha : Admits s c checkCfgSpec)
    (hr : (s.tg (c.job.n 16 1 / 16)).running = false) :
    ∃ t, exec (.checkCfg c) s = .next t ∧ (t.chk (c.job.n 16 1)).Holds c.job ∧ Ends s t c .done 0 0 := by
  obtain ⟨u, e, hf, hh, -⟩ := applyChk_eq (begun s c) c.job
  refine ⟨_, exec_checkCfg hs ha, ?_⟩
  rw [hr, if_neg Bool.false_ne_true, e, finish_chk]
  exact ⟨hh, hf.finish_ends (by decide)⟩

/-- The one configuration that waits applies at the frame start, and ends (R252). -/
theorem checkCfgApply_applies {k : Nat} (hj : (s.chk k).jobs = [c.job]) (hk : c.job.n 16 1 = k) :
    ((doCheckCfgApply s k).chk k).Holds c.job ∧ ((doCheckCfgApply s k).chk k).jobs = []
      ∧ (doCheckCfgApply s k).host.done = s.host.done ++ entry s c .done 0 0 := by
  let v := s.setChk k { s.chk k with jobs := [] }
  have e0 : doCheckCfgApply s k = applyChk v c.job := by
    unfold doCheckCfgApply
    rw [hj]
    rfl
  obtain ⟨u, e, hf, hh, hjobs⟩ := applyChk_eq v c.job
  rw [hk] at hh hjobs
  have hdone : u.host.done = s.host.done := hf.keep .done (by decide)
  have ht : u.fab.tephraUsed = s.fab.tephraUsed := (hf.keep .domain (by decide)).2.2
  rw [e0, e, finish_chk]
  refine ⟨hh, by rw [hjobs, State.chk_setChk], ?_⟩
  rw [(finish_host u c .done 0 0).1, hdone]
  simp only [entry, ht]

end

/-! ## Results (R240 to R249) -/

/-- The CRC of an evaluated rectangle is not what its mode expects (R240 to R243). -/
def ChkRec.Wrong (r : ChkRec) : Prop :=
  let link := r.linkAcc ^^^ 0xFFFFFFFF
  (r.mode = 1 ∧ link ≠ r.expect) ∨ (r.mode = 2 ∧ link ≠ r.refAcc ^^^ 0xFFFFFFFF) ∨ (r.mode = 3 ∧ r.prev = some link)

theorem exec_checkResult {s : State} (k : Fin 128) (hp : s.pdOn 7 = true) :
    exec (.checkResult k) s = .next (doCheckResult s k.val) := congrArg Host.Outcome.next (if_pos hp)

/-- A rectangle that is not evaluated keeps all it has (R244). -/
theorem checkResult_unevaluated {s : State} {c : Nat} (h : evaluated s c = false) : doCheckResult s c = s := if_pos (.inr (by simp [h]))

/-- What the decision leaves of an evaluated rectangle and of trigger 3. -/
theorem checkResult_decides {s : State} {c : Nat} (he : evaluated s c = true) (hd : (s.chk c).done = false) :
    let r := s.chk c
    let t := doCheckResult s c
    (t.chk c).link = r.linkAcc ^^^ 0xFFFFFFFF ∧ (t.chk c).prev = some (r.linkAcc ^^^ 0xFFFFFFFF)
      ∧ (r.Wrong → (t.chk c).result = 1 ∧ (t.chk c).fails = min (r.fails + 1) 0xFFFF)
      ∧ (¬ r.Wrong → (t.chk c).result = 0 ∧ (t.chk c).fails = 0)
      ∧ (r.Wrong → r.mode = 2 → min (r.fails + 1) 0xFFFF = r.persist →
          bit t.pair.trig 3 = true ∧ (PinsOk s → t.pair.ownO = false)) := by
  intro r t
  have e : doCheckResult s c = t := rfl
  unfold doCheckResult at e
  extract_lets -merge -underBinder +onlyGivenNames r' n f at e
  rw [if_neg (by simp [he, r', hd])] at e
  extract_lets -merge -underBinder +onlyGivenNames ref link fail comp fails trig s1 s2 s3 p s4 s5 at e
  have hfail : fail = true ↔ r.Wrong := by
    unfold fail ChkRec.Wrong
    split
    next hm => simp [show r.mode = 1 from hm, link, r', r]
    next hm => simp [show r.mode = 2 from hm, link, ref, r', r]
    next hm => simp [show r.mode = 3 from hm, link, r', r]
    next h1 h2 h3 => simp [show r.mode ≠ 1 from h1, show r.mode ≠ 2 from h2, show r.mode ≠ 3 from h3]
  have h2 : s2.chk c = s1.chk c := by
    unfold s2
    split
    · exact bump_chk _ _ _
    · exact settleRelq_chk _ _
  have h4 : s4.chk c = s3.chk c := by
    unfold s4
    split <;> rfl
  have ht : t.chk c = s4.chk c := by
    rw [← e]
    split
    · exact ((frame_State_trigger (List.Subset.refl _) (Frame.refl _ s5)).chk_eq (by decide) c).trans (raise_chk _ _ _ _)
    · rfl
  obtain ⟨_, _, _, h3⟩ := chkReport_chk s2 c (b2n fail)
  rw [h2, State.chk_setChk] at h3
  have hrec := ht.trans (h4.trans h3)
  have hkeeps : Keeps s s5 := by
    have k1 : Keeps s s1 := keeps_State_setChk (Keeps.refl s)
    have k2 : Keeps s s2 := .ite (keeps_State_bump k1) (keeps_settleRelq k1)
    have k3 : Keeps s s3 := keeps_chkReport k2
    exact keeps_State_raise (.ite (keeps_State_setPipe k3) k3)
  refine ⟨by rw [hrec], by rw [hrec], fun hw => ?_, fun hw => ?_, fun hw hmode hp => ?_⟩
  · have hf := hfail.mpr hw
    rw [hrec]
    exact ⟨by rw [hf]; rfl, if_pos hf⟩
  · have hf : fail = false := Bool.eq_false_iff.mpr fun h => hw (hfail.mp h)
    rw [hrec]
    exact ⟨by rw [hf]; rfl, if_neg (by simp [hf])⟩
  · have hf := hfail.mpr hw
    have htrig : trig = true := by
      unfold trig fails
      rw [hf, if_pos rfl, show r'.fails = r.fails from rfl, hp, show r'.mode = 2 from hmode]
      simp [r', r]
    rw [← e, if_pos htrig]
    obtain ⟨hbit, hown⟩ := trigger_asserts s5 (show 3 ≤ 8 by decide) false
    exact ⟨hbit, fun hpins => hown (hkeeps.pins hpins)⟩

/-- Settles O33: a CHECK_CFG applies or waits, an evaluated rectangle is decided by ChkRec.Wrong, and the end of a window tells what it counted. -/
theorem pictureChecksAreConfiguredAndDecided : Obligations.PictureChecksAreConfiguredAndDecided := by
  refine ⟨fun s c k => ⟨fun hs ha hr => ?_, fun hs ha hr => ?_, fun hp hj hk => ?_⟩, fun s k hp => ⟨fun h => ?_, fun he hd => ?_, fun hw hc => ?_⟩⟩
  case refine_1 => exact checkCfg_applies hs ha hr
  case refine_2 =>
    refine ⟨_, exec_checkCfg hs ha, ?_⟩
    rw [if_pos hr, State.chk_setChk]
    exact ⟨rfl, rfl⟩
  case refine_3 => exact ⟨_, exec_checkCfgApply k hp, checkCfgApply_applies hj hk⟩
  case refine_4 => rw [exec_checkResult k hp, checkResult_unevaluated h]
  case refine_5 => exact ⟨_, exec_checkResult k hp, checkResult_decides he hd⟩
  case refine_6 => exact ⟨_, exec_chkResultWindowEnd k hp, chkWindowEnd_tells hw hc⟩

end Sys2Proof.Machine

/-! SUPPORT. The frame of every command, and what a step runs: the front of the queue, a held command, or a tick. -/

namespace Sys2Proof.Machine

/-! ## The frame of every command -/

/-- Settles O6, command by command: its frame lists only parts that the table of changes lists for it. -/
theorem commandsChangeOnlyTheirParts : Obligations.CommandsChangeOnlyTheirParts := by
  intro i s
  cases i with
  | nop _ => exact ⟨_, rfl, frame_execNop (of_decide_eq_true rfl) (.refl _ _) rfl⟩
  | fence _ => exact ⟨_, rfl, frame_execFence (of_decide_eq_true rfl) (.refl _ _) rfl⟩
  | unknownOpcode _ => exact ⟨_, rfl, frame_execUnknownOpcode (of_decide_eq_true rfl) (.refl _ _) rfl⟩
  | streamOpen _ => exact ⟨_, rfl, frame_execStreamOpen (of_decide_eq_true rfl) (.refl _ _) rfl⟩
  | streamFeed _ _ _ => exact ⟨_, rfl, frame_execStreamFeed (of_decide_eq_true rfl) (.refl _ _) rfl⟩
  | streamClose _ => exact ⟨_, rfl, frame_execStreamClose (of_decide_eq_true rfl) (.refl _ _) rfl⟩
  | streamFlush _ => exact ⟨_, rfl, frame_execStreamFlush (of_decide_eq_true rfl) (.refl _ _) rfl⟩
  | surfacePool _ => exact ⟨_, rfl, frame_execSurfacePool (of_decide_eq_true rfl) (.refl _ _) rfl⟩
  | encOpen _ => exact ⟨_, rfl, frame_execEncOpen (of_decide_eq_true rfl) (.refl _ _) rfl⟩
  | encParams _ => exact ⟨_, rfl, frame_execEncParams (of_decide_eq_true rfl) (.refl _ _) rfl⟩
  | encClose _ => exact ⟨_, rfl, frame_execEncClose (of_decide_eq_true rfl) (.refl _ _) rfl⟩
  | encOutbuf _ => exact ⟨_, rfl, frame_execEncOutbuf (of_decide_eq_true rfl) (.refl _ _) rfl⟩
  | captureCfg _ _ => exact ⟨_, rfl, frame_execCaptureCfg (of_decide_eq_true rfl) (.refl _ _) rfl⟩
  | stateLoad _ _ => exact ⟨_, rfl, frame_execStateLoad (of_decide_eq_true rfl) (.refl _ _) rfl⟩
  | commit _ => exact ⟨_, rfl, frame_execCommit (of_decide_eq_true rfl) (.refl _ _) rfl⟩
  | liveSet _ => exact ⟨_, rfl, frame_execLiveSet (of_decide_eq_true rfl) (.refl _ _) rfl⟩
  | slateLoad _ _ => exact ⟨_, rfl, frame_execSlateLoad (of_decide_eq_true rfl) (.refl _ _) rfl⟩
  | modeSet _ => exact ⟨_, rfl, frame_execModeSet (of_decide_eq_true rfl) (.refl _ _) rfl⟩
  | fumPolicy _ => exact ⟨_, rfl, frame_execFumPolicy (of_decide_eq_true rfl) (.refl _ _) rfl⟩
  | fumBind _ => exact ⟨_, rfl, frame_execFumBind (of_decide_eq_true rfl) (.refl _ _) rfl⟩
  | fumSnapshot _ => exact ⟨_, rfl, frame_execFumSnapshot (of_decide_eq_true rfl) (.refl _ _) rfl⟩
  | checkCfg _ => exact ⟨_, rfl, frame_execCheckCfg (of_decide_eq_true rfl) (.refl _ _) rfl⟩
  | routeSet _ _ => exact ⟨_, rfl, frame_execRouteSet (of_decide_eq_true rfl) (.refl _ _) rfl⟩
  | groupSet _ => exact ⟨_, rfl, frame_execGroupSet (of_decide_eq_true rfl) (.refl _ _) rfl⟩
  | timeCfg _ => exact ⟨_, rfl, frame_execTimeCfg (of_decide_eq_true rfl) (.refl _ _) rfl⟩
  | tephraCfg _ => exact ⟨_, rfl, frame_execTephraCfg (of_decide_eq_true rfl) (.refl _ _) rfl⟩
  | touchMap _ => exact ⟨_, rfl, frame_execTouchMap (of_decide_eq_true rfl) (.refl _ _) rfl⟩
  | touchRefLoad _ _ => exact ⟨_, rfl, frame_execTouchRefLoad (of_decide_eq_true rfl) (.refl _ _) rfl⟩
  | mirrorCfg _ => exact ⟨_, rfl, frame_execMirrorCfg (of_decide_eq_true rfl) (.refl _ _) rfl⟩
  | dormantEnter _ => exact ⟨_, rfl, frame_execDormantEnter (of_decide_eq_true rfl) (.refl _ _) rfl⟩
  | memWrite _ _ => exact ⟨_, rfl, frame_execMemWrite (of_decide_eq_true rfl) (.refl _ _) rfl⟩
  | memRead _ => exact ⟨_, rfl, frame_execMemRead (of_decide_eq_true rfl) (.refl _ _) rfl⟩
  | serviceEnter _ => exact ⟨_, rfl, frame_execServiceEnter (of_decide_eq_true rfl) (.refl _ _) rfl⟩
  | serviceExit _ => exact ⟨_, rfl, frame_execServiceExit (of_decide_eq_true rfl) (.refl _ _) rfl⟩
  | sqTailDoorbell _ _ _ _ => exact ⟨_, rfl, frame_execSqTailDoorbell (of_decide_eq_true rfl) (.refl _ _) rfl⟩
  | descriptorFetch _ _ => exact ⟨_, rfl, frame_execDescriptorFetch (of_decide_eq_true rfl) (.refl _ _) rfl⟩
  | cqHeadDoorbell _ _ _ _ => exact ⟨_, rfl, frame_execCqHeadDoorbell (of_decide_eq_true rfl) (.refl _ _) rfl⟩
  | eventRingHeadDoorbell _ _ _ => exact ⟨_, rfl, frame_execEventRingHeadDoorbell (of_decide_eq_true rfl) (.refl _ _) rfl⟩
  | completionWrite _ _ => exact ⟨_, rfl, frame_execCompletionWrite (of_decide_eq_true rfl) (.refl _ _) rfl⟩
  | cqCoalesceTimeout _ _ => exact ⟨_, rfl, frame_execCqCoalesceTimeout (of_decide_eq_true rfl) (.refl _ _) rfl⟩
  | registerWrite _ _ _ _ _ => exact ⟨_, rfl, frame_execRegisterWrite (of_decide_eq_true rfl) (.refl _ _) rfl⟩
  | ringEnable _ _ _ _ => exact ⟨_, rfl, frame_execRingEnable (of_decide_eq_true rfl) (.refl _ _) rfl⟩
  | sysReset _ _ => exact ⟨_, rfl, frame_execSysReset (of_decide_eq_true rfl) (.refl _ _) rfl⟩
  | fullReset _ => exact ⟨_, rfl, frame_execFullReset (of_decide_eq_true rfl) (.refl _ _) rfl⟩
  | bootstrapWindowWrite _ _ _ _ => exact ⟨_, rfl, frame_execBootstrapWindowWrite (of_decide_eq_true rfl) (.refl _ _) rfl⟩
  | sysBootChunk _ _ => exact ⟨_, rfl, frame_execSysBootChunk (of_decide_eq_true rfl) (.refl _ _) rfl⟩
  | imageVerificationEnd _ _ => exact ⟨_, rfl, frame_execImageVerificationEnd (v0 := ()) (v1 := ()) (of_decide_eq_true rfl) (.refl _ _) rfl⟩
  | firmwareUnitStart => exact ⟨_, rfl, frame_execFirmwareUnitStart (of_decide_eq_true rfl) (.refl _ _) rfl⟩
  | mbxSel _ _ _ => exact ⟨_, rfl, frame_execMbxSel (of_decide_eq_true rfl) (.refl _ _) rfl⟩
  | mailboxLatch _ _ => exact ⟨_, rfl, frame_execMailboxLatch (of_decide_eq_true rfl) (.refl _ _) rfl⟩
  | fumLock _ _ => exact ⟨_, rfl, frame_execFumLock (of_decide_eq_true rfl) (.refl _ _) rfl⟩
  | fumSelftestRelease _ _ => exact ⟨_, rfl, frame_execFumSelftestRelease (of_decide_eq_true rfl) (.refl _ _) rfl⟩
  | fabGwFailRelease _ _ => exact ⟨_, rfl, frame_execFabGwFailRelease (of_decide_eq_true rfl) (.refl _ _) rfl⟩
  | strDecFaultRelease _ _ => exact ⟨_, rfl, frame_execStrDecFaultRelease (of_decide_eq_true rfl) (.refl _ _) rfl⟩
  | cmpFaultRelease _ _ => exact ⟨_, rfl, frame_execCmpFaultRelease (of_decide_eq_true rfl) (.refl _ _) rfl⟩
  | sysRafRelease _ _ => exact ⟨_, rfl, frame_execSysRafRelease (of_decide_eq_true rfl) (.refl _ _) rfl⟩
  | sysMpuRelease _ _ => exact ⟨_, rfl, frame_execSysMpuRelease (of_decide_eq_true rfl) (.refl _ _) rfl⟩
  | sysMpuCtrl _ _ _ => exact ⟨_, rfl, frame_execSysMpuCtrl (of_decide_eq_true rfl) (.refl _ _) rfl⟩
  | fabNodeAddr _ _ => exact ⟨_, rfl, frame_execFabNodeAddr (of_decide_eq_true rfl) (.refl _ _) rfl⟩
  | domainClaim _ _ _ => exact ⟨_, rfl, frame_execDomainClaim (of_decide_eq_true rfl) (.refl _ _) rfl⟩
  | linkEnable _ _ _ => exact ⟨_, rfl, frame_execLinkEnable (of_decide_eq_true rfl) (.refl _ _) rfl⟩
  | linkRetrain _ _ _ => exact ⟨_, rfl, frame_execLinkRetrain (of_decide_eq_true rfl) (.refl _ _) rfl⟩
  | edidRead _ _ _ => exact ⟨_, rfl, frame_execEdidRead (of_decide_eq_true rfl) (.refl _ _) rfl⟩
  | edidReadEnd _ _ => exact ⟨_, rfl, frame_execEdidReadEnd (of_decide_eq_true rfl) (.refl _ _) rfl⟩
  | dpRetrain _ _ _ => exact ⟨_, rfl, frame_execDpRetrain (of_decide_eq_true rfl) (.refl _ _) rfl⟩
  | pairClaim _ _ => exact ⟨_, rfl, frame_execPairClaim (of_decide_eq_true rfl) (.refl _ _) rfl⟩
  | pairRelease _ _ => exact ⟨_, rfl, frame_execPairRelease (of_decide_eq_true rfl) (.refl _ _) rfl⟩
  | sysLifecycleAdv _ _ => exact ⟨_, rfl, frame_execSysLifecycleAdv (of_decide_eq_true rfl) (.refl _ _) rfl⟩
  | dapEn _ _ => exact ⟨_, rfl, frame_execDapEn (of_decide_eq_true rfl) (.refl _ _) rfl⟩
  | edgAonClear _ _ => exact ⟨_, rfl, frame_execEdgAonClear (of_decide_eq_true rfl) (.refl _ _) rfl⟩
  | cmpSlateBase _ _ => exact ⟨_, rfl, frame_execCmpSlateBase (of_decide_eq_true rfl) (.refl _ _) rfl⟩
  | recal _ _ _ => exact ⟨_, rfl, frame_execRecal (of_decide_eq_true rfl) (.refl _ _) rfl⟩
  | laneOverride _ _ _ => exact ⟨_, rfl, frame_execLaneOverride (of_decide_eq_true rfl) (.refl _ _) rfl⟩
  | outDpTrimOvr _ _ _ => exact ⟨_, rfl, frame_execOutDpTrimOvr (of_decide_eq_true rfl) (.refl _ _) rfl⟩
  | touchEnable _ _ _ => exact ⟨_, rfl, frame_execTouchEnable (of_decide_eq_true rfl) (.refl _ _) rfl⟩
  | touchDisable _ _ _ => exact ⟨_, rfl, frame_execTouchDisable (of_decide_eq_true rfl) (.refl _ _) rfl⟩
  | touchHold _ _ _ => exact ⟨_, rfl, frame_execTouchHold (of_decide_eq_true rfl) (.refl _ _) rfl⟩
  | dapCmd _ => exact ⟨_, rfl, frame_execDapCmd (of_decide_eq_true rfl) (.refl _ _) rfl⟩
  | dapData _ => exact ⟨_, rfl, frame_execDapData (of_decide_eq_true rfl) (.refl _ _) rfl⟩
  | windowAccess _ _ _ _ _ _ _ => exact ⟨_, rfl, frame_execWindowAccess (of_decide_eq_true rfl) (.refl _ _) rfl⟩
  | pcieLinkUp => exact ⟨_, rfl, frame_execPcieLinkUp (of_decide_eq_true rfl) (.refl _ _) rfl⟩
  | packetReceive _ _ _ _ => exact ⟨_, rfl, frame_execPacketReceive (of_decide_eq_true rfl) (.refl _ _) rfl⟩
  | linkCrcWindowEnd _ => exact ⟨_, rfl, frame_execLinkCrcWindowEnd (of_decide_eq_true rfl) (.refl _ _) rfl⟩
  | packetEnd _ => exact ⟨_, rfl, frame_execPacketEnd (of_decide_eq_true rfl) (.refl _ _) rfl⟩
  | skp _ => exact ⟨_, rfl, frame_execSkp (of_decide_eq_true rfl) (.refl _ _) rfl⟩
  | reorderRelease _ => exact ⟨_, rfl, frame_execReorderRelease (of_decide_eq_true rfl) (.refl _ _) rfl⟩
  | trainingStateAdvance _ _ => exact ⟨_, rfl, frame_execTrainingStateAdvance (of_decide_eq_true rfl) (.refl _ _) rfl⟩
  | linkTrainTimeout _ => exact ⟨_, rfl, frame_execLinkTrainTimeout (of_decide_eq_true rfl) (.refl _ _) rfl⟩
  | backoffExpiry _ => exact ⟨_, rfl, frame_execBackoffExpiry (of_decide_eq_true rfl) (.refl _ _) rfl⟩
  | capsRepeat _ => exact ⟨_, rfl, frame_execCapsRepeat (of_decide_eq_true rfl) (.refl _ _) rfl⟩
  | caps _ _ => exact ⟨_, rfl, frame_execCaps (of_decide_eq_true rfl) (.refl _ _) rfl⟩
  | codeError _ _ _ => exact ⟨_, rfl, frame_execCodeError (of_decide_eq_true rfl) (.refl _ _) rfl⟩
  | lockLost _ lane => exact ⟨_, rfl, frame_execLockLost (v1 := lane) (of_decide_eq_true rfl) (.refl _ _) rfl⟩
  | sync _ _ => exact ⟨_, rfl, frame_execSync (of_decide_eq_true rfl) (.refl _ _) rfl⟩
  | reply _ _ => exact ⟨_, rfl, frame_execReply (of_decide_eq_true rfl) (.refl _ _) rfl⟩
  | timeExchangePeriod => exact ⟨_, rfl, frame_execTimeExchangePeriod (of_decide_eq_true rfl) (.refl _ _) rfl⟩
  | holdoverLimitExpiry => exact ⟨_, rfl, frame_execHoldoverLimitExpiry (of_decide_eq_true rfl) (.refl _ _) rfl⟩
  | mgmtRequest _ _ => exact ⟨_, rfl, frame_execMgmtRequest (of_decide_eq_true rfl) (.refl _ _) rfl⟩
  | resp _ => exact ⟨_, rfl, frame_execResp (of_decide_eq_true rfl) (.refl _ _) rfl⟩
  | mgmtRetryTimeout _ _ => exact ⟨_, rfl, frame_execMgmtRetryTimeout (of_decide_eq_true rfl) (.refl _ _) rfl⟩
  | eventPacket _ => exact ⟨_, rfl, frame_execEventPacket (of_decide_eq_true rfl) (.refl _ _) rfl⟩
  | streamDemux _ => exact ⟨_, rfl, frame_execStreamDemux (of_decide_eq_true rfl) (.refl _ _) rfl⟩
  | rasterPacket _ => exact ⟨_, rfl, frame_execRasterPacket (of_decide_eq_true rfl) (.refl _ _) rfl⟩
  | mirrorPacket _ => exact ⟨_, rfl, frame_execMirrorPacket (of_decide_eq_true rfl) (.refl _ _) rfl⟩
  | resyncReq => exact ⟨_, rfl, frame_execResyncReq (of_decide_eq_true rfl) (.refl _ _) rfl⟩
  | mirrorAck _ => exact ⟨_, rfl, frame_execMirrorAck (of_decide_eq_true rfl) (.refl _ _) rfl⟩
  | ackTimeout => exact ⟨_, rfl, frame_execAckTimeout (of_decide_eq_true rfl) (.refl _ _) rfl⟩
  | fumaroleTick => exact ⟨_, rfl, frame_execFumaroleTick (of_decide_eq_true rfl) (.refl _ _) rfl⟩
  | recordLatch _ => exact ⟨_, rfl, frame_execRecordLatch (of_decide_eq_true rfl) (.refl _ _) rfl⟩
  | scanStart _ => exact ⟨_, rfl, frame_execScanStart (of_decide_eq_true rfl) (.refl _ _) rfl⟩
  | tileEventWindowEnd _ => exact ⟨_, rfl, frame_execTileEventWindowEnd (of_decide_eq_true rfl) (.refl _ _) rfl⟩
  | outputLine _ _ _ _ => exact ⟨_, rfl, frame_execOutputLine (of_decide_eq_true rfl) (.refl _ _) rfl⟩
  | frameStart _ => exact ⟨_, rfl, frame_execFrameStart (of_decide_eq_true rfl) (.refl _ _) rfl⟩
  | vblankLineBoundary _ => exact ⟨_, rfl, frame_execVblankLineBoundary (of_decide_eq_true rfl) (.refl _ _) rfl⟩
  | commitValidation _ => exact ⟨_, rfl, frame_execCommitValidation (of_decide_eq_true rfl) (.refl _ _) rfl⟩
  | commitApply _ => exact ⟨_, rfl, frame_execCommitApply (of_decide_eq_true rfl) (.refl _ _) rfl⟩
  | modeSetApply _ => exact ⟨_, rfl, frame_execModeSetApply (of_decide_eq_true rfl) (.refl _ _) rfl⟩
  | checkCfgApply _ => exact ⟨_, rfl, frame_execCheckCfgApply (of_decide_eq_true rfl) (.refl _ _) rfl⟩
  | checkResult _ => exact ⟨_, rfl, frame_execCheckResult (of_decide_eq_true rfl) (.refl _ _) rfl⟩
  | chkResultWindowEnd _ => exact ⟨_, rfl, frame_execChkResultWindowEnd (of_decide_eq_true rfl) (.refl _ _) rfl⟩
  | slateCopyEnd _ => exact ⟨_, rfl, frame_execSlateCopyEnd (of_decide_eq_true rfl) (.refl _ _) rfl⟩
  | snapshotWriteEnd => exact ⟨_, rfl, frame_execSnapshotWriteEnd (of_decide_eq_true rfl) (.refl _ _) rfl⟩
  | capturePictureStart _ _ => exact ⟨_, rfl, frame_execCapturePictureStart (of_decide_eq_true rfl) (.refl _ _) rfl⟩
  | captureBand _ _ => exact ⟨_, rfl, frame_execCaptureBand (of_decide_eq_true rfl) (.refl _ _) rfl⟩
  | capSignalLoss _ => exact ⟨_, rfl, frame_execCapSignalLoss (of_decide_eq_true rfl) (.refl _ _) rfl⟩
  | hpdPulseEnd _ => exact ⟨_, rfl, frame_execHpdPulseEnd (of_decide_eq_true rfl) (.refl _ _) rfl⟩
  | sinkLinkTraining _ _ _ _ => exact ⟨_, rfl, frame_execSinkLinkTraining (of_decide_eq_true rfl) (.refl _ _) rfl⟩
  | encPictureStart _ => exact ⟨_, rfl, frame_execEncPictureStart (of_decide_eq_true rfl) (.refl _ _) rfl⟩
  | sliceCoding _ _ => exact ⟨_, rfl, frame_execSliceCoding (of_decide_eq_true rfl) (.refl _ _) rfl⟩
  | sliceReady _ _ _ => exact ⟨_, rfl, frame_execSliceReady (of_decide_eq_true rfl) (.refl _ _) rfl⟩
  | keepalivePicture _ => exact ⟨_, rfl, frame_execKeepalivePicture (of_decide_eq_true rfl) (.refl _ _) rfl⟩
  | keepaliveExpiry _ => exact ⟨_, rfl, frame_execKeepaliveExpiry (of_decide_eq_true rfl) (.refl _ _) rfl⟩
  | pictureStart _ _ => exact ⟨_, rfl, frame_execPictureStart (of_decide_eq_true rfl) (.refl _ _) rfl⟩
  | sliceDecode _ _ => exact ⟨_, rfl, frame_execSliceDecode (of_decide_eq_true rfl) (.refl _ _) rfl⟩
  | stallLimit _ => exact ⟨_, rfl, frame_execStallLimit (of_decide_eq_true rfl) (.refl _ _) rfl⟩
  | decConcealWindowEnd _ => exact ⟨_, rfl, frame_execDecConcealWindowEnd (of_decide_eq_true rfl) (.refl _ _) rfl⟩
  | hpdUnplug _ => exact ⟨_, rfl, frame_execHpdUnplug (of_decide_eq_true rfl) (.refl _ _) rfl⟩
  | hpdPlug _ _ => exact ⟨_, rfl, frame_execHpdPlug (of_decide_eq_true rfl) (.refl _ _) rfl⟩
  | irqHpd _ _ => exact ⟨_, rfl, frame_execIrqHpd (of_decide_eq_true rfl) (.refl _ _) rfl⟩
  | dpLinkTraining _ _ => exact ⟨_, rfl, frame_execDpLinkTraining (of_decide_eq_true rfl) (.refl _ _) rfl⟩
  | trainingRetry _ => exact ⟨_, rfl, frame_execTrainingRetry (of_decide_eq_true rfl) (.refl _ _) rfl⟩
  | memoryRequest _ _ _ _ _ => exact ⟨_, rfl, frame_execMemoryRequest (of_decide_eq_true rfl) (.refl _ _) rfl⟩
  | channelIssue _ _ => exact ⟨_, rfl, frame_execChannelIssue (of_decide_eq_true rfl) (.refl _ _) rfl⟩
  | commandError _ _ => exact ⟨_, rfl, frame_execCommandError (of_decide_eq_true rfl) (.refl _ _) rfl⟩
  | throttleExpiry _ => exact ⟨_, rfl, frame_execThrottleExpiry (of_decide_eq_true rfl) (.refl _ _) rfl⟩
  | scrubRead _ _ => exact ⟨_, rfl, frame_execScrubRead (of_decide_eq_true rfl) (.refl _ _) rfl⟩
  | refresh _ _ => exact ⟨_, rfl, frame_execRefresh (of_decide_eq_true rfl) (.refl _ _) rfl⟩
  | channelRetrain _ _ => exact ⟨_, rfl, frame_execChannelRetrain (of_decide_eq_true rfl) (.refl _ _) rfl⟩
  | memoryTrainingEnd _ _ => exact ⟨_, rfl, frame_execMemoryTrainingEnd (of_decide_eq_true rfl) (.refl _ _) rfl⟩
  | segmentInitialized => exact ⟨_, rfl, frame_execSegmentInitialized (of_decide_eq_true rfl) (.refl _ _) rfl⟩
  | parityScrub _ => exact ⟨_, rfl, frame_execParityScrub (of_decide_eq_true rfl) (.refl _ _) rfl⟩
  | autoClaim => exact ⟨_, rfl, frame_execAutoClaim (of_decide_eq_true rfl) (.refl _ _) rfl⟩
  | actingOwner => exact ⟨_, rfl, frame_execActingOwner (of_decide_eq_true rfl) (.refl _ _) rfl⟩
  | pairConflict => exact ⟨_, rfl, frame_execPairConflict (of_decide_eq_true rfl) (.refl _ _) rfl⟩
  | relinquish _ => exact ⟨_, rfl, frame_execRelinquish (of_decide_eq_true rfl) (.refl _ _) rfl⟩
  | nm0Watchdog => exact ⟨_, rfl, frame_execNm0Watchdog (of_decide_eq_true rfl) (.refl _ _) rfl⟩
  | stateDisagree _ _ => exact ⟨_, rfl, frame_execStateDisagree (of_decide_eq_true rfl) (.refl _ _) rfl⟩
  | thermalGovernor _ => exact ⟨_, rfl, frame_execThermalGovernor (of_decide_eq_true rfl) (.refl _ _) rfl⟩
  | thermalTrip => exact ⟨_, rfl, frame_execThermalTrip (of_decide_eq_true rfl) (.refl _ _) rfl⟩
  | dormantThermalTrip _ => exact ⟨_, rfl, frame_execDormantThermalTrip (of_decide_eq_true rfl) (.refl _ _) rfl⟩
  | thermalCut => exact ⟨_, rfl, frame_execThermalCut (of_decide_eq_true rfl) (.refl _ _) rfl⟩
  | pllLockLoss _ _ => exact ⟨_, rfl, frame_execPllLockLoss (of_decide_eq_true rfl) (.refl _ _) rfl⟩
  | idleGating _ => exact ⟨_, rfl, frame_execIdleGating (of_decide_eq_true rfl) (.refl _ _) rfl⟩
  | unitWake _ => exact ⟨_, rfl, frame_execUnitWake (of_decide_eq_true rfl) (.refl _ _) rfl⟩
  | dormantPowerDown => exact ⟨_, rfl, frame_execDormantPowerDown (of_decide_eq_true rfl) (.refl _ _) rfl⟩
  | wake _ => exact ⟨_, rfl, frame_execWake (of_decide_eq_true rfl) (.refl _ _) rfl⟩
  | resume _ => exact ⟨_, rfl, frame_execResume (of_decide_eq_true rfl) (.refl _ _) rfl⟩
  | supplyDropout => exact ⟨_, rfl, frame_execSupplyDropout (of_decide_eq_true rfl) (.refl _ _) rfl⟩
  | aonReset => exact ⟨_, rfl, frame_execAonReset (of_decide_eq_true rfl) (.refl _ _) rfl⟩
  | scanCycle _ _ _ _ => exact ⟨_, rfl, frame_execScanCycle (of_decide_eq_true rfl) (.refl _ _) rfl⟩
  | wakeScan _ _ => exact ⟨_, rfl, frame_execWakeScan (of_decide_eq_true rfl) (.refl _ _) rfl⟩
  | laneTempCheck _ _ _ => exact ⟨_, rfl, frame_execLaneTempCheck (of_decide_eq_true rfl) (.refl _ _) rfl⟩
  | classTRun _ _ _ => exact ⟨_, rfl, frame_execClassTRun (of_decide_eq_true rfl) (.refl _ _) rfl⟩
  | eyeScan _ _ _ => exact ⟨_, rfl, frame_execEyeScan (of_decide_eq_true rfl) (.refl _ _) rfl⟩
  | correctionStep _ _ => exact ⟨_, rfl, frame_execCorrectionStep (of_decide_eq_true rfl) (.refl _ _) rfl⟩
  | resetRelease _ _ => exact ⟨_, rfl, frame_execResetRelease (of_decide_eq_true rfl) (.refl _ _) rfl⟩
  | pairOwnIRise => exact ⟨_, rfl, frame_execPairOwnIRise (of_decide_eq_true rfl) (.refl _ _) rfl⟩
  | pllRelock _ => exact ⟨_, rfl, frame_execPllRelock (of_decide_eq_true rfl) (.refl _ _) rfl⟩
  | timeUnlockLimitExpiry => exact ⟨_, rfl, frame_execTimeUnlockLimitExpiry (of_decide_eq_true rfl) (.refl _ _) rfl⟩
  | bootChunkCopyEnd => exact ⟨_, rfl, frame_execBootChunkCopyEnd (of_decide_eq_true rfl) (.refl _ _) rfl⟩
  | channelRetrainEnd _ _ => exact ⟨_, rfl, frame_execChannelRetrainEnd (of_decide_eq_true rfl) (.refl _ _) rfl⟩

/-! ## A tick (log entries 2, 11 and 106) -/

/-- The parts that every tick changes. -/
abbrev clockParts : List Part := [.clk, .ft, .time]

theorem frame_advanceTime_self (s : State) (ns : Nat) : Frame clockParts s (advanceTime s ns) :=
  frame_advanceTime (List.Subset.refl _) (.refl _ s)

theorem advanceTime_clk (s : State) (ns : Nat) : (advanceTime s ns).clk = s.clk + ns := by
  unfold advanceTime
  split <;> rfl

/-- What runs behind the clock in a tick leaves the clock alone. -/
theorem tick_clk (s : State) : (tick s).clk = s.clk + 1 := by
  have h : Frame (eventParts ++ [.free, .dram, .mem, .chans, .inFlight, .dma, .done, .cmp, .fum, .commits, .mgmt, .scan, .pair, .mir, .caps])
      (advanceTime s 1) (tick s) :=
    frame_checkClaim (by decide) (frame_mirrorNext (by decide) (frame_dpiScans (by decide) (frame_drainIngress (by decide) (.refl _ _))))
  exact Eq.trans (h.keep .clk (by decide)) (advanceTime_clk s 1)

theorem checkClaim_unclaimed {s : State} (h : s.pair.state ≠ 2) : checkClaim s = s := if_pos h

theorem mirrorNext_none {s : State} (h : s.mir.late = []) : mirrorNext s = s := by simp [mirrorNext, h]

theorem drainIngress_empty {s : State} (h : s.dram.ingress = []) : drainIngress s = s := by
  simp only [drainIngress, h, drainList]
  rw [← h]

theorem dpiScan_early {s : State} {p : Nat} (h : (s.cap p).trained = false ∨ s.clk < (s.cap p).scanAt) : dpiScan s p = s :=
  if_pos (by simpa using h)

/-- No port's scan is due. -/
theorem dpiScans_early {s : State} (h : ∀ p, p < 4 → (s.cap p).trained = false ∨ s.clk < (s.cap p).scanAt) : dpiScans s = s := by
  simp only [dpiScans, List.foldl_cons, List.foldl_nil]
  rw [dpiScan_early (h 0 (by omega)), dpiScan_early (h 1 (by omega)), dpiScan_early (h 2 (by omega)), dpiScan_early (h 3 (by omega))]

/-- A tick with nothing due is the clock's advance. -/
theorem tick_idle {s : State} (hp : s.pair.state ≠ 2) (hm : s.mir.late = []) (hd : s.dram.ingress = [])
    (hc : ∀ p, p < 4 → (s.cap p).trained = false ∨ s.clk + 1 < (s.cap p).scanAt) : tick s = advanceTime s 1 := by
  have h := frame_advanceTime_self s 1
  have e1 : drainIngress (advanceTime s 1) = advanceTime s 1 := drainIngress_empty (by rw [show _ = s.dram from h.keep .dram (by decide)]; exact hd)
  have e2 : dpiScans (advanceTime s 1) = advanceTime s 1 := dpiScans_early fun p hp => by
    rw [advanceTime_clk, show (advanceTime s 1).cap p = s.cap p by simp only [State.cap, show _ = s.caps from h.keep .caps (by decide)]]
    exact hc p hp
  have e3 : mirrorNext (advanceTime s 1) = advanceTime s 1 := mirrorNext_none (by rw [show _ = s.mir from h.keep .mir (by decide)]; exact hm)
  have e4 : checkClaim (advanceTime s 1) = advanceTime s 1 := checkClaim_unclaimed (by rw [show _ = s.pair from h.keep .pair (by decide)]; exact hp)
  rw [tick, e1, e2, e3, e4]

/-! ## The held command that goes next (R274) -/

/-- A held command waits behind those held before it. -/
def Waiting (s : State) (before : List Instr) (i : Instr) : Prop := ∃ c, ringCmd i = some c ∧ blocked s before i c.job = true

theorem readyHeld_waiting {s : State} {before is : List Instr} {i : Instr} (k : Nat) (h : Waiting s before i) :
    readyHeld s k before (i :: is) = readyHeld s (k + 1) (before ++ [i]) is := by
  obtain ⟨c, hc, hb⟩ := h
  simp [readyHeld, hc, hb]

theorem readyHeld_free {s : State} {before is : List Instr} {i : Instr} (k : Nat)
    (h : ∀ c, ringCmd i = some c → blocked s before i c.job = false) : readyHeld s k before (i :: is) = some k := by
  unfold readyHeld
  split
  next c hc => rw [if_neg (by simp [h c hc])]
  next => rfl

/-- The first held command that does not wait goes next, whatever stands behind it. -/
theorem readyHeld_first {s : State} (ws : List Instr) {i : Instr} {is : List Instr} (n : Nat) (before : List Instr)
    (hw : ∀ m x, ws[m]? = some x → Waiting s (before ++ ws.take m) x)
    (hi : ∀ c, ringCmd i = some c → blocked s (before ++ ws) i c.job = false) : readyHeld s n before (ws ++ i :: is) = some (n + ws.length) := by
  induction ws generalizing n before with
  | nil => exact readyHeld_free n (by simpa using hi)
  | cons w ws ih =>
    rw [List.cons_append, readyHeld_waiting n (by simpa using hw 0 w rfl), ih (n + 1) (before ++ [w]) (fun m x hx => ?_) (by simpa using hi)]
    · exact congrArg some (by rw [List.length_cons]; omega)
    · simpa using hw (m + 1) x (by simpa using hx)

/-- Command k of those held goes next where those before it wait and it does not. -/
theorem heldNext_at {s : State} {k : Nat} {i : Instr} (hk : s.held[k]? = some i)
    (hi : ∀ c, ringCmd i = some c → blocked s (s.held.take k) i c.job = false)
    (hw : ∀ m x, m < k → s.held[m]? = some x → Waiting s (s.held.take m) x) :
    heldNext s = some (i, { s with held := s.held.take k }, s.held.drop (k + 1)) := by
  obtain ⟨hlt, rfl⟩ := List.getElem?_eq_some_iff.mp hk
  have hlen : (s.held.take k).length = k := List.length_take_of_le hlt.le
  have hr : readyHeld s 0 [] s.held = some k := by
    have h := readyHeld_first (s := s) (s.held.take k) (i := s.held[k]) (is := s.held.drop (k + 1)) 0 []
      (fun m x hx => by
        have hm : m < k := hlen ▸ (List.getElem?_eq_some_iff.mp hx).1
        rw [List.getElem?_take_of_lt hm] at hx
        simpa [List.take_take, hm.le] using hw m x hm hx) (by simpa using hi)
    rwa [List.getElem_cons_drop, List.take_append_drop, hlen, Nat.zero_add] at h
  simp only [heldNext, hr, hk]

theorem step_held {s t : State} {i : Instr} {rest : List Instr} (hp : s.pending = []) (h : heldNext s = some (i, t, rest)) :
    step s = withHeld rest (exec i t) := by
  simp only [step, hp, h]

/-- Settles O1, by the three cases of a step. -/
theorem stepRunsTheFrontCommand : Obligations.StepRunsTheFrontCommand := by
  refine fun s => ⟨fun c => rfl, fun hp hn => ⟨tick s, ?_, tick_clk s, frame_tick (by decide) (.refl _ s), fun h2 hm hd hc => ?_⟩, fun k i hp hk hi hw => ?_⟩
  case refine_1 => simp only [step, hp, hn]
  case refine_2 => exact tick_idle h2 hm hd hc ▸ frame_advanceTime_self s 1
  case refine_3 =>
    obtain ⟨t, ht, -⟩ := commandsChangeOnlyTheirParts i { s with held := s.held.take k }
    refine ⟨t, ht, ?_⟩
    rw [step_held hp (heldNext_at hk hi hw), ht]
    rfl

end Sys2Proof.Machine

/-! SUPPORT. Ring commands that wait, that are refused, and that complete without an effect of their own. -/

namespace Sys2Proof.Machine

/-! ## The state after reset -/

/-- The control word of an event ring or of a ring of queues that nothing has written. -/
theorem reg_of_reset {s : State} {off : Nat} {d : RegDef} {i j : Nat} (h : s.regs.get? off = none) (ho : off < 0x1000000)
    (hf : findReg off = some (d, i, j)) : s.reg off = ((specialReset s d.base i j).getD d.resetVal) % 2 ^ 32 := by
  simp only [State.reg, h, regReset, Nat.mod_eq_of_lt ho, hf, BitVec.toNat_ofNat]

/-- The row of HST_SQ_CTRL. -/
def sqCtrlRow : RegDef :=
  ⟨"HST_SQ_CTRL", Reg.HST_SQ_CTRL, 2, 0x10000, 64, 0x40, [fld "ENABLE" 31 31 .w1 0, fld "LOG2_SIZE" 19 16 .rw 0, fld "PRIO" 1 0 .rw 0]⟩

/-- The fields of a ring that the device writes. -/
def outRingFields : List Fld :=
  [fld "ENABLE" 31 31 .w1 0, fld "IRQ_EN" 30 30 .rw 0, fld "LOG2_SIZE" 27 24 .rw 0, fld "VECTOR" 21 16 .rw 0, fld "COAL_US" 15 8 .rw 0,
   fld "COAL_CNT" 7 0 .rw 1]

/-- The row of HST_CQ_CTRL. -/
def cqCtrlRow : RegDef := ⟨"HST_CQ_CTRL", Reg.HST_CQ_CTRL, 2, 0x10000, 64, 0x40, outRingFields⟩

theorem findReg_sqCtrl : ∀ (f : Fin 2) (q : Fin 64), findReg (ringOff Reg.HST_SQ_CTRL f.val q.val) = some (sqCtrlRow, f.val, q.val) := by
  decide

theorem findReg_cqCtrl : ∀ (f : Fin 2) (q : Fin 64), findReg (ringOff Reg.HST_CQ_CTRL f.val q.val) = some (cqCtrlRow, f.val, q.val) := by
  decide

theorem ringOff_lt {base : Nat} (h : base < 0x220000) (f : Fin 2) (q : Fin 64) : ringOff base f.val q.val < 0x1000000 := by
  unfold ringOff
  omega

theorem sqCtrl_reset (f : Fin 2) (q : Fin 64) : State.reset.sqCtrl f.val q.val = 0 :=
  reg_of_reset rfl (ringOff_lt (by decide) f q) (findReg_sqCtrl f q)

theorem cqCtrl_reset (f : Fin 2) (q : Fin 64) : State.reset.cqCtrl f.val q.val = 1 + q.val * 0x10000 := by
  have h : State.reset.cqCtrl f.val q.val = (1 + q.val * 0x10000) % 2 ^ 32 :=
    reg_of_reset rfl (ringOff_lt (by decide) f q) (findReg_cqCtrl f q)
  omega

/-- Settles O2, by the reset record; the control words of the rings by the map's reset values. -/
theorem theStateAfterReset : Obligations.TheStateAfterReset := by
  refine ⟨rfl, rfl, rfl, fun i => Nat.zero_testBit i, rfl, ⟨rfl, rfl⟩, fun f q => ⟨?_, ?_⟩, fun _ => rfl, fun _ => rfl, fun _ => rfl, fun _ => rfl,
    fun _ => rfl, fun _ => rfl, rfl, rfl, rfl, fun _ => rfl, rfl, by decide, by decide, by decide⟩
  case refine_1 => rw [sqCtrl_reset, bit, Nat.zero_testBit]
  case refine_2 =>
    rw [cqCtrl_reset, bit]
    exact Nat.testBit_lt_two_pow (by omega)

/-! ## Ring commands that wait (R274, R275, R210, R269) -/

/-- Every ring command goes through the gate. -/
theorem exec_gate {i : Instr} {c : Cmd} (h : ringCmd i = some c) (s : State) : ∃ run, exec i s = .next (gate s i c run) := by
  unfold ringCmd at h
  split at h <;> cases h <;> exact ⟨_, rfl⟩

/-- A command that the gate holds back joins those held. -/
theorem gate_holds {s : State} {i : Instr} {c : Cmd} (run : State → Job → State) (h : blocked s s.held i c.job = true) :
    (gate s i c run).held = s.held ++ [i] ∧ Frame [.held, .inFlight] s (gate s i c run) := by
  have hf : Frame [.inFlight] s (if s.pdOn 2 && s.sys.dorm.isNone then noteFetched s c.job else s) :=
    .ite (frame_noteFetched (by decide) (.refl _ s)) (.refl _ s)
  have e : gate s i c run = { (if s.pdOn 2 && s.sys.dorm.isNone then noteFetched s c.job else s) with
      held := (if s.pdOn 2 && s.sys.dorm.isNone then noteFetched s c.job else s).held ++ [i] } := if_pos h
  rw [e]
  exact ⟨by rw [show _ = s.held from hf.keep .held (by decide)], .held (by decide) (hf.mono (by decide))⟩

section
variable {s : State} {i : Instr} {j : Job} {before : List Instr} {e : Flight}

theorem mem_mine (he : e ∈ earlier s j) (hr : sameRing e.job j = true) : e ∈ (earlier s j).filter (fun e => sameRing e.job j) :=
  List.mem_filter.mpr ⟨he, hr⟩

theorem blocked_unstarted (he : e ∈ earlier s j) (hr : sameRing e.job j = true) (hs : e.started = false) : blocked s before i j = true := by
  have h : ((earlier s j).filter (fun e => sameRing e.job j)).any (fun e => !e.started || e.job.opcode == 0x70) = true :=
    List.any_eq_true.mpr ⟨e, mem_mine he hr, by simp [hs]⟩
  simp [blocked, h]

theorem blocked_ordered (he : e ∈ earlier s j) (hr : sameRing e.job j = true) (ho : j.opcode = 0x02 ∧ j.n 16 1 = 0 ∨ bit (j.n 1 1) 0 = true) :
    blocked s before i j = true := by
  have h : ((bit (j.n 1 1) 0 || (j.opcode == 0x02 && j.n 16 1 == 0)) && !((earlier s j).filter (fun e => sameRing e.job j)).isEmpty) = true := by
    rw [List.isEmpty_eq_false_iff_exists_mem.mpr ⟨e, mem_mine he hr⟩]
    rcases ho with ⟨h1, h2⟩ | h1 <;> simp [*]
  simp [blocked, h]

theorem blocked_function (he : e ∈ earlier s j) (hp : e.job.pf = j.pf) (ho : j.opcode = 0x02) (hn : j.n 16 1 = 1) :
    blocked s before i j = true := by
  have h : (((j.opcode == 0x02 && j.n 16 1 == 1) || j.opcode == 0x70) && (earlier s j).any (fun e => e.job.pf == j.pf)) = true := by
    rw [List.any_eq_true.mpr ⟨e, he, by simpa using hp⟩, ho, hn]
    rfl
  simp [blocked, h]

theorem blocked_pipe {p : Nat} (hp : p ∈ namedPipes s i) (hb : pipeBusy s p = true) : blocked s before i j = true := by
  have h : (namedPipes s i).any (pipeBusy s) = true := List.any_eq_true.mpr ⟨p, hp, hb⟩
  simp [blocked, h]

theorem blocked_load {w : DmaWait} (hw : w ∈ s.host.dma) (ho : w.job.opcode = 0x30) (hn : namedPipes s i ≠ []) : blocked s before i j = true := by
  have h : (!(namedPipes s i).isEmpty && s.host.dma.any (fun w => w.job.opcode == 0x30)) = true := by
    rw [List.any_eq_true.mpr ⟨w, hw, by simpa using ho⟩, List.isEmpty_eq_false_iff.mpr hn]
    rfl
  simp [blocked, h]

/-- A command that nothing of R210, R228, R269, R274, R275 or R399 concerns is not held back. -/
theorem not_blocked (he : earlier s j = []) (h2 : s.pdOn 2 = true) (hd : s.sys.dorm = none) (hm : (s.tg (j.n 16 1)).jobs = [])
    (hp : ∀ p, p ∈ namedPipes s i → pipeBusy s p = false) (hw : ∀ w, w ∈ s.host.dma → w.job.opcode ≠ 0x30) : blocked s [] i j = false := by
  have h1 : (namedPipes s i).any (pipeBusy s) = false := List.any_eq_false.mpr fun p h => by simp [hp p h]
  have h3 : s.host.dma.any (fun w => w.job.opcode == 0x30) = false := List.any_eq_false.mpr fun w h => by simpa using hw w h
  simp [blocked, modeSetWaits, he, h2, hd, hm, h1, h3]

end

/-- Settles O10: what is held back joins those held, and each reason of R274, R275, R210 and R269 holds a command back. -/
theorem orderedCommandsWait : Obligations.OrderedCommandsWait := by
  refine fun i c s hc => ⟨fun hb => ?_, fun _ he hr hs => blocked_unstarted he hr hs, fun _ he hr ho => blocked_ordered he hr ho,
    fun _ he hp ho hn => blocked_function he hp ho hn, fun _ hp hb => blocked_pipe hp hb, fun _ hw ho hn => blocked_load hw ho hn,
    fun he hh h2 hd hm hp hw => ?_⟩
  case refine_1 =>
    obtain ⟨run, e⟩ := exec_gate hc s
    exact ⟨_, e, gate_holds run hb⟩
  case refine_2 =>
    unfold Starts
    rw [hh]
    exact not_blocked he h2 hd hm hp hw

/-! ## Completions that change nothing else -/

/-- What a completion without a mirrored record changes. -/
abbrev entryParts : List Part := [.done, .inFlight, .dma]

theorem frame_begun (s : State) (c : Cmd) : Frame [.inFlight] s (begun s c) := .inFlight (by decide) (.refl _ s)

/-- A job that is no longer among the fetched descriptors, nor among those that wait for their DMA. -/
def offFlight (s : State) (j : Job) : State :=
  { s with host.inFlight := s.host.inFlight.eraseP (fun e => e.job == j), host.dma := s.host.dma.eraseP (fun w => w.job == j) }

theorem frame_offFlight (s : State) (j : Job) : Frame entryParts s (offFlight s j) := by
  have h : Frame entryParts s { s with host.inFlight := s.host.inFlight.eraseP (fun e => e.job == j) } := .inFlight (by decide) (.refl _ s)
  exact Frame.dma (by decide) h

/-- A completion of a command that the mirror does not send, or with another status than DONE, is its entry alone. -/
theorem finish_entry (s : State) (c : Cmd) {st : Status} (fl r : Nat) (h : st ≠ .done ∨ ∀ u, mirrorOfDone u c.job = u) :
    Frame entryParts s (s.finish c.job st fl r) := by
  have hd := frame_offFlight s c.job
  have hu : ∀ u, Frame entryParts s u → Frame entryParts s (if st = .done then mirrorOfDone u c.job else u) := by
    intro u hu
    split
    · next hst => exact (h.resolve_left (fun hn => hn hst) u).symm ▸ hu
    · exact hu
  exact hu _ (.ite hd (.done (by decide) hd))

/-- A started command that completes at once so has ended, and nothing else has changed. -/
theorem begun_finish (s : State) (c : Cmd) {st : Status} (fl r : Nat) (h : st ≠ .done ∨ ∀ u, mirrorOfDone u c.job = u) :
    Ends s ((begun s c).finish c.job st fl r) c st fl r ∧ Frame entryParts s ((begun s c).finish c.job st fl r) :=
  ⟨finish_ends rfl rfl rfl, ((frame_begun s c).mono (by decide)).trans (finish_entry _ c fl r h)⟩

theorem mirrorOfDone_nop {j : Job} (h : j.opcode = 0x01) (u : State) : mirrorOfDone u j = u := by simp [mirrorOfDone, h]

theorem mirrorOfDone_fence {j : Job} (h : j.opcode = 0x02) (u : State) : mirrorOfDone u j = u := by simp [mirrorOfDone, h]

/-! ## NOP, FENCE and unknown opcodes (R275, R278, R456) -/

section
variable {s : State} {c : Cmd}

theorem exec_unknown (hs : Starts s (.unknownOpcode c) c) :
    exec (.unknownOpcode c) s = .next ((begun s c).finish c.job .unsupported 0 0) :=
  congrArg Host.Outcome.next (gate_starts _ hs)

theorem exec_nop_done (hs : Starts s (.nop c) c) (hh : headerOk c.job = true) (hz : c.job.zero [(24, 40)] = true) :
    exec (.nop c) s = .next ((begun s c).finish c.job .done 0 (c.job.n 16 8)) := by
  have e : exec (.nop c) s = .next (doNop (begun s c) c.job) := congrArg Host.Outcome.next (gate_starts _ hs)
  rw [e, doNop, hh, hz]
  rfl

theorem exec_nop_bad (hs : Starts s (.nop c) c) (h : headerOk c.job = false ∨ c.job.zero [(24, 40)] = false) :
    exec (.nop c) s = .next ((begun s c).finish c.job .badDescriptor 0 (c.job.n 16 8)) := by
  have e : exec (.nop c) s = .next (doNop (begun s c) c.job) := congrArg Host.Outcome.next (gate_starts _ hs)
  rw [e, doNop, if_neg (by rcases h with h | h <;> simp [h])]

theorem exec_fence_done (hs : Starts s (.fence c) c) (hh : headerOk c.job = true) (hz : c.job.zero [(17, 47)] = true) (hn : c.job.n 16 1 ≤ 1) :
    exec (.fence c) s = .next ((begun s c).finish c.job .done 0 0) := by
  have e : exec (.fence c) s = .next (doFence (begun s c) c.job) := congrArg Host.Outcome.next (gate_starts _ hs)
  rw [e, doFence, if_pos (by simp [hh, hz, hn])]

theorem exec_fence_bad (hs : Starts s (.fence c) c) (h : headerOk c.job = false ∨ c.job.zero [(17, 47)] = false ∨ c.job.n 16 1 > 1) :
    exec (.fence c) s = .next ((begun s c).finish c.job .badDescriptor 0 0) := by
  have e : exec (.fence c) s = .next (doFence (begun s c) c.job) := congrArg Host.Outcome.next (gate_starts _ hs)
  rw [e, doFence, if_neg (by rcases h with h | h | h <;> simp [h])]

theorem nop_completes (ho : c.job.opcode = 0x01) (hs : Starts s (.nop c) c) : ∃ t, exec (.nop c) s = .next t ∧ Frame entryParts s t
    ∧ (headerOk c.job = true → c.job.zero [(24, 40)] = true → Ends s t c .done 0 (c.job.n 16 8))
    ∧ (headerOk c.job = false ∨ c.job.zero [(24, 40)] = false → Ends s t c .badDescriptor 0 (c.job.n 16 8)) := by
  by_cases h : headerOk c.job = true ∧ c.job.zero [(24, 40)] = true
  · obtain ⟨he, hf⟩ := begun_finish s c 0 (c.job.n 16 8) (.inr (mirrorOfDone_nop ho))
    exact ⟨_, exec_nop_done hs h.1 h.2, hf, fun _ _ => he, fun hb => by simp [h] at hb⟩
  · have hb : headerOk c.job = false ∨ c.job.zero [(24, 40)] = false :=
      (not_and_or.mp h).imp Bool.eq_false_iff.mpr Bool.eq_false_iff.mpr
    obtain ⟨he, hf⟩ := begun_finish s c 0 (c.job.n 16 8) (.inl (show Status.badDescriptor ≠ .done by decide))
    exact ⟨_, exec_nop_bad hs hb, hf, fun h1 h2 => absurd ⟨h1, h2⟩ h, fun _ => he⟩

theorem fence_completes (ho : c.job.opcode = 0x02) (hs : Starts s (.fence c) c) : ∃ t, exec (.fence c) s = .next t ∧ Frame entryParts s t
    ∧ (headerOk c.job = true → c.job.zero [(17, 47)] = true → c.job.n 16 1 ≤ 1 → Ends s t c .done 0 0)
    ∧ (headerOk c.job = false ∨ c.job.zero [(17, 47)] = false ∨ c.job.n 16 1 > 1 → Ends s t c .badDescriptor 0 0) := by
  by_cases h : headerOk c.job = true ∧ c.job.zero [(17, 47)] = true ∧ c.job.n 16 1 ≤ 1
  · obtain ⟨h1, h2, h3⟩ := h
    obtain ⟨he, hf⟩ := begun_finish s c 0 0 (.inr (mirrorOfDone_fence ho))
    exact ⟨_, exec_fence_done hs h1 h2 h3, hf, fun _ _ _ => he, fun hb => by simp [h1, h2] at hb; omega⟩
  · have hb : headerOk c.job = false ∨ c.job.zero [(17, 47)] = false ∨ c.job.n 16 1 > 1 :=
      (not_and_or.mp h).imp Bool.eq_false_iff.mpr fun h => (not_and_or.mp h).imp Bool.eq_false_iff.mpr not_le.mp
    obtain ⟨he, hf⟩ := begun_finish s c 0 0 (.inl (show Status.badDescriptor ≠ .done by decide))
    exact ⟨_, exec_fence_bad hs hb, hf, fun h1 h2 h3 => absurd ⟨h1, h2, h3⟩ h, fun _ => he⟩

theorem unknown_completes (hs : Starts s (.unknownOpcode c) c) :
    ∃ t, exec (.unknownOpcode c) s = .next t ∧ Frame entryParts s t ∧ Ends s t c .unsupported 0 0 := by
  obtain ⟨he, hf⟩ := begun_finish s c 0 0 (.inl (show Status.unsupported ≠ .done by decide))
  exact ⟨_, exec_unknown hs, hf, he⟩

end

/-- Settles O11, by what a NOP and an unknown opcode complete with. -/
theorem nopAndUnknownOpcodesComplete : Obligations.NopAndUnknownOpcodesComplete :=
  fun _ _ => ⟨fun ho hs => nop_completes ho hs, fun hs => unknown_completes hs⟩

end Sys2Proof.Machine

/-! SUPPORT. Refused ring commands: the first status that applies, and what a refusal leaves alone. -/

namespace Sys2Proof.Machine

/-! ## What a refusal does (R279, R338, R388) -/

/-- What the wake of a unit ahead of a command may change (R388). -/
def wakeParts : Instr → List Part
  | .streamOpen _ | .encOpen _ | .captureCfg _ _ | .modeSet _ => [.power, .caps, .out]
  | _ => []

theorem refusalParts_eq (i : Instr) : refusalParts i = entryParts ++ wakeParts i := by
  cases i <;> rfl

/-- A command is refused with r, but for its RESULT, and what it wakes is all that follows. -/
def Refuses (i : Instr) (c : Cmd) (s : State) (r : Refuse) : Prop :=
  ∃ (wake : State → State) (result : Nat), exec i s = .next (wake ((begun s c).refuse c.job { r with result := result })) ∧ ∀ u, Frame (wakeParts i) u (wake u)

section
variable {i : Instr} {c : Cmd} {s : State} {sp : State → Job → CmdSpec} {run : State → Job → State} {r : Refuse}

theorem runJob_refuses {j : Job} {p : CmdSpec} (act : State → State) (h : firstRefusal s j p = some r) : runJob s j p act = s.refuse j r := by
  simp [runJob, h]

theorem refuses_waking {wake : State → State} (hs : Starts s i c) (he : exec i s = .next (gate s i c run)) (hw : ∀ u, Frame (wakeParts i) u (wake u))
    (hrun : ∀ u, ∃ act, run u c.job = wake (runJob u c.job (sp u c.job) act))
    (hr : firstRefusal (begun s c) c.job (sp (begun s c) c.job) = some r) : Refuses i c s r := by
  obtain ⟨act, ha⟩ := hrun (begun s c)
  exact ⟨wake, r.result, by rw [he, gate_starts run hs, ha, runJob_refuses act hr], hw⟩

theorem refuses_plain (hs : Starts s i c) (he : exec i s = .next (gate s i c run)) (hrun : ∀ u, ∃ act, run u c.job = runJob u c.job (sp u c.job) act)
    (hr : firstRefusal (begun s c) c.job (sp (begun s c) c.job) = some r) : Refuses i c s r :=
  refuses_waking (wake := id) hs he (fun u => .refl _ u) hrun hr

/-- STATE_LOAD and COMMIT are refused with a RESULT of their own (R208). -/
theorem refuses_comp (hs : Starts s i c) (he : exec i s = .next (gate s i c run)) (hrun : ∀ u, ∃ act, run u c.job = runComp u c.job (sp u c.job) act)
    (hr : firstRefusal (begun s c) c.job (sp (begun s c) c.job) = some r) : Refuses i c s r := by
  obtain ⟨act, ha⟩ := hrun (begun s c)
  have e : runComp (begun s c) c.job (sp (begun s c) c.job) act = (begun s c).refuse c.job { r with result := compNone } := by
    simp only [runComp, hr]
  exact ⟨id, compNone, by rw [he, gate_starts run hs, ha, e, id], fun u => .refl _ u⟩

end

/-- Every ring command with checks is refused with the first of them that applies. -/
theorem ringCmd_refuses {i : Instr} {c : Cmd} {s : State} {sp : State → Job → CmdSpec} {r : Refuse} (hc : ringCmd i = some c)
    (hsp : ringSpec i = some sp) (hs : Starts s i c) (hr : firstRefusal (begun s c) c.job (sp (begun s c) c.job) = some r) : Refuses i c s r := by
  cases i with
  | streamOpen _ => cases hsp; cases hc; exact refuses_waking hs rfl (fun u => frame_wake u) (fun _ => ⟨_, by rw [doStreamOpen]⟩) hr
  | streamFeed _ _ _ => cases hsp; cases hc; exact refuses_plain hs rfl (fun _ => ⟨_, by rw [doFeed]⟩) hr
  | streamClose _ => cases hsp; cases hc; exact refuses_plain hs rfl (fun _ => ⟨_, by rw [doClose]⟩) hr
  | streamFlush _ => cases hsp; cases hc; exact refuses_plain hs rfl (fun _ => ⟨_, by rw [doFlush]⟩) hr
  | surfacePool _ => cases hsp; cases hc; exact refuses_plain hs rfl (fun _ => ⟨_, by rw [doSurfacePool]⟩) hr
  | encOpen _ => cases hsp; cases hc; exact refuses_waking hs rfl (fun u => frame_wake u) (fun _ => ⟨_, by rw [doEncOpen]⟩) hr
  | encParams _ => cases hsp; cases hc; exact refuses_plain hs rfl (fun _ => ⟨_, by rw [doEncParams]⟩) hr
  | encClose _ => cases hsp; cases hc; exact refuses_plain hs rfl (fun _ => ⟨_, by rw [doEncClose]⟩) hr
  | encOutbuf _ => cases hsp; cases hc; exact refuses_plain hs rfl (fun _ => ⟨_, by rw [doEncOutbuf]⟩) hr
  | captureCfg _ _ => cases hsp; cases hc; exact refuses_waking hs rfl (fun u => frame_wake u) (fun _ => ⟨_, by rw [doCaptureCfg]⟩) hr
  | stateLoad _ _ => cases hsp; cases hc; exact refuses_comp hs rfl (fun _ => ⟨_, by rw [doStateLoad]⟩) hr
  | commit _ => cases hsp; cases hc; exact refuses_comp hs rfl (fun _ => ⟨_, by rw [doCommit]⟩) hr
  | liveSet _ => cases hsp; cases hc; exact refuses_plain hs rfl (fun _ => ⟨_, by rw [doLiveSet]⟩) hr
  | slateLoad _ _ => cases hsp; cases hc; exact refuses_plain hs rfl (fun _ => ⟨_, by rw [doSlateLoad]⟩) hr
  | modeSet _ => cases hsp; cases hc; exact refuses_waking hs rfl (fun u => frame_wakeOutputs (List.Subset.refl _) (.refl _ u)) (fun _ => ⟨_, by rw [doModeSet]⟩) hr
  | fumPolicy _ => cases hsp; cases hc; exact refuses_plain hs rfl (fun _ => ⟨_, by rw [doFumPolicy]⟩) hr
  | fumBind _ => cases hsp; cases hc; exact refuses_plain hs rfl (fun _ => ⟨_, by rw [doFumBind]⟩) hr
  | fumSnapshot _ => cases hsp; cases hc; exact refuses_plain hs rfl (fun _ => ⟨_, by rw [doSnapshot]⟩) hr
  | checkCfg _ => cases hsp; cases hc; exact refuses_plain hs rfl (fun _ => ⟨_, by rw [doCheckCfg]⟩) hr
  | routeSet _ _ => cases hsp; cases hc; exact refuses_plain hs rfl (fun _ => ⟨_, by rw [doRouteSet]⟩) hr
  | groupSet _ => cases hsp; cases hc; exact refuses_plain hs rfl (fun _ => ⟨_, by rw [doGroupSet]⟩) hr
  | timeCfg _ => cases hsp; cases hc; exact refuses_plain hs rfl (fun _ => ⟨_, by rw [doTimeCfg]⟩) hr
  | tephraCfg _ => cases hsp; cases hc; exact refuses_plain hs rfl (fun _ => ⟨_, by rw [doTephraCfg]⟩) hr
  | touchMap _ => cases hsp; cases hc; exact refuses_plain hs rfl (fun _ => ⟨_, by rw [doTouchMap]⟩) hr
  | touchRefLoad _ _ => cases hsp; cases hc; exact refuses_plain hs rfl (fun _ => ⟨_, by rw [doTouchRef]⟩) hr
  | mirrorCfg _ => cases hsp; cases hc; exact refuses_plain hs rfl (fun _ => ⟨_, by rw [doMirrorCfg]⟩) hr
  | dormantEnter _ => cases hsp; cases hc; exact refuses_plain hs rfl (fun _ => ⟨_, by rw [doDormantEnter]⟩) hr
  | memWrite _ _ => cases hsp; cases hc; exact refuses_plain hs rfl (fun _ => ⟨_, by rw [doMemWrite]⟩) hr
  | memRead _ => cases hsp; cases hc; exact refuses_plain hs rfl (fun _ => ⟨_, by rw [doMemRead]⟩) hr
  | serviceEnter _ => cases hsp; cases hc; exact refuses_plain hs rfl (fun _ => ⟨_, by rw [doServiceEnter]⟩) hr
  | serviceExit _ => cases hsp; cases hc; exact refuses_plain hs rfl (fun _ => ⟨_, by rw [doServiceExit]⟩) hr
  | _ => cases hsp

/-! ## The statuses of a refusal (R279) -/

/-- A check of a command refuses with another status than DONE, and with DENIED where the MPU denied an access. -/
def Sound (o : Option Refuse) : Prop := ∀ r, o = some r → r.st ≠ .done ∧ (r.deny ≠ none → r.st = .denied)

@[simp] theorem sound_none : Sound none := fun _ h => by cases h

@[simp] theorem sound_unless {p : Prop} [Decidable p] {a : Option Refuse} (h : Sound a) : Sound (if p then none else a) := by
  split <;> simp [h]

@[simp] theorem sound_where {p : Prop} [Decidable p] {a : Option Refuse} (h : Sound a) : Sound (if p then a else none) := by
  split <;> simp [h]

@[simp] theorem sound_chk {bad : Bool} {st : Status} (h : st ≠ .done) : Sound (chk bad st) :=
  sound_where fun _ e => by cases e; exact ⟨h, fun hd => absurd rfl hd⟩

@[simp] theorem sound_chkMpu (s : State) (mid addr len : Nat) (write : Bool) : Sound (chkMpu s mid addr len write) := by
  unfold chkMpu
  split
  · exact fun _ e => by cases e; exact ⟨nofun, fun _ => rfl⟩
  · exact sound_none

@[simp] theorem sound_chkAperture (s : State) (addr len : Nat) : Sound (chkAperture s addr len) := sound_chk (by decide)

@[simp] theorem sound_chkOwner (s : State) (j : Job) (cls : Nat) : Sound (chkOwner s j cls) := by
  unfold chkOwner
  split
  · exact sound_none
  · exact sound_chk (by decide)

@[simp] theorem sound_chkCommitOwner (s : State) (j : Job) : Sound (chkCommitOwner s j) := sound_where (sound_chkOwner s j 2)

/-- All of a command's own checks do. -/
def Sounds (l : List (Option Refuse)) : Prop := ∀ o ∈ l, Sound o

@[simp] theorem sounds_nil : Sounds [] := fun _ h => by cases h

@[simp] theorem sounds_cons {o : Option Refuse} {l : List (Option Refuse)} : Sounds (o :: l) ↔ Sound o ∧ Sounds l := List.forall_mem_cons

/-- The own checks of every ring command do. -/
theorem sounds_own {i : Instr} {sp : State → Job → CmdSpec} (h : ringSpec i = some sp) (s : State) (j : Job) : Sounds (sp s j).own := by
  unfold ringSpec at h
  split at h <;> cases h
  all_goals simp [streamOpenSpec, feedSpec, closeSpec, flushSpec, surfacePoolSpec, encOpenSpec, encParamsSpec, encCloseSpec, encOutbufSpec,
    captureCfgSpec, stateLoadSpec, commitSpec, liveSetSpec, slateLoadSpec, modeSetSpec, fumPolicySpec, fumBindSpec, snapshotSpec, checkCfgSpec,
    routeSetSpec, groupSetSpec, timeCfgSpec, tephraCfgSpec, touchMapSpec, touchRefSpec, mirrorCfgSpec, dormantEnterSpec, memWriteSpec,
    memReadSpec, copyChecks, serviceEnterSpec, serviceExitSpec]

/-! ## Refused commands (R279) -/

section
variable {i : Instr} {c : Cmd} {s : State} {r : Refuse}

theorem wakeParts_sub (i : Instr) : ∀ p ∈ wakeParts i, p ∈ ([.power, .caps, .out] : List Part) := by
  cases i <;> simp [wakeParts]

theorem Refuses.completes (h : Refuses i c s r) (hst : r.st ≠ .done) (hd : r.deny = none) :
    ∃ t result, exec i s = .next t ∧ Ends s t c r.st 0 result ∧ Frame (refusalParts i) s t := by
  obtain ⟨wake, x, he, hw⟩ := h
  have e : (begun s c).refuse c.job { r with result := x } = (begun s c).finish c.job r.st 0 x := by simp only [State.refuse, hd]
  obtain ⟨h1, h2⟩ := begun_finish s c 0 x (.inl hst)
  rw [e] at he
  rw [refusalParts_eq]
  exact ⟨_, x, he, h1.later ((hw _).mono (wakeParts_sub i)) (by decide),
    (h2.mono (List.subset_append_left _ _)).trans ((hw _).mono (List.subset_append_right _ _))⟩

/-- A denial ahead of the completion is captured, counted and told as an event (R338). -/
theorem Refuses.denies (h : Refuses i c s r) (hst : r.st = .denied) (hd : r.deny ≠ none) :
    ∃ t result, exec i s = .next t ∧ Ends s t c .denied 0 result ∧ Frame (eventParts ++ refusalParts i) s t
      ∧ (∀ o, ¬ EventReg o → t.reg o = s.reg o) ∧ ∀ l, (t.link l).st = (s.link l).st := by
  obtain ⟨wake, x, he, hw⟩ := h
  obtain ⟨⟨mid, a, n, w⟩, hd⟩ := Option.ne_none_iff_exists'.mp hd
  let u := (begun s c).mpuDeny mid a n w
  have e : (begun s c).refuse c.job { r with result := x } = u.finish c.job .denied 0 x := by simp only [State.refuse, hd, hst, u]
  have hu : Frame eventParts (begun s c) u := frame_State_mpuDeny (by decide) (.refl _ _)
  have hcalm : CalmOf EventReg s u := calm_State_mpuDeny (fun _ => id) (CalmOf.refl s).upd
  have hfin : Frame entryParts u (u.finish c.job .denied 0 x) := finish_entry u c 0 x (.inl (by decide))
  have hend : Frame (entryParts ++ [.power, .caps, .out]) u (wake (u.finish c.job .denied 0 x)) :=
    (hfin.mono (by decide)).trans ((hw _).mono (List.Subset.trans (wakeParts_sub i) (by decide)))
  rw [e] at he
  rw [refusalParts_eq]
  refine ⟨_, x, he, (hu.finish_ends (by decide)).later ((hw _).mono (wakeParts_sub i)) (by decide), ?_, fun o ho => ?_, fun l => ?_⟩
  case refine_1 =>
    exact (((frame_begun s c).mono (by simp)).trans (hu.mono (by simp))).trans
      ((hfin.mono (by simp)).trans ((hw _).mono fun p hp => by simp [hp]))
  case refine_2 =>
    have hr : (wake (u.finish c.job .denied 0 x)).regs = u.regs := hend.keep .regs (by decide)
    exact (CalmOf.reg (hcalm.upd hr (hend.keep .links (by decide)) (hend.keep .otp (by decide)) (hend.keep .straps (by decide))) ho)
  case refine_3 => exact (congrArg LinkRec.st (by simp only [State.link, show _ = _ from hend.keep .links (by decide)])).trans (hcalm.st l)

theorem firstRefusal_pf1 {j : Job} {p : CmdSpec} (h : p.pf0 = true ∧ j.pf ≠ 0) : firstRefusal s j p = some ⟨.denied, 0, none⟩ := by
  simp [firstRefusal, h]

theorem firstRefusal_unready {j : Job} {p : CmdSpec} (h1 : ¬ (p.pf0 = true ∧ j.pf ≠ 0)) (h2 : s.isReady 1 = false ∨ p.ready = false) :
    firstRefusal s j p = some ⟨.notReady, 0, none⟩ := by
  unfold firstRefusal
  rw [if_neg h1, if_pos (by simpa using h2)]

theorem firstRefusal_reserved {j : Job} {p : CmdSpec} (h1 : ¬ (p.pf0 = true ∧ j.pf ≠ 0)) (h2 : ¬ (s.isReady 1 = false ∨ p.ready = false))
    (h3 : headerOk j = false ∨ p.body = false) : firstRefusal s j p = some ⟨.badDescriptor, 0, none⟩ := by
  unfold firstRefusal
  rw [if_neg h1, if_neg (by simpa using h2), if_pos (by simpa using h3)]

theorem firstRefusal_own {j : Job} {p : CmdSpec} (h1 : ¬ (p.pf0 = true ∧ j.pf ≠ 0)) (h2 : ¬ (s.isReady 1 = false ∨ p.ready = false))
    (h3 : ¬ (headerOk j = false ∨ p.body = false)) : firstRefusal s j p = p.own.findSome? id := by
  unfold firstRefusal
  rw [if_neg h1, if_neg (by simpa using h2), if_neg (by simpa using h3)]

end

/-- The first own check that applies is one of a command's own. -/
theorem sound_first {l : List (Option Refuse)} {r : Refuse} (h : Sounds l) (hr : l.findSome? id = some r) : r.st ≠ .done ∧ (r.deny ≠ none → r.st = .denied) := by
  obtain ⟨o, ho, e⟩ := List.exists_of_findSome?_eq_some hr
  exact h o ho r e

/-- Settles O9: the first check that applies refuses the command, and a refusal is its completion behind what it captures and wakes. -/
theorem refusedCommandsHaveNoEffect : Obligations.RefusedCommandsHaveNoEffect := by
  refine ⟨fun c s => ⟨fun hs => ?_, fun hs h => ?_, fun hs h => ?_⟩, fun i c s sp hc hsp hs => ⟨fun h1 => ?_, fun h1 h2 => ?_, fun h1 h2 h3 => ?_,
    fun r h1 h2 h3 hr => ?_⟩⟩
  case refine_1 => exact ⟨_, exec_unknown hs, begun_finish s c 0 0 (.inl (by decide))⟩
  case refine_2 => exact ⟨_, exec_nop_bad hs h, begun_finish s c 0 _ (.inl (by decide))⟩
  case refine_3 => exact ⟨_, exec_fence_bad hs h, begun_finish s c 0 0 (.inl (by decide))⟩
  case refine_4 => exact (ringCmd_refuses hc hsp hs (firstRefusal_pf1 h1)).completes (by decide) rfl
  case refine_5 => exact (ringCmd_refuses hc hsp hs (firstRefusal_unready h1 h2)).completes (by decide) rfl
  case refine_6 => exact (ringCmd_refuses hc hsp hs (firstRefusal_reserved h1 h2 h3)).completes (by decide) rfl
  case refine_7 =>
    have hrf := ringCmd_refuses hc hsp hs ((firstRefusal_own h1 h2 h3).trans hr)
    obtain ⟨hst, hden⟩ := sound_first (sounds_own hsp _ _) hr
    exact ⟨hst, fun hd => hrf.completes hst hd, fun hd => ⟨hden hd, hrf.denies (hden hd) hd⟩⟩

end Sys2Proof.Machine

/-! SUPPORT. ringEnable on a state whose word of HST_SQ_CTRL holds a bit that no field has. -/

namespace Sys2Proof.Machine

/-- A device whose PD2 is on and that holds bit 20, which is reserved, in HST_SQ_CTRL of ring 0 of PF1. -/
def strayDevice : State :=
  { State.reset with
    regs := [(ringOff Reg.HST_SQ_CTRL 1 0, 0x00100000)]
    sys := { State.reset.sys with power := { State.reset.sys.power with on := 5 } } }

/-- ENABLE with a size of 2^4 descriptors. -/
def enableSmallest : U32 := 0x80040000

/-- A write changes the bits of the fields it can write and leaves the reserved bit as it was (R319). -/
theorem strayDevice_keeps_bit : (rowWrite strayDevice .nm0 (ringOff Reg.HST_SQ_CTRL 1 0) enableSmallest).sqCtrl 1 0 = 0x80140000 := by
  decide +kernel

/-- Refutes O46: its first clause says that the control word is the written bits of the fields alone. A state may hold a reserved bit there, as
strayDevice does; the write of ENABLE keeps it, and the word differs from what the clause says. -/
theorem not_ringEnableStartsRing : ¬ Obligations.RingEnableStartsRing := by
  intro h
  obtain ⟨hsq, -⟩ := h strayDevice .nm0 1 0 enableSmallest (by decide)
  have hreaches : Reaches strayDevice .nm0 (ringOff Reg.HST_SQ_CTRL 1 0) := ⟨by decide, by decide, by decide, by decide⟩
  obtain ⟨t, ht, hword, -⟩ := hsq hreaches (by decide) (.inl rfl) (by decide) (by decide)
  have he : rowWrite strayDevice .nm0 (ringOff Reg.HST_SQ_CTRL 1 0) enableSmallest = t := Host.Outcome.next.inj ht
  rw [show ((1 : Fin 2) : Nat) = 1 from rfl, show ((0 : Fin 64) : Nat) = 0 from rfl, ← he, strayDevice_keeps_bit] at hword
  exact absurd hword (by decide)

end Sys2Proof.Machine

/-! SUPPORT. Doorbells: what an event leaves of the queues, and what a doorbell does to its ring (R261, R270, R273, R286, R402). -/

namespace Sys2Proof.Machine

/-! ## The queues behind an event -/

/-- The queues and the order of their service are the same; the event rings may differ. -/
structure QueuesKept (s t : State) : Prop where
  sq     : t.host.sq = s.host.sq
  cq     : t.host.cq = s.host.cq
  lastSq : t.host.lastSq = s.host.lastSq

theorem QueuesKept.refl (s : State) : QueuesKept s s := ⟨rfl, rfl, rfl⟩

theorem QueuesKept.trans {s t u : State} (h : QueuesKept s t) (k : QueuesKept t u) : QueuesKept s u :=
  ⟨k.sq.trans h.sq, k.cq.trans h.cq, k.lastSq.trans h.lastSq⟩

theorem QueuesKept.of_frame {m : List Part} {s t : State} (h : Frame m s t) (hm : Part.rings ∉ m) : QueuesKept s t :=
  have ⟨hsq, hcq, _, hlast⟩ := h.keep .rings hm
  ⟨hsq, hcq, hlast⟩

theorem QueuesKept.ite {s t u : State} {c : Prop} [Decidable c] (ht : QueuesKept s t) (hu : QueuesKept s u) : QueuesKept s (if c then t else u) := by
  split <;> assumption

theorem QueuesKept.sq_eq {s t : State} (h : QueuesKept s t) (f q : Nat) : t.sq f q = s.sq f q := by simp only [State.sq, h.sq]

theorem QueuesKept.cq_eq {s t : State} (h : QueuesKept s t) (f q : Nat) : t.cq f q = s.cq f q := by simp only [State.cq, h.cq]

theorem frame_ringIrq_msix (s : State) (pf ctrl : Nat) (r : CqRec) : Frame [.irq, .out] s (ringIrq msixSignal s pf ctrl r).2 :=
  frame_ringIrq (by decide) (fun _ _ _ h => frame_msixSignal (by decide) h) (.refl _ s)

theorem queuesKept_noted (s : State) (code : Nat) (data : List Byte) : QueuesKept s (noted s code data) := ⟨rfl, rfl, rfl⟩

theorem queuesKept_rateMark (s : State) (key : Nat) : QueuesKept s (s.rateMark key) := ⟨rfl, rfl, rfl⟩

theorem queuesKept_bump (s : State) (o : Nat) : QueuesKept s (s.bump o) := ⟨rfl, rfl, rfl⟩

theorem queuesKept_evqWrite (s : State) (w pf : Nat) (evr : List Byte) : QueuesKept s (evqWrite s w pf evr) := by
  unfold evqWrite
  extract_lets -merge -underBinder +onlyGivenNames ctrl key r n
  refine .ite (.refl s) (.ite ⟨rfl, rfl, rfl⟩ ?_)
  extract_lets -merge -underBinder +onlyGivenNames base t
  have h : QueuesKept s (ringIrq msixSignal t pf ctrl (ringAdvance n r)).2 :=
    (QueuesKept.of_frame (frame_State_emit (List.Subset.refl _) (.refl _ s)) (by decide)).trans
      (.of_frame (frame_ringIrq_msix t pf ctrl (ringAdvance n r)) (by decide))
  exact ⟨h.sq, h.cq, h.lastSq⟩

theorem queuesKept_evqDeliver (s : State) (w : Nat) (evr : List Byte) : QueuesKept s (evqDeliver s w evr) := by
  unfold evqDeliver
  simp only [List.foldl_cons, List.foldl_nil]
  exact (QueuesKept.ite (queuesKept_evqWrite s w 0 evr) (.refl s)).trans (.ite (queuesKept_evqWrite _ w 1 evr) (.refl _))

/-- What an event may change on a device that is no gateway: no ring of its own. -/
abbrev awayParts : List Part := [.evSeq, .out, .dorm, .regs, .irq, .rate, .localQ, .links, .exch]

theorem gateway_of_frame {m : List Part} {s t : State} (h : Frame m s t) (hm : Part.ready ∉ m) : t.isGateway = s.isGateway := by
  have hr : t.sys.ready = s.sys.ready := h.keep .ready hm
  simp only [State.isGateway, State.isReady, hr]

theorem frame_raiseN_away {s : State} (hg : s.isGateway = false) (n : Nat) {u : State} (h : Frame awayParts s u) (code : Nat) (data : List Byte) :
    Frame awayParts s (raiseN n u code data) := by
  induction n generalizing u code data with
  | zero =>
    rw [raiseN]
    exact frame_State_emit (by decide) (.evSeq (by decide) h)
  | succ n ih =>
    have hn : Frame awayParts s (noted u code data) := frame_State_emit (by decide) (.evSeq (by decide) h)
    have hgn : (noted u code data).isGateway = false := (gateway_of_frame hn (by decide)).trans hg
    obtain ⟨d, e⟩ | ⟨seq, evr, e⟩ := raiseN_cases n u code data <;> rw [e]
    · exact .dorm (by decide) hn
    · unfold sendRecord
      rw [hgn, if_neg Bool.false_ne_true]
      exact .ite (frame_routeWith (by decide) (fun _ _ _ g => ih g _ _) hn) hn

theorem frame_raise_away {s u : State} (hg : s.isGateway = false) (h : Frame awayParts s u) (code : Nat) (data : List Byte) :
    Frame awayParts s (u.raise code data) := frame_raiseN_away hg 12 h code data

/-- An event leaves the queues alone: it goes into event rings, or over the fabric. -/
theorem queuesKept_raise (s : State) (code : Nat) (data : List Byte) : QueuesKept s (s.raise code data) := by
  cases hg : s.isGateway with
  | false => exact .of_frame (frame_raise_away hg (.refl _ s) code data) (by decide)
  | true =>
    unfold State.raise
    obtain ⟨d, e⟩ | ⟨seq, evr, e⟩ := raiseN_cases 11 s code data <;> rw [e]
    · exact ⟨rfl, rfl, rfl⟩
    · have hn : (noted s code data).isGateway = true := hg
      rw [sendRecord, if_pos hn]
      exact (queuesKept_noted s code data).trans (queuesKept_evqDeliver _ 0 evr)

theorem queuesKept_ringFault (s : State) (f ring kind : Nat) : QueuesKept s (ringFault s f ring kind) := by
  unfold ringFault State.raiseLimited
  split
  · exact (queuesKept_rateMark s _).trans (queuesKept_raise _ _ _)
  · exact .refl s

/-! ## Faults of rings that are counted (R261, R270) -/

/-- A register of the host rings that no event keeps. -/
theorem not_eventReg {o : Nat} (h : o % 0x10000 = 0x1018 ∨ o % 0x10000 = 0x101C) (ho : 0x211018 ≤ o ∧ o < 0x240000) : ¬ EventReg o := by
  rintro (hl | ⟨l, _, rfl⟩ | ⟨l, rfl | rfl⟩ | ⟨w, f, rfl⟩)
  · simp only [Reg.SYS_MPU_DENY_CNT, Reg.SYS_MPU_CAP0, Reg.SYS_MPU_CAP1, Reg.FAB_NOROUTE_DROP, Reg.FAB_HOP_DROP, Reg.EDG_PAIR_GATED_CNT,
      List.mem_cons, List.not_mem_nil, or_false] at hl
    omega
  · simp only [Reg.FAB_TEPHRA_COUNT] at ho
    omega
  · simp only [Reg.FAB_LINK_TX_DROP] at ho
    omega
  · simp only [Reg.FAB_LINK_FORMAT_ERR] at ho
    omega
  · simp only [evqOff, Reg.HST_EVQ_LOST] at h
    omega

/-- A fault that is counted and told leaves its counter one higher. -/
theorem cnt_ringFault {s : State} {o : Nat} (ho : ¬ EventReg o) (f ring kind : Nat) :
    (ringFault (s.bump o) f ring kind).cnt o = min (s.cnt o + 1) 0xFFFFFFFF :=
  ((calm_State_raiseLimited (P := EventReg) (fun _ h => h) (.refl (s.bump o))).cnt ho).trans (State.cnt_bumpBy s o 1)

theorem dbFault_not_eventReg (f : Fin 2) : ¬ EventReg (Reg.HST_DB_FAULT_CNT + 0x10000 * f.val) :=
  not_eventReg (.inl (by simp only [Reg.HST_DB_FAULT_CNT]; omega)) (by simp only [Reg.HST_DB_FAULT_CNT]; omega)

/-- A doorbell was counted as a fault and moved no queue. -/
structure Faulted (s t : State) (f : Nat) : Prop where
  kept    : QueuesKept s t
  counted : t.cnt (Reg.HST_DB_FAULT_CNT + 0x10000 * f) = min (s.cnt (Reg.HST_DB_FAULT_CNT + 0x10000 * f) + 1) 0xFFFFFFFF

theorem faulted_bump (s : State) (f : Fin 2) : Faulted s (s.bump (Reg.HST_DB_FAULT_CNT + 0x10000 * f.val)) f.val :=
  ⟨queuesKept_bump s _, State.cnt_bumpBy s _ 1⟩

theorem faulted_badDoorbell (s : State) (f : Fin 2) (ring : Nat) : Faulted s (badDoorbell s f.val ring) f.val :=
  ⟨(queuesKept_bump s _).trans (queuesKept_ringFault _ _ _ _), cnt_ringFault (dbFault_not_eventReg f) _ _ _⟩

/-- When a doorbell of a ring is a fault (R261): it is not enabled, or the value is beyond its size or 4095. -/
theorem doorbell_bad {b : Bool} {n v : Nat} : (v ≥ 4096 ∨ (!b) = true ∨ v ≥ n) ↔ (b = false ∨ n ≤ v ∨ 4096 ≤ v) := by
  cases b <;> simp only [Bool.not_false, Bool.not_true, Bool.false_eq_true, reduceCtorEq, true_or, or_true, false_or, ge_iff_le]
  exact Or.comm

theorem doorbell_good {b : Bool} {n v : Nat} (hb : b = true) (hs : v < n) (hv : v < 4096) : ¬ (v ≥ 4096 ∨ (!b) = true ∨ v ≥ n) := by
  rw [doorbell_bad, hb]
  simp only [reduceCtorEq, false_or]
  omega

/-! ## A host's doorbell while the device is awake -/

/-- While PD2 is on in a device that is awake, a TLP is its effect. -/
theorem hostTlp_awake {s : State} {g : State → State} (h2 : s.pdOn 2 = true) (hm : s.sys.mode ≠ .dormant) (hg : (g s).sys.mode = s.sys.mode) :
    hostTlp s g = g s := by
  rw [hostTlp, if_pos (.inl h2), tlpWakes_awake (by rw [hg]; exact hm)]

section
variable {s : State} (h2 : s.pdOn 2 = true) (hm : s.sys.mode ≠ .dormant) (f : Fin 2) (q : Fin 64) (v : U32) (al : Bool)
include h2 hm

theorem exec_sqTailDoorbell : exec (.sqTailDoorbell f q v al) s = .next (sqDoorbell s f.val q.val v.toNat al) :=
  congrArg Host.Outcome.next (hostTlp_awake h2 hm ((frame_sqDoorbell (List.Subset.refl _) (.refl _ s)).keep .mode (by decide)).1)

theorem exec_cqHeadDoorbell : exec (.cqHeadDoorbell f q v al) s = .next (cqDoorbell s f.val q.val v.toNat al) :=
  congrArg Host.Outcome.next (hostTlp_awake h2 hm ((frame_cqDoorbell (List.Subset.refl _) (.refl _ s)).keep .mode (by decide)).1)

theorem exec_eventRingHeadDoorbell : exec (.eventRingHeadDoorbell f v al) s = .next (evqDoorbell s 0 f.val v.toNat al) :=
  congrArg Host.Outcome.next (hostTlp_awake h2 hm ((frame_evqDoorbell (List.Subset.refl _) (.refl _ s)).keep .mode (by decide)).1)

end

/-- A completion ring with its head moved. -/
def cqMoved (s : State) (f q v : Nat) : State := s.setCq f q { s.cq f q with head := v }

/-- The event that tells of the FULL of a completion ring (R273). -/
def cqTold (s : State) (f q full : Nat) : State := s.raise 0x0201 (leBytes 1 f ++ leBytes 1 q ++ leBytes 1 full)

section
variable {s : State} (hm : s.sys.mode ≠ .dormant) {f : Fin 2} {q : Fin 64} {v : Nat}
include hm

/-! ## Submission rings (R261, R270) -/

theorem sqDoorbell_moves (hb : bit (s.sqCtrl f.val q.val) 31 = true) (hs : v < sqSize (s.sqCtrl f.val q.val)) (hv : v < 4096) :
    sqDoorbell s f.val q.val v true = s.setSq f.val q.val { s.sq f.val q.val with tail := v } := by
  rw [sqDoorbell, if_neg hm, if_neg (by decide)]
  exact if_neg (doorbell_good hb hs hv)

theorem sqDoorbell_faults {al : Bool}
    (h : al = false ∨ bit (s.sqCtrl f.val q.val) 31 = false ∨ sqSize (s.sqCtrl f.val q.val) ≤ v ∨ 4096 ≤ v) :
    Faulted s (sqDoorbell s f.val q.val v al) f.val := by
  rw [sqDoorbell, if_neg hm]
  cases al with
  | false => exact faulted_bump s f
  | true =>
    rw [if_neg (by decide), if_pos (doorbell_bad.mpr (h.resolve_left nofun))]
    exact faulted_badDoorbell s f q.val

/-! ## Completion rings (R261, R273) -/

/-- What a doorbell that moves the head of a completion ring does behind the move. -/
theorem cqDoorbell_moves (hb : bit (s.cqCtrl f.val q.val) 31 = true) (hs : v < cqSize (s.cqCtrl f.val q.val)) (hv : v < 4096) :
    cqDoorbell s f.val q.val v true =
      if ringFull (cqSize (s.cqCtrl f.val q.val)) (s.cq f.val q.val).head (s.cq f.val q.val).tail = true
          ∧ (!(ringFull (cqSize (s.cqCtrl f.val q.val)) v (s.cq f.val q.val).tail)) = true then
        cqTold (wakeSqs (cqMoved s f.val q.val v) f.val q.val) f.val q.val 0
      else if (!(ringFull (cqSize (s.cqCtrl f.val q.val)) (s.cq f.val q.val).head (s.cq f.val q.val).tail)) = true
          ∧ ringFull (cqSize (s.cqCtrl f.val q.val)) v (s.cq f.val q.val).tail = true then
        cqTold (cqMoved s f.val q.val v) f.val q.val 1
      else cqMoved s f.val q.val v := by
  rw [cqDoorbell, if_neg hm, if_neg (by decide)]
  exact if_neg (doorbell_good hb hs hv)

theorem cqDoorbell_faults {al : Bool}
    (h : al = false ∨ bit (s.cqCtrl f.val q.val) 31 = false ∨ cqSize (s.cqCtrl f.val q.val) ≤ v ∨ 4096 ≤ v) :
    Faulted s (cqDoorbell s f.val q.val v al) f.val := by
  rw [cqDoorbell, if_neg hm]
  cases al with
  | false => exact faulted_bump s f
  | true =>
    rw [if_neg (by decide), if_pos (doorbell_bad.mpr (h.resolve_left nofun))]
    exact faulted_badDoorbell s f q.val

end

/-! ## Completion rings: what the move leaves (R273) -/

@[simp] theorem State.sq_setSq (s : State) (f q : Nat) (r : SqRec) : (s.setSq f q r).sq f q = r := by simp [State.sq, State.setSq]

theorem State.sq_setSq_ne (s : State) (f : Nat) {q k : Nat} (r : SqRec) (h : k ≠ q) : (s.setSq f q r).sq f k = s.sq f k := by
  simp [State.sq, State.setSq, ringKey, h]

@[simp] theorem State.cq_setCq (s : State) (f q : Nat) (r : CqRec) : (s.setCq f q r).cq f q = r := by simp [State.cq, State.setCq]

/-- One submission ring looked at again. -/
def wakeSq (f q : Nat) (s : State) (k : Nat) : State :=
  if (s.sq f k).waitCq = some q then s.setSq f k { s.sq f k with waitCq := none } else s

theorem wakeSq_host (f q : Nat) (s : State) (k : Nat) : (wakeSq f q s k).host.cq = s.host.cq ∧ (wakeSq f q s k).out = s.out := by
  unfold wakeSq
  split <;> exact ⟨rfl, rfl⟩

theorem wakeSq_self (f q : Nat) (s : State) (k : Nat) : ((wakeSq f q s k).sq f k).waitCq ≠ some q := by
  unfold wakeSq
  split
  · simp
  · assumption

theorem wakeSq_waits {f q : Nat} {s : State} {k i : Nat} (h : (s.sq f i).waitCq ≠ some q) : ((wakeSq f q s k).sq f i).waitCq ≠ some q := by
  by_cases hk : i = k
  · rw [hk]
    exact wakeSq_self f q s k
  · unfold wakeSq
    split
    · rwa [State.sq_setSq_ne _ _ _ hk]
    · exact h

theorem wakeSq_none {f q : Nat} {s : State} {k i : Nat} (h : (s.sq f i).waitCq = none ∨ (s.sq f i).waitCq = some q) :
    ((wakeSq f q s k).sq f i).waitCq = none ∨ ((wakeSq f q s k).sq f i).waitCq = some q := by
  unfold wakeSq
  split
  · by_cases hk : i = k
    · exact .inl (by rw [hk, State.sq_setSq])
    · rwa [State.sq_setSq_ne _ _ _ hk]
  · exact h

theorem foldl_wakeSq (f q : Nat) (ks : List Nat) (s : State) :
    (ks.foldl (wakeSq f q) s).host.cq = s.host.cq ∧ (ks.foldl (wakeSq f q) s).out = s.out
      ∧ ∀ i, (s.sq f i).waitCq = none ∨ i ∈ ks ∧ (s.sq f i).waitCq = some q → ((ks.foldl (wakeSq f q) s).sq f i).waitCq = none := by
  induction ks generalizing s with
  | nil => exact ⟨rfl, rfl, fun i h => h.resolve_right (fun g => nomatch g.1)⟩
  | cons k ks ih =>
    obtain ⟨hcq, hout, hwait⟩ := ih (wakeSq f q s k)
    obtain ⟨h1, h2⟩ := wakeSq_host f q s k
    refine ⟨hcq.trans h1, hout.trans h2, fun i h => hwait i ?_⟩
    rcases h with h | ⟨hi, h⟩
    · exact .inl ((wakeSq_none (.inl h)).resolve_right (wakeSq_waits (by rw [h]; exact nofun)))
    · by_cases hk : i = k
      · have hself := wakeSq_self f q s k
        rw [← hk] at hself
        rw [← hk]
        exact .inl ((wakeSq_none (.inr h)).resolve_right hself)
      · refine (wakeSq_none (.inr h)).imp_right fun g => ⟨?_, g⟩
        exact (List.mem_cons.mp hi).resolve_left hk

theorem wakeSqs_eq (s : State) (f q : Nat) : wakeSqs s f q = (List.range 64).foldl (wakeSq f q) s := by
  have h : (fun (s : State) (k : Nat) => wakeSq f q s k) = wakeSq f q := rfl
  rw [← h]
  simp only [wakeSqs, wakeSq]

/-- The queues that waited for a completion ring of a function are fetched again (R273). -/
theorem wakeSqs_wakes (s : State) (f q : Nat) :
    (wakeSqs s f q).host.cq = s.host.cq ∧ (wakeSqs s f q).out = s.out
      ∧ ∀ k : Fin 64, (s.sq f k.val).waitCq = some q → ((wakeSqs s f q).sq f k.val).waitCq = none := by
  rw [wakeSqs_eq]
  obtain ⟨hcq, hout, hwait⟩ := foldl_wakeSq f q (List.range 64) s
  exact ⟨hcq, hout, fun k h => hwait k.val (.inr ⟨List.mem_range.mpr k.isLt, h⟩)⟩

section
variable {s : State} (hm : s.sys.mode ≠ .dormant) {f : Fin 2} {q : Fin 64} {v : Nat} (hb : bit (s.cqCtrl f.val q.val) 31 = true)
  (hs : v < cqSize (s.cqCtrl f.val q.val)) (hv : v < 4096)
include hm hb hs hv

theorem cqDoorbell_head : (cqDoorbell s f.val q.val v true).cq f.val q.val = { s.cq f.val q.val with head := v } := by
  have ht : (cqMoved s f.val q.val v).cq f.val q.val = { s.cq f.val q.val with head := v } := State.cq_setCq _ _ _ _
  rw [cqDoorbell_moves hm hb hs hv]
  split_ifs
  · rw [cqTold, (queuesKept_raise _ _ _).cq_eq, State.cq, (wakeSqs_wakes _ f.val q.val).1]
    exact ht
  · rw [cqTold, (queuesKept_raise _ _ _).cq_eq, ht]
  · exact ht

/-- FULL falls: it is told, and the queues that waited are fetched again. -/
theorem cqDoorbell_frees (h0 : ringFull (cqSize (s.cqCtrl f.val q.val)) (s.cq f.val q.val).head (s.cq f.val q.val).tail = true)
    (h1 : ringFull (cqSize (s.cqCtrl f.val q.val)) v (s.cq f.val q.val).tail = false) :
    Raised s (cqDoorbell s f.val q.val v true) 0x0201 (leBytes 1 f.val ++ leBytes 1 q.val ++ leBytes 1 0)
      ∧ ∀ k : Fin 64, (s.sq f.val k.val).waitCq = some q.val → ((cqDoorbell s f.val q.val v true).sq f.val k.val).waitCq = none := by
  rw [cqDoorbell_moves hm hb hs hv, h0, h1, if_pos ⟨rfl, rfl⟩, cqTold]
  obtain ⟨-, hout, hwake⟩ := wakeSqs_wakes (cqMoved s f.val q.val v) f.val q.val
  refine ⟨raised_raise _ _ (by rw [hout]; exact List.suffix_refl s.out), fun k hk => ?_⟩
  rw [(queuesKept_raise _ _ _).sq_eq]
  exact hwake k hk

/-- FULL rises, and it is told. -/
theorem cqDoorbell_fills (h0 : ringFull (cqSize (s.cqCtrl f.val q.val)) (s.cq f.val q.val).head (s.cq f.val q.val).tail = false)
    (h1 : ringFull (cqSize (s.cqCtrl f.val q.val)) v (s.cq f.val q.val).tail = true) :
    Raised s (cqDoorbell s f.val q.val v true) 0x0201 (leBytes 1 f.val ++ leBytes 1 q.val ++ leBytes 1 1) := by
  rw [cqDoorbell_moves hm hb hs hv, h0, h1, if_neg (fun h => Bool.false_ne_true h.1), if_pos ⟨rfl, rfl⟩]
  exact raised_raise _ _ (List.suffix_refl s.out)

end

/-! ## Event rings (R286) -/

/-- A ring's record behind an entry: the interrupt's account alone may differ. -/
theorem ringIrq_rec (sig : State → Nat → Nat → State) (s : State) (pf ctrl : Nat) (r : CqRec) :
    let e := (ringIrq sig s pf ctrl r).1
    e.head = r.head ∧ e.tail = r.tail ∧ e.phase = r.phase ∧ e.lostPend = r.lostPend := by
  unfold ringIrq
  extract_lets need x e
  unfold e
  split <;> exact ⟨rfl, rfl, rfl, rfl⟩

/-- The record of event ring (w, f). -/
def State.evqRec (s : State) (w f : Nat) : CqRec := s.host.evq.getD (w * 2 + f) CqRec.init

/-- Event ring (w, f) with another record. -/
def State.setEvq (s : State) (w f : Nat) (r : CqRec) : State := { s with host.evq := s.host.evq.set (w * 2 + f) r }

@[simp] theorem State.evqRec_setEvq (s : State) (w f : Nat) (r : CqRec) : (s.setEvq w f r).evqRec w f = r := by
  simp [State.evqRec, State.setEvq]

@[simp] theorem State.setEvq_reg (s : State) (w f : Nat) (r : CqRec) (o : Nat) : (s.setEvq w f r).reg o = s.reg o := rfl

@[simp] theorem State.setEvq_get? (s : State) (w f : Nat) (r : CqRec) : (s.setEvq w f r).host.evq.get? (w * 2 + f) = some r := by
  simp [State.setEvq]

/-- The entry that a record fills, before its interrupt's account. -/
def evqEntered (s : State) (w pf : Nat) (evr : List Byte) : State :=
  let r := s.evqRec w pf
  s.emit (.hostWrite pf (s.base64 (evqOff w pf Reg.HST_EVQ_BASE_LO) (evqOff w pf Reg.HST_EVQ_BASE_HI) + 32 * r.tail) (withPhase evr r.phase))

/-- A record that an event ring has room for is written into its next entry. -/
theorem evqWrite_room {s : State} {w pf : Nat} (evr : List Byte) (hb : bit (s.reg (evqOff w pf Reg.HST_EVQ_CTRL)) 31 = true)
    (hf : ringFull (cqSize (s.reg (evqOff w pf Reg.HST_EVQ_CTRL))) (s.evqRec w pf).head (s.evqRec w pf).tail = false) :
    let e := ringIrq msixSignal (evqEntered s w pf evr) pf (s.reg (evqOff w pf Reg.HST_EVQ_CTRL))
      (ringAdvance (cqSize (s.reg (evqOff w pf Reg.HST_EVQ_CTRL))) (s.evqRec w pf))
    evqWrite s w pf evr = e.2.setEvq w pf e.1 := by
  rw [evqWrite, hb, if_neg (by decide)]
  exact if_neg (fun h => Bool.false_ne_true (hf.symm.trans h))

/-- A record that an event ring has room for moves its tail on. -/
theorem evqWrite_advances {s : State} {w pf : Nat} (evr : List Byte) (hb : bit (s.reg (evqOff w pf Reg.HST_EVQ_CTRL)) 31 = true)
    (hf : ringFull (cqSize (s.reg (evqOff w pf Reg.HST_EVQ_CTRL))) (s.evqRec w pf).head (s.evqRec w pf).tail = false) :
    ∃ r, (evqWrite s w pf evr).host.evq.get? (w * 2 + pf) = some r ∧ r.head = (s.evqRec w pf).head ∧ r.lostPend = (s.evqRec w pf).lostPend
      ∧ r.tail = ((s.evqRec w pf).tail + 1) % cqSize (s.reg (evqOff w pf Reg.HST_EVQ_CTRL)) := by
  obtain ⟨hh, ht, -, hl⟩ := ringIrq_rec msixSignal (evqEntered s w pf evr) pf (s.reg (evqOff w pf Reg.HST_EVQ_CTRL))
    (ringAdvance (cqSize (s.reg (evqOff w pf Reg.HST_EVQ_CTRL))) (s.evqRec w pf))
  exact ⟨_, by rw [evqWrite_room evr hb hf, State.setEvq_get?], hh, hl, ht⟩

/-- The event that tells what an event ring has lost. -/
def lostTold (s : State) (lost : Nat) : State :=
  { s with evSeq := (s.evSeq + 1) % 65536 }.emit (.event 0x0722 (leBytes 2 s.addr ++ leBytes 4 lost))

@[simp] theorem lostTold_reg (s : State) (lost o : Nat) : (lostTold s lost).reg o = s.reg o := rfl

@[simp] theorem lostTold_evqRec (s : State) (lost w f : Nat) : (lostTold s lost).evqRec w f = s.evqRec w f := rfl

@[simp] theorem lostTold_out (s : State) (lost : Nat) :
    (lostTold s lost).out = .event 0x0722 (leBytes 2 s.addr ++ leBytes 4 lost) :: s.out := rfl

/-- The count of what was lost goes first into the freed entry of event ring (w, f) (R286). -/
def payLost (s : State) (w f : Nat) (r : CqRec) (v : Nat) : State :=
  evqWrite (lostTold (s.setEvq w f { r with head := v, lostPend := 0 }) r.lostPend) w f
    (eventRecord (s.setEvq w f { r with head := v }) 0x0722 (leBytes 2 s.addr ++ leBytes 4 r.lostPend))

section
variable {s : State} (hm : s.sys.mode ≠ .dormant) {f : Fin 2} {v : Nat}
include hm

theorem evqDoorbell_moves {w : Nat} (hb : bit (s.reg (evqOff w f.val Reg.HST_EVQ_CTRL)) 31 = true)
    (hs : v < cqSize (s.reg (evqOff w f.val Reg.HST_EVQ_CTRL))) (hv : v < 4096) :
    evqDoorbell s w f.val v true =
      if (s.evqRec w f.val).lostPend ≠ 0
          ∧ (!(ringFull (cqSize (s.reg (evqOff w f.val Reg.HST_EVQ_CTRL))) v (s.evqRec w f.val).tail)) = true then
        payLost (s.setEvq w f.val { s.evqRec w f.val with head := v }) w f.val (s.evqRec w f.val) v
      else s.setEvq w f.val { s.evqRec w f.val with head := v } := by
  rw [evqDoorbell, if_neg hm, if_neg (by decide)]
  exact if_neg (doorbell_good hb hs hv)

theorem evqDoorbell_faults {w : Nat} {al : Bool}
    (h : al = false ∨ bit (s.reg (evqOff w f.val Reg.HST_EVQ_CTRL)) 31 = false ∨ cqSize (s.reg (evqOff w f.val Reg.HST_EVQ_CTRL)) ≤ v ∨ 4096 ≤ v) :
    Faulted s (evqDoorbell s w f.val v al) f.val := by
  rw [evqDoorbell, if_neg hm]
  cases al with
  | false => exact faulted_bump s f
  | true =>
    rw [if_neg (by decide), if_pos (doorbell_bad.mpr (h.resolve_left nofun))]
    obtain ⟨hk, hc⟩ := faulted_badDoorbell s.fresh.2 f (s.fresh.1 % 256)
    exact ⟨⟨hk.sq, hk.cq, hk.lastSq⟩, hc⟩

end

/-- What was lost is put out and goes first into the freed entry. -/
theorem payLost_pays {s : State} {w f v : Nat} {r : CqRec} (hb : bit (s.reg (evqOff w f Reg.HST_EVQ_CTRL)) 31 = true)
    (hf : ringFull (cqSize (s.reg (evqOff w f Reg.HST_EVQ_CTRL))) v r.tail = false) :
    Raised s (payLost s w f r v) 0x0722 (leBytes 2 s.addr ++ leBytes 4 r.lostPend)
      ∧ ∃ e, (payLost s w f r v).host.evq.get? (w * 2 + f) = some e ∧ e.head = v ∧ e.lostPend = 0
        ∧ e.tail = (r.tail + 1) % cqSize (s.reg (evqOff w f Reg.HST_EVQ_CTRL)) := by
  rw [payLost]
  generalize hu : lostTold (s.setEvq w f { r with head := v, lostPend := 0 }) r.lostPend = u
  generalize eventRecord (s.setEvq w f { r with head := v }) 0x0722 (leBytes 2 s.addr ++ leBytes 4 r.lostPend) = evr
  have hreg : ∀ o, u.reg o = s.reg o := fun o => by rw [← hu, lostTold_reg, State.setEvq_reg]
  have hrec : u.evqRec w f = { r with head := v, lostPend := 0 } := by rw [← hu, lostTold_evqRec, State.evqRec_setEvq]
  have hout : u.out = .event 0x0722 (leBytes 2 s.addr ++ leBytes 4 r.lostPend) :: s.out := by rw [← hu, lostTold_out, State.addr, State.setEvq_reg]; rfl
  have hlog : u.out <:+ (evqWrite u w f evr).out := (keeps_evqWrite (.refl u)).log
  obtain ⟨e, he, hh, hl, ht⟩ := evqWrite_advances (s := u) (w := w) (pf := f) evr (by rw [hreg]; exact hb) (by rw [hreg, hrec]; exact hf)
  rw [hrec] at hh hl ht
  rw [hreg] at ht
  rw [hout] at hlog
  exact ⟨mem_news_later (List.suffix_refl s.out) hlog, e, he, hh, hl, ht⟩

/-! ## DORMANT (R402) -/

/-- A doorbell that is held in DORMANT is held behind the wake that it causes. -/
theorem hostTlp_held {s : State} {g : State → State} {f off : Nat} {v : U32} (hm : s.sys.mode = .dormant)
    (hg : g s = holdDoorbell s 0 f off v.toNat true) : (hostTlp s g).host.dormDb.get? (f * 0x1000 + off) = some v := by
  rw [hostTlp, if_pos (.inr hm), hg]
  have hk : (tlpWakes (holdDoorbell s 0 f off v.toNat true)).host.dormDb = (holdDoorbell s 0 f off v.toNat true).host.dormDb :=
    (frame_tlpWakes (List.Subset.refl _) (.refl _ _)).keep .dormDb (by decide)
  rw [hk]
  simp [holdDoorbell]

/-- Settles O39: awake, a doorbell moves its ring's index or is counted, by its cases; in DORMANT it is held. -/
theorem doorbellsMoveRings : Obligations.DoorbellsMoveRings := by
  intro s f q v n sc cc ec e faults
  have hkey : f.val = 0 * 2 + f.val := by omega
  have hrec : s.evqRec 0 f.val = e := by rw [State.evqRec, ← hkey]
  refine ⟨fun h2 hm => ⟨fun hb hs hv => ⟨_, exec_sqTailDoorbell h2 hm f q v true, ?_⟩, fun al h => ⟨_, exec_sqTailDoorbell h2 hm f q v al, ?_⟩,
      fun hb hs hv => ⟨_, exec_cqHeadDoorbell h2 hm f q v true, ?_⟩, fun al h => ⟨_, exec_cqHeadDoorbell h2 hm f q v al, ?_⟩,
      fun hb hs hv hl => ⟨_, exec_eventRingHeadDoorbell h2 hm f v true, ?_⟩, fun hb hs hv hl hf => ⟨_, exec_eventRingHeadDoorbell h2 hm f v true, ?_⟩,
      fun al h => ⟨_, exec_eventRingHeadDoorbell h2 hm f v al, ?_⟩⟩,
    fun hm => ⟨⟨_, rfl, ?_⟩, ⟨_, rfl, ?_⟩, ⟨_, rfl, ?_⟩⟩⟩
  case refine_1 =>
    rw [sqDoorbell_moves hm hb hs hv]
    exact ⟨State.sq_setSq _ _ _ _, fun k hk => State.sq_setSq_ne _ _ _ (fun h => hk (Fin.ext h))⟩
  case refine_2 =>
    have hbad := sqDoorbell_faults hm h
    exact ⟨hbad.kept.sq_eq _ _, hbad.counted⟩
  case refine_3 => exact ⟨cqDoorbell_head hm hb hs hv, cqDoorbell_frees hm hb hs hv, cqDoorbell_fills hm hb hs hv⟩
  case refine_4 =>
    have hbad := cqDoorbell_faults hm h
    exact ⟨hbad.kept.cq_eq _ _, hbad.counted⟩
  case refine_5 =>
    have hstay : ¬ ((s.evqRec 0 f.val).lostPend ≠ 0 ∧ (!(ringFull (cqSize ec) n (s.evqRec 0 f.val).tail)) = true) := by
      rw [hrec]
      rintro ⟨h0, h1⟩
      rcases hl with hl | hl
      · exact h0 hl
      · rw [hl] at h1
        exact Bool.false_ne_true h1
    rw [evqDoorbell_moves (w := 0) hm hb hs hv, if_neg hstay, hrec]
    exact (congrArg _ hkey).trans (State.setEvq_get? s 0 f.val { e with head := n })
  case refine_6 =>
    rw [evqDoorbell_moves (w := 0) hm hb hs hv, hrec, if_pos ⟨hl, by rw [show ringFull _ n e.tail = false from hf]; rfl⟩]
    obtain ⟨hr, r, hget, hh, hz, ht⟩ := payLost_pays (s := s.setEvq 0 f.val { e with head := n }) (w := 0) (v := n) (r := e) hb hf
    exact ⟨hr, r, (congrArg _ hkey).trans hget, hh, hz, ht⟩
  case refine_7 => exact (evqDoorbell_faults hm h).counted
  case refine_8 => exact hostTlp_held hm (off := 4 * q.val) (if_pos hm)
  case refine_9 => exact hostTlp_held hm (off := 0x100 + 4 * q.val) (if_pos hm)
  case refine_10 => exact hostTlp_held hm (off := 0x200) (if_pos hm)

end Sys2Proof.Machine

/-! SUPPORT. The ring engine: the queue served next, the fetch of its descriptor, completion entries, and the signals of coalescing
(R270 to R277). -/

namespace Sys2Proof.Machine

/-! ## Host memory and signals leave every ring alone -/

/-- What a transfer with the host's memory, or a signal to it, may change. -/
abbrev hostParts : List Part := .mgmt :: awayParts

section
variable (s : State) (pf addr : Nat)

theorem frame_raise_host {s u : State} (hg : s.isGateway = false) (h : Frame hostParts s u) (code : Nat) (data : List Byte) :
    Frame hostParts s (u.raise code data) :=
  h.trans ((frame_raise_away ((gateway_of_frame h (by decide)).trans hg) (.refl _ u) code data).mono (List.subset_cons_self _ _))

theorem frame_hostRead (len : Nat) : Frame hostParts s (s.hostRead pf addr len none) := by
  unfold State.hostRead
  cases hg : s.isGateway with
  | true => exact frame_State_emit (by decide) (.refl _ s)
  | false =>
    refine .ite (frame_State_emit (by decide) (.refl _ s)) (.ite (.foldl (.refl _ s) fun u i hu => ?_) (.refl _ s))
    exact frame_dmaRequest (by decide) (fun _ _ _ h => frame_raise_host hg h _ _) hu

theorem frame_hostWrite (data : List Byte) : Frame hostParts s (s.hostWrite pf addr data) := by
  unfold State.hostWrite
  cases hg : s.isGateway with
  | true =>
    rw [hostWriteR, if_pos hg]
    exact frame_State_emit (by decide) (.refl _ s)
  | false => exact frame_hostWriteR (by decide) (fun _ _ _ h => frame_raise_host hg h _ _) (.refl _ s)

theorem frame_signal (v : Nat) : Frame hostParts s (s.signal pf v) := by
  unfold State.signal
  cases hg : s.isGateway with
  | true =>
    rw [signalR, if_pos hg]
    exact frame_msixSignal (by decide) (.refl _ s)
  | false => exact frame_signalR (by decide) (fun _ _ _ h => frame_raise_host hg h _ _) (.refl _ s)

end

/-! ## The queue served next (R274) -/

theorem le_foldl_max {α : Type} (g : α → Nat) (xs : List α) (a : Nat) :
    a ≤ xs.foldl (fun m x => max m (g x)) a ∧ ∀ x ∈ xs, g x ≤ xs.foldl (fun m x => max m (g x)) a := by
  induction xs generalizing a with
  | nil => exact ⟨Nat.le_refl a, nofun⟩
  | cons x xs ih =>
    obtain ⟨hle, hall⟩ := ih (max a (g x))
    refine ⟨Nat.le_trans (Nat.le_max_left _ _) hle, fun y hy => ?_⟩
    rcases List.mem_cons.mp hy with rfl | hy
    · exact Nat.le_trans (Nat.le_max_right _ _) hle
    · exact hall y hy

/-- The queue served has a descriptor, and none of higher priority has one. -/
theorem nextSq_serves {s : State} {k : Nat} (h : nextSq s = some k) :
    k < 128 ∧ fetchable s k = true ∧ ∀ m, m < 128 → fetchable s m = true → sqPrio s m ≤ sqPrio s k := by
  unfold nextSq at h
  extract_lets cand top at h
  have hfound := List.find?_some h
  rw [Bool.and_eq_true_iff] at hfound
  obtain ⟨hk, hp⟩ := hfound
  obtain ⟨hr, hf⟩ := List.mem_filter.mp (List.contains_iff_mem.mp hk)
  refine ⟨List.mem_range.mp hr, hf, fun m hm hfm => ?_⟩
  rw [beq_iff_eq.mp hp]
  exact (le_foldl_max (sqPrio s) cand 0).2 m (List.mem_filter.mpr ⟨List.mem_range.mpr hm, hfm⟩)

/-! ## The fetch of a descriptor (R270, R273, R277) -/

/-- The descriptors that one fetch of a ring of n entries takes (R277). -/
def fetchCount (s : State) (r : SqRec) (n : Nat) : Nat := if s.isGateway then 1 else min 4 (min ((r.tail + n - r.head) % n) (n - r.head))

/-- A submission ring of n entries behind a fetch. -/
def fetchedSq (s : State) (r : SqRec) (n : Nat) : SqRec :=
  { r with head := (r.head + 1) % n, ahead := if r.ahead = 0 then fetchCount s r n - 1 else r.ahead - 1 }

theorem frame_hostRead_if (s : State) (c : Prop) [Decidable c] (pf addr len : Nat) :
    Frame hostParts s (if c then s.hostRead pf addr len none else s) := .ite (frame_hostRead s pf addr len) (.refl _ s)

/-- A fetch moves its ring's head on, with what it took ahead, and no other queue. -/
theorem takeDesc_moves (s : State) (f q n : Nat) :
    ∃ u, Frame hostParts s u ∧ CalmOf EventReg s u ∧ takeDesc s f q n = u.setSq f q (fetchedSq s (s.sq f q) n) :=
  ⟨_, frame_hostRead_if s _ _ _ _, .ite (calm_State_hostRead (fun _ h => h) (.refl s)) (.refl s), rfl⟩

/-- The ring served is the last of its priority. -/
def served (s : State) (k : Nat) : State := { s with host.lastSq := s.host.lastSq.set (sqPrio s k) k }

section
variable {s : State} {k : Nat} (desc : BitVec 512)

/-- The job of a descriptor of queue k. -/
def descJob (k : Nat) (desc : BitVec 512) : Job := { org := .ring (k / 64) (k % 64), desc := desc }

/-- The CQ that a descriptor names. -/
def descCq (k : Nat) (desc : BitVec 512) : Nat := (descJob k desc).n 4 1

/-- The CQ that a descriptor names is enabled, and whether it is full. -/
def CqOpen (s : State) (f q : Nat) (full : Bool) : Prop :=
  q < 64 ∧ bit (s.cqCtrl f q) 31 = true ∧ ringFull (cqSize (s.cqCtrl f q)) (s.cq f q).head (s.cq f q).tail = full

theorem doFetch_error (h : nextSq s = some k) :
    doFetch s desc true = ringFault (((served s k).setSq (k / 64) (k % 64)
      { s.sq (k / 64) (k % 64) with halted := true, ahead := 0 }).bump (Reg.HST_RING_FAULT_CNT + 0x10000 * (k / 64))) (k / 64) (k % 64) 2 := by
  unfold doFetch
  rw [h]
  rfl

theorem doFetch_discards (h : nextSq s = some k) (hc : 64 ≤ descCq k desc ∨ bit (s.cqCtrl (k / 64) (descCq k desc)) 31 = false) :
    doFetch s desc false = ringFault ((takeDesc (served s k) (k / 64) (k % 64) (sqSize (s.sqCtrl (k / 64) (k % 64)))).bump
      (Reg.HST_RING_FAULT_CNT + 0x10000 * (k / 64))) (k / 64) (k % 64) 1 := by
  have hbad : descCq k desc ≥ 64 ∨ (!(bit (s.cqCtrl (k / 64) (descCq k desc % 64)) 31)) = true := by
    by_cases h64 : 64 ≤ descCq k desc
    · exact .inl h64
    · rw [Nat.mod_eq_of_lt (by omega), hc.resolve_left h64]
      exact .inr rfl
  unfold doFetch
  rw [h]
  exact if_pos hbad

/-- The descriptor of an enabled CQ waits while that is full, and is in flight otherwise. -/
theorem doFetch_open {full : Bool} (h : nextSq s = some k) (hc : CqOpen s (k / 64) (descCq k desc) full) :
    doFetch s desc false =
      if full = true then (served s k).setSq (k / 64) (k % 64) { s.sq (k / 64) (k % 64) with waitCq := some (descCq k desc) }
      else
        let u := takeDesc (served s k) (k / 64) (k % 64) (sqSize (s.sqCtrl (k / 64) (k % 64)))
        { u with host.inFlight := u.host.inFlight ++ [{ job := descJob k desc, started := false }] } := by
  obtain ⟨h64, hb, hf⟩ := hc
  have hmod : descCq k desc % 64 = descCq k desc := Nat.mod_eq_of_lt h64
  have hok : ¬ (descCq k desc ≥ 64 ∨ (!(bit (s.cqCtrl (k / 64) (descCq k desc % 64)) 31)) = true) := by
    rw [hmod, hb]
    exact fun g => g.elim (by omega) (by decide)
  rw [← hf]
  unfold doFetch
  rw [h]
  refine (if_neg hok).trans ?_
  have hsize : cqSize (s.cqCtrl (k / 64) (descCq k desc % 64)) = cqSize (s.cqCtrl (k / 64) (descCq k desc)) := by rw [hmod]
  exact congrArg (fun n => if ringFull n (s.cq (k / 64) (descCq k desc)).head (s.cq (k / 64) (descCq k desc)).tail = true then _ else _) hsize

end

/-- What a fetch leaves of the ring served, of the descriptors in flight and of the counter of ring faults. -/
structure Fetched (s t : State) (k : Nat) (r : SqRec) : Prop where
  ring   : t.sq (k / 64) (k % 64) = r
  flight : t.host.inFlight = s.host.inFlight

theorem fetched_take (s : State) (k n : Nat) :
    let u := takeDesc (served s k) (k / 64) (k % 64) n
    Fetched s u k (fetchedSq s (s.sq (k / 64) (k % 64)) n) ∧ CalmOf EventReg s u := by
  obtain ⟨u, hu, hc, e⟩ := takeDesc_moves (served s k) (k / 64) (k % 64) n
  intro t
  rw [show t = _ from e]
  exact ⟨⟨State.sq_setSq _ _ _ _, hu.keep .inFlight (by decide)⟩, hc.get, hc.otp, hc.straps, hc.st⟩

theorem fetched_ringFault {s t : State} {k : Nat} {r : SqRec} (h : Fetched s t k r) (hk : k < 128)
    (hc : t.cnt (Reg.HST_RING_FAULT_CNT + 0x10000 * (k / 64)) = s.cnt (Reg.HST_RING_FAULT_CNT + 0x10000 * (k / 64))) (ring kind : Nat) :
    let u := ringFault (t.bump (Reg.HST_RING_FAULT_CNT + 0x10000 * (k / 64))) (k / 64) ring kind
    Fetched s u k r ∧ u.cnt (Reg.HST_RING_FAULT_CNT + 0x10000 * (k / 64))
      = min (s.cnt (Reg.HST_RING_FAULT_CNT + 0x10000 * (k / 64)) + 1) 0xFFFFFFFF := by
  have hev : ¬ EventReg (Reg.HST_RING_FAULT_CNT + 0x10000 * (k / 64)) :=
    not_eventReg (.inr (by simp only [Reg.HST_RING_FAULT_CNT]; omega)) (by simp only [Reg.HST_RING_FAULT_CNT]; omega)
  have hf := frame_ringFault (v1 := k / 64) (v2 := ring) (v3 := kind) (List.Subset.refl _) (.refl _ (t.bump (Reg.HST_RING_FAULT_CNT + 0x10000 * (k / 64))))
  have hfl : (ringFault (t.bump (Reg.HST_RING_FAULT_CNT + 0x10000 * (k / 64))) (k / 64) ring kind).host.inFlight = t.host.inFlight :=
    hf.keep .inFlight (by decide)
  refine ⟨⟨?_, hfl.trans h.flight⟩, (cnt_ringFault hev _ _ _).trans (by rw [hc])⟩
  exact ((queuesKept_ringFault _ _ _ _).sq_eq _ _).trans h.ring

/-! ## Completion entries (R271 to R273) -/

section
variable {s : State} {f q : Nat} {d : DoneRec}

/-- The oldest completion of a ring. -/
def oldestDone (s : State) (f q : Nat) : Option DoneRec := s.host.done.find? (fun d => d.pf == f && d.cq == q)

/-- The host address of a completion ring's next entry. -/
def cqNext (s : State) (f q : Nat) : Nat :=
  s.base64 (ringOff Reg.HST_CQ_BASE_LO f q) (ringOff Reg.HST_CQ_BASE_HI f q) + 16 * (s.cq f q).tail

/-- The entry of a completion has gone out. -/
def entryOut (s : State) (f q : Nat) (d : DoneRec) : State :=
  { s with host.done := s.host.done.erase d }.hostWrite f (cqNext s f q) (cqEntry s d (s.cq f q).phase)

/-- A completion ring's record and interrupt behind an entry. -/
def entryIrq (s : State) (f q : Nat) (d : DoneRec) : CqRec × State :=
  ringIrq State.signal (entryOut s f q d) f (s.cqCtrl f q) (ringAdvance (cqSize (s.cqCtrl f q)) (s.cq f q))

theorem doCompletion_waits (h : oldestDone s f q = none ∨ bit (s.cqCtrl f q) 31 = false
    ∨ ringFull (cqSize (s.cqCtrl f q)) (s.cq f q).head (s.cq f q).tail = true) : doCompletion s f q = s := by
  unfold doCompletion
  split
  · rfl
  · next d hd =>
    refine if_pos ?_
    rcases h with h | h | h
    · exact absurd (hd.symm.trans h) nofun
    · exact .inl (by rw [h]; rfl)
    · exact .inr h

theorem doCompletion_writes (h : oldestDone s f q = some d) (hb : bit (s.cqCtrl f q) 31 = true)
    (hf : ringFull (cqSize (s.cqCtrl f q)) (s.cq f q).head (s.cq f q).tail = false) :
    let e := entryIrq s f q d
    doCompletion s f q = if ringFull (cqSize (s.cqCtrl f q)) e.1.head e.1.tail = true then cqTold (e.2.setCq f q e.1) f q 1 else e.2.setCq f q e.1 := by
  have hok : ¬ ((!(bit (s.cqCtrl f q) 31)) = true ∨ ringFull (cqSize (s.cqCtrl f q)) (s.cq f q).head (s.cq f q).tail = true) := by
    rw [hb, hf]
    decide
  unfold doCompletion
  rw [show s.host.done.find? (fun d => d.pf == f && d.cq == q) = some d from h]
  exact if_neg hok

/-- The entry and its interrupt change no queue and none of the completions behind it. -/
theorem frame_entryIrq (s : State) (f q : Nat) (d : DoneRec) :
    Frame hostParts { s with host.done := s.host.done.erase d } (entryIrq s f q d).2 :=
  frame_ringIrq (List.nil_subset _) (fun u pf v h => h.trans (frame_signal u pf v)) (frame_hostWrite _ _ _ _)

theorem keeps_entryIrq (s : State) (f q : Nat) (d : DoneRec) : Keeps (entryOut s f q d) (entryIrq s f q d).2 :=
  keeps_ringIrq (fun _ _ _ h => keeps_State_signal h) (.refl _)

/-- The event that tells of FULL leaves the completions and the rings, and is put out. -/
theorem cqTold_leaves (s : State) (f q full : Nat) :
    (cqTold s f q full).host.done = s.host.done ∧ (∀ k, (cqTold s f q full).cq f k = s.cq f k) ∧ s.out <:+ (cqTold s f q full).out
      ∧ ∀ v : State, v.out <:+ s.out → Raised v (cqTold s f q full) 0x0201 (leBytes 1 f ++ leBytes 1 q ++ leBytes 1 full) :=
  ⟨(frame_State_raise (List.Subset.refl _) (.refl _ s)).keep .done (by decide), fun k => (queuesKept_raise _ _ _).cq_eq f k,
    (keeps_State_raise (.refl s)).log, fun _ hv => raised_raise _ _ hv⟩

/-- What a completion ring's new record leaves, where that may tell of FULL. -/
theorem cqSet_leaves (u v : State) (f q : Nat) (e : CqRec) (c : Prop) [Decidable c] (hv : v.out <:+ u.out) :
    let t := if c then cqTold (u.setCq f q e) f q 1 else u.setCq f q e
    t.host.done = u.host.done ∧ t.cq f q = e ∧ u.out <:+ t.out ∧ (c → Raised v t 0x0201 (leBytes 1 f ++ leBytes 1 q ++ leBytes 1 1)) := by
  obtain ⟨hdone, hcq, hlog, htold⟩ := cqTold_leaves (u.setCq f q e) f q 1
  by_cases hc : c
  · rw [if_pos hc]
    exact ⟨hdone, (hcq q).trans (State.cq_setCq _ _ _ _), hlog, fun _ => htold v hv⟩
  · rw [if_neg hc]
    exact ⟨rfl, State.cq_setCq _ _ _ _, List.suffix_refl _, fun h => absurd h hc⟩

/-- What a completion leaves once it has been written (R271 to R273). -/
theorem doCompletion_entry (h : oldestDone s f q = some d) (hb : bit (s.cqCtrl f q) 31 = true)
    (hf : ringFull (cqSize (s.cqCtrl f q)) (s.cq f q).head (s.cq f q).tail = false) :
    let t := doCompletion s f q
    t.host.done = s.host.done.erase d ∧ t.cq f q = (entryIrq s f q d).1 ∧ (entryOut s f q d).out <:+ t.out
      ∧ (ringFull (cqSize (s.cqCtrl f q)) (entryIrq s f q d).1.head (entryIrq s f q d).1.tail = true →
          Raised s t 0x0201 (leBytes 1 f ++ leBytes 1 q ++ leBytes 1 1)) := by
  have hdone : (entryIrq s f q d).2.host.done = s.host.done.erase d := (frame_entryIrq s f q d).keep .done (by decide)
  have hlog : (entryOut s f q d).out <:+ (entryIrq s f q d).2.out := (keeps_entryIrq s f q d).log
  have hout : s.out <:+ (entryOut s f q d).out := (keeps_State_hostWrite (.refl { s with host.done := s.host.done.erase d })).log
  obtain ⟨h1, h2, h3, h4⟩ := cqSet_leaves (entryIrq s f q d).2 s f q (entryIrq s f q d).1
    (ringFull (cqSize (s.cqCtrl f q)) (entryIrq s f q d).1.head (entryIrq s f q d).1.tail = true) (hout.trans hlog)
  intro t
  rw [show t = _ from doCompletion_writes h hb hf]
  exact ⟨h1.trans hdone, h2, hlog.trans h3, h4⟩

/-- On a gateway the entry goes out as a write of host memory. -/
theorem entryOut_gateway (hg : s.isGateway = true) (f q : Nat) (d : DoneRec) :
    (entryOut s f q d).out = .hostWrite f (cqNext s f q) (cqEntry s d (s.cq f q).phase) :: s.out := by
  have hg' : ({ s with host.done := s.host.done.erase d } : State).isGateway = true := hg
  rw [entryOut, State.hostWrite, hostWriteR, if_pos hg']
  rfl

/-! ## Coalescing (R276) -/

/-- A vector that is not masked is signalled. -/
theorem msixSignal_out {s : State} {pf v : Nat} (h : bit (s.host.msix.getD (pf * 256 + v * 4 + 3) 1).toNat 0 = false) :
    (msixSignal s pf v).out = .msix pf v :: s.out := by
  rw [msixSignal, h, if_neg Bool.false_ne_true]
  rfl

theorem cqSignal_signals (hb : bit (s.cqCtrl f q) 31 = true) (hi : bit (s.cqCtrl f q) 30 = true) (hs : (s.cq f q).since ≠ 0) :
    cqSignal s f q 1 = (s.setCq f q { s.cq f q with since := 0 }).signal f (bits (s.cqCtrl f q) 21 16) :=
  if_pos ⟨hb, hi, Nat.one_le_iff_ne_zero.mpr hs⟩

theorem evqSignal_signals {w : Nat} (hb : bit (s.reg (evqOff w f Reg.HST_EVQ_CTRL)) 31 = true)
    (hi : bit (s.reg (evqOff w f Reg.HST_EVQ_CTRL)) 30 = true) (hs : (s.evqRec w f).since ≠ 0) :
    evqSignal s w f 1 = msixSignal (s.setEvq w f { s.evqRec w f with since := 0 }) f (bits (s.reg (evqOff w f Reg.HST_EVQ_CTRL)) 21 16) :=
  if_pos ⟨hb, hi, Nat.one_le_iff_ne_zero.mpr hs⟩

end

/-! ## The commands of the ring engine -/

theorem exec_descriptorFetch {s : State} (desc : BitVec 512) (err : Bool) (h2 : s.pdOn 2 = true) (hd : s.sys.dorm = none) :
    exec (.descriptorFetch desc err) s = .next (doFetch s desc err) := by
  show Host.Outcome.next (if s.sys.dorm.isSome then s else onDomain s 2 _) = _
  rw [hd, onDomain, if_pos h2]
  rfl

theorem exec_completionWrite {s : State} (f : Fin 2) (q : Fin 64) (h2 : s.pdOn 2 = true) :
    exec (.completionWrite f q) s = .next (doCompletion s f.val q.val) := congrArg Host.Outcome.next (if_pos h2)

theorem exec_cqCoalesceTimeout {s : State} (f : Fin 2) (ring : CoalRing) (h2 : s.pdOn 2 = true) :
    exec (.cqCoalesceTimeout f ring) s = .next (doCoalesce s f.val ring) := congrArg Host.Outcome.next (if_pos h2)

/-- The fetch of a descriptor by the ring served (R270, R273, R277). -/
theorem doFetch_fetches {s : State} {k : Nat} (desc : BitVec 512) (h : nextSq s = some k) :
    let f := k / 64
    let r := s.sq f (k % 64)
    let next := fetchedSq s r (sqSize (s.sqCtrl f (k % 64)))
    let faults := fun (t : State) => t.cnt (Reg.HST_RING_FAULT_CNT + 0x10000 * f) = min (s.cnt (Reg.HST_RING_FAULT_CNT + 0x10000 * f) + 1) 0xFFFFFFFF
    (CqOpen s f (descCq k desc) false → (doFetch s desc false).sq f (k % 64) = next
        ∧ (doFetch s desc false).host.inFlight = s.host.inFlight ++ [{ job := descJob k desc, started := false }])
    ∧ (CqOpen s f (descCq k desc) true → Fetched s (doFetch s desc false) k { r with waitCq := some (descCq k desc) })
    ∧ (64 ≤ descCq k desc ∨ bit (s.cqCtrl f (descCq k desc)) 31 = false → Fetched s (doFetch s desc false) k next ∧ faults (doFetch s desc false))
    ∧ Fetched s (doFetch s desc true) k { r with halted := true, ahead := 0 } ∧ faults (doFetch s desc true) := by
  obtain ⟨hk, -, -⟩ := nextSq_serves h
  obtain ⟨htake, hcalm⟩ := fetched_take s k (sqSize (s.sqCtrl (k / 64) (k % 64)))
  have hev : ¬ EventReg (Reg.HST_RING_FAULT_CNT + 0x10000 * (k / 64)) :=
    not_eventReg (.inr (by simp only [Reg.HST_RING_FAULT_CNT]; omega)) (by simp only [Reg.HST_RING_FAULT_CNT]; omega)
  intro f r next faults
  refine ⟨fun hc => ?_, fun hc => ?_, fun hc => ?_, ?_⟩
  · rw [doFetch_open desc h hc, if_neg Bool.false_ne_true]
    exact ⟨htake.ring, congrArg (· ++ _) htake.flight⟩
  · rw [doFetch_open desc h hc, if_pos rfl]
    exact ⟨State.sq_setSq _ _ _ _, rfl⟩
  · rw [doFetch_discards desc h hc]
    exact fetched_ringFault htake hk (hcalm.cnt hev) _ _
  · rw [doFetch_error desc h]
    have hset : Fetched s ((served s k).setSq f (k % 64) { r with halted := true, ahead := 0 }) k { r with halted := true, ahead := 0 } :=
      ⟨State.sq_setSq _ _ _ _, rfl⟩
    exact fetched_ringFault hset hk rfl _ _

/-- Settles O40: the fetch by the ring served, the entry of a completion, and the signals, each by its cases. -/
theorem descriptorsAreFetchedAndCompletionsWritten : Obligations.DescriptorsAreFetchedAndCompletionsWritten := by
  refine ⟨fun s desc k h2 hd => ?_, fun s f q d h2 => ?_⟩
  · intro f q r j n cq k4 next faults
    refine ⟨fun h err => ?_, fun h => (nextSq_serves h).2, fun h => ?_⟩
    · rw [exec_descriptorFetch desc err h2 hd, doFetch, h]
    · obtain ⟨htakes, hwaits, hdiscards, hhalts, hcount⟩ := doFetch_fetches desc h
      refine ⟨fun h64 hb hf => ⟨_, exec_descriptorFetch desc false h2 hd, htakes ⟨h64, hb, hf⟩⟩, fun h64 hb hf => ⟨_, exec_descriptorFetch desc false h2 hd, ?_⟩,
        fun hc => ⟨_, exec_descriptorFetch desc false h2 hd, ?_⟩, _, exec_descriptorFetch desc true h2 hd, hhalts.ring, hhalts.flight, hcount⟩
      · have hw := hwaits ⟨h64, hb, hf⟩
        exact ⟨hw.ring, hw.flight⟩
      · obtain ⟨hw, hn⟩ := hdiscards hc
        exact ⟨hw.ring, hw.flight, hn⟩
  · intro c r n at_ oldest
    refine ⟨fun ho hb hf => ⟨_, exec_completionWrite f q h2, ?_⟩, fun h => ?_, fun hb hi hs => ⟨_, exec_cqCoalesceTimeout f (.cq q) h2, ?_⟩,
      fun w => fun hb hi hs => ⟨_, exec_cqCoalesceTimeout f (.evq w) h2, ?_⟩⟩
    · obtain ⟨hdone, hcq, hlog, hfull⟩ := doCompletion_entry (d := d) ho hb hf
      obtain ⟨hhead, htail, hphase, -⟩ := ringIrq_rec State.signal (entryOut s f.val q.val d) f.val c (ringAdvance n r)
      rw [hcq]
      have hh : (entryIrq s f.val q.val d).1.head = r.head := hhead
      have ht : (entryIrq s f.val q.val d).1.tail = (r.tail + 1) % n := htail
      rw [hh, ht] at hfull
      refine ⟨hdone, ht, hh, hphase, hfull, fun hg => mem_news ?_⟩
      rwa [entryOut_gateway hg] at hlog
    · rw [exec_completionWrite f q h2, doCompletion_waits h]
    · rw [show doCoalesce s f.val (.cq q) = cqSignal s f.val q.val 1 from rfl, cqSignal_signals hb hi hs]
      have hk : QueuesKept _ _ := .of_frame (frame_signal (s.setCq f.val q.val { r with since := 0 }) f.val (bits c 21 16)) (by decide)
      refine ⟨(hk.cq_eq _ _).trans (State.cq_setCq _ _ _ _), fun hg hm => mem_news ?_⟩
      have hg' : (s.setCq f.val q.val { r with since := 0 }).isGateway = true := hg
      rw [State.signal, signalR, if_pos hg', msixSignal_out (by exact hm)]
      exact List.suffix_refl _
    · have hsig := evqSignal_signals (s := s) (f := f.val) (w := w.val) hb hi hs
      have hk : (msixSignal (s.setEvq w.val f.val { s.evqRec w.val f.val with since := 0 }) f.val
          (bits (s.reg (evqOff w.val f.val Reg.HST_EVQ_CTRL)) 21 16)).host.evq = _ :=
        ((frame_msixSignal (List.Subset.refl _) (.refl _ _)).keep .rings (by decide)).2.2.1
      rw [show doCoalesce s f.val (.evq w) = evqSignal s w.val f.val 1 from rfl, hsig, hk]
      refine ⟨State.setEvq_get? _ _ _ _, fun hm => mem_news ?_⟩
      rw [msixSignal_out (by exact hm)]
      exact List.suffix_refl _

end Sys2Proof.Machine

/-! SUPPORT. BOOTSTRAP_WINDOW_WRITE by PF1 on a gateway that is in DORMANT with PD2 on. -/

namespace Sys2Proof.Machine

/-- A DORMANT_ENTER that allows the PCIe wake source and has been posted. -/
def pcieWake : DormRec :=
  { job := { org := .ring 0 0, desc := 0 }, wake := 4, links := 0, caps := [], posted := true, dead := false, image := none, events := [] }

/-- A gateway in DORMANT whose PD2 is on and that a TLP may wake. -/
def litSleeper : State :=
  { State.reset with
    sys := { State.reset.sys with
      mode := .dormant, ready := 1, dorm := some pcieWake
      power := { State.reset.sys.power with on := 5 } } }

/-- The TLP wakes it (R401). -/
theorem litSleeper_wakes : (windowWrite litSleeper .pf1 0 4 0).sys.mode = .bringup := by
  decide +kernel

/-- Refutes O55: a write of the bootstrap window by PF1 stores nothing, but it is a TLP as well, and on litSleeper, a gateway in DORMANT, it is the
PCIe wake source: the device leaves DORMANT, where the clause for accessors that the window does not serve leaves the state as it was. -/
theorem not_resetsLeaveAndBringUpRuns : ¬ Obligations.ResetsLeaveAndBringUpRuns := by
  rintro ⟨-, h⟩
  obtain ⟨-, -, hunserved, -⟩ := h litSleeper .pf1 0 4 0 0 (by decide)
  have he : exec (.bootstrapWindowWrite .pf1 0 4 0) litSleeper = .next litSleeper := hunserved (.inl rfl) rfl (by decide) (by decide) (by decide)
  have hw : windowWrite litSleeper .pf1 0 4 0 = litSleeper := Host.Outcome.next.inj he
  have hmode : Mode.bringup = Mode.dormant := litSleeper_wakes.symm.trans (congrArg (fun s => s.sys.mode) hw)
  exact absurd hmode (by decide)

end Sys2Proof.Machine

/-! SUPPORT. FENCE, MEM_WRITE and MEM_READ: transfers that no check refuses, and the requests that carry a host write of a claimed device. -/

namespace Sys2Proof.Machine

/-! ## Transfers of a master that the MPU allows (R295, R336) -/

/-- The controller takes what it took at s: since then it changed memory and what segments are asked for at most. -/
structure Taking (s u : State) : Prop where
  frame  : Frame [.dram, .mem] s u
  frozen : u.dram.frozen = none
  awake  : u.dram.selfRefresh = false
  usable : u.usable = s.usable

theorem Taking.refl {s : State} (hf : s.dram.frozen = none) (ha : s.dram.selfRefresh = false) : Taking s s := ⟨.refl _ s, hf, ha, rfl⟩

theorem Taking.askSeg {s u : State} (h : Taking s u) (a : Nat) : Taking s (u.askSeg a) := by
  have hf : Frame [.dram, .mem] s (u.askSeg a) := h.frame.trans (frame_State_askSeg (by decide) (.refl _ u))
  unfold State.askSeg at hf ⊢
  extract_lets at hf ⊢
  split_ifs at hf ⊢
  · exact h
  · exact ⟨hf, h.frozen, h.awake, h.usable⟩

theorem Taking.store {s u : State} (h : Taking s u) (m : List Host.Cell) : Taking s { u with mem := m } :=
  ⟨.mem (by decide) h.frame, h.frozen, h.awake, h.usable⟩

theorem Taking.mpuOk {s u : State} (h : Taking s u) (mid a n : Nat) : mpuOk u mid a n = mpuOk s mid a n :=
  mpuOk_mpu (h.frame.keep .mpu (by decide)) mid a n

section
variable {s u : State} {mid a : Nat}

theorem Taking.rdBlock (h : Taking s u) {n : Nat} (hok : Machine.mpuOk s mid a n = true) (ha : a < s.usable) :
    u.rdBlock mid a n = (memRead u.mem a n, u.askSeg a, true) := by
  have hlt : a < u.usable := by rw [h.usable]; exact ha
  simp [State.rdBlock, h.mpuOk, hok, h.frozen, h.awake, hlt]

theorem Taking.wrBlock (h : Taking s u) {d : List Byte} (hok : Machine.mpuOk s mid a d.length = true) (ha : a < s.usable) :
    u.wrBlock mid a d = (({ u with mem := memWrite u.mem a d }).askSeg a, true) := by
  have hlt : a < u.usable := by rw [h.usable]; exact ha
  simp [State.wrBlock, h.mpuOk, hok, h.frozen, h.awake, hlt]

end

/-! ## Bytes read in pieces -/

theorem memRead_add (m : List Host.Cell) (a n k : Nat) : memRead m a (n + k) = memRead m a n ++ memRead m (a + n) k := by
  induction n generalizing a with
  | zero => simp [memRead]
  | succ n ih =>
    rw [Nat.add_right_comm, memRead, ih, memRead, List.cons_append]
    congr 3
    omega

theorem memRead_drop_take (m : List Host.Cell) (a n o k : Nat) : ((memRead m a n).drop o).take k = memRead m (a + o) (min k (n - o)) := by
  by_cases ho : n ≤ o
  · rw [List.drop_of_length_le (by rw [memRead_length]; exact ho), show n - o = 0 by omega]
    simp [memRead]
  · have hn : n = o + (min k (n - o) + (n - o - min k (n - o))) := by omega
    conv_lhs => rw [hn, memRead_add, List.drop_left' (memRead_length _ _ _), memRead_add]
    by_cases hk : k ≤ n - o
    · rw [Nat.min_eq_left hk, List.take_left' (memRead_length _ _ _)]
    · rw [Nat.min_eq_right (by omega), Nat.sub_self, memRead, List.append_nil, List.take_of_length_le (by rw [memRead_length]; omega)]

section
variable {s : State} {mid a : Nat}

/-- A read that the MPU allows gives the bytes that memory holds. -/
theorem memRd_allowed {len : Nat} (hf : s.dram.frozen = none) (hr : s.dram.selfRefresh = false) (hd : firstDenied s mid a len = none)
    (hu : a + len ≤ s.usable) : ∃ u, s.memRd mid a len = (memRead s.mem a len, u, true) ∧ Frame [.dram] s u := by
  have hall := foldl_blocksOf (addr := a) (off := 0) (x := (([], s, true) : List Byte × State × Bool)) (f := fun e p =>
      (e.1 ++ (e.2.1.rdBlock mid (a + p.1) p.2).1, (e.2.1.rdBlock mid (a + p.1) p.2).2.1, e.2.2 && (e.2.1.rdBlock mid (a + p.1) p.2).2.2))
    (P := fun o e => e.1 = memRead s.mem a o ∧ e.2.2 = true ∧ Taking s e.2.1 ∧ Frame [.dram] s e.2.1) (Nat.le_succ len)
    ⟨rfl, rfl, .refl hf hr, .refl _ s⟩ ?_
  · rw [Nat.zero_add] at hall
    obtain ⟨h1, h2, -, h4⟩ := hall
    exact ⟨_, Prod.ext h1 (Prod.ext rfl h2), h4⟩
  rintro ⟨o, k⟩ hp ⟨b, u, ok⟩ ⟨rfl, rfl, ht, hfr⟩
  have hin := blocksOf_within _ _ _ _ _ hp
  have hpos := blocksOf_pos _ _ _ _ _ hp
  dsimp only at hin hpos ht hfr ⊢
  rw [ht.rdBlock (block_allowed hd hp) (by omega)]
  have hm : u.mem = s.mem := hfr.mem_eq (by decide)
  exact ⟨by rw [hm, memRead_add], rfl, ht.askSeg _, hfr.trans (frame_State_askSeg (List.Subset.refl _) (.refl _ u))⟩

/-- The bytes of d up to o + k stand in memory behind the store of its piece at o, where those before it stood. -/
theorem memGet_piece {m m' : List Host.Cell} {d : List Byte} {o k : Nat} (hm : Memory.wf m' = true) (hin : o + k ≤ 0 + d.length)
    (h : ∀ x, memGet m' x = if a ≤ x ∧ x < a + o then d.getD (x - a) 0 else memGet m x) (x : Nat) :
    memGet (memWrite m' (a + o) ((d.drop o).take k)) x = if a ≤ x ∧ x < a + (o + k) then d.getD (x - a) 0 else memGet m x := by
  have hlen : ((d.drop o).take k).length = k := by
    rw [List.length_take, List.length_drop]
    omega
  rw [memGet_memWrite _ _ _ _ hm, hlen, h]
  by_cases hx : a + o ≤ x ∧ x < a + o + k
  · have e : o + (x - (a + o)) = x - a := by omega
    rw [if_pos hx, if_pos (by omega), List.getD_eq_getElem?_getD, List.getElem?_take_of_lt (by omega), List.getElem?_drop, e,
      List.getD_eq_getElem?_getD]
  · rw [if_neg hx]
    exact if_congr (by omega) rfl rfl

/-- A store that the MPU allows puts its bytes into memory, and no others. -/
theorem memWr_stores {d : List Byte} (hm : MemOk s) (hf : s.dram.frozen = none) (hr : s.dram.selfRefresh = false)
    (hd : firstDenied s mid a d.length = none) (hu : a + d.length ≤ s.usable) (x : Nat) :
    memGet (s.memWr mid a d).1.mem x = if a ≤ x ∧ x < a + d.length then d.getD (x - a) 0 else memGet s.mem x := by
  have hall := foldl_blocksOf (addr := a) (off := 0) (x := (s, true)) (f := fun e p =>
      ((e.1.wrBlock mid (a + p.1) ((d.drop p.1).take p.2)).1, e.2 && (e.1.wrBlock mid (a + p.1) ((d.drop p.1).take p.2)).2))
    (P := fun o e => Taking s e.1 ∧ MemOk e.1
      ∧ ∀ x, memGet e.1.mem x = if a ≤ x ∧ x < a + o then d.getD (x - a) 0 else memGet s.mem x) (Nat.le_succ d.length)
    ⟨.refl hf hr, hm, fun x => by rw [if_neg (by omega)]⟩ ?_
  · rw [Nat.zero_add] at hall
    exact hall.2.2 x
  rintro ⟨o, k⟩ hp ⟨u, ok⟩ ⟨ht, hok, hx⟩
  have hin := blocksOf_within _ _ _ _ _ hp
  have hpos := blocksOf_pos _ _ _ _ _ hp
  dsimp only at hin hpos ht hok hx ⊢
  have hlen : ((d.drop o).take k).length = k := by
    rw [List.length_take, List.length_drop]
    omega
  rw [ht.wrBlock (by rw [hlen]; exact block_allowed hd hp) (by omega)]
  refine ⟨(ht.store _).askSeg _, ?_, fun x => ?_⟩
  · rw [MemOk, askSeg_mem]
    exact memWrite_wf _ _ _ hok
  · rw [askSeg_mem]
    exact memGet_piece hok hin.2 hx x

end

/-! ## MEM_WRITE (R282, R283) -/

/-- The range of a copy whose checks pass is allowed and exists, and it holds a byte. -/
theorem copy_allowed {s : State} {j : Job} {sp : CmdSpec} {w : Bool} (h : firstRefusal s j sp = none) (ho : sp.own = copyChecks s j w) :
    firstDenied s j.mid (j.n 24 8) (j.n 20 4) = none ∧ j.n 24 8 + j.n 20 4 ≤ s.usable ∧ 0 < j.n 20 4 := by
  have hown := own_passes h
  rw [ho] at hown
  have hform := chk_eq_none.mp (hown _ List.mem_cons_self)
  have huse := chk_eq_none.mp (hown _ (List.mem_cons_of_mem _ (List.mem_cons_of_mem _ List.mem_cons_self)))
  have hmpu := hown (chkMpu s j.mid (j.n 24 8) (j.n 20 4) w) (by simp [copyChecks])
  simp only [Bool.or_eq_false_iff, decide_eq_false_iff_not] at hform huse
  refine ⟨?_, by omega, by omega⟩
  unfold chkMpu at hmpu
  split at hmpu
  · cases hmpu
  · assumption

/-- What the bytes of a MEM_WRITE change on their way in, its completion left out. -/
abbrev copyParts : List Part := [.regs, .evSeq, .out, .dorm, .rings, .irq, .rate, .localQ, .links, .exch, .mem, .dram, .surf, .fum]

/-- The bytes of an admitted MEM_WRITE go into memory, and it completes with their number. -/
theorem memCopyIn_allowed {s u : State} {c : Cmd} {data : List Byte} (hu : Frame [.out] (begun s c) u) (hm : MemOk s)
    (hf : s.dram.frozen = none) (hr : s.dram.selfRefresh = false) (hl : data.length = c.job.n 20 4)
    (hd : firstDenied (begun s c) c.job.mid (c.job.n 24 8) (c.job.n 20 4) = none) (hs : c.job.n 24 8 + c.job.n 20 4 ≤ s.usable) :
    let t := memCopyIn u c.job data
    Ends s t c .done 0 (c.job.n 20 4)
      ∧ ∀ x, memGet t.mem x = if c.job.n 24 8 ≤ x ∧ x < c.job.n 24 8 + c.job.n 20 4 then data.getD (x - c.job.n 24 8) 0 else memGet s.mem x := by
  have hdram : u.dram = s.dram := hu.keep .dram (by decide)
  have hmem : u.mem = s.mem := hu.keep .mem (by decide)
  have husable : u.usable = s.usable := by simp only [State.usable, hdram]
  have hden : firstDenied u c.job.mid (c.job.n 24 8) data.length = none := by rw [hl, firstDenied_frame hu (by decide), hd]
  have hstore := memWr_stores (s := u) (mid := c.job.mid) (by rw [MemOk, hmem]; exact hm) (by rw [hdram, hf]) (by rw [hdram, hr]) hden
    (by rw [hl, husable]; exact hs)
  have htill : u.memWrTill c.job.mid (c.job.n 24 8) data = ((u.memWr c.job.mid (c.job.n 24 8) data).1, true) :=
    Prod.ext (by simp only [State.memWrTill, hden]) (memWrTill_allowed hden)
  have e : memCopyIn u c.job data =
      (hostPublish (u.memWr c.job.mid (c.job.n 24 8) data).1 (c.job.n 24 8) (c.job.n 20 4)).finish c.job .done 0 (c.job.n 20 4) := by
    rw [memCopyIn, htill]
    rfl
  have hfr : Frame copyParts (begun s c) (hostPublish (u.memWr c.job.mid (c.job.n 24 8) data).1 (c.job.n 24 8) (c.job.n 20 4)) :=
    frame_hostPublish (by decide) (frame_State_memWr (by decide) (hu.mono (by decide)))
  have hpub : (hostPublish (u.memWr c.job.mid (c.job.n 24 8) data).1 (c.job.n 24 8) (c.job.n 20 4)).mem = (u.memWr c.job.mid (c.job.n 24 8) data).1.mem :=
    (frame_hostPublish (List.Subset.refl _) (.refl _ _)).mem_eq (by decide)
  intro t
  refine ⟨by rw [show t = _ from e]; exact hfr.finish_ends (by decide), fun x => ?_⟩
  rw [show t = _ from e, finish_mem, hpub, hstore, hl, hmem]

section
variable {s : State} {c : Cmd} {buf : List Byte} (hs : Starts s (.memWrite c buf) c) (ha : Admits s c (fun s j => memWriteSpec s j))
include hs ha

/-- What an admitted MEM_WRITE does. -/
theorem exec_memWrite : exec (.memWrite c buf) s = .next (
    if c.job.n 16 1 = 1 then (begun s c).hostFetch c.job [(c.job.n 32 8, c.job.n 20 4)] buf (fun s b => memCopyIn s c.job (slice b 0 (c.job.n 20 4)))
    else memCopyIn (begun s c) c.job (c.job.bytes 32 (c.job.n 20 4))) :=
  congrArg Host.Outcome.next (gate_acts (run := fun s j => doMemWrite s j buf) (sp := fun s j => memWriteSpec s j)
    (act := fun s => if c.job.n 16 1 = 1 then
        s.hostFetch c.job [(c.job.n 32 8, c.job.n 20 4)] buf (fun s b => memCopyIn s c.job (slice b 0 (c.job.n 20 4)))
      else memCopyIn s c.job (c.job.bytes 32 (c.job.n 20 4))) hs ha (fun _ => rfl))

/-- R282, R283: the bytes that are there go into memory at once. -/
theorem memWrite_stores (hm : MemOk s) (hf : s.dram.frozen = none) (hr : s.dram.selfRefresh = false) (hb : c.job.n 16 1 = 0 ∨ BytesHere s) :
    let data := if c.job.n 16 1 = 1 then hostData s buf (c.job.n 20 4) else c.job.bytes 32 (c.job.n 20 4)
    ∃ t, exec (.memWrite c buf) s = .next t ∧ Ends s t c .done 0 (c.job.n 20 4)
      ∧ ∀ x, memGet t.mem x = if c.job.n 24 8 ≤ x ∧ x < c.job.n 24 8 + c.job.n 20 4 then data.getD (x - c.job.n 24 8) 0 else memGet s.mem x := by
  obtain ⟨hd, husable, -⟩ := copy_allowed (w := true) ha rfl
  refine ⟨_, exec_memWrite hs ha, ?_⟩
  by_cases h1 : c.job.n 16 1 = 1
  · obtain ⟨u, b, e, hu, hslice⟩ := hostFetch_here (s := begun s c) (hb.resolve_left (by omega)) c.job (c.job.n 32 8) (c.job.n 20 4) buf
      (fun s b => memCopyIn s c.job (slice b 0 (c.job.n 20 4)))
    rw [if_pos h1, if_pos h1, e, hslice]
    refine memCopyIn_allowed hu hm hf hr ?_ hd husable
    rw [← hslice, slice_length]
  · rw [if_neg h1, if_neg h1]
    exact memCopyIn_allowed (.refl _ _) hm hf hr (leBytes_length _ _) hd husable

/-- R129: on a claimed device the bytes of a host buffer are waited for. -/
theorem memWrite_awaits (h1 : c.job.n 16 1 = 1) (hg : s.isGateway = false) (hc : s.fab.claimed = true) :
    ∃ t, exec (.memWrite c buf) s = .next t ∧ t.mem = s.mem ∧ Awaits s t c := by
  obtain ⟨u, e, hu⟩ := hostFetch_claimed (s := begun s c) hg hc c.job (c.job.n 32 8) (c.job.n 20 4) buf
    (fun s b => memCopyIn s c.job (slice b 0 (c.job.n 20 4)))
  refine ⟨_, exec_memWrite hs ha, ?_⟩
  rw [if_pos h1, e]
  have hdma : u.host.dma = s.host.dma := hu.keep .dma (by decide)
  exact ⟨hu.mem_eq (by decide), hu.keep .done (by decide), hu.keep .inFlight (by decide), congrArg (· ++ _) hdma⟩

end

/-! ## MEM_READ where no request carries the bytes (R131) -/

section
variable {s : State} {c : Cmd} (hs : Starts s (.memRead c) c) (ha : Admits s c (fun s j => memReadSpec s j)) (hf : s.dram.frozen = none)
  (hr : s.dram.selfRefresh = false)
include hs ha hf hr

/-- An admitted MEM_READ reads its bytes and writes them to the host. -/
theorem exec_memRead : ∃ u, Frame [.dram] (begun s c) u ∧ exec (.memRead c) s = .next
    ((u.hostWriteFor c.job (c.job.n 32 8) (memRead s.mem (c.job.n 24 8) (c.job.n 20 4))).finishDma c.job .done 0 (c.job.n 20 4)) := by
  obtain ⟨hd, husable, -⟩ := copy_allowed (w := false) ha rfl
  obtain ⟨u, hrd, hu⟩ := memRd_allowed (s := begun s c) hf hr hd husable
  refine ⟨u, hu, congrArg Host.Outcome.next ((gate_acts (run := fun s j => doMemRead s j) (sp := fun s j => memReadSpec s j)
    hs ha (fun _ => rfl)).trans ?_)⟩
  dsimp only
  rw [hrd]
  rfl

/-- On a gateway the bytes go out, on a device without a domain they are dropped. -/
theorem memRead_here (hb : BytesHere s) (ho : dmaOpen s c.job = false) :
    ∃ t, exec (.memRead c) s = .next t ∧ Ends s t c .done 0 (c.job.n 20 4) ∧ t.mem = s.mem
      ∧ (s.isGateway = true → Out.hostWrite c.pf.val (c.job.n 32 8) (memRead s.mem (c.job.n 24 8) (c.job.n 20 4)) ∈ news s t) := by
  obtain ⟨u, hu, e⟩ := exec_memRead hs ha hf hr
  have hgw : u.isGateway = (begun s c).isGateway := gateway_of_frame hu (by decide)
  have hclaim : u.fab.claimed = s.fab.claimed := (hu.keep .domain (by decide)).2.1
  have hbu : BytesHere u := by rw [BytesHere, hgw, hclaim]; exact hb
  have hreqs : u.fab.reqs = s.fab.reqs := (hu.keep .mgmt (by decide)).1
  have hw := hostWriteFor_here hbu c.job (c.job.n 32 8) (memRead s.mem (c.job.n 24 8) (c.job.n 20 4))
  have hopen : dmaOpen (u.hostWriteFor c.job (c.job.n 32 8) (memRead s.mem (c.job.n 24 8) (c.job.n 20 4))) c.job = false := by
    refine (dmaOpen_congr ?_ c.job).trans ho
    rw [hw]
    split <;> exact hreqs
  rw [finishDma_closed hopen, hw] at e
  have hfr : Frame [.dram, .out] (begun s c) (if u.isGateway then
      u.emit (.hostWrite c.job.pf (c.job.n 32 8) (memRead s.mem (c.job.n 24 8) (c.job.n 20 4))) else u) :=
    .ite (frame_State_emit (by decide) (hu.mono (by decide))) (hu.mono (by decide))
  refine ⟨_, e, hfr.finish_ends (by decide), (finish_mem _ _ _ _ _).trans (hfr.mem_eq (by decide)), fun hg => ?_⟩
  rw [if_pos (hgw.trans hg)]
  have hout : u.out = s.out := hu.keep .out (by decide)
  have hlog := (keeps_State_finish (v1 := c.job) (v2 := .done) (v3 := 0) (v4 := c.job.n 20 4)
    (.refl (u.emit (.hostWrite c.job.pf (c.job.n 32 8) (memRead s.mem (c.job.n 24 8) (c.job.n 20 4)))))).log
  rw [State.emit_out, hout] at hlog
  exact mem_news hlog

end

/-! ## The requests that carry a host write of a claimed device (R127 to R129) -/

/-- The requester of a key holds a request of which P is true. -/
def Issued (s : State) (key : Nat) (P : MReq → Prop) : Prop := ∃ r ∈ (s.requester key).open_ ++ (s.requester key).wait, P r

theorem Issued.congr {s t : State} {key : Nat} {P : MReq → Prop} (h : Issued s key P) (e : t.fab.reqs = s.fab.reqs) : Issued t key P := by
  simpa only [Issued, State.requester, e] using h

/-- A request issued stays while others are issued. -/
theorem Issued.mgmtIssue {s : State} {k : Nat} {P : MReq → Prop} (h : Issued s k P) (key : Nat) (r : MReq) :
    Issued (mgmtIssue State.raise s key r) k P := by
  obtain ⟨q, hq, hold, -⟩ := mgmtIssue_reqs s key r
  refine Issued.congr (s := s.setRequester key q) ?_ hq
  unfold Issued
  rw [requester_setRequester]
  split
  · next e =>
    subst e
    obtain ⟨x, hx, hp⟩ := h
    exact ⟨x, hold x hx, hp⟩
  · exact h

theorem Issued.dmaWrites {s : State} {k : Nat} {P : MReq → Prop} (h : Issued s k P) (cmd : Option Job) (n pf addr : Nat) (data : List Byte) :
    Issued (dmaWrites State.raise cmd n s pf addr data) k P := by
  induction n generalizing s addr data with
  | zero => exact h
  | succ n ih =>
    rw [Machine.dmaWrites]
    split
    · exact h
    · exact ih (h.mgmtIssue _ _) _ _

/-- A request as its requester holds it: its packet has a SEQ, and RESYNC in its FLAGS where the requester asks for that. -/
def Held (r x : MReq) : Prop :=
  ∃ (seq sent : Nat) (p : Packet), (p.data = r.pkt.data ∨ p.data = orByte r.pkt.data 1 4) ∧ x = { r with seq := seq, pkt := p, sent := sent }

/-- A packet as its requester sends it (R128). -/
def issuedPkt (q : MRequester) (p : Packet) : Packet :=
  let p := p.withSeq q.next
  if q.resync then { p with data := orByte p.data (p.bodyOff + 1) 4 } else p

theorem withSeq_data : ∀ (p : Packet) (q : Nat), (p.withSeq q).data = p.data
  | ⟨_, d⟩, _ => (rfl : d = d)

theorem issuedPkt_data {q : MRequester} {p : Packet} (h : ∀ n, (p.withSeq n).bodyOff = 0) :
    (issuedPkt q p).data = p.data ∨ (issuedPkt q p).data = orByte p.data 1 4 := by
  unfold issuedPkt
  dsimp only
  rw [h]
  split
  · exact .inr (by rw [withSeq_data])
  · exact .inl (withSeq_data p _)

/-- A request that is outstanding at once. -/
def issuedReq (s : State) (q : MRequester) (r : MReq) : MReq := { r with seq := q.next, pkt := issuedPkt q r.pkt, sent := s.clk }

theorem mgmtIssue_open {s : State} {key : Nat} (r : MReq) (h : (s.requester key).open_.length < 32) :
    ∃ q, q.open_ = (s.requester key).open_ ++ [issuedReq s (s.requester key) r]
      ∧ mgmtIssue State.raise s key r = routeWith State.raise (s.setRequester key q) none (issuedPkt (s.requester key) r.pkt) := by
  unfold mgmtIssue
  dsimp only
  rw [if_pos h]
  exact ⟨_, rfl, rfl⟩

theorem issued_mgmtIssue (s : State) (key : Nat) {r : MReq} (hoff : ∀ q, (r.pkt.withSeq q).bodyOff = 0) :
    Issued (mgmtIssue State.raise s key r) key (Held r) := by
  by_cases h : (s.requester key).open_.length < 32
  · obtain ⟨q, hq, e⟩ := mgmtIssue_open r h
    rw [e]
    refine Issued.congr (s := s.setRequester key q) ?_ (routeWith_reqs _ _)
    unfold Issued
    rw [requester_setRequester, if_pos rfl, hq]
    exact ⟨issuedReq s (s.requester key) r, List.mem_append_left _ (List.mem_append_right _ (List.mem_singleton_self _)), _, _, _,
      issuedPkt_data hoff, rfl⟩
  · have e : mgmtIssue State.raise s key r = s.setRequester key { s.requester key with wait := (s.requester key).wait ++ [r] } := if_neg h
    unfold Issued
    rw [e, requester_setRequester, if_pos rfl]
    exact ⟨r, List.mem_append_right _ (List.mem_append_right _ (List.mem_singleton_self _)), r.seq, r.sent, r.pkt, .inl rfl, rfl⟩

/-- A DMA_WR of the command that carries these bytes for this host address. -/
structure Writes (j : Job) (addr : Nat) (data : List Byte) (r : MReq) : Prop where
  cmd  : r.cmd = some j
  type : fieldAt r.pkt.data 0 1 = 9
  addr : fieldAt r.pkt.data 8 8 = addr % 2 ^ 64
  data : slice r.pkt.data 16 data.length = data

/-- A byte outside a slice does not show in it. -/
theorem slice_set {b : List Byte} {i off n : Nat} (x : Byte) (h : i < off ∨ off + n ≤ i) : slice (b.set i x) off n = slice b off n := by
  have e : ((b.set i x).drop off).take n = (b.drop off).take n := by
    rw [List.drop_set]
    split
    · rfl
    · exact List.take_set_of_le (by omega)
  simp only [slice, e]

theorem Writes.of_data {j : Job} {addr : Nat} {d b : List Byte} {r : MReq} (hc : r.cmd = some j)
    (hr : r.pkt.data = b ∨ r.pkt.data = orByte b 1 4) (ht : fieldAt b 0 1 = 9) (ha : fieldAt b 8 8 = addr % 2 ^ 64) (hd : slice b 16 d.length = d) :
    Writes j addr d r := by
  rcases hr with e | e
  · exact ⟨hc, by rw [e, ht], by rw [e, ha], by rw [e, hd]⟩
  · have hs : ∀ off n, off + n ≤ 1 ∨ 1 < off → slice r.pkt.data off n = slice b off n := fun off n h => by
      rw [e, orByte]
      exact slice_set _ (by omega)
    exact ⟨hc, by rw [fieldAt, hs _ _ (by omega)]; exact ht, by rw [fieldAt, hs _ _ (by omega)]; exact ha, by rw [hs _ _ (by omega), hd]⟩

/-- What stands in the data of a DMA_WR. -/
theorem dmaWr_body (fl len addr : Nat) (d : List Byte) :
    let b := pad4 (mgmtBody 9 fl 0 len addr d)
    fieldAt b 0 1 = 9 ∧ fieldAt b 8 8 = addr % 2 ^ 64 ∧ slice b 16 d.length = d := by
  intro b
  have e : b = (leBytes 1 9 ++ leBytes 1 fl ++ leBytes 1 0 ++ leBytes 1 0 ++ leBytes 4 len) ++ (leBytes 8 addr
      ++ (d ++ List.replicate ((4 - (mgmtBody 9 fl 0 len addr d).length % 4) % 4) 0)) := by
    simp only [b, pad4, mgmtBody, List.append_assoc]
  have e' : b = (leBytes 1 9 ++ leBytes 1 fl ++ leBytes 1 0 ++ leBytes 1 0 ++ leBytes 4 len ++ leBytes 8 addr)
      ++ (d ++ List.replicate ((4 - (mgmtBody 9 fl 0 len addr d).length % 4) % 4) 0) := by
    rw [e, List.append_assoc _ (leBytes 8 addr)]
  refine ⟨mgmtBody_type (pre := []) rfl, ?_, ?_⟩
  · rw [e, fieldAt_middle addr (by simp)]
    norm_num
  · rw [e', slice, List.drop_left' (by simp), List.take_left' rfl]
    simp

/-- A new SEQ lies below the bit that makes a packet directed. -/
theorem div_newSeq (x q : Nat) : (x - x / 2 ^ 48 % 2 ^ 16 * 2 ^ 48 + q % 65536 * 2 ^ 48) / 2 ^ 81 = x / 2 ^ 81 := by
  omega

theorem withSeq_directed (p : Packet) (q : Nat) : (p.withSeq q).directed = p.directed := by
  obtain ⟨hdr, data⟩ := p
  have h := hdr.isLt
  have hq := div_newSeq hdr.toNat q
  simp only [Packet.withSeq, Packet.directed, bit, bits, BitVec.toNat_ofNat, Nat.testBit_eq_decide_div_mod_eq, Nat.shiftRight_eq_div_pow,
    Nat.reduceAdd, Nat.reduceSub] at hq ⊢
  refine decide_eq_decide.mpr ?_
  omega

section
variable {s : State} {j : Job} (pf : Nat)

/-- A DMA_WR of the command, issued, is held with its bytes. -/
theorem issued_dmaRequest (s : State) (j : Job) (addr len : Nat) (d : List Byte) :
    Issued (dmaRequest State.raise s pf 9 addr len d (some j) none) (mgmtKey 1 s.domain) (Writes j addr d) := by
  unfold dmaRequest
  extract_lets dom p
  have hoff : ∀ q, (p.withSeq q).bodyOff = 0 := fun q => by
    have hdir : p.directed = false := mkPacket_directed _ _ _ _ _ _ _ _
    rw [Packet.bodyOff, withSeq_directed, hdir, if_neg Bool.false_ne_true]
  obtain ⟨htype, haddr, hdata⟩ := dmaWr_body (b2n (pf == 0)) len addr d
  obtain ⟨x, hx, seq, sent, q, hq, rfl⟩ := issued_mgmtIssue s (mgmtKey 1 dom)
    (r := { seq := 0, pkt := p, tries := 0, sent := s.clk, win := 0, isRead := 9 == 8, cmd := some j, reader := none }) hoff
  exact ⟨_, hx, .of_data (b := pad4 (mgmtBody 9 (b2n (pf == 0)) 0 len addr d)) rfl hq htype haddr hdata⟩

/-- The piece of every 256 bytes is a request of its own. -/
theorem issued_dmaWrites (hg : s.isGateway = false) (hc : s.fab.claimed = true) {n addr k : Nat} {d : List Byte} (hn : d.length < 256 * n)
    (hk : 256 * k < d.length) :
    Issued (dmaWrites State.raise (some j) n s pf addr d) (mgmtKey 1 s.fab.domain) (Writes j (addr + 256 * k) ((d.drop (256 * k)).take 256)) := by
  induction n generalizing s addr d k with
  | zero => omega
  | succ n ih =>
    have hne : ¬ (d.isEmpty = true) := by
      rw [List.isEmpty_iff_length_eq_zero]
      omega
    have hdom : s.domain = s.fab.domain := by simp [State.domain, hg, hc]
    have hfr : Frame hostWriteParts s (dmaRequest State.raise s pf 9 addr (min 256 d.length) (d.take 256) (some j) none) :=
      frame_dmaRequest (by decide) (fun _ _ _ h => frame_State_raise (by decide) h) (.refl _ s)
    obtain ⟨hd, hcl, -⟩ := hfr.keep .domain (by decide)
    rw [dmaWrites, if_neg hne]
    cases k with
    | zero =>
      refine Issued.dmaWrites ?_ _ _ _ _ _
      rw [← hdom]
      exact issued_dmaRequest pf s j addr (min 256 d.length) (d.take 256)
    | succ k =>
      have h := ih (addr := addr + 256) (k := k) (d := d.drop 256) ((gateway_of_frame hfr (by decide)).trans hg) (hcl.trans hc)
        (by rw [List.length_drop]; omega) (by rw [List.length_drop]; omega)
      have e1 : addr + 256 + 256 * k = addr + 256 * (k + 1) := by omega
      have e2 : 256 + 256 * k = 256 * (k + 1) := by omega
      rwa [hd, e1, List.drop_drop, e2] at h

end

/-- R129: a MEM_READ of a claimed device asks its gateway for the write, and waits for the answers. -/
theorem memRead_asks {s : State} {c : Cmd} (hs : Starts s (.memRead c) c) (ha : Admits s c (fun s j => memReadSpec s j))
    (hf : s.dram.frozen = none) (hr : s.dram.selfRefresh = false) (hg : s.isGateway = false) (hc : s.fab.claimed = true) :
    ∃ t, exec (.memRead c) s = .next t ∧ t.mem = s.mem ∧ t.host.done = s.host.done ∧ t.host.inFlight = (begun s c).host.inFlight
      ∧ t.host.dma = s.host.dma ++ [{ job := c.job, parts := [], ended := some (.done, 0, c.job.n 20 4) }]
      ∧ ∀ k, 256 * k < c.job.n 20 4 → Issued t (mgmtKey 1 s.domain) (Writes c.job (c.job.n 32 8 + 256 * k)
          (memRead s.mem (c.job.n 24 8 + 256 * k) (min 256 (c.job.n 20 4 - 256 * k)))) := by
  obtain ⟨-, -, hlen⟩ := copy_allowed (w := false) ha rfl
  obtain ⟨u, hu, e⟩ := exec_memRead hs ha hf hr
  have hgu : u.isGateway = false := Eq.trans (gateway_of_frame hu (by decide)) hg
  obtain ⟨hdu, hcu, -⟩ := hu.keep .domain (by decide)
  have hcu' : u.fab.claimed = true := hcu.trans hc
  have hdom : s.domain = u.fab.domain := by
    rw [show u.fab.domain = s.fab.domain from hdu]
    simp [State.domain, hg, hc]
  have hne : memRead s.mem (c.job.n 24 8) (c.job.n 20 4) ≠ [] := List.ne_nil_of_length_pos (by rw [memRead_length]; exact hlen)
  rw [finishDma_open (hostWriteFor_dmaOpen hgu hcu' c.job _ hne)] at e
  have hw : Frame (.dram :: hostWriteParts) (begun s c) (u.hostWriteFor c.job (c.job.n 32 8) (memRead s.mem (c.job.n 24 8) (c.job.n 20 4))) :=
    (hu.mono (by decide)).trans ((frame_hostWriteFor _ _ _ _).mono (List.subset_cons_self _ _))
  refine ⟨_, e, hw.mem_eq (by decide), hw.keep .done (by decide), hw.keep .inFlight (by decide), ?_, fun k hk => ?_⟩
  · exact congrArg (· ++ _) (hw.keep .dma (by decide))
  · have h := issued_dmaWrites (j := c.job) c.job.pf hgu hcu' (n := (memRead s.mem (c.job.n 24 8) (c.job.n 20 4)).length / 256 + 1)
      (addr := c.job.n 32 8) (k := k) (d := memRead s.mem (c.job.n 24 8) (c.job.n 20 4)) (by omega) (by rw [memRead_length]; exact hk)
    have ew : u.hostWriteFor c.job (c.job.n 32 8) (memRead s.mem (c.job.n 24 8) (c.job.n 20 4)) =
        dmaWrites State.raise (some c.job) ((memRead s.mem (c.job.n 24 8) (c.job.n 20 4)).length / 256 + 1) u c.job.pf (c.job.n 32 8)
          (memRead s.mem (c.job.n 24 8) (c.job.n 20 4)) := by
      simp only [State.hostWriteFor, hostWriteR, hgu, hcu', Bool.false_eq_true, if_false, if_true]
    rw [memRead_drop_take, ← ew, ← hdom] at h
    exact h.congr rfl

/-- Settles O12: a FENCE completes; a copy moves the bytes of a transfer that no check refuses, at once or by requests. -/
theorem fencesCompleteAndCopiesMoveBytes : Obligations.FencesCompleteAndCopiesMoveBytes := by
  refine ⟨fun s c ho hs => fence_completes ho hs, fun s c buf hm hf hr => ?_⟩
  intro j dev len
  refine ⟨fun hs ha hb => memWrite_stores hs ha hm hf hr hb, fun hs ha h1 hg hc => memWrite_awaits hs ha h1 hg hc, fun hs ha hg ho => ?_,
    fun hs ha hg hc => ?_, fun hs ha hg hc ho => ?_⟩
  · obtain ⟨t, e, hends, hmem, hout⟩ := memRead_here hs ha hf hr (.inl hg) ho
    exact ⟨t, e, hends, hmem, hout hg⟩
  · obtain ⟨t, e, hmem, hdone, hflight, hdma, hasks⟩ := memRead_asks hs ha hf hr hg hc
    refine ⟨t, e, hmem, hdone, hflight, hdma, fun k hk => ?_⟩
    obtain ⟨r, hr, hw⟩ := hasks k hk
    have hdata := hw.data
    rw [memRead_length] at hdata
    exact ⟨r, hr, hw.cmd, hw.type, hw.addr, hdata⟩
  · obtain ⟨t, e, hends, hmem, -⟩ := memRead_here hs ha hf hr (.inr hc) ho
    exact ⟨t, e, hends, hmem⟩

end Sys2Proof.Machine
